-- ==== Sys2Proof/Word.lean ====
section
/-! DEFINITION. The word types of EW-G2M-A and the two plainest containers of the model: a finite map kept as a
list of key and value pairs, and a field of a 64-bit word (R7: bits numbered from 0 at the least significant). -/

namespace Sys2Proof

abbrev Byte := BitVec 8
abbrev Half := BitVec 16
abbrev Word := BitVec 32
abbrev Long := BitVec 64

/-- A finite map by natural-number key, rising keys; an absent key reads as the caller's default. -/
abbrev FMap (α : Type) := List (Nat × α)

/-- The value at key `k`, or `d` where the map lists none. -/
def FMap.get {α : Type} : FMap α → α → Nat → α
  | [], d, _ => d
  | (j, v) :: t, d, k => if k = j then v else FMap.get t d k

/-- The map with `v` at key `k`, its keys still rising. -/
def FMap.set {α : Type} : FMap α → Nat → α → FMap α
  | [], k, v => [(k, v)]
  | (j, w) :: t, k, v =>
    if k < j then (k, v) :: (j, w) :: t
    else if k = j then (k, v) :: t
    else (j, w) :: FMap.set t k v

/-- Is key `k` listed? -/
def FMap.has {α : Type} (m : FMap α) (k : Nat) : Bool := m.any fun c => c.1 == k

/-- The map without key `k`. -/
def FMap.erase {α : Type} (m : FMap α) (k : Nat) : FMap α := m.filter fun c => c.1 != k

end Sys2Proof
end

