-- ==== Sys2Proof/Syntax.lean ====
section
/-! DEFINITION. The commands of the block: `Instr`, one constructor per row of spec/opcode_table.json, in the
table's order, and the operand records they carry. A command that makes an engine fire names the core (and the
engine): the firing unit of that core fires its oldest ready instruction for that engine (R68), whose 64-bit
operation word and bindings stand in the core's window. -/

namespace Sys2Proof

/-- A physical core, 16 × cluster + core (R21). -/
abbrev CoreId := Fin 128
abbrev ClusterId := Fin 8
/-- A link port (R23: cluster c owns ports 2c and 2c + 1). -/
abbrev PortId := Fin 16
abbrev PartId := Fin 16
abbrev StackId := Fin 8
/-- 0 the management port, 1 and 2 host ports 0 and 1. -/
abbrev NetId := Fin 3
/-- A crossing index (R513). -/
abbrev XingId := Fin 326

/-- The header fields of a control frame from the host (R403), with the port and the peer address it came from. -/
structure CmdHdr where
  port    : NetId
  ip      : BitVec 128
  version : Byte
  session : Word
  seq     : Word
  ackseq  : Word
  tag     : Word
  deriving DecidableEq, Repr

/-- A received Ethernet frame as far as R398 looks at it. -/
inductive EthFrame where
  /-- A frame with two 802.1Q tags. -/
  | doubleTagged
  /-- A frame longer than 9,216 bytes. -/
  | oversize
  /-- An IP fragment, an IPv6 extension header, multicast, TCP or another unsupported packet. -/
  | unsupportedIp
  /-- ARP, Neighbor Discovery or an ICMP echo for address `ip`. -/
  | query (ip : BitVec 128)
  /-- An IP packet with its destination address; one without is for the port's own (R398, R591). -/
  | addressed (dst : BitVec 128) (f : EthFrame)
  /-- A UDP datagram: peer address, destination port, payload bytes. -/
  | udp (peer : BitVec 128) (dport : Half) (payload : List Byte)
  /-- A RoCE v2 request other than RDMA WRITE or READ (SEND, atomics, memory windows). -/
  | roceOther (qpn : BitVec 24)
  /-- An ECN-marked RoCE packet for a QP. -/
  | roceEcn (qpn : BitVec 24)
  /-- A congestion notification for a module QP (R400). -/
  | roceCnp (qpn : BitVec 24)
  /-- The host's acknowledgement of the n oldest RDMA WRITEs that SAVEs wait for on a module QP (R452). -/
  | roceAck (qpn : BitVec 24) (n : Nat)
  /-- The host's NAK of a request on a module QP. -/
  | roceNak (qpn : BitVec 24)
  /-- A priority flow control frame: the priorities it holds back from now on. -/
  | pfc (prios : Byte)
  /-- A frame under one 802.1Q tag. -/
  | tagged (vid : BitVec 12) (f : EthFrame)
  /-- A codeword the FEC could not correct. -/
  | fecUncorrectable
  deriving DecidableEq, Repr

/-- What the rail and temperature sensors bring to the Weir at a window start (R479, R484, R488). Energies in 2^-16 mJ. -/
structure WeirMeasure where
  total    : Nat
  groups   : List Nat
  junction : Nat
  deriving DecidableEq, Repr

/-- One item of COUNTER_READ (R547). -/
structure CounterItem where
  kind  : Byte
  core  : Byte
  index : Half
  deriving DecidableEq, Repr

/-- A map entry of JOB_MAP (R460). -/
structure MapEntry where
  holder   : Half
  partner  : Half
  ckpt     : Half
  slot     : Byte
  resFrame : Word
  homeFrame : Word
  ckUnit   : Word
  deriving DecidableEq, Repr

/-- The parties whose charge may wait at the Weir (R485, R487). -/
inductive Charger where
  /-- The oldest waiting charge of a core. -/
  | core (c : CoreId)
  /-- The oldest waiting message or combine of a collective engine. -/
  | collective (c : ClusterId)
  /-- The next picture of an ingest engine. -/
  | ingest (c : ClusterId)
  deriving DecidableEq, Repr

/-- One node of a collective instance: partition, tree, call and step (R375), and the shard of the node. -/
structure InstId where
  part : PartId
  tree : Half
  call : Byte
  step : Word
  deriving DecidableEq, Repr

/-- A command of the control protocol with its body decoded (R406, R459, R499). -/
inductive CtlCmd where
  | ident
  | regRead (addr : Word)
  | regWrite (addr : Word) (v : Long)
  | regReadMulti (addrs : List Word)
  | qpConnect (hostPort : Byte) (mtu : Byte) (hostQpn hostPsn : BitVec 24) (hostIp : BitVec 128)
  | qpClose (qpn : BitVec 24)
  | imageLoad (off len : Long) (mode : Byte)
  | stageOpen (access : Byte)
  | jobModule (module : Half) (valid : Byte)
  | jobMap (part policy : Byte) (jobgen shards first : Word) (count : Half) (entries : List MapEntry)
  | jobCommit (part : Byte) (jobgen : Word)
  | jobStore (part : Byte) (qpn : BitVec 24) (rkey : Word) (base stride : Long)
  | jobResume (step : Word) (layer : Byte)
  | jobRead
  | partHalt (p : PartId)
  | partReset (p : PartId)
  | gatePost (p : PartId) (gate : Byte) (value : Word)
  | regionOpen (p : PartId) (va len : Long) (access : Byte)
  | regionClose (p : PartId) (rkey : Word)
  | counterRead (p : PartId) (items : List CounterItem)
  | meterRead
  | meterRecord (seq : Long) (off : Word)
  | meterCert (off : Word)
  /-- A mailbox that R406 does not list. -/
  | badMailbox (box : Byte)
  /-- A code that R406 does not list for the mailbox. -/
  | badCode (box : Byte)
  /-- A body whose length is wrong for the code. -/
  | badLength (box : Byte)
  deriving DecidableEq, Repr

/-- What the cartridge answers to an authentication (R569). -/
structure CartAnswer where
  body : List Byte
  sig  : List Byte
  cert : List Byte
  deriving DecidableEq, Repr

inductive Instr where
  | registerWrite (addr : Word) (size : Nat) (v : Long)
  | windowEntry (c : CoreId)
  | instructionComplete (c : CoreId) (uid : Nat)
  | tokenRouteArrival (p : PartId) (route : Nat) (dest : Nat) (step : Word) (iters : List Nat)
  | stepEnd (c : CoreId)
  | barrierCollect (p : PartId)
  | barrierRelease (p : PartId) (step : Word)
  | tjoin (c : CoreId)
  | pred (c : CoreId)
  | loop (c : CoreId)
  | heldWriteRelease (c : CoreId) (uid : Nat)
  | haltNoticeReceipt (c : CoreId)
  | mload (c : CoreId)
  | tileBufferRelease (c : CoreId) (buf : Fin 2)
  | mpass (c : CoreId)
  | mstore (c : CoreId)
  | arrayAtRest (c : CoreId)
  | vsetvl (c : CoreId) (e : Fin 2)
  | vprofile (c : CoreId) (e : Fin 2)
  | vsetrc (c : CoreId) (e : Fin 2)
  | vld (c : CoreId) (e : Fin 2)
  | vst (c : CoreId) (e : Fin 2)
  | vldx (c : CoreId) (e : Fin 2)
  | vstx (c : CoreId) (e : Fin 2)
  | vmov (c : CoreId) (e : Fin 2)
  | vmovi (c : CoreId) (e : Fin 2)
  | vadd (c : CoreId) (e : Fin 2)
  | vsub (c : CoreId) (e : Fin 2)
  | vmul (c : CoreId) (e : Fin 2)
  | vfma (c : CoreId) (e : Fin 2)
  | vdiv (c : CoreId) (e : Fin 2)
  | vmax (c : CoreId) (e : Fin 2)
  | vmin (c : CoreId) (e : Fin 2)
  | vabs (c : CoreId) (e : Fin 2)
  | vneg (c : CoreId) (e : Fin 2)
  | vand (c : CoreId) (e : Fin 2)
  | vor (c : CoreId) (e : Fin 2)
  | vxor (c : CoreId) (e : Fin 2)
  | vshl (c : CoreId) (e : Fin 2)
  | vshr (c : CoreId) (e : Fin 2)
  | vcmp (c : CoreId) (e : Fin 2)
  | vcmpc (c : CoreId) (e : Fin 2)
  | vpopc (c : CoreId) (e : Fin 2)
  | vmand (c : CoreId) (e : Fin 2)
  | vmor (c : CoreId) (e : Fin 2)
  | vmxor (c : CoreId) (e : Fin 2)
  | vmnot (c : CoreId) (e : Fin 2)
  | vcvt (c : CoreId) (e : Fin 2)
  | vperm (c : CoreId) (e : Fin 2)
  | vsldn (c : CoreId) (e : Fin 2)
  | vslup (c : CoreId) (e : Fin 2)
  | vcompress (c : CoreId) (e : Fin 2)
  | vexpand (c : CoreId) (e : Fin 2)
  | vred (c : CoreId) (e : Fin 2)
  | vext (c : CoreId) (e : Fin 2)
  | vscan (c : CoreId) (e : Fin 2)
  | vrec (c : CoreId) (e : Fin 2)
  | tensorChunkAdmission (c : CoreId) (uid : Nat)
  | sfeval (c : CoreId)
  | sfgate (c : CoreId)
  | sfrennet (c : CoreId)
  | sftable (c : CoreId)
  | slotSwap (c : CoreId) (slot : Fin 16)
  | slotReload (c : CoreId) (slot : Fin 16)
  | slotParityRewrite (c : CoreId) (slot : Fin 16)
  | rstat (c : CoreId)
  | rsmerge (c : CoreId)
  | rsfin (c : CoreId)
  | copy (c : CoreId)
  | copyTaken (cl : ClusterId)
  | g24CopyStart (cl : ClusterId)
  | sload (c : CoreId)
  | sstore (c : CoreId)
  | gather (c : CoreId)
  | scatter (c : CoreId)
  | scatterAdd (c : CoreId)
  | ownset (c : CoreId)
  | ownerChange (pool : Bool) (cl : ClusterId) (i : Fin 32)
  | vatOwnerWrite (cl : ClusterId) (i : Fin 32) (owner : BitVec 5)
  | poolOwnerWrite (cl : ClusterId) (b : Fin 16) (owner : BitVec 5)
  | memoryClearComplete (pool : Bool) (cl : ClusterId) (i : Fin 32)
  | confluenceArbitration (cl : ClusterId) (res : Fin 34) (arrivals : List (Fin 20 × Fin 6)) (withdrawn : Bool)
  | confCtrlWrite (cl : ClusterId) (v : Long)
  | confRankWrite (cl : ClusterId) (v : Long)
  /-- One granule slot of a controller; `keeper` granules of the keeper's own traffic in its working memory come to it (R320, R328). -/
  | sluiceSlot (ctrl : Fin 12) (keeper : Nat)
  | scrub (slow : Bool) (ppn : Nat)
  | stackTemperatureReport (st : StackId) (t : Byte)
  | heatLevelFall (st : StackId)
  | paceNoticeDue
  | softRepairComplete (st : StackId)
  | lpddrRefreshDerate (pkg : Fin 16)
  | sluClearGo (v : Long)
  | sluClearComplete
  | sluHeatWrite (st : StackId) (v : Long)
  | lnkEnableWrite (p : PortId) (en : Bool)
  | lnkCtrlRetrain (p : PortId)
  | lnkCtrlFull (p : PortId)
  | lnkCtrlOffer (p : PortId) (offer : BitVec 3)
  | lnkVcAllocWrite (p : PortId) (v : Long)
  | signalDetected (p : PortId)
  | laneLock (p : PortId) (pairs : BitVec 4)
  | laneLockLoss (p : PortId) (lane : Fin 8)
  | laneErrorLimit (p : PortId) (lane : Fin 8)
  | trainTimeout (p : PortId)
  | negotiateTimeout (p : PortId)
  | retrainTimeout (p : PortId)
  | portPowerOff (p : PortId)
  | trainFlitSend (p : PortId)
  | trainFlitReceive (p : PortId) (fecOk : Bool) (flit : List Byte)
  | dataFlitReceive (p : PortId) (fecOk : Bool) (flit : List Byte)
  | idleFlitReceive (p : PortId) (fecOk : Bool) (flit : List Byte)
  | ackTimer (p : PortId)
  | ackTimeout (p : PortId)
  | messageSend (i : Nat)
  | linkHealthSend (p : PortId)
  | linkHealthReceive (p : PortId)
  | pace (p : PortId)
  | paceExpiry (p : PortId)
  | coll (c : CoreId)
  | collStat (c : CoreId)
  | shuf (c : CoreId)
  | collMessageReceive (p : PortId)
  | nodeCombine (cl : ClusterId) (i : InstId) (shard : Nat)
  | collInstanceComplete (cl : ClusterId) (i : InstId) (shard : Nat)
  | collWatchdogExpiry (cl : ClusterId) (i : InstId)
  | ethFrameReceive (n : NetId) (f : EthFrame)
  | rdmaWrite (n : Fin 2) (qpn : BitVec 24) (rkey : Word) (va : Long) (data : List Byte)
  | rdmaRead (n : Fin 2) (qpn : BitVec 24) (rkey : Word) (va : Long) (len : Nat)
  | sessionOpen (n : NetId) (ip : BitVec 128) (vmask : Byte) (nonce : Long)
  | sessionClose (h : CmdHdr)
  | sessionAck (h : CmdHdr)
  | sessionIdleTimeout (sid : Word)
  | controlResendTimer (sid : Word)
  | ident (h : CmdHdr)
  | regRead (h : CmdHdr) (addr : Word)
  | regWrite (h : CmdHdr) (addr : Word) (v : Long)
  | regReadMulti (h : CmdHdr) (addrs : List Word)
  | qpConnect (h : CmdHdr) (hostPort : Byte) (mtu : Byte) (hostQpn : BitVec 24) (hostPsn : BitVec 24) (hostIp : BitVec 128)
  | qpClose (h : CmdHdr) (qpn : BitVec 24)
  | imageLoad (h : CmdHdr) (off : Long) (len : Long) (mode : Byte)
  | imageValidationComplete
  | imageCommit
  | targetRelease
  | loadAfterWarmRestart
  | stageOpen (h : CmdHdr) (access : Byte)
  | jobModule (h : CmdHdr) (module : Half) (valid : Byte)
  | jobMap (h : CmdHdr) (part policy : Byte) (jobgen shards first : Word) (count : Half) (entries : List MapEntry)
  | jobCommit (h : CmdHdr) (part : Byte) (jobgen : Word)
  | jobStore (h : CmdHdr) (part : Byte) (qpn : BitVec 24) (rkey : Word) (base stride : Long)
  | jobResume (h : CmdHdr) (step : Word) (layer : Byte)
  | jobRead (h : CmdHdr)
  | partHalt (h : CmdHdr) (p : PartId)
  | partReset (h : CmdHdr) (p : PartId)
  | gatePost (h : CmdHdr) (p : PartId) (gate : Byte) (value : Word)
  | gateInEffect (p : PartId) (gate : Fin 64)
  | regionOpen (h : CmdHdr) (p : PartId) (va len : Long) (access : Byte)
  | regionClose (h : CmdHdr) (p : PartId) (rkey : Word)
  | counterRead (h : CmdHdr) (p : PartId) (items : List CounterItem)
  | meterRead (h : CmdHdr)
  | meterRecord (h : CmdHdr) (seq : Long) (off : Word)
  | meterCert (h : CmdHdr) (off : Word)
  | hostin (c : CoreId)
  | hostsig (c : CoreId)
  | hostPortDown (n : Fin 2)
  | ingest (c : CoreId)
  | ingestTaken (cl : ClusterId)
  | ingestPicture (cl : ClusterId)
  | lsupdatePrepare (c : CoreId)
  | lsupdateDecide (c : CoreId)
  | ferry (c : CoreId)
  | ferryBlockCopied (p : PartId) (block : Nat)
  | ferryExportEnd (p : PartId)
  | ferryAbort (p : PartId)
  | xsend (c : CoreId)
  | xrecv (c : CoreId)
  | saveMirror (c : CoreId)
  | mirrorGateOpen (c : CoreId) (uid : Nat)
  | saveCartridge (c : CoreId)
  | saveStore (c : CoreId)
  | mirrorWrite (p : PortId)
  | mirrorServe (p : PortId)
  | ckptXfer (p : PortId)
  | heartbeatSend
  | heartbeat (p : PortId)
  | heartbeatMissed (module : Half)
  | deputyTakeover
  | orphanTimeout
  | shardRestoreComplete (p : PartId) (shard : Nat)
  | weirWindowStart (m : WeirMeasure)
  | chargeAdmission (w : Charger)
  | collectiveFloorSend (cl : ClusterId)
  | feedInvalid (f : Fin 2)
  | feedValid (f : Fin 2)
  | junctionEmergency (t : Byte)
  | meterReady
  | meterNvSave
  | meterSupplyLoss
  | meterRecordComplete
  | meterWindowUpdate (microA microB : Nat) (rangeA rangeB : Bool)
  | meterTamper
  | meterSelfCheckFail
  | crossingWordAccept (x : XingId) (toClocked : Bool) (written : List (Nat × List Byte)) (samples : List (List Byte))
  | crossingResetNotice (x : XingId) (clocked : Bool)
  | crossingResetTimeout (x : XingId) (clocked : Bool)
  | sliceSchedule
  | blockTaken
  | blockTakeTimeout
  | sliceResult (signature : Long)
  | warmRestartEnd (cl : ClusterId)
  | selftestOverdue (block : Fin 144)
  | bistDirectedTest (v : Long)
  | pmcSampleWrite (c : CoreId) (v : Long)
  | powerUpStepComplete (signal : Half)
  | provision (off : Nat)
  | addKey (off : Nat)
  | deploy (off : Nat)
  | lifeReturn (off : Nat)
  | scrap (off : Nat)
  | revoke (off : Nat)
  | quote (off : Nat)
  | fwUpdate (off : Nat)
  | commitSvn (off : Nat)
  | cartridgeInsert (nvme2 : Bool) (width gen : Nat)
  | cartridgeRemove
  | cartridgeAuthentication (a : CartAnswer)
  | keeperKick
  | keeperForce
  | keeperWatchTimeout
  | keeperMemoryError
  | keeperException
  | keeperRestart
  | watch (p : PortId)
  | netCtrlSave (i : Fin 3)
  | feedPresMate (f : Fin 2)
  | feedRegulatorConnect (f : Fin 2)
  | feedPresBreak (f : Fin 2)
  | hostPortLinkUp (n : Fin 2) (fast : Bool)
  | meterSelfCheckRecovery
  | lpddrRefreshRestore (pkg : Fin 16)
  | crossingRestart (x : XingId)
  deriving DecidableEq, Repr

end Sys2Proof
end

