-- ==== Sys2Proof/Config.lean ====
section
/-! DEFINITION. What the spec leaves to published standards outside it, and the free values (assumption log 3, 5, 6,
7): constants without a body, of which nothing can be proved but that they are functions of their arguments. -/

namespace Sys2Proof

/-- A plane of decoded samples, row by row. -/
structure VPlane where
  w    : Nat
  h    : Nat
  data : List Nat
  deriving DecidableEq, Repr

/-- The profile of a coded picture, as far as R411 names profiles. -/
inductive VProfile where
  | h262Main | h264High | h264High10 | h265Main | h265Main10 | other
  deriving DecidableEq, Repr

/-- A decoded picture in output order (R411, R414, R416, R417): its planes, bit depth, colour description, coding type
(I, P or B), whether it is a field and which; the luma and chroma samples of its corrupt units (non-zero there), the macroblocks or
CTUs lost and those it has; whether it is corrupt; the places in the decoder's output of the pictures it depends on, directly or
through others; its profile, level (ten times its number; for H.262 1 Low to 4 High), whether it is 4:2:0 and whether its size is
within its level; and the bytes it was coded in. -/
structure VPic where
  luma   : VPlane
  cb     : VPlane
  cr     : VPlane
  depth  : Nat
  matrix : Nat
  full   : Bool
  kind   : Nat
  field  : Bool
  bottom : Bool
  hurt   : VPlane
  hurtC  : VPlane
  lost   : Nat
  units  : Nat
  bad    : Bool
  refs   : List Nat
  profile : VProfile
  level  : Nat
  c420   : Bool
  fits   : Bool
  coded  : Nat
  deriving DecidableEq, Repr

namespace Config

/-- The n-th fresh free 64-bit value (log 3). -/
opaque freeLong : Nat → Long
/-- Has the n-th look found the shadow copy of a slot complete (log 56)? -/
opaque shadowLoaded : (n slot : Nat) → Bool
/-- What an MSTORE reads beyond the accumulator file (log 50). -/
opaque noAcc : Nat → Word
/-- The beats between two looks at a matrix array's ramp, and the energy of a ramp-down in the Weir's units (R150, R151; log 35). -/
opaque rampBeats : Nat → Nat
/-- A core's beats in a tick above the fewest that R511 allows, at the n-th occasion, and the grants that an access of n bytes at offset a of its
vat takes above the fewest (log 41). -/
opaque beatsIn : (core n : Nat) → Nat
opaque grantsIn : (core occasion a n : Nat) → Nat
opaque rampDown : Nat → Nat
/-- Byte i of the n-th fresh free extent (log 3). -/
opaque freeByte : (n i : Nat) → Byte
/-- SHA-384 (FIPS 180-4), 48 bytes (log 5). -/
opaque sha384 : List Byte → List Byte
/-- RSASSA-PSS verification with SHA-384 of a message under a key (R114; log 5). -/
opaque rsaVerify : (key msg sig : List Byte) → Bool
/-- SLH-DSA-SHA2-192s verification (FIPS 205; log 5). -/
opaque slhVerify : (key msg sig : List Byte) → Bool
/-- A signature the module itself makes: which key, and the message (log 5). -/
opaque sign : (key : Nat) → (msg : List Byte) → List Byte
/-- The certificate the meter holds (log 5). -/
opaque certificate : (key : Nat) → List Byte
/-- The module's own attestation keys (R566): the public key of each scheme, the STATES of their certificates, and Eowick's signature over
them (log 8). -/
opaque attestKey : (alg : Nat) → List Byte
opaque attestStates : Byte
opaque attestSig : (alg : Nat) → List Byte
/-- The decoding process of a codec (1 H.262, 2 H.264, 3 H.265): from the elementary stream in pieces, each with whether it is
damaged, the pictures in output order, and whether the stream ended inside one. Where concealment is asked for, a picture's
references are the concealed ones (R417; log 6). -/
opaque decodeVideo : (codec : Nat) → (conceal : Bool) → (stream : List (List Byte × Bool)) → List VPic × Bool
/-- The built-in ROM table of a function: FP32 arguments with their results, in any number (R216; log 7). -/
opaque romEntries : (func : Nat) → List (Word × Word)
/-- Is a zero that the ROM table of a function gives at an argument a −0 (log 7)? -/
opaque romZero : (func : Nat) → (x : Word) → Bool
/-- IMG_OFFSET, CORE and STEP of the fault record of a halt that no instruction caused, by partition, tick and INDEX (R87; log 44). -/
opaque haltFields : (part : Nat) → (tick : Long) → (index : Word) → Word × Byte × Word
/-- Is E(t) the FP32 value next above e^t, and not the one next below (R247; log 7)? -/
opaque expUp : Word → Bool
/-- Which bank of a stack a DRAM row lies in: the fixed hash of R319 that the spec does not give (log 13). -/
opaque bankOf : (stack row : Nat) → Nat

/-- Does the symbol code see an error in three or more symbols (R322; log 46)? -/
opaque symbolsSeen : FMap Half → Bool
/-- Does the keeper switch a power domain off that R302 lets it, at its n-th occasion (log 47)? -/
opaque switchesOff : (domain n : Nat) → Bool

/-- Does module `m` hold a copy of a shard at a step that its reports do not show, in a layer-1 buffer or in a cartridge slot (R468; log 31)? -/
opaque copyElsewhere : (m part shard : Nat) → (step : Word) → (slot : Bool) → Bool
/-- The bytes of a cartridge that has not been authenticated since its n-th insertion (R570; log 33). -/
opaque cartByte : (n a : Nat) → Byte

/-- The priorities that host port `port` would hold the host back on by PFC, as its receive buffers stand at the n-th look (R398; log 54). -/
opaque pfcOut : (port n : Nat) → Byte

/-- What is fused for a slice of a block at manufacture (R523): the seeds of the pattern generator and of the signature register, and the
expected signature (log 57). -/
opaque slicePattern : (block slice : Nat) → Long
opaque sliceSeed : (block slice : Nat) → Long
opaque sliceExpected : (block slice : Nat) → Long
/-- Does Eowick service firmware remove an entry of the retirement record that R532 lets it, at the n-th keeper start (log 57)? -/
opaque serviceRemoves : (entry n : Nat) → Bool

/-- The module's fused DEVICE_ID (R349, R566; log 8). -/
opaque deviceId : Long
/-- The meter's fused METER_ID and mask-ROM version (R495; log 8). -/
opaque meterId : Long
opaque meterRom : Word
/-- The MAC address of the management port (0) and the host ports (1, 2) (R399, R591; log 8). -/
opaque mac : Nat → BitVec 48
/-- The strap pins of feed A (0) and feed B (1) as the n-th power-up reads them: they may be set anew between two (R599, R609; log 8). -/
opaque strapPins : (feed n : Nat) → Byte
/-- The hashes of the Eowick root public keys fused at manufacture (R561; log 8). -/
opaque rootHash : Nat → List Byte
/-- The other certificates that package flash holds at manufacture (R561; log 8). -/
opaque factoryCerts : List (List Byte)
/-- The firmware slots that package flash holds at manufacture (R559; log 8). -/
opaque factorySlot : Nat → List Byte
/-- WEIR_CAL's fuses, and MEA_REPAIR's per core (R160, R505; log 8). -/
opaque weirCal : Long
opaque meaRepair : Nat → Long

/-- The idle energy figure of R479's first window, in mJ, fused at test (log 8). -/
opaque idleEnergy : Nat
/-- The idle energy of a rail group in a window, from its fused leakage figures, VCODE and the hottest junction, in 2^-16 mJ (R484; log 8). -/
opaque groupIdle : (group vcode junction : Nat) → Nat

end Config

end Sys2Proof
end

