-- ==== Sys2Proof/Machine/Bits.lean ====
section
/-! DEFINITION. Bit fields, byte orders and small list operations the meanings share (R7: bit 0 is the least
significant; R8: structures in memory are little-endian, wire fields big-endian). -/

namespace Sys2Proof.Machine

/-- Bits hi:lo of a number. -/
def fld (w hi lo : Nat) : Nat := (w >>> lo) % 2 ^ (hi + 1 - lo)

/-- Bit i of a number. -/
def bitN (w i : Nat) : Bool := w.testBit i

/-- Bits hi:lo of a 64-bit word. -/
def getF (w : Long) (hi lo : Nat) : Nat := fld w.toNat hi lo

/-- A 64-bit word with bits hi:lo set to v (taken modulo the field's size). -/
def setF (w : Long) (hi lo v : Nat) : Long :=
  let k := 2 ^ (hi + 1 - lo)
  BitVec.ofNat 64 (w.toNat - fld w.toNat hi lo * 2 ^ lo + (v % k) * 2 ^ lo)

/-- The n bytes of v, least significant first. -/
def leBytes : Nat → Nat → List Byte
  | 0, _ => []
  | n + 1, v => BitVec.ofNat 8 v :: leBytes n (v / 256)

/-- The n bytes of v, most significant first. -/
def beBytes (n v : Nat) : List Byte := (leBytes n v).reverse

/-- The number that bytes spell, least significant first. -/
def fromLE : List Byte → Nat
  | [] => 0
  | b :: t => b.toNat + 256 * fromLE t

/-- The number that bytes spell, most significant first. -/
def fromBE (l : List Byte) : Nat := fromLE l.reverse

/-- n little-endian bytes of l from offset o, bytes beyond the end read as zero. -/
def le (l : List Byte) (o n : Nat) : Nat := fromLE ((l.drop o).take n)

/-- n big-endian bytes of l from offset o. -/
def be (l : List Byte) (o n : Nat) : Nat := fromBE ((l.drop o).take n)

/-- n bytes of value b. -/
def fill (n : Nat) (b : Byte) : List Byte := List.replicate n b

/-- l cut or padded with zeros to n bytes. -/
def toLen (n : Nat) (l : List Byte) : List Byte := (l ++ fill (n - l.length) 0).take n

/-- Addition that stops at the largest value of w bits. -/
def satAdd (w a b : Nat) : Nat := min (a + b) (2 ^ w - 1)

/-- l with the element at index i replaced by f of it. -/
def modifyAt {α : Type} (f : α → α) : List α → Nat → List α
  | [], _ => []
  | a :: t, 0 => f a :: t
  | a :: t, i + 1 => a :: modifyAt f t i

/-- The numbers lo, lo + 1, …, lo + n − 1. -/
def upFrom (lo n : Nat) : List Nat := List.range' lo n

/-- A list of n-element pieces of l (the last may be shorter). -/
def chunksOf {α : Type} (n : Nat) (l : List α) : List (List α) :=
  (List.range ((l.length + n - 1) / n)).map fun i => (l.drop (i * n)).take n

/-- The first number below n that p holds of. -/
def firstBelow (n : Nat) (p : Nat → Bool) : Option Nat := (List.range n).find? p

/-- Does the list hold the element? (by equality test) -/
def hasN (l : List Nat) (a : Nat) : Bool := l.any fun b => b == a

/-- Every second thing in order: the n-th combination of mixed-radix digits, outermost first. -/
def digits : List Nat → Nat → List Nat
  | [], _ => []
  | _ :: t, n =>
    let p := t.foldl (· * ·) 1
    (if p = 0 then 0 else n / p) :: digits t (if p = 0 then 0 else n % p)

def prodN (l : List Nat) : Nat := l.foldl (· * ·) 1

def sumN (l : List Nat) : Nat := l.foldl (· + ·) 0

/-- Interleaved zip of two lists of numbers by a function. -/
def zipN (f : Nat → Nat → Nat) (a b : List Nat) : List Nat := List.zipWith f a b

/-- A signed field of w bits. -/
def signed (w v : Nat) : Int := if v % 2 ^ w < 2 ^ (w - 1) then (v % 2 ^ w : Int) else (v % 2 ^ w : Int) - 2 ^ w

/-- The w bits of an integer. -/
def wrapI (w : Nat) (v : Int) : Nat := (v % (2 ^ w : Int)).toNat

/-- Byte i of a 16-bit list of half words. -/
def half (l : List Byte) (i : Nat) : Nat := le l (2 * i) 2

/-! ### Cyclic redundancy checks (log 12) -/

/-- One bit of a CRC of w bits, most significant first. -/
def crcBit (w poly : Nat) (r : Nat) (b : Bool) : Nat :=
  let top := r.testBit (w - 1) != b
  let r := (r * 2) % 2 ^ w
  if top then r ^^^ poly else r

def crcByte (w poly r : Nat) (b : Byte) : Nat :=
  (List.range 8).foldl (fun r i => crcBit w poly r (b.getLsbD (7 - i))) r

/-- A number put into a rising list without repeats. -/
def insAsc (a : Nat) : List Nat → List Nat
  | [] => [a]
  | b :: t => if a < b then a :: b :: t else if a = b then b :: t else b :: insAsc a t

/-! ### CRC-32, IEEE 802.3 (R464, R530) -/

def crc32Byte (r : Nat) (b : Byte) : Nat :=
  (List.range 8).foldl (fun r _ => if r % 2 = 1 then r / 2 ^^^ 0xEDB88320 else r / 2) (r ^^^ b.toNat)

def crc32 (l : List Byte) : Nat := l.foldl crc32Byte 0xFFFFFFFF ^^^ 0xFFFFFFFF

end Sys2Proof.Machine
end

