-- ==== Sys2Proof/Machine/Float.lean ====
section
/-! DEFINITION. Number formats, exact arithmetic and single rounding (R38-R59): decoding and encoding of every
format, conversion control, the stochastic draw, MXFP4 blocks and the class a conversion counts in. -/

namespace Sys2Proof.Machine

/-- A value: poison, NaN, an infinity or ±m·2^e exactly. -/
inductive FVal where
  | nan
  | poison
  | inf (s : Bool)
  | fin (s : Bool) (m : Nat) (e : Int)
  deriving DecidableEq, Repr

/-- The parameters of a floating-point format (R39, R40). `top` is the largest finite magnitude's code. -/
structure FFmt where
  width  : Nat
  frac   : Nat
  bias   : Nat
  hasInf : Bool
  top    : Nat
  nan    : Nat
  poison : Nat
  deriving DecidableEq, Repr

def fmtFP32 : FFmt := ⟨32, 23, 127, true, 0x7F7FFFFF, 0x7FC00000, 0xFFC00001⟩
def fmtE8M7 : FFmt := ⟨16, 7, 127, true, 0x7F7F, 0x7FC0, 0xFFC1⟩
def fmtE5M10 : FFmt := ⟨16, 10, 15, true, 0x7BFF, 0x7E00, 0xFE01⟩
def fmtE4M3 : FFmt := ⟨8, 3, 7, false, 0x7E, 0x7F, 0xFF⟩
def fmtE5M2 : FFmt := ⟨8, 2, 15, true, 0x7B, 0x7E, 0xFF⟩
/-- The element of MXFP4 (R42); it has neither infinity nor NaN. -/
def fmtE2M1 : FFmt := ⟨4, 1, 1, false, 0x7, 0x0, 0x10⟩

/-- The floating-point format of a code of R38, where it is one. -/
def fmtOf : Nat → Option FFmt
  | 0 => some fmtFP32
  | 1 => some fmtE8M7
  | 2 => some fmtE5M10
  | 3 => some fmtE4M3
  | 4 => some fmtE5M2
  | _ => none

/-- Bits per element of a format code (R38); 4 for MXFP4's element plane, 0 for reserved codes. -/
def fmtWidth : Nat → Nat
  | 0 => 32 | 1 => 16 | 2 => 16 | 3 => 8 | 4 => 8 | 5 => 4 | 8 => 8 | 9 => 32 | 10 => 32 | _ => 0

def fmtIsFloat (f : Nat) : Bool := decide (f ≤ 5)
def fmtIsInt (f : Nat) : Bool := f == 8 || f == 9 || f == 10
def fmtValid (f : Nat) : Bool := fmtIsFloat f || fmtIsInt f

/-- The poison pattern of a format (R40); MXFP4's element plane reads 0xF (R45). -/
def poisonBits : Nat → Nat
  | 0 => 0xFFC00001 | 1 => 0xFFC1 | 2 => 0xFE01 | 3 => 0xFF | 4 => 0xFF | 5 => 0xF | _ => 0

/-- The value a pattern of a floating-point format stands for (R39, R40, R46). -/
def FFmt.decode (f : FFmt) (b : Nat) : FVal :=
  let s := b.testBit (f.width - 1)
  let mag := b % 2 ^ (f.width - 1)
  let ex := mag >>> f.frac
  let fr := mag % 2 ^ f.frac
  if b = f.poison then .poison
  else if mag ≤ f.top then
    if ex = 0 then .fin s fr (1 - (f.bias : Int) - f.frac)
    else .fin s (2 ^ f.frac + fr) ((ex : Int) - f.bias - f.frac)
  else if f.hasInf && fr == 0 then .inf s
  else .nan

/-- The integer range of an integer format code. -/
def intRange : Nat → Int × Int
  | 8 => (-128, 127)
  | 9 => (-2147483648, 2147483647)
  | _ => (0, 4294967295)

/-- The integer a pattern of an integer format stands for (R44). -/
def intOf (f b : Nat) : Int :=
  match f with
  | 8 => signed 8 b
  | 9 => signed 32 b
  | _ => (b % 2 ^ 32 : Nat)

def FVal.ofInt (i : Int) : FVal := .fin (decide (i < 0)) i.natAbs 0

/-- The value of a pattern of any element format but MXFP4. -/
def decodeVal (f b : Nat) : FVal :=
  match fmtOf f with
  | some ff => ff.decode b
  | none => .ofInt (intOf f b)

/-! ### Exact arithmetic (R47, R50) -/

def FVal.isPoison : FVal → Bool
  | .poison => true
  | _ => false

/-- Poison, NaN or infinity: a source that counts in NONFIN (R59). -/
def FVal.isNonfin : FVal → Bool
  | .fin _ _ _ => false
  | _ => true

def FVal.isZero : FVal → Bool
  | .fin _ 0 _ => true
  | _ => false

def FVal.neg : FVal → FVal
  | .inf s => .inf (!s)
  | .fin s m e => .fin (!s) m e
  | v => v

def FVal.abs : FVal → FVal
  | .inf _ => .inf false
  | .fin _ m e => .fin false m e
  | v => v

/-- The signed integer m·2^(e − q) for q ≤ e. -/
def scaleTo (s : Bool) (m : Nat) (e q : Int) : Int :=
  let k : Int := ((m <<< (e - q).toNat : Nat) : Int)
  if s then -k else k

/-- ±i·2^q; a zero takes the sign given. -/
def FVal.ofScaled (i : Int) (q : Int) (zs : Bool) : FVal :=
  if i = 0 then .fin zs 0 q else .fin (decide (i < 0)) i.natAbs q

/-- The exact sum; an exact zero from opposite operands is +0 (IEEE 754, round to nearest). -/
def FVal.add : FVal → FVal → FVal
  | .poison, _ => .poison
  | _, .poison => .poison
  | .nan, _ => .nan
  | _, .nan => .nan
  | .inf s, .inf t => if s = t then .inf s else .nan
  | .inf s, _ => .inf s
  | _, .inf t => .inf t
  | .fin s m e, .fin t n g =>
    let q := min e g
    FVal.ofScaled (scaleTo s m e q + scaleTo t n g q) q (s && t)

def FVal.sub (a b : FVal) : FVal := a.add b.neg

/-- The exact product. -/
def FVal.mul : FVal → FVal → FVal
  | .poison, _ => .poison
  | _, .poison => .poison
  | .nan, _ => .nan
  | _, .nan => .nan
  | .inf s, .inf t => .inf (s != t)
  | .inf s, .fin t n _ => if n = 0 then .nan else .inf (s != t)
  | .fin s m _, .inf t => if m = 0 then .nan else .inf (s != t)
  | .fin s m e, .fin t n g => .fin (s != t) (m * n) (e + g)

/-- The quotient with 80 or more significant bits and a last bit that says whether any were cut off. -/
def FVal.div : FVal → FVal → FVal
  | .poison, _ => .poison
  | _, .poison => .poison
  | .nan, _ => .nan
  | _, .nan => .nan
  | .inf _, .inf _ => .nan
  | .inf s, .fin t _ _ => .inf (s != t)
  | .fin s _ _, .inf t => .fin (s != t) 0 0
  | .fin s m e, .fin t n g =>
    if n = 0 then (if m = 0 then .nan else .inf (s != t))
    else
      let k := 80 + n.log2
      let a := m <<< k
      .fin (s != t) (2 * (a / n) + (if a % n = 0 then 0 else 1)) (e - g - k - 1)

/-- Largest r with r² ≤ n, by bits from 2^k down. -/
def isqrtFrom (n : Nat) : Nat → Nat → Nat
  | 0, r => if (r + 1) * (r + 1) ≤ n then r + 1 else r
  | k + 1, r => isqrtFrom n k (if (r + 2 ^ (k + 1)) * (r + 2 ^ (k + 1)) ≤ n then r + 2 ^ (k + 1) else r)

def isqrt (n : Nat) : Nat := isqrtFrom n (n.log2 / 2 + 1) 0

/-- The square root with many significant bits and a sticky last bit. -/
def FVal.sqrt : FVal → FVal
  | .poison => .poison
  | .nan => .nan
  | .inf s => if s then .nan else .inf false
  | .fin s m e =>
    if m = 0 then .fin s 0 e
    else if s then .nan
    else
      let odd := e % 2 ≠ 0
      let a := m <<< (if odd then 161 else 160)
      let r := isqrt a
      .fin false (2 * r + (if r * r = a then 0 else 1)) ((e - (if odd then 161 else 160)) / 2 - 1)

/-- Order of two values that are not NaN or poison. -/
def FVal.lt : FVal → FVal → Bool
  | .inf s, .inf t => s && !t
  | .inf s, .fin _ _ _ => s
  | .fin _ _ _, .inf t => !t
  | .fin s m e, .fin t n g =>
    let q := min e g
    decide (scaleTo s m e q < scaleTo t n g q)
  | _, _ => false

def FVal.eqv : FVal → FVal → Bool
  | .inf s, .inf t => s == t
  | .fin s m e, .fin t n g =>
    let q := min e g
    decide (scaleTo s m e q = scaleTo t n g q)
  | _, _ => false

def FVal.isNaN : FVal → Bool
  | .nan => true
  | .poison => true
  | _ => false

def FVal.sign : FVal → Bool
  | .inf s => s
  | .fin s _ _ => s
  | _ => false

/-- −0 before +0 and otherwise by value (IEEE 754 minimumNumber order of zeros). -/
def FVal.ltZ (a b : FVal) : Bool := a.lt b || (a.eqv b && a.isZero && a.sign && !b.sign)

/-! ### Rounding (R51, R52, R57) -/

/-- Which counter of a gauge a conversion counts in (R59). -/
inductive GClass where
  | none
  | nonfin
  | ovf
  | unf
  | sub
  deriving DecidableEq, Repr

/-- Rounds m·2^e to a multiple of 2^q: mode 0 nearest even, 1 toward zero, 2 stochastic with the 16-bit draw u (R57). -/
def roundAt (rmode u m : Nat) (e q : Int) : Nat :=
  if q ≤ e then m <<< (e - q).toNat
  else
    let sh := (q - e).toNat
    let n := m >>> sh
    let rem := m % 2 ^ sh
    let up : Bool :=
      match rmode with
      | 1 => false
      | 2 => decide (65536 ≤ (rem <<< 16) >>> sh + u)
      | _ => decide (2 ^ sh < 2 * rem) || (decide (2 ^ sh = 2 * rem) && decide (n % 2 = 1))
    if up then n + 1 else n

/-- The magnitude code of m·2^e rounded with unbounded exponent range; it may pass the largest finite code. -/
def FFmt.magCode (f : FFmt) (rmode u m : Nat) (e : Int) : Nat :=
  if m = 0 then 0
  else
    let emin : Int := 1 - (f.bias : Int) - f.frac
    let q := max ((m.log2 : Int) + e - f.frac) emin
    (q - emin).toNat * 2 ^ f.frac + roundAt rmode u m e q

def FFmt.signBit (f : FFmt) (s : Bool) : Nat := if s then 2 ^ (f.width - 1) else 0

/-- Infinity where the format has it. -/
def FFmt.infMag (f : FFmt) : Nat := f.top + 1

/-- A value rounded once into a floating-point format (R50-R52) and the class it counts in (R59). -/
def FFmt.round (f : FFmt) (sat : Bool) (rmode u : Nat) (v : FVal) : Nat × GClass :=
  let satn := sat && f.width == 8
  match v with
  | .poison => (f.poison, .nonfin)
  | .nan => (f.nan, .nonfin)
  | .inf s =>
    (if satn then f.signBit s + f.top else if f.hasInf then f.signBit s + f.infMag else f.nan, .nonfin)
  | .fin s m e =>
    let c := f.magCode rmode u m e
    if f.top < c then
      (if rmode = 1 || satn then f.signBit s + f.top
       else if f.hasInf then f.signBit s + f.infMag else f.nan, .ovf)
    else
      (f.signBit s + c,
       if c = 0 then (if m = 0 then .none else .unf) else if c < 2 ^ f.frac then .sub else .none)

/-- A value rounded into an integer format (R54): NaN gives 0, infinity saturates by sign, and out-of-range values
saturate. Poison is the caller's fault to raise (R48). -/
def roundInt (f rmode u : Nat) (v : FVal) : Nat × GClass :=
  let r := intRange f
  let w := fmtWidth f
  match v with
  | .poison => (0, .nonfin)
  | .nan => (0, .nonfin)
  | .inf s => (wrapI w (if s then r.1 else r.2), .nonfin)
  | .fin s m e =>
    let n := roundAt rmode u m e 0
    let i : Int := if s then -(n : Int) else n
    if i < r.1 then (wrapI w r.1, .ovf)
    else if r.2 < i then (wrapI w r.2, .ovf)
    else (wrapI w i, if n = 0 ∧ m ≠ 0 then .unf else .none)

/-- A value converted to any element format but MXFP4. -/
def encodeVal (f : Nat) (sat : Bool) (rmode u : Nat) (v : FVal) : Nat × GClass :=
  match fmtOf f with
  | some ff => ff.round sat rmode u v
  | none => roundInt f rmode u v

/-- Round to nearest even, without saturation, into a format: the default (R51). -/
def encodeRne (f : Nat) (v : FVal) : Nat := (encodeVal f false 0 0 v).1

/-- Is the magnitude of the value finite and beyond the format's largest after nearest rounding? -/
def overflows (f : Nat) (v : FVal) : Bool := decide ((encodeVal f false 0 0 v).2 = .ovf)

/-! ### The stochastic draw: SipHash-2-4 (R55) -/

structure Sip where
  v0 : Long
  v1 : Long
  v2 : Long
  v3 : Long
  deriving DecidableEq, Repr

def Sip.round (s : Sip) : Sip :=
  let a0 := s.v0 + s.v1
  let a1 := (s.v1.rotateLeft 13) ^^^ a0
  let b0 := a0.rotateLeft 32
  let a2 := s.v2 + s.v3
  let a3 := (s.v3.rotateLeft 16) ^^^ a2
  let c0 := b0 + a3
  let c3 := (a3.rotateLeft 21) ^^^ c0
  let c2 := a2 + a1
  let c1 := (a1.rotateLeft 17) ^^^ c2
  ⟨c0, c1, c2.rotateLeft 32, c3⟩

def Sip.word (s : Sip) (m : Long) : Sip :=
  let t := Sip.round (Sip.round { s with v3 := s.v3 ^^^ m })
  { t with v0 := t.v0 ^^^ m }

/-- SipHash-2-4 of one 8-byte little-endian message. -/
def sipHash (k0 k1 m : Long) : Long :=
  let s : Sip := ⟨k0 ^^^ 0x736f6d6570736575#64, k1 ^^^ 0x646f72616e646f6d#64, k0 ^^^ 0x6c7967656e657261#64,
                  k1 ^^^ 0x7465646279746573#64⟩
  let t := (s.word m).word 0x0800000000000000#64
  let f := Sip.round (Sip.round (Sip.round (Sip.round { t with v2 := t.v2 ^^^ 0xff#64 })))
  f.v0 ^^^ f.v1 ^^^ f.v2 ^^^ f.v3

/-- What a stochastic conversion is keyed by: run seed, step number and tensor id (R55). -/
structure DrawKey where
  seed   : Long
  step   : Word
  tensor : Word
  deriving DecidableEq, Repr

/-- The hash of a 64-bit message under a key (R55, R389). -/
def drawLong (k : DrawKey) (m : Nat) : Nat :=
  (sipHash k.seed (BitVec.ofNat 64 (k.step.toNat * 2 ^ 32 + k.tensor.toNat)) (BitVec.ofNat 64 m)).toNat

/-- Bits 15:0 of the draw for a flat element index. -/
def draw (k : DrawKey) (flat : Nat) : Nat := drawLong k flat % 65536

/-! ### MXFP4 blocks (R42, R53) -/

/-- The value of an MXFP4 element in a block whose scale byte is sc; `allF` says that all 32 elements hold 0xF. -/
def mxVal (sc : Nat) (allF : Bool) (el : Nat) : FVal :=
  if sc = 255 then (if allF then .poison else .nan)
  else match fmtE2M1.decode (el % 16) with
    | .fin s m e => .fin s m (e + (sc : Int) - 127)
    | v => v

/-- Order of magnitudes of finite values. -/
def magLe (a b : FVal) : Bool := !(b.abs.lt a.abs)

/-- floor(log2) of a finite non-zero magnitude. -/
def ilog2 : FVal → Int
  | .fin _ m e => (m.log2 : Int) + e
  | _ => 0

/-- A block of values converted to MXFP4 with control `rmode` and draws `us`: scale byte, element codes and classes. -/
def mxBlock (rmode : Nat) (us : List Nat) (vs : List FVal) : Nat × List (Nat × GClass) :=
  if vs.any FVal.isPoison then (255, vs.map fun _ => (15, .nonfin))
  else if vs.any FVal.isNonfin then (255, vs.map fun _ => (0, .nonfin))
  else
    let amax := vs.foldl (fun a v => if magLe v a then a else v.abs) (.fin false 0 0)
    if amax.isZero then (0, vs.map fun v => (if v.sign then 8 else 0, .none))
    else
      let se : Int := max (-127) (min 127 (ilog2 amax - 2))
      let el := fun (v : FVal) (u : Nat) =>
        match v with
        | .fin s m e =>
          let c := fmtE2M1.magCode rmode u m (e - se)
          if 7 < c then ((if s then 15 else 7), GClass.ovf)
          else ((if s then 8 else 0) + c,
                if c = 0 then (if m = 0 then GClass.none else .unf) else if c = 1 then .sub else .none)
        | _ => (0, .nonfin)
      ((se + 127).toNat, List.zipWith el vs us)

end Sys2Proof.Machine
end

