-- ==== Sys2Proof/Machine/Rom.lean ====
section
/-! DEFINITION. The built-in ROM tables of the special-function unit (R214, R216): free tables held to the error bound and to the order that
the spec gives them, around reference values of the eighteen functions. -/

namespace Sys2Proof.Machine

/-! ### Reference values: integers in units of 2^−512 -/

def fxOne : Int := 2 ^ 512
def fxMul (a b : Int) : Int := a * b / fxOne
def fxDiv (a b : Int) : Int := a * fxOne / b
def fxSqrt (a : Int) : Int := isqrt (a * fxOne).toNat

/-- The sum of n terms, each made from the one before and its number. -/
def fxSeries (n : Nat) (first : Int) (next : Int → Nat → Int) : Int :=
  ((List.range n).foldl (fun (a : Int × Int) k => (a.1 + a.2, next a.2 k)) (0, first)).1

def fxAtanh (z : Int) : Int :=
  ((List.range 200).foldl (fun (a : Int × Int) k => (a.1 + a.2 / (2 * k + 1), fxMul a.2 (fxMul z z))) (0, z)).1

def fxLn2 : Int := 2 * fxAtanh (fxOne / 3)

/-- e^y: the series at a 256th of what is left of y above a multiple of ln 2, squared eight times. Beyond ±1,024 every format has long
overflowed or reached zero. -/
def fxExp (y : Int) : Int :=
  let y := max (-1024 * fxOne) (min (1024 * fxOne) y)
  let k := y / fxLn2
  let r := (y - k * fxLn2) / 256
  let v := (List.range 8).foldl (fun v _ => fxMul v v) (fxSeries 100 fxOne fun t j => fxMul t r / (j + 1))
  if 0 ≤ k then v * 2 ^ k.toNat else v / 2 ^ (-k).toNat

/-- ln v for a positive v. -/
def fxLn (v : Int) : Int :=
  let e : Int := v.toNat.log2 - 512
  let m := if 0 ≤ e then v / 2 ^ e.toNat else v * 2 ^ (-e).toNat
  e * fxLn2 + 2 * fxAtanh (fxDiv (m - fxOne) (m + fxOne))

/-- The arc tangent of 1/n in units of 2^−1100, and π in units of 2^−1024 from two of them. -/
def atanInv (n : Nat) : Int :=
  ((List.range 240).foldl (fun (a : Int × Int) k => (a.1 + a.2 / (2 * k + 1), -(a.2 / (n * n : Nat)))) (0, (2 ^ 1100 / n : Nat))).1

def pi1024 : Int := 4 * (4 * atanInv 5 - atanInv 239) / 2 ^ 76
def fxPi : Int := pi1024 / fxOne

def fxSigmoid (x : Int) : Int := fxDiv fxOne (fxOne + fxExp (-x))

/-- erf x, by the series with terms of one sign; from 11 on it differs from ±1 by less than any format shows. -/
def fxErf (x : Int) : Int :=
  let z := min |x| (11 * fxOne)
  let s := fxSeries 700 z fun t n => 2 * fxMul t (fxMul z z) / (2 * n + 3)
  let v := if 11 * fxOne ≤ |x| then fxOne else fxDiv (2 * fxMul (fxExp (-fxMul z z)) s) (fxSqrt fxPi)
  if 0 ≤ x then v else -v

/-- The sine of x, taken into the first turn with π to 1,024 bits; a quarter turn ahead it is the cosine. -/
def fxSin (x : Int) (quarter : Bool) : Int :=
  let r := (x * fxOne + (if quarter then pi1024 / 2 else 0)) % (2 * pi1024) / fxOne
  fxSeries 60 r fun t k => -fxMul t (fxMul r r) / ((2 * k + 2) * (2 * k + 3))

/-- The function of a code at a value inside its domain (R214). -/
def romReal (f : Nat) (x : Int) : Int :=
  match f with
  | 1 => fxExp x
  | 2 => fxExp (fxMul x fxLn2)
  | 3 => fxLn x
  | 4 => fxDiv (fxLn x) fxLn2
  | 5 => fxDiv fxOne x
  | 6 => isqrt (fxOne * fxOne * fxOne / x).toNat
  | 7 => fxSqrt x
  | 8 => fxSigmoid x
  | 9 => fxOne - fxDiv (2 * fxOne) (fxOne + fxExp (2 * x))
  | 10 => fxMul x (fxOne + fxErf (fxMul x (fxSqrt (fxOne / 2)))) / 2
  | 11 =>
    let y := x + 44715 * fxMul x (fxMul x x) / 1000000
    fxMul x (fxSigmoid (2 * fxMul (fxSqrt (fxDiv (2 * fxOne) fxPi)) y))
  | 12 => fxMul x (fxSigmoid x)
  | 13 => if 1024 * fxOne < x then x else fxLn (fxOne + fxExp x)
  | 14 => fxErf x
  | 15 => fxSin x false
  | 16 => fxSin x true
  | 17 => fxLn (fxOne + x)
  | 18 => fxExp x - fxOne
  | _ => 0

/-! ### FP32 in order -/

/-- The place of an FP32 word in the order of their values, and the word at a place. -/
def ordOf (w : Word) : Int := if w.msb then -((w.toNat % 2 ^ 31 : Nat) : Int) else w.toNat
def ofOrd (o : Int) : Word := if o < 0 then BitVec.ofNat 32 (2 ^ 31 + o.natAbs) else BitVec.ofNat 32 o.toNat

/-- The place of a reference value that FP32 holds exactly, or of the largest below it. -/
def ordTrunc (v : Nat) : Nat :=
  let u := max (v.log2 - 23) 363
  min 0x7F800000 ((u - 363) * 2 ^ 23 + v / 2 ^ u)
def ordFx (v : Int) : Int := if 0 ≤ v then ordTrunc v.toNat else -ordTrunc v.natAbs

/-! ### The values of a result format around a reference value, its exponents unbounded upward -/

/-- The unit in the last place of a format at a reference value, as a power of two of its units. -/
def ulpIn (g : FFmt) (v : Nat) : Nat := max (v.log2 - g.frac) (513 - g.bias - g.frac)

def truncIn (g : FFmt) (v : Nat) : Nat := v / 2 ^ ulpIn g v * 2 ^ ulpIn g v
def aboveIn (g : FFmt) (v : Nat) : Nat := truncIn g v + if v % 2 ^ ulpIn g v = 0 then 0 else 2 ^ ulpIn g v
def nearIn (g : FFmt) (v : Nat) : Nat :=
  let u := 2 ^ ulpIn g v
  let r := 2 * (v % u)
  truncIn g v + if u < r ∨ (r = u ∧ v / u % 2 = 1) then u else 0

/-- The last value of a format at or below a reference value, the first at or above it, and the nearest. -/
def lowIn (g : FFmt) (v : Int) : Int := if 0 ≤ v then truncIn g v.toNat else -aboveIn g v.natAbs
def highIn (g : FFmt) (v : Int) : Int := if 0 ≤ v then aboveIn g v.toNat else -truncIn g v.natAbs
def midIn (g : FFmt) (v : Int) : Int := if 0 ≤ v then nearIn g v.toNat else -nearIn g v.natAbs

/-! ### The tables -/

def pZero : FVal := .fin false 0 0
def pOne : FVal := .fin false 1 0

/-- Has a function code a ROM table? -/
def hasRom (f : Nat) : Bool := decide (1 ≤ f) && decide (f ≤ 0x12)

/-- A finite value in reference units. -/
def fxOf : FVal → Int
  | .fin s m e => scaleTo s m e (-512)
  | _ => 0

/-- The special results of R214: at infinities, at zeros and outside the domain. -/
def romSpecial (f : Nat) (x : FVal) : Option FVal :=
  let ni := FVal.inf true
  let pi := FVal.inf false
  match x with
  | .inf true =>
    if hasN [1, 2, 8, 13] f then some pZero
    else if hasN [3, 4, 6, 7, 15, 16, 17] f then some .nan
    else if f = 5 ∨ hasN [10, 11, 12] f then some (.fin true 0 0)
    else if hasN [9, 14, 18] f then some (.fin true 1 0)
    else none
  | .inf false =>
    if hasN [1, 2, 3, 4, 7, 10, 11, 12, 13, 17, 18] f then some pi
    else if hasN [5, 6] f then some pZero
    else if hasN [8, 9, 14] f then some pOne
    else if hasN [15, 16] f then some .nan
    else none
  | .fin s m _ =>
    if m = 0 then
      (if hasN [3, 4] f then some ni else if hasN [5, 6] f then some (.inf s) else if f = 7 ∧ s then some (.fin true 0 0) else none)
    else if s && hasN [3, 4, 6, 7] f then some .nan
    else if f = 17 ∧ x.lt (.fin true 1 0) then some .nan
    else if f = 17 ∧ x.eqv (.fin true 1 0) then some ni
    else none
  | _ => none

/-- The places of the first and the last value of a result format inside R216's error bound around a function's value: a relative error below 2^−8,
an absolute one for SIN and COS. Where the format has none there, of the nearest. Between the two every rounding stays between them. -/
def romBounds (g : FFmt) (f : Nat) (x : Int) : Int × Int :=
  let v := romReal f x
  let m := (if hasN [15, 16] f then fxOne else |v|) / 256 - 1
  (ordFx (min (highIn g (v - m)) (midIn g v)), ordFx (max (lowIn g (v + m)) (midIn g v)))

/-- The stretch of a function's domain on which it does not turn: does it rise there, and which stretch it is. The turning points of GELU, of
its tanh form and of SILU are given to 2^−64. -/
def romStretch (f : Nat) (x : Int) : Bool × Int :=
  let turn := fun (c : Int) => if x * 2 ^ 64 ≤ c * fxOne then (false, 0) else (true, (1 : Int))
  match f with
  | 5 => (false, if x < 0 then 0 else 1)
  | 6 => (false, 0)
  | 10 => turn (-13868105852806078189)
  | 11 => turn (-13880463278283580770)
  | 12 => turn (-23583508227625629668)
  | 15 => let k := (2 * x * fxOne + pi1024) / (2 * pi1024); (k % 2 == 0, k)
  | 16 => let k := x * fxOne / pi1024; (k % 2 != 0, k)
  | _ => (true, 0)

/-- The place of the result of a ROM table at an FP32 value that it has no special result for (R216): the free entries of its stretch up to there,
each held to the bound where it stands, decide the result, so that it never turns within a stretch and keeps the bound (log 7). -/
def romOrd (g : FFmt) (f : Nat) (w : Word) : Int :=
  let x := fxOf (decodeVal 0 w.toNat)
  let p := romStretch f x
  let b := romBounds g f x
  let inDomain := fun (k : Word) => match decodeVal 0 k.toNat with
    | .fin s m e => (romSpecial f (.fin s m e)).isNone
    | _ => false
  let es := (Config.romEntries f).filter fun e => decide (ordOf e.1 ≤ ordOf w) && inDomain e.1 && romStretch f (fxOf (decodeVal 0 e.1.toNat)) == p
  let at' := fun (e : Word × Word) => romBounds g f (fxOf (decodeVal 0 e.1.toNat))
  if p.1 then es.foldl (fun a e => max a (min (ordOf e.2) (at' e).2)) b.1
  else es.foldl (fun a e => min a (max (ordOf e.2) (at' e).1)) b.2

/-- A result held to what the function's end of the stretch gives, so that order is kept up to there too: the limits ±1, 0 and 1, −1 of SIGMOID,
TANH, ERF and EXPM1, which are their special results, and COS(0) from below. -/
def romHeld (g : FFmt) (f : Nat) (x : Int) (o : Int) : Int :=
  let one : Int := 0x3F800000
  match f with
  | 8 => min one o
  | 9 => max (-one) (min one o)
  | 14 => max (-one) (min one o)
  | 18 => max (-one) o
  | 16 => if romStretch 16 x = (true, -1) then min (romOrd g 16 0) o else o
  | _ => o

/-- The result of a ROM table for a result format, as FP32. -/
def romValue (g : FFmt) (f : Nat) (w : Word) : Word :=
  let o := romHeld g f (fxOf (decodeVal 0 w.toNat)) (romOrd g f w)
  if o = 0 ∧ Config.romZero f w = true then 0x80000000 else ofOrd o

/-- The ROM table of a function code at a value, for a result format's code: its special results, or the table (R214, R216). -/
def romEval (fmt f : Nat) (x : FVal) : FVal :=
  match x with
  | .poison => .poison
  | .nan => .nan
  | x =>
    if hasRom f then
      match romSpecial f x with
      | some v => v
      | none => decodeVal 0 (romValue ((fmtOf fmt).getD fmtFP32) f (BitVec.ofNat 32 (encodeRne 0 x))).toNat
    else .nan

end Sys2Proof.Machine
end

