-- ==== Sys2Proof/Machine/State.lean ====
section
/-! DEFINITION. The state of the module as plain data: everything the spec gives it, the queue of waiting commands,
and the reasons a step can stop. A register of the register space has one home, `State.mrs`, keyed by its MRS
address; the fields that the spec makes a view of other state are computed where the register is read. -/

namespace Sys2Proof.Machine

/-! ### Memories -/

/-- An error standing in a 32-byte vat or pool word (R293). -/
inductive WordErr where
  | single
  | double
  deriving DecidableEq, Repr

/-- A vat or a pool bank (R291, R294): its bytes (0x00 where unlisted) and the words in error. -/
structure Bank where
  data : List Host.Cell
  errs : FMap WordErr
  deriving DecidableEq, Repr

/-- What the check of a 64-byte granule shows where it is not clean (R322-R324). -/
inductive GMark where
  /-- A class-D check that fails. -/
  | failD
  /-- A class-C granule with one symbol in error. -/
  | oneC
  /-- A class-C granule the code cannot correct. -/
  | uncorrC
  deriving DecidableEq, Repr

/-- A memory tier (R318): its stored bytes by tier address (0x00 where unlisted), and the frames that hold class-D checks (every
other frame holds class C, R326). By granule (tier address / 64): `crc` has the stored 16-bit check of a class-D granule where it
may differ from the check of the stored bytes (R321), and `syms` the symbols of a class-C granule whose stored bits are in error,
0 to 31 of the data and 32, 33 of the check word, each with its error bits (R322). -/
structure Tier where
  data   : List Host.Cell
  crc    : FMap Half
  syms   : FMap (FMap Half)
  classD : List Nat
  deriving DecidableEq, Repr

/-- Where a byte lies: a tier, a vat (32 × cluster + vat index) or a pool bank (16 × cluster + bank). -/
inductive Place where
  | tier (slow : Bool)
  | vat (i : Nat)
  | pool (i : Nat)
  deriving DecidableEq, Repr

/-- A run of bytes. -/
structure Span where
  place : Place
  lo    : Nat
  len   : Nat
  deriving DecidableEq, Repr

/-- Bytes of a write held behind a bound load (R77): the virtual address of the first (none in a cluster location), the destination
extent of their instruction, and the lane or list entry that the first is of, 0xFFFF_FFFF where none is; `wide` is the bytes of a
lane, 0 where all the bytes are of one. -/
structure Held where
  place  : Place
  addr   : Nat
  data   : List Byte
  loader : Nat × Nat
  storer : Nat × Nat
  va     : Option Nat
  ext    : List Span
  index  : Word
  wide   : Nat
  deriving DecidableEq, Repr

/-! ### The image (R94-R116) -/

/-- A page-map entry (R101). -/
structure Page where
  va    : Nat
  big   : Bool
  slow  : Bool
  classC : Bool
  perm  : BitVec 2
  ppn   : Nat
  deriving DecidableEq, Repr

/-- An ownership entry (R103). -/
structure OwnEntry where
  pool    : Bool
  cluster : Nat
  index   : Nat
  owner   : Nat
  deriving DecidableEq, Repr

/-- An instruction record (R107). -/
structure Rec where
  wait    : Long
  produce : Half
  unit    : Nat
  ext     : Nat
  op      : Long
  off     : Nat
  deriving DecidableEq, Repr

/-- A STEP_PROGRAM section (R106): program number, logical core 16c + k, records. -/
structure Prog where
  program : Nat
  core    : Nat
  recs    : List Rec
  deriving DecidableEq, Repr

/-- A token route (R110). -/
structure Route where
  src     : Nat
  kind    : BitVec 2
  id      : Nat
  destId  : Nat
  program : Nat
  dests   : List Nat
  deriving DecidableEq, Repr

/-- A link route (R112). -/
structure LinkRoute where
  dest  : Nat
  mask  : Half
  cls   : Nat
  hops  : Nat
  path  : List Byte
  deriving DecidableEq, Repr

/-- A collective tree (R113): per shard its parent (none for the root) and rank. -/
structure Tree where
  id     : Nat
  op     : Nat
  fmt    : Nat
  rmode  : BitVec 3
  nodes  : List (Option Nat × Nat)
  deriving DecidableEq, Repr

/-- An energy cost entry (R105). -/
structure Cost where
  cls  : Nat
  fmt  : Nat
  shp  : Nat
  cost : Nat
  deriving DecidableEq, Repr

/-- A culture table (R223). -/
structure Table where
  func     : Byte
  slot     : Nat
  init     : Bool
  core     : Nat
  interp   : Byte
  accuracy : Byte
  zeroPos  : Word
  zeroNeg  : Word
  posInf   : Word
  negInf   : Word
  low      : Word
  high     : Word
  highBreak : Word
  edge     : Byte
  segs     : List (Word × Word × Word × Word)
  excs     : List (Word × Word)
  index    : Nat
  deriving DecidableEq, Repr

/-- A rennet step (R228). -/
structure RStep where
  op   : Nat
  dst  : Nat
  src1 : Nat
  src2 : Nat
  arg  : Nat
  deriving DecidableEq, Repr

/-- A rennet program (R227). -/
structure Rennet where
  func   : Byte
  pslot  : Nat
  core   : Nat
  consts : List Word
  steps  : List RStep
  deriving DecidableEq, Repr

/-- A partition's part of an image (R97-R113). -/
structure PartImg where
  energyShare : Nat
  runSeed     : Long
  mask        : List Half
  stepStart   : Word
  deadline    : Nat
  fastMin     : Nat
  fastCap     : Nat
  slowMin     : Nat
  slowCap     : Nat
  grant       : BitVec 3
  gaugeSlots  : Nat
  gaugeRecord : Nat
  pages    : List Page
  owners   : List OwnEntry
  shapes   : List (Nat × Nat)
  profiles : List (Nat × Nat × Nat)
  costs    : List Cost
  gaugeMap : List (Nat × Word)
  descs    : List (BitVec 256)
  progs    : List Prog
  routes   : List Route
  schedule : List Nat
  tables   : List Table
  rennets  : List Rennet
  /-- The table and program sections whole, tables first, as the table store keeps them (R230). -/
  store    : List (List Byte)
  links    : List LinkRoute
  trees    : List Tree
  ingest   : List (BitVec 512)
  /-- The regions of each ferry descriptor's list, base and length, as the list stands in memory when the image is checked (R437,
  R438; log 51). -/
  ferry    : FMap (List (Nat × Nat))
  hash     : List Byte
  deriving DecidableEq, Repr

/-- The image-wide fields of the running full image (R95, R98). -/
structure ImgHdr where
  minCores   : List Nat
  collEnergy : Nat
  collFast   : Nat
  collSlow   : Nat
  reserveGib : Nat
  deriving DecidableEq, Repr

/-- A parsed image: header, key ids, and its partitions. -/
structure Image where
  scopePart : Option Nat
  buildId   : Long
  hdr       : ImgHdr
  parts     : List (Nat × PartImg)
  deriving DecidableEq, Repr

/-! ### Cores -/

/-- The kinds of token a wait entry names by id (R108). -/
inductive TokKind where
  | done
  | bind
  deriving DecidableEq, Repr

/-- A token instance that has arrived at a core (R64-R66): kind, id, the step whose program made it, the iterations
of the loops around its producer (outermost first), and the value a scalar token carries. -/
structure Tok where
  kind  : TokKind
  id    : Nat
  step  : Word
  iters : List Nat
  value : Word
  deriving DecidableEq, Repr

/-- A resolved PRED or LOOP header (R74, R75): the trip count, 0 or 1 for a PRED. -/
structure Resolved where
  step  : Word
  recIx : Nat
  iters : List Nat
  count : Nat
  deriving DecidableEq, Repr

/-- An open loop of the fetch position. -/
structure LoopFrame where
  header : Nat
  first  : Nat
  stop   : Nat
  iter   : Nat
  trips  : Nat
  deriving DecidableEq, Repr

/-- A bound element count: known, or waiting for the VSETVL TOK entry of that id (R167). -/
inductive VLen where
  | known (n : Nat)
  | token (uid : Nat)
  deriving DecidableEq, Repr

/-- The settings of a vector engine in program order (R161, R167). -/
structure VSet where
  vlmax    : BitVec 2
  vlen     : VLen
  tensor   : Bool
  tensorId : Word
  flatBase : BitVec 40
  flatStep : BitVec 24
  /-- The last VSETVL TOK before it in program order whose scalar has not arrived: every later instruction of the engine waits for it
  (R167). -/
  behind   : Option Nat
  deriving DecidableEq, Repr

/-- Where an instruction of the window stands. -/
inductive Phase where
  | waiting
  /-- Fired, held or at work. -/
  | fired
  /-- Its work is done but for bytes held behind bound loads (R77). -/
  | held
  /-- Its work is done; it may complete. -/
  | done
  /-- It faulted: it never completes (R84). -/
  | faulted
  deriving DecidableEq, Repr

/-- An entry of the firing window (R67) with what it was bound to at entry (R167, R229). -/
structure Entry where
  uid      : Nat
  step     : Word
  recIx    : Nat
  iters    : List Nat
  unit     : Nat
  op       : Long
  wait     : Long
  produce  : Half
  ext      : Nat
  off      : Nat
  vset     : VSet
  gens     : FMap Nat
  phase    : Phase
  admitted : Bool
  /-- Charges already admitted (R482: one per piece). -/
  paid     : Nat
  /-- Chunks still to run plus those run: `chunk` of `chunks` have run (R175). -/
  chunk    : Nat
  chunks   : Nat
  /-- The scan carries between chunks (R211). -/
  carry    : List Word
  value    : Word
  bound    : List Span
  /-- What it has written in the tiers, which a warm restart leaves undefined (R271, R285). -/
  dst      : List Span
  /-- The address of an indexed access's lowest active element, once fired (R546). -/
  first    : Option Nat
  fallback : Bool
  sampled  : Bool
  fireTick : Long
  deriving DecidableEq, Repr

/-- The fetch position of a core in its step programs (R67, R72-R75). -/
structure Fetch where
  step    : Word
  recIx   : Nat
  nest    : List LoopFrame
  blocked : Bool
  gens    : FMap Nat
  deriving DecidableEq, Repr

/-- A vector engine (R161). -/
structure Vec where
  regs  : FMap Word
  masks : FMap (BitVec 1024)
  cur   : VSet
  deriving DecidableEq, Repr

/-- A tile buffer (R130): shape 0 to 2, or 3 when empty. -/
structure Tile where
  shape : Nat
  fmt   : Nat
  rows  : Nat
  data  : List Host.Cell
  scale : List Host.Cell
  deriving DecidableEq, Repr

/-- A pass in the array (R142). -/
structure Pass where
  uid     : Nat
  buf     : Nat
  shape   : Nat
  reading : Bool
  deriving DecidableEq, Repr

/-- A culture-table slot (R229, R239). State 0 empty, 1 valid, 2 invalid after a parity error, 3 awaiting reload; `parity` lists
the 16-byte entries whose parity is bad (R233). -/
structure Slot where
  active : Option Table
  shadow : Option (Nat × Table)
  gen    : Half
  state  : Nat
  parity : List Nat
  /-- Is the shadow copy complete (R230)? -/
  loaded : Bool
  deriving DecidableEq, Repr

/-- A core (R22). `part` is the partition that holds it and `logical` its logical core number 16c + k (R122). -/
structure Core where
  part     : Option Nat
  logical  : Nat
  halted   : Bool
  taking   : Bool
  nextUid  : Nat
  window   : List Entry
  fetch    : Option Fetch
  tokens   : List Tok
  resolved : List Resolved
  v0       : Vec
  v1       : Vec
  tile0    : Tile
  tile1    : Tile
  acc      : FMap Word
  passes   : List Pass
  lastPart : Nat
  slots    : FMap Slot
  pslots   : FMap Rennet
  samples  : FMap (List Long)
  sampleCount : Nat
  deriving DecidableEq, Repr

/-! ### Clusters -/

/-- A copy in the engine's queue or taken from it (R258): the bytes it will write, as bound when it fired, in the order of its
destination spans, and the address of each span, virtual where `virt`; `started` once it runs. -/
structure CopyJob where
  core : Nat
  uid  : Nat
  part : Nat
  g24  : Bool
  data : List Byte
  dst  : List Span
  vas  : List Nat
  virt : Bool
  started : Bool
  deriving DecidableEq, Repr

/-- An INGEST queued or running (R412, R414): its operation word, the profile and the input extents bound when it fired, the
pictures to write and how many the decoder gave, and the table's counts. -/
structure IngJob where
  core    : Nat
  uid     : Nat
  part    : Nat
  step    : Word
  op      : Long
  prof    : BitVec 512
  input   : List Span
  started : Bool
  admitted : Bool
  pics    : List VPic
  decoded : Nat
  flags   : Nat
  next    : Nat
  written : Nat
  discarded : Nat
  dst     : List Span
  deriving DecidableEq, Repr

/-- A status word being combined (R381). -/
structure StatusW where
  flags  : BitVec 3
  nonfin : Nat
  ovf    : Nat
  unf    : Nat
  sub    : Nat
  shards : Nat
  deriving DecidableEq, Repr

/-- The node of one local shard in a collective instance (R379), or its share of a shuffle (R391): its source elements (bytes
for a shuffle) and where they were read, the spans of its destination and then of its status word, with their virtual addresses where they have one, its children's terms by sender and element, what has
come of its result (bytes per position for a shuffle), and the messages sent whose credits have not returned. -/
structure Node where
  shard   : Nat
  core    : Nat
  uid     : Nat
  src     : List Nat
  own     : StatusW
  srcAt   : List Span
  dst     : List Span
  vas     : List (Option Nat)
  terms   : FMap (FMap Nat)
  words   : FMap StatusW
  sent    : Bool
  result  : FMap Nat
  final   : Option StatusW
  owing   : Nat
  deriving DecidableEq, Repr

/-- A collective or shuffle instance on this module (R375): `kind` 0 COLL, 1 COLL_STAT, 2 SHUF; `elems` the elements of a
source, or the units of a sample, and `samples` the samples of the epoch. `last` is the tick of the last progress event (R386)
and `paces` the PACE fields received with their ticks; `gen` is COLL_GEN when it began (R392). -/
structure CollInst where
  id      : InstId
  kind    : Nat
  epoch   : Word
  redop   : Nat
  elems   : Nat
  samples : Nat
  nodes   : List Node
  last    : Long
  paces   : List (Nat × Long)
  gen     : Nat
  deriving DecidableEq, Repr

/-- A requester's standing at a Confluence resource (R307, R309): the beat its request was first presented, its retry count and back-off. -/
structure ConfReq where
  since   : Option Nat
  retry   : Nat
  backoff : Nat
  deriving DecidableEq, Repr

/-- The requests queued at a Confluence requester (R305): for each unit behind it the resources it asks for, oldest first, and the unit whose
turn comes first. -/
structure ConfQueue where
  units : FMap (List Nat)
  turn  : Nat
  deriving DecidableEq, Repr

/-- A Confluence resource (R305-R311): beats arbitrated, grants since the eddy count restarted, the designated
requesters in the order of their designation, the values of N and of the ranks in force, and the requesters. -/
structure ConfRes where
  beat    : Nat
  grants  : Nat
  designated : List Nat
  n       : Nat
  ranks   : Long
  reqs    : FMap ConfReq
  last    : Option Nat
  deriving DecidableEq, Repr

/-- A link message (R355). -/
structure Msg where
  mtype : Byte
  stage : Nat
  neigh : Bool
  dest  : Half
  src   : Half
  path  : List Byte
  tag   : Word
  data  : List Byte
  deriving DecidableEq, Repr

/-- What a message is for, which the return of its credits completes: nothing, a DEST 0 SAVE (R452), a collective instance of a cluster,
or a shard's part in a shuffle (R391). -/
inductive Purpose where
  | plain
  | save (core uid : Nat)
  | coll (cl : Nat) (i : InstId)
  | shuf (cl : Nat) (i : InstId) (shard : Nat)
  deriving DecidableEq, Repr

/-- A collective message that waits for the reserve (R482, R487): its partition, its ports, what its credits complete, how many of its
bytes lie in the fast and in the slow tier, and the PACE fields that its instance had received, with their ticks (R387). -/
structure Due where
  part    : Nat
  msg     : Msg
  ports   : Half
  purpose : Purpose
  fast    : Nat
  slow    : Nat
  paces   : List (Nat × Long)
  deriving DecidableEq, Repr

structure Cluster where
  due     : List Due
  copyQ   : List CopyJob
  copyRun : List CopyJob
  ingQ    : List IngJob
  coll    : List CollInst
  conf    : FMap ConfRes
  confQ   : FMap ConfQueue
  /-- The 64 most recently corrected words, newest first, each with the ticks of its corrected reads (R304). -/
  ecc     : List (Nat × List Nat)
  restarting : Bool
  deriving DecidableEq, Repr

/-! ### Partitions -/

/-- The four counts of a gauge (R59, R60). -/
structure Gauge where
  nonfin : Nat
  ovf    : Nat
  unf    : Nat
  sub    : Nat
  deriving DecidableEq, Repr

/-- A fault record (R87); whether an instruction's step stands in it, and an address (R581). -/
structure FaultRec where
  imgOffset : Word
  cause     : Byte
  more      : Nat
  core      : Byte
  step      : Word
  index     : Word
  addr      : Long
  hasStep   : Bool
  hasAddr   : Bool
  deriving DecidableEq, Repr

/-- An unpaired exchange instruction (R444): the side, the core and entry, the peer partition and slot. -/
structure XWait where
  send : Bool
  core : Nat
  uid  : Nat
  peer : Nat
  slot : Nat
  k    : Nat
  data : List Byte
  deriving DecidableEq, Repr

/-- The shared store of a partition (JOB_STORE, R456, R459). -/
structure Store where
  qpn    : Nat
  rkey   : Word
  base   : Nat
  stride : Nat
  deriving DecidableEq, Repr

/-- A partition. `halting`: a halt has begun and not every core has received its notice (R84, R88); `untold`: its PART_HALTED event and
PART_FAULT record are still to be sent (R584); `haltFor`: the session and SEQ of each PART_HALT that waits for it (R585). -/
structure Part where
  img       : Option PartImg
  step      : Word
  firstStep : Word
  contrib   : FMap (List Nat)
  collected : List Word
  barriers  : List Word
  gauges    : FMap (FMap Gauge)
  lastGauge : FMap Gauge
  poison    : List Word
  flagged   : FMap (Nat × Nat)
  /-- The steps with an instruction in fallback mode, for the status word (R383). -/
  fellBack  : List Word
  fault     : Option FaultRec
  halting   : Bool
  untold    : Bool
  haltFor   : List (Word × Word)
  gates     : FMap Word
  xwaits    : List XWait
  xcount    : FMap Nat
  ferrySeq  : Nat
  store     : Option Store
  storeDone : FMap (List Nat)
  vreq      : Nat
  /-- The tick of its last step barrier in this run (R488). -/
  lastBar   : Option Long
  onTime    : Nat
  energy    : Nat
  deriving DecidableEq, Repr

/-- A load in progress (R117, R120, R124): its targets, those it stopped while they ran, whether steps 1 to 4 of R120 have been
done, and what the targets were before. -/
structure Load where
  off     : Nat
  len     : Nat
  halt    : Bool
  session : Word
  seq     : Word
  image   : Option Image
  targets : List Nat
  stopped : List Nat
  placed  : Bool
  old      : FMap PartImg
  oldHdr   : Option ImgHdr
  oldPlace : FMap Nat
  oldBuild : FMap Long
  deriving DecidableEq, Repr

/-- A partition being reset (R586) or recovered (R470): the first step of a recovery, the session and SEQ of a PART_RESET, and
whether steps 1 to 4 of R120 have been done. -/
structure Reset where
  part   : Nat
  first  : Option Word
  reply  : Option (Word × Word)
  placed : Bool
  deriving DecidableEq, Repr

/-! ### Links -/

/-- A message waiting to be sent: the ports it may take (R361, R363), and the port it came in on where it is forwarded. -/
structure Waiting where
  msg     : Msg
  ports   : Half
  origin  : Option Nat
  purpose : Purpose
  deriving DecidableEq, Repr

/-- The partner's offer (R349). -/
structure Offer where
  vset     : BitVec 3
  feat     : Byte
  port     : BitVec 4
  pairs    : BitVec 4
  module   : Half
  moduleValid : Bool
  feedA    : Byte
  feedB    : Byte
  device   : Long
  alloc    : List Nat
  deriving DecidableEq, Repr

/-- What a link port holds beside its registers (R348-R358). -/
structure Port where
  powered  : Bool
  trained  : BitVec 4
  badLanes : Byte
  offer    : Option Offer
  device   : Long
  sentAfter : Nat
  credits  : FMap Nat
  owed     : FMap Nat
  /-- Messages sent whose credits have not all returned: VC and stage, credits, purpose; oldest first. -/
  inflight : List (Nat × Nat × Purpose)
  txSeq    : Nat
  /-- Unacknowledged DATA flits: sequence number and payload. -/
  replay   : List (Nat × List Byte)
  naks     : Nat
  rxNext   : Nat
  rxAny    : Bool
  nakDue   : Bool
  rxBytes  : List Byte
  inbox    : List Msg
  /-- DATA flits accepted since an acknowledgement was last sent (R358). -/
  unacked  : Nat
  /-- LNK_CTRL.OFFER as it stood on entry to NEGOTIATE (R364). -/
  vset     : Nat
  deriving DecidableEq, Repr

/-! ### Host side -/

/-- A frame of the module's numbered series (R403): kind 2 COMPLETION or 3 EVENT. -/
structure CtlFrame where
  kind    : Nat
  seq     : Word
  mailbox : Byte
  code    : Half
  tag     : Word
  body    : List Byte
  /-- SEQ of the command that a COMPLETION answers. -/
  cmd     : Word
  deriving DecidableEq, Repr

/-- A session (R404, R405): `running` has the SEQ and TAG of commands executed and not yet completed, `queued` those accepted that
wait for their mailbox (R407), `held` those that came early with their TAG. -/
structure Session where
  id      : Word
  admin   : Bool
  ip      : BitVec 128
  port    : NetId
  version : Byte
  expect  : Word
  sendSeq : Word
  unacked : List CtlFrame
  history : List CtlFrame
  held    : List (Word × Word × CtlCmd)
  running : List (Word × Word)
  queued  : List (Word × CtlCmd)
  resends : Nat
  lost    : Nat
  deriving DecidableEq, Repr

structure Qp where
  qpn     : Nat
  port    : Fin 2
  session : Word
  err     : Bool
  mtu     : Nat
  hostQpn : BitVec 24
  hostPsn : BitVec 24
  hostIp  : BitVec 128
  slowed  : Bool
  deriving DecidableEq, Repr

structure Region where
  rkey  : Word
  part  : Option Nat
  va    : Nat
  len   : Nat
  read  : Bool
  write : Bool
  session : Word
  deriving DecidableEq, Repr

/-- A GATE_POST not yet in effect (R410). -/
structure GatePost where
  part    : Nat
  gate    : Nat
  value   : Word
  session : Word
  seq     : Word
  deriving DecidableEq, Repr

/-- An export of the ferry (R437-R442): `bound` the spans of its regions not yet read, `old` the 64 KiB blocks copied to the buffer;
`rate` its cap in GB/s, `start` the tick at which it began and `served` the granules read since (R440); `sent` the bytes of the regions
read for sending, in list order. -/
structure Ferry where
  part    : Nat
  core    : Nat
  uid     : Nat
  step    : Word
  seq     : Nat
  buildId : Long
  qpn     : Nat
  listVa  : Nat
  bufVa   : Nat
  bufBlocks : Nat
  tRaddr  : Long
  tRkey   : Word
  regions : List (Nat × Nat × Long × Word)
  bound   : List Span
  rate    : Nat
  start   : Long
  served  : Nat
  damaged : Nat
  old     : FMap (List Byte)
  sent    : List Byte
  deriving DecidableEq, Repr

/-- Where a DEST 2 SAVE goes (R456): its queue pair and key, the trailer's address, its extent's number and the extents of its slot. -/
structure SaveStore where
  qpn     : Nat
  rkey    : Word
  trailer : Nat
  index   : Nat
  count   : Nat
  deriving DecidableEq, Repr

/-- A SAVE that has fired and is not done (R452): its bytes as bound, whether it still waits for COMMIT_M (DEST 0) or for the
trailer's acknowledgement (DEST 2), the messages whose credits or acknowledgements have not returned, and a DEST 2 SAVE's store. -/
structure Save where
  part  : Nat
  core  : Nat
  uid   : Nat
  dest  : Nat
  step  : Word
  shard : Nat
  slot  : Nat
  areaOff : Nat
  data  : List Byte
  gated : Bool
  waiting : Nat
  store : Option SaveStore
  deriving DecidableEq, Repr

/-! ### The job (R449-R477) -/

/-- A committed or received map of a partition (R459-R461). -/
structure JobMap where
  part    : Nat
  relaxed : Bool
  jobgen  : Word
  shards  : Nat
  entries : FMap MapEntry
  deriving DecidableEq, Repr

/-- What was last heard from a peer (R464): the tick of its last heartbeat and its fields. -/
structure Peer where
  heard  : Long
  hseq   : Word
  jobgen : Word
  role   : Nat
  state  : Nat
  feedA  : Byte
  feedB  : Byte
  mirrorDone : Word
  ckptDone   : Word
  mapcrc : Word
  deriving DecidableEq, Repr

/-- One buffer of a home or mirror area in the partner reserve (R454): its first byte in the slow tier, its length, and the
generation it holds with the bytes of it that have come. -/
structure Buf where
  part  : Nat
  shard : Nat
  home  : Bool
  addr  : Nat
  len   : Nat
  step  : Word
  got   : Nat
  full  : Bool
  deriving DecidableEq, Repr

/-- The job record (R459-R470). `declGen` and `lost` are the generation last declared; `resume`, `layer` and `go` what is
broadcast for it; `loads` the shards still to load (partition × 2^20 + shard) with their source, coded 1 to 5 in R468's order, and
the bytes that have come; `sites` the modules that hold each shard's copy at COMMIT_M, and `ckSites` the module and unit of its
copy at COMMIT_C; `since` and `role1` the ticks of the last change of map or role and of the last ROLE 1 heartbeat; `asked` the host's
JOB_RESUME that the coordinator holds; `lastTry` and `lastResume` the steps of the last recovery started and of the last GO since; `hbPeriod`
PERIOD as the last heartbeat took it (R475); `mapStep` the first generation that counts as one under each committed map (R454). -/
structure Job where
  maps      : FMap JobMap
  received  : FMap JobMap
  peers     : FMap Peer
  hseq      : Word
  wseq      : Word
  declGen   : Word
  lost      : List Nat
  resume    : Option Word
  layer     : Nat
  go        : Bool
  mismatch  : Bool
  /-- Every job partition's map has been committed anew since ORPHAN was entered (R467). -/
  remapped  : Bool
  loads     : FMap (Nat × Nat)
  recoveries : Nat
  lastTry    : Option Word
  lastResume : Option Word
  asked      : Option (Word × Nat)
  hbPeriod   : Nat
  mapStep    : FMap Word
  since     : Long
  role1     : Long
  coord     : Option Nat
  deputy    : Option Nat
  bufs      : List Buf
  retained  : List Buf
  sites     : FMap (List Nat)
  ckSites   : FMap (Nat × Nat)
  mirrorDone : Word
  forwarded : List (Nat × Word)
  deriving DecidableEq, Repr

/-- The header of a checkpoint slot (R455), with the bytes of the checkpoint that have come. -/
structure CkHead where
  part     : Nat
  shard    : Nat
  step     : Word
  jobgen   : Word
  build    : Long
  got      : Nat
  complete : Bool
  deriving DecidableEq, Repr

/-- What a cartridge that has been taken out keeps (R606): its bytes, its slots' headers and the bytes written to it. -/
structure Shelf where
  data    : List Host.Cell
  heads   : FMap CkHead
  written : Nat
  deriving DecidableEq, Repr

/-- The cartridge (R455, R567-R570): its bytes, its slots' headers by unit, the bytes written to it since manufacture as the
module counts them, the serial of the last one authenticated, and its link's width and generation. `blind` until the one in the slot has been
authenticated, `inserts` counts insertions, and `shelf` holds the ones taken out by serial. -/
structure Cart where
  present : Bool
  nvme    : Bool
  blind   : Bool
  inserts : Nat
  shelf   : FMap Shelf
  data    : List Host.Cell
  heads   : FMap CkHead
  written : Nat
  serial  : Long
  width   : Nat
  gen     : Nat
  deriving DecidableEq, Repr

/-! ### Energy, meter, clocks, test, boot -/

/-- The Weir's planning state (R478-R490). Energies are in units of 2^-20 / (16 × 5,625) pJ: `bEff` and `eAdm` are the
budget and the admissible energy of the window, `predicted` the predicted cost admitted in it by rail group, and `waiting`
the charge of each core that has been counted as waiting (its entry and piece), with the tick at which it began to wait in `since`. `debt` names
the accounts that went negative and have admitted nothing since (16 the reserve), `anyWait` says that a charge has waited in the window, and
`late` that one whose wait has ended waited longer than 0.5 ms. -/
structure Weir where
  windows  : Nat
  vBudget  : Nat
  vTherm   : Nat
  cool     : Nat
  accts    : FMap Int
  reserve  : Int
  spare    : Int
  bEff     : Nat
  eAdm     : Nat
  predicted : FMap Nat
  waiting  : FMap (Nat × Nat)
  since    : FMap Long
  debt     : List Nat
  anyWait  : Bool
  late     : Bool
  running  : Bool
  deriving DecidableEq, Repr

/-- The Plaured meter (R491-R497). Energies in micro-joules. -/
structure Meter where
  energyA : Nat
  energyB : Nat
  nvA     : Nat
  nvB     : Nat
  seq     : Long
  uptime  : Long
  peakA   : Word
  peakB   : Word
  powerA  : Word
  powerB  : Word
  rangeA  : Bool
  rangeB  : Bool
  restart : Bool
  tamper  : Bool
  fault   : Bool
  /-- Has the keeper recorded the fault that stands (R497)? -/
  told    : Bool
  ready   : Bool
  records : FMap (List Byte)
  latest  : Nat
  deriving DecidableEq, Repr

/-- One direction of a crossing (R514, R515): the units in its queue, each with the cluster whose it is (8 for the rest of the die), those that
its sender still holds for want of room, the samples taken of the front unit, and the unit last accepted as its samples showed it. -/
structure XDir where
  queue   : List (Nat × List Byte)
  sender  : List (Nat × List Byte)
  samples : List (List Byte)
  taken   : List Byte
  deriving DecidableEq, Repr

/-- A crossing (R514-R519): its two directions, the sides in reset and whether each one's notice has been answered, the clusters whose warm
restart holds their side of it in reset (R528), and its counts. -/
structure Xing where
  toClocked : XDir
  toSelf    : XDir
  selfReset : Bool
  clkReset  : Bool
  selfAcked : Bool
  clkAcked  : Bool
  clusters  : List Nat
  counts    : Long
  deriving DecidableEq, Repr

/-- A retirement entry (R531). -/
structure Retire where
  kind    : Nat
  source  : Nat
  cluster : Nat
  core    : Nat
  ppn     : Nat
  slice   : Nat
  hours   : Nat
  deriving DecidableEq, Repr

/-- One stored copy of the retirement record (R530): its 64-byte header as it stands in the flash, none before the first write, and its
entries in use. -/
structure RetireCopy where
  head    : List Byte
  entries : List Retire
  deriving DecidableEq, Repr

/-- The self-test controller (R523-R526, R535): the rota pointer P, the block requested, the block under a scheduled slice, the
target of a directed test with its slices still to run and the first that failed, and the tick at which each block was last covered; the
pattern generator and the signature register (R523). -/
structure Bist where
  pointer : Nat
  wanted  : Option Nat
  running : Option Nat
  target  : Nat
  todo    : List Nat
  failed  : Option Nat
  covered : FMap Long
  pattern   : Long
  signature : Long
  deriving DecidableEq, Repr

/-- A feed (R489, R598). -/
structure Feed where
  valid     : Bool
  mated     : Bool
  connected : Bool
  strap     : Byte
  deriving DecidableEq, Repr

/-- A certificate of the key store (R560). -/
structure Cert where
  keyId     : Nat
  alg       : Byte
  use       : Byte
  issuerRsa : Nat
  issuerSlh : Nat
  subject   : Long
  states    : Byte
  key       : List Byte
  raw       : List Byte
  deriving DecidableEq, Repr

/-- A keeper firmware slot (R559). -/
structure FwSlot where
  bytes : List Byte
  deriving DecidableEq, Repr

/-- Fuses, key store and firmware (R559-R566). -/
structure Life where
  fuses   : BitVec 4
  svn     : Nat
  revoked : Long
  device  : Long
  /-- The certificate list of package flash (R561), and the certificates of it that were accepted. -/
  store   : List (List Byte)
  keys    : List Cert
  fw0     : FwSlot
  fw1     : FwSlot
  running : Nat
  refuseImages : Bool
  deriving DecidableEq, Repr

/-- An error record (R581). -/
structure ErrRec where
  seq      : Nat
  severity : Nat
  code     : Nat
  tick     : Long
  part     : Option Nat
  unit     : Nat
  step     : Option Word
  addr     : Option Nat
  detail   : List Byte
  deriving DecidableEq, Repr

structure Keeper where
  log     : List ErrRec
  held    : List ErrRec
  seq     : Nat
  reduced : Bool
  /-- The tick of the last kick (R575). -/
  kick    : Long
  deriving DecidableEq, Repr

/-- A stack's row repair and heat history (R331-R336): reports since the level rose, cool reports in a row, the row
under repair, the ticks of recent errors by row, and the spare rows used by bank. -/
structure Stack where
  sinceRise : Nat
  cool      : Nat
  repairing : List Nat
  rows      : FMap (List Nat)
  banks     : FMap Nat
  pacing    : Bool
  deriving DecidableEq, Repr

/-- A sluice (R328, R329): minimum and cap tokens of its classes in units of 1 / 2^20, the round-robin positions, the class last
served, the granules that wait in each class, and the ferry reads of each partition that wait (R440). -/
structure Sluice where
  mins   : FMap Nat
  caps   : FMap Nat
  rrMin  : Nat
  rrCap  : Nat
  served : Option Nat
  pend   : FMap Nat
  ferry  : FMap Nat
  deriving DecidableEq, Repr

/-- What a host port took from ETH_CTRL at its last link training (R423): PFC_EN, PRIO_CTL and PRIO_ROCE. -/
structure EthSet where
  pfc  : Byte
  ctl  : Nat
  roce : Nat
  deriving DecidableEq, Repr

/-- How a frame leaves a network port: its VLAN where frames are tagged, its priority, which the management port has none of, its source
address, and whether the destination shares the prefix of that address, so that it needs no router (R398, R399, R591). -/
structure Wire where
  vlan   : Option Nat
  prio   : Option Nat
  src    : BitVec 128
  onLink : Bool
  deriving DecidableEq, Repr

/-- RoCE v2 packets of the module (R400, R401). -/
inductive RoceOut where
  | ack
  | nak (code : Nat)
  | data (bytes : List Byte)
  | cnp
  | write (rkey : Word) (raddr : Nat) (bytes : List Byte)
  | read (rkey : Word) (raddr : Nat) (len : Nat)
  deriving DecidableEq, Repr

/-- What the module sends to the outside: control frames with their 32-byte header (R403), answers to queries, RoCE packets, the priorities
that a host port's PFC frames hold the host back on (R398), flits, and the nonce that a cartridge is to sign (R569). The list of them
is the model's own record. -/
inductive Output where
  | udp (port : NetId) (wire : Wire) (ip : BitVec 128) (bytes : List Byte)
  | queryReply (port : NetId) (vlan : Option Nat) (ip : BitVec 128)
  | roce (port : Fin 2) (wire : Wire) (qpn : Nat) (what : RoceOut)
  | pfc (port : Fin 2) (prios : Byte)
  | flit (p : PortId) (bytes : List Byte)
  | cart (nonce : List Byte)
  deriving DecidableEq, Repr

/-! ### The machine -/

structure State where
  pending  : List Instr
  /-- The MODEL's own: which fresh free value comes next. -/
  fresh    : Nat
  /-- The MODEL's own record of what was sent, newest first. -/
  out      : List Output
  /-- What each host port took from ETH_CTRL, the priorities that the host's PFC frames hold back, the frames that wait for it, oldest first,
  and the priorities that the module's own PFC frames hold back (R398, R423). -/
  eth      : FMap EthSet
  paused   : FMap Byte
  waitOut  : List Output
  pfcSent  : FMap Byte
  /-- The die counters in level mode that have counted in this tick, with the event and unit counted (R539). -/
  dieSeen  : List (Nat × Nat)
  tick     : Long
  /-- Ticks counted in earlier power-ups (R531). -/
  opTicks  : Nat
  mrs      : FMap Long
  fast     : Tier
  slow     : Tier
  vats     : FMap Bank
  pools    : FMap Bank
  held     : List Held
  /-- Blocks with a vat or pool array found failing, not yet retired by the keeper (R304); empty between commands. -/
  failing  : List Nat
  /-- Has the command met a bank under soft repair or a stopped stack, so that it waits (R335, R336)? False between commands. -/
  stalled  : Bool
  cores    : FMap Core
  clusters : FMap Cluster
  parts    : FMap Part
  hdr      : Option ImgHdr
  place    : FMap Nat
  load     : Option Load
  resets   : List Reset
  ports    : FMap Port
  waiting  : List Waiting
  paceSeq  : Half
  paceDue  : Bool
  sessions : List Session
  nextId   : Nat
  qps      : List Qp
  regions  : List Region
  gatePosts : List GatePost
  ferries  : List Ferry
  saves    : List Save
  job      : Job
  cart     : Cart
  weir     : Weir
  meter    : Meter
  xings    : FMap Xing
  retireA  : RetireCopy
  retireB  : RetireCopy
  bist     : Bist
  bootStep : Nat
  feedA    : Feed
  feedB    : Feed
  life     : Life
  keeper   : Keeper
  hbm      : FMap Stack
  derated  : List Nat
  /-- Power domains that are off (R32, R302): 0 to 127 the cores, 128 + c the commons, 136 + c the ingest engines, 144 + s the HBM
  controllers, 152 + n the host Ethernet ports; a link port's is `Port.powered`. -/
  off      : List Nat
  sluices  : FMap Sluice
  netFlash : FMap Long
  deriving DecidableEq, Repr

/-! ### Reset values -/

def VSet.zero : VSet := ⟨0, .known 0, false, 0, 0, 0, none⟩
def Vec.zero : Vec := ⟨[], [], VSet.zero⟩
def Tile.empty : Tile := ⟨3, 0, 0, [], []⟩
def Slot.empty : Slot := ⟨none, none, 0, 0, [], false⟩
def Bank.zero : Bank := ⟨[], []⟩
def Tier.zero : Tier := ⟨[], [], [], []⟩

/-- A core no partition holds, as R133, R164 and R237 leave it. -/
def Core.idle : Core :=
  { part := none, logical := 0, halted := false, taking := false, nextUid := 0, window := [], fetch := none,
    tokens := [], resolved := [], v0 := Vec.zero, v1 := Vec.zero, tile0 := Tile.empty, tile1 := Tile.empty,
    acc := [], passes := [], lastPart := 0, slots := [], pslots := [], samples := [], sampleCount := 0 }

def ConfReq.fresh : ConfReq := ⟨none, 1, 0⟩
def ConfQueue.empty : ConfQueue := ⟨[], 0⟩
/-- A Confluence resource at reset: N = 8 and the ranks of R315's Reset column. -/
def ConfRes.fresh : ConfRes := ⟨0, 0, [], 8, 0xEF55555555#64, [], none⟩
def Cluster.idle : Cluster := ⟨[], [], [], [], [], [], [], [], false⟩
def Part.undefinedPart : Part :=
  { img := none, step := 0, firstStep := 0, contrib := [], collected := [], barriers := [], gauges := [],
    lastGauge := [], poison := [], flagged := [], fellBack := [], fault := none, halting := false, untold := false, haltFor := [], gates := [], xwaits := [], xcount := [],
    ferrySeq := 0, store := none, storeDone := [], vreq := 0, lastBar := none, onTime := 0, energy := 0 }
def Port.off : Port :=
  { powered := false, trained := 0, badLanes := 0, offer := none, device := 0, sentAfter := 0, credits := [],
    owed := [], inflight := [], txSeq := 0, replay := [], naks := 0, rxNext := 0, rxAny := false, nakDue := false, rxBytes := [], unacked := 0, vset := 0,
    inbox := [] }
def XDir.empty : XDir := ⟨[], [], [], []⟩
def Xing.running : Xing := ⟨XDir.empty, XDir.empty, false, false, false, false, [], 0⟩
def Stack.cold : Stack := ⟨2, 0, [], [], [], false⟩
/-- ETH_CTRL's reset values (R423). -/
def EthSet.reset : EthSet := ⟨8, 6, 3⟩
def Sluice.empty : Sluice := ⟨[], [], 0, 0, none, [], []⟩
def Job.none : Job :=
  { maps := [], received := [], peers := [], hseq := 0, wseq := 0, declGen := 0, lost := [], resume := Option.none, layer := 0,
    go := false, mismatch := false, remapped := false, loads := [], recoveries := 0, lastTry := Option.none, lastResume := Option.none,
    asked := Option.none, hbPeriod := 10000, mapStep := [], since := 0, role1 := 0,
    coord := Option.none, deputy := Option.none, bufs := [], retained := [], sites := [], ckSites := [], mirrorDone := 0xFFFFFFFF#32,
    forwarded := [] }

/-- The module right after power-up: power-up step 1 in progress (R555), every register at its Reset column. -/
def State.reset : State :=
  { pending := [], fresh := 0, out := [], eth := [], paused := [], waitOut := [], pfcSent := [], dieSeen := [], tick := 0, opTicks := 0, mrs := [], fast := Tier.zero, slow := Tier.zero, vats := [],
    pools := [], held := [], failing := [], stalled := false, cores := [], clusters := [], parts := [], hdr := none, place := [], load := none, resets := [],
    ports := [], waiting := [], paceSeq := 0, paceDue := false, sessions := [], nextId := 1, qps := [],
    regions := [], gatePosts := [], ferries := [], saves := [], job := Job.none,
    cart := ⟨false, false, true, 0, [], [], [], 0, 0, 0, 0⟩,
    weir := { windows := 0, vBudget := 10, vTherm := 20, cool := 0, accts := [], reserve := 0, spare := 0, bEff := 0, eAdm := 0,
              predicted := [], waiting := [], since := [], debt := [], anyWait := false, late := false, running := false },
    meter := { energyA := 0, energyB := 0, nvA := 0, nvB := 0, seq := 0, uptime := 0, peakA := 0, peakB := 0,
               powerA := 0, powerB := 0, rangeA := false, rangeB := false, restart := true, tamper := false,
               fault := false, told := false, ready := false, records := [], latest := 0 },
    xings := [], retireA := ⟨[], []⟩, retireB := ⟨[], []⟩, bist := ⟨0, none, none, 0, [], none, [], 0, 0⟩,
    bootStep := 1, feedA := ⟨false, false, false, 0⟩, feedB := ⟨false, false, false, 0⟩,
    life := { fuses := 0, svn := 0, revoked := 0, device := Config.deviceId, store := Config.factoryCerts, keys := [],
              fw0 := ⟨Config.factorySlot 0⟩, fw1 := ⟨Config.factorySlot 1⟩, running := 0,
              refuseImages := false },
    keeper := ⟨[], [], 0, false, 0⟩, hbm := [], derated := [], off := [], sluices := [], netFlash := [] }

/-! ### Reasons to stop -/

/-- Why a step stops with a fault. -/
inductive Fault where
  /-- A command operand that no part could present: raised by nothing in this model, safe. -/
  | impossible
  deriving DecidableEq, Repr

/-- Why a step is refused. -/
inductive Refusal where
  /-- Raised by a refused arm of the dispatcher for a command without a meaning yet; safe. -/
  | notModelled (mnemonic : String)
  deriving DecidableEq, Repr

end Sys2Proof.Machine
end

