-- ==== Sys2Proof/Machine/Regs.lean ====
section
/-! DEFINITION. The module register space (R13-R17, R579): one row per register with its base address, its index
dimensions (count and stride), the masks of its access codes and its reset value, and the raw read and write of a
register's home. What a write or a read does besides is in Mrs.lean. -/

namespace Sys2Proof.Machine

/-- The registers, each under its own name. -/
inductive RegId where
  /-- KEEP_IDENT, R2. -/
  | keepIdent
  /-- KEEP_STATUS, R588. -/
  | keepStatus
  /-- KEEP_CAPACITY, R589. -/
  | keepCapacity
  /-- KEEP_IMG_STATUS, R125. -/
  | keepImgStatus
  /-- KEEP_PART_BUILD_n, R126. -/
  | keepPartBuild
  /-- KEEP_PART_STATE, R587. -/
  | keepPartState
  /-- KEEP_WATCH, R590. -/
  | keepWatch
  /-- SLU_CLEAR, R344. -/
  | sluClear
  /-- SLU_SUMMARY, R345. -/
  | sluSummary
  /-- LNK_MODULE, R373. -/
  | lnkModule
  /-- COLL_GEN, R397. -/
  | collGen
  /-- JOB_STATUS, R474. -/
  | jobStatus
  /-- JOB_HB, R475. -/
  | jobHb
  /-- JOB_COMMITS, R476. -/
  | jobCommits
  /-- JOB_ERR, R477. -/
  | jobErr
  /-- FERRY_STATUS, R448. -/
  | ferryStatus
  /-- WEIR_BUDGET, R502. -/
  | weirBudget
  /-- WEIR_CTRL, R503. -/
  | weirCtrl
  /-- WEIR_STATUS, R504. -/
  | weirStatus
  /-- WEIR_CAL, R505. -/
  | weirCal
  /-- WEIR_RECON, R505. -/
  | weirRecon
  /-- WEIR_ACCT_p, R506. -/
  | weirAcct
  /-- WEIR_POOL, R506. -/
  | weirPool
  /-- WEIR_PART_E_p, R507. -/
  | weirPartE
  /-- KEEP_XING_SEL, R520. -/
  | xingSel
  /-- KEEP_XING_STAT, R521. -/
  | xingStat
  /-- BIST_CTRL, R535. -/
  | bistCtrl
  /-- BIST_STATUS, R536. -/
  | bistStatus
  /-- RETIRE_CLUSTER_c, R537. -/
  | retireCluster
  /-- PMC_DIE_CNT_j, R550. -/
  | dieCnt
  /-- PMC_DIE_SEL_j, R551. -/
  | dieSel
  /-- PMC_DIE_OVF, R552. -/
  | dieOvf
  /-- LIFE_STATUS, R571. -/
  | lifeStatus
  /-- LIFE_CMD, R572. -/
  | lifeCmd
  /-- LIFE_CHALLENGE, R572. -/
  | lifeChallenge
  /-- NET_V4, R591. -/
  | netV4
  /-- NET_V6_HI, R591. -/
  | netV6Hi
  /-- NET_V6_LO, R591. -/
  | netV6Lo
  /-- NET_CTRL, R591. -/
  | netCtrl
  /-- MEA_STATUS, R158. -/
  | meaStatus
  /-- MEA_FLAGS, R159. -/
  | meaFlags
  /-- MEA_REPAIR, R160. -/
  | meaRepair
  /-- VEC_STATUS, R185. -/
  | vecStatus
  /-- VEC_FLAGS, R186. -/
  | vecFlags
  /-- SFU_STATUS, R236. -/
  | sfuStatus
  /-- SFU_FLAGS, R237. -/
  | sfuFlags
  /-- SFU_FALLBACK, R238. -/
  | sfuFallback
  /-- SFU_SLOT_s, R239. -/
  | sfuSlot
  /-- STRM_RS_FLAGS, R254. -/
  | rsFlags
  /-- STRM_GS_RANGE, R289. -/
  | gsRange
  /-- STRM_GS_FLAGS, R290. -/
  | gsFlags
  /-- PMC_REFTICK, R550. -/
  | pmcReftick
  /-- PMC_CNT_j, R550. -/
  | pmcCnt
  /-- PMC_SEL_j, R551. -/
  | pmcSel
  /-- PMC_OVF, R552. -/
  | pmcOvf
  /-- PMC_SAMPLE, R553. -/
  | pmcSample
  /-- PMC_SSTAT, R554. -/
  | pmcSstat
  /-- PMC sample buffer, R546. -/
  | pmcBuf
  /-- VAT_OWNER_i, R313. -/
  | vatOwner
  /-- POOL_OWNER_b, R313. -/
  | poolOwner
  /-- CONF_CTRL, R314. -/
  | confCtrl
  /-- CONF_RANK, R315. -/
  | confRank
  /-- CONF_STAT, R316. -/
  | confStat
  /-- VAT_ECC, R317. -/
  | vatEcc
  /-- COPY_STATUS, R287. -/
  | copyStatus
  /-- COPY_FLAGS, R288. -/
  | copyFlags
  /-- COLL_STATUS_REG, R394. -/
  | collStatus
  /-- COLL_WDOG, R395. -/
  | collWdog
  /-- COLL_ERR, R396. -/
  | collErr
  /-- LNK_STATUS, R366. -/
  | lnkStatus
  /-- LNK_CTRL, R367. -/
  | lnkCtrl
  /-- LNK_VC_ALLOC, R368. -/
  | lnkVcAlloc
  /-- LNK_PEER, R369. -/
  | lnkPeer
  /-- LNK_PEER_DEV, R369. -/
  | lnkPeerDev
  /-- LNK_ERR, R370. -/
  | lnkErr
  /-- LNK_LANE, R371. -/
  | lnkLane
  /-- LNK_PACE, R372. -/
  | lnkPace
  /-- SLU_HEAT, R340. -/
  | sluHeat
  /-- SLU_ERR (stack), R341. -/
  | sluErrF
  /-- SLU_ERR (LPDDR6), R341. -/
  | sluErrS
  /-- SLU_ERR_ADDR (stack), R342. -/
  | sluErrAddrF
  /-- SLU_ERR_ADDR (LPDDR6), R342. -/
  | sluErrAddrS
  /-- SLU_PPR, R343. -/
  | sluPpr
  /-- ETH_STATUS, R422. -/
  | ethStatus
  /-- ETH_CTRL, R423. -/
  | ethCtrl
  /-- CTL_STATUS, R424. -/
  | ctlStatus
  /-- ING_STATUS, R425. -/
  | ingStatus
  /-- ING_ERR, R426. -/
  | ingErr
  /-- MTR_STATUS, R508. -/
  | mtrStatus
  /-- MTR_ENERGY_A, R509. -/
  | mtrEnergyA
  /-- MTR_ENERGY_B, R509. -/
  | mtrEnergyB
  /-- MTR_POWER, R509. -/
  | mtrPower
  /-- MTR record buffers, R509. -/
  | mtrBuf
  /-- CART_STATUS, R573. -/
  | cartStatus
  /-- CART_WEAR, R574. -/
  | cartWear
  /-- CART_SERIAL, R574. -/
  | cartSerial
  deriving DecidableEq, Repr

/-- A register's place and access masks. -/
structure RegRow where
  id    : RegId
  base  : Nat
  dims  : List (Nat × Nat)
  rw    : Long
  w1c   : Long
  rc    : Long
  reset : Long
  deriving DecidableEq, Repr


/-- A register's row. PMC_SAMPLE begins at R553's Reset column, UNITS 0x1FF, although R542 has it zero at power-up (DESIGN CHOICE,
log 48). -/
def RegId.row : RegId → RegRow
  | .keepIdent => ⟨.keepIdent, 0x00000000, [], 0x0, 0x0, 0x0, 0xEA7000201100000⟩
  | .keepStatus => ⟨.keepStatus, 0x00000008, [], 0x0, 0x0, 0xFFFF0000, 0x0⟩
  | .keepCapacity => ⟨.keepCapacity, 0x00000010, [], 0x0, 0x0, 0x0, 0x0⟩
  | .keepImgStatus => ⟨.keepImgStatus, 0x00000100, [], 0x0, 0x0, 0x0, 0x0⟩
  | .keepPartBuild => ⟨.keepPartBuild, 0x00000140, [(16, 0x8)], 0x0, 0x0, 0x0, 0x0⟩
  | .keepPartState => ⟨.keepPartState, 0x00000200, [], 0x0, 0x0, 0x0, 0x0⟩
  | .keepWatch => ⟨.keepWatch, 0x00000300, [], 0x3FF000, 0x4, 0x0, 0x32000⟩
  | .sluClear => ⟨.sluClear, 0x00030000, [], 0x3FFFFFFFFFE00000, 0x4000000000000000, 0x0, 0x0⟩
  | .sluSummary => ⟨.sluSummary, 0x00030008, [], 0x0, 0x0, 0x0, 0xFFFFFFFF⟩
  | .lnkModule => ⟨.lnkModule, 0x00040000, [], 0x1FFFF, 0x0, 0x0, 0x0⟩
  | .collGen => ⟨.collGen, 0x00040008, [], 0xFFF, 0x0, 0x0, 0x0⟩
  | .jobStatus => ⟨.jobStatus, 0x00040010, [], 0x0, 0x0, 0x0, 0x0⟩
  | .jobHb => ⟨.jobHb, 0x00040018, [], 0xFFFFFFFF, 0x0, 0x0, 0x2710⟩
  | .jobCommits => ⟨.jobCommits, 0x00040020, [], 0x0, 0x0, 0x0, 0xFFFFFFFFFFFFFFFF⟩
  | .jobErr => ⟨.jobErr, 0x00040028, [], 0x0, 0x0, 0xFFFFFFFFFFFFFFFF, 0x0⟩
  | .ferryStatus => ⟨.ferryStatus, 0x00050000, [], 0x0, 0x0, 0xFFFF0000FF00, 0x0⟩
  | .weirBudget => ⟨.weirBudget, 0x00060000, [], 0xFFF, 0x0, 0x0, 0x82000000A28⟩
  | .weirCtrl => ⟨.weirCtrl, 0x00060008, [], 0xFF011F1F, 0x0, 0x0, 0x64001400⟩
  | .weirStatus => ⟨.weirStatus, 0x00060010, [], 0x0, 0x2, 0x0, 0xA000001000000⟩
  | .weirCal => ⟨.weirCal, 0x00060018, [], 0x0, 0x0, 0x0, 0x0⟩
  | .weirRecon => ⟨.weirRecon, 0x00060020, [], 0x0, 0x0, 0x0, 0x400400400400400⟩
  | .weirAcct => ⟨.weirAcct, 0x00060100, [(16, 0x8)], 0x0, 0x0, 0xFFFF, 0x0⟩
  | .weirPool => ⟨.weirPool, 0x00060180, [], 0x0, 0x0, 0x0, 0x0⟩
  | .weirPartE => ⟨.weirPartE, 0x00060200, [(16, 0x8)], 0x0, 0x0, 0x0, 0x0⟩
  | .xingSel => ⟨.xingSel, 0x00070000, [], 0x1FF, 0x0, 0x0, 0x0⟩
  | .xingStat => ⟨.xingStat, 0x00070008, [], 0x0, 0x0, 0xFFFFFFFFFFFFFFFF, 0x0⟩
  | .bistCtrl => ⟨.bistCtrl, 0x00080000, [], 0xFFFF01F9, 0x0, 0x0, 0x1⟩
  | .bistStatus => ⟨.bistStatus, 0x00080008, [], 0x0, 0xC, 0xFFFF0000, 0x0⟩
  | .retireCluster => ⟨.retireCluster, 0x00080100, [(8, 0x8)], 0x0, 0x0, 0x0, 0x0⟩
  | .dieCnt => ⟨.dieCnt, 0x00090000, [(8, 0x8)], 0xFFFFFFFFFFFF, 0x0, 0x0, 0x0⟩
  | .dieSel => ⟨.dieSel, 0x00090040, [(8, 0x8)], 0xFFF0000003, 0x0, 0x0, 0x0⟩
  | .dieOvf => ⟨.dieOvf, 0x00090080, [], 0x0, 0xFF, 0x0, 0x0⟩
  | .lifeStatus => ⟨.lifeStatus, 0x000A0000, [], 0x0, 0x0, 0x0, 0x0⟩
  | .lifeCmd => ⟨.lifeCmd, 0x000A0008, [], 0xFF000001FFFFFFFE, 0x0, 0x0, 0x0⟩
  | .lifeChallenge => ⟨.lifeChallenge, 0x000A0010, [], 0x0, 0x0, 0x0, 0x0⟩
  | .netV4 => ⟨.netV4, 0x000B0000, [(3, 0x20)], 0xFFFFFFFF, 0x0, 0x0, 0x0⟩
  | .netV6Hi => ⟨.netV6Hi, 0x000B0008, [(3, 0x20)], 0xFFFFFFFFFFFFFFFF, 0x0, 0x0, 0x0⟩
  | .netV6Lo => ⟨.netV6Lo, 0x000B0010, [(3, 0x20)], 0xFFFFFFFFFFFFFFFF, 0x0, 0x0, 0x0⟩
  | .netCtrl => ⟨.netCtrl, 0x000B0018, [(3, 0x20)], 0x1FFFF01001FFF, 0x0, 0x0, 0x0⟩
  | .meaStatus => ⟨.meaStatus, 0x01002000, [(8, 0x1000000), (16, 0x80000)], 0x0, 0x0, 0x0, 0xF0000⟩
  | .meaFlags => ⟨.meaFlags, 0x01002008, [(8, 0x1000000), (16, 0x80000)], 0x0, 0x7, 0x0, 0x0⟩
  | .meaRepair => ⟨.meaRepair, 0x01002010, [(8, 0x1000000), (16, 0x80000)], 0x0, 0x0, 0x0, 0x0⟩
  | .vecStatus => ⟨.vecStatus, 0x01003000, [(8, 0x1000000), (16, 0x80000), (2, 0x100)], 0x0, 0x0, 0x0, 0x0⟩
  | .vecFlags => ⟨.vecFlags, 0x01003008, [(8, 0x1000000), (16, 0x80000), (2, 0x100)], 0x0, 0x3F, 0x0, 0x0⟩
  | .sfuStatus => ⟨.sfuStatus, 0x01004000, [(8, 0x1000000), (16, 0x80000)], 0x0, 0x0, 0x0, 0x0⟩
  | .sfuFlags => ⟨.sfuFlags, 0x01004008, [(8, 0x1000000), (16, 0x80000)], 0x0, 0xF, 0x0, 0x0⟩
  | .sfuFallback => ⟨.sfuFallback, 0x01004010, [(8, 0x1000000), (16, 0x80000)], 0x0, 0x0, 0xFFFFFFFF, 0x0⟩
  | .sfuSlot => ⟨.sfuSlot, 0x01004040, [(8, 0x1000000), (16, 0x80000), (16, 0x8)], 0x0, 0x0, 0x0, 0x0⟩
  | .rsFlags => ⟨.rsFlags, 0x01005100, [(8, 0x1000000), (16, 0x80000)], 0x0, 0xF, 0x0, 0x0⟩
  | .gsRange => ⟨.gsRange, 0x01005108, [(8, 0x1000000), (16, 0x80000)], 0x0, 0x0, 0xFFFFFFFF, 0x0⟩
  | .gsFlags => ⟨.gsFlags, 0x01005110, [(8, 0x1000000), (16, 0x80000)], 0x0, 0x7, 0x0, 0x0⟩
  | .pmcReftick => ⟨.pmcReftick, 0x01006000, [(8, 0x1000000), (16, 0x80000)], 0x0, 0x0, 0x0, 0x0⟩
  | .pmcCnt => ⟨.pmcCnt, 0x01006008, [(8, 0x1000000), (16, 0x80000), (8, 0x8)], 0xFFFFFFFFFFFF, 0x0, 0x0, 0x0⟩
  | .pmcSel => ⟨.pmcSel, 0x01006048, [(8, 0x1000000), (16, 0x80000), (8, 0x8)], 0xFFF0000003, 0x0, 0x0, 0x0⟩
  | .pmcOvf => ⟨.pmcOvf, 0x01006088, [(8, 0x1000000), (16, 0x80000)], 0x0, 0xFF, 0x0, 0x0⟩
  | .pmcSample => ⟨.pmcSample, 0x01006090, [(8, 0x1000000), (16, 0x80000)], 0xFFFF7FC3, 0x0, 0x0, 0x7FC0⟩
  | .pmcSstat => ⟨.pmcSstat, 0x01006098, [(8, 0x1000000), (16, 0x80000)], 0x0, 0x1000000000000, 0xFFFF00000000, 0x0⟩
  | .pmcBuf => ⟨.pmcBuf, 0x01007000, [(8, 0x1000000), (16, 0x80000), (1024, 0x8)], 0x0, 0x0, 0x0, 0x0⟩
  | .vatOwner => ⟨.vatOwner, 0x01801000, [(8, 0x1000000), (32, 0x8)], 0x0, 0x0, 0x0, 0x11F00000000⟩
  | .poolOwner => ⟨.poolOwner, 0x01801100, [(8, 0x1000000), (16, 0x8)], 0x0, 0x0, 0x0, 0x11F0000001F⟩
  | .confCtrl => ⟨.confCtrl, 0x01802000, [(8, 0x1000000)], 0x3F, 0x0, 0x0, 0x8⟩
  | .confRank => ⟨.confRank, 0x01802008, [(8, 0x1000000)], 0xFFFFFFFFFF, 0x0, 0x0, 0xEF55555555⟩
  | .confStat => ⟨.confStat, 0x01802010, [(8, 0x1000000)], 0x0, 0x0, 0xFFFFFFFFFFFF, 0x0⟩
  | .vatEcc => ⟨.vatEcc, 0x01802018, [(8, 0x1000000)], 0x0, 0x0, 0xFFFFFFFFFFFFFFFF, 0x0⟩
  | .copyStatus => ⟨.copyStatus, 0x01806000, [(8, 0x1000000)], 0x0, 0x0, 0x0, 0x0⟩
  | .copyFlags => ⟨.copyFlags, 0x01806008, [(8, 0x1000000)], 0x0, 0x3, 0x0, 0x0⟩
  | .collStatus => ⟨.collStatus, 0x01807000, [(8, 0x1000000)], 0x0, 0x0, 0x0, 0x0⟩
  | .collWdog => ⟨.collWdog, 0x01807008, [(8, 0x1000000)], 0xFFFFFFFF, 0x0, 0x0, 0x30D40⟩
  | .collErr => ⟨.collErr, 0x01807010, [(8, 0x1000000)], 0x0, 0x0, 0xFFFFFFFFFFFF, 0x0⟩
  | .lnkStatus => ⟨.lnkStatus, 0x09000000, [(16, 0x100000)], 0x0, 0x0, 0x0, 0x0⟩
  | .lnkCtrl => ⟨.lnkCtrl, 0x09000008, [(16, 0x100000)], 0x71, 0x0, 0x0, 0x70⟩
  | .lnkVcAlloc => ⟨.lnkVcAlloc, 0x09000010, [(16, 0x100000)], 0xFFFFFFFFFFFFFFFF, 0x0, 0x0, 0x14000A00050004C0⟩
  | .lnkPeer => ⟨.lnkPeer, 0x09000018, [(16, 0x100000)], 0x0, 0x0, 0x0, 0x0⟩
  | .lnkPeerDev => ⟨.lnkPeerDev, 0x09000020, [(16, 0x100000)], 0x0, 0x0, 0x0, 0x0⟩
  | .lnkErr => ⟨.lnkErr, 0x09000028, [(16, 0x100000)], 0x0, 0x0, 0xFFFFFFFFFFFFFFFF, 0x0⟩
  | .lnkLane => ⟨.lnkLane, 0x09000030, [(16, 0x100000)], 0x0, 0xFFFF, 0x0, 0x0⟩
  | .lnkPace => ⟨.lnkPace, 0x09000038, [(16, 0x100000)], 0x0, 0x0, 0x0, 0x0⟩
  | .sluHeat => ⟨.sluHeat, 0x0A000000, [(8, 0x80000)], 0xFF0000000000, 0x0, 0x0, 0x5FF000000000⟩
  | .sluErrF => ⟨.sluErrF, 0x0A000008, [(8, 0x80000)], 0x0, 0x0, 0xFFFFFFFFFFFFFFFF, 0x0⟩
  | .sluErrS => ⟨.sluErrS, 0x0A400008, [(4, 0x10000)], 0x0, 0x0, 0xFFFFFFFFFFFFFFFF, 0x0⟩
  | .sluErrAddrF => ⟨.sluErrAddrF, 0x0A000010, [(8, 0x80000)], 0x0, 0x0, 0xFF8FFFFF001FFFFF, 0x0⟩
  | .sluErrAddrS => ⟨.sluErrAddrS, 0x0A400010, [(4, 0x10000)], 0x0, 0x0, 0xFF8FFFFF001FFFFF, 0x0⟩
  | .sluPpr => ⟨.sluPpr, 0x0A000018, [(8, 0x80000)], 0x0, 0x0, 0x0, 0x0⟩
  | .ethStatus => ⟨.ethStatus, 0x0A800000, [(2, 0x100)], 0x0, 0x0, 0xFFFFFFFF00000000, 0x0⟩
  | .ethCtrl => ⟨.ethCtrl, 0x0A800008, [(2, 0x100)], 0xFF7703, 0x0, 0x0, 0x86300⟩
  | .ctlStatus => ⟨.ctlStatus, 0x0A801000, [], 0x0, 0x0, 0xFFFFFFFF00000000, 0x300⟩
  | .ingStatus => ⟨.ingStatus, 0x0B000000, [(8, 0x200000)], 0x0, 0x0, 0x0, 0x0⟩
  | .ingErr => ⟨.ingErr, 0x0B000008, [(8, 0x200000)], 0x0, 0x0, 0xFFFFFFFFFFFFFFFF, 0x0⟩
  | .mtrStatus => ⟨.mtrStatus, 0x0C000000, [], 0x0, 0x0, 0x0, 0x0⟩
  | .mtrEnergyA => ⟨.mtrEnergyA, 0x0C000008, [], 0x0, 0x0, 0x0, 0x0⟩
  | .mtrEnergyB => ⟨.mtrEnergyB, 0x0C000010, [], 0x0, 0x0, 0x0, 0x0⟩
  | .mtrPower => ⟨.mtrPower, 0x0C000018, [], 0x0, 0x0, 0x0, 0x0⟩
  | .mtrBuf => ⟨.mtrBuf, 0x0C004000, [(2, 0x6000), (2100, 0x8)], 0x0, 0x0, 0x0, 0x0⟩
  | .cartStatus => ⟨.cartStatus, 0x0C010000, [], 0x0, 0x8, 0x0, 0x0⟩
  | .cartWear => ⟨.cartWear, 0x0C010008, [], 0x0, 0x0, 0x0, 0x0⟩
  | .cartSerial => ⟨.cartSerial, 0x0C010010, [], 0x0, 0x0, 0x0, 0x0⟩

def regIds0 : List RegId :=
  [.keepIdent, .keepStatus, .keepCapacity, .keepImgStatus, .keepPartBuild, .keepPartState, .keepWatch, .sluClear, .sluSummary, .lnkModule, .collGen, .jobStatus, .jobHb, .jobCommits, .jobErr, .ferryStatus]

def regIds1 : List RegId :=
  [.weirBudget, .weirCtrl, .weirStatus, .weirCal, .weirRecon, .weirAcct, .weirPool, .weirPartE, .xingSel, .xingStat, .bistCtrl, .bistStatus, .retireCluster, .dieCnt, .dieSel, .dieOvf]

def regIds2 : List RegId :=
  [.lifeStatus, .lifeCmd, .lifeChallenge, .netV4, .netV6Hi, .netV6Lo, .netCtrl, .meaStatus, .meaFlags, .meaRepair, .vecStatus, .vecFlags, .sfuStatus, .sfuFlags, .sfuFallback, .sfuSlot]

def regIds3 : List RegId :=
  [.rsFlags, .gsRange, .gsFlags, .pmcReftick, .pmcCnt, .pmcSel, .pmcOvf, .pmcSample, .pmcSstat, .pmcBuf, .vatOwner, .poolOwner, .confCtrl, .confRank, .confStat, .vatEcc]

def regIds4 : List RegId :=
  [.copyStatus, .copyFlags, .collStatus, .collWdog, .collErr, .lnkStatus, .lnkCtrl, .lnkVcAlloc, .lnkPeer, .lnkPeerDev, .lnkErr, .lnkLane, .lnkPace, .sluHeat, .sluErrF, .sluErrS]

def regIds5 : List RegId :=
  [.sluErrAddrF, .sluErrAddrS, .sluPpr, .ethStatus, .ethCtrl, .ctlStatus, .ingStatus, .ingErr, .mtrStatus, .mtrEnergyA, .mtrEnergyB, .mtrPower, .mtrBuf, .cartStatus, .cartWear, .cartSerial]

/-- Every register, in the order of the map (R579). -/
def regIds : List RegId :=
  regIds0 ++ regIds1 ++ regIds2 ++ regIds3 ++ regIds4 ++ regIds5

/-- The address of an indexed register. -/
def RegRow.addr (r : RegRow) (ix : List Nat) : Nat := r.base + sumN (List.zipWith (fun d i => d.2 * i) r.dims ix)

/-- The indexes that an offset from a register's base spells, outermost dimension first, where it spells any. -/
def indexesOf : List (Nat × Nat) → Nat → Option (List Nat)
  | [], off => if off = 0 then some [] else none
  | (n, st) :: t, off =>
    let i := off / st
    if i < n then (indexesOf t (off - i * st)).map (i :: ·) else none

/-- The register at an MRS address. -/
def decodeIn (addr : Nat) : List RegId → Option (RegId × List Nat)
  | [] => none
  | id :: t =>
    let r := id.row
    if addr < r.base then decodeIn addr t
    else match indexesOf r.dims (addr - r.base) with
      | some ix => some (id, ix)
      | none => decodeIn addr t

def decodeAddr (addr : Nat) : Option (RegId × List Nat) := decodeIn addr regIds

/-- The reset value of a register (the Reset column), with the owner of a vat at reset its own core (R313). -/
def resetOf (id : RegId) (ix : List Nat) : Long :=
  match id with
  | .vatOwner => id.row.reset ||| BitVec.ofNat 64 ((ix.getD 1 0) / 2)
  | .weirCal => 0x400400400400400#64
  | .sluPpr => 0x0000040000000000#64
  | _ => id.row.reset

namespace State

/-- A register's home. -/
def reg (s : State) (id : RegId) (ix : List Nat := []) : Long := s.mrs.get (resetOf id ix) (id.row.addr ix)

def setReg (s : State) (id : RegId) (ix : List Nat) (v : Long) : State :=
  { s with mrs := s.mrs.set (id.row.addr ix) v }

/-- Field hi:lo of a register. -/
def regF (s : State) (id : RegId) (ix : List Nat) (hi lo : Nat) : Nat := getF (s.reg id ix) hi lo

def setRegF (s : State) (id : RegId) (ix : List Nat) (hi lo v : Nat) : State :=
  s.setReg id ix (setF (s.reg id ix) hi lo v)

/-- A counter field that saturates, raised by n. -/
def bumpBy (s : State) (id : RegId) (ix : List Nat) (hi lo n : Nat) : State :=
  s.setRegF id ix hi lo (satAdd (hi + 1 - lo) (s.regF id ix hi lo) n)

def bump (s : State) (id : RegId) (ix : List Nat) (hi lo : Nat) : State := s.bumpBy id ix hi lo 1

/-- A sticky bit set. -/
def flag (s : State) (id : RegId) (ix : List Nat) (b : Nat) : State := s.setRegF id ix b b 1

/-- A write by the access codes of R14: RW fields take the value, W1C bits written as 1 clear. -/
def plainWrite (s : State) (id : RegId) (ix : List Nat) (v : Long) : State :=
  let r := id.row
  let old := s.reg id ix
  let new := ((old &&& ~~~r.rw) ||| (v &&& r.rw)) &&& ~~~(v &&& r.w1c)
  if new = old then s else s.setReg id ix new

/-- A read clears the RC fields (R14). -/
def clearRc (s : State) (id : RegId) (ix : List Nat) : State :=
  if id.row.rc = 0 then s else s.setReg id ix (s.reg id ix &&& ~~~id.row.rc)

end State

end Sys2Proof.Machine
end

