-- ==== Sys2Proof/Machine/Ops.lean ====
section
/-! DEFINITION. The named operations over the state that every family shares: access to its parts, the memories'
bytes, events and error records, halts and faults, counters, tokens, and the firing of a window entry. -/

namespace Sys2Proof.Machine

/-- A command's outcome is always a next state: where the spec's conditions for the step do not hold, it is the state
unchanged (log 2). -/
abbrev Out := Host.Outcome State Fault Refusal

namespace State

/-! ### Parts of the state -/

def core (s : State) (c : Nat) : Core := s.cores.get Core.idle c
def setCore (s : State) (c : Nat) (k : Core) : State := { s with cores := s.cores.set c k }
def modCore (s : State) (c : Nat) (f : Core → Core) : State := s.setCore c (f (s.core c))
def cl (s : State) (c : Nat) : Cluster := s.clusters.get Cluster.idle c
def modCl (s : State) (c : Nat) (f : Cluster → Cluster) : State := { s with clusters := s.clusters.set c (f (s.cl c)) }
def part (s : State) (p : Nat) : Part := s.parts.get Part.undefinedPart p
def modPart (s : State) (p : Nat) (f : Part → Part) : State := { s with parts := s.parts.set p (f (s.part p)) }
def port (s : State) (p : Nat) : Port := s.ports.get Port.off p
def modPort (s : State) (p : Nat) (f : Port → Port) : State := { s with ports := s.ports.set p (f (s.port p)) }
def stack (s : State) (k : Nat) : Stack := s.hbm.get Stack.cold k
def modStack (s : State) (k : Nat) (f : Stack → Stack) : State := { s with hbm := s.hbm.set k (f (s.stack k)) }
def xing (s : State) (x : Nat) : Xing := s.xings.get Xing.running x
def modXing (s : State) (x : Nat) (f : Xing → Xing) : State := { s with xings := s.xings.set x (f (s.xing x)) }
def vat (s : State) (i : Nat) : Bank := s.vats.get Bank.zero i
def pool (s : State) (i : Nat) : Bank := s.pools.get Bank.zero i
def sluice (s : State) (i : Nat) : Sluice := s.sluices.get Sluice.empty i

def modFerry (s : State) (p : Nat) (f : Ferry → Ferry) : State :=
  { s with ferries := s.ferries.map fun x => if x.part = p then f x else x }

def ferryOf (s : State) (p : Nat) : Option Ferry := s.ferries.find? fun f => f.part == p

/-- The next fresh free 64-bit value (log 3). -/
def freeLong (s : State) : Long := Config.freeLong s.fresh
def usedFresh (s : State) : State := { s with fresh := s.fresh + 1 }

end State

/-- The indexes of a core's registers. -/
def cix (c : Nat) : List Nat := [c / 16, c % 16]

/-! ### Memories: canonical lists of bytes, 0x00 where unlisted -/

/-- The byte at an address. -/
def readByte : List Host.Cell → Nat → Byte
  | [], _ => 0
  | (j, v) :: t, a => if a = j then v else readByte t a

def readBytes (m : List Host.Cell) (a n : Nat) : List Byte := (List.range n).map fun i => readByte m (a + i)

/-- The listed cells of a run of bytes: those that are not zero. -/
def cellsOf : Nat → List Byte → List Host.Cell
  | _, [] => []
  | a, b :: t => if b = 0 then cellsOf (a + 1) t else (a, b) :: cellsOf (a + 1) t

/-- The memory with the bytes stored from address a. -/
def writeBytes (m : List Host.Cell) (a : Nat) (bs : List Byte) : List Host.Cell :=
  (m.filter fun c => decide (c.1 < a)) ++ cellsOf a bs ++ (m.filter fun c => decide (a + bs.length ≤ c.1))

/-- The memory with n bytes from address a cleared to zero. -/
def clearBytes (m : List Host.Cell) (a n : Nat) : List Host.Cell :=
  m.filter fun c => decide (c.1 < a) || decide (a + n ≤ c.1)

/-- The canonical form: addresses strictly rising, no listed zero. -/
def cellsWf : List Host.Cell → Bool
  | [] => true
  | [(_, v)] => v != 0
  | (a, v) :: (b, w) :: t => v != 0 && decide (a < b) && cellsWf ((b, w) :: t)

/-- The banks with bank i set; a bank that is as after power-up is not listed. -/
def putBank (m : FMap Bank) (i : Nat) (b : Bank) : FMap Bank := if b = Bank.zero then m.erase i else m.set i b

/-- The canonical form of a map of banks: numbers strictly rising, each bank's bytes canonical, none as after power-up. -/
def banksWf : FMap Bank → Bool
  | [] => true
  | [(_, x)] => cellsWf x.data && decide (x ≠ Bank.zero)
  | (i, x) :: (j, y) :: t => cellsWf x.data && decide (x ≠ Bank.zero) && decide (i < j) && banksWf ((j, y) :: t)

/-! ### Check codes of the tiers (R321, R322) -/

/-- Granules in a frame. -/
def frameGranules : Nat := 32768

/-- The 16-bit check of class-D granule g: the CRC over its 64 stored bytes, then tier address bits 31:6 (R321, log 12). -/
def Tier.check (t : Tier) (g : Nat) : Half :=
  let r := (readBytes t.data (64 * g) 64).foldl (crcByte 16 0x1021) 0
  BitVec.ofNat 16 ((List.range 26).foldl (fun r i => crcBit 16 0x1021 r (g.testBit (25 - i))) r)

/-- What reading granule g finds: of class D whether the stored check is that of the stored bytes; of class C by how many symbols
are in error, where three or more may escape (R321-R323). -/
def Tier.mark (t : Tier) (g : Nat) : Option GMark :=
  if hasN t.classD (g / frameGranules) then
    if t.crc.has g && t.crc.get 0 g != t.check g then some .failD else none
  else
    match t.syms.get [] g with
    | [] => none
    | [_] => some .oneC
    | [_, _] => some .uncorrC
    | e => if Config.symbolsSeen e then some .uncorrC else none

/-- The granules of n bytes from a whose check is not clean, ascending. -/
def Tier.marksIn (t : Tier) (a n : Nat) : FMap GMark :=
  let gs := ((t.crc.map (·.1) ++ t.syms.map (·.1)).filter fun g => decide (a < 64 * g + 64) && decide (64 * g < a + n)).foldr insAsc []
  gs.filterMap fun g => (t.mark g).map fun m => (g, m)

/-- A class-C granule corrected: the symbols of its data set right, its check good again (R322, R323). -/
def Tier.fix (t : Tier) (g : Nat) : Tier :=
  { t with
    data := (t.syms.get [] g).foldl (fun d x =>
      if x.1 < 32 then writeBytes d (64 * g + 2 * x.1) (leBytes 2 (le (readBytes d (64 * g + 2 * x.1) 2) 0 2 ^^^ x.2.toNat)) else d)
      t.data,
    syms := t.syms.erase g }

/-- The tier without the check marks of the granules that p picks. -/
def Tier.unmark (t : Tier) (p : Nat → Bool) : Tier :=
  { t with crc := t.crc.filter fun m => !p m.1, syms := t.syms.filter fun m => !p m.1 }

/-- The 2 KiB blocks of n bytes from a (R319), each with the granules of it that they touch. -/
def blocksOf (a n : Nat) : List (Nat × Nat) :=
  if n = 0 then []
  else (upFrom (a / 2048) ((a + n - 1) / 2048 - a / 2048 + 1)).map fun b =>
    (b, (min (a + n) (2048 * b + 2048) + 63) / 64 - max a (2048 * b) / 64)

/-- Do two spans share a byte? -/
def Span.meets (a b : Span) : Bool :=
  decide (a.place = b.place) && decide (max a.lo b.lo < min (a.lo + a.len) (b.lo + b.len))

/-- Spans with those of another list taken out. -/
def minusSpans (l cut : List Span) : List Span :=
  cut.foldl (fun acc x => acc.flatMap fun y =>
    if x.meets y then
      ([⟨y.place, y.lo, max x.lo y.lo - y.lo⟩, ⟨y.place, min (x.lo + x.len) (y.lo + y.len), y.lo + y.len - min (x.lo + x.len) (y.lo + y.len)⟩] :
        List Span).filter fun z => decide (0 < z.len)
    else [y]) l

/-- The sluice in front of the controller that holds a block: stack 0 to 7, LPDDR6 controller 8 to 11 (R319). -/
def sluiceOf (slow : Bool) (block : Nat) : Nat := if slow then 8 + block % 16 / 4 else block % 8

namespace State

def setVat (s : State) (i : Nat) (b : Bank) : State := { s with vats := putBank s.vats i b }
def setPool (s : State) (i : Nat) (b : Bank) : State := { s with pools := putBank s.pools i b }

/-- The bytes of a memory. -/
def cells (s : State) : Place → List Host.Cell
  | .tier slow => if slow then s.slow.data else s.fast.data
  | .vat i => (s.vat i).data
  | .pool i => (s.pool i).data

def setCells (s : State) (p : Place) (m : List Host.Cell) : State :=
  match p with
  | .tier slow => if slow then { s with slow := { s.slow with data := m } } else { s with fast := { s.fast with data := m } }
  | .vat i => s.setVat i { s.vat i with data := m }
  | .pool i => s.setPool i { s.pool i with data := m }

def bytesAt (s : State) (p : Place) (a n : Nat) : List Byte := readBytes (s.cells p) a n

def setBytes (s : State) (p : Place) (a : Nat) (bs : List Byte) : State :=
  s.setCells p (writeBytes (s.cells p) a bs)

def tierOf (s : State) (slow : Bool) : Tier := if slow then s.slow else s.fast
def setTier (s : State) (slow : Bool) (t : Tier) : State := if slow then { s with slow := t } else { s with fast := t }

/-- n bytes from address a left undefined: fresh free bytes (R85; log 3). -/
def scramble (s : State) (p : Place) (a n : Nat) : State :=
  { s.setBytes p a ((List.range n).map fun i => Config.freeByte s.fresh i) with fresh := s.fresh + 1 }

/-- A span without its ends that lie in granules that cannot be merged: those are left unchanged (R324). -/
def mergeable (s : State) (x : Span) : Span :=
  match x.place with
  | .tier slow =>
    let bad := fun (a : Nat) => decide ((s.tierOf slow).mark (a / 64) = some .uncorrC)
    let hi := x.lo + x.len
    let lo' := if x.lo % 64 ≠ 0 ∧ bad x.lo then min hi (x.lo / 64 * 64 + 64) else x.lo
    let hi' := if hi % 64 ≠ 0 ∧ bad hi then max lo' (hi / 64 * 64) else hi
    { x with lo := lo', len := hi' - lo' }
  | _ => x

def scrambleAll (s : State) (l : List Span) : State :=
  l.foldl (fun t x => let y := t.mergeable x; t.scramble y.place y.lo y.len) s

/-! ### What every tier access does at the sluices (R328) and at a bank that is held (R335, R336) -/

/-- Has the stack stopped (R335)? -/
def stackStopped (s : State) (st : Nat) : Bool := s.regF .sluHeat [st] 34 34 == 1

/-- Is a block's bank held: its stack has stopped, or copies a row of the bank to a spare (R335, R336)? A row is a block (log 13). -/
def blockHeld (s : State) (b : Nat) : Bool :=
  s.stackStopped (b % 8) || (s.stack (b % 8)).repairing.any fun r => Config.bankOf (b % 8) r == Config.bankOf (b % 8) b

/-- Does a side of a crossing reset (R517)? -/
def xingHeld (s : State) (x : Nat) : Bool := (s.xing x).selfReset || (s.xing x).clkReset

/-- Does no word pass between a block's controller and its PHY, since a crossing between them resets (R513, R517): one of the stack's four groups,
of which R319 does not say which carries the block, or the package's (log 15)? -/
def phyHeld (s : State) (slow : Bool) (b : Nat) : Bool :=
  if slow then s.xingHeld (304 + b % 16) else (List.range 4).any fun g => s.xingHeld (272 + 4 * (b % 8) + g)

/-- An access to n bytes from a tier address: where a bank of them is held, or a crossing to it resets, the command waits. -/
def touch (s : State) (slow : Bool) (a n : Nat) : State :=
  if ((!slow && (List.range 8).any fun st => s.stackStopped st || !(s.stack st).repairing.isEmpty) ||
        s.xings.any fun x => decide (272 ≤ x.1) && (x.2.selfReset || x.2.clkReset)) &&
      (blocksOf a n).any (fun b => (!slow && s.blockHeld b.1) || s.phyHeld slow b.1) then { s with stalled := true } else s

/-- Granules of a tier access wait at their sluices in a class (R328). -/
def traffic (s : State) (cls : Nat) (slow : Bool) (a n : Nat) : State :=
  { s with sluices := (blocksOf a n).foldl (fun m b =>
      let k := sluiceOf slow b.1
      let x := m.get Sluice.empty k
      m.set k { x with pend := x.pend.set cls (x.pend.get 0 cls + b.2) }) s.sluices }

/-- The granules of whole frames wait at the tier's sluices, over which each frame spreads evenly (R319). -/
def frameTraffic (s : State) (cls : Nat) (slow : Bool) (frames : Nat) : State :=
  let ks := if slow then [8, 9, 10, 11] else List.range 8
  { s with sluices := ks.foldl (fun m k =>
      let x := m.get Sluice.empty k
      m.set k { x with pend := x.pend.set cls (x.pend.get 0 cls + frames * frameGranules / ks.length) }) s.sluices }

/-- The classes of sluice traffic beside the partitions' (R328). -/
def collClass : Nat := 16
def serviceClass : Nat := 17

/-- The granules of spans wait in a class. -/
def trafficAll (s : State) (cls : Nat) (l : List Span) : State :=
  l.foldl (fun t x => match x.place with
    | .tier slow => t.traffic cls slow x.lo x.len
    | _ => t) s

/-- Granules of a ferry's export wait at their sluices, in its partition's class but for cap tokens only (R440). -/
def ferryTraffic (s : State) (p : Nat) (l : List Span) : State :=
  l.foldl (fun t x => match x.place with
    | .tier slow => { t with sluices := (blocksOf x.lo x.len).foldl (fun m b =>
        let k := sluiceOf slow b.1
        let y := m.get Sluice.empty k
        m.set k { y with ferry := y.ferry.set p (y.ferry.get 0 p + b.2) }) t.sluices }
    | _ => t) s

/-- The sluice class of an instruction's tier traffic: the collective class of UNIT 0x07, its partition's otherwise (R328). The
gauge record's writer, core 128, is in the partition's class (log 46). -/
def classOf (s : State) (c unit p : Nat) : Nat := if unit = 7 then collClass else if c < 128 then ((s.core c).part).getD 0 else p

/-! ### Events and error records (R405, R408, R581, R584) -/

/-- Frames a session keeps unacknowledged at most (R405). -/
def maxUnacked : Nat := 1024

/-- Does the host's PFC hold a frame back (R398)? -/
def pausedOut (s : State) : Output → Bool
  | .udp n w _ _ => w.prio.any fun q => (s.paused.get 0 (n.val - 1)).getLsbD q
  | .roce k w _ _ => w.prio.any fun q => (s.paused.get 0 k.val).getLsbD q
  | _ => false

/-- Does a crossing in reset swallow an interface's frames: the one of its Ethernet MAC (R513, R517)? -/
def framesLost (s : State) (n : NetId) : Bool := s.xingHeld (if n.val = 0 then 324 else 319 + n.val)

/-- Is a frame lost on the way to its MAC (R517, R518)? -/
def outLost (s : State) : Output → Bool
  | .udp n _ _ _ => s.framesLost n
  | .roce k _ _ _ => s.framesLost k.succ
  | .queryReply n _ _ => s.framesLost n
  | _ => false

/-- Frames leave in order, those that PFC holds back once it lets them; a frame that meets its MAC's crossing in reset is lost. -/
def emitAll (s : State) (l : List Output) : State :=
  let l := l.filter fun o => !s.outLost o
  { s with out := (l.filter fun o => !s.pausedOut o).reverse ++ s.out, waitOut := s.waitOut ++ l.filter s.pausedOut }

def emit (s : State) (o : Output) : State := s.emitAll [o]

/-- An IPv4 address as IPv6 maps it. -/
def mapped4 (a : Nat) : BitVec 128 := BitVec.ofNat 128 (0xFFFF * 2 ^ 32 + a)

/-- The IPv6 link-local address formed from a MAC address (R591). -/
def linkLocal (mac : BitVec 48) : BitVec 128 :=
  let m := mac.toNat
  let hi := m / 2 ^ 24
  let flipped := if hi.testBit 17 then hi - 2 ^ 17 else hi + 2 ^ 17
  BitVec.ofNat 128 (0xFE80 * 2 ^ 112 + flipped * 2 ^ 40 + 0xFFFE * 2 ^ 24 + m % 2 ^ 24)

def netV4Addr (s : State) (n : NetId) : BitVec 128 := mapped4 (s.regF .netV4 [n] 31 0)
def netV6Addr (s : State) (n : NetId) : BitVec 128 :=
  BitVec.ofNat 128 ((s.reg .netV6Hi [n]).toNat * 2 ^ 64 + (s.reg .netV6Lo [n]).toNat)

/-- Is an address one of interface n's own (R398, R591)? IPv4 addresses are mapped into IPv6. -/
def ownAddr (s : State) (n : NetId) (ip : BitVec 128) : Bool :=
  (s.regF .netCtrl [n] 48 48 == 1 && ip == s.netV4Addr n) || (s.regF .netCtrl [n] 24 24 == 1 && ip == s.netV6Addr n) ||
    (n == 0 && ip == linkLocal (Config.mac 0))

/-- Interface n's address for a destination, with the bits of its prefix: of the destination's family where that is in use, the
management port's link-local one otherwise; none, the unspecified address (R591; log 54). -/
def srcAddr (s : State) (n : NetId) (dst : BitVec 128) : BitVec 128 × Nat :=
  if dst.toNat / 2 ^ 32 = 0xFFFF then
    if s.regF .netCtrl [n] 48 48 = 1 then (s.netV4Addr n, 96 + s.regF .netCtrl [n] 47 40) else (0, 0)
  else if s.regF .netCtrl [n] 24 24 = 1 ∧ dst.toNat / 2 ^ 118 ≠ 0x3FA then (s.netV6Addr n, s.regF .netCtrl [n] 39 32)
  else if n.val = 0 then (linkLocal (Config.mac 0), 64) else (0, 0)

/-- A frame of interface n to an address, on a priority (R399, R591). -/
def wireTo (s : State) (n : NetId) (prio : Option Nat) (dst : BitVec 128) : Wire :=
  let a := s.srcAddr n dst
  ⟨if s.regF .netCtrl [n] 12 12 = 1 then some (s.regF .netCtrl [n] 11 0) else none, prio, a.1,
   a.1.toNat / 2 ^ (128 - a.2) == dst.toNat / 2 ^ (128 - a.2)⟩

/-- How a control frame leaves interface n (R399, R591). -/
def wire (s : State) (n : NetId) (dst : BitVec 128) : Wire :=
  s.wireTo n (if n.val = 0 then none else some (s.eth.get EthSet.reset (n.val - 1)).ctl) dst

/-- How a RoCE packet leaves host port k (R399). -/
def roceWire (s : State) (k : Fin 2) (dst : BitVec 128) : Wire :=
  s.wireTo ⟨k.val + 1, by have := k.isLt; omega⟩ (some (s.eth.get EthSet.reset k).roce) dst

/-- A RoCE packet to the host's end of a queue pair. -/
def roceOut (s : State) (k : Fin 2) (qpn : Nat) (w : RoceOut) : State :=
  s.emit (.roce k (s.roceWire k (((s.qps.find? fun q => q.qpn == qpn).map (·.hostIp)).getD 0)) qpn w)

/-- A packet of the module's own on a queue pair. -/
def qpOut (s : State) (qpn : Nat) (w : RoceOut) : State :=
  match s.qps.find? fun q => q.qpn == qpn with
  | some q => s.roceOut q.port qpn w
  | none => s

/-- A control frame of a session with its header (R403): ACKSEQ is the last frame of the host's taken in order. -/
def ctlOut (s : State) (x : Session) (f : CtlFrame) : Output :=
  .udp x.port (s.wire x.port x.ip) x.ip
    (beBytes 2 0x4743 ++ [x.version, BitVec.ofNat 8 f.kind] ++ beBytes 4 x.id.toNat ++ beBytes 4 f.seq.toNat ++ beBytes 4 (x.expect - 1).toNat ++
      [f.mailbox, 0] ++ beBytes 2 f.code.toNat ++ beBytes 4 f.tag.toNat ++ beBytes 2 f.body.length ++ fill 6 0 ++ f.body)

/-- A frame that takes no number of the series: an ACK (kind 4) or a CLOSE (kind 7). -/
def bareFrame (kind : Nat) : CtlFrame := ⟨kind, 0, 0, 0, 0, [], 0⟩

/-- One frame of the module's series for a session, or the count of a lost event where 1,024 are held (R405). -/
def pushFrame (s : State) (x : Session) (kind mailbox : Nat) (code : Nat) (tag : Word) (body : List Byte) (cmd : Word) :
    Session × List Output :=
  if kind = 3 ∧ maxUnacked ≤ x.unacked.length then ({ x with lost := x.lost + 1 }, [])
  else
    let f : CtlFrame := ⟨kind, x.sendSeq, BitVec.ofNat 8 mailbox, BitVec.ofNat 16 code, tag, body, cmd⟩
    ({ x with sendSeq := x.sendSeq + 1, unacked := x.unacked ++ [f], history := (x.history ++ [f]).drop (x.history.length - 255) },
     [s.ctlOut x f])

/-- An event sent to every open session (R408). -/
def event (s : State) (mailbox code : Nat) (body : List Byte) : State :=
  let r := s.sessions.map fun x => s.pushFrame x 3 mailbox code 0 body 0
  ({ s with sessions := r.map (·.1) } : State).emitAll (r.flatMap (·.2))

/-- The TAG of a session's running command, by its SEQ. -/
def tagOf (x : Session) (seq : Word) : Word := ((x.running.find? fun q => q.1 == seq).map (·.2)).getD 0

/-- A completion to the session that sent the command of this SEQ, if it is still open (R407). -/
def reply (s : State) (sid seq : Word) (mailbox status : Nat) (body : List Byte) : State :=
  match s.sessions.find? fun x => x.id == sid with
  | none => s
  | some x =>
    let r := s.pushFrame { x with running := x.running.filter fun q => q.1 != seq } 2 mailbox status (tagOf x seq) body seq
    ({ s with sessions := s.sessions.map fun y => if y.id = sid then r.1 else y } : State).emitAll r.2

/-- The regions of a partition close (R402). -/
def closeRegions (s : State) (p : Nat) : State := { s with regions := s.regions.filter fun r => r.part != some p }

/-- Is the keeper's firmware running (R588)? -/
def ready (s : State) : Bool := s.regF .keepStatus [] 0 0 == 1

end State

def FaultRec.bytes (f : FaultRec) (p : Nat) : List Byte :=
  leBytes 4 f.imgOffset.toNat ++ [f.cause, BitVec.ofNat 8 f.more, BitVec.ofNat 8 p, f.core] ++ leBytes 4 f.step.toNat ++
  leBytes 4 f.index.toNat ++ leBytes 8 f.addr.toNat ++ fill 8 0

/-- An error record as an ERROR_RECORD event carries it: big-endian but for DETAIL (R581). -/
def ErrRec.bytes (r : ErrRec) : List Byte :=
  beBytes 4 r.seq ++ [BitVec.ofNat 8 r.severity,
    BitVec.ofNat 8 ((if r.part.isSome then 1 else 0) + (if r.step.isSome then 2 else 0) + (if r.addr.isSome then 4 else 0))] ++
  beBytes 2 r.code ++ beBytes 8 r.tick.toNat ++ [BitVec.ofNat 8 (r.part.getD 0), 0] ++ beBytes 2 r.unit ++
  beBytes 4 (r.step.getD 0).toNat ++ beBytes 8 (r.addr.getD 0) ++ toLen 32 r.detail

namespace State

/-- The keeper writes an error record: into its log, to every open session, or among the held ones (R581, R584). -/
def record (s : State) (severity code : Nat) (part : Option Nat) (unit : Nat) (step : Option Word) (addr : Option Nat)
    (detail : List Byte) : State :=
  let seq := (s.keeper.seq + 1) % 2 ^ 32
  let r : ErrRec := ⟨seq, severity, code, s.tick, part, unit, step, addr, detail⟩
  let log := (s.keeper.log ++ [r]).drop (s.keeper.log.length - 65535)
  let held := if s.sessions.isEmpty then s.keeper.held ++ [r] else s.keeper.held
  let t := { s with keeper := { s.keeper with seq := seq, log := log, held := held } }
  let t := t.setRegF .keepStatus [] 63 32 seq
  let t := t.setRegF .keepStatus [] 15 8 (min held.length 255)
  if s.sessions.isEmpty then t else t.event 0 0x8001 r.bytes

/-- An access error changes nothing but its count (R580). -/
def accessErr (s : State) : State := s.bump .keepStatus [] 31 16

/-! ### Counters (R538-R543) -/

/-- n occurrences of an event at a counter: its value, and whether it wrapped. -/
def countOne (s : State) (cnt ovf : RegId) (cx : List Nat) (j add : Nat) : State :=
  let v := s.regF cnt (cx ++ [j]) 47 0 + add
  let t := s.setRegF cnt (cx ++ [j]) 47 0 v
  if v < 2 ^ 48 then t else t.flag ovf cx j

/-- Does a selection name the event and unit, enabled? -/
def selects (w : Long) (ev unit : Nat) : Bool := getF w 0 0 == 1 && getF w 39 32 == ev && getF w 31 28 == unit

/-- The core events whose n occurrences in one command are a beat's each: MVEC, VBEAT, SFBEAT, STRM and VATGRANT (R540, log 41). -/
def eachBeat (ev : Nat) : Bool := hasN [0x04, 0x05, 0x06, 0x08, 0x09] ev

/-- What n occurrences of a core event add under a selection: each in edge mode; in level mode, the beats in which there was one (R539). -/
def coreAdd (w : Long) (ev n : Nat) : Nat :=
  if selects w ev 0 then (if getF w 1 1 = 0 ∨ eachBeat ev = true then n else min n 1) else 0

/-- n occurrences of a core event (R540). -/
def pmc (s : State) (c ev n : Nat) : State :=
  (List.range 8).foldl (fun t j =>
    if coreAdd (t.reg .pmcSel (cix c ++ [j])) ev n = 0 then t
    else t.countOne .pmcCnt .pmcOvf (cix c) j (coreAdd (t.reg .pmcSel (cix c ++ [j])) ev n)) s

/-- Counter j of the die meets n occurrences of an event that it selects: each counts in edge mode, and the tick's first in level mode.
HEAT in level mode counts ticks at a level, not rises (R539, R541). -/
def dieCount (s : State) (j ev n : Nat) : State :=
  let w := s.reg .dieSel [j]
  if getF w 1 1 = 0 then s.countOne .dieCnt .dieOvf [] j n
  else if ev = 0x86 || s.dieSeen.any (fun q => q == (j, getF w 39 28)) then s
  else ({ s with dieSeen := (j, getF w 39 28) :: s.dieSeen } : State).countOne .dieCnt .dieOvf [] j 1

/-- n occurrences of a die event (R541). -/
def pmcDie (s : State) (ev unit n : Nat) : State :=
  (List.range 8).foldl (fun t j => if n = 0 || !selects (t.reg .dieSel [j]) ev unit then t else t.dieCount j ev n) s

/-! ### Accounts and waiting charges of the Weir (R485, R488) -/

/-- An account's new balance, 16 the reserve's; one that is negative is in debt (R485, log 21). -/
def setAcct (s : State) (p : Nat) (a : Int) : State :=
  let w := s.weir
  let w := { w with debt := if a < 0 then p :: w.debt.filter (fun q => q != p) else w.debt.filter fun q => q != p }
  { s with weir := if p = 16 then { w with reserve := a } else { w with accts := w.accts.set p a } }

/-- Has the wait of charger k lasted longer than 0.5 ms, which are 50,000 ticks (R488)? -/
def waitedLong (s : State) (k : Nat) : Bool := s.weir.since.has k && decide (50000 < (s.tick - s.weir.since.get 0 k).toNat)

/-- A charge of charger k begins to wait (R488, R541). -/
def beginWait (s : State) (k : Nat) (x : Nat × Nat) : State :=
  ({ s with weir := { s.weir with waiting := s.weir.waiting.set k x, since := s.weir.since.set k s.tick, anyWait := true } } : State).pmcDie 0x87 0 1

/-- The waits of some chargers end. -/
def endWaits (s : State) (gone : Nat → Bool) : State :=
  { s with weir := { s.weir with late := s.weir.late || s.weir.waiting.any (fun w => gone w.1 && s.waitedLong w.1),
                                 waiting := s.weir.waiting.filter fun w => !gone w.1, since := s.weir.since.filter fun w => !gone w.1 } }

/-! ### Partitions and halts (R84, R87, R88, R584, R585) -/

/-- KEEP_PART_STATE of partition p: 0 undefined, 1 running, 2 draining, 3 halted, 4 committing (R587). -/
def pstate (s : State) (p : Nat) : Nat := s.regF .keepPartState [] (4 * p + 3) (4 * p)
def setPstate (s : State) (p v : Nat) : State := s.setRegF .keepPartState [] (4 * p + 3) (4 * p) v

def isRunning (s : State) (p : Nat) : Bool := s.pstate p == 1 || s.pstate p == 2

/-- The physical cores a partition holds, ascending. -/
def coresOf (s : State) (p : Nat) : List Nat := (List.range 128).filter fun c => decide ((s.core c).part = some p)

/-- The physical core of a logical core 16c + k, where placed (R122). -/
def physOf (s : State) (l : Nat) : Option Nat := if s.place.has l then some (s.place.get 0 l) else none

/-- The record of a halt that no instruction caused (R87); what it holds of an instruction is free (log 44). -/
def haltRec (s : State) (p cause : Nat) (index : Word) : FaultRec :=
  let f := Config.haltFields p s.tick index
  ⟨f.1, BitVec.ofNat 8 cause, 0, f.2.1, f.2.2, index, 0, false, false⟩

/-- A halt of the host's or the keeper's (R87): CAUSE NONE. -/
def noneRec (s : State) (p : Nat) (index : Word) : FaultRec := s.haltRec p 0 index

/-- May cores of the partition still fire: it runs, or its halt is not complete (R84)? -/
def firing (s : State) (p : Nat) : Bool := s.isRunning p || (s.part p).halting

/-- The PART_HALTED event and the PART_FAULT record of a complete halt, once the keeper runs (R584). -/
def tellHalt (s : State) (p : Nat) : State :=
  match (s.part p).fault with
  | some r =>
    if (s.part p).untold && !(s.part p).halting && s.ready then
      ((s.modPart p fun x => { x with untold := false }).event (0x10 + p) 0x8002 (r.bytes p)).record 2 0x0001 (some p) 0xFFFF
        (if r.hasStep then some r.step else none) (if r.hasAddr then some r.addr.toNat else none) (r.bytes p)
    else s
  | none => s

/-- A step's instructions in fallback mode are reported once: the first one's IMG_OFFSET and their number (R217). -/
def reportFallback (s : State) (p step : Nat) : State :=
  let f := (s.part p).flagged.get (0, 0) step
  if f.2 = 0 then s
  else
    (s.modPart p fun x => { x with flagged := x.flagged.erase step }).record 0 0x0002 (some p) 0xFFFF (some (BitVec.ofNat 32 step)) none
      (beBytes 4 f.1 ++ beBytes 4 f.2)

/-- The same of every step that has not been reported: no barrier of theirs will follow. -/
def reportAll (s : State) (p : Nat) : State := ((s.part p).flagged.map (·.1)).foldl (fun (t : State) n => t.reportFallback p n) s

/-- A halt is complete once every core of the partition fires no more: it is told, and PART_HALT commands complete (R88, R585). -/
def haltDone (s : State) (p : Nat) : State :=
  let x := s.part p
  if x.halting && (s.coresOf p).all fun c => (s.core c).halted then
    let t := ((s.modPart p fun y => { y with halting := false, haltFor := [] }).tellHalt p).reportAll p
    x.haltFor.foldl (fun (u : State) q => u.reply q.1 q.2 (0x10 + p) 0 []) t
  else s

/-- A halt of a running partition begins, with its record (R84). -/
def haltOne (s : State) (p : Nat) (r : FaultRec) : State :=
  if s.isRunning p then
    ((s.modPart p fun x => { x with fault := some r, halting := true, untold := true }).setPstate p 3).haltDone p
  else s

/-- A further fault in the same halt counts in MORE (R88). -/
def moreFault (s : State) (p : Nat) : State :=
  s.modPart p fun x => { x with fault := x.fault.map fun f => { f with more := min (f.more + 1) 255 } }

end State

/-- The fault record of an entry's fault on physical core c (R87). -/
def faultRec (c : Nat) (e : Entry) (cause : Nat) (index : Word) (addr : Option Nat) : FaultRec :=
  ⟨BitVec.ofNat 32 e.off, BitVec.ofNat 8 cause, 0, BitVec.ofNat 8 c, e.step, index, BitVec.ofNat 64 (addr.getD 0 % 2 ^ 48), true, addr.isSome⟩

def noIndex : Word := 0xFFFFFFFF#32

/-- A core that fires nothing more (R84): a slice that was taking it does not start (R533), a shadow copy in flight is discarded
(R231), and a HOSTIN that waits ends without its token (R420). -/
def stopCore (k : Core) : Core :=
  { k with halted := true, taking := false,
           slots := k.slots.map fun x => (x.1, { x.2 with shadow := none }),
           window := k.window.map fun e =>
             if e.phase = .fired ∧ ((e.unit = 5 ∧ getF e.op 63 56 = 0x68) ∨ (e.unit = 4 ∧ getF e.op 63 56 = 0x64)) then
               { e with phase := .faulted } else e }

namespace State

/-- Every core of the partition has its halt notice at once. -/
def haltNow (s : State) (p : Nat) : State :=
  if (s.part p).halting then
    ((s.coresOf p).foldl (fun (t : State) c => t.modCore c fun k => if k.halted then k else stopCore k) s).haltDone p
  else s

def modEntry (s : State) (c uid : Nat) (f : Entry → Entry) : State :=
  s.modCore c fun k => { k with window := k.window.map fun e => if e.uid = uid then f e else e }

def entry? (s : State) (c uid : Nat) : Option Entry := (s.core c).window.find? fun e => e.uid == uid

/-- The faulting core fires nothing more and the entry never completes (R84): bytes of it that a load holds are never written, as its
destination is undefined (R85); the first record stands (R88). -/
def faultOne (s : State) (c : Nat) (e : Entry) (cause : Nat) (index : Word) (addr : Option Nat) : State :=
  let t := (s.modEntry c e.uid fun x => { x with phase := .faulted, bound := [] }).modCore c stopCore
  let t := { t with held := t.held.filter fun h => decide (h.storer ≠ (c, e.uid)) }
  match (s.core c).part with
  | none => t
  | some p => if s.isRunning p then t.haltOne p (faultRec c e cause index addr) else (t.moreFault p).haltDone p

/-- The exchange instructions elsewhere that name a halted partition fault with COPY_REFUSED (R445), and so on for the
partitions they halt. -/
def peerFaults : Nat → State → List Nat → State
  | 0, s, _ => s
  | fuel + 1, s, ps =>
    match ps with
    | [] => s
    | p :: rest =>
      let hit := (List.range 16).flatMap fun q =>
        if q ≠ p then ((s.part q).xwaits.filter fun w => w.peer == p).map fun w => (q, w) else []
      let t := hit.foldl (fun t (qw : Nat × XWait) =>
        let t := t.modPart qw.1 fun x => { x with xwaits := x.xwaits.filter fun w => decide (w ≠ qw.2) }
        match t.entry? qw.2.core qw.2.uid with
        | some e => t.faultOne qw.2.core e 7 noIndex none
        | none => t) s
      let new := ((hit.map (·.1)).filter fun q => t.pstate q == 3).foldl (fun l q => if hasN l q then l else l ++ [q]) []
      peerFaults fuel t (rest ++ new)

/-- Halts the running ones of some partitions by the host or the keeper: each halt has its own record before any of their peers'
exchanges fault (R87, R88, R585). -/
def haltParts (s : State) (ps : List Nat) (index : Word) : State :=
  let run := ps.filter s.isRunning
  peerFaults 64 (run.foldl (fun (t : State) p => t.haltOne p (t.noneRec p index)) s) run

/-- Halts partition p by the host or the keeper (R585). -/
def haltPart (s : State) (p : Nat) (index : Word) : State :=
  if s.isRunning p then peerFaults 64 (s.haltOne p (s.noneRec p index)) [p] else s

/-- An instruction fault (R83-R88). -/
def fault (s : State) (c : Nat) (e : Entry) (cause : Nat) (index : Word) (addr : Option Nat) : State :=
  let t := s.faultOne c e cause index addr
  match (s.core c).part with
  | some p => if s.isRunning p then peerFaults 64 t [p] else t
  | none => t

/-- A poison event in a step of a partition, for the status word (R49). -/
def poisonStep (s : State) (p : Nat) (step : Word) : State :=
  s.modPart p fun x => if x.poison.any (fun w => w == step) then x else { x with poison := x.poison ++ [step] }

/-- A poison event of an instruction, counted as POISON as well (R540). -/
def poisonIn (s : State) (c p : Nat) (step : Word) : State := (s.poisonStep p step).pmc c 0x0B 1

/-! ### Gauges (R59-R61) -/

end State

def Gauge.zero : Gauge := ⟨0, 0, 0, 0⟩

/-- One more element of a class (R59), saturating (R60). -/
def Gauge.add (g : Gauge) : GClass → Gauge
  | .none => g
  | .nonfin => { g with nonfin := satAdd 32 g.nonfin 1 }
  | .ovf => { g with ovf := satAdd 32 g.ovf 1 }
  | .unf => { g with unf := satAdd 32 g.unf 1 }
  | .sub => { g with sub := satAdd 32 g.sub 1 }

namespace State

/-- Elements of the given classes written into a tensor count in its slot, in the instruction's step (R59-R61). -/
def countGauge (s : State) (p : Nat) (step tensor : Word) (cs : List GClass) : State :=
  match (s.part p).img with
  | none => s
  | some im =>
    match im.gaugeMap.find? fun g => g.2 == tensor with
    | none => s
    | some (slot, _) =>
      s.modPart p fun x =>
        let st := x.gauges.get [] step.toNat
        let g := cs.foldl Gauge.add (st.get Gauge.zero slot)
        { x with gauges := x.gauges.set step.toNat (st.set slot g) }

/-- The key of stochastic draws for a tensor in a step (R55). -/
def drawKey (s : State) (p : Nat) (step tensor : Word) : DrawKey :=
  ⟨((s.part p).img.map (·.runSeed)).getD 0, step, tensor⟩

end State

end Sys2Proof.Machine
end

