-- ==== Sys2Proof/Machine/Crossing.lean ====
section
/-! DEFINITION. The crossings between clocked islands and the self-timed logic: words accepted, failures, and resets (R514-R521). What a
step moves through a crossing whole (a granule, a flit, a register value) has passed it when the step ends (R516; log 15); the queues
hold what stands in a crossing between steps. -/

namespace Sys2Proof.Machine

/-- How many samples a receiver has taken when two successive ones agree (R515). -/
def agreedAt : List (List Byte) → Option Nat
  | a :: b :: t => if a = b then some 2 else (agreedAt (b :: t)).map (· + 1)
  | _ => none

/-- Words a crossing holds in a direction (R514). -/
def xingDepth : Nat := 8

/-- The words of a unit: 16 bytes each at a link lane's crossings (R513), at most what a crossing holds, else one word (log 15). -/
def unitWords (x : Nat) (u : List Byte) : Nat := if x < 272 ∧ x % 17 ≠ 16 then min xingDepth (max 1 ((u.length + 15) / 16)) else 1

/-- The units from the front of a list whose words fit in the room. -/
def fitting (x : Nat) : Nat → List (Nat × List Byte) → Nat
  | _, [] => 0
  | room, u :: t => if unitWords x u.2 ≤ room then fitting x (room - unitWords x u.2) t + 1 else 0

/-- The sender writes what there is room for, a unit whole or not at all. -/
def XDir.fill (x : Nat) (d : XDir) : XDir :=
  let n := fitting x (xingDepth - sumN (d.queue.map fun u => unitWords x u.2)) d.sender
  { d with queue := d.queue ++ d.sender.take n, sender := d.sender.drop n }

/-- The direction with nothing in its queue, and nothing at its sender where that side resets (R517). -/
def XDir.flush (d : XDir) (gone : Bool) : XDir := { d with queue := [], samples := [], sender := if gone then [] else d.sender }

/-- The direction without a cluster's units; the samples of a front unit that goes are dropped (R517, R528). -/
def XDir.without (d : XDir) (cl : Nat) : XDir :=
  { d with queue := d.queue.filter fun u => u.1 != cl, sender := d.sender.filter fun u => u.1 != cl,
           samples := if (d.queue.head?.map (·.1)) = some cl then [] else d.samples }

namespace State

/-- Occurrences counted for a crossing: bits hi:lo of its counts, saturating (R521). -/
def xingCount (s : State) (x hi lo n : Nat) : State :=
  s.modXing x fun k => { k with counts := setF k.counts hi lo (satAdd (hi + 1 - lo) (getF k.counts hi lo) n) }

/-- Is the power domain of a crossing's self-timed side off (R32)? That of an LPDDR6 package, the cartridge, the management port and the
reference is always on. -/
def selfOff (s : State) (x : Nat) : Bool :=
  if x < 272 then !(s.port (x / 17)).powered
  else if x < 304 then hasN s.off (144 + (x - 272) / 4)
  else (x == 320 || x == 321) && hasN s.off (152 + (x - 320))

/-- Is a crossing held in reset by a side, or by the always-on domain for a side whose domain is off (R519)? -/
def inReset (s : State) (x : Nat) : Bool := s.xingHeld x || s.selfOff x

/-- KEEP_XING_SEL.STATE of a crossing (R520). -/
def xingState (s : State) (x : Nat) : Nat :=
  (if (s.xing x).selfReset || s.selfOff x || !(s.xing x).clusters.isEmpty then 1 else 0) + (if (s.xing x).clkReset then 2 else 0)

/-- A side gives its reset notice: the queues are discarded in both directions and counted, and the notice is answered, unless the
other side resets too; for a self-timed side that is off the always-on domain answers (R517, R519). -/
def resetNotice (s : State) (x : Nat) (clocked : Bool) : State :=
  let k := s.xing x
  if (if clocked then k.clkReset else k.selfReset) then s
  else
    let off := s.selfOff x
    let s := (s.xingCount x 63 48 1).xingCount x 31 0 (k.toClocked.queue.length + k.toSelf.queue.length)
    s.modXing x fun (k : Xing) =>
      let k := { k with toClocked := k.toClocked.flush (!clocked), toSelf := k.toSelf.flush clocked }
      if clocked then { k with clkReset := true, clkAcked := !k.selfReset || off } else { k with selfReset := true, selfAcked := !k.clkReset }

/-- A restarting cluster's side of the crossings to the tiers gives its notice: the cluster's units are discarded and counted, and those of
the others go on (R517, R518, R528; log 15). -/
def clusterNotice (s : State) (cl : Nat) : State :=
  (upFrom 272 48).foldl (fun (t : State) x =>
    let k := t.xing x
    if s.inReset x then t
    else
      let mine := fun (d : XDir) => (d.queue.filter fun u => u.1 == cl).length
      ((t.xingCount x 63 48 1).xingCount x 31 0 (mine k.toClocked + mine k.toSelf)).modXing x fun (k : Xing) =>
        { k with toClocked := k.toClocked.without cl, toSelf := k.toSelf.without cl, clusters := cl :: k.clusters.filter fun y => y != cl }) s

/-- The cluster's side is out of its reset. -/
def clusterBack (s : State) (cl : Nat) : State :=
  { s with xings := s.xings.map fun x => (x.1, { x.2 with clusters := x.2.clusters.filter fun y => y != cl }) }

/-- A side of crossings n from x on resets, its notice is answered, and it is out of reset before the command ends; where it was in reset
already, the reset in progress serves (R517, R519; log 15). -/
def sideReset (s : State) (x n : Nat) (clocked : Bool) : State :=
  (upFrom x n).foldl (fun (t : State) i =>
    if (if clocked then (t.xing i).clkReset else (t.xing i).selfReset) then t
    else (t.resetNotice i clocked).modXing i fun k =>
      if clocked then { k with clkReset := false, clkAcked := false } else { k with selfReset := false, selfAcked := false }) s

/-- Crossings n from x on get the notice of a self-timed side whose domain goes off; while it is off the always-on domain holds them
(R517, R519). -/
def offNotice (s : State) (x n : Nat) : State := s.sideReset x n false

/-- The samples taken of the front unit in a direction, at most 16, and how many of them are new beyond the first two: agreement accepts the unit,
and the sixteenth without it fails the crossing (R515). -/
def sampled (s : State) (x : Nat) (toClocked : Bool) (samples : List (List Byte)) : State :=
  let k := s.xing x
  let d := if toClocked then k.toClocked else k.toSelf
  let all := (d.samples ++ samples).take 16
  let put := fun (s : State) (d : XDir) =>
    s.modXing x fun (k : Xing) => if toClocked then { k with toClocked := d } else { k with toSelf := d }
  match agreedAt all with
  | some n =>
    put (s.xingCount x 47 32 (n - max 2 d.samples.length)) ({ d with queue := d.queue.tail, samples := [], taken := all.getD (n - 1) [] }.fill x)
  | none =>
    let s := put (s.xingCount x 47 32 (all.length - max 2 d.samples.length)) { d with samples := all }
    if 16 ≤ all.length then (s.record 3 0x0020 none x none none []).resetNotice x true else s

/-- CROSSING_WORD_ACCEPT: the sender's units join the queue as far as there is room, and the receiver's samples settle the front unit or fail
the crossing. While a side resets nothing is written: what a sender that does not reset had to write stays with it. -/
def wordAccept (s : State) (x : Nat) (toClocked : Bool) (written : List (Nat × List Byte)) (samples : List (List Byte)) : State :=
  let k := s.xing x
  let gone := if toClocked then k.selfReset || s.selfOff x else k.clkReset
  let new := written.filter fun u => !gone && !hasN k.clusters u.1
  let join := fun (d : XDir) => { d with sender := d.sender ++ new }
  let put := fun (f : XDir → XDir) =>
    s.modXing x fun (k : Xing) => if toClocked then { k with toClocked := f k.toClocked } else { k with toSelf := f k.toSelf }
  if s.inReset x then put join
  else
    let t := put fun d => (join d).fill x
    let d := if toClocked then (t.xing x).toClocked else (t.xing x).toSelf
    if d.queue.isEmpty then t else t.sampled x toClocked samples

/-- CROSSING_RESET_TIMEOUT: a resetting side waits no longer. -/
def resetTimeout (s : State) (x : Nat) (clocked : Bool) : State :=
  let k := s.xing x
  if (if clocked then k.clkReset else k.selfReset) then
    s.modXing x fun (k : Xing) => if clocked then { k with clkAcked := true } else { k with selfAcked := true }
  else s

/-- CROSSING_RESTART: each side whose notice has been answered comes out of reset; once both are, the crossing runs again, empty. -/
def xingRestart (s : State) (x : Nat) : State :=
  let k := s.xing x
  if (k.selfReset && k.selfAcked) || (k.clkReset && k.clkAcked) then
    s.modXing x fun (k : Xing) =>
      { k with selfReset := k.selfReset && !k.selfAcked, clkReset := k.clkReset && !k.clkAcked,
               selfAcked := false, clkAcked := false }
  else s

end State

def execCrossingWordAccept (x : XingId) (toClocked : Bool) (written : List (Nat × List Byte)) (samples : List (List Byte)) (s : State) : Out :=
  .next (s.wordAccept x toClocked written samples)
def execCrossingResetNotice (x : XingId) (clocked : Bool) (s : State) : Out := .next (s.resetNotice x clocked)
def execCrossingResetTimeout (x : XingId) (clocked : Bool) (s : State) : Out := .next (s.resetTimeout x clocked)
def execCrossingRestart (x : XingId) (s : State) : Out := .next (s.xingRestart x)

end Sys2Proof.Machine
end

