-- ==== Sys2Proof/Machine/Tokens.lean ====
section
/-! DEFINITION. Tokens and firing: which instance a wait names (R66, R611), whether it has arrived, which entry of a
window fires (R68), what firing and completing do, and the program structure they read (R106-R111). -/

namespace Sys2Proof.Machine

/-! ### Program structure -/

def Rec.opcode (r : Rec) : Nat := getF r.op 63 56
def Entry.opcode (e : Entry) : Nat := getF e.op 63 56

def Rec.isLoop (r : Rec) : Bool := r.unit == 0 && r.opcode == 4
def Rec.isPred (r : Rec) : Bool := r.unit == 0 && r.opcode == 3

/-- Records in the body of a LOOP or the block of a PRED (R109). -/
def Rec.bodyLen (r : Rec) : Nat :=
  if r.isLoop then getF r.op 15 0 + 1 else if r.isPred then getF r.op 11 0 + 1 else 0

/-- The constant trip count of a LOOP, where it has one (R107, R109). -/
def Rec.constTrips (r : Rec) : Option Nat :=
  if getF r.op 31 31 = 1 then none else if getF r.op 30 30 = 1 then some 0 else some (r.ext + 1)

/-- A LOOP's declared maximum trip count. -/
def Rec.maxTrips (r : Rec) : Nat := getF r.op 55 32 + 1

/-- The headers whose body or block holds record i, outermost first. -/
def enclosing (recs : List Rec) (i : Nat) : List (Nat × Rec) :=
  ((List.range i).zip recs).filter fun hr => decide (i ≤ hr.1 + hr.2.bodyLen) && decide (0 < hr.2.bodyLen)

def loopDepth (recs : List Rec) (i : Nat) : Nat := ((enclosing recs i).filter fun hr => hr.2.isLoop).length

/-! ### Program order -/

/-- A LOOP's iterations as far as the image fixes them: its constant, else its declared maximum. -/
def Rec.trips (r : Rec) : Nat := r.constTrips.getD r.maxTrips

/-- The loops around record i: header and trips, outermost first. -/
def loopsOf (recs : List Rec) (i : Nat) : List (Nat × Nat) :=
  ((enclosing recs i).filter fun h => h.2.isLoop).map fun h => (h.1, h.2.trips)

/-- The place of an instance in its core's program order, to be compared by `keyBefore`. -/
def progKey (recs : List Rec) (i : Nat) (it : List Nat) : List Nat :=
  (((loopsOf recs i).zip it).flatMap fun q => [q.1.1, q.2]) ++ [i]

/-- Lexicographic order. -/
def keyBefore : List Nat → List Nat → Bool
  | _, [] => false
  | [], _ :: _ => true
  | a :: as, b :: bs => decide (a < b) || (a == b && keyBefore as bs)

/-- The iterations just before the given ones, in loops of trips `ns`. -/
def iterBefore : List Nat → List Nat → Option (List Nat)
  | _ :: ns, k :: ks =>
    match iterBefore ns ks with
    | some r => some (k :: r)
    | none => if k = 0 then none else some ((k - 1) :: ns.map (· - 1))
  | _, _ => none

/-- The iterations of the last instance of record j before an instance of record i, if there is one. -/
def latestOf (recs : List Rec) (i : Nat) (it : List Nat) (j : Nat) : Option (List Nat) :=
  let li := loopsOf recs i
  let lj := loopsOf recs j
  let m := ((li.zip lj).takeWhile fun x => x.1.1 == x.2.1).length
  let inner := (lj.drop m).map (·.2)
  if hasN inner 0 then none
  else (if j < i then some (it.take m) else iterBefore ((lj.take m).map (·.2)) (it.take m)).map fun x => x ++ inner.map (· - 1)

/-- The nearest instance before an instance of record i of a record that a test accepts: its index and iterations. Every
predicated block counts as entered (log 16). -/
def nearest (recs : List Rec) (ok : Rec → Bool) (i : Nat) (it : List Nat) : Option (Nat × List Nat) :=
  ((List.range recs.length).zip recs).foldl (fun (a : Option (Nat × List Nat)) q =>
    if ok q.2 then
      (match latestOf recs i it q.1, a with
        | none, _ => a
        | some x, none => some (q.1, x)
        | some x, some b => if keyBefore (progKey recs b.1 b.2) (progKey recs q.1 x) then some (q.1, x) else a)
    else a) none

/-- The iterations of record i with each loop taken as run at least once and at most `cap` times. -/
def itersUpTo (cap : Nat) (recs : List Rec) (i : Nat) : List (List Nat) :=
  let ns := (loopsOf recs i).map fun l => max 1 (min cap l.2)
  (List.range (prodN ns)).map (digits ns)

namespace PartImg

def prog (im : PartImg) (program lcore : Nat) : Option Prog :=
  im.progs.find? fun g => g.program == program && g.core == lcore

/-- Step n's place in the schedule, and the program it runs (R111). -/
def placeOf (im : PartImg) (step : Word) : Nat := (step - im.stepStart).toNat % max im.schedule.length 1
def programOf (im : PartImg) (step : Word) : Nat := im.schedule.getD (im.placeOf step) 0

/-- One core's records of step n's program. -/
def recsOf (im : PartImg) (step : Word) (lcore : Nat) : List Rec :=
  ((im.prog (im.programOf step) lcore).map (·.recs)).getD []

end PartImg

/-- Does a partition claim logical core 16c + k (R100)? -/
def inMask (im : PartImg) (l : Nat) : Bool := (im.mask.getD (l / 16) 0).getLsbD (l % 16)

/-- The record that produces an id on a core (R108). -/
def producerOf (recs : List Rec) (id : Nat) : Option Nat :=
  recs.findIdx? fun r => decide (r.produce.toNat = 0x8000 + id)

/-! ### Wait entries (R108) -/

structure Wait where
  kind : Nat
  prev : Bool
  id   : Nat
  deriving DecidableEq, Repr

def waitOf (w : Nat) : Wait := ⟨fld w 15 14, w.testBit 13, fld w 11 0⟩

/-- A TJOIN's further wait of 14 bits (R109). -/
def waitOf14 (w : Nat) : Wait := ⟨fld w 13 12, false, fld w 11 0⟩

def waitsOf (wait : Long) : List Wait := (List.range 4).map fun j => waitOf (getF wait (16 * j + 15) (16 * j))

def joinWaits (op : Long) : List Wait := (List.range 4).map fun j => waitOf14 (getF op (14 * j + 13) (14 * j))

def Entry.waits (e : Entry) : List Wait :=
  (waitsOf e.wait ++ (if e.unit = 0 ∧ e.opcode = 2 then joinWaits e.op else [])).filter fun w => w.kind != 0

/-! ### The instance a wait names (R66, R611) -/

inductive Inst where
  /-- Met at once: iteration −1, or a record that certainly never enters. -/
  | met
  /-- Not known yet, or not produced. -/
  | notYet
  /-- The instance with these iterations. -/
  | named (iters : List Nat)
  deriving DecidableEq, Repr

/-- What a header resolved to on its core (R74, R75). -/
def resolvedOf (k : Core) (step : Word) (h : Nat) (iters : List Nat) : Option Nat :=
  (k.resolved.find? fun r => decide (r.step = step ∧ r.recIx = h ∧ r.iters = iters)).map (·.count)

def instIn (k : Core) (step : Word) (j : List Nat) (m : Nat) (prev : Bool) : List (Nat × Rec) → Nat → List Nat → Inst
  | [], _, it => .named it
  | (h, r) :: t, l, it =>
    if r.isLoop then
      match (match r.constTrips with | some n => some n | none => resolvedOf k step h it) with
      | none => .notYet
      | some n =>
        if n = 0 then .met
        else
          let idx := if l + 1 ≤ m then j.getD l 0 - (if prev && l + 1 == m then 1 else 0) else n - 1
          if n ≤ idx then .met else instIn k step j m prev t (l + 1) (it ++ [idx])
    else
      match resolvedOf k step h it with
      | none => .notYet
      | some 0 => .met
      | some _ => instIn k step j m prev t l it

/-- The instance that a wait of an instruction in iterations j receives from record i of the producer's program. -/
def instOf (k : Core) (recs : List Rec) (step : Word) (i : Nat) (j : List Nat) (prev : Bool) : Inst :=
  let m := min (loopDepth recs i) j.length
  if prev && decide (0 < m) && j.getD (m - 1) 0 == 0 then .met
  else instIn k step j m prev (enclosing recs i) 0 []

namespace State

/-- The value of a token instance that has arrived at a core. -/
def tokenAt (s : State) (c : Nat) (kind : TokKind) (id : Nat) (step : Word) (iters : List Nat) : Option Word :=
  ((s.core c).tokens.find? fun t => decide (t.kind = kind ∧ t.id = id ∧ t.step = step ∧ t.iters = iters)).map (·.value)

/-- Has step m's barrier been released, or does it lie before the first step (R108)? -/
def barrierMet (s : State) (p : Nat) (step : Word) (k : Nat) : Bool :=
  let x := s.part p
  decide ((step - x.firstStep).toNat < k) || x.barriers.any fun b => b == step - BitVec.ofNat 32 k

/-- The value a wait of an instruction brings, where it is met (R66, R108, R611). -/
def waitMet (s : State) (c : Nat) (step : Word) (iters : List Nat) (w : Wait) : Option Word :=
  if w.kind = 0 then some 0
  else match (s.core c).part with
  | none => none
  | some p =>
    if w.kind = 3 then (if s.barrierMet p step w.id then some 0 else none)
    else match (s.part p).img with
    | none => none
    | some im =>
      let kind := if w.kind = 2 then TokKind.bind else TokKind.done
      let l := (s.core c).logical
      let recs := im.recsOf step l
      let inst :=
        match producerOf recs w.id with
        | some i => instOf (s.core c) recs step i iters w.prev
        | none =>
          match im.routes.find? fun (r : Route) => r.program == im.programOf step && r.destId == w.id && hasN r.dests l &&
                  decide (r.kind.toNat = w.kind) with
          | none => .notYet
          | some r =>
            let src := im.recsOf step r.src
            match producerOf src r.id, s.physOf r.src with
            | some i, some pc => instOf (s.core pc) src step i iters w.prev
            | _, _ => .notYet
      match inst with
      | .met => some 0
      | .notYet => none
      | .named it => s.tokenAt c kind w.id step it

/-- Every wait of an entry is met. -/
def waitsMet (s : State) (c : Nat) (e : Entry) : Bool :=
  e.waits.all fun w => (s.waitMet c e.step e.iters w).isSome

/-- The scalar that wait entry 0 brings. -/
def scalarOf (s : State) (c : Nat) (e : Entry) : Word :=
  (s.waitMet c e.step e.iters (waitOf (getF e.wait 15 0))).getD 0

/-! ### Firing (R68) -/

/-- Has a stack stopped the module's work (R335, R582)? -/
def tripped (s : State) : Bool := (List.range 8).any s.stackStopped

/-- May instructions of physical core c fire? Its partition runs or its halt notice has not come, it is not being taken by a
slice, its cluster is not restarting, and no stack has tripped. -/
def mayFire (s : State) (c : Nat) : Bool :=
  let k := s.core c
  match k.part with
  | none => false
  | some p => s.firing p && !k.halted && !k.taking && !(s.cl (c / 16)).restarting && !s.tripped

/-- Is an entry's VLEN known? -/
def vlenKnown (e : Entry) : Bool :=
  match e.vset.vlen with
  | .known _ => true
  | .token _ => false

/-- An entry whose tokens have arrived and that the Weir has admitted. -/
def isReady (s : State) (c : Nat) (e : Entry) : Bool :=
  decide (e.phase = .waiting) && e.admitted && s.waitsMet c e

/-- The oldest ready entry for a unit that its engine can accept (R68). -/
def oldestReady (s : State) (c unit : Nat) (acc : Entry → Bool) : Option Entry :=
  if s.mayFire c then (s.core c).window.find? fun e => e.unit == unit && s.isReady c e && acc e else none

/-- A token instance arrives at a core. -/
def addTok (s : State) (c : Nat) (t : Tok) : State := s.modCore c fun k => { k with tokens := k.tokens ++ [t] }

/-- An entry's token under its PRODUCE id, if it has one (R64, R107). -/
def produce (s : State) (c : Nat) (e : Entry) (kind : TokKind) (value : Word) : State :=
  if e.produce.toNat < 0x8000 then s
  else s.addTok c ⟨kind, e.produce.toNat % 4096, e.step, e.iters, value⟩

/-- Is the entry one that PMC_SAMPLE selects when it fires (R545)? -/
def samples (s : State) (c : Nat) (e : Entry) : Bool :=
  let w := s.reg .pmcSample (cix c)
  getF w 0 0 == 1 && w.toNat.testBit (6 + e.unit)

/-- Is the entry written to the sample buffer when it completes: PMC_SAMPLE selects it and the sampling count has reached its period, also
one written below the count? -/
def sampleHit (s : State) (c : Nat) (e : Entry) : Bool :=
  s.samples c e && decide (s.regF .pmcSample (cix c) 31 16 ≤ (s.core c).sampleCount)

/-- An entry as it fires: done unless its meaning says otherwise, with its fire tick. -/
def firedEntry (s : State) (c : Nat) (e : Entry) : Entry := { e with phase := .done, sampled := s.sampleHit c e, fireTick := s.tick }

/-- An entry fires: its phase, its fire tick, the sampling count and the FIRE event. -/
def markFired (s : State) (c : Nat) (e : Entry) : State :=
  let n := (s.core c).sampleCount
  let t := s.modCore c fun k => { k with sampleCount := if s.samples c e then (if s.sampleHit c e then 0 else n + 1) else n }
  (t.modEntry c e.uid fun x => { x with phase := .done, sampled := s.sampleHit c e, fireTick := s.tick }).pmc c 0x02 1

/-- The bind token of an entry, produced when it fires with its source spans bound (R64, R76). -/
def bindOnly (s : State) (c : Nat) (e : Entry) (spans : List Span) : State :=
  (s.modEntry c e.uid fun x => { x with bound := spans }).produce c e .bind 0

/-- The same for spans that are read at once, whose granules wait at the sluices (R328). -/
def bindSpans (s : State) (c : Nat) (e : Entry) (spans : List Span) : State :=
  (s.bindOnly c e spans).trafficAll (s.classOf c e.unit 0) spans

def setPhase (s : State) (c uid : Nat) (ph : Phase) : State := s.modEntry c uid fun x => { x with phase := ph }

def setValue (s : State) (c uid : Nat) (v : Word) : State := s.modEntry c uid fun x => { x with value := v }

/-- A command that makes the oldest ready entry of a unit fire, if that entry is of the command's opcode. -/
def fireOp (s : State) (c unit opcode : Nat) (acc : Entry → Bool) (body : State → Entry → State) : State :=
  match s.oldestReady c unit acc with
  | none => s
  | some e =>
    if e.opcode = opcode then body (s.markFired c e) (s.firedEntry c e) else s

/-! ### Completion (R67, R545) -/

/-- The beats of an instruction that took `ticks` edges of REFTICK, which R511's beat period of 0.42 ns to 0.70 ns bounds on either side; how
many within the bounds is free (R546, log 41). -/
def latBeats (ticks free : Nat) : Nat :=
  let lo := (ticks - 1) * 100 / 7
  min (lo + free % ((ticks + 1) * 500 / 21 + 2 - lo)) 0xFFFFFFFF

/-- The sample entry of a completing instruction (R546): four 64-bit words. -/
def sampleWords (s : State) (c : Nat) (e : Entry) (valid loc : Bool) (addr : Nat) : List Long :=
  let p := ((s.core c).part.getD 0)
  let fl := (if valid then 1 else 0) + (if loc then 2 else 0) + (if e.fallback then 4 else 0)
  [BitVec.ofNat 64 (e.off % 2 ^ 32 + e.unit * 2 ^ 32 + e.opcode * 2 ^ 40 + fl * 2 ^ 48 + p * 2 ^ 56),
   BitVec.ofNat 64 (e.step.toNat + latBeats (s.tick - e.fireTick).toNat s.freeLong.toNat * 2 ^ 32),
   BitVec.ofNat 64 (if valid then addr else 0),
   BitVec.ofNat 64 ((s.tick - e.fireTick).toNat % 2 ^ 32 + e.fireTick.toNat % 2 ^ 32 * 2 ^ 32)]

/-- A selected instruction is written to the sample buffer: entry NEXT, or lost where the buffer is full (R545, R554). -/
def writeSample (s : State) (c : Nat) (ws : List Long) : State :=
  let ix := cix c
  let count := s.regF .pmcSstat ix 8 0
  let nxt := s.regF .pmcSstat ix 23 16
  if count = 256 ∧ s.regF .pmcSample ix 1 1 = 0 then s.bump .pmcSstat ix 47 32
  else
    let t := s.modCore c fun k => { k with samples := k.samples.set nxt ws }
    (t.setRegF .pmcSstat ix 23 16 ((nxt + 1) % 256)).setRegF .pmcSstat ix 8 0 (min (count + 1) 256)

/-- The address operand of an instruction (R546): whether it is a cluster location, and the address of the first byte of the first extent
that its operation word names, in the order of the word's fields (log 41), or of an indexed access's lowest active element. -/
def addrOperand (s : State) (c : Nat) (e : Entry) : Option (Bool × Nat) :=
  match ((s.core c).part).bind fun p => (s.part p).img with
  | none => none
  | some im =>
    let f := fun (w o n : Nat) => fld w (8 * (o + n) - 1) (8 * o)
    let d := fun (hi lo : Nat) => (im.descs.getD (getF e.op hi lo) 0).toNat
    let it := e.iters.getLast?.getD 0
    let locA := fun (loc off : Nat) => some (true, loc * 2 ^ 24 + off % 2 ^ 21)
    let vaA := fun (a : Nat) => some (false, a % 2 ^ 48)
    let sideA := fun (space loc a : Nat) => if space % 2 = 0 then vaA a else locA loc a
    let tensor := fun (w : Nat) => locA (f w 4 1) (f w 8 4)
    let loss := fun (w : Nat) => if getF e.op 43 43 = 1 then vaA (f w 8 6) else vaA (f w 0x10 6)
    let coll := fun (w : Nat) => if e.opcode = 0x50 then sideA (f w 2 1) (f w 3 1) (f w 8 6) else vaA (f w 0x18 6)
    match e.unit, e.opcode with
    | 1, _ => tensor (d 55 40)
    | 2, oc | 3, oc =>
      if oc ≤ 3 then none
      else if oc ≤ 9 then locA (getF e.op 51 47) (128 * (getF e.op 31 18 + getF e.op 17 4 * it))
      else if oc ≤ 0x0B then e.first.bind fun a => locA (getF e.op 51 47) a
      else if e.vset.tensor then tensor (d 51 40) else none
    | 4, oc => if oc ≠ 0x64 ∧ getF e.op 55 55 = 1 then tensor (d 35 24) else none
    | 5, 0x10 => let w := d 55 44; sideA (f w 1 1) (f w 2 1) (f w 8 6 + 64 * getF e.op 39 20 * it)
    | 5, 0x11 => let w := d 55 44; locA (f w 3 1) (f w 0x0E 3 + 64 * getF e.op 19 4 * it)
    | 5, 0x30 | 5, 0x31 | 5, 0x32 => let w := d 55 44; e.first.bind fun a => sideA (f w 5 1) (f w 6 1) a
    | 5, 0x68 | 5, 0x69 => vaA (f (d 47 36) 8 6)
    | 5, 0x70 => tensor (d 55 44)
    | 5, 0x71 | 5, 0x72 => locA (getF e.op 55 51) (64 * getF e.op 50 36)
    | 5, 0x74 => loss (d 55 44)
    | 5, 0x76 | 5, 0x77 | 5, 0x78 | 5, 0x7C => vaA (f (d 55 44) 8 6)
    | 6, _ => let w := d 55 44; sideA (f w 3 1) (f w 4 1) (f w 8 6)
    | 7, 0x52 => vaA (f (d 39 28) 8 6)
    | 7, _ => coll (d 39 28)
    | 8, _ => vaA (f (d 47 36) 8 6)
    | _, _ => none

/-- The array's ramp moves by the beats that have passed: up to 32 while a pass is in the array, down to 0 while none is (R150,
log 35). -/
def rampMove (s : State) (c : Nat) : State :=
  let l := s.regF .meaStatus (cix c) 39 32
  let n := Config.rampBeats s.fresh
  if (s.core c).passes.isEmpty then
    (if l = 0 then s else (s.setRegF .meaStatus (cix c) 39 32 (l - n)).usedFresh)
  else if l = 32 then s
  else (s.setRegF .meaStatus (cix c) 39 32 (min 32 (l + n))).usedFresh

/-- The ramp-down's energy is charged to the partition of the pass that last ran (R151). -/
def chargeRampDown (s : State) (c : Nat) : State :=
  let p := (s.core c).lastPart
  let n := Config.rampDown s.fresh
  let t := s.modPart p fun x => { x with energy := x.energy + n }
  t.usedFresh.setAcct p (s.weir.accts.get 0 p - n)

/-- An MPASS leaves the array; behind the last one the ramp falls. -/
def passOut (s : State) (c : Nat) (e : Entry) : State :=
  let t := (s.rampMove c).modCore c fun k => { k with passes := k.passes.filter fun x => x.uid != e.uid }
  if (t.core c).passes.isEmpty then t.chargeRampDown c else t

/-- An entry leaves the window and produces its completion token (R64, R67); sampled entries are written (R545). -/
def complete (s : State) (c : Nat) (e : Entry) : State :=
  let s := if e.unit = 1 ∧ e.opcode = 0x11 then s.passOut c e else s
  let t := (s.modCore c fun k =>
    { k with window := k.window.filter fun x => x.uid != e.uid }).produce c e .done e.value
  let t := t.pmc c 0x03 1
  if e.sampled then
    let a := s.addrOperand c e
    (t.writeSample c (s.sampleWords c e a.isSome ((a.map (·.1)).getD false) ((a.map (·.2)).getD 0))).usedFresh
  else t

end State

end Sys2Proof.Machine
end

