-- ==== Sys2Proof/Machine/Retire.lean ====
section
/-! DEFINITION. The retirement record (R530, R531), the blocks that are retired or off, and those that cannot be reached. -/

namespace Sys2Proof.Machine

/-- A retirement entry as 16 bytes (R531). -/
def Retire.bytes (r : Retire) : List Byte :=
  [BitVec.ofNat 8 r.kind, BitVec.ofNat 8 r.source, BitVec.ofNat 8 r.cluster, BitVec.ofNat 8 r.core] ++ leBytes 4 r.ppn ++
  [BitVec.ofNat 8 r.slice, 0, 0, 0] ++ leBytes 4 r.hours

/-! ### The stored record (R530) -/

def RetireCopy.seq (c : RetireCopy) : Nat := le c.head 0x0C 4
def RetireCopy.pointer (c : RetireCopy) : Nat := le c.head 8 2

/-- A copy counts where its magic, version and CRC over the entries in use stand. -/
def RetireCopy.valid (c : RetireCopy) : Bool :=
  c.head.length == 64 && le c.head 0 4 == 0x52495452 && le c.head 4 2 == 1 && le c.head 6 2 == c.entries.length &&
    le c.head 0x10 4 == crc32 (c.entries.flatMap Retire.bytes)

/-- The header over entries (R530). -/
def retireHead (seq pointer : Nat) (entries : List Retire) : List Byte :=
  leBytes 4 0x52495452 ++ leBytes 2 1 ++ leBytes 2 entries.length ++ leBytes 2 pointer ++ leBytes 2 0 ++ leBytes 4 seq ++
  leBytes 4 (crc32 (entries.flatMap Retire.bytes)) ++ fill 44 0

namespace State

/-- The copy of the retirement record in use: the valid one with the higher SEQ; where neither is valid there is no record (R525, R530). -/
def retireRec (s : State) : RetireCopy :=
  if s.retireB.valid && (!s.retireA.valid || decide (s.retireA.seq < s.retireB.seq)) then s.retireB
  else if s.retireA.valid then s.retireA else ⟨[], []⟩

/-- An update is written to the copy with the lower SEQ (R530). -/
def writeRetire (s : State) (pointer : Nat) (entries : List Retire) : State :=
  let cur := s.retireRec
  let new : RetireCopy := ⟨retireHead (cur.seq + 1) pointer entries, entries⟩
  if s.retireB.valid && (!s.retireA.valid || decide (s.retireA.seq < s.retireB.seq)) then { s with retireA := new }
  else { s with retireB := new }

/-- Whole operating hours: 3,600 s of 10^8 ticks (log 14). -/
def hours (s : State) : Nat := (s.opTicks + s.tick.toNat) / 360000000000

def coreRetired (s : State) (c : Nat) : Bool := (s.regF .retireCluster [c / 16] 15 0).testBit (c % 16)
def commonRetired (s : State) (cl : Nat) : Bool := s.regF .retireCluster [cl] 16 16 == 1
def ingestRetired (s : State) (cl : Nat) : Bool := s.regF .retireCluster [cl] 17 17 == 1

/-! ### Blocks that cannot be reached (R519, R542, R580) -/

/-- Is block b retired: core 0 to 127, common 128 + c, ingest engine 136 + c (R522)? -/
def blockRetired (s : State) (b : Nat) : Bool :=
  if b < 128 then s.coreRetired b else if b < 136 then s.commonRetired (b - 128) else s.ingestRetired (b - 136)

/-- Is a block's power domain off: switched off, or kept off because the block is retired (R302, R527)? -/
def blockOff (s : State) (b : Nat) : Bool := hasN s.off b || s.blockRetired b

/-- Is a register's block retired, powered off, or behind a crossing in reset (R519, R580)? A link port's registers are behind its PCS crossing, a
stack's behind the crossings of its four PHY groups, an LPDDR6 controller's behind those of its four packages (log 15). -/
def unreachable (s : State) (id : RegId) (ix : List Nat) : Bool :=
  let b := id.row.base
  let i := ix.getD 0 0
  if 0x01000000 ≤ b ∧ b < 0x01800000 then s.bootStep != 9 || s.blockOff (16 * i + ix.getD 1 0)
  else if 0x01800000 ≤ b ∧ b < 0x02000000 then s.bootStep != 9 || s.blockOff (128 + i)
  else if 0x09000000 ≤ b ∧ b < 0x0A000000 then s.inReset (17 * i + 16)
  else if 0x0A000000 ≤ b ∧ b < 0x0A400000 then (List.range 4).any fun g => s.inReset (272 + 4 * i + g)
  else if 0x0A400000 ≤ b ∧ b < 0x0A800000 then (List.range 4).any fun k => s.inReset (304 + 4 * i + k)
  else if b = 0x0A800000 ∨ b = 0x0A800008 then s.inReset (320 + i)
  else if 0x0B000000 ≤ b ∧ b < 0x0C000000 then s.bootStep != 9 || s.blockOff (136 + i)
  else if 0x0C010000 ≤ b then s.inReset 323
  else false

/-- Has the boot ROM stopped at step 5, serving register reads on the management port (R555)? -/
def romOnly (s : State) : Bool := s.regF .lifeStatus [] 33 32 == 2

/-- A register write by its own rules: where they refuse it, the block cannot be reached, or the boot ROM serves reads only, it is an access
error (R555, R580; log 58). -/
def wroteAt (s : State) (id : RegId) (ix : List Nat) (r : Option State) : State :=
  if s.unreachable id ix || s.romOnly then s.accessErr else r.getD s.accessErr

/-- The surviving physical cores of a cluster, ascending. -/
def survivors (s : State) (cl : Nat) : List Nat := ((List.range 16).map fun k => 16 * cl + k).filter fun c => !s.coreRetired c

/-- KEEP_CAPACITY.SURVIVORS and CORES from the record (R589). -/
def capacityBits (s : State) : Nat :=
  let n := fun cl => (s.survivors cl).length
  sumN ((List.range 8).map n) + sumN ((List.range 8).map fun cl => n cl * 2 ^ (5 * cl + 8))

def capacityReg (s : State) : Nat := s.capacityBits + (if s.keeper.reduced then 2 ^ 63 else 0)

end State

/-- The retired-block bit of an entry in RETIRE_CLUSTER (R537). -/
def Retire.bit (r : Retire) : Option (Nat × Nat) :=
  match r.kind with
  | 0 => some (r.cluster % 8, r.core)
  | 1 => some (r.cluster % 8, 16)
  | 2 => some (r.cluster % 8, 17)
  | _ => none

/-- The block index of an entry (R522), 0xFFFF for a frame. -/
def Retire.block (r : Retire) : Nat :=
  match r.kind with
  | 0 => 16 * r.cluster + r.core
  | 1 => 128 + r.cluster
  | 2 => 136 + r.cluster
  | _ => 0xFFFF

namespace State

/-- An entry is added to the record; at most 768 of KIND 3, beyond which the keeper only reports it (R531). -/
def addRetire (s : State) (r : Retire) : State :=
  let cur := s.retireRec
  if r.kind = 3 ∧ 768 ≤ (cur.entries.filter fun x => x.kind == 3).length then
    s.record 1 0x0011 none 0xFFFF none (some (r.ppn * 2 ^ 21)) []
  else
    let t := s.writeRetire cur.pointer (cur.entries ++ [r])
    match r.bit with
    | some (cl, b) => (t.setRegF .retireCluster [cl] b b 1).record 3 0x0004 none r.block none none r.bytes
    | none => t.setRegF .sluPpr [r.cluster] 31 16 (t.regF .sluPpr [r.cluster] 31 16 + 1)

/-- A frame retired because a bank has no spare row left (R337). -/
def retireFrame (s : State) (stack ppn : Nat) : State :=
  if s.retireRec.entries.any fun x => x.kind == 3 && x.ppn == ppn then s
  else s.addRetire ⟨3, 3, stack, 0, ppn, 0xFF, s.hours⟩

end State

end Sys2Proof.Machine
end

