-- ==== Sys2Proof/Machine/Access.lean ====
section
/-! DEFINITION. Access to memory by instructions: locations and ownership (R137, R295, R296), translation (R79-R81),
reads and writes of vats, pools and tiers with their error codes (R45, R293, R304, R321-R324, R336), and writes held
behind bound loads (R77). -/

namespace Sys2Proof.Machine

def mib2 : Nat := 2097152

/-! ### Locations and owners -/

/-- The vat or pool bank that a LOC byte names in a cluster (R137): a vat by its logical core. -/
def State.locPlace (s : State) (cl loc : Nat) : Option Place :=
  if loc / 64 = 0 then (s.physOf (16 * cl + loc % 32 / 2)).map fun c => .vat (32 * cl + 2 * (c % 16) + loc % 2)
  else if loc / 64 = 1 then some (.pool (16 * cl + loc % 16))
  else none

/-- The bytes of a vat or pool bank. -/
def Place.size : Place → Nat
  | .vat _ => 2097152
  | .pool _ => 1048576
  | .tier _ => 0

/-- The ownership register of a vat or pool bank (R313). -/
def Place.ownReg : Place → Option (RegId × List Nat)
  | .vat i => some (.vatOwner, [i / 32, i % 32])
  | .pool i => some (.poolOwner, [i / 16, i % 16])
  | .tier _ => none

/-- Does partition p's core c, or an engine of the listed codes, own the place (R295, R296)? A tier has no owner. -/
def State.ownerOk (s : State) (p c : Nat) (pl : Place) (eng : List Nat) : Bool :=
  match pl.ownReg with
  | none => true
  | some (id, ix) =>
    let w := s.reg id ix
    let o := getF w 4 0
    getF w 43 43 == 1 && getF w 47 44 == p && ((o == c % 16 && ix.headD 0 == c / 16) || hasN eng o)

/-- No clear and no hand-over holds accesses to the place up (R299, R303). -/
def State.locFree (s : State) (pl : Place) : Bool :=
  match pl.ownReg with
  | none => true
  | some (id, ix) => s.regF id ix 40 39 == 0

/-! ### Descriptors -/

/-- n bytes of a descriptor at offset o. -/
def dF (d : BitVec 256) (o n : Nat) : Nat := fld d.toNat (8 * (o + n) - 1) (8 * o)

def State.imgOf (s : State) (c : Nat) : Option PartImg :=
  match (s.core c).part with
  | none => none
  | some p => (s.part p).img

/-- A descriptor of the partition that holds core c. -/
def State.desc (s : State) (c i : Nat) : BitVec 256 := ((s.imgOf c).map fun im => im.descs.getD i 0).getD 0

/-! ### Translation (R80) -/

/-- A run of bytes at one place; `va` is its virtual address, or its offset for a cluster location. -/
structure Piece where
  place : Place
  addr  : Nat
  len   : Nat
  va    : Nat
  deriving DecidableEq, Repr

def Page.size (g : Page) : Nat := if g.big then 1073741824 else mib2

def Page.holds (g : Page) (va : Nat) : Bool := decide (g.va ≤ va) && decide (va < g.va + g.size)

/-- Does a page permit an access: 0 a read, 1 a write, 2 both? -/
def Page.permits (g : Page) (bit : Nat) : Bool := if bit = 2 then g.perm == 3#2 else g.perm.toNat.testBit bit

/-- A virtual run as pieces, page by page, or the cause and address of the first page that fails. `bit` is the access. -/
def walkRun (pages : List Page) (bit : Nat) : Nat → Nat → Nat → Except (Nat × Nat) (List Piece)
  | 0, _, _ => .ok []
  | fuel + 1, va, len =>
    if len = 0 then .ok []
    else match pages.find? fun g => g.holds va with
    | none => .error (1, va)
    | some g =>
      if g.permits bit then
        let n := min len (g.va + g.size - va)
        match walkRun pages bit fuel (va + n) (len - n) with
        | .ok t => .ok (⟨.tier g.slow, g.ppn * mib2 + (va - g.va), n, va⟩ :: t)
        | .error e => .error e
      else .error (2, va)

/-- Runs in ascending address order. -/
def insRun (r : Nat × Nat) : List (Nat × Nat) → List (Nat × Nat)
  | [] => [r]
  | q :: t => if r.1 ≤ q.1 then r :: q :: t else q :: insRun r t

def sortRuns (l : List (Nat × Nat)) : List (Nat × Nat) := l.foldr insRun []

/-- The first failing page over an extent's runs, in ascending order (R80). -/
def checkRuns (pages : List Page) (bit : Nat) (runs : List (Nat × Nat)) : Option (Nat × Option Nat) :=
  (sortRuns runs).findSome? fun r =>
    match walkRun pages bit (r.2 / mib2 + 2) r.1 r.2 with
    | .ok _ => none
    | .error e => some (e.1, some e.2)

def piecesOf (pages : List Page) (bit va len : Nat) : List Piece :=
  match walkRun pages bit (len / mib2 + 2) va len with
  | .ok l => l
  | .error _ => []

/-! ### Tier errors (R323, R336, R341, R342) -/

namespace State

/-- The error registers of the controller that holds a tier address (R319, R341). -/
def errRegs (slow : Bool) (a : Nat) : RegId × RegId × List Nat :=
  if slow then (.sluErrS, .sluErrAddrS, [fld a 14 11 / 4]) else (.sluErrF, .sluErrAddrF, [fld a 13 11])

/-- The partition that maps a frame. -/
def mapperOf (s : State) (slow : Bool) (ppn : Nat) : Option Nat :=
  (List.range 16).find? fun p =>
    match (s.part p).img with
    | none => false
    | some im => im.pages.any fun g => g.slow == slow && decide (g.ppn ≤ ppn) && decide (ppn < g.ppn + g.size / mib2)

/-- The first error since SLU_ERR_ADDR was last read (R342). -/
def noteErr (s : State) (slow : Bool) (a cls kind : Nat) : State :=
  let (_, id, ix) := errRegs slow a
  if s.regF id ix 63 63 = 1 then s
  else
    let ppn := a / mib2
    let m := s.mapperOf slow ppn
    s.setReg id ix (BitVec.ofNat 64 (2 ^ 63 + cls * 2 ^ 62 + kind * 2 ^ 60 + (m.getD 0) * 2 ^ 56 + (if m.isSome then 2 ^ 55 else 0) +
      ppn * 2 ^ 32 + a % mib2 / 64 * 64))

/-- The MEM_ERROR record of a reader that serves no instruction (R323, R583): the register's value and the reader kind. -/
def memErr (s : State) (slow : Bool) (a kind : Nat) : State :=
  let (_, id, ix) := errRegs slow a
  s.record 1 0x0010 (s.mapperOf slow (a / mib2)) (ix.headD 0) none (some a) (beBytes 8 (s.reg id ix).toNat ++ [BitVec.ofNat 8 kind])

/-- An error read from a row: on the third within 24 hours, or at once where uncorrectable, a soft repair starts on a
spare row of the bank, or the frame is retired where none is left (R336, R337). A DRAM row is the 2 KiB of R319 (log 13). -/
def rowError (s : State) (a : Nat) (atOnce : Bool) : State :=
  let st := fld a 13 11
  let row := a / 2048
  let k := s.stack st
  let now := s.tick.toNat
  let recent := ((k.rows.get [] row).filter fun t => decide (now - t < 8640000000000)) ++ [now]
  let s := s.modStack st fun x => { x with rows := x.rows.set row recent }
  if (atOnce || decide (3 ≤ recent.length)) && !hasN k.repairing row then
    let bank := Config.bankOf st row
    let used := k.banks.get 0 bank
    if used < 4 then
      let s := s.modStack st fun x => { x with repairing := x.repairing ++ [row], banks := x.banks.set bank (used + 1) }
      s.setRegF .sluPpr [st] 47 40 (min (s.regF .sluPpr [st] 47 40) (3 - used))
    else s.retireFrame st (a / mib2)
  else s

/-- What reading granule g (of 64 bytes) with a mark does: counts, correction, repair. -/
def markRead (s : State) (slow : Bool) (g : Nat) (m : GMark) : State :=
  let a := 64 * g
  let (er, _, ix) := errRegs slow a
  match m with
  | .oneC =>
    let s := s.bump er ix 31 0
    let s := s.setTier slow ((s.tierOf slow).fix g)
    if slow then s else s.rowError a false
  | .failD =>
    let s := (s.bump er ix 47 32).noteErr slow a 0 1
    if slow then s else s.rowError a false
  | .uncorrC =>
    let s := (s.bump er ix 63 48).noteErr slow a 1 2
    if slow then s else s.rowError a true

/-- Granules moved, for the die counters (R541). -/
def granules (s : State) (slow : Bool) (a n : Nat) : State :=
  if n = 0 then s
  else if (List.range 8).all fun j => s.regF .dieSel [j] 0 0 == 0 then s
  else (upFrom (a / 64) ((a + n - 1) / 64 - a / 64 + 1)).foldl (fun t g =>
    if slow then t.pmcDie 0x85 (fld (64 * g) 14 11 / 4) 1 else t.pmcDie 0x84 (fld (64 * g) 13 11) 1) s

end State

/-- What a read gives: the state after its counts, each byte (none where a class-D check failed, R45), and the address
within the run of an uncorrectable word or granule. -/
structure Rd where
  st    : State
  bytes : List (Option Byte)
  bad   : Option Nat

namespace State

def tierRead (s : State) (slow : Bool) (a n : Nat) : Rd :=
  let ms := (s.tierOf slow).marksIn a n
  let s' := ms.foldl (fun u m => u.markRead slow m.1 m.2) ((s.touch slow a n).granules slow a n)
  let bs := readBytes (s'.tierOf slow).data a n
  if ms.isEmpty then ⟨s', bs.map some, none⟩
  else
    let failed := (ms.filter fun m => decide (m.2 = GMark.failD)).map (·.1)
    let unc := (ms.filter fun m => decide (m.2 = GMark.uncorrC)).map (·.1)
    ⟨s', ((List.range n).zip bs).map fun ib => if hasN failed ((a + ib.1) / 64) then none else some ib.2,
     unc.head?.map fun g => 64 * g - a⟩

/-- A read of a tier that serves no instruction (R323): a granule whose check fails comes as an error mark, none in place of its bytes,
with the MEM_ERROR record of the reader kind. The marked granules are answered. -/
def serviceRead (s : State) (kind : Nat) (slow : Bool) (a n : Nat) : State × List (Option Byte) × List Nat :=
  let bad := (((s.tierOf slow).marksIn a n).filter fun m => decide (m.2 ≠ GMark.oneC)).map (·.1)
  let r := s.tierRead slow a n
  (bad.foldl (fun t g => t.memErr slow (64 * g) kind) r.st,
   ((List.range n).zip r.bytes).map (fun ib => if hasN bad ((a + ib.1) / 64) then none else ib.2), bad)

/-- The same of pieces that lie in the tiers. -/
def servicePieces (s : State) (kind : Nat) (l : List Piece) : State × List (Option Byte) × List Nat :=
  l.foldl (fun (acc : State × List (Option Byte) × List Nat) p =>
    match p.place with
    | .tier slow =>
      let r := acc.1.serviceRead kind slow p.addr p.len
      (r.1, acc.2.1 ++ r.2.1, acc.2.2 ++ r.2.2)
    | _ => acc) (s, [], [])

/-- The keeper's read of n bytes of the slow tier (R323, R328): corrections go back, and at the first granule that class C cannot
correct it stops with the MEM_ERROR record of reader kind 6 and that granule's offset in the run. -/
def keeperRead (s : State) (a n : Nat) : State × Option Nat :=
  (s.slow.marksIn a n).foldl (fun (r : State × Option Nat) m =>
    match r.2 with
    | some _ => r
    | none =>
      let t := r.1.markRead true m.1 m.2
      if m.2 = .uncorrC then (t.memErr true (64 * m.1) 6, some (64 * m.1 - a)) else (t, none)) ((s.traffic serviceClass true a n).granules true a n, none)

/-- The array of a block is found failing: the keeper retires the block once the reading command has had its effect (R304,
log 45). -/
def arrayFails (s : State) (block : Nat) : State := { s with failing := s.failing ++ [block] }

/-- A read of a vat or pool word with an error (R293, R304). -/
def wordRead (s : State) (cl block key : Nat) (w : WordErr) : State :=
  match w with
  | .double => (s.bump .vatEcc [cl] 63 32).arrayFails block
  | .single =>
    let now := s.tick.toNat
    let s := s.bump .vatEcc [cl] 31 0
    let old := ((s.cl cl).ecc.find? fun x => x.1 == key).map (·.2)
    let ts := now :: ((old.getD []).filter fun t => decide (now - t < 8640000000000))
    let s := s.modCl cl fun k => { k with ecc := ((key, ts) :: k.ecc.filter fun x => x.1 != key).take 64 }
    if 3 ≤ ts.length then s.arrayFails block else s

/-- Block, cluster and word-key base of a vat or bank. -/
def bankInfo : Place → Nat × Nat × Nat
  | .vat i => (i / 32, 16 * (i / 32) + i % 32 / 2, i % 32 * 65536)
  | .pool i => (i / 16, 128 + i / 16, (32 + i % 16) * 65536)
  | .tier _ => (0, 0, 0)

def bankOf (s : State) : Place → Bank
  | .vat i => s.vat i
  | .pool i => s.pool i
  | .tier _ => Bank.zero

/-- A read of a vat or pool bank of which some bytes serve nothing, by their place in the run: an uncorrectable word without a byte that
is needed is no fault and counts nothing (R86, R293). -/
def cellRead (s : State) (pl : Place) (a n : Nat) (need : Nat → Bool) : Rd :=
  let b := s.bankOf pl
  let used := fun (k : Nat) => (List.range 32).any fun j => decide (a ≤ 32 * k + j) && decide (32 * k + j < a + n) && need (32 * k + j - a)
  let es := b.errs.filter fun e => decide (a < 32 * e.1 + 32) && decide (32 * e.1 < a + n) && (decide (e.2 = .single) || used e.1)
  let (cl, block, base) := bankInfo pl
  ⟨es.foldl (fun u e => u.wordRead cl block (base + e.1) e.2) s, (readBytes b.data a n).map some,
   ((es.filter fun e => decide (e.2 = WordErr.double)).map (·.1)).head?.map fun w => 32 * w - a⟩

/-- An access of n bytes through a vat's access port: a grant a beat, of up to 1,024 bytes to a unit of the core and of 128 through the
Confluence (R291, R292, R540). How many between the two is free (log 41). -/
def vatGrants (s : State) (pl : Place) (a n : Nat) : State :=
  match pl with
  | .vat i =>
    let lo := (n + 1023) / 1024
    s.pmc (i / 2) 0x09 (lo + Config.grantsIn (i / 2) s.fresh a n % ((n + 127) / 128 - lo + 1))
  | _ => s

/-- The same read through a vat's access port. -/
def bankReadFor (s : State) (pl : Place) (a n : Nat) (need : Nat → Bool) : Rd := (s.vatGrants pl a n).cellRead pl a n need

def bankRead (s : State) (pl : Place) (a n : Nat) : Rd := s.bankReadFor pl a n fun _ => true

/-- A read of a piece. -/
def readPiece (s : State) (p : Piece) : Rd :=
  match p.place with
  | .tier slow => s.tierRead slow p.addr p.len
  | pl => s.bankRead pl p.addr p.len

/-- A read through a vat's feeder port: weights and scales of the array, which take no grant (R291). -/
def feedPieces (s : State) : List Piece → Rd
  | [] => ⟨s, [], none⟩
  | p :: t =>
    let r := s.cellRead p.place p.addr p.len fun _ => true
    let q := r.st.feedPieces t
    ⟨q.st, r.bytes ++ q.bytes, (r.bad.map fun o => p.va + o) <|> q.bad⟩

/-- A read of pieces in order; `bad` is the virtual address (or offset) of the first uncorrectable one. -/
def readPieces (s : State) : List Piece → Rd
  | [] => ⟨s, [], none⟩
  | p :: t =>
    let r := s.readPiece p
    let q := r.st.readPieces t
    ⟨q.st, r.bytes ++ q.bytes, (r.bad.map fun o => p.va + o) <|> q.bad⟩

/-! ### Writes -/

/-- A tier write: whole granules take the new data and check, partial ones merge; where the check of a class-D granule failed, the
merged granule's check is stored inverted (R324). The address of a partial granule that cannot be merged is answered, and that
granule is unchanged. -/
def tierWrite (s : State) (slow : Bool) (a : Nat) (bs : List Byte) : State × Option Nat :=
  let n := bs.length
  let whole := fun (g : Nat) => decide (a ≤ 64 * g) && decide (64 * g + 64 ≤ a + n)
  let meets := fun (g : Nat) => decide (a < 64 * g + 64) && decide (64 * g < a + n)
  let part := ((s.tierOf slow).marksIn a n).filter fun m => !whole m.1
  let unc := (part.filter fun m => decide (m.2 = GMark.uncorrC)).map (·.1)
  let failed := (part.filter fun m => decide (m.2 = GMark.failD)).map (·.1)
  let s := part.foldl (fun u m => u.markRead slow m.1 m.2) ((s.touch slow a n).granules slow a n)
  let t := s.tierOf slow
  let wr := if unc.isEmpty then writeBytes t.data a bs
    else ((List.range n).zip bs).foldl (fun d ib => if hasN unc ((a + ib.1) / 64) then d else writeBytes d (a + ib.1) [ib.2]) t.data
  let t := { t.unmark fun g => meets g && !hasN unc g with data := wr }
  let t := failed.foldl (fun (t : Tier) g => { t with crc := t.crc.set g (~~~t.check g) }) t
  (s.setTier slow t, unc.head?.map fun g => 64 * g)

/-- A vat or pool write: words written whole are good again; a partial word is read first (R293). -/
def bankWrite (s : State) (pl : Place) (a : Nat) (bs : List Byte) : State × Option Nat :=
  let n := bs.length
  let b := s.bankOf pl
  let touched := b.errs.filter fun e => decide (a < 32 * e.1 + 32) && decide (32 * e.1 < a + n)
  let part := touched.filter fun e => !(decide (a ≤ 32 * e.1) && decide (32 * e.1 + 32 ≤ a + n))
  let (cl, block, base) := bankInfo pl
  let s := part.foldl (fun u e => u.wordRead cl block (base + e.1) e.2) (s.vatGrants pl a n)
  let s := s.setBytes pl a bs
  let bad := (part.filter fun e => decide (e.2 = WordErr.double)).map (·.1)
  let errs := (s.bankOf pl).errs.filter fun e => hasN bad e.1 || !(decide (a < 32 * e.1 + 32) && decide (32 * e.1 < a + n))
  (match pl with
   | .vat i => s.setVat i { s.vat i with errs := errs }
   | .pool i => s.setPool i { s.pool i with errs := errs }
   | .tier _ => s, bad.head?.map fun w => 32 * w)

def writePlace (s : State) (pl : Place) (a : Nat) (bs : List Byte) : State × Option Nat :=
  match pl with
  | .tier slow => s.tierWrite slow a bs
  | pl => s.bankWrite pl a bs

/-! ### Writes held behind bound loads (R77) -/

/-- The bound spans of every load in flight but the one given, with their loaders; an export of the ferry is one (R439). -/
def boundSpans (s : State) (c uid : Nat) : List (Span × Nat × Nat) :=
  ((List.range 128).flatMap fun k => (s.core k).window.flatMap fun e =>
    if k = c ∧ e.uid = uid then [] else e.bound.map fun sp => (sp, k, e.uid)) ++
  s.ferries.flatMap fun f => if f.core = c ∧ f.uid = uid then [] else f.bound.map fun sp => (sp, f.core, f.uid)

/-- Cuts a run at a bound span: the parts outside it, and the part to hold. -/
def cutRun (pl : Place) (sp : Span) (a : Nat) (bs : List Byte) : List (Nat × List Byte) × Option (Nat × List Byte) :=
  let lo := max a sp.lo
  let hi := min (a + bs.length) (sp.lo + sp.len)
  if pl = sp.place ∧ lo < hi then
    (([(a, bs.take (lo - a)), (hi, bs.drop (hi - a))] : List (Nat × List Byte)).filter fun r => !r.2.isEmpty,
     some (lo, (bs.drop (lo - a)).take (hi - lo)))
  else ([(a, bs)], none)

/-- What an instruction writes in a tier is noted in its entry, for a warm restart that abandons it (R271). -/
def noteDst (s : State) (c uid : Nat) (x : Span) : State :=
  match x.place with
  | .tier _ => if c < 128 then s.modEntry c uid fun e => { e with dst := e.dst ++ [x] } else s
  | _ => s

/-- The sluice class of what an instruction writes: XRECV's bytes are in its sender's (R328, R444). -/
def storeClass (s : State) (c uid : Nat) : Nat :=
  match s.entry? c uid with
  | some e => if e.unit = 5 ∧ getF e.op 63 56 = 0x77 then getF e.op 43 40 else s.classOf c e.unit uid
  | none => s.classOf c 0 uid

/-- One run stored for an instruction: bytes that a bound load has not read are held, the others are written. The
virtual address of a granule that cannot be merged is answered. -/
def storeRun (s : State) (c uid : Nat) (pl : Place) (a : Nat) (bs : List Byte) : State × Option Nat :=
  let init : List (Nat × List Byte) × List Held := ([(a, bs)], [])
  let cls := s.storeClass c uid
  let r := (s.boundSpans c uid).foldl (fun acc (b : Span × Nat × Nat) =>
    let cut := acc.1.map fun r => (cutRun pl b.1 r.1 r.2)
    (cut.flatMap (·.1),
     acc.2 ++ cut.filterMap fun x => x.2.map fun h =>
       (⟨pl, h.1, h.2, (b.2.1, b.2.2), (c, uid), none, [⟨pl, a, bs.length⟩], noIndex, 0⟩ : Held))) init
  let w := r.1.foldl (fun (acc : State × Option Nat) run =>
    let t := (acc.1.trafficAll cls [⟨pl, run.1, run.2.length⟩]).writePlace pl run.1 run.2
    (t.1, acc.2 <|> t.2)) (s.noteDst c uid ⟨pl, a, bs.length⟩, none)
  ({ w.1 with held := w.1.held ++ r.2 }, w.2)

/-- The spans of pieces. -/
def spansOf (l : List Piece) : List Span := l.map fun p => ⟨p.place, p.addr, p.len⟩

/-- A change to the held runs from index k of the list: those that a store has just added. -/
def modHeld (s : State) (k : Nat) (f : Held → Held) : State :=
  if s.held.length ≤ k then s else { s with held := s.held.take k ++ (s.held.drop k).map f }

/-- Held bytes of a piece given their virtual address and the spans of the whole store. -/
def nameHeld (s : State) (k : Nat) (p : Piece) (ext : List Span) : State :=
  s.modHeld k fun h =>
    { h with ext := ext, va := match p.place with
        | .tier _ => some (p.va + h.addr - p.addr)
        | _ => none }

/-- Held bytes given the destination extent of their instruction and the lane or list entry of the byte at address `lo`; lanes of `wide`
bytes follow one another (R85, R87). -/
def heldOf (s : State) (k : Nat) (ext : List Span) (index lo wide : Nat) : State :=
  s.modHeld k fun h => { h with ext := ext, index := BitVec.ofNat 32 (index + (if wide = 0 then 0 else (h.addr - lo) / wide)), wide := wide }

/-- Held bytes given the destination extent of their instruction alone. -/
def heldExt (s : State) (k : Nat) (ext : List Span) : State := s.modHeld k fun h => { h with ext := ext }

def storeFrom (s : State) (c uid : Nat) (ext : List Span) : List Piece → List Byte → State × Option Nat
  | [], _ => (s, none)
  | p :: t, bs =>
    let r := s.storeRun c uid p.place p.addr (bs.take p.len)
    let q := (r.1.nameHeld s.held.length p ext).storeFrom c uid ext t (bs.drop p.len)
    (q.1, (r.2.map fun a => p.va + a - p.addr) <|> q.2)

/-- Pieces stored in order from one list of bytes; the address (virtual, or the offset) of a merge that failed. -/
def storePieces (s : State) (c uid : Nat) (l : List Piece) (bs : List Byte) : State × Option Nat := s.storeFrom c uid (spansOf l) l bs

/-- Spans stored in order from one list of bytes, each with its virtual address, none in a cluster location; where a merge failed, the
address the fault record has (R87). `ext` is the whole destination. -/
def storeSpans (s : State) (c uid : Nat) (ext : List Span) : List (Span × Option Nat) → List Byte → State × Option (Option Nat)
  | [], _ => (s, none)
  | (x, v) :: t, bs =>
    let r := s.storeRun c uid x.place x.lo (bs.take x.len)
    let q := (r.1.modHeld s.held.length fun h => { h with ext := ext, va := v.map fun a => a + h.addr - x.lo }).storeSpans c uid ext t
      (bs.drop x.len)
    (q.1, (r.2.map fun a => v.map fun w => w + a - x.lo) <|> q.2)

/-- Has an instruction bytes still held? -/
def hasHeld (s : State) (c uid : Nat) : Bool := s.held.any fun h => decide (h.storer = (c, uid))

/-- An instruction whose bytes are partly held is not done until they are released (R77). -/
def waitHeld (s : State) (c uid : Nat) : State :=
  if s.hasHeld c uid then s.modEntry c uid fun e => { e with phase := if e.phase = .done then .held else e.phase } else s

/-- The partition's lowest-numbered participating logical core, with its STEP_END's record offset (R71). -/
def stepEndOf (s : State) (im : PartImg) (p : Nat) (step : Word) : Nat × Nat :=
  let ls := (s.coresOf p).map fun c => ((s.core c).logical, c)
  let lo := ls.foldl (fun (a : Nat × Nat) x => if x.1 < a.1 then x else a) (ls.headD (0, 0))
  (lo.2, (((im.recsOf step lo.1).getLast?).map (·.off)).getD 0)

/-- The gauge record of the step in progress cannot be written for the granule at a virtual address: the partition halts, and the
record is undefined (R71). -/
def gaugeFault (s : State) (im : PartImg) (p : Nat) (ext : List Span) (a : Nat) : State :=
  let lo := s.stepEndOf im p (s.part p).step
  let g := a / 64 * 64
  let r : FaultRec := ⟨BitVec.ofNat 32 lo.2, 8, 0, BitVec.ofNat 8 lo.1, (s.part p).step,
    BitVec.ofNat 32 ((max g im.gaugeRecord - im.gaugeRecord) / 32), BitVec.ofNat 64 g, true, true⟩
  peerFaults 64 ((s.scrambleAll ext).haltOne p r) [p]

/-! ### Copies at work (R258, R267) -/

/-- A copy leaves the engine. -/
def copyGone (s : State) (c uid : Nat) : State :=
  s.modCl (c / 16) fun k => { k with copyRun := k.copyRun.filter fun j => !(j.core == c && j.uid == uid) }

/-- A copy runs: its bytes reach their destination, or it faults and leaves the engine. A destination in a cluster location has no
address in the fault record (R87). -/
def runCopy (s : State) (j : CopyJob) : State :=
  let s := s.modCl (j.core / 16) fun k =>
    { k with copyRun := k.copyRun.map fun x => if x.core = j.core ∧ x.uid = j.uid then { x with started := true } else x }
  let r := s.storeSpans j.core j.uid j.dst (j.dst.zip (j.vas.map fun v => if j.virt then some v else none)) j.data
  match r.2, s.entry? j.core j.uid with
  | some a, some e => ((r.1.scrambleAll j.dst).copyGone j.core j.uid).fault j.core e 8 noIndex a
  | _, _ => (r.1.setPhase j.core j.uid .done).waitHeld j.core j.uid

/-- The taken copies of a cluster that may start: those before any G24 copy, and a G24 copy that is alone (R267). -/
def startCopies : Nat → State → Nat → State
  | 0, s, _ => s
  | fuel + 1, s, cl =>
    let run := (s.cl cl).copyRun
    let before := run.takeWhile fun j => !j.g24
    match before.find? fun j => !j.started with
    | some j => startCopies fuel (s.runCopy j) cl
    | none => s

/-- A copy has ended: those it held back start. -/
def copyDone (s : State) (c uid : Nat) : State :=
  let cl := c / 16
  if (s.cl cl).copyRun.any fun j => j.core == c && j.uid == uid then startCopies 4 (s.copyGone c uid) cl else s

/-- One held run that its load has read goes on to its place, where another bound load may hold it; a granule that cannot be merged
faults the writer, whose whole destination is undefined then (R77, R85, R324). A writer that has faulted writes nothing more. -/
def releaseOne (s : State) (h : Held) : State :=
  let k := s.held.length
  let at' := fun (a : Nat) => h.index + BitVec.ofNat 32 (if h.wide = 0 then 0 else (max a h.addr - h.addr) / h.wide)
  let r := s.storeRun h.storer.1 h.storer.2 h.place h.addr h.data
  let t := r.1.modHeld k fun x =>
    { x with va := h.va.map fun v => v + x.addr - h.addr, ext := h.ext, index := at' x.addr, wide := h.wide }
  if ((s.entry? h.storer.1 h.storer.2).map (·.phase)) = some .faulted then s
  else if h.storer.1 = 128 then
    match r.2, (s.part h.storer.2).img with
    | some a, some im => t.gaugeFault im h.storer.2 h.ext (h.va.getD 0 + a - h.addr)
    | _, _ => t
  else match r.2, t.entry? h.storer.1 h.storer.2 with
  | some a, some e =>
    ((t.scrambleAll h.ext).fault h.storer.1 e 8 (at' a) (h.va.map fun v => v + a - h.addr)).copyDone h.storer.1 h.storer.2
  | _, _ => t

/-- The held bytes that satisfy p are written, in order; writers that waited only for them are done. -/
def releaseHeld (s : State) (p : Held → Bool) : State :=
  let go := s.held.filter p
  let s := go.foldl releaseOne { s with held := s.held.filter fun h => !p h }
  go.foldl (fun t h => if t.hasHeld h.storer.1 h.storer.2 then t else
    t.modEntry h.storer.1 h.storer.2 fun e => { e with phase := if e.phase = .held then .done else e.phase }) s

/-- The load has read all its bytes: its bound spans go and the writes behind them are released. -/
def releaseLoad (s : State) (c uid : Nat) : State :=
  (s.modEntry c uid fun e => { e with bound := [] }).releaseHeld fun h => decide (h.loader = (c, uid))

/-- A destination left undefined after a fault during an access (R85). -/
def scramblePieces (s : State) (l : List Piece) : State := s.scrambleAll (spansOf l)

end State

/-- The bytes of a read with poison delivered in a format (R45): each element with a byte of a failed granule reads as
the format's poison pattern. `unit` is the element's bytes; for MXFP4 planes every byte reads 0xFF. -/
def deliver (fmt : Nat) (bs : List (Option Byte)) : List Byte :=
  let w := if fmt = 5 then 1 else max 1 (fmtWidth fmt / 8)
  let pat := if fmt = 5 then 0xFF else poisonBits fmt
  (chunksOf w bs).flatMap fun el =>
    if el.all Option.isSome then el.map fun b => b.getD 0 else (leBytes w pat).take el.length

def Rd.poisoned (r : Rd) : Bool := r.bytes.any Option.isNone

/-- The offset of the first byte whose granule's check failed. -/
def Rd.failedAt (r : Rd) : Option Nat := r.bytes.findIdx? Option.isNone

/-- The virtual address (or offset) of byte i of a run of pieces. -/
def vaAt : List Piece → Nat → Nat
  | [], _ => 0
  | p :: t, i => if i < p.len then p.va + i else vaAt t (i - p.len)

/-- A read of pieces under an element format: an integer format has no poison pattern, so a failed class-D check there is
an uncorrectable read, and its granule is not delivered (R44, R45). -/
def Rd.inFormat (r : Rd) (fmt : Nat) (ps : List Piece) : Rd :=
  if fmtIsInt fmt then { r with bad := r.bad <|> r.failedAt.map (vaAt ps) } else r

end Sys2Proof.Machine
end

