-- ==== Sys2Proof/Machine/Restart.lean ====
section
/-! DEFINITION. Placement after a retirement (R123, R124), the power domains the keeper switches (R32, R302, R303), the warm restart
of a cluster and the retirement of a block (R527, R528), and what a command comes to where it met a bank that is held or an array
that failed (R304, R335, R336). -/

namespace Sys2Proof.Machine

/-! ### What resets clear -/

/-- The registers of a core that a commit placing a core there, a warm restart or a wake clears. -/
def coreFlagRegs (c : Nat) : List (RegId × List Nat) :=
  let ix := cix c
  [(.meaStatus, ix), (.meaFlags, ix), (.vecStatus, ix ++ [0]), (.vecStatus, ix ++ [1]), (.vecFlags, ix ++ [0]), (.vecFlags, ix ++ [1]), (.sfuFlags, ix), (.rsFlags, ix), (.gsRange, ix),
   (.gsFlags, ix), (.pmcOvf, ix), (.pmcSstat, ix)] ++ (List.range 8).map fun j => (.pmcCnt, ix ++ [j])

/-- The registers of a core that a warm restart or a wake leaves at their reset values (R17). MEA_REPAIR keeps what its fuses gave
(R160), and PMC_SEL and PMC_SAMPLE are set to zero at power-up only (R542). -/
def coreRegs (c : Nat) : List (RegId × List Nat) := (.sfuFallback, cix c) :: coreFlagRegs c

/-- The registers of a cluster common that a warm restart leaves at their reset values (R17). VAT_OWNER and POOL_OWNER keep theirs
(R528), and so do VAT_ECC and COLL_ERR, of which the spec names the wake alone (DESIGN CHOICE, log 48). -/
def commonRegs (cl : Nat) : List (RegId × List Nat) :=
  [(.copyFlags, [cl]), (.confCtrl, [cl]), (.confRank, [cl]), (.confStat, [cl]), (.collWdog, [cl])]

/-- The registers of a cluster common that its wake leaves at their reset values (R17, R317, R396): all of them. -/
def wakeRegs (cl : Nat) : List (RegId × List Nat) :=
  commonRegs cl ++ [(.vatEcc, [cl]), (.collErr, [cl])] ++ (List.range 32).map (fun i => (.vatOwner, [cl, i])) ++
  (List.range 16).map fun b => (.poolOwner, [cl, b])

/-- Does a program of a partition's image issue INGEST in the cluster? -/
def PartImg.ingests (im : PartImg) (cl : Nat) : Bool := im.progs.any fun g => g.core / 16 == cl && g.recs.any fun r => r.unit == 8

/-- A slot's table waits for its reload (R232). -/
def awaitReload (x : Slot) : Slot := { x with shadow := none, state := if x.active.isSome then 3 else x.state, parity := [] }

/-- A core as the events of R133, R164 and R542 leave it; what the partition, the slots and the sample counts keep is
the caller's. -/
def coldCore (k : Core) : Core :=
  { Core.idle with part := k.part, logical := k.logical, nextUid := k.nextUid, slots := k.slots }

namespace State

def clearRegs (s : State) (l : List (RegId × List Nat)) : State := l.foldl (fun t r => t.setReg r.1 r.2 (resetOf r.1 r.2)) s

/-! ### Who holds what -/

/-- The logical core placed on a physical core. -/
def logicalAt (s : State) (c : Nat) : Option Nat := (s.place.find? fun q => q.2 == c).map (·.1)

/-- The partition whose image claims a logical core. -/
def claimant (s : State) (l : Nat) : Option Nat :=
  (List.range 16).find? fun p => match (s.part p).img with
    | none => false
    | some im => inMask im l

/-- The partition and logical core of a physical core. -/
def holderAt (s : State) (c : Nat) : Option (Nat × Nat) :=
  match s.logicalAt c with
  | none => none
  | some l => (s.claimant l).map fun p => (p, l)

/-- Is a block the target of a directed test that runs, and so busy to the keeper (R532)? -/
def testBusy (s : State) (b : Nat) : Bool := s.bist.target == b && !s.bist.todo.isEmpty

/-- The lowest surviving core of a cluster that no logical core has and no directed test runs on. -/
def freeCore (s : State) (cl : Nat) : Option Nat := (s.survivors cl).find? fun c => (s.logicalAt c).isNone && !s.testBusy c

/-- Partitions with a core in the cluster. -/
def partsIn (s : State) (cl : Nat) : List Nat :=
  (List.range 16).filter fun p => (s.coresOf p).any fun c => c / 16 == cl

/-- Does a program of a defined partition issue INGEST in the cluster? -/
def ingestUsed (s : State) (cl : Nat) : Bool :=
  (List.range 16).any fun p =>
    match (s.part p).img with
    | none => false
    | some im => s.pstate p != 0 && im.ingests cl

/-- Does a cluster restart? -/
def anyRestart (s : State) : Bool := s.clusters.any fun k => k.2.restarting

/-! ### Power domains (R32, R302, R303) -/

/-- A domain that is switched on is off no more; a retired block's stays off (R527). -/
def turnOn (s : State) (d : Nat) : State := { s with off := s.off.filter fun x => x != d }

/-- A core wakes: it is as after power-up, and its vats are cleared before their first access (R133, R164, R303). -/
def wakeCore (s : State) (c : Nat) : State :=
  if hasN s.off c then
    let s := ((s.turnOn c).modCore c fun k => { Core.idle with nextUid := k.nextUid }).clearRegs (coreRegs c)
    (List.range 2).foldl (fun (t : State) v => t.setRegF .vatOwner [c / 16, 2 * (c % 16) + v] 40 40 1) s
  else s

/-- A cluster common wakes: no wait history, its registers at their reset values, its banks cleared before their first access
(R303, R307, R317, R396). -/
def wakeCommon (s : State) (cl : Nat) : State :=
  if hasN s.off (128 + cl) then
    ((s.turnOn (128 + cl)).modCl cl fun k => { k with conf := [], confQ := [], ecc := [] }).clearRegs (wakeRegs cl)
  else s

/-- An ingest engine wakes (R426). -/
def wakeIngest (s : State) (cl : Nat) : State :=
  if hasN s.off (136 + cl) then (s.turnOn (136 + cl)).clearRegs [(.ingErr, [cl])] else s

/-- An HBM controller wakes: its stack is in the START state until its first report (R331, R340). -/
def wakeHbm (s : State) (k : Nat) : State :=
  if hasN s.off (144 + k) then
    let s := (s.turnOn (144 + k)).modStack k fun x => { x with sinceRise := 2, cool := 0 }
    ((s.setRegF .sluHeat [k] 35 35 0).setRegF .sluHeat [k] 39 36 15).setRegF .sluSummary [] (4 * k + 3) (4 * k) 15
  else s

def wakeHbms (s : State) : State := (List.range 8).foldl (fun (t : State) k => t.wakeHbm k) s

/-- A core is about to be used: it wakes, with its cluster's common and ingest engine and the HBM controllers (log 47). -/
def wakeFor (s : State) (c : Nat) : State := ((s.wakeHbms.wakeCommon (c / 16)).wakeIngest (c / 16)).wakeCore c

/-- May the keeper switch a domain off (R302)? A core: no partition claims its logical position, and its vats are its own. A common:
no partition holds a core in the cluster, and nothing is at work there. An ingest engine as its common; an HBM controller while no
partition is defined; a host Ethernet port while its link is down (DESIGN CHOICE, log 47). -/
def mayOff (s : State) (d : Nat) : Bool :=
  if d < 128 then
    (s.holderAt d).isNone && (s.core d).part.isNone &&
      (List.range 2).all fun v => s.regF .vatOwner [d / 16, 2 * (d % 16) + v] 4 0 == d % 16
  else if 152 ≤ d then s.regF .ethStatus [d - 152] 0 0 == 0
  else if 144 ≤ d then (List.range 16).all fun p => s.pstate p == 0
  else
    let k := s.cl (d % 8)
    (s.partsIn (d % 8)).isEmpty && !k.restarting && k.due.isEmpty && k.copyQ.isEmpty && k.copyRun.isEmpty && k.ingQ.isEmpty && k.coll.isEmpty

/-- The crossings whose self-timed side is in a domain (R513): a stack's four PHY groups, a host Ethernet MAC. -/
def domainXings (d : Nat) : Nat × Nat :=
  if 144 ≤ d ∧ d < 152 then (272 + 4 * (d - 144), 4) else if 152 ≤ d then (320 + (d - 152), 1) else (0, 0)

/-- The keeper's occasion to switch domains off: which of those that R302 lets it is free (DESIGN CHOICE, log 47). Their sides of crossings
give notice first (R517). -/
def switchOffs (s : State) : State :=
  let new := (List.range 154).filter fun d => !hasN s.off d && !s.blockRetired d && s.mayOff d && Config.switchesOff d s.fresh
  let t := new.foldl (fun (t : State) d => t.offNotice (domainXings d).1 (domainXings d).2) s
  { t with off := (List.range 154).filter (fun d => hasN s.off d || hasN new d), fresh := t.fresh + 1 }

/-! ### Placement after a retirement (R123, R124) -/

/-- Reduced capacity is reported (R119, R123, R589). -/
def reportReduced (s : State) : State :=
  let t := { s with keeper := { s.keeper with reduced := true } }
  t.record 3 0x0003 none 0xFFFF none none (beBytes 8 t.capacityReg)

/-- A vat or bank that no partition holds any more. -/
def dropBank (s : State) (id : RegId) (ix : List Nat) (owner : Nat) : State :=
  if s.regF id ix 43 43 = 1 then s.setReg id ix (BitVec.ofNat 64 (2 ^ 40 + 0x1F * 2 ^ 32 + owner)) else s

/-- MIN_CORES in force. -/
def minCores (s : State) : List Nat := (s.hdr.map (·.minCores)).getD []

/-- The clusters, as R118's DETAIL, in which no image with these MIN_CORES and these users of ingest engines can stand: too few survivors, a retired
common, or a retired ingest engine that a program uses (R119, R123, R527). -/
def standBad (s : State) (minCores : List Nat) (uses : Nat → Bool) : List Nat :=
  (List.range 8).filterMap fun cl =>
    if (s.survivors cl).length < minCores.getD cl 0 ∨ s.commonRetired cl = true ∨ (s.ingestRetired cl && uses cl) = true then some (0x30 + cl) else none

/-- The PMC selections of a core, which follow its logical core (R542). -/
def selRegs (c : Nat) : List (RegId × List Nat) := (.pmcSample, cix c) :: (List.range 8).map fun j => (.pmcSel, cix c ++ [j])

/-- A vat or bank that core `old` owns is owned by core `new`. -/
def moveOwner (s : State) (id : RegId) (ix : List Nat) (old new : Nat) : State :=
  if s.regF id ix 4 0 = old % 16 ∧ s.regF id ix 43 43 = 1 then s.setRegF id ix 4 0 (new % 16) else s

/-- The partition's core on a retired core moves to another with what follows its logical core (R123, R232, R542). A vat of the new
core keeps its own clear (R303). -/
def moveHeld (s : State) (l old new : Nat) : State :=
  let cl := l / 16
  let k := s.core old
  let nk : Core := { Core.idle with part := k.part, logical := l, halted := true, nextUid := max k.nextUid (s.core new).nextUid,
                                    slots := k.slots.map fun p => (p.1, awaitReload p.2) }
  let s := (s.setCore new nk).setCore old { Core.idle with nextUid := k.nextUid }
  let s := (List.range 2).foldl (fun (t : State) v =>
    let there := [cl, 2 * (new % 16) + v]
    let w := setF (t.reg .vatOwner [cl, 2 * (old % 16) + v]) 40 40 (t.regF .vatOwner there 40 40)
    (t.setReg .vatOwner there w).dropBank .vatOwner [cl, 2 * (old % 16) + v] (old % 16)) s
  let s := (List.range 32).foldl (fun (t : State) i => t.moveOwner .vatOwner [cl, i] old new) s
  (List.range 16).foldl (fun (t : State) b => t.moveOwner .poolOwner [cl, b] old new) s

/-- The counters' selections follow a logical core, and its counts start from zero (R542). -/
def moveSel (s : State) (old new : Nat) : State :=
  let s := s.clearRegs (coreRegs new)
  (((selRegs old).zip (selRegs new)).foldl (fun (t : State) q => t.setReg q.2.1 q.2.2 (t.reg q.1.1 q.1.2)) s).setRegF .pmcSstat (cix new) 48 48 1

/-- Logical core l, claimed by a partition or not, moves from its retired core to another. -/
def moveCore (s : State) (l old new : Nat) : State :=
  let s := if (s.core old).part.isSome then (s.wakeFor new).moveHeld l old new else s
  { s.moveSel old new with place := s.place.set l new }

/-- Every logical core on a retired core moves to the lowest unused survivor, but for those that `skip` picks. -/
def moveCores (s : State) (skip : Nat → Bool) : State :=
  (s.place.filter fun q => s.coreRetired q.2 && !skip q.1).foldl (fun (t : State) q =>
    match t.freeCore (q.1 / 16) with
    | some c => t.moveCore q.1 q.2 c
    | none => t) s

/-- The load that waits for a warm restart (R124). -/
def waitingLoad (s : State) : Option Load := s.load.filter fun _ => s.regF .keepImgStatus [] 55 52 == 4

/-- The targets and partitions of the image of the load that waits. -/
def waitingTargets (s : State) : List Nat := (s.waitingLoad.map (·.targets)).getD []
def waitingImage (s : State) : Option Image := s.waitingLoad.bind (·.image)

/-- Is a logical core that of a target of the load that waits? -/
def waitingCore (s : State) (l : Nat) : Bool :=
  (s.claimant l).any (fun p => hasN s.waitingTargets p) || s.waitingImage.any fun i => i.parts.any fun q => inMask q.2 l

/-- The image is refused for every partition, the targets of a waiting load apart, their state left as it is (R123, R124). -/
def refuseRunning (s : State) (detail : Nat) : State :=
  let ts := s.waitingTargets
  let s := (s.setRegF .keepImgStatus [] 63 56 0x0E).setRegF .keepImgStatus [] 31 0 detail
  let s := { s with load := s.load.map fun l => { l with oldBuild := l.oldBuild.filter fun q => hasN ts q.1 } }
  (((List.range 16).filter fun p => !hasN ts p).foldl (fun (t : State) p => t.setReg .keepPartBuild [p] 0) s).reportReduced

/-- The running image's cores placed again, or the image refused (R123). A load that waits for a restart places its own targets
(R124), which are all there are where it is a full one. Where no image is loaded, a common that has retired leaves the report of reduced
capacity (R527). -/
def placeAgain (s : State) : State :=
  if s.waitingImage.any fun i => i.scopePart.isNone then s
  else match (s.standBad s.minCores s.ingestUsed).min? with
  | none => s.moveCores s.waitingCore
  | some d => if s.hdr.isNone then s.reportReduced else s.refuseRunning d

/-! ### Warm restart (R528) -/

/-- A core reset by a warm restart of its cluster. -/
def restartCore (s : State) (c : Nat) : State :=
  (s.modCore c fun k => { coldCore k with halted := true, slots := k.slots.map fun p => (p.1, awaitReload p.2) }).clearRegs (coreRegs c)

/-- A pending hand-over is abandoned; the old owner stays (R301). -/
def dropHandover (s : State) (id : RegId) (ix : List Nat) : State :=
  (s.setRegF id ix 39 39 0).setRegF id ix 36 32 0x1F

/-- The storer of the undefined bytes that an abandoned write leaves: no core. -/
def nobody : Nat × Nat := (200, serviceClass)

/-- Destinations left undefined, but for bytes that a load still at work has bound (R76): those become undefined behind it. -/
def abandon (s : State) (l : List Span) : State :=
  let t := l.foldl (fun (t : State) x =>
    let y := t.mergeable x
    ({ t with fresh := t.fresh + 1 }.storeRun nobody.1 nobody.2 y.place y.lo ((List.range y.len).map fun i => Config.freeByte t.fresh i)).1) s
  { t with stalled := s.stalled }

/-- The destinations of what the cluster common has at work. -/
def commonDst (s : State) (cl : Nat) : List Span :=
  let k := s.cl cl
  (k.copyQ ++ k.copyRun).flatMap (·.dst) ++ k.ingQ.flatMap (·.dst) ++ k.coll.flatMap fun i => i.nodes.flatMap (·.dst)

/-- The cluster common reset: running and queued copies, INGESTs and collective instances are abandoned (R285, R392, R420), hand-overs
too (R301), no Confluence wait history is left (R307), and vats and pool banks are undefined. -/
def restartCommon (s : State) (cl : Nat) : State :=
  let s := (List.range 32).foldl (fun (t : State) i => (t.dropHandover .vatOwner [cl, i]).scramble (.vat (32 * cl + i)) 0 2097152) s
  let s := (List.range 16).foldl (fun (t : State) b => (t.dropHandover .poolOwner [cl, b]).scramble (.pool (16 * cl + b)) 0 1048576) s
  let s := s.clearRegs (commonRegs cl)
  let s := s.endWaits fun k => k == 128 + cl || k == 200 + cl
  s.modCl cl fun k => { k with copyQ := [], copyRun := [], ingQ := [], coll := [], due := [], restarting := true, conf := [], confQ := [] }

/-- A load and resets in progress wait for a warm restart that begins, and what they have placed is placed again (R124). -/
def loadWaits (s : State) : State :=
  let t := { s with load := s.load.map fun l => { l with placed := false }, resets := s.resets.map fun r => { r with placed := false } }
  if s.load.isSome then t.setRegF .keepImgStatus [] 55 52 4 else t

/-- Is a load that of a running export (R446)? -/
def exporting (s : State) (loader : Nat × Nat) : Bool := s.ferries.any fun f => decide ((f.core, f.uid) = loader)

/-- The cores of a cluster reset, with what they had written or had at work in a tier left undefined (R271, R285). Writes that they
held end; those held behind their loads go on, an export's alone excepted (R446). -/
def restartCores (s : State) (cl : Nat) : State :=
  let mine := fun (c : Nat) => decide (c / 16 = cl ∧ c < 128)
  let dst := (s.commonDst cl ++ (List.range 16).flatMap fun k => (s.core (16 * cl + k)).window.flatMap (·.dst)).filter fun x =>
    match x.place with
    | .tier _ => true
    | _ => false
  let s := { s with held := s.held.filter fun h => !mine h.storer.1 }
  let s := (List.range 16).foldl (fun (t : State) k => t.restartCore (16 * cl + k)) s
  { (s.abandon dst).releaseHeld fun h => mine h.loader.1 && !s.exporting h.loader with stalled := s.stalled }

/-- Every partition of a list that runs halts, and its halt is complete: its cores fire nothing more. -/
def stopParts (s : State) (ps : List Nat) (index : Word) : State := ps.foldl (fun (t : State) p => t.haltNow p) (s.haltParts ps index)

/-- Warm restart of cluster cl, steps 1 to 4 of R528: its partitions halt, its crossings get notice, the retirement entry is written, its
cores and its common are reset (step 5 is WARM_RESTART_END). A cluster that restarts already takes the entry alone (R533). -/
def warmRestart (s : State) (cl : Nat) (entry : Retire) : State :=
  if (s.cl cl).restarting then s.addRetire entry
  else
    let s := ((s.stopParts (s.partsIn cl) 0xFFFFFFFF#32).clusterNotice cl).addRetire entry
    ((s.restartCores cl).restartCommon cl).loadWaits

/-! ### Retirement of a block (R527) -/

/-- A block is retired: its entry and register bit, and the warm restart of its cluster where it is in use, or R123 at once. -/
def retireBlock (s : State) (block source slice : Nat) : State :=
  if s.blockRetired block then s
  else if block < 128 then
    let e : Retire := ⟨0, source, block / 16, block % 16, 0, slice, s.hours⟩
    if (s.core block).part.isSome then s.warmRestart (block / 16) e
    else if s.hdr.isSome then (s.addRetire e).placeAgain else s.addRetire e
  else if block < 136 then s.warmRestart (block - 128) ⟨1, source, block - 128, 0, 0, slice, s.hours⟩
  else
    let e : Retire := ⟨2, source, block - 136, 0, 0, slice, s.hours⟩
    if s.ingestUsed (block - 136) then s.warmRestart (block - 136) e else s.addRetire e

/-- What a command that led from s to t comes to. Where it met a bank that is held, it waits: nothing has happened yet (R335, R336,
R338). Otherwise the blocks whose arrays it found failing are retired (R304, R527, log 45). -/
def settle (s t : State) : State :=
  if t.stalled && !s.stalled then s
  else if t.failing = s.failing then t else t.failing.foldl (fun u b => u.retireBlock b 4 0xFF) { t with failing := [] }

end State

end Sys2Proof.Machine
end

