-- ==== Sys2Proof/Machine/Firing.lean ====
section
/-! DEFINITION. The firing window and the control instructions (R64-R75, R106-R111, R167, R611). -/

namespace Sys2Proof.Machine

/-! ### Settings bound at window entry (R161, R164, R166, R167, R169) -/

def vlmaxN (v : BitVec 2) : Nat := if v = 0 then 256 else if v = 1 then 512 else 1024

/-- The iteration index of the innermost enclosing loop, 0 outside any. -/
def innerIter (iters : List Nat) : Nat := iters.getLast?.getD 0

/-- The settings after a setting instruction, in program order. -/
def applySetting (im : PartImg) (cur : VSet) (opcode : Nat) (op : Long) (uid : Nat) (iters : List Nat) : VSet :=
  match opcode with
  | 0x01 =>
    let form := getF op 55 54
    let n := getF op 50 40
    let len : VLen :=
      match form with
      | 0 => .known n
      | 1 => .known (min n (getF op 23 0 - innerIter iters * n))
      | _ => .token uid
    { cur with vlmax := BitVec.ofNat 2 (getF op 53 52), vlen := len, behind := if 2 ≤ form then some uid else cur.behind }
  | 0x02 => { cur with tensor := getF op 0 0 == 1 }
  | 0x03 =>
    let d := im.descs.getD (getF op 11 0) 0
    { cur with tensorId := BitVec.ofNat 32 (dF d 4 4), flatBase := BitVec.ofNat 40 (dF d 8 5), flatStep := BitVec.ofNat 24 (dF d 13 3) }
  | _ => cur

/-- The settings at the start of a step program (R164): zero, and the profile of VECTOR_PROFILES (R105): Tensor where any of an engine's
entries says so (DESIGN CHOICE, log 50). -/
def startSetting (im : PartImg) (lcore engine : Nat) : VSet :=
  { VSet.zero with tensor := im.profiles.any fun q => q.1 == lcore && q.2.1 == engine && q.2.2 == 1 }

def vecOf (k : Core) (e : Nat) : Vec := if e = 0 then k.v0 else k.v1
def setVec (k : Core) (e : Nat) (v : Vec) : Core := if e = 0 then { k with v0 := v } else { k with v1 := v }

/-! ### Window entry (R67, R72-R75) -/

/-- Is the work charged at firing, so that it waits for the Weir (R482)? Collective and ingest work is charged message by
message and picture by picture. -/
def chargedAtFire (unit opcode : Nat) : Bool :=
  match unit with
  | 1 => true
  | 2 => !hasN [1, 2, 3] opcode
  | 3 => !hasN [1, 2, 3] opcode
  | 4 => true
  | 5 => !hasN [0x40, 0x68, 0x69, 0x74, 0x77] opcode
  | 6 => true
  | _ => false

/-- Past the ends of loops: the next iteration, or out of the loop. -/
def closeLoops : Nat → Nat → List LoopFrame → Nat × List LoopFrame
  | 0, i, nest => (i, nest)
  | fuel + 1, i, nest =>
    match nest.getLast? with
    | none => (i, nest)
    | some f =>
      if f.stop ≠ i then (i, nest)
      else if f.iter + 1 < f.trips then (f.first, nest.dropLast ++ [{ f with iter := f.iter + 1 }])
      else closeLoops fuel i nest.dropLast

/-- The fetch position at record i. -/
def moveTo (f : Fetch) (i : Nat) (nest : List LoopFrame) : Fetch :=
  let r := closeLoops 8 i nest
  { f with recIx := r.1, nest := r.2, blocked := false }

/-- The place of the RENNET_PROGRAM section that a logical core's program slot takes its program from. Of two that name one slot the last in
directory order stands: the spec neither refuses the second nor says which of them does (DESIGN CHOICE, log 50). -/
def PartImg.rennetOf (im : PartImg) (lcore pslot : Nat) : Option Nat :=
  (List.range im.rennets.length).reverse.find? fun j => (im.rennets[j]?).any fun r => r.core == lcore && r.pslot == pslot

/-- The table slots that a special-function word reads (R221, R228). -/
def slotsRead (im : PartImg) (lcore opcode : Nat) (op : Long) : List Nat :=
  let s1 := getF op 45 42
  match opcode with
  | 0x60 => [s1]
  | 0x61 => if getF op 37 37 = 1 then [s1] else [s1, getF op 41 38]
  | 0x62 =>
    match (im.rennetOf lcore s1).bind fun j => im.rennets[j]? with
    | some r => (r.steps.filter fun st => st.op == 2).map fun st => st.arg % 16
    | none => []
  | _ => [s1]

/-- The record enters the window with what it is bound to (R167, R229). -/
def enterRec (im : PartImg) (k : Core) (f : Fetch) (r : Rec) : Core :=
  let iters := f.nest.map (·.iter)
  let uid := k.nextUid
  let oc := r.opcode
  let eng := if r.unit = 2 then 0 else if r.unit = 3 then 1 else getF r.op 54 54
  let cur := (vecOf k eng).cur
  let isVec := r.unit == 2 || r.unit == 3
  let slot := getF r.op 45 42
  let genOf := fun (gs : FMap Nat) (i : Nat) => gs.get ((k.slots.get Slot.empty i).gen.toNat) i
  let gens := if r.unit = 4 ∧ oc = 0x64 then f.gens.set slot ((genOf f.gens slot + 1) % 65536) else f.gens
  let bound : FMap Nat := if r.unit = 4 then (slotsRead im k.logical oc r.op).foldl (fun m i => m.set i (genOf gens i)) [] else []
  let e : Entry :=
    { uid := uid, step := f.step, recIx := f.recIx, iters := iters, unit := r.unit, op := r.op, wait := r.wait,
      produce := r.produce, ext := r.ext, off := r.off, vset := if isVec || r.unit == 4 then cur else VSet.zero, gens := bound,
      phase := .waiting, admitted := !chargedAtFire r.unit oc, paid := 0, chunk := 0, chunks := 0, carry := [], value := 0,
      bound := [], dst := [], first := none, fallback := false, sampled := false, fireTick := 0 }
  let k := { k with window := k.window ++ [e], nextUid := uid + 1 }
  let k := if isVec then setVec k eng { vecOf k eng with cur := applySetting im cur oc r.op uid iters } else k
  let f := { f with gens := gens }
  if r.unit = 0 ∧ oc = 1 then
    let f' : Fetch := { f with step := f.step + 1, recIx := 0, nest := [], blocked := false }
    let k := setVec k 0 { k.v0 with cur := startSetting im k.logical 0 }
    let k := setVec k 1 { k.v1 with cur := startSetting im k.logical 1 }
    { k with fetch := some f' }
  else if r.isLoop || r.isPred then { k with fetch := some { f with blocked := true } }
  else { k with fetch := some (moveTo f (f.recIx + 1) f.nest) }

/-- WINDOW_ENTRY: the next record in program order takes a free entry of the 384 (R67). -/
def State.windowEntry (s : State) (c : Nat) : State :=
  let k := s.core c
  match s.imgOf c, k.fetch with
  | some im, some f =>
    if s.mayFire c && !f.blocked && decide (k.window.length < 384) then
      match (im.recsOf f.step k.logical)[f.recIx]? with
      | some r => s.setCore c (enterRec im k f r)
      | none => s
    else s
  | _, _ => s

def execWindowEntry (c : CoreId) (s : State) : Out := .next (s.windowEntry c)

/-! ### Completion and tokens -/

/-- TOKEN_ROUTE_ARRIVAL: one produced instance arrives at one destination of its route under DEST_ID (R65, R110). -/
def State.tokenRouteArrival (s : State) (p route dest : Nat) (step : Word) (iters : List Nat) : State :=
  match (s.part p).img with
  | none => s
  | some im =>
    match im.routes[route]? with
    | none => s
    | some r =>
      match r.dests[dest]?, s.physOf r.src with
      | some l, some src =>
        let kind := if r.kind = 2 then TokKind.bind else TokKind.done
        match s.physOf l, s.tokenAt src kind r.id step iters with
        | some c, some v =>
          if r.program = im.programOf step ∧ s.tokenAt c kind r.destId step iters = none then
            s.addTok c ⟨kind, r.destId, step, iters, v⟩
          else s
        | _, _ => s
      | _, _ => s

def execTokenRouteArrival (p : PartId) (route dest : Nat) (step : Word) (iters : List Nat) (s : State) : Out :=
  .next (s.tokenRouteArrival p route dest step iters)

/-! ### Control instructions -/

/-- STEP_END completes after every earlier instruction of its step that entered, and its core's contribution goes to the
collector (R71). -/
def State.stepEnd (s : State) (c : Nat) : State :=
  match (s.core c).part with
  | none => s
  | some p =>
    s.fireOp c 0 0x01 (fun e => e.opcode == 0x01 && (s.core c).window.all fun x => decide (e.uid ≤ x.uid) || x.step != e.step)
      fun t e => (t.complete c e).modPart p fun x =>
        { x with contrib := x.contrib.set e.step.toNat (x.contrib.get [] e.step.toNat ++ [c]) }

/-- Which control entry fires: STEP_END only when alone in its step. -/
def execStepEnd (c : CoreId) (s : State) : Out := .next (s.stepEnd c)

/-- TJOIN produces its data token when every wait is met (R65). -/
def execTjoin (c : CoreId) (s : State) : Out :=
  .next (s.fireOp c 0 0x02 (fun e => e.opcode == 0x02) fun t e => t.complete c e)

/-- The header's resolution is kept for waits on the records it governs (R611). -/
def State.resolve (s : State) (c : Nat) (e : Entry) (n : Nat) : State :=
  s.modCore c fun k => { k with resolved := k.resolved ++ [⟨e.step, e.recIx, e.iters, n⟩] }

def State.modFetch (s : State) (c : Nat) (f : Fetch → Fetch) : State :=
  s.modCore c fun k => { k with fetch := k.fetch.map f }

/-- PRED resolves on its scalar token: zero skips the block, any other value lets it enter (R74). -/
def State.firePred (s : State) (c : Nat) (e : Entry) : State :=
  let len := getF e.op 11 0 + 1
  let v := s.scalarOf c e
  let t := (s.complete c e).resolve c e (if v = 0 then 0 else 1)
  t.modFetch c fun f => moveTo f (if v = 0 then e.recIx + 1 + len else e.recIx + 1) f.nest

def execPred (c : CoreId) (s : State) : Out :=
  .next (s.fireOp c 0 0x03 (fun e => e.opcode == 0x03) fun t e => t.firePred c e)

/-- The trip count of a LOOP entry: the constant of EXT, or the scalar of wait entry 0 (R75, R109). -/
def State.tripsOf (s : State) (c : Nat) (e : Entry) : Nat :=
  if getF e.op 31 31 = 1 then (s.scalarOf c e).toNat else if getF e.op 30 30 = 1 then 0 else e.ext + 1

/-- LOOP: zero trips skip the body, more than the declared maximum fault with LOOP_COUNT, and otherwise the first
iteration may enter (R75). The fault's INDEX names no iteration: none of this loop has begun (DEDUCED, log 50). -/
def State.fireLoop (s : State) (c : Nat) (e : Entry) : State :=
  let len := getF e.op 15 0 + 1
  let n := s.tripsOf c e
  if getF e.op 55 32 + 1 < n then s.fault c e 9 noIndex none
  else
    let t := (s.complete c e).resolve c e n
    t.modFetch c fun f =>
      if n = 0 then moveTo f (e.recIx + 1 + len) f.nest
      else { f with recIx := e.recIx + 1, blocked := false, nest := f.nest ++ [⟨e.recIx, e.recIx + 1, e.recIx + 1 + len, 0, n⟩] }

def execLoop (c : CoreId) (s : State) : Out :=
  .next (s.fireOp c 0 0x04 (fun e => e.opcode == 0x04) fun t e => t.fireLoop c e)

/-! ### Halts -/

/-- HALT_NOTICE_RECEIPT: the core fires nothing more; the last core's ends the halt (R84). -/
def State.haltNotice (s : State) (c : Nat) : State :=
  match (s.core c).part with
  | none => s
  | some p => if (s.part p).halting && !(s.core c).halted then (s.modCore c stopCore).haltDone p else s

def execHaltNoticeReceipt (c : CoreId) (s : State) : Out := .next (s.haltNotice c)

/-! ### The step barrier (R71) -/

/-- Has every core of the partition contributed to step n? -/
def State.allContributed (s : State) (p : Nat) (step : Word) : Bool :=
  let cs := s.coresOf p
  !cs.isEmpty && cs.all fun c => hasN ((s.part p).contrib.get [] step.toNat) c

/-- The 32 bytes of one gauge slot in the record (R62). -/
def gaugeSlotBytes (g : Gauge) (step : Word) (tensor : Word) : List Byte :=
  leBytes 4 g.nonfin ++ leBytes 4 g.ovf ++ leBytes 4 g.unf ++ leBytes 4 g.sub ++ leBytes 4 step.toNat ++ leBytes 4 tensor.toNat ++ fill 8 0

/-- The gauge record of a step (R62). Where two GAUGE_MAP entries give one slot to two tensors, the slot counts both and shows the id of the
first entry (DESIGN CHOICE, log 50). -/
def gaugeRecordBytes (im : PartImg) (gs : FMap Gauge) (step : Word) : List Byte :=
  (List.range im.gaugeSlots).flatMap fun i =>
    gaugeSlotBytes (gs.get Gauge.zero i) step (((im.gaugeMap.find? fun g => g.1 == i).map (·.2)).getD 0)

/-- BARRIER_COLLECT: every contribution of the step has come, and the gauge record is written (R61-R63, R71). A load
that still reads the record's bytes holds the write, by R77's rule, under the storer (128, p). -/
def State.barrierCollect (s : State) (p : Nat) : State :=
  let x := s.part p
  match x.img with
  | none => s
  | some im =>
    if s.isRunning p && s.allContributed p x.step && !(x.collected.any fun w => w == x.step) then
      let gs := x.gauges.get [] x.step.toNat
      let bs := gaugeRecordBytes im gs x.step
      let ps := piecesOf im.pages 1 im.gaugeRecord bs.length
      let r := s.storePieces 128 p ps bs
      match r.2 with
      | some a => r.1.gaugeFault im p (State.spansOf ps) a
      | none =>
        r.1.modPart p fun y => { y with collected := [x.step], lastGauge := gs, gauges := y.gauges.erase x.step.toNat }
    else s

def execBarrierCollect (p : PartId) (s : State) : Out := .next (s.settle (s.barrierCollect p))

end Sys2Proof.Machine
end

