-- ==== Sys2Proof/Machine/Matrix.lean ====
section
/-! DEFINITION. The matrix array: tiles, passes with their accumulation, and converting stores (R128-R156). -/

namespace Sys2Proof.Machine

/-! ### Shapes (R128, R129) -/

/-- Resident rows of a shape. -/
def shapeR : Nat → Nat
  | 0 => 128
  | 1 => 32
  | _ => 8

/-- Width class of a format: 16, 8 or 4 bits. -/
def widthClass (fmt : Nat) : Nat := if fmt = 5 then 4 else if fmt = 1 ∨ fmt = 2 then 16 else 8

/-- Contraction depth of a shape in a width class. -/
def shapeD (shape fmt : Nat) : Nat := 8192 / shapeR shape * (16 / widthClass fmt)

/-- The bytes of a row or weight vector of D elements. -/
def rowBytes (fmt d : Nat) : Nat := d * widthClass fmt / 8

/-- The elements of packed bytes (R43 for MXFP4: the even element in the low nibble). -/
def elemsOf (fmt : Nat) (bs : List Byte) : List Nat :=
  if fmt = 5 then bs.flatMap fun b => [b.toNat % 16, b.toNat / 16]
  else (chunksOf (fmtWidth fmt / 8) bs).map fromLE

/-- The values of a row of elements with its scale bytes (R42). -/
def rowVals (fmt : Nat) (els : List Nat) (scales : List Byte) : List FVal :=
  if fmt = 5 then
    ((chunksOf 32 els).zip scales).flatMap fun bs =>
      let allF := bs.1.all fun e => e == 15
      bs.1.map fun e => mxVal bs.2.toNat allF e
  else els.map (decodeVal fmt)

/-! ### Accumulation (R145-R148) -/

/-- The special result of a list of terms, if any term is not finite (R148). -/
def specialOf (ts : List FVal) : Option FVal :=
  if ts.any FVal.isPoison then some .poison
  else if ts.any FVal.isNaN then some .nan
  else
    let pos := ts.any fun t => t == .inf false
    let neg := ts.any fun t => t == .inf true
    if pos && neg then some .nan
    else if pos then some (.inf false)
    else if neg then some (.inf true)
    else none

/-- The sum of finite terms truncated toward zero onto the grid 2^g, and whether anything was cut off. -/
def gridSum (ts : List FVal) (g : Int) : Int × Bool :=
  ts.foldl (fun acc t =>
    match t with
    | .fin s m e =>
      let n : Nat := if g ≤ e then m <<< (e - g).toNat else m >>> (g - e).toNat
      let cut := decide (e < g) && m % 2 ^ (g - e).toNat != 0
      (acc.1 + (if s then -(n : Int) else (n : Int)), acc.2 || cut)
    | _ => acc) (0, false)

/-- The FP32 pattern of T·2^g, rounded to nearest even; where T lies half-way and S is set, away from zero (R145). A zero result is
+0 unless every term is −0. -/
def gridRound (ts : List FVal) (g : Int) (sum : Int) (sticky : Bool) : Nat :=
  let z := if ts.all fun t => t.isZero && t.sign then 0x80000000 else 0
  if sum = 0 then z
  else
    let sg := decide (sum < 0)
    let u : Int := max ((sum.natAbs.log2 : Int) + g - 23) (-149)
    let h := (u - g).toNat
    let half := decide (g < u) && sum.natAbs % 2 ^ h == 2 ^ (h - 1)
    let r := encodeRne 0 (.fin sg (2 * sum.natAbs + (sticky && half).toNat) (g - 1))
    if r % 2 ^ 31 = 0 then z else r

/-- The largest binary exponent of the non-zero finite terms. -/
def maxExp (ts : List FVal) : Option Int :=
  ts.foldl (fun a t => if t.isZero || t.isNonfin then a else
    match a with
    | none => some (ilog2 t)
    | some x => some (max x (ilog2 t))) none

/-- R145: the 16-bit class, on the grid 2^(e_max − 55). -/
def acc16 (ts : List FVal) : Nat :=
  match specialOf ts with
  | some v => encodeRne 0 v
  | none =>
    match maxExp ts with
    | none => gridRound ts 0 0 false
    | some x =>
      let r := gridSum ts (x - 55)
      gridRound ts (x - 55) r.1 r.2

/-- The lowest exponent of finite terms: on it every sum is exact. -/
def minExp (ts : List FVal) : Int := ts.foldl (fun a t => match t with | .fin _ _ e => min a e | _ => a) 0

/-- R146: the 8-bit class, exact before one rounding. -/
def acc8 (ts : List FVal) : Nat :=
  match specialOf ts with
  | some v => encodeRne 0 v
  | none =>
    let g := minExp ts
    gridRound ts g (gridSum ts g).1 false

/-- One MXFP4 block of products: its exact sum as Q·2^E (R147). -/
def mxBlockSum (sa sb : Nat) (as bs : List Nat) : FVal :=
  let q : Int := (List.zipWith (fun a b =>
    let v := fun (c : Nat) => match fmtE2M1.decode c with | .fin s m e => scaleTo s m e (-1) | _ => 0
    v a * v b) as bs).foldl (· + ·) 0
  FVal.ofScaled q ((sa : Int) + sb - 256) false

/-- R147: the MXFP4 class; whether a contribution was truncated, which an output that R148 makes special does not say (DESIGN CHOICE, log 59). `ts` are the products and the prior term, `blocks` the
block sums, `prior` the prior term if any. -/
def accMx (ts : List FVal) (blocks : List FVal) (prior : List FVal) : Nat × Bool :=
  match specialOf ts with
  | some v => (encodeRne 0 v, false)
  | none =>
    let emax := blocks.foldl (fun (a : Option Int) t => match t with
      | .fin _ m e => if m = 0 then a else some (match a with | none => e | some x => max x e)
      | _ => a) none
    match emax with
    | none => let g := minExp prior; (gridRound ts g (gridSum prior g).1 false, false)
    | some x =>
      let g := x - 75
      let r := gridSum blocks g
      let wide := blocks.any fun t => match t with | .fin _ m e => m != 0 && decide (e < g) | _ => false
      let h := min g (minExp prior)
      let sum := (gridSum [FVal.ofScaled r.1 g false] h).1 + (gridSum prior h).1
      (gridRound ts h sum false, wide)

/-! ### The MLOAD that a pass takes its shape from (R139) -/

namespace PartImg

/-- The ARRAY_SHAPES default of a logical core (R105): Deep where unlisted, the first entry where several are (DESIGN CHOICE, log 50). -/
def defaultShape (im : PartImg) (lcore : Nat) : Nat := ((im.shapes.find? fun q => q.1 == lcore).map (·.2)).getD 0

/-- The shape an array descriptor names. -/
def shapeOf (im : PartImg) (lcore : Nat) (d : BitVec 256) : Nat := if dF d 2 1 = 3 then im.defaultShape lcore else dF d 2 1

/-- The records of a core at a place of the schedule. -/
def recsAtPlace (im : PartImg) (lcore place : Nat) : List Rec := ((im.prog (im.schedule.getD place 0) lcore).map (·.recs)).getD []

/-- The nearest MLOAD to a buffer before an instance of record i in the core's program order: how many steps back it lies, its
record and iterations. The schedule runs cyclically (R111), so before its first step lies its last. -/
def loadBefore (im : PartImg) (lcore : Nat) (own : List Rec) (place i : Nat) (it : List Nat) (buf : Nat) : Option (Nat × Rec × List Nat) :=
  let ok := fun (r : Rec) => r.unit == 1 && r.opcode == 0x10 && getF r.op 39 39 == buf
  let n := im.schedule.length
  let found := fun (d : Nat) (recs : List Rec) (j : Nat) (jt : List Nat) =>
    (nearest recs ok j jt).bind fun q => (recs[q.1]?).map fun r => (d, r, q.2)
  found 0 own i it <|> (List.range n).findSome? fun d =>
    let recs := im.recsAtPlace lcore ((place + n - 1 - d) % n)
    found (d + 1) recs recs.length []

/-- The tile descriptor that a pass works with. -/
def passTile (im : PartImg) (lcore : Nat) (own : List Rec) (place i : Nat) (it : List Nat) (buf : Nat) : Option (BitVec 256) :=
  (im.loadBefore lcore own place i it buf).map fun l => im.descs.getD (getF l.2.1.op 55 40) 0

/-- The shape of a pass's tile: the core's default where no MLOAD precedes the pass (log 16). -/
def passShape (im : PartImg) (lcore : Nat) (d : Option (BitVec 256)) : Nat := (d.map (im.shapeOf lcore)).getD (im.defaultShape lcore)

end PartImg

namespace State

/-! ### MLOAD (R130, R135) -/

def tileOf (k : Core) (b : Nat) : Tile := if b = 0 then k.tile0 else k.tile1
def setTile (k : Core) (b : Nat) (t : Tile) : Core := if b = 0 then { k with tile0 := t } else { k with tile1 := t }

/-- The core's ARRAY_SHAPES default (R105). -/
def defaultShape (s : State) (c : Nat) : Nat :=
  match s.imgOf c with
  | none => 0
  | some im => im.defaultShape (s.core c).logical

/-- The place an array descriptor names, and whether the core may use it (R140). -/
def arrayPlace (s : State) (c : Nat) (d : BitVec 256) : Option Place := s.locPlace (c / 16) (dF d 4 1)

def coreOwns (s : State) (c : Nat) (pl : Option Place) : Bool :=
  match pl, (s.core c).part with
  | some pl, some p => s.ownerOk p c pl []
  | _, _ => false

/-- No clear or hand-over holds an access to the place up. -/
def placeFree (s : State) (pl : Option Place) : Bool := (pl.map s.locFree).getD true

/-- The tile is read and fills the buffer; an uncorrectable word faults (R293), the buffer then undefined. -/
def loadTile (s : State) (c : Nat) (e : Entry) : State :=
  let d := s.desc c (getF e.op 55 40)
  let buf := getF e.op 39 39
  let fmt := dF d 1 1
  let shape := if dF d 2 1 = 3 then s.defaultShape c else dF d 2 1
  let rows := dF d 0x0F 1 + 1
  let dep := shapeD shape fmt
  let rb := rowBytes fmt dep
  match s.arrayPlace c d with
  | none => s
  | some pl =>
    let data := (List.range rows).map fun i => (⟨pl, dF d 8 4 + i * dF d 0x10 4, rb, dF d 8 4 + i * dF d 0x10 4⟩ : Piece)
    let sc := if fmt = 5 then [(⟨pl, dF d 5 3, rows * (dep / 32), dF d 5 3⟩ : Piece)] else []
    let r := s.feedPieces data
    let q := r.st.feedPieces sc
    match r.bad <|> q.bad with
    | some _ =>
      let t := q.st.modCore c fun k => setTile k buf
        ⟨shape, fmt, rows, cellsOf 0 ((List.range (rows * rb)).map fun i => Config.freeByte s.fresh i), []⟩
      t.usedFresh.fault c e 8 noIndex none
    | none =>
      (q.st.modCore c fun k => setTile k buf
        ⟨shape, fmt, rows, cellsOf 0 (r.bytes.map fun b => b.getD 0), cellsOf 0 (q.bytes.map fun b => b.getD 0)⟩).setPhase c e.uid .done

/-- MLOAD: OWNER before any byte moves; held while an earlier pass still reads the buffer (R140). -/
def fireMload (s : State) (c : Nat) (e : Entry) : State :=
  let d := s.desc c (getF e.op 55 40)
  if s.coreOwns c (s.arrayPlace c d) then
    if (s.core c).passes.any fun p => p.buf == getF e.op 39 39 && p.reading then s.setPhase c e.uid .fired
    else s.loadTile c e
  else s.fault c e 0x0B noIndex none

/-! ### What the array can accept -/

/-- The shape that an MPASS of a buffer that is empty works in: that of the nearest preceding MLOAD (R139, R141). -/
def assignedShape (s : State) (c : Nat) (e : Entry) (buf : Nat) : Nat :=
  match s.imgOf c with
  | none => 0
  | some im =>
    let l := (s.core c).logical
    im.passShape l (im.passTile l (im.recsOf e.step l) (im.placeOf e.step) e.recIx e.iters buf)

/-- The shape of a pass: that of the tile its buffer holds, also where the MLOAD that R139 names was skipped and an earlier one's tile is there
(DESIGN CHOICE, log 59), and the assigned one where the buffer holds none. -/
def passShape (s : State) (c : Nat) (e : Entry) : Nat :=
  let b := getF e.op 39 39
  let t := tileOf (s.core c) b
  if t.shape = 3 then s.assignedShape c e b else t.shape

/-- Can the array take one more pass (R142)? -/
def passFits (s : State) (c : Nat) (e : Entry) : Bool :=
  let ps := (s.core c).passes
  decide (ps.length < 2) && ps.all fun p => p.shape == s.passShape c e

/-- Can the array accept the command (R68, R142)? -/
def arrayAccepts (s : State) (c : Nat) (e : Entry) : Bool :=
  s.placeFree (s.arrayPlace c (s.desc c (getF e.op 55 40))) && (e.opcode != 0x11 || s.passFits c e)

end State

def execMload (c : CoreId) (s : State) : Out := .next (s.settle (s.fireOp c 1 0x10 (s.arrayAccepts c) fun t e => t.fireMload c e))

namespace State

/-- TILE_BUFFER_RELEASE: the pass's last weight vector has left the cells, and held MLOADs of the buffer load (R140). -/
def tileRelease (s : State) (c buf : Nat) : State :=
  let s := s.modCore c fun k => { k with passes := k.passes.map fun p => if p.buf = buf then { p with reading := false } else p }
  ((s.core c).window.filter fun e => e.unit == 1 && e.opcode == 0x10 && decide (e.phase = .fired) && getF e.op 39 39 == buf).foldl
    (fun t e => t.loadTile c e) s

end State

def execTileBufferRelease (c : CoreId) (buf : Fin 2) (s : State) : Out := .next (s.settle (s.tileRelease c buf))

namespace State

/-! ### MPASS (R130-R132, R139, R141-R149) -/

/-- The values of tile row i. -/
def tileRow (t : Tile) (dep i : Nat) : List FVal :=
  let rb := rowBytes t.fmt dep
  rowVals t.fmt (elemsOf t.fmt (readBytes t.data (i * rb) rb)) (readBytes t.scale (i * (dep / 32)) (if t.fmt = 5 then dep / 32 else 0))

/-- One output element: its FP32 pattern and whether a contribution was truncated. Rows beyond those loaded contribute
+0 products (R130), also where a weight is poison, NaN or infinite (DESIGN CHOICE, log 59: R148 has a poison weight reach every output of its column). -/
def passElem (tile : Tile) (wfmt dep i : Nat) (row : List FVal) (wv : List FVal) (wels : List Nat) (wsc : List Byte)
    (prior : List FVal) : Nat × Bool :=
  if tile.rows ≤ i then (acc8 (FVal.fin false 0 0 :: prior), false)
  else
    let prods := List.zipWith FVal.mul row wv
    let ts := prods ++ prior
    if wfmt = 5 then
      let rb := rowBytes 5 dep
      let els := chunksOf 32 (elemsOf 5 (readBytes tile.data (i * rb) rb))
      let tsc := readBytes tile.scale (i * (dep / 32)) (dep / 32)
      let blocks := (els.zip tsc).zip ((chunksOf 32 wels).zip wsc) |>.map fun x =>
        mxBlockSum x.1.2.toNat x.2.2.toNat x.1.1 x.2.1
      accMx ts blocks prior
    else if widthClass wfmt = 16 then (acc16 ts, false)
    else (acc8 ts, false)

/-- The columns of a pass: for each weight vector its R outputs, in row order. -/
def passColumn (tile : Tile) (wfmt shape dep : Nat) (rows : List (List FVal)) (wbytes wsc : List Byte)
    (prior : Nat → List FVal) : List (Nat × Bool) :=
  let wels := elemsOf wfmt wbytes
  let wv := rowVals wfmt wels wsc
  (List.range (shapeR shape)).map fun i => passElem tile wfmt dep i (rows.getD i []) wv wels wsc (prior i)

/-- MPASS streams its N weight vectors past the tile into the accumulators. -/
def runPass (s : State) (c : Nat) (e : Entry) (pl : Place) : State :=
  let d := s.desc c (getF e.op 55 40)
  let buf := getF e.op 39 39
  let shape := s.passShape c e
  let wfmt := dF d 1 1
  let dep := shapeD shape wfmt
  let r := shapeR shape
  let rb := rowBytes wfmt dep
  let n := dF d 0x0C 3
  let b := getF e.op 31 16
  let useAcc := getF e.op 38 38 = 1
  let k := s.core c
  let t := tileOf k buf
  let tile := if t.shape = 3 then { t with rows := 0 } else t
  let rows := (List.range tile.rows).map fun i => tileRow tile dep i
  let data := (List.range n).map fun j => (⟨pl, dF d 8 4 + j * dF d 0x10 4, rb, 0⟩ : Piece)
  let q := s.feedPieces data
  let u := q.st.feedPieces (if wfmt = 5 then [(⟨pl, dF d 5 3, n * (dep / 32), 0⟩ : Piece)] else [])
  let ws := chunksOf rb (q.bytes.map fun x => x.getD 0)
  let ss := u.bytes.map fun x => x.getD 0
  match q.bad <|> u.bad with
  | some _ =>
    let t := (List.range (r * n)).foldl (fun (t : State) i =>
      (t.modCore c fun k => { k with acc := k.acc.set (b + i) (t.freeLong.truncate 32) }).usedFresh) u.st
    t.fault c e 8 noIndex none
  | none =>
    let outs := ((List.range n).zip ws).flatMap fun jw =>
      passColumn tile wfmt shape dep rows jw.2 ((ss.drop (jw.1 * (dep / 32))).take (dep / 32)) fun i =>
        if useAcc then [decodeVal 0 (k.acc.get 0 (b + jw.1 * r + i)).toNat] else []
    let acc := ((List.range (r * n)).zip outs).foldl (fun a io => a.set (b + io.1) (BitVec.ofNat 32 io.2.1)) k.acc
    let vals := outs.map fun o => decodeVal 0 o.1
    let t := (u.st.rampMove c).modCore c fun k =>
      { k with acc := acc, passes := k.passes ++ [⟨e.uid, buf, shape, true⟩], lastPart := (k.part.getD 0) }
    let t := if outs.any (·.2) then t.flag .meaFlags (cix c) 2 else t
    let t := if vals.any FVal.isNonfin then t.flag .meaFlags (cix c) 1 else t
    let t := t.pmc c 0x04 n
    if vals.any FVal.isPoison then (t.flag .meaFlags (cix c) 0).poisonIn c ((k.part).getD 0) e.step else t

def fireMpass (s : State) (c : Nat) (e : Entry) : State :=
  let pl := s.arrayPlace c (s.desc c (getF e.op 55 40))
  match s.coreOwns c pl, pl with
  | true, some p => s.runPass c e p
  | _, _ => s.fault c e 0x0B noIndex none

end State

def execMpass (c : CoreId) (s : State) : Out :=
  .next (s.settle (s.fireOp c 1 0x11 (s.arrayAccepts c) fun t e => t.fireMpass c e))

/-- ARRAY_AT_REST: 64 beats with no pass in the array, and its ramp level is 0 (R150). -/
def State.arrayAtRest (s : State) (c : Nat) : State :=
  if (s.core c).passes.isEmpty then s.setRegF .meaStatus (cix c) 39 32 0 else s

def execArrayAtRest (c : CoreId) (s : State) : Out := .next (s.arrayAtRest c)

/-! ### MSTORE (R136, R154-R156) -/

/-- One channel run of a G64 row, or a plain row: element values with flat indexes to bytes, scale bytes and classes. -/
def packRun (fmt conv : Nat) (g64 : Bool) (key : DrawKey) (vals : List (FVal × Nat × Nat)) : List Byte × List Byte × List GClass :=
  let rm := conv % 4
  let u := fun (flat : Nat) => if rm = 2 then draw key flat else 0
  if fmt = 5 then
    let blocks := (chunksOf 32 vals).map fun bl =>
      let r := mxBlock rm (bl.map fun v => u v.2.2) (bl.map (·.1))
      let padEl := if r.1 = 255 ∧ (r.2.headD (0, .none)).1 = 15 then 15 else 0
      (r.1, r.2.map (·.1) ++ List.replicate (32 - bl.length) padEl, r.2.map (·.2))
    let all := if blocks.length % 2 = 1 then blocks ++ [(0, List.replicate 32 0, [])] else blocks
    (all.flatMap fun b => (chunksOf 2 b.2.1).map fun p => BitVec.ofNat 8 (p.getD 0 0 + 16 * p.getD 1 0),
     all.map fun b => BitVec.ofNat 8 b.1, blocks.flatMap (·.2.2))
  else
    let w := fmtWidth fmt / 8
    let enc := vals.map fun v =>
      if fmt = 0 then
        let cl := (encodeVal 0 false 0 0 v.1).2
        (v.2.1, cl)
      else encodeVal fmt (decide (4 ≤ conv)) rm (u v.2.2) v.1
    let bs := enc.flatMap fun x => leBytes w x.1
    (bs ++ (if g64 then fill (64 * w * ((vals.length + 63) / 64) - bs.length) 0 else []), [], enc.map (·.2))

/-- An accumulator; beyond the file's 65,536, which an MSTORE of more rows than its shape has can name, a free value (log 50). -/
def Core.accAt (k : Core) (i : Nat) : Word := if i < 65536 then k.acc.get 0 i else Config.noAcc i

namespace State

/-- MSTORE converts the accumulators and writes them in the chosen layout. -/
def runMstore (s : State) (c : Nat) (e : Entry) (pl : Place) : State :=
  let d := s.desc c (getF e.op 55 40)
  let fmt := dF d 1 1
  let layout := dF d 2 1
  let conv := dF d 3 1
  let r := shapeR (getF e.op 33 32)
  let b := getF e.op 31 16
  let rows := dF d 0x0F 1 + 1
  let cols := dF d 0x0C 3
  let tensor := BitVec.ofNat 32 (dF d 0x14 4)
  let base := dF d 0x18 5
  let pitch := dF d 0x1D 3
  let p := ((s.core c).part).getD 0
  let key := s.drawKey p e.step tensor
  let el := fun (i j flat : Nat) =>
    let w := ((s.core c).accAt (b + j * r + i)).toNat
    (decodeVal 0 w, w, flat)
  let outer := if layout = 1 then cols else rows
  let inner := if layout = 1 then rows else cols
  let runs := (List.range outer).map fun o =>
    packRun fmt conv (layout != 2) key ((List.range inner).map fun n =>
      if layout = 1 then el n o (base + o * pitch + n) else el o n (base + o * pitch + n))
  let ext : List Span := (List.range outer).map (fun o => ⟨pl, dF d 8 4 + o * dF d 0x10 4, ((runs.getD o ([], [], [])).1).length⟩) ++
    (if fmt = 5 then [⟨pl, dF d 5 3, (runs.flatMap (·.2.1)).length⟩] else [])
  let t := ((List.range outer).zip runs).foldl (fun (acc : State × Option Nat) or =>
    let q := acc.1.storeRun c e.uid pl (dF d 8 4 + or.1 * dF d 0x10 4) or.2.1
    (q.1, acc.2 <|> q.2)) (s, none)
  let t := if fmt = 5 then
      let q := t.1.storeRun c e.uid pl (dF d 5 3) (runs.flatMap (·.2.1))
      (q.1, t.2 <|> q.2)
    else t
  match t.2 with
  | some _ => (t.1.scrambleAll ext).fault c e 8 noIndex none
  | none => ((t.1.heldExt s.held.length ext).countGauge p e.step tensor (runs.flatMap (·.2.2))).waitHeld c e.uid

def fireMstore (s : State) (c : Nat) (e : Entry) : State :=
  let pl := s.arrayPlace c (s.desc c (getF e.op 55 40))
  match s.coreOwns c pl, pl with
  | true, some p => s.runMstore c e p
  | _, _ => s.fault c e 0x0B noIndex none

end State

def execMstore (c : CoreId) (s : State) : Out :=
  .next (s.settle (s.fireOp c 1 0x12 (s.arrayAccepts c) fun t e => t.fireMstore c e))

end Sys2Proof.Machine
end

