-- ==== Sys2Proof/Machine/Operands.lean ====
section
/-! DEFINITION. Operand forms of the vector engines and the special-function unit: register groups and masks (R163,
R168, R170), the register and memory words (R188, R190), and tensor descriptors (R173-R175, R189). -/

namespace Sys2Proof.Machine

/-! ### Register groups (R163) -/

/-- Element e of width w of the group at a base register. -/
def groupRead (v : Vec) (base w e : Nat) : Nat :=
  fld (v.regs.get 0 (base * 256 + e * w / 32)).toNat (e * w % 32 + w - 1) (e * w % 32)

/-- The group with element e set. -/
def groupWrite (v : Vec) (base w e bits : Nat) : Vec :=
  let k := base * 256 + e * w / 32
  let old := (v.regs.get 0 k).toNat
  let lo := e * w % 32
  { v with regs := v.regs.set k (BitVec.ofNat 32 (old - fld old (lo + w - 1) lo * 2 ^ lo + bits % 2 ^ w * 2 ^ lo)) }

/-- The whole 32-bit lane 0 of a register. -/
def lane0 (v : Vec) (r : Nat) : Word := v.regs.get 0 (r * 256)

def setLane0 (v : Vec) (r : Nat) (x : Word) : Vec := { v with regs := v.regs.set (r * 256) x }

def maskOf (v : Vec) (m : Nat) : BitVec 1024 := v.masks.get 0 m

/-- How an instruction masks its elements: bound count n, group elements, mask register or none, zero mode. -/
structure Act where
  n    : Nat
  lim  : Nat
  mask : Option (BitVec 1024)
  zm   : Bool
  deriving DecidableEq, Repr

/-- Is element e active (R168)? -/
def Act.on (a : Act) (e : Nat) : Bool :=
  decide (e < a.n) && (match a.mask with | none => true | some m => m.getLsbD e)

/-- The bound element count, once known. -/
def boundN (x : VSet) : Nat := match x.vlen with | .known n => n | .token _ => 0

def actOf (v : Vec) (x : VSet) (m zm : Bool) (mreg : Nat) : Act :=
  ⟨boundN x, vlmaxN x.vlmax, if m then some (maskOf v mreg) else none, zm⟩

/-- The active elements, ascending. -/
def Act.elems (a : Act) : List Nat := (List.range a.n).filter a.on

/-- Results written under R170: the listed elements take their bits; where masked in zero mode every other element of the
group becomes zero; otherwise the others keep their values. -/
def writeAct (v : Vec) (a : Act) (base w : Nat) (res : List (Nat × Nat)) : Vec :=
  let v := if a.zm && a.mask.isSome then
      (List.range a.lim).foldl (fun v e => groupWrite v base w e 0) v
    else v
  res.foldl (fun v r => groupWrite v base w r.1 r.2) v

/-- Mask bits written under R170, VCMP's among them. Zero mode reaches the elements below VLMAX; what lies past them in a group or a mask register
is kept (DESIGN CHOICE, log 59: R170 names no end, and R197 keeps mask bits at and beyond n). -/
def writeMask (v : Vec) (a : Act) (m : Nat) (res : List (Nat × Bool)) : Vec :=
  let old := maskOf v m
  let z := if a.zm && a.mask.isSome then old &&& (BitVec.allOnes 1024 <<< a.lim) else old
  let new := res.foldl (fun (x : BitVec 1024) r =>
    let bit : BitVec 1024 := BitVec.twoPow 1024 r.1
    if r.2 then x ||| bit else x &&& ~~~bit) z
  { v with masks := v.masks.set m new }

/-! ### Operation words -/

/-- Layout R (R188). -/
structure RWord where
  fmt  : Nat
  sfmt : Nat
  conv : Nat
  m    : Bool
  zm   : Bool
  mreg : Nat
  vd   : Nat
  vs1  : Nat
  vs2  : Nat
  vs3  : Nat
  imm  : Nat
  deriving DecidableEq, Repr

def rWord (op : Long) : RWord :=
  ⟨getF op 55 52, getF op 51 48, getF op 47 45, getF op 44 44 == 1, getF op 43 43 == 1, getF op 42 40, getF op 39 35, getF op 34 30,
   getF op 29 25, getF op 24 20, getF op 19 0⟩

/-- The widest operand of a Strip instruction of layout R (R172, R192): 32 bits of index groups and of carries, single bits of masks. -/
def opWidth (oc : Nat) (r : RWord) : Nat :=
  if oc = 0x40 then max (fmtWidth r.fmt) (fmtWidth r.sfmt) else if hasN [0x48, 0x58, 0x5C] oc then 32
  else if hasN [0x3B, 0x3C, 0x3D, 0x3E, 0x3F] oc then 1 else fmtWidth r.fmt

/-- Beats of n elements of a width (R172). -/
def stripBeats (n w : Nat) : Nat := max 1 ((n * w + 8191) / 8192)


/-- Layout M (R190). -/
structure MWord where
  fmt  : Nat
  vat  : Nat
  m    : Bool
  zm   : Bool
  mreg : Nat
  vr   : Nat
  vx   : Nat
  base : Nat
  deriving DecidableEq, Repr

def mWord (op : Long) (iters : List Nat) : MWord :=
  ⟨getF op 55 52, getF op 51 47, getF op 46 46 == 1, getF op 45 45 == 1, getF op 44 42, getF op 41 37, getF op 36 32,
   128 * (getF op 31 18 + getF op 17 4 * innerIter iters)⟩

/-! ### Tensor descriptors (R173) -/

structure TDesc where
  fmt    : Nat
  conv   : Nat
  g64    : Bool
  place  : Option Place
  rows   : Nat
  cols   : Nat
  off    : Nat
  stride : Nat
  tensor : Word
  base   : Nat
  pitch  : Nat
  deriving DecidableEq, Repr

def State.tdesc (s : State) (c i : Nat) : TDesc :=
  let d := s.desc c i
  ⟨dF d 1 1, dF d 3 1, dF d 2 1 == 0, s.locPlace (c / 16) (dF d 4 1), dF d 5 3, dF d 0x0C 3, dF d 8 4, dF d 0x10 4,
   BitVec.ofNat 32 (dF d 0x14 4), dF d 0x18 5, dF d 0x1D 3⟩

def TDesc.esize (d : TDesc) : Nat := fmtWidth d.fmt / 8

/-- The byte address of element (r, c): G64 groups of 64 elements lie one after another, so both layouts agree. -/
def TDesc.addr (d : TDesc) (r c : Nat) : Nat := d.off + r * d.stride + c * d.esize

/-- A source of a Tensor-profile instruction: the pattern of a scalar, or a descriptor. -/
inductive TSrc where
  | scalar (bits : Nat)
  | desc (d : TDesc)
  deriving DecidableEq, Repr

def TSrc.width : TSrc → Nat
  | .scalar _ => 0
  | .desc d => fmtWidth d.fmt

/-- Layout T's source j (R189): a scalar from element 0 of a register, in the destination's width, or a descriptor. -/
def State.tsrc (s : State) (c : Nat) (v : Vec) (op : Long) (w j : Nat) : TSrc :=
  let f := getF op (39 - 12 * j) (28 - 12 * j)
  if getF op (53 + j) (53 + j) = 1 then .scalar (groupRead v (f % 32) w 0) else .desc (s.tdesc c f)

/-- Elements of a chunk: n elements of row r from column c0 (a one-row source serves every row). -/
structure Chunk where
  row : Nat
  c0  : Nat
  n   : Nat
  deriving DecidableEq, Repr

/-- Chunk k of a destination cut into pieces of at most cmax elements, row by row (R175). -/
def chunkAt (rows cols cmax k : Nat) : Chunk :=
  let per := (cols + cmax - 1) / cmax
  let _ := rows
  let c0 := k % per * cmax
  ⟨k / per, c0, min cmax (cols - c0)⟩

def chunkCount (rows cols cmax : Nat) : Nat := rows * ((cols + cmax - 1) / cmax)

/-- Reads a chunk of a source as patterns; the element number of an uncorrectable word. -/
def State.readChunk (s : State) (k : Chunk) (src : TSrc) : State × List Nat × Option Nat :=
  match src with
  | .scalar b => (s, List.replicate k.n b, none)
  | .desc d =>
    match d.place with
    | none => (s, List.replicate k.n 0, none)
    | some pl =>
      let a := d.addr (if d.rows = 1 then 0 else k.row) k.c0
      let r := s.bankRead pl a (k.n * d.esize)
      (r.st, (chunksOf d.esize (r.bytes.map fun b => b.getD 0)).map fromLE, r.bad.map fun o => o / d.esize)

/-- The bytes of a row with its padding, and the spans of a descriptor's extent (R174). -/
def TDesc.rowLen (d : TDesc) : Nat := (if d.g64 then (d.cols + 63) / 64 * 64 else d.cols) * d.esize

def TDesc.spans (d : TDesc) (pl : Place) : List Span := (List.range d.rows).map fun r => ⟨pl, d.addr r 0, d.rowLen⟩

/-- Writes a chunk of patterns, with +0 padding after the last element of a G64 row (R174); the offset of a word that could
not be merged (R293). -/
def State.writeChunk (s : State) (c uid : Nat) (d : TDesc) (k : Chunk) (els : List Nat) : State × Option Nat :=
  match d.place with
  | none => (s, none)
  | some pl =>
    let bs := els.flatMap fun x => leBytes d.esize x
    let pad := if d.g64 ∧ k.c0 + k.n = d.cols then ((d.cols + 63) / 64 * 64 - d.cols) * d.esize else 0
    let r := s.storeRun c uid pl (d.addr k.row k.c0) (bs ++ fill pad 0)
    (r.1.heldOf s.held.length (d.spans pl) (k.row * d.cols + k.c0) (d.addr k.row k.c0) d.esize, r.2)

/-- The rest of a destination from chunk k on left undefined (R177). -/
def State.scrambleFrom (s : State) (d : TDesc) (k : Chunk) : State :=
  match d.place with
  | none => s
  | some pl =>
    (List.range (d.rows - k.row)).foldl (fun t i =>
      let c0 := if i = 0 then k.c0 else 0
      t.scramble pl (d.addr (k.row + i) c0) (d.rowLen - c0 * d.esize)) s

/-- Is the place of a descriptor owned by the core, and free of a hand-over? -/
def State.ownsDesc (s : State) (c : Nat) (d : TDesc) : Bool := s.coreOwns c d.place
def State.descFree (s : State) (d : TDesc) : Bool := s.placeFree d.place

/-- The flat element index of a destination element. -/
def TDesc.flat (d : TDesc) (r c : Nat) : Nat := d.base + r * d.pitch + c

/-- The flat element index in the Strip profile (R169). -/
def stripFlat (x : VSet) (iters : List Nat) (e : Nat) : Nat := x.flatBase.toNat + innerIter iters * x.flatStep.toNat + e

end Sys2Proof.Machine
end

