-- ==== Sys2Proof/Machine/Flags.lean ====
section
/-! DEFINITION. The sticky flags of the vector engines (R182, R186): what a rounded result sets, as the bits of
VEC_FLAGS, and how an instruction's flags are recorded with its poison event (R49, R183). -/

namespace Sys2Proof.Machine

def flUnderflow : Nat := 1
def flOverflow : Nat := 2
def flInvalid : Nat := 4
def flPoison : Nat := 8
def flPermRange : Nat := 16
def flClamp : Nat := 32

/-- The flags of one result: its operands, its format and pattern, and the class its rounding gave (R182). -/
def resFlags (ops : List FVal) (fmt bits : Nat) (cls : GClass) : Nat :=
  if !fmtIsFloat fmt then
    (if ops.any FVal.isPoison then flPoison else 0) ||| (if cls = .ovf then flOverflow else 0)
      ||| (if cls = .unf then flUnderflow else 0)
  else
    let r := decodeVal fmt bits
    let isInf := r == .inf false || r == .inf true
    (if ops.any FVal.isPoison then flPoison else 0)
      ||| (if !(ops.any FVal.isNaN) && r == .nan then flInvalid else 0)
      ||| (if !(ops.any FVal.isNonfin) && (isInf || (decide (cls = .ovf) && r != .nan)) then flOverflow else 0)
      ||| (if cls = .unf then flUnderflow else 0)

def orAll (l : List Nat) : Nat := l.foldl (fun a b => a ||| b) 0

/-- An instruction's flags are set in the engine's VEC_FLAGS; a poison operand also counts in its step (R183). -/
def State.setVecFlags (s : State) (c eng : Nat) (e : Entry) (fl : Nat) : State :=
  if fl = 0 then s
  else
    let ix := cix c ++ [eng]
    let t := s.setReg .vecFlags ix (s.reg .vecFlags ix ||| BitVec.ofNat 64 fl)
    if fl.testBit 3 then t.poisonIn c (((s.core c).part).getD 0) e.step else t

end Sys2Proof.Machine
end

