-- ==== Sys2Proof/Machine/Vector.lean ====
section
/-! DEFINITION. The vector instructions (R161-R213): settings, loads and stores, element-wise operations in both profiles,
masks, permutes, reductions, scans and the linear recurrence. -/

namespace Sys2Proof.Machine

/-- A source's format: a scalar has the destination's, VCVT's too, which no descriptor gives one (DESIGN CHOICE, log 59). -/
def TSrc.fmt (x : TSrc) (dflt : Nat) : Nat := match x with | .scalar _ => dflt | .desc d => d.fmt

/-! ### One element (R47, R193-R198) -/

def fMax (a b : FVal) : FVal :=
  if a.isPoison || b.isPoison then .poison else if a.isNaN || b.isNaN then .nan else if a.ltZ b then b else a

def fMin (a b : FVal) : FVal :=
  if a.isPoison || b.isPoison then .poison else if a.isNaN || b.isNaN then .nan else if b.ltZ a then b else a

/-- The exact result of a floating-point operation by opcode (R191, R194). -/
def fop (oc : Nat) (a b c : FVal) : FVal :=
  match oc with
  | 0x20 => a.add b
  | 0x21 => a.sub b
  | 0x22 => a.mul b
  | 0x23 => (a.mul b).add c
  | 0x24 => a.div b
  | 0x25 => fMax a b
  | 0x26 => fMin a b
  | 0x27 => a.abs
  | 0x28 => a.neg
  | _ => a

/-- The 32-bit result of an integer operation by opcode (R195). -/
def iop (oc fmt a b c : Nat) : Nat :=
  let x := intOf fmt a
  let y := intOf fmt b
  match oc with
  | 0x20 => (a + b) % 2 ^ 32
  | 0x21 => (a + 2 ^ 32 - b % 2 ^ 32) % 2 ^ 32
  | 0x22 => a * b % 2 ^ 32
  | 0x23 => (a * b + c) % 2 ^ 32
  | 0x24 => if y = 0 then 0 else wrapI 32 (x.tdiv y)
  | 0x25 => if x < y then b else a
  | 0x26 => if y < x then b else a
  | 0x27 => if fmt = 9 then wrapI 32 x.natAbs else a
  | 0x28 => wrapI 32 (-x)
  | 0x30 => a &&& b
  | 0x31 => a ||| b
  | 0x32 => a ^^^ b
  | 0x33 => a <<< (b % 32) % 2 ^ 32
  | 0x34 => if fmt = 9 then wrapI 32 (x / (2 ^ (b % 32) : Int)) else a >>> (b % 32)
  | _ => a

/-- Source operands of an element-wise opcode. -/
def arity (oc : Nat) : Nat := if oc = 0x23 then 3 else if oc = 0x10 ∨ oc = 0x27 ∨ oc = 0x28 ∨ oc = 0x40 then 1 else 2

/-- What an element's operation gives: its bits, its class in a gauge and its flags. -/
structure ERes where
  bits  : Nat
  cls   : GClass
  flags : Nat
  deriving DecidableEq, Repr

/-- One element: `srcs` are its source patterns, each with its format; u is the draw. -/
def elemOp (oc fmt conv u : Nat) (srcs : List (Nat × Nat)) : ERes :=
  let sat := decide (4 ≤ conv)
  let vals := srcs.map fun x => decodeVal x.1 x.2
  let v := fun j => vals.getD j (.fin false 0 0)
  let b := fun j => (srcs.getD j (0, 0)).2
  if oc = 0x10 then ⟨b 0, (encodeVal fmt false 0 0 (v 0)).2, 0⟩
  else if fmtIsFloat fmt || oc == 0x40 then
    let r := encodeVal fmt sat (conv % 4) u (if oc = 0x40 then v 0 else fop oc (v 0) (v 1) (v 2))
    ⟨r.1, r.2, resFlags vals fmt r.1 r.2⟩
  else ⟨iop oc fmt (b 0) (b 1) (b 2), .none, 0⟩

/-- A poison element on its way into an integer format: POISON_INT (R48, R198). -/
def poisonInt (oc fmt : Nat) (srcs : List (Nat × Nat)) : Bool :=
  oc == 0x40 && !fmtIsFloat fmt && srcs.any fun x => (decodeVal x.1 x.2).isPoison

/-- The predicates of compares (R197). -/
def cmpPred (p fmt a b : Nat) : Bool :=
  if fmtIsFloat fmt then
    let x := decodeVal fmt a
    let y := decodeVal fmt b
    if x.isNaN || y.isNaN then false
    else match p with
      | 0 => x.eqv y
      | 1 => !x.eqv y
      | 2 => x.lt y
      | 3 => x.lt y || x.eqv y
      | 4 => y.lt x
      | _ => y.lt x || x.eqv y
  else
    let x := intOf fmt a
    let y := intOf fmt b
    match p with
    | 0 => decide (x = y)
    | 1 => decide (x ≠ y)
    | 2 => decide (x < y)
    | 3 => decide (x ≤ y)
    | 4 => decide (y < x)
    | _ => decide (y ≤ x)

namespace State

/-! ### Firing on a vector engine -/

/-- The engine index of an entry's unit. -/
def vecAt (s : State) (c eng : Nat) : Vec := vecOf (s.core c) eng
def modVec (s : State) (c eng : Nat) (f : Vec → Vec) : State := s.modCore c fun k => setVec k eng (f (vecOf k eng))

/-- The descriptors of a Tensor-profile instruction: destination and descriptor sources. -/
def tensorSrcs (s : State) (c : Nat) (v : Vec) (op : Long) : List TSrc :=
  let oc := getF op 63 56
  let d := s.tdesc c (getF op 51 40)
  let js := if oc = 0x58 then [0, 2] else if oc = 0x5C then [0, 1, 2] else List.range (arity oc)
  js.map fun j => s.tsrc c v op (fmtWidth d.fmt) j

def tensorDescs (s : State) (c : Nat) (v : Vec) (op : Long) : List TDesc :=
  s.tdesc c (getF op 51 40) :: (s.tensorSrcs c v op).filterMap fun x => match x with | .desc d => some d | .scalar _ => none

/-- The vats and banks that a vector instruction names. -/
def vecPlaces (s : State) (c eng : Nat) (e : Entry) : List (Option Place) :=
  if 0x08 ≤ e.opcode ∧ e.opcode ≤ 0x0B then [s.locPlace (c / 16) (mWord e.op e.iters).vat]
  else if e.vset.tensor ∧ 4 ≤ e.opcode then (s.tensorDescs c (s.vecAt c eng) e.op).map (·.place)
  else []

/-- Can the engine accept the instruction: its length known (R167; a VSETVL's own token comes with its wait), no
Tensor-profile walk under way, and no clear or hand-over of a vat it names? -/
def vecAccepts (s : State) (c eng : Nat) (e : Entry) : Bool :=
  vlenKnown e && e.vset.behind.isNone && ((s.core c).window.all fun x => !(x.unit == 2 + eng && decide (x.phase = .fired ∧ x.chunk < x.chunks))) &&
  (s.vecPlaces c eng e).all s.placeFree

/-- VEC_STATUS follows the instruction that fired last (R185). -/
def vecStatus (s : State) (c eng : Nat) (e : Entry) : State :=
  let ix := cix c ++ [eng]
  ((s.setRegF .vecStatus ix 31 31 (if e.vset.tensor then 1 else 0)).setRegF .vecStatus ix 30 29 e.vset.vlmax.toNat).setRegF
    .vecStatus ix 10 0 (boundN e.vset)

/-- n beats of the lanes for the counters (R172, R540). -/
def vecBeats (s : State) (c n : Nat) : State := s.pmc c 0x05 n

/-- An instruction of a vector engine fires. -/
def fireVecOp (s : State) (c eng opcode : Nat) (body : State → Entry → State) : State :=
  s.fireOp c (2 + eng) opcode (s.vecAccepts c eng) fun t e => body (t.vecStatus c eng e) e

/-! ### Settings (R166, R167, R178, R191) -/

/-- A TOK setting's length reaches every instruction bound to it. -/
def bindLen (s : State) (c eng uid n : Nat) : State :=
  let f := fun (x : VSet) =>
    let x := if x.vlen = .token uid then { x with vlen := .known n } else x
    if x.behind = some uid then { x with behind := none } else x
  (s.modCore c fun k => { k with window := k.window.map fun e => { e with vset := f e.vset } }).modVec c eng fun v =>
    { v with cur := f v.cur }

/-- VSETVL: in the TOK form the scalar of wait entry 0, clamped to VLMAX. -/
def fireVsetvl (s : State) (c eng : Nat) (e : Entry) : State :=
  if 2 ≤ getF e.op 55 54 then
    let t := (s.scalarOf c e).toNat
    let m := vlmaxN (BitVec.ofNat 2 (getF e.op 53 52))
    let u := s.bindLen c eng e.uid (min t m)
    if m < t then u.flag .vecFlags (cix c ++ [eng]) 5 else u
  else s

end State

def execVsetvl (c : CoreId) (e : Fin 2) (s : State) : Out := .next (s.fireVecOp c e 0x01 fun t x => t.fireVsetvl c e x)
/-- VPROFILE takes its effect at window entry (R167). -/
def execVprofile (c : CoreId) (e : Fin 2) (s : State) : Out := .next (s.fireVecOp c e 0x02 fun t _ => t)
/-- VSETRC takes its effect at window entry (R167). -/
def execVsetrc (c : CoreId) (e : Fin 2) (s : State) : Out := .next (s.fireVecOp c e 0x03 fun t _ => t)

namespace State

/-! ### Loads and stores (R190, R199-R201) -/

def usedFreshBy (s : State) (n : Nat) : State := { s with fresh := s.fresh + n }

/-- The registers of a group left undefined (R85). -/
def scrambleGroup (s : State) (c eng base w lim : Nat) : State :=
  (s.modVec c eng fun v => (List.range (lim * w / 32)).foldl (fun v i =>
    { v with regs := v.regs.set (base * 256 + i) (Config.freeLong (s.fresh + i) |>.truncate 32) }) v).usedFreshBy (lim * w / 32)

/-- The vat address of each active element. -/
def elemAddrs (v : Vec) (m : MWord) (indexed : Bool) (els : List Nat) : List (Nat × Nat) :=
  let w := fmtWidth m.fmt / 8
  els.map fun i => (i, m.base + (if indexed then groupRead v m.vx 32 i else i) * w)

/-- The checks before access of a load or store: OWNER, then EXTENT and ALIGN, with the lowest active element (R181). -/
def memFault (s : State) (c : Nat) (pl : Option Place) (w : Nat) (addrs : List (Nat × Nat)) : Option (Nat × Nat) :=
  match addrs.head? with
  | none => none
  | some h =>
    if s.coreOwns c pl then
      match addrs.find? fun x => decide (mib2 < x.2 + w) with
      | some x => some (3, x.1)
      | none => (addrs.find? fun x => x.2 % w != 0).map fun x => (4, x.1)
    else some (0x0B, h.1)

/-- The first active element with a byte in the word at address a. -/
def firstIn (addrs : List (Nat × Nat)) (a : Nat) : Nat := ((addrs.find? fun x => x.2 / 32 == a / 32).map (·.1)).getD 0

/-- Addresses of the words that elements in a row lie in, each word once. -/
def wordsOf (addrs : List (Nat × Nat)) : List Nat :=
  addrs.foldr (fun x l => if l.head? = some (x.2 / 32 * 32) then l else x.2 / 32 * 32 :: l) []

/-- A vector load: the words of the active elements are read, an indexed element's word for itself and by its own grant (R180, R292, R293). -/
def runVld (s : State) (c eng : Nat) (e : Entry) (m : MWord) (indexed : Bool) (a : Act) (pl : Place) (addrs : List (Nat × Nat)) : State :=
  let w := fmtWidth m.fmt / 8
  let ws := if indexed then addrs.map fun x => x.2 / 32 * 32 else wordsOf addrs
  let s := if indexed then s else s.vatGrants pl m.base (addrs.length * w)
  let r := ws.foldl (fun (acc : State × Option Nat) x =>
    let q := (if indexed then acc.1.vatGrants pl x 32 else acc.1).cellRead pl x 32 fun _ => true
    (q.st, acc.2 <|> (q.bad.map fun _ => firstIn addrs x))) (s, none)
  match r.2 with
  | some i => (r.1.scrambleGroup c eng m.vr (fmtWidth m.fmt) a.lim).fault c e 8 (BitVec.ofNat 32 i) none
  | none => r.1.modVec c eng fun v =>
    writeAct v a m.vr (fmtWidth m.fmt) (addrs.map fun x => (x.1, fromLE (readBytes (s.bankOf pl).data x.2 w)))

/-- Writes that follow on one another in memory, as one run each. -/
def joinRuns (l : List (Nat × List Byte)) : List (Nat × List Byte) :=
  l.foldr (fun x acc => match acc with
    | y :: t => if x.1 + x.2.length = y.1 then (x.1, x.2 ++ y.2) :: t else x :: acc
    | [] => [x]) []

/-- A vector store: the active elements as runs; an indexed store in element order, so that the higher-numbered element
remains where two name one address (R200). Its destination extent is the run of its n elements, an indexed one's the whole vat (R199). -/
def runVst (s : State) (c eng : Nat) (e : Entry) (m : MWord) (indexed : Bool) (pl : Place) (addrs : List (Nat × Nat)) : State :=
  let w := fmtWidth m.fmt / 8
  let v := s.vecAt c eng
  let els := addrs.map fun x => (x.2, leBytes w (groupRead v m.vr (8 * w) x.1))
  let ext : List Span := [if indexed then ⟨pl, 0, mib2⟩ else ⟨pl, m.base, boundN e.vset * w⟩]
  let r := ((if indexed then els.zip addrs else (joinRuns els).map fun x => (x, ((addrs.find? fun y => y.2 == x.1).getD (0, 0))))).foldl
    (fun (acc : State × Option Nat) x =>
      let q := acc.1.storeRun c e.uid pl x.1.1 x.1.2
      (q.1.heldOf acc.1.held.length ext x.2.1 x.1.1 w, acc.2 <|> (q.2.map (firstIn addrs)))) (s, none)
  match r.2 with
  | some i => (r.1.scrambleAll ext).fault c e 8 (BitVec.ofNat 32 i) none
  | none => r.1.waitHeld c e.uid

/-- VLD, VST, VLDX and VSTX. -/
def fireVmem (s : State) (c eng : Nat) (e : Entry) (store indexed : Bool) : State :=
  let m := mWord e.op e.iters
  let v := s.vecAt c eng
  let a := actOf v e.vset m.m m.zm m.mreg
  if a.n = 0 then s.vecBeats c 1
  else
    let w := fmtWidth m.fmt
    let s := s.vecBeats c (stripBeats a.n (if indexed then 32 else w))
    let addrs := elemAddrs v m indexed a.elems
    let pl := s.locPlace (c / 16) m.vat
    let s := if indexed && e.sampled then s.modEntry c e.uid fun x => { x with first := addrs.head?.map (·.2) } else s
    match s.memFault c pl (w / 8) addrs, pl with
    | some f, _ => s.fault c e f.1 (BitVec.ofNat 32 f.2) none
    | none, some p => if store then s.runVst c eng e m indexed p addrs else s.runVld c eng e m indexed a p addrs
    | none, none => s.modVec c eng fun v => writeAct v a m.vr w []

end State

def execVld (c : CoreId) (e : Fin 2) (s : State) : Out := .next (s.settle (s.fireVecOp c e 0x08 fun t x => t.fireVmem c e x false false))
def execVst (c : CoreId) (e : Fin 2) (s : State) : Out := .next (s.settle (s.fireVecOp c e 0x09 fun t x => t.fireVmem c e x true false))
def execVldx (c : CoreId) (e : Fin 2) (s : State) : Out := .next (s.settle (s.fireVecOp c e 0x0A fun t x => t.fireVmem c e x false true))
def execVstx (c : CoreId) (e : Fin 2) (s : State) : Out := .next (s.settle (s.fireVecOp c e 0x0B fun t x => t.fireVmem c e x true true))

namespace State

/-! ### The Strip profile -/

/-- The common start of a Strip-profile register instruction: nothing at VLEN 0, its beats otherwise (R168, R172). -/
def strip (s : State) (c eng : Nat) (e : Entry) (body : State → RWord → Vec → Act → State) : State :=
  let r := rWord e.op
  let v := s.vecAt c eng
  let a := actOf v e.vset r.m r.zm r.mreg
  let s := s.vecBeats c (stripBeats a.n (opWidth e.opcode r))
  if a.n = 0 then s else body s r v a

/-- The draw for element e in the Strip profile (R169); no draw is taken unless RMODE is stochastic. -/
def stripDraw (s : State) (c : Nat) (e : Entry) (conv i : Nat) : Nat :=
  if conv % 4 = 2 then draw (s.drawKey (((s.core c).part).getD 0) e.step e.vset.tensorId) (stripFlat e.vset e.iters i) else 0

/-- Element-wise instructions in the Strip profile (R192-R198). -/
def stripElem (s : State) (c eng : Nat) (e : Entry) : State :=
  let oc := e.opcode
  let f0 := getF e.op 55 52
  let sf := if oc = 0x40 then getF e.op 51 48 else f0
  s.strip c eng e fun s r v a =>
    let w := fmtWidth r.fmt
    let regs := [r.vs1, r.vs2, r.vs3].take (arity oc)
    let srcs := fun i => regs.map fun b => (sf, groupRead v b (fmtWidth sf) i)
    let els := a.elems
    match els.find? fun i => poisonInt oc r.fmt (srcs i) with
    | some i => ((s.setVecFlags c eng e flPoison).scrambleGroup c eng r.vd w a.lim).fault c e 5 (BitVec.ofNat 32 i) none
    | none =>
      let res := els.map fun i => (i, elemOp oc r.fmt r.conv (s.stripDraw c e r.conv i) (srcs i))
      let t := s.modVec c eng fun v => writeAct v a r.vd w (res.map fun x => (x.1, x.2.bits))
      let t := t.setVecFlags c eng e (orAll (res.map fun x => x.2.flags))
      if oc = 0x40 then t.countGauge (((s.core c).part).getD 0) e.step e.vset.tensorId (res.map fun x => x.2.cls) else t

/-- VMOVI's immediate by format (R196). -/
def moviBits (fmt imm : Nat) : Nat :=
  match fmt with
  | 9 => wrapI 32 (signed 20 imm)
  | 10 => imm
  | 0 => imm * 4096
  | _ => imm % 65536

/-- Every active element gets a value of its own, no flag and no count. -/
def stripBits (s : State) (c eng : Nat) (e : Entry) (f : RWord → Vec → Act → Nat → Nat) : State :=
  s.strip c eng e fun s r v a =>
    s.modVec c eng fun v' => writeAct v' a r.vd (fmtWidth r.fmt) (a.elems.map fun i => (i, f r v a i))

/-! ### Masks and counts (R179, R197) -/

/-- Compare results of the active elements, and whether a poison operand was met. -/
def compares (r : RWord) (v : Vec) (a : Act) : List (Nat × Bool) × Bool :=
  let w := fmtWidth r.fmt
  let x := fun i => groupRead v r.vs1 w i
  let y := fun i => groupRead v r.vs2 w i
  (a.elems.map fun i => (i, cmpPred (r.imm % 8) r.fmt (x i) (y i)),
   fmtIsFloat r.fmt && a.elems.any fun i => (decodeVal r.fmt (x i)).isPoison || (decodeVal r.fmt (y i)).isPoison)

def fireVcmp (s : State) (c eng : Nat) (e : Entry) (count : Bool) : State :=
  s.strip c eng e fun s r v a =>
    let q := compares r v a
    let t := if count then s.setValue c e.uid (BitVec.ofNat 32 ((q.1.filter (·.2)).length))
      else s.modVec c eng fun v' => writeMask v' a (r.vd % 8) q.1
    t.setVecFlags c eng e (if q.2 then flPoison else 0)

/-- VPOPC counts the active set bits of a mask (R179). -/
def fireVpopc (s : State) (c eng : Nat) (e : Entry) : State :=
  s.strip c eng e fun s r v a =>
    s.setValue c e.uid (BitVec.ofNat 32 ((a.elems.filter fun i => (maskOf v (r.vs1 % 8)).getLsbD i).length))

/-- Mask logic for elements below n; bits at and beyond n are kept (R197). -/
def fireMaskOp (s : State) (c eng : Nat) (e : Entry) (f : Bool → Bool → Bool) : State :=
  s.strip c eng e fun s r v a =>
    s.modVec c eng fun v' => writeMask v' { a with lim := a.n } (r.vd % 8)
      (a.elems.map fun i => (i, f ((maskOf v (r.vs1 % 8)).getLsbD i) ((maskOf v (r.vs2 % 8)).getLsbD i)))

/-! ### Permutes, slides, compress and expand (R179, R201-R203) -/

def fireVperm (s : State) (c eng : Nat) (e : Entry) : State :=
  s.strip c eng e fun s r v a =>
    let w := fmtWidth r.fmt
    let k := fun i => groupRead v r.vs2 32 i
    let t := s.modVec c eng fun v' => writeAct v' a r.vd w
      (a.elems.map fun i => (i, if k i < a.n then groupRead v r.vs1 w (k i) else 0))
    t.setVecFlags c eng e (if a.elems.any fun i => decide (a.n ≤ k i) then flPermRange else 0)

/-- VEXT ignores M; its element number is IMM bits 9:0. -/
def fireVext (s : State) (c eng : Nat) (e : Entry) : State :=
  s.strip c eng e fun s r v a =>
    let k := r.imm % 1024
    if k < a.n then s.setValue c e.uid (BitVec.ofNat 32 (groupRead v r.vs1 (fmtWidth r.fmt) k))
    else s.setVecFlags c eng e flPermRange

def fireVcompress (s : State) (c eng : Nat) (e : Entry) : State :=
  s.strip c eng e fun s r v a =>
    let w := fmtWidth r.fmt
    let xs := a.elems.map fun i => groupRead v r.vs1 w i
    s.modVec c eng fun v' => writeAct v' a r.vd w ((List.range a.n).map fun i => (i, xs.getD i 0))

def fireVexpand (s : State) (c eng : Nat) (e : Entry) : State :=
  s.strip c eng e fun s r v a =>
    let w := fmtWidth r.fmt
    s.modVec c eng fun v' => writeAct v' a r.vd w
      ((List.range a.elems.length).zip a.elems |>.map fun x => (x.2, groupRead v r.vs1 w x.1))

end State

/-! ### Reductions and scans (R204-R212) -/

/-- The opcode of a reduction's operation: sum, max or min. -/
def redOp (op : Nat) : Nat := if op = 0 then 0x20 else if op = 1 then 0x25 else 0x26

def fIdentity (op : Nat) : FVal := if op = 0 then .fin false 0 0 else .inf (decide (op = 1))
def iIdentity (op fmt : Nat) : Nat :=
  if op = 0 then 0
  else if fmt = 9 then (if op = 1 then 0x80000000 else 0x7FFFFFFF) else (if op = 1 then 0 else 0xFFFFFFFF)

/-- A reduction in element order; its value does not depend on the order (R204). -/
def reduceF (op : Nat) (vs : List FVal) : FVal :=
  match vs with
  | [] => fIdentity op
  | v :: t => t.foldl (fun a b => fop (redOp op) a b (.fin false 0 0)) v

def reduceI (op fmt : Nat) (vs : List Nat) : Nat :=
  match vs with
  | [] => iIdentity op fmt
  | v :: t => t.foldl (fun a b => iop (redOp op) fmt a b 0) v

def State.fireVred (s : State) (c eng : Nat) (e : Entry) : State :=
  s.strip c eng e fun s r v a =>
    let w := fmtWidth r.fmt
    let xs := a.elems.map fun i => groupRead v r.vs1 w i
    let op := r.imm % 4
    if fmtIsFloat r.fmt then
      let vs := xs.map (decodeVal r.fmt)
      let q := encodeVal r.fmt (decide (4 ≤ r.conv)) (r.conv % 4) (s.stripDraw c e r.conv 0) (reduceF op vs)
      (s.modVec c eng fun v' => groupWrite v' r.vd w 0 q.1).setVecFlags c eng e (if vs.isEmpty then 0 else resFlags vs r.fmt q.1 q.2)
    else s.modVec c eng fun v' => groupWrite v' r.vd w 0 (reduceI op r.fmt xs)

/-- The flags of one exact operation before any rounding. -/
def exactFlags (ops : List FVal) (r : FVal) : Nat :=
  (if ops.any FVal.isPoison then flPoison else 0) ||| (if !(ops.any FVal.isNaN) && r.isNaN then flInvalid else 0)

/-- One element of a scan's input: its pattern, whether it is active, whether it starts a segment, its draw. -/
structure ScanIn where
  bits : Nat
  on   : Bool
  seg  : Bool
  u    : Nat
  deriving DecidableEq, Repr

/-- A floating-point scan of R206: results in order (none for inactive elements), the exact carry out and the flags. -/
def scanF (fmt conv op : Nat) (excl : Bool) : List ScanIn → FVal → List (Option ERes) × FVal × Nat
  | [], acc => ([], acc, 0)
  | x :: t, acc =>
    if x.on then
      let acc := if x.seg then fIdentity op else acc
      let v := decodeVal fmt x.bits
      let nxt := fop (redOp op) acc v (.fin false 0 0)
      let out := if excl then acc else nxt
      let q := encodeVal fmt (decide (4 ≤ conv)) (conv % 4) x.u out
      let r := scanF fmt conv op excl t nxt
      (some ⟨q.1, q.2, resFlags [out] fmt q.1 q.2⟩ :: r.1, r.2.1,
       exactFlags [acc, v] nxt ||| resFlags [out] fmt q.1 q.2 ||| r.2.2)
    else
      let r := scanF fmt conv op excl t acc
      (none :: r.1, r.2)

def scanI (fmt op : Nat) (excl : Bool) : List ScanIn → Nat → List (Option ERes) × Nat
  | [], acc => ([], acc)
  | x :: t, acc =>
    if x.on then
      let acc := if x.seg then iIdentity op fmt else acc
      let nxt := iop (redOp op) fmt acc x.bits 0
      let r := scanI fmt op excl t nxt
      (some ⟨if excl then acc else nxt, .none, 0⟩ :: r.1, r.2)
    else
      let r := scanI fmt op excl t acc
      (none :: r.1, r.2)

/-- A scan of patterns with its carry as the 32 bits of a lane: results, carry out (FP32 by RNE) and flags, which only an active element
sets (R182). -/
def scanRun (fmt conv op : Nat) (excl : Bool) (xs : List ScanIn) (carry : Word) : List (Option ERes) × Word × Nat :=
  if fmtIsFloat fmt then
    let r := scanF fmt conv op excl xs (decodeVal 0 carry.toNat)
    let q := encodeVal 0 false 0 0 r.2.1
    (r.1, BitVec.ofNat 32 q.1, if xs.any (·.on) then r.2.2 ||| resFlags [r.2.1] 0 q.1 q.2 else 0)
  else
    let r := scanI fmt op excl xs carry.toNat
    (r.1, BitVec.ofNat 32 r.2, 0)

/-- A node of the recurrence tree: a·x + y rounded to FP32 by RNE, and its flags (R209). -/
def fmaNode (a x y : FVal) : FVal × Nat :=
  let v := (a.mul x).add y
  let q := encodeVal 0 false 0 0 v
  (decodeVal 0 q.1, resFlags [a, x, y] 0 q.1 q.2)

def mulNode (a x : FVal) : FVal × Nat :=
  let q := encodeVal 0 false 0 0 (a.mul x)
  (decodeVal 0 q.1, resFlags [a, x] 0 q.1 q.2)

/-- A node of the tree: the composed map of a run of elements, and whether a segment starts in the run. -/
structure RecMap where
  a   : FVal
  b   : FVal
  cut : Bool
  deriving DecidableEq, Repr

/-- What a run takes of the state before it: poison, NaN and infinity go no further than a segment start (R210; log 55). -/
def RecMap.takes (x : RecMap) (v : FVal) : FVal := if x.cut && v.isNonfin then .fin false 0 0 else v

/-- A run's map after the map before it, and its flags. -/
def RecMap.after (x y : RecMap) : RecMap × Nat :=
  let a := mulNode x.a (x.takes y.a)
  let b := fmaNode x.a (x.takes y.b) x.b
  (⟨a.1, b.1, x.cut || y.cut⟩, a.2 ||| b.2)

/-- The levels of the tree from distance d. -/
def recTree : Nat → Nat → List RecMap → List RecMap × Nat
  | 0, _, xs => (xs, 0)
  | fuel + 1, d, xs =>
    if d < xs.length then
      let n := List.zipWith RecMap.after (xs.drop d) xs
      let r := recTree fuel (2 * d) (xs.take d ++ n.map (·.1))
      (r.1, orAll (n.map (·.2)) ||| r.2)
    else (xs, 0)

/-- An element of a recurrence: a and b as values, active, segment start, draw. -/
structure RecIn where
  a   : FVal
  b   : FVal
  on  : Bool
  seg : Bool
  u   : Nat
  deriving DecidableEq, Repr

/-- One application of R209; only an active element sets a flag (R182). -/
def recRun (fmt conv : Nat) (xs : List RecIn) (hin : Word) : List (Option ERes) × Word × Nat :=
  let one := FVal.fin false 1 0
  let zero := FVal.fin false 0 0
  let t := recTree 11 1 (xs.map fun x =>
    if !x.on then ⟨one, zero, false⟩ else if x.seg then ⟨zero, x.b, true⟩ else ⟨x.a, x.b, false⟩)
  let h := decodeVal 0 hin.toNat
  let outs := (xs.zip t.1).map fun x =>
    if x.1.on then
      let hh := x.2.takes h
      let v := (x.2.a.mul hh).add x.2.b
      let q := encodeVal fmt (decide (4 ≤ conv)) (conv % 4) x.1.u v
      some (⟨q.1, q.2, resFlags [x.2.a, hh, x.2.b] fmt q.1 q.2⟩ : ERes)
    else none
  let w := t.1.getLastD ⟨one, zero, false⟩
  let last := fmaNode w.a (w.takes h) w.b
  let pois := if xs.any fun x => x.on && (x.a.isPoison || x.b.isPoison) then flPoison else 0
  (outs, BitVec.ofNat 32 (encodeRne 0 last.1),
   if xs.any (·.on) then pois ||| t.2 ||| last.2 ||| orAll (outs.map fun o => (o.map (·.flags)).getD 0) else 0)

/-- Results of a scan as element writes. -/
def resList (rs : List (Option ERes)) : List (Nat × Nat) :=
  ((List.range rs.length).zip rs).filterMap fun x => x.2.map fun r => (x.1, r.bits)

namespace State

/-- VSCAN in the Strip profile (R205, R206). -/
def stripScan (s : State) (c eng : Nat) (e : Entry) : State :=
  s.strip c eng e fun s r v a =>
    let w := fmtWidth r.fmt
    let sm := maskOf v (fld r.imm 7 5)
    let xs := (List.range a.n).map fun i =>
      (⟨groupRead v r.vs1 w i, a.on i, r.imm.testBit 4 && sm.getLsbD i, s.stripDraw c e r.conv i⟩ : ScanIn)
    let q := scanRun r.fmt r.conv (r.imm % 4) (r.imm.testBit 2) xs (lane0 v r.vs3)
    (s.modVec c eng fun v' => setLane0 (writeAct v' a r.vd w (resList q.1)) r.vs3 q.2.1).setVecFlags c eng e q.2.2

/-- VREC in the Strip profile (R208, R209). -/
def stripRec (s : State) (c eng : Nat) (e : Entry) : State :=
  s.strip c eng e fun s r v a =>
    let w := fmtWidth r.fmt
    let sm := maskOf v (fld r.imm 7 5)
    let xs := (List.range a.n).map fun i =>
      (⟨decodeVal r.fmt (groupRead v r.vs1 w i), decodeVal r.fmt (groupRead v r.vs2 w i), a.on i,
        r.imm.testBit 4 && sm.getLsbD i, s.stripDraw c e r.conv i⟩ : RecIn)
    let q := recRun r.fmt r.conv xs (lane0 v r.vs3)
    (s.modVec c eng fun v' => setLane0 (writeAct v' a r.vd w (resList q.1)) r.vs3 q.2.1).setVecFlags c eng e q.2.2

/-! ### The Tensor profile (R173-R177, R189, R211) -/

/-- Elements per chunk (R175; 256 for scans, R211). -/
def chunkMax (s : State) (c eng : Nat) (op : Long) : Nat :=
  let oc := getF op 63 56
  let d := s.tdesc c (getF op 51 40)
  let w := ((s.tensorSrcs c (s.vecAt c eng) op).map TSrc.width).foldl max (fmtWidth d.fmt)
  if oc = 0x58 ∨ oc = 0x5C ∨ 32 ≤ w then 256 else if w = 16 then 512 else 1024

/-- The checks before access of a Tensor-profile instruction, for the whole extent (R177, R180, R181). -/
def tensorFault (s : State) (c : Nat) (ds : List TDesc) : Option (Nat × Nat) :=
  if ds.all fun d => s.ownsDesc c d then
    ds.findSome? fun d =>
      match (List.range d.rows).find? fun r => decide (mib2 < d.off + r * d.stride + d.rowLen) with
      | some r => some (3, r * d.cols)
      | none => ((List.range d.rows).find? fun r => (d.off + r * d.stride) % (if d.g64 then 128 else d.esize) != 0).map fun r =>
          (4, r * d.cols)
  else some (0x0B, 0)

/-- A scalar source as it was read at firing: entry.carry holds the three of them first. -/
def srcAt (s : State) (c : Nat) (e : Entry) (j : Nat) : TSrc :=
  let f := getF e.op (39 - 12 * j) (28 - 12 * j)
  if getF e.op (53 + j) (53 + j) = 1 then .scalar ((e.carry.getD j 0).toNat) else .desc (s.tdesc c f)

/-- A walk stopped by an uncorrectable word: the destination extent is undefined (R85). -/
def tensorBad (s : State) (c : Nat) (e : Entry) (d : TDesc) (k : Chunk) (o : Nat) : State :=
  (s.scrambleFrom d ⟨0, 0, d.cols⟩).fault c e 8 (BitVec.ofNat 32 (k.row * d.cols + k.c0 + o)) none

/-- The end of a chunk: the next one waits for its admission, or the walk is done. -/
def chunkDone (s : State) (c : Nat) (e : Entry) (carry : List Word) : State :=
  let t := s.modEntry c e.uid fun x =>
    { x with chunk := e.chunk + 1, carry := carry, phase := if e.chunk + 1 < e.chunks then .fired else .done }
  if e.chunk + 1 < e.chunks then t else t.waitHeld c e.uid

/-- Writes a chunk's results with their gauge counts and flags. -/
def chunkWrite (s : State) (c eng : Nat) (e : Entry) (d : TDesc) (k : Chunk) (res : List ERes) (fl : Nat) (carry : List Word) : State :=
  let q := s.writeChunk c e.uid d k (res.map (·.bits))
  match q.2 with
  | some a => q.1.tensorBad c e d k ((a - d.addr k.row k.c0) / max 1 d.esize)
  | none =>
    ((q.1.countGauge (((s.core c).part).getD 0) e.step d.tensor (res.map (·.cls))).setVecFlags c eng e fl).chunkDone c e carry

def chunkDraw (s : State) (c : Nat) (e : Entry) (d : TDesc) (k : Chunk) (i : Nat) : Nat :=
  if d.conv % 4 = 2 then draw (s.drawKey (((s.core c).part).getD 0) e.step d.tensor) (d.flat k.row (k.c0 + i)) else 0

/-- A chunk of an element-wise instruction: its first faulting element in walk order decides (R180). -/
def elemChunk (s : State) (c eng : Nat) (e : Entry) (d : TDesc) (k : Chunk) : State :=
  let srcs := (List.range (arity e.opcode)).map fun j => s.srcAt c e j
  let r := srcs.foldl (fun (acc : State × List (Nat × List Nat) × List Nat) x =>
    let q := acc.1.readChunk k x
    (q.1, acc.2.1 ++ [(x.fmt d.fmt, q.2.1)], acc.2.2 ++ q.2.2.toList)) (s, [], [])
  let at' := fun i => r.2.1.map fun x => (x.1, x.2.getD i 0)
  let bad := r.2.2.min?
  match firstBelow (bad.getD k.n) fun i => poisonInt e.opcode d.fmt (at' i) with
  | some i =>
    ((r.1.setVecFlags c eng e flPoison).scrambleFrom d k).fault c e 5 (BitVec.ofNat 32 (k.row * d.cols + k.c0 + i)) none
  | none =>
    match bad with
    | some o => r.1.tensorBad c e d k o
    | none =>
      let res := (List.range k.n).map fun i => elemOp e.opcode d.fmt d.conv (s.chunkDraw c e d k i) (at' i)
      r.1.chunkWrite c eng e d k res (orAll (res.map (·.flags))) e.carry

/-- The carries of the columns of a chunk entering row k.row, or the row's carry in DIR 0: the initial state where the walk
starts, the previous carry afterwards. -/
def initCarry (s : State) (c : Nat) (e : Entry) (d : TDesc) (k : Chunk) : State × List Word × Option Nat :=
  match s.srcAt c e 2 with
  | .scalar b => (s, List.replicate k.n (BitVec.ofNat 32 b), none)
  | .desc x =>
    let q := s.readChunk { k with row := 0 } (.desc x)
    (q.1, q.2.1.map fun b => BitVec.ofNat 32 (if fmtIsFloat d.fmt then encodeRne 0 (decodeVal x.fmt b) else b), q.2.2)

/-- One column's step down a row in DIR 1: VREC's fused multiply-add, or one element of R206 (R211). -/
def downStep (fmt conv op : Nat) (excl isRec : Bool) (a b u : Nat) (carry : Word) : ERes × Word × Nat :=
  if isRec then
    let h := fmaNode (decodeVal fmt a) (decodeVal 0 carry.toNat) (decodeVal fmt b)
    let q := encodeVal fmt (decide (4 ≤ conv)) (conv % 4) u h.1
    (⟨q.1, q.2, 0⟩, BitVec.ofNat 32 (encodeRne 0 h.1), h.2 ||| resFlags [h.1] fmt q.1 q.2)
  else
    let r := scanRun fmt conv op excl [⟨a, true, false, u⟩] carry
    ((r.1.headD none).getD ⟨0, .none, 0⟩, r.2.1, r.2.2)

/-- A chunk of VSCAN or VREC. -/
def scanChunk (s : State) (c eng : Nat) (e : Entry) (d : TDesc) (k : Chunk) : State :=
  let isRec := e.opcode == 0x5C
  let func := getF e.op 3 0
  let dir1 := func.testBit 3
  let x := s.readChunk k (s.srcAt c e 0)
  let y := if isRec then x.1.readChunk k (s.srcAt c e 1) else (x.1, [], none)
  let sc := e.carry.take 3
  let fresh := if dir1 then k.row == 0 else k.c0 == 0
  let i := if fresh then y.1.initCarry c e d k else (y.1, if dir1 then ((e.carry.drop 3).drop k.c0).take k.n else e.carry.drop 3, none)
  match (x.2.2.toList ++ y.2.2.toList ++ i.2.2.toList).min? with
  | some o => i.1.tensorBad c e d k o
  | none =>
    let u := fun j => s.chunkDraw c e d k j
    let a := fun j => x.2.1.getD j 0
    let b := fun j => y.2.1.getD j 0
    if dir1 then
      let rs := (List.range k.n).map fun j =>
        downStep d.fmt d.conv (func % 4) (func.testBit 2) isRec (a j) (b j) (u j) (i.2.1.getD j 0)
      let old := toLenW d.cols (e.carry.drop 3)
      let carry := sc ++ old.take k.c0 ++ rs.map (·.2.1) ++ old.drop (k.c0 + k.n)
      i.1.chunkWrite c eng e d k (rs.map (·.1)) (orAll (rs.map (·.2.2))) carry
    else
      let r :=
        if isRec then
          recRun d.fmt d.conv ((List.range k.n).map fun j => ⟨decodeVal d.fmt (a j), decodeVal d.fmt (b j), true, false, u j⟩)
            (i.2.1.headD 0)
        else scanRun d.fmt d.conv (func % 4) (func.testBit 2) ((List.range k.n).map fun j => ⟨a j, true, false, u j⟩) (i.2.1.headD 0)
      i.1.chunkWrite c eng e d k (r.1.map fun o => o.getD ⟨0, .none, 0⟩) r.2.2 (sc ++ [r.2.1])
where
  toLenW (n : Nat) (l : List Word) : List Word := (l ++ List.replicate (n - l.length) 0#32).take n

/-- The next chunk of a walk. -/
def runChunk (s : State) (c eng : Nat) (e : Entry) : State :=
  let d := s.tdesc c (getF e.op 51 40)
  let k := chunkAt d.rows d.cols (s.chunkMax c eng e.op) e.chunk
  let s := s.vecBeats c 1
  if e.opcode = 0x58 ∨ e.opcode = 0x5C then s.scanChunk c eng e d k else s.elemChunk c eng e d k

/-- The scalars a walk reads when it fires: in the destination's format, or lane 0 whole for a scan's state (R174, R189). -/
def scalarsAt (s : State) (c eng : Nat) (op : Long) : List Word :=
  let v := s.vecAt c eng
  let d := s.tdesc c (getF op 51 40)
  let oc := getF op 63 56
  (List.range 3).map fun j =>
    let f := getF op (39 - 12 * j) (28 - 12 * j)
    if getF op (53 + j) (53 + j) = 1 then
      (if j = 2 ∧ (oc = 0x58 ∨ oc = 0x5C) then lane0 v (f % 32) else BitVec.ofNat 32 (groupRead v (f % 32) (fmtWidth d.fmt) 0))
    else 0

/-- A Tensor-profile instruction fires: its checks, then its first chunk. -/
def tensorStart (s : State) (c eng : Nat) (e : Entry) : State :=
  match s.tensorFault c (s.tensorDescs c (s.vecAt c eng) e.op) with
  | some f => s.fault c e f.1 (BitVec.ofNat 32 f.2) none
  | none =>
    let d := s.tdesc c (getF e.op 51 40)
    let e' := { e with chunk := 0, chunks := chunkCount d.rows d.cols (s.chunkMax c eng e.op), carry := s.scalarsAt c eng e.op }
    (s.modEntry c e.uid fun x => { x with chunk := 0, chunks := e'.chunks, carry := e'.carry }).runChunk c eng e'

/-- An instruction of both profiles. -/
def fireBoth (s : State) (c eng opcode : Nat) (stripBody : State → Entry → State) : State :=
  s.settle (s.fireVecOp c eng opcode fun t e => if e.vset.tensor then t.tensorStart c eng e else stripBody t e)

end State

def execVmov (c : CoreId) (e : Fin 2) (s : State) : Out := .next (s.fireBoth c e 0x10 fun t x => t.stripElem c e x)
def execVmovi (c : CoreId) (e : Fin 2) (s : State) : Out :=
  .next (s.fireVecOp c e 0x11 fun t x => t.stripBits c e x fun r _ _ _ => State.moviBits r.fmt r.imm)
def execVadd (c : CoreId) (e : Fin 2) (s : State) : Out := .next (s.fireBoth c e 0x20 fun t x => t.stripElem c e x)
def execVsub (c : CoreId) (e : Fin 2) (s : State) : Out := .next (s.fireBoth c e 0x21 fun t x => t.stripElem c e x)
def execVmul (c : CoreId) (e : Fin 2) (s : State) : Out := .next (s.fireBoth c e 0x22 fun t x => t.stripElem c e x)
def execVfma (c : CoreId) (e : Fin 2) (s : State) : Out := .next (s.fireBoth c e 0x23 fun t x => t.stripElem c e x)
def execVdiv (c : CoreId) (e : Fin 2) (s : State) : Out := .next (s.fireBoth c e 0x24 fun t x => t.stripElem c e x)
def execVmax (c : CoreId) (e : Fin 2) (s : State) : Out := .next (s.fireBoth c e 0x25 fun t x => t.stripElem c e x)
def execVmin (c : CoreId) (e : Fin 2) (s : State) : Out := .next (s.fireBoth c e 0x26 fun t x => t.stripElem c e x)
def execVabs (c : CoreId) (e : Fin 2) (s : State) : Out := .next (s.fireBoth c e 0x27 fun t x => t.stripElem c e x)
def execVneg (c : CoreId) (e : Fin 2) (s : State) : Out := .next (s.fireBoth c e 0x28 fun t x => t.stripElem c e x)
def execVand (c : CoreId) (e : Fin 2) (s : State) : Out := .next (s.fireBoth c e 0x30 fun t x => t.stripElem c e x)
def execVor (c : CoreId) (e : Fin 2) (s : State) : Out := .next (s.fireBoth c e 0x31 fun t x => t.stripElem c e x)
def execVxor (c : CoreId) (e : Fin 2) (s : State) : Out := .next (s.fireBoth c e 0x32 fun t x => t.stripElem c e x)
def execVshl (c : CoreId) (e : Fin 2) (s : State) : Out := .next (s.fireBoth c e 0x33 fun t x => t.stripElem c e x)
def execVshr (c : CoreId) (e : Fin 2) (s : State) : Out := .next (s.fireBoth c e 0x34 fun t x => t.stripElem c e x)
def execVcmp (c : CoreId) (e : Fin 2) (s : State) : Out := .next (s.fireVecOp c e 0x38 fun t x => t.fireVcmp c e x false)
def execVcmpc (c : CoreId) (e : Fin 2) (s : State) : Out := .next (s.fireVecOp c e 0x39 fun t x => t.fireVcmp c e x true)
def execVpopc (c : CoreId) (e : Fin 2) (s : State) : Out := .next (s.fireVecOp c e 0x3B fun t x => t.fireVpopc c e x)
def execVmand (c : CoreId) (e : Fin 2) (s : State) : Out :=
  .next (s.fireVecOp c e 0x3C fun t x => t.fireMaskOp c e x fun a b => a && b)
def execVmor (c : CoreId) (e : Fin 2) (s : State) : Out :=
  .next (s.fireVecOp c e 0x3D fun t x => t.fireMaskOp c e x fun a b => a || b)
def execVmxor (c : CoreId) (e : Fin 2) (s : State) : Out :=
  .next (s.fireVecOp c e 0x3E fun t x => t.fireMaskOp c e x fun a b => a != b)
def execVmnot (c : CoreId) (e : Fin 2) (s : State) : Out :=
  .next (s.fireVecOp c e 0x3F fun t x => t.fireMaskOp c e x fun a _ => !a)
def execVcvt (c : CoreId) (e : Fin 2) (s : State) : Out := .next (s.fireBoth c e 0x40 fun t x => t.stripElem c e x)
def execVperm (c : CoreId) (e : Fin 2) (s : State) : Out := .next (s.fireVecOp c e 0x48 fun t x => t.fireVperm c e x)
/-- VSLDN: d[e] = a[e + k], zero from outside 0 to n − 1 (R203). -/
def execVsldn (c : CoreId) (e : Fin 2) (s : State) : Out :=
  .next (s.fireVecOp c e 0x49 fun t x => t.stripBits c e x fun r v a i =>
    if i + r.imm % 1024 < a.n then groupRead v r.vs1 (fmtWidth r.fmt) (i + r.imm % 1024) else 0)
/-- VSLUP: d[e] = a[e − k]. -/
def execVslup (c : CoreId) (e : Fin 2) (s : State) : Out :=
  .next (s.fireVecOp c e 0x4A fun t x => t.stripBits c e x fun r v _ i =>
    if r.imm % 1024 ≤ i then groupRead v r.vs1 (fmtWidth r.fmt) (i - r.imm % 1024) else 0)
def execVcompress (c : CoreId) (e : Fin 2) (s : State) : Out := .next (s.fireVecOp c e 0x4C fun t x => t.fireVcompress c e x)
def execVexpand (c : CoreId) (e : Fin 2) (s : State) : Out := .next (s.fireVecOp c e 0x4D fun t x => t.fireVexpand c e x)
def execVred (c : CoreId) (e : Fin 2) (s : State) : Out := .next (s.fireVecOp c e 0x50 fun t x => t.fireVred c e x)
def execVext (c : CoreId) (e : Fin 2) (s : State) : Out := .next (s.fireVecOp c e 0x51 fun t x => t.fireVext c e x)
def execVscan (c : CoreId) (e : Fin 2) (s : State) : Out := .next (s.fireBoth c e 0x58 fun t x => t.stripScan c e x)
def execVrec (c : CoreId) (e : Fin 2) (s : State) : Out := .next (s.fireBoth c e 0x5C fun t x => t.stripRec c e x)

end Sys2Proof.Machine
end

