-- ==== Sys2Proof/Machine/Sfu.lean ====
section
/-! DEFINITION. The special-function unit (R214-R239): tables, rennet programs, gates, service modes, and the slots with
their swaps, reloads and parity errors. -/

namespace Sys2Proof.Machine

/-! ### Tables and programs as bytes (R223, R227) -/

def word32 (b : List Byte) (o : Nat) : Word := BitVec.ofNat 32 (le b o 4)

/-- A culture table (R223); `index` is its place among the partition's tables. -/
def tableAt (b : List Byte) (o index : Nat) : Table :=
  let n := le b (o + 0x0C) 2
  let w := fun k => word32 b (o + k)
  { func := b.getD (o + 5) 0, slot := le b (o + 6) 1, init := le b (o + 7) 1 % 2 == 1,
    core := 16 * le b (o + 8) 1 + le b (o + 9) 1, interp := b.getD (o + 10) 0, accuracy := b.getD (o + 11) 0,
    zeroPos := w 0x10, zeroNeg := w 0x14, posInf := w 0x18, negInf := w 0x1C, low := w 0x20, high := w 0x24, highBreak := w 0x28,
    edge := b.getD (o + 0x2C) 0,
    segs := (List.range n).map fun i => (w (64 + 16 * i), w (68 + 16 * i), w (72 + 16 * i), w (76 + 16 * i)),
    excs := (List.range (le b (o + 0x0E) 2)).map fun i => (w (64 + 16 * n + 8 * i), w (68 + 16 * n + 8 * i)),
    index := index }

/-- A rennet program (R227, R228). -/
def rennetAt (b : List Byte) (o : Nat) : Rennet :=
  ⟨b.getD (o + 5) 0, le b (o + 6) 1, 16 * le b (o + 7) 1 + le b (o + 8) 1, (List.range 16).map fun i => word32 b (o + 0x20 + 4 * i),
   (List.range (le b (o + 9) 1)).map fun i =>
     let e := o + 0x60 + 8 * i
     ⟨le b e 1, le b (e + 1) 1 % 4, le b (e + 2) 1 % 4, le b (e + 3) 1 % 4, le b (e + 4) 2⟩⟩

/-! ### The table store (R230, R320) -/

/-- The table store starts at PPN 981,504 of the slow tier. A partition's sections stand in a 16 MiB share of it, one after the other
(log 56). -/
def storeBase : Nat := 981504 * mib2

def PartImg.storeAt (im : PartImg) (p k : Nat) : Nat := storeBase + 16777216 * p + sumN ((im.store.take k).map (·.length))

/-- Writes a partition's sections to the table store. -/
def State.fillStore (s : State) (p : Nat) (im : PartImg) : State :=
  ((List.range im.store.length).zip im.store).foldl (fun (t : State) q =>
    ((t.traffic serviceClass true (im.storeAt p q.1) q.2.length).tierWrite true (im.storeAt p q.1) q.2).1) s

/-! ### Evaluation (R214, R216, R225, R228) -/


/-- A value rounded to FP32 by RNE. -/
def rnd32 (v : FVal) : FVal := decodeVal 0 (encodeRne 0 v)

/-- A table at a value, exact (R225). -/
def Table.eval (t : Table) (x : FVal) : FVal :=
  let d := fun (w : Word) => decodeVal 0 w.toNat
  match x with
  | .poison => .poison
  | .nan => .nan
  | .inf s => d (if s then t.negInf else t.posInf)
  | .fin s m e =>
    if m = 0 then d (if s then t.zeroNeg else t.zeroPos)
    else
      let key := BitVec.ofNat 32 (encodeRne 0 x)
      match t.excs.find? fun k => k.1 == key with
      | some k => d k.2
      | none =>
        let x := FVal.fin s m e
        let first := d ((t.segs.headD (0, 0, 0, 0)).1)
        if x.lt first && t.edge.getLsbD 0 then d t.low
        else if !(x.lt (d t.highBreak)) && t.edge.getLsbD 1 then d t.high
        else
          let seg := ((t.segs.filter fun g => !(x.lt (d g.1))).getLast?).getD (t.segs.headD (0, 0, 0, 0))
          let u := x.sub (d seg.1)
          (d seg.2.1).add (((d seg.2.2.1).mul u).add (((d seg.2.2.2).mul u).mul u))

/-- The 16-byte entry that a lookup of a value reads (R223, R225, R233): the exception of that key (two exceptions to an entry, behind the
segments), or the segment that holds the value; none where the header's fields give the result. -/
def Table.entryOf (t : Table) (x : FVal) : Option Nat :=
  let d := fun (w : Word) => decodeVal 0 w.toNat
  match x with
  | .fin s m e =>
    if m = 0 then none
    else
      let key := BitVec.ofNat 32 (encodeRne 0 x)
      match t.excs.findIdx? fun k => k.1 == key with
      | some j => some (t.segs.length + j / 2)
      | none =>
        let x := FVal.fin s m e
        if x.lt (d ((t.segs.headD (0, 0, 0, 0)).1)) && t.edge.getLsbD 0 then none
        else if !(x.lt (d t.highBreak)) && t.edge.getLsbD 1 then none
        else some ((t.segs.filter fun g => !(x.lt (d g.1))).length - 1)
  | _ => none

/-- The working values of a rennet program (R228). -/
structure RenSt where
  w : List FVal
  k : Int
  deriving DecidableEq, Repr

/-- The integer of RRED: RNE, NaN 0, saturated as an integer conversion and clamped to ±32,767. -/
def rredK (p : FVal) : Int := max (-32767) (min 32767 (intOf 9 (roundInt 9 0 0 p).1))

/-- Horner evaluation by one fused multiply-add per level. -/
def horner (x : FVal) : List FVal → FVal → FVal
  | [], acc => acc
  | c :: t, acc => horner x t (rnd32 ((acc.mul x).add c))

/-- One step of a program on a lane whose input is x; `tab` is the lookup of a slot, rounded to FP32. -/
def RStep.run (st : RStep) (consts : List Word) (tab : Nat → FVal → FVal) (x : FVal) (r : RenSt) : RenSt :=
  let cst := fun i => decodeVal 0 (consts.getD i 0).toNat
  let a := r.w.getD st.src1 pZero
  let b := r.w.getD st.src2 pZero
  let put := fun (v : FVal) => r.w.set st.dst v
  let i := st.arg % 16
  match st.op with
  | 1 =>
    let k := rredK (a.mul (cst (i + 2)))
    let nk := FVal.ofInt (-k)
    ⟨put (rnd32 ((nk.mul (cst (i + 1))).add (rnd32 ((nk.mul (cst i)).add a)))), k⟩
  | 2 => ⟨put (tab i a), r.k⟩
  | 3 =>
    let deg := fld st.arg 5 4 + 1
    ⟨put (horner a ((List.range deg).reverse.map fun j => cst (i + j)) (cst (i + deg))), r.k⟩
  | 4 => ⟨put (rnd32 (a.mul (.fin false 1 r.k))), r.k⟩
  | 5 =>
    ⟨put (match st.arg % 4 with
      | 0 => rnd32 (a.add b)
      | 1 => rnd32 (a.sub b)
      | 2 => rnd32 (a.mul b)
      | _ => if x.sign then b else a), r.k⟩
  | _ => ⟨put (cst i), r.k⟩

/-- A rennet program at a value: w0 after the last step. -/
def Rennet.eval (p : Rennet) (tab : Nat → FVal → FVal) (x : FVal) : FVal :=
  match x with
  | .poison => .poison
  | x => ((p.steps.foldl (fun r (st : RStep) => st.run p.consts tab x r) ⟨[x, pZero, pZero, pZero], 0⟩).w).headD pZero

/-- The lookups of a program at a value: slot and looked-up value of each LOOK step. -/
def Rennet.looks (p : Rennet) (tab : Nat → FVal → FVal) (x : FVal) : List (Nat × FVal) :=
  match x with
  | .poison => []
  | x =>
    (p.steps.foldl (fun (q : RenSt × List (Nat × FVal)) (st : RStep) =>
      (st.run p.consts tab x q.1, if st.op = 2 then q.2 ++ [(st.arg % 16, q.1.w.getD st.src1 pZero)] else q.2))
      (⟨[x, pZero, pZero, pZero], 0⟩, [])).2

/-! ### Operation words (R218-R220) -/

structure SfWord where
  oc    : Nat
  tens  : Bool
  eng   : Nat
  func  : Nat
  slot  : Nat
  slot2 : Nat
  fid   : Bool
  m     : Bool
  zm    : Bool
  mreg  : Nat
  vd    : Nat
  vs1   : Nat
  vs2   : Nat
  fmt   : Nat
  sfmt  : Nat
  conv  : Nat
  td    : Nat
  ts1   : Nat
  ts2   : Nat
  deriving DecidableEq, Repr

def sfWord (op : Long) : SfWord :=
  ⟨getF op 63 56, getF op 55 55 == 1, getF op 54 54, getF op 53 46, getF op 45 42, getF op 41 38, getF op 37 37 == 1, getF op 36 36 == 1,
   getF op 35 35 == 1, getF op 34 32, getF op 31 27, getF op 26 22, getF op 21 17, getF op 16 13, getF op 12 9, getF op 8 6,
   getF op 35 24, getF op 23 12, getF op 11 0⟩

def slotOf (k : Core) (i : Nat) : Slot := k.slots.get Slot.empty i

/-- Does a slot hold an active table in good order? -/
def Slot.valid (x : Slot) : Bool := x.state == 1 && x.active.isSome

def Slot.func (x : Slot) : Nat := (x.active.map fun t => t.func.toNat).getD 0

/-- How an instruction is served (R215): normal, from ROM, or default NaN. -/
inductive SMode where
  | normal
  | rom
  | nan
  deriving DecidableEq, Repr

def SMode.code : SMode → Word
  | .normal => 0
  | .rom => 1
  | .nan => 2

def SMode.ofCode (w : Word) : SMode := if w = 0 then .normal else if w = 1 then .rom else .nan

/-- The slots an instruction reads, each with the function code it must hold where the word names one: the slot of f in a
gate has a code of its own table (R215, R226). -/
def slotNeeds (k : Core) (w : SfWord) : List (Nat × Option Nat) :=
  match w.oc with
  | 0x60 => [(w.slot, some w.func)]
  | 0x61 => (w.slot, some w.func) :: (if w.fid then [] else [(w.slot2, none)])
  | _ => (((k.pslots.get ⟨0, 0, 0, [], []⟩ w.slot).steps.filter fun st => st.op == 2).map fun st => (st.arg % 16, some w.func))

def slotMatches (k : Core) (n : Nat × Option Nat) : Bool :=
  match n.2 with
  | none => true
  | some f => (slotOf k n.1).func == f

/-- The code of f in a gate with two tables: that of the second slot's table, and where the slot is empty the word's own (R215; log 26). -/
def gateCode (k : Core) (w : SfWord) : Nat :=
  let sl := slotOf k w.slot2
  if sl.active.isSome then sl.func else w.func

/-- Can the word be served from ROM: has every function that it evaluates a ROM table (R214, R215)? -/
def romServes (k : Core) (w : SfWord) : Bool := hasRom w.func && (w.oc != 0x61 || w.fid || hasRom (gateCode k w))

/-- The service mode chosen at firing, and whether a slot holds a table of another function. -/
def modeOf (k : Core) (w : SfWord) : SMode × Bool :=
  let ns := slotNeeds k w
  let ok := ns.all (fun n => (slotOf k n.1).valid && slotMatches k n) && (w.oc != 0x62 || k.pslots.has w.slot)
  let mism := ns.any fun n => (slotOf k n.1).valid && !slotMatches k n
  (if ok then .normal else if romServes k w then .rom else .nan, mism)

/-- Lookups one element makes into a single slot at most (R222). -/
def lookups (k : Core) (w : SfWord) : Nat :=
  match w.oc with
  | 0x61 => if !w.fid && w.slot2 == w.slot then 2 else 1
  | 0x62 =>
    let ls := ((k.pslots.get ⟨0, 0, 0, [], []⟩ w.slot).steps.filter fun st => st.op == 2).map fun st => st.arg % 16
    max 1 ((ls.map fun a => (ls.filter fun b => b == a).length).foldl max 0)
  | _ => 1

/-- The value of an element before its last rounding to the result format `fmt`: x, and y for a gate. `f2` is the code of f (`gateCode`). In ROM
service R216's bound holds a whole result in its format, and each factor of a gate in FP32 (log 7). -/
def sfValue (k : Core) (w : SfWord) (mode : SMode) (f2 fmt : Nat) (x y : FVal) : FVal :=
  let tab := fun (i : Nat) (v : FVal) => match (slotOf k i).active with | some t => t.eval v | none => .nan
  match mode with
  | .normal =>
    match w.oc with
    | 0x60 => tab w.slot x
    | 0x61 => (rnd32 (tab w.slot x)).mul (if w.fid then y else rnd32 (tab w.slot2 y))
    | _ => (k.pslots.get ⟨0, 0, 0, [], []⟩ w.slot).eval (fun i v => rnd32 (tab i v)) x
  | .rom =>
    if w.oc = 0x61 then (rnd32 (romEval 0 w.func x)).mul (if w.fid then y else rnd32 (romEval 0 f2 y)) else romEval fmt w.func x
  | .nan => if x.isPoison || (w.oc == 0x61 && y.isPoison) then .poison else .nan

/-- The lookups of an element in normal service. -/
def sfLooks (k : Core) (w : SfWord) (x y : FVal) : List (Nat × FVal) :=
  match w.oc with
  | 0x60 => [(w.slot, x)]
  | 0x61 => (w.slot, x) :: (if w.fid then [] else [(w.slot2, y)])
  | _ =>
    (k.pslots.get ⟨0, 0, 0, [], []⟩ w.slot).looks
      (fun i v => match (slotOf k i).active with | some t => rnd32 (t.eval v) | none => .nan) x

/-- The slots in which a lookup reads an entry whose parity is bad (R233). -/
def badLooks (k : Core) (l : List (Nat × FVal)) : List Nat :=
  (l.filter fun q => match (slotOf k q.1).active with
    | some t => (match t.entryOf q.2 with | some j => hasN (slotOf k q.1).parity j | none => false)
    | none => false).map (·.1)

namespace State

/-! ### Firing -/

/-- Is a slot, or the program slot, still to be reloaded or rewritten, so that a function without a ROM table waits (R215)? -/
def slotWaits (s : State) (c : Nat) (w : SfWord) (gens : FMap Nat) : Bool :=
  let k := s.core c
  !romServes k w && (gens.any (fun g => (slotOf k g.1).state == 2 || (slotOf k g.1).state == 3) ||
    (w.oc == 0x62 && !k.pslots.has w.slot &&
      match s.imgOf c with
      | none => false
      | some im => (im.rennetOf k.logical w.slot).isSome))

/-- The tensor descriptors of a tensor-mode word. -/
def sfDescs (s : State) (c : Nat) (w : SfWord) : List TDesc :=
  s.tdesc c w.td :: s.tdesc c w.ts1 :: (if w.oc = 0x61 then [s.tdesc c w.ts2] else [])

/-- Can the unit accept the instruction (R68, R167, R229, R231)? -/
def sfuAccepts (s : State) (c : Nat) (e : Entry) : Bool :=
  let k := s.core c
  if e.opcode = 0x64 then
    let sl := slotOf k (getF e.op 45 42)
    sl.shadow.isNone && (sl.gen.toNat + 1) % 65536 == e.gens.get 0 (getF e.op 45 42)
  else
    let w := sfWord e.op
    (e.gens.all fun g => (slotOf k g.1).gen.toNat == g.2) && !s.slotWaits c w e.gens &&
    (k.window.all fun x => !(x.unit == 4 && decide (x.phase = .fired ∧ x.chunk < x.chunks))) &&
    (if w.tens then (s.sfDescs c w).all s.descFree else vlenKnown e)

/-- An instruction flagged under R217: its flag, its count, the event, and its part in the step's report. -/
def flagFallback (s : State) (c : Nat) (e : Entry) : State :=
  let t := ((s.flag .sfuFlags (cix c) 1).bump .sfuFallback (cix c) 31 0).pmc c 0x07 1
  let t := t.modEntry c e.uid fun x => { x with fallback := true }
  match (s.core c).part with
  | none => t
  | some p =>
    let t := t.modPart p fun x =>
      let f := x.flagged.get (e.off, 0) e.step.toNat
      { x with flagged := x.flagged.set e.step.toNat (f.1, f.2 + 1),
               fellBack := if x.fellBack.any fun w => w == e.step then x.fellBack else x.fellBack ++ [e.step] }
    if t.firing p then t else t.reportAll p

/-- A slot one of whose entries failed its parity becomes invalid. -/
def spoilSlot (slots : List Nat) (x : Nat × Slot) : Nat × Slot :=
  if hasN slots x.1 && !x.2.parity.isEmpty && x.2.state == 1 then (x.1, { x.2 with state := 2 }) else x

/-- A lookup that meets a parity error: the flag, and the slot invalid (R233). -/
def parityMet (s : State) (c : Nat) (slots : List Nat) : State :=
  (s.flag .sfuFlags (cix c) 3).modCore c fun k => { k with slots := k.slots.map (spoilSlot slots) }

/-- The first element of a list, with its number, that meets a parity error, and the slots in which it does. -/
def firstBad (k : Core) (w : SfWord) (xs : List (FVal × FVal × Nat)) : Option (Nat × List Nat) :=
  match xs.findIdx? fun x => !(badLooks k (sfLooks k w x.1 x.2.1)).isEmpty with
  | none => none
  | some j => (xs[j]?).map fun x => (j, badLooks k (sfLooks k w x.1 x.2.1))

/-- The elements of an instruction or a chunk, in order, under a mode: their results, the state with the flags they set,
and the mode afterwards. Each element has its source values and its draw. The element that meets a parity error, and every
later one, is served in fallback mode (R233). -/
def sfRun (s : State) (c : Nat) (e : Entry) (w : SfWord) (fmt conv : Nat) (mode : SMode) (f2 : Nat) (xs : List (FVal × FVal × Nat)) :
    State × List ERes × SMode :=
  let k := s.core c
  let clean := decide (mode ≠ .normal) || (slotNeeds k w).all fun n => (slotOf k n.1).parity.isEmpty
  let q := if clean then (s, xs.length, mode) else
    match firstBad k w xs with
    | none => (s, xs.length, mode)
    | some b => ((s.parityMet c b.2).flagFallback c e, b.1, if romServes k w then SMode.rom else .nan)
  let one := fun (m : SMode) (x : FVal × FVal × Nat) =>
    let r := encodeVal fmt (decide (4 ≤ conv)) (conv % 4) x.2.2 (sfValue k w m f2 fmt x.1 x.2.1)
    (⟨r.1, r.2, 0⟩ : ERes)
  let res := (xs.take q.2.1).map (one mode) ++ (xs.drop q.2.1).map (one q.2.2)
  let pois := xs.any fun x => x.1.isPoison || (w.oc == 0x61 && x.2.1.isPoison)
  let s := if pois then (q.1.flag .sfuFlags (cix c) 0).poisonIn c (((s.core c).part).getD 0) e.step else q.1
  (s, res, q.2.2)

/-- Register mode (R219, R221). -/
def sfRegister (s : State) (c : Nat) (e : Entry) (w : SfWord) (mode : SMode) (f2 : Nat) : State :=
  let v := s.vecAt c w.eng
  let a := actOf v e.vset w.m w.zm w.mreg
  let s := s.pmc c 0x06 ((a.n + 255) / 256 * lookups (s.core c) w)
  let xs := a.elems.map fun i =>
    (decodeVal w.sfmt (groupRead v w.vs1 (fmtWidth w.sfmt) i), decodeVal w.sfmt (groupRead v w.vs2 (fmtWidth w.sfmt) i),
     s.stripDraw c e w.conv i)
  let r := s.sfRun c e w w.fmt w.conv mode f2 xs
  r.1.modVec c w.eng fun v' => writeAct v' a w.vd (fmtWidth w.fmt) ((a.elems.zip r.2.1).map fun x => (x.1, x.2.bits))

/-- The next chunk of a tensor-mode instruction (R220, R222); the entry's carry holds its mode and f's code. -/
def sfChunk (s : State) (c : Nat) (e : Entry) : State :=
  let w := sfWord e.op
  let d := s.tdesc c w.td
  let k := chunkAt d.rows d.cols 256 e.chunk
  let mode := SMode.ofCode (e.carry.getD 0 0)
  let f2 := (e.carry.getD 1 0).toNat
  let dx := s.tdesc c w.ts1
  let dy := s.tdesc c w.ts2
  let x := (s.pmc c 0x06 (lookups (s.core c) w)).readChunk k (.desc dx)
  let y := if w.oc = 0x61 then x.1.readChunk k (.desc dy) else (x.1, [], none)
  match x.2.2 <|> y.2.2 with
  | some o => y.1.tensorBad c e d k o
  | none =>
    let xs := (List.range k.n).map fun i =>
      (decodeVal dx.fmt (x.2.1.getD i 0), decodeVal dy.fmt (y.2.1.getD i 0), s.chunkDraw c e d k i)
    let r := y.1.sfRun c e w d.fmt d.conv mode f2 xs
    r.1.chunkWrite c 0 e d k r.2.1 0 [r.2.2.code, BitVec.ofNat 32 f2]

/-- SFEVAL, SFGATE and SFRENNET fire: the mode is chosen for the whole instruction (R215). -/
def fireSf (s : State) (c : Nat) (e : Entry) : State :=
  let w := sfWord e.op
  let q := modeOf (s.core c) w
  let f2 := gateCode (s.core c) w
  let mark := fun (t : State) =>
    let t := if q.2 then t.flag .sfuFlags (cix c) 2 else t
    if q.1 = .normal then t else t.flagFallback c e
  if w.tens then
    match s.tensorFault c (s.sfDescs c w) with
    | some f => s.fault c e f.1 (BitVec.ofNat 32 f.2) none
    | none =>
      let d := s.tdesc c w.td
      let n := chunkCount d.rows d.cols 256
      let carry := [q.1.code, BitVec.ofNat 32 f2]
      (mark (s.modEntry c e.uid fun x => { x with chunk := 0, chunks := n, carry := carry })).sfChunk c
        { e with chunk := 0, chunks := n, carry := carry }
  else if boundN e.vset = 0 then s
  else (mark s).sfRegister c e w q.1 f2

/-- SFTABLE reads its table from the table store into the slot's shadow copy, in the partition's slow-tier class; an error that class C
cannot correct faults it, with no virtual address (R230, R231). -/
def fireSftable (s : State) (c : Nat) (e : Entry) : State :=
  let i := getF e.op 45 42
  let k := getF e.op 8 0
  match s.imgOf c, (s.core c).part with
  | some im, some p =>
    let n := (im.store.getD k []).length
    let r := (s.traffic p true (im.storeAt p k) n).tierRead true (im.storeAt p k) n
    match r.bad with
    | some _ => r.st.fault c e 8 noIndex none
    | none =>
      let t := tableAt (r.bytes.map fun b => b.getD 0) 0 k
      (r.st.modCore c fun k =>
        { k with slots := k.slots.set i { slotOf k i with shadow := some (e.gens.get 0 i, t), loaded := false } }).setPhase c e.uid .fired
  | _, _ => s

/-- The beats that have passed may have completed a shadow copy; when is the transfer's, a free value (R230, R236; log 56). -/
def shadowsMove (s : State) (c : Nat) : State :=
  if (s.core c).slots.any fun x => x.2.shadow.isSome && !x.2.loaded then
    (s.modCore c fun k => { k with slots := k.slots.map fun x =>
      if x.2.shadow.isSome && Config.shadowLoaded s.fresh x.1 then (x.1, { x.2 with loaded := true }) else x }).usedFresh
  else s

/-- The keeper's read of a section of the table store; none where class C cannot correct it (R232, R323; log 56). -/
def storeRead (s : State) (p : Nat) (im : PartImg) (k : Nat) : State × Option (List Byte) :=
  let n := (im.store.getD k []).length
  let r := s.keeperRead (im.storeAt p k) n
  (r.1, if r.2.isNone then some (r.1.bytesAt (.tier true) (im.storeAt p k) n) else none)

/-- SLOT_SWAP: the shadow becomes the active copy once every instruction bound to the old generation has completed (R230). -/
def slotSwap (s : State) (c i : Nat) : State :=
  let k := s.core c
  let sl := slotOf k i
  match sl.shadow with
  | none => s
  | some (g, t) =>
    if k.window.any fun e => e.unit == 4 && e.opcode != 0x64 && e.gens.has i && e.gens.get 0 i == sl.gen.toNat then s
    else
      s.modCore c fun k =>
        { k with slots := k.slots.set i ⟨some t, none, BitVec.ofNat 16 g, 1, [], false⟩,
                 window := k.window.map fun e =>
                   if e.unit = 4 ∧ e.opcode = 0x64 ∧ getF e.op 45 42 = i ∧ e.phase = .fired then { e with phase := .done } else e }

/-- The keeper writes a slot's active copy anew from the table store; where it cannot read the table, the slot stays as it is. -/
def slotRestore (s : State) (c i : Nat) : State :=
  let sl := slotOf (s.core c) i
  match sl.active, s.imgOf c, (s.core c).part with
  | some t, some im, some p =>
    let r := s.storeRead p im t.index
    match r.2 with
    | some b => r.1.modCore c fun k => { k with slots := k.slots.set i { sl with active := some (tableAt b 0 t.index), state := 1, parity := [] } }
    | none => r.1
  | _, _, _ => s.modCore c fun k => { k with slots := k.slots.set i { sl with state := if sl.active.isSome then 1 else 0, parity := [] } }

/-- SLOT_RELOAD: the keeper reloads a slot, and the program slot of the same number, from the table store (R232). -/
def slotReload (s : State) (c i : Nat) : State :=
  let s := if (slotOf (s.core c) i).state = 3 then s.slotRestore c i else s
  let k := s.core c
  match s.imgOf c, k.part with
  | some im, some p =>
    match im.rennetOf k.logical i with
    | none => s
    | some j =>
      let r := s.storeRead p im (im.tables.length + j)
      match r.2 with
      | some b => r.1.modCore c fun k => { k with pslots := k.pslots.set i (rennetAt b 0) }
      | none => r.1
  | _, _ => s

/-- SLOT_PARITY_REWRITE: the keeper rewrites the active copy from the table store (R233). -/
def slotRewrite (s : State) (c i : Nat) : State := if (slotOf (s.core c) i).state = 2 then s.slotRestore c i else s

end State

def execSfeval (c : CoreId) (s : State) : Out := .next (s.settle (s.fireOp c 4 0x60 (s.sfuAccepts c) fun t e => t.fireSf c e))
def execSfgate (c : CoreId) (s : State) : Out := .next (s.settle (s.fireOp c 4 0x61 (s.sfuAccepts c) fun t e => t.fireSf c e))
def execSfrennet (c : CoreId) (s : State) : Out := .next (s.settle (s.fireOp c 4 0x62 (s.sfuAccepts c) fun t e => t.fireSf c e))
def execSftable (c : CoreId) (s : State) : Out := .next (s.settle (s.fireOp c 4 0x64 (s.sfuAccepts c) fun t e => t.fireSftable c e))
def execSlotSwap (c : CoreId) (slot : Fin 16) (s : State) : Out := .next (s.slotSwap c slot)
def execSlotReload (c : CoreId) (slot : Fin 16) (s : State) : Out := .next (s.settle (s.slotReload c slot))
def execSlotParityRewrite (c : CoreId) (slot : Fin 16) (s : State) : Out := .next (s.settle (s.slotRewrite c slot))

end Sys2Proof.Machine
end

