-- ==== Sys2Proof/Machine/Stream.lean ====
section
/-! DEFINITION. What a core's stream engine can accept (R68, R240, R272, R437, R444), shared by every instruction of
UNIT 0x05. -/

namespace Sys2Proof.Machine

/-- The opcodes that share the stream engine's 8 places (R272). -/
def isMover (oc : Nat) : Bool := hasN [0x10, 0x11, 0x30, 0x31, 0x32, 0x76, 0x78] oc

def isStat (oc : Nat) : Bool := hasN [0x70, 0x71, 0x72] oc

namespace State

/-- A place named by a SPACE bit and a LOC byte of a descriptor. -/
def spacePlace (s : State) (c space loc : Nat) : List (Option Place) :=
  if space % 2 = 1 then [s.locPlace (c / 16) loc] else []

/-- The vats and pool banks that a stream instruction names. -/
def strmPlaces (s : State) (c : Nat) (op : Long) : List (Option Place) :=
  let cl := c / 16
  match getF op 63 56 with
  | 0x10 | 0x11 =>
    let d := s.desc c (getF op 55 44)
    s.locPlace cl (dF d 3 1) :: s.spacePlace c (dF d 1 1) (dF d 2 1)
  | 0x30 | 0x31 | 0x32 =>
    let x := s.desc c (getF op 55 44)
    let l := s.desc c (getF op 43 32)
    [s.locPlace cl (dF l 1 1), s.locPlace cl (dF l 2 1)] ++ s.spacePlace c (dF x 5 1) (dF x 6 1)
  | 0x40 => [s.locPlace cl (if getF op 55 55 = 1 then 64 + getF op 53 50 else getF op 54 50)]
  | 0x70 => [(s.tdesc c (getF op 55 44)).place, s.locPlace cl (getF op 41 37)]
  | 0x71 => [s.locPlace cl (getF op 55 51), s.locPlace cl (getF op 35 31)]
  | 0x72 => [s.locPlace cl (getF op 55 51)]
  | _ => []

/-- Stream instructions of a core that have fired and not completed. -/
def movers (s : State) (c : Nat) : Nat :=
  ((s.core c).window.filter fun x => x.unit == 5 && isMover x.opcode && decide (x.phase ≠ .waiting)).length

/-- Has a partition a FERRY that has fired and whose done token has not come (R437, R446)? -/
def ferrying (s : State) (p : Nat) : Bool :=
  s.ferries.any (fun f => f.part == p) || (s.coresOf p).any fun c => (s.core c).window.any fun x =>
    x.unit == 5 && x.opcode == 0x7C && decide (x.phase ≠ .waiting) && decide (x.phase ≠ .faulted)

/-- Can the stream engine accept the instruction? -/
def strmAccepts (s : State) (c : Nat) (e : Entry) : Bool :=
  let oc := e.opcode
  let p := ((s.core c).part).getD 0
  (s.strmPlaces c e.op).all s.placeFree &&
  (!isMover oc || decide (s.movers c < 8)) &&
  (!isStat oc || (s.core c).window.all fun x => !(x.unit == 5 && decide (x.phase = .fired ∧ x.chunk < x.chunks))) &&
  (!(oc == 0x7C) || (decide (s.ferries.length < 4) && !s.ferrying p)) &&
  (!(oc == 0x76 || oc == 0x77) || decide ((s.part p).xwaits.length < 16))

/-- Bytes moved by the stream engine for the counters (R540). -/
def strmBytes (s : State) (c n : Nat) : State := s.pmc c 0x08 ((n + 127) / 128)

end State

end Sys2Proof.Machine
end

