-- ==== Sys2Proof/Machine/Rowstat.lean ====
section
/-! DEFINITION. Row statistics (R240-R254): RSTAT, RSMERGE and RSFIN over partial and final records. -/

namespace Sys2Proof.Machine

/-! ### Operations that each round once to FP32 (R245) -/

def fadd (a b : FVal) : FVal := rnd32 (a.add b)
def fsub (a b : FVal) : FVal := rnd32 (a.sub b)
def fmul (a b : FVal) : FVal := rnd32 (a.mul b)
def fdiv (a b : FVal) : FVal := rnd32 (a.div b)
def ffma (a b c : FVal) : FVal := rnd32 ((a.mul b).add c)

/-- A compensated sum. -/
structure Pair where
  hi : FVal
  lo : FVal
  deriving DecidableEq, Repr

def Pair.zero : Pair := ⟨pZero, pZero⟩

/-- R245's twosum as it is written: where the sum overflows, the low part comes out NaN, and so do RMS and INVRMS of such an S3; R251's example of an S3
at +∞ then stands for one whose low part is +0 (DESIGN CHOICE, log 59). -/
def twosum (a b : FVal) : Pair :=
  let s := fadd a b
  let z := fsub s a
  ⟨s, fadd (fsub a (fsub s z)) (fsub b z)⟩

def Pair.join (p q : Pair) : Pair :=
  let t := twosum p.hi q.hi
  ⟨t.hi, fadd (fadd p.lo q.lo) t.lo⟩

/-- One level of the chunk tree: position p joins with its neighbour. -/
def pairUp : List Pair → List Pair
  | a :: b :: t => a.join b :: pairUp t
  | l => l

/-- The 8 levels over 256 positions; a position with no element contributes (+0, 0) (R246). -/
def chunkTree (l : List Pair) : Pair :=
  let full := (l ++ List.replicate (256 - l.length) Pair.zero).take 256
  ((List.range 8).foldl (fun x _ => pairUp x) full).headD Pair.zero

/-- E(t) for t ≤ 0 (R247): 1 at zero, +0 at −∞, and otherwise one of the two FP32 values around e^t, which one the spec does not say
(log 7). -/
def expAt (t : FVal) : FVal :=
  match t with
  | .inf true => pZero
  | .fin _ m e =>
    if m = 0 then pOne
    else
      let q := (fxExp (-scaleTo false m e (-512))).toNat
      let u : Int := max ((q.log2 : Int) - 535) (-149)
      .fin false (q >>> (u + 512).toNat + (Config.expUp (BitVec.ofNat 32 (encodeRne 0 t))).toNat) u
  | .inf false => .inf false
  | v => v

/-- A pair scaled by E(t); (+0, 0) is not scaled (R247). -/
def Pair.scale (p : Pair) (t : FVal) : Pair :=
  if p = Pair.zero || (p.hi.isZero && p.lo.isZero) then p else ⟨fmul p.hi (expAt t), fmul p.lo (expAt t)⟩

/-! ### Records (R243, R244) -/

structure Partial where
  n     : Nat
  flags : Nat
  k     : FVal
  mx    : FVal
  s1    : Pair
  s2    : Pair
  s3    : Pair
  smMax : FVal
  sm    : Pair
  deriving DecidableEq, Repr

/-- The record of a row that starts, with its shift value. -/
def Partial.fresh (k : FVal) : Partial :=
  ⟨0, 0, k, .inf true, Pair.zero, Pair.zero, Pair.zero, .inf true, Pair.zero⟩

def f32At (b : List Byte) (o : Nat) : FVal := decodeVal 0 (le b o 4)
def pairAt (b : List Byte) (o : Nat) : Pair := ⟨f32At b o, f32At b (o + 4)⟩

def Partial.ofBytes (b : List Byte) : Partial :=
  ⟨le b 0 4, le b 4 4, f32At b 8, f32At b 0x0C, pairAt b 0x10, pairAt b 0x18, pairAt b 0x20, f32At b 0x28, pairAt b 0x2C⟩

def f32Bytes (v : FVal) : List Byte := leBytes 4 (encodeRne 0 v)

def Pair.bytes (p : Pair) : List Byte := f32Bytes p.hi ++ f32Bytes p.lo

def Partial.bytes (r : Partial) : List Byte :=
  leBytes 4 r.n ++ leBytes 4 r.flags ++ f32Bytes r.k ++ f32Bytes r.mx ++ r.s1.bytes ++ r.s2.bytes ++ r.s3.bytes ++
  f32Bytes r.smMax ++ r.sm.bytes ++ fill 12 0

/-- The sum of two counts with its saturation flag. -/
def countAdd (a b : Nat) : Nat × Nat := (min (a + b) 0xFFFFFFFF, if 2 ^ 32 ≤ a + b then 16 else 0)

/-- The softmax part of a fold (R247): maximum and sum of a part into the row's. -/
def foldSm (m : FVal) (sm : Pair) (mc : FVal) (lc : Pair) : FVal × Pair :=
  let top := fMax m mc
  (top, (sm.scale (fsub m top)).join (lc.scale (fsub mc top)))

/-- The elements of a chunk into the row's record (R245-R247). -/
def Partial.chunk (r : Partial) (xs : List FVal) : Partial :=
  let fin := fun (v : FVal) => !v.isNonfin
  let term := fun (f : FVal → FVal) => xs.map fun x => if fin x then (⟨f x, pZero⟩ : Pair) else Pair.zero
  let d := fun (x : FVal) => fsub x r.k
  let ms := xs.filter fun x => fin x || x == .inf true
  let mc := ms.foldl fMax (.inf true)
  let lc := if mc = .inf true then Pair.zero
    else chunkTree (xs.map fun x => if fin x || x == .inf true then (⟨expAt (fsub x mc), pZero⟩ : Pair) else Pair.zero)
  let q := foldSm r.smMax r.sm mc lc
  let c := countAdd r.n xs.length
  let fl := (if xs.any FVal.isPoison then 1 else 0) ||| (if xs.any fun x => x == .nan then 2 else 0) |||
    (if xs.any fun x => x == .inf false then 4 else 0) ||| (if xs.any fun x => x == .inf true then 8 else 0)
  { n := c.1, flags := r.flags ||| fl ||| c.2, k := r.k, mx := (xs.filter fun x => !x.isNaN).foldl fMax r.mx,
    s1 := r.s1.join (chunkTree (term d)), s2 := r.s2.join (chunkTree (term fun x => fmul (d x) (d x))),
    s3 := r.s3.join (chunkTree (term fun x => fmul x x)), smMax := q.1, sm := q.2 }

def Partial.row (r : Partial) (xs : List FVal) : Partial := (chunksOf 256 xs).foldl Partial.chunk r

/-- The shift value of a row: its first finite element, or +0 (R245). -/
def shiftOf (xs : List FVal) : FVal := (xs.find? fun x => !x.isNonfin).getD pZero

/-- RSMERGE of two partial records that both hold elements (R249). -/
def Partial.merge (a b : Partial) : Partial :=
  let delta := fsub b.k a.k
  let nb := rnd32 (.fin false b.n 0)
  let q := foldSm a.smMax a.sm b.smMax b.sm
  let c := countAdd a.n b.n
  { n := c.1, flags := (a.flags ||| b.flags) ||| c.2, k := a.k, mx := fMax a.mx b.mx,
    s1 := (a.s1.join b.s1).join ⟨fmul nb delta, pZero⟩,
    s2 := (a.s2.join b.s2).join ⟨ffma (fmul (.fin false 2 0) delta) b.s1.hi (fmul (fmul nb delta) delta), pZero⟩,
    s3 := a.s3.join b.s3, smMax := q.1, sm := q.2 }

/-! ### Finishing (R250, R251) -/

/-- 1/√v, correctly rounded. -/
def rsqrt (v : FVal) : FVal := rnd32 (pOne.div v.sqrt)

structure Final where
  mean   : FVal
  var    : FVal
  invstd : FVal
  rms    : FVal
  invrms : FVal
  sum    : FVal
  mx     : FVal
  smMax  : FVal
  smSum  : FVal
  n      : Nat
  flags  : Nat
  deriving DecidableEq, Repr

/-- R250 before the flags are looked at. -/
def Partial.finish0 (r : Partial) (eps : FVal) : Final :=
  if r.n = 0 then
    ⟨pZero, pZero, rsqrt eps, pZero, rsqrt eps, pZero, .inf true, .inf true, pZero, 0, r.flags⟩
  else
    let n := rnd32 (.fin false r.n 0)
    let s1 := fadd r.s1.hi r.s1.lo
    let s2 := fadd r.s2.hi r.s2.lo
    let s3 := fadd r.s3.hi r.s3.lo
    let dm := fdiv s1 n
    let q := fdiv (ffma s1.neg dm s2) n
    let var := fMax pZero q
    let msq := fdiv s3 n
    ⟨fadd r.k dm, var, rsqrt (fadd var eps), rnd32 msq.sqrt, rsqrt (fadd msq eps), ffma n r.k s1, r.mx, r.smMax,
     fadd r.sm.hi r.sm.lo, r.n, r.flags ||| (if q.lt pZero then 32 else 0)⟩

/-- R251: what the flags override. -/
def Final.override (f : Final) : Final :=
  let all := fun (v : FVal) => { f with mean := v, sum := v, var := v, invstd := v, rms := v, invrms := v, mx := v, smMax := v, smSum := v }
  let b := fun (i : Nat) => f.flags.testBit i
  let pi := FVal.inf false
  if b 0 then all .poison
  else if b 1 then all .nan
  else if b 2 then
    let m := if b 3 then FVal.nan else pi
    { f with mean := m, sum := m, var := .nan, invstd := .nan, rms := pi, invrms := pZero, mx := pi, smMax := pi, smSum := .nan }
  else if b 3 then
    { f with mean := .inf true, sum := .inf true, var := .nan, invstd := .nan, rms := pi, invrms := pZero }
  else f

def Partial.finish (r : Partial) (eps : Nat) : Final := (r.finish0 (decodeVal 1 eps)).override

def Final.bytes (f : Final) : List Byte :=
  ([f.mean, f.var, f.invstd, f.rms, f.invrms, f.sum, f.mx, f.smMax, f.smSum].flatMap f32Bytes) ++ leBytes 4 f.n ++ leBytes 4 f.flags ++
  fill 20 0

namespace State

/-! ### The instructions -/

/-- The sticky flags a record's elements set (R254). -/
def rsFlags (s : State) (c : Nat) (xs : List FVal) (sat clamped : Bool) : State :=
  let s := if xs.any FVal.isPoison then s.flag .rsFlags (cix c) 0 else s
  let s := if xs.any fun x => !x.isPoison && x.isNonfin then s.flag .rsFlags (cix c) 1 else s
  let s := if sat then s.flag .rsFlags (cix c) 2 else s
  if clamped then s.flag .rsFlags (cix c) 3 else s

/-- Fault of a statistics instruction in its read: the record range is undefined (R242). -/
def statBad (s : State) (c : Nat) (e : Entry) (pl : Place) (off n : Nat) : State :=
  (s.scramble pl (64 * off) (64 * n)).fault c e 8 noIndex none

/-- One row of an RSTAT. -/
def rstatRow (s : State) (c : Nat) (e : Entry) (src rec' : Place) : State :=
  let d := s.tdesc c (getF e.op 55 44)
  let cont := getF e.op 43 43 = 1
  let fin := getF e.op 42 42 = 1
  let off := getF e.op 36 22
  let eps := getF e.op 15 0
  let r := e.chunk
  let x := s.bankRead src (d.addr r 0) (d.cols * d.esize)
  let y := if cont then x.st.bankRead rec' (64 * (off + r)) 64 else ⟨x.st, [], none⟩
  if x.bad.isSome || y.bad.isSome then y.st.statBad c e rec' off d.rows
  else
    let xs := (chunksOf d.esize (x.bytes.map fun b => b.getD 0)).map fun b => decodeVal d.fmt (fromLE b)
    let p0 := if cont then Partial.ofBytes (y.bytes.map fun b => b.getD 0) else Partial.fresh (shiftOf xs)
    let p1 := p0.row xs
    let f := p1.finish eps
    let t := (y.st.storeRun c e.uid rec' (64 * (off + r)) (if fin then f.bytes else p1.bytes)).1.heldExt y.st.held.length
      [⟨rec', 64 * off, 64 * d.rows⟩]
    let t := t.rsFlags c xs (decide (2 ^ 32 ≤ p0.n + xs.length)) (fin && f.flags.testBit 5)
    let t := if xs.any FVal.isPoison then t.poisonIn c (((s.core c).part).getD 0) e.step else t
    t.chunkDone c e []

def fireRstat (s : State) (c : Nat) (e : Entry) : State :=
  let d := s.tdesc c (getF e.op 55 44)
  let rec' := s.locPlace (c / 16) (getF e.op 41 37)
  match s.coreOwns c d.place && s.coreOwns c rec', d.place, rec' with
  | true, some a, some b =>
    (s.modEntry c e.uid fun x => { x with chunk := 0, chunks := d.rows }).rstatRow c { e with chunk := 0, chunks := d.rows } a b
  | _, _, _ => s.fault c e 0x0B noIndex none

/-- The next row of an RSTAT under way. -/
def rstatNext (s : State) (c : Nat) (e : Entry) : State :=
  match (s.tdesc c (getF e.op 55 44)).place, s.locPlace (c / 16) (getF e.op 41 37) with
  | some a, some b => s.rstatRow c e a b
  | _, _ => s

/-- One record of an RSMERGE: B into A (R249). -/
def mergeOne (s : State) (c : Nat) (e : Entry) (a b : Place) (oa ob : Nat) : State × Bool :=
  let x := s.bankRead a (64 * oa) 64
  let y := x.st.bankRead b (64 * ob) 64
  if x.bad.isSome || y.bad.isSome then (y.st, true)
  else
    let bx := x.bytes.map fun v => v.getD 0
    let bY := y.bytes.map fun v => v.getD 0
    let pa := Partial.ofBytes bx
    let pb := Partial.ofBytes bY
    if pb.n = 0 then (y.st, false)
    else
      let m := pa.merge pb
      let t := (y.st.storeRun c e.uid a (64 * oa) (if pa.n = 0 then bY else m.bytes)).1
      (t.rsFlags c [] (pa.n != 0 && decide (2 ^ 32 ≤ pa.n + pb.n)) false, false)

def fireRsmerge (s : State) (c : Nat) (e : Entry) : State :=
  let a := s.locPlace (c / 16) (getF e.op 55 51)
  let b := s.locPlace (c / 16) (getF e.op 35 31)
  let oa := getF e.op 50 36
  let ob := getF e.op 30 16
  let n := getF e.op 15 1 + 1
  match s.coreOwns c a && s.coreOwns c b, a, b with
  | true, some pa, some pb =>
    let r := (List.range n).foldl (fun (acc : State × Bool) i =>
      if acc.2 then acc else acc.1.mergeOne c e pa pb (oa + i) (ob + i)) (s, false)
    if r.2 then r.1.statBad c e pa oa n else (r.1.heldExt s.held.length [⟨pa, 64 * oa, 64 * n⟩]).waitHeld c e.uid
  | _, _, _ => s.fault c e 0x0B noIndex none

/-- One record of an RSFIN. -/
def finOne (s : State) (c : Nat) (e : Entry) (pl : Place) (off eps : Nat) : State × Bool :=
  let x := s.bankRead pl (64 * off) 64
  if x.bad.isSome then (x.st, true)
  else
    let f := (Partial.ofBytes (x.bytes.map fun v => v.getD 0)).finish eps
    (((x.st.storeRun c e.uid pl (64 * off) f.bytes).1).rsFlags c [] false (f.flags.testBit 5), false)

def fireRsfin (s : State) (c : Nat) (e : Entry) : State :=
  let pl := s.locPlace (c / 16) (getF e.op 55 51)
  let off := getF e.op 50 36
  let n := getF e.op 35 21 + 1
  match s.coreOwns c pl, pl with
  | true, some p =>
    let r := (List.range n).foldl (fun (acc : State × Bool) i =>
      if acc.2 then acc else acc.1.finOne c e p (off + i) (getF e.op 15 0)) (s, false)
    if r.2 then r.1.statBad c e p off n else (r.1.heldExt s.held.length [⟨p, 64 * off, 64 * n⟩]).waitHeld c e.uid
  | _, _ => s.fault c e 0x0B noIndex none

end State

def execRstat (c : CoreId) (s : State) : Out := .next (s.settle (s.fireOp c 5 0x70 (s.strmAccepts c) fun t e => t.fireRstat c e))
def execRsmerge (c : CoreId) (s : State) : Out := .next (s.settle (s.fireOp c 5 0x71 (s.strmAccepts c) fun t e => t.fireRsmerge c e))
def execRsfin (c : CoreId) (s : State) : Out := .next (s.settle (s.fireOp c 5 0x72 (s.strmAccepts c) fun t e => t.fireRsfin c e))

end Sys2Proof.Machine
end

