-- ==== Sys2Proof/Machine/Movement.lean ====
section
/-! DEFINITION. Tensor movement (R255-R290): the copy engine, stream loads and stores, gather and scatter. -/

namespace Sys2Proof.Machine

/-! ### One side of a transfer -/

/-- Where a transfer reads or writes: partition virtual addresses (no place) or a vat or pool bank, from a base. -/
structure Side where
  virt  : Bool
  place : Option Place
  base  : Nat
  deriving DecidableEq, Repr

/-- The side named by SPACE, LOC and BASE fields. -/
def State.side (s : State) (c space loc base : Nat) : Side :=
  if space % 2 = 0 then ⟨true, none, base⟩ else ⟨false, s.locPlace (c / 16) loc, base⟩

/-- Runs (offset, length) of a side as pieces; `bit` is the permission of a virtual access. -/
def Side.pieces (x : Side) (pages : List Page) (bit : Nat) (runs : List (Nat × Nat)) : List Piece :=
  runs.flatMap fun r =>
    if x.virt then piecesOf pages bit (x.base + r.1) r.2
    else match x.place with
      | some pl => [⟨pl, x.base + r.1, r.2, 0⟩]
      | none => []

/-- The fault a side's checks find before access: TRANSLATION or PERMISSION of a page (R80), OWNER of a place (R264, R296). -/
def State.sideFault (s : State) (c : Nat) (pages : List Page) (x : Side) (bit : Nat) (eng : List Nat) (runs : List (Nat × Nat)) :
    Option (Nat × Option Nat) :=
  if x.virt then checkRuns pages bit (runs.map fun r => (x.base + r.1, r.2))
  else
    let p := ((s.core c).part).getD 0
    match x.place with
    | some pl => if s.ownerOk p c pl eng then none else some (0x0B, none)
    | none => some (0x0B, none)

def State.pagesOf (s : State) (c : Nat) : List Page := ((s.imgOf c).map (·.pages)).getD []

/-- The physical spans of a side between two offsets, page by page where mapped. -/
def Side.phys (x : Side) (pages : List Page) (lo hi : Nat) : List Span :=
  if x.virt then
    pages.filterMap fun g =>
      let a := max (x.base + lo) g.va
      let b := min (x.base + hi) (g.va + g.size)
      if a < b then some ⟨.tier g.slow, g.ppn * mib2 + (a - g.va), b - a⟩ else none
  else match x.place with
    | some pl => [⟨pl, x.base + lo, hi - lo⟩]
    | none => []

/-- The address a fault record gives for a read: the virtual address, or none for a cluster location (R87). -/
def Side.addrOf (x : Side) (va : Nat) : Option Nat := if x.virt then some va else none

/-- Bytes into pieces with holds, as one instruction's store. -/
def State.store (s : State) (c uid : Nat) (ps : List Piece) (bs : List Byte) : State × Option Nat := s.storePieces c uid ps bs

/-! ### The copy engine (R258-R267) -/

/-- A copy endpoint (R260). -/
structure Endp where
  fmt    : Nat
  layout : Nat
  side   : Side
  order  : List Nat
  s1     : Nat
  s2     : Nat
  n0     : Nat
  n1     : Nat
  n2     : Nat
  deriving DecidableEq, Repr

def State.endp (s : State) (c i : Nat) : Endp :=
  let d := s.desc c i
  let o := dF d 5 1
  ⟨dF d 1 1, dF d 2 1, s.side c (dF d 3 1) (dF d 4 1) (dF d 8 6), [o % 4, fld o 3 2, fld o 5 4], dF d 0x10 4, dF d 0x14 4, dF d 0x18 3,
   dF d 0x1B 3, dF d 0x1E 2 + 1⟩

def Endp.es (x : Endp) : Nat := fmtWidth x.fmt / 8

/-- The destination with its sizes from the source's (R261). -/
def Endp.sized (d src : Endp) : Endp :=
  let n := [src.n0, src.n1, src.n2]
  { d with n0 := n.getD (d.order.getD 0 0) 1, n1 := n.getD (d.order.getD 1 0) 1, n2 := n.getD (d.order.getD 2 0) 1 }

/-- The runs of an endpoint in storage order: for G64 and plain one per row, for G24 one per group and row; `pad` includes
G64 padding. -/
def Endp.runs (x : Endp) (pad : Bool) : List (Nat × Nat) :=
  if x.layout = 2 then
    (List.range (x.n2 * ((x.n0 + 23) / 24) * x.n1)).map fun k =>
      let g := (x.n0 + 23) / 24
      (k / (g * x.n1) * x.s2 + k / x.n1 % g * x.s1 + k % x.n1 * 48, 48)
  else
    let len := (if x.layout = 0 ∧ pad then (x.n0 + 63) / 64 * 64 else x.n0) * x.es
    (List.range (x.n2 * x.n1)).map fun k => (k / x.n1 * x.s2 + k % x.n1 * x.s1, len)

/-- The run that holds element (i0, i1, i2) and its byte offset in the run. -/
def Endp.locate (x : Endp) (i0 i1 i2 : Nat) : Nat × Nat :=
  if x.layout = 2 then ((i2 * ((x.n0 + 23) / 24) + i0 / 24) * x.n1 + i1, i0 % 24 * x.es) else (i2 * x.n1 + i1, i0 * x.es)

/-- The element positions of run k of an endpoint, in order; none for padding. -/
def Endp.elems (x : Endp) (k : Nat) : List (Option (Nat × Nat × Nat)) :=
  if x.layout = 2 then
    let g := (x.n0 + 23) / 24
    (List.range 24).map fun j =>
      let i0 := k / x.n1 % g * 24 + j
      if i0 < x.n0 then some (i0, k % x.n1, k / (g * x.n1)) else none
  else
    (List.range (if x.layout = 0 then (x.n0 + 63) / 64 * 64 else x.n0)).map fun i0 =>
      if i0 < x.n0 then some (i0, k % x.n1, k / x.n1) else none

/-- The offset one past the last byte of an endpoint's runs: the end of its span (R263). -/
def spanEnd (runs : List (Nat × Nat)) : Nat := runs.foldl (fun a r => max a (r.1 + r.2)) 0

def isMove (a b : Endp) : Bool :=
  a.layout == b.layout && a.s1 == b.s1 && a.s2 == b.s2 && b.order == [0, 1, 2]

/-- The bytes a copy writes, in the order of the destination's runs, from the source's runs as read. -/
def copyBytes (src dst : Endp) (runs : List (List Byte)) : List Byte :=
  if isMove src dst then runs.flatten
  else
    let e := src.es
    (List.range (dst.runs true).length).flatMap fun k =>
      (dst.elems k).flatMap fun p =>
        match p with
        | none => fill e 0
        | some (a, b, c) =>
          let d := [a, b, c]
          let at' := fun (dim : Nat) => d.getD (dst.order.idxOf dim) 0
          let q := src.locate (at' 0) (at' 1) (at' 2)
          ((runs.getD q.1 []).drop q.2).take e

/-- Cuts bytes into runs of the lengths given. -/
def cutBytes : List (Nat × Nat) → List Byte → List (List Byte)
  | [], _ => []
  | r :: t, bs => bs.take r.2 :: cutBytes t (bs.drop r.2)

namespace State

/-- The rules of a G24 copy against the pages it uses (R266). -/
def g24Ok (s : State) (c : Nat) (a b : Endp) : Bool :=
  let pages := s.pagesOf c
  let tiers := fun (x : Endp) (slow : Bool) =>
    (x.side.phys pages 0 (spanEnd (x.runs true))).all fun sp => decide (sp.place = .tier slow)
  let g := if a.layout = 2 then a else b
  (a.fmt == 1 || a.fmt == 2) && ((a.layout == 2 && b.layout == 0) || (a.layout == 0 && b.layout == 2)) &&
  a.side.virt && b.side.virt && ((tiers a true && tiers b false) || (tiers a false && tiers b true)) &&
  decide (g.side.base % 3072 = 0 ∧ g.s1 % 3072 = 0 ∧ g.s2 % 3072 = 0) && decide (a.n0 % 24 = 0) && b.order == [0, 1, 2]

/-- A reshaping copy whose physical spans overlap (R263), or a G24 copy that breaks a rule. -/
def copyRefused (s : State) (c : Nat) (a b : Endp) : Bool :=
  let pages := s.pagesOf c
  let lap := (a.side.phys pages 0 (spanEnd (a.runs true))).any fun x =>
    (b.side.phys pages 0 (spanEnd (b.runs true))).any fun y => x.meets y
  (!isMove a b && lap) || ((a.layout == 2 || b.layout == 2) && !s.g24Ok c a b)

/-- The copy engine's places for the endpoints. -/
def copyAccepts (s : State) (c : Nat) (e : Entry) : Bool :=
  let f := fun (x : Endp) => x.side.virt || s.placeFree x.side.place
  decide ((s.cl (c / 16)).copyQ.length < 16) && f (s.endp c (getF e.op 55 44)) && f (s.endp c (getF e.op 43 32))

/-- The bytes of pieces as they stand: what a MOVE copies as padding, whose granules raise nothing (R86). -/
def rawBytes (s : State) (l : List Piece) : List Byte := l.flatMap fun p => s.bytesAt p.place p.addr p.len

/-- COPY fires: its checks, its bind, and its place in the queue (R258, R259). A MOVE's rows take their padding with them (log 27). -/
def fireCopy (s : State) (c : Nat) (e : Entry) : State :=
  let src := s.endp c (getF e.op 55 44)
  let dst := (s.endp c (getF e.op 43 32)).sized src
  let pages := s.pagesOf c
  let mv := isMove src dst
  let rs := src.runs mv
  let real := src.runs false
  let rd := dst.runs true
  match s.sideFault c pages src.side 0 [0x13] rs <|> s.sideFault c pages dst.side 1 [0x13] rd with
  | some f => s.fault c e f.1 noIndex f.2
  | none =>
    if s.copyRefused c src dst then (s.flag .copyFlags [c / 16] 1).fault c e 7 noIndex none
    else
      let ps := src.side.pieces pages 0 rs
      let pd := dst.side.pieces pages 1 rd
      let pr := src.side.pieces pages 0 real
      let r := ((s.bindSpans c e (spansOf ps)).readPieces pr).inFormat src.fmt pr
      match r.bad with
      | some a => (r.st.scramblePieces pd).fault c e 8 noIndex (src.side.addrOf a)
      | none =>
        let rows := (cutBytes real (deliver src.fmt r.bytes)).zip ((real.zip rs).map fun q => r.st.rawBytes
          (src.side.pieces pages 0 [(q.1.1 + q.1.2, q.2.2 - q.1.2)]))
        let t := if r.poisoned then (r.st.flag .copyFlags [c / 16] 0).poisonIn c (((s.core c).part).getD 0) e.step else r.st
        let job : CopyJob := ⟨c, e.uid, ((s.core c).part).getD 0, src.layout == 2 || dst.layout == 2,
          copyBytes src dst (rows.map fun q => q.1 ++ q.2), spansOf pd, pd.map (·.va), dst.side.virt, false⟩
        (t.modCl (c / 16) fun k => { k with copyQ := k.copyQ ++ [job] }).setPhase c e.uid .fired

/-- COPY_TAKEN: the engine takes the oldest copy of its queue while fewer than 4 are taken, and runs it unless a G24 copy
stands before it (R258, R267). -/
def copyTaken (s : State) (cl : Nat) : State :=
  match (s.cl cl).copyQ with
  | [] => s
  | j :: t =>
    if 4 ≤ (s.cl cl).copyRun.length ∨ (s.cl cl).restarting then s
    else startCopies 4 (s.modCl cl fun k => { k with copyQ := t, copyRun := k.copyRun ++ [j] }) cl

/-- G24_COPY_START: the G24 copy that stands first runs, alone. -/
def g24Start (s : State) (cl : Nat) : State :=
  match (s.cl cl).copyRun with
  | j :: _ => if j.g24 && !j.started then startCopies 4 (s.runCopy j) cl else s
  | [] => s

end State

def execCopy (c : CoreId) (s : State) : Out := .next (s.settle (s.fireOp c 6 0x20 (s.copyAccepts c) fun t e => t.fireCopy c e))
def execCopyTaken (cl : ClusterId) (s : State) : Out := .next (s.settle (s.copyTaken cl))
def execG24CopyStart (cl : ClusterId) (s : State) : Out := .next (s.settle (s.g24Start cl))

/-- INSTRUCTION_COMPLETE: an entry whose work is done leaves the window; the writes behind it are released, and copies
behind a finished copy start (R67, R77, R267). -/
def State.instructionComplete (s : State) (c uid : Nat) : State :=
  match s.entry? c uid with
  | some e => if e.phase = .done then ((s.releaseLoad c uid).complete c e).copyDone c uid else s
  | none => s

def execInstructionComplete (c : CoreId) (uid : Nat) (s : State) : Out := .next (s.settle (s.instructionComplete c uid))

namespace State

/-! ### Stream loads and stores (R268-R271) -/

/-- SLOAD (`load`) and SSTORE: rows between the far side and the near side. -/
def fireStream (s : State) (c : Nat) (e : Entry) (load : Bool) : State :=
  let d := s.desc c (getF e.op 55 44)
  let i := innerIter e.iters
  let far := s.side c (dF d 1 1) (dF d 2 1) (dF d 8 6 + 64 * getF e.op 39 20 * i)
  let near : Side := ⟨false, s.locPlace (c / 16) (dF d 3 1), dF d 0x0E 3 + 64 * getF e.op 19 4 * i⟩
  let rows := dF d 0x11 3
  let len := dF d 4 4
  let fr := (List.range rows).map fun r => (r * dF d 0x14 4, len)
  let nr := (List.range rows).map fun r => (r * dF d 0x18 4, len)
  let pages := s.pagesOf c
  match s.sideFault c pages far (if load then 0 else 1) [] fr <|> s.sideFault c pages near 0 [] nr with
  | some f => s.fault c e f.1 noIndex f.2
  | none =>
    let src := if load then far else near
    let ps := src.pieces pages 0 (if load then fr else nr)
    let pd := (if load then near else far).pieces pages 1 (if load then nr else fr)
    let r := (((s.bindSpans c e (spansOf ps)).strmBytes c (rows * len)).readPieces ps).inFormat (dF d 0x1C 1) ps
    match r.bad with
    | some a => (r.st.scramblePieces pd).fault c e 8 noIndex (src.addrOf a)
    | none =>
      let t := if r.poisoned then (r.st.flag .gsFlags (cix c) 0).poisonIn c (((s.core c).part).getD 0) e.step else r.st
      let w := t.store c e.uid pd (deliver (dF d 0x1C 1) r.bytes)
      match w.2 with
      | some a => (w.1.scramblePieces pd).fault c e 8 noIndex (if load then none else far.addrOf a)
      | none => w.1.waitHeld c e.uid

end State

def execSload (c : CoreId) (s : State) : Out := .next (s.settle (s.fireOp c 5 0x10 (s.strmAccepts c) fun t e => t.fireStream c e true))
def execSstore (c : CoreId) (s : State) : Out := .next (s.settle (s.fireOp c 5 0x11 (s.strmAccepts c) fun t e => t.fireStream c e false))

/-! ### Gather and scatter (R273-R281) -/

/-- An indexed tensor (R274). -/
structure XTens where
  fmt    : Nat
  trows  : Nat
  tgroups : Nat
  dims   : Nat
  policy : Nat
  side   : Side
  n0     : Nat
  n1     : Nat
  n2     : Nat
  s1     : Nat
  s2     : Nat
  deriving DecidableEq, Repr

/-- A list with its mask and dense side (R275). -/
structure XList where
  list   : Option Place
  dense  : Option Place
  masked : Bool
  zm     : Bool
  count  : Nat
  lOff   : Nat
  mOff   : Nat
  dOff   : Nat
  dStride : Nat
  deriving DecidableEq, Repr

def State.xtens (s : State) (c i : Nat) : XTens :=
  let d := s.desc c i
  let sh := dF d 3 1
  ⟨dF d 1 1, dF d 2 1 % 128 + 1, sh % 16 + 1, fld sh 5 4 + 1, dF d 4 1 % 4, s.side c (dF d 5 1) (dF d 6 1) (dF d 8 6), dF d 0x10 3,
   dF d 0x13 3, dF d 0x16 2 + 1, dF d 0x18 4, dF d 0x1C 4⟩

def State.xlist (s : State) (c i : Nat) : XList :=
  let d := s.desc c i
  ⟨s.locPlace (c / 16) (dF d 1 1), s.locPlace (c / 16) (dF d 2 1), dF d 3 1 % 2 == 1, fld (dF d 3 1) 1 1 == 1, dF d 4 4, dF d 8 4,
   dF d 0x0C 4, dF d 0x10 4, dF d 0x14 4⟩

namespace XTens

def es (x : XTens) : Nat := fmtWidth x.fmt / 8
/-- Bytes of a group of 64 elements. -/
def g (x : XTens) : Nat := 64 * x.es
def groups (x : XTens) : Nat := (x.n0 + 63) / 64
def blockLen (x : XTens) : Nat := x.trows * x.tgroups * x.g

/-- The rows of the whole tensor: its bounding extent (R79). -/
def runs (x : XTens) : List (Nat × Nat) :=
  (List.range (x.n2 * x.n1)).map fun k => (k / x.n1 * x.s2 + k % x.n1 * x.s1, x.groups * x.g)

/-- Is the coordinate (row, group, plane) in range (R276)? -/
def inRange (x : XTens) (k : Int × Int × Int) : Bool :=
  let ok := fun (v : Int) (n : Nat) => decide (0 ≤ v) && decide (v < (n : Int))
  ok k.1 ((x.n1 + x.trows - 1) / x.trows) && ok k.2.1 ((x.groups + x.tgroups - 1) / x.tgroups) && ok k.2.2 x.n2

/-- The rows of a block inside the tensor: row of the block, offset in the tensor, bytes of real elements. -/
def blockRuns (x : XTens) (k : Int × Int × Int) : List (Nat × Nat × Nat) :=
  let r0 := k.1.toNat * x.trows
  let g0 := k.2.1.toNat * x.tgroups
  let len := (min x.n0 ((g0 + x.tgroups) * 64) - g0 * 64) * x.es
  ((List.range x.trows).filter fun j => decide (r0 + j < x.n1)).map fun j => (j, k.2.2.toNat * x.s2 + (r0 + j) * x.s1 + g0 * x.g, len)

/-- A block's bytes from those of its rows, +0 elsewhere (R276). -/
def assemble (x : XTens) (k : Int × Int × Int) (bs : List Byte) : List Byte :=
  let runs := (x.blockRuns k).map fun r => (r.2.1, r.2.2)
  let rows := (cutBytes runs bs).map fun b => toLen (x.tgroups * x.g) b
  toLen x.blockLen rows.flatten

end XTens

/-- A list entry: its number, whether it is active, its coordinate. -/
structure XEnt where
  i   : Nat
  on  : Bool
  key : Int × Int × Int
  deriving DecidableEq, Repr

/-- Is entry i active (R278)? -/
def entryOn (l : XList) (mask : List Byte) (i : Nat) : Bool := !l.masked || ((mask.getD (i / 8) 0).getLsbD (i % 8))

/-- The entries a list spells (R276, R278). -/
def xentries (x : XTens) (l : XList) (list mask : List Byte) : List XEnt :=
  (List.range l.count).map fun i =>
    let w := fun (j : Nat) => if j < x.dims then signed 32 (le list (4 * (i * x.dims + j)) 4) else 0
    ⟨i, entryOn l mask i, (w 0, w 1, w 2)⟩

/-- Keys in order of first appearance. -/
def distinctKeys (es : List XEnt) : List (Int × Int × Int) :=
  es.foldl (fun acc e => if acc.any fun k => k == e.key then acc else acc ++ [e.key]) []

namespace State

/-- The places' owners and the pages of the whole indexed tensor (R274, R275). -/
def xFault (s : State) (c : Nat) (x : XTens) (l : XList) (bit : Nat) : Option (Nat × Option Nat) :=
  if s.coreOwns c l.list && s.coreOwns c l.dense then s.sideFault c (s.pagesOf c) x.side bit [] x.runs else some (0x0B, none)

/-- The list and the mask as read, and whether a word of them that an active entry needs could not be corrected (R86). -/
def readList (s : State) (x : XTens) (l : XList) : State × List XEnt × Bool :=
  match l.list with
  | none => (s, [], false)
  | some pl =>
    let b := if l.masked then s.bankRead pl l.mOff ((l.count + 7) / 8) else ⟨s, [], none⟩
    let mask := b.bytes.map fun v => v.getD 0
    let a := b.st.bankReadFor pl l.lOff (4 * x.dims * l.count) fun j => entryOn l mask (j / (4 * x.dims))
    (a.st, xentries x l (a.bytes.map fun v => v.getD 0) mask, a.bad.isSome || b.bad.isSome)

/-- The spans of the list and the mask. -/
def listSpans (x : XTens) (l : XList) : List Span :=
  match l.list with
  | none => []
  | some pl => ⟨pl, l.lOff, 4 * x.dims * l.count⟩ :: (if l.masked then [⟨pl, l.mOff, (l.count + 7) / 8⟩] else [])

def denseSpans (x : XTens) (l : XList) : List Span :=
  match l.dense with
  | none => []
  | some pl => (List.range l.count).map fun i => ⟨pl, l.dOff + i * l.dStride, x.blockLen⟩

/-- Applications of ZERO or DROP (R277). -/
def rangeHits (s : State) (c n : Nat) : State :=
  if n = 0 then s else (s.bumpBy .gsRange (cix c) 31 0 n).flag .gsFlags (cix c) 1

/-- The block of the tensor that a key names, as bytes with poison delivered. -/
def readBlock (s : State) (c : Nat) (x : XTens) (k : Int × Int × Int) : Rd :=
  let ps := x.side.pieces (s.pagesOf c) 0 ((x.blockRuns k).map fun r => (r.2.1, r.2.2))
  (s.readPieces ps).inFormat x.fmt ps

/-- The bytes of the tensor that a block's contents go to, written. -/
def writeBlock (s : State) (c uid : Nat) (x : XTens) (k : Int × Int × Int) (block : List Byte) : State × Option Nat :=
  let rs := x.blockRuns k
  let ps := x.side.pieces (s.pagesOf c) 1 (rs.map fun r => (r.2.1, r.2.2))
  s.storePieces c uid ps (rs.flatMap fun r => (block.drop (r.1 * x.tgroups * x.g)).take r.2.2)

/-- GATHER (R279). -/
def runGather (s : State) (c : Nat) (e : Entry) (x : XTens) (l : XList) (es : List XEnt) : State :=
  let act := es.filter (·.on)
  let hit := act.filter fun n => x.inRange n.key
  let r := (distinctKeys hit).foldl (fun (acc : State × List ((Int × Int × Int) × List Byte) × Bool × Option (Nat × Nat)) k =>
    let q := acc.1.readBlock c x k
    let first := ((hit.find? fun n => n.key == k).map (·.i)).getD 0
    (q.st, acc.2.1 ++ [(k, x.assemble k (deliver x.fmt q.bytes))], acc.2.2.1 || q.poisoned,
     acc.2.2.2 <|> (q.bad.map fun a => (first, a)))) (s, [], false, none)
  match r.2.2.2 with
  | some f => (r.1.scrambleAll (denseSpans x l)).fault c e 8 (BitVec.ofNat 32 f.1) (x.side.addrOf f.2)
  | none =>
    let blocks := es.filterMap fun n =>
      if n.on then
        some (n.i, ((r.2.1.find? fun b => b.1 == n.key && x.inRange n.key).map (·.2)).getD (fill x.blockLen 0))
      else if l.zm then some (n.i, fill x.blockLen 0) else none
    let t := if r.2.2.1 then (r.1.flag .gsFlags (cix c) 0).poisonIn c (((s.core c).part).getD 0) e.step else r.1
    let t := (t.rangeHits c (act.length - hit.length)).strmBytes c (blocks.length * x.blockLen)
    match l.dense with
    | none => t
    | some pl =>
      let w := blocks.foldl (fun (u : State × Option Nat) b =>
        let q := u.1.storeRun c e.uid pl (l.dOff + b.1 * l.dStride) b.2
        (q.1.heldOf u.1.held.length (denseSpans x l) b.1 0 0, u.2 <|> q.2.map fun _ => b.1)) (t, none)
      match w.2 with
      | some i => (w.1.scrambleAll (denseSpans x l)).fault c e 8 (BitVec.ofNat 32 i) none
      | none => w.1.waitHeld c e.uid

/-- The dense block of an entry, of which only the bytes that lie inside the tensor are needed (R86). -/
def readDense (s : State) (x : XTens) (l : XList) (k : Int × Int × Int) (i : Nat) : Rd :=
  match l.dense with
  | none => ⟨s, [], none⟩
  | some pl => s.bankReadFor pl (l.dOff + i * l.dStride) x.blockLen fun j =>
      (x.blockRuns k).any fun r => decide (r.1 * (x.tgroups * x.g) ≤ j) && decide (j < r.1 * (x.tgroups * x.g) + r.2.2)

/-- The whole indexed tensor's spans: a scatter's destination extent (R79). -/
def xSpans (s : State) (c : Nat) (x : XTens) : List Span := spansOf (x.side.pieces (s.pagesOf c) 1 x.runs)

/-- What a scatter that failed leaves: its destination extent undefined (R85). -/
def scatterBad (s : State) (c : Nat) (e : Entry) (x : XTens) (i : Nat) (addr : Option Nat) : State :=
  (s.scrambleAll (s.xSpans c x)).fault c e 8 (BitVec.ofNat 32 i) addr

/-- SCATTER: each distinct block takes the dense block of the last active entry naming it (R280). -/
def runScatter (s : State) (c : Nat) (e : Entry) (x : XTens) (l : XList) (es : List XEnt) : State :=
  let act := es.filter (·.on)
  let hit := act.filter fun n => x.inRange n.key
  let ext := s.xSpans c x
  let r := (distinctKeys hit).foldl (fun (acc : State × Option (Nat × Option Nat)) k =>
    let last := ((hit.filter fun n => n.key == k).getLast?.map (·.i)).getD 0
    let q := acc.1.readDense x l k last
    let w := q.st.writeBlock c e.uid x k (q.bytes.map fun b => b.getD 0)
    (w.1.heldOf q.st.held.length ext last 0 0,
     acc.2 <|> (q.bad.map fun _ => (last, none)) <|> (w.2.map fun a => (last, x.side.addrOf a)))) (s, none)
  match r.2 with
  | some f => r.1.scatterBad c e x f.1 f.2
  | none =>
    ((r.1.rangeHits c (act.length - hit.length)).strmBytes c ((distinctKeys hit).length * x.blockLen)).waitHeld c e.uid

/-- One add of SCATTER_ADD with its flags (POISON bit 0, NONFIN bit 2; R281, R283). -/
def addElem (fmt conv d v : Nat) : Nat × Nat :=
  if fmtIsFloat fmt then
    let a := decodeVal fmt d
    let b := decodeVal fmt v
    let r := a.add b
    let q := encodeVal fmt false (conv % 4) 0 r
    let z := decodeVal fmt q.1
    (q.1, (if a.isPoison || b.isPoison then 1 else 0) ||| (if !z.isPoison && z.isNonfin then 4 else 0))
  else ((d + v) % 2 ^ 32, 0)

/-- SCATTER_ADD: the entries of each block applied in list order. -/
def runScatterAdd (s : State) (c : Nat) (e : Entry) (x : XTens) (l : XList) (es : List XEnt) : State :=
  let act := es.filter (·.on)
  let hit := act.filter fun n => x.inRange n.key
  let conv := getF e.op 31 29
  let els := fun (bs : List Byte) => (chunksOf x.es bs).map fromLE
  let ext := s.xSpans c x
  let r := (distinctKeys hit).foldl (fun (acc : State × Nat × Option (Nat × Option Nat)) k =>
    let mine := (hit.filter fun n => n.key == k).map (·.i)
    let q := acc.1.readBlock c x k
    let d0 := els (x.assemble k (deliver x.fmt q.bytes))
    let f := mine.foldl (fun (a : State × List Nat × Nat × Option Nat) i =>
      let dn := a.1.readDense x l k i
      let sum := List.zipWith (addElem x.fmt conv) a.2.1 (els (dn.bytes.map fun b => b.getD 0))
      let lens := (x.blockRuns k).flatMap fun r => (List.range (r.2.2 / x.es)).map fun j => r.1 * x.tgroups * 64 + j
      let fl := orAll (lens.map fun j => (sum.getD j (0, 0)).2)
      (dn.st, sum.map (·.1), a.2.2.1 ||| fl, a.2.2.2 <|> (dn.bad.map fun _ => i))) (q.st, d0, if q.poisoned then 1 else 0, none)
    let w := f.1.writeBlock c e.uid x k (f.2.1.flatMap fun v => leBytes x.es v)
    (w.1.heldOf f.1.held.length ext (mine.headD 0) 0 0, acc.2.1 ||| f.2.2.1,
     acc.2.2 <|> (q.bad.map fun a => (mine.headD 0, x.side.addrOf a)) <|> (f.2.2.2.map fun i => (i, none)) <|>
      (w.2.map fun a => (mine.headD 0, x.side.addrOf a)))) (s, 0, none)
  match r.2.2 with
  | some f => r.1.scatterBad c e x f.1 f.2
  | none =>
    let t := if r.2.1.testBit 0 then (r.1.flag .gsFlags (cix c) 0).poisonIn c (((s.core c).part).getD 0) e.step else r.1
    let t := if r.2.1.testBit 2 then t.flag .gsFlags (cix c) 2 else t
    ((t.rangeHits c (act.length - hit.length)).strmBytes c (hit.length * x.blockLen)).waitHeld c e.uid

/-- The common start of the three: checks, the list, COORD_RANGE, and the bind (R82, R273, R277). `bit` is the access that its
tensor's pages must permit: a SCATTER_ADD's both (R281). -/
def fireIndexed (s : State) (c : Nat) (e : Entry) (gather : Bool) (bit : Nat) (run : State → XTens → XList → List XEnt → State) : State :=
  let x := s.xtens c (getF e.op 55 44)
  let l := s.xlist c (getF e.op 43 32)
  match s.xFault c x l bit with
  | some f => s.fault c e f.1 noIndex f.2
  | none =>
    let q := s.readList x l
    let near := (q.2.1.find? fun n => n.on && x.inRange n.key).bind fun n => (x.blockRuns n.key).head?.map fun r => x.side.base + r.2.1
    let q := ((if e.sampled then q.1.modEntry c e.uid fun z => { z with first := near } else q.1), q.2)
    if q.2.2 then
      if gather then (q.1.scrambleAll (denseSpans x l)).fault c e 8 noIndex none
      else (q.1.scrambleAll (s.xSpans c x)).fault c e 8 noIndex none
    else
      match (if x.policy = 0 then q.2.1.find? fun n => n.on && !x.inRange n.key else none) with
      | some n => q.1.fault c e 6 (BitVec.ofNat 32 n.i) none
      | none =>
        let far := if gather then spansOf (x.side.pieces (s.pagesOf c) 0 x.runs) else denseSpans x l
        run (q.1.bindSpans c e (listSpans x l ++ far)) x l q.2.1

end State

def execGather (c : CoreId) (s : State) : Out :=
  .next (s.settle (s.fireOp c 5 0x30 (s.strmAccepts c) fun t e => t.fireIndexed c e true 0 fun u x l es => u.runGather c e x l es))
def execScatter (c : CoreId) (s : State) : Out :=
  .next (s.settle (s.fireOp c 5 0x31 (s.strmAccepts c) fun t e => t.fireIndexed c e false 1 fun u x l es => u.runScatter c e x l es))
def execScatterAdd (c : CoreId) (s : State) : Out :=
  .next (s.settle (s.fireOp c 5 0x32 (s.strmAccepts c) fun t e => t.fireIndexed c e false 2 fun u x l es => u.runScatterAdd c e x l es))

end Sys2Proof.Machine
end

