-- ==== Sys2Proof/Machine/Memory.lean ====
section
/-! DEFINITION. On-die memory and memory tiers (R291-R345): ownership and hand-overs, clears, the Confluence arbiter, the
sluices, stack heat, scrubbing, row repair and SLU_CLEAR. A register write that its rules refuse is an access error. -/

namespace Sys2Proof.Machine

namespace State

/-! ### Ownership (R295-R301) -/

/-- OWNSET starts a hand-over within the partition (R297, R298). -/
def fireOwnset (s : State) (c : Nat) (e : Entry) : State :=
  let pl := (s.strmPlaces c e.op).headD none
  let new := getF e.op 49 45
  let code := if new < 16 then (s.physOf (16 * (c / 16) + new)).getD 0 % 16 else new
  match pl, (s.core c).part with
  | some q, some p =>
    if s.ownerOk p c q [0x10, 0x11, 0x12, 0x13, 0x14] then
      match q.ownReg with
      | some (id, ix) => ((s.setRegF id ix 39 39 1).setRegF id ix 36 32 code).setPhase c e.uid .fired
      | none => s
    else s.fault c e 0x0B noIndex none
  | _, _ => s.fault c e 0x0B noIndex none

/-- The vats and banks that a window entry names. -/
def entryPlaces (s : State) (c : Nat) (e : Entry) : List (Option Place) :=
  match e.unit with
  | 1 => [s.arrayPlace c (s.desc c (getF e.op 55 40))]
  | 2 => s.vecPlaces c 0 e
  | 3 => s.vecPlaces c 1 e
  | 4 => if (sfWord e.op).tens && e.opcode != 0x64 then (s.sfDescs c (sfWord e.op)).map (·.place) else []
  | 5 => s.strmPlaces c e.op
  | 6 => [(s.endp c (getF e.op 55 44)).side.place, (s.endp c (getF e.op 43 32)).side.place]
  | 7 =>
    let d := s.desc c (getF e.op 39 28)
    if e.opcode = 0x52 then [] else s.spacePlace c (dF d 2 1) (dF d 3 1) ++ s.spacePlace c (dF d 4 1) (dF d 5 1)
  | 8 => (List.range (getF e.op 31 28 + 1)).map fun k => s.locPlace (c / 16) (64 + getF e.op 35 32 + k)
  | _ => []

/-- Is an access to the place in flight (R299)? A pass counts while it holds the feeder port. -/
def inFlight (s : State) (pl : Place) : Bool :=
  s.cores.any fun ck => ck.2.window.any fun e =>
    decide (e.phase ≠ .waiting ∧ e.phase ≠ .faulted) && !(e.unit == 5 && e.opcode == 0x40) &&
    (if e.unit = 1 ∧ e.opcode = 0x11 then ck.2.passes.any fun p => p.uid == e.uid && p.reading else true) &&
    (s.entryPlaces ck.1 e).any fun q => decide (q = some pl)

/-- A vat or pool bank by cluster and index. -/
def bankPlace (pool : Bool) (cl i : Nat) : Place := if pool then .pool (16 * cl + i % 16) else .vat (32 * cl + i)

/-- OWNER_CHANGE: after in-flight accesses drain, the new owner is in place and a waiting OWNSET is done (R299). -/
def ownerChange (s : State) (pool : Bool) (cl i : Nat) : State :=
  let pl := bankPlace pool cl i
  match pl.ownReg with
  | none => s
  | some (id, ix) =>
    if s.regF id ix 39 39 = 1 ∧ s.inFlight pl = false then
      let t := ((s.setRegF id ix 4 0 (s.regF id ix 36 32)).setRegF id ix 39 39 0).setRegF id ix 36 32 0x1F
      t.cores.foldl (fun u ck => ck.2.window.foldl (fun v e =>
        if e.unit = 5 ∧ e.opcode = 0x40 ∧ e.phase = .fired ∧ (s.strmPlaces ck.1 e.op).headD none = some pl then
          v.setPhase ck.1 e.uid .done else v) u) t.switchOffs
    else s

/-- A write of NEW_OWNER (R300): only while the partition is stopped or none holds the vat or bank, to a core of the same
partition and cluster or an engine, and not while a hand-over waits (R301). -/
def wrOwner (s : State) (pool : Bool) (cl i owner : Nat) : Option State :=
  match (bankPlace pool cl i).ownReg with
  | none => none
  | some (id, ix) =>
    let w := s.reg id ix
    let held := getF w 43 43 = 1
    let p := getF w 47 44
    let stopped := !held || !s.firing p
    let okOwner := if owner < 16 then decide ((s.core (16 * cl + owner)).part = if held then some p else none) else decide (owner ≤ 0x14)
    if stopped && okOwner && getF w 39 39 == 0 then
      some ((s.setRegF id ix 39 39 1).setRegF id ix 36 32 owner)
    else none

/-- MEMORY_CLEAR_COMPLETE: no word written before the clear can be read after it (R303). -/
def clearDone (s : State) (pool : Bool) (cl i : Nat) : State :=
  let pl := bankPlace pool cl i
  match pl.ownReg with
  | none => s
  | some (id, ix) =>
    if s.regF id ix 40 40 = 1 then
      let t := s.setRegF id ix 40 40 0
      match pl with
      | .vat k => t.setVat k Bank.zero
      | .pool k => t.setPool k Bank.zero
      | .tier _ => t
    else s

end State

def execOwnset (c : CoreId) (s : State) : Out := .next (s.fireOp c 5 0x40 (s.strmAccepts c) fun t e => t.fireOwnset c e)
def execOwnerChange (pool : Bool) (cl : ClusterId) (i : Fin 32) (s : State) : Out := .next (s.ownerChange pool cl i)
def execVatOwnerWrite (cl : ClusterId) (i : Fin 32) (owner : BitVec 5) (s : State) : Out :=
  .next (s.wroteAt .vatOwner [cl, i] (s.wrOwner false cl i owner.toNat))
def execPoolOwnerWrite (cl : ClusterId) (b : Fin 16) (owner : BitVec 5) (s : State) : Out :=
  .next (s.wroteAt .poolOwner [cl, b] (s.wrOwner true cl b owner.toNat))
def execMemoryClearComplete (pool : Bool) (cl : ClusterId) (i : Fin 32) (s : State) : Out := .next (s.clearDone pool cl i)

/-! ### The Confluence arbiter (R305-R311) -/

namespace ConfRes

def req (r : ConfRes) (j : Nat) : ConfReq := r.reqs.get ConfReq.fresh j
def setReq (r : ConfRes) (j : Nat) (q : ConfReq) : ConfRes := { r with reqs := r.reqs.set j q }

/-- The longest waiter among requesters: the earliest beat, then the lowest index. -/
def longest (r : ConfRes) (js : List Nat) : Option Nat :=
  js.foldl (fun (a : Option Nat) j =>
    match (r.req j).since, a with
    | none, _ => a
    | some _, none => some j
    | some b, some k =>
      match (r.req k).since with
      | none => some j
      | some d => if b < d ∨ (b = d ∧ j < k) then some j else a) none

/-- The ordinary winner: highest rank, longest wait, lowest index (R307). -/
def ordinary (r : ConfRes) (js : List Nat) : Option Nat :=
  let rank := fun j => getF r.ranks (2 * j + 1) (2 * j)
  let top := js.foldl (fun a j => max a (rank j)) 0
  r.longest (js.filter fun j => rank j == top)

end ConfRes

/-- A unit's request for a resource joins its queue at the requester (R305). -/
def ConfQueue.add (q : ConfQueue) (unit res : Nat) : ConfQueue := { q with units := q.units.set unit (q.units.get [] unit ++ [res]) }

/-- The unit whose request a requester presents: round robin among those with a request pending (R305). -/
def ConfQueue.unit (q : ConfQueue) : Option Nat :=
  ((List.range 6).map fun i => (q.turn + i) % 6).find? fun u => !(q.units.get [] u).isEmpty

/-- The resource of the one request that a requester presents. -/
def ConfQueue.wants (q : ConfQueue) : Option Nat := q.unit.bind fun u => (q.units.get [] u).head?

/-- The request presented has been granted: the next unit is up. -/
def ConfQueue.won (q : ConfQueue) : ConfQueue :=
  match q.unit with
  | none => q
  | some u => ⟨q.units.set u (q.units.get [] u).tail, (u + 1) % 6⟩

/-- One beat of a resource to which some requesters present: requests first presented start their wait; one eligible requester is granted, and
the others back off unless they are designated; every Nth grant designates the longest waiter, also beside one that is designated and
still backing off (R305-R310; log 52). Answers the resource, and the winner with its wait. -/
def confBeat (r : ConfRes) (presented : List Nat) (ctrl : Nat) (ranks : Long) : ConfRes × Option (Nat × Nat) :=
  let r : ConfRes := presented.foldl (fun (r : ConfRes) j =>
    if (r.req j).since.isNone then r.setReq j { r.req j with since := some r.beat } else r) r
  let elig := presented.filter fun j => (r.req j).backoff == 0
  let r : ConfRes := { r with reqs := r.reqs.map fun (q : Nat × ConfReq) => (q.1, { q.2 with backoff := q.2.backoff - 1 }) }
  if elig.isEmpty then ({ r with beat := r.beat + 1, last := none }, none)
  else
    let eddy := decide (r.n ≤ r.grants + 1)
    let des := r.designated ++ (if eddy then (r.longest (presented.filter fun j => !hasN r.designated j)).toList else [])
    match (des.find? (hasN elig)).or (r.ordinary elig) with
    | none => ({ r with beat := r.beat + 1, last := none }, none)
    | some g =>
      let wait := r.beat - ((r.req g).since.getD r.beat)
      let served := hasN des g
      let r := elig.foldl (fun (r : ConfRes) j =>
        if j = g then r.setReq j ConfReq.fresh
        else if hasN des j then r
        else r.setReq j { r.req j with backoff := (r.req j).retry, retry := min 64 (2 * (r.req j).retry) }) r
      let changed := served && (r.n != ctrl || r.ranks != ranks)
      ({ r with beat := r.beat + 1, last := some g, designated := des.filter fun j => j != g,
                grants := if changed || eddy then 0 else r.grants + 1,
                n := if served then ctrl else r.n, ranks := if served then ranks else r.ranks }, some (g, wait))

/-- A cluster's requesters with the requests that arrive for a resource: requester and unit (R305). -/
def Cluster.arrive (k : Cluster) (res : Nat) (l : List (Nat × Nat)) : Cluster :=
  { k with confQ := l.foldl (fun (m : FMap ConfQueue) x => m.set x.1 ((m.get ConfQueue.empty x.1).add x.2 res)) k.confQ }

/-- The requesters that present to a resource: each presents one request, wherever it goes (R305). -/
def Cluster.presented (k : Cluster) (res : Nat) : List Nat :=
  (List.range 20).filter fun j => (k.confQ.get ConfQueue.empty j).wants == some res

/-- CONFLUENCE_ARBITRATION: one beat of a resource, with the dead beat of a winner that withdraws (R306) and the longest
wait (R316). Nothing moves in a cluster whose common is off. -/
def State.confArb (s : State) (cl res : Nat) (arrivals : List (Nat × Nat)) (withdrawn : Bool) : State :=
  if s.blockOff (128 + cl) then s
  else
    let k := (s.cl cl).arrive res arrivals
    let q := confBeat (k.conf.get ConfRes.fresh res) (k.presented res) (s.regF .confCtrl [cl] 5 0) (s.reg .confRank [cl])
    let won := fun (m : FMap ConfQueue) => match q.2 with
      | some g => m.set g.1 (m.get ConfQueue.empty g.1).won
      | none => m
    let t := s.modCl cl fun _ => { k with conf := k.conf.set res q.1, confQ := won k.confQ }
    match q.2 with
    | none => t
    | some g =>
      let t := t.setRegF .confStat [cl] 47 32 (max (t.regF .confStat [cl] 47 32) (min g.2 0xFFFF))
      if withdrawn then t.bump .confStat [cl] 31 0 else t

def execConfluenceArbitration (cl : ClusterId) (res : Fin 34) (arrivals : List (Fin 20 × Fin 6)) (withdrawn : Bool) (s : State) : Out :=
  .next (s.confArb cl res (arrivals.map fun x => (x.1.val, x.2.val)) withdrawn)

/-- A write of EDDY_N outside 4 to 32 is an access error (R314). -/
def State.wrConfCtrl (s : State) (cl : Nat) (v : Long) : Option State :=
  let n := getF v 5 0
  if 4 ≤ n ∧ n ≤ 32 then some (s.plainWrite .confCtrl [cl] v) else none

def execConfCtrlWrite (cl : ClusterId) (v : Long) (s : State) : Out := .next (s.wroteAt .confCtrl [cl] (s.wrConfCtrl cl v))

def State.wrConfRank (s : State) (cl : Nat) (v : Long) : Option State :=
  some (s.plainWrite .confRank [cl] v)

def execConfRankWrite (cl : ClusterId) (v : Long) (s : State) : Out := .next (s.wroteAt .confRank [cl] (s.wrConfRank cl v))

/-! ### Sluices (R327-R332) -/

/-- The heat factor of a level in eighths (R332): for partition and service classes, and for the collective class. -/
def heatFactor (level : Nat) (coll : Bool) : Nat :=
  if coll then
    match level with
    | 15 => 4 | 5 => 6 | 6 => 4 | 7 => 2 | _ => 8
  else
    match level with
    | 15 => 4 | 0 => 8 | 1 => 6 | 2 => 4 | 3 => 2 | _ => 1

/-- One token, in units of 2^-20. -/
def tokenUnit : Nat := 1048576

namespace State

/-- A class's minimum and cap as fractions of all slots, in units of 2^-20 (R327, R328). -/
def sluiceShare (s : State) (slow : Bool) (cls : Nat) : Nat × Nat :=
  let f := fun (m : Nat) => m * 1008
  if cls = 17 then (16384, tokenUnit)
  else if cls = 16 then
    match s.hdr with
    | none => (0, 0)
    | some h => (f (if slow then h.collSlow else h.collFast), f 1024)
  else
    match (s.part cls).img with
    | none => (0, 0)
    | some im => if slow then (f im.slowMin, f im.slowCap) else (f im.fastMin, f im.fastCap)

/-- The buckets of a controller at a slot: every class gains (R329). -/
def sluiceFill (s : State) (k : Nat) (x : Sluice) : Sluice :=
  let slow := decide (8 ≤ k)
  let level := if slow then 0 else s.regF .sluHeat [k] 39 36
  (List.range 18).foldl (fun (x : Sluice) c =>
    let sh := s.sluiceShare slow c
    let h := heatFactor level (c == 16)
    { x with mins := x.mins.set c (min (512 * tokenUnit) (x.mins.get 0 c + sh.1 * h / 8)),
             caps := x.caps.set c (min (512 * tokenUnit) (x.caps.get 0 c + sh.2 * h / 8)) }) x

end State

/-- The first waiting class from a round-robin position that has a token in a bucket. -/
def rrPick (bucket : FMap Nat) (pos : Nat) (waiting : Nat → Bool) : Option Nat :=
  ((List.range 18).map fun i => (pos + i) % 18).find? fun c => waiting c && decide (tokenUnit ≤ bucket.get 0 c)

def spend (b : FMap Nat) (c : Nat) : FMap Nat := if tokenUnit ≤ b.get 0 c then b.set c (b.get 0 c - tokenUnit) else b

/-- Does a class have a granule that minimum tokens may serve? -/
def Sluice.waits (x : Sluice) (c : Nat) : Bool := decide (0 < x.pend.get 0 c)

/-- One slot: a class by minimum tokens, else by cap tokens, else nothing; serving takes one token from each bucket that holds
one (R329). A ferry's reads wait for cap tokens, take no minimum token, and go where their RATE lets them (R440). -/
def sluiceServe (x : Sluice) (mayFerry : Nat → Bool) : Sluice :=
  match rrPick x.mins x.rrMin x.waits with
  | some c => { x with mins := spend x.mins c, caps := spend x.caps c, pend := x.pend.set c (x.pend.get 0 c - 1), rrMin := (c + 1) % 18,
                       served := some c }
  | none =>
    match rrPick x.caps x.rrCap fun c => x.waits c || (decide (0 < x.ferry.get 0 c) && mayFerry c) with
    | some c =>
      let y := { x with caps := spend x.caps c, rrCap := (c + 1) % 18, served := some c }
      if x.waits c then { y with mins := spend x.mins c, pend := x.pend.set c (x.pend.get 0 c - 1) }
      else { y with ferry := x.ferry.set c (x.ferry.get 0 c - 1) }
    | none => { x with served := none }

namespace State

/-- Does RATE let a granule of a partition's export go now: at most RATE GB/s, 10 bytes a tick each, since the export began (R438,
R440)? -/
def mayFerry (s : State) (p : Nat) : Bool :=
  match s.ferryOf p with
  | none => false
  | some f => f.rate == 0 || decide (64 * (f.served + 1) ≤ 10 * f.rate * ((s.tick - f.start).toNat + 1))

/-- A controller at a slot: its buckets filled, and n granules of the keeper's own traffic, all of it in the slow tier, with the service
class (R320, R328; log 36). -/
def sluiceComes (s : State) (k n : Nat) : Sluice :=
  let x := s.sluiceFill k (s.sluice k)
  if 8 ≤ k ∧ n ≠ 0 then { x with pend := x.pend.set serviceClass (x.pend.get 0 serviceClass + n) } else x

/-- SLUICE_SLOT: one granule slot of a controller. -/
def sluiceSlot (s : State) (k n : Nat) : State :=
  let x := s.sluiceComes k n
  let y := sluiceServe x s.mayFerry
  let t := { s with sluices := s.sluices.set k y }
  match y.served with
  | some c => if y.ferry = x.ferry then t
    else { t with ferries := t.ferries.map fun f => if f.part = c then { f with served := f.served + 1 } else f }
  | none => t

end State

def execSluiceSlot (ctrl : Fin 12) (keeper : Nat) (s : State) : Out := .next (s.sluiceSlot ctrl keeper)

namespace State

/-! ### Scrubbing (R325) -/

/-- A tier is about to be used: its controllers wake (R32; log 47). -/
def wakeTier (s : State) (slow : Bool) : State := if slow then s else s.wakeHbms

/-- SCRUB of a frame: a class-C frame's granules are read in the service class; corrections go back and uncorrectable ones are
reported. -/
def scrub (s : State) (slow : Bool) (ppn : Nat) : State :=
  if hasN (s.tierOf slow).classD ppn then s
  else
    let s := s.wakeTier slow
    s.settle ((s.serviceRead 5 slow (ppn * mib2) mib2).1.frameTraffic serviceClass slow 1)

/-! ### Stack heat (R331-R335, R345) -/

def level (s : State) (st : Nat) : Nat := s.regF .sluHeat [st] 39 36

/-- The PACE code of a level: the collective factor (R345). -/
def paceCode (level : Nat) : Nat :=
  match heatFactor level true with
  | 8 => 0 | 6 => 1 | 4 => 2 | _ => 3

/-- A stack's new level in SLU_HEAT and in SLU_SUMMARY. -/
def setLevel (s : State) (st l : Nat) : State :=
  let t := (s.setRegF .sluHeat [st] 39 36 l).setRegF .sluSummary [] (4 * st + 3) (4 * st) l
  t.setRegF .sluSummary [] 33 32 (((List.range 8).map fun j => paceCode (t.level j)).foldl max 0)

/-- Entry to level 5 or above, or return below it, makes a pace notice due (R334). -/
def notePacing (s : State) (st : Nat) : State :=
  let hot := decide (5 ≤ s.level st ∧ s.level st ≤ 7)
  let was := (s.stack st).pacing
  let t := s.modStack st fun x => { x with pacing := hot }
  let any := (List.range 8).any fun j => (t.stack j).pacing
  if hot && !was then { t with paceDue := true }
  else if was && !hot && !any then { t with paceDue := true }
  else t

/-- STACK_TEMPERATURE_REPORT (R331, R333, R335): none comes from a stack that has stopped, or whose controller is off. -/
def heatReport (s : State) (st temp : Nat) : State :=
  if s.regF .sluHeat [st] 34 34 = 1 ∨ hasN s.off (144 + st) = true then s
  else
    let th := s.regF .sluHeat [st] 47 40
    let first := s.regF .sluHeat [st] 35 35 = 0
    let l := s.level st
    let k := s.stack st
    let s := (s.setRegF .sluHeat [st] 63 56 temp).setRegF .sluHeat [st] 35 35 1
    let rise := if first then decide (th ≤ temp) else decide (th ≤ temp ∧ l < 7 ∧ 2 ≤ k.sinceRise + 1)
    let cool := if temp + 3 ≤ th then k.cool + 1 else 0
    let s := s.modStack st fun x => { x with sinceRise := if rise then 0 else min 2 (k.sinceRise + 1), cool := cool }
    let s := if first then s.setLevel st (if rise then 1 else 0) else if rise then s.setLevel st (l + 1) else s
    let s := if rise then s.pmcDie 0x86 st 1 else s
    let s := s.notePacing st
    if 110 ≤ temp then
      (s.setRegF .sluHeat [st] 34 34 1).record 4 0x0030 none st none none [BitVec.ofNat 8 temp]
    else s

/-- HEAT_LEVEL_FALL: after 1 ms (20 reports) at or below THRESH − 3 °C (R333). -/
def heatFall (s : State) (st : Nat) : State :=
  let l := s.level st
  if 20 ≤ (s.stack st).cool ∧ 1 ≤ l ∧ l ≤ 7 then
    ((s.modStack st fun x => { x with cool := x.cool - 20 }).setLevel st (l - 1)).notePacing st
  else s

/-- A write of THRESH outside 85 to 105 is an access error (R340). -/
def wrHeat (s : State) (st : Nat) (v : Long) : Option State :=
  let t := getF v 47 40
  if 85 ≤ t ∧ t ≤ 105 then some (s.plainWrite .sluHeat [st] v) else none

/-! ### Row repair and refresh (R330, R336) -/

/-- SOFT_REPAIR_COMPLETE: the oldest row under repair is redirected; class-C granules with one symbol in error were corrected. -/
def repairDone (s : State) (st : Nat) : State :=
  match (s.stack st).repairing with
  | [] => s
  | row :: t =>
    let s := s.modStack st fun x => { x with repairing := t, rows := x.rows.erase row }
    let ones := (s.fast.marksIn (2048 * row) 2048).filter fun m => decide (m.2 = .oneC)
    let s := { s with fast := ones.foldl (fun t (m : Nat × GMark) => t.fix m.1) s.fast }
    (s.bump .sluPpr [st] 63 48).bump .sluPpr [st] 39 32

/-! ### SLU_CLEAR (R344) -/

/-- The first frame past the partition frames of a tier (R320). -/
def partFrames (s : State) (slow : Bool) : Nat :=
  if slow then 981504 - 512 * ((s.hdr.map (·.reserveGib)).getD 0) else 245760

/-- Does a running partition map a frame of the range? -/
def mappedRunning (s : State) (slow : Bool) (lo n : Nat) : Bool :=
  (List.range 16).any fun p => s.firing p &&
    match (s.part p).img with
    | none => false
    | some im => im.pages.any fun g => g.slow == slow && decide (max lo g.ppn < min (lo + n) (g.ppn + g.size / mib2))

def clearTier (t : Tier) (lo n : Nat) : Tier :=
  { (t.unmark fun g => decide (lo * frameGranules ≤ g) && decide (g < (lo + n) * frameGranules)) with
    data := clearBytes t.data (lo * mib2) (n * mib2) }

/-- The granules of whole frames are moved, evenly at the tier's stacks or controllers (R319, R541). -/
def framesMoved (s : State) (slow : Bool) (frames : Nat) : State :=
  let ks := if slow then 4 else 8
  (List.range ks).foldl (fun t k => t.pmcDie (if slow then 0x85 else 0x84) k (frames * frameGranules / ks)) s

/-- A write of SLU_CLEAR with GO (R344). -/
def wrSluClear (s : State) (v : Long) : Option State :=
  if getF v 0 0 = 0 then some (s.plainWrite .sluClear [] v)
  else if s.regF .sluClear [] 63 63 = 1 then none
  else
    let s := s.plainWrite .sluClear [] v
    let slow := decide (s.regF .sluClear [] 61 61 = 1)
    let lo := s.regF .sluClear [] 60 41
    let n := s.regF .sluClear [] 40 21
    if lo + n ≤ s.partFrames slow ∧ s.mappedRunning slow lo n = false then
      let s := ((s.wakeTier slow).setRegF .sluClear [] 63 63 1).setRegF .sluClear [] 62 62 0
      some (((s.setTier slow (clearTier (s.tierOf slow) lo n)).frameTraffic serviceClass slow n).framesMoved slow n)
    else some (s.setRegF .sluClear [] 62 62 1)

end State

def execScrub (slow : Bool) (ppn : Nat) (s : State) : Out := .next (s.scrub slow ppn)
def execStackTemperatureReport (st : StackId) (t : Byte) (s : State) : Out := .next (s.heatReport st t.toNat)
def execHeatLevelFall (st : StackId) (s : State) : Out := .next (s.heatFall st)
def execSoftRepairComplete (st : StackId) (s : State) : Out := .next (s.repairDone st)

/-- LPDDR_REFRESH_DERATE: a package above 85 °C (R330); only the rate of the tier changes. -/
def execLpddrRefreshDerate (pkg : Fin 16) (s : State) : Out :=
  .next (if hasN s.derated pkg then s else { s with derated := s.derated ++ [pkg.val] })

/-- LPDDR_REFRESH_RESTORE: the package no longer reports above 85 °C (R330). -/
def execLpddrRefreshRestore (pkg : Fin 16) (s : State) : Out :=
  .next { s with derated := s.derated.filter fun k => k != pkg.val }

/-- SLU_CLEAR_GO: the write of the whole register with its GO bit. -/
def execSluClearGo (v : Long) (s : State) : Out := .next (s.wroteAt .sluClear [] (s.wrSluClear (v ||| 1#64)))

/-- SLU_CLEAR_COMPLETE: the clear ends and BUSY clears. -/
def execSluClearComplete (s : State) : Out := .next (s.setRegF .sluClear [] 63 63 0)

def execSluHeatWrite (st : StackId) (v : Long) (s : State) : Out := .next (s.wroteAt .sluHeat [st] (s.wrHeat st v))

end Sys2Proof.Machine
end

