-- ==== Sys2Proof/Machine/Weir.lean ====
section
/-! DEFINITION. The Weir (R478-R490): the cost of each charge, the accounts and their admission, the window start with its
voltage choice, and emergencies. Energies are exact in units of 2^-20 / (16 × 5,625) pJ (log 21). -/

namespace Sys2Proof.Machine

/-! ### The cost of a charge (R480-R483) -/

/-- One charge: operation class, format, shape or profile, and num / den units of the class. -/
structure Charge where
  cls : Nat
  fmt : Nat
  shp : Nat
  num : Nat
  den : Nat
  deriving DecidableEq, Repr

/-- Factory cost in 1/16 pJ (R480). -/
def factoryCost : Nat → Nat
  | 0x01 => 640 | 0x02 => 52500 | 0x03 => 960 | 0x10 => 7500 | 0x11 => 640 | 0x18 => 7500 | 0x20 => 640 | 0x21 => 49000
  | 0x22 => 80000 | 0x23 => 192000 | 0x24 => 3200 | 0x28 => 4800 | 0x30 => 30864000 | _ => 0

def isCostClass (cls : Nat) : Bool := factoryCost cls != 0

/-- Rail groups in WEIR_CAL's order: CORE, HBM, LPDDR, LINK, INGEST. -/
def railGroup : Nat → Nat
  | 0x21 => 1 | 0x22 => 2 | 0x23 => 3 | 0x30 => 4 | _ => 0

/-- The entry of R481, or the factory cost. -/
def costEntry (costs : List Cost) (x : Charge) : Nat :=
  let get := fun (f h : Nat) => (costs.find? fun k => k.cls == x.cls && k.fmt == f && k.shp == h).map (·.cost)
  ((get x.fmt x.shp <|> get x.fmt 0xFF) <|> (get 0xFF x.shp <|> get 0xFF 0xFF)).getD (factoryCost x.cls)

/-- Units in 1 mJ: 10^9 pJ. -/
def mjUnits : Nat := 1000000000 * (16 * 1048576 * 5625)

namespace State

def vcode (s : State) : Nat := s.regF .weirStatus [] 52 48

/-- s × 5,625: (65 + VCODE)² for the CORE and INGEST groups (R483). -/
def voltFactor (s : State) (g : Nat) : Nat := if g = 0 ∨ g = 4 then (65 + s.vcode) * (65 + s.vcode) else 5625

def recon (s : State) (g : Nat) : Nat := s.regF .weirRecon [] (12 * g + 11) (12 * g)

/-- The predicted cost of a charge (R483), rounded down once. -/
def chargeCost (s : State) (costs : List Cost) (x : Charge) : Nat :=
  let g := railGroup x.cls
  x.num * costEntry costs x * s.regF .weirCal [] (12 * g + 11) (12 * g) * s.recon g * s.voltFactor g / max x.den 1

def costsOf (s : State) (p : Nat) : List Cost := (((s.part p).img).map (·.costs)).getD []

def partCost (s : State) (p : Nat) (xs : List Charge) : Nat := sumN (xs.map (s.chargeCost (s.costsOf p)))

/-! ### Accounts (R479, R485, R487) -/

/-- The grant of a partition in the window in force: none while undefined or halted. -/
def grantOf (s : State) (p : Nat) : Nat :=
  if s.isRunning p then s.weir.eAdm * ((((s.part p).img).map (·.energyShare)).getD 0) / 1000 else 0

def reserveGrant (s : State) : Nat := s.weir.eAdm * ((s.hdr.map (·.collEnergy)).getD 0) / 1000

def spareGrant (s : State) : Nat := s.weir.eAdm - sumN ((List.range 16).map s.grantOf) - s.reserveGrant

/-- May the Weir admit anything: its first window has started and no emergency is in force (R478, R490)? -/
def weirOpen (s : State) : Bool := decide (0 < s.weir.windows) && s.regF .weirStatus [] 4 4 == 0

end State

/-- Cases 1 to 3 of R485 for an account with a ceiling: the new balance of the account and of the spare pool. An account in debt takes nothing
from the pool until grants have raised it to the charge, or to its ceiling where they can raise it no further (log 21). -/
def admitCase (debt : Bool) (acct spare : Int) (ceil c : Nat) : Option (Int × Int) :=
  if acct < 0 then none
  else if (c : Int) ≤ acct then some (acct - c, spare)
  else if !debt && decide ((c : Int) ≤ acct + spare) then some (0, spare - (c - acct))
  else if (ceil : Int) ≤ acct then some (acct - c, spare)
  else none

namespace State

/-- The predicted energy of admitted charges, by rail group. -/
def predict (s : State) (costs : List Cost) (xs : List Charge) : State :=
  xs.foldl (fun t x =>
    let g := railGroup x.cls
    { t with weir := { t.weir with predicted := t.weir.predicted.set g (t.weir.predicted.get 0 g + s.chargeCost costs x) } }) s

/-- The cases of R485 for partition p. What a halted partition fired still completes (R84), though no grant comes: the rest of its
charges takes the account below zero (log 21). -/
def partCase (s : State) (p c : Nat) : Option (Int × Int) :=
  match admitCase (hasN s.weir.debt p) (s.weir.accts.get 0 p) s.weir.spare (2 * s.grantOf p) c with
  | some r => some r
  | none => if s.firing p then none else some (s.weir.accts.get 0 p - c, s.weir.spare)

/-- Charges to partition p, admitted together or not at all (R485). -/
def admitPart (s : State) (p : Nat) (xs : List Charge) : Option State :=
  let c := s.partCost p xs
  if s.weirOpen then
    match s.partCase p c with
    | none => none
    | some (a, sp) =>
      let t := s.predict (s.costsOf p) xs
      let t := ({ t with weir := { t.weir with spare := sp } } : State).setAcct p a
      some (t.modPart p fun x => { x with energy := x.energy + c })
  else none

/-- Charges of a collective to the reserve (R487); its costs are those of the partition it serves. -/
def admitReserve (s : State) (p : Nat) (xs : List Charge) : Option State :=
  let c := s.partCost p xs
  if s.weirOpen then
    match admitCase (hasN s.weir.debt 16) s.weir.reserve s.weir.spare (2 * s.reserveGrant) c with
    | none => none
    | some (a, sp) =>
      let t := s.predict (s.costsOf p) xs
      some (({ t with weir := { t.weir with spare := sp } } : State).setAcct 16 a)
  else none

/-- The floor of R487: the reserve goes negative by the cost. -/
def floorReserve (s : State) (p : Nat) (xs : List Charge) : State :=
  let t := s.predict (s.costsOf p) xs
  t.setAcct 16 (t.weir.reserve - s.partCost p xs)

/-! ### What an instruction is charged (R482) -/

/-- Bytes of spans in a tier. -/
def tierLen (l : List Span) (slow : Bool) : Nat := sumN ((l.filter fun p => decide (p.place = .tier slow)).map (·.len))

/-- Bytes in tiers, as charges. -/
def tierCharges (l : List Piece) : List Charge :=
  ([⟨0x21, 0xFF, 0xFF, tierLen (spansOf l) false, 128⟩, ⟨0x22, 0xFF, 0xFF, tierLen (spansOf l) true, 128⟩] : List Charge).filter fun x => x.num != 0

/-- n bytes that lie somewhere in the given spans: each tier's charge in the proportion in which it holds them (log 21). -/
def shareCharges (n : Nat) (l : List Span) : List Charge :=
  let all := max 1 (tierLen l false + tierLen l true)
  ([⟨0x21, 0xFF, 0xFF, n * tierLen l false, 128 * all⟩, ⟨0x22, 0xFF, 0xFF, n * tierLen l true, 128 * all⟩] : List Charge).filter fun x => x.num != 0

/-- Bytes of one 1 MiB piece. -/
def mib1 : Nat := 1048576

/-- Charges cut into 1 MiB pieces of `total` bytes: each piece takes its part of every charge. -/
def cutCharges (total : Nat) (xs : List Charge) : List (List Charge) :=
  let n := max 1 ((total + mib1 - 1) / mib1)
  (List.range n).map fun k =>
    let len := if k + 1 = n then total - k * mib1 else mib1
    xs.map fun x => { x with num := x.num * len, den := x.den * max total 1 }

/-- A movement of n bytes in a format between pieces. -/
def moveCharges (fmt n : Nat) (l : List Piece) : List (List Charge) := cutCharges n (⟨0x20, fmt, 0xFF, n, 128⟩ :: tierCharges l)

def sidePieces (s : State) (c : Nat) (x : Side) (runs : List (Nat × Nat)) : List Piece :=
  if x.virt then x.pieces (s.pagesOf c) 0 runs else []

/-- n elements of a vector entry: its bound count, or VLMAX where a token has not named it yet (log 21). -/
def chargeLen (e : Entry) : Nat :=
  match e.vset.vlen with
  | .known n => n
  | .token _ => vlmaxN e.vset.vlmax

/-- Beats of a Strip instruction (R172). -/
def stripUnits (e : Entry) : Nat := stripBeats (chargeLen e) (opWidth e.opcode (rWord e.op))

/-- Beats of one chunk of a special-function walk, or of the whole register-mode instruction (R222). -/
def sfUnits (s : State) (c : Nat) (e : Entry) : Nat :=
  let w := sfWord e.op
  let q := lookups (s.core c) w
  if w.tens then q else (chargeLen e + 255) / 256 * q

/-- Beats of one row of statistics (R253). -/
def rowUnits (d : TDesc) : Nat := if d.fmt = 0 then (d.cols + 255) / 256 else (d.cols + 511) / 512

/-- The charge of one chunk or row of a walk (R177, R222, R242). -/
def chunkCharge (s : State) (c : Nat) (e : Entry) : List Charge :=
  match e.unit with
  | 2 => [⟨0x10, (s.tdesc c (getF e.op 51 40)).fmt, 1, 1, 1⟩]
  | 3 => [⟨0x10, (s.tdesc c (getF e.op 51 40)).fmt, 1, 1, 1⟩]
  | 4 => [⟨0x18, (s.tdesc c (sfWord e.op).td).fmt, 0xFF, s.sfUnits c e, 1⟩]
  | _ => let d := s.tdesc c (getF e.op 55 44)
         [⟨0x28, d.fmt, 0xFF, rowUnits d, 1⟩]

/-- SAVE's bytes (R450, R452): its extent's tier bytes, and as link bytes what DEST 0 and 1 send. -/
def saveCharges (s : State) (c : Nat) (e : Entry) : List (List Charge) :=
  let d := s.desc c (getF e.op 55 44)
  let n := dF d 0x10 8
  let ps := piecesOf (s.pagesOf c) 0 (dF d 8 6) n
  let link : List Charge := if getF e.op 43 42 ≤ 1 then [⟨0x23, 0xFF, 0xFF, n, 128⟩] else []
  cutCharges n (⟨0x20, 0xFF, 0xFF, n, 128⟩ :: tierCharges ps ++ link)

/-- The regions that a ferry descriptor's list names (R438). -/
def ferryRegions (s : State) (pages : List Page) (d : BitVec 256) : List (Nat × Nat) :=
  let bs := (piecesOf pages 0 (dF d 8 6) (64 + 32 * dF d 1 1)).flatMap fun p => s.bytesAt p.place p.addr p.len
  (List.range (dF d 1 1)).map fun i => (le bs (64 + 32 * i) 8 % 2 ^ 48, le bs (72 + 32 * i) 8)

/-- FERRY's bytes: those of the regions its list names (R438). -/
def ferryCharges (s : State) (c : Nat) (e : Entry) : List (List Charge) :=
  let pages := s.pagesOf c
  let regs := s.ferryRegions pages (s.desc c (getF e.op 55 44))
  let n := sumN (regs.map (·.2))
  cutCharges n (⟨0x20, 0xFF, 0xFF, n, 128⟩ :: tierCharges (regs.flatMap fun r => piecesOf pages 0 r.1 r.2))

/-- The charges of an entry before it fires, piece by piece. -/
def charges (s : State) (c : Nat) (e : Entry) : List (List Charge) :=
  match e.unit with
  | 1 =>
    let d := s.desc c (getF e.op 55 40)
    let fmt := dF d 1 1
    if e.opcode = 0x10 then
      let sh := if dF d 2 1 = 3 then s.defaultShape c else dF d 2 1
      let n := (dF d 0x0F 1 + 1) * (rowBytes fmt (shapeD sh fmt) + (if fmt = 5 then shapeD sh fmt / 32 else 0))
      [[⟨1, fmt, sh, n, 128⟩]]
    else if e.opcode = 0x11 then [[⟨2, fmt, s.passShape c e, dF d 0x0C 3, 1⟩]]
    else
      let n := (dF d 0x0F 1 + 1) * dF d 0x0C 3 * widthClass fmt / 8
      [[⟨3, fmt, getF e.op 33 32, (if fmt = 0 then 4 * (dF d 0x0F 1 + 1) * dF d 0x0C 3 else n), 128⟩]]
  | 4 =>
    if e.opcode = 0x64 then
      let n := (((s.imgOf c).bind fun im => im.tables[getF e.op 8 0]?).map fun t => 64 + 16 * t.segs.length + 8 * t.excs.length).getD 0
      [[⟨0x20, 0xFF, 0xFF, n, 128⟩, ⟨0x22, 0xFF, 0xFF, n, 128⟩]]
    else if (sfWord e.op).tens then [s.chunkCharge c e]
    else [[⟨0x18, (sfWord e.op).fmt, 0xFF, s.sfUnits c e, 1⟩]]
  | 5 =>
    match e.opcode with
    | 0x10 | 0x11 =>
      let d := s.desc c (getF e.op 55 44)
      let far := s.side c (dF d 1 1) (dF d 2 1) (dF d 8 6 + 64 * getF e.op 39 20 * innerIter e.iters)
      moveCharges (dF d 0x1C 1) (dF d 0x11 3 * dF d 4 4)
        (s.sidePieces c far ((List.range (dF d 0x11 3)).map fun r => (r * dF d 0x14 4, dF d 4 4)))
    | 0x30 | 0x31 | 0x32 =>
      let x := s.xtens c (getF e.op 55 44)
      let n := (s.xlist c (getF e.op 43 32)).count * x.blockLen
      cutCharges n (⟨0x20, x.fmt, 0xFF, n, 128⟩ :: shareCharges n (spansOf (s.sidePieces c x.side x.runs)))
    | 0x70 => [s.chunkCharge c e]
    | 0x71 => [[⟨0x28, 0, 0xFF, getF e.op 15 1 + 1, 1⟩]]
    | 0x72 => [[⟨0x28, 0, 0xFF, getF e.op 35 21 + 1, 1⟩]]
    | 0x76 =>
      let d := s.desc c (getF e.op 55 44)
      moveCharges 0xFF (dF d 0x10 8) (piecesOf (s.pagesOf c) 0 (dF d 8 6) (dF d 0x10 8))
    | 0x78 => s.saveCharges c e
    | 0x7C => s.ferryCharges c e
    | _ => []
  | 6 =>
    let src := s.endp c (getF e.op 55 44)
    let dst := (s.endp c (getF e.op 43 32)).sized src
    let n := sumN ((src.runs true).map (·.2))
    moveCharges src.fmt n (s.sidePieces c src.side (src.runs true) ++ s.sidePieces c dst.side (dst.runs true))
  | u =>
    if u = 2 ∨ u = 3 then
      if hasN [8, 9, 10, 11] e.opcode then
        let m := mWord e.op e.iters
        [[⟨0x11, m.fmt, 0, chargeLen e * fmtWidth m.fmt / 8, 128⟩]]
      else if e.vset.tensor then [s.chunkCharge c e]
      else [[⟨0x10, (rWord e.op).fmt, 0, stripUnits e, 1⟩]]
    else []

/-! ### Admission of a core's charges (R485, R486) -/

/-- The charge counted as waiting for a core stands before its others, while its entry is still there. -/
def waitingCharge (s : State) (c : Nat) : Option (Entry × Nat) :=
  if s.weir.waiting.has c then
    let w := s.weir.waiting.get (0, 0) c
    ((s.entry? c w.1).filter fun e => e.phase != .faulted).map fun e => (e, w.2)
  else none

/-- A charge that cannot be admitted waits, and is counted once (R506). -/
def markWaiting (s : State) (c p uid piece : Nat) : State :=
  if s.weir.waiting.has c ∧ s.weir.waiting.get (0, 0) c = (uid, piece) then s
  else (s.bump .weirAcct [p] 15 0).beginWait c (uid, piece)

/-- A message's charge to the reserve: one that no case admits has waited, and goes by the floor (R485, R487, R541). -/
def chargeReserve (s : State) (p : Nat) (xs : List Charge) : State :=
  match s.admitReserve p xs with
  | some t => t
  | none => (({ s with weir := { s.weir with anyWait := true } } : State).floorReserve p xs).pmcDie 0x87 0 1

def clearWaiting (s : State) (c : Nat) : State := s.endWaits fun k => k == c

/-- The oldest charge that the firing unit of core c presents: an entry whose tokens have arrived and that is not yet
admitted; one already waiting stands first. -/
def presented (s : State) (c : Nat) : Option Entry :=
  match s.waitingCharge c with
  | some (e, _) => if e.phase = .waiting ∧ e.admitted = false then some e else none
  | none => (s.core c).window.find? fun e => decide (e.phase = .waiting) && !e.admitted && s.waitsMet c e

/-- One piece of a core's oldest waiting charge. -/
def admitCore (s : State) (c : Nat) : State :=
  match (s.core c).part, s.presented c with
  | some p, some e =>
    if s.mayFire c then
      let ps := s.charges c e
      match s.admitPart p (ps.getD e.paid []) with
      | none => s.markWaiting c p e.uid e.paid
      | some t =>
        (t.modEntry c e.uid fun x => { x with paid := e.paid + 1, admitted := decide (ps.length ≤ e.paid + 1) }).clearWaiting c
    else s
  | _, _ => s

/-- TENSOR_CHUNK_ADMISSION: the next chunk or row of a walk is admitted and runs (R177). -/
def chunkAdmission (s : State) (c uid : Nat) : State :=
  match (s.core c).part, s.entry? c uid with
  | some p, some e =>
    let blocked := match s.waitingCharge c with
      | some (x, k) => !(x.uid == uid && k == e.chunk) && !((s.core c).halted && x.phase == .waiting)
      | none => false
    if e.phase = .fired ∧ e.chunk < e.chunks ∧ 0 < e.chunk ∧ blocked = false then
      match s.admitPart p (s.chunkCharge c e) with
      | none => s.markWaiting c p uid e.chunk
      | some t =>
        let t := t.clearWaiting c
        match e.unit with
        | 2 => t.runChunk c 0 e
        | 3 => t.runChunk c 1 e
        | 4 => t.sfChunk c e
        | 5 => t.rstatNext c e
        | _ => s
    else s
  | _, _ => s

end State

def execTensorChunkAdmission (c : CoreId) (uid : Nat) (s : State) : Out := .next (s.settle (s.chunkAdmission c uid))

/-! ### The window start (R478, R479, R484, R488, R490) -/

/-- Reconciliation of one group: RECON + (r − RECON)/8 clamped to 0.5 to 2.0, with r = M / P, rounded down once; energies in
account units, with M from 2^-16 mJ. -/
def reconStep (recon m p : Nat) : Nat := max 512 (min 2048 ((7 * recon * p + 1024 * m) / (8 * p)))

/-- 2^-16 mJ as account units. -/
def fromMeasure (n : Nat) : Nat := n * mjUnits / 65536

/-- A grant that takes an account no higher than its ceiling; what the account holds above it stays. -/
def grantTo (acct : Int) (g : Nat) : Int := max acct (min (acct + g) (2 * g : Nat))

namespace State

/-- Reconciliation of the five groups (R484): what the rails measured less the idle energy that the Weir models from the leakage fuses, the core
voltage and the hottest junction (log 8). -/
def reconcile (s : State) (m : WeirMeasure) : State :=
  (List.range 5).foldl (fun t g =>
    let p := s.weir.predicted.get 0 g
    if mjUnits < p then
      t.setRegF .weirRecon [] (12 * g + 11) (12 * g) (reconStep (s.recon g) (fromMeasure (m.groups.getD g 0 - Config.groupIdle g s.vcode m.junction)) p)
    else t) s

/-- B_eff × 1 ms: the budget, 1,500 W on one feed, times 0.8 in the first 256 windows (R478). -/
def budgetNow (s : State) : Nat :=
  let b := s.regF .weirBudget [] 11 0
  let b := if s.feedA.valid && s.feedB.valid then b else min b 1500
  if s.weir.windows < 256 then b * 8 * mjUnits / 10 else b * mjUnits

/-- The voltage request of a partition (R488). -/
def vRequest (s : State) (p : Nat) : Nat :=
  match (s.part p).img with
  | none => 0
  | some im => if im.deadline = 0 then (if s.regF .weirCtrl [] 16 16 = 0 then 20 else 0) else (s.part p).vreq

/-- v_therm after a window: lowered above TJ_LIMIT, raised after ten windows at or below TJ_LIMIT − 5 °C. -/
def thermStep (v cool limit tj : Nat) : Nat × Nat :=
  if limit < tj then (v - 1, 0)
  else if tj + 5 ≤ limit then (if 10 ≤ cool + 1 then (min 20 (v + 1), 0) else (v, cool + 1))
  else (v, 0)

/-- v_budget after a window. -/
def budgetStep (v : Nat) (emergency waited anyWait over' low : Bool) : Nat :=
  if emergency then 0 else if waited || over' then v - 1 else if !anyWait && low then min 20 (v + 1) else v

/-- An emergency begins once the Weir runs: admission stops, and VCODE goes to 0 but for the rail's 0.75 V before the first window (R478,
R490). -/
def emergency (s : State) : State :=
  if s.weir.running then
    let t := s.setRegF .weirStatus [] 4 4 1
    if s.weir.windows = 0 then t else t.setRegF .weirStatus [] 52 48 0
  else s

/-- Does the wait of charger k stand: a core's, while the charge may still be admitted? -/
def waitStands (s : State) (k : Nat) : Bool :=
  decide (128 ≤ k) || (match s.waitingCharge k with | some (e, _) => !((s.core k).halted && e.phase == .waiting) | none => false)

/-- Has a charge waited longer than 0.5 ms in the window that ends (R488)? -/
def waitedLate (s : State) : Bool := s.weir.late || s.weir.waiting.any fun w => s.waitStands w.1 && s.waitedLong w.1

/-- The hottest junction at TJ_LIMIT + 10 °C or above begins an emergency (R490). -/
def heatEmergency (s : State) : State :=
  if s.regF .weirCtrl [] 31 24 + 10 ≤ s.regF .weirStatus [] 63 56 then s.emergency else s

/-- The voltage choice of a window start (R488). -/
def chooseVoltage (s : State) (m : WeirMeasure) (first over' low : Bool) : State :=
  let emergency := s.regF .weirStatus [] 4 4 == 1
  let vb := if first && !emergency then s.weir.vBudget else budgetStep s.weir.vBudget emergency s.waitedLate s.weir.anyWait over' low
  let th := thermStep s.weir.vTherm s.weir.cool (s.regF .weirCtrl [] 31 24) m.junction
  let run := (List.range 16).filter s.isRunning
  let req := (run.map s.vRequest).foldl max 0
  let want := min (s.regF .weirCtrl [] 12 8) (max req (s.regF .weirCtrl [] 4 0))
  let v := min vb (min th.1 want)
  let cur := s.vcode
  let next := if cur < v then cur + 1 else if v < cur then cur - 1 else cur
  let t := { s with weir := { s.weir with vBudget := vb, vTherm := th.1, cool := th.2 } }
  let t := t.setRegF .weirStatus [] 52 48 next
  let t := t.setRegF .weirStatus [] 63 56 (min m.junction 255)
  let t := t.setRegF .weirStatus [] 4 4 0
  let t := t.setRegF .weirStatus [] 3 3 (if th.1 < want ∧ th.1 ≤ vb then 1 else 0)
  let t := t.setRegF .weirStatus [] 2 2 (if vb < want ∧ vb ≤ th.1 then 1 else 0)
  if v < req then t.setRegF .weirStatus [] 1 1 1 else t

/-- WEIR_WINDOW_START: a junction that is still too hot begins the next emergency (R490). -/
def windowStart (s : State) (m : WeirMeasure) : State :=
  if s.weir.running then
    let first := decide (s.weir.windows = 0)
    let total := fromMeasure m.total
    let used := sumN ((List.range 5).map fun g => s.weir.predicted.get 0 g)
    let eBase := if first then Config.idleEnergy * mjUnits else total - used
    let eOver := if first then 0 else total - s.weir.bEff
    let s := if first then s else s.reconcile m
    let b := s.budgetNow
    let eAdm := b - eBase - eOver
    let low := decide (10 * total ≤ 9 * s.weir.bEff)
    let s := s.chooseVoltage m first (decide (0 < eOver)) low
    let s := s.setRegF .weirBudget [] 43 32 (b / mjUnits)
    let s := { s with weir := { s.weir with bEff := b, eAdm := eAdm, predicted := [], windows := s.weir.windows + 1, late := false,
                                            anyWait := s.weir.waiting.any fun w => s.waitStands w.1 } }
    let s := s.setRegF .weirStatus [] 31 16 (256 - s.weir.windows)
    let s := (List.range 16).foldl (fun t p =>
      if s.isRunning p then
        { t with weir := { t.weir with accts := t.weir.accts.set p (grantTo (t.weir.accts.get 0 p) (s.grantOf p)) } } else t) s
    let s := { s with weir := { s.weir with reserve := grantTo s.weir.reserve s.reserveGrant,
                                            spare := grantTo s.weir.spare s.spareGrant } }
    ((List.range 16).foldl (fun t p =>
      match (s.part p).img with
      | none => t
      | some im => t.modPart p fun x => { x with energy := x.energy + eBase * im.energyShare / 1000 }) s).heatEmergency
  else s

end State

def execWeirWindowStart (m : WeirMeasure) (s : State) : Out := .next (s.windowStart m)

/-- JUNCTION_EMERGENCY: the hottest junction reaches TJ_LIMIT + 10 °C (R490); the Weir sees it once it runs. -/
def execJunctionEmergency (t : Byte) (s : State) : Out :=
  .next (if s.weir.running ∧ s.regF .weirCtrl [] 31 24 + 10 ≤ t.toNat then (s.setRegF .weirStatus [] 63 56 t.toNat).heatEmergency else s)

/-! ### The release of a barrier (R63, R71, R217, R488) -/

namespace State

/-- STEP_DEADLINE against the step's time in ticks, from the barrier before it; a run's first step has none (R488, log 21). -/
def deadlineStep (s : State) (p : Nat) : State :=
  let s' := s.modPart p fun x => { x with lastBar := some s.tick }
  match (s.part p).img, (s.part p).lastBar with
  | some im, some from' =>
    if im.deadline = 0 then s'
    else
      let d := im.deadline * 100
      let ticks := (s.tick - from').toNat
      s'.modPart p fun x =>
        if d < ticks then { x with vreq := min 20 (x.vreq + 1), onTime := 0 }
        else if 10 * ticks ≤ 9 * d then
          (if 8 ≤ x.onTime + 1 then { x with vreq := x.vreq - 1, onTime := 0 } else { x with onTime := x.onTime + 1 })
        else { x with onTime := 0 }
  | _, _ => s'

/-- The cores that a self-test slice waits to take at this release stop firing (R526). -/
def takeAtBarrier (s : State) (p : Nat) : State :=
  match s.bist.wanted with
  | none => s
  | some b =>
    let cs := if b < 128 then [b] else if b < 136 then (List.range 16).map fun k => 16 * (b - 128) + k else []
    (cs.filter fun c => decide ((s.core c).part = some p)).foldl (fun t c => t.modCore c fun k => { k with taking := true }) s

/-- A wait can name a step at most this many barriers back. -/
def barrierDepth : Nat := 16

/-- What step n leaves behind on a core once its barrier is released: tokens and resolutions that no wait can name. -/
def pruneCore (k : Core) (step : Word) : Core :=
  { k with tokens := k.tokens.filter fun t => t.step != step, resolved := k.resolved.filter fun r => r.step != step }

/-- A draining partition fires nothing after its step barrier, so that no barrier reports what has fired of the next step (R217); a DRAIN
load gives it no halt record (R87, R120, log 43). -/
def drained (s : State) (p : Nat) : State :=
  let t := (s.coresOf p).foldl (fun (u : State) c => u.modCore c stopCore) s
  peerFaults 64 (((t.modPart p fun x => { x with fault := none }).setPstate p 3).reportAll p) [p]

/-- BARRIER_RELEASE of a step: the step counter rises, the barrier token goes to every participating core, and a draining partition
stops (R71, R120). -/
def barrierRelease (s : State) (p : Nat) (step : Word) : State :=
  let x := s.part p
  if step == x.step && s.isRunning p && x.collected.any (fun w => w == x.step) && !s.hasHeld 128 p then
    let n := x.step
    let cs := s.coresOf p
    let t := s.modPart p fun y =>
      { y with step := n + 1, collected := [], barriers := ([n] ++ y.barriers).take barrierDepth, contrib := y.contrib.erase n.toNat,
               poison := y.poison.filter (fun w => w != n - 1), fellBack := y.fellBack.filter fun w => w != n - 1 }
    let t := cs.foldl (fun u c => (u.modCore c fun k => pruneCore k n).pmc c 0x0A 1) t
    let t := (t.reportFallback p n.toNat).deadlineStep p
    let t := t.takeAtBarrier p
    if s.pstate p = 2 then (t.drained p).closeRegions p else t
  else s

end State

def execBarrierRelease (p : PartId) (step : Word) (s : State) : Out := .next (s.barrierRelease p step)

end Sys2Proof.Machine
end

