-- ==== Sys2Proof/Machine/Link.lean ====
section
/-! DEFINITION. The link ports (R346-R373): port states, negotiation, flits, messages, credits, replay, routing and pace
notices. Flits are lists of 256 bytes; their CRC follows log 12. -/

namespace Sys2Proof.Machine

/-! ### CRC-64 (R352) -/

/-- CRC-64 with the ECMA-182 polynomial, initial value and final XOR zero (log 12). -/
def crc64 (l : List Byte) : Nat := l.foldl (crcByte 64 0x42F0E1EBA9EA3693) 0

/-! ### Messages and versions (R350, R354, R355, R357) -/

def Msg.type (m : Msg) : Nat := m.mtype.toNat

/-- The virtual channel of a message type; none where reserved. -/
def vcOf : Nat → Option Nat
  | 0x01 => some 0 | 0x02 => some 0 | 0x03 => some 2 | 0x10 => some 1 | 0x11 => some 1 | 0x20 => some 3
  | 0x30 => some 4 | 0x31 => some 4 | 0x32 => some 4 | 0x33 => some 4 | _ => none

def maxLength : Nat → Nat
  | 0x02 => 256 | 0x30 => 4 | 0x31 => 64 | 0x32 => 64 | 0x33 => 4 | _ => 4096

/-- Does a version (LNK_STATUS code) carry a message type? -/
def carries (version mtype : Nat) : Bool :=
  match version with
  | 1 => mtype == 0x20
  | 2 => (vcOf mtype).isSome && mtype != 0x33
  | 3 => (vcOf mtype).isSome
  | _ => false

def Msg.vc (m : Msg) : Nat := (vcOf m.type).getD 4

/-- The credit class of a message on a link: 4 × VC + STAGE. -/
def Msg.credClass (m : Msg) : Nat := 4 * m.vc + m.stage

def Msg.creditsNeeded (m : Msg) : Nat := (16 + m.data.length + 255) / 256

def Msg.bytes (m : Msg) : List Byte :=
  [m.mtype, BitVec.ofNat 8 (m.stage * 64 + (if m.neigh then 32 else 0))] ++ beBytes 2 m.data.length ++ beBytes 2 m.dest.toNat ++
  beBytes 2 m.src.toNat ++ toLen 3 (m.path ++ fill 3 0xFF) ++ [0] ++ beBytes 4 m.tag.toNat ++ m.data

def Msg.parse (bs : List Byte) : Msg :=
  let fl := (bs.getD 1 0).toNat
  ⟨bs.getD 0 0, fl / 64, fl.testBit 5, BitVec.ofNat 16 (be bs 4 2), BitVec.ofNat 16 (be bs 6 2), (bs.drop 8).take 3,
   BitVec.ofNat 32 (be bs 12 4), (bs.drop 16).take (be bs 2 2)⟩

/-- A message that version 1.1 routes carry: CLASS 3, one hop, read phases only (R350, R458). -/
def Msg.fitsG1 (m : Msg) : Bool := m.type == 0x20 && m.path.headD 0xFF == 0xFF && hasN [1, 2] (m.tag.toNat % 16)

/-! ### Port registers -/

namespace State

def linkState (s : State) (p : Nat) : Nat := s.regF .lnkStatus [p] 63 60
def linkVersion (s : State) (p : Nat) : Nat := s.regF .lnkStatus [p] 55 52
def isUp (s : State) (p : Nat) : Bool := s.linkState p == 4
def setLinkState (s : State) (p v : Nat) : State := s.setRegF .lnkStatus [p] 63 60 v

def moduleIx (s : State) : Half := BitVec.ofNat 16 (s.regF .lnkModule [] 15 0)
def moduleValid (s : State) : Bool := s.regF .lnkModule [] 16 16 == 1

/-- Version, width and pairs of a port, with the lanes in use. -/
def setWidth (s : State) (p version pairs : Nat) : State :=
  let js := (List.range 4).filter fun j => pairs.testBit j
  let lanes := sumN (js.map fun j => 3 * 4 ^ j)
  (((s.setRegF .lnkStatus [p] 55 52 version).setRegF .lnkStatus [p] 51 48 (2 * js.length)).setRegF .lnkStatus [p] 43 40
    pairs).setRegF .lnkLane [p] 23 16 lanes

/-- Credits of a message's class owed back to the sender at port p. -/
def owe (s : State) (p : Nat) (m : Msg) : State :=
  s.modPort p fun x => { x with owed := x.owed.set m.credClass (x.owed.get 0 m.credClass + m.creditsNeeded) }

def unroutable (s : State) (p : Nat) : State := s.bump .lnkErr [p] 47 32

/-- A waiting message that came in at port q cannot be forwarded: it is dropped, counted there and its credits return (R361). -/
def dropTransit (s : State) (w : Waiting) : State :=
  match w.origin with
  | some q => (s.unroutable q).owe q { w.msg with stage := w.msg.stage - 1 }
  | none => s

/-- Discard (R348): what the port has unacknowledged, holds or would send is dropped and its credits are cleared; numbering starts
anew. Messages in transit that waited for it are dropped at the ports they came in by (R361). -/
def discard (s : State) (p : Nat) : State :=
  let mine := fun (w : Waiting) => decide (w.ports.toNat = 2 ^ p)
  let held := fun (w : Waiting) => decide (w.origin = some p)
  let gone := s.waiting.filter fun w => mine w && !held w
  let s := s.modPort p fun x =>
    { x with replay := [], credits := [], owed := [], inflight := [], rxBytes := [], inbox := [], naks := 0, nakDue := false,
             txSeq := 0, rxNext := 0, rxAny := false, unacked := 0 }
  gone.foldl dropTransit { s with waiting := s.waiting.filter fun w => !(mine w || held w) }

/-- Entry to DOWN with its reason, reported to the host (R348, R408). -/
def goDown (s : State) (p reason : Nat) (drop : Bool) : State :=
  let s := if drop then s.discard p else s
  let s := ((s.setLinkState p 1).setRegF .lnkStatus [p] 59 56 reason).setWidth p 0 0
  if s.ready then s.event 0 0x8004 [BitVec.ofNat 8 p, 1, BitVec.ofNat 8 reason] else s

/-- Entry to OFF; at the change the clocked sides of the port's crossings reset (R348, R517). -/
def goOff (s : State) (p : Nat) : State :=
  let s := if s.linkState p = 0 then s else s.sideReset (17 * p) 17 true
  ((((s.discard p).setLinkState p 0).setRegF .lnkStatus [p] 59 56 6).setWidth p 0 0)

/-- Does a crossing in reset swallow a port's flits: the one of its PCS (R513, R517)? -/
def flitsLost (s : State) (p : Nat) : Bool := s.xingHeld (17 * p + 16)

/-- The credits a sender holds on entry to UP (R357). -/
def entryCredits (alloc : List Nat) : FMap Nat :=
  (List.range 20).map fun k =>
    let vc := k / 4
    (k, if vc = 4 then 16 else if k % 4 = 0 then
        (let a := alloc.getD vc 0; if a = 0 then [5120, 2560, 1280, 1216].getD vc 0 else a) else 512)

/-- Entry to RETRAIN: new flits stop, the replay buffer is kept. -/
def goRetrain (s : State) (p : Nat) : State :=
  if s.isUp p then
    ((s.setLinkState p 5).bump .lnkStatus [p] 31 16).modPort p fun x => { x with trained := 0, offer := none, naks := 0 }
  else s

end State

/-! ### Flits (R352, R353) -/

def flitOf (head : List Byte) (payload : List Byte) : List Byte :=
  let b := head ++ toLen 242 payload
  b ++ beBytes 8 (crc64 b)

/-- A flit that the FEC decoded and whose length and CRC hold. -/
def flitIntact (fecOk : Bool) (f : List Byte) : Bool := fecOk && f.length == 256 && crc64 (f.take 248) == be f 248 8

def ftype (f : List Byte) : Nat := be f 0 2 % 16

namespace State

/-- The CREDIT field of the next flit: credits owed of one class, 2,047 at most (R352, R357). -/
def creditDue (s : State) (p : Nat) : Nat × Nat :=
  match (s.port p).owed.find? fun c => c.2 != 0 with
  | some c => (c.1, min c.2 2047)
  | none => (0, 0)

def creditBytes (c : Nat × Nat) : List Byte := beBytes 2 (c.1 / 4 * 8192 + c.1 % 4 * 2048 + c.2)

/-- One flit sent with the acknowledgement as it stands and the CREDIT field given. -/
def sendWith (s : State) (p seq ft : Nat) (credit payload : List Byte) : State :=
  let x := s.port p
  let ack := (x.rxNext + 4095) % 4096 * 16 + (if x.nakDue then 8 else 0) + (if x.rxAny then 4 else 0)
  let head := beBytes 2 (seq * 16 + ft) ++ beBytes 2 ack ++ toLen 2 credit
  let s := s.modPort p fun x => { x with nakDue := false, unacked := 0 }
  let s := if ft = 0 then s.pmcDie 0x82 p 1 else s
  if s.flitsLost p then s else s.emit (.flit (BitVec.ofNat 4 p).toFin (flitOf head payload))

/-- One flit sent: its acknowledgement and one credit return. -/
def sendFlit (s : State) (p seq ft : Nat) (payload : List Byte) : State :=
  let c := s.creditDue p
  (s.modPort p fun x => { x with owed := if c.2 = 0 then x.owed else x.owed.set c.1 (x.owed.get 0 c.1 - c.2) }).sendWith p seq ft
    (creditBytes c) payload

/-- The outstanding DATA flits are sent again, with the CREDIT fields they had (R358): a flit that was dropped has returned none. -/
def resend (s : State) (p : Nat) : State := (s.port p).replay.foldl (fun t r => t.sendWith p r.1 0 (r.2.take 2) (r.2.drop 2)) s

/-- The pairs of the PAIRS field: those with lock, in RETRAIN without the ones to remove (R349, R359, R360). -/
def offeredPairs (s : State) (p : Nat) : BitVec 4 :=
  let x := s.port p
  if s.linkState p = 5 then
    BitVec.ofNat 4 (sumN (((List.range 4).filter fun j =>
      x.trained.getLsbD j && !(x.badLanes.getLsbD (2 * j) || x.badLanes.getLsbD (2 * j + 1))).map fun j => 2 ^ j))
  else x.trained

/-- The 242 payload bytes of an offer (R349). -/
def offerBytes (s : State) (p : Nat) : List Byte :=
  let al := s.reg .lnkVcAlloc [p]
  let only11 := (s.port p).vset == 1
  [BitVec.ofNat 8 (s.port p).vset, BitVec.ofNat 8 (s.regF .keepIdent [] 31 24), BitVec.ofNat 8 p,
   BitVec.ofNat 8 (s.offeredPairs p).toNat] ++ beBytes 2 s.moduleIx.toNat ++ [if s.moduleValid then 1 else 0] ++
  [s.feedA.strap, s.feedB.strap] ++ beBytes 8 s.life.device.toNat ++
  ([(63, 48), (47, 32), (31, 16), (15, 0)].flatMap fun f => beBytes 2 (if only11 then 0 else getF al f.1 f.2))

end State

def Offer.parse (b : List Byte) : Offer :=
  { vset := BitVec.ofNat 3 (be b 0 1), feat := b.getD 1 0, port := BitVec.ofNat 4 (be b 2 1), pairs := BitVec.ofNat 4 (be b 3 1),
    module := BitVec.ofNat 16 (be b 4 2), moduleValid := (b.getD 6 0).getLsbD 0, feedA := b.getD 7 0, feedB := b.getD 8 0,
    device := BitVec.ofNat 64 (be b 9 8), alloc := (List.range 4).map fun i => be b (17 + 2 * i) 2 }

/-- The pairs in use for a set of available ones (R350, R360): all four, three under 2.1, else the two lowest. -/
def pairsFor (version avail : Nat) : Nat :=
  let js := (List.range 4).filter fun j => avail.testBit j
  let use := if js.length = 4 ∨ (js.length = 3 ∧ version = 3) then js else js.take 2
  sumN (use.map fun j => 2 ^ j)

def pairCount (avail : Nat) : Nat := ((List.range 4).filter fun j => avail.testBit j).length

/-- The highest version in both offers, as an LNK_STATUS code; 0 for none. -/
def versionOf (a b : Nat) : Nat :=
  let c := a &&& b
  if c.testBit 2 then 3 else if c.testBit 1 then 2 else if c.testBit 0 then 1 else 0

namespace State

/-! ### Port commands (R348) -/

/-- A write of ENABLE; setting it switches the port's power domain on as the keeper does (log 22). -/
def lnkEnable (s : State) (p : Nat) (en : Bool) : State :=
  let s := s.setRegF .lnkCtrl [p] 0 0 (if en then 1 else 0)
  if en then
    let s := s.modPort p fun x => { x with powered := true }
    if s.linkState p = 0 then (s.setReg .lnkLane [p] 0).goDown p 0 false else s
  else s.goOff p

def lnkFull (s : State) (p : Nat) : State :=
  if s.isUp p then (((s.discard p).setLinkState p 2).setWidth p 0 0).modPort p fun x => { x with trained := 0, badLanes := 0, offer := none }
  else s

/-- A write of OFFER: 0 is an access error (R367). -/
def wrOffer (s : State) (p offer : Nat) : Option State := if offer = 0 then none else some (s.setRegF .lnkCtrl [p] 6 4 offer)

/-- A write of LNK_VC_ALLOC within the limits of R368. -/
def wrAlloc (s : State) (p : Nat) (v : Long) : Option State :=
  let fs := [getF v 63 48, getF v 47 32, getF v 31 16, getF v 15 0]
  if 10176 < sumN fs ∨ fs.any (fun f => decide (f < 17)) then none else some (s.setReg .lnkVcAlloc [p] v)

/-- A whole write of LNK_CTRL (R367). -/
def wrLnkCtrl (s : State) (p : Nat) (v : Long) : Option State :=
  (s.wrOffer p (getF v 6 4)).map fun t =>
    let en := getF v 0 0 == 1
    let t := if (t.regF .lnkCtrl [p] 0 0 == 1) != en then t.lnkEnable p en else t
    let t := if getF v 1 1 = 1 then t.goRetrain p else t
    if getF v 2 2 = 1 then t.lnkFull p else t

def signalDetected (s : State) (p : Nat) : State :=
  if s.linkState p = 1 then (s.setLinkState p 2).modPort p fun x => { x with trained := 0, badLanes := 0, offer := none } else s

/-- Entry to NEGOTIATE with the trained pairs recorded and the versions to offer (R348, R364). -/
def goNegotiate (s : State) (p : Nat) : State :=
  (s.setLinkState p 3).modPort p fun x => { x with offer := none, sentAfter := 0, vset := s.regF .lnkCtrl [p] 6 4 }

/-- Entry to UP after negotiation (R349, R350, R357, R369). -/
def goUp (s : State) (p version pairs : Nat) (o : Offer) : State :=
  let s := (s.setLinkState p 4).setWidth p version pairs
  let s := s.setReg .lnkPeer [p] (BitVec.ofNat 64 (o.module.toNat * 2 ^ 48 + (if o.moduleValid then 2 ^ 47 else 0) + o.port.toNat * 2 ^ 40 +
    o.feat.toNat * 2 ^ 32 + o.feedB.toNat * 2 ^ 24 + o.feedA.toNat * 2 ^ 16))
  let s := s.setReg .lnkPeerDev [p] o.device
  s.modPort p fun x =>
    { x with device := o.device, credits := entryCredits o.alloc, owed := [], inflight := [], txSeq := 0, replay := [], naks := 0,
             rxNext := 0, rxAny := false, nakDue := false, rxBytes := [], inbox := [], unacked := 0 }

/-- The end of NEGOTIATE (R350). -/
def finishNegotiate (s : State) (p : Nat) (o : Offer) : State :=
  let v := versionOf (s.port p).vset o.vset.toNat
  let common := ((s.port p).trained &&& o.pairs).toNat
  if v = 0 then s.goDown p 2 false
  else if pairCount common < 2 then s.goDown p 1 false
  else s.goUp p v (pairsFor v common) o

/-- The pairs in use without those that a lane above the error limit removes (R360). -/
def pairsLeft (s : State) (p : Nat) : Nat :=
  sumN (((List.range 4).filter fun j => (s.regF .lnkStatus [p] 43 40).testBit j &&
    !((s.port p).badLanes.getLsbD (2 * j) || (s.port p).badLanes.getLsbD (2 * j + 1))).map fun j => 2 ^ j)

/-- RETRAIN ends once two pairs or more have lock at both ends and a TRAIN flit of the recorded partner has come; until then what is left
of its 2 ms serves to regain lock, unless fewer than two pairs are left (R348, R360). -/
def tryResume (s : State) (p : Nat) : State :=
  if s.linkState p ≠ 5 then s
  else if pairCount (s.pairsLeft p) < 2 then s.goDown p 4 true
  else
    match (s.port p).offer with
    | none => s
    | some o =>
      let good := sumN (((List.range 4).filter fun j =>
        (s.regF .lnkStatus [p] 43 40).testBit j && (s.offeredPairs p).getLsbD j && o.pairs.getLsbD j).map fun j => 2 ^ j)
      if pairCount good < 2 then s
      else
        let v := s.linkVersion p
        (((s.setLinkState p 4).setWidth p v (pairsFor v good)).modPort p fun x => { x with naks := 0 }).resend p

/-- LANE_LOCK: the pairs that have PMD and FEC lock. -/
def laneLock (s : State) (p : Nat) (pairs : BitVec 4) : State :=
  match s.linkState p with
  | 2 =>
    let s := s.modPort p fun x => { x with trained := pairs }
    if pairs = 15 then s.goNegotiate p else s
  | 5 => (s.modPort p fun x => { x with trained := pairs }).tryResume p
  | _ => s

/-- LANE_LOCK_LOSS: an UP port retrains; in any other state the lane's pair has no lock any more (R348, R349, R360). -/
def laneLockLoss (s : State) (p l : Nat) : State :=
  if s.linkState p = 0 then s
  else
    let t := s.setRegF .lnkLane [p] (8 + l) (8 + l) 1
    if hasN [2, 3, 5] (s.linkState p) then t.modPort p fun x => { x with trained := x.trained &&& ~~~(BitVec.ofNat 4 (2 ^ (l / 2))) }
    else t.goRetrain p

def laneErrorLimit (s : State) (p l : Nat) : State :=
  if s.linkState p = 0 then s
  else
    let s := (s.setRegF .lnkLane [p] l l 1).modPort p fun x => { x with badLanes := x.badLanes ||| BitVec.ofNat 8 (2 ^ l) }
    if (s.regF .lnkLane [p] 23 16).testBit l then s.goRetrain p else s

def trainTimeout (s : State) (p : Nat) : State :=
  if s.linkState p = 2 then
    if 2 ≤ pairCount (s.port p).trained.toNat then s.goNegotiate p else s.goDown p 1 false
  else s

def negotiateTimeout (s : State) (p : Nat) : State :=
  if s.linkState p = 3 ∧ (s.port p).offer.isNone then s.goDown p 3 false else s

def retrainTimeout (s : State) (p : Nat) : State := if s.linkState p = 5 then s.goDown p 4 true else s

/-- PORT_POWER_OFF: the self-timed sides of the port's crossings reset, and the always-on domain holds them from then on (R348, R517, R519). -/
def portPowerOff (s : State) (p : Nat) : State :=
  ((s.goOff p).offNotice (17 * p) 17).modPort p fun x => { x with powered := false }

/-! ### Credits and acknowledgements (R357, R358) -/

/-- A message's credits have all returned. -/
def credited (s : State) (u : Purpose) : State :=
  match u with
  | .plain => s
  | .coll _ _ => s
  | .save c uid =>
    let saves := s.saves.map fun (v : Save) => if v.core = c ∧ v.uid = uid then { v with waiting := v.waiting - 1 } else v
    let ended := saves.any fun (v : Save) => decide (v.core = c ∧ v.uid = uid ∧ v.waiting = 0)
    if ended then { s with saves := saves.filter fun (v : Save) => !(decide (v.core = c ∧ v.uid = uid)) }.setPhase c uid .done
    else { s with saves := saves }
  | .shuf _ i shard =>
    { s with clusters := s.clusters.map fun ck => (ck.1, { ck.2 with coll := ck.2.coll.map fun x =>
        if x.id = i ∧ x.kind = 2 then { x with nodes := x.nodes.map fun n => if n.shard = shard then { n with owing := n.owing - 1 } else n }
        else x }) }

/-- n credits of a class come back, for the oldest messages first. -/
def payInflight : Nat → Nat → Nat → State → List (Nat × Nat × Purpose) → State × List (Nat × Nat × Purpose)
  | 0, _, _, s, l => (s, l)
  | _ + 1, _, _, s, [] => (s, [])
  | fuel + 1, cls, n, s, (c, k, u) :: t =>
    if c ≠ cls ∨ n = 0 then
      let r := payInflight fuel cls n s t
      (r.1, (c, k, u) :: r.2)
    else if k ≤ n then payInflight fuel cls (n - k) (s.credited u) t
    else (s, (c, k - n, u) :: t)

/-- The ACKSEQ and CREDIT fields of an intact flit: acknowledged flits leave the buffer, credits come back. -/
def applyAcks (s : State) (p : Nat) (f : List Byte) : State :=
  let a := be f 2 2
  let seq := a / 16
  let x := s.port p
  let upto := if a.testBit 2 then (match x.replay.findIdx? fun r => r.1 == seq with | some i => i + 1 | none => 0) else 0
  let s := s.modPort p fun x => { x with replay := x.replay.drop upto, naks := if 0 < upto then 0 else x.naks }
  let cr := be f 4 2
  let n := cr % 2048
  let cls := 4 * (cr / 8192) + cr / 2048 % 4
  if n = 0 then s else
    let r := payInflight ((s.port p).inflight.length + 1) cls n s (s.port p).inflight
    r.1.modPort p fun x => { x with credits := x.credits.set cls (x.credits.get 0 cls + n), inflight := r.2 }

/-- The ACK and CREDIT fields of an intact flit (R364): after its acknowledgement a NAK sends the rest again, and 16 with no advance of
ACKSEQ retrain the port. -/
def applyFields (s : State) (p : Nat) (f : List Byte) : State :=
  let s := s.applyAcks p f
  if (be f 2 2).testBit 3 then
    let s := ((s.bump .lnkErr [p] 31 16).pmcDie 0x83 p 1).modPort p fun x => { x with naks := x.naks + 1 }
    if 16 ≤ (s.port p).naks then s.goRetrain p else s.resend p
  else s

/-! ### TRAIN flits (R349) -/

/-- TRAIN_FLIT_SEND: the fourth sent after the partner's ends NEGOTIATE. -/
def trainSend (s : State) (p : Nat) : State :=
  if s.linkState p = 3 ∨ s.linkState p = 5 then
    let t := s.sendFlit p (s.port p).txSeq 2 (s.offerBytes p)
    match (s.port p).offer with
    | none => t
    | some o =>
      if s.linkState p = 3 then
        if 4 ≤ (s.port p).sentAfter + 1 then t.finishNegotiate p o
        else t.modPort p fun x => { x with sentAfter := x.sentAfter + 1 }
      else t
  else s

def trainReceive (s : State) (p : Nat) (fecOk : Bool) (f : List Byte) : State :=
  if flitIntact fecOk f && ftype f == 2 then
    let o := Offer.parse ((f.drop 6).take 242)
    match s.linkState p with
    | 3 => if (s.port p).offer.isNone then s.modPort p fun x => { x with offer := some o, sentAfter := 0 } else s
    | 4 => if o.device = (s.port p).device then (s.goRetrain p).applyAcks p f else s.goDown p 5 true
    | 5 => if o.device = (s.port p).device then ((s.applyAcks p f).modPort p fun x => { x with offer := some o }).tryResume p else s.goDown p 5 true
    | _ => s
  else s

/-! ### Delivery and forwarding (R351, R361) -/

/-- A message has arrived at port p; without its keeper the module drops data messages for it (R576). -/
def arrive (s : State) (p : Nat) (m : Msg) : State :=
  let data := m.vc != 4
  if data && !s.moduleValid then (s.unroutable p).owe p m
  else if data && !s.ready && (m.neigh || m.dest == s.moduleIx) then (s.unroutable p).owe p m
  else if m.neigh || m.dest == s.moduleIx then s.modPort p fun x => { x with inbox := x.inbox ++ [m] }
  else
    let out := (m.path.getD m.stage 0xFF).toNat
    if m.stage = 3 ∨ 16 ≤ out ∨ s.isUp out = false then (s.unroutable p).owe p m
    else { s with waiting := s.waiting ++ [⟨{ m with stage := m.stage + 1 }, BitVec.ofNat 16 (2 ^ out), some p, .plain⟩] }

/-- The messages that a byte stream holds whole, from a message start; what is left of an unfinished one. -/
def takeMsgs : Nat → State → Nat → List Byte → State × List Byte
  | 0, s, _, bs => (s, bs)
  | fuel + 1, s, p, bs =>
    match bs with
    | [] => (s, [])
    | b :: _ =>
      if b = 0 then (s, [])
      else if bs.length < 16 then (s, bs)
      else
        let len := be bs 2 2
        if bs.length < 16 + len then (s, bs)
        else
          let m := Msg.parse bs
          let t := if carries (s.linkVersion p) m.type && decide (len ≤ maxLength m.type) then s.arrive p m
            else (s.bump .lnkErr [p] 63 48).owe p m
          takeMsgs fuel t p (bs.drop (16 + len))

/-- ACK_TIMER: a flit with nothing to send carries the acknowledgement and credits. -/
def ackTimer (s : State) (p : Nat) : State := if s.isUp p then s.sendFlit p (s.port p).txSeq 1 [] else s

/-- With 64 DATA flits taken and none acknowledged, an acknowledgement goes out (R358). -/
def ackDue (s : State) (p : Nat) : State := if 64 ≤ (s.port p).unacked then s.ackTimer p else s

/-- DATA_FLIT_RECEIVE (R358): the next one in sequence is accepted, any other is dropped with a NAK. -/
def dataReceive (s : State) (p : Nat) (fecOk : Bool) (f : List Byte) : State :=
  if !s.isUp p then if s.linkState p = 5 && flitIntact fecOk f && decide (3 ≤ ftype f) then s.bump .lnkErr [p] 63 48 else s
  else if !flitIntact fecOk f then (s.bump .lnkErr [p] 15 0).modPort p fun x => { x with nakDue := true }
  else if 3 ≤ ftype f then s.bump .lnkErr [p] 63 48
  else if ftype f ≠ 0 then s
  else if be f 0 2 / 16 ≠ (s.port p).rxNext then s.modPort p fun x => { x with nakDue := true }
  else
    let s := s.modPort p fun x => { x with rxNext := (x.rxNext + 1) % 4096, rxAny := true, unacked := x.unacked + 1 }
    let s := s.applyFields p f
    let bs := (s.port p).rxBytes ++ (f.drop 6).take 242
    let r := takeMsgs (bs.length + 1) s p bs
    (r.1.modPort p fun x => { x with rxBytes := r.2 }).ackDue p

def idleReceive (s : State) (p : Nat) (fecOk : Bool) (f : List Byte) : State :=
  if s.isUp p && flitIntact fecOk f && ftype f == 1 then s.applyFields p f else s

def ackTimeout (s : State) (p : Nat) : State := if s.isUp p && !(s.port p).replay.isEmpty then s.goRetrain p else s

/-! ### Sending (R357, R361, R362) -/

def wantsPort (w : Waiting) (p : Nat) : Bool := w.ports.getLsbD p

/-- Is port p usable for a message: UP at a version that carries it? -/
def usable (s : State) (p : Nat) (m : Msg) : Bool :=
  s.isUp p && carries (s.linkVersion p) m.type && (s.linkVersion p != 1 || m.fitsG1)

/-- The usable port of a message with the most credits of its class, ties to the lowest. -/
def bestPort (s : State) (w : Waiting) : Option Nat :=
  (List.range 16).foldl (fun (a : Option Nat) p =>
    if wantsPort w p && s.usable p w.msg then
      match a with
      | none => some p
      | some q =>
        if (s.port q).credits.get 0 w.msg.credClass < (s.port p).credits.get 0 w.msg.credClass then some p else a
    else a) none

/-- A collective message sent is progress of its instance (R386) and counts for the engine that sends it (R541). -/
def noteSent (s : State) (u : Purpose) : State :=
  let mark := fun (cl : Nat) (i : InstId) (shuf : Bool) =>
    let own := fun (x : CollInst) => decide (x.id = i) && (x.kind == 2) == shuf
    let t := s.modCl cl fun k => { k with coll := k.coll.map fun x => bif own x then { x with last := s.tick } else x }
    t.pmcDie 0x88 cl 1
  match u with
  | .coll cl i => mark cl i false
  | .shuf cl i _ => mark cl i true
  | _ => s

/-- A message's flits leave on port p. -/
def sendOn (s : State) (p : Nat) (w : Waiting) : State :=
  let m := w.msg
  let s := (chunksOf 242 m.bytes).foldl (fun t pl =>
    let q := (t.port p).txSeq
    let cr := creditBytes (t.creditDue p)
    (t.sendFlit p q 0 pl).modPort p fun x => { x with txSeq := (q + 1) % 4096, replay := x.replay ++ [(q, cr ++ pl)] }) s
  let s := s.modPort p fun x =>
    { x with credits := x.credits.set m.credClass (x.credits.get 0 m.credClass - m.creditsNeeded),
             inflight := x.inflight ++ [(m.credClass, m.creditsNeeded, w.purpose)] }
  match w.origin with
  | some q => s.owe q { m with stage := m.stage - 1 }
  | none => s.noteSent w.purpose

/-- MESSAGE_SEND: waiting message i starts on its best port once that port holds its credits; with no usable port it is dropped
and counted, but a pace notice waits for a port in RETRAIN (R363). -/
def messageSend (s : State) (i : Nat) : State :=
  match s.waiting[i]? with
  | none => s
  | some w =>
    let rest := { s with waiting := s.waiting.eraseIdx i }
    match s.bestPort w with
    | some p =>
      let x := s.port p
      if w.msg.creditsNeeded ≤ x.credits.get 0 w.msg.credClass ∧ x.replay.length + (chunksOf 242 w.msg.bytes).length ≤ 512 then
        rest.sendOn p w
      else s
    | none =>
      if w.msg.type = 0x30 ∧ (List.range 16).any (fun p => wantsPort w p && s.linkState p == 5) then s
      else
        let lo := ((List.range 16).find? fun p => wantsPort w p).getD 0
        if w.origin.isSome then rest.dropTransit w else rest.unroutable lo

/-- A message of this module. -/
def newMsg (s : State) (mtype : Nat) (neigh : Bool) (dest : Half) (path : List Byte) (tag : Word) (data : List Byte) : Msg :=
  ⟨BitVec.ofNat 8 mtype, 0, neigh, dest, s.moduleIx, path, tag, data⟩

def queueMsg (s : State) (m : Msg) (ports : Half) (u : Purpose) : State := { s with waiting := s.waiting ++ [⟨m, ports, none, u⟩] }

/-- The LINK_ROUTES entry of a partition for a module and class. -/
def routeOf (s : State) (p : Nat) (dest : Half) (cls : Nat) : Option LinkRoute :=
  match (s.part p).img with
  | none => none
  | some im => im.links.find? fun r => decide (r.dest = dest.toNat) && r.cls == cls

/-- The route of any partition, lowest first: control traffic and forwarding by the keeper. -/
def anyRoute (s : State) (dest : Half) (cls : Nat) : Option LinkRoute := (List.range 16).findSome? fun p => s.routeOf p dest cls

/-- A message by a route, or nothing where the image names none. -/
def sendRoute (s : State) (r : Option LinkRoute) (mtype : Nat) (dest : Half) (tag : Word) (data : List Byte) (u : Purpose) : State :=
  match r with
  | none => s
  | some r => s.queueMsg (s.newMsg mtype false dest (r.path.take 3) tag data) r.mask u

/-- The first message of a type in a port's receive buffer, taken out, its credits to return. Data messages wait while the port's
cluster restarts (R361, R364; log 11). -/
def takeInbox (s : State) (p : Nat) (want : Msg → Bool) : Option (Msg × State) :=
  match (s.port p).inbox.findIdx? fun m => want m && !(m.vc != 4 && (s.cl (p / 2)).restarting) with
  | none => none
  | some i =>
    match (s.port p).inbox[i]? with
    | none => none
    | some m => some (m, (s.modPort p fun x => { x with inbox := x.inbox.eraseIdx i }).owe p m)

/-! ### Lane health and pace notices (R359, R363) -/

def healthSend (s : State) (p : Nat) : State :=
  if s.isUp p && s.linkVersion p == 3 then
    s.queueMsg (s.newMsg 0x33 true s.moduleIx [] 0 [BitVec.ofNat 8 (s.regF .lnkLane [p] 7 0), 0, 0, 0]) (BitVec.ofNat 16 (2 ^ p)) .plain
  else s

def healthReceive (s : State) (p : Nat) : State :=
  match s.takeInbox p fun m => m.type == 0x33 with
  | none => s
  | some (m, t) =>
    let bad := (m.data.headD 0) &&& BitVec.ofNat 8 (s.regF .lnkLane [p] 23 16)
    if bad = 0 then t
    else (t.modPort p fun x => { x with badLanes := x.badLanes ||| bad }).goRetrain p

/-- PACE: the factor and its sequence number are recorded (R363, R372). -/
def paceReceive (s : State) (p : Nat) : State :=
  match s.takeInbox p fun m => m.type == 0x30 with
  | none => s
  | some (m, t) =>
    let f := be m.data 0 1 % 4
    ((t.setRegF .lnkPace [p] 63 48 (be m.data 2 2)).setRegF .lnkPace [p] 33 32 f).setRegF .lnkPace [p] 34 34 (if f = 0 then 0 else 1)

def paceExpiry (s : State) (p : Nat) : State := (s.setRegF .lnkPace [p] 33 32 0).setRegF .lnkPace [p] 34 34 0

/-- PACE_NOTICE_DUE: a notice on every active port, a newer one replacing one not yet sent (R334, R363). -/
def paceNotice (s : State) : State :=
  if s.paceDue || (List.range 8).any (fun st => (s.stack st).pacing) then
    let f := s.regF .sluSummary [] 33 32
    let q := s.paceSeq + 1
    let ports := (List.range 16).filter fun p => (s.linkState p == 4 || s.linkState p == 5) && decide (2 ≤ s.linkVersion p)
    let s := { s with paceSeq := q, paceDue := false,
                      waiting := s.waiting.filter fun w => !(w.msg.type == 0x30 && w.origin.isNone) }
    ports.foldl (fun t p =>
      t.queueMsg (t.newMsg 0x30 true t.moduleIx [] 0 ([BitVec.ofNat 8 f, 0] ++ beBytes 2 q.toNat)) (BitVec.ofNat 16 (2 ^ p)) .plain) s
  else s

end State

def execPaceNoticeDue (s : State) : Out := .next s.paceNotice
/-- LNK_ENABLE_WRITE: a write of ENABLE; on a port whose power domain is off, setting it is the keeper's, who switches the domain on first
(R348, R580; log 22). -/
def execLnkEnableWrite (p : PortId) (en : Bool) (s : State) : Out :=
  .next (if en && !(s.port p).powered && !s.flitsLost p && !s.romOnly then s.lnkEnable p true else s.wroteAt .lnkCtrl [p] (some (s.lnkEnable p en)))
def execLnkCtrlRetrain (p : PortId) (s : State) : Out := .next (s.wroteAt .lnkCtrl [p] (some (s.goRetrain p)))
def execLnkCtrlFull (p : PortId) (s : State) : Out := .next (s.wroteAt .lnkCtrl [p] (some (s.lnkFull p)))
def execLnkCtrlOffer (p : PortId) (offer : BitVec 3) (s : State) : Out := .next (s.wroteAt .lnkCtrl [p] (s.wrOffer p offer.toNat))
def execLnkVcAllocWrite (p : PortId) (v : Long) (s : State) : Out := .next (s.wroteAt .lnkVcAlloc [p] (s.wrAlloc p v))
def execSignalDetected (p : PortId) (s : State) : Out := .next (s.signalDetected p)
def execLaneLock (p : PortId) (pairs : BitVec 4) (s : State) : Out := .next (s.laneLock p pairs)
def execLaneLockLoss (p : PortId) (lane : Fin 8) (s : State) : Out := .next (s.laneLockLoss p lane)
def execLaneErrorLimit (p : PortId) (lane : Fin 8) (s : State) : Out := .next (s.laneErrorLimit p lane)
def execTrainTimeout (p : PortId) (s : State) : Out := .next (s.trainTimeout p)
def execNegotiateTimeout (p : PortId) (s : State) : Out := .next (s.negotiateTimeout p)
def execRetrainTimeout (p : PortId) (s : State) : Out := .next (s.retrainTimeout p)
def execPortPowerOff (p : PortId) (s : State) : Out := .next (s.portPowerOff p)
def execTrainFlitSend (p : PortId) (s : State) : Out := .next (s.trainSend p)
def execTrainFlitReceive (p : PortId) (fecOk : Bool) (flit : List Byte) (s : State) : Out := .next (if s.flitsLost p then s else s.trainReceive p fecOk flit)
def execDataFlitReceive (p : PortId) (fecOk : Bool) (flit : List Byte) (s : State) : Out := .next (if s.flitsLost p then s else s.dataReceive p fecOk flit)
def execIdleFlitReceive (p : PortId) (fecOk : Bool) (flit : List Byte) (s : State) : Out := .next (if s.flitsLost p then s else s.idleReceive p fecOk flit)
def execAckTimer (p : PortId) (s : State) : Out := .next (s.ackTimer p)
def execAckTimeout (p : PortId) (s : State) : Out := .next (s.ackTimeout p)
def execMessageSend (i : Nat) (s : State) : Out := .next (s.messageSend i)
def execLinkHealthSend (p : PortId) (s : State) : Out := .next (s.healthSend p)
def execLinkHealthReceive (p : PortId) (s : State) : Out := .next (s.healthReceive p)
def execPace (p : PortId) (s : State) : Out := .next (s.paceReceive p)
def execPaceExpiry (p : PortId) (s : State) : Out := .next (s.paceExpiry p)

end Sys2Proof.Machine
end

