-- ==== Sys2Proof/Machine/Collective.lean ====
section
/-! DEFINITION. Collectives and the sample shuffle (R374-R397): instances, node values along a tree, status words, messages,
watchdogs, and the shuffle's permutation. Values between two local shards pass inside the module (log 24). -/

namespace Sys2Proof.Machine

/-! ### Status words (R381) -/

def StatusW.zero : StatusW := ⟨0, 0, 0, 0, 0, 0⟩

/-- Flags by OR, counts by saturating addition. -/
def StatusW.join (a b : StatusW) : StatusW :=
  ⟨a.flags ||| b.flags, satAdd 32 a.nonfin b.nonfin, satAdd 32 a.ovf b.ovf, satAdd 32 a.unf b.unf, satAdd 32 a.sub b.sub,
   a.shards + b.shards⟩

def StatusW.bytes (w : StatusW) (step : Word) : List Byte :=
  leBytes 4 step.toNat ++ leBytes 4 w.flags.toNat ++ leBytes 4 w.nonfin ++ leBytes 4 w.ovf ++ leBytes 4 w.unf ++ leBytes 4 w.sub ++
  leBytes 4 w.shards ++ fill 36 0

/-- The word as a COLL_STATUS message carries it: fields of a flit, big-endian (R8, R352, R384). -/
def StatusW.flitBytes (w : StatusW) (step : Word) : List Byte :=
  beBytes 4 step.toNat ++ beBytes 4 w.flags.toNat ++ beBytes 4 w.nonfin ++ beBytes 4 w.ovf ++ beBytes 4 w.unf ++ beBytes 4 w.sub ++
  beBytes 4 w.shards ++ fill 36 0

def StatusW.ofFlit (b : List Byte) : StatusW :=
  ⟨BitVec.ofNat 3 (be b 4 4), be b 8 4, be b 12 4, be b 16 4, be b 20 4, be b 24 4⟩

/-- One more value of a class. -/
def StatusW.count (w : StatusW) : GClass → StatusW
  | .none => w
  | .nonfin => { w with nonfin := satAdd 32 w.nonfin 1 }
  | .ovf => { w with ovf := satAdd 32 w.ovf 1 }
  | .unf => { w with unf := satAdd 32 w.unf 1 }
  | .sub => { w with sub := satAdd 32 w.sub 1 }

/-- The flags that values set: NONFIN bit 0, POISON bit 1; poison is not finite either (R59, R382; log 42). -/
def valueFlags (fmt : Nat) (vs : List Nat) : BitVec 3 :=
  if fmtIsFloat fmt then
    let fs := vs.map (decodeVal fmt)
    (if fs.any FVal.isNonfin then 1#3 else 0#3) ||| (if fs.any FVal.isPoison then 2#3 else 0#3)
  else 0

/-! ### Node values (R379, R380) -/

/-- The value of a node from all its terms, rounded once, with its class. -/
def nodeValue (fmt : Nat) (conv : BitVec 3) (redop : Nat) (ts : List Nat) : Nat × GClass :=
  if fmtIsFloat fmt then
    let vs := ts.map (decodeVal fmt)
    let v := match vs with
      | [] => .fin false 0 0
      | a :: t =>
        if redop = 1 then t.foldl fMax a else if redop = 2 then t.foldl fMin a
        else match specialOf vs with
          | some x => x
          | none => t.foldl FVal.add a
    encodeVal fmt (decide (4 ≤ conv.toNat)) (conv.toNat % 4) 0 v
  else
    let v := match ts with
      | [] => 0
      | a :: t => t.foldl (fun x y => if redop = 1 then iop 0x25 fmt x y 0 else if redop = 2 then iop 0x26 fmt x y 0 else (x + y) % 2 ^ 32) a
    (v, .none)

/-! ### The shuffle's permutation (R389) -/

/-- Half the bits of the cipher's block: the smallest w ≥ 1 with 2^(2w) ≥ D. -/
def shufW (d : Nat) : Nat := ((List.range 21).find? fun w => decide (1 ≤ w ∧ d ≤ 2 ^ (2 * w))).getD 20

/-- F_r(R): all 64 bits of the hash, cut to w bits by the rounds. -/
def shufF (seed : Long) (epoch : Word) (r x : Nat) : Nat := drawLong ⟨seed, epoch, BitVec.ofNat 32 (0xFFFFFF00 + r)⟩ x

/-- P: four rounds of (L, R) to (R, L xor F_r(R)). -/
def shufP (seed : Long) (epoch : Word) (w x : Nat) : Nat :=
  let m := 2 ^ w
  let p := (List.range 4).foldl (fun (a : Nat × Nat) r => (a.2, a.1 ^^^ (shufF seed epoch r a.2 % m))) (x / m, x % m)
  p.1 * m + p.2

/-- The inverse of P. -/
def shufQ (seed : Long) (epoch : Word) (w x : Nat) : Nat :=
  let m := 2 ^ w
  let p := [3, 2, 1, 0].foldl (fun (a : Nat × Nat) r => (a.2 ^^^ (shufF seed epoch r a.1 % m), a.1)) (x / m, x % m)
  p.1 * m + p.2

/-- A cipher applied until its result lies below d. -/
def walkBelow (f : Nat → Nat) (d : Nat) : Nat → Nat → Nat
  | 0, x => x
  | fuel + 1, x => let y := f x; if y < d then y else walkBelow f d fuel y

/-- The sample that position j receives. -/
def shufSample (seed : Long) (epoch : Word) (d j : Nat) : Nat :=
  let w := shufW d
  walkBelow (shufP seed epoch w) d (2 ^ (2 * w)) j

/-- The position that receives sample i (R390). -/
def shufPosition (seed : Long) (epoch : Word) (d i : Nat) : Nat :=
  let w := shufW d
  walkBelow (shufQ seed epoch w) d (2 ^ (2 * w)) i

/-- How many of 0 to d − 1 are shard mod S. -/
def shareOf (d s shard : Nat) : Nat := if shard < d then (d - shard + s - 1) / s else 0

namespace State

/-! ### Shards and their holders -/

/-- The shard in a local slot (R374), none in a slot to which the committed map gives no shard; a partition with no committed map takes
the slot's number (log 24). -/
def shardAt (s : State) (p slot : Nat) : Option Nat :=
  if s.job.maps.has p then
    ((s.job.maps.get ⟨0, false, 0, 0, []⟩ p).entries.find? fun e => e.2.holder == s.moduleIx && e.2.slot.toNat == slot).map (·.1)
  else some slot

/-- The module that holds a shard; none where it is this one. -/
def remoteHolder (s : State) (p shard : Nat) : Option Half :=
  if s.job.maps.has p then
    match ((s.job.maps.get ⟨0, false, 0, 0, []⟩ p).entries.find? fun e => e.1 == shard).map (·.2.holder) with
    | some h => if h = s.moduleIx then none else some h
    | none => none
  else none

def treeOf (s : State) (p id : Nat) : Option Tree :=
  match (s.part p).img with
  | none => none
  | some im => im.trees.find? fun t => t.id == id

def collGen (s : State) : Nat := s.regF .collGen [] 11 0

/-! ### Instances -/

/-- The cluster, instance and node of a shard in an instance of this module. -/
def findNode (s : State) (i : InstId) (kind : Nat) (shard : Nat) : Option (Nat × CollInst × Node) :=
  s.clusters.findSome? fun ck => ck.2.coll.findSome? fun x =>
    if x.id = i ∧ (x.kind = 2 ↔ kind = 2) then (x.nodes.find? fun n => n.shard == shard).map fun n => (ck.1, x, n) else none

def modInst (s : State) (cl : Nat) (i : InstId) (kind : Nat) (f : CollInst → CollInst) : State :=
  s.modCl cl fun k => { k with coll := k.coll.map fun x => if x.id = i ∧ x.kind = kind then f x else x }

def modNode (s : State) (cl : Nat) (i : InstId) (kind shard : Nat) (f : Node → Node) : State :=
  s.modInst cl i kind fun x => { x with nodes := x.nodes.map fun n => if n.shard = shard then f n else n }

def progress (s : State) (cl : Nat) (i : InstId) (kind : Nat) : State := s.modInst cl i kind fun x => { x with last := s.tick }

/-! ### Pace and watchdogs (R386, R387) -/

/-- The code of the smallest factor in force at the module: its own and those that the ports' neighbours gave. -/
def paceHere (s : State) : Nat :=
  (s.regF .sluSummary [] 33 32 :: (List.range 16).map fun p =>
    if s.regF .lnkPace [p] 34 34 = 1 then s.regF .lnkPace [p] 33 32 else 0).foldl max 0

/-- The same with PACE fields received, of which those of the last 300 µs count. -/
def paceMax (s : State) (l : List (Nat × Long)) : Nat := (l.map fun q => if (s.tick - q.2).toNat ≤ 30000 then q.1 else 0).foldl max s.paceHere

/-- The code of the smallest factor in force for an instance, whose messages of the last 300 µs count too. -/
def paceCodeOf (s : State) (x : CollInst) : Nat := s.paceMax x.paces

/-- COLL_WDOG.TICKS × M. -/
def watchLimit (s : State) (cl : Nat) (x : CollInst) : Nat :=
  let t := s.regF .collWdog [cl] 31 0
  match s.paceCodeOf x with
  | 0 => t
  | 1 => (4 * t + 2) / 3
  | 2 => 2 * t
  | _ => 4 * t

/-! ### Messages (R384) -/

/-- The 16-byte sub-header, with the generation of the instance; the PACE bits are filled in when the message is admitted (R387). -/
def collHead (gen word0 src dst w3 : Nat) : List Byte :=
  beBytes 4 word0 ++ beBytes 4 (gen * 2 ^ 20 + src % 2 ^ 20) ++ beBytes 4 dst ++ beBytes 4 w3

def collTag (i : InstId) (phase : Nat) : Word := BitVec.ofNat 32 (i.part.val * 2 ^ 28 + i.tree.toNat * 2 ^ 12 + i.call.toNat * 16 + phase)

/-- The spans of n bytes from an offset in a list of spans. -/
def cutSpans : List Span → Nat → Nat → List Span
  | [], _, _ => []
  | x :: t, lo, n =>
    if x.len ≤ lo then cutSpans t (lo - x.len) n
    else if n = 0 then []
    else
      let k := min n (x.len - lo)
      ⟨x.place, x.lo + lo, k⟩ :: cutSpans t 0 (n - k)

/-- The PACE fields that a running instance has received. -/
def pacesOf (s : State) (cl : Nat) (i : InstId) (kind : Nat) : List (Nat × Long) :=
  (((s.cl cl).coll.find? fun x => decide (x.id = i) && (x.kind == 2) == (kind == 2)).map (·.paces)).getD []

/-- A message to a shard on another module joins the cluster's due messages; `tier` is where its bytes lie (R482). -/
def pushDue (s : State) (cl : Nat) (i : InstId) (mtype cls phase dst : Nat) (data : List Byte) (u : Purpose) (tier : List Span) : State :=
  match s.remoteHolder i.part dst with
  | none => s
  | some h =>
    match s.routeOf i.part h cls with
    | none => s
    | some r =>
      let m := s.newMsg mtype false h (r.path.take 3) (collTag i phase) data
      let n := fun (slow : Bool) => sumN ((tier.filter fun x => decide (x.place = .tier slow)).map (·.len))
      s.modCl cl fun k => { k with due := k.due ++ [⟨i.part, m, r.mask, u, n false, n true, s.pacesOf cl i (if mtype = 3 then 2 else 0)⟩] }

/-- The generation that an instance began in. -/
def genOf (s : State) (cl : Nat) (i : InstId) : Nat := (((s.cl cl).coll.find? fun x => decide (x.id = i)).map (·.gen)).getD s.collGen

/-- Elements to a shard, 4,080 bytes a message; `off` is the first element's place in what the receiver forms. The bytes of an element
stand in the order they have in memory, little-endian (DESIGN CHOICE, log 24: R8 and R384 give elements of a message no order). -/
def pushData (s : State) (cl : Nat) (i : InstId) (fmt phase src dst off : Nat) (vs : List Nat) (tier : List Span) : State :=
  let es := fmtWidth fmt / 8
  let per := 4080 / max es 1
  ((List.range ((vs.length + per - 1) / per)).zip (chunksOf per vs)).foldl (fun t kv =>
    t.pushDue cl i 0x01 0 phase dst (collHead (t.genOf cl i) i.step.toNat src dst (off + kv.1 * per) ++ kv.2.flatMap fun v => leBytes es v) (.coll cl i)
      (cutSpans tier (kv.1 * per * es) (kv.2.length * es))) s

def pushStatus (s : State) (cl : Nat) (i : InstId) (phase src dst : Nat) (w : StatusW) (step : Word) : State :=
  s.pushDue cl i 0x02 0 phase dst (collHead (s.genOf cl i) i.step.toNat src dst 0 ++ w.flitBytes step) (.coll cl i) []

/-! ### COLL and COLL_STAT fire (R374-R383) -/

/-- The step that a word reports (R381). -/
def reported (x : CollInst) : Word := if x.kind = 1 then x.id.step - 1 else x.id.step

def collAccepts (s : State) (c : Nat) (e : Entry) : Bool :=
  decide ((s.cl (c / 16)).coll.length < 64) && !(s.cl (c / 16)).restarting &&
  (e.opcode == 0x52 || (let d := s.desc c (getF e.op 39 28)
    (s.spacePlace c (dF d 2 1) (dF d 3 1) ++ s.spacePlace c (dF d 4 1) (dF d 5 1)).all s.placeFree))

/-- A node joins its instance in the cluster, which is made if it is not there. -/
def addNode (s : State) (cl : Nat) (x : CollInst) (n : Node) : State :=
  s.modCl cl fun k =>
    if k.coll.any fun y => decide (y.id = x.id) && y.kind == x.kind then
      { k with coll := k.coll.map fun y => if y.id = x.id ∧ y.kind = x.kind then { y with nodes := y.nodes ++ [n], last := s.tick } else y }
    else { k with coll := k.coll ++ [{ x with nodes := [n] }] }

/-- What a shard contributes to COLL_STAT (R383, R435). -/
def stepStatus (s : State) (c p shard : Nat) (e : Entry) : StatusW :=
  let x := s.part p
  let mine := if s.job.maps.has p then
      ((s.job.maps.get ⟨0, false, 0, 0, []⟩ p).entries.filter fun m => m.2.holder == s.moduleIx).map (·.1)
    else []
  let _ := c
  if x.firstStep = e.step ∨ mine.any (fun k => decide (k < shard)) ∨ (!s.job.maps.has p && shard != 0) then { StatusW.zero with shards := 1 }
  else
    let st := e.step - 1
    let gs := x.lastGauge.map (·.2)
    let sum := fun (f : Gauge → Nat) => gs.foldl (fun a g => satAdd 32 a (f g)) 0
    let nf := sum (·.nonfin)
    ⟨(if nf = 0 then 0#3 else 1#3) ||| (if x.poison.any fun w => w == st then 2#3 else 0#3) |||
       (if x.fellBack.any fun w => w == st then 4#3 else 0#3), nf, sum (·.ovf), sum (·.unf), sum (·.sub), 1⟩

/-- How many elements an instance's destination holds (R378). -/
def dstElems (op e n : Nat) : Nat := if op = 1 then e / max n 1 else if op = 2 then n * e else e

/-- The direct exchange of all-gather and all-to-all between two shards: the place in the receiver's destination and the values. -/
def exchangeOf (op e n src dst : Nat) (vs : List Nat) : Nat × List Nat :=
  if op = 2 then (src * e, vs) else (src * (e / max n 1), (vs.drop (dst * (e / max n 1))).take (e / max n 1))

def putElems (m : FMap Nat) (off : Nat) (vs : List Nat) : FMap Nat :=
  ((List.range vs.length).zip vs).foldl (fun a iv => a.set (off + iv.1) iv.2) m

/-- What a fired shard exchanges (OP 2 and 3): with every other shard of the tree, through messages or inside the module with
those that have fired. -/
def exchange (s : State) (cl : Nat) (i : InstId) (tr : Tree) (shard e : Nat) (vs : List Nat) (tier : List Span) : State :=
  let n := tr.nodes.length
  (List.range n).foldl (fun t d =>
    if d = shard then
      let x := exchangeOf tr.op e n shard shard vs
      t.modNode cl i 0 shard fun k => { k with result := putElems k.result x.1 x.2 }
    else if (s.remoteHolder i.part d).isSome then
      let x := exchangeOf tr.op e n shard d vs
      let es := fmtWidth tr.fmt / 8
      t.pushData cl i tr.fmt 2 shard d x.1 x.2 (if tr.op = 2 then tier else cutSpans tier (d * (e / max n 1) * es) (e / max n 1 * es))
    else
      match t.findNode i 0 d with
      | none => t
      | some (cd, _, nd) =>
        let out := exchangeOf tr.op e n shard d vs
        let back := exchangeOf tr.op e n d shard nd.src
        (t.modNode cd i 0 d fun k => { k with result := putElems k.result out.1 out.2 }).modNode cl i 0 shard fun k =>
          { k with result := putElems k.result back.1 back.2 }) s

def instIdOf (p : Nat) (e : Entry) : InstId := ⟨BitVec.ofNat 4 p |>.toFin, BitVec.ofNat 16 (getF e.op 55 40), BitVec.ofNat 8 (getF e.op 21 14), e.step⟩

/-- The virtual addresses of pieces: the first n where `virt`, the others always. -/
def addrsOf (virt : Bool) (l : List Piece) (n : Nat) : List (Option Nat) :=
  ((List.range l.length).zip l).map fun q => if virt || decide (n ≤ q.1) then some q.2.va else none

/-- COLL or COLL_STAT joins its instance. In a slot without a shard it contributes nothing and writes nothing (log 24). -/
def fireColl (s : State) (c : Nat) (e : Entry) (stat : Bool) : State :=
  match (s.core c).part with
  | none => s
  | some p =>
    match s.treeOf p (getF e.op 55 40) with
    | none => s
    | some tr =>
      let d := s.desc c (getF e.op 39 28)
      let pages := s.pagesOf c
      let n := tr.nodes.length
      let el := if stat then 0 else dF d 0x14 4
      let es := fmtWidth tr.fmt / 8
      let src := s.side c (dF d 2 1) (dF d 3 1) (dF d 8 6)
      let dst := s.side c (dF d 4 1) (dF d 5 1) (dF d 0x0E 6)
      let word : Side := ⟨true, none, dF d 0x18 6⟩
      let sr := if stat then [] else [(0, el * es)]
      let dr := if stat then [] else [(0, dstElems tr.op el n * es)]
      let chk := if stat then none else s.sideFault c pages src 0 [0x14] sr <|> s.sideFault c pages dst 1 [0x14] dr
      match chk <|> s.sideFault c pages word 1 [] [(0, 64)] with
      | some f => s.fault c e f.1 noIndex f.2
      | none =>
        let ps := src.pieces pages 0 sr
        let pd := dst.pieces pages 1 dr ++ word.pieces pages 1 [(0, 64)]
        let t := s.bindSpans c e (spansOf ps)
        let r := (t.readPieces ps).inFormat tr.fmt ps
        match r.bad with
        | some a => (r.st.scramblePieces pd).fault c e 8 noIndex (src.addrOf a)
        | none =>
          let vs := (chunksOf (max es 1) (deliver tr.fmt r.bytes)).map fromLE
          match s.shardAt p (getF e.op 27 24) with
          | none => r.st
          | some shard =>
          let i := instIdOf p e
          let fl := if tr.op = 4 ∧ (tr.nodes.getD shard (none, 0)).1.isSome then 0 else valueFlags tr.fmt vs
          let own := if stat then s.stepStatus c p shard e else { StatusW.zero with flags := fl, shards := 1 }
          let node : Node := ⟨shard, c, e.uid, vs, own, spansOf ps, spansOf pd, addrsOf dst.virt pd (pd.length - 1), [], [], false, [], none, 0⟩
          let x : CollInst := ⟨i, if stat then 1 else 0, 0, getF e.op 23 22, el, 0, [], s.tick, [], s.collGen⟩
          let u := ((r.st.setPhase c e.uid .fired).releaseLoad c e.uid).addNode (c / 16) x node
          if stat = false ∧ (tr.op = 2 ∨ tr.op = 3) then u.exchange (c / 16) i tr shard el vs (spansOf ps) else u

/-! ### NODE_COMBINE (R379) -/

/-- The children of a shard. -/
def childrenOf (tr : Tree) (shard : Nat) : List Nat :=
  (List.range tr.nodes.length).filter fun k => decide ((tr.nodes.getD k (none, 0)).1 = some shard)

/-- Has a node every term and word of its children? -/
def nodeReady (x : CollInst) (tr : Tree) (n : Node) : Bool :=
  !n.sent && (childrenOf tr n.shard).all fun k =>
    n.words.has k && (x.kind == 1 || 2 ≤ tr.op || (List.range x.elems).all fun j => (n.terms.get [] k).has j)

/-- A node's values and word. -/
def nodeResult (x : CollInst) (tr : Tree) (n : Node) : List Nat × StatusW :=
  let ks := childrenOf tr n.shard
  let word := ks.foldl (fun w k => w.join (n.words.get StatusW.zero k)) n.own
  if x.kind = 1 ∨ 2 ≤ tr.op then ([], word)
  else
    let vs := (List.range x.elems).map fun j =>
      nodeValue tr.fmt tr.rmode x.redop (n.src.getD j 0 :: ks.map fun k => (n.terms.get [] k).get 0 j)
    let word := vs.foldl (fun w v => StatusW.count w v.2) word
    (vs.map (·.1), { word with flags := word.flags ||| valueFlags tr.fmt (vs.map (·.1)) })

/-- A node's value goes to its parent, or at the root becomes the result. -/
def sendUp (s : State) (cl : Nat) (x : CollInst) (tr : Tree) (n : Node) (vs : List Nat) (w : StatusW) : State :=
  let s := s.modNode cl x.id x.kind n.shard fun k => { k with sent := true }
  match (tr.nodes.getD n.shard (none, 0)).1 with
  | none =>
    s.modNode cl x.id x.kind n.shard fun k =>
      { k with final := some w, result := if x.kind = 1 ∨ tr.op = 2 ∨ tr.op = 3 then k.result
                                          else putElems [] 0 (if tr.op = 4 then n.src else vs) }
  | some q =>
    if (s.remoteHolder x.id.part q).isSome then
      (s.pushData cl x.id tr.fmt 0 n.shard q 0 vs n.srcAt).pushStatus cl x.id 0 n.shard q w (reported x)
    else
      match s.findNode x.id x.kind q with
      | none => s
      | some (cq, _, _) =>
        (s.modNode cq x.id x.kind q fun k =>
          { k with terms := k.terms.set n.shard (putElems [] 0 vs), words := k.words.set n.shard w }).progress cq x.id x.kind

def localParentReady (s : State) (x : CollInst) (tr : Tree) (n : Node) : Bool :=
  match (tr.nodes.getD n.shard (none, 0)).1 with
  | none => true
  | some q => (s.remoteHolder x.id.part q).isSome || (s.findNode x.id x.kind q).isSome

/-- NODE_COMBINE: once all terms are present the combine is charged to the reserve, which no case stops for good (R36, R487), and the
value goes onward; a poison value counts in the step (R49). -/
def nodeCombine (s : State) (cl : Nat) (i : InstId) (shard : Nat) : State :=
  match (s.cl cl).coll.find? fun x => decide (x.id = i) && x.kind != 2 && x.nodes.any fun n => n.shard == shard with
  | none => s
  | some x =>
    match x.nodes.find? (fun n => n.shard == shard), s.treeOf i.part i.tree.toNat with
    | some n, some tr =>
      if nodeReady x tr n && s.localParentReady x tr n then
        let r := nodeResult x tr n
        let ch : List Charge := [⟨0x24, tr.fmt, 0xFF, r.1.length * (fmtWidth tr.fmt / 8), 1024⟩]
        let t := s.chargeReserve i.part ch
        let t := if (valueFlags tr.fmt r.1).getLsbD 1 then t.poisonStep i.part i.step else t
        t.sendUp cl x tr n r.1 r.2
      else s
    | _, _ => s

/-! ### Completion -/

/-- The node is done: its entry may complete once no byte of it is held, and it leaves the instance. -/
def dropNode (s : State) (cl : Nat) (x : CollInst) (n : Node) : State :=
  let cut := fun (y : CollInst) => if y.id = x.id ∧ y.kind = x.kind then { y with nodes := y.nodes.filter fun m => m.shard != n.shard } else y
  s.modCl cl fun k => { k with coll := (k.coll.map cut).filter fun y => !y.nodes.isEmpty }

/-- The result goes down to the children of a shard (OP 0, 1 and 4 with data, all with the word). -/
def sendDown (s : State) (cl : Nat) (x : CollInst) (tr : Tree) (n : Node) (w : StatusW) : State :=
  let carry := x.kind == 0 && tr.op != 2 && tr.op != 3
  let vs := if carry then (List.range x.elems).map fun j => n.result.get 0 j else []
  (childrenOf tr n.shard).foldl (fun t k =>
    if (s.remoteHolder x.id.part k).isSome then
      (t.pushData cl x.id tr.fmt 1 n.shard k 0 vs (n.dst.take (n.dst.length - 1))).pushStatus cl x.id 1 n.shard k w (reported x)
    else
      match t.findNode x.id x.kind k with
      | none => t
      | some (ck, _, _) =>
        (t.modNode ck x.id x.kind k fun m => { m with final := some w, result := if carry then putElems m.result 0 vs else m.result }).progress
          ck x.id x.kind) s

/-- The elements that a shard writes: its part of a reduce-scatter, or the whole result. -/
def dstValues (x : CollInst) (tr : Tree) (n : Node) : List Nat :=
  let k := dstElems tr.op x.elems tr.nodes.length
  let lo := if tr.op = 1 then n.shard * k else 0
  if x.kind = 1 then [] else (List.range k).map fun j => n.result.get 0 (lo + j)

def resultWhole (x : CollInst) (tr : Tree) (n : Node) : Bool :=
  x.kind == 1 ||
  (let need := if tr.op = 1 then x.elems else dstElems tr.op x.elems tr.nodes.length
   (List.range need).all fun j => n.result.has j)

/-- A shard's collective completes: destination, then status word. -/
def completeNode (s : State) (cl : Nat) (x : CollInst) (tr : Tree) (n : Node) (w : StatusW) : State :=
  let es := fmtWidth tr.fmt / 8
  let bs := ((dstValues x tr n).flatMap fun v => leBytes es v) ++ w.bytes (reported x)
  let s := (s.sendDown cl x tr n w).dropNode cl x n
  let r := s.storeSpans n.core n.uid n.dst (n.dst.zip n.vas) bs
  match r.2, s.entry? n.core n.uid with
  | some a, some e => (r.1.scrambleAll n.dst).fault n.core e 8 noIndex a
  | _, _ => (r.1.setPhase n.core n.uid .done).waitHeld n.core n.uid

/-- A shard's part in a shuffle is complete: its samples are sent and credited and its positions written whole (R391). -/
def shufWhole (x : CollInst) (n : Node) (shards : Nat) : Bool :=
  n.owing == 0 && (List.range (shareOf x.samples shards n.shard)).all fun k => decide (x.elems * 128 ≤ n.result.get 0 k)

/-- The shards of the tree that a partition's shuffles span. -/
def shufShards (s : State) (p : Nat) : Nat := (((s.part p).img).bind fun im => im.trees.head?.map fun t => t.nodes.length).getD 1

/-- Is a shard's part in an instance at its end? -/
def canComplete (s : State) (x : CollInst) (n : Node) : Bool :=
  if x.kind = 2 then shufWhole x n (s.shufShards x.id.part)
  else match s.treeOf x.id.part x.id.tree.toNat with
    | some tr => n.final.isSome && resultWhole x tr n
    | none => false

/-- COLL_INSTANCE_COMPLETE for a shard of the instance. -/
def collComplete (s : State) (cl : Nat) (i : InstId) (shard : Nat) : State :=
  match (s.cl cl).coll.findSome? fun x =>
      if x.id = i then (x.nodes.find? fun n => n.shard == shard && s.canComplete x n).map fun n => (x, n) else none with
  | none => s
  | some (x, n) =>
    if x.kind = 2 then ((s.dropNode cl x n).setPhase n.core n.uid .done).waitHeld n.core n.uid
    else
      match s.treeOf i.part i.tree.toNat, n.final with
      | some tr, some w => s.completeNode cl x tr n w
      | _, _ => s

/-! ### SHUF (R389-R391) -/

/-- The spans of n bytes from an offset in a list of spans with their addresses. -/
def cutNamed : List (Span × Option Nat) → Nat → Nat → List (Span × Option Nat)
  | [], _, _ => []
  | (x, v) :: t, lo, n =>
    if x.len ≤ lo then cutNamed t (lo - x.len) n
    else if n = 0 then []
    else
      let k := min n (x.len - lo)
      (⟨x.place, x.lo + lo, k⟩, v.map fun a => a + lo) :: cutNamed t 0 (n - k)

/-- Bytes of a sample go to a local shard that has fired. -/
def shufPut (s : State) (i : InstId) (dst pos off : Nat) (units : Nat) (bs : List Byte) : State :=
  match s.findNode i 2 dst with
  | none => s
  | some (cl, _, n) =>
    let lo := pos * (units * 128) + off
    let r := s.storeSpans n.core n.uid n.dst (cutNamed (n.dst.zip n.vas) lo bs.length) bs
    let t := (r.1.modNode cl i 2 dst fun k => { k with result := k.result.set pos (k.result.get 0 pos + bs.length) }).progress cl i 2
    match r.2, t.entry? n.core n.uid with
    | some a, some e => (t.scrambleAll n.dst).fault n.core e 8 noIndex a
    | _, _ => t

/-- Sample bytes a SHUFFLE message carries: 4,096 less its two 16-byte headers (log 24). -/
def shufMax : Nat := 4064

/-- A shard's part in a shuffle owes n samples more (R391). -/
def shufOwes (s : State) (cl : Nat) (i : InstId) (shard n : Nat) : State :=
  s.modNode cl i 2 shard fun q => { q with owing := q.owing + n }

/-- A sample of a shard to a shard of this module: where that one has fired it is put in its place, and otherwise it is owed until it
fires (R391); `late` is that firing. -/
def shufLocal (s : State) (cl : Nat) (i : InstId) (shard dst pos units : Nat) (bs : List Byte) (late : Bool) : State :=
  if (s.findNode i 2 dst).isNone then s.shufOwes cl i shard 1
  else
    let t := s.shufPut i dst pos 0 units bs
    if late then t.modNode cl i 2 shard fun q => { q with owing := q.owing - 1 } else t

/-- The samples of one shard: as messages to the shards of other modules and put in place for those of this one, or only those of a local
shard that fires after it. -/
def shufSend (s : State) (cl : Nat) (i : InstId) (seed : Long) (x : CollInst) (shards : Nat) (n : Node) (only : Option Nat) : State :=
  let size := x.elems * 128
  (List.range (shareOf x.samples shards n.shard)).foldl (fun t k =>
    let j := shufPosition seed x.epoch x.samples (n.shard + k * shards)
    let dst := j % shards
    let bs := ((n.src.drop (k * size)).take size).map fun b => BitVec.ofNat 8 b
    match only with
    | some d => if dst = d then t.shufLocal cl i n.shard dst (j / shards) x.elems bs true else t
    | none =>
      if (s.remoteHolder i.part dst).isSome then
        ((List.range ((size + shufMax - 1) / shufMax)).zip (chunksOf shufMax bs)).foldl (fun u ob =>
          let head := collHead x.gen x.epoch.toNat n.shard (j / 2 ^ 32 % 2 ^ 16) (j % 2 ^ 32)
          (u.shufOwes cl i n.shard 1).pushDue cl i 0x03 2 2 dst (head ++ beBytes 4 (ob.1 * shufMax) ++ fill 12 0 ++ ob.2)
            (.shuf cl i n.shard) (cutSpans n.srcAt (k * size + ob.1 * shufMax) ob.2.length)) t
      else t.shufLocal cl i n.shard dst (j / shards) x.elems bs false) s

/-- SHUF fires; in a slot without a shard it has no sample to send or to receive (log 24). -/
def fireShuf (s : State) (c : Nat) (e : Entry) : State :=
  match (s.core c).part, s.imgOf c with
  | some p, some im =>
    let d := s.desc c (getF e.op 39 28)
    let shards := (im.trees.head?.map fun t => t.nodes.length).getD 1
    let units := dF d 4 4
    let total := dF d 0x18 6
    let slot := s.shardAt p (getF e.op 27 24)
    let shard := slot.getD 0
    let len := if slot.isNone then 0 else shareOf total shards shard * (units * 128)
    let src : Side := ⟨true, none, dF d 8 6⟩
    let dst : Side := ⟨true, none, dF d 0x10 6⟩
    match s.sideFault c im.pages src 0 [] [(0, len)] <|> s.sideFault c im.pages dst 1 [] [(0, len)] with
    | some f => s.fault c e f.1 noIndex f.2
    | none =>
      let epoch := s.scalarOf c e
      let ps := src.pieces im.pages 0 [(0, len)]
      let pd := dst.pieces im.pages 1 [(0, len)]
      let r := (s.bindSpans c e (spansOf ps)).readPieces ps
      match r.bad with
      | some a => (r.st.scramblePieces pd).fault c e 8 noIndex (some a)
      | none =>
        if slot.isNone then r.st else
        let cl := c / 16
        let i := { instIdOf p e with tree := 0 }
        let node : Node := ⟨shard, c, e.uid, r.bytes.map fun b => (b.getD 0xFF).toNat, StatusW.zero, spansOf ps, spansOf pd,
          pd.map (fun q => some q.va), [], [], true, [], none, 0⟩
        let x : CollInst := ⟨i, 2, epoch, 0, units, total, [], s.tick, [], s.collGen⟩
        let others := s.clusters.flatMap fun ck => (ck.2.coll.filter fun y => decide (y.id = i) && y.kind == 2).flatMap fun y => y.nodes.map fun m => (ck.1, m)
        let t := ((r.st.setPhase c e.uid .fired).releaseLoad c e.uid).addNode cl x node
        let t := t.shufSend cl i im.runSeed x shards node none
        others.foldl (fun u o => u.shufSend o.1 i im.runSeed x shards o.2 (some shard)) t
  | _, _ => s

/-! ### Receiving (R384, R385) -/

def isColl (m : Msg) : Bool := hasN [1, 2, 3] m.type

/-- A message's parts: instance, kind, source and destination shard. -/
structure CollMsg where
  inst  : InstId
  shuf  : Bool
  phase : Nat
  gen   : Nat
  pace  : Nat
  src   : Nat
  dst   : Nat
  word3 : Nat
  pos   : Nat
  deriving DecidableEq, Repr

def parseColl (s : State) (m : Msg) : CollMsg :=
  let t := m.tag.toNat
  let shuf := m.type == 3
  let part := t / 2 ^ 28
  let w2 := be m.data 8 4
  let pos := (w2 % 2 ^ 16) * 2 ^ 32 + be m.data 12 4
  let shards := (((s.part part).img).bind fun im => im.trees.head?.map fun q => q.nodes.length).getD 1
  ⟨⟨BitVec.ofNat 4 part |>.toFin, BitVec.ofNat 16 (t / 2 ^ 12), BitVec.ofNat 8 (t / 16), BitVec.ofNat 32 (be m.data 0 4)⟩, shuf, t % 16,
   be m.data 4 4 / 2 ^ 20, w2 / 2 ^ 30, be m.data 4 4 % 2 ^ 20, if shuf then pos % max shards 1 else w2 % 2 ^ 20, be m.data 12 4, pos / max shards 1⟩

/-- Is the message of an old generation, or for a shard that is not on this module (R385)? -/
def staleColl (s : State) (q : CollMsg) : Bool :=
  q.gen != s.collGen ||
    (s.job.maps.has q.inst.part.val &&
      !((s.job.maps.get ⟨0, false, 0, 0, []⟩ q.inst.part.val).entries.any fun e => e.1 == q.dst && e.2.holder == s.moduleIx))

/-- Does a message belong to an instance? A SHUFFLE message names the epoch in place of the step (R384), and an instance of an older
generation takes no message more (R392). -/
def CollMsg.isOf (q : CollMsg) (x : CollInst) : Bool :=
  x.gen == q.gen &&
    (if q.shuf then x.kind == 2 && decide ({ x.id with step := x.epoch } = { q.inst with tree := 0 }) else x.kind != 2 && decide (x.id = q.inst))

/-- The local node a message is for, if its instance has fired. -/
def collTarget (s : State) (m : Msg) : Option (Nat × CollInst × Node) :=
  let q := s.parseColl m
  s.clusters.findSome? fun ck => ck.2.coll.findSome? fun x =>
    if q.isOf x then (x.nodes.find? fun n => n.shard == q.dst).map fun n => (ck.1, x, n) else none

/-- COLL_MESSAGE_RECEIVE: the first message in the port's buffer that is stale or whose instance has fired. -/
def collReceive (s : State) (p : Nat) : State :=
  match s.takeInbox p fun m => isColl m && (s.staleColl (s.parseColl m) || (s.collTarget m).isSome) with
  | none => s
  | some (m, t) =>
    let q := s.parseColl m
    if s.staleColl q then t.bump .collErr [p / 2] 15 0
    else
      match s.collTarget m with
      | none => t
      | some (cl, x, _) =>
        let t := (t.modInst cl x.id x.kind fun y => { y with last := s.tick, paces := (q.pace, s.tick) :: y.paces.filter fun z => decide ((s.tick - z.2).toNat ≤ 30000) })
        if q.shuf then t.shufPut x.id q.dst q.pos (be m.data 16 4) x.elems (m.data.drop 32)
        else if m.type = 2 then
          let w := StatusW.ofFlit (m.data.drop 16)
          t.modNode cl x.id x.kind q.dst fun k =>
            if q.phase = 1 then { k with final := some w } else { k with words := k.words.set q.src w }
        else
          let fmt := ((s.treeOf q.inst.part q.inst.tree.toNat).map (·.fmt)).getD 0
          let vs := (chunksOf (max 1 (fmtWidth fmt / 8)) (m.data.drop 16)).map fromLE
          t.modNode cl x.id x.kind q.dst fun k =>
            if q.phase = 0 then { k with terms := k.terms.set q.src (putElems (k.terms.get [] q.src) q.word3 vs) }
            else { k with result := putElems k.result q.word3 vs }

/-! ### Ends by fault (R388) -/

/-- An instance ends with one fault COLLECTIVE, at its first local shard: its destinations and status words are undefined. -/
def endInst (s : State) (cl : Nat) (x : CollInst) : State :=
  let s := s.modCl cl fun k => { k with coll := k.coll.filter fun y => !(decide (y.id = x.id) && y.kind == x.kind) }
  let t := x.nodes.foldl (fun t n => t.scrambleAll n.dst) s
  match x.nodes.findSome? fun n => (t.entry? n.core n.uid).map fun e => (n.core, e) with
  | some q => t.fault q.1 q.2 0x0A noIndex none
  | none => t

/-- COLL_WATCHDOG_EXPIRY: no progress for the limit in force. -/
def collExpiry (s : State) (cl : Nat) (i : InstId) : State :=
  match (s.cl cl).coll.find? fun x => decide (x.id = i) && decide (s.watchLimit cl x ≤ (s.tick - x.last).toNat) with
  | none => s
  | some x => (s.bump .collErr [cl] 31 16).endInst cl x

/-- The peer-loss notice for modules: every instance with a shard on one of them ends (R388). -/
def peerLoss (s : State) (lost : List Half) : State :=
  let hit := s.clusters.flatMap fun ck => (ck.2.coll.filter fun x =>
    (s.job.maps.get ⟨0, false, 0, 0, []⟩ x.id.part).entries.any fun e => lost.any fun h => h == e.2.holder).map fun x => (ck.1, x)
  hit.foldl (fun t cx => (t.bump .collErr [cx.1] 47 32).endInst cx.1 cx.2) s

/-! ### Admission of messages (R482, R487) -/

/-- The charge of a due message. -/
def dueCharge (d : Due) : List Charge :=
  ⟨0x23, 0xFF, 0xFF, 16 + d.msg.data.length, 128⟩ ::
  ([⟨0x21, 0xFF, 0xFF, d.fast, 128⟩, ⟨0x22, 0xFF, 0xFF, d.slow, 128⟩] : List Charge).filter fun x => x.num != 0

/-- The smallest factor the module has in force, in the PACE bits of a message's sub-header, its own instance's among them even where that
has ended (R386, R387). -/
def stampPace (s : State) (cl : Nat) (m : Msg) (own : List (Nat × Long)) : Msg :=
  let f := ((s.cl cl).coll.map s.paceCodeOf).foldl max (s.paceMax own)
  { m with data := modifyAt (fun b => BitVec.ofNat 8 (b.toNat % 64 + f * 64)) m.data 8 }

/-- The head of a cluster's due messages joins those waiting for a port. -/
def releaseDue (s : State) (cl : Nat) : State :=
  match (s.cl cl).due with
  | [] => s
  | d :: t => ((s.modCl cl fun k => { k with due := t }).clearWaiting (200 + cl)).queueMsg (s.stampPace cl d.msg d.paces) d.ports d.purpose

def admitDue (s : State) (cl : Nat) : State :=
  match (s.cl cl).due with
  | [] => s
  | d :: _ =>
    match s.admitReserve d.part (dueCharge d) with
    | none =>
      if s.weir.waiting.has (200 + cl) then s else s.beginWait (200 + cl) (0, 0)
    | some t => t.releaseDue cl

/-- COLLECTIVE_FLOOR_SEND: a message that no case admits goes all the same (R487). -/
def floorSend (s : State) (cl : Nat) : State :=
  match (s.cl cl).due with
  | [] => s
  | d :: _ => if (s.admitReserve d.part (dueCharge d)).isNone then (s.floorReserve d.part (dueCharge d)).releaseDue cl else s

end State

def execColl (c : CoreId) (s : State) : Out := .next (s.settle (s.fireOp c 7 0x50 (s.collAccepts c) fun t e => t.fireColl c e false))
def execCollStat (c : CoreId) (s : State) : Out := .next (s.settle (s.fireOp c 7 0x51 (s.collAccepts c) fun t e => t.fireColl c e true))
def execShuf (c : CoreId) (s : State) : Out := .next (s.settle (s.fireOp c 7 0x52 (s.collAccepts c) fun t e => t.fireShuf c e))
def execCollMessageReceive (p : PortId) (s : State) : Out := .next (s.settle (s.collReceive p))
def execNodeCombine (cl : ClusterId) (i : InstId) (shard : Nat) (s : State) : Out := .next (s.settle (s.nodeCombine cl i shard))
def execCollInstanceComplete (cl : ClusterId) (i : InstId) (shard : Nat) (s : State) : Out := .next (s.settle (s.collComplete cl i shard))
def execCollWatchdogExpiry (cl : ClusterId) (i : InstId) (s : State) : Out := .next (s.collExpiry cl i)
def execCollectiveFloorSend (cl : ClusterId) (s : State) : Out := .next (s.floorSend cl)

end Sys2Proof.Machine
end

