-- ==== Sys2Proof/Machine/Ingest.lean ====
section
/-! DEFINITION. The ingest engines (R411-R419): demultiplexing, fields, crop, scale, colour, normalisation and patches, the record
table; and the admission of waiting charges (R482, R485). The video decoders themselves are `Config.decodeVideo` (log 6). -/

namespace Sys2Proof.Machine

/-! ### The profile (R413) -/

def prF (d : BitVec 512) (o n : Nat) : Nat := fld d.toNat (8 * (o + n) - 1) (8 * o)

/-! ### Demultiplexing (R411, R417) -/

/-- One transport packet: whether it is of the PID, its payload, whether it starts a PES packet, its counter, whether it announces a break
of the counters, and whether it is in error. -/
structure TsPkt where
  mine    : Bool
  payload : List Byte
  start   : Bool
  cc      : Nat
  jump    : Bool
  err     : Bool
  deriving DecidableEq, Repr

/-- A 188-byte packet, none for a byte whose class-D check failed. A packet of another PID counts where a check failed in it; one whose
header cannot be read is of no PID (log 6). -/
def tsPacket (pid : Nat) (bs : List (Option Byte)) : Option TsPkt :=
  let b := bs.map fun x => x.getD 0
  let h1 := (b.getD 1 0).toNat
  let h3 := (b.getD 3 0).toNat
  let afc := h3 / 16 % 4
  let skip := if afc = 3 then 1 + (b.getD 4 0).toNat else if afc = 1 then 0 else 184
  let bad := bs.any Option.isNone
  if (bs.take 4).any Option.isNone || b.getD 0 0 != 0x47 then some ⟨false, [], false, 0, false, true⟩
  else if pid = h1 % 32 * 256 + (b.getD 2 0).toNat then
    some ⟨true, (b.drop 4).drop skip, h1.testBit 6, h3 % 16, 2 ≤ afc && b.getD 4 0 != 0 && (b.getD 5 0).getLsbD 7,
      bad || h1.testBit 7 || h3 / 64 != 0⟩
  else if bad then some ⟨false, [], false, 0, false, true⟩
  else none

/-- What of a PES packet's bytes follows its header: none where they do not reach past it yet (ISO/IEC 13818-1). -/
def pesPayload (b : List Byte) : Option (List Byte) :=
  let n := 9 + (b.getD 8 0).toNat
  if 9 ≤ b.length ∧ n ≤ b.length then some (b.drop n) else none

/-- The elementary stream in pieces with their damage, and the transport errors counted. A packet sent twice is taken once, and a break of
the counters behind a packet without a PID is that packet's error (log 6). `prev` is the last packet of the PID, `unread` says that one
without a PID followed it, and `head` holds the bytes of a PES header that has not ended. -/
def demux : List TsPkt → Option TsPkt → (unread : Bool) → (head : Option (List Byte)) → List (List Byte × Bool) × Nat
  | [], _, _, _ => ([], 0)
  | p :: t, prev, unread, head =>
    if p.mine then
      let twice := match prev with | some q => q.cc == p.cc && q.payload == p.payload && !p.payload.isEmpty && !p.err | none => false
      let brk := match prev with | some q => decide ((q.cc + 1) % 16 ≠ p.cc) && !p.payload.isEmpty && !p.jump | none => false
      if twice then demux t (some p) unread head
      else
        let bad := p.err || brk
        let got := if p.start then some p.payload else head.map fun h => h ++ p.payload
        let out := match got with | some h => (pesPayload h).getD [] | none => p.payload
        let r := demux t (some p) false (got.filter fun h => (pesPayload h).isNone)
        ((out, bad) :: r.1, (if p.err || (brk && !unread) then 1 else 0) + r.2)
    else
      let r := demux t prev true head
      (r.1, 1 + r.2)

/-! ### Fields (R414 step 3) -/

def planeRow (p : VPlane) (y : Nat) : List Nat := (p.data.drop (y * p.w)).take p.w

/-- Lines of two fields in turn, the top field's on the even lines. -/
def weavePlane (top bot : VPlane) : VPlane :=
  ⟨top.w, 2 * top.h, (List.range top.h).flatMap fun y => planeRow top y ++ planeRow bot y⟩

def halfPlane (p : VPlane) (odd : Nat) : VPlane :=
  ⟨p.w, p.h / 2, (List.range (p.h / 2)).flatMap fun y => planeRow p (2 * y + odd)⟩

def weave (t b : VPic) : VPic :=
  { t with luma := weavePlane t.luma b.luma, cb := weavePlane t.cb b.cb, cr := weavePlane t.cr b.cr, field := false, bottom := false,
           hurt := weavePlane t.hurt b.hurt, hurtC := weavePlane t.hurtC b.hurtC, lost := t.lost + b.lost, units := t.units + b.units,
           bad := t.bad || b.bad, refs := t.refs ++ b.refs, coded := t.coded + b.coded }

def halfPic (p : VPic) (odd : Nat) : VPic :=
  { p with luma := halfPlane p.luma odd, cb := halfPlane p.cb odd, cr := halfPlane p.cr odd, hurt := halfPlane p.hurt odd,
           hurtC := halfPlane p.hurtC odd, field := true, bottom := odd == 1, coded := if odd = 0 then p.coded else 0 }

def halves (p : VPic) : List VPic := [halfPic p 0, halfPic p 1]

/-- A plane of one value. -/
def flatPlane (p : VPlane) (v : Nat) : VPlane := ⟨p.w, p.h, List.replicate (p.w * p.h) v⟩

/-- An unpaired field among frames is corrupt: every unit of the field that is missing is lost. -/
def loneField (p : VPic) : VPic :=
  let gone := { p with luma := flatPlane p.luma 0, cb := flatPlane p.cb 0, cr := flatPlane p.cr 0, hurt := flatPlane p.luma 1,
                       hurtC := flatPlane p.cb 1, lost := p.units, bad := true, refs := [], coded := 0 }
  if p.bottom then weave gone p else weave p gone

/-- Weave: pairs of fields of opposite parity form a frame, with the decoder's places of both. -/
def weaveAll : List (Nat × VPic) → List (List Nat × VPic)
  | [] => []
  | [p] => [([p.1], if p.2.field then loneField p.2 else p.2)]
  | p :: q :: t =>
    if p.2.field then
      if q.2.field ∧ q.2.bottom ≠ p.2.bottom then ([p.1, q.1], if p.2.bottom then weave q.2 p.2 else weave p.2 q.2) :: weaveAll t
      else ([p.1], loneField p.2) :: weaveAll (q :: t)
    else ([p.1], p.2) :: weaveAll (q :: t)

def separateAll (l : List (Nat × VPic)) : List (List Nat × VPic) :=
  l.flatMap fun p => (if p.2.field then [p.2] else halves p.2).map fun v => ([p.1], v)

/-- The profiles and levels of the codecs (R411). -/
def levelOk (codec : Nat) (p : VPic) : Bool :=
  match p.profile with
  | .h262Main => codec == 1 && decide (p.level ≤ 4)
  | .h264High | .h264High10 => codec == 2 && decide (p.level ≤ 52)
  | .h265Main | .h265Main10 => codec == 3 && decide (p.level ≤ 51)
  | .other => false

/-- Is a picture beyond what R411 supports, or smaller than the crop (R417)? -/
def unsupported (prof : BitVec 512) (p : VPic) : Bool :=
  !(levelOk (prF prof 3 1) p && p.fits && p.c420 && (p.depth == 8 || p.depth == 10) && decide (prF prof 8 2 + prF prof 12 2 ≤ p.luma.w) && decide (prF prof 10 2 + prF prof 14 2 ≤ p.luma.h))

/-- The pictures with DROP's choice in their `bad`: corrupt ones, and those that depend on a dropped one (R417). -/
def dropDependents (prof : BitVec 512) (l : List (List Nat × VPic)) : List VPic :=
  let gone := (l.filter fun p => p.2.bad || unsupported prof p.2).flatMap (·.1)
  l.map fun p => { p.2 with bad := p.2.bad || p.2.refs.any fun r => hasN gone r }

/-! ### Concealment (R417) -/

/-- A plane whose corrupt samples take the co-located ones of an earlier plane, or mid-grey. -/
def concealPlane (hurt p : VPlane) (prev : Option VPlane) (depth : Nat) : VPlane :=
  { p with data := (List.range (p.w * p.h)).map fun i =>
      if hurt.data.getD i 0 = 0 then p.data.getD i 0
      else match prev with
        | none => 2 ^ (depth - 1)
        | some q => (planeRow q (min (q.h - 1) (i / p.w))).getD (min (q.w - 1) (i % p.w)) 0 }

/-- CONCEAL: each corrupt unit takes the samples of the nearest preceding picture that is not dropped. -/
def concealAll (prof : BitVec 512) : Option VPic → List VPic → List VPic
  | _, [] => []
  | prev, p :: t =>
    if unsupported prof p then p :: concealAll prof prev t
    else
      let q := { p with luma := concealPlane p.hurt p.luma (prev.map (·.luma)) p.depth,
                        cb := concealPlane p.hurtC p.cb (prev.map (·.cb)) p.depth,
                        cr := concealPlane p.hurtC p.cr (prev.map (·.cr)) p.depth }
      q :: concealAll prof (some q) t

/-- The pictures of a stream as they are to be written: fields woven or separated, and the policy applied (R414, R417). -/
def outputPics (prof : BitVec 512) (l : List VPic) : List VPic :=
  let nums := (List.range l.length).zip l
  let all := if prF prof 4 1 = 0 then weaveAll nums else separateAll nums
  if prF prof 0x16 1 = 0 then dropDependents prof all else concealAll prof none (all.map (·.2))

/-! ### Crop and scale (R414 steps 4 and 5) -/

def cropPlane (p : VPlane) (x y w h : Nat) : VPlane :=
  ⟨w, h, (List.range h).flatMap fun j => ((planeRow p (y + j)).drop x).take w⟩

/-- Round half up of a / b for an integer a. -/
def roundDiv (a : Int) (b : Nat) : Int := (2 * a + b) / (2 * b)

/-- Coefficients quantised to 1/16,384 that sum to 16,384, the largest absorbing the residual. -/
def quantCoefs (cs : List (Int × Int)) (den : Nat) : List (Int × Int) :=
  let q := cs.map fun c => (c.1, roundDiv (c.2 * 16384) den)
  let sum := (q.map (·.2)).foldl (· + ·) 0
  let top := (q.map (·.2)).foldl max (-1000000)
  let i := (q.findIdx? fun c => c.2 == top).getD 0
  ((List.range q.length).zip q).map fun c => if c.1 = i then (c.2.1, c.2.2 + (16384 - sum)) else c.2

/-- Bicubic weight with a = −0.5 at distance d / 64, over 2 × 64³. -/
def bicubicW (d : Nat) : Int :=
  let x : Int := d
  if d ≤ 64 then 3 * x * x * x - 5 * 64 * x * x + 2 * 262144
  else if d < 128 then -(x * x * x) + 5 * 64 * x * x - 8 * 4096 * x + 4 * 262144
  else 0

/-- The source samples and coefficients of output sample x of n from a line of w samples, about its source position in 1/64 of a sample;
`shift` is the siting offset in the same. Area's window is as wide as an output sample. -/
def taps (scale n w x : Nat) (shift : Int) : List (Int × Int) :=
  let pos : Int := roundDiv ((2 * x + 1) * w * 64) (2 * n) - 32 + shift
  if scale = 2 then
    let cell : Int := 64 * n
    let lo : Int := (pos + 32) * n - 32 * w
    let hi : Int := lo + 64 * w
    let a := lo / cell
    let b := (hi + cell - 1) / cell
    quantCoefs ((List.range (b - a).toNat).map fun k => (a + k, min hi ((a + k + 1) * cell) - max lo ((a + k) * cell))) (64 * w)
  else
    let i := pos / 64
    let f := (pos % 64).toNat
    if scale = 0 then quantCoefs [(i, (64 - f : Nat)), (i + 1, (f : Nat))] 64
    else quantCoefs [(i - 1, bicubicW (64 + f)), (i, bicubicW f), (i + 1, bicubicW (64 - f)), (i + 2, bicubicW (128 - f))] 524288

/-- A tap with its index held to the line. -/
def tapAt (line : List Nat) (w : Nat) (t : Int × Int) : Int :=
  t.2 * (line.getD (min (w - 1) t.1.toNat) 0 : Nat)

/-- A plane scaled to ow × oh: horizontal pass in 1/4,096, then vertical, each rounded half up, clamped to the sample range. The
siting offsets are in 1/64 of a sample. -/
def scalePlane (scale : Nat) (p : VPlane) (ow oh depth : Nat) (shift vshift : Int) : VPlane :=
  let hz : List (List Int) := (List.range p.h).map fun y =>
    let line := planeRow p y
    (List.range ow).map fun x => roundDiv (((taps scale ow p.w x shift).map (tapAt line p.w)).foldl (· + ·) 0) 4
  let top : Int := 2 ^ depth - 1
  ⟨ow, oh, (List.range oh).flatMap fun y =>
    let ts := taps scale oh p.h y vshift
    (List.range ow).map fun x =>
      let v := (ts.map fun t => t.2 * ((hz.getD (min (p.h - 1) t.1.toNat) []).getD x 0)).foldl (· + ·) 0
      (max 0 (min top (roundDiv v 67108864))).toNat⟩

/-! ### Colour and normalisation (R414 steps 6 and 7) -/

/-- Kr and Kb in ten-thousandths. -/
def krKb (m : Nat) : Nat × Nat := if m = 0 then (2990, 1140) else if m = 2 then (2627, 593) else (2126, 722)

/-- A ratio of integers rounded to FP32. -/
def ratio32 (a b : Nat) : FVal := decodeVal 0 (encodeRne 0 (FVal.div (.fin false a 0) (.fin false b 0)))

/-- The four coefficients of the matrix: R from Cr, G from Cb and Cr, B from Cb. -/
def colourCoefs (m : Nat) : FVal × FVal × FVal × FVal :=
  let k := krKb m
  let kg := 10000 - k.1 - k.2
  (ratio32 (2 * (10000 - k.1)) 10000, (ratio32 (2 * k.2 * (10000 - k.2)) (10000 * kg)).neg,
   (ratio32 (2 * k.1 * (10000 - k.1)) (10000 * kg)).neg, ratio32 (2 * (10000 - k.2)) 10000)

/-- R, G and B of a sample: exact, rounded once to FP32, clamped to [0, 1]. -/
def toRgb (m : Nat) (full : Bool) (depth y cb cr : Nat) : List FVal :=
  let q : Nat := 2 ^ (depth - 8)
  let dy : Nat := if full then 2 ^ depth - 1 else 219 * q
  let dc : Nat := if full then 2 ^ depth - 1 else 224 * q
  let int := fun (i : Int) => FVal.ofInt i
  let yv := int (((y : Int) - ((if full then 0 else 16 * q : Nat) : Int)) * (dc : Int))
  let cv := fun (c : Nat) => int (((c : Int) - ((2 ^ (depth - 1) : Nat) : Int)) * (dy : Int))
  let k := colourCoefs m
  let fin := fun (n : FVal) =>
    let v := decodeVal 0 (encodeRne 0 (FVal.div n (.fin false (dy * dc) 0)))
    if v.lt (.fin false 0 0) then .fin false 0 0 else if (FVal.fin false 1 0).lt v then .fin false 1 0 else v
  [fin (yv.add (k.1.mul (cv cr))), fin ((yv.add (k.2.1.mul (cv cb))).add (k.2.2.1.mul (cv cr))), fin (yv.add (k.2.2.2.mul (cv cb)))]

/-- A picture's matrix and range under the profile (R414). -/
def colourOf (prof : BitVec 512) (p : VPic) : Nat × Bool :=
  let m := prF prof 6 1
  let rg := prF prof 7 1
  let sm := if p.matrix = 5 ∨ p.matrix = 6 then 0 else if p.matrix = 9 then 2 else 1
  let known := hasN [1, 5, 6, 9] p.matrix
  (if m = 3 then sm else m, if prF prof 3 1 = 1 then false else if rg = 2 then known && p.full else rg == 1)

/-- The default siting of 4:2:0 chroma down a picture, in 1/64 of a chroma line: midway in a frame, an eighth of a chroma line lower
or higher in a top or bottom field (R414 step 5; log 6). -/
def fieldShift (p : VPic) : Int := if p.field then (if p.bottom then -8 else 8) else 0

/-- Bytes of one output picture (R415). -/
def pictureBytes (prof : BitVec 512) : Nat :=
  let pp := prF prof 0x14 1
  prF prof 0x10 2 / max pp 1 * (prF prof 0x12 2 / max pp 1) * ((3 * pp * pp + 63) / 64 * 128)

/-- The G64 tensor of a picture and the classes of its values (R414 steps 4 to 8, R415). -/
def pictureTensor (prof : BitVec 512) (p : VPic) : List Byte × List GClass :=
  let x := prF prof 8 2; let y := prF prof 10 2; let w := prF prof 12 2; let h := prF prof 14 2
  let ow := prF prof 0x10 2; let oh := prF prof 0x12 2
  let sc := prF prof 5 1
  let l := scalePlane sc (cropPlane p.luma x y w h) ow oh p.depth 0 0
  let cb := scalePlane sc (cropPlane p.cb (x / 2) (y / 2) (w / 2) (h / 2)) ow oh p.depth 16 (fieldShift p)
  let cr := scalePlane sc (cropPlane p.cr (x / 2) (y / 2) (w / 2) (h / 2)) ow oh p.depth 16 (fieldShift p)
  let col := colourOf prof p
  let fmt := prF prof 0x15 1
  let norm := fun (c : Nat) (v : FVal) =>
    encodeVal fmt false 0 0 ((v.sub (decodeVal 0 (prF prof (0x18 + 4 * c) 4))).mul (decodeVal 0 (prF prof (0x24 + 4 * c) 4)))
  let pix := ((l.data.zip cb.data).zip cr.data).map fun q => toRgb col.1 col.2 p.depth q.1.1 q.1.2 q.2
  let pp := prF prof 0x14 1
  let rows := (List.range (oh / pp * (ow / pp))).map fun r =>
    let px := r % (ow / pp)
    let py := r / (ow / pp)
    (List.range (pp * pp)).flatMap fun k =>
      let rgb := pix.getD ((py * pp + k / pp) * ow + px * pp + k % pp) []
      ((List.range 3).zip rgb).map fun cv => norm cv.1 cv.2
  let str := (3 * pp * pp + 63) / 64 * 128
  (rows.flatMap fun r => toLen str (r.flatMap fun v => leBytes 2 v.1), rows.flatMap fun r => r.map (·.2))

namespace State

/-! ### INGEST (R412) -/

def ingQueued (s : State) (cl : Nat) : Nat := ((s.cl cl).ingQ.filter fun j => !j.started).length

/-- Does the partition hold the bank with the ingest engine its owner? -/
def ingestOwns (s : State) (p cl b : Nat) : Bool :=
  let w := s.reg .poolOwner [cl, b]
  getF w 43 43 == 1 && getF w 47 44 == p && getF w 4 0 == 0x12

def ingestBanks (op : Long) : List Nat := (List.range (getF op 31 28 + 1)).map fun k => getF op 35 32 + k

/-- The slots and the record table of an INGEST. -/
def ingestSpans (cl : Nat) (op : Long) (prof : BitVec 512) : List Span :=
  let n := getF op 31 28 + 1
  let frames := prF prof 0x38 2
  ((List.range frames).map fun k => (⟨.pool (16 * cl + (getF op 35 32 + k % n) % 16), k / n * prF prof 0x34 4, prF prof 0x34 4⟩ : Span)) ++
  [⟨.pool (16 * cl + getF op 35 32), 16 * getF op 27 12, 16 * (frames + 1)⟩]

/-- May an INGEST fire: a place in the queue, no restart, and its banks neither being handed over nor cleared (R299, R303, R412)? -/
def ingestAccepts (s : State) (c : Nat) (e : Entry) : Bool :=
  decide (s.ingQueued (c / 16) < 4) && !(s.cl (c / 16)).restarting &&
    (ingestBanks e.op).all fun b => s.locFree (.pool (16 * (c / 16) + b % 16))

def fireIngest (s : State) (c : Nat) (e : Entry) : State :=
  match (s.core c).part, s.imgOf c with
  | some p, some im =>
    let cl := c / 16
    let prof := im.ingest.getD (getF e.op 55 48) 0
    let d := s.desc c (getF e.op 47 36)
    let ext : Side := ⟨true, none, dF d 8 6⟩
    let n := dF d 0x10 8
    match s.sideFault c im.pages ext 0 [] [(0, n)] with
    | some f => s.fault c e f.1 noIndex f.2
    | none =>
      if (ingestBanks e.op).all fun b => s.ingestOwns p cl b then
        let j : IngJob := ⟨c, e.uid, p, e.step, e.op, prof, spansOf (ext.pieces im.pages 0 [(0, n)]), false, false, [], 0, 0, 0, 0, 0,
          ingestSpans cl e.op prof⟩
        (s.modCl cl fun k => { k with ingQ := k.ingQ ++ [j] }).setPhase c e.uid .fired
      else s.fault c e 0x0B noIndex none
  | _, _ => s

def setJob (s : State) (cl : Nat) (j : IngJob) : State := s.modCl cl fun k => { k with ingQ := j :: k.ingQ.drop 1 }

/-- The running INGEST faults with MEM_UNCORRECTABLE: what it writes is undefined (R293, R417). -/
def stopIngest (s : State) (cl : Nat) (j : IngJob) (addr : Nat) : State :=
  let t := (s.modCl cl fun k => { k with ingQ := k.ingQ.drop 1 }).scrambleAll j.dst
  match s.entry? j.core j.uid with
  | some e => t.fault j.core e 8 noIndex addr
  | none => t

/-- An INGEST ends: its summary entry is written and it may complete. -/
def endIngest (s : State) (cl : Nat) (j : IngJob) : State :=
  let bs := leBytes 4 j.decoded ++ leBytes 4 j.written ++ leBytes 4 j.discarded ++ leBytes 4 j.flags
  let r := s.storeRun j.core j.uid (.pool (16 * cl + getF j.op 35 32)) (16 * getF j.op 27 12) bs
  if r.2.isSome then r.1.stopIngest cl j 0
  else ((r.1.modCl cl fun k => { k with ingQ := k.ingQ.drop 1 }).setPhase j.core j.uid .done).waitHeld j.core j.uid

/-- The input bound when the INGEST fired, with its virtual addresses. -/
def ingestPieces (s : State) (j : IngJob) : List Piece :=
  (j.input.foldl (fun (a : List Piece × Nat) x => (a.1 ++ [⟨x.place, x.lo, x.len, a.2⟩], a.2 + x.len))
    ([], dF (s.desc j.core (getF j.op 47 36)) 8 6)).1

/-- INGEST_TAKEN: the engine starts its oldest queued INGEST: the stream is read under the partition's sluice class (R412), demultiplexed and
decoded. -/
def ingestTaken (s : State) (cl : Nat) : State :=
  match (s.cl cl).ingQ with
  | [] => s
  | j :: _ =>
    if j.started || (s.cl cl).restarting then s
    else
      let r := (s.trafficAll j.part j.input).readPieces (s.ingestPieces j)
      match r.bad with
      | some a => r.st.stopIngest cl j a
      | none =>
        let wide := if prF j.prof 2 1 = 1 then 192 else 188
        let pk := (chunksOf wide r.bytes).filterMap fun b =>
          tsPacket (prF j.prof 0 2) (b.drop (wide - 188))
        let es := demux pk none false none
        let dv := Config.decodeVideo (prF j.prof 3 1) (prF j.prof 0x16 1 == 1) es.1
        let pics := outputPics j.prof dv.1
        let t := if r.poisoned then r.st.poisonIn j.core j.part j.step else r.st
        let t := t.bumpBy .ingErr [cl] 47 32 es.2
        let j := { j with started := true, pics := pics, decoded := dv.1.length, flags := (if 0 < es.2 then 1 else 0) + (if dv.2 then 2 else 0) }
        if pics.isEmpty then t.endIngest cl j else t.setJob cl j

/-- What a picture is: 0 OK, 1 CONCEALED, 2 DROPPED, and whether it is unsupported (R417). -/
def pictureStatus (j : IngJob) (p : VPic) : Nat × Bool :=
  if unsupported j.prof p then (2, true)
  else if prF j.prof 0x16 1 = 0 then (if p.bad then 2 else 0, false)
  else (if p.lost != 0 || p.bad then 1 else 0, false)

/-- The charge of the next picture (R418, R482). -/
def pictureCharge (j : IngJob) : List Charge :=
  match j.pics[j.next]? with
  | none => []
  | some p =>
    ⟨0x30, 0xFF, 0xFF, max (225 * 1024) (p.luma.w * p.luma.h), 1024⟩ :: State.shareCharges p.coded j.input

/-- After a picture: the next is charged, or the INGEST ends. -/
def nextPicture (s : State) (cl : Nat) (j : IngJob) : State :=
  if j.pics.length ≤ j.next then s.endIngest cl j else s.setJob cl j

/-- A picture and its record are written; a dropped picture's slot is +0 throughout (R416, R417). -/
def writePicture (s : State) (cl : Nat) (j : IngJob) (p : VPic) (st : Nat) : State :=
  let k := j.next
  let n := getF j.op 31 28 + 1
  let out := if st = 2 then (fill (prF j.prof 0x34 4) 0, []) else pictureTensor j.prof p
  let a := s.storeRun j.core j.uid (.pool (16 * cl + (getF j.op 35 32 + k % n) % 16)) (k / n * prF j.prof 0x34 4) out.1
  let entry := leBytes 4 k ++ [BitVec.ofNat 8 st,
    BitVec.ofNat 8 (p.kind + (if p.field then 4 else 0) + (if p.bottom then 8 else 0)), 0, 0] ++ leBytes 4 p.lost ++ fill 4 0
  let b := a.1.storeRun j.core j.uid (.pool (16 * cl + getF j.op 35 32)) (16 * (getF j.op 27 12 + k + 1)) entry
  if a.2.isSome ∨ b.2.isSome then b.1.stopIngest cl j 0
  else (b.1.countGauge j.part j.step (BitVec.ofNat 32 (prF j.prof 0x30 4)) out.2).nextPicture cl
    { j with next := k + 1, written := j.written + 1, admitted := false }

/-- INGEST_PICTURE: the next admitted picture is written to its slot with its record. -/
def ingestPicture (s : State) (cl : Nat) : State :=
  match (s.cl cl).ingQ with
  | [] => s
  | j :: _ =>
    match j.pics[j.next]? with
    | none => s
    | some p =>
      if j.started && j.admitted && !(s.cl cl).restarting then
        let st := pictureStatus j p
        let s := if st.2 then s.bump .ingErr [cl] 63 48 else s
        let s := if st.1 = 2 then s.bump .ingErr [cl] 31 16 else if st.1 = 1 then s.bump .ingErr [cl] 15 0 else s
        if prF j.prof 0x38 2 ≤ j.next then s.nextPicture cl { j with next := j.next + 1, discarded := j.discarded + 1, admitted := false }
        else s.writePicture cl j p st.1
      else s

/-- The next picture's charge, to the partition's account; one that waits is counted once. -/
def admitIngest (s : State) (cl : Nat) : State :=
  match (s.cl cl).ingQ with
  | [] => s
  | j :: _ =>
    if j.started && !j.admitted then
      match s.admitPart j.part (pictureCharge j) with
      | none => s.markWaiting (128 + cl) j.part (j.core * 2 ^ 32 + j.uid) j.next
      | some t => (t.setJob cl { j with admitted := true }).clearWaiting (128 + cl)
    else s

/-- CHARGE_ADMISSION: the oldest waiting charge of a core, a collective engine or an ingest engine. -/
def chargeAdmit (s : State) (w : Charger) : State :=
  match w with
  | .core c => s.admitCore c
  | .collective cl => s.admitDue cl
  | .ingest cl => s.admitIngest cl

end State

def execIngest (c : CoreId) (s : State) : Out :=
  .next (s.settle (s.fireOp c 8 0x80 (s.ingestAccepts c) fun t e => t.fireIngest c e))
def execIngestTaken (cl : ClusterId) (s : State) : Out := .next (s.settle (s.ingestTaken cl))
def execIngestPicture (cl : ClusterId) (s : State) : Out := .next (s.settle (s.ingestPicture cl))
def execChargeAdmission (w : Charger) (s : State) : Out := .next (s.chargeAdmit w)

end Sys2Proof.Machine
end

