-- ==== Sys2Proof/Machine/Training.lean ====
section
/-! DEFINITION. Host gates in programs (R409), loss-scale control (R430-R436), the ferry (R437-R442) and the exchange between
partitions (R444, R445). -/

namespace Sys2Proof.Machine

namespace State

/-- The oldest ready entry of a unit fires if it is the one a command is for. -/
def fireWhen (s : State) (c unit : Nat) (acc want : Entry → Bool) (body : State → Entry → State) : State :=
  match s.oldestReady c unit acc with
  | none => s
  | some e =>
    if want e then body (s.markFired c e) (s.firedEntry c e) else s

/-! ### HOSTIN and HOSTSIG (R409) -/

/-- Has a gate reached a value: is (gate − value), as a signed number, zero or more? -/
def gateReached (gate value : Word) : Bool := decide (0 ≤ (gate - value).toInt)

def gateOf (s : State) (p g : Nat) : Word := (s.part p).gates.get 0 g

/-- HOSTIN waits for its gate. -/
def fireHostin (s : State) (c : Nat) (e : Entry) : State :=
  let v := if getF e.op 49 49 = 1 then s.scalarOf c e else BitVec.ofNat 32 (getF e.op 31 0)
  match (s.core c).part with
  | none => s
  | some p =>
    if gateReached (s.gateOf p (getF e.op 55 50)) v then s
    else s.modEntry c e.uid fun x => { x with phase := .fired, carry := [v] }

/-- Does a gate of value v end the wait of this entry? -/
def gateDone (g : Nat) (v : Word) (e : Entry) : Bool :=
  decide (e.unit = 5 ∧ e.opcode = 0x68 ∧ e.phase = .fired ∧ getF e.op 55 50 = g) && gateReached v (e.carry.getD 0 0)

/-- A gate's new value completes the HOSTINs that it reaches. -/
def gateCheck (s : State) (p g : Nat) : State :=
  (s.coresOf p).foldl (fun (t : State) c =>
    ((s.core c).window.filter fun e => gateDone g (s.gateOf p g) e).foldl (fun (t : State) e => t.setPhase c e.uid .done) t) s

/-- HOSTSIG queues its event (R408). -/
def fireHostsig (s : State) (c : Nat) (e : Entry) : State :=
  match (s.core c).part with
  | none => s
  | some p =>
    let t := s.bindSpans c e []
    t.event (0x10 + p) 0x8003 ([BitVec.ofNat 8 (getF e.op 55 50), 0, 0, 0] ++ beBytes 4 (getF e.op 31 0) ++ beBytes 4 e.step.toNat)

/-! ### LSUPDATE (R430-R436) -/

/-- The loss-scale descriptor (R431). -/
structure LossDesc where
  init    : Int
  lo      : Int
  hi      : Int
  backoff : Nat
  resume  : Bool
  stat    : Bool
  status  : Nat
  record  : Nat
  interval : Nat
  limit   : Nat
  deriving DecidableEq, Repr

def lossDesc (d : BitVec 256) : LossDesc :=
  ⟨signed 8 (dF d 1 1), signed 8 (dF d 2 1), signed 8 (dF d 3 1), dF d 4 1, dF d 5 1 % 2 == 1, fld (dF d 5 1) 1 1 == 1, dF d 8 6, dF d 0x10 6,
   dF d 0x18 4, dF d 0x1C 4⟩

/-- FP32 2^E for E from −127 to 127. -/
def pow32 (e : Int) : Nat := if e < -126 then 0x400000 else (e + 127).toNat * 2 ^ 23

/-- The scale record (R432). -/
structure LossRec where
  exp   : Int
  good  : Nat
  skips : Nat
  last  : Nat
  deriving DecidableEq, Repr

def LossRec.bytes (r : LossRec) (step : Word) : List Byte :=
  leBytes 4 (wrapI 32 r.exp) ++ leBytes 4 (pow32 r.exp) ++ leBytes 4 (pow32 (-r.exp)) ++ leBytes 4 r.good ++ leBytes 4 r.skips ++
  leBytes 4 step.toNat ++ leBytes 4 r.last ++ fill 4 0

def LossRec.ofBytes (b : List Byte) : LossRec := ⟨signed 32 (le b 0 4), le b 12 4, le b 16 4, le b 24 4⟩

/-- DECIDE's table (R434): the token and the new record. `bad` is POISON, NONFIN or a word of another step. -/
def lossDecide (d : LossDesc) (r : LossRec) (bad : Bool) (ovf : Nat) : Nat × LossRec :=
  let cl := fun (e : Int) => max d.lo (min d.hi e)
  if bad then (0, ⟨cl (r.exp - d.backoff), 0, satAdd 32 r.skips 1, 2⟩)
  else if d.limit < ovf ∧ d.limit ≠ 0xFFFFFFFF then (1, ⟨cl (r.exp - 1), 0, r.skips, 5⟩)
  else if d.interval ≤ r.good + 1 then (1, ⟨cl (r.exp + 1), 0, r.skips, 9⟩)
  else (1, ⟨cl r.exp, r.good + 1, r.skips, 1⟩)

/-- The record's bytes stored. -/
def storeRecord (s : State) (c : Nat) (e : Entry) (pd : List Piece) (bs : List Byte) (v : Word) : State :=
  let w := s.storePieces c e.uid pd bs
  match w.2 with
  | some a => (w.1.scramblePieces pd).fault c e 8 noIndex (some a)
  | none => (w.1.setValue c e.uid v).waitHeld c e.uid

def firePrepare (s : State) (c : Nat) (e : Entry) : State :=
  match s.imgOf c with
  | none => s
  | some im =>
    let d := lossDesc (s.desc c (getF e.op 55 44))
    let x : Side := ⟨true, none, d.record⟩
    match s.sideFault c im.pages x 0 [] [(0, 32)] <|> s.sideFault c im.pages x 1 [] [(0, 32)] with
    | some f => s.fault c e f.1 noIndex f.2
    | none =>
      if e.step = im.stepStart ∧ d.resume = false then
        s.storeRecord c e (x.pieces im.pages 1 [(0, 32)]) ((⟨d.init, 0, 0, 0⟩ : LossRec).bytes e.step) 1
      else s.setValue c e.uid 1

/-- DECIDE (R434). A status word in a granule whose class-D check failed reads 0xFF bytes and is reported, as untyped bytes are (log 27). -/
def fireDecide (s : State) (c : Nat) (e : Entry) : State :=
  match s.imgOf c with
  | none => s
  | some im =>
    let d := lossDesc (s.desc c (getF e.op 55 44))
    let x : Side := ⟨true, none, d.record⟩
    let y : Side := ⟨true, none, d.status⟩
    if d.status % 64 ≠ 0 then s.fault c e 4 noIndex (some d.status)
    else
      match s.sideFault c im.pages y 0 [] [(0, 64)] <|> s.sideFault c im.pages x 0 [] [(0, 32)] <|> s.sideFault c im.pages x 1 [] [(0, 32)] with
      | some f => s.fault c e f.1 noIndex f.2
      | none =>
        let pd := x.pieces im.pages 1 [(0, 32)]
        let py := y.pieces im.pages 0 [(0, 64)]
        let q := (s.trafficAll (s.classOf c e.unit 0) (spansOf py ++ spansOf pd)).readPieces py
        let r := q.st.readPieces (x.pieces im.pages 0 [(0, 32)])
        match q.bad <|> r.bad with
        | some a => (r.st.scramblePieces pd).fault c e 8 noIndex (some a)
        | none =>
          let w := q.bytes.map fun b => b.getD 0xFF
          let t := if q.poisoned then (r.st.flag .gsFlags (cix c) 0).poisonIn c (((s.core c).part).getD 0) e.step else r.st
          let want := if d.stat then e.step - 1 else e.step
          let bad := decide (le w 4 4 % 4 ≠ 0) || decide (le w 0 4 ≠ want.toNat)
          let o := lossDecide d (LossRec.ofBytes (r.bytes.map fun b => b.getD 0)) bad (le w 12 4)
          t.storeRecord c e pd (o.2.bytes e.step) (BitVec.ofNat 32 o.1)

/-! ### The ferry (R437-R442) -/

/-- What a FERRY writes: the trailer in its list's header and its buffer (R437, R438). -/
def ferryDst (pages : List Page) (list buf blocks : Nat) : List Span :=
  spansOf (piecesOf pages 1 (list + 16) 48 ++ piecesOf pages 1 buf (65536 * blocks))

/-- FERRY binds its snapshot and starts its export. -/
def fireFerry (s : State) (c : Nat) (e : Entry) : State :=
  match (s.core c).part, s.imgOf c with
  | some p, some im =>
    let d := s.desc c (getF e.op 55 44)
    let n := dF d 1 1
    let list : Side := ⟨true, none, dF d 8 6⟩
    let buf : Side := ⟨true, none, dF d 0x10 6⟩
    let lr := [(0, 64 + 32 * n)]
    match s.sideFault c im.pages list 0 [] lr <|> s.sideFault c im.pages list 1 [] [(16, 48)] <|>
        s.sideFault c im.pages buf 1 [] [(0, dF d 0x18 4 * 65536)] with
    | some f => s.fault c e f.1 noIndex f.2
    | none =>
      let pl := list.pieces im.pages 0 lr
      let q := (s.trafficAll (s.classOf c e.unit 0) (spansOf pl)).readPieces pl
      match q.bad with
      | some a => (q.st.scrambleAll (ferryDst im.pages (dF d 8 6) (dF d 0x10 6) (dF d 0x18 4))).fault c e 8 noIndex (some a)
      | none =>
        let b := q.bytes.map fun x => x.getD 0
        let regs := (List.range n).map fun i =>
          (le b (64 + 32 * i) 8 % 2 ^ 48, le b (72 + 32 * i) 8, BitVec.ofNat 64 (le b (80 + 32 * i) 8), BitVec.ofNat 32 (le b (88 + 32 * i) 4))
        match q.st.sideFault c im.pages ⟨true, none, 0⟩ 0 [] (regs.map fun r => (r.1, r.2.1)) with
        | some f => q.st.fault c e f.1 noIndex f.2
        | none =>
          let seq := (s.part p).ferrySeq + 1
          let spans := spansOf (regs.flatMap fun r => piecesOf im.pages 0 r.1 r.2.1)
          let fe : Ferry := { part := p, core := c, uid := e.uid, step := e.step, seq := seq,
                              buildId := s.reg .keepPartBuild [p], qpn := dF d 4 3, listVa := dF d 8 6, bufVa := dF d 0x10 6,
                              bufBlocks := dF d 0x18 4, tRaddr := BitVec.ofNat 64 (le b 0 8), tRkey := BitVec.ofNat 32 (le b 8 4),
                              regions := regs, bound := spans, rate := dF d 2 2, start := s.tick, served := 0, damaged := 0, old := [], sent := [] }
          let t := ((q.st.modPart p fun x => { x with ferrySeq := seq }).bindOnly c e []).ferryTraffic p spans
          { t.setPhase c e.uid .fired with ferries := s.ferries ++ [fe] }
  | _, _ => s

/-- Bytes of a region as the ferry sends them: granules with an error mark as zeros, counted (R442). -/
def ferryRead (s : State) (pages : List Page) (va n : Nat) : State × List Byte × Nat :=
  let r := s.servicePieces 2 (piecesOf pages 0 va n)
  (r.1, r.2.1.map fun b => b.getD 0, r.2.2.length)

/-- The part of each region inside a 64 KiB block: address and length. -/
def inBlock (regs : List (Nat × Nat × Long × Word)) (block : Nat) : List (Nat × Nat) :=
  regs.filterMap fun r =>
    let a := max r.1 (block * 65536)
    let b := min (r.1 + r.2.1) (block * 65536 + 65536)
    if a < b then some (a, b - a) else none

/-- A region's bytes: from the buffer where their block has been copied, and the rest from memory. -/
def regionBytes (s : State) (pages : List Page) (f : Ferry) (r : Nat × Nat × Long × Word) : State × List Byte × Nat :=
  (upFrom (r.1 / 65536) ((r.1 + r.2.1 - 1) / 65536 - r.1 / 65536 + 1)).foldl (fun (a : State × List Byte × Nat) b =>
    let lo := max r.1 (b * 65536)
    let n := min (r.1 + r.2.1) (b * 65536 + 65536) - lo
    if f.old.has b then
      let skip := sumN (((inBlock f.regions b).takeWhile fun q => q.1 + q.2 ≤ lo).map (·.2))
      let off := lo - (((inBlock f.regions b).find? fun q => decide (lo < q.1 + q.2)).map (·.1)).getD lo
      (a.1, a.2.1 ++ ((f.old.get [] b).drop (skip + off)).take n, a.2.2)
    else
      let q := a.1.ferryRead pages lo n
      (q.1, a.2.1 ++ q.2.1, a.2.2 + q.2.2)) (s, [], 0)

/-- The parts of the regions between two offsets of their bytes in list order. -/
def regionParts (regs : List (Nat × Nat × Long × Word)) (lo hi : Nat) : List (Nat × Nat × Long × Word) :=
  (regs.foldl (fun (a : Nat × List (Nat × Nat × Long × Word)) r =>
    let x := max lo a.1
    let y := min hi (a.1 + r.2.1)
    (a.1 + r.2.1, if x < y then a.2 ++ [(r.1 + (x - a.1), y - x, r.2.2)] else a.2)) (0, [])).2

/-- An export reads on, in list order, until it has read n bytes of its regions; those bytes are bound no more (R439). -/
def ferryReads (s : State) (pages : List Page) (f : Ferry) (n : Nat) : State × Ferry :=
  let parts := regionParts f.regions f.sent.length n
  let q := parts.foldl (fun (a : State × List Byte × Nat) r =>
    let q := a.1.regionBytes pages f r
    (q.1, a.2.1 ++ q.2.1, a.2.2 + q.2.2)) (s, f.sent, f.damaged)
  (q.1, { f with sent := q.2.1, damaged := q.2.2, bound := minusSpans f.bound (spansOf (parts.flatMap fun r => piecesOf pages 0 r.1 r.2.1)) })

/-- The writes held behind an export for bytes that it has read, or copied, go on (R77, R439). -/
def releaseRead (s : State) (f : Ferry) : State :=
  s.releaseHeld fun h => decide (h.loader = (f.core, f.uid)) && !(f.bound.any fun x => x.meets ⟨h.place, h.addr, h.data.length⟩)

/-- The bytes of its regions that an export's served granules have read: those that are not a copy's (R440; log 29). -/
def ferryGot (f : Ferry) : Nat := 64 * f.served - sumN (f.old.map fun o => o.2.length)

/-- HELD_WRITE_RELEASE of an export: it has read as far as its granules have been served, and the writes held for those bytes go on. -/
def ferryProgress (s : State) (f : Ferry) : State :=
  match (s.part f.part).img with
  | some im =>
    let r := s.ferryReads im.pages f (min (ferryGot f) (sumN (f.regions.map fun x => x.2.1)))
    (r.1.modFerry f.part fun x => { x with sent := r.2.sent, damaged := r.2.damaged, bound := r.2.bound }).releaseRead r.2
  | none => s

/-- HELD_WRITE_RELEASE: a bound load has read its bytes (R77); an export, those that its granules have been served for (R439). -/
def heldWriteRelease (s : State) (c uid : Nat) : State :=
  match s.entry? c uid with
  | some e =>
    if e.unit = 5 ∧ e.opcode = 0x7C then
      match s.ferries.find? fun f => decide ((f.core, f.uid) = (c, uid)) with
      | some f => s.ferryProgress f
      | none => s
    else s.releaseLoad c uid
  | none => s

/-- Has an export begun to read a 64 KiB block? -/
def blockBegun (f : Ferry) (block : Nat) : Bool := !(inBlock (regionParts f.regions 0 f.sent.length) block).isEmpty

/-- FERRY_BLOCK_COPIED: a block that is not yet being exported goes to the buffer and the writes held on it proceed (R439). `block`
numbers 64 KiB blocks of virtual addresses. A full buffer holds the writes. The copy's reads are those that waited for the block; the
export's reads of it go to the buffer now, in its partition's class by cap tokens as well (R440). -/
def ferryBlock (s : State) (p block : Nat) : State :=
  match s.ferryOf p, (s.part p).img with
  | some f, some im =>
    let parts := inBlock f.regions block
    if f.old.has block ∨ f.bufBlocks ≤ f.old.length ∨ parts.isEmpty ∨ blockBegun f block then s
    else
      let rd := parts.foldl (fun (a : State × List Byte × Nat) r =>
        let q := a.1.ferryRead im.pages r.1 r.2
        (q.1, a.2.1 ++ q.2.1, a.2.2 + q.2.2)) (s, [], 0)
      let f' := { f with old := f.old.set block rd.2.1, damaged := f.damaged + rd.2.2,
                         bound := minusSpans f.bound (spansOf (parts.flatMap fun r => piecesOf im.pages 0 r.1 r.2)) }
      let pb := piecesOf im.pages 1 (f.bufVa + 65536 * f.old.length) rd.2.1.length
      let t := ((rd.1.ferryTraffic p (spansOf pb)).modFerry p fun _ => f')
      ((t.storePieces f.core f.uid pb rd.2.1).1).releaseRead f'
  | _, _ => s

/-- The trailer of R441. -/
def ferryTrailer (f : Ferry) (status bytes : Nat) (be' : Bool) : List Byte :=
  let w := fun (n v : Nat) => if be' then beBytes n v else leBytes n v
  w 4 0x46525259 ++ [BitVec.ofNat 8 status, 0, 0, 0] ++ w 4 f.step.toNat ++ w 4 f.seq ++ w 8 f.buildId.toNat ++ w 8 bytes ++ w 4 f.damaged ++ fill 12 0

def qpWorks (s : State) (qpn : Nat) : Bool := s.qps.any fun q => q.qpn == qpn && !q.err

/-- The regions of an export from the first, up to n bytes of them, read and sent by RDMA WRITE. -/
def sendRegions (s : State) (pages : List Page) (f : Ferry) (n : Nat) : State × Ferry :=
  let q := s.ferryReads pages f n
  ((regionParts f.regions 0 n).foldl (fun (a : State × List Byte) (x : Nat × Nat × Long × Word) =>
    (a.1.qpOut f.qpn (.write x.2.2.2 x.2.2.1.toNat (a.2.take x.2.1)), a.2.drop x.2.1)) (q.1, q.2.sent) |>.1, q.2)

/-- The export ends (R441): its remaining reads and the writes behind it go on, its trailer is written, and its done token follows
once the trailer's bytes are visible. A trailer that cannot be merged faults FERRY (R324). -/
def ferryOver (s : State) (im : PartImg) (f : Ferry) (status bytes : Nat) : State :=
  let t := { s with ferries := s.ferries.filter fun x => x.part != f.part,
                    sluices := s.sluices.map fun (x : Nat × Sluice) => (x.1, { x.2 with ferry := x.2.ferry.erase f.part }) }
  let w := t.storePieces f.core f.uid (piecesOf im.pages 1 (f.listVa + 16) 48) (ferryTrailer f status bytes false)
  let t := (w.1.bumpBy .ferryStatus [] 47 32 f.damaged).releaseLoad f.core f.uid
  match w.2, t.entry? f.core f.uid with
  | some a, some e => (t.scrambleAll (ferryDst im.pages f.listVa f.bufVa f.bufBlocks)).fault f.core e 8 noIndex (some a)
  | _, _ => (t.setPhase f.core f.uid .done).waitHeld f.core f.uid

/-- FERRY_EXPORT_END: the regions in list order, then the trailer, acknowledged (R441). -/
def ferryEnd (s : State) (p : Nat) : State :=
  match s.ferryOf p, (s.part p).img with
  | some f, some im =>
    if s.qpWorks f.qpn then
      let n := sumN (f.regions.map fun x => x.2.1)
      let r := s.sendRegions im.pages f n
      let st := if r.2.damaged = 0 then 0 else 1
      let t := r.1.qpOut f.qpn (.write f.tRkey f.tRaddr.toNat (ferryTrailer r.2 st n true))
      (t.bump .ferryStatus [] 63 48).ferryOver im r.2 st n
    else s
  | _, _ => s

/-- An export aborts (R442): ABORTED locally, and remotely where the QP still works. How many granules of its regions it has sent by
then is the transfer's, a free number (log 29). -/
def ferryAbort (s : State) (p : Nat) : State :=
  match s.ferryOf p, (s.part p).img with
  | some f, some im =>
    let total := sumN (f.regions.map fun r => r.2.1)
    let n := f.sent.length + 64 * (s.freeLong.toNat % ((total - f.sent.length) / 64 + 1))
    let r := s.usedFresh.sendRegions im.pages f n
    let t := if r.1.qpWorks f.qpn then r.1.qpOut f.qpn (.write f.tRkey f.tRaddr.toNat (ferryTrailer r.2 2 n true)) else r.1
    { (t.bump .ferryStatus [] 15 8).ferryOver im r.2 2 n with stalled := s.stalled }
  | _, _ => s

/-! ### The exchange (R444, R445) -/

def xKey (peer slot : Nat) (send : Bool) : Nat := 32 * peer + 2 * slot + (if send then 1 else 0)

/-- The extent of an exchange instruction as pieces of its core's partition. -/
def xExtent (s : State) (c : Nat) (op : Long) : Nat × Nat :=
  let d := s.desc c (getF op 55 44)
  (dF d 8 6, dF d 0x10 8)

/-- The sender is done once the receiver's held bytes are (R444). -/
def holdSender (s : State) (snd rcv : Nat × Nat) : State :=
  let ls := (s.held.filter fun h => decide (h.storer = rcv)).map (·.loader)
  let ls := ls.foldl (fun (a : List (Nat × Nat)) l => if a.any fun k => decide (k = l) then a else a ++ [l]) []
  { s with held := s.held ++ ls.map fun l => ⟨.tier false, 0, [], l, snd, none, [], noIndex, 0⟩ }

/-- A paired exchange: unequal lengths fault both, otherwise the bytes go over. -/
def xTransfer (s : State) (sc suid rc ruid : Nat) (data : List Byte) : State :=
  match s.entry? sc suid, s.entry? rc ruid with
  | some a, some b =>
    let x := s.xExtent rc b.op
    if x.2 ≠ data.length then (s.fault sc a 7 noIndex none).fault rc b 7 noIndex none
    else
      let pd := piecesOf (s.pagesOf rc) 1 x.1 x.2
      let w := s.storePieces rc ruid pd data
      match w.2 with
      | some v => (w.1.scramblePieces pd).fault rc b 8 noIndex (some v)
      | none =>
        let t := ((w.1.setPhase sc suid .done).setPhase rc ruid .done).holdSender (sc, suid) (rc, ruid)
        (t.waitHeld sc suid).waitHeld rc ruid
  | _, _ => s

/-- XSEND and XRECV. -/
def fireExchange (s : State) (c : Nat) (e : Entry) (send : Bool) : State :=
  match (s.core c).part with
  | none => s
  | some p =>
    let peer := getF e.op 43 40
    let slot := getF e.op 39 36
    let x := s.xExtent c e.op
    let side : Side := ⟨true, none, x.1⟩
    let pages := s.pagesOf c
    match s.sideFault c pages side (if send then 0 else 1) [] [(0, x.2)] with
    | some f => s.fault c e f.1 noIndex f.2
    | none =>
      if !s.isRunning peer then s.fault c e 7 noIndex none
      else
        let k := (s.part p).xcount.get 0 (xKey peer slot send)
        let s := s.modPart p fun y => { y with xcount := y.xcount.set (xKey peer slot send) (k + 1) }
        let ps := side.pieces pages 0 [(0, x.2)]
        let r := if send then (s.bindSpans c e (spansOf ps)).readPieces ps else ⟨s, [], none⟩
        match r.bad with
        | some a => r.st.fault c e 8 noIndex (some a)
        | none =>
          let t := if r.poisoned then (r.st.flag .gsFlags (cix c) 0).poisonIn c p e.step else r.st
          let data := r.bytes.map fun b => b.getD 0xFF
          match (t.part peer).xwaits.find? fun w => w.send != send && w.peer == p && w.slot == slot && w.k == k with
          | some w =>
            let t := t.modPart peer fun y => { y with xwaits := y.xwaits.filter fun v => decide (v ≠ w) }
            if send then t.xTransfer c e.uid w.core w.uid data else t.xTransfer w.core w.uid c e.uid w.data
          | none =>
            (t.modPart p fun y => { y with xwaits := y.xwaits ++ [⟨send, c, e.uid, peer, slot, k, data⟩] }).setPhase c e.uid .fired

end State

def execHeldWriteRelease (c : CoreId) (uid : Nat) (s : State) : Out := .next (s.settle (s.heldWriteRelease c uid))
def execHostin (c : CoreId) (s : State) : Out := .next (s.fireOp c 5 0x68 (s.strmAccepts c) fun t e => t.fireHostin c e)
def execHostsig (c : CoreId) (s : State) : Out := .next (s.fireOp c 5 0x69 (s.strmAccepts c) fun t e => t.fireHostsig c e)
def execLsupdatePrepare (c : CoreId) (s : State) : Out :=
  .next (s.settle (s.fireWhen c 5 (s.strmAccepts c) (fun e => e.opcode == 0x74 && getF e.op 43 43 == 0) fun t e => t.firePrepare c e))
def execLsupdateDecide (c : CoreId) (s : State) : Out :=
  .next (s.settle (s.fireWhen c 5 (s.strmAccepts c) (fun e => e.opcode == 0x74 && getF e.op 43 43 == 1) fun t e => t.fireDecide c e))
def execFerry (c : CoreId) (s : State) : Out := .next (s.settle (s.fireOp c 5 0x7C (s.strmAccepts c) fun t e => t.fireFerry c e))
def execFerryBlockCopied (p : PartId) (block : Nat) (s : State) : Out := .next (s.settle (s.ferryBlock p block))
def execFerryExportEnd (p : PartId) (s : State) : Out := .next (s.settle (s.ferryEnd p))
def execFerryAbort (p : PartId) (s : State) : Out := .next (s.settle (s.ferryAbort p))
def execXsend (c : CoreId) (s : State) : Out := .next (s.settle (s.fireOp c 5 0x76 (s.strmAccepts c) fun t e => t.fireExchange c e true))
def execXrecv (c : CoreId) (s : State) : Out := .next (s.settle (s.fireOp c 5 0x77 (s.strmAccepts c) fun t e => t.fireExchange c e false))

end Sys2Proof.Machine
end

