-- ==== Sys2Proof/Machine/Parse.lean ====
section
/-! DEFINITION. Keys and signatures (R557-R562), and the bytes of an image as data (R94-R114, R223, R227, R413). -/

namespace Sys2Proof.Machine

/-- Bytes of a signature block (R114). -/
def sigLen : Nat := 16672

/-! ### Keys (R557-R562) -/

/-- The life-cycle state that a fuse pattern encodes (R562): 0 Blank, 1 Provisioned, 2 Deployed, 3 Returned, 4 Scrapped. -/
def lifeOf (fuses : BitVec 4) : Nat :=
  if fuses = 0 then 0 else if fuses = 1 then 1 else if fuses = 3 then 2 else if fuses = 7 then 3 else 4

namespace State

def lifeState (s : State) : Nat := lifeOf s.life.fuses

/-- Does a key count in the life-cycle state in force (R557, R561, R562)? -/
def keyCounts (s : State) (k : Cert) (use : Nat) : Bool :=
  let l := s.lifeState
  k.use.getLsbD use && !s.life.revoked.getLsbD k.keyId && decide (l < 4) && k.states.getLsbD l &&
  (decide (k.keyId < 16) || l == 1 || l == 2) && (k.subject == 0 || k.subject == s.life.device)

/-- The key of an id in the key store, if usable. -/
def key? (s : State) (id alg use : Nat) : Option Cert :=
  s.life.keys.find? fun k => k.keyId == id && k.alg.toNat == alg && s.keyCounts k use

end State

/-- Is the signature block well formed (R114)? -/
def sigFormed (sig : List Byte) : Bool :=
  sig.length == sigLen && le sig 0 4 == 384 && le sig 4 4 == 16224 && ((sig.drop 8).take 56).all fun b => b == 0

/-- Does a block's RSA half verify under a key, and its SLH-DSA half under another? -/
def sigGood (rsa slh : Cert) (msg sig : List Byte) : Bool :=
  sigFormed sig && Config.rsaVerify rsa.key msg ((sig.drop 0x40).take 384) &&
  Config.slhVerify slh.key msg ((sig.drop 0x1C0).take 16224)

namespace State

/-- Does a signed object verify under the keys it names (R557)? -/
def verifies (s : State) (rsaId slhId use : Nat) (msg sig : List Byte) : Bool :=
  match s.key? rsaId 0 use, s.key? slhId 1 use with
  | some r, some l => sigGood r l msg sig
  | _, _ => false

/-- Does a table or program verify under Eowick table keys (R116)? Its section names none: any pair of the store's will do. -/
def tableVerifies (s : State) (msg sig : List Byte) : Bool :=
  let ks := s.life.keys.filter fun k => decide (k.keyId < 16) && s.keyCounts k 2
  (ks.filter fun k => k.alg == 0).any fun r => (ks.filter fun k => k.alg == 1).any fun l => sigGood r l msg sig

end State

/-- A certificate read from its bytes (R560). -/
def Cert.parse (b : List Byte) : Cert :=
  let rsa := b.getD 6 0 == 0
  ⟨le b 8 4, b.getD 6 0, b.getD 7 0, le b 0x0C 4, le b 0x10 4, BitVec.ofNat 64 (le b 0x14 8), b.getD 0x1C 0,
   if rsa then (b.drop 0x40).take 384 else (b.drop 0x1C4).take 48, b⟩

/-! ### Sections (R96, R97) -/

/-- A directory entry: where it stands, and its fields. -/
structure Sect where
  entry : Nat
  type  : Nat
  part  : Nat
  off   : Nat
  len   : Nat
  count : Nat
  deriving DecidableEq, Repr

def sectAt (b : List Byte) (o : Nat) : Sect := ⟨o, le b o 2, le b (o + 2) 1, le b (o + 4) 4, le b (o + 8) 4, le b (o + 12) 4⟩

def dirOf (b : List Byte) : List Sect := (List.range (le b 0x20 4)).map fun i => sectAt b (0x80 + 16 * i)

/-- The sections of a type that belong to a partition, in directory order. -/
def sectsOf (dir : List Sect) (type part : Nat) : List Sect := dir.filter fun x => x.type == type && x.part == part

/-- The offsets of a section's entries of a fixed size after a header. -/
def entsOf (x : Sect) (hdr size : Nat) : List Nat := (List.range x.count).map fun i => x.off + hdr + size * i

/-- The offsets of the entries of every section of a type. -/
def entries (dir : List Sect) (type part size : Nat) : List Nat := (sectsOf dir type part).flatMap fun x => entsOf x 0 size

/-! ### Entries -/

def pageAt (b : List Byte) (o : Nat) : Page :=
  ⟨le b o 8, le b (o + 8) 1 == 1, le b (o + 9) 1 == 1, le b (o + 10) 1 == 1, BitVec.ofNat 2 (le b (o + 11) 1), le b (o + 12) 4⟩

def ownAt (b : List Byte) (o : Nat) : OwnEntry := ⟨le b o 1 == 1, le b (o + 1) 1, le b (o + 2) 1, le b (o + 3) 1⟩

def costAt (b : List Byte) (o : Nat) : Cost := ⟨le b o 1, le b (o + 1) 1, le b (o + 2) 1, le b (o + 4) 4⟩

def recAt (b : List Byte) (o : Nat) : Rec :=
  ⟨BitVec.ofNat 64 (le b o 8), BitVec.ofNat 16 (le b (o + 8) 2), le b (o + 12) 1, le b (o + 13) 3, BitVec.ofNat 64 (le b (o + 16) 8), o⟩

def progAt (b : List Byte) (x : Sect) : Prog :=
  ⟨le b x.off 2, 16 * le b (x.off + 2) 1 + le b (x.off + 3) 1, (entsOf x 32 24).map (recAt b)⟩

/-- A destination byte of a token route: 16 × cluster + core. -/
def routeAt (b : List Byte) (o : Nat) : Route :=
  let src := le b (o + 2) 2
  ⟨16 * le b o 1 + le b (o + 1) 1, BitVec.ofNat 2 (fld src 15 14), fld src 11 0, fld (le b (o + 4) 2) 11 0, le b (o + 6) 1,
   (List.range (le b (o + 7) 1)).map fun i => le b (o + 16 + i) 1⟩

def linkAt (b : List Byte) (o : Nat) : LinkRoute :=
  ⟨le b o 2, BitVec.ofNat 16 (le b (o + 2) 2), le b (o + 4) 1, le b (o + 5) 1, (b.drop (o + 8)).take 8⟩

/-- The offsets of the trees of a COLLECTIVE_TREES section (R113). -/
def treeOffs (b : List Byte) : Nat → Nat → List Nat
  | 0, _ => []
  | n + 1, o => o :: treeOffs b n (o + 32 + 8 * le b (o + 4) 4)

def treeAt (b : List Byte) (o : Nat) : Tree :=
  ⟨le b o 2, le b (o + 2) 1, le b (o + 3) 1, BitVec.ofNat 3 (le b (o + 8) 1),
   (List.range (le b (o + 4) 4)).map fun i =>
     let e := o + 32 + 8 * i
     (if le b e 4 = 0xFFFFFFFF then none else some (le b e 4), le b (e + 4) 1)⟩

/-! ### Partitions -/

/-- The part of an image that a partition's entry at o and its sections give (R99-R113). -/
def partAt (b : List Byte) (dir : List Sect) (o : Nat) : PartImg :=
  let p := le b o 1
  let es := fun (type size : Nat) => entries dir type p size
  { energyShare := le b (o + 4) 4, runSeed := BitVec.ofNat 64 (le b (o + 8) 8),
    mask := (List.range 8).map fun c => BitVec.ofNat 16 (le b (o + 0x10 + 2 * c) 2), stepStart := word32 b (o + 0x20),
    deadline := le b (o + 0x24) 4, fastMin := le b (o + 0x28) 2, fastCap := le b (o + 0x2A) 2, slowMin := le b (o + 0x2C) 2,
    slowCap := le b (o + 0x2E) 2, grant := BitVec.ofNat 3 (le b (o + 0x30) 4), gaugeSlots := le b (o + 0x34) 2,
    gaugeRecord := le b (o + 0x38) 8,
    pages := (es 2 16).map (pageAt b), owners := (es 3 8).map (ownAt b),
    shapes := (es 4 4).map fun e => (16 * le b e 1 + le b (e + 1) 1, le b (e + 2) 1),
    profiles := (es 5 4).map fun e => (16 * le b e 1 + le b (e + 1) 1, le b (e + 2) 1, le b (e + 3) 1),
    costs := (es 0x0E 8).map (costAt b), gaugeMap := (es 0x0F 8).map fun e => (le b e 2, word32 b (e + 4)),
    descs := (es 8 32).map fun e => BitVec.ofNat 256 (le b e 32), progs := (sectsOf dir 9 p).map (progAt b),
    routes := (es 0x0A 32).map (routeAt b), schedule := (es 0x0B 2).map fun e => le b e 2,
    tables := (sectsOf dir 6 p).mapIdx fun i x => tableAt b x.off i, rennets := (sectsOf dir 7 p).map fun x => rennetAt b x.off,
    store := (sectsOf dir 6 p ++ sectsOf dir 7 p).map fun x => (b.drop x.off).take x.len,
    links := (es 0x0C 16).map (linkAt b),
    trees := (sectsOf dir 0x0D p).flatMap fun x => (treeOffs b x.count x.off).map (treeAt b),
    ingest := (es 0x10 64).map fun e => BitVec.ofNat 512 (le b e 64), ferry := [],
    hash := Config.sha384 (b.take (le b 0x10 8)) }

/-- The PARTITION_MAP's place. -/
def mapOff (dir : List Sect) : Nat := ((dir.find? fun x => x.type == 1).map (·.off)).getD 0

/-- The offsets of the partition entries (R98). -/
def partOffs (b : List Byte) (dir : List Sect) : List Nat :=
  let m := mapOff dir
  (List.range (le b m 2)).map fun i => m + 64 + 64 * i

/-- The bytes of an image as the data it spells. -/
def parseImage (b : List Byte) : Image :=
  let dir := dirOf b
  let m := mapOff dir
  let scope := le b 7 1
  { scopePart := if scope / 128 = 1 then some (scope % 16) else none, buildId := BitVec.ofNat 64 (le b 0x18 8),
    hdr := ⟨(List.range 8).map fun c => le b (0x30 + c) 1, le b (m + 2) 2, le b (m + 4) 2, le b (m + 6) 2, le b (m + 8) 4⟩,
    parts := (partOffs b dir).map fun o => (le b o 1, partAt b dir o) }

end Sys2Proof.Machine
end

