-- ==== Sys2Proof/Machine/CheckDesc.lean ====
section
/-! DEFINITION. What R118's FIELD check asks of a descriptor on its own, by KIND (R135-R138, R169, R173, R260, R269, R274,
R275, R377, R391, R409, R431, R438, R450), and of an ingest profile (R413). Each check is the offset of a field and
whether the field is right. -/

namespace Sys2Proof.Machine

/-- The offsets of the fields that are wrong. -/
def bads (l : List (Nat × Bool)) : List Nat := (l.filter fun x => !x.2).map (·.1)

/-- A field that is zero. -/
def zeroF (d : BitVec 256) (o n : Nat) : Nat × Bool := (o, dF d o n == 0)

/-- A field from lo to hi. -/
def inF (d : BitVec 256) (o n lo hi : Nat) : Nat × Bool := (o, decide (lo ≤ dF d o n) && decide (dF d o n ≤ hi))

/-- A field that is a multiple. -/
def multF (d : BitVec 256) (o n k : Nat) : Nat × Bool := (o, dF d o n % k == 0)

def isFmt (f : Nat) : Bool := hasN [0, 1, 2, 3, 4, 5, 8, 9, 10] f
/-- A conversion control whose RMODE is not 11 (R51). -/
def convOk (c : Nat) : Bool := decide (c < 8) && c % 4 != 3

/-- A LOC byte's shape (R137). -/
def vatLoc (l : Nat) : Bool := decide (l < 32)
def locOk (l : Nat) : Bool := vatLoc l || (decide (64 ≤ l) && decide (l < 80))
def locSize (l : Nat) : Nat := if l < 64 then mib2 else 1048576

/-- Tensor ids that a conversion site may carry: not the shuffle's (R389). -/
def tensorIdOk (t : Nat) : Bool := !hasN [0xFFFFFF00, 0xFFFFFF01, 0xFFFFFF02, 0xFFFFFF03] t

/-- A SPACE byte with its LOC byte. -/
def spaceLoc (d : BitVec 256) (so lo : Nat) : List (Nat × Bool) :=
  [inF d so 1 0 1, (lo, if dF d so 1 = 0 then dF d lo 1 == 0 else locOk (dF d lo 1))]

/-- Rows inside a location. -/
def rowsIn (loc off rows stride len : Nat) : Bool := decide (off + (rows - 1) * stride + len ≤ locSize loc)

/-- Bytes of a G64 group (R255). -/
def groupBytes (f : Nat) : Nat := 8 * fmtWidth f

/-! ### Array descriptors (R135-R138) -/

/-- What a tile needs of its shape. -/
def tileDim (d : BitVec 256) (sh : Nat) : List (Nat × Bool) :=
  let f := dF d 1 1
  let dep := shapeD sh f
  let rows := dF d 0x0F 1 + 1
  let rb := rowBytes f dep
  let loc := dF d 4 1
  [(0x0C, decide (rows ≤ shapeR sh)), (0x10, decide (rb ≤ dF d 0x10 4)), (8, rowsIn loc (dF d 8 4) rows (dF d 0x10 4) rb),
   (5, f != 5 || decide (dF d 5 3 + rows * (dep / 32) ≤ locSize loc))]

/-- What a weight stream needs of its pass's shape. -/
def weightDim (d : BitVec 256) (sh : Nat) : List (Nat × Bool) :=
  let f := dF d 1 1
  let dep := shapeD sh f
  let n := dF d 0x0C 3
  let rb := rowBytes f dep
  [(0x10, decide (rb ≤ dF d 0x10 4)), (8, rowsIn 0 (dF d 8 4) n (dF d 0x10 4) rb),
   (5, f != 5 || decide (dF d 5 3 + n * (dep / 32) ≤ mib2))]

def arrayFmt (f : Nat) : Bool := decide (1 ≤ f) && decide (f ≤ 5)

def tileBad (d : BitVec 256) : List (Nat × Bool) :=
  [(1, arrayFmt (dF d 1 1)), inF d 2 1 0 3, zeroF d 3 1, (4, locOk (dF d 4 1)), (5, dF d 1 1 == 5 || dF d 5 3 == 0), multF d 8 4 128,
   (0x0C, dF d 0x0C 3 == 0), multF d 0x10 4 128, zeroF d 0x14 12] ++
  (if arrayFmt (dF d 1 1) ∧ dF d 2 1 ≤ 2 then tileDim d (dF d 2 1) else [])

def weightBad (d : BitVec 256) : List (Nat × Bool) :=
  [(1, arrayFmt (dF d 1 1)), zeroF d 2 2, (4, vatLoc (dF d 4 1)), (5, dF d 1 1 == 5 || dF d 5 3 == 0), multF d 8 4 128,
   inF d 0x0C 4 1 8192, multF d 0x10 4 128, zeroF d 0x14 12]

/-- The runs of a store: how many, and bytes in each. -/
def storeShape (d : BitVec 256) : Nat × Nat :=
  let f := dF d 1 1
  let rows := dF d 0x0F 1 + 1
  let cols := dF d 0x0C 3
  if dF d 2 1 = 0 then (rows, (cols + 63) / 64 * groupBytes f)
  else if dF d 2 1 = 1 then (cols, (rows + 63) / 64 * groupBytes f)
  else (rows, cols * fmtWidth f / 8)

/-- Scale bytes of an MXFP4 store: two to a G64 group. -/
def storeScales (d : BitVec 256) : Nat := (storeShape d).1 * ((storeShape d).2 / 16)

def storeBad (d : BitVec 256) : List (Nat × Bool) :=
  let q := storeShape d
  let loc := dF d 4 1
  [inF d 1 1 0 5, (2, decide (dF d 2 1 ≤ 2) && !(dF d 2 1 == 2 && dF d 1 1 == 5)), (3, convOk (dF d 3 1)), (4, locOk loc),
   (5, if dF d 1 1 = 5 then decide (dF d 5 3 + storeScales d ≤ locSize loc) else dF d 5 3 == 0),
   (8, dF d 8 4 % 128 == 0 && rowsIn loc (dF d 8 4) q.1 (dF d 0x10 4) q.2), inF d 0x0C 3 1 8192, multF d 0x10 4 128, (0x14, tensorIdOk (dF d 0x14 4))]

/-! ### Tensor and movement descriptors -/

def streamBad (d : BitVec 256) : List (Nat × Bool) :=
  let rb := dF d 4 4
  let many := decide (1 < dF d 0x11 3)
  spaceLoc d 1 2 ++
  [(3, locOk (dF d 3 1)), (4, rb % 64 == 0 && decide (64 ≤ rb) && decide (rb ≤ mib2)), multF d 8 6 64, multF d 0x0E 3 64,
   inF d 0x11 3 1 1048576, (0x14, dF d 0x14 4 % 64 == 0 && (!many || decide (rb ≤ dF d 0x14 4))),
   (0x18, dF d 0x18 4 % 64 == 0 && (!many || decide (rb ≤ dF d 0x18 4))), (0x1C, isFmt (dF d 0x1C 1)), zeroF d 0x1D 3]

def tensorLen (d : BitVec 256) : Nat :=
  let es := fmtWidth (dF d 1 1) / 8
  if dF d 2 1 = 0 then (dF d 0x0C 3 + 63) / 64 * 64 * es else dF d 0x0C 3 * es

def tensorBad (d : BitVec 256) : List (Nat × Bool) :=
  let f := dF d 1 1
  let g64 := dF d 2 1 == 0
  let es := fmtWidth f / 8
  [(1, isFmt f && f != 5), inF d 2 1 0 1, (3, convOk (dF d 3 1)), (4, vatLoc (dF d 4 1)), inF d 5 3 1 1048576,
   (8, (if g64 then dF d 8 4 % 128 == 0 else dF d 8 4 % max es 1 == 0) &&
     rowsIn 0 (dF d 8 4) (dF d 5 3) (dF d 0x10 4) (tensorLen d)),
   inF d 0x0C 3 1 1048576, zeroF d 0x0F 1, (0x10, (!g64 || dF d 0x10 4 % 128 == 0) && decide (tensorLen d ≤ dF d 0x10 4))]

/-- A permutation of the three dimensions. -/
def orderOk (o : Nat) : Bool :=
  hasN [0x24, 0x21, 0x18, 0x12, 0x09, 0x06] o

/-- A copy endpoint, whoever names it: the sizes are zero in a destination, which bounds no stride then (R260). The rows of a G64
endpoint start at multiples of 128 (R255), those of G24 groups at multiples of 3,072 (R266). -/
def endpBad (d : BitVec 256) : List (Nat × Bool) :=
  let lay := dF d 2 1
  let n0 := dF d 0x18 3
  let n1 := dF d 0x1B 3
  let s1 := dF d 0x10 4
  let s2 := dF d 0x14 4
  let many := decide (0 < dF d 0x1E 2)
  [(1, isFmt (dF d 1 1) && dF d 1 1 != 5), inF d 2 1 0 2] ++ spaceLoc d 3 4 ++
  [(5, orderOk (dF d 5 1)), zeroF d 6 2, zeroF d 0x0E 2, inF d 0x18 3 0 1048576, inF d 0x1B 3 0 1048576,
   (8, if lay = 0 then dF d 8 6 % 128 == 0 else lay != 2 || dF d 8 6 % 3072 == 0),
   (0x10, match lay with
     | 0 => s1 % 128 == 0 && decide ((n0 + 63) / 64 * groupBytes (dF d 1 1) ≤ s1)
     | 1 => decide (n0 * (fmtWidth (dF d 1 1) / 8) ≤ s1)
     | _ => s1 % 3072 == 0 && decide (n1 * 48 ≤ s1)),
   (0x14, match lay with
     | 0 => !many || (s2 % 128 == 0 && decide (n1 * s1 ≤ s2))
     | 1 => !many || decide (n1 * s1 ≤ s2)
     | _ => s2 % 3072 == 0 && (!many || decide ((n0 + 23) / 24 * s1 ≤ s2)))]

def indexedBad (d : BitVec 256) : List (Nat × Bool) :=
  let f := dF d 1 1
  let g := groupBytes f
  let sh := dF d 3 1
  [(1, isFmt f && f != 5), inF d 2 1 0 127, (3, decide (sh < 64) && fld sh 5 4 != 3), inF d 4 1 0 2] ++ spaceLoc d 5 6 ++
  [zeroF d 7 1, zeroF d 0x0E 2, inF d 0x10 3 1 1048576, inF d 0x13 3 1 1048576,
   (0x18, dF d 0x18 4 % 128 == 0 && decide ((dF d 0x10 3 + 63) / 64 * g ≤ dF d 0x18 4)),
   (0x1C, dF d 0x16 2 == 0 || (dF d 0x1C 4 % 128 == 0 && decide (dF d 0x13 3 * dF d 0x18 4 ≤ dF d 0x1C 4))),
   (8, dF d 8 6 % 128 == 0),
   (2, decide ((dF d 2 1 % 128 + 1) * (sh % 16 + 1) * g ≤ 32768)),
   (8, dF d 5 1 == 0 || decide (dF d 8 6 + dF d 0x16 2 * dF d 0x1C 4 + (dF d 0x13 3 - 1) * dF d 0x18 4 +
     (dF d 0x10 3 + 63) / 64 * g ≤ locSize (dF d 6 1)))]

def listBad (d : BitVec 256) : List (Nat × Bool) :=
  let m := dF d 3 1 % 2
  [(1, locOk (dF d 1 1)), (2, vatLoc (dF d 2 1)), inF d 3 1 0 3, inF d 4 4 1 65536, multF d 8 4 4,
   (0x0C, if m = 0 then dF d 0x0C 4 == 0 else dF d 0x0C 4 % 8 == 0 && decide (dF d 0x0C 4 + (dF d 4 4 + 7) / 8 ≤ locSize (dF d 1 1))),
   multF d 0x10 4 128, multF d 0x14 4 128, zeroF d 0x18 8]

/-! ### The other kinds -/

def collBad (d : BitVec 256) : List (Nat × Bool) :=
  [(1, isFmt (dF d 1 1))] ++ spaceLoc d 2 3 ++ spaceLoc d 4 5 ++
  [zeroF d 6 2, inF d 0x14 4 0 268435456, multF d 0x18 6 64, zeroF d 0x1E 2]

def shufBad (d : BitVec 256) : List (Nat × Bool) :=
  [zeroF d 1 3, inF d 4 4 1 16777216, zeroF d 0x0E 2, zeroF d 0x16 2, inF d 0x18 6 1 1099511627776, zeroF d 0x1E 2]

def byteBad (d : BitVec 256) : List (Nat × Bool) := [zeroF d 1 7, zeroF d 0x0E 2, inF d 0x10 8 1 4294967296, zeroF d 0x18 8]

def lossBad (d : BitVec 256) : List (Nat × Bool) :=
  let x := fun o => signed 8 (dF d o 1)
  let ok := fun (v lo hi : Int) => decide (lo ≤ v) && decide (v ≤ hi)
  [(2, ok (x 2) (-126) 127), (3, ok (x 3) (x 2) 127), (1, ok (x 1) (-126) 127 && ok (x 1) (x 2) (x 3)), inF d 4 1 1 8, inF d 5 1 0 3,
   zeroF d 6 2, zeroF d 0x0E 2, (0x10, dF d 0x10 8 % 32 == 0 && decide (dF d 0x10 8 < 2 ^ 48)), inF d 0x18 4 1 16777216]

def ferryBad (d : BitVec 256) : List (Nat × Bool) :=
  [inF d 1 1 1 64, inF d 2 2 0 100, zeroF d 7 1, (8, dF d 8 8 % 64 == 0 && decide (dF d 8 8 < 2 ^ 48)),
   (0x10, dF d 0x10 8 % 65536 == 0 && decide (dF d 0x10 8 < 2 ^ 48)), inF d 0x18 4 1 65536, zeroF d 0x1C 4]

def saveBad (d : BitVec 256) : List (Nat × Bool) :=
  [inF d 1 1 0 15, (2, decide (dF d 2 1 < dF d 3 1)), inF d 3 1 1 16, zeroF d 4 4, (8, dF d 8 8 % 64 == 0 && decide (dF d 8 8 < 2 ^ 48)),
   (0x10, dF d 0x10 8 % 64 == 0 && decide (64 ≤ dF d 0x10 8) && decide (dF d 0x10 8 ≤ 2 ^ 38)), multF d 0x18 8 64]

def roundBad (d : BitVec 256) : List (Nat × Bool) := [zeroF d 1 3, (4, tensorIdOk (dF d 4 4)), zeroF d 0x10 16]

/-- The fields of a descriptor that are wrong, whoever names it. -/
def descBad (d : BitVec 256) : List Nat :=
  match dF d 0 1 with
  | 0 => bads (tileBad d)
  | 1 => bads (weightBad d)
  | 2 => bads (storeBad d)
  | 3 => bads (streamBad d)
  | 4 => bads (tensorBad d)
  | 5 => bads (endpBad d)
  | 6 => bads (indexedBad d)
  | 7 => bads (listBad d)
  | 8 => bads (collBad d)
  | 9 => bads (shufBad d)
  | 10 => bads (byteBad d)
  | 11 => bads (lossBad d)
  | 12 => bads (ferryBad d)
  | 13 => bads (saveBad d)
  | 14 => bads (roundBad d)
  | _ => [0]

/-- The vat and pool locations a descriptor names. -/
def descLocs (d : BitVec 256) : List Nat :=
  match dF d 0 1 with
  | 0 | 1 | 2 | 4 => [dF d 4 1]
  | 3 => (if dF d 1 1 = 1 then [dF d 2 1] else []) ++ [dF d 3 1]
  | 5 => if dF d 3 1 = 1 then [dF d 4 1] else []
  | 6 => if dF d 5 1 = 1 then [dF d 6 1] else []
  | 7 => [dF d 1 1, dF d 2 1]
  | 8 => (if dF d 2 1 = 1 then [dF d 3 1] else []) ++ (if dF d 4 1 = 1 then [dF d 5 1] else [])
  | _ => []

/-! ### Ingest profiles (R413) -/

/-- Is an FP32 pattern finite? -/
def finite32 (w : Nat) : Bool := fld w 30 23 != 255

def profileBad (d : BitVec 512) : List Nat :=
  let f := prF d
  let ow := f 0x10 2
  let oh := f 0x12 2
  let p := f 0x14 1
  let rng := fun (o n lo hi : Nat) => (o, decide (lo ≤ f o n) && decide (f o n ≤ hi))
  bads [rng 0 2 0x10 0x1FFE, rng 2 1 0 1, rng 3 1 1 3, rng 4 1 0 1, rng 5 1 0 2, rng 6 1 0 3, rng 7 1 0 2,
    (8, (List.range 4).all fun i => f (8 + 2 * i) 2 % 2 == 0), (0x0C, f 0x0C 2 != 0 && f 0x0E 2 != 0), rng 0x10 2 1 4096,
    rng 0x12 2 1 4096, (0x14, decide (1 ≤ p) && decide (p ≤ 32) && ow % max p 1 == 0 && oh % max p 1 == 0), rng 0x15 1 1 2,
    rng 0x16 1 0 1, (0x17, f 0x17 1 == 0), (0x18, (List.range 6).all fun i => finite32 (f (0x18 + 4 * i) 4)),
    (0x30, tensorIdOk (f 0x30 4)),
    (0x34, f 0x34 4 % 128 == 0 && decide (pictureBytes d ≤ f 0x34 4)), rng 0x38 2 1 4096, (0x3A, f 0x3A 6 == 0)]

end Sys2Proof.Machine
end

