-- ==== Sys2Proof/Machine/CheckOps.lean ====
section
/-! DEFINITION. What R118's FIELD check asks of an operation word and of the descriptors it names (R109, R134-R138, R162,
R163, R166, R169, R174, R176, R187-R191, R218-R222, R240, R241, R259-R266, R268-R281, R297, R374-R378, R391, R409, R412, R430,
R437, R444, R451). -/

namespace Sys2Proof.Machine

/-- What a record is checked against: its partition's image and number, the MIN_CORES in force (R137), the partitions that
exist once the image is committed, and its program. -/
structure OpCtx where
  im   : PartImg
  part : Nat
  minCores : List Nat
  live : List Nat
  prog : Prog
  deriving DecidableEq, Repr

/-- Has the word nothing outside the fields listed and the opcode? -/
def onlyF (op : Long) (fs : List (Nat × Nat)) : Bool := (((63, 56) :: fs).foldl (fun w f => setF w f.1 f.2 0) op) == 0#64

/-- Does a record take an operand from the scalar token of wait entry 0: VSETVL TOK, SHUF, HOSTIN with SRC 1 (R166, R391,
R409)? -/
def Rec.takesScalar (r : Rec) : Bool :=
  ((r.unit == 2 || r.unit == 3) && r.opcode == 1 && getF r.op 55 54 == 2) || (r.unit == 7 && r.opcode == 0x52) ||
    (r.unit == 5 && r.opcode == 0x68 && getF r.op 49 49 == 1)

namespace OpCtx

def cl (x : OpCtx) : Nat := x.prog.core / 16

/-- Is vat index v one of cluster c's (R137)? -/
def vatIn (x : OpCtx) (v : Nat) : Bool := decide (v < 32) && decide (v / 2 < x.minCores.getD x.cl 0)
def locIn (x : OpCtx) (l : Nat) : Bool := if l < 64 then x.vatIn l else locOk l

/-- A descriptor of a KIND whose locations exist in the core's cluster. -/
def desc? (x : OpCtx) (i kind : Nat) : Option (BitVec 256) :=
  (x.im.descs[i]?).filter fun d => dF d 0 1 == kind && (descLocs d).all x.locIn

/-- A condition on a named descriptor. -/
def withD (x : OpCtx) (i kind : Nat) (f : BitVec 256 → Bool) : Bool :=
  match x.desc? i kind with
  | some d => f d
  | none => false

/-- The iterations of the innermost loop around record i, up to its declared maximum; 1 outside any loop. -/
def innerMax (x : OpCtx) (i : Nat) : Nat :=
  (((enclosing x.prog.recs i).filter fun h => h.2.isLoop).getLast?.map fun h => h.2.maxTrips).getD 1

/-! ### Matrix arrays -/

def tileShape (x : OpCtx) (d : BitVec 256) : Nat := x.im.shapeOf x.prog.core d

/-- The places of the schedule at which the program runs (R111); a program that never runs is looked at as at the first. -/
def places (x : OpCtx) : List Nat :=
  let l := (List.range x.im.schedule.length).filter fun t => x.im.schedule.getD t 0 == x.prog.program
  if l.isEmpty then [0] else l

/-- The tile descriptors, where an MLOAD precedes it, that an MPASS at record i works with: at every place of the schedule, in the
first and in later iterations of its loops (R139). -/
def passTiles (x : OpCtx) (i b : Nat) : List (Option (BitVec 256)) :=
  (x.places.flatMap fun t => (itersUpTo 2 x.prog.recs i).map fun it => x.im.passTile x.prog.core x.prog.recs t i it b).eraseDups

def passShapes (x : OpCtx) (i b : Nat) : List Nat := ((x.passTiles i b).map (x.im.passShape x.prog.core)).eraseDups

/-- R138: two MLOADs of one loop body to one tile buffer name one shape. -/
def sameShapes (x : OpCtx) (i : Nat) (r : Rec) : Bool :=
  let loops := fun (k : Nat) => ((enclosing x.prog.recs k).filter fun h => h.2.isLoop).map (·.1)
  ((List.range i).zip x.prog.recs).all fun q =>
    if q.2.unit = 1 ∧ q.2.opcode = 0x10 ∧ getF q.2.op 39 39 = getF r.op 39 39 ∧ ((loops q.1).any fun h => hasN (loops i) h) then
      (match x.desc? (getF q.2.op 55 40) 0, x.desc? (getF r.op 55 40) 0 with
        | some a, some b => x.tileShape a == x.tileShape b
        | _, _ => true)
    else true

/-- Accumulators of a shape from a base (R132). -/
def accOk (shape base cols : Nat) : Bool := base % shapeR shape == 0 && decide (base + shapeR shape * cols ≤ 65536)

def arrayOk (x : OpCtx) (i : Nat) (r : Rec) : Bool :=
  let op := r.op
  match r.opcode with
  | 0x10 => onlyF op [(55, 40), (39, 39)] && x.sameShapes i r &&
      x.withD (getF op 55 40) 0 fun d => (bads (tileDim d (x.tileShape d))).isEmpty
  | 0x11 => onlyF op [(55, 40), (39, 39), (38, 38), (31, 16)] &&
      x.withD (getF op 55 40) 1 fun d =>
        ((x.passTiles i (getF op 39 39)).all fun t => (t.map fun t => widthClass (dF t 1 1) == widthClass (dF d 1 1)).getD true) &&
        (x.passShapes i (getF op 39 39)).all fun sh => (bads (weightDim d sh)).isEmpty && accOk sh (getF op 31 16) (dF d 0x0C 3)
  | 0x12 => onlyF op [(55, 40), (33, 32), (31, 16)] && decide (getF op 33 32 ≤ 2) &&
      x.withD (getF op 55 40) 2 fun d => accOk (getF op 33 32) (getF op 31 16) (dF d 0x0C 3)
  | _ => false

/-! ### Vector engines -/

/-- What a vector record is bound to in one instance (R167): the Tensor profile or not, VLMAX, and a bound on VLEN (R166). -/
structure Bind where
  tensor : Bool
  vlmax  : Nat
  len    : Nat
  deriving DecidableEq, Repr

/-- The binding of an instance of record i to an engine: from the nearest settings before it in program order. -/
def bindAt (x : OpCtx) (eng i : Nat) (it : List Nat) : Bind :=
  let recs := x.prog.recs
  let near := fun (oc : Nat) => (nearest recs (fun r => r.unit == eng + 2 && r.opcode == oc) i it).bind fun q => (recs[q.1]?).map fun r => (r.op, q.2)
  let prof := match near 2 with
    | some q => getF q.1 0 0 == 1
    | none => (startSetting x.im x.prog.core eng).tensor
  match near 1 with
  | none => ⟨prof, 256, 0⟩
  | some q =>
    let v := vlmaxN (BitVec.ofNat 2 (getF q.1 53 52))
    let n := getF q.1 50 40
    ⟨prof, v, match getF q.1 55 54 with
      | 0 => n
      | 1 => min n (getF q.1 23 0 - innerIter q.2 * n)
      | _ => v⟩

/-- The profiles and VLMAX that record i meets, in the first and in later iterations of its loops. -/
def settings (x : OpCtx) (i eng : Nat) : List (Bool × Nat) :=
  ((itersUpTo 2 x.prog.recs i).map fun it => let q := x.bindAt eng i it; (q.tensor, q.vlmax)).eraseDups

/-- Registers of a group of width w (R163). -/
def groupSize (vlmax w : Nat) : Nat := max 1 (vlmax * w / 8192)

def anyVec : List Nat := [0, 1, 2, 3, 4, 8, 9, 10]
def arith : List Nat := [0, 1, 2, 9, 10]

/-- The formats an opcode accepts (R191). -/
def fmtsOf (oc : Nat) : List Nat :=
  if hasN [0x10, 0x40, 0x48, 0x49, 0x4A, 0x4C, 0x4D, 0x51] oc then anyVec
  else if hasN [0x30, 0x31, 0x32, 0x33, 0x34] oc then [9, 10]
  else if oc = 0x5C then [0, 1, 2] else arith

/-- The fields of layout R that an opcode uses, but for its mask fields (R188); CONV where the result is rounded, so not in VMAX, VMIN, VABS and VNEG
(DESIGN CHOICE, log 59). -/
def rFields (oc : Nat) : Option (List (Nat × Nat)) :=
  let fmt := (55, 52)
  let conv := (47, 45)
  let vd := (39, 35)
  let a := (34, 30)
  let b := (29, 25)
  let c := (24, 20)
  if hasN [0x20, 0x21, 0x22, 0x24] oc then some [fmt, conv, vd, a, b]
  else if hasN [0x25, 0x26, 0x30, 0x31, 0x32, 0x33, 0x34, 0x48] oc then some [fmt, vd, a, b]
  else if hasN [0x10, 0x27, 0x28, 0x4C, 0x4D] oc then some [fmt, vd, a]
  else match oc with
    | 0x11 => some [fmt, vd, (19, 0)]
    | 0x23 => some [fmt, conv, vd, a, b, c]
    | 0x38 => some [fmt, (37, 35), a, b, (2, 0)]
    | 0x39 => some [fmt, a, b, (2, 0)]
    | 0x3B => some [(32, 30)]
    | 0x3C => some [(37, 35), (32, 30), (27, 25)]
    | 0x3D => some [(37, 35), (32, 30), (27, 25)]
    | 0x3E => some [(37, 35), (32, 30), (27, 25)]
    | 0x3F => some [(37, 35), (32, 30)]
    | 0x40 => some [fmt, (51, 48), conv, vd, a]
    | 0x49 => some [fmt, vd, a, (9, 0)]
    | 0x4A => some [fmt, vd, a, (9, 0)]
    | 0x50 => some [fmt, conv, vd, a, (1, 0)]
    | 0x51 => some [fmt, a, (9, 0)]
    | 0x58 => some [fmt, conv, vd, a, c, (2, 0), (7, 4)]
    | 0x5C => some [fmt, conv, vd, a, b, c, (7, 4)]
    | _ => none

/-- The groups a Strip instruction touches: base, width, written. -/
def rGroups (oc : Nat) (r : RWord) : List (Nat × Nat × Bool) :=
  let w := fmtWidth r.fmt
  let d := (r.vd, w, true)
  let a := (r.vs1, w, false)
  let b := (r.vs2, w, false)
  if hasN [0x20, 0x21, 0x22, 0x24, 0x25, 0x26, 0x30, 0x31, 0x32, 0x33, 0x34] oc then [d, a, b]
  else if hasN [0x10, 0x27, 0x28, 0x4C, 0x4D, 0x49, 0x4A, 0x50] oc then [d, a]
  else match oc with
    | 0x11 => [d]
    | 0x23 => [d, a, b, (r.vs3, w, false)]
    | 0x38 => [a, b]
    | 0x39 => [a, b]
    | 0x40 => [d, (r.vs1, fmtWidth r.sfmt, false)]
    | 0x48 => [d, a, (r.vs2, 32, false)]
    | 0x51 => [a]
    | 0x58 => [d, a, (r.vs3, 32, true)]
    | 0x5C => [d, a, b, (r.vs3, 32, true)]
    | _ => []

def groupsOk (vlmax : Nat) (gs : List (Nat × Nat × Bool)) : Bool :=
  gs.all fun g => g.1 % groupSize vlmax g.2.1 == 0 && decide (g.1 + groupSize vlmax g.2.1 ≤ 32)

/-- A Strip word's fields (R188). SEGM must be zero where SEG is 0, and a field that an opcode does not use is zero, CONV where the result needs no
rounding (DESIGN CHOICE, log 59). -/
def stripOk (oc vlmax : Nat) (op : Long) : Bool :=
  let r := rWord op
  match rFields oc with
  | none => false
  | some fs =>
    onlyF op (fs ++ if r.m then [(44, 40)] else []) && convOk r.conv && groupsOk vlmax (rGroups oc r) &&
    (hasN [0x3B, 0x3C, 0x3D, 0x3E, 0x3F] oc || hasN (fmtsOf oc) r.fmt) &&
    (match oc with
      | 0x11 => !(r.fmt == 1 || r.fmt == 2) || decide (r.imm < 65536)
      | 0x38 => decide (r.imm ≤ 5)
      | 0x39 => decide (r.imm ≤ 5)
      | 0x40 => hasN anyVec r.sfmt
      | 0x50 => r.imm != 3
      | 0x58 => r.imm % 4 != 3 && (fld r.imm 4 4 == 1 || fld r.imm 7 5 == 0)
      | 0x5C => fld r.imm 4 4 == 1 || fld r.imm 7 5 == 0
      | _ => true)

/-- The sources of layout T that an opcode uses: 0, 1, 2 for TS1 to TS3. -/
def tSources (oc : Nat) : Option (List Nat) :=
  if hasN [0x10, 0x27, 0x28, 0x40] oc then some [0]
  else if hasN [0x20, 0x21, 0x22, 0x24, 0x25, 0x26, 0x30, 0x31, 0x32, 0x33, 0x34] oc then some [0, 1]
  else if oc = 0x23 ∨ oc = 0x5C then some [0, 1, 2] else if oc = 0x58 then some [0, 2] else none

def tField (op : Long) (j : Nat) : Nat := getF op (39 - 12 * j) (28 - 12 * j)
def tScal (op : Long) (j : Nat) : Bool := getF op (53 + j) (53 + j) == 1

/-- The rows of a tensor descriptor. -/
def tensorRuns (d : BitVec 256) : List (Nat × Nat) := (List.range (dF d 5 3)).map fun r => (dF d 8 4 + r * dF d 0x10 4, tensorLen d)

def runsMeet (a b : List (Nat × Nat)) : Bool := a.any fun p => b.any fun q => decide (max p.1 q.1 < min (p.1 + p.2) (q.1 + q.2))

/-- R176: the source coincides exactly with the destination, or does not meet it. -/
def apart (d e : BitVec 256) : Bool :=
  let f := fun (x : BitVec 256) => [dF x 4 1, dF x 8 4, dF x 2 1, dF x 0x10 4, dF x 5 3, dF x 0x0C 3, fmtWidth (dF x 1 1)]
  dF d 4 1 != dF e 4 1 || f d == f e || !runsMeet (tensorRuns d) (tensorRuns e)

/-- R174: a source of the destination's shape, or one row of its columns. -/
def shapeFits (d e : BitVec 256) : Bool := dF d 0x0C 3 == dF e 0x0C 3 && (dF d 5 3 == dF e 5 3 || dF e 5 3 == 1)

/-- R189: the format a source may have beside a destination. -/
def srcFmtOk (oc df sf j : Nat) : Bool :=
  if oc = 0x40 then hasN anyVec sf
  else if (oc = 0x58 ∨ oc = 0x5C) ∧ j = 2 then sf == df || (df ≤ 2 && sf == 0)
  else if hasN [0x20, 0x21, 0x22, 0x23, 0x24, 0x25, 0x26] oc ∧ df ≤ 2 then decide (sf ≤ 2)
  else sf == df

/-- A word of layout T; its destination is a conversion site, so not with a tensor id of the shuffle's (R389). -/
def tensorOk (x : OpCtx) (oc : Nat) (op : Long) : Bool :=
  match tSources oc with
  | none => false
  | some js =>
    onlyF op ((51, 40) :: (js.flatMap fun j => [(53 + j, 53 + j), (39 - 12 * j, 28 - 12 * j)]) ++
      (if oc = 0x58 then [(3, 0)] else if oc = 0x5C then [(3, 3)] else [])) &&
    (oc != 0x58 || getF op 1 0 != 3) &&
    x.withD (getF op 51 40) 4 fun d => tensorIdOk (dF d 0x14 4) && hasN (fmtsOf oc) (dF d 1 1) && js.all fun j =>
      if tScal op j then decide (tField op j < 32)
      else x.withD (tField op j) 4 fun e => shapeFits d e && apart d e && srcFmtOk oc (dF d 1 1) (dF e 1 1) j &&
        (!(hasN [0x58, 0x5C] oc && j == 2) || (getF op 3 3 == 1 && dF e 5 3 == 1))

def vmemOk (x : OpCtx) (oc vlmax : Nat) (op : Long) : Bool :=
  let m := mWord op []
  let load := oc == 8 || oc == 10
  let ix := oc == 10 || oc == 11
  onlyF op ([(55, 52), (51, 47), (41, 37), (31, 18), (17, 4)] ++ (if ix then [(36, 32)] else []) ++
    (if m.m then (46, 46) :: (44, 42) :: (if load then [(45, 45)] else []) else [])) &&
  hasN anyVec m.fmt && x.vatIn m.vat && groupsOk vlmax ((m.vr, fmtWidth m.fmt, load) :: (if ix then [(m.vx, 32, false)] else []))

def setlOk (op : Long) : Bool :=
  let v := vlmaxN (BitVec.ofNat 2 (getF op 53 52))
  let n := getF op 50 40
  getF op 53 52 != 3 &&
  (match getF op 55 54 with
    | 0 => onlyF op [(55, 52), (50, 40)] && decide (n ≤ v)
    | 1 => onlyF op [(55, 52), (50, 40), (23, 0)] && decide (1 ≤ n) && decide (n ≤ v)
    | 2 => onlyF op [(55, 52)]
    | _ => false)

def vectorOk (x : OpCtx) (i : Nat) (r : Rec) : Bool :=
  let oc := r.opcode
  if oc = 2 then onlyF r.op [(0, 0)]
  else (x.settings i (r.unit - 2)).all fun q =>
    if q.1 then x.tensorOk oc r.op
    else if oc = 1 then setlOk r.op
    else if oc = 3 then onlyF r.op [(11, 0)] && x.withD (getF r.op 11 0) 14 fun _ => true
    else if hasN [8, 9, 10, 11] oc then x.vmemOk oc q.2 r.op
    else stripOk oc q.2 r.op

/-! ### Special functions -/

def funcOk (f : Nat) : Bool := (decide (1 ≤ f) && decide (f ≤ 0x12)) || decide (0x80 ≤ f)

def sfuOk (x : OpCtx) (i : Nat) (r : Rec) : Bool :=
  let w := sfWord r.op
  let gate := w.oc == 0x61
  let qs := x.settings i w.eng
  if w.oc = 0x64 then onlyF r.op [(45, 42), (8, 0)] && decide (getF r.op 8 0 < x.im.tables.length)
  else if !hasN [0x60, 0x61, 0x62] w.oc then false
  else
    let common := (55, 55) :: (53, 46) :: (45, 42) :: (if gate then (37, 37) :: (if w.fid then [] else [(41, 38)]) else [])
    funcOk w.func &&
    (w.oc != 0x62 || x.im.rennets.all fun p => !(p.core == x.prog.core && p.pslot == w.slot) || p.func.toNat == w.func) &&
    (if w.tens then
      onlyF r.op (common ++ [(35, 24), (23, 12)] ++ if gate then [(11, 0)] else []) &&
      x.withD w.td 4 fun d => tensorIdOk (dF d 0x14 4) && decide (dF d 1 1 ≤ 4) && (w.ts1 :: if gate then [w.ts2] else []).all fun k =>
        x.withD k 4 fun e => decide (dF e 1 1 ≤ 4) && shapeFits d e && apart d e
    else
      onlyF r.op (common ++ [(54, 54), (36, 36), (31, 27), (26, 22), (16, 13), (12, 9), (8, 6)] ++ (if gate then [(21, 17)] else []) ++
        if w.m then [(35, 32)] else []) &&
      qs.all (fun q => !q.1) && decide (w.fmt ≤ 4) && decide (w.sfmt ≤ 4) && convOk w.conv &&
      qs.all fun q => groupsOk q.2 ((w.vd, fmtWidth w.fmt, true) :: (w.vs1, fmtWidth w.sfmt, false) ::
        if gate then [(w.vs2, fmtWidth w.sfmt, false)] else []))

/-! ### Stream engine -/

/-- A stream side's rows stay in its location for every iteration (R269). -/
def stepIn (loc off step iters rows stride len : Nat) : Bool := rowsIn loc (off + 64 * step * (iters - 1)) rows stride len

def streamOk (x : OpCtx) (i : Nat) (op : Long) : Bool :=
  let n := x.innerMax i
  onlyF op [(55, 44), (39, 20), (19, 4)] && x.withD (getF op 55 44) 3 fun d =>
    stepIn (dF d 3 1) (dF d 0x0E 3) (getF op 19 4) n (dF d 0x11 3) (dF d 0x18 4) (dF d 4 4) &&
    (dF d 1 1 == 0 || stepIn (dF d 2 1) (dF d 8 6) (getF op 39 20) n (dF d 0x11 3) (dF d 0x14 4) (dF d 4 4))

def blockBytes (d : BitVec 256) : Nat := (dF d 2 1 % 128 + 1) * (dF d 3 1 % 16 + 1) * groupBytes (dF d 1 1)
def listWords (d : BitVec 256) : Nat := fld (dF d 3 1) 5 4 + 1

def indexedOk (x : OpCtx) (oc : Nat) (op : Long) : Bool :=
  onlyF op ([(55, 44), (43, 32)] ++ if oc = 0x32 then [(31, 29)] else []) &&
  (oc != 0x32 || (getF op 30 29 != 2 && getF op 30 29 != 3)) &&
  x.withD (getF op 55 44) 6 fun d => x.withD (getF op 43 32) 7 fun l =>
    let n := dF l 4 4
    (if oc = 0x30 then dF d 4 1 != 2 else dF d 4 1 != 1 && decide (dF l 3 1 < 2)) &&
    (oc != 0x32 || hasN [0, 1, 2, 9, 10] (dF d 1 1)) && decide (blockBytes d ≤ dF l 0x14 4) &&
    decide (dF l 8 4 + 4 * n * listWords d ≤ locSize (dF l 1 1)) &&
    decide (dF l 0x10 4 + (n - 1) * dF l 0x14 4 + blockBytes d ≤ mib2)

def ownsetOk (x : OpCtx) (op : Long) : Bool :=
  let pool := getF op 55 55 == 1
  let ix := getF op 54 50
  let o := getF op 49 45
  onlyF op [(55, 55), (54, 50), (49, 45)] && decide (o ≤ 0x14) && (decide (16 ≤ o) || inMask x.im (16 * x.cl + o)) &&
  (if pool then decide (ix < 16) && x.im.owners.any fun w => w.pool && w.cluster == x.cl && w.index == ix
   else x.vatIn ix && inMask x.im (16 * x.cl + ix / 2))

/-- Records of a vat, as a run of bytes. -/
def recRun (off n : Nat) : Nat × Nat := (64 * off, 64 * n)

def rstatOk (x : OpCtx) (op : Long) : Bool :=
  onlyF op [(55, 44), (43, 43), (42, 42), (41, 37), (36, 22), (15, 0)] && x.vatIn (getF op 41 37) &&
  x.withD (getF op 55 44) 4 fun d =>
    let r := recRun (getF op 36 22) (dF d 5 3)
    decide (dF d 1 1 ≤ 4) && decide (getF op 36 22 + dF d 5 3 ≤ 32768) &&
    (dF d 4 1 != getF op 41 37 || !runsMeet (tensorRuns d) [r])

def rsmergeOk (x : OpCtx) (op : Long) : Bool :=
  let n := getF op 15 1 + 1
  getF op 0 0 == 0 && x.vatIn (getF op 55 51) && x.vatIn (getF op 35 31) && decide (getF op 50 36 + n ≤ 32768) &&
  decide (getF op 30 16 + n ≤ 32768) &&
  (getF op 55 51 != getF op 35 31 || !runsMeet [recRun (getF op 50 36) n] [recRun (getF op 30 16) n])

def rsfinOk (x : OpCtx) (op : Long) : Bool :=
  onlyF op [(55, 51), (50, 36), (35, 21), (15, 0)] && x.vatIn (getF op 55 51) && decide (getF op 50 36 + getF op 35 21 + 1 ≤ 32768)

def strmOk (x : OpCtx) (i : Nat) (r : Rec) : Bool :=
  let op := r.op
  match r.opcode with
  | 0x10 => x.streamOk i op
  | 0x11 => x.streamOk i op
  | 0x30 => x.indexedOk 0x30 op
  | 0x31 => x.indexedOk 0x31 op
  | 0x32 => x.indexedOk 0x32 op
  | 0x40 => x.ownsetOk op
  | 0x68 => onlyF op [(55, 50), (49, 49), (47, 36), (31, 0)] && x.withD (getF op 47 36) 10 fun _ => true
  | 0x69 => onlyF op [(55, 50), (47, 36), (31, 0)] && x.withD (getF op 47 36) 10 fun _ => true
  | 0x70 => x.rstatOk op
  | 0x71 => x.rsmergeOk op
  | 0x72 => x.rsfinOk op
  | 0x74 => onlyF op [(55, 44), (43, 43)] && x.withD (getF op 55 44) 11 fun _ => true
  | 0x76 => onlyF op [(55, 44), (43, 40), (39, 36)] && getF op 43 40 != x.part && hasN x.live (getF op 43 40) &&
      x.withD (getF op 55 44) 10 fun _ => true
  | 0x77 => onlyF op [(55, 44), (43, 40), (39, 36)] && getF op 43 40 != x.part && hasN x.live (getF op 43 40) &&
      x.withD (getF op 55 44) 10 fun _ => true
  | 0x78 => onlyF op [(55, 44), (43, 42), (41, 41)] && getF op 43 42 != 3 && (getF op 41 41 == 0 || getF op 43 42 == 1) &&
      x.withD (getF op 55 44) 13 fun _ => true
  | 0x7C => onlyF op [(55, 44)] && x.withD (getF op 55 44) 12 fun _ => true
  | _ => false

/-! ### Copies -/

/-- An endpoint as its descriptor spells it, without its place. -/
def endpOf (d : BitVec 256) : Endp :=
  let o := dF d 5 1
  ⟨dF d 1 1, dF d 2 1, ⟨dF d 3 1 == 0, none, dF d 8 6⟩, [o % 4, fld o 3 2, fld o 5 4], dF d 0x10 4, dF d 0x14 4, dF d 0x18 3,
   dF d 0x1B 3, dF d 0x1E 2 + 1⟩

/-- R255's alignment for G64, R260's bounds on the strides, and R266's alignment for G24. -/
def stridesOk (e : Endp) : Bool :=
  let many := decide (1 < e.n2)
  match e.layout with
  | 0 => e.side.base % 128 == 0 && e.s1 % 128 == 0 && decide ((e.n0 + 63) / 64 * groupBytes e.fmt ≤ e.s1) &&
      (!many || (e.s2 % 128 == 0 && decide (e.n1 * e.s1 ≤ e.s2)))
  | 1 => decide (e.n0 * e.es ≤ e.s1) && (!many || decide (e.n1 * e.s1 ≤ e.s2))
  | _ => decide (e.n1 * 48 ≤ e.s1) && (!many || decide ((e.n0 + 23) / 24 * e.s1 ≤ e.s2)) &&
      e.side.base % 3072 == 0 && e.s1 % 3072 == 0 && e.s2 % 3072 == 0

/-- The span of an endpoint. -/
def spanOf (e : Endp) : Nat × Nat := (e.side.base, spanEnd (e.runs true))

def copyOk (x : OpCtx) (op : Long) : Bool :=
  onlyF op [(55, 44), (43, 32)] && x.withD (getF op 55 44) 5 fun a => x.withD (getF op 43 32) 5 fun b =>
    let s := endpOf a
    let d := (endpOf b).sized s
    let tiers := fun (e : Endp) (slow : Bool) =>
      (e.side.phys x.im.pages 0 (spanEnd (e.runs true))).all fun sp => decide (sp.place = .tier slow)
    let inLoc := fun (e : Endp) (l : Nat) => e.side.virt || decide (e.side.base + spanEnd (e.runs true) ≤ locSize l)
    s.fmt == d.fmt && dF a 5 1 == 0x24 && decide (1 ≤ s.n0 ∧ s.n0 ≤ 1048576 ∧ 1 ≤ s.n1 ∧ s.n1 ≤ 1048576) &&
    dF b 0x18 8 == 0 && stridesOk s && stridesOk d && inLoc s (dF a 4 1) && inLoc d (dF b 4 1) &&
    (isMove s d || !(dF a 3 1 == dF b 3 1 && dF a 4 1 == dF b 4 1 && runsMeet [spanOf s] [spanOf d])) &&
    (!(s.layout == 2 || d.layout == 2) ||
      ((s.fmt == 1 || s.fmt == 2) && ((s.layout == 2 && d.layout == 0) || (s.layout == 0 && d.layout == 2)) && s.side.virt && d.side.virt &&
       ((tiers s true && tiers d false) || (tiers s false && tiers d true)) && s.n0 % 24 == 0 && dF b 5 1 == 0x24))

/-! ### Collectives, shuffles and ingest -/

def collOk (x : OpCtx) (op : Long) (stat : Bool) : Bool :=
  onlyF op [(55, 40), (39, 28), (27, 24), (23, 22), (21, 14)] && getF op 23 22 != 3 && x.withD (getF op 39 28) 8 fun d =>
    match x.im.trees.find? fun t => t.id == getF op 55 40 with
    | none => false
    | some t =>
      let n := t.nodes.length
      let f := dF d 1 1
      let e := dF d 0x14 4
      f == t.fmt && t.rmode.toNat % 4 != 2 && (decide (t.op ≤ 1) || getF op 23 22 == 0) &&
      (if stat then t.op == 0 && e == 0 && getF op 23 22 == 0
       else decide (1 ≤ e) && (!(t.op == 1 || t.op == 3) || e % max n 1 == 0) && f != 5 &&
         !((f == 3 || f == 4) && getF op 23 22 != 0) && (decide (2 ≤ t.op) || f != 8) &&
         (let es := fmtWidth f / 8
          (dF d 2 1 == 0 || decide (dF d 8 6 + e * es ≤ locSize (dF d 3 1))) &&
          (dF d 4 1 == 0 || decide (dF d 0x0E 6 + State.dstElems t.op e n * es ≤ locSize (dF d 5 1)))))

def shufOk (x : OpCtx) (op : Long) : Bool :=
  onlyF op [(39, 28), (27, 24), (21, 14)] && x.withD (getF op 39 28) 9 fun d =>
    decide (((x.im.trees.head?.map fun t => t.nodes.length).getD 0) ≤ dF d 0x18 6)

/-- R375: no two instructions of a program share TREE_ID and CALL in one LSLOT; `seen` are the words before this one. -/
def callFree (op : Long) (seen : List Long) : Bool :=
  seen.all fun q => !(getF q 55 40 == getF op 55 40 && getF q 21 14 == getF op 21 14 && getF q 27 24 == getF op 27 24)

def collUnitOk (x : OpCtx) (r : Rec) : Bool :=
  match r.opcode with
  | 0x50 => x.collOk r.op false
  | 0x51 => x.collOk r.op true
  | 0x52 => x.shufOk r.op
  | _ => false

def ingestOk (x : OpCtx) (r : Rec) : Bool :=
  let op := r.op
  r.opcode == 0x80 && onlyF op [(55, 48), (47, 36), (35, 32), (31, 28), (27, 12)] && decide (getF op 35 32 + getF op 31 28 ≤ 15) &&
  x.withD (getF op 47 36) 10 fun d =>
    match x.im.ingest[getF op 55 48]? with
    | none => false
    | some pr =>
      let nb := getF op 31 28 + 1
      let frames := prF pr 0x38 2
      let fs := prF pr 0x34 4
      let slots := (frames + nb - 1) / nb
      let rec' := 16 * getF op 27 12
      dF d 0x10 8 % (if prF pr 2 1 = 0 then 188 else 192) == 0 && decide (slots * fs ≤ 1048576) &&
      decide (rec' + 16 * (frames + 1) ≤ 1048576) && !runsMeet [(0, slots * fs)] [(rec', 16 * (frames + 1))]

/-! ### Control -/

def controlOk (r : Rec) : Bool :=
  match r.opcode with
  | 1 => onlyF r.op []
  | 2 => (joinWaits r.op).all fun w => w.kind != 3 || (decide (1 ≤ w.id) && decide (w.id ≤ 15))
  | 3 => onlyF r.op [(11, 0)]
  | 4 => onlyF r.op [(55, 32), (31, 31), (30, 30), (15, 0)] && !(getF r.op 31 31 == 1 && getF r.op 30 30 == 1)
  | _ => false

/-- The fields of a record outside its operation word (R107, R108). -/
def recBad (b : List Byte) (r : Rec) : List Nat :=
  bads [(r.off, (waitsOf r.wait).all fun w => w.kind != 3 || (decide (1 ≤ w.id) && decide (w.id ≤ 15))),
    (r.off, (List.range 4).all fun j => getF r.wait (16 * j + 12) (16 * j + 12) == 0),
    (r.off + 8, decide (fld r.produce.toNat 14 12 = 0) && (r.produce.getLsbD 15 || r.produce == 0)), (r.off + 10, le b (r.off + 10) 2 == 0),
    (r.off + 12, decide (r.unit ≤ 8)),
    (r.off + 13, r.ext == 0 || (r.isLoop && getF r.op 31 30 == 0))]

/-- Is the operation word of record i right? An operand taken from the scalar token of wait entry 0 needs a DONE wait there
(R166, R391, R409; DEDUCED, log 16). -/
def opOk (x : OpCtx) (i : Nat) (r : Rec) : Bool :=
  (!r.takesScalar || getF r.wait 15 14 == 1) &&
  match r.unit with
  | 0 => controlOk r
  | 1 => x.arrayOk i r
  | 2 => x.vectorOk i r
  | 3 => x.vectorOk i r
  | 4 => x.sfuOk i r
  | 5 => x.strmOk i r
  | 6 => r.opcode == 0x20 && x.copyOk r.op
  | 7 => x.collUnitOk r
  | 8 => x.ingestOk r
  | _ => true

/-- The offsets at which a program's records are wrong. -/
def progBad (x : OpCtx) (b : List Byte) : List Nat :=
  ((List.range x.prog.recs.length).zip x.prog.recs).flatMap fun q =>
    recBad b q.2 ++ (if x.opOk q.1 q.2 then [] else [q.2.off + 16])

end OpCtx

end Sys2Proof.Machine
end

