-- ==== Sys2Proof/Machine/Order.lean ====
section
/-! DEFINITION. The checks of R118 that look at tokens and extents together: TOKENS (R69, R108, R110, R111, R383), ORDERING
(R78, R79, R139, R165) and CONTROL (R106, R109). An image's step programs are looked at with every loop at its declared
maximum and every predicated block entered (log 16). -/

namespace Sys2Proof.Machine

/-! ### Declared extents (R79, R139, R165) -/

/-- One declared access: a space of storage, the run in it, whether it writes. -/
structure Acc where
  space : Nat × Nat
  lo    : Nat
  len   : Nat
  write : Bool
  deriving DecidableEq, Repr

def Acc.clash (a b : Acc) : Bool :=
  decide (a.space = b.space) && (a.write || b.write) && decide (max a.lo b.lo < min (a.lo + a.len) (b.lo + b.len))

/-- Runs of a space: the spaces are 0 the partition's virtual addresses, 1 a location of a cluster, 2 the vector registers and
3 the masks of an engine, 4 a tile buffer, 5 a core's accumulators. -/
def runAccs (space : Nat × Nat) (base : Nat) (write : Bool) (runs : List (Nat × Nat)) : List Acc :=
  runs.map fun r => ⟨space, base + r.1, r.2, write⟩

namespace OpCtx

def locSp (x : OpCtx) (l : Nat) : Nat × Nat := (1, 256 * x.cl + l)
def sideSp (x : OpCtx) (space loc : Nat) : Nat × Nat := if space = 0 then (0, 0) else x.locSp loc

def groupAccs (x : OpCtx) (eng vlmax : Nat) (gs : List (Nat × Nat × Bool)) : List Acc :=
  gs.map fun g => ⟨(2, 2 * x.prog.core + eng), g.1, groupSize vlmax g.2.1, g.2.2⟩

def maskAcc (x : OpCtx) (eng m : Nat) (write : Bool) : Acc := ⟨(3, 2 * x.prog.core + eng), m, 1, write⟩

/-- A descriptor as it stands, zero where there is none. -/
def rawD (x : OpCtx) (i : Nat) : BitVec 256 := x.im.descs.getD i 0

/-- The iterations of record i up to the declared maximum of each loop around it (R79). -/
def allIters (x : OpCtx) (i : Nat) : List (List Nat) :=
  let ns := ((enclosing x.prog.recs i).filter fun h => h.2.isLoop).map fun h => h.2.maxTrips
  (List.range (prodN ns)).map (digits ns)

/-- Rows of an extent in the given iterations of the innermost loop. -/
def loopRuns (its : List Nat) (step rows stride len : Nat) : List (Nat × Nat) :=
  its.flatMap fun k => (List.range rows).map fun r => (step * k + r * stride, len)

def arrayAccs (x : OpCtx) (i : Nat) (r : Rec) : List Acc :=
  let d := x.rawD (getF r.op 55 40)
  let f := dF d 1 1
  let loc := x.locSp (dF d 4 1)
  let rows := fun (n len : Nat) => (List.range n).map fun k => (k * dF d 0x10 4, len)
  let b := getF r.op 39 39
  let tile := (4, 2 * x.prog.core + b)
  match r.opcode with
  | 0x10 =>
    let dep := shapeD (x.tileShape d) f
    let n := dF d 0x0F 1 + 1
    ⟨tile, 0, 1, true⟩ :: runAccs loc (dF d 8 4) false (rows n (rowBytes f dep)) ++
    (if f = 5 then [⟨loc, dF d 5 3, n * (dep / 32), false⟩] else [])
  | 0x11 =>
    let n := dF d 0x0C 3
    ⟨tile, 0, 1, false⟩ :: (x.passShapes i b).flatMap fun sh =>
      let dep := shapeD sh f
      ⟨(5, x.prog.core), getF r.op 31 16, shapeR sh * n, true⟩ ::
      runAccs loc (dF d 8 4) false (rows n (rowBytes f dep)) ++ (if f = 5 then [⟨loc, dF d 5 3, n * (dep / 32), false⟩] else [])
  | _ =>
    let q := storeShape d
    let rs := shapeR (getF r.op 33 32)
    ⟨(5, x.prog.core), getF r.op 31 16, rs * (dF d 0x0C 3 - 1) + max rs (dF d 0x0F 1 + 1), false⟩ ::
    runAccs loc (dF d 8 4) true (rows q.1 q.2) ++ (if f = 5 then [⟨loc, dF d 5 3, storeScales d, true⟩] else [])

def tensorAccs (x : OpCtx) (i : Nat) (write : Bool) : List Acc :=
  let d := x.rawD i
  runAccs (x.locSp (dF d 4 1)) 0 write (tensorRuns d)

/-- The accesses of a Strip instruction at a VLMAX. -/
def stripAccs (x : OpCtx) (eng i vlmax oc : Nat) (op : Long) (its : List (List Nat)) : List Acc :=
  if hasN [8, 9, 10, 11] oc then
    let m := mWord op []
    let load := oc == 8 || oc == 10
    let ix := oc == 10 || oc == 11
    x.groupAccs eng vlmax ((m.vr, fmtWidth m.fmt, load) :: (if ix then [(m.vx, 32, false)] else [])) ++
    (if m.m then [x.maskAcc eng m.mreg false] else []) ++
    (if ix then [⟨x.locSp m.vat, 0, mib2, !load⟩]
     else runAccs (x.locSp m.vat) m.base (!load) ((its.map fun it =>
       (128 * getF op 17 4 * innerIter it, (x.bindAt eng i it).len * fmtWidth m.fmt / 8)).eraseDups))
  else
    let w := rWord op
    x.groupAccs eng vlmax (rGroups oc w) ++ (if w.m then [x.maskAcc eng w.mreg false] else []) ++
    (match oc with
      | 0x38 => [x.maskAcc eng (w.vd % 8) true]
      | 0x3B => [x.maskAcc eng (w.vs1 % 8) false]
      | 0x3F => [x.maskAcc eng (w.vd % 8) true, x.maskAcc eng (w.vs1 % 8) false]
      | 0x58 => if fld w.imm 4 4 = 1 then [x.maskAcc eng (fld w.imm 7 5) false] else []
      | 0x5C => if fld w.imm 4 4 = 1 then [x.maskAcc eng (fld w.imm 7 5) false] else []
      | _ => if 0x3C ≤ oc ∧ oc ≤ 0x3E then
          [x.maskAcc eng (w.vd % 8) true, x.maskAcc eng (w.vs1 % 8) false, x.maskAcc eng (w.vs2 % 8) false] else [])

def vectorAccs (x : OpCtx) (i : Nat) (r : Rec) (its : List (List Nat)) : List Acc :=
  let eng := r.unit - 2
  let op := r.op
  let oc := r.opcode
  if oc ≤ 3 then []
  else (x.settings i eng).flatMap fun q =>
    if q.1 then
      x.tensorAccs (getF op 51 40) true ++ ((tSources oc).getD []).flatMap fun j =>
        if tScal op j then [⟨(2, 2 * x.prog.core + eng), tField op j % 32, 1, false⟩] else x.tensorAccs (tField op j) false
    else x.stripAccs eng i q.2 oc op its

def sfuAccs (x : OpCtx) (i : Nat) (r : Rec) : List Acc :=
  let w := sfWord r.op
  let gate := w.oc == 0x61
  if w.oc = 0x64 then []
  else if w.tens then
    x.tensorAccs w.td true ++ x.tensorAccs w.ts1 false ++ (if gate then x.tensorAccs w.ts2 false else [])
  else
    ((x.settings i w.eng).flatMap fun q => x.groupAccs w.eng q.2 ((w.vd, fmtWidth w.fmt, true) :: (w.vs1, fmtWidth w.sfmt, false) ::
      if gate then [(w.vs2, fmtWidth w.sfmt, false)] else [])) ++ (if w.m then [x.maskAcc w.eng w.mreg false] else [])

/-- The byte extent of a KIND 10 descriptor. -/
def byteAccs (x : OpCtx) (i : Nat) (write : Bool) : List Acc := [⟨(0, 0), dF (x.rawD i) 8 6, dF (x.rawD i) 0x10 8, write⟩]

def strmAccs (x : OpCtx) (r : Rec) (its : List (List Nat)) : List Acc :=
  let op := r.op
  let oc := r.opcode
  let n := (its.map innerIter).eraseDups
  if oc = 0x10 ∨ oc = 0x11 then
    let d := x.rawD (getF op 55 44)
    let load := oc == 0x10
    runAccs (x.sideSp (dF d 1 1) (dF d 2 1)) (dF d 8 6) (!load) (loopRuns n (64 * getF op 39 20) (dF d 0x11 3) (dF d 0x14 4) (dF d 4 4)) ++
    runAccs (x.locSp (dF d 3 1)) (dF d 0x0E 3) load (loopRuns n (64 * getF op 19 4) (dF d 0x11 3) (dF d 0x18 4) (dF d 4 4))
  else if oc = 0x30 ∨ oc = 0x31 ∨ oc = 0x32 then
    let d := x.rawD (getF op 55 44)
    let l := x.rawD (getF op 43 32)
    let k := dF l 4 4
    let len := (dF d 0x10 3 + 63) / 64 * groupBytes (dF d 1 1)
    let n1 := dF d 0x13 3
    runAccs (x.sideSp (dF d 5 1) (dF d 6 1)) (dF d 8 6) (oc != 0x30)
      ((List.range ((dF d 0x16 2 + 1) * n1)).map fun q => (q / n1 * dF d 0x1C 4 + q % n1 * dF d 0x18 4, len)) ++
    runAccs (x.locSp (dF l 2 1)) (dF l 0x10 4) (oc == 0x30) ((List.range k).map fun j => (j * dF l 0x14 4, blockBytes d)) ++
    [⟨x.locSp (dF l 1 1), dF l 8 4, 4 * k * listWords d, false⟩] ++
    (if dF l 3 1 % 2 = 1 then [⟨x.locSp (dF l 1 1), dF l 0x0C 4, (k + 7) / 8, false⟩] else [])
  else match oc with
    | 0x40 => [⟨x.locSp (if getF op 55 55 = 1 then 64 + getF op 54 50 else getF op 54 50), 0, mib2, true⟩]
    | 0x68 => x.byteAccs (getF op 47 36) true
    | 0x69 => x.byteAccs (getF op 47 36) false
    | 0x70 =>
      let d := x.rawD (getF op 55 44)
      let q := recRun (getF op 36 22) (dF d 5 3)
      ⟨x.locSp (getF op 41 37), q.1, q.2, true⟩ :: x.tensorAccs (getF op 55 44) false
    | 0x71 =>
      let k := getF op 15 1 + 1
      let a := recRun (getF op 50 36) k
      let b := recRun (getF op 30 16) k
      [⟨x.locSp (getF op 55 51), a.1, a.2, true⟩, ⟨x.locSp (getF op 35 31), b.1, b.2, true⟩]
    | 0x72 =>
      let a := recRun (getF op 50 36) (getF op 35 21 + 1)
      [⟨x.locSp (getF op 55 51), a.1, a.2, true⟩]
    | 0x74 =>
      let d := x.rawD (getF op 55 44)
      ⟨(0, 0), dF d 0x10 6, 32, true⟩ :: (if getF op 43 43 = 1 then [⟨(0, 0), dF d 8 6, 64, false⟩] else [])
    | 0x76 => x.byteAccs (getF op 55 44) false
    | 0x77 => x.byteAccs (getF op 55 44) true
    | 0x78 => let d := x.rawD (getF op 55 44)
              [⟨(0, 0), dF d 8 6, dF d 0x10 8, false⟩]
    | 0x7C =>
      let d := x.rawD (getF op 55 44)
      [⟨(0, 0), dF d 8 6, 64, true⟩, ⟨(0, 0), dF d 8 6 + 64, 32 * dF d 1 1, false⟩, ⟨(0, 0), dF d 0x10 6, 65536 * dF d 0x18 4, true⟩] ++
      (x.im.ferry.get [] (getF op 55 44)).map fun g => ⟨(0, 0), g.1, g.2, false⟩
    | _ => []

def copyAccs (x : OpCtx) (r : Rec) : List Acc :=
  let a := x.rawD (getF r.op 55 44)
  let b := x.rawD (getF r.op 43 32)
  let s := endpOf a
  let d := (endpOf b).sized s
  runAccs (x.sideSp (dF a 3 1) (dF a 4 1)) s.side.base false (s.runs (isMove s d)) ++
  runAccs (x.sideSp (dF b 3 1) (dF b 4 1)) d.side.base true (d.runs true)

def collAccs (x : OpCtx) (r : Rec) : List Acc :=
  let d := x.rawD (getF r.op 39 28)
  if r.opcode = 0x52 then
    let sh := (x.im.trees.head?.map fun t => t.nodes.length).getD 1
    let n := (dF d 0x18 6 + sh - 1) / sh * dF d 4 4 * 128
    [⟨(0, 0), dF d 8 6, n, false⟩, ⟨(0, 0), dF d 0x10 6, n, true⟩]
  else
    let t := x.im.trees.find? fun t => t.id == getF r.op 55 40
    let es := fmtWidth (dF d 1 1) / 8
    let e := dF d 0x14 4
    let out := (t.map fun t => State.dstElems t.op e t.nodes.length).getD e
    (if e = 0 then [] else [⟨x.sideSp (dF d 2 1) (dF d 3 1), dF d 8 6, e * es, false⟩, ⟨x.sideSp (dF d 4 1) (dF d 5 1), dF d 0x0E 6, out * es, true⟩]) ++
    [⟨(0, 0), dF d 0x18 6, 64, true⟩]

def ingestAccs (x : OpCtx) (r : Rec) : List Acc :=
  let pr := x.im.ingest.getD (getF r.op 55 48) 0
  let nb := getF r.op 31 28 + 1
  let slots := (prF pr 0x38 2 + nb - 1) / nb
  x.byteAccs (getF r.op 47 36) false ++ [⟨x.locSp (64 + getF r.op 35 32), 16 * getF r.op 27 12, 16 * (prF pr 0x38 2 + 1), true⟩] ++
  (List.range nb).map fun k => ⟨x.locSp (64 + getF r.op 35 32 + k), 0, slots * prF pr 0x34 4, true⟩

/-- The accesses of record i in the given iterations. -/
def accs (x : OpCtx) (i : Nat) (r : Rec) (its : List (List Nat)) : List Acc :=
  match r.unit with
  | 0 => []
  | 1 => x.arrayAccs i r
  | 2 => x.vectorAccs i r its
  | 3 => x.vectorAccs i r its
  | 4 => x.sfuAccs i r
  | 5 => x.strmAccs r its
  | 6 => x.copyAccs r
  | 7 => x.collAccs r
  | 8 => x.ingestAccs r
  | _ => []

end OpCtx

/-! ### Instances and token paths (R65, R66) -/

/-- One instance of a record: its core, its index, the iterations of its loops. -/
structure Node' where
  core  : Nat
  recIx : Nat
  iters : List Nat
  deriving DecidableEq, Repr

/-- What the checks read of a partition: its image and number, and the program. -/
structure StepCtx where
  im      : PartImg
  program : Nat
  deriving DecidableEq, Repr

namespace StepCtx

def recs (y : StepCtx) (core : Nat) : List Rec := ((y.im.prog y.program core).map (·.recs)).getD []

/-- The cores of the partition, ascending. -/
def cores (y : StepCtx) : List Nat := (List.range 128).filter (inMask y.im)

/-- The trips of the loops around a record, outermost first. -/
def loops (y : StepCtx) (core i : Nat) : List Nat := (loopsOf (y.recs core) i).map (·.2)

/-- The instances of a record. -/
def instances (y : StepCtx) (core i : Nat) : List Node' :=
  let ns := y.loops core i
  (List.range (prodN ns)).map fun k => ⟨core, i, digits ns k⟩

/-- The record that a wait's token comes from: its core and index (R108, R110). -/
def source (y : StepCtx) (core : Nat) (w : Wait) : Option (Nat × Nat) :=
  match producerOf (y.recs core) w.id with
  | some i => some (core, i)
  | none =>
    match y.im.routes.find? fun (t : Route) => t.program == y.program && t.destId == w.id && hasN t.dests core && decide (t.kind.toNat = w.kind) with
    | none => none
    | some t => (producerOf (y.recs t.src) t.id).map fun i => (t.src, i)

/-- The iterations a wait names of a producer inside loops of the given trip counts (R66); none where it is met at once. -/
def namedIters (ns j : List Nat) (prev : Bool) : Option (List Nat) :=
  let m := min ns.length j.length
  if prev && decide (0 < m) && j.getD (m - 1) 0 == 0 then none
  else
    let it := (List.range ns.length).map fun l =>
      if l + 1 ≤ m then j.getD l 0 - (if prev && l + 1 == m then 1 else 0) else ns.getD l 1 - 1
    if (it.zip ns).all fun q => decide (q.1 < q.2) then some it else none

/-- The instances that an instance waits on, each with whether it waits on the bind token. -/
def preds (y : StepCtx) (n : Node') : List (Node' × Bool) :=
  match (y.recs n.core)[n.recIx]? with
  | none => []
  | some r =>
    let ws := waitsOf r.wait ++ (if r.unit = 0 ∧ r.opcode = 2 then joinWaits r.op else [])
    ws.filterMap fun w =>
      if w.kind = 1 ∨ w.kind = 2 then
        (y.source n.core w).bind fun q => (namedIters (y.loops q.1 q.2) n.iters w.prev).map fun it => (⟨q.1, q.2, it⟩, w.kind == 2)
      else none

/-- The smallest k of an instance's barrier waits (R108). -/
def barrierK (y : StepCtx) (n : Node') : Option Nat :=
  match (y.recs n.core)[n.recIx]? with
  | none => none
  | some r =>
    let ws := waitsOf r.wait ++ (if r.unit = 0 ∧ r.opcode = 2 then joinWaits r.op else [])
    ((ws.filter fun w => w.kind == 3).map (·.id)).min?

/-- The tokens that instances wait on, directly or through a chain: producer, and whether it is the bind token. -/
def trail (y : StepCtx) : Nat → List (Node' × Bool) → List Node' → List (Node' × Bool)
  | 0, seen, _ => seen
  | fuel + 1, seen, front =>
    let new := ((front.flatMap y.preds).eraseDups).filter fun q => !seen.any fun r => decide (r = q)
    if new.isEmpty then seen else trail y fuel (seen ++ new) ((new.map (·.1)).eraseDups)

/-- The number of instances of the program. -/
def size (y : StepCtx) : Nat := sumN (y.cores.map fun c => sumN ((List.range (y.recs c).length).map fun i => (y.instances c i).length))

/-- Every token behind an instance. -/
def behindOf (y : StepCtx) (n : Node') : List (Node' × Bool) := y.trail (2 * y.size) [] [n]

/-- The smallest k of the barriers an instance waits on, directly or through a chain. -/
def barrier (y : StepCtx) (n : Node') (behind : List (Node' × Bool)) : Option Nat :=
  ((n :: behind.map (·.1)).filterMap y.barrierK).min?

/-- The place of an instance in its core's program order. -/
def key (y : StepCtx) (n : Node') : List Nat := progKey (y.recs n.core) n.recIx n.iters

end StepCtx

/-! ### ORDERING (R78) -/

/-- An instance with its own accesses, the tokens behind it and the nearest barrier among them. -/
structure Occur where
  node    : Node'
  accs    : List Acc
  behind  : List (Node' × Bool)
  barrier : Option Nat
  deriving DecidableEq, Repr

/-- Does a path lead to the instance from a's done token or, for an access that only reads, its bind token? -/
def Occur.follows (n : Occur) (a : Node') (bindToo : Bool) : Bool := n.behind.any fun q => decide (q.1 = a) && (!q.2 || bindToo)

/-- A record of a partition's programs with its declared accesses, of every iteration (R79), and its instances. -/
structure RecAt where
  program : Nat
  core    : Nat
  recIx   : Nat
  rec'    : Rec
  accs    : List Acc
  insts   : List Occur
  deriving DecidableEq, Repr

/-- Two records clash where some of their accesses do; the clash is with a write of the first. -/
def clashes (a b : List Acc) : List (Bool × Bool) :=
  a.flatMap fun x => (b.filter fun y => x.clash y).map fun y => (x.write, y.write)

namespace PartImg

/-- The context of a program of the partition for its operation words. -/
def opCtx (im : PartImg) (part : Nat) (minCores live : List Nat) (g : Prog) : OpCtx := ⟨im, part, minCores, live, g⟩

def recsAt (im : PartImg) (part : Nat) (minCores live : List Nat) : List RecAt :=
  im.progs.flatMap fun g =>
    let x := im.opCtx part minCores live g
    let y : StepCtx := ⟨im, g.program⟩
    ((List.range g.recs.length).zip g.recs).map fun q => ⟨g.program, g.core, q.1, q.2, x.accs q.1 q.2 (x.allIters q.1),
      (y.instances g.core q.1).map fun n => let b := y.behindOf n; ⟨n, x.accs q.1 q.2 [n.iters], b, y.barrier n b⟩⟩

/-- Does a path join two instances where the given accesses clash? -/
def linked (cl : List (Bool × Bool)) (m n : Occur) : Bool :=
  n.follows m.node (cl.all fun q => !q.1) || m.follows n.node (cl.all fun q => !q.2)

/-- Are two records of one step joined by token paths (R78)? Where their declared extents clash, over all iterations (R79), a path joins
them, and a path of its own, PREV waits included, joins every two instances whose own extents clash (log 16). -/
def joined (a b : RecAt) : Bool :=
  let cl := clashes a.accs b.accs
  cl.isEmpty || a.insts.isEmpty || b.insts.isEmpty ||
    ((decide (a.core = b.core ∧ a.recIx = b.recIx) || a.insts.any fun m => b.insts.any fun n => linked cl m n) &&
      a.insts.all fun m => b.insts.all fun n =>
        decide (m.node = n.node) || (let own := clashes m.accs n.accs; own.isEmpty || linked own m n))

/-- Does a schedule run program q d steps after program p? -/
def follows (im : PartImg) (p q d : Nat) : Bool :=
  let n := im.schedule.length
  (List.range n).any fun t => im.schedule.getD t 0 == p && im.schedule.getD ((t + d) % n) 0 == q

/-- Is the later record ordered behind the earlier step's in every step distance at which the schedule runs them (R78)? -/
def ordered (im : PartImg) (a b : RecAt) : Bool :=
  (clashes a.accs b.accs).isEmpty || b.insts.all fun n =>
    let k := n.barrier.getD 1000
    (clashes a.accs n.accs).isEmpty || (List.range (im.schedule.length + 15)).all fun d => !im.follows a.program b.program (d + 1) || decide (k ≤ d + 1)

/-- Does the done token of the MLOAD that an MPASS takes its tile from reach it, at every place of the schedule: along a path of its
own step, or through a barrier no later than the MLOAD's step (R139)? -/
def loadReaches (im : PartImg) (a : RecAt) : Bool :=
  let recs := StepCtx.recs ⟨im, a.program⟩ a.core
  ((List.range im.schedule.length).filter fun t => im.schedule.getD t 0 == a.program).all fun t => a.insts.all fun n =>
    match im.loadBefore a.core recs t a.recIx n.node.iters (getF a.rec'.op 39 39) with
    | none => true
    | some (0, r, it) => n.behind.any fun q => q.1.core == a.core && ((recs[q.1.recIx]?).map (·.off)) == some r.off && q.1.iters == it && !q.2
    | some (d, _, _) => decide (n.barrier.getD 1000 ≤ d)

/-- ORDERING (R78, R139): the higher offset of each pair that lacks a path. -/
def orderBad (im : PartImg) (part : Nat) (minCores live : List Nat) : List Nat :=
  let rs := im.recsAt part minCores live
  (rs.flatMap fun a => rs.filterMap fun b =>
    if (a.program == b.program && !joined a b) || !im.ordered a b then some (max a.rec'.off b.rec'.off) else none) ++
  rs.filterMap fun a => if a.rec'.unit = 1 ∧ a.rec'.opcode = 0x11 ∧ im.loadReaches a = false then some a.rec'.off else none

/-! ### TOKENS (R69, R108, R110, R111, R383) -/

/-- Does a record make a bind token (R64)? -/
def bindsToken (r : Rec) : Bool :=
  (r.unit == 5 && hasN [0x10, 0x11, 0x30, 0x31, 0x32, 0x69, 0x76, 0x78, 0x7C] r.opcode) || r.unit == 6 ||
  (r.unit == 7 && hasN [0x50, 0x52] r.opcode)

/-- The waits of instances on another core's tokens, as pairs (producer, waiter). -/
def edges (im : PartImg) (program : Nat) : List (Node' × Node') :=
  let y : StepCtx := ⟨im, program⟩
  y.cores.flatMap fun c => (List.range (y.recs c).length).flatMap fun i => (y.instances c i).flatMap fun n =>
    ((y.preds n).filter fun p => p.1.core != c).map fun p => (p.1, n)

/-- Does instance n stand at or before m in the program order of their core? -/
def upTo (im : PartImg) (program : Nat) (n m : Node') : Bool :=
  let y : StepCtx := ⟨im, program⟩
  n.core == m.core && !keyBefore (y.key m) (y.key n)

/-- The waiters that instances lead to: along program order to a producer at or after them, from there to its waiter. -/
def reachFrom (im : PartImg) (program : Nat) (es : List (Node' × Node')) : Nat → List Node' → List Node' → List Node'
  | 0, seen, _ => seen
  | fuel + 1, seen, front =>
    let new := ((front.flatMap fun n => (es.filter fun e => im.upTo program n e.1).map (·.2)).eraseDups).filter fun n =>
      !seen.any fun q => decide (q = n)
    if new.isEmpty then seen else reachFrom im program es fuel (seen ++ new) new

/-- Does a wait lie on a cycle of token routes and program order (R69)? -/
def onCycle (im : PartImg) (program : Nat) (es : List (Node' × Node')) (e : Node' × Node') : Bool :=
  (im.reachFrom program es es.length [e.2] [e.2]).any fun n => im.upTo program n e.1

/-- The waits of one record that are wrong. -/
def waitBad (im : PartImg) (program c i : Nat) (r : Rec) : Bool :=
  let y : StepCtx := ⟨im, program⟩
  let ws := (waitsOf r.wait ++ (if r.unit = 0 ∧ r.opcode = 2 then joinWaits r.op else [])).filter fun w => w.kind == 1 || w.kind == 2
  (waitsOf r.wait).any (fun w => w.kind == 3 && w.prev) || ws.any fun w =>
    match y.source c w with
    | none => true
    | some p =>
      let m := min (y.loops p.1 p.2).length (y.loops c i).length
      let head := fun (k : Nat) => (((enclosing (y.recs c) k).filter fun h => h.2.isLoop).map (·.1))[m - 1]?
      (w.prev && m == 0) || (p.1 == c && decide (i ≤ p.2) && !(w.prev && head i == head p.2)) ||
      (w.kind == 2 && !(((y.recs p.1)[p.2]?).map bindsToken).getD false)

/-- A COLL_STAT waits, directly or through a chain, on the barrier of the step before (R383). -/
def statBad (im : PartImg) (program c i : Nat) (r : Rec) : Bool :=
  let y : StepCtx := ⟨im, program⟩
  r.unit == 7 && r.opcode == 0x51 && (y.instances c i).any fun n => y.barrier n (y.behindOf n) != some 1

def progTokensBad (im : PartImg) (g : Prog) : List Nat :=
  let es := im.edges g.program
  ((List.range g.recs.length).zip g.recs).filterMap fun q =>
    let twice := decide (q.2.produce.toNat ≥ 0x8000) && producerOf g.recs (q.2.produce.toNat % 4096) != some q.1
    let routed := decide (q.2.produce.toNat ≥ 0x8000) && im.routes.any fun t =>
      t.program == g.program && t.destId == q.2.produce.toNat % 4096 && hasN t.dests g.core
    let loop' := es.any fun e => e.2.core == g.core && e.2.recIx == q.1 && im.onCycle g.program es e
    if im.waitBad g.program g.core q.1 q.2 || im.statBad g.program g.core q.1 q.2 || twice || routed || loop' then some q.2.off else none

/-- A token route with no producer, no such core, an arrival that another route also makes (R108, R110), or with the routes before it
more than 16 cores for its token (R65). -/
def routeBad (im : PartImg) (t : Route) (others : List Route) : Bool :=
  !inMask im t.src || (producerOf (StepCtx.recs ⟨im, t.program⟩ t.src) t.id).isNone || !t.dests.all (inMask im) || hasN t.dests t.src ||
  (others.any fun u => u.program == t.program && u.destId == t.destId && decide (u.kind = t.kind) && t.dests.any fun d => hasN u.dests d) ||
  decide (16 < (((t :: others).filter fun u => u.program == t.program && u.src == t.src && u.id == t.id && decide (u.kind = t.kind)).flatMap
    (·.dests)).eraseDups.length)

/-- R111: every program of the schedule has a section on every core. -/
def scheduleBad (im : PartImg) : List Nat :=
  (List.range im.schedule.length).filter fun i => (StepCtx.cores ⟨im, 0⟩).any fun c => (im.prog (im.schedule.getD i 0) c).isNone

/-! ### CONTROL (R106, R109) -/

/-- Does a body or block end inside every body or block around it? -/
def bodyIn (recs : List Rec) (i : Nat) (r : Rec) : Bool :=
  let last := i + r.bodyLen
  decide (last + 1 < recs.length) && (enclosing recs i).all fun h => decide (last ≤ h.1 + h.2.bodyLen)

/-- Does a record produce a scalar token (R64, R430)? -/
def makesScalar (r : Rec) : Bool :=
  ((r.unit == 2 || r.unit == 3) && hasN [0x39, 0x3B, 0x51] r.opcode) || (r.unit == 5 && r.opcode == 0x74)

/-- Is wait entry 0 of a record a DONE wait on a scalar token (R109)? -/
def scalarWait (im : PartImg) (g : Prog) (r : Rec) : Bool :=
  let w := waitOf (getF r.wait 15 0)
  let y : StepCtx := ⟨im, g.program⟩
  w.kind == 1 && (match y.source g.core w with
    | some p => (((y.recs p.1)[p.2]?).map makesScalar).getD false
    | none => false)

def controlBad (im : PartImg) (g : Prog) : List Nat :=
  let n := g.recs.length
  ((List.range n).zip g.recs).filterMap fun q =>
    let fin := q.2.unit == 0 && q.2.opcode == 1
    let scal := q.2.isPred || (q.2.isLoop && getF q.2.op 31 31 == 1) || q.2.takesScalar
    if fin != (q.1 + 1 == n) || (fin && q.2.wait != 0) || (decide (0 < q.2.bodyLen) && !bodyIn g.recs q.1 q.2) ||
        (q.2.isLoop && decide (4 < loopDepth g.recs q.1 + 1)) || (scal && !im.scalarWait g q.2)
      then some q.2.off else none

end PartImg

end Sys2Proof.Machine
end

