-- ==== Sys2Proof/Machine/Validate.lean ====
section
/-! DEFINITION. The validation of an image (R118): its checks in their order, each the lowest image offset at which it finds an
error. -/

namespace Sys2Proof.Machine

/-- The offset of the first byte of a run that is not zero. -/
def notZero (b : List Byte) (o n : Nat) : List Nat :=
  match ((b.drop o).take n).findIdx? fun x => x != 0 with
  | none => []
  | some i => [o + i]

/-! ### 1 to 3: the header (R95) -/

/-- Checks 1 to 3 (R95). A full image has SCOPE 0 whole, its PART bits too; DETAIL of a byte that is not zero in the reserved field at 0x2C is that
field's offset, and in the 72 bytes from 0x38 the byte's own (DESIGN CHOICE, logs 16 and 50: R118 asks for the offset of the lowest byte in
error of a byte run and of a field for the rest, and does not say which of the two 0x2C is). -/
def headerBad (b : List Byte) (len : Nat) : List Nat :=
  let n := le b 8 8
  let sig := le b 0x10 8
  let scope := le b 7 1
  bads [(0, le b 0 4 == 0x4D494E47), (7, decide (scope / 128 = 1) || scope == 0), (7, fld scope 6 4 == 0),
    (8, n == len && n == sig + sigLen), (0x10, sig % 64 == 0 && decide (0x80 + 16 * le b 0x20 4 ≤ sig)), (0x20, decide (1 ≤ le b 0x20 4) && decide (le b 0x20 4 ≤ 512)), (0x2C, le b 0x2C 4 == 0)] ++ notZero b 0x38 72

/-! ### 6: DIRECTORY (R96, R97) -/

def partType (t : Nat) : Bool := decide (2 ≤ t) && decide (t ≤ 0x10)

/-- Entry sizes, and bytes of the header, of the sections with fixed entries. -/
def entrySize : Nat → Option (Nat × Nat)
  | 1 => some (0, 64) | 2 => some (0, 16) | 3 => some (0, 8) | 4 => some (0, 4) | 5 => some (0, 4) | 8 => some (0, 32)
  | 9 => some (32, 24) | 0x0A => some (0, 32) | 0x0B => some (0, 2) | 0x0C => some (0, 16) | 0x0E => some (0, 8) | 0x0F => some (0, 8)
  | 0x10 => some (0, 64) | _ => none

def treesLen (b : List Byte) (x : Sect) : Nat := sumN ((treeOffs b x.count x.off).map fun o => 32 + 8 * le b (o + 4) 4)

/-- LENGTH agrees with COUNT where the check is DIRECTORY's (R96). -/
def lengthOk (b : List Byte) (x : Sect) : Bool :=
  match entrySize x.type with
  | some (h, n) => x.len == h + n * x.count && (x.type != 9 || le b (x.off + 4) 4 == x.count)
  | none => if x.type = 0x0D then x.len == treesLen b x else true

/-- The sections that a partition must have exactly once, and those it may have at most once. -/
def onceTypes : List Nat := [2, 3, 0x0B, 0x0E]
def mayTypes : List Nat := [4, 5, 8, 0x0A, 0x0C, 0x0D, 0x0F, 0x10]

/-- The partitions that an image's map names. -/
def mapParts (b : List Byte) (dir : List Sect) : List Nat := (partOffs b dir).map fun o => le b o 1

/-- The core that a CULTURE_TABLE section names for INIT, cluster and core byte apart (R223). -/
def tableCore (b : List Byte) (x : Sect) : Option (Nat × Nat) :=
  if le b (x.off + 7) 1 % 2 = 1 then some (le b (x.off + 8) 1, le b (x.off + 9) 1) else none

/-- Has a culture table at most 15 others before it that name its core (R97)? A table names one where INIT is set (log 50). -/
def tableFits (b : List Byte) (dir : List Sect) (x : Sect) : Bool :=
  (tableCore b x).isNone ||
    decide (((sectsOf dir 6 x.part).filter fun y => decide (y.entry < x.entry) && tableCore b y == tableCore b x).length < 16)

def dirBad (b : List Byte) : List Nat :=
  let dir := dirOf b
  let sig := le b 0x10 8
  let lo := 0x80 + 16 * dir.length
  let pairs := dir.zip (dir.drop 1)
  let parts := mapParts b dir
  let count := fun (t p : Nat) => (sectsOf dir t p).length
  let each := dir.flatMap fun x => bads
    [(x.entry, x.type == 1 || partType x.type), (x.entry + 2, if x.type = 1 then x.part == 0xFF else hasN parts x.part && decide (x.part < 16)),
     (x.entry + 3, le b (x.entry + 3) 1 == 0), (x.entry + 4, x.off % 64 == 0 && decide (lo ≤ x.off) && decide (x.off + x.len ≤ sig)),
     (x.entry + 8, lengthOk b x),
     (x.entry, !(hasN (onceTypes ++ mayTypes) x.type) || (sectsOf dir x.type x.part).head? == some x),
     (x.entry, x.type != 6 || tableFits b dir x),
     (x.entry, x.type != 1 || (dir.filter fun y => y.type == 1).head? == some x),
     (x.entry, x.type != 9 || ((sectsOf dir 9 x.part).filter fun y => le b y.off 4 == le b x.off 4).head? == some x)]
  let gaps := pairs.flatMap fun q =>
    (if q.2.off < q.1.off + q.1.len then [q.2.entry] else []) ++ notZero b (q.1.off + q.1.len) (q.2.off - (q.1.off + q.1.len))
  let ends := (match dir.head? with | some x => notZero b lo (x.off - lo) | none => []) ++
    (match dir.getLast? with | some x => notZero b (x.off + x.len) (sig - (x.off + x.len)) | none => [])
  let missing := (if (dir.any fun x => x.type == 1) then [] else [0x80]) ++
    ((partOffs b dir).zip parts).flatMap fun q => if onceTypes.all fun t => count t q.2 == 1 then [] else [q.1]
  each ++ gaps ++ ends ++ missing

/-! ### 7: TABLE (R116, R223, R224, R227, R228) -/

def up64 (n : Nat) : Nat := (n + 63) / 64 * 64

def ascending : List Nat → Bool
  | a :: b :: t => decide (a < b) && ascending (b :: t)
  | _ => true

/-- FP32 patterns in the order of their values, for finite ones. -/
def orderKey (w : Word) : Nat := if w.getLsbD 31 then 0x80000000 - fld w.toNat 30 0 else 0x80000000 + w.toNat

def finiteW (w : Word) : Bool := finite32 w.toNat
def isPoison32 (w : Word) : Bool := w == 0xFFC00001#32

/-- A table's own rules (R223, R224); `inPart` says which cores are the partition's. -/
def tableOk (b : List Byte) (x : Sect) (t : Table) (inPart : Nat → Bool) : Bool :=
  let o := x.off
  let n := le b (o + 0x0C) 2
  let m := le b (o + 0x0E) 2
  let data := 64 + 16 * n + 8 * m
  let breaks := t.segs.map (·.1)
  le b o 4 == 0x544C5543 && x.count == 1 && le b (o + 4) 1 == 1 && decide (1 ≤ n ∧ n ≤ 1024 ∧ m ≤ 256) && x.len == up64 data + sigLen &&
  (notZero b (o + data) (up64 data - data)).isEmpty && (notZero b (o + 0x2E) 18).isEmpty && decide (le b (o + 7) 1 ≤ 1) &&
  decide (t.slot < 16) && decide (t.interp.toNat ≤ 1) && decide (t.accuracy.toNat ≤ 1) && decide (t.edge.toNat < 4) &&
  (t.accuracy == 1 || le b (o + 0x2D) 1 == 0) &&
  breaks.all finiteW && finiteW t.highBreak && (t.excs.all fun e => finiteW e.1) && ascending (breaks.map orderKey) &&
  decide (orderKey (breaks.getLast?.getD 0) < orderKey t.highBreak) && ascending (t.excs.map fun e => orderKey e.1) &&
  !([t.zeroPos, t.zeroNeg, t.posInf, t.negInf, t.low, t.high] ++ t.excs.map (·.2)).any isPoison32 &&
  (t.interp != 0 || t.segs.all fun q => q.2.2.2 == 0) && (!t.init || (decide (le b (o + 9) 1 < 16) && inPart t.core))

/-- A rennet step's OP and ARG (R228). -/
def rstepOk (b : List Byte) (o : Nat) : Bool :=
  let arg := le b (o + 4) 2
  le b (o + 6) 2 == 0 && ((List.range 3).all fun i => decide (le b (o + 1 + i) 1 < 4)) &&
  (match le b o 1 with
    | 1 => decide (arg + 2 ≤ 15)
    | 2 => decide (arg < 16)
    | 3 => decide (arg < 64) && fld arg 5 4 != 3 && decide (arg % 16 + fld arg 5 4 + 1 ≤ 15)
    | 4 => arg == 0
    | 5 => decide (arg < 4)
    | 6 => decide (arg < 16)
    | _ => false)

def rennetOk (b : List Byte) (x : Sect) (inPart : Nat → Bool) : Bool :=
  let o := x.off
  let n := le b (o + 9) 1
  let data := 0x60 + 8 * n
  le b o 4 == 0x4E4E4552 && x.count == 1 && le b (o + 4) 1 == 1 && decide (le b (o + 6) 1 < 16) && decide (1 ≤ n ∧ n ≤ 16) &&
  x.len == up64 data + sigLen && (notZero b (o + data) (up64 data - data)).isEmpty && (notZero b (o + 10) 22).isEmpty &&
  decide (le b (o + 8) 1 < 16) && inPart (16 * le b (o + 7) 1 + le b (o + 8) 1) && (List.range n).all fun i => rstepOk b (o + 0x60 + 8 * i)

def tablesBad (s : State) (b : List Byte) (img : Image) : List Nat :=
  let dir := dirOf b
  img.parts.flatMap fun pi =>
    let inPart := inMask pi.2
    let ts := (sectsOf dir 6 pi.1).zip pi.2.tables
    let signed' := fun (x : Sect) =>
      s.tableVerifies ((b.drop x.off).take (x.len - sigLen)) ((b.drop (x.off + x.len - sigLen)).take sigLen)
    (ts.filterMap fun q =>
      let twice := q.2.init && (ts.take q.2.index).any fun r => r.2.init && r.2.core == q.2.core && r.2.slot == q.2.slot
      if tableOk b q.1 q.2 inPart && signed' q.1 && !twice then none else some q.1.off) ++
    (sectsOf dir 7 pi.1).filterMap fun x => if rennetOk b x inPart && signed' x then none else some x.off

/-! ### 8: FIELD -/

def inR (b : List Byte) (o n lo hi : Nat) : Nat × Bool := (o, decide (lo ≤ le b o n) && decide (le b o n ≤ hi))
def zeroB (b : List Byte) (o n : Nat) : Nat × Bool := (o, (notZero b o n).isEmpty)

/-- The fields of the partition map (R98, R99). An energy share above 1,000 and a sluice share or cap above 1,024 are out of range
(DESIGN CHOICE, log 50: the spec gives the units and bounds the sums). -/
def mapBad (b : List Byte) (dir : List Sect) : List Nat :=
  let m := mapOff dir
  let n := ((dir.find? fun x => x.type == 1).map (·.count)).getD 0
  bads [inR b m 2 1 16, (m, le b m 2 + 1 == n), inR b (m + 2) 2 20 200, inR b (m + 4) 2 0 1024, inR b (m + 6) 2 0 1024, inR b (m + 8) 4 0 768,
    zeroB b (m + 0x0C) 52] ++
  (partOffs b dir).flatMap fun o => bads [(o, decide (le b o 1 < 16) && ((partOffs b dir).find? fun q => le b q 1 == le b o 1) == some o),
    zeroB b (o + 1) 3, inR b (o + 4) 4 0 1000, inR b (o + 0x28) 2 0 1024, inR b (o + 0x2A) 2 (le b (o + 0x28) 2) 1024,
    inR b (o + 0x2C) 2 0 1024, inR b (o + 0x2E) 2 (le b (o + 0x2C) 2) 1024, inR b (o + 0x30) 4 0 7, inR b (o + 0x34) 2 0 1024,
    zeroB b (o + 0x36) 2, zeroB b (o + 0x3E) 2]

def pageFieldBad (b : List Byte) (o : Nat) : List Nat :=
  bads [zeroB b (o + 6) 2, inR b (o + 8) 1 0 1, inR b (o + 9) 1 0 1, inR b (o + 10) 1 0 1, inR b (o + 11) 1 0 3]

/-- An ownership entry's fields (R103). INDEX of a vat must be one of the vats of the logical cores below MIN_CORES, else FIELD: the spec gives
INDEX no upper bound here, and R104's test of the partition's cores alone would answer PARTITION (DESIGN CHOICE, log 50). -/
def ownFieldBad (b : List Byte) (minCores : List Nat) (o : Nat) : List Nat :=
  let k := le b o 1
  let c := le b (o + 1) 1
  let i := le b (o + 2) 1
  bads [inR b o 1 0 1, inR b (o + 1) 1 0 7, (o + 2, if k = 0 then decide (i / 2 < minCores.getD c 0) else decide (i < 16)),
    inR b (o + 3) 1 0 0x14, zeroB b (o + 4) 4]

def coreFields (b : List Byte) (o : Nat) : List (Nat × Bool) := [inR b o 1 0 7, inR b (o + 1) 1 0 15]

/-- The shape byte of a cost entry (R481). -/
def costShapeOk (cls shp : Nat) : Bool :=
  shp == 0xFF || (decide (1 ≤ cls ∧ cls ≤ 3) && decide (shp ≤ 2)) || ((cls == 0x10 || cls == 0x11) && decide (shp ≤ 1))

def costFieldBad (b : List Byte) (os : List Nat) (o : Nat) : List Nat :=
  bads [(o, isCostClass (le b o 1)), (o + 1, isFmt (le b (o + 1) 1) || le b (o + 1) 1 == 0xFF),
    (o + 2, costShapeOk (le b o 1) (le b (o + 2) 1)), zeroB b (o + 3) 1,
    (o, (os.find? fun q => le b q 3 == le b o 3) == some o)]

def gaugeFieldBad (b : List Byte) (slots : Nat) (os : List Nat) (o : Nat) : List Nat :=
  bads [(o, decide (le b o 2 < slots)), zeroB b (o + 2) 2, (o + 4, (os.find? fun q => le b (q + 4) 4 == le b (o + 4) 4) == some o)]

def routeFieldBad (b : List Byte) (o : Nat) : List Nat :=
  let n := le b (o + 7) 1
  let src := le b (o + 2) 2
  bads (coreFields b o ++ [(o + 2, (fld src 15 14 == 1 || fld src 15 14 == 2) && fld src 13 12 == 0), inR b (o + 4) 2 0 4095,
    inR b (o + 7) 1 1 16, zeroB b (o + 8) 8, (o + 16, (List.range 16).all fun i => if i < n then decide (le b (o + 16 + i) 1 < 128) else le b (o + 16 + i) 1 == 0)])

def linkFieldBad (b : List Byte) (o : Nat) : List Nat :=
  let h := le b (o + 5) 1
  bads [inR b (o + 4) 1 0 3, inR b (o + 5) 1 1 4, zeroB b (o + 6) 2,
    (o + 8, (List.range 8).all fun i => if i + 1 < h then decide (le b (o + 8 + i) 1 < 16) else le b (o + 8 + i) 1 == 0xFF)]

/-- Does a shard reach the root? -/
def reachesRoot (nodes : List (Option Nat × Nat)) : Nat → Nat → Bool
  | 0, _ => false
  | fuel + 1, i =>
    match nodes[i]? with
    | none => false
    | some (none, _) => true
    | some (some p, _) => reachesRoot nodes fuel p

/-- A tree (R113); `shards` is the count that every tree of the module has. -/
def treeBad (b : List Byte) (shards : Nat) (os : List Nat) (o : Nat) : List Nat :=
  let t := treeAt b o
  let n := t.nodes.length
  bads [(o, (os.find? fun q => le b q 2 == le b o 2) == some o), inR b (o + 2) 1 0 4, (o + 3, isFmt t.fmt),
    (o + 4, decide (1 ≤ n ∧ n ≤ 1048576) && n == shards), (o + 8, convOk (le b (o + 8) 1) && le b (o + 8) 1 % 4 != 2), zeroB b (o + 9) 23,
    (o + 32, (t.nodes.filter fun x => x.1.isNone).length == 1)] ++
  (List.range n).flatMap fun i =>
    let e := o + 32 + 8 * i
    let x := t.nodes.getD i (none, 0)
    bads [(e, reachesRoot t.nodes (n + 1) i), (e + 4, decide (x.2 ≤ 15) && (x.1.isNone || (t.nodes.findIdx? fun y => decide (y = x)) == some i)),
      zeroB b (e + 5) 3]

/-- R450: descriptors of one slot share no INDEX and no area, and name one COUNT. -/
def saveSetBad (im : PartImg) (o0 : Nat) : List Nat :=
  let ds := ((List.range im.descs.length).zip im.descs).filter fun q => dF q.2 0 1 == 13
  ds.filterMap fun q =>
    let area := fun (d : BitVec 256) => (dF d 0x18 8, dF d 0x10 8)
    if ds.any fun r => decide (r.1 < q.1) && dF r.2 1 1 == dF q.2 1 1 &&
        (dF r.2 2 1 == dF q.2 2 1 || dF r.2 3 1 != dF q.2 3 1 || OpCtx.runsMeet [area r.2] [area q.2])
      then some (o0 + 32 * q.1) else none

/-- R375: instructions of one program that share TREE_ID, CALL and LSLOT with an earlier one. -/
def callsBad (im : PartImg) : List Nat :=
  let all := im.progs.flatMap fun g => (g.recs.filter fun r => r.unit == 7).map fun r => (g.program, r)
  all.filterMap fun q =>
    let seen := (all.filter fun r => r.1 == q.1 && decide (r.2.off < q.2.off)).map fun r => r.2.op
    if OpCtx.callFree q.2.op seen then none else some q.2.off

/-- The offset of a partition's first section of a type. -/
def sectOff (dir : List Sect) (type part : Nat) : Nat := ((sectsOf dir type part).head?.map (·.off)).getD 0

/-- What the checks take from the module beside the image: MIN_CORES in force, the partitions live after the commit, and the
shard count of the other partitions' trees. -/
structure Around where
  minCores : List Nat
  live     : List Nat
  shards   : Option Nat
  deriving DecidableEq, Repr

def partFieldBad (b : List Byte) (dir : List Sect) (ar : Around) (shards : Nat) (pi : Nat × PartImg) : List Nat :=
  let p := pi.1
  let es := fun (t n : Nat) => entries dir t p n
  let trees := (sectsOf dir 0x0D p).flatMap fun x => treeOffs b x.count x.off
  let d0 := sectOff dir 8 p
  (es 2 16).flatMap (pageFieldBad b) ++ (es 3 8).flatMap (ownFieldBad b ar.minCores) ++
  ((es 4 4).flatMap fun o => bads (coreFields b o ++ [inR b (o + 2) 1 0 2, zeroB b (o + 3) 1])) ++
  ((es 5 4).flatMap fun o => bads (coreFields b o ++ [inR b (o + 2) 1 0 1, inR b (o + 3) 1 0 1])) ++
  (es 0x0E 8).flatMap (costFieldBad b (es 0x0E 8)) ++ (es 0x0F 8).flatMap (gaugeFieldBad b pi.2.gaugeSlots (es 0x0F 8)) ++
  (es 0x0A 32).flatMap (routeFieldBad b) ++ (es 0x0C 16).flatMap (linkFieldBad b) ++ trees.flatMap (treeBad b shards trees) ++
  ((es 0x10 64).zip pi.2.ingest).flatMap (fun q => (profileBad q.2).map (q.1 + ·)) ++
  ((sectsOf dir 0x10 p).flatMap fun x => if x.count ≤ 64 ∧ 1 ≤ x.count then [] else [x.entry + 12]) ++
  ((sectsOf dir 0x0B p).flatMap fun x => if 1 ≤ x.count ∧ x.count ≤ 256 then [] else [x.entry + 12]) ++
  ((es 0x0B 2).flatMap fun o => bads [inR b o 2 0 255]) ++
  ((es 8 32).zip pi.2.descs).flatMap (fun q => (descBad q.2).map (q.1 + ·)) ++ saveSetBad pi.2 d0 ++ callsBad pi.2 ++
  ((sectsOf dir 6 p).flatMap fun x => bads [(x.off + 5, OpCtx.funcOk (le b (x.off + 5) 1))]) ++
  ((sectsOf dir 7 p).flatMap fun x => bads [(x.off + 5, OpCtx.funcOk (le b (x.off + 5) 1))]) ++
  ((sectsOf dir 9 p).flatMap fun x => bads (inR b x.off 2 0 255 :: coreFields b (x.off + 2) ++
    [(x.off + 2, inMask pi.2 (16 * le b (x.off + 2) 1 + le b (x.off + 3) 1)), inR b (x.off + 4) 4 1 1048576, zeroB b (x.off + 8) 24])) ++
  pi.2.progs.flatMap fun g => (pi.2.opCtx p ar.minCores ar.live g).progBad b

def fieldBad (b : List Byte) (img : Image) (ar : Around) : List Nat :=
  let dir := dirOf b
  let first := (img.parts.findSome? fun pi => pi.2.trees.head?).map fun t => t.nodes.length
  let shards := (ar.shards <|> first).getD 0
  let most := if le b 7 1 / 128 = 0 then 16 else 0
  bads [(0x18, le b 0x18 8 != 0)] ++ bads ((List.range 8).map fun c => inR b (0x30 + c) 1 0 most) ++ mapBad b dir ++ img.parts.flatMap (partFieldBad b dir ar shards)

/-! ### 9: PARTITION (R100, R104, R121) -/

/-- Frames of a page, in 2 MiB units. -/
def Page.frames (g : Page) : Nat := if g.big then 512 else 1

def Page.sameFrames (g h : Page) : Bool :=
  decide (g.slow = h.slow) && decide (max g.ppn h.ppn < min (g.ppn + g.frames) (h.ppn + h.frames))

/-- The other partitions that are defined, for a partition image. -/
def othersOf (s : State) (img : Image) : List (Nat × PartImg) :=
  match img.scopePart with
  | none => []
  | some q => (List.range 16).filterMap fun p =>
      if p = q then none else ((s.part p).img).bind fun im => if s.pstate p = 0 then none else some (p, im)

/-- Those of them that run, or are about to once their reset ends (R121, R587). -/
def runningOf (s : State) (l : List (Nat × PartImg)) : List (Nat × PartImg) := l.filter fun q => s.isRunning q.1 || s.pstate q.1 == 4

def anyCore (im : PartImg) (f : Nat → Bool) : Bool := (List.range 128).any fun l => inMask im l && f l

/-- PARTITION (R121). A partition image is held to the header of the image that runs, and refused where none does (DESIGN CHOICE,
log 50). -/
def partitionBad (s : State) (b : List Byte) (img : Image) (minCores : List Nat) : List Nat :=
  let dir := dirOf b
  let others := othersOf s img
  let hdr := if img.scopePart.isSome then s.hdr.getD img.hdr else img.hdr
  let all := others ++ img.parts
  let running := runningOf s others
  let sum := fun (f : PartImg → Nat) => sumN ((running ++ img.parts).map fun q => f q.2)
  let m := mapOff dir
  let scope := match img.scopePart with
    | none => []
    | some q => if decide (img.parts.map (·.1) = [q]) && s.hdr.isSome then [] else [m]
  let sums := if sum (·.energyShare) + hdr.collEnergy ≤ 1000 ∧ sum (·.fastMin) + hdr.collFast ≤ 1024 ∧ sum (·.slowMin) + hdr.collSlow ≤ 1024
    then [] else [m]
  let each := ((partOffs b dir).zip img.parts).flatMap fun q =>
    let im := q.2.2
    bads [(q.1 + 0x10, !anyCore im fun l => all.any fun r => decide (r.1 ≠ q.2.1) && inMask r.2 l),
      (q.1 + 0x10, !anyCore im fun l => decide (minCores.getD (l / 16) 0 ≤ l % 16)), (q.1 + 4, im.energyShare != 0),
      (q.1 + 0x38, im.gaugeRecord % 64 == 0)]
  let pages := img.parts.flatMap fun pi => ((entries dir 2 pi.1 16).zip pi.2.pages).filterMap fun q =>
    if q.2.perm.toNat.testBit 1 ∧ (running.any fun r => r.2.pages.any fun h => q.2.sameFrames h) = true then some q.1 else none
  let owns := img.parts.flatMap fun pi =>
    ((entries dir 3 pi.1 8).zip pi.2.owners).filterMap fun q =>
      let o := q.2
      let vatOk := o.pool || inMask pi.2 (16 * o.cluster + o.index / 2)
      let toOk := decide (16 ≤ o.owner) || inMask pi.2 (16 * o.cluster + o.owner)
      let once := (pi.2.owners.find? fun w => w.pool == o.pool && w.cluster == o.cluster && w.index == o.index) == some o
      let poolOk := !o.pool || all.all fun r => decide (r.1 = pi.1) || !r.2.owners.any fun w => w.pool && w.cluster == o.cluster && w.index == o.index
      if vatOk && toOk && once && poolOk then none else some q.1
  scope ++ sums ++ each ++ pages ++ owns

/-! ### 10: PAGES (R80, R101, R102, R320, R326, R337) -/

/-- Is a run wholly in pages that a test accepts? -/
def coveredBy (pages : List Page) (ok : Page → Bool) (va len : Nat) : Bool :=
  match walkRun (pages.map fun g => { g with perm := if ok g then 3#2 else 0#2 }) 0 (len / mib2 + 2) va len with
  | .ok _ => true
  | .error _ => false

/-- The pages that a record's virtual extents need (R80), and the class-C or slow ones that descriptors need. -/
def extentBad (im : PartImg) (part : Nat) (minCores live : List Nat) : List Nat :=
  (im.recsAt part minCores live).filterMap fun r =>
    if r.accs.all fun a => decide (a.space.1 ≠ 0) || coveredBy im.pages (fun _ => true) a.lo a.len then none else some r.rec'.off

/-- R438: the regions of a ferry list are whole granules of class-C pages and meet neither one another nor the buffer. -/
def regionsOk (pages : List Page) (buf : Nat × Nat) : List (Nat × Nat) → Bool
  | [] => true
  | g :: rest => g.1 % 64 == 0 && g.2 % 64 == 0 && coveredBy pages (·.classC) g.1 g.2 && !OpCtx.runsMeet [g] (buf :: rest) &&
      regionsOk pages buf rest

def classBad (im : PartImg) (d0 : Nat) : List Nat :=
  let cw := fun (g : Page) => g.classC && g.perm.toNat.testBit 1
  ((List.range im.descs.length).zip im.descs).filterMap fun q =>
    let d := q.2
    let ok := match dF d 0 1 with
      | 8 => coveredBy im.pages cw (dF d 0x18 6) 64
      | 11 => coveredBy im.pages cw (dF d 0x10 6) 32
      | 12 => coveredBy im.pages cw (dF d 8 6) (64 + 32 * dF d 1 1) && coveredBy im.pages (fun g => cw g && g.slow) (dF d 0x10 6) (65536 * dF d 0x18 4) &&
          regionsOk im.pages (dF d 0x10 6, 65536 * dF d 0x18 4) (im.ferry.get [] q.1)
      | 13 => coveredBy im.pages (·.classC) (dF d 8 6) (dF d 0x10 8)
      | _ => true
    if ok then none else some (d0 + 32 * q.1)

/-- Does a frame of a page hold another class than the page's, while a partition outside the target maps it (R326)? -/
def pageClassClash (others : List (Nat × PartImg)) (g : Page) : Bool :=
  others.any fun r => r.2.pages.any fun h => g.sameFrames h && g.classC != h.classC

def pagesBad (s : State) (b : List Byte) (img : Image) (ar : Around) : List Nat :=
  let dir := dirOf b
  let others := othersOf s img
  let reserve := if img.scopePart.isSome then (s.hdr.map (·.reserveGib)).getD 0 else img.hdr.reserveGib
  let frames := fun (slow : Bool) => if slow then 981504 - 512 * reserve else 245760
  let retired := s.retireRec.entries.filter fun r => r.kind == 3
  let ents := img.parts.flatMap fun pi => ((entries dir 2 pi.1 16).zip pi.2.pages).map fun q => (pi.1, q.1, q.2)
  (ents.filterMap fun q =>
    let g := q.2.2
    let inside := decide (g.ppn + g.frames ≤ frames g.slow)
    let shared := (ents.all fun r => r.2.1 == q.2.1 || !g.sameFrames r.2.2 ||
        (g.classC == r.2.2.classC && (r.1 == q.1 || (g.perm.toNat < 2 && r.2.2.perm.toNat < 2)))) &&
      others.all fun r => r.2.pages.all fun h => !g.sameFrames h || (g.perm.toNat < 2 && h.perm.toNat < 2)
    let apart' := ents.all fun r => r.2.1 == q.2.1 || r.1 != q.1 ||
      !decide (max g.va r.2.2.va < min (g.va + g.size) (r.2.2.va + r.2.2.size))
    if decide (g.va % g.size = 0) && (!g.big || g.ppn % 512 == 0) && inside && (!g.slow || g.classC) && apart' && shared &&
        !pageClassClash others g && (g.slow || retired.all fun r => decide (r.ppn < g.ppn) || decide (g.ppn + g.frames ≤ r.ppn)) then none else some q.2.1) ++
  (((partOffs b dir).zip img.parts).filterMap fun q =>
    if q.2.2.gaugeSlots = 0 ∨ coveredBy q.2.2.pages (fun g => g.classC && g.perm.toNat.testBit 1) q.2.2.gaugeRecord (32 * q.2.2.gaugeSlots)
      then none else some (q.1 + 0x38)) ++
  img.parts.flatMap fun pi => extentBad pi.2 pi.1 ar.minCores ar.live ++ classBad pi.2 (sectOff dir 8 pi.1)

/-! ### 11 to 13 -/

def tokensBad (b : List Byte) (img : Image) : List Nat :=
  let dir := dirOf b
  img.parts.flatMap fun pi =>
    let im := pi.2
    im.progs.flatMap im.progTokensBad ++
    (((entries dir 0x0A pi.1 32).zip im.routes).mapIdx fun i q => (i, q)).filterMap (fun q => if im.routeBad q.2.2 (im.routes.take q.1) then some q.2.1 else none) ++
    im.scheduleBad.map fun i => sectOff dir 0x0B pi.1 + 2 * i

/-! ### 14: PLACEMENT (R119, R350) -/

/-- The clusters in which no image with these MIN_CORES and partitions can stand. A load is held to R527 as the running image is: while a common is
retired, or an ingest engine that a program uses, every image is refused (DEDUCED, log 50). -/
def State.placementBad (s : State) (minCores : List Nat) (ims : List PartImg) : List Nat :=
  s.standBad minCores fun cl => ims.any fun im => im.ingests cl

/-- Is a link route usable: some port of its mask UP at a version that carries its class (R350)? -/
def State.routeUsable (s : State) (r : LinkRoute) : Bool :=
  (List.range 16).any fun p => r.mask.getLsbD p && s.isUp p && (decide (2 ≤ s.linkVersion p) || (s.linkVersion p == 1 && r.cls == 3 && r.hops == 1))

def placeBad (s : State) (b : List Byte) (img : Image) (minCores : List Nat) : List Nat :=
  let dir := dirOf b
  s.placementBad minCores ((othersOf s img ++ img.parts).map (·.2)) ++ img.parts.flatMap fun pi =>
    ((entries dir 0x0C pi.1 16).zip pi.2.links).filterMap fun q => if s.routeUsable q.2 then none else some q.1

/-! ### The checks in order -/

def lowest (code : Nat) (l : List Nat) : Option (Nat × Nat) := l.min?.map fun o => (code, o)

namespace State

/-- R117: what of an image with keys of these ids the life-cycle state does not take. -/
def lifeBad (s : State) (rsa slh : Nat) : List Nat :=
  if s.life.refuseImages then [0]
  else match s.lifeState with
    | 1 => []
    | 2 => []
    | 3 => bads [(0x24, decide (rsa < 16)), (0x28, decide (slh < 16))]
    | _ => [0]

/-- The image with the regions that its ferry lists name in memory as it stands (log 51). -/
def withRegions (s : State) (img : Image) : Image :=
  let lists := fun (im : PartImg) => ((List.range im.descs.length).zip im.descs).filterMap fun d =>
    if dF d.2 0 1 = 12 then some (d.1, s.ferryRegions im.pages d.2) else none
  { img with parts := img.parts.map fun q => (q.1, { q.2 with ferry := lists q.2 }) }

/-- R118's checks of an image that has been read whole: the result code and DETAIL, and what it spells. -/
def checkImage (s : State) (b : List Byte) : (Nat × Nat) × Option Image :=
  let no := fun (r : Nat × Nat) => (r, (none : Option Image))
  match lowest 6 (dirBad b) with
  | some r => no r
  | none =>
    let img := s.withRegions (parseImage b)
    let minCores := if img.scopePart.isSome then (s.hdr.map (·.minCores)).getD [] else img.hdr.minCores
    let others := othersOf s img
    let ar : Around := ⟨minCores, (others ++ img.parts).map (·.1), (others.findSome? fun q => q.2.trees.head?).map fun t => t.nodes.length⟩
    match lowest 7 (tablesBad s b img) <|> lowest 8 (fieldBad b img ar) <|> lowest 9 (partitionBad s b img minCores) <|>
        lowest 0x0A (pagesBad s b img ar) <|> lowest 0x0B (tokensBad b img) <|>
        lowest 0x0C (img.parts.flatMap fun pi => pi.2.orderBad pi.1 minCores ar.live) <|>
        lowest 0x0D (img.parts.flatMap fun pi => pi.2.progs.flatMap pi.2.controlBad) <|> lowest 0x0E (placeBad s b img minCores) with
    | some r => no r
    | none => ((0, 0), some img)

/-- Checks 1 to 4 of R118, on the header of an image of `len` bytes. -/
def headChecks (s : State) (b : List Byte) (len : Nat) : Option (Nat × Nat) :=
  lowest 1 (headerBad b len) <|> lowest 2 (bads [(4, le b 4 2 == 3)]) <|> lowest 3 (bads [(6, le b 6 1 == s.regF .keepIdent [] 31 24)]) <|>
  lowest 4 (s.lifeBad (le b 0x24 4) (le b 0x28 4))

/-- R118: the state after its reads, the result code and DETAIL of an image of `len` bytes at slow-tier address `base`, and what it
spells. The header is read for checks 1 to 4, the rest for the signatures (DEDUCED, log 50). -/
def validate (s : State) (base len : Nat) : State × (Nat × Nat) × Option Image :=
  let r := s.keeperRead base (min len 128)
  match r.2 with
  | some o => (r.1, (0x10, o), none)
  | none =>
    match s.headChecks (r.1.bytesAt (.tier true) base (min len 128)) len with
    | some q => (r.1, q, none)
    | none =>
      let t := r.1.keeperRead (base + 128) (len - 128)
      let b := t.1.bytesAt (.tier true) base len
      let sig := le b 0x10 8
      match t.2 with
      | some o => (t.1, (0x10, 128 + o), none)
      | none =>
        if s.verifies (le b 0x24 4) (le b 0x28 4) 1 (b.take sig) (b.drop sig) then (t.1, s.checkImage b) else (t.1, (5, sig), none)

end State

end Sys2Proof.Machine
end

