-- ==== Sys2Proof/Machine/Image.lean ====
section
/-! DEFINITION. Loads, commits, resets and placement (R117-R126, R402, R585, R586): the staging area's images taken, refused or
committed, partitions released, and logical cores placed again after a retirement. -/

namespace Sys2Proof.Machine

/-- The image staging area (R320): 2 GiB of the slow tier from PPN 982,016. -/
def stagingBase : Nat := 982016 * mib2
def stagingLen : Nat := 2147483648

namespace State

/-! ### Placement (R122) -/

/-- The placement of a full image: logical core k below MIN_CORES on the k-th survivor, claimed by a partition or not (R122). -/
def fullPlace (s : State) (minCores : List Nat) : FMap Nat :=
  (List.range 8).flatMap fun cl =>
    ((s.survivors cl).take (minCores.getD cl 0)).mapIdx fun k c => (16 * cl + k, c)

/-- A logical core's place is lost with its physical core. -/
def hasPlace (s : State) (l : Nat) : Bool := s.place.has l && !s.coreRetired (s.place.get 0 l)

/-- Newly claimed logical cores take the lowest unused survivors, in ascending order (R122). -/
def placeNew (s : State) (im : PartImg) : State :=
  (List.range 128).foldl (fun (t : State) l =>
    if inMask im l && !t.hasPlace l then
      match t.freeCore (l / 16) with
      | some c => { t with place := t.place.set l c }
      | none => t
    else t) s

/-- Has every logical core of an image a place? -/
def allPlaced (s : State) (im : PartImg) : Bool := (List.range 128).all fun l => !inMask im l || s.hasPlace l

/-! ### Ownership at a commit (R103, R104, R295, R303) -/

/-- The physical code of an owner. -/
def ownerCode (s : State) (cl o : Nat) : Nat := if o < 16 then (s.physOf (16 * cl + o)).getD 0 % 16 else o

/-- A vat or bank given to a partition: it is cleared where it had none or another (R303). -/
def claimBank (s : State) (id : RegId) (ix : List Nat) (p owner : Nat) : State :=
  let w := s.reg id ix
  let kept := getF w 43 43 = 1 ∧ getF w 47 44 = p
  s.setReg id ix (BitVec.ofNat 64 (p * 2 ^ 44 + 2 ^ 43 + (if kept then getF w 40 40 else 1) * 2 ^ 40 + 0x1F * 2 ^ 32 + owner))

/-- The image's owner of a vat or bank, where an entry names it. -/
def ownEntry? (im : PartImg) (pool : Bool) (cl i : Nat) : Option Nat :=
  (im.owners.find? fun o => o.pool == pool && o.cluster == cl && o.index == i).map (·.owner)

def seatVat (s : State) (targets : List Nat) (cl i : Nat) : State :=
  let c := 16 * cl + i / 2
  match s.holderAt c with
  | none => s.dropBank .vatOwner [cl, i] (i / 2)
  | some (p, l) =>
    match (s.part p).img with
    | none => s
    | some im =>
      if hasN targets p then
        s.claimBank .vatOwner [cl, i] p ((ownEntry? im false cl (2 * (l % 16) + i % 2)).elim (i / 2) fun o => s.ownerCode cl o)
      else s

def seatPool (s : State) (targets : List Nat) (cl b : Nat) : State :=
  let by' := (List.range 16).findSome? fun p =>
    match (s.part p).img with
    | none => none
    | some im => (ownEntry? im true cl b).map fun o => (p, o)
  match by' with
  | none => s.dropBank .poolOwner [cl, b] 0x1F
  | some (p, o) => if hasN targets p then s.claimBank .poolOwner [cl, b] p (s.ownerCode cl o) else s

/-! ### Cores at a commit (R105, R133, R164, R229, R230) -/

/-- The INIT tables of a logical core in its slots, generation zero (R223, R230, R239). -/
def initSlots (im : PartImg) (l : Nat) : FMap Slot :=
  (im.tables.filter fun t => t.init && t.core == l).foldl (fun m t => m.set t.slot ⟨some t, none, 0, 1, [], false⟩) []

/-- The programs of a logical core in its program slots (R227). -/
def initPrograms (im : PartImg) (l : Nat) : FMap Rennet :=
  (List.range 16).filterMap fun i => (im.rennetOf l i).map fun j => (i, im.rennets.getD j ⟨0, 0, 0, [], []⟩)

/-- A core as a commit that places logical core l of partition p on it leaves it. -/
def freshCore (im : PartImg) (k : Core) (p l : Nat) : Core :=
  { Core.idle with part := some p, logical := l, nextUid := k.nextUid, slots := initSlots im l, pslots := initPrograms im l,
                   v0 := { Vec.zero with cur := startSetting im l 0 }, v1 := { Vec.zero with cur := startSetting im l 1 } }

/-- A core that no partition holds any more: its arrays and vector registers keep what they held until one is placed there (R133,
R164). -/
def freedCore (k : Core) : Core :=
  { Core.idle with nextUid := k.nextUid, v0 := k.v0, v1 := k.v1, tile0 := k.tile0, tile1 := k.tile1, acc := k.acc,
                   samples := k.samples, sampleCount := k.sampleCount }

def seatCore (s : State) (targets : List Nat) (c : Nat) : State :=
  match s.holderAt c with
  | none => if (s.core c).part.isSome then s.modCore c freedCore else s
  | some (p, l) =>
    match (s.part p).img with
    | none => s
    | some im =>
      if hasN targets p then ((s.wakeFor c).modCore c fun k => freshCore im k p l).clearRegs (coreFlagRegs c) else s

/-- Cores, vats and banks follow the placement and the images (R120, R122); cores placed anew wake (R302). -/
def seatAll (s : State) (targets : List Nat) : State :=
  let s := (List.range 128).foldl (fun (t : State) c => t.seatCore targets c) s
  let s := (List.range 8).foldl (fun (t : State) cl => (List.range 32).foldl (fun (u : State) i => u.seatVat targets cl i) t) s
  (List.range 8).foldl (fun (t : State) cl => (List.range 16).foldl (fun (u : State) b => u.seatPool targets cl b) t) s

/-! ### Frames at a commit (R326) -/

/-- A fast-tier frame takes a page's class: zeroed where it held the other. -/
def retype (t : Tier) (ppn : Nat) (classC : Bool) : Tier :=
  let isD := hasN t.classD ppn
  if isD = !classC then t
  else { clearTier t ppn 1 with classD := if classC then t.classD.filter fun f => f != ppn else t.classD ++ [ppn] }

def retypePages (t : Tier) (im : PartImg) : Tier :=
  (im.pages.filter fun g => !g.slow).foldl (fun t g => (upFrom g.ppn (g.size / mib2)).foldl (fun t f => retype t f g.classC) t) t

/-! ### The partition's own state -/

/-- The exchange counts with a partition start again (R444). -/
def forgetPeer (x : Part) (p : Nat) : Part :=
  { x with xcount := x.xcount.filter fun q => q.1 / 32 != p, xwaits := x.xwaits.filter fun w => w.peer != p }

/-- The partition as a commit leaves it (R120, R409, R441, R488). -/
def freshPart (x : Part) (im : PartImg) (first : Word) (gates : FMap Word) : Part :=
  { Part.undefinedPart with img := some im, step := first, firstStep := first, gates := gates, store := x.store,
                            vreq := 10 }

/-- Its sluice class starts with empty buckets (R329). -/
def emptyBuckets (s : State) (cls : Nat) : State :=
  { s with sluices := s.sluices.map fun x => (x.1, { x.2 with mins := x.2.mins.set cls 0, caps := x.2.caps.set cls 0 }) }

/-- The partition's messages that wait for the reserve stop with it (R500). -/
def dropDue (s : State) (cl p : Nat) : State :=
  let due := (s.cl cl).due
  let t := s.modCl cl fun k => { k with due := due.filter fun d => d.part != p }
  if (due.head?.map (·.part)) = some p then t.endWaits fun k => k == 200 + cl else t

/-- What ends with the partition's run: exports are aborted, its own SAVEs, waiting charges and waiting messages go (R500), its fired instructions' held
bytes are written, and its energy account is zero. -/
def endRun (s : State) (p : Nat) : State :=
  let cs := s.coresOf p
  let s := s.releaseHeld fun h => (hasN cs h.storer.1 || hasN cs h.loader.1) && !s.exporting h.loader
  let s := s.ferryAbort p
  let s := s.closeRegions p
  let s := (({ s with saves := s.saves.filter fun x => x.part != p } : State).setAcct p 0).endWaits fun k => hasN cs k
  let s := (List.range 8).foldl (fun (t : State) cl => t.dropDue cl p) s
  (List.range 16).foldl (fun (t : State) q => t.modPart q fun x => forgetPeer x p) s

/-- Has every walk and every instruction in a shared engine that the partition fired ended (R84, R285, R420)? -/
def quiet (s : State) (p : Nat) : Bool :=
  ((s.coresOf p).all fun c => (s.core c).window.all fun e => !(e.phase == .fired && decide (0 < e.chunk ∧ e.chunk < e.chunks))) &&
  s.clusters.all fun k => (k.2.copyQ ++ k.2.copyRun).all (fun j => j.part != p) && k.2.ingQ.all (fun j => j.part != p) &&
    k.2.coll.all fun i => i.id.part.val != p

/-- A partition stopped, with nothing of it at work. -/
def stopped (s : State) (p : Nat) : Bool := !s.firing p && s.quiet p

/-! ### IMAGE_LOAD (R117, R118, R125) -/

/-- IMAGE_LOAD in a session: ACCESS where it is no load, BUSY before power-up step 9, while one is in progress or while
a life operation runs, else taken. -/
def imageLoad (s : State) (sid seq : Word) (off len : Nat) (mode : Nat) : State :=
  if off % 64 ≠ 0 ∨ len = 0 ∨ 1073741824 < len ∨ 1 < mode ∨ stagingLen < off + len then s.reply sid seq 1 5 []
  else if s.load.isSome ∨ s.regF .lifeStatus [] 3 3 = 1 ∨ s.bootStep < 9 then s.reply sid seq 1 6 (0x0F :: beBytes 4 0)
  else
    let s := s.setRegF .keepImgStatus [] 46 32 (s.regF .keepImgStatus [] 46 32 + 1)
    let s := s.setRegF .keepImgStatus [] 55 52 (if s.anyRestart then 4 else 1)
    { s with load := some ⟨off, len, mode == 1, sid, seq, none, [], [], false, [], none, [], []⟩ }

/-- A load ends in refusal (R118, R119). -/
def refuseLoad (s : State) (l : Load) (code detail : Nat) : State :=
  let s := { s with load := none }
  let s := ((s.setRegF .keepImgStatus [] 55 52 0).setRegF .keepImgStatus [] 63 56 code).setRegF .keepImgStatus [] 31 0 detail
  let s := if code = 0x0E then s.reportReduced else s
  s.reply l.session l.seq 1 7 (BitVec.ofNat 8 code :: beBytes 4 detail)

/-- The targets of an image: every partition defined or named for a full image, the named one for a partition image. -/
def targetsOf (s : State) (img : Image) : List Nat :=
  match img.scopePart with
  | some p => [p]
  | none => (List.range 16).filter fun p => s.pstate p != 0 || img.parts.any fun q => q.1 == p

/-- HALT and DRAIN of the running targets (R120). -/
def stopTargets (s : State) (halt : Bool) (run : List Nat) : State :=
  if halt then run.foldl (fun (t : State) p => t.closeRegions p) (s.haltParts run 0xFFFFFFFC#32)
  else run.foldl (fun (t : State) p => t.setPstate p 2) s

/-- IMAGE_VALIDATION_COMPLETE. SCOPE and PART show the image from here on, as its header byte gives them, of a refused one too (the spec
does not say from when: DESIGN CHOICE, log 50). -/
def validationDone (s : State) : State :=
  match s.load with
  | none => s
  | some l =>
    if s.regF .keepImgStatus [] 55 52 = 1 ∧ l.image.isNone then
      let base := stagingBase + l.off
      let q := s.validate base l.len
      let s := q.1
      let r := q.2
      let scope := (readByte s.slow.data (base + 7)).toNat
      let s := (s.setRegF .keepImgStatus [] 47 47 (scope / 128)).setRegF .keepImgStatus [] 51 48 (if scope / 128 = 1 then scope % 16 else 0)
      match r.2 with
      | none => s.refuseLoad l r.1.1 r.1.2
      | some img =>
        let ts := s.targetsOf img
        let run := ts.filter s.isRunning
        let s := ((s.setRegF .keepImgStatus [] 63 56 0).setRegF .keepImgStatus [] 31 0 0).setRegF .keepImgStatus [] 55 52 2
        let s := { s with keeper := { s.keeper with reduced := false } }
        let s := (ts.filter fun p => !hasN run p).foldl (fun (t : State) p => t.closeRegions p) s
        let s := s.stopTargets l.halt run
        { s with load := some { l with image := some img, targets := ts, stopped := run,
                                       old := ts.filterMap fun p => ((s.part p).img).map fun im => (p, im),
                                       oldHdr := s.hdr, oldPlace := s.place,
                                       oldBuild := ts.map fun p => (p, s.reg .keepPartBuild [p]) } }
    else s

/-! ### IMAGE_COMMIT and TARGET_RELEASE (R120) -/

/-- Steps 1 to 4 for partition p under an image, its place and cores being set by the caller. -/
def commitPart (s : State) (p : Nat) (im : PartImg) (first : Word) (gates : FMap Word) : State :=
  let s := ((s.modPart p fun x => freshPart x im first gates).emptyBuckets p).fillStore p im
  { s with fast := retypePages s.fast im }

/-- A partition that a full image does not hold is removed. -/
def removePart (s : State) (p : Nat) : State :=
  ((s.modPart p fun _ => Part.undefinedPart).setPstate p 0).setReg .keepPartBuild [p] 0

/-- Steps 1 to 4 of a load whose targets are stopped. -/
def commitLoad (s : State) (l : Load) (img : Image) : State :=
  let s := l.targets.foldl (fun (t : State) p => t.endRun p) s
  let s := match img.scopePart with
    | none => { s with hdr := some img.hdr, place := s.fullPlace img.hdr.minCores }
    | some _ => img.parts.foldl (fun (t : State) q => t.placeNew q.2) s
  let s := img.parts.foldl (fun (t : State) q => (t.commitPart q.1 q.2 q.2.stepStart []).setPstate q.1 4) s
  let s := (l.targets.filter fun p => !(img.parts.any fun q => q.1 == p)).foldl (fun (t : State) p => t.removePart p) s
  let s := if img.scopePart.isNone then s.emptyBuckets 16 else s
  let s := ((s.seatAll l.targets).setRegF .keepImgStatus [] 55 52 3).switchOffs
  { s with load := some { l with placed := true } }

/-- Steps 1 to 4 of a reset; REFUSED where its cores can no longer be placed. -/
def commitReset (s : State) (r : Reset) : State :=
  let rest := s.resets.filter fun x => x.part != r.part
  match (s.part r.part).img with
  | none => { s with resets := rest }
  | some im =>
    let t := (s.endRun r.part).placeNew im
    if t.allPlaced im then
      let gates := if r.first.isSome then (s.part r.part).gates else []
      let t := (((t.commitPart r.part im (r.first.getD im.stepStart) gates).setPstate r.part 4).seatAll [r.part]).switchOffs
      { t with resets := s.resets.map fun x => if x.part = r.part then { x with placed := true } else x }
    else
      let t := { s with resets := rest }
      match r.reply with
      | none => t
      | some q => t.reply q.1 q.2 (0x10 + r.part) 7 []

/-- The lowest cluster whose survivors cannot meet a load's MIN_CORES, as R118's DETAIL. -/
def loadShort (s : State) (img : Image) : Option Nat :=
  (s.placementBad (if img.scopePart.isSome then s.minCores else img.hdr.minCores) ((othersOf s img ++ img.parts).map (·.2))).min?

/-- A target of a refused commit stays stopped: under its old image, or undefined (R124, R126). -/
def backOut (s : State) (l : Load) (p : Nat) : State :=
  let s := s.setReg .keepPartBuild [p] (l.oldBuild.get 0 p)
  match l.old.find? fun q => q.1 == p with
  | some q => (s.modPart p fun x => { x with img := some q.2 }).setPstate p (if s.isRunning p then 1 else 3)
  | none => (s.modPart p fun _ => Part.undefinedPart).setPstate p 0

/-- A target that ran and stays halted after a refused commit: the drained halts with CAUSE NONE, and its event and record follow (R124, R584); one
that halted as under HALT, or by a fault, has its record, and the event is sent. -/
def tellRefused (s : State) (p : Nat) : State :=
  let r : FaultRec := s.noneRec p 0xFFFFFFFC#32
  match (s.part p).fault with
  | none => (s.modPart p fun x => { x with fault := some r, untold := true }).tellHalt p
  | some _ => if (s.part p).untold then s else s.event (0x10 + p) 0x8002 (r.bytes p)

/-- A load that the survivors can no longer meet is refused with PLACEMENT: the targets it has stopped stay so, under their old images
on cores placed again (R124). -/
def abandonLoad (s : State) (l : Load) (detail : Nat) : State :=
  let halted := l.stopped.filter fun p => !s.isRunning p
  let s := { s with hdr := l.oldHdr, place := l.oldPlace }
  let s := l.targets.foldl (fun (t : State) p => t.backOut l p) s
  let s := (s.moveCores fun _ => false).seatAll (l.targets.filter fun p => !s.isRunning p)
  (halted.foldl (fun (t : State) p => t.tellRefused p) s).refuseLoad l 0x0E detail

/-- The load's commit begins, if the survivors still meet MIN_CORES: a retirement never leaves an image half placed (R124). -/
def commitOrRefuse (s : State) (l : Load) (img : Image) : State :=
  match s.loadShort img with
  | none => s.commitLoad l img
  | some d => s.abandonLoad l d

/-- Is the target of a directed test that runs held by a partition, or its ingest engine used by one (R532, R535)? -/
def testTaken (s : State) : Bool :=
  !s.bist.todo.isEmpty &&
    (if s.bist.target < 128 then (s.core s.bist.target).part.isSome
     else if s.bist.target < 136 then !(s.partsIn (s.bist.target - 128)).isEmpty else s.ingestUsed (s.bist.target - 136))

/-- A commit that would seat a partition on the target of a directed test waits for the test (R532). -/
def clearOfTest (s t : State) : State := if t.testTaken then s else t

/-- IMAGE_COMMIT: the load whose targets have stopped, or the oldest reset whose partition has. -/
def imageCommit (s : State) : State :=
  if s.anyRestart then s
  else
    let reset := match s.resets.find? fun r => !r.placed && s.stopped r.part with
      | none => s
      | some r => s.clearOfTest (s.commitReset r)
    match s.load with
    | none => reset
    | some l =>
      match l.image with
      | none => reset
      | some img =>
        if !l.placed && s.regF .keepImgStatus [] 55 52 != 4 && l.targets.all s.stopped then s.clearOfTest (s.commitOrRefuse l img) else reset

/-- Step 5 for one partition: every core starts at the first record of the first step. -/
def releasePart (s : State) (p : Nat) (build : Long) : State :=
  let first := (s.part p).firstStep
  let s := (s.coresOf p).foldl (fun (t : State) c => t.modCore c fun k => { k with fetch := some ⟨first, 0, [], false, []⟩ }) s
  (s.setReg .keepPartBuild [p] build).setPstate p 1

/-- TARGET_RELEASE. -/
def targetRelease (s : State) : State :=
  if s.anyRestart then s
  else
    let reset := match s.resets.find? fun r => r.placed with
      | none => s
      | some r =>
        let t := { s.releasePart r.part (s.reg .keepPartBuild [r.part]) with resets := s.resets.filter fun x => x.part != r.part }
        match r.reply with
        | none => t
        | some q => t.reply q.1 q.2 (0x10 + r.part) 0 []
    match s.load with
    | none => reset
    | some l =>
      match l.image with
      | none => reset
      | some img =>
        if l.placed then
          let t := img.parts.foldl (fun (t : State) q => t.releasePart q.1 img.buildId) s
          let t := { t with load := none }.setRegF .keepImgStatus [] 55 52 0
          t.reply l.session l.seq 1 0 (0 :: beBytes 4 0)
        else reset

/-! ### A load after a warm restart (R124) -/

/-- LOAD_AFTER_WARM_RESTART: the load that waited goes on, if the survivors meet MIN_CORES (R124). -/
def loadAfter (s : State) : State :=
  match s.load with
  | none => s
  | some l =>
    if s.regF .keepImgStatus [] 55 52 = 4 ∧ s.anyRestart = false then
      match l.image with
      | none => s.setRegF .keepImgStatus [] 55 52 1
      | some img =>
        match s.loadShort img with
        | none => s.setRegF .keepImgStatus [] 55 52 (if l.targets.all fun p => !s.isRunning p then 3 else 2)
        | some d => s.abandonLoad l d
    else s

/-! ### PART_HALT and PART_RESET (R585, R586, R592) -/

/-- Is partition p a target of a load that is committing, or in a reset? -/
def committing (s : State) (p : Nat) : Bool :=
  s.pstate p == 4 || s.resets.any (fun r => r.part == p) ||
  match s.load with
  | none => false
  | some l => l.image.isSome && hasN l.targets p

/-- PART_HALT: it completes once every core of the partition has stopped firing. -/
def partHalt (s : State) (sid seq : Word) (p : Nat) : State :=
  let mb := 0x10 + p
  if s.committing p then s.reply sid seq mb 6 []
  else if s.pstate p = 0 then s.reply sid seq mb 8 []
  else
    let t := s.haltPart p 0xFFFFFFFE#32
    if (t.part p).halting then t.modPart p fun x => { x with haltFor := x.haltFor ++ [(sid, seq)] } else t.reply sid seq mb 0 []

/-- Resets and recoveries of some partitions are given up: one that was placed already stays halted, and a PART_RESET completes with a
status (R467, R564). -/
def dropResets (s : State) (which : Nat → Bool) (status : Nat) : State :=
  let gone := s.resets.filter fun r => which r.part
  let s := { s with resets := s.resets.filter fun r => !which r.part }
  gone.foldl (fun (t : State) r =>
    let t := if t.pstate r.part = 4 then t.setPstate r.part 3 else t
    match r.reply with
    | some q => t.reply q.1 q.2 (0x10 + r.part) status []
    | none => t) s

end State

end Sys2Proof.Machine
end

