-- ==== Sys2Proof/Machine/Bist.lean ====
section
/-! DEFINITION. Self-test: the rota, blocks taken, slice results, directed tests, and the end of a warm restart (R522-R537). -/

namespace Sys2Proof.Machine

/-- Ticks of 8 hours (R526). -/
def eightHours : Nat := 2880000000000

namespace State

/-- The clustered cores that a block's slice makes stop firing (R526). -/
def coresUnder (s : State) (b : Nat) : List Nat :=
  (if b < 128 then [b] else if b < 136 then (List.range 16).map fun k => 16 * (b - 128) + k else []).filter
    fun c => (s.core c).part.isSome

/-- Is a core at rest: told to stop, with no fired instruction left to complete? -/
def coreAtRest (s : State) (c : Nat) : Bool :=
  (s.core c).taking && (s.core c).window.all fun e => decide (e.phase = .waiting ∨ e.phase = .faulted)

/-- May the block be taken now (R526)? Not while a partition on it halts or has halted since it was asked for (R533). -/
def takeable (s : State) (b : Nat) : Bool :=
  let k := s.cl (if b < 136 then b - 128 else b - 136)
  ((s.coresUnder b).all fun c => s.coreAtRest c && ((s.core c).part).all s.isRunning) &&
    (if b < 128 then true
     else if b < 136 then k.copyQ.isEmpty && k.copyRun.isEmpty && k.coll.isEmpty && k.ingQ.isEmpty
     else k.ingQ.isEmpty)

/-- Firing resumes on the cores of a block. -/
def letFire (s : State) (b : Nat) : State :=
  (s.coresUnder b).foldl (fun (t : State) c => t.modCore c fun k => { k with taking := false }) s

def bistBusy (s : State) : Bool := s.bist.running.isSome || !s.bist.todo.isEmpty

/-- The next rota position at or after n whose block is not retired (R525). -/
def liveFrom (s : State) (n : Nat) : Nat :=
  let b := (List.range 145).find? fun i => !s.blockRetired ((n / 32 + i) % 144)
  match b with
  | none => n % 4608
  | some 0 => n % 4608
  | some i => 32 * ((n / 32 + i) % 144)

/-- P moves, and is written to the retirement record's header. -/
def setPointer (s : State) (n : Nat) : State :=
  let p := s.liveFrom n
  let t := { s with bist := { s.bist with pointer := p } }
  (t.writeRetire p t.retireRec.entries).setRegF .bistStatus [] 47 35 p

/-- SLICE_SCHEDULE: the keeper requests the block that P names, unless the rota does not run or a restart is under way; a P whose block has
retired since moves on first (R525, R532, R533). -/
def sliceSchedule (s : State) : State :=
  if s.ready && s.lifeState != 4 && s.regF .bistCtrl [] 0 0 == 1 && s.bist.wanted.isNone && s.bist.running.isNone && !s.anyRestart then
    let p := s.liveFrom s.bist.pointer
    if s.blockRetired (p / 32) then s
    else { s with bist := { s.bist with pointer := p, wanted := some (p / 32) } }.setRegF .bistStatus [] 47 35 p
  else s

/-- A slice's pattern generator and signature register are seeded from its fuses (R523). -/
def seedSlice (s : State) (b k : Nat) : State :=
  { s with bist := { s.bist with pattern := Config.slicePattern b k, signature := Config.sliceSeed b k } }

/-- BLOCK_TAKEN: the slice starts; a block that has retired since it was asked for is not taken. -/
def blockTaken (s : State) : State :=
  match s.bist.wanted with
  | none => s
  | some b =>
    if s.blockRetired b then { s.letFire b with bist := { s.bist with wanted := none } }
    else if s.takeable b && !s.bistBusy && !s.anyRestart then
      ({ s with bist := { s.bist with wanted := none, running := some b } }.seedSlice b (s.bist.pointer % 32)).setRegF .bistStatus [] 0 0 1
    else s

/-- BLOCK_TAKE_TIMEOUT: the block is released and P stays. -/
def blockTimeout (s : State) : State :=
  match s.bist.wanted with
  | none => s
  | some b => { s.letFire b with bist := { s.bist with wanted := none } }

/-- A slice's verdict in BIST_STATUS (R536). -/
def sliceVerdict (s : State) (pass : Bool) : State :=
  let s := s.setRegF .bistStatus [] 1 1 (if pass then 1 else 0)
  if pass then s else s.bump .bistStatus [] 31 16

/-- A scheduled slice of block b ends: the failed block is retired, P advances, and firing resumes. -/
def scheduledResult (s : State) (b : Nat) (pass : Bool) : State :=
  let n := s.bist.pointer
  let s := ({ s with bist := { s.bist with running := none } }.setRegF .bistStatus [] 0 0 0).sliceVerdict pass
  let s := if pass then s else s.retireBlock b 1 (n % 32)
  let s := if pass ∧ n % 32 = 31 then { s with bist := { s.bist with covered := s.bist.covered.set b s.tick } } else s
  (s.setPointer (n + 1)).letFire b

/-- A slice of the directed test ends; with the last one the test does, and a failed target is retired (R527, R535). -/
def directedResult (s : State) (slice : Nat) (rest : List Nat) (pass : Bool) : State :=
  let bad := if pass then s.bist.failed else some (s.bist.failed.getD slice)
  let s := { s with bist := { s.bist with todo := rest, failed := bad } }.sliceVerdict pass
  let s := match rest with
    | j :: _ => s.seedSlice s.bist.target j
    | [] => s
  if rest.isEmpty then
    let s := s.setRegF .bistStatus [] 0 0 0
    match bad with
    | none => s
    | some k => (s.flag .bistStatus [] 2).retireBlock s.bist.target 2 k
  else s

/-- The block and the slice under test. -/
def underTest (s : State) : Option (Nat × Nat) :=
  match s.bist.running, s.bist.todo with
  | some b, _ => some (b, s.bist.pointer % 32)
  | none, k :: _ => some (s.bist.target, k)
  | none, [] => none

/-- A slice ends with its verdict. -/
def sliceEnds (s : State) (pass : Bool) : State :=
  match s.bist.running, s.bist.todo with
  | some b, _ => s.scheduledResult b pass
  | none, k :: rest => s.directedResult k rest pass
  | none, [] => s

/-- SLICE_RESULT: the responses have been compacted into the signature register, the generator stands where its patterns have brought it (a free
value, log 57), and the slice passes only where the signature is the one fused for it (R523). -/
def sliceResult (s : State) (signature : Long) : State :=
  match s.underTest with
  | none => s
  | some q =>
    let t := { s with bist := { s.bist with pattern := s.freeLong, signature := signature } }.usedFresh
    t.sliceEnds (signature == Config.sliceExpected q.1 q.2)

/-- SELFTEST_OVERDUE. -/
def overdue (s : State) (b : Nat) : State :=
  if eightHours ≤ (s.tick - s.bist.covered.get 0 b).toNat ∧ s.blockRetired b = false then
    (s.flag .bistStatus [] 3).record 0 0x0005 none b none none (beBytes 2 b)
  else s

/-- The slices of a directed test in order: REPEAT + 1 times SLICE, or all 32. -/
def directedSlices (v : Long) : List Nat :=
  let once := if getF v 8 8 = 1 then List.range 32 else [getF v 7 3]
  (List.replicate (getF v 31 24 + 1) once).flatten

/-- A write of BIST_CTRL: refused where R532 or R535 refuses it; GO starts a directed test. -/
def wrBistCtrl (s : State) (v : Long) : Option State :=
  let b := getF v 23 16
  let st := s.lifeState
  if st = 4 ∨ 143 < b then none
  else if (st = 1 ∨ st = 2) ∧ getF v 1 1 = 1 then none
  else
    let t := s.plainWrite .bistCtrl [] v
    if getF v 1 1 = 0 then some t
    else if (s.coresUnder b).isEmpty = false ∨ (136 ≤ b ∧ s.ingestUsed (b - 136) = true) ∨ s.blockRetired b = true ∨ s.bistBusy = true then none
    else
      let ks := directedSlices v
      some (({ t with bist := { t.bist with target := b, todo := ks, failed := none } }.seedSlice b (ks.headD 0)).setRegF .bistStatus [] 0 0 1)

/-- WARM_RESTART_END: the cluster's restart ends, its side of the crossings is out of reset, logical cores are placed again, and no partition runs by itself; JOB_STATUS shows
RESTART no more (R528, R529). -/
def restartEnd (s : State) (cl : Nat) : State :=
  if (s.cl cl).restarting then ((s.modCl cl fun k => { k with restarting := false }).clusterBack cl).placeAgain else s

end State

def execSliceSchedule (s : State) : Out := .next (s.settle s.sliceSchedule)
def execBlockTaken (s : State) : Out := .next (s.settle s.blockTaken)
def execBlockTakeTimeout (s : State) : Out := .next (s.settle s.blockTimeout)
def execSliceResult (signature : Long) (s : State) : Out := .next (s.settle (s.sliceResult signature))
def execWarmRestartEnd (cl : ClusterId) (s : State) : Out := .next (s.settle (s.restartEnd cl))
def execSelftestOverdue (block : Fin 144) (s : State) : Out := .next (s.settle (s.overdue block))
def execBistDirectedTest (v : Long) (s : State) : Out := .next (s.wroteAt .bistCtrl [] (s.wrBistCtrl (setF v 1 1 1)))

end Sys2Proof.Machine
end

