-- ==== Sys2Proof/Machine/Save.lean ====
section
/-! DEFINITION. Copies of shards (R449-R458): SAVE, the home and mirror areas of the partner reserve, the cartridge's checkpoint
slots, the shared store, and the messages that carry them. Generations are compared as signed differences (log 31). -/

namespace Sys2Proof.Machine

/-- The payload bytes of a message after its sub-header (R458). -/
def saveMax : Nat := 4080

/-- No step. -/
def noStep : Word := 0xFFFFFFFF#32

def noMap : JobMap := ⟨0, false, 0, 0, []⟩

namespace State

/-! ### Maps, slots and areas (R450, R454, R460) -/

def mapOf (s : State) (p : Nat) : Option JobMap := if s.job.maps.has p then some (s.job.maps.get noMap p) else none

def me (s : State) : Nat := s.moduleIx.toNat

/-- The shard of a local slot with its entry. -/
def slotShard (s : State) (p slot : Nat) : Option (Nat × MapEntry) :=
  match s.mapOf p with
  | none => none
  | some m => m.entries.find? fun e => e.2.holder == s.moduleIx && e.2.slot.toNat == slot

def entryOf (s : State) (p shard : Nat) : Option MapEntry :=
  match s.mapOf p with
  | none => none
  | some m => (m.entries.find? fun e => e.1 == shard).map (·.2)

/-- The SAVE descriptors of a slot: area offset, length and address. -/
def slotExtents (s : State) (p slot : Nat) : List (Nat × Nat × Nat) :=
  match (s.part p).img with
  | none => []
  | some im => (im.descs.filter fun d => dF d 0 1 == 13 && dF d 1 1 == slot).map fun d => (dF d 0x18 8, dF d 0x10 8, dF d 8 6)

/-- The bytes of a slot's state. -/
def slotBytes (s : State) (p slot : Nat) : Nat := sumN ((s.slotExtents p slot).map fun x => x.2.1)

/-- F of R450 in bytes: whole 2 MiB frames. -/
def areaLen (s : State) (p slot : Nat) : Nat :=
  let top := (s.slotExtents p slot).foldl (fun a x => max a (x.1 + x.2.1)) 0
  (top + mib2 - 1) / mib2 * mib2

/-- The first byte and the bytes of the partner reserve (R320). -/
def reserveLen (s : State) : Nat := 512 * ((s.hdr.map (·.reserveGib)).getD 0) * mib2
def reserveBase (s : State) : Nat := 981504 * mib2 - s.reserveLen

/-- The first byte of the buffer for generation n of an area at a frame (R454). -/
def bufAddr (s : State) (frame len : Nat) (n : Word) : Nat := s.reserveBase + frame * mib2 + n.toNat % 2 * len

/-- n more bytes of a generation have come to a buffer. -/
def noteBuf (s : State) (p shard : Nat) (home : Bool) (addr len : Nat) (step : Word) (n total : Nat) : State :=
  let rest := s.job.bufs.filter fun b => b.addr != addr
  let had := match s.job.bufs.find? fun b => b.addr == addr with
    | some b => if b.step = step then b.got else 0
    | none => 0
  { s with job := { s.job with bufs := rest ++ [⟨p, shard, home, addr, len, step, had + n, decide (total ≤ had + n)⟩] } }

/-- The areas that this module keeps under its committed maps: partition, shard and whether home. -/
def areas (s : State) : List (Nat × Nat × Bool) :=
  s.job.maps.flatMap fun m => m.2.entries.flatMap fun e =>
    (if e.2.holder = s.moduleIx then [(m.1, e.1, true)] else []) ++ (if e.2.partner = s.moduleIx then [(m.1, e.1, false)] else [])

/-- Does an area hold generation n complete? -/
def holds (s : State) (a : Nat × Nat × Bool) (n : Word) : Bool :=
  s.job.bufs.any fun b => b.part == a.1 && b.shard == a.2.1 && b.home == a.2.2 && b.full && b.step == n

/-- MIRROR_DONE (R454): the newest generation that every area holds; the last value where none is common. -/
def settleMirror (s : State) : State :=
  let common := ((s.job.bufs.filter fun b => b.full).map (·.step)).filter fun n => s.areas.all fun a => s.holds a n
  let best := common.foldl (fun (a : Option Word) n => match a with
    | none => some n
    | some m => if gateReached n m then some n else some m) none
  match best with
  | none => s
  | some n => { s with job := { s.job with mirrorDone := n } }

/-- A complete buffer of a shard at a step, kept or retained. -/
def localBuf (s : State) (p shard : Nat) (n : Word) : Option Buf :=
  (s.job.bufs ++ s.job.retained).find? fun b => b.part == p && b.shard == shard && b.full && b.step == n

/-! ### Sub-headers and messages (R458) -/

def subHeader (s : State) (shard : Nat) (step : Word) (off : Nat) : List Byte :=
  beBytes 4 (s.collGen * 2 ^ 20 + shard) ++ beBytes 4 step.toNat ++ beBytes 8 off

/-- Data from an area offset in messages of at most 4,080 bytes, `mark` set in the phase of the last; how many. -/
def sendData (s : State) (p : Nat) (dest : Half) (mtype cls phase mark shard : Nat) (step : Word) (off : Nat) (data : List Byte)
    (u : Purpose) : State :=
  let cs := chunksOf saveMax data
  (cs.mapIdx fun i c => (i, c)).foldl (fun (t : State) ic =>
    let ph := if ic.1 + 1 = cs.length then phase + mark else phase
    t.sendRoute (t.routeOf p dest cls) mtype dest (BitVec.ofNat 32 (p * 2 ^ 28 + ph))
      (t.subHeader shard step (off + ic.1 * saveMax) ++ ic.2) u) s

/-! ### SAVE (R450-R457) -/

/-- The extent of a SAVE: slot, index, count, address, length, area offset. -/
structure SaveDesc where
  slot  : Nat
  index : Nat
  count : Nat
  va    : Nat
  len   : Nat
  off   : Nat
  deriving DecidableEq, Repr

def saveDesc (s : State) (c : Nat) (e : Entry) : SaveDesc :=
  let d := s.desc c (getF e.op 55 44)
  ⟨dF d 1 1 % 16, dF d 2 1, dF d 3 1, dF d 8 6, dF d 0x10 8, dF d 0x18 8⟩

/-- A SAVE that moves no byte: its bind token now, and it may complete (R453). -/
def saveIdle (s : State) (c : Nat) (e : Entry) : State := s.bindSpans c e []

/-- MEM_ERROR records of the granules of pieces that cannot be read, for a reader kind (R323). -/
def noteBad (s : State) (kind : Nat) (ps : List Piece) : State :=
  ps.foldl (fun t x => match x.place with
    | .tier slow => (((t.tierOf slow).marksIn x.addr x.len).filter fun m => decide (m.2 ≠ GMark.oneC)).foldl
        (fun u m => u.memErr slow (64 * m.1) kind) t
    | _ => t) s

/-- The pieces of a SAVE's extent. -/
def savePieces (s : State) (c : Nat) (d : SaveDesc) : List Piece := (⟨true, none, d.va⟩ : Side).pieces (s.pagesOf c) 0 [(0, d.len)]

/-- A SAVE binds its extent as it fires, or faults on its pages (R452). -/
def saveBind (s : State) (c : Nat) (e : Entry) (d : SaveDesc) : State × Bool :=
  match s.sideFault c (s.pagesOf c) ⟨true, none, d.va⟩ 0 [] [(0, d.len)] with
  | some f => (s.fault c e f.1 noIndex f.2, false)
  | none => (s.bindSpans c e (spansOf (s.savePieces c d)), true)

/-- The bytes of a bound extent, or the fault of a granule that cannot be corrected, which is recorded for the reader kind as well (R323,
R457). -/
def saveBytes (s : State) (c : Nat) (e : Entry) (d : SaveDesc) (kind : Nat) : State × Option (List Byte) :=
  let ps := s.savePieces c d
  let r := s.readPieces ps
  match r.bad with
  | some a => ((r.st.noteBad kind ps).fault c e 8 noIndex a, none)
  | none => (r.st, some (r.bytes.map fun b => b.getD 0xFF))

/-- A SAVE that no gate holds reads its extent as it fires. -/
def saveRead (s : State) (c : Nat) (e : Entry) (d : SaveDesc) (kind : Nat) : State × Option (List Byte) :=
  let b := s.saveBind c e d
  if b.2 then b.1.saveBytes c e d kind else (b.1, none)

/-- A SAVE that has faulted is at its end. -/
def saveGone (s : State) (c uid : Nat) : State := { s with saves := s.saves.filter fun (w : Save) => !(decide (w.core = c ∧ w.uid = uid)) }

/-- Has the module FAILED, so that it sends no SAVE data any more (R335, R466)? -/
def saveStopped (s : State) : Bool := s.regF .jobStatus [] 27 24 == 8 || s.tripped

/-- SAVE data on a queue pair, which a FAILED module does not send. -/
def saveOut (s : State) (qpn : Nat) (w : RoceOut) : State := if s.saveStopped then s else s.qpOut qpn w

/-- A run of the slow tier's own regions written in the service class; none where a granule that it covers in part cannot be merged,
which is recorded for a reader kind (R323, R324, R328). -/
def reserveWrite (s : State) (kind a : Nat) (bs : List Byte) : State × Bool :=
  let r := (s.traffic serviceClass true a bs.length).writePlace (.tier true) a bs
  match r.2 with
  | some v => (r.1.memErr true (v / 64 * 64) kind, false)
  | none => (r.1, true)

/-- A DEST 0 SAVE past its gate: its extent is read, the home buffer is written and the mirror messages leave (R452). -/
def startMirror (s : State) (v : Save) : State :=
  match s.entryOf v.part v.shard, s.entry? v.core v.uid with
  | some m, some e =>
    let r := s.saveBytes v.core e (s.saveDesc v.core e) 3
    match r.2 with
    | none => r.1.saveGone v.core v.uid
    | some bs =>
      let len := s.areaLen v.part v.slot
      let addr := s.bufAddr m.homeFrame.toNat len v.step
      let t := (r.1.reserveWrite 3 (addr + v.areaOff) bs).1
      let t := (t.noteBuf v.part v.shard true addr len v.step bs.length (t.slotBytes v.part v.slot)).settleMirror
      let n := (chunksOf saveMax bs).length
      let t := { t with saves := t.saves.map fun (w : Save) =>
        if w.core = v.core ∧ w.uid = v.uid then { w with data := bs, gated := false, waiting := n } else w }
      if t.saveStopped then t else t.sendData v.part m.partner 0x10 1 0 0 v.shard v.step v.areaOff bs (.save v.core v.uid)
  | _, _ => s

def commitM (s : State) : Word := BitVec.ofNat 32 (s.regF .jobCommits [] 63 32)
def commitC (s : State) : Word := BitVec.ofNat 32 (s.regF .jobCommits [] 31 0)

/-- Has COMMIT_M reached the step before a SAVE's (R452)? -/
def mirrorGate (s : State) (v : Save) : Bool := gateReached s.commitM (v.step - 1)

/-- SAVE with DEST 0. -/
def fireSaveMirror (s : State) (c : Nat) (e : Entry) : State :=
  match (s.core c).part with
  | none => s
  | some p =>
    let d := s.saveDesc c e
    match s.slotShard p d.slot with
    | none => s.saveIdle c e
    | some (shard, _) =>
      let b := s.saveBind c e d
      if b.2 then
        let v : Save := ⟨p, c, e.uid, 0, e.step, shard, d.slot, d.off, [], true, 0, none⟩
        let t := { b.1.setPhase c e.uid .fired with saves := b.1.saves ++ [v] }
        if t.mirrorGate v then t.startMirror v else t
      else b.1

/-- MIRROR_GATE_OPEN. -/
def gateOpen (s : State) (c uid : Nat) : State :=
  match s.saves.find? fun v => decide (v.core = c ∧ v.uid = uid) && v.dest == 0 && v.gated with
  | none => s
  | some v => if s.mirrorGate v then s.startMirror v else s

/-- The record of a refused checkpoint write (R457, R583). -/
def ckptRefused (s : State) (p : Nat) (step : Word) : State :=
  (s.flag .cartStatus [] 3).record 1 0x0050 (some p) 0xFFFF (some step) none (beBytes 8 (s.reg .cartStatus []).toNat)

/-- SAVE with DEST 1. PIN travels in TAG bit 4 (log 32). -/
def fireSaveCartridge (s : State) (c : Nat) (e : Entry) : State :=
  match (s.core c).part with
  | none => s
  | some p =>
    let d := s.saveDesc c e
    match s.slotShard p d.slot with
    | none => (s.saveIdle c e).ckptRefused p e.step
    | some (shard, m) =>
      let r := s.saveRead c e d 4
      match r.2 with
      | none => r.1
      | some bs =>
        let v : Save := ⟨p, c, e.uid, 1, e.step, shard, d.slot, d.off, bs, false, 1, none⟩
        let t := { r.1.setPhase c e.uid .fired with saves := r.1.saves ++ [v] }
        if t.saveStopped then t else t.sendData p m.ckpt 0x20 3 (16 * getF e.op 41 41) 8 shard e.step d.off bs .plain

/-- The record of a copy to the shared store that failed (R453, R457, R583). -/
def storeFailed (s : State) (p qpn : Nat) (step : Word) : State := s.record 1 0x0051 (some p) 0xFFFF (some step) none (beBytes 3 qpn)

/-- SAVE with DEST 2: its extent leaves by RDMA WRITE; it is done when that and, behind the last extent of the slot, the trailer are
acknowledged (R452, R456). -/
def fireSaveStore (s : State) (c : Nat) (e : Entry) : State :=
  match (s.core c).part with
  | none => s
  | some p =>
    let d := s.saveDesc c e
    match (s.part p).store with
    | none => (s.saveIdle c e).storeFailed p 0 e.step
    | some st =>
      let r := s.saveRead c e d 4
      match r.2 with
      | none => r.1
      | some bs =>
        let t := r.1
        if t.qpWorks st.qpn then
          let shard := ((t.slotShard p d.slot).map (·.1)).getD d.slot
          let base := st.base + shard * st.stride
          let v : Save := ⟨p, c, e.uid, 2, e.step, shard, d.slot, d.off, bs, false, 1,
            some ⟨st.qpn, st.rkey, base + st.stride - 16, d.index, d.count⟩⟩
          { (t.saveOut st.qpn (.write st.rkey (base + d.off) bs)).setPhase c e.uid .fired with saves := t.saves ++ [v] }
        else t.storeFailed p st.qpn e.step

/-- A SAVE is done. -/
def saveDone (s : State) (v : Save) : State :=
  { s with saves := s.saves.filter fun (w : Save) => !(decide (w.core = v.core ∧ w.uid = v.uid)) }.setPhase v.core v.uid .done

/-- The WRITE of a DEST 2 SAVE is acknowledged: behind the last extent of the slot the trailer goes out as the queue pair's newest WRITE, and
its acknowledgement ends the SAVE; any other is done (R452, R456). -/
def storeAcked (s : State) (v : Save) : State :=
  match v.store with
  | none => s
  | some a =>
    let key := v.step.toNat * 16 + v.slot
    let had := ((s.part v.part).storeDone.get [] key).filter fun i => i != a.index
    if v.gated then s.saveDone v
    else if a.count ≤ had.length + 1 then
      let t := s.modPart v.part fun x => { x with storeDone := x.storeDone.erase key }
      let gen := ((t.mapOf v.part).map (·.jobgen)).getD 0
      let t := t.saveOut a.qpn (.write a.rkey a.trailer (beBytes 4 0x53485244 ++ beBytes 4 v.step.toNat ++ beBytes 4 gen.toNat ++ fill 4 0))
      { t with saves := (t.saves.filter fun (w : Save) => !(decide (w.core = v.core ∧ w.uid = v.uid))) ++ [{ v with gated := true }] }
    else (s.modPart v.part fun x => { x with storeDone := x.storeDone.set key (had ++ [a.index]) }).saveDone v

/-- The SAVEs that wait for acknowledgements on a queue pair, the oldest WRITE first. -/
def savesOn (s : State) (qpn : Nat) : List Save := s.saves.filter fun v => (v.store.map (·.qpn)) == some qpn

/-- The host acknowledges the n oldest RDMA WRITEs that SAVEs wait for on a queue pair. -/
def savesAcked (s : State) (qpn n : Nat) : State := ((s.savesOn qpn).take n).foldl storeAcked s

/-- A queue pair has failed: its SAVEs complete without the trailer, each with its record (R457). -/
def savesFailed (s : State) (qpn : Nat) : State :=
  (s.savesOn qpn).foldl (fun t v => (t.storeFailed v.part qpn v.step).saveDone v) s

/-! ### Recovery loads: bytes into a shard's extents (R468) -/

/-- The address of an area byte among a slot's extents. -/
def extentVa (s : State) (p slot off : Nat) : Option Nat :=
  ((s.slotExtents p slot).find? fun x => decide (x.1 ≤ off) && decide (off < x.1 + x.2.1)).map fun x => x.2.2 + (off - x.1)

/-- Bytes stored by the keeper at a partition's addresses. -/
def keeperStore (s : State) (p va : Nat) (bs : List Byte) : State :=
  match (s.part p).img with
  | none => s
  | some im =>
    let ps := piecesOf im.pages 0 va bs.length
    (ps.foldl (fun (a : State × List Byte) x =>
      ((a.1.writePlace x.place x.addr (a.2.take x.len)).1, a.2.drop x.len)) (s.trafficAll serviceClass (spansOf ps), bs)).1

def loadKey (p shard : Nat) : Nat := p * 2 ^ 20 + shard

/-- Served data of a load from source `src` (2 the mirror, 4 the cartridge). -/
def servedData (s : State) (src p shard : Nat) (step : Word) (off : Nat) (bs : List Byte) : State :=
  let k := loadKey p shard
  let l := s.job.loads.get (0, 0) k
  match s.entryOf p shard with
  | none => s
  | some m =>
    if l.1 = src ∧ s.job.resume = some step then
      match s.extentVa p m.slot.toNat off with
      | none => s
      | some va =>
        let t := s.keeperStore p va bs
        { t with job := { t.job with loads := t.job.loads.set k (src, l.2 + bs.length) } }
    else s

/-! ### Receiving (R458) -/

/-- The parts of a message of this chapter. -/
structure SaveMsg where
  part  : Nat
  phase : Nat
  pin   : Bool
  gen   : Nat
  shard : Nat
  step  : Word
  off   : Nat
  data  : List Byte
  deriving DecidableEq, Repr

def parseSave (m : Msg) : SaveMsg :=
  ⟨m.tag.toNat / 2 ^ 28, m.tag.toNat % 16, m.tag.getLsbD 4, be m.data 0 4 / 2 ^ 20, be m.data 0 4 % 2 ^ 20, BitVec.ofNat 32 (be m.data 4 4),
   be m.data 8 8, m.data.drop 16⟩

/-- A message of a type from a port's buffer; one of another generation is dropped and counted (R385, R458). -/
def takeSave (s : State) (p mtype : Nat) : State × Option (Msg × SaveMsg) :=
  match s.takeInbox p fun m => m.type == mtype with
  | none => (s, none)
  | some (m, t) =>
    let q := parseSave m
    if q.gen = s.collGen then (t, some (m, q)) else (t.bump .collErr [p / 2] 15 0, none)

/-- MIRROR_WRITE: data for a mirror area that this module keeps. -/
def mirrorWrite (s : State) (p : Nat) : State :=
  let r := s.takeSave p 0x10
  match r.2 with
  | none => r.1
  | some (_, q) =>
    match r.1.entryOf q.part q.shard with
    | none => r.1.bump .collErr [p / 2] 15 0
    | some m =>
      if m.partner = r.1.moduleIx then
        let t := r.1
        let len := t.areaLen q.part m.slot.toNat
        let addr := t.bufAddr m.resFrame.toNat len q.step
        if q.off + q.data.length ≤ len then
          let w := t.reserveWrite 3 (addr + q.off) q.data
          if w.2 then (w.1.noteBuf q.part q.shard false addr len q.step q.data.length (w.1.slotBytes q.part m.slot.toNat)).settleMirror
          else w.1
        else t
      else r.1.bump .collErr [p / 2] 15 0

/-- Bytes of the slow tier for the keeper, in the service class: none where a granule cannot be corrected, which is recorded for the
reader kind (R323, R328, R468). -/
def reserveRead (s : State) (a n kind : Nat) : State × Option (List Byte) :=
  let r := (s.traffic serviceClass true a n).serviceRead kind true a n
  (r.1, if r.2.2.isEmpty then some (r.2.1.map fun b => b.getD 0) else none)

/-- MIRROR_SERVE: a request is answered from a buffer that holds the step; served data goes to its load. -/
def mirrorServe (s : State) (p : Nat) : State :=
  let r := s.takeSave p 0x11
  match r.2 with
  | none => r.1
  | some (m, q) =>
    if q.phase = 1 then
      let n := be q.data 0 8
      match r.1.localBuf q.part q.shard q.step with
      | none => r.1
      | some b =>
        if q.off + n ≤ b.len then
          let x := r.1.reserveRead (b.addr + q.off) n 3
          match x.2 with
          | none => x.1
          | some bs => x.1.sendData q.part m.src 0x11 1 2 0 q.shard q.step q.off bs .plain
        else r.1
    else if q.phase = 2 then r.1.servedData 2 q.part q.shard q.step q.off q.data
    else r.1

/-! ### The cartridge (R455, R570) -/

def cartState (s : State) : Nat := s.regF .cartStatus [] 2 0

/-- CART_WEAR shows the module's figure, and a cartridge that has reached its end of life is WORN (R570, R574). -/
def cartWorn (s : State) : State :=
  let t := s.setRegF .cartWear [] 31 0 (min (s.cart.written / 10000000000) 0xFFFFFFFF)
  if t.cartState = 3 ∧ (40000000000000000 ≤ t.cart.written ∨ 43830 ≤ t.regF .cartWear [] 63 32) then t.setRegF .cartStatus [] 2 0 4 else t

/-- Bytes read from the cartridge in the slot: what one that has not been authenticated holds is free (R570; log 33). -/
def cartGet (s : State) (a n : Nat) : List Byte :=
  if s.cart.blind then (List.range n).map fun i => Config.cartByte s.cart.inserts (a + i) else readBytes s.cart.data a n

/-- Bytes stored on the cartridge. -/
def cartPut (s : State) (a : Nat) (bs : List Byte) : State :=
  { s with cart := { s.cart with data := writeBytes s.cart.data a bs, written := s.cart.written + bs.length } }

/-- The unit of slot j of a shard (R455). -/
def ckUnit (s : State) (p : Nat) (m : MapEntry) (j : Nat) : Nat := m.ckUnit.toNat + j * (s.areaLen p m.slot.toNat / mib2 + 1)

/-- Units on a cartridge of 30.72 TB (R568). -/
def cartUnits : Nat := 14648437

/-- The rotating slot that a checkpoint of a step goes to: the one already filling for it, else an empty or incomplete one, else the
older (R455). -/
def ckSlot (s : State) (p shard : Nat) (m : MapEntry) (step : Word) : Nat :=
  let h := fun j => s.cart.heads.find? fun q => q.1 == s.ckUnit p m j && q.2.part == p && q.2.shard == shard
  match h 0, h 1 with
  | none, none => 0
  | some a, none => if a.2.step = step ∧ a.2.complete = false then 0 else 1
  | none, some b => if b.2.step = step ∧ b.2.complete = false then 1 else 0
  | some a, some b =>
    if a.2.step = step ∧ a.2.complete = false then 0
    else if b.2.step = step ∧ b.2.complete = false then 1
    else if a.2.complete = false then 0
    else if b.2.complete = false then 1
    else if gateReached a.2.step b.2.step then 1 else 0

/-- Is a checkpoint of this step under way in its slot? -/
def ckFilling (s : State) (p shard : Nat) (m : MapEntry) (step : Word) : Bool :=
  s.cart.heads.any fun q => q.1 == s.ckUnit p m (s.ckSlot p shard m step) && q.2.part == p && q.2.shard == shard && q.2.step == step &&
    (q.2.jobgen == ((s.mapOf p).map (·.jobgen)).getD 0) && !q.2.complete

/-- The header in a slot's first unit (R455): its fields in their order, little-endian (log 53). -/
def headBytes (h : CkHead) : List Byte :=
  leBytes 4 0x434B5054 ++ leBytes 4 h.shard ++ leBytes 4 h.step.toNat ++ leBytes 4 h.jobgen.toNat ++ leBytes 8 h.build.toNat ++
  leBytes 4 (if h.complete then 1 else 0)

/-- A slot's header in the module's own table, and on the cartridge: cleared as its checkpoint begins, written last (R455). -/
def putHead (s : State) (u : Nat) (h : CkHead) (begins : Bool) : State :=
  let t := if h.complete then s.cartPut (u * mib2) (headBytes h) else if begins then s.cartPut (u * mib2) (fill 28 0) else s
  { t with cart := { t.cart with heads := t.cart.heads.set u h } }

/-- Checkpoint data for a slot of this module's cartridge: the header is written last, and a pinned checkpoint is copied to slot 2. -/
def ckStore (s : State) (q : SaveMsg) (m : MapEntry) : State :=
  let p := q.part
  let len := s.areaLen p m.slot.toNat
  let j := s.ckSlot p q.shard m q.step
  let u := s.ckUnit p m j
  let gen := ((s.mapOf p).map (·.jobgen)).getD 0
  let had := (s.cart.heads.find? fun h => h.1 == u && h.2.step == q.step && (h.2.jobgen == gen) && !h.2.complete).map (·.2.got)
  let got := had.getD 0 + q.data.length
  let full := decide (s.slotBytes p m.slot.toNat ≤ got)
  let head : CkHead := ⟨p, q.shard, q.step, gen, s.reg .keepPartBuild [p], got, full⟩
  let t := s.cartPut ((u + 1) * mib2 + q.off) q.data
  let t := t.putHead u head had.isNone
  let t := if full && q.pin then
      let v := t.ckUnit p m 2
      (t.cartPut ((v + 1) * mib2) (readBytes t.cart.data ((u + 1) * mib2) len)).putHead v head false
    else t
  t.cartWorn

/-- Does a unit of the cartridge begin with the header of a complete checkpoint of a shard at a step (R455)? -/
def headShows (s : State) (shard : Nat) (step : Word) (u : Nat) : Bool :=
  let b := s.cartGet (u * mib2) 28
  le b 0 4 == 0x434B5054 && le b 4 4 == shard && le b 8 4 == step.toNat && le b 24 4 == 1

/-- A complete slot of a shard at a step on this module's cartridge, by its data's first byte: of the module's own table, or of what stands on a
cartridge that has not been authenticated. -/
def ckHolds (s : State) (p shard : Nat) (step : Word) : Option Nat :=
  if s.cart.present && (s.cartState == 2 || s.cartState == 3 || s.cartState == 4) then
    if s.cart.blind then
      match s.entryOf p shard with
      | none => none
      | some m => (((List.range 3).map (s.ckUnit p m)).find? (s.headShows shard step)).map fun u => (u + 1) * mib2
    else (s.cart.heads.find? fun h => h.2.part == p && h.2.shard == shard && h.2.step == step && h.2.complete).map fun h => (h.1 + 1) * mib2
  else none

/-- CKPT_DONE (R455): the newest step complete for every shard this module stores; 0xFFFF_FFFF where none is. -/
def ckptDone (s : State) : Word :=
  let mine := s.job.maps.flatMap fun m => (m.2.entries.filter fun e => e.2.ckpt == s.moduleIx).map fun e => (m.1, e.1)
  let common := ((s.cart.heads.filter fun h => h.2.complete).map (·.2.step)).filter fun n => mine.all fun x => (s.ckHolds x.1 x.2 n).isSome
  if mine.isEmpty then noStep
  else
    (common.foldl (fun (a : Option Word) n => match a with
      | none => some n
      | some k => if gateReached n k then some n else some k) none).getD noStep

/-- CKPT_XFER. -/
def ckptXfer (s : State) (p : Nat) : State :=
  let r := s.takeSave p 0x20
  match r.2 with
  | none => r.1
  | some (m, q) =>
    let t := r.1
    let ph := q.phase % 8
    let last := decide (8 ≤ q.phase)
    if ph = 0 ∧ q.data.isEmpty then
      match t.saves.find? fun v => v.dest == 1 && v.part == q.part && v.shard == q.shard && v.step == q.step &&
          decide (v.areaOff ≤ q.off ∧ q.off < v.areaOff + v.data.length) with
      | none => t
      | some v => t.saveDone v
    else if ph = 0 then
      match t.entryOf q.part q.shard with
      | none => t.bump .collErr [p / 2] 15 0
      | some e =>
        if e.ckpt = t.moduleIx then
          let len := t.areaLen q.part e.slot.toNat
          let may := t.cartState == 3 || (t.cartState == 4 && t.ckFilling q.part q.shard e q.step)
          let fits := decide (q.off + q.data.length ≤ len) && decide (t.ckUnit q.part e 3 ≤ cartUnits)
          let t := if may && fits then t.ckStore q e else if last then t.ckptRefused q.part q.step else t
          if last then
            t.sendRoute (t.routeOf q.part m.src 3) 0x20 m.src (BitVec.ofNat 32 (q.part * 2 ^ 28)) (t.subHeader q.shard q.step q.off) .plain
          else t
        else t.bump .collErr [p / 2] 15 0
    else if ph = 1 then
      match t.ckHolds q.part q.shard q.step with
      | none => t
      | some a => t.sendData q.part m.src 0x20 3 2 0 q.shard q.step q.off (t.cartGet (a + q.off) (be q.data 0 8)) .plain
    else if ph = 2 then t.servedData 4 q.part q.shard q.step q.off q.data
    else t

end State

def isSave (e : Entry) (dest : Nat) : Bool := e.opcode == 0x78 && getF e.op 43 42 == dest

def execSaveMirror (c : CoreId) (s : State) : Out :=
  .next (s.settle (s.fireWhen c 5 (s.strmAccepts c) (fun e => isSave e 0) fun t e => t.fireSaveMirror c e))
def execMirrorGateOpen (c : CoreId) (uid : Nat) (s : State) : Out := .next (s.settle (s.gateOpen c uid))
def execSaveCartridge (c : CoreId) (s : State) : Out :=
  .next (s.settle (s.fireWhen c 5 (s.strmAccepts c) (fun e => isSave e 1) fun t e => t.fireSaveCartridge c e))
def execSaveStore (c : CoreId) (s : State) : Out :=
  .next (s.settle (s.fireWhen c 5 (s.strmAccepts c) (fun e => isSave e 2) fun t e => t.fireSaveStore c e))
def execMirrorWrite (p : PortId) (s : State) : Out := .next (s.settle (s.mirrorWrite p))
def execMirrorServe (p : PortId) (s : State) : Out := .next (s.settle (s.mirrorServe p))
def execCkptXfer (p : PortId) (s : State) : Out := .next (s.settle (s.ckptXfer p))

end Sys2Proof.Machine
end

