-- ==== Sys2Proof/Machine/Job.lean ====
section
/-! DEFINITION. The job record, heartbeats and roles, and recovery (R459-R470, R472, R474-R477). -/

namespace Sys2Proof.Machine

/-! ### The map -/

/-- A map entry's 20 bytes (R460). -/
def mapBytes (e : MapEntry) : List Byte :=
  beBytes 2 e.holder.toNat ++ beBytes 2 e.partner.toNat ++ beBytes 2 e.ckpt.toNat ++ [e.slot, 0] ++ beBytes 4 e.resFrame.toNat ++
  beBytes 4 e.homeFrame.toNat ++ beBytes 4 e.ckUnit.toNat

/-- A number put into an ascending list, once. -/
def putIn (m : Nat) : List Nat → List Nat
  | [] => [m]
  | x :: t => if m < x then m :: x :: t else if m = x then x :: t else x :: putIn m t

/-- Numbers once each, ascending. -/
def setOf (l : List Nat) : List Nat := l.foldr putIn []

namespace State

/-! ### What the record says -/

def jobParts (s : State) : List Nat := s.job.maps.map (·.1)

/-- A job partition is halted, and not being reset. -/
def jobHalted (s : State) : Bool := s.jobParts.any fun p => s.pstate p == 3 && !(s.part p).halting && !(s.resets.any fun r => r.part == p)

def jobRestarting (s : State) : Bool := s.jobParts.any fun p => (s.coresOf p).any fun c => (s.cl (c / 16)).restarting

/-- JOB_STATUS.STATE as it stands: a job partition's halt makes RUN HALTED, and RESTART while its cluster restarts (R467); after a
stack trip the module is FAILED (R335, R465). -/
def jobState (s : State) : Nat :=
  match s.regF .jobStatus [] 27 24 with
  | 0 => 0
  | 1 => if s.tripped then 8 else if s.jobHalted then (if s.jobRestarting then 6 else 2) else 1
  | 2 => if s.tripped then 8 else if s.jobRestarting then 6 else 2
  | n => if s.tripped then 8 else n

/-- PART_RESET (R586): BUSY while recovery is the coordinator's. -/
def partReset (s : State) (sid seq : Word) (p : Nat) : State :=
  let mb := 0x10 + p
  if s.committing p then s.reply sid seq mb 6 []
  else if s.pstate p = 0 then s.reply sid seq mb 8 []
  else if s.jobState ≠ 0 ∧ s.jobState ≠ 1 then s.reply sid seq mb 6 []
  else
    let t := (s.haltPart p 0xFFFFFFFE#32).closeRegions p
    { t with resets := t.resets ++ [⟨p, none, some (sid, seq), false⟩] }

def setJobState (s : State) (n : Nat) : State := s.setRegF .jobStatus [] 27 24 n
def role (s : State) : Nat := s.regF .jobStatus [] 31 28
def jobGen (s : State) : Word := BitVec.ofNat 32 (s.regF .jobStatus [] 63 32)

/-- The newest generation committed or declared. -/
def genNow (s : State) : Word := if s.jobGen.toNat < s.job.declGen.toNat then s.job.declGen else s.jobGen

/-- PERIOD in force: as the last heartbeat took it (R475). -/
def period (s : State) : Nat := s.job.hbPeriod

/-- The modules of a set of maps. -/
def modulesOf (ms : FMap JobMap) : List Nat :=
  setOf (ms.flatMap fun m => m.2.entries.flatMap fun e => [e.2.holder.toNat, e.2.partner.toNat, e.2.ckpt.toNat])

/-- The modules named with this one in an entry of a set of maps. -/
def namedWith (s : State) (ms : FMap JobMap) : List Nat :=
  (setOf (ms.flatMap fun m => m.2.entries.flatMap fun e =>
    let l := [e.2.holder.toNat, e.2.partner.toNat, e.2.ckpt.toNat]
    if hasN l s.me then l else [])).filter fun m => m != s.me

/-- The other modules of the job that are not lost. -/
def others (s : State) : List Nat := (modulesOf s.job.maps).filter fun m => m != s.me && !hasN s.job.lost m

def noPeer : Peer := ⟨0, 0, 0, 0, 0, 0, 0, noStep, noStep, 0⟩
def peer (s : State) (m : Nat) : Peer := s.job.peers.get noPeer m

/-! ### Roles (R463) -/

/-- The tree with the lowest id of the lowest-numbered job partition, and its map. -/
def roleTree (s : State) : Option (Tree × JobMap) :=
  match s.job.maps with
  | [] => none
  | (p, m) :: _ =>
    match (s.part p).img with
    | none => none
    | some im => (im.trees.foldl (fun (a : Option Tree) t => match a with
        | none => some t
        | some b => if t.id < b.id then some t else a) none).map fun t => (t, m)

def holderOf (m : JobMap) (shard : Nat) : Option Nat := (m.entries.find? fun e => e.1 == shard).map fun e => e.2.holder.toNat

def coordOf (s : State) : Option Nat :=
  match s.roleTree with
  | none => none
  | some (t, m) => (t.nodes.findIdx? fun n => n.1.isNone).bind fun i => holderOf m i

/-- The deputy: the holder of the root's lowest-RANK child elsewhere, else of the lowest-numbered shard elsewhere. -/
def deputyOf (s : State) : Option Nat :=
  match s.roleTree, s.coordOf with
  | some (t, m), some c =>
    let root := (t.nodes.findIdx? fun n => n.1.isNone).getD 0
    let away := fun i => match holderOf m i with | some h => h != c | none => false
    let kids := ((List.range t.nodes.length).filter fun i => decide ((t.nodes.getD i (none, 0)).1 = some root) && away i)
    let best := kids.foldl (fun (a : Option Nat) i => match a with
      | none => some i
      | some j => if (t.nodes.getD i (none, 0)).2 < (t.nodes.getD j (none, 0)).2 then some i else a) none
    (best <|> (List.range t.nodes.length).find? away).bind fun i => holderOf m i
  | _, _ => none

/-! ### Heartbeats (R464) -/

/-- MAPCRC over the committed entries in partition and shard order. -/
def mapCrc (s : State) : Word := BitVec.ofNat 32 (crc32 (s.job.maps.flatMap fun m => m.2.entries.flatMap fun e => mapBytes e.2))

/-- Up to 12 modules of a list, from the part that this heartbeat carries. -/
def lostField (l : List Nat) (hseq : Nat) : List Byte :=
  let n := (l.length + 11) / 12
  let k := if n = 0 then 0 else hseq % n
  let part := (l.drop (12 * k)).take 12
  (part ++ List.replicate (12 - part.length) 0xFFFF).flatMap fun m => beBytes 2 m

def beatBytes (s : State) : List Byte :=
  let co := s.role == 1
  let w := fun (b : Bool) (v : Nat) => beBytes 4 (if b then v else 0)
  beBytes 4 s.job.hseq.toNat ++ beBytes 4 s.genNow.toNat ++ [BitVec.ofNat 8 s.role, BitVec.ofNat 8 s.jobState, s.feedA.strap, s.feedB.strap] ++
  beBytes 4 s.job.mirrorDone.toNat ++ beBytes 4 s.ckptDone.toNat ++ w co s.commitM.toNat ++ w co s.commitC.toNat ++
  beBytes 4 (s.job.resume.getD noStep).toNat ++ [BitVec.ofNat 8 s.job.layer, if s.job.go then 1 else 0] ++ beBytes 2 s.job.lost.length ++
  lostField s.job.lost s.job.hseq.toNat ++ beBytes 4 s.mapCrc.toNat

def beatTargets (s : State) : List Nat :=
  let l := s.job.coord.toList ++ s.job.deputy.toList ++ (if s.role = 1 then modulesOf s.job.maps else []) ++ s.namedWith s.job.maps ++
    s.namedWith s.job.received
  (setOf l).filter fun m => m != s.me

/-- A round of heartbeats: to every module that R464 names. -/
def sendBeats (s : State) : State :=
  let s := { s with job := { s.job with hseq := s.job.hseq + 1 } }
  s.beatTargets.foldl (fun (t : State) m =>
    let d := BitVec.ofNat 16 m
    t.sendRoute (t.anyRoute d 0) 0x31 d 0 t.beatBytes .plain) s

/-! ### Declarations (R465-R467) -/

/-- The record of a halt for the job (R467). -/
def peerRec (s : State) (p : Nat) : FaultRec := s.haltRec p 0x0A noIndex

/-- The running job partitions halt with COLLECTIVE. -/
def haltJob (s : State) : State :=
  let run := s.jobParts.filter s.isRunning
  peerFaults 64 (run.foldl (fun (t : State) p => t.haltOne p (t.peerRec p)) s) run

/-- Is a message SAVE data of this module: mirror data, or data for a checkpoint module (R458)? -/
def isSaveData (m : Msg) : Bool :=
  (m.type == 0x10 || (m.type == 0x20 && m.tag.toNat % 8 == 0)) && decide (16 < m.data.length)

/-- FAILED: the job partitions halt, and no SAVE data is sent any more, also of what waits for a port (R466). -/
def failJob (s : State) : State :=
  let t := s.haltJob
  let t := { t with saves := [], waiting := t.waiting.filter fun w => !(w.origin.isNone && isSaveData w.msg) }
  (t.setJobState 8).record 3 0x0041 none 0xFFFF none none (beBytes 4 t.genNow.toNat)

/-- A declaration takes effect on this module (R467). -/
def declared (s : State) (gen : Word) (lost : List Nat) : State :=
  let fresh := lost.filter fun m => !hasN s.job.lost m
  let s := s.bumpBy .jobErr [] 15 0 fresh.length
  let s := { s with job := { s.job with declGen := gen, lost := lost, resume := none, layer := 0, go := false, mismatch := false,
                                        asked := none, loads := [] } }
  let s := s.dropResets (hasN s.jobParts) 6
  let s := s.peerLoss ((lost.filter fun m => m != s.me).map (BitVec.ofNat 16))
  if hasN lost s.me then (if s.regF .jobStatus [] 27 24 = 8 then s else s.failJob)
  else if s.regF .jobStatus [] 27 24 = 8 ∨ s.regF .jobStatus [] 27 24 = 7 then s
  else
    let s := s.haltJob
    (s.setJobState 2).record 2 0x0040 none 0xFFFF none none (beBytes 4 gen.toNat ++ lostField lost 0)

/-- The coordinator declares a recovery: JOBGEN rises, lost modules still mapped stay in the list, and it is sent at once (R465). -/
def declare (s : State) (new : List Nat) : State :=
  let named := modulesOf s.job.maps
  ((s.declared (s.genNow + 1) (setOf ((s.job.lost.filter fun m => hasN named m) ++ new)))).sendBeats

/-- A module found lost: declared by the coordinator, once (R465, R472). -/
def lose (s : State) (m : Nat) : State :=
  if s.role = 1 ∧ hasN (modulesOf s.job.maps) m ∧ hasN s.job.lost m = false ∧ m ≠ s.me then s.declare [m] else s

/-! ### Commits of generations (R454, R455) -/

/-- COMMIT_M as this module now knows it. Once it reaches the first generation under a partition's map, the copies lie with that map's
holders and partners, and the buffers retained for the partition go (R454; log 31). -/
def setCommitM (s : State) (v : Word) : State :=
  let passed := fun (p : Nat) => decide (v ≠ s.commitM) && (!s.job.mapStep.has p || gateReached v (s.job.mapStep.get 0 p))
  let new := (s.job.maps.filter fun m => passed m.1).flatMap fun m => m.2.entries.map fun e =>
    (loadKey m.1 e.1, [e.2.holder.toNat, e.2.partner.toNat])
  let s' := s.setRegF .jobCommits [] 63 32 v.toNat
  { s' with job := { s'.job with retained := s.job.retained.filter fun (b : Buf) => !passed b.part,
                                 sites := new.foldl (fun (m : FMap (List Nat)) x => m.set x.1 x.2) s.job.sites } }

def setCommitC (s : State) (v : Word) : State :=
  if v = s.commitC then s
  else
    let s := s.setRegF .jobCommits [] 31 0 v.toNat
    { s with job := { s.job with ckSites := s.job.maps.flatMap fun m => m.2.entries.map fun e =>
        (loadKey m.1 e.1, (e.2.ckpt.toNat, e.2.ckUnit.toNat)) } }

/-- The smaller of two steps. -/
def minStep (a b : Word) : Word := if gateReached a b then b else a

/-- The coordinator's COMMIT_M and COMMIT_C over the survivors: COMMIT_M never falls, and COMMIT_C waits for every module that the
maps name for checkpoints to report one (log 31). -/
def gatherCommits (s : State) : State :=
  let keeps := fun m => s.job.maps.any fun q => q.2.entries.any fun e => e.2.holder.toNat == m || e.2.partner.toNat == m
  let ms := (s.others.filter keeps).map fun m => (s.peer m).mirrorDone
  let own := if keeps s.me then [s.job.mirrorDone] else []
  let s := match ms ++ own with
    | [] => s
    | x :: t =>
      let v := t.foldl minStep x
      if gateReached v s.commitM then s.setCommitM v else s
  let stores := fun m => s.job.maps.any fun q => q.2.entries.any fun e => e.2.ckpt.toNat == m
  let cs := (if stores s.me then [s.ckptDone] else []) ++ (s.others.filter stores).map fun m => (s.peer m).ckptDone
  match cs with
  | [] => s
  | x :: t => if cs.any fun w => w == noStep then s else s.setCommitC (t.foldl minStep x)

/-! ### Recovery (R467-R470) -/

def alive (s : State) (m : Nat) : Bool := !hasN s.job.lost m

/-- Every shard of the job. -/
def shards (s : State) : List (Nat × Nat) := s.job.maps.flatMap fun m => (List.range m.2.shards).map fun k => (m.1, k)

/-- Does module m hold a shard's layer-1 copy at a step: every site holds COMMIT_M, and what its MIRROR_DONE shows; of another step this module
knows its own buffers, and what stands elsewhere is free (R454, R468; log 31)? -/
def keepsMirror (s : State) (p shard : Nat) (n : Word) (m : Nat) : Bool :=
  s.alive m && (n == s.commitM ||
    (if m = s.me then (s.localBuf p shard n).isSome
     else (s.peer m).mirrorDone == n || Config.copyElsewhere m p shard n false))

/-- A living module with a shard's layer-1 copy at a step. -/
def site (s : State) (p shard : Nat) (n : Word) : Option Nat := (s.job.sites.get [] (loadKey p shard)).find? (s.keepsMirror p shard n)

/-- The living checkpoint module and the unit of a shard whose slots hold a step, as for `keepsMirror` (R455, R468). -/
def ckSite (s : State) (p shard : Nat) (n : Word) : Option (Nat × Nat) :=
  if s.job.ckSites.has (loadKey p shard) then
    let q := s.job.ckSites.get (0, 0) (loadKey p shard)
    if s.alive q.1 && (n == s.commitC ||
        (if q.1 = s.me then (s.ckHolds p shard n).isSome
         else (s.peer q.1).ckptDone == n || Config.copyElsewhere q.1 p shard n true)) then some q else none
  else none

/-- The resume step and layer by the first rule that holds (R468). -/
def choose (s : State) : Option Word × Nat :=
  if s.shards.all fun x => (s.site x.1 x.2 s.commitM).isSome then (some s.commitM, 1)
  else if s.commitC ≠ noStep ∧ (s.shards.all fun x => (s.ckSite x.1 x.2 s.commitC).isSome || (s.site x.1 x.2 s.commitC).isSome) = true then
    (some s.commitC, 2)
  else (none, 3)

/-- Where a shard's load comes from: the first source that holds the step (R468): 1 a buffer here (home, mirror, or
retained when no mirror is elsewhere), 2 a mirror elsewhere, 3 a cartridge here, 4 one elsewhere, 5 the shared store. -/
def sourceOf (s : State) (p shard : Nat) (n : Word) : Nat :=
  let kept := s.job.bufs.any fun b => b.part == p && b.shard == shard && b.full && b.step == n
  if kept then 1
  else if (s.site p shard n).any fun m => m != s.me then 2
  else if (s.localBuf p shard n).isSome then 1
  else if (s.ckHolds p shard n).isSome then 3
  else if (s.ckSite p shard n).any fun q => q.1 != s.me then 4
  else 5

/-- A shard's load starts: requests for what lies elsewhere. -/
def startLoad (s : State) (p shard : Nat) (m : MapEntry) (n : Word) : State :=
  let src := s.sourceOf p shard n
  let s := { s with job := { s.job with loads := s.job.loads.set (loadKey p shard) (src, 0) } }
  let ext := s.slotExtents p m.slot.toNat
  let ask := fun (t : State) (dst mtype cls : Nat) =>
    let d := BitVec.ofNat 16 dst
    ext.foldl (fun (u : State) x =>
      u.sendRoute (u.routeOf p d cls) mtype d (BitVec.ofNat 32 (p * 2 ^ 28 + 1)) (u.subHeader shard n x.1 ++ beBytes 8 x.2.1) .plain) t
  if src = 2 then ask s ((s.site p shard n).getD 0) 0x11 1
  else if src = 4 then ask s (((s.ckSite p shard n).map (·.1)).getD 0) 0x20 3
  else if src = 5 then
    match (s.part p).store with
    | none => s
    | some st => ext.foldl (fun (u : State) x => u.qpOut st.qpn (.read st.rkey (st.base + shard * st.stride + x.1) x.2.1)) s
  else s

/-- RESTORING: every shard that this module holds is loaded; with none it is RESTORED. -/
def startRestore (s : State) (n : Word) (layer : Nat) : State :=
  let mine := s.job.maps.flatMap fun m => (m.2.entries.filter fun e => e.2.holder == s.moduleIx).map fun e => (m.1, e.1, e.2)
  let s := { s with job := { s.job with resume := some n, layer := layer, asked := none, loads := [] } }
  let t := mine.foldl (fun (t : State) x => t.startLoad x.1 x.2.1 x.2.2 n) (s.setJobState 4)
  if mine.isEmpty then t.setJobState 5 else t

/-- GO: the job partitions are reset to RESUME + 1, and generations past RESUME count no more; layer-1 copies stand again only with the
first generation committed after a resume from a deeper layer (R469, R470). -/
def goReset (s : State) : State :=
  match s.job.resume with
  | none => s
  | some n =>
    let s := (s.bump .jobErr [] 31 16).setRegF .jobStatus [] 1 0 s.job.layer
    let s := if s.job.layer = 2 then s.bump .jobErr [] 47 32 else if s.job.layer = 3 then s.bump .jobErr [] 63 48 else s
    let again := s.resets.filter fun r => !hasN s.jobParts r.part
    let s := { s with resets := again ++ s.jobParts.map fun p => (⟨p, some (n + 1), none, false⟩ : Reset) }
    let keep := fun (b : Buf) => gateReached n b.step
    let done := if gateReached s.job.mirrorDone n then n else s.job.mirrorDone
    { s.setJobState 1 with job := { s.job with lastResume := some n, mapStep := s.jobParts.map (fun p => (p, n + 1)), resume := none, layer := 0, go := false, lost := [],
                                               mirrorDone := done, sites := if s.job.layer = 1 then s.job.sites else [],
                                               bufs := s.job.bufs.filter keep, retained := s.job.retained.filter keep } }

/-- Has a step barrier passed beyond the last resume (R470)? -/
def passedResume (s : State) (n : Word) : Bool :=
  s.jobParts.any fun p => decide ((s.part p).step ≠ n + 1) && gateReached (s.part p).step (n + 1)

/-- The coordinator broadcasts RESUME: at most three recoveries start at one step with no barrier passing beyond it, the ones given up before GO
among them (R470). -/
def resumeAt (s : State) (n : Word) (layer : Nat) : State :=
  let again := s.job.lastTry == some n && !(s.job.lastResume.isSome && s.passedResume n)
  let count := if again then s.job.recoveries + 1 else 1
  if 3 < count then (s.setJobState 2).record 2 0x0044 none 0xFFFF none none (beBytes 4 n.toNat)
  else
    let s := { s with job := { s.job with recoveries := count, lastTry := some n, lastResume := none, resume := some n, layer := layer } }
    (s.startRestore n layer).sendBeats

/-- What the coordinator does when it looks at the survivors' reports (R465, R467). -/
def coordinate (s : State) : State :=
  if s.role ≠ 1 ∨ s.job.maps.isEmpty ∨ s.tripped = true then s
  else
    let s := s.gatherCommits
    let ms := s.others
    let st := s.jobState
    let all := fun (n : Nat) => ms.all fun m => (s.peer m).state == n && (s.peer m).jobgen == s.genNow
    if s.regF .jobStatus [] 27 24 = 1 then
      if st ≠ 1 ∨ (ms.any fun m => ((s.peer m).state == 2 || (s.peer m).state == 6) && (s.peer m).jobgen == s.genNow) = true then s.declare [] else s
    else if st = 3 ∧ s.job.mismatch = false ∧ all 3 = true then
      if ms.all fun m => (s.peer m).mapcrc == s.mapCrc then
        match s.choose, s.job.asked with
        | (some n, l), _ => s.resumeAt n l
        | (none, _), some q => s.resumeAt q.1 q.2
        | (none, _), none => if s.job.layer = 3 then s else { s with job := { s.job with layer := 3 } }.sendBeats
      else { s with job := { s.job with mismatch := true } }.record 3 0x0043 none 0xFFFF none none []
    else if st = 5 ∧ s.job.go = false ∧ all 5 = true then
      ({ s with job := { s.job with go := true } }.sendBeats).goReset
    else s

/-- HEARTBEAT_SEND: PERIOD as it stands applies from this heartbeat on (R475). -/
def heartbeatSend (s : State) : State :=
  (({ s with job := { s.job with hbPeriod := s.regF .jobHb [] 31 0 } } : State).coordinate).sendBeats

/-- What a member does with a ROLE 1 heartbeat of its generation (R467). -/
def follow (s : State) (b : List Byte) : State :=
  let n := BitVec.ofNat 32 (be b 0x1C 4)
  let layer := be b 0x20 1
  if s.jobState = 3 ∧ layer ≠ 0 ∧ n ≠ noStep then s.startRestore n layer
  else if s.jobState = 5 ∧ be b 0x21 1 = 1 then s.goReset
  else s

/-- A ROLE 1 heartbeat is heard, of whatever generation (R466); one of the coordinator that this module follows gives it COMMIT_M and COMMIT_C
(R476). -/
def hearRole1 (s : State) (src : Nat) (gen : Word) (b : List Byte) : State :=
  let s := { s with job := { s.job with role1 := s.tick } }
  if s.genNow.toNat < gen.toNat ∨ (gen = s.genNow ∧ s.role ≠ 1) then
    (({ s with job := { s.job with coord := some src } } : State).setCommitM (BitVec.ofNat 32 (be b 0x14 4))).setCommitC (BitVec.ofNat 32 (be b 0x18 4))
  else s

/-- The modules of a heartbeat's LOST field. -/
def lostOf (b : List Byte) : List Nat := ((List.range 12).map fun i => be b (0x24 + 2 * i) 2).filter fun m => m != 0xFFFF

/-- HEARTBEAT. -/
def heartbeat (s : State) (p : Nat) : State :=
  match s.takeInbox p fun m => m.type == 0x31 with
  | none => s
  | some (m, t) =>
    let b := m.data
    let src := m.src.toNat
    let gen := BitVec.ofNat 32 (be b 4 4)
    let role := be b 8 1
    let x : Peer := ⟨t.tick, BitVec.ofNat 32 (be b 0 4), gen, role, be b 9 1, b.getD 10 0, b.getD 11 0, BitVec.ofNat 32 (be b 0xC 4),
      BitVec.ofNat 32 (be b 0x10 4), BitVec.ofNat 32 (be b 0x3C 4)⟩
    let t := { t with job := { t.job with peers := t.job.peers.set src x } }
    if t.job.maps.isEmpty then t
    else
    let t := if role = 1 then t.hearRole1 src gen b else t
    if role = 1 ∧ t.genNow.toNat < gen.toNat then
      let t := { t with job := { t.job with deputy := if t.job.deputy = some src then none else t.job.deputy } }
      (if t.role = 1 then t.setRegF .jobStatus [] 31 28 0 else t).declared gen (setOf (lostOf b))
    else if role = 1 ∧ gen = t.genNow ∧ t.role ≠ 1 then
      let all := setOf (t.job.lost ++ lostOf b)
      let t := if all ≠ t.job.lost ∧ be b 0x22 2 ≠ t.job.lost.length then
          (let u := t.bumpBy .jobErr [] 15 0 (all.length - t.job.lost.length)
           let u := { u with job := { u.job with lost := all } }
           let v := u.peerLoss (((lostOf b).filter fun m => m != u.me).map (BitVec.ofNat 16))
           if hasN all v.me && v.regF .jobStatus [] 27 24 != 8 then v.failJob else v)
        else t
      if t.regF .jobStatus [] 27 24 = 8 ∨ t.regF .jobStatus [] 27 24 = 7 then t else t.follow b
    else if t.role = 1 ∧ be b 9 1 = 8 then t.lose src
    else t.coordinate

/-! ### Missed heartbeats (R465-R467) -/

/-- Ticks since the later of a module's last heartbeat and the last change of map or role. -/
def silence (s : State) (at' : Long) : Nat := min (s.tick - at').toNat (s.tick - s.job.since).toNat

/-- HEARTBEAT_MISSED. -/
def heartbeatMissed (s : State) (m : Nat) : State := if 3 * s.period ≤ s.silence (s.peer m).heard then s.lose m else s

/-- The deputy takes the coordinator's place and declares it lost (R466). -/
def takeOver (s : State) : State :=
  if s.role = 2 then
    let old := s.job.coord.toList
    let s := s.setRegF .jobStatus [] 31 28 1
    let s := { s with job := { s.job with coord := some s.me, deputy := none, since := s.tick } }
    s.declare old
  else s

/-- DEPUTY_TAKEOVER. -/
def deputyTakeover (s : State) : State :=
  match s.job.coord with
  | none => s
  | some c => if 3 * s.period ≤ s.silence (s.peer c).heard then s.takeOver else s

/-- ORPHAN_TIMEOUT. -/
def orphanTimeout (s : State) : State :=
  let st := s.regF .jobStatus [] 27 24
  if s.job.maps.isEmpty = false ∧ s.role ≠ 1 ∧ st ≠ 8 ∧ st ≠ 7 ∧ 10 * s.period ≤ s.silence s.job.role1 then
    let t := (s.haltJob).setJobState 7
    ({ t with job := { t.job with remapped := false } } : State).record 2 0x0042 none 0xFFFF none none []
  else s

/-! ### The end of a load (R468) -/

/-- An area's bytes go to the extents of its slot. -/
def spread (s : State) (p slot : Nat) (get : Nat → Nat → List Byte) : State :=
  (s.slotExtents p slot).foldl (fun (t : State) x => t.keeperStore p x.2.2 (get x.1 x.2.1)) s

def endLoad (s : State) (p shard : Nat) : State :=
  let s := { s with job := { s.job with loads := s.job.loads.erase (loadKey p shard) } }
  if s.job.loads.isEmpty then (s.setJobState 5).coordinate else s

/-- Bytes from the shared store, which the host holds: free (log 3). -/
def spreadFree (s : State) (p slot : Nat) : State :=
  (s.slotExtents p slot).foldl (fun (t : State) x =>
    let k := t.fresh
    { t.keeperStore p x.2.2 ((List.range x.2.1).map fun i => Config.freeByte k i) with fresh := k + 1 }) s

/-- SHARD_RESTORE_COMPLETE: a local source is copied here; a granule that cannot be corrected is recorded and the load takes its next
source. -/
def restoreDone (s : State) (p shard : Nat) : State :=
  match s.job.resume, s.entryOf p shard with
  | some n, some m =>
    if s.regF .jobStatus [] 27 24 ≠ 4 ∨ s.job.loads.has (loadKey p shard) = false then s
    else
      let l := s.job.loads.get (0, 0) (loadKey p shard)
      let slot := m.slot.toNat
      match l.1 with
      | 1 =>
        match s.localBuf p shard n with
        | none => s.startLoad p shard m n
        | some b =>
          let r := s.reserveRead b.addr b.len 7
          match r.2 with
          | none =>
            let drop := fun (l : List Buf) => l.filter fun (x : Buf) => x.addr != b.addr
            let t := { r.1 with job := { r.1.job with bufs := drop r.1.job.bufs, retained := drop r.1.job.retained } }
            t.startLoad p shard m n
          | some bs => (r.1.spread p slot fun o k => (bs.drop o).take k).endLoad p shard
      | 3 =>
        match s.ckHolds p shard n with
        | none => s.startLoad p shard m n
        | some a => (s.spread p slot fun o k => s.cartGet (a + o) k).endLoad p shard
      | 5 => (s.spreadFree p slot).endLoad p shard
      | _ => if s.slotBytes p slot ≤ l.2 then s.endLoad p shard else s
  | _, _ => s

/-! ### The job mailbox (R459-R461) -/

def shares (a0 b0 a1 b1 : Byte) : Bool := [a0, b0].any fun x => [a1, b1].any fun y => x == 0 || y == 0 || x == y

/-- The straps of a module, where known. -/
def straps (s : State) (m : Nat) : Option (Byte × Byte) :=
  if m = s.me then some (s.feedA.strap, s.feedB.strap)
  else if s.job.peers.has m then some ((s.peer m).feedA, (s.peer m).feedB) else none

def feedShared (s : State) (e : MapEntry) : Bool :=
  match s.straps e.holder.toNat, s.straps e.partner.toNat with
  | some a, some b => shares a.1 a.2 b.1 b.2
  | _, _ => false

def naming (s : State) (e : MapEntry) : Bool := hasN [e.holder.toNat, e.partner.toNat, e.ckpt.toNat] s.me

/-- This module's areas of a map: first frame and frames, shard and whether home. -/
def mapAreas (s : State) (p : Nat) (m : JobMap) : List (Nat × Nat × Nat × Bool) :=
  m.entries.flatMap fun e =>
    let n := 2 * (s.areaLen p e.2.slot.toNat / mib2)
    (if e.2.holder.toNat = s.me then [(e.2.homeFrame.toNat, n, e.1, true)] else []) ++
    (if e.2.partner.toNat = s.me then [(e.2.resFrame.toNat, n, e.1, false)] else [])

def disjoint : List (Nat × Nat) → Bool
  | [] => true
  | x :: t => t.all (fun y => decide (x.1 + x.2 ≤ y.1) || decide (y.1 + y.2 ≤ x.1)) && disjoint t

def frameRun (s : State) (b : Buf) : Nat × Nat := ((b.addr - s.reserveBase) / mib2, b.len / mib2)

/-- The buffers of the running map's areas that a new map releases. -/
def released (s : State) (p : Nat) (m : JobMap) : List Buf :=
  let kept := s.mapAreas p m
  s.job.bufs.filter fun b => b.part == p && b.full && !(kept.any fun a =>
    a.2.2.1 == b.shard && a.2.2.2 == b.home && decide (s.reserveBase + a.1 * mib2 ≤ b.addr) &&
    decide (b.addr < s.reserveBase + (a.1 + a.2.1) * mib2))

/-- The first failing reason of R461, in its order. -/
def commitReason (s : State) (p : Nat) (gen : Word) : Nat :=
  let m := if s.job.received.has p then s.job.received.get noMap p else noMap
  let es := m.entries.map (·.2)
  let trees := ((s.part p).img.map (·.trees)).getD []
  let mine := s.mapAreas p m
  let other := s.job.maps.flatMap fun q => if q.1 = p then [] else s.mapAreas q.1 q.2
  let keep := (s.job.retained ++ s.released p m).map s.frameRun
  let runs := (mine ++ other).map fun a => (a.1, a.2.1)
  let cksOf := fun (q : Nat) (l : FMap MapEntry) =>
    (l.filter fun e => e.2.ckpt.toNat == s.me).map fun e => (e.2.ckUnit.toNat, s.ckUnit q e.2 3 - e.2.ckUnit.toNat)
  let cks := cksOf p m.entries ++ s.job.maps.flatMap fun q => if q.1 = p then [] else cksOf q.1 q.2.entries
  let quiet := max 1000000 (2 * s.period)
  let cur := ((s.mapOf p).map (·.jobgen)).getD 0
  let rec' := hasN [2, 3, 4, 5, 6] s.jobState
  if m.jobgen ≠ gen ∨ m.shards = 0 ∨ ((List.range m.shards).any fun k => !m.entries.has k) = true then 1
  else if (s.part p).img.isNone ∨ (trees.any fun t => t.nodes.length != m.shards) = true then 2
  else if (m.entries.any fun a => m.entries.any fun b => a.1 != b.1 && a.2.holder == b.2.holder && a.2.slot == b.2.slot) = true ∨
      (es.any fun e => (s.slotExtents p e.slot.toNat).isEmpty) = true then 3
  else if (es.any fun e => e.partner == e.holder || e.ckpt == e.holder || e.ckpt == e.partner) = true then 4
  else if m.relaxed = false ∧ (es.any fun e => s.naming e && s.feedShared e) = true then 5
  else if (mine.any fun a => decide (s.reserveLen / mib2 < a.1 + a.2.1)) = true ∨ disjoint runs = false ∨
      (mine.any fun a => !(keep.all fun k => disjoint [(a.1, a.2.1), k])) = true then 6
  else if disjoint cks = false ∨ (cks.any fun c => decide (cartUnits < c.1 + c.2)) = true then 7
  else if ((s.namedWith [(p, m)]).any fun k => !(s.job.peers.has k && decide ((s.tick - (s.peer k).heard).toNat ≤ quiet))) = true then 8
  else if (if rec' then decide (gen ≠ s.job.declGen) else decide (gen.toNat ≤ cur.toNat)) = true then 9
  else 0

/-- Roles under the committed maps (R463). -/
def setRoles (s : State) : State :=
  let c := s.coordOf
  let d := s.deputyOf
  let r := if c = some s.me then 1 else if d = some s.me then 2 else 0
  { s.setRegF .jobStatus [] 31 28 r with job := { s.job with coord := c, deputy := d, since := s.tick, role1 := s.tick } }

/-- The pairings of a map that name this module and share a feed, once each. -/
def sharedPairs (s : State) (m : JobMap) : List (Nat × Nat) :=
  ((m.entries.filter fun e => s.naming e.2 && s.feedShared e.2).map fun e => (e.2.holder.toNat, e.2.partner.toNat)).foldl
    (fun l q => if l.any fun x => decide (x = q) then l else l ++ [q]) []

/-- RELAXED pairings that share a feed are recorded, and flagged while a committed map holds one (R462). -/
def flagFeeds (s : State) (m : JobMap) : State :=
  let t := s.setRegF .jobStatus [] 4 4 (if s.job.maps.any fun q => !(s.sharedPairs q.2).isEmpty then 1 else 0)
  let f := fun k => match s.straps k with | some x => [x.1, x.2] | none => [0, 0]
  (s.sharedPairs m).foldl (fun (t : State) q => t.record 0 0x0045 none 0xFFFF none none (f q.1 ++ f q.2)) t

/-- An accepted map replaces the running one (R461). The first generation that counts as one under it comes after every one that this module can
know to have begun under the old map: the one beyond COMMIT_M, and what its buffers hold (R454; log 31); a resume moves it (R470). -/
def commitMap (s : State) (p : Nat) (gen : Word) : State :=
  let m := s.job.received.get noMap p
  let out := s.released p m
  let first := s.job.maps.isEmpty
  let later := fun (a b : Word) => if gateReached a b then a else b
  let newest := (s.job.bufs.filter fun b => b.part == p).foldl (fun a b => later a b.step) s.commitM
  let from' := if s.job.maps.has p then later (s.commitM + 2) (newest + 1) else s.commitM + 1
  let s := { s with job := { s.job with maps := s.job.maps.set p m, retained := s.job.retained ++ out, mismatch := false,
                                        mapStep := s.job.mapStep.set p from',
                                        bufs := s.job.bufs.filter fun b => !(out.any fun o => o.addr == b.addr) } }
  let s : State := if first then
      let n := (((s.part p).img.map (·.stepStart)).getD 0) - 1
      { (s.setRegF .jobCommits [] 63 32 n.toNat) with job := { s.job with mirrorDone := n, mapStep := [(p, n + 1)] } }
    else s
  let s := (s.setRegF .collGen [] 11 0 gen.toNat).setRegF .jobStatus [] 63 32 gen.toNat
  let s := (s.setRegF .jobStatus [] 3 3 (if m.relaxed then 1 else 0)).flagFeeds m
  let s := s.setRoles
  let st := s.regF .jobStatus [] 27 24
  let whole : Bool := s.job.maps.all fun q => q.2.jobgen == gen
  let s : State := if st = 0 then s.setJobState 1
    else if (st == 2 || st == 8) && whole then s.setJobState 3
    else if st == 7 && whole then { s with job := { s.job with remapped := true } }
    else s
  s.coordinate

def jobModule (s : State) (sid seq : Word) (m : Half) (valid : Byte) : State :=
  if valid.toNat ≤ 1 then (s.setReg .lnkModule [] (BitVec.ofNat 64 (valid.toNat * 65536 + m.toNat))).reply sid seq 2 0 []
  else s.reply sid seq 2 5 []

def jobMap (s : State) (sid seq : Word) (part policy : Byte) (gen shards first : Word) (count : Half) (es : List MapEntry) : State :=
  if count.toNat = 0 ∨ 69 < count.toNat ∨ es.length ≠ count.toNat then s.reply sid seq 2 3 []
  else if 15 < part.toNat ∨ 1 < policy.toNat ∨ shards.toNat < first.toNat + count.toNat ∨ (es.any fun e => decide (15 < e.slot.toNat)) = true then
    s.reply sid seq 2 5 []
  else
    let p := part.toNat
    let old := s.job.received.get noMap p
    let base := if old.jobgen = gen ∧ old.shards = shards.toNat ∧ old.relaxed = (policy == 1) then old
      else ⟨p, policy == 1, gen, shards.toNat, []⟩
    let m := { base with entries := (es.mapIdx fun i e => (first.toNat + i, e)).foldl (fun (a : FMap MapEntry) q => a.set q.1 q.2) base.entries }
    { s with job := { s.job with received := s.job.received.set p m } }.reply sid seq 2 0 []

def jobCommit (s : State) (sid seq : Word) (part : Byte) (gen : Word) : State :=
  if 15 < part.toNat then s.reply sid seq 2 5 []
  else
    match s.commitReason part.toNat gen with
    | 0 => (s.commitMap part.toNat gen).reply sid seq 2 0 [0]
    | r => s.reply sid seq 2 7 [BitVec.ofNat 8 r]

def jobStore (s : State) (sid seq : Word) (part : Byte) (qpn : BitVec 24) (rkey : Word) (base stride : Long) : State :=
  if 15 < part.toNat ∨ (s.qps.any fun q => q.qpn == qpn.toNat) = false then s.reply sid seq 2 5 []
  else if s.pstate part.toNat = 0 then s.reply sid seq 2 8 []
  else (s.modPart part.toNat fun x => { x with store := some ⟨qpn.toNat, rkey, base.toNat, stride.toNat⟩ }).reply sid seq 2 0 []

/-- JOB_RESUME: taken by the coordinator, which broadcasts it once every survivor is COMMITTED and no copy stands on the survivors, or by a module
in ORPHAN whose map has been committed (R467, R468). -/
def jobResume (s : State) (sid seq : Word) (step : Word) (layer : Byte) : State :=
  if layer.toNat = 0 ∨ 3 < layer.toNat then s.reply sid seq 2 5 []
  else if s.regF .jobStatus [] 27 24 = 7 ∧ s.job.remapped = true then (s.startRestore step layer.toNat).reply sid seq 2 0 []
  else if s.role = 1 ∧ s.jobState = 3 then
    (({ s with job := { s.job with asked := some (step, layer.toNat) } } : State).coordinate).reply sid seq 2 0 []
  else s.reply sid seq 2 7 []

/-- JOB_STATUS as read: STATE as it stands (R474). -/
def jobStatusReg (s : State) : Long := setF (s.reg .jobStatus []) 27 24 s.jobState

def jobRead (s : State) (sid seq : Word) : State :=
  s.reply sid seq 2 0 (beBytes 8 s.jobStatusReg.toNat ++ beBytes 8 (s.reg .jobCommits []).toNat)

end State

def execHeartbeatSend (s : State) : Out := .next (if s.ready then s.heartbeatSend else s)
def execHeartbeat (p : PortId) (s : State) : Out := .next (if s.ready then s.heartbeat p else s)
def execHeartbeatMissed (module : Half) (s : State) : Out :=
  .next (if s.ready then s.heartbeatMissed module.toNat else s)
def execDeputyTakeover (s : State) : Out := .next (if s.ready then s.deputyTakeover else s)
def execOrphanTimeout (s : State) : Out := .next (if s.ready then s.orphanTimeout else s)
def execShardRestoreComplete (p : PartId) (shard : Nat) (s : State) : Out :=
  .next (s.settle (if s.ready then s.restoreDone p shard else s))

end Sys2Proof.Machine
end

