-- ==== Sys2Proof/Machine/Life.lean ====
section
/-! DEFINITION. Keeper firmware, the key store, life-cycle operations, the attestation quote, and the cartridge (R557-R574). -/

namespace Sys2Proof.Machine

def certLen : Nat := 17184

/-- A signature block made with a pair of the module's own keys (R114, R557). -/
def ownSig (rsa slh : Nat) (msg : List Byte) : List Byte :=
  leBytes 4 384 ++ leBytes 4 16224 ++ fill 56 0 ++ toLen 384 (Config.sign rsa msg) ++ toLen 16224 (Config.sign slh msg)

/-- Is a certificate's body well formed (R560)? -/
def certFormed (b : List Byte) : Bool :=
  let z := fun (o n : Nat) => ((b.drop o).take n).all fun x => x == 0
  b.length == certLen && le b 0 4 == 0x54524543 && le b 4 2 == 1 && decide (le b 8 4 < 64) && z 0x1D 35 && z 0x1F4 12 &&
  (if le b 6 1 = 0 then le b 0x1C0 4 == 65537 && z 0x1C4 48 else le b 6 1 == 1 && z 0x40 388)

/-- The certificate of the module's own attestation key of a scheme (R566): KEY_ID 14 or 15, USE 4, SUBJECT the DEVICE_ID, issued by the Eowick
roots. -/
def ownCert (alg : Nat) : List Byte :=
  leBytes 4 0x54524543 ++ leBytes 2 1 ++ [BitVec.ofNat 8 alg, 0x10] ++ leBytes 4 (14 + alg) ++ leBytes 4 0 ++ leBytes 4 1 ++
  leBytes 8 Config.deviceId.toNat ++ [Config.attestStates] ++ fill 35 0 ++
  (if alg = 0 then toLen 384 (Config.attestKey 0) ++ leBytes 4 65537 ++ fill 48 0 else fill 388 0 ++ toLen 48 (Config.attestKey 1)) ++ fill 12 0 ++
  toLen sigLen (Config.attestSig alg)

namespace State

/-! ### The key store (R560, R561) -/

/-- The certificates of package flash: the module's own, and the others (R561, R566). -/
def flashCerts (s : State) : List (List Byte) := [ownCert 0, ownCert 1] ++ s.life.store

/-- The root certificates of a list, whose keys' hashes are fused. -/
def rootOf (l : List (List Byte)) (id : Nat) : Option Cert :=
  (l.map Cert.parse).find? fun c => certFormed c.raw && c.keyId == id && c.alg.toNat == id && Config.sha384 c.key == Config.rootHash id

/-- Is a certificate accepted into the store, issued as R561 has it? -/
def certOk (s : State) (roots : Option Cert × Option Cert) (c : Cert) : Bool :=
  let body := c.raw.take 512
  let sig := c.raw.drop 512
  let byRoot := c.issuerRsa == 0 && c.issuerSlh == 1 &&
    match roots with
    | (some r, some l) => s.keyCounts r 7 && s.keyCounts l 7 && sigGood r l body sig
    | _ => false
  certFormed c.raw && !(s.life.keys.any fun k => k.keyId == c.keyId) &&
  (if c.keyId < 2 then byRoot && decide ((if c.keyId = 0 then roots.1 else roots.2) = some c)
   else if c.keyId < 16 then byRoot
   else (decide (c.issuerRsa < 16 ∧ c.issuerSlh < 16) || decide (16 ≤ c.issuerRsa ∧ 16 ≤ c.issuerSlh)) &&
     s.verifies c.issuerRsa c.issuerSlh 7 body sig)

/-- Certificates taken into the store one after another, with whether all were accepted. -/
def addCerts (s : State) (l : List (List Byte)) : State × Bool :=
  let roots := (rootOf (s.flashCerts ++ l) 0, rootOf (s.flashCerts ++ l) 1)
  l.foldl (fun (a : State × Bool) b =>
    let c := Cert.parse b
    if a.1.certOk roots c then ({ a.1 with life := { a.1.life with keys := a.1.life.keys ++ [c] } }, a.2) else (a.1, false)) (s, true)

/-- The store's certificates are checked at power-up (R561). -/
def loadKeys (s : State) : State := ({ s with life := { s.life with keys := [] } }.addCerts s.flashCerts).1

/-! ### Keeper firmware (R559) -/

def slotBytes' (s : State) (i : Nat) : List Byte := if i = 0 then s.life.fw0.bytes else s.life.fw1.bytes

/-- Does a slot image verify under Eowick firmware keys? -/
def fwVerifies (s : State) (b : List Byte) : Bool :=
  let n := 64 + le b 8 4
  le b 0 4 == 0x5357464B && decide (1 ≤ le b 4 4 ∧ le b 4 4 ≤ 64) && ((b.drop 0x14).take 44).all (fun x => x == 0) &&
  decide (le b 0xC 4 < 16 ∧ le b 0x10 4 < 16) && b.length == n + sigLen &&
  s.verifies (le b 0xC 4) (le b 0x10 4) 0 (b.take n) (b.drop n)

/-- The slot that the boot ROM runs: verified, not below the fused SVN, the higher SVN, slot 0 on a tie. -/
def bootSlot (s : State) : Option Nat :=
  let ok := fun i => s.fwVerifies (s.slotBytes' i) && decide (s.life.svn ≤ le (s.slotBytes' i) 4 4)
  match ok 0, ok 1 with
  | true, true => some (if le (s.slotBytes' 0) 4 4 < le (s.slotBytes' 1) 4 4 then 1 else 0)
  | true, false => some 0
  | false, true => some 1
  | false, false => none

/-- LIFE_STATUS shows the fuses (R571). -/
def showLife (s : State) : State := (s.setRegF .lifeStatus [] 2 0 s.lifeState).setRegF .lifeStatus [] 55 48 s.life.svn

/-- The keeper's firmware runs from slot i. -/
def runFirmware (s : State) (i : Nat) : State :=
  let svn := le (s.slotBytes' i) 4 4
  let s := { s with life := { s.life with running := i }, keeper := { s.keeper with kick := s.tick } }
  (((s.setRegF .lifeStatus [] 63 56 svn).setRegF .lifeStatus [] 40 40 i).setRegF .lifeStatus [] 33 32 1).setRegF .keepStatus [] 0 0 1

/-- A new challenge (R563). -/
def newChallenge (s : State) : State := (s.setReg .lifeChallenge [] s.freeLong).usedFresh

/-! ### Life-cycle operations (R563-R566) -/

def padded (n : Nat) : Nat := (n + 63) / 64 * 64

def isSigned (op : Nat) : Bool := hasN [2, 3, 4, 5, 6, 9] op

/-- Is an operation's payload of a length that it takes (R564)? -/
def lengthOk (op n : Nat) : Bool :=
  match op with
  | 1 | 2 => n % certLen == 0 && decide (1 ≤ n / certLen ∧ n / certLen ≤ 48)
  | 6 => n == 4
  | 7 => n == 32
  | 8 => decide (64 + sigLen ≤ n)
  | _ => n == 0

/-- The states an operation starts from (R564). -/
def fromOk (op st : Nat) : Bool :=
  match op with
  | 1 => st == 0
  | 2 | 3 => st == 1
  | 4 => st == 2
  | 5 => decide (st < 4)
  | _ => hasN [1, 2, 3] st

/-- May a signer of this owner sign the operation? `owner` where both its keys are the owner's, else both are Eowick's. -/
def signerOk (op st id : Nat) (owner : Bool) : Bool :=
  match op with
  | 2 | 3 => owner
  | 4 | 9 => !owner
  | 5 => if st = 1 ∨ st = 2 then owner else !owner
  | 6 => !owner || decide (16 ≤ id)
  | _ => true

/-- The owner certificates leave flash (R564). -/
def eraseOwner (s : State) : State :=
  let gone := s.life.keys.filter fun k => decide (16 ≤ k.keyId)
  { s with life := { s.life with store := s.life.store.filter fun b => !(gone.any fun k => k.raw == b) && decide (le b 8 4 < 16),
                                 keys := s.life.keys.filter fun k => decide (k.keyId < 16) } }

/-- Every partition stops as under HALT (R120): those that run halt, and fire nothing more; resets and recoveries are given up, their
partitions staying halted (R564, R586). -/
def stopAll (s : State) : State :=
  ((List.range 16).foldl (fun (t : State) p => t.closeRegions p) (s.stopParts (List.range 16) 0xFFFFFFFC#32)).dropResets (fun _ => true) 7

/-- RETURN and SCRAP: every partition stops, owner certificates go, fuses blow, images are refused. -/
def retireLife (s : State) (fuses : BitVec 4) : State :=
  let s := s.stopAll.eraseOwner
  { s with life := { s.life with fuses := fuses, refuseImages := true } }

/-- QUOTE's body (R566). -/
def quoteBody (s : State) (nonce : List Byte) : List Byte :=
  let parts := List.range 16
  let img := fun p => if s.pstate p = 0 then none else (s.part p).img
  leBytes 4 0x544F5551 ++ leBytes 2 1 ++ [BitVec.ofNat 8 s.lifeState, BitVec.ofNat 8 (s.regF .keepIdent [] 31 24)] ++
  leBytes 8 s.life.device.toNat ++ nonce ++ leBytes 4 (s.regF .lifeStatus [] 63 56) ++ leBytes 4 s.life.svn ++
  toLen 48 (Config.sha384 (s.slotBytes' s.life.running)) ++
  toLen 48 (Config.sha384 (s.flashCerts.flatten ++ leBytes 8 s.life.revoked.toNat)) ++ leBytes 4 s.retireRec.entries.length ++
  leBytes 2 (sumN (parts.map fun p => if (img p).isSome then 2 ^ p else 0)) ++ leBytes 2 0 ++
  parts.flatMap (fun p => leBytes 8 (s.reg .keepPartBuild [p]).toNat) ++
  parts.flatMap (fun p => match img p with | some im => toLen 48 im.hash | none => fill 48 0) ++
  leBytes 8 (s.reg .cartSerial []).toNat ++ [BitVec.ofNat 8 (s.regF .cartStatus [] 2 0)] ++ fill 23 0

def quoteGap : Nat := 0x10000

/-- An operation's effect, or the code it is refused with. -/
def lifeEffect (s : State) (op off : Nat) (payload : List Byte) : State ⊕ Nat :=
  let certs := chunksOf certLen payload
  match op with
  | 1 =>
    let r := s.addCerts certs
    if r.2 && certs.all (fun b => decide (16 ≤ le b 8 4)) then
      .inl { r.1 with life := { r.1.life with store := r.1.life.store ++ certs, fuses := 1 } } else .inr 6
  | 2 =>
    let r := s.addCerts certs
    if r.2 then .inl { r.1 with life := { r.1.life with store := r.1.life.store ++ certs } } else .inr 6
  | 3 => .inl { s with life := { s.life with fuses := 3 } }
  | 4 => .inl (s.retireLife 7)
  | 5 => .inl (s.retireLife 15)
  | 6 =>
    let id := le payload 0 4
    if id < 2 ∨ 63 < id then .inr 6 else .inl { s with life := { s.life with revoked := s.life.revoked ||| BitVec.ofNat 64 (2 ^ id) } }
  | 7 =>
    let body := s.quoteBody payload
    let sig := ownSig 14 15 body
    if stagingLen < off + quoteGap + body.length + sig.length then .inr 1
    else .inl (s.reserveWrite 6 (stagingBase + off + quoteGap) (body ++ sig)).1
  | 8 =>
    if s.fwVerifies payload then
      .inl { s with life := if s.life.running = 0 then { s.life with fw1 := ⟨payload⟩ } else { s.life with fw0 := ⟨payload⟩ } }
    else .inr 4
  | _ => .inl { s with life := { s.life with svn := max s.life.svn (s.regF .lifeStatus [] 63 56) } }

/-- The code that a request object is refused with before its effect is tried, 0 where it stands (R563-R565); the codes are tried in
their order but for BUSY, which comes first. -/
def lifeRefusal (s : State) (op : Nat) (obj : List Byte) (total : Nat) : Nat :=
  let n := le obj 0x18 4
  let rsa := le obj 0x1C 4
  let slh := le obj 0x20 4
  let none' := rsa == 0xFFFFFFFF && slh == 0xFFFFFFFF
  let msg := obj.take (64 + padded n)
  let sig := (obj.drop (64 + padded n)).take sigLen
  let st := s.lifeState
  if s.load.isSome then 7
  else if le obj 0 4 ≠ 0x4546494C ∨ le obj 4 1 ≠ op ∨ le obj 5 3 ≠ 0 ∨ ((obj.drop 0x24).take 28).any (fun b => b != 0) = true ∨ op = 0 ∨ 9 < op ∨
      lengthOk op n = false ∨ none' = isSigned op ∨ total < 64 + padded n + (if isSigned op then sigLen else 0) then 1
  else if le obj 8 8 ≠ s.life.device.toNat then 2
  else if le obj 0x10 8 ≠ (s.reg .lifeChallenge []).toNat then 3
  else if isSigned op = true ∧ s.verifies rsa slh 3 msg sig = false then 4
  else if fromOk op st = false then 5
  else if isSigned op = true ∧ ((decide (rsa < 16) != decide (slh < 16)) || !signerOk op st (le obj 64 4) (decide (16 ≤ rsa))) = true then 6
  else 0

/-- A life-cycle operation on the object at an offset of the staging area: it is done whole, or changes nothing but RESULT. An object
that cannot be read whole has RESULT 1 (R323; log 50). -/
def lifeRun (s : State) (op off : Nat) : State :=
  let total := stagingLen - off
  let h := s.keeperRead (stagingBase + off) 64
  let head := readBytes h.1.slow.data (stagingBase + off) 64
  let n := min total (64 + padded (le head 0x18 4) + sigLen)
  let r := if h.2.isSome then h else h.1.keeperRead (stagingBase + off + 64) (n - 64)
  let s := r.1
  let obj := readBytes s.slow.data (stagingBase + off) n
  match if r.2.isSome then 1 else s.lifeRefusal op obj total with
  | 0 =>
    match s.lifeEffect op off ((obj.drop 64).take (le head 0x18 4)) with
    | .inl t => (t.showLife.setRegF .lifeStatus [] 15 8 0).newChallenge
    | .inr code => s.setRegF .lifeStatus [] 15 8 code
  | code => s.setRegF .lifeStatus [] 15 8 code

/-- LIFE_CMD.GO: an access error with an offset that is no multiple of 64 or lies beyond the staging area (R572). -/
def lifeGo (s : State) (op off : Nat) : Option State :=
  if off % 64 ≠ 0 ∨ stagingLen ≤ off ∨ 255 < op then none
  else some ((s.setReg .lifeCmd [] (BitVec.ofNat 64 (op * 2 ^ 56 + off))).lifeRun op off)

/-- A write of LIFE_CMD. -/
def wrLifeCmd (s : State) (v : Long) : Option State :=
  if getF v 0 0 = 1 then s.lifeGo (getF v 63 56) (2 * getF v 32 1) else some (s.plainWrite .lifeCmd [] v)

/-- A life-cycle operation's command: the register write that starts it (R564, R580). -/
def lifeOp (s : State) (op off : Nat) : State := s.settle (s.wroteAt .lifeCmd [] (s.lifeGo op off))

/-! ### The cartridge (R567-R570, R607) -/

/-- CART_STATUS shows the cartridge's link; until it is authenticated it reads UNTRUSTED, and UNSUPPORTED where its NVMe version is
before 2.0. -/
def showCart (s : State) : State :=
  let k := s.cart
  if k.present then
    ((s.setRegF .cartStatus [] 19 16 k.width).setRegF .cartStatus [] 15 12 k.gen).setRegF .cartStatus [] 2 0 (if k.nvme then 2 else 1)
  else s

/-- CARTRIDGE_INSERT: what it holds is not known until it is authenticated. -/
def cartInsert (s : State) (nvme2 : Bool) (width gen : Nat) : State :=
  if s.cart.present then s
  else { s with cart := { s.cart with present := true, nvme := nvme2, width := width, gen := gen, inserts := s.cart.inserts + 1 } }.showCart

/-- The contents leave with the cartridge, which keeps them (R606). -/
def Cart.shelve (k : Cart) : Cart :=
  { k with shelf := if k.blind then k.shelf else k.shelf.set k.serial.toNat ⟨k.data, k.heads, k.written⟩,
           blind := true, data := [], heads := [], written := 0 }

/-- CARTRIDGE_REMOVE. -/
def cartRemove (s : State) : State :=
  if s.cart.present then
    let s := { s with cart := { Cart.shelve s.cart with present := false } }
    ((((s.setRegF .cartStatus [] 2 0 0).setRegF .cartStatus [] 19 16 0).setRegF .cartStatus [] 15 12 0).setRegF .cartStatus [] 39 32 0).setReg
      .cartSerial [] 0
  else s

/-- The certificate of the cartridge for a serial and an algorithm: unrevoked, usable in the life-cycle state in force, and issued by Eowick
keys (R557, R560, R561, R569). -/
def cartKey (s : State) (serial : Long) (alg : Nat) (l : List (List Byte)) : Option Cert :=
  (l.map Cert.parse).find? fun c =>
    certFormed c.raw && c.alg.toNat == alg && c.use.getLsbD 6 && c.subject == serial &&
    !s.life.revoked.getLsbD c.keyId && decide (s.lifeState < 4) && c.states.getLsbD s.lifeState && decide (c.issuerRsa < 16 ∧ c.issuerSlh < 16) &&
    s.verifies c.issuerRsa c.issuerSlh 7 (c.raw.take 512) (c.raw.drop 512)

/-- Does an answer to the nonce hold (R569)? -/
def answerOk (s : State) (nonce : List Byte) (a : CartAnswer) : Bool :=
  let b := a.body
  let l := chunksOf certLen a.cert
  let serial : Long := BitVec.ofNat 64 (le b 8 8)
  let z := fun (o n : Nat) => ((b.drop o).take n).all fun x => x == 0
  b.length == 128 && le b 0 4 == 0x444E4952 && le b 4 1 / 16 == 1 && z 5 3 && z 0x1C 4 && z 0x40 64 && (b.drop 0x20).take 32 == nonce &&
  match s.cartKey serial 0 l, s.cartKey serial 1 l with
  | some r, some k => sigGood r k b a.sig
  | _, _ => false

/-- The cartridge as its authentication finds it: the one that stood there already, one that has been taken out before with what it kept, or
one of which nothing is known (R569, R570, R606; log 33). The module's own figure of WRITTEN stands where it is the larger. -/
def Cart.known (k : Cart) (serial : Long) (signed : Nat) : Cart :=
  if !k.blind && k.serial == serial then { k with written := max k.written signed }
  else
    let o := Cart.shelve k
    let x := o.shelf.get ⟨[], [], 0⟩ serial.toNat
    { o with blind := false, data := x.data, heads := x.heads, written := max x.written signed, serial := serial }

/-- CARTRIDGE_AUTHENTICATION: the module sends its nonce, a fresh free value (log 3), and takes the answer. -/
def cartAuth (s : State) (a : CartAnswer) : State :=
  if s.cart.present && s.cart.nvme && !s.xingHeld 322 && !s.xingHeld 323 then
    let k := s.fresh
    let nonce := (List.range 32).map fun i => Config.freeByte k i
    let s := (({ s with fresh := k + 1 } : State).emit (.cart nonce)).setRegF .cartStatus [] 39 32 (le a.body 4 1)
    if s.answerOk nonce a then
      let serial : Long := BitVec.ofNat 64 (le a.body 8 8)
      let s := ({ s with cart := Cart.known s.cart serial (le a.body 0x10 8 * 1000000000) }.setReg .cartSerial [] serial).setRegF .cartWear [] 63 32
        (le a.body 0x18 4)
      (s.setRegF .cartStatus [] 2 0 3).cartWorn
    else (s.setRegF .cartStatus [] 2 0 2).setReg .cartSerial [] 0
  else s

end State

def execProvision (off : Nat) (s : State) : Out := .next (s.lifeOp 1 off)
def execAddKey (off : Nat) (s : State) : Out := .next (s.lifeOp 2 off)
def execDeploy (off : Nat) (s : State) : Out := .next (s.lifeOp 3 off)
def execLifeReturn (off : Nat) (s : State) : Out := .next (s.lifeOp 4 off)
def execScrap (off : Nat) (s : State) : Out := .next (s.lifeOp 5 off)
def execRevoke (off : Nat) (s : State) : Out := .next (s.lifeOp 6 off)
def execQuote (off : Nat) (s : State) : Out := .next (s.lifeOp 7 off)
def execFwUpdate (off : Nat) (s : State) : Out := .next (s.lifeOp 8 off)
def execCommitSvn (off : Nat) (s : State) : Out := .next (s.lifeOp 9 off)
def execCartridgeInsert (nvme2 : Bool) (width gen : Nat) (s : State) : Out := .next (s.cartInsert nvme2 width gen)
def execCartridgeRemove (s : State) : Out := .next s.cartRemove
def execCartridgeAuthentication (a : CartAnswer) (s : State) : Out := .next (s.cartAuth a)

end Sys2Proof.Machine
end

