-- ==== Sys2Proof/Machine/Power.lean ====
section
/-! DEFINITION. Power-up, the feeds, and the Plaured meter (R489-R501, R555, R598, R599). -/

namespace Sys2Proof.Machine

namespace State

/-! ### Feeds (R489, R490, R598, R599) -/

def feed (s : State) (f : Nat) : Feed := if f = 0 then s.feedA else s.feedB
def setFeed (s : State) (f : Nat) (x : Feed) : State := if f = 0 then { s with feedA := x } else { s with feedB := x }

/-- WEIR_STATUS shows the feeds (R504). -/
def showFeeds (s : State) : State :=
  let n := fun (b : Bool) => if b then 1 else 0
  ((s.setRegF .weirStatus [] 32 32 (n s.feedA.valid)).setRegF .weirStatus [] 33 33 (n s.feedB.valid)).setRegF .weirStatus [] 0 0
    (n (s.feedA.valid != s.feedB.valid))

/-- The compute die goes off: what flash, fuses, the cartridge, the meter, the feeds and the stacks' repaired rows hold stays, and the
module is back before power-up step 1's end (R489, R609). -/
def powerOff (s : State) : State :=
  let z := State.reset
  { z with pending := s.pending, fresh := s.fresh, out := s.out, opTicks := s.opTicks + s.tick.toNat, meter := s.meter, cart := s.cart,
           retireA := s.retireA, retireB := s.retireB, life := { s.life with keys := [], refuseImages := false }, netFlash := s.netFlash,
           feedA := { s.feedA with strap := 0 }, feedB := { s.feedB with strap := 0 },
           hbm := s.hbm.map fun x => (x.1, { Stack.cold with banks := x.2.banks }) }

/-- A feed stops being valid: an emergency while the other is valid, else the compute die is off. -/
def feedLost (s : State) (f : Nat) : State :=
  let x := s.feed f
  if x.valid then
    let s := (s.setFeed f { x with valid := false }).showFeeds
    if s.feedA.valid || s.feedB.valid then s.emergency else s.powerOff
  else s

/-- FEED_VALID. -/
def feedGood (s : State) (f : Nat) : State :=
  let x := s.feed f
  if x.mated then (s.setFeed f { x with valid := true }).showFeeds else s

def presMate (s : State) (f : Nat) : State := s.setFeed f { s.feed f with mated := true }

/-- FEED_REGULATOR_CONNECT. -/
def regulators (s : State) (f : Nat) : State :=
  let x := s.feed f
  if x.mated && x.valid then s.setFeed f { x with connected := true } else s

/-- FEED_PRES_BREAK: the feed is disconnected, and is no longer valid. -/
def presBreak (s : State) (f : Nat) : State :=
  (s.setFeed f { s.feed f with mated := false, connected := false }).feedLost f

/-! ### The reference clock (R513, R538, R541) -/

/-- HEAT in level mode: a tick with the selected stack at level 1 or above (R541). -/
def heatTick (s : State) : State :=
  (List.range 8).foldl (fun (t : State) j =>
    let w := t.reg .dieSel [j]
    let l := t.level (getF w 31 28)
    if getF w 0 0 = 1 ∧ getF w 39 32 = 0x86 ∧ getF w 1 1 = 1 ∧ getF w 31 28 < 8 ∧ 1 ≤ l ∧ l ≤ 7 then t.countOne .dieCnt .dieOvf [] j 1 else t) s

/-- Does a core beat: powered, in no restart, and in no self-test slice (R302, R524, R528)? -/
def beating (s : State) (c : Nat) : Bool :=
  s.bootStep == 9 && !s.blockOff c && !(s.cl (c / 16)).restarting && s.bist.running != some c &&
    !(s.bist.target == c && !s.bist.todo.isEmpty)

/-- What a tick adds to counter j of a core: its beats, 14 to 24 of them by R511 (R540). How many is free (log 41). -/
def beatAdd (s : State) (c j : Nat) : Nat :=
  if selects (s.reg .pmcSel (cix c ++ [j])) 0x01 0 then 14 + Config.beatsIn c s.fresh % 11 else 0

/-- BEAT in a tick (R540). -/
def beatTick (s : State) : State :=
  let cs := (List.range 128).flatMap fun c => if s.beating c then (List.range 8).map fun j => (c, j, s.beatAdd c j) else []
  let cs := cs.filter fun x => x.2.2 != 0
  if cs.isEmpty then s
  else (cs.foldl (fun (t : State) x => t.countOne .pmcCnt .pmcOvf (cix x.1) x.2.1 x.2.2) s).usedFresh

/-- One tick, with nothing commanded: the tick count rises once the resonator runs, from power-up step 4 (log 1). -/
def clockTick (s : State) : State :=
  if 4 ≤ s.bootStep then (({ s with tick := s.tick + 1, dieSeen := [] } : State).pmcDie 0x81 0 1).heatTick.beatTick else s

/-! ### Power-up (R555) -/

/-- Step 2: fuses and straps are read, each power-up's straps as the pins then stand (R609), network registers start from flash but in Blank, and the
challenge is new. -/
def readFuses (s : State) : State :=
  let st := fun (x : Feed) (i : Nat) => { x with strap := if x.mated then Config.strapPins i s.fresh else 0 }
  let s := { s with feedA := st s.feedA 0, feedB := st s.feedB 1 }.usedFresh
  let s := (s.setRegF .jobStatus [] 15 8 s.feedA.strap.toNat).setRegF .jobStatus [] 23 16 s.feedB.strap.toNat
  let s := if s.lifeState = 0 then s else { s with mrs := s.netFlash.foldl (fun (m : FMap Long) q => m.set q.1 q.2) s.mrs }
  let s := s.setReg .weirCal [] (Config.weirCal &&& 0x0FFFFFFFFFFFFFFF#64)
  let s := (List.range 128).foldl (fun (t : State) c => t.setReg .meaRepair (cix c) (Config.meaRepair c &&& 0xFFFFFFFF#64)) s
  s.showLife.newChallenge

/-- In Returned, Eowick service firmware may remove entries that scheduled slices or directed tests made: which is free (R532; log 57). -/
def serviceEntries (s : State) : State :=
  if s.lifeState = 3 then
    let r := s.retireRec
    let keep := (r.entries.mapIdx fun i e => (i, e)).filter fun x => !(hasN [1, 2] x.2.source && Config.serviceRemoves x.1 s.fresh)
    let t := if keep.length = r.entries.length then s else s.writeRetire r.pointer (keep.map (·.2))
    t.usedFresh
  else s

/-- The retirement record's part in the registers that the keeper shows as it starts (R343, R530, R536). -/
def showRecord (s : State) : State :=
  let r := s.retireRec
  let p := if r.valid then r.pointer else 0
  let s := { s with bist := { s.bist with pointer := p } }.setRegF .bistStatus [] 47 35 p
  (List.range 8).foldl (fun (t : State) k =>
    t.setRegF .sluPpr [k] 31 16 (r.entries.filter fun e => e.kind == 3 && e.cluster == k).length) s

/-- The retirement record is applied to the fabric (R527, R537, R555). -/
def applyRecord (s : State) : State :=
  s.retireRec.entries.foldl (fun (t : State) e => match e.bit with
    | some (cl, b) => t.setRegF .retireCluster [cl] b b 1
    | none => t) s

/-- A standing fault of the meter that the keeper has not recorded is recorded (R497). -/
def tellMeter (s : State) : State :=
  if s.meter.fault && !s.meter.told && s.ready then
    ({ s with meter := { s.meter with told := true } } : State).record 3 0x0060 none 0xFFFF none none (beBytes 8 (s.reg .mtrStatus []).toNat)
  else s

/-- Step 5: the boot ROM runs a verified slot, and the Weir starts; with none the module stops here. -/
def keeperBoot (s : State) : State :=
  let s := s.loadKeys
  match s.bootSlot with
  | none => s.setRegF .lifeStatus [] 33 32 2
  | some i =>
    let s := ((s.runFirmware i).serviceEntries.showRecord).showCart
    ({ s with weir := { s.weir with running := true }, bootStep := 6 } : State).tellMeter

/-- Step 6: both tiers are zero with class-C checks, soft repairs are fused. -/
def trainTiers (s : State) : State :=
  let s := { s with fast := Tier.zero, slow := Tier.zero }
  (List.range 8).foldl (fun (t : State) k =>
    let used := (t.stack k).banks.foldl (fun n b => max n b.2) 0
    (t.setRegF .sluPpr [k] 39 32 0).setRegF .sluPpr [k] 47 40 (4 - used)) s

/-- Step 7 begins: ports with signal are powered and enabled, host Ethernet too. -/
def enablePorts (s : State) (signal : Half) : State :=
  let s := (s.setRegF .ethCtrl [0] 0 0 1).setRegF .ethCtrl [1] 0 0 1
  (List.range 16).foldl (fun (t : State) p => if signal.getLsbD p then t.lnkEnable p true else t) s

/-- Has every enabled port come UP or DOWN? -/
def portsSettled (s : State) : Bool := (List.range 16).all fun p => hasN [0, 1, 4] (s.linkState p)

/-- Step 8: the retirement record is applied, vats and banks clear, and cores are as R133, R164 and R237 leave them. -/
def warmStart (s : State) : State := { s.applyRecord with vats := [], pools := [], cores := [], clusters := [] }

/-- POWER_UP_STEP_COMPLETE: the step in progress ends and the next begins. Step 3, the meter's, is waited for by none. -/
def stepDone (s : State) (signal : Half) : State :=
  match s.bootStep with
  | 1 => if s.feedA.valid || s.feedB.valid then { s with bootStep := 2 } else s
  | 2 => { s.readFuses with bootStep := 4 }
  | 4 => { s with bootStep := 5 }
  | 5 => s.keeperBoot
  | 6 => { s.trainTiers.enablePorts signal with bootStep := 7 }
  | 7 => if s.portsSettled then { s with bootStep := 8 } else s
  | 8 => { s.warmStart with bootStep := 9 }
  | _ => s

/-! ### The meter (R491-R497, R501, R508, R509) -/

/-- FLAGS as they stand for the current interval (R495, R508). -/
def meterFlags (m : Meter) : Nat :=
  (if m.tamper then 1 else 0) + (if m.fault then 2 else 0) + (if m.rangeA then 4 else 0) + (if m.rangeB then 8 else 0) + (if m.restart then 16 else 0)

/-- MTR_STATUS changes as a whole word (R508). -/
def showFlags (s : State) : State :=
  let m := s.meter
  s.setReg .mtrStatus [] (BitVec.ofNat 64 (m.seq.toNat % 2 ^ 32 * 2 ^ 32 + m.latest % 2 * 2 ^ 8 + (if m.ready then 32 else 0) + meterFlags m))

/-- METER_READY: the start-up self-check has passed, and no count is below what the non-volatile store holds (R493). -/
def meterReady (s : State) : State :=
  let m := s.meter
  if m.ready then s
  else ({ s with meter := { m with ready := true, energyA := max m.nvA m.energyA, energyB := max m.nvB m.energyB, restart := true } }).showFlags

/-- METER_NV_SAVE. -/
def meterSave (s : State) : State := { s with meter := { s.meter with nvA := s.meter.energyA, nvB := s.meter.energyB } }

/-- METER_SUPPLY_LOSS: the hold-up store saves the counts, and the meter stops. -/
def meterLoss (s : State) : State :=
  let s := s.meterSave
  ({ s with meter := { s.meter with ready := false, restart := true, powerA := 0, powerB := 0 } }).setRegF .mtrStatus [] 5 5 0

/-- METER_WINDOW_UPDATE: a millisecond's energy on each feed, in micro-joules. Above 1,600 W on average is out of range, as is what the meter saw within
it (R495). -/
def meterWindow (s : State) (a b : Nat) (ra rb : Bool) : State :=
  let m := s.meter
  let pa := min a 0xFFFFFFFF
  let pb := min b 0xFFFFFFFF
  let m := { m with energyA := m.energyA + a, energyB := m.energyB + b, uptime := m.uptime + 1,
                    powerA := BitVec.ofNat 32 pa, powerB := BitVec.ofNat 32 pb, peakA := BitVec.ofNat 32 (max m.peakA.toNat pa),
                    peakB := BitVec.ofNat 32 (max m.peakB.toNat pb), rangeA := m.rangeA || ra || decide (1600000 < a),
                    rangeB := m.rangeB || rb || decide (1600000 < b) }
  let s := { s with meter := m }
  let s := (s.setReg .mtrEnergyA [] (BitVec.ofNat 64 (m.energyA / 1000))).setReg .mtrEnergyB [] (BitVec.ofNat 64 (m.energyB / 1000))
  (s.setReg .mtrPower [] (BitVec.ofNat 64 (pb * 2 ^ 32 + pa))).showFlags.pmcDie 0x89 0 1

/-- A record's body (R495). -/
def meterBody (s : State) (seq : Long) : List Byte :=
  let m := s.meter
  leBytes 4 0x44524C50 ++ leBytes 2 1 ++ leBytes 2 (meterFlags m) ++ leBytes 8 Config.meterId.toNat ++ leBytes 8 s.life.device.toNat ++
  leBytes 8 seq.toNat ++ leBytes 8 m.uptime.toNat ++ leBytes 8 (m.energyA / 1000) ++ leBytes 8 (m.energyB / 1000) ++
  leBytes 4 m.peakA.toNat ++ leBytes 4 m.peakB.toNat ++ leBytes 4 Config.meterRom.toNat ++ fill 60 0

/-- METER_RECORD_COMPLETE: the signed record goes to the other buffer. -/
def meterRecordDone (s : State) : State :=
  let m := s.meter
  if m.ready then
    let seq := m.seq + 1
    let body := s.meterBody seq
    let b := if m.records.isEmpty then 0 else 1 - m.latest
    let m := { m with seq := seq, latest := b, records := m.records.set b (body ++ ownSig 100 101 body), peakA := 0, peakB := 0,
                      rangeA := false, rangeB := false, restart := false }
    let s := { s with meter := m }
    s.showFlags
  else s

/-- METER_TAMPER. -/
def meterTampered (s : State) : State := { s with meter := { s.meter with tamper := true } }.showFlags

/-- METER_SELF_CHECK_FAIL: FAULT is set, and the keeper writes a record once, as soon as it runs. -/
def meterFails (s : State) : State :=
  if s.meter.fault then s else ({ s with meter := { s.meter with fault := true, told := false } }.showFlags).tellMeter

def meterRecovers (s : State) : State := { s with meter := { s.meter with fault := false, told := false } }.showFlags

end State

def execFeedInvalid (f : Fin 2) (s : State) : Out := .next (s.feedLost f)
def execFeedValid (f : Fin 2) (s : State) : Out := .next (s.feedGood f)
def execFeedPresMate (f : Fin 2) (s : State) : Out := .next (s.presMate f)
def execFeedRegulatorConnect (f : Fin 2) (s : State) : Out := .next (s.regulators f)
def execFeedPresBreak (f : Fin 2) (s : State) : Out := .next (s.presBreak f)
def execPowerUpStepComplete (signal : Half) (s : State) : Out := .next (s.stepDone signal)
def execMeterReady (s : State) : Out := .next s.meterReady
def execMeterNvSave (s : State) : Out := .next s.meterSave
def execMeterSupplyLoss (s : State) : Out := .next s.meterLoss
def execMeterRecordComplete (s : State) : Out := .next s.meterRecordDone
def execMeterWindowUpdate (microA microB : Nat) (rangeA rangeB : Bool) (s : State) : Out :=
  .next (s.meterWindow microA microB rangeA rangeB)
def execMeterTamper (s : State) : Out := .next s.meterTampered
def execMeterSelfCheckFail (s : State) : Out := .next s.meterFails
def execMeterSelfCheckRecovery (s : State) : Out := .next s.meterRecovers

end Sys2Proof.Machine
end

