-- ==== Sys2Proof/Machine/Keeper.lean ====
section
/-! DEFINITION. The keeper, its watch sequencer, WATCH messages, and the network registers' flash copy (R575-R578, R590, R591). -/

namespace Sys2Proof.Machine

namespace State

/-! ### WATCH messages (R576-R578) -/

def watchBytes (s : State) (kind cause : Nat) : List Byte :=
  beBytes 4 s.job.wseq.toNat ++ [BitVec.ofNat 8 kind, BitVec.ofNat 8 cause] ++
  beBytes 2 (if s.moduleValid then s.moduleIx.toNat else 0xFFFF) ++ beBytes 8 s.life.device.toNat ++ beBytes 4 s.jobGen.toNat ++ fill 44 0

def nextWseq (s : State) : State := { s with job := { s.job with wseq := s.job.wseq + 1 } }

/-- A WATCH message on every port UP at 2.0 or 2.1, and by route to the coordinator and the deputy. -/
def sendWatch (s : State) (kind cause : Nat) : State :=
  let ports := (List.range 16).filter fun p => s.isUp p && decide (2 ≤ s.linkVersion p)
  let s := ports.foldl (fun (t : State) p =>
    let t := t.nextWseq
    t.queueMsg (t.newMsg 0x32 true t.moduleIx [0xFF, 0xFF, 0xFF] 0 (t.watchBytes kind cause)) (BitVec.ofNat 16 (2 ^ p)) .plain) s
  let far := (s.job.coord.toList ++ s.job.deputy.toList).filter fun m => m != s.me
  far.foldl (fun (t : State) m =>
    let d : Half := BitVec.ofNat 16 m
    if (t.anyRoute d 0).isSome then
      let t := t.nextWseq
      t.sendRoute (t.anyRoute d 0) 0x32 d 0 (t.watchBytes kind cause) .plain
    else t) s

/-! ### The loss of the keeper (R576) -/

/-- Sessions, QPs and regions close without frames, loads and resets are abandoned, and a partition that was being committed is
undefined. -/
def dropHosts (s : State) : State :=
  let half := (List.range 16).filter fun p => s.pstate p == 4
  let s := { s with sessions := [], qps := [], regions := [], gatePosts := [], load := none, resets := [] }
  let s := s.setRegF .keepImgStatus [] 55 52 0
  half.foldl (fun (t : State) p => t.removePart p) s

/-- What the keeper's firmware was doing for self-test ends. -/
def dropSlices (s : State) : State :=
  let s := match s.bist.running.or s.bist.wanted with
    | some b => s.letFire b
    | none => s
  { s with bist := { s.bist with wanted := none, running := none, todo := [], failed := none } }.setRegF .bistStatus [] 0 0 0

/-- Every queue pair closes: SAVEs over one complete without their trailer, and exports are aborted (R442, R457, R576). -/
def dropQps (s : State) : State :=
  let s := (s.qps.map (·.qpn)).foldl savesFailed { s with qps := [] }
  (List.range 16).foldl (fun (t : State) p => t.ferryAbort p) s

/-- The watch sequencer declares the keeper lost: every partition halts, peers are told, the keeper is reset. -/
def keeperLost (s : State) (cause : Nat) : State :=
  if s.ready then
    let s := ((s.setRegF .keepWatch [] 2 2 1).setRegF .keepWatch [] 33 32 cause).bump .keepWatch [] 63 48
    let s := ({ s with sessions := [] } : State).haltParts (List.range 16) 0xFFFFFFFD#32
    let s := (s.dropQps.sendWatch 0 cause).dropHosts.dropSlices
    let s := { s with job := { s.job with loads := [] } }
    (s.setRegF .keepStatus [] 0 0 0).setRegF .lifeStatus [] 33 32 0
  else s

def kick (s : State) : State := { s with keeper := { s.keeper with kick := s.tick } }

/-- KEEPER_WATCH_TIMEOUT: TIMEOUT ms of 100,000 ticks without a kick. -/
def watchTimeout (s : State) : State :=
  if 100000 * s.regF .keepWatch [] 21 12 ≤ (s.tick - s.keeper.kick).toNat then s.keeperLost 0 else s

/-- A write of KEEP_WATCH: TIMEOUT outside 20 to 1,000 is an access error (R590). -/
def wrWatch (s : State) (v : Long) : Option State :=
  let n := getF v 21 12
  if n < 20 ∨ 1000 < n then none
  else
    let t := s.plainWrite .keepWatch [] v
    let t := if getF v 0 0 = 1 then t.kick else t
    some (if getF v 1 1 = 1 then t.keeperLost 3 else t)

/-- KEEPER_RESTART: the keeper boots again after a loss, or stops at step 5 where its firmware fails (R555, R577). -/
def keeperRestart (s : State) : State :=
  if s.ready = false ∧ 6 ≤ s.bootStep then
    let s := s.loadKeys
    match s.bootSlot with
    | none => { s with bootStep := 5 }.setRegF .lifeStatus [] 33 32 2
    | some i =>
      let s := ((s.runFirmware i).serviceEntries.showRecord).sendWatch 1 0
      let s := (List.range 16).foldl (fun (t : State) p => t.tellHalt p) s
      (s.record 3 0x0070 none 0xFFFF none none (beBytes 8 (s.reg .keepWatch []).toNat)).tellMeter
  else s

/-! ### A received WATCH (R465, R466, R578) -/

/-- WATCH: a module of the job forwards its neighbour's notice once to the coordinator and records it; the coordinator declares the
sender lost, and the deputy of a lost coordinator takes over. -/
def watchReceive (s : State) (p : Nat) : State :=
  match s.takeInbox p fun m => m.type == 0x32 with
  | none => s
  | some (m, t) =>
    let b := m.data
    let lost := be b 6 2
    let gen : Word := BitVec.ofNat 32 (be b 0x10 4)
    let mark := (lost, (BitVec.ofNat 32 (be b 0 4) : Word))
    if be b 4 1 ≠ 0 ∨ t.ready = false then t
    else
      let t :=
        if m.neigh = true ∧ hasN (modulesOf t.job.maps) lost = true ∧ gen = t.jobGen ∧ (t.job.forwarded.any fun x => x == mark) = false then
          let t := { t with job := { t.job with forwarded := t.job.forwarded ++ [mark] } }
          let t := match t.job.coord with
            | none => t
            | some c =>
              let d : Half := BitVec.ofNat 16 c
              if c = t.me then t else t.sendRoute (t.anyRoute d 0) 0x32 d 0 b .plain
          t.record 0 0x0071 none p none none (b.take 20)
        else t
      if t.role = 1 then t.lose lost
      else if t.role = 2 ∧ t.job.coord = some lost then t.takeOver
      else t

/-! ### The network registers (R591) -/

/-- The KEEP_NET registers' addresses. -/
def netAddrs : List Nat := (List.range 3).flatMap fun i => (List.range 4).map fun k => 0xB0000 + 0x20 * i + 8 * k

/-- All KEEP_NET registers are written to flash. -/
def netSave (s : State) : State := { s with netFlash := netAddrs.map fun a => (a, s.mrs.get 0 a) }

end State

def execKeeperKick (s : State) : Out := .next s.kick
def execKeeperForce (s : State) : Out := .next (s.settle (s.keeperLost 3))
def execKeeperWatchTimeout (s : State) : Out := .next (s.settle s.watchTimeout)
def execKeeperMemoryError (s : State) : Out := .next (s.settle (s.keeperLost 1))
def execKeeperException (s : State) : Out := .next (s.settle (s.keeperLost 2))
def execKeeperRestart (s : State) : Out := .next s.keeperRestart
def execWatch (p : PortId) (s : State) : Out := .next (s.watchReceive p)
def execNetCtrlSave (i : Fin 3) (s : State) : Out := .next (s.wroteAt .netCtrl [i] (some s.netSave))

end Sys2Proof.Machine
end

