-- ==== Sys2Proof/Machine/Mrs.lean ====
section
/-! DEFINITION. Reads and writes of the module register space (R13-R17, R580): the registers that show other state, the rules that
refuse a write, and the actions of write-only fields. -/

namespace Sys2Proof.Machine

namespace State

/-! ### Registers that show other state -/

def flying (e : Entry) : Bool := e.phase != .waiting && e.phase != .faulted

def flagN (b : Bool) : Nat := if b then 1 else 0

/-- MEA_STATUS (R158). -/
def meaShown (s : State) (ix : List Nat) : Long :=
  let c := 16 * ix.getD 0 0 + ix.getD 1 0
  let k := s.core c
  let r := s.regF .meaStatus ix 39 32
  let busy := decide (0 < r) || k.window.any fun e => e.unit == 1 && flying e
  BitVec.ofNat 64 (r * 2 ^ 32 + k.passes.length * 2 ^ 24 + k.tile1.shape * 2 ^ 18 + k.tile0.shape * 2 ^ 16 + flagN busy)

/-- IN_WINDOW and BUSY of a unit of a core (R185, R236). -/
def unitShown (s : State) (c unit : Nat) : Nat :=
  let es := (s.core c).window.filter fun e => e.unit == unit
  es.length % 512 * 2 ^ 40 + flagN (es.any flying) * 2 ^ 32

def vecShown (s : State) (ix : List Nat) : Long :=
  BitVec.ofNat 64 (s.unitShown (16 * ix.getD 0 0 + ix.getD 1 0) (2 + ix.getD 2 0) + s.regF .vecStatus ix 31 0)

/-- SFU_STATUS (R236). -/
def sfuShown (s : State) (ix : List Nat) : Long :=
  let c := 16 * ix.getD 0 0 + ix.getD 1 0
  let k := s.core c
  let bits := fun (f : Nat → Bool) => sumN (((List.range 16).filter f).map fun j => 2 ^ j)
  let pend := bits fun j => let x := k.slots.get Slot.empty j; x.shadow.isSome && x.loaded
  let load := bits fun j => let x := k.slots.get Slot.empty j; x.state == 2 || x.state == 3 || (x.shadow.isSome && !x.loaded)
  BitVec.ofNat 64 (s.unitShown c 4 + pend * 2 ^ 16 + load)

/-- SFU_SLOT_s (R239). -/
def slotShown (s : State) (ix : List Nat) : Long :=
  let x := (s.core (16 * ix.getD 0 0 + ix.getD 1 0)).slots.get Slot.empty (ix.getD 2 0)
  match x.active with
  | none => 0
  | some t => BitVec.ofNat 64 (t.func.toNat * 2 ^ 56 + x.gen.toNat * 2 ^ 40 + x.state * 2 ^ 36 + t.index % 512)

/-- COPY_STATUS (R287). -/
def copyShown (s : State) (cl : Nat) : Long :=
  let k := s.cl cl
  let busy := !(k.copyQ.isEmpty && k.copyRun.isEmpty)
  BitVec.ofNat 64 (k.copyQ.length * 2 ^ 16 + (k.copyRun.filter fun j => j.started).length * 2 ^ 8 + flagN (k.copyRun.any fun j => j.g24 && j.started) * 2 + flagN busy)

/-- COLL_STATUS_REG (R394). -/
def collShown (s : State) (cl : Nat) : Long :=
  let k := s.cl cl
  let pace := (k.coll.map s.paceCodeOf).foldl max s.paceHere
  BitVec.ofNat 64 (k.coll.length * 2 ^ 32 + pace * 2 ^ 16 + flagN (!k.coll.isEmpty))

/-- ING_STATUS (R425). -/
def ingShown (s : State) (cl : Nat) : Long :=
  let q := (s.cl cl).ingQ
  let run := q.find? fun j => j.started
  let p := match run with | some j => j.part * 2 ^ 36 + 2 ^ 35 | none => 0
  BitVec.ofNat 64 (p + (q.filter fun j => !j.started).length * 2 ^ 32 + flagN (!q.isEmpty))

/-- FERRY_STATUS (R448). -/
def ferryShown (s : State) : Long :=
  let parts := sumN (((List.range 16).filter fun p => s.ferries.any fun f => f.part == p).map fun p => 2 ^ p)
  setF (setF (s.reg .ferryStatus []) 31 16 parts) 2 0 s.ferries.length

/-- An energy in whole units of 2^-k mJ, as a signed field of w bits. -/
def inMj (k w : Nat) (e : Int) : Nat := wrapI w ((e * 2 ^ k) / (mjUnits : Int))

/-- A word of a sample entry: zero at or above COUNT (R546). -/
def sampleShown (s : State) (ix : List Nat) : Long :=
  let core := ix.take 2
  let w := ix.getD 2 0
  if w / 4 < s.regF .pmcSstat core 8 0 then
    ((s.core (16 * ix.getD 0 0 + ix.getD 1 0)).samples.get [] (w / 4)).getD (w % 4) 0
  else 0

/-- A word of a meter record buffer (R509). -/
def meterShown (s : State) (ix : List Nat) : Long :=
  BitVec.ofNat 64 (le (s.meter.records.get [] (ix.getD 0 0)) (8 * ix.getD 1 0) 8)

/-- The value that a read of a register returns. -/
def shown (s : State) (id : RegId) (ix : List Nat) : Long :=
  match id with
  | .keepCapacity => BitVec.ofNat 64 s.capacityReg
  | .jobStatus => s.jobStatusReg
  | .ferryStatus => s.ferryShown
  | .weirAcct => BitVec.ofNat 64 (inMj 16 48 (s.weir.accts.get 0 (ix.getD 0 0)) * 2 ^ 16 + s.regF .weirAcct ix 15 0)
  | .weirPool => BitVec.ofNat 64 (inMj 0 32 s.weir.reserve * 2 ^ 32 + inMj 0 32 s.weir.spare)
  | .weirPartE => BitVec.ofNat 64 ((s.part (ix.getD 0 0)).energy / mjUnits)
  | .xingSel => setF (s.reg .xingSel []) 17 16 (s.xingState (s.regF .xingSel [] 8 0))
  | .xingStat => (s.xing (s.regF .xingSel [] 8 0)).counts
  | .bistCtrl => if s.lifeState = 4 then setF (s.reg .bistCtrl []) 0 0 0 else s.reg .bistCtrl []
  | .meaStatus => s.meaShown ix
  | .vecStatus => s.vecShown ix
  | .sfuStatus => s.sfuShown ix
  | .sfuSlot => s.slotShown ix
  | .pmcReftick => s.tick
  | .pmcBuf => s.sampleShown ix
  | .copyStatus => s.copyShown (ix.getD 0 0)
  | .collStatus => s.collShown (ix.getD 0 0)
  | .ctlStatus => setF (s.reg .ctlStatus []) 3 0 s.sessions.length
  | .ingStatus => s.ingShown (ix.getD 0 0)
  | .mtrBuf => s.meterShown ix
  | _ => s.reg id ix

/-- A read takes RC fields back to zero (R14, R521). -/
def readDone (s : State) (id : RegId) (ix : List Nat) : State :=
  match id with
  | .xingStat => s.modXing (s.regF .xingSel [] 8 0) fun k => { k with counts := 0 }
  | _ => s.clearRc id ix

/-- A look at MEA_STATUS finds the ramp, and one at SFU_STATUS the shadow copies, where the beats since the last one have taken them. -/
def beforeRead (s : State) (id : RegId) (ix : List Nat) : State :=
  match id with
  | .meaStatus => s.rampMove (16 * ix.getD 0 0 + ix.getD 1 0)
  | .sfuStatus => s.shadowsMove (16 * ix.getD 0 0 + ix.getD 1 0)
  | _ => s

/-- A read of an address: none where it is an access error. -/
def mrsRead (s : State) (addr : Nat) : Option (Long × State) :=
  if addr % 8 ≠ 0 then none
  else
    match decodeAddr addr with
    | none => none
    | some (id, ix) => if s.unreachable id ix then none
      else
        let t := s.beforeRead id ix
        some (t.shown id ix, t.readDone id ix)

/-! ### Writes -/

/-- A core selection names a core event (R540). -/
def selOk (v : Long) : Bool := decide (getF v 39 32 ≤ 0x0B) && getF v 31 28 == 0

/-- A die selection names a die event and a unit it has (R541). -/
def dieSelOk (v : Long) : Bool :=
  let u := getF v 31 28
  match getF v 39 32 with
  | 0x00 => true
  | 0x81 => u == 0
  | 0x82 => true
  | 0x83 => true
  | 0x84 => decide (u < 8)
  | 0x85 => decide (u < 4)
  | 0x86 => decide (u < 8)
  | 0x87 => u == 0
  | 0x88 => decide (u < 8)
  | 0x89 => u == 0
  | _ => false

/-- A write of PMC_SAMPLE: a change of ENABLE from 0 to 1 empties the buffer (R545). -/
def wrSample (s : State) (ix : List Nat) (v : Long) : State :=
  let c := 16 * ix.getD 0 0 + ix.getD 1 0
  let t := s.plainWrite .pmcSample ix v
  if s.regF .pmcSample ix 0 0 = 0 ∧ getF v 0 0 = 1 then
    ((t.modCore c fun k => { k with samples := [], sampleCount := 0 }).setRegF .pmcSstat ix 8 0 0).setRegF .pmcSstat ix 23 16 0
  else t

def wrNetCtrl (s : State) (ix : List Nat) (v : Long) : State :=
  let t := s.plainWrite .netCtrl ix v
  if getF v 63 63 = 1 then t.netSave else t

/-- A write of WEIR_CTRL within R503's limits; one that takes TJ_LIMIT 10 °C below the hottest junction begins an emergency (R490). -/
def wrWeirCtrl (s : State) (v : Long) : Option State :=
  if 20 < getF v 12 8 ∨ getF v 12 8 < getF v 4 0 ∨ getF v 31 24 < 85 ∨ 105 < getF v 31 24 then none else some (s.plainWrite .weirCtrl [] v).heatEmergency

/-- A plain write of a register whose own rule names the values it takes. -/
def ruled (s : State) (id : RegId) (ix : List Nat) (v : Long) (ok : Bool) : Option State :=
  if ok then some (s.plainWrite id ix v) else none

/-- A write of a register by its own rules: none where they refuse it. -/
def regWritten (s : State) (id : RegId) (ix : List Nat) (v : Long) : Option State :=
  let i := ix.getD 0 0
  let j := ix.getD 1 0
  match id with
  | .keepWatch => s.wrWatch v
  | .sluClear => s.wrSluClear v
  | .jobHb => s.ruled .jobHb ix v (decide (1000 ≤ getF v 31 0 ∧ getF v 31 0 ≤ 1000000))
  | .weirBudget => s.ruled .weirBudget ix v (decide (500 ≤ getF v 11 0 ∧ getF v 11 0 ≤ 2800))
  | .weirCtrl => s.wrWeirCtrl v
  | .xingSel => s.ruled .xingSel ix v (decide (getF v 8 0 ≤ 325))
  | .bistCtrl => s.wrBistCtrl v
  | .dieSel => s.ruled .dieSel ix v (dieSelOk v)
  | .pmcSel => s.ruled .pmcSel ix v (selOk v)
  | .pmcSample => some (s.wrSample ix v)
  | .lifeCmd => s.wrLifeCmd v
  | .netCtrl => some (s.wrNetCtrl ix v)
  | .vatOwner => s.wrOwner false i j (getF v 12 8)
  | .poolOwner => s.wrOwner true i j (getF v 12 8)
  | .confCtrl => s.wrConfCtrl i v
  | .confRank => s.wrConfRank i v
  | .collWdog => s.ruled .collWdog ix v (decide (1000 ≤ getF v 31 0))
  | .lnkCtrl => s.wrLnkCtrl i v
  | .lnkVcAlloc => s.wrAlloc i v
  | .sluHeat => s.wrHeat i v
  | _ => some (s.plainWrite id ix v)

/-- A write of an address: none where it is an access error. -/
def mrsWrite (s : State) (addr : Nat) (v : Long) : Option State :=
  if addr % 8 ≠ 0 then none
  else
    match decodeAddr addr with
    | none => none
    | some (id, ix) => if s.unreachable id ix || s.romOnly then none else s.regWritten id ix v

end State

/-- REGISTER_WRITE: any access that is not one whole aligned word is an access error (R13). -/
def execRegisterWrite (addr : Word) (size : Nat) (v : Long) (s : State) : Out :=
  .next ((if size = 8 then s.mrsWrite addr.toNat v else none).getD s.accessErr)

/-- PMC_SAMPLE_WRITE. -/
def execPmcSampleWrite (c : CoreId) (v : Long) (s : State) : Out :=
  .next (s.wroteAt .pmcSample (cix c) (some (s.wrSample (cix c) v)))

end Sys2Proof.Machine
end

