-- ==== Sys2Proof/Machine/Host.lean ====
section
/-! DEFINITION. The host side: control frames, sessions and commands (R398-R410, R499, R547, R584), RoCE requests (R400-R402), and the
load commands, after which a session's waiting commands run (R407). -/

namespace Sys2Proof.Machine

/-- The mailbox of a command (R406). -/
def CtlBox : CtlCmd → Nat
  | .ident => 0 | .regRead _ => 0 | .regWrite _ _ => 0 | .regReadMulti _ => 0 | .qpConnect _ _ _ _ _ => 0 | .qpClose _ => 0
  | .imageLoad _ _ _ => 1 | .stageOpen _ => 1
  | .jobModule _ _ => 2 | .jobMap _ _ _ _ _ _ _ => 2 | .jobCommit _ _ => 2 | .jobStore _ _ _ _ _ => 2 | .jobResume _ _ => 2 | .jobRead => 2
  | .partHalt p => 0x10 + p | .partReset p => 0x10 + p | .gatePost p _ _ => 0x10 + p | .regionOpen p _ _ _ => 0x10 + p
  | .regionClose p _ => 0x10 + p | .counterRead p _ => 0x10 + p
  | .meterRead => 0x30 | .meterRecord _ _ => 0x30 | .meterCert _ => 0x30
  | .badMailbox b => b.toNat | .badCode b => b.toNat | .badLength b => b.toNat

namespace State

/-! ### Sessions (R403-R405) -/

def sess? (s : State) (sid : Word) : Option Session := s.sessions.find? fun x => x.id == sid
def modSess (s : State) (sid : Word) (f : Session → Session) : State :=
  { s with sessions := s.sessions.map fun x => if x.id = sid then f x else x }

/-- A frame dropped under R403. -/
def badFrame (s : State) : State := s.bump .ctlStatus [] 63 48

/-- The next number for a session or an R_Key: never zero. -/
def newId (s : State) : Word × State :=
  (BitVec.ofNat 32 s.nextId, { s with nextId := if s.nextId + 1 = 2 ^ 32 then 1 else s.nextId + 1 })

/-- An RDMA queue pair's error: exports over it are aborted, and SAVEs over it complete without their trailer (R401, R442, R457). -/
def qpsFail (s : State) (bad : Qp → Bool) : State :=
  let hit := (s.qps.filter bad).map fun (q : Qp) => q.qpn
  let s := { s with qps := s.qps.map fun q => if bad q then { q with err := true } else q }
  let s := (s.ferries.filter fun f => hasN hit f.qpn).foldl (fun (t : State) f => t.ferryAbort f.part) s
  hit.foldl State.savesFailed s

/-- Queue pairs are closed. -/
def qpsClose (s : State) (bad : Qp → Bool) : State :=
  let t := s.qpsFail bad
  { t with qps := t.qps.filter fun q => !bad { q with err := false } && !bad q }

/-- A session ends, and its QPs with it (R404). -/
def endSession (s : State) (sid : Word) : State :=
  let s := { s with sessions := s.sessions.filter fun x => x.id != sid }
  s.qpsClose fun q => q.session == sid

/-- The module closes a session: one CLOSE frame, and the loss is counted (R404, R424). -/
def dropSession (s : State) (sid : Word) : State :=
  match s.sess? sid with
  | none => s
  | some x => ((s.endSession sid).bump .ctlStatus [] 47 32).emit (s.ctlOut x (bareFrame 7))

/-- Is a number at or before another of the same series? -/
def notAfter (a b : Word) : Bool := decide (0 ≤ (b - a).toInt)

/-- ACKSEQ of a frame from the host: acknowledged frames go, and one EVENTS_LOST reports what was dropped once there is room. -/
def useAck (s : State) (sid : Word) (port : NetId) (ack : Word) : State :=
  match s.sess? sid with
  | none => s
  | some x =>
    let left := x.unacked.filter fun f => !notAfter f.seq ack
    let s := s.modSess sid fun x => { x with port := port, unacked := left, resends := if left.length < x.unacked.length then 0 else x.resends }
    if x.lost ≠ 0 ∧ left.length < maxUnacked then
      let y := { x with port := port, unacked := left, resends := 0, lost := 0 }
      let r := s.pushFrame y 3 0 0x8005 0 (beBytes 4 x.lost) 0
      (s.modSess sid fun _ => r.1).emitAll r.2
    else s

/-- The session that a frame from the host belongs to (R403, R404). -/
def sessOf (s : State) (h : CmdHdr) : Option Session :=
  match s.sess? h.session with
  | none => none
  | some x => if x.admin = decide (h.port = 0) ∧ x.ip = h.ip ∧ x.version = h.version then some x else none

/-- Can a frame reach the control engine: the management port, or a host port that is up? -/
def portUp (s : State) (n : NetId) : Bool := n == 0 || s.regF .ethStatus [n.val - 1] 0 0 == 1

/-- Can a frame arrive: at a port that is up, through its MAC's crossing (R517)? -/
def frameIn (s : State) (n : NetId) : Bool := s.portUp n && !s.framesLost n

/-- Records held while no session was open, oldest first, behind a count of those not sent (R584). -/
def sendHeld (s : State) (sid : Word) : State :=
  let held := s.keeper.held
  let s := { s with keeper := { s.keeper with held := [] } }.setRegF .keepStatus [] 15 8 0
  let ev := (if 1024 < held.length then [(0x8005, beBytes 4 (held.length - 1024))] else []) ++ (held.take 1024).map fun r => (0x8001, r.bytes)
  ev.foldl (fun (t : State) e =>
    match t.sess? sid with
    | none => t
    | some x =>
      let r := t.pushFrame x 3 0 e.1 0 e.2 0
      (t.modSess sid fun _ => r.1).emitAll r.2) s

/-- OPEN_REPLY (R404): a session and its version, or none and a status in CODE; the body is the nonce (log 54). -/
def openReply (s : State) (n : NetId) (ip : BitVec 128) (sid : Word) (version : Byte) (status : Half) (nonce : Long) : State :=
  s.emit (.udp n (s.wire n ip) ip
    (beBytes 2 0x4743 ++ [version, 6] ++ beBytes 4 sid.toNat ++ fill 10 0 ++ beBytes 2 status.toNat ++ fill 4 0 ++ beBytes 2 8 ++ fill 6 0 ++
      beBytes 8 nonce.toNat))

/-- OPEN (R404): the reply carries the nonce, and a session or a status. -/
def sessionOpen (s : State) (n : NetId) (ip : BitVec 128) (vmask : Byte) (nonce : Long) : State :=
  if s.frameIn n && (s.ready || (s.romOnly && n == 0)) then
    let common := vmask.toNat % 4
    if common = 0 then s.openReply n ip 0 0 9 nonce
    else if 8 ≤ s.sessions.length then s.openReply n ip 0 0 6 nonce
    else
      let r := s.newId
      let v : Byte := if 2 ≤ common then 0x11 else 0x10
      let x : Session := { id := r.1, admin := n == 0, ip := ip, port := n, version := v, expect := 1, sendSeq := 1, unacked := [], history := [],
                           held := [], running := [], queued := [], resends := 0, lost := 0 }
      (({ r.2 with sessions := r.2.sessions ++ [x] }).openReply n ip r.1 v 0 nonce).sendHeld r.1
  else s

/-- CLOSE from the host. -/
def sessionClose (s : State) (h : CmdHdr) : State :=
  if s.frameIn h.port then
    match s.sessOf h with
    | none => s.badFrame
    | some x => s.endSession x.id
  else s

/-- ACK from the host. -/
def sessionAck (s : State) (h : CmdHdr) : State :=
  if s.frameIn h.port then
    match s.sessOf h with
    | none => s.badFrame
    | some x => s.useAck x.id h.port h.ackseq
  else s

/-- CONTROL_RESEND_TIMER: the unacknowledged frames again, ten times at most, and then the session is closed (R405). -/
def resendTimer (s : State) (sid : Word) : State :=
  match s.sess? sid with
  | none => s
  | some x =>
    if x.unacked.isEmpty then s
    else if 10 ≤ x.resends then s.dropSession sid
    else
      let again := x.unacked.map (s.ctlOut x)
      (s.modSess sid fun x => { x with resends := x.resends + 1 }).emitAll again

/-! ### Queue pairs, regions and gates (R400-R402, R410) -/

def mapped128 (s : State) (n : Nat) : Nat := (s.qps.filter fun q => q.port.val == n).length

/-- QP_CONNECT. -/
def qpConnect (s : State) (sid seq : Word) (port mtu : Byte) (qpn psn : BitVec 24) (ip : BitVec 128) : State :=
  if 2 < mtu.toNat then s.reply sid seq 0 5 []
  else if hp : port.toNat < 2 then
    if 128 ≤ s.mapped128 port.toNat then s.reply sid seq 0 6 []
    else
      let n := ((List.range 257).find? fun k => decide (0 < k) && !(s.qps.any fun q => q.qpn == k)).getD 0
      let own := s.freeLong.toNat % 2 ^ 24
      let q : Qp := ⟨n, ⟨port.toNat, hp⟩, sid, false, 1024 * 2 ^ mtu.toNat, qpn, psn, ip, false⟩
      ({ s.usedFresh with qps := s.qps ++ [q] }).reply sid seq 0 0 (beBytes 3 n ++ beBytes 3 own)
  else s.reply sid seq 0 5 []

/-- QP_CLOSE. -/
def qpClose (s : State) (sid seq : Word) (qpn : BitVec 24) : State :=
  let mine := fun (q : Qp) => q.qpn == qpn.toNat && q.session == sid
  if s.qps.any mine then (s.qpsClose mine).reply sid seq 0 0 [] else s.reply sid seq 0 5 []

/-- A new region and its R_Key. -/
def addRegion (s : State) (sid : Word) (part : Option Nat) (va len access : Nat) : Word × State :=
  let r := s.newId
  (r.1, { r.2 with regions := r.2.regions ++ [⟨r.1, part, va, len, access.testBit 0, access.testBit 1, sid⟩] })

/-- STAGE_OPEN. -/
def stageOpen (s : State) (sid seq : Word) (access : Byte) : State :=
  if 3 < access.toNat then s.reply sid seq 1 5 []
  else
    let r := s.addRegion sid none 0 stagingLen access.toNat
    r.2.reply sid seq 1 0 (beBytes 4 r.1.toNat)

/-- REGION_OPEN: every page of the range must permit what is asked for. -/
def regionOpen (s : State) (sid seq : Word) (p va len : Nat) (access : Byte) : State :=
  let mb := 0x10 + p
  let a := access.toNat
  if s.pstate p = 0 ∨ s.pstate p = 4 then s.reply sid seq mb 8 []
  else if 3 < a ∨ 2 ^ 48 < va + len then s.reply sid seq mb 5 []
  else if 64 ≤ (s.regions.filter fun r => r.part == some p).length then s.reply sid seq mb 6 []
  else
    match (s.part p).img with
    | none => s.reply sid seq mb 8 []
    | some im =>
      let bad := fun bit => (checkRuns im.pages bit [(va, len)]).isSome
      if (a.testBit 0 && bad 0) || (a.testBit 1 && bad 1) then s.reply sid seq mb 7 []
      else
        let r := s.addRegion sid (some p) va len a
        r.2.reply sid seq mb 0 (beBytes 4 r.1.toNat)

/-- REGION_CLOSE. -/
def regionClose (s : State) (sid seq : Word) (p : Nat) (rkey : Word) : State :=
  let it := fun (r : Region) => r.rkey == rkey && r.part == some p
  if s.regions.any it then { s with regions := s.regions.filter fun r => !it r }.reply sid seq (0x10 + p) 0 []
  else s.reply sid seq (0x10 + p) 5 []

/-- GATE_POST: taken; its completion follows once it is in effect. -/
def gatePost (s : State) (sid seq : Word) (p : Nat) (gate : Byte) (value : Word) : State :=
  if s.pstate p = 0 ∨ s.pstate p = 4 then s.reply sid seq (0x10 + p) 8 []
  else if 63 < gate.toNat then s.reply sid seq (0x10 + p) 5 []
  else { s with gatePosts := s.gatePosts ++ [⟨p, gate.toNat, value, sid, seq⟩] }

/-- GATE_IN_EFFECT: the oldest post of a gate; the HOSTINs it reaches are met (R409, R410). -/
def gateInEffect (s : State) (p g : Nat) : State :=
  match s.gatePosts.find? fun x => x.part == p && x.gate == g with
  | none => s
  | some x =>
    let s := { s with gatePosts := s.gatePosts.erase x }
    let s := s.modPart p fun y => { y with gates := y.gates.set g x.value }
    (s.gateCheck p g).reply x.session x.seq (0x10 + p) 0 []

/-! ### Counters and the meter (R499, R547) -/

/-- The register that an item names, where the grant, the core and the index allow it. -/
def itemReg (s : State) (p : Nat) (im : PartImg) (i : CounterItem) : Option (RegId × List Nat) :=
  let l := i.core.toNat
  let x := i.index.toNat
  if 128 ≤ l then none
  else
    match s.physOf l with
    | none => none
    | some c =>
      if (s.core c).part ≠ some p then none
      else
        match i.kind.toNat with
        | 0 => if im.grant.getLsbD 0 && decide (x < 8) then some (.pmcCnt, cix c ++ [x]) else none
        | 1 => if im.grant.getLsbD 1 && x == 0 then some (.pmcReftick, cix c) else none
        | 2 => if im.grant.getLsbD 2 && decide (x < 1024) then some (.pmcBuf, cix c ++ [x]) else none
        | 3 => if im.grant.getLsbD 2 && x == 0 then some (.pmcSstat, cix c) else none
        | _ => none

/-- COUNTER_READ: every item, or ACCESS and no value; an item behind a block that cannot be reached is an access error (R547, R580). -/
def counterRead (s : State) (sid seq : Word) (p : Nat) (items : List CounterItem) : State :=
  let mb := 0x10 + p
  match (s.part p).img with
  | none => s.reply sid seq mb 8 []
  | some im =>
    if items.isEmpty ∨ 64 < items.length then s.reply sid seq mb 3 []
    else
      let rs := items.filterMap (s.itemReg p im)
      let out := rs.filter fun r => s.unreachable r.1 r.2
      if rs.length < items.length ∨ out.isEmpty = false then (out.foldl (fun (t : State) _ => t.accessErr) s).reply sid seq mb 5 []
      else
        let r := rs.foldl (fun (a : State × List Byte) r => (a.1.readDone r.1 r.2, a.2 ++ beBytes 8 (a.1.shown r.1 r.2).toNat)) (s, [])
        r.1.reply sid seq mb 0 r.2

/-- METER_READ. -/
def meterRead (s : State) (sid seq : Word) : State :=
  s.reply sid seq 0x30 0 (beBytes 8 (s.reg .mtrStatus []).toNat ++ beBytes 8 (s.reg .mtrEnergyA []).toNat ++
    beBytes 8 (s.reg .mtrEnergyB []).toNat ++ beBytes 8 (s.reg .mtrPower []).toNat)

/-- METER_RECORD: part of a record that is held, 0 naming the newest. -/
def meterRecordRead (s : State) (sid seq : Word) (n : Long) (off : Word) : State :=
  let found := if n = 0 then (s.meter.records.find? fun r => r.1 == s.meter.latest) else s.meter.records.find? fun r => le r.2 0x18 8 == n.toNat
  match found with
  | none => s.reply sid seq 0x30 7 []
  | some (_, r) =>
    if r.length ≤ off.toNat then s.reply sid seq 0x30 5 []
    else s.reply sid seq 0x30 0 (beBytes 8 (le r 0x18 8) ++ beBytes 4 r.length ++ fill 4 0 ++ (r.drop off.toNat).take 1024)

/-- METER_CERT. -/
def meterCertRead (s : State) (sid seq : Word) (off : Word) : State :=
  let c := Config.certificate 100
  if c.length ≤ off.toNat then s.reply sid seq 0x30 5 []
  else s.reply sid seq 0x30 0 (beBytes 4 c.length ++ fill 4 0 ++ (c.drop off.toNat).take 1024)

/-! ### Commands (R405-R407) -/

/-- REG_READ. -/
def cmdRegRead (s : State) (sid seq : Word) (a : Word) : State :=
  match s.mrsRead a.toNat with
  | none => s.accessErr.reply sid seq 0 5 []
  | some (v, t) => t.reply sid seq 0 0 (beBytes 8 v.toNat)

/-- REG_WRITE. -/
def cmdRegWrite (s : State) (sid seq : Word) (a : Word) (v : Long) : State :=
  match s.mrsWrite a.toNat v with
  | none => s.accessErr.reply sid seq 0 5 []
  | some t => t.reply sid seq 0 0 []

/-- REG_READ_MULTI: the values in order, or ACCESS and none (R544, R580). -/
def cmdRegMulti (s : State) (sid seq : Word) (l : List Word) : State :=
  let bad := (l.filter fun a => (s.mrsRead a.toNat).isNone).length
  if l.isEmpty ∨ 64 < l.length then s.reply sid seq 0 3 []
  else if 0 < bad then ((List.range bad).foldl (fun (t : State) _ => t.accessErr) s).reply sid seq 0 5 []
  else
    let r := l.foldl (fun (x : State × List Byte) a => match x.1.mrsRead a.toNat with
      | none => x
      | some (v, t) => (t, x.2 ++ beBytes 8 v.toNat)) (s, [])
    r.1.reply sid seq 0 0 r.2

/-- A command executed for a session: its completion, or its start. -/
def runCmd (s : State) (sid seq : Word) (c : CtlCmd) : State :=
  let x := s.sess? sid
  let admin := match x with | some x => x.admin | none => false
  let v11 := match x with | some x => x.version == 0x11 | none => false
  let asAdmin := fun (t : State) => if admin then t else s.reply sid seq 0 4 []
  if !s.ready then
    match c with
    | .regRead a => asAdmin (s.cmdRegRead sid seq a)
    | .regReadMulti l => if v11 then asAdmin (s.cmdRegMulti sid seq l) else s.reply sid seq 0 2 []
    | _ => s.reply sid seq (CtlBox c) 2 []
  else
    match c with
    | .ident => s.reply sid seq 0 0 (beBytes 8 (s.reg .keepIdent []).toNat)
    | .regRead a => asAdmin (s.cmdRegRead sid seq a)
    | .regWrite a v => asAdmin (s.cmdRegWrite sid seq a v)
    | .regReadMulti l => if v11 then asAdmin (s.cmdRegMulti sid seq l) else s.reply sid seq 0 2 []
    | .qpConnect port mtu qpn psn ip => s.qpConnect sid seq port mtu qpn psn ip
    | .qpClose qpn => s.qpClose sid seq qpn
    | .imageLoad off len mode => s.imageLoad sid seq off.toNat len.toNat mode.toNat
    | .stageOpen access => s.stageOpen sid seq access
    | .jobModule m valid => s.jobModule sid seq m valid
    | .jobMap part policy gen shards first count es => s.jobMap sid seq part policy gen shards first count es
    | .jobCommit part gen => s.jobCommit sid seq part gen
    | .jobStore part qpn rkey base stride => s.jobStore sid seq part qpn rkey base stride
    | .jobResume step layer => s.jobResume sid seq step layer
    | .jobRead => s.jobRead sid seq
    | .partHalt p => s.partHalt sid seq p
    | .partReset p => s.partReset sid seq p
    | .gatePost p gate value => s.gatePost sid seq p gate value
    | .regionOpen p va len access => s.regionOpen sid seq p va.toNat len.toNat access
    | .regionClose p rkey => s.regionClose sid seq p rkey
    | .counterRead p items => s.counterRead sid seq p items
    | .meterRead => s.meterRead sid seq
    | .meterRecord n off => s.meterRecordRead sid seq n off
    | .meterCert off => s.meterCertRead sid seq off
    | .badMailbox b => s.reply sid seq b.toNat 1 []
    | .badCode b => s.reply sid seq b.toNat 2 []
    | .badLength b => s.reply sid seq b.toNat 3 []

/-- Is a command of the session still at work in a mailbox (R407)? -/
def boxBusy (s : State) (sid : Word) (box : Nat) : Bool :=
  (box == 1 && (match s.load with | some l => l.session == sid | none => false)) ||
  (s.resets.any fun r => 0x10 + r.part == box && (match r.reply with | some q => q.1 == sid | none => false)) ||
  (s.gatePosts.any fun x => 0x10 + x.part == box && x.session == sid) ||
  (List.range 16).any fun p => 0x10 + p == box && (s.part p).haltFor.any fun q => q.1 == sid

/-- The first waiting command of a session whose mailbox is free. -/
def nextWaiting (s : State) (x : Session) : Option (Word × CtlCmd) :=
  let q := x.queued
  (List.range q.length).findSome? fun i =>
    match q[i]? with
    | none => none
    | some e =>
      let box := CtlBox e.2
      if (q.take i).any (fun d => CtlBox d.2 == box) || s.boxBusy x.id box then none else some e

/-- Waiting commands run, in order, while their mailboxes are free. -/
def serve : Nat → State → State
  | 0, s => s
  | fuel + 1, s =>
    match s.sessions.findSome? fun x => (s.nextWaiting x).map fun e => (x.id, e) with
    | none => s
    | some (sid, e) =>
      serve fuel ((s.modSess sid fun x => { x with queued := x.queued.filter fun d => d.1 != e.1 }).runCmd sid e.1 e.2)

def allServed (s : State) : State := serve (sumN (s.sessions.map fun x => x.queued.length)) s

/-- The held command whose number is now expected, and those after it, are accepted in order. -/
def acceptHeld : Nat → State → Word → State
  | 0, s, _ => s
  | fuel + 1, s, sid =>
    match s.sess? sid with
    | none => s
    | some x =>
      match x.held.find? fun h => h.1 == x.expect with
      | none => s
      | some (seq, tag, c) =>
        let s := s.modSess sid fun x =>
          { x with expect := x.expect + 1, held := x.held.filter fun h => h.1 != seq, running := x.running ++ [(seq, tag)],
                   queued := x.queued ++ [(seq, c)] }
        acceptHeld fuel s.allServed sid

/-- A duplicate: its completion again, if that is among the last 256 frames, else an ACK (R405). -/
def duplicate (s : State) (x : Session) (seq : Word) : State :=
  match x.history.find? fun f => f.kind == 2 && f.cmd == seq with
  | some f => s.emit (s.ctlOut x f)
  | none => s.emit (s.ctlOut x (bareFrame 4))

/-- A COMMAND frame (R405): the next one runs, with those held behind it; an earlier one is a duplicate; one up to 63 ahead is held; any
other is dropped. -/
def command (s : State) (h : CmdHdr) (c : CtlCmd) : State :=
  if s.frameIn h.port then
    match s.sessOf h with
    | none => s.badFrame
    | some x =>
      let s := s.useAck x.id h.port h.ackseq
      match s.sess? x.id with
      | none => s
      | some x =>
        let d := (h.seq - x.expect).toInt
        if d < 0 then s.duplicate x h.seq
        else if 63 < d ∨ maxUnacked ≤ x.unacked.length then s
        else
          let known := x.held.any fun e => e.1 == h.seq
          let s := if known then s else s.modSess x.id fun x => { x with held := x.held ++ [(h.seq, h.tag, c)] }
          let s := acceptHeld 64 s x.id
          match s.sess? x.id with
          | none => s
          | some x => s.emit (s.ctlOut x (bareFrame 4))
  else s

/-! ### RoCE requests (R400, R401) -/

/-- A packet dropped on a host port (R422). -/
def ethDrop (s : State) (n : Nat) : State := s.bump .ethStatus [n] 63 48

/-- The QP that executes a packet arriving on a port. -/
def liveQp (s : State) (n : Fin 2) (qpn : Nat) : Option Qp := s.qps.find? fun q => q.qpn == qpn && q.port == n && !q.err

/-- NAK Remote Access Error (code 2), and the QP's error. -/
def nakAccess (s : State) (n : Fin 2) (qpn : Nat) : State := (s.roceOut n qpn (.nak 2)).qpsFail fun q => q.qpn == qpn

/-- The region of an R_Key that covers an access with its permission; staging bytes cannot be written while a load is in progress (R420). -/
def regionFor (s : State) (rkey : Word) (va len : Nat) (write : Bool) : Option Region :=
  match s.regions.find? fun r => r.rkey == rkey with
  | none => none
  | some r =>
    let st := s.regF .keepImgStatus [] 55 52
    if r.va ≤ va ∧ va + len ≤ r.va + r.len ∧ (if write then r.write else r.read) = true ∧ ¬(write = true ∧ r.part = none ∧ 1 ≤ st ∧ st ≤ 4) then some r
    else none

/-- The physical pieces of an access to a region. -/
def regionPieces (s : State) (r : Region) (va len : Nat) (bit : Nat) : List Piece :=
  match r.part with
  | none => [⟨.tier true, stagingBase + va, len, va⟩]
  | some p =>
    match (s.part p).img with
    | none => []
    | some im => piecesOf im.pages bit va len

/-- The record of an RDMA access error at an address of its pieces (R323, reader kind 1). -/
def rdmaErr (s : State) (ps : List Piece) (va : Nat) : State :=
  match ps.find? fun p => decide (p.va ≤ va ∧ va < p.va + p.len) with
  | none => s
  | some p =>
    match p.place with
    | .tier slow => s.memErr slow ((p.addr + (va - p.va)) / 64 * 64) 1
    | _ => s

/-- The sluice class of an access to a region (R328, R401). -/
def regionClass (r : Region) : Nat := r.part.getD serviceClass

/-- Pieces written by a host: bytes that can be stored are, and the first address that cannot be merged is answered. -/
def hostStore (s : State) (ps : List Piece) (data : List Byte) : State × Option Nat :=
  let r := ps.foldl (fun (a : State × List Byte × Option Nat) p =>
    let w := a.1.writePlace p.place p.addr (a.2.1.take p.len)
    (w.1, a.2.1.drop p.len, a.2.2 <|> w.2.map fun g => p.va + (g - p.addr))) (s, data, none)
  (r.1, r.2.2)

/-- RDMA WRITE. -/
def rdmaWrite (s : State) (n : Fin 2) (qpn : Nat) (rkey : Word) (va : Nat) (data : List Byte) : State :=
  if s.frameIn n.succ = false then s
  else
    match s.liveQp n qpn with
    | none => s.ethDrop n
    | some _ =>
      match s.regionFor rkey va data.length true with
      | none => s.nakAccess n qpn
      | some r =>
        let ps := s.regionPieces r va data.length 1
        let w := (s.trafficAll (regionClass r) (spansOf ps)).hostStore ps data
        match w.2 with
        | none => w.1.roceOut n qpn .ack
        | some a => (w.1.rdmaErr ps a).roceOut n qpn (.nak 3)

/-- RDMA READ: no byte of a granule that fails its check is sent. -/
def rdmaRead (s : State) (n : Fin 2) (qpn : Nat) (rkey : Word) (va len : Nat) : State :=
  if s.frameIn n.succ = false then s
  else
    match s.liveQp n qpn with
    | none => s.ethDrop n
    | some _ =>
      match s.regionFor rkey va len false with
      | none => s.nakAccess n qpn
      | some r =>
        let ps := s.regionPieces r va len 0
        let d := (s.trafficAll (regionClass r) (spansOf ps)).readPieces ps
        let bad := match d.bad, d.failedAt.map fun i => va + i with
          | some a, some b => some (min a b)
          | some a, none => some a
          | none, b => b
        let bytes := d.bytes.map fun b => b.getD 0
        match bad with
        | none => d.st.roceOut n qpn (.data bytes)
        | some a =>
          let good := bytes.take (a / 64 * 64 - va)
          let t := if good.isEmpty then d.st else d.st.roceOut n qpn (.data good)
          (t.rdmaErr ps a).roceOut n qpn (.nak 3)

end State

/-! ### Control frames as bytes (R403, R406) -/

/-- The exact length, or BAD_LENGTH. -/
def sized (box : Byte) (b : List Byte) (n : Nat) (c : CtlCmd) : CtlCmd := if b.length = n then c else .badLength box

def mapEntryOf (b : List Byte) : MapEntry :=
  ⟨BitVec.ofNat 16 (be b 0 2), BitVec.ofNat 16 (be b 2 2), BitVec.ofNat 16 (be b 4 2), b.getD 6 0, BitVec.ofNat 32 (be b 8 4),
   BitVec.ofNat 32 (be b 0xC 4), BitVec.ofNat 32 (be b 0x10 4)⟩

def keeperCmd (box : Byte) (version : Byte) (code : Nat) (b : List Byte) : CtlCmd :=
  match code with
  | 0x0001 => sized box b 0 .ident
  | 0x0002 => sized box b 4 (.regRead (BitVec.ofNat 32 (be b 0 4)))
  | 0x0003 => sized box b 16 (.regWrite (BitVec.ofNat 32 (be b 0 4)) (BitVec.ofNat 64 (be b 8 8)))
  | 0x0004 =>
    if version = 0x10 then .badCode box
    else if b.length % 4 = 0 ∧ 4 ≤ b.length ∧ b.length ≤ 256 then .regReadMulti ((chunksOf 4 b).map fun x => BitVec.ofNat 32 (be x 0 4))
    else .badLength box
  | 0x0005 => sized box b 24 (.qpConnect (b.getD 0 0) (b.getD 1 0) (BitVec.ofNat 24 (be b 2 3)) (BitVec.ofNat 24 (be b 5 3)) (BitVec.ofNat 128 (be b 8 16)))
  | 0x0006 => sized box b 3 (.qpClose (BitVec.ofNat 24 (be b 0 3)))
  | _ => .badCode box

def imageCmd (box : Byte) (code : Nat) (b : List Byte) : CtlCmd :=
  match code with
  | 0x0101 => sized box b 17 (.imageLoad (BitVec.ofNat 64 (be b 0 8)) (BitVec.ofNat 64 (be b 8 8)) (b.getD 16 0))
  | 0x0102 => sized box b 1 (.stageOpen (b.getD 0 0))
  | _ => .badCode box

def jobCmd (box : Byte) (code : Nat) (b : List Byte) : CtlCmd :=
  match code with
  | 0x0401 => sized box b 3 (.jobModule (BitVec.ofNat 16 (be b 0 2)) (b.getD 2 0))
  | 0x0402 =>
    let n := be b 0x10 2
    if b.length = 20 + 20 * n ∧ 1 ≤ n ∧ n ≤ 69 then
      .jobMap (b.getD 0 0) (b.getD 1 0) (BitVec.ofNat 32 (be b 4 4)) (BitVec.ofNat 32 (be b 8 4)) (BitVec.ofNat 32 (be b 0xC 4)) (BitVec.ofNat 16 n)
        ((chunksOf 20 (b.drop 20)).map mapEntryOf)
    else .badLength box
  | 0x0403 => sized box b 8 (.jobCommit (b.getD 0 0) (BitVec.ofNat 32 (be b 4 4)))
  | 0x0404 => sized box b 24 (.jobStore (b.getD 0 0) (BitVec.ofNat 24 (be b 1 3)) (BitVec.ofNat 32 (be b 4 4)) (BitVec.ofNat 64 (be b 8 8)) (BitVec.ofNat 64 (be b 16 8)))
  | 0x0405 => sized box b 5 (.jobResume (BitVec.ofNat 32 (be b 0 4)) (b.getD 4 0))
  | 0x0406 => sized box b 0 .jobRead
  | _ => .badCode box

def counterItemOf (b : List Byte) : CounterItem := ⟨b.getD 0 0, b.getD 1 0, BitVec.ofNat 16 (be b 2 2)⟩

def partCmd (box : Byte) (p : PartId) (code : Nat) (b : List Byte) : CtlCmd :=
  match code with
  | 0x0201 => sized box b 0 (.partHalt p)
  | 0x0202 => sized box b 0 (.partReset p)
  | 0x0203 => sized box b 8 (.gatePost p (b.getD 0 0) (BitVec.ofNat 32 (be b 4 4)))
  | 0x0204 => sized box b 17 (.regionOpen p (BitVec.ofNat 64 (be b 0 8)) (BitVec.ofNat 64 (be b 8 8)) (b.getD 16 0))
  | 0x0205 => sized box b 4 (.regionClose p (BitVec.ofNat 32 (be b 0 4)))
  | 0x0206 => if b.length % 4 = 0 ∧ 4 ≤ b.length ∧ b.length ≤ 256 then .counterRead p ((chunksOf 4 b).map counterItemOf) else .badLength box
  | _ => .badCode box

def meterCmd (box : Byte) (code : Nat) (b : List Byte) : CtlCmd :=
  match code with
  | 0x0501 => sized box b 0 .meterRead
  | 0x0502 => sized box b 12 (.meterRecord (BitVec.ofNat 64 (be b 0 8)) (BitVec.ofNat 32 (be b 8 4)))
  | 0x0503 => sized box b 4 (.meterCert (BitVec.ofNat 32 (be b 0 4)))
  | _ => .badCode box

/-- The command that a mailbox, a code and a body spell (R406, R459, R499). -/
def cmdOf (box version : Byte) (code : Nat) (b : List Byte) : CtlCmd :=
  let n := box.toNat
  if n = 0 then keeperCmd box version code b
  else if n = 1 then imageCmd box code b
  else if n = 2 then jobCmd box code b
  else if n = 0x30 then meterCmd box code b
  else if 0x10 ≤ n ∧ n < 0x20 then partCmd box ⟨n % 16, Nat.mod_lt n (by decide)⟩ code b
  else .badMailbox box

namespace State

/-- A datagram for port 48,128 (R403). -/
def ctlFrame (s : State) (n : NetId) (peer : BitVec 128) (f : List Byte) : State :=
  let body := f.drop 32
  let kind := be f 3 1
  let h : CmdHdr := ⟨n, peer, f.getD 2 0, BitVec.ofNat 32 (be f 4 4), BitVec.ofNat 32 (be f 8 4), BitVec.ofNat 32 (be f 0xC 4), BitVec.ofNat 32 (be f 0x14 4)⟩
  if f.length < 32 ∨ be f 0 2 ≠ 0x4743 ∨ be f 0x18 2 ≠ body.length ∨ 1400 < body.length then s.badFrame
  else if kind = 1 then s.command h (cmdOf (f.getD 0x10 0) (f.getD 2 0) (be f 0x12 2) body)
  else if kind = 4 then s.sessionAck h
  else if kind = 5 then
    if h.session = 0 ∧ body.length = 16 then s.sessionOpen n peer (body.getD 0 0) (BitVec.ofNat 64 (be body 8 8)) else s.badFrame
  else if kind = 7 then s.sessionClose h
  else s.badFrame

/-- The host's PFC holds the priorities of a mask back at host port k; frames that waited for another leave (R398). -/
def setPaused (s : State) (k : Nat) (mask : Byte) : State :=
  let t := { s with paused := s.paused.set k mask }
  ({ t with waitOut := t.waitOut.filter t.pausedOut } : State).emitAll (t.waitOut.filter fun o => !t.pausedOut o)

/-- Does a frame leave by host port k? -/
def Output.byPort (k : Nat) : Output → Bool
  | .udp n _ _ _ => n.val == k + 1
  | .roce q _ _ _ => q.val == k
  | _ => false

/-- A port's pauses end, and what waits there is lost. -/
def clearPfc (s : State) (k : Nat) : State :=
  { s with paused := s.paused.erase k, pfcSent := s.pfcSent.erase k, waitOut := s.waitOut.filter fun o => !Output.byPort k o }

/-- A host port looks at its receive buffers after a frame: where the priorities it holds the host back on change, a PFC frame says so (R398;
log 54). -/
def pausePeer (s : State) (n : NetId) : State :=
  if h : 0 < n.val ∧ s.regF .ethStatus [n.val - 1] 0 0 = 1 then
    let k : Fin 2 := ⟨n.val - 1, by have := n.isLt; omega⟩
    let m := Config.pfcOut k s.fresh &&& (s.eth.get EthSet.reset k).pfc
    let s := s.usedFresh
    if m = s.pfcSent.get 0 k then s else ({ s with pfcSent := s.pfcSent.set k m } : State).emit (.pfc k m)
  else s

/-- A RoCE packet on a host port for a QP that can take it; any other is dropped and counted. -/
def roce (s : State) (n : NetId) (qpn : BitVec 24) (f : Fin 2 → State) : State :=
  if h : 0 < n.val then
    let k : Fin 2 := ⟨n.val - 1, by have := n.isLt; omega⟩
    match s.liveQp k qpn.toNat with
    | none => s.ethDrop k
    | some _ => f k
  else s

/-- A received frame without its tag (R398, R403). -/
def ethBody (s : State) (n : NetId) (f : EthFrame) : State :=
  let drop := if n.val = 0 then s else s.ethDrop (n.val - 1)
  match f with
  | .doubleTagged => drop
  | .tagged _ _ => drop
  | .oversize => drop
  | .unsupportedIp => drop
  | .query ip => if s.ownAddr n ip then s.emit (.queryReply n (s.wire n ip).vlan ip) else s
  | .addressed dst g => if s.ownAddr n dst then s.ethBody n g else s
  | .udp peer dport payload => if dport.toNat = 48128 then s.ctlFrame n peer payload else drop
  | .roceOther qpn => s.roce n qpn fun k => s.roceOut k qpn.toNat (.nak 1)
  | .roceEcn qpn => s.roce n qpn fun k => s.roceOut k qpn.toNat .cnp
  | .roceCnp qpn => s.roce n qpn fun k =>
      { s with qps := s.qps.map fun q => if q.qpn = qpn.toNat ∧ q.port = k then { q with slowed := true } else q }
  | .roceAck qpn m => s.roce n qpn fun _ => s.savesAcked qpn.toNat m
  | .roceNak qpn => s.roce n qpn fun _ => s.qpsFail fun q => q.qpn == qpn.toNat
  | .pfc prios =>
    if n.val = 0 then s
    else s.setPaused (n.val - 1) (prios &&& (s.eth.get EthSet.reset (n.val - 1)).pfc)
  | .fecUncorrectable => if n.val = 0 then s else s.bump .ethStatus [n.val - 1] 47 32

/-- ETH_FRAME_RECEIVE: one 802.1Q tag of VID 1 to 4,094 at most (R398); a frame of another VID is dropped (log 54). -/
def ethFrame (s : State) (n : NetId) (f : EthFrame) : State :=
  if s.frameIn n = false then s
  else
    match f with
    | .tagged vid g => if vid = 0 ∨ vid = 4095#12 then (if n.val = 0 then s else s.ethDrop (n.val - 1)) else s.ethBody n g
    | g => s.ethBody n g

/-! ### Host port links (R398, R408, R420, R422) -/

/-- Host sessions whose port is down continue on a host port that is up (R420). -/
def rehome (s : State) : State :=
  { s with sessions := s.sessions.map fun x =>
      if x.admin || s.portUp x.port then x
      else match ([1, 2] : List NetId).find? s.portUp with
        | some n => { x with port := n }
        | none => x }

/-- HOST_PORT_LINK_UP: the speed is the negotiated one within SPEED_MAX, and the other settings of ETH_CTRL take effect (R423). -/
def portLinkUp (s : State) (n : Nat) (fast : Bool) : State :=
  if s.regF .ethCtrl [n] 0 0 = 1 ∧ s.regF .ethStatus [n] 0 0 = 0 then
    let speed := if fast && s.regF .ethCtrl [n] 1 1 == 0 then 2 else 1
    let c := s.reg .ethCtrl [n]
    let t := (((s.turnOn (152 + n)).setRegF .ethStatus [n] 0 0 1).setRegF .ethStatus [n] 7 4 speed)
    let t := (({ t with eth := t.eth.set n ⟨BitVec.ofNat 8 (getF c 23 16), getF c 14 12, getF c 10 8⟩ } : State).clearPfc n).rehome
    if t.ready then t.event 0 0x8004 [BitVec.ofNat 8 (16 + n), 1, 0] else t
  else s

/-- HOST_PORT_DOWN: the QPs bound to the port enter their error state, and sessions continue on the other port (R420). -/
def portDown (s : State) (n : Fin 2) : State :=
  if s.regF .ethStatus [n.val] 0 0 = 1 then
    let t := ((s.setRegF .ethStatus [n.val] 0 0 0).setRegF .ethStatus [n.val] 7 4 0).qpsFail fun q => q.port == n
    let t := (t.clearPfc n).rehome
    if t.ready then t.event 0 0x8004 [BitVec.ofNat 8 (16 + n.val), 0, 0] else t
  else s

end State

def execEthFrameReceive (n : NetId) (f : EthFrame) (s : State) : Out := .next (s.settle ((s.ethFrame n f).pausePeer n))
def execRdmaWrite (n : Fin 2) (qpn : BitVec 24) (rkey : Word) (va : Long) (data : List Byte) (s : State) : Out :=
  .next (s.settle ((s.rdmaWrite n qpn.toNat rkey va.toNat data).pausePeer n.succ))
def execRdmaRead (n : Fin 2) (qpn : BitVec 24) (rkey : Word) (va : Long) (len : Nat) (s : State) : Out :=
  .next (s.settle ((s.rdmaRead n qpn.toNat rkey va.toNat len).pausePeer n.succ))
def execSessionOpen (n : NetId) (ip : BitVec 128) (vmask : Byte) (nonce : Long) (s : State) : Out := .next (s.sessionOpen n ip vmask nonce)
def execSessionClose (h : CmdHdr) (s : State) : Out := .next (s.settle (s.sessionClose h))
def execSessionAck (h : CmdHdr) (s : State) : Out := .next (s.sessionAck h)
def execSessionIdleTimeout (sid : Word) (s : State) : Out := .next (s.settle (s.dropSession sid))
def execControlResendTimer (sid : Word) (s : State) : Out := .next (s.settle (s.resendTimer sid))
def execIdent (h : CmdHdr) (s : State) : Out := .next (s.settle (s.command h .ident))
def execRegRead (h : CmdHdr) (addr : Word) (s : State) : Out := .next (s.settle (s.command h (.regRead addr)))
def execRegWrite (h : CmdHdr) (addr : Word) (v : Long) (s : State) : Out := .next (s.settle (s.command h (.regWrite addr v)))
def execRegReadMulti (h : CmdHdr) (addrs : List Word) (s : State) : Out := .next (s.settle (s.command h (.regReadMulti addrs)))
def execQpConnect (h : CmdHdr) (hostPort mtu : Byte) (hostQpn hostPsn : BitVec 24) (hostIp : BitVec 128) (s : State) : Out :=
  .next (s.settle (s.command h (.qpConnect hostPort mtu hostQpn hostPsn hostIp)))
def execQpClose (h : CmdHdr) (qpn : BitVec 24) (s : State) : Out := .next (s.settle (s.command h (.qpClose qpn)))
def execImageLoad (h : CmdHdr) (off len : Long) (mode : Byte) (s : State) : Out := .next (s.settle (s.command h (.imageLoad off len mode)))
def execImageValidationComplete (s : State) : Out := .next (s.settle s.validationDone.allServed)
def execImageCommit (s : State) : Out := .next (s.settle s.imageCommit.allServed)
def execTargetRelease (s : State) : Out := .next (s.settle s.targetRelease.allServed)
def execLoadAfterWarmRestart (s : State) : Out := .next (s.settle s.loadAfter.allServed)
def execStageOpen (h : CmdHdr) (access : Byte) (s : State) : Out := .next (s.settle (s.command h (.stageOpen access)))
def execJobModule (h : CmdHdr) (module : Half) (valid : Byte) (s : State) : Out := .next (s.settle (s.command h (.jobModule module valid)))
def execJobMap (h : CmdHdr) (part policy : Byte) (jobgen shards first : Word) (count : Half) (entries : List MapEntry) (s : State) : Out :=
  .next (s.settle (s.command h (.jobMap part policy jobgen shards first count entries)))
def execJobCommit (h : CmdHdr) (part : Byte) (jobgen : Word) (s : State) : Out := .next (s.settle (s.command h (.jobCommit part jobgen)))
def execJobStore (h : CmdHdr) (part : Byte) (qpn : BitVec 24) (rkey : Word) (base stride : Long) (s : State) : Out :=
  .next (s.settle (s.command h (.jobStore part qpn rkey base stride)))
def execJobResume (h : CmdHdr) (step : Word) (layer : Byte) (s : State) : Out := .next (s.settle (s.command h (.jobResume step layer)))
def execJobRead (h : CmdHdr) (s : State) : Out := .next (s.settle (s.command h .jobRead))
def execPartHalt (h : CmdHdr) (p : PartId) (s : State) : Out := .next (s.settle (s.command h (.partHalt p)))
def execPartReset (h : CmdHdr) (p : PartId) (s : State) : Out := .next (s.settle (s.command h (.partReset p)))
def execGatePost (h : CmdHdr) (p : PartId) (gate : Byte) (value : Word) (s : State) : Out := .next (s.settle (s.command h (.gatePost p gate value)))
def execGateInEffect (p : PartId) (gate : Fin 64) (s : State) : Out := .next (s.settle (s.gateInEffect p gate).allServed)
def execRegionOpen (h : CmdHdr) (p : PartId) (va len : Long) (access : Byte) (s : State) : Out :=
  .next (s.settle (s.command h (.regionOpen p va len access)))
def execRegionClose (h : CmdHdr) (p : PartId) (rkey : Word) (s : State) : Out := .next (s.settle (s.command h (.regionClose p rkey)))
def execCounterRead (h : CmdHdr) (p : PartId) (items : List CounterItem) (s : State) : Out := .next (s.settle (s.command h (.counterRead p items)))
def execMeterRead (h : CmdHdr) (s : State) : Out := .next (s.settle (s.command h .meterRead))
def execMeterRecord (h : CmdHdr) (seq : Long) (off : Word) (s : State) : Out := .next (s.settle (s.command h (.meterRecord seq off)))
def execMeterCert (h : CmdHdr) (off : Word) (s : State) : Out := .next (s.settle (s.command h (.meterCert off)))
def execHostPortDown (n : Fin 2) (s : State) : Out := .next (s.settle (s.portDown n))
def execHostPortLinkUp (n : Fin 2) (fast : Bool) (s : State) : Out := .next (s.portLinkUp n fast)

end Sys2Proof.Machine
end

