-- ==== Sys2Proof/Machine/Dispatch.lean ====
section
/-! DEFINITION. The dispatcher: one arm per command, each one direct call of its meaning. -/

namespace Sys2Proof.Machine

def exec (i : Instr) (s : State) : Host.Outcome State Fault Refusal :=
  match i with
  | .registerWrite addr size v => Sys2Proof.Machine.execRegisterWrite addr size v s
  | .windowEntry c => Sys2Proof.Machine.execWindowEntry c s
  | .instructionComplete c uid => Sys2Proof.Machine.execInstructionComplete c uid s
  | .tokenRouteArrival p route dest step iters => Sys2Proof.Machine.execTokenRouteArrival p route dest step iters s
  | .stepEnd c => Sys2Proof.Machine.execStepEnd c s
  | .barrierCollect p => Sys2Proof.Machine.execBarrierCollect p s
  | .barrierRelease p step => Sys2Proof.Machine.execBarrierRelease p step s
  | .tjoin c => Sys2Proof.Machine.execTjoin c s
  | .pred c => Sys2Proof.Machine.execPred c s
  | .loop c => Sys2Proof.Machine.execLoop c s
  | .heldWriteRelease c uid => Sys2Proof.Machine.execHeldWriteRelease c uid s
  | .haltNoticeReceipt c => Sys2Proof.Machine.execHaltNoticeReceipt c s
  | .mload c => Sys2Proof.Machine.execMload c s
  | .tileBufferRelease c buf => Sys2Proof.Machine.execTileBufferRelease c buf s
  | .mpass c => Sys2Proof.Machine.execMpass c s
  | .mstore c => Sys2Proof.Machine.execMstore c s
  | .arrayAtRest c => Sys2Proof.Machine.execArrayAtRest c s
  | .vsetvl c e => Sys2Proof.Machine.execVsetvl c e s
  | .vprofile c e => Sys2Proof.Machine.execVprofile c e s
  | .vsetrc c e => Sys2Proof.Machine.execVsetrc c e s
  | .vld c e => Sys2Proof.Machine.execVld c e s
  | .vst c e => Sys2Proof.Machine.execVst c e s
  | .vldx c e => Sys2Proof.Machine.execVldx c e s
  | .vstx c e => Sys2Proof.Machine.execVstx c e s
  | .vmov c e => Sys2Proof.Machine.execVmov c e s
  | .vmovi c e => Sys2Proof.Machine.execVmovi c e s
  | .vadd c e => Sys2Proof.Machine.execVadd c e s
  | .vsub c e => Sys2Proof.Machine.execVsub c e s
  | .vmul c e => Sys2Proof.Machine.execVmul c e s
  | .vfma c e => Sys2Proof.Machine.execVfma c e s
  | .vdiv c e => Sys2Proof.Machine.execVdiv c e s
  | .vmax c e => Sys2Proof.Machine.execVmax c e s
  | .vmin c e => Sys2Proof.Machine.execVmin c e s
  | .vabs c e => Sys2Proof.Machine.execVabs c e s
  | .vneg c e => Sys2Proof.Machine.execVneg c e s
  | .vand c e => Sys2Proof.Machine.execVand c e s
  | .vor c e => Sys2Proof.Machine.execVor c e s
  | .vxor c e => Sys2Proof.Machine.execVxor c e s
  | .vshl c e => Sys2Proof.Machine.execVshl c e s
  | .vshr c e => Sys2Proof.Machine.execVshr c e s
  | .vcmp c e => Sys2Proof.Machine.execVcmp c e s
  | .vcmpc c e => Sys2Proof.Machine.execVcmpc c e s
  | .vpopc c e => Sys2Proof.Machine.execVpopc c e s
  | .vmand c e => Sys2Proof.Machine.execVmand c e s
  | .vmor c e => Sys2Proof.Machine.execVmor c e s
  | .vmxor c e => Sys2Proof.Machine.execVmxor c e s
  | .vmnot c e => Sys2Proof.Machine.execVmnot c e s
  | .vcvt c e => Sys2Proof.Machine.execVcvt c e s
  | .vperm c e => Sys2Proof.Machine.execVperm c e s
  | .vsldn c e => Sys2Proof.Machine.execVsldn c e s
  | .vslup c e => Sys2Proof.Machine.execVslup c e s
  | .vcompress c e => Sys2Proof.Machine.execVcompress c e s
  | .vexpand c e => Sys2Proof.Machine.execVexpand c e s
  | .vred c e => Sys2Proof.Machine.execVred c e s
  | .vext c e => Sys2Proof.Machine.execVext c e s
  | .vscan c e => Sys2Proof.Machine.execVscan c e s
  | .vrec c e => Sys2Proof.Machine.execVrec c e s
  | .tensorChunkAdmission c uid => Sys2Proof.Machine.execTensorChunkAdmission c uid s
  | .sfeval c => Sys2Proof.Machine.execSfeval c s
  | .sfgate c => Sys2Proof.Machine.execSfgate c s
  | .sfrennet c => Sys2Proof.Machine.execSfrennet c s
  | .sftable c => Sys2Proof.Machine.execSftable c s
  | .slotSwap c slot => Sys2Proof.Machine.execSlotSwap c slot s
  | .slotReload c slot => Sys2Proof.Machine.execSlotReload c slot s
  | .slotParityRewrite c slot => Sys2Proof.Machine.execSlotParityRewrite c slot s
  | .rstat c => Sys2Proof.Machine.execRstat c s
  | .rsmerge c => Sys2Proof.Machine.execRsmerge c s
  | .rsfin c => Sys2Proof.Machine.execRsfin c s
  | .copy c => Sys2Proof.Machine.execCopy c s
  | .copyTaken cl => Sys2Proof.Machine.execCopyTaken cl s
  | .g24CopyStart cl => Sys2Proof.Machine.execG24CopyStart cl s
  | .sload c => Sys2Proof.Machine.execSload c s
  | .sstore c => Sys2Proof.Machine.execSstore c s
  | .gather c => Sys2Proof.Machine.execGather c s
  | .scatter c => Sys2Proof.Machine.execScatter c s
  | .scatterAdd c => Sys2Proof.Machine.execScatterAdd c s
  | .ownset c => Sys2Proof.Machine.execOwnset c s
  | .ownerChange pool cl idx => Sys2Proof.Machine.execOwnerChange pool cl idx s
  | .vatOwnerWrite cl idx owner => Sys2Proof.Machine.execVatOwnerWrite cl idx owner s
  | .poolOwnerWrite cl b owner => Sys2Proof.Machine.execPoolOwnerWrite cl b owner s
  | .memoryClearComplete pool cl idx => Sys2Proof.Machine.execMemoryClearComplete pool cl idx s
  | .confluenceArbitration cl res arrivals withdrawn => Sys2Proof.Machine.execConfluenceArbitration cl res arrivals withdrawn s
  | .confCtrlWrite cl v => Sys2Proof.Machine.execConfCtrlWrite cl v s
  | .confRankWrite cl v => Sys2Proof.Machine.execConfRankWrite cl v s
  | .sluiceSlot ctrl keeper => Sys2Proof.Machine.execSluiceSlot ctrl keeper s
  | .scrub slow ppn => Sys2Proof.Machine.execScrub slow ppn s
  | .stackTemperatureReport st t => Sys2Proof.Machine.execStackTemperatureReport st t s
  | .heatLevelFall st => Sys2Proof.Machine.execHeatLevelFall st s
  | .paceNoticeDue => Sys2Proof.Machine.execPaceNoticeDue s
  | .softRepairComplete st => Sys2Proof.Machine.execSoftRepairComplete st s
  | .lpddrRefreshDerate pkg => Sys2Proof.Machine.execLpddrRefreshDerate pkg s
  | .sluClearGo v => Sys2Proof.Machine.execSluClearGo v s
  | .sluClearComplete => Sys2Proof.Machine.execSluClearComplete s
  | .sluHeatWrite st v => Sys2Proof.Machine.execSluHeatWrite st v s
  | .lnkEnableWrite p en => Sys2Proof.Machine.execLnkEnableWrite p en s
  | .lnkCtrlRetrain p => Sys2Proof.Machine.execLnkCtrlRetrain p s
  | .lnkCtrlFull p => Sys2Proof.Machine.execLnkCtrlFull p s
  | .lnkCtrlOffer p offer => Sys2Proof.Machine.execLnkCtrlOffer p offer s
  | .lnkVcAllocWrite p v => Sys2Proof.Machine.execLnkVcAllocWrite p v s
  | .signalDetected p => Sys2Proof.Machine.execSignalDetected p s
  | .laneLock p pairs => Sys2Proof.Machine.execLaneLock p pairs s
  | .laneLockLoss p lane => Sys2Proof.Machine.execLaneLockLoss p lane s
  | .laneErrorLimit p lane => Sys2Proof.Machine.execLaneErrorLimit p lane s
  | .trainTimeout p => Sys2Proof.Machine.execTrainTimeout p s
  | .negotiateTimeout p => Sys2Proof.Machine.execNegotiateTimeout p s
  | .retrainTimeout p => Sys2Proof.Machine.execRetrainTimeout p s
  | .portPowerOff p => Sys2Proof.Machine.execPortPowerOff p s
  | .trainFlitSend p => Sys2Proof.Machine.execTrainFlitSend p s
  | .trainFlitReceive p fecOk flit => Sys2Proof.Machine.execTrainFlitReceive p fecOk flit s
  | .dataFlitReceive p fecOk flit => Sys2Proof.Machine.execDataFlitReceive p fecOk flit s
  | .idleFlitReceive p fecOk flit => Sys2Proof.Machine.execIdleFlitReceive p fecOk flit s
  | .ackTimer p => Sys2Proof.Machine.execAckTimer p s
  | .ackTimeout p => Sys2Proof.Machine.execAckTimeout p s
  | .messageSend idx => Sys2Proof.Machine.execMessageSend idx s
  | .linkHealthSend p => Sys2Proof.Machine.execLinkHealthSend p s
  | .linkHealthReceive p => Sys2Proof.Machine.execLinkHealthReceive p s
  | .pace p => Sys2Proof.Machine.execPace p s
  | .paceExpiry p => Sys2Proof.Machine.execPaceExpiry p s
  | .coll c => Sys2Proof.Machine.execColl c s
  | .collStat c => Sys2Proof.Machine.execCollStat c s
  | .shuf c => Sys2Proof.Machine.execShuf c s
  | .collMessageReceive p => Sys2Proof.Machine.execCollMessageReceive p s
  | .nodeCombine cl idx shard => Sys2Proof.Machine.execNodeCombine cl idx shard s
  | .collInstanceComplete cl idx shard => Sys2Proof.Machine.execCollInstanceComplete cl idx shard s
  | .collWatchdogExpiry cl idx => Sys2Proof.Machine.execCollWatchdogExpiry cl idx s
  | .ethFrameReceive n f => Sys2Proof.Machine.execEthFrameReceive n f s
  | .rdmaWrite n qpn rkey va data => Sys2Proof.Machine.execRdmaWrite n qpn rkey va data s
  | .rdmaRead n qpn rkey va len => Sys2Proof.Machine.execRdmaRead n qpn rkey va len s
  | .sessionOpen n ip vmask nonce => Sys2Proof.Machine.execSessionOpen n ip vmask nonce s
  | .sessionClose h => Sys2Proof.Machine.execSessionClose h s
  | .sessionAck h => Sys2Proof.Machine.execSessionAck h s
  | .sessionIdleTimeout sid => Sys2Proof.Machine.execSessionIdleTimeout sid s
  | .controlResendTimer sid => Sys2Proof.Machine.execControlResendTimer sid s
  | .ident h => Sys2Proof.Machine.execIdent h s
  | .regRead h addr => Sys2Proof.Machine.execRegRead h addr s
  | .regWrite h addr v => Sys2Proof.Machine.execRegWrite h addr v s
  | .regReadMulti h addrs => Sys2Proof.Machine.execRegReadMulti h addrs s
  | .qpConnect h hostPort mtu hostQpn hostPsn hostIp => Sys2Proof.Machine.execQpConnect h hostPort mtu hostQpn hostPsn hostIp s
  | .qpClose h qpn => Sys2Proof.Machine.execQpClose h qpn s
  | .imageLoad h off len mode => Sys2Proof.Machine.execImageLoad h off len mode s
  | .imageValidationComplete => Sys2Proof.Machine.execImageValidationComplete s
  | .imageCommit => Sys2Proof.Machine.execImageCommit s
  | .targetRelease => Sys2Proof.Machine.execTargetRelease s
  | .loadAfterWarmRestart => Sys2Proof.Machine.execLoadAfterWarmRestart s
  | .stageOpen h access => Sys2Proof.Machine.execStageOpen h access s
  | .jobModule h module valid => Sys2Proof.Machine.execJobModule h module valid s
  | .jobMap h part policy jobgen shards first count entries => Sys2Proof.Machine.execJobMap h part policy jobgen shards first count entries s
  | .jobCommit h part jobgen => Sys2Proof.Machine.execJobCommit h part jobgen s
  | .jobStore h part qpn rkey base stride => Sys2Proof.Machine.execJobStore h part qpn rkey base stride s
  | .jobResume h step layer => Sys2Proof.Machine.execJobResume h step layer s
  | .jobRead h => Sys2Proof.Machine.execJobRead h s
  | .partHalt h p => Sys2Proof.Machine.execPartHalt h p s
  | .partReset h p => Sys2Proof.Machine.execPartReset h p s
  | .gatePost h p gate value => Sys2Proof.Machine.execGatePost h p gate value s
  | .gateInEffect p gate => Sys2Proof.Machine.execGateInEffect p gate s
  | .regionOpen h p va len access => Sys2Proof.Machine.execRegionOpen h p va len access s
  | .regionClose h p rkey => Sys2Proof.Machine.execRegionClose h p rkey s
  | .counterRead h p items => Sys2Proof.Machine.execCounterRead h p items s
  | .meterRead h => Sys2Proof.Machine.execMeterRead h s
  | .meterRecord h seq off => Sys2Proof.Machine.execMeterRecord h seq off s
  | .meterCert h off => Sys2Proof.Machine.execMeterCert h off s
  | .hostin c => Sys2Proof.Machine.execHostin c s
  | .hostsig c => Sys2Proof.Machine.execHostsig c s
  | .hostPortDown n => Sys2Proof.Machine.execHostPortDown n s
  | .ingest c => Sys2Proof.Machine.execIngest c s
  | .ingestTaken cl => Sys2Proof.Machine.execIngestTaken cl s
  | .ingestPicture cl => Sys2Proof.Machine.execIngestPicture cl s
  | .lsupdatePrepare c => Sys2Proof.Machine.execLsupdatePrepare c s
  | .lsupdateDecide c => Sys2Proof.Machine.execLsupdateDecide c s
  | .ferry c => Sys2Proof.Machine.execFerry c s
  | .ferryBlockCopied p block => Sys2Proof.Machine.execFerryBlockCopied p block s
  | .ferryExportEnd p => Sys2Proof.Machine.execFerryExportEnd p s
  | .ferryAbort p => Sys2Proof.Machine.execFerryAbort p s
  | .xsend c => Sys2Proof.Machine.execXsend c s
  | .xrecv c => Sys2Proof.Machine.execXrecv c s
  | .saveMirror c => Sys2Proof.Machine.execSaveMirror c s
  | .mirrorGateOpen c uid => Sys2Proof.Machine.execMirrorGateOpen c uid s
  | .saveCartridge c => Sys2Proof.Machine.execSaveCartridge c s
  | .saveStore c => Sys2Proof.Machine.execSaveStore c s
  | .mirrorWrite p => Sys2Proof.Machine.execMirrorWrite p s
  | .mirrorServe p => Sys2Proof.Machine.execMirrorServe p s
  | .ckptXfer p => Sys2Proof.Machine.execCkptXfer p s
  | .heartbeatSend => Sys2Proof.Machine.execHeartbeatSend s
  | .heartbeat p => Sys2Proof.Machine.execHeartbeat p s
  | .heartbeatMissed module => Sys2Proof.Machine.execHeartbeatMissed module s
  | .deputyTakeover => Sys2Proof.Machine.execDeputyTakeover s
  | .orphanTimeout => Sys2Proof.Machine.execOrphanTimeout s
  | .shardRestoreComplete p shard => Sys2Proof.Machine.execShardRestoreComplete p shard s
  | .weirWindowStart m => Sys2Proof.Machine.execWeirWindowStart m s
  | .chargeAdmission w => Sys2Proof.Machine.execChargeAdmission w s
  | .collectiveFloorSend cl => Sys2Proof.Machine.execCollectiveFloorSend cl s
  | .feedInvalid f => Sys2Proof.Machine.execFeedInvalid f s
  | .feedValid f => Sys2Proof.Machine.execFeedValid f s
  | .junctionEmergency t => Sys2Proof.Machine.execJunctionEmergency t s
  | .meterReady => Sys2Proof.Machine.execMeterReady s
  | .meterNvSave => Sys2Proof.Machine.execMeterNvSave s
  | .meterSupplyLoss => Sys2Proof.Machine.execMeterSupplyLoss s
  | .meterRecordComplete => Sys2Proof.Machine.execMeterRecordComplete s
  | .meterWindowUpdate microA microB rangeA rangeB => Sys2Proof.Machine.execMeterWindowUpdate microA microB rangeA rangeB s
  | .meterTamper => Sys2Proof.Machine.execMeterTamper s
  | .meterSelfCheckFail => Sys2Proof.Machine.execMeterSelfCheckFail s
  | .crossingWordAccept x toClocked written samples => Sys2Proof.Machine.execCrossingWordAccept x toClocked written samples s
  | .crossingResetNotice x clocked => Sys2Proof.Machine.execCrossingResetNotice x clocked s
  | .crossingResetTimeout x clocked => Sys2Proof.Machine.execCrossingResetTimeout x clocked s
  | .sliceSchedule => Sys2Proof.Machine.execSliceSchedule s
  | .blockTaken => Sys2Proof.Machine.execBlockTaken s
  | .blockTakeTimeout => Sys2Proof.Machine.execBlockTakeTimeout s
  | .sliceResult signature => Sys2Proof.Machine.execSliceResult signature s
  | .warmRestartEnd cl => Sys2Proof.Machine.execWarmRestartEnd cl s
  | .selftestOverdue block => Sys2Proof.Machine.execSelftestOverdue block s
  | .bistDirectedTest v => Sys2Proof.Machine.execBistDirectedTest v s
  | .pmcSampleWrite c v => Sys2Proof.Machine.execPmcSampleWrite c v s
  | .powerUpStepComplete signal => Sys2Proof.Machine.execPowerUpStepComplete signal s
  | .provision off => Sys2Proof.Machine.execProvision off s
  | .addKey off => Sys2Proof.Machine.execAddKey off s
  | .deploy off => Sys2Proof.Machine.execDeploy off s
  | .lifeReturn off => Sys2Proof.Machine.execLifeReturn off s
  | .scrap off => Sys2Proof.Machine.execScrap off s
  | .revoke off => Sys2Proof.Machine.execRevoke off s
  | .quote off => Sys2Proof.Machine.execQuote off s
  | .fwUpdate off => Sys2Proof.Machine.execFwUpdate off s
  | .commitSvn off => Sys2Proof.Machine.execCommitSvn off s
  | .cartridgeInsert nvme2 width gen => Sys2Proof.Machine.execCartridgeInsert nvme2 width gen s
  | .cartridgeRemove => Sys2Proof.Machine.execCartridgeRemove s
  | .cartridgeAuthentication a => Sys2Proof.Machine.execCartridgeAuthentication a s
  | .keeperKick => Sys2Proof.Machine.execKeeperKick s
  | .keeperForce => Sys2Proof.Machine.execKeeperForce s
  | .keeperWatchTimeout => Sys2Proof.Machine.execKeeperWatchTimeout s
  | .keeperMemoryError => Sys2Proof.Machine.execKeeperMemoryError s
  | .keeperException => Sys2Proof.Machine.execKeeperException s
  | .keeperRestart => Sys2Proof.Machine.execKeeperRestart s
  | .watch p => Sys2Proof.Machine.execWatch p s
  | .netCtrlSave idx => Sys2Proof.Machine.execNetCtrlSave idx s
  | .feedPresMate f => Sys2Proof.Machine.execFeedPresMate f s
  | .feedRegulatorConnect f => Sys2Proof.Machine.execFeedRegulatorConnect f s
  | .feedPresBreak f => Sys2Proof.Machine.execFeedPresBreak f s
  | .hostPortLinkUp n fast => Sys2Proof.Machine.execHostPortLinkUp n fast s
  | .meterSelfCheckRecovery => Sys2Proof.Machine.execMeterSelfCheckRecovery s
  | .lpddrRefreshRestore pkg => Sys2Proof.Machine.execLpddrRefreshRestore pkg s
  | .crossingRestart x => Sys2Proof.Machine.execCrossingRestart x s

end Sys2Proof.Machine
end

