-- ==== Sys2Proof/Safety.lean ====
section
/-! DEFINITION. The terms claims use: a good state, which instruction fires, and what a command leaves as it was. -/

namespace Sys2Proof.Machine

/-- The memories the spec addresses by byte: both tiers, every vat and pool bank, and the cartridge and those taken out, in canonical form. -/
def State.memOk (s : State) : Prop :=
  cellsWf s.fast.data = true ∧ cellsWf s.slow.data = true ∧ banksWf s.vats = true ∧ banksWf s.pools = true ∧
  cellsWf s.cart.data = true ∧ ∀ x ∈ s.cart.shelf, cellsWf x.2.data = true

/-- Entry x is the oldest ready instruction for a unit of core c that its engine can accept (R68), and has the opcode. -/
def Fires (s : State) (c unit oc : Nat) (acc : Entry → Bool) (x : Entry) : Prop :=
  s.oldestReady c unit acc = some x ∧ x.opcode = oc

/-- Every register outside a list of addresses reads as before. -/
def SameRegsBut (l : List Nat) (s t : State) : Prop := ∀ a d, a ∉ l → t.mrs.get d a = s.mrs.get d a

/-- The addresses of the die's event counters and of their overflow flags, which what a command does may move (R541). -/
def dieCounters : List Nat := RegId.dieOvf.row.addr [] :: (List.range 8).map fun j => RegId.dieCnt.row.addr [j]

/-- Only the registers of the register space differ. -/
def OnlyRegs (s t : State) : Prop := t = { s with mrs := t.mrs }

/-- Only core c, the registers and the partitions' records differ. -/
def OnlyCore (c : Nat) (s t : State) : Prop :=
  t = { s with mrs := t.mrs, cores := t.cores, parts := t.parts } ∧ ∀ k, k ≠ c → t.core k = s.core k

/-- Every byte of memory reads as before. -/
def SameMem (s t : State) : Prop := ∀ pl a, readByte (t.cells pl) a = readByte (s.cells pl) a

/-- Every byte of memory outside n bytes of a place reads as before. -/
def SameMemBut (pl : Place) (lo n : Nat) (s t : State) : Prop :=
  ∀ q a, ¬ (q = pl ∧ lo ≤ a ∧ a < lo + n) → readByte (t.cells q) a = readByte (s.cells q) a

/-- No granule of a tier is in error. -/
def TierClean (t : Tier) : Prop := t.crc = [] ∧ t.syms = []

/-- No crossing between a memory controller and its PHY resets (R513, R517). -/
def PhysUp (s : State) : Prop := s.xings.any (fun x => decide (272 ≤ x.1) && (x.2.selfReset || x.2.clkReset)) = false

/-- No word or granule of any memory is in error, no bank of a stack is held (R335, R336), and no crossing to a memory resets. -/
def NoErrors (s : State) : Prop :=
  (∀ b ∈ s.vats, b.2.errs = []) ∧ (∀ b ∈ s.pools, b.2.errs = []) ∧ TierClean s.fast ∧ TierClean s.slow ∧
  (∀ st : Fin 8, s.stackStopped st = false ∧ (s.stack st).repairing = []) ∧ s.stalled = false ∧ PhysUp s

/-- No write of the instruction meets bytes that a bound load has still to read (R77). -/
def NothingBound (s : State) (c uid : Nat) : Prop := s.boundSpans c uid = [] ∧ s.hasHeld c uid = false

/-- Partition p is halted with the cause in its fault record (R84, R87). -/
def HaltedWith (s : State) (p cause : Nat) : Prop :=
  s.pstate p = 3 ∧ (s.part p).fault.map (·.cause) = some (BitVec.ofNat 8 cause)

/-- The registers whose write has no rule of its own (R14, R16). -/
def plainIds : List RegId :=
  [.keepIdent, .keepStatus, .keepCapacity, .keepImgStatus, .keepPartBuild, .keepPartState, .sluSummary, .lnkModule, .collGen,
   .jobStatus, .jobCommits, .jobErr, .ferryStatus, .weirStatus, .weirCal, .weirRecon, .weirAcct, .weirPool, .weirPartE, .xingStat,
   .bistStatus, .retireCluster, .dieCnt, .dieOvf, .lifeStatus, .lifeChallenge, .netV4, .netV6Hi, .netV6Lo, .meaStatus, .meaFlags,
   .meaRepair, .vecStatus, .vecFlags, .sfuStatus, .sfuFlags, .sfuFallback, .sfuSlot, .rsFlags, .gsRange, .gsFlags, .pmcReftick,
   .pmcCnt, .pmcOvf, .pmcSstat, .pmcBuf, .confStat, .vatEcc, .copyStatus, .copyFlags, .collStatus, .collErr, .lnkStatus, .lnkPeer,
   .lnkPeerDev, .lnkErr, .lnkLane, .lnkPace, .sluErrF, .sluErrS, .sluErrAddrF, .sluErrAddrS, .sluPpr, .ethStatus, .ethCtrl,
   .ctlStatus, .ingStatus, .ingErr, .mtrStatus, .mtrEnergyA, .mtrEnergyB, .mtrPower, .mtrBuf, .cartStatus, .cartWear, .cartSerial]

/-- The indexes lie within a register's dimensions. -/
def indexesFit : List (Nat × Nat) → List Nat → Prop
  | [], [] => True
  | d :: ds, i :: is => i < d.1 ∧ indexesFit ds is
  | _, _ => False

end Sys2Proof.Machine
end

