-- ==== Sys2Proof/Certificates/Slice0/Obligations.lean ====
section
/-! DEFINITION. The statements for the provers, each formalising rules of the spec or a property of the whole block. -/

open Sys2Proof Sys2Proof.Machine

/-! ### The block as a whole -/

/-- A step runs the command at the front of the queue on the queue's rest (R1's block, log 1). -/
def Obligations.StepRunsFrontCommand : Prop :=
  ∀ (c : Instr) (s : State), step { s with pending := c :: s.pending } = exec c s

/-- An empty queue is one tick: from power-up step 4 on the tick count rises, before it nothing changes (R513, R538; log 1). -/
def Obligations.EmptyQueueIsOneTick : Prop :=
  ∀ s : State, s.pending = [] →
    (s.bootStep < 4 → step s = .next s) ∧
    (4 ≤ s.bootStep → ∃ t, step s = .next t ∧ t.tick = s.tick + 1 ∧
      t = { s with tick := t.tick, mrs := t.mrs, fresh := t.fresh, dieSeen := t.dieSeen } ∧
      ((∀ j, j < 8 → s.regF .dieSel [j] 39 32 ≠ 0x81 ∧ s.regF .dieSel [j] 39 32 ≠ 0x86) →
        (∀ c j, c < 128 → j < 8 → s.regF .pmcSel (cix c ++ [j]) 39 32 ≠ 1) →
        t.mrs = s.mrs ∧ t.fresh = s.fresh))

/-- No command but the step itself takes or adds a waiting command, and none leaves the model's own mark of a held bank set, which a
command that waits for the bank sets on its way (log 2). -/
def Obligations.CommandsKeepTheQueue : Prop :=
  ∀ (c : Instr) (s t : State), exec c s = .next t → t.pending = s.pending ∧ (s.stalled = false → t.stalled = false)

/-- Every memory is in canonical form after reset, and no command waits in the middle of its effect; that mark is the model's own field, and
its value after reset the model's choice (log 2, DESIGN CHOICE). -/
def Obligations.ResetMemoryCanonical : Prop := State.reset.memOk ∧ State.reset.stalled = false

/-- Every step keeps every memory in canonical form. -/
def Obligations.StepKeepsMemoryCanonical : Prop := ∀ s t : State, s.memOk → step s = .next t → t.memOk

/-- A byte stored is read back, and every other byte reads as before. -/
def Obligations.StoredBytesReadBack : Prop :=
  ∀ (m : List Host.Cell) (a b : Nat) (bs : List Byte),
    readByte (writeBytes m a bs) b = if a ≤ b ∧ b < a + bs.length then bs.getD (b - a) 0 else readByte m b

/-! ### The register space -/

/-- Every register's address, at every index it has, is decoded to that register and index: no two registers share an address
(R579). -/
def Obligations.RegisterMapRoundTrip : Prop :=
  ∀ (id : RegId) (ix : List Nat), indexesFit id.row.dims ix → decodeAddr (id.row.addr ix) = some (id, ix)

/-- An access that is not one whole 64-bit word at a multiple of 8 is not performed and counts as an access error; no register has another
address (R13). -/
def Obligations.MisshapenAccessIsAnError : Prop :=
  (∀ (s : State) (addr : Word) (size : Nat) (v : Long), size ≠ 8 ∨ addr.toNat % 8 ≠ 0 →
    ∃ t, exec (.registerWrite addr size v) s = .next t ∧ OnlyRegs s t ∧ SameRegsBut [RegId.keepStatus.row.base] s t ∧
      t.regF .keepStatus [] 31 16 = min (s.regF .keepStatus [] 31 16 + 1) 0xFFFF ∧
      t.regF .keepStatus [] 15 0 = s.regF .keepStatus [] 15 0 ∧ t.regF .keepStatus [] 63 32 = s.regF .keepStatus [] 63 32) ∧
  ∀ a : Nat, a % 8 ≠ 0 → decodeAddr a = none

/-- A write of a register without a rule of its own, where the boot ROM does not serve (log 58): RW fields take the value, W1C bits written as
1 clear, every other bit and every other register keeps its value (R14, R16). -/
def Claims.PlainRegisterWrite : Prop :=
  ∀ (s : State) (id : RegId) (ix : List Nat) (addr : Word) (v : Long),
    id ∈ plainIds → decodeAddr addr.toNat = some (id, ix) → addr.toNat % 8 = 0 → s.romOnly = false → s.unreachable id ix = false →
    ∃ t, exec (.registerWrite addr 8 v) s = .next t ∧ OnlyRegs s t ∧ SameRegsBut [id.row.addr ix] s t ∧
      t.reg id ix = ((s.reg id ix &&& ~~~id.row.rw) ||| (v &&& id.row.rw)) &&& ~~~(v &&& id.row.w1c)

/-- A write of PMC_SAMPLE on a core that can be reached, where the boot ROM does not serve (log 58); a change of ENABLE from 0 to 1 empties the sample buffer (R545). -/
def Claims.SampleControlWrite : Prop :=
  ∀ (s : State) (c : CoreId) (v : Long), s.romOnly = false → s.unreachable .pmcSample (cix c) = false →
    ∃ t, exec (.pmcSampleWrite c v) s = .next t ∧ t = { s with mrs := t.mrs, cores := t.cores } ∧
      t.reg .pmcSample (cix c) = (s.reg .pmcSample (cix c) &&& ~~~RegId.pmcSample.row.rw) ||| (v &&& RegId.pmcSample.row.rw) ∧
      (s.regF .pmcSample (cix c) 0 0 = 0 → getF v 0 0 = 1 →
        (t.core c).samples = [] ∧ t.regF .pmcSstat (cix c) 8 0 = 0 ∧ t.regF .pmcSstat (cix c) 23 16 = 0) ∧
      (getF v 0 0 = 0 → t.cores = s.cores ∧ SameRegsBut [RegId.pmcSample.row.addr (cix c)] s t)

/-- Register writes by the access codes, and those of PMC_SAMPLE. -/
def Obligations.RegisterWrites : Prop :=
  Claims.PlainRegisterWrite ∧ Claims.SampleControlWrite

/-! ### The firing window and the control instructions -/

/-- WINDOW_ENTRY: the record at the fetch position takes a free entry of the 384 at the end of the window, bound to its step and
iterations; with all 384 occupied nothing enters (R67). -/
def Claims.WindowEntryTakesTheNextRecord : Prop :=
  ∀ (s : State) (c : CoreId) (im : PartImg) (f : Fetch) (r : Rec),
    s.imgOf c = some im → (s.core c).fetch = some f → s.mayFire c = true → f.blocked = false →
    (im.recsOf f.step (s.core c).logical)[f.recIx]? = some r →
    ((s.core c).window.length < 384 → ∃ t e, exec (.windowEntry c) s = .next t ∧ (t.core c).window = (s.core c).window ++ [e] ∧
      e.uid = (s.core c).nextUid ∧ (t.core c).nextUid = (s.core c).nextUid + 1 ∧ e.step = f.step ∧ e.recIx = f.recIx ∧
      e.iters = f.nest.map (·.iter) ∧ e.unit = r.unit ∧ e.op = r.op ∧ e.wait = r.wait ∧ e.produce = r.produce ∧ e.ext = r.ext ∧
      e.phase = .waiting ∧ t = { s with cores := t.cores } ∧ ∀ k, k ≠ c.val → t.core k = s.core k) ∧
    (384 ≤ (s.core c).window.length → exec (.windowEntry c) s = .next s)

/-- INSTRUCTION_COMPLETE: an entry whose work is done leaves the window, and its completion token arrives at its core under the
number its record produces. Where no write is held behind it and it is no copy, nothing else moves, but that an MPASS that leaves the
array charges its ramp-down (R64, R67, R151). -/
def Claims.CompletionLeavesTheWindow : Prop :=
  ∀ (s : State) (c : CoreId) (uid : Nat) (e : Entry), s.entry? c uid = some e → e.phase = .done →
    (NoErrors s → ∃ t, exec (.instructionComplete c uid) s = .next t ∧ ∀ x ∈ (t.core c).window, x.uid ≠ uid) ∧
    ((∀ h ∈ s.held, h.loader ≠ (c.val, uid)) →
      (∀ j ∈ (s.cl (c.val / 16)).copyRun, ¬ (j.core = c.val ∧ j.uid = uid)) →
      ∃ t, exec (.instructionComplete c uid) s = .next t ∧ (t.core c).window = (s.core c).window.filter (fun x => x.uid != uid) ∧
        (0x8000 ≤ e.produce.toNat →
          (t.core c).tokens = (s.core c).tokens ++ [⟨.done, e.produce.toNat % 4096, e.step, e.iters, e.value⟩]) ∧
        (e.produce.toNat < 0x8000 → (t.core c).tokens = (s.core c).tokens) ∧
        SameMem s t ∧ (¬ (e.unit = 1 ∧ e.opcode = 0x11) → t.parts = s.parts) ∧ ∀ k, k ≠ c.val → t.core k = s.core k)

/-- The firing window: its entries come from the program and leave when they complete. -/
def Obligations.TheFiringWindow : Prop :=
  Claims.WindowEntryTakesTheNextRecord ∧ Claims.CompletionLeavesTheWindow

/-- TOKEN_ROUTE_ARRIVAL: an instance produced at the source of a route arrives at one of its destinations under DEST_ID, with the
step, the iterations and the value it was produced with (R65, R110). -/
def Claims.RoutedTokenArrives : Prop :=
  ∀ (s : State) (p : PartId) (route dest : Nat) (step : Word) (iters : List Nat) (im : PartImg) (r : Route) (l src c : Nat) (v : Word),
    (s.part p).img = some im → im.routes[route]? = some r → r.dests[dest]? = some l → s.physOf r.src = some src → s.physOf l = some c →
    s.tokenAt src (if r.kind = 2 then .bind else .done) r.id step iters = some v → r.program = im.programOf step →
    s.tokenAt c (if r.kind = 2 then .bind else .done) r.destId step iters = none →
    ∃ t, exec (.tokenRouteArrival p route dest step iters) s = .next t ∧
      t.tokenAt c (if r.kind = 2 then .bind else .done) r.destId step iters = some v ∧
      (t.core c).window = (s.core c).window ∧ t = { s with cores := t.cores } ∧ ∀ k, k ≠ c → t.core k = s.core k

/-- What core c's window and tokens are once entry x has left with the token under the number its record produces, if any (R64, R67). -/
def Claims.LeavesWithToken (c : Nat) (x : Entry) (s t : State) : Prop :=
  (t.core c).window = (s.core c).window.filter (fun e => e.uid != x.uid) ∧
    (t.core c).tokens = (s.core c).tokens ++
      (if x.produce.toNat < 0x8000 then [] else [⟨.done, x.produce.toNat % 4096, x.step, x.iters, x.value⟩]) ∧
    OnlyCore c s { t with fresh := s.fresh } ∧ t.parts = s.parts

/-- TJOIN fires when each of its waits is met: it leaves the window and produces its token (R65, R109). -/
def Claims.JoinProducesItsToken : Prop :=
  ∀ (s : State) (c : CoreId) (x : Entry), Fires s c 0 0x02 (fun e => e.opcode == 0x02) x →
    ∃ t, exec (.tjoin c) s = .next t ∧ Claims.LeavesWithToken c x s t ∧ (t.core c).fetch = (s.core c).fetch

/-- PRED: on a zero scalar no record of the block enters and fetch goes on behind it, on any other value the block's records enter
next; its own entry leaves the window, and its resolution is kept for waits on the block's records (R74, R611). -/
def Claims.PredicateSkipsOrEnters : Prop :=
  ∀ (s : State) (c : CoreId) (x : Entry), Fires s c 0 0x03 (fun e => e.opcode == 0x03) x →
    let zero := s.scalarOf c x = 0
    ∃ t, exec (.pred c) s = .next t ∧ Claims.LeavesWithToken c x s t ∧
      (t.core c).fetch = (s.core c).fetch.map (fun f => moveTo f (if zero then x.recIx + 1 + (getF x.op 11 0 + 1) else x.recIx + 1) f.nest) ∧
      (t.core c).resolved = (s.core c).resolved ++ [⟨x.step, x.recIx, x.iters, if zero then 0 else 1⟩]

/-- LOOP with a trip count up to the declared maximum: no trip skips the body, any other count opens it at iteration 0 of that many; its own
entry leaves the window, and its resolution is kept (R75, R611). -/
def Claims.LoopCountsItsTrips : Prop :=
  ∀ (s : State) (c : CoreId) (x : Entry), Fires s c 0 0x04 (fun e => e.opcode == 0x04) x → s.tripsOf c x ≤ getF x.op 55 32 + 1 →
    let stop := x.recIx + 1 + (getF x.op 15 0 + 1)
    ∃ t, exec (.loop c) s = .next t ∧ Claims.LeavesWithToken c x s t ∧
      (t.core c).fetch = (s.core c).fetch.map (fun f => if s.tripsOf c x = 0 then moveTo f stop f.nest
        else { f with recIx := x.recIx + 1, blocked := false, nest := f.nest ++ [⟨x.recIx, x.recIx + 1, stop, 0, s.tripsOf c x⟩] }) ∧
      (t.core c).resolved = (s.core c).resolved ++ [⟨x.step, x.recIx, x.iters, s.tripsOf c x⟩]

/-- LOOP with a trip count above the declared maximum halts the partition with LOOP_COUNT, and no iteration enters (R75). -/
def Claims.LoopAboveItsMaximumFaults : Prop :=
  ∀ (s : State) (c : CoreId) (x : Entry) (p : PartId), Fires s c 0 0x04 (fun e => e.opcode == 0x04) x →
    (s.core c).part = some p.val → s.isRunning p = true → getF x.op 55 32 + 1 < s.tripsOf c x →
    ∃ t, exec (.loop c) s = .next t ∧ HaltedWith t p 9 ∧ (t.core c).fetch = (s.core c).fetch ∧ (t.core c).halted = true

/-- The control instructions TJOIN, PRED and LOOP. -/
def Obligations.ControlInstructions : Prop :=
  Claims.JoinProducesItsToken ∧ Claims.PredicateSkipsOrEnters ∧ Claims.LoopCountsItsTrips ∧ Claims.LoopAboveItsMaximumFaults

/-- STEP_END, alone in its step on its core, completes and its core's contribution to the step's barrier is with the collector
(R71). -/
def Claims.StepEndContributes : Prop :=
  ∀ (s : State) (c : CoreId) (p : PartId) (x : Entry), (s.core c).part = some p.val →
    Fires s c 0 0x01 (fun e => e.opcode == 0x01 && (s.core c).window.all fun y => decide (e.uid ≤ y.uid) || y.step != e.step) x →
    ∃ t, exec (.stepEnd c) s = .next t ∧ (t.core c).window = (s.core c).window.filter (fun e => e.uid != x.uid) ∧
      (t.part p).contrib.get [] x.step.toNat = (s.part p).contrib.get [] x.step.toNat ++ [c.val] ∧
      (t.part p).step = (s.part p).step ∧ OnlyCore c s { t with fresh := s.fresh } ∧ ∀ q, q ≠ p.val → t.part q = s.part q

/-- BARRIER_COLLECT: once every core of the partition has contributed to the step, its gauges are those of the last record and the
step is collected, once the record is written (R61, R71). -/
def Claims.BarrierCollects : Prop :=
  ∀ (s : State) (p : PartId) (im : PartImg), (s.part p).img = some im → s.isRunning p = true →
    s.allContributed p (s.part p).step = true → (s.part p).step ∉ (s.part p).collected →
    let gs := (s.part p).gauges.get [] (s.part p).step.toNat
    let bs := gaugeRecordBytes im gs (s.part p).step
    let r := s.storePieces 128 p (piecesOf im.pages 1 im.gaugeRecord bs.length) bs
    NoErrors s →
    ∃ t, exec (.barrierCollect p) s = .next t ∧ t = { r.1 with parts := t.parts } ∧ (t.part p).collected = [(s.part p).step] ∧
      (t.part p).lastGauge = gs

/-- BARRIER_RELEASE of the current step: the step counter rises by one, the barrier of the step is released, and a draining partition stops
and loses its regions; of any other step it changes nothing (R71, R120, R402). -/
def Claims.BarrierReleases : Prop :=
  (∀ (s : State) (p : PartId), s.isRunning p = true → (s.part p).step ∈ (s.part p).collected → s.hasHeld 128 p = false →
    ∃ t, exec (.barrierRelease p (s.part p).step) s = .next t ∧ (t.part p).step = (s.part p).step + 1 ∧
      (t.part p).barriers.head? = some (s.part p).step ∧ (t.part p).collected = [] ∧
      (s.pstate p = 1 → t.pstate p = 1) ∧
      (s.pstate p = 2 → t.pstate p = 3 ∧ ∀ r ∈ t.regions, r.part ≠ some p.val) ∧ SameMem s t) ∧
  ∀ (s : State) (p : PartId) (step : Word), step ≠ (s.part p).step → exec (.barrierRelease p step) s = .next s

/-- The step barrier: a contribution, its collection, its release. -/
def Obligations.StepBarrier : Prop :=
  Claims.StepEndContributes ∧ Claims.BarrierCollects ∧ Claims.BarrierReleases

/-- HELD_WRITE_RELEASE: the load has read its bytes, so it binds no span and no write is held behind it any longer; a write that another
load still holds waits behind that one (R77). -/
def Claims.HeldWritesAreReleased : Prop :=
  ∀ (s : State) (c : CoreId) (uid : Nat) (e : Entry), s.entry? c uid = some e → ¬ (e.unit = 5 ∧ e.opcode = 0x7C) →
    (NoErrors s → (∀ f ∈ s.ferries, ¬ (f.core = c.val ∧ f.uid = uid)) →
      ∃ t, exec (.heldWriteRelease c uid) s = .next t ∧ (∀ h ∈ t.held, h.loader ≠ (c.val, uid)) ∧
        ∀ x ∈ (t.core c).window, x.uid = uid → x.bound = []) ∧
    ((∀ h ∈ s.held, h.loader ≠ (c.val, uid)) →
      ∃ t, exec (.heldWriteRelease c uid) s = .next t ∧ t = { s with cores := t.cores } ∧
        ∀ x ∈ (t.core c).window, x.uid = uid → x.bound = [])

/-- HALT_NOTICE_RECEIPT: a core of a partition whose halt has begun fires nothing more, and its entries and tokens stay; nothing but the
core changes while another core has its notice still to come, and the last notice ends the halt with a PART_FAULT record (R84, R88, R584; that the record
comes at that moment is log 43, DEDUCED). -/
def Claims.HaltNoticeStopsTheCore : Prop :=
  ∀ (s : State) (c : CoreId) (p : PartId), (s.core c).part = some p.val → (s.part p).halting = true → (s.core c).halted = false →
    ∃ t, exec (.haltNoticeReceipt c) s = .next t ∧ (t.core c).halted = true ∧ t.mayFire c = false ∧
      (t.core c).tokens = (s.core c).tokens ∧ (t.core c).window.map (·.uid) = (s.core c).window.map (·.uid) ∧
      (∀ k, k ≠ c.val → t.core k = s.core k) ∧ SameMem s t ∧
      ((∃ k, k < 128 ∧ k ≠ c.val ∧ (s.core k).part = some p.val ∧ (s.core k).halted = false) → t = { s with cores := t.cores }) ∧
      ((∀ k, k < 128 → k ≠ c.val → (s.core k).part = some p.val → (s.core k).halted = true) → (t.part p).halting = false ∧
        ((s.part p).untold = true → (s.part p).fault.isSome = true → s.ready = true → (t.part p).untold = false ∧
          ((s.part p).flagged = [] → (t.keeper.log.getLast?).map (fun r => (r.code, r.part)) = some (1, some p.val))))

/-- Tokens on their routes, writes held behind loads, and the halt notice. -/
def Obligations.TokensHoldsAndHalts : Prop :=
  Claims.RoutedTokenArrives ∧ Claims.HeldWritesAreReleased ∧ Claims.HaltNoticeStopsTheCore

/-! ### Matrix arrays -/

/-- The bytes of n rows of a place. -/
def rowsOf (s : State) (pl : Place) (off stride len n : Nat) : List Byte :=
  (List.range n).flatMap fun i => readBytes (s.cells pl) (off + i * stride) len

/-- MLOAD of a tile that the core owns: the buffer holds the tile's rows as they stand in memory, with the descriptor's shape, format
and row count, and the instruction is done; while an earlier pass reads the buffer it is held and the buffer stays (R130, R135,
R140). -/
def Claims.MloadFillsTheBuffer : Prop :=
  ∀ (s : State) (c : CoreId) (x : Entry) (pl : Place), Fires s c 1 0x10 (s.arrayAccepts c) x →
    let d := s.desc c (getF x.op 55 40)
    let buf := getF x.op 39 39
    let shape := if dF d 2 1 = 3 then s.defaultShape c else dF d 2 1
    let dep := shapeD shape (dF d 1 1)
    let rows := dF d 0x0F 1 + 1
    s.arrayPlace c d = some pl → s.coreOwns c (some pl) = true → (s.bankOf pl).errs = [] →
    ∃ t, exec (.mload c) s = .next t ∧ OnlyCore c s t ∧ t.parts = s.parts ∧
      ((∀ p ∈ (s.core c).passes, ¬ (p.buf = buf ∧ p.reading = true)) →
        State.tileOf (t.core c) buf = ⟨shape, dF d 1 1, rows, cellsOf 0 (rowsOf s pl (dF d 8 4) (dF d 0x10 4) (rowBytes (dF d 1 1) dep) rows),
          cellsOf 0 (if dF d 1 1 = 5 then readBytes (s.cells pl) (dF d 5 3) (rows * (dep / 32)) else [])⟩ ∧
        ∀ e ∈ (t.core c).window, e.uid = x.uid → e.phase = .done) ∧
      ((∃ p ∈ (s.core c).passes, p.buf = buf ∧ p.reading = true) →
        (t.core c).tile0 = (s.core c).tile0 ∧ (t.core c).tile1 = (s.core c).tile1 ∧ ∀ e ∈ (t.core c).window, e.uid = x.uid → e.phase = .fired)

/-- MPASS: accumulator column j, row i takes the sum of the products of tile row i with weight vector j, and of the accumulator where
ACC asks for it, by the rule of its width class; every other accumulator, the tile buffers and memory stay (R130-R132, R141-R147). -/
def Obligations.MpassAccumulates : Prop :=
  ∀ (s : State) (c : CoreId) (x : Entry) (pl : Place), Fires s c 1 0x11 (s.arrayAccepts c) x →
    let d := s.desc c (getF x.op 55 40)
    let k := s.core c
    let buf := getF x.op 39 39
    let shape := s.passShape c x
    let wfmt := dF d 1 1
    let dep := shapeD shape wfmt
    let r := shapeR shape
    let n := dF d 0x0C 3
    let b := getF x.op 31 16
    let tile : Tile := if (State.tileOf k buf).shape = 3 then { State.tileOf k buf with rows := 0 } else State.tileOf k buf
    let rows := (List.range tile.rows).map fun i => State.tileRow tile dep i
    let sc := if wfmt = 5 then readBytes (s.cells pl) (dF d 5 3) (n * (dep / 32)) else []
    let column := fun j => State.passColumn tile wfmt shape dep rows (readBytes (s.cells pl) (dF d 8 4 + j * dF d 0x10 4) (rowBytes wfmt dep))
      ((sc.drop (j * (dep / 32))).take (dep / 32))
      fun i => if getF x.op 38 38 = 1 then [decodeVal 0 (k.acc.get 0 (b + j * r + i)).toNat] else []
    s.arrayPlace c d = some pl → s.coreOwns c (some pl) = true → (s.bankOf pl).errs = [] → 0 < rowBytes wfmt dep →
    ∃ t, exec (.mpass c) s = .next t ∧ OnlyCore c s { t with fresh := s.fresh } ∧
      (∀ j i, j < n → i < r → (t.core c).acc.get 0 (b + j * r + i) = BitVec.ofNat 32 ((column j).getD i (0, false)).1) ∧
      (∀ q, q < b ∨ b + r * n ≤ q → (t.core c).acc.get 0 q = k.acc.get 0 q) ∧
      (t.core c).tile0 = k.tile0 ∧ (t.core c).tile1 = k.tile1 ∧ (t.core c).passes = k.passes ++ [⟨x.uid, buf, shape, true⟩]

/-- MSTORE of the accumulators to a place that the core owns: it is done, or waits for a load that binds its bytes (R77); where none does,
each row holds the accumulators' values in the destination's format, MXFP4's scale plane the rows' scales, no other byte changes, and the
accumulators stay (R136, R154-R156). -/
def Obligations.MstoreWritesItsRows : Prop :=
  ∀ (s : State) (c : CoreId) (x : Entry) (pl : Place), Fires s c 1 0x12 (s.arrayAccepts c) x →
    let d := s.desc c (getF x.op 55 40)
    let fmt := dF d 1 1
    let chans := dF d 0x0F 1 + 1
    let cols := dF d 0x0C 3
    let rows := if dF d 2 1 = 1 then cols else chans
    let key := s.drawKey ((s.core c).part.getD 0) x.step (BitVec.ofNat 32 (dF d 0x14 4))
    let el := fun (i j flat : Nat) =>
      let bits := ((s.core c).accAt (getF x.op 31 16 + j * shapeR (getF x.op 33 32) + i)).toNat
      (decodeVal 0 bits, bits, flat)
    let run := fun o => packRun fmt (dF d 3 1) (dF d 2 1 != 2) key ((List.range (if dF d 2 1 = 1 then chans else cols)).map fun n =>
      if dF d 2 1 = 1 then el n o (dF d 0x18 5 + o * dF d 0x1D 3 + n) else el o n (dF d 0x18 5 + o * dF d 0x1D 3 + n))
    let row := fun o => (run o).1
    let scales := (List.range rows).flatMap fun o => (run o).2.1
    let start := fun o => dF d 8 4 + o * dF d 0x10 4
    let plane := dF d 5 3
    s.arrayPlace c d = some pl → s.coreOwns c (some pl) = true → (s.bankOf pl).errs = [] →
    ∃ t, exec (.mstore c) s = .next t ∧ (t.core c).acc = (s.core c).acc ∧ (∀ k, k ≠ c.val → t.core k = s.core k) ∧
      (∀ e ∈ (t.core c).window, e.uid = x.uid → e.phase = if t.hasHeld c x.uid then .held else .done) ∧
      (s.boundSpans c x.uid = [] → s.hasHeld c x.uid = false →
        t.hasHeld c x.uid = false ∧
        ((∀ o, o < rows → (row o).length ≤ dF d 0x10 4) →
          (fmt = 5 → ∀ o, o < rows → start o + (row o).length ≤ plane ∨ plane + scales.length ≤ start o) →
          ∀ o, o < rows → readBytes (t.cells pl) (start o) (row o).length = row o) ∧
        (fmt = 5 → readBytes (t.cells pl) plane scales.length = scales) ∧
        ∀ q a, readByte (t.cells q) a ≠ readByte (s.cells q) a → q = pl ∧
          ((∃ o, o < rows ∧ start o ≤ a ∧ a < start o + (row o).length) ∨ (fmt = 5 ∧ plane ≤ a ∧ a < plane + scales.length)))

/-- TILE_BUFFER_RELEASE: no pass reads the buffer any longer; where no MLOAD of it is held, nothing else changes (R140).
ARRAY_AT_REST: with no pass in the array its ramp level reads 0 (R150). -/
def Claims.ArrayReleases : Prop :=
  (∀ (s : State) (c : CoreId) (buf : Fin 2), ∃ t, exec (.tileBufferRelease c buf) s = .next t ∧
    ((∀ e ∈ (s.core c).window, ¬ (e.unit = 1 ∧ e.opcode = 0x10 ∧ e.phase = .fired ∧ getF e.op 39 39 = buf.val)) →
      (t.core c).passes = (s.core c).passes.map (fun p => if p.buf = buf.val then { p with reading := false } else p) ∧
      t = { s with cores := t.cores } ∧ (t.core c).tile0 = (s.core c).tile0 ∧ (t.core c).tile1 = (s.core c).tile1)) ∧
  (∀ (s : State) (c : CoreId), (s.core c).passes = [] → ∃ t, exec (.arrayAtRest c) s = .next t ∧ OnlyRegs s t ∧
    t.regF .meaStatus (cix c) 39 32 = 0 ∧ SameRegsBut [RegId.meaStatus.row.addr (cix c)] s t)

/-- Tile buffers are loaded and released, and the array comes to rest. -/
def Obligations.TileBuffers : Prop :=
  Claims.MloadFillsTheBuffer ∧ Claims.ArrayReleases

/-! ### Vector engines -/

/-- The element-wise instructions of both profiles with their opcodes (R191). -/
def elementwise (c : CoreId) (e : Fin 2) : List (Instr × Nat) :=
  [(.vmov c e, 0x10), (.vadd c e, 0x20), (.vsub c e, 0x21), (.vmul c e, 0x22), (.vfma c e, 0x23), (.vdiv c e, 0x24), (.vmax c e, 0x25),
   (.vmin c e, 0x26), (.vabs c e, 0x27), (.vneg c e, 0x28), (.vand c e, 0x30), (.vor c e, 0x31), (.vxor c e, 0x32), (.vshl c e, 0x33),
   (.vshr c e, 0x34), (.vcvt c e, 0x40)]

/-- An element-wise instruction in the Strip profile: every active element of its destination takes the operation's result on the
source elements, R170 decides the others; the other engine, other cores and memory stay (R168-R170, R191-R198). -/
def Obligations.StripElementwise : Prop :=
  ∀ (s : State) (c : CoreId) (eng : Fin 2) (x : Entry) (q : Instr × Nat), q ∈ elementwise c eng →
    Fires s c (2 + eng.val) q.2 (s.vecAccepts c eng) x → x.vset.tensor = false →
    let r := rWord x.op
    let v := s.vecAt c eng
    let a := actOf v x.vset r.m r.zm r.mreg
    let sf := if q.2 = 0x40 then r.sfmt else r.fmt
    let srcs := fun i => ([r.vs1, r.vs2, r.vs3].take (arity q.2)).map fun b => (sf, groupRead v b (fmtWidth sf) i)
    0 < a.n → (∀ i ∈ a.elems, poisonInt q.2 r.fmt (srcs i) = false) →
    ∃ t, exec q.1 s = .next t ∧
      t.vecAt c eng = writeAct v a r.vd (fmtWidth r.fmt)
        (a.elems.map fun i => (i, (elemOp q.2 r.fmt r.conv (s.stripDraw c x r.conv i) (srcs i)).bits)) ∧
      t.vecAt c (1 - eng.val) = s.vecAt c (1 - eng.val) ∧ OnlyCore c s t

/-- VCVT of a poison element to an integer format halts the partition, where it runs, with POISON_INT (R48, R198). -/
def Claims.PoisonToIntegerFaults : Prop :=
  ∀ (s : State) (c : CoreId) (eng : Fin 2) (p : PartId) (x : Entry), (s.core c).part = some p.val → s.isRunning p = true →
    Fires s c (2 + eng.val) 0x40 (s.vecAccepts c eng) x → x.vset.tensor = false →
    let r := rWord x.op
    let v := s.vecAt c eng
    let a := actOf v x.vset r.m r.zm r.mreg
    let src := fun i => [(r.sfmt, groupRead v r.vs1 (fmtWidth r.sfmt) i)]
    a.n ≤ 1024 → (∃ i ∈ a.elems, poisonInt 0x40 r.fmt (src i) = true) →
    ∃ t, exec (.vcvt c eng) s = .next t ∧ t.pstate p = 3 ∧ (t.part p).fault.map (·.cause) = some 5 ∧
      (t.part p).fault.map (fun f => some f.index.toNat) = some (a.elems.find? fun i => poisonInt 0x40 r.fmt (src i))

/-- What writing a register group leaves: the listed elements hold their bits, modulo the element width; where masked in zero mode the
other elements of the group are zero; every other element, and every other register, is as it was (R163, R170). -/
def Claims.GroupWrites : Prop :=
  ∀ (v : Vec) (a : Act) (base w e : Nat) (res : List (Nat × Nat)), w ∈ [8, 16, 32] → e < 1024 →
    (res.map (·.1)).Nodup → (∀ q ∈ res, q.1 < 1024) → a.lim ≤ 1024 →
    groupRead (writeAct v a base w res) base w e =
      (match res.find? fun q => q.1 == e with
       | some q => q.2 % 2 ^ w
       | none => if (a.zm && a.mask.isSome) = true ∧ e < a.lim then 0 else groupRead v base w e) ∧
    (writeAct v a base w res).masks = v.masks ∧
    ∀ k, k < 256 * base ∨ 256 * base + 32 * w ≤ k → (writeAct v a base w res).regs.get 0 k = v.regs.get 0 k

/-- VMOVI writes its immediate to every active element: sign-extended for INT32, zero-extended for UINT32, as bits 31:12 for FP32, and
its low 16 bits as the encoding for E8M7 and E5M10 (R196). -/
def Obligations.VmoviWritesItsImmediate : Prop :=
  ∀ (s : State) (c : CoreId) (eng : Fin 2) (x : Entry), Fires s c (2 + eng.val) 0x11 (s.vecAccepts c eng) x →
    let r := rWord x.op
    let v := s.vecAt c eng
    let a := actOf v x.vset r.m r.zm r.mreg
    let imm := if r.fmt = 9 then (BitVec.ofNat 20 r.imm).signExtend 32 |>.toNat
      else if r.fmt = 10 then r.imm else if r.fmt = 0 then r.imm * 4096 else r.imm % 65536
    0 < a.n →
    ∃ t, exec (.vmovi c eng) s = .next t ∧ t.vecAt c eng = writeAct v a r.vd (fmtWidth r.fmt) (a.elems.map fun i => (i, imm)) ∧
      t.vecAt c (1 - eng.val) = s.vecAt c (1 - eng.val) ∧ t.parts = s.parts ∧ OnlyCore c s t

/-- VSLDN writes d[e] = a[e + k], VSLUP d[e] = a[e − k], zero where the source lies outside 0 to n − 1; neither sets PERM_RANGE (R203). -/
def Obligations.SlidesMoveElements : Prop :=
  ∀ (s : State) (c : CoreId) (eng : Fin 2) (x : Entry) (q : Instr × Nat), q ∈ [(.vsldn c eng, 0x49), (.vslup c eng, 0x4A)] →
    Fires s c (2 + eng.val) q.2 (s.vecAccepts c eng) x →
    let r := rWord x.op
    let v := s.vecAt c eng
    let a := actOf v x.vset r.m r.zm r.mreg
    let k := getF x.op 9 0
    let src := fun e => if q.2 = 0x49 then (if e + k < a.n then groupRead v r.vs1 (fmtWidth r.fmt) (e + k) else 0)
      else (if k ≤ e then groupRead v r.vs1 (fmtWidth r.fmt) (e - k) else 0)
    0 < a.n →
    ∃ t, exec q.1 s = .next t ∧ t.vecAt c eng = writeAct v a r.vd (fmtWidth r.fmt) (a.elems.map fun e => (e, src e)) ∧
      t.reg .vecFlags (cix c ++ [eng.val]) = s.reg .vecFlags (cix c ++ [eng.val]) ∧ t.parts = s.parts ∧ OnlyCore c s t

/-- VMOVI, VSLDN and VSLUP over no element write none: every register stays, and the instruction is done (R168). -/
def Claims.NoElementsChangeNothing : Prop :=
  ∀ (s : State) (c : CoreId) (eng : Fin 2) (x : Entry) (q : Instr × Nat),
    q ∈ [(.vmovi c eng, 0x11), (.vsldn c eng, 0x49), (.vslup c eng, 0x4A)] → Fires s c (2 + eng.val) q.2 (s.vecAccepts c eng) x →
    (actOf (s.vecAt c eng) x.vset (rWord x.op).m (rWord x.op).zm (rWord x.op).mreg).n = 0 →
    ∃ t, exec q.1 s = .next t ∧ (∀ e, t.vecAt c e = s.vecAt c e) ∧ (∀ e ∈ (t.core c).window, e.uid = x.uid → e.phase = .done) ∧
      t.parts = s.parts ∧ OnlyCore c s t

/-- What a write of a vector register group leaves, and that an instruction over no element writes none. -/
def Obligations.GroupWriteSemantics : Prop :=
  Claims.GroupWrites ∧ Claims.NoElementsChangeNothing

/-- VPERM takes element vs2[e] of its source, or zero and PERM_RANGE where that is n or more; VCOMPRESS packs the active elements to the
front with zeros behind; VEXPAND spreads the first elements over the active ones (R201, R202). -/
def Obligations.PermutesMoveElements : Prop :=
  ∀ (s : State) (c : CoreId) (eng : Fin 2) (x : Entry) (q : Instr × Nat),
    q ∈ [(.vperm c eng, 0x48), (.vcompress c eng, 0x4C), (.vexpand c eng, 0x4D)] → Fires s c (2 + eng.val) q.2 (s.vecAccepts c eng) x →
    let r := rWord x.op
    let w := fmtWidth r.fmt
    let v := s.vecAt c eng
    let a := actOf v x.vset r.m r.zm r.mreg
    let k := fun i => groupRead v r.vs2 32 i
    let res := if q.2 = 0x48 then a.elems.map fun i => (i, if k i < a.n then groupRead v r.vs1 w (k i) else 0)
      else if q.2 = 0x4C then (List.range a.n).map fun i => (i, (a.elems.map fun j => groupRead v r.vs1 w j).getD i 0)
      else (List.range a.elems.length).map fun i => (a.elems.getD i 0, groupRead v r.vs1 w i)
    0 < a.n →
    ∃ t, exec q.1 s = .next t ∧ t.vecAt c eng = writeAct v a r.vd w res ∧ t.vecAt c (1 - eng.val) = s.vecAt c (1 - eng.val) ∧
      t.parts = s.parts ∧ OnlyCore c s t ∧
      (q.2 = 0x48 → (∃ i ∈ a.elems, a.n ≤ k i) → t.regF .vecFlags (cix c ++ [eng.val]) 4 4 = 1)

/-- VCMP and the mask logic write the bits of the elements below n that are active, and change no vector register (R197). -/
def Claims.MaskInstructionsWriteMasks : Prop :=
  ∀ (s : State) (c : CoreId) (eng : Fin 2) (x : Entry) (q : Instr × Nat × (Bool → Bool → Bool)),
    q ∈ [(.vcmp c eng, 0x38, fun _ _ => false), (.vmand c eng, 0x3C, fun a b => a && b), (.vmor c eng, 0x3D, fun a b => a || b),
         (.vmxor c eng, 0x3E, fun a b => a != b), (.vmnot c eng, 0x3F, fun a _ => !a)] →
    Fires s c (2 + eng.val) q.2.1 (s.vecAccepts c eng) x →
    let r := rWord x.op
    let w := fmtWidth r.fmt
    let v := s.vecAt c eng
    let a := actOf v x.vset r.m r.zm r.mreg
    let bit := fun i => if q.2.1 = 0x38 then cmpPred (r.imm % 8) r.fmt (groupRead v r.vs1 w i) (groupRead v r.vs2 w i)
      else q.2.2 ((maskOf v (r.vs1 % 8)).getLsbD i) ((maskOf v (r.vs2 % 8)).getLsbD i)
    a.n ≤ 1024 → 0 < a.n →
    ∃ t, exec q.1 s = .next t ∧ (t.vecAt c eng).regs = v.regs ∧
      (∀ i ∈ a.elems, (maskOf (t.vecAt c eng) (r.vd % 8)).getLsbD i = bit i) ∧
      (∀ m, m ≠ r.vd % 8 → maskOf (t.vecAt c eng) m = maskOf v m) ∧
      (r.m = false ∨ r.zm = false → ∀ i, i ∉ a.elems → (maskOf (t.vecAt c eng) (r.vd % 8)).getLsbD i = (maskOf v (r.vd % 8)).getLsbD i) ∧
      OnlyCore c s t

/-- VCMPC, VPOPC and VEXT deliver a scalar with their token: the count of true compares, the count of set mask bits, or element IMM;
they change no register and no mask (R179, R197, R202). -/
def Claims.ScalarInstructionsDeliver : Prop :=
  ∀ (s : State) (c : CoreId) (eng : Fin 2) (x : Entry) (q : Instr × Nat),
    q ∈ [(.vcmpc c eng, 0x39), (.vpopc c eng, 0x3B), (.vext c eng, 0x51)] → Fires s c (2 + eng.val) q.2 (s.vecAccepts c eng) x →
    let r := rWord x.op
    let w := fmtWidth r.fmt
    let v := s.vecAt c eng
    let a := actOf v x.vset r.m r.zm r.mreg
    let n := if q.2 = 0x39 then
        (a.elems.filter fun i => cmpPred (r.imm % 8) r.fmt (groupRead v r.vs1 w i) (groupRead v r.vs2 w i)).length
      else if q.2 = 0x3B then (a.elems.filter fun i => (maskOf v (r.vs1 % 8)).getLsbD i).length
      else groupRead v r.vs1 w (getF x.op 9 0)
    0 < a.n → (q.2 = 0x51 → getF x.op 9 0 < a.n) →
    ∃ t, exec q.1 s = .next t ∧ (∀ e ∈ (t.core c).window, e.uid = x.uid → e.value = BitVec.ofNat 32 n) ∧ t.vecAt c eng = v ∧
      OnlyCore c s t

/-- Compares, mask logic, and the instructions that deliver a scalar. -/
def Obligations.MasksAndScalars : Prop :=
  Claims.MaskInstructionsWriteMasks ∧ Claims.ScalarInstructionsDeliver

/-- VLD and VLDX of a place that the core owns, with every active element's bytes inside it and aligned: each active element of the
destination takes its bytes, and memory stays (R181, R190, R199-R201). -/
def Claims.VectorLoadsRead : Prop :=
  ∀ (s : State) (c : CoreId) (eng : Fin 2) (x : Entry) (q : Instr × Nat) (pl : Place), q ∈ [(.vld c eng, 0x08), (.vldx c eng, 0x0A)] →
    Fires s c (2 + eng.val) q.2 (s.vecAccepts c eng) x →
    let m := mWord x.op x.iters
    let w := fmtWidth m.fmt / 8
    let v := s.vecAt c eng
    let a := actOf v x.vset m.m m.zm m.mreg
    let addr := fun i => m.base + (if q.2 = 0x0A then groupRead v m.vx 32 i else i) * w
    s.locPlace (c.val / 16) m.vat = some pl → s.coreOwns c (some pl) = true → (s.bankOf pl).errs = [] → 0 < a.n →
    (∀ i ∈ a.elems, addr i + w ≤ mib2 ∧ addr i % w = 0) →
    ∃ t, exec q.1 s = .next t ∧
      t.vecAt c eng = writeAct v a m.vr (fmtWidth m.fmt) (a.elems.map fun i => (i, fromLE (readBytes (s.cells pl) (addr i) w))) ∧
      SameMem s t ∧ OnlyCore c s t ∧ t.parts = s.parts

/-- VST and VSTX of a place that the core owns, with no load bound: each active element's bytes stand at its address, the higher-numbered
one's where two name one address; every other byte, and every register, stays (R181, R190, R199, R200). -/
def Claims.VectorStoresWrite : Prop :=
  ∀ (s : State) (c : CoreId) (eng : Fin 2) (x : Entry) (q : Instr × Nat) (pl : Place), q ∈ [(.vst c eng, 0x09), (.vstx c eng, 0x0B)] →
    Fires s c (2 + eng.val) q.2 (s.vecAccepts c eng) x →
    let m := mWord x.op x.iters
    let w := fmtWidth m.fmt / 8
    let v := s.vecAt c eng
    let a := actOf v x.vset m.m m.zm m.mreg
    let addr := fun i => m.base + (if q.2 = 0x0B then groupRead v m.vx 32 i else i) * w
    s.locPlace (c.val / 16) m.vat = some pl → s.coreOwns c (some pl) = true → (s.bankOf pl).errs = [] → s.boundSpans c x.uid = [] →
    0 < a.n → (∀ i ∈ a.elems, addr i + w ≤ mib2 ∧ addr i % w = 0) →
    ∃ t, exec q.1 s = .next t ∧
      (∀ i ∈ a.elems, (∀ j ∈ a.elems, i < j → addr j ≠ addr i) →
        readBytes (t.cells pl) (addr i) w = leBytes w (groupRead v m.vr (8 * w) i)) ∧
      (∀ p b, readByte (t.cells p) b ≠ readByte (s.cells p) b → p = pl ∧ ∃ i ∈ a.elems, addr i ≤ b ∧ b < addr i + w) ∧
      t.vecAt c eng = v ∧ ∀ k, k ≠ c.val → t.core k = s.core k

/-- Vector loads and stores. -/
def Obligations.VectorMemory : Prop :=
  Claims.VectorLoadsRead ∧ Claims.VectorStoresWrite

/-- VSETVL's TOK form binds the scalar's length, at most VLMAX, to every instruction that waits for it, and sets CLAMP where it was more;
VPROFILE, VSETRC and VSETVL's other forms are done when they fire (R166, R167, R178). -/
def Obligations.SettingsBind : Prop :=
  ∀ (s : State) (c : CoreId) (eng : Fin 2) (x : Entry) (q : Instr × Nat),
    q ∈ [(.vsetvl c eng, 0x01), (.vprofile c eng, 0x02), (.vsetrc c eng, 0x03)] → Fires s c (2 + eng.val) q.2 (s.vecAccepts c eng) x →
    let tok := q.2 = 0x01 ∧ 2 ≤ getF x.op 55 54
    let max := vlmaxN (BitVec.ofNat 2 (getF x.op 53 52))
    let n := min (s.scalarOf c x).toNat max
    ∃ t, exec q.1 s = .next t ∧ (∀ e ∈ (t.core c).window, e.uid = x.uid → e.phase = .done) ∧
      (t.vecAt c eng).regs = (s.vecAt c eng).regs ∧ (t.vecAt c eng).masks = (s.vecAt c eng).masks ∧
      (tok → (∀ e ∈ (t.core c).window, e.vset.vlen ≠ .token x.uid) ∧
        (∀ e ∈ (s.core c).window, e.vset.vlen = .token x.uid → ∃ e' ∈ (t.core c).window, e'.uid = e.uid ∧ e'.vset.vlen = .known n) ∧
        (max < (s.scalarOf c x).toNat → t.regF .vecFlags (cix c ++ [eng.val]) 5 5 = 1)) ∧
      OnlyCore c s t ∧ t.parts = s.parts

/-- VRED reduces its active elements to element 0 in the operation that IMM names, rounding a sum once; VSCAN and VREC leave the carry of
their strip in lane 0 of vs3 (R204-R209). -/
def Obligations.ReductionsAndScans : Prop :=
  ∀ (s : State) (c : CoreId) (eng : Fin 2) (x : Entry),
    let r := rWord x.op
    let w := fmtWidth r.fmt
    let v := s.vecAt c eng
    let a := actOf v x.vset r.m r.zm r.mreg
    let sm := maskOf v (fld r.imm 7 5)
    let seg := fun i => r.imm.testBit 4 && sm.getLsbD i
    let u := fun i => s.stripDraw c x r.conv i
    0 < a.n →
    (Fires s c (2 + eng.val) 0x50 (s.vecAccepts c eng) x →
      let xs := a.elems.map fun i => groupRead v r.vs1 w i
      let out := if fmtIsFloat r.fmt then
          (encodeVal r.fmt (decide (4 ≤ r.conv)) (r.conv % 4) (u 0) (reduceF (r.imm % 4) (xs.map (decodeVal r.fmt)))).1
        else reduceI (r.imm % 4) r.fmt xs
      ∃ t, exec (.vred c eng) s = .next t ∧ t.vecAt c eng = groupWrite v r.vd w 0 out ∧ OnlyCore c s t) ∧
    (Fires s c (2 + eng.val) 0x58 (s.vecAccepts c eng) x → x.vset.tensor = false →
      let q := scanRun r.fmt r.conv (r.imm % 4) (r.imm.testBit 2)
        ((List.range a.n).map fun i => ⟨groupRead v r.vs1 w i, a.on i, seg i, u i⟩) (lane0 v r.vs3)
      ∃ t, exec (.vscan c eng) s = .next t ∧ t.vecAt c eng = setLane0 (writeAct v a r.vd w (resList q.1)) r.vs3 q.2.1 ∧ OnlyCore c s t) ∧
    (Fires s c (2 + eng.val) 0x5C (s.vecAccepts c eng) x → x.vset.tensor = false →
      let q := recRun r.fmt r.conv ((List.range a.n).map fun i =>
        ⟨decodeVal r.fmt (groupRead v r.vs1 w i), decodeVal r.fmt (groupRead v r.vs2 w i), a.on i, seg i, u i⟩) (lane0 v r.vs3)
      ∃ t, exec (.vrec c eng) s = .next t ∧ t.vecAt c eng = setLane0 (writeAct v a r.vd w (resList q.1)) r.vs3 q.2.1 ∧ OnlyCore c s t)

/-! ### The Tensor profile -/

/-- The chunk that an element-wise walk writes at its position: where it stands, and the bytes of its results (R173-R175). -/
def chunkStart (s : State) (c eng : Nat) (x : Entry) : Nat :=
  let d := s.tdesc c (getF x.op 51 40)
  let k := chunkAt d.rows d.cols (s.chunkMax c eng x.op) x.chunk
  d.addr k.row k.c0

/-- The results of the elements of that chunk, from the sources as they stand in memory. -/
def chunkBytes (s : State) (c eng : Nat) (x : Entry) : List Byte :=
  let d := s.tdesc c (getF x.op 51 40)
  let k := chunkAt d.rows d.cols (s.chunkMax c eng x.op) x.chunk
  (List.range k.n).flatMap fun i => leBytes d.esize (elemOp x.opcode d.fmt d.conv (s.chunkDraw c x d k i)
    ((List.range (arity x.opcode)).map fun j => ((s.srcAt c x j).fmt d.fmt, (s.readChunk k (s.srcAt c x j)).2.1.getD i 0))).bits

/-- The bytes of a special-function walk's chunk, in the mode and for the second function that the walk carries since it fired (R215,
R220, R222). -/
def sfChunkBytes (s : State) (c : Nat) (x : Entry) : List Byte :=
  let w := sfWord x.op
  let d := s.tdesc c w.td
  let k := chunkAt d.rows d.cols 256 x.chunk
  let src := fun (t : Nat) (i : Nat) => decodeVal (s.tdesc c t).fmt ((s.readChunk k (.desc (s.tdesc c t))).2.1.getD i 0)
  (List.range k.n).flatMap fun i => leBytes d.esize (encodeVal d.fmt (decide (4 ≤ d.conv)) (d.conv % 4) (s.chunkDraw c x d k i)
    (sfValue (s.core c) w (SMode.ofCode (x.carry.getD 0 0)) (x.carry.getD 1 0).toNat d.fmt (src w.ts1 i)
      (if w.oc = 0x61 then src w.ts2 i else decodeVal (s.tdesc c w.ts2).fmt 0))).1

/-- The 64-byte record of an RSTAT's row: the row's elements joined to a fresh partial or to the record it continues, as that partial or
finished (R242-R251). -/
def rowRecord (s : State) (c : Nat) (x : Entry) (rec' : Place) (at' : Nat) : List Byte :=
  let d := s.tdesc c (getF x.op 55 44)
  let src := (d.place.map s.cells).getD []
  let xs := (chunksOf d.esize (readBytes src (d.addr x.chunk 0) (d.cols * d.esize))).map fun b => decodeVal d.fmt (fromLE b)
  let p := (if getF x.op 43 43 = 1 then Partial.ofBytes (readBytes (s.cells rec') at' 64) else Partial.fresh (shiftOf xs)).row xs
  if getF x.op 42 42 = 1 then (p.finish (getF x.op 15 0)).bytes else p.bytes

/-- TENSOR_CHUNK_ADMISSION of a special-function walk in a mode without a parity error ahead, or of RSTAT, that the Weir admits: the chunk's
or row's bytes stand at its place (R177, R222, R242; one chunk at an admission is log 23). -/
def Claims.UnitChunkIsWritten : Prop :=
  ∀ (s u : State) (c : CoreId) (p : PartId) (uid : Nat) (x : Entry) (pl : Place), (s.core c).part = some p.val → s.entry? c uid = some x →
    x.phase = .fired → 0 < x.chunk → x.chunk < x.chunks → s.waitingCharge c = none →
    s.admitPart p (s.chunkCharge c x) = some u → NoErrors s → NothingBound s c uid →
    (x.unit = 4 → (s.tdesc c (sfWord x.op).td).place = some pl →
      SMode.ofCode (x.carry.getD 0 0) ≠ .normal ∨ (∀ n ∈ slotNeeds (s.core c) (sfWord x.op), (slotOf (s.core c) n.1).parity = []) →
      let d := s.tdesc c (sfWord x.op).td
      let k := chunkAt d.rows d.cols 256 x.chunk
      ∃ t, exec (.tensorChunkAdmission c uid) s = .next t ∧
        readBytes (t.cells pl) (d.addr k.row k.c0) (sfChunkBytes s c x).length = sfChunkBytes s c x) ∧
    (x.unit = 5 → s.locPlace (c.val / 16) (getF x.op 41 37) = some pl → (s.tdesc c (getF x.op 55 44)).place.isSome = true →
      let at' := 64 * (getF x.op 36 22 + x.chunk)
      ∃ t, exec (.tensorChunkAdmission c uid) s = .next t ∧ readBytes (t.cells pl) at' 64 = rowRecord s c x pl at' ∧
        SameMemBut pl at' 64 s t)

/-- TENSOR_CHUNK_ADMISSION of an element-wise walk under way on either engine: a chunk that the Weir admits is charged and written, and the
walk moves on; one that it does not admit waits, counted once, and nothing is written (R175, R177, R485, R506; the chunk at each admission
is log 23, the count of a charge that waits log 21). -/
def Claims.TensorChunkIsAdmittedAndWritten : Prop :=
  ∀ (s : State) (c : CoreId) (eng : Fin 2) (p : PartId) (uid : Nat) (x : Entry) (pl : Place), (s.core c).part = some p.val →
    s.entry? c uid = some x → x.unit = 2 + eng.val → (∃ q ∈ elementwise c eng, x.opcode = q.2) → x.phase = .fired → 0 < x.chunk →
    x.chunk < x.chunks → (s.core c).halted = false → s.waitingCharge c = none →
    let d := s.tdesc c (getF x.op 51 40)
    (s.admitPart p (s.chunkCharge c x) = none → s.weir.waiting.has c.val = false →
      ∃ t, exec (.tensorChunkAdmission c uid) s = .next t ∧ t.weir.waiting.get (0, 0) c.val = (uid, x.chunk) ∧ SameMem s t ∧
        t.cores = s.cores ∧ t.regF .weirAcct [p.val] 15 0 = min (s.regF .weirAcct [p.val] 15 0 + 1) 0xFFFF) ∧
    (∀ u, s.admitPart p (s.chunkCharge c x) = some u → d.place = some pl → NoErrors s → NothingBound s c uid →
      fmtIsFloat d.fmt = true ∨ x.opcode ≠ 0x40 →
      ∃ t, exec (.tensorChunkAdmission c uid) s = .next t ∧ (∀ y ∈ (t.core c).window, y.uid = uid → y.chunk = x.chunk + 1) ∧
        readBytes (t.cells pl) (chunkStart s c eng x) (chunkBytes s c eng x).length = chunkBytes s c eng x ∧
        t.weir.accts = u.weir.accts ∧ t.weir.spare = u.weir.spare ∧ (∀ k, k ≠ c.val → t.core k = s.core k))

/-- TENSOR_CHUNK_ADMISSION of any walk under way, of a vector engine, the special-function unit or row statistics, whose next chunk or
row the Weir admits: it is charged and run, the walk moves on, and after its last chunk the instruction is done, or waits for the writes
of it that are held (R77, R177, R222, R242, R485). -/
def Claims.TensorChunkAdvances : Prop :=
  ∀ (s u : State) (c : CoreId) (p : PartId) (uid : Nat) (x : Entry), (s.core c).part = some p.val → s.entry? c uid = some x →
    x.phase = .fired → 0 < x.chunk → x.chunk < x.chunks → s.waitingCharge c = none →
    s.admitPart p (s.chunkCharge c x) = some u → NoErrors s →
    x.unit = 2 ∨ x.unit = 3 ∨ x.unit = 4 ∨
      (x.unit = 5 ∧ (s.tdesc c (getF x.op 55 44)).place.isSome = true ∧ (s.locPlace (c.val / 16) (getF x.op 41 37)).isSome = true) →
    (x.unit = 2 ∨ x.unit = 3 → x.opcode = 0x40 → fmtIsFloat (s.tdesc c (getF x.op 51 40)).fmt = true) →
    ∃ t, exec (.tensorChunkAdmission c uid) s = .next t ∧
      (∀ y ∈ (t.core c).window, y.uid = uid → y.chunk = x.chunk + 1 ∧
        y.phase = if x.chunk + 1 < x.chunks then .fired else if t.hasHeld c uid then .held else .done) ∧
      t.weir.accts = u.weir.accts ∧ t.weir.spare = u.weir.spare ∧ ∀ k, k ≠ c.val → t.core k = s.core k

/-- In the Tensor profile an instruction fires on one engine for its whole extent: what the checks before access refuse halts the
partition and touches no memory; otherwise its first chunk of results is written (R174-R177, R181). -/
def Claims.TensorWalkStarts : Prop :=
  ∀ (s : State) (c : CoreId) (eng : Fin 2) (p : PartId) (x : Entry) (q : Instr × Nat), q ∈ elementwise c eng →
    (s.core c).part = some p.val → Fires s c (2 + eng.val) q.2 (s.vecAccepts c eng) x → x.vset.tensor = true →
    let d := s.tdesc c (getF x.op 51 40)
    let x' := { x with chunk := 0, carry := s.scalarsAt c eng x.op }
    (∀ f, s.tensorFault c (s.tensorDescs c (s.vecAt c eng) x.op) = some f → s.isRunning p = true →
      ∃ t, exec q.1 s = .next t ∧ HaltedWith t p f.1 ∧ SameMem s t) ∧
    (∀ pl, s.tensorFault c (s.tensorDescs c (s.vecAt c eng) x.op) = none → d.place = some pl → NoErrors s → NothingBound s c x.uid →
      fmtIsFloat d.fmt = true ∨ x.opcode ≠ 0x40 →
      ∃ t, exec q.1 s = .next t ∧ (∀ y ∈ (t.core c).window, y.uid = x.uid → y.chunk = 1) ∧
        readBytes (t.cells pl) (chunkStart s c eng x') (chunkBytes s c eng x').length = chunkBytes s c eng x')

/-- Walks of the Tensor profile: their start, and the admission of a further chunk (the chunk done at firing, and one at each admission,
are log 23; a charge counted once as waiting is log 21). -/
def Obligations.TensorProfile : Prop :=
  Claims.TensorChunkAdvances ∧ Claims.TensorChunkIsAdmittedAndWritten ∧ Claims.UnitChunkIsWritten ∧ Claims.TensorWalkStarts

/-! ### The special-function unit -/

/-- SFEVAL, SFGATE and SFRENNET in register mode, with no parity error in a slot they read: every active element takes the function's
value in the service mode chosen at firing, rounded to the destination's format; memory stays (R215, R219, R221, R226, R228; that the mode
is chosen once, at firing, and that an empty second slot leaves the word's own function to the ROM, is log 26, DEDUCED). -/
def Obligations.SpecialFunctionsEvaluate : Prop :=
  ∀ (s : State) (c : CoreId) (x : Entry) (q : Instr × Nat), q ∈ [(.sfeval c, 0x60), (.sfgate c, 0x61), (.sfrennet c, 0x62)] →
    Fires s c 4 q.2 (s.sfuAccepts c) x →
    let w := sfWord x.op
    let k := s.core c
    let v := s.vecAt c w.eng
    let a := actOf v x.vset w.m w.zm w.mreg
    let val := fun i => sfValue k w (modeOf k w).1 (gateCode k w) w.fmt (decodeVal w.sfmt (groupRead v w.vs1 (fmtWidth w.sfmt) i))
      (decodeVal w.sfmt (groupRead v w.vs2 (fmtWidth w.sfmt) i))
    w.tens = false → 0 < a.n → (∀ n ∈ slotNeeds k w, (slotOf k n.1).parity = []) →
    ∃ t, exec q.1 s = .next t ∧
      t.vecAt c w.eng = writeAct v a w.vd (fmtWidth w.fmt)
        (a.elems.map fun i => (i, (encodeVal w.fmt (decide (4 ≤ w.conv)) (w.conv % 4) (s.stripDraw c x w.conv i) (val i)).1)) ∧
      (t.core c).slots = k.slots ∧ OnlyCore c s t ∧
      ((modeOf k w).1 ≠ .normal → t.regF .sfuFlags (cix c) 1 1 = 1)

/-- Section k of a partition's tables and programs, as it stands in the table store (R230, R320). -/
def Claims.storedAt (s : State) (im : PartImg) (p k : Nat) : List Byte :=
  readBytes s.slow.data (im.storeAt p k) (im.store.getD k []).length

/-- SFTABLE puts the table it names, as the table store holds it, into its slot's shadow copy under the generation it was bound to; the
active copy serves on (R230; where the store lies, and that it is read at firing, is log 56, DESIGN CHOICE). -/
def Claims.SftableFillsTheShadow : Prop :=
  ∀ (s : State) (c : CoreId) (p : PartId) (x : Entry) (im : PartImg), Fires s c 4 0x64 (s.sfuAccepts c) x → (s.core c).part = some p.val →
    (s.part p).img = some im → NoErrors s →
    ∃ t, exec (.sftable c) s = .next t ∧
      (slotOf (t.core c) (getF x.op 45 42)).shadow =
        some (x.gens.get 0 (getF x.op 45 42), tableAt (Claims.storedAt s im p (getF x.op 8 0)) 0 (getF x.op 8 0)) ∧
      (slotOf (t.core c) (getF x.op 45 42)).active = (slotOf (s.core c) (getF x.op 45 42)).active ∧
      (∀ i, i ≠ getF x.op 45 42 → slotOf (t.core c) i = slotOf (s.core c) i) ∧
      (∀ e ∈ (t.core c).window, e.uid = x.uid → e.phase = .fired) ∧
      OnlyCore c s { t with sluices := s.sluices, dieSeen := s.dieSeen }

/-- SLOT_SWAP: once no instruction bound to the old generation is left, the shadow copy is the active one, valid under its own
generation, and the SFTABLE is done; before that nothing changes (R230; the moment is the command's, log 56). -/
def Claims.SlotSwapWaitsForOldReaders : Prop :=
  ∀ (s : State) (c : CoreId) (i : Fin 16) (g : Nat) (tb : Table), (slotOf (s.core c) i).shadow = some (g, tb) →
    let old := (s.core c).window.any fun e => e.unit == 4 && e.opcode != 0x64 && e.gens.has i &&
      e.gens.get 0 i == (slotOf (s.core c) i).gen.toNat
    (old = true → exec (.slotSwap c i) s = .next s) ∧
    (old = false → ∃ t, exec (.slotSwap c i) s = .next t ∧ slotOf (t.core c) i = ⟨some tb, none, BitVec.ofNat 16 g, 1, [], false⟩ ∧
      (∀ e ∈ (t.core c).window, ¬ (e.unit = 4 ∧ e.opcode = 0x64 ∧ getF e.op 45 42 = i.val ∧ e.phase = .fired)) ∧
      t = { s with cores := t.cores } ∧ ∀ k, k ≠ c.val → t.core k = s.core k)

/-- SLOT_RELOAD of a slot that waits for its reload, and SLOT_PARITY_REWRITE of one that failed its parity: a slot that holds a table takes
that table from the table store and is valid, an empty one stays empty; a reload takes the program slot of the number too (R232, R233). -/
def Claims.SlotsAreRestored : Prop :=
  ∀ (s : State) (c : CoreId) (p : PartId) (i : Fin 16) (im : PartImg) (q : Instr × Nat),
    q ∈ [(.slotReload c i, 3), (.slotParityRewrite c i, 2)] → (s.core c).part = some p.val → (s.part p).img = some im → NoErrors s →
    let sl := slotOf (s.core c) i
    sl.state = q.2 →
    ∃ t, exec q.1 s = .next t ∧ t = { s with cores := t.cores, sluices := t.sluices, mrs := t.mrs, dieSeen := t.dieSeen } ∧ (∀ k, k ≠ c.val → t.core k = s.core k) ∧
      (∀ tb, sl.active = some tb → slotOf (t.core c) i =
        { sl with active := some (tableAt (Claims.storedAt s im p tb.index) 0 tb.index), state := 1, parity := [] }) ∧
      (sl.active = none → slotOf (t.core c) i = { sl with state := 0, parity := [] }) ∧
      (q.2 = 3 → ∀ j, im.rennetOf (s.core c).logical i = some j →
        (t.core c).pslots.get ⟨0, 0, 0, [], []⟩ i = rennetAt (Claims.storedAt s im p (im.tables.length + j)) 0)

/-- Culture-table slots: loading, swapping, reloading and rewriting (the layout of the table store, SFTABLE's read of it at firing and the
moment of the swap are log 56, DESIGN CHOICE). -/
def Obligations.TableSlots : Prop :=
  Claims.SftableFillsTheShadow ∧ Claims.SlotSwapWaitsForOldReaders ∧ Claims.SlotsAreRestored

/-! ### Row statistics -/

/-- RSFIN turns each of its records into final statistics in place; RSMERGE merges record by record into its first range, taking the other
record where its own is empty and leaving it where the other is (R245, R249). No other byte changes. -/
def Claims.RecordsMergeAndFinish : Prop :=
  (∀ (s : State) (c : CoreId) (x : Entry) (pl : Place), Fires s c 5 0x72 (s.strmAccepts c) x →
    let off := getF x.op 50 36
    let n := getF x.op 35 21 + 1
    s.locPlace (c.val / 16) (getF x.op 55 51) = some pl → s.coreOwns c (some pl) = true → NoErrors s → NothingBound s c x.uid →
    ∃ t, exec (.rsfin c) s = .next t ∧
      (∀ i, i < n → readBytes (t.cells pl) (64 * (off + i)) 64 =
        ((Partial.ofBytes (readBytes (s.cells pl) (64 * (off + i)) 64)).finish (getF x.op 15 0)).bytes) ∧
      SameMemBut pl (64 * off) (64 * n) s t ∧ (∀ e ∈ (t.core c).window, e.uid = x.uid → e.phase = .done)) ∧
  (∀ (s : State) (c : CoreId) (x : Entry) (pa pb : Place), Fires s c 5 0x71 (s.strmAccepts c) x →
    let oa := getF x.op 50 36
    let ob := getF x.op 30 16
    let n := getF x.op 15 1 + 1
    s.locPlace (c.val / 16) (getF x.op 55 51) = some pa → s.locPlace (c.val / 16) (getF x.op 35 31) = some pb →
    s.coreOwns c (some pa) = true → s.coreOwns c (some pb) = true → NoErrors s → NothingBound s c x.uid →
    (pa ≠ pb ∨ oa + n ≤ ob ∨ ob + n ≤ oa) →
    ∃ t, exec (.rsmerge c) s = .next t ∧ SameMemBut pa (64 * oa) (64 * n) s t ∧
      ∀ i, i < n →
        let a := readBytes (s.cells pa) (64 * (oa + i)) 64
        let b := readBytes (s.cells pb) (64 * (ob + i)) 64
        readBytes (t.cells pa) (64 * (oa + i)) 64 =
          if (Partial.ofBytes b).n = 0 then a else if (Partial.ofBytes a).n = 0 then b else ((Partial.ofBytes a).merge (Partial.ofBytes b)).bytes)

/-- RSTAT fires: its first row's record, continued from what stands there where it says so, is in place, as final statistics where it says
so (R242-R246; that firing does the first row is log 23, DEDUCED). -/
def Claims.RowStatisticsOfTheFirstRow : Prop :=
  ∀ (s : State) (c : CoreId) (x : Entry) (src pl : Place), Fires s c 5 0x70 (s.strmAccepts c) x →
    let d := s.tdesc c (getF x.op 55 44)
    let off := getF x.op 36 22
    let xs := (chunksOf d.esize (readBytes (s.cells src) (d.addr 0 0) (d.cols * d.esize))).map fun b => decodeVal d.fmt (fromLE b)
    let p0 := if getF x.op 43 43 = 1 then Partial.ofBytes (readBytes (s.cells pl) (64 * off) 64) else Partial.fresh (shiftOf xs)
    d.place = some src → s.locPlace (c.val / 16) (getF x.op 41 37) = some pl → s.coreOwns c (some src) = true →
    s.coreOwns c (some pl) = true → NoErrors s → NothingBound s c x.uid →
    ∃ t, exec (.rstat c) s = .next t ∧
      readBytes (t.cells pl) (64 * off) 64 = (if getF x.op 42 42 = 1 then ((p0.row xs).finish (getF x.op 15 0)).bytes else (p0.row xs).bytes) ∧
      SameMemBut pl (64 * off) 64 s t ∧ (∀ e ∈ (t.core c).window, e.uid = x.uid → e.chunk = 1 ∧ e.chunks = d.rows)

/-- Row statistics: RSTAT, RSMERGE and RSFIN. -/
def Obligations.RowStatistics : Prop :=
  Claims.RecordsMergeAndFinish ∧ Claims.RowStatisticsOfTheFirstRow

/-! ### Movement -/

/-- COPY that its checks accept: the source is read when it fires and its bytes wait in the copy engine's queue in the destination's
order, and no byte of memory changes yet (R258-R263; that its bytes wait there from firing until it is taken, and that a MOVE takes whole
rows with their padding, is log 27, DEDUCED). -/
def Claims.CopyIsQueued : Prop :=
  ∀ (s : State) (c : CoreId) (x : Entry), Fires s c 6 0x20 (s.copyAccepts c) x →
    let src := s.endp c (getF x.op 55 44)
    let dst := (s.endp c (getF x.op 43 32)).sized src
    let pages := s.pagesOf c
    let rs := src.runs (isMove src dst)
    s.sideFault c pages src.side 0 [0x13] rs = none → s.sideFault c pages dst.side 1 [0x13] (dst.runs true) = none →
    s.copyRefused c src dst = false → NoErrors s →
    ∃ t, exec (.copy c) s = .next t ∧ SameMem s t ∧
      (t.cl (c.val / 16)).copyQ = (s.cl (c.val / 16)).copyQ ++ [⟨c, x.uid, (s.core c).part.getD 0, src.layout == 2 || dst.layout == 2,
        copyBytes src dst (cutBytes rs (deliver src.fmt (s.readPieces (src.side.pieces pages 0 rs)).bytes)),
        State.spansOf (dst.side.pieces pages 1 (dst.runs true)), (dst.side.pieces pages 1 (dst.runs true)).map (·.va), dst.side.virt, false⟩] ∧
      (∀ e ∈ (t.core c).window, e.uid = x.uid → e.phase = .fired)

/-- COPY_TAKEN and G24_COPY_START: the copy at the front runs, and where its destination is one run, that run holds its bytes and no other
byte changes; a G24 copy that is taken waits for its own start (R258, R267). -/
def Claims.CopiesRun : Prop :=
  ∀ (s : State) (cl : ClusterId) (j : CopyJob) (rest : List CopyJob) (sp : Span), NoErrors s → NothingBound s j.core j.uid →
    j.started = false → j.core / 16 = cl.val → j.dst = [sp] → j.vas.length = 1 → j.data.length = sp.len →
    (j.g24 = false → (s.cl cl).copyQ = j :: rest → (s.cl cl).copyRun = [] → (s.cl cl).restarting = false →
      ∃ t, exec (.copyTaken cl) s = .next t ∧ (t.cl cl).copyQ = rest ∧ (t.cl cl).copyRun = [{ j with started := true }] ∧
        readBytes (t.cells sp.place) sp.lo sp.len = j.data ∧ SameMemBut sp.place sp.lo sp.len s t) ∧
    (j.g24 = true → (s.cl cl).copyQ = j :: rest → (s.cl cl).copyRun = [] → (s.cl cl).restarting = false →
      ∃ t, exec (.copyTaken cl) s = .next t ∧ (t.cl cl).copyQ = rest ∧ (t.cl cl).copyRun = [j] ∧ SameMem s t) ∧
    (j.g24 = true → (s.cl cl).copyRun = j :: rest → (∀ k ∈ rest, ¬ (k.core = j.core ∧ k.uid = j.uid)) →
      ∃ t, exec (.g24CopyStart cl) s = .next t ∧ (t.cl cl).copyRun = { j with started := true } :: rest ∧
        readBytes (t.cells sp.place) sp.lo sp.len = j.data ∧ SameMemBut sp.place sp.lo sp.len s t)

/-- The copy engine: a copy fires, is taken, and a G24 copy starts. -/
def Obligations.CopyEngine : Prop :=
  Claims.CopyIsQueued ∧ Claims.CopiesRun

/-- The bytes that stand in a list of pieces, in order. -/
def Claims.bytesIn (s : State) (l : List Piece) : List Byte := l.flatMap fun p => readBytes (s.cells p.place) p.addr p.len

/-- No byte lies in two pieces of a list. -/
def Claims.Apart (l : List Piece) : Prop := l.Pairwise fun a b => a.place ≠ b.place ∨ a.addr + a.len ≤ b.addr ∨ b.addr + b.len ≤ a.addr

/-- SLOAD and SSTORE that the checks accept: the rows of the source stand in the rows of the destination, whether the far side is virtual
memory or a vat or pool bank, and no other byte changes (R268-R271). -/
def Obligations.StreamsMoveRows : Prop :=
  ∀ (s : State) (c : CoreId) (x : Entry) (q : Instr × Nat), q ∈ [(.sload c, 0x10), (.sstore c, 0x11)] →
    Fires s c 5 q.2 (s.strmAccepts c) x →
    let d := s.desc c (getF x.op 55 44)
    let far := s.side c (dF d 1 1) (dF d 2 1) (dF d 8 6 + 64 * getF x.op 39 20 * innerIter x.iters)
    let near : Side := ⟨false, s.locPlace (c.val / 16) (dF d 3 1), dF d 0x0E 3 + 64 * getF x.op 19 4 * innerIter x.iters⟩
    let farRuns := (List.range (dF d 0x11 3)).map fun r => (r * dF d 0x14 4, dF d 4 4)
    let nearRuns := (List.range (dF d 0x11 3)).map fun r => (r * dF d 0x18 4, dF d 4 4)
    let load := decide (q.2 = 0x10)
    let src := if load then far.pieces (s.pagesOf c) 0 farRuns else near.pieces (s.pagesOf c) 0 nearRuns
    let dst := if load then near.pieces (s.pagesOf c) 1 nearRuns else far.pieces (s.pagesOf c) 1 farRuns
    s.sideFault c (s.pagesOf c) far (if load then 0 else 1) [] farRuns = none → s.sideFault c (s.pagesOf c) near 0 [] nearRuns = none →
    NoErrors s → NothingBound s c x.uid → Claims.Apart dst → sumN (src.map (·.len)) = sumN (dst.map (·.len)) →
    ∃ t, exec q.1 s = .next t ∧ Claims.bytesIn t dst = Claims.bytesIn s src ∧ (∀ e ∈ (t.core c).window, e.uid = x.uid → e.phase = .done) ∧
      ∀ p a, readByte (t.cells p) a ≠ readByte (s.cells p) a → ∃ k ∈ dst, k.place = p ∧ k.addr ≤ a ∧ a < k.addr + k.len

/-- An access by virtual address that the page map does not hold, or does not permit, halts the partition before any byte moves: SLOAD with
TRANSLATION or PERMISSION, at the first page that fails (R80, R83, R85). -/
def Claims.TranslationIsCheckedFirst : Prop :=
  ∀ (s : State) (c : CoreId) (p : PartId) (x : Entry) (f : Nat × Nat), (s.core c).part = some p.val → s.isRunning p = true →
    Fires s c 5 0x10 (s.strmAccepts c) x →
    let d := s.desc c (getF x.op 55 44)
    let far := s.side c (dF d 1 1) (dF d 2 1) (dF d 8 6 + 64 * getF x.op 39 20 * innerIter x.iters)
    far.virt = true → checkRuns (s.pagesOf c) 0 ((List.range (dF d 0x11 3)).map fun r => (far.base + r * dF d 0x14 4, dF d 4 4)) = some (f.1, some f.2) →
    ∃ t, exec (.sload c) s = .next t ∧ HaltedWith t p f.1 ∧ SameMem s t ∧ (f.1 = 1 ∨ f.1 = 2) ∧
      (t.part p).fault.map (fun r => (r.addr, r.hasAddr)) = some (BitVec.ofNat 64 (f.2 % 2 ^ 48), true)

/-- Each application of ZERO or DROP has counted in STRM_GS_RANGE, and any has set the flag (R277). -/
def Claims.RangeCounted (c : CoreId) (n : Nat) (s t : State) : Prop :=
  t.regF .gsRange (cix c) 31 0 = min (s.regF .gsRange (cix c) 31 0 + n) (2 ^ 32 - 1) ∧ (0 < n → t.regF .gsFlags (cix c) 1 1 = 1)

/-- GATHER: the dense block of each active entry holds the block it names, or +0 where the policy ZERO takes it out of range; an inactive
entry's block is left or zeroed as ZM says, no other memory changes, and each out of range counts (R276-R279). -/
def Claims.GatherReadsNamedBlocks : Prop :=
  ∀ (s : State) (c : CoreId) (x : Entry) (pl : Place), Fires s c 5 0x30 (s.strmAccepts c) x →
    let xt := s.xtens c (getF x.op 55 44)
    let l := s.xlist c (getF x.op 43 32)
    let es := (s.readList xt l).2.1
    s.xFault c xt l 0 = none → NoErrors s → NothingBound s c x.uid → l.dense = some pl → xt.blockLen ≤ l.dStride →
    (xt.policy = 0 → ∀ n ∈ es, n.on = true → xt.inRange n.key = true) →
    ∃ t, exec (.gather c) s = .next t ∧ (∀ e ∈ (t.core c).window, e.uid = x.uid → e.phase = .done) ∧
      (∀ n ∈ es, readBytes (t.cells pl) (l.dOff + n.i * l.dStride) xt.blockLen =
        if n.on then
          (if xt.inRange n.key then xt.assemble n.key (deliver xt.fmt (s.readBlock c xt n.key).bytes) else fill xt.blockLen 0)
        else if l.zm then fill xt.blockLen 0 else readBytes (s.cells pl) (l.dOff + n.i * l.dStride) xt.blockLen) ∧
      Claims.RangeCounted c (es.filter fun n => n.on && !xt.inRange n.key).length s t ∧
      (∀ p a, readByte (t.cells p) a ≠ readByte (s.cells p) a → p = pl ∧ ∃ i, i < l.count ∧
        l.dOff + i * l.dStride ≤ a ∧ a < l.dOff + i * l.dStride + xt.blockLen)

/-- Under the FAULT policy an active entry out of range halts the partition with COORD_RANGE before any byte is written, for GATHER, SCATTER
and SCATTER_ADD alike (R82, R85, R277). -/
def Claims.CoordinatesAreCheckedFirst : Prop :=
  ∀ (s : State) (c : CoreId) (p : PartId) (x : Entry) (q : Instr × Nat), (s.core c).part = some p.val → s.isRunning p = true →
    q ∈ [(.gather c, 0x30), (.scatter c, 0x31), (.scatterAdd c, 0x32)] → Fires s c 5 q.2 (s.strmAccepts c) x →
    let xt := s.xtens c (getF x.op 55 44)
    let l := s.xlist c (getF x.op 43 32)
    s.xFault c xt l (q.2 - 0x30) = none → NoErrors s → xt.policy = 0 →
    (∃ n ∈ (s.readList xt l).2.1, n.on = true ∧ xt.inRange n.key = false) →
    ∃ t, exec q.1 s = .next t ∧ HaltedWith t p 6 ∧ SameMem s t

/-- Faults that are checked before access, and POISON_INT. -/
def Obligations.ChecksBeforeAccess : Prop :=
  Claims.PoisonToIntegerFaults ∧ Claims.TranslationIsCheckedFirst ∧ Claims.CoordinatesAreCheckedFirst

/-- The bytes of a block that lie inside its tensor, row by row (R276). -/
def Claims.insideOf (xt : XTens) (k : Int × Int × Int) (block : List Byte) : List Byte :=
  (xt.blockRuns k).flatMap fun r => (block.drop (r.1 * xt.tgroups * xt.g)).take r.2.2

/-- SCATTER and SCATTER_ADD: only bytes of the blocks that active entries in range name change, entries that DROP takes out counting; each
distinct block of a SCATTER holds the dense block of the last entry naming it, and each of a SCATTER_ADD the sum of what it held and the dense
blocks of its entries, added in list order with a rounding each (R276, R277, R280, R281). The bytes of a block are said where no two
blocks, and no block and dense block, share any. -/
def Claims.ScattersWriteNamedBlocks : Prop :=
  ∀ (s : State) (c : CoreId) (x : Entry) (q : Instr × Nat), q ∈ [(.scatter c, 0x31), (.scatterAdd c, 0x32)] →
    Fires s c 5 q.2 (s.strmAccepts c) x →
    let xt := s.xtens c (getF x.op 55 44)
    let l := s.xlist c (getF x.op 43 32)
    let es := (s.readList xt l).2.1
    let hit := es.filter fun n => n.on && xt.inRange n.key
    let pieces := fun (k : Int × Int × Int) => xt.side.pieces (s.pagesOf c) 1 ((xt.blockRuns k).map fun r => (r.2.1, r.2.2))
    let dense := fun (dp : Place) (i : Nat) => readBytes (s.cells dp) (l.dOff + i * l.dStride) xt.blockLen
    let els := fun (bs : List Byte) => (chunksOf xt.es bs).map fromLE
    let add := fun (a b : List Nat) => (List.zipWith (State.addElem xt.fmt (getF x.op 31 29)) a b).map (·.1)
    s.xFault c xt l (q.2 - 0x30) = none → NoErrors s → NothingBound s c x.uid →
    (xt.policy = 0 → ∀ n ∈ es, n.on = true → xt.inRange n.key = true) →
    ∃ t, exec q.1 s = .next t ∧ (∀ e ∈ (t.core c).window, e.uid = x.uid → e.phase = .done) ∧
      (∀ p a, readByte (t.cells p) a ≠ readByte (s.cells p) a → ∃ n ∈ hit, ∃ k ∈ pieces n.key, k.place = p ∧ k.addr ≤ a ∧ a < k.addr + k.len) ∧
      Claims.RangeCounted c (es.filter fun n => n.on && !xt.inRange n.key).length s t ∧
      ∀ dp, l.dense = some dp → Claims.Apart ((distinctKeys hit).flatMap pieces) →
        (∀ n ∈ hit, ∀ m ∈ hit, ∀ k ∈ pieces n.key, k.place ≠ dp ∨ k.addr + k.len ≤ l.dOff + m.i * l.dStride ∨
          l.dOff + m.i * l.dStride + xt.blockLen ≤ k.addr) →
        ∀ k ∈ distinctKeys hit,
          let mine := hit.filter fun n => n.key == k
          (q.2 = 0x31 → ∀ n, mine.getLast? = some n → Claims.bytesIn t (pieces k) = Claims.insideOf xt k (dense dp n.i)) ∧
          (q.2 = 0x32 → Claims.bytesIn t (pieces k) = Claims.insideOf xt k
            ((mine.foldl (fun a n => add a (els (dense dp n.i))) (els (xt.assemble k (deliver xt.fmt (s.readBlock c xt k).bytes)))).flatMap
              (leBytes xt.es)))

/-- GATHER, SCATTER and SCATTER_ADD. -/
def Obligations.GatherAndScatter : Prop :=
  Claims.GatherReadsNamedBlocks ∧ Claims.ScattersWriteNamedBlocks

/-! ### On-die memory and memory tiers -/

/-- OWNSET by an owner starts a hand-over: PENDING is set with the new owner's code, the owner in force stays, and the instruction waits
(R297, R298). -/
def Claims.OwnsetStartsAHandover : Prop :=
  ∀ (s : State) (c : CoreId) (p : PartId) (x : Entry) (pl : Place) (id : RegId) (ix : List Nat), (s.core c).part = some p.val →
    Fires s c 5 0x40 (s.strmAccepts c) x →
    (s.strmPlaces c x.op).headD none = some pl → s.ownerOk p c pl [0x10, 0x11, 0x12, 0x13, 0x14] = true → pl.ownReg = some (id, ix) →
    let new := getF x.op 49 45
    ∃ t, exec (.ownset c) s = .next t ∧ t.regF id ix 39 39 = 1 ∧
      t.regF id ix 36 32 = (if new < 16 then (s.physOf (16 * (c.val / 16) + new)).getD 0 % 16 else new) ∧
      t.regF id ix 4 0 = s.regF id ix 4 0 ∧ SameMem s t ∧ (∀ e ∈ (t.core c).window, e.uid = x.uid → e.phase = .fired)

/-- OWNER_CHANGE: with a hand-over pending and no access in flight, the new owner is in force and nothing is pending (R299).
VAT_OWNER and POOL_OWNER writes: refused as an access error but where the partition is stopped or none holds the vat or bank, the new
owner is a core of the same partition or an engine, and nothing is pending; then the hand-over is pending (R300, R301).
MEMORY_CLEAR_COMPLETE: every byte of the vat or bank reads as zero, and every other byte as before (R303). -/
def Claims.HandoversAndClears : Prop :=
  (∀ (s : State) (pool : Bool) (cl : ClusterId) (i : Fin 32) (id : RegId) (ix : List Nat),
    (State.bankPlace pool cl i).ownReg = some (id, ix) → s.regF id ix 39 39 = 1 → s.inFlight (State.bankPlace pool cl i) = false →
    ∃ t, exec (.ownerChange pool cl i) s = .next t ∧ t.regF id ix 4 0 = s.regF id ix 36 32 ∧ t.regF id ix 39 39 = 0 ∧
      t.regF id ix 36 32 = 0x1F ∧ t = { s with mrs := t.mrs, cores := t.cores, off := t.off, fresh := t.fresh } ∧ SameRegsBut [id.row.addr ix] s t) ∧
  (∀ (s : State) (q : Instr × Bool × Nat) (cl : ClusterId) (i : Fin 32) (b : Fin 16) (owner : BitVec 5),
    q ∈ [(.vatOwnerWrite cl i owner, false, i.val), (.poolOwnerWrite cl b owner, true, b.val)] →
    let id := if q.2.1 then RegId.poolOwner else RegId.vatOwner
    let w := s.reg id [cl.val, q.2.2]
    let held := getF w 43 43 = 1
    let ok := (held → s.firing (getF w 47 44) = false) ∧ getF w 39 39 = 0 ∧
      (if owner.toNat < 16 then (s.core (16 * cl.val + owner.toNat)).part = (if held then some (getF w 47 44) else none) else owner.toNat ≤ 0x14)
    (s.unreachable id [cl.val, q.2.2] = false → s.romOnly = false → ok → ∃ t, exec q.1 s = .next t ∧ OnlyRegs s t ∧
      t.regF id [cl.val, q.2.2] 39 39 = 1 ∧ t.regF id [cl.val, q.2.2] 36 32 = owner.toNat ∧ t.regF id [cl.val, q.2.2] 4 0 = getF w 4 0) ∧
    (s.unreachable id [cl.val, q.2.2] = true ∨ ¬ ok → exec q.1 s = .next s.accessErr)) ∧
  (∀ (s : State) (pool : Bool) (cl : ClusterId) (i : Fin 32) (id : RegId) (ix : List Nat),
    (State.bankPlace pool cl i).ownReg = some (id, ix) → s.regF id ix 40 40 = 1 →
    ∃ t, exec (.memoryClearComplete pool cl i) s = .next t ∧ t.regF id ix 40 40 = 0 ∧ SameRegsBut [id.row.addr ix] s t ∧
      (∀ a, readByte (t.cells (State.bankPlace pool cl i)) a = 0) ∧
      (∀ q a, q ≠ State.bankPlace pool cl i → readByte (t.cells q) a = readByte (s.cells q) a))

/-- Ownership of vats and pool banks. -/
def Obligations.OwnershipOfMemory : Prop :=
  Claims.OwnsetStartsAHandover ∧ Claims.HandoversAndClears

/-- CONF_CTRL takes an EDDY_N of 4 to 32 and refuses any other as an access error; CONF_RANK takes its field (R314, R315). -/
def Claims.ConfluenceRegisters : Prop :=
  ∀ (s : State) (cl : ClusterId) (v : Long), s.unreachable .confCtrl [cl.val] = false → s.romOnly = false →
    (4 ≤ getF v 5 0 → getF v 5 0 ≤ 32 → ∃ t, exec (.confCtrlWrite cl v) s = .next t ∧ OnlyRegs s t ∧
      t.regF .confCtrl [cl.val] 5 0 = getF v 5 0 ∧ SameRegsBut [RegId.confCtrl.row.addr [cl.val]] s t) ∧
    (getF v 5 0 < 4 ∨ 32 < getF v 5 0 → exec (.confCtrlWrite cl v) s = .next s.accessErr) ∧
    (∃ t, exec (.confRankWrite cl v) s = .next t ∧ OnlyRegs s t ∧ t.regF .confRank [cl.val] 39 0 = getF v 39 0 ∧
      SameRegsBut [RegId.confRank.row.addr [cl.val]] s t)

/-- Requester a has waited longer at a resource than b, or as long and has the lower index. -/
def Claims.WaitedLonger (r : ConfRes) (a b : Nat) : Prop :=
  let since := fun (j : Nat) => (r.req j).since.getD r.beat
  since a < since b ∨ (since a = since b ∧ a < b)

/-- The designated of a resource with the one that an eddy grant adds: its longest waiter, also in back-off, that is not designated yet
(R308; one that is already designated keeps its place, log 52). -/
def Claims.Designates (r : ConfRes) (presented des : List Nat) : Prop :=
  (r.grants + 1 < r.n → des = r.designated) ∧
  (r.n ≤ r.grants + 1 →
    ((∀ j ∈ presented, j ∈ r.designated) → des = r.designated) ∧
    ∀ d ∈ presented, d ∉ r.designated → (∀ j ∈ presented, j ∉ r.designated → j ≠ d → Claims.WaitedLonger r d j) → des = r.designated ++ [d])

/-- CONFLUENCE_ARBITRATION in a cluster whose common is on: the units' requests join their requesters' queues, each requester presents the
front request of one unit; where one that presents is not backing off, the first designated of those is granted, or else the one of
highest rank, then longest wait, then lowest index; its wait ends, its next unit is up, its withdrawal is a dead beat, and the other
eligible ones that are not designated wait their backoff, doubled up to 64 (R305-R309). Where none is eligible nothing is granted. -/
def Claims.OneRequesterIsGranted : Prop :=
  ∀ (s : State) (cl : ClusterId) (res : Fin 34) (arrivals : List (Fin 20 × Fin 6)) (withdrawn : Bool), s.blockOff (128 + cl.val) = false →
    let k := (s.cl cl).arrive res (arrivals.map fun x => (x.1.val, x.2.val))
    let r := k.conf.get ConfRes.fresh res
    let pres := k.presented res
    let elig := fun (j : Nat) => j ∈ pres ∧ (r.req j).backoff = 0
    let rank := fun (j : Nat) => getF r.ranks (2 * j + 1) (2 * j)
    ∃ t, exec (.confluenceArbitration cl res arrivals withdrawn) s = .next t ∧ t = { s with mrs := t.mrs, clusters := t.clusters } ∧
      let r' := (t.cl cl).conf.get ConfRes.fresh res
      r'.beat = r.beat + 1 ∧
      ((∀ j, ¬ elig j) → r'.last = none ∧ r'.designated = r.designated ∧ (t.cl cl).confQ = k.confQ) ∧
      ((∃ j, elig j) → ∃ g des, elig g ∧ Claims.Designates r pres des ∧
        ((∃ j ∈ des, elig j) → ∃ before after, des = before ++ g :: after ∧ ∀ j ∈ before, ¬ elig j) ∧
        ((∀ j ∈ des, ¬ elig j) → ∀ j, elig j → j ≠ g → rank j < rank g ∨ (rank j = rank g ∧ Claims.WaitedLonger r g j)) ∧
        r'.last = some g ∧ r'.designated = des.filter (fun j => j != g) ∧ r'.req g = ConfReq.fresh ∧
        (t.cl cl).confQ = k.confQ.set g (k.confQ.get ConfQueue.empty g).won ∧
        t.regF .confStat [cl.val] 47 32 = max (s.regF .confStat [cl.val] 47 32) (min (r.beat - (r.req g).since.getD r.beat) 0xFFFF) ∧
        (withdrawn = true → t.regF .confStat [cl.val] 31 0 = min (s.regF .confStat [cl.val] 31 0 + 1) 0xFFFFFFFF) ∧
        ∀ j, j ≠ g → elig j → (r'.req j).since = some ((r.req j).since.getD r.beat) ∧
          if j ∈ des then (r'.req j).backoff = 0 ∧ (r'.req j).retry = (r.req j).retry
          else (r'.req j).backoff = (r.req j).retry ∧ (r'.req j).retry = min 64 (2 * (r.req j).retry))

/-- The Confluence: its registers and its arbitration. -/
def Obligations.Confluence : Prop :=
  Claims.ConfluenceRegisters ∧ Claims.OneRequesterIsGranted

/-- A sluice slot serves one granule of a class that holds a token after the slot's fill: of the minimum buckets before the cap buckets,
an export's reads from cap tokens only; it serves none only where no class with a granule waiting holds a token for it (R327-R329, R440). -/
def Obligations.SluiceServesATokenHolder : Prop :=
  ∀ (s : State) (k : Fin 12) (n : Nat),
    let x := s.sluiceComes k n
    let mint := fun (j : Fin 18) => tokenUnit ≤ x.mins.get 0 j
    let capt := fun (j : Fin 18) => tokenUnit ≤ x.caps.get 0 j
    let waits := fun (j : Fin 18) => 0 < x.pend.get 0 j
    let ferry := fun (j : Fin 18) => 0 < x.ferry.get 0 j ∧ s.mayFerry j = true
    ∃ t, exec (.sluiceSlot k n) s = .next t ∧ t = { s with sluices := t.sluices, ferries := t.ferries } ∧
      ((t.sluice k).served = none ↔ ∀ j, (waits j → ¬ mint j ∧ ¬ capt j) ∧ (ferry j → ¬ capt j)) ∧
      ∀ g, (t.sluice k).served = some g → ∃ j : Fin 18, j.val = g ∧
        ((waits j ∧ mint j) ∨ ((∀ i, waits i → ¬ mint i) ∧ (waits j ∨ ferry j) ∧ capt j)) ∧
        (t.sluice k).pend.get 0 g = x.pend.get 0 g - 1 ∧
        (x.pend.get 0 g = 0 → (t.sluice k).ferry.get 0 g = x.ferry.get 0 g - 1 ∧ (t.sluice k).mins.get 0 g = x.mins.get 0 g)

/-- STACK_TEMPERATURE_REPORT of a stack whose controller is on: the temperature is shown; the first report sets the level, a later one at or above THRESH raises it once a
whole report has passed since the last rise; 110 °C trips the stack, after which reports change nothing (R331, R333, R335; that a controller which is off reports nothing
is log 47). -/
def Claims.TemperatureReportsSetTheLevel : Prop :=
  ∀ (s : State) (st : StackId) (temp : Byte),
    (s.regF .sluHeat [st.val] 34 34 = 1 ∨ 144 + st.val ∈ s.off → exec (.stackTemperatureReport st temp) s = .next s) ∧
    (s.regF .sluHeat [st.val] 34 34 = 0 → 144 + st.val ∉ s.off → ∃ t, exec (.stackTemperatureReport st temp) s = .next t ∧
      t.regF .sluHeat [st.val] 63 56 = temp.toNat ∧ t.regF .sluHeat [st.val] 35 35 = 1 ∧
      (s.regF .sluHeat [st.val] 35 35 = 0 → t.level st = if s.regF .sluHeat [st.val] 47 40 ≤ temp.toNat then 1 else 0) ∧
      (s.regF .sluHeat [st.val] 35 35 = 1 → t.level st =
        if s.regF .sluHeat [st.val] 47 40 ≤ temp.toNat ∧ s.level st < 7 ∧ 1 ≤ (s.stack st).sinceRise then s.level st + 1 else s.level st) ∧
      (110 ≤ temp.toNat ↔ t.regF .sluHeat [st.val] 34 34 = 1) ∧ SameMem s t ∧ t.cores = s.cores)

/-- HEAT_LEVEL_FALL lowers the level by one after 20 cool reports; SLU_HEAT takes a THRESH of 85 to 105 and refuses any other; the LPDDR
derate and restore mark the package and nothing else (R330, R333, R340). -/
def Claims.HeatAndDerate : Prop :=
  (∀ (s : State) (st : StackId), 20 ≤ (s.stack st).cool → 1 ≤ s.level st → s.level st ≤ 7 →
    ∃ t, exec (.heatLevelFall st) s = .next t ∧ t.level st = s.level st - 1 ∧ SameMem s t ∧ t.cores = s.cores) ∧
  (∀ (s : State) (st : StackId) (v : Long),
    (s.unreachable .sluHeat [st.val] = false → s.romOnly = false → 85 ≤ getF v 47 40 → getF v 47 40 ≤ 105 → ∃ t, exec (.sluHeatWrite st v) s = .next t ∧ OnlyRegs s t ∧
      t.regF .sluHeat [st.val] 47 40 = getF v 47 40 ∧ t.level st = s.level st) ∧
    (getF v 47 40 < 85 ∨ 105 < getF v 47 40 → exec (.sluHeatWrite st v) s = .next s.accessErr)) ∧
  (∀ (s : State) (k : Fin 16),
    (∃ t, exec (.lpddrRefreshDerate k) s = .next t ∧ k.val ∈ t.derated ∧ t = { s with derated := t.derated } ∧ ∀ j ∈ s.derated, j ∈ t.derated) ∧
    (∃ t, exec (.lpddrRefreshRestore k) s = .next t ∧ t.derated = s.derated.filter (fun j => j != k.val) ∧ t = { s with derated := t.derated }))

/-- Stack temperature: reports, levels, thresholds and refresh. -/
def Obligations.StackTemperature : Prop :=
  Claims.TemperatureReportsSetTheLevel ∧ Claims.HeatAndDerate

/-- SLU_CLEAR with GO: an access error while BUSY; refused with ERR where a running partition maps a frame of the range or it leaves the
partition frames; else every byte of the range reads zero, no other byte changes, and BUSY stands until the clear completes (R344). -/
def Claims.FramesAreCleared : Prop :=
  ∀ (s : State) (v : Long),
    let slow := decide (getF v 61 61 = 1)
    let lo := getF v 60 41
    let n := getF v 40 21
    let ok := lo + n ≤ s.partFrames slow ∧ s.mappedRunning slow lo n = false
    (s.regF .sluClear [] 63 63 = 1 → exec (.sluClearGo v) s = .next s.accessErr) ∧
    (s.romOnly = false → s.regF .sluClear [] 63 63 = 0 → ok → ∃ t, exec (.sluClearGo v) s = .next t ∧ t.regF .sluClear [] 63 63 = 1 ∧
      t.regF .sluClear [] 62 62 = 0 ∧ SameMemBut (.tier slow) (lo * mib2) (n * mib2) s t ∧
      (∀ a, lo * mib2 ≤ a → a < (lo + n) * mib2 → readByte (t.cells (.tier slow)) a = 0)) ∧
    (s.romOnly = false → s.regF .sluClear [] 63 63 = 0 → ¬ ok → ∃ t, exec (.sluClearGo v) s = .next t ∧ t.regF .sluClear [] 63 63 = 0 ∧
      t.regF .sluClear [] 62 62 = 1 ∧ SameMem s t) ∧
    (∃ t, exec .sluClearComplete s = .next t ∧ OnlyRegs s t ∧ t.regF .sluClear [] 63 63 = 0 ∧ SameRegsBut [RegId.sluClear.row.base] s t)

/-- No bank of a stack is held and no crossing to a memory resets, so that no access waits (R335, R336, R513). -/
def Claims.TiersOpen (s : State) : Prop :=
  (∀ st : Fin 8, s.stackStopped st = false ∧ (s.stack st).repairing = []) ∧ s.stalled = false ∧ PhysUp s

/-- SCRUB of a class-C frame of either tier: every granule with one symbol in error is corrected, no other, and each granule in error counts
at its stack or controller as what it is; a frame with class-D checks is not read. SOFT_REPAIR_COMPLETE: the oldest row under repair is
redirected and counted, and the granules of it with one symbol in error are corrected (R325, R336, R341, R343). -/
def Claims.ScrubsAndRepairs : Prop :=
  (∀ (s : State) (slow : Bool) (ppn : Nat),
    let marks := (s.tierOf slow).marksIn (ppn * mib2) mib2
    let ones := marks.filter fun m => decide (m.2 = .oneC)
    let er := if slow then RegId.sluErrS else RegId.sluErrF
    let count := fun (k : Nat) (m : GMark) => (marks.filter fun x => decide (x.2 = m) && (State.errRegs slow (64 * x.1)).2.2 == [k]).length
    (ppn ∈ (s.tierOf slow).classD → exec (.scrub slow ppn) s = .next s) ∧
    (Claims.TiersOpen s → ppn ∉ (s.tierOf slow).classD → ∃ t, exec (.scrub slow ppn) s = .next t ∧
      t.tierOf slow = ones.foldl (fun f m => f.fix m.1) (s.tierOf slow) ∧ t.tierOf (!slow) = s.tierOf (!slow) ∧
      (∀ k, k < (if slow then 4 else 8) →
        t.regF er [k] 31 0 = min (s.regF er [k] 31 0 + count k .oneC) 0xFFFFFFFF ∧
        t.regF er [k] 47 32 = min (s.regF er [k] 47 32 + count k .failD) 0xFFFF ∧
        t.regF er [k] 63 48 = min (s.regF er [k] 63 48 + count k .uncorrC) 0xFFFF) ∧
      t.vats = s.vats ∧ t.pools = s.pools ∧ t.cores = s.cores ∧ t.parts = s.parts ∧
      (slow = true → ones = marks → t = { s with slow := t.slow, mrs := t.mrs, sluices := t.sluices, dieSeen := t.dieSeen }))) ∧
  (∀ (s : State) (st : StackId) (row : Nat) (rest : List Nat), (s.stack st).repairing = row :: rest →
    ∃ t, exec (.softRepairComplete st) s = .next t ∧ (t.stack st).repairing = rest ∧
      t.regF .sluPpr [st.val] 63 48 = min (s.regF .sluPpr [st.val] 63 48 + 1) 0xFFFF ∧
      t.regF .sluPpr [st.val] 39 32 = min (s.regF .sluPpr [st.val] 39 32 + 1) 0xFF ∧
      t.fast = ((s.fast.marksIn (2048 * row) 2048).filter fun m => decide (m.2 = .oneC)).foldl (fun f m => f.fix m.1) s.fast ∧
      t = { s with mrs := t.mrs, hbm := t.hbm, fast := t.fast })

/-- Frames cleared, scrubs, and row repairs. -/
def Obligations.FramesScrubsAndRepairs : Prop :=
  Claims.FramesAreCleared ∧ Claims.ScrubsAndRepairs

/-! ### Links -/

/-- Only the registers at the addresses, port p's own record and its crossings, the waiting messages and what is sent to hosts differ. -/
def Claims.OnlyPort (p : Nat) (l : List Nat) (s t : State) : Prop :=
  t = { s with mrs := t.mrs, ports := t.ports, waiting := t.waiting, sessions := t.sessions, out := t.out, waitOut := t.waitOut, xings := t.xings } ∧
  SameRegsBut l s t ∧ (∀ q, q ≠ p → t.port q = s.port q) ∧ ∀ x, x / 17 ≠ p → t.xing x = s.xing x

/-- The crossing that a port's flits pass, at its PCS, is in no reset (R513, R517). -/
def Claims.FlitsPass (s : State) (p : Nat) : Prop := s.xingHeld (17 * p + 16) = false

/-- The addresses of the registers of port p that a change of its state writes: LNK_STATUS, LNK_CTRL and LNK_LANE. -/
def Claims.portRegs (p : Nat) : List Nat := [RegId.lnkStatus, RegId.lnkCtrl, RegId.lnkLane].map fun id => id.row.addr [p]

/-- Port p of t is in a state for a reason, at no version and width. -/
def Claims.AtRest (p st reason : Nat) (t : State) : Prop :=
  t.linkState p = st ∧ t.regF .lnkStatus [p] 59 56 = reason ∧ t.linkVersion p = 0 ∧ t.regF .lnkStatus [p] 43 40 = 0

/-- What port p held and would send is dropped, and its credits are cleared (R348). -/
def Claims.Dropped (p : Nat) (t : State) : Prop :=
  (t.port p).replay = [] ∧ (t.port p).credits = [] ∧ (t.port p).inbox = [] ∧ (t.port p).rxBytes = [] ∧
  ∀ w ∈ t.waiting, w.ports.toNat ≠ 2 ^ p ∧ w.origin ≠ some p

/-- The messages in transit that came in by port q and can leave by port p alone. -/
def Claims.transit (p q : Nat) (s : State) : List Waiting :=
  s.waiting.filter fun w => decide (w.ports.toNat = 2 ^ p) && decide (w.origin = some q)

/-- No message in transit from another port can leave by port p alone. -/
def Claims.NoTransit (p : Nat) (s : State) : Prop := ∀ q, q ≠ p → Claims.transit p q s = []

/-- Writes of LNK_CTRL and LNK_VC_ALLOC on a port that can be reached. ENABLE = 0 takes the port to OFF and drops what it held, and each
message in transit that could leave by it alone is dropped and counted at the port that it came in by; ENABLE = 1
takes an OFF port to DOWN, on a port whose domain is off as the keeper's, which powers it. RETRAIN takes an UP port to RETRAIN and counts it; FULL takes it to TRAIN and drops what it held;
in every other state neither does anything. OFFER = 0, a VC allocation above 10,176 units in all or below 17 in one class, and any write of
a port whose PCS crossing resets or whose domain is off are access errors (R348, R361, R367, R368, R580; logs 22, 58). -/
def Obligations.PortsAreControlled : Prop :=
  ∀ (s : State) (p : PortId),
    (Claims.FlitsPass s p → s.romOnly = false →
      ∃ t, exec (.lnkEnableWrite p true) s = .next t ∧ Claims.OnlyPort p (Claims.portRegs p) s t ∧ t.regF .lnkCtrl [p.val] 0 0 = 1 ∧
        (t.port p).powered = true ∧ (s.linkState p = 0 → Claims.AtRest p 1 0 t) ∧ (s.linkState p ≠ 0 → t.linkState p = s.linkState p)) ∧
    (s.unreachable .lnkCtrl [p.val] = false → s.romOnly = false →
      (∃ t, exec (.lnkEnableWrite p false) s = .next t ∧ t.regF .lnkCtrl [p.val] 0 0 = 0 ∧ Claims.AtRest p 0 6 t ∧ Claims.Dropped p t ∧
        (Claims.NoTransit p s → Claims.OnlyPort p (Claims.portRegs p) s t) ∧
        ∀ q, q < 16 → q ≠ p.val →
          t.regF .lnkErr [q] 47 32 = min (s.regF .lnkErr [q] 47 32 + (Claims.transit p q s).length) 0xFFFF) ∧
      (s.linkState p = 4 → ∃ t, exec (.lnkCtrlRetrain p) s = .next t ∧ Claims.OnlyPort p (Claims.portRegs p) s t ∧ t.linkState p = 5 ∧
        t.regF .lnkStatus [p.val] 31 16 = min (s.regF .lnkStatus [p.val] 31 16 + 1) 0xFFFF ∧ (t.port p).replay = (s.port p).replay ∧
        (t.port p).trained = 0 ∧ (t.port p).offer = none) ∧
      (s.linkState p ≠ 4 → exec (.lnkCtrlRetrain p) s = .next s ∧ exec (.lnkCtrlFull p) s = .next s) ∧
      (s.linkState p = 4 → ∃ t, exec (.lnkCtrlFull p) s = .next t ∧ (Claims.NoTransit p s → Claims.OnlyPort p (Claims.portRegs p) s t) ∧
        t.linkState p = 2 ∧
        t.linkVersion p = 0 ∧ Claims.Dropped p t ∧ (t.port p).offer = none) ∧
      (∀ offer : BitVec 3, offer ≠ 0 → ∃ t, exec (.lnkCtrlOffer p offer) s = .next t ∧ OnlyRegs s t ∧
        SameRegsBut [RegId.lnkCtrl.row.addr [p.val]] s t ∧ t.regF .lnkCtrl [p.val] 6 4 = offer.toNat ∧
        t.regF .lnkCtrl [p.val] 0 0 = s.regF .lnkCtrl [p.val] 0 0) ∧
      exec (.lnkCtrlOffer p 0) s = .next s.accessErr) ∧
    (∀ v : Long, s.unreachable .lnkVcAlloc [p.val] = false → s.romOnly = false →
      let units := [getF v 63 48, getF v 47 32, getF v 31 16, getF v 15 0]
      ((units.sum ≤ 10176 ∧ ∀ u ∈ units, 17 ≤ u) → ∃ t, exec (.lnkVcAllocWrite p v) s = .next t ∧ OnlyRegs s t ∧
        SameRegsBut [RegId.lnkVcAlloc.row.addr [p.val]] s t ∧ t.reg .lnkVcAlloc [p.val] = v) ∧
      (10176 < units.sum ∨ (∃ u ∈ units, u < 17) → exec (.lnkVcAllocWrite p v) s = .next s.accessErr)) ∧
    (∀ i, ¬ Claims.FlitsPass s p ∨ (s.port p).powered = false ∨ s.romOnly = true →
      i ∈ [Instr.lnkEnableWrite p false, .lnkCtrlRetrain p, .lnkCtrlFull p, .lnkCtrlOffer p 7, .lnkVcAllocWrite p 0] →
      exec i s = .next s.accessErr) ∧
    (¬ Claims.FlitsPass s p ∨ s.romOnly = true → exec (.lnkEnableWrite p true) s = .next s.accessErr)

/-- The pairs in use of which neither lane is above its error limit (R360). -/
def Claims.pairsLeft (s : State) (p : Nat) : List Nat :=
  (List.range 4).filter fun j => (s.regF .lnkStatus [p] 43 40).testBit j &&
    !((s.port p).badLanes.getLsbD (2 * j) || (s.port p).badLanes.getLsbD (2 * j + 1))

/-- What comes of RETRAIN when a port has lock on some pairs and has had an offer of its partner, or none: with fewer than two pairs left it is
DOWN for RETRAIN_FAIL with what it held dropped; with two or more of them locked at both ends it is UP at its version on all four, on three
under 2.1 or else on the two lowest, and its unacknowledged flits go out again; else it waits for what is left of its 2 ms (R348, R360). -/
def Claims.Retrained (s t : State) (p : Nat) (locked : BitVec 4) (o : Option Offer) : Prop :=
  let left := Claims.pairsLeft s p
  let good := left.filter fun j => locked.getLsbD j && ((o.map fun o => o.pairs.getLsbD j).getD false)
  (left.length < 2 → Claims.AtRest p 1 4 t ∧ Claims.Dropped p t) ∧
  (2 ≤ left.length → good.length < 2 → t.linkState p = 5 ∧ (t.port p).offer = o ∧ (t.port p).trained = locked ∧ t.out = s.out) ∧
  (2 ≤ left.length → 2 ≤ good.length → t.linkState p = 4 ∧ t.linkVersion p = s.linkVersion p ∧
    t.regF .lnkStatus [p] 43 40 = pairsFor (s.linkVersion p) (sumN (good.map fun j => 2 ^ j)) ∧
    (Claims.FlitsPass s p → t.out.length = s.out.length + (t.port p).replay.length))

/-- Lanes and time-outs: a signal takes DOWN to TRAIN, lock of all pairs takes TRAIN to NEGOTIATE, and in RETRAIN lanes that lock, or a TRAIN
flit of the recorded partner, end it as `Retrained` says with replay buffer and credits kept, while one of another device takes the port to
DOWN for NEW_PARTNER; lock lost or the error limit of a lane in use retrains an UP port; a time-out leads to NEGOTIATE with two pairs or more,
else to DOWN with its reason (R348, R349, R359, R360). -/
def Obligations.LanesAndTimeoutsMoveThePort : Prop :=
  ∀ (s : State) (p : PortId),
    (s.linkState p = 1 → ∃ t, exec (.signalDetected p) s = .next t ∧ Claims.OnlyPort p (Claims.portRegs p) s t ∧ t.linkState p = 2 ∧
      (t.port p).trained = 0 ∧ (t.port p).badLanes = 0) ∧
    (s.linkState p ≠ 1 → exec (.signalDetected p) s = .next s) ∧
    (∀ pairs, s.linkState p = 2 → ∃ t, exec (.laneLock p pairs) s = .next t ∧ Claims.OnlyPort p (Claims.portRegs p) s t ∧
      (t.port p).trained = pairs ∧ t.linkState p = if pairs = 15 then 3 else 2) ∧
    (∀ pairs, s.linkState p = 5 → ∃ t, exec (.laneLock p pairs) s = .next t ∧ Claims.Retrained s t p pairs (s.port p).offer ∧
      (2 ≤ (Claims.pairsLeft s p).length → (t.port p).replay = (s.port p).replay ∧ (t.port p).credits = (s.port p).credits)) ∧
    (∀ f : List Byte, s.linkState p = 5 → Claims.FlitsPass s p → flitIntact true f = true → ftype f = 2 →
      let o := Offer.parse ((f.drop 6).take 242)
      ∃ t, exec (.trainFlitReceive p true f) s = .next t ∧
        (o.device = (s.port p).device → Claims.Retrained s t p (s.port p).trained (some o) ∧
          (2 ≤ (Claims.pairsLeft s p).length → ((be f 2 2).testBit 2 = false → (t.port p).replay = (s.port p).replay) ∧
            (be f 4 2 % 2048 = 0 → (t.port p).credits = (s.port p).credits))) ∧
        (o.device ≠ (s.port p).device → Claims.AtRest p 1 5 t ∧ Claims.Dropped p t)) ∧
    (∀ lane : Fin 8, s.linkState p ≠ 0 → ∃ t, exec (.laneLockLoss p lane) s = .next t ∧ Claims.OnlyPort p (Claims.portRegs p) s t ∧
      t.regF .lnkLane [p.val] (8 + lane.val) (8 + lane.val) = 1 ∧ (t.linkState p = if s.linkState p = 4 then 5 else s.linkState p) ∧
      (s.linkState p = 2 ∨ s.linkState p = 3 ∨ s.linkState p = 5 → ∀ j : Nat, (t.port p).trained.getLsbD j =
        ((s.port p).trained.getLsbD j && decide (j ≠ lane.val / 2)))) ∧
    (∀ lane : Fin 8, s.linkState p ≠ 0 → ∃ t, exec (.laneErrorLimit p lane) s = .next t ∧ Claims.OnlyPort p (Claims.portRegs p) s t ∧
      t.regF .lnkLane [p.val] lane.val lane.val = 1 ∧ (t.port p).badLanes.getLsbD lane = true ∧
      t.linkState p = if s.linkState p = 4 ∧ s.regF .lnkLane [p.val] (16 + lane.val) (16 + lane.val) = 1 then 5 else s.linkState p) ∧
    (s.linkState p = 2 → ∃ t, exec (.trainTimeout p) s = .next t ∧ Claims.OnlyPort p (Claims.portRegs p) s t ∧
      if 2 ≤ pairCount (s.port p).trained.toNat then t.linkState p = 3 ∧ (t.port p).offer = none else Claims.AtRest p 1 1 t) ∧
    (s.linkState p = 3 → (s.port p).offer = none → ∃ t, exec (.negotiateTimeout p) s = .next t ∧
      Claims.OnlyPort p (Claims.portRegs p) s t ∧ Claims.AtRest p 1 3 t) ∧
    (s.linkState p = 5 → ∃ t, exec (.retrainTimeout p) s = .next t ∧ (Claims.NoTransit p s → Claims.OnlyPort p (Claims.portRegs p) s t) ∧
      Claims.AtRest p 1 4 t ∧ Claims.Dropped p t) ∧
    (∃ t, exec (.portPowerOff p) s = .next t ∧ (Claims.NoTransit p s → Claims.OnlyPort p (Claims.portRegs p) s t) ∧ Claims.AtRest p 0 6 t ∧ Claims.Dropped p t ∧
      (t.port p).powered = false)

/-- TRAIN flits, while the port's PCS crossing passes them: one carries the port's offer (R349); in NEGOTIATE the partner's first is kept, and the fourth sent after it ends the
state: UP at the highest version both offer with the pairs both have and the credits the partner names, DOWN with reason 2 without a common
version and 1 with fewer than two common pairs (R350, R357). One on an UP port retrains it, and takes it to DOWN with reason 5 where it
comes from another device (R348, R369). -/
def Obligations.TrainFlitsNegotiate : Prop :=
  ∀ (s : State) (p : PortId), Claims.FlitsPass s p →
    (s.linkState p = 3 ∨ s.linkState p = 5 → (s.linkState p = 3 → (s.port p).offer = none) →
      ∃ t f, exec (.trainFlitSend p) s = .next t ∧ t.out = .flit p f :: s.out ∧ flitIntact true f = true ∧ ftype f = 2 ∧
        (f.drop 6).take 242 = toLen 242 (s.offerBytes p) ∧ t = { s with ports := t.ports, out := t.out }) ∧
    (∀ o, s.linkState p = 3 → (s.port p).offer = some o →
      let v := versionOf (s.port p).vset o.vset.toNat
      let common := ((s.port p).trained &&& o.pairs).toNat
      ((s.port p).sentAfter < 3 → ∃ t, exec (.trainFlitSend p) s = .next t ∧ (t.port p).sentAfter = (s.port p).sentAfter + 1 ∧
        t.linkState p = 3) ∧
      (3 ≤ (s.port p).sentAfter → ∃ t, exec (.trainFlitSend p) s = .next t ∧
        (v = 0 → Claims.AtRest p 1 2 t) ∧ (v ≠ 0 → pairCount common < 2 → Claims.AtRest p 1 1 t) ∧
        (v ≠ 0 → 2 ≤ pairCount common → t.linkState p = 4 ∧ t.linkVersion p = v ∧ t.regF .lnkStatus [p.val] 43 40 = pairsFor v common ∧
          t.reg .lnkPeerDev [p.val] = o.device ∧ (t.port p).credits = State.entryCredits o.alloc ∧ (t.port p).txSeq = 0 ∧
          (t.port p).rxNext = 0 ∧ (t.port p).device = o.device))) ∧
    (∀ (f : List Byte), flitIntact true f = true → ftype f = 2 →
      let o := Offer.parse ((f.drop 6).take 242)
      (s.linkState p = 3 → (s.port p).offer = none → ∃ t, exec (.trainFlitReceive p true f) s = .next t ∧
        t = { s with ports := t.ports } ∧ (t.port p).offer = some o ∧ (t.port p).sentAfter = 0) ∧
      (s.linkState p = 4 → ∃ t, exec (.trainFlitReceive p true f) s = .next t ∧
        if o.device = (s.port p).device then t.linkState p = 5 ∧ ((be f 2 2).testBit 2 = false → (t.port p).replay = (s.port p).replay)
        else Claims.AtRest p 1 5 t ∧ Claims.Dropped p t)) ∧
    (∀ (f : List Byte), exec (.trainFlitReceive p false f) s = .next s)

/-- DATA flits: a damaged one is dropped, counted and NAKed, one out of sequence is dropped and NAKed, one of a reserved type is counted;
the next in sequence is taken, and a message that it holds whole for this neighbour comes into the receive buffer (R352, R358, R361). One
that meets a reset of the port's PCS crossing is lost (R517).
Of the fields of an IDLE flit, an acknowledgement empties the replay buffer as far as it reaches, and credits come back to their class. -/
def Claims.FlitsAreReceived : Prop :=
  ∀ (s : State) (p : PortId) (f : List Byte), s.linkState p = 4 →
    (¬ Claims.FlitsPass s p → ∀ fec, exec (.dataFlitReceive p fec f) s = .next s ∧ exec (.idleFlitReceive p fec f) s = .next s) ∧
    (Claims.FlitsPass s p → ∀ fec, flitIntact fec f = false → ∃ t, exec (.dataFlitReceive p fec f) s = .next t ∧ (t.port p).nakDue = true ∧
      t.regF .lnkErr [p.val] 15 0 = min (s.regF .lnkErr [p.val] 15 0 + 1) 0xFFFF ∧ (t.port p).rxNext = (s.port p).rxNext ∧
      t = { s with mrs := t.mrs, ports := t.ports } ∧ exec (.idleFlitReceive p fec f) s = .next s) ∧
    (Claims.FlitsPass s p → flitIntact true f = true →
      (3 ≤ ftype f → exec (.dataFlitReceive p true f) s = .next (s.bump .lnkErr [p.val] 63 48)) ∧
      (ftype f = 0 → be f 0 2 / 16 ≠ (s.port p).rxNext → ∃ t, exec (.dataFlitReceive p true f) s = .next t ∧
        t = { s with ports := t.ports } ∧ (t.port p).nakDue = true ∧ (t.port p).rxNext = (s.port p).rxNext) ∧
      (ftype f = 0 → be f 0 2 / 16 = (s.port p).rxNext → ∃ t, exec (.dataFlitReceive p true f) s = .next t ∧
        (t.port p).rxNext = ((s.port p).rxNext + 1) % 4096 ∧ (t.port p).rxAny = true ∧
        (∀ (m : Msg) (k : Nat), (f.drop 6).take 242 = m.bytes ++ fill k 0 → (s.port p).rxBytes = [] → m.mtype ≠ 0 → m.stage < 4 →
          m.path.length = 3 → carries (s.linkVersion p) m.type = true → m.data.length ≤ maxLength m.type → m.neigh = true →
          (m.vc = 4 ∨ (s.moduleValid = true ∧ s.ready = true)) → be f 4 2 % 2048 = 0 → (be f 2 2).testBit 2 = false →
          (be f 2 2).testBit 3 = false → (t.port p).inbox = (s.port p).inbox ++ [m] ∧ ((s.port p).unacked < 63 → t = { s with ports := t.ports }))) ∧
      (ftype f = 1 → ∃ t, exec (.idleFlitReceive p true f) s = .next t ∧ (t.port p).rxNext = (s.port p).rxNext ∧
        (∀ cls, cls = 4 * (be f 4 2 / 8192) + be f 4 2 / 2048 % 4 →
          (t.port p).credits.get 0 cls = (s.port p).credits.get 0 cls + be f 4 2 % 2048) ∧
        (∀ pre pl post, (be f 2 2).testBit 2 = true → (be f 2 2).testBit 3 = false →
          (s.port p).replay = pre ++ (be f 2 2 / 16, pl) :: post → (∀ r ∈ pre, r.1 ≠ be f 2 2 / 16) →
          (t.port p).replay = post ∧ (t.port p).naks = 0)))

/-- The acknowledgement timer sends one IDLE flit with the next sequence number, the acknowledgement time-out retrains a port with flits
outstanding, and both leave a port that is not UP alone (R353, R358). A message starts on its best port where that holds its credits and
replay space: its bytes go out as DATA flits, which the replay buffer keeps, and its credits are taken; it waits where credits or space
lack, and is dropped and counted where no port carries it, but for a pace notice for a port in RETRAIN (R357, R361-R363). -/
def Claims.FlitsAndMessagesAreSent : Prop :=
  (∀ (s : State) (p : PortId),
    (s.linkState p = 4 → (Claims.FlitsPass s p → ∃ t f, exec (.ackTimer p) s = .next t ∧ t.out = .flit p f :: s.out ∧ flitIntact true f = true ∧ ftype f = 1 ∧
      be f 0 2 / 16 = (s.port p).txSeq % 4096 ∧ t = { s with ports := t.ports, out := t.out }) ∧
      ((s.port p).replay ≠ [] → ∃ t, exec (.ackTimeout p) s = .next t ∧ t.linkState p = 5 ∧ (t.port p).replay = (s.port p).replay) ∧
      ((s.port p).replay = [] → exec (.ackTimeout p) s = .next s)) ∧
    (s.linkState p ≠ 4 → exec (.ackTimer p) s = .next s ∧ exec (.ackTimeout p) s = .next s)) ∧
  (∀ (s : State) (i : Nat) (w : Waiting), s.waiting[i]? = some w →
    let pieces := chunksOf 242 w.msg.bytes
    let fits := fun q : Nat => w.msg.creditsNeeded ≤ (s.port q).credits.get 0 w.msg.credClass ∧ (s.port q).replay.length + pieces.length ≤ 512
    (∀ q, s.bestPort w = some q → fits q → ∃ t, exec (.messageSend i) s = .next t ∧ t.waiting = s.waiting.eraseIdx i ∧
      (t.port q).replay.map (·.2.drop 2) = (s.port q).replay.map (·.2.drop 2) ++ pieces ∧
      (t.port q).credits.get 0 w.msg.credClass = (s.port q).credits.get 0 w.msg.credClass - w.msg.creditsNeeded ∧
      (t.port q).inflight = (s.port q).inflight ++ [(w.msg.credClass, w.msg.creditsNeeded, w.purpose)] ∧ SameMem s t) ∧
    (∀ q, s.bestPort w = some q → ¬ fits q → exec (.messageSend i) s = .next s) ∧
    (s.bestPort w = none → w.msg.type ≠ 0x30 → w.origin = none → ∀ q : PortId, State.wantsPort w q = true → (∀ k < q.val, State.wantsPort w k = false) →
      ∃ t, exec (.messageSend i) s = .next t ∧ t.waiting = s.waiting.eraseIdx i ∧
        t.regF .lnkErr [q.val] 47 32 = min (s.regF .lnkErr [q.val] 47 32 + 1) 0xFFFF ∧ t.out = s.out))

/-- Flits received, flits sent, and messages on their way. -/
def Obligations.LinkFlitsAndMessages : Prop :=
  Claims.FlitsAreReceived ∧ Claims.FlitsAndMessagesAreSent

/-- LINK_HEALTH under 2.1 carries the lanes over their error limit; received, a lane in use that it names retrains the port (R359).
PACE records the factor and its number; its expiry takes the factor back to 0; a notice that is due goes out on every UP and RETRAIN port of
version 2.0 or later and replaces one not yet sent (R334, R363, R372). -/
def Obligations.HealthAndPaceNotices : Prop :=
  (∀ (s : State) (p : PortId),
    (s.linkState p = 4 → s.linkVersion p = 3 → ∃ t w, exec (.linkHealthSend p) s = .next t ∧ t = { s with waiting := s.waiting ++ [w] } ∧
      w.msg.mtype = 0x33 ∧ w.msg.neigh = true ∧ w.ports = BitVec.ofNat 16 (2 ^ p.val) ∧
      w.msg.data = [BitVec.ofNat 8 (s.regF .lnkLane [p.val] 7 0), 0, 0, 0]) ∧
    (s.linkVersion p ≠ 3 → exec (.linkHealthSend p) s = .next s) ∧
    (∀ m rest, (s.port p).inbox = m :: rest → m.mtype = 0x33 →
      let bad := m.data.headD 0 &&& BitVec.ofNat 8 (s.regF .lnkLane [p.val] 23 16)
      ∃ t, exec (.linkHealthReceive p) s = .next t ∧ (t.port p).inbox = rest ∧ (t.port p).badLanes = (s.port p).badLanes ||| bad ∧
        t.linkState p = if bad ≠ 0 ∧ s.linkState p = 4 then 5 else s.linkState p) ∧
    (∀ m rest, (s.port p).inbox = m :: rest → m.mtype = 0x30 →
      ∃ t, exec (.pace p) s = .next t ∧ (t.port p).inbox = rest ∧ t = { s with mrs := t.mrs, ports := t.ports } ∧
        t.regF .lnkPace [p.val] 63 48 = be m.data 2 2 ∧ t.regF .lnkPace [p.val] 33 32 = be m.data 0 1 % 4 ∧
        t.regF .lnkPace [p.val] 34 34 = (if be m.data 0 1 % 4 = 0 then 0 else 1)) ∧
    (∃ t, exec (.paceExpiry p) s = .next t ∧ OnlyRegs s t ∧ SameRegsBut [RegId.lnkPace.row.addr [p.val]] s t ∧
      t.regF .lnkPace [p.val] 33 32 = 0 ∧ t.regF .lnkPace [p.val] 34 34 = 0 ∧
      t.regF .lnkPace [p.val] 63 48 = s.regF .lnkPace [p.val] 63 48)) ∧
  (∀ s : State, s.paceDue = true ∨ (∃ st : StackId, (s.stack st).pacing = true) →
    ∃ t, exec .paceNoticeDue s = .next t ∧ t = { s with paceSeq := s.paceSeq + 1, paceDue := false, waiting := t.waiting } ∧
      (∀ p : PortId, (s.linkState p = 4 ∨ s.linkState p = 5) → 2 ≤ s.linkVersion p → ∃ w ∈ t.waiting, w.msg.mtype = 0x30 ∧
        w.ports = BitVec.ofNat 16 (2 ^ p.val)) ∧
      (∀ w ∈ t.waiting, w.msg.mtype = 0x30 → w.origin = none →
        w.msg.data = [BitVec.ofNat 8 (s.regF .sluSummary [] 33 32), 0] ++ beBytes 2 (s.paceSeq + 1).toNat))

/-! ### Collectives and the shuffle -/

/-- The list of clusters is a map: each cluster is listed at most once. -/
def Claims.ClustersOk (s : State) : Prop := (s.clusters.map (·.1)).Nodup

/-- No cluster is listed twice, at reset and after every step from a state where none is. -/
def Obligations.NoClusterIsListedTwice : Prop :=
  Claims.ClustersOk State.reset ∧ ∀ s t : State, Claims.ClustersOk s → step s = .next t → Claims.ClustersOk t

/-- A node of an instance of cluster cl: its instance by number, kind, and the node's shard, core and entry. -/
def Claims.Joined (t : State) (cl : Nat) (i : InstId) (kind shard c uid : Nat) (P : Node → Prop) : Prop :=
  ∃ y ∈ (t.cl cl).coll, y.id = i ∧ y.kind = kind ∧ ∃ n ∈ y.nodes, n.shard = shard ∧ n.core = c ∧ n.uid = uid ∧ P n

/-- COLL and COLL_STAT join their instance with the shard's source values and its first status word: NONFIN and POISON of its own values for
COLL, the step's gauges, poison and flags for COLL_STAT. SHUF joins its instance with its samples and the epoch (R375, R381-R383, R389). In a
slot to which the job map gives no shard, each is done and contributes nothing (log 24, DEDUCED). -/
def Claims.CollectivesJoin : Prop :=
  ∀ (s : State) (c : CoreId) (p : PartId) (x : Entry), NoErrors s → (∀ h ∈ s.held, h.loader ≠ (c.val, x.uid)) → (s.core c).part = some p.val →
    let d := s.desc c (getF x.op 39 28)
    let pages := s.pagesOf c
    (∀ tr shard, s.treeOf p (getF x.op 55 40) = some tr → s.shardAt p (getF x.op 27 24) = some shard →
      let es := fmtWidth tr.fmt / 8
      let src := s.side c (dF d 2 1) (dF d 3 1) (dF d 8 6)
      let dst := s.side c (dF d 4 1) (dF d 5 1) (dF d 0x0E 6)
      let word : Side := ⟨true, none, dF d 0x18 6⟩
      let sr := [(0, dF d 0x14 4 * es)]
      s.sideFault c pages word 1 [] [(0, 64)] = none →
      (Fires s c 7 0x50 (s.collAccepts c) x → s.sideFault c pages src 0 [0x14] sr = none →
        s.sideFault c pages dst 1 [0x14] [(0, State.dstElems tr.op (dF d 0x14 4) tr.nodes.length * es)] = none →
        let vs := (chunksOf (max es 1) (deliver tr.fmt (s.readPieces (src.pieces pages 0 sr)).bytes)).map fromLE
        ∃ t, exec (.coll c) s = .next t ∧ SameMem s t ∧ (∀ e ∈ (t.core c).window, e.uid = x.uid → e.phase = .fired) ∧
          Claims.Joined t (c.val / 16) (State.instIdOf p x) 0 shard c x.uid fun n => n.src = vs ∧ n.sent = false ∧ n.own = { StatusW.zero with
            flags := if tr.op = 4 ∧ (tr.nodes.getD shard (none, 0)).1.isSome then 0 else valueFlags tr.fmt vs, shards := 1 }) ∧
      (Fires s c 7 0x51 (s.collAccepts c) x →
        ∃ t, exec (.collStat c) s = .next t ∧ SameMem s t ∧ (∀ e ∈ (t.core c).window, e.uid = x.uid → e.phase = .fired) ∧
          Claims.Joined t (c.val / 16) (State.instIdOf p x) 1 shard c x.uid fun n => n.src = [] ∧ n.own = s.stepStatus c p shard x)) ∧
    (∀ im shard, s.imgOf c = some im → s.shardAt p (getF x.op 27 24) = some shard → Fires s c 7 0x52 (s.collAccepts c) x →
      let len := shareOf (dF d 0x18 6) ((im.trees.head?.map fun q => q.nodes.length).getD 1) shard * (dF d 4 4 * 128)
      let src : Side := ⟨true, none, dF d 8 6⟩
      s.sideFault c im.pages src 0 [] [(0, len)] = none → s.sideFault c im.pages ⟨true, none, dF d 0x10 6⟩ 1 [] [(0, len)] = none →
      ∃ t, exec (.shuf c) s = .next t ∧
        Claims.Joined t (c.val / 16) { State.instIdOf p x with tree := 0 } 2 shard c x.uid (fun n =>
          n.src = (s.readPieces (src.pieces im.pages 0 [(0, len)])).bytes.map fun b => (b.getD 0xFF).toNat) ∧
        ((∀ y ∈ (s.cl (c.val / 16)).coll, ¬ (y.id = { State.instIdOf p x with tree := 0 } ∧ y.kind = 2)) →
          ∃ y ∈ (t.cl (c.val / 16)).coll, y.id = { State.instIdOf p x with tree := 0 } ∧ y.kind = 2 ∧ y.epoch = s.scalarOf c x)) ∧
    (s.shardAt p (getF x.op 27 24) = none → ∀ q ∈ [(Instr.coll c, 0x50), (.collStat c, 0x51)], Fires s c 7 q.2 (s.collAccepts c) x →
      ∀ tr, s.treeOf p (getF x.op 55 40) = some tr → s.sideFault c pages ⟨true, none, dF d 0x18 6⟩ 1 [] [(0, 64)] = none →
      (q.2 = 0x50 → s.sideFault c pages (s.side c (dF d 2 1) (dF d 3 1) (dF d 8 6)) 0 [0x14] [(0, dF d 0x14 4 * (fmtWidth tr.fmt / 8))] = none ∧
        s.sideFault c pages (s.side c (dF d 4 1) (dF d 5 1) (dF d 0x0E 6)) 1 [0x14]
          [(0, State.dstElems tr.op (dF d 0x14 4) tr.nodes.length * (fmtWidth tr.fmt / 8))] = none) →
      ∃ t, exec q.1 s = .next t ∧ SameMem s t ∧ t.clusters = s.clusters ∧ ∀ e ∈ (t.core c).window, e.uid = x.uid → e.phase = .done)

/-- Collective messages: one of an old generation or for a shard elsewhere is dropped and counted (R385); terms, results and status words
come to the node they are for, and each is progress of its instance (R384, R386). -/
def Claims.CollectiveMessagesArrive : Prop :=
  ∀ (s : State) (p : PortId) (m : Msg) (rest : List Msg), (s.port p).inbox = m :: rest → State.isColl m = true →
    (s.cl (p.val / 2)).restarting = false →
    let q := s.parseColl m
    (s.staleColl q = true → ∃ t, exec (.collMessageReceive p) s = .next t ∧ (t.port p).inbox = rest ∧
      t = { s with mrs := t.mrs, ports := t.ports } ∧ t.regF .collErr [p.val / 2] 15 0 = min (s.regF .collErr [p.val / 2] 15 0 + 1) 0xFFFF) ∧
    (∀ cl x n, Claims.ClustersOk s → s.staleColl q = false → m.type ≠ 3 → s.collTarget m = some (cl, x, n) →
      let vs := (chunksOf (max 1 (fmtWidth (((s.treeOf q.inst.part q.inst.tree.toNat).map (·.fmt)).getD 0) / 8)) (m.data.drop 16)).map fromLE
      ∃ t, exec (.collMessageReceive p) s = .next t ∧ (t.port p).inbox = rest ∧ SameMem s t ∧
        ∃ y ∈ (t.cl cl).coll, y.id = x.id ∧ y.kind = x.kind ∧ y.last = s.tick ∧ ∃ k ∈ y.nodes, k.shard = q.dst ∧
          (m.type = 1 → q.phase = 0 → k.terms.get [] q.src = State.putElems (n.terms.get [] q.src) q.word3 vs) ∧
          (m.type = 1 → q.phase ≠ 0 → k.result = State.putElems n.result q.word3 vs) ∧
          (m.type = 2 → q.phase = 1 → k.final = some (StatusW.ofFlit (m.data.drop 16))) ∧
          (m.type = 2 → q.phase ≠ 1 → k.words.get StatusW.zero q.src = StatusW.ofFlit (m.data.drop 16)))

/-- NODE_COMBINE: with every term and word of the children present the node's values, each combined from all its terms and rounded once, and
the joined word go on: at the root as the result and the final word, else to the parent, as its node's term and word where this module holds
it and that has fired, in messages to the module that holds it where another does. The combine is charged to the reserve or, where that
does not admit it, to the floor; a poison value counts in the step (R36, R49, R379-R384, R487; that a parent on this module takes
the value directly is log 24, DEDUCED). COLL_INSTANCE_COMPLETE writes the result and
then the word to the shard's destinations and ends its part; SHUF's part ends once its samples are credited and its positions whole (R377,
R391). COLL_WATCHDOG_EXPIRY after the limit in force ends the instance with the COLLECTIVE fault (R386, R388). -/
def Claims.CollectivesFinish : Prop :=
  (∀ (s : State) (cl : ClusterId) (i : InstId) (shard : Nat) (x : CollInst) (n : Node) (tr : Tree) (more : List CollInst),
    (s.cl cl).coll = x :: more → x.id = i → x.kind ≠ 2 → x.nodes.find? (fun k => k.shard == shard) = some n →
    s.treeOf i.part i.tree.toNat = some tr →
    (State.nodeReady x tr n = false → exec (.nodeCombine cl i shard) s = .next s) ∧
    (let r := State.nodeResult x tr n
     let up := (tr.nodes.getD n.shard (none, 0)).1
     let ch : List Charge := [⟨0x24, tr.fmt, 0xFF, r.1.length * (fmtWidth tr.fmt / 8), 1024⟩]
     let Charged := fun (t : State) => SameMem s t ∧
       t.weir = ((s.admitReserve i.part ch).getD (({ s with weir := { s.weir with anyWait := true } } : State).floorReserve i.part ch)).weir ∧
       t.parts = (if (valueFlags tr.fmt r.1).getLsbD 1 then s.poisonStep i.part i.step else s).parts
     let Sent := fun (t : State) (P : Node → Prop) => ∃ y ∈ (t.cl cl).coll, y.id = i ∧ y.kind = x.kind ∧ ∃ k ∈ y.nodes, k.shard = shard ∧
       k.sent = true ∧ P k
     State.nodeReady x tr n = true →
     (up = none → ∃ t, exec (.nodeCombine cl i shard) s = .next t ∧ Charged t ∧ Sent t fun k => k.final = some r.2 ∧
       (x.kind = 0 → tr.op ≤ 1 → ∀ j, j < r.1.length → k.result.get 0 j = r.1.getD j 0)) ∧
     (∀ q, up = some q → s.remoteHolder i.part q = none →
       (s.findNode i x.kind q = none → exec (.nodeCombine cl i shard) s = .next s) ∧
       (∀ cq y m, Claims.ClustersOk s → s.findNode i x.kind q = some (cq, y, m) → y.kind = x.kind →
         ∃ t, exec (.nodeCombine cl i shard) s = .next t ∧ Charged t ∧ Sent t (fun _ => True) ∧
           ∃ y' ∈ (t.cl cq).coll, y'.id = i ∧ y'.kind = x.kind ∧ y'.last = s.tick ∧ ∃ k ∈ y'.nodes, k.shard = q ∧
             k.terms.get [] shard = State.putElems [] 0 r.1 ∧ k.words.get StatusW.zero shard = r.2)) ∧
     (∀ q h rt, up = some q → s.remoteHolder i.part q = some h → s.routeOf i.part h 0 = some rt →
       ∃ t terms word, exec (.nodeCombine cl i shard) s = .next t ∧ Charged t ∧ Sent t (fun _ => True) ∧
         (t.cl cl).due = (s.cl cl).due ++ terms ++ [word] ∧
         (∀ d ∈ terms ++ [word], d.part = i.part.val ∧ d.msg.dest = h ∧ d.msg.tag = State.collTag i 0 ∧
           be d.msg.data 4 4 % 2 ^ 20 = shard % 2 ^ 20 ∧ be d.msg.data 8 4 = q % 2 ^ 32) ∧
         (∀ d ∈ terms, d.msg.mtype = 1) ∧ (terms.flatMap fun d => d.msg.data.drop 16) = r.1.flatMap (leBytes (fmtWidth tr.fmt / 8)) ∧
         word.msg.mtype = 2 ∧ word.msg.data.drop 16 = r.2.flitBytes (State.reported x)))) ∧
  (∀ (s : State) (cl : ClusterId) (i : InstId) (shard : Nat) (x : CollInst) (n : Node) (more : List CollInst) (mn : List Node),
    NoErrors s → NothingBound s n.core n.uid → (s.cl cl).coll = x :: more → x.id = i → x.nodes = n :: mn → n.shard = shard →
    s.canComplete x n = true → (∀ y ∈ more, ¬ (y.id = i ∧ y.kind = x.kind)) →
    (x.kind = 2 → ∃ t, exec (.collInstanceComplete cl i shard) s = .next t ∧ SameMem s t ∧
      (∀ e ∈ (t.core n.core).window, e.uid = n.uid → e.phase = .done) ∧ ∀ y ∈ (t.cl cl).coll, y.id = i → y.kind = 2 → ∀ k ∈ y.nodes, k.shard ≠ shard) ∧
    (∀ tr w d wd, x.kind = 0 → s.treeOf i.part i.tree.toNat = some tr → n.final = some w → n.dst = [d, wd] → n.vas.length = 2 → d.place ≠ wd.place →
      let bs := (State.dstValues x tr n).flatMap fun v => leBytes (fmtWidth tr.fmt / 8) v
      bs.length = d.len → wd.len = 64 → ∃ t, exec (.collInstanceComplete cl i shard) s = .next t ∧
        readBytes (t.cells d.place) d.lo d.len = bs ∧ readBytes (t.cells wd.place) wd.lo 64 = w.bytes i.step ∧
        (∀ e ∈ (t.core n.core).window, e.uid = n.uid → e.phase = .done)) ∧
    (∀ tr w wd, x.kind = 1 → s.treeOf i.part i.tree.toNat = some tr → n.final = some w → n.dst = [wd] → n.vas.length = 1 → wd.len = 64 →
      ∃ t, exec (.collInstanceComplete cl i shard) s = .next t ∧ readBytes (t.cells wd.place) wd.lo 64 = w.bytes (i.step - 1) ∧
        SameMemBut wd.place wd.lo 64 s t ∧ (∀ e ∈ (t.core n.core).window, e.uid = n.uid → e.phase = .done))) ∧
  (∀ (s : State) (cl : ClusterId) (i : InstId) (x : CollInst) (more : List CollInst), (s.cl cl).coll = x :: more → x.id = i →
    (∀ y ∈ more, y.id ≠ i) →
    ((s.tick - x.last).toNat < s.watchLimit cl x → exec (.collWatchdogExpiry cl i) s = .next s) ∧
    (∀ n e p, s.watchLimit cl x ≤ (s.tick - x.last).toNat → x.nodes = [n] → s.entry? n.core n.uid = some e →
      (s.core n.core).part = some p → p < 16 → s.isRunning p = true →
      ∃ t, exec (.collWatchdogExpiry cl i) s = .next t ∧ HaltedWith t p 0x0A ∧ (t.core n.core).halted = true ∧
        t.regF .collErr [cl.val] 31 16 = min (s.regF .collErr [cl.val] 31 16 + 1) 0xFFFF ∧ ∀ y ∈ (t.cl cl).coll, y.id ≠ i))

/-- Collectives from their start to their end. -/
def Obligations.Collectives : Prop :=
  Claims.CollectivesJoin ∧ Claims.CollectiveMessagesArrive ∧ Claims.CollectivesFinish

/-! ### The host side -/

/-- Only the sessions and what is sent differ. -/
def Claims.HostOnly (s t : State) : Prop := t = { s with sessions := t.sessions, out := t.out, waitOut := t.waitOut }

/-- The frames of a list leave in order; those that PFC holds back wait, and those that meet their MAC's crossing in reset are lost
(R398, R517, R518). -/
def Claims.Sends (s t : State) (l : List Output) : Prop :=
  let l := l.filter fun o => !s.outLost o
  t.out = (l.filter fun o => !s.pausedOut o).reverse ++ s.out ∧ t.waitOut = s.waitOut ++ l.filter s.pausedOut

/-- A frame whose MAC's crossing works has left or, where PFC holds its priority back, waits (R398). -/
def Claims.Sent (s t : State) (o : Output) : Prop :=
  s.outLost o = false → if s.pausedOut o = true then o ∈ t.waitOut else o ∈ t.out

/-- A RoCE packet of a queue pair has left to its host, or waits. -/
def Claims.QpSent (s t : State) (qpn : Nat) (w : RoceOut) : Prop :=
  ∀ q, s.qps.find? (fun q => q.qpn == qpn) = some q → Claims.Sent s t (.roce q.port (s.roceWire q.port q.hostIp) qpn w)

/-- After a frame a host port looks at its receive buffers, and may send one PFC frame for the priorities that it is set to hold back
(R398; log 54). -/
def Claims.BufferLook (n : NetId) (u t : State) : Prop :=
  t = { u with fresh := t.fresh, pfcSent := t.pfcSent, out := t.out } ∧
    (t.out = u.out ∨ ∃ (k : Fin 2) (m : Byte), n.val = k.val + 1 ∧ t.out = .pfc k m :: u.out ∧
      m &&& (u.eth.get EthSet.reset k.val).pfc = m ∧ t.pfcSent.get 0 k.val = m)

/-- A completion of status and body goes out to the session of a command under the command's mailbox and TAG, and its ACKSEQ, one below the
number then expected, is the command's SEQ (R403, R405, R407). Where the host's PFC holds its priority back it waits (R398). -/
def Claims.Answered (s t : State) (x : Session) (h : CmdHdr) (box status : Nat) (body : List Byte) : Prop :=
  ∃ (sent held : List Output) (f : CtlFrame), t.out = sent ++ s.out ∧ t.waitOut = s.waitOut ++ held ∧
    (let o := t.ctlOut { x with port := h.port, expect := h.seq + 1 } f
     if t.pausedOut o = true then o ∈ held else o ∈ sent) ∧ f.kind = 2 ∧ f.mailbox = BitVec.ofNat 8 box ∧
    f.code = BitVec.ofNat 16 status ∧ f.tag = h.tag ∧ f.body = body ∧ f.cmd = h.seq

/-- A command that runs at once: its port is up and its MAC's crossing works, its session is known, its SEQ is the next, none is held or waits, and its mailbox is free (R405, R407). -/
def Claims.MayRun (s : State) (h : CmdHdr) (x : Session) (box : Nat) : Prop :=
  s.frameIn h.port = true ∧ s.sessOf h = some x ∧ h.seq = x.expect ∧ x.held = [] ∧ x.lost = 0 ∧ x.unacked.length < 1024 ∧
  (∀ q ∈ x.running, q.1 ≠ h.seq) ∧ (∀ y ∈ s.sessions, y.queued = [] ∧ (y.id = x.id → y = x)) ∧ s.ready = true ∧ s.boxBusy x.id box = false

/-- The word that a register read returns. -/
def Claims.valueAt (s : State) (a : Word) : Nat :=
  match decodeAddr a.toNat with
  | some (id, ix) => (s.shown id ix).toNat
  | none => 0

/-- An address that can be read, of a register that a read leaves as it is. -/
def Claims.Readable (s : State) (a : Word) : Prop :=
  a.toNat % 8 = 0 ∧ ∃ id ix, decodeAddr a.toNat = some (id, ix) ∧ s.unreachable id ix = false ∧ id.row.rc = 0 ∧
    id ∉ [RegId.xingStat, .meaStatus, .sfuStatus]

/-- IDENT and the register commands: REG_READ answers the value and clears its RC fields, REG_WRITE writes by the access codes,
REG_READ_MULTI answers every value in order under version 1.1; an address that cannot be accessed is ACCESS and counted, and a session that is
not administrative is answered NOT_ADMIN (R14, R406, R544, R580). -/
def Obligations.RegistersAreReadAndWritten : Prop :=
  ∀ (s : State) (h : CmdHdr) (x : Session), Claims.MayRun s h x 0 →
    (∃ t, exec (.ident h) s = .next t ∧ Claims.HostOnly s t ∧ Claims.Answered s t x h 0 0 (beBytes 8 (s.reg .keepIdent []).toNat)) ∧
    (x.admin = true → ∀ (a : Word) (id : RegId) (ix : List Nat), decodeAddr a.toNat = some (id, ix) → a.toNat % 8 = 0 →
      (s.unreachable id ix = false →
        (let b := s.beforeRead id ix
         ∃ t, exec (.regRead h a) s = .next t ∧ Claims.Answered s t x h 0 0 (beBytes 8 (b.shown id ix).toNat) ∧
          t = { b with mrs := t.mrs, xings := t.xings, sessions := t.sessions, out := t.out, waitOut := t.waitOut } ∧ SameRegsBut [id.row.addr ix] b t ∧
          (id ≠ .meaStatus → id ≠ .sfuStatus → b = s) ∧ (id ≠ .xingStat → t.reg id ix = b.reg id ix &&& ~~~id.row.rc)) ∧
        (∀ v : Long, id ∈ plainIds → s.romOnly = false → ∃ t, exec (.regWrite h a v) s = .next t ∧ Claims.Answered s t x h 0 0 [] ∧
          t = { s with mrs := t.mrs, sessions := t.sessions, out := t.out, waitOut := t.waitOut } ∧ SameRegsBut [id.row.addr ix] s t ∧
          t.reg id ix = ((s.reg id ix &&& ~~~id.row.rw) ||| (v &&& id.row.rw)) &&& ~~~(v &&& id.row.w1c))) ∧
      (s.unreachable id ix = true → ∀ (v : Long) (i : Instr), i ∈ [Instr.regRead h a, .regWrite h a v] → ∃ t, exec i s = .next t ∧
        Claims.Answered s t x h 0 5 [] ∧ t.regF .keepStatus [] 31 16 = min (s.regF .keepStatus [] 31 16 + 1) 0xFFFF ∧
        SameRegsBut [RegId.keepStatus.row.base] s t)) ∧
    (x.admin = true → x.version = 0x11 → ∀ l : List Word, l ≠ [] → l.length ≤ 64 → (∀ a ∈ l, Claims.Readable s a) →
      ∃ t, exec (.regReadMulti h l) s = .next t ∧ Claims.HostOnly s t ∧
        Claims.Answered s t x h 0 0 (l.flatMap fun a => beBytes 8 (Claims.valueAt s a))) ∧
    (x.admin = true → x.version = 0x11 → ∀ (a : Word) (l : List Word), l.length ≤ 64 → a ∈ l → a.toNat % 8 ≠ 0 →
      ∃ t, exec (.regReadMulti h l) s = .next t ∧ Claims.Answered s t x h 0 5 []) ∧
    (x.version = 0x10 → ∀ l, ∃ t, exec (.regReadMulti h l) s = .next t ∧ Claims.HostOnly s t ∧ Claims.Answered s t x h 0 2 []) ∧
    (x.admin = false → ∀ (a : Word) (v : Long) (i : Instr), i ∈ [Instr.regRead h a, .regWrite h a v] → ∃ t, exec i s = .next t ∧
      Claims.HostOnly s t ∧ Claims.Answered s t x h 0 4 [])

/-- QP_CONNECT makes a queue pair of its own number for the session, and answers ACCESS to an unknown MTU or port; QP_CLOSE takes a queue
pair of the session away (R400, R401). -/
def Claims.QueuePairsOpenAndClose : Prop :=
  ∀ (s : State) (h : CmdHdr) (x : Session), Claims.MayRun s h x 0 →
    (∀ (port mtu : Byte) (qpn psn : BitVec 24) (ip : BitVec 128),
      (mtu.toNat ≤ 2 → port.toNat < 2 → s.mapped128 port.toNat < 128 → s.qps.length < 256 →
        ∃ t q own, exec (.qpConnect h port mtu qpn psn ip) s = .next t ∧ t.qps = s.qps ++ [q] ∧ 1 ≤ q.qpn ∧ (∀ r ∈ s.qps, r.qpn ≠ q.qpn) ∧
          q.port.val = port.toNat ∧ q.session = x.id ∧ q.err = false ∧ q.mtu = 1024 * 2 ^ mtu.toNat ∧ q.hostQpn = qpn ∧ q.hostPsn = psn ∧
          q.hostIp = ip ∧ Claims.Answered s t x h 0 0 (beBytes 3 q.qpn ++ beBytes 3 own) ∧
          t = { s with fresh := t.fresh, qps := t.qps, sessions := t.sessions, out := t.out, waitOut := t.waitOut }) ∧
      (2 < mtu.toNat ∨ 2 ≤ port.toNat → ∃ t, exec (.qpConnect h port mtu qpn psn ip) s = .next t ∧ Claims.HostOnly s t ∧
        Claims.Answered s t x h 0 5 [])) ∧
    (∀ qpn : BitVec 24,
      let mine := fun (q : Qp) => q.qpn == qpn.toNat && q.session == x.id
      ((∃ q ∈ s.qps, mine q = true) → ∃ t, exec (.qpClose h qpn) s = .next t ∧ t.qps = s.qps.filter (fun q => !mine q) ∧
        Claims.Answered s t x h 0 0 []) ∧
      ((∀ q ∈ s.qps, mine q = false) → ∃ t, exec (.qpClose h qpn) s = .next t ∧ Claims.HostOnly s t ∧ Claims.Answered s t x h 0 5 []))

/-- STAGE_OPEN and REGION_OPEN make a region under a new R_Key, where every page permits the access asked for; REGION_CLOSE ends it
(R402). GATE_POST is taken and completes once its value is in effect at the gate (R409, R410). -/
def Claims.RegionsAndGates : Prop :=
  (∀ (s : State) (h : CmdHdr) (x : Session) (access : Byte), Claims.MayRun s h x 1 →
    (access.toNat ≤ 3 → ∃ t, exec (.stageOpen h access) s = .next t ∧
      t.regions = s.regions ++ [⟨BitVec.ofNat 32 s.nextId, none, 0, stagingLen, access.toNat.testBit 0, access.toNat.testBit 1, x.id⟩] ∧
      Claims.Answered s t x h 1 0 (beBytes 4 (BitVec.ofNat 32 s.nextId).toNat) ∧
      t = { s with regions := t.regions, nextId := t.nextId, sessions := t.sessions, out := t.out, waitOut := t.waitOut }) ∧
    (3 < access.toNat → ∃ t, exec (.stageOpen h access) s = .next t ∧ Claims.HostOnly s t ∧ Claims.Answered s t x h 1 5 [])) ∧
  (∀ (s : State) (h : CmdHdr) (x : Session) (p : PartId), Claims.MayRun s h x (0x10 + p.val) →
    (∀ (va len : Long) (access : Byte) (im : PartImg), s.pstate p ≠ 0 → s.pstate p ≠ 4 → access.toNat ≤ 3 → va.toNat + len.toNat ≤ 2 ^ 48 →
      (s.regions.filter fun r => r.part == some p.val).length < 64 → (s.part p).img = some im →
      let ok := fun (bit : Nat) => access.toNat.testBit bit = true → checkRuns im.pages bit [(va.toNat, len.toNat)] = none
      (ok 0 ∧ ok 1 → ∃ t, exec (.regionOpen h p va len access) s = .next t ∧ t.regions = s.regions ++
          [⟨BitVec.ofNat 32 s.nextId, some p.val, va.toNat, len.toNat, access.toNat.testBit 0, access.toNat.testBit 1, x.id⟩] ∧
        Claims.Answered s t x h (0x10 + p.val) 0 (beBytes 4 (BitVec.ofNat 32 s.nextId).toNat)) ∧
      (¬ (ok 0 ∧ ok 1) → ∃ t, exec (.regionOpen h p va len access) s = .next t ∧ Claims.HostOnly s t ∧
        Claims.Answered s t x h (0x10 + p.val) 7 [])) ∧
    (∀ rkey : Word, (∃ r ∈ s.regions, r.rkey = rkey ∧ r.part = some p.val) →
      ∃ t, exec (.regionClose h p rkey) s = .next t ∧ t.regions = s.regions.filter (fun r => !(r.rkey == rkey && r.part == some p.val)) ∧
        Claims.Answered s t x h (0x10 + p.val) 0 []) ∧
    (∀ (gate : Byte) (v : Word),
      (s.pstate p ≠ 0 → s.pstate p ≠ 4 → gate.toNat ≤ 63 → ∃ t, exec (.gatePost h p gate v) s = .next t ∧
        t.gatePosts = s.gatePosts ++ [⟨p.val, gate.toNat, v, x.id, h.seq⟩] ∧
        t = { s with gatePosts := t.gatePosts, sessions := t.sessions, out := t.out, waitOut := t.waitOut }) ∧
      (s.pstate p = 0 ∨ s.pstate p = 4 → ∃ t, exec (.gatePost h p gate v) s = .next t ∧ Claims.HostOnly s t ∧
        Claims.Answered s t x h (0x10 + p.val) 8 []))) ∧
  (∀ (s : State) (p : PartId) (g : Fin 64) (y : GatePost), (∀ x ∈ s.sessions, x.queued = []) →
    s.gatePosts.find? (fun x => x.part == p.val && x.gate == g.val) = some y →
    ∃ t, exec (.gateInEffect p g) s = .next t ∧ (t.part p).gates.get 0 g = y.value ∧ t.gatePosts = s.gatePosts.erase y ∧ SameMem s t ∧
      t.mrs = s.mrs ∧ (∀ c e, c < 128 → (s.core c).part = some p.val → e ∈ (t.core c).window → State.gateDone g y.value e = false))

/-- PART_HALT begins the halt of a running partition and completes when its cores have stopped; it changes nothing of a halted one (R585); PART_RESET halts it, closes its regions and waits for
the reset to be done (R586); while the partition commits, both are BUSY. COUNTER_READ answers an item that the image grants and no item
where one is not (R547). The meter's commands answer its registers, records and certificate (R499). -/
def Claims.PartitionAndMeterCommands : Prop :=
  (∀ (s : State) (h : CmdHdr) (x : Session) (p : PartId), Claims.MayRun s h x (0x10 + p.val) →
    (s.committing p = false → s.isRunning p = true → (∃ c, c < 128 ∧ (s.core c).part = some p.val ∧ (s.core c).halted = false) →
      ∃ t, exec (.partHalt h p) s = .next t ∧ HaltedWith t p 0 ∧ (t.part p).halting = true ∧ (x.id, h.seq) ∈ (t.part p).haltFor) ∧
    (s.committing p = false → s.pstate p = 3 → (s.part p).halting = false → ∃ t, exec (.partHalt h p) s = .next t ∧ Claims.HostOnly s t ∧
      Claims.Answered s t x h (0x10 + p.val) 0 []) ∧
    (s.committing p = false → s.isRunning p = true ∨ s.pstate p = 3 → s.jobState ≤ 1 →
      ∃ t, exec (.partReset h p) s = .next t ∧ t.pstate p = 3 ∧ t.resets = s.resets ++ [⟨p.val, none, some (x.id, h.seq), false⟩] ∧
        ∀ r ∈ t.regions, r.part ≠ some p.val) ∧
    (s.committing p = true → ∀ i, i ∈ [Instr.partHalt h p, .partReset h p] → ∃ t, exec i s = .next t ∧ Claims.HostOnly s t ∧
      Claims.Answered s t x h (0x10 + p.val) 6 []) ∧
    (∀ im items, (s.part p).img = some im → items ≠ [] → items.length ≤ 64 →
      (∀ i id ix, items = [i] → s.itemReg p im i = some (id, ix) → s.unreachable id ix = false →
        ∃ t, exec (.counterRead h p items) s = .next t ∧ Claims.Answered s t x h (0x10 + p.val) 0 (beBytes 8 (s.shown id ix).toNat)) ∧
      (∀ i id ix, items = [i] → s.itemReg p im i = some (id, ix) → s.unreachable id ix = true →
        ∃ t, exec (.counterRead h p items) s = .next t ∧ Claims.Answered s t x h (0x10 + p.val) 5 [] ∧
          t.regF .keepStatus [] 31 16 = min (s.regF .keepStatus [] 31 16 + 1) 0xFFFF) ∧
      ((∃ i ∈ items, s.itemReg p im i = none) →
        (∀ i ∈ items, ∀ id ix, s.itemReg p im i = some (id, ix) → s.unreachable id ix = false) → ∃ t, exec (.counterRead h p items) s = .next t ∧ Claims.HostOnly s t ∧
        Claims.Answered s t x h (0x10 + p.val) 5 []))) ∧
  (∀ (s : State) (h : CmdHdr) (x : Session), Claims.MayRun s h x 0x30 →
    (∃ t, exec (.meterRead h) s = .next t ∧ Claims.HostOnly s t ∧ Claims.Answered s t x h 0x30 0
      ((beBytes 8 (s.reg .mtrStatus []).toNat ++ beBytes 8 (s.reg .mtrEnergyA []).toNat) ++ beBytes 8 (s.reg .mtrEnergyB []).toNat ++
        beBytes 8 (s.reg .mtrPower []).toNat)) ∧
    (∀ (n : Long) (off : Word) (k : Nat) (r : List Byte), off.toNat < r.length →
      (n = 0 → s.meter.records.find? (fun q => q.1 == s.meter.latest) = some (k, r)) →
      (n ≠ 0 → s.meter.records.find? (fun q => le q.2 0x18 8 == n.toNat) = some (k, r)) →
      ∃ t, exec (.meterRecord h n off) s = .next t ∧ Claims.HostOnly s t ∧ Claims.Answered s t x h 0x30 0
        (beBytes 8 (le r 0x18 8) ++ beBytes 4 r.length ++ fill 4 0 ++ (r.drop off.toNat).take 1024)) ∧
    (∀ off : Word, ∃ t, exec (.meterCert h off) s = .next t ∧ Claims.HostOnly s t ∧ (off.toNat < (Config.certificate 100).length →
      Claims.Answered s t x h 0x30 0 (beBytes 4 (Config.certificate 100).length ++ fill 4 0 ++
        ((Config.certificate 100).drop off.toNat).take 1024))))

/-- Regions, gates, and the commands of a partition and of the meter. -/
def Obligations.RegionsGatesAndPartitions : Prop :=
  Claims.RegionsAndGates ∧ Claims.PartitionAndMeterCommands

/-- OPEN makes a session of the highest version both have, and refuses with its status where there is none or eight are open; CLOSE ends
a session and its queue pairs; ACK takes acknowledged frames away; a session idle for its time is closed and counted; frames not acknowledged
go out again ten times, and then the session is closed (R403-R405, R424). -/
def Obligations.SessionsOpenAndClose : Prop :=
  (∀ (s : State) (n : NetId) (ip : BitVec 128) (vmask : Byte) (nonce : Long), s.frameIn n = true → s.ready = true →
    (vmask.toNat % 4 = 0 → exec (.sessionOpen n ip vmask nonce) s = .next (s.openReply n ip 0 0 9 nonce)) ∧
    (vmask.toNat % 4 ≠ 0 → 8 ≤ s.sessions.length → exec (.sessionOpen n ip vmask nonce) s = .next (s.openReply n ip 0 0 6 nonce)) ∧
    (vmask.toNat % 4 ≠ 0 → s.sessions.length < 8 → s.keeper.held = [] →
      ∃ t y, exec (.sessionOpen n ip vmask nonce) s = .next t ∧ t.sessions = s.sessions ++ [y] ∧ y.id = BitVec.ofNat 32 s.nextId ∧ y.ip = ip ∧
        y.admin = decide (n = 0) ∧ y.port = n ∧ y.version = (if vmask.toNat % 4 = 1 then 0x10 else 0x11) ∧ y.expect = 1 ∧ y.sendSeq = 1 ∧
        y.unacked = [] ∧ t.out = (s.openReply n ip y.id y.version 0 nonce).out ∧
        t.waitOut = (s.openReply n ip y.id y.version 0 nonce).waitOut)) ∧
  (∀ (s : State) (h : CmdHdr), s.frameIn h.port = true →
    (s.sessOf h = none → ∀ i, i ∈ [Instr.sessionClose h, .sessionAck h] → exec i s = .next (s.bump .ctlStatus [] 63 48)) ∧
    (∀ x, s.sessOf h = some x →
      (∃ t, exec (.sessionClose h) s = .next t ∧ (∀ y ∈ t.sessions, y.id ≠ x.id) ∧ ∀ q ∈ t.qps, q.session ≠ x.id) ∧
      (x.lost = 0 → (∀ y ∈ s.sessions, y.id = x.id → y = x) → ∃ t, exec (.sessionAck h) s = .next t ∧ t = { s with sessions := t.sessions } ∧
        ∀ y ∈ t.sessions, y.id = x.id → y.port = h.port ∧ y.unacked = x.unacked.filter fun f => !State.notAfter f.seq h.ackseq))) ∧
  (∀ (s : State) (sid : Word),
    (s.sess? sid = none → exec (.sessionIdleTimeout sid) s = .next s ∧ exec (.controlResendTimer sid) s = .next s) ∧
    (∀ x, s.sess? sid = some x →
      (NoErrors s → ∃ t, exec (.sessionIdleTimeout sid) s = .next t ∧ (∀ y ∈ t.sessions, y.id ≠ sid) ∧
        Claims.Sent s t (s.ctlOut x (State.bareFrame 7)) ∧
        t.regF .ctlStatus [] 47 32 = min (s.regF .ctlStatus [] 47 32 + 1) 0xFFFF) ∧
      (x.unacked = [] → exec (.controlResendTimer sid) s = .next s) ∧
      (x.unacked ≠ [] → x.resends < 10 → ∃ t, exec (.controlResendTimer sid) s = .next t ∧
        Claims.Sends s t (x.unacked.map (s.ctlOut x)) ∧ t = { s with sessions := t.sessions, out := t.out, waitOut := t.waitOut }) ∧
      (x.unacked ≠ [] → 10 ≤ x.resends → ∃ t, exec (.controlResendTimer sid) s = .next t ∧ ∀ y ∈ t.sessions, y.id ≠ sid)))

/-- A control frame's bytes spell its command (R403, R406); an unsupported packet on a host port is dropped and counted, and one the FEC
cannot correct counts apart (R398, R422). An RDMA WRITE into the staging area stores its bytes and is acknowledged, an RDMA READ of it answers
them, an access that no region permits is NAKed and puts the queue pair in error (R400-R402). A host port's link comes up within its limits
and with the other settings of ETH_CTRL in effect, and goes down with its queue pairs, its sessions going on at the port that is up (R398,
R420, R423). -/
def Claims.PacketsOfTheHostPorts : Prop :=
  (∀ (s : State) (n : NetId) (peer : BitVec 128) (f : List Byte), f.length = 32 → be f 0 2 = 0x4743 → be f 3 1 = 1 → be f 0x18 2 = 0 →
    f.getD 0x10 0 = 0 → be f 0x12 2 = 1 → s.frameIn n = true → ∀ g k, (k = EthFrame.udp peer 48128 f ∨
        ∃ dst, s.ownAddr n dst = true ∧ k = .addressed dst (.udp peer 48128 f)) →
      (g = k ∨ ∃ vid, vid ≠ 0 ∧ vid ≠ 4095#12 ∧ g = .tagged vid k) →
    exec (.ethFrameReceive n g) s = .next (s.settle ((s.command ⟨n, peer, f.getD 2 0, BitVec.ofNat 32 (be f 4 4), BitVec.ofNat 32 (be f 8 4),
      BitVec.ofNat 32 (be f 0xC 4), BitVec.ofNat 32 (be f 0x14 4)⟩ .ident).pausePeer n))) ∧
  (∀ (s : State) (n : NetId), Claims.BufferLook n s (s.pausePeer n)) ∧
  (∀ (s : State) (n : NetId) (f : EthFrame), n ≠ 0 → s.frameIn n = true →
    (f ∈ [EthFrame.doubleTagged, .oversize, .unsupportedIp] → exec (.ethFrameReceive n f) s =
      .next ((s.bump .ethStatus [n.val - 1] 63 48).pausePeer n)) ∧
    (∀ vid : BitVec 12, vid = 0 ∨ vid = 4095 → exec (.ethFrameReceive n (.tagged vid f)) s =
      .next ((s.bump .ethStatus [n.val - 1] 63 48).pausePeer n)) ∧
    (∀ dst, s.ownAddr n dst = false → exec (.ethFrameReceive n (.addressed dst f)) s = .next (s.pausePeer n)) ∧
    (∀ prios, ∃ u : State, exec (.ethFrameReceive n (.pfc prios)) s = .next (u.pausePeer n) ∧
      u.paused = s.paused.set (n.val - 1) (prios &&& (s.eth.get EthSet.reset (n.val - 1)).pfc) ∧ u.waitOut = s.waitOut.filter u.pausedOut ∧
      u.out = ((s.waitOut.filter fun o => !u.pausedOut o).filter fun o => !s.outLost o).reverse ++ s.out ∧
      u = { s with paused := u.paused, waitOut := u.waitOut, out := u.out }) ∧
    exec (.ethFrameReceive n .fecUncorrectable) s = .next ((s.bump .ethStatus [n.val - 1] 47 32).pausePeer n)) ∧
  (∀ (s : State) (n : NetId) (f : EthFrame), s.frameIn n = false → exec (.ethFrameReceive n f) s = .next (s.pausePeer n)) ∧
  (∀ (s : State) (n : Fin 2) (qpn : BitVec 24) (rkey : Word) (va : Long), s.frameIn n.succ = true →
    (s.liveQp n qpn.toNat = none → ∀ data len i, i ∈ [Instr.rdmaWrite n qpn rkey va data, .rdmaRead n qpn rkey va len] →
      exec i s = .next ((s.bump .ethStatus [n.val] 63 48).pausePeer n.succ)) ∧
    (∀ q, s.liveQp n qpn.toNat = some q → s.qps.find? (fun q => q.qpn == qpn.toNat) = some q →
      (∀ (r : Region) (data : List Byte), NoErrors s → s.regionFor rkey va.toNat data.length true = some r → r.part = none →
        ∃ t, exec (.rdmaWrite n qpn rkey va data) s = .next t ∧ Claims.QpSent s t qpn.toNat .ack ∧
          readBytes t.slow.data (stagingBase + va.toNat) data.length = data ∧
          SameMemBut (.tier true) (stagingBase + va.toNat) data.length s t) ∧
      (∀ (r : Region) (len : Nat), NoErrors s → s.regionFor rkey va.toNat len false = some r → r.part = none →
        ∃ t, exec (.rdmaRead n qpn rkey va len) s = .next t ∧ SameMem s t ∧
          Claims.QpSent s t qpn.toNat (.data (readBytes s.slow.data (stagingBase + va.toNat) len))) ∧
      (∀ data, s.regionFor rkey va.toNat data.length true = none → ∃ t, exec (.rdmaWrite n qpn rkey va data) s = .next t ∧
        Claims.QpSent s t qpn.toNat (.nak 2) ∧ ∀ k ∈ t.qps, k.qpn = qpn.toNat → k.err = true))) ∧
  (∀ (s : State) (n : Fin 2) (fast : Bool),
    (s.regF .ethCtrl [n.val] 0 0 = 1 → s.regF .ethStatus [n.val] 0 0 = 0 → ∃ t, exec (.hostPortLinkUp n fast) s = .next t ∧
      t.regF .ethStatus [n.val] 0 0 = 1 ∧ t.regF .ethStatus [n.val] 7 4 = (if fast = true ∧ s.regF .ethCtrl [n.val] 1 1 = 0 then 2 else 1) ∧
      (let c := s.reg .ethCtrl [n.val]
       t.eth.get EthSet.reset n.val = ⟨BitVec.ofNat 8 (getF c 23 16), getF c 14 12, getF c 10 8⟩) ∧
      t = { s with mrs := t.mrs, eth := t.eth, paused := t.paused, pfcSent := t.pfcSent, off := t.off, sessions := t.sessions, out := t.out,
                   waitOut := t.waitOut } ∧
      SameRegsBut [RegId.ethStatus.row.addr [n.val]] s t) ∧
    (s.regF .ethStatus [n.val] 0 0 = 1 → ∃ t, exec (.hostPortDown n) s = .next t ∧ t.regF .ethStatus [n.val] 0 0 = 0 ∧
      (∀ q ∈ t.qps, q.port = n → q.err = true) ∧
      ∀ x ∈ t.sessions, x.admin = false → (∃ m, t.portUp m = true ∧ m ≠ 0) → t.portUp x.port = true) ∧
    (s.regF .ethStatus [n.val] 0 0 = 0 → exec (.hostPortDown n) s = .next s))

/-- Queue pairs and what arrives on the host ports. -/
def Obligations.QueuePairsAndPackets : Prop :=
  Claims.QueuePairsOpenAndClose ∧ Claims.PacketsOfTheHostPorts

/-! ### Loads, commits and resets -/

/-- IMAGE_LOAD is taken where none is in progress; its validation refuses the image with the first failing check, or stops the targets;
the commit puts the image in force for its partitions, their release starts every core at the first record of the first step, and the load is
answered. A commit that would seat a partition on the target of a directed test waits for the test (R532). A reset goes the same way. A load that waits for a warm restart goes on after it (R117-R120, R124, R125, R586). -/
def Obligations.ImagesAreLoaded : Prop :=
  (∀ (s : State) (h : CmdHdr) (x : Session) (off len : Long) (mode : Byte), Claims.MayRun s h x 1 →
    let good := off.toNat % 64 = 0 ∧ 1 ≤ len.toNat ∧ len.toNat ≤ 1073741824 ∧ mode.toNat ≤ 1 ∧ off.toNat + len.toNat ≤ stagingLen
    let free := s.load = none ∧ s.regF .lifeStatus [] 3 3 = 0 ∧ 9 ≤ s.bootStep
    (good → free → ∃ t l, exec (.imageLoad h off len mode) s = .next t ∧ t.load = some l ∧ l.off = off.toNat ∧ l.len = len.toNat ∧
      (l.halt = true ↔ mode.toNat = 1) ∧ l.session = x.id ∧ l.seq = h.seq ∧ l.image = none ∧ l.placed = false ∧
      t.regF .keepImgStatus [] 55 52 = (if s.anyRestart then 4 else 1) ∧
      t.regF .keepImgStatus [] 46 32 = (s.regF .keepImgStatus [] 46 32 + 1) % 0x8000) ∧
    (good → ¬ free → ∃ t, exec (.imageLoad h off len mode) s = .next t ∧ Claims.HostOnly s t ∧
      Claims.Answered s t x h 1 6 (0x0F :: beBytes 4 0)) ∧
    (¬ good → ∃ t, exec (.imageLoad h off len mode) s = .next t ∧ Claims.HostOnly s t ∧ Claims.Answered s t x h 1 5 [])) ∧
  (∀ (s : State) (l : Load), (∀ x ∈ s.sessions, x.queued = []) → s.load = some l →
    (l.image = none → s.regF .keepImgStatus [] 55 52 = 1 →
      ∃ t, exec .imageValidationComplete s = .next t ∧
        match s.validate (stagingBase + l.off) l.len with
        | (_, (code, detail), none) => t.load = none ∧ t.regF .keepImgStatus [] 55 52 = 0 ∧ t.regF .keepImgStatus [] 63 56 = code % 256 ∧
            t.regF .keepImgStatus [] 31 0 = detail % 2 ^ 32 ∧ t.cores = s.cores ∧ t.parts = s.parts
        | (u, _, some img) => ∃ k, t.load = some k ∧ k.image = some img ∧ k.targets = u.targetsOf img ∧
            t.regF .keepImgStatus [] 55 52 = 2 ∧ t.regF .keepImgStatus [] 63 56 = 0 ∧
            ∀ p : PartId, p.val ∈ u.targetsOf img → u.isRunning p = true → t.pstate p = if l.halt then 3 else 2) ∧
    (s.regF .keepImgStatus [] 55 52 = 4 → s.anyRestart = false → l.image = none →
      exec .loadAfterWarmRestart s = .next (s.setRegF .keepImgStatus [] 55 52 1)) ∧
    (∀ img, s.anyRestart = false → l.image = some img → (img.parts.map (·.1)).Nodup → (∀ q ∈ img.parts, q.1 < 16) →
      (l.placed = false → s.regF .keepImgStatus [] 55 52 ≠ 4 → s.loadShort img = none → (∀ p ∈ l.targets, s.stopped p = true) →
        (s.commitLoad l img).testTaken = true → exec .imageCommit s = .next s) ∧
      (NoErrors s → s.bist.todo = [] → l.placed = false → s.regF .keepImgStatus [] 55 52 ≠ 4 → s.loadShort img = none →
        (∀ p ∈ l.targets, s.stopped p = true) → ∃ t k, exec .imageCommit s = .next t ∧ t.load = some k ∧ k.placed = true ∧
        t.regF .keepImgStatus [] 55 52 = 3 ∧ (img.scopePart = none → t.hdr = some img.hdr) ∧
        ∀ q ∈ img.parts, t.pstate q.1 = 4 ∧ (t.part q.1).img = some q.2 ∧ (t.part q.1).step = q.2.stepStart) ∧
      (l.placed = true → ∃ t, exec .targetRelease s = .next t ∧ t.load = none ∧ t.regF .keepImgStatus [] 55 52 = 0 ∧
        ∀ q ∈ img.parts, t.pstate q.1 = 1 ∧ t.reg .keepPartBuild [q.1] = img.buildId ∧
          ∀ c, c < 128 → (s.core c).part = some q.1 → (t.core c).fetch = some ⟨(s.part q.1).firstStep, 0, [], false, []⟩))) ∧
  (∀ (s : State) (r : Reset) (im : PartImg), (∀ x ∈ s.sessions, x.queued = []) → s.load = none → s.anyRestart = false → s.resets = [r] →
    r.part < 16 → (s.part r.part).img = some im →
    (NoErrors s → s.bist.todo = [] → r.placed = false → s.stopped r.part = true → s.allPlaced im = true → ∃ t, exec .imageCommit s = .next t ∧ t.pstate r.part = 4 ∧
      t.resets = [{ r with placed := true }] ∧ (t.part r.part).step = r.first.getD im.stepStart) ∧
    (r.placed = true → ∃ t, exec .targetRelease s = .next t ∧ t.pstate r.part = 1 ∧ t.resets = []))

/-! ### The job -/

/-- The job mailbox: JOB_MODULE sets the module number; JOB_MAP records entries for a commit; JOB_COMMIT refuses with its first failing
reason or puts the map in force; JOB_STORE records the shared store; JOB_RESUME starts the restore of an orphan whose map has been
committed since it became one, is kept by the coordinator until every survivor is COMMITTED, and is refused where nothing waits for it; JOB_READ answers the status and the commits (R459-R461, R466-R468, R474). -/
def Obligations.TheJobMailbox : Prop :=
  ∀ (s : State) (h : CmdHdr) (x : Session), Claims.MayRun s h x 2 →
    (∀ (m : Half) (valid : Byte),
      (valid.toNat ≤ 1 → ∃ t, exec (.jobModule h m valid) s = .next t ∧ Claims.Answered s t x h 2 0 [] ∧ t.moduleIx = m ∧
        (t.moduleValid = true ↔ valid.toNat = 1) ∧ SameRegsBut [RegId.lnkModule.row.base] s t) ∧
      (1 < valid.toNat → ∃ t, exec (.jobModule h m valid) s = .next t ∧ Claims.HostOnly s t ∧ Claims.Answered s t x h 2 5 [])) ∧
    (∀ (part policy : Byte) (gen shards first : Word) (count : Half) (es : List MapEntry),
      (count.toNat = 0 ∨ 69 < count.toNat ∨ es.length ≠ count.toNat → ∃ t, exec (.jobMap h part policy gen shards first count es) s = .next t ∧
        Claims.HostOnly s t ∧ Claims.Answered s t x h 2 3 []) ∧
      (1 ≤ count.toNat → count.toNat ≤ 69 → es.length = count.toNat → part.toNat ≤ 15 → policy.toNat ≤ 1 →
        first.toNat + count.toNat ≤ shards.toNat → (∀ e ∈ es, e.slot.toNat ≤ 15) →
        ∃ t, exec (.jobMap h part policy gen shards first count es) s = .next t ∧ Claims.Answered s t x h 2 0 [] ∧
          let m := t.job.received.get noMap part.toNat
          m.jobgen = gen ∧ m.shards = shards.toNat ∧ (m.relaxed = true ↔ policy.toNat = 1) ∧
          ∀ (d e : MapEntry) (i : Nat), es[i]? = some e → m.entries.get d (first.toNat + i) = e)) ∧
    (∀ (part : Byte) (gen : Word), part.toNat ≤ 15 →
      (s.commitReason part.toNat gen = 0 → ∃ t, exec (.jobCommit h part gen) s = .next t ∧ Claims.Answered s t x h 2 0 [0] ∧
        t.job.maps.get noMap part.toNat = s.job.received.get noMap part.toNat ∧ t.regF .collGen [] 11 0 = gen.toNat % 4096 ∧
        t.regF .jobStatus [] 63 32 = gen.toNat) ∧
      (s.commitReason part.toNat gen ≠ 0 → ∃ t, exec (.jobCommit h part gen) s = .next t ∧ Claims.HostOnly s t ∧
        Claims.Answered s t x h 2 7 [BitVec.ofNat 8 (s.commitReason part.toNat gen)])) ∧
    (∀ (part : Byte) (qpn : BitVec 24) (rkey : Word) (base stride : Long), part.toNat ≤ 15 → (∃ q ∈ s.qps, q.qpn = qpn.toNat) →
      s.pstate part.toNat ≠ 0 → ∃ t, exec (.jobStore h part qpn rkey base stride) s = .next t ∧ Claims.Answered s t x h 2 0 [] ∧
        (t.part part.toNat).store = some ⟨qpn.toNat, rkey, base.toNat, stride.toNat⟩) ∧
    (∀ (step : Word) (layer : Byte),
      (layer.toNat = 0 ∨ 3 < layer.toNat → ∃ t, exec (.jobResume h step layer) s = .next t ∧ Claims.HostOnly s t ∧
        Claims.Answered s t x h 2 5 []) ∧
      (1 ≤ layer.toNat → layer.toNat ≤ 3 → s.regF .jobStatus [] 27 24 = 7 → s.job.remapped = true →
        ∃ t, exec (.jobResume h step layer) s = .next t ∧ Claims.Answered s t x h 2 0 [] ∧ t.job.resume = some step ∧ t.job.layer = layer.toNat ∧
        (t.regF .jobStatus [] 27 24 = 4 ∨ t.regF .jobStatus [] 27 24 = 5)) ∧
      (1 ≤ layer.toNat → layer.toNat ≤ 3 → s.role = 1 → s.jobState = 3 → ∃ t, exec (.jobResume h step layer) s = .next t ∧
        Claims.Answered s t x h 2 0 [] ∧ (t.job.asked = some (step, layer.toNat) ∨ t.job.resume.isSome = true)) ∧
      (1 ≤ layer.toNat → layer.toNat ≤ 3 → s.regF .jobStatus [] 27 24 = 1 ∨ (s.regF .jobStatus [] 27 24 = 7 ∧ s.job.remapped = false) → ∃ t, exec (.jobResume h step layer) s = .next t ∧
        Claims.HostOnly s t ∧ Claims.Answered s t x h 2 7 [])) ∧
    (∃ t, exec (.jobRead h) s = .next t ∧ Claims.HostOnly s t ∧
      Claims.Answered s t x h 2 0 (beBytes 8 s.jobStatusReg.toNat ++ beBytes 8 (s.reg .jobCommits []).toNat))

/-! ### Host gates, ingest, loss scale, ferry and exchange -/

/-- HOSTIN completes where its gate has reached the value and waits for it otherwise; HOSTSIG sends its event to every session (R408, R409).
INGEST joins the engine's queue where the partition owns its banks and
faults otherwise (R412). -/
def Claims.GatesAndIngestFire : Prop :=
  (∀ (s : State) (c : CoreId) (p : PartId) (x : Entry), (s.core c).part = some p.val →
    (Fires s c 5 0x68 (s.strmAccepts c) x →
      let v := if getF x.op 49 49 = 1 then s.scalarOf c x else BitVec.ofNat 32 (getF x.op 31 0)
      ∃ t, exec (.hostin c) s = .next t ∧ OnlyCore c s t ∧ ∀ e ∈ (t.core c).window, e.uid = x.uid →
        if 0 ≤ (s.gateOf p (getF x.op 55 50) - v).toInt then e.phase = .done else e.phase = .fired ∧ e.carry = [v]) ∧
    (∀ y, Fires s c 5 0x69 (s.strmAccepts c) x → s.sessions = [y] → y.unacked.length < 1024 →
      ∃ t f, exec (.hostsig c) s = .next t ∧ Claims.Sends s t [s.ctlOut y f] ∧ f.kind = 3 ∧ f.mailbox = BitVec.ofNat 8 (0x10 + p.val) ∧
        f.code = 0x8003 ∧ f.body = [BitVec.ofNat 8 (getF x.op 55 50), 0, 0, 0] ++ beBytes 4 (getF x.op 31 0) ++ beBytes 4 x.step.toNat ∧
        ∀ e ∈ (t.core c).window, e.uid = x.uid → e.phase = .done)) ∧
  (∀ (s : State) (c : CoreId) (p : PartId) (x : Entry) (im : PartImg), (s.core c).part = some p.val → s.imgOf c = some im → s.isRunning p = true →
    Fires s c 8 0x80 (s.ingestAccepts c) x →
    let d := s.desc c (getF x.op 47 36)
    s.sideFault c im.pages ⟨true, none, dF d 8 6⟩ 0 [] [(0, dF d 0x10 8)] = none →
    ((∀ b ∈ State.ingestBanks x.op, s.ingestOwns p (c.val / 16) b = true) → ∃ t j, exec (.ingest c) s = .next t ∧ SameMem s t ∧
      (t.cl (c.val / 16)).ingQ = (s.cl (c.val / 16)).ingQ ++ [j] ∧ j.core = c.val ∧ j.uid = x.uid ∧ j.part = p.val ∧ j.op = x.op ∧
      j.prof = im.ingest.getD (getF x.op 55 48) 0 ∧ j.started = false ∧ ∀ e ∈ (t.core c).window, e.uid = x.uid → e.phase = .fired) ∧
    ((∃ b ∈ State.ingestBanks x.op, s.ingestOwns p (c.val / 16) b = false) → ∃ t, exec (.ingest c) s = .next t ∧ SameMem s t ∧
      HaltedWith t p 0x0B))

/-- INGEST_TAKEN reads, demultiplexes and decodes the stream of the oldest queued INGEST, counting transport errors (R411, R414, R417);
INGEST_PICTURE writes an admitted picture that is not the last to its slot and its record behind it (R414-R417). -/
def Claims.StreamsAreIngested : Prop :=
  (∀ (s : State) (cl : ClusterId) (j : IngJob) (rest : List IngJob), NoErrors s → (s.cl cl).ingQ = j :: rest → j.started = false →
    (s.cl cl).restarting = false →
    let wide := if prF j.prof 2 1 = 1 then 192 else 188
    let bytes := Claims.bytesIn s (s.ingestPieces j)
    let es := demux ((chunksOf wide bytes).filterMap fun b => tsPacket (prF j.prof 0 2) ((b.map some).drop (wide - 188))) none false none
    let dv := Config.decodeVideo (prF j.prof 3 1) (prF j.prof 0x16 1 == 1) es.1
    let pics := outputPics j.prof dv.1
    ∃ t, exec (.ingestTaken cl) s = .next t ∧
      (pics ≠ [] → SameMem s t ∧ (t.cl cl).ingQ = { j with started := true, pics := pics, decoded := dv.1.length, flags :=
        (if 0 < es.2 then 1 else 0) + (if dv.2 then 2 else 0) } :: rest ∧
        t.regF .ingErr [cl.val] 47 32 = min (s.regF .ingErr [cl.val] 47 32 + es.2) 0xFFFF) ∧
      (pics = [] → (t.cl cl).ingQ = rest)) ∧
  (∀ (s : State) (cl : ClusterId) (j : IngJob) (rest : List IngJob) (p : VPic), NoErrors s → NothingBound s j.core j.uid →
    (s.cl cl).ingQ = j :: rest → j.pics[j.next]? = some p → j.started = true → j.admitted = true → (s.cl cl).restarting = false →
    j.next + 1 < j.pics.length → j.next < prF j.prof 0x38 2 →
    let st := (State.pictureStatus j p).1
    let table := Place.pool (16 * cl.val + getF j.op 35 32)
    let slot := Place.pool (16 * cl.val + (getF j.op 35 32 + j.next % (getF j.op 31 28 + 1)) % 16)
    let data := if st = 2 then fill (prF j.prof 0x34 4) 0 else (pictureTensor j.prof p).1
    ∃ t, exec (.ingestPicture cl) s = .next t ∧
      (t.cl cl).ingQ = { j with next := j.next + 1, written := j.written + 1, admitted := false } :: rest ∧
      readBytes (t.cells table) (16 * (getF j.op 27 12 + j.next + 1)) 16 = leBytes 4 j.next ++ [BitVec.ofNat 8 st,
        BitVec.ofNat 8 (p.kind + (if p.field then 4 else 0) + (if p.bottom then 8 else 0)), 0, 0] ++ leBytes 4 p.lost ++ fill 4 0 ∧
      (slot ≠ table → readBytes (t.cells slot) (j.next / (getF j.op 31 28 + 1) * prF j.prof 0x34 4) data.length = data) ∧
      (∀ q a, q ≠ slot → q ≠ table → readByte (t.cells q) a = readByte (s.cells q) a))

/-- Host gates and the ingest engines. -/
def Obligations.IngestAndGates : Prop :=
  Claims.GatesAndIngestFire ∧ Claims.StreamsAreIngested

/-- LSUPDATE: PREPARE of the first step writes the initial record where it does not resume, any other writes nothing, and both produce 1;
DECIDE writes the record that the status word decides, and produces the decision (R430-R435). -/
def Obligations.LossScaleIsControlled : Prop :=
  ∀ (s : State) (c : CoreId) (x : Entry) (im : PartImg), s.oldestReady c 5 (s.strmAccepts c) = some x → x.opcode = 0x74 → s.imgOf c = some im →
    let d := State.lossDesc (s.desc c (getF x.op 55 44))
    let side := fun (a : Nat) => (⟨true, none, a⟩ : Side)
    (getF x.op 43 43 = 0 → s.sideFault c im.pages (side d.record) 0 [] [(0, 32)] = none → s.sideFault c im.pages (side d.record) 1 [] [(0, 32)] = none →
      (x.step ≠ im.stepStart ∨ d.resume = true → ∃ t, exec (.lsupdatePrepare c) s = .next t ∧ SameMem s t ∧
        ∀ e ∈ (t.core c).window, e.uid = x.uid → e.phase = .done ∧ e.value = 1) ∧
      (∀ q, x.step = im.stepStart → d.resume = false → NoErrors s → NothingBound s c x.uid → (side d.record).pieces im.pages 1 [(0, 32)] = [q] →
        q.len = 32 → ∃ t, exec (.lsupdatePrepare c) s = .next t ∧
          readBytes (t.cells q.place) q.addr 32 = (⟨d.init, 0, 0, 0⟩ : State.LossRec).bytes x.step ∧ SameMemBut q.place q.addr 32 s t ∧
          ∀ e ∈ (t.core c).window, e.uid = x.uid → e.phase = .done ∧ e.value = 1)) ∧
    (getF x.op 43 43 = 1 → d.status % 64 = 0 → NoErrors s → NothingBound s c x.uid → s.sideFault c im.pages (side d.status) 0 [] [(0, 64)] = none →
      s.sideFault c im.pages (side d.record) 0 [] [(0, 32)] = none → s.sideFault c im.pages (side d.record) 1 [] [(0, 32)] = none →
      ∀ q, (side d.record).pieces im.pages 1 [(0, 32)] = [q] → q.len = 32 →
        let w := Claims.bytesIn s ((side d.status).pieces im.pages 0 [(0, 64)])
        let old := State.LossRec.ofBytes (Claims.bytesIn s ((side d.record).pieces im.pages 0 [(0, 32)]))
        let want := if d.stat then x.step - 1 else x.step
        let r := State.lossDecide d old (decide (le w 4 4 % 4 ≠ 0) || decide (le w 0 4 ≠ want.toNat)) (le w 12 4)
        ∃ t, exec (.lsupdateDecide c) s = .next t ∧ readBytes (t.cells q.place) q.addr 32 = r.2.bytes x.step ∧
          SameMemBut q.place q.addr 32 s t ∧ ∀ e ∈ (t.core c).window, e.uid = x.uid → e.phase = .done ∧ e.value = BitVec.ofNat 32 r.1)

/-- FERRY binds the regions that its list names and starts its export; a block about to be written whose reading has not begun is copied
once, while the buffer has room; the end sends the trailer and counts the export; an abort counts, marks and sends ABORTED where the queue pair works; both let the
instruction complete (R437-R442, R448). -/
def Claims.FerryExports : Prop :=
  (∀ (s : State) (c : CoreId) (p : PartId) (x : Entry) (im : PartImg), NoErrors s → (s.core c).part = some p.val → s.imgOf c = some im →
    Fires s c 5 0x7C (s.strmAccepts c) x →
    let d := s.desc c (getF x.op 55 44)
    let n := dF d 1 1
    let list : Side := ⟨true, none, dF d 8 6⟩
    let b := Claims.bytesIn s (list.pieces im.pages 0 [(0, 64 + 32 * n)])
    let regs := (List.range n).map fun i => (le b (64 + 32 * i) 8 % 2 ^ 48, le b (72 + 32 * i) 8)
    s.sideFault c im.pages list 0 [] [(0, 64 + 32 * n)] = none → s.sideFault c im.pages list 1 [] [(16, 48)] = none →
    s.sideFault c im.pages ⟨true, none, dF d 0x10 6⟩ 1 [] [(0, dF d 0x18 4 * 65536)] = none →
    s.sideFault c im.pages ⟨true, none, 0⟩ 0 [] regs = none →
    ∃ t f, exec (.ferry c) s = .next t ∧ SameMem s t ∧ t.ferries = s.ferries ++ [f] ∧ f.part = p.val ∧ f.core = c.val ∧ f.uid = x.uid ∧
      f.step = x.step ∧ f.seq = (s.part p).ferrySeq + 1 ∧ f.qpn = dF d 4 3 ∧ f.regions.map (fun r => (r.1, r.2.1)) = regs ∧ f.old = [] ∧
      f.bound = State.spansOf (regs.flatMap fun r => piecesOf im.pages 0 r.1 r.2) ∧ ∀ e ∈ (t.core c).window, e.uid = x.uid → e.phase = .fired) ∧
  (∀ (s : State) (p : PartId) (f : Ferry) (im : PartImg), s.ferryOf p = some f → (s.part p).img = some im →
    (∀ block, (f.old.has block = true ∨ f.bufBlocks ≤ f.old.length ∨ State.inBlock f.regions block = [] ∨
        State.blockBegun f block = true →
        exec (.ferryBlockCopied p block) s = .next s) ∧
      (NoErrors s → f.old.has block = false → f.old.length < f.bufBlocks → State.inBlock f.regions block ≠ [] →
        State.blockBegun f block = false →
        ∃ t g, exec (.ferryBlockCopied p block) s = .next t ∧ t.ferryOf p = some g ∧ g.old.get [] block =
          (State.inBlock f.regions block).flatMap (fun r => Claims.bytesIn s (piecesOf im.pages 0 r.1 r.2)) ∧
          ∀ k, k ≠ block → g.old.get [] k = f.old.get [] k)) ∧
    (s.qpWorks f.qpn = false → exec (.ferryExportEnd p) s = .next s) ∧
    (s.qpWorks f.qpn = true → NoErrors s → ∃ t, exec (.ferryExportEnd p) s = .next t ∧ t.ferryOf p = none ∧
      Claims.QpSent s t f.qpn (.write f.tRkey f.tRaddr.toNat
        (State.ferryTrailer f (if f.damaged = 0 then 0 else 1) (sumN (f.regions.map fun r => r.2.1)) true)) ∧
      t.regF .ferryStatus [] 63 48 = min (s.regF .ferryStatus [] 63 48 + 1) 0xFFFF ∧
      ∀ e ∈ (t.core f.core).window, e.uid = f.uid → e.phase = if t.hasHeld f.core f.uid = true then .held else .done) ∧
    (NoErrors s → ∃ t n, exec (.ferryAbort p) s = .next t ∧ t.ferryOf p = none ∧
      t.regF .ferryStatus [] 15 8 = min (s.regF .ferryStatus [] 15 8 + 1) 0xFF ∧
      (s.qpWorks f.qpn = true → Claims.QpSent s t f.qpn (.write f.tRkey f.tRaddr.toNat (State.ferryTrailer f 2 n true))) ∧
      ∀ e ∈ (t.core f.core).window, e.uid = f.uid → e.phase = if t.hasHeld f.core f.uid = true then .held else .done))

/-- No byte of a piece is bound by a load other than the entry's own, and the entry has no byte held (R77). -/
def Claims.FreeToWrite (s : State) (c uid : Nat) (q : Piece) : Prop :=
  s.hasHeld c uid = false ∧ ∀ b ∈ s.boundSpans c uid, b.1.place = q.place → b.1.lo + b.1.len ≤ q.addr ∨ q.addr + q.len ≤ b.1.lo

/-- XSEND and XRECV: the first of a pair waits with its bytes or its place; the second moves the sender's bytes to the receiver's extent
and both are done (R444); a peer that does not run faults the instruction with COPY_REFUSED (R445). -/
def Claims.PartitionsExchange : Prop :=
  ∀ (s : State) (c : CoreId) (p : PartId) (x : Entry), NoErrors s → (s.core c).part = some p.val → s.isRunning p = true →
    let peer := getF x.op 43 40
    let slot := getF x.op 39 36
    let e := s.xExtent c x.op
    let side : Side := ⟨true, none, e.1⟩
    let src := side.pieces (s.pagesOf c) 0 [(0, e.2)]
    let turn := fun (send : Bool) => (s.part p).xcount.get 0 (State.xKey peer slot send)
    let mate := fun (send : Bool) (w : XWait) => w.send != send && w.peer == p.val && w.slot == slot && w.k == turn send
    (∀ send i oc, (send, i, oc) ∈ [(true, Instr.xsend c, 0x76), (false, Instr.xrecv c, 0x77)] → Fires s c 5 oc (s.strmAccepts c) x →
      s.sideFault c (s.pagesOf c) side (if send then 0 else 1) [] [(0, e.2)] = none →
      (s.isRunning peer = false → ∃ t, exec i s = .next t ∧ SameMem s t ∧ HaltedWith t p 7) ∧
      (s.isRunning peer = true → (s.part peer).xwaits.find? (mate send) = none → ∃ t w, exec i s = .next t ∧ SameMem s t ∧
        (t.part p).xwaits = (s.part p).xwaits ++ [w] ∧ w.send = send ∧ w.core = c.val ∧ w.uid = x.uid ∧ w.peer = peer ∧ w.slot = slot ∧
        w.k = turn send ∧ w.data = (if send then Claims.bytesIn s src else []) ∧
        (t.part p).xcount.get 0 (State.xKey peer slot send) = turn send + 1 ∧ ∀ k ∈ (t.core c).window, k.uid = x.uid → k.phase = .fired)) ∧
    (∀ (w : XWait) (b : Entry) (q : Piece), s.isRunning peer = true → ¬ (w.core = c.val ∧ w.uid = x.uid) → s.entry? w.core w.uid = some b →
      (Fires s c 5 0x76 (s.strmAccepts c) x → (s.part peer).xwaits.find? (mate true) = some w →
        s.sideFault c (s.pagesOf c) side 0 [] [(0, e.2)] = none → (s.xExtent w.core b.op).2 = (Claims.bytesIn s src).length →
        piecesOf (s.pagesOf w.core) 1 (s.xExtent w.core b.op).1 (s.xExtent w.core b.op).2 = [q] → q.len = (Claims.bytesIn s src).length →
        Claims.FreeToWrite s w.core w.uid q → s.hasHeld c x.uid = false → Claims.Apart (q :: src) → ∃ t, exec (.xsend c) s = .next t ∧
          readBytes (t.cells q.place) q.addr q.len = Claims.bytesIn s src ∧ SameMemBut q.place q.addr q.len s t ∧
          (∀ k ∈ (t.core c).window, k.uid = x.uid → k.phase = .done) ∧ ∀ k ∈ (t.core w.core).window, k.uid = w.uid → k.phase = .done) ∧
      (Fires s c 5 0x77 (s.strmAccepts c) x → s.entry? c x.uid = some x → (s.part peer).xwaits.find? (mate false) = some w →
        s.sideFault c (s.pagesOf c) side 1 [] [(0, e.2)] = none → e.2 = w.data.length → piecesOf (s.pagesOf c) 1 e.1 e.2 = [q] → q.len = e.2 →
        Claims.FreeToWrite s c x.uid q → s.hasHeld w.core w.uid = false → ∃ t, exec (.xrecv c) s = .next t ∧
          readBytes (t.cells q.place) q.addr q.len = w.data ∧ SameMemBut q.place q.addr q.len s t ∧
          (∀ k ∈ (t.core c).window, k.uid = x.uid → k.phase = .done) ∧ ∀ k ∈ (t.core w.core).window, k.uid = w.uid → k.phase = .done))

/-- The ferry, and the exchange between partitions. -/
def Obligations.FerryAndExchange : Prop :=
  Claims.FerryExports ∧ Claims.PartitionsExchange

/-! ### Copies of shards -/

/-- SAVE to the mirror, the cartridge and the shared store (R450-R457). A SAVE of a slot with no shard moves nothing to the mirror. With one,
a mirror SAVE waits for COMMIT_M to reach the step before its own, and then reads its extent, writes the home buffer and sends its bytes to
the partner;
a cartridge SAVE sends them to the module that keeps the checkpoint; a store SAVE writes them over its queue pair, behind the
acknowledgement of its slot's last extent the trailer, and is done when that is acknowledged. -/
def Claims.ShardsAreSaved : Prop :=
  (∀ (s : State) (c : CoreId) (p : PartId) (x : Entry), NoErrors s → (s.core c).part = some p.val →
    s.oldestReady c 5 (s.strmAccepts c) = some x → x.opcode = 0x78 →
    let d := s.saveDesc c x
    let side : Side := ⟨true, none, d.va⟩
    let bs := Claims.bytesIn s (side.pieces (s.pagesOf c) 0 [(0, d.len)])
    let fresh := ∀ w ∈ s.saves, ¬ (w.core = c.val ∧ w.uid = x.uid)
    (getF x.op 43 42 = 0 → s.slotShard p d.slot = none → ∃ t, exec (.saveMirror c) s = .next t ∧ SameMem s t ∧ t.saves = s.saves ∧
      ∀ e ∈ (t.core c).window, e.uid = x.uid → e.phase = .done) ∧
    (∀ shard m, getF x.op 43 42 = 0 → s.slotShard p d.slot = some (shard, m) → s.sideFault c (s.pagesOf c) side 0 [] [(0, d.len)] = none → fresh →
      (State.gateReached s.commitM (x.step - 1) = false → ∃ t v, exec (.saveMirror c) s = .next t ∧ SameMem s t ∧ t.saves = s.saves ++ [v] ∧
        v.core = c.val ∧ v.uid = x.uid ∧ v.dest = 0 ∧ v.shard = shard ∧ v.data = [] ∧ v.gated = true ∧ t.waiting = s.waiting ∧
        ∀ e ∈ (t.core c).window, e.uid = x.uid → e.phase = .fired) ∧
      (∀ k, State.gateReached s.commitM (x.step - 1) = true → s.entryOf p shard = some k → bs ≠ [] →
        let a := s.bufAddr k.homeFrame.toNat (s.areaLen p d.slot) x.step + d.off
        ∃ t, exec (.saveMirror c) s = .next t ∧ readBytes t.slow.data a bs.length = bs ∧ SameMemBut (.tier true) a bs.length s t ∧
          (∃ v ∈ t.saves, v.core = c.val ∧ v.uid = x.uid ∧ v.gated = false ∧ v.waiting = (chunksOf saveMax bs).length) ∧
          ((s.routeOf p k.partner 1).isSome → s.saveStopped = false → ∃ ws, t.waiting = s.waiting ++ ws ∧ ws.length = (chunksOf saveMax bs).length ∧
            ws.flatMap (fun w => w.msg.data.drop 16) = bs ∧ ∀ w ∈ ws, w.msg.mtype = 0x10 ∧ w.msg.dest = k.partner))) ∧
    (∀ shard m, getF x.op 43 42 = 1 → s.slotShard p d.slot = some (shard, m) → s.sideFault c (s.pagesOf c) side 0 [] [(0, d.len)] = none →
      (s.routeOf p m.ckpt 3).isSome → s.saveStopped = false → ∃ t ws v, exec (.saveCartridge c) s = .next t ∧ SameMem s t ∧ t.saves = s.saves ++ [v] ∧ v.dest = 1 ∧
        v.core = c.val ∧ v.uid = x.uid ∧ t.waiting = s.waiting ++ ws ∧ ws.flatMap (fun w => w.msg.data.drop 16) = bs ∧
        (∀ w ∈ ws, w.msg.mtype = 0x20 ∧ w.msg.dest = m.ckpt) ∧ ∀ e ∈ (t.core c).window, e.uid = x.uid → e.phase = .fired) ∧
    (∀ st, getF x.op 43 42 = 2 → (s.part p).store = some st → s.qpWorks st.qpn = true → s.sideFault c (s.pagesOf c) side 0 [] [(0, d.len)] = none →
      let shard := ((s.slotShard p d.slot).map (·.1)).getD d.slot
      ∃ t v, exec (.saveStore c) s = .next t ∧ SameMem s t ∧ (∀ e ∈ (t.core c).window, e.uid = x.uid → e.phase = .fired) ∧
        t.saves = s.saves ++ [v] ∧ v.core = c.val ∧ v.uid = x.uid ∧ v.dest = 2 ∧ v.shard = shard ∧
        v.store = some ⟨st.qpn, st.rkey, st.base + shard * st.stride + st.stride - 16, d.index, d.count⟩ ∧
        (s.saveStopped = false → Claims.QpSent s t st.qpn (.write st.rkey (st.base + shard * st.stride + d.off) bs)))) ∧
  (∀ (s : State) (n : NetId) (k : Fin 2) (qpn : BitVec 24) (v : Save) (a : SaveStore) (rest : List Save), n.val = k.val + 1 →
    s.frameIn n = true → (s.liveQp k qpn.toNat).isSome → s.savesOn qpn.toNat = v :: rest → v.store = some a →
    let gen := ((s.mapOf v.part).map (·.jobgen)).getD 0
    (v.gated = false → a.count = 1 → ∃ t, exec (.ethFrameReceive n (.roceAck qpn 1)) s = .next t ∧ SameMem s t ∧ t.cores = s.cores ∧
      (s.saveStopped = false → Claims.QpSent s t a.qpn
        (.write a.rkey a.trailer (beBytes 4 0x53485244 ++ beBytes 4 v.step.toNat ++ beBytes 4 gen.toNat ++ fill 4 0))) ∧
      ∃ w ∈ t.saves, w.core = v.core ∧ w.uid = v.uid ∧ w.gated = true) ∧
    (v.gated = true → ∃ t u, exec (.ethFrameReceive n (.roceAck qpn 1)) s = .next t ∧ SameMem s t ∧ Claims.BufferLook n u t ∧ u.out = s.out ∧
      (∀ w ∈ t.saves, ¬ (w.core = v.core ∧ w.uid = v.uid)) ∧ ∀ e ∈ (t.core v.core).window, e.uid = v.uid → e.phase = .done)) ∧
  (∀ (s : State) (c : CoreId) (uid : Nat) (v : Save) (k : MapEntry) (e : Entry), NoErrors s →
    s.saves.find? (fun w => decide (w.core = c.val ∧ w.uid = uid) && w.dest == 0 && w.gated) = some v →
    (State.gateReached s.commitM (v.step - 1) = false → exec (.mirrorGateOpen c uid) s = .next s) ∧
    (State.gateReached s.commitM (v.step - 1) = true → s.entryOf v.part v.shard = some k → s.entry? c uid = some e →
      let a := s.bufAddr k.homeFrame.toNat (s.areaLen v.part v.slot) v.step + v.areaOff
      let bs := Claims.bytesIn s (s.savePieces c (s.saveDesc c e))
      ∃ t, exec (.mirrorGateOpen c uid) s = .next t ∧ readBytes t.slow.data a bs.length = bs ∧
        SameMemBut (.tier true) a bs.length s t))

/-- Messages with shards: mirror data is written to the area of its generation; a request is answered from a complete buffer of its step;
checkpoint data is written to the cartridge slot it belongs to, whose header is written when it is complete, and a last one is answered; a message of another generation is dropped and
counted (R385, R454, R455, R458). -/
def Claims.ShardsAreReceived : Prop :=
  ∀ (s : State) (p : PortId) (m : Msg) (rest : List Msg), NoErrors s → (s.port p).inbox = m :: rest → (s.cl (p.val / 2)).restarting = false →
    let q := State.parseSave m
    (∀ i ty, (i, ty) ∈ [(Instr.mirrorWrite p, 0x10), (.mirrorServe p, 0x11), (.ckptXfer p, 0x20)] → m.type = ty → q.gen ≠ s.collGen →
      ∃ t, exec i s = .next t ∧ t = { s with mrs := t.mrs, ports := t.ports } ∧ (t.port p).inbox = rest ∧
        t.regF .collErr [p.val / 2] 15 0 = min (s.regF .collErr [p.val / 2] 15 0 + 1) 0xFFFF) ∧
    (q.gen = s.collGen →
      (∀ k, m.type = 0x10 → s.entryOf q.part q.shard = some k → k.partner = s.moduleIx →
        let len := s.areaLen q.part k.slot.toNat
        let a := s.bufAddr k.resFrame.toNat len q.step + q.off
        q.off + q.data.length ≤ len → ∃ t, exec (.mirrorWrite p) s = .next t ∧ (t.port p).inbox = rest ∧
          readBytes t.slow.data a q.data.length = q.data ∧ SameMemBut (.tier true) a q.data.length s t ∧
          ∃ b ∈ t.job.bufs, b.part = q.part ∧ b.shard = q.shard ∧ b.home = false ∧ b.step = q.step) ∧
      (∀ b, m.type = 0x11 → q.phase = 1 → s.localBuf q.part q.shard q.step = some b → q.off + be q.data 0 8 ≤ b.len →
        (s.routeOf q.part m.src 1).isSome → ∃ t ws, exec (.mirrorServe p) s = .next t ∧ SameMem s t ∧ (t.port p).inbox = rest ∧
          t.waiting = s.waiting ++ ws ∧ ws.flatMap (fun w => w.msg.data.drop 16) = readBytes s.slow.data (b.addr + q.off) (be q.data 0 8) ∧
          ∀ w ∈ ws, w.msg.mtype = 0x11 ∧ w.msg.dest = m.src) ∧
      (∀ k, m.type = 0x20 → q.phase % 8 = 0 → q.data ≠ [] → q.pin = false → s.entryOf q.part q.shard = some k → k.ckpt = s.moduleIx →
        s.cartState = 3 → q.off + q.data.length ≤ s.areaLen q.part k.slot.toNat → s.ckUnit q.part k 3 ≤ State.cartUnits →
        let u := s.ckUnit q.part k (s.ckSlot q.part q.shard k q.step)
        let gen := ((s.mapOf q.part).map (·.jobgen)).getD 0
        let begins := s.cart.heads.find? (fun h => h.1 == u && h.2.step == q.step && h.2.jobgen == gen && !h.2.complete) = none
        ∃ t, exec (.ckptXfer p) s = .next t ∧ (t.port p).inbox = rest ∧ SameMem s t ∧
          readBytes t.cart.data ((u + 1) * mib2 + q.off) q.data.length = q.data ∧
          (∃ h, (u, h) ∈ t.cart.heads ∧ h.part = q.part ∧ h.shard = q.shard ∧ h.step = q.step ∧
            t.cart.written = s.cart.written + q.data.length + (if h.complete = true ∨ begins then 28 else 0) ∧
            (h.complete = false → begins → readBytes t.cart.data (u * mib2) 28 = fill 28 0) ∧
            (h.complete = true → readBytes t.cart.data (u * mib2) 28 = State.headBytes h)) ∧
          (8 ≤ q.phase → (s.routeOf q.part m.src 3).isSome → ∃ w, t.waiting = s.waiting ++ [w] ∧ w.msg.mtype = 0x20 ∧ w.msg.dest = m.src) ∧
          (q.phase < 8 → t.waiting = s.waiting)))

/-- Heartbeats and what they lead to (R464-R467). A round goes to every module named, under the next number,
and PERIOD as it stands holds from it on (R475); one received is noted with its
tick, and one of the coordinator with a newer generation declares it here: the job partitions halt and the state is HALTED. Three periods of
silence declare a module lost at the coordinator, and make the deputy coordinator; ten periods without a ROLE 1 heartbeat make the module an
ORPHAN. -/
def Obligations.HeartbeatsKeepTheJob : Prop :=
  (∀ s : State, s.ready = true → s.role ≠ 1 → ∃ t, exec .heartbeatSend s = .next t ∧ t.job.hseq = s.job.hseq + 1 ∧ t.out = s.out ∧
    t.period = s.regF .jobHb [] 31 0 ∧ SameMem s t ∧ ∀ m ∈ s.beatTargets, (s.anyRoute (BitVec.ofNat 16 m) 0).isSome → ∃ w ∈ t.waiting, w.msg.mtype = 0x31 ∧ w.msg.dest = BitVec.ofNat 16 m) ∧
  (∀ (s : State) (p : PortId) (m : Msg) (rest : List Msg), s.ready = true → (s.port p).inbox = m :: rest → m.mtype = 0x31 →
    (∃ t, exec (.heartbeat p) s = .next t ∧ (t.port p).inbox = rest ∧
      let x := t.job.peers.get State.noPeer m.src.toNat
      x.heard = s.tick ∧ x.hseq = BitVec.ofNat 32 (be m.data 0 4) ∧ x.jobgen = BitVec.ofNat 32 (be m.data 4 4) ∧ x.role = be m.data 8 1 ∧
        x.state = be m.data 9 1 ∧ x.mapcrc = BitVec.ofNat 32 (be m.data 0x3C 4)) ∧
    (s.job.maps ≠ [] → be m.data 8 1 = 1 → s.genNow.toNat < be m.data 4 4 → s.me ∉ State.lostOf m.data →
      s.regF .jobStatus [] 27 24 ≠ 7 → s.regF .jobStatus [] 27 24 ≠ 8 → ∃ t, exec (.heartbeat p) s = .next t ∧
        t.job.declGen = BitVec.ofNat 32 (be m.data 4 4) ∧ t.job.lost = setOf (State.lostOf m.data) ∧ t.job.coord = some m.src.toNat ∧
        t.regF .jobStatus [] 27 24 = 2 ∧ ∀ q : PartId, q.val ∈ s.jobParts → t.isRunning q = false)) ∧
  (∀ (s : State) (m : Half), s.ready = true →
    (s.silence (s.peer m.toNat).heard < 3 * s.period → exec (.heartbeatMissed m) s = .next s) ∧
    (3 * s.period ≤ s.silence (s.peer m.toNat).heard → s.role = 1 → m.toNat ∈ State.modulesOf s.job.maps → m.toNat ∉ s.job.lost →
      m.toNat ≠ s.me → ∃ t, exec (.heartbeatMissed m) s = .next t ∧ m.toNat ∈ t.job.lost ∧ t.job.declGen = s.genNow + 1)) ∧
  (∀ (s : State) (c : Nat), s.ready = true → s.job.coord = some c → c < 65536 →
    (s.silence (s.peer c).heard < 3 * s.period → exec .deputyTakeover s = .next s) ∧
    (3 * s.period ≤ s.silence (s.peer c).heard → s.role = 2 → ∃ t, exec .deputyTakeover s = .next t ∧ t.role = 1 ∧ t.job.coord = some s.me ∧
      c ∈ t.job.lost ∧ t.job.declGen = s.genNow + 1)) ∧
  (∀ s : State, s.ready = true → s.job.maps ≠ [] → s.role ≠ 1 → s.regF .jobStatus [] 27 24 ≠ 7 → s.regF .jobStatus [] 27 24 ≠ 8 →
    (s.silence s.job.role1 < 10 * s.period → exec .orphanTimeout s = .next s) ∧
    (10 * s.period ≤ s.silence s.job.role1 → ∃ t, exec .orphanTimeout s = .next t ∧ t.regF .jobStatus [] 27 24 = 7 ∧
      (∀ q : PartId, q.val ∈ s.jobParts → t.isRunning q = false) ∧ SameMem s t))

/-- SHARD_RESTORE_COMPLETE for a shard served by messages: with bytes still to come nothing changes, with all of them the shard's load is
over, and the last one of a module that is not the coordinator makes its state RESTORED (R468). -/
def Claims.ShardsAreRestored : Prop :=
  ∀ (s : State) (p : PartId) (shard : Nat) (n : Word) (e : MapEntry) (src got : Nat) (more : FMap (Nat × Nat)), s.ready = true →
    s.job.resume = some n → s.entryOf p shard = some e → s.regF .jobStatus [] 27 24 = 4 → s.job.loads = (State.loadKey p shard, (src, got)) :: more →
    (src = 2 ∨ src = 4) → s.role ≠ 1 →
    (got < s.slotBytes p e.slot.toNat → exec (.shardRestoreComplete p shard) s = .next s) ∧
    (s.slotBytes p e.slot.toNat ≤ got → ∃ t, exec (.shardRestoreComplete p shard) s = .next t ∧ t.job.loads.has (State.loadKey p shard) = false ∧
      (more = [] → t.regF .jobStatus [] 27 24 = 5) ∧ SameMem s t ∧ t.cores = s.cores)

/-- Copies of shards: saved, received and restored. -/
def Obligations.CopiesOfShards : Prop :=
  Claims.ShardsAreSaved ∧ Claims.ShardsAreReceived ∧ Claims.ShardsAreRestored

/-! ### Energy -/

/-- WEIR_WINDOW_START (R478, R479, R484, R487, R488): while the Weir runs a window's budget, what it may admit, its grants to every account,
its reconciliation of each rail group, and a voltage that moves one code at most, or an emergency where the junction it measures is 10 °C
beyond TJ_LIMIT (R490); nothing else of the machine changes. -/
def Claims.WindowsAreGranted : Prop :=
  ∀ (s : State) (m : WeirMeasure),
    (s.weir.running = false → exec (.weirWindowStart m) s = .next s) ∧
    (s.weir.running = true →
      let watts := if s.feedA.valid = true ∧ s.feedB.valid = true then s.regF .weirBudget [] 11 0 else min (s.regF .weirBudget [] 11 0) 1500
      let b := if s.weir.windows < 256 then watts * 8 * mjUnits / 10 else watts * mjUnits
      let first := s.weir.windows = 0
      let measured := fromMeasure m.total
      let base := if first then Config.idleEnergy * mjUnits else measured - sumN ((List.range 5).map fun g => s.weir.predicted.get 0 g)
      let excess := if first then 0 else measured - s.weir.bEff
      let share := fun (p : Nat) => (((s.part p).img).map (·.energyShare)).getD 0
      ∃ t, exec (.weirWindowStart m) s = .next t ∧ t.weir.windows = s.weir.windows + 1 ∧ t.weir.predicted = [] ∧ t.weir.bEff = b ∧
        t.weir.eAdm = b - base - excess ∧ t.regF .weirBudget [] 43 32 = b / mjUnits ∧ t.regF .weirStatus [] 63 56 = min m.junction 255 ∧
        (s.regF .weirCtrl [] 31 24 + 10 ≤ min m.junction 255 → t.regF .weirStatus [] 4 4 = 1 ∧ t.vcode = 0) ∧
        (min m.junction 255 < s.regF .weirCtrl [] 31 24 + 10 →
          t.regF .weirStatus [] 4 4 = 0 ∧ t.vcode ≤ s.vcode + 1 ∧ s.vcode ≤ t.vcode + 1) ∧
        (first → t.reg .weirRecon [] = s.reg .weirRecon []) ∧
        (¬ first → ∀ g, g < 5 → t.recon g = if mjUnits < s.weir.predicted.get 0 g then
          reconStep (s.recon g) (fromMeasure (m.groups.getD g 0 - Config.groupIdle g s.vcode m.junction)) (s.weir.predicted.get 0 g)
          else s.recon g) ∧
        (∀ p : PartId, s.isRunning p = true → t.weir.accts.get 0 p.val =
          max (s.weir.accts.get 0 p.val) (min (s.weir.accts.get 0 p.val + (t.weir.eAdm * share p / 1000 : Nat)) (2 * (t.weir.eAdm * share p / 1000) : Nat))) ∧
        (∀ p, s.isRunning p = false → t.weir.accts.get 0 p = s.weir.accts.get 0 p) ∧
        t.weir.reserve = max s.weir.reserve (min (s.weir.reserve + (t.reserveGrant : Nat)) (2 * t.reserveGrant : Nat)) ∧
        t.weir.spare = max s.weir.spare (min (s.weir.spare + (t.spareGrant : Nat)) (2 * t.spareGrant : Nat)) ∧
        t.cores = s.cores ∧ t.clusters = s.clusters ∧ (∀ p, t.pstate p = s.pstate p) ∧ SameMem s t)

/-- CHARGE_ADMISSION for a core (R485, R486, R506). With a window running and no emergency, a charge that its partition's account covers is
taken from it; one that the account and the spare pool cover together empties the account; an account at twice its grant pays
beyond it; any other waits, and is counted once. An account that has been negative takes nothing from the pool until grants have raised it to
the charge or to its ceiling: that reading is log 21's (DEDUCED). -/
def Claims.CoreChargesAreAdmitted : Prop :=
  ∀ (s : State) (c : CoreId) (p : PartId) (e : Entry), (s.core c).part = some p.val → s.presented c = some e →
    let cost : Int := s.partCost p ((s.charges c e).getD e.paid [])
    let a := s.weir.accts.get 0 p.val
    let sp := s.weir.spare
    let ceil : Int := 2 * s.grantOf p
    let admits := fun (a' sp' : Int) => ∃ t, exec (.chargeAdmission (.core c)) s = .next t ∧ t.weir.accts.get 0 p.val = a' ∧ t.weir.spare = sp' ∧
      (∀ q, q ≠ p.val → t.weir.accts.get 0 q = s.weir.accts.get 0 q) ∧ ((t.part p).energy : Int) = (s.part p).energy + cost ∧
      t.weir.waiting.has c.val = false ∧ (∀ k, k ≠ c.val → t.core k = s.core k) ∧ SameMem s t ∧ t.mrs = s.mrs ∧
      ∀ x ∈ (t.core c).window, x.uid = e.uid → x.paid = e.paid + 1 ∧ (x.admitted = true ↔ (s.charges c e).length ≤ e.paid + 1)
    (s.mayFire c = false → exec (.chargeAdmission (.core c)) s = .next s) ∧
    (s.mayFire c = true → 0 < s.weir.windows → s.regF .weirStatus [] 4 4 = 0 →
      (0 ≤ a → cost ≤ a → admits (a - cost) sp) ∧
      (0 ≤ a → a < cost → cost ≤ a + sp → p.val ∉ s.weir.debt → admits 0 (sp - (cost - a))) ∧
      (0 ≤ a → a < cost → (a + sp < cost ∨ p.val ∈ s.weir.debt) → ceil ≤ a → admits (a - cost) sp)) ∧
    (s.mayFire c = true →
      (s.weir.windows = 0 ∨ s.regF .weirStatus [] 4 4 = 1 ∨ a < 0 ∨ (a < cost ∧ (a + sp < cost ∨ p.val ∈ s.weir.debt) ∧ a < ceil)) →
      ∃ t, exec (.chargeAdmission (.core c)) s = .next t ∧ t.weir.waiting.get (0, 0) c.val = (e.uid, e.paid) ∧ t.cores = s.cores ∧
        t.weir.accts = s.weir.accts ∧ t.weir.spare = sp ∧ SameMem s t ∧
        (s.weir.waiting.has c.val = false → t.regF .weirAcct [p.val] 15 0 = min (s.regF .weirAcct [p.val] 15 0 + 1) 0xFFFF))

/-- The engines' charges (R482, R487). A collective engine's oldest message goes when the reserve and the spare pool pay for it, or by
COLLECTIVE_FLOOR_SEND when they cannot, the reserve going down by its cost; an ingest engine's next picture waits for its partition's
account, counted once. -/
def Claims.EngineChargesAreAdmitted : Prop :=
  ∀ (s : State) (cl : ClusterId),
    ((s.cl cl).due = [] → exec (.chargeAdmission (.collective cl)) s = .next s ∧ exec (.collectiveFloorSend cl) s = .next s) ∧
    (∀ d rest, (s.cl cl).due = d :: rest →
      let cost : Int := s.partCost d.part (State.dueCharge d)
      let admitted := (s.admitReserve d.part (State.dueCharge d)).isSome
      let goes := fun (i : Instr) (t : State) => exec i s = .next t ∧ (t.cl cl).due = rest ∧ (∃ w, t.waiting = s.waiting ++ [w] ∧ w.ports = d.ports ∧
        w.purpose = d.purpose ∧ w.msg = { d.msg with data := w.msg.data }) ∧ SameMem s t ∧ t.cores = s.cores ∧ t.weir.accts = s.weir.accts
      (admitted = true → exec (.collectiveFloorSend cl) s = .next s ∧ ∃ t, goes (.chargeAdmission (.collective cl)) t ∧
        t.weir.reserve + t.weir.spare = s.weir.reserve + s.weir.spare - cost) ∧
      (admitted = false → (∃ t, exec (.chargeAdmission (.collective cl)) s = .next t ∧ t.clusters = s.clusters ∧ t.cores = s.cores ∧
        t.weir.accts = s.weir.accts ∧ t.weir.reserve = s.weir.reserve ∧ t.weir.spare = s.weir.spare ∧ SameMem s t) ∧ ∃ t, goes (.collectiveFloorSend cl) t ∧
        t.weir.reserve = s.weir.reserve - cost ∧ t.weir.spare = s.weir.spare)) ∧
    (∀ j rest, (s.cl cl).ingQ = j :: rest → j.started = true → j.admitted = false →
      ((s.admitPart j.part (State.pictureCharge j)).isNone → ∃ t, exec (.chargeAdmission (.ingest cl)) s = .next t ∧ t.clusters = s.clusters ∧
        t.cores = s.cores ∧ t.weir.accts = s.weir.accts ∧ t.weir.reserve = s.weir.reserve ∧ t.weir.spare = s.weir.spare ∧ SameMem s t ∧
        (s.weir.waiting.has (128 + cl.val) = false → t.regF .weirAcct [j.part] 15 0 = min (s.regF .weirAcct [j.part] 15 0 + 1) 0xFFFF)) ∧
      ((s.admitPart j.part (State.pictureCharge j)).isSome → ∃ t, exec (.chargeAdmission (.ingest cl)) s = .next t ∧
        (t.cl cl).ingQ = { j with admitted := true } :: rest ∧ SameMem s t ∧ t.cores = s.cores))

/-- The Weir: its windows, and the charges of cores and engines. -/
def Obligations.TheWeirAdmits : Prop :=
  Claims.WindowsAreGranted ∧ Claims.CoreChargesAreAdmitted ∧ Claims.EngineChargesAreAdmitted

/-- Emergencies (R489, R490): a junction at TJ_LIMIT + 10 °C, or a feed lost while the other is valid, stops admission once the Weir
runs and takes the voltage code to 0, where the rail's 0.75 V before the first window does not stand (R478); with neither feed valid the compute die is off, and what flash, fuses, the cartridge and the meter hold stays. -/
def Claims.EmergenciesAndFeeds : Prop :=
  (∀ (s : State) (tj : Byte),
    ((s.weir.running = false ∨ tj.toNat < s.regF .weirCtrl [] 31 24 + 10) → exec (.junctionEmergency tj) s = .next s) ∧
    (s.weir.running = true → s.regF .weirCtrl [] 31 24 + 10 ≤ tj.toNat → ∃ t, exec (.junctionEmergency tj) s = .next t ∧ OnlyRegs s t ∧
      SameRegsBut [RegId.weirStatus.row.base] s t ∧ t.regF .weirStatus [] 4 4 = 1 ∧ t.vcode = (if s.weir.windows = 0 then s.vcode else 0) ∧
      t.regF .weirStatus [] 63 56 = tj.toNat)) ∧
  (∀ (s : State) (f : Fin 2),
    (∃ t, exec (.feedPresMate f) s = .next t ∧ t = { s with feedA := t.feedA, feedB := t.feedB } ∧
      t.feed f = { s.feed f with mated := true } ∧ t.feed (1 - f.val) = s.feed (1 - f.val)) ∧
    ((s.feed f).mated = false → exec (.feedValid f) s = .next s) ∧
    ((s.feed f).mated = true → ∃ t, exec (.feedValid f) s = .next t ∧ t = { s with feedA := t.feedA, feedB := t.feedB, mrs := t.mrs } ∧
      t.feed f = { s.feed f with valid := true } ∧ t.feed (1 - f.val) = s.feed (1 - f.val) ∧ t.regF .weirStatus [] (32 + f.val) (32 + f.val) = 1 ∧
      t.regF .weirStatus [] 0 0 = if (s.feed (1 - f.val)).valid = true then 0 else 1) ∧
    ((s.feed f).mated = true → (s.feed f).valid = true → ∃ t, exec (.feedRegulatorConnect f) s = .next t ∧
      t.feed f = { s.feed f with connected := true } ∧ t = { s with feedA := t.feedA, feedB := t.feedB }) ∧
    ((s.feed f).valid = false → exec (.feedInvalid f) s = .next s ∧ ∃ t, exec (.feedPresBreak f) s = .next t ∧
      t.feed f = { s.feed f with mated := false, connected := false } ∧ t = { s with feedA := t.feedA, feedB := t.feedB }) ∧
    ((s.feed f).valid = true → ∀ i ∈ [Instr.feedInvalid f, .feedPresBreak f], ∃ t, exec i s = .next t ∧ (t.feed f).valid = false ∧
      (i = .feedPresBreak f → (t.feed f).mated = false ∧ (t.feed f).connected = false) ∧
      ((s.feed (1 - f.val)).valid = true → t = { s with feedA := t.feedA, feedB := t.feedB, mrs := t.mrs } ∧ t.regF .weirStatus [] 0 0 = 1 ∧
        t.regF .weirStatus [] (32 + f.val) (32 + f.val) = 0 ∧ SameRegsBut [RegId.weirStatus.row.base] s t ∧
        (s.weir.running = true → t.regF .weirStatus [] 4 4 = 1 ∧ t.vcode = (if s.weir.windows = 0 then s.vcode else 0))) ∧
      ((s.feed (1 - f.val)).valid = false → t.bootStep = State.reset.bootStep ∧ t.mrs = State.reset.mrs ∧ t.cores = State.reset.cores ∧
        t.parts = State.reset.parts ∧ t.vats = State.reset.vats ∧ t.pools = State.reset.pools ∧ t.fast = State.reset.fast ∧
        t.slow = State.reset.slow ∧ t.meter = s.meter ∧ t.cart = s.cart ∧ t.retireA = s.retireA ∧ t.retireB = s.retireB ∧
        t.netFlash = s.netFlash ∧ t.life = { s.life with keys := [], refuseImages := false } ∧ t.pending = s.pending)))

/-- POWER_UP_STEP_COMPLETE (R555): each step's end, in order; the fifth stops the module where no firmware slot verifies, the sixth leaves both
tiers zero and enables the ports, the eighth applies the retirement record (R527) and leaves vats, banks and cores as R133 and R164 have them. -/
def Claims.PowerUpGoesByItsSteps : Prop :=
  ∀ (s : State) (signal : Half),
    let i := Instr.powerUpStepComplete signal
    (s.bootStep = 1 → (s.feedA.valid = true ∨ s.feedB.valid = true) → exec i s = .next { s with bootStep := 2 }) ∧
    (s.bootStep = 1 → s.feedA.valid = false → s.feedB.valid = false → exec i s = .next s) ∧
    (s.bootStep = 2 → ∃ t, exec i s = .next t ∧ t.bootStep = 4 ∧ t.reg .weirCal [] = Config.weirCal &&& 0x0FFFFFFFFFFFFFFF ∧
      (∀ c : CoreId, t.reg .meaRepair (cix c) = Config.meaRepair c &&& 0xFFFFFFFF) ∧ t.regF .lifeStatus [] 2 0 = s.lifeState ∧
      t.reg .lifeChallenge [] = s.usedFresh.freeLong ∧
      t.feedA.strap = (if s.feedA.mated = true then Config.strapPins 0 s.fresh else 0) ∧
      t.feedB.strap = (if s.feedB.mated = true then Config.strapPins 1 s.fresh else 0) ∧ SameMem s t) ∧
    (s.bootStep = 4 → exec i s = .next { s with bootStep := 5 }) ∧
    (s.bootStep = 5 → ∃ t, exec i s = .next t ∧ SameMem s t ∧ t.cores = s.cores ∧ t.parts = s.parts ∧
      match s.loadKeys.bootSlot with
      | none => t.bootStep = 5 ∧ t.regF .lifeStatus [] 33 32 = 2
      | some k => t.bootStep = 6 ∧ t.weir.running = true ∧ t.ready = true ∧ t.regF .lifeStatus [] 33 32 = 1 ∧ t.life.running = k) ∧
    (s.bootStep = 6 → ∃ t, exec i s = .next t ∧ t.bootStep = 7 ∧ t.fast = Tier.zero ∧ t.slow = Tier.zero ∧
      t.regF .ethCtrl [0] 0 0 = 1 ∧ t.regF .ethCtrl [1] 0 0 = 1 ∧
      ∀ p : PortId, signal.getLsbD p.val = true → t.regF .lnkCtrl [p.val] 0 0 = 1 ∧ (t.port p).powered = true) ∧
    (s.bootStep = 7 → s.portsSettled = true → exec i s = .next { s with bootStep := 8 }) ∧
    (s.bootStep = 7 → s.portsSettled = false → exec i s = .next s) ∧
    (s.bootStep = 8 → ∃ t, exec i s = .next t ∧
      t = { s with mrs := t.mrs, vats := [], pools := [], cores := [], clusters := [], bootStep := 9 } ∧
      (∀ e ∈ s.retireRec.entries, ∀ cl b, e.bit = some (cl, b) → b < 64 → t.regF .retireCluster [cl] b b = 1) ∧
      SameRegsBut ((s.retireRec.entries.filterMap (·.bit)).map fun q => RegId.retireCluster.row.addr [q.1]) s t) ∧
    (s.bootStep = 9 → exec i s = .next s)

/-- The meter (R491-R497, R508, R509): its counts begin from what was saved and never fall, rise by what each millisecond measures, and are signed into the
other buffer under the next number; its flags stand in MTR_STATUS, and a failed self-check is recorded once, by a keeper
that starts later where none runs. -/
def Claims.TheMeterCounts : Prop :=
  ∀ s : State,
    let m := s.meter
    (m.ready = true → exec .meterReady s = .next s) ∧
    (m.ready = false → ∃ t, exec .meterReady s = .next t ∧
      t.meter = { m with ready := true, energyA := max m.nvA m.energyA, energyB := max m.nvB m.energyB, restart := true } ∧
      t.regF .mtrStatus [] 5 5 = 1 ∧ t.regF .mtrStatus [] 4 4 = 1 ∧ t = { s with meter := t.meter, mrs := t.mrs } ∧
      SameRegsBut [RegId.mtrStatus.row.base] s t) ∧
    exec .meterNvSave s = .next { s with meter := { m with nvA := m.energyA, nvB := m.energyB } } ∧
    (∃ t, exec .meterSupplyLoss s = .next t ∧ t.meter.nvA = m.energyA ∧ t.meter.nvB = m.energyB ∧ t.meter.ready = false ∧
      t.regF .mtrStatus [] 5 5 = 0 ∧ t = { s with meter := t.meter, mrs := t.mrs } ∧ SameRegsBut [RegId.mtrStatus.row.base] s t) ∧
    (∀ a b ra rb, ∃ t, exec (.meterWindowUpdate a b ra rb) s = .next t ∧ t.meter.energyA = m.energyA + a ∧ t.meter.energyB = m.energyB + b ∧
      t.meter.uptime = m.uptime + 1 ∧ t.meter.peakA.toNat = max m.peakA.toNat (min a 0xFFFFFFFF) ∧
      t.meter.peakB.toNat = max m.peakB.toNat (min b 0xFFFFFFFF) ∧ t.meter.rangeA = (m.rangeA || ra || decide (1600000 < a)) ∧
      t.meter.rangeB = (m.rangeB || rb || decide (1600000 < b)) ∧
      (t.reg .mtrEnergyA []).toNat = (m.energyA + a) / 1000 % 2 ^ 64 ∧ (t.reg .mtrEnergyB []).toNat = (m.energyB + b) / 1000 % 2 ^ 64 ∧
      t.regF .mtrPower [] 31 0 = min a 0xFFFFFFFF ∧ t.regF .mtrPower [] 63 32 = min b 0xFFFFFFFF ∧
      t = { s with meter := t.meter, mrs := t.mrs, dieSeen := t.dieSeen }) ∧
    (m.ready = false → exec .meterRecordComplete s = .next s) ∧
    (m.ready = true → ∃ t, exec .meterRecordComplete s = .next t ∧ t.meter.seq = m.seq + 1 ∧
      t.meter.records.get [] t.meter.latest = s.meterBody (m.seq + 1) ++ ownSig 100 101 (s.meterBody (m.seq + 1)) ∧
      (m.records ≠ [] → m.latest < 2 → t.meter.latest = 1 - m.latest ∧ t.meter.records.get [] m.latest = m.records.get [] m.latest) ∧
      t.regF .mtrStatus [] 63 32 = (m.seq + 1).toNat % 2 ^ 32 ∧ t.regF .mtrStatus [] 3 2 = 0 ∧ t.regF .mtrStatus [] 4 4 = 0 ∧
      t.meter.peakA = 0 ∧ t.meter.peakB = 0 ∧ t = { s with meter := t.meter, mrs := t.mrs }) ∧
    (∃ t, exec .meterTamper s = .next t ∧ t = { s with meter := { m with tamper := true }, mrs := t.mrs } ∧ t.regF .mtrStatus [] 0 0 = 1 ∧
      SameRegsBut [RegId.mtrStatus.row.base] s t) ∧
    (m.fault = true → exec .meterSelfCheckFail s = .next s) ∧
    (m.fault = false → ∃ t, exec .meterSelfCheckFail s = .next t ∧ t.meter = { m with fault := true, told := s.ready } ∧
      t.regF .mtrStatus [] 1 1 = 1 ∧
      (s.ready = true → (t.keeper.log.getLast?).map (·.code) = some 0x0060) ∧ (s.ready = false → t.keeper = s.keeper) ∧ SameMem s t) ∧
    (∃ t, exec .meterSelfCheckRecovery s = .next t ∧ t = { s with meter := { m with fault := false, told := false }, mrs := t.mrs } ∧
      t.regF .mtrStatus [] 1 1 = 0 ∧ SameRegsBut [RegId.mtrStatus.row.base] s t)

/-- Feeds, emergencies, power-up and the meter. -/
def Obligations.PowerAndMeter : Prop :=
  Claims.EmergenciesAndFeeds ∧ Claims.PowerUpGoesByItsSteps ∧ Claims.TheMeterCounts

/-! ### Crossings and self-test -/

/-- Crossings (R514-R521): what a sender writes joins its queue of eight words, a unit whole or not at all, and the front unit goes when two
successive samples of it agree, over one command or several, the repeats counted; sixteen samples without agreement reset the crossing. Each side
gives its own notice: that empties the queues in both directions, and the side comes out of its reset when the notice has been answered or has
waited long enough; the always-on domain holds the crossing for a side whose domain is off. -/
def Claims.CrossingsCarryAndReset : Prop :=
  ∀ (s : State) (x : XingId),
    let k := s.xing x
    let off := s.selfOff x
    let inReset := k.selfReset = true ∨ k.clkReset = true ∨ off = true
    let words := fun (q : List (Nat × List Byte)) => sumN (q.map fun u => unitWords x u.2)
    (∀ fwd written samples,
      let dir := fun (t : State) => if fwd = true then (t.xing x).toClocked else (t.xing x).toSelf
      let d := dir s
      let gone := if fwd = true then k.selfReset || off else k.clkReset
      let new := written.filter fun u => !gone && !hasN k.clusters u.1
      let all := (d.samples ++ samples).take 16
      (inReset → ∃ t, exec (.crossingWordAccept x fwd written samples) s = .next t ∧ t = { s with xings := t.xings } ∧
        dir t = { d with sender := d.sender ++ new } ∧ (∀ j, j ≠ x.val → t.xing j = s.xing j)) ∧
      (¬ inReset → words d.queue ≤ 8 → ∃ t q r, exec (.crossingWordAccept x fwd written samples) s = .next t ∧ SameMem s t ∧
        t.cores = s.cores ∧ (∀ j, j ≠ x.val → t.xing j = s.xing j) ∧
        q ++ r = d.queue ++ d.sender ++ new ∧ d.queue.length ≤ q.length ∧ words q ≤ 8 ∧ (∀ u l, r = u :: l → 8 < words q + unitWords x u.2) ∧
        (q = [] → dir t = { d with sender := r }) ∧
        (∀ n, q ≠ [] → agreedAt all = some n → (dir t).taken = all.getD (n - 1) [] ∧ (dir t).samples = [] ∧
          (dir t).queue ++ (dir t).sender = q.tail ++ r ∧ words (dir t).queue ≤ 8 ∧
          getF (t.xing x).counts 47 32 = min (getF k.counts 47 32 + (n - max 2 d.samples.length)) 0xFFFF) ∧
        (q ≠ [] → agreedAt all = none → all.length < 16 → dir t = ⟨q, r, all, d.taken⟩ ∧
          getF (t.xing x).counts 47 32 = min (getF k.counts 47 32 + (all.length - max 2 d.samples.length)) 0xFFFF) ∧
        (q ≠ [] → agreedAt all = none → all.length = 16 → (t.xing x).toClocked.queue = [] ∧ (t.xing x).toSelf.queue = [] ∧
          (t.xing x).clkReset = true ∧ (t.keeper.log.getLast?).map (·.code) = some 0x0020 ∧
          getF (t.xing x).counts 47 32 = min (getF k.counts 47 32 + (16 - max 2 d.samples.length)) 0xFFFF))) ∧
    (∀ clocked,
      let mine := if clocked = true then k.clkReset else k.selfReset
      (mine = true → exec (.crossingResetNotice x clocked) s = .next s ∧ ∃ t, exec (.crossingResetTimeout x clocked) s = .next t ∧
        t = { s with xings := t.xings } ∧ t.xing x = if clocked = true then { k with clkAcked := true } else { k with selfAcked := true }) ∧
      (mine = false → exec (.crossingResetTimeout x clocked) s = .next s ∧ ∃ t, exec (.crossingResetNotice x clocked) s = .next t ∧
        t = { s with xings := t.xings } ∧ (∀ j, j ≠ x.val → t.xing j = s.xing j) ∧
        (t.xing x).toClocked.queue = [] ∧ (t.xing x).toSelf.queue = [] ∧ (t.xing x).toClocked.samples = [] ∧ (t.xing x).toSelf.samples = [] ∧
        (if clocked = true then (t.xing x).clkReset = true ∧ (t.xing x).clkAcked = (!k.selfReset || off) ∧ (t.xing x).toSelf.sender = [] ∧
            (t.xing x).toClocked.sender = k.toClocked.sender ∧ (t.xing x).selfReset = k.selfReset ∧ (t.xing x).selfAcked = k.selfAcked
          else (t.xing x).selfReset = true ∧ (t.xing x).selfAcked = !k.clkReset ∧ (t.xing x).toClocked.sender = [] ∧
            (t.xing x).toSelf.sender = k.toSelf.sender ∧ (t.xing x).clkReset = k.clkReset ∧ (t.xing x).clkAcked = k.clkAcked) ∧
        getF (t.xing x).counts 63 48 = min (getF k.counts 63 48 + 1) 0xFFFF ∧
        getF (t.xing x).counts 31 0 = min (getF k.counts 31 0 + (k.toClocked.queue.length + k.toSelf.queue.length)) 0xFFFFFFFF)) ∧
    (let out := (k.selfReset && k.selfAcked) || (k.clkReset && k.clkAcked)
     (out = false → exec (.crossingRestart x) s = .next s) ∧
     (out = true → ∃ t, exec (.crossingRestart x) s = .next t ∧ t = { s with xings := t.xings } ∧
       t.xing x = { k with selfReset := k.selfReset && !k.selfAcked, clkReset := k.clkReset && !k.clkAcked, selfAcked := false, clkAcked := false }))

/-- Self-test (R523-R537): the rota requests the block its pointer names, a retired one passed over, the block is taken at rest, its slice's verdict,
that of the signature against the fused one, stands in BIST_STATUS,
a failed block is retired, and the pointer moves on; a directed test runs its slices and retires its target where one failed. -/
def Claims.SlicesAreTested : Prop :=
  ∀ s : State,
    (∃ t, exec .sliceSchedule s = .next t ∧
      t = { s with bist := { s.bist with wanted := t.bist.wanted, pointer := t.bist.pointer }, mrs := t.mrs } ∧
      (let n := s.liveFrom s.bist.pointer
       (s.ready = true → s.lifeState ≠ 4 → s.regF .bistCtrl [] 0 0 = 1 → s.bist.wanted = none → s.bist.running = none → s.anyRestart = false →
        s.blockRetired (n / 32) = false → t.bist.wanted = some (n / 32) ∧ t.bist.pointer = n) ∧
       (s.blockRetired (n / 32) = true → t = s)) ∧
      (s.regF .bistCtrl [] 0 0 = 0 → t = s)) ∧
    (∀ n, (n < 4608 → s.blockRetired (n / 32) = false → s.liveFrom n = n) ∧
      ((∃ b, b < 144 ∧ s.blockRetired b = false) → s.blockRetired (s.liveFrom n / 32) = false)) ∧
    (s.bist.wanted = none → exec .blockTaken s = .next s ∧ exec .blockTakeTimeout s = .next s) ∧
    (∀ b, s.bist.wanted = some b →
      (s.blockRetired b = true → ∃ t, exec .blockTaken s = .next t ∧ t.bist = { s.bist with wanted := none } ∧ t.mrs = s.mrs ∧ SameMem s t) ∧
      (s.blockRetired b = false → s.takeable b = false → exec .blockTaken s = .next s) ∧
      (s.blockRetired b = false → s.takeable b = true → s.bist.running = none → s.bist.todo = [] → s.anyRestart = false →
        let k := s.bist.pointer % 32
        let taken := { s.bist with wanted := none, running := some b, pattern := Config.slicePattern b k, signature := Config.sliceSeed b k }
        ∃ t, exec .blockTaken s = .next t ∧ t.bist = taken ∧ t.regF .bistStatus [] 0 0 = 1 ∧ t.cores = s.cores ∧ SameMem s t) ∧
      (∃ t, exec .blockTakeTimeout s = .next t ∧ t.bist = { s.bist with wanted := none } ∧ t.mrs = s.mrs ∧ SameMem s t ∧
        ∀ c ∈ s.coresUnder b, (t.core c).taking = false)) ∧
    (∀ b sig, s.bist.running = some b → b < 144 →
      let pass := sig == Config.sliceExpected b (s.bist.pointer % 32)
      ∃ t, exec (.sliceResult sig) s = .next t ∧ t.bist.running = none ∧ t.bist.signature = sig ∧
      t.regF .bistStatus [] 0 0 = 0 ∧ t.regF .bistStatus [] 1 1 = (if pass = true then 1 else 0) ∧
      t.regF .bistStatus [] 47 35 = t.bist.pointer % 8192 ∧
      (pass = true → t.bist.pointer = s.liveFrom (s.bist.pointer + 1) ∧ t.regF .bistStatus [] 31 16 = s.regF .bistStatus [] 31 16 ∧
        t.clusters = s.clusters ∧ SameMem s t) ∧
      (pass = false → t.blockRetired b = true ∧ t.regF .bistStatus [] 31 16 = min (s.regF .bistStatus [] 31 16 + 1) 0xFFFF)) ∧
    (s.bist.running = none → s.bist.todo = [] → ∀ sig, exec (.sliceResult sig) s = .next s) ∧
    (∀ k rest sig, s.bist.running = none → s.bist.todo = k :: rest →
      let pass := sig == Config.sliceExpected s.bist.target k
      ∃ t, exec (.sliceResult sig) s = .next t ∧ t.bist.todo = rest ∧
      t.regF .bistStatus [] 1 1 = (if pass = true then 1 else 0) ∧
      (rest ≠ [] → t.regF .bistStatus [] 0 0 = s.regF .bistStatus [] 0 0 ∧ t.clusters = s.clusters ∧ SameMem s t) ∧
      (rest = [] → t.regF .bistStatus [] 0 0 = 0) ∧
      (rest = [] → pass = true → s.bist.failed = none → t.clusters = s.clusters ∧ t.retireA = s.retireA ∧ t.retireB = s.retireB) ∧
      (rest = [] → (pass = false ∨ s.bist.failed ≠ none) → s.bist.target < 144 → t.regF .bistStatus [] 2 2 = 1 ∧ t.blockRetired s.bist.target = true)) ∧
    (∀ cl : ClusterId, ((s.cl cl).restarting = false → exec (.warmRestartEnd cl) s = .next s) ∧
      ((s.cl cl).restarting = true → ∃ t, exec (.warmRestartEnd cl) s = .next t ∧ (t.cl cl).restarting = false ∧
        (s.standBad s.minCores s.ingestUsed = [] → (∀ q ∈ s.place, s.coreRetired q.2 = false) →
          t = { s with clusters := t.clusters, xings := t.xings }))) ∧
    (∀ b : Fin 144,
      let due := 2880000000000 ≤ (s.tick - s.bist.covered.get 0 b).toNat ∧ s.blockRetired b = false
      (¬ due → exec (.selftestOverdue b) s = .next s) ∧
      (due → ∃ t, exec (.selftestOverdue b) s = .next t ∧ t.regF .bistStatus [] 3 3 = 1 ∧ SameMem s t ∧ t.cores = s.cores ∧
        (t.keeper.log.getLast?).map (fun r => (r.code, r.unit)) = some (0x0005, b.val))) ∧
    (∀ v : Long,
      let b := getF v 23 16
      ((s.romOnly = true ∨ s.lifeState = 4 ∨ s.lifeState = 1 ∨ s.lifeState = 2 ∨ 143 < b ∨ s.coresUnder b ≠ [] ∨ s.blockRetired b = true ∨ s.bist.running.isSome ∨
        s.bist.todo ≠ []) → ∃ t, exec (.bistDirectedTest v) s = .next t ∧ OnlyRegs s t ∧ SameRegsBut [RegId.keepStatus.row.base] s t ∧
          t.regF .keepStatus [] 31 16 = min (s.regF .keepStatus [] 31 16 + 1) 0xFFFF) ∧
      (s.romOnly = false → (s.lifeState = 0 ∨ s.lifeState = 3) → b ≤ 143 → s.coresUnder b = [] → (136 ≤ b → s.ingestUsed (b - 136) = false) → s.blockRetired b = false →
        s.bist.running = none → s.bist.todo = [] → ∃ t, exec (.bistDirectedTest v) s = .next t ∧ t.regF .bistStatus [] 0 0 = 1 ∧
          let slices := (List.replicate (getF v 31 24 + 1) (if getF v 8 8 = 1 then List.range 32 else [getF v 7 3])).flatten
          let k := if getF v 8 8 = 1 then 0 else getF v 7 3
          let seeded := { s.bist with pattern := Config.slicePattern b k, signature := Config.sliceSeed b k }
          t.bist = { seeded with target := b, failed := none, todo := slices } ∧ SameMem s t ∧ t.cores = s.cores))

/-- Crossings and self-test. -/
def Obligations.CrossingsAndSelfTest : Prop :=
  Claims.CrossingsCarryAndReset ∧ Claims.SlicesAreTested

/-! ### Life cycle, cartridge, keeper -/

/-- The life-cycle operations (R563-R566, R571, R572): an offset that is no multiple of 64 or lies beyond the staging area is an access error, as
any write is after a boot that failed (R555; log 58); a request that is refused leaves only its RESULT and the sluice traffic of its reading; one that stands has its effect whole, RESULT 0, and a new challenge. -/
def Claims.LifeCycleOperations : Prop :=
  ∀ (s : State) (off : Nat) (i : Instr) (op : Nat),
    (i, op) ∈ [(Instr.provision off, 1), (.addKey off, 2), (.deploy off, 3), (.lifeReturn off, 4), (.scrap off, 5), (.revoke off, 6), (.quote off, 7),
      (.fwUpdate off, 8), (.commitSvn off, 9)] →
    ((off % 64 ≠ 0 ∨ stagingLen ≤ off ∨ s.romOnly = true) → ∃ t, exec i s = .next t ∧ OnlyRegs s t ∧ SameRegsBut [RegId.keepStatus.row.base] s t ∧
      t.regF .keepStatus [] 31 16 = min (s.regF .keepStatus [] 31 16 + 1) 0xFFFF) ∧
    (off % 64 = 0 → off < stagingLen → s.romOnly = false → NoErrors s →
      let room := stagingLen - off
      let n := le (readBytes s.slow.data (stagingBase + off) 64) 0x18 4
      let obj := readBytes s.slow.data (stagingBase + off) (min room (64 + State.padded n + sigLen))
      let payload := (obj.drop 64).take n
      let certs := chunksOf certLen payload
      let added := s.addCerts certs
      let id := le payload 0 4
      let body := s.quoteBody payload ++ ownSig 14 15 (s.quoteBody payload)
      let code := s.lifeRefusal op obj room
      let bad := if op = 1 ∧ ¬ (added.2 = true ∧ ∀ b ∈ certs, 16 ≤ le b 8 4) then 6 else if op = 2 ∧ added.2 = false then 6
        else if op = 6 ∧ (id < 2 ∨ 63 < id) then 6 else if op = 7 ∧ stagingLen < off + 0x10000 + body.length then 1
        else if op = 8 ∧ s.fwVerifies payload = false then 4 else 0
      ∃ t, exec i s = .next t ∧
        (code ≠ 0 → t = { s with mrs := t.mrs, sluices := t.sluices, dieSeen := t.dieSeen } ∧
          SameRegsBut (RegId.lifeCmd.row.base :: RegId.lifeStatus.row.base :: dieCounters) s t ∧ t.regF .lifeStatus [] 15 8 = code) ∧
        (code = 0 → bad ≠ 0 → t = { s with mrs := t.mrs, sluices := t.sluices, dieSeen := t.dieSeen } ∧
          SameRegsBut (RegId.lifeCmd.row.base :: RegId.lifeStatus.row.base :: dieCounters) s t ∧
          t.regF .lifeStatus [] 15 8 = bad) ∧
        (code = 0 → bad = 0 → t.regF .lifeStatus [] 15 8 = 0 ∧ t.regF .lifeStatus [] 2 0 = t.lifeState ∧ t.reg .lifeChallenge [] = s.freeLong ∧
          (op = 1 → t.life.fuses = 1 ∧ t.life.store = s.life.store ++ certs ∧ t.life.keys = added.1.life.keys) ∧
          (op = 2 → t.life.fuses = s.life.fuses ∧ t.life.store = s.life.store ++ certs ∧ t.life.keys = added.1.life.keys) ∧
          (op = 3 → t.life = { s.life with fuses := 3 }) ∧
          ((op = 4 ∨ op = 5) → t.life.fuses = (if op = 4 then 7 else 15) ∧ t.life.refuseImages = true ∧
            (∀ p : PartId, t.isRunning p = false) ∧ ∀ k ∈ t.life.keys, k.keyId < 16) ∧
          (op = 6 → t.life = { s.life with revoked := s.life.revoked ||| BitVec.ofNat 64 (2 ^ id) }) ∧
          (op = 7 → readBytes t.slow.data (stagingBase + off + 0x10000) body.length = body ∧
            SameMemBut (.tier true) (stagingBase + off + 0x10000) body.length s t) ∧
          (op = 8 → t.life = if s.life.running = 0 then { s.life with fw1 := ⟨payload⟩ } else { s.life with fw0 := ⟨payload⟩ }) ∧
          (op = 9 → t.life = { s.life with svn := max s.life.svn (s.regF .lifeStatus [] 63 56) }) ∧
          (op ≠ 7 → SameMem s t)))

/-- The cartridge (R567-R570): inserted it is untrusted, or unsupported before NVMe 2.0; an answer to the nonce that the module sends and that
holds makes it accepted, or worn, with what the cartridge of that serial held when it was last here (R606; log 33); one that does not hold leaves it
untrusted; removed, its registers read 0 and its contents go with it. -/
def Claims.CartridgesComeAndGo : Prop :=
  ∀ s : State,
    (∀ nvme w g, s.cart.present = true → exec (.cartridgeInsert nvme w g) s = .next s) ∧
    (∀ nvme w g, s.cart.present = false → ∃ t, exec (.cartridgeInsert nvme w g) s = .next t ∧
      t = { s with cart := { s.cart with present := true, nvme := nvme, width := w, gen := g, inserts := s.cart.inserts + 1 }, mrs := t.mrs } ∧
      t.regF .cartStatus [] 2 0 = (if nvme = true then 2 else 1) ∧ t.regF .cartStatus [] 19 16 = w % 16 ∧ t.regF .cartStatus [] 15 12 = g % 16 ∧
      SameRegsBut [RegId.cartStatus.row.base] s t) ∧
    (s.cart.present = false → exec .cartridgeRemove s = .next s) ∧
    (s.cart.present = true → ∃ t, exec .cartridgeRemove s = .next t ∧ t = { s with cart := t.cart, mrs := t.mrs } ∧
      t.cart.present = false ∧ t.cart.blind = true ∧ t.cart.data = [] ∧ t.cart.heads = [] ∧
      (s.cart.blind = false → t.cart.shelf.get ⟨[], [], 0⟩ s.cart.serial.toNat = ⟨s.cart.data, s.cart.heads, s.cart.written⟩) ∧
      t.regF .cartStatus [] 2 0 = 0 ∧ t.reg .cartSerial [] = 0 ∧ SameRegsBut [RegId.cartStatus.row.base, RegId.cartSerial.row.base] s t) ∧
    (∀ a, (s.cart.present = false ∨ s.cart.nvme = false ∨ s.xingHeld 322 = true ∨ s.xingHeld 323 = true) →
      exec (.cartridgeAuthentication a) s = .next s) ∧
    (∀ a, s.cart.present = true → s.cart.nvme = true → s.xingHeld 322 = false → s.xingHeld 323 = false →
      let nonce := (List.range 32).map fun i => Config.freeByte s.fresh i
      let serial : Long := BitVec.ofNat 64 (le a.body 8 8)
      let signed := le a.body 0x10 8 * 1000000000
      let kept := s.cart.shelf.get ⟨[], [], 0⟩ serial.toNat
      ∃ t, exec (.cartridgeAuthentication a) s = .next t ∧ t.fresh = s.fresh + 1 ∧ t.out = .cart nonce :: s.out ∧ SameMem s t ∧ t.cores = s.cores ∧
        (s.answerOk nonce a = false → t.cart = s.cart ∧ t.cartState = 2 ∧ t.reg .cartSerial [] = 0) ∧
        (s.answerOk nonce a = true → t.reg .cartSerial [] = serial ∧ t.cart.serial = serial ∧ t.cart.blind = false ∧
          (s.cart.blind = false → s.cart.serial = serial →
            t.cart.data = s.cart.data ∧ t.cart.heads = s.cart.heads ∧ t.cart.written = max s.cart.written signed) ∧
          ((s.cart.blind = true ∨ s.cart.serial ≠ serial) →
            t.cart.data = kept.data ∧ t.cart.heads = kept.heads ∧ t.cart.written = max kept.written signed) ∧
          t.cartState = if 40000000000000000 ≤ t.cart.written ∨ 43830 ≤ le a.body 0x18 4 then 4 else 3))

/-- The keeper and its watch (R575-R578, R590, R591): its loss halts every partition and closes every session, queue pair and region, with
the cause in KEEP_WATCH; without a kick for TIMEOUT it is lost by itself; restarted, it boots a verified slot again or stops; a WATCH
is taken from its port; the network registers are saved whole. -/
def Claims.TheKeeperIsWatched : Prop :=
  (∀ s : State,
    exec .keeperKick s = .next { s with keeper := { s.keeper with kick := s.tick } } ∧
    (∀ i : Fin 3, s.romOnly = false → exec (.netCtrlSave i) s = .next { s with netFlash := State.netAddrs.map fun a => (a, s.mrs.get 0 a) }) ∧
    (∀ i cause, (i, cause) ∈ [(Instr.keeperMemoryError, 1), (.keeperException, 2), (.keeperForce, 3), (.keeperWatchTimeout, 0)] →
      let slow := i = .keeperWatchTimeout → 100000 * s.regF .keepWatch [] 21 12 ≤ (s.tick - s.keeper.kick).toNat
      ((s.ready = false ∨ ¬ slow) → exec i s = .next s) ∧
      (s.ready = true → slow → ∃ t, exec i s = .next t ∧ t.ready = false ∧ t.regF .keepWatch [] 33 32 = cause ∧ t.regF .keepWatch [] 2 2 = 1 ∧
        t.regF .keepWatch [] 63 48 = min (s.regF .keepWatch [] 63 48 + 1) 0xFFFF ∧ (∀ p : PartId, t.isRunning p = false) ∧ t.sessions = [] ∧
        t.qps = [] ∧ t.regions = [] ∧ t.load = none ∧ t.life = s.life)) ∧
    ((s.ready = true ∨ s.bootStep < 6) → exec .keeperRestart s = .next s) ∧
    (s.ready = false → 6 ≤ s.bootStep → ∃ t, exec .keeperRestart s = .next t ∧ SameMem s t ∧ t.cores = s.cores ∧
      match s.loadKeys.bootSlot with
      | none => t.bootStep = 5 ∧ t.regF .lifeStatus [] 33 32 = 2
      | some k => t.bootStep = s.bootStep ∧ t.ready = true ∧ t.life.running = k ∧
        ((s.meter.fault = false ∨ s.meter.told = true) → (t.keeper.log.getLast?).map (·.code) = some 0x0070))) ∧
  (∀ (s : State) (p : PortId) (m : Msg) (rest : List Msg), (s.port p).inbox = m :: rest → m.type = 0x32 →
    let lost := be m.data 6 2
    ((be m.data 4 1 ≠ 0 ∨ s.ready = false) → ∃ t, exec (.watch p) s = .next t ∧ (t.port p).inbox = rest ∧ t.job = s.job ∧ SameMem s t ∧
      t.mrs = s.mrs) ∧
    (be m.data 4 1 = 0 → s.ready = true → s.role = 1 → lost ∈ State.modulesOf s.job.maps → lost ∉ s.job.lost → lost ≠ s.me →
      ∃ t, exec (.watch p) s = .next t ∧ (t.port p).inbox = rest ∧ lost ∈ t.job.lost ∧ t.job.declGen = s.genNow + 1) ∧
    (be m.data 4 1 = 0 → s.ready = true → s.role = 2 → s.job.coord = some lost → ∃ t, exec (.watch p) s = .next t ∧ (t.port p).inbox = rest ∧
      t.role = 1 ∧ t.job.coord = some s.me))

/-- The life cycle, the cartridge, and the keeper under its watch. -/
def Obligations.LifeCartridgeKeeper : Prop :=
  Claims.LifeCycleOperations ∧ Claims.CartridgesComeAndGo ∧ Claims.TheKeeperIsWatched
end

