-- ==== Sys2Proof/Laws/Bits.lean ====
section
/-! SUPPORT. Fields of a 64-bit word: what a field reads after it, or another, is set. -/

namespace Sys2Proof.Machine

theorem fld_lt (w hi lo : Nat) : fld w hi lo < 2 ^ (hi + 1 - lo) := Nat.mod_lt _ (Nat.two_pow_pos _)

theorem getF_lt (w : Long) (hi lo : Nat) : getF w hi lo < 2 ^ (hi + 1 - lo) := fld_lt _ _ _

/-- A field by its bits. -/
theorem fld_testBit (w hi lo i : Nat) : (fld w hi lo).testBit i = (decide (i < hi + 1 - lo) && w.testBit (lo + i)) := by
  rw [fld, Nat.testBit_mod_two_pow, Nat.testBit_shiftRight]

/-- The number below a field, the field, and the number above it. -/
theorem fld_split (w hi lo : Nat) (h : lo ≤ hi + 1) :
    w = w % 2 ^ lo + fld w hi lo * 2 ^ lo + w / 2 ^ (hi + 1) * 2 ^ (hi + 1) := by
  have e : (2 : Nat) ^ (hi + 1) = 2 ^ lo * 2 ^ (hi + 1 - lo) := by rw [← Nat.pow_add]; congr 1; omega
  have a := Nat.div_add_mod w (2 ^ lo)
  have b := Nat.div_add_mod (w / 2 ^ lo) (2 ^ (hi + 1 - lo))
  rw [fld, Nat.shiftRight_eq_div_pow]
  rw [e, ← Nat.div_div_eq_div_mul]
  have c : 2 ^ lo * (2 ^ (hi + 1 - lo) * (w / 2 ^ lo / 2 ^ (hi + 1 - lo)) + w / 2 ^ lo % 2 ^ (hi + 1 - lo)) + w % 2 ^ lo = w := by
    rw [b, a]
  rw [Nat.mul_add] at c
  have d : 2 ^ lo * (2 ^ (hi + 1 - lo) * (w / 2 ^ lo / 2 ^ (hi + 1 - lo))) =
      w / 2 ^ lo / 2 ^ (hi + 1 - lo) * (2 ^ lo * 2 ^ (hi + 1 - lo)) := by ac_rfl
  rw [d, Nat.mul_comm (2 ^ lo) (w / 2 ^ lo % _)] at c
  omega

/-- A word with a field set, as a number. -/
theorem setF_toNat (w : Long) (hi lo v : Nat) (h : lo ≤ hi) (b : hi < 64) :
    (setF w hi lo v).toNat =
      w.toNat % 2 ^ lo + v % 2 ^ (hi + 1 - lo) * 2 ^ lo + w.toNat / 2 ^ (hi + 1) * 2 ^ (hi + 1) := by
  have sp := fld_split w.toNat hi lo (by omega)
  have e : (2 : Nat) ^ (hi + 1) = 2 ^ (hi + 1 - lo) * 2 ^ lo := by rw [← Nat.pow_add]; congr 1; omega
  have vb : v % 2 ^ (hi + 1 - lo) < 2 ^ (hi + 1 - lo) := Nat.mod_lt _ (Nat.two_pow_pos _)
  have lb : w.toNat % 2 ^ lo < 2 ^ lo := Nat.mod_lt _ (Nat.two_pow_pos _)
  have low : w.toNat % 2 ^ lo + v % 2 ^ (hi + 1 - lo) * 2 ^ lo < 2 ^ (hi + 1) := by
    rw [e]
    have : (v % 2 ^ (hi + 1 - lo) + 1) * 2 ^ lo ≤ 2 ^ (hi + 1 - lo) * 2 ^ lo := Nat.mul_le_mul_right _ vb
    rw [Nat.add_mul] at this
    omega
  have top : w.toNat / 2 ^ (hi + 1) < 2 ^ (64 - (hi + 1)) := by
    rw [Nat.div_lt_iff_lt_mul (Nat.two_pow_pos _), ← Nat.pow_add]
    have : 64 - (hi + 1) + (hi + 1) = 64 := by omega
    rw [this]; exact w.isLt
  have tot : w.toNat % 2 ^ lo + v % 2 ^ (hi + 1 - lo) * 2 ^ lo + w.toNat / 2 ^ (hi + 1) * 2 ^ (hi + 1) < 2 ^ 64 := by
    have : (w.toNat / 2 ^ (hi + 1) + 1) * 2 ^ (hi + 1) ≤ 2 ^ (64 - (hi + 1)) * 2 ^ (hi + 1) := Nat.mul_le_mul_right _ top
    rw [← Nat.pow_add, Nat.add_mul] at this
    have q : 64 - (hi + 1) + (hi + 1) = 64 := by omega
    rw [q] at this
    omega
  have eq : w.toNat - fld w.toNat hi lo * 2 ^ lo + v % 2 ^ (hi + 1 - lo) * 2 ^ lo =
      w.toNat % 2 ^ lo + v % 2 ^ (hi + 1 - lo) * 2 ^ lo + w.toNat / 2 ^ (hi + 1) * 2 ^ (hi + 1) := by
    omega
  simp only [setF, BitVec.toNat_ofNat]
  rw [eq, Nat.mod_eq_of_lt tot]

/-- A bit of a word with a field set. -/
theorem setF_testBit (w : Long) (hi lo v i : Nat) (h : lo ≤ hi) (b : hi < 64) :
    (setF w hi lo v).toNat.testBit i =
      if lo ≤ i ∧ i ≤ hi then v.testBit (i - lo) else w.toNat.testBit i := by
  rw [setF_toNat w hi lo v h b]
  have lb : w.toNat % 2 ^ lo < 2 ^ lo := Nat.mod_lt _ (Nat.two_pow_pos _)
  have e : (2 : Nat) ^ (hi + 1) = 2 ^ lo * 2 ^ (hi + 1 - lo) := by rw [← Nat.pow_add]; congr 1; omega
  have vb : v % 2 ^ (hi + 1 - lo) < 2 ^ (hi + 1 - lo) := Nat.mod_lt _ (Nat.two_pow_pos _)
  have r : w.toNat % 2 ^ lo + v % 2 ^ (hi + 1 - lo) * 2 ^ lo + w.toNat / 2 ^ (hi + 1) * 2 ^ (hi + 1) =
      2 ^ lo * (2 ^ (hi + 1 - lo) * (w.toNat / 2 ^ (hi + 1)) + v % 2 ^ (hi + 1 - lo)) + w.toNat % 2 ^ lo := by
    rw [e]; ring
  rw [r, Nat.testBit_two_pow_mul_add _ lb, Nat.testBit_two_pow_mul_add _ vb]
  by_cases h1 : i < lo
  · have : ¬ (lo ≤ i ∧ i ≤ hi) := by omega
    simp [h1, this, Nat.testBit_mod_two_pow]
  · by_cases h2 : i ≤ hi
    · have h3 : i - lo < hi + 1 - lo := by omega
      have : lo ≤ i ∧ i ≤ hi := by omega
      simp [h1, h3, this, Nat.testBit_mod_two_pow]
    · have h3 : ¬ i - lo < hi + 1 - lo := by omega
      have : ¬ (lo ≤ i ∧ i ≤ hi) := by omega
      have h4 : hi + 1 + (i - lo - (hi + 1 - lo)) = i := by omega
      simp only [h1, h3, this, if_false, Nat.testBit_div_two_pow]
      rw [Nat.add_comm, h4]

/-- A field that is set reads as it was set, modulo its size. -/
theorem getF_setF_self (w : Long) (hi lo v : Nat) (h : lo ≤ hi) (b : hi < 64) :
    getF (setF w hi lo v) hi lo = v % 2 ^ (hi + 1 - lo) := by
  apply Nat.eq_of_testBit_eq
  intro i
  rw [getF, fld_testBit, setF_testBit w hi lo v _ h b, Nat.testBit_mod_two_pow]
  by_cases q : i < hi + 1 - lo
  · have : lo ≤ lo + i ∧ lo + i ≤ hi := by omega
    simp [q, this]
  · simp [q]

/-- A field reads as before after a field apart from it is set. -/
theorem getF_setF_apart (w : Long) (hi lo v hi' lo' : Nat) (h : lo ≤ hi) (b : hi < 64) (d : hi' < lo ∨ hi < lo') :
    getF (setF w hi lo v) hi' lo' = getF w hi' lo' := by
  apply Nat.eq_of_testBit_eq
  intro i
  rw [getF, getF, fld_testBit, fld_testBit, setF_testBit w hi lo v _ h b]
  by_cases q : i < hi' + 1 - lo'
  · have : ¬ (lo ≤ lo' + i ∧ lo' + i ≤ hi) := by omega
    rw [if_neg this]
  · simp [q]

end Sys2Proof.Machine
end

