-- ==== Sys2Proof/Laws/Maps.lean ====
section
/-! SUPPORT. The finite maps: what a key reads after another is set or erased. -/

namespace Sys2Proof

variable {α : Type}

@[simp] theorem FMap.get_nil (d : α) (k : Nat) : FMap.get ([] : FMap α) d k = d := rfl

@[simp] theorem FMap.get_set_self (m : FMap α) (d : α) (k : Nat) (v : α) : (FMap.set m k v).get d k = v := by
  induction m with
  | nil => simp [FMap.set, FMap.get]
  | cons c t ih =>
    obtain ⟨j, w⟩ := c
    by_cases h : k < j
    · simp [FMap.set, FMap.get, h]
    · by_cases e : k = j
      · simp [FMap.set, FMap.get, e]
      · simp [FMap.set, FMap.get, h, e, ih]

theorem FMap.get_set_ne (m : FMap α) (d : α) {k j : Nat} (v : α) (h : j ≠ k) : (FMap.set m k v).get d j = m.get d j := by
  induction m with
  | nil => simp [FMap.set, FMap.get, h]
  | cons c t ih =>
    obtain ⟨i, w⟩ := c
    by_cases l : k < i
    · simp [FMap.set, FMap.get, l, h]
    · by_cases e : k = i
      · subst e
        simp [FMap.set, FMap.get, h]
      · by_cases q : j = i <;> simp [FMap.set, FMap.get, l, e, q, ih]

theorem FMap.get_set (m : FMap α) (d : α) (k j : Nat) (v : α) : (FMap.set m k v).get d j = if j = k then v else m.get d j := by
  by_cases h : j = k
  · subst h; simp
  · simp [FMap.get_set_ne m d v h, h]

@[simp] theorem FMap.has_erase_self (m : FMap α) (k : Nat) : (m.erase k).has k = false := by
  simp [FMap.erase, FMap.has]

theorem FMap.get_erase_self (m : FMap α) (d : α) (k : Nat) : (m.erase k).get d k = d := by
  induction m with
  | nil => rfl
  | cons c t ih =>
    obtain ⟨j, w⟩ := c
    by_cases h : j = k
    · simpa [FMap.erase, h] using ih
    · have h' : ¬ k = j := fun e => h e.symm
      simpa [FMap.erase, FMap.get, h, h'] using ih

theorem FMap.get_erase_ne (m : FMap α) (d : α) {k j : Nat} (h : j ≠ k) : (m.erase k).get d j = m.get d j := by
  induction m with
  | nil => rfl
  | cons c t ih =>
    obtain ⟨i, w⟩ := c
    by_cases e : i = k
    · subst e
      simpa [FMap.erase, FMap.get, h] using ih
    · by_cases q : j = i
      · simp [FMap.erase, FMap.get, e, q]
      · simpa [FMap.erase, FMap.get, e, q] using ih

end Sys2Proof
end

