-- ==== Sys2Proof/Laws/State.lean ====
section
/-! SUPPORT. What each update of the state leaves of each field, and what the accessors read after it. -/

namespace Sys2Proof.Machine.State

variable (s : State)

/-! ### setReg -/

@[simp] theorem setReg_dieSeen (id : RegId) (ix : List Nat) (v : Long) : (s.setReg id ix v).dieSeen = s.dieSeen := rfl
@[simp] theorem setReg_pfcSent (id : RegId) (ix : List Nat) (v : Long) : (s.setReg id ix v).pfcSent = s.pfcSent := rfl
@[simp] theorem setReg_waitOut (id : RegId) (ix : List Nat) (v : Long) : (s.setReg id ix v).waitOut = s.waitOut := rfl
@[simp] theorem setReg_pending (id : RegId) (ix : List Nat) (v : Long) : (s.setReg id ix v).pending = s.pending := rfl
@[simp] theorem setReg_fresh (id : RegId) (ix : List Nat) (v : Long) : (s.setReg id ix v).fresh = s.fresh := rfl
@[simp] theorem setReg_out (id : RegId) (ix : List Nat) (v : Long) : (s.setReg id ix v).out = s.out := rfl
@[simp] theorem setReg_eth (id : RegId) (ix : List Nat) (v : Long) : (s.setReg id ix v).eth = s.eth := rfl
@[simp] theorem setReg_paused (id : RegId) (ix : List Nat) (v : Long) : (s.setReg id ix v).paused = s.paused := rfl
@[simp] theorem setReg_tick (id : RegId) (ix : List Nat) (v : Long) : (s.setReg id ix v).tick = s.tick := rfl
@[simp] theorem setReg_opTicks (id : RegId) (ix : List Nat) (v : Long) : (s.setReg id ix v).opTicks = s.opTicks := rfl
@[simp] theorem setReg_fast (id : RegId) (ix : List Nat) (v : Long) : (s.setReg id ix v).fast = s.fast := rfl
@[simp] theorem setReg_slow (id : RegId) (ix : List Nat) (v : Long) : (s.setReg id ix v).slow = s.slow := rfl
@[simp] theorem setReg_vats (id : RegId) (ix : List Nat) (v : Long) : (s.setReg id ix v).vats = s.vats := rfl
@[simp] theorem setReg_pools (id : RegId) (ix : List Nat) (v : Long) : (s.setReg id ix v).pools = s.pools := rfl
@[simp] theorem setReg_held (id : RegId) (ix : List Nat) (v : Long) : (s.setReg id ix v).held = s.held := rfl
@[simp] theorem setReg_failing (id : RegId) (ix : List Nat) (v : Long) : (s.setReg id ix v).failing = s.failing := rfl
@[simp] theorem setReg_stalled (id : RegId) (ix : List Nat) (v : Long) : (s.setReg id ix v).stalled = s.stalled := rfl
@[simp] theorem setReg_cores (id : RegId) (ix : List Nat) (v : Long) : (s.setReg id ix v).cores = s.cores := rfl
@[simp] theorem setReg_clusters (id : RegId) (ix : List Nat) (v : Long) : (s.setReg id ix v).clusters = s.clusters := rfl
@[simp] theorem setReg_parts (id : RegId) (ix : List Nat) (v : Long) : (s.setReg id ix v).parts = s.parts := rfl
@[simp] theorem setReg_hdr (id : RegId) (ix : List Nat) (v : Long) : (s.setReg id ix v).hdr = s.hdr := rfl
@[simp] theorem setReg_place (id : RegId) (ix : List Nat) (v : Long) : (s.setReg id ix v).place = s.place := rfl
@[simp] theorem setReg_load (id : RegId) (ix : List Nat) (v : Long) : (s.setReg id ix v).load = s.load := rfl
@[simp] theorem setReg_resets (id : RegId) (ix : List Nat) (v : Long) : (s.setReg id ix v).resets = s.resets := rfl
@[simp] theorem setReg_ports (id : RegId) (ix : List Nat) (v : Long) : (s.setReg id ix v).ports = s.ports := rfl
@[simp] theorem setReg_waiting (id : RegId) (ix : List Nat) (v : Long) : (s.setReg id ix v).waiting = s.waiting := rfl
@[simp] theorem setReg_paceSeq (id : RegId) (ix : List Nat) (v : Long) : (s.setReg id ix v).paceSeq = s.paceSeq := rfl
@[simp] theorem setReg_paceDue (id : RegId) (ix : List Nat) (v : Long) : (s.setReg id ix v).paceDue = s.paceDue := rfl
@[simp] theorem setReg_sessions (id : RegId) (ix : List Nat) (v : Long) : (s.setReg id ix v).sessions = s.sessions := rfl
@[simp] theorem setReg_nextId (id : RegId) (ix : List Nat) (v : Long) : (s.setReg id ix v).nextId = s.nextId := rfl
@[simp] theorem setReg_qps (id : RegId) (ix : List Nat) (v : Long) : (s.setReg id ix v).qps = s.qps := rfl
@[simp] theorem setReg_regions (id : RegId) (ix : List Nat) (v : Long) : (s.setReg id ix v).regions = s.regions := rfl
@[simp] theorem setReg_gatePosts (id : RegId) (ix : List Nat) (v : Long) : (s.setReg id ix v).gatePosts = s.gatePosts := rfl
@[simp] theorem setReg_ferries (id : RegId) (ix : List Nat) (v : Long) : (s.setReg id ix v).ferries = s.ferries := rfl
@[simp] theorem setReg_saves (id : RegId) (ix : List Nat) (v : Long) : (s.setReg id ix v).saves = s.saves := rfl
@[simp] theorem setReg_job (id : RegId) (ix : List Nat) (v : Long) : (s.setReg id ix v).job = s.job := rfl
@[simp] theorem setReg_cart (id : RegId) (ix : List Nat) (v : Long) : (s.setReg id ix v).cart = s.cart := rfl
@[simp] theorem setReg_weir (id : RegId) (ix : List Nat) (v : Long) : (s.setReg id ix v).weir = s.weir := rfl
@[simp] theorem setReg_meter (id : RegId) (ix : List Nat) (v : Long) : (s.setReg id ix v).meter = s.meter := rfl
@[simp] theorem setReg_xings (id : RegId) (ix : List Nat) (v : Long) : (s.setReg id ix v).xings = s.xings := rfl
@[simp] theorem setReg_retireA (id : RegId) (ix : List Nat) (v : Long) : (s.setReg id ix v).retireA = s.retireA := rfl
@[simp] theorem setReg_retireB (id : RegId) (ix : List Nat) (v : Long) : (s.setReg id ix v).retireB = s.retireB := rfl
@[simp] theorem setReg_bist (id : RegId) (ix : List Nat) (v : Long) : (s.setReg id ix v).bist = s.bist := rfl
@[simp] theorem setReg_bootStep (id : RegId) (ix : List Nat) (v : Long) : (s.setReg id ix v).bootStep = s.bootStep := rfl
@[simp] theorem setReg_feedA (id : RegId) (ix : List Nat) (v : Long) : (s.setReg id ix v).feedA = s.feedA := rfl
@[simp] theorem setReg_feedB (id : RegId) (ix : List Nat) (v : Long) : (s.setReg id ix v).feedB = s.feedB := rfl
@[simp] theorem setReg_life (id : RegId) (ix : List Nat) (v : Long) : (s.setReg id ix v).life = s.life := rfl
@[simp] theorem setReg_keeper (id : RegId) (ix : List Nat) (v : Long) : (s.setReg id ix v).keeper = s.keeper := rfl
@[simp] theorem setReg_hbm (id : RegId) (ix : List Nat) (v : Long) : (s.setReg id ix v).hbm = s.hbm := rfl
@[simp] theorem setReg_derated (id : RegId) (ix : List Nat) (v : Long) : (s.setReg id ix v).derated = s.derated := rfl
@[simp] theorem setReg_off (id : RegId) (ix : List Nat) (v : Long) : (s.setReg id ix v).off = s.off := rfl
@[simp] theorem setReg_sluices (id : RegId) (ix : List Nat) (v : Long) : (s.setReg id ix v).sluices = s.sluices := rfl
@[simp] theorem setReg_netFlash (id : RegId) (ix : List Nat) (v : Long) : (s.setReg id ix v).netFlash = s.netFlash := rfl

/-! ### setRegF -/

@[simp] theorem setRegF_dieSeen (id : RegId) (ix : List Nat) (hi lo v : Nat) : (s.setRegF id ix hi lo v).dieSeen = s.dieSeen := rfl
@[simp] theorem setRegF_pfcSent (id : RegId) (ix : List Nat) (hi lo v : Nat) : (s.setRegF id ix hi lo v).pfcSent = s.pfcSent := rfl
@[simp] theorem setRegF_waitOut (id : RegId) (ix : List Nat) (hi lo v : Nat) : (s.setRegF id ix hi lo v).waitOut = s.waitOut := rfl
@[simp] theorem setRegF_pending (id : RegId) (ix : List Nat) (hi lo v : Nat) : (s.setRegF id ix hi lo v).pending = s.pending := rfl
@[simp] theorem setRegF_fresh (id : RegId) (ix : List Nat) (hi lo v : Nat) : (s.setRegF id ix hi lo v).fresh = s.fresh := rfl
@[simp] theorem setRegF_out (id : RegId) (ix : List Nat) (hi lo v : Nat) : (s.setRegF id ix hi lo v).out = s.out := rfl
@[simp] theorem setRegF_eth (id : RegId) (ix : List Nat) (hi lo v : Nat) : (s.setRegF id ix hi lo v).eth = s.eth := rfl
@[simp] theorem setRegF_paused (id : RegId) (ix : List Nat) (hi lo v : Nat) : (s.setRegF id ix hi lo v).paused = s.paused := rfl
@[simp] theorem setRegF_tick (id : RegId) (ix : List Nat) (hi lo v : Nat) : (s.setRegF id ix hi lo v).tick = s.tick := rfl
@[simp] theorem setRegF_opTicks (id : RegId) (ix : List Nat) (hi lo v : Nat) : (s.setRegF id ix hi lo v).opTicks = s.opTicks := rfl
@[simp] theorem setRegF_fast (id : RegId) (ix : List Nat) (hi lo v : Nat) : (s.setRegF id ix hi lo v).fast = s.fast := rfl
@[simp] theorem setRegF_slow (id : RegId) (ix : List Nat) (hi lo v : Nat) : (s.setRegF id ix hi lo v).slow = s.slow := rfl
@[simp] theorem setRegF_vats (id : RegId) (ix : List Nat) (hi lo v : Nat) : (s.setRegF id ix hi lo v).vats = s.vats := rfl
@[simp] theorem setRegF_pools (id : RegId) (ix : List Nat) (hi lo v : Nat) : (s.setRegF id ix hi lo v).pools = s.pools := rfl
@[simp] theorem setRegF_held (id : RegId) (ix : List Nat) (hi lo v : Nat) : (s.setRegF id ix hi lo v).held = s.held := rfl
@[simp] theorem setRegF_failing (id : RegId) (ix : List Nat) (hi lo v : Nat) : (s.setRegF id ix hi lo v).failing = s.failing := rfl
@[simp] theorem setRegF_stalled (id : RegId) (ix : List Nat) (hi lo v : Nat) : (s.setRegF id ix hi lo v).stalled = s.stalled := rfl
@[simp] theorem setRegF_cores (id : RegId) (ix : List Nat) (hi lo v : Nat) : (s.setRegF id ix hi lo v).cores = s.cores := rfl
@[simp] theorem setRegF_clusters (id : RegId) (ix : List Nat) (hi lo v : Nat) : (s.setRegF id ix hi lo v).clusters = s.clusters := rfl
@[simp] theorem setRegF_parts (id : RegId) (ix : List Nat) (hi lo v : Nat) : (s.setRegF id ix hi lo v).parts = s.parts := rfl
@[simp] theorem setRegF_hdr (id : RegId) (ix : List Nat) (hi lo v : Nat) : (s.setRegF id ix hi lo v).hdr = s.hdr := rfl
@[simp] theorem setRegF_place (id : RegId) (ix : List Nat) (hi lo v : Nat) : (s.setRegF id ix hi lo v).place = s.place := rfl
@[simp] theorem setRegF_load (id : RegId) (ix : List Nat) (hi lo v : Nat) : (s.setRegF id ix hi lo v).load = s.load := rfl
@[simp] theorem setRegF_resets (id : RegId) (ix : List Nat) (hi lo v : Nat) : (s.setRegF id ix hi lo v).resets = s.resets := rfl
@[simp] theorem setRegF_ports (id : RegId) (ix : List Nat) (hi lo v : Nat) : (s.setRegF id ix hi lo v).ports = s.ports := rfl
@[simp] theorem setRegF_waiting (id : RegId) (ix : List Nat) (hi lo v : Nat) : (s.setRegF id ix hi lo v).waiting = s.waiting := rfl
@[simp] theorem setRegF_paceSeq (id : RegId) (ix : List Nat) (hi lo v : Nat) : (s.setRegF id ix hi lo v).paceSeq = s.paceSeq := rfl
@[simp] theorem setRegF_paceDue (id : RegId) (ix : List Nat) (hi lo v : Nat) : (s.setRegF id ix hi lo v).paceDue = s.paceDue := rfl
@[simp] theorem setRegF_sessions (id : RegId) (ix : List Nat) (hi lo v : Nat) : (s.setRegF id ix hi lo v).sessions = s.sessions := rfl
@[simp] theorem setRegF_nextId (id : RegId) (ix : List Nat) (hi lo v : Nat) : (s.setRegF id ix hi lo v).nextId = s.nextId := rfl
@[simp] theorem setRegF_qps (id : RegId) (ix : List Nat) (hi lo v : Nat) : (s.setRegF id ix hi lo v).qps = s.qps := rfl
@[simp] theorem setRegF_regions (id : RegId) (ix : List Nat) (hi lo v : Nat) : (s.setRegF id ix hi lo v).regions = s.regions := rfl
@[simp] theorem setRegF_gatePosts (id : RegId) (ix : List Nat) (hi lo v : Nat) : (s.setRegF id ix hi lo v).gatePosts = s.gatePosts := rfl
@[simp] theorem setRegF_ferries (id : RegId) (ix : List Nat) (hi lo v : Nat) : (s.setRegF id ix hi lo v).ferries = s.ferries := rfl
@[simp] theorem setRegF_saves (id : RegId) (ix : List Nat) (hi lo v : Nat) : (s.setRegF id ix hi lo v).saves = s.saves := rfl
@[simp] theorem setRegF_job (id : RegId) (ix : List Nat) (hi lo v : Nat) : (s.setRegF id ix hi lo v).job = s.job := rfl
@[simp] theorem setRegF_cart (id : RegId) (ix : List Nat) (hi lo v : Nat) : (s.setRegF id ix hi lo v).cart = s.cart := rfl
@[simp] theorem setRegF_weir (id : RegId) (ix : List Nat) (hi lo v : Nat) : (s.setRegF id ix hi lo v).weir = s.weir := rfl
@[simp] theorem setRegF_meter (id : RegId) (ix : List Nat) (hi lo v : Nat) : (s.setRegF id ix hi lo v).meter = s.meter := rfl
@[simp] theorem setRegF_xings (id : RegId) (ix : List Nat) (hi lo v : Nat) : (s.setRegF id ix hi lo v).xings = s.xings := rfl
@[simp] theorem setRegF_retireA (id : RegId) (ix : List Nat) (hi lo v : Nat) : (s.setRegF id ix hi lo v).retireA = s.retireA := rfl
@[simp] theorem setRegF_retireB (id : RegId) (ix : List Nat) (hi lo v : Nat) : (s.setRegF id ix hi lo v).retireB = s.retireB := rfl
@[simp] theorem setRegF_bist (id : RegId) (ix : List Nat) (hi lo v : Nat) : (s.setRegF id ix hi lo v).bist = s.bist := rfl
@[simp] theorem setRegF_bootStep (id : RegId) (ix : List Nat) (hi lo v : Nat) : (s.setRegF id ix hi lo v).bootStep = s.bootStep := rfl
@[simp] theorem setRegF_feedA (id : RegId) (ix : List Nat) (hi lo v : Nat) : (s.setRegF id ix hi lo v).feedA = s.feedA := rfl
@[simp] theorem setRegF_feedB (id : RegId) (ix : List Nat) (hi lo v : Nat) : (s.setRegF id ix hi lo v).feedB = s.feedB := rfl
@[simp] theorem setRegF_life (id : RegId) (ix : List Nat) (hi lo v : Nat) : (s.setRegF id ix hi lo v).life = s.life := rfl
@[simp] theorem setRegF_keeper (id : RegId) (ix : List Nat) (hi lo v : Nat) : (s.setRegF id ix hi lo v).keeper = s.keeper := rfl
@[simp] theorem setRegF_hbm (id : RegId) (ix : List Nat) (hi lo v : Nat) : (s.setRegF id ix hi lo v).hbm = s.hbm := rfl
@[simp] theorem setRegF_derated (id : RegId) (ix : List Nat) (hi lo v : Nat) : (s.setRegF id ix hi lo v).derated = s.derated := rfl
@[simp] theorem setRegF_off (id : RegId) (ix : List Nat) (hi lo v : Nat) : (s.setRegF id ix hi lo v).off = s.off := rfl
@[simp] theorem setRegF_sluices (id : RegId) (ix : List Nat) (hi lo v : Nat) : (s.setRegF id ix hi lo v).sluices = s.sluices := rfl
@[simp] theorem setRegF_netFlash (id : RegId) (ix : List Nat) (hi lo v : Nat) : (s.setRegF id ix hi lo v).netFlash = s.netFlash := rfl

/-! ### bumpBy -/

@[simp] theorem bumpBy_dieSeen (id : RegId) (ix : List Nat) (hi lo n : Nat) : (s.bumpBy id ix hi lo n).dieSeen = s.dieSeen := rfl
@[simp] theorem bumpBy_pfcSent (id : RegId) (ix : List Nat) (hi lo n : Nat) : (s.bumpBy id ix hi lo n).pfcSent = s.pfcSent := rfl
@[simp] theorem bumpBy_waitOut (id : RegId) (ix : List Nat) (hi lo n : Nat) : (s.bumpBy id ix hi lo n).waitOut = s.waitOut := rfl
@[simp] theorem bumpBy_pending (id : RegId) (ix : List Nat) (hi lo n : Nat) : (s.bumpBy id ix hi lo n).pending = s.pending := rfl
@[simp] theorem bumpBy_fresh (id : RegId) (ix : List Nat) (hi lo n : Nat) : (s.bumpBy id ix hi lo n).fresh = s.fresh := rfl
@[simp] theorem bumpBy_out (id : RegId) (ix : List Nat) (hi lo n : Nat) : (s.bumpBy id ix hi lo n).out = s.out := rfl
@[simp] theorem bumpBy_eth (id : RegId) (ix : List Nat) (hi lo n : Nat) : (s.bumpBy id ix hi lo n).eth = s.eth := rfl
@[simp] theorem bumpBy_paused (id : RegId) (ix : List Nat) (hi lo n : Nat) : (s.bumpBy id ix hi lo n).paused = s.paused := rfl
@[simp] theorem bumpBy_tick (id : RegId) (ix : List Nat) (hi lo n : Nat) : (s.bumpBy id ix hi lo n).tick = s.tick := rfl
@[simp] theorem bumpBy_opTicks (id : RegId) (ix : List Nat) (hi lo n : Nat) : (s.bumpBy id ix hi lo n).opTicks = s.opTicks := rfl
@[simp] theorem bumpBy_fast (id : RegId) (ix : List Nat) (hi lo n : Nat) : (s.bumpBy id ix hi lo n).fast = s.fast := rfl
@[simp] theorem bumpBy_slow (id : RegId) (ix : List Nat) (hi lo n : Nat) : (s.bumpBy id ix hi lo n).slow = s.slow := rfl
@[simp] theorem bumpBy_vats (id : RegId) (ix : List Nat) (hi lo n : Nat) : (s.bumpBy id ix hi lo n).vats = s.vats := rfl
@[simp] theorem bumpBy_pools (id : RegId) (ix : List Nat) (hi lo n : Nat) : (s.bumpBy id ix hi lo n).pools = s.pools := rfl
@[simp] theorem bumpBy_held (id : RegId) (ix : List Nat) (hi lo n : Nat) : (s.bumpBy id ix hi lo n).held = s.held := rfl
@[simp] theorem bumpBy_failing (id : RegId) (ix : List Nat) (hi lo n : Nat) : (s.bumpBy id ix hi lo n).failing = s.failing := rfl
@[simp] theorem bumpBy_stalled (id : RegId) (ix : List Nat) (hi lo n : Nat) : (s.bumpBy id ix hi lo n).stalled = s.stalled := rfl
@[simp] theorem bumpBy_cores (id : RegId) (ix : List Nat) (hi lo n : Nat) : (s.bumpBy id ix hi lo n).cores = s.cores := rfl
@[simp] theorem bumpBy_clusters (id : RegId) (ix : List Nat) (hi lo n : Nat) : (s.bumpBy id ix hi lo n).clusters = s.clusters := rfl
@[simp] theorem bumpBy_parts (id : RegId) (ix : List Nat) (hi lo n : Nat) : (s.bumpBy id ix hi lo n).parts = s.parts := rfl
@[simp] theorem bumpBy_hdr (id : RegId) (ix : List Nat) (hi lo n : Nat) : (s.bumpBy id ix hi lo n).hdr = s.hdr := rfl
@[simp] theorem bumpBy_place (id : RegId) (ix : List Nat) (hi lo n : Nat) : (s.bumpBy id ix hi lo n).place = s.place := rfl
@[simp] theorem bumpBy_load (id : RegId) (ix : List Nat) (hi lo n : Nat) : (s.bumpBy id ix hi lo n).load = s.load := rfl
@[simp] theorem bumpBy_resets (id : RegId) (ix : List Nat) (hi lo n : Nat) : (s.bumpBy id ix hi lo n).resets = s.resets := rfl
@[simp] theorem bumpBy_ports (id : RegId) (ix : List Nat) (hi lo n : Nat) : (s.bumpBy id ix hi lo n).ports = s.ports := rfl
@[simp] theorem bumpBy_waiting (id : RegId) (ix : List Nat) (hi lo n : Nat) : (s.bumpBy id ix hi lo n).waiting = s.waiting := rfl
@[simp] theorem bumpBy_paceSeq (id : RegId) (ix : List Nat) (hi lo n : Nat) : (s.bumpBy id ix hi lo n).paceSeq = s.paceSeq := rfl
@[simp] theorem bumpBy_paceDue (id : RegId) (ix : List Nat) (hi lo n : Nat) : (s.bumpBy id ix hi lo n).paceDue = s.paceDue := rfl
@[simp] theorem bumpBy_sessions (id : RegId) (ix : List Nat) (hi lo n : Nat) : (s.bumpBy id ix hi lo n).sessions = s.sessions := rfl
@[simp] theorem bumpBy_nextId (id : RegId) (ix : List Nat) (hi lo n : Nat) : (s.bumpBy id ix hi lo n).nextId = s.nextId := rfl
@[simp] theorem bumpBy_qps (id : RegId) (ix : List Nat) (hi lo n : Nat) : (s.bumpBy id ix hi lo n).qps = s.qps := rfl
@[simp] theorem bumpBy_regions (id : RegId) (ix : List Nat) (hi lo n : Nat) : (s.bumpBy id ix hi lo n).regions = s.regions := rfl
@[simp] theorem bumpBy_gatePosts (id : RegId) (ix : List Nat) (hi lo n : Nat) : (s.bumpBy id ix hi lo n).gatePosts = s.gatePosts := rfl
@[simp] theorem bumpBy_ferries (id : RegId) (ix : List Nat) (hi lo n : Nat) : (s.bumpBy id ix hi lo n).ferries = s.ferries := rfl
@[simp] theorem bumpBy_saves (id : RegId) (ix : List Nat) (hi lo n : Nat) : (s.bumpBy id ix hi lo n).saves = s.saves := rfl
@[simp] theorem bumpBy_job (id : RegId) (ix : List Nat) (hi lo n : Nat) : (s.bumpBy id ix hi lo n).job = s.job := rfl
@[simp] theorem bumpBy_cart (id : RegId) (ix : List Nat) (hi lo n : Nat) : (s.bumpBy id ix hi lo n).cart = s.cart := rfl
@[simp] theorem bumpBy_weir (id : RegId) (ix : List Nat) (hi lo n : Nat) : (s.bumpBy id ix hi lo n).weir = s.weir := rfl
@[simp] theorem bumpBy_meter (id : RegId) (ix : List Nat) (hi lo n : Nat) : (s.bumpBy id ix hi lo n).meter = s.meter := rfl
@[simp] theorem bumpBy_xings (id : RegId) (ix : List Nat) (hi lo n : Nat) : (s.bumpBy id ix hi lo n).xings = s.xings := rfl
@[simp] theorem bumpBy_retireA (id : RegId) (ix : List Nat) (hi lo n : Nat) : (s.bumpBy id ix hi lo n).retireA = s.retireA := rfl
@[simp] theorem bumpBy_retireB (id : RegId) (ix : List Nat) (hi lo n : Nat) : (s.bumpBy id ix hi lo n).retireB = s.retireB := rfl
@[simp] theorem bumpBy_bist (id : RegId) (ix : List Nat) (hi lo n : Nat) : (s.bumpBy id ix hi lo n).bist = s.bist := rfl
@[simp] theorem bumpBy_bootStep (id : RegId) (ix : List Nat) (hi lo n : Nat) : (s.bumpBy id ix hi lo n).bootStep = s.bootStep := rfl
@[simp] theorem bumpBy_feedA (id : RegId) (ix : List Nat) (hi lo n : Nat) : (s.bumpBy id ix hi lo n).feedA = s.feedA := rfl
@[simp] theorem bumpBy_feedB (id : RegId) (ix : List Nat) (hi lo n : Nat) : (s.bumpBy id ix hi lo n).feedB = s.feedB := rfl
@[simp] theorem bumpBy_life (id : RegId) (ix : List Nat) (hi lo n : Nat) : (s.bumpBy id ix hi lo n).life = s.life := rfl
@[simp] theorem bumpBy_keeper (id : RegId) (ix : List Nat) (hi lo n : Nat) : (s.bumpBy id ix hi lo n).keeper = s.keeper := rfl
@[simp] theorem bumpBy_hbm (id : RegId) (ix : List Nat) (hi lo n : Nat) : (s.bumpBy id ix hi lo n).hbm = s.hbm := rfl
@[simp] theorem bumpBy_derated (id : RegId) (ix : List Nat) (hi lo n : Nat) : (s.bumpBy id ix hi lo n).derated = s.derated := rfl
@[simp] theorem bumpBy_off (id : RegId) (ix : List Nat) (hi lo n : Nat) : (s.bumpBy id ix hi lo n).off = s.off := rfl
@[simp] theorem bumpBy_sluices (id : RegId) (ix : List Nat) (hi lo n : Nat) : (s.bumpBy id ix hi lo n).sluices = s.sluices := rfl
@[simp] theorem bumpBy_netFlash (id : RegId) (ix : List Nat) (hi lo n : Nat) : (s.bumpBy id ix hi lo n).netFlash = s.netFlash := rfl

/-! ### setCore -/

@[simp] theorem setCore_dieSeen (c : Nat) (k : Core) : (s.setCore c k).dieSeen = s.dieSeen := rfl
@[simp] theorem setCore_pfcSent (c : Nat) (k : Core) : (s.setCore c k).pfcSent = s.pfcSent := rfl
@[simp] theorem setCore_waitOut (c : Nat) (k : Core) : (s.setCore c k).waitOut = s.waitOut := rfl
@[simp] theorem setCore_pending (c : Nat) (k : Core) : (s.setCore c k).pending = s.pending := rfl
@[simp] theorem setCore_fresh (c : Nat) (k : Core) : (s.setCore c k).fresh = s.fresh := rfl
@[simp] theorem setCore_out (c : Nat) (k : Core) : (s.setCore c k).out = s.out := rfl
@[simp] theorem setCore_eth (c : Nat) (k : Core) : (s.setCore c k).eth = s.eth := rfl
@[simp] theorem setCore_paused (c : Nat) (k : Core) : (s.setCore c k).paused = s.paused := rfl
@[simp] theorem setCore_tick (c : Nat) (k : Core) : (s.setCore c k).tick = s.tick := rfl
@[simp] theorem setCore_opTicks (c : Nat) (k : Core) : (s.setCore c k).opTicks = s.opTicks := rfl
@[simp] theorem setCore_mrs (c : Nat) (k : Core) : (s.setCore c k).mrs = s.mrs := rfl
@[simp] theorem setCore_fast (c : Nat) (k : Core) : (s.setCore c k).fast = s.fast := rfl
@[simp] theorem setCore_slow (c : Nat) (k : Core) : (s.setCore c k).slow = s.slow := rfl
@[simp] theorem setCore_vats (c : Nat) (k : Core) : (s.setCore c k).vats = s.vats := rfl
@[simp] theorem setCore_pools (c : Nat) (k : Core) : (s.setCore c k).pools = s.pools := rfl
@[simp] theorem setCore_held (c : Nat) (k : Core) : (s.setCore c k).held = s.held := rfl
@[simp] theorem setCore_failing (c : Nat) (k : Core) : (s.setCore c k).failing = s.failing := rfl
@[simp] theorem setCore_stalled (c : Nat) (k : Core) : (s.setCore c k).stalled = s.stalled := rfl
@[simp] theorem setCore_clusters (c : Nat) (k : Core) : (s.setCore c k).clusters = s.clusters := rfl
@[simp] theorem setCore_parts (c : Nat) (k : Core) : (s.setCore c k).parts = s.parts := rfl
@[simp] theorem setCore_hdr (c : Nat) (k : Core) : (s.setCore c k).hdr = s.hdr := rfl
@[simp] theorem setCore_place (c : Nat) (k : Core) : (s.setCore c k).place = s.place := rfl
@[simp] theorem setCore_load (c : Nat) (k : Core) : (s.setCore c k).load = s.load := rfl
@[simp] theorem setCore_resets (c : Nat) (k : Core) : (s.setCore c k).resets = s.resets := rfl
@[simp] theorem setCore_ports (c : Nat) (k : Core) : (s.setCore c k).ports = s.ports := rfl
@[simp] theorem setCore_waiting (c : Nat) (k : Core) : (s.setCore c k).waiting = s.waiting := rfl
@[simp] theorem setCore_paceSeq (c : Nat) (k : Core) : (s.setCore c k).paceSeq = s.paceSeq := rfl
@[simp] theorem setCore_paceDue (c : Nat) (k : Core) : (s.setCore c k).paceDue = s.paceDue := rfl
@[simp] theorem setCore_sessions (c : Nat) (k : Core) : (s.setCore c k).sessions = s.sessions := rfl
@[simp] theorem setCore_nextId (c : Nat) (k : Core) : (s.setCore c k).nextId = s.nextId := rfl
@[simp] theorem setCore_qps (c : Nat) (k : Core) : (s.setCore c k).qps = s.qps := rfl
@[simp] theorem setCore_regions (c : Nat) (k : Core) : (s.setCore c k).regions = s.regions := rfl
@[simp] theorem setCore_gatePosts (c : Nat) (k : Core) : (s.setCore c k).gatePosts = s.gatePosts := rfl
@[simp] theorem setCore_ferries (c : Nat) (k : Core) : (s.setCore c k).ferries = s.ferries := rfl
@[simp] theorem setCore_saves (c : Nat) (k : Core) : (s.setCore c k).saves = s.saves := rfl
@[simp] theorem setCore_job (c : Nat) (k : Core) : (s.setCore c k).job = s.job := rfl
@[simp] theorem setCore_cart (c : Nat) (k : Core) : (s.setCore c k).cart = s.cart := rfl
@[simp] theorem setCore_weir (c : Nat) (k : Core) : (s.setCore c k).weir = s.weir := rfl
@[simp] theorem setCore_meter (c : Nat) (k : Core) : (s.setCore c k).meter = s.meter := rfl
@[simp] theorem setCore_xings (c : Nat) (k : Core) : (s.setCore c k).xings = s.xings := rfl
@[simp] theorem setCore_retireA (c : Nat) (k : Core) : (s.setCore c k).retireA = s.retireA := rfl
@[simp] theorem setCore_retireB (c : Nat) (k : Core) : (s.setCore c k).retireB = s.retireB := rfl
@[simp] theorem setCore_bist (c : Nat) (k : Core) : (s.setCore c k).bist = s.bist := rfl
@[simp] theorem setCore_bootStep (c : Nat) (k : Core) : (s.setCore c k).bootStep = s.bootStep := rfl
@[simp] theorem setCore_feedA (c : Nat) (k : Core) : (s.setCore c k).feedA = s.feedA := rfl
@[simp] theorem setCore_feedB (c : Nat) (k : Core) : (s.setCore c k).feedB = s.feedB := rfl
@[simp] theorem setCore_life (c : Nat) (k : Core) : (s.setCore c k).life = s.life := rfl
@[simp] theorem setCore_keeper (c : Nat) (k : Core) : (s.setCore c k).keeper = s.keeper := rfl
@[simp] theorem setCore_hbm (c : Nat) (k : Core) : (s.setCore c k).hbm = s.hbm := rfl
@[simp] theorem setCore_derated (c : Nat) (k : Core) : (s.setCore c k).derated = s.derated := rfl
@[simp] theorem setCore_off (c : Nat) (k : Core) : (s.setCore c k).off = s.off := rfl
@[simp] theorem setCore_sluices (c : Nat) (k : Core) : (s.setCore c k).sluices = s.sluices := rfl
@[simp] theorem setCore_netFlash (c : Nat) (k : Core) : (s.setCore c k).netFlash = s.netFlash := rfl

/-! ### modCore -/

@[simp] theorem modCore_dieSeen (c : Nat) (f : Core → Core) : (s.modCore c f).dieSeen = s.dieSeen := rfl
@[simp] theorem modCore_pfcSent (c : Nat) (f : Core → Core) : (s.modCore c f).pfcSent = s.pfcSent := rfl
@[simp] theorem modCore_waitOut (c : Nat) (f : Core → Core) : (s.modCore c f).waitOut = s.waitOut := rfl
@[simp] theorem modCore_pending (c : Nat) (f : Core → Core) : (s.modCore c f).pending = s.pending := rfl
@[simp] theorem modCore_fresh (c : Nat) (f : Core → Core) : (s.modCore c f).fresh = s.fresh := rfl
@[simp] theorem modCore_out (c : Nat) (f : Core → Core) : (s.modCore c f).out = s.out := rfl
@[simp] theorem modCore_eth (c : Nat) (f : Core → Core) : (s.modCore c f).eth = s.eth := rfl
@[simp] theorem modCore_paused (c : Nat) (f : Core → Core) : (s.modCore c f).paused = s.paused := rfl
@[simp] theorem modCore_tick (c : Nat) (f : Core → Core) : (s.modCore c f).tick = s.tick := rfl
@[simp] theorem modCore_opTicks (c : Nat) (f : Core → Core) : (s.modCore c f).opTicks = s.opTicks := rfl
@[simp] theorem modCore_mrs (c : Nat) (f : Core → Core) : (s.modCore c f).mrs = s.mrs := rfl
@[simp] theorem modCore_fast (c : Nat) (f : Core → Core) : (s.modCore c f).fast = s.fast := rfl
@[simp] theorem modCore_slow (c : Nat) (f : Core → Core) : (s.modCore c f).slow = s.slow := rfl
@[simp] theorem modCore_vats (c : Nat) (f : Core → Core) : (s.modCore c f).vats = s.vats := rfl
@[simp] theorem modCore_pools (c : Nat) (f : Core → Core) : (s.modCore c f).pools = s.pools := rfl
@[simp] theorem modCore_held (c : Nat) (f : Core → Core) : (s.modCore c f).held = s.held := rfl
@[simp] theorem modCore_failing (c : Nat) (f : Core → Core) : (s.modCore c f).failing = s.failing := rfl
@[simp] theorem modCore_stalled (c : Nat) (f : Core → Core) : (s.modCore c f).stalled = s.stalled := rfl
@[simp] theorem modCore_clusters (c : Nat) (f : Core → Core) : (s.modCore c f).clusters = s.clusters := rfl
@[simp] theorem modCore_parts (c : Nat) (f : Core → Core) : (s.modCore c f).parts = s.parts := rfl
@[simp] theorem modCore_hdr (c : Nat) (f : Core → Core) : (s.modCore c f).hdr = s.hdr := rfl
@[simp] theorem modCore_place (c : Nat) (f : Core → Core) : (s.modCore c f).place = s.place := rfl
@[simp] theorem modCore_load (c : Nat) (f : Core → Core) : (s.modCore c f).load = s.load := rfl
@[simp] theorem modCore_resets (c : Nat) (f : Core → Core) : (s.modCore c f).resets = s.resets := rfl
@[simp] theorem modCore_ports (c : Nat) (f : Core → Core) : (s.modCore c f).ports = s.ports := rfl
@[simp] theorem modCore_waiting (c : Nat) (f : Core → Core) : (s.modCore c f).waiting = s.waiting := rfl
@[simp] theorem modCore_paceSeq (c : Nat) (f : Core → Core) : (s.modCore c f).paceSeq = s.paceSeq := rfl
@[simp] theorem modCore_paceDue (c : Nat) (f : Core → Core) : (s.modCore c f).paceDue = s.paceDue := rfl
@[simp] theorem modCore_sessions (c : Nat) (f : Core → Core) : (s.modCore c f).sessions = s.sessions := rfl
@[simp] theorem modCore_nextId (c : Nat) (f : Core → Core) : (s.modCore c f).nextId = s.nextId := rfl
@[simp] theorem modCore_qps (c : Nat) (f : Core → Core) : (s.modCore c f).qps = s.qps := rfl
@[simp] theorem modCore_regions (c : Nat) (f : Core → Core) : (s.modCore c f).regions = s.regions := rfl
@[simp] theorem modCore_gatePosts (c : Nat) (f : Core → Core) : (s.modCore c f).gatePosts = s.gatePosts := rfl
@[simp] theorem modCore_ferries (c : Nat) (f : Core → Core) : (s.modCore c f).ferries = s.ferries := rfl
@[simp] theorem modCore_saves (c : Nat) (f : Core → Core) : (s.modCore c f).saves = s.saves := rfl
@[simp] theorem modCore_job (c : Nat) (f : Core → Core) : (s.modCore c f).job = s.job := rfl
@[simp] theorem modCore_cart (c : Nat) (f : Core → Core) : (s.modCore c f).cart = s.cart := rfl
@[simp] theorem modCore_weir (c : Nat) (f : Core → Core) : (s.modCore c f).weir = s.weir := rfl
@[simp] theorem modCore_meter (c : Nat) (f : Core → Core) : (s.modCore c f).meter = s.meter := rfl
@[simp] theorem modCore_xings (c : Nat) (f : Core → Core) : (s.modCore c f).xings = s.xings := rfl
@[simp] theorem modCore_retireA (c : Nat) (f : Core → Core) : (s.modCore c f).retireA = s.retireA := rfl
@[simp] theorem modCore_retireB (c : Nat) (f : Core → Core) : (s.modCore c f).retireB = s.retireB := rfl
@[simp] theorem modCore_bist (c : Nat) (f : Core → Core) : (s.modCore c f).bist = s.bist := rfl
@[simp] theorem modCore_bootStep (c : Nat) (f : Core → Core) : (s.modCore c f).bootStep = s.bootStep := rfl
@[simp] theorem modCore_feedA (c : Nat) (f : Core → Core) : (s.modCore c f).feedA = s.feedA := rfl
@[simp] theorem modCore_feedB (c : Nat) (f : Core → Core) : (s.modCore c f).feedB = s.feedB := rfl
@[simp] theorem modCore_life (c : Nat) (f : Core → Core) : (s.modCore c f).life = s.life := rfl
@[simp] theorem modCore_keeper (c : Nat) (f : Core → Core) : (s.modCore c f).keeper = s.keeper := rfl
@[simp] theorem modCore_hbm (c : Nat) (f : Core → Core) : (s.modCore c f).hbm = s.hbm := rfl
@[simp] theorem modCore_derated (c : Nat) (f : Core → Core) : (s.modCore c f).derated = s.derated := rfl
@[simp] theorem modCore_off (c : Nat) (f : Core → Core) : (s.modCore c f).off = s.off := rfl
@[simp] theorem modCore_sluices (c : Nat) (f : Core → Core) : (s.modCore c f).sluices = s.sluices := rfl
@[simp] theorem modCore_netFlash (c : Nat) (f : Core → Core) : (s.modCore c f).netFlash = s.netFlash := rfl

/-! ### modEntry -/

@[simp] theorem modEntry_dieSeen (c u : Nat) (f : Entry → Entry) : (s.modEntry c u f).dieSeen = s.dieSeen := rfl
@[simp] theorem modEntry_pfcSent (c u : Nat) (f : Entry → Entry) : (s.modEntry c u f).pfcSent = s.pfcSent := rfl
@[simp] theorem modEntry_waitOut (c u : Nat) (f : Entry → Entry) : (s.modEntry c u f).waitOut = s.waitOut := rfl
@[simp] theorem modEntry_pending (c u : Nat) (f : Entry → Entry) : (s.modEntry c u f).pending = s.pending := rfl
@[simp] theorem modEntry_fresh (c u : Nat) (f : Entry → Entry) : (s.modEntry c u f).fresh = s.fresh := rfl
@[simp] theorem modEntry_out (c u : Nat) (f : Entry → Entry) : (s.modEntry c u f).out = s.out := rfl
@[simp] theorem modEntry_eth (c u : Nat) (f : Entry → Entry) : (s.modEntry c u f).eth = s.eth := rfl
@[simp] theorem modEntry_paused (c u : Nat) (f : Entry → Entry) : (s.modEntry c u f).paused = s.paused := rfl
@[simp] theorem modEntry_tick (c u : Nat) (f : Entry → Entry) : (s.modEntry c u f).tick = s.tick := rfl
@[simp] theorem modEntry_opTicks (c u : Nat) (f : Entry → Entry) : (s.modEntry c u f).opTicks = s.opTicks := rfl
@[simp] theorem modEntry_mrs (c u : Nat) (f : Entry → Entry) : (s.modEntry c u f).mrs = s.mrs := rfl
@[simp] theorem modEntry_fast (c u : Nat) (f : Entry → Entry) : (s.modEntry c u f).fast = s.fast := rfl
@[simp] theorem modEntry_slow (c u : Nat) (f : Entry → Entry) : (s.modEntry c u f).slow = s.slow := rfl
@[simp] theorem modEntry_vats (c u : Nat) (f : Entry → Entry) : (s.modEntry c u f).vats = s.vats := rfl
@[simp] theorem modEntry_pools (c u : Nat) (f : Entry → Entry) : (s.modEntry c u f).pools = s.pools := rfl
@[simp] theorem modEntry_held (c u : Nat) (f : Entry → Entry) : (s.modEntry c u f).held = s.held := rfl
@[simp] theorem modEntry_failing (c u : Nat) (f : Entry → Entry) : (s.modEntry c u f).failing = s.failing := rfl
@[simp] theorem modEntry_stalled (c u : Nat) (f : Entry → Entry) : (s.modEntry c u f).stalled = s.stalled := rfl
@[simp] theorem modEntry_clusters (c u : Nat) (f : Entry → Entry) : (s.modEntry c u f).clusters = s.clusters := rfl
@[simp] theorem modEntry_parts (c u : Nat) (f : Entry → Entry) : (s.modEntry c u f).parts = s.parts := rfl
@[simp] theorem modEntry_hdr (c u : Nat) (f : Entry → Entry) : (s.modEntry c u f).hdr = s.hdr := rfl
@[simp] theorem modEntry_place (c u : Nat) (f : Entry → Entry) : (s.modEntry c u f).place = s.place := rfl
@[simp] theorem modEntry_load (c u : Nat) (f : Entry → Entry) : (s.modEntry c u f).load = s.load := rfl
@[simp] theorem modEntry_resets (c u : Nat) (f : Entry → Entry) : (s.modEntry c u f).resets = s.resets := rfl
@[simp] theorem modEntry_ports (c u : Nat) (f : Entry → Entry) : (s.modEntry c u f).ports = s.ports := rfl
@[simp] theorem modEntry_waiting (c u : Nat) (f : Entry → Entry) : (s.modEntry c u f).waiting = s.waiting := rfl
@[simp] theorem modEntry_paceSeq (c u : Nat) (f : Entry → Entry) : (s.modEntry c u f).paceSeq = s.paceSeq := rfl
@[simp] theorem modEntry_paceDue (c u : Nat) (f : Entry → Entry) : (s.modEntry c u f).paceDue = s.paceDue := rfl
@[simp] theorem modEntry_sessions (c u : Nat) (f : Entry → Entry) : (s.modEntry c u f).sessions = s.sessions := rfl
@[simp] theorem modEntry_nextId (c u : Nat) (f : Entry → Entry) : (s.modEntry c u f).nextId = s.nextId := rfl
@[simp] theorem modEntry_qps (c u : Nat) (f : Entry → Entry) : (s.modEntry c u f).qps = s.qps := rfl
@[simp] theorem modEntry_regions (c u : Nat) (f : Entry → Entry) : (s.modEntry c u f).regions = s.regions := rfl
@[simp] theorem modEntry_gatePosts (c u : Nat) (f : Entry → Entry) : (s.modEntry c u f).gatePosts = s.gatePosts := rfl
@[simp] theorem modEntry_ferries (c u : Nat) (f : Entry → Entry) : (s.modEntry c u f).ferries = s.ferries := rfl
@[simp] theorem modEntry_saves (c u : Nat) (f : Entry → Entry) : (s.modEntry c u f).saves = s.saves := rfl
@[simp] theorem modEntry_job (c u : Nat) (f : Entry → Entry) : (s.modEntry c u f).job = s.job := rfl
@[simp] theorem modEntry_cart (c u : Nat) (f : Entry → Entry) : (s.modEntry c u f).cart = s.cart := rfl
@[simp] theorem modEntry_weir (c u : Nat) (f : Entry → Entry) : (s.modEntry c u f).weir = s.weir := rfl
@[simp] theorem modEntry_meter (c u : Nat) (f : Entry → Entry) : (s.modEntry c u f).meter = s.meter := rfl
@[simp] theorem modEntry_xings (c u : Nat) (f : Entry → Entry) : (s.modEntry c u f).xings = s.xings := rfl
@[simp] theorem modEntry_retireA (c u : Nat) (f : Entry → Entry) : (s.modEntry c u f).retireA = s.retireA := rfl
@[simp] theorem modEntry_retireB (c u : Nat) (f : Entry → Entry) : (s.modEntry c u f).retireB = s.retireB := rfl
@[simp] theorem modEntry_bist (c u : Nat) (f : Entry → Entry) : (s.modEntry c u f).bist = s.bist := rfl
@[simp] theorem modEntry_bootStep (c u : Nat) (f : Entry → Entry) : (s.modEntry c u f).bootStep = s.bootStep := rfl
@[simp] theorem modEntry_feedA (c u : Nat) (f : Entry → Entry) : (s.modEntry c u f).feedA = s.feedA := rfl
@[simp] theorem modEntry_feedB (c u : Nat) (f : Entry → Entry) : (s.modEntry c u f).feedB = s.feedB := rfl
@[simp] theorem modEntry_life (c u : Nat) (f : Entry → Entry) : (s.modEntry c u f).life = s.life := rfl
@[simp] theorem modEntry_keeper (c u : Nat) (f : Entry → Entry) : (s.modEntry c u f).keeper = s.keeper := rfl
@[simp] theorem modEntry_hbm (c u : Nat) (f : Entry → Entry) : (s.modEntry c u f).hbm = s.hbm := rfl
@[simp] theorem modEntry_derated (c u : Nat) (f : Entry → Entry) : (s.modEntry c u f).derated = s.derated := rfl
@[simp] theorem modEntry_off (c u : Nat) (f : Entry → Entry) : (s.modEntry c u f).off = s.off := rfl
@[simp] theorem modEntry_sluices (c u : Nat) (f : Entry → Entry) : (s.modEntry c u f).sluices = s.sluices := rfl
@[simp] theorem modEntry_netFlash (c u : Nat) (f : Entry → Entry) : (s.modEntry c u f).netFlash = s.netFlash := rfl

/-! ### modCl -/

@[simp] theorem modCl_dieSeen (c : Nat) (f : Cluster → Cluster) : (s.modCl c f).dieSeen = s.dieSeen := rfl
@[simp] theorem modCl_pfcSent (c : Nat) (f : Cluster → Cluster) : (s.modCl c f).pfcSent = s.pfcSent := rfl
@[simp] theorem modCl_waitOut (c : Nat) (f : Cluster → Cluster) : (s.modCl c f).waitOut = s.waitOut := rfl
@[simp] theorem modCl_pending (c : Nat) (f : Cluster → Cluster) : (s.modCl c f).pending = s.pending := rfl
@[simp] theorem modCl_fresh (c : Nat) (f : Cluster → Cluster) : (s.modCl c f).fresh = s.fresh := rfl
@[simp] theorem modCl_out (c : Nat) (f : Cluster → Cluster) : (s.modCl c f).out = s.out := rfl
@[simp] theorem modCl_eth (c : Nat) (f : Cluster → Cluster) : (s.modCl c f).eth = s.eth := rfl
@[simp] theorem modCl_paused (c : Nat) (f : Cluster → Cluster) : (s.modCl c f).paused = s.paused := rfl
@[simp] theorem modCl_tick (c : Nat) (f : Cluster → Cluster) : (s.modCl c f).tick = s.tick := rfl
@[simp] theorem modCl_opTicks (c : Nat) (f : Cluster → Cluster) : (s.modCl c f).opTicks = s.opTicks := rfl
@[simp] theorem modCl_mrs (c : Nat) (f : Cluster → Cluster) : (s.modCl c f).mrs = s.mrs := rfl
@[simp] theorem modCl_fast (c : Nat) (f : Cluster → Cluster) : (s.modCl c f).fast = s.fast := rfl
@[simp] theorem modCl_slow (c : Nat) (f : Cluster → Cluster) : (s.modCl c f).slow = s.slow := rfl
@[simp] theorem modCl_vats (c : Nat) (f : Cluster → Cluster) : (s.modCl c f).vats = s.vats := rfl
@[simp] theorem modCl_pools (c : Nat) (f : Cluster → Cluster) : (s.modCl c f).pools = s.pools := rfl
@[simp] theorem modCl_held (c : Nat) (f : Cluster → Cluster) : (s.modCl c f).held = s.held := rfl
@[simp] theorem modCl_failing (c : Nat) (f : Cluster → Cluster) : (s.modCl c f).failing = s.failing := rfl
@[simp] theorem modCl_stalled (c : Nat) (f : Cluster → Cluster) : (s.modCl c f).stalled = s.stalled := rfl
@[simp] theorem modCl_cores (c : Nat) (f : Cluster → Cluster) : (s.modCl c f).cores = s.cores := rfl
@[simp] theorem modCl_parts (c : Nat) (f : Cluster → Cluster) : (s.modCl c f).parts = s.parts := rfl
@[simp] theorem modCl_hdr (c : Nat) (f : Cluster → Cluster) : (s.modCl c f).hdr = s.hdr := rfl
@[simp] theorem modCl_place (c : Nat) (f : Cluster → Cluster) : (s.modCl c f).place = s.place := rfl
@[simp] theorem modCl_load (c : Nat) (f : Cluster → Cluster) : (s.modCl c f).load = s.load := rfl
@[simp] theorem modCl_resets (c : Nat) (f : Cluster → Cluster) : (s.modCl c f).resets = s.resets := rfl
@[simp] theorem modCl_ports (c : Nat) (f : Cluster → Cluster) : (s.modCl c f).ports = s.ports := rfl
@[simp] theorem modCl_waiting (c : Nat) (f : Cluster → Cluster) : (s.modCl c f).waiting = s.waiting := rfl
@[simp] theorem modCl_paceSeq (c : Nat) (f : Cluster → Cluster) : (s.modCl c f).paceSeq = s.paceSeq := rfl
@[simp] theorem modCl_paceDue (c : Nat) (f : Cluster → Cluster) : (s.modCl c f).paceDue = s.paceDue := rfl
@[simp] theorem modCl_sessions (c : Nat) (f : Cluster → Cluster) : (s.modCl c f).sessions = s.sessions := rfl
@[simp] theorem modCl_nextId (c : Nat) (f : Cluster → Cluster) : (s.modCl c f).nextId = s.nextId := rfl
@[simp] theorem modCl_qps (c : Nat) (f : Cluster → Cluster) : (s.modCl c f).qps = s.qps := rfl
@[simp] theorem modCl_regions (c : Nat) (f : Cluster → Cluster) : (s.modCl c f).regions = s.regions := rfl
@[simp] theorem modCl_gatePosts (c : Nat) (f : Cluster → Cluster) : (s.modCl c f).gatePosts = s.gatePosts := rfl
@[simp] theorem modCl_ferries (c : Nat) (f : Cluster → Cluster) : (s.modCl c f).ferries = s.ferries := rfl
@[simp] theorem modCl_saves (c : Nat) (f : Cluster → Cluster) : (s.modCl c f).saves = s.saves := rfl
@[simp] theorem modCl_job (c : Nat) (f : Cluster → Cluster) : (s.modCl c f).job = s.job := rfl
@[simp] theorem modCl_cart (c : Nat) (f : Cluster → Cluster) : (s.modCl c f).cart = s.cart := rfl
@[simp] theorem modCl_weir (c : Nat) (f : Cluster → Cluster) : (s.modCl c f).weir = s.weir := rfl
@[simp] theorem modCl_meter (c : Nat) (f : Cluster → Cluster) : (s.modCl c f).meter = s.meter := rfl
@[simp] theorem modCl_xings (c : Nat) (f : Cluster → Cluster) : (s.modCl c f).xings = s.xings := rfl
@[simp] theorem modCl_retireA (c : Nat) (f : Cluster → Cluster) : (s.modCl c f).retireA = s.retireA := rfl
@[simp] theorem modCl_retireB (c : Nat) (f : Cluster → Cluster) : (s.modCl c f).retireB = s.retireB := rfl
@[simp] theorem modCl_bist (c : Nat) (f : Cluster → Cluster) : (s.modCl c f).bist = s.bist := rfl
@[simp] theorem modCl_bootStep (c : Nat) (f : Cluster → Cluster) : (s.modCl c f).bootStep = s.bootStep := rfl
@[simp] theorem modCl_feedA (c : Nat) (f : Cluster → Cluster) : (s.modCl c f).feedA = s.feedA := rfl
@[simp] theorem modCl_feedB (c : Nat) (f : Cluster → Cluster) : (s.modCl c f).feedB = s.feedB := rfl
@[simp] theorem modCl_life (c : Nat) (f : Cluster → Cluster) : (s.modCl c f).life = s.life := rfl
@[simp] theorem modCl_keeper (c : Nat) (f : Cluster → Cluster) : (s.modCl c f).keeper = s.keeper := rfl
@[simp] theorem modCl_hbm (c : Nat) (f : Cluster → Cluster) : (s.modCl c f).hbm = s.hbm := rfl
@[simp] theorem modCl_derated (c : Nat) (f : Cluster → Cluster) : (s.modCl c f).derated = s.derated := rfl
@[simp] theorem modCl_off (c : Nat) (f : Cluster → Cluster) : (s.modCl c f).off = s.off := rfl
@[simp] theorem modCl_sluices (c : Nat) (f : Cluster → Cluster) : (s.modCl c f).sluices = s.sluices := rfl
@[simp] theorem modCl_netFlash (c : Nat) (f : Cluster → Cluster) : (s.modCl c f).netFlash = s.netFlash := rfl

/-! ### modPart -/

@[simp] theorem modPart_dieSeen (p : Nat) (f : Part → Part) : (s.modPart p f).dieSeen = s.dieSeen := rfl
@[simp] theorem modPart_pfcSent (p : Nat) (f : Part → Part) : (s.modPart p f).pfcSent = s.pfcSent := rfl
@[simp] theorem modPart_waitOut (p : Nat) (f : Part → Part) : (s.modPart p f).waitOut = s.waitOut := rfl
@[simp] theorem modPart_pending (p : Nat) (f : Part → Part) : (s.modPart p f).pending = s.pending := rfl
@[simp] theorem modPart_fresh (p : Nat) (f : Part → Part) : (s.modPart p f).fresh = s.fresh := rfl
@[simp] theorem modPart_out (p : Nat) (f : Part → Part) : (s.modPart p f).out = s.out := rfl
@[simp] theorem modPart_eth (p : Nat) (f : Part → Part) : (s.modPart p f).eth = s.eth := rfl
@[simp] theorem modPart_paused (p : Nat) (f : Part → Part) : (s.modPart p f).paused = s.paused := rfl
@[simp] theorem modPart_tick (p : Nat) (f : Part → Part) : (s.modPart p f).tick = s.tick := rfl
@[simp] theorem modPart_opTicks (p : Nat) (f : Part → Part) : (s.modPart p f).opTicks = s.opTicks := rfl
@[simp] theorem modPart_mrs (p : Nat) (f : Part → Part) : (s.modPart p f).mrs = s.mrs := rfl
@[simp] theorem modPart_fast (p : Nat) (f : Part → Part) : (s.modPart p f).fast = s.fast := rfl
@[simp] theorem modPart_slow (p : Nat) (f : Part → Part) : (s.modPart p f).slow = s.slow := rfl
@[simp] theorem modPart_vats (p : Nat) (f : Part → Part) : (s.modPart p f).vats = s.vats := rfl
@[simp] theorem modPart_pools (p : Nat) (f : Part → Part) : (s.modPart p f).pools = s.pools := rfl
@[simp] theorem modPart_held (p : Nat) (f : Part → Part) : (s.modPart p f).held = s.held := rfl
@[simp] theorem modPart_failing (p : Nat) (f : Part → Part) : (s.modPart p f).failing = s.failing := rfl
@[simp] theorem modPart_stalled (p : Nat) (f : Part → Part) : (s.modPart p f).stalled = s.stalled := rfl
@[simp] theorem modPart_cores (p : Nat) (f : Part → Part) : (s.modPart p f).cores = s.cores := rfl
@[simp] theorem modPart_clusters (p : Nat) (f : Part → Part) : (s.modPart p f).clusters = s.clusters := rfl
@[simp] theorem modPart_hdr (p : Nat) (f : Part → Part) : (s.modPart p f).hdr = s.hdr := rfl
@[simp] theorem modPart_place (p : Nat) (f : Part → Part) : (s.modPart p f).place = s.place := rfl
@[simp] theorem modPart_load (p : Nat) (f : Part → Part) : (s.modPart p f).load = s.load := rfl
@[simp] theorem modPart_resets (p : Nat) (f : Part → Part) : (s.modPart p f).resets = s.resets := rfl
@[simp] theorem modPart_ports (p : Nat) (f : Part → Part) : (s.modPart p f).ports = s.ports := rfl
@[simp] theorem modPart_waiting (p : Nat) (f : Part → Part) : (s.modPart p f).waiting = s.waiting := rfl
@[simp] theorem modPart_paceSeq (p : Nat) (f : Part → Part) : (s.modPart p f).paceSeq = s.paceSeq := rfl
@[simp] theorem modPart_paceDue (p : Nat) (f : Part → Part) : (s.modPart p f).paceDue = s.paceDue := rfl
@[simp] theorem modPart_sessions (p : Nat) (f : Part → Part) : (s.modPart p f).sessions = s.sessions := rfl
@[simp] theorem modPart_nextId (p : Nat) (f : Part → Part) : (s.modPart p f).nextId = s.nextId := rfl
@[simp] theorem modPart_qps (p : Nat) (f : Part → Part) : (s.modPart p f).qps = s.qps := rfl
@[simp] theorem modPart_regions (p : Nat) (f : Part → Part) : (s.modPart p f).regions = s.regions := rfl
@[simp] theorem modPart_gatePosts (p : Nat) (f : Part → Part) : (s.modPart p f).gatePosts = s.gatePosts := rfl
@[simp] theorem modPart_ferries (p : Nat) (f : Part → Part) : (s.modPart p f).ferries = s.ferries := rfl
@[simp] theorem modPart_saves (p : Nat) (f : Part → Part) : (s.modPart p f).saves = s.saves := rfl
@[simp] theorem modPart_job (p : Nat) (f : Part → Part) : (s.modPart p f).job = s.job := rfl
@[simp] theorem modPart_cart (p : Nat) (f : Part → Part) : (s.modPart p f).cart = s.cart := rfl
@[simp] theorem modPart_weir (p : Nat) (f : Part → Part) : (s.modPart p f).weir = s.weir := rfl
@[simp] theorem modPart_meter (p : Nat) (f : Part → Part) : (s.modPart p f).meter = s.meter := rfl
@[simp] theorem modPart_xings (p : Nat) (f : Part → Part) : (s.modPart p f).xings = s.xings := rfl
@[simp] theorem modPart_retireA (p : Nat) (f : Part → Part) : (s.modPart p f).retireA = s.retireA := rfl
@[simp] theorem modPart_retireB (p : Nat) (f : Part → Part) : (s.modPart p f).retireB = s.retireB := rfl
@[simp] theorem modPart_bist (p : Nat) (f : Part → Part) : (s.modPart p f).bist = s.bist := rfl
@[simp] theorem modPart_bootStep (p : Nat) (f : Part → Part) : (s.modPart p f).bootStep = s.bootStep := rfl
@[simp] theorem modPart_feedA (p : Nat) (f : Part → Part) : (s.modPart p f).feedA = s.feedA := rfl
@[simp] theorem modPart_feedB (p : Nat) (f : Part → Part) : (s.modPart p f).feedB = s.feedB := rfl
@[simp] theorem modPart_life (p : Nat) (f : Part → Part) : (s.modPart p f).life = s.life := rfl
@[simp] theorem modPart_keeper (p : Nat) (f : Part → Part) : (s.modPart p f).keeper = s.keeper := rfl
@[simp] theorem modPart_hbm (p : Nat) (f : Part → Part) : (s.modPart p f).hbm = s.hbm := rfl
@[simp] theorem modPart_derated (p : Nat) (f : Part → Part) : (s.modPart p f).derated = s.derated := rfl
@[simp] theorem modPart_off (p : Nat) (f : Part → Part) : (s.modPart p f).off = s.off := rfl
@[simp] theorem modPart_sluices (p : Nat) (f : Part → Part) : (s.modPart p f).sluices = s.sluices := rfl
@[simp] theorem modPart_netFlash (p : Nat) (f : Part → Part) : (s.modPart p f).netFlash = s.netFlash := rfl

/-! ### modPort -/

@[simp] theorem modPort_dieSeen (p : Nat) (f : Port → Port) : (s.modPort p f).dieSeen = s.dieSeen := rfl
@[simp] theorem modPort_pfcSent (p : Nat) (f : Port → Port) : (s.modPort p f).pfcSent = s.pfcSent := rfl
@[simp] theorem modPort_waitOut (p : Nat) (f : Port → Port) : (s.modPort p f).waitOut = s.waitOut := rfl
@[simp] theorem modPort_pending (p : Nat) (f : Port → Port) : (s.modPort p f).pending = s.pending := rfl
@[simp] theorem modPort_fresh (p : Nat) (f : Port → Port) : (s.modPort p f).fresh = s.fresh := rfl
@[simp] theorem modPort_out (p : Nat) (f : Port → Port) : (s.modPort p f).out = s.out := rfl
@[simp] theorem modPort_eth (p : Nat) (f : Port → Port) : (s.modPort p f).eth = s.eth := rfl
@[simp] theorem modPort_paused (p : Nat) (f : Port → Port) : (s.modPort p f).paused = s.paused := rfl
@[simp] theorem modPort_tick (p : Nat) (f : Port → Port) : (s.modPort p f).tick = s.tick := rfl
@[simp] theorem modPort_opTicks (p : Nat) (f : Port → Port) : (s.modPort p f).opTicks = s.opTicks := rfl
@[simp] theorem modPort_mrs (p : Nat) (f : Port → Port) : (s.modPort p f).mrs = s.mrs := rfl
@[simp] theorem modPort_fast (p : Nat) (f : Port → Port) : (s.modPort p f).fast = s.fast := rfl
@[simp] theorem modPort_slow (p : Nat) (f : Port → Port) : (s.modPort p f).slow = s.slow := rfl
@[simp] theorem modPort_vats (p : Nat) (f : Port → Port) : (s.modPort p f).vats = s.vats := rfl
@[simp] theorem modPort_pools (p : Nat) (f : Port → Port) : (s.modPort p f).pools = s.pools := rfl
@[simp] theorem modPort_held (p : Nat) (f : Port → Port) : (s.modPort p f).held = s.held := rfl
@[simp] theorem modPort_failing (p : Nat) (f : Port → Port) : (s.modPort p f).failing = s.failing := rfl
@[simp] theorem modPort_stalled (p : Nat) (f : Port → Port) : (s.modPort p f).stalled = s.stalled := rfl
@[simp] theorem modPort_cores (p : Nat) (f : Port → Port) : (s.modPort p f).cores = s.cores := rfl
@[simp] theorem modPort_clusters (p : Nat) (f : Port → Port) : (s.modPort p f).clusters = s.clusters := rfl
@[simp] theorem modPort_parts (p : Nat) (f : Port → Port) : (s.modPort p f).parts = s.parts := rfl
@[simp] theorem modPort_hdr (p : Nat) (f : Port → Port) : (s.modPort p f).hdr = s.hdr := rfl
@[simp] theorem modPort_place (p : Nat) (f : Port → Port) : (s.modPort p f).place = s.place := rfl
@[simp] theorem modPort_load (p : Nat) (f : Port → Port) : (s.modPort p f).load = s.load := rfl
@[simp] theorem modPort_resets (p : Nat) (f : Port → Port) : (s.modPort p f).resets = s.resets := rfl
@[simp] theorem modPort_waiting (p : Nat) (f : Port → Port) : (s.modPort p f).waiting = s.waiting := rfl
@[simp] theorem modPort_paceSeq (p : Nat) (f : Port → Port) : (s.modPort p f).paceSeq = s.paceSeq := rfl
@[simp] theorem modPort_paceDue (p : Nat) (f : Port → Port) : (s.modPort p f).paceDue = s.paceDue := rfl
@[simp] theorem modPort_sessions (p : Nat) (f : Port → Port) : (s.modPort p f).sessions = s.sessions := rfl
@[simp] theorem modPort_nextId (p : Nat) (f : Port → Port) : (s.modPort p f).nextId = s.nextId := rfl
@[simp] theorem modPort_qps (p : Nat) (f : Port → Port) : (s.modPort p f).qps = s.qps := rfl
@[simp] theorem modPort_regions (p : Nat) (f : Port → Port) : (s.modPort p f).regions = s.regions := rfl
@[simp] theorem modPort_gatePosts (p : Nat) (f : Port → Port) : (s.modPort p f).gatePosts = s.gatePosts := rfl
@[simp] theorem modPort_ferries (p : Nat) (f : Port → Port) : (s.modPort p f).ferries = s.ferries := rfl
@[simp] theorem modPort_saves (p : Nat) (f : Port → Port) : (s.modPort p f).saves = s.saves := rfl
@[simp] theorem modPort_job (p : Nat) (f : Port → Port) : (s.modPort p f).job = s.job := rfl
@[simp] theorem modPort_cart (p : Nat) (f : Port → Port) : (s.modPort p f).cart = s.cart := rfl
@[simp] theorem modPort_weir (p : Nat) (f : Port → Port) : (s.modPort p f).weir = s.weir := rfl
@[simp] theorem modPort_meter (p : Nat) (f : Port → Port) : (s.modPort p f).meter = s.meter := rfl
@[simp] theorem modPort_xings (p : Nat) (f : Port → Port) : (s.modPort p f).xings = s.xings := rfl
@[simp] theorem modPort_retireA (p : Nat) (f : Port → Port) : (s.modPort p f).retireA = s.retireA := rfl
@[simp] theorem modPort_retireB (p : Nat) (f : Port → Port) : (s.modPort p f).retireB = s.retireB := rfl
@[simp] theorem modPort_bist (p : Nat) (f : Port → Port) : (s.modPort p f).bist = s.bist := rfl
@[simp] theorem modPort_bootStep (p : Nat) (f : Port → Port) : (s.modPort p f).bootStep = s.bootStep := rfl
@[simp] theorem modPort_feedA (p : Nat) (f : Port → Port) : (s.modPort p f).feedA = s.feedA := rfl
@[simp] theorem modPort_feedB (p : Nat) (f : Port → Port) : (s.modPort p f).feedB = s.feedB := rfl
@[simp] theorem modPort_life (p : Nat) (f : Port → Port) : (s.modPort p f).life = s.life := rfl
@[simp] theorem modPort_keeper (p : Nat) (f : Port → Port) : (s.modPort p f).keeper = s.keeper := rfl
@[simp] theorem modPort_hbm (p : Nat) (f : Port → Port) : (s.modPort p f).hbm = s.hbm := rfl
@[simp] theorem modPort_derated (p : Nat) (f : Port → Port) : (s.modPort p f).derated = s.derated := rfl
@[simp] theorem modPort_off (p : Nat) (f : Port → Port) : (s.modPort p f).off = s.off := rfl
@[simp] theorem modPort_sluices (p : Nat) (f : Port → Port) : (s.modPort p f).sluices = s.sluices := rfl
@[simp] theorem modPort_netFlash (p : Nat) (f : Port → Port) : (s.modPort p f).netFlash = s.netFlash := rfl

/-! ### modStack -/

@[simp] theorem modStack_dieSeen (k : Nat) (f : Stack → Stack) : (s.modStack k f).dieSeen = s.dieSeen := rfl
@[simp] theorem modStack_pfcSent (k : Nat) (f : Stack → Stack) : (s.modStack k f).pfcSent = s.pfcSent := rfl
@[simp] theorem modStack_waitOut (k : Nat) (f : Stack → Stack) : (s.modStack k f).waitOut = s.waitOut := rfl
@[simp] theorem modStack_pending (k : Nat) (f : Stack → Stack) : (s.modStack k f).pending = s.pending := rfl
@[simp] theorem modStack_fresh (k : Nat) (f : Stack → Stack) : (s.modStack k f).fresh = s.fresh := rfl
@[simp] theorem modStack_out (k : Nat) (f : Stack → Stack) : (s.modStack k f).out = s.out := rfl
@[simp] theorem modStack_eth (k : Nat) (f : Stack → Stack) : (s.modStack k f).eth = s.eth := rfl
@[simp] theorem modStack_paused (k : Nat) (f : Stack → Stack) : (s.modStack k f).paused = s.paused := rfl
@[simp] theorem modStack_tick (k : Nat) (f : Stack → Stack) : (s.modStack k f).tick = s.tick := rfl
@[simp] theorem modStack_opTicks (k : Nat) (f : Stack → Stack) : (s.modStack k f).opTicks = s.opTicks := rfl
@[simp] theorem modStack_mrs (k : Nat) (f : Stack → Stack) : (s.modStack k f).mrs = s.mrs := rfl
@[simp] theorem modStack_fast (k : Nat) (f : Stack → Stack) : (s.modStack k f).fast = s.fast := rfl
@[simp] theorem modStack_slow (k : Nat) (f : Stack → Stack) : (s.modStack k f).slow = s.slow := rfl
@[simp] theorem modStack_vats (k : Nat) (f : Stack → Stack) : (s.modStack k f).vats = s.vats := rfl
@[simp] theorem modStack_pools (k : Nat) (f : Stack → Stack) : (s.modStack k f).pools = s.pools := rfl
@[simp] theorem modStack_held (k : Nat) (f : Stack → Stack) : (s.modStack k f).held = s.held := rfl
@[simp] theorem modStack_failing (k : Nat) (f : Stack → Stack) : (s.modStack k f).failing = s.failing := rfl
@[simp] theorem modStack_stalled (k : Nat) (f : Stack → Stack) : (s.modStack k f).stalled = s.stalled := rfl
@[simp] theorem modStack_cores (k : Nat) (f : Stack → Stack) : (s.modStack k f).cores = s.cores := rfl
@[simp] theorem modStack_clusters (k : Nat) (f : Stack → Stack) : (s.modStack k f).clusters = s.clusters := rfl
@[simp] theorem modStack_parts (k : Nat) (f : Stack → Stack) : (s.modStack k f).parts = s.parts := rfl
@[simp] theorem modStack_hdr (k : Nat) (f : Stack → Stack) : (s.modStack k f).hdr = s.hdr := rfl
@[simp] theorem modStack_place (k : Nat) (f : Stack → Stack) : (s.modStack k f).place = s.place := rfl
@[simp] theorem modStack_load (k : Nat) (f : Stack → Stack) : (s.modStack k f).load = s.load := rfl
@[simp] theorem modStack_resets (k : Nat) (f : Stack → Stack) : (s.modStack k f).resets = s.resets := rfl
@[simp] theorem modStack_ports (k : Nat) (f : Stack → Stack) : (s.modStack k f).ports = s.ports := rfl
@[simp] theorem modStack_waiting (k : Nat) (f : Stack → Stack) : (s.modStack k f).waiting = s.waiting := rfl
@[simp] theorem modStack_paceSeq (k : Nat) (f : Stack → Stack) : (s.modStack k f).paceSeq = s.paceSeq := rfl
@[simp] theorem modStack_paceDue (k : Nat) (f : Stack → Stack) : (s.modStack k f).paceDue = s.paceDue := rfl
@[simp] theorem modStack_sessions (k : Nat) (f : Stack → Stack) : (s.modStack k f).sessions = s.sessions := rfl
@[simp] theorem modStack_nextId (k : Nat) (f : Stack → Stack) : (s.modStack k f).nextId = s.nextId := rfl
@[simp] theorem modStack_qps (k : Nat) (f : Stack → Stack) : (s.modStack k f).qps = s.qps := rfl
@[simp] theorem modStack_regions (k : Nat) (f : Stack → Stack) : (s.modStack k f).regions = s.regions := rfl
@[simp] theorem modStack_gatePosts (k : Nat) (f : Stack → Stack) : (s.modStack k f).gatePosts = s.gatePosts := rfl
@[simp] theorem modStack_ferries (k : Nat) (f : Stack → Stack) : (s.modStack k f).ferries = s.ferries := rfl
@[simp] theorem modStack_saves (k : Nat) (f : Stack → Stack) : (s.modStack k f).saves = s.saves := rfl
@[simp] theorem modStack_job (k : Nat) (f : Stack → Stack) : (s.modStack k f).job = s.job := rfl
@[simp] theorem modStack_cart (k : Nat) (f : Stack → Stack) : (s.modStack k f).cart = s.cart := rfl
@[simp] theorem modStack_weir (k : Nat) (f : Stack → Stack) : (s.modStack k f).weir = s.weir := rfl
@[simp] theorem modStack_meter (k : Nat) (f : Stack → Stack) : (s.modStack k f).meter = s.meter := rfl
@[simp] theorem modStack_xings (k : Nat) (f : Stack → Stack) : (s.modStack k f).xings = s.xings := rfl
@[simp] theorem modStack_retireA (k : Nat) (f : Stack → Stack) : (s.modStack k f).retireA = s.retireA := rfl
@[simp] theorem modStack_retireB (k : Nat) (f : Stack → Stack) : (s.modStack k f).retireB = s.retireB := rfl
@[simp] theorem modStack_bist (k : Nat) (f : Stack → Stack) : (s.modStack k f).bist = s.bist := rfl
@[simp] theorem modStack_bootStep (k : Nat) (f : Stack → Stack) : (s.modStack k f).bootStep = s.bootStep := rfl
@[simp] theorem modStack_feedA (k : Nat) (f : Stack → Stack) : (s.modStack k f).feedA = s.feedA := rfl
@[simp] theorem modStack_feedB (k : Nat) (f : Stack → Stack) : (s.modStack k f).feedB = s.feedB := rfl
@[simp] theorem modStack_life (k : Nat) (f : Stack → Stack) : (s.modStack k f).life = s.life := rfl
@[simp] theorem modStack_keeper (k : Nat) (f : Stack → Stack) : (s.modStack k f).keeper = s.keeper := rfl
@[simp] theorem modStack_derated (k : Nat) (f : Stack → Stack) : (s.modStack k f).derated = s.derated := rfl
@[simp] theorem modStack_off (k : Nat) (f : Stack → Stack) : (s.modStack k f).off = s.off := rfl
@[simp] theorem modStack_sluices (k : Nat) (f : Stack → Stack) : (s.modStack k f).sluices = s.sluices := rfl
@[simp] theorem modStack_netFlash (k : Nat) (f : Stack → Stack) : (s.modStack k f).netFlash = s.netFlash := rfl

/-! ### modXing -/

@[simp] theorem modXing_dieSeen (x : Nat) (f : Xing → Xing) : (s.modXing x f).dieSeen = s.dieSeen := rfl
@[simp] theorem modXing_pfcSent (x : Nat) (f : Xing → Xing) : (s.modXing x f).pfcSent = s.pfcSent := rfl
@[simp] theorem modXing_waitOut (x : Nat) (f : Xing → Xing) : (s.modXing x f).waitOut = s.waitOut := rfl
@[simp] theorem modXing_pending (x : Nat) (f : Xing → Xing) : (s.modXing x f).pending = s.pending := rfl
@[simp] theorem modXing_fresh (x : Nat) (f : Xing → Xing) : (s.modXing x f).fresh = s.fresh := rfl
@[simp] theorem modXing_out (x : Nat) (f : Xing → Xing) : (s.modXing x f).out = s.out := rfl
@[simp] theorem modXing_eth (x : Nat) (f : Xing → Xing) : (s.modXing x f).eth = s.eth := rfl
@[simp] theorem modXing_paused (x : Nat) (f : Xing → Xing) : (s.modXing x f).paused = s.paused := rfl
@[simp] theorem modXing_tick (x : Nat) (f : Xing → Xing) : (s.modXing x f).tick = s.tick := rfl
@[simp] theorem modXing_opTicks (x : Nat) (f : Xing → Xing) : (s.modXing x f).opTicks = s.opTicks := rfl
@[simp] theorem modXing_mrs (x : Nat) (f : Xing → Xing) : (s.modXing x f).mrs = s.mrs := rfl
@[simp] theorem modXing_fast (x : Nat) (f : Xing → Xing) : (s.modXing x f).fast = s.fast := rfl
@[simp] theorem modXing_slow (x : Nat) (f : Xing → Xing) : (s.modXing x f).slow = s.slow := rfl
@[simp] theorem modXing_vats (x : Nat) (f : Xing → Xing) : (s.modXing x f).vats = s.vats := rfl
@[simp] theorem modXing_pools (x : Nat) (f : Xing → Xing) : (s.modXing x f).pools = s.pools := rfl
@[simp] theorem modXing_held (x : Nat) (f : Xing → Xing) : (s.modXing x f).held = s.held := rfl
@[simp] theorem modXing_failing (x : Nat) (f : Xing → Xing) : (s.modXing x f).failing = s.failing := rfl
@[simp] theorem modXing_stalled (x : Nat) (f : Xing → Xing) : (s.modXing x f).stalled = s.stalled := rfl
@[simp] theorem modXing_cores (x : Nat) (f : Xing → Xing) : (s.modXing x f).cores = s.cores := rfl
@[simp] theorem modXing_clusters (x : Nat) (f : Xing → Xing) : (s.modXing x f).clusters = s.clusters := rfl
@[simp] theorem modXing_parts (x : Nat) (f : Xing → Xing) : (s.modXing x f).parts = s.parts := rfl
@[simp] theorem modXing_hdr (x : Nat) (f : Xing → Xing) : (s.modXing x f).hdr = s.hdr := rfl
@[simp] theorem modXing_place (x : Nat) (f : Xing → Xing) : (s.modXing x f).place = s.place := rfl
@[simp] theorem modXing_load (x : Nat) (f : Xing → Xing) : (s.modXing x f).load = s.load := rfl
@[simp] theorem modXing_resets (x : Nat) (f : Xing → Xing) : (s.modXing x f).resets = s.resets := rfl
@[simp] theorem modXing_ports (x : Nat) (f : Xing → Xing) : (s.modXing x f).ports = s.ports := rfl
@[simp] theorem modXing_waiting (x : Nat) (f : Xing → Xing) : (s.modXing x f).waiting = s.waiting := rfl
@[simp] theorem modXing_paceSeq (x : Nat) (f : Xing → Xing) : (s.modXing x f).paceSeq = s.paceSeq := rfl
@[simp] theorem modXing_paceDue (x : Nat) (f : Xing → Xing) : (s.modXing x f).paceDue = s.paceDue := rfl
@[simp] theorem modXing_sessions (x : Nat) (f : Xing → Xing) : (s.modXing x f).sessions = s.sessions := rfl
@[simp] theorem modXing_nextId (x : Nat) (f : Xing → Xing) : (s.modXing x f).nextId = s.nextId := rfl
@[simp] theorem modXing_qps (x : Nat) (f : Xing → Xing) : (s.modXing x f).qps = s.qps := rfl
@[simp] theorem modXing_regions (x : Nat) (f : Xing → Xing) : (s.modXing x f).regions = s.regions := rfl
@[simp] theorem modXing_gatePosts (x : Nat) (f : Xing → Xing) : (s.modXing x f).gatePosts = s.gatePosts := rfl
@[simp] theorem modXing_ferries (x : Nat) (f : Xing → Xing) : (s.modXing x f).ferries = s.ferries := rfl
@[simp] theorem modXing_saves (x : Nat) (f : Xing → Xing) : (s.modXing x f).saves = s.saves := rfl
@[simp] theorem modXing_job (x : Nat) (f : Xing → Xing) : (s.modXing x f).job = s.job := rfl
@[simp] theorem modXing_cart (x : Nat) (f : Xing → Xing) : (s.modXing x f).cart = s.cart := rfl
@[simp] theorem modXing_weir (x : Nat) (f : Xing → Xing) : (s.modXing x f).weir = s.weir := rfl
@[simp] theorem modXing_meter (x : Nat) (f : Xing → Xing) : (s.modXing x f).meter = s.meter := rfl
@[simp] theorem modXing_retireA (x : Nat) (f : Xing → Xing) : (s.modXing x f).retireA = s.retireA := rfl
@[simp] theorem modXing_retireB (x : Nat) (f : Xing → Xing) : (s.modXing x f).retireB = s.retireB := rfl
@[simp] theorem modXing_bist (x : Nat) (f : Xing → Xing) : (s.modXing x f).bist = s.bist := rfl
@[simp] theorem modXing_bootStep (x : Nat) (f : Xing → Xing) : (s.modXing x f).bootStep = s.bootStep := rfl
@[simp] theorem modXing_feedA (x : Nat) (f : Xing → Xing) : (s.modXing x f).feedA = s.feedA := rfl
@[simp] theorem modXing_feedB (x : Nat) (f : Xing → Xing) : (s.modXing x f).feedB = s.feedB := rfl
@[simp] theorem modXing_life (x : Nat) (f : Xing → Xing) : (s.modXing x f).life = s.life := rfl
@[simp] theorem modXing_keeper (x : Nat) (f : Xing → Xing) : (s.modXing x f).keeper = s.keeper := rfl
@[simp] theorem modXing_hbm (x : Nat) (f : Xing → Xing) : (s.modXing x f).hbm = s.hbm := rfl
@[simp] theorem modXing_derated (x : Nat) (f : Xing → Xing) : (s.modXing x f).derated = s.derated := rfl
@[simp] theorem modXing_off (x : Nat) (f : Xing → Xing) : (s.modXing x f).off = s.off := rfl
@[simp] theorem modXing_sluices (x : Nat) (f : Xing → Xing) : (s.modXing x f).sluices = s.sluices := rfl
@[simp] theorem modXing_netFlash (x : Nat) (f : Xing → Xing) : (s.modXing x f).netFlash = s.netFlash := rfl

/-! ### setVat -/

@[simp] theorem setVat_dieSeen (i : Nat) (b : Bank) : (s.setVat i b).dieSeen = s.dieSeen := rfl
@[simp] theorem setVat_pfcSent (i : Nat) (b : Bank) : (s.setVat i b).pfcSent = s.pfcSent := rfl
@[simp] theorem setVat_waitOut (i : Nat) (b : Bank) : (s.setVat i b).waitOut = s.waitOut := rfl
@[simp] theorem setVat_pending (i : Nat) (b : Bank) : (s.setVat i b).pending = s.pending := rfl
@[simp] theorem setVat_fresh (i : Nat) (b : Bank) : (s.setVat i b).fresh = s.fresh := rfl
@[simp] theorem setVat_out (i : Nat) (b : Bank) : (s.setVat i b).out = s.out := rfl
@[simp] theorem setVat_eth (i : Nat) (b : Bank) : (s.setVat i b).eth = s.eth := rfl
@[simp] theorem setVat_paused (i : Nat) (b : Bank) : (s.setVat i b).paused = s.paused := rfl
@[simp] theorem setVat_tick (i : Nat) (b : Bank) : (s.setVat i b).tick = s.tick := rfl
@[simp] theorem setVat_opTicks (i : Nat) (b : Bank) : (s.setVat i b).opTicks = s.opTicks := rfl
@[simp] theorem setVat_mrs (i : Nat) (b : Bank) : (s.setVat i b).mrs = s.mrs := rfl
@[simp] theorem setVat_fast (i : Nat) (b : Bank) : (s.setVat i b).fast = s.fast := rfl
@[simp] theorem setVat_slow (i : Nat) (b : Bank) : (s.setVat i b).slow = s.slow := rfl
@[simp] theorem setVat_pools (i : Nat) (b : Bank) : (s.setVat i b).pools = s.pools := rfl
@[simp] theorem setVat_held (i : Nat) (b : Bank) : (s.setVat i b).held = s.held := rfl
@[simp] theorem setVat_failing (i : Nat) (b : Bank) : (s.setVat i b).failing = s.failing := rfl
@[simp] theorem setVat_stalled (i : Nat) (b : Bank) : (s.setVat i b).stalled = s.stalled := rfl
@[simp] theorem setVat_cores (i : Nat) (b : Bank) : (s.setVat i b).cores = s.cores := rfl
@[simp] theorem setVat_clusters (i : Nat) (b : Bank) : (s.setVat i b).clusters = s.clusters := rfl
@[simp] theorem setVat_parts (i : Nat) (b : Bank) : (s.setVat i b).parts = s.parts := rfl
@[simp] theorem setVat_hdr (i : Nat) (b : Bank) : (s.setVat i b).hdr = s.hdr := rfl
@[simp] theorem setVat_place (i : Nat) (b : Bank) : (s.setVat i b).place = s.place := rfl
@[simp] theorem setVat_load (i : Nat) (b : Bank) : (s.setVat i b).load = s.load := rfl
@[simp] theorem setVat_resets (i : Nat) (b : Bank) : (s.setVat i b).resets = s.resets := rfl
@[simp] theorem setVat_ports (i : Nat) (b : Bank) : (s.setVat i b).ports = s.ports := rfl
@[simp] theorem setVat_waiting (i : Nat) (b : Bank) : (s.setVat i b).waiting = s.waiting := rfl
@[simp] theorem setVat_paceSeq (i : Nat) (b : Bank) : (s.setVat i b).paceSeq = s.paceSeq := rfl
@[simp] theorem setVat_paceDue (i : Nat) (b : Bank) : (s.setVat i b).paceDue = s.paceDue := rfl
@[simp] theorem setVat_sessions (i : Nat) (b : Bank) : (s.setVat i b).sessions = s.sessions := rfl
@[simp] theorem setVat_nextId (i : Nat) (b : Bank) : (s.setVat i b).nextId = s.nextId := rfl
@[simp] theorem setVat_qps (i : Nat) (b : Bank) : (s.setVat i b).qps = s.qps := rfl
@[simp] theorem setVat_regions (i : Nat) (b : Bank) : (s.setVat i b).regions = s.regions := rfl
@[simp] theorem setVat_gatePosts (i : Nat) (b : Bank) : (s.setVat i b).gatePosts = s.gatePosts := rfl
@[simp] theorem setVat_ferries (i : Nat) (b : Bank) : (s.setVat i b).ferries = s.ferries := rfl
@[simp] theorem setVat_saves (i : Nat) (b : Bank) : (s.setVat i b).saves = s.saves := rfl
@[simp] theorem setVat_job (i : Nat) (b : Bank) : (s.setVat i b).job = s.job := rfl
@[simp] theorem setVat_cart (i : Nat) (b : Bank) : (s.setVat i b).cart = s.cart := rfl
@[simp] theorem setVat_weir (i : Nat) (b : Bank) : (s.setVat i b).weir = s.weir := rfl
@[simp] theorem setVat_meter (i : Nat) (b : Bank) : (s.setVat i b).meter = s.meter := rfl
@[simp] theorem setVat_xings (i : Nat) (b : Bank) : (s.setVat i b).xings = s.xings := rfl
@[simp] theorem setVat_retireA (i : Nat) (b : Bank) : (s.setVat i b).retireA = s.retireA := rfl
@[simp] theorem setVat_retireB (i : Nat) (b : Bank) : (s.setVat i b).retireB = s.retireB := rfl
@[simp] theorem setVat_bist (i : Nat) (b : Bank) : (s.setVat i b).bist = s.bist := rfl
@[simp] theorem setVat_bootStep (i : Nat) (b : Bank) : (s.setVat i b).bootStep = s.bootStep := rfl
@[simp] theorem setVat_feedA (i : Nat) (b : Bank) : (s.setVat i b).feedA = s.feedA := rfl
@[simp] theorem setVat_feedB (i : Nat) (b : Bank) : (s.setVat i b).feedB = s.feedB := rfl
@[simp] theorem setVat_life (i : Nat) (b : Bank) : (s.setVat i b).life = s.life := rfl
@[simp] theorem setVat_keeper (i : Nat) (b : Bank) : (s.setVat i b).keeper = s.keeper := rfl
@[simp] theorem setVat_hbm (i : Nat) (b : Bank) : (s.setVat i b).hbm = s.hbm := rfl
@[simp] theorem setVat_derated (i : Nat) (b : Bank) : (s.setVat i b).derated = s.derated := rfl
@[simp] theorem setVat_off (i : Nat) (b : Bank) : (s.setVat i b).off = s.off := rfl
@[simp] theorem setVat_sluices (i : Nat) (b : Bank) : (s.setVat i b).sluices = s.sluices := rfl
@[simp] theorem setVat_netFlash (i : Nat) (b : Bank) : (s.setVat i b).netFlash = s.netFlash := rfl

/-! ### setPool -/

@[simp] theorem setPool_dieSeen (i : Nat) (b : Bank) : (s.setPool i b).dieSeen = s.dieSeen := rfl
@[simp] theorem setPool_pfcSent (i : Nat) (b : Bank) : (s.setPool i b).pfcSent = s.pfcSent := rfl
@[simp] theorem setPool_waitOut (i : Nat) (b : Bank) : (s.setPool i b).waitOut = s.waitOut := rfl
@[simp] theorem setPool_pending (i : Nat) (b : Bank) : (s.setPool i b).pending = s.pending := rfl
@[simp] theorem setPool_fresh (i : Nat) (b : Bank) : (s.setPool i b).fresh = s.fresh := rfl
@[simp] theorem setPool_out (i : Nat) (b : Bank) : (s.setPool i b).out = s.out := rfl
@[simp] theorem setPool_eth (i : Nat) (b : Bank) : (s.setPool i b).eth = s.eth := rfl
@[simp] theorem setPool_paused (i : Nat) (b : Bank) : (s.setPool i b).paused = s.paused := rfl
@[simp] theorem setPool_tick (i : Nat) (b : Bank) : (s.setPool i b).tick = s.tick := rfl
@[simp] theorem setPool_opTicks (i : Nat) (b : Bank) : (s.setPool i b).opTicks = s.opTicks := rfl
@[simp] theorem setPool_mrs (i : Nat) (b : Bank) : (s.setPool i b).mrs = s.mrs := rfl
@[simp] theorem setPool_fast (i : Nat) (b : Bank) : (s.setPool i b).fast = s.fast := rfl
@[simp] theorem setPool_slow (i : Nat) (b : Bank) : (s.setPool i b).slow = s.slow := rfl
@[simp] theorem setPool_vats (i : Nat) (b : Bank) : (s.setPool i b).vats = s.vats := rfl
@[simp] theorem setPool_held (i : Nat) (b : Bank) : (s.setPool i b).held = s.held := rfl
@[simp] theorem setPool_failing (i : Nat) (b : Bank) : (s.setPool i b).failing = s.failing := rfl
@[simp] theorem setPool_stalled (i : Nat) (b : Bank) : (s.setPool i b).stalled = s.stalled := rfl
@[simp] theorem setPool_cores (i : Nat) (b : Bank) : (s.setPool i b).cores = s.cores := rfl
@[simp] theorem setPool_clusters (i : Nat) (b : Bank) : (s.setPool i b).clusters = s.clusters := rfl
@[simp] theorem setPool_parts (i : Nat) (b : Bank) : (s.setPool i b).parts = s.parts := rfl
@[simp] theorem setPool_hdr (i : Nat) (b : Bank) : (s.setPool i b).hdr = s.hdr := rfl
@[simp] theorem setPool_place (i : Nat) (b : Bank) : (s.setPool i b).place = s.place := rfl
@[simp] theorem setPool_load (i : Nat) (b : Bank) : (s.setPool i b).load = s.load := rfl
@[simp] theorem setPool_resets (i : Nat) (b : Bank) : (s.setPool i b).resets = s.resets := rfl
@[simp] theorem setPool_ports (i : Nat) (b : Bank) : (s.setPool i b).ports = s.ports := rfl
@[simp] theorem setPool_waiting (i : Nat) (b : Bank) : (s.setPool i b).waiting = s.waiting := rfl
@[simp] theorem setPool_paceSeq (i : Nat) (b : Bank) : (s.setPool i b).paceSeq = s.paceSeq := rfl
@[simp] theorem setPool_paceDue (i : Nat) (b : Bank) : (s.setPool i b).paceDue = s.paceDue := rfl
@[simp] theorem setPool_sessions (i : Nat) (b : Bank) : (s.setPool i b).sessions = s.sessions := rfl
@[simp] theorem setPool_nextId (i : Nat) (b : Bank) : (s.setPool i b).nextId = s.nextId := rfl
@[simp] theorem setPool_qps (i : Nat) (b : Bank) : (s.setPool i b).qps = s.qps := rfl
@[simp] theorem setPool_regions (i : Nat) (b : Bank) : (s.setPool i b).regions = s.regions := rfl
@[simp] theorem setPool_gatePosts (i : Nat) (b : Bank) : (s.setPool i b).gatePosts = s.gatePosts := rfl
@[simp] theorem setPool_ferries (i : Nat) (b : Bank) : (s.setPool i b).ferries = s.ferries := rfl
@[simp] theorem setPool_saves (i : Nat) (b : Bank) : (s.setPool i b).saves = s.saves := rfl
@[simp] theorem setPool_job (i : Nat) (b : Bank) : (s.setPool i b).job = s.job := rfl
@[simp] theorem setPool_cart (i : Nat) (b : Bank) : (s.setPool i b).cart = s.cart := rfl
@[simp] theorem setPool_weir (i : Nat) (b : Bank) : (s.setPool i b).weir = s.weir := rfl
@[simp] theorem setPool_meter (i : Nat) (b : Bank) : (s.setPool i b).meter = s.meter := rfl
@[simp] theorem setPool_xings (i : Nat) (b : Bank) : (s.setPool i b).xings = s.xings := rfl
@[simp] theorem setPool_retireA (i : Nat) (b : Bank) : (s.setPool i b).retireA = s.retireA := rfl
@[simp] theorem setPool_retireB (i : Nat) (b : Bank) : (s.setPool i b).retireB = s.retireB := rfl
@[simp] theorem setPool_bist (i : Nat) (b : Bank) : (s.setPool i b).bist = s.bist := rfl
@[simp] theorem setPool_bootStep (i : Nat) (b : Bank) : (s.setPool i b).bootStep = s.bootStep := rfl
@[simp] theorem setPool_feedA (i : Nat) (b : Bank) : (s.setPool i b).feedA = s.feedA := rfl
@[simp] theorem setPool_feedB (i : Nat) (b : Bank) : (s.setPool i b).feedB = s.feedB := rfl
@[simp] theorem setPool_life (i : Nat) (b : Bank) : (s.setPool i b).life = s.life := rfl
@[simp] theorem setPool_keeper (i : Nat) (b : Bank) : (s.setPool i b).keeper = s.keeper := rfl
@[simp] theorem setPool_hbm (i : Nat) (b : Bank) : (s.setPool i b).hbm = s.hbm := rfl
@[simp] theorem setPool_derated (i : Nat) (b : Bank) : (s.setPool i b).derated = s.derated := rfl
@[simp] theorem setPool_off (i : Nat) (b : Bank) : (s.setPool i b).off = s.off := rfl
@[simp] theorem setPool_sluices (i : Nat) (b : Bank) : (s.setPool i b).sluices = s.sluices := rfl
@[simp] theorem setPool_netFlash (i : Nat) (b : Bank) : (s.setPool i b).netFlash = s.netFlash := rfl

/-! ### usedFresh -/

@[simp] theorem usedFresh_dieSeen : (s.usedFresh).dieSeen = s.dieSeen := rfl
@[simp] theorem usedFresh_pfcSent : (s.usedFresh).pfcSent = s.pfcSent := rfl
@[simp] theorem usedFresh_waitOut : (s.usedFresh).waitOut = s.waitOut := rfl
@[simp] theorem usedFresh_pending : (s.usedFresh).pending = s.pending := rfl
@[simp] theorem usedFresh_out : (s.usedFresh).out = s.out := rfl
@[simp] theorem usedFresh_eth : (s.usedFresh).eth = s.eth := rfl
@[simp] theorem usedFresh_paused : (s.usedFresh).paused = s.paused := rfl
@[simp] theorem usedFresh_tick : (s.usedFresh).tick = s.tick := rfl
@[simp] theorem usedFresh_opTicks : (s.usedFresh).opTicks = s.opTicks := rfl
@[simp] theorem usedFresh_mrs : (s.usedFresh).mrs = s.mrs := rfl
@[simp] theorem usedFresh_fast : (s.usedFresh).fast = s.fast := rfl
@[simp] theorem usedFresh_slow : (s.usedFresh).slow = s.slow := rfl
@[simp] theorem usedFresh_vats : (s.usedFresh).vats = s.vats := rfl
@[simp] theorem usedFresh_pools : (s.usedFresh).pools = s.pools := rfl
@[simp] theorem usedFresh_held : (s.usedFresh).held = s.held := rfl
@[simp] theorem usedFresh_failing : (s.usedFresh).failing = s.failing := rfl
@[simp] theorem usedFresh_stalled : (s.usedFresh).stalled = s.stalled := rfl
@[simp] theorem usedFresh_cores : (s.usedFresh).cores = s.cores := rfl
@[simp] theorem usedFresh_clusters : (s.usedFresh).clusters = s.clusters := rfl
@[simp] theorem usedFresh_parts : (s.usedFresh).parts = s.parts := rfl
@[simp] theorem usedFresh_hdr : (s.usedFresh).hdr = s.hdr := rfl
@[simp] theorem usedFresh_place : (s.usedFresh).place = s.place := rfl
@[simp] theorem usedFresh_load : (s.usedFresh).load = s.load := rfl
@[simp] theorem usedFresh_resets : (s.usedFresh).resets = s.resets := rfl
@[simp] theorem usedFresh_ports : (s.usedFresh).ports = s.ports := rfl
@[simp] theorem usedFresh_waiting : (s.usedFresh).waiting = s.waiting := rfl
@[simp] theorem usedFresh_paceSeq : (s.usedFresh).paceSeq = s.paceSeq := rfl
@[simp] theorem usedFresh_paceDue : (s.usedFresh).paceDue = s.paceDue := rfl
@[simp] theorem usedFresh_sessions : (s.usedFresh).sessions = s.sessions := rfl
@[simp] theorem usedFresh_nextId : (s.usedFresh).nextId = s.nextId := rfl
@[simp] theorem usedFresh_qps : (s.usedFresh).qps = s.qps := rfl
@[simp] theorem usedFresh_regions : (s.usedFresh).regions = s.regions := rfl
@[simp] theorem usedFresh_gatePosts : (s.usedFresh).gatePosts = s.gatePosts := rfl
@[simp] theorem usedFresh_ferries : (s.usedFresh).ferries = s.ferries := rfl
@[simp] theorem usedFresh_saves : (s.usedFresh).saves = s.saves := rfl
@[simp] theorem usedFresh_job : (s.usedFresh).job = s.job := rfl
@[simp] theorem usedFresh_cart : (s.usedFresh).cart = s.cart := rfl
@[simp] theorem usedFresh_weir : (s.usedFresh).weir = s.weir := rfl
@[simp] theorem usedFresh_meter : (s.usedFresh).meter = s.meter := rfl
@[simp] theorem usedFresh_xings : (s.usedFresh).xings = s.xings := rfl
@[simp] theorem usedFresh_retireA : (s.usedFresh).retireA = s.retireA := rfl
@[simp] theorem usedFresh_retireB : (s.usedFresh).retireB = s.retireB := rfl
@[simp] theorem usedFresh_bist : (s.usedFresh).bist = s.bist := rfl
@[simp] theorem usedFresh_bootStep : (s.usedFresh).bootStep = s.bootStep := rfl
@[simp] theorem usedFresh_feedA : (s.usedFresh).feedA = s.feedA := rfl
@[simp] theorem usedFresh_feedB : (s.usedFresh).feedB = s.feedB := rfl
@[simp] theorem usedFresh_life : (s.usedFresh).life = s.life := rfl
@[simp] theorem usedFresh_keeper : (s.usedFresh).keeper = s.keeper := rfl
@[simp] theorem usedFresh_hbm : (s.usedFresh).hbm = s.hbm := rfl
@[simp] theorem usedFresh_derated : (s.usedFresh).derated = s.derated := rfl
@[simp] theorem usedFresh_off : (s.usedFresh).off = s.off := rfl
@[simp] theorem usedFresh_sluices : (s.usedFresh).sluices = s.sluices := rfl
@[simp] theorem usedFresh_netFlash : (s.usedFresh).netFlash = s.netFlash := rfl

/-! ### What the accessors read -/

theorem bump_eq (id : RegId) (ix : List Nat) (hi lo : Nat) : s.bump id ix hi lo = s.bumpBy id ix hi lo 1 := rfl
theorem flag_eq (id : RegId) (ix : List Nat) (b : Nat) : s.flag id ix b = s.setRegF id ix b b 1 := rfl
theorem accessErr_eq : s.accessErr = s.bumpBy .keepStatus [] 31 16 1 := rfl

@[simp] theorem reg_setReg_self (id : RegId) (ix : List Nat) (v : Long) : (s.setReg id ix v).reg id ix = v := by
  simp [reg, setReg]

theorem mrs_setReg_ne (id : RegId) (ix : List Nat) (v d : Long) {a : Nat} (h : a ≠ id.row.addr ix) :
    (s.setReg id ix v).mrs.get d a = s.mrs.get d a := by
  simp [setReg, FMap.get_set_ne _ _ _ h]

theorem reg_setReg_ne (id j : RegId) (ix jx : List Nat) (v : Long) (h : j.row.addr jx ≠ id.row.addr ix) :
    (s.setReg id ix v).reg j jx = s.reg j jx := mrs_setReg_ne s id ix v _ h

/-- A field of a register reads as it was set. -/
theorem regF_setRegF_self (id : RegId) (ix : List Nat) (hi lo v : Nat) (h : lo ≤ hi) (b : hi < 64) :
    (s.setRegF id ix hi lo v).regF id ix hi lo = v % 2 ^ (hi + 1 - lo) := by
  simp [setRegF, regF, getF_setF_self _ _ _ _ h b]

/-- A field apart from it reads as before. -/
theorem regF_setRegF_apart (id : RegId) (ix : List Nat) (hi lo v hi' lo' : Nat) (h : lo ≤ hi) (b : hi < 64) (d : hi' < lo ∨ hi < lo') :
    (s.setRegF id ix hi lo v).regF id ix hi' lo' = s.regF id ix hi' lo' := by
  simp [setRegF, regF, getF_setF_apart _ _ _ _ _ _ h b d]

/-- Another register reads as before. -/
theorem reg_setRegF_ne (id j : RegId) (ix jx : List Nat) (hi lo v : Nat) (h : j.row.addr jx ≠ id.row.addr ix) :
    (s.setRegF id ix hi lo v).reg j jx = s.reg j jx := reg_setReg_ne s id j ix jx _ h

theorem regF_setRegF_ne (id j : RegId) (ix jx : List Nat) (hi lo v a b : Nat) (h : j.row.addr jx ≠ id.row.addr ix) :
    (s.setRegF id ix hi lo v).regF j jx a b = s.regF j jx a b := by
  rw [regF, reg_setRegF_ne s id j ix jx hi lo v h]; rfl

/-- A counter that saturates. -/
theorem regF_bumpBy_self (id : RegId) (ix : List Nat) (hi lo n : Nat) (h : lo ≤ hi) (b : hi < 64) :
    (s.bumpBy id ix hi lo n).regF id ix hi lo = min (s.regF id ix hi lo + n) (2 ^ (hi + 1 - lo) - 1) := by
  rw [bumpBy, regF_setRegF_self s _ _ _ _ _ h b, satAdd, Nat.mod_eq_of_lt]
  have := Nat.two_pow_pos (hi + 1 - lo)
  omega

@[simp] theorem core_setCore_self (c : Nat) (k : Core) : (s.setCore c k).core c = k := by simp [core, setCore]
theorem core_setCore_ne (c : Nat) (k : Core) {j : Nat} (h : j ≠ c) : (s.setCore c k).core j = s.core j := by
  simp [core, setCore, FMap.get_set_ne _ _ _ h]
@[simp] theorem core_modCore_self (i : Nat) (f : Core → Core) : (s.modCore i f).core i = f (s.core i) := by simp [core, modCore, setCore]
theorem core_modCore_ne (i : Nat) (f : Core → Core) {j : Nat} (h : j ≠ i) : (s.modCore i f).core j = s.core j := by
  simp [core, modCore, setCore, FMap.get_set_ne _ _ _ h]
@[simp] theorem cl_modCl_self (i : Nat) (f : Cluster → Cluster) : (s.modCl i f).cl i = f (s.cl i) := by simp [cl, modCl]
theorem cl_modCl_ne (i : Nat) (f : Cluster → Cluster) {j : Nat} (h : j ≠ i) : (s.modCl i f).cl j = s.cl j := by
  simp [cl, modCl, FMap.get_set_ne _ _ _ h]
@[simp] theorem part_modPart_self (i : Nat) (f : Part → Part) : (s.modPart i f).part i = f (s.part i) := by simp [part, modPart]
theorem part_modPart_ne (i : Nat) (f : Part → Part) {j : Nat} (h : j ≠ i) : (s.modPart i f).part j = s.part j := by
  simp [part, modPart, FMap.get_set_ne _ _ _ h]
@[simp] theorem port_modPort_self (i : Nat) (f : Port → Port) : (s.modPort i f).port i = f (s.port i) := by simp [port, modPort]
theorem port_modPort_ne (i : Nat) (f : Port → Port) {j : Nat} (h : j ≠ i) : (s.modPort i f).port j = s.port j := by
  simp [port, modPort, FMap.get_set_ne _ _ _ h]
@[simp] theorem stack_modStack_self (i : Nat) (f : Stack → Stack) : (s.modStack i f).stack i = f (s.stack i) := by simp [stack, modStack]
theorem stack_modStack_ne (i : Nat) (f : Stack → Stack) {j : Nat} (h : j ≠ i) : (s.modStack i f).stack j = s.stack j := by
  simp [stack, modStack, FMap.get_set_ne _ _ _ h]
@[simp] theorem xing_modXing_self (i : Nat) (f : Xing → Xing) : (s.modXing i f).xing i = f (s.xing i) := by simp [xing, modXing]
theorem xing_modXing_ne (i : Nat) (f : Xing → Xing) {j : Nat} (h : j ≠ i) : (s.modXing i f).xing j = s.xing j := by
  simp [xing, modXing, FMap.get_set_ne _ _ _ h]

/-! ### The accessors that an update leaves alone -/

@[simp] theorem core_setReg (id : RegId) (ix : List Nat) (v : Long) (a : Nat) : (s.setReg id ix v).core a = s.core a := rfl
@[simp] theorem cl_setReg (id : RegId) (ix : List Nat) (v : Long) (a : Nat) : (s.setReg id ix v).cl a = s.cl a := rfl
@[simp] theorem part_setReg (id : RegId) (ix : List Nat) (v : Long) (a : Nat) : (s.setReg id ix v).part a = s.part a := rfl
@[simp] theorem port_setReg (id : RegId) (ix : List Nat) (v : Long) (a : Nat) : (s.setReg id ix v).port a = s.port a := rfl
@[simp] theorem core_setRegF (id : RegId) (ix : List Nat) (hi lo v : Nat) (a : Nat) : (s.setRegF id ix hi lo v).core a = s.core a := rfl
@[simp] theorem cl_setRegF (id : RegId) (ix : List Nat) (hi lo v : Nat) (a : Nat) : (s.setRegF id ix hi lo v).cl a = s.cl a := rfl
@[simp] theorem part_setRegF (id : RegId) (ix : List Nat) (hi lo v : Nat) (a : Nat) : (s.setRegF id ix hi lo v).part a = s.part a := rfl
@[simp] theorem port_setRegF (id : RegId) (ix : List Nat) (hi lo v : Nat) (a : Nat) : (s.setRegF id ix hi lo v).port a = s.port a := rfl
@[simp] theorem core_bumpBy (id : RegId) (ix : List Nat) (hi lo n : Nat) (a : Nat) : (s.bumpBy id ix hi lo n).core a = s.core a := rfl
@[simp] theorem cl_bumpBy (id : RegId) (ix : List Nat) (hi lo n : Nat) (a : Nat) : (s.bumpBy id ix hi lo n).cl a = s.cl a := rfl
@[simp] theorem part_bumpBy (id : RegId) (ix : List Nat) (hi lo n : Nat) (a : Nat) : (s.bumpBy id ix hi lo n).part a = s.part a := rfl
@[simp] theorem port_bumpBy (id : RegId) (ix : List Nat) (hi lo n : Nat) (a : Nat) : (s.bumpBy id ix hi lo n).port a = s.port a := rfl
@[simp] theorem cl_setCore (c : Nat) (k : Core) (a : Nat) : (s.setCore c k).cl a = s.cl a := rfl
@[simp] theorem part_setCore (c : Nat) (k : Core) (a : Nat) : (s.setCore c k).part a = s.part a := rfl
@[simp] theorem port_setCore (c : Nat) (k : Core) (a : Nat) : (s.setCore c k).port a = s.port a := rfl
@[simp] theorem reg_setCore (c : Nat) (k : Core) (id : RegId) (ix : List Nat) : (s.setCore c k).reg id ix = s.reg id ix := rfl
@[simp] theorem regF_setCore (c : Nat) (k : Core) (id : RegId) (ix : List Nat) (hi lo : Nat) : (s.setCore c k).regF id ix hi lo = s.regF id ix hi lo := rfl
@[simp] theorem cl_modCore (c : Nat) (f : Core → Core) (a : Nat) : (s.modCore c f).cl a = s.cl a := rfl
@[simp] theorem part_modCore (c : Nat) (f : Core → Core) (a : Nat) : (s.modCore c f).part a = s.part a := rfl
@[simp] theorem port_modCore (c : Nat) (f : Core → Core) (a : Nat) : (s.modCore c f).port a = s.port a := rfl
@[simp] theorem reg_modCore (c : Nat) (f : Core → Core) (id : RegId) (ix : List Nat) : (s.modCore c f).reg id ix = s.reg id ix := rfl
@[simp] theorem regF_modCore (c : Nat) (f : Core → Core) (id : RegId) (ix : List Nat) (hi lo : Nat) : (s.modCore c f).regF id ix hi lo = s.regF id ix hi lo := rfl
@[simp] theorem cl_modEntry (c u : Nat) (f : Entry → Entry) (a : Nat) : (s.modEntry c u f).cl a = s.cl a := rfl
@[simp] theorem part_modEntry (c u : Nat) (f : Entry → Entry) (a : Nat) : (s.modEntry c u f).part a = s.part a := rfl
@[simp] theorem port_modEntry (c u : Nat) (f : Entry → Entry) (a : Nat) : (s.modEntry c u f).port a = s.port a := rfl
@[simp] theorem reg_modEntry (c u : Nat) (f : Entry → Entry) (id : RegId) (ix : List Nat) : (s.modEntry c u f).reg id ix = s.reg id ix := rfl
@[simp] theorem regF_modEntry (c u : Nat) (f : Entry → Entry) (id : RegId) (ix : List Nat) (hi lo : Nat) : (s.modEntry c u f).regF id ix hi lo = s.regF id ix hi lo := rfl
@[simp] theorem core_modCl (c : Nat) (f : Cluster → Cluster) (a : Nat) : (s.modCl c f).core a = s.core a := rfl
@[simp] theorem part_modCl (c : Nat) (f : Cluster → Cluster) (a : Nat) : (s.modCl c f).part a = s.part a := rfl
@[simp] theorem port_modCl (c : Nat) (f : Cluster → Cluster) (a : Nat) : (s.modCl c f).port a = s.port a := rfl
@[simp] theorem reg_modCl (c : Nat) (f : Cluster → Cluster) (id : RegId) (ix : List Nat) : (s.modCl c f).reg id ix = s.reg id ix := rfl
@[simp] theorem regF_modCl (c : Nat) (f : Cluster → Cluster) (id : RegId) (ix : List Nat) (hi lo : Nat) : (s.modCl c f).regF id ix hi lo = s.regF id ix hi lo := rfl
@[simp] theorem core_modPart (p : Nat) (f : Part → Part) (a : Nat) : (s.modPart p f).core a = s.core a := rfl
@[simp] theorem cl_modPart (p : Nat) (f : Part → Part) (a : Nat) : (s.modPart p f).cl a = s.cl a := rfl
@[simp] theorem port_modPart (p : Nat) (f : Part → Part) (a : Nat) : (s.modPart p f).port a = s.port a := rfl
@[simp] theorem reg_modPart (p : Nat) (f : Part → Part) (id : RegId) (ix : List Nat) : (s.modPart p f).reg id ix = s.reg id ix := rfl
@[simp] theorem regF_modPart (p : Nat) (f : Part → Part) (id : RegId) (ix : List Nat) (hi lo : Nat) : (s.modPart p f).regF id ix hi lo = s.regF id ix hi lo := rfl
@[simp] theorem core_modPort (p : Nat) (f : Port → Port) (a : Nat) : (s.modPort p f).core a = s.core a := rfl
@[simp] theorem cl_modPort (p : Nat) (f : Port → Port) (a : Nat) : (s.modPort p f).cl a = s.cl a := rfl
@[simp] theorem part_modPort (p : Nat) (f : Port → Port) (a : Nat) : (s.modPort p f).part a = s.part a := rfl
@[simp] theorem reg_modPort (p : Nat) (f : Port → Port) (id : RegId) (ix : List Nat) : (s.modPort p f).reg id ix = s.reg id ix := rfl
@[simp] theorem regF_modPort (p : Nat) (f : Port → Port) (id : RegId) (ix : List Nat) (hi lo : Nat) : (s.modPort p f).regF id ix hi lo = s.regF id ix hi lo := rfl
@[simp] theorem core_modStack (k : Nat) (f : Stack → Stack) (a : Nat) : (s.modStack k f).core a = s.core a := rfl
@[simp] theorem cl_modStack (k : Nat) (f : Stack → Stack) (a : Nat) : (s.modStack k f).cl a = s.cl a := rfl
@[simp] theorem part_modStack (k : Nat) (f : Stack → Stack) (a : Nat) : (s.modStack k f).part a = s.part a := rfl
@[simp] theorem port_modStack (k : Nat) (f : Stack → Stack) (a : Nat) : (s.modStack k f).port a = s.port a := rfl
@[simp] theorem reg_modStack (k : Nat) (f : Stack → Stack) (id : RegId) (ix : List Nat) : (s.modStack k f).reg id ix = s.reg id ix := rfl
@[simp] theorem regF_modStack (k : Nat) (f : Stack → Stack) (id : RegId) (ix : List Nat) (hi lo : Nat) : (s.modStack k f).regF id ix hi lo = s.regF id ix hi lo := rfl
@[simp] theorem core_modXing (x : Nat) (f : Xing → Xing) (a : Nat) : (s.modXing x f).core a = s.core a := rfl
@[simp] theorem cl_modXing (x : Nat) (f : Xing → Xing) (a : Nat) : (s.modXing x f).cl a = s.cl a := rfl
@[simp] theorem part_modXing (x : Nat) (f : Xing → Xing) (a : Nat) : (s.modXing x f).part a = s.part a := rfl
@[simp] theorem port_modXing (x : Nat) (f : Xing → Xing) (a : Nat) : (s.modXing x f).port a = s.port a := rfl
@[simp] theorem reg_modXing (x : Nat) (f : Xing → Xing) (id : RegId) (ix : List Nat) : (s.modXing x f).reg id ix = s.reg id ix := rfl
@[simp] theorem regF_modXing (x : Nat) (f : Xing → Xing) (id : RegId) (ix : List Nat) (hi lo : Nat) : (s.modXing x f).regF id ix hi lo = s.regF id ix hi lo := rfl
@[simp] theorem core_setVat (i : Nat) (b : Bank) (a : Nat) : (s.setVat i b).core a = s.core a := rfl
@[simp] theorem cl_setVat (i : Nat) (b : Bank) (a : Nat) : (s.setVat i b).cl a = s.cl a := rfl
@[simp] theorem part_setVat (i : Nat) (b : Bank) (a : Nat) : (s.setVat i b).part a = s.part a := rfl
@[simp] theorem port_setVat (i : Nat) (b : Bank) (a : Nat) : (s.setVat i b).port a = s.port a := rfl
@[simp] theorem reg_setVat (i : Nat) (b : Bank) (id : RegId) (ix : List Nat) : (s.setVat i b).reg id ix = s.reg id ix := rfl
@[simp] theorem regF_setVat (i : Nat) (b : Bank) (id : RegId) (ix : List Nat) (hi lo : Nat) : (s.setVat i b).regF id ix hi lo = s.regF id ix hi lo := rfl
@[simp] theorem core_setPool (i : Nat) (b : Bank) (a : Nat) : (s.setPool i b).core a = s.core a := rfl
@[simp] theorem cl_setPool (i : Nat) (b : Bank) (a : Nat) : (s.setPool i b).cl a = s.cl a := rfl
@[simp] theorem part_setPool (i : Nat) (b : Bank) (a : Nat) : (s.setPool i b).part a = s.part a := rfl
@[simp] theorem port_setPool (i : Nat) (b : Bank) (a : Nat) : (s.setPool i b).port a = s.port a := rfl
@[simp] theorem reg_setPool (i : Nat) (b : Bank) (id : RegId) (ix : List Nat) : (s.setPool i b).reg id ix = s.reg id ix := rfl
@[simp] theorem regF_setPool (i : Nat) (b : Bank) (id : RegId) (ix : List Nat) (hi lo : Nat) : (s.setPool i b).regF id ix hi lo = s.regF id ix hi lo := rfl
@[simp] theorem core_usedFresh (a : Nat) : (s.usedFresh).core a = s.core a := rfl
@[simp] theorem cl_usedFresh (a : Nat) : (s.usedFresh).cl a = s.cl a := rfl
@[simp] theorem part_usedFresh (a : Nat) : (s.usedFresh).part a = s.part a := rfl
@[simp] theorem port_usedFresh (a : Nat) : (s.usedFresh).port a = s.port a := rfl
@[simp] theorem reg_usedFresh (id : RegId) (ix : List Nat) : (s.usedFresh).reg id ix = s.reg id ix := rfl
@[simp] theorem regF_usedFresh (id : RegId) (ix : List Nat) (hi lo : Nat) : (s.usedFresh).regF id ix hi lo = s.regF id ix hi lo := rfl

end Sys2Proof.Machine.State
end

