-- ==== Sys2Proof/Laws/Memory.lean ====
section
/-! SUPPORT. Every memory operation keeps the canonical form: bytes written and cleared, banks put, and the operations on the
state that are built on them. -/

namespace Sys2Proof.Machine

/-! ### Lists of bytes -/

/-- The canonical form, said as an order and as a condition on each cell. -/
theorem cellsWf_iff (m : List Host.Cell) :
    cellsWf m = true ↔ m.Pairwise (fun a b => a.1 < b.1) ∧ ∀ c ∈ m, c.2 ≠ 0 := by
  induction m with
  | nil => simp [cellsWf]
  | cons c t ih =>
    obtain ⟨a, v⟩ := c
    cases t with
    | nil => simp [cellsWf]
    | cons d t =>
      obtain ⟨b, w⟩ := d
      simp only [cellsWf, Bool.and_eq_true, bne_iff_ne, decide_eq_true_eq, ih, List.pairwise_cons, List.mem_cons, forall_eq_or_imp]
      constructor
      · rintro ⟨⟨hv, hab⟩, ⟨hb, ht⟩, hw, hz⟩
        exact ⟨⟨⟨hab, fun c hc => Nat.lt_trans hab (hb c hc)⟩, hb, ht⟩, hv, hw, hz⟩
      · rintro ⟨⟨⟨hab, _⟩, hb, ht⟩, hv, hw, hz⟩
        exact ⟨⟨hv, hab⟩, ⟨hb, ht⟩, hw, hz⟩

theorem cellsOf_mem (a : Nat) (bs : List Byte) : ∀ c ∈ cellsOf a bs, a ≤ c.1 ∧ c.1 < a + bs.length ∧ c.2 ≠ 0 := by
  induction bs generalizing a with
  | nil => simp [cellsOf]
  | cons b t ih =>
    intro c hc
    by_cases h : b = 0
    · simp only [cellsOf, h, if_true] at hc
      obtain ⟨h1, h2, h3⟩ := ih (a + 1) c hc
      refine ⟨by omega, ?_, h3⟩
      simp only [List.length_cons]
      omega
    · simp only [cellsOf, h, if_false, List.mem_cons] at hc
      rcases hc with rfl | hc
      · exact ⟨Nat.le_refl _, by simp, h⟩
      · obtain ⟨h1, h2, h3⟩ := ih (a + 1) c hc
        refine ⟨by omega, ?_, h3⟩
        simp only [List.length_cons]
        omega

theorem cellsOf_pairwise (a : Nat) (bs : List Byte) : (cellsOf a bs).Pairwise (fun c d => c.1 < d.1) := by
  induction bs generalizing a with
  | nil => simp [cellsOf]
  | cons b t ih =>
    by_cases h : b = 0
    · simpa only [cellsOf, h, if_true] using ih (a + 1)
    · simp only [cellsOf, h, if_false, List.pairwise_cons]
      exact ⟨fun c hc => (cellsOf_mem (a + 1) t c hc).1, ih (a + 1)⟩

/-- Bytes stored keep the canonical form. -/
theorem cellsWf_writeBytes (m : List Host.Cell) (a : Nat) (bs : List Byte) (h : cellsWf m = true) : cellsWf (writeBytes m a bs) = true := by
  rw [cellsWf_iff] at *
  obtain ⟨hp, hz⟩ := h
  refine ⟨?_, ?_⟩
  · rw [writeBytes, List.append_assoc, List.pairwise_append, List.pairwise_append]
    refine ⟨hp.filter _, ⟨cellsOf_pairwise a bs, hp.filter _, ?_⟩, ?_⟩
    · intro c hc d hd
      have := cellsOf_mem a bs c hc
      simp only [List.mem_filter, decide_eq_true_eq] at hd
      omega
    · intro c hc d hd
      simp only [List.mem_filter, decide_eq_true_eq] at hc
      rcases List.mem_append.1 hd with hd | hd
      · have := cellsOf_mem a bs d hd
        omega
      · simp only [List.mem_filter, decide_eq_true_eq] at hd
        omega
  · intro c hc
    simp only [writeBytes, List.mem_append, List.mem_filter] at hc
    rcases hc with (hc | hc) | hc
    · exact hz c hc.1
    · exact (cellsOf_mem a bs c hc).2.2
    · exact hz c hc.1

/-- A part of a memory kept by address is canonical. -/
theorem cellsWf_filter (m : List Host.Cell) (p : Host.Cell → Bool) (h : cellsWf m = true) : cellsWf (m.filter p) = true := by
  rw [cellsWf_iff] at *
  exact ⟨h.1.filter _, fun c hc => h.2 c (List.mem_filter.1 hc).1⟩

/-- Bytes cleared keep the canonical form. -/
theorem cellsWf_clearBytes (m : List Host.Cell) (a n : Nat) (h : cellsWf m = true) : cellsWf (clearBytes m a n) = true :=
  cellsWf_filter m _ h

/-! ### Banks -/

theorem banksWf_iff (m : FMap Bank) :
    banksWf m = true ↔ m.Pairwise (fun a b => a.1 < b.1) ∧ ∀ c ∈ m, cellsWf c.2.data = true ∧ c.2 ≠ Bank.zero := by
  induction m with
  | nil => simp [banksWf]
  | cons c t ih =>
    obtain ⟨a, v⟩ := c
    cases t with
    | nil => simp [banksWf]
    | cons d t =>
      obtain ⟨b, w⟩ := d
      simp only [banksWf, Bool.and_eq_true, decide_eq_true_eq, ih, List.pairwise_cons, List.mem_cons, forall_eq_or_imp]
      constructor
      · rintro ⟨⟨⟨hc, hv⟩, hab⟩, ⟨hb, ht⟩, hw, hz⟩
        exact ⟨⟨⟨hab, fun c hc => Nat.lt_trans hab (hb c hc)⟩, hb, ht⟩, ⟨hc, hv⟩, hw, hz⟩
      · rintro ⟨⟨⟨hab, _⟩, hb, ht⟩, ⟨hc, hv⟩, hw, hz⟩
        exact ⟨⟨⟨hc, hv⟩, hab⟩, ⟨hb, ht⟩, hw, hz⟩

theorem mem_set {α : Type} (m : FMap α) (k : Nat) (v : α) : ∀ c ∈ FMap.set m k v, c = (k, v) ∨ c ∈ m := by
  induction m with
  | nil => simp [FMap.set]
  | cons d t ih =>
    obtain ⟨j, w⟩ := d
    intro c hc
    by_cases h : k < j
    · simp only [FMap.set, h, if_true, List.mem_cons] at hc ⊢
      tauto
    · by_cases e : k = j
      · simp only [FMap.set, e, if_true, if_false, List.mem_cons, lt_irrefl] at hc ⊢
        tauto
      · simp only [FMap.set, h, e, if_false, List.mem_cons] at hc ⊢
        rcases hc with hc | hc
        · tauto
        · have := ih c hc
          tauto

theorem pairwise_set {α : Type} (m : FMap α) (k : Nat) (v : α) (h : m.Pairwise fun a b => a.1 < b.1) :
    (FMap.set m k v).Pairwise fun a b => a.1 < b.1 := by
  induction m with
  | nil => simp [FMap.set]
  | cons d t ih =>
    obtain ⟨j, w⟩ := d
    rw [List.pairwise_cons] at h
    by_cases l : k < j
    · rw [FMap.set, if_pos l]
      refine List.pairwise_cons.2 ⟨?_, List.pairwise_cons.2 h⟩
      intro c hc
      rcases List.mem_cons.1 hc with rfl | hc
      · exact l
      · exact Nat.lt_trans l (h.1 c hc)
    · by_cases e : k = j
      · subst e
        simpa only [FMap.set, l, if_true, if_false, List.pairwise_cons, lt_irrefl] using h
      · simp only [FMap.set, l, e, if_false, List.pairwise_cons]
        refine ⟨?_, ih h.2⟩
        intro c hc
        rcases mem_set t k v c hc with rfl | hc
        · simp only; omega
        · exact h.1 c hc

/-- A bank put in its place keeps the canonical form. -/
theorem banksWf_putBank (m : FMap Bank) (i : Nat) (b : Bank) (h : banksWf m = true) (hb : cellsWf b.data = true) :
    banksWf (putBank m i b) = true := by
  rw [putBank]
  rw [banksWf_iff] at h
  split
  · rw [banksWf_iff]
    exact ⟨h.1.filter _, fun c hc => h.2 c (List.mem_filter.1 hc).1⟩
  · rename_i hz
    rw [banksWf_iff]
    refine ⟨pairwise_set m i b h.1, ?_⟩
    intro c hc
    rcases mem_set m i b c hc with rfl | hc
    · exact ⟨hb, hz⟩
    · exact h.2 c hc

/-- A bank of a canonical map is canonical. -/
theorem cellsWf_get (m : FMap Bank) (i : Nat) (h : banksWf m = true) : cellsWf (m.get Bank.zero i).data = true := by
  rw [banksWf_iff] at h
  induction m with
  | nil => rfl
  | cons d t ih =>
    obtain ⟨j, w⟩ := d
    by_cases e : i = j
    · simpa [FMap.get, e] using (h.2 (j, w) (by simp)).1
    · simp only [FMap.get, e, if_false]
      exact ih ⟨(List.pairwise_cons.1 h.1).2, fun c hc => h.2 c (List.mem_cons_of_mem _ hc)⟩

/-! ### The state -/

namespace State

/-- What an operation that touches no memory keeps: both tiers, every vat and bank, and the cartridge. -/
theorem memOk_of_eq {s t : State} (h : s.memOk) (f : t.fast = s.fast) (l : t.slow = s.slow) (v : t.vats = s.vats) (p : t.pools = s.pools)
    (c : t.cart = s.cart) : t.memOk := by
  simpa [memOk, f, l, v, p, c] using h

/-- The bytes of any place of a good state are canonical. -/
theorem cellsWf_cells {s : State} (h : s.memOk) (pl : Place) : cellsWf (s.cells pl) = true := by
  obtain ⟨hf, hs, hv, hp, _⟩ := h
  cases pl with
  | tier slow => cases slow <;> simpa [cells]
  | vat i => exact cellsWf_get _ i hv
  | pool i => exact cellsWf_get _ i hp

theorem memOk_setCells {s : State} (h : s.memOk) (pl : Place) (m : List Host.Cell) (hm : cellsWf m = true) : (s.setCells pl m).memOk := by
  obtain ⟨hf, hs, hv, hp, hc⟩ := h
  cases pl with
  | tier slow => cases slow <;> exact ⟨by assumption, by assumption, hv, hp, hc⟩
  | vat i => exact ⟨hf, hs, banksWf_putBank _ _ _ hv hm, hp, hc⟩
  | pool i => exact ⟨hf, hs, hv, banksWf_putBank _ _ _ hp hm, hc⟩

theorem memOk_setBytes {s : State} (h : s.memOk) (pl : Place) (a : Nat) (bs : List Byte) : (s.setBytes pl a bs).memOk :=
  memOk_setCells h pl _ (cellsWf_writeBytes _ _ _ (cellsWf_cells h pl))

theorem memOk_scramble {s : State} (h : s.memOk) (pl : Place) (a n : Nat) : (s.scramble pl a n).memOk :=
  memOk_setBytes h pl a _

theorem memOk_scrambleAll (l : List Span) : ∀ {s : State}, s.memOk → (s.scrambleAll l).memOk := by
  induction l with
  | nil => exact fun h => h
  | cons x t ih => exact fun h => ih (memOk_scramble h _ _ _)

/-- A fold of operations that each keep the memories canonical keeps them so. -/
theorem memOk_foldl {α : Type} (f : State → α → State) (hf : ∀ s a, s.memOk → (f s a).memOk) (l : List α) :
    ∀ s : State, s.memOk → (l.foldl f s).memOk := by
  induction l with
  | nil => exact fun _ h => h
  | cons a t ih => exact fun s h => ih _ (hf s a h)

end State

end Sys2Proof.Machine
end

