-- ==== Sys2Proof/Laws/Ops.lean ====
section
/-! SUPPORT. One lemma per shared operation, saying which parts of the state it can change; everything else, the memories and the queue
among it, is as before. -/

namespace Sys2Proof.Machine.State

variable (s : State)

/-! ### Folds -/

/-- A fold of operations that each keep a relation to the state before keeps it. -/
theorem foldl_rel {α : Type} (R : State → State → Prop) (refl : ∀ s, R s s) (trans : ∀ {a b c}, R a b → R b c → R a c)
    (f : State → α → State) (hf : ∀ s a, R s (f s a)) (l : List α) : ∀ s, R s (l.foldl f s) := by
  induction l with
  | nil => exact refl
  | cons a t ih => exact fun s => trans (hf s a) (ih (f s a))

theorem onlyRegs_refl : OnlyRegs s s := rfl

theorem onlyRegs_trans {a b c : State} (h : OnlyRegs a b) (k : OnlyRegs b c) : OnlyRegs a c := by
  rw [OnlyRegs] at *
  rw [k, h]

theorem onlyRegs_setReg (id : RegId) (ix : List Nat) (v : Long) : OnlyRegs s (s.setReg id ix v) := rfl

/-- A fold of register updates changes registers only. -/
theorem onlyRegs_foldl {α : Type} (f : State → α → State) (hf : ∀ s a, OnlyRegs s (f s a)) (l : List α) (s : State) :
    OnlyRegs s (l.foldl f s) := foldl_rel OnlyRegs onlyRegs_refl (fun h k => onlyRegs_trans h k) f hf l s

/-! ### Counters -/

theorem countOne_frame (cnt ovf : RegId) (cx : List Nat) (j add : Nat) : OnlyRegs s (s.countOne cnt ovf cx j add) := by
  rw [countOne]
  split <;> rfl

/-- A core event changes counters only. -/
theorem pmc_frame (c ev n : Nat) : OnlyRegs s (s.pmc c ev n) := by
  refine onlyRegs_foldl _ (fun t j => ?_) _ s
  split
  · rfl
  · exact countOne_frame t _ _ _ _ _

/-- The parts that a die event can change: counters, and which of them have counted in the tick. -/
def Counts (s t : State) : Prop := t = { s with mrs := t.mrs, dieSeen := t.dieSeen }

theorem counts_refl : Counts s s := rfl

theorem counts_trans {a b c : State} (h : Counts a b) (k : Counts b c) : Counts a c := by
  rw [Counts] at *
  rw [k, h]

theorem counts_of_onlyRegs {s t : State} (h : OnlyRegs s t) : Counts s t := by
  rw [OnlyRegs] at h
  rw [Counts]
  rw [h]

theorem counts_seen (l : List (Nat × Nat)) : Counts s { s with dieSeen := l } := rfl

/-- A counter of the die that meets its event. -/
theorem dieCount_frame (j ev n : Nat) : Counts s (s.dieCount j ev n) := by
  rw [dieCount]
  split
  · exact counts_of_onlyRegs (countOne_frame s _ _ _ _ _)
  · split
    · rfl
    · exact counts_trans (counts_seen s _) (counts_of_onlyRegs (countOne_frame _ _ _ _ _ _))

/-- A die event changes counters only. -/
theorem pmcDie_frame (ev unit n : Nat) : Counts s (s.pmcDie ev unit n) := by
  refine foldl_rel Counts counts_refl (fun h k => counts_trans h k) _ (fun t j => ?_) _ s
  split
  · rfl
  · exact dieCount_frame t _ _ _

/-! ### Events, records, halts and faults -/

/-- The parts that a halt of any partition can change. -/
def HaltChanges (s t : State) : Prop :=
  t = { s with parts := t.parts, cores := t.cores, mrs := t.mrs, sessions := t.sessions, out := t.out, waitOut := t.waitOut, keeper := t.keeper,
               held := t.held }

theorem haltChanges_refl : HaltChanges s s := rfl

theorem haltChanges_trans {a b c : State} (h : HaltChanges a b) (k : HaltChanges b c) : HaltChanges a c := by
  rw [HaltChanges] at *
  rw [k, h]

/-- An event changes the sessions and what is sent or waits to be. -/
theorem event_frame (mailbox code : Nat) (body : List Byte) :
    s.event mailbox code body = { s with sessions := (s.event mailbox code body).sessions, out := (s.event mailbox code body).out,
                                         waitOut := (s.event mailbox code body).waitOut } := rfl

/-- The parts that a report can change. -/
def Reports (s t : State) : Prop :=
  t = { s with mrs := t.mrs, sessions := t.sessions, out := t.out, waitOut := t.waitOut, keeper := t.keeper }

theorem reports_trans {a b c : State} (h : Reports a b) (k : Reports b c) : Reports a c := by
  rw [Reports] at *
  rw [k, h]

theorem reports_setKeeper (k : Keeper) : Reports s { s with keeper := k } := rfl

theorem reports_event (mailbox code : Nat) (body : List Byte) : Reports s (s.event mailbox code body) := rfl

theorem reports_setRegF (id : RegId) (ix : List Nat) (hi lo v : Nat) : Reports s (s.setRegF id ix hi lo v) := rfl

/-- An error record changes the keeper's log, KEEP_STATUS, the sessions and what is sent. -/
theorem record_frame (severity code : Nat) (part : Option Nat) (unit : Nat) (step : Option Word) (addr : Option Nat) (detail : List Byte) :
    Reports s (s.record severity code part unit step addr detail) := by
  rw [record]
  split
  · exact reports_trans (reports_setKeeper _ _) (reports_trans (reports_setRegF _ _ _ _ _ _) (reports_setRegF _ _ _ _ _ _))
  · exact reports_trans (reports_trans (reports_setKeeper _ _) (reports_trans (reports_setRegF _ _ _ _ _ _) (reports_setRegF _ _ _ _ _ _)))
      (reports_event _ _ _ _)

theorem halt_of_reports {s t : State} (h : Reports s t) : HaltChanges s t := by
  rw [Reports] at h
  rw [HaltChanges]
  rw [h]

theorem haltChanges_modPart (p : Nat) (f : Part → Part) : HaltChanges s (s.modPart p f) := rfl

theorem haltChanges_mark (p : Nat) (r : FaultRec) :
    HaltChanges s ((s.modPart p fun x => { x with fault := some r, halting := true, untold := true }).setPstate p 3) := rfl

/-- A completion changes the sessions and what is sent. -/
theorem reply_reports (sid seq : Word) (mailbox status : Nat) (body : List Byte) : Reports s (s.reply sid seq mailbox status body) := by
  rw [reply]
  split <;> rfl

theorem tellHalt_frame (p : Nat) : HaltChanges s (s.tellHalt p) := by
  rw [tellHalt]
  split
  · split
    · exact haltChanges_trans (haltChanges_modPart s _ _)
        (halt_of_reports (reports_trans (reports_event _ _ _ _) (record_frame _ _ _ _ _ _ _ _)))
    · rfl
  · rfl

theorem reportFallback_frame (p step : Nat) : HaltChanges s (s.reportFallback p step) := by
  rw [reportFallback]
  split
  · rfl
  · exact haltChanges_trans (haltChanges_modPart s _ _) (halt_of_reports (record_frame _ _ _ _ _ _ _ _))

theorem reportAll_frame (p : Nat) : HaltChanges s (s.reportAll p) :=
  foldl_rel HaltChanges haltChanges_refl (fun h k => haltChanges_trans h k) _ (fun _ _ => reportFallback_frame _ _ _) _ s

theorem haltDone_frame (p : Nat) : HaltChanges s (s.haltDone p) := by
  rw [haltDone]
  dsimp only
  split
  · exact haltChanges_trans (haltChanges_trans (haltChanges_trans (haltChanges_modPart s _ _) (tellHalt_frame _ _))
      (reportAll_frame _ _)) (foldl_rel HaltChanges haltChanges_refl (fun h k => haltChanges_trans h k) _ (fun _ _ => halt_of_reports (reply_reports _ _ _ _ _ _)) _ _)
  · rfl

theorem haltOne_frame (p : Nat) (r : FaultRec) : HaltChanges s (s.haltOne p r) := by
  rw [haltOne]
  split
  · exact haltChanges_trans (haltChanges_mark s p r) (haltDone_frame _ _)
  · rfl

theorem haltChanges_modCore (c : Nat) (f : Core → Core) : HaltChanges s (s.modCore c f) := rfl

/-- The notices of a whole partition at once. -/
theorem haltNow_frame (p : Nat) : HaltChanges s (s.haltNow p) := by
  rw [haltNow]
  split
  · exact haltChanges_trans (foldl_rel HaltChanges haltChanges_refl (fun h k => haltChanges_trans h k) _
      (fun _ _ => haltChanges_modCore _ _ _) _ _) (haltDone_frame _ _)
  · rfl

theorem haltChanges_held (l : List Held) : HaltChanges s { s with held := l } := rfl

/-- What an instruction's fault does before its partition's other cores hear of it. -/
theorem faultOne_frame (c : Nat) (e : Entry) (cause : Nat) (index : Word) (addr : Option Nat) : HaltChanges s (s.faultOne c e cause index addr) := by
  rw [faultOne]
  have h : HaltChanges s ((s.modEntry c e.uid fun x => { x with phase := .faulted, bound := [] }).modCore c stopCore) :=
    haltChanges_trans (haltChanges_modCore _ _ _) (haltChanges_modCore _ _ _)
  have k := haltChanges_trans h (haltChanges_held _ (((s.modEntry c e.uid fun x => { x with phase := .faulted, bound := [] }).modCore c
    stopCore).held.filter fun h => decide (h.storer ≠ (c, e.uid))))
  split
  · exact k
  · split
    · exact haltChanges_trans k (haltOne_frame _ _ _)
    · exact haltChanges_trans k (haltChanges_trans (haltChanges_modPart _ _ _) (haltDone_frame _ _))

theorem peerFaults_frame (fuel : Nat) : ∀ (s : State) (ps : List Nat), HaltChanges s (peerFaults fuel s ps) := by
  induction fuel with
  | zero => exact fun s _ => haltChanges_refl s
  | succ n ih =>
    intro s ps
    cases ps with
    | nil => exact haltChanges_refl s
    | cons p rest =>
      rw [peerFaults]
      refine haltChanges_trans ?_ (ih _ _)
      refine foldl_rel HaltChanges haltChanges_refl (fun h k => haltChanges_trans h k) _ (fun t q => ?_) _ s
      dsimp only
      split
      · exact haltChanges_trans (haltChanges_modPart _ _ _) (faultOne_frame _ _ _ _ _ _)
      · exact haltChanges_modPart _ _ _

/-- A halt by the host or the keeper. -/
theorem haltPart_frame (p : Nat) (index : Word) : HaltChanges s (s.haltPart p index) := by
  rw [haltPart]
  split
  · exact haltChanges_trans (haltOne_frame _ _ _) (peerFaults_frame _ _ _)
  · rfl

/-- An instruction fault. -/
theorem fault_frame (c : Nat) (e : Entry) (cause : Nat) (index : Word) (addr : Option Nat) : HaltChanges s (s.fault c e cause index addr) := by
  rw [fault]
  split
  · split
    · exact haltChanges_trans (faultOne_frame _ _ _ _ _ _) (peerFaults_frame _ _ _)
    · exact faultOne_frame _ _ _ _ _ _
  · exact faultOne_frame _ _ _ _ _ _

/-- What a halt changes leaves the memories canonical. -/
theorem memOk_of_haltChanges {s t : State} (h : s.memOk) (k : HaltChanges s t) : t.memOk := by
  rw [HaltChanges] at k
  rw [k]
  exact h

/-- What a register update changes leaves the memories canonical. -/
theorem memOk_of_onlyRegs {s t : State} (h : s.memOk) (k : OnlyRegs s t) : t.memOk := by
  rw [OnlyRegs] at k
  rw [k]
  exact h

/-! ### Tokens, firing and completion -/

theorem produce_frame (c : Nat) (e : Entry) (kind : TokKind) (value : Word) :
    s.produce c e kind value = { s with cores := (s.produce c e kind value).cores } := by
  rw [produce]
  split <;> rfl

/-- The parts that firing and completion of an entry can change: those of a ramp-down that a completion charges among them (R151). -/
def CoreChanges (s t : State) : Prop := t = { s with cores := t.cores, mrs := t.mrs, fresh := t.fresh, parts := t.parts, weir := t.weir }

theorem coreChanges_trans {a b c : State} (h : CoreChanges a b) (k : CoreChanges b c) : CoreChanges a c := by
  rw [CoreChanges] at *
  rw [k, h]

theorem coreChanges_modCore (c : Nat) (f : Core → Core) : CoreChanges s (s.modCore c f) := rfl
theorem coreChanges_usedFresh : CoreChanges s s.usedFresh := rfl
theorem coreChanges_bumpBy (id : RegId) (ix : List Nat) (hi lo n : Nat) : CoreChanges s (s.bumpBy id ix hi lo n) := rfl
theorem coreChanges_setRegF (id : RegId) (ix : List Nat) (hi lo v : Nat) : CoreChanges s (s.setRegF id ix hi lo v) := rfl

theorem coreChanges_of_onlyRegs {s t : State} (h : OnlyRegs s t) : CoreChanges s t := by
  rw [OnlyRegs] at h
  rw [CoreChanges]
  rw [h]

theorem coreChanges_produce (c : Nat) (e : Entry) (kind : TokKind) (value : Word) : CoreChanges s (s.produce c e kind value) := by
  rw [produce]
  split
  · rfl
  · exact coreChanges_modCore _ _ _

/-- An entry that fires changes its core and counters. -/
theorem markFired_frame (c : Nat) (e : Entry) : CoreChanges s (s.markFired c e) := by
  rw [markFired]
  exact coreChanges_trans (coreChanges_trans (coreChanges_modCore _ _ _) (coreChanges_modCore _ _ _))
    (coreChanges_of_onlyRegs (pmc_frame _ _ _ _))

theorem writeSample_frame (c : Nat) (ws : List Long) : CoreChanges s (s.writeSample c ws) := by
  rw [writeSample]
  split
  · exact coreChanges_bumpBy _ _ _ _ _ _
  · exact coreChanges_trans (coreChanges_modCore _ _ _) (coreChanges_trans (coreChanges_setRegF _ _ _ _ _ _) (coreChanges_setRegF _ _ _ _ _ _))

theorem rampMove_frame (c : Nat) : CoreChanges s (s.rampMove c) := by
  rw [rampMove]
  split
  · split
    · rfl
    · exact coreChanges_trans (coreChanges_setRegF _ _ _ _ _ _) (coreChanges_usedFresh _)
  · split
    · rfl
    · exact coreChanges_trans (coreChanges_setRegF _ _ _ _ _ _) (coreChanges_usedFresh _)

theorem chargeRampDown_frame (c : Nat) : CoreChanges s (s.chargeRampDown c) := rfl

/-- A pass that leaves the array changes its core, the ramp and, where it was the last, what its partition is charged. -/
theorem passOut_frame (c : Nat) (e : Entry) : CoreChanges s (s.passOut c e) := by
  rw [passOut]
  split
  · exact coreChanges_trans (coreChanges_trans (rampMove_frame _ _) (coreChanges_modCore _ _ _)) (chargeRampDown_frame _ _)
  · exact coreChanges_trans (rampMove_frame _ _) (coreChanges_modCore _ _ _)

/-- An entry that leaves the window with its token. -/
theorem leave_frame (c : Nat) (e : Entry) (f : Core → Core) : CoreChanges s (((s.modCore c f).produce c e .done e.value).pmc c 0x03 1) :=
  coreChanges_trans (coreChanges_trans (coreChanges_modCore _ _ _) (coreChanges_produce _ _ _ _ _)) (coreChanges_of_onlyRegs (pmc_frame _ _ _ _))

/-- An entry that completes changes its core, counters and sample registers, and may take a fresh value for a sample; an MPASS moves
the ramp as well. -/
theorem complete_frame (c : Nat) (e : Entry) : CoreChanges s (s.complete c e) := by
  rw [complete]
  dsimp only
  have k : CoreChanges s (if e.unit = 1 ∧ e.opcode = 0x11 then s.passOut c e else s) := by
    split
    · exact passOut_frame s c e
    · rfl
  generalize (if e.unit = 1 ∧ e.opcode = 0x11 then s.passOut c e else s) = u at k ⊢
  split
  · exact coreChanges_trans (coreChanges_trans k (leave_frame _ _ _ _)) (coreChanges_trans (writeSample_frame _ _ _) (coreChanges_usedFresh _))
  · exact coreChanges_trans k (leave_frame _ _ _ _)

/-- What firing and completion change leaves the memories canonical. -/
theorem memOk_of_coreChanges {s t : State} (h : s.memOk) (k : CoreChanges s t) : t.memOk := by
  rw [CoreChanges] at k
  rw [k]
  exact h

/-- A command whose entry does not fire changes nothing; one that fires is its body's effect on the state marked. -/
theorem fireOp_eq (c unit opcode : Nat) (acc : Entry → Bool) (body : State → Entry → State) (e : Entry)
    (h : s.oldestReady c unit acc = some e) :
    s.fireOp c unit opcode acc body = if e.opcode = opcode then body (s.markFired c e) (s.firedEntry c e) else s := by
  simp only [fireOp, h]

theorem fireOp_none (c unit opcode : Nat) (acc : Entry → Bool) (body : State → Entry → State) (h : s.oldestReady c unit acc = none) :
    s.fireOp c unit opcode acc body = s := by
  simp only [fireOp, h]

/-- What holds of the state and of every body holds of a command that fires an entry. -/
theorem fireOp_rel (R : State → State → Prop) (refl : R s s) (c unit opcode : Nat) (acc : Entry → Bool) (body : State → Entry → State)
    (h : ∀ e, R s (body (s.markFired c e) (s.firedEntry c e))) : R s (s.fireOp c unit opcode acc body) := by
  rw [fireOp]
  split
  · exact refl
  · split
    · exact h _
    · exact refl

end Sys2Proof.Machine.State
end

