-- ==== Sys2Proof/Laws/Access.lean ====
section
/-! SUPPORT. Reads and writes of memory where no word or granule is in error: a read changes counters only and gives the bytes that stand
there, a write stores its bytes. -/

namespace Sys2Proof.Machine.State

variable (s : State)

/-- Counting granules changes counters only. -/
theorem granules_frame (slow : Bool) (a n : Nat) : Counts s (s.granules slow a n) := by
  rw [granules]
  split
  · rfl
  · split
    · rfl
    · refine foldl_rel Counts counts_refl (fun h k => counts_trans h k) _ (fun t g => ?_) _ s
      split <;> exact pmcDie_frame _ _ _ _

theorem mark_clean (t : Tier) (g : Nat) (h : TierClean t) : t.mark g = none := by simp [Tier.mark, h.1, h.2, FMap.has]

theorem marksIn_clean (t : Tier) (a n : Nat) (h : TierClean t) : t.marksIn a n = [] := by simp [Tier.marksIn, h.1, h.2]

/-- An access meets no held bank and no crossing in reset where no crossing resets and, in the fast tier, no stack has stopped or is under
repair. -/
theorem touch_idle (slow : Bool) (a n : Nat) (x : s.xings.any (fun x => decide (272 ≤ x.1) && (x.2.selfReset || x.2.clkReset)) = false)
    (h : slow = true ∨ ∀ st : Fin 8, s.stackStopped st = false ∧ (s.stack st).repairing = []) : s.touch slow a n = s := by
  rw [touch, if_neg]
  have k : (!slow && (List.range 8).any fun st => s.stackStopped st || !(s.stack st).repairing.isEmpty) = false := by
    rcases h with h | h
    · simp [h]
    · rw [Bool.and_eq_false_iff]
      right
      rw [List.any_eq_false]
      intro st m
      simpa using h ⟨st, List.mem_range.1 m⟩
  simp [k, x]

/-- A read of a tier without errors or held banks: its bytes, and counters. -/
theorem tierRead_clean (slow : Bool) (a n : Nat) (h : TierClean (s.tierOf slow)) (k : s.touch slow a n = s) :
    Counts s (s.tierRead slow a n).st ∧ (s.tierRead slow a n).bytes = (readBytes (s.tierOf slow).data a n).map some ∧
      (s.tierRead slow a n).bad = none := by
  have g := granules_frame s slow a n
  have d : (s.granules slow a n).tierOf slow = s.tierOf slow := by
    rw [Counts] at g
    rw [g]
    rfl
  simp only [tierRead, marksIn_clean _ _ _ h, List.foldl_nil, List.isEmpty_nil, if_true, k, d, and_self, and_true]
  exact g

/-- Grants at a vat's port change counters only. -/
theorem vatGrants_frame (pl : Place) (a n : Nat) : OnlyRegs s (s.vatGrants pl a n) := by
  cases pl with
  | vat i => exact pmc_frame _ _ _ _
  | _ => rfl

/-- A read of a vat or pool bank without errors, as for a feeder port, changes nothing. -/
theorem cellRead_clean (pl : Place) (a n : Nat) (need : Nat → Bool) (h : (s.bankOf pl).errs = []) :
    s.cellRead pl a n need = ⟨s, (readBytes (s.bankOf pl).data a n).map some, none⟩ := by
  simp [cellRead, h]

/-- The banks are not counters. -/
theorem bankOf_onlyRegs {s t : State} (h : OnlyRegs s t) (pl : Place) : t.bankOf pl = s.bankOf pl := by
  rw [OnlyRegs] at h
  rw [h]
  rfl

/-- A read of a vat or pool bank without errors counts its grants and changes nothing else. -/
theorem bankRead_clean (pl : Place) (a n : Nat) (h : (s.bankOf pl).errs = []) :
    s.bankRead pl a n = ⟨s.vatGrants pl a n, (readBytes (s.bankOf pl).data a n).map some, none⟩ := by
  have k := bankOf_onlyRegs (vatGrants_frame s pl a n) pl
  rw [bankRead, bankReadFor, cellRead_clean _ _ _ _ _ (k ▸ h), k]

/-- The bytes and the checks of a tier are not counters. -/
theorem tierOf_counts {s t : State} (h : Counts s t) (slow : Bool) : t.tierOf slow = s.tierOf slow := by
  rw [Counts] at h
  rw [h]
  rfl

/-- A write of a tier without errors or held banks stores its bytes and merges without fault. -/
theorem tierWrite_clean (slow : Bool) (a : Nat) (bs : List Byte) (h : TierClean (s.tierOf slow)) (k : s.touch slow a bs.length = s) :
    s.tierWrite slow a bs =
      ((s.granules slow a bs.length).setTier slow { s.tierOf slow with data := writeBytes (s.tierOf slow).data a bs }, none) := by
  have g := tierOf_counts (granules_frame s slow a bs.length) slow
  obtain ⟨c, y⟩ := h
  simp [tierWrite, marksIn_clean _ _ _ ⟨c, y⟩, k, g, Tier.unmark, c, y]

end Sys2Proof.Machine.State
end

