-- ==== Sys2Proof/Laws/Exec.lean ====
section
/-! SUPPORT. No command stops: every one of them is answered by a next state, in every state (log 2). -/

namespace Sys2Proof.Machine

/-- Every command is answered by a next state. -/
theorem exec_next (c : Instr) (s : State) : ∃ t, exec c s = .next t := by
  cases c <;> exact ⟨_, rfl⟩

/-- So is every step. -/
theorem step_next (s : State) : ∃ t, step s = .next t := by
  rw [step]
  split
  · exact ⟨_, rfl⟩
  · exact exec_next _ _

end Sys2Proof.Machine
end

