-- ==== Sys2Proof/Laws/Flits.lean ====
section
/-! SUPPORT. Byte strings of numbers, and a flit that the sender builds is intact. -/

namespace Sys2Proof.Machine

@[simp] theorem leBytes_length (n v : Nat) : (leBytes n v).length = n := by
  induction n generalizing v with
  | zero => rfl
  | succ n ih => simp [leBytes, ih]

@[simp] theorem beBytes_length (n v : Nat) : (beBytes n v).length = n := by simp [beBytes]

@[simp] theorem toLen_length (n : Nat) (l : List Byte) : (toLen n l).length = n := by simp [toLen, fill]; omega

/-- The bytes of a number spell it again, modulo their range. -/
theorem fromLE_leBytes (n v : Nat) : fromLE (leBytes n v) = v % 256 ^ n := by
  induction n generalizing v with
  | zero => simp [leBytes, fromLE, Nat.mod_one]
  | succ n ih =>
    simp only [leBytes, fromLE, ih, BitVec.toNat_ofNat]
    rw [show 256 ^ (n + 1) = 256 * 256 ^ n from by rw [Nat.pow_succ, Nat.mul_comm], Nat.mod_mul]

theorem fromBE_beBytes (n v : Nat) : fromBE (beBytes n v) = v % 256 ^ n := by simp [fromBE, beBytes, fromLE_leBytes]

theorem crcBit_lt (w poly r : Nat) (b : Bool) (h : poly < 2 ^ w) : crcBit w poly r b < 2 ^ w := by
  unfold crcBit
  have q : r * 2 % 2 ^ w < 2 ^ w := Nat.mod_lt _ (Nat.two_pow_pos _)
  dsimp only
  split
  · exact Nat.xor_lt_two_pow q h
  · exact q

theorem crcByte_lt (w poly r : Nat) (b : Byte) (h : poly < 2 ^ w) : crcByte w poly r b < 2 ^ w := by
  unfold crcByte
  rw [List.range_succ, List.foldl_append]
  exact crcBit_lt _ _ _ _ h

theorem crc64_lt (l : List Byte) : crc64 l < 2 ^ 64 := by
  unfold crc64
  rcases List.eq_nil_or_concat l with rfl | ⟨t, b, rfl⟩
  · exact Nat.two_pow_pos 64
  · rw [List.concat_eq_append, List.foldl_append, List.foldl_cons, List.foldl_nil]
    exact crcByte_lt 64 0x42F0E1EBA9EA3693 _ b (by norm_num)

@[simp] theorem flitOf_length (head payload : List Byte) : (flitOf head payload).length = head.length + 250 := by simp [flitOf]

/-- A flit built from a head of six bytes is intact where the FEC decodes it. -/
theorem flitOf_intact (head payload : List Byte) (h : head.length = 6) : flitIntact true (flitOf head payload) = true := by
  have hl : (head ++ toLen 242 payload).length = 248 := by simp [h]
  have t : (flitOf head payload).take 248 = head ++ toLen 242 payload := by
    unfold flitOf; exact (congrArg (List.take · _) hl.symm).trans (List.take_left)
  have d : (flitOf head payload).drop 248 = beBytes 8 (crc64 (head ++ toLen 242 payload)) := by
    unfold flitOf; exact (congrArg (List.drop · _) hl.symm).trans (List.drop_left)
  have b : be (flitOf head payload) 248 8 = crc64 (head ++ toLen 242 payload) := by
    unfold be
    rw [d, List.take_of_length_le (by simp), fromBE_beBytes]
    exact Nat.mod_eq_of_lt (crc64_lt _)
  simp [flitIntact, h, t, b]

end Sys2Proof.Machine
end

