-- ==== Sys2Proof/Tests/Base.lean ====
section
/-! SUPPORT. The small states of the tests: partition 0 runs on core 0, with one 2 MiB page of each tier, vats 0 and 1 owned by the core, and
the window a test gives. -/

namespace Sys2Proof.Tests

set_option Elab.async false

open Sys2Proof.Machine

/-- An operation word: its opcode, and values at their low bits. -/
def opw (oc : Nat) (l : List (Nat × Nat)) : Long := BitVec.ofNat 64 (l.foldl (fun a q => a + q.2 * 2 ^ q.1) (oc * 2 ^ 56))

/-- A descriptor: values at their byte offsets. -/
def dsc (l : List (Nat × Nat)) : BitVec 256 := BitVec.ofNat 256 (l.foldl (fun a q => a + q.2 * 2 ^ (8 * q.1)) 0)

/-- A page map: fast at 0, slow read-only at 2 MiB, slow at 4 MiB. -/
def pages : List Page := [⟨0, false, false, true, 3, 5⟩, ⟨2097152, false, true, true, 1, 7⟩, ⟨4194304, false, true, true, 3, 9⟩]

def img (ds : List (BitVec 256)) : PartImg :=
  { energyShare := 1000, runSeed := 0, mask := [1], stepStart := 0, deadline := 0, fastMin := 0, fastCap := 0, slowMin := 0, slowCap := 0,
    grant := 7, gaugeSlots := 0, gaugeRecord := 0, pages := pages, owners := [], shapes := [], profiles := [], costs := [], gaugeMap := [],
    descs := ds, progs := [], routes := [], schedule := [0], tables := [], rennets := [], links := [], trees := [], ingest := [], store := [], ferry := [],
    hash := [] }

/-- An admitted entry that waits, with n elements bound. -/
def ent (uid unit : Nat) (op : Long) (n : Nat := 4) : Entry :=
  { uid := uid, step := 0, recIx := 0, iters := [], unit := unit, op := op, wait := 0, produce := 0x8005, ext := 0, off := 0,
    vset := ⟨0, .known n, false, 0, 0, 0, none⟩, gens := [], phase := .waiting, admitted := true, paid := 1, chunk := 0, chunks := 0, carry := [],
    value := 0, bound := [], dst := [], first := none, fallback := false, sampled := false, fireTick := 0 }

/-- VAT_OWNER or POOL_OWNER of a bank that core 0 of partition 0 owns. -/
def owned : Long := BitVec.ofNat 64 (2 ^ 43 + 0x1F * 2 ^ 32)

def part (im : PartImg) : Part := { Part.undefinedPart with img := some im }

/-- Partition 0 runs image im on core 0, which holds a window. -/
def st (im : PartImg) (es : List Entry) : State :=
  { State.reset with
    bootStep := 9, mrs := [(512, 1), (0x01801000, owned), (0x01801008, owned)], parts := [(0, part im)], place := [(0, 0)],
    cores := [(0, { Core.idle with part := some 0, window := es, nextUid := 9 })] }

/-- The state in which an operation word is the oldest of its unit. -/
def one (unit : Nat) (op : Long) (ds : List (BitVec 256)) : State := st (img ds) [ent 1 unit op]

def setCore0 (s : State) (f : Core → Core) : State := s.modCore 0 f

end Sys2Proof.Tests
end

