-- ==== Sys2Proof/Tests/WitnessCore.lean ====
section
/-! SUPPORT. States and operands that meet the hypotheses of the statements about registers, the window, control, tokens and the matrix
array. -/

namespace Sys2Proof.Tests

set_option Elab.async false

open Sys2Proof.Machine

theorem witness_EmptyQueueIsOneTick : State.reset.pending = [] ∧ State.reset.bootStep < 4 ∧ (st (img []) []).pending = [] ∧
    4 ≤ (st (img []) []).bootStep := by decide +kernel

theorem witness_CommandsKeepTheQueue : ∃ t, exec .meterTamper State.reset = .next t := ⟨_, rfl⟩

theorem witness_StepKeepsMemoryCanonical :
    ({ State.reset with pending := [.scrub true 5], vats := [(3, ⟨[(5, 1), (9, 2)], []⟩)] } : State).memOk ∧
    ∃ t, step { State.reset with pending := [.scrub true 5], vats := [(3, ⟨[(5, 1), (9, 2)], []⟩)] } = .next t :=
  ⟨by unfold State.memOk; decide +kernel, _, rfl⟩

theorem witness_RegisterMapRoundTrip : indexesFit RegId.lnkStatus.row.dims [15] ∧ indexesFit RegId.pmcCnt.row.dims [7, 15, 7] ∧
    indexesFit RegId.keepStatus.row.dims [] := by
  simp only [indexesFit, RegId.row, and_true]; decide +kernel

theorem witness_MisshapenAccessIsAnError : ((4 : Nat) ≠ 8 ∨ (8 : Word).toNat % 8 ≠ 0) ∧ ((8 : Nat) ≠ 8 ∨ (0xFFFFFFFC : Word).toNat % 8 ≠ 0) ∧
    (7 : Nat) % 8 ≠ 0 := by decide +kernel

theorem witness_PlainRegisterWrite : RegId.ethCtrl ∈ plainIds ∧ decodeAddr (0x0A800108 : Word).toNat = some (.ethCtrl, [1]) ∧
    (0x0A800108 : Word).toNat % 8 = 0 ∧ State.reset.unreachable .ethCtrl [1] = false := by decide +kernel

theorem witness_SampleControlWrite : (st (img []) []).unreachable .pmcSample (cix 127) = false ∧
    (st (img []) []).regF .pmcSample (cix 127) 0 0 = 0 ∧ getF (1 : Long) 0 0 = 1 ∧ getF (2 : Long) 0 0 = 0 := by decide +kernel

/-! ### The window -/

/-- A program of one TJOIN on core 0. -/
def joinRec : Rec := ⟨0, 0x8001, 0, 0, opw 2 [], 0⟩
def progImg : PartImg := { img [] with progs := [⟨0, 0, [joinRec]⟩], routes := [⟨0, 1, 1, 7, 0, [1]⟩] }
def fetching (n : Nat) : State :=
  setCore0 (st progImg ((List.range n).map fun i => ent i 0 (opw 2 []))) fun k => { k with fetch := some ⟨0, 0, [], false, []⟩ }

theorem witness_WindowEntryTakesTheNextRecord :
    ((fetching 383).imgOf 0 = some progImg ∧ ((fetching 383).core 0).fetch = some ⟨0, 0, [], false, []⟩ ∧ (fetching 383).mayFire 0 = true ∧
      (progImg.recsOf 0 ((fetching 383).core 0).logical)[0]? = some joinRec ∧ ((fetching 383).core 0).window.length < 384) ∧
    (fetching 384).mayFire 0 = true ∧ 384 ≤ ((fetching 384).core 0).window.length := by decide +kernel

theorem witness_CompletionLeavesTheWindow :
    let e := { ent 1 5 (opw 0x10 []) with phase := .done }
    let s := st (img []) [e]
    s.entry? 0 1 = some e ∧ e.phase = .done ∧ (∀ h ∈ s.held, h.loader ≠ (0, 1)) ∧
      (∀ j ∈ (s.cl 0).copyRun, ¬ (j.core = 0 ∧ j.uid = 1)) ∧ 0x8000 ≤ e.produce.toNat ∧ NoErrors s ∧ ¬ (e.unit = 1 ∧ e.opcode = 0x11) := by
  unfold NoErrors TierClean PhysUp; decide +kernel

/-- Core 1 also runs in partition 0, and a token that a route takes there has been produced on core 0. -/
def routed : State :=
  { st progImg [] with
    place := [(0, 0), (1, 1)],
    cores := [(0, { Core.idle with part := some 0, tokens := [⟨.done, 1, 0, [], 42⟩] }), (1, { Core.idle with part := some 0, logical := 1 })] }

theorem witness_RoutedTokenArrives :
    (routed.part 0).img = some progImg ∧ progImg.routes[0]? = some ⟨0, 1, 1, 7, 0, [1]⟩ ∧ routed.physOf 0 = some 0 ∧ routed.physOf 1 = some 1 ∧
      routed.tokenAt 0 .done 1 0 [] = some 42 ∧ progImg.programOf 0 = 0 ∧ routed.tokenAt 1 .done 7 0 [] = none := by decide +kernel

theorem witness_JoinProducesItsToken :
    let s := one 0 (opw 2 []) []
    Fires s 0 0 0x02 (fun e => e.opcode == 0x02) (ent 1 0 (opw 2 [])) ∧ 0x8000 ≤ (ent 1 0 (opw 2 [])).produce.toNat := by
  unfold Fires; decide +kernel

/-- A control instruction of core 0 whose wait entry 0 has brought a scalar. -/
def scalarEnt (unit : Nat) (op : Long) (ext : Nat := 0) : Entry := { ent 1 unit op with wait := 0x4001, ext := ext }
def scalarSt (unit : Nat) (op : Long) (v : Word) (ext : Nat := 0) : State :=
  setCore0 (st progImg [scalarEnt unit op ext]) fun k => { k with tokens := [⟨.done, 1, 0, [], v⟩], fetch := some ⟨0, 1, [], true, []⟩ }

theorem witness_PredicateSkips :
    let s := scalarSt 0 (opw 3 [(0, 2)]) 0
    Fires s 0 0 0x03 (fun e => e.opcode == 0x03) (scalarEnt 0 (opw 3 [(0, 2)])) ∧ (s.core 0).fetch = some ⟨0, 1, [], true, []⟩ ∧
      s.scalarOf 0 (scalarEnt 0 (opw 3 [(0, 2)])) = 0 := by
  unfold Fires; decide +kernel

theorem witness_PredicateEnters :
    let s := scalarSt 0 (opw 3 [(0, 2)]) 5
    Fires s 0 0 0x03 (fun e => e.opcode == 0x03) (scalarEnt 0 (opw 3 [(0, 2)])) ∧ (s.core 0).fetch = some ⟨0, 1, [], true, []⟩ ∧
      s.scalarOf 0 (scalarEnt 0 (opw 3 [(0, 2)])) ≠ 0 := by
  unfold Fires; decide +kernel

/-- A LOOP of at most 8 trips that takes its count from its wait. -/
def loopOp : Long := opw 4 [(32, 7), (31, 1)]

/-- What the statement about LOOP asks of a state, with the trip count its wait brings. -/
def Loops (s : State) (trips : Nat) : Prop :=
  Fires s 0 0 0x04 (fun e => e.opcode == 0x04) (scalarEnt 0 loopOp) ∧ (s.core 0).fetch = some ⟨0, 1, [], true, []⟩ ∧
    (s.core 0).part = some 0 ∧ s.tripsOf 0 (scalarEnt 0 loopOp) = trips

theorem witness_LoopSkips : Loops (scalarSt 0 loopOp 0) 0 := by unfold Loops Fires; decide +kernel

theorem witness_LoopOpens : Loops (scalarSt 0 loopOp 1) 1 ∧ Loops (scalarSt 0 loopOp 8) 8 ∧ getF loopOp 55 32 + 1 = 8 := by
  unfold Loops Fires; decide +kernel

theorem witness_LoopExceeds : Loops (scalarSt 0 loopOp 9) 9 ∧ getF loopOp 55 32 + 1 = 8 ∧ (scalarSt 0 loopOp 9).isRunning 0 = true := by
  unfold Loops Fires; decide +kernel

theorem witness_StepEndContributes :
    let s := one 0 (opw 1 []) []
    (s.core 0).part = some 0 ∧ Fires s 0 0 0x01 (fun e => e.opcode == 0x01 &&
      (s.core 0).window.all fun y => decide (e.uid ≤ y.uid) || y.step != e.step) (ent 1 0 (opw 1 [])) := by
  unfold Fires; decide +kernel

def contributed (collected : List Word) : State := (st (img []) []).modPart 0 fun x => { x with contrib := [(0, [0])], collected := collected }

theorem witness_BarrierCollects :
    ((contributed []).part 0).img = some (img []) ∧ (contributed []).isRunning 0 = true ∧ (contributed []).allContributed 0 0 = true ∧
      ((contributed []).part 0).step ∉ ((contributed []).part 0).collected ∧
      ((contributed []).storePieces 128 0 (piecesOf pages 1 0 (gaugeRecordBytes (img []) [] 0).length) (gaugeRecordBytes (img []) [] 0)).2 = none ∧ NoErrors (contributed []) := by
  unfold NoErrors TierClean PhysUp; decide +kernel

theorem witness_BarrierReleases :
    ((contributed [0]).isRunning 0 = true ∧ ((contributed [0]).part 0).step ∈ ((contributed [0]).part 0).collected ∧ (contributed [0]).hasHeld 128 0 = false ∧
      (contributed [0]).pstate 0 = 1) ∧
    ((contributed [0]).setPstate 0 2).isRunning 0 = true ∧ (((contributed [0]).setPstate 0 2).part 0).step ∈ [(0 : Word)] ∧
      ((contributed [0]).setPstate 0 2).pstate 0 = 2 ∧ (1 : Word) ≠ ((contributed [0]).part 0).step := by decide +kernel

theorem witness_HeldWritesAreReleased :
    let e := ent 1 5 (opw 0x11 [])
    let s := { st (img []) [e] with held := [⟨.vat 0, 0, [1], (0, 1), (0, 2), none, [], 0xFFFFFFFE, 1⟩] }
    s.entry? 0 1 = some e ∧ ¬ (e.unit = 5 ∧ e.opcode = 0x7C) ∧ NoErrors s ∧ (∀ f ∈ s.ferries, ¬ (f.core = 0 ∧ f.uid = 1)) ∧
      ∀ h ∈ (st (img []) [e]).held, h.loader ≠ (0, 1) := by
  unfold NoErrors TierClean PhysUp; decide +kernel

/-- Partition 0 has begun to halt; core 1 holds another of its logical cores. -/
def halting (other : Option Bool) : State :=
  let s := ((st (img []) [ent 1 5 0]).setPstate 0 3).setRegF .keepStatus [] 0 0 1
  let s := s.modPart 0 fun x => { x with halting := true, untold := true, fault := some ⟨0, 0, 0, 0, 0, 0xFFFFFFFE, 0, true, false⟩ }
  match other with
  | some h => s.setCore 1 { Core.idle with part := some 0, halted := h }
  | none => s

theorem witness_HaltNoticeStopsTheCore :
    (let s := halting (some false)
     (s.core 0).part = some 0 ∧ (s.part 0).halting = true ∧ (s.core 0).halted = false ∧ (s.core 1).part = some 0 ∧ (s.core 1).halted = false) ∧
    (let s := halting (some true)
     (s.core 0).part = some 0 ∧ (s.part 0).halting = true ∧ (s.core 0).halted = false ∧ (s.part 0).untold = true ∧ (s.part 0).fault.isSome = true ∧
      s.ready = true ∧ (s.part 0).flagged = [] ∧ s.coresOf 0 = [0, 1] ∧ (s.core 1).halted = true) := by decide +kernel

/-! ### The matrix array -/

/-- A weight or tile descriptor in vat 0: E4M3, shape 0, 2 rows or vectors of the depth's stride. -/
def tileDesc : BitVec 256 := dsc [(0, 2), (1, 3), (2, 0), (4, 0), (8, 0x1000), (0xF, 1), (0xC, 2), (0x10, 64)]

theorem witness_MloadFillsTheBuffer :
    let s := one 1 (opw 0x10 []) [tileDesc]
    let busy := setCore0 s fun k => { k with passes := [⟨3, 0, 0, true⟩] }
    Fires s 0 1 0x10 (s.arrayAccepts 0) (ent 1 1 (opw 0x10 [])) ∧ s.arrayPlace 0 (s.desc 0 0) = some (.vat 0) ∧
      s.coreOwns 0 (some (.vat 0)) = true ∧ (s.bankOf (.vat 0)).errs = [] ∧ (∀ p ∈ (s.core 0).passes, ¬ (p.buf = 0 ∧ p.reading = true)) ∧
      Fires busy 0 1 0x10 (busy.arrayAccepts 0) (ent 1 1 (opw 0x10 [])) ∧ ∃ p ∈ (busy.core 0).passes, p.buf = 0 ∧ p.reading = true := by
  unfold Fires; decide +kernel

theorem witness_MpassAccumulates :
    let s := one 1 (opw 0x11 []) [tileDesc]
    Fires s 0 1 0x11 (s.arrayAccepts 0) (ent 1 1 (opw 0x11 [])) ∧ s.arrayPlace 0 (s.desc 0 0) = some (.vat 0) ∧
      s.coreOwns 0 (some (.vat 0)) = true ∧ (s.bankOf (.vat 0)).errs = [] ∧
      0 < rowBytes (dF tileDesc 1 1) (shapeD (s.passShape 0 (ent 1 1 (opw 0x11 []))) (dF tileDesc 1 1)) := by
  unfold Fires; decide +kernel

theorem witness_MstoreWritesItsRows :
    let s := one 1 (opw 0x12 []) [dsc [(0, 2), (1, 0), (2, 0), (4, 0), (8, 0x1000), (0xF, 1), (0xC, 2), (0x10, 8)]]
    Fires s 0 1 0x12 (s.arrayAccepts 0) (ent 1 1 (opw 0x12 [])) ∧ s.arrayPlace 0 (s.desc 0 0) = some (.vat 0) ∧
      s.coreOwns 0 (some (.vat 0)) = true ∧ (s.bankOf (.vat 0)).errs = [] ∧ s.boundSpans 0 1 = [] ∧ s.hasHeld 0 1 = false := by
  unfold Fires; decide +kernel

theorem witness_ArrayReleases :
    let s := setCore0 (st (img []) [ent 1 5 0]) fun k => { k with passes := [⟨3, 0, 0, true⟩] }
    (∀ e ∈ (s.core 0).window, ¬ (e.unit = 1 ∧ e.opcode = 0x10 ∧ e.phase = .fired ∧ getF e.op 39 39 = 0)) ∧
      ((st (img []) []).core 0).passes = [] := by decide +kernel

end Sys2Proof.Tests
end

