-- ==== Sys2Proof/Tests/WitnessVector.lean ====
section
/-! SUPPORT. States and operands that meet the hypotheses of the statements about the vector engines, their Tensor profile and the
special-function unit. -/

namespace Sys2Proof.Tests

set_option Elab.async false

open Sys2Proof.Machine

/-! ### Strip profile -/

/-- A layout-R word: FP32 throughout, vd 1, vs1 2, vs2 3, vs3 4. -/
def vop (oc : Nat) (l : List (Nat × Nat) := []) : Long := opw oc ([(35, 1), (30, 2), (25, 3), (20, 4)] ++ l)

/-- The word fires on engine 0, over 4 elements. -/
def OnEngine (s : State) (oc : Nat) (op : Long) : Prop :=
  Fires s 0 2 oc (s.vecAccepts 0 0) (ent 1 2 op) ∧
    0 < (actOf (s.vecAt 0 0) (ent 1 2 op).vset (rWord op).m (rWord op).zm (rWord op).mreg).n ∧
    (actOf (s.vecAt 0 0) (ent 1 2 op).vset (rWord op).m (rWord op).zm (rWord op).mreg).n ≤ 1024

/-- No source element of the word is a poison on its way into an integer. -/
def NoPoison (v : Vec) (a : Act) (r : RWord) (sf oc : Nat) : Prop :=
  ∀ i ∈ a.elems, poisonInt oc r.fmt (([r.vs1, r.vs2, r.vs3].take (arity oc)).map fun b => (sf, groupRead v b (fmtWidth sf) i)) = false

def StripRuns (oc : Nat) : Prop :=
  OnEngine (one 2 (vop oc) []) oc (vop oc) ∧ (ent 1 2 (vop oc)).vset.tensor = false ∧
    NoPoison ((one 2 (vop oc) []).vecAt 0 0) (actOf ((one 2 (vop oc) []).vecAt 0 0) (ent 1 2 (vop oc)).vset false false 0) (rWord (vop oc)) 0 oc

theorem witness_StripElementwise : ∀ oc ∈ [0x10, 0x20, 0x21, 0x22, 0x23, 0x24], StripRuns oc := by
  simp only [List.forall_mem_cons]; unfold StripRuns OnEngine Fires NoPoison; decide +kernel

theorem witness_StripElementwise' : ∀ oc ∈ [0x25, 0x26, 0x27, 0x28, 0x30], StripRuns oc := by
  simp only [List.forall_mem_cons]; unfold StripRuns OnEngine Fires NoPoison; decide +kernel

theorem witness_StripElementwise'' : ∀ oc ∈ [0x31, 0x32, 0x33, 0x34, 0x40], StripRuns oc := by
  simp only [List.forall_mem_cons]; unfold StripRuns OnEngine Fires NoPoison; decide +kernel

/-- Register 2 holds a quiet NaN of the poison pattern in element 1. -/
def poisoned (op : Long) : State :=
  setCore0 (one 2 op []) fun k => { k with v0 := { k.v0 with regs := [(513, BitVec.ofNat 32 (encodeRne 0 .poison))] } }

theorem witness_PoisonToIntegerFaults :
    let op := vop 0x40 [(52, 9)]
    let s := poisoned op
    (s.core 0).part = some 0 ∧ OnEngine s 0x40 op ∧ (ent 1 2 op).vset.tensor = false ∧
      ∃ i ∈ (actOf (s.vecAt 0 0) (ent 1 2 op).vset false false 0).elems,
        poisonInt 0x40 (rWord op).fmt [((rWord op).sfmt, groupRead (s.vecAt 0 0) (rWord op).vs1 32 i)] = true := by
  unfold OnEngine Fires; decide +kernel

theorem witness_GroupWriteSemantics :
    ((8 : Nat) ∈ [8, 16, 32] ∧ (1023 : Nat) < 1024 ∧ ([(1023, 7), (3, 300)].map (·.1) : List Nat).Nodup ∧
      (∀ q ∈ ([(1023, 7), (3, 300)] : List (Nat × Nat)), q.1 < 1024)) ∧
    (⟨8, 1024, some 5, true⟩ : Act).lim ≤ 1024 ∧ ((⟨8, 1024, some 5, true⟩ : Act).zm && (⟨8, 1024, some 5, true⟩ : Act).mask.isSome) = true := by
  decide +kernel

theorem witness_VmoviWritesItsImmediate : OnEngine (one 2 (vop 0x11 [(52, 9), (0, 0x80000)]) []) 0x11 (vop 0x11 [(52, 9), (0, 0x80000)]) ∧
    OnEngine (one 2 (vop 0x11 [(52, 1)]) []) 0x11 (vop 0x11 [(52, 1)]) := by unfold OnEngine Fires; decide +kernel

theorem witness_SlidesMoveElements :
    OnEngine (one 2 (vop 0x49 [(0, 3)]) []) 0x49 (vop 0x49 [(0, 3)]) ∧ OnEngine (one 2 (vop 0x4A [(0, 1023)]) []) 0x4A (vop 0x4A [(0, 1023)]) := by
  unfold OnEngine Fires; decide +kernel

/-- Element 0 of register 3 names a source element out of range. -/
def farIndex (op : Long) : State := setCore0 (one 2 op []) fun k => { k with v0 := { k.v0 with regs := [(768, 4)] } }

theorem witness_PermutesMoveElements : OnEngine (farIndex (vop 0x48)) 0x48 (vop 0x48) ∧ OnEngine (one 2 (vop 0x4C) []) 0x4C (vop 0x4C) ∧
    OnEngine (one 2 (vop 0x4D) []) 0x4D (vop 0x4D) ∧
    ∃ i ∈ (actOf ((farIndex (vop 0x48)).vecAt 0 0) (ent 1 2 (vop 0x48)).vset false false 0).elems,
      4 ≤ groupRead ((farIndex (vop 0x48)).vecAt 0 0) 3 32 i := by
  unfold OnEngine Fires; decide +kernel

theorem witness_MaskInstructionsWriteMasks :
    ∀ oc ∈ [0x38, 0x3C, 0x3D, 0x3E, 0x3F], OnEngine (one 2 (vop oc [(44, 1)]) []) oc (vop oc [(44, 1)]) ∧ (rWord (vop oc [(44, 1)])).zm = false := by
  simp only [List.forall_mem_cons]; unfold OnEngine Fires; decide +kernel

theorem witness_ScalarInstructionsDeliver :
    ∀ oc ∈ [0x39, 0x3B, 0x51], OnEngine (one 2 (vop oc [(0, 3)]) []) oc (vop oc [(0, 3)]) ∧ getF (vop oc [(0, 3)]) 9 0 < 4 := by
  simp only [List.forall_mem_cons]; unfold OnEngine Fires; decide +kernel

/-- A layout-M word: FP32, vat 0, group 1, index group 3. -/
def mop (oc : Nat) : Long := opw oc [(47, 0), (37, 1), (32, 3), (18, 1)]

/-- What the statements about vector loads and stores ask of a word. -/
def InVat (oc : Nat) (indexed : Bool) : Prop :=
  let op := mop oc
  let s := one 2 op []
  let m := mWord op []
  let w := fmtWidth m.fmt / 8
  let v := s.vecAt 0 0
  let a := actOf v (ent 1 2 op).vset m.m m.zm m.mreg
  Fires s 0 2 oc (s.vecAccepts 0 0) (ent 1 2 op) ∧ s.locPlace 0 m.vat = some (.vat 0) ∧ s.coreOwns 0 (some (.vat 0)) = true ∧
    (s.bankOf (.vat 0)).errs = [] ∧ s.boundSpans 0 1 = [] ∧ 0 < a.n ∧
    ∀ i ∈ a.elems, m.base + (if indexed then groupRead v m.vx 32 i else i) * w + w ≤ mib2 ∧
      (m.base + (if indexed then groupRead v m.vx 32 i else i) * w) % w = 0

theorem witness_VectorLoadsRead : InVat 0x08 false ∧ InVat 0x0A true := by unfold InVat Fires; decide +kernel

theorem witness_VectorStoresWrite : InVat 0x09 false ∧ InVat 0x0B true := by unfold InVat Fires; decide +kernel

/-- A VSETVL in its TOK form, for 32-bit elements, and an instruction bound to its length. -/
def tokOp : Long := opw 0x01 [(54, 2), (52, 0)]
def tokEnt : Entry := { ent 1 2 tokOp with wait := 0x4001 }
def lenSt (v : Word) : State :=
  setCore0 (st { img [] with progs := [⟨0, 0, [⟨0, 0x8001, 0, 0, opw 2 [], 0⟩]⟩] }
    [tokEnt, { ent 2 2 (vop 0x20) with vset := ⟨0, .token 1, false, 0, 0, 0, none⟩ }]) fun k => { k with tokens := [⟨.done, 1, 0, [], v⟩] }

theorem witness_SettingsBind : Fires (lenSt 2000) 0 2 0x01 ((lenSt 2000).vecAccepts 0 0) tokEnt ∧ 2 ≤ getF tokEnt.op 55 54 ∧
    vlmaxN (BitVec.ofNat 2 (getF tokEnt.op 53 52)) < ((lenSt 2000).scalarOf 0 tokEnt).toNat ∧
    ∃ e ∈ ((lenSt 2000).core 0).window, e.vset.vlen = .token tokEnt.uid := by unfold Fires; decide +kernel

theorem witness_SettingsOfKnownLength :
    OnEngine (one 2 (opw 0x01 []) []) 0x01 (opw 0x01 []) ∧ OnEngine (one 2 (opw 0x02 []) []) 0x02 (opw 0x02 []) ∧
      OnEngine (one 2 (opw 0x03 []) []) 0x03 (opw 0x03 []) := by unfold OnEngine Fires; decide +kernel

theorem witness_ReductionsAndScans :
    OnEngine (one 2 (vop 0x50) []) 0x50 (vop 0x50) ∧ OnEngine (one 2 (vop 0x58) []) 0x58 (vop 0x58) ∧
      OnEngine (one 2 (vop 0x5C) []) 0x5C (vop 0x5C) ∧ (ent 1 2 (vop 0x58)).vset.tensor = false := by unfold OnEngine Fires; decide +kernel

end Sys2Proof.Tests
end

