-- ==== Sys2Proof/WellFormed.lean ====
section
/-! DEFINITION. Which commands a sender could present at all. A well-formed command may still be refused by the rules; the meanings
are total and do not rely on it. -/

namespace Sys2Proof

/-- A flit is 256 bytes (R352). -/
def flitSized (f : List Byte) : Bool := f.length == 256

/-- A bus access is of 1, 2, 4 or 8 bytes; only the last reads or writes a register (R13). -/
def accessSized (n : Nat) : Bool := n == 1 || n == 2 || n == 4 || n == 8

/-- The iterations of a token instance: at most four loops nest (R75). -/
def nestSized (l : List Nat) : Bool := decide (l.length ≤ 4)

/-- The Weir measures five rail groups (R484). -/
def WeirMeasure.wf (m : WeirMeasure) : Bool := m.groups.length == 5

/-- The cartridge slot's link trains at x8 or x4, at PCIe 6.0 or 5.0 rates (R567). -/
def linkTrains (width gen : Nat) : Bool := (width == 8 || width == 4) && (gen == 6 || gen == 5)

/-- Could a sender present the command? -/
def Instr.wf : Instr → Bool
  | .registerWrite _ size _ => accessSized size
  | .tokenRouteArrival _ _ _ _ iters => nestSized iters
  | .confluenceArbitration _ _ arrivals _ => arrivals.all fun x =>
    decide (x.2.val < (if x.1.val < 16 then 6 else if x.1.val = 16 then 2 else 1))
  | .trainFlitReceive _ _ f => flitSized f
  | .dataFlitReceive _ _ f => flitSized f
  | .idleFlitReceive _ _ f => flitSized f
  | .jobMap _ _ _ _ _ _ count entries => decide (entries.length = count.toNat)
  | .weirWindowStart m => m.wf
  | .sluiceSlot ctrl keeper => decide (8 ≤ ctrl.val ∨ keeper = 0)
  | .crossingWordAccept _ _ _ samples => decide (samples.length ≤ 16)
  | .cartridgeInsert _ width gen => linkTrains width gen
  | _ => true

end Sys2Proof
end

