-- ==== Sys2Proof/Tests/Slice0.lean ====
section
/-! SUPPORT. The model's own tests: the ill-formed commands that the well-formedness check refuses, and the worked examples of the spec,
whose results the spec gives. -/

namespace Sys2Proof.Tests

set_option Elab.async false

open Sys2Proof.Machine

/-! ### Commands no sender could present -/

theorem test_wf_registerWrite : (Instr.registerWrite 8 3 0).wf = false ∧ (Instr.registerWrite 8 8 0).wf = true := by decide

theorem test_wf_tokenRouteArrival : (Instr.tokenRouteArrival 0 0 1 0 [0, 0, 0, 0, 0]).wf = false ∧
    (Instr.tokenRouteArrival 0 0 1 0 [0, 0, 0, 0]).wf = true := by decide

theorem test_wf_confluenceArbitration : (Instr.confluenceArbitration 0 0 [(16, 2)] false).wf = false ∧
    (Instr.confluenceArbitration 0 0 [(17, 1)] false).wf = false ∧
    (Instr.confluenceArbitration 0 0 [(16, 1), (15, 5), (19, 0)] false).wf = true := by decide

theorem test_wf_sluiceSlot : (Instr.sluiceSlot 7 1).wf = false ∧ (Instr.sluiceSlot 8 1).wf = true ∧ (Instr.sluiceSlot 7 0).wf = true := by decide

theorem test_wf_flits : (Instr.trainFlitReceive 0 true [0]).wf = false ∧ (Instr.dataFlitReceive 0 true []).wf = false ∧
    (Instr.idleFlitReceive 0 true (List.replicate 255 0)).wf = false ∧ (Instr.idleFlitReceive 0 true (List.replicate 256 0)).wf = true := by
  decide +kernel

/-- A control frame of session 0 on the management port. -/
def hdr0 : CmdHdr := ⟨0, 0, 1, 0, 0, 0, 0⟩

theorem test_wf_jobMap : (Instr.jobMap hdr0 0 0 1 1 0 1 []).wf = false ∧ (Instr.jobMap hdr0 0 0 1 1 0 1 [⟨0, 1, 2, 0, 0, 0, 0⟩]).wf = true := by
  decide

theorem test_wf_weirWindowStart : (Instr.weirWindowStart ⟨0, [0, 0, 0, 0], 0⟩).wf = false ∧
    (Instr.weirWindowStart ⟨0, [0, 0, 0, 0, 0], 0⟩).wf = true := by decide

theorem test_wf_crossingWordAccept : (Instr.crossingWordAccept 0 true [] (List.replicate 17 [])).wf = false ∧
    (Instr.crossingWordAccept 0 true [] (List.replicate 16 [])).wf = true := by decide

theorem test_wf_cartridgeInsert : (Instr.cartridgeInsert true 3 5).wf = false ∧ (Instr.cartridgeInsert true 4 0).wf = false ∧
    (Instr.cartridgeInsert true 4 5).wf = true := by decide

/-! ### Number formats: the worked examples beside R50, R53, R54 and R58 -/

/-- The fused multiply-add of 0x3F81, 0x3F81 and 0xBF80 rounds once, to 0x3C80. -/
theorem test_e8m7_fma_rounds_once :
    encodeRne 1 (((decodeVal 1 0x3F81).mul (decodeVal 1 0x3F81)).add (decodeVal 1 0xBF80)) = 0x3C80 := by decide +kernel

/-- FP32 500.0 overflows E4M3 and becomes 512 in E5M2. -/
theorem test_500_to_8_bits :
    encodeVal 3 true 0 0 (decodeVal 0 0x43FA0000) = (0x7E, .ovf) ∧ encodeVal 3 false 0 0 (decodeVal 0 0x43FA0000) = (0x7F, .ovf) ∧
    encodeVal 4 true 0 0 (decodeVal 0 0x43FA0000) = (0x60, .none) ∧ encodeVal 4 false 0 0 (decodeVal 0 0x43FA0000) = (0x60, .none) := by
  decide +kernel

/-- 1 + 2⁻⁹ to E8M7 under the draws 0xD2F0 and 0x1A00. -/
theorem test_stochastic_rounding :
    (encodeVal 1 false 2 0xD2F0 (decodeVal 0 0x3F804000)).1 = 0x3F81 ∧ (encodeVal 1 false 2 0x1A00 (decodeVal 0 0x3F804000)).1 = 0x3F80 := by
  decide +kernel

/-- An MXFP4 block of 5.0, −0.3 and 0.2 has scale byte 0x7F and codes 6, 9 and 0. -/
theorem test_mx_block :
    mxBlock 0 [0, 0, 0] [.fin false 5 0, decodeVal 0 0xBE99999A, decodeVal 0 0x3E4CCCCD] = (0x7F, [(6, .none), (9, .sub), (0, .unf)]) := by
  decide +kernel

/-! ### Matrix arrays: the examples after R134 and R145 -/

/-- The example pass names buffer 1, descriptor 0x42, ACC and accumulator 0x400. -/
theorem test_mpass_word : getF (0x110042C004000000 : Long) 63 56 = 0x11 ∧ getF (0x110042C004000000 : Long) 55 40 = 0x42 ∧
    getF (0x110042C004000000 : Long) 39 38 = 3 ∧ getF (0x110042C004000000 : Long) 31 16 = 0x400 := by decide +kernel

/-- 1.0 + 2⁻²⁴ + 2⁻⁶⁰ rounds up to 0x3F80_0001, since the truncated term is sticky. -/
theorem test_deep_pass_sticky :
    acc16 [decodeVal 0 0x3F800000, (decodeVal 1 0x3980).mul (decodeVal 1 0x3980), (decodeVal 1 0x3080).mul (decodeVal 1 0x3080)] = 0x3F800001 := by
  decide +kernel

/-- 1 − 1 + 2⁻⁵⁵ + 2⁻⁶⁰: the truncated term is no tie, so 2⁻⁵⁵ stands. -/
theorem test_deep_pass_no_tie :
    acc16 [decodeVal 0 0x3F800000, decodeVal 0 0xBF800000, decodeVal 0 0x24000000, decodeVal 0 0x21800000] = 0x24000000 := by decide +kernel

/-! ### Vector engines: the examples of the chapters of the vector engines -/

/-- The example VFMA word. -/
theorem test_vfma_word : rWord 0x23001B2002200000 = ⟨0, 0, 0, true, true, 3, 4, 0, 1, 2, 0x00000⟩ := by decide +kernel

/-- The example SFGATE word. -/
theorem test_sfgate_word : getF (0x61430C3282182200 : Long) 63 56 = 0x61 ∧ getF (0x61430C3282182200 : Long) 54 54 = 1 ∧
    getF (0x61430C3282182200 : Long) 45 42 = 3 ∧ getF (0x61430C3282182200 : Long) 31 27 = 16 ∧ getF (0x61430C3282182200 : Long) 26 22 = 8 ∧
    getF (0x61430C3282182200 : Long) 21 17 = 12 := by decide +kernel

/-- Engine 0 with n elements bound holds words in its registers and masks. -/
def vecSt (oc : Nat) (op : Long) (n : Nat) (regs : List (Nat × Word)) (masks : List (Nat × BitVec 1024)) : State :=
  setCore0 (st (img []) [ent 1 2 op n]) fun k => { k with v0 := { k.v0 with regs := regs, masks := if oc = 0 then [] else masks } }

/-- The vector state of engine 0 of core 0 after a command. -/
def vecAfter (i : Instr) (s : State) : Option Vec := match exec i s with | .next t => some (t.vecAt 0 0) | _ => none

/-- VREC over a = 0.5 four times, b = 1, 2, 3, 4 from 8.0 gives 5, 4.5, 5.25 and 6.625, and leaves 6.625 behind. -/
def recSt : State :=
  vecSt 1 (vop 0x5C) 4 [(512, 0x3F000000), (513, 0x3F000000), (514, 0x3F000000), (515, 0x3F000000), (768, 0x3F800000), (769, 0x40000000),
    (770, 0x40400000), (771, 0x40800000), (1024, 0x41000000)] []

theorem test_vrec_example :
    (vecAfter (.vrec 0 0) recSt).map (fun v => (List.range 4).map fun e => groupRead v 1 32 e) =
      some [0x40A00000, 0x40900000, 0x40A80000, 0x40D40000] ∧
    (vecAfter (.vrec 0 0) recSt).map (fun v => (lane0 v 4).toNat) = some 0x40D40000 := by decide +kernel

/-- v0 = 0.5, 3, −1, 2.5, 0.25, 4, −2, 1.5 in E8M7, in register 0, and m1 = 1010_1010. -/
def packSt (op : Long) (n : Nat) (regs : List (Nat × Word)) : State := vecSt 1 op n regs [(1, 0xAA)]

def packWords : List (Nat × Word) := [(0, 0x40403F00), (1, 0x4020BF80), (2, 0x40803E80), (3, 0x3FC0C000)]

/-- VCOMPRESS of the example gathers 3, 2.5, 4 and 1.5 at the front, with zeros behind. -/
theorem test_vcompress_example :
    let op := opw 0x4C [(52, 1), (48, 1), (44, 1), (40, 1), (35, 2), (30, 0)]
    (vecAfter (.vcompress 0 0) (packSt op 8 packWords)).map (fun v => (List.range 8).map fun e => groupRead v 2 16 e) =
      some [0x4040, 0x4020, 0x4080, 0x3FC0, 0, 0, 0, 0] := by decide +kernel

/-- VEXPAND with ZM scatters dense elements to the active positions, with zeros between. -/
theorem test_vexpand_example :
    let op := opw 0x4D [(52, 1), (48, 1), (44, 1), (43, 1), (40, 1), (35, 4), (30, 3)]
    (vecAfter (.vexpand 0 0) (packSt op 8 [(768, 0x40203F00), (769, 0x3FC04080)])).map (fun v => (List.range 8).map fun e => groupRead v 4 16 e) =
      some [0, 0x3F00, 0, 0x4020, 0, 0x4080, 0, 0x3FC0] := by decide +kernel

/-! ### The built-in tables -/

/-- The reference values of EXP, LOG, ERF and SIN are those of e, ln 2, erf 1 and sin 1 to FP32. -/
theorem test_rom_references :
    [(1, 0x3F800000), (3, 0x40000000), (14, 0x3F800000), (15, 0x3F800000)].map (fun q : Nat × Word =>
      ofOrd (ordFx (midIn fmtFP32 (romReal q.1 (fxOf (decodeVal 0 q.2.toNat)))))) = [0x402DF854, 0x3F317218, 0x3F57BB3D, 0x3F576AA4] := by decide +kernel

/-! ### Row statistics: the example after R251 -/

def partA : Partial := { Partial.fresh (.fin false 2 0) with n := 2, s1 := ⟨.fin false 2 0, pZero⟩, s2 := ⟨.fin false 4 0, pZero⟩ }
def partB : Partial := { Partial.fresh (.fin false 6 0) with n := 2, s1 := ⟨.fin false 2 0, pZero⟩, s2 := ⟨.fin false 4 0, pZero⟩ }

/-- The parts [2, 4] and [6, 8] merge to N 4, K 2, S1 12 and S2 56. -/
theorem test_rsmerge_example : (partA.merge partB).n = 4 ∧ encodeRne 0 (partA.merge partB).k = 0x40000000 ∧
    encodeRne 0 (partA.merge partB).s1.hi = 0x41400000 ∧ encodeRne 0 (partA.merge partB).s2.hi = 0x42600000 := by decide +kernel

/-- The row 2, 4, 6, 8 has mean 5, variance 5 and INVSTD 0x3EE4_F92E. -/
theorem test_rsfin_example : encodeRne 0 ((partA.merge partB).finish 0).mean = 0x40A00000 ∧
    encodeRne 0 ((partA.merge partB).finish 0).var = 0x40A00000 ∧ encodeRne 0 ((partA.merge partB).finish 0).invstd = 0x3EE4F92E := by
  decide +kernel

/-! ### Links: the example of the chapter on links -/

/-- The header of a MIRROR_WRITE of module 5 for module 9 through module 7, as module 7 reads it, and with STAGE 1 as it sends it on. -/
def mirrorHead (flags : Byte) : List Byte := [0x10, flags, 0x10, 0x00, 0x00, 0x09, 0x00, 0x05, 0x0C, 0xFF, 0xFF, 0x00, 1, 2, 3, 4]

theorem test_link_header : Msg.parse (mirrorHead 0) = ⟨0x10, 0, false, 9, 5, [0x0C, 0xFF, 0xFF], 0x01020304, []⟩ ∧
    Msg.parse (mirrorHead 0x40) = { Msg.parse (mirrorHead 0) with stage := 1 } ∧ be (mirrorHead 0) 2 2 = 4096 := by decide +kernel

end Sys2Proof.Tests
end

