-- ==== Sys2Proof/Tests/WitnessColl.lean ====
section
/-! SUPPORT. States and operands that meet the hypotheses of the statements about collectives and the shuffle. -/

namespace Sys2Proof.Tests

set_option Elab.async false

open Sys2Proof.Machine

/-- Tree 1: an all-reduce of FP32 over n shards, all children of shard 0. -/
def tree (n : Nat) : Tree := { id := 1, op := 0, fmt := 0, rmode := 0, nodes := (none, 0) :: List.replicate (n - 1) (some 0, 1) }

/-- A collective descriptor: 4 elements from vat 0 to vat 1, its word at 4 MiB. -/
def collDesc : BitVec 256 := dsc [(0, 8), (2, 1), (3, 0), (4, 1), (5, 1), (8, 128), (0xE, 256), (0x14, 4), (0x18, 4194304)]
def shufDesc : BitVec 256 := dsc [(0, 9), (4, 1), (8, 0), (0x10, 4194304), (0x18, 2)]

def collOp (oc : Nat) : Long := opw oc [(40, 1), (28, if oc = 0x52 then 1 else 0), (24, 0), (14, 7)]
def collSt (oc n : Nat) : State := st { img [collDesc, shufDesc] with trees := [tree n] } [ent 1 7 (collOp oc)]

theorem witness_CollectivesJoin : ∀ oc ∈ [0x50, 0x51], Fires (collSt oc 1) 0 7 oc ((collSt oc 1).collAccepts 0) (ent 1 7 (collOp oc)) ∧
    NoErrors (collSt oc 1) ∧ (∀ h ∈ (collSt oc 1).held, h.loader ≠ (0, 1)) ∧ ((collSt oc 1).core 0).part = some 0 ∧
    (collSt oc 1).treeOf 0 (getF (collOp oc) 55 40) = some (tree 1) := by
  simp only [List.forall_mem_cons]; unfold Fires NoErrors TierClean PhysUp; decide +kernel

/-- Without a map slot 0 holds shard 0. -/
theorem witness_ShardAt : (collSt 0x50 1).shardAt 0 0 = some 0 ∧ (collSt 0x52 1).shardAt 0 0 = some 0 := by decide +kernel

theorem witness_CollectivesPassTheirChecks :
    let s := collSt 0x50 1
    s.sideFault 0 (s.pagesOf 0) (s.side 0 1 0 128) 0 [0x14] [(0, 16)] = none ∧
      s.sideFault 0 (s.pagesOf 0) (s.side 0 1 1 256) 1 [0x14] [(0, State.dstElems 0 4 1 * 4)] = none ∧
      s.sideFault 0 (s.pagesOf 0) ⟨true, none, 4194304⟩ 1 [] [(0, 64)] = none := by decide +kernel

theorem witness_ShufflesJoin :
    let s := collSt 0x52 1
    (s.imgOf 0).isSome = true ∧ Fires s 0 7 0x52 (s.collAccepts 0) (ent 1 7 (collOp 0x52)) ∧
      s.sideFault 0 (s.pagesOf 0) ⟨true, none, 0⟩ 0 [] [(0, 256)] = none ∧
      s.sideFault 0 (s.pagesOf 0) ⟨true, none, 4194304⟩ 1 [] [(0, 256)] = none := by unfold Fires; decide +kernel

/-- Instance 7 of tree 1 at step 0 in partition 0. -/
def inst : InstId := ⟨0, 1, 7, 0⟩
def node (shard : Nat) (final : Option StatusW) (result : FMap Nat) (dst : List Span) : Node :=
  { shard := shard, core := 0, uid := 1, src := [0x3F800000], own := StatusW.zero, srcAt := [],
    dst := dst, vas := dst.map fun _ => some 0, terms := [], words := [], sent := false,
    result := result, final := final, owing := 0 }
def instance1 (kind : Nat) (n : Node) : CollInst := ⟨inst, kind, 0, 0, 1, 0, [n], 0, [], 0⟩
def collIn (shards : Nat) (x : CollInst) (tick : Long := 0) : State :=
  { st { img [collDesc, shufDesc] with trees := [tree shards] } [{ ent 1 7 (collOp 0x50) with phase := .fired }] with
    clusters := [(0, { Cluster.idle with coll := [x] })], tick := tick, weir := { State.reset.weir with windows := 1, reserve := 10 ^ 40 } }

/-- A collective message: elements to shard 0 from shard 1. -/
def collMsg (ty phase gen : Nat) : Msg :=
  ⟨BitVec.ofNat 8 ty, 0, false, 0, 1, [0xFF, 0xFF, 0xFF], BitVec.ofNat 32 (2 ^ 12 + 7 * 16 + phase),
   beBytes 4 0 ++ beBytes 4 (gen * 2 ^ 20 + 1) ++ beBytes 4 0 ++ beBytes 4 0 ++ [0, 0, 0x80, 0x3F]⟩
def arriving (m : Msg) : State := (collIn 2 (instance1 0 (node 0 none [] []))).modPort 15 fun x => { x with inbox := [m] }

theorem witness_StaleMessages : ((arriving (collMsg 1 0 3)).port 15).inbox = collMsg 1 0 3 :: [] ∧ State.isColl (collMsg 1 0 3) = true ∧
    (arriving (collMsg 1 0 3)).staleColl ((arriving (collMsg 1 0 3)).parseColl (collMsg 1 0 3)) = true ∧
    ((arriving (collMsg 1 0 3)).cl 7).restarting = false := by decide +kernel

/-- What the statement about messages asks of one that is for a local node. -/
def ForNode (m : Msg) : Prop :=
  ((arriving m).clusters.map (·.1)).Nodup ∧ (arriving m).staleColl ((arriving m).parseColl m) = false ∧ m.type ≠ 3 ∧
    (arriving m).collTarget m = some (0, instance1 0 (node 0 none [] []), node 0 none [] []) ∧ State.isColl m = true

theorem witness_CollectiveMessagesArrive : ForNode (collMsg 1 0 0) ∧ ForNode (collMsg 1 1 0) ∧ ForNode (collMsg 2 0 0) ∧ ForNode (collMsg 2 1 0) ∧
    ((arriving (collMsg 1 1 0)).parseColl (collMsg 1 1 0)).phase = 1 ∧ ((arriving (collMsg 1 0 0)).parseColl (collMsg 1 0 0)).phase = 0 := by
  unfold ForNode; decide +kernel

theorem witness_NodeCombine :
    let x := instance1 0 (node 0 none [] [])
    let s := collIn 1 x
    (s.cl 0).coll = x :: [] ∧ x.id = inst ∧ x.kind ≠ 2 ∧ x.nodes.find? (fun k => k.shard == 0) = some (node 0 none [] []) ∧
      s.treeOf inst.part inst.tree.toNat = some (tree 1) ∧ State.nodeReady x (tree 1) (node 0 none [] []) = true ∧
      ((tree 1).nodes.getD 0 (none, 0)).1 = none ∧ State.nodeReady x (tree 2) (node 0 none [] []) = false := by decide +kernel

/-- Shards 0 and 1 of a tree of two, both on this module: shard 1's node is ready and its parent, shard 0, has fired. -/
def leaf : Node := { node 1 none [] [] with uid := 2 }
def localPair : State :=
  collIn 2 { instance1 0 (node 0 none [] []) with nodes := [node 0 none [] [], leaf] }

theorem witness_NodeCombineToAParentHere :
    let x : CollInst := { instance1 0 (node 0 none [] []) with nodes := [node 0 none [] [], leaf] }
    Claims.ClustersOk localPair ∧ (localPair.cl 0).coll = x :: [] ∧ x.nodes.find? (fun k => k.shard == 1) = some leaf ∧
      localPair.treeOf inst.part inst.tree.toNat = some (tree 2) ∧ State.nodeReady x (tree 2) leaf = true ∧
      ((tree 2).nodes.getD 1 (none, 0)).1 = some 0 ∧ localPair.remoteHolder inst.part 0 = none ∧
      localPair.findNode inst 0 0 = some (0, x, node 0 none [] []) := by unfold Claims.ClustersOk; decide +kernel

/-- The same leaf before its parent's shard has fired. -/
theorem witness_NodeCombineBeforeItsParent :
    let s := collIn 2 (instance1 0 leaf)
    s.remoteHolder inst.part 0 = none ∧ s.findNode inst 0 0 = none ∧ State.nodeReady (instance1 0 leaf) (tree 2) leaf = true := by
  decide +kernel

/-- Module 1 holds shard 1 alone, the root is module 2's; the image has a route there. -/
def farParent : State :=
  let s := (collIn 2 (instance1 0 leaf)).setReg .lnkModule [] 0x10001
  let im : PartImg := { img [collDesc, shufDesc] with trees := [tree 2], links := [⟨2, 1, 0, 0, [0xFF, 0xFF, 0xFF]⟩] }
  let m : JobMap := { part := 0, relaxed := true, jobgen := 1, shards := 2, entries := [(0, ⟨2, 1, 3, 0, 4, 0, 2⟩), (1, ⟨1, 2, 3, 0, 4, 0, 2⟩)] }
  { s with parts := [(0, part im)], job := { s.job with maps := [(0, m)] } }

theorem witness_NodeCombineToAParentElsewhere :
    (farParent.cl 0).coll = instance1 0 leaf :: [] ∧ (instance1 0 leaf).nodes.find? (fun k => k.shard == 1) = some leaf ∧
      farParent.treeOf inst.part inst.tree.toNat = some (tree 2) ∧ State.nodeReady (instance1 0 leaf) (tree 2) leaf = true ∧
      ((tree 2).nodes.getD 1 (none, 0)).1 = some 0 ∧ farParent.remoteHolder inst.part 0 = some 2 ∧
      (farParent.routeOf inst.part 2 0).isSome = true := by decide +kernel

/-- Slot 0 holds shard 1 under that map, and slot 1 no shard. -/
theorem witness_SlotsOfNoShard : farParent.shardAt 0 0 = some 1 ∧ farParent.shardAt 0 1 = none := by decide +kernel

/-- COLL and COLL_STAT in a slot that holds no shard. -/
def noShard (oc : Nat) : State :=
  let s := (collSt oc 1).setReg .lnkModule [] 0x10001
  { s with job := { s.job with maps := [(0, { part := 0, relaxed := true, jobgen := 1, shards := 1, entries := [(0, ⟨2, 1, 3, 0, 4, 0, 2⟩)] })] } }

theorem witness_CollectivesOfNoShard : ∀ oc ∈ [0x50, 0x51], Fires (noShard oc) 0 7 oc ((noShard oc).collAccepts 0) (ent 1 7 (collOp oc)) ∧
    NoErrors (noShard oc) ∧ (noShard oc).shardAt 0 (getF (collOp oc) 27 24) = none ∧
    (noShard oc).treeOf 0 (getF (collOp oc) 55 40) = some (tree 1) ∧
    (noShard oc).sideFault 0 ((noShard oc).pagesOf 0) ⟨true, none, 4194304⟩ 1 [] [(0, 64)] = none := by
  simp only [List.forall_mem_cons]; unfold Fires NoErrors TierClean PhysUp; decide +kernel

theorem witness_NodeCombineIsAdmitted :
    let x := instance1 0 (node 0 none [] [])
    ((collIn 1 x).admitReserve 0 [⟨0x24, 0, 0xFF, (State.nodeResult x (tree 1) (node 0 none [] [])).1.length * 4, 1024⟩]).isSome = true := by
  decide +kernel

def spans : List Span := [⟨.vat 1, 256, 4⟩, ⟨.tier true, 18874368, 64⟩]

/-- What the statement about completion asks of the node. -/
def Completes (kind : Nat) (dst : List Span) (result : FMap Nat) : Prop :=
  let n := node 0 (some StatusW.zero) result dst
  let x := instance1 kind n
  let s := collIn 1 x
  NoErrors s ∧ NothingBound s 0 1 ∧ (s.cl 0).coll = x :: [] ∧ x.id = inst ∧ x.nodes = n :: [] ∧ s.canComplete x n = true ∧
    s.treeOf inst.part inst.tree.toNat = some (tree 1) ∧ n.final = some StatusW.zero ∧ n.dst = dst ∧ n.vas.length = dst.length ∧
    ((State.dstValues x (tree 1) n).flatMap fun v => leBytes 4 v).length = (if kind = 0 then 4 else 0)

theorem witness_CollInstanceComplete : Completes 0 spans [(0, 5)] ∧ (Place.vat 1 ≠ Place.tier true) := by
  unfold Completes NoErrors TierClean PhysUp NothingBound; decide +kernel

theorem witness_StatInstanceComplete : Completes 1 [⟨.tier true, 18874368, 64⟩] [] := by unfold Completes NoErrors TierClean PhysUp NothingBound; decide +kernel

theorem witness_ShuffleComplete :
    let n := node 0 none [] []
    let x := instance1 2 n
    let s := collIn 1 x
    NoErrors s ∧ NothingBound s 0 1 ∧ (s.cl 0).coll = x :: [] ∧ x.kind = 2 ∧ s.canComplete x n = true := by
  unfold NoErrors TierClean PhysUp NothingBound; decide +kernel

theorem witness_CollWatchdogExpiry :
    let x := instance1 0 (node 0 none [] [])
    (((collIn 1 x 3).tick - x.last).toNat < (collIn 1 x 3).watchLimit 0 x) ∧
    (let s := collIn 1 x 0xFFFFFFFFFF
     s.watchLimit 0 x ≤ (s.tick - x.last).toNat ∧ (s.entry? 0 1).isSome = true ∧ (s.core 0).part = some 0 ∧ s.isRunning 0 = true) := by
  decide +kernel

end Sys2Proof.Tests
end

