-- ==== Sys2Proof/Tests/WitnessHost.lean ====
section
/-! SUPPORT. States and operands that meet the hypotheses of the statements about the host side: sessions, registers, regions, queue pairs,
packets, loads and the job mailbox. -/

namespace Sys2Proof.Tests

set_option Elab.async false

open Sys2Proof.Machine

/-- A session of version 1.1 on the management port, and a command of it. -/
def session (admin : Bool) (version : Byte := 0x11) : Session :=
  { id := 5, admin := admin, ip := 9, port := if admin then 0 else 1, version := version, expect := 1, sendSeq := 1, unacked := [], history := [],
    held := [], running := [], queued := [], resends := 0, lost := 0 }
def hdr (admin : Bool) (version : Byte := 0x11) : CmdHdr :=
  { port := if admin then 0 else 1, ip := 9, version := version, session := 5, seq := 1, ackseq := 0, tag := 3 }

/-- The keeper is ready, host port 0 is up, and the session is open. -/
def open' (s : State) (admin : Bool := true) (version : Byte := 0x11) : State :=
  { (s.setRegF .keepStatus [] 0 0 1).setRegF .ethStatus [0] 0 0 1 with sessions := [session admin version] }
def hostSt : State := open' (st (img []) [])

theorem witness_MayRun : Claims.MayRun hostSt (hdr true 0x11) (session true 0x11) 0 := by
  refine ⟨?_, ?_, ?_, ?_, ?_, ?_, fun q h => absurd h (List.not_mem_nil), ?_, ?_, ?_⟩ <;> decide +kernel

theorem witness_MayRunImages : Claims.MayRun hostSt (hdr true 0x11) (session true 0x11) 1 := by
  refine ⟨?_, ?_, ?_, ?_, ?_, ?_, fun q h => absurd h (List.not_mem_nil), ?_, ?_, ?_⟩ <;> decide +kernel

theorem witness_MayRunJobs : Claims.MayRun hostSt (hdr true 0x11) (session true 0x11) 2 := by
  refine ⟨?_, ?_, ?_, ?_, ?_, ?_, fun q h => absurd h (List.not_mem_nil), ?_, ?_, ?_⟩ <;> decide +kernel

theorem witness_MayRunPartition : Claims.MayRun hostSt (hdr true 0x11) (session true 0x11) 0x10 := by
  refine ⟨?_, ?_, ?_, ?_, ?_, ?_, fun q h => absurd h (List.not_mem_nil), ?_, ?_, ?_⟩ <;> decide +kernel

theorem witness_MayRunMeter : Claims.MayRun hostSt (hdr true 0x11) (session true 0x11) 0x30 := by
  refine ⟨?_, ?_, ?_, ?_, ?_, ?_, fun q h => absurd h (List.not_mem_nil), ?_, ?_, ?_⟩ <;> decide +kernel

theorem witness_MayRunOnAHostPort : Claims.MayRun (open' (st (img []) []) false) (hdr false 0x11) (session false 0x11) 0 := by
  refine ⟨?_, ?_, ?_, ?_, ?_, ?_, fun q h => absurd h (List.not_mem_nil), ?_, ?_, ?_⟩ <;> decide +kernel

theorem witness_MayRunUnderVersion10 : Claims.MayRun (open' (st (img []) []) true 0x10) (hdr true 0x10) (session true 0x10) 0 := by
  refine ⟨?_, ?_, ?_, ?_, ?_, ?_, fun q h => absurd h (List.not_mem_nil), ?_, ?_, ?_⟩ <;> decide +kernel

theorem witness_RegistersAreReadAndWritten :
    decodeAddr (0x0A800108 : Word).toNat = some (.ethCtrl, [1]) ∧ hostSt.unreachable .ethCtrl [1] = false ∧ RegId.ethCtrl ∈ plainIds ∧
      RegId.ethCtrl.row.rc = 0 ∧ (session true).admin = true ∧ (session true).version = 0x11 ∧
      decodeAddr (RegId.lnkCtrl.row.addr [15]) = some (.lnkCtrl, [15]) ∧ RegId.lnkCtrl.row.addr [15] % 8 = 0 ∧
      hostSt.romOnly = false ∧
      ((hostSt.modXing (17 * 15 + 16) fun y => { y with selfReset := true }).unreachable .lnkCtrl [15] = true) := by decide +kernel

theorem witness_ReadableAddresses : Claims.Readable hostSt 0x0A800108 ∧ (0x0A800109 : Word).toNat % 8 ≠ 0 ∧
    (List.replicate 64 (0x0A800108 : Word)).length ≤ 64 := by
  unfold Claims.Readable
  exact ⟨⟨by decide +kernel, .ethCtrl, [1], by decide +kernel, by decide +kernel, by decide +kernel, by decide +kernel⟩, by decide +kernel, by decide +kernel⟩

/-- A queue pair of the session. -/
def qp (n : Nat) : Qp := ⟨n, 0, 5, false, 1024, 0, 0, 0, false⟩
def qpSt : State := { hostSt with qps := [qp 1, qp 2] }

theorem witness_QueuePairsOpenAndClose :
    hostSt.mapped128 0 < 128 ∧ hostSt.qps.length < 256 ∧ (2 : Byte).toNat ≤ 2 ∧ (1 : Byte).toNat < 2 ∧ 2 < (3 : Byte).toNat ∧ 2 ≤ (2 : Byte).toNat ∧
      (∃ q ∈ qpSt.qps, (q.qpn == (2 : BitVec 24).toNat && q.session == 5) = true) ∧
      ∀ q ∈ qpSt.qps, (q.qpn == (3 : BitVec 24).toNat && q.session == 5) = false := by decide +kernel

theorem witness_RegionsOpen :
    hostSt.pstate 0 ≠ 0 ∧ hostSt.pstate 0 ≠ 4 ∧ (0x200000 : Long).toNat + (64 : Long).toNat ≤ 2 ^ 48 ∧
      (hostSt.regions.filter fun r => r.part == some 0).length < 64 ∧ (hostSt.part 0).img = some (img []) ∧
      checkRuns pages 0 [(0x200000, 64)] = none ∧ checkRuns pages 1 [(0x200000, 64)] ≠ none ∧ checkRuns pages 1 [(0, 64)] = none := by decide +kernel

def region (p : Option Nat) (w : Bool) : Region := ⟨6, p, 0, 4096, true, w, 5⟩

theorem witness_RegionsClose : ∃ r ∈ ({ hostSt with regions := [region (some 0) true] } : State).regions, r.rkey = 6 ∧ r.part = some 0 := by decide +kernel

theorem witness_GatesArePosted :
    (63 : Byte).toNat ≤ 63 ∧ hostSt.pstate 3 = 0 ∧ (hostSt.setPstate 0 4).pstate 0 = 4 ∧
      (let s := { hostSt with gatePosts := [⟨0, 63, 7, 5, 1⟩] }
       (∀ x ∈ s.sessions, x.queued = []) ∧ s.gatePosts.find? (fun x => x.part == 0 && x.gate == 63) = some ⟨0, 63, 7, 5, 1⟩) := by decide +kernel

theorem witness_PartitionsAreCommanded :
    hostSt.committing 0 = false ∧ hostSt.isRunning 0 = true ∧ (hostSt.core 0).part = some 0 ∧ (hostSt.core 0).halted = false ∧
      ((hostSt.setPstate 0 3).part 0).halting = false ∧ hostSt.jobState ≤ 1 ∧
      (hostSt.setPstate 0 3).committing 0 = false ∧ (hostSt.setPstate 0 3).pstate 0 = 3 ∧ (hostSt.setPstate 0 4).committing 0 = true := by decide +kernel

theorem witness_CountersAreRead :
    hostSt.itemReg 0 (img []) ⟨0, 0, 7⟩ = some (.pmcCnt, cix 0 ++ [7]) ∧ hostSt.unreachable .pmcCnt (cix 0 ++ [7]) = false ∧
      ({ hostSt with off := [0] } : State).unreachable .pmcCnt (cix 0 ++ [7]) = true ∧
      hostSt.itemReg 0 (img []) ⟨0, 0, 8⟩ = none := by decide +kernel

/-- Record 9 of the meter stands in buffer 1. -/
def record9 : List Byte := fill 24 0 ++ leBytes 8 9 ++ fill 32 0
def meterSt : State := { hostSt with meter := { hostSt.meter with records := [(1, record9)], latest := 1 } }

theorem witness_MeterRecords : meterSt.meter.records.find? (fun q => q.1 == meterSt.meter.latest) = some (1, record9) ∧
    meterSt.meter.records.find? (fun q => le q.2 0x18 8 == (9 : Long).toNat) = some (1, record9) ∧ (63 : Word).toNat < record9.length := by decide +kernel

theorem witness_SessionsOpen :
    hostSt.frameIn 0 = true ∧ hostSt.ready = true ∧ (4 : Byte).toNat % 4 = 0 ∧ (1 : Byte).toNat % 4 ≠ 0 ∧ hostSt.sessions.length < 8 ∧
      hostSt.keeper.held = [] ∧ 8 ≤ ({ hostSt with sessions := List.replicate 8 (session true) } : State).sessions.length := by decide +kernel

theorem witness_SessionsClose :
    hostSt.frameIn (hdr true).port = true ∧ hostSt.sessOf (hdr true) = some (session true) ∧ (st (img []) []).sessOf (hdr true) = none ∧
      (session true).lost = 0 ∧ (∀ y ∈ hostSt.sessions, y.id = (session true).id → y = session true) ∧ hostSt.sess? 5 = some (session true) ∧
      hostSt.sess? 6 = none ∧ (session true).unacked = [] ∧ NoErrors hostSt := by unfold NoErrors TierClean PhysUp; decide +kernel

theorem witness_FramesAreSentAgain :
    let f : CtlFrame := ⟨2, 1, 0, 0, 0, [], 0⟩
    ({ session true with unacked := [f], resends := 9 } : Session).unacked ≠ [] ∧ ({ session true with unacked := [f], resends := 9 } : Session).resends < 10 ∧
      10 ≤ ({ session true with unacked := [f], resends := 10 } : Session).resends := by decide +kernel

/-- The bytes of an IDENT command. -/
def identFrame : List Byte := beBytes 2 0x4743 ++ [0x11, 1] ++ beBytes 4 5 ++ beBytes 4 1 ++ beBytes 4 0 ++ [0, 0] ++ beBytes 2 1 ++ beBytes 4 3 ++ fill 8 0

theorem witness_PacketsOfTheHostPorts :
    identFrame.length = 32 ∧ be identFrame 0 2 = 0x4743 ∧ be identFrame 3 1 = 1 ∧ be identFrame 0x18 2 = 0 ∧ identFrame.getD 0x10 0 = 0 ∧
      be identFrame 0x12 2 = 1 ∧ hostSt.frameIn 0 = true ∧ hostSt.frameIn 1 = true ∧ hostSt.frameIn 2 = false ∧ hostSt.ownAddr 1 0 = false ∧ (4094 : BitVec 12) ≠ 0 ∧ (4094 : BitVec 12) ≠ 4095 := by
  decide +kernel

def rdmaSt (w : Bool) : State := { qpSt with regions := [region none w] }

theorem witness_RdmaReachesTheStagingArea :
    (rdmaSt true).frameIn 1 = true ∧ (rdmaSt true).liveQp 0 2 = some (qp 2) ∧ (rdmaSt true).liveQp 0 3 = none ∧ NoErrors (rdmaSt true) ∧
      (rdmaSt true).regionFor 6 4092 4 true = some (region none true) ∧ (rdmaSt true).regionFor 6 4092 4 false = some (region none true) ∧
      (region none true).part = none ∧ (rdmaSt true).regionFor 6 4093 4 true = none ∧ (rdmaSt false).regionFor 6 0 4 true = none := by
  unfold NoErrors TierClean PhysUp; decide +kernel

theorem witness_HostPortLinks :
    hostSt.regF .ethStatus [0] 0 0 = 1 ∧ hostSt.regF .ethStatus [1] 0 0 = 0 ∧ (hostSt.setRegF .ethCtrl [1] 0 0 1).regF .ethCtrl [1] 0 0 = 1 := by
  decide +kernel

/-! ### Loads and resets -/

theorem witness_ImageLoadIsTaken :
    hostSt.load = none ∧ hostSt.regF .lifeStatus [] 3 3 = 0 ∧ 9 ≤ hostSt.bootStep ∧ (64 : Long).toNat % 64 = 0 ∧
      (64 : Long).toNat + (1073741824 : Long).toNat ≤ stagingLen ∧ (63 : Long).toNat % 64 ≠ 0 := by decide +kernel

def image : Image := { scopePart := some 0, buildId := 0x77, hdr := ⟨[], 0, 0, 0, 0⟩, parts := [(0, img [])] }
def loadOf (im : Option Image) (placed : Bool) : Load :=
  { off := 0, len := 4096, halt := false, session := 5, seq := 1, image := im, targets := [0], stopped := [], placed := placed, old := [],
    oldHdr := none, oldPlace := [], oldBuild := [] }
/-- A load in progress in an IMG_STATE, partition 0 in a state. -/
def loadSt (im : Option Image) (placed : Bool) (state pst : Nat) : State :=
  { (hostSt.setRegF .keepImgStatus [] 55 52 state).setPstate 0 pst with load := some (loadOf im placed), cores := [(0, { Core.idle with part := some 0 })] }

theorem witness_ImagesAreLoaded :
    (∀ x ∈ (loadSt none false 1 1).sessions, x.queued = []) ∧ (loadSt none false 1 1).load = some (loadOf none false) ∧
      (loadSt none false 1 1).regF .keepImgStatus [] 55 52 = 1 ∧ (loadSt none false 4 1).regF .keepImgStatus [] 55 52 = 4 ∧
      (loadSt none false 4 1).anyRestart = false ∧ (image.parts.map (·.1)).Nodup ∧ (∀ q ∈ image.parts, q.1 < 16) ∧
      (∀ p ∈ (loadOf (some image) false).targets, (loadSt (some image) false 2 3).stopped p = true) ∧
      (loadSt (some image) false 2 3).loadShort image = none ∧ (loadSt (some image) false 2 3).regF .keepImgStatus [] 55 52 ≠ 4 ∧
      (loadSt (some image) true 3 4).anyRestart = false ∧ (loadOf (some image) true).placed = true := by decide +kernel

def resetOf' (placed : Bool) : Reset := ⟨0, none, none, placed⟩
def resetSt (placed : Bool) (pst : Nat) : State :=
  { hostSt.setPstate 0 pst with resets := [resetOf' placed], cores := [(0, { Core.idle with part := some 0 })] }

theorem witness_ImagesAreCommitted : NoErrors (loadSt (some image) false 2 3) ∧ NoErrors (resetSt false 3) := by
  unfold NoErrors TierClean PhysUp; decide +kernel


/-- A commit whose partition would hold common 0 while a directed test runs there; every other domain is off already. -/
theorem witness_CommitsAndTests :
    hostSt.bist.todo = [] ∧
      (let s := { loadSt (some image) false 2 3 with bist := { hostSt.bist with todo := [3], target := 128 }, off := List.range 154 }
       (s.commitLoad (loadOf (some image) false) image).testTaken = true ∧ s.loadShort image = none) := by decide +kernel

theorem witness_ResetsGoOn :
    (resetSt false 3).load = none ∧ (resetSt false 3).anyRestart = false ∧ ((resetSt false 3).part 0).img = some (img []) ∧
      (resetSt false 3).stopped 0 = true ∧ (resetSt false 3).allPlaced (img []) = true ∧ (resetOf' true).placed = true := by decide +kernel

/-! ### The job mailbox -/

def entryOf' (holder partner ckpt : Half) : MapEntry := ⟨holder, partner, ckpt, 0, 0, 0, 0⟩

theorem witness_JobMapIsReceived :
    (1 : Nat) ≤ (69 : Half).toNat ∧ (69 : Half).toNat ≤ 69 ∧ (List.replicate 69 (entryOf' 1 2 3)).length = (69 : Half).toNat ∧ (15 : Byte).toNat ≤ 15 ∧
      (0xFFFBB : Word).toNat + (69 : Half).toNat ≤ (0x100000 : Word).toNat ∧ (∀ e ∈ List.replicate 69 (entryOf' 1 2 3), e.slot.toNat ≤ 15) ∧
      69 < (70 : Half).toNat := by decide +kernel

/-- A whole received map of one shard that module 1, this one, holds, with modules 2 and 3 heard. -/
def jobSt (gen : Word) : State :=
  { hostSt.setReg .lnkModule [] 0x10001 with
    hdr := some ⟨[], 0, 0, 0, 1⟩, parts := [(0, part (img [dsc [(0, 13), (1, 0), (0x10, 4096)]]))],
    job := { hostSt.job with
      peers := [(2, State.noPeer), (3, State.noPeer)],
      received := [(0, { part := 0, relaxed := true, jobgen := gen, shards := 1, entries := [(0, entryOf' 1 2 3)] })] } }

theorem witness_JobCommit : (jobSt 1).commitReason 0 1 = 0 ∧ (jobSt 1).commitReason 0 2 ≠ 0 := by decide +kernel

theorem witness_JobStoreAndResume :
    (∃ q ∈ qpSt.qps, q.qpn = (2 : BitVec 24).toNat) ∧ qpSt.pstate 0 ≠ 0 ∧ (hostSt.setRegF .jobStatus [] 27 24 7).regF .jobStatus [] 27 24 = 7 ∧
      ((hostSt.setRegF .jobStatus [] 27 24 3).setRegF .jobStatus [] 31 28 1).jobState = 3 ∧
      ((hostSt.setRegF .jobStatus [] 27 24 3).setRegF .jobStatus [] 31 28 1).role = 1 ∧
      (hostSt.setRegF .jobStatus [] 27 24 1).regF .jobStatus [] 27 24 = 1 ∧ hostSt.job.remapped = false ∧
      ({ hostSt with job := { hostSt.job with remapped := true } } : State).job.remapped = true := by decide +kernel

end Sys2Proof.Tests
end

