-- ==== Sys2Proof/Tests/WitnessJob.lean ====
section
/-! SUPPORT. States and operands that meet the hypotheses of the statements about copies of shards, heartbeats and restores. -/

namespace Sys2Proof.Tests

set_option Elab.async false

open Sys2Proof.Machine

/-- A SAVE descriptor: slot 0, 16 bytes at 0, the whole of its slot. -/
def saveD : BitVec 256 := dsc [(0, 13), (1, 0), (2, 0), (3, 1), (8, 0), (0x10, 16), (0x18, 0)]
def saveOp (dest : Nat) : Long := opw 0x78 [(44, 0), (42, dest)]
def mapE (holder partner ckpt : Half) : MapEntry := ⟨holder, partner, ckpt, 0, 4, 0, 2⟩

/-- An image with the descriptor and routes to modules 2 and 3 in every class. -/
def jobImg : PartImg :=
  { img [saveD] with links := [2, 3].flatMap fun d => [0, 1, 3].map fun c => ⟨d, 1, c, 0, [0xFF, 0xFF, 0xFF]⟩ }

/-- This module has number 1; shard 0 is held as an entry says. -/
def job (e : MapEntry) (es : List Entry) : State :=
  { (st jobImg es).setReg .lnkModule [] 0x10001 with
    hdr := some ⟨[], 0, 0, 0, 1⟩,
    job := { State.reset.job with maps := [(0, { part := 0, relaxed := true, jobgen := 1, shards := 1, entries := [(0, e)] })] } }
def saving (dest : Nat) : State := job (mapE 1 2 3) [ent 1 5 (saveOp dest)]

/-- What the statement about SAVE asks of a state. -/
def Saves (s : State) (dest : Nat) : Prop :=
  NoErrors s ∧ (s.core 0).part = some 0 ∧ s.oldestReady 0 5 (s.strmAccepts 0) = some (ent 1 5 (saveOp dest)) ∧
    (ent 1 5 (saveOp dest)).opcode = 0x78 ∧ getF (saveOp dest) 43 42 = dest ∧ s.sideFault 0 (s.pagesOf 0) ⟨true, none, 0⟩ 0 [] [(0, 16)] = none ∧
    ∀ w ∈ s.saves, ¬ (w.core = 0 ∧ w.uid = 1)

theorem witness_SavesOfNoShard : Saves (job (mapE 2 1 3) [ent 1 5 (saveOp 0)]) 0 ∧ (job (mapE 2 1 3) [ent 1 5 (saveOp 0)]).slotShard 0 0 = none := by
  unfold Saves NoErrors TierClean PhysUp; decide +kernel

theorem witness_MirrorSaves : Saves (saving 0) 0 ∧ (saving 0).slotShard 0 0 = some (0, mapE 1 2 3) := by unfold Saves NoErrors TierClean PhysUp; decide +kernel

theorem witness_MirrorGates :
    State.gateReached (saving 0).commitM (0 - 1) = true ∧ ((saving 0).setReg .jobCommits [] 0xFFFFFFFE00000000).commitM = 0xFFFFFFFE ∧
      State.gateReached (0xFFFFFFFE : Word) (0 - 1) = false ∧ (saving 0).entryOf 0 0 = some (mapE 1 2 3) ∧
      ((saving 0).routeOf 0 2 1).isSome = true ∧ (saving 0).saveStopped = false ∧ Claims.bytesIn (saving 0) ((⟨true, none, 0⟩ : Side).pieces pages 0 [(0, 16)]) ≠ [] := by
  decide +kernel

theorem witness_CartridgeSaves : Saves (saving 1) 1 ∧ ((saving 1).routeOf 0 3 3).isSome = true ∧ (saving 1).saveStopped = false := by unfold Saves NoErrors TierClean PhysUp; decide +kernel

def storing : State :=
  { (saving 2).modPart 0 fun x => { x with store := some ⟨1, 7, 4096, 65536⟩ } with qps := [⟨1, 0, 5, false, 1024, 0, 0, 0, false⟩] }

theorem witness_StoreSaves : Saves storing 2 ∧ (storing.part 0).store = some ⟨1, 7, 4096, 65536⟩ ∧ storing.qpWorks 1 = true ∧ storing.saveStopped = false := by
  unfold Saves NoErrors TierClean PhysUp; decide +kernel

/-- A store SAVE whose extent, or whose trailer, waits for its acknowledgement. -/
def storeSave (trailer : Bool) : Save := ⟨0, 0, 1, 2, 5, 0, 0, 0, [], trailer, 0, some ⟨1, 7, 65520, 0, 1⟩⟩
def storeWaits (trailer : Bool) : State :=
  { storing.setRegF .ethStatus [0] 0 0 1 with saves := [storeSave trailer] }

theorem witness_StoreSavesAreAcknowledged : (storeWaits false).frameIn 1 = true ∧ ((storeWaits false).liveQp 0 1).isSome = true ∧
    (storeWaits false).savesOn 1 = storeSave false :: [] ∧ (storeSave false).gated = false ∧
    (storeWaits true).savesOn 1 = storeSave true :: [] ∧ (storeSave true).gated = true ∧ (storeSave true).store = some ⟨1, 7, 65520, 0, 1⟩ := by
  decide +kernel

def gatedSave : Save := ⟨0, 0, 1, 0, 5, 0, 0, 0, fill 16 7, true, 0, none⟩
def gated (commits : Long) : State := { (job (mapE 1 2 3) []).setReg .jobCommits [] commits with saves := [gatedSave] }

theorem witness_MirrorGateReadsItsExtent :
    let e := { ent 1 5 (saveOp 0) with phase := .fired }
    let s := { job (mapE 1 2 3) [e] with saves := [gatedSave] }
    NoErrors s ∧ s.entry? 0 1 = some e ∧ State.gateReached s.commitM (gatedSave.step - 1) = false := by
  unfold NoErrors TierClean PhysUp; decide +kernel

theorem witness_MirrorGateOpens :
    (gated 0).saves.find? (fun w => decide (w.core = 0 ∧ w.uid = 1) && w.dest == 0 && w.gated) = some gatedSave ∧
      State.gateReached (gated 0).commitM (gatedSave.step - 1) = false ∧
      State.gateReached (gated 0x400000000).commitM (gatedSave.step - 1) = true ∧
      (gated 0x400000000).entryOf 0 0 = some (mapE 1 2 3) := by decide +kernel

/-! ### Messages with shards -/

/-- A message of a type and phase for shard 0 at step 5, from module 2. -/
def shardMsg (ty phase gen : Nat) (data : List Byte) : Msg :=
  ⟨BitVec.ofNat 8 ty, 0, false, 1, 2, [0xFF, 0xFF, 0xFF], BitVec.ofNat 32 phase, beBytes 4 (gen * 2 ^ 20) ++ beBytes 4 5 ++ beBytes 8 0 ++ data⟩
def receiving (e : MapEntry) (m : Msg) : State := (job e []).modPort 15 fun x => { x with inbox := [m] }

theorem witness_OldShardMessages : ∀ ty ∈ [0x10, 0x11, 0x20], ((receiving (mapE 2 1 3) (shardMsg ty 0 7 [])).port 15).inbox = shardMsg ty 0 7 [] :: [] ∧
    (State.parseSave (shardMsg ty 0 7 [])).gen ≠ (receiving (mapE 2 1 3) (shardMsg ty 0 7 [])).collGen := by
  simp only [List.forall_mem_cons]; decide +kernel

theorem witness_MirrorDataIsWritten :
    let m := shardMsg 0x10 0 0 (fill 16 7)
    let s := receiving (mapE 2 1 3) m
    NoErrors s ∧ m.type = 0x10 ∧ (State.parseSave m).gen = s.collGen ∧ s.entryOf 0 0 = some (mapE 2 1 3) ∧ (mapE 2 1 3).partner = s.moduleIx ∧
      (State.parseSave m).off + (State.parseSave m).data.length ≤ s.areaLen 0 0 := by unfold NoErrors TierClean PhysUp; decide +kernel

theorem witness_MirrorIsServed :
    let m := shardMsg 0x11 1 0 (beBytes 8 16)
    let s := { receiving (mapE 1 2 3) m with job := { (receiving (mapE 1 2 3) m).job with bufs := [⟨0, 0, true, 4096, 2097152, 5, 16, true⟩] } }
    m.type = 0x11 ∧ (State.parseSave m).phase = 1 ∧ s.localBuf 0 0 5 = some ⟨0, 0, true, 4096, 2097152, 5, 16, true⟩ ∧
      (State.parseSave m).off + be (State.parseSave m).data 0 8 ≤ 2097152 ∧ (s.routeOf 0 2 1).isSome = true := by decide +kernel

theorem witness_CheckpointsAreWritten :
    let m := shardMsg 0x20 8 0 (fill 16 7)
    let s := (receiving (mapE 2 3 1) m).setRegF .cartStatus [] 2 0 3
    NoErrors s ∧ m.type = 0x20 ∧ (State.parseSave m).phase = 8 ∧ (State.parseSave m).pin = false ∧ s.entryOf 0 0 = some (mapE 2 3 1) ∧
      (mapE 2 3 1).ckpt = s.moduleIx ∧ s.cartState = 3 ∧ (State.parseSave m).off + 16 ≤ s.areaLen 0 0 ∧ s.ckUnit 0 (mapE 2 3 1) 3 ≤ State.cartUnits ∧
      (s.routeOf 0 2 3).isSome = true ∧ (State.parseSave (shardMsg 0x20 0 0 (fill 16 7))).phase < 8 := by unfold NoErrors TierClean PhysUp; decide +kernel

/-! ### Heartbeats -/

/-- The module is ready in a role, its coordinator is module 2, and a tick count. -/
def beatSt (role : Nat) (tick : Long) (coord : Option Nat) : State :=
  let s := (((job (mapE 1 2 3) []).setRegF .keepStatus [] 0 0 1).setRegF .jobStatus [] 31 28 role).setRegF .jobHb [] 31 0 1000
  { s with tick := tick, job := { s.job with coord := coord, hbPeriod := 1000 } }

theorem witness_HeartbeatsAreSent : (beatSt 0 0 (some 2)).ready = true ∧ (beatSt 0 0 (some 2)).role ≠ 1 ∧ 2 ∈ (beatSt 0 0 (some 2)).beatTargets ∧
    ((beatSt 0 0 (some 2)).anyRoute 2 0).isSome = true := by decide +kernel

/-- A heartbeat of module 2 as coordinator with generation 9. -/
def beatMsg : Msg := ⟨0x31, 0, false, 1, 2, [0xFF, 0xFF, 0xFF], 0, beBytes 4 8 ++ beBytes 4 9 ++ [1, 1] ++ fill 26 0 ++ fill 24 0xFF ++ beBytes 4 0⟩

theorem witness_HeartbeatsAreHeard :
    let s := (beatSt 0 5 (some 2)).modPort 15 fun x => { x with inbox := [beatMsg] }
    (s.port 15).inbox = beatMsg :: [] ∧ beatMsg.mtype = 0x31 ∧ s.job.maps ≠ [] ∧ be beatMsg.data 8 1 = 1 ∧ s.genNow.toNat < be beatMsg.data 4 4 ∧
      s.me ∉ State.lostOf beatMsg.data ∧ s.regF .jobStatus [] 27 24 ≠ 7 ∧ s.regF .jobStatus [] 27 24 ≠ 8 := by decide +kernel

theorem witness_SilenceIsMeasured :
    (beatSt 1 2999 none).silence ((beatSt 1 2999 none).peer 2).heard < 3 * (beatSt 1 2999 none).period ∧
    3 * (beatSt 1 3000 none).period ≤ (beatSt 1 3000 none).silence ((beatSt 1 3000 none).peer 2).heard ∧ (beatSt 1 3000 none).role = 1 ∧
    2 ∈ State.modulesOf (beatSt 1 3000 none).job.maps ∧ 2 ∉ (beatSt 1 3000 none).job.lost ∧ 2 ≠ (beatSt 1 3000 none).me ∧
    (beatSt 2 3000 (some 2)).job.coord = some 2 ∧ (beatSt 2 3000 (some 2)).role = 2 := by decide +kernel

theorem witness_OrphansAreKnown :
    (beatSt 0 9999 (some 2)).silence (beatSt 0 9999 (some 2)).job.role1 < 10 * (beatSt 0 9999 (some 2)).period ∧
    10 * (beatSt 0 10000 (some 2)).period ≤ (beatSt 0 10000 (some 2)).silence (beatSt 0 10000 (some 2)).job.role1 ∧
    (beatSt 0 10000 (some 2)).job.maps ≠ [] ∧ (beatSt 0 10000 (some 2)).regF .jobStatus [] 27 24 ≠ 7 ∧
    (beatSt 0 10000 (some 2)).regF .jobStatus [] 27 24 ≠ 8 := by decide +kernel

/-- Shard 0 is being loaded from its mirror, with bytes that have come. -/
def restoring (got : Nat) : State :=
  let s := (beatSt 0 0 (some 2)).setRegF .jobStatus [] 27 24 4
  { s with job := { s.job with resume := some 5, loads := [(State.loadKey 0 0, (2, got))] } }

theorem witness_ShardsAreRestored :
    (restoring 15).ready = true ∧ (restoring 15).job.resume = some 5 ∧ (restoring 15).entryOf 0 0 = some (mapE 1 2 3) ∧
      (restoring 15).regF .jobStatus [] 27 24 = 4 ∧ (restoring 15).job.loads = (State.loadKey 0 0, (2, 15)) :: [] ∧ (restoring 15).role ≠ 1 ∧
      15 < (restoring 15).slotBytes 0 0 ∧ (restoring 16).slotBytes 0 0 ≤ 16 := by decide +kernel

end Sys2Proof.Tests
end

