-- ==== Sys2Proof/Tests/WitnessLink.lean ====
section
/-! SUPPORT. States and operands that meet the hypotheses of the statements about the link ports. -/

namespace Sys2Proof.Tests

set_option Elab.async false

open Sys2Proof.Machine

/-- Port 15, powered, in a link state, at a version, with pairs in use. -/
def linkSt (state version pairs : Nat) (f : Port → Port := id) : State :=
  ((((st (img []) []).setLinkState 15 state).setWidth 15 version pairs).modPort 15 fun x => { x with powered := true }).modPort 15 f

theorem witness_PortsAreControlled :
    (linkSt 0 0 0).unreachable .lnkCtrl [15] = false ∧ (linkSt 0 0 0).linkState 15 = 0 ∧ (linkSt 4 3 15).linkState 15 = 4 ∧
      (linkSt 4 3 15).unreachable .lnkCtrl [15] = false ∧ (linkSt 5 3 15).linkState 15 ≠ 4 ∧ (1 : BitVec 3) ≠ 0 ∧
      Claims.FlitsPass (linkSt 4 3 15) 15 ∧ (linkSt 4 3 15).romOnly = false ∧ (State.reset.port 15).powered = false ∧
      Claims.FlitsPass State.reset 15 ∧ State.reset.romOnly = false ∧ (State.reset.setRegF .lifeStatus [] 33 32 2).romOnly = true := by
  unfold Claims.FlitsPass; decide +kernel

/-- A message in transit from port 14 that can leave by port 15 alone. -/
def passing : State := { linkSt 4 3 15 with waiting := [⟨⟨1, 0, false, 0, 1, [0xFF, 0xFF, 0xFF], 0, []⟩, 0x8000, some 14, .plain⟩] }

theorem witness_MessagesInTransitAreDropped : Claims.NoTransit 15 (linkSt 4 3 15) ∧ (Claims.transit 15 14 passing).length = 1 ∧
    passing.linkState 15 = 4 ∧ passing.unreachable .lnkCtrl [15] = false := by
  refine ⟨fun q _ => rfl, ?_, ?_, ?_⟩ <;> decide +kernel

/-- A VC allocation of four unit counts. -/
def allocWord (a b c d : Nat) : Long := BitVec.ofNat 64 (a * 2 ^ 48 + b * 2 ^ 32 + c * 2 ^ 16 + d)
def units (v : Long) : List Nat := [getF v 63 48, getF v 47 32, getF v 31 16, getF v 15 0]

theorem witness_AllocationsAreBounded :
    (linkSt 0 0 0).unreachable .lnkVcAlloc [15] = false ∧ (units (allocWord 10125 17 17 17)).sum ≤ 10176 ∧
      (∀ u ∈ units (allocWord 10125 17 17 17), 17 ≤ u) ∧ 10176 < (units (allocWord 10126 17 17 17)).sum ∧
      ∃ u ∈ units (allocWord 17 17 17 16), u < 17 := by decide +kernel

theorem witness_PortInReset :
    let s := (linkSt 0 0 0).modXing (17 * 15 + 16) fun y => { y with selfReset := true }
    s.unreachable .lnkCtrl [15] = true ∧ ¬ Claims.FlitsPass s 15 := by unfold Claims.FlitsPass; decide +kernel

def offer (device : Long) (vset : BitVec 3) (pairs : BitVec 4) : Offer :=
  { vset := vset, feat := 0, port := 0, pairs := pairs, module := 0, moduleValid := false, feedA := 0, feedB := 0, device := device, alloc := [] }

theorem witness_LanesAndTimeoutsMoveThePort :
    (linkSt 1 0 0).linkState 15 = 1 ∧ (linkSt 2 0 0).linkState 15 ≠ 1 ∧ (linkSt 2 0 0).linkState 15 = 2 ∧
    (let s := linkSt 5 3 15 fun x => { x with offer := some (offer 7 7 15), replay := [(3, [1])] }
     s.linkState 15 = 5 ∧ (s.port 15).offer = some (offer 7 7 15) ∧ Claims.FlitsPass s 15 ∧ Claims.pairsLeft s 15 = [0, 1, 2, 3]) ∧
    (linkSt 4 3 15).linkState 15 = 4 ∧ (linkSt 4 3 15).regF .lnkLane [15] 23 23 = 1 ∧
    2 ≤ pairCount ((linkSt 2 0 0 fun x => { x with trained := 5 }).port 15).trained.toNat ∧
    pairCount ((linkSt 2 0 0 fun x => { x with trained := 4 }).port 15).trained.toNat < 2 ∧
    (linkSt 3 0 0).linkState 15 = 3 ∧ ((linkSt 3 0 0).port 15).offer = none := by unfold Claims.FlitsPass; decide +kernel

/-- RETRAIN with a lane of each listed pair over its error limit. -/
def retraining (bad : Byte) (o : Option Offer) : State := linkSt 5 3 15 fun x => { x with badLanes := bad, offer := o, device := 7 }

theorem witness_RetrainEnds :
    Claims.pairsLeft (retraining 1 none) 15 = [1, 2, 3] ∧ Claims.pairsLeft (retraining 0b010101 none) 15 = [3] ∧
      ([1, 2, 3].filter fun j => (15 : BitVec 4).getLsbD j && (((some (offer 7 7 3)).map fun o => o.pairs.getLsbD j).getD false)) = [1] ∧
      ([1, 2, 3].filter fun j => (15 : BitVec 4).getLsbD j && (((some (offer 7 7 14)).map fun o => o.pairs.getLsbD j).getD false)) = [1, 2, 3] := by
  decide +kernel

theorem witness_RetrainHearsThePartner :
    (retraining 0 none).linkState 15 = 5 ∧ Claims.FlitsPass (retraining 0 none) 15 ∧ ((retraining 0 none).port 15).device = 7 := by
  unfold Claims.FlitsPass; decide +kernel

/-- NEGOTIATE with the partner's offer kept and n flits sent after it. -/
def negotiating (o : Offer) (trained : BitVec 4) (n : Nat) : State :=
  linkSt 3 0 0 fun x => { x with offer := some o, trained := trained, sentAfter := n, vset := 7 }

def common (s : State) (o : Offer) : Nat := ((s.port 15).trained &&& o.pairs).toNat

theorem witness_NegotiationEnds :
    (let s := negotiating (offer 7 7 15) 15 3
     s.linkState 15 = 3 ∧ (s.port 15).offer = some (offer 7 7 15) ∧ versionOf (s.port 15).vset 7 ≠ 0 ∧ 2 ≤ common s (offer 7 7 15)) ∧
    (let s := negotiating (offer 7 7 1) 15 3
     versionOf (s.port 15).vset 7 ≠ 0 ∧ common s (offer 7 7 1) = 1 ∧ pairCount (common s (offer 7 7 1)) < 2) ∧
    (let s := negotiating (offer 7 0 15) 15 3
     versionOf (s.port 15).vset 0 = 0 ∧ (s.port 15).sentAfter = 3) ∧
    ((negotiating (offer 7 7 15) 15 2).port 15).sentAfter < 3 := by decide +kernel

/-- A flit of a type and sequence number, with its acknowledgement and credit fields. -/
def flit (ft seq ack cred : Nat) (payload : List Byte) : List Byte := flitOf (beBytes 2 (seq * 16 + ft) ++ beBytes 2 ack ++ beBytes 2 cred) payload

theorem flit_intact (ft seq ack cred : Nat) (payload : List Byte) : flitIntact true (flit ft seq ack cred payload) = true :=
  flitOf_intact _ _ (by simp)

theorem witness_TrainFlitsAreReceived : ftype (flit 2 0 0 0 (fill 9 0 ++ beBytes 8 7)) = 2 ∧
    (Offer.parse (((flit 2 0 0 0 (fill 9 0 ++ beBytes 8 7)).drop 6).take 242)).device = 7 := by decide +kernel

theorem witness_TrainFlitOfThePartner :
    ((linkSt 4 3 15 fun x => { x with device := 7 }).port 15).device = 7 ∧ (linkSt 4 3 15 fun x => { x with device := 7 }).linkState 15 = 4 := by
  decide +kernel

/-- A PACE message for this neighbour. -/
def paceMsg : Msg := ⟨0x30, 0, true, 0, 0, [0xFF, 0xFF, 0xFF], 0, [1, 0, 0, 9]⟩

theorem witness_DataFlitIsTaken :
    let f := flit 0 4095 0 0 paceMsg.bytes
    let s := linkSt 4 3 15 fun x => { x with rxNext := 4095 }
    s.linkState 15 = 4 ∧ ftype f = 0 ∧ be f 0 2 / 16 = (s.port 15).rxNext ∧ (s.port 15).rxBytes = [] ∧
      (f.drop 6).take 242 = paceMsg.bytes ++ fill 222 0 ∧ paceMsg.mtype ≠ 0 ∧ paceMsg.stage < 4 ∧ paceMsg.path.length = 3 ∧
      carries (s.linkVersion 15) paceMsg.type = true ∧ paceMsg.data.length ≤ maxLength paceMsg.type ∧ paceMsg.neigh = true ∧ paceMsg.vc = 4 ∧
      be f 4 2 % 2048 = 0 ∧ (be f 2 2).testBit 2 = false ∧ (be f 2 2).testBit 3 = false ∧ (s.port 15).unacked < 63 := by decide +kernel

theorem witness_DataFlitIsRefused :
    flitIntact false (flit 0 0 0 0 []) = false ∧ 3 ≤ ftype (flit 3 0 0 0 []) ∧ be (flit 0 5 0 0 []) 0 2 / 16 ≠ ((linkSt 4 3 15).port 15).rxNext := by decide +kernel

theorem witness_IdleFlitAcknowledges :
    let f := flit 1 0 (8 * 16 + 4) (4 * 8192 + 1 * 2048 + 3) []
    let s := linkSt 4 3 15 fun x => { x with replay := [(7, [1]), (8, [2]), (9, [3])] }
    ftype f = 1 ∧ be f 4 2 / 8192 = 4 ∧ be f 4 2 / 2048 % 4 = 1 ∧ be f 4 2 % 2048 = 3 ∧ (be f 2 2).testBit 2 = true ∧
      (be f 2 2).testBit 3 = false ∧ (s.port 15).replay = [(7, [1])] ++ (be f 2 2 / 16, [2]) :: [(9, [3])] ∧
      ∀ r ∈ [((7 : Nat), ([1] : List Byte))], r.1 ≠ be f 2 2 / 16 := by decide +kernel

theorem witness_FlitsAreSent :
    ((linkSt 4 3 15 fun x => { x with replay := [(7, [1])] }).port 15).replay ≠ [] ∧ ((linkSt 4 3 15).port 15).replay = [] ∧
      (linkSt 1 0 0).linkState 15 ≠ 4 := by decide +kernel

/-- A message of 300 bytes for port 15. -/
def bigMsg : Msg := ⟨0x01, 0, false, 3, 1, [0xFF, 0xFF, 0xFF], 0, fill 300 7⟩
def waitingSt (state credits : Nat) : State :=
  { linkSt state 3 15 fun x => { x with credits := [(0, credits)] } with waiting := [⟨bigMsg, 0x8000, none, .plain⟩] }

theorem witness_MessagesAreSent :
    (waitingSt 4 2).waiting[0]? = some ⟨bigMsg, 0x8000, none, .plain⟩ ∧ (waitingSt 4 2).bestPort ⟨bigMsg, 0x8000, none, .plain⟩ = some 15 ∧
      bigMsg.creditsNeeded = 2 ∧ (((waitingSt 4 2).port 15).credits.get 0 bigMsg.credClass) = 2 ∧
      (((waitingSt 4 1).port 15).credits.get 0 bigMsg.credClass) = 1 ∧
      (waitingSt 4 1).bestPort ⟨bigMsg, 0x8000, none, .plain⟩ = some 15 ∧ ((waitingSt 4 2).port 15).replay.length + 2 ≤ 512 := by decide +kernel

theorem witness_MessageIsDropped :
    (waitingSt 1 2).bestPort ⟨bigMsg, 0x8000, none, .plain⟩ = none ∧ bigMsg.type ≠ 0x30 ∧
      State.wantsPort ⟨bigMsg, 0x8000, none, .plain⟩ 15 = true ∧ ∀ k < 15, State.wantsPort ⟨bigMsg, 0x8000, none, .plain⟩ k = false := by
  decide +kernel

def healthMsg : Msg := ⟨0x33, 0, true, 0, 0, [0xFF, 0xFF, 0xFF], 0, [0x80, 0, 0, 0]⟩

theorem witness_HealthAndPaceNotices :
    (linkSt 4 3 15).linkVersion 15 = 3 ∧ (linkSt 4 2 15).linkVersion 15 ≠ 3 ∧
    ((linkSt 4 3 15 fun x => { x with inbox := [healthMsg] }).port 15).inbox = healthMsg :: [] ∧ healthMsg.mtype = 0x33 ∧
    ((linkSt 4 3 15 fun x => { x with inbox := [paceMsg] }).port 15).inbox = paceMsg :: [] ∧ paceMsg.mtype = 0x30 ∧
    ({ linkSt 4 3 15 with paceDue := true } : State).paceDue = true ∧ (((linkSt 4 3 15).modStack 7 fun k => { k with pacing := true }).stack 7).pacing = true ∧
    2 ≤ (linkSt 5 2 15).linkVersion 15 := by decide +kernel

end Sys2Proof.Tests
end

