-- ==== Sys2Proof/Tests/WitnessMemory.lean ====
section
/-! SUPPORT. States and operands that meet the hypotheses of the statements about ownership, the Confluence, sluices, stacks and memory
tiers. -/

namespace Sys2Proof.Tests

set_option Elab.async false

open Sys2Proof.Machine

/-- A module that has booted, with field hi:lo of one register at v. -/
def withReg (id : RegId) (ix : List Nat) (hi lo v : Nat) : State := (st (img []) []).setRegF id ix hi lo v

theorem witness_OwnsetStartsAHandover :
    let op := opw 0x40 [(50, 0), (45, 3)]
    let s := one 5 op []
    (s.core 0).part = some 0 ∧ Fires s 0 5 0x40 (s.strmAccepts 0) (ent 1 5 op) ∧ (s.strmPlaces 0 op).headD none = some (.vat 0) ∧
      s.ownerOk 0 0 (.vat 0) [0x10, 0x11, 0x12, 0x13, 0x14] = true ∧ (Place.vat 0).ownReg = some (.vatOwner, [0, 0]) := by
  unfold Fires; decide +kernel

theorem witness_OwnerChange :
    ((State.bankPlace false 0 31).ownReg = some (.vatOwner, [0, 31]) ∧ (withReg .vatOwner [0, 31] 39 39 1).regF .vatOwner [0, 31] 39 39 = 1 ∧
      (withReg .vatOwner [0, 31] 39 39 1).inFlight (State.bankPlace false 0 31) = false) ∧
    (State.bankPlace true 7 15).ownReg = some (.poolOwner, [7, 15]) ∧ (withReg .poolOwner [7, 15] 39 39 1).regF .poolOwner [7, 15] 39 39 = 1 ∧
      (withReg .poolOwner [7, 15] 39 39 1).inFlight (State.bankPlace true 7 15) = false := by decide +kernel

theorem witness_OwnerWrites :
    let s := st (img []) []
    s.unreachable .vatOwner [1, 31] = false ∧ s.romOnly = false ∧ getF (s.reg .vatOwner [1, 31]) 43 43 = 0 ∧ getF (s.reg .vatOwner [1, 31]) 39 39 = 0 ∧
      (s.core 16).part = none ∧ (0x14 : BitVec 5).toNat ≤ 0x14 ∧ ¬ ((0x15 : BitVec 5).toNat ≤ 0x14) ∧
      getF (s.reg .vatOwner [0, 0]) 43 43 = 1 ∧ s.firing (getF (s.reg .vatOwner [0, 0]) 47 44) = true ∧
      (s.setPstate 0 3).firing (getF ((s.setPstate 0 3).reg .vatOwner [0, 0]) 47 44) = false ∧
      ((s.setPstate 0 3).core 0).part = some (getF ((s.setPstate 0 3).reg .vatOwner [0, 0]) 47 44) ∧
      State.reset.unreachable .poolOwner [0, 0] = true := by decide +kernel

theorem witness_MemoryClearComplete :
    (State.bankPlace true 0 16).ownReg = some (.poolOwner, [0, 0]) ∧ (withReg .poolOwner [0, 0] 40 40 1).regF .poolOwner [0, 0] 40 40 = 1 := by
  decide +kernel

theorem witness_ConfluenceRegisters : (st (img []) []).unreachable .confCtrl [7] = false ∧ (st (img []) []).romOnly = false ∧
    getF (4 : Long) 5 0 = 4 ∧ getF (32 : Long) 5 0 = 32 ∧
    getF (3 : Long) 5 0 < 4 ∧ 32 < getF (33 : Long) 5 0 := by decide +kernel

/-- Requester 19 of resource 33 is backing off; 3 is designated, and a grant is the Nth of its eddy. -/
def backing (des : List Nat) (grants : Nat) : State :=
  { st (img []) [] with
    clusters := [(0, { Cluster.idle with
      conf := [(33, { ConfRes.fresh with beat := 7, designated := des, grants := grants, reqs := [(19, ⟨some 0, 4, 2⟩)] })] })] }

/-- The resource and those that present to it once requests have arrived. -/
def beatAt (s : State) (l : List (Nat × Nat)) : ConfRes × List Nat :=
  let k := (s.cl 0).arrive 33 l
  (k.conf.get ConfRes.fresh 33, k.presented 33)

theorem witness_NoRequesterIsEligible :
    (backing [] 0).blockOff 128 = false ∧ (beatAt (backing [] 0) [(19, 5)]).2 = [19] ∧
      ((beatAt (backing [] 0) [(19, 5)]).1.req 19).backoff = 2 := by decide +kernel

theorem witness_OneRequesterIsGranted :
    (beatAt (backing [] 0) [(0, 0), (19, 1), (3, 1)]).2 = [0, 3, 19] ∧
      ((beatAt (backing [] 0) [(0, 0), (19, 1), (3, 1)]).1.req 0).backoff = 0 ∧
      ((beatAt (backing [3] 0) [(0, 0), (19, 1), (3, 1)]).1.req 3).backoff = 0 ∧ (beatAt (backing [3] 0) []).1.designated = [3] ∧
      (backing [] 0).clusters ≠ [] ∧ (beatAt (backing [] 0) []).1.grants + 1 < (beatAt (backing [] 0) []).1.n ∧
      (beatAt (backing [] 31) []).1.n ≤ (beatAt (backing [] 31) []).1.grants + 1 := by decide +kernel

/-- An eddy grant designates requester 19, which has waited longest, also while it backs off. -/
theorem witness_EddyGrantDesignates : ∀ j ∈ [0, 3], Claims.WaitedLonger (beatAt (backing [] 31) []).1 19 j := by
  unfold Claims.WaitedLonger; decide +kernel

theorem witness_TemperatureReportsSetTheLevel :
    (withReg .sluHeat [7] 34 34 1).regF .sluHeat [7] 34 34 = 1 ∧ 151 ∉ (withReg .sluHeat [7] 35 35 0).off ∧ (withReg .sluHeat [7] 35 35 0).regF .sluHeat [7] 34 34 = 0 ∧
      (withReg .sluHeat [7] 35 35 0).regF .sluHeat [7] 35 35 = 0 ∧ (withReg .sluHeat [7] 35 35 1).regF .sluHeat [7] 35 35 = 1 ∧
      (withReg .sluHeat [7] 35 35 1).regF .sluHeat [7] 34 34 = 0 ∧ ((withReg .sluHeat [7] 35 35 1).setRegF .sluHeat [7] 39 36 6).level 7 < 7 := by decide +kernel

theorem witness_HeatAndDerate :
    let s := (withReg .sluHeat [0] 39 36 7).modStack 0 fun k => { k with cool := 20 }
    20 ≤ (s.stack 0).cool ∧ s.unreachable .sluHeat [0] = false ∧ s.romOnly = false ∧ 1 ≤ s.level 0 ∧ s.level 0 ≤ 7 ∧ getF (BitVec.ofNat 64 (85 * 2 ^ 40)) 47 40 = 85 ∧
      getF (BitVec.ofNat 64 (105 * 2 ^ 40)) 47 40 = 105 ∧ getF (BitVec.ofNat 64 (84 * 2 ^ 40)) 47 40 < 85 ∧
      105 < getF (BitVec.ofNat 64 (106 * 2 ^ 40)) 47 40 := by decide +kernel

/-- A clear of n fast frames from frame lo. -/
def clearWord (lo n : Nat) : Long := BitVec.ofNat 64 (lo * 2 ^ 41 + n * 2 ^ 21 + 2 ^ 63)

theorem witness_FramesAreCleared :
    (withReg .sluClear [] 63 63 1).regF .sluClear [] 63 63 = 1 ∧ (st (img []) []).regF .sluClear [] 63 63 = 0 ∧
    (st (img []) []).romOnly = false ∧
    (getF (clearWord 245759 1) 60 41 + getF (clearWord 245759 1) 40 21 ≤ (st (img []) []).partFrames false ∧
      (st (img []) []).mappedRunning false 245759 1 = false) ∧
    ¬ (getF (clearWord 245759 2) 60 41 + getF (clearWord 245759 2) 40 21 ≤ (st (img []) []).partFrames false) ∧
    (st (img []) []).mappedRunning false 5 1 = true := by decide +kernel

theorem witness_ScrubReads :
    let d := { st (img []) [] with fast := { data := [], crc := [], syms := [], classD := [5] } }
    let s := { st (img []) [] with slow := { data := [], crc := [], syms := [(32770, [(3, 1)])], classD := [] } }
    (d.tierOf false).classD.contains 5 = true ∧ 1 ∉ s.slow.classD ∧ s.slow.marksIn (1 * mib2) mib2 = [(32770, .oneC)] := by
  decide +kernel

/-- A fast frame with a granule in error by one symbol and one that fails to merge. -/
theorem witness_ScrubCorrectsAndCounts :
    let s := { st (img []) [] with fast := { data := [], crc := [], syms := [(2, [(3, 1)]), (5, [(3, 1), (9, 7)])], classD := [] } }
    Claims.TiersOpen s ∧ (0 : Nat) ∉ s.fast.classD ∧ (s.fast.marksIn 0 mib2).map (·.1) = [2, 5] ∧ (2, GMark.oneC) ∈ s.fast.marksIn 0 mib2 := by
  unfold Claims.TiersOpen PhysUp; decide +kernel

theorem witness_SoftRepairComplete :
    (((st (img []) []).modStack 7 fun k => { k with repairing := [3, 4] }).stack 7).repairing = 3 :: [4] := by decide +kernel

end Sys2Proof.Tests
end

