-- ==== Sys2Proof/Tests/WitnessMove.lean ====
section
/-! SUPPORT. States and operands that meet the hypotheses of the statements about the Tensor profile, the special-function unit, row
statistics, copies and streams. -/

namespace Sys2Proof.Tests

set_option Elab.async false

open Sys2Proof.Machine

/-! ### Tensor profile -/

/-- A destination of 2 rows of 300 FP32 elements at 4096 of vat 0, in rows of 1280 bytes. -/
def tdest : BitVec 256 := dsc [(0, 1), (1, 0), (2, 0), (4, 0), (5, 2), (8, 4096), (0xC, 300), (0x10, 1280), (0x14, 1)]

/-- A layout-T word: descriptor 0 into descriptor 0. -/
def top (oc : Nat) (l : List (Nat × Nat) := []) : Long := opw oc l
def tent (oc : Nat) : Entry := { ent 1 2 (top oc) with vset := ⟨0, .known 4, true, 0, 0, 0, none⟩ }

/-- The entry after its first chunk of 4, on a core whose partition's account holds bal. -/
def walking (oc : Nat) : Entry := { tent oc with phase := .fired, chunk := 1, chunks := 4 }
def walk (oc : Nat) (bal : Int) : State :=
  { st (img [tdest]) [walking oc] with weir := { State.reset.weir with windows := 1, accts := [(0, bal)] } }

/-- What the statement about a chunk asks of a state. -/
def AtChunk (oc : Nat) (bal : Int) : Prop :=
  ((walk oc bal).core 0).part = some 0 ∧ (walk oc bal).entry? 0 1 = some (walking oc) ∧ (walking oc).unit = 2 ∧
    (walking oc).opcode = oc ∧ (walking oc).phase = .fired ∧ 0 < (walking oc).chunk ∧ (walking oc).chunk < (walking oc).chunks ∧
    ((walk oc bal).core 0).halted = false ∧ (walk oc bal).waitingCharge 0 = none

theorem witness_TensorChunkIsRefused : AtChunk 0x20 (-1) ∧ (∃ q ∈ elementwise 0 0, 0x20 = q.2) ∧
    (walk 0x20 (-1)).admitPart 0 ((walk 0x20 (-1)).chunkCharge 0 (walking 0x20)) = none ∧ (walk 0x20 (-1)).weir.waiting.has 0 = false := by
  unfold AtChunk; decide +kernel

theorem witness_TensorChunkIsAdmitted : AtChunk 0x20 (10 ^ 30) ∧
    ((walk 0x20 (10 ^ 30)).admitPart 0 ((walk 0x20 (10 ^ 30)).chunkCharge 0 (walking 0x20))).isSome = true ∧
    ((walk 0x20 (10 ^ 30)).tdesc 0 (getF (walking 0x20).op 51 40)).place = some (.vat 0) ∧ NoErrors (walk 0x20 (10 ^ 30)) ∧
    NothingBound (walk 0x20 (10 ^ 30)) 0 1 ∧ fmtIsFloat ((walk 0x20 (10 ^ 30)).tdesc 0 0).fmt = true := by
  unfold AtChunk NoErrors TierClean PhysUp NothingBound; decide +kernel

/-- The walk of another unit's entry of a word, with 4 chunks in all. -/
def walkOf (unit : Nat) (op : Long) : Entry := { tent 0x20 with unit := unit, op := op, phase := .fired, chunk := 3, chunks := 4 }
def unitWalk (unit : Nat) (op : Long) : State :=
  { st (img [tdest]) [walkOf unit op] with weir := { State.reset.weir with windows := 1, accts := [(0, 10 ^ 30)] } }

/-- What the statement about a walk's next chunk asks of a state. -/
def Advances (unit : Nat) (op : Long) : Prop :=
  let s := unitWalk unit op
  (s.core 0).part = some 0 ∧ s.entry? 0 1 = some (walkOf unit op) ∧ s.waitingCharge 0 = none ∧
    (s.admitPart 0 (s.chunkCharge 0 (walkOf unit op))).isSome = true ∧ NoErrors s ∧
    (unit = 5 → (s.tdesc 0 (getF op 55 44)).place.isSome = true ∧ (s.locPlace 0 (getF op 41 37)).isSome = true) ∧
    fmtIsFloat (s.tdesc 0 (getF op 51 40)).fmt = true

theorem witness_TensorChunkAdvances : Advances 2 (top 0x40) ∧ Advances 3 (top 0x40) ∧ Advances 4 (opw 0x60 [(37, 1)]) ∧ Advances 5 (opw 0x70 []) := by
  unfold Advances NoErrors TierClean PhysUp; refine ⟨?_, ?_, ?_, ?_⟩ <;> decide +kernel

theorem witness_UnitChunkIsWritten :
    (let s := unitWalk 4 (opw 0x60 [(37, 1)])
     (s.tdesc 0 (sfWord (opw 0x60 [(37, 1)])).td).place = some (.vat 0) ∧ NothingBound s 0 1 ∧
       ∀ n ∈ slotNeeds (s.core 0) (sfWord (opw 0x60 [(37, 1)])), (slotOf (s.core 0) n.1).parity = []) ∧
    (let s := unitWalk 5 (opw 0x70 [])
     s.locPlace 0 (getF (opw 0x70 []) 41 37) = some (.vat 0) ∧ (s.tdesc 0 (getF (opw 0x70 []) 55 44)).place.isSome = true ∧ NothingBound s 0 1) := by
  unfold NothingBound; decide +kernel

def tensorSt (oc : Nat) (d : BitVec 256) : State := st (img [d]) [tent oc]

theorem witness_TensorWalkStarts :
    let s := tensorSt 0x10 tdest
    (s.core 0).part = some 0 ∧ Fires s 0 2 0x10 (s.vecAccepts 0 0) (tent 0x10) ∧ (tent 0x10).vset.tensor = true ∧
      s.tensorFault 0 (s.tensorDescs 0 (s.vecAt 0 0) (tent 0x10).op) = none ∧ (s.tdesc 0 (getF (tent 0x10).op 51 40)).place = some (.vat 0) ∧
      NoErrors s ∧ NothingBound s 0 1 := by
  unfold Fires NoErrors TierClean PhysUp NothingBound; decide +kernel

/-- A destination that leaves its vat. -/
def tfar : BitVec 256 := dsc [(0, 1), (5, 1), (8, 2097024), (0xC, 300), (0x10, 1280)]

theorem witness_TensorWalkFaults :
    let s := tensorSt 0x40 tfar
    (s.core 0).part = some 0 ∧ Fires s 0 2 0x40 (s.vecAccepts 0 0) (tent 0x40) ∧
      s.tensorFault 0 (s.tensorDescs 0 (s.vecAt 0 0) (tent 0x40).op) = some (3, 0) := by
  unfold Fires; decide +kernel

/-! ### The special-function unit -/

def table : Table :=
  { func := 0x05, slot := 3, init := true, core := 0, interp := 0, accuracy := 0, zeroPos := 0, zeroNeg := 0, posInf := 0, negInf := 0, low := 0,
    high := 0, highBreak := 0, edge := 0, segs := [], excs := [], index := 0 }

/-- A register-mode word: slot 3, eng 0, vd 1, vs1 2. -/
def sfop (oc : Nat) (l : List (Nat × Nat) := []) : Long := opw oc ([(46, 5), (42, 3), (38, 3), (27, 1), (22, 2), (17, 3)] ++ l)
def sfSt (oc : Nat) (x : Slot) : State := setCore0 (one 4 (sfop oc) []) fun k => { k with slots := [(3, x)] }

/-- What the statement about the functions asks of a word. -/
def Serves (oc : Nat) (x : Slot) : Prop :=
  Fires (sfSt oc x) 0 4 oc ((sfSt oc x).sfuAccepts 0) (ent 1 4 (sfop oc)) ∧ (sfWord (sfop oc)).tens = false ∧
    0 < (actOf ((sfSt oc x).vecAt 0 0) (ent 1 4 (sfop oc)).vset (sfWord (sfop oc)).m (sfWord (sfop oc)).zm (sfWord (sfop oc)).mreg).n ∧
    ∀ n ∈ slotNeeds ((sfSt oc x).core 0) (sfWord (sfop oc)), (slotOf ((sfSt oc x).core 0) n.1).parity = []

def fullSlot : Slot := ⟨some table, none, 0, 1, [], false⟩

theorem witness_SpecialFunctionsEvaluate : ∀ oc ∈ [0x60, 0x61, 0x62], Serves oc fullSlot := by
  simp only [List.forall_mem_cons]; unfold Serves Fires; decide +kernel

theorem witness_SpecialFunctionsFallBack : Serves 0x60 Slot.empty ∧ (modeOf ((sfSt 0x60 Slot.empty).core 0) (sfWord (sfop 0x60))).1 ≠ .normal := by
  unfold Serves Fires; decide +kernel

def tabOp : Long := opw 0x64 [(42, 3), (0, 0)]
def tabEnt : Entry := { ent 1 4 tabOp with gens := [(3, 1)] }

theorem witness_SftableFillsTheShadow :
    let im := { img [] with tables := [table], store := [fill 96 0] }
    let s := setCore0 (st im [tabEnt]) fun k => { k with slots := [(3, fullSlot)] }
    Fires s 0 4 0x64 (s.sfuAccepts 0) tabEnt ∧ (s.core 0).part = some 0 ∧ (s.part 0).img = some im ∧ NoErrors s := by
  unfold Fires NoErrors TierClean PhysUp; decide +kernel

/-- Slot 3 holds a shadow copy, and a reader of the old generation may still be in the window. -/
def swapping (es : List Entry) : State :=
  setCore0 (st (img []) es) fun k => { k with slots := [(3, { fullSlot with shadow := some (1, table) })] }
def oldReader (s : State) : Bool :=
  (s.core 0).window.any fun e => e.unit == 4 && e.opcode != 0x64 && e.gens.has 3 && e.gens.get 0 3 == (slotOf (s.core 0) 3).gen.toNat

theorem witness_SlotSwapWaitsForOldReaders :
    (slotOf ((swapping []).core 0) 3).shadow = some (1, table) ∧ oldReader (swapping []) = false ∧
      oldReader (swapping [{ ent 1 4 (sfop 0x60) with gens := [(3, 0)] }]) = true := by decide +kernel

theorem witness_SlotsAreRestored :
    (let s := setCore0 (st (img []) []) fun k => { k with slots := [(0, { fullSlot with state := 3 })] }
     (slotOf (s.core 0) 0).state = 3 ∧ (slotOf (s.core 0) 0).active = some table ∧ (s.core 0).part = some 0 ∧ (s.part 0).img = some (img []) ∧
       NoErrors s) ∧
    (let s := setCore0 (st (img []) []) fun k => { k with slots := [(15, ⟨none, none, 0, 2, [1], false⟩)] }
     (slotOf (s.core 0) 15).state = 2 ∧ (slotOf (s.core 0) 15).active = none ∧ NoErrors s) ∧
    (let im := { img [] with rennets := [⟨5, 0, 0, [], []⟩] }
     let s := setCore0 (st im []) fun k => { k with slots := [(0, { fullSlot with state := 3 })] }
     (slotOf (s.core 0) 0).state = 3 ∧ (s.part 0).img = some im ∧ NoErrors s ∧
       im.rennetOf (s.core 0).logical 0 = some 0) := by
  unfold NoErrors TierClean PhysUp; decide +kernel

/-! ### Row statistics -/

theorem witness_RecordsFinish :
    let op := opw 0x72 [(51, 0), (36, 1), (21, 1)]
    let s := one 5 op []
    Fires s 0 5 0x72 (s.strmAccepts 0) (ent 1 5 op) ∧ s.locPlace 0 (getF op 55 51) = some (.vat 0) ∧ s.coreOwns 0 (some (.vat 0)) = true ∧
      NoErrors s ∧ NothingBound s 0 1 := by unfold Fires NoErrors TierClean PhysUp NothingBound; decide +kernel

theorem witness_RecordsMerge :
    let op := opw 0x71 [(51, 0), (36, 0), (31, 0), (16, 2), (1, 1)]
    let s := one 5 op []
    Fires s 0 5 0x71 (s.strmAccepts 0) (ent 1 5 op) ∧ s.locPlace 0 (getF op 55 51) = some (.vat 0) ∧ s.locPlace 0 (getF op 35 31) = some (.vat 0) ∧
      s.coreOwns 0 (some (.vat 0)) = true ∧ NoErrors s ∧ NothingBound s 0 1 ∧ getF op 50 36 + (getF op 15 1 + 1) ≤ getF op 30 16 := by
  unfold Fires NoErrors TierClean PhysUp NothingBound; decide +kernel

theorem witness_RowStatisticsOfTheFirstRow :
    let op := opw 0x70 [(44, 0), (37, 0), (22, 1), (42, 1), (43, 1), (0, 1)]
    let s := one 5 op [dsc [(0, 1), (1, 0), (4, 1), (5, 2), (8, 4096), (0xC, 3), (0x10, 128)]]
    Fires s 0 5 0x70 (s.strmAccepts 0) (ent 1 5 op) ∧ (s.tdesc 0 (getF op 55 44)).place = some (.vat 1) ∧
      s.locPlace 0 (getF op 41 37) = some (.vat 0) ∧ s.coreOwns 0 (some (.vat 1)) = true ∧ s.coreOwns 0 (some (.vat 0)) = true ∧
      NoErrors s ∧ NothingBound s 0 1 := by unfold Fires NoErrors TierClean PhysUp NothingBound; decide +kernel

/-! ### Copies and streams -/

/-- An endpoint descriptor: plain, 3 elements of FP32 in vat loc. -/
def endp (loc base : Nat) : BitVec 256 := dsc [(0, 4), (1, 0), (2, 1), (3, 1), (4, loc), (5, 0x24), (8, base), (0x10, 64), (0x14, 64), (0x18, 3), (0x1B, 1)]

def copyOp : Long := opw 0x20 [(44, 0), (32, 1)]
def copySt : State := one 6 copyOp [endp 0 4096, endp 1 8192]

/-- What the statement about COPY asks of a state. -/
def CopyChecks (s : State) (op : Long) : Prop :=
  let src := s.endp 0 (getF op 55 44)
  let dst := (s.endp 0 (getF op 43 32)).sized src
  s.sideFault 0 (s.pagesOf 0) src.side 0 [0x13] (src.runs (isMove src dst)) = none ∧
    s.sideFault 0 (s.pagesOf 0) dst.side 1 [0x13] (dst.runs true) = none ∧ s.copyRefused 0 src dst = false

theorem witness_CopyIsQueued : Fires copySt 0 6 0x20 (copySt.copyAccepts 0) (ent 1 6 copyOp) ∧ NoErrors copySt := by
  unfold Fires NoErrors TierClean PhysUp; decide +kernel

theorem witness_CopyPassesItsChecks : CopyChecks copySt copyOp := by unfold CopyChecks; decide +kernel

def copyJob (g24 : Bool) : CopyJob := ⟨0, 1, 0, g24, [1, 2, 3, 4], [⟨.vat 1, 64, 4⟩], [0], false, false⟩
def queued (g24 : Bool) : State := { st (img []) [ent 1 6 copyOp] with clusters := [(0, { Cluster.idle with copyQ := [copyJob g24] })] }

/-- What the statement about copies asks of a copy at the front of the queue. -/
def Waits (g : Bool) : Prop :=
  NoErrors (queued g) ∧ NothingBound (queued g) 0 1 ∧ (queued g).cl 0 = { Cluster.idle with copyQ := [copyJob g] } ∧
    (Cluster.idle.copyRun = [] ∧ Cluster.idle.restarting = false) ∧ (copyJob g).data.length = 4 ∧ (copyJob g).vas.length = 1 ∧
    (copyJob g).started = false

theorem witness_CopiesRun : Waits false ∧ Waits true := by
  unfold Waits NoErrors TierClean PhysUp NothingBound; exact ⟨by decide +kernel, by decide +kernel⟩

theorem witness_G24CopyStarts :
    let s := { st (img []) [] with clusters := [(0, { Cluster.idle with copyRun := [copyJob true] })] }
    (s.cl 0).copyRun = copyJob true :: [] ∧ (copyJob true).g24 = true ∧ NoErrors s ∧ NothingBound s 0 1 := by
  unfold NoErrors TierClean PhysUp NothingBound; decide +kernel

/-- A stream descriptor: the far side at space and base, vat 0 at 128, 2 rows of 64 bytes. -/
def strm (space loc base : Nat) : BitVec 256 :=
  dsc [(0, 5), (1, space), (2, loc), (3, 0), (4, 64), (8, base), (0xE, 128), (0x11, 2), (0x14, 64), (0x18, 64)]

def strmOp (oc : Nat) : Long := opw oc [(44, 0)]

/-- What the statement about SLOAD and SSTORE asks of a state. -/
def StreamChecks (oc space loc base : Nat) : Prop :=
  let s := one 5 (strmOp oc) [strm space loc base]
  let far := s.side 0 space loc base
  let near : Side := ⟨false, s.locPlace 0 0, 128⟩
  let runs := [(0, 64), (64, 64)]
  let dst := if oc = 0x10 then near.pieces (s.pagesOf 0) 1 runs else far.pieces (s.pagesOf 0) 1 runs
  let src := if oc = 0x10 then far.pieces (s.pagesOf 0) 0 runs else near.pieces (s.pagesOf 0) 0 runs
  s.sideFault 0 (s.pagesOf 0) far (if oc = 0x10 then 0 else 1) [] runs = none ∧ s.sideFault 0 (s.pagesOf 0) near 0 [] runs = none ∧
    dst.Pairwise (fun a b => a.place ≠ b.place ∨ a.addr + a.len ≤ b.addr ∨ b.addr + b.len ≤ a.addr) ∧
    sumN (src.map (·.len)) = sumN (dst.map (·.len))

def StreamFires (oc space loc base : Nat) : Prop :=
  Fires (one 5 (strmOp oc) [strm space loc base]) 0 5 oc ((one 5 (strmOp oc) [strm space loc base]).strmAccepts 0) (ent 1 5 (strmOp oc)) ∧
    NoErrors (one 5 (strmOp oc) [strm space loc base]) ∧ NothingBound (one 5 (strmOp oc) [strm space loc base]) 0 1

theorem witness_StreamsFire : StreamFires 0x10 0 0 0 ∧ StreamFires 0x11 1 1 4096 := by
  unfold StreamFires Fires NoErrors TierClean PhysUp NothingBound; decide +kernel

theorem witness_StreamLoadPassesItsChecks : StreamChecks 0x10 0 0 0 := by unfold StreamChecks; decide +kernel

theorem witness_StreamStorePassesItsChecks : StreamChecks 0x11 1 1 4096 := by unfold StreamChecks; decide +kernel

theorem witness_TranslationIsCheckedFirst :
    let s := one 5 (strmOp 0x10) [strm 0 0 0x600000]
    (s.core 0).part = some 0 ∧ Fires s 0 5 0x10 (s.strmAccepts 0) (ent 1 5 (strmOp 0x10)) ∧ (s.side 0 0 0 0x600000).virt = true ∧
      checkRuns (s.pagesOf 0) 0 [(0x600000, 64), (0x600000 + 64, 64)] = some (1, some 0x600000) := by
  unfold Fires; decide +kernel

/-- An indexed tensor of 8 rows of 64 FP32 elements, one row to a block, at 4096 of vat 1. -/
def xtensor (policy : Nat) : BitVec 256 :=
  dsc [(0, 6), (1, 0), (2, 0), (3, 0), (4, policy), (5, 1), (6, 1), (8, 4096), (0x10, 64), (0x13, 8), (0x18, 256), (0x1C, 2048)]

/-- A list of 2 keys at 0 of vat 0, its dense side at 1024 of vat 0. -/
def xlistD : BitVec 256 := dsc [(0, 7), (1, 0), (2, 0), (3, 0), (4, 2), (8, 0), (0x10, 1024), (0x14, 256)]

def xop (oc : Nat) : Long := opw oc [(44, 0), (32, 1)]
def xSt (oc : Nat) (policy : Nat) (keys : List Host.Cell) : State :=
  { one 5 (xop oc) [xtensor policy, xlistD] with vats := [(0, ⟨keys, []⟩)] }

/-- What the statements about GATHER, SCATTER and SCATTER_ADD ask of a state. -/
def Indexed (oc policy : Nat) (keys : List Host.Cell) (ok : Bool) : Prop :=
  let s := xSt oc policy keys
  let xt := s.xtens 0 0
  let l := s.xlist 0 1
  Fires s 0 5 oc (s.strmAccepts 0) (ent 1 5 (xop oc)) ∧ s.xFault 0 xt l (oc - 0x30) = none ∧ NoErrors s ∧
    NothingBound s 0 1 ∧ l.dense = some (.vat 0) ∧ xt.blockLen ≤ l.dStride ∧ (s.core 0).part = some 0 ∧
    ((s.readList xt l).2.1.all fun n => !n.on || xt.inRange n.key) = ok ∧ xt.policy = policy

theorem witness_GatherReadsNamedBlocks : Indexed 0x30 1 [(4, 7)] true := by unfold Indexed Fires NoErrors TierClean PhysUp NothingBound; decide +kernel

theorem witness_ScattersWriteNamedBlocks : Indexed 0x31 1 [(4, 7)] true ∧ Indexed 0x32 1 [(4, 7)] true := by
  unfold Indexed Fires NoErrors TierClean PhysUp NothingBound; decide +kernel

/-- What the statement about the scatters asks besides of the blocks that active entries name. -/
def BlocksApart (oc : Nat) (keys : List Host.Cell) (blocks : Nat) : Prop :=
  let s := xSt oc 1 keys
  let xt := s.xtens 0 0
  let l := s.xlist 0 1
  let hit := (s.readList xt l).2.1.filter fun n => n.on && xt.inRange n.key
  let pieces := fun (k : Int × Int × Int) => xt.side.pieces (s.pagesOf 0) 1 ((xt.blockRuns k).map fun r => (r.2.1, r.2.2))
  hit.length = 2 ∧ (distinctKeys hit).length = blocks ∧ Claims.Apart ((distinctKeys hit).flatMap pieces) ∧
    ∀ n ∈ hit, ∀ m ∈ hit, ∀ k ∈ pieces n.key, k.place ≠ .vat 0 ∨ k.addr + k.len ≤ l.dOff + m.i * l.dStride ∨
      l.dOff + m.i * l.dStride + xt.blockLen ≤ k.addr

theorem witness_ScattersOfApartBlocks : BlocksApart 0x31 [(4, 7)] 2 ∧ BlocksApart 0x32 [] 1 := by
  unfold BlocksApart Claims.Apart; decide +kernel

/-- An entry out of range, which ZERO or DROP takes out. -/
theorem witness_EntriesOutOfRange : Indexed 0x30 1 [(4, 8)] false ∧ Indexed 0x32 1 [(4, 8)] false := by
  unfold Indexed Fires NoErrors TierClean PhysUp NothingBound; decide +kernel

theorem witness_CoordinatesAreCheckedFirst : Indexed 0x30 0 [(4, 8)] false ∧ Indexed 0x31 0 [(4, 8)] false ∧ Indexed 0x32 0 [(4, 8)] false := by
  unfold Indexed Fires NoErrors TierClean PhysUp NothingBound; refine ⟨?_, ?_, ?_⟩ <;> decide +kernel

end Sys2Proof.Tests
end

