-- ==== Sys2Proof/Tests/WitnessPower.lean ====
section
/-! SUPPORT. States and operands that meet the hypotheses of the statements about energy, power-up, the meter, crossings, self-test, the life
cycle, the cartridge and the keeper. -/

namespace Sys2Proof.Tests

set_option Elab.async false

open Sys2Proof.Machine

/-! ### The Weir -/

theorem witness_WindowsAreGranted : State.reset.weir.running = false ∧
    ({ State.reset with weir := { State.reset.weir with running := true } } : State).weir.running = true ∧
    ({ State.reset with weir := { State.reset.weir with running := true, windows := 256 } } : State).weir.windows ≠ 0 := by decide +kernel

/-- An MPASS that presents its charge; the account of partition 0 holds bal, the spare pool pool, the window admits adm. -/
def charged (bal pool : Int) (windows adm : Nat) : State :=
  let e := { ent 1 1 (opw 0x11 []) with admitted := false, paid := 0 }
  { st (img [dsc [(0, 2), (1, 3), (0xC, 2)]]) [e] with
    weir := { State.reset.weir with windows := windows, accts := [(0, bal)], spare := pool, eAdm := adm } }
def charge (s : State) : Int := s.partCost 0 ((s.charges 0 { ent 1 1 (opw 0x11 []) with admitted := false, paid := 0 }).getD 0 [])

theorem witness_ChargesArePresented : ((charged 0 0 1 0).core 0).part = some 0 ∧
    (charged 0 0 1 0).presented 0 = some { ent 1 1 (opw 0x11 []) with admitted := false, paid := 0 } ∧ (charged 0 0 1 0).mayFire 0 = true ∧
    (charged 0 0 1 0).regF .weirStatus [] 4 4 = 0 ∧ ((charged 0 0 1 0).setPstate 0 3).mayFire 0 = false := by decide +kernel

theorem witness_CoreChargesAreAdmitted :
    (let s := charged (10 ^ 40) 0 1 0
     charge s ≤ s.weir.accts.get 0 0) ∧
    (let s := charged 1 (10 ^ 40) 1 0
     0 ≤ s.weir.accts.get 0 0 ∧ s.weir.accts.get 0 0 < charge s ∧ charge s ≤ s.weir.accts.get 0 0 + s.weir.spare ∧
       s.weir.debt = [] ∧ hasN ({ s.weir with debt := [0] } : Weir).debt 0 = true) ∧
    (let s := charged 1 0 1 0
     s.weir.accts.get 0 0 + s.weir.spare < charge s ∧ (2 * s.grantOf 0 : Int) ≤ s.weir.accts.get 0 0) ∧
    (let s := charged 1 0 1 1000000
     s.weir.accts.get 0 0 + s.weir.spare < charge s ∧ s.weir.accts.get 0 0 < (2 * s.grantOf 0 : Int)) ∧
    (charged (-1) 0 1 0).weir.accts.get 0 0 < 0 ∧ (charged 0 0 0 0).weir.windows = 0 ∧ (charged 0 0 1 0).weir.waiting.has 0 = false := by
  decide +kernel

def dueMsg : Due := ⟨0, ⟨1, 0, false, 3, 1, [0xFF, 0xFF, 0xFF], 0, fill 20 0⟩, 1, .plain, 20, 0, []⟩
def dueSt (reserve : Int) : State :=
  { charged 0 0 1 0 with clusters := [(7, { Cluster.idle with due := [dueMsg] })], weir := { (charged 0 0 1 0).weir with reserve := reserve } }

theorem witness_EngineChargesAreAdmitted :
    ((dueSt 0).cl 0).due = [] ∧ ((dueSt 0).cl 7).due = dueMsg :: [] ∧
      ((dueSt (10 ^ 40)).admitReserve 0 (State.dueCharge dueMsg)).isSome = true ∧ ((dueSt (-1)).admitReserve 0 (State.dueCharge dueMsg)).isSome = false := by
  decide +kernel

def pictureJob : IngJob :=
  { core := 0, uid := 1, part := 0, step := 0, op := 0, prof := 0, input := [], started := true, admitted := false,
    pics := [⟨⟨16, 16, []⟩, ⟨8, 8, []⟩, ⟨8, 8, []⟩, 8, 1, false, 1, false, false, ⟨2, 2, []⟩, ⟨1, 1, []⟩, 0, 4, false, [], .h264High, 30, true, true, 100⟩], decoded := 1, flags := 0, next := 0, written := 0,
    discarded := 0, dst := [] }

theorem witness_PictureCharges :
    ((charged 0 0 0 0).admitPart 0 (State.pictureCharge pictureJob)).isNone = true ∧
      ((charged (10 ^ 40) 0 1 0).admitPart 0 (State.pictureCharge pictureJob)).isSome = true ∧
      (({ charged 0 0 0 0 with clusters := [(0, { Cluster.idle with ingQ := [pictureJob] })] } : State).cl 0).ingQ = pictureJob :: [] := by
  decide +kernel

/-! ### Feeds, power-up, the meter -/

def feeds (a b : Bool) : State := { State.reset with feedA := ⟨a, true, a, 0⟩, feedB := ⟨b, b, b, 0⟩ }

theorem witness_EmergenciesAndFeeds :
    State.reset.weir.running = false ∧ (109 : Byte).toNat < (State.reset.setRegF .weirCtrl [] 31 24 100).regF .weirCtrl [] 31 24 + 10 ∧
      (State.reset.setRegF .weirCtrl [] 31 24 100).regF .weirCtrl [] 31 24 + 10 ≤ (110 : Byte).toNat ∧
      ((feeds false false).feed 0).mated = true ∧ ((feeds false false).feed 1).mated = false ∧ ((feeds false false).feed 0).valid = false ∧
      ((feeds true true).feed 0).valid = true ∧ ((feeds true true).feed 1).valid = true ∧ ((feeds true false).feed 1).valid = false := by decide +kernel

theorem witness_PowerUpGoesByItsSteps :
    State.reset.bootStep = 1 ∧ (feeds true false).feedA.valid = true ∧ State.reset.feedA.valid = false ∧ State.reset.feedB.valid = false ∧
      State.reset.portsSettled = true ∧ (State.reset.setLinkState 15 2).portsSettled = false := by decide +kernel

theorem witness_PowerUpSteps : ∀ n ∈ [2, 4, 5, 6, 7, 8, 9], ({ State.reset with bootStep := n } : State).bootStep = n := by
  simp only [List.forall_mem_cons]; decide +kernel

theorem witness_TheMeterCounts :
    State.reset.meter.ready = false ∧ State.reset.meter.fault = false ∧
      (let m := { State.reset.meter with ready := true, fault := true, records := [(1, [7])], latest := 1 }
       m.ready = true ∧ m.records ≠ [] ∧ m.latest < 2 ∧ m.fault = true) := by decide +kernel

/-! ### Crossings and self-test -/

/-- Crossing 5, a lane's, with units queued and written, and samples taken of the front unit. -/
def crossing (q : List (Nat × List Byte)) (samples : List (List Byte)) : State :=
  (State.reset.modPort 0 fun x => { x with powered := true }).modXing 5 fun k => { k with selfReset := false, clkReset := false, toClocked := ⟨q, [], samples, []⟩ }

theorem witness_CrossingsCarry :
    let s := crossing [(0, [1]), (0, [2])] [[1], [3]]
    let k := s.xing 5
    ¬ (k.selfReset = true ∨ k.clkReset = true ∨ s.selfOff 5 = true) ∧ State.reset.selfOff 5 = true ∧ sumN (k.toClocked.queue.map fun u => unitWords 5 u.2) ≤ 8 ∧
      unitWords 5 (fill 17 0) = 2 ∧ agreedAt ((k.toClocked.samples ++ [[3]]).take 16) = some 3 ∧
      agreedAt ((k.toClocked.samples ++ [[4]]).take 16) = none ∧
      agreedAt ((k.toClocked.samples ++ (List.range 14).map fun i => [BitVec.ofNat 8 (i + 4)]).take 16) = none ∧
      ((k.toClocked.samples ++ (List.range 14).map fun i => [BitVec.ofNat 8 (i + 4)]).take 16).length = 16 := by decide +kernel

theorem witness_CrossingResets :
    let k := Xing.running
    (k.selfReset = false ∧ k.clkReset = false) ∧
    (let r := { k with clkReset := true }
     r.clkReset = true ∧ ((r.selfReset && r.selfAcked) || (r.clkReset && r.clkAcked)) = false) ∧
    (let r := { k with selfReset := true, selfAcked := true }
     r.selfReset = true ∧ ((r.selfReset && r.selfAcked) || (r.clkReset && r.clkAcked)) = true) := by decide +kernel

/-- The self-test controller with a block wanted or running. -/
def testing (b : Bist) : State := { (st (img []) []).setRegF .keepStatus [] 0 0 1 with bist := b }

theorem witness_SlicesAreTested :
    (testing ⟨0, none, none, 0, [], none, [], 0, 0⟩).ready = true ∧ (testing ⟨0, none, none, 0, [], none, [], 0, 0⟩).lifeState ≠ 4 ∧
      (testing ⟨0, none, none, 0, [], none, [], 0, 0⟩).regF .bistCtrl [] 0 0 = 1 ∧ (testing ⟨0, none, none, 0, [], none, [], 0, 0⟩).anyRestart = false ∧
      ((testing ⟨0, none, none, 0, [], none, [], 0, 0⟩).setRegF .bistCtrl [] 0 0 0).regF .bistCtrl [] 0 0 = 0 ∧
      (testing ⟨32, some 0, none, 0, [], none, [], 0, 0⟩).takeable 0 = false ∧ (testing ⟨32, some 1, none, 0, [], none, [], 0, 0⟩).takeable 1 = true ∧
      (testing ⟨32, none, some 143, 0, [], none, [], 0, 0⟩).bist.running = some 143 := by decide +kernel

theorem witness_SliceSignatures (b k : Nat) : (Config.sliceExpected b k == Config.sliceExpected b k) = true ∧
    (Config.sliceExpected b k + 1 == Config.sliceExpected b k) = false := by
  refine ⟨beq_self_eq_true _, ?_⟩
  simp

/-- Blocks 0 and 1, retired, are passed over; block 0 may still be wanted from before. -/
def blocksOut (wanted : Option Nat) : State := (testing ⟨0, wanted, none, 0, [], none, [], 0, 0⟩).setRegF .retireCluster [0] 1 0 3

theorem witness_RetiredBlocksArePassed :
    (blocksOut (some 0)).blockRetired 0 = true ∧ (blocksOut none).blockRetired 2 = false ∧ (blocksOut none).liveFrom 0 = 64 ∧
      (blocksOut none).liveFrom 65 = 65 ∧ ((blocksOut none).bist.wanted = none ∧ (blocksOut none).ready = true) := by decide +kernel

theorem witness_DirectedTests :
    (testing ⟨0, none, none, 143, [3], none, [], 0, 0⟩).bist.todo = 3 :: [] ∧ (testing ⟨0, none, none, 143, [3, 4], none, [], 0, 0⟩).bist.todo = 3 :: [4] ∧
      (testing ⟨0, none, none, 0, [], none, [], 0, 0⟩).lifeState = 0 ∧ (testing ⟨0, none, none, 0, [], none, [], 0, 0⟩).coresUnder 143 = [] ∧
      (testing ⟨0, none, none, 0, [], none, [], 0, 0⟩).ingestUsed 7 = false ∧ (testing ⟨0, none, none, 0, [], none, [], 0, 0⟩).blockRetired 143 = false ∧
      (testing ⟨0, none, none, 0, [], none, [], 0, 0⟩).romOnly = false ∧ (testing ⟨0, none, none, 0, [], none, [], 0, 0⟩).coresUnder 0 ≠ [] ∧ 143 < getF (BitVec.ofNat 64 (144 * 2 ^ 16)) 23 16 := by decide +kernel

theorem witness_WarmRestartsEnd :
    (({ st (img []) [] with clusters := [(0, { Cluster.idle with restarting := true })] } : State).cl 0).restarting = true ∧
      ((st (img []) []).cl 0).restarting = false ∧ (st (img []) []).hdr = none := by decide +kernel

theorem witness_SelftestOverdue :
    let due := fun (t : Long) => 2880000000000 ≤ (({ testing ⟨0, none, none, 0, [], none, [], 0, 0⟩ with tick := t } : State).tick - 0).toNat
    due 2880000000000 ∧ ¬ due 2879999999999 ∧ (testing ⟨0, none, none, 0, [], none, [], 0, 0⟩).blockRetired 143 = false := by decide +kernel

/-! ### Life cycle -/

/-- An object of an unsigned operation for device 7 with challenge 0. -/
def object (op n : Nat) (payload : List Byte) : List Byte :=
  beBytes 4 0x4C494645 ++ [BitVec.ofNat 8 op, 0, 0, 0] ++ leBytes 8 7 ++ leBytes 8 0 ++ leBytes 4 n ++ leBytes 4 0xFFFFFFFF ++ leBytes 4 0xFFFFFFFF ++
    fill 28 0 ++ payload
def living (fuses : BitVec 4) (op n : Nat) : State :=
  { (st (img []) []).setReg .lifeChallenge [] 0 with life := { (st (img []) []).life with device := 7, fuses := fuses } }.setBytes (.tier true) stagingBase
    ((object op n (fill n 1)).map id)

theorem witness_LifeCycleOperations : 64 % 64 = 0 ∧ 64 < stagingLen ∧ 63 % 64 ≠ 0 ∧ stagingLen ≤ stagingLen ∧ stagingLen % 64 = 0 ∧
    (stagingLen - 64) % 64 = 0 := by decide +kernel

theorem witness_LifeCycleReads : NoErrors (living 3 7 32) ∧ (living 3 7 32).romOnly = false ∧ ((living 3 7 32).setRegF .lifeStatus [] 33 32 2).romOnly = true := by unfold NoErrors TierClean PhysUp; decide +kernel

/-- The challenge of a quote at offset 0, and the words an unsigned operation needs, stand as R563 has them. -/
theorem witness_QuoteIsTaken : (living 3 7 32).lifeRefusal 7 (object 7 32 (fill 32 1)) stagingLen = 0 := by decide +kernel

theorem witness_QuoteIsRefused : (living 0 7 32).lifeRefusal 7 (object 7 32 (fill 32 1)) stagingLen = 5 := by decide +kernel

/-! ### Cartridge and keeper -/

theorem witness_CartridgesComeAndGo : State.reset.cart.present = false ∧ State.reset.cart.nvme = false ∧
    (let s := { State.reset with cart := { State.reset.cart with present := true, nvme := true, blind := false, serial := 5 } }
     s.cart.present = true ∧ s.cart.nvme = true ∧ s.cart.serial = 5 ∧ s.cart.blind = false ∧ s.xingHeld 322 = false ∧ s.xingHeld 323 = false ∧
       ({ s.cart with blind := true } : Cart).blind = true ∧ (s.modXing 322 fun k => { k with clkReset := true }).xingHeld 322 = true ∧
       s.answerOk (fill 32 0) ⟨fill 8 0, [], []⟩ = false) := by decide +kernel

def watched (ready : Nat) (tick : Long) : State :=
  let s := ((st (img []) []).setRegF .keepStatus [] 0 0 ready).setRegF .keepWatch [] 21 12 10
  { s with tick := tick }

theorem witness_TheKeeperIsWatched :
    (watched 1 1000000).ready = true ∧ (watched 0 0).ready = false ∧ 6 ≤ (watched 0 0).bootStep ∧ State.reset.bootStep < 6 ∧
      100000 * (watched 1 1000000).regF .keepWatch [] 21 12 ≤ ((watched 1 1000000).tick - (watched 1 1000000).keeper.kick).toNat ∧
      ¬ (100000 * (watched 1 999999).regF .keepWatch [] 21 12 ≤ ((watched 1 999999).tick - (watched 1 999999).keeper.kick).toNat) := by decide +kernel

/-- A WATCH about module 2 of a kind. -/
def watchMsg (kind : Byte) : Msg := ⟨0x32, 0, false, 1, 2, [0xFF, 0xFF, 0xFF], 0, beBytes 4 1 ++ [kind, 0] ++ beBytes 2 2 ++ fill 56 0⟩
def hearing (role : Nat) (coord : Option Nat) (kind : Byte) : State :=
  let s := ((((st (img []) []).setReg .lnkModule [] 0x10001).setRegF .keepStatus [] 0 0 1).setRegF .jobStatus [] 31 28 role).modPort 15 fun x =>
    { x with inbox := [watchMsg kind] }
  { s with job := { s.job with coord := coord, maps := [(0, { part := 0, relaxed := true, jobgen := 1, shards := 1, entries := [(0, ⟨1, 2, 3, 0, 0, 0, 0⟩)] })] } }

theorem witness_WatchesAreTaken :
    ((hearing 1 none 0).port 15).inbox = watchMsg 0 :: [] ∧ (watchMsg 0).type = 0x32 ∧ be (watchMsg 0).data 4 1 = 0 ∧ be (watchMsg 1).data 4 1 ≠ 0 ∧
      (hearing 1 none 0).ready = true ∧ (hearing 1 none 0).role = 1 ∧ be (watchMsg 0).data 6 2 ∈ State.modulesOf (hearing 1 none 0).job.maps ∧
      2 ∉ (hearing 1 none 0).job.lost ∧ 2 ≠ (hearing 1 none 0).me ∧ (hearing 2 (some 2) 0).role = 2 ∧
      (hearing 2 (some 2) 0).job.coord = some (be (watchMsg 0).data 6 2) := by decide +kernel

end Sys2Proof.Tests
end

