-- ==== Sys2Proof/Tests/WitnessTraining.lean ====
section
/-! SUPPORT. States and operands that meet the hypotheses of the statements about host gates, ingest, loss scale, the ferry and the exchange
between partitions. -/

namespace Sys2Proof.Tests

set_option Elab.async false

open Sys2Proof.Machine

theorem witness_GatesFire :
    let inOp := opw 0x68 [(50, 63), (0, 9)]
    let outOp := opw 0x69 [(50, 63), (0, 9)]
    let y : Session := ⟨5, true, 9, 0, 0x11, 1, 1, [], [], [], [], [], 0, 0⟩
    let s := { one 5 outOp [] with sessions := [y] }
    ((one 5 inOp []).core 0).part = some 0 ∧ Fires (one 5 inOp []) 0 5 0x68 ((one 5 inOp []).strmAccepts 0) (ent 1 5 inOp) ∧
      Fires s 0 5 0x69 (s.strmAccepts 0) (ent 1 5 outOp) ∧ s.sessions = [y] ∧ y.unacked.length < 1024 := by unfold Fires; decide +kernel

/-! ### Ingest -/

/-- An ingest profile: PID 256, one picture of 16 by 16 in 8 × 8 patches, at most 3 frames. -/
def prof : BitVec 512 := BitVec.ofNat 512 ([(0, 256), (3, 1), (12, 16), (14, 16), (16, 16), (18, 16), (20, 8), (21, 1), (0x34, 4096), (0x38, 3)].foldl
  (fun a (q : Nat × Nat) => a + q.2 * 2 ^ (8 * q.1)) 0)

def ingOp : Long := opw 0x80 [(48, 0), (36, 0), (32, 0), (28, 0), (12, 1)]
def ingImg : PartImg := { img [dsc [(0, 10), (8, 0), (0x10, 188)]] with ingest := [prof] }

/-- A bank that partition 0 holds with the ingest engine its owner, or one that a core owns. -/
def ingSt (owner : Nat) : State := { st ingImg [ent 1 8 ingOp] with mrs := [(0x01801000, owned), (512, 1)] }.setReg .poolOwner [0, 0] (BitVec.ofNat 64 (2 ^ 43 + 0x1F * 2 ^ 32 + owner))

/-- What the statement about INGEST asks of a state. -/
def IngestFires (s : State) : Prop :=
  (s.core 0).part = some 0 ∧ s.imgOf 0 = some ingImg ∧ s.isRunning 0 = true ∧
    Fires s 0 8 0x80 (s.ingestAccepts 0) (ent 1 8 ingOp) ∧
    s.sideFault 0 pages ⟨true, none, 0⟩ 0 [] [(0, 188)] = none

theorem witness_IngestFires : IngestFires (ingSt 0x12) ∧ (∀ b ∈ State.ingestBanks ingOp, (ingSt 0x12).ingestOwns 0 0 b = true) := by
  unfold IngestFires Fires; decide +kernel

theorem witness_IngestFaults : IngestFires (ingSt 0) ∧ (∃ b ∈ State.ingestBanks ingOp, (ingSt 0).ingestOwns 0 0 b = false) := by
  unfold IngestFires Fires; decide +kernel

def plane (w h : Nat) : VPlane := { w := w, h := h, data := [] }
def picture : VPic :=
  { luma := plane 16 16, cb := plane 8 8, cr := plane 8 8, depth := 8, matrix := 1, full := false, kind := 1, field := false, bottom := false,
    hurt := plane 2 2, hurtC := plane 1 1, lost := 0, units := 4, bad := false, refs := [], profile := .h262Main, level := 2, c420 := true,
    fits := true, coded := 100 }
def ingJob (started : Bool) : IngJob :=
  { core := 0, uid := 1, part := 0, step := 0, op := ingOp, prof := prof, input := [⟨.tier false, 0, 188⟩], started := started, admitted := started,
    pics := if started then [picture, picture] else [], decoded := 2, flags := 0, next := 0, written := 0, discarded := 0, dst := [] }
def ingIn (started : Bool) : State := { ingSt 0x12 with clusters := [(0, { Cluster.idle with ingQ := [ingJob started] })] }

theorem witness_IngestIsTaken : NoErrors (ingIn false) ∧ ((ingIn false).cl 0).ingQ = ingJob false :: [] ∧ (ingJob false).started = false ∧
    ((ingIn false).cl 0).restarting = false := by unfold NoErrors TierClean PhysUp; decide +kernel

theorem witness_PicturesAreWritten : NoErrors (ingIn true) ∧ NothingBound (ingIn true) 0 1 ∧ ((ingIn true).cl 0).ingQ = ingJob true :: [] ∧
    (ingJob true).pics[(ingJob true).next]? = some picture ∧ (ingJob true).started = true ∧ (ingJob true).admitted = true ∧
    (ingJob true).next + 1 < (ingJob true).pics.length ∧ (ingJob true).next < prF (ingJob true).prof 0x38 2 ∧
    ((ingIn true).cl 0).restarting = false ∧ (State.pictureStatus (ingJob true) picture).1 = 0 := by
  unfold NoErrors TierClean PhysUp NothingBound; decide +kernel

/-! ### Loss scale -/

/-- A loss-scale descriptor: 2^16 at first, status at 4 MiB, record at 64. -/
def lossD (resume : Nat) : BitVec 256 := dsc [(0, 11), (1, 16), (2, 0), (3, 24), (4, 1), (5, resume), (8, 4194304), (0x10, 64), (0x18, 100), (0x1C, 0)]
def lossOp (decide' : Nat) : Long := opw 0x74 [(44, 0), (43, decide')]
def lossSt (d resume : Nat) : State := one 5 (lossOp d) [lossD resume]

/-- What the statement about LSUPDATE asks of a state. -/
def Loss (d resume : Nat) : Prop :=
  let s := lossSt d resume
  s.oldestReady 0 5 (s.strmAccepts 0) = some (ent 1 5 (lossOp d)) ∧ (ent 1 5 (lossOp d)).opcode = 0x74 ∧ (s.imgOf 0).isSome = true ∧
    getF (lossOp d) 43 43 = d ∧ NoErrors s ∧ NothingBound s 0 1 ∧ (State.lossDesc (s.desc 0 0)).resume = decide (resume = 1)

theorem witness_LossScale : Loss 0 0 ∧ Loss 0 1 ∧ Loss 1 0 := by unfold Loss NoErrors TierClean PhysUp NothingBound; decide +kernel

theorem witness_LossRecordIsMapped :
    let s := lossSt 1 0
    s.sideFault 0 pages ⟨true, none, 64⟩ 0 [] [(0, 32)] = none ∧ s.sideFault 0 pages ⟨true, none, 64⟩ 1 [] [(0, 32)] = none ∧
      s.sideFault 0 pages ⟨true, none, 4194304⟩ 0 [] [(0, 64)] = none ∧
      (⟨true, none, 64⟩ : Side).pieces pages 1 [(0, 32)] = [⟨.tier false, 10485824, 32, 64⟩] ∧ (State.lossDesc (lossD 0)).status % 64 = 0 := by
  decide +kernel

/-! ### The ferry -/

/-- A ferry descriptor: 1 region, its list at 4 MiB, its buffer of 2 blocks at 5 MiB, queue pair 1. -/
def ferryD : BitVec 256 := dsc [(0, 14), (1, 1), (4, 1), (8, 4194304), (0x10, 5242880), (0x18, 2)]
def ferryOp : Long := opw 0x7C [(44, 0)]

/-- The list names 256 bytes at 0. -/
def ferrySt : State := { one 5 ferryOp [ferryD] with slow := { Tier.zero with data := [(18874441, 1)] } }
def regs1 : List (Nat × Nat) := [(0, 256)]

theorem witness_FerryFires : NoErrors ferrySt ∧ (ferrySt.core 0).part = some 0 ∧ Fires ferrySt 0 5 0x7C (ferrySt.strmAccepts 0) (ent 1 5 ferryOp) := by
  unfold NoErrors TierClean PhysUp Fires; decide +kernel

theorem witness_FerryPassesItsChecks :
    let b := Claims.bytesIn ferrySt ((⟨true, none, 4194304⟩ : Side).pieces pages 0 [(0, 96)])
    [(le b 64 8 % 2 ^ 48, le b 72 8)] = regs1 ∧ ferrySt.sideFault 0 pages ⟨true, none, 4194304⟩ 0 [] [(0, 96)] = none ∧
      ferrySt.sideFault 0 pages ⟨true, none, 4194304⟩ 1 [] [(16, 48)] = none ∧
      ferrySt.sideFault 0 pages ⟨true, none, 5242880⟩ 1 [] [(0, 131072)] = none ∧ ferrySt.sideFault 0 pages ⟨true, none, 0⟩ 0 [] regs1 = none := by
  decide +kernel

def ferry (old : FMap (List Byte)) : Ferry :=
  { part := 0, core := 0, uid := 1, step := 0, seq := 1, buildId := 0, qpn := 1, listVa := 4194304, bufVa := 5242880, bufBlocks := 2, tRaddr := 0,
    tRkey := 3, regions := [(65530, 10, 0, 0)], bound := [], rate := 0, start := 0, served := 0,
    damaged := 0, old := old, sent := [] }
def ferrying (old : FMap (List Byte)) (err : Bool) : State :=
  { st (img [ferryD]) [{ ent 1 5 ferryOp with phase := .fired }] with ferries := [ferry old], qps := [⟨1, 0, 5, err, 1024, 0, 0, 0, false⟩] }

theorem witness_FerryBlocks :
    (ferrying [] false).ferryOf 0 = some (ferry []) ∧ ((ferrying [] false).part 0).img = some (img [ferryD]) ∧ NoErrors (ferrying [] false) ∧
      (ferry []).old.has 1 = false ∧ (ferry []).old.length < (ferry []).bufBlocks ∧ State.inBlock (ferry []).regions 1 ≠ [] ∧
      State.blockBegun (ferry []) 1 = false ∧ State.blockBegun { ferry [] with sent := fill 65537 0 } 1 = true ∧
      State.inBlock (ferry []).regions 2 = [] ∧ (ferry [(0, [1]), (1, [2])]).old.has 1 = true ∧
      (ferry [(0, [1]), (1, [2])]).bufBlocks ≤ (ferry [(0, [1]), (1, [2])]).old.length := by unfold NoErrors TierClean PhysUp; decide +kernel

theorem witness_FerryEnds : (ferrying [] false).qpWorks 1 = true ∧ (ferrying [] true).qpWorks 1 = false ∧ (ferry []).qpn = 1 := by decide +kernel

/-! ### Exchange -/

/-- An exchange descriptor: 16 bytes at 0. -/
def xD : BitVec 256 := dsc [(0, 12), (8, 0), (0x10, 16)]
def xwOp (send : Bool) (peer slot : Nat) : Long := opw (if send then 0x76 else 0x77) [(44, 0), (40, peer), (36, slot)]

/-- Partitions 0 on core 0 and 1 on core 1; partition 1's frames are others, and its side may wait. -/
def img1 : PartImg := { img [xD] with pages := [⟨0, false, false, true, 3, 50⟩] }
def exch (send : Bool) (pst1 : Nat) (w : List XWait) : State :=
  { (st (img [xD]) [ent 1 5 (xwOp send 1 7)]).setPstate 1 pst1 with
    parts := [(0, part (img [xD])), (1, { part img1 with xwaits := w })], place := [(0, 0), (1, 1)],
    cores := [(0, { Core.idle with part := some 0, window := [ent 1 5 (xwOp send 1 7)], nextUid := 9 }),
      (1, { Core.idle with part := some 1, logical := 1, window := [{ ent 2 5 (xwOp (!send) 0 7) with phase := .fired }] })] }

/-- What the statement about the exchange asks of a state. -/
def Exchanges (send : Bool) (pst1 : Nat) (w : List XWait) : Prop :=
  let s := exch send pst1 w
  NoErrors s ∧ (s.core 0).part = some 0 ∧ s.isRunning 0 = true ∧
    Fires s 0 5 (if send then 0x76 else 0x77) (s.strmAccepts 0) (ent 1 5 (xwOp send 1 7)) ∧
    s.sideFault 0 (s.pagesOf 0) ⟨true, none, 0⟩ (if send then 0 else 1) [] [(0, 16)] = none

def waiter (send : Bool) (data : List Byte) : XWait := ⟨send, 1, 2, 0, 7, 0, data⟩

theorem witness_ExchangeWaits : Exchanges true 1 [] ∧ Exchanges false 1 [] ∧ (exch true 1 []).isRunning 1 = true := by
  unfold Exchanges NoErrors TierClean PhysUp Fires; decide +kernel

theorem witness_ExchangeIsRefused : Exchanges true 3 [] ∧ (exch true 3 []).isRunning 1 = false := by unfold Exchanges NoErrors TierClean PhysUp Fires; decide +kernel

theorem witness_SenderComesSecond :
    let s := exch true 1 [waiter false []]
    (s.part 1).xwaits.find? (fun w => w.send != true && w.peer == 0 && w.slot == 7 && w.k == 0) = some (waiter false []) ∧
      (s.entry? 1 2).isSome = true ∧ piecesOf (s.pagesOf 1) 1 0 16 = [⟨.tier false, 104857600, 16, 0⟩] ∧ s.hasHeld 1 2 = false ∧
      s.hasHeld 0 1 = false ∧ s.boundSpans 1 2 = [] := by decide +kernel

theorem witness_SenderFires : Exchanges true 1 [waiter false []] := by unfold Exchanges NoErrors TierClean PhysUp Fires; decide +kernel

theorem witness_ReceiverComesSecond : Exchanges false 1 [waiter true (fill 16 7)] ∧
    ((exch false 1 [waiter true (fill 16 7)]).part 1).xwaits.find? (fun w => w.send != false && w.peer == 0 && w.slot == 7 && w.k == 0) =
      some (waiter true (fill 16 7)) ∧ (exch false 1 [waiter true (fill 16 7)]).entry? 0 1 = some (ent 1 5 (xwOp false 1 7)) := by
  unfold Exchanges NoErrors TierClean PhysUp Fires; decide +kernel

end Sys2Proof.Tests
end

section
/-! SUPPORT and proofs. The register space: misshapen accesses, access errors, reads and writes by address, and the access codes (R13-R17, R545, R580). -/

namespace Sys2Proof.Machine

/-! ### The register map (R13) -/

/-- A list of dimensions whose strides are whole words. -/
def wordStrides (dims : List (Nat × Nat)) : Prop := ∀ d ∈ dims, d.2 % 8 = 0

theorem indexesOf_unaligned {dims : List (Nat × Nat)} (hd : wordStrides dims) {off : Nat} (h : off % 8 ≠ 0) : indexesOf dims off = none := by
  induction dims generalizing off with
  | nil => exact if_neg (by omega)
  | cons d t ih =>
    obtain ⟨hst, ht⟩ := List.forall_mem_cons.mp hd
    have hm : off / d.2 * d.2 % 8 = 0 := by rw [Nat.mul_mod, hst, Nat.mul_zero, Nat.zero_mod]
    have hle : off / d.2 * d.2 ≤ off := Nat.div_mul_le_self off d.2
    have hrest : indexesOf t (off - off / d.2 * d.2) = none := ih ht (by omega)
    simp [indexesOf, hrest]

/-- Every register's base and strides are whole words (R13, R579). -/
theorem row_wordAligned (id : RegId) : id.row.base % 8 = 0 ∧ wordStrides id.row.dims := by
  unfold wordStrides
  cases id <;> decide

theorem decodeIn_unaligned {a : Nat} (h : a % 8 ≠ 0) (ids : List RegId) : decodeIn a ids = none := by
  induction ids with
  | nil => rfl
  | cons id t ih =>
    obtain ⟨hb, hd⟩ := row_wordAligned id
    rw [decodeIn]
    split
    · exact ih
    · rw [indexesOf_unaligned hd (by omega)]
      exact ih

theorem decodeAddr_unaligned {a : Nat} (h : a % 8 ≠ 0) : decodeAddr a = none := decodeIn_unaligned h regIds

namespace State

variable (s : State)

theorem sameRegsBut_refl (l : List Nat) : SameRegsBut l s s := fun _ _ _ => rfl

theorem sameRegsBut_setReg (id : RegId) (ix : List Nat) (v : Long) : SameRegsBut [id.row.addr ix] s (s.setReg id ix v) :=
  fun _ _ h => FMap.get_set_ne _ _ _ (List.ne_of_not_mem_cons h)

/-! ### Access errors (R13, R580) -/

theorem onlyRegs_accessErr : OnlyRegs s s.accessErr := rfl

theorem sameRegsBut_accessErr : SameRegsBut [RegId.keepStatus.row.base] s s.accessErr := sameRegsBut_setReg s .keepStatus [] _

theorem regF_accessErr_count : s.accessErr.regF .keepStatus [] 31 16 = min (s.regF .keepStatus [] 31 16 + 1) 0xFFFF :=
  regF_bumpBy_self s .keepStatus [] 31 16 1 (by omega) (by omega)

/-- An access error leaves the fields of KEEP_STATUS apart from its count. -/
theorem regF_accessErr_apart (hi lo : Nat) (d : hi < 16 ∨ 31 < lo) :
    s.accessErr.regF .keepStatus [] hi lo = s.regF .keepStatus [] hi lo :=
  regF_setRegF_apart s .keepStatus [] 31 16 _ hi lo (by omega) (by omega) d

/-! ### Accesses by address (R13, R580) -/

theorem mrsWrite_unaligned {a : Nat} (h : a % 8 ≠ 0) (v : Long) : s.mrsWrite a v = none := if_pos h

theorem mrsRead_unaligned {a : Nat} (h : a % 8 ≠ 0) : s.mrsRead a = none := if_pos h

section
variable {s} {a : Nat} {id : RegId} {ix : List Nat} (ha : a % 8 = 0) (hd : decodeAddr a = some (id, ix))
include ha hd

theorem mrsWrite_reachable (hu : s.unreachable id ix = false) (hr : s.romOnly = false) (v : Long) :
    s.mrsWrite a v = s.regWritten id ix v := by
  simp [mrsWrite, ha, hd, hu, hr]

theorem mrsWrite_unreachable (hu : s.unreachable id ix = true) (v : Long) : s.mrsWrite a v = none := by
  simp [mrsWrite, ha, hd, hu]

theorem mrsRead_reachable (hu : s.unreachable id ix = false) :
    s.mrsRead a = some ((s.beforeRead id ix).shown id ix, (s.beforeRead id ix).readDone id ix) := by
  simp [mrsRead, ha, hd, hu]

theorem mrsRead_unreachable (hu : s.unreachable id ix = true) : s.mrsRead a = none := by
  simp [mrsRead, ha, hd, hu]
end

/-! ### Writes by the access codes (R14) -/

/-- What a write by the access codes leaves in a register that held `old`: RW fields take the value, W1C bits written as 1 clear. -/
def codeWritten (r : RegRow) (old v : Long) : Long := ((old &&& ~~~r.rw) ||| (v &&& r.rw)) &&& ~~~(v &&& r.w1c)

theorem codeWritten_of_no_w1c {r : RegRow} (h : r.w1c = 0#64) (old v : Long) : codeWritten r old v = (old &&& ~~~r.rw) ||| (v &&& r.rw) := by
  rw [codeWritten, h, BitVec.and_zero, BitVec.not_zero, BitVec.and_allOnes]

/-- The model's short cut, no entry in the map where nothing changes, cannot be read. -/
theorem plainWrite_cases (id : RegId) (ix : List Nat) (v : Long) :
    (s.plainWrite id ix v = s ∧ codeWritten id.row (s.reg id ix) v = s.reg id ix) ∨
      s.plainWrite id ix v = s.setReg id ix (codeWritten id.row (s.reg id ix) v) := by
  by_cases h : codeWritten id.row (s.reg id ix) v = s.reg id ix
  · exact .inl ⟨if_pos h, h⟩
  · exact .inr (if_neg h)

theorem onlyRegs_plainWrite (id : RegId) (ix : List Nat) (v : Long) : OnlyRegs s (s.plainWrite id ix v) := by
  obtain ⟨h, -⟩ | h := s.plainWrite_cases id ix v <;> rw [h] <;> rfl

theorem sameRegsBut_plainWrite (id : RegId) (ix : List Nat) (v : Long) : SameRegsBut [id.row.addr ix] s (s.plainWrite id ix v) := by
  obtain ⟨h, -⟩ | h := s.plainWrite_cases id ix v <;> rw [h]
  · exact sameRegsBut_refl s _
  · exact sameRegsBut_setReg s id ix _

theorem reg_plainWrite_self (id : RegId) (ix : List Nat) (v : Long) :
    (s.plainWrite id ix v).reg id ix = codeWritten id.row (s.reg id ix) v := by
  obtain ⟨h, he⟩ | h := s.plainWrite_cases id ix v <;> rw [h]
  · exact he.symm
  · exact reg_setReg_self s id ix _

theorem regWritten_plain {id : RegId} (h : id ∈ plainIds) (ix : List Nat) (v : Long) :
    s.regWritten id ix v = some (s.plainWrite id ix v) := by
  fin_cases h <;> rfl

/-! ### PMC_SAMPLE (R545) -/

/-- The index of a core's registers names the core. -/
theorem cix_core (c : CoreId) : 16 * (cix c).getD 0 0 + (cix c).getD 1 0 = c := by
  simp only [cix, List.getD_cons_zero, List.getD_cons_succ]
  omega

theorem pmcSstat_addr_ne (ix : List Nat) : RegId.pmcSample.row.addr ix ≠ RegId.pmcSstat.row.addr ix := by
  simp [RegRow.addr, RegId.row]

/-- A core's sample buffer emptied, with its count and place. -/
def samplesEmptied (s : State) (c : CoreId) : State :=
  ((s.modCore c fun k => { k with samples := [], sampleCount := 0 }).setRegF .pmcSstat (cix c) 8 0 0).setRegF .pmcSstat (cix c) 23 16 0

theorem wrSample_eq (c : CoreId) (v : Long) :
    s.wrSample (cix c) v = if s.regF .pmcSample (cix c) 0 0 = 0 ∧ getF v 0 0 = 1 then (s.plainWrite .pmcSample (cix c) v).samplesEmptied c
      else s.plainWrite .pmcSample (cix c) v := by
  simp only [wrSample, cix_core]
  rfl

theorem core_samplesEmptied (c : CoreId) : ((s.samplesEmptied c).core c).samples = [] := by
  simp [samplesEmptied]

theorem regF_samplesEmptied (c : CoreId) :
    (s.samplesEmptied c).regF .pmcSstat (cix c) 8 0 = 0 ∧ (s.samplesEmptied c).regF .pmcSstat (cix c) 23 16 = 0 := by
  unfold samplesEmptied
  constructor
  · rw [regF_setRegF_apart _ _ _ _ _ _ _ _ (by omega) (by omega) (by omega), regF_setRegF_self _ _ _ _ _ _ (by omega) (by omega),
      Nat.zero_mod]
  · rw [regF_setRegF_self _ _ _ _ _ _ (by omega) (by omega), Nat.zero_mod]

theorem cores_of_onlyRegs {s t : State} (h : OnlyRegs s t) : t.cores = s.cores := by
  rw [OnlyRegs] at h
  rw [h]

theorem coresAndRegs_of_onlyRegs {s t : State} (h : OnlyRegs s t) : t = { s with mrs := t.mrs, cores := t.cores } := by
  rw [OnlyRegs] at h
  rw [h]

theorem samplesEmptied_frame {s t : State} (c : CoreId) (h : OnlyRegs s t) :
    t.samplesEmptied c = { s with mrs := (t.samplesEmptied c).mrs, cores := (t.samplesEmptied c).cores } := by
  rw [OnlyRegs] at h
  rw [h]
  rfl

theorem reg_samplesEmptied (c : CoreId) : (s.samplesEmptied c).reg .pmcSample (cix c) = s.reg .pmcSample (cix c) := by
  unfold samplesEmptied
  rw [reg_setRegF_ne _ _ _ _ _ _ _ _ (pmcSstat_addr_ne _), reg_setRegF_ne _ _ _ _ _ _ _ _ (pmcSstat_addr_ne _)]
  rfl

end State

end Sys2Proof.Machine

open Sys2Proof Sys2Proof.Machine

/-- Settles O1: the step looks at the queue's front alone. -/
theorem stepRunsFrontCommand : Obligations.StepRunsFrontCommand := fun _ _ => rfl

/-- Settles O8: the write is refused before any register is looked at, and every register's address is a whole word's. -/
theorem misshapenAccessIsAnError : Obligations.MisshapenAccessIsAnError := by
  refine ⟨fun s addr size v h => ?_, fun _ => decodeAddr_unaligned⟩
  have refused : (if size = 8 then s.mrsWrite addr.toNat v else none) = none := by
    split
    next h8 => exact s.mrsWrite_unaligned (h.resolve_left (not_not.mpr h8)) v
    next => rfl
  have hx : exec (.registerWrite addr size v) s = .next s.accessErr := by
    rw [exec, execRegisterWrite, refused, Option.getD_none]
  exact ⟨s.accessErr, hx, s.onlyRegs_accessErr, s.sameRegsBut_accessErr, s.regF_accessErr_count,
    s.regF_accessErr_apart 15 0 (by omega), s.regF_accessErr_apart 63 32 (by omega)⟩

namespace Sys2Proof.Machine

/-- The first part of O9: no register of the list has a rule that refuses or widens the write. -/
theorem plainRegisterWrite : Claims.PlainRegisterWrite := by
  intro s id ix addr v hid hd ha hr hu
  have hw : s.mrsWrite addr.toNat v = some (s.plainWrite id ix v) := by
    rw [State.mrsWrite_reachable ha hd hu hr, s.regWritten_plain hid]
  exact ⟨s.plainWrite id ix v, by rw [exec, execRegisterWrite, if_pos rfl, hw, Option.getD_some], s.onlyRegs_plainWrite id ix v,
    s.sameRegsBut_plainWrite id ix v, s.reg_plainWrite_self id ix v⟩

/-- The second part of O9, by whether the write raises ENABLE. -/
theorem sampleControlWrite : Claims.SampleControlWrite := by
  intro s c v hr hu
  have hx : exec (.pmcSampleWrite c v) s = .next (s.wrSample (cix c) v) := by
    simp [exec, execPmcSampleWrite, State.wroteAt, hr, hu]
  have hreg : State.codeWritten RegId.pmcSample.row (s.reg .pmcSample (cix c)) v =
      (s.reg .pmcSample (cix c) &&& ~~~RegId.pmcSample.row.rw) ||| (v &&& RegId.pmcSample.row.rw) :=
    State.codeWritten_of_no_w1c rfl _ _
  have hp : (s.plainWrite .pmcSample (cix c) v).reg .pmcSample (cix c) = _ := (s.reg_plainWrite_self _ _ _).trans hreg
  have hf := s.onlyRegs_plainWrite .pmcSample (cix c) v
  by_cases h : s.regF .pmcSample (cix c) 0 0 = 0 ∧ getF v 0 0 = 1
  case pos =>
    have he := (s.wrSample_eq c v).trans (if_pos h)
    refine ⟨_, hx.trans (congrArg _ he), State.samplesEmptied_frame c hf, (State.reg_samplesEmptied _ c).trans hp,
      fun _ _ => ⟨State.core_samplesEmptied _ c, State.regF_samplesEmptied _ c⟩, fun h0 => ?_⟩
    omega
  case neg =>
    have he := (s.wrSample_eq c v).trans (if_neg h)
    exact ⟨_, hx.trans (congrArg _ he), State.coresAndRegs_of_onlyRegs hf, hp, fun h0 h1 => absurd ⟨h0, h1⟩ h,
      fun _ => ⟨State.cores_of_onlyRegs hf, s.sameRegsBut_plainWrite _ _ _⟩⟩

/-- Settles O9: both writes go by the access codes, and PMC_SAMPLE's touches the core's samples only where ENABLE rises. -/
theorem registerWrites : Obligations.RegisterWrites := ⟨plainRegisterWrite, sampleControlWrite⟩

end Sys2Proof.Machine
end

section
/-! SUPPORT. Sessions, and a command that may run: it is accepted, run on its session, and acknowledged (R404, R405, R407). -/

namespace Sys2Proof.Machine.State

variable {s : State}

/-! ### Sessions by their id (R404) -/

/-- The state with y in the place of the session of its id. -/
def withSess (s : State) (y : Session) : State := s.modSess y.id fun _ => y

theorem sess?_some {sid : Word} {x : Session} (h : s.sess? sid = some x) : x ∈ s.sessions ∧ x.id = sid :=
  ⟨List.mem_of_find?_eq_some h, by simpa using List.find?_some h⟩

theorem sess?_withSess {x y : Session} (h : s.sess? y.id = some x) : (s.withSess y).sess? y.id = some y := by
  obtain ⟨hx, hid⟩ := sess?_some h
  simp only [sess?, withSess, modSess] at *
  generalize s.sessions = l at *
  induction l with
  | nil => simp at hx
  | cons z t ih =>
    by_cases hz : z.id = y.id
    · simp [hz]
    · have ht : x ∈ t := (List.mem_cons.mp hx).resolve_left fun e => hz (e ▸ hid)
      simpa [hz] using ih (by simpa [hz] using h) ht

theorem modSess_withSess {y : Session} (f : Session → Session) (h : (f y).id = y.id) : (s.withSess y).modSess y.id f = s.withSess (f y) := by
  simp only [withSess, modSess, List.map_map, h]
  congr 1
  refine List.map_congr_left fun z _ => ?_
  by_cases hz : z.id = y.id <;> simp [hz]

theorem modSess_eq_withSess {x : Session} (hx : ∀ z ∈ s.sessions, z.id = x.id → z = x) (f : Session → Session) (h : (f x).id = x.id) :
    s.modSess x.id f = s.withSess (f x) := by
  simp only [withSess, modSess, h]
  congr 1
  refine List.map_congr_left fun z hz => ?_
  by_cases e : z.id = x.id
  · simp [hx z hz e]
  · simp [e]

theorem mem_withSess {y z : Session} (h : z ∈ (s.withSess y).sessions) : z = y ∨ z ∈ s.sessions := by
  obtain ⟨w, hw, rfl⟩ := List.mem_map.mp h
  split
  · exact .inl rfl
  · exact .inr hw

/-! ### Waiting commands (R407) -/

/-- Where no session has a waiting command, none runs. -/
theorem serve_idle (k : Nat) (h : ∀ z ∈ s.sessions, z.queued = []) : serve k s = s := by
  cases k with
  | zero => rfl
  | succ k =>
    have : s.sessions.findSome? (fun x => (s.nextWaiting x).map fun e => (x.id, e)) = none :=
      List.findSome?_eq_none_iff.mpr fun z hz => by simp [nextWaiting, h z hz]
    rw [serve, this]

theorem nextWaiting_single {y : Session} {n : Word} {c : CtlCmd} (hq : y.queued = [(n, c)]) (hb : s.boxBusy y.id (CtlBox c) = false) :
    s.nextWaiting y = some (n, c) := by
  simp [nextWaiting, hq, hb, List.range_succ]

theorem length_pos_of_queued {y : Session} (hy : y ∈ s.sessions) (hq : y.queued ≠ []) :
    0 < sumN (s.sessions.map fun z => z.queued.length) := by
  have hmem : y.queued.length ∈ s.sessions.map fun z => z.queued.length := List.mem_map_of_mem hy
  have hle : y.queued.length ≤ (s.sessions.map fun z => z.queued.length).sum := List.single_le_sum (by simp) _ hmem
  have hpos : 0 < y.queued.length := List.length_pos_iff.mpr hq
  rw [sumN, ← List.sum_eq_foldl_nat]
  omega

theorem findSome?_unanimous {α β : Type} {f : α → Option β} {b : β} {l : List α} {a : α} (ha : a ∈ l) (hb : f a = some b)
    (h : ∀ x ∈ l, f x = none ∨ f x = some b) : l.findSome? f = some b := by
  cases he : l.findSome? f with
  | none => simp [List.findSome?_eq_none_iff.mp he a ha] at hb
  | some d =>
    obtain ⟨x, hx, hd⟩ := List.exists_of_findSome?_eq_some he
    rcases h x hx with h0 | h1
    · simp [h0] at hd
    · rw [← hd, h1]

/-- The one waiting command of one session runs, and no other where none waits then. -/
theorem allServed_withSess {x q : Session} {n : Word} {c : CtlCmd} (hx : s.sess? q.id = some x) (hidle : ∀ z ∈ s.sessions, z.queued = [])
    (hq : q.queued = [(n, c)]) (hb : s.boxBusy q.id (CtlBox c) = false)
    (hr : ∀ z ∈ ((s.withSess { q with queued := [] }).runCmd q.id n c).sessions, z.queued = []) :
    (s.withSess q).allServed = (s.withSess { q with queued := [] }).runCmd q.id n c := by
  have hmem : q ∈ (s.withSess q).sessions := (sess?_some (sess?_withSess hx)).1
  have hnext : (s.withSess q).nextWaiting q = some (n, c) := nextWaiting_single hq hb
  have hfirst : (s.withSess q).sessions.findSome? (fun z => ((s.withSess q).nextWaiting z).map fun e => (z.id, e)) = some (q.id, n, c) := by
    refine findSome?_unanimous hmem (by rw [hnext]; rfl) fun z hz => ?_
    obtain rfl | hz := mem_withSess hz
    · exact .inr (by rw [hnext]; rfl)
    · exact .inl (by simp [nextWaiting, hidle z hz])
  obtain ⟨k, hk⟩ := Nat.exists_eq_succ_of_ne_zero (length_pos_of_queued hmem (by simp [hq])).ne'
  have hcleared : q.queued.filter (fun d => d.1 != n) = [] := by simp [hq]
  rw [allServed, hk, serve, hfirst]
  simp only
  rw [modSess_withSess _ rfl, hcleared, serve_idle k hr]

/-! ### Acknowledgements and held commands (R405) -/

/-- A session after the acknowledgement of a command's header: it continues at the port the command came by. -/
def acked (h : CmdHdr) (x : Session) : Session :=
  let left := x.unacked.filter fun f => !notAfter f.seq h.ackseq
  { x with port := h.port, unacked := left, resends := if left.length < x.unacked.length then 0 else x.resends }

/-- A session that has accepted the command of a header, with what else waits. -/
def accepted (h : CmdHdr) (queued : List (Word × CtlCmd)) (x : Session) : Session :=
  { acked h x with expect := x.expect + 1, held := [], running := x.running ++ [(h.seq, h.tag)], queued := queued }

/-- The state in which a command that may run is run: its session has accepted it. -/
def started (s : State) (h : CmdHdr) (x : Session) : State := s.withSess (accepted h [] x)

theorem useAck_eq {h : CmdHdr} {x : Session} (hx : s.sess? x.id = some x) (hu : ∀ z ∈ s.sessions, z.id = x.id → z = x) (hl : x.lost = 0) :
    s.useAck x.id h.port h.ackseq = s.withSess (acked h x) := by
  simp only [useAck, hx, hl, ne_eq, not_true_eq_false, false_and, if_false]
  exact modSess_eq_withSess hu _ rfl

theorem acceptHeld_idle (k : Nat) {y : Session} (hy : s.sess? y.id = some y) (hh : y.held = []) : acceptHeld k s y.id = s := by
  cases k with
  | zero => rfl
  | succ k => simp [acceptHeld, hy, hh]

/-- The session's only held command, which is the next: it is accepted, runs, and none is held behind it. -/
theorem acceptHeld_single (k : Nat) {x y : Session} {tag : Word} {c : CtlCmd} (hx : s.sess? y.id = some x)
    (hh : y.held = [(y.expect, tag, c)]) :
    acceptHeld (k + 1) (s.withSess y) y.id =
      acceptHeld k (s.withSess { y with expect := y.expect + 1, held := [], running := y.running ++ [(y.expect, tag)],
                                        queued := y.queued ++ [(y.expect, c)] }).allServed y.id := by
  have hfind : y.held.find? (fun e => e.1 == y.expect) = some (y.expect, tag, c) := by simp [hh]
  rw [acceptHeld, sess?_withSess hx]
  simp only [hfind]
  rw [modSess_withSess _ rfl]
  simp [hh]

/-! ### A command that may run (R405, R407) -/

theorem sessOf_some {h : CmdHdr} {x : Session} (hx : s.sessOf h = some x) : s.sess? x.id = some x := by
  rw [sessOf] at hx
  split at hx
  · cases hx
  next z hz =>
    split at hx
    · obtain rfl := Option.some.inj hx
      rwa [(sess?_some hz).2]
    · cases hx

/-- A session that holds the command of a header, which has just come. -/
def holding (h : CmdHdr) (c : CtlCmd) (x : Session) : Session := { acked h x with held := [(h.seq, h.tag, c)] }

theorem modSess_holding {h : CmdHdr} {x : Session} (c : CtlCmd) (hheld : x.held = []) :
    (s.withSess (acked h x)).modSess x.id (fun z => { z with held := z.held ++ [(h.seq, h.tag, c)] }) = s.withSess (holding h c x) := by
  refine (modSess_withSess (y := acked h x) _ rfl).trans ?_
  simp [acked, holding, hheld]

section
variable {r : State} {h : CmdHdr} {x y : Session} {c : CtlCmd} (hm : Claims.MayRun s h x (CtlBox c))
  (hrun : (s.started h x).runCmd x.id h.seq c = r) (hy : r.sess? x.id = some y) (hq : ∀ z ∈ r.sessions, z.queued = [])
  (hh : y.held = [])
include hm hrun hy hq hh

/-- The held command of a session that may run it is accepted and runs. -/
theorem acceptHeld_holding (k : Nat) : acceptHeld (k + 1) (s.withSess (holding h c x)) x.id = r := by
  obtain ⟨-, hof, hseq, -, -, -, -, hall, -, hfree⟩ := hm
  have hx := sessOf_some hof
  have hxq : x.queued = [] := (hall x (sess?_some hx).1).1
  have hserved : (s.withSess (accepted h [(h.seq, c)] x)).allServed = r := by
    rw [← hrun]
    exact allServed_withSess (q := accepted h [(h.seq, c)] x) hx (fun z hz => (hall z hz).1) rfl hfree (hrun ▸ hq)
  have hacc : ({ holding h c x with expect := x.expect + 1, held := [], running := x.running ++ [(x.expect, h.tag)],
                                    queued := x.queued ++ [(x.expect, c)] } : Session) = accepted h [(h.seq, c)] x := by
    simp [accepted, holding, hxq, hseq]
  have hyid : y.id = x.id := (sess?_some hy).2
  calc acceptHeld (k + 1) (s.withSess (holding h c x)) x.id
      = acceptHeld k (s.withSess (accepted h [(h.seq, c)] x)).allServed x.id :=
        (acceptHeld_single k (y := holding h c x) hx (by rw [holding, hseq]; rfl)).trans
          (congrArg (fun q => acceptHeld k (s.withSess q).allServed x.id) hacc)
    _ = acceptHeld k r x.id := by rw [hserved]
    _ = r := hyid ▸ acceptHeld_idle k (hyid ▸ hy) hh

/-- A command that may run is run on the session that has accepted it, and the module acknowledges its frame behind it. -/
theorem command_eq : s.command h c = r.emit (r.ctlOut y (bareFrame 4)) := by
  have hheard := acceptHeld_holding hm hrun hy hq hh 63
  obtain ⟨hin, hof, hseq, hheld, hlost, hroom, -, hall, -, -⟩ := hm
  have hx := sessOf_some hof
  have hack := useAck_eq (h := h) hx (fun z hz => (hall z hz).2) hlost
  have hself : (s.withSess (acked h x)).sess? x.id = some (acked h x) := sess?_withSess (y := acked h x) hx
  have hid : (acked h x).id = x.id := rfl
  have hdue : (h.seq - (acked h x).expect).toInt = 0 := by
    rw [show (acked h x).expect = h.seq from hseq.symm, BitVec.sub_self, BitVec.toInt_zero]
  have hnew : (acked h x).held.any (fun e => e.1 == h.seq) = false := by simp [acked, hheld]
  have hfits : ¬ (63 < (0 : Int) ∨ maxUnacked ≤ (acked h x).unacked.length) := by
    have : (acked h x).unacked.length ≤ x.unacked.length := List.length_filter_le _ _
    simp only [maxUnacked]
    omega
  simp only [command, hin, hof, hack, hself, hdue, hnew, hid, if_true, lt_irrefl, if_false, Bool.false_eq_true, if_neg hfits,
    modSess_holding c hheld, hheard, hy]
end

end Sys2Proof.Machine.State
end

section
/-! SUPPORT. The completion of a command reaches its host (R398, R405, R407). -/

namespace Sys2Proof.Machine.State

variable {s : State}

/-! ### Frames that leave (R398, R405, R407) -/

/-- Of two states, the later has sent or holds back what the earlier did, and more. -/
def SendsMore (s t : State) : Prop := s.out <:+ t.out ∧ s.waitOut <+: t.waitOut

theorem sendsMore_emit (o : Output) : SendsMore s (s.emit o) := ⟨List.suffix_append _ _, List.prefix_append _ _⟩

/-- A frame that its MAC's crossing lets through is sent, or waits where PFC holds its priority back. -/
theorem emit_delivers {o : Output} (hl : s.outLost o = false) :
    if s.pausedOut o = true then (s.emit o).waitOut = s.waitOut ++ [o] else (s.emit o).out = o :: s.out := by
  split
  next h => simp [emit, emitAll, hl, h]
  next h => simp [emit, emitAll, hl, h]

/-- A frame put out between two states that each send more is among what they sent, or among what waits. -/
theorem delivered {a t : State} {o : Output} (ha : SendsMore s a) (ht : SendsMore (a.emit o) t) (hl : a.outLost o = false) :
    ∃ sent held, t.out = sent ++ s.out ∧ t.waitOut = s.waitOut ++ held ∧ if a.pausedOut o = true then o ∈ held else o ∈ sent := by
  obtain ⟨⟨p, hp⟩, w, hw⟩ := ha
  obtain ⟨⟨p', hp'⟩, w', hw'⟩ := ht
  have hd := emit_delivers hl
  by_cases h : a.pausedOut o = true
  · obtain ⟨⟨q, hq⟩, -⟩ := sendsMore_emit (s := a) o
    rw [if_pos h] at hd
    exact ⟨p' ++ q ++ p, w ++ [o] ++ w', by simp [← hp', ← hq, ← hp], by simp [← hw', hd, ← hw], by simp [h]⟩
  · obtain ⟨-, v, hv⟩ := sendsMore_emit (s := a) o
    rw [if_neg h] at hd
    exact ⟨p' ++ [o] ++ p, w ++ v ++ w', by simp [← hp', hd, ← hp], by simp [← hw', ← hv, ← hw], by simp [h]⟩

/-- A control frame shows these fields of its session alone (R403). -/
theorem ctlOut_congr {y z : Session} (f : CtlFrame) (hport : y.port = z.port) (hip : y.ip = z.ip) (hver : y.version = z.version)
    (hid : y.id = z.id) (hexp : y.expect = z.expect) : s.ctlOut y f = s.ctlOut z f := by
  simp only [ctlOut, hport, hip, hver, hid, hexp]

/-! ### Completions (R405, R407) -/

/-- The frame that completes a session's command. -/
def completion (y : Session) (seq : Word) (box status : Nat) (body : List Byte) : CtlFrame :=
  ⟨2, y.sendSeq, BitVec.ofNat 8 box, BitVec.ofNat 16 status, tagOf y seq, body, seq⟩

/-- A session that has sent the completion of a command. -/
def completed (y : Session) (seq : Word) (f : CtlFrame) : Session :=
  { y with running := y.running.filter fun q => q.1 != seq, sendSeq := y.sendSeq + 1, unacked := y.unacked ++ [f],
           history := (y.history ++ [f]).drop (y.history.length - 255) }

theorem reply_eq {y : Session} {sid : Word} (hy : s.sess? sid = some y) (seq : Word) (box status : Nat) (body : List Byte) :
    s.reply sid seq box status body =
      (s.withSess (completed y seq (completion y seq box status body))).emit (s.ctlOut y (completion y seq box status body)) := by
  obtain ⟨-, rfl⟩ := sess?_some hy
  rw [sess?] at hy
  simp only [reply, hy, pushFrame]
  rfl

/-- The session of x has the command of header h at work in state u, and no session has another that waits. -/
def Awaiting (u : State) (h : CmdHdr) (x : Session) : Prop :=
  ∃ y, u.sess? x.id = some y ∧ (∀ z ∈ u.sessions, z.queued = []) ∧ y.held = [] ∧ tagOf y h.seq = h.tag ∧
    y.port = h.port ∧ y.ip = x.ip ∧ y.version = x.version ∧ y.admin = x.admin ∧ y.expect = h.seq + 1

/-- The session that has accepted a command awaits its completion. -/
theorem awaiting_accepted {u : State} {h : CmdHdr} {x : Session} {box : Nat} (hm : Claims.MayRun s h x box)
    (hu : u.sessions = (s.started h x).sessions) : Awaiting u h x := by
  obtain ⟨-, hof, hseq, -, -, -, hnew, hall, -, -⟩ := hm
  have hfind : u.sess? x.id = some (accepted h [] x) :=
    (congrArg (List.find? _) hu).trans (sess?_withSess (x := x) (y := accepted h [] x) (sessOf_some hof))
  have htag : tagOf (accepted h [] x) h.seq = h.tag := by
    have hold : x.running.find? (fun q => q.1 == h.seq) = none := by simpa using hnew
    simp [tagOf, accepted, List.find?_append, hold]
  refine ⟨_, hfind, fun z hz => ?_, rfl, htag, rfl, rfl, rfl, rfl, congrArg (· + 1) hseq.symm⟩
  obtain rfl | hz := mem_withSess (hu ▸ hz)
  · rfl
  · exact (hall z hz).1

/-- A command whose run ends in a completion is answered by it, and nothing else differs from the state that answers. -/
theorem command_answers {u : State} {h : CmdHdr} {x : Session} {c : CtlCmd} {status : Nat} {body : List Byte}
    (hm : Claims.MayRun s h x (CtlBox c)) (hu : Awaiting u h x)
    (hrun : (s.started h x).runCmd x.id h.seq c = u.reply x.id h.seq (CtlBox c) status body)
    (hl : u.framesLost h.port = false) (ho : SendsMore s u) :
    Claims.Answered s (s.command h c) x h (CtlBox c) status body ∧
      s.command h c = { u with sessions := (s.command h c).sessions, out := (s.command h c).out, waitOut := (s.command h c).waitOut } := by
  obtain ⟨y, hy, hq, hheld, htag, hport, hip, hver, -, hexp⟩ := hu
  obtain ⟨-, hyid⟩ := sess?_some hy
  let f := completion y h.seq (CtlBox c) status body
  let z := completed y h.seq f
  have hz : (u.withSess z).sess? x.id = some z := hyid ▸ sess?_withSess (y := z) (hyid ▸ hy)
  have hreply : u.reply x.id h.seq (CtlBox c) status body = (u.withSess z).emit (u.ctlOut y f) := reply_eq hy _ _ _ _
  have hidle : ∀ w ∈ (u.withSess z).sessions, w.queued = [] := fun w hw => by
    obtain rfl | hw := mem_withSess hw
    · exact hq y (sess?_some hy).1
    · exact hq w hw
  rw [command_eq hm (hrun.trans hreply) hz hidle hheld]
  refine ⟨?_, rfl⟩
  have hframe : u.ctlOut y f = u.ctlOut { x with port := h.port, expect := h.seq + 1 } f := ctlOut_congr f hport hip hver hyid hexp
  have hlost : (u.withSess z).outLost (u.ctlOut y f) = false := (congrArg u.framesLost hport).trans hl
  obtain ⟨sent, held, hsent, hheld, hout⟩ := delivered (a := u.withSess z) ho
    (sendsMore_emit (((u.withSess z).emit (u.ctlOut y f)).ctlOut z (bareFrame 4))) hlost
  rw [hframe] at hout
  exact ⟨sent, held, f, hsent, hheld, hout, rfl, rfl, rfl, htag, rfl, rfl⟩

/-- What a command comes to where it holds no bank and finds no array failing (R304, R335). -/
theorem settle_eq {t : State} (hst : t.stalled = s.stalled) (hf : t.failing = s.failing) : s.settle t = t := by
  rw [settle, if_neg (by simp [hst]), if_pos hf]

end Sys2Proof.Machine.State
end

section
/-! SUPPORT. What a register read or write leaves as it was, and that it does not depend on the sessions. -/

namespace Sys2Proof.Machine.State

variable {s : State}

/-! ### What sessions and frames leave of a register access -/

theorem shown_sessions (l : List Session) (hl : l.length = s.sessions.length) (id : RegId) (ix : List Nat) :
    ({ s with sessions := l } : State).shown id ix = s.shown id ix := by
  cases id
  case ctlStatus => simp only [shown, hl]; rfl
  all_goals rfl

theorem rampMove_sessions (l : List Session) (c : Nat) :
    ({ s with sessions := l } : State).rampMove c = { s.rampMove c with sessions := l } := by
  have hc : ({ s with sessions := l } : State).core c = s.core c := rfl
  have hr : ({ s with sessions := l } : State).regF .meaStatus (cix c) 39 32 = s.regF .meaStatus (cix c) 39 32 := rfl
  simp only [rampMove, hc, hr]
  split <;> split <;> rfl

theorem shadowsMove_sessions (l : List Session) (c : Nat) :
    ({ s with sessions := l } : State).shadowsMove c = { s.shadowsMove c with sessions := l } := by
  have hc : ({ s with sessions := l } : State).core c = s.core c := rfl
  simp only [shadowsMove, hc]
  split <;> rfl

theorem beforeRead_sessions (l : List Session) (id : RegId) (ix : List Nat) :
    ({ s with sessions := l } : State).beforeRead id ix = { s.beforeRead id ix with sessions := l } := by
  cases id
  case meaStatus => exact rampMove_sessions l _
  case sfuStatus => exact shadowsMove_sessions l _
  all_goals rfl

theorem clearRc_sessions (l : List Session) (id : RegId) (ix : List Nat) :
    ({ s with sessions := l } : State).clearRc id ix = { s.clearRc id ix with sessions := l } := by
  unfold clearRc
  split <;> rfl

theorem readDone_sessions (l : List Session) (id : RegId) (ix : List Nat) :
    ({ s with sessions := l } : State).readDone id ix = { s.readDone id ix with sessions := l } := by
  by_cases h : id = .xingStat
  · subst h; rfl
  · simpa only [readDone] using clearRc_sessions l id ix

theorem plainWrite_sessions (l : List Session) (id : RegId) (ix : List Nat) (v : Long) :
    ({ s with sessions := l } : State).plainWrite id ix v = { s.plainWrite id ix v with sessions := l } := by
  have hr : ({ s with sessions := l } : State).reg id ix = s.reg id ix := rfl
  simp only [plainWrite, hr]
  split <;> rfl

/-! ### What a register read changes (R14, R150, R230) -/

theorem onlyRegs_clearRc (id : RegId) (ix : List Nat) : OnlyRegs s (s.clearRc id ix) := by
  unfold clearRc
  split <;> rfl

theorem sameRegsBut_clearRc (id : RegId) (ix : List Nat) : SameRegsBut [id.row.addr ix] s (s.clearRc id ix) := by
  unfold clearRc
  split
  · exact sameRegsBut_refl s _
  · exact sameRegsBut_setReg s id ix _

theorem reg_clearRc_self (id : RegId) (ix : List Nat) : (s.clearRc id ix).reg id ix = s.reg id ix &&& ~~~id.row.rc := by
  unfold clearRc
  split
  next h => rw [show id.row.rc = 0#64 from h, BitVec.not_zero, BitVec.and_allOnes]
  next => exact reg_setReg_self s id ix _

theorem readDone_of_ne {id : RegId} (h : id ≠ .xingStat) (ix : List Nat) : s.readDone id ix = s.clearRc id ix := by
  simp only [readDone]

theorem readDone_frame (id : RegId) (ix : List Nat) : ∃ m xg, s.readDone id ix = { s with mrs := m, xings := xg } := by
  by_cases h : id = .xingStat
  · subst h; exact ⟨_, _, rfl⟩
  · exact ⟨_, s.xings, (readDone_of_ne h ix).trans (onlyRegs_clearRc id ix)⟩

theorem sameRegsBut_readDone (id : RegId) (ix : List Nat) : SameRegsBut [id.row.addr ix] s (s.readDone id ix) := by
  by_cases h : id = .xingStat
  · subst h; exact sameRegsBut_refl s _
  · rw [readDone_of_ne h]; exact sameRegsBut_clearRc id ix

theorem beforeRead_of_ne {id : RegId} (hm : id ≠ .meaStatus) (hs : id ≠ .sfuStatus) (ix : List Nat) : s.beforeRead id ix = s := by
  simp only [beforeRead]

theorem sessions_of_coreChanges {t : State} (h : CoreChanges s t) : t.sessions = s.sessions := by
  rw [CoreChanges] at h
  rw [h]

theorem shadowsMove_frame (c : Nat) : CoreChanges s (s.shadowsMove c) := by
  unfold shadowsMove
  split <;> rfl

theorem beforeRead_frame (id : RegId) (ix : List Nat) : CoreChanges s (s.beforeRead id ix) := by
  by_cases hm : id = .meaStatus
  · subst hm; exact rampMove_frame s _
  by_cases hs : id = .sfuStatus
  · subst hs; exact shadowsMove_frame _
  · rw [beforeRead_of_ne hm hs]; rfl

/-- A read of an address does not look at the sessions but for their number. -/
theorem mrsRead_sessions (l : List Session) (hl : l.length = s.sessions.length) (a : Nat) :
    ({ s with sessions := l } : State).mrsRead a = (s.mrsRead a).map fun r => (r.1, { r.2 with sessions := l }) := by
  by_cases ha : a % 8 = 0
  case neg => rw [mrsRead_unaligned _ ha, mrsRead_unaligned _ ha]; rfl
  cases hd : decodeAddr a with
  | none => simp [mrsRead, hd]
  | some r =>
    obtain ⟨id, ix⟩ := r
    cases hu : s.unreachable id ix with
    | true => rw [mrsRead_unreachable ha hd hu, mrsRead_unreachable ha hd (s := { s with sessions := l }) hu]; rfl
    | false =>
      have hb : (s.beforeRead id ix).sessions = s.sessions := sessions_of_coreChanges (beforeRead_frame id ix)
      rw [mrsRead_reachable ha hd hu, mrsRead_reachable ha hd (s := { s with sessions := l }) hu, beforeRead_sessions, readDone_sessions,
        shown_sessions l (hl.trans (congrArg _ hb.symm))]
      rfl

/-! ### States that have sent nothing more -/

/-- Of two states the later has sent nothing more, loses the same frames, and its command has met no held bank and no failing array. -/
structure Silent (s t : State) : Prop where
  framesLost : ∀ n, t.framesLost n = s.framesLost n
  out : t.out = s.out
  waitOut : t.waitOut = s.waitOut
  stalled : t.stalled = s.stalled
  failing : t.failing = s.failing

theorem Silent.trans {a b c : State} (h : Silent a b) (k : Silent b c) : Silent a c :=
  ⟨fun n => (k.framesLost n).trans (h.framesLost n), k.out.trans h.out, k.waitOut.trans h.waitOut, k.stalled.trans h.stalled,
    k.failing.trans h.failing⟩

theorem Silent.sendsMore {t : State} (h : Silent s t) : SendsMore s t :=
  ⟨h.out ▸ List.suffix_refl _, h.waitOut ▸ List.prefix_refl _⟩

theorem silent_refl (s : State) : Silent s s := ⟨fun _ => rfl, rfl, rfl, rfl, rfl⟩

theorem silent_sessions (l : List Session) : Silent s { s with sessions := l } := ⟨fun _ => rfl, rfl, rfl, rfl, rfl⟩

theorem silent_of_coreChanges {t : State} (h : CoreChanges s t) : Silent s t := by
  rw [CoreChanges] at h
  rw [h]
  exact ⟨fun _ => rfl, rfl, rfl, rfl, rfl⟩

theorem silent_readDone (id : RegId) (ix : List Nat) : Silent s (s.readDone id ix) := by
  by_cases h : id = .xingStat
  case neg =>
    rw [readDone_of_ne h]
    exact silent_of_coreChanges (coreChanges_of_onlyRegs (onlyRegs_clearRc id ix))
  subst h
  have hheld : ∀ x, (s.readDone .xingStat ix).xingHeld x = s.xingHeld x := fun x => by
    simp only [readDone, xingHeld, modXing, xing, FMap.get_set]
    split
    next e => rw [e]
    next => rfl
  exact ⟨fun _ => hheld _, rfl, rfl, rfl, rfl⟩

end Sys2Proof.Machine.State
end

section
/-! SUPPORT. The register commands as their sessions run them (R406, R544). -/

namespace Sys2Proof.Machine.State

variable {s : State}

/-! ### Commands that run at once -/

theorem started_sessions_length (h : CmdHdr) (x : Session) : (s.started h x).sessions.length = s.sessions.length := List.length_map _

/-- The state with other sessions and frames. -/
def talked (s : State) (l : List Session) (out waitOut : List Output) : State := { s with sessions := l, out := out, waitOut := waitOut }

/-- A command whose run from s comes to v and one completion ends in v with that completion sent. -/
theorem exec_answers {i : Instr} {v : State} {h : CmdHdr} {x : Session} {c : CtlCmd} {box status : Nat} {body : List Byte}
    (hi : exec i s = .next (s.settle (s.command h c))) (hc : CtlBox c = box) (hm : Claims.MayRun s h x box) (hv : Silent s v)
    (hrun : (s.started h x).runCmd x.id h.seq c =
      (v.talked (s.started h x).sessions v.out v.waitOut).reply x.id h.seq box status body) :
    ∃ l o w, exec i s = .next (v.talked l o w) ∧ Claims.Answered s (v.talked l o w) x h box status body := by
  subst hc
  have hl : v.framesLost h.port = false := by
    obtain ⟨hin, -⟩ := hm
    rw [hv.framesLost]
    simpa [frameIn] using (Bool.and_eq_true_iff.mp hin).2
  have hu : Awaiting (v.talked (s.started h x).sessions v.out v.waitOut) h x := awaiting_accepted hm rfl
  obtain ⟨ha, ht⟩ := command_answers hm hu hrun hl (hv.trans (silent_sessions _)).sendsMore
  have hs : s.settle (s.command h c) = s.command h c := by
    rw [ht]; exact settle_eq hv.stalled hv.failing
  exact ⟨_, _, _, by rw [hi, hs, ht]; rfl, ht ▸ ha⟩

section
variable {h : CmdHdr} {x : Session} {box : Nat} (hm : Claims.MayRun s h x box)
include hm

theorem started_ready : (s.started h x).ready = true := by
  obtain ⟨-, -, -, -, -, -, -, -, hr, -⟩ := hm
  exact hr

theorem started_sess? : (s.started h x).sess? x.id = some (accepted h [] x) := by
  obtain ⟨-, hof, -⟩ := hm
  exact sess?_withSess (x := x) (y := accepted h [] x) (sessOf_some hof)

/-! ### The register commands (R406) -/

theorem runCmd_ident (seq : Word) : (s.started h x).runCmd x.id seq .ident =
    (s.started h x).reply x.id seq 0 0 (beBytes 8 (s.reg .keepIdent []).toNat) := by
  simp only [runCmd, started_ready hm]
  rfl

theorem runCmd_regRead (seq a : Word) : (s.started h x).runCmd x.id seq (.regRead a) =
    if x.admin = true then (s.started h x).cmdRegRead x.id seq a else (s.started h x).reply x.id seq 0 4 [] := by
  simp only [runCmd, started_ready hm, started_sess? hm]
  rfl

theorem runCmd_regWrite (seq a : Word) (v : Long) : (s.started h x).runCmd x.id seq (.regWrite a v) =
    if x.admin = true then (s.started h x).cmdRegWrite x.id seq a v else (s.started h x).reply x.id seq 0 4 [] := by
  simp only [runCmd, started_ready hm, started_sess? hm]
  rfl

theorem runCmd_regReadMulti (seq : Word) (l : List Word) : (s.started h x).runCmd x.id seq (.regReadMulti l) =
    if x.version = 0x11 then if x.admin = true then (s.started h x).cmdRegMulti x.id seq l else (s.started h x).reply x.id seq 0 4 []
    else (s.started h x).reply x.id seq 0 2 [] := by
  simp only [runCmd, started_ready hm, started_sess? hm, beq_iff_eq]
  rfl
end

theorem cmdRegRead_some {a : Word} {v : Long} {t : State} (hr : s.mrsRead a.toNat = some (v, t)) (sid seq : Word) :
    s.cmdRegRead sid seq a = t.reply sid seq 0 0 (beBytes 8 v.toNat) := by
  rw [cmdRegRead, hr]

theorem cmdRegRead_none {a : Word} (hr : s.mrsRead a.toNat = none) (sid seq : Word) :
    s.cmdRegRead sid seq a = s.accessErr.reply sid seq 0 5 [] := by
  rw [cmdRegRead, hr]

theorem cmdRegWrite_some {a : Word} {v : Long} {t : State} (hw : s.mrsWrite a.toNat v = some t) (sid seq : Word) :
    s.cmdRegWrite sid seq a v = t.reply sid seq 0 0 [] := by
  rw [cmdRegWrite, hw]

theorem cmdRegWrite_none {a : Word} {v : Long} (hw : s.mrsWrite a.toNat v = none) (sid seq : Word) :
    s.cmdRegWrite sid seq a v = s.accessErr.reply sid seq 0 5 [] := by
  rw [cmdRegWrite, hw]

/-- A fold whose steps each leave the state and add their bytes leaves the state and adds the bytes of all. -/
theorem foldl_collects {α β γ : Type} {f : β × List γ → α → β × List γ} {b : β} {k : α → List γ} {l : List α}
    (hf : ∀ a ∈ l, ∀ bs, f (b, bs) a = (b, bs ++ k a)) (bs : List γ) : l.foldl f (b, bs) = (b, bs ++ l.flatMap k) := by
  induction l generalizing bs with
  | nil => simp
  | cons a t ih =>
    rw [List.foldl_cons, hf a List.mem_cons_self, ih fun c hc => hf c (List.mem_cons_of_mem a hc)]
    simp

/-- Addresses that are read and left as they are give their values in order (R544). -/
theorem cmdRegMulti_values {l : List Word} {val : Word → Long} (hne : l ≠ []) (hlen : l.length ≤ 64)
    (hr : ∀ a ∈ l, s.mrsRead a.toNat = some (val a, s)) (sid seq : Word) :
    s.cmdRegMulti sid seq l = s.reply sid seq 0 0 (l.flatMap fun a => beBytes 8 (val a).toNat) := by
  have hbad : l.filter (fun a => (s.mrsRead a.toNat).isNone) = [] := List.filter_eq_nil_iff.mpr fun a ha => by simp [hr a ha]
  have hlist : ¬ (l.isEmpty = true ∨ 64 < l.length) := by simp [hne, hlen]
  simp only [cmdRegMulti, hbad, hlist, List.length_nil, lt_irrefl, if_false]
  rw [foldl_collects (k := fun a => beBytes 8 (val a).toNat) fun a ha bs => by simp [hr a ha]]
  simp

/-- One address that cannot be read refuses the whole command, and every such address is counted (R544, R580). -/
theorem cmdRegMulti_refused {l : List Word} {a : Word} (hlen : l.length ≤ 64) (ha : a ∈ l) (hr : s.mrsRead a.toNat = none) (sid seq : Word) :
    ∃ t, OnlyRegs s t ∧ s.cmdRegMulti sid seq l = t.reply sid seq 0 5 [] := by
  have hmem : a ∈ l.filter fun a => (s.mrsRead a.toNat).isNone := List.mem_filter.mpr ⟨ha, by simp [hr]⟩
  have hlist : ¬ (l.isEmpty = true ∨ 64 < l.length) := by simp [List.ne_nil_of_mem ha, hlen]
  rw [cmdRegMulti]
  simp only [hlist, List.length_pos_of_mem hmem, if_true, if_false]
  exact ⟨_, onlyRegs_foldl _ (fun t _ => onlyRegs_accessErr t) _ s, rfl⟩

end Sys2Proof.Machine.State
end

section
/-! PROOF. IDENT and the register commands are answered (R14, R406, R544, R580). -/

namespace Sys2Proof.Machine

variable {s : State} {h : CmdHdr} {x : Session}

/-- The word that a read of an address shows; zero where no register is. -/
def shownAt (s : State) (a : Word) : Long :=
  match decodeAddr a.toNat with
  | some (id, ix) => s.shown id ix
  | none => 0

theorem shownAt_toNat (s : State) (a : Word) : (shownAt s a).toNat = Claims.valueAt s a := by
  cases hd : decodeAddr a.toNat <;> simp [shownAt, Claims.valueAt, hd]

/-- A read of such an address gives the word and leaves the state. -/
theorem mrsRead_readable {a : Word} (ha : Claims.Readable s a) : s.mrsRead a.toNat = some (shownAt s a, s) := by
  obtain ⟨ha8, id, ix, hd, hu, hrc, hid⟩ := ha
  simp only [List.mem_cons, List.not_mem_nil, or_false, not_or] at hid
  obtain ⟨hx, hmea, hsfu⟩ := hid
  have hdone : s.readDone id ix = s := (State.readDone_of_ne hx ix).trans (if_pos hrc)
  rw [State.mrsRead_reachable ha8 hd hu, State.beforeRead_of_ne hmea hsfu, hdone]
  simp [shownAt, hd]

section
variable (hm : Claims.MayRun s h x 0)
include hm

/-- IDENT (R406). -/
theorem ident_answers : ∃ t, exec (.ident h) s = .next t ∧ Claims.HostOnly s t ∧
    Claims.Answered s t x h 0 0 (beBytes 8 (s.reg .keepIdent []).toNat) := by
  obtain ⟨l, o, w, ht, ha⟩ := State.exec_answers (i := .ident h) (c := .ident) rfl rfl hm s.silent_refl (State.runCmd_ident hm h.seq)
  exact ⟨_, ht, rfl, ha⟩

/-- REG_READ and REG_WRITE alike: a session that is not administrative is refused, and so is an access that is not performed. -/
theorem registerCommand_refusals {a : Word} {v : Long} {i : Instr} (hi : i ∈ [Instr.regRead h a, .regWrite h a v]) :
    ∃ c, exec i s = .next (s.settle (s.command h c)) ∧ CtlBox c = 0 ∧
      (x.admin = false → (s.started h x).runCmd x.id h.seq c = (s.started h x).reply x.id h.seq 0 4 []) ∧
      (x.admin = true → (s.started h x).mrsRead a.toNat = none → (s.started h x).mrsWrite a.toNat v = none →
        (s.started h x).runCmd x.id h.seq c = (s.started h x).accessErr.reply x.id h.seq 0 5 []) := by
  rcases List.mem_pair.mp hi with rfl | rfl
  · refine ⟨.regRead a, rfl, rfl, fun hn => ?_, fun hadm hr _ => ?_⟩
    · simp [State.runCmd_regRead hm, hn]
    · rw [State.runCmd_regRead hm, if_pos hadm, State.cmdRegRead_none hr]
  · refine ⟨.regWrite a v, rfl, rfl, fun hn => ?_, fun hadm _ hw => ?_⟩
    · simp [State.runCmd_regWrite hm, hn]
    · rw [State.runCmd_regWrite hm, if_pos hadm, State.cmdRegWrite_none hw]

/-- A session that is not administrative is answered NOT_ADMIN (R406). -/
theorem registerCommand_notAdmin (hn : x.admin = false) (a : Word) (v : Long) (i : Instr) (hi : i ∈ [Instr.regRead h a, .regWrite h a v]) :
    ∃ t, exec i s = .next t ∧ Claims.HostOnly s t ∧ Claims.Answered s t x h 0 4 [] := by
  obtain ⟨c, hx, hc, hrun, -⟩ := registerCommand_refusals hm hi
  obtain ⟨l, o, w, ht, ha⟩ := State.exec_answers hx hc hm s.silent_refl (hrun hn)
  exact ⟨_, ht, rfl, ha⟩

/-- REG_READ_MULTI is not of version 1.0 (R406). -/
theorem regReadMulti_unversioned (hv : x.version = 0x10) (l : List Word) :
    ∃ t, exec (.regReadMulti h l) s = .next t ∧ Claims.HostOnly s t ∧ Claims.Answered s t x h 0 2 [] := by
  have hrun := (State.runCmd_regReadMulti hm h.seq l).trans (if_neg (by simp [hv]))
  obtain ⟨l, o, w, ht, ha⟩ := State.exec_answers (i := .regReadMulti h l) (c := .regReadMulti l) rfl rfl hm s.silent_refl hrun
  exact ⟨_, ht, rfl, ha⟩

section
variable (hadm : x.admin = true)
include hadm

/-- REG_READ of a register that can be reached: its value, and its RC fields are cleared (R14, R544). -/
theorem regRead_answers {a : Word} {id : RegId} {ix : List Nat} (hd : decodeAddr a.toNat = some (id, ix)) (ha : a.toNat % 8 = 0)
    (hu : s.unreachable id ix = false) :
    ∃ t, exec (.regRead h a) s = .next t ∧ Claims.Answered s t x h 0 0 (beBytes 8 ((s.beforeRead id ix).shown id ix).toNat) ∧
      t = { s.beforeRead id ix with mrs := t.mrs, xings := t.xings, sessions := t.sessions, out := t.out, waitOut := t.waitOut } ∧
      SameRegsBut [id.row.addr ix] (s.beforeRead id ix) t ∧ (id ≠ .meaStatus → id ≠ .sfuStatus → s.beforeRead id ix = s) ∧
      (id ≠ .xingStat → t.reg id ix = (s.beforeRead id ix).reg id ix &&& ~~~id.row.rc) := by
  have hread : (s.started h x).mrsRead a.toNat = some ((s.beforeRead id ix).shown id ix,
      { (s.beforeRead id ix).readDone id ix with sessions := (s.started h x).sessions }) :=
    (State.mrsRead_sessions _ (State.started_sessions_length h x) _).trans (congrArg _ (State.mrsRead_reachable ha hd hu))
  have hrun := ((State.runCmd_regRead hm h.seq a).trans (if_pos hadm)).trans (State.cmdRegRead_some hread x.id h.seq)
  have hv : State.Silent s ((s.beforeRead id ix).readDone id ix) :=
    (State.silent_of_coreChanges (State.beforeRead_frame id ix)).trans (State.silent_readDone id ix)
  obtain ⟨l, o, w, ht, hans⟩ := State.exec_answers (i := .regRead h a) (c := .regRead a) rfl rfl hm hv hrun
  refine ⟨_, ht, hans, ?_, State.sameRegsBut_readDone (s := s.beforeRead id ix) id ix,
    fun hmea hsfu => State.beforeRead_of_ne hmea hsfu ix, fun hx => ?_⟩
  · obtain ⟨m, xg, hf⟩ := State.readDone_frame (s := s.beforeRead id ix) id ix
    rw [hf]
    rfl
  · exact (congrArg (State.reg · id ix) (State.readDone_of_ne hx ix)).trans (State.reg_clearRc_self id ix)

/-- REG_WRITE of a register without a rule of its own writes by the access codes (R14). -/
theorem regWrite_answers {a : Word} {id : RegId} {ix : List Nat} (hd : decodeAddr a.toNat = some (id, ix)) (ha : a.toNat % 8 = 0)
    (hu : s.unreachable id ix = false) (v : Long) (hid : id ∈ plainIds) (hr : s.romOnly = false) :
    ∃ t, exec (.regWrite h a v) s = .next t ∧ Claims.Answered s t x h 0 0 [] ∧
      t = { s with mrs := t.mrs, sessions := t.sessions, out := t.out, waitOut := t.waitOut } ∧ SameRegsBut [id.row.addr ix] s t ∧
      t.reg id ix = ((s.reg id ix &&& ~~~id.row.rw) ||| (v &&& id.row.rw)) &&& ~~~(v &&& id.row.w1c) := by
  have hwrite : (s.started h x).mrsWrite a.toNat v =
      some { s.plainWrite id ix v with sessions := (s.started h x).sessions } :=
    ((State.mrsWrite_reachable (s := s.started h x) ha hd hu hr v).trans (State.regWritten_plain _ hid ix v)).trans
      (congrArg some (State.plainWrite_sessions _ id ix v))
  have hrun := ((State.runCmd_regWrite hm h.seq a v).trans (if_pos hadm)).trans (State.cmdRegWrite_some hwrite x.id h.seq)
  have hf := s.onlyRegs_plainWrite id ix v
  obtain ⟨l, o, w, ht, hans⟩ := State.exec_answers (i := .regWrite h a v) (c := .regWrite a v) rfl rfl hm
    (State.silent_of_coreChanges (State.coreChanges_of_onlyRegs hf)) hrun
  refine ⟨_, ht, hans, ?_, s.sameRegsBut_plainWrite id ix v, s.reg_plainWrite_self id ix v⟩
  rw [hf]
  rfl

/-- An address that cannot be reached is answered ACCESS and counted (R580). -/
theorem registerCommand_unreachable {a : Word} {id : RegId} {ix : List Nat} (hd : decodeAddr a.toNat = some (id, ix)) (ha : a.toNat % 8 = 0)
    (hu : s.unreachable id ix = true) (v : Long) (i : Instr) (hi : i ∈ [Instr.regRead h a, .regWrite h a v]) :
    ∃ t, exec i s = .next t ∧ Claims.Answered s t x h 0 5 [] ∧
      t.regF .keepStatus [] 31 16 = min (s.regF .keepStatus [] 31 16 + 1) 0xFFFF ∧ SameRegsBut [RegId.keepStatus.row.base] s t := by
  obtain ⟨c, hx, hc, -, hrun⟩ := registerCommand_refusals hm hi
  obtain ⟨l, o, w, ht, hans⟩ := State.exec_answers hx hc hm (State.silent_of_coreChanges (State.coreChanges_of_onlyRegs s.onlyRegs_accessErr))
    (hrun hadm (State.mrsRead_unreachable (s := s.started h x) ha hd hu) (State.mrsWrite_unreachable (s := s.started h x) ha hd hu v))
  exact ⟨_, ht, hans, s.regF_accessErr_count, s.sameRegsBut_accessErr⟩

/-- REG_READ_MULTI of addresses that can be read gives every value in order under version 1.1 (R544). -/
theorem regReadMulti_answers (hv : x.version = 0x11) {l : List Word} (hne : l ≠ []) (hlen : l.length ≤ 64)
    (hl : ∀ a ∈ l, Claims.Readable s a) :
    ∃ t, exec (.regReadMulti h l) s = .next t ∧ Claims.HostOnly s t ∧
      Claims.Answered s t x h 0 0 (l.flatMap fun a => beBytes 8 (Claims.valueAt s a)) := by
  have hread : ∀ a ∈ l, (s.started h x).mrsRead a.toNat = some (shownAt s a, s.started h x) := fun a ha =>
    (State.mrsRead_sessions _ (State.started_sessions_length h x) _).trans (congrArg _ (mrsRead_readable (hl a ha)))
  have hrun := ((State.runCmd_regReadMulti hm h.seq l).trans (if_pos hv)).trans ((if_pos hadm).trans
    (State.cmdRegMulti_values hne hlen hread x.id h.seq))
  obtain ⟨l', o, w, ht, ha⟩ := State.exec_answers (i := .regReadMulti h l) (c := .regReadMulti l) rfl rfl hm s.silent_refl hrun
  refine ⟨_, ht, rfl, ?_⟩
  simpa only [shownAt_toNat, CtlBox] using ha

/-- One address that cannot be accessed refuses REG_READ_MULTI (R580). -/
theorem regReadMulti_refused (hv : x.version = 0x11) {l : List Word} {a : Word} (hlen : l.length ≤ 64) (hmem : a ∈ l)
    (ha : a.toNat % 8 ≠ 0) : ∃ t, exec (.regReadMulti h l) s = .next t ∧ Claims.Answered s t x h 0 5 [] := by
  obtain ⟨t, ho, hmulti⟩ := State.cmdRegMulti_refused (s := s.started h x) hlen hmem (State.mrsRead_unaligned _ ha) x.id h.seq
  have hrun := ((State.runCmd_regReadMulti hm h.seq l).trans (if_pos hv)).trans ((if_pos hadm).trans hmulti)
  have ht : t = t.talked (s.started h x).sessions t.out t.waitOut := by
    rw [OnlyRegs] at ho
    rw [ho]; rfl
  obtain ⟨l', o, w, hx, hans⟩ := State.exec_answers (i := .regReadMulti h l) (v := t) (c := .regReadMulti l) rfl rfl hm
    ((State.silent_sessions _).trans (State.silent_of_coreChanges (State.coreChanges_of_onlyRegs ho))) (ht ▸ hrun)
  exact ⟨_, hx, hans⟩

end
end

end Sys2Proof.Machine

open Sys2Proof Sys2Proof.Machine

/-- Settles O46: the command reaches its register access with the sessions alone changed, and the answer adds frames alone. -/
theorem registersAreReadAndWritten : Obligations.RegistersAreReadAndWritten := by
  intro s h x hm
  refine ⟨ident_answers hm, fun hadm a id ix hd ha => ⟨fun hu => ⟨?_, ?_⟩, ?_⟩, ?_, ?_, ?_, ?_⟩
  · exact regRead_answers hm hadm hd ha hu
  · exact fun v hid hr => regWrite_answers hm hadm hd ha hu v hid hr
  · exact fun hu v i hi => registerCommand_unreachable hm hadm hd ha hu v i hi
  · exact fun hadm hv l hne hlen hl => regReadMulti_answers hm hadm hv hne hlen hl
  · exact fun hadm hv a l hlen hmem ha => regReadMulti_refused hm hadm hv hlen hmem ha
  · exact fun hv l => regReadMulti_unversioned hm hv l
  · exact fun hn a v i hi => registerCommand_notAdmin hm hn a v i hi
end

section
/-! PROOF. The clusters' list: a key goes in front of a higher one whatever stands behind it, so that a list without repeats whose keys
do not rise may come to hold one (R22, R23). -/

namespace Sys2Proof

/-- `FMap.set` looks no further than a front key above its own. -/
theorem FMap.set_of_lt_head {α : Type} {k j : Nat} (h : k < j) (v w : α) (t : FMap α) :
    FMap.set ((j, w) :: t) k v = (k, v) :: (j, w) :: t := if_pos h

namespace Machine

/-- An update of a cluster that stands behind a higher-numbered front lists that cluster again. -/
theorem State.not_clustersOk_modCl {s : State} {j : Nat} {k : Cluster} {l : FMap Cluster} {c : Nat} (hs : s.clusters = (j, k) :: l)
    (hj : c < j) (hc : c ∈ l.map (·.1)) (f : Cluster → Cluster) : ¬ Claims.ClustersOk (s.modCl c f) := by
  have hset : (s.modCl c f).clusters = (c, f (s.cl c)) :: (j, k) :: l := by
    rw [State.modCl, hs]
    exact FMap.set_of_lt_head hj _ _ _
  rw [Claims.ClustersOk, hset, List.map_cons, List.nodup_cons]
  exact fun hn => hn.1 (List.mem_cons_of_mem _ hc)

/-- A beat of the Confluence, where the cluster's common is on, updates that cluster's entry of the list and no other (R305). -/
theorem State.clusters_confArb {s : State} {cl : Nat} (hon : s.blockOff (128 + cl) = false) (res : Nat) (arrivals : List (Nat × Nat))
    (withdrawn : Bool) : ∃ f, (s.confArb cl res arrivals withdrawn).clusters = (s.modCl cl f).clusters := by
  rw [State.confArb, if_neg (by simp [hon])]
  dsimp only
  split
  · exact ⟨_, rfl⟩
  · split
    · exact ⟨_, (State.bumpBy_clusters ..).trans (State.setRegF_clusters ..)⟩
    · exact ⟨_, State.setRegF_clusters ..⟩

/-- After reset, but with clusters 1 and 0 listed in falling order. -/
def fallingClusters : State := { State.reset with clusters := [(1, Cluster.idle), (0, Cluster.idle)] }

theorem clustersOk_fallingClusters : Claims.ClustersOk fallingClusters := by
  unfold Claims.ClustersOk
  decide

/-- A beat of cluster 0's Confluence lists that cluster in front of cluster 1 and leaves its old entry behind. -/
theorem not_clustersOk_beat : ¬ Claims.ClustersOk (fallingClusters.confArb 0 0 [] false) := by
  obtain ⟨f, hf⟩ := State.clusters_confArb (s := fallingClusters) (cl := 0) (by decide +kernel) 0 [] false
  rw [Claims.ClustersOk, hf]
  exact State.not_clustersOk_modCl (s := fallingClusters) rfl Nat.zero_lt_one (List.mem_singleton.mpr rfl) f

end Machine
end Sys2Proof

open Sys2Proof Sys2Proof.Machine

/-- Refutes O44: a list without repeats whose keys do not rise need not stay without repeats. With clusters 1 and 0 listed in that order, a
beat of cluster 0's Confluence lists cluster 0 twice. Rising keys `FMap.set` keeps rising (`pairwise_set`), but the statement does not ask
for them before the step. -/
theorem not_noClusterIsListedTwice : ¬ Obligations.NoClusterIsListedTwice := by
  rintro ⟨-, hstep⟩
  have hbeat : step { fallingClusters with pending := [.confluenceArbitration 0 0 [] false] } = .next (fallingClusters.confArb 0 0 [] false) :=
    stepRunsFrontCommand (.confluenceArbitration 0 0 [] false) fallingClusters
  refine not_clustersOk_beat (hstep _ _ ?_ hbeat)
  exact clustersOk_fallingClusters
end

section
/-! SUPPORT. What every firing and every halt leaves as it was: the memories, the registers but for the counters, and of a partition its step
barrier and the record of its halt (R71, R84, R87, R88, R540, R541). -/

namespace Sys2Proof.Machine.State

variable {s t u : State} {p : Nat}

/-! ### The memories -/

/-- The memories, the arrays found failing and whether a bank is held are as before. -/
structure MemKept (s t : State) : Prop where
  fast : t.fast = s.fast
  slow : t.slow = s.slow
  vats : t.vats = s.vats
  pools : t.pools = s.pools
  failing : t.failing = s.failing
  stalled : t.stalled = s.stalled

theorem MemKept.trans (h : MemKept s t) (k : MemKept t u) : MemKept s u :=
  ⟨k.fast.trans h.fast, k.slow.trans h.slow, k.vats.trans h.vats, k.pools.trans h.pools, k.failing.trans h.failing, k.stalled.trans h.stalled⟩

theorem memKept_of_coreChanges (h : CoreChanges s t) : MemKept s t := by
  rw [CoreChanges] at h
  rw [h]
  exact ⟨rfl, rfl, rfl, rfl, rfl, rfl⟩

theorem memKept_of_onlyRegs (h : OnlyRegs s t) : MemKept s t := memKept_of_coreChanges (coreChanges_of_onlyRegs h)

theorem memKept_of_haltChanges (h : HaltChanges s t) : MemKept s t := by
  rw [HaltChanges] at h
  rw [h]
  exact ⟨rfl, rfl, rfl, rfl, rfl, rfl⟩

theorem MemKept.bankOf (h : MemKept s t) (pl : Place) : t.bankOf pl = s.bankOf pl := by
  cases pl <;> simp only [State.bankOf, vat, pool, h.vats, h.pools]

theorem MemKept.sameMem (h : MemKept s t) : SameMem s t := by
  intro pl a
  cases pl <;> simp only [cells, vat, pool, h.fast, h.slow, h.vats, h.pools]

/-- A command that leaves the memories so comes to its whole effect (R304, R335). -/
theorem MemKept.settle (h : MemKept s t) : s.settle t = t := settle_eq h.stalled h.failing

/-! ### The registers but for the counters -/

theorem sameRegsBut_trans {l m : List Nat} (h : SameRegsBut l s t) (k : SameRegsBut m t u) : SameRegsBut (l ++ m) s u := fun a d ha => by
  rw [List.mem_append, not_or] at ha
  exact (k a d ha.2).trans (h a d ha.1)

theorem sameRegsBut_mono {l m : List Nat} (h : SameRegsBut l s t) (hlm : l ⊆ m) : SameRegsBut m s t := fun a d ha => h a d fun hl => ha (hlm hl)

theorem reg_of_sameRegsBut {l : List Nat} (h : SameRegsBut l s t) {id : RegId} {ix : List Nat} (ha : id.row.addr ix ∉ l) :
    t.reg id ix = s.reg id ix := h _ _ ha

/-- Steps that each leave every register outside a list leave them together. -/
theorem sameRegsBut_foldl {α : Type} {l : List Nat} {f : State → α → State} {as : List α} (hf : ∀ s, ∀ a ∈ as, SameRegsBut l s (f s a)) :
    SameRegsBut l s (as.foldl f s) :=
  List.foldlRecOn as f (sameRegsBut_refl s l) fun t ht a ha => sameRegsBut_mono (sameRegsBut_trans ht (hf t a ha)) (by simp)

theorem sameRegsBut_countOne (cnt ovf : RegId) (cx : List Nat) (j add : Nat) :
    SameRegsBut [ovf.row.addr cx, cnt.row.addr (cx ++ [j])] s (s.countOne cnt ovf cx j add) := by
  rw [countOne]
  split
  · exact sameRegsBut_mono (sameRegsBut_setReg s cnt (cx ++ [j]) _) (by simp)
  · exact sameRegsBut_mono (sameRegsBut_trans (sameRegsBut_setReg s cnt (cx ++ [j]) _) (sameRegsBut_setReg _ ovf cx _)) (by simp)

/-- The addresses of core c's event counters and of their overflow flags, which its events move (R540). -/
def coreCounters (c : Nat) : List Nat := RegId.pmcOvf.row.addr (cix c) :: (List.range 8).map fun j => RegId.pmcCnt.row.addr (cix c ++ [j])

theorem sameRegsBut_pmc (c ev n : Nat) : SameRegsBut (coreCounters c) s (s.pmc c ev n) := by
  refine sameRegsBut_foldl fun t j hj => ?_
  split
  · exact sameRegsBut_refl t _
  · refine sameRegsBut_mono (sameRegsBut_countOne _ _ _ _ _) (List.cons_subset_cons _ ?_)
    exact List.cons_subset.mpr ⟨List.mem_map_of_mem hj, List.nil_subset _⟩

theorem sameRegsBut_dieCount {j : Nat} (hj : j < 8) (ev n : Nat) : SameRegsBut dieCounters s (s.dieCount j ev n) := by
  have hsub : [RegId.dieOvf.row.addr [], RegId.dieCnt.row.addr ([] ++ [j])] ⊆ dieCounters :=
    List.cons_subset_cons _ (List.cons_subset.mpr ⟨List.mem_map_of_mem (List.mem_range.mpr hj), List.nil_subset _⟩)
  rw [dieCount]
  split
  · exact sameRegsBut_mono (sameRegsBut_countOne _ _ _ _ _) hsub
  · split
    · exact sameRegsBut_refl s _
    · exact sameRegsBut_mono (sameRegsBut_countOne (s := { s with dieSeen := _ }) _ _ _ _ _) hsub

theorem sameRegsBut_pmcDie (ev unit n : Nat) : SameRegsBut dieCounters s (s.pmcDie ev unit n) := by
  refine sameRegsBut_foldl fun t j hj => ?_
  split
  · exact sameRegsBut_refl t _
  · exact sameRegsBut_dieCount (List.mem_range.mp hj) ev n

/-- A core's counters stand in the clusters' part of the register map, below the registers of vats and pools (R579). -/
theorem range_of_mem_coreCounters {a c : Nat} (h : a ∈ coreCounters c) : 0x01006008 ≤ a ∧ a % 0x1000000 < 0x800000 := by
  simp only [coreCounters, List.mem_cons, List.mem_map, List.mem_range] at h
  rcases h with rfl | ⟨j, hj, rfl⟩
  · simp [RegRow.addr, RegId.row, cix, sumN]
    omega
  · simp [RegRow.addr, RegId.row, cix, sumN]
    omega

theorem le_of_mem_dieCounters {a : Nat} (h : a ∈ dieCounters) : a ≤ 0x90080 := by
  simp only [dieCounters, List.mem_cons, List.mem_map, List.mem_range] at h
  rcases h with rfl | ⟨j, hj, rfl⟩
  · simp [RegRow.addr, RegId.row, sumN]
  · simp [RegRow.addr, RegId.row, sumN]
    omega

theorem base_le_addr (r : RegRow) (ix : List Nat) : r.base ≤ r.addr ix := Nat.le_add_right _ _

/-! ### The partitions' states (R587) -/

theorem partStates_addr_ne {id : RegId} (h : 0x200 < id.row.base) (ix : List Nat) : RegId.keepPartState.row.addr [] ≠ id.row.addr ix :=
  (h.trans_le (base_le_addr _ ix)).ne

theorem partStates_not_mem_coreCounters (c : Nat) : RegId.keepPartState.row.addr [] ∉ coreCounters c := fun h => by
  have := (range_of_mem_coreCounters h).1
  simp [RegRow.addr, RegId.row, sumN] at this

/-- KEEP_PART_STATE holds the states of 16 partitions and no more. -/
theorem lt_of_isRunning (h : s.isRunning p = true) : p < 16 := by
  by_contra hp
  have hz : s.pstate p = 0 := by
    have hlt : (s.reg .keepPartState []).toNat < 2 ^ (4 * p) :=
      (s.reg .keepPartState []).isLt.trans_le (Nat.pow_le_pow_right (by omega) (by omega))
    simp [pstate, regF, getF, fld, Nat.shiftRight_eq_div_pow, Nat.div_eq_of_lt hlt]
  simp [isRunning, hz] at h

theorem pstate_setPstate_self (hp : p < 16) (v : Nat) : (s.setPstate p v).pstate p = v % 16 := by
  have hw : 4 * p + 3 + 1 - 4 * p = 4 := by omega
  rw [pstate, setPstate, regF_setRegF_self _ _ _ _ _ _ (by omega) (by omega), hw]
  rfl

theorem pstate_setPstate_ne {q : Nat} (hq : q < 16) (h : p ≠ q) (v : Nat) : (s.setPstate q v).pstate p = s.pstate p :=
  regF_setRegF_apart s _ _ _ _ _ _ _ (by omega) (by omega) (by omega)

end Sys2Proof.Machine.State
end

section
/-! SUPPORT. A halt stands: it begins with its record, and no other halt, report or further fault changes its partition's state, its step
barrier or, but for MORE, its record (R84, R87, R88). -/

namespace Sys2Proof.Machine

/-- A fault record but for MORE, which later faults of the halt raise (R88). -/
def FaultRec.first (r : FaultRec) : FaultRec := { r with more := 0 }

/-- What a partition's halt and step barrier turn on, but for MORE. -/
def Part.standing (x : Part) : Word × List Word × List Word × Option FaultRec :=
  (x.step, x.barriers, x.collected, x.fault.map FaultRec.first)

namespace State

variable {s t u : State} {p q : Nat}

/-! ### What reports leave -/

/-- The partitions' states are as before, and so is what partition p's halt and barrier turn on. -/
structure PartStands (p : Nat) (s t : State) : Prop where
  states : t.reg .keepPartState [] = s.reg .keepPartState []
  part : (t.part p).standing = (s.part p).standing

theorem partStands_refl (s : State) : PartStands p s s := ⟨rfl, rfl⟩

theorem PartStands.trans (h : PartStands p s t) (k : PartStands p t u) : PartStands p s u := ⟨k.states.trans h.states, k.part.trans h.part⟩

theorem PartStands.pstate (h : PartStands p s t) (q : Nat) : t.pstate q = s.pstate q := by
  rw [State.pstate, regF, h.states]
  rfl

theorem partStands_of_parts (hs : t.reg .keepPartState [] = s.reg .keepPartState []) (hp : t.parts = s.parts) : PartStands p s t :=
  ⟨hs, by rw [part, hp]; rfl⟩

theorem partStands_modPart {f : Part → Part} (hf : ∀ x, (f x).standing = x.standing) : PartStands p s (s.modPart q f) := by
  refine ⟨rfl, ?_⟩
  by_cases h : p = q
  · rw [h, part_modPart_self, hf]
  · rw [part_modPart_ne _ _ _ h]

theorem parts_of_onlyRegs (h : OnlyRegs s t) : t.parts = s.parts := by
  rw [OnlyRegs] at h
  rw [h]

theorem partStands_pmc (c ev n : Nat) : PartStands p s (s.pmc c ev n) :=
  partStands_of_parts (reg_of_sameRegsBut (sameRegsBut_pmc c ev n) (partStates_not_mem_coreCounters c)) (parts_of_onlyRegs (pmc_frame s c ev n))

theorem partStands_foldl {α : Type} {f : State → α → State} (hf : ∀ s a, PartStands p s (f s a)) (l : List α) (s : State) :
    PartStands p s (l.foldl f s) := foldl_rel (PartStands p) partStands_refl (fun h k => h.trans k) f hf l s

theorem partStands_event (mailbox code : Nat) (body : List Byte) : PartStands p s (s.event mailbox code body) := partStands_of_parts rfl rfl

theorem partStands_record (severity code : Nat) (part : Option Nat) (unit : Nat) (step : Option Word) (addr : Option Nat) (detail : List Byte) :
    PartStands p s (s.record severity code part unit step addr detail) := by
  have hst : RegId.keepPartState.row.addr [] ≠ RegId.keepStatus.row.addr [] := by decide
  have hset : ∀ (u : State) hi lo v, PartStands p u (u.setRegF .keepStatus [] hi lo v) := fun u hi lo v =>
    partStands_of_parts (reg_setRegF_ne u _ _ _ _ hi lo v hst) rfl
  have hkeeper : ∀ k, PartStands p s { s with keeper := k } := fun _ => partStands_of_parts rfl rfl
  rw [record]
  split
  · exact ((hkeeper _).trans (hset _ _ _ _)).trans (hset _ _ _ _)
  · exact (((hkeeper _).trans (hset _ _ _ _)).trans (hset _ _ _ _)).trans (partStands_event _ _ _)

theorem partStands_reply (sid seq : Word) (mailbox status : Nat) (body : List Byte) : PartStands p s (s.reply sid seq mailbox status body) := by
  rw [reply]
  split
  · exact partStands_refl s
  · exact partStands_of_parts rfl rfl

theorem partStands_tellHalt (q : Nat) : PartStands p s (s.tellHalt q) := by
  have htold : PartStands p s (s.modPart q fun x => { x with untold := false }) := partStands_modPart fun _ => rfl
  rw [tellHalt]
  split
  · split
    · exact (htold.trans (partStands_event _ _ _)).trans (partStands_record _ _ _ _ _ _ _)
    · exact partStands_refl s
  · exact partStands_refl s

theorem partStands_reportFallback (q step : Nat) : PartStands p s (s.reportFallback q step) := by
  have htold : PartStands p s (s.modPart q fun x => { x with flagged := x.flagged.erase step }) := partStands_modPart fun _ => rfl
  rw [reportFallback]
  split
  · exact partStands_refl s
  · exact htold.trans (partStands_record _ _ _ _ _ _ _)

theorem partStands_reportAll (q : Nat) : PartStands p s (s.reportAll q) := partStands_foldl (fun _ _ => partStands_reportFallback _ _) _ s

theorem partStands_haltDone (q : Nat) : PartStands p s (s.haltDone q) := by
  have hdone : PartStands p s (s.modPart q fun x => { x with halting := false, haltFor := [] }) := partStands_modPart fun _ => rfl
  rw [haltDone]
  dsimp only
  split
  · refine ((hdone.trans (partStands_tellHalt q)).trans (partStands_reportAll q)).trans ?_
    exact partStands_foldl (fun _ _ => partStands_reply _ _ _ _ _) _ _
  · exact partStands_refl s

theorem partStands_moreFault (q : Nat) : PartStands p s (s.moreFault q) := by
  refine partStands_modPart fun x => ?_
  cases hx : x.fault <;> simp [Part.standing, FaultRec.first, hx]

/-! ### What other halts leave of a halted partition -/

/-- A partition that is halted stays so, with its record and its barrier. -/
def HaltStands (p : Nat) (s t : State) : Prop := s.pstate p = 3 → t.pstate p = 3 ∧ (t.part p).standing = (s.part p).standing

theorem haltStands_refl (s : State) : HaltStands p s s := fun h => ⟨h, rfl⟩

theorem haltStands_trans (h : HaltStands p s t) (k : HaltStands p t u) : HaltStands p s u := fun h3 => by
  obtain ⟨ht, hst⟩ := h h3
  obtain ⟨hu, htu⟩ := k ht
  exact ⟨hu, htu.trans hst⟩

theorem PartStands.haltStands (h : PartStands p s t) : HaltStands p s t := fun h3 => ⟨(h.pstate p).trans h3, h.part⟩

/-- The halt of a running partition leaves another that is halted. -/
theorem haltStands_haltOne (q : Nat) (r : FaultRec) : HaltStands p s (s.haltOne q r) := by
  rw [haltOne]
  split
  next hr =>
    refine haltStands_trans (fun h3 => ?_) (partStands_haltDone q).haltStands
    have hpq : p ≠ q := fun h => by subst h; simp [isRunning, h3] at hr
    exact ⟨(pstate_setPstate_ne (lt_of_isRunning hr) hpq 3).trans h3, by rw [setPstate, part_setRegF, part_modPart_ne _ _ _ hpq]⟩
  next => exact haltStands_refl s

/-- The state in which an entry has faulted on core c, which fires nothing more, before the partition's halt (R84, R85). -/
def faultedAt (s : State) (c : Nat) (e : Entry) : State :=
  let t := (s.modEntry c e.uid fun x => { x with phase := .faulted, bound := [] }).modCore c stopCore
  { t with held := t.held.filter fun h => decide (h.storer ≠ (c, e.uid)) }

theorem partStands_faultedAt (c : Nat) (e : Entry) : PartStands p s (s.faultedAt c e) := partStands_of_parts rfl rfl

theorem faultOne_running {c : Nat} (hc : (s.core c).part = some p) (hr : s.isRunning p = true) (e : Entry) (cause : Nat) (index : Word)
    (addr : Option Nat) : s.faultOne c e cause index addr = (s.faultedAt c e).haltOne p (faultRec c e cause index addr) := by
  simp only [faultOne, hc, hr, if_true]
  rfl

theorem faultOne_stopped {c : Nat} (hc : (s.core c).part = some p) (hr : s.isRunning p = false) (e : Entry) (cause : Nat) (index : Word)
    (addr : Option Nat) : s.faultOne c e cause index addr = ((s.faultedAt c e).moreFault p).haltDone p := by
  simp only [faultOne, hc, hr, Bool.false_eq_true, if_false]
  rfl

theorem faultOne_unheld {c : Nat} (hc : (s.core c).part = none) (e : Entry) (cause : Nat) (index : Word) (addr : Option Nat) :
    s.faultOne c e cause index addr = s.faultedAt c e := by
  simp only [faultOne, hc]
  rfl

theorem haltStands_faultOne (c : Nat) (e : Entry) (cause : Nat) (index : Word) (addr : Option Nat) :
    HaltStands p s (s.faultOne c e cause index addr) := by
  have hfaulted : HaltStands p s (s.faultedAt c e) := (partStands_faultedAt c e).haltStands
  cases hc : (s.core c).part with
  | none => exact faultOne_unheld hc .. ▸ hfaulted
  | some q =>
    cases hr : s.isRunning q with
    | true => exact faultOne_running hc hr .. ▸ haltStands_trans hfaulted (haltStands_haltOne _ _)
    | false =>
      exact faultOne_stopped hc hr .. ▸ haltStands_trans hfaulted ((partStands_moreFault q).trans (partStands_haltDone q)).haltStands

theorem haltStands_peerFaults (fuel : Nat) : ∀ (s : State) (ps : List Nat), HaltStands p s (peerFaults fuel s ps) := by
  induction fuel with
  | zero => exact fun s _ => haltStands_refl s
  | succ n ih =>
    intro s ps
    cases ps with
    | nil => exact haltStands_refl s
    | cons q rest =>
      rw [peerFaults]
      refine haltStands_trans (foldl_rel (HaltStands p) haltStands_refl (fun h k => haltStands_trans h k) _ (fun t w => ?_) _ s) (ih _ _)
      have hwait : PartStands p t (t.modPart w.1 fun x => { x with xwaits := x.xwaits.filter fun v => decide (v ≠ w.2) }) :=
        partStands_modPart fun _ => rfl
      dsimp only
      split
      · exact haltStands_trans hwait.haltStands (haltStands_faultOne _ _ _ _ _)
      · exact hwait.haltStands

/-! ### A halt begins -/

/-- Partition p is halted with a record, which may have counted further faults in MORE (R87, R88). -/
def HaltedBy (p : Nat) (r : FaultRec) (s : State) : Prop := s.pstate p = 3 ∧ (s.part p).fault.map FaultRec.first = some r.first

theorem HaltedBy.stands {r : FaultRec} (h : HaltedBy p r s) (k : HaltStands p s t) : HaltedBy p r t := by
  obtain ⟨h3, hf⟩ := h
  obtain ⟨ht, hst⟩ := k h3
  exact ⟨ht, (congrArg (fun x => x.2.2.2) hst).trans hf⟩

/-- The record that the halt began with, but for MORE. -/
theorem HaltedBy.fault {r : FaultRec} (h : HaltedBy p r s) : ∃ m, (s.part p).fault = some { r with more := m } := by
  obtain ⟨-, hf⟩ := h
  obtain ⟨x, hx, hxr⟩ := Option.map_eq_some_iff.mp hf
  refine ⟨x.more, hx.trans (congrArg some ?_)⟩
  calc x = { x.first with more := x.more } := rfl
    _ = { r with more := x.more } := by rw [hxr]; rfl

theorem haltedBy_haltOne (hr : s.isRunning p = true) (r : FaultRec) : HaltedBy p r (s.haltOne p r) := by
  rw [haltOne, if_pos hr]
  refine HaltedBy.stands ⟨pstate_setPstate_self (lt_of_isRunning hr) 3, ?_⟩ (partStands_haltDone p).haltStands
  rw [setPstate, part_setRegF, part_modPart_self]
  rfl

/-- An instruction's fault halts the running partition of its core, with its record (R84, R87). -/
theorem haltedBy_fault {c : Nat} (hc : (s.core c).part = some p) (hr : s.isRunning p = true) (e : Entry) (cause : Nat) (index : Word)
    (addr : Option Nat) : HaltedBy p (faultRec c e cause index addr) (s.fault c e cause index addr) := by
  have hone : HaltedBy p (faultRec c e cause index addr) (s.faultOne c e cause index addr) :=
    faultOne_running hc hr .. ▸ haltedBy_haltOne (s := s.faultedAt c e) hr _
  simp only [fault, hc, hr, if_true]
  exact hone.stands (haltStands_peerFaults _ _ _)

end State
end Sys2Proof.Machine
end

section
/-! PROOF. The release of a step barrier (R71, R120, R402). -/

namespace Sys2Proof.Machine.State

variable {s t : State} {p : Nat}

theorem memKept_refl (s : State) : MemKept s s := ⟨rfl, rfl, rfl, rfl, rfl, rfl⟩

theorem memKept_modCore (c : Nat) (f : Core → Core) : MemKept s (s.modCore c f) := memKept_of_haltChanges (haltChanges_modCore s c f)

theorem memKept_modPart (q : Nat) (f : Part → Part) : MemKept s (s.modPart q f) := memKept_of_haltChanges (haltChanges_modPart s q f)

theorem partStands_modCore (c : Nat) (f : Core → Core) : PartStands p s (s.modCore c f) := partStands_of_parts rfl rfl

/-- Neither the memories nor what partition p's halt and barrier turn on has moved. -/
structure Quiet (p : Nat) (s t : State) : Prop where
  stands : PartStands p s t
  mem : MemKept s t

theorem quiet_refl (s : State) : Quiet p s s := ⟨partStands_refl s, memKept_refl s⟩

theorem quiet_trans {u : State} (h : Quiet p s t) (k : Quiet p t u) : Quiet p s u := ⟨h.stands.trans k.stands, h.mem.trans k.mem⟩

theorem quiet_modCore (c : Nat) (f : Core → Core) : Quiet p s (s.modCore c f) := ⟨partStands_modCore c f, memKept_modCore c f⟩

theorem quiet_pmc (c ev n : Nat) : Quiet p s (s.pmc c ev n) := ⟨partStands_pmc c ev n, memKept_of_onlyRegs (pmc_frame s c ev n)⟩

theorem quiet_modPart (q : Nat) {f : Part → Part} (hf : ∀ x, (f x).standing = x.standing) : Quiet p s (s.modPart q f) :=
  ⟨partStands_modPart hf, memKept_modPart q f⟩

theorem quiet_foldl {α : Type} {f : State → α → State} (hf : ∀ s a, Quiet p s (f s a)) (l : List α) (s : State) : Quiet p s (l.foldl f s) :=
  foldl_rel (Quiet p) quiet_refl (fun h k => quiet_trans h k) f hf l s

theorem quiet_reportFallback (q step : Nat) : Quiet p s (s.reportFallback q step) :=
  ⟨partStands_reportFallback q step, memKept_of_haltChanges (reportFallback_frame s q step)⟩

theorem quiet_deadlineStep (q : Nat) : Quiet p s (s.deadlineStep q) := by
  have hbar : Quiet p s (s.modPart q fun x => { x with lastBar := some s.tick }) := quiet_modPart q fun _ => rfl
  rw [deadlineStep]
  dsimp only
  split
  · split
    · exact hbar
    · refine quiet_trans hbar (quiet_modPart q fun x => ?_)
      split_ifs <;> rfl
  · exact hbar

theorem quiet_takeAtBarrier (q : Nat) : Quiet p s (s.takeAtBarrier q) := by
  rw [takeAtBarrier]
  split
  · exact quiet_refl s
  · exact quiet_foldl (fun _ _ => quiet_modCore _ _) _ _

/-- A partition's record as its barrier of step n is released (R71). -/
def stepReleased (n : Word) (y : Part) : Part :=
  { y with step := n + 1, collected := [], barriers := ([n] ++ y.barriers).take barrierDepth, contrib := y.contrib.erase n.toNat,
           poison := y.poison.filter (fun w => w != n - 1), fellBack := y.fellBack.filter fun w => w != n - 1 }

/-- The state in which the barrier of partition p's current step has been released, before a draining partition stops. -/
def barrierOpen (s : State) (p : Nat) : State :=
  let n := (s.part p).step
  ((((s.coresOf p).foldl (fun u c => (u.modCore c fun k => pruneCore k n).pmc c 0x0A 1) (s.modPart p (stepReleased n))).reportFallback p
    n.toNat).deadlineStep p).takeAtBarrier p

theorem quiet_barrierOpen : Quiet p (s.modPart p (stepReleased (s.part p).step)) (s.barrierOpen p) := by
  have hcores := quiet_foldl (p := p) (f := fun u c => (u.modCore c fun k => pruneCore k (s.part p).step).pmc c 0x0A 1)
    (fun _ _ => quiet_trans (quiet_modCore _ _) (quiet_pmc _ _ _)) (s.coresOf p) (s.modPart p (stepReleased (s.part p).step))
  exact quiet_trans (quiet_trans (quiet_trans hcores (quiet_reportFallback p _)) (quiet_deadlineStep p)) (quiet_takeAtBarrier p)

theorem standing_barrierOpen : ((s.barrierOpen p).part p).standing =
    ((s.part p).step + 1, ([(s.part p).step] ++ (s.part p).barriers).take barrierDepth, [], (s.part p).fault.map FaultRec.first) := by
  rw [quiet_barrierOpen.stands.part, part_modPart_self]
  rfl

theorem pstate_barrierOpen (q : Nat) : (s.barrierOpen p).pstate q = s.pstate q := (quiet_barrierOpen.stands.pstate q).trans rfl

theorem memKept_barrierOpen (p : Nat) : MemKept s (s.barrierOpen p) := (memKept_modPart p _).trans quiet_barrierOpen.mem

theorem memKept_setPstate (q v : Nat) : MemKept s (s.setPstate q v) := ⟨rfl, rfl, rfl, rfl, rfl, rfl⟩

/-- A draining partition's cores, each of which fires nothing more (R120). -/
def drainCores (s : State) (p : Nat) : State := (s.coresOf p).foldl (fun u c => u.modCore c stopCore) s

theorem quiet_drainCores (q : Nat) : Quiet p s (s.drainCores q) := quiet_foldl (fun _ _ => quiet_modCore _ _) _ s

theorem drained_eq (p : Nat) :
    s.drained p = peerFaults 64 ((((s.drainCores p).modPart p fun x => { x with fault := none }).setPstate p 3).reportAll p) [p] := rfl

/-- A draining partition is halted without a record, and its barrier is as it was (R120). -/
theorem drained_halts (hp : p < 16) : (s.drained p).pstate p = 3 ∧
    ((s.drained p).part p).standing = ((s.part p).step, (s.part p).barriers, (s.part p).collected, none) := by
  have hcores : ((s.drainCores p).part p).standing = (s.part p).standing := (quiet_drainCores p).stands.part
  simp only [Part.standing, Prod.mk.injEq] at hcores
  obtain ⟨hstep, hbar, hcol, -⟩ := hcores
  obtain ⟨h3, hst⟩ := haltStands_trans (partStands_reportAll p).haltStands (haltStands_peerFaults 64 _ [p])
    (pstate_setPstate_self (s := (s.drainCores p).modPart p fun x => { x with fault := none }) hp 3)
  refine ⟨h3, hst.trans ?_⟩
  rw [setPstate, part_setRegF, part_modPart_self, Part.standing, hstep, hbar, hcol]
  rfl

theorem memKept_drained : MemKept s (s.drained p) := by
  have hstop : MemKept s ((s.drainCores p).modPart p fun x => { x with fault := none }) :=
    (quiet_drainCores (p := p) p).mem.trans (memKept_modPart p _)
  have hset : MemKept s (((s.drainCores p).modPart p fun x => { x with fault := none }).setPstate p 3) := hstop.trans (memKept_setPstate p 3)
  rw [drained_eq]
  exact (hset.trans (memKept_of_haltChanges (reportAll_frame _ p))).trans (memKept_of_haltChanges (peerFaults_frame 64 _ _))

theorem part_closeRegions (q r : Nat) : (s.closeRegions q).part r = s.part r := rfl

theorem memKept_closeRegions (q : Nat) : MemKept s (s.closeRegions q) := ⟨rfl, rfl, rfl, rfl, rfl, rfl⟩

theorem barrierRelease_eq (hr : s.isRunning p = true) (hc : (s.part p).step ∈ (s.part p).collected) (hh : s.hasHeld 128 p = false) :
    s.barrierRelease p (s.part p).step = if s.pstate p = 2 then ((s.barrierOpen p).drained p).closeRegions p else s.barrierOpen p := by
  have hany : (s.part p).collected.any (fun w => w == (s.part p).step) = true := List.any_eq_true.mpr ⟨_, hc, beq_self_eq_true _⟩
  simp only [barrierRelease, hr, hany, hh, beq_self_eq_true, Bool.not_false, Bool.and_self, if_true]
  rfl

end Sys2Proof.Machine.State

namespace Sys2Proof.Machine

theorem exec_barrierRelease (p : PartId) (step : Word) (s : State) : exec (.barrierRelease p step) s = .next (s.barrierRelease p step) := rfl

/-- BARRIER_RELEASE, by whether the partition runs or drains; a release that names another step is not the step's. -/
theorem barrierReleases : Claims.BarrierReleases := by
  refine ⟨fun s p hr hc hh => ?_, fun s p step hne => ?_⟩
  case refine_2 =>
    have hx : s.barrierRelease p step = s := by simp [State.barrierRelease, hne]
    rw [exec_barrierRelease, hx]
  have hx := (exec_barrierRelease p _ s).trans (congrArg Host.Outcome.next (State.barrierRelease_eq hr hc hh))
  have hmem := State.memKept_barrierOpen (s := s) p.val
  have hps := State.pstate_barrierOpen (s := s) (p := p.val) p.val
  have hopen := State.standing_barrierOpen (s := s) (p := p.val)
  simp only [Part.standing, Prod.mk.injEq] at hopen
  obtain ⟨hstep, hbar, hcol, -⟩ := hopen
  by_cases h2 : s.pstate p = 2
  case neg =>
    rw [if_neg h2] at hx
    refine ⟨s.barrierOpen p, hx, hstep, ?_, hcol, fun h1 => hps.trans h1, fun h => absurd h h2, hmem.sameMem⟩
    rw [hbar]
    rfl
  case pos =>
    rw [if_pos h2] at hx
    obtain ⟨h3, hst⟩ := State.drained_halts (s := s.barrierOpen p) p.isLt
    simp only [Part.standing, Prod.mk.injEq] at hst
    obtain ⟨hstep', hbar', hcol', -⟩ := hst
    have hclosed := (hmem.trans (State.memKept_drained (p := p.val))).trans (State.memKept_closeRegions p.val)
    refine ⟨((s.barrierOpen p).drained p).closeRegions p, hx, ?_, ?_, ?_, fun h1 => ?_, fun _ => ⟨h3, fun r hr => ?_⟩, hclosed.sameMem⟩
    · rw [State.part_closeRegions, hstep', hstep]
    · rw [State.part_closeRegions, hbar', hbar]
      rfl
    · rw [State.part_closeRegions, hcol', hcol]
    · exact absurd (h1.symm.trans h2) (by decide)
    · simpa using (List.mem_filter.mp hr).2

end Sys2Proof.Machine
end

section
/-! PROOF. The collection of a step barrier: the gauge record is stored without an error where no granule of the tiers is in error (R61, R63,
R71, R324). -/

namespace Sys2Proof.Machine.State

variable {s t : State}

/-! ### Stores to the tiers -/

/-- No granule of a tier is in error, no bank of a stack is held, and no crossing to a memory resets. -/
structure TiersCalm (s : State) : Prop where
  fast : TierClean s.fast
  slow : TierClean s.slow
  banks : ∀ st : Fin 8, s.stackStopped st = false ∧ (s.stack st).repairing = []
  phys : PhysUp s

theorem tiersCalm_of_noErrors (h : NoErrors s) : TiersCalm s := by
  obtain ⟨-, -, hf, hs, hst, -, hp⟩ := h
  exact ⟨hf, hs, hst, hp⟩

theorem TiersCalm.tier (h : TiersCalm s) (slow : Bool) : TierClean (s.tierOf slow) := by
  cases slow
  · exact h.fast
  · exact h.slow

theorem TiersCalm.touch (h : TiersCalm s) (slow : Bool) (a n : Nat) : s.touch slow a n = s := s.touch_idle slow a n h.phys (.inr h.banks)

theorem sameRegsBut_granules (slow : Bool) (a n : Nat) : SameRegsBut dieCounters s (s.granules slow a n) := by
  rw [granules]
  split
  · exact sameRegsBut_refl s _
  · split
    · exact sameRegsBut_refl s _
    · refine sameRegsBut_foldl fun t g _ => ?_
      split <;> exact sameRegsBut_pmcDie _ _ _

theorem stackStopped_of_counters (h : SameRegsBut dieCounters s t) (st : Nat) : t.stackStopped st = s.stackStopped st := by
  have hne : RegId.sluHeat.row.addr [st] ∉ dieCounters := fun hm => by
    have hle := (base_le_addr RegId.sluHeat.row [st]).trans (le_of_mem_dieCounters hm)
    simp [RegId.row] at hle
  rw [stackStopped, regF, reg_of_sameRegsBut h hne]
  rfl

theorem TiersCalm.granules (h : TiersCalm s) (slow : Bool) (a n : Nat) : TiersCalm (s.granules slow a n) := by
  have hst := stackStopped_of_counters (sameRegsBut_granules (s := s) slow a n)
  have hc := s.granules_frame slow a n
  rw [Counts] at hc
  refine ⟨?_, ?_, fun st => ⟨(hst st).trans (h.banks st).1, ?_⟩, ?_⟩ <;> rw [hc]
  · exact h.fast
  · exact h.slow
  · exact (h.banks st).2
  · exact h.phys

/-- A store has met no error: the tiers are as calm as before, and nothing more has failed or waits. -/
structure StoresCleanly (s : State) (r : State × Option Nat) : Prop where
  calm : TiersCalm r.1
  failing : r.1.failing = s.failing
  stalled : r.1.stalled = s.stalled
  bad : r.2 = none

theorem StoresCleanly.refl (h : TiersCalm s) : StoresCleanly s (s, none) := ⟨h, rfl, rfl, rfl⟩

theorem StoresCleanly.trans {r q : State × Option Nat} (h : StoresCleanly s r) (k : StoresCleanly r.1 q) : StoresCleanly s q :=
  ⟨k.calm, k.failing.trans h.failing, k.stalled.trans h.stalled, k.bad⟩

theorem tierWrite_storesCleanly (h : TiersCalm s) (slow : Bool) (a : Nat) (bs : List Byte) : StoresCleanly s (s.tierWrite slow a bs) := by
  have hg := h.granules slow a bs.length
  have hc := s.granules_frame slow a bs.length
  rw [tierWrite_clean s slow a bs (h.tier slow) (h.touch slow a bs.length)]
  rw [Counts] at hc
  cases slow
  · exact ⟨⟨h.fast, hg.slow, hg.banks, hg.phys⟩, by rw [hc]; rfl, by rw [hc]; rfl, rfl⟩
  · exact ⟨⟨hg.fast, h.slow, hg.banks, hg.phys⟩, by rw [hc]; rfl, by rw [hc]; rfl, rfl⟩

theorem trafficAll_storesCleanly (h : TiersCalm s) (cls : Nat) (slow : Bool) (a n : Nat) :
    StoresCleanly s (s.trafficAll cls [⟨.tier slow, a, n⟩], none) := ⟨⟨h.fast, h.slow, h.banks, h.phys⟩, rfl, rfl, rfl⟩

theorem noteDst_storesCleanly (h : TiersCalm s) (c uid : Nat) (x : Span) : StoresCleanly s (s.noteDst c uid x, none) := by
  rw [noteDst]
  split
  · split
    · exact ⟨⟨h.fast, h.slow, h.banks, h.phys⟩, rfl, rfl, rfl⟩
    · exact .refl h
  · exact .refl h

theorem foldl_storesCleanly {α : Type} {f : State × Option Nat → α → State × Option Nat}
    (hf : ∀ r a, TiersCalm r.1 → r.2 = none → StoresCleanly r.1 (f r a)) (l : List α) {r : State × Option Nat} (h : StoresCleanly s r) :
    StoresCleanly s (l.foldl f r) :=
  List.foldlRecOn l f h fun q hq a _ => hq.trans (hf q a hq.calm hq.bad)

theorem TiersCalm.held (h : TiersCalm s) (l : List Held) : TiersCalm { s with held := l } := ⟨h.fast, h.slow, h.banks, h.phys⟩

theorem StoresCleanly.held {r : State × Option Nat} (h : StoresCleanly s r) (l : List Held) : StoresCleanly s ({ r.1 with held := l }, r.2) :=
  ⟨h.calm.held l, h.failing, h.stalled, h.bad⟩

theorem storeRun_storesCleanly (h : TiersCalm s) (c uid : Nat) (slow : Bool) (a : Nat) (bs : List Byte) :
    StoresCleanly s (s.storeRun c uid (.tier slow) a bs) := by
  refine StoresCleanly.held (foldl_storesCleanly (fun r run hr hbad => ?_) _ (noteDst_storesCleanly h c uid _)) _
  have hw := (trafficAll_storesCleanly hr (s.storeClass c uid) slow run.1 run.2.length).trans (tierWrite_storesCleanly ?_ slow run.1 run.2)
  · exact ⟨hw.calm, hw.failing, hw.stalled, by rw [hbad]; exact hw.bad⟩
  · exact (trafficAll_storesCleanly hr (s.storeClass c uid) slow run.1 run.2.length).calm

theorem modHeld_storesCleanly {r : State × Option Nat} (h : StoresCleanly s r) (k : Nat) (f : Held → Held) :
    StoresCleanly s (r.1.modHeld k f, none) := by
  rw [modHeld]
  split
  · exact ⟨h.calm, h.failing, h.stalled, rfl⟩
  · exact ⟨h.calm.held _, h.failing, h.stalled, rfl⟩

/-- Pieces of the tiers are stored without an error (R324). -/
theorem storeFrom_storesCleanly {c uid : Nat} {ext : List Span} {l : List Piece} (hl : ∀ x ∈ l, ∃ slow, x.place = .tier slow)
    (h : TiersCalm s) (bs : List Byte) : StoresCleanly s (s.storeFrom c uid ext l bs) := by
  induction l generalizing s bs with
  | nil => exact .refl h
  | cons x t ih =>
    obtain ⟨⟨slow, hx⟩, ht⟩ := List.forall_mem_cons.mp hl
    have hrun : StoresCleanly s (s.storeRun c uid x.place x.addr (bs.take x.len)) := hx ▸ storeRun_storesCleanly h c uid slow _ _
    have hname : StoresCleanly s ((s.storeRun c uid x.place x.addr (bs.take x.len)).1.nameHeld s.held.length x ext, none) :=
      modHeld_storesCleanly hrun _ _
    have hrest := hname.trans (ih ht hname.calm (bs.drop x.len))
    rw [storeFrom]
    exact ⟨hrest.calm, hrest.failing, hrest.stalled, by simp [hrun.bad, hrest.bad]⟩

/-- What the page map holds lies in the tiers (R80). -/
theorem walkRun_tiers {pages : List Page} {bit fuel va len : Nat} {l : List Piece} (h : walkRun pages bit fuel va len = .ok l) :
    ∀ x ∈ l, ∃ slow, x.place = .tier slow := by
  induction fuel generalizing va len l with
  | zero =>
    rw [walkRun] at h
    cases h
    simp
  | succ n ih =>
    rw [walkRun] at h
    split at h
    · cases h
      simp
    · split at h
      · cases h
      next g _ =>
        split at h
        · dsimp only at h
          split at h
          next t ht =>
            cases h
            exact List.forall_mem_cons.mpr ⟨⟨g.slow, rfl⟩, ih ht⟩
          · cases h
        · cases h

theorem piecesOf_tiers (pages : List Page) (bit va len : Nat) : ∀ x ∈ piecesOf pages bit va len, ∃ slow, x.place = .tier slow := by
  rw [piecesOf]
  split
  next l hl => exact walkRun_tiers hl
  next => simp

/-! ### The gauge record (R61-R63) -/

/-- The gauge record of the step that partition p's barrier collects, stored where the image has it. -/
def gaugeStored (s : State) (p : Nat) (im : PartImg) : State × Option Nat :=
  let bs := gaugeRecordBytes im ((s.part p).gauges.get [] (s.part p).step.toNat) (s.part p).step
  s.storePieces 128 p (piecesOf im.pages 1 im.gaugeRecord bs.length) bs

/-- A partition's record as step n is collected with its gauges. -/
def stepCollected (n : Word) (gs : FMap Gauge) (y : Part) : Part :=
  { y with collected := [n], lastGauge := gs, gauges := y.gauges.erase n.toNat }

theorem gaugeStored_storesCleanly (h : NoErrors s) (p : Nat) (im : PartImg) : StoresCleanly s (s.gaugeStored p im) :=
  storeFrom_storesCleanly (piecesOf_tiers _ _ _ _) (tiersCalm_of_noErrors h) _

theorem barrierCollect_eq {p : Nat} {im : PartImg} (him : (s.part p).img = some im) (hr : s.isRunning p = true)
    (hall : s.allContributed p (s.part p).step = true) (hcol : (s.part p).step ∉ (s.part p).collected)
    (hbad : (s.gaugeStored p im).2 = none) :
    s.barrierCollect p =
      (s.gaugeStored p im).1.modPart p (stepCollected (s.part p).step ((s.part p).gauges.get [] (s.part p).step.toNat)) := by
  have hnew : (s.part p).collected.any (fun w => w == (s.part p).step) = false :=
    List.any_eq_false.mpr fun w hw => by rw [beq_iff_eq]; exact fun h => hcol (h ▸ hw)
  unfold gaugeStored at hbad
  simp only [barrierCollect, him, hr, hall, hnew, Bool.not_false, Bool.and_self, if_true, hbad]
  rfl

end Sys2Proof.Machine.State

namespace Sys2Proof.Machine

theorem exec_barrierCollect (p : PartId) (s : State) : exec (.barrierCollect p) s = .next (s.settle (s.barrierCollect p)) := rfl

/-- BARRIER_COLLECT: its record is stored without an error, so that the partition does not halt for it. -/
theorem barrierCollects : Claims.BarrierCollects := by
  intro s p im him hr hall hcol gs bs r hne
  have hclean := State.gaugeStored_storesCleanly hne p.val im
  have hsettle : s.settle (r.1.modPart p (State.stepCollected (s.part p).step gs)) = r.1.modPart p (State.stepCollected (s.part p).step gs) :=
    State.settle_eq hclean.stalled hclean.failing
  refine ⟨r.1.modPart p (State.stepCollected (s.part p).step gs), ?_, rfl, ?_, ?_⟩
  · rw [exec_barrierCollect, State.barrierCollect_eq him hr hall hcol hclean.bad]
    exact congrArg _ hsettle
  · rw [State.part_modPart_self]
    rfl
  · rw [State.part_modPart_self]
    rfl

end Sys2Proof.Machine
end

section
/-! PROOF. STEP_END completes, and its core's contribution to the step's barrier is with the collector (R64, R67, R71). -/

namespace Sys2Proof.Machine.State

variable {s t u : State} {c : Nat}

/-! ### What an entry's firing and completion leave of the other cores -/

/-- Only core c, the registers and the source of fresh values differ. -/
structure CoreOnly (c : Nat) (s t : State) : Prop where
  frame : t = { s with mrs := t.mrs, cores := t.cores, fresh := t.fresh }
  others : ∀ k, k ≠ c → t.core k = s.core k

theorem coreOnly_refl (s : State) : CoreOnly c s s := ⟨rfl, fun _ _ => rfl⟩

theorem CoreOnly.trans (h : CoreOnly c s t) (k : CoreOnly c t u) : CoreOnly c s u :=
  ⟨by rw [k.frame, h.frame], fun j hj => (k.others j hj).trans (h.others j hj)⟩

theorem CoreOnly.part (h : CoreOnly c s t) (p : Nat) : t.part p = s.part p := by
  rw [h.frame]
  rfl

theorem coreOnly_modCore (f : Core → Core) : CoreOnly c s (s.modCore c f) := ⟨rfl, fun _ hk => core_modCore_ne s c f hk⟩

theorem coreOnly_usedFresh : CoreOnly c s s.usedFresh := ⟨rfl, fun _ _ => rfl⟩

theorem core_of_onlyRegs (h : OnlyRegs s t) (k : Nat) : t.core k = s.core k := by
  rw [OnlyRegs] at h
  rw [h]
  rfl

theorem coreOnly_of_onlyRegs (h : OnlyRegs s t) : CoreOnly c s t := by
  refine ⟨?_, fun k _ => core_of_onlyRegs h k⟩
  rw [OnlyRegs] at h
  rw [h]

theorem coreOnly_setRegF (id : RegId) (ix : List Nat) (hi lo v : Nat) : CoreOnly c s (s.setRegF id ix hi lo v) :=
  coreOnly_of_onlyRegs (onlyRegs_setReg s id ix _)

theorem coreOnly_markFired (e : Entry) : CoreOnly c s (s.markFired c e) :=
  ((coreOnly_modCore _).trans (coreOnly_modCore _)).trans (coreOnly_of_onlyRegs (pmc_frame _ c 0x02 1))

theorem coreOnly_produce (e : Entry) (kind : TokKind) (value : Word) : CoreOnly c s (s.produce c e kind value) := by
  rw [produce]
  split
  · exact coreOnly_refl s
  · exact coreOnly_modCore _

theorem coreOnly_writeSample (ws : List Long) : CoreOnly c s (s.writeSample c ws) := by
  rw [writeSample]
  split
  · exact coreOnly_setRegF _ _ _ _ _
  · exact ((coreOnly_modCore _).trans (coreOnly_setRegF _ _ _ _ _)).trans (coreOnly_setRegF _ _ _ _ _)

/-- An entry that completes leaves the window, its token is produced, and a sampled one is written (R64, R67, R545): any but an MPASS, which
leaves the array besides. -/
theorem coreOnly_complete {e : Entry} (h : ¬ (e.unit = 1 ∧ e.opcode = 0x11)) : CoreOnly c s (s.complete c e) := by
  have hleft := ((coreOnly_modCore (s := s) (c := c) fun k => { k with window := k.window.filter fun x => x.uid != e.uid }).trans
    (coreOnly_produce e .done e.value)).trans (coreOnly_of_onlyRegs (pmc_frame _ c 0x03 1))
  rw [complete, if_neg h]
  dsimp only
  split
  · exact (hleft.trans (coreOnly_writeSample _)).trans coreOnly_usedFresh
  · exact hleft

/-! ### The window -/

theorem window_markFired (e : Entry) : ((s.markFired c e).core c).window =
    (s.core c).window.map fun x => if x.uid = e.uid then { x with phase := .done, sampled := s.sampleHit c e, fireTick := s.tick } else x := by
  rw [markFired, core_of_onlyRegs (pmc_frame _ c 0x02 1), modEntry, core_modCore_self, core_modCore_self]

theorem window_produce (e : Entry) (kind : TokKind) (value : Word) : ((s.produce c e kind value).core c).window = (s.core c).window := by
  rw [produce]
  split
  · rfl
  · rw [addTok, core_modCore_self]

theorem window_writeSample (ws : List Long) : ((s.writeSample c ws).core c).window = (s.core c).window := by
  rw [writeSample]
  dsimp only
  split
  · rfl
  · rw [core_setRegF, core_setRegF, core_modCore_self]

theorem window_complete {e : Entry} (h : ¬ (e.unit = 1 ∧ e.opcode = 0x11)) :
    ((s.complete c e).core c).window = (s.core c).window.filter fun x => x.uid != e.uid := by
  have hleft : ((((s.modCore c fun k => { k with window := k.window.filter fun x => x.uid != e.uid }).produce c e .done e.value).pmc c 0x03
      1).core c).window = (s.core c).window.filter fun x => x.uid != e.uid := by
    rw [core_of_onlyRegs (pmc_frame _ c 0x03 1), window_produce, core_modCore_self]
  rw [complete, if_neg h]
  dsimp only
  split
  · rw [core_usedFresh, window_writeSample, hleft]
  · exact hleft

/-- What firing marks in an entry does not show once it has left the window. -/
theorem window_fired_complete {x : Entry} (h : ¬ (x.unit = 1 ∧ x.opcode = 0x11)) :
    (((s.markFired c x).complete c (s.firedEntry c x)).core c).window = (s.core c).window.filter fun e => e.uid != x.uid := by
  rw [window_complete (e := s.firedEntry c x) h, window_markFired, List.filter_map]
  have huid : ((fun e : Entry => e.uid != (s.firedEntry c x).uid) ∘ fun e : Entry =>
      if e.uid = x.uid then { e with phase := .done, sampled := s.sampleHit c x, fireTick := s.tick } else e) = fun e => e.uid != x.uid := by
    funext e
    simp only [Function.comp]
    split <;> rfl
  rw [huid]
  refine (List.map_congr_left fun e he => if_neg ?_).trans (List.map_id _)
  simpa using (List.mem_filter.mp he).2

/-! ### STEP_END (R71) -/

theorem unit_of_oldestReady {unit : Nat} {acc : Entry → Bool} {x : Entry} (h : s.oldestReady c unit acc = some x) : x.unit = unit := by
  rw [oldestReady] at h
  split at h
  · have := List.find?_some h
    simp only [Bool.and_eq_true, beq_iff_eq] at this
    exact this.1.1
  · cases h

end Sys2Proof.Machine.State

namespace Sys2Proof.Machine

theorem exec_stepEnd (c : CoreId) (s : State) : exec (.stepEnd c) s = .next (s.stepEnd c) := rfl

/-- A partition's record as core c contributes to the barrier of step n (R71). -/
def contributed (c : Nat) (n : Word) (y : Part) : Part := { y with contrib := y.contrib.set n.toNat (y.contrib.get [] n.toNat ++ [c]) }

theorem stepEnd_eq {s : State} {c p : Nat} {x : Entry} (hp : (s.core c).part = some p)
    (hf : Fires s c 0 0x01 (fun e => e.opcode == 0x01 && (s.core c).window.all fun y => decide (e.uid ≤ y.uid) || y.step != e.step) x) :
    s.stepEnd c = ((s.markFired c x).complete c (s.firedEntry c x)).modPart p (contributed c x.step) := by
  obtain ⟨hready, hop⟩ := hf
  rw [State.stepEnd]
  simp only [hp]
  rw [State.fireOp_eq _ _ _ _ _ _ _ hready, if_pos hop]
  rfl

/-- STEP_END: its completion touches its core alone. -/
theorem stepEndContributes : Claims.StepEndContributes := by
  intro s c p x hp hf
  have hx := (exec_stepEnd c s).trans (congrArg Host.Outcome.next (stepEnd_eq hp hf))
  have hnp : ¬ (x.unit = 1 ∧ x.opcode = 0x11) := by simp [State.unit_of_oldestReady hf.1]
  have hdone : State.CoreOnly c s ((s.markFired c x).complete c (s.firedEntry c x)) :=
    (State.coreOnly_markFired x).trans (State.coreOnly_complete (e := s.firedEntry c x) hnp)
  refine ⟨_, hx, State.window_fired_complete hnp, ?_, ?_, ?_, fun q hq => ?_⟩
  · rw [State.part_modPart_self, hdone.part]
    exact FMap.get_set_self _ _ _ _
  · rw [State.part_modPart_self, hdone.part]
    rfl
  · refine ⟨?_, hdone.others⟩
    rw [hdone.frame]
    rfl
  · rw [State.part_modPart_ne _ _ _ hq, hdone.part]

end Sys2Proof.Machine

open Sys2Proof Sys2Proof.Machine

/-- Settles O12: each of the three events moves the partition's barrier alone, and what they call beside it leaves the barrier as it is. -/
theorem stepBarrier : Obligations.StepBarrier := ⟨stepEndContributes, barrierCollects, barrierReleases⟩
end

section
/-! SUPPORT. An instruction that faults before it accesses: what its firing leaves of the partitions and of what its checks read, and the halt
that the fault begins (R80, R83-R85, R87). -/

namespace Sys2Proof.Machine.State

variable {s t u : State} {c p : Nat}

/-! ### The partitions and their cores -/

/-- Every partition is in the state it was in, and every core is held by the partition that held it. -/
structure SameHolders (s t : State) : Prop where
  states : t.reg .keepPartState [] = s.reg .keepPartState []
  cores : ∀ k, (t.core k).part = (s.core k).part

theorem SameHolders.isRunning (h : SameHolders s t) (p : Nat) : t.isRunning p = s.isRunning p := by
  rw [State.isRunning, pstate, regF, h.states]
  rfl

/-- The memories are as before, and so are the partitions' states and who holds each core. -/
structure Aside (s t : State) : Prop where
  mem : MemKept s t
  holders : SameHolders s t

theorem Aside.trans (h : Aside s t) (k : Aside t u) : Aside s u :=
  ⟨h.mem.trans k.mem, k.holders.states.trans h.holders.states, fun j => (k.holders.cores j).trans (h.holders.cores j)⟩

/-- A fault that a command comes to after it has left the memories and the partitions as they were: it halts its core's partition with its
record, and no byte has moved (R84, R85, R87). -/
theorem settle_fault (h : Aside s t) (hc : (s.core c).part = some p) (hr : s.isRunning p = true) (e : Entry)
    (cause : Nat) (index : Word) (addr : Option Nat) :
    HaltedBy p (faultRec c e cause index addr) (s.settle (t.fault c e cause index addr)) ∧
      SameMem s (s.settle (t.fault c e cause index addr)) := by
  have hkept := h.mem.trans (memKept_of_haltChanges (fault_frame t c e cause index addr))
  rw [hkept.settle]
  exact ⟨haltedBy_fault ((h.holders.cores c).trans hc) ((h.holders.isRunning p).trans hr) e cause index addr, hkept.sameMem⟩

theorem HaltedBy.haltedWith {r : FaultRec} (h : HaltedBy p r s) {cause : Nat} (hr : r.cause = BitVec.ofNat 8 cause) : HaltedWith s p cause := by
  obtain ⟨m, hm⟩ := h.fault
  exact ⟨h.1, by rw [hm, Option.map_some, ← hr]⟩

/-! ### What an instruction's checks read -/

/-- Only core c, in which it does not change who holds it, and event counters differ. -/
structure OnlyBegun (c : Nat) (s t : State) : Prop where
  only : CoreOnly c s t
  regs : ∀ a d, (∀ k, a ∉ coreCounters k) → t.mrs.get d a = s.mrs.get d a
  holds : (t.core c).part = (s.core c).part

theorem OnlyBegun.trans (h : OnlyBegun c s t) (k : OnlyBegun c t u) : OnlyBegun c s u :=
  ⟨h.only.trans k.only, fun a d ha => (k.regs a d ha).trans (h.regs a d ha), k.holds.trans h.holds⟩

theorem onlyBegun_refl (s : State) : OnlyBegun c s s := ⟨coreOnly_refl s, fun _ _ _ => rfl, rfl⟩

theorem onlyBegun_pmc (k ev n : Nat) : OnlyBegun c s (s.pmc k ev n) :=
  ⟨coreOnly_of_onlyRegs (pmc_frame s k ev n), fun a d ha => sameRegsBut_pmc k ev n a d (ha k),
    congrArg Core.part (core_of_onlyRegs (pmc_frame s k ev n) c)⟩

theorem onlyBegun_modCore {f : Core → Core} (hf : ∀ k, (f k).part = k.part) : OnlyBegun c s (s.modCore c f) :=
  ⟨coreOnly_modCore f, fun _ _ _ => rfl, by rw [core_modCore_self, hf]⟩

theorem onlyBegun_modEntry (uid : Nat) (f : Entry → Entry) : OnlyBegun c s (s.modEntry c uid f) := onlyBegun_modCore fun _ => rfl

theorem onlyBegun_markFired (e : Entry) : OnlyBegun c s (s.markFired c e) := by
  rw [markFired]
  refine ((onlyBegun_modCore ?_).trans (onlyBegun_modEntry _ _)).trans (onlyBegun_pmc c _ _)
  exact fun _ => rfl

theorem onlyBegun_vatGrants (pl : Place) (a n : Nat) : OnlyBegun c s (s.vatGrants pl a n) := by
  cases pl with
  | vat i => exact onlyBegun_pmc _ _ _
  | pool | tier => exact onlyBegun_refl s

namespace OnlyBegun

variable (h : OnlyBegun c s t)
include h

theorem aside : Aside s t := by
  refine ⟨?_, h.regs _ _ partStates_not_mem_coreCounters, fun k => ?_⟩
  · rw [h.only.frame]
    exact ⟨rfl, rfl, rfl, rfl, rfl, rfl⟩
  · by_cases hk : k = c
    · rw [hk, h.holds]
    · rw [h.only.others k hk]

theorem imgOf : t.imgOf c = s.imgOf c := by
  rw [State.imgOf, State.imgOf, h.holds]
  split
  · rfl
  · rw [h.only.part]

theorem desc (i : Nat) : t.desc c i = s.desc c i := by rw [State.desc, State.desc, h.imgOf]

theorem pagesOf : t.pagesOf c = s.pagesOf c := by rw [State.pagesOf, State.pagesOf, h.imgOf]

theorem locPlace (cl loc : Nat) : t.locPlace cl loc = s.locPlace cl loc := by
  rw [h.only.frame]
  rfl

theorem side (space loc base : Nat) : t.side c space loc base = s.side c space loc base := by
  rw [State.side, State.side, h.locPlace]

theorem xtens (i : Nat) : t.xtens c i = s.xtens c i := by
  rw [State.xtens, State.xtens, h.desc]
  simp only [h.side]

theorem xlist (i : Nat) : t.xlist c i = s.xlist c i := by
  rw [State.xlist, State.xlist, h.desc]
  simp only [h.locPlace]

/-- Who owns a vat or pool bank stands apart from the counters (R313, R538, R579). -/
theorem ownReg {pl : Place} {id : RegId} {ix : List Nat} (hpl : pl.ownReg = some (id, ix)) : t.reg id ix = s.reg id ix := by
  refine h.regs _ _ fun k hk => ?_
  have hoff := (range_of_mem_coreCounters hk).2
  cases pl with
  | tier => cases hpl
  | vat i | pool i =>
    cases hpl
    simp [RegRow.addr, RegId.row, sumN] at hoff
    omega

theorem ownerOk (p k : Nat) (pl : Place) (eng : List Nat) : t.ownerOk p k pl eng = s.ownerOk p k pl eng := by
  cases hpl : pl.ownReg with
  | none => simp only [State.ownerOk, hpl]
  | some r => simp only [State.ownerOk, hpl, h.ownReg hpl]

theorem coreOwns (pl : Option Place) : t.coreOwns c pl = s.coreOwns c pl := by
  simp only [State.coreOwns, h.holds, h.ownerOk]

theorem sideFault (pages : List Page) (x : Side) (bit : Nat) (eng : List Nat) (runs : List (Nat × Nat)) :
    t.sideFault c pages x bit eng runs = s.sideFault c pages x bit eng runs := by
  simp only [State.sideFault, h.holds, h.ownerOk]

theorem xFault (x : XTens) (l : XList) (bit : Nat) : t.xFault c x l bit = s.xFault c x l bit := by
  rw [State.xFault, State.xFault, h.coreOwns, h.coreOwns, h.sideFault, h.pagesOf]

end OnlyBegun

end Sys2Proof.Machine.State
end

section
/-! PROOF. An SLOAD whose pages fail and an indexed access out of range halt the partition before any byte moves (R80, R82, R83, R85, R277). -/

namespace Sys2Proof

/-- What holds of the default and of every value listed holds of what a map gives. -/
theorem FMap.get_induct {α : Type} {P : α → Prop} {m : FMap α} {d : α} (hd : P d) (hm : ∀ x ∈ m, P x.2) (k : Nat) : P (m.get d k) := by
  induction m with
  | nil => exact hd
  | cons x t ih =>
    obtain ⟨hx, ht⟩ := List.forall_mem_cons.mp hm
    rw [FMap.get]
    split
    · exact hx
    · exact ih ht

namespace Machine.State

variable {s t : State} {c p : Nat}

/-! ### SLOAD (R268) -/

/-- A page that fails is one that the map does not hold or does not permit (R80, R83). -/
theorem walkRun_cause {pages : List Page} {bit fuel va len : Nat} {f : Nat × Nat} (h : walkRun pages bit fuel va len = .error f) :
    f.1 = 1 ∨ f.1 = 2 := by
  induction fuel generalizing va len with
  | zero => cases h
  | succ n ih =>
    rw [walkRun] at h
    split at h
    · cases h
    · split at h
      · cases h
        exact .inl rfl
      · split at h
        · dsimp only at h
          split at h
          · cases h
          next e he =>
            cases h
            exact ih he
        · cases h
          exact .inr rfl

theorem checkRuns_cause {pages : List Page} {bit : Nat} {runs : List (Nat × Nat)} {f : Nat × Option Nat} (h : checkRuns pages bit runs = some f) :
    f.1 = 1 ∨ f.1 = 2 := by
  obtain ⟨r, -, hr⟩ := List.exists_of_findSome?_eq_some h
  split at hr
  · cases hr
  next e he =>
    cases hr
    exact walkRun_cause he

/-- The far side of an SLOAD: its descriptor's, at the iteration's offset (R268, R269). -/
def farSide (s : State) (c : Nat) (e : Entry) : Side :=
  let d := s.desc c (getF e.op 55 44)
  s.side c (dF d 1 1) (dF d 2 1) (dF d 8 6 + 64 * getF e.op 39 20 * innerIter e.iters)

/-- The rows of an SLOAD's far side. -/
def farRuns (s : State) (c : Nat) (e : Entry) : List (Nat × Nat) :=
  let d := s.desc c (getF e.op 55 44)
  (List.range (dF d 0x11 3)).map fun r => (r * dF d 0x14 4, dF d 4 4)

/-- An SLOAD whose far side fails its check faults before it looks further. -/
theorem fireStream_load_fault {e : Entry} {f : Nat × Option Nat}
    (h : s.sideFault c (s.pagesOf c) (s.farSide c e) 0 [] (s.farRuns c e) = some f) :
    s.fireStream c e true = s.fault c e f.1 noIndex f.2 := by
  unfold farSide farRuns at h
  simp only [fireStream, if_true, h, Option.some_or, Option.orElse_eq_or, Option.orElse_eq_orElse]

/-! ### Indexed accesses (R274-R278) -/

theorem errs_bankOf (h : NoErrors s) (pl : Place) : (s.bankOf pl).errs = [] := by
  obtain ⟨hvats, hpools, -⟩ := h
  cases pl with
  | tier => rfl
  | vat i => exact FMap.get_induct (P := fun b : Bank => b.errs = []) rfl hvats i
  | pool i => exact FMap.get_induct (P := fun b : Bank => b.errs = []) rfl hpools i

theorem bankReadFor_clean (pl : Place) (a n : Nat) (need : Nat → Bool) (h : (s.bankOf pl).errs = []) :
    s.bankReadFor pl a n need = ⟨s.vatGrants pl a n, (readBytes (s.bankOf pl).data a n).map some, none⟩ := by
  have k := bankOf_onlyRegs (vatGrants_frame s pl a n) pl
  rw [bankReadFor, cellRead_clean _ _ _ _ _ (k ▸ h), k]

/-- The entries that a list spells, from the bytes of the banks alone. -/
def entriesIn (bank : Place → Bank) (x : XTens) (l : XList) : List XEnt :=
  match l.list with
  | none => []
  | some pl => xentries x l (readBytes (bank pl).data l.lOff (4 * x.dims * l.count))
      (if l.masked then readBytes (bank pl).data l.mOff ((l.count + 7) / 8) else [])

theorem getD_map_some (l : List Byte) : (l.map some).map (fun v => v.getD 0) = l := by simp

/-- A list without errors is read whole, and so is its mask (R86, R276). -/
theorem readList_clean (h : ∀ pl, (s.bankOf pl).errs = []) (x : XTens) (l : XList) :
    OnlyBegun c s (s.readList x l).1 ∧ (s.readList x l).2 = (entriesIn s.bankOf x l, false) := by
  cases hl : l.list with
  | none =>
    simp only [readList, entriesIn, hl, and_true]
    exact onlyBegun_refl s
  | some pl =>
    have hbank : ∀ a n, (s.vatGrants pl a n).bankOf pl = s.bankOf pl := fun a n => bankOf_onlyRegs (vatGrants_frame s pl a n) pl
    by_cases hmask : l.masked = true
    · simp only [readList, entriesIn, hl, hmask, if_true, bankRead_clean _ _ _ _ (h pl)]
      rw [bankReadFor_clean _ _ _ _ (by rw [hbank]; exact h pl)]
      simp only [hbank, getD_map_some, Option.isSome_none, Bool.or_self, and_true]
      exact (onlyBegun_vatGrants _ _ _).trans (onlyBegun_vatGrants _ _ _)
    · simp only [readList, entriesIn, hl, hmask, if_false, Bool.false_eq_true]
      rw [bankReadFor_clean _ _ _ _ (h pl)]
      simp only [getD_map_some, List.map_nil, Option.isSome_none, Bool.or_self, and_true]
      exact onlyBegun_vatGrants _ _ _

/-- A sampled indexed access notes the address of its lowest active element in range (R546). -/
def noteFirst (s : State) (c : Nat) (e : Entry) (x : XTens) (es : List XEnt) : State :=
  let near := (es.find? fun n => n.on && x.inRange n.key).bind fun n => (x.blockRuns n.key).head?.map fun r => x.side.base + r.2.1
  if e.sampled then s.modEntry c e.uid fun z => { z with first := near } else s

theorem onlyBegun_noteFirst (e : Entry) (x : XTens) (es : List XEnt) : OnlyBegun c s (s.noteFirst c e x es) := by
  rw [noteFirst]
  split
  · exact onlyBegun_modEntry _ _
  · exact onlyBegun_refl s

/-- An indexed access under the FAULT policy with an active entry out of range faults with COORD_RANGE once its list has been read (R277). -/
theorem fireIndexed_fault {e : Entry} {x : XTens} {l : XList} {bit : Nat} (hx : s.xtens c (getF e.op 55 44) = x)
    (hl : s.xlist c (getF e.op 43 32) = l) (herr : ∀ pl, (s.bankOf pl).errs = []) (hf : s.xFault c x l bit = none) (hp : x.policy = 0)
    (hout : ∃ n ∈ entriesIn s.bankOf x l, n.on = true ∧ x.inRange n.key = false) (gather : Bool)
    (run : State → XTens → XList → List XEnt → State) :
    ∃ t i, OnlyBegun c s t ∧ s.fireIndexed c e gather bit run = t.fault c e 6 (BitVec.ofNat 32 i) none := by
  obtain ⟨hbegun, hread⟩ := readList_clean (c := c) herr x l
  obtain ⟨n, hn, hon, hrange⟩ := hout
  obtain ⟨m, hm⟩ : ∃ m, (entriesIn s.bankOf x l).find? (fun n => n.on && !x.inRange n.key) = some m :=
    Option.isSome_iff_exists.mp (List.find?_isSome.mpr ⟨n, hn, by simp [hon, hrange]⟩)
  refine ⟨(s.readList x l).1.noteFirst c e x (entriesIn s.bankOf x l), m.i, hbegun.trans (onlyBegun_noteFirst e x _), ?_⟩
  simp only [fireIndexed, hx, hl, hf, hread, hp, hm, if_true, Bool.false_eq_true, if_false]
  rfl

end Machine.State
end Sys2Proof

namespace Sys2Proof.Machine

theorem exec_sload (c : CoreId) (s : State) :
    exec (.sload c) s = .next (s.settle (s.fireOp c 5 0x10 (s.strmAccepts c) fun t e => t.fireStream c e true)) := rfl

/-- SLOAD: its firing leaves what its check reads. -/
theorem translationIsCheckedFirst : Claims.TranslationIsCheckedFirst := by
  intro s c p x f hc hr hf d far hvirt hcheck
  obtain ⟨hready, hop⟩ := hf
  have hb : State.OnlyBegun c s (s.markFired c x) := State.onlyBegun_markFired x
  have hside : (s.markFired c x).sideFault c ((s.markFired c x).pagesOf c) ((s.markFired c x).farSide c (s.firedEntry c x)) 0 []
      ((s.markFired c x).farRuns c (s.firedEntry c x)) = some (f.1, some f.2) := by
    rw [State.farSide, State.farRuns, hb.desc, hb.side, hb.pagesOf, hb.sideFault, State.sideFault]
    exact (if_pos hvirt).trans (by rw [List.map_map]; exact hcheck)
  have hx := exec_sload c s
  rw [State.fireOp_eq _ _ _ _ _ _ _ hready, if_pos hop, State.fireStream_load_fault hside] at hx
  obtain ⟨hh, hm⟩ := State.settle_fault hb.aside hc hr (s.firedEntry c x) f.1 noIndex (some f.2)
  obtain ⟨m, hrec⟩ := hh.fault
  refine ⟨_, hx, hh.haltedWith rfl, hm, State.checkRuns_cause hcheck, ?_⟩
  rw [hrec]
  rfl

/-- The three indexed accesses fire alike (R273). -/
theorem exec_indexed {c : CoreId} {s : State} {q : Instr × Nat} (hq : q ∈ [(Instr.gather c, 0x30), (.scatter c, 0x31), (.scatterAdd c, 0x32)]) :
    ∃ (gather : Bool) (run : Entry → State → XTens → XList → List XEnt → State), exec q.1 s =
      .next (s.settle (s.fireOp c 5 q.2 (s.strmAccepts c) fun t e => t.fireIndexed c e gather (q.2 - 0x30) (run e))) := by
  simp only [List.mem_cons, List.not_mem_nil, or_false] at hq
  rcases hq with rfl | rfl | rfl
  · exact ⟨true, fun e u x l es => u.runGather c e x l es, rfl⟩
  · exact ⟨false, fun e u x l es => u.runScatter c e x l es, rfl⟩
  · exact ⟨false, fun e u x l es => u.runScatterAdd c e x l es, rfl⟩

/-- GATHER, SCATTER and SCATTER_ADD: their firing leaves what their checks and their lists hold. -/
theorem coordinatesAreCheckedFirst : Claims.CoordinatesAreCheckedFirst := by
  intro s c p x q hc hr hq hfires xt l hfault hne hpol hout
  obtain ⟨hready, hop⟩ := hfires
  obtain ⟨gather, run, hx⟩ := exec_indexed (s := s) hq
  have hb : State.OnlyBegun c s (s.markFired c x) := State.onlyBegun_markFired x
  have herr := State.errs_bankOf hne
  have hbank : (s.markFired c x).bankOf = s.bankOf := funext hb.aside.mem.bankOf
  obtain ⟨n, hn, hon, hrange⟩ := hout
  rw [(State.readList_clean (c := c) herr xt l).2] at hn
  obtain ⟨t, i, ht, hfire⟩ := State.fireIndexed_fault (s := s.markFired c x) (c := c) (e := s.firedEntry c x) (bit := q.2 - 0x30)
    (hb.xtens _) (hb.xlist _) (by rw [hbank]; exact herr) ((hb.xFault _ _ _).trans hfault) hpol
    (by rw [hbank]; exact ⟨n, hn, hon, hrange⟩) gather (run (s.firedEntry c x))
  rw [State.fireOp_eq _ _ _ _ _ _ _ hready, if_pos hop, hfire] at hx
  obtain ⟨hh, hm⟩ := State.settle_fault (hb.aside.trans ht.aside) hc hr (s.firedEntry c x) 6
    (BitVec.ofNat 32 i) none
  exact ⟨_, hx, hh.haltedWith rfl, hm⟩

end Sys2Proof.Machine
end

section
/-! PROOF. VCVT of a poison element to an integer format halts the partition with POISON_INT and the element's number (R48, R198). -/

namespace Sys2Proof.Machine.State

variable {s t : State} {c p : Nat}

/-! ### What an instruction of a vector engine leaves before its elements are written -/

theorem aside_setReg {id : RegId} (h : 0x200 < id.row.base) (ix : List Nat) (v : Long) : Aside s (s.setReg id ix v) :=
  ⟨memKept_of_onlyRegs (onlyRegs_setReg s id ix v), reg_setReg_ne s _ _ _ _ _ (partStates_addr_ne h ix), fun _ => rfl⟩

theorem aside_pmc (k ev n : Nat) : Aside s (s.pmc k ev n) := (onlyBegun_pmc (c := k) k ev n).aside

theorem aside_vecStatus (eng : Nat) (e : Entry) : Aside s (s.vecStatus c eng e) :=
  ((aside_setReg (by decide) _ _).trans (aside_setReg (by decide) _ _)).trans (aside_setReg (by decide) _ _)

theorem aside_modPart (q : Nat) (f : Part → Part) : Aside s (s.modPart q f) := ⟨memKept_modPart q f, rfl, fun _ => rfl⟩

theorem aside_setVecFlags (eng : Nat) (e : Entry) (fl : Nat) : Aside s (s.setVecFlags c eng e fl) := by
  have hreg : ∀ ix v, Aside s (s.setReg .vecFlags ix v) := fun ix v => aside_setReg (by decide) ix v
  rw [setVecFlags]
  dsimp only
  split
  · exact (onlyBegun_refl (c := c) s).aside
  · split
    · exact ((hreg _ _).trans (aside_modPart _ _)).trans (aside_pmc _ _ _)
    · exact hreg _ _

theorem part_setVec (k : Core) (eng : Nat) (v : Vec) : (setVec k eng v).part = k.part := by
  rw [setVec]
  split <;> rfl

theorem aside_modVec (eng : Nat) (f : Vec → Vec) : Aside s (s.modVec c eng f) := (onlyBegun_modCore fun k => part_setVec k eng _).aside

theorem aside_usedFreshBy (n : Nat) : Aside s (s.usedFreshBy n) := ⟨⟨rfl, rfl, rfl, rfl, rfl, rfl⟩, rfl, fun _ => rfl⟩

theorem aside_scrambleGroup (eng base w lim : Nat) : Aside s (s.scrambleGroup c eng base w lim) :=
  (aside_modVec eng _).trans (aside_usedFreshBy _)

/-- The registers of a vector engine are not what firing marks. -/
theorem vecAt_markFired (eng : Nat) (e : Entry) : (s.markFired c e).vecAt c eng = s.vecAt c eng := by
  rw [vecAt, markFired, core_of_onlyRegs (pmc_frame _ c 0x02 1), modEntry, core_modCore_self, core_modCore_self]
  rfl

theorem vecAt_vecStatus (eng k : Nat) (e : Entry) : (s.vecStatus c eng e).vecAt c k = s.vecAt c k := rfl

/-- The state in which an instruction of a vector engine has fired and its meaning begins (R185). -/
def vecFired (s : State) (c eng : Nat) (e : Entry) : State := (s.markFired c e).vecStatus c eng (s.firedEntry c e)

theorem aside_vecFired (eng : Nat) (e : Entry) : Aside s (s.vecFired c eng e) := (onlyBegun_markFired e).aside.trans (aside_vecStatus eng _)

theorem vecAt_vecFired (eng : Nat) (e : Entry) : (s.vecFired c eng e).vecAt c eng = s.vecAt c eng :=
  (vecAt_vecStatus eng eng _).trans (vecAt_markFired eng e)

/-- An instruction of both profiles that fires in the Strip profile. -/
theorem fireBoth_strip {eng oc : Nat} {e : Entry} (hf : Fires s c (2 + eng) oc (s.vecAccepts c eng) e) (ht : e.vset.tensor = false)
    (body : State → Entry → State) : s.fireBoth c eng oc body = s.settle (body (s.vecFired c eng e) (s.firedEntry c e)) := by
  obtain ⟨hready, hop⟩ := hf
  have htensor : (s.firedEntry c e).vset.tensor = false := ht
  rw [fireBoth, fireVecOp, fireOp_eq _ _ _ _ _ _ _ hready, if_pos hop]
  simp only [htensor, Bool.false_eq_true, if_false]
  rfl

/-! ### VCVT in the Strip profile -/

/-- A VCVT that meets a poison element on its way into an integer format faults with the first one's number, once its flags and its
destination are as after the fault (R85, R181, R198). -/
theorem stripElem_poison {eng i : Nat} {e : Entry} {r : RWord} {v : Vec} {a : Act} (hop : e.opcode = 0x40) (hr : rWord e.op = r)
    (hv : s.vecAt c eng = v) (ha : actOf v e.vset r.m r.zm r.mreg = a)
    (hi : a.elems.find? (fun i => poisonInt 0x40 r.fmt [(r.sfmt, groupRead v r.vs1 (fmtWidth r.sfmt) i)]) = some i) :
    ∃ t, Aside s t ∧ s.stripElem c eng e = t.fault c e 5 (BitVec.ofNat 32 i) none := by
  have hn : a.n ≠ 0 := fun h0 => by
    have hmem := List.mem_of_find?_eq_some hi
    simp [Act.elems, h0] at hmem
  have hsf : getF e.op 51 48 = r.sfmt := by rw [← hr, rWord]
  refine ⟨((s.vecBeats c (stripBeats a.n (opWidth 0x40 r))).setVecFlags c eng e flPoison).scrambleGroup c eng r.vd (fmtWidth r.fmt) a.lim,
    ((aside_pmc c 0x05 _).trans (aside_setVecFlags eng e flPoison)).trans (aside_scrambleGroup eng _ _ _), ?_⟩
  have harity : [r.vs1, r.vs2, r.vs3].take (arity 0x40) = [r.vs1] := rfl
  simp only [stripElem, strip, hop, hr, hv, ha, hsf, harity, if_neg hn, if_true, List.map_cons, List.map_nil, hi]

end Sys2Proof.Machine.State

namespace Sys2Proof.Machine

theorem exec_vcvt (c : CoreId) (eng : Fin 2) (s : State) :
    exec (.vcvt c eng) s = .next (s.fireBoth c eng 0x40 fun t x => t.stripElem c eng x) := rfl

/-- VCVT: the first poison element of the group names the fault. -/
theorem poisonToIntegerFaults : Claims.PoisonToIntegerFaults := by
  intro s c eng p x hc hr hf htensor r v a src hle hpoison
  obtain ⟨i, hi⟩ : ∃ i, a.elems.find? (fun i => poisonInt 0x40 r.fmt (src i)) = some i :=
    Option.isSome_iff_exists.mp (List.find?_isSome.mpr hpoison)
  have hop : (s.firedEntry c x).opcode = 0x40 := hf.2
  obtain ⟨t, ht, hfire⟩ := State.stripElem_poison (e := s.firedEntry c x) hop rfl (State.vecAt_vecFired eng.val x) rfl hi
  have hx : exec (.vcvt c eng) s = .next (s.settle (t.fault c (s.firedEntry c x) 5 (BitVec.ofNat 32 i) none)) := by
    rw [exec_vcvt, State.fireBoth_strip hf htensor, hfire]
  obtain ⟨hh, -⟩ := State.settle_fault ((State.aside_vecFired eng.val x).trans ht) hc hr (s.firedEntry c x) 5 (BitVec.ofNat 32 i) none
  obtain ⟨m, hrec⟩ := hh.fault
  have hlt : i < 1024 := by
    have hmem := List.mem_of_find?_eq_some hi
    simp only [Act.elems, List.mem_filter, List.mem_range] at hmem
    omega
  refine ⟨_, hx, hh.1, by rw [hrec]; rfl, ?_⟩
  rw [hrec, hi]
  simp only [faultRec, Option.map_some, BitVec.toNat_ofNat]
  rw [Nat.mod_eq_of_lt (hlt.trans (by decide))]

end Sys2Proof.Machine

open Sys2Proof Sys2Proof.Machine

/-- Settles O32: up to the fault an instruction has moved counters and flags alone, and the halt that the fault begins stands, with its
record, through every other halt that it brings. -/
theorem checksBeforeAccess : Obligations.ChecksBeforeAccess :=
  ⟨poisonToIntegerFaults, translationIsCheckedFirst, coordinatesAreCheckedFirst⟩
end

section
/-! SUPPORT. What firing and completion do to the core of an entry, in one statement each, and what waits read after them (R64, R66-R68, R108,
R151). -/

namespace Sys2Proof.Machine

/-- What a wait reads of a core (R66, R108). -/
def Core.waitView (k : Core) : Option Nat × Nat × List Tok × List Resolved := (k.part, k.logical, k.tokens, k.resolved)

theorem resolvedOf_congr {k k' : Core} (h : k'.resolved = k.resolved) (step : Word) (i : Nat) (iters : List Nat) :
    resolvedOf k' step i iters = resolvedOf k step i iters := by rw [resolvedOf, resolvedOf, h]

theorem instIn_congr {k k' : Core} (h : k'.resolved = k.resolved) (step : Word) (j : List Nat) (m : Nat) (prev : Bool) (l : List (Nat × Rec)) :
    ∀ (n : Nat) (it : List Nat), instIn k' step j m prev l n it = instIn k step j m prev l n it := by
  induction l with
  | nil => exact fun _ _ => rfl
  | cons q t ih =>
    intro n it
    simp only [instIn, resolvedOf_congr h, ih]

theorem instOf_congr {k k' : Core} (h : k'.resolved = k.resolved) (recs : List Rec) (step : Word) (i : Nat) (j : List Nat) (prev : Bool) :
    instOf k' recs step i j prev = instOf k recs step i j prev := by
  simp only [instOf, instIn_congr h]

namespace State

variable {s t u : State} {c : Nat}

/-! ### What waits read (R66, R108, R611) -/

/-- Waits read the same in both states. -/
structure SameWaits (s t : State) : Prop where
  parts : t.parts = s.parts
  place : t.place = s.place
  cores : ∀ k, (t.core k).waitView = (s.core k).waitView

theorem SameWaits.waitMet (h : SameWaits s t) (c : Nat) (step : Word) (iters : List Nat) (w : Wait) :
    t.waitMet c step iters w = s.waitMet c step iters w := by
  have hcore : ∀ k, (t.core k).part = (s.core k).part ∧ (t.core k).logical = (s.core k).logical ∧ (t.core k).tokens = (s.core k).tokens ∧
      (t.core k).resolved = (s.core k).resolved := fun k => by simpa [Core.waitView] using h.cores k
  have hpart : ∀ p, t.part p = s.part p := fun p => by rw [part, part, h.parts]
  have hphys : ∀ l, t.physOf l = s.physOf l := fun l => by rw [physOf, physOf, h.place]
  have hinst : ∀ k recs i prev, instOf (t.core k) recs step i iters prev = instOf (s.core k) recs step i iters prev := fun k _ _ _ =>
    instOf_congr (hcore k).2.2.2 _ _ _ _ _
  have htok : ∀ kind id it, t.tokenAt c kind id step it = s.tokenAt c kind id step it := fun _ _ _ => by
    rw [tokenAt, tokenAt, (hcore c).2.2.1]
  simp only [State.waitMet, barrierMet, (hcore c).1, (hcore c).2.1, hpart, hphys, hinst, htok] <;> rfl

/-! ### Firing -/

/-- An entry that fires is marked in its window and in the count of samples (R68, R545). -/
theorem core_markFired (e : Entry) : ∃ n, (s.markFired c e).core c = { s.core c with
    sampleCount := n,
    window := (s.core c).window.map fun x =>
      if x.uid = e.uid then { x with phase := .done, sampled := s.sampleHit c e, fireTick := s.tick } else x } := by
  rw [markFired, core_of_onlyRegs (pmc_frame _ c 0x02 1), modEntry, core_modCore_self, core_modCore_self]
  exact ⟨_, rfl⟩

theorem sameWaits_markFired (e : Entry) : SameWaits s (s.markFired c e) := by
  have honly := coreOnly_markFired (s := s) (c := c) e
  refine ⟨by rw [honly.frame], by rw [honly.frame], fun k => ?_⟩
  by_cases hk : k = c
  · obtain ⟨n, hn⟩ := core_markFired (s := s) (c := c) e
    rw [hk, hn]
    rfl
  · rw [honly.others k hk]

theorem scalarOf_markFired (e : Entry) : (s.markFired c e).scalarOf c (s.firedEntry c e) = s.scalarOf c e :=
  congrArg (·.getD 0) ((sameWaits_markFired e).waitMet ..)

theorem tripsOf_markFired (e : Entry) : (s.markFired c e).tripsOf c (s.firedEntry c e) = s.tripsOf c e := by
  have h := scalarOf_markFired (s := s) (c := c) e
  unfold tripsOf
  rw [h]
  rfl

/-! ### Completion -/

/-- An entry's completion token, if its record names one (R64, R107). -/
def doneTokens (e : Entry) : List Tok :=
  if e.produce.toNat < 0x8000 then [] else [⟨.done, e.produce.toNat % 4096, e.step, e.iters, e.value⟩]

theorem core_produce_done (e : Entry) : (s.produce c e .done e.value).core c = { s.core c with tokens := (s.core c).tokens ++ doneTokens e } := by
  unfold produce doneTokens
  split
  · rw [List.append_nil]
  · rw [addTok, core_modCore_self]

theorem core_writeSample (ws : List Long) : ∃ sm, (s.writeSample c ws).core c = { s.core c with samples := sm } := by
  rw [writeSample]
  dsimp only
  split
  · exact ⟨(s.core c).samples, rfl⟩
  · rw [core_setRegF, core_setRegF, core_modCore_self]
    exact ⟨_, rfl⟩

theorem cores_rampMove : (s.rampMove c).cores = s.cores := by
  rw [rampMove]
  split <;> split <;> rfl

theorem core_rampMove (k : Nat) : (s.rampMove c).core k = s.core k := by rw [core, cores_rampMove, core]

theorem core_passOut_eq (e : Entry) (k : Nat) :
    (s.passOut c e).core k = ((s.rampMove c).modCore c fun k => { k with passes := k.passes.filter fun x => x.uid != e.uid }).core k := by
  rw [passOut]
  split <;> rfl

theorem core_passOut (e : Entry) : ∃ ps, (s.passOut c e).core c = { s.core c with passes := ps } := by
  rw [core_passOut_eq, core_modCore_self, core_rampMove]
  exact ⟨_, rfl⟩

theorem core_passOut_ne (e : Entry) {k : Nat} (h : k ≠ c) : (s.passOut c e).core k = s.core k := by
  rw [core_passOut_eq, core_modCore_ne _ _ _ h, core_rampMove]

/-- The state in which an entry that completes has left the array, where it is an MPASS (R151). -/
def leftArray (s : State) (c : Nat) (e : Entry) : State := if e.unit = 1 ∧ e.opcode = 0x11 then s.passOut c e else s

theorem core_leftArray (e : Entry) : ∃ ps, (s.leftArray c e).core c = { s.core c with passes := ps } := by
  rw [leftArray]
  split
  · exact core_passOut e
  · exact ⟨_, rfl⟩

theorem core_leftArray_ne (e : Entry) {k : Nat} (h : k ≠ c) : (s.leftArray c e).core k = s.core k := by
  rw [leftArray]
  split
  · exact core_passOut_ne e h
  · rfl

/-- The state in which an entry has left the window with its token, before it is sampled (R64, R67). -/
def leftWindow (s : State) (c : Nat) (e : Entry) : State :=
  ((s.modCore c fun k => { k with window := k.window.filter fun x => x.uid != e.uid }).produce c e .done e.value).pmc c 0x03 1

theorem coreOnly_leftWindow (e : Entry) : CoreOnly c s (s.leftWindow c e) :=
  ((coreOnly_modCore _).trans (coreOnly_produce e .done e.value)).trans (coreOnly_of_onlyRegs (pmc_frame _ c 0x03 1))

theorem core_leftWindow (e : Entry) : (s.leftWindow c e).core c = { s.core c with
    window := (s.core c).window.filter fun x => x.uid != e.uid, tokens := (s.core c).tokens ++ doneTokens e } := by
  rw [leftWindow, core_of_onlyRegs (pmc_frame _ c 0x03 1), core_produce_done, core_modCore_self]

/-- A completion: the array, the window, the sample buffer (R64, R67, R151, R545). -/
theorem complete_cases (e : Entry) : s.complete c e = (s.leftArray c e).leftWindow c e ∨
    ∃ ws, s.complete c e = (((s.leftArray c e).leftWindow c e).writeSample c ws).usedFresh := by
  by_cases h : e.sampled = true
  · exact .inr ⟨_, if_pos h⟩
  · exact .inl (if_neg h)

/-- An entry that completes leaves its core's window with its token; besides, its core has moved in the array and the sample buffer alone. -/
theorem core_complete (e : Entry) : ∃ sm ps, (s.complete c e).core c = { s.core c with
    window := (s.core c).window.filter fun x => x.uid != e.uid, tokens := (s.core c).tokens ++ doneTokens e, samples := sm, passes := ps } := by
  obtain ⟨ps, hps⟩ := core_leftArray (s := s) (c := c) e
  obtain h | ⟨ws, h⟩ := complete_cases (s := s) (c := c) e
  · exact ⟨_, ps, by rw [h, core_leftWindow, hps]⟩
  · obtain ⟨sm, hsm⟩ := core_writeSample (s := (s.leftArray c e).leftWindow c e) (c := c) ws
    exact ⟨sm, ps, by rw [h, core_usedFresh, hsm, core_leftWindow, hps]⟩

theorem core_complete_ne (e : Entry) {k : Nat} (hk : k ≠ c) : (s.complete c e).core k = s.core k := by
  have hleft := ((coreOnly_leftWindow (s := s.leftArray c e) (c := c) e).others k hk).trans (core_leftArray_ne e hk)
  obtain h | ⟨ws, h⟩ := complete_cases (s := s) (c := c) e
  · rw [h, hleft]
  · rw [h, core_usedFresh, (coreOnly_writeSample ws).others k hk, hleft]

/-- An entry that fires and completes at once: its core keeps everything but its window, its tokens and what samples and the array move. -/
theorem core_fired_complete (x : Entry) : ∃ sm ps n, ((s.markFired c x).complete c (s.firedEntry c x)).core c = { s.core c with
    window := (s.core c).window.filter fun e => e.uid != x.uid, tokens := (s.core c).tokens ++ doneTokens x, samples := sm, passes := ps,
    sampleCount := n } := by
  obtain ⟨n, hn⟩ := core_markFired (s := s) (c := c) x
  obtain ⟨sm, ps, h⟩ := core_complete (s := s.markFired c x) (c := c) (s.firedEntry c x)
  refine ⟨sm, ps, n, ?_⟩
  have hwin : (((s.core c).window.map fun y => if y.uid = x.uid then { y with phase := .done, sampled := s.sampleHit c x, fireTick := s.tick }
      else y).filter fun y => y.uid != x.uid) = (s.core c).window.filter fun e => e.uid != x.uid := by
    induction (s.core c).window with
    | nil => rfl
    | cons y l ih => by_cases hy : y.uid = x.uid <;> simp [hy, ih]
  rw [h, hn]
  simp only [firedEntry, hwin]
  rfl

end State
end Sys2Proof.Machine
end

section
/-! PROOF. The control instructions (R65, R74, R75, R84, R109, R611). -/

namespace Sys2Proof

theorem FMap.set_set {α : Type} (m : FMap α) (k : Nat) (v w : α) : (m.set k v).set k w = m.set k w := by
  induction m with
  | nil => simp [FMap.set]
  | cons q t ih =>
    obtain ⟨j, x⟩ := q
    by_cases hlt : k < j
    · simp [FMap.set, hlt]
    · by_cases he : k = j <;> simp [FMap.set, hlt, he, ih]

end Sys2Proof

namespace Sys2Proof.Machine

namespace State

variable {s t u : State} {c : Nat}

/-- An entry of the control unit that fires and completes at once. -/
def joined (s : State) (c : Nat) (x : Entry) : State := (s.markFired c x).complete c (s.firedEntry c x)

theorem coreOnly_joined {x : Entry} (h : x.unit = 0) : CoreOnly c s (s.joined c x) :=
  (coreOnly_markFired x).trans (coreOnly_complete (e := s.firedEntry c x) fun hp => absurd (h.symm.trans hp.1) (by decide))

theorem leavesWithToken_joined {x : Entry} (h : x.unit = 0) : Claims.LeavesWithToken c x s (s.joined c x) := by
  obtain ⟨sm, ps, n, hcore⟩ := core_fired_complete (s := s) (c := c) x
  have honly := coreOnly_joined (s := s) (c := c) h
  refine ⟨?_, ?_, ⟨?_, honly.others⟩, ?_⟩
  · rw [joined, hcore]
  · rw [joined, hcore]
    rfl
  · rw [honly.frame]
  · rw [honly.frame]

/-- What is done to the core apart from its window and its tokens does not show. -/
theorem leavesWithToken_modCore {x : Entry} (h : Claims.LeavesWithToken c x s t) {f : Core → Core} (hw : ∀ k, (f k).window = k.window)
    (ht : ∀ k, (f k).tokens = k.tokens) : Claims.LeavesWithToken c x s (t.modCore c f) := by
  obtain ⟨hwin, htok, ⟨hframe, hothers⟩, hparts⟩ := h
  refine ⟨?_, ?_, ⟨?_, fun k hk => (core_modCore_ne t c f hk).trans (hothers k hk)⟩, hparts⟩
  · rw [core_modCore_self, hw, hwin]
  · rw [core_modCore_self, ht, htok]
  · have hmod : { t.modCore c f with fresh := s.fresh } = ({ t with fresh := s.fresh } : State).modCore c f := rfl
    rw [hmod, hframe]
    rfl

theorem fetch_joined (x : Entry) : ((s.joined c x).core c).fetch = (s.core c).fetch := by
  obtain ⟨sm, ps, n, hcore⟩ := core_fired_complete (s := s) (c := c) x
  rw [joined, hcore]

theorem resolved_joined (x : Entry) : ((s.joined c x).core c).resolved = (s.core c).resolved := by
  obtain ⟨sm, ps, n, hcore⟩ := core_fired_complete (s := s) (c := c) x
  rw [joined, hcore]

/-- A header that has resolved to n: its entry has left, its resolution is kept, and fetch goes on (R74, R75, R611). -/
def headed (s : State) (c : Nat) (x : Entry) (n : Nat) (g : Fetch → Fetch) : State :=
  (s.joined c x).modCore c fun k => { k with resolved := k.resolved ++ [⟨x.step, x.recIx, x.iters, n⟩], fetch := k.fetch.map g }

theorem modCore_modCore (f g : Core → Core) : (s.modCore c f).modCore c g = s.modCore c (g ∘ f) := by
  simp only [modCore, setCore, core, FMap.set_set, FMap.get_set_self, Function.comp]

theorem resolve_modFetch_joined (x : Entry) (n : Nat) (g : Fetch → Fetch) :
    (((s.joined c x).resolve c (s.firedEntry c x) n).modFetch c g) = s.headed c x n g := modCore_modCore _ _

theorem headed_spec {x : Entry} (h : x.unit = 0) (n : Nat) (g : Fetch → Fetch) :
    Claims.LeavesWithToken c x s (s.headed c x n g) ∧ ((s.headed c x n g).core c).fetch = (s.core c).fetch.map g ∧
      ((s.headed c x n g).core c).resolved = (s.core c).resolved ++ [⟨x.step, x.recIx, x.iters, n⟩] := by
  refine ⟨leavesWithToken_modCore (leavesWithToken_joined h) (fun _ => rfl) fun _ => rfl, ?_, ?_⟩
  · rw [headed, core_modCore_self, fetch_joined]
  · rw [headed, core_modCore_self, resolved_joined]

/-! ### A fault leaves fetch and what is halted (R84, R88) -/

/-- Every core fetches where it did, and those that fire nothing more stay so. -/
structure StaysHalted (s t : State) : Prop where
  fetch : ∀ k, (t.core k).fetch = (s.core k).fetch
  halted : ∀ k, (s.core k).halted = true → (t.core k).halted = true

theorem staysHalted_refl (s : State) : StaysHalted s s := ⟨fun _ => rfl, fun _ h => h⟩

theorem staysHalted_trans (h : StaysHalted s t) (k : StaysHalted t u) : StaysHalted s u :=
  ⟨fun j => (k.fetch j).trans (h.fetch j), fun j hj => k.halted j (h.halted j hj)⟩

theorem staysHalted_of_cores (h : t.cores = s.cores) : StaysHalted s t := by
  have hc : ∀ k, t.core k = s.core k := fun k => by rw [core, core, h]
  exact ⟨fun k => by rw [hc], fun k hk => by rw [hc]; exact hk⟩

theorem staysHalted_modCore {f : Core → Core} (hf : ∀ k, (f k).fetch = k.fetch) (hh : ∀ k, k.halted = true → (f k).halted = true) :
    StaysHalted s (s.modCore c f) := by
  refine ⟨fun k => ?_, fun k hk => ?_⟩
  · by_cases hkc : k = c
    · rw [hkc, core_modCore_self, hf]
    · rw [core_modCore_ne _ _ _ hkc]
  · by_cases hkc : k = c
    · subst hkc
      rw [core_modCore_self]
      exact hh _ hk
    · rw [core_modCore_ne _ _ _ hkc]
      exact hk

theorem cores_of_reports (h : Reports s t) : t.cores = s.cores := by
  rw [Reports] at h
  rw [h]

theorem cores_foldl {α : Type} {f : State → α → State} (hf : ∀ s a, (f s a).cores = s.cores) (l : List α) (s : State) :
    (l.foldl f s).cores = s.cores :=
  foldl_rel (fun s t => t.cores = s.cores) (fun _ => rfl) (fun h k => k.trans h) f hf l s

theorem cores_record (severity code : Nat) (part : Option Nat) (unit : Nat) (step : Option Word) (addr : Option Nat) (detail : List Byte) :
    (s.record severity code part unit step addr detail).cores = s.cores := cores_of_reports (record_frame s ..)

theorem cores_tellHalt (p : Nat) : (s.tellHalt p).cores = s.cores := by
  rw [tellHalt]
  split
  · split
    · rw [cores_record]
      rfl
    · rfl
  · rfl

theorem cores_reportFallback (p step : Nat) : (s.reportFallback p step).cores = s.cores := by
  rw [reportFallback]
  split
  · rfl
  · exact cores_record ..

theorem cores_reportAll (p : Nat) : (s.reportAll p).cores = s.cores := cores_foldl (fun _ _ => cores_reportFallback _ _) _ s

/-- The end of a halt tells of it and leaves the cores. -/
theorem cores_haltDone (p : Nat) : (s.haltDone p).cores = s.cores := by
  rw [haltDone]
  dsimp only
  split
  · rw [cores_foldl fun _ _ => cores_of_reports (reply_reports _ _ _ _ _ _), cores_reportAll, cores_tellHalt]
    rfl
  · rfl

theorem cores_haltOne (p : Nat) (r : FaultRec) : (s.haltOne p r).cores = s.cores := by
  rw [haltOne]
  split
  · exact cores_haltDone p
  · rfl

theorem cores_faultOne (k : Nat) (e : Entry) (cause : Nat) (index : Word) (addr : Option Nat) :
    (s.faultOne k e cause index addr).cores = (s.faultedAt k e).cores := by
  cases hc : (s.core k).part with
  | none => rw [faultOne_unheld hc]
  | some p =>
    cases hr : s.isRunning p with
    | true => rw [faultOne_running hc hr, cores_haltOne]
    | false =>
      rw [faultOne_stopped hc hr, cores_haltDone]
      rfl

theorem staysHalted_faultedAt (k : Nat) (e : Entry) : StaysHalted s (s.faultedAt k e) := by
  have hentry : StaysHalted s (s.modEntry k e.uid fun x => { x with phase := .faulted, bound := [] }) :=
    staysHalted_modCore (fun _ => rfl) fun _ h => h
  exact staysHalted_trans (staysHalted_trans hentry (staysHalted_modCore (f := stopCore) (fun _ => rfl) fun _ _ => rfl))
    (staysHalted_of_cores rfl)

theorem halted_faultedAt (k : Nat) (e : Entry) : ((s.faultedAt k e).core k).halted = true := by
  have h : (s.faultedAt k e).core k = stopCore ((s.modEntry k e.uid fun x => { x with phase := .faulted, bound := [] }).core k) :=
    core_modCore_self ..
  rw [h]
  rfl

theorem staysHalted_faultOne (k : Nat) (e : Entry) (cause : Nat) (index : Word) (addr : Option Nat) :
    StaysHalted s (s.faultOne k e cause index addr) :=
  staysHalted_trans (staysHalted_faultedAt k e) (staysHalted_of_cores (cores_faultOne ..))

theorem staysHalted_peerFaults (fuel : Nat) : ∀ (s : State) (ps : List Nat), StaysHalted s (peerFaults fuel s ps) := by
  induction fuel with
  | zero => exact fun s _ => staysHalted_refl s
  | succ n ih =>
    intro s ps
    cases ps with
    | nil => exact staysHalted_refl s
    | cons q rest =>
      rw [peerFaults]
      refine staysHalted_trans (foldl_rel StaysHalted staysHalted_refl (fun h k => staysHalted_trans h k) _ (fun t w => ?_) _ s) (ih _ _)
      have hwait : StaysHalted t (t.modPart w.1 fun x => { x with xwaits := x.xwaits.filter fun v => decide (v ≠ w.2) }) :=
        staysHalted_of_cores rfl
      dsimp only
      split
      · exact staysHalted_trans hwait (staysHalted_faultOne ..)
      · exact hwait

/-- A fault stops its core and moves no core's fetch position (R84). -/
theorem fault_stops (e : Entry) (cause : Nat) (index : Word) (addr : Option Nat) :
    ((s.fault c e cause index addr).core c).fetch = (s.core c).fetch ∧ ((s.fault c e cause index addr).core c).halted = true := by
  have hone := staysHalted_faultOne (s := s) c e cause index addr
  have hhalt : ((s.faultOne c e cause index addr).core c).halted = true := by
    rw [core, cores_faultOne]
    exact halted_faultedAt c e
  have hpeers : StaysHalted (s.faultOne c e cause index addr) (s.fault c e cause index addr) := by
    rw [fault]
    split
    · split
      · exact staysHalted_peerFaults ..
      · exact staysHalted_refl _
    · exact staysHalted_refl _
  exact ⟨(staysHalted_trans hone hpeers).fetch c, hpeers.halted c hhalt⟩

end State

/-! ### The instructions -/

theorem exec_tjoin (c : CoreId) (s : State) :
    exec (.tjoin c) s = .next (s.fireOp c 0 0x02 (fun e => e.opcode == 0x02) fun t e => t.complete c e) := rfl

theorem exec_pred (c : CoreId) (s : State) :
    exec (.pred c) s = .next (s.fireOp c 0 0x03 (fun e => e.opcode == 0x03) fun t e => t.firePred c e) := rfl

theorem exec_loop (c : CoreId) (s : State) :
    exec (.loop c) s = .next (s.fireOp c 0 0x04 (fun e => e.opcode == 0x04) fun t e => t.fireLoop c e) := rfl

/-- A command whose entry fires comes to its body's effect. -/
theorem fireOp_fires {s : State} {c unit oc : Nat} {acc : Entry → Bool} {x : Entry} (hf : Fires s c unit oc acc x)
    (body : State → Entry → State) : s.fireOp c unit oc acc body = body (s.markFired c x) (s.firedEntry c x) := by
  obtain ⟨hready, hop⟩ := hf
  rw [State.fireOp_eq _ _ _ _ _ _ _ hready, if_pos hop]

/-- TJOIN: it completes and does nothing else. -/
theorem joinProducesItsToken : Claims.JoinProducesItsToken := by
  intro s c x hf
  refine ⟨s.joined c x, ?_, State.leavesWithToken_joined (State.unit_of_oldestReady hf.1), State.fetch_joined x⟩
  rw [exec_tjoin, fireOp_fires hf]
  rfl

/-- PRED, by its scalar. -/
theorem predicateSkipsOrEnters : Claims.PredicateSkipsOrEnters := by
  intro s c x hf zero
  obtain ⟨hleaves, hfetch, hres⟩ := State.headed_spec (s := s) (c := c) (State.unit_of_oldestReady hf.1) (if zero then 0 else 1)
    fun f => moveTo f (if zero then x.recIx + 1 + (getF x.op 11 0 + 1) else x.recIx + 1) f.nest
  refine ⟨_, ?_, hleaves, hfetch, hres⟩
  rw [exec_pred, fireOp_fires hf, State.firePred, State.scalarOf_markFired, ← State.resolve_modFetch_joined]
  rfl

/-- LOOP within its maximum. -/
theorem loopCountsItsTrips : Claims.LoopCountsItsTrips := by
  intro s c x hf hmax stop
  obtain ⟨hleaves, hfetch, hres⟩ := State.headed_spec (s := s) (c := c) (State.unit_of_oldestReady hf.1) (s.tripsOf c x)
    fun f => if s.tripsOf c x = 0 then moveTo f stop f.nest
      else { f with recIx := x.recIx + 1, blocked := false, nest := f.nest ++ [⟨x.recIx, x.recIx + 1, stop, 0, s.tripsOf c x⟩] }
  refine ⟨_, ?_, hleaves, hfetch, hres⟩
  have hover : ¬ getF (s.firedEntry c x).op 55 32 + 1 < s.tripsOf c x := Nat.not_lt.mpr hmax
  rw [exec_loop, fireOp_fires hf, State.fireLoop, State.tripsOf_markFired, ← State.resolve_modFetch_joined]
  simp only [hover, if_false]
  rfl

/-- LOOP above its maximum: it faults in the state in which it has fired. -/
theorem loopAboveItsMaximumFaults : Claims.LoopAboveItsMaximumFaults := by
  intro s c x p hf hc hr hmax
  have hb : State.OnlyBegun c s (s.markFired c x) := State.onlyBegun_markFired x
  have hover : getF (s.firedEntry c x).op 55 32 + 1 < s.tripsOf c x := hmax
  have hx : exec (.loop c) s = .next ((s.markFired c x).fault c (s.firedEntry c x) 9 noIndex none) := by
    rw [exec_loop, fireOp_fires hf, State.fireLoop, State.tripsOf_markFired]
    simp only [hover, if_true]
  obtain ⟨hfetch, hhalt⟩ := State.fault_stops (s := s.markFired c x) (c := c) (s.firedEntry c x) 9 noIndex none
  have hhalted := State.haltedBy_fault (hb.holds.trans hc) ((hb.aside.holders.isRunning p).trans hr) (s.firedEntry c x) 9 noIndex none
  obtain ⟨n, hn⟩ := State.core_markFired (s := s) (c := c) x
  exact ⟨_, hx, hhalted.haltedWith rfl, hfetch.trans (by rw [hn]), hhalt⟩

end Sys2Proof.Machine

open Sys2Proof Sys2Proof.Machine

/-- Settles O11: a control instruction that does not fault completes as it fires, and its header moves fetch and the resolutions alone. -/
theorem controlInstructions : Obligations.ControlInstructions :=
  ⟨joinProducesItsToken, predicateSkipsOrEnters, loopCountsItsTrips, loopAboveItsMaximumFaults⟩
end

section
/-! SUPPORT. The bytes of a memory after a store to it (R33), and the banks after a store to one of them. -/

namespace Sys2Proof.Machine

/-! ### Bytes -/

theorem readByte_of_forall_ne {l : List Host.Cell} {b : Nat} (h : ∀ x ∈ l, x.1 ≠ b) : readByte l b = 0 := by
  induction l with
  | nil => rfl
  | cons x t ih =>
    obtain ⟨hx, ht⟩ := List.forall_mem_cons.mp h
    rw [readByte, if_neg (Ne.symm hx), ih ht]

/-- Cells of other addresses in front do not show. -/
theorem readByte_append_left {l : List Host.Cell} {b : Nat} (h : ∀ x ∈ l, x.1 ≠ b) (m : List Host.Cell) :
    readByte (l ++ m) b = readByte m b := by
  induction l with
  | nil => rfl
  | cons x t ih =>
    obtain ⟨hx, ht⟩ := List.forall_mem_cons.mp h
    rw [List.cons_append, readByte, if_neg (Ne.symm hx), ih ht]

/-- Nor do those behind. -/
theorem readByte_append_right {m : List Host.Cell} {b : Nat} (h : ∀ x ∈ m, x.1 ≠ b) (l : List Host.Cell) :
    readByte (l ++ m) b = readByte l b := by
  induction l with
  | nil => exact readByte_of_forall_ne h
  | cons x t ih => simp only [List.cons_append, readByte, ih]

/-- A filter by address that keeps an address keeps its byte. -/
theorem readByte_filter {p : Nat → Bool} {b : Nat} (h : p b = true) (m : List Host.Cell) :
    readByte (m.filter fun c => p c.1) b = readByte m b := by
  induction m with
  | nil => rfl
  | cons x t ih =>
    by_cases hx : p x.1 = true
    · rw [List.filter_cons_of_pos (p := fun c : Host.Cell => p c.1) hx, readByte, readByte, ih]
    · have hne : b ≠ x.1 := fun he => hx (he ▸ h)
      rw [List.filter_cons_of_neg (p := fun c : Host.Cell => p c.1) hx, readByte, if_neg hne, ih]

theorem readByte_cellsOf {bs : List Byte} {a b : Nat} (h : a ≤ b) : readByte (cellsOf a bs) b = bs.getD (b - a) 0 := by
  induction bs generalizing a with
  | nil => rfl
  | cons v t ih =>
    rcases h.eq_or_lt with rfl | hlt
    · have hrest : readByte (cellsOf (a + 1) t) a = 0 := readByte_of_forall_ne fun x hx => by have := cellsOf_mem (a + 1) t x hx; omega
      rw [cellsOf, Nat.sub_self, List.getD_cons_zero]
      split
      next hv => rw [hrest, hv]
      next => rw [readByte, if_pos rfl]
    · obtain ⟨n, hn⟩ : ∃ n, b - a = n + 1 := ⟨b - a - 1, by omega⟩
      have hn' : b - (a + 1) = n := by omega
      rw [cellsOf, hn, List.getD_cons_succ, ← hn']
      split
      · exact ih hlt
      · rw [readByte, if_neg hlt.ne', ih hlt]

/-- A store: its bytes, and every other byte as before. -/
theorem readByte_writeBytes (m : List Host.Cell) (a : Nat) (bs : List Byte) (b : Nat) :
    readByte (writeBytes m a bs) b = if a ≤ b ∧ b < a + bs.length then bs.getD (b - a) 0 else readByte m b := by
  have hlo : a ≤ b → ∀ x ∈ m.filter fun c => decide (c.1 < a), x.1 ≠ b := fun h x hx => by
    have := of_decide_eq_true (List.mem_filter.mp hx).2
    omega
  have hhi : b < a + bs.length → ∀ x ∈ m.filter fun c => decide (a + bs.length ≤ c.1), x.1 ≠ b := fun h x hx => by
    have := of_decide_eq_true (List.mem_filter.mp hx).2
    omega
  have hmid : ¬ (a ≤ b ∧ b < a + bs.length) → ∀ x ∈ cellsOf a bs, x.1 ≠ b := fun h x hx => by
    have := cellsOf_mem a bs x hx
    omega
  rw [writeBytes, List.append_assoc]
  split
  next h => rw [readByte_append_left (hlo h.1), readByte_append_right (hhi h.2), readByte_cellsOf h.1]
  next h =>
    by_cases hab : a ≤ b
    · rw [readByte_append_left (hlo hab), readByte_append_left (hmid h),
        readByte_filter (p := fun x => decide (a + bs.length ≤ x)) (by simp; omega)]
    · rw [← List.append_assoc, readByte_append_right (hhi (by omega)), readByte_append_right (hmid h),
        readByte_filter (p := fun x => decide (x < a)) (by simp; omega)]

theorem readByte_writeBytes_of_not_mem (m : List Host.Cell) {a b : Nat} {bs : List Byte} (h : ¬ (a ≤ b ∧ b < a + bs.length)) :
    readByte (writeBytes m a bs) b = readByte m b := by rw [readByte_writeBytes, if_neg h]

/-- A store's bytes read back. -/
theorem readBytes_writeBytes_self (m : List Host.Cell) (a : Nat) (bs : List Byte) : readBytes (writeBytes m a bs) a bs.length = bs := by
  refine List.ext_getElem (by simp [readBytes]) fun i hi hi' => ?_
  simp only [readBytes, List.getElem_map, List.getElem_range, readByte_writeBytes]
  rw [if_pos ⟨by omega, by omega⟩, Nat.add_sub_cancel_left, List.getD_eq_getElem _ _ hi']

/-- Bytes that a store does not meet read as before. -/
theorem readBytes_writeBytes_of_disjoint (m : List Host.Cell) {a b n : Nat} {bs : List Byte} (h : b + n ≤ a ∨ a + bs.length ≤ b) :
    readBytes (writeBytes m a bs) b n = readBytes m b n := by
  refine List.map_congr_left fun i hi => readByte_writeBytes_of_not_mem m ?_
  have := List.mem_range.mp hi
  omega

end Sys2Proof.Machine

namespace Sys2Proof.Machine.State

variable {s t u : State}

/-! ### Banks -/

theorem get_putBank (m : FMap Bank) (i j : Nat) (b : Bank) : (putBank m i b).get Bank.zero j = if j = i then b else m.get Bank.zero j := by
  rw [putBank]
  by_cases hj : j = i
  · subst hj
    split
    next hb => rw [FMap.get_erase_self, if_pos rfl, hb]
    next => rw [FMap.get_set_self, if_pos rfl]
  · rw [if_neg hj]
    split
    · exact FMap.get_erase_ne m _ hj
    · exact FMap.get_set_ne m _ _ hj

/-- A vat's or a pool's bank, not a tier. -/
def IsBank (pl : Place) : Prop := ∀ slow, pl ≠ .tier slow

theorem isBank_vat (i : Nat) : IsBank (.vat i) := fun _ h => nomatch h

theorem isBank_pool (i : Nat) : IsBank (.pool i) := fun _ h => nomatch h

theorem cells_of_isBank {pl : Place} (h : IsBank pl) (s : State) : s.cells pl = (s.bankOf pl).data := by
  cases pl with
  | tier slow => exact absurd rfl (h slow)
  | vat i => rfl
  | pool i => rfl

/-- The state with a bank set. -/
def setBank (s : State) (pl : Place) (b : Bank) : State :=
  match pl with
  | .vat i => s.setVat i b
  | .pool i => s.setPool i b
  | .tier _ => s

theorem bankOf_setBank {pl : Place} (h : IsBank pl) (b : Bank) (q : Place) : (s.setBank pl b).bankOf q = if q = pl then b else s.bankOf q := by
  cases pl with
  | tier slow => exact absurd rfl (h slow)
  | vat i => cases q <;> simp [setBank, setVat, bankOf, vat, pool, get_putBank]
  | pool i => cases q <;> simp [setBank, setPool, bankOf, vat, pool, get_putBank]

theorem setBank_frame (pl : Place) (b : Bank) : s.setBank pl b = { s with vats := (s.setBank pl b).vats, pools := (s.setBank pl b).pools } := by
  cases pl <;> rfl

theorem setBytes_eq {pl : Place} (hb : IsBank pl) (a : Nat) (bs : List Byte) :
    s.setBytes pl a bs = s.setBank pl { s.bankOf pl with data := writeBytes (s.bankOf pl).data a bs } := by
  cases pl with
  | tier slow => exact absurd rfl (hb slow)
  | vat i => rfl
  | pool i => rfl

/-- A write of a bank without errors: its grants are counted, and its bytes stand with no word in error (R293). -/
theorem bankWrite_clean {pl : Place} (hb : IsBank pl) (a : Nat) (bs : List Byte) (h : (s.bankOf pl).errs = []) :
    s.bankWrite pl a bs = (((s.vatGrants pl a bs.length).setBank pl ⟨writeBytes (s.bankOf pl).data a bs, []⟩).setBank pl
      ⟨writeBytes (s.bankOf pl).data a bs, []⟩, none) := by
  have hg := bankOf_onlyRegs (vatGrants_frame s pl a bs.length) pl
  have hset : (s.vatGrants pl a bs.length).setBytes pl a bs =
      (s.vatGrants pl a bs.length).setBank pl ⟨writeBytes (s.bankOf pl).data a bs, []⟩ := by
    rw [setBytes_eq hb, hg]
    simp only [h]
  have hself := bankOf_setBank (s := s.vatGrants pl a bs.length) hb ⟨writeBytes (s.bankOf pl).data a bs, []⟩ pl
  rw [if_pos rfl] at hself
  cases pl with
  | tier slow => exact absurd rfl (hb slow)
  | vat i =>
    simp only [bankWrite, h, List.filter_nil, List.foldl_nil, hset]
    generalize State.setBank (s.vatGrants _ _ _) _ _ = u at hself ⊢
    simp only [bankOf] at hself
    simp [bankOf, hself, setBank]
  | pool i =>
    simp only [bankWrite, h, List.filter_nil, List.foldl_nil, hset]
    generalize State.setBank (s.vatGrants _ _ _) _ _ = u at hself ⊢
    simp only [bankOf] at hself
    simp [bankOf, hself, setBank]

end Sys2Proof.Machine.State
end

section
/-! SUPPORT. Stores where nothing is in error: what they keep, and that the writes held behind a load go on without a fault (R77, R293, R324). -/

namespace Sys2Proof.Machine.State

variable {s t u : State} {c : Nat}

/-! ### Whether a stack has stopped (R335) is not among what counters and the cores' registers tell -/

/-- The stacks have stopped, or not, as before. -/
def HeatKept (s t : State) : Prop := ∀ st, t.stackStopped st = s.stackStopped st

theorem heatKept_refl (s : State) : HeatKept s s := fun _ => rfl

theorem heatKept_trans (h : HeatKept s t) (k : HeatKept t u) : HeatKept s u := fun st => (k st).trans (h st)

theorem heatKept_of_mrs (h : t.mrs = s.mrs) : HeatKept s t := fun st => by simp only [stackStopped, regF, reg, h]

theorem heatKept_usedFresh (s : State) : HeatKept s s.usedFresh := heatKept_of_mrs rfl

/-- The registers of SLU_HEAT stand 0x80000 apart, from a multiple of that. -/
theorem sluHeat_addr_mod (st : Nat) : RegId.sluHeat.row.addr [st] % 0x80000 = 0 := by
  simp [RegRow.addr, RegId.row, sumN]

theorem heatKept_of_sameRegsBut {l : List Nat} (h : SameRegsBut l s t) (hl : ∀ a ∈ l, a % 0x80000 ≠ 0) : HeatKept s t := fun st => by
  have hne : RegId.sluHeat.row.addr [st] ∉ l := fun hm => hl _ hm (sluHeat_addr_mod st)
  rw [stackStopped, stackStopped, regF, regF, reg_of_sameRegsBut h hne]

theorem heatKept_setRegF {id : RegId} {ix : List Nat} (h : id.row.addr ix % 0x80000 ≠ 0) (hi lo v : Nat) :
    HeatKept s (s.setRegF id ix hi lo v) :=
  heatKept_of_sameRegsBut (sameRegsBut_setReg s id ix _) fun a ha => by rw [List.mem_singleton.mp ha]; exact h

theorem heatKept_pmc (k ev n : Nat) : HeatKept s (s.pmc k ev n) := by
  refine heatKept_of_sameRegsBut (sameRegsBut_pmc k ev n) fun a ha => ?_
  simp only [coreCounters, List.mem_cons, List.mem_map, List.mem_range] at ha
  rcases ha with rfl | ⟨j, hj, rfl⟩ <;> simp [RegRow.addr, RegId.row, cix, sumN] <;> omega

theorem meaStatus_addr_mod (k : Nat) : RegId.meaStatus.row.addr (cix k) % 0x80000 ≠ 0 := by
  simp [RegRow.addr, RegId.row, cix, sumN]
  omega

theorem pmcSstat_addr_mod (k : Nat) : RegId.pmcSstat.row.addr (cix k) % 0x80000 ≠ 0 := by
  simp [RegRow.addr, RegId.row, cix, sumN]
  omega

theorem heatKept_rampMove : HeatKept s (s.rampMove c) := by
  have hset : ∀ v, HeatKept s (s.setRegF .meaStatus (cix c) 39 32 v).usedFresh := heatKept_setRegF (meaStatus_addr_mod c) 39 32
  rw [rampMove]
  split
  · split
    · exact heatKept_refl s
    · exact hset _
  · split
    · exact heatKept_refl s
    · exact hset _

theorem heatKept_leftArray (e : Entry) : HeatKept s (s.leftArray c e) := by
  rw [leftArray]
  split
  · refine heatKept_trans (heatKept_rampMove (c := c)) (heatKept_of_mrs ?_)
    rw [passOut]
    split <;> rfl
  · exact heatKept_refl s

theorem heatKept_leftWindow (e : Entry) : HeatKept s (s.leftWindow c e) := by
  refine heatKept_trans (heatKept_of_mrs ?_) (heatKept_pmc c 0x03 1)
  rw [produce]
  split <;> rfl

theorem heatKept_writeSample (ws : List Long) : HeatKept s (s.writeSample c ws) := by
  have hset := fun (u : State) hi lo v => heatKept_setRegF (s := u) (pmcSstat_addr_mod c) hi lo v
  rw [writeSample]
  dsimp only
  split
  · exact hset s 47 32 _
  · exact heatKept_trans (hset (s.modCore c _) 23 16 _) (hset _ 8 0 _)

theorem heatKept_complete (e : Entry) : HeatKept s (s.complete c e) := by
  have hleft := heatKept_trans (heatKept_leftArray (s := s) (c := c) e) (heatKept_leftWindow (c := c) e)
  obtain h | ⟨ws, h⟩ := complete_cases (s := s) (c := c) e
  · rw [h]
    exact hleft
  · rw [h]
    exact heatKept_trans hleft (heatKept_trans (heatKept_writeSample (c := c) ws) (heatKept_usedFresh _))

/-! ### States without errors -/

/-- No word of a vat or a pool is in error, no granule of a tier, and no access to a tier waits. -/
structure Clean (s : State) : Prop where
  banks : ∀ pl, (s.bankOf pl).errs = []
  calm : TiersCalm s

theorem clean_of_noErrors (h : NoErrors s) : Clean s := ⟨errs_bankOf h, tiersCalm_of_noErrors h⟩

/-- What a state's errors turn on, but for the stacks' heat. -/
def errorView (s : State) : Tier × Tier × FMap Bank × FMap Bank × FMap Stack × FMap Xing := (s.fast, s.slow, s.vats, s.pools, s.hbm, s.xings)

theorem Clean.of_view (h : Clean s) (hv : t.errorView = s.errorView) (hh : HeatKept s t) : Clean t := by
  simp only [errorView, Prod.mk.injEq] at hv
  obtain ⟨hfast, hslow, hvats, hpools, hhbm, hxings⟩ := hv
  refine ⟨fun pl => ?_, ⟨?_, ?_, fun st => ⟨(hh st).trans (h.calm.banks st).1, ?_⟩, ?_⟩⟩
  · have hb : t.bankOf pl = s.bankOf pl := by cases pl <;> simp only [bankOf, vat, pool, hvats, hpools]
    rw [hb]
    exact h.banks pl
  · rw [hfast]
    exact h.calm.fast
  · rw [hslow]
    exact h.calm.slow
  · rw [stack, hhbm]
    exact (h.calm.banks st).2
  · rw [PhysUp, hxings]
    exact h.calm.phys

/-! ### What goes on beside the loads in flight -/

/-- Load L binds no span (R77). -/
def BindsNone (s : State) (L : Nat × Nat) : Prop :=
  (∀ e ∈ (s.core L.1).window, e.uid = L.2 → e.bound = []) ∧ ∀ f ∈ s.ferries, ¬ (f.core = L.1 ∧ f.uid = L.2)

/-- The loads in flight of a core, with the spans that they bind. -/
def loads (s : State) (k : Nat) : List (Nat × List Span) := (s.core k).window.map fun e => (e.uid, e.bound)

theorem bindsNone_congr {L : Nat × Nat} (hl : t.loads L.1 = s.loads L.1) (hf : t.ferries = s.ferries) (h : BindsNone s L) : BindsNone t L := by
  refine ⟨fun e he heq => ?_, by rw [hf]; exact h.2⟩
  have hmem : (e.uid, e.bound) ∈ s.loads L.1 := hl ▸ List.mem_map_of_mem he
  obtain ⟨x, hx, hxe⟩ := List.mem_map.mp hmem
  simp only [Prod.mk.injEq] at hxe
  rw [← hxe.2]
  exact h.1 x hx (hxe.1.trans heq)

theorem loader_of_mem_boundSpans {k uid : Nat} {b : Span × Nat × Nat} (h : b ∈ s.boundSpans k uid) : ¬ BindsNone s b.2 := by
  intro hn
  rw [boundSpans, List.mem_append] at h
  rcases h with h | h
  · obtain ⟨j, -, h⟩ := List.mem_flatMap.mp h
    obtain ⟨e, he, h⟩ := List.mem_flatMap.mp h
    split at h
    · cases h
    · obtain ⟨sp, hsp, rfl⟩ := List.mem_map.mp h
      have := hn.1 e he rfl
      rw [this] at hsp
      cases hsp
  · obtain ⟨f, hf, h⟩ := List.mem_flatMap.mp h
    split at h
    · cases h
    · obtain ⟨sp, -, rfl⟩ := List.mem_map.mp h
      exact hn.2 f hf ⟨rfl, rfl⟩

/-- A step beside the loads in flight that meets no error: nothing fails or waits, every load binds what it did, and no write is held behind
a load that binds nothing. -/
structure Serene (s t : State) : Prop where
  clean : Clean t
  failing : t.failing = s.failing
  stalled : t.stalled = s.stalled
  ferries : t.ferries = s.ferries
  loads : ∀ k, t.loads k = s.loads k
  held : ∀ L, BindsNone s L → (∀ h ∈ s.held, h.loader ≠ L) → ∀ h ∈ t.held, h.loader ≠ L

theorem serene_refl (h : Clean s) : Serene s s := ⟨h, rfl, rfl, rfl, fun _ => rfl, fun _ _ h => h⟩

theorem Serene.trans (h : Serene s t) (k : Serene t u) : Serene s u :=
  ⟨k.clean, k.failing.trans h.failing, k.stalled.trans h.stalled, k.ferries.trans h.ferries, fun j => (k.loads j).trans (h.loads j),
    fun L hL hs => k.held L (bindsNone_congr (h.loads L.1) h.ferries hL) (h.held L hL hs)⟩

theorem serene_foldl {α : Type} {f : State → α → State} (hf : ∀ s a, Clean s → Serene s (f s a)) (l : List α) {s : State} (h : Clean s) :
    Serene s (l.foldl f s) :=
  List.foldlRecOn l f (serene_refl h) fun t ht a _ => ht.trans (hf t a ht.clean)

/-- A step that moves none of what loads and held writes turn on. -/
def besideView (s : State) : List Nat × Bool × List Ferry × FMap Core × List Held := (s.failing, s.stalled, s.ferries, s.cores, s.held)

theorem serene_of_view (hc : Clean t) (hv : t.besideView = s.besideView) : Serene s t := by
  simp only [besideView, Prod.mk.injEq] at hv
  obtain ⟨hfail, hst, hfer, hcores, hheld⟩ := hv
  exact ⟨hc, hfail, hst, hfer, fun k => by rw [State.loads, State.loads, core, core, hcores], fun _ _ hs => by rw [hheld]; exact hs⟩

theorem loads_modEntry {f : Entry → Entry} (hf : ∀ e, (f e).uid = e.uid ∧ (f e).bound = e.bound) (uid k : Nat) :
    (s.modEntry c uid f).loads k = s.loads k := by
  by_cases hk : k = c
  · subst hk
    rw [loads, loads, modEntry, core_modCore_self, List.map_map]
    refine List.map_congr_left fun e _ => ?_
    simp only [Function.comp]
    split
    · rw [(hf e).1, (hf e).2]
    · rfl
  · rw [loads, loads, modEntry, core_modCore_ne _ _ _ hk]

theorem serene_modEntry (h : Clean s) {f : Entry → Entry} (hf : ∀ e, (f e).uid = e.uid ∧ (f e).bound = e.bound) (uid : Nat) :
    Serene s (s.modEntry c uid f) :=
  ⟨h.of_view rfl (heatKept_of_mrs rfl), rfl, rfl, rfl, loads_modEntry hf uid, fun _ _ hs => hs⟩

/-- Held runs are dropped, or keep their loaders, or are held behind a load that binds spans. -/
theorem serene_setHeld (h : Clean s) {l : List Held} (hl : ∀ x ∈ l, (∃ y ∈ s.held, y.loader = x.loader) ∨ ¬ BindsNone s x.loader) :
    Serene s { s with held := l } := by
  refine ⟨h.of_view rfl (heatKept_of_mrs rfl), rfl, rfl, rfl, fun _ => rfl, fun L hL hs x hx heq => ?_⟩
  rcases hl x hx with ⟨y, hy, hyx⟩ | hn
  · exact hs y hy (hyx.trans heq)
  · exact hn (heq ▸ hL)

theorem serene_modHeld (h : Clean s) (k : Nat) {f : Held → Held} (hf : ∀ x, (f x).loader = x.loader) : Serene s (s.modHeld k f) := by
  rw [modHeld]
  split
  · exact serene_refl h
  · refine serene_setHeld h fun x hx => .inl ?_
    rcases List.mem_append.mp hx with hx | hx
    · exact ⟨x, List.mem_of_mem_take hx, rfl⟩
    · obtain ⟨y, hy, rfl⟩ := List.mem_map.mp hx
      exact ⟨y, List.mem_of_mem_drop hy, (hf y).symm⟩

/-! ### Stores -/

/-- A store, with the address of a granule that cannot be merged, that went on beside the loads in flight and met no error. -/
structure StoresSerenely (s : State) (r : State × Option Nat) : Prop where
  serene : Serene s r.1
  bad : r.2 = none

theorem errorView_onlyRegs (h : OnlyRegs s t) : t.errorView = s.errorView := by
  rw [OnlyRegs] at h
  rw [h]
  rfl

theorem besideView_onlyRegs (h : OnlyRegs s t) : t.besideView = s.besideView := by
  rw [OnlyRegs] at h
  rw [h]
  rfl

theorem heatKept_vatGrants (pl : Place) (a n : Nat) : HeatKept s (s.vatGrants pl a n) := by
  cases pl with
  | vat i => exact heatKept_pmc _ _ _
  | pool i => exact heatKept_refl s
  | tier slow => exact heatKept_refl s

theorem serene_vatGrants (h : Clean s) (pl : Place) (a n : Nat) : Serene s (s.vatGrants pl a n) :=
  have hg := vatGrants_frame s pl a n
  serene_of_view (h.of_view (errorView_onlyRegs hg) (heatKept_vatGrants pl a n)) (besideView_onlyRegs hg)

theorem serene_setBank (h : Clean s) {pl : Place} (hb : IsBank pl) {b : Bank} (he : b.errs = []) : Serene s (s.setBank pl b) := by
  have hf := setBank_frame (s := s) pl b
  refine serene_of_view ⟨fun q => ?_, ?_⟩ (by rw [hf]; rfl)
  · rw [bankOf_setBank hb]
    split
    · exact he
    · exact h.banks q
  · rw [hf]
    exact ⟨h.calm.fast, h.calm.slow, h.calm.banks, h.calm.phys⟩

theorem bankWrite_serenely (h : Clean s) {pl : Place} (hb : IsBank pl) (a : Nat) (bs : List Byte) : StoresSerenely s (s.bankWrite pl a bs) := by
  have hg := serene_vatGrants h pl a bs.length
  have h1 := hg.trans (serene_setBank hg.clean hb (b := ⟨writeBytes (s.bankOf pl).data a bs, []⟩) rfl)
  rw [bankWrite_clean hb a bs (h.banks pl)]
  exact ⟨h1.trans (serene_setBank h1.clean hb rfl), rfl⟩

theorem besideView_counts (h : Counts s t) : t.besideView = s.besideView := by
  rw [Counts] at h
  rw [h]
  rfl

theorem tierWrite_serenely (h : Clean s) (slow : Bool) (a : Nat) (bs : List Byte) : StoresSerenely s (s.tierWrite slow a bs) := by
  have hstore := tierWrite_storesCleanly h.calm slow a bs
  have hbeside := besideView_counts (granules_frame s slow a bs.length)
  have hbank : ∀ pl, (s.granules slow a bs.length).bankOf pl = s.bankOf pl := fun pl => by
    have hc := granules_frame s slow a bs.length
    rw [Counts] at hc
    rw [hc]
    cases pl <;> rfl
  rw [tierWrite_clean s slow a bs (h.calm.tier slow) (h.calm.touch slow a bs.length)] at hstore ⊢
  refine ⟨serene_of_view ⟨fun pl => ?_, hstore.calm⟩ (Eq.trans ?_ hbeside), rfl⟩
  · refine (congrArg Bank.errs (Eq.trans ?_ (hbank pl))).trans (h.banks pl)
    cases slow <;> cases pl <;> rfl
  · cases slow <;> rfl

theorem writePlace_serenely (h : Clean s) (pl : Place) (a : Nat) (bs : List Byte) : StoresSerenely s (s.writePlace pl a bs) := by
  cases pl with
  | tier slow => exact tierWrite_serenely h slow a bs
  | vat i => exact bankWrite_serenely h (isBank_vat i) a bs
  | pool i => exact bankWrite_serenely h (isBank_pool i) a bs

/-- The runs of a store that it writes, and those that it holds behind the loads that bind them (R77). -/
def storeCut (s : State) (c uid : Nat) (pl : Place) (a : Nat) (bs : List Byte) : List (Nat × List Byte) × List Held :=
  (s.boundSpans c uid).foldl (fun acc (b : Span × Nat × Nat) =>
    let cut := acc.1.map fun r => (cutRun pl b.1 r.1 r.2)
    (cut.flatMap (·.1),
     acc.2 ++ cut.filterMap fun x => x.2.map fun h =>
       (⟨pl, h.1, h.2, (b.2.1, b.2.2), (c, uid), none, [⟨pl, a, bs.length⟩], noIndex, 0⟩ : Held))) ([(a, bs)], [])

/-- Runs written in a class, one behind another. -/
def writeRuns (cls : Nat) (pl : Place) (l : List (Nat × List Byte)) (r : State × Option Nat) : State × Option Nat :=
  l.foldl (fun (acc : State × Option Nat) run =>
    let t := (acc.1.trafficAll cls [⟨pl, run.1, run.2.length⟩]).writePlace pl run.1 run.2
    (t.1, acc.2 <|> t.2)) r

/-- A store writes what no load binds and holds the rest (R77). -/
theorem storeRun_eq (uid : Nat) (pl : Place) (a : Nat) (bs : List Byte) : s.storeRun c uid pl a bs =
    let w := writeRuns (s.storeClass c uid) pl (s.storeCut c uid pl a bs).1 (s.noteDst c uid ⟨pl, a, bs.length⟩, none)
    ({ w.1 with held := w.1.held ++ (s.storeCut c uid pl a bs).2 }, w.2) := rfl

/-- Where no load binds a byte, a store writes its run and holds nothing. -/
theorem storeCut_of_unbound {uid : Nat} (h : s.boundSpans c uid = []) (pl : Place) (a : Nat) (bs : List Byte) :
    s.storeCut c uid pl a bs = ([(a, bs)], []) := by
  rw [storeCut, h]
  rfl

/-- What a store holds, it holds behind a load that binds a span. -/
theorem loader_of_mem_storeCut {uid : Nat} {pl : Place} {a : Nat} {bs : List Byte} :
    ∀ x ∈ (s.storeCut c uid pl a bs).2, ¬ BindsNone s x.loader := by
  rw [storeCut]
  refine List.foldlRecOn (motive := fun r : List (Nat × List Byte) × List Held => ∀ x ∈ r.2, ¬ BindsNone s x.loader) _ _ nofun ?_
  intro r hr b hb x hx
  rcases List.mem_append.mp hx with hx | hx
  · exact hr x hx
  · obtain ⟨q, -, hq⟩ := List.mem_filterMap.mp hx
    obtain ⟨y, -, rfl⟩ := Option.map_eq_some_iff.mp hq
    exact loader_of_mem_boundSpans hb

theorem serene_trafficAll (h : Clean s) (cls : Nat) (pl : Place) (a n : Nat) : Serene s (s.trafficAll cls [⟨pl, a, n⟩]) := by
  cases pl with
  | tier slow => exact serene_of_view (h.of_view rfl (heatKept_of_mrs rfl)) rfl
  | vat i => exact serene_refl h
  | pool i => exact serene_refl h

theorem writeRuns_serenely {r : State × Option Nat} (h : StoresSerenely s r) (cls : Nat) (pl : Place) (l : List (Nat × List Byte)) :
    StoresSerenely s (writeRuns cls pl l r) := by
  rw [writeRuns]
  refine List.foldlRecOn l _ h fun q hq run _ => ?_
  have ht := hq.serene.trans (serene_trafficAll hq.serene.clean cls pl run.1 run.2.length)
  have hw := writePlace_serenely ht.clean pl run.1 run.2
  exact ⟨ht.trans hw.serene, by simp [hq.bad, hw.bad]⟩

theorem serene_noteDst (h : Clean s) (uid : Nat) (x : Span) : Serene s (s.noteDst c uid x) := by
  rw [noteDst]
  split
  · split
    · exact serene_modEntry h (by exact fun _ => ⟨rfl, rfl⟩) uid
    · exact serene_refl h
  · exact serene_refl h

theorem storeRun_serenely (h : Clean s) (uid : Nat) (pl : Place) (a : Nat) (bs : List Byte) : StoresSerenely s (s.storeRun c uid pl a bs) := by
  have hnote : StoresSerenely s (s.noteDst c uid ⟨pl, a, bs.length⟩, none) := ⟨serene_noteDst h uid _, rfl⟩
  have hw := writeRuns_serenely hnote (s.storeClass c uid) pl (s.storeCut c uid pl a bs).1
  rw [storeRun_eq]
  refine ⟨hw.serene.trans (serene_setHeld hw.serene.clean fun x hx => ?_), hw.bad⟩
  rcases List.mem_append.mp hx with hx | hx
  · exact .inl ⟨x, hx, rfl⟩
  · refine .inr fun hn => loader_of_mem_storeCut x hx (bindsNone_congr ?_ ?_ hn)
    · exact (hw.serene.loads _).symm
    · exact hw.serene.ferries.symm

theorem storeSpans_serenely {uid : Nat} {ext : List Span} (l : List (Span × Option Nat)) : ∀ {s : State} (_ : Clean s) (bs : List Byte),
    Serene s (s.storeSpans c uid ext l bs).1 ∧ (s.storeSpans c uid ext l bs).2 = none := by
  induction l with
  | nil => exact fun h _ => ⟨serene_refl h, rfl⟩
  | cons q t ih =>
    intro s h bs
    obtain ⟨x, v⟩ := q
    have hrun := storeRun_serenely (c := c) h uid x.place x.lo (bs.take x.len)
    have hname := hrun.serene.trans (serene_modHeld hrun.serene.clean s.held.length
      (f := fun h => { h with ext := ext, va := v.map fun a => a + h.addr - x.lo }) fun _ => rfl)
    obtain ⟨hrest, hbad⟩ := ih hname.clean (bs.drop x.len)
    rw [storeSpans]
    exact ⟨hname.trans hrest, by simp [hrun.bad, hbad]⟩

/-! ### Copies and held writes go on (R77, R267) -/

theorem serene_modCl (h : Clean s) (k : Nat) (f : Cluster → Cluster) : Serene s (s.modCl k f) :=
  serene_of_view (h.of_view rfl (heatKept_of_mrs rfl)) rfl

theorem serene_setPhase (h : Clean s) (uid : Nat) (ph : Phase) : Serene s (s.setPhase c uid ph) :=
  serene_modEntry h (by exact fun _ => ⟨rfl, rfl⟩) uid

theorem serene_waitHeld (h : Clean s) (uid : Nat) : Serene s (s.waitHeld c uid) := by
  rw [waitHeld]
  split
  · exact serene_modEntry h (by exact fun _ => ⟨rfl, rfl⟩) uid
  · exact serene_refl h

theorem serene_runCopy (h : Clean s) (j : CopyJob) : Serene s (s.runCopy j) := by
  rw [runCopy]
  have hstart := serene_modCl h (j.core / 16) fun k =>
    { k with copyRun := k.copyRun.map fun x => if x.core = j.core ∧ x.uid = j.uid then { x with started := true } else x }
  generalize s.modCl (j.core / 16) _ = u at hstart ⊢
  obtain ⟨hstore, hbad⟩ := storeSpans_serenely (c := j.core) (uid := j.uid) (ext := j.dst)
    (j.dst.zip (j.vas.map fun v => if j.virt then some v else none)) hstart.clean j.data
  have hphase := (hstart.trans hstore).trans (serene_setPhase (c := j.core) hstore.clean j.uid .done)
  rw [hbad]
  exact hphase.trans (serene_waitHeld hphase.clean j.uid)

theorem serene_startCopies (cl : Nat) : ∀ (fuel : Nat) {s : State} (_ : Clean s), Serene s (startCopies fuel s cl) := by
  intro fuel
  induction fuel with
  | zero => exact fun h => serene_refl h
  | succ n ih =>
    intro s h
    rw [startCopies]
    split
    · exact (serene_runCopy h _).trans (ih (serene_runCopy h _).clean)
    · exact serene_refl h

theorem serene_copyDone (h : Clean s) (uid : Nat) : Serene s (s.copyDone c uid) := by
  rw [copyDone]
  split
  · exact (serene_modCl h _ _).trans (serene_startCopies _ 4 (serene_modCl h _ _).clean)
  · exact serene_refl h

/-- The run y that the release of the held run x leaves held again behind a further load: it speaks of x's instruction and addresses. -/
def reheld (x y : Held) : Held :=
  { y with
    va := x.va.map fun v => v + y.addr - x.addr
    ext := x.ext
    index := x.index + BitVec.ofNat 32 (if x.wide = 0 then 0 else (max y.addr x.addr - x.addr) / x.wide)
    wide := x.wide }

theorem serene_releaseOne (h : Clean s) (x : Held) : Serene s (s.releaseOne x) := by
  have hrun := storeRun_serenely (c := x.storer.1) h x.storer.2 x.place x.addr x.data
  rw [releaseOne]
  rw [hrun.bad]
  split
  · exact serene_refl h
  · have hmod : Serene s _ := hrun.serene.trans (serene_modHeld hrun.serene.clean s.held.length (f := reheld x) fun _ => rfl)
    split <;> exact hmod

/-- The state in which the held runs that p picks have been taken from the list. -/
def dropHeld (s : State) (p : Held → Bool) : State := { s with held := s.held.filter fun x => !p x }

theorem serene_dropHeld (h : Clean s) (p : Held → Bool) : Serene s (s.dropHeld p) :=
  serene_setHeld h fun x hx => .inl ⟨x, List.mem_of_mem_filter hx, rfl⟩

theorem serene_releaseHeld_of_dropHeld (h : Clean s) (p : Held → Bool) : Serene (s.dropHeld p) (s.releaseHeld p) := by
  have hgo := serene_foldl (fun _ x ht => serene_releaseOne ht x) (s.held.filter p) (serene_dropHeld h p).clean
  refine hgo.trans (serene_foldl (fun u x hu => ?_) (s.held.filter p) hgo.clean)
  split
  · exact serene_refl hu
  · exact serene_modEntry hu (by exact fun _ => ⟨rfl, rfl⟩) x.storer.2

theorem serene_releaseHeld (h : Clean s) (p : Held → Bool) : Serene s (s.releaseHeld p) :=
  (serene_dropHeld h p).trans (serene_releaseHeld_of_dropHeld h p)

/-! ### A load has read its bytes (R77) -/

/-- The state in which a load binds nothing more. -/
def unbound (s : State) (c uid : Nat) : State := s.modEntry c uid fun e => { e with bound := [] }

theorem releaseLoad_eq (uid : Nat) : s.releaseLoad c uid = (s.unbound c uid).releaseHeld fun x => decide (x.loader = (c, uid)) := rfl

theorem clean_unbound (h : Clean s) (uid : Nat) : Clean (s.unbound c uid) := h.of_view rfl (heatKept_of_mrs rfl)

/-- The writes held behind a load that has read its bytes go on without an error. -/
theorem serene_releaseLoad (h : Clean s) (uid : Nat) : Serene (s.unbound c uid) (s.releaseLoad c uid) :=
  serene_releaseHeld (clean_unbound h uid) _

theorem window_unbound (uid : Nat) : ((s.unbound c uid).core c).window =
    (s.core c).window.map fun e => if e.uid = uid then { e with bound := [] } else e := by rw [unbound, modEntry, core_modCore_self]

theorem bound_of_mem_unbound {uid : Nat} {x : Entry} (hx : x ∈ ((s.unbound c uid).core c).window) (hu : x.uid = uid) : x.bound = [] := by
  rw [window_unbound] at hx
  obtain ⟨e, -, rfl⟩ := List.mem_map.mp hx
  by_cases he : e.uid = uid
  · rw [if_pos he]
  · rw [if_neg he] at hu
    exact absurd hu he

/-- No write is held behind a load that has read its bytes (R77). -/
theorem held_releaseLoad (h : Clean s) {uid : Nat} (hf : ∀ f ∈ s.ferries, ¬ (f.core = c ∧ f.uid = uid)) :
    ∀ x ∈ (s.releaseLoad c uid).held, x.loader ≠ (c, uid) :=
  (serene_releaseHeld_of_dropHeld (clean_unbound h uid) _).held _ ⟨fun _ hx hu => bound_of_mem_unbound hx hu, hf⟩ fun x hx => by
    simpa using (List.mem_filter.mp hx).2

theorem bound_of_mem_releaseLoad (h : Clean s) {uid : Nat} {x : Entry} (hx : x ∈ ((s.releaseLoad c uid).core c).window) (hu : x.uid = uid) :
    x.bound = [] := by
  have hmem : (x.uid, x.bound) ∈ (s.unbound c uid).loads c := (serene_releaseLoad h uid).loads c ▸ List.mem_map_of_mem hx
  obtain ⟨y, hy, hyx⟩ := List.mem_map.mp hmem
  simp only [Prod.mk.injEq] at hyx
  rw [← hyx.2]
  exact bound_of_mem_unbound hy (hyx.1.trans hu)

/-- Nothing is held behind the load: it binds nothing more, and that is all. -/
theorem releaseLoad_of_nothing_held {uid : Nat} (h : ∀ x ∈ s.held, x.loader ≠ (c, uid)) : s.releaseLoad c uid = s.unbound c uid := by
  have hnone : (s.unbound c uid).held.filter (fun x => decide (x.loader = (c, uid))) = [] :=
    List.filter_eq_nil_iff.mpr fun x hx => by simpa using h x hx
  have hall : (s.unbound c uid).held.filter (fun x => !decide (x.loader = (c, uid))) = (s.unbound c uid).held :=
    List.filter_eq_self.mpr fun x hx => by simpa using h x hx
  rw [releaseLoad_eq, releaseHeld, hnone, hall]
  rfl

end Sys2Proof.Machine.State
end

section
/-! PROOF. Tokens on their routes, writes held behind loads, and the halt notice (R65, R77, R84, R88, R110, R584). -/

namespace Sys2Proof.Machine

namespace State

variable {s t u : State} {c p : Nat}

/-! ### Tokens -/

/-- A token that has not arrived before at its step and iterations is found where it arrives. -/
theorem tokenAt_addTok {kind : TokKind} {id : Nat} {step : Word} {iters : List Nat} (h : s.tokenAt c kind id step iters = none) (v : Word) :
    (s.addTok c ⟨kind, id, step, iters, v⟩).tokenAt c kind id step iters = some v := by
  rw [tokenAt, Option.map_eq_none_iff] at h
  rw [tokenAt, addTok, core_modCore_self, List.find?_append, h, Option.none_or, List.find?_singleton, if_pos (by simp)]
  rfl

/-! ### The end of a halt (R84, R88, R584) -/

/-- What the end of a halt turns on in a partition's record. -/
def endView (y : Part) : Bool × Bool := (y.halting, y.untold)

theorem part_of_reports (h : Reports s t) (p : Nat) : t.part p = s.part p := by
  rw [Reports] at h
  rw [h]
  rfl

theorem keeper_reply (sid seq : Word) (box status : Nat) (body : List Byte) : (s.reply sid seq box status body).keeper = s.keeper := by
  rw [reply]
  split <;> rfl

/-- Answers to commands leave the keeper's records and the partitions. -/
theorem replies_keep (l : List (Word × Word)) (box : Nat) : ∀ s : State,
    (l.foldl (fun (u : State) q => u.reply q.1 q.2 box 0 []) s).keeper = s.keeper ∧
      ∀ p, (l.foldl (fun (u : State) q => u.reply q.1 q.2 box 0 []) s).part p = s.part p := by
  induction l with
  | nil => exact fun s => ⟨rfl, fun _ => rfl⟩
  | cons q t ih =>
    intro s
    obtain ⟨hk, hp⟩ := ih (s.reply q.1 q.2 box 0 [])
    exact ⟨hk.trans (keeper_reply ..), fun p => (hp p).trans (part_of_reports (reply_reports ..) p)⟩

theorem endView_reportFallback (q step : Nat) : endView ((s.reportFallback q step).part p) = endView (s.part p) := by
  rw [reportFallback]
  split
  · rfl
  · rw [part_of_reports (record_frame ..)]
    by_cases h : p = q
    · subst h
      rw [part_modPart_self]
      rfl
    · rw [part_modPart_ne _ _ _ h]

theorem endView_reportAll (q : Nat) : endView ((s.reportAll q).part p) = endView (s.part p) :=
  foldl_rel (fun s t => endView (t.part p) = endView (s.part p)) (fun _ => rfl) (fun h k => k.trans h) _
    (fun _ _ => endView_reportFallback _ _) _ s

/-- Every record of fallback mode has been reported. -/
theorem reportAll_of_none (h : (s.part p).flagged = []) : s.reportAll p = s := by rw [reportAll, h]; rfl

theorem keeper_event (box code : Nat) (body : List Byte) : (s.event box code body).keeper = s.keeper := rfl

theorem keeper_setRegF (id : RegId) (ix : List Nat) (hi lo v : Nat) : (s.setRegF id ix hi lo v).keeper = s.keeper := rfl

theorem part_event (box code : Nat) (body : List Byte) (q : Nat) : (s.event box code body).part q = s.part q := rfl

/-- An error record is the last of the keeper's log (R581). -/
theorem getLast?_log_record (severity code : Nat) (part : Option Nat) (unit : Nat) (step : Option Word) (addr : Option Nat) (detail : List Byte) :
    ((s.record severity code part unit step addr detail).keeper.log.getLast?).map (fun r => (r.code, r.part)) = some (code, part) := by
  obtain ⟨r, hlog, hr⟩ : ∃ r : ErrRec, (s.record severity code part unit step addr detail).keeper.log =
      (s.keeper.log ++ [r]).drop (s.keeper.log.length - 65535) ∧ (r.code, r.part) = (code, part) := by
    refine ⟨⟨(s.keeper.seq + 1) % 2 ^ 32, severity, code, s.tick, part, unit, step, addr, detail⟩, ?_, rfl⟩
    simp only [record]
    split
    · rw [keeper_setRegF, keeper_setRegF]
    · rw [keeper_event, keeper_setRegF, keeper_setRegF]
  rw [hlog, List.drop_append_of_le_length (Nat.sub_le _ _), List.getLast?_append]
  exact congrArg some hr

/-- A halt that has been told (R584). -/
theorem tellHalt_tells {r : FaultRec} (hf : (s.part p).fault = some r) (hu : (s.part p).untold = true) (hh : (s.part p).halting = false)
    (hr : s.ready = true) : ((s.tellHalt p).part p) = { s.part p with untold := false } ∧
      ((s.tellHalt p).keeper.log.getLast?).map (fun r => (r.code, r.part)) = some (1, some p) := by
  have htell : s.tellHalt p = ((s.modPart p fun x => { x with untold := false }).event (0x10 + p) 0x8002 (r.bytes p)).record 2 0x0001 (some p)
      0xFFFF (if r.hasStep then some r.step else none) (if r.hasAddr then some r.addr.toNat else none) (r.bytes p) := by
    rw [tellHalt, hf]
    simp [hu, hh, hr]
  rw [htell]
  refine ⟨?_, getLast?_log_record ..⟩
  rw [part_of_reports (record_frame ..), part_event, part_modPart_self]

theorem halting_tellHalt : ((s.tellHalt p).part p).halting = (s.part p).halting := by
  rw [tellHalt]
  split
  · split
    · rw [part_of_reports (record_frame ..), part_event, part_modPart_self]
    · rfl
  · rfl

/-- The state in which partition p's halt has ended and is still to be told. -/
def haltEnded (s : State) (p : Nat) : State := s.modPart p fun y => { y with halting := false, haltFor := [] }

/-- The last core of a halting partition has stopped: the halt has ended, and is told with its record if it is still to be told. -/
theorem haltDone_ends (hh : (s.part p).halting = true) (hall : (s.coresOf p).all (fun c => (s.core c).halted) = true) :
    ((s.haltDone p).part p).halting = false ∧
      ((s.part p).untold = true → (s.part p).fault.isSome = true → s.ready = true → ((s.haltDone p).part p).untold = false ∧
        ((s.part p).flagged = [] → ((s.haltDone p).keeper.log.getLast?).map (fun r => (r.code, r.part)) = some (1, some p))) := by
  have hdone : s.haltDone p = (s.part p).haltFor.foldl (fun (u : State) q => u.reply q.1 q.2 (0x10 + p) 0 [])
      (((s.haltEnded p).tellHalt p).reportAll p) := by
    rw [haltDone]
    simp only [hh, hall, Bool.and_self, if_true]
    rfl
  obtain ⟨hkeeper, hparts⟩ := replies_keep (s.part p).haltFor (0x10 + p) (((s.haltEnded p).tellHalt p).reportAll p)
  rw [← hdone] at hkeeper hparts
  have hview := (congrArg endView (hparts p)).trans (endView_reportAll (s := (s.haltEnded p).tellHalt p) (p := p) p)
  simp only [endView, Prod.mk.injEq] at hview
  have hended : (s.haltEnded p).part p = { s.part p with halting := false, haltFor := [] } := part_modPart_self s p _
  refine ⟨hview.1.trans (halting_tellHalt.trans (by rw [hended])), fun hu hf hr => ?_⟩
  obtain ⟨r, hf⟩ := Option.isSome_iff_exists.mp hf
  obtain ⟨htold, hlog⟩ := tellHalt_tells (s := s.haltEnded p) (p := p) (r := r) (by rw [hended]; exact hf) (by rw [hended]; exact hu)
    (by rw [hended]) hr
  refine ⟨hview.2.trans (by rw [htold]), fun hfl => ?_⟩
  have hnone : (((s.haltEnded p).tellHalt p).part p).flagged = [] := by rw [htold, hended]; exact hfl
  rw [hkeeper, reportAll_of_none hnone]
  exact hlog

/-- A core has not stopped: the halt goes on. -/
theorem haltDone_waits {k : Nat} (hk : k < 128) (hp : (s.core k).part = some p) (hh : (s.core k).halted = false) : s.haltDone p = s := by
  have hall : (s.coresOf p).all (fun c => (s.core c).halted) = false := by
    rw [List.all_eq_false]
    exact ⟨k, List.mem_filter.mpr ⟨List.mem_range.mpr hk, by simpa using hp⟩, by simp [hh]⟩
  rw [haltDone]
  simp [hall]

theorem mayFire_of_halted (h : (s.core c).halted = true) : s.mayFire c = false := by
  rw [mayFire]
  split
  · rfl
  · simp [h]

end State

/-! ### The commands -/

theorem exec_tokenRouteArrival (p : PartId) (route dest : Nat) (step : Word) (iters : List Nat) (s : State) :
    exec (.tokenRouteArrival p route dest step iters) s = .next (s.tokenRouteArrival p route dest step iters) := rfl

theorem exec_heldWriteRelease (c : CoreId) (uid : Nat) (s : State) :
    exec (.heldWriteRelease c uid) s = .next (s.settle (s.heldWriteRelease c uid)) := rfl

theorem exec_haltNoticeReceipt (c : CoreId) (s : State) : exec (.haltNoticeReceipt c) s = .next (s.haltNotice c) := rfl

/-- TOKEN_ROUTE_ARRIVAL: the token is the last of its core's. -/
theorem routedTokenArrives : Claims.RoutedTokenArrives := by
  intro s p route dest step iters im r l src c v him hroute hdest hsrc hphys hat hprog hnew
  have hx : s.tokenRouteArrival p route dest step iters = s.addTok c ⟨if r.kind = 2 then .bind else .done, r.destId, step, iters, v⟩ := by
    simp only [State.tokenRouteArrival, him, hroute, hdest, hsrc, hphys, hat]
    exact if_pos ⟨hprog, hnew⟩
  refine ⟨_, (exec_tokenRouteArrival ..).trans (congrArg _ hx), State.tokenAt_addTok hnew v, ?_, rfl, fun k hk => State.core_modCore_ne _ _ _ hk⟩
  rw [State.addTok, State.core_modCore_self]

theorem heldWriteRelease_eq {s : State} {c uid : Nat} {e : Entry} (he : s.entry? c uid = some e) (hne : ¬ (e.unit = 5 ∧ e.opcode = 0x7C)) :
    s.heldWriteRelease c uid = s.releaseLoad c uid := by
  simp only [State.heldWriteRelease, he, hne, if_false]

/-- HELD_WRITE_RELEASE: the load binds nothing more, so that whatever is held then is held behind another. -/
theorem heldWritesAreReleased : Claims.HeldWritesAreReleased := by
  intro s c uid e he hne
  have hx := exec_heldWriteRelease c uid s
  rw [heldWriteRelease_eq he hne] at hx
  refine ⟨fun herr hfer => ?_, fun hnone => ?_⟩
  · have hser := State.serene_releaseLoad (State.clean_of_noErrors herr) (c := c.val) uid
    exact ⟨s.releaseLoad c uid, hx.trans (congrArg _ (State.settle_eq hser.stalled hser.failing)),
      State.held_releaseLoad (State.clean_of_noErrors herr) hfer,
      fun x hmem hu => State.bound_of_mem_releaseLoad (State.clean_of_noErrors herr) hmem hu⟩
  · rw [State.releaseLoad_of_nothing_held hnone] at hx
    exact ⟨s.unbound c uid, hx.trans (congrArg _ (State.settle_eq rfl rfl)), rfl, fun x hx hu => State.bound_of_mem_unbound hx hu⟩

/-- HALT_NOTICE_RECEIPT, by whether another core of the partition has its notice still to come. -/
theorem haltNoticeStopsTheCore : Claims.HaltNoticeStopsTheCore := by
  intro s c p hp hh hrun
  have hx : s.haltNotice c = (s.modCore c stopCore).haltDone p := by simp [State.haltNotice, hp, hh, hrun]
  have hcores := State.cores_haltDone (s := s.modCore c stopCore) p.val
  have hcore : ∀ k, ((s.modCore c stopCore).haltDone p).core k = (s.modCore c stopCore).core k := fun k => by rw [State.core, hcores]; rfl
  have hself : ((s.modCore c stopCore).haltDone p).core c = stopCore (s.core c) := (hcore c).trans (State.core_modCore_self ..)
  have hhalt : (((s.modCore c stopCore).haltDone p).core c).halted = true := by rw [hself]; rfl
  have hmem : State.MemKept s ((s.modCore c stopCore).haltDone p) :=
    (State.memKept_modCore c.val stopCore).trans (State.memKept_of_haltChanges (State.haltDone_frame _ _))
  refine ⟨_, (exec_haltNoticeReceipt c s).trans (congrArg _ hx), hhalt, State.mayFire_of_halted hhalt, by rw [hself]; rfl, ?_, fun k hk => ?_,
    hmem.sameMem, ?_, fun hall => ?_⟩
  · rw [hself, stopCore, List.map_map]
    refine List.map_congr_left fun e _ => ?_
    simp only [Function.comp]
    split <;> rfl
  · exact (hcore k).trans (State.core_modCore_ne _ _ _ hk)
  · rintro ⟨k, hk, hkc, hkp, hkh⟩
    have hcorek := State.core_modCore_ne s c.val stopCore hkc
    rw [State.haltDone_waits hk (by rw [hcorek]; exact hkp) (by rw [hcorek]; exact hkh)]
    rfl
  · refine State.haltDone_ends (s := s.modCore c stopCore) hh (List.all_eq_true.mpr fun k hk => ?_)
    obtain ⟨hlt, hpart⟩ := List.mem_filter.mp hk
    by_cases hkc : k = c.val
    · subst hkc
      rw [State.core_modCore_self]
      rfl
    · rw [State.core_modCore_ne _ _ _ hkc] at hpart ⊢
      exact hall k (List.mem_range.mp hlt) hkc (of_decide_eq_true hpart)

end Sys2Proof.Machine

open Sys2Proof Sys2Proof.Machine

/-- Settles O13: a token that arrives is its core's last; a load that binds nothing more holds no write, whose release meets no error where
nothing is in error; the last notice of a halt ends it. -/
theorem tokensHoldsAndHalts : Obligations.TokensHoldsAndHalts := ⟨routedTokenArrives, heldWritesAreReleased, haltNoticeStopsTheCore⟩
end

section
/-! PROOF. The firing window (R64, R67, R151). -/

namespace Sys2Proof.Machine

/-! ### Entry (R67) -/

theorem window_setVec (k : Core) (eng : Nat) (v : Vec) : (setVec k eng v).window = k.window ∧ (setVec k eng v).nextUid = k.nextUid := by
  rw [setVec]
  split <;> exact ⟨rfl, rfl⟩

/-- A record that enters takes the end of the window, under the core's next number. -/
theorem enterRec_appends (im : PartImg) (k : Core) (f : Fetch) (r : Rec) : ∃ e : Entry, (enterRec im k f r).window = k.window ++ [e] ∧
    (enterRec im k f r).nextUid = k.nextUid + 1 ∧ e.uid = k.nextUid ∧ e.step = f.step ∧ e.recIx = f.recIx ∧ e.iters = f.nest.map (·.iter) ∧
    e.unit = r.unit ∧ e.op = r.op ∧ e.wait = r.wait ∧ e.produce = r.produce ∧ e.ext = r.ext ∧ e.phase = .waiting := by
  refine ⟨?e, ?window, ?next, ?fields⟩
  case window =>
    simp only [enterRec, apply_ite Core.window, window_setVec, ite_self]
    rfl
  case next => simp only [enterRec, apply_ite Core.nextUid, window_setVec, ite_self]
  case fields => exact ⟨rfl, rfl, rfl, rfl, rfl, rfl, rfl, rfl, rfl, rfl⟩

theorem exec_windowEntry (c : CoreId) (s : State) : exec (.windowEntry c) s = .next (s.windowEntry c) := rfl

theorem exec_instructionComplete (c : CoreId) (uid : Nat) (s : State) :
    exec (.instructionComplete c uid) s = .next (s.settle (s.instructionComplete c uid)) := rfl

/-- WINDOW_ENTRY, by whether an entry is free. -/
theorem windowEntryTakesTheNextRecord : Claims.WindowEntryTakesTheNextRecord := by
  intro s c im f r him hf hmay hopen hrec
  refine ⟨fun hfree => ?_, fun hfull => ?_⟩
  · have hx : s.windowEntry c = s.setCore c (enterRec im (s.core c) f r) := by
      simp only [State.windowEntry, him, hf, hmay, hopen, hrec, hfree, Bool.not_false, Bool.and_self, decide_true, if_true]
    have hself : (s.setCore c (enterRec im (s.core c) f r)).core c = enterRec im (s.core c) f r := FMap.get_set_self ..
    obtain ⟨e, hwin, hnext, huid, hstep, hix, hiters, hunit, hop, hwait, hproduce, hext, hphase⟩ := enterRec_appends im (s.core c) f r
    exact ⟨_, e, (exec_windowEntry c s).trans (congrArg _ hx), by rw [hself, hwin], huid, by rw [hself, hnext], hstep, hix, hiters, hunit, hop,
      hwait, hproduce, hext, hphase, rfl, fun k hk => FMap.get_set_ne _ _ _ hk⟩
  · have hx : s.windowEntry c = s := by
      simp only [State.windowEntry, him, hf, Nat.not_lt.mpr hfull, decide_false, Bool.and_false]
      rfl
    rw [exec_windowEntry, hx]

/-! ### Completion (R64, R67, R77, R267) -/

namespace State

variable {s t u : State} {c : Nat}

/-- A completion meets no error. -/
theorem clean_complete (h : Clean s) (e : Entry) : Clean (s.complete c e) ∧ (s.complete c e).failing = s.failing ∧
    (s.complete c e).stalled = s.stalled := by
  have hf := complete_frame s c e
  have hh := heatKept_complete (s := s) (c := c) e
  generalize s.complete c e = t at hf hh ⊢
  rw [CoreChanges] at hf
  exact ⟨h.of_view (by rw [hf]; rfl) hh, by rw [hf], by rw [hf]⟩

theorem uid_of_entry? {uid : Nat} {e : Entry} (h : s.entry? c uid = some e) : e.uid = uid := by
  simpa using List.find?_some h

/-- The state in which the entry that completes has left, before the copies behind it start. -/
def left (s : State) (c uid : Nat) (e : Entry) : State := (s.releaseLoad c uid).complete c e

theorem instructionComplete_eq {uid : Nat} {e : Entry} (h : s.entry? c uid = some e) (hd : e.phase = .done) :
    s.instructionComplete c uid = (s.left c uid e).copyDone c uid := by
  simp only [instructionComplete, h, hd, if_true]
  rfl

theorem not_mem_window_complete {x e : Entry} (h : x ∈ ((s.complete c e).core c).window) : x.uid ≠ e.uid := by
  obtain ⟨sm, ps, hcore⟩ := core_complete (s := s) (c := c) e
  rw [hcore] at h
  simpa using (List.mem_filter.mp h).2

/-- Where no copy of the instruction runs, none starts. -/
theorem copyDone_of_none {uid : Nat} (h : ∀ j ∈ (s.cl (c / 16)).copyRun, ¬ (j.core = c ∧ j.uid = uid)) : s.copyDone c uid = s := by
  rw [copyDone, if_neg]
  simpa using h

theorem filter_unbound (uid : Nat) : ((s.unbound c uid).core c).window.filter (fun x => x.uid != uid) =
    (s.core c).window.filter fun x => x.uid != uid := by
  rw [window_unbound]
  induction (s.core c).window with
  | nil => rfl
  | cons y l ih => by_cases hy : y.uid = uid <;> simp [hy, ih]

theorem memKept_complete (e : Entry) : MemKept s (s.complete c e) := memKept_of_coreChanges (complete_frame s c e)

theorem clusters_complete (e : Entry) : (s.complete c e).clusters = s.clusters := by
  have hf := complete_frame s c e
  rw [CoreChanges] at hf
  rw [hf]

end State

/-- INSTRUCTION_COMPLETE: the entry leaves; the writes and copies behind it go on without an error, where there are any. -/
theorem completionLeavesTheWindow : Claims.CompletionLeavesTheWindow := by
  intro s c uid e he hd
  have huid := State.uid_of_entry? he
  have hx := exec_instructionComplete c uid s
  rw [State.instructionComplete_eq he hd] at hx
  refine ⟨fun herr => ?_, fun hnone hcopy => ?_⟩
  · have hrel := State.serene_releaseLoad (State.clean_of_noErrors herr) (c := c.val) uid
    obtain ⟨hclean, hfail, hst⟩ := State.clean_complete hrel.clean (c := c.val) e
    have hdone := State.serene_copyDone hclean (c := c.val) uid
    have hsettle : s.settle ((s.left c uid e).copyDone c uid) = (s.left c uid e).copyDone c uid :=
      State.settle_eq (hdone.stalled.trans (hst.trans hrel.stalled)) (hdone.failing.trans (hfail.trans hrel.failing))
    refine ⟨_, hx.trans (congrArg _ hsettle), fun x hmem => ?_⟩
    have hload : (x.uid, x.bound) ∈ ((s.releaseLoad c uid).complete c e).loads c := hdone.loads c ▸ List.mem_map_of_mem hmem
    obtain ⟨y, hy, hyx⟩ := List.mem_map.mp hload
    simp only [Prod.mk.injEq] at hyx
    rw [← hyx.1, ← huid]
    exact State.not_mem_window_complete hy
  · have hleft : s.left c uid e = (s.unbound c uid).complete c e := by rw [State.left, State.releaseLoad_of_nothing_held hnone]
    have hcl : ((s.unbound c uid).complete c e).cl (c.val / 16) = s.cl (c.val / 16) := by
      rw [State.cl, State.clusters_complete]
      rfl
    rw [hleft, State.copyDone_of_none (by rw [hcl]; exact hcopy)] at hx
    have hmem : State.MemKept s ((s.unbound c uid).complete c e) := (State.memKept_modCore c.val _).trans (State.memKept_complete e)
    obtain ⟨sm, ps, hcore⟩ := State.core_complete (s := s.unbound c uid) (c := c.val) e
    have htok : (((s.unbound c uid).complete c e).core c).tokens = (s.core c).tokens ++ State.doneTokens e := by
      rw [hcore, State.unbound, State.modEntry, State.core_modCore_self]
    refine ⟨_, hx.trans (congrArg _ hmem.settle), ?_, fun hp => ?_, fun hp => ?_, hmem.sameMem, fun hpass => ?_, fun k hk => ?_⟩
    · rw [hcore, huid]
      exact State.filter_unbound uid
    · rw [htok, State.doneTokens, if_neg (by omega)]
    · rw [htok, State.doneTokens, if_pos hp, List.append_nil]
    · rw [(State.coreOnly_complete hpass).frame]
      rfl
    · exact (State.core_complete_ne e hk).trans (State.core_modCore_ne _ _ _ hk)

end Sys2Proof.Machine

open Sys2Proof Sys2Proof.Machine

/-- Settles O10: the record enters at the end of the window, and an entry that completes leaves it, beside the writes and copies that go on. -/
theorem theFiringWindow : Obligations.TheFiringWindow := ⟨windowEntryTakesTheNextRecord, completionLeavesTheWindow⟩
end

section
/-! SUPPORT. Stores to a vat or a pool without a word in error: what stands in the bank after them (R77, R293). -/

namespace Sys2Proof.Machine

/-! ### Runs of bytes, one behind another -/

/-- The memory with runs stored in order. -/
def writeAll (m : List Host.Cell) (l : List (Nat × List Byte)) : List Host.Cell := l.foldl (fun m r => writeBytes m r.1 r.2) m

/-- A byte lies in a run. -/
def InRun (r : Nat × List Byte) (b : Nat) : Prop := r.1 ≤ b ∧ b < r.1 + r.2.length

/-- Two runs share no byte. -/
def Apart (r q : Nat × List Byte) : Prop := r.1 + r.2.length ≤ q.1 ∨ q.1 + q.2.length ≤ r.1

theorem writeAll_append (m : List Host.Cell) (l k : List (Nat × List Byte)) : writeAll m (l ++ k) = writeAll (writeAll m l) k :=
  List.foldl_append

/-- A byte in no run stays. -/
theorem readByte_writeAll {l : List (Nat × List Byte)} {b : Nat} (h : ∀ r ∈ l, ¬ InRun r b) (m : List Host.Cell) :
    readByte (writeAll m l) b = readByte m b := by
  induction l generalizing m with
  | nil => rfl
  | cons r t ih =>
    obtain ⟨hr, ht⟩ := List.forall_mem_cons.mp h
    exact (ih ht _).trans (readByte_writeBytes_of_not_mem m hr)

theorem readBytes_writeAll_of_apart {l : List (Nat × List Byte)} {r : Nat × List Byte} (h : ∀ q ∈ l, Apart r q) (m : List Host.Cell) :
    readBytes (writeAll m l) r.1 r.2.length = readBytes m r.1 r.2.length := by
  induction l generalizing m with
  | nil => rfl
  | cons q t ih =>
    obtain ⟨hq, ht⟩ := List.forall_mem_cons.mp h
    exact (ih ht _).trans (readBytes_writeBytes_of_disjoint m hq)

/-- Of runs that share no byte, each reads back. -/
theorem readBytes_writeAll {l : List (Nat × List Byte)} (h : l.Pairwise Apart) (m : List Host.Cell) :
    ∀ r ∈ l, readBytes (writeAll m l) r.1 r.2.length = r.2 := by
  induction l generalizing m with
  | nil => exact nofun
  | cons q t ih =>
    obtain ⟨hq, ht⟩ := List.pairwise_cons.mp h
    rintro r hr
    rcases List.mem_cons.mp hr with rfl | hr
    · exact (readBytes_writeAll_of_apart hq _).trans (readBytes_writeBytes_self m r.1 r.2)
    · exact ih ht _ r hr

/-- Runs of at most a stride, a stride apart, share no byte. -/
theorem pairwise_apart_of_stride {f : Nat → List Byte} {start stride n : Nat} (h : ∀ o, o < n → (f o).length ≤ stride) :
    ((List.range n).map fun o => (start + o * stride, f o)).Pairwise Apart := by
  refine List.pairwise_map.mpr (List.pairwise_lt_range.imp_of_mem fun {a b} ha _ hab => .inl ?_)
  have hlen := h a (List.mem_range.mp ha)
  have hstep : (a + 1) * stride ≤ b * stride := Nat.mul_le_mul_right stride hab
  rw [Nat.add_mul, Nat.one_mul] at hstep
  show start + a * stride + (f a).length ≤ start + b * stride
  omega

namespace State

variable {s t u : State} {c uid : Nat} {pl : Place}

theorem isBank_of_locPlace {cl loc : Nat} (h : s.locPlace cl loc = some pl) : IsBank pl := by
  rw [locPlace] at h
  split at h
  · obtain ⟨k, -, rfl⟩ := Option.map_eq_some_iff.mp h
    exact isBank_vat _
  · split at h
    · cases h
      exact isBank_pool _
    · cases h

/-- What the loads in flight bind, by their numbers and their spans. -/
theorem boundSpans_eq : s.boundSpans c uid =
    ((List.range 128).flatMap fun k => (s.loads k).flatMap fun l => if k = c ∧ l.1 = uid then [] else l.2.map fun sp => (sp, k, l.1)) ++
      s.ferries.flatMap fun f => if f.core = c ∧ f.uid = uid then [] else f.bound.map fun sp => (sp, f.core, f.uid) := by
  simp only [boundSpans, loads, List.flatMap_map]

theorem boundSpans_congr (hl : ∀ k, t.loads k = s.loads k) (hf : t.ferries = s.ferries) : t.boundSpans c uid = s.boundSpans c uid := by
  simp only [boundSpans_eq, hl, hf]

/-- Only the banks' bytes, the registers and what is held have moved, and of the banks only pl, in which no word is in error. -/
structure BankStores (pl : Place) (s t : State) : Prop where
  frame : t = { s with mrs := t.mrs, vats := t.vats, pools := t.pools, held := t.held }
  clean : (t.bankOf pl).errs = []
  others : ∀ q, q ≠ pl → t.bankOf q = s.bankOf q

theorem bankStores_refl (h : (s.bankOf pl).errs = []) : BankStores pl s s := ⟨rfl, h, fun _ _ => rfl⟩

theorem BankStores.trans (h : BankStores pl s t) (k : BankStores pl t u) : BankStores pl s u :=
  ⟨by rw [k.frame, h.frame], k.clean, fun q hq => (k.others q hq).trans (h.others q hq)⟩

theorem BankStores.setHeld (h : BankStores pl s t) (l : List Held) : BankStores pl s { t with held := l } :=
  ⟨by rw [h.frame], h.clean, h.others⟩

theorem BankStores.core (h : BankStores pl s t) (k : Nat) : t.core k = s.core k := by
  rw [h.frame]
  rfl

theorem BankStores.ferries (h : BankStores pl s t) : t.ferries = s.ferries := by rw [h.frame]

theorem BankStores.boundSpans (h : BankStores pl s t) : t.boundSpans c uid = s.boundSpans c uid :=
  boundSpans_congr (fun k => by rw [State.loads, State.loads, h.core]) h.ferries

/-- The bank is the only memory that has moved. -/
theorem BankStores.cells (h : BankStores pl s t) {q : Place} (hq : q ≠ pl) : t.cells q = s.cells q := by
  cases q with
  | tier slow => rw [h.frame]; rfl
  | vat i => rw [cells_of_isBank (isBank_vat i), cells_of_isBank (isBank_vat i), h.others _ hq]
  | pool i => rw [cells_of_isBank (isBank_pool i), cells_of_isBank (isBank_pool i), h.others _ hq]

theorem bankStores_onlyRegs (h : OnlyRegs s t) (he : (s.bankOf pl).errs = []) : BankStores pl s t := by
  refine ⟨?_, (congrArg Bank.errs (bankOf_onlyRegs h pl)).trans he, fun q _ => bankOf_onlyRegs h q⟩
  rw [OnlyRegs] at h
  rw [h]

theorem bankStores_setBank (hb : IsBank pl) {b : Bank} (he : b.errs = []) : BankStores pl s (s.setBank pl b) :=
  ⟨by rw [setBank_frame], by rw [bankOf_setBank hb, if_pos rfl, he], fun q hq => by rw [bankOf_setBank hb, if_neg hq]⟩

theorem held_setBank (b : Bank) : (s.setBank pl b).held = s.held := by rw [setBank_frame]

theorem bankWrite_bankStores (hb : IsBank pl) (he : (s.bankOf pl).errs = []) (a : Nat) (bs : List Byte) :
    BankStores pl s (s.bankWrite pl a bs).1 ∧ (s.bankWrite pl a bs).2 = none ∧
      ((s.bankWrite pl a bs).1.bankOf pl).data = writeBytes (s.bankOf pl).data a bs ∧ (s.bankWrite pl a bs).1.held = s.held := by
  have hg := vatGrants_frame s pl a bs.length
  rw [bankWrite_clean hb a bs he]
  refine ⟨((bankStores_onlyRegs hg he).trans (bankStores_setBank hb rfl)).trans (bankStores_setBank hb rfl), rfl, ?_, ?_⟩
  · rw [bankOf_setBank hb, if_pos rfl]
  · rw [held_setBank, held_setBank]
    rw [OnlyRegs] at hg
    rw [hg]

theorem writePlace_of_isBank (hb : IsBank pl) (a : Nat) (bs : List Byte) : s.writePlace pl a bs = s.bankWrite pl a bs := by
  cases pl with
  | tier slow => exact absurd rfl (hb slow)
  | vat i => rfl
  | pool i => rfl

theorem trafficAll_of_isBank (hb : IsBank pl) (cls a n : Nat) : s.trafficAll cls [⟨pl, a, n⟩] = s := by
  cases pl with
  | tier slow => exact absurd rfl (hb slow)
  | vat i => rfl
  | pool i => rfl

theorem noteDst_of_isBank (hb : IsBank pl) (a n : Nat) : s.noteDst c uid ⟨pl, a, n⟩ = s := by
  cases pl with
  | tier slow => exact absurd rfl (hb slow)
  | vat i => rfl
  | pool i => rfl

theorem writeRuns_bankStores (hb : IsBank pl) (he : (s.bankOf pl).errs = []) (cls : Nat) (l : List (Nat × List Byte)) :
    BankStores pl s (writeRuns cls pl l (s, none)).1 ∧ (writeRuns cls pl l (s, none)).2 = none := by
  rw [writeRuns]
  refine List.foldlRecOn (motive := fun r : State × Option Nat => BankStores pl s r.1 ∧ r.2 = none) l _ ⟨bankStores_refl he, rfl⟩ ?_
  rintro r ⟨hr, hbad⟩ run -
  obtain ⟨hw, hnone, -⟩ := bankWrite_bankStores hb hr.clean run.1 run.2
  simp only [trafficAll_of_isBank hb, writePlace_of_isBank hb]
  exact ⟨hr.trans hw, by rw [hbad, hnone]; rfl⟩

/-- A store to a bank meets no error; what a load binds of it is held. -/
theorem storeRun_bankStores (hb : IsBank pl) (he : (s.bankOf pl).errs = []) (a : Nat) (bs : List Byte) :
    BankStores pl s (s.storeRun c uid pl a bs).1 ∧ (s.storeRun c uid pl a bs).2 = none := by
  obtain ⟨hw, hnone⟩ := writeRuns_bankStores hb he (s.storeClass c uid) (s.storeCut c uid pl a bs).1
  rw [storeRun_eq, noteDst_of_isBank hb]
  exact ⟨hw.setHeld _, hnone⟩

/-- Where no load binds a byte, the bytes stand, and nothing is held. -/
theorem storeRun_of_unbound (hb : IsBank pl) (he : (s.bankOf pl).errs = []) (hn : s.boundSpans c uid = []) (a : Nat) (bs : List Byte) :
    ((s.storeRun c uid pl a bs).1.bankOf pl).data = writeBytes (s.bankOf pl).data a bs ∧ (s.storeRun c uid pl a bs).1.held = s.held := by
  obtain ⟨-, -, hdata, hheld⟩ := bankWrite_bankStores hb he a bs
  rw [storeRun_eq, noteDst_of_isBank hb, storeCut_of_unbound hn]
  simp only [writeRuns, List.foldl_cons, List.foldl_nil, trafficAll_of_isBank hb, writePlace_of_isBank hb]
  exact ⟨hdata, by rw [List.append_nil]; exact hheld⟩

/-- Runs stored to a bank for an instruction, one behind another. -/
def storeRuns (s : State) (c uid : Nat) (pl : Place) (l : List (Nat × List Byte)) : State × Option Nat :=
  l.foldl (fun (acc : State × Option Nat) r =>
    let q := acc.1.storeRun c uid pl r.1 r.2
    (q.1, acc.2 <|> q.2)) (s, none)

theorem storeRuns_append (l k : List (Nat × List Byte)) : s.storeRuns c uid pl (l ++ k) =
    k.foldl (fun (acc : State × Option Nat) r =>
      let q := acc.1.storeRun c uid pl r.1 r.2
      (q.1, acc.2 <|> q.2)) (s.storeRuns c uid pl l) := List.foldl_append

theorem storeRuns_bankStores (hb : IsBank pl) (he : (s.bankOf pl).errs = []) (l : List (Nat × List Byte)) :
    BankStores pl s (s.storeRuns c uid pl l).1 ∧ (s.storeRuns c uid pl l).2 = none := by
  rw [storeRuns]
  refine List.foldlRecOn (motive := fun r : State × Option Nat => BankStores pl s r.1 ∧ r.2 = none) l _ ⟨bankStores_refl he, rfl⟩ ?_
  rintro r ⟨hr, hbad⟩ run -
  obtain ⟨hw, hnone⟩ := storeRun_bankStores (c := c) (uid := uid) hb hr.clean run.1 run.2
  exact ⟨hr.trans hw, by simp [hbad, hnone]⟩

/-- Where no load binds a byte, all the runs stand, and nothing is held. -/
theorem storeRuns_of_unbound (hb : IsBank pl) (hn : s.boundSpans c uid = []) (l : List (Nat × List Byte)) (he : (s.bankOf pl).errs = []) :
    ((s.storeRuns c uid pl l).1.bankOf pl).data = writeAll (s.bankOf pl).data l ∧ (s.storeRuns c uid pl l).1.held = s.held := by
  induction l using List.reverseRecOn with
  | nil => exact ⟨rfl, rfl⟩
  | append_singleton k r ih =>
    obtain ⟨hst, -⟩ := storeRuns_bankStores (c := c) (uid := uid) hb he k
    obtain ⟨hdata, hheld⟩ := storeRun_of_unbound (c := c) (uid := uid) hb hst.clean (hst.boundSpans.trans hn) r.1 r.2
    rw [storeRuns_append, writeAll_append]
    exact ⟨hdata.trans (by rw [ih.1]; rfl), hheld.trans ih.2⟩

end State
end Sys2Proof.Machine
end

section
/-! PROOF. MSTORE (R77, R136, R154-R156). -/

namespace Sys2Proof.Machine

namespace State

variable {s t u : State} {c : Nat}

/-! ### What an MSTORE's rows turn on, in the state in which it has fired -/

theorem loads_markFired (e : Entry) (k : Nat) : (s.markFired c e).loads k = s.loads k := by
  by_cases hk : k = c
  · subst hk
    obtain ⟨n, hn⟩ := core_markFired (s := s) (c := k) e
    rw [loads, loads, hn, List.map_map]
    refine List.map_congr_left fun y _ => ?_
    simp only [Function.comp]
    split <;> rfl
  · rw [loads, loads, (coreOnly_markFired e).others k hk]

theorem boundSpans_markFired (e : Entry) (uid : Nat) : (s.markFired c e).boundSpans c uid = s.boundSpans c uid :=
  boundSpans_congr (loads_markFired e) (by rw [(coreOnly_markFired e).frame])

theorem bankOf_markFired (e : Entry) (pl : Place) : (s.markFired c e).bankOf pl = s.bankOf pl := (onlyBegun_markFired e).aside.mem.bankOf pl

theorem phase_of_mem_markFired {e y : Entry} (hy : y ∈ ((s.markFired c e).core c).window) (hu : y.uid = e.uid) : y.phase = .done := by
  obtain ⟨n, hn⟩ := core_markFired (s := s) (c := c) e
  rw [hn] at hy
  obtain ⟨z, -, rfl⟩ := List.mem_map.mp hy
  by_cases hz : z.uid = e.uid
  · rw [if_pos hz]
  · rw [if_neg hz] at hu
    exact absurd hu hz

/-! ### An instruction whose bytes may be held (R77) -/

theorem held_waitHeld (uid : Nat) : (s.waitHeld c uid).held = s.held := by
  rw [waitHeld]
  split <;> rfl

theorem hasHeld_congr (h : t.held = s.held) (k uid : Nat) : t.hasHeld k uid = s.hasHeld k uid := by rw [hasHeld, hasHeld, h]

/-- An instruction that is done waits for the bytes of it that are held. -/
theorem phase_of_mem_waitHeld {uid : Nat} (hd : ∀ y ∈ (s.core c).window, y.uid = uid → y.phase = .done) {y : Entry}
    (hy : y ∈ ((s.waitHeld c uid).core c).window) (hu : y.uid = uid) :
    y.phase = if (s.waitHeld c uid).hasHeld c uid then .held else .done := by
  rw [hasHeld_congr (held_waitHeld uid)]
  rw [waitHeld] at hy
  split at hy
  next hh =>
    rw [modEntry, core_modCore_self] at hy
    obtain ⟨z, hz, rfl⟩ := List.mem_map.mp hy
    by_cases hzu : z.uid = uid
    · rw [if_pos hzu, hh, if_pos rfl]
      exact if_pos (hd z hz hzu)
    · rw [if_neg hzu] at hu
      exact absurd hu hzu
  next hh => rw [if_neg hh, hd y hy hu]

/-! ### The rows -/

/-- The runs of bytes that an MSTORE packs, each with its scales and classes: row o of its descriptor's layout (R154-R156). -/
def mstorePack (s : State) (c : Nat) (e : Entry) (o : Nat) : List Byte × List Byte × List GClass :=
  let d := s.desc c (getF e.op 55 40)
  let el := fun (i j flat : Nat) =>
    let w := ((s.core c).accAt (getF e.op 31 16 + j * shapeR (getF e.op 33 32) + i)).toNat
    (decodeVal 0 w, w, flat)
  packRun (dF d 1 1) (dF d 3 1) (dF d 2 1 != 2) (s.drawKey (((s.core c).part).getD 0) e.step (BitVec.ofNat 32 (dF d 0x14 4)))
    ((List.range (if dF d 2 1 = 1 then dF d 0x0F 1 + 1 else dF d 0x0C 3)).map fun n =>
      if dF d 2 1 = 1 then el n o (dF d 0x18 5 + o * dF d 0x1D 3 + n) else el o n (dF d 0x18 5 + o * dF d 0x1D 3 + n))

/-- The number of rows of an MSTORE. -/
def mstoreRows (s : State) (c : Nat) (e : Entry) : Nat :=
  let d := s.desc c (getF e.op 55 40)
  if dF d 2 1 = 1 then dF d 0x0C 3 else dF d 0x0F 1 + 1

/-- The scales of all its rows. -/
def mstoreScales (s : State) (c : Nat) (e : Entry) : List Byte := (List.range (s.mstoreRows c e)).flatMap fun o => (s.mstorePack c e o).2.1

/-- Its rows, where each starts. -/
def mstoreRuns (s : State) (c : Nat) (e : Entry) : List (Nat × List Byte) :=
  let d := s.desc c (getF e.op 55 40)
  (List.range (s.mstoreRows c e)).map fun o => (dF d 8 4 + o * dF d 0x10 4, (s.mstorePack c e o).1)

/-- MXFP4's scale plane. -/
def mstorePlane (s : State) (c : Nat) (e : Entry) : List (Nat × List Byte) :=
  let d := s.desc c (getF e.op 55 40)
  if dF d 1 1 = 5 then [(dF d 5 3, s.mstoreScales c e)] else []

/-- An MSTORE of a core to a place, once its stores have come to r: done, or with a fault. -/
def mstoreEnd (s : State) (c : Nat) (e : Entry) (pl : Place) (r : State × Option Nat) : State :=
  let d := s.desc c (getF e.op 55 40)
  let packs := (List.range (s.mstoreRows c e)).map fun o => s.mstorePack c e o
  let ext : List Span :=
    (List.range (s.mstoreRows c e)).map (fun o => ⟨pl, dF d 8 4 + o * dF d 0x10 4, ((packs.getD o ([], [], [])).1).length⟩) ++
    (if dF d 1 1 = 5 then [⟨pl, dF d 5 3, (packs.flatMap (·.2.1)).length⟩] else [])
  match r.2 with
  | some _ => (r.1.scrambleAll ext).fault c e 8 noIndex none
  | none => ((r.1.heldExt s.held.length ext).countGauge (((s.core c).part).getD 0) e.step (BitVec.ofNat 32 (dF d 0x14 4))
      (packs.flatMap (·.2.2))).waitHeld c e.uid

/-- An MSTORE stores its rows, and MXFP4's scale plane behind them. -/
theorem runMstore_eq (pl : Place) (e : Entry) :
    s.runMstore c e pl = s.mstoreEnd c e pl (s.storeRuns c e.uid pl (s.mstoreRuns c e ++ s.mstorePlane c e)) := by
  have hzip : ∀ n (f : Nat → List Byte × List Byte × List GClass), (List.range n).zip ((List.range n).map f) =
      (List.range n).map fun o => (o, f o) :=
    fun n f => by rw [List.zip_eq_zipWith, List.zipWith_map_right, List.zipWith_self]
  have hrows : ((List.range (s.mstoreRows c e)).zip ((List.range (s.mstoreRows c e)).map fun o => s.mstorePack c e o)).foldl
      (fun (acc : State × Option Nat) or =>
        let q := acc.1.storeRun c e.uid pl (dF (s.desc c (getF e.op 55 40)) 8 4 + or.1 * dF (s.desc c (getF e.op 55 40)) 0x10 4) or.2.1
        (q.1, acc.2 <|> q.2)) (s, none) = s.storeRuns c e.uid pl (s.mstoreRuns c e) := by
    rw [hzip, storeRuns, mstoreRuns, List.foldl_map, List.foldl_map]
  have hstores : (if dF (s.desc c (getF e.op 55 40)) 1 1 = 5 then
      let q := (s.storeRuns c e.uid pl (s.mstoreRuns c e)).1.storeRun c e.uid pl (dF (s.desc c (getF e.op 55 40)) 5 3)
        (((List.range (s.mstoreRows c e)).map fun o => s.mstorePack c e o).flatMap (·.2.1))
      (q.1, (s.storeRuns c e.uid pl (s.mstoreRuns c e)).2 <|> q.2)
    else s.storeRuns c e.uid pl (s.mstoreRuns c e)) = s.storeRuns c e.uid pl (s.mstoreRuns c e ++ s.mstorePlane c e) := by
    rw [storeRuns_append, mstorePlane, mstoreScales, List.flatMap_map]
    dsimp only
    split <;> rfl
  rw [← hstores, ← hrows]
  rfl

theorem mstorePack_congr (h : OnlyBegun c s t) (hacc : (t.core c).acc = (s.core c).acc) {e x : Entry} (hop : e.op = x.op) (hstep : e.step = x.step)
    (o : Nat) : t.mstorePack c e o = s.mstorePack c x o := by
  have hat : ∀ i, (t.core c).accAt i = (s.core c).accAt i := fun i => by rw [Core.accAt, Core.accAt, hacc]
  simp only [mstorePack, h.desc, h.holds, hat, hop, hstep, drawKey, h.only.part]

/-- The rows and the plane that an MSTORE writes are those of the state in which it fires. -/
theorem mstoreRuns_markFired (x : Entry) : (s.markFired c x).mstoreRuns c (s.firedEntry c x) = s.mstoreRuns c x ∧
    (s.markFired c x).mstorePlane c (s.firedEntry c x) = s.mstorePlane c x := by
  have h := onlyBegun_markFired (s := s) (c := c) x
  have hacc : ((s.markFired c x).core c).acc = (s.core c).acc := by
    obtain ⟨n, hn⟩ := core_markFired (s := s) (c := c) x
    rw [hn]
  have hpack := fun o => mstorePack_congr h hacc (e := s.firedEntry c x) (x := x) rfl rfl o
  have hop : (s.firedEntry c x).op = x.op := rfl
  constructor
  · simp only [mstoreRuns, mstoreRows, h.desc, hpack, hop]
  · simp only [mstorePlane, mstoreScales, mstoreRows, h.desc, hpack, hop]

theorem modHeld_frame (k : Nat) (f : Held → Held) : ∃ l, s.modHeld k f = { s with held := l } ∧ (s.held.length ≤ k → l = s.held) := by
  rw [modHeld]
  split
  next h => exact ⟨s.held, rfl, fun _ => rfl⟩
  next h => exact ⟨_, rfl, fun hle => absurd hle h⟩

theorem countGauge_frame (p : Nat) (step tensor : Word) (cs : List GClass) : ∃ ps, s.countGauge p step tensor cs = { s with parts := ps } := by
  rw [countGauge]
  split
  · exact ⟨s.parts, rfl⟩
  · split
    · exact ⟨s.parts, rfl⟩
    · exact ⟨_, rfl⟩

/-- The end of an MSTORE whose stores met no error: gauges are counted, and it waits for what of it is held. -/
theorem mstoreEnd_clean {e : Entry} {pl : Place} {r : State × Option Nat} (hbad : r.2 = none) : ∃ ps l,
    s.mstoreEnd c e pl r = ({ r.1 with parts := ps, held := l } : State).waitHeld c e.uid ∧ (r.1.held = s.held → l = s.held) := by
  obtain ⟨ext, cs, hend⟩ : ∃ ext cs, s.mstoreEnd c e pl r = ((r.1.heldExt s.held.length ext).countGauge (((s.core c).part).getD 0) e.step
      (BitVec.ofNat 32 (dF (s.desc c (getF e.op 55 40)) 0x14 4)) cs).waitHeld c e.uid := by
    rw [mstoreEnd, hbad]
    exact ⟨_, _, rfl⟩
  obtain ⟨l, hl, hsame⟩ := modHeld_frame (s := r.1) s.held.length fun h => { h with ext := ext }
  obtain ⟨ps, hps⟩ := countGauge_frame (s := { r.1 with held := l }) (((s.core c).part).getD 0) e.step
    (BitVec.ofNat 32 (dF (s.desc c (getF e.op 55 40)) 0x14 4)) cs
  refine ⟨ps, l, ?_, fun h => (hsame (by rw [h])).trans h⟩
  rw [hend, heldExt, hl, hps]

theorem memKept_waitHeld (uid : Nat) : MemKept s (s.waitHeld c uid) := by
  rw [waitHeld]
  split
  · exact memKept_modCore _ _
  · exact memKept_refl s

theorem core_waitHeld (uid : Nat) : ∃ w, (s.waitHeld c uid).core c = { s.core c with window := w } := by
  rw [waitHeld]
  split
  · exact ⟨_, core_modCore_self ..⟩
  · exact ⟨_, rfl⟩

theorem core_waitHeld_ne (uid : Nat) {k : Nat} (h : k ≠ c) : (s.waitHeld c uid).core k = s.core k := by
  rw [waitHeld]
  split
  · exact core_modCore_ne _ _ _ h
  · rfl

theorem MemKept.cells (h : MemKept s t) (q : Place) : t.cells q = s.cells q := by
  cases q <;> simp only [State.cells, vat, pool, h.fast, h.slow, h.vats, h.pools]

end State

theorem exec_mstore (c : CoreId) (s : State) : exec (.mstore c) s =
    .next (s.settle (s.fireOp c 1 0x12 (s.arrayAccepts c) fun t e => t.fireMstore c e)) := rfl

/-- MSTORE to a bank in which no word is in error: it stores its runs in order. -/
theorem mstore_stores {s : State} {c : CoreId} {x : Entry} {pl : Place} (hf : Fires s c 1 0x12 (s.arrayAccepts c) x)
    (hpl : s.arrayPlace c (s.desc c (getF x.op 55 40)) = some pl) (hown : s.coreOwns c (some pl) = true) (herr : (s.bankOf pl).errs = []) :
    ∃ t, exec (.mstore c) s = .next t ∧ (t.core c).acc = (s.core c).acc ∧ (∀ k, k ≠ c.val → t.core k = s.core k) ∧
      (∀ e ∈ (t.core c).window, e.uid = x.uid → e.phase = if t.hasHeld c x.uid then .held else .done) ∧
      (∀ q, q ≠ pl → t.cells q = s.cells q) ∧
      (s.boundSpans c x.uid = [] → t.cells pl = writeAll (s.cells pl) (s.mstoreRuns c x ++ s.mstorePlane c x) ∧
        t.hasHeld c x.uid = s.hasHeld c x.uid) := by
  have hb := State.isBank_of_locPlace hpl
  have hbegun := State.onlyBegun_markFired (s := s) (c := c) x
  obtain ⟨n, hcore⟩ := State.core_markFired (s := s) (c := c) x
  obtain ⟨hruns, hplane⟩ := State.mstoreRuns_markFired (s := s) (c := c) x
  have hbank := State.bankOf_markFired (s := s) (c := c) x
  have hbound := State.boundSpans_markFired (s := s) (c := c) x x.uid
  have hphase := fun y => State.phase_of_mem_markFired (s := s) (c := c) (e := x) (y := y)
  have hfire : (s.markFired c x).fireMstore c (s.firedEntry c x) = (s.markFired c x).runMstore c (s.firedEntry c x) pl := by
    have hplace : (s.markFired c x).arrayPlace c ((s.markFired c x).desc c (getF (s.firedEntry c x).op 55 40)) = some pl := by
      rw [State.arrayPlace, hbegun.locPlace, hbegun.desc]
      exact hpl
    have howns : (s.markFired c x).coreOwns c (some pl) = true := (hbegun.coreOwns _).trans hown
    simp only [State.fireMstore, hplace, howns]
  obtain ⟨hst, hnone⟩ := State.storeRuns_bankStores (s := s.markFired c x) (c := c) (uid := x.uid) hb ((hbank pl).symm ▸ herr)
    (s.mstoreRuns c x ++ s.mstorePlane c x)
  have hdata := fun hn => State.storeRuns_of_unbound (s := s.markFired c x) (c := c) (uid := x.uid) hb hn
    (s.mstoreRuns c x ++ s.mstorePlane c x) ((hbank pl).symm ▸ herr)
  have hmem := hbegun.aside.mem
  obtain ⟨ps, l, hend, hheld⟩ := State.mstoreEnd_clean (s := s.markFired c x) (c := c) (e := s.firedEntry c x) (pl := pl) hnone
  have hx := exec_mstore c s
  rw [fireOp_fires hf, hfire, State.runMstore_eq, hruns, hplane] at hx
  replace hx := hx.trans (congrArg (fun u => Host.Outcome.next (s.settle u)) hend)
  generalize (s.markFired c x).storeRuns c x.uid pl _ = r at hst hdata hheld hx
  generalize hv : ({ r.1 with parts := ps, held := l } : State) = v at hx
  have hvcore : ∀ k, v.core k = (s.markFired c x).core k := fun k => by
    rw [← hst.core k, ← hv]
    rfl
  have hkept : State.MemKept r.1 (v.waitHeld c x.uid) := by
    have hv' : State.MemKept r.1 v := hv ▸ ⟨rfl, rfl, rfl, rfl, rfl, rfl⟩
    exact hv'.trans (State.memKept_waitHeld x.uid)
  have hfail : r.1.failing = (s.markFired c x).failing ∧ r.1.stalled = (s.markFired c x).stalled := by
    constructor <;> rw [hst.frame]
  have hsettle : s.settle (v.waitHeld c x.uid) = v.waitHeld c x.uid :=
    State.settle_eq (hkept.stalled.trans (hfail.2.trans hmem.stalled)) (hkept.failing.trans (hfail.1.trans hmem.failing))
  refine ⟨v.waitHeld c x.uid, hx.trans (congrArg _ hsettle), ?_, fun k hk => ?_, fun e he hu => ?_, fun q hq => ?_,
    fun hn => ?_⟩
  · obtain ⟨w, hw⟩ := State.core_waitHeld (s := v) (c := c) x.uid
    rw [hw, hvcore, hcore]
  · rw [State.core_waitHeld_ne _ hk, hvcore, hbegun.only.others k hk]
  · exact State.phase_of_mem_waitHeld (fun y hy => hphase y (hvcore c ▸ hy)) he hu
  · rw [hkept.cells, hst.cells hq, hmem.cells]
  · obtain ⟨hd, hh⟩ := hdata (hbound.trans hn)
    refine ⟨?_, State.hasHeld_congr ?_ _ _⟩
    · rw [hkept.cells, State.cells_of_isBank hb, hd, hbank, State.cells_of_isBank hb]
    · have hfired : (s.markFired c x).held = s.held := by rw [hbegun.only.frame]
      rw [State.held_waitHeld, ← hv]
      exact (hheld hh).trans hfired

end Sys2Proof.Machine

open Sys2Proof Sys2Proof.Machine

/-- Settles O15: an MSTORE stores its rows and its plane, one run behind another, and what of them no load binds stands. -/
theorem mstoreWritesItsRows : Obligations.MstoreWritesItsRows := by
  intro s c x pl hf d fmt chans cols rows key el run row scales start plane hpl hown herr
  obtain ⟨t, hx, hacc, hothers, hphase, hcells, hunbound⟩ := mstore_stores hf hpl hown herr
  refine ⟨t, hx, hacc, hothers, hphase, fun hn hh => ?_⟩
  obtain ⟨hdata, hheld⟩ := hunbound hn
  have hplane : s.mstorePlane c x = if fmt = 5 then [(plane, scales)] else [] := rfl
  have hruns : s.mstoreRuns c x = (List.range rows).map fun o => (start o, row o) := rfl
  rw [hplane, hruns] at hdata
  refine ⟨hheld.trans hh, fun hlen hapart o ho => ?_, fun h5 => ?_, fun q a hne => ?_⟩
  · have hmem : (start o, row o) ∈ (List.range rows).map fun o => (start o, row o) := List.mem_map_of_mem (List.mem_range.mpr ho)
    have hpair : ((List.range rows).map (fun o => (start o, row o)) ++ if fmt = 5 then [(plane, scales)] else []).Pairwise Apart := by
      refine List.pairwise_append.mpr ⟨pairwise_apart_of_stride hlen, ?_, fun r hr q hq => ?_⟩
      · split <;> simp
      · obtain ⟨i, hi, rfl⟩ := List.mem_map.mp hr
        split at hq
        next h5 =>
          rw [List.mem_singleton.mp hq]
          exact hapart h5 i (List.mem_range.mp hi)
        next => cases hq
    rw [hdata]
    exact readBytes_writeAll hpair _ _ (List.mem_append_left _ hmem)
  · rw [hdata, if_pos h5, writeAll_append]
    exact readBytes_writeBytes_self ..
  · by_cases hq : q = pl
    case neg => exact absurd (by rw [hcells q hq]) hne
    subst hq
    refine ⟨rfl, ?_⟩
    by_contra hout
    rw [not_or, not_exists] at hout
    refine hne ?_
    rw [hdata]
    refine readByte_writeAll (fun r hr hin => ?_) _
    rcases List.mem_append.mp hr with hr | hr
    · obtain ⟨i, hi, rfl⟩ := List.mem_map.mp hr
      exact hout.1 i ⟨List.mem_range.mp hi, hin⟩
    · split at hr
      next h5 =>
        rw [List.mem_singleton.mp hr] at hin
        exact hout.2 ⟨h5, hin⟩
      next => cases hr
end

section
/-! SUPPORT. A chunk or row of a walk: what it reads, what it writes, and how it ends (R173-R177, R222, R242). -/

namespace Sys2Proof.Machine.State

variable {s t u : State} {c : Nat}

/-! ### What a chunk does beside its store -/

/-- Of the cores only c differs, which binds the spans it did; the memories, the Weir and what waits are as before. -/
structure Stays (c : Nat) (s t : State) : Prop where
  halt : HaltChanges s t
  others : ∀ k, k ≠ c → t.core k = s.core k
  loads : t.loads c = s.loads c

theorem stays_refl (s : State) : Stays c s s := ⟨haltChanges_refl s, fun _ _ => rfl, rfl⟩

theorem Stays.trans (h : Stays c s t) (k : Stays c t u) : Stays c s u :=
  ⟨haltChanges_trans h.halt k.halt, fun j hj => (k.others j hj).trans (h.others j hj), k.loads.trans h.loads⟩

theorem Stays.mem (h : Stays c s t) : MemKept s t := memKept_of_haltChanges h.halt

theorem Stays.boundSpans (h : Stays c s t) (k uid : Nat) : t.boundSpans k uid = s.boundSpans k uid := by
  refine boundSpans_congr (fun j => ?_) ?_
  · by_cases hj : j = c
    · rw [hj, h.loads]
    · rw [State.loads, State.loads, h.others j hj]
  · have hh := h.halt
    rw [HaltChanges] at hh
    rw [hh]

theorem stays_of_cores (h : HaltChanges s t) (hc : t.cores = s.cores) : Stays c s t := by
  have hcore : ∀ k, t.core k = s.core k := fun k => by rw [core, core, hc]
  exact ⟨h, fun k _ => hcore k, by rw [loads, loads, hcore]⟩

theorem stays_onlyRegs (h : OnlyRegs s t) : Stays c s t := by
  have hc := cores_of_onlyRegs h
  rw [OnlyRegs] at h
  exact stays_of_cores (by rw [HaltChanges, h]) hc

theorem stays_modPart (p : Nat) (f : Part → Part) : Stays c s (s.modPart p f) := stays_of_cores rfl rfl

theorem stays_pmc (k ev n : Nat) : Stays c s (s.pmc k ev n) := stays_onlyRegs (pmc_frame s k ev n)

theorem stays_setReg (id : RegId) (ix : List Nat) (v : Long) : Stays c s (s.setReg id ix v) := stays_onlyRegs (onlyRegs_setReg s id ix v)

theorem stays_modHeld (k : Nat) (f : Held → Held) : Stays c s (s.modHeld k f) := by
  obtain ⟨l, hl, -⟩ := modHeld_frame (s := s) k f
  rw [hl]
  exact stays_of_cores rfl rfl

theorem stays_countGauge (p : Nat) (step tensor : Word) (cs : List GClass) : Stays c s (s.countGauge p step tensor cs) := by
  obtain ⟨ps, hps⟩ := countGauge_frame (s := s) p step tensor cs
  rw [hps]
  exact stays_of_cores rfl rfl

theorem stays_modEntry {f : Entry → Entry} (hf : ∀ e, (f e).uid = e.uid ∧ (f e).bound = e.bound) (uid : Nat) : Stays c s (s.modEntry c uid f) :=
  ⟨rfl, fun _ hk => core_modCore_ne _ _ _ hk, loads_modEntry hf uid c⟩

theorem stays_waitHeld (uid : Nat) : Stays c s (s.waitHeld c uid) := by
  rw [waitHeld]
  split
  · exact stays_modEntry (by exact fun _ => ⟨rfl, rfl⟩) uid
  · exact stays_refl s

theorem stays_poisonIn (p : Nat) (step : Word) : Stays c s (s.poisonIn c p step) := (stays_modPart p _).trans (stays_pmc c 0x0B 1)

theorem stays_setVecFlags (eng : Nat) (e : Entry) (fl : Nat) : Stays c s (s.setVecFlags c eng e fl) := by
  rw [setVecFlags]
  dsimp only
  split
  · exact stays_refl s
  · split
    · exact (stays_setReg _ _ _).trans (stays_poisonIn _ _)
    · exact stays_setReg _ _ _

/-! ### What a chunk does in all -/

/-- Nothing of the other cores and of the Weir has moved, and nothing has failed or waits. -/
structure Goes (c : Nat) (s t : State) : Prop where
  others : ∀ k, k ≠ c → t.core k = s.core k
  weir : t.weir = s.weir
  failing : t.failing = s.failing
  stalled : t.stalled = s.stalled

theorem Goes.trans (h : Goes c s t) (k : Goes c t u) : Goes c s u :=
  ⟨fun j hj => (k.others j hj).trans (h.others j hj), k.weir.trans h.weir, k.failing.trans h.failing, k.stalled.trans h.stalled⟩

theorem Stays.goes (h : Stays c s t) : Goes c s t := by
  have hh := h.halt
  rw [HaltChanges] at hh
  exact ⟨h.others, by rw [hh], by rw [hh], by rw [hh]⟩

theorem BankStores.goes {pl : Place} (h : BankStores pl s t) : Goes c s t :=
  ⟨fun k _ => h.core k, by rw [h.frame], by rw [h.frame], by rw [h.frame]⟩

/-- A chunk of an entry has been done: the walk stands at the next, or the instruction is done or waits for what of it is held (R77). -/
structure ChunkEnds (c : Nat) (e : Entry) (s t : State) : Prop where
  goes : Goes c s t
  ends : ∀ y ∈ (t.core c).window, y.uid = e.uid → y.chunk = e.chunk + 1 ∧
    y.phase = if e.chunk + 1 < e.chunks then .fired else if t.hasHeld c e.uid then .held else .done

/-- What chunkDone makes of an entry of the walk. -/
def chunkMoved (e : Entry) (carry : List Word) (x : Entry) : Entry :=
  { x with chunk := e.chunk + 1, carry := carry, phase := if e.chunk + 1 < e.chunks then .fired else .done }

theorem chunkDone_eq (e : Entry) (carry : List Word) : s.chunkDone c e carry =
    if e.chunk + 1 < e.chunks then s.modEntry c e.uid (chunkMoved e carry) else (s.modEntry c e.uid (chunkMoved e carry)).waitHeld c e.uid := rfl

theorem stays_chunkDone (e : Entry) (carry : List Word) : Stays c s (s.chunkDone c e carry) := by
  have hmove : Stays c s (s.modEntry c e.uid (chunkMoved e carry)) := stays_modEntry (by exact fun _ => ⟨rfl, rfl⟩) e.uid
  rw [chunkDone_eq]
  split
  · exact hmove
  · exact hmove.trans (stays_waitHeld e.uid)

theorem mem_modEntry {uid : Nat} {f : Entry → Entry} {y : Entry} (hy : y ∈ ((s.modEntry c uid f).core c).window)
    (hu : y.uid = uid) : ∃ x, y = f x := by
  rw [modEntry, core_modCore_self] at hy
  obtain ⟨x, -, rfl⟩ := List.mem_map.mp hy
  by_cases hx : x.uid = uid
  · exact ⟨x, if_pos hx⟩
  · rw [if_neg hx] at hu
    exact absurd hu hx

theorem chunk_waitHeld {uid n : Nat} (h : ∀ y ∈ (s.core c).window, y.uid = uid → y.chunk = n) :
    ∀ y ∈ ((s.waitHeld c uid).core c).window, y.uid = uid → y.chunk = n := by
  rw [waitHeld]
  split
  · intro y hy hu
    rw [modEntry, core_modCore_self] at hy
    obtain ⟨x, hx, rfl⟩ := List.mem_map.mp hy
    by_cases hxu : x.uid = uid
    · rw [if_pos hxu]
      exact h x hx hxu
    · rw [if_neg hxu] at hu ⊢
      exact absurd hu hxu
  · exact h

theorem chunkEnds_chunkDone {e : Entry} (h : Goes c s u) (carry : List Word) : ChunkEnds c e s (u.chunkDone c e carry) := by
  refine ⟨h.trans (stays_chunkDone e carry).goes, fun y hy hu => ?_⟩
  have hmoved : ∀ y ∈ ((u.modEntry c e.uid (chunkMoved e carry)).core c).window, y.uid = e.uid → ∃ x, y = chunkMoved e carry x :=
    fun y hy hu => mem_modEntry hy hu
  rw [chunkDone_eq] at hy ⊢
  by_cases hmore : e.chunk + 1 < e.chunks
  · simp only [if_pos hmore] at hy ⊢
    obtain ⟨x, rfl⟩ := hmoved y hy hu
    exact ⟨rfl, if_pos hmore⟩
  · simp only [if_neg hmore] at hy ⊢
    refine ⟨chunk_waitHeld (fun z hz hzu => ?_) y hy hu, phase_of_mem_waitHeld (fun z hz hzu => ?_) hy hu⟩
    · obtain ⟨x, rfl⟩ := hmoved z hz hzu
      rfl
    · obtain ⟨x, rfl⟩ := hmoved z hz hzu
      exact if_neg hmore

/-! ### Writing a chunk -/

theorem readBytes_take {n k : Nat} (h : n ≤ k) (m : List Host.Cell) (a : Nat) : (readBytes m a k).take n = readBytes m a n := by
  rw [readBytes, ← List.map_take, List.take_range, Nat.min_eq_left h, readBytes]

/-- Bytes in front of padding read back. -/
theorem readBytes_writeBytes_append (m : List Host.Cell) (a : Nat) (bs pad : List Byte) :
    readBytes (writeBytes m a (bs ++ pad)) a bs.length = bs := by
  rw [← readBytes_take (k := (bs ++ pad).length) (by simp), readBytes_writeBytes_self, List.take_left']
  rfl

/-- The bytes of a chunk's results. -/
def resultBytes (d : TDesc) (els : List Nat) : List Byte := els.flatMap fun x => leBytes d.esize x

/-- The padding behind the last element of a G64 row (R174). -/
def padding (d : TDesc) (k : Chunk) : List Byte :=
  fill (if d.g64 ∧ k.c0 + k.n = d.cols then ((d.cols + 63) / 64 * 64 - d.cols) * d.esize else 0) 0

/-- A chunk's write to a bank without a word in error. -/
theorem writeChunk_stores {uid : Nat} {d : TDesc} {pl : Place} (hd : d.place = some pl) (hb : IsBank pl) (he : (s.bankOf pl).errs = [])
    (k : Chunk) (els : List Nat) : Goes c s (s.writeChunk c uid d k els).1 ∧ (s.writeChunk c uid d k els).2 = none ∧
      (s.boundSpans c uid = [] → readBytes ((s.writeChunk c uid d k els).1.cells pl) (d.addr k.row k.c0) (resultBytes d els).length =
        resultBytes d els) := by
  obtain ⟨hst, hbad⟩ := storeRun_bankStores (c := c) (uid := uid) hb he (d.addr k.row k.c0) (resultBytes d els ++ padding d k)
  have hheld : Stays c (s.storeRun c uid pl (d.addr k.row k.c0) (resultBytes d els ++ padding d k)).1 (s.writeChunk c uid d k els).1 := by
    simp only [writeChunk, hd]
    exact stays_modHeld _ _
  refine ⟨hst.goes.trans hheld.goes, ?_, fun hn => ?_⟩
  · simp only [writeChunk, hd]
    exact hbad
  · obtain ⟨hdata, -⟩ := storeRun_of_unbound (c := c) (uid := uid) hb he hn (d.addr k.row k.c0) (resultBytes d els ++ padding d k)
    rw [hheld.mem.cells, cells_of_isBank hb, hdata]
    exact readBytes_writeBytes_append ..

/-- A chunk's write ends the chunk; where no load binds a byte of it, its results stand (R77, R175). -/
theorem chunkWrite_ends {e : Entry} {d : TDesc} (hd : ∀ pl, d.place = some pl → IsBank pl) (he : ∀ pl, (s.bankOf pl).errs = []) (eng : Nat)
    (k : Chunk) (res : List ERes) (fl : Nat) (carry : List Word) : ChunkEnds c e s (s.chunkWrite c eng e d k res fl carry) ∧
      ∀ pl, d.place = some pl → s.boundSpans c e.uid = [] → readBytes ((s.chunkWrite c eng e d k res fl carry).cells pl) (d.addr k.row k.c0)
        (resultBytes d (res.map (·.bits))).length = resultBytes d (res.map (·.bits)) := by
  have hw : Goes c s (s.writeChunk c e.uid d k (res.map (·.bits))).1 ∧ (s.writeChunk c e.uid d k (res.map (·.bits))).2 = none := by
    cases hp : d.place with
    | none => simp only [writeChunk, hp, and_true]; exact (stays_refl s).goes
    | some pl =>
      obtain ⟨hgoes, hbad, -⟩ := writeChunk_stores (c := c) (uid := e.uid) hp (hd pl hp) (he pl) k (res.map (·.bits))
      exact ⟨hgoes, hbad⟩
  obtain ⟨hgoes, hbad⟩ := hw
  have hx : s.chunkWrite c eng e d k res fl carry = (((s.writeChunk c e.uid d k (res.map (·.bits))).1.countGauge (((s.core c).part).getD 0)
      e.step d.tensor (res.map (·.cls))).setVecFlags c eng e fl).chunkDone c e carry := by
    simp only [chunkWrite, hbad]
  have hflags := (stays_countGauge (c := c) (s := (s.writeChunk c e.uid d k (res.map (·.bits))).1) (((s.core c).part).getD 0) e.step d.tensor
    (res.map (·.cls))).trans (stays_setVecFlags eng e fl)
  refine ⟨hx ▸ chunkEnds_chunkDone (hgoes.trans hflags.goes) carry, fun pl hp hn => ?_⟩
  obtain ⟨-, -, hdata⟩ := writeChunk_stores (c := c) (uid := e.uid) hp (hd pl hp) (he pl) k (res.map (·.bits))
  rw [hx, (hflags.trans (stays_chunkDone e carry)).mem.cells]
  exact hdata hn

/-! ### Reading a chunk -/

/-- The patterns of a chunk of a source, from the bytes of the banks alone. -/
def chunkVals (bank : Place → Bank) (k : Chunk) (src : TSrc) : List Nat :=
  match src with
  | .scalar b => List.replicate k.n b
  | .desc d =>
    match d.place with
    | none => List.replicate k.n 0
    | some pl => (chunksOf d.esize (readBytes (bank pl).data (d.addr (if d.rows = 1 then 0 else k.row) k.c0) (k.n * d.esize))).map fromLE

/-- A read of a chunk where no word is in error counts its grants and changes nothing else. -/
theorem readChunk_clean (h : ∀ pl, (s.bankOf pl).errs = []) (k : Chunk) (src : TSrc) :
    OnlyRegs s (s.readChunk k src).1 ∧ (s.readChunk k src).2 = (chunkVals s.bankOf k src, none) := by
  cases src with
  | scalar b => exact ⟨rfl, rfl⟩
  | desc d =>
    cases hp : d.place with
    | none => simp only [readChunk, chunkVals, hp, and_true]; exact onlyRegs_refl s
    | some pl =>
      simp only [readChunk, chunkVals, hp, bankRead_clean _ _ _ _ (h pl), getD_map_some, Option.map_none, and_true]
      exact vatGrants_frame ..

theorem errs_onlyRegs (h : ∀ pl, (s.bankOf pl).errs = []) (hr : OnlyRegs s t) : ∀ pl, (t.bankOf pl).errs = [] := fun pl => by
  rw [bankOf_onlyRegs hr]
  exact h pl

/-- The sources of an element-wise chunk, read one behind another. -/
def readSources (s : State) (d : TDesc) (k : Chunk) (l : List TSrc) : State × List (Nat × List Nat) × List Nat :=
  l.foldl (fun (acc : State × List (Nat × List Nat) × List Nat) x =>
    let q := acc.1.readChunk k x
    (q.1, acc.2.1 ++ [(x.fmt d.fmt, q.2.1)], acc.2.2 ++ q.2.2.toList)) (s, [], [])

theorem readSources_clean (h : ∀ pl, (s.bankOf pl).errs = []) (d : TDesc) (k : Chunk) (l : List TSrc) :
    OnlyRegs s (s.readSources d k l).1 ∧ (s.readSources d k l).2 = (l.map fun x => (x.fmt d.fmt, chunkVals s.bankOf k x), []) := by
  induction l using List.reverseRecOn with
  | nil => exact ⟨onlyRegs_refl s, rfl⟩
  | append_singleton l x ih =>
    obtain ⟨hregs, hvals⟩ := ih
    obtain ⟨hr, hv⟩ := readChunk_clean (errs_onlyRegs h hregs) k x
    have hbank : (s.readSources d k l).1.bankOf = s.bankOf := funext (bankOf_onlyRegs hregs)
    rw [hbank] at hv
    have hstep : s.readSources d k (l ++ [x]) = (((s.readSources d k l).1.readChunk k x).1,
        (s.readSources d k l).2.1 ++ [(x.fmt d.fmt, ((s.readSources d k l).1.readChunk k x).2.1)],
        (s.readSources d k l).2.2 ++ ((s.readSources d k l).1.readChunk k x).2.2.toList) := by
      rw [readSources, List.foldl_append]
      rfl
    rw [hstep]
    refine ⟨onlyRegs_trans hregs hr, ?_⟩
    rw [hvals, hv, List.map_append]
    rfl

end Sys2Proof.Machine.State
end

section
/-! PROOF. The chunks of a vector engine's walks and of the special-function unit's, and the rows of row statistics (R175-R177, R211, R220,
R222, R242). -/

namespace Sys2Proof.Machine.State

variable {s t u : State} {c : Nat}

/-! ### What a chunk's elements turn on -/

/-- The two states agree in what a walk of core c is told by: its holder and its image, its engines, where its places lie, and the banks. -/
structure SameInputs (c : Nat) (s t : State) : Prop where
  holds : (t.core c).part = (s.core c).part
  engines : (t.core c).v0 = (s.core c).v0 ∧ (t.core c).v1 = (s.core c).v1
  imgs : ∀ p, (t.part p).img = (s.part p).img
  place : t.place = s.place
  banks : t.bankOf = s.bankOf

theorem SameInputs.trans (h : SameInputs c s t) (k : SameInputs c t u) : SameInputs c s u :=
  ⟨k.holds.trans h.holds, ⟨k.engines.1.trans h.engines.1, k.engines.2.trans h.engines.2⟩, fun p => (k.imgs p).trans (h.imgs p),
    k.place.trans h.place, k.banks.trans h.banks⟩

theorem sameInputs_onlyRegs (h : OnlyRegs s t) : SameInputs c s t := by
  have hc := core_of_onlyRegs h c
  have hb := funext (bankOf_onlyRegs h)
  have hp := parts_of_onlyRegs h
  refine ⟨by rw [hc], by rw [hc]; exact ⟨rfl, rfl⟩, fun p => by rw [part, part, hp], ?_, hb⟩
  rw [OnlyRegs] at h
  rw [h]

theorem sameInputs_modEntry (uid : Nat) (f : Entry → Entry) : SameInputs c s (s.modEntry c uid f) := by
  have hc : (s.modEntry c uid f).core c = { s.core c with window := (s.core c).window.map fun e => if e.uid = uid then f e else e } :=
    core_modCore_self ..
  refine ⟨by rw [hc], by rw [hc]; exact ⟨rfl, rfl⟩, fun _ => rfl, rfl, funext fun pl => ?_⟩
  cases pl <;> rfl

namespace SameInputs

variable (h : SameInputs c s t)
include h

theorem imgOf : t.imgOf c = s.imgOf c := by
  rw [State.imgOf, State.imgOf, h.holds]
  split
  · rfl
  · exact h.imgs _

theorem locPlace (cl loc : Nat) : t.locPlace cl loc = s.locPlace cl loc := by simp only [State.locPlace, physOf, h.place]

theorem desc (i : Nat) : t.desc c i = s.desc c i := by rw [State.desc, State.desc, h.imgOf]

theorem tdesc (i : Nat) : t.tdesc c i = s.tdesc c i := by simp only [State.tdesc, h.desc, h.locPlace]

theorem vecAt (eng : Nat) : t.vecAt c eng = s.vecAt c eng := by simp only [State.vecAt, vecOf, h.engines.1, h.engines.2]

theorem tensorSrcs (v : Vec) (op : Long) : t.tensorSrcs c v op = s.tensorSrcs c v op := by simp only [State.tensorSrcs, tsrc, h.tdesc]

theorem tensorDescs (v : Vec) (op : Long) : t.tensorDescs c v op = s.tensorDescs c v op := by simp only [State.tensorDescs, h.tdesc, h.tensorSrcs]

theorem chunkMax (eng : Nat) (op : Long) : t.chunkMax c eng op = s.chunkMax c eng op := by
  simp only [State.chunkMax, h.tdesc, h.tensorSrcs, h.vecAt]

theorem scalarsAt (eng : Nat) (op : Long) : t.scalarsAt c eng op = s.scalarsAt c eng op := by simp only [State.scalarsAt, h.vecAt, h.tdesc]

theorem srcAt {e x : Entry} (hop : e.op = x.op) (hcarry : e.carry = x.carry) (j : Nat) : t.srcAt c e j = s.srcAt c x j := by
  simp only [State.srcAt, h.tdesc, hop, hcarry]

theorem chunkDraw {e x : Entry} (hstep : e.step = x.step) (d : TDesc) (k : Chunk) (i : Nat) : t.chunkDraw c e d k i = s.chunkDraw c x d k i := by
  simp only [State.chunkDraw, drawKey, h.holds, h.imgs, hstep]

end SameInputs

/-! ### Element-wise chunks (R175, R191) -/

/-- The results of an element-wise chunk, from the banks alone. -/
def elemResults (s : State) (c : Nat) (e : Entry) (d : TDesc) (k : Chunk) : List ERes :=
  (List.range k.n).map fun i => elemOp e.opcode d.fmt d.conv (s.chunkDraw c e d k i)
    ((List.range (arity e.opcode)).map fun j => ((s.srcAt c e j).fmt d.fmt, (chunkVals s.bankOf k (s.srcAt c e j)).getD i 0))

theorem firstBelow_false (n : Nat) : firstBelow n (fun _ => false) = none := List.find?_eq_none.mpr fun _ _ => by simp

/-- An element-wise chunk without a word in error and without a poison element on its way into an integer format writes its results. -/
theorem elemChunk_eq (h : ∀ pl, (s.bankOf pl).errs = []) {e : Entry} {d : TDesc} (hp : fmtIsFloat d.fmt = true ∨ e.opcode ≠ 0x40) (eng : Nat)
    (k : Chunk) : ∃ v, OnlyRegs s v ∧ s.elemChunk c eng e d k = v.chunkWrite c eng e d k (s.elemResults c e d k)
      (orAll ((s.elemResults c e d k).map (·.flags))) e.carry := by
  obtain ⟨hregs, hvals⟩ := readSources_clean h d k ((List.range (arity e.opcode)).map fun j => s.srcAt c e j)
  have hpoison : ∀ xs, poisonInt e.opcode d.fmt xs = false := fun xs => by
    rw [poisonInt]
    rcases hp with hf | hne
    · simp [hf]
    · simp [hne]
  refine ⟨_, hregs, ?_⟩
  simp only [readSources] at hvals ⊢
  simp only [elemChunk, hvals, hpoison, firstBelow_false, elemResults, List.map_map, Function.comp_def]
  rfl

theorem elemResults_congr (h : SameInputs c s t) {e x : Entry} (hop : e.op = x.op) (hstep : e.step = x.step) (hcarry : e.carry = x.carry)
    (d : TDesc) (k : Chunk) : t.elemResults c e d k = s.elemResults c x d k := by
  have hoc : e.opcode = x.opcode := by rw [Entry.opcode, Entry.opcode, hop]
  simp only [elemResults, h.chunkDraw hstep, h.srcAt hop hcarry, h.banks, hoc]

/-- The chunk of an entry's walk on a vector engine (R175). -/
def vecChunk (s : State) (c eng : Nat) (e : Entry) : Chunk :=
  let d := s.tdesc c (getF e.op 51 40)
  chunkAt d.rows d.cols (s.chunkMax c eng e.op) e.chunk

theorem isBank_of_tdesc {i : Nat} {pl : Place} (h : (s.tdesc c i).place = some pl) : IsBank pl := isBank_of_locPlace h

theorem chunkBytes_eq (h : ∀ pl, (s.bankOf pl).errs = []) (eng : Nat) (e : Entry) : chunkBytes s c eng e =
    resultBytes (s.tdesc c (getF e.op 51 40)) ((s.elemResults c e (s.tdesc c (getF e.op 51 40)) (s.vecChunk c eng e)).map (·.bits)) := by
  simp only [chunkBytes, resultBytes, elemResults, vecChunk, List.flatMap_map, (readChunk_clean h _ _).2]

/-- The chunks of a walk on a vector engine, by whether it scans. -/
theorem runChunk_eq (eng : Nat) (e : Entry) : s.runChunk c eng e = if e.opcode = 0x58 ∨ e.opcode = 0x5C then
      (s.vecBeats c 1).scanChunk c eng e (s.tdesc c (getF e.op 51 40)) (s.vecChunk c eng e)
    else (s.vecBeats c 1).elemChunk c eng e (s.tdesc c (getF e.op 51 40)) (s.vecChunk c eng e) := rfl

/-- An element-wise chunk ends; where no load binds a byte of it, its results stand. -/
theorem runChunk_elem (h : ∀ pl, (s.bankOf pl).errs = []) {e : Entry}
    (hp : fmtIsFloat (s.tdesc c (getF e.op 51 40)).fmt = true ∨ e.opcode ≠ 0x40)
    (hne : ¬ (e.opcode = 0x58 ∨ e.opcode = 0x5C)) (eng : Nat) : ChunkEnds c e s (s.runChunk c eng e) ∧
      ∀ pl, (s.tdesc c (getF e.op 51 40)).place = some pl → s.boundSpans c e.uid = [] →
        readBytes ((s.runChunk c eng e).cells pl) (chunkStart s c eng e) (chunkBytes s c eng e).length = chunkBytes s c eng e := by
  have hbeat : OnlyRegs s (s.vecBeats c 1) := pmc_frame s c 0x05 1
  obtain ⟨v, hv, hx⟩ := elemChunk_eq (c := c) (errs_onlyRegs h hbeat) hp eng (s.vecChunk c eng e)
  have hregs := onlyRegs_trans hbeat hv
  have hbytes := chunkBytes_eq (c := c) h eng e
  rw [← elemResults_congr (sameInputs_onlyRegs hbeat) (rfl : e.op = e.op) rfl rfl] at hbytes
  have hstart : chunkStart s c eng e = (s.tdesc c (getF e.op 51 40)).addr (s.vecChunk c eng e).row (s.vecChunk c eng e).c0 := rfl
  obtain ⟨hends, hdata⟩ := chunkWrite_ends (c := c) (e := e) (fun _ => isBank_of_tdesc) (errs_onlyRegs h hregs) eng (s.vecChunk c eng e)
    ((s.vecBeats c 1).elemResults c e (s.tdesc c (getF e.op 51 40)) (s.vecChunk c eng e))
    (orAll (((s.vecBeats c 1).elemResults c e (s.tdesc c (getF e.op 51 40)) (s.vecChunk c eng e)).map (·.flags))) e.carry
  rw [runChunk_eq, if_neg hne, hx, hbytes, hstart]
  refine ⟨⟨(stays_onlyRegs hregs).goes.trans hends.goes, hends.ends⟩, fun pl hpl hn => ?_⟩
  exact hdata pl hpl (((stays_onlyRegs (c := c) hregs).boundSpans _ _).trans hn)

/-! ### Chunks of scans (R206, R211) -/

theorem initCarry_clean (h : ∀ pl, (s.bankOf pl).errs = []) (e : Entry) (d : TDesc) (k : Chunk) :
    OnlyRegs s (s.initCarry c e d k).1 ∧ (s.initCarry c e d k).2.2 = none := by
  rw [initCarry]
  split
  · exact ⟨onlyRegs_refl s, rfl⟩
  next x _ =>
    obtain ⟨hr, hv⟩ := readChunk_clean h { k with row := 0 } (.desc x)
    exact ⟨hr, congrArg Prod.snd hv⟩

/-- A chunk of a scan without a word in error ends with a write. -/
theorem scanChunk_eq (h : ∀ pl, (s.bankOf pl).errs = []) (eng : Nat) (e : Entry) (d : TDesc) (k : Chunk) : ∃ v res fl carry, OnlyRegs s v ∧
    s.scanChunk c eng e d k = v.chunkWrite c eng e d k res fl carry := by
  obtain ⟨hx, hxv⟩ := readChunk_clean h k (s.srcAt c e 0)
  have hxn : (s.readChunk k (s.srcAt c e 0)).2.2 = none := congrArg Prod.snd hxv
  rw [scanChunk]
  generalize s.readChunk k (s.srcAt c e 0) = x at hx hxn ⊢
  generalize hdy : (if e.opcode == 0x5C then x.1.readChunk k (s.srcAt c e 1) else (x.1, [], none)) = y
  have hy : OnlyRegs s y.1 ∧ y.2.2 = none := by
    rw [← hdy]
    split
    · obtain ⟨hr, hv⟩ := readChunk_clean (errs_onlyRegs h hx) k (s.srcAt c e 1)
      exact ⟨onlyRegs_trans hx hr, congrArg Prod.snd hv⟩
    · exact ⟨hx, rfl⟩
  generalize hdi : (if (if (getF e.op 3 0).testBit 3 then k.row == 0 else k.c0 == 0) then y.1.initCarry c e d k
    else (y.1, if (getF e.op 3 0).testBit 3 then ((e.carry.drop 3).drop k.c0).take k.n else e.carry.drop 3, none)) = i
  have hi : OnlyRegs s i.1 ∧ i.2.2 = none := by
    rw [← hdi]
    generalize (if (getF e.op 3 0).testBit 3 = true then k.row == 0 else k.c0 == 0) = fresh
    split
    · obtain ⟨hr, hv⟩ := initCarry_clean (c := c) (errs_onlyRegs h hy.1) e d k
      exact ⟨onlyRegs_trans hy.1 hr, hv⟩
    · exact ⟨hy.1, rfl⟩
  simp only [hxn, hy.2, hi.2]
  by_cases hdir : (getF e.op 3 0).testBit 3 = true
  · simp only [if_pos hdir]
    exact ⟨i.1, _, _, _, hi.1, rfl⟩
  · simp only [if_neg hdir]
    exact ⟨i.1, _, _, _, hi.1, rfl⟩

/-- A chunk of a walk on a vector engine ends: element-wise, or of a scan. -/
theorem runChunk_ends (h : ∀ pl, (s.bankOf pl).errs = []) {e : Entry}
    (hp : e.opcode = 0x40 → fmtIsFloat (s.tdesc c (getF e.op 51 40)).fmt = true) (eng : Nat) : ChunkEnds c e s (s.runChunk c eng e) := by
  by_cases hscan : e.opcode = 0x58 ∨ e.opcode = 0x5C
  · have hbeat : OnlyRegs s (s.vecBeats c 1) := pmc_frame s c 0x05 1
    obtain ⟨v, res, fl, carry, hv, hx⟩ := scanChunk_eq (c := c) (errs_onlyRegs h hbeat) eng e (s.tdesc c (getF e.op 51 40)) (s.vecChunk c eng e)
    have hregs := onlyRegs_trans hbeat hv
    obtain ⟨hends, -⟩ := chunkWrite_ends (c := c) (e := e) (fun _ => isBank_of_tdesc (s := s) (c := c) (i := getF e.op 51 40))
      (errs_onlyRegs h hregs) eng (s.vecChunk c eng e) res fl carry
    rw [runChunk_eq, if_pos hscan, hx]
    exact ⟨(stays_onlyRegs hregs).goes.trans hends.goes, hends.ends⟩
  · refine (runChunk_elem h ?_ hscan eng).1
    by_cases hcvt : e.opcode = 0x40
    · exact .inl (hp hcvt)
    · exact .inr hcvt

end Sys2Proof.Machine.State
end

section
/-! PROOF. The chunks of the special-function unit and the rows of row statistics (R220, R222, R233, R242). -/

namespace Sys2Proof.Machine.State

variable {s t u : State} {c : Nat}

/-! ### A parity error in a table slot (R217, R233) -/

theorem stays_flag (id : RegId) (ix : List Nat) (b : Nat) : Stays c s (s.flag id ix b) := stays_setReg id ix _

theorem stays_modSlots (f : FMap Slot → FMap Slot) : Stays c s (s.modCore c fun k => { k with slots := f k.slots }) :=
  ⟨rfl, fun _ hk => core_modCore_ne _ _ _ hk, by rw [loads, loads, core_modCore_self]⟩

theorem stays_parityMet (l : List Nat) : Stays c s (s.parityMet c l) := (stays_flag _ _ _).trans (stays_modSlots _)

theorem stays_reportAll (p : Nat) : Stays c s (s.reportAll p) := stays_of_cores (reportAll_frame s p) (cores_reportAll p)

theorem stays_flagFallback (e : Entry) : Stays c s (s.flagFallback c e) := by
  have hmark : Stays c s ((((s.flag .sfuFlags (cix c) 1).bump .sfuFallback (cix c) 31 0).pmc c 0x07 1).modEntry c e.uid fun x =>
      { x with fallback := true }) :=
    (((stays_flag _ _ _).trans (stays_setReg _ _ _)).trans (stays_pmc c _ _)).trans (stays_modEntry (by exact fun _ => ⟨rfl, rfl⟩) e.uid)
  rw [flagFallback]
  dsimp only
  split
  · exact hmark
  · split
    · exact hmark.trans (stays_modPart _ _)
    · exact (hmark.trans (stays_modPart _ _)).trans (stays_reportAll _)

/-- The elements of a chunk in order: flags, counts, and a slot that a parity error makes invalid. -/
theorem stays_sfRun (e : Entry) (w : SfWord) (fmt conv : Nat) (mode : SMode) (f2 : Nat) (xs : List (FVal × FVal × Nat)) :
    Stays c s (s.sfRun c e w fmt conv mode f2 xs).1 := by
  have hpois : ∀ (b : Bool) (u : State), Stays c u (if b then (u.flag .sfuFlags (cix c) 0).poisonIn c (((s.core c).part).getD 0) e.step else u) :=
    fun b u => by
      split
      · exact (stays_flag _ _ _).trans (stays_poisonIn _ _)
      · exact stays_refl u
  rw [sfRun]
  dsimp only
  refine Stays.trans ?_ (hpois _ _)
  split
  · exact stays_refl s
  · split
    · exact stays_refl s
    · exact (stays_parityMet _).trans (stays_flagFallback e)

/-! ### Chunks of the special-function unit (R215, R220, R222) -/

/-- The result of an element in a mode (R215). -/
def sfResult (k : Core) (w : SfWord) (fmt conv : Nat) (m : SMode) (f2 : Nat) (x : FVal × FVal × Nat) : ERes :=
  let r := encodeVal fmt (decide (4 ≤ conv)) (conv % 4) x.2.2 (sfValue k w m f2 fmt x.1 x.2.1)
  ⟨r.1, r.2, 0⟩

/-- In a mode without a parity error ahead every element is served in the mode (R215, R233). -/
theorem sfRun_results {w : SfWord} {mode : SMode}
    (h : mode ≠ .normal ∨ ∀ n ∈ slotNeeds (s.core c) w, (slotOf (s.core c) n.1).parity = []) (e : Entry) (fmt conv f2 : Nat)
    (xs : List (FVal × FVal × Nat)) : (s.sfRun c e w fmt conv mode f2 xs).2.1 = xs.map (sfResult (s.core c) w fmt conv mode f2) := by
  have hclean : (decide (mode ≠ .normal) || (slotNeeds (s.core c) w).all fun n => (slotOf (s.core c) n.1).parity.isEmpty) = true := by
    rcases h with hm | hall
    · simp [hm]
    · rw [Bool.or_eq_true, List.all_eq_true]
      exact .inr fun n hn => by simp [hall n hn]
  simp only [sfRun, hclean, if_true, List.take_length, List.drop_length, List.map_nil, List.append_nil]
  rfl

/-- The chunk of an entry's walk on the special-function unit (R222). -/
def sfChunkAt (s : State) (c : Nat) (e : Entry) : Chunk :=
  let d := s.tdesc c (sfWord e.op).td
  chunkAt d.rows d.cols 256 e.chunk

/-- The elements of that chunk with their draws, from the banks alone. -/
def sfInputs (s : State) (c : Nat) (e : Entry) : List (FVal × FVal × Nat) :=
  let w := sfWord e.op
  let k := s.sfChunkAt c e
  let vals := fun td => chunkVals s.bankOf k (.desc (s.tdesc c td))
  (List.range k.n).map fun i => (decodeVal (s.tdesc c w.ts1).fmt ((vals w.ts1).getD i 0),
    decodeVal (s.tdesc c w.ts2).fmt ((if w.oc = 0x61 then vals w.ts2 else []).getD i 0), s.chunkDraw c e (s.tdesc c w.td) k i)

/-- What the elements of the chunk come to in state v, in the walk's mode and with its second function. -/
def sfServed (s v : State) (c : Nat) (e : Entry) : State × List ERes × SMode :=
  v.sfRun c e (sfWord e.op) (s.tdesc c (sfWord e.op).td).fmt (s.tdesc c (sfWord e.op).td).conv (SMode.ofCode (e.carry.getD 0 0))
    (e.carry.getD 1 0).toNat (s.sfInputs c e)

/-- The results of the chunk where every element is served in the walk's mode. -/
def sfResults (s : State) (c : Nat) (e : Entry) : List ERes :=
  (s.sfInputs c e).map (sfResult (s.core c) (sfWord e.op) (s.tdesc c (sfWord e.op).td).fmt (s.tdesc c (sfWord e.op).td).conv
    (SMode.ofCode (e.carry.getD 0 0)) (e.carry.getD 1 0).toNat)

/-- A chunk of the special-function unit without a word in error reads, serves its elements and writes. -/
theorem sfChunk_eq (h : ∀ pl, (s.bankOf pl).errs = []) (e : Entry) : ∃ v carry, OnlyRegs s v ∧ s.sfChunk c e =
    (s.sfServed v c e).1.chunkWrite c 0 e (s.tdesc c (sfWord e.op).td) (s.sfChunkAt c e) (s.sfServed v c e).2.1 0 carry := by
  have hbeat : OnlyRegs s (s.pmc c 0x06 (lookups (s.core c) (sfWord e.op))) := pmc_frame ..
  obtain ⟨hx, hxv⟩ := readChunk_clean (errs_onlyRegs h hbeat) (s.sfChunkAt c e) (.desc (s.tdesc c (sfWord e.op).ts1))
  rw [show (s.pmc c 0x06 (lookups (s.core c) (sfWord e.op))).bankOf = s.bankOf from funext (bankOf_onlyRegs hbeat)] at hxv
  replace hx := onlyRegs_trans hbeat hx
  have hshape : s.sfChunkAt c e = chunkAt (s.tdesc c (sfWord e.op).td).rows (s.tdesc c (sfWord e.op).td).cols 256 e.chunk := rfl
  rw [sfChunk]
  dsimp only
  rw [← hshape]
  generalize (s.pmc c 0x06 (lookups (s.core c) (sfWord e.op))).readChunk (s.sfChunkAt c e) (.desc (s.tdesc c (sfWord e.op).ts1)) = x at hx hxv ⊢
  generalize hdy : (if (sfWord e.op).oc = 0x61 then x.1.readChunk (s.sfChunkAt c e) (.desc (s.tdesc c (sfWord e.op).ts2)) else (x.1, [], none)) = y
  have hy : OnlyRegs s y.1 ∧ y.2 =
      (if (sfWord e.op).oc = 0x61 then chunkVals s.bankOf (s.sfChunkAt c e) (.desc (s.tdesc c (sfWord e.op).ts2)) else [], none) := by
    rw [← hdy]
    split
    · obtain ⟨hr, hv⟩ := readChunk_clean (errs_onlyRegs h hx) (s.sfChunkAt c e) (.desc (s.tdesc c (sfWord e.op).ts2))
      rw [show x.1.bankOf = s.bankOf from funext (bankOf_onlyRegs hx)] at hv
      exact ⟨onlyRegs_trans hx hr, hv⟩
    · exact ⟨hx, rfl⟩
  simp only [hxv, hy.2]
  exact ⟨y.1, _, hy.1, rfl⟩

theorem sfChunkBytes_eq (h : ∀ pl, (s.bankOf pl).errs = []) (e : Entry) :
    sfChunkBytes s c e = resultBytes (s.tdesc c (sfWord e.op).td) ((s.sfResults c e).map (·.bits)) := by
  simp only [sfChunkBytes, resultBytes, sfResults, sfInputs, sfResult, sfChunkAt, List.flatMap_map, List.map_map, (readChunk_clean h _ _).2,
    Function.comp_def]
  by_cases hoc : (sfWord e.op).oc = 0x61
  · simp only [if_pos hoc]
  · simp only [if_neg hoc, List.getD_nil]

/-- Does the walk go on in a mode without a parity error ahead? -/
def SfClean (s : State) (c : Nat) (e : Entry) : Prop :=
  SMode.ofCode (e.carry.getD 0 0) ≠ .normal ∨ ∀ n ∈ slotNeeds (s.core c) (sfWord e.op), (slotOf (s.core c) n.1).parity = []

/-- A chunk of the special-function unit ends; in a mode without a parity error ahead, and where no load binds a byte of it, its results stand. -/
theorem sfChunk_ends (h : ∀ pl, (s.bankOf pl).errs = []) (e : Entry) : ChunkEnds c e s (s.sfChunk c e) ∧
    ∀ pl, (s.tdesc c (sfWord e.op).td).place = some pl → s.boundSpans c e.uid = [] → s.SfClean c e →
      readBytes ((s.sfChunk c e).cells pl) ((s.tdesc c (sfWord e.op).td).addr (s.sfChunkAt c e).row (s.sfChunkAt c e).c0)
        (sfChunkBytes s c e).length = sfChunkBytes s c e := by
  obtain ⟨v, carry, hv, hx⟩ := sfChunk_eq (c := c) h e
  have hstays : Stays c s (s.sfServed v c e).1 := (stays_onlyRegs hv).trans (stays_sfRun ..)
  have hres : s.SfClean c e → (s.sfServed v c e).2.1 = s.sfResults c e := fun hc => by
    have hcore : v.core c = s.core c := core_of_onlyRegs hv c
    rw [SfClean, ← hcore] at hc
    rw [sfServed, sfRun_results hc, hcore, sfResults]
  obtain ⟨hends, hdata⟩ := chunkWrite_ends (c := c) (e := e) (fun _ => isBank_of_tdesc (s := s) (c := c) (i := (sfWord e.op).td))
    (fun pl => by rw [hstays.mem.bankOf]; exact h pl) 0 (s.sfChunkAt c e) (s.sfServed v c e).2.1 0 carry
  rw [hx]
  refine ⟨⟨hstays.goes.trans hends.goes, hends.ends⟩, fun pl hpl hn hc => ?_⟩
  rw [sfChunkBytes_eq h, ← hres hc]
  exact hdata pl hpl ((hstays.boundSpans _ _).trans hn)

/-! ### Rows of row statistics (R242-R251) -/

theorem length_f32Bytes (v : FVal) : (f32Bytes v).length = 4 := leBytes_length ..

theorem length_pairBytes (p : Pair) : p.bytes.length = 8 := by rw [Pair.bytes, List.length_append, length_f32Bytes, length_f32Bytes]

theorem length_partialBytes (r : Partial) : r.bytes.length = 64 := by
  simp [Partial.bytes, length_f32Bytes, length_pairBytes, fill]

theorem length_finalBytes (f : Final) : f.bytes.length = 64 := by simp [Final.bytes, length_f32Bytes, fill]

theorem length_rowRecord (e : Entry) (pl : Place) (a : Nat) : (rowRecord s c e pl a).length = 64 := by
  rw [rowRecord]
  split
  · exact length_finalBytes _
  · exact length_partialBytes _

theorem stays_rsFlags (xs : List FVal) (sat clamped : Bool) : Stays c s (s.rsFlags c xs sat clamped) := by
  have hflag : ∀ (b : Bool) (u : State) (n : Nat), Stays c u (if b then u.flag .rsFlags (cix c) n else u) := fun b u n => by
    split
    · exact stays_flag _ _ _
    · exact stays_refl u
  exact (((hflag _ s 0).trans (hflag _ _ 1)).trans (hflag _ _ 2)).trans (hflag _ _ 3)

/-- The elements of an RSTAT's row, from the banks alone. -/
def rowElems (s : State) (c : Nat) (e : Entry) (src : Place) : List FVal :=
  let d := s.tdesc c (getF e.op 55 44)
  (chunksOf d.esize (readBytes (s.bankOf src).data (d.addr e.chunk 0) (d.cols * d.esize))).map fun b => decodeVal d.fmt (fromLE b)

/-- The partial that the row's elements join: the record that it continues, or a fresh one (R242). -/
def rowStart (s : State) (c : Nat) (e : Entry) (src pl : Place) : Partial :=
  if getF e.op 43 43 = 1 then Partial.ofBytes (readBytes (s.cells pl) (64 * (getF e.op 36 22 + e.chunk)) 64)
  else Partial.fresh (shiftOf (s.rowElems c e src))

/-- The record of a row whose elements join a partial, as that partial or finished (R242, R251). -/
def recordBytes (e : Entry) (p : Partial) : List Byte := if getF e.op 42 42 = 1 then (p.finish (getF e.op 15 0)).bytes else p.bytes

theorem rowRecord_eq {e : Entry} {src : Place} (hsrc : (s.tdesc c (getF e.op 55 44)).place = some src) (pl : Place) :
    rowRecord s c e pl (64 * (getF e.op 36 22 + e.chunk)) = recordBytes e ((s.rowStart c e src pl).row (s.rowElems c e src)) := by
  simp only [rowRecord, rowStart, rowElems, recordBytes, hsrc, Option.map_some, Option.getD_some, cells_of_isBank (isBank_of_tdesc hsrc)]

/-- What an RSTAT's row does once it has read its elements and its partial. -/
def rowEnd (s v : State) (c : Nat) (e : Entry) (pl : Place) (xs : List FVal) (p0 : Partial) : State :=
  let f := (p0.row xs).finish (getF e.op 15 0)
  let t := (v.storeRun c e.uid pl (64 * (getF e.op 36 22 + e.chunk)) (recordBytes e (p0.row xs))).1.heldExt v.held.length
    [⟨pl, 64 * getF e.op 36 22, 64 * (s.tdesc c (getF e.op 55 44)).rows⟩]
  let t := t.rsFlags c xs (decide (2 ^ 32 ≤ p0.n + xs.length)) (getF e.op 42 42 = 1 && f.flags.testBit 5)
  let t := if xs.any FVal.isPoison then t.poisonIn c (((s.core c).part).getD 0) e.step else t
  t.chunkDone c e []

/-- Flags follow the record, and the row ends. -/
theorem rowEnd_eq (v : State) (e : Entry) (pl : Place) (xs : List FVal) (p0 : Partial) : ∃ u,
    Stays c (v.storeRun c e.uid pl (64 * (getF e.op 36 22 + e.chunk)) (recordBytes e (p0.row xs))).1 u ∧
      s.rowEnd v c e pl xs p0 = u.chunkDone c e [] := by
  have hpoison : ∀ (b : Bool) (u : State), Stays c u (if b then u.poisonIn c (((s.core c).part).getD 0) e.step else u) := fun b u => by
    split
    · exact stays_poisonIn _ _
    · exact stays_refl u
  exact ⟨_, ((stays_modHeld _ _).trans (stays_rsFlags _ _ _)).trans (hpoison _ _), rfl⟩

/-- A row of an RSTAT reads its elements and its partial. -/
theorem rstatRow_eq (h : ∀ pl, (s.bankOf pl).errs = []) {e : Entry} {pl : Place} (src : Place) (hb : IsBank pl) : ∃ v, OnlyRegs s v ∧
    s.rstatRow c e src pl = s.rowEnd v c e pl (s.rowElems c e src) (s.rowStart c e src pl) := by
  have hx := vatGrants_frame s src ((s.tdesc c (getF e.op 55 44)).addr e.chunk 0)
    ((s.tdesc c (getF e.op 55 44)).cols * (s.tdesc c (getF e.op 55 44)).esize)
  rw [rstatRow]
  simp only [bankRead_clean _ _ _ _ (h src)]
  generalize s.vatGrants src _ _ = x at hx ⊢
  by_cases hcont : getF e.op 43 43 = 1
  · have hbank : x.bankOf pl = s.bankOf pl := bankOf_onlyRegs hx pl
    refine ⟨_, onlyRegs_trans hx (vatGrants_frame x pl (64 * (getF e.op 36 22 + e.chunk)) 64), ?_⟩
    simp only [hcont, if_true, bankRead_clean _ _ _ _ (errs_onlyRegs h hx pl), Option.isSome_none, Bool.or_self, Bool.false_eq_true, if_false,
      getD_map_some, rowStart, cells_of_isBank hb, hbank]
    rfl
  · refine ⟨x, hx, ?_⟩
    simp only [hcont, if_false, Option.isSome_none, Bool.or_self, Bool.false_eq_true, getD_map_some, rowStart]
    rfl

/-- A row of an RSTAT ends; where no load binds a byte of it, its record stands, and no other byte has changed. -/
theorem rstatRow_ends (h : ∀ pl, (s.bankOf pl).errs = []) {e : Entry} {src pl : Place} (hsrc : (s.tdesc c (getF e.op 55 44)).place = some src)
    (hb : IsBank pl) : ChunkEnds c e s (s.rstatRow c e src pl) ∧ (s.boundSpans c e.uid = [] →
      (s.rstatRow c e src pl).cells pl = writeBytes (s.cells pl) (64 * (getF e.op 36 22 + e.chunk))
        (rowRecord s c e pl (64 * (getF e.op 36 22 + e.chunk))) ∧ ∀ q, q ≠ pl → (s.rstatRow c e src pl).cells q = s.cells q) := by
  obtain ⟨v, hv, hrow⟩ := rstatRow_eq (c := c) (e := e) h src hb
  obtain ⟨u, hu, hend⟩ := rowEnd_eq (s := s) (c := c) v e pl (s.rowElems c e src) (s.rowStart c e src pl)
  rw [← rowRecord_eq hsrc] at hu
  have herr := errs_onlyRegs h hv pl
  obtain ⟨hst, -⟩ := storeRun_bankStores (c := c) (uid := e.uid) hb herr (64 * (getF e.op 36 22 + e.chunk))
    (rowRecord s c e pl (64 * (getF e.op 36 22 + e.chunk)))
  have hreads : Stays c s v := stays_onlyRegs hv
  rw [hrow, hend]
  refine ⟨chunkEnds_chunkDone ((hreads.goes.trans hst.goes).trans hu.goes) [], fun hn => ⟨?_, fun q hq => ?_⟩⟩
  · obtain ⟨hdata, -⟩ := storeRun_of_unbound (c := c) (uid := e.uid) hb herr ((hreads.boundSpans _ _).trans hn)
      (64 * (getF e.op 36 22 + e.chunk)) (rowRecord s c e pl (64 * (getF e.op 36 22 + e.chunk)))
    rw [(hu.trans (stays_chunkDone e [])).mem.cells, cells_of_isBank hb, hdata, hreads.mem.bankOf, cells_of_isBank hb]
  · rw [(hu.trans (stays_chunkDone e [])).mem.cells, hst.cells hq, hreads.mem.cells]

end Sys2Proof.Machine.State
end

section
/-! PROOF. The admission of a walk's chunk (R175, R177, R222, R242, R485, R506). -/

namespace Sys2Proof.Machine.State

variable {s t u : State} {c p uid : Nat} {x : Entry}

/-! ### What an admission moves (R485) -/

/-- Only the Weir and the partitions' energy have moved. -/
structure Admitted (s t : State) : Prop where
  frame : t = { s with weir := t.weir, parts := t.parts }
  imgs : ∀ q, (t.part q).img = (s.part q).img

theorem Admitted.trans (h : Admitted s t) (k : Admitted t u) : Admitted s u :=
  ⟨by rw [k.frame, h.frame], fun q => (k.imgs q).trans (h.imgs q)⟩

theorem admitted_of_weir (h : t = { s with weir := t.weir }) : Admitted s t := ⟨by rw [h], fun q => by rw [h]; rfl⟩

theorem admitted_modPart (q : Nat) {f : Part → Part} (hf : ∀ y, (f y).img = y.img) : Admitted s (s.modPart q f) := by
  refine ⟨rfl, fun r => ?_⟩
  by_cases hr : r = q
  · rw [hr, part_modPart_self, hf]
  · rw [part_modPart_ne _ _ _ hr]

theorem predict_frame (costs : List Cost) (xs : List Charge) : s.predict costs xs = { s with weir := (s.predict costs xs).weir } :=
  foldl_rel (fun s t => t = { s with weir := t.weir }) (fun _ => rfl) (fun h k => by rw [k, h]) _ (fun _ _ => rfl) xs s

theorem admitted_admitPart {xs : List Charge} (h : s.admitPart p xs = some u) : Admitted s u := by
  rw [admitPart] at h
  split at h
  · split at h
    · cases h
    next a sp _ =>
      cases h
      exact ((admitted_of_weir (predict_frame _ _)).trans (admitted_of_weir rfl)).trans (admitted_modPart p (by exact fun _ => rfl))
  · cases h

/-- The state in which the charge has been admitted and waits no longer. -/
def charged (u : State) (c : Nat) : State := u.clearWaiting c

theorem admitted_charged (h : Admitted s u) : Admitted s (u.charged c) := h.trans (admitted_of_weir rfl)

theorem Admitted.sameInputs (h : Admitted s t) : SameInputs c s t := by
  have hf := h.frame
  refine ⟨by rw [hf]; rfl, by rw [hf]; exact ⟨rfl, rfl⟩, h.imgs, by rw [hf], funext fun pl => ?_⟩
  rw [hf]
  cases pl <;> rfl

theorem Admitted.core (h : Admitted s t) (k : Nat) : t.core k = s.core k := by
  rw [h.frame]
  rfl

theorem Admitted.mem (h : Admitted s t) : MemKept s t := by
  have hf := h.frame
  exact ⟨by rw [hf], by rw [hf], by rw [hf], by rw [hf], by rw [hf], by rw [hf]⟩

theorem Admitted.boundSpans (h : Admitted s t) (k uid : Nat) : t.boundSpans k uid = s.boundSpans k uid :=
  boundSpans_congr (fun j => by rw [loads, loads, h.core]) (by rw [h.frame])

/-! ### The chunk at an admission (R177) -/

/-- A walk of core c under way, whose next chunk no other charge of the core stands before. -/
structure UnderWay (s : State) (c p uid : Nat) (x : Entry) : Prop where
  part : (s.core c).part = some p
  entry : s.entry? c uid = some x
  phase : x.phase = .fired
  first : 0 < x.chunk
  more : x.chunk < x.chunks
  free : s.waitingCharge c = none

/-- The next chunk of the walk that entry x carries. -/
def nextChunk (s t : State) (c : Nat) (x : Entry) : State :=
  match x.unit with
  | 2 => t.runChunk c 0 x
  | 3 => t.runChunk c 1 x
  | 4 => t.sfChunk c x
  | 5 => t.rstatNext c x
  | _ => s

theorem chunkAdmission_admits (h : UnderWay s c p uid x) (hadm : s.admitPart p (s.chunkCharge c x) = some u) :
    s.chunkAdmission c uid = s.nextChunk (u.charged c) c x := by
  simp only [chunkAdmission, h.part, h.entry, h.phase, h.first, h.more, h.free, hadm, and_self, if_true]
  rfl

theorem chunkAdmission_waits (h : UnderWay s c p uid x) (hadm : s.admitPart p (s.chunkCharge c x) = none) :
    s.chunkAdmission c uid = s.markWaiting c p uid x.chunk := by
  simp only [chunkAdmission, h.part, h.entry, h.phase, h.first, h.more, h.free, hadm, and_self, if_true]

/-- The row of an RSTAT under way whose places lie in its cluster. -/
theorem rstatNext_eq {a b : Place} (ha : (s.tdesc c (getF x.op 55 44)).place = some a) (hb : s.locPlace (c / 16) (getF x.op 41 37) = some b) :
    s.rstatNext c x = s.rstatRow c x a b := by simp only [rstatNext, ha, hb]

/-- A chunk that has ended after its admission has come to its whole effect. -/
theorem settle_chunkEnds (hadm : Admitted s u) (h : ChunkEnds c x (u.charged c) t) : s.settle t = t :=
  have hmem := (admitted_charged (c := c) hadm).mem
  settle_eq (h.goes.stalled.trans hmem.stalled) (h.goes.failing.trans hmem.failing)

theorem errs_charged (herr : NoErrors s) (h : Admitted s u) : ∀ pl, ((u.charged c).bankOf pl).errs = [] := fun pl => by
  rw [(admitted_charged h).mem.bankOf]
  exact errs_bankOf herr pl

/-- The next chunk of a walk of any unit ends. -/
theorem nextChunk_ends (herr : NoErrors s) (hadm : Admitted s u)
    (hunit : x.unit = 2 ∨ x.unit = 3 ∨ x.unit = 4 ∨
      (x.unit = 5 ∧ (s.tdesc c (getF x.op 55 44)).place.isSome = true ∧ (s.locPlace (c / 16) (getF x.op 41 37)).isSome = true))
    (hcvt : x.unit = 2 ∨ x.unit = 3 → x.opcode = 0x40 → fmtIsFloat (s.tdesc c (getF x.op 51 40)).fmt = true) :
    ChunkEnds c x (u.charged c) (s.nextChunk (u.charged c) c x) := by
  have hin : SameInputs c s (u.charged c) := (admitted_charged hadm).sameInputs
  have herrs := errs_charged (c := c) herr hadm
  have hvec := fun h2 eng => runChunk_ends (c := c) (e := x) herrs (fun hoc => by rw [hin.tdesc]; exact hcvt h2 hoc) eng
  rcases hunit with h2 | h3 | h4 | ⟨h5, hplace, hrec⟩
  · simp only [nextChunk, h2]
    exact hvec (.inl h2) 0
  · simp only [nextChunk, h3]
    exact hvec (.inr h3) 1
  · simp only [nextChunk, h4]
    exact (sfChunk_ends herrs x).1
  · obtain ⟨a, ha⟩ := Option.isSome_iff_exists.mp hplace
    obtain ⟨b, hb⟩ := Option.isSome_iff_exists.mp hrec
    rw [← hin.tdesc] at ha
    rw [← hin.locPlace] at hb
    simp only [nextChunk, h5, rstatNext_eq ha hb]
    exact (rstatRow_ends herrs ha (isBank_of_locPlace hb)).1

/-! ### A charge that waits (R485, R506) -/

theorem dieCounters_range {a : Nat} (h : a ∈ dieCounters) : 0x90000 ≤ a := by
  simp only [dieCounters, List.mem_cons, List.mem_map, List.mem_range] at h
  rcases h with rfl | ⟨j, -, rfl⟩ <;> simp [RegRow.addr, RegId.row, sumN]

theorem weirAcct_not_mem_dieCounters (hp : p < 16) : RegId.weirAcct.row.addr [p] ∉ dieCounters := fun h => by
  have := dieCounters_range h
  simp [RegRow.addr, RegId.row, sumN] at this
  omega

/-- The state in which a charge is among those that wait, before the event is counted (R488). -/
def waitBegun (s : State) (k : Nat) (x : Nat × Nat) : State :=
  { s with weir := { s.weir with waiting := s.weir.waiting.set k x, since := s.weir.since.set k s.tick, anyWait := true } }

/-- A charge that begins to wait: the Weir and counters move. -/
theorem markWaiting_waits (hp : p < 16) (hnew : s.weir.waiting.has c = false) (piece : Nat) :
    (s.markWaiting c p uid piece).weir.waiting.get (0, 0) c = (uid, piece) ∧ MemKept s (s.markWaiting c p uid piece) ∧
      (s.markWaiting c p uid piece).cores = s.cores ∧
      (s.markWaiting c p uid piece).regF .weirAcct [p] 15 0 = min (s.regF .weirAcct [p] 15 0 + 1) 0xFFFF := by
  have hmark : s.markWaiting c p uid piece = ((s.bump .weirAcct [p] 15 0).waitBegun c (uid, piece)).pmcDie 0x87 0 1 := by
    rw [markWaiting, if_neg (by simp [hnew])]
    rfl
  have hcount := pmcDie_frame ((s.bump .weirAcct [p] 15 0).waitBegun c (uid, piece)) 0x87 0 1
  have hreg := reg_of_sameRegsBut (sameRegsBut_pmcDie (s := (s.bump .weirAcct [p] 15 0).waitBegun c (uid, piece)) 0x87 0 1)
    (weirAcct_not_mem_dieCounters hp)
  rw [hmark]
  generalize State.pmcDie _ 0x87 0 1 = v at hcount hreg ⊢
  rw [Counts] at hcount
  refine ⟨?_, ?_, ?_, ?_⟩
  · rw [hcount]
    exact FMap.get_set_self ..
  · exact ⟨by rw [hcount]; rfl, by rw [hcount]; rfl, by rw [hcount]; rfl, by rw [hcount]; rfl, by rw [hcount]; rfl, by rw [hcount]; rfl⟩
  · rw [hcount]
    rfl
  · rw [regF, hreg]
    exact regF_bumpBy_self s .weirAcct [p] 15 0 1 (by omega) (by omega)

end Sys2Proof.Machine.State

namespace Sys2Proof.Machine

theorem exec_tensorChunkAdmission (c : CoreId) (uid : Nat) (s : State) :
    exec (.tensorChunkAdmission c uid) s = .next (s.settle (s.chunkAdmission c uid)) := rfl

/-- An admitted chunk: it has run, and the walk has moved on. -/
theorem exec_admitted {s u : State} {c : CoreId} {p uid : Nat} {x : Entry} (h : State.UnderWay s c p uid x)
    (hadm : s.admitPart p (s.chunkCharge c x) = some u)
    (hends : State.ChunkEnds c x (u.charged c) (s.nextChunk (u.charged c) c x)) :
    exec (.tensorChunkAdmission c uid) s = .next (s.nextChunk (u.charged c) c x) := by
  rw [exec_tensorChunkAdmission, State.chunkAdmission_admits h hadm, State.settle_chunkEnds (State.admitted_admitPart hadm) hends]

/-- TENSOR_CHUNK_ADMISSION of a walk of any unit. -/
theorem tensorChunkAdvances : Claims.TensorChunkAdvances := by
  intro s u c p uid x hpart hentry hphase hfirst hmore hfree hadm herr hunit hcvt
  have hadmits := State.admitted_admitPart hadm
  have hends := State.nextChunk_ends herr hadmits hunit hcvt
  have huid := State.uid_of_entry? hentry
  refine ⟨_, exec_admitted ⟨hpart, hentry, hphase, hfirst, hmore, hfree⟩ hadm hends, fun y hy hu => ?_, ?_, ?_, fun k hk => ?_⟩
  · rw [← huid] at hu ⊢
    exact hends.ends y hy hu
  · rw [hends.goes.weir]
    rfl
  · rw [hends.goes.weir]
    rfl
  · rw [hends.goes.others k hk, (State.admitted_charged hadmits).core]

/-- An element-wise instruction is no scan. -/
theorem elementwise_not_scan {c : CoreId} {eng : Fin 2} {q : Instr × Nat} (hq : q ∈ elementwise c eng) : ¬ (q.2 = 0x58 ∨ q.2 = 0x5C) := by
  have hcodes : (elementwise c eng).map (·.2) =
    [0x10, 0x20, 0x21, 0x22, 0x23, 0x24, 0x25, 0x26, 0x27, 0x28, 0x30, 0x31, 0x32, 0x33, 0x34, 0x40] := rfl
  have hnone : ∀ n ∈ (elementwise c eng).map (·.2), ¬ (n = 0x58 ∨ n = 0x5C) := by
    rw [hcodes]
    decide
  exact hnone q.2 (List.mem_map_of_mem hq)

namespace State

variable {s u : State} {c : Nat} {x : Entry}

theorem nextChunk_vec {eng : Fin 2} (h : x.unit = 2 + eng.val) (t : State) : s.nextChunk t c x = t.runChunk c eng x := by
  fin_cases eng <;> simp only [nextChunk, h]

theorem chunkBytes_congr {t : State} (h : SameInputs c s t) (herr : ∀ pl, (s.bankOf pl).errs = []) {e x : Entry} (hop : e.op = x.op)
    (hstep : e.step = x.step) (hcarry : e.carry = x.carry) (hchunk : e.chunk = x.chunk) (eng : Nat) :
    chunkBytes t c eng e = chunkBytes s c eng x ∧ chunkStart t c eng e = chunkStart s c eng x := by
  have hk : t.vecChunk c eng e = s.vecChunk c eng x := by simp only [vecChunk, h.tdesc, h.chunkMax, hop, hchunk]
  have herr' : ∀ pl, (t.bankOf pl).errs = [] := by rw [h.banks]; exact herr
  refine ⟨?_, ?_⟩
  · rw [chunkBytes_eq herr', chunkBytes_eq herr, hk, hop, h.tdesc, elemResults_congr h hop hstep hcarry]
  · simp only [chunkStart, h.tdesc, h.chunkMax, hop, hchunk]

end State

/-- TENSOR_CHUNK_ADMISSION of an element-wise walk, by what the Weir answers. -/
theorem tensorChunkIsAdmittedAndWritten : Claims.TensorChunkIsAdmittedAndWritten := by
  intro s c eng p uid x pl hpart hentry hunit hop hphase hfirst hmore hrun hfree d
  have hway : State.UnderWay s c p uid x := ⟨hpart, hentry, hphase, hfirst, hmore, hfree⟩
  have huid := State.uid_of_entry? hentry
  obtain ⟨q, hq, hoc⟩ := hop
  refine ⟨fun hadm hnew => ?_, fun u hadm hpl herr hnb hcvt => ?_⟩
  · obtain ⟨hwait, hmem, hcores, hcount⟩ := State.markWaiting_waits (s := s) (uid := uid) p.isLt hnew x.chunk
    have hx := exec_tensorChunkAdmission c uid s
    rw [State.chunkAdmission_waits hway hadm, hmem.settle] at hx
    exact ⟨_, hx, hwait, hmem.sameMem, hcores, hcount⟩
  · have hadmits := State.admitted_admitPart hadm
    have hcharged := State.admitted_charged (c := c.val) hadmits
    have hin := hcharged.sameInputs (c := c.val)
    have herrs := State.errs_charged (c := c.val) herr hadmits
    have hne : ¬ (x.opcode = 0x58 ∨ x.opcode = 0x5C) := hoc ▸ elementwise_not_scan hq
    obtain ⟨hbytes, hstart⟩ := State.chunkBytes_congr hin (State.errs_bankOf herr) (e := x) (x := x) rfl rfl rfl rfl eng.val
    obtain ⟨hends, hdata⟩ := State.runChunk_elem (c := c.val) (e := x) herrs (by rw [hin.tdesc]; exact hcvt) hne eng.val
    rw [← State.nextChunk_vec (s := s) hunit] at hends hdata
    refine ⟨_, exec_admitted hway hadm hends, fun y hy hu => (hends.ends y hy (hu.trans huid.symm)).1, ?_, ?_, ?_, fun k hk => ?_⟩
    · rw [← hbytes, ← hstart]
      exact hdata pl (by rw [hin.tdesc]; exact hpl) ((hcharged.boundSpans _ _).trans (huid ▸ hnb.1))
    · rw [hends.goes.weir]
      rfl
    · rw [hends.goes.weir]
      rfl
    · rw [hends.goes.others k hk, hcharged.core]

end Sys2Proof.Machine
end

section
/-! PROOF. The chunks of the special-function unit and of row statistics at their admission, and the start of a walk (R174-R177, R181, R222,
R242). -/

namespace Sys2Proof.Machine

namespace State

variable {s t u : State} {c p : Nat}

/-! ### The units' chunks turn on what an admission leaves -/

theorem sfChunkBytes_congr (h : SameInputs c s t) (hcore : t.core c = s.core c) (herr : ∀ pl, (s.bankOf pl).errs = []) (e : Entry) :
    sfChunkBytes t c e = sfChunkBytes s c e ∧ t.sfChunkAt c e = s.sfChunkAt c e := by
  have hat : t.sfChunkAt c e = s.sfChunkAt c e := by simp only [sfChunkAt, h.tdesc]
  have herr' : ∀ pl, (t.bankOf pl).errs = [] := by rw [h.banks]; exact herr
  refine ⟨?_, hat⟩
  rw [sfChunkBytes_eq herr', sfChunkBytes_eq herr]
  simp only [sfResults, sfInputs, hat, h.tdesc, h.banks, h.chunkDraw (rfl : e.step = e.step), hcore]

theorem rowRecord_congr (h : SameInputs c s t) (hm : MemKept s t) (e : Entry) (pl : Place) (a : Nat) :
    rowRecord t c e pl a = rowRecord s c e pl a := by
  have hcells : t.cells = s.cells := funext hm.cells
  simp only [rowRecord, h.tdesc, hcells]

end State

/-- TENSOR_CHUNK_ADMISSION of a special-function walk, and of an RSTAT. -/
theorem unitChunkIsWritten : Claims.UnitChunkIsWritten := by
  intro s u c p uid x pl hpart hentry hphase hfirst hmore hfree hadm herr hnb
  have hway : State.UnderWay s c p uid x := ⟨hpart, hentry, hphase, hfirst, hmore, hfree⟩
  have huid := State.uid_of_entry? hentry
  have hadmits := State.admitted_admitPart hadm
  have hcharged := State.admitted_charged (c := c.val) hadmits
  have hin := hcharged.sameInputs (c := c.val)
  have herrs := State.errs_charged (c := c.val) herr hadmits
  have hunbound : (u.charged c).boundSpans c x.uid = [] := (hcharged.boundSpans _ _).trans (huid ▸ hnb.1)
  constructor
  · intro hunit hpl hclean d k
    obtain ⟨hends, hdata⟩ := State.sfChunk_ends (c := c.val) herrs x
    obtain ⟨hbytes, hat⟩ := State.sfChunkBytes_congr hin (hcharged.core c) (State.errs_bankOf herr) x
    have hnext : s.nextChunk (u.charged c) c x = (u.charged c).sfChunk c x := by simp only [State.nextChunk, hunit]
    have hclean' : (u.charged c).SfClean c x := by
      rw [State.SfClean, hcharged.core]
      exact hclean
    have hstands := hdata pl (by rw [hin.tdesc]; exact hpl) hunbound hclean'
    rw [hbytes, hat, hin.tdesc] at hstands
    rw [← hnext] at hends hstands
    exact ⟨_, exec_admitted hway hadm hends, hstands⟩
  · intro hunit hrec hplace at'
    obtain ⟨src, hsrc⟩ := Option.isSome_iff_exists.mp hplace
    have hb := State.isBank_of_locPlace hrec
    have hsrc' : ((u.charged c).tdesc c (getF x.op 55 44)).place = some src := by rw [hin.tdesc]; exact hsrc
    have hnext : s.nextChunk (u.charged c) c x = (u.charged c).rstatRow c x src pl := by
      simp only [State.nextChunk, hunit]
      exact State.rstatNext_eq hsrc' (by rw [hin.locPlace]; exact hrec)
    obtain ⟨hends, hdata⟩ := State.rstatRow_ends (c := c.val) (e := x) herrs hsrc' hb
    obtain ⟨hself, hothers⟩ := hdata hunbound
    have hlen := State.length_rowRecord (s := s) (c := c.val) x pl at'
    rw [State.rowRecord_congr hin hcharged.mem, hcharged.mem.cells] at hself
    rw [← hnext] at hends hself hothers
    refine ⟨_, exec_admitted hway hadm hends, ?_, fun q a hq => ?_⟩
    · have hstands := readBytes_writeBytes_self (s.cells pl) at' (rowRecord s c x pl at')
      rw [hlen] at hstands
      rw [hself]
      exact hstands
    · by_cases hqp : q = pl
      · subst hqp
        rw [hself]
        exact readByte_writeBytes_of_not_mem _ fun h => hq ⟨rfl, h.1, hlen ▸ h.2⟩
      · rw [hothers q hqp, hcharged.mem.cells]

/-! ### The start of a walk (R174-R177, R181) -/

namespace State

variable {s t u : State} {c p : Nat}

theorem sameInputs_markFired (e : Entry) : SameInputs c s (s.markFired c e) := by
  obtain ⟨n, hn⟩ := core_markFired (s := s) (c := c) e
  have honly := coreOnly_markFired (s := s) (c := c) e
  exact ⟨by rw [hn], by rw [hn]; exact ⟨rfl, rfl⟩, fun q => by rw [honly.part], by rw [honly.frame], funext (bankOf_markFired e)⟩

theorem onlyRegs_vecStatus (eng : Nat) (e : Entry) : OnlyRegs s (s.vecStatus c eng e) := rfl

theorem sameInputs_vecFired (eng : Nat) (e : Entry) : SameInputs c s (s.vecFired c eng e) :=
  (sameInputs_markFired e).trans (sameInputs_onlyRegs (onlyRegs_vecStatus eng _))

theorem boundSpans_vecFired (eng : Nat) (e : Entry) (uid : Nat) : (s.vecFired c eng e).boundSpans c uid = s.boundSpans c uid :=
  ((stays_onlyRegs (c := c) (onlyRegs_vecStatus eng _)).boundSpans c uid).trans (boundSpans_markFired e uid)

/-- VEC_STATUS stands below the ownership registers of its cluster (R579). -/
theorem vecStatus_addr_mod {eng : Nat} (h : eng < 2) : RegId.vecStatus.row.addr (cix c ++ [eng]) % 0x1000000 < 0x800000 := by
  simp [RegRow.addr, RegId.row, cix, sumN]
  omega

theorem ownReg_addr_mod {pl : Place} {id : RegId} {ix : List Nat} (h : pl.ownReg = some (id, ix)) : 0x800000 ≤ id.row.addr ix % 0x1000000 := by
  cases pl with
  | tier => cases h
  | vat i | pool i =>
    cases h
    simp [RegRow.addr, RegId.row, sumN]
    omega

theorem coreOwns_vecFired {eng : Nat} (h : eng < 2) (e : Entry) (pl : Option Place) :
    (s.vecFired c eng e).coreOwns c pl = s.coreOwns c pl := by
  have hreg : ∀ q id ix, Place.ownReg q = some (id, ix) → (s.vecFired c eng e).reg id ix = (s.markFired c e).reg id ix := fun q id ix hq => by
    have hne : id.row.addr ix ≠ RegId.vecStatus.row.addr (cix c ++ [eng]) := fun he => by
      have h1 := ownReg_addr_mod hq
      have h2 := vecStatus_addr_mod (c := c) h
      rw [he] at h1
      omega
    exact ((reg_setReg_ne _ _ _ _ _ _ hne).trans (reg_setReg_ne _ _ _ _ _ _ hne)).trans (reg_setReg_ne _ _ _ _ _ _ hne)
  have hbegun := onlyBegun_markFired (s := s) (c := c) e
  have howner : ∀ q k pl' eng', (s.vecFired c eng e).ownerOk q k pl' eng' = (s.markFired c e).ownerOk q k pl' eng' := fun q k pl' eng' => by
    cases hpl : pl'.ownReg with
    | none => simp only [ownerOk, hpl]
    | some r => simp only [ownerOk, hpl, hreg pl' r.1 r.2 hpl]
  have hholds : (s.vecFired c eng e).core c = (s.markFired c e).core c := core_of_onlyRegs (onlyRegs_vecStatus eng _) c
  rw [← hbegun.coreOwns pl]
  simp only [coreOwns, hholds, howner]

theorem tensorFault_congr (h : ∀ pl, t.coreOwns c pl = s.coreOwns c pl) (ds : List TDesc) : t.tensorFault c ds = s.tensorFault c ds := by
  have hall : (ds.all fun d => t.ownsDesc c d) = ds.all fun d => s.ownsDesc c d := by simp only [ownsDesc, h]
  rw [tensorFault, hall]
  rfl

/-- An instruction of both profiles that fires in the Tensor profile. -/
theorem fireBoth_tensor {eng oc : Nat} {e : Entry} (hf : Fires s c (2 + eng) oc (s.vecAccepts c eng) e) (ht : e.vset.tensor = true)
    (body : State → Entry → State) : s.fireBoth c eng oc body = s.settle ((s.vecFired c eng e).tensorStart c eng (s.firedEntry c e)) := by
  obtain ⟨hready, hop⟩ := hf
  have htensor : (s.firedEntry c e).vset.tensor = true := ht
  rw [fireBoth, fireVecOp, fireOp_eq _ _ _ _ _ _ _ hready, if_pos hop]
  simp only [htensor, if_true]
  rfl

/-- The entry of a walk that starts. -/
def walkEntry (s : State) (c eng : Nat) (e : Entry) : Entry :=
  let d := s.tdesc c (getF e.op 51 40)
  { e with chunk := 0, chunks := chunkCount d.rows d.cols (s.chunkMax c eng e.op), carry := s.scalarsAt c eng e.op }

/-- The state in which a walk has started and its first chunk is still to be done. -/
def walkBegun (s : State) (c eng : Nat) (e : Entry) : State :=
  s.modEntry c e.uid fun x => { x with chunk := 0, chunks := (s.walkEntry c eng e).chunks, carry := (s.walkEntry c eng e).carry }

theorem sameInputs_walkBegun (eng : Nat) (e : Entry) : SameInputs c s (s.walkBegun c eng e) := sameInputs_modEntry e.uid _

theorem stays_walkBegun (eng : Nat) (e : Entry) : Stays c s (s.walkBegun c eng e) := stays_modEntry (by exact fun _ => ⟨rfl, rfl⟩) e.uid

theorem tensorStart_fault {eng : Nat} {e : Entry} {f : Nat × Nat} (h : s.tensorFault c (s.tensorDescs c (s.vecAt c eng) e.op) = some f) :
    s.tensorStart c eng e = s.fault c e f.1 (BitVec.ofNat 32 f.2) none := by simp only [tensorStart, h]

theorem tensorStart_begins {eng : Nat} {e : Entry} (h : s.tensorFault c (s.tensorDescs c (s.vecAt c eng) e.op) = none) :
    s.tensorStart c eng e = (s.walkBegun c eng e).runChunk c eng (s.walkEntry c eng e) := by
  simp only [tensorStart, h]
  rfl

end State

/-- The element-wise instructions fire alike (R191). -/
theorem exec_elementwise {c : CoreId} {eng : Fin 2} {q : Instr × Nat} (hq : q ∈ elementwise c eng) (s : State) :
    exec q.1 s = .next (s.fireBoth c eng q.2 fun t x => t.stripElem c eng x) := by
  simp only [elementwise, List.mem_cons, List.not_mem_nil, or_false] at hq
  rcases hq with rfl | rfl | rfl | rfl | rfl | rfl | rfl | rfl | rfl | rfl | rfl | rfl | rfl | rfl | rfl | rfl <;> rfl

/-- An element-wise instruction in the Tensor profile: its checks, then its first chunk. -/
theorem tensorWalkStarts : Claims.TensorWalkStarts := by
  intro s c eng p x q hq hc hf ht d x'
  have hfire := (exec_elementwise hq s).trans (congrArg _ (State.fireBoth_tensor hf ht _))
  have hin := State.sameInputs_vecFired (s := s) (c := c.val) eng.val x
  have haside := State.aside_vecFired (s := s) (c := c.val) eng.val x
  have hop : (s.firedEntry c x).op = x.op := rfl
  have hcheck : (s.vecFired c eng x).tensorFault c ((s.vecFired c eng x).tensorDescs c ((s.vecFired c eng x).vecAt c eng) (s.firedEntry c x).op) =
      s.tensorFault c (s.tensorDescs c (s.vecAt c eng) x.op) := by
    rw [hop, hin.vecAt, hin.tensorDescs, State.tensorFault_congr (State.coreOwns_vecFired eng.isLt x)]
  refine ⟨fun f hfault hr => ?_, fun pl hnone hpl herr hnb hcvt => ?_⟩
  · rw [State.tensorStart_fault (hcheck.trans hfault)] at hfire
    obtain ⟨hh, hm⟩ := State.settle_fault haside hc hr (s.firedEntry c x) f.1 (BitVec.ofNat 32 f.2) none
    exact ⟨_, hfire, hh.haltedWith rfl, hm⟩
  · rw [State.tensorStart_begins (hcheck.trans hnone)] at hfire
    have hwalk := hin.trans (State.sameInputs_walkBegun eng.val (s.firedEntry c x))
    have hstays : State.Stays c (s.vecFired c eng x) ((s.vecFired c eng x).walkBegun c eng (s.firedEntry c x)) := State.stays_walkBegun _ _
    have herrs : ∀ q, (((s.vecFired c eng x).walkBegun c eng (s.firedEntry c x)).bankOf q).errs = [] := by
      rw [hwalk.banks]
      exact State.errs_bankOf herr
    have hcarry : ((s.vecFired c eng x).walkEntry c eng (s.firedEntry c x)).carry = x'.carry := hin.scalarsAt eng x.op
    obtain ⟨hbytes, hstart⟩ := State.chunkBytes_congr hwalk (State.errs_bankOf herr)
      (e := (s.vecFired c eng x).walkEntry c eng (s.firedEntry c x)) (x := x') rfl rfl hcarry rfl eng.val
    have hne : ¬ (x.opcode = 0x58 ∨ x.opcode = 0x5C) := hf.2 ▸ elementwise_not_scan hq
    obtain ⟨hends, hdata⟩ := State.runChunk_elem (c := c.val) (e := (s.vecFired c eng x).walkEntry c eng (s.firedEntry c x)) herrs
      (by rw [hwalk.tdesc]; exact hcvt) hne eng.val
    have hbound : ((s.vecFired c eng x).walkBegun c eng (s.firedEntry c x)).boundSpans c x.uid = [] :=
      (hstays.boundSpans _ _).trans ((State.boundSpans_vecFired eng.val x x.uid).trans hnb.1)
    have hsettle := State.settle_eq (hends.goes.stalled.trans (hstays.mem.stalled.trans haside.mem.stalled))
      (hends.goes.failing.trans (hstays.mem.failing.trans haside.mem.failing))
    refine ⟨_, hfire.trans (congrArg _ hsettle), fun y hy hu => (hends.ends y hy hu).1, ?_⟩
    rw [← hbytes, ← hstart]
    exact hdata pl (by rw [hwalk.tdesc]; exact hpl) hbound

end Sys2Proof.Machine

open Sys2Proof Sys2Proof.Machine

/-- Settles O26: a chunk reads banks without an error, so that it comes to its write, and nothing behind the write moves what it wrote or
what the Weir was charged. -/
theorem tensorProfile : Obligations.TensorProfile :=
  ⟨tensorChunkAdvances, tensorChunkIsAdmittedAndWritten, unitChunkIsWritten, tensorWalkStarts⟩
end

section
/-! PROOF. Nothing holds the targets of a load in progress below 16. The removal of a target 24 writes the 25th word of KEEP_PART_BUILD,
and that word is KEEP_PART_STATE (R126, R587). -/

namespace Sys2Proof.Machine

/-- An image of partition 0 that claims no core and maps no page. -/
def bareImg : PartImg :=
  { energyShare := 1000, runSeed := 0, mask := [], stepStart := 0, deadline := 0, fastMin := 0, fastCap := 0, slowMin := 0, slowCap := 0,
    grant := 0, gaugeSlots := 0, gaugeRecord := 0, pages := [], owners := [], shapes := [], profiles := [], costs := [], gaugeMap := [],
    descs := [], progs := [], routes := [], schedule := [0], tables := [], rennets := [], store := [], links := [], trees := [], ingest := [],
    ferry := [], hash := [] }

def bareImage : Image := { scopePart := none, buildId := 1, hdr := ⟨[], 0, 0, 0, 0⟩, parts := [(0, bareImg)] }

/-- A validated load of that image, whose targets are partition 0 and a number beyond the partitions. -/
def strayLoad : Load :=
  { off := 0, len := 4096, halt := true, session := 1, seq := 1, image := some bareImage, targets := [0, 24], stopped := [], placed := false,
    old := [], oldHdr := none, oldPlace := [], oldBuild := [] }

/-- After reset, but with that load in progress and every power domain off, so that the keeper's free choice of which to switch off
(log 47) does not enter the evaluation. -/
def strayState : State := { State.reset with load := some strayLoad, off := List.range 154 }

theorem noErrors_strayState : NoErrors strayState := by
  unfold NoErrors TierClean PhysUp
  decide +kernel

/-- Its survivors suffice for the image, and none of its targets fires. -/
theorem strayState_mayCommit : strayState.loadShort bareImage = none ∧ ∀ p ∈ strayLoad.targets, strayState.stopped p = true := by decide +kernel

/-- The commit makes partition 0 committing, then removes target 24 with its build id, which leaves partition 0 undefined: the build id's
address, 0x140 + 8 · 24, is that of KEEP_PART_STATE. -/
theorem pstate_strayCommit : (strayState.settle strayState.imageCommit.allServed).pstate 0 = 0 := by decide +kernel

end Sys2Proof.Machine

open Sys2Proof Sys2Proof.Machine

/-- Refutes O50: a commit must leave every partition of its image committing. With targets 0 and 24, both stopped, and an image of
partition 0, the removal of target 24 clears KEEP_PART_STATE, and partition 0 is undefined after the commit. A validation gives a load no such
target, but the statement asks it of the image's partitions alone. -/
theorem not_imagesAreLoaded : ¬ Obligations.ImagesAreLoaded := by
  rintro ⟨-, hload, -⟩
  have hidle : ∀ x ∈ strayState.sessions, x.queued = [] := fun _ hx => absurd hx List.not_mem_nil
  obtain ⟨-, -, himage⟩ := hload strayState strayLoad hidle rfl
  obtain ⟨-, hcommit, -⟩ := himage bareImage rfl rfl (by decide) (by decide)
  obtain ⟨hfits, hstopped⟩ := strayState_mayCommit
  obtain ⟨t, k, ht, -, -, -, -, hparts⟩ := hcommit noErrors_strayState rfl rfl (by decide +kernel) hfits hstopped
  obtain rfl : strayState.settle strayState.imageCommit.allServed = t := Host.Outcome.next.inj ht
  obtain ⟨hcommitting, -⟩ := hparts (0, bareImg) (List.mem_singleton.mpr rfl)
  exact absurd (hcommitting.symm.trans pstate_strayCommit) (by decide)
end

section
/-! SUPPORT. What an instruction of the array reads through a bank's feeder port, and what firing leaves of its core (R68, R291, R293). -/

namespace Sys2Proof.Machine.State

variable {s t : State} {c : Nat} {pl : Place}

/-- Pieces of a bank in which no word is in error are read whole, and nothing changes. -/
theorem feedPieces_clean (herr : (s.bankOf pl).errs = []) {l : List Piece} (hl : ∀ p ∈ l, p.place = pl) :
    s.feedPieces l = ⟨s, (l.flatMap fun p => readBytes (s.bankOf pl).data p.addr p.len).map some, none⟩ := by
  induction l with
  | nil => rfl
  | cons p t ih =>
    obtain ⟨hp, ht⟩ := List.forall_mem_cons.mp hl
    rw [feedPieces, hp, cellRead_clean _ _ _ _ _ herr, ih ht, List.flatMap_cons, List.map_append]
    rfl

/-- The rows of a tile or the weight vectors of a pass: runs a stride apart. -/
theorem feedPieces_rows (herr : (s.bankOf pl).errs = []) (n a stride len : Nat) (va : Nat → Nat) :
    s.feedPieces ((List.range n).map fun i => ⟨pl, a + i * stride, len, va i⟩) =
      ⟨s, ((List.range n).flatMap fun i => readBytes (s.bankOf pl).data (a + i * stride) len).map some, none⟩ := by
  rw [feedPieces_clean herr (by simp), List.flatMap_map]

/-- MXFP4's scale plane, where there is one. -/
theorem feedPieces_plane (herr : (s.bankOf pl).errs = []) (q : Prop) [Decidable q] (a len va : Nat) :
    s.feedPieces (if q then [⟨pl, a, len, va⟩] else []) = ⟨s, (if q then readBytes (s.bankOf pl).data a len else []).map some, none⟩ := by
  split
  · rw [feedPieces_clean herr (by simp), List.flatMap_singleton]
  · rfl

/-- But for the source of fresh values only core c and the registers differ. -/
theorem CoreOnly.onlyCore (h : CoreOnly c s t) : OnlyCore c s { t with fresh := s.fresh } :=
  ⟨by rw [h.frame], h.others⟩

theorem fresh_pmc (k ev n : Nat) : (s.pmc k ev n).fresh = s.fresh := by
  have h := pmc_frame s k ev n
  rw [OnlyRegs] at h
  rw [h]

theorem fresh_markFired (e : Entry) : (s.markFired c e).fresh = s.fresh := by
  rw [markFired, fresh_pmc]
  rfl

/-- A core's tiles, accumulators, passes and place stay as it fires. -/
theorem array_markFired (e : Entry) : ((s.markFired c e).core c).tile0 = (s.core c).tile0 ∧ ((s.markFired c e).core c).tile1 = (s.core c).tile1 ∧
    ((s.markFired c e).core c).acc = (s.core c).acc ∧ ((s.markFired c e).core c).passes = (s.core c).passes ∧
    ((s.markFired c e).core c).logical = (s.core c).logical := by
  obtain ⟨n, hn⟩ := core_markFired (s := s) (c := c) e
  rw [hn]
  exact ⟨rfl, rfl, rfl, rfl, rfl⟩

theorem tileOf_markFired (e : Entry) (buf : Nat) : tileOf ((s.markFired c e).core c) buf = tileOf (s.core c) buf := by
  obtain ⟨h0, h1, -⟩ := array_markFired (s := s) (c := c) e
  rw [tileOf, h0, h1, tileOf]

theorem defaultShape_markFired (e : Entry) : (s.markFired c e).defaultShape c = s.defaultShape c := by
  obtain ⟨-, -, -, -, hlogical⟩ := array_markFired (s := s) (c := c) e
  rw [defaultShape, defaultShape, (onlyBegun_markFired e).imgOf, hlogical]

theorem arrayPlace_markFired (e : Entry) (d : BitVec 256) : (s.markFired c e).arrayPlace c d = s.arrayPlace c d :=
  (onlyBegun_markFired e).locPlace _ _

theorem coreOwns_markFired (e : Entry) (p : Option Place) : (s.markFired c e).coreOwns c p = s.coreOwns c p := (onlyBegun_markFired e).coreOwns p

theorem desc_markFired (e : Entry) (i : Nat) : (s.markFired c e).desc c i = s.desc c i := (onlyBegun_markFired e).desc i

theorem cells_markFired (e : Entry) (p : Place) : (s.markFired c e).cells p = s.cells p := (onlyBegun_markFired e).aside.mem.cells p

theorem coreOnly_setPhase (uid : Nat) (ph : Phase) : CoreOnly c s (s.setPhase c uid ph) := by
  rw [setPhase, modEntry]
  exact coreOnly_modCore _

theorem core_setPhase (uid : Nat) (ph : Phase) : ∃ w, (s.setPhase c uid ph).core c = { s.core c with window := w } :=
  ⟨_, core_modCore_self ..⟩

/-- The entry that a command names stands in the phase that the command gives it. -/
theorem phase_of_mem_setPhase {uid : Nat} {ph : Phase} {y : Entry} (hy : y ∈ ((s.setPhase c uid ph).core c).window) (hu : y.uid = uid) :
    y.phase = ph := by
  obtain ⟨x, rfl⟩ := mem_modEntry hy hu
  rfl

end Sys2Proof.Machine.State
end

section
/-! PROOF. MLOAD, the release of a tile buffer, and the array at rest (R130, R135, R140, R150). -/

namespace Sys2Proof.Machine

namespace State

variable {s : State} {c : Nat} {pl : Place}

/-- The tile that an MLOAD reads from a place: its rows and, for MXFP4, its scale plane (R130, R135). -/
def tileRead (s : State) (c : Nat) (e : Entry) (pl : Place) : Tile :=
  let d := s.desc c (getF e.op 55 40)
  let shape := if dF d 2 1 = 3 then s.defaultShape c else dF d 2 1
  let dep := shapeD shape (dF d 1 1)
  let rows := dF d 0x0F 1 + 1
  ⟨shape, dF d 1 1, rows, cellsOf 0 (rowsOf s pl (dF d 8 4) (dF d 0x10 4) (rowBytes (dF d 1 1) dep) rows),
    cellsOf 0 (if dF d 1 1 = 5 then readBytes (s.cells pl) (dF d 5 3) (rows * (dep / 32)) else [])⟩

theorem tileRead_markFired (x : Entry) : (s.markFired c x).tileRead c (s.firedEntry c x) pl = s.tileRead c x pl := by
  simp only [tileRead, rowsOf, desc_markFired, defaultShape_markFired, cells_markFired, firedEntry]

/-- A tile in a bank without a word in error fills its buffer, and the instruction is done. -/
theorem loadTile_clean {e : Entry} (hpl : s.arrayPlace c (s.desc c (getF e.op 55 40)) = some pl) (herr : (s.bankOf pl).errs = []) :
    s.loadTile c e = (s.modCore c fun k => setTile k (getF e.op 39 39) (s.tileRead c e pl)).setPhase c e.uid .done := by
  have hcells := cells_of_isBank (isBank_of_locPlace hpl) s
  rw [loadTile, hpl]
  simp only [feedPieces_rows herr, feedPieces_plane herr, getD_map_some, tileRead, rowsOf, hcells]
  rfl

theorem tileOf_setTile (k : Core) {buf : Nat} (t : Tile) : tileOf (setTile k buf t) buf = t := by
  rw [tileOf, setTile]
  split <;> rfl

/-- What an MLOAD that fires comes to: its tile is loaded, or it is held while a pass reads the buffer (R140). -/
theorem fireMload_eq {x : Entry} (hpl : s.arrayPlace c (s.desc c (getF x.op 55 40)) = some pl) (hown : s.coreOwns c (some pl) = true)
    (herr : (s.bankOf pl).errs = []) : (s.markFired c x).fireMload c (s.firedEntry c x) =
      if (s.core c).passes.any (fun p => p.buf == getF x.op 39 39 && p.reading) then (s.markFired c x).setPhase c x.uid .fired
      else ((s.markFired c x).modCore c fun k => setTile k (getF x.op 39 39) (s.tileRead c x pl)).setPhase c x.uid .done := by
  have hplace : (s.markFired c x).arrayPlace c ((s.markFired c x).desc c (getF (s.firedEntry c x).op 55 40)) = some pl := by
    rw [arrayPlace_markFired, desc_markFired]
    exact hpl
  have howns : (s.markFired c x).coreOwns c (some pl) = true := (coreOwns_markFired x _).trans hown
  obtain ⟨-, -, -, hpasses, -⟩ := array_markFired (s := s) (c := c) x
  rw [fireMload, hplace, if_pos howns, hpasses, loadTile_clean hplace (by rw [bankOf_markFired]; exact herr), tileRead_markFired]
  rfl

end State

theorem exec_mload (c : CoreId) (s : State) : exec (.mload c) s =
    .next (s.settle (s.fireOp c 1 0x10 (s.arrayAccepts c) fun t e => t.fireMload c e)) := rfl

/-- What an instruction of the array does behind its firing, where only its core moves, is its whole effect. -/
theorem effect_of_coreOnly {s t : State} {c : Nat} (h : State.CoreOnly c s t) (hfresh : t.fresh = s.fresh) :
    s.settle t = t ∧ OnlyCore c s t ∧ t.parts = s.parts := by
  refine ⟨State.settle_eq ?_ ?_, ?_, ?_⟩
  · rw [h.frame]
  · rw [h.frame]
  · have honly := h.onlyCore
    rw [← hfresh] at honly
    exact honly
  · rw [h.frame]

theorem mloadFillsTheBuffer : Claims.MloadFillsTheBuffer := by
  intro s c x pl hf d buf shape dep rows hpl hown herr
  have hx := exec_mload c s
  rw [fireOp_fires hf, State.fireMload_eq hpl hown herr] at hx
  have hfired : State.CoreOnly c.val s (s.markFired c x) := (State.onlyBegun_markFired x).only
  have hfresh := State.fresh_markFired (s := s) (c := c) x
  obtain ⟨h0, h1, -⟩ := State.array_markFired (s := s) (c := c) x
  generalize s.markFired c x = u at hx hfired hfresh h0 h1
  by_cases hreading : (s.core c).passes.any (fun p => p.buf == buf && p.reading) = true
  · obtain ⟨hsettle, honly, hparts⟩ := effect_of_coreOnly (hfired.trans (State.coreOnly_setPhase x.uid .fired)) hfresh
    rw [if_pos hreading, hsettle] at hx
    obtain ⟨w, hcore⟩ := State.core_setPhase (s := u) (c := c) x.uid .fired
    refine ⟨_, hx, honly, hparts, fun hfree => ?_, fun _ => ⟨?_, ?_, fun e he hu => State.phase_of_mem_setPhase he hu⟩⟩
    · obtain ⟨p, hp, hpb⟩ := List.any_eq_true.mp hreading
      exact absurd (by simpa using hpb) (hfree p hp)
    · rw [hcore, h0]
    · rw [hcore, h1]
  · obtain ⟨hsettle, honly, hparts⟩ := effect_of_coreOnly
      ((hfired.trans (State.coreOnly_modCore fun k => State.setTile k buf (s.tileRead c x pl))).trans (State.coreOnly_setPhase x.uid .done)) hfresh
    rw [if_neg hreading, hsettle] at hx
    obtain ⟨w, hcore⟩ := State.core_setPhase (s := u.modCore c fun k => State.setTile k buf (s.tileRead c x pl)) (c := c) x.uid .done
    refine ⟨_, hx, honly, hparts, fun _ => ⟨?_, fun e he hu => State.phase_of_mem_setPhase he hu⟩, fun ⟨p, hp, hpb⟩ => ?_⟩
    · rw [hcore, State.core_modCore_self]
      exact State.tileOf_setTile (u.core c) (s.tileRead c x pl)
    · exact absurd (List.any_eq_true.mpr ⟨p, hp, by simpa using hpb⟩) hreading

/-! ### The release of a buffer, and the array at rest (R140, R150) -/

theorem exec_tileBufferRelease (c : CoreId) (buf : Fin 2) (s : State) :
    exec (.tileBufferRelease c buf) s = .next (s.settle (s.tileRelease c buf)) := rfl

/-- Where no MLOAD of the buffer is held, its release moves the passes alone. -/
theorem tileRelease_of_none_held {s : State} {c buf : Nat}
    (h : ∀ e ∈ (s.core c).window, ¬ (e.unit = 1 ∧ e.opcode = 0x10 ∧ e.phase = .fired ∧ getF e.op 39 39 = buf)) :
    s.tileRelease c buf = s.modCore c fun k => { k with passes := k.passes.map fun p => if p.buf = buf then { p with reading := false } else p } := by
  have hnone : (s.core c).window.filter (fun e => e.unit == 1 && e.opcode == 0x10 && decide (e.phase = .fired) && getF e.op 39 39 == buf) = [] :=
    List.filter_eq_nil_iff.mpr fun e he hheld => h e he (by simpa [and_assoc] using hheld)
  rw [State.tileRelease, State.core_modCore_self, hnone]
  rfl

theorem exec_arrayAtRest (c : CoreId) (s : State) : exec (.arrayAtRest c) s = .next (s.arrayAtRest c) := rfl

theorem arrayReleases : Claims.ArrayReleases := by
  refine ⟨fun s c buf => ⟨_, exec_tileBufferRelease c buf s, fun hnone => ?_⟩, fun s c hempty => ?_⟩
  · rw [tileRelease_of_none_held hnone, (State.memKept_modCore _ _).settle, State.core_modCore_self]
    exact ⟨rfl, rfl, rfl, rfl⟩
  · have hrest : s.arrayAtRest c = s.setRegF .meaStatus (cix c) 39 32 0 := if_pos (List.isEmpty_iff.mpr hempty)
    refine ⟨_, exec_arrayAtRest c s, ?_⟩
    rw [hrest]
    exact ⟨State.onlyRegs_setReg s _ _ _, State.regF_setRegF_self s _ _ _ _ _ (by omega) (by omega), State.sameRegsBut_setReg s _ _ _⟩

end Sys2Proof.Machine

open Sys2Proof Sys2Proof.Machine

/-- Settles O16: a bank without a word in error is read as it stands, and a release without a held MLOAD moves the passes alone. -/
theorem tileBuffers : Obligations.TileBuffers := ⟨mloadFillsTheBuffer, arrayReleases⟩
end

section
/-! SUPPORT. Lists of runs of one length, and a map into which a run of values is written. -/

namespace Sys2Proof.Machine

variable {α β : Type}

theorem length_flatMap_range {w n : Nat} {f : Nat → List α} (hf : ∀ j, j < n → (f j).length = w) :
    ((List.range n).flatMap f).length = n * w := by
  rw [List.length_flatMap, List.map_congr_left fun j hj => hf j (List.mem_range.mp hj)]
  simp

/-- Runs of one length, one behind another: what stands at a place of the j-th run. -/
theorem getElem?_flatMap_range {w n : Nat} {f : Nat → List α} (hf : ∀ j, j < n → (f j).length = w) {i j : Nat} (hj : j < n) (hi : i < w) :
    ((List.range n).flatMap f)[j * w + i]? = (f j)[i]? := by
  induction n with
  | zero => omega
  | succ n ih =>
    have hlen := length_flatMap_range fun k hk => hf k (Nat.lt_succ_of_lt hk)
    rw [List.range_succ, List.flatMap_append, List.flatMap_singleton]
    rcases Nat.lt_succ_iff_lt_or_eq.mp hj with hlt | rfl
    · have hmul : (j + 1) * w ≤ n * w := Nat.mul_le_mul_right w hlt
      rw [Nat.add_mul, Nat.one_mul] at hmul
      rw [List.getElem?_append_left (by omega)]
      exact ih (fun k hk => hf k (Nat.lt_succ_of_lt hk)) hlt
    · rw [List.getElem?_append_right (by omega), hlen, Nat.add_sub_cancel_left]

/-- Cut into pieces of that length they are the runs again. -/
theorem chunksOf_flatMap_range {w n : Nat} (hw : 0 < w) {f : Nat → List α} (hf : ∀ j, j < n → (f j).length = w) :
    chunksOf w ((List.range n).flatMap f) = (List.range n).map f := by
  have hcount : (n * w + w - 1) / w = n := by
    rw [Nat.add_sub_assoc hw, Nat.mul_comm, Nat.mul_add_div hw, Nat.div_eq_of_lt (by omega), Nat.add_zero]
  rw [chunksOf, length_flatMap_range hf, hcount]
  refine List.map_congr_left fun j hj => ?_
  replace hj := List.mem_range.mp hj
  refine List.ext_getElem? fun i => ?_
  by_cases hi : i < w
  · rw [List.getElem?_take_of_lt hi, List.getElem?_drop, getElem?_flatMap_range hf hj hi]
  · rw [List.getElem?_eq_none (by rw [List.length_take]; omega), List.getElem?_eq_none (by rw [hf j hj]; omega)]

/-- Values written one behind another from a key on: each key among theirs reads its value, every other one as before. -/
theorem get_foldl_set_range (v : β → α) (b : Nat) (m : FMap α) (d : α) (outs : List β) (q : Nat) :
    (((List.range outs.length).zip outs).foldl (fun a io => a.set (b + io.1) (v io.2)) m).get d q =
      ((if b ≤ q then outs[q - b]? else none).map v).getD (m.get d q) := by
  induction outs using List.reverseRecOn with
  | nil => simp
  | append_singleton l x ih =>
    rw [List.length_append, List.length_singleton, List.range_succ, List.zip_append (List.length_range), List.foldl_append]
    simp only [List.zip_cons_cons, List.zip_nil_right, List.foldl_cons, List.foldl_nil, FMap.get_set, ih]
    by_cases hq : q = b + l.length
    · subst hq
      simp
    · rw [if_neg hq]
      congr 2
      split
      next hb =>
        by_cases hlt : q - b < l.length
        · rw [List.getElem?_append_left hlt]
        · rw [List.getElem?_eq_none (by omega), List.getElem?_eq_none (by rw [List.length_append, List.length_singleton]; omega)]
      next => rfl

end Sys2Proof.Machine
end

section
/-! PROOF. MPASS (R130-R132, R139, R141-R149). -/

namespace Sys2Proof.Machine

namespace State

variable {s t u : State} {c : Nat} {pl : Place}

/-! ### The columns of a pass -/

/-- The contraction depth of a pass (R129, R139). -/
def passDepth (s : State) (c : Nat) (e : Entry) : Nat := shapeD (s.passShape c e) (dF (s.desc c (getF e.op 55 40)) 1 1)

/-- The bytes of a weight vector. -/
def weightBytes (s : State) (c : Nat) (e : Entry) : Nat := rowBytes (dF (s.desc c (getF e.op 55 40)) 1 1) (s.passDepth c e)

/-- The number of weight vectors. -/
def weightCount (s : State) (c : Nat) (e : Entry) : Nat := dF (s.desc c (getF e.op 55 40)) 0x0C 3

/-- The tile of a pass; where its buffer is empty no row of it counts (R139). -/
def passTileIn (s : State) (c : Nat) (e : Entry) : Tile :=
  let t := tileOf (s.core c) (getF e.op 39 39)
  if t.shape = 3 then { t with rows := 0 } else t

/-- The column that weight vector j makes, from its bytes and the scales of all. -/
def columnFrom (s : State) (c : Nat) (e : Entry) (ss : List Byte) (j : Nat) (w : List Byte) : List (Nat × Bool) :=
  passColumn (s.passTileIn c e) (dF (s.desc c (getF e.op 55 40)) 1 1) (s.passShape c e) (s.passDepth c e)
    ((List.range (s.passTileIn c e).rows).map fun i => tileRow (s.passTileIn c e) (s.passDepth c e) i) w
    ((ss.drop (j * (s.passDepth c e / 32))).take (s.passDepth c e / 32))
    fun i => if getF e.op 38 38 = 1 then [decodeVal 0 ((s.core c).acc.get 0 (getF e.op 31 16 + j * shapeR (s.passShape c e) + i)).toNat] else []

/-- Weight vector j as it stands in memory. -/
def weightAt (s : State) (c : Nat) (e : Entry) (pl : Place) (j : Nat) : List Byte :=
  let d := s.desc c (getF e.op 55 40)
  readBytes (s.cells pl) (dF d 8 4 + j * dF d 0x10 4) (s.weightBytes c e)

/-- MXFP4's scales of all the weight vectors, as they stand in memory. -/
def weightScales (s : State) (c : Nat) (e : Entry) (pl : Place) : List Byte :=
  let d := s.desc c (getF e.op 55 40)
  if dF d 1 1 = 5 then readBytes (s.cells pl) (dF d 5 3) (s.weightCount c e * (s.passDepth c e / 32)) else []

/-- The column that the weight vector j of memory makes. -/
def columnOf (s : State) (c : Nat) (e : Entry) (pl : Place) (j : Nat) : List (Nat × Bool) :=
  s.columnFrom c e (s.weightScales c e pl) j (s.weightAt c e pl j)

/-- What a pass puts out, column behind column. -/
def passOuts (s : State) (c : Nat) (e : Entry) (pl : Place) : List (Nat × Bool) :=
  (List.range (s.weightCount c e)).flatMap (s.columnOf c e pl)

theorem length_columnOf (e : Entry) (j : Nat) : (s.columnOf c e pl j).length = shapeR (s.passShape c e) := by
  rw [columnOf, columnFrom, passColumn, List.length_map, List.length_range]

theorem length_passOuts (e : Entry) : (s.passOuts c e pl).length = shapeR (s.passShape c e) * s.weightCount c e := by
  rw [passOuts, length_flatMap_range fun j _ => length_columnOf e j, Nat.mul_comm]

/-! ### The pass -/

/-- The core of a pass, which has taken its results. -/
def passTaken (s : State) (c : Nat) (e : Entry) (outs : List (Nat × Bool)) (k : Core) : Core :=
  { k with
    acc := ((List.range (shapeR (s.passShape c e) * s.weightCount c e)).zip outs).foldl
      (fun a io => a.set (getF e.op 31 16 + io.1) (BitVec.ofNat 32 io.2.1)) (s.core c).acc,
    passes := k.passes ++ [⟨e.uid, getF e.op 39 39, s.passShape c e, true⟩], lastPart := k.part.getD 0 }

/-- What a pass's results flag and count (R49, R149, R540). -/
def passNoted (s : State) (c p n : Nat) (step : Word) (outs : List (Nat × Bool)) : State :=
  let vals := outs.map fun o => decodeVal 0 o.1
  let t := if outs.any (·.2) then s.flag .meaFlags (cix c) 2 else s
  let t := if vals.any FVal.isNonfin then t.flag .meaFlags (cix c) 1 else t
  let t := t.pmc c 0x04 n
  if vals.any FVal.isPoison then (t.flag .meaFlags (cix c) 0).poisonIn c p step else t

/-- A pass that meets no error, in the state that its reads have left. -/
def passEnd (s t : State) (c : Nat) (e : Entry) (outs : List (Nat × Bool)) : State :=
  ((t.rampMove c).modCore c (s.passTaken c e outs)).passNoted c ((s.core c).part.getD 0) (s.weightCount c e) e.step outs

/-- A pass reads its weights and scales; read without an error they make its columns. -/
theorem runPass_eq (e : Entry) (pl : Place) : ∃ faulted,
    let d := s.desc c (getF e.op 55 40)
    let q := s.feedPieces ((List.range (s.weightCount c e)).map fun j => ⟨pl, dF d 8 4 + j * dF d 0x10 4, s.weightBytes c e, 0⟩)
    let u := q.st.feedPieces (if dF d 1 1 = 5 then [⟨pl, dF d 5 3, s.weightCount c e * (s.passDepth c e / 32), 0⟩] else [])
    let outs := ((List.range (s.weightCount c e)).zip (chunksOf (s.weightBytes c e) (q.bytes.map fun x => x.getD 0))).flatMap fun jw =>
      s.columnFrom c e (u.bytes.map fun x => x.getD 0) jw.1 jw.2
    s.runPass c e pl = match q.bad <|> u.bad with
      | some _ => faulted
      | none => s.passEnd u.st c e outs :=
  ⟨_, rfl⟩

/-- A pass whose weights lie in a bank without a word in error. -/
theorem runPass_clean {e : Entry} (hpl : IsBank pl) (herr : (s.bankOf pl).errs = []) (hrow : 0 < s.weightBytes c e) :
    s.runPass c e pl = s.passEnd s c e (s.passOuts c e pl) := by
  obtain ⟨faulted, hrun⟩ := runPass_eq (s := s) (c := c) e pl
  have hzip : ∀ n (f : Nat → List Byte), (List.range n).zip ((List.range n).map f) = (List.range n).map fun o => (o, f o) :=
    fun n f => by rw [List.zip_eq_zipWith, List.zipWith_map_right, List.zipWith_self]
  simp only [feedPieces_rows herr, feedPieces_plane herr, getD_map_some, ← cells_of_isBank hpl] at hrun
  rw [chunksOf_flatMap_range hrow fun j _ => by simp [readBytes], hzip, List.flatMap_map] at hrun
  exact hrun

/-! ### What the pass turns on, in the state in which it has fired -/

theorem passShape_markFired (x : Entry) : (s.markFired c x).passShape c (s.firedEntry c x) = s.passShape c x := by
  obtain ⟨-, -, -, -, hlogical⟩ := array_markFired (s := s) (c := c) x
  simp only [passShape, assignedShape, tileOf_markFired, (onlyBegun_markFired x).imgOf, hlogical]
  rfl

theorem passDepth_markFired (x : Entry) : (s.markFired c x).passDepth c (s.firedEntry c x) = s.passDepth c x := by
  rw [passDepth, passDepth, passShape_markFired, desc_markFired]
  rfl

theorem weightBytes_markFired (x : Entry) : (s.markFired c x).weightBytes c (s.firedEntry c x) = s.weightBytes c x := by
  rw [weightBytes, weightBytes, passDepth_markFired, desc_markFired]
  rfl

theorem weightCount_markFired (x : Entry) : (s.markFired c x).weightCount c (s.firedEntry c x) = s.weightCount c x := by
  rw [weightCount, weightCount, desc_markFired]
  rfl

theorem columnOf_markFired (x : Entry) : (s.markFired c x).columnOf c (s.firedEntry c x) pl = s.columnOf c x pl := by
  obtain ⟨-, -, hacc, -⟩ := array_markFired (s := s) (c := c) x
  funext j
  simp only [columnOf, columnFrom, weightAt, weightScales, passTileIn, weightCount_markFired, weightBytes_markFired, passDepth_markFired,
    passShape_markFired, desc_markFired, tileOf_markFired, cells_markFired, hacc]
  rfl

theorem passOuts_markFired (x : Entry) : (s.markFired c x).passOuts c (s.firedEntry c x) pl = s.passOuts c x pl := by
  rw [passOuts, passOuts, weightCount_markFired, columnOf_markFired]

/-! ### What it leaves -/

/-- Only the registers and the partitions' records differ. -/
def RegsAndParts (s t : State) : Prop := t = { s with mrs := t.mrs, parts := t.parts }

theorem regsAndParts_trans (h : RegsAndParts s t) (k : RegsAndParts t u) : RegsAndParts s u := by
  rw [RegsAndParts] at *
  rw [k, h]

theorem regsAndParts_of_onlyRegs (h : OnlyRegs s t) : RegsAndParts s t := by
  rw [OnlyRegs] at h
  rw [h]
  rfl

theorem regsAndParts_flag (id : RegId) (ix : List Nat) (b : Nat) : RegsAndParts s (s.flag id ix b) := rfl

theorem regsAndParts_flagIf (q : Prop) [Decidable q] (id : RegId) (ix : List Nat) (b : Nat) : RegsAndParts s (if q then s.flag id ix b else s) := by
  split <;> rfl

theorem regsAndParts_pmc (k ev n : Nat) : RegsAndParts s (s.pmc k ev n) := regsAndParts_of_onlyRegs (pmc_frame s k ev n)

theorem regsAndParts_poisonIn (p : Nat) (step : Word) : RegsAndParts s (s.poisonIn c p step) := by
  have hstep : RegsAndParts s (s.poisonStep p step) := rfl
  rw [poisonIn]
  exact regsAndParts_trans hstep (regsAndParts_pmc c 0x0B 1)

theorem regsAndParts_passNoted (p n : Nat) (step : Word) (outs : List (Nat × Bool)) : RegsAndParts s (s.passNoted c p n step outs) := by
  have hflags := regsAndParts_trans (regsAndParts_flagIf (s := s) (outs.any (·.2) = true) .meaFlags (cix c) 2)
    (regsAndParts_flagIf ((outs.map fun o => decodeVal 0 o.1).any FVal.isNonfin = true) .meaFlags (cix c) 1)
  have hcounted := regsAndParts_trans hflags (regsAndParts_pmc c 0x04 n)
  rw [passNoted]
  split
  · exact regsAndParts_trans (regsAndParts_trans hcounted (regsAndParts_flag _ _ _)) (regsAndParts_poisonIn p step)
  · exact hcounted

theorem coreOnly_rampMove : CoreOnly c s (s.rampMove c) := by
  rw [rampMove]
  split <;> split
  · exact coreOnly_refl s
  · exact (coreOnly_setRegF _ _ _ _ _).trans coreOnly_usedFresh
  · exact coreOnly_refl s
  · exact (coreOnly_setRegF _ _ _ _ _).trans coreOnly_usedFresh

/-- Where beside a core registers, records and the source of fresh values alone have moved, the command comes to its whole effect. -/
theorem regsAndParts_effect (h : CoreOnly c s t) (k : RegsAndParts t u) : s.settle u = u ∧ OnlyCore c s { u with fresh := s.fresh } ∧
    u.core c = t.core c := by
  rw [RegsAndParts] at k
  refine ⟨settle_eq ?_ ?_, ⟨?_, fun j hj => Eq.trans ?_ (h.others j hj)⟩, ?_⟩
  · rw [k, h.frame]
  · rw [k, h.frame]
  · rw [k, h.frame]
  · rw [k]
    rfl
  · rw [k]
    rfl

/-- A pass moves its core, which has taken its results, and beside it registers, records and the source of fresh values alone. -/
theorem passEnd_effect (e : Entry) (outs : List (Nat × Bool)) : ∃ v, CoreOnly c s v ∧ RegsAndParts v (s.passEnd s c e outs) ∧
    v.core c = s.passTaken c e outs (s.core c) := by
  refine ⟨(s.rampMove c).modCore c (s.passTaken c e outs), coreOnly_rampMove.trans (coreOnly_modCore _), regsAndParts_passNoted _ _ _ _, ?_⟩
  rw [core_modCore_self, core_rampMove]

theorem tiles_passTaken (e : Entry) (outs : List (Nat × Bool)) (k : Core) : (s.passTaken c e outs k).tile0 = k.tile0 ∧
    (s.passTaken c e outs k).tile1 = k.tile1 ∧
    (s.passTaken c e outs k).passes = k.passes ++ [⟨e.uid, getF e.op 39 39, s.passShape c e, true⟩] := ⟨rfl, rfl, rfl⟩

/-- Each place of the accumulators that the pass names takes its output, and every other one stays. -/
theorem acc_passTaken (e : Entry) (k : Core) :
    (∀ j i, j < s.weightCount c e → i < shapeR (s.passShape c e) →
      (s.passTaken c e (s.passOuts c e pl) k).acc.get 0 (getF e.op 31 16 + j * shapeR (s.passShape c e) + i) =
        BitVec.ofNat 32 ((s.columnOf c e pl j).getD i (0, false)).1) ∧
    (∀ q, q < getF e.op 31 16 ∨ getF e.op 31 16 + shapeR (s.passShape c e) * s.weightCount c e ≤ q →
      (s.passTaken c e (s.passOuts c e pl) k).acc.get 0 q = (s.core c).acc.get 0 q) := by
  have hget := fun q => get_foldl_set_range (fun o : Nat × Bool => BitVec.ofNat 32 o.1) (getF e.op 31 16) (s.core c).acc 0 (s.passOuts c e pl) q
  have hlen := fun j (_ : j < s.weightCount c e) => length_columnOf (s := s) (c := c) (pl := pl) e j
  rw [length_passOuts] at hget
  refine ⟨fun j i hj hi => (hget _).trans ?_, fun q hq => (hget q).trans ?_⟩
  · have hi' : i < (s.columnOf c e pl j).length := by rw [hlen j hj]; exact hi
    rw [if_pos (by omega), Nat.add_assoc, Nat.add_sub_cancel_left, passOuts, getElem?_flatMap_range hlen hj hi, List.getD_eq_getElem?_getD,
      List.getElem?_eq_getElem hi']
    rfl
  · have hnone : (if getF e.op 31 16 ≤ q then (s.passOuts c e pl)[q - getF e.op 31 16]? else none) = none := by
      split
      · exact List.getElem?_eq_none (by rw [length_passOuts]; omega)
      · rfl
    rw [hnone]
    rfl

/-- What an MPASS that fires comes to, its weights in a bank without a word in error. -/
theorem fireMpass_eq {x : Entry} (hpl : s.arrayPlace c (s.desc c (getF x.op 55 40)) = some pl) (hown : s.coreOwns c (some pl) = true)
    (herr : (s.bankOf pl).errs = []) (hrow : 0 < s.weightBytes c x) : (s.markFired c x).fireMpass c (s.firedEntry c x) =
      (s.markFired c x).passEnd (s.markFired c x) c (s.firedEntry c x) (s.passOuts c x pl) := by
  have hplace : (s.markFired c x).arrayPlace c ((s.markFired c x).desc c (getF (s.firedEntry c x).op 55 40)) = some pl := by
    rw [arrayPlace_markFired, desc_markFired]
    exact hpl
  have howns : (s.markFired c x).coreOwns c (some pl) = true := (coreOwns_markFired x _).trans hown
  rw [← passOuts_markFired x, ← runPass_clean (isBank_of_locPlace hpl) (by rw [bankOf_markFired]; exact herr)
    (by rw [weightBytes_markFired]; exact hrow), fireMpass, hplace, howns]

end State

theorem exec_mpass (c : CoreId) (s : State) : exec (.mpass c) s =
    .next (s.settle (s.fireOp c 1 0x11 (s.arrayAccepts c) fun t e => t.fireMpass c e)) := rfl

end Sys2Proof.Machine

open Sys2Proof Sys2Proof.Machine

/-- Settles O14: the pass reads its weights from a bank without a word in error, and its outputs go to its columns' places alone. -/
theorem mpassAccumulates : Obligations.MpassAccumulates := by
  intro s c x pl hf d k buf shape wfmt dep r n b tile rows sc column hpl hown herr hrow
  have hx := exec_mpass c s
  rw [fireOp_fires hf, State.fireMpass_eq hpl hown herr hrow] at hx
  have hfired := State.coreOnly_markFired (s := s) (c := c) x
  obtain ⟨h0, h1, hacc, hpasses, -⟩ := State.array_markFired (s := s) (c := c) x
  have hcount := State.weightCount_markFired (s := s) (c := c) x
  have hshape := State.passShape_markFired (s := s) (c := c) x
  have houts := State.passOuts_markFired (s := s) (c := c) (pl := pl) x
  have hcols := State.columnOf_markFired (s := s) (c := c) (pl := pl) x
  obtain ⟨v, hv, ht, hcore⟩ := State.passEnd_effect (s := s.markFired c x) (c := c) (s.firedEntry c x) (s.passOuts c x pl)
  obtain ⟨hcells, hothers⟩ := State.acc_passTaken (s := s.markFired c x) (c := c) (pl := pl) (s.firedEntry c x) ((s.markFired c x).core c)
  rw [houts, hshape, hcount] at hcells hothers
  rw [hcols] at hcells
  obtain ⟨hsettle, honly, hsame⟩ := State.regsAndParts_effect (hfired.trans hv) ht
  rw [hsettle] at hx
  obtain ⟨ht0, ht1, hpass⟩ := State.tiles_passTaken (s := s.markFired c x) (c := c) (s.firedEntry c x) (s.passOuts c x pl)
    ((s.markFired c x).core c)
  have htaken := hsame.trans hcore
  rw [hshape, hpasses] at hpass
  refine ⟨_, hx, honly, fun j i hj hi => ?_, fun q hq => ?_, ?_, ?_, ?_⟩
  · rw [htaken]
    exact hcells j i hj hi
  · rw [htaken]
    exact (hothers q hq).trans (by rw [hacc])
  · rw [htaken, ht0, h0]
  · rw [htaken, ht1, h1]
  · rw [htaken, hpass]
    rfl
end

section
/-! PROOF. Emergencies and feeds (R478, R489, R490, R504, R598, R599). -/

namespace Sys2Proof.Machine

namespace State

variable {s t : State}

/-! ### Emergencies (R478, R490) -/

theorem onlyRegs_emergency : OnlyRegs s s.emergency := by
  rw [emergency]
  split
  · split <;> rfl
  · rfl

theorem sameRegsBut_emergency : SameRegsBut [RegId.weirStatus.row.base] s s.emergency := by
  have hset := fun (u : State) hi lo v => sameRegsBut_setReg u .weirStatus [] (setF (u.reg .weirStatus []) hi lo v)
  rw [emergency]
  split
  · split
    · exact hset s 4 4 1
    · exact sameRegsBut_mono (sameRegsBut_trans (hset s 4 4 1) (hset _ 52 48 0)) (by simp [RegRow.addr, RegId.row, sumN])
  · exact sameRegsBut_refl s _

/-- An emergency moves EMERGENCY and VCODE alone. -/
theorem regF_emergency_apart {hi lo : Nat} (h4 : hi < 4 ∨ 4 < lo) (hcode : hi < 48 ∨ 52 < lo) :
    s.emergency.regF .weirStatus [] hi lo = s.regF .weirStatus [] hi lo := by
  have hbit := regF_setRegF_apart s .weirStatus [] 4 4 1 hi lo (by omega) (by omega) h4
  rw [emergency]
  split
  · split
    · exact hbit
    · exact (regF_setRegF_apart _ _ _ _ _ _ _ _ (by omega) (by omega) hcode).trans hbit
  · rfl

/-- Once the Weir runs, admission stops, and VCODE is 0 but before the first window. -/
theorem emergency_running (h : s.weir.running = true) :
    s.emergency.regF .weirStatus [] 4 4 = 1 ∧ s.emergency.vcode = if s.weir.windows = 0 then s.vcode else 0 := by
  have hbit := regF_setRegF_self s .weirStatus [] 4 4 1 (by omega) (by omega)
  rw [emergency, if_pos h]
  split
  · exact ⟨hbit, regF_setRegF_apart s .weirStatus [] 4 4 1 52 48 (by omega) (by omega) (by omega)⟩
  · exact ⟨(regF_setRegF_apart _ _ _ _ _ _ _ _ (by omega) (by omega) (by omega)).trans hbit,
      regF_setRegF_self _ .weirStatus [] 52 48 0 (by omega) (by omega)⟩

/-! ### The feeds (R489, R504, R598, R599) -/

theorem setFeed_frame (f : Nat) (x : Feed) : s.setFeed f x = { s with feedA := (s.setFeed f x).feedA, feedB := (s.setFeed f x).feedB } := by
  rw [setFeed]
  split <;> rfl

theorem feed_setFeed_self (f : Nat) (x : Feed) : (s.setFeed f x).feed f = x := by
  by_cases h : f = 0 <;> simp [feed, setFeed, h]

theorem feed_setFeed_other (f : Fin 2) (x : Feed) : (s.setFeed f x).feed (1 - f.val) = s.feed (1 - f.val) := by
  fin_cases f <;> rfl

theorem feed_congr (ha : t.feedA = s.feedA) (hb : t.feedB = s.feedB) (f : Nat) : t.feed f = s.feed f := by rw [feed, feed, ha, hb]

theorem feed_of_onlyRegs (h : OnlyRegs s t) (f : Nat) : t.feed f = s.feed f := by
  rw [OnlyRegs] at h
  exact feed_congr (by rw [h]) (by rw [h]) f

theorem onlyRegs_showFeeds : OnlyRegs s s.showFeeds := rfl

theorem sameRegsBut_showFeeds : SameRegsBut [RegId.weirStatus.row.base] s s.showFeeds := by
  have hset := fun (u : State) hi lo v => sameRegsBut_setReg u .weirStatus [] (setF (u.reg .weirStatus []) hi lo v)
  exact sameRegsBut_mono (sameRegsBut_trans (sameRegsBut_trans (hset s _ _ _) (hset _ _ _ _)) (hset _ _ _ _))
    (by simp [RegRow.addr, RegId.row, sumN])

theorem feed_showFeeds (f : Nat) : s.showFeeds.feed f = s.feed f := rfl

/-- FEED_A and FEED_B show the feeds, and ONE_FEED that one of them alone is valid. -/
theorem regF_showFeeds (f : Fin 2) :
    s.showFeeds.regF .weirStatus [] (32 + f.val) (32 + f.val) = (if (s.feed f).valid then 1 else 0) ∧
    s.showFeeds.regF .weirStatus [] 0 0 = (if (s.feed f).valid != (s.feed (1 - f.val)).valid then 1 else 0) := by
  have hbool : ∀ b : Bool, (if b then 1 else 0) % 2 = if b then 1 else 0 := by decide
  have hset := fun (u : State) b v => regF_setRegF_self u .weirStatus [] b b v (le_refl b)
  have hapart := fun (u : State) b v a (hab : a ≠ b) (hb : b < 64) =>
    regF_setRegF_apart u .weirStatus [] b b v a a (le_refl b) hb (by omega)
  have hone : s.showFeeds.regF .weirStatus [] 0 0 = if s.feedA.valid != s.feedB.valid then 1 else 0 :=
    (hset _ 0 _ (by omega)).trans (hbool _)
  fin_cases f
  · refine ⟨(hapart _ 0 _ 32 (by omega) (by omega)).trans ((hapart _ 33 _ 32 (by omega) (by omega)).trans ((hset s 32 _ (by omega)).trans ?_)), hone⟩
    exact hbool s.feedA.valid
  · refine ⟨(hapart _ 0 _ 33 (by omega) (by omega)).trans ((hset _ 33 _ (by omega)).trans ?_), hone.trans ?_⟩
    · exact hbool s.feedB.valid
    · exact congrArg (fun b : Bool => if b then 1 else 0) (Bool.xor_comm s.feedA.valid s.feedB.valid)

theorem vcode_showFeeds : s.showFeeds.vcode = s.vcode := by
  have hapart := fun (u : State) b v (hb : b < 48) =>
    regF_setRegF_apart u .weirStatus [] b b v 52 48 (le_refl b) (by omega) (by omega)
  exact (hapart _ 0 _ (by omega)).trans ((hapart _ 33 _ (by omega)).trans (hapart s 32 _ (by omega)))

/-! ### A feed that is lost (R489, R490) -/

/-- Feed f as it stops being valid, and WEIR_STATUS with it. -/
def feedDropped (s : State) (f : Nat) : State := (s.setFeed f { s.feed f with valid := false }).showFeeds

theorem feedLost_invalid {f : Nat} (h : (s.feed f).valid = false) : s.feedLost f = s := by
  rw [feedLost, h]
  rfl

theorem feedLost_valid (f : Fin 2) (h : (s.feed f).valid = true) :
    s.feedLost f = if (s.feed (1 - f.val)).valid then (s.feedDropped f).emergency else (s.feedDropped f).powerOff := by
  have hleft : ((s.feedDropped f).feedA.valid || (s.feedDropped f).feedB.valid) = (s.feed (1 - f.val)).valid := by
    fin_cases f
    · exact Bool.false_or _
    · exact Bool.or_false _
  rw [feedLost, if_pos h]
  exact congrArg (fun b : Bool => if b then (s.feedDropped f).emergency else (s.feedDropped f).powerOff) hleft

theorem feedDropped_frame (f : Nat) : s.feedDropped f =
    { s with feedA := (s.feedDropped f).feedA, feedB := (s.feedDropped f).feedB, mrs := (s.feedDropped f).mrs } := by
  have hshow := onlyRegs_showFeeds (s := s.setFeed f { s.feed f with valid := false })
  rw [feedDropped, hshow, setFeed_frame]

/-- What the loss of a feed comes to while the other one is valid: its bits of WEIR_STATUS, and the emergency. -/
structure FeedDown (f : Fin 2) (s t : State) : Prop where
  frame : t = { s with feedA := t.feedA, feedB := t.feedB, mrs := t.mrs }
  one : t.regF .weirStatus [] 0 0 = 1
  lost : t.regF .weirStatus [] (32 + f.val) (32 + f.val) = 0
  regs : SameRegsBut [RegId.weirStatus.row.base] s t
  stops : s.weir.running = true → t.regF .weirStatus [] 4 4 = 1 ∧ t.vcode = if s.weir.windows = 0 then s.vcode else 0

/-- The presence pins stand apart from it. -/
theorem FeedDown.of_setFeed {f : Fin 2} {x : Feed} (h : FeedDown f (s.setFeed f x) t) : FeedDown f s t := by
  have hs := setFeed_frame (s := s) f x
  obtain ⟨hframe, hone, hlost, hregs, hstops⟩ := h
  refine ⟨?_, hone, hlost, ?_, ?_⟩
  · rw [hframe, hs]
  · rw [hs] at hregs
    exact hregs
  · rw [hs] at hstops
    exact hstops

theorem feedDown_feedLost {f : Fin 2} (h : (s.feed f).valid = true) (ho : (s.feed (1 - f.val)).valid = true) : FeedDown f s (s.feedLost f) := by
  have hset := setFeed_frame (s := s) f { s.feed f with valid := false }
  have hdrop := feedDropped_frame (s := s) f
  have hem := onlyRegs_emergency (s := s.feedDropped f)
  obtain ⟨hlost, hone⟩ := regF_showFeeds (s := s.setFeed f { s.feed f with valid := false }) f
  rw [feed_setFeed_self] at hlost hone
  rw [feed_setFeed_other, ho] at hone
  rw [feedLost_valid f h, if_pos ho]
  refine ⟨?_, ?_, ?_, ?_, fun hrun => ?_⟩
  · rw [OnlyRegs] at hem
    rw [hem, hdrop]
  · exact (regF_emergency_apart (by omega) (by omega)).trans hone
  · exact (regF_emergency_apart (by omega) (by omega)).trans hlost
  · have hregs : SameRegsBut [RegId.weirStatus.row.base] s (s.feedDropped f) := by
      have hshow := sameRegsBut_showFeeds (s := s.setFeed f { s.feed f with valid := false })
      rw [hset] at hshow
      rw [feedDropped, hset]
      exact hshow
    exact sameRegsBut_mono (sameRegsBut_trans hregs sameRegsBut_emergency) (by simp)
  · have hweir : (s.feedDropped f).weir = s.weir := by rw [hdrop]
    have hvcode : (s.feedDropped f).vcode = s.vcode := by
      rw [feedDropped, vcode_showFeeds, hset]
      rfl
    have hstop := emergency_running (s := s.feedDropped f) (hweir ▸ hrun)
    rw [hweir, hvcode] at hstop
    exact hstop

/-- What the loss of both feeds comes to: the compute die is off (R489). -/
theorem powerOff_keeps (h : t = { s with feedA := t.feedA, feedB := t.feedB, mrs := t.mrs }) :
    t.powerOff.bootStep = State.reset.bootStep ∧ t.powerOff.mrs = State.reset.mrs ∧ t.powerOff.cores = State.reset.cores ∧
      t.powerOff.parts = State.reset.parts ∧ t.powerOff.vats = State.reset.vats ∧ t.powerOff.pools = State.reset.pools ∧
      t.powerOff.fast = State.reset.fast ∧ t.powerOff.slow = State.reset.slow ∧ t.powerOff.meter = s.meter ∧ t.powerOff.cart = s.cart ∧
      t.powerOff.retireA = s.retireA ∧ t.powerOff.retireB = s.retireB ∧ t.powerOff.netFlash = s.netFlash ∧
      t.powerOff.life = { s.life with keys := [], refuseImages := false } ∧ t.powerOff.pending = s.pending := by
  have hmeter : t.meter = s.meter := by rw [h]
  have hcart : t.cart = s.cart := by rw [h]
  have ha : t.retireA = s.retireA := by rw [h]
  have hb : t.retireB = s.retireB := by rw [h]
  have hnet : t.netFlash = s.netFlash := by rw [h]
  have hlife : t.life = s.life := by rw [h]
  have hpend : t.pending = s.pending := by rw [h]
  rw [← hmeter, ← hcart, ← ha, ← hb, ← hnet, ← hlife, ← hpend]
  exact ⟨rfl, rfl, rfl, rfl, rfl, rfl, rfl, rfl, rfl, rfl, rfl, rfl, rfl, rfl, rfl⟩

theorem feed_powerOff (f : Nat) : s.powerOff.feed f = { s.feed f with strap := 0 } := by
  by_cases h : f = 0
  · simp only [feed, if_pos h]
    rfl
  · simp only [feed, if_neg h]
    rfl

/-- A valid feed that is lost is valid no more; its pins are as they were. -/
theorem feed_feedLost (f : Fin 2) (h : (s.feed f).valid = true) : ((s.feedLost f).feed f).valid = false ∧
    ((s.feedLost f).feed f).mated = (s.feed f).mated ∧ ((s.feedLost f).feed f).connected = (s.feed f).connected := by
  have hdrop : (s.feedDropped f).feed f = { s.feed f with valid := false } := (feed_showFeeds _).trans (feed_setFeed_self ..)
  have hfeed : (s.feedDropped f).emergency.feed f = { s.feed f with valid := false } := (feed_of_onlyRegs onlyRegs_emergency f).trans hdrop
  rw [feedLost_valid f h]
  split
  · rw [hfeed]
    exact ⟨rfl, rfl, rfl⟩
  · rw [feed_powerOff, hdrop]
    exact ⟨rfl, rfl, rfl⟩

end State

/-! ### The commands -/

theorem exec_junctionEmergency (tj : Byte) (s : State) : exec (.junctionEmergency tj) s = .next
    (if s.weir.running ∧ s.regF .weirCtrl [] 31 24 + 10 ≤ tj.toNat then (s.setRegF .weirStatus [] 63 56 tj.toNat).heatEmergency else s) := rfl

theorem exec_feedInvalid (f : Fin 2) (s : State) : exec (.feedInvalid f) s = .next (s.feedLost f) := rfl
theorem exec_feedValid (f : Fin 2) (s : State) : exec (.feedValid f) s = .next (s.feedGood f) := rfl
theorem exec_feedPresMate (f : Fin 2) (s : State) : exec (.feedPresMate f) s = .next (s.presMate f) := rfl
theorem exec_feedRegulatorConnect (f : Fin 2) (s : State) : exec (.feedRegulatorConnect f) s = .next (s.regulators f) := rfl
theorem exec_feedPresBreak (f : Fin 2) (s : State) : exec (.feedPresBreak f) s = .next (s.presBreak f) := rfl

/-- The junction at which the emergency begins stands in WEIR_STATUS (R490). -/
theorem junctionEmergencies (s : State) (tj : Byte) :
    ((s.weir.running = false ∨ tj.toNat < s.regF .weirCtrl [] 31 24 + 10) → exec (.junctionEmergency tj) s = .next s) ∧
    (s.weir.running = true → s.regF .weirCtrl [] 31 24 + 10 ≤ tj.toNat → ∃ t, exec (.junctionEmergency tj) s = .next t ∧ OnlyRegs s t ∧
      SameRegsBut [RegId.weirStatus.row.base] s t ∧ t.regF .weirStatus [] 4 4 = 1 ∧ t.vcode = (if s.weir.windows = 0 then s.vcode else 0) ∧
      t.regF .weirStatus [] 63 56 = tj.toNat) := by
  have hx := exec_junctionEmergency tj s
  refine ⟨fun h => ?_, fun hrun hhot => ?_⟩
  · rw [hx, if_neg]
    rintro ⟨hrun, hhot⟩
    rcases h with h | h
    · simp [h] at hrun
    · omega
  · have htj : (s.setRegF .weirStatus [] 63 56 tj.toNat).regF .weirStatus [] 63 56 = tj.toNat :=
      (State.regF_setRegF_self s _ _ _ _ _ (by omega) (by omega)).trans (Nat.mod_eq_of_lt tj.isLt)
    have hlimit : (s.setRegF .weirStatus [] 63 56 tj.toNat).regF .weirCtrl [] 31 24 = s.regF .weirCtrl [] 31 24 :=
      State.regF_setRegF_ne s _ _ _ _ _ _ _ _ _ (by decide)
    have hcode : (s.setRegF .weirStatus [] 63 56 tj.toNat).vcode = s.vcode :=
      State.regF_setRegF_apart s _ _ _ _ _ _ _ (by omega) (by omega) (by omega)
    rw [if_pos ⟨hrun, hhot⟩, State.heatEmergency, hlimit, htj, if_pos hhot] at hx
    obtain ⟨hstop, hv⟩ := State.emergency_running (s := s.setRegF .weirStatus [] 63 56 tj.toNat) hrun
    rw [hcode] at hv
    exact ⟨_, hx, State.onlyRegs_trans (State.onlyRegs_setReg s _ _ _) State.onlyRegs_emergency,
      State.sameRegsBut_mono (State.sameRegsBut_trans (State.sameRegsBut_setReg s .weirStatus [] _) State.sameRegsBut_emergency)
        (by simp [RegRow.addr, RegId.row, sumN]), hstop, hv, (State.regF_emergency_apart (by omega) (by omega)).trans htj⟩

/-- A valid feed that is lost, by the command itself or by its pins. -/
theorem feedIsLost (s : State) (f : Fin 2) (hv : (s.feed f).valid = true) : ∀ i ∈ [Instr.feedInvalid f, .feedPresBreak f],
    ∃ u t, exec i s = .next t ∧ t = u.feedLost f ∧ (u.feed f).valid = true ∧ u.feed (1 - f.val) = s.feed (1 - f.val) ∧
      (i = .feedPresBreak f → (u.feed f).mated = false ∧ (u.feed f).connected = false) ∧ ∃ x, u = s.setFeed f x := by
  have hself : s.setFeed f (s.feed f) = s := by
    fin_cases f <;> rfl
  refine List.forall_mem_cons.mpr ⟨?_, List.forall_mem_singleton.mpr ?_⟩
  · exact ⟨s, _, exec_feedInvalid f s, rfl, hv, rfl, nofun, _, hself.symm⟩
  · refine ⟨s.setFeed f { s.feed f with mated := false, connected := false }, _, exec_feedPresBreak f s, rfl, ?_,
      State.feed_setFeed_other f _, fun _ => ?_, _, rfl⟩
    · rw [State.feed_setFeed_self]
      exact hv
    · rw [State.feed_setFeed_self]
      exact ⟨rfl, rfl⟩

theorem emergenciesAndFeeds : Claims.EmergenciesAndFeeds := by
  refine ⟨junctionEmergencies, fun s f => ⟨?_, fun hm => ?_, fun hm => ?_, fun hm hv => ?_, fun hv => ?_, fun hv i hi => ?_⟩⟩
  · exact ⟨_, exec_feedPresMate f s, State.setFeed_frame _ _, State.feed_setFeed_self _ _, State.feed_setFeed_other f _⟩
  · rw [exec_feedValid, State.feedGood, hm]
    rfl
  · have hgood : s.feedGood f = (s.setFeed f { s.feed f with valid := true }).showFeeds := if_pos hm
    have hset := State.setFeed_frame (s := s) f { s.feed f with valid := true }
    obtain ⟨hbit, hone⟩ := State.regF_showFeeds (s := s.setFeed f { s.feed f with valid := true }) f
    rw [State.feed_setFeed_self] at hbit hone
    rw [State.feed_setFeed_other] at hone
    refine ⟨_, exec_feedValid f s, ?_⟩
    rw [hgood]
    refine ⟨?_, State.feed_setFeed_self _ _, State.feed_setFeed_other f _, hbit, hone.trans ?_⟩
    · have hshow := State.onlyRegs_showFeeds (s := s.setFeed f { s.feed f with valid := true })
      rw [hshow, hset]
    · cases (s.feed (1 - f.val)).valid <;> rfl
  · have hreg : s.regulators f = s.setFeed f { s.feed f with connected := true } := if_pos (by rw [hm, hv]; rfl)
    refine ⟨_, exec_feedRegulatorConnect f s, ?_⟩
    rw [hreg]
    exact ⟨State.feed_setFeed_self _ _, State.setFeed_frame _ _⟩
  · have hbreak : s.presBreak f = s.setFeed f { s.feed f with mated := false, connected := false } :=
      State.feedLost_invalid (by rw [State.feed_setFeed_self]; exact hv)
    refine ⟨(exec_feedInvalid f s).trans (congrArg _ (State.feedLost_invalid hv)), _, exec_feedPresBreak f s, ?_⟩
    rw [hbreak]
    exact ⟨State.feed_setFeed_self _ _, State.setFeed_frame _ _⟩
  · obtain ⟨u, t, hx, rfl, huv, huo, hpins, x, rfl⟩ := feedIsLost s f hv i hi
    obtain ⟨hinvalid, hmated, hconnected⟩ := State.feed_feedLost f huv
    refine ⟨_, hx, hinvalid, fun hi => ?_, fun ho => ?_, fun ho => ?_⟩
    · obtain ⟨hm, hc⟩ := hpins hi
      exact ⟨hmated.trans hm, hconnected.trans hc⟩
    · obtain ⟨hframe, hone, hlost, hregs, hstops⟩ := (State.feedDown_feedLost huv (huo.symm ▸ ho)).of_setFeed
      exact ⟨hframe, hone, hlost, hregs, hstops⟩
    · rw [State.feedLost_valid f huv, huo, ho]
      refine State.powerOff_keeps ?_
      rw [State.feedDropped_frame, State.setFeed_frame]

end Sys2Proof.Machine
end

section
/-! PROOF. Power-up goes by its steps (R527, R555). -/

namespace Sys2Proof.Machine

/-- What each step of a fold establishes of its own element, and every step keeps, holds of all of them at its end. -/
theorem foldl_establishes {α β : Type} {P : α → β → Prop} {f : β → α → β} {l : List α} (hset : ∀ b, ∀ a ∈ l, P a (f b a))
    (hkeep : ∀ b, ∀ a ∈ l, ∀ x, P x b → P x (f b a)) : ∀ b, ∀ x ∈ l, P x (l.foldl f b) := by
  induction l with
  | nil => exact fun _ => nofun
  | cons a l ih =>
    have hrest := ih (fun b y hy => hset b y (List.mem_cons_of_mem a hy)) (fun b y hy => hkeep b y (List.mem_cons_of_mem a hy))
    refine fun b => List.forall_mem_cons.mpr ⟨?_, hrest (f b a)⟩
    exact List.foldlRecOn l f (hset b a List.mem_cons_self) fun c hc y hy => hkeep c y (List.mem_cons_of_mem a hy) a hc

/-- A field beyond the word's end is none of it. -/
theorem setF_beyond (w : Long) {b : Nat} (v : Nat) (h : 64 ≤ b) : setF w b b v = w := by
  have hw : w.toNat < 2 ^ b := w.isLt.trans_le (Nat.pow_le_pow_right (by omega) h)
  have hfld : fld w.toNat b b = 0 := by rw [fld, Nat.shiftRight_eq_div_pow, Nat.div_eq_of_lt hw, Nat.zero_mod]
  have hdvd : 2 ^ 64 ∣ v % 2 ^ (b + 1 - b) * 2 ^ b := Dvd.dvd.mul_left (Nat.pow_dvd_pow 2 h) _
  apply BitVec.eq_of_toNat_eq
  rw [setF, hfld, BitVec.toNat_ofNat, Nat.zero_mul, Nat.sub_zero, Nat.add_mod, Nat.mod_eq_zero_of_dvd hdvd, Nat.add_zero, Nat.mod_mod,
    Nat.mod_eq_of_lt w.isLt]

namespace State

variable {s t u : State}

/-! ### An error record's registers -/

theorem sameRegsBut_setRegF (id : RegId) (ix : List Nat) (hi lo v : Nat) : SameRegsBut [id.row.addr ix] s (s.setRegF id ix hi lo v) :=
  sameRegsBut_setReg s id ix _

/-- KEEP_STATUS alone has moved, and of it not READY. -/
structure ReadyStands (s t : State) : Prop where
  regs : SameRegsBut [RegId.keepStatus.row.addr []] s t
  ready : t.ready = s.ready

theorem ReadyStands.trans (h : ReadyStands s t) (k : ReadyStands t u) : ReadyStands s u :=
  ⟨sameRegsBut_mono (sameRegsBut_trans h.regs k.regs) (by simp), k.ready.trans h.ready⟩

theorem readyStands_setRegF {hi lo : Nat} (h : 0 < lo) (hl : lo ≤ hi) (hi64 : hi < 64) (v : Nat) : ReadyStands s (s.setRegF .keepStatus [] hi lo v) :=
  ⟨sameRegsBut_setRegF _ _ _ _ _, congrArg (· == 1) (regF_setRegF_apart s _ _ _ _ _ _ _ hl hi64 (.inl h))⟩

/-- An error record leaves READY. -/
theorem readyStands_record (severity code : Nat) (part : Option Nat) (unit : Nat) (step : Option Word) (addr : Option Nat) (detail : List Byte) :
    ReadyStands s (s.record severity code part unit step addr detail) := by
  have hkeeper : ∀ k, ReadyStands s { s with keeper := k } := fun _ => ⟨fun _ _ _ => rfl, rfl⟩
  have hevent : ∀ (u : State) box code body, ReadyStands u (u.event box code body) := fun _ _ _ _ => ⟨fun _ _ _ => rfl, rfl⟩
  have hcount := fun (u : State) a b => (readyStands_setRegF (s := u) (hi := 63) (lo := 32) (by omega) (by omega) (by omega) a).trans
    (readyStands_setRegF (hi := 15) (lo := 8) (by omega) (by omega) (by omega) b)
  rw [record]
  split
  · exact (hkeeper _).trans (hcount _ _ _)
  · exact ((hkeeper _).trans (hcount _ _ _)).trans (hevent _ _ _ _)

/-! ### Step 2: fuses and straps -/

/-- A feed's straps as they are read from its pins (R609). -/
def strapped (s : State) (x : Feed) (i : Nat) : Feed := { x with strap := if x.mated then Config.strapPins i s.fresh else 0 }

/-- Step 2 up to the calibration: the straps are read, and the network registers start from flash but in Blank. -/
def strapsRead (s : State) : State :=
  let t := ({ s with feedA := s.strapped s.feedA 0, feedB := s.strapped s.feedB 1 } : State).usedFresh
  let t := (t.setRegF .jobStatus [] 15 8 t.feedA.strap.toNat).setRegF .jobStatus [] 23 16 t.feedB.strap.toNat
  if t.lifeState = 0 then t else { t with mrs := t.netFlash.foldl (fun (m : FMap Long) q => m.set q.1 q.2) t.mrs }

/-- The cores' repairs are shown in their MEA_REPAIR. -/
def repairsShown (s : State) : State :=
  (List.range 128).foldl (fun (t : State) c => t.setReg .meaRepair (cix c) (Config.meaRepair c &&& 0xFFFFFFFF#64)) s

/-- The Weir's calibration is shown in WEIR_CAL, then the repairs. -/
def calibrated (s : State) : State := (s.setReg .weirCal [] (Config.weirCal &&& 0x0FFFFFFFFFFFFFFF#64)).repairsShown

theorem readFuses_eq (s : State) : s.readFuses = s.strapsRead.calibrated.showLife.newChallenge := rfl

theorem strapsRead_frame (s : State) : s.strapsRead =
    { s with feedA := s.strapped s.feedA 0, feedB := s.strapped s.feedB 1, fresh := s.fresh + 1, mrs := s.strapsRead.mrs } := by
  rw [strapsRead]
  split <;> rfl

theorem onlyRegs_repairsShown : OnlyRegs s s.repairsShown := onlyRegs_foldl _ (fun u _ => onlyRegs_setReg u _ _ _) _ s

theorem sameRegsBut_repairsShown : SameRegsBut ((List.range 128).map fun c => RegId.meaRepair.row.addr (cix c)) s s.repairsShown :=
  sameRegsBut_foldl fun u _ hc => sameRegsBut_mono (sameRegsBut_setReg u _ _ _)
    (List.cons_subset.mpr ⟨List.mem_map_of_mem hc, List.nil_subset _⟩)

theorem meaRepair_addr_ne {a b : Nat} (ha : a < 128) (hb : b < 128) (h : a ≠ b) :
    RegId.meaRepair.row.addr (cix a) ≠ RegId.meaRepair.row.addr (cix b) := by
  simp [RegRow.addr, RegId.row, sumN, cix]
  omega

theorem reg_repairsShown (c : CoreId) : s.repairsShown.reg .meaRepair (cix c) = Config.meaRepair c &&& 0xFFFFFFFF#64 := by
  refine foldl_establishes (P := fun c (t : State) => c < 128 → t.reg .meaRepair (cix c) = Config.meaRepair c &&& 0xFFFFFFFF#64)
    (fun u a _ _ => reg_setReg_self u _ _ _) (fun u a ha x hx hx' => ?_) s c (List.mem_range.mpr c.isLt) c.isLt
  by_cases h : x = a
  · rw [h, reg_setReg_self]
  · rw [reg_setReg_ne _ _ _ _ _ _ (meaRepair_addr_ne hx' (List.mem_range.mp ha) h)]
    exact hx hx'

theorem lifeState_lt (s : State) : s.lifeState < 8 := by
  rw [lifeState, lifeOf]
  split_ifs <;> omega

theorem fresh_showLife : s.showLife.fresh = s.fresh := rfl

theorem regF_showLife : s.showLife.regF .lifeStatus [] 2 0 = s.lifeState :=
  (regF_setRegF_apart _ _ _ _ _ _ _ _ (by omega) (by omega) (by omega)).trans
    ((regF_setRegF_self s _ _ _ _ _ (by omega) (by omega)).trans (Nat.mod_eq_of_lt s.lifeState_lt))

theorem sameRegsBut_showLife : SameRegsBut [RegId.lifeStatus.row.addr []] s s.showLife :=
  sameRegsBut_mono (sameRegsBut_trans (sameRegsBut_setRegF .lifeStatus [] 2 0 _) (sameRegsBut_setRegF .lifeStatus [] 55 48 _)) (by simp)

theorem sameRegsBut_newChallenge : SameRegsBut [RegId.lifeChallenge.row.addr []] s s.newChallenge := sameRegsBut_setReg s .lifeChallenge [] _

theorem reg_newChallenge : s.newChallenge.reg .lifeChallenge [] = s.freeLong := reg_setReg_self s .lifeChallenge [] s.freeLong

theorem onlyRegs_calibrated : OnlyRegs s s.calibrated := onlyRegs_trans (onlyRegs_setReg s _ _ _) onlyRegs_repairsShown

theorem meaRepair_base_le (c : Nat) : 0x01002010 ≤ RegId.meaRepair.row.addr (cix c) := base_le_addr RegId.meaRepair.row _

theorem reg_calibrated_weirCal : s.calibrated.reg .weirCal [] = Config.weirCal &&& 0x0FFFFFFFFFFFFFFF#64 := by
  have hcal : RegId.weirCal.row.addr [] ∉ (List.range 128).map fun c => RegId.meaRepair.row.addr (cix c) := fun h => by
    obtain ⟨c, -, h⟩ := List.mem_map.mp h
    exact absurd (h ▸ meaRepair_base_le c) (by decide)
  rw [calibrated, reg_of_sameRegsBut sameRegsBut_repairsShown hcal, reg_setReg_self]

/-- Step 2 moves the registers, the straps and the free values drawn. -/
theorem readFuses_frame (s : State) : s.readFuses =
    { s with feedA := s.strapped s.feedA 0, feedB := s.strapped s.feedB 1, fresh := s.fresh + 2, mrs := s.readFuses.mrs } := by
  have hend : ∀ u v : State, OnlyRegs v u → v =
        { s with feedA := s.strapped s.feedA 0, feedB := s.strapped s.feedB 1, fresh := s.fresh + 1, mrs := v.mrs } → u.showLife.newChallenge =
        { s with feedA := s.strapped s.feedA 0, feedB := s.strapped s.feedB 1, fresh := s.fresh + 2, mrs := u.showLife.newChallenge.mrs } := by
    intro u v hu hv
    rw [OnlyRegs] at hu
    generalize u.mrs = m at hu
    generalize v.mrs = n at hv
    subst hu hv
    rfl
  rw [readFuses_eq]
  exact hend s.strapsRead.calibrated s.strapsRead onlyRegs_calibrated s.strapsRead_frame

/-- What step 2 shows: the calibration, the cores' repairs, the life-cycle state and the challenge. -/
theorem regs_readFuses (s : State) :
    s.readFuses.reg .weirCal [] = Config.weirCal &&& 0x0FFFFFFFFFFFFFFF#64 ∧
    (∀ c : CoreId, s.readFuses.reg .meaRepair (cix c) = Config.meaRepair c &&& 0xFFFFFFFF#64) ∧
    s.readFuses.regF .lifeStatus [] 2 0 = s.lifeState ∧ s.readFuses.reg .lifeChallenge [] = s.usedFresh.freeLong := by
  have hend : SameRegsBut [RegId.lifeStatus.row.addr [], RegId.lifeChallenge.row.addr []] s.strapsRead.calibrated s.readFuses := by
    rw [readFuses_eq]
    exact sameRegsBut_trans sameRegsBut_showLife sameRegsBut_newChallenge
  obtain ⟨hlife, hfresh⟩ : s.strapsRead.calibrated.life = s.life ∧ s.strapsRead.calibrated.fresh = s.fresh + 1 := by
    have hcal := onlyRegs_calibrated (s := s.strapsRead)
    rw [OnlyRegs] at hcal
    rw [hcal, strapsRead_frame]
    exact ⟨rfl, rfl⟩
  refine ⟨?_, fun c => ?_, ?_, ?_⟩
  · rw [reg_of_sameRegsBut hend (by decide), reg_calibrated_weirCal]
  · rw [reg_of_sameRegsBut hend ?_, calibrated, reg_repairsShown]
    simp only [List.mem_cons, List.not_mem_nil, or_false, not_or]
    exact ⟨fun h => absurd (h ▸ meaRepair_base_le c) (by decide), fun h => absurd (h ▸ meaRepair_base_le c) (by decide)⟩
  · rw [readFuses_eq, regF, reg_of_sameRegsBut sameRegsBut_newChallenge (by decide)]
    refine regF_showLife.trans ?_
    rw [lifeState, lifeState, hlife]
  · rw [readFuses_eq, reg_newChallenge, freeLong, freeLong]
    rw [fresh_showLife, hfresh]
    rfl

/-! ### Step 5: the boot ROM -/

/-- The life-cycle state alone differs. -/
def OnlyLife (s t : State) : Prop := t = { s with life := t.life }

theorem onlyLife_trans (h : OnlyLife s t) (k : OnlyLife t u) : OnlyLife s u := by
  rw [OnlyLife] at *
  rw [k, h]

/-- Certificates taken into the store change what keys it holds. -/
theorem onlyLife_addCerts (l : List (List Byte)) : OnlyLife s (s.addCerts l).1 := by
  rw [addCerts]
  refine List.foldlRecOn (motive := fun a : State × Bool => OnlyLife s a.1) l _ rfl fun a ha b _ => ?_
  dsimp only
  split
  · exact onlyLife_trans ha rfl
  · exact ha

/-- The keys that the boot ROM loads change nothing but the store. -/
theorem onlyLife_loadKeys : OnlyLife s s.loadKeys :=
  onlyLife_trans (t := { s with life := { s.life with keys := [] } }) rfl (onlyLife_addCerts _)

/-- What the keeper's start leaves, once its firmware runs. -/
structure BootKept (s t : State) : Prop where
  mem : MemKept s t
  cores : t.cores = s.cores
  parts : t.parts = s.parts
  life : t.life = s.life
  weir : t.weir = s.weir
  step : t.bootStep = s.bootStep
  shown : t.regF .lifeStatus [] 33 32 = s.regF .lifeStatus [] 33 32
  ready : t.ready = s.ready

theorem BootKept.trans (h : BootKept s t) (k : BootKept t u) : BootKept s u :=
  ⟨h.mem.trans k.mem, k.cores.trans h.cores, k.parts.trans h.parts, k.life.trans h.life, k.weir.trans h.weir, k.step.trans h.step,
    k.shown.trans h.shown, k.ready.trans h.ready⟩

theorem bootKept_refl : BootKept s s := ⟨memKept_refl s, rfl, rfl, rfl, rfl, rfl, rfl, rfl⟩

/-- A register apart from LIFE_STATUS and KEEP_STATUS. -/
theorem bootKept_setRegF {id : RegId} {ix : List Nat} (hl : RegId.lifeStatus.row.addr [] ≠ id.row.addr ix)
    (hk : RegId.keepStatus.row.addr [] ≠ id.row.addr ix) (hi lo v : Nat) : BootKept s (s.setRegF id ix hi lo v) :=
  ⟨memKept_of_onlyRegs (onlyRegs_setReg s _ _ _), rfl, rfl, rfl, rfl, rfl, regF_setRegF_ne s _ _ _ _ _ _ _ _ _ hl,
    congrArg (· == 1) (regF_setRegF_ne s _ _ _ _ _ _ _ _ _ hk)⟩

theorem bootKept_serviceEntries : BootKept s s.serviceEntries := by
  have hwrite : ∀ p l, BootKept s (s.writeRetire p l).usedFresh := by
    intro p l
    rw [writeRetire]
    split <;> exact ⟨⟨rfl, rfl, rfl, rfl, rfl, rfl⟩, rfl, rfl, rfl, rfl, rfl, rfl, rfl⟩
  rw [serviceEntries]
  split
  · dsimp only
    split
    · exact ⟨⟨rfl, rfl, rfl, rfl, rfl, rfl⟩, rfl, rfl, rfl, rfl, rfl, rfl, rfl⟩
    · exact hwrite _ _
  · exact bootKept_refl

theorem bootKept_showRecord : BootKept s s.showRecord := by
  have hbist : ∀ b, BootKept s { s with bist := b } := fun _ => ⟨⟨rfl, rfl, rfl, rfl, rfl, rfl⟩, rfl, rfl, rfl, rfl, rfl, rfl, rfl⟩
  have hppr : ∀ k, RegId.sluPpr.row.addr [k] ≥ 0x0A000018 := fun k => base_le_addr RegId.sluPpr.row [k]
  have hne : ∀ a < 0x0A000018, ∀ k, a ≠ RegId.sluPpr.row.addr [k] := fun a ha k => (ha.trans_le (hppr k)).ne
  exact ((hbist _).trans (bootKept_setRegF (by decide) (by decide) _ _ _)).trans
    (foldl_rel BootKept (fun _ => bootKept_refl) BootKept.trans _ (fun _ _ => bootKept_setRegF (hne _ (by decide) _) (hne _ (by decide) _) _ _ _) _ _)

theorem bootKept_showCart : BootKept s s.showCart := by
  have hset := fun (u : State) hi lo v => bootKept_setRegF (s := u) (id := .cartStatus) (ix := []) (by decide) (by decide) hi lo v
  rw [showCart]
  split
  · exact ((hset _ _ _ _).trans (hset _ _ _ _)).trans (hset _ _ _ _)
  · exact bootKept_refl

theorem memKept_of_reports (h : Reports s t) : MemKept s t := by
  rw [Reports] at h
  rw [h]
  exact ⟨rfl, rfl, rfl, rfl, rfl, rfl⟩

theorem bootKept_record (severity code : Nat) (part : Option Nat) (unit : Nat) (step : Option Word) (addr : Option Nat) (detail : List Byte) :
    BootKept s (s.record severity code part unit step addr detail) := by
  have hf := record_frame s severity code part unit step addr detail
  obtain ⟨hregs, hready⟩ := readyStands_record (s := s) severity code part unit step addr detail
  obtain ⟨hparts, hlife, hweir, hstep⟩ : (s.record severity code part unit step addr detail).parts = s.parts ∧
      (s.record severity code part unit step addr detail).life = s.life ∧ (s.record severity code part unit step addr detail).weir = s.weir ∧
      (s.record severity code part unit step addr detail).bootStep = s.bootStep := by
    rw [Reports] at hf
    rw [hf]
    exact ⟨rfl, rfl, rfl, rfl⟩
  exact ⟨memKept_of_reports hf, cores_of_reports hf, hparts, hlife, hweir, hstep,
    congrArg (fun w => getF w 33 32) (reg_of_sameRegsBut hregs (by decide)), hready⟩

theorem bootKept_tellMeter : BootKept s s.tellMeter := by
  have hmeter : ∀ m, BootKept s { s with meter := m } := fun _ => ⟨⟨rfl, rfl, rfl, rfl, rfl, rfl⟩, rfl, rfl, rfl, rfl, rfl, rfl, rfl⟩
  rw [tellMeter]
  split
  · exact (hmeter _).trans (bootKept_record ..)
  · exact bootKept_refl

/-- The firmware shown in LIFE_STATUS, and READY. -/
def firmwareShown (s : State) (svn i : Nat) : State :=
  (((s.setRegF .lifeStatus [] 63 56 svn).setRegF .lifeStatus [] 40 40 i).setRegF .lifeStatus [] 33 32 1).setRegF .keepStatus [] 0 0 1

theorem runFirmware_eq (i : Nat) : s.runFirmware i =
    ({ s with life := { s.life with running := i }, keeper := { s.keeper with kick := s.tick } } : State).firmwareShown (le (s.slotBytes' i) 4 4) i := rfl

theorem onlyRegs_firmwareShown (svn i : Nat) : OnlyRegs s (s.firmwareShown svn i) := rfl

theorem regs_firmwareShown (svn i : Nat) : (s.firmwareShown svn i).regF .lifeStatus [] 33 32 = 1 ∧ (s.firmwareShown svn i).ready = true := by
  have hself := fun (u : State) => regF_setRegF_self u .lifeStatus [] 33 32 1 (by omega) (by omega)
  have hready := fun (u : State) => regF_setRegF_self u .keepStatus [] 0 0 1 (by omega) (by omega)
  have hne := fun (u : State) => regF_setRegF_ne u .keepStatus .lifeStatus [] [] 0 0 1 33 32 (by decide)
  rw [ready, firmwareShown, hne, hself, hready]
  exact ⟨rfl, rfl⟩

/-- The firmware of slot i runs, and the keeper is ready. -/
theorem runFirmware_runs (i : Nat) : (s.runFirmware i).life.running = i ∧ (s.runFirmware i).regF .lifeStatus [] 33 32 = 1 ∧
    (s.runFirmware i).ready = true ∧ MemKept s (s.runFirmware i) ∧ (s.runFirmware i).cores = s.cores ∧ (s.runFirmware i).parts = s.parts := by
  have hkeep : ∀ u : State, ∀ svn, MemKept u (u.firmwareShown svn i) ∧ (u.firmwareShown svn i).cores = u.cores ∧
      (u.firmwareShown svn i).parts = u.parts ∧ (u.firmwareShown svn i).life = u.life := fun u svn =>
    ⟨memKept_of_onlyRegs (onlyRegs_firmwareShown svn i), rfl, rfl, rfl⟩
  have hrun : ∀ l k, MemKept s ({ s with life := l, keeper := k } : State) := fun _ _ => ⟨rfl, rfl, rfl, rfl, rfl, rfl⟩
  rw [runFirmware_eq]
  obtain ⟨hmem, hcores, hparts, hlife⟩ := hkeep { s with life := { s.life with running := i }, keeper := { s.keeper with kick := s.tick } }
    (le (s.slotBytes' i) 4 4)
  obtain ⟨hshown, hready⟩ := regs_firmwareShown (s := { s with life := { s.life with running := i }, keeper := { s.keeper with kick := s.tick } })
    (le (s.slotBytes' i) 4 4) i
  exact ⟨congrArg Life.running hlife, hshown, hready, (hrun _ _).trans hmem, hcores, hparts⟩

theorem keeperBoot_none (h : s.loadKeys.bootSlot = none) : s.keeperBoot = s.loadKeys.setRegF .lifeStatus [] 33 32 2 := by
  rw [keeperBoot]
  dsimp only
  rw [h]

/-- What the keeper shows as its firmware starts. -/
def keeperShows (s : State) : State := s.serviceEntries.showRecord.showCart

theorem bootKept_keeperShows : BootKept s s.keeperShows := (bootKept_serviceEntries.trans bootKept_showRecord).trans bootKept_showCart

/-- The Weir starts and step 5 ends, and the meter's standing fault is recorded. -/
def weirStarts (s : State) : State := ({ s with weir := { s.weir with running := true }, bootStep := 6 } : State).tellMeter

theorem keeperBoot_some {i : Nat} (h : s.loadKeys.bootSlot = some i) : s.keeperBoot = (s.loadKeys.runFirmware i).keeperShows.weirStarts := by
  rw [keeperBoot]
  dsimp only
  rw [h]
  rfl

/-- Step 5 has ended with the firmware of slot k running (R555, R559). -/
structure Booted (k : Nat) (s t : State) : Prop where
  mem : MemKept s t
  cores : t.cores = s.cores
  parts : t.parts = s.parts
  step : t.bootStep = 6
  weir : t.weir.running = true
  ready : t.ready = true
  shown : t.regF .lifeStatus [] 33 32 = 1
  slot : t.life.running = k

/-- The keeper's start, from the state in which its firmware began to run. -/
theorem booted_weirStarts {k : Nat} (hcores : u.cores = s.cores) (hparts : u.parts = s.parts) (hmem : MemKept s u) (hready : u.ready = true)
    (hshown : u.regF .lifeStatus [] 33 32 = 1) (hslot : u.life.running = k) : Booted k s u.weirStarts := by
  have htell := bootKept_tellMeter (s := ({ u with weir := { u.weir with running := true }, bootStep := 6 } : State))
  obtain ⟨tmem, tcores, tparts, tlife, tweir, tstep, tshown, tready⟩ := htell
  have hstart : MemKept u ({ u with weir := { u.weir with running := true }, bootStep := 6 } : State) := ⟨rfl, rfl, rfl, rfl, rfl, rfl⟩
  exact ⟨(hmem.trans hstart).trans tmem, tcores.trans hcores, tparts.trans hparts, tstep, congrArg Weir.running tweir, tready.trans hready,
    tshown.trans hshown, (congrArg Life.running tlife).trans hslot⟩

/-- The keys loaded leave all but the store. -/
theorem loadKeys_keeps : MemKept s s.loadKeys ∧ s.loadKeys.cores = s.cores ∧ s.loadKeys.parts = s.parts ∧ s.loadKeys.bootStep = s.bootStep := by
  have h := onlyLife_loadKeys (s := s)
  rw [OnlyLife] at h
  rw [h]
  exact ⟨⟨rfl, rfl, rfl, rfl, rfl, rfl⟩, rfl, rfl, rfl⟩

theorem booted_keeperBoot {k : Nat} (h : s.loadKeys.bootSlot = some k) : Booted k s s.keeperBoot := by
  obtain ⟨hmem, hcores, hparts, -⟩ := loadKeys_keeps (s := s)
  obtain ⟨hrun, hshown, hready, hmem', hcores', hparts'⟩ := runFirmware_runs (s := s.loadKeys) k
  have hkeep := bootKept_keeperShows (s := s.loadKeys.runFirmware k)
  rw [keeperBoot_some h]
  exact booted_weirStarts (hkeep.cores.trans (hcores'.trans hcores)) (hkeep.parts.trans (hparts'.trans hparts))
    ((hmem.trans hmem').trans hkeep.mem) (hkeep.ready.trans hready) (hkeep.shown.trans hshown)
    ((congrArg Life.running hkeep.life).trans hrun)

/-- With no slot that verifies the module stops in step 5. -/
theorem keeperBoot_stops (h : s.loadKeys.bootSlot = none) : MemKept s s.keeperBoot ∧ s.keeperBoot.cores = s.cores ∧
    s.keeperBoot.parts = s.parts ∧ s.keeperBoot.bootStep = s.bootStep ∧ s.keeperBoot.regF .lifeStatus [] 33 32 = 2 := by
  obtain ⟨hmem, hcores, hparts, hstep⟩ := loadKeys_keeps (s := s)
  rw [keeperBoot_none h]
  exact ⟨hmem.trans (memKept_of_onlyRegs (onlyRegs_setReg _ _ _ _)), hcores, hparts, hstep, regF_setRegF_self _ _ _ _ _ _ (by omega) (by omega)⟩

/-! ### Step 6: the memories and the ports -/

/-- Both tiers are zero, whatever repairs the stacks' registers then show. -/
theorem trainTiers_zero : s.trainTiers.fast = Tier.zero ∧ s.trainTiers.slow = Tier.zero := by
  have h : OnlyRegs { s with fast := Tier.zero, slow := Tier.zero } s.trainTiers :=
    onlyRegs_foldl _ (fun u _ => onlyRegs_trans (onlyRegs_setReg u _ _ _) (onlyRegs_setReg _ _ _ _)) _ _
  rw [OnlyRegs] at h
  rw [h]
  exact ⟨rfl, rfl⟩

/-- The registers that a port's enabling moves. -/
def portRegs (p : Nat) : List Nat := [RegId.lnkCtrl.row.addr [p], RegId.lnkLane.row.addr [p], RegId.lnkStatus.row.addr [p]]

/-- Port p as it is enabled: its own registers and record alone. -/
structure PortEnabled (p : Nat) (s t : State) : Prop where
  fast : t.fast = s.fast
  slow : t.slow = s.slow
  enabled : t.regF .lnkCtrl [p] 0 0 = 1
  powered : (t.port p).powered = true
  others : ∀ q, q ≠ p → t.port q = s.port q
  regs : SameRegsBut (portRegs p) s t

theorem PortEnabled.stays_powered {p : Nat} (h : PortEnabled p s t) (q : Nat) : (s.port q).powered = true → (t.port q).powered = true := by
  by_cases hq : q = p
  · exact fun _ => hq ▸ h.powered
  · rw [h.others q hq]
    exact id

/-- What a port's fall to DOWN comes to while nothing is dropped. -/
structure PortDown (p : Nat) (s t : State) : Prop where
  fast : t.fast = s.fast
  slow : t.slow = s.slow
  ports : t.ports = s.ports
  regs : SameRegsBut [RegId.lnkStatus.row.addr [p], RegId.lnkLane.row.addr [p]] s t

theorem PortDown.trans {p : Nat} (h : PortDown p s t) (k : PortDown p t u) : PortDown p s u :=
  ⟨k.fast.trans h.fast, k.slow.trans h.slow, k.ports.trans h.ports, sameRegsBut_mono (sameRegsBut_trans h.regs k.regs) (by simp)⟩

theorem portDown_goDown (p reason : Nat) : PortDown p s (s.goDown p reason false) := by
  have hstatus : ∀ (u : State) hi lo v, PortDown p u (u.setRegF .lnkStatus [p] hi lo v) := fun u _ _ _ =>
    ⟨rfl, rfl, rfl, sameRegsBut_mono (sameRegsBut_setReg u _ _ _) (by simp)⟩
  have hlane : ∀ (u : State) hi lo v, PortDown p u (u.setRegF .lnkLane [p] hi lo v) := fun u _ _ _ =>
    ⟨rfl, rfl, rfl, sameRegsBut_mono (sameRegsBut_setReg u _ _ _) (by simp)⟩
  have hwidth : ∀ u : State, PortDown p u (u.setWidth p 0 0) := fun u =>
    (((hstatus u _ _ _).trans (hstatus _ _ _ _)).trans (hstatus _ _ _ _)).trans (hlane _ _ _ _)
  have hevent : ∀ (u : State) box code body, PortDown p u (u.event box code body) := fun _ _ _ _ => ⟨rfl, rfl, rfl, fun _ _ _ => rfl⟩
  have hdown := ((hstatus s 63 60 1).trans (hstatus _ 59 56 reason)).trans (hwidth _)
  rw [goDown]
  simp only [Bool.false_eq_true, if_false]
  split
  · exact hdown.trans (hevent _ _ _ _)
  · exact hdown

theorem portEnabled_lnkEnable (p : Nat) : PortEnabled p s (s.lnkEnable p true) := by
  have hbit := regF_setRegF_self s .lnkCtrl [p] 0 0 1 (by omega) (by omega)
  have hon : PortEnabled p s ((s.setRegF .lnkCtrl [p] 0 0 1).modPort p fun x => { x with powered := true }) :=
    ⟨rfl, rfl, hbit, congrArg Port.powered (port_modPort_self _ p _), fun q hq => port_modPort_ne _ p _ hq,
      sameRegsBut_mono (sameRegsBut_setRegF (s := s) .lnkCtrl [p] 0 0 1) (by simp [portRegs])⟩
  have hlane : ∀ u : State, PortDown p u (u.setReg .lnkLane [p] 0) := fun u =>
    ⟨rfl, rfl, rfl, sameRegsBut_mono (sameRegsBut_setReg u .lnkLane [p] 0) (by simp)⟩
  have hdown := fun u : State => (hlane u).trans (portDown_goDown p 0)
  have hctrl : RegId.lnkCtrl.row.addr [p] ∉ [RegId.lnkStatus.row.addr [p], RegId.lnkLane.row.addr [p]] := by
    simp [RegRow.addr, RegId.row, sumN]
  have hthen : ∀ u v : State, PortEnabled p s u → PortDown p u v → PortEnabled p s v := fun u v hu hv =>
    ⟨hv.fast.trans hu.fast, hv.slow.trans hu.slow, (congrArg (fun w => getF w 0 0) (reg_of_sameRegsBut hv.regs hctrl)).trans hu.enabled,
      by rw [port, hv.ports]; exact hu.powered, fun q hq => by rw [port, hv.ports]; exact hu.others q hq,
      sameRegsBut_mono (sameRegsBut_trans hu.regs hv.regs) (by simp [portRegs])⟩
  rw [lnkEnable]
  simp only [if_true]
  split
  · exact hthen _ _ hon (hdown _)
  · exact hon

theorem lnkCtrl_not_mem_portRegs {p q : Nat} (h : q ≠ p) : RegId.lnkCtrl.row.addr [q] ∉ portRegs p := by
  simp [portRegs, RegRow.addr, RegId.row, sumN]
  omega

theorem ethCtrl_not_mem_portRegs {p : Nat} (h : p < 16) (n : Nat) : RegId.ethCtrl.row.addr [n] ∉ portRegs p := by
  simp [portRegs, RegRow.addr, RegId.row, sumN]
  omega

/-- Each port with signal enabled in turn. -/
def portsEnabled (s : State) (signal : Half) : State :=
  (List.range 16).foldl (fun (t : State) p => if signal.getLsbD p then t.lnkEnable p true else t) s

theorem portsEnabled_enables (signal : Half) (p : PortId) (h : signal.getLsbD p.val = true) :
    (s.portsEnabled signal).regF .lnkCtrl [p.val] 0 0 = 1 ∧ ((s.portsEnabled signal).port p).powered = true := by
  refine foldl_establishes (P := fun (p : Nat) (t : State) => signal.getLsbD p = true → t.regF .lnkCtrl [p] 0 0 = 1 ∧ (t.port p).powered = true)
    (fun u q _ hq => ?_) (fun u q _ x hx hsig => ?_) s p.val (List.mem_range.mpr p.isLt) h
  · rw [if_pos hq]
    exact ⟨(portEnabled_lnkEnable q).enabled, (portEnabled_lnkEnable q).powered⟩
  · obtain ⟨hbit, hpow⟩ := hx hsig
    split
    · by_cases hxq : x = q
      · rw [hxq]
        exact ⟨(portEnabled_lnkEnable q).enabled, (portEnabled_lnkEnable q).powered⟩
      · refine ⟨?_, (portEnabled_lnkEnable q).stays_powered x hpow⟩
        rw [regF, reg_of_sameRegsBut (portEnabled_lnkEnable q).regs (lnkCtrl_not_mem_portRegs hxq)]
        exact hbit
    · exact ⟨hbit, hpow⟩

theorem portsEnabled_keeps (signal : Half) : (s.portsEnabled signal).fast = s.fast ∧ (s.portsEnabled signal).slow = s.slow ∧
    ∀ n, (s.portsEnabled signal).reg .ethCtrl [n] = s.reg .ethCtrl [n] := by
  refine List.foldlRecOn (motive := fun t : State => t.fast = s.fast ∧ t.slow = s.slow ∧ ∀ n, t.reg .ethCtrl [n] = s.reg .ethCtrl [n])
    (List.range 16) _ ⟨rfl, rfl, fun _ => rfl⟩ fun u hu p hp => ?_
  obtain ⟨hf, hs, hr⟩ := hu
  split
  · have hen := portEnabled_lnkEnable (s := u) p
    exact ⟨hen.fast.trans hf, hen.slow.trans hs, fun n =>
      (reg_of_sameRegsBut hen.regs (ethCtrl_not_mem_portRegs (List.mem_range.mp hp) n)).trans (hr n)⟩
  · exact ⟨hf, hs, hr⟩

theorem enablePorts_eq (signal : Half) :
    s.enablePorts signal = ((s.setRegF .ethCtrl [0] 0 0 1).setRegF .ethCtrl [1] 0 0 1).portsEnabled signal := rfl

/-- Both host Ethernet ports are enabled, and the ports' fall into training leaves them so. -/
theorem enablePorts_enables (signal : Half) : (s.enablePorts signal).fast = s.fast ∧ (s.enablePorts signal).slow = s.slow ∧
    (s.enablePorts signal).regF .ethCtrl [0] 0 0 = 1 ∧ (s.enablePorts signal).regF .ethCtrl [1] 0 0 = 1 := by
  have hself := fun (u : State) n => regF_setRegF_self u .ethCtrl [n] 0 0 1 (by omega) (by omega)
  have hne := regF_setRegF_ne (s.setRegF .ethCtrl [0] 0 0 1) .ethCtrl .ethCtrl [1] [0] 0 0 1 0 0 (by decide)
  obtain ⟨hfast, hslow, heth⟩ := portsEnabled_keeps (s := (s.setRegF .ethCtrl [0] 0 0 1).setRegF .ethCtrl [1] 0 0 1) signal
  rw [enablePorts_eq]
  refine ⟨hfast, hslow, ?_, ?_⟩
  · rw [regF, heth]
    exact hne.trans (hself s 0)
  · rw [regF, heth]
    exact hself _ 1

/-! ### Step 8: the retirement record (R527) -/

/-- An entry of the record in the fabric. -/
def entryApplied (s : State) (e : Retire) : State :=
  match e.bit with
  | some (cl, b) => s.setRegF .retireCluster [cl] b b 1
  | none => s

theorem applyRecord_eq : s.applyRecord = s.retireRec.entries.foldl entryApplied s := rfl

theorem onlyRegs_entryApplied (e : Retire) : OnlyRegs s (s.entryApplied e) := by
  rw [entryApplied]
  split <;> rfl

theorem regF_setBit {id : RegId} {ix : List Nat} {b : Nat} (h : b < 64) : (s.setRegF id ix b b 1).regF id ix b b = 1 := by
  rw [regF_setRegF_self s _ _ _ _ _ (le_refl b) h, Nat.add_sub_cancel_left, pow_one]

/-- A retired unit's bit stays set whatever another entry retires. -/
theorem retired_entryApplied (e : Retire) {cl b : Nat} (hb : b < 64) (h : s.regF .retireCluster [cl] b b = 1) :
    (s.entryApplied e).regF .retireCluster [cl] b b = 1 := by
  rw [entryApplied]
  split
  case h_1 c i _ =>
    by_cases hc : cl = c
    · subst hc
      by_cases hi : i < 64
      · by_cases hbi : b = i
        · subst hbi
          exact regF_setBit hb
        · exact (regF_setRegF_apart s _ _ _ _ _ _ _ (le_refl i) hi (by omega)).trans h
      · rw [setRegF, setF_beyond _ _ (by omega), regF, reg_setReg_self]
        exact h
    · refine (regF_setRegF_ne s _ _ _ _ _ _ _ _ _ ?_).trans h
      simp [RegRow.addr, RegId.row, sumN]
      omega
  case h_2 => exact h

theorem applyRecord_retires : ∀ e ∈ s.retireRec.entries, ∀ cl b, e.bit = some (cl, b) → b < 64 → s.applyRecord.regF .retireCluster [cl] b b = 1 := by
  rw [applyRecord_eq]
  refine foldl_establishes (P := fun (e : Retire) (t : State) => ∀ cl b, e.bit = some (cl, b) → b < 64 → t.regF .retireCluster [cl] b b = 1)
    (fun u e _ cl b he hb => ?_) (fun u e _ x hx cl b he hb => retired_entryApplied e hb (hx cl b he hb)) s
  simp only [entryApplied, he]
  exact regF_setBit hb

theorem sameRegsBut_applyRecord :
    SameRegsBut ((s.retireRec.entries.filterMap (·.bit)).map fun q => RegId.retireCluster.row.addr [q.1]) s s.applyRecord := by
  rw [applyRecord_eq]
  refine sameRegsBut_foldl fun u e he => ?_
  rw [entryApplied]
  split
  case h_1 c i hbit =>
    exact sameRegsBut_mono (sameRegsBut_setRegF _ _ _ _ _)
      (List.cons_subset.mpr ⟨List.mem_map.mpr ⟨_, List.mem_filterMap.mpr ⟨e, he, hbit⟩, rfl⟩, List.nil_subset _⟩)
  case h_2 => exact sameRegsBut_refl u _

theorem onlyRegs_applyRecord : OnlyRegs s s.applyRecord := onlyRegs_foldl _ (fun _ e => onlyRegs_entryApplied e) _ s

/-! ### The steps, by the step in progress -/

theorem stepDone_one (signal : Half) (h : s.bootStep = 1) :
    s.stepDone signal = if s.feedA.valid || s.feedB.valid then { s with bootStep := 2 } else s := by
  simp only [stepDone, h]

theorem stepDone_two (signal : Half) (h : s.bootStep = 2) : s.stepDone signal = { s.readFuses with bootStep := 4 } := by
  simp only [stepDone, h]

theorem stepDone_four (signal : Half) (h : s.bootStep = 4) : s.stepDone signal = { s with bootStep := 5 } := by
  simp only [stepDone, h]

theorem stepDone_five (signal : Half) (h : s.bootStep = 5) : s.stepDone signal = s.keeperBoot := by
  simp only [stepDone, h]

theorem stepDone_six (signal : Half) (h : s.bootStep = 6) : s.stepDone signal = { s.trainTiers.enablePorts signal with bootStep := 7 } := by
  simp only [stepDone, h]

theorem stepDone_seven (signal : Half) (h : s.bootStep = 7) : s.stepDone signal = if s.portsSettled then { s with bootStep := 8 } else s := by
  simp only [stepDone, h]

theorem stepDone_eight (signal : Half) (h : s.bootStep = 8) : s.stepDone signal = { s.warmStart with bootStep := 9 } := by
  simp only [stepDone, h]

theorem stepDone_nine (signal : Half) (h : s.bootStep = 9) : s.stepDone signal = s := by
  simp only [stepDone, h]

end State

theorem exec_powerUpStepComplete (signal : Half) (s : State) : exec (.powerUpStepComplete signal) s = .next (s.stepDone signal) := rfl

/-- Step 2: fuses and straps are read. -/
theorem fusesAreRead (s : State) (signal : Half) (h : s.bootStep = 2) : ∃ t, exec (.powerUpStepComplete signal) s = .next t ∧ t.bootStep = 4 ∧
    t.reg .weirCal [] = Config.weirCal &&& 0x0FFFFFFFFFFFFFFF ∧
    (∀ c : CoreId, t.reg .meaRepair (cix c) = Config.meaRepair c &&& 0xFFFFFFFF) ∧ t.regF .lifeStatus [] 2 0 = s.lifeState ∧
    t.reg .lifeChallenge [] = s.usedFresh.freeLong ∧ t.feedA.strap = (if s.feedA.mated = true then Config.strapPins 0 s.fresh else 0) ∧
    t.feedB.strap = (if s.feedB.mated = true then Config.strapPins 1 s.fresh else 0) ∧ SameMem s t := by
  obtain ⟨hcal, hmea, hlife, hchal⟩ := s.regs_readFuses
  have hframe := s.readFuses_frame
  generalize s.readFuses.mrs = m at hframe
  refine ⟨{ s with feedA := s.strapped s.feedA 0, feedB := s.strapped s.feedB 1, fresh := s.fresh + 2, mrs := m, bootStep := 4 }, ?_, rfl, ?_⟩
  · rw [exec_powerUpStepComplete, State.stepDone_two signal h, hframe]
  · rw [hframe] at hcal hmea hlife hchal
    exact ⟨hcal, hmea, hlife, hchal, rfl, rfl, State.MemKept.sameMem ⟨rfl, rfl, rfl, rfl, rfl, rfl⟩⟩

/-- Step 6: the memories are zero and the ports enabled. -/
theorem portsAreEnabled (s : State) (signal : Half) (h : s.bootStep = 6) : ∃ t, exec (.powerUpStepComplete signal) s = .next t ∧ t.bootStep = 7 ∧
    t.fast = Tier.zero ∧ t.slow = Tier.zero ∧ t.regF .ethCtrl [0] 0 0 = 1 ∧ t.regF .ethCtrl [1] 0 0 = 1 ∧
    ∀ p : PortId, signal.getLsbD p.val = true → t.regF .lnkCtrl [p.val] 0 0 = 1 ∧ (t.port p).powered = true := by
  obtain ⟨hfast, hslow⟩ := State.trainTiers_zero (s := s)
  obtain ⟨hf, hs, he0, he1⟩ := State.enablePorts_enables (s := s.trainTiers) signal
  refine ⟨{ s.trainTiers.enablePorts signal with bootStep := 7 }, ?_, rfl, hf.trans hfast, hs.trans hslow, he0, he1, fun p hp => ?_⟩
  · rw [exec_powerUpStepComplete, State.stepDone_six signal h]
  · exact State.portsEnabled_enables signal p hp

/-- Step 8: the retirement record is applied, and the fabric is clear. -/
theorem recordIsApplied (s : State) (signal : Half) (h : s.bootStep = 8) : ∃ t, exec (.powerUpStepComplete signal) s = .next t ∧
    t = { s with mrs := t.mrs, vats := [], pools := [], cores := [], clusters := [], bootStep := 9 } ∧
    (∀ e ∈ s.retireRec.entries, ∀ cl b, e.bit = some (cl, b) → b < 64 → t.regF .retireCluster [cl] b b = 1) ∧
    SameRegsBut ((s.retireRec.entries.filterMap (·.bit)).map fun q => RegId.retireCluster.row.addr [q.1]) s t := by
  have hwarm : s.warmStart = { s with mrs := s.applyRecord.mrs, vats := [], pools := [], cores := [], clusters := [] } := by
    have hregs := State.onlyRegs_applyRecord (s := s)
    rw [OnlyRegs] at hregs
    rw [State.warmStart, hregs]
  refine ⟨{ s with mrs := s.applyRecord.mrs, vats := [], pools := [], cores := [], clusters := [], bootStep := 9 }, ?_, rfl, ?_, ?_⟩
  · rw [exec_powerUpStepComplete, State.stepDone_eight signal h, hwarm]
  · exact fun e he cl b hb hlt => State.applyRecord_retires (s := s) e he cl b hb hlt
  · exact fun a d ha => State.sameRegsBut_applyRecord (s := s) a d ha

theorem powerUpGoesByItsSteps : Claims.PowerUpGoesByItsSteps := by
  intro s signal
  have hx := exec_powerUpStepComplete signal s
  refine ⟨fun h hv => ?_, fun h ha hb => ?_, fusesAreRead s signal, fun h => ?_, fun h => ?_, portsAreEnabled s signal, fun h hs => ?_,
    fun h hs => ?_, recordIsApplied s signal, fun h => ?_⟩
  · rw [hx, State.stepDone_one signal h, if_pos ((Bool.or_eq_true _ _).mpr hv)]
  · rw [hx, State.stepDone_one signal h, ha, hb]
    rfl
  · rw [hx, State.stepDone_four signal h]
  · rw [State.stepDone_five signal h] at hx
    cases hslot : s.loadKeys.bootSlot with
    | none =>
      obtain ⟨hmem, hcores, hparts, hstep, hshown⟩ := State.keeperBoot_stops hslot
      exact ⟨_, hx, hmem.sameMem, hcores, hparts, hstep.trans h, hshown⟩
    | some k =>
      obtain ⟨hmem, hcores, hparts, hstep, hweir, hready, hshown, hrun⟩ := State.booted_keeperBoot hslot
      exact ⟨_, hx, hmem.sameMem, hcores, hparts, hstep, hweir, hready, hshown, hrun⟩
  · rw [hx, State.stepDone_seven signal h, if_pos hs]
  · rw [hx, State.stepDone_seven signal h, hs]
    rfl
  · rw [hx, State.stepDone_nine signal h]

end Sys2Proof.Machine
end

section
/-! PROOF. The meter counts (R491-R497, R508, R509). -/

namespace Sys2Proof.Machine

/-! ### MTR_STATUS (R508) -/

/-- MTR_STATUS as the meter stands. -/
def Meter.status (m : Meter) : Nat :=
  m.seq.toNat % 2 ^ 32 * 2 ^ 32 + m.latest % 2 * 2 ^ 8 + (if m.ready then 32 else 0) + State.meterFlags m

theorem ite_eq_mul_toNat (b : Bool) (k : Nat) : (if b then k else 0) = k * b.toNat := by
  cases b
  · exact (Nat.mul_zero k).symm
  · exact (Nat.mul_one k).symm

/-- The word by the bits that its flags are. -/
theorem Meter.status_eq (m : Meter) : m.status = m.seq.toNat % 2 ^ 32 * 2 ^ 32 + m.latest % 2 * 2 ^ 8 + 32 * m.ready.toNat +
    (1 * m.tamper.toNat + 2 * m.fault.toNat + 4 * m.rangeA.toNat + 8 * m.rangeB.toNat + 16 * m.restart.toNat) := by
  simp only [status, State.meterFlags, ite_eq_mul_toNat]

/-- What each field of MTR_STATUS says. -/
theorem Meter.status_fields (m : Meter) :
    fld (m.status % 2 ^ 64) 63 32 = m.seq.toNat % 2 ^ 32 ∧ fld (m.status % 2 ^ 64) 5 5 = m.ready.toNat ∧
    fld (m.status % 2 ^ 64) 4 4 = m.restart.toNat ∧ fld (m.status % 2 ^ 64) 3 2 = 2 * m.rangeB.toNat + m.rangeA.toNat ∧
    fld (m.status % 2 ^ 64) 1 1 = m.fault.toNat ∧ fld (m.status % 2 ^ 64) 0 0 = m.tamper.toNat := by
  have h := m.status_eq
  have hready := m.ready.toNat_le
  have htamper := m.tamper.toNat_le
  have hfault := m.fault.toNat_le
  have ha := m.rangeA.toNat_le
  have hb := m.rangeB.toNat_le
  have hrestart := m.restart.toNat_le
  simp only [fld, Nat.shiftRight_eq_div_pow]
  omega

/-! ### What a millisecond and a record do to the meter (R494, R495) -/

/-- The meter after a millisecond in which each feed gave so many micro-joules. -/
def Meter.measured (m : Meter) (a b : Nat) (ra rb : Bool) : Meter :=
  { m with energyA := m.energyA + a, energyB := m.energyB + b, uptime := m.uptime + 1,
           powerA := BitVec.ofNat 32 (min a 0xFFFFFFFF), powerB := BitVec.ofNat 32 (min b 0xFFFFFFFF),
           peakA := BitVec.ofNat 32 (max m.peakA.toNat (min a 0xFFFFFFFF)), peakB := BitVec.ofNat 32 (max m.peakB.toNat (min b 0xFFFFFFFF)),
           rangeA := m.rangeA || ra || decide (1600000 < a), rangeB := m.rangeB || rb || decide (1600000 < b) }

/-- A peak is no lower than the power that it holds. -/
theorem toNat_peak (p : Word) (n : Nat) : (BitVec.ofNat 32 (max p.toNat (min n 0xFFFFFFFF))).toNat = max p.toNat (min n 0xFFFFFFFF) := by
  have := p.isLt
  rw [BitVec.toNat_ofNat, Nat.mod_eq_of_lt (by omega)]

/-- MTR_POWER's two fields. -/
theorem getF_power (a b : Nat) : getF (BitVec.ofNat 64 (min b 0xFFFFFFFF * 2 ^ 32 + min a 0xFFFFFFFF)) 31 0 = min a 0xFFFFFFFF ∧
    getF (BitVec.ofNat 64 (min b 0xFFFFFFFF * 2 ^ 32 + min a 0xFFFFFFFF)) 63 32 = min b 0xFFFFFFFF := by
  simp only [getF, fld, BitVec.toNat_ofNat, Nat.shiftRight_eq_div_pow]
  omega

/-- The buffer that the next record goes to: the other one, once there is a record. -/
def Meter.nextBuffer (m : Meter) : Nat := if m.records.isEmpty then 0 else 1 - m.latest

/-- The meter with a record signed into the other buffer. -/
def Meter.signed (m : Meter) (r : List Byte) : Meter :=
  { m with seq := m.seq + 1, latest := m.nextBuffer, records := m.records.set m.nextBuffer r, peakA := 0, peakB := 0, rangeA := false,
           rangeB := false, restart := false }

/-- The record before it stays in its own buffer. -/
theorem Meter.signed_keeps (m : Meter) (r : List Byte) (h : m.records ≠ []) (hl : m.latest < 2) :
    (m.signed r).latest = 1 - m.latest ∧ (m.signed r).records.get [] m.latest = m.records.get [] m.latest := by
  have hnext : m.nextBuffer = 1 - m.latest := by
    rw [nextBuffer, List.isEmpty_eq_false_iff.mpr h]
    rfl
  exact ⟨hnext, FMap.get_set_ne _ _ _ (by omega)⟩

namespace State

variable {s t : State}

theorem showFlags_eq : s.showFlags = s.setReg .mtrStatus [] (BitVec.ofNat 64 s.meter.status) := rfl

theorem sameRegsBut_showFlags : SameRegsBut [RegId.mtrStatus.row.base] s s.showFlags := sameRegsBut_setReg s .mtrStatus [] _

theorem regF_showFlags (hi lo : Nat) : s.showFlags.regF .mtrStatus [] hi lo = fld (s.meter.status % 2 ^ 64) hi lo := by
  rw [showFlags_eq, regF, reg_setReg_self, getF, BitVec.toNat_ofNat]

/-- The meter's state set anew, and shown. -/
def meterFlagged (s : State) (m : Meter) : State := ({ s with meter := m } : State).showFlags

theorem meterFlagged_frame (m : Meter) : s.meterFlagged m = { s with meter := m, mrs := (s.meterFlagged m).mrs } := rfl

theorem sameRegsBut_meterFlagged (m : Meter) : SameRegsBut [RegId.mtrStatus.row.base] s (s.meterFlagged m) := sameRegsBut_showFlags (s := { s with meter := m })

theorem regF_meterFlagged (m : Meter) (hi lo : Nat) : (s.meterFlagged m).regF .mtrStatus [] hi lo = fld (m.status % 2 ^ 64) hi lo := regF_showFlags hi lo

theorem ready_meterFlagged (m : Meter) : (s.meterFlagged m).ready = s.ready :=
  congrArg (fun w => getF w 0 0 == 1) (reg_of_sameRegsBut (sameRegsBut_meterFlagged m) (by decide))

/-! ### A failed self-check is recorded once (R497) -/

/-- The fault's error record. -/
def faultRecorded (s : State) : State :=
  ({ s with meter := { s.meter with told := true } } : State).record 3 0x0060 none 0xFFFF none none (beBytes 8 (s.reg .mtrStatus []).toNat)

theorem tellMeter_eq : s.tellMeter = if s.meter.fault && !s.meter.told && s.ready then s.faultRecorded else s := rfl

/-- What the record leaves of the meter, its status and the memories, and what it logs. -/
theorem faultRecorded_logs : s.faultRecorded.meter = { s.meter with told := true } ∧
    s.faultRecorded.reg .mtrStatus [] = s.reg .mtrStatus [] ∧ MemKept s s.faultRecorded ∧
    (s.faultRecorded.keeper.log.getLast?).map (·.code) = some 0x0060 := by
  have hkeep : MemKept s { s with meter := { s.meter with told := true } } := ⟨rfl, rfl, rfl, rfl, rfl, rfl⟩
  have hf := record_frame { s with meter := { s.meter with told := true } } 3 0x0060 none 0xFFFF none none (beBytes 8 (s.reg .mtrStatus []).toNat)
  have hready := readyStands_record (s := { s with meter := { s.meter with told := true } }) 3 0x0060 none 0xFFFF none none
    (beBytes 8 (s.reg .mtrStatus []).toNat)
  have hlog := congrArg (Option.map Prod.fst) (getLast?_log_record (s := { s with meter := { s.meter with told := true } }) 3 0x0060 none 0xFFFF none none
    (beBytes 8 (s.reg .mtrStatus []).toNat))
  rw [Option.map_map] at hlog
  refine ⟨?_, reg_of_sameRegsBut hready.regs (by decide), hkeep.trans (memKept_of_reports hf), hlog⟩
  rw [Reports] at hf
  rw [faultRecorded, hf]

/-! ### A millisecond's energy (R494, R495) -/

/-- The counts and the power shown in their registers. -/
def countsShown (s : State) (a b : Nat) : State :=
  ((s.setReg .mtrEnergyA [] (BitVec.ofNat 64 (s.meter.energyA / 1000))).setReg .mtrEnergyB [] (BitVec.ofNat 64 (s.meter.energyB / 1000))).setReg
    .mtrPower [] (BitVec.ofNat 64 (min b 0xFFFFFFFF * 2 ^ 32 + min a 0xFFFFFFFF))

theorem reg_countsShown (a b : Nat) :
    (s.countsShown a b).reg .mtrEnergyA [] = BitVec.ofNat 64 (s.meter.energyA / 1000) ∧
    (s.countsShown a b).reg .mtrEnergyB [] = BitVec.ofNat 64 (s.meter.energyB / 1000) ∧
    (s.countsShown a b).reg .mtrPower [] = BitVec.ofNat 64 (min b 0xFFFFFFFF * 2 ^ 32 + min a 0xFFFFFFFF) := by
  refine ⟨?_, ?_, reg_setReg_self _ _ _ _⟩
  · rw [countsShown, reg_setReg_ne _ _ _ _ _ _ (by decide), reg_setReg_ne _ _ _ _ _ _ (by decide), reg_setReg_self]
  · rw [countsShown, reg_setReg_ne _ _ _ _ _ _ (by decide), reg_setReg_self]

theorem meterWindow_eq (a b : Nat) (ra rb : Bool) : s.meterWindow a b ra rb =
    ((({ s with meter := s.meter.measured a b ra rb } : State).countsShown a b).showFlags).pmcDie 0x89 0 1 := rfl

/-- The die's counters stand apart from the meter's registers. -/
theorem reg_flags_pmcDie {id : RegId} (h : id.row.addr [] ∉ [RegId.mtrStatus.row.base]) (hid : 0x90080 < id.row.base) (ev unit n : Nat) :
    (s.showFlags.pmcDie ev unit n).reg id [] = s.reg id [] := by
  have hdie : id.row.addr [] ∉ dieCounters := fun hmem =>
    absurd (le_of_mem_dieCounters hmem) (Nat.not_le.mpr (hid.trans_le (base_le_addr id.row [])))
  rw [reg_of_sameRegsBut (sameRegsBut_pmcDie ev unit n) hdie, reg_of_sameRegsBut sameRegsBut_showFlags h]

/-- The frame of a millisecond's count: the meter, the registers and what the die's counters saw. -/
theorem flags_pmcDie_frame (ev unit n : Nat) : Counts s (s.showFlags.pmcDie ev unit n) :=
  counts_trans (b := s.showFlags) rfl (pmcDie_frame _ ev unit n)

/-- A change of the meter and the registers, then of the counters. -/
theorem counted_frame {u : State} {m : Meter} (hu : u = { s with meter := m, mrs := u.mrs }) (h : Counts u t) :
    t.meter = m ∧ t = { s with meter := t.meter, mrs := t.mrs, dieSeen := t.dieSeen } := by
  rw [Counts] at h
  generalize t.mrs = r at h
  generalize t.dieSeen = d at h
  generalize u.mrs = q at hu
  subst hu h
  exact ⟨rfl, rfl⟩

/-! ### A record (R495) -/

theorem meterRecordDone_eq (h : s.meter.ready = true) : s.meterRecordDone =
    s.meterFlagged (s.meter.signed (s.meterBody (s.meter.seq + 1) ++ ownSig 100 101 (s.meterBody (s.meter.seq + 1)))) := if_pos h

end State

/-! ### The commands -/

theorem exec_meterReady (s : State) : exec .meterReady s = .next s.meterReady := rfl
theorem exec_meterNvSave (s : State) : exec .meterNvSave s = .next s.meterSave := rfl
theorem exec_meterSupplyLoss (s : State) : exec .meterSupplyLoss s = .next s.meterLoss := rfl
theorem exec_meterWindowUpdate (a b : Nat) (ra rb : Bool) (s : State) :
    exec (.meterWindowUpdate a b ra rb) s = .next (s.meterWindow a b ra rb) := rfl
theorem exec_meterRecordComplete (s : State) : exec .meterRecordComplete s = .next s.meterRecordDone := rfl
theorem exec_meterTamper (s : State) : exec .meterTamper s = .next (s.meterFlagged { s.meter with tamper := true }) := rfl
theorem exec_meterSelfCheckFail (s : State) : exec .meterSelfCheckFail s =
    .next (if s.meter.fault then s else (s.meterFlagged { s.meter with fault := true, told := false }).tellMeter) := rfl
theorem exec_meterSelfCheckRecovery (s : State) :
    exec .meterSelfCheckRecovery s = .next (s.meterFlagged { s.meter with fault := false, told := false }) := rfl

/-- The meter's counts begin from what was saved (R493). -/
theorem meterBegins (s : State) (h : s.meter.ready = false) : ∃ t, exec .meterReady s = .next t ∧
    t.meter = { s.meter with ready := true, energyA := max s.meter.nvA s.meter.energyA, energyB := max s.meter.nvB s.meter.energyB, restart := true } ∧
    t.regF .mtrStatus [] 5 5 = 1 ∧ t.regF .mtrStatus [] 4 4 = 1 ∧ t = { s with meter := t.meter, mrs := t.mrs } ∧
    SameRegsBut [RegId.mtrStatus.row.base] s t := by
  set m : Meter := { s.meter with ready := true, energyA := max s.meter.nvA s.meter.energyA, energyB := max s.meter.nvB s.meter.energyB,
                                  restart := true }
  have hx : s.meterReady = s.meterFlagged m := if_neg (by rw [h]; exact Bool.false_ne_true)
  obtain ⟨-, hready, hrestart, -⟩ := m.status_fields
  exact ⟨_, (exec_meterReady s).trans (congrArg _ hx), rfl, (State.regF_meterFlagged m 5 5).trans hready,
    (State.regF_meterFlagged m 4 4).trans hrestart, State.meterFlagged_frame m, State.sameRegsBut_meterFlagged m⟩

/-- As the supply is lost the counts are saved, and the meter stops. -/
theorem meterStops (s : State) : ∃ t, exec .meterSupplyLoss s = .next t ∧ t.meter.nvA = s.meter.energyA ∧ t.meter.nvB = s.meter.energyB ∧
    t.meter.ready = false ∧ t.regF .mtrStatus [] 5 5 = 0 ∧ t = { s with meter := t.meter, mrs := t.mrs } ∧
    SameRegsBut [RegId.mtrStatus.row.base] s t :=
  ⟨_, exec_meterSupplyLoss s, rfl, rfl, rfl, State.regF_setRegF_self _ .mtrStatus [] 5 5 0 (by omega) (by omega), rfl,
    State.sameRegsBut_setReg s .mtrStatus [] _⟩

/-- A millisecond's energy is counted and shown. -/
theorem meterMeasures (s : State) (a b : Nat) (ra rb : Bool) : ∃ t, exec (.meterWindowUpdate a b ra rb) s = .next t ∧
    t.meter = s.meter.measured a b ra rb ∧ t.reg .mtrEnergyA [] = BitVec.ofNat 64 ((s.meter.energyA + a) / 1000) ∧
    t.reg .mtrEnergyB [] = BitVec.ofNat 64 ((s.meter.energyB + b) / 1000) ∧
    t.reg .mtrPower [] = BitVec.ofNat 64 (min b 0xFFFFFFFF * 2 ^ 32 + min a 0xFFFFFFFF) ∧
    t = { s with meter := t.meter, mrs := t.mrs, dieSeen := t.dieSeen } := by
  obtain ⟨ha, hb, hp⟩ := State.reg_countsShown (s := { s with meter := s.meter.measured a b ra rb }) a b
  have hf := State.flags_pmcDie_frame (s := ({ s with meter := s.meter.measured a b ra rb } : State).countsShown a b) 0x89 0 1
  obtain ⟨hmeter, hframe⟩ := State.counted_frame rfl hf
  refine ⟨_, exec_meterWindowUpdate a b ra rb s, ?_⟩
  rw [State.meterWindow_eq]
  refine ⟨?_, (State.reg_flags_pmcDie (by decide) (by decide) _ _ _).trans ha, (State.reg_flags_pmcDie (by decide) (by decide) _ _ _).trans hb,
    (State.reg_flags_pmcDie (by decide) (by decide) _ _ _).trans hp, ?_⟩
  · exact hmeter
  · exact hframe

/-- A record is signed into the other buffer under the next number. -/
theorem meterSigns (s : State) (h : s.meter.ready = true) : ∃ t, exec .meterRecordComplete s = .next t ∧
    t.meter = s.meter.signed (s.meterBody (s.meter.seq + 1) ++ ownSig 100 101 (s.meterBody (s.meter.seq + 1))) ∧
    t.regF .mtrStatus [] 63 32 = (s.meter.seq + 1).toNat % 2 ^ 32 ∧ t.regF .mtrStatus [] 3 2 = 0 ∧ t.regF .mtrStatus [] 4 4 = 0 ∧
    t = { s with meter := t.meter, mrs := t.mrs } := by
  obtain ⟨hseq, -, hrestart, hrange, -⟩ := (s.meter.signed (s.meterBody (s.meter.seq + 1) ++ ownSig 100 101 (s.meterBody (s.meter.seq + 1)))).status_fields
  refine ⟨_, exec_meterRecordComplete s, ?_⟩
  rw [State.meterRecordDone_eq h]
  exact ⟨rfl, (State.regF_meterFlagged _ _ _).trans hseq, (State.regF_meterFlagged _ _ _).trans hrange,
    (State.regF_meterFlagged _ _ _).trans hrestart, State.meterFlagged_frame _⟩

/-- A failed self-check, which a keeper that runs records at once. -/
theorem meterFailsOnce (s : State) (h : s.meter.fault = false) : ∃ t, exec .meterSelfCheckFail s = .next t ∧
    t.meter = { s.meter with fault := true, told := s.ready } ∧ t.regF .mtrStatus [] 1 1 = 1 ∧
    (s.ready = true → (t.keeper.log.getLast?).map (·.code) = some 0x0060) ∧ (s.ready = false → t.keeper = s.keeper) ∧ SameMem s t := by
  have hx := exec_meterSelfCheckFail s
  obtain ⟨-, -, -, -, hfault, -⟩ := ({ s.meter with fault := true, told := false } : Meter).status_fields
  have hbit := (State.regF_meterFlagged (s := s) { s.meter with fault := true, told := false } 1 1).trans hfault
  have hmem : State.MemKept s (s.meterFlagged { s.meter with fault := true, told := false }) := ⟨rfl, rfl, rfl, rfl, rfl, rfl⟩
  have hready := State.ready_meterFlagged (s := s) { s.meter with fault := true, told := false }
  rw [if_neg (by rw [h]; exact Bool.false_ne_true), State.tellMeter_eq, hready] at hx
  cases hr : s.ready with
  | false =>
    rw [hr] at hx
    exact ⟨_, hx, rfl, hbit, nofun, fun _ => rfl, hmem.sameMem⟩
  | true =>
    rw [hr] at hx
    obtain ⟨hmeter, hreg, hkept, hlog⟩ := State.faultRecorded_logs (s := s.meterFlagged { s.meter with fault := true, told := false })
    exact ⟨_, hx, hmeter, (congrArg (fun w => getF w 1 1) hreg).trans hbit, fun _ => hlog, nofun, (hmem.trans hkept).sameMem⟩

theorem theMeterCounts : Claims.TheMeterCounts := by
  intro s
  refine ⟨fun h => ?_, meterBegins s, exec_meterNvSave s, meterStops s, fun a b ra rb => ?_, fun h => ?_, fun h => ?_, ?_, fun h => ?_,
    meterFailsOnce s, ?_⟩
  · exact (exec_meterReady s).trans (congrArg _ (if_pos h))
  · obtain ⟨t, hx, hm, ha, hb, hp, hframe⟩ := meterMeasures s a b ra rb
    obtain ⟨hpa, hpb⟩ := getF_power a b
    refine ⟨t, hx, by rw [hm]; rfl, by rw [hm]; rfl, by rw [hm]; rfl, ?_, ?_, by rw [hm]; rfl, by rw [hm]; rfl,
      by rw [ha, BitVec.toNat_ofNat], by rw [hb, BitVec.toNat_ofNat], by rw [State.regF, hp, hpa], by rw [State.regF, hp, hpb], hframe⟩
    · rw [hm]
      exact toNat_peak _ a
    · rw [hm]
      exact toNat_peak _ b
  · exact (exec_meterRecordComplete s).trans (congrArg _ (if_neg (by rw [h]; exact Bool.false_ne_true)))
  · obtain ⟨t, hx, hm, hseq, hrange, hrestart, hframe⟩ := meterSigns s h
    refine ⟨t, hx, by rw [hm]; rfl, ?_, fun hne hl => ?_, hseq, hrange, hrestart, by rw [hm]; rfl, by rw [hm]; rfl, hframe⟩
    · rw [hm]
      exact FMap.get_set_self _ _ _ _
    · rw [hm]
      exact s.meter.signed_keeps _ hne hl
  · obtain ⟨-, -, -, -, -, htamper⟩ := ({ s.meter with tamper := true } : Meter).status_fields
    exact ⟨_, exec_meterTamper s, State.meterFlagged_frame _, (State.regF_meterFlagged _ 0 0).trans htamper, State.sameRegsBut_meterFlagged _⟩
  · rw [exec_meterSelfCheckFail, if_pos h]
  · obtain ⟨-, -, -, -, hfault, -⟩ := ({ s.meter with fault := false, told := false } : Meter).status_fields
    exact ⟨_, exec_meterSelfCheckRecovery s, State.meterFlagged_frame _, (State.regF_meterFlagged _ 1 1).trans hfault,
      State.sameRegsBut_meterFlagged _⟩

end Sys2Proof.Machine

open Sys2Proof Sys2Proof.Machine

/-- Settles O58: the emergencies and feeds, the steps of power-up and the meter, each by its own commands. -/
theorem powerAndMeter : Obligations.PowerAndMeter := ⟨emergenciesAndFeeds, powerUpGoesByItsSteps, theMeterCounts⟩

end

section
/-! SUPPORT. Register groups and mask registers: what an element reads after its group, and a bit after its mask, is written (R163, R168,
R170, R197). -/

namespace Sys2Proof.Machine

/-! ### One element (R163) -/

/-- A bit of a 32-bit word in which w bits from lo on are set. -/
theorem testBit_word_set (x : Word) {lo w i : Nat} (bits : Nat) (hw : 0 < w) (hlo : lo + w ≤ 32) (hi : i < 32) :
    (BitVec.ofNat 32 (x.toNat - fld x.toNat (lo + w - 1) lo * 2 ^ lo + bits % 2 ^ w * 2 ^ lo)).toNat.testBit i =
      if lo ≤ i ∧ i < lo + w then bits.testBit (i - lo) else x.toNat.testBit i := by
  have hset := setF_testBit (BitVec.ofNat 64 x.toNat) (lo + w - 1) lo bits i (by omega) (by omega)
  have hx : (BitVec.ofNat 64 x.toNat).toNat = x.toNat := by
    rw [BitVec.toNat_ofNat]
    exact Nat.mod_eq_of_lt (x.isLt.trans (by decide))
  have hlen : lo + w - 1 + 1 - lo = w := by omega
  have hrange : i ≤ lo + w - 1 ↔ i < lo + w := by omega
  have hi' : i < 64 := by omega
  simp only [setF, hx, hlen, hrange, BitVec.toNat_ofNat, Nat.testBit_mod_two_pow, hi', decide_true, Bool.true_and] at hset
  simpa only [BitVec.toNat_ofNat, Nat.testBit_mod_two_pow, hi, decide_true, Bool.true_and] using hset

/-- An element lies within one word. -/
theorem element_fits {w : Nat} (hw : w ∈ [8, 16, 32]) : 0 < w ∧ ∀ e, e * w % 32 + w ≤ 32 := by
  simp only [List.mem_cons, List.not_mem_nil, or_false] at hw
  rcases hw with rfl | rfl | rfl <;> exact ⟨by decide, fun e => by omega⟩

/-- Two elements of one word share no bit of it. -/
theorem elements_apart {w e i : Nat} (hw : w ∈ [8, 16, 32]) (hword : e * w / 32 = i * w / 32) (hne : e ≠ i) :
    e * w % 32 + w ≤ i * w % 32 ∨ i * w % 32 + w ≤ e * w % 32 := by
  simp only [List.mem_cons, List.not_mem_nil, or_false] at hw
  rcases hw with rfl | rfl | rfl <;> omega

theorem regs_groupWrite (v : Vec) (base w i bits k : Nat) : (groupWrite v base w i bits).regs.get 0 k =
    if k = base * 256 + i * w / 32 then
      let x := v.regs.get 0 (base * 256 + i * w / 32)
      BitVec.ofNat 32 (x.toNat - fld x.toNat (i * w % 32 + w - 1) (i * w % 32) * 2 ^ (i * w % 32) + bits % 2 ^ w * 2 ^ (i * w % 32))
    else v.regs.get 0 k := FMap.get_set ..

theorem masks_groupWrite (v : Vec) (base w i bits : Nat) : (groupWrite v base w i bits).masks = v.masks := rfl

/-- An element that is written reads as its bits, modulo its width; every other one as before. -/
theorem groupRead_groupWrite {w : Nat} (hw : w ∈ [8, 16, 32]) (v : Vec) (base i bits e : Nat) :
    groupRead (groupWrite v base w i bits) base w e = if e = i then bits % 2 ^ w else groupRead v base w e := by
  obtain ⟨hpos, hfits⟩ := element_fits hw
  by_cases hword : e * w / 32 = i * w / 32
  case neg =>
    have hne : e ≠ i := fun h => hword (by rw [h])
    rw [if_neg hne, groupRead, regs_groupWrite, if_neg (by omega), groupRead]
  refine Nat.eq_of_testBit_eq fun j => ?_
  have hlen : e * w % 32 + w - 1 + 1 - e * w % 32 = w := by omega
  have hread : ∀ v : Vec, (groupRead v base w e).testBit j =
      (decide (j < w) && (v.regs.get 0 (base * 256 + i * w / 32)).toNat.testBit (e * w % 32 + j)) := fun v => by
    rw [groupRead, fld_testBit, hlen, hword]
  rw [hread, regs_groupWrite, if_pos rfl]
  by_cases hj : j < w
  case neg =>
    split
    · simp [hj, Nat.testBit_mod_two_pow]
    · simp [hj, hread]
  have hin := hfits e
  rw [testBit_word_set _ _ hpos (hfits i) (by omega)]
  by_cases he : e = i
  · subst he
    simp [hj, Nat.testBit_mod_two_pow]
  · have hapart := elements_apart hw hword he
    rw [if_neg (by omega), if_neg he, hread]

/-! ### A group (R170) -/

/-- A group of which the listed elements are written, one behind another. -/
def writeGroup (v : Vec) (base w : Nat) (res : List (Nat × Nat)) : Vec := res.foldl (fun v r => groupWrite v base w r.1 r.2) v

/-- A masked instruction in zero mode begins with its group zero; any other with the group as it is. -/
def zeroed (v : Vec) (a : Act) (base w : Nat) : Vec :=
  if a.zm && a.mask.isSome then writeGroup v base w ((List.range a.lim).map fun e => (e, 0)) else v

theorem writeAct_eq (v : Vec) (a : Act) (base w : Nat) (res : List (Nat × Nat)) :
    writeAct v a base w res = writeGroup (zeroed v a base w) base w res := by
  rw [writeAct, zeroed, writeGroup, writeGroup, List.foldl_map]

theorem masks_writeGroup (v : Vec) (base w : Nat) (res : List (Nat × Nat)) : (writeGroup v base w res).masks = v.masks :=
  List.foldlRecOn (motive := fun u : Vec => u.masks = v.masks) res _ rfl fun u hu r _ => (masks_groupWrite u base w r.1 r.2).trans hu

theorem masks_writeAct (v : Vec) (a : Act) (base w : Nat) (res : List (Nat × Nat)) : (writeAct v a base w res).masks = v.masks := by
  rw [writeAct_eq, masks_writeGroup, zeroed]
  split
  · exact masks_writeGroup ..
  · rfl

/-- Words of no listed element stay. -/
theorem regs_writeGroup {base w k : Nat} {res : List (Nat × Nat)} (h : ∀ q ∈ res, k ≠ base * 256 + q.1 * w / 32) (v : Vec) :
    (writeGroup v base w res).regs.get 0 k = v.regs.get 0 k :=
  List.foldlRecOn (motive := fun u : Vec => u.regs.get 0 k = v.regs.get 0 k) res _ rfl fun u hu r hr => by
    rw [regs_groupWrite, if_neg (h r hr), hu]

/-- Of elements written once each, every one reads as its bits; an element not listed as before. -/
theorem groupRead_writeGroup {w : Nat} (hw : w ∈ [8, 16, 32]) (base e : Nat) {res : List (Nat × Nat)} (hn : (res.map (·.1)).Nodup)
    (v : Vec) : groupRead (writeGroup v base w res) base w e =
      ((res.find? fun q => q.1 == e).map fun q => q.2 % 2 ^ w).getD (groupRead v base w e) := by
  induction res generalizing v with
  | nil => rfl
  | cons r t ih =>
    rw [List.map_cons, List.nodup_cons] at hn
    obtain ⟨hr, ht⟩ := hn
    refine (ih ht (groupWrite v base w r.1 r.2)).trans ?_
    by_cases he : r.1 = e
    · have hnone : t.find? (fun q => q.1 == e) = none := List.find?_eq_none.mpr fun q hq hqe =>
        hr (he ▸ beq_iff_eq.mp hqe ▸ List.mem_map_of_mem hq)
      rw [hnone, List.find?_cons_of_pos (by simpa using he)]
      exact (groupRead_groupWrite hw v base r.1 r.2 e).trans (if_pos he.symm)
    · rw [List.find?_cons_of_neg (by simpa using he), groupRead_groupWrite hw, if_neg (Ne.symm he)]

theorem groupRead_zeroed {w : Nat} (hw : w ∈ [8, 16, 32]) (v : Vec) (a : Act) (base e : Nat) :
    groupRead (zeroed v a base w) base w e = if (a.zm && a.mask.isSome) = true ∧ e < a.lim then 0 else groupRead v base w e := by
  have hn : (((List.range a.lim).map fun e => (e, 0)).map (·.1) : List Nat).Nodup := by simpa [Function.comp_def] using List.nodup_range
  rw [zeroed]
  by_cases hz : (a.zm && a.mask.isSome) = true
  case neg => rw [if_neg hz, if_neg fun h => hz h.1]
  rw [if_pos hz, groupRead_writeGroup hw _ _ hn]
  by_cases he : e < a.lim
  · have hmem : (e, 0) ∈ (List.range a.lim).map fun e => (e, 0) := List.mem_map.mpr ⟨e, List.mem_range.mpr he, rfl⟩
    obtain ⟨q, hq⟩ : ∃ q, ((List.range a.lim).map fun e => (e, 0)).find? (fun q => q.1 == e) = some q :=
      Option.isSome_iff_exists.mp (List.find?_isSome.mpr ⟨(e, 0), hmem, beq_self_eq_true e⟩)
    obtain ⟨i, -, rfl⟩ := List.mem_map.mp (List.mem_of_find?_eq_some hq)
    rw [hq, if_pos ⟨hz, he⟩]
    exact Nat.zero_mod _
  · have hnone : ((List.range a.lim).map fun e => (e, 0)).find? (fun q => q.1 == e) = none := List.find?_eq_none.mpr fun q hq => by
      obtain ⟨i, hi, rfl⟩ := List.mem_map.mp hq
      have := List.mem_range.mp hi
      simp only [beq_iff_eq]
      omega
    rw [hnone, if_neg fun h => he h.2]
    rfl

/-- Words outside a group stay. -/
theorem regs_writeAct {a : Act} {base w k : Nat} {res : List (Nat × Nat)} (hlim : a.lim ≤ 1024) (hres : ∀ q ∈ res, q.1 < 1024)
    (hw : w ∈ [8, 16, 32]) (hk : k < 256 * base ∨ 256 * base + 32 * w ≤ k) (v : Vec) :
    (writeAct v a base w res).regs.get 0 k = v.regs.get 0 k := by
  have hout : ∀ e, e < 1024 → k ≠ base * 256 + e * w / 32 := fun e he => by
    simp only [List.mem_cons, List.not_mem_nil, or_false] at hw
    rcases hw with rfl | rfl | rfl <;> omega
  rw [writeAct_eq, regs_writeGroup fun q hq => hout q.1 (hres q hq), zeroed]
  split
  · refine regs_writeGroup (fun q hq => ?_) v
    obtain ⟨i, hi, rfl⟩ := List.mem_map.mp hq
    exact hout i ((List.mem_range.mp hi).trans_le hlim)
  · rfl

theorem groupWrites : Claims.GroupWrites := by
  intro v a base w e res hw _ hn hres hlim
  refine ⟨?_, masks_writeAct v a base w res, fun k hk => regs_writeAct hlim hres hw hk v⟩
  rw [writeAct_eq, groupRead_writeGroup hw base e hn, groupRead_zeroed hw]
  cases res.find? fun q => q.1 == e with
  | none => rfl
  | some q => rfl

/-! ### A mask (R168, R197) -/

/-- Mask bits set one behind another. -/
def maskSets (x : BitVec 1024) (res : List (Nat × Bool)) : BitVec 1024 :=
  res.foldl (fun (x : BitVec 1024) r => if r.2 then x ||| BitVec.twoPow 1024 r.1 else x &&& ~~~BitVec.twoPow 1024 r.1) x

/-- A mask register in which zero mode begins with zeros below its end. -/
def zeroedMask (x : BitVec 1024) (a : Act) : BitVec 1024 :=
  if a.zm && a.mask.isSome then x &&& (BitVec.allOnes 1024 <<< a.lim) else x

theorem writeMask_eq (v : Vec) (a : Act) (m : Nat) (res : List (Nat × Bool)) :
    writeMask v a m res = { v with masks := v.masks.set m (maskSets (zeroedMask (maskOf v m) a) res) } := rfl

theorem getLsbD_maskSet (x : BitVec 1024) (i j : Nat) (b : Bool) (hi : i < 1024) :
    (if b then x ||| BitVec.twoPow 1024 i else x &&& ~~~BitVec.twoPow 1024 i).getLsbD j = if j = i then b else x.getLsbD j := by
  by_cases hj : j = i
  · subst hj
    cases b <;> simp [hi]
  · have hij : ¬ i = j := Ne.symm hj
    cases b with
    | true => simp [hj, hij]
    | false =>
      by_cases hlt : j < 1024
      · simp [hj, hlt]
      · simp [hj, hlt, BitVec.getLsbD_of_ge x j (by omega)]

/-- The bits of a function over listed elements are set; the others stay. -/
theorem getLsbD_maskSets {l : List Nat} (hl : ∀ i ∈ l, i < 1024) (f : Nat → Bool) (x : BitVec 1024) (j : Nat) :
    (maskSets x (l.map fun i => (i, f i))).getLsbD j = if j ∈ l then f j else x.getLsbD j := by
  induction l generalizing x with
  | nil => rfl
  | cons i t ih =>
    obtain ⟨hi, ht⟩ := List.forall_mem_cons.mp hl
    refine (ih ht _).trans ?_
    rw [getLsbD_maskSet x i j (f i) hi]
    by_cases hj : j = i
    · subst hj
      simp
    · simp [hj]

theorem maskOf_writeMask_self (v : Vec) (a : Act) (m : Nat) (res : List (Nat × Bool)) :
    maskOf (writeMask v a m res) m = maskSets (zeroedMask (maskOf v m) a) res := FMap.get_set_self ..

theorem maskOf_writeMask_ne (v : Vec) (a : Act) {m k : Nat} (res : List (Nat × Bool)) (h : k ≠ m) :
    maskOf (writeMask v a m res) k = maskOf v k := FMap.get_set_ne _ _ _ h

theorem regs_writeMask (v : Vec) (a : Act) (m : Nat) (res : List (Nat × Bool)) : (writeMask v a m res).regs = v.regs := rfl

theorem zeroedMask_of_not_zeroing {a : Act} (h : (a.zm && a.mask.isSome) = false) (x : BitVec 1024) : zeroedMask x a = x := by
  rw [zeroedMask, h]
  rfl

theorem mem_elems {a : Act} {i : Nat} (h : i ∈ a.elems) : i < a.n := List.mem_range.mp (List.mem_of_mem_filter h)

end Sys2Proof.Machine
end

section
/-! SUPPORT. What an instruction of a vector engine leaves: the engines' registers and masks stay as it fires and counts, its result is
written to its own engine, and only its core, the registers and the partitions' records differ (R68, R168, R172, R183). -/

namespace Sys2Proof.Machine.State

variable {s t u : State} {c : Nat}

/-! ### The engines of a core -/

theorem vecOf_setVec (k : Core) (eng j : Nat) (v : Vec) : vecOf (setVec k eng v) j = if eng = 0 ↔ j = 0 then v else vecOf k j := by
  by_cases he : eng = 0 <;> by_cases hj : j = 0 <;> simp [vecOf, setVec, he, hj]

theorem vecAt_modVec (eng j : Nat) (f : Vec → Vec) :
    (s.modVec c eng f).vecAt c j = if eng = 0 ↔ j = 0 then f (s.vecAt c eng) else s.vecAt c j := by
  rw [vecAt, modVec, core_modCore_self, vecOf_setVec]
  rfl

theorem vecAt_modVec_self (eng : Nat) (f : Vec → Vec) : (s.modVec c eng f).vecAt c eng = f (s.vecAt c eng) := by
  rw [vecAt_modVec, if_pos Iff.rfl]

theorem vecAt_modVec_other (eng : Fin 2) (f : Vec → Vec) : (s.modVec c eng f).vecAt c (1 - eng.val) = s.vecAt c (1 - eng.val) := by
  rw [vecAt_modVec, if_neg (by omega)]

/-- Only core c, the registers and the partitions' records differ, and the core's vector engines are as before. -/
structure VecKept (c : Nat) (s t : State) : Prop where
  only : OnlyCore c s t
  vecs : ∀ j, t.vecAt c j = s.vecAt c j

theorem onlyCore_trans (h : OnlyCore c s t) (k : OnlyCore c t u) : OnlyCore c s u := by
  obtain ⟨hframe, hothers⟩ := h
  obtain ⟨kframe, kothers⟩ := k
  exact ⟨by rw [kframe, hframe], fun j hj => (kothers j hj).trans (hothers j hj)⟩

theorem VecKept.trans (h : VecKept c s t) (k : VecKept c t u) : VecKept c s u :=
  ⟨onlyCore_trans h.only k.only, fun j => (k.vecs j).trans (h.vecs j)⟩

theorem vecKept_refl (s : State) : VecKept c s s := ⟨⟨rfl, fun _ _ => rfl⟩, fun _ => rfl⟩

theorem vecKept_onlyRegs (h : OnlyRegs s t) : VecKept c s t := by
  refine ⟨⟨?_, fun k _ => core_of_onlyRegs h k⟩, fun j => by rw [vecAt, vecAt, core_of_onlyRegs h]⟩
  rw [OnlyRegs] at h
  rw [h]

theorem onlyCore_modCore (f : Core → Core) : OnlyCore c s (s.modCore c f) := ⟨rfl, fun _ hk => core_modCore_ne _ _ _ hk⟩

theorem vecKept_modCore {f : Core → Core} (hf : ∀ k j, vecOf (f k) j = vecOf k j) : VecKept c s (s.modCore c f) :=
  ⟨onlyCore_modCore f, fun j => by rw [vecAt, core_modCore_self, hf, vecAt]⟩

theorem vecKept_modEntry (uid : Nat) (f : Entry → Entry) : VecKept c s (s.modEntry c uid f) := vecKept_modCore fun _ _ => rfl

theorem vecKept_modPart (p : Nat) (f : Part → Part) : VecKept c s (s.modPart p f) := ⟨⟨rfl, fun _ _ => rfl⟩, fun _ => rfl⟩

theorem vecKept_pmc (k ev n : Nat) : VecKept c s (s.pmc k ev n) := vecKept_onlyRegs (pmc_frame s k ev n)

theorem vecKept_setReg (id : RegId) (ix : List Nat) (v : Long) : VecKept c s (s.setReg id ix v) := vecKept_onlyRegs (onlyRegs_setReg s id ix v)

theorem vecKept_setVecFlags (eng : Nat) (e : Entry) (fl : Nat) : VecKept c s (s.setVecFlags c eng e fl) := by
  rw [setVecFlags]
  dsimp only
  split
  · exact vecKept_refl s
  · split
    · exact ((vecKept_setReg _ _ _).trans (vecKept_modPart _ _)).trans (vecKept_pmc _ _ _)
    · exact vecKept_setReg _ _ _

theorem vecKept_countGauge (p : Nat) (step tensor : Word) (cs : List GClass) : VecKept c s (s.countGauge p step tensor cs) := by
  obtain ⟨ps, hps⟩ := countGauge_frame (s := s) p step tensor cs
  rw [hps]
  exact ⟨⟨rfl, fun _ _ => rfl⟩, fun _ => rfl⟩

/-- What moves only a core, registers and the partitions' records leaves every memory as it was. -/
theorem memKept_of_onlyCore (h : OnlyCore c s t) : MemKept s t := by
  rw [h.1]
  exact ⟨rfl, rfl, rfl, rfl, rfl, rfl⟩

/-- Only core c, the registers and the partitions' records differ; engine eng holds v and the core's other engine what it held. -/
structure VecWritten (c eng : Nat) (v : Vec) (s t : State) : Prop where
  only : OnlyCore c s t
  vec : t.vecAt c eng = v
  other : t.vecAt c (1 - eng) = s.vecAt c (1 - eng)

/-- A result is written to an engine once an instruction has fired and counted. -/
theorem VecKept.modVec (h : VecKept c s t) (eng : Fin 2) {f : Vec → Vec} {v : Vec} (hv : f (s.vecAt c eng) = v) :
    VecWritten c eng.val v s (t.modVec c eng f) :=
  ⟨onlyCore_trans h.only (onlyCore_modCore _), by rw [vecAt_modVec_self, h.vecs, hv], by rw [vecAt_modVec_other, h.vecs]⟩

theorem VecWritten.kept {eng : Nat} {v : Vec} (h : VecWritten c eng v s t) (k : VecKept c t u) : VecWritten c eng v s u :=
  ⟨onlyCore_trans h.only k.only, (k.vecs _).trans h.vec, (k.vecs _).trans h.other⟩

/-! ### Firing (R68, R185) -/

theorem vecKept_markFired (e : Entry) : VecKept c s (s.markFired c e) := by
  obtain ⟨-, honly, -⟩ := effect_of_coreOnly (coreOnly_markFired (s := s) (c := c) e) (fresh_markFired e)
  exact ⟨honly, (sameInputs_markFired e).vecAt⟩

theorem vecKept_vecFired (eng : Nat) (e : Entry) : VecKept c s (s.vecFired c eng e) :=
  (vecKept_markFired e).trans (vecKept_onlyRegs (onlyRegs_vecStatus eng _))

theorem parts_vecFired (eng : Nat) (e : Entry) : (s.vecFired c eng e).parts = s.parts :=
  (parts_of_onlyRegs (onlyRegs_vecStatus eng _)).trans (sameWaits_markFired e).parts

theorem core_vecFired (eng : Nat) (e : Entry) : (s.vecFired c eng e).core c = (s.markFired c e).core c :=
  core_of_onlyRegs (onlyRegs_vecStatus eng _) c

/-- An instruction of a vector engine that fires is its meaning on the state in which it has fired. -/
theorem fireVecOp_fires {eng oc : Nat} {x : Entry} (hf : Fires s c (2 + eng) oc (s.vecAccepts c eng) x) (body : State → Entry → State) :
    s.fireVecOp c eng oc body = body (s.vecFired c eng x) (s.firedEntry c x) := fireOp_fires hf _

/-- How an instruction of layout R masks its elements (R168). -/
def stripAct (s : State) (c eng : Nat) (x : Entry) : Act :=
  actOf (s.vecAt c eng) x.vset (rWord x.op).m (rWord x.op).zm (rWord x.op).mreg

/-- The state in which a Strip-profile instruction of layout R has fired and counted its beats (R172). -/
def stripBegun (s : State) (c eng : Nat) (x : Entry) : State :=
  (s.vecFired c eng x).vecBeats c (stripBeats (s.stripAct c eng x).n (opWidth x.opcode (rWord x.op)))

/-- Beats are counted in registers alone. -/
theorem onlyRegs_stripBegun (eng : Nat) (x : Entry) : OnlyRegs (s.vecFired c eng x) (s.stripBegun c eng x) := by
  rw [stripBegun, vecBeats]
  exact pmc_frame ..

theorem vecKept_stripBegun (eng : Nat) (x : Entry) : VecKept c s (s.stripBegun c eng x) :=
  (vecKept_vecFired eng x).trans (vecKept_onlyRegs (onlyRegs_stripBegun eng x))

theorem sameInputs_stripBegun (eng : Nat) (x : Entry) : SameInputs c s (s.stripBegun c eng x) :=
  (sameInputs_vecFired eng x).trans (sameInputs_onlyRegs (onlyRegs_stripBegun eng x))

theorem parts_stripBegun (eng : Nat) (x : Entry) : (s.stripBegun c eng x).parts = s.parts :=
  (parts_of_onlyRegs (onlyRegs_stripBegun eng x)).trans (parts_vecFired eng x)

theorem core_stripBegun (eng : Nat) (x : Entry) : (s.stripBegun c eng x).core c = (s.markFired c x).core c :=
  (core_of_onlyRegs (onlyRegs_stripBegun eng x) c).trans (core_vecFired eng x)

/-- An instruction of layout R does its work behind its beats, and none over no element (R168). -/
theorem strip_fires (eng : Nat) (x : Entry) (body : State → RWord → Vec → Act → State) :
    (s.vecFired c eng x).strip c eng (s.firedEntry c x) body =
      if (s.stripAct c eng x).n = 0 then s.stripBegun c eng x
      else body (s.stripBegun c eng x) (rWord x.op) (s.vecAt c eng) (s.stripAct c eng x) := by
  rw [strip, vecAt_vecFired]
  rfl

/-- The draws of an instruction are the same once it has fired (R55, R169). -/
theorem SameInputs.stripDraw (h : SameInputs c s t) (x : Entry) (conv i : Nat) :
    t.stripDraw c (s.firedEntry c x) conv i = s.stripDraw c x conv i := by
  simp only [State.stripDraw, drawKey, h.holds, h.imgs, firedEntry]

end Sys2Proof.Machine.State
end

section
/-! PROOF. The element-wise instructions in the Strip profile (R168-R170, R191-R198). -/

namespace Sys2Proof.Machine

namespace State

variable {s : State} {c : Nat}

/-- The format of an element-wise instruction's sources: its own, but for a conversion's (R192, R198). -/
def srcFmt (x : Entry) : Nat := if x.opcode = 0x40 then (rWord x.op).sfmt else (rWord x.op).fmt

/-- The source elements of an element-wise instruction, each with its format. -/
def stripSrcs (s : State) (c eng : Nat) (x : Entry) (i : Nat) : List (Nat × Nat) :=
  ([(rWord x.op).vs1, (rWord x.op).vs2, (rWord x.op).vs3].take (arity x.opcode)).map fun b =>
    (srcFmt x, groupRead (s.vecAt c eng) b (fmtWidth (srcFmt x)) i)

/-- What its operation gives for element i. -/
def stripResult (s : State) (c eng : Nat) (x : Entry) (i : Nat) : ERes :=
  elemOp x.opcode (rWord x.op).fmt (rWord x.op).conv (s.stripDraw c x (rWord x.op).conv i) (s.stripSrcs c eng x i)

/-- An element-wise instruction without a poison element on its way into an integer writes its results; its flags and the gauge of a
conversion are counted beside. -/
theorem stripElem_writes {eng : Fin 2} {x : Entry} (hn : 0 < (s.stripAct c eng x).n)
    (hpoison : ∀ i ∈ (s.stripAct c eng x).elems, poisonInt x.opcode (rWord x.op).fmt (s.stripSrcs c eng x i) = false) :
    VecWritten c eng.val (writeAct (s.vecAt c eng) (s.stripAct c eng x) (rWord x.op).vd (fmtWidth (rWord x.op).fmt)
      ((s.stripAct c eng x).elems.map fun i => (i, (s.stripResult c eng x i).bits))) s
      ((s.vecFired c eng x).stripElem c eng (s.firedEntry c x)) := by
  have hnone : (s.stripAct c eng x).elems.find? (fun i => poisonInt x.opcode (rWord x.op).fmt (s.stripSrcs c eng x i)) = none :=
    List.find?_eq_none.mpr fun i hi => by rw [hpoison i hi]; exact Bool.false_ne_true
  have hresult : ∀ i, elemOp x.opcode (rWord x.op).fmt (rWord x.op).conv
      ((s.stripBegun c eng x).stripDraw c (s.firedEntry c x) (rWord x.op).conv i) (s.stripSrcs c eng x i) = s.stripResult c eng x i :=
    fun i => by rw [(sameInputs_stripBegun eng.val x).stripDraw, stripResult]
  have hwrite := (vecKept_stripBegun (s := s) (c := c) eng.val x).modVec eng (f := fun v => writeAct v (s.stripAct c eng x)
    (rWord x.op).vd (fmtWidth (rWord x.op).fmt) ((s.stripAct c eng x).elems.map fun i => (i, (s.stripResult c eng x i).bits))) rfl
  have hop : (s.firedEntry c x).opcode = x.opcode := rfl
  have hfmt : (if x.opcode = 0x40 then getF (s.firedEntry c x).op 51 48 else getF (s.firedEntry c x).op 55 52) = srcFmt x := rfl
  rw [stripElem, strip_fires, if_neg (by omega)]
  generalize s.stripBegun c eng x = u at hresult hwrite ⊢
  simp only [hop, hfmt, ← stripSrcs.eq_1]
  rw [hnone]
  simp only [hresult, List.map_map, Function.comp_def]
  split
  · exact (hwrite.kept (vecKept_setVecFlags _ _ _)).kept (vecKept_countGauge _ _ _ _)
  · exact hwrite.kept (vecKept_setVecFlags _ _ _)

end State
end Sys2Proof.Machine

open Sys2Proof Sys2Proof.Machine

/-- Settles O17: the instruction writes its results to its engine; flags, gauges and beats are counted beside. -/
theorem stripElementwise : Obligations.StripElementwise := by
  rintro s c eng x ⟨instr, oc⟩ hq hf htensor r v a sf srcs hn hpoison
  obtain rfl : x.opcode = oc := hf.2
  have h := State.stripElem_writes (c := c) hn hpoison
  refine ⟨_, ?_, h.vec, h.other, h.only⟩
  rw [exec_elementwise hq s, State.fireBoth_strip hf htensor, (State.memKept_of_onlyCore h.only).settle]
end

section
/-! PROOF. Register groups written, and instructions over no element (R163, R168, R170). -/

namespace Sys2Proof.Machine

/-- An instruction that has done no more than fire and count is done. -/
theorem State.phase_of_mem_stripBegun {s : State} {c eng : Nat} {x y : Entry} (hy : y ∈ ((s.stripBegun c eng x).core c).window)
    (hu : y.uid = x.uid) : y.phase = .done := by
  rw [State.core_stripBegun] at hy
  exact State.phase_of_mem_markFired hy hu

/-- VMOVI and the slides give every active element a value of its own. -/
theorem exec_stripBits {c : CoreId} {eng : Fin 2} {q : Instr × Nat}
    (hq : q ∈ [(.vmovi c eng, 0x11), (.vsldn c eng, 0x49), (.vslup c eng, 0x4A)]) (s : State) :
    ∃ f, exec q.1 s = .next (s.fireVecOp c eng q.2 fun t e => t.stripBits c eng e f) := by
  simp only [List.mem_cons, List.not_mem_nil, or_false] at hq
  rcases hq with rfl | rfl | rfl
  · exact ⟨fun r _ _ _ => State.moviBits r.fmt r.imm, rfl⟩
  · exact ⟨fun r v a i => if i + r.imm % 1024 < a.n then groupRead v r.vs1 (fmtWidth r.fmt) (i + r.imm % 1024) else 0, rfl⟩
  · exact ⟨fun r v _ i => if r.imm % 1024 ≤ i then groupRead v r.vs1 (fmtWidth r.fmt) (i - r.imm % 1024) else 0, rfl⟩

theorem noElementsChangeNothing : Claims.NoElementsChangeNothing := by
  intro s c eng x q hq hf hn
  have hkept := State.vecKept_stripBegun (s := s) (c := c) eng.val x
  obtain ⟨f, hx⟩ := exec_stripBits hq s
  rw [State.fireVecOp_fires hf, State.stripBits, State.strip_fires, if_pos (by exact hn)] at hx
  exact ⟨_, hx, hkept.vecs, fun e he hu => State.phase_of_mem_stripBegun he hu, State.parts_stripBegun eng.val x, hkept.only⟩

end Sys2Proof.Machine

open Sys2Proof Sys2Proof.Machine

/-- Settles O20: each element is read from the word it is written to, and where there is none an instruction does no more than fire. -/
theorem groupWriteSemantics : Obligations.GroupWriteSemantics := ⟨groupWrites, noElementsChangeNothing⟩
end

section
/-! PROOF. Compares, mask logic, and the instructions that deliver a scalar (R179, R197, R202). -/

namespace Sys2Proof.Machine

/-! ### Masks (R197) -/

/-- What a write of mask bits over the active elements leaves, in which zero mode may have begun with zeros. -/
theorem maskOf_writeMask_elems (v : Vec) {a b : Act} (m : Nat) (f : Nat → Bool) (hn : a.n ≤ 1024) :
    (∀ i ∈ a.elems, (maskOf (writeMask v b m (a.elems.map fun i => (i, f i))) m).getLsbD i = f i) ∧
    (∀ k, k ≠ m → maskOf (writeMask v b m (a.elems.map fun i => (i, f i))) k = maskOf v k) ∧
    ((b.zm && b.mask.isSome) = false → ∀ i, i ∉ a.elems →
      (maskOf (writeMask v b m (a.elems.map fun i => (i, f i))) m).getLsbD i = (maskOf v m).getLsbD i) := by
  have hbit := getLsbD_maskSets (fun i hi => (mem_elems (a := a) hi).trans_le hn) f (zeroedMask (maskOf v m) b)
  refine ⟨fun i hi => ?_, fun k hk => maskOf_writeMask_ne v b _ hk, fun hz i hi => ?_⟩
  · rw [maskOf_writeMask_self, hbit, if_pos hi]
  · rw [maskOf_writeMask_self, hbit, if_neg hi, zeroedMask_of_not_zeroing hz]

namespace State

variable {s : State} {c : Nat}

/-- The bit that a compare or a mask instruction gives for element i. -/
def maskBit (s : State) (c eng : Nat) (x : Entry) (f : Bool → Bool → Bool) (i : Nat) : Bool :=
  let r := rWord x.op
  let v := s.vecAt c eng
  if x.opcode = 0x38 then cmpPred (r.imm % 8) r.fmt (groupRead v r.vs1 (fmtWidth r.fmt) i) (groupRead v r.vs2 (fmtWidth r.fmt) i)
  else f ((maskOf v (r.vs1 % 8)).getLsbD i) ((maskOf v (r.vs2 % 8)).getLsbD i)

end State

theorem exec_vcmp (c : CoreId) (eng : Fin 2) (s : State) :
    exec (.vcmp c eng) s = .next (s.fireVecOp c eng 0x38 fun t x => t.fireVcmp c eng x false) := rfl

/-- The mask instructions but for VCMP. -/
theorem exec_maskOp {c : CoreId} {eng : Fin 2} {q : Instr × Nat × (Bool → Bool → Bool)}
    (hq : q ∈ [(.vmand c eng, 0x3C, fun a b => a && b), (.vmor c eng, 0x3D, fun a b => a || b), (.vmxor c eng, 0x3E, fun a b => a != b),
      (.vmnot c eng, 0x3F, fun a _ => !a)]) (s : State) :
    exec q.1 s = .next (s.fireVecOp c eng q.2.1 fun t x => t.fireMaskOp c eng x q.2.2) ∧ q.2.1 ≠ 0x38 := by
  simp only [List.mem_cons, List.not_mem_nil, or_false] at hq
  rcases hq with rfl | rfl | rfl | rfl <;> exact ⟨rfl, by norm_num⟩

/-- A compare or a mask instruction writes its bits to its mask register, where it zeroes up to VLMAX or up to n. -/
theorem exec_maskWrite {s : State} {c : CoreId} {eng : Fin 2} {x : Entry} {q : Instr × Nat × (Bool → Bool → Bool)}
    (hq : q ∈ [(.vcmp c eng, 0x38, fun _ _ => false), (.vmand c eng, 0x3C, fun a b => a && b), (.vmor c eng, 0x3D, fun a b => a || b),
         (.vmxor c eng, 0x3E, fun a b => a != b), (.vmnot c eng, 0x3F, fun a _ => !a)])
    (hf : Fires s c (2 + eng.val) q.2.1 (s.vecAccepts c eng) x) (hn : 0 < (s.stripAct c eng x).n) :
    ∃ t lim, exec q.1 s = .next t ∧ State.VecWritten c eng.val (writeMask (s.vecAt c eng) { s.stripAct c eng x with lim := lim }
      ((rWord x.op).vd % 8) ((s.stripAct c eng x).elems.map fun i => (i, s.maskBit c eng x q.2.2 i))) s t := by
  have hkept := State.vecKept_stripBegun (s := s) (c := c) eng.val x
  have hop := hf.2
  have hfires := fun body => State.fireVecOp_fires hf body
  rcases List.mem_cons.mp hq with rfl | hq
  · refine ⟨_, (s.stripAct c eng x).lim, (exec_vcmp c eng s).trans (congrArg _ (hfires _)), ?_⟩
    rw [State.fireVcmp, State.strip_fires, if_neg (by omega)]
    simp only [State.maskBit, State.compares, hop, if_true, Bool.false_eq_true, if_false]
    refine State.VecWritten.kept ?_ (State.vecKept_setVecFlags _ _ _)
    exact hkept.modVec eng rfl
  · obtain ⟨hx, hne⟩ := exec_maskOp hq s
    refine ⟨_, (s.stripAct c eng x).n, hx.trans (congrArg _ (hfires _)), ?_⟩
    rw [State.fireMaskOp, State.strip_fires, if_neg (by omega)]
    simp only [State.maskBit, hop, if_neg hne]
    exact hkept.modVec eng rfl

theorem maskInstructionsWriteMasks : Claims.MaskInstructionsWriteMasks := by
  intro s c eng x q hq hf r w v a bit hle hn
  obtain ⟨t, lim, hx, hw⟩ := exec_maskWrite hq hf hn
  obtain ⟨hset, hother, hstay⟩ := maskOf_writeMask_elems v (a := a) (b := { a with lim := lim }) (r.vd % 8) (s.maskBit c eng x q.2.2) hle
  have hbit : ∀ i, s.maskBit c eng x q.2.2 i = bit i := fun i => by simp only [State.maskBit, hf.2, bit]; rfl
  have hvec := hw.vec
  refine ⟨t, hx, by rw [hvec, regs_writeMask], fun i hi => ?_, fun m hm => ?_, fun hz i hi => ?_, hw.only⟩
  · rw [hvec, ← hbit]
    exact hset i hi
  · rw [hvec]
    exact hother m hm
  · rw [hvec]
    refine hstay ?_ i hi
    rcases hz with hm | hzm
    · simp [a, actOf, hm]
    · simp [a, actOf, hzm]

/-! ### Scalars (R179, R202) -/

namespace State

variable {s : State} {c : Nat}

/-- The scalar that a compare count, a mask count or an extraction delivers. -/
def stripScalar (s : State) (c eng : Nat) (x : Entry) : Nat :=
  let r := rWord x.op
  let v := s.vecAt c eng
  let a := s.stripAct c eng x
  if x.opcode = 0x39 then
    (a.elems.filter fun i => cmpPred (r.imm % 8) r.fmt (groupRead v r.vs1 (fmtWidth r.fmt) i) (groupRead v r.vs2 (fmtWidth r.fmt) i)).length
  else if x.opcode = 0x3B then (a.elems.filter fun i => (maskOf v (r.vs1 % 8)).getLsbD i).length
  else groupRead v r.vs1 (fmtWidth r.fmt) (getF x.op 9 0)

theorem setVecFlags_zero (eng : Nat) (e : Entry) : s.setVecFlags c eng e 0 = s := if_pos rfl

theorem cores_setVecFlags (eng : Nat) (e : Entry) (fl : Nat) : (s.setVecFlags c eng e fl).cores = s.cores := by
  rw [setVecFlags]
  dsimp only
  split
  · rfl
  · split
    · rw [poisonIn, cores_of_onlyRegs (pmc_frame _ _ _ _)]
      rfl
    · rfl

/-- The state in which an instruction has delivered a scalar, and its flags are set. -/
def scalarGiven (s : State) (c eng : Nat) (x : Entry) (n fl : Nat) : State :=
  ((s.stripBegun c eng x).setValue c x.uid (BitVec.ofNat 32 n)).setVecFlags c eng (s.firedEntry c x) fl

theorem vecKept_scalarGiven (eng : Nat) (x : Entry) (n fl : Nat) : VecKept c s (s.scalarGiven c eng x n fl) :=
  ((vecKept_stripBegun eng x).trans (vecKept_modEntry x.uid _)).trans (vecKept_setVecFlags _ _ _)

theorem value_of_mem_scalarGiven {eng n fl : Nat} {x y : Entry} (hy : y ∈ ((s.scalarGiven c eng x n fl).core c).window) (hu : y.uid = x.uid) :
    y.value = BitVec.ofNat 32 n := by
  rw [scalarGiven, core, cores_setVecFlags] at hy
  obtain ⟨z, rfl⟩ := mem_modEntry hy hu
  rfl

/-- IMM bits 9:0, by which VEXT and the slides name elements. -/
theorem imm_mod (op : Long) : (rWord op).imm % 1024 = getF op 9 0 := Nat.mod_mod_of_dvd _ (by decide)

end State

theorem exec_vcmpc (c : CoreId) (eng : Fin 2) (s : State) :
    exec (.vcmpc c eng) s = .next (s.fireVecOp c eng 0x39 fun t x => t.fireVcmp c eng x true) := rfl

theorem exec_vpopc (c : CoreId) (eng : Fin 2) (s : State) :
    exec (.vpopc c eng) s = .next (s.fireVecOp c eng 0x3B fun t x => t.fireVpopc c eng x) := rfl

theorem exec_vext (c : CoreId) (eng : Fin 2) (s : State) :
    exec (.vext c eng) s = .next (s.fireVecOp c eng 0x51 fun t x => t.fireVext c eng x) := rfl

/-- VCMPC, VPOPC and VEXT deliver their scalar beside their flags. -/
theorem exec_scalar {s : State} {c : CoreId} {eng : Fin 2} {x : Entry} {q : Instr × Nat}
    (hq : q ∈ [(.vcmpc c eng, 0x39), (.vpopc c eng, 0x3B), (.vext c eng, 0x51)]) (hf : Fires s c (2 + eng.val) q.2 (s.vecAccepts c eng) x)
    (hn : 0 < (s.stripAct c eng x).n) (hk : q.2 = 0x51 → getF x.op 9 0 < (s.stripAct c eng x).n) :
    ∃ fl, exec q.1 s = .next (s.scalarGiven c eng x (s.stripScalar c eng x) fl) := by
  have hop := hf.2
  have hfires := fun body => State.fireVecOp_fires hf body
  have hpos : ¬ (s.stripAct c eng x).n = 0 := by omega
  simp only [List.mem_cons, List.not_mem_nil, or_false] at hq
  rcases hq with rfl | rfl | rfl
  · refine ⟨if (State.compares (rWord x.op) (s.vecAt c eng) (s.stripAct c eng x)).2 then flPoison else 0,
      (exec_vcmpc c eng s).trans (congrArg _ ((hfires _).trans ?_))⟩
    rw [State.fireVcmp, State.strip_fires, if_neg hpos, State.scalarGiven]
    simp only [State.stripScalar, hop, if_true, State.compares, List.filter_map, List.length_map, Function.comp_def]
    rfl
  · refine ⟨0, (exec_vpopc c eng s).trans (congrArg _ ((hfires _).trans ?_))⟩
    rw [State.fireVpopc, State.strip_fires, if_neg hpos, State.scalarGiven, State.setVecFlags_zero, State.stripScalar, hop]
    rfl
  · refine ⟨0, (exec_vext c eng s).trans (congrArg _ ((hfires _).trans ?_))⟩
    rw [State.fireVext, State.strip_fires, if_neg hpos, State.scalarGiven, State.setVecFlags_zero, State.stripScalar, hop]
    simp only [State.imm_mod, if_pos (hk rfl)]
    rfl

theorem scalarInstructionsDeliver : Claims.ScalarInstructionsDeliver := by
  intro s c eng x q hq hf r w v a n hn hk
  obtain ⟨fl, hx⟩ := exec_scalar hq hf hn hk
  have hscalar : s.stripScalar c eng x = n := by simp only [State.stripScalar, hf.2, n]; rfl
  rw [hscalar] at hx
  have hkept := State.vecKept_scalarGiven (s := s) (c := c) eng.val x n fl
  exact ⟨_, hx, fun e he hu => State.value_of_mem_scalarGiven he hu, hkept.vecs _, hkept.only⟩

end Sys2Proof.Machine

open Sys2Proof Sys2Proof.Machine

/-- Settles O22: mask bits are written over the active elements alone, and a scalar is delivered beside the registers. -/
theorem masksAndScalars : Obligations.MasksAndScalars := ⟨maskInstructionsWriteMasks, scalarInstructionsDeliver⟩
end

section
/-! SUPPORT. Runs of bytes that follow on one another, and runs of one place of which a later one remains (R200). -/

namespace Sys2Proof.Machine

theorem readByte_writeBytes_congr {m m' : List Host.Cell} (h : ∀ b, readByte m b = readByte m' b) (a : Nat) (bs : List Byte) (b : Nat) :
    readByte (writeBytes m a bs) b = readByte (writeBytes m' a bs) b := by rw [readByte_writeBytes, readByte_writeBytes, h]

theorem readByte_writeAll_congr {m m' : List Host.Cell} (h : ∀ b, readByte m b = readByte m' b) (l : List (Nat × List Byte)) (b : Nat) :
    readByte (writeAll m l) b = readByte (writeAll m' l) b := by
  induction l generalizing m m' with
  | nil => exact h b
  | cons r t ih => exact ih (readByte_writeBytes_congr h r.1 r.2)

/-- A store of two strings of bytes is a store of each, one behind the other. -/
theorem readByte_writeBytes_append (m : List Host.Cell) (a : Nat) (xs ys : List Byte) (b : Nat) :
    readByte (writeBytes m a (xs ++ ys)) b = readByte (writeBytes (writeBytes m a xs) (a + xs.length) ys) b := by
  simp only [readByte_writeBytes, List.length_append]
  by_cases hx : a ≤ b ∧ b < a + xs.length
  · rw [if_pos (by omega), if_neg (by omega), if_pos hx, List.getD_append _ _ _ _ (by omega)]
  · by_cases hy : a + xs.length ≤ b ∧ b < a + xs.length + ys.length
    · rw [if_pos (by omega), if_pos hy, List.getD_append_right _ _ _ _ (by omega), Nat.sub_sub]
    · rw [if_neg (by omega), if_neg hy, if_neg hx]

/-- Runs that are joined where they follow on one another leave what they leave one by one. -/
theorem readByte_writeAll_joinRuns (l : List (Nat × List Byte)) (m : List Host.Cell) (b : Nat) :
    readByte (writeAll m (State.joinRuns l)) b = readByte (writeAll m l) b := by
  induction l generalizing m with
  | nil => rfl
  | cons x t ih =>
    have hrest : readByte (writeAll (writeBytes m x.1 x.2) (State.joinRuns t)) b = readByte (writeAll m (x :: t)) b := ih _
    rw [← hrest]
    cases hj : State.joinRuns t with
    | nil => simp only [State.joinRuns] at hj ⊢; rw [List.foldr_cons, hj]; rfl
    | cons y r =>
      simp only [State.joinRuns] at hj ⊢
      rw [List.foldr_cons, hj]
      dsimp only
      split
      next hadj =>
        refine readByte_writeAll_congr (fun b => ?_) r b
        rw [readByte_writeBytes_append, hadj]
      next => rfl

/-- Of runs that numbered elements leave in their order, one that no higher-numbered element meets reads back. -/
theorem readBytes_writeAll_of_later {l : List Nat} (hl : l.Pairwise (· < ·)) (f : Nat → Nat × List Byte) {i : Nat} (hi : i ∈ l)
    (h : ∀ j ∈ l, i < j → Apart (f i) (f j)) (m : List Host.Cell) : readBytes (writeAll m (l.map f)) (f i).1 (f i).2.length = (f i).2 := by
  obtain ⟨pre, post, rfl⟩ := List.append_of_mem hi
  obtain ⟨-, hpost, -⟩ := List.pairwise_append.mp hl
  have hapart : ∀ q ∈ post.map f, Apart (f i) q := List.forall_mem_map.mpr fun j hj =>
    h j (List.mem_append_right _ (List.mem_cons_of_mem _ hj)) (List.rel_of_pairwise_cons hpost hj)
  rw [List.map_append, List.map_cons, writeAll_append]
  exact (readBytes_writeAll_of_apart hapart _).trans (readBytes_writeBytes_self _ (f i).1 (f i).2)

theorem elems_sorted (a : Act) : a.elems.Pairwise (· < ·) := List.pairwise_lt_range.filter _

theorem apart_of_aligned {a b w : Nat} (ha : a % w = 0) (hb : b % w = 0) (hne : b ≠ a) : a + w ≤ b ∨ b + w ≤ a := by
  have hda := Nat.dvd_of_mod_eq_zero ha
  have hdb := Nat.dvd_of_mod_eq_zero hb
  rcases Nat.lt_or_gt_of_ne hne with h | h
  · have := Nat.le_of_dvd (by omega) (Nat.dvd_sub hda hdb)
    omega
  · have := Nat.le_of_dvd (by omega) (Nat.dvd_sub hdb hda)
    omega

namespace State

variable {s : State} {c uid : Nat} {pl : Place}

theorem modHeld_of_length_le {k : Nat} (h : s.held.length ≤ k) (f : Held → Held) : s.modHeld k f = s := if_pos h

/-- Where no load binds a byte, the lanes that held bytes would be given do not show: the runs are stored, and that is all (R77, R87). -/
theorem storeLanes_of_unbound (hb : IsBank pl) (hn : s.boundSpans c uid = []) (he : (s.bankOf pl).errs = []) (ext : List Span) (w : Nat)
    (lane : Nat → Nat) (l : List ((Nat × List Byte) × Nat × Nat)) :
    l.foldl (fun (acc : State × Option Nat) x =>
      let q := acc.1.storeRun c uid pl x.1.1 x.1.2
      (q.1.heldOf acc.1.held.length ext x.2.1 x.1.1 w, acc.2 <|> (q.2.map lane))) (s, none) =
      ((s.storeRuns c uid pl (l.map (·.1))).1, none) := by
  induction l using List.reverseRecOn with
  | nil => rfl
  | append_singleton k x ih =>
    obtain ⟨hst, -⟩ := storeRuns_bankStores (c := c) (uid := uid) hb he (k.map (·.1))
    obtain ⟨-, hheld⟩ := storeRun_of_unbound (c := c) (uid := uid) hb hst.clean (hst.boundSpans.trans hn) x.1.1 x.1.2
    obtain ⟨-, hbad⟩ := storeRun_bankStores (c := c) (uid := uid) hb hst.clean x.1.1 x.1.2
    rw [List.foldl_append, ih, List.map_append, storeRuns_append]
    simp only [List.foldl_cons, List.foldl_nil, List.map_cons, List.map_nil, hbad, heldOf]
    rw [modHeld_of_length_le (by rw [hheld])]
    rfl

end State
end Sys2Proof.Machine
end

section
/-! PROOF. Vector loads and stores (R181, R190, R199-R201). -/

namespace Sys2Proof.Machine

namespace State

variable {s t : State} {c : Nat} {pl : Place}

/-! ### Up to the access -/

/-- How a vector load or store masks its elements (R168, R190). -/
def memAct (s : State) (c eng : Nat) (x : Entry) : Act :=
  let m := mWord x.op x.iters
  actOf (s.vecAt c eng) x.vset m.m m.zm m.mreg

/-- The address of each of its active elements. -/
def memAddrs (s : State) (c eng : Nat) (x : Entry) (indexed : Bool) : List (Nat × Nat) :=
  elemAddrs (s.vecAt c eng) (mWord x.op x.iters) indexed (s.memAct c eng x).elems

theorem memAct_vecFired (eng : Nat) (x : Entry) : (s.vecFired c eng x).memAct c eng (s.firedEntry c x) = s.memAct c eng x := by
  rw [memAct, vecAt_vecFired, memAct]
  rfl

theorem memAddrs_vecFired (eng : Nat) (x : Entry) (indexed : Bool) :
    (s.vecFired c eng x).memAddrs c eng (s.firedEntry c x) indexed = s.memAddrs c eng x indexed := by
  rw [memAddrs, memAct_vecFired, vecAt_vecFired, memAddrs]
  rfl

/-- The state in which a vector load or store that has fired has counted its beats, and a sampled indexed one has noted its first address. -/
def memCounted (s : State) (c eng : Nat) (e : Entry) (indexed : Bool) : State :=
  let t := s.vecBeats c (stripBeats (s.memAct c eng e).n (if indexed then 32 else fmtWidth (mWord e.op e.iters).fmt))
  if indexed && e.sampled then t.modEntry c e.uid fun y => { y with first := (s.memAddrs c eng e indexed).head?.map (·.2) } else t

/-- Counters and the instruction's own entry are all that moves. -/
theorem memCounted_rel {R : State → State → Prop} (hpmc : ∀ u ev n, R u (u.pmc c ev n))
    (hentry : ∀ u uid a, R u (u.modEntry c uid fun y => { y with first := a })) (htrans : ∀ {a b d}, R a b → R b d → R a d)
    (eng : Nat) (e : Entry) (indexed : Bool) : R s (s.memCounted c eng e indexed) := by
  rw [memCounted, vecBeats]
  split
  · exact htrans (hpmc _ _ _) (hentry _ _ _)
  · exact hpmc _ _ _

/-- A vector load or store of some elements, whose checks find nothing, comes to its access. -/
theorem fireVmem_accesses {eng : Nat} {e : Entry} {indexed : Bool} (hn : 0 < (s.memAct c eng e).n)
    (hpl : s.locPlace (c / 16) (mWord e.op e.iters).vat = some pl)
    (hok : (s.memCounted c eng e indexed).memFault c (some pl) (fmtWidth (mWord e.op e.iters).fmt / 8) (s.memAddrs c eng e indexed) = none)
    (store : Bool) : s.fireVmem c eng e store indexed =
      if store then (s.memCounted c eng e indexed).runVst c eng e (mWord e.op e.iters) indexed pl (s.memAddrs c eng e indexed)
      else (s.memCounted c eng e indexed).runVld c eng e (mWord e.op e.iters) indexed (s.memAct c eng e) pl (s.memAddrs c eng e indexed) := by
  have hpos : ¬ (s.memAct c eng e).n = 0 := Nat.ne_of_gt hn
  have hloc : ∀ n, (s.vecBeats c n).locPlace (c / 16) (mWord e.op e.iters).vat = some pl := fun n =>
    ((onlyBegun_pmc (c := c) c 0x05 n).locPlace _ _).trans hpl
  simp only [memCounted, memAddrs, memAct] at hpos hok ⊢
  simp only [fireVmem, if_neg hpos, hloc, hok]

/-- The state in which a vector load or store accesses its place. -/
def memBegun (s : State) (c eng : Nat) (x : Entry) (indexed : Bool) : State := (s.vecFired c eng x).memCounted c eng (s.firedEntry c x) indexed

theorem onlyBegun_memBegun (eng : Nat) (x : Entry) (indexed : Bool) : OnlyBegun c (s.vecFired c eng x) (s.memBegun c eng x indexed) :=
  memCounted_rel (fun _ _ _ => onlyBegun_pmc _ _ _) (fun _ _ _ => onlyBegun_modEntry _ _) OnlyBegun.trans _ _ _

theorem vecKept_memBegun (eng : Nat) (x : Entry) (indexed : Bool) : VecKept c s (s.memBegun c eng x indexed) :=
  (vecKept_vecFired eng x).trans
    (memCounted_rel (fun _ _ _ => vecKept_pmc _ _ _) (fun _ _ _ => vecKept_modEntry _ _) VecKept.trans _ _ _)

theorem parts_memBegun (eng : Nat) (x : Entry) (indexed : Bool) : (s.memBegun c eng x indexed).parts = s.parts := by
  have hframe := (onlyBegun_memBegun (s := s) (c := c) eng x indexed).only.frame
  have hparts := parts_vecFired (s := s) (c := c) eng x
  generalize s.vecFired c eng x = u at hframe hparts
  rw [hframe, ← hparts]

theorem boundSpans_memBegun (eng uid : Nat) (x : Entry) (indexed : Bool) :
    (s.memBegun c eng x indexed).boundSpans c uid = s.boundSpans c uid := by
  have hstays : Stays c (s.vecFired c eng x) (s.memBegun c eng x indexed) :=
    memCounted_rel (fun _ _ _ => stays_pmc _ _ _) (fun _ _ _ => stays_modEntry (by exact fun _ => ⟨rfl, rfl⟩) _) Stays.trans _ _ _
  rw [hstays.boundSpans, boundSpans_vecFired]

theorem bankOf_memBegun (eng : Nat) (x : Entry) (indexed : Bool) : (s.memBegun c eng x indexed).bankOf pl = s.bankOf pl :=
  (memKept_of_onlyCore (vecKept_memBegun eng x indexed).only).bankOf pl

/-- The checks of an access find nothing where the core owns the place and every active element's bytes are inside it and aligned (R181). -/
theorem memFault_of_ok {p : Option Place} {w : Nat} {addrs : List (Nat × Nat)} (hown : s.coreOwns c p = true)
    (h : ∀ q ∈ addrs, q.2 + w ≤ mib2 ∧ q.2 % w = 0) : s.memFault c p w addrs = none := by
  have hextent : addrs.find? (fun q => decide (mib2 < q.2 + w)) = none := List.find?_eq_none.mpr fun q hq => by
    have := (h q hq).1
    simp only [decide_eq_true_eq]
    omega
  have halign : addrs.find? (fun q => q.2 % w != 0) = none := List.find?_eq_none.mpr fun q hq => by simp [(h q hq).2]
  rw [memFault]
  split
  · rfl
  · rw [if_pos hown, hextent, halign]
    rfl

/-- The elements' bytes lie in the place, which the core owns, each aligned (R181). -/
structure Accessible (s : State) (c eng : Nat) (x : Entry) (indexed : Bool) (pl : Place) : Prop where
  place : s.locPlace (c / 16) (mWord x.op x.iters).vat = some pl
  owned : s.coreOwns c (some pl) = true
  clean : (s.bankOf pl).errs = []
  nonempty : 0 < (s.memAct c eng x).n
  fits : ∀ q ∈ s.memAddrs c eng x indexed,
    q.2 + fmtWidth (mWord x.op x.iters).fmt / 8 ≤ mib2 ∧ q.2 % (fmtWidth (mWord x.op x.iters).fmt / 8) = 0

/-- A vector load or store of accessible elements, from its firing to its access. -/
theorem fireVmem_fires {eng : Fin 2} {x : Entry} {indexed : Bool} (h : Accessible s c eng x indexed pl) (store : Bool) :
    (s.vecFired c eng x).fireVmem c eng (s.firedEntry c x) store indexed =
      if store then (s.memBegun c eng x indexed).runVst c eng (s.firedEntry c x) (mWord x.op x.iters) indexed pl (s.memAddrs c eng x indexed)
      else (s.memBegun c eng x indexed).runVld c eng (s.firedEntry c x) (mWord x.op x.iters) indexed (s.memAct c eng x) pl
        (s.memAddrs c eng x indexed) := by
  have hact := memAct_vecFired (s := s) (c := c) eng.val x
  have haddrs := memAddrs_vecFired (s := s) (c := c) eng.val x indexed
  have howned : (s.memBegun c eng x indexed).coreOwns c (some pl) = true :=
    ((onlyBegun_memBegun eng.val x indexed).coreOwns _).trans ((coreOwns_vecFired eng.isLt x _).trans h.owned)
  have hfault := memFault_of_ok howned h.fits
  rw [memBegun, ← haddrs] at hfault
  have hplace := ((sameInputs_vecFired (s := s) (c := c) eng.val x).locPlace (c / 16) (mWord x.op x.iters).vat).trans h.place
  rw [fireVmem_accesses (e := s.firedEntry c x) (by rw [hact]; exact h.nonempty) hplace hfault, hact, haddrs]
  rfl

/-! ### Loads (R190, R292, R293) -/

/-- Words read one behind another, each after its grant, with what the first one in error names. -/
def readWords (s : State) (pl : Place) (grant : State → Nat → State) (name : Nat → Nat) (ws : List Nat) : State × Option Nat :=
  ws.foldl (fun (acc : State × Option Nat) a =>
    let q := (grant acc.1 a).cellRead pl a 32 fun _ => true
    (q.st, acc.2 <|> (q.bad.map fun _ => name a))) (s, none)

/-- Words of a bank without one in error are read without a fault, and counted alone. -/
theorem readWords_clean (herr : (s.bankOf pl).errs = []) {grant : State → Nat → State} (hg : ∀ u a, OnlyRegs u (grant u a))
    (name : Nat → Nat) (ws : List Nat) : OnlyRegs s (s.readWords pl grant name ws).1 ∧ (s.readWords pl grant name ws).2 = none := by
  rw [readWords]
  refine List.foldlRecOn (motive := fun r : State × Option Nat => OnlyRegs s r.1 ∧ r.2 = none) ws _ ⟨onlyRegs_refl s, rfl⟩ ?_
  rintro r ⟨hr, hbad⟩ a -
  have hnext := onlyRegs_trans hr (hg r.1 a)
  have hclean : ((grant r.1 a).bankOf pl).errs = [] := (congrArg Bank.errs (bankOf_onlyRegs hnext pl)).trans herr
  simp only [cellRead_clean _ _ _ _ _ hclean, hbad]
  exact ⟨hnext, rfl⟩

/-- A vector load from a bank without a word in error counts its grants, and the active elements take their bytes. -/
theorem runVld_clean (herr : (s.bankOf pl).errs = []) (eng : Nat) (e : Entry) (m : MWord) (indexed : Bool) (a : Act)
    (addrs : List (Nat × Nat)) : ∃ t, OnlyRegs s t ∧ s.runVld c eng e m indexed a pl addrs =
      t.modVec c eng fun v => writeAct v a m.vr (fmtWidth m.fmt)
        (addrs.map fun x => (x.1, fromLE (readBytes (s.bankOf pl).data x.2 (fmtWidth m.fmt / 8)))) := by
  have hgrant : OnlyRegs s (if indexed then s else s.vatGrants pl m.base (addrs.length * (fmtWidth m.fmt / 8))) := by
    split
    · exact onlyRegs_refl s
    · exact vatGrants_frame ..
  have hbank := bankOf_onlyRegs hgrant pl
  obtain ⟨hregs, hbad⟩ := readWords_clean (pl := pl) (by rw [hbank]; exact herr)
    (grant := fun u a => if indexed then u.vatGrants pl a 32 else u) (fun u a => by
      split
      · exact vatGrants_frame ..
      · exact onlyRegs_refl u) (firstIn addrs) (if indexed then addrs.map fun x => x.2 / 32 * 32 else wordsOf addrs)
  refine ⟨_, onlyRegs_trans hgrant hregs, ?_⟩
  simp only [readWords] at hbad
  rw [runVld]
  simp only [hbad, hbank]
  rfl

/-- A vector load of accessible elements. -/
theorem vectorLoad_writes {eng : Fin 2} {x : Entry} {indexed : Bool} (h : Accessible s c eng x indexed pl) :
    VecWritten c eng.val (writeAct (s.vecAt c eng) (s.memAct c eng x) (mWord x.op x.iters).vr (fmtWidth (mWord x.op x.iters).fmt)
      ((s.memAddrs c eng x indexed).map fun q => (q.1, fromLE (readBytes (s.cells pl) q.2 (fmtWidth (mWord x.op x.iters).fmt / 8))))) s
      ((s.vecFired c eng x).fireVmem c eng (s.firedEntry c x) false indexed) ∧
    ((s.vecFired c eng x).fireVmem c eng (s.firedEntry c x) false indexed).parts = s.parts := by
  have hbank := bankOf_memBegun (s := s) (c := c) (pl := pl) eng.val x indexed
  have hkept := vecKept_memBegun (s := s) (c := c) eng.val x indexed
  have hparts := parts_memBegun (s := s) (c := c) eng.val x indexed
  obtain ⟨t, hregs, hload⟩ := runVld_clean (c := c) (by rw [hbank]; exact h.clean) eng.val (s.firedEntry c x) (mWord x.op x.iters) indexed
    (s.memAct c eng x) (s.memAddrs c eng x indexed)
  rw [fireVmem_fires h, if_neg Bool.false_ne_true, hload, hbank, cells_of_isBank (isBank_of_locPlace h.place)]
  exact ⟨(hkept.trans (vecKept_onlyRegs hregs)).modVec eng rfl, (parts_of_onlyRegs hregs).trans hparts⟩

/-! ### Stores (R77, R190, R200) -/

/-- The bytes of the elements at their addresses. -/
def elemRuns (v : Vec) (m : MWord) (addrs : List (Nat × Nat)) : List (Nat × List Byte) :=
  addrs.map fun q => (q.2, leBytes (fmtWidth m.fmt / 8) (groupRead v m.vr (8 * (fmtWidth m.fmt / 8)) q.1))

/-- The runs that a vector store writes: an indexed one's elements one by one (R200). -/
def vstRuns (v : Vec) (m : MWord) (indexed : Bool) (addrs : List (Nat × Nat)) : List (Nat × List Byte) :=
  if indexed then elemRuns v m addrs else joinRuns (elemRuns v m addrs)

theorem readByte_vstRuns (v : Vec) (m : MWord) (indexed : Bool) (addrs : List (Nat × Nat)) (mem : List Host.Cell) (b : Nat) :
    readByte (writeAll mem (vstRuns v m indexed addrs)) b = readByte (writeAll mem (elemRuns v m addrs)) b := by
  rw [vstRuns]
  split
  · rfl
  · exact readByte_writeAll_joinRuns ..

/-- The runs of a vector store, each with the first element in it. -/
def vstLanes (v : Vec) (m : MWord) (indexed : Bool) (addrs : List (Nat × Nat)) : List ((Nat × List Byte) × Nat × Nat) :=
  if indexed then (elemRuns v m addrs).zip addrs
  else (joinRuns (elemRuns v m addrs)).map fun x => (x, ((addrs.find? fun y => y.2 == x.1).getD (0, 0)))

theorem map_fst_vstLanes (v : Vec) (m : MWord) (indexed : Bool) (addrs : List (Nat × Nat)) :
    (vstLanes v m indexed addrs).map (·.1) = vstRuns v m indexed addrs := by
  rw [vstLanes, vstRuns]
  split
  · exact List.map_fst_zip (by simp [elemRuns])
  · simp [Function.comp_def]

/-- A vector store of which no load binds a byte stores its runs, and waits for what of it was held before. -/
theorem runVst_of_unbound {e : Entry} (hb : IsBank pl) (hn : s.boundSpans c e.uid = []) (he : (s.bankOf pl).errs = []) (eng : Nat)
    (m : MWord) (indexed : Bool) (addrs : List (Nat × Nat)) : s.runVst c eng e m indexed pl addrs =
      (s.storeRuns c e.uid pl (vstRuns (s.vecAt c eng) m indexed addrs)).1.waitHeld c e.uid := by
  have hlanes := storeLanes_of_unbound hb hn he [if indexed then ⟨pl, 0, mib2⟩ else ⟨pl, m.base, boundN e.vset * (fmtWidth m.fmt / 8)⟩]
    (fmtWidth m.fmt / 8) (firstIn addrs) (vstLanes (s.vecAt c eng) m indexed addrs)
  rw [map_fst_vstLanes] at hlanes
  simp only [vstLanes, elemRuns] at hlanes
  rw [runVst]
  simp only [hlanes]

/-- What a vector store of accessible elements leaves, where no load binds a byte. -/
structure VectorStored (s : State) (c eng : Nat) (x : Entry) (indexed : Bool) (pl : Place) (t : State) : Prop where
  settled : s.settle t = t
  bytes : ∀ b, readByte (t.cells pl) b =
    readByte (writeAll (s.cells pl) (elemRuns (s.vecAt c eng) (mWord x.op x.iters) (s.memAddrs c eng x indexed))) b
  cells : ∀ q, q ≠ pl → t.cells q = s.cells q
  vec : t.vecAt c eng = s.vecAt c eng
  others : ∀ k, k ≠ c → t.core k = s.core k

theorem vecKept_waitHeld (uid : Nat) : VecKept c s (s.waitHeld c uid) := by
  rw [waitHeld]
  split
  · exact vecKept_modEntry _ _
  · exact vecKept_refl s

theorem vectorStore_stores {eng : Fin 2} {x : Entry} {indexed : Bool} (h : Accessible s c eng x indexed pl) (hn : s.boundSpans c x.uid = []) :
    VectorStored s c eng x indexed pl ((s.vecFired c eng x).fireVmem c eng (s.firedEntry c x) true indexed) := by
  have hb := isBank_of_locPlace h.place
  have hbank := fun q => bankOf_memBegun (s := s) (c := c) (pl := q) eng.val x indexed
  have hkept := vecKept_memBegun (s := s) (c := c) eng.val x indexed
  have hbound := (boundSpans_memBegun (s := s) (c := c) eng.val x.uid x indexed).trans hn
  have hmem := memKept_of_onlyCore hkept.only
  have hclean : ((s.memBegun c eng x indexed).bankOf pl).errs = [] := by rw [hbank]; exact h.clean
  rw [fireVmem_fires h, if_pos rfl, runVst_of_unbound (e := s.firedEntry c x) hb hbound hclean, hkept.vecs]
  generalize s.memBegun c eng x indexed = u at hbank hkept hbound hmem hclean ⊢
  have hruns := readByte_vstRuns (s.vecAt c eng) (mWord x.op x.iters) indexed (s.memAddrs c eng x indexed)
  generalize vstRuns (s.vecAt c eng) (mWord x.op x.iters) indexed (s.memAddrs c eng x indexed) = runs at hruns ⊢
  obtain ⟨hst, -⟩ := storeRuns_bankStores (c := c) (uid := x.uid) hb hclean runs
  obtain ⟨hdata, -⟩ := storeRuns_of_unbound (c := c) (uid := x.uid) hb hbound runs hclean
  have hwait := vecKept_waitHeld (s := (u.storeRuns c x.uid pl runs).1) (c := c) x.uid
  have hwmem := memKept_of_onlyCore hwait.only
  have hgoes := hst.goes (c := c)
  have hvec : (u.storeRuns c x.uid pl runs).1.vecAt c eng = u.vecAt c eng := by rw [vecAt, hst.core, vecAt]
  refine ⟨settle_eq ?_ ?_, fun b => ?_, fun q hq => ?_, ?_, fun k hk => ?_⟩
  · exact hwmem.stalled.trans (hgoes.stalled.trans hmem.stalled)
  · exact hwmem.failing.trans (hgoes.failing.trans hmem.failing)
  · rw [← hruns, cells_of_isBank hb s, ← hbank pl, ← hdata, ← cells_of_isBank hb, ← hwmem.cells]
    rfl
  · exact (hwmem.cells q).trans ((hst.cells hq).trans (hmem.cells q))
  · exact (hwait.vecs eng).trans (hvec.trans (hkept.vecs eng))
  · exact (hwait.only.2 k hk).trans ((hst.core k).trans (hkept.only.2 k hk))

end State

/-! ### The instructions -/

theorem exec_load {c : CoreId} {eng : Fin 2} {q : Instr × Nat} (hq : q ∈ [(.vld c eng, 0x08), (.vldx c eng, 0x0A)]) (s : State) :
    exec q.1 s = .next (s.settle (s.fireVecOp c eng q.2 fun t x => t.fireVmem c eng x false (decide (q.2 = 0x0A)))) := by
  simp only [List.mem_cons, List.not_mem_nil, or_false] at hq
  rcases hq with rfl | rfl <;> rfl

theorem exec_store {c : CoreId} {eng : Fin 2} {q : Instr × Nat} (hq : q ∈ [(.vst c eng, 0x09), (.vstx c eng, 0x0B)]) (s : State) :
    exec q.1 s = .next (s.settle (s.fireVecOp c eng q.2 fun t x => t.fireVmem c eng x true (decide (q.2 = 0x0B)))) := by
  simp only [List.mem_cons, List.not_mem_nil, or_false] at hq
  rcases hq with rfl | rfl <;> rfl

/-- The addresses of the active elements. -/
theorem memAddrs_eq (s : State) (c eng : Nat) (x : Entry) (p : Prop) [Decidable p] : s.memAddrs c eng x (decide p) =
    (s.memAct c eng x).elems.map fun i => (i, (mWord x.op x.iters).base +
      (if p then groupRead (s.vecAt c eng) (mWord x.op x.iters).vx 32 i else i) * (fmtWidth (mWord x.op x.iters).fmt / 8)) := by
  simp only [State.memAddrs, State.elemAddrs, decide_eq_true_eq]

theorem vectorLoadsRead : Claims.VectorLoadsRead := by
  intro s c eng x q pl hq hf m w v a addr hpl hown herr hn hok
  have haddrs : s.memAddrs c eng x (decide (q.2 = 0x0A)) = a.elems.map fun i => (i, addr i) := memAddrs_eq ..
  have hacc : State.Accessible s c eng x (decide (q.2 = 0x0A)) pl := ⟨hpl, hown, herr, hn, by
    rw [haddrs]
    exact List.forall_mem_map.mpr hok⟩
  obtain ⟨hw, hparts⟩ := State.vectorLoad_writes hacc
  have hmem := State.memKept_of_onlyCore hw.only
  refine ⟨_, (exec_load hq s).trans (congrArg _ ?_), ?_, hmem.sameMem, hw.only, hparts⟩
  · rw [State.fireVecOp_fires hf, hmem.settle]
  · rw [hw.vec, haddrs, List.map_map]
    rfl

theorem vectorStoresWrite : Claims.VectorStoresWrite := by
  intro s c eng x q pl hq hf m w v a addr hpl hown herr hbound hn hok
  have haddrs : s.memAddrs c eng x (decide (q.2 = 0x0B)) = a.elems.map fun i => (i, addr i) := memAddrs_eq ..
  have hacc : State.Accessible s c eng x (decide (q.2 = 0x0B)) pl := ⟨hpl, hown, herr, hn, by
    rw [haddrs]
    exact List.forall_mem_map.mpr hok⟩
  have h := State.vectorStore_stores hacc hbound
  have hruns : State.elemRuns v m (s.memAddrs c eng x (decide (q.2 = 0x0B))) =
      a.elems.map fun i => (addr i, leBytes w (groupRead v m.vr (8 * w) i)) := by
    rw [haddrs, State.elemRuns, List.map_map]
    rfl
  have hbytes := h.bytes
  rw [hruns] at hbytes
  refine ⟨_, (exec_store hq s).trans (congrArg _ (by rw [State.fireVecOp_fires hf, h.settled])), fun i hi hlast => ?_, fun p b hne => ?_,
    h.vec, h.others⟩
  · have hread := readBytes_writeAll_of_later (elems_sorted a) (fun i => (addr i, leBytes w (groupRead v m.vr (8 * w) i))) hi
      (fun j hj hij => by
        simpa only [Apart, leBytes_length] using apart_of_aligned (hok i hi).2 (hok j hj).2 (hlast j hj hij)) (s.cells pl)
    rw [leBytes_length] at hread
    exact (List.map_congr_left fun k _ => hbytes _).trans hread
  · by_cases hp : p = pl
    case neg => exact absurd (by rw [h.cells p hp]) hne
    subst hp
    refine ⟨rfl, ?_⟩
    by_contra hout
    rw [hbytes] at hne
    refine hne (readByte_writeAll (List.forall_mem_map.mpr fun i hi hin => hout ⟨i, hi, ?_⟩) _)
    simpa only [InRun, leBytes_length] using hin

end Sys2Proof.Machine

open Sys2Proof Sys2Proof.Machine

/-- Settles O23: a load takes the bytes at its elements' addresses, and of the runs that a store leaves the later one remains. -/
theorem vectorMemory : Obligations.VectorMemory := ⟨vectorLoadsRead, vectorStoresWrite⟩
end

section
/-! PROOF. VSETVL, VPROFILE and VSETRC (R166, R167, R178). -/

namespace Sys2Proof.Machine

/-! ### A length that arrives (R167) -/

/-- Settings once the scalar of the VSETVL of number uid has come to n. -/
def lenBound (uid n : Nat) (x : VSet) : VSet :=
  let x := if x.vlen = .token uid then { x with vlen := .known n } else x
  if x.behind = some uid then { x with behind := none } else x

theorem vlen_lenBound (uid n : Nat) (x : VSet) : (lenBound uid n x).vlen = if x.vlen = .token uid then .known n else x.vlen := by
  rw [lenBound]
  split <;> split <;> rfl

theorem vlen_lenBound_ne (uid n : Nat) (x : VSet) : (lenBound uid n x).vlen ≠ .token uid := by
  rw [vlen_lenBound]
  split
  · exact nofun
  next h => exact h

/-- The same of an entry's settings. -/
def Entry.withLen (uid n : Nat) (e : Entry) : Entry := { e with vset := lenBound uid n e.vset }

namespace State

variable {s t : State} {c : Nat}

theorem bindLen_eq (eng uid n : Nat) : s.bindLen c eng uid n =
    (s.modCore c fun k => { k with window := k.window.map (Entry.withLen uid n) }).modVec c eng fun v =>
      { v with cur := lenBound uid n v.cur } := rfl

theorem window_setVec (k : Core) (eng : Nat) (v : Vec) : (setVec k eng v).window = k.window := by
  rw [setVec]
  split <;> rfl

theorem window_bindLen (eng uid n : Nat) : ((s.bindLen c eng uid n).core c).window =
    (s.core c).window.map (Entry.withLen uid n) := by
  rw [bindLen_eq, modVec, core_modCore_self, window_setVec, core_modCore_self]

theorem onlyCore_bindLen (eng uid n : Nat) : OnlyCore c s (s.bindLen c eng uid n) := by
  rw [bindLen_eq, modVec]
  exact onlyCore_trans (onlyCore_modCore _) (onlyCore_modCore _)

theorem vecAt_bindLen (eng uid n : Nat) : (s.bindLen c eng uid n).vecAt c eng =
    { s.vecAt c eng with cur := lenBound uid n (s.vecAt c eng).cur } := by
  rw [bindLen_eq, vecAt_modVec_self, vecAt, core_modCore_self]
  rfl

/-- A setting has fired and is done: the engine's registers and masks are as before, and so are the partitions' records and the other
cores. -/
structure SettingDone (c eng uid : Nat) (s t : State) : Prop where
  only : OnlyCore c s t
  parts : t.parts = s.parts
  regs : (t.vecAt c eng).regs = (s.vecAt c eng).regs
  masks : (t.vecAt c eng).masks = (s.vecAt c eng).masks
  done : ∀ e ∈ (t.core c).window, e.uid = uid → e.phase = .done

theorem settingDone_vecFired (eng : Nat) (x : Entry) : SettingDone c eng x.uid s (s.vecFired c eng x) := by
  have hkept := vecKept_vecFired (s := s) (c := c) eng x
  exact ⟨hkept.only, parts_vecFired eng x, by rw [hkept.vecs], by rw [hkept.vecs],
    fun e he hu => phase_of_mem_markFired (core_vecFired (s := s) (c := c) eng x ▸ he) hu⟩

theorem SettingDone.onlyRegs {u : State} {eng uid : Nat} (h : SettingDone c eng uid s t) (k : OnlyRegs t u) : SettingDone c eng uid s u := by
  have hkept := vecKept_onlyRegs (c := c) k
  exact ⟨onlyCore_trans h.only hkept.only, (parts_of_onlyRegs k).trans h.parts, by rw [hkept.vecs, h.regs], by rw [hkept.vecs, h.masks],
    by rw [core_of_onlyRegs k]; exact h.done⟩

theorem SettingDone.bindLen {eng uid : Nat} (h : SettingDone c eng uid s t) (n : Nat) : SettingDone c eng uid s (t.bindLen c eng uid n) := by
  refine ⟨onlyCore_trans h.only (onlyCore_bindLen ..), h.parts, by rw [vecAt_bindLen, h.regs], by rw [vecAt_bindLen, h.masks],
    fun e he hu => ?_⟩
  rw [window_bindLen] at he
  obtain ⟨y, hy, rfl⟩ := List.mem_map.mp he
  exact h.done y hy hu

theorem sameWaits_onlyRegs (h : OnlyRegs s t) : SameWaits s t := by
  rw [OnlyRegs] at h
  rw [h]
  exact ⟨rfl, rfl, fun _ => rfl⟩

/-- The scalar of an instruction is the same once it has fired. -/
theorem scalarOf_vecFired (eng : Nat) (x : Entry) : (s.vecFired c eng x).scalarOf c (s.firedEntry c x) = s.scalarOf c x := by
  have hwaits := sameWaits_onlyRegs (onlyRegs_vecStatus (s := s.markFired c x) (c := c) eng (s.firedEntry c x))
  rw [← scalarOf_markFired (s := s) (c := c) x]
  exact congrArg (·.getD 0) (hwaits.waitMet ..)

/-- The length that the TOK form of a VSETVL binds, and VLMAX. -/
def tokLen (s : State) (c : Nat) (x : Entry) : Nat := min (s.scalarOf c x).toNat (vlmaxN (BitVec.ofNat 2 (getF x.op 53 52)))

/-- The TOK form of a VSETVL binds its length, and flags a scalar above VLMAX. -/
theorem fireVsetvl_tok {eng : Nat} {x : Entry} (h : 2 ≤ getF x.op 55 54) :
    (s.vecFired c eng x).fireVsetvl c eng (s.firedEntry c x) =
      let u := (s.vecFired c eng x).bindLen c eng x.uid (s.tokLen c x)
      if vlmaxN (BitVec.ofNat 2 (getF x.op 53 52)) < (s.scalarOf c x).toNat then u.flag .vecFlags (cix c ++ [eng]) 5 else u := by
  rw [fireVsetvl, if_pos (by exact h), scalarOf_vecFired]
  rfl

theorem fireVsetvl_other {eng : Nat} {x : Entry} (h : ¬ 2 ≤ getF x.op 55 54) :
    (s.vecFired c eng x).fireVsetvl c eng (s.firedEntry c x) = s.vecFired c eng x := if_neg h

/-- Firing keeps every entry, with its number and its settings. -/
theorem mem_vecFired_of_mem {eng : Nat} {x e : Entry} (he : e ∈ (s.core c).window) :
    ∃ y ∈ ((s.vecFired c eng x).core c).window, y.uid = e.uid ∧ y.vset = e.vset := by
  rw [core_vecFired, window_markFired]
  refine ⟨_, List.mem_map_of_mem he, ?_⟩
  split <;> exact ⟨rfl, rfl⟩

end State

theorem exec_vsetvl (c : CoreId) (eng : Fin 2) (s : State) :
    exec (.vsetvl c eng) s = .next (s.fireVecOp c eng 0x01 fun t x => t.fireVsetvl c eng x) := rfl

theorem exec_vprofile (c : CoreId) (eng : Fin 2) (s : State) : exec (.vprofile c eng) s = .next (s.fireVecOp c eng 0x02 fun t _ => t) := rfl

theorem exec_vsetrc (c : CoreId) (eng : Fin 2) (s : State) : exec (.vsetrc c eng) s = .next (s.fireVecOp c eng 0x03 fun t _ => t) := rfl

/-- A setting whose length does not come with a token does no more than fire. -/
theorem exec_setting {s : State} {c : CoreId} {eng : Fin 2} {x : Entry} {q : Instr × Nat}
    (hq : q ∈ [(.vsetvl c eng, 0x01), (.vprofile c eng, 0x02), (.vsetrc c eng, 0x03)])
    (hf : Fires s c (2 + eng.val) q.2 (s.vecAccepts c eng) x) (h : ¬ (q.2 = 0x01 ∧ 2 ≤ getF x.op 55 54)) :
    exec q.1 s = .next (s.vecFired c eng x) := by
  have hfires := fun body => State.fireVecOp_fires hf body
  simp only [List.mem_cons, List.not_mem_nil, or_false] at hq
  rcases hq with rfl | rfl | rfl
  · exact (exec_vsetvl c eng s).trans (congrArg _ ((hfires _).trans (State.fireVsetvl_other fun hform => h ⟨rfl, hform⟩)))
  · exact (exec_vprofile c eng s).trans (congrArg _ (hfires _))
  · exact (exec_vsetrc c eng s).trans (congrArg _ (hfires _))

/-- A VSETVL in its TOK form: beside what every setting leaves, its length is bound, and a scalar above VLMAX is flagged. -/
theorem exec_vsetvl_tok {s : State} {c : CoreId} {eng : Fin 2} {x : Entry} (hf : Fires s c (2 + eng.val) 0x01 (s.vecAccepts c eng) x)
    (h : 2 ≤ getF x.op 55 54) : ∃ t, exec (.vsetvl c eng) s = .next t ∧ State.SettingDone c eng x.uid s t ∧
      (t.core c).window = ((s.vecFired c eng x).core c).window.map (Entry.withLen x.uid (s.tokLen c x)) ∧
      (vlmaxN (BitVec.ofNat 2 (getF x.op 53 52)) < (s.scalarOf c x).toNat → t.regF .vecFlags (cix c ++ [eng.val]) 5 5 = 1) := by
  have hx := exec_vsetvl c eng s
  rw [State.fireVecOp_fires hf, State.fireVsetvl_tok h] at hx
  have hdone := (State.settingDone_vecFired (s := s) (c := c) eng.val x).bindLen (s.tokLen c x)
  have hwin := State.window_bindLen (s := s.vecFired c eng x) (c := c) eng.val x.uid (s.tokLen c x)
  generalize (s.vecFired c eng x).bindLen c eng x.uid (s.tokLen c x) = u at hx hdone hwin
  refine ⟨_, hx, ?_⟩
  dsimp only
  split
  next hclamp =>
    have hflag : OnlyRegs u (u.flag .vecFlags (cix c ++ [eng.val]) 5) := State.onlyRegs_setReg u _ _ _
    exact ⟨hdone.onlyRegs hflag, by rw [State.core_of_onlyRegs hflag, hwin],
      fun _ => State.regF_setRegF_self u _ _ _ _ _ (by omega) (by omega)⟩
  next hclamp => exact ⟨hdone, hwin, fun h => absurd h hclamp⟩

end Sys2Proof.Machine

open Sys2Proof Sys2Proof.Machine

/-- Settles O24: a length that arrives is put in the settings of every instruction that waits for it, and other settings do no more than
fire. -/
theorem settingsBind : Obligations.SettingsBind := by
  intro s c eng x q hq hf tok max n
  by_cases htok : tok
  · obtain ⟨hone, hform⟩ := htok
    rw [hone] at hf
    obtain ⟨t, hx, hdone, hwin, hclamp⟩ := exec_vsetvl_tok hf hform
    have hinstr : q.1 = .vsetvl c eng := by
      simp only [List.mem_cons, List.not_mem_nil, or_false] at hq
      rcases hq with rfl | rfl | rfl
      · rfl
      · cases hone
      · cases hone
    refine ⟨t, hinstr ▸ hx, hdone.done, hdone.regs, hdone.masks, fun _ => ⟨fun e he => ?_, fun e he hlen => ?_, hclamp⟩, hdone.only,
      hdone.parts⟩
    · rw [hwin] at he
      obtain ⟨y, -, rfl⟩ := List.mem_map.mp he
      exact vlen_lenBound_ne _ _ _
    · obtain ⟨y, hy, huid, hset⟩ := State.mem_vecFired_of_mem (eng := eng.val) (x := x) he
      refine ⟨y.withLen x.uid (s.tokLen c x), by rw [hwin]; exact List.mem_map_of_mem hy, huid, ?_⟩
      rw [Entry.withLen, vlen_lenBound, hset, if_pos hlen]
      rfl
  · have hdone := State.settingDone_vecFired (s := s) (c := c) eng.val x
    exact ⟨_, exec_setting hq hf htok, hdone.done, hdone.regs, hdone.masks, fun h => absurd h htok, hdone.only, hdone.parts⟩
end

section
/-! SUPPORT. An instruction of layout R that writes registers of its engine, and what VEC_FLAGS reads once it has fired, written and set its
flags (R168, R182, R185). -/

namespace Sys2Proof.Machine.State

variable {s : State} {c : Nat}

/-! ### Writes of registers (R168) -/

/-- What an instruction of layout R leaves that writes its engine and sets flags. -/
theorem vecWritten_setVecFlags {eng : Fin 2} {x : Entry} {f : Vec → Vec} {v : Vec} (hv : f (s.vecAt c eng) = v) (fl : Nat) :
    VecWritten c eng.val v s (((s.stripBegun c eng x).modVec c eng f).setVecFlags c eng (s.firedEntry c x) fl) :=
  ((vecKept_stripBegun eng.val x).modVec eng hv).kept (vecKept_setVecFlags _ _ _)

theorem parts_modVec (eng : Nat) (f : Vec → Vec) : (s.modVec c eng f).parts = s.parts := rfl

theorem parts_modVec_stripBegun (eng : Nat) (x : Entry) (f : Vec → Vec) : ((s.stripBegun c eng x).modVec c eng f).parts = s.parts :=
  (parts_modVec eng f).trans (parts_stripBegun eng x)

/-! ### VEC_FLAGS (R182) -/

theorem vecFlags_not_mem_coreCounters {eng : Nat} (he : eng < 2) (k : Nat) :
    RegId.vecFlags.row.addr (cix c ++ [eng]) ∉ coreCounters k := fun h => by
  simp only [coreCounters, List.mem_cons, List.mem_map, List.mem_range] at h
  rcases h with h | ⟨j, hj, h⟩ <;> simp [RegRow.addr, RegId.row, cix, sumN] at h <;> omega

theorem vecFlags_addr_ne_vecStatus (eng : Nat) :
    RegId.vecFlags.row.addr (cix c ++ [eng]) ≠ RegId.vecStatus.row.addr (cix c ++ [eng]) := by
  simp [RegRow.addr, RegId.row, cix, sumN]

/-- Core events leave VEC_FLAGS as it is. -/
theorem vecFlags_pmc {eng : Nat} (he : eng < 2) (k ev n : Nat) :
    (s.pmc k ev n).reg .vecFlags (cix c ++ [eng]) = s.reg .vecFlags (cix c ++ [eng]) :=
  reg_of_sameRegsBut (sameRegsBut_pmc k ev n) (vecFlags_not_mem_coreCounters he k)

theorem vecFlags_vecStatus (eng : Nat) (e : Entry) :
    (s.vecStatus c eng e).reg .vecFlags (cix c ++ [eng]) = s.reg .vecFlags (cix c ++ [eng]) := by
  have hne := vecFlags_addr_ne_vecStatus (c := c) eng
  rw [vecStatus, reg_setRegF_ne _ _ _ _ _ _ _ _ hne, reg_setRegF_ne _ _ _ _ _ _ _ _ hne, reg_setRegF_ne _ _ _ _ _ _ _ _ hne]

/-- An instruction that has fired, counted its beats and written its engine has set no flag. -/
theorem vecFlags_modVec_stripBegun {eng : Nat} (he : eng < 2) (x : Entry) (f : Vec → Vec) :
    ((s.stripBegun c eng x).modVec c eng f).reg .vecFlags (cix c ++ [eng]) = s.reg .vecFlags (cix c ++ [eng]) := by
  rw [modVec, reg_modCore, stripBegun, vecBeats, vecFlags_pmc he, vecFired, vecFlags_vecStatus, markFired, vecFlags_pmc he, modEntry,
    reg_modCore, reg_modCore]

/-- Flags but for that of poison are set in VEC_FLAGS alone. -/
theorem setVecFlags_of_no_poison {fl : Nat} (h0 : fl ≠ 0) (h : fl.testBit 3 = false) (eng : Nat) (e : Entry) : s.setVecFlags c eng e fl =
    s.setReg .vecFlags (cix c ++ [eng]) (s.reg .vecFlags (cix c ++ [eng]) ||| BitVec.ofNat 64 fl) := by
  rw [setVecFlags, if_neg h0, h]
  rfl

theorem parts_setVecFlags_of_no_poison {fl : Nat} (h : fl.testBit 3 = false) (eng : Nat) (e : Entry) :
    (s.setVecFlags c eng e fl).parts = s.parts := by
  by_cases h0 : fl = 0
  · rw [h0, setVecFlags_zero]
  · rw [setVecFlags_of_no_poison h0 h]
    rfl

/-- A flag that is set reads 1. -/
theorem regF_setVecFlags {fl b : Nat} (hb : fl.testBit b = true) (hlt : b < 64) (h : fl.testBit 3 = false) (eng : Nat) (e : Entry) :
    (s.setVecFlags c eng e fl).regF .vecFlags (cix c ++ [eng]) b b = 1 := by
  have h0 : fl ≠ 0 := by
    rintro rfl
    simp at hb
  rw [setVecFlags_of_no_poison h0 h, regF, reg_setReg_self, getF]
  refine Nat.eq_of_testBit_eq fun i => ?_
  rw [fld_testBit, BitVec.toNat_or, Nat.testBit_or, BitVec.toNat_ofNat, Nat.testBit_mod_two_pow]
  cases i with
  | zero => simp [hb, hlt]
  | succ i => simp [Nat.testBit_succ]

end Sys2Proof.Machine.State

namespace Sys2Proof.Machine

/-- An instruction of layout R that fires over some element is its meaning behind its beats. -/
theorem State.fireVecOp_strip {s : State} {c oc : Nat} {eng : Fin 2} {x : Entry} (hf : Fires s c (2 + eng.val) oc (s.vecAccepts c eng) x)
    (hn : 0 < (s.stripAct c eng x).n) (body : Entry → State → RWord → Vec → Act → State) :
    s.fireVecOp c eng oc (fun t e => t.strip c eng e (body e)) =
      body (s.firedEntry c x) (s.stripBegun c eng x) (rWord x.op) (s.vecAt c eng) (s.stripAct c eng x) := by
  rw [fireVecOp_fires hf, strip_fires, if_neg (by omega)]

end Sys2Proof.Machine
end

section
/-! PROOF. VMOVI and the slides (R196, R203). -/

namespace Sys2Proof.Machine

/-- What VMOVI or a slide writes: a value of each active element's own, over what the instruction found in its engine. -/
theorem State.stripBits_fires {s : State} {c oc : Nat} {eng : Fin 2} {x : Entry} (hf : Fires s c (2 + eng.val) oc (s.vecAccepts c eng) x)
    (hn : 0 < (s.stripAct c eng x).n) (f : RWord → Vec → Act → Nat → Nat) :
    s.fireVecOp c eng oc (fun t e => t.stripBits c eng e f) = (s.stripBegun c eng x).modVec c eng fun v =>
      writeAct v (s.stripAct c eng x) (rWord x.op).vd (fmtWidth (rWord x.op).fmt)
        ((s.stripAct c eng x).elems.map fun i => (i, f (rWord x.op) (s.vecAt c eng) (s.stripAct c eng x) i)) :=
  fireVecOp_strip hf hn _

/-! ### VMOVI (R196) -/

/-- The signed value of a 20-bit immediate, wrapped to 32 bits, is its sign extension. -/
theorem wrapI_signed (imm : Nat) : wrapI 32 (signed 20 imm) = ((BitVec.ofNat 20 imm).signExtend 32).toNat := by
  rw [wrapI, signed, BitVec.signExtend, BitVec.toNat_ofInt, BitVec.toInt_eq_toNat_cond, BitVec.toNat_ofNat]
  congr 2
  split <;> split <;> omega

theorem moviBits_eq (fmt imm : Nat) : State.moviBits fmt imm =
    if fmt = 9 then ((BitVec.ofNat 20 imm).signExtend 32).toNat
    else if fmt = 10 then imm else if fmt = 0 then imm * 4096 else imm % 65536 := by
  by_cases h9 : fmt = 9
  · rw [if_pos h9, h9]
    exact wrapI_signed imm
  by_cases h10 : fmt = 10
  · rw [if_neg h9, if_pos h10, h10]
    rfl
  by_cases h0 : fmt = 0
  · rw [if_neg h9, if_neg h10, if_pos h0, h0]
    rfl
  · simp [State.moviBits, h9, h10, h0]

theorem exec_vmovi (c : CoreId) (eng : Fin 2) (s : State) :
    exec (.vmovi c eng) s = .next (s.fireVecOp c eng 0x11 fun t e => t.stripBits c eng e fun r _ _ _ => State.moviBits r.fmt r.imm) := rfl

/-! ### Slides (R203) -/

/-- Element e of a slide by k over n elements: from k places above under VSLDN, from k below under VSLUP. -/
def slideElem (oc k n : Nat) (src : Nat → Nat) (e : Nat) : Nat :=
  if oc = 0x49 then (if e + k < n then src (e + k) else 0) else (if k ≤ e then src (e - k) else 0)

theorem exec_slide {c : CoreId} {eng : Fin 2} {q : Instr × Nat} (hq : q ∈ [(.vsldn c eng, 0x49), (.vslup c eng, 0x4A)]) (s : State) :
    exec q.1 s = .next (s.fireVecOp c eng q.2 fun t e => t.stripBits c eng e fun r v a =>
      slideElem q.2 (r.imm % 1024) a.n (groupRead v r.vs1 (fmtWidth r.fmt))) := by
  simp only [List.mem_cons, List.not_mem_nil, or_false] at hq
  rcases hq with rfl | rfl <;> rfl

end Sys2Proof.Machine

open Sys2Proof Sys2Proof.Machine

/-- Settles O18: VMOVI gives every active element the bits that its format makes of the immediate. -/
theorem vmoviWritesItsImmediate : Obligations.VmoviWritesItsImmediate := by
  intro s c eng x hf r v a imm hn
  have hw := (State.vecKept_stripBegun (s := s) (c := c) eng.val x).modVec eng
    (f := fun v => writeAct v a r.vd (fmtWidth r.fmt) (a.elems.map fun i => (i, imm))) rfl
  have himm : State.moviBits r.fmt r.imm = imm := moviBits_eq ..
  refine ⟨_, ?_, hw.vec, hw.other, State.parts_modVec_stripBegun .., hw.only⟩
  rw [exec_vmovi, State.stripBits_fires hf hn, himm]
  rfl

/-- Settles O19: a slide gives every active element one at its distance, and no step of it sets a flag. -/
theorem slidesMoveElements : Obligations.SlidesMoveElements := by
  intro s c eng x q hq hf r v a k src hn
  have hw := (State.vecKept_stripBegun (s := s) (c := c) eng.val x).modVec eng
    (f := fun v => writeAct v a r.vd (fmtWidth r.fmt) (a.elems.map fun e => (e, src e))) rfl
  refine ⟨_, ?_, hw.vec, State.vecFlags_modVec_stripBegun eng.isLt x _, State.parts_modVec_stripBegun .., hw.only⟩
  rw [exec_slide hq, State.stripBits_fires hf hn, State.imm_mod]
  rfl
end

section
/-! PROOF. VPERM, VCOMPRESS and VEXPAND (R179, R201, R202). -/

namespace Sys2Proof.Machine

theorem exec_vperm (c : CoreId) (eng : Fin 2) (s : State) :
    exec (.vperm c eng) s = .next (s.fireVecOp c eng 0x48 fun t x => t.fireVperm c eng x) := rfl

theorem exec_vcompress (c : CoreId) (eng : Fin 2) (s : State) :
    exec (.vcompress c eng) s = .next (s.fireVecOp c eng 0x4C fun t x => t.fireVcompress c eng x) := rfl

theorem exec_vexpand (c : CoreId) (eng : Fin 2) (s : State) :
    exec (.vexpand c eng) s = .next (s.fireVecOp c eng 0x4D fun t x => t.fireVexpand c eng x) := rfl

namespace State

/-- The element writes of a permute, a compress or an expand: each with the number that it goes to. -/
def movedElems (s : State) (c eng : Nat) (x : Entry) : List (Nat × Nat) :=
  let r := rWord x.op
  let w := fmtWidth r.fmt
  let v := s.vecAt c eng
  let a := s.stripAct c eng x
  let k := fun i => groupRead v r.vs2 32 i
  if x.opcode = 0x48 then a.elems.map fun i => (i, if k i < a.n then groupRead v r.vs1 w (k i) else 0)
  else if x.opcode = 0x4C then (List.range a.n).map fun i => (i, (a.elems.map fun j => groupRead v r.vs1 w j).getD i 0)
  else (List.range a.elems.length).map fun i => (a.elems.getD i 0, groupRead v r.vs1 w i)

/-- The flags that it sets: PERM_RANGE where an active element of a permute names none of its source (R202). -/
def movedFlags (s : State) (c eng : Nat) (x : Entry) : Nat :=
  let a := s.stripAct c eng x
  if x.opcode = 0x48 then (if a.elems.any fun i => decide (a.n ≤ groupRead (s.vecAt c eng) (rWord x.op).vs2 32 i) then flPermRange else 0)
  else 0

theorem movedFlags_no_poison (s : State) (c eng : Nat) (x : Entry) : (s.movedFlags c eng x).testBit 3 = false := by
  rw [movedFlags]
  split
  · split <;> rfl
  · rfl

theorem movedFlags_range {s : State} {c eng : Nat} {x : Entry} (hop : x.opcode = 0x48)
    (h : ∃ i ∈ (s.stripAct c eng x).elems, (s.stripAct c eng x).n ≤ groupRead (s.vecAt c eng) (rWord x.op).vs2 32 i) :
    s.movedFlags c eng x = flPermRange := by
  simp only [movedFlags, hop, if_true]
  exact if_pos (by simpa only [List.any_eq_true, decide_eq_true_eq] using h)

/-- The state in which the elements have moved. -/
def elemsMoved (s : State) (c eng : Nat) (x : Entry) : State :=
  ((s.stripBegun c eng x).modVec c eng fun v =>
    writeAct v (s.stripAct c eng x) (rWord x.op).vd (fmtWidth (rWord x.op).fmt) (s.movedElems c eng x)).setVecFlags c eng
      (s.firedEntry c x) (s.movedFlags c eng x)

theorem vecWritten_elemsMoved {s : State} {c : Nat} (eng : Fin 2) (x : Entry) :
    VecWritten c eng.val (writeAct (s.vecAt c eng) (s.stripAct c eng x) (rWord x.op).vd (fmtWidth (rWord x.op).fmt) (s.movedElems c eng x)) s
      (s.elemsMoved c eng x) := by
  rw [elemsMoved]
  exact vecWritten_setVecFlags (by rfl) _

end State

/-- Elements paired with their places in a list, as a walk over the places. -/
theorem zip_range_map (l : List Nat) (f : Nat → Nat) :
    ((List.range l.length).zip l).map (fun x => (x.2, f x.1)) = (List.range l.length).map fun i => (l.getD i 0, f i) := by
  refine List.ext_getElem (by simp) fun i hi _ => ?_
  have hlt : i < l.length := by simpa using hi
  simp [hlt]

theorem exec_move {s : State} {c : CoreId} {eng : Fin 2} {x : Entry} {q : Instr × Nat}
    (hq : q ∈ [(.vperm c eng, 0x48), (.vcompress c eng, 0x4C), (.vexpand c eng, 0x4D)])
    (hf : Fires s c (2 + eng.val) q.2 (s.vecAccepts c eng) x) (hn : 0 < (s.stripAct c eng x).n) :
    exec q.1 s = .next (s.elemsMoved c eng x) := by
  have hop := hf.2
  have hfires := fun body => State.fireVecOp_strip hf hn body
  simp only [List.mem_cons, List.not_mem_nil, or_false] at hq
  rw [State.elemsMoved, State.movedElems, State.movedFlags, hop]
  rcases hq with rfl | rfl | rfl
  · exact (exec_vperm c eng s).trans (congrArg _ (hfires _))
  · exact (exec_vcompress c eng s).trans (congrArg _ (hfires _))
  · refine (exec_vexpand c eng s).trans (congrArg _ ((hfires _).trans ?_))
    simp only [zip_range_map]
    rfl

end Sys2Proof.Machine

open Sys2Proof Sys2Proof.Machine

/-- Settles O21: the elements go to their places at once, over what the instruction found; of the three VPERM alone sets a flag, which is not
that of poison. -/
theorem permutesMoveElements : Obligations.PermutesMoveElements := by
  intro s c eng x q hq hf r w v a k res hn
  have hw := State.vecWritten_elemsMoved (s := s) (c := c) eng x
  have hres : s.movedElems c eng x = res := by rw [State.movedElems, hf.2]; rfl
  have hpoison := s.movedFlags_no_poison c eng x
  refine ⟨_, exec_move hq hf hn, hres ▸ hw.vec, hw.other,
    (State.parts_setVecFlags_of_no_poison hpoison _ _).trans (State.parts_modVec_stripBegun ..), hw.only, fun hperm hfar => ?_⟩
  have hflag := State.movedFlags_range (hf.2.trans hperm) hfar
  exact State.regF_setVecFlags (by rw [hflag]; rfl) (by decide) hpoison _ _
end

section
/-! PROOF. Reductions, scans and recurrences in the Strip profile (R204-R209). -/

namespace Sys2Proof.Machine

namespace State

variable {s : State} {c : Nat}

/-- What VRED makes of its active elements, a sum rounded once (R204). -/
def reduced (s : State) (c eng : Nat) (x : Entry) : Nat :=
  let r := rWord x.op
  let xs := (s.stripAct c eng x).elems.map fun i => groupRead (s.vecAt c eng) r.vs1 (fmtWidth r.fmt) i
  if fmtIsFloat r.fmt then
    (encodeVal r.fmt (decide (4 ≤ r.conv)) (r.conv % 4) (s.stripDraw c x r.conv 0) (reduceF (r.imm % 4) (xs.map (decodeVal r.fmt)))).1
  else reduceI (r.imm % 4) r.fmt xs

/-- Does element i start a segment (R205)? -/
def segStart (s : State) (c eng : Nat) (x : Entry) (i : Nat) : Bool :=
  (rWord x.op).imm.testBit 4 && (maskOf (s.vecAt c eng) (fld (rWord x.op).imm 7 5)).getLsbD i

/-- The results, the carry and the flags of a VSCAN (R206). -/
def scanned (s : State) (c eng : Nat) (x : Entry) : List (Option ERes) × Word × Nat :=
  let r := rWord x.op
  let v := s.vecAt c eng
  let a := s.stripAct c eng x
  scanRun r.fmt r.conv (r.imm % 4) (r.imm.testBit 2) ((List.range a.n).map fun i =>
    ⟨groupRead v r.vs1 (fmtWidth r.fmt) i, a.on i, s.segStart c eng x i, s.stripDraw c x r.conv i⟩) (lane0 v r.vs3)

/-- The results, the carry and the flags of a VREC (R208, R209). -/
def recurred (s : State) (c eng : Nat) (x : Entry) : List (Option ERes) × Word × Nat :=
  let r := rWord x.op
  let v := s.vecAt c eng
  let a := s.stripAct c eng x
  recRun r.fmt r.conv ((List.range a.n).map fun i =>
    ⟨decodeVal r.fmt (groupRead v r.vs1 (fmtWidth r.fmt) i), decodeVal r.fmt (groupRead v r.vs2 (fmtWidth r.fmt) i), a.on i,
      s.segStart c eng x i, s.stripDraw c x r.conv i⟩) (lane0 v r.vs3)

/-- The registers in which results stand under R170 and the carry in lane 0 of its register. -/
def carried (s : State) (c eng : Nat) (x : Entry) (q : List (Option ERes) × Word × Nat) (v : Vec) : Vec :=
  setLane0 (writeAct v (s.stripAct c eng x) (rWord x.op).vd (fmtWidth (rWord x.op).fmt) (resList q.1)) (rWord x.op).vs3 q.2.1

theorem fireVred_writes {eng : Fin 2} {x : Entry} (hn : 0 < (s.stripAct c eng x).n) :
    VecWritten c eng.val (groupWrite (s.vecAt c eng) (rWord x.op).vd (fmtWidth (rWord x.op).fmt) 0 (s.reduced c eng x)) s
      ((s.vecFired c eng x).fireVred c eng (s.firedEntry c x)) := by
  rw [fireVred, strip_fires, if_neg (by omega)]
  simp only [(sameInputs_stripBegun (s := s) (c := c) eng.val x).stripDraw]
  by_cases hfl : fmtIsFloat (rWord x.op).fmt = true
  · simp only [reduced, if_pos hfl]
    exact vecWritten_setVecFlags (by rfl) _
  · simp only [reduced, if_neg hfl]
    exact (vecKept_stripBegun eng.val x).modVec eng rfl

theorem stripScan_writes {eng : Fin 2} {x : Entry} (hn : 0 < (s.stripAct c eng x).n) :
    VecWritten c eng.val (s.carried c eng x (s.scanned c eng x) (s.vecAt c eng)) s
      ((s.vecFired c eng x).stripScan c eng (s.firedEntry c x)) := by
  rw [stripScan, strip_fires, if_neg (by omega)]
  simp only [(sameInputs_stripBegun (s := s) (c := c) eng.val x).stripDraw]
  exact vecWritten_setVecFlags (f := s.carried c eng x (s.scanned c eng x)) rfl _

theorem stripRec_writes {eng : Fin 2} {x : Entry} (hn : 0 < (s.stripAct c eng x).n) :
    VecWritten c eng.val (s.carried c eng x (s.recurred c eng x) (s.vecAt c eng)) s
      ((s.vecFired c eng x).stripRec c eng (s.firedEntry c x)) := by
  rw [stripRec, strip_fires, if_neg (by omega)]
  simp only [(sameInputs_stripBegun (s := s) (c := c) eng.val x).stripDraw]
  exact vecWritten_setVecFlags (f := s.carried c eng x (s.recurred c eng x)) rfl _

/-- An instruction of both profiles that in the Strip profile writes its engine ends as it has written: no memory moves for it. -/
theorem fireBoth_writes {eng : Fin 2} {oc : Nat} {x : Entry} {v : Vec} {body : State → Entry → State}
    (hf : Fires s c (2 + eng.val) oc (s.vecAccepts c eng) x) (ht : x.vset.tensor = false)
    (h : VecWritten c eng.val v s (body (s.vecFired c eng x) (s.firedEntry c x))) :
    s.fireBoth c eng oc body = body (s.vecFired c eng x) (s.firedEntry c x) := by
  rw [fireBoth_strip hf ht, (memKept_of_onlyCore h.only).settle]

end State

theorem exec_vred (c : CoreId) (eng : Fin 2) (s : State) :
    exec (.vred c eng) s = .next (s.fireVecOp c eng 0x50 fun t x => t.fireVred c eng x) := rfl

theorem exec_vscan (c : CoreId) (eng : Fin 2) (s : State) :
    exec (.vscan c eng) s = .next (s.fireBoth c eng 0x58 fun t x => t.stripScan c eng x) := rfl

theorem exec_vrec (c : CoreId) (eng : Fin 2) (s : State) :
    exec (.vrec c eng) s = .next (s.fireBoth c eng 0x5C fun t x => t.stripRec c eng x) := rfl

end Sys2Proof.Machine

open Sys2Proof Sys2Proof.Machine

/-- Settles O25: each of the three reads its engine as it fires, with the draws of that state, and writes its result, and a scan its carry
behind it; flags are set beside. -/
theorem reductionsAndScans : Obligations.ReductionsAndScans := by
  intro s c eng x r w v a sm seg u hn
  refine ⟨fun hf => ?_, fun hf htensor => ?_, fun hf htensor => ?_⟩
  · have hw := State.fireVred_writes (c := c) hn
    exact ⟨_, (exec_vred c eng s).trans (congrArg _ (State.fireVecOp_fires hf _)), hw.vec, hw.only⟩
  · have hw := State.stripScan_writes (c := c) hn
    exact ⟨_, (exec_vscan c eng s).trans (congrArg _ (State.fireBoth_writes hf htensor hw)), hw.vec, hw.only⟩
  · have hw := State.stripRec_writes (c := c) hn
    exact ⟨_, (exec_vrec c eng s).trans (congrArg _ (State.fireBoth_writes hf htensor hw)), hw.vec, hw.only⟩
end

section
/-! SUPPORT. What a special-function instruction leaves beside the register group it writes: its core but for the window and the sampling
count, the tables and programs of its slots, the images, who may fire, and FALLBACK once it is set (R68, R215, R217, R540). -/

namespace Sys2Proof.Machine.State

variable {s t u : State} {c : Nat}

/-- Of the cores only c differs, in its window and its sampling count; the images, the partitions' states and halts are as before, and
SFU_FLAGS.FALLBACK stays where it is set. -/
structure UnitKept (c : Nat) (s t : State) : Prop where
  only : OnlyCore c s t
  core : ∃ w n, t.core c = { s.core c with window := w, sampleCount := n }
  parts : ∀ p, (t.part p).img = (s.part p).img ∧ (t.part p).halting = (s.part p).halting
  states : t.reg .keepPartState [] = s.reg .keepPartState []
  fallback : s.regF .sfuFlags (cix c) 1 1 = 1 → t.regF .sfuFlags (cix c) 1 1 = 1

theorem unitKept_refl (s : State) : UnitKept c s s := ⟨⟨rfl, fun _ _ => rfl⟩, ⟨_, _, rfl⟩, fun _ => ⟨rfl, rfl⟩, rfl, id⟩

theorem UnitKept.trans (h : UnitKept c s t) (k : UnitKept c t u) : UnitKept c s u := by
  obtain ⟨w, n, hcore⟩ := h.core
  obtain ⟨w', n', kcore⟩ := k.core
  exact ⟨onlyCore_trans h.only k.only, ⟨w', n', by rw [kcore, hcore]⟩,
    fun p => ⟨(k.parts p).1.trans (h.parts p).1, (k.parts p).2.trans (h.parts p).2⟩, k.states.trans h.states, k.fallback ∘ h.fallback⟩

namespace UnitKept

variable (h : UnitKept c s t)
include h

theorem vecAt (eng : Nat) : t.vecAt c eng = s.vecAt c eng := by
  obtain ⟨w, n, hcore⟩ := h.core
  rw [State.vecAt, hcore, State.vecAt]
  rfl

theorem sameInputs : SameInputs c s t := by
  obtain ⟨w, n, hcore⟩ := h.core
  refine ⟨by rw [hcore], by rw [hcore]; exact ⟨rfl, rfl⟩, fun p => (h.parts p).1, ?_, funext (memKept_of_onlyCore h.only).bankOf⟩
  rw [h.only.1]

theorem firing (p : Nat) : t.firing p = s.firing p := by
  have hp : t.pstate p = s.pstate p := by rw [pstate, regF, h.states]; rfl
  rw [State.firing, State.firing, isRunning, isRunning, hp, (h.parts p).2]

end UnitKept

/-! ### Its steps -/

theorem unitKept_onlyRegs (h : OnlyRegs s t) (hstates : t.reg .keepPartState [] = s.reg .keepPartState [])
    (hfallback : s.regF .sfuFlags (cix c) 1 1 = 1 → t.regF .sfuFlags (cix c) 1 1 = 1) : UnitKept c s t := by
  have hpart : ∀ p, t.part p = s.part p := fun p => by rw [part, part, parts_of_onlyRegs h]
  exact ⟨(vecKept_onlyRegs h).only, ⟨_, _, core_of_onlyRegs h c⟩, fun p => by rw [hpart]; exact ⟨rfl, rfl⟩, hstates, hfallback⟩

theorem sfuFlags_not_mem_coreCounters (k : Nat) : RegId.sfuFlags.row.addr (cix c) ∉ coreCounters k := fun h => by
  simp only [coreCounters, List.mem_cons, List.mem_map, List.mem_range] at h
  rcases h with h | ⟨j, hj, h⟩ <;> simp [RegRow.addr, RegId.row, cix, sumN] at h <;> omega

theorem unitKept_pmc (k ev n : Nat) : UnitKept c s (s.pmc k ev n) := by
  have hregs := sameRegsBut_pmc (s := s) k ev n
  refine unitKept_onlyRegs (pmc_frame s k ev n) (reg_of_sameRegsBut hregs (partStates_not_mem_coreCounters k)) fun hset => ?_
  rw [regF, reg_of_sameRegsBut hregs (sfuFlags_not_mem_coreCounters k)]
  exact hset

theorem unitKept_setSfuFallback (v : Nat) : UnitKept c s (s.setRegF .sfuFallback (cix c) 31 0 v) :=
  unitKept_onlyRegs (onlyRegs_setReg s _ _ _) (reg_setRegF_ne _ _ _ _ _ _ _ _ (partStates_addr_ne (by decide) _)) fun hset => by
    rw [regF_setRegF_ne _ _ _ _ _ _ _ _ _ _ (by simp [RegRow.addr, RegId.row])]
    exact hset

theorem fallback_flag_self : (s.flag .sfuFlags (cix c) 1).regF .sfuFlags (cix c) 1 1 = 1 :=
  regF_setRegF_self s _ _ _ _ _ le_rfl (by decide)

theorem unitKept_flag {b : Nat} (hb : b < 64) : UnitKept c s (s.flag .sfuFlags (cix c) b) :=
  unitKept_onlyRegs (onlyRegs_setReg s _ _ _) (reg_setRegF_ne _ _ _ _ _ _ _ _ (partStates_addr_ne (by decide) _)) fun hset => by
    by_cases h1 : b = 1
    · rw [h1]
      exact fallback_flag_self
    · rw [flag, regF_setRegF_apart _ _ _ _ _ _ _ _ le_rfl hb (by omega)]
      exact hset

theorem unitKept_modEntry (uid : Nat) (f : Entry → Entry) : UnitKept c s (s.modEntry c uid f) :=
  ⟨onlyCore_modCore _, ⟨_, _, core_modCore_self ..⟩, fun _ => ⟨rfl, rfl⟩, rfl, id⟩

theorem unitKept_modPart (p : Nat) {f : Part → Part} (hf : ∀ x, (f x).img = x.img ∧ (f x).halting = x.halting) :
    UnitKept c s (s.modPart p f) := by
  refine ⟨⟨rfl, fun _ _ => rfl⟩, ⟨_, _, rfl⟩, fun q => ?_, rfl, id⟩
  by_cases hq : q = p
  · rw [hq, part_modPart_self]
    exact hf _
  · rw [part_modPart_ne _ _ _ hq]
    exact ⟨rfl, rfl⟩

theorem unitKept_markFired (e : Entry) : UnitKept c s (s.markFired c e) := by
  have hbegun := onlyBegun_markFired (s := s) (c := c) e
  obtain ⟨n, hcore⟩ := core_markFired (s := s) (c := c) e
  refine ⟨(vecKept_markFired e).only, ⟨_, n, hcore⟩, fun p => by rw [hbegun.only.part]; exact ⟨rfl, rfl⟩, hbegun.aside.holders.states,
    fun hset => ?_⟩
  rw [regF, show (s.markFired c e).reg .sfuFlags (cix c) = s.reg .sfuFlags (cix c) from hbegun.regs _ _ sfuFlags_not_mem_coreCounters]
  exact hset

theorem unitKept_poisonIn (p : Nat) (step : Word) : UnitKept c s (s.poisonIn c p step) :=
  (unitKept_modPart p (by intro x; split <;> exact ⟨rfl, rfl⟩)).trans (unitKept_pmc c 0x0B 1)

/-! ### An instruction in fallback mode (R217) -/

/-- The flag, the count and the event of an instruction in fallback mode, and its mark in the window. -/
def fallbackNoted (s : State) (c : Nat) (e : Entry) : State :=
  (((s.flag .sfuFlags (cix c) 1).bump .sfuFallback (cix c) 31 0).pmc c 0x07 1).modEntry c e.uid fun x => { x with fallback := true }

theorem fallbackNoted_kept (e : Entry) :
    UnitKept c s (s.fallbackNoted c e) ∧ (s.fallbackNoted c e).regF .sfuFlags (cix c) 1 1 = 1 := by
  have hrest : UnitKept c (s.flag .sfuFlags (cix c) 1) (s.fallbackNoted c e) :=
    ((unitKept_setSfuFallback _).trans (unitKept_pmc c _ _)).trans (unitKept_modEntry _ _)
  exact ⟨(unitKept_flag (by decide)).trans hrest, hrest.fallback fallback_flag_self⟩

/-- An instruction in fallback mode of a partition that fires is noted, and its step is reported at the step's barrier. -/
theorem flagFallback_kept {p : Nat} (hp : (s.core c).part = some p) (hfire : s.firing p = true) (e : Entry) :
    UnitKept c s (s.flagFallback c e) ∧ (s.flagFallback c e).regF .sfuFlags (cix c) 1 1 = 1 := by
  obtain ⟨hnoted, hset⟩ := fallbackNoted_kept (s := s) (c := c) e
  have hstep : ∃ f : Part → Part, (∀ x, (f x).img = x.img ∧ (f x).halting = x.halting) ∧ s.flagFallback c e =
      if ((s.fallbackNoted c e).modPart p f).firing p then (s.fallbackNoted c e).modPart p f
      else ((s.fallbackNoted c e).modPart p f).reportAll p := by
    refine ⟨_, ?_, by rw [flagFallback, hp]; rfl⟩
    exact fun x => ⟨rfl, rfl⟩
  obtain ⟨f, hf, hx⟩ := hstep
  have hall := hnoted.trans (unitKept_modPart p hf)
  rw [hx, if_pos ((hall.firing p).trans hfire)]
  exact ⟨hall, (unitKept_modPart p hf).fallback hset⟩

/-- An instruction fires on a core of a partition that fires (R68, R84). -/
theorem firing_of_fires {unit oc : Nat} {acc : Entry → Bool} {x : Entry} (hf : Fires s c unit oc acc x) :
    ∃ p, (s.core c).part = some p ∧ s.firing p = true := by
  have hmay : s.mayFire c = true := by
    have hready := hf.1
    rw [oldestReady] at hready
    split at hready
    · assumption
    · cases hready
  rw [mayFire] at hmay
  split at hmay
  · cases hmay
  next p hp =>
    simp only [Bool.and_eq_true] at hmay
    exact ⟨p, hp, hmay.1.1.1.1⟩

end Sys2Proof.Machine.State
end

section
/-! PROOF. SFEVAL, SFGATE and SFRENNET in register mode (R215, R219, R221, R226, R228). -/

namespace Sys2Proof.Machine

namespace State

variable {s t : State} {c : Nat}

/-- No entry of a slot that an instruction reads fails its parity (R233). -/
def ParityFree (k : Core) (w : SfWord) : Prop := ∀ n ∈ slotNeeds k w, (slotOf k n.1).parity = []

/-- Elements without a parity error ahead set the poison flag at most. -/
theorem sfRun_kept {w : SfWord} (h : ParityFree (s.core c) w) (e : Entry) (fmt conv : Nat) (mode : SMode) (f2 : Nat)
    (xs : List (FVal × FVal × Nat)) : UnitKept c s (s.sfRun c e w fmt conv mode f2 xs).1 := by
  have hall : (slotNeeds (s.core c) w).all (fun n => (slotOf (s.core c) n.1).parity.isEmpty) = true :=
    List.all_eq_true.mpr fun n hn => List.isEmpty_iff.mpr (h n hn)
  simp only [sfRun, hall, Bool.or_true, if_true]
  split
  · exact (unitKept_flag (by decide)).trans (unitKept_poisonIn _ _)
  · exact unitKept_refl s

/-- The state in which an instruction has its mode, before its elements: FUNC_MISMATCH where a slot holds another function's table, and what
fallback mode notes (R215, R217). -/
def sfModed (s : State) (c : Nat) (e : Entry) : State :=
  let q := modeOf (s.core c) (sfWord e.op)
  let t := if q.2 then s.flag .sfuFlags (cix c) 2 else s
  if q.1 = .normal then t else t.flagFallback c e

theorem fireSf_register {e : Entry} (ht : (sfWord e.op).tens = false) (hn : 0 < boundN e.vset) : s.fireSf c e =
    (s.sfModed c e).sfRegister c e (sfWord e.op) (modeOf (s.core c) (sfWord e.op)).1 (gateCode (s.core c) (sfWord e.op)) := by
  simp only [fireSf, ht, Bool.false_eq_true, if_false, if_neg hn.ne']
  rfl

theorem sfModed_kept {p : Nat} (hp : (s.core c).part = some p) (hfire : s.firing p = true) (e : Entry) :
    UnitKept c s (s.sfModed c e) ∧
      ((modeOf (s.core c) (sfWord e.op)).1 ≠ .normal → (s.sfModed c e).regF .sfuFlags (cix c) 1 1 = 1) := by
  have hmism : UnitKept c s (if (modeOf (s.core c) (sfWord e.op)).2 then s.flag .sfuFlags (cix c) 2 else s) := by
    split
    · exact unitKept_flag (by decide)
    · exact unitKept_refl s
  rw [sfModed]
  generalize (if (modeOf (s.core c) (sfWord e.op)).2 then s.flag .sfuFlags (cix c) 2 else s) = u at hmism ⊢
  by_cases hmode : (modeOf (s.core c) (sfWord e.op)).1 = .normal
  · simp only [if_pos hmode]
    exact ⟨hmism, fun h => absurd hmode h⟩
  · obtain ⟨hkept, hset⟩ := flagFallback_kept (hmism.sameInputs.holds.trans hp) ((hmism.firing p).trans hfire) e
    simp only [if_neg hmode]
    exact ⟨hmism.trans hkept, fun _ => hset⟩

/-- How an instruction in register mode masks its elements (R219). -/
def sfAct (s : State) (c : Nat) (e : Entry) (w : SfWord) : Act := actOf (s.vecAt c w.eng) e.vset w.m w.zm w.mreg

/-- The sources and the draw of an element in register mode (R219, R221). -/
def sfElem (s : State) (c : Nat) (e : Entry) (w : SfWord) (i : Nat) : FVal × FVal × Nat :=
  (decodeVal w.sfmt (groupRead (s.vecAt c w.eng) w.vs1 (fmtWidth w.sfmt) i),
    decodeVal w.sfmt (groupRead (s.vecAt c w.eng) w.vs2 (fmtWidth w.sfmt) i), s.stripDraw c e w.conv i)

/-- The results of the active elements, each with its element's number. -/
def sfWrites (s : State) (c : Nat) (e : Entry) (w : SfWord) (mode : SMode) (f2 : Nat) : List (Nat × Nat) :=
  (s.sfAct c e w).elems.map fun i => (i, (sfResult (s.core c) w w.fmt w.conv mode f2 (s.sfElem c e w i)).bits)

/-- The state in which an instruction in register mode has counted its beats (R222). -/
def sfCounted (s : State) (c : Nat) (e : Entry) (w : SfWord) : State :=
  s.pmc c 0x06 (((s.sfAct c e w).n + 255) / 256 * lookups (s.core c) w)

theorem sfCounted_kept (e : Entry) (w : SfWord) : UnitKept c s (s.sfCounted c e w) := unitKept_pmc c 0x06 _

theorem core_sfCounted (e : Entry) (w : SfWord) : (s.sfCounted c e w).core c = s.core c := core_of_onlyRegs (pmc_frame s c 0x06 _) c

/-- What the elements of an instruction in register mode come to. -/
def sfOutcome (s : State) (c : Nat) (e : Entry) (w : SfWord) (mode : SMode) (f2 : Nat) : State × List ERes × SMode :=
  (s.sfCounted c e w).sfRun c e w w.fmt w.conv mode f2 ((s.sfAct c e w).elems.map (s.sfElem c e w))

theorem sfRegister_eq (e : Entry) (w : SfWord) (mode : SMode) (f2 : Nat) : s.sfRegister c e w mode f2 =
    (s.sfOutcome c e w mode f2).1.modVec c w.eng fun v => writeAct v (s.sfAct c e w) w.vd (fmtWidth w.fmt)
      (((s.sfAct c e w).elems.zip (s.sfOutcome c e w mode f2).2.1).map fun x => (x.1, x.2.bits)) := by
  have hin := (sfCounted_kept (s := s) (c := c) e w).sameInputs
  have hdraw : ∀ i, s.stripDraw c e w.conv i = (s.sfCounted c e w).stripDraw c e w.conv i := fun i => by
    simp only [stripDraw, drawKey, hin.holds, hin.imgs]
  have helem : s.sfElem c e w = fun i => (decodeVal w.sfmt (groupRead (s.vecAt c w.eng) w.vs1 (fmtWidth w.sfmt) i),
      decodeVal w.sfmt (groupRead (s.vecAt c w.eng) w.vs2 (fmtWidth w.sfmt) i), (s.sfCounted c e w).stripDraw c e w.conv i) :=
    funext fun i => by rw [sfElem, hdraw]
  rw [sfOutcome, helem]
  rfl

/-- In register mode without a parity error ahead every active element's result, in the mode, goes to the group. -/
theorem sfRegister_writes {w : SfWord} (h : ParityFree (s.core c) w) (e : Entry) (mode : SMode) (f2 : Nat) :
    ∃ u, UnitKept c s u ∧ s.sfRegister c e w mode f2 =
      u.modVec c w.eng fun v => writeAct v (s.sfAct c e w) w.vd (fmtWidth w.fmt) (s.sfWrites c e w mode f2) := by
  have hcore := core_sfCounted (s := s) (c := c) e w
  rw [← hcore] at h
  refine ⟨_, (sfCounted_kept e w).trans (sfRun_kept h e w.fmt w.conv mode f2 ((s.sfAct c e w).elems.map (s.sfElem c e w))), ?_⟩
  have hres : (s.sfOutcome c e w mode f2).2.1 = (s.sfAct c e w).elems.map fun i =>
      sfResult (s.core c) w w.fmt w.conv mode f2 (s.sfElem c e w i) := by
    rw [sfOutcome, sfRun_results (.inr h), hcore, List.map_map]
    rfl
  have hzip : ((s.sfAct c e w).elems.zip (s.sfOutcome c e w mode f2).2.1).map (fun x => (x.1, x.2.bits)) = s.sfWrites c e w mode f2 := by
    rw [hres, ← List.map_prod_left_eq_zip, List.map_map]
    rfl
  rw [sfRegister_eq, hzip]
  rfl

/-- The inputs of an instruction in register mode are those of the state before it fired. -/
theorem UnitKept.sfAct (h : UnitKept c s t) (x : Entry) (w : SfWord) : t.sfAct c (s.firedEntry c x) w = s.sfAct c x w := by
  rw [State.sfAct, h.vecAt, State.sfAct]
  rfl

theorem UnitKept.sfWrites (h : UnitKept c s t) (x : Entry) (w : SfWord) (mode : SMode) (f2 : Nat) :
    t.sfWrites c (s.firedEntry c x) w mode f2 = s.sfWrites c x w mode f2 := by
  have hdraw := h.sameInputs.stripDraw x w.conv
  obtain ⟨win, n, hcore⟩ := h.core
  simp only [State.sfWrites, h.sfAct, sfElem, h.vecAt, hdraw, hcore]
  rfl

/-- A register-mode instruction without a parity error ahead: its results stand, and fallback mode has set its flag. -/
theorem fireSf_writes {oc : Nat} {x : Entry} (hf : Fires s c 4 oc (s.sfuAccepts c) x) (ht : (sfWord x.op).tens = false)
    (hn : 0 < boundN x.vset) (hclean : ParityFree (s.core c) (sfWord x.op)) :
    ∃ u, UnitKept c s u ∧
      ((modeOf (s.core c) (sfWord x.op)).1 ≠ .normal → u.regF .sfuFlags (cix c) 1 1 = 1) ∧
      (s.markFired c x).fireSf c (s.firedEntry c x) = u.modVec c (sfWord x.op).eng fun v =>
        writeAct v (s.sfAct c x (sfWord x.op)) (sfWord x.op).vd (fmtWidth (sfWord x.op).fmt)
          (s.sfWrites c x (sfWord x.op) (modeOf (s.core c) (sfWord x.op)).1 (gateCode (s.core c) (sfWord x.op))) := by
  obtain ⟨p, hp, hfire⟩ := firing_of_fires hf
  have hfired := unitKept_markFired (s := s) (c := c) x
  obtain ⟨hmoded, hset⟩ := sfModed_kept (hfired.sameInputs.holds.trans hp) ((hfired.firing p).trans hfire) (s.firedEntry c x)
  have hbefore := hfired.trans hmoded
  have hmode : modeOf ((s.markFired c x).core c) = modeOf (s.core c) ∧ gateCode ((s.markFired c x).core c) = gateCode (s.core c) := by
    obtain ⟨w, n, hcore⟩ := hfired.core
    rw [hcore]
    exact ⟨rfl, rfl⟩
  have hclean' : ParityFree (((s.markFired c x).sfModed c (s.firedEntry c x)).core c) (sfWord x.op) := by
    obtain ⟨w, n, hcore⟩ := hbefore.core
    rw [hcore]
    exact hclean
  obtain ⟨u, hu, hx⟩ := sfRegister_writes hclean' (s.firedEntry c x) (modeOf (s.core c) (sfWord x.op)).1
    (gateCode (s.core c) (sfWord x.op))
  rw [hmode.1] at hset
  refine ⟨u, hbefore.trans hu, fun h => hu.fallback (hset h), ?_⟩
  rw [fireSf_register (e := s.firedEntry c x) ht hn, hmode.1, hmode.2, ← hbefore.sfAct, ← hbefore.sfWrites]
  exact hx

theorem onlyCore_modVec (eng : Nat) (f : Vec → Vec) : OnlyCore c s (s.modVec c eng f) := onlyCore_modCore _

theorem slots_modVec (eng : Nat) (f : Vec → Vec) : ((s.modVec c eng f).core c).slots = (s.core c).slots := by
  rw [modVec, core_modCore_self, setVec]
  split <;> rfl

end State

theorem exec_sf {c : CoreId} {q : Instr × Nat} (hq : q ∈ [(.sfeval c, 0x60), (.sfgate c, 0x61), (.sfrennet c, 0x62)]) (s : State) :
    exec q.1 s = .next (s.settle (s.fireOp c 4 q.2 (s.sfuAccepts c) fun t e => t.fireSf c e)) := by
  simp only [List.mem_cons, List.not_mem_nil, or_false] at hq
  rcases hq with rfl | rfl | rfl <;> rfl

end Sys2Proof.Machine

open Sys2Proof Sys2Proof.Machine

/-- Settles O27: firing, the choice of the mode and the elements leave what the elements turn on as it was, so that each is served as the
state before the instruction says. -/
theorem specialFunctionsEvaluate : Obligations.SpecialFunctionsEvaluate := by
  intro s c x q hq hf w k v a val htens hn hclean
  obtain ⟨u, hu, hset, hx⟩ := State.fireSf_writes hf htens hn hclean
  obtain ⟨win, n, hcore⟩ := hu.core
  have honly := fun f => State.onlyCore_trans hu.only (State.onlyCore_modVec (s := u) (c := c) w.eng f)
  have hexec := exec_sf hq s
  rw [fireOp_fires hf, hx, (State.memKept_of_onlyCore (honly _)).settle] at hexec
  refine ⟨_, hexec, ?_, ?_, honly _, hset⟩
  · rw [State.vecAt_modVec_self, hu.vecAt]
    rfl
  · rw [State.slots_modVec, hcore]
end

section
/-! SUPPORT. A read of the table store where no granule of the slow tier is in error: its traffic waits at the sluices, its granules are
counted, and it gives the bytes that stand there (R230, R320, R323). -/

namespace Sys2Proof.Machine.State

variable {s t u : State} {c : Nat}

/-- Of the cores only c differs; registers, counters and the traffic at the sluices may differ beside it. -/
structure StoreServed (c : Nat) (s t : State) : Prop where
  frame : t = { s with cores := t.cores, sluices := t.sluices, mrs := t.mrs, dieSeen := t.dieSeen }
  others : ∀ k, k ≠ c → t.core k = s.core k

theorem storeServed_refl (s : State) : StoreServed c s s := ⟨rfl, fun _ _ => rfl⟩

theorem StoreServed.trans (h : StoreServed c s t) (k : StoreServed c t u) : StoreServed c s u :=
  ⟨by rw [k.frame, h.frame], fun j hj => (k.others j hj).trans (h.others j hj)⟩

theorem storeServed_modCore (f : Core → Core) : StoreServed c s (s.modCore c f) := ⟨rfl, fun _ hk => core_modCore_ne _ _ _ hk⟩

theorem storeServed_setPhase (uid : Nat) (ph : Phase) : StoreServed c s (s.setPhase c uid ph) := by
  rw [setPhase, modEntry]
  exact storeServed_modCore _

theorem storeServed_markFired (e : Entry) : StoreServed c s (s.markFired c e) := by
  obtain ⟨hframe, hothers⟩ := (vecKept_markFired (s := s) (c := c) e).only
  rw [(sameWaits_markFired e).parts] at hframe
  exact ⟨by rw [hframe], hothers⟩

namespace StoreServed

variable (h : StoreServed c s t)
include h

theorem part (p : Nat) : t.part p = s.part p := by
  rw [h.frame]
  rfl

theorem slow : t.slow = s.slow := by rw [h.frame]

theorem phys (hphys : PhysUp s) : PhysUp t := by
  rw [h.frame]
  exact hphys

theorem settle : s.settle t = t := settle_eq (by rw [h.frame]) (by rw [h.frame])

end StoreServed

theorem imgOf_of_part {p : Nat} {im : PartImg} (hp : (s.core c).part = some p) (him : (s.part p).img = some im) : s.imgOf c = some im := by
  rw [imgOf, hp]
  exact him

theorem storedAt_congr (h : t.slow = s.slow) (im : PartImg) (p k : Nat) : Claims.storedAt t im p k = Claims.storedAt s im p k := by
  rw [Claims.storedAt, h, Claims.storedAt]

/-- The state in which a section's granules wait at their sluices in a class and are counted. -/
def sectionRead (s : State) (cls : Nat) (im : PartImg) (p k : Nat) : State :=
  (s.traffic cls true (im.storeAt p k) (im.store.getD k []).length).granules true (im.storeAt p k) (im.store.getD k []).length

theorem sectionRead_frame (cls : Nat) (im : PartImg) (p k : Nat) : s.sectionRead cls im p k =
    { s with sluices := (s.sectionRead cls im p k).sluices, mrs := (s.sectionRead cls im p k).mrs,
             dieSeen := (s.sectionRead cls im p k).dieSeen } := by
  have hcounts := (s.traffic cls true (im.storeAt p k) (im.store.getD k []).length).granules_frame true (im.storeAt p k)
    (im.store.getD k []).length
  rw [Counts] at hcounts
  rw [sectionRead, hcounts]
  rfl

theorem core_sectionRead (cls : Nat) (im : PartImg) (p k j : Nat) : (s.sectionRead cls im p k).core j = s.core j := by
  rw [sectionRead_frame]
  rfl

theorem sectionRead_served (cls : Nat) (im : PartImg) (p k : Nat) : StoreServed c s (s.sectionRead cls im p k) :=
  ⟨by rw [sectionRead_frame], fun j _ => core_sectionRead cls im p k j⟩

/-- A section's bytes, once its granules are counted. -/
theorem readBytes_sectionRead (cls : Nat) (im : PartImg) (p k : Nat) :
    readBytes (s.sectionRead cls im p k).slow.data (im.storeAt p k) (im.store.getD k []).length = Claims.storedAt s im p k :=
  storedAt_congr (by rw [sectionRead_frame]) im p k

/-- The keeper's read of a section. -/
theorem storeRead_clean (h : TierClean s.slow) (p : Nat) (im : PartImg) (k : Nat) :
    s.storeRead p im k = (s.sectionRead serviceClass im p k, some (Claims.storedAt s im p k)) := by
  have hread : s.keeperRead (im.storeAt p k) (im.store.getD k []).length = (s.sectionRead serviceClass im p k, none) := by
    rw [keeperRead, marksIn_clean _ _ _ h]
    rfl
  have hbytes : (s.sectionRead serviceClass im p k).bytesAt (.tier true) (im.storeAt p k) (im.store.getD k []).length =
      Claims.storedAt s im p k := readBytes_sectionRead serviceClass im p k
  simp only [storeRead, hread, hbytes]
  rfl

/-- SFTABLE's read of a section, in its partition's class. -/
theorem sectionRead_clean (h : TierClean s.slow) (hphys : PhysUp s) (im : PartImg) (p k : Nat) :
    (s.traffic p true (im.storeAt p k) (im.store.getD k []).length).tierRead true (im.storeAt p k) (im.store.getD k []).length =
      ⟨s.sectionRead p im p k, (Claims.storedAt s im p k).map some, none⟩ := by
  have htouch := touch_idle (s.traffic p true (im.storeAt p k) (im.store.getD k []).length) true (im.storeAt p k)
    (im.store.getD k []).length hphys (.inl rfl)
  have hmarks := marksIn_clean ((s.traffic p true (im.storeAt p k) (im.store.getD k []).length).tierOf true) (im.storeAt p k)
    (im.store.getD k []).length h
  rw [tierRead, hmarks, htouch, ← readBytes_sectionRead p im p k]
  rfl

end Sys2Proof.Machine.State
end

section
/-! PROOF. The slots of culture tables: SFTABLE, the swap, the reload and the rewrite (R230, R232, R233). -/

namespace Sys2Proof.Machine

theorem slotOf_set (k : Core) (i j : Nat) (x : Slot) : slotOf { k with slots := k.slots.set i x } j = if j = i then x else slotOf k j :=
  FMap.get_set ..

namespace State

variable {s t u : State} {c p : Nat} {im : PartImg}

/-! ### SFTABLE (R230) -/

/-- The slot that SFTABLE fills, its active copy as it was. -/
def shadowed (s : State) (e : Entry) (im : PartImg) (p : Nat) (sl : Slot) : Slot :=
  { sl with shadow := some (e.gens.get 0 (getF e.op 45 42), tableAt (Claims.storedAt s im p (getF e.op 8 0)) 0 (getF e.op 8 0)), loaded := false }

/-- The state in which the table that an SFTABLE names has been read into the shadow copy. -/
def shadowFilled (s : State) (c : Nat) (e : Entry) (im : PartImg) (p : Nat) : State :=
  (s.sectionRead p im p (getF e.op 8 0)).modCore c fun k =>
    { k with slots := k.slots.set (getF e.op 45 42) (s.shadowed e im p (slotOf k (getF e.op 45 42))) }

/-- An SFTABLE that reads a table without an error fills its slot's shadow copy, and waits for the swap. -/
theorem fireSftable_fills (hp : (s.core c).part = some p) (him : (s.part p).img = some im) (hclean : TierClean s.slow) (hphys : PhysUp s)
    (e : Entry) : StoreServed c s (s.fireSftable c e) ∧
      (∀ j, slotOf ((s.fireSftable c e).core c) j =
        if j = getF e.op 45 42 then s.shadowed e im p (slotOf (s.core c) j) else slotOf (s.core c) j) ∧
      ∀ y ∈ ((s.fireSftable c e).core c).window, y.uid = e.uid → y.phase = .fired := by
  have hserved : StoreServed c s (s.shadowFilled c e im p) := (sectionRead_served p im p (getF e.op 8 0)).trans (storeServed_modCore _)
  have hx : s.fireSftable c e = (s.shadowFilled c e im p).setPhase c e.uid .fired := by
    simp only [fireSftable, imgOf_of_part hp him, hp, sectionRead_clean hclean hphys, getD_map_some]
    rfl
  rw [hx]
  refine ⟨hserved.trans (storeServed_setPhase _ _), fun j => ?_, fun y hy hu => phase_of_mem_setPhase hy hu⟩
  obtain ⟨w, hw⟩ := core_setPhase (s := s.shadowFilled c e im p) (c := c) e.uid .fired
  rw [hw, shadowFilled, core_modCore_self, core_sectionRead]
  refine (slotOf_set (s.core c) _ j _).trans ?_
  split
  next h => rw [h]
  next => rfl

/-! ### The swap (R230) -/

/-- Is an instruction in the window bound to the slot's active generation? -/
def oldReader (s : State) (c i : Nat) : Bool :=
  (s.core c).window.any fun e => e.unit == 4 && e.opcode != 0x64 && e.gens.has i && e.gens.get 0 i == (slotOf (s.core c) i).gen.toNat

/-- An SFTABLE of the slot is done once its copy is the active one. -/
def swapDone (i : Nat) (e : Entry) : Entry :=
  if e.unit = 4 ∧ e.opcode = 0x64 ∧ getF e.op 45 42 = i ∧ e.phase = .fired then { e with phase := .done } else e

theorem swapDone_not_fired (i : Nat) (e : Entry) :
    ¬ ((swapDone i e).unit = 4 ∧ (swapDone i e).opcode = 0x64 ∧ getF (swapDone i e).op 45 42 = i ∧ (swapDone i e).phase = .fired) := by
  rw [swapDone]
  split
  · exact fun h => nomatch h.2.2.2
  · assumption

/-- The state in which a slot's shadow copy is its active one. -/
def swapped (s : State) (c i g : Nat) (tb : Table) : State :=
  s.modCore c fun k => { k with slots := k.slots.set i ⟨some tb, none, BitVec.ofNat 16 g, 1, [], false⟩, window := k.window.map (swapDone i) }

theorem slotSwap_eq {i g : Nat} {tb : Table} (h : (slotOf (s.core c) i).shadow = some (g, tb)) :
    s.slotSwap c i = if s.oldReader c i then s else s.swapped c i g tb := by
  simp only [slotSwap, h]
  rfl

/-! ### Reload and rewrite (R232, R233) -/

/-- What the keeper makes of a slot from the table store. -/
def restoredSlot (s : State) (im : PartImg) (p : Nat) (sl : Slot) : Slot :=
  match sl.active with
  | some tb => { sl with active := some (tableAt (Claims.storedAt s im p tb.index) 0 tb.index), state := 1, parity := [] }
  | none => { sl with state := 0, parity := [] }

/-- The keeper's restoring of a slot moves that slot of the core and nothing else of it. -/
theorem slotRestore_restores (hp : (s.core c).part = some p) (him : (s.part p).img = some im) (hclean : TierClean s.slow) (i : Nat) :
    StoreServed c s (s.slotRestore c i) ∧ (s.slotRestore c i).core c =
      { s.core c with slots := (s.core c).slots.set i (s.restoredSlot im p (slotOf (s.core c) i)) } := by
  cases hactive : (slotOf (s.core c) i).active with
  | none =>
    have hx : s.slotRestore c i = s.modCore c fun k => { k with slots := k.slots.set i (s.restoredSlot im p (slotOf (s.core c) i)) } := by
      simp only [slotRestore, restoredSlot, hactive]
      rfl
    rw [hx]
    exact ⟨storeServed_modCore _, core_modCore_self ..⟩
  | some tb =>
    have hserved := sectionRead_served (s := s) (c := c) serviceClass im p tb.index
    have hx : s.slotRestore c i = (s.sectionRead serviceClass im p tb.index).modCore c fun k =>
        { k with slots := k.slots.set i (s.restoredSlot im p (slotOf (s.core c) i)) } := by
      simp only [slotRestore, restoredSlot, hactive, imgOf_of_part hp him, hp, storeRead_clean hclean]
    rw [hx]
    refine ⟨hserved.trans (storeServed_modCore _), ?_⟩
    rw [core_modCore_self, core_sectionRead]

/-- The reload of a core's program slot. -/
def programReload (s : State) (c i : Nat) : State :=
  match s.imgOf c, (s.core c).part with
  | some im, some p =>
    match im.rennetOf (s.core c).logical i with
    | none => s
    | some j =>
      let r := s.storeRead p im (im.tables.length + j)
      match r.2 with
      | some b => r.1.modCore c fun k => { k with pslots := k.pslots.set i (rennetAt b 0) }
      | none => r.1
  | _, _ => s

theorem slotReload_eq {i : Nat} (h : (slotOf (s.core c) i).state = 3) : s.slotReload c i = (s.slotRestore c i).programReload c i := by
  rw [slotReload, if_pos h]
  rfl

/-- The reload of a program slot leaves the table slots. -/
theorem programReload_reloads (hp : (s.core c).part = some p) (him : (s.part p).img = some im) (hclean : TierClean s.slow) (i : Nat) :
    StoreServed c s (s.programReload c i) ∧ ((s.programReload c i).core c).slots = (s.core c).slots ∧
      ∀ j, im.rennetOf (s.core c).logical i = some j →
        ((s.programReload c i).core c).pslots.get ⟨0, 0, 0, [], []⟩ i = rennetAt (Claims.storedAt s im p (im.tables.length + j)) 0 := by
  cases hplace : im.rennetOf (s.core c).logical i with
  | none =>
    have hx : s.programReload c i = s := by simp only [programReload, imgOf_of_part hp him, hp, hplace]
    rw [hx]
    exact ⟨storeServed_refl s, rfl, fun j hj => nomatch hj⟩
  | some j =>
    have hserved := sectionRead_served (s := s) (c := c) serviceClass im p (im.tables.length + j)
    have hx : s.programReload c i = (s.sectionRead serviceClass im p (im.tables.length + j)).modCore c fun k =>
        { k with pslots := k.pslots.set i (rennetAt (Claims.storedAt s im p (im.tables.length + j)) 0) } := by
      simp only [programReload, imgOf_of_part hp him, hp, hplace, storeRead_clean hclean]
    rw [hx]
    refine ⟨hserved.trans (storeServed_modCore _), ?_, fun j' hj => ?_⟩
    · rw [core_modCore_self, core_sectionRead]
    · cases hj
      rw [core_modCore_self]
      exact FMap.get_set_self ..

end State

/-! ### The commands -/

theorem exec_sftable (c : CoreId) (s : State) :
    exec (.sftable c) s = .next (s.settle (s.fireOp c 4 0x64 (s.sfuAccepts c) fun t e => t.fireSftable c e)) := rfl

theorem exec_slotSwap (c : CoreId) (i : Fin 16) (s : State) : exec (.slotSwap c i) s = .next (s.slotSwap c i) := rfl

/-- SFTABLE: firing leaves the slots and the table store as they were. -/
theorem sftableFillsTheShadow : Claims.SftableFillsTheShadow := by
  intro s c p x im hf hp him herr
  obtain ⟨-, -, -, hclean, -, -, hphys⟩ := herr
  have hfired := State.storeServed_markFired (s := s) (c := c) x
  have hholds := (State.sameInputs_markFired (s := s) (c := c) x).holds
  have hslots : ∀ j, slotOf ((s.markFired c x).core c) j = slotOf (s.core c) j := fun j => by
    obtain ⟨n, hcore⟩ := State.core_markFired (s := s) (c := c) x
    rw [hcore]
    rfl
  obtain ⟨hfill, hslot, hphase⟩ := State.fireSftable_fills (hholds.trans hp) (by rw [hfired.part]; exact him)
    (by rw [hfired.slow]; exact hclean) (hfired.phys hphys) (s.firedEntry c x)
  have hserved := hfired.trans hfill
  have hexec := exec_sftable c s
  rw [fireOp_fires hf, hserved.settle] at hexec
  obtain ⟨hgen, hop, huid⟩ : (s.firedEntry c x).gens = x.gens ∧ (s.firedEntry c x).op = x.op ∧ (s.firedEntry c x).uid = x.uid :=
    ⟨rfl, rfl, rfl⟩
  simp only [State.shadowed, State.storedAt_congr hfired.slow, hslots, hgen, hop, huid] at hslot hphase
  generalize (s.markFired c x).fireSftable c (s.firedEntry c x) = t at hexec hserved hslot hphase
  refine ⟨t, hexec, ?_, ?_, fun j hj => ?_, hphase, ?_, hserved.others⟩
  · rw [hslot, if_pos rfl]
  · rw [hslot, if_pos rfl]
  · rw [hslot, if_neg hj]
  · rw [hserved.frame]

/-- SLOT_SWAP, by whether an instruction is bound to the old generation. -/
theorem slotSwapWaitsForOldReaders : Claims.SlotSwapWaitsForOldReaders := by
  intro s c i g tb hshadow old
  have hexec := exec_slotSwap c i s
  rw [State.slotSwap_eq hshadow] at hexec
  refine ⟨fun hold => hexec.trans (congrArg _ (if_pos hold)), fun hold => ?_⟩
  have hcore : (s.swapped c i g tb).core c = _ := State.core_modCore_self ..
  refine ⟨_, hexec.trans (congrArg _ (if_neg (Bool.eq_false_iff.mp hold))), ?_, fun e he => ?_, rfl, fun k hk => State.core_modCore_ne _ _ _ hk⟩
  · rw [hcore]
    exact FMap.get_set_self ..
  · rw [hcore] at he
    obtain ⟨y, -, rfl⟩ := List.mem_map.mp he
    exact State.swapDone_not_fired i y

/-- What a reload or a rewrite does, by the slot state that it serves (R232, R233). -/
def restored (s : State) (c i q : Nat) : State := if q = 3 then s.slotReload c i else s.slotRewrite c i

theorem exec_restore {c : CoreId} {i : Fin 16} {q : Instr × Nat} (hq : q ∈ [(.slotReload c i, 3), (.slotParityRewrite c i, 2)]) (s : State) :
    exec q.1 s = .next (s.settle (restored s c i q.2)) := by
  simp only [List.mem_cons, List.not_mem_nil, or_false] at hq
  rcases hq with rfl | rfl <;> rfl

/-- A reload or a rewrite of a slot in the state that it serves restores the slot, and a reload the program slot too. -/
theorem restored_serves {s : State} {c i p q : Nat} {im : PartImg} (hp : (s.core c).part = some p) (him : (s.part p).img = some im)
    (hclean : TierClean s.slow) (hq : q = 3 ∨ q = 2) (hstate : (slotOf (s.core c) i).state = q) :
    State.StoreServed c s (restored s c i q) ∧
      slotOf ((restored s c i q).core c) i = s.restoredSlot im p (slotOf (s.core c) i) ∧
      (q = 3 → ∀ j, im.rennetOf (s.core c).logical i = some j →
        ((restored s c i q).core c).pslots.get ⟨0, 0, 0, [], []⟩ i = rennetAt (Claims.storedAt s im p (im.tables.length + j)) 0) := by
  obtain ⟨hserved, hcore⟩ := State.slotRestore_restores hp him hclean i
  have hslot : slotOf ((s.slotRestore c i).core c) i = s.restoredSlot im p (slotOf (s.core c) i) := by
    rw [hcore]
    exact FMap.get_set_self ..
  rcases hq with rfl | rfl
  · obtain ⟨hreload, hslots, hprogram⟩ := State.programReload_reloads (by rw [hcore]; exact hp) (by rw [hserved.part]; exact him)
      (by rw [hserved.slow]; exact hclean) i
    rw [restored, if_pos rfl, State.slotReload_eq hstate]
    refine ⟨hserved.trans hreload, ?_, fun _ j hj => ?_⟩
    · rw [slotOf, hslots]
      exact hslot
    · rw [hprogram j (by rw [hcore]; exact hj), State.storedAt_congr hserved.slow]
  · rw [restored, if_neg (by decide), State.slotRewrite, if_pos hstate]
    exact ⟨hserved, hslot, fun h => absurd h (by decide)⟩

/-- SLOT_RELOAD and SLOT_PARITY_REWRITE, by whether the slot holds a table. -/
theorem slotsAreRestored : Claims.SlotsAreRestored := by
  intro s c p i im q hq hp him herr sl hstate
  obtain ⟨-, -, -, hclean, -⟩ := herr
  have hq2 : q.2 = 3 ∨ q.2 = 2 := by
    simp only [List.mem_cons, List.not_mem_nil, or_false] at hq
    exact hq.imp (congrArg Prod.snd) (congrArg Prod.snd)
  obtain ⟨hserved, hslot, hprogram⟩ := restored_serves hp him hclean hq2 hstate
  refine ⟨_, (exec_restore hq s).trans (congrArg _ hserved.settle), hserved.frame, hserved.others, fun tb htb => ?_, fun hnone => ?_, hprogram⟩
  · rw [hslot, State.restoredSlot, htb]
  · rw [hslot, State.restoredSlot, hnone]

end Sys2Proof.Machine

open Sys2Proof Sys2Proof.Machine

/-- Settles O28: the table store reads as it stands, and each command moves the one slot, or the program slot, that it names. -/
theorem tableSlots : Obligations.TableSlots := ⟨sftableFillsTheShadow, slotSwapWaitsForOldReaders, slotsAreRestored⟩
end

section
/-! PROOF. RSFIN and RSMERGE rewrite their records one by one, and RSTAT does its first row (R242-R246, R249-R251). -/

namespace Sys2Proof.Machine

namespace State

variable {s t u : State} {c : Nat} {pl : Place}

/-! ### Bytes of one place rewritten -/

/-- Bytes written in one place stand, and no other byte has changed. -/
theorem written_stands {a : Nat} {bs : List Byte} (hself : t.cells pl = writeBytes (s.cells pl) a bs)
    (hothers : ∀ q, q ≠ pl → t.cells q = s.cells q) : readBytes (t.cells pl) a bs.length = bs ∧ SameMemBut pl a bs.length s t := by
  refine ⟨by rw [hself, readBytes_writeBytes_self], fun q b hq => ?_⟩
  by_cases hqp : q = pl
  · subst hqp
    rw [hself]
    exact readByte_writeBytes_of_not_mem _ fun h => hq ⟨rfl, h⟩
  · rw [hothers q hqp]

theorem sameMemBut_mono {lo n lo' n' : Nat} (h : SameMemBut pl lo n s t) (hlo : lo' ≤ lo) (hhi : lo + n ≤ lo' + n') : SameMemBut pl lo' n' s t :=
  fun q a hq => h q a fun ⟨hqp, hl, hh⟩ => hq ⟨hqp, hlo.trans hl, hh.trans_le hhi⟩

/-- Bytes apart from those that may have changed read as before. -/
theorem readBytes_of_sameMemBut {lo n : Nat} (h : SameMemBut pl lo n s t) {q : Place} {a k : Nat} (hd : q = pl → a + k ≤ lo ∨ lo + n ≤ a) :
    readBytes (t.cells q) a k = readBytes (s.cells q) a k := by
  refine List.map_congr_left fun i hi => h q (a + i) fun hin => ?_
  obtain ⟨hq, hlo, hhi⟩ := hin
  have hik := List.mem_range.mp hi
  have hapart := hd hq
  omega

/-! ### Records rewritten one by one (R249, R250) -/

/-- The n records of 64 bytes from record off of a bank have come to f, nothing of them is held, and of memory nothing else has moved. -/
structure RecordsBecome (pl : Place) (off n : Nat) (f : Nat → List Byte) (s t : State) : Prop where
  stores : BankStores pl s t
  held : t.held = s.held
  inside : ∀ i, i < n → readBytes (t.cells pl) (64 * (off + i)) 64 = f i
  outside : SameMemBut pl (64 * off) (64 * n) s t

theorem recordsBecome_none (he : (s.bankOf pl).errs = []) (off : Nat) (f : Nat → List Byte) : RecordsBecome pl off 0 f s s :=
  ⟨bankStores_refl he, rfl, nofun, fun _ _ _ => rfl⟩

theorem recordsBecome_unchanged (he : (s.bankOf pl).errs = []) (off : Nat) :
    RecordsBecome pl off 1 (fun _ => readBytes (s.cells pl) (64 * off) 64) s s :=
  ⟨bankStores_refl he, rfl, fun i hi => by rw [Nat.lt_one_iff.mp hi, Nat.add_zero], fun _ _ _ => rfl⟩

/-- A record stored where no load binds a byte. -/
theorem recordsBecome_stored {uid : Nat} (hb : IsBank pl) (he : (s.bankOf pl).errs = []) (hn : s.boundSpans c uid = []) (off : Nat)
    {bs : List Byte} (hlen : bs.length = 64) : RecordsBecome pl off 1 (fun _ => bs) s (s.storeRun c uid pl (64 * off) bs).1 := by
  obtain ⟨hst, -⟩ := storeRun_bankStores (c := c) (uid := uid) hb he (64 * off) bs
  obtain ⟨hdata, hheld⟩ := storeRun_of_unbound (c := c) (uid := uid) hb he hn (64 * off) bs
  rw [← cells_of_isBank hb, ← cells_of_isBank hb] at hdata
  obtain ⟨hstands, hrest⟩ := written_stands hdata fun q hq => hst.cells hq
  rw [hlen] at hstands hrest
  exact ⟨hst, hheld, fun i hi => by rw [Nat.lt_one_iff.mp hi]; exact hstands, hrest⟩

namespace RecordsBecome

variable {off n : Nat} {f : Nat → List Byte}

/-- Registers that move before do not matter. -/
theorem of_onlyRegs (h : RecordsBecome pl off n f t u) (hr : OnlyRegs s t) (he : (s.bankOf pl).errs = []) : RecordsBecome pl off n f s u := by
  have hcells := (memKept_of_onlyRegs hr).cells
  refine ⟨(bankStores_onlyRegs hr he).trans h.stores, h.held.trans ?_, h.inside, fun q a hq => (h.outside q a hq).trans (by rw [hcells])⟩
  rw [OnlyRegs] at hr
  rw [hr]

/-- Nor do registers that move after. -/
theorem onlyRegs (h : RecordsBecome pl off n f s t) (hr : OnlyRegs t u) : RecordsBecome pl off n f s u := by
  have hcells := (memKept_of_onlyRegs hr).cells
  refine ⟨h.stores.trans (bankStores_onlyRegs hr h.stores.clean), Eq.trans ?_ h.held, fun i hi => by rw [hcells]; exact h.inside i hi,
    fun q a hq => by rw [hcells]; exact h.outside q a hq⟩
  rw [OnlyRegs] at hr
  rw [hr]

/-- The next record comes after those before it. -/
theorem snoc (h : RecordsBecome pl off n f s t) (k : RecordsBecome pl (off + n) 1 (fun _ => f n) t u) : RecordsBecome pl off (n + 1) f s u := by
  refine ⟨h.stores.trans k.stores, k.held.trans h.held, fun i hi => ?_, fun q a hq => ?_⟩
  · rcases Nat.lt_succ_iff_lt_or_eq.mp hi with hlt | rfl
    · rw [readBytes_of_sameMemBut k.outside fun _ => .inl (by omega)]
      exact h.inside i hlt
    · exact k.inside 0 Nat.one_pos
  · exact (sameMemBut_mono k.outside (by omega) (by omega) q a hq).trans (sameMemBut_mono h.outside (le_refl _) (by omega) q a hq)

/-- Bytes apart from the records read as before. -/
theorem readBytes_apart (h : RecordsBecome pl off n f s t) {q : Place} {r : Nat} (hd : q = pl → r + 1 ≤ off ∨ off + n ≤ r) :
    readBytes (t.cells q) (64 * r) 64 = readBytes (s.cells q) (64 * r) 64 :=
  readBytes_of_sameMemBut h.outside fun hq => by have := hd hq; omega

theorem errs (h : RecordsBecome pl off n f s t) (herrs : ∀ q, (s.bankOf q).errs = []) (q : Place) : (t.bankOf q).errs = [] := by
  by_cases hq : q = pl
  · rw [hq]
    exact h.stores.clean
  · rw [h.stores.others q hq]
    exact herrs q


end RecordsBecome

/-- What an RSMERGE or an RSFIN does once its records have come to r: it is done, waits, or faults. -/
def recordsEnd (s : State) (c : Nat) (e : Entry) (pl : Place) (off n : Nat) (r : State × Bool) : State :=
  if r.2 then r.1.statBad c e pl off n else (r.1.heldExt s.held.length [⟨pl, 64 * off, 64 * n⟩]).waitHeld c e.uid

/-- Where no record was bad and nothing is held, nothing is left to do. -/
theorem recordsEnd_of_becomes {e : Entry} {off n : Nat} {f : Nat → List Byte} {r : State × Bool} (hgood : r.2 = false)
    (h : RecordsBecome pl off n f s r.1) (hn : s.hasHeld c e.uid = false) : s.recordsEnd c e pl off n r = r.1 := by
  have hext : ∀ ext, r.1.heldExt s.held.length ext = r.1 := fun ext => by rw [heldExt, modHeld, if_pos (by rw [h.held])]
  rw [recordsEnd, hgood, if_neg Bool.false_ne_true, hext, waitHeld, hasHeld_congr h.held, hn, if_neg Bool.false_ne_true]

/-- Steps over the records of a range in order, up to one that fails. -/
def eachRecord (s : State) (g : State → Nat → State × Bool) (n : Nat) : State × Bool :=
  (List.range n).foldl (fun (acc : State × Bool) i => if acc.2 then acc else g acc.1 i) (s, false)

/-- Steps that each rewrite their own record, whatever those before have made of the earlier ones, rewrite them all. -/
theorem eachRecord_becomes {g : State → Nat → State × Bool} {off n : Nat} {f : Nat → List Byte} (he : (s.bankOf pl).errs = [])
    (hstep : ∀ i t, i < n → RecordsBecome pl off i f s t → (g t i).2 = false ∧ RecordsBecome pl (off + i) 1 (fun _ => f i) t (g t i).1) :
    (s.eachRecord g n).2 = false ∧ RecordsBecome pl off n f s (s.eachRecord g n).1 := by
  induction n with
  | zero => exact ⟨rfl, recordsBecome_none he off f⟩
  | succ n ih =>
    obtain ⟨hgood, hdone⟩ := ih fun i t hi => hstep i t (Nat.lt_succ_of_lt hi)
    have hnext : s.eachRecord g (n + 1) = g (s.eachRecord g n).1 n := by
      rw [eachRecord, List.range_succ, List.foldl_append]
      exact if_neg (by rw [← eachRecord, hgood]; exact Bool.false_ne_true)
    obtain ⟨hlast, hbecomes⟩ := hstep n _ n.lt_succ_self hdone
    rw [hnext]
    exact ⟨hlast, hdone.snoc hbecomes⟩

/-! ### One record of an RSFIN and of an RSMERGE -/

theorem onlyRegs_rsFlags (xs : List FVal) (sat clamped : Bool) : OnlyRegs s (s.rsFlags c xs sat clamped) := by
  have hflag : ∀ (b : Bool) (u : State) (n : Nat), OnlyRegs u (if b then u.flag .rsFlags (cix c) n else u) := fun b u n => by
    split <;> rfl
  exact onlyRegs_trans (onlyRegs_trans (onlyRegs_trans (hflag _ s 0) (hflag _ _ 1)) (hflag _ _ 2)) (hflag _ _ 3)

/-- A partial record's final statistics (R250, R251). -/
def finishedRecord (eps : Nat) (a : List Byte) : List Byte := ((Partial.ofBytes a).finish eps).bytes

/-- Record b merged into record a: a stays where b is empty, and b stands where a is (R249). -/
def mergedRecord (a b : List Byte) : List Byte :=
  if (Partial.ofBytes b).n = 0 then a else if (Partial.ofBytes a).n = 0 then b else ((Partial.ofBytes a).merge (Partial.ofBytes b)).bytes

theorem finOne_becomes {e : Entry} (hb : IsBank pl) (he : (s.bankOf pl).errs = []) (hn : s.boundSpans c e.uid = []) (off eps : Nat) :
    (s.finOne c e pl off eps).2 = false ∧
      RecordsBecome pl off 1 (fun _ => finishedRecord eps (readBytes (s.cells pl) (64 * off) 64)) s (s.finOne c e pl off eps).1 := by
  have hread := vatGrants_frame s pl (64 * off) 64
  have hst := fun bs hlen => recordsBecome_stored (c := c) (uid := e.uid) (bs := bs) hb ((bankStores_onlyRegs hread he).clean)
    (((stays_onlyRegs (c := c) hread).boundSpans _ _).trans hn) off hlen
  simp only [finOne, bankRead_clean _ _ _ _ he, getD_map_some, Option.isSome_none, Bool.false_eq_true, if_false, true_and, cells_of_isBank hb]
  exact ((hst _ (length_finalBytes _)).onlyRegs (onlyRegs_rsFlags ..)).of_onlyRegs hread he

theorem mergeOne_becomes {e : Entry} {pb : Place} (hb : IsBank pl) (hb' : IsBank pb) (herrs : ∀ q, (s.bankOf q).errs = [])
    (hn : s.boundSpans c e.uid = []) (oa ob : Nat) : (s.mergeOne c e pl pb oa ob).2 = false ∧
      RecordsBecome pl oa 1 (fun _ => mergedRecord (readBytes (s.cells pl) (64 * oa) 64) (readBytes (s.cells pb) (64 * ob) 64)) s
        (s.mergeOne c e pl pb oa ob).1 := by
  have hreada := vatGrants_frame s pl (64 * oa) 64
  have hread := onlyRegs_trans hreada (vatGrants_frame (s.vatGrants pl (64 * oa) 64) pb (64 * ob) 64)
  have hst := fun bs hlen => recordsBecome_stored (c := c) (uid := e.uid) (bs := bs) hb ((bankStores_onlyRegs hread (herrs pl)).clean)
    (((stays_onlyRegs (c := c) hread).boundSpans _ _).trans hn) oa hlen
  have hstored := fun bs sat hlen => ((hst bs hlen).onlyRegs (onlyRegs_rsFlags (c := c) [] sat false)).of_onlyRegs hread (herrs pl)
  simp only [mergeOne, bankRead_clean _ _ _ _ (herrs pl), bankRead_clean _ _ _ _ (errs_onlyRegs herrs hreada pb), getD_map_some,
    Option.isSome_none, Bool.or_self, Bool.false_eq_true, if_false, mergedRecord, cells_of_isBank hb, cells_of_isBank hb',
    bankOf_onlyRegs hreada pb]
  by_cases hempty : (Partial.ofBytes (readBytes (s.bankOf pb).data (64 * ob) 64)).n = 0
  · simp only [hempty, if_true, true_and, ← cells_of_isBank hb]
    exact (recordsBecome_unchanged (herrs pl) oa).onlyRegs hread
  · simp only [hempty, if_false, true_and]
    refine hstored _ _ ?_
    split
    · simp [readBytes]
    · exact length_partialBytes _

/-! ### RSFIN and RSMERGE -/

/-- What an RSFIN does with its record i. -/
def finStep (c : Nat) (e : Entry) (pl : Place) (u : State) (i : Nat) : State × Bool :=
  u.finOne c e pl (getF e.op 50 36 + i) (getF e.op 15 0)

/-- What an RSMERGE does with its records i. -/
def mergeStep (c : Nat) (e : Entry) (pa pb : Place) (u : State) (i : Nat) : State × Bool :=
  u.mergeOne c e pa pb (getF e.op 50 36 + i) (getF e.op 30 16 + i)

/-- What an RSFIN makes of its record i. -/
def finRecord (s : State) (e : Entry) (pl : Place) (i : Nat) : List Byte :=
  finishedRecord (getF e.op 15 0) (readBytes (s.cells pl) (64 * (getF e.op 50 36 + i)) 64)

/-- What an RSMERGE makes of record i of its first range. -/
def mergeRecord (s : State) (e : Entry) (pa pb : Place) (i : Nat) : List Byte :=
  mergedRecord (readBytes (s.cells pa) (64 * (getF e.op 50 36 + i)) 64) (readBytes (s.cells pb) (64 * (getF e.op 30 16 + i)) 64)

theorem fireRsfin_eq {e : Entry} (hpl : s.locPlace (c / 16) (getF e.op 55 51) = some pl) (hown : s.coreOwns c (some pl) = true) :
    s.fireRsfin c e = s.recordsEnd c e pl (getF e.op 50 36) (getF e.op 35 21 + 1)
      (s.eachRecord (finStep c e pl) (getF e.op 35 21 + 1)) := by
  simp only [fireRsfin, hpl, hown]
  rfl

theorem fireRsmerge_eq {e : Entry} {pb : Place} (ha : s.locPlace (c / 16) (getF e.op 55 51) = some pl)
    (hb : s.locPlace (c / 16) (getF e.op 35 31) = some pb) (howna : s.coreOwns c (some pl) = true) (hownb : s.coreOwns c (some pb) = true) :
    s.fireRsmerge c e = s.recordsEnd c e pl (getF e.op 50 36) (getF e.op 15 1 + 1)
      (s.eachRecord (mergeStep c e pl pb) (getF e.op 15 1 + 1)) := by
  simp only [fireRsmerge, ha, hb, howna, hownb, Bool.and_self]
  rfl

/-- RSFIN on banks without an error finishes each of its records in place. -/
theorem fireRsfin_becomes {e : Entry} (hpl : s.locPlace (c / 16) (getF e.op 55 51) = some pl) (hown : s.coreOwns c (some pl) = true)
    (he : (s.bankOf pl).errs = []) (hnb : NothingBound s c e.uid) :
    RecordsBecome pl (getF e.op 50 36) (getF e.op 35 21 + 1) (s.finRecord e pl) s (s.fireRsfin c e) := by
  obtain ⟨hunbound, hunheld⟩ := hnb
  obtain ⟨hgood, hall⟩ := eachRecord_becomes (off := getF e.op 50 36) (n := getF e.op 35 21 + 1) (f := s.finRecord e pl)
    (g := finStep c e pl) he fun i t _ ht => by
      rw [finRecord, ← ht.readBytes_apart (q := pl) (r := getF e.op 50 36 + i) fun _ => .inr (le_refl _)]
      exact finOne_becomes (isBank_of_locPlace hpl) ht.stores.clean (ht.stores.boundSpans.trans hunbound) _ _
  rw [fireRsfin_eq hpl hown, recordsEnd_of_becomes hgood hall hunheld]
  exact hall

/-- RSMERGE on banks without an error, of ranges that share no record, merges record by record into the first. -/
theorem fireRsmerge_becomes {e : Entry} {pb : Place} (ha : s.locPlace (c / 16) (getF e.op 55 51) = some pl)
    (hb : s.locPlace (c / 16) (getF e.op 35 31) = some pb) (howna : s.coreOwns c (some pl) = true) (hownb : s.coreOwns c (some pb) = true)
    (herrs : ∀ q, (s.bankOf q).errs = []) (hnb : NothingBound s c e.uid)
    (hapart : pl ≠ pb ∨ getF e.op 50 36 + (getF e.op 15 1 + 1) ≤ getF e.op 30 16 ∨
      getF e.op 30 16 + (getF e.op 15 1 + 1) ≤ getF e.op 50 36) :
    RecordsBecome pl (getF e.op 50 36) (getF e.op 15 1 + 1) (s.mergeRecord e pl pb) s (s.fireRsmerge c e) := by
  obtain ⟨hunbound, hunheld⟩ := hnb
  obtain ⟨hgood, hall⟩ := eachRecord_becomes (off := getF e.op 50 36) (n := getF e.op 15 1 + 1) (f := s.mergeRecord e pl pb)
    (g := mergeStep c e pl pb) (herrs pl) fun i t hi ht => by
      have hother : pb = pl → getF e.op 30 16 + i + 1 ≤ getF e.op 50 36 ∨ getF e.op 50 36 + i ≤ getF e.op 30 16 + i := fun h => by
        rcases hapart with hne | hbefore | hbehind
        · exact absurd h.symm hne
        · exact .inr (by omega)
        · exact .inl (by omega)
      rw [mergeRecord, ← ht.readBytes_apart (q := pl) (r := getF e.op 50 36 + i) fun _ => .inr (le_refl _), ← ht.readBytes_apart hother]
      exact mergeOne_becomes (isBank_of_locPlace ha) (isBank_of_locPlace hb) (ht.errs herrs) (ht.stores.boundSpans.trans hunbound) _ _
  rw [fireRsmerge_eq ha hb howna hownb, recordsEnd_of_becomes hgood hall hunheld]
  exact hall

theorem nothingBound_markFired (x : Entry) {uid : Nat} (h : NothingBound s c uid) : NothingBound (s.markFired c x) c uid :=
  ⟨(boundSpans_markFired x uid).trans h.1, (hasHeld_congr (by rw [(coreOnly_markFired x).frame]) c uid).trans h.2⟩

/-- An instruction that fires and rewrites its records at once is done. -/
theorem RecordsBecome.done_of_markFired {off n : Nat} {f : Nat → List Byte} {x : Entry} (h : RecordsBecome pl off n f (s.markFired c x) t) :
    s.settle t = t ∧ SameMemBut pl (64 * off) (64 * n) s t ∧ ∀ e ∈ (t.core c).window, e.uid = x.uid → e.phase = .done := by
  have hmem := (onlyBegun_markFired (s := s) (c := c) x).aside.mem
  refine ⟨settle_eq (h.stores.goes (c := c).stalled.trans hmem.stalled) (h.stores.goes (c := c).failing.trans hmem.failing),
    fun q a hq => (h.outside q a hq).trans (by rw [cells_markFired]), fun e he hu => ?_⟩
  rw [h.stores.core] at he
  exact phase_of_mem_markFired he hu

end State

theorem exec_rsfin (c : CoreId) (s : State) : exec (.rsfin c) s =
    .next (s.settle (s.fireOp c 5 0x72 (s.strmAccepts c) fun t e => t.fireRsfin c e)) := rfl

theorem exec_rsmerge (c : CoreId) (s : State) : exec (.rsmerge c) s =
    .next (s.settle (s.fireOp c 5 0x71 (s.strmAccepts c) fun t e => t.fireRsmerge c e)) := rfl

theorem exec_rstat (c : CoreId) (s : State) : exec (.rstat c) s =
    .next (s.settle (s.fireOp c 5 0x70 (s.strmAccepts c) fun t e => t.fireRstat c e)) := rfl

/-- RSFIN and RSMERGE: each record is rewritten from what stood there before any of them was. -/
theorem recordsMergeAndFinish : Claims.RecordsMergeAndFinish := by
  constructor
  · intro s c x pl hf off n hpl hown herr hnb
    have hbegun := State.onlyBegun_markFired (s := s) (c := c) x
    have hrecords := State.fireRsfin_becomes (s := s.markFired c x) (c := c) (e := s.firedEntry c x) ((hbegun.locPlace _ _).trans hpl)
      ((hbegun.coreOwns _).trans hown) (by rw [State.bankOf_markFired]; exact State.errs_bankOf herr pl) (State.nothingBound_markFired x hnb)
    obtain ⟨hsettle, hrest, hphase⟩ := hrecords.done_of_markFired
    refine ⟨_, (exec_rsfin c s).trans (by rw [fireOp_fires hf, hsettle]), fun i hi => (hrecords.inside i hi).trans ?_, hrest, hphase⟩
    rw [State.finRecord, State.cells_markFired]
    rfl
  · intro s c x pa pb hf oa ob n ha hb howna hownb herr hnb hapart
    have hbegun := State.onlyBegun_markFired (s := s) (c := c) x
    have hrecords := State.fireRsmerge_becomes (s := s.markFired c x) (c := c) (e := s.firedEntry c x) ((hbegun.locPlace _ _).trans ha)
      ((hbegun.locPlace _ _).trans hb) ((hbegun.coreOwns _).trans howna) ((hbegun.coreOwns _).trans hownb)
      (fun q => by rw [State.bankOf_markFired]; exact State.errs_bankOf herr q) (State.nothingBound_markFired x hnb) hapart
    obtain ⟨hsettle, hrest, -⟩ := hrecords.done_of_markFired
    refine ⟨_, (exec_rsmerge c s).trans (by rw [fireOp_fires hf, hsettle]), hrest, fun i hi => (hrecords.inside i hi).trans ?_⟩
    rw [State.mergeRecord, State.cells_markFired, State.cells_markFired]
    rfl

namespace State

variable {s t : State} {c : Nat} {pl : Place}

/-! ### The first row of an RSTAT (R242) -/

/-- The entries of the instruction walk over n chunks. -/
def WalksOver (s : State) (c uid n : Nat) : Prop := ∀ y ∈ (s.core c).window, y.uid = uid → y.chunks = n

theorem walksOver_modEntry {uid n : Nat} {f : Entry → Entry} (hf : ∀ e, (f e).chunks = e.chunks) (h : WalksOver s c uid n) :
    WalksOver (s.modEntry c uid f) c uid n := by
  intro y hy hu
  rw [modEntry, core_modCore_self] at hy
  obtain ⟨z, hz, rfl⟩ := List.mem_map.mp hy
  by_cases hzu : z.uid = uid
  · rw [if_pos hzu, hf]
    exact h z hz hzu
  · rw [if_neg hzu] at hu
    exact absurd hu hzu

theorem walksOver_chunkDone {e : Entry} {n : Nat} (h : WalksOver s c e.uid n) (carry : List Word) : WalksOver (s.chunkDone c e carry) c e.uid n := by
  have hmoved : WalksOver (s.modEntry c e.uid (chunkMoved e carry)) c e.uid n := walksOver_modEntry (by exact fun _ => rfl) h
  rw [chunkDone_eq]
  split
  · exact hmoved
  · rw [waitHeld]
    split
    · exact walksOver_modEntry (by exact fun _ => rfl) hmoved
    · exact hmoved

/-- A row's store, flags and poison leave the cores as they were. -/
theorem rowEnd_cores (hb : IsBank pl) {v : State} (he : (v.bankOf pl).errs = []) (e : Entry) (xs : List FVal) (p0 : Partial) :
    ∃ u : State, u.cores = v.cores ∧ s.rowEnd v c e pl xs p0 = u.chunkDone c e [] := by
  obtain ⟨hst, -⟩ := storeRun_bankStores (c := c) (uid := e.uid) hb he (64 * (getF e.op 36 22 + e.chunk)) (recordBytes e (p0.row xs))
  obtain ⟨l, hl, -⟩ := modHeld_frame (s := (v.storeRun c e.uid pl (64 * (getF e.op 36 22 + e.chunk)) (recordBytes e (p0.row xs))).1) v.held.length
    fun h => { h with ext := [⟨pl, 64 * getF e.op 36 22, 64 * (s.tdesc c (getF e.op 55 44)).rows⟩] }
  have hpoison : ∀ (b : Bool) (u : State), (if b then u.poisonIn c (((s.core c).part).getD 0) e.step else u).cores = u.cores := fun b u => by
    have hp := regsAndParts_poisonIn (s := u) (c := c) (((s.core c).part).getD 0) e.step
    split
    · rw [hp]
    · rfl
  refine ⟨_, ?_, rfl⟩
  rw [hpoison, cores_of_onlyRegs (onlyRegs_rsFlags ..), heldExt, hl]
  exact (congrArg State.cores hst.frame).trans rfl

/-- A row that ends leaves how far its instruction walks. -/
theorem walksOver_rstatRow (h : ∀ q, (s.bankOf q).errs = []) (hb : IsBank pl) {e : Entry} {n : Nat} (hw : WalksOver s c e.uid n) (src : Place) :
    WalksOver (s.rstatRow c e src pl) c e.uid n := by
  obtain ⟨v, hv, hrow⟩ := rstatRow_eq (c := c) (e := e) h src hb
  obtain ⟨u, hu, hend⟩ := rowEnd_cores (s := s) (c := c) hb (errs_onlyRegs h hv pl) e (s.rowElems c e src) (s.rowStart c e src pl)
  rw [hrow, hend]
  refine walksOver_chunkDone ?_ []
  rw [WalksOver, core, hu, cores_of_onlyRegs hv]
  exact hw

/-- Where no load binds a byte of it, a row's record stands, and no other byte has changed. -/
theorem rstatRow_writes (h : ∀ q, (s.bankOf q).errs = []) {e : Entry} {src : Place} (hsrc : (s.tdesc c (getF e.op 55 44)).place = some src)
    (hb : IsBank pl) (hn : s.boundSpans c e.uid = []) :
    readBytes ((s.rstatRow c e src pl).cells pl) (64 * (getF e.op 36 22 + e.chunk)) 64 =
        rowRecord s c e pl (64 * (getF e.op 36 22 + e.chunk)) ∧
      SameMemBut pl (64 * (getF e.op 36 22 + e.chunk)) 64 s (s.rstatRow c e src pl) := by
  obtain ⟨-, hdata⟩ := rstatRow_ends (c := c) h hsrc hb
  obtain ⟨hself, hothers⟩ := hdata hn
  have hwritten := written_stands hself hothers
  rw [length_rowRecord] at hwritten
  exact hwritten

/-- The entry of an RSTAT that starts. -/
def statEntry (s : State) (c : Nat) (e : Entry) : Entry := { e with chunk := 0, chunks := (s.tdesc c (getF e.op 55 44)).rows }

/-- The state in which an RSTAT has started and its first row is still to be done. -/
def statBegun (s : State) (c : Nat) (e : Entry) : State :=
  s.modEntry c e.uid fun x => { x with chunk := 0, chunks := (s.tdesc c (getF e.op 55 44)).rows }

/-- The record of the first row, from the bytes of its source. -/
theorem rowRecord_statEntry {e : Entry} {src : Place} (hsrc : (s.tdesc c (getF e.op 55 44)).place = some src) (a : Nat) :
    let d := s.tdesc c (getF e.op 55 44)
    let xs := (chunksOf d.esize (readBytes (s.cells src) (d.addr 0 0) (d.cols * d.esize))).map fun b => decodeVal d.fmt (fromLE b)
    let p0 := if getF e.op 43 43 = 1 then Partial.ofBytes (readBytes (s.cells pl) a 64) else Partial.fresh (shiftOf xs)
    rowRecord s c (t.statEntry c e) pl a =
      if getF e.op 42 42 = 1 then ((p0.row xs).finish (getF e.op 15 0)).bytes else (p0.row xs).bytes := by
  simp only [rowRecord, statEntry, hsrc, Option.map_some, Option.getD_some]

theorem fireRstat_starts {e : Entry} {src : Place} (hsrc : (s.tdesc c (getF e.op 55 44)).place = some src)
    (hpl : s.locPlace (c / 16) (getF e.op 41 37) = some pl) (howns : s.coreOwns c (some src) = true) (hownp : s.coreOwns c (some pl) = true) :
    s.fireRstat c e = (s.statBegun c e).rstatRow c (s.statEntry c e) src pl := by
  simp only [fireRstat, hsrc, hpl, howns, hownp, Bool.and_self]
  rfl

/-! ### What an RSTAT's first row turns on -/

/-- The state in which an RSTAT has fired and its first row is still to be done. -/
def statFired (s : State) (c : Nat) (x : Entry) : State := (s.markFired c x).statBegun c (s.firedEntry c x)

/-- The entry of an RSTAT in that state. -/
def statWalk (s : State) (c : Nat) (x : Entry) : Entry := (s.markFired c x).statEntry c (s.firedEntry c x)

theorem sameInputs_statFired (x : Entry) : SameInputs c s (s.statFired c x) := (sameInputs_markFired x).trans (sameInputs_modEntry x.uid _)

theorem stays_statFired (x : Entry) : Stays c (s.markFired c x) (s.statFired c x) := stays_modEntry (by exact fun _ => ⟨rfl, rfl⟩) x.uid

theorem memKept_statFired (x : Entry) : MemKept s (s.statFired c x) :=
  (onlyBegun_markFired (c := c) x).aside.mem.trans (stays_statFired x).mem

theorem boundSpans_statFired (x : Entry) (uid : Nat) : (s.statFired c x).boundSpans c uid = s.boundSpans c uid :=
  ((stays_statFired x).boundSpans c uid).trans (boundSpans_markFired x uid)

theorem walksOver_statFired (x : Entry) : (s.statFired c x).WalksOver c x.uid (s.tdesc c (getF x.op 55 44)).rows := fun y hy hu => by
  obtain ⟨z, rfl⟩ := mem_modEntry hy hu
  exact congrArg TDesc.rows ((sameInputs_markFired x).tdesc _)

end State

theorem exec_rstat_starts {s : State} {c : CoreId} {x : Entry} {src pl : Place} (hf : Fires s c 5 0x70 (s.strmAccepts c) x)
    (hsrc : (s.tdesc c (getF x.op 55 44)).place = some src) (hpl : s.locPlace (c.val / 16) (getF x.op 41 37) = some pl)
    (howns : s.coreOwns c (some src) = true) (hownp : s.coreOwns c (some pl) = true) :
    exec (.rstat c) s = .next (s.settle ((s.statFired c x).rstatRow c (s.statWalk c x) src pl)) := by
  have hbegun := State.onlyBegun_markFired (s := s) (c := c) x
  rw [exec_rstat, fireOp_fires hf, State.fireRstat_starts (e := s.firedEntry c x)
    (by rw [(State.sameInputs_markFired x).tdesc]; exact hsrc) ((hbegun.locPlace _ _).trans hpl) ((hbegun.coreOwns _).trans howns)
    ((hbegun.coreOwns _).trans hownp)]
  rfl

/-- RSTAT: its first row, in the state in which its walk has begun. -/
theorem rowStatisticsOfTheFirstRow : Claims.RowStatisticsOfTheFirstRow := by
  intro s c x src pl hf d off xs p0 hsrc hpl howns hownp herr hnb
  have hb := State.isBank_of_locPlace hpl
  have hin := State.sameInputs_statFired (s := s) (c := c.val) x
  have hmem := State.memKept_statFired (s := s) (c := c.val) x
  have herrs : ∀ q, ((s.statFired c x).bankOf q).errs = [] := by
    rw [hin.banks]
    exact State.errs_bankOf herr
  have hsrc' : ((s.statFired c x).tdesc c (getF (s.statWalk c x).op 55 44)).place = some src := by
    rw [hin.tdesc]
    exact hsrc
  have hunbound : (s.statFired c x).boundSpans c (s.statWalk c x).uid = [] := (State.boundSpans_statFired x x.uid).trans hnb.1
  have hrecord : rowRecord (s.statFired c x) c (s.statWalk c x) pl (64 * off) =
      if getF x.op 42 42 = 1 then ((p0.row xs).finish (getF x.op 15 0)).bytes else (p0.row xs).bytes :=
    (State.rowRecord_congr hin hmem _ pl _).trans (State.rowRecord_statEntry (e := s.firedEntry c x) hsrc _)
  obtain ⟨hends, -⟩ := State.rstatRow_ends herrs hsrc' hb
  obtain ⟨hstands, hrest⟩ := State.rstatRow_writes herrs hsrc' hb hunbound
  have hwalks := State.walksOver_rstatRow (e := s.statWalk c x) herrs hb (State.walksOver_statFired x) src
  exact ⟨_, (exec_rstat_starts hf hsrc hpl howns hownp).trans
      (congrArg _ (State.settle_eq (hends.goes.stalled.trans hmem.stalled) (hends.goes.failing.trans hmem.failing))),
    hstands.trans hrecord, fun q a hq => (hrest q a hq).trans (by rw [hmem.cells]),
    fun y hy hu => ⟨(hends.ends y hy hu).1, hwalks y hy hu⟩⟩

end Sys2Proof.Machine

open Sys2Proof Sys2Proof.Machine

/-- Settles O29: the records are rewritten one by one, each from what stood there, and an RSTAT's firing does its first row. -/
theorem rowStatistics : Obligations.RowStatistics := ⟨recordsMergeAndFinish, rowStatisticsOfTheFirstRow⟩
end

section
/-! SUPPORT. Bytes put into several places in order, and a list of pieces filled from one string of bytes (R80, R268). -/

namespace Sys2Proof.Machine

/-- The memories with bytes written at one place. -/
def putBytes (m : Place → List Host.Cell) (pl : Place) (a : Nat) (bs : List Byte) : Place → List Host.Cell :=
  fun q => if q = pl then writeBytes (m q) a bs else m q

/-- The memories with pieces filled in order from a string of bytes. -/
def fillPieces (m : Place → List Host.Cell) : List Piece → List Byte → Place → List Host.Cell
  | [], _ => m
  | p :: t, bs => fillPieces (putBytes m p.place p.addr (bs.take p.len)) t (bs.drop p.len)

/-- A byte of a place lies in a piece. -/
def Piece.Has (p : Piece) (q : Place) (a : Nat) : Prop := p.place = q ∧ p.addr ≤ a ∧ a < p.addr + p.len

theorem readByte_putBytes_of_not_has {m : Place → List Host.Cell} {p : Piece} {q : Place} {a : Nat} (h : ¬ p.Has q a) (bs : List Byte) :
    readByte (putBytes m p.place p.addr (bs.take p.len) q) a = readByte (m q) a := by
  rw [putBytes]
  split
  next hq =>
    refine readByte_writeBytes_of_not_mem _ fun ⟨hlo, hhi⟩ => h ⟨hq.symm, hlo, ?_⟩
    have := List.length_take_le p.len bs
    omega
  next => rfl

/-- A byte in no piece stays. -/
theorem readByte_fillPieces {l : List Piece} {q : Place} {a : Nat} (h : ∀ p ∈ l, ¬ p.Has q a) (m : Place → List Host.Cell) (bs : List Byte) :
    readByte (fillPieces m l bs q) a = readByte (m q) a := by
  induction l generalizing m bs with
  | nil => rfl
  | cons p t ih =>
    obtain ⟨hp, ht⟩ := List.forall_mem_cons.mp h
    exact (ih ht _ _).trans (readByte_putBytes_of_not_has hp bs)

/-- Pieces that share no byte hold the string, once it has filled them. -/
theorem readBytes_fillPieces {l : List Piece} (h : Claims.Apart l) (m : Place → List Host.Cell) {bs : List Byte}
    (hlen : bs.length = (l.map (·.len)).sum) : (l.flatMap fun p => readBytes (fillPieces m l bs p.place) p.addr p.len) = bs := by
  induction l generalizing m bs with
  | nil => exact (List.length_eq_zero_iff.mp hlen).symm
  | cons p t ih =>
    obtain ⟨hp, ht⟩ := List.pairwise_cons.mp h
    rw [List.map_cons, List.sum_cons] at hlen
    have htake : (bs.take p.len).length = p.len := List.length_take_of_le (by omega)
    have hfirst : readBytes (fillPieces m (p :: t) bs p.place) p.addr p.len = bs.take p.len := by
      have hput := readBytes_writeBytes_self (m p.place) p.addr (bs.take p.len)
      rw [htake] at hput
      refine Eq.trans (List.map_congr_left fun i hi => ?_) hput
      have hkept : ∀ r ∈ t, ¬ r.Has p.place (p.addr + i) := fun r hr ⟨hplace, hlo, hhi⟩ => by
        have hi := List.mem_range.mp hi
        rcases hp r hr with hne | hbefore | hbehind
        · exact hne hplace.symm
        · omega
        · omega
      exact (readByte_fillPieces hkept _ _).trans (by simp only [putBytes, if_true])
    have hrest := ih ht (putBytes m p.place p.addr (bs.take p.len)) (bs := bs.drop p.len) (by rw [List.length_drop]; omega)
    rw [List.flatMap_cons, hfirst]
    exact (congrArg _ hrest).trans (List.take_append_drop _ _)

/-- Cut into pieces of any length and joined again, a list is as it was. -/
theorem flatten_chunksOf {α : Type} {w : Nat} (hw : 0 < w) (l : List α) : (chunksOf w l).flatten = l := by
  have hfront : ∀ k, ((List.range k).map fun i => (l.drop (i * w)).take w).flatten = l.take (k * w) := fun k => by
    induction k with
    | zero => simp
    | succ k ih => rw [List.range_succ, List.map_append, List.flatten_append, ih, Nat.succ_mul, List.take_add]; simp
  have hcover : l.length ≤ (l.length + w - 1) / w * w := by
    have := Nat.lt_div_mul_add (a := l.length + w - 1) hw
    omega
  rw [chunksOf, hfront, List.take_of_length_le hcover]

/-- Bytes of which none failed its check are delivered as they are (R45). -/
theorem deliver_map_some (fmt : Nat) (bs : List Byte) : deliver fmt (bs.map some) = bs := by
  have hw : 0 < (if fmt = 5 then 1 else max 1 (fmtWidth fmt / 8)) := by split <;> omega
  have hgood : ∀ el ∈ chunksOf (if fmt = 5 then 1 else max 1 (fmtWidth fmt / 8)) (bs.map some), el.all Option.isSome = true := by
    intro el hel
    refine List.all_eq_true.mpr fun b hb => ?_
    have hmem := List.mem_flatten_of_mem hel hb
    rw [flatten_chunksOf hw] at hmem
    obtain ⟨v, -, rfl⟩ := List.mem_map.mp hmem
    rfl
  rw [deliver, List.flatMap_congr fun el hel => if_pos (hgood el hel), List.flatMap_def, ← List.map_flatten, flatten_chunksOf hw,
    State.getD_map_some]

end Sys2Proof.Machine
end

section
/-! SUPPORT. What an instruction of which no load binds a byte leaves where nothing is in error: the memories' bytes, and beside them nothing that
it, another load or the end of its command turns on (R68, R77, R293, R324). -/

namespace Sys2Proof.Machine.State

variable {s t u : State} {c uid : Nat} {m m' : Place → List Host.Cell}

/-- The entries of a core's window, each with how far it is. -/
def phases (s : State) (c : Nat) : List (Nat × Phase) := (s.core c).window.map fun e => (e.uid, e.phase)

theorem phase_of_phases (h : t.phases c = s.phases c) {ph : Phase} (hs : ∀ x ∈ (s.core c).window, x.uid = uid → x.phase = ph) :
    ∀ y ∈ (t.core c).window, y.uid = uid → y.phase = ph := fun y hy hu => by
  have hmem : (y.uid, y.phase) ∈ s.phases c := h ▸ List.mem_map_of_mem hy
  obtain ⟨x, hx, hxy⟩ := List.mem_map.mp hmem
  obtain ⟨huid, hphase⟩ := Prod.mk.inj hxy
  exact hphase ▸ hs x hx (huid.trans hu)

/-- Instruction uid of core c has come from s to t without an error, and the memories' bytes are m: nothing more fails, waits or is held, other
loads bind what they did, and the core's entries are as far as they were. -/
structure Leaves (c uid : Nat) (m : Place → List Host.Cell) (s t : State) : Prop where
  clean : Clean t
  failing : t.failing = s.failing
  stalled : t.stalled = s.stalled
  held : t.held = s.held
  bound : t.boundSpans c uid = s.boundSpans c uid
  phases : t.phases c = s.phases c
  cells : t.cells = m

theorem leaves_refl (h : Clean s) : Leaves c uid s.cells s s := ⟨h, rfl, rfl, rfl, rfl, rfl, rfl⟩

theorem Leaves.trans (h : Leaves c uid m s t) (k : Leaves c uid m' t u) : Leaves c uid m' s u :=
  ⟨k.clean, k.failing.trans h.failing, k.stalled.trans h.stalled, k.held.trans h.held, k.bound.trans h.bound, k.phases.trans h.phases, k.cells⟩

/-- The same with a step behind that moves no byte. -/
theorem Leaves.step (h : Leaves c uid m s t) (k : Leaves c uid t.cells t u) : Leaves c uid m s u := h.cells ▸ h.trans k

/-- What goes on beside the loads in flight, and holds nothing more. -/
theorem leaves_of_serene (h : Serene s t) (hheld : t.held = s.held) (hphases : t.phases c = s.phases c) (hcells : t.cells = m) :
    Leaves c uid m s t :=
  ⟨h.clean, h.failing, h.stalled, hheld, boundSpans_congr h.loads h.ferries, hphases, hcells⟩

theorem leaves_of_view (hc : Clean t) (hv : t.besideView = s.besideView) (hcells : t.cells = m) : Leaves c uid m s t := by
  have hs := serene_of_view hc hv
  simp only [besideView, Prod.mk.injEq] at hv
  obtain ⟨-, -, -, hcores, hheld⟩ := hv
  exact leaves_of_serene hs hheld (by rw [State.phases, State.phases, core, core, hcores]) hcells

/-! ### Steps that move no byte -/

theorem leaves_of_counts (h : Clean s) (hc : Counts s t) (hh : HeatKept s t) : Leaves c uid s.cells s t := by
  have hview := besideView_counts hc
  rw [Counts] at hc
  exact leaves_of_view (h.of_view (by rw [hc]; rfl) hh) hview (by rw [hc]; rfl)

theorem leaves_pmc (h : Clean s) (k ev n : Nat) : Leaves c uid s.cells s (s.pmc k ev n) :=
  leaves_of_counts h (counts_of_onlyRegs (pmc_frame s k ev n)) (heatKept_pmc k ev n)

theorem trafficAll_frame (cls : Nat) (l : List Span) : ∃ x, s.trafficAll cls l = { s with sluices := x } := by
  rw [trafficAll]
  refine List.foldlRecOn (motive := fun t : State => ∃ x, t = { s with sluices := x }) l _ ⟨s.sluices, rfl⟩ ?_
  rintro _ ⟨x, rfl⟩ q -
  split
  · exact ⟨_, rfl⟩
  · exact ⟨x, rfl⟩

theorem leaves_trafficAll (h : Clean s) (cls : Nat) (l : List Span) : Leaves c uid s.cells s (s.trafficAll cls l) := by
  obtain ⟨x, hx⟩ := trafficAll_frame (s := s) cls l
  rw [hx]
  exact leaves_of_view (h.of_view rfl (heatKept_of_mrs rfl)) rfl rfl

theorem leaves_addTok (h : Clean s) (k : Tok) : Leaves c uid s.cells s (s.addTok c k) := by
  have hwindow : ∀ j, ((s.addTok c k).core j).window = (s.core j).window := fun j => by
    by_cases hj : j = c
    · rw [hj, addTok, core_modCore_self]
    · rw [addTok, core_modCore_ne _ _ _ hj]
  exact ⟨h.of_view rfl (heatKept_of_mrs rfl), rfl, rfl, rfl, boundSpans_congr (fun j => by rw [loads, loads, hwindow]) rfl,
    by rw [State.phases, State.phases, hwindow], rfl⟩

/-- What an instruction's own entry binds or has written does not count among what binds its bytes. -/
theorem leaves_modEntry (h : Clean s) {f : Entry → Entry} (hf : ∀ e, (f e).uid = e.uid ∧ (f e).phase = e.phase) :
    Leaves c uid s.cells s (s.modEntry c uid f) := by
  refine ⟨h.of_view rfl (heatKept_of_mrs rfl), rfl, rfl, rfl, ?_, ?_, rfl⟩
  · refine congrArg (· ++ _) (List.flatMap_congr fun k _ => ?_)
    by_cases hk : k = c
    · subst hk
      rw [modEntry, core_modCore_self, List.flatMap_map]
      refine List.flatMap_congr fun e _ => ?_
      by_cases he : e.uid = uid
      · rw [if_pos he, if_pos ⟨rfl, (hf e).1.trans he⟩, if_pos ⟨rfl, he⟩]
      · rw [if_neg he]
    · rw [modEntry, core_modCore_ne _ _ _ hk]
  · rw [State.phases, modEntry, core_modCore_self, List.map_map]
    refine List.map_congr_left fun e _ => ?_
    simp only [Function.comp]
    split
    · rw [(hf e).1, (hf e).2]
    · rfl

theorem leaves_bindSpans (h : Clean s) (e : Entry) (spans : List Span) : Leaves c e.uid s.cells s (s.bindSpans c e spans) := by
  have hbind : Leaves c e.uid s.cells s (s.modEntry c e.uid fun x => { x with bound := spans }) :=
    leaves_modEntry h (by exact fun _ => ⟨rfl, rfl⟩)
  have htok : Leaves c e.uid s.cells s (s.bindOnly c e spans) := by
    rw [bindOnly, produce]
    split
    · exact hbind
    · exact hbind.step (leaves_addTok hbind.clean _)
  exact htok.step (leaves_trafficAll htok.clean _ _)

theorem leaves_noteDst (h : Clean s) (x : Span) : Leaves c uid s.cells s (s.noteDst c uid x) := by
  rw [noteDst]
  split
  · split
    · exact leaves_modEntry h (by exact fun _ => ⟨rfl, rfl⟩)
    · exact leaves_refl h
  · exact leaves_refl h

/-- An instruction of which nothing is held does not wait. -/
theorem waitHeld_of_nothing_held (h : s.hasHeld c uid = false) : s.waitHeld c uid = s := by rw [waitHeld, h, if_neg Bool.false_ne_true]

/-! ### Reads -/

theorem heatKept_granules (slow : Bool) (a n : Nat) : HeatKept s (s.granules slow a n) := stackStopped_of_counters (sameRegsBut_granules slow a n)

/-- A piece without an error is read whole. -/
theorem readPiece_clean (h : Clean s) (p : Piece) : Leaves c uid s.cells s (s.readPiece p).st ∧
    (s.readPiece p).bytes = (readBytes (s.cells p.place) p.addr p.len).map some ∧ (s.readPiece p).bad = none := by
  have hbank : ∀ pl, IsBank pl → Leaves c uid s.cells s (s.bankRead pl p.addr p.len).st ∧
      (s.bankRead pl p.addr p.len).bytes = (readBytes (s.cells pl) p.addr p.len).map some ∧ (s.bankRead pl p.addr p.len).bad = none := by
    intro pl hb
    rw [bankRead_clean _ _ _ _ (h.banks pl), cells_of_isBank hb]
    exact ⟨leaves_of_counts h (counts_of_onlyRegs (vatGrants_frame s pl _ _)) (heatKept_vatGrants pl _ _), rfl, rfl⟩
  cases hp : p.place with
  | tier slow =>
    obtain ⟨-, hbytes, hbad⟩ := tierRead_clean s slow p.addr p.len (h.calm.tier slow) (h.calm.touch slow _ _)
    have hst : (s.tierRead slow p.addr p.len).st = s.granules slow p.addr p.len := by
      simp only [tierRead, marksIn_clean _ _ _ (h.calm.tier slow), h.calm.touch, List.foldl_nil, List.isEmpty_nil, if_true]
    simp only [readPiece, hp, hst, hbad, and_true]
    exact ⟨leaves_of_counts h (granules_frame s slow _ _) (heatKept_granules slow _ _), hbytes.trans (by cases slow <;> rfl)⟩
  | vat i => simpa only [readPiece, hp] using hbank (.vat i) (isBank_vat i)
  | pool i => simpa only [readPiece, hp] using hbank (.pool i) (isBank_pool i)

theorem bytesIn_congr (h : t.cells = s.cells) (l : List Piece) : Claims.bytesIn t l = Claims.bytesIn s l := by
  rw [Claims.bytesIn, Claims.bytesIn, h]

theorem readPieces_clean (h : Clean s) (l : List Piece) : Leaves c uid s.cells s (s.readPieces l).st ∧
    (s.readPieces l).bytes = (Claims.bytesIn s l).map some ∧ (s.readPieces l).bad = none := by
  induction l generalizing s with
  | nil => exact ⟨leaves_refl h, rfl, rfl⟩
  | cons p t ih =>
    obtain ⟨hone, hbytes, hbad⟩ := readPiece_clean (c := c) (uid := uid) h p
    obtain ⟨hrest, hbytes', hbad'⟩ := ih hone.clean
    refine ⟨hone.step hrest, ?_, ?_⟩
    · rw [readPieces, hbytes, hbytes', bytesIn_congr hone.cells, ← List.map_append]
      rfl
    · rw [readPieces, hbad, hbad']
      rfl

theorem length_bytesIn (l : List Piece) : (Claims.bytesIn s l).length = (l.map (·.len)).sum := by
  rw [Claims.bytesIn, List.length_flatMap]
  simp [readBytes]

/-- Bytes of which none failed its check are good in any format (R44, R45). -/
theorem inFormat_of_good (t : State) (bs : List Byte) (fmt : Nat) (ps : List Piece) :
    (⟨t, bs.map some, none⟩ : Rd).inFormat fmt ps = ⟨t, bs.map some, none⟩ := by
  have hgood : (⟨t, bs.map some, none⟩ : Rd).failedAt = none :=
    List.findIdx?_eq_none_iff.mpr fun b hb => by
      obtain ⟨v, -, rfl⟩ := List.mem_map.mp hb
      rfl
  rw [Rd.inFormat]
  split
  · rw [hgood]
    rfl
  · rfl

theorem not_poisoned_of_good (t : State) (bs : List Byte) : (⟨t, bs.map some, none⟩ : Rd).poisoned = false := by
  simp [Rd.poisoned]

/-! ### Stores -/

theorem writePlace_puts (h : Clean s) (pl : Place) (a : Nat) (bs : List Byte) :
    Leaves c uid (putBytes s.cells pl a bs) s (s.writePlace pl a bs).1 ∧ (s.writePlace pl a bs).2 = none := by
  obtain ⟨hs, hbad⟩ := writePlace_serenely h pl a bs
  have hbank : IsBank pl → Leaves c uid (putBytes s.cells pl a bs) s (s.writePlace pl a bs).1 := fun hb => by
    obtain ⟨hst, -, hdata, hheld⟩ := bankWrite_bankStores hb (h.banks pl) a bs
    rw [writePlace_of_isBank hb] at hs ⊢
    refine leaves_of_serene hs hheld (by rw [State.phases, State.phases, hst.core]) (funext fun q => ?_)
    rw [putBytes]
    split
    next hq => rw [hq, cells_of_isBank hb, hdata, cells_of_isBank hb]
    next hq => exact hst.cells hq
  refine ⟨?_, hbad⟩
  cases pl with
  | vat i => exact hbank (isBank_vat i)
  | pool i => exact hbank (isBank_pool i)
  | tier slow =>
    have hg := granules_frame s slow a bs.length
    rw [writePlace, tierWrite_clean s slow a bs (h.calm.tier slow) (h.calm.touch slow _ _)] at hs ⊢
    rw [Counts] at hg
    refine leaves_of_serene hs ?_ ?_ (funext fun q => ?_)
    · rw [hg]
      cases slow <;> rfl
    · rw [hg]
      cases slow <;> rfl
    · rw [hg]
      cases slow <;> rcases q with (_ | _) | _ | _ <;> rfl

theorem storeRun_puts (h : Clean s) (hn : s.boundSpans c uid = []) (pl : Place) (a : Nat) (bs : List Byte) :
    Leaves c uid (putBytes s.cells pl a bs) s (s.storeRun c uid pl a bs).1 ∧ (s.storeRun c uid pl a bs).2 = none := by
  have hnote := leaves_noteDst (c := c) (uid := uid) h ⟨pl, a, bs.length⟩
  have hbegun := hnote.step (leaves_trafficAll hnote.clean (s.storeClass c uid) [⟨pl, a, bs.length⟩])
  obtain ⟨hput, hbad⟩ := writePlace_puts (c := c) (uid := uid) hbegun.clean pl a bs
  rw [hbegun.cells] at hput
  have hstore := hbegun.trans hput
  have hrun : s.storeRun c uid pl a bs =
      (((s.noteDst c uid ⟨pl, a, bs.length⟩).trafficAll (s.storeClass c uid) [⟨pl, a, bs.length⟩]).writePlace pl a bs) := by
    rw [storeRun_eq, storeCut_of_unbound hn]
    simp only [writeRuns, List.foldl_cons, List.foldl_nil, List.append_nil]
    rfl
  rw [hrun]
  exact ⟨hstore, hbad⟩

/-- Pieces are filled in order, without an error (R324). -/
theorem storeFrom_fills (h : Clean s) (hn : s.boundSpans c uid = []) (ext : List Span) (l : List Piece) (bs : List Byte) :
    Leaves c uid (fillPieces s.cells l bs) s (s.storeFrom c uid ext l bs).1 ∧ (s.storeFrom c uid ext l bs).2 = none := by
  induction l generalizing s bs with
  | nil => exact ⟨leaves_refl h, rfl⟩
  | cons p t ih =>
    obtain ⟨hrun, hbad⟩ := storeRun_puts h hn p.place p.addr (bs.take p.len)
    obtain ⟨hrest, hbad'⟩ := ih hrun.clean (hrun.bound.trans hn) (bs.drop p.len)
    have hname : (s.storeRun c uid p.place p.addr (bs.take p.len)).1.nameHeld s.held.length p ext =
        (s.storeRun c uid p.place p.addr (bs.take p.len)).1 := modHeld_of_length_le (by rw [hrun.held]) _
    rw [storeFrom, hname]
    refine ⟨?_, by simp [hbad, hbad']⟩
    rw [hrun.cells] at hrest
    exact hrun.trans hrest

end Sys2Proof.Machine.State
end

section
/-! PROOF. SLOAD and SSTORE (R268-R271). -/

namespace Sys2Proof.Machine

namespace State

variable {s t : State} {c : Nat}

/-- The near side of an SLOAD or SSTORE: its descriptor's, at the iteration's offset (R268, R269). -/
def nearSide (s : State) (c : Nat) (e : Entry) : Side :=
  let d := s.desc c (getF e.op 55 44)
  ⟨false, s.locPlace (c / 16) (dF d 3 1), dF d 0x0E 3 + 64 * getF e.op 19 4 * innerIter e.iters⟩

/-- The rows of the near side. -/
def nearRuns (s : State) (c : Nat) (e : Entry) : List (Nat × Nat) :=
  let d := s.desc c (getF e.op 55 44)
  (List.range (dF d 0x11 3)).map fun r => (r * dF d 0x18 4, dF d 4 4)

/-- The rows that a stream instruction reads. -/
def streamSrc (s : State) (c : Nat) (e : Entry) (load : Bool) : List Piece :=
  (if load then s.farSide c e else s.nearSide c e).pieces (s.pagesOf c) 0 (if load then s.farRuns c e else s.nearRuns c e)

/-- The rows that it writes. -/
def streamDst (s : State) (c : Nat) (e : Entry) (load : Bool) : List Piece :=
  (if load then s.nearSide c e else s.farSide c e).pieces (s.pagesOf c) 1 (if load then s.nearRuns c e else s.farRuns c e)

/-- The checks of a stream instruction find nothing (R80, R296). -/
structure StreamAccepted (s : State) (c : Nat) (e : Entry) (load : Bool) : Prop where
  far : s.sideFault c (s.pagesOf c) (s.farSide c e) (if load then 0 else 1) [] (s.farRuns c e) = none
  near : s.sideFault c (s.pagesOf c) (s.nearSide c e) 0 [] (s.nearRuns c e) = none

/-- The state in which a stream instruction reads its rows. -/
def streamBegun (s : State) (c : Nat) (e : Entry) (load : Bool) : State :=
  let d := s.desc c (getF e.op 55 44)
  (s.bindSpans c e (spansOf (s.streamSrc c e load))).strmBytes c (dF d 0x11 3 * dF d 4 4)

theorem leaves_streamBegun (h : Clean s) (e : Entry) (load : Bool) : Leaves c e.uid s.cells s (s.streamBegun c e load) := by
  have hbind := leaves_bindSpans (c := c) h e (spansOf (s.streamSrc c e load))
  rw [streamBegun, strmBytes]
  exact hbind.step (leaves_pmc hbind.clean _ _ _)

/-- A stream instruction whose checks find nothing comes to its store, and to its end, as what it has read says. -/
theorem fireStream_accepted {e : Entry} {load : Bool} (hok : StreamAccepted s c e load) {t : State} {bs : List Byte}
    (hread : (s.streamBegun c e load).readPieces (s.streamSrc c e load) = ⟨t, bs.map some, none⟩)
    (hmerged : (t.storePieces c e.uid (s.streamDst c e load) bs).2 = none) :
    s.fireStream c e load = (t.storePieces c e.uid (s.streamDst c e load) bs).1.waitHeld c e.uid := by
  obtain ⟨hfar, hnear⟩ := hok
  simp only [streamBegun, streamSrc, streamDst, farSide, farRuns, nearSide, nearRuns] at hfar hnear hread hmerged ⊢
  simp only [fireStream, hfar, hnear, hread, Option.orElse_eq_orElse, Option.orElse_eq_or, Option.none_or, inFormat_of_good,
    not_poisoned_of_good, deliver_map_some, store, hmerged, Bool.false_eq_true, if_false]

/-- A stream instruction whose checks find nothing, and of which no load binds a byte, fills the rows of its destination from those of its
source, all of them read before the first is written. -/
theorem fireStream_fills {e : Entry} {load : Bool} (hok : StreamAccepted s c e load) (h : Clean s) (hnb : NothingBound s c e.uid) :
    Leaves c e.uid (fillPieces s.cells (s.streamDst c e load) (Claims.bytesIn s (s.streamSrc c e load))) s (s.fireStream c e load) := by
  obtain ⟨hunbound, hunheld⟩ := hnb
  have hbegun := leaves_streamBegun (c := c) h e load
  obtain ⟨hread, hbytes, hbad⟩ := readPieces_clean (c := c) (uid := e.uid) hbegun.clean (s.streamSrc c e load)
  have hdone := hbegun.step hread
  obtain ⟨hfill, hmerged⟩ := storeFrom_fills hdone.clean (hdone.bound.trans hunbound) (spansOf (s.streamDst c e load)) (s.streamDst c e load)
    (Claims.bytesIn s (s.streamSrc c e load))
  rw [hdone.cells] at hfill
  have hall := hdone.trans hfill
  have hrd : (s.streamBegun c e load).readPieces (s.streamSrc c e load) =
      ⟨((s.streamBegun c e load).readPieces (s.streamSrc c e load)).st, (Claims.bytesIn s (s.streamSrc c e load)).map some, none⟩ := by
    rw [← bytesIn_congr hbegun.cells, ← hbytes, ← hbad]
  rw [fireStream_accepted hok hrd hmerged, storePieces, waitHeld_of_nothing_held ((hasHeld_congr hall.held _ _).trans hunheld)]
  exact hall

/-! ### The state in which it fires -/

namespace OnlyBegun

variable (h : OnlyBegun c s t) (e : Entry) (load : Bool)
include h

theorem farSide : t.farSide c e = s.farSide c e := by simp only [State.farSide, h.desc, h.side]

theorem farRuns : t.farRuns c e = s.farRuns c e := by simp only [State.farRuns, h.desc]

theorem nearSide : t.nearSide c e = s.nearSide c e := by simp only [State.nearSide, h.desc, h.locPlace]

theorem nearRuns : t.nearRuns c e = s.nearRuns c e := by simp only [State.nearRuns, h.desc]

theorem streamSrc : t.streamSrc c e load = s.streamSrc c e load := by
  simp only [State.streamSrc, h.farSide, h.farRuns, h.nearSide, h.nearRuns, h.pagesOf]

theorem streamDst : t.streamDst c e load = s.streamDst c e load := by
  simp only [State.streamDst, h.farSide, h.farRuns, h.nearSide, h.nearRuns, h.pagesOf]

variable {e load} in
theorem streamAccepted (hok : StreamAccepted s c e load) : StreamAccepted t c e load := by
  refine ⟨?_, ?_⟩
  · rw [h.farSide, h.farRuns, h.pagesOf, h.sideFault, hok.far]
  · rw [h.nearSide, h.nearRuns, h.pagesOf, h.sideFault, hok.near]

end OnlyBegun

theorem clean_markFired (h : Clean s) (e : Entry) : Clean (s.markFired c e) := by
  rw [markFired]
  refine Clean.of_view ?_ (errorView_onlyRegs (pmc_frame _ c 0x02 1)) (heatKept_pmc c 0x02 1)
  exact h.of_view rfl (heatKept_of_mrs rfl)

theorem streamSrc_eq (e : Entry) (load : Bool) : s.streamSrc c e load =
    if load then (s.farSide c e).pieces (s.pagesOf c) 0 (s.farRuns c e) else (s.nearSide c e).pieces (s.pagesOf c) 0 (s.nearRuns c e) := by
  cases load <;> rfl

theorem streamDst_eq (e : Entry) (load : Bool) : s.streamDst c e load =
    if load then (s.nearSide c e).pieces (s.pagesOf c) 1 (s.nearRuns c e) else (s.farSide c e).pieces (s.pagesOf c) 1 (s.farRuns c e) := by
  cases load <;> rfl

/-- An instruction that fires, and leaves bytes behind without an error, is done. -/
theorem Leaves.done_of_markFired {x : Entry} {m : Place → List Host.Cell} (h : Leaves c x.uid m (s.markFired c x) t) :
    s.settle t = t ∧ ∀ y ∈ (t.core c).window, y.uid = x.uid → y.phase = .done := by
  have hmem := (onlyBegun_markFired (s := s) (c := c) x).aside.mem
  exact ⟨settle_eq (h.stalled.trans hmem.stalled) (h.failing.trans hmem.failing),
    phase_of_phases h.phases fun _ hy hu => phase_of_mem_markFired hy hu⟩

/-- What a list of pieces that share no byte holds once it has been filled, and what else has changed. -/
theorem filled_stands {dst : List Piece} {bs : List Byte} (h : t.cells = fillPieces s.cells dst bs) (hapart : Claims.Apart dst)
    (hlen : bs.length = (dst.map (·.len)).sum) : Claims.bytesIn t dst = bs ∧
      ∀ p a, readByte (t.cells p) a ≠ readByte (s.cells p) a → ∃ k ∈ dst, k.Has p a := by
  refine ⟨by rw [Claims.bytesIn, h]; exact readBytes_fillPieces hapart _ hlen, fun p a hne => ?_⟩
  by_contra hnone
  rw [h] at hne
  exact hne (readByte_fillPieces (fun k hk hin => hnone ⟨k, hk, hin⟩) _ _)

end State

theorem exec_stream {c : CoreId} {q : Instr × Nat} (hq : q ∈ [(.sload c, 0x10), (.sstore c, 0x11)]) (s : State) : exec q.1 s =
    .next (s.settle (s.fireOp c 5 q.2 (s.strmAccepts c) fun t e => t.fireStream c e (decide (q.2 = 0x10)))) := by
  simp only [List.mem_cons, List.not_mem_nil, or_false] at hq
  rcases hq with rfl | rfl <;> rfl

theorem sumN_eq_sum (l : List Nat) : sumN l = l.sum := List.sum_eq_foldl.symm

end Sys2Proof.Machine

open Sys2Proof Sys2Proof.Machine

/-- Settles O31: the rows of the source are all read before one is written, and those of the destination, which share no byte, are filled
in their order. -/
theorem streamsMoveRows : Obligations.StreamsMoveRows := by
  intro s c x q hq hf d far near farRuns nearRuns load src dst hfar hnear herr hnb hapart hlen
  have hbegun := State.onlyBegun_markFired (s := s) (c := c) x
  have hcells : (s.markFired c x).cells = s.cells := funext hbegun.aside.mem.cells
  have hok : State.StreamAccepted s c (s.firedEntry c x) load := ⟨hfar, hnear⟩
  have hsrc : s.streamSrc c (s.firedEntry c x) load = src := State.streamSrc_eq _ _
  have hdst : s.streamDst c (s.firedEntry c x) load = dst := State.streamDst_eq _ _
  have hfills := State.fireStream_fills (hbegun.streamAccepted hok) (State.clean_markFired (State.clean_of_noErrors herr) x)
    (State.nothingBound_markFired x hnb)
  rw [hbegun.streamSrc, hbegun.streamDst, hcells, State.bytesIn_congr hcells, hsrc, hdst] at hfills
  obtain ⟨hsettle, hdone⟩ := State.Leaves.done_of_markFired hfills
  obtain ⟨hstands, hrest⟩ := State.filled_stands hfills.cells hapart
    (by rw [State.length_bytesIn, ← sumN_eq_sum, ← sumN_eq_sum, hlen])
  exact ⟨_, (exec_stream hq s).trans (by rw [fireOp_fires hf, hsettle]), hstands, hdone, hrest⟩
end

section
/-! PROOF. Pages that overlap off the grid of 2 MiB: a run that crosses into a second page soon after its start passes its check with its last
bytes in no piece, since `walkRun` takes two steps for a run of less than 2 MiB (R80, R101, R102). -/

namespace Sys2Proof.Machine

open Sys2Proof.Tests

/-- A page map of two pages of 2 MiB, of which the second starts 64 bytes behind the first's start. From 64 bytes before the first one's end
on, at 2,097,088, the pieces of 256 bytes hold the 64 in the first page and the 64 behind them in the second. -/
def overlappingPages : List Page := [⟨0, false, false, true, 3, 5⟩, ⟨64, false, false, true, 3, 6⟩]

/-- The state in which an operation word is the oldest of its unit, over these pages. -/
def overlapSt (unit : Nat) (op : Long) (ds : List (BitVec 256)) : State := st { img ds with pages := overlappingPages } [ent 1 unit op]

/-! ### A MOVE (R261-R263) -/

/-- A MOVE of one G64 row from there to vat 1: 16 elements of FP32, 64 bytes, and 192 of padding. -/
def overlapMove : State := overlapSt 6 copyOp
  [dsc [(0, 4), (1, 0), (2, 0), (3, 0), (5, 0x24), (8, 2097088), (0x10, 256), (0x14, 256), (0x18, 16), (0x1B, 1)],
   dsc [(0, 4), (1, 0), (2, 0), (3, 1), (4, 1), (5, 0x24), (8, 8192), (0x10, 256), (0x14, 256), (0x18, 16), (0x1B, 1)]]

theorem overlapMove_checks : CopyChecks overlapMove copyOp := by
  unfold CopyChecks
  decide +kernel

theorem overlapMove_fires : Fires overlapMove 0 6 0x20 (overlapMove.copyAccepts 0) (ent 1 6 copyOp) ∧ NoErrors overlapMove := by
  unfold Fires NoErrors TierClean PhysUp
  decide +kernel

/-- Of the row its elements' bytes wait: its padding, translated on its own, runs past the last page, and none of it is read. -/
theorem overlapMove_queued {t : State} (ht : exec (.copy 0) overlapMove = .next t) :
    (t.cl ((0 : CoreId).val / 16)).copyQ.map (fun j => j.data.length) = [64] := by
  obtain rfl : overlapMove.settle (overlapMove.fireOp 0 6 0x20 (overlapMove.copyAccepts 0) fun u e => u.fireCopy 0 e) = t :=
    Host.Outcome.next.inj ht
  decide +kernel

/-! ### A SCATTER (R276, R280) -/

/-- A SCATTER of one row of 64 elements of FP32, 256 bytes, from vat 0 to there. -/
def overlapScatter : State := overlapSt 5 (xop 0x31)
  [dsc [(0, 6), (1, 0), (2, 0), (3, 0), (4, 1), (5, 0), (8, 2097088), (0x10, 64), (0x13, 1), (0x18, 256), (0x1C, 256)],
   dsc [(0, 7), (1, 0), (2, 0), (3, 0), (4, 1), (8, 0), (0x10, 1024), (0x14, 256)]]

theorem overlapScatter_fires : Fires overlapScatter 0 5 0x31 (overlapScatter.strmAccepts 0) (ent 1 5 (xop 0x31)) ∧ NoErrors overlapScatter ∧
    NothingBound overlapScatter 0 1 ∧ overlapScatter.xFault 0 (overlapScatter.xtens 0 0) (overlapScatter.xlist 0 1) 1 = none := by
  unfold Fires NoErrors TierClean PhysUp NothingBound
  decide +kernel

/-- The pieces of the row, to which its bytes go. -/
def overlapRow : List Piece :=
  let xt := overlapScatter.xtens 0 0
  xt.side.pieces (overlapScatter.pagesOf 0) 1 ((xt.blockRuns (0, 0, 0)).map fun r => (r.2.1, r.2.2))

/-- They hold half of it. -/
theorem overlapRow_truncated : (overlapRow.map (·.len)).sum = 128 := by decide +kernel

end Sys2Proof.Machine

open Sys2Proof Sys2Proof.Machine

/-- Refutes O30: the bytes that wait need not be those of the source's padded rows as its page map gives them. Over `overlappingPages` the
pieces of the one padded row of `overlapMove` hold 128 bytes, of which 64 wait. A validation refuses such a page map (R101, R102), but the statement
asks nothing of it. -/
theorem not_copyEngine : ¬ Obligations.CopyEngine := by
  rintro ⟨hqueued, -⟩
  obtain ⟨hfires, hne⟩ := overlapMove_fires
  obtain ⟨hsrc, hdst, hrefused⟩ := overlapMove_checks
  obtain ⟨t, ht, -, hcopies, -⟩ := hqueued overlapMove 0 _ hfires hsrc hdst hrefused hne
  have hlength := overlapMove_queued ht
  rw [hcopies] at hlength
  exact absurd hlength (by decide +kernel)

/-- Refutes O33: a block's bytes need not all lie in the pieces that its page map gives it. Over `overlappingPages` the one block of
`overlapScatter` is a row of 256 bytes, and its pieces hold 128. A validation refuses such a page map (R101, R102), but the statement asks nothing of
it. -/
theorem not_gatherAndScatter : ¬ Obligations.GatherAndScatter := by
  rintro ⟨-, hscatter⟩
  obtain ⟨hfires, hne, hnb, hfault⟩ := overlapScatter_fires
  obtain ⟨t, -, -, -, -, hblocks⟩ := hscatter overlapScatter 0 _ (.scatter 0, 0x31) (List.mem_cons_self ..) hfires hfault hne hnb
    (by decide +kernel)
  obtain ⟨hlast, -⟩ := hblocks (.vat 0) (by decide +kernel) (by unfold Claims.Apart; decide +kernel) (by decide +kernel) (0, 0, 0)
    (by decide +kernel)
  have hrow : Claims.bytesIn t overlapRow = _ := hlast rfl ⟨0, true, (0, 0, 0)⟩ (by decide +kernel)
  have hlength := congrArg List.length hrow
  rw [State.length_bytesIn, overlapRow_truncated] at hlength
  exact absurd hlength (by decide +kernel)
end

section
/-! SUPPORT. Every operation keeps every memory in canonical form: one lemma per operation of the model, in the model's order. -/

namespace Sys2Proof.Machine

set_option Elab.async false

variable {s t : State}

/-! ### Steps of an operation -/

/-- What moves no memory. -/
theorem State.memOk.same
    {pending fresh out eth paused waitOut pfcSent dieSeen tick opTicks mrs held failing stalled cores clusters parts hdr place load resets ports
    waiting paceSeq paceDue sessions nextId qps regions gatePosts ferries saves job weir meter xings retireA retireB bist bootStep feedA feedB
    life keeper hbm derated off sluices netFlash} (h : s.memOk) :
    State.memOk { s with
      pending, fresh, out, eth, paused, waitOut, pfcSent, dieSeen, tick, opTicks, mrs, held, failing, stalled, cores, clusters, parts, hdr,
      place, load, resets, ports, waiting, paceSeq, paceDue, sessions, nextId, qps, regions, gatePosts, ferries, saves, job, weir, meter, xings,
      retireA, retireB, bist, bootStep, feedA, feedB, life, keeper, hbm, derated, off, sluices, netFlash } :=
  h

theorem State.memOk.ite {p : Prop} [Decidable p] (h : s.memOk) (k : t.memOk) : (if p then s else t).memOk := by
  split
  · exact h
  · exact k

theorem State.memOk.foldl {α : Type} {f : State → α → State} {l : List α} (h : s.memOk) (hf : ∀ {u a}, State.memOk u → (f u a).memOk) :
    (l.foldl f s).memOk := by
  induction l generalizing s with
  | nil => exact h
  | cons a l ih => exact ih (hf h)

/-- A fold whose state is the first part of what it carries. -/
theorem State.memOk.foldlFst {α β : Type} {f : State × β → α → State × β} {l : List α} {r : State × β} (h : r.1.memOk)
    (hf : ∀ {r a}, r.1.memOk → (f r a).1.memOk) : (l.foldl f r).1.memOk := by
  induction l generalizing r with
  | nil => exact h
  | cons a l ih => exact ih (hf h)

theorem State.memOk.of_fst {α : Type} {r : State × α} {a : α} (h : r.1.memOk) (e : r = (s, a)) : s.memOk := by
  rw [e] at h
  exact h

/-! ### The memories -/

theorem State.memOk.vats {b : FMap Bank} (h : s.memOk) (hb : banksWf b = true) : State.memOk { s with vats := b } := by
  obtain ⟨hfast, hslow, -, hpools, hcart⟩ := h
  exact ⟨hfast, hslow, hb, hpools, hcart⟩

theorem State.memOk.pools {b : FMap Bank} (h : s.memOk) (hb : banksWf b = true) : State.memOk { s with pools := b } := by
  obtain ⟨hfast, hslow, hvats, -, hcart⟩ := h
  exact ⟨hfast, hslow, hvats, hb, hcart⟩

theorem State.memOk.fast {b : Tier} (h : s.memOk) (hb : cellsWf b.data = true) : State.memOk { s with fast := b } := by
  obtain ⟨-, hslow, hvats, hpools, hcart⟩ := h
  exact ⟨hb, hslow, hvats, hpools, hcart⟩

theorem State.memOk.slow {b : Tier} (h : s.memOk) (hb : cellsWf b.data = true) : State.memOk { s with slow := b } := by
  obtain ⟨hfast, -, hvats, hpools, hcart⟩ := h
  exact ⟨hfast, hb, hvats, hpools, hcart⟩

/-- The bytes of a tier whose memories are canonical. -/
theorem State.memOk.tier (h : s.memOk) (slow : Bool) : cellsWf (s.tierOf slow).data = true := by
  obtain ⟨hfast, hslow, -⟩ := h
  cases slow
  · exact hfast
  · exact hslow

/-! ### The operations -/

theorem State.memOk.setReg {id ix v} (h : s.memOk) : (State.setReg s id ix v).memOk :=
  h.same

theorem State.memOk.plainWrite {id ix v} (h : s.memOk) : (State.plainWrite s id ix v).memOk :=
  State.memOk.ite h h.setReg

theorem State.memOk.kick (h : s.memOk) : (State.kick s).memOk :=
  h.same

theorem State.memOk.setRegF {id ix hi lo v} (h : s.memOk) : (State.setRegF s id ix hi lo v).memOk :=
  h.setReg

theorem State.memOk.bumpBy {id ix hi lo n} (h : s.memOk) : (State.bumpBy s id ix hi lo n).memOk :=
  h.setRegF

theorem State.memOk.bump {id ix hi lo} (h : s.memOk) : (State.bump s id ix hi lo).memOk :=
  h.bumpBy

theorem State.memOk.modPart {p f} (h : s.memOk) : (State.modPart s p f).memOk :=
  h.same

theorem State.memOk.setCore {c k} (h : s.memOk) : (State.setCore s c k).memOk :=
  h.same

theorem State.memOk.modCore {c f} (h : s.memOk) : (State.modCore s c f).memOk :=
  h.setCore

theorem State.memOk.modEntry {c uid f} (h : s.memOk) : (State.modEntry s c uid f).memOk :=
  h.modCore

theorem State.memOk.emitAll {l} (h : s.memOk) : (State.emitAll s l).memOk :=
  h.same

theorem State.memOk.event {mailbox code body} (h : s.memOk) : (State.event s mailbox code body).memOk :=
  h.same.emitAll

theorem State.memOk.record {severity code part unit step addr detail} (h : s.memOk)
    : (State.record s severity code part unit step addr detail).memOk :=
  State.memOk.ite h.same.setRegF.setRegF h.same.setRegF.setRegF.event

theorem State.memOk.reportFallback {p step} (h : s.memOk) : (State.reportFallback s p step).memOk :=
  State.memOk.ite h h.modPart.record

theorem State.memOk.reportAll {p} (h : s.memOk) : (State.reportAll s p).memOk :=
  h.foldl (fun h => h.reportFallback)

theorem State.memOk.tellHalt {p} (h : s.memOk) : (State.tellHalt s p).memOk := by
  unfold State.tellHalt
  split
  · exact State.memOk.ite h.modPart.event.record h
  · exact h

theorem State.memOk.reply {sid seq mailbox status body} (h : s.memOk) : (State.reply s sid seq mailbox status body).memOk := by
  unfold State.reply
  dsimp only
  split
  · exact h
  · exact h.same.emitAll

theorem State.memOk.haltDone {p} (h : s.memOk) : (State.haltDone s p).memOk :=
  State.memOk.ite (h.modPart.tellHalt.reportAll.foldl (fun h => h.reply)) h

theorem State.memOk.setPstate {p v} (h : s.memOk) : (State.setPstate s p v).memOk :=
  h.setRegF

theorem State.memOk.haltOne {p r} (h : s.memOk) : (State.haltOne s p r).memOk :=
  State.memOk.ite h.modPart.setPstate.haltDone h

theorem State.memOk.moreFault {p} (h : s.memOk) : (State.moreFault s p).memOk :=
  h.modPart

theorem State.memOk.faultOne {c e cause index addr} (h : s.memOk) : (State.faultOne s c e cause index addr).memOk := by
  unfold State.faultOne
  dsimp only
  split
  · exact h.modEntry.modCore.same
  · exact State.memOk.ite h.modEntry.modCore.same.haltOne h.modEntry.modCore.same.moreFault.haltDone

theorem State.memOk.peerFaults {fuel ps} (h : s.memOk) : (State.peerFaults fuel s ps).memOk := by
  induction fuel generalizing s ps with
  | zero => exact h
  | succ fuel ih =>
    cases ps with
    | nil => exact h
    | cons p rest =>
      refine ih (h.foldl fun h => ?_)
      dsimp only
      split
      · exact h.modPart.faultOne
      · exact h.modPart

theorem State.memOk.haltParts {ps index} (h : s.memOk) : (State.haltParts s ps index).memOk :=
  (h.foldl (fun h => h.haltOne)).peerFaults

theorem State.memOk.letFire {b} (h : s.memOk) : (State.letFire s b).memOk :=
  h.foldl (fun h => h.modCore)

theorem State.memOk.dropSlices (h : s.memOk) : (State.dropSlices s).memOk := by
  unfold State.dropSlices
  dsimp only
  refine State.memOk.setRegF ?_
  refine State.memOk.same (s := _) ?_
  split
  · exact h.letFire
  · exact h

theorem State.memOk.removePart {p} (h : s.memOk) : (State.removePart s p).memOk :=
  h.modPart.setPstate.setReg

theorem State.memOk.dropHosts (h : s.memOk) : (State.dropHosts s).memOk :=
  h.same.setRegF.foldl (fun h => h.removePart)

theorem State.memOk.nextWseq (h : s.memOk) : (State.nextWseq s).memOk :=
  h.same

theorem State.memOk.queueMsg {m ports u} (h : s.memOk) : (State.queueMsg s m ports u).memOk :=
  h.same

theorem State.memOk.sendRoute {r mtype dest tag data u} (h : s.memOk) : (State.sendRoute s r mtype dest tag data u).memOk := by
  unfold State.sendRoute
  split
  · exact h
  · exact h.queueMsg

theorem State.memOk.sendWatch {kind cause} (h : s.memOk) : (State.sendWatch s kind cause).memOk :=
  (h.foldl (fun h => h.nextWseq.queueMsg)).foldl (fun h => State.memOk.ite h.nextWseq.sendRoute h)

theorem State.memOk.setPhase {c uid ph} (h : s.memOk) : (State.setPhase s c uid ph).memOk :=
  h.modEntry

theorem State.memOk.saveDone {v} (h : s.memOk) : (State.saveDone s v).memOk :=
  h.same.setPhase

theorem State.memOk.storeFailed {p qpn step} (h : s.memOk) : (State.storeFailed s p qpn step).memOk :=
  h.record

theorem State.memOk.savesFailed {qpn} (h : s.memOk) : (State.savesFailed s qpn).memOk :=
  h.foldl (fun h => h.storeFailed.saveDone)

theorem State.memOk.setTier {slow t'} (h : s.memOk) (ht : cellsWf t'.data = true) : (State.setTier s slow t').memOk :=
  State.memOk.ite (h.slow ht) (h.fast ht)

/-- Corrected granules keep the canonical form. -/
theorem cellsWf_fix {b : Tier} (h : cellsWf b.data = true) (g : Nat) : cellsWf (b.fix g).data = true := by
  unfold Tier.fix
  dsimp only
  generalize b.data = d at h
  induction b.syms.get [] g generalizing d with
  | nil => exact h
  | cons x l ih =>
    rw [List.foldl_cons]
    split
    · exact ih _ (cellsWf_writeBytes _ _ _ h)
    · exact ih _ h

theorem State.memOk.fix {slow g} (h : s.memOk) : State.memOk (s.setTier slow ((s.tierOf slow).fix g)) :=
  h.setTier (cellsWf_fix (h.tier slow) g)

theorem State.memOk.modStack {k f} (h : s.memOk) : (State.modStack s k f).memOk :=
  h.same

theorem State.memOk.writeRetire {pointer entries} (h : s.memOk) : (State.writeRetire s pointer entries).memOk :=
  State.memOk.ite h.same h.same

theorem State.memOk.addRetire {r} (h : s.memOk) : (State.addRetire s r).memOk := by
  unfold State.addRetire
  dsimp only
  split
  · exact h.record
  · split
    · exact h.writeRetire.setRegF.record
    · exact h.writeRetire.setRegF

theorem State.memOk.retireFrame {stack ppn} (h : s.memOk) : (State.retireFrame s stack ppn).memOk :=
  State.memOk.ite h h.addRetire

theorem State.memOk.rowError {a atOnce} (h : s.memOk) : (State.rowError s a atOnce).memOk :=
  State.memOk.ite (State.memOk.ite h.modStack.modStack.setRegF h.modStack.retireFrame) h.modStack

theorem State.memOk.noteErr {slow a cls kind} (h : s.memOk) : (State.noteErr s slow a cls kind).memOk := by
  unfold State.noteErr
  split
  split
  · exact h
  · exact h.setReg

theorem State.memOk.markRead {slow g k} (h : s.memOk) : (State.markRead s slow g k).memOk := by
  cases k with
  | oneC => exact State.memOk.ite h.bump.fix h.bump.fix.rowError
  | failD => exact State.memOk.ite h.bump.noteErr h.bump.noteErr.rowError
  | uncorrC => exact State.memOk.ite h.bump.noteErr h.bump.noteErr.rowError

theorem State.memOk.flag {id ix b} (h : s.memOk) : (State.flag s id ix b).memOk :=
  h.setRegF

theorem State.memOk.countOne {cnt ovf cx j add} (h : s.memOk) : (State.countOne s cnt ovf cx j add).memOk :=
  State.memOk.ite h.setRegF h.setRegF.flag

theorem State.memOk.dieCount {j ev n} (h : s.memOk) : (State.dieCount s j ev n).memOk :=
  State.memOk.ite h.countOne (State.memOk.ite h h.same.countOne)

theorem State.memOk.pmcDie {ev unit n} (h : s.memOk) : (State.pmcDie s ev unit n).memOk :=
  h.foldl (fun h => State.memOk.ite h h.dieCount)

theorem State.memOk.granules {slow a n} (h : s.memOk) : (State.granules s slow a n).memOk :=
  State.memOk.ite h (State.memOk.ite h (h.foldl (fun h => State.memOk.ite h.pmcDie h.pmcDie)))

theorem State.memOk.touch {slow a n} (h : s.memOk) : (State.touch s slow a n).memOk :=
  State.memOk.ite h.same h

theorem State.memOk.tierRead {slow a n} (h : s.memOk) : (State.tierRead s slow a n).st.memOk := by
  unfold State.tierRead
  dsimp only
  split
  · exact h.touch.granules.foldl (fun h => h.markRead)
  · exact h.touch.granules.foldl (fun h => h.markRead)

theorem State.memOk.memErr {slow a kind} (h : s.memOk) : (State.memErr s slow a kind).memOk := by
  unfold State.memErr
  split
  · exact h.record

theorem State.memOk.serviceRead {kind slow a n} (h : s.memOk) : (State.serviceRead s kind slow a n).1.memOk := by
  unfold State.serviceRead
  dsimp only
  exact h.tierRead.foldl (fun h => h.memErr)

theorem State.memOk.servicePieces {kind l} (h : s.memOk) : (State.servicePieces s kind l).1.memOk :=
  State.memOk.foldlFst h fun h => by
    split
    · exact h.serviceRead
    · exact h

theorem State.memOk.ferryRead {pages va n} (h : s.memOk) : (State.ferryRead s pages va n).1.memOk := by
  unfold State.ferryRead
  dsimp only
  exact h.servicePieces

theorem State.memOk.regionBytes {pages f r} (h : s.memOk) : (State.regionBytes s pages f r).1.memOk := by
  unfold State.regionBytes
  dsimp only
  exact State.memOk.foldlFst h (fun h => by
    split
    · exact h
    · exact h.ferryRead)

theorem State.memOk.ferryReads {pages f n} (h : s.memOk) : (State.ferryReads s pages f n).1.memOk := by
  unfold State.ferryReads
  dsimp only
  exact State.memOk.foldlFst h (fun h => h.regionBytes)

theorem State.memOk.emit {o} (h : s.memOk) : (State.emit s o).memOk :=
  h.emitAll

theorem State.memOk.roceOut {k qpn w} (h : s.memOk) : (State.roceOut s k qpn w).memOk :=
  h.emit

theorem State.memOk.qpOut {qpn w} (h : s.memOk) : (State.qpOut s qpn w).memOk := by
  unfold State.qpOut
  split
  · exact h.roceOut
  · exact h

theorem State.memOk.sendRegions {pages f n} (h : s.memOk) : (State.sendRegions s pages f n).1.memOk := by
  unfold State.sendRegions
  dsimp only
  exact State.memOk.foldlFst h.ferryReads (fun h => h.qpOut)

theorem State.memOk.usedFresh (h : s.memOk) : (State.usedFresh s).memOk :=
  h.same

/-- A write of the granules that can be merged. -/
theorem cellsWf_merged {d : List Host.Cell} (h : cellsWf d = true) (unc : List Nat) (a : Nat) (l : List (Nat × Byte)) :
    cellsWf (l.foldl (fun d ib => if hasN unc ((a + ib.1) / 64) then d else writeBytes d (a + ib.1) [ib.2]) d) = true := by
  induction l generalizing d with
  | nil => exact h
  | cons x l ih =>
    refine ih (d := if hasN unc ((a + x.1) / 64) then d else writeBytes d (a + x.1) [x.2]) ?_
    split
    · exact h
    · exact cellsWf_writeBytes _ _ _ h

theorem data_failed (l : List Nat) (b : Tier) :
    (l.foldl (fun (t : Tier) g => { t with crc := t.crc.set g (~~~t.check g) }) b).data = b.data := by
  induction l generalizing b with
  | nil => rfl
  | cons g l ih => exact ih _

theorem State.memOk.tierWrite {slow a bs} (h : s.memOk) : (State.tierWrite s slow a bs).1.memOk := by
  unfold State.tierWrite
  extract_lets n whole meets part unc failed u t wr t₁ t₂ t₃
  have k : u.memOk := h.touch.granules.foldl fun h => h.markRead
  refine State.memOk.setTier k ?_
  have wf : cellsWf t.data = true := k.tier slow
  unfold t₃
  rw [data_failed]
  change cellsWf wr = true
  unfold wr
  split
  · exact cellsWf_writeBytes _ _ _ wf
  · exact cellsWf_merged wf _ _ _

theorem State.memOk.arrayFails {block} (h : s.memOk) : (State.arrayFails s block).memOk :=
  h.same

theorem State.memOk.modCl {c f} (h : s.memOk) : (State.modCl s c f).memOk :=
  h.same

theorem State.memOk.wordRead {cl block key w} (h : s.memOk) : (State.wordRead s cl block key w).memOk := by
  unfold State.wordRead
  dsimp only
  split
  · exact h.bump.arrayFails
  · exact State.memOk.ite h.bump.modCl.arrayFails h.bump.modCl

theorem State.memOk.pmc {c ev n} (h : s.memOk) : (State.pmc s c ev n).memOk :=
  h.foldl (fun h => State.memOk.ite h h.countOne)

theorem State.memOk.vatGrants {pl a n} (h : s.memOk) : (State.vatGrants s pl a n).memOk := by
  unfold State.vatGrants
  dsimp only
  split
  · exact h.pmc
  · exact h

theorem State.memOk.setVat {i b} (h : s.memOk) (hb : cellsWf b.data = true) : (State.setVat s i b).memOk :=
  h.vats (banksWf_putBank _ _ _ h.2.2.1 hb)

theorem State.memOk.setPool {i b} (h : s.memOk) (hb : cellsWf b.data = true) : (State.setPool s i b).memOk :=
  h.pools (banksWf_putBank _ _ _ h.2.2.2.1 hb)

theorem State.memOk.setCells {p d} (h : s.memOk) (hd : cellsWf d = true) : (State.setCells s p d).memOk := by
  cases p with
  | tier slow => exact State.memOk.ite (h.slow hd) (h.fast hd)
  | vat i => exact h.setVat hd
  | pool i => exact h.setPool hd

theorem State.memOk.setBytes {p a bs} (h : s.memOk) : (State.setBytes s p a bs).memOk :=
  h.setCells (cellsWf_writeBytes _ _ _ (State.cellsWf_cells h p))

theorem State.memOk.bankWrite {pl a bs} (h : s.memOk) : (State.bankWrite s pl a bs).1.memOk := by
  unfold State.bankWrite
  extract_lets n b touched part
  split
  next cl block base _ =>
    extract_lets u v bad errs
    have k : v.memOk := (h.vatGrants.foldl fun h => h.wordRead).setBytes
    cases pl with
    | tier slow => exact k
    | vat i => exact k.setVat (cellsWf_get _ _ k.2.2.1)
    | pool i => exact k.setPool (cellsWf_get _ _ k.2.2.2.1)

theorem State.memOk.writePlace {pl a bs} (h : s.memOk) : (State.writePlace s pl a bs).1.memOk := by
  unfold State.writePlace
  split
  · exact h.tierWrite
  · exact h.bankWrite

theorem State.memOk.traffic {cls slow a n} (h : s.memOk) : (State.traffic s cls slow a n).memOk :=
  h.same

theorem State.memOk.trafficAll {cls l} (h : s.memOk) : (State.trafficAll s cls l).memOk :=
  h.foldl (fun h => by
  split
  · exact h.traffic
  · exact h)

theorem State.memOk.noteDst {c uid x} (h : s.memOk) : (State.noteDst s c uid x).memOk := by
  unfold State.noteDst
  split
  · exact State.memOk.ite h.modEntry h
  · exact h

theorem State.memOk.storeRun {c uid pl a bs} (h : s.memOk) : (State.storeRun s c uid pl a bs).1.memOk := by
  unfold State.storeRun
  extract_lets init cls r w
  have k : State.memOk w.1 := State.memOk.foldlFst h.noteDst fun h => h.trafficAll.writePlace
  exact k.same

theorem State.memOk.modHeld {k f} (h : s.memOk) : (State.modHeld s k f).memOk :=
  State.memOk.ite h h.same

theorem State.memOk.nameHeld {k p ext} (h : s.memOk) : (State.nameHeld s k p ext).memOk :=
  h.modHeld

theorem State.memOk.storeFrom {c uid ext l bs} (h : s.memOk) : (State.storeFrom s c uid ext l bs).1.memOk := by
  induction l generalizing s bs with
  | nil => exact h
  | cons p l ih => exact ih h.storeRun.nameHeld

theorem State.memOk.storePieces {c uid l bs} (h : s.memOk) : (State.storePieces s c uid l bs).1.memOk := by
  unfold State.storePieces
  exact h.storeFrom

theorem State.memOk.scramble {p a n} (h : s.memOk) : (State.scramble s p a n).memOk :=
  h.setBytes.same

theorem State.memOk.scrambleAll {l} (h : s.memOk) : (State.scrambleAll s l).memOk :=
  h.foldl (fun h => h.scramble)

theorem State.memOk.gaugeFault {im p ext a} (h : s.memOk) : (State.gaugeFault s im p ext a).memOk :=
  h.scrambleAll.haltOne.peerFaults

theorem State.memOk.storeSpans {c uid ext l bs} (h : s.memOk) : (State.storeSpans s c uid ext l bs).1.memOk := by
  induction l generalizing s bs with
  | nil => exact h
  | cons x l ih => exact ih h.storeRun.modHeld

theorem State.memOk.fault {c e cause index addr} (h : s.memOk) : (State.fault s c e cause index addr).memOk := by
  unfold State.fault
  dsimp only
  split
  · exact State.memOk.ite h.faultOne.peerFaults h.faultOne
  · exact h.faultOne

theorem State.memOk.copyGone {c uid} (h : s.memOk) : (State.copyGone s c uid).memOk :=
  h.modCl

theorem State.memOk.waitHeld {c uid} (h : s.memOk) : (State.waitHeld s c uid).memOk :=
  State.memOk.ite h.modEntry h

theorem State.memOk.runCopy {j} (h : s.memOk) : (State.runCopy s j).memOk := by
  unfold State.runCopy
  dsimp only
  split
  · exact h.modCl.storeSpans.scrambleAll.copyGone.fault
  · exact h.modCl.storeSpans.setPhase.waitHeld

theorem State.memOk.startCopies {fuel cl} (h : s.memOk) : (State.startCopies fuel s cl).memOk := by
  induction fuel generalizing s with
  | zero => exact h
  | succ fuel ih =>
    unfold State.startCopies
    dsimp only
    split
    · exact ih h.runCopy
    · exact h

theorem State.memOk.copyDone {c uid} (h : s.memOk) : (State.copyDone s c uid).memOk :=
  State.memOk.ite h.copyGone.startCopies h

theorem State.memOk.releaseOne {x} (h : s.memOk) : (State.releaseOne s x).memOk := by
  unfold State.releaseOne
  extract_lets k at' r t
  have ht : t.memOk := h.storeRun.modHeld
  split
  · exact h
  · split
    · split
      · exact ht.gaugeFault
      · exact ht
    · split
      · exact ht.scrambleAll.fault.copyDone
      · exact ht

theorem State.memOk.releaseHeld {p} (h : s.memOk) : (State.releaseHeld s p).memOk :=
  (h.same.foldl (fun h => h.releaseOne)).foldl (fun h => State.memOk.ite h h.modEntry)

theorem State.memOk.releaseLoad {c uid} (h : s.memOk) : (State.releaseLoad s c uid).memOk :=
  h.modEntry.releaseHeld

theorem State.memOk.ferryOver {im f status bytes} (h : s.memOk) : (State.ferryOver s im f status bytes).memOk := by
  unfold State.ferryOver
  dsimp only
  split
  · exact h.same.storePieces.bumpBy.releaseLoad.scrambleAll.fault
  · exact h.same.storePieces.bumpBy.releaseLoad.setPhase.waitHeld

/-- The mark as it stood before. -/
theorem State.memOk.ferryAbort {p} (h : s.memOk) : (State.ferryAbort s p).memOk := by
  unfold State.ferryAbort
  split
  · exact (State.memOk.ite h.usedFresh.sendRegions.qpOut h.usedFresh.sendRegions).bump.ferryOver
  · exact h

theorem State.memOk.dropQps (h : s.memOk) : (State.dropQps s).memOk :=
  (h.same.foldl (fun h => h.savesFailed)).foldl (fun h => h.ferryAbort)

theorem State.memOk.keeperLost {cause} (h : s.memOk) : (State.keeperLost s cause).memOk :=
  State.memOk.ite h.setRegF.setRegF.bump.same.haltParts.dropQps.sendWatch.dropHosts.dropSlices.same.setRegF.setRegF h

theorem State.memOk.wrWatch {v t} (h : s.memOk) (e : State.wrWatch s v = some t) : t.memOk := by
  unfold State.wrWatch at e
  dsimp only at e
  split at e
  · cases e
  · cases e
    exact State.memOk.ite (State.memOk.ite h.plainWrite.kick h.plainWrite).keeperLost (State.memOk.ite h.plainWrite.kick h.plainWrite)

theorem State.memOk.turnOn {d} (h : s.memOk) : (State.turnOn s d).memOk :=
  h.same

theorem State.memOk.wakeHbm {k} (h : s.memOk) : (State.wakeHbm s k).memOk :=
  State.memOk.ite h.turnOn.modStack.setRegF.setRegF.setRegF h

theorem State.memOk.wakeHbms (h : s.memOk) : (State.wakeHbms s).memOk :=
  h.foldl (fun h => h.wakeHbm)

theorem State.memOk.wakeTier {slow} (h : s.memOk) : (State.wakeTier s slow).memOk :=
  State.memOk.ite h h.wakeHbms

theorem State.memOk.framesMoved {slow frames} (h : s.memOk) : (State.framesMoved s slow frames).memOk :=
  h.foldl (fun h => h.pmcDie)

theorem State.memOk.frameTraffic {cls slow frames} (h : s.memOk) : (State.frameTraffic s cls slow frames).memOk :=
  h.same

theorem State.memOk.cleared {slow lo n} (h : s.memOk) : State.memOk (s.setTier slow (State.clearTier (s.tierOf slow) lo n)) :=
  h.setTier (cellsWf_clearBytes _ _ _ (h.tier slow))

theorem State.memOk.wrSluClear {v t} (h : s.memOk) (e : State.wrSluClear s v = some t) : t.memOk := by
  unfold State.wrSluClear at e
  dsimp only at e
  split at e
  · cases e
    exact h.plainWrite
  · split at e
    · cases e
    · split at e
      · cases e
        exact h.plainWrite.wakeTier.setRegF.setRegF.cleared.frameTraffic.framesMoved
      · cases e
        exact h.plainWrite.setRegF

theorem State.memOk.ruled {id ix v ok t} (h : s.memOk) (e : State.ruled s id ix v ok = some t) : t.memOk := by
  unfold State.ruled at e
  split at e
  · cases e
    exact h.plainWrite
  · cases e

theorem State.memOk.emergency (h : s.memOk) : (State.emergency s).memOk :=
  State.memOk.ite (State.memOk.ite h.setRegF h.setRegF.setRegF) h

theorem State.memOk.heatEmergency (h : s.memOk) : (State.heatEmergency s).memOk :=
  State.memOk.ite h.emergency h

theorem State.memOk.wrWeirCtrl {v t} (h : s.memOk) (e : State.wrWeirCtrl s v = some t) : t.memOk := by
  unfold State.wrWeirCtrl at e
  split at e
  · cases e
  · cases e
    exact h.plainWrite.heatEmergency

theorem State.memOk.seedSlice {b k} (h : s.memOk) : (State.seedSlice s b k).memOk :=
  h.same

theorem State.memOk.wrBistCtrl {v t} (h : s.memOk) (e : State.wrBistCtrl s v = some t) : t.memOk := by
  unfold State.wrBistCtrl at e
  dsimp only at e
  split at e
  · cases e
  · split at e
    · cases e
    · split at e
      · cases e
        exact h.plainWrite
      · split at e
        · cases e
        · cases e
          exact h.plainWrite.same.seedSlice.setRegF

theorem State.memOk.wrSample {ix v} (h : s.memOk) : (State.wrSample s ix v).memOk :=
  State.memOk.ite h.plainWrite.modCore.setRegF.setRegF h.plainWrite

theorem State.memOk.keeperRead {a n} (h : s.memOk) : (State.keeperRead s a n).1.memOk :=
  State.memOk.foldlFst h.traffic.granules fun h => by
    dsimp only
    split
    · exact h
    · split
      · exact h.markRead.memErr
      · exact h.markRead

theorem State.memOk.addCerts {l} (h : s.memOk) : (State.addCerts s l).1.memOk := by
  unfold State.addCerts
  refine State.memOk.foldlFst h fun h => ?_
  dsimp only
  split
  · exact h.same
  · exact h

theorem State.memOk.eraseOwner (h : s.memOk) : (State.eraseOwner s).memOk :=
  h.same

theorem State.memOk.dropResets {which status} (h : s.memOk) : (State.dropResets s which status).memOk := by
  refine State.memOk.foldl h.same fun {u r} h => ?_
  have k : (if u.pstate r.part = 4 then u.setPstate r.part 3 else u).memOk := State.memOk.ite h.setPstate h
  dsimp only
  split
  · exact k.reply
  · exact k

theorem State.memOk.closeRegions {p} (h : s.memOk) : (State.closeRegions s p).memOk :=
  h.same

theorem State.memOk.haltNow {p} (h : s.memOk) : (State.haltNow s p).memOk :=
  State.memOk.ite ((h.foldl (fun h => h.modCore)).haltDone) h

theorem State.memOk.stopParts {ps index} (h : s.memOk) : (State.stopParts s ps index).memOk :=
  h.haltParts.foldl (fun h => h.haltNow)

theorem State.memOk.stopAll (h : s.memOk) : (State.stopAll s).memOk :=
  (h.stopParts.foldl (fun h => h.closeRegions)).dropResets

theorem State.memOk.retireLife {fuses} (h : s.memOk) : (State.retireLife s fuses).memOk :=
  h.stopAll.eraseOwner.same

theorem State.memOk.reserveWrite {kind a bs} (h : s.memOk) : (State.reserveWrite s kind a bs).1.memOk := by
  unfold State.reserveWrite
  dsimp only
  split
  · exact h.traffic.writePlace.memErr
  · exact h.traffic.writePlace

theorem State.memOk.lifeEffect {op off payload t} (h : s.memOk) (e : State.lifeEffect s op off payload = .inl t) : t.memOk := by
  have k := h.addCerts (l := chunksOf certLen payload)
  unfold State.lifeEffect at e
  dsimp only at e
  generalize s.addCerts (chunksOf certLen payload) = r at e k
  split at e
  · split at e
    · cases Sum.inl.inj e
      exact k.same
    · cases e
  · split at e
    · cases Sum.inl.inj e
      exact k.same
    · cases e
  · rw [← Sum.inl.inj e]
    exact h.same
  · rw [← Sum.inl.inj e]
    exact h.retireLife
  · rw [← Sum.inl.inj e]
    exact h.retireLife
  · split at e
    · cases e
    · rw [← Sum.inl.inj e]
      exact h.same
  · split at e
    · cases e
    · rw [← Sum.inl.inj e]
      exact h.reserveWrite
  · split at e
    · rw [← Sum.inl.inj e]
      exact h.same
    · cases e
  · rw [← Sum.inl.inj e]
    exact h.same

theorem State.memOk.newChallenge (h : s.memOk) : (State.newChallenge s).memOk :=
  h.setReg.usedFresh

theorem State.memOk.showLife (h : s.memOk) : (State.showLife s).memOk :=
  h.setRegF.setRegF

theorem State.memOk.lifeRun {op off} (h : s.memOk) : (State.lifeRun s op off).memOk := by
  unfold State.lifeRun
  extract_lets total h' head n r u obj
  have k : u.memOk := by
    unfold u r
    split
    · exact h.keeperRead
    · exact h.keeperRead.keeperRead
  split
  · split
    · next e => exact (k.lifeEffect e).showLife.setRegF.newChallenge
    · exact k.setRegF
  · exact k.setRegF

theorem State.memOk.lifeGo {op off t} (h : s.memOk) (e : State.lifeGo s op off = some t) : t.memOk := by
  unfold State.lifeGo at e
  split at e <;> cases e
  exact h.setReg.lifeRun

theorem State.memOk.wrLifeCmd {v t} (h : s.memOk) (e : State.wrLifeCmd s v = some t) : t.memOk := by
  unfold State.wrLifeCmd at e
  split at e
  · exact h.lifeGo e
  · cases e
    exact h.plainWrite

theorem State.memOk.netSave (h : s.memOk) : (State.netSave s).memOk :=
  h.same

theorem State.memOk.wrNetCtrl {ix v} (h : s.memOk) : (State.wrNetCtrl s ix v).memOk :=
  State.memOk.ite h.plainWrite.netSave h.plainWrite

theorem State.memOk.wrOwner {pool cl i owner t} (h : s.memOk) (e : State.wrOwner s pool cl i owner = some t) : t.memOk := by
  unfold State.wrOwner at e
  split at e
  · cases e
  · dsimp only at e
    rw [Option.ite_none_right_eq_some] at e
    obtain ⟨-, rfl⟩ := e.imp_right Option.some.inj
    exact h.setRegF.setRegF

theorem State.memOk.wrConfCtrl {cl v t} (h : s.memOk) (e : State.wrConfCtrl s cl v = some t) : t.memOk := by
  unfold State.wrConfCtrl at e
  dsimp only at e
  split at e <;> cases e
  exact h.plainWrite

theorem State.memOk.wrConfRank {cl v t} (h : s.memOk) (e : State.wrConfRank s cl v = some t) : t.memOk := by
  cases e
  exact h.plainWrite

theorem State.memOk.modPort {p f} (h : s.memOk) : (State.modPort s p f).memOk :=
  h.same

theorem State.memOk.owe {p m} (h : s.memOk) : (State.owe s p m).memOk :=
  h.modPort

theorem State.memOk.unroutable {p} (h : s.memOk) : (State.unroutable s p).memOk :=
  h.bump

theorem State.memOk.dropTransit {w} (h : s.memOk) : (State.dropTransit s w).memOk := by
  unfold State.dropTransit
  dsimp only
  split
  · exact h.unroutable.owe
  · exact h

theorem State.memOk.discard {p} (h : s.memOk) : (State.discard s p).memOk :=
  h.modPort.same.foldl (fun h => h.dropTransit)

theorem State.memOk.setWidth {p version pairs} (h : s.memOk) : (State.setWidth s p version pairs).memOk :=
  h.setRegF.setRegF.setRegF.setRegF

theorem State.memOk.setLinkState {p v} (h : s.memOk) : (State.setLinkState s p v).memOk :=
  h.setRegF

theorem State.memOk.goDown {p reason drop} (h : s.memOk) : (State.goDown s p reason drop).memOk := by
  unfold State.goDown
  extract_lets u v
  have k : u.memOk := State.memOk.ite h.discard h
  have k : v.memOk := k.setLinkState.setRegF.setWidth
  exact State.memOk.ite k.event k

theorem State.memOk.modXing {x f} (h : s.memOk) : (State.modXing s x f).memOk :=
  h.same

theorem State.memOk.xingCount {x hi lo n} (h : s.memOk) : (State.xingCount s x hi lo n).memOk :=
  h.modXing

theorem State.memOk.resetNotice {x clocked} (h : s.memOk) : (State.resetNotice s x clocked).memOk :=
  State.memOk.ite h h.xingCount.xingCount.modXing

theorem State.memOk.sideReset {x n clocked} (h : s.memOk) : (State.sideReset s x n clocked).memOk :=
  h.foldl (fun h => State.memOk.ite h h.resetNotice.modXing)

theorem State.memOk.goOff {p} (h : s.memOk) : (State.goOff s p).memOk :=
  ((((State.memOk.ite h h.sideReset).discard).setLinkState).setRegF).setWidth

theorem State.memOk.lnkEnable {p en} (h : s.memOk) : (State.lnkEnable s p en).memOk :=
  State.memOk.ite (State.memOk.ite h.setRegF.modPort.setReg.goDown h.setRegF.modPort) h.setRegF.goOff

theorem State.memOk.goRetrain {p} (h : s.memOk) : (State.goRetrain s p).memOk :=
  State.memOk.ite h.setLinkState.bump.modPort h

theorem State.memOk.lnkFull {p} (h : s.memOk) : (State.lnkFull s p).memOk :=
  State.memOk.ite h.discard.setLinkState.setWidth.modPort h

theorem State.memOk.wrOffer {p offer t} (h : s.memOk) (e : State.wrOffer s p offer = some t) : t.memOk := by
  unfold State.wrOffer at e
  split at e <;> cases e
  exact h.setRegF

theorem State.memOk.wrLnkCtrl {p v t} (h : s.memOk) (e : State.wrLnkCtrl s p v = some t) : t.memOk := by
  unfold State.wrLnkCtrl at e
  obtain ⟨u, hu, rfl⟩ := Option.map_eq_some_iff.1 e
  extract_lets en u₁ u₂
  have k₁ : u₁.memOk := State.memOk.ite (h.wrOffer hu).lnkEnable (h.wrOffer hu)
  have k₂ : u₂.memOk := State.memOk.ite k₁.goRetrain k₁
  exact State.memOk.ite k₂.lnkFull k₂

theorem State.memOk.wrAlloc {p v t} (h : s.memOk) (e : State.wrAlloc s p v = some t) : t.memOk := by
  unfold State.wrAlloc at e
  dsimp only at e
  split at e <;> cases e
  exact h.setReg

theorem State.memOk.wrHeat {st v t} (h : s.memOk) (e : State.wrHeat s st v = some t) : t.memOk := by
  unfold State.wrHeat at e
  dsimp only at e
  split at e <;> cases e
  exact h.plainWrite

/-- A register's write of its own rule, or by its access codes alone. -/
theorem State.memOk.regWritten {id ix v t} (h : s.memOk) (e : State.regWritten s id ix v = some t) : t.memOk := by
  unfold State.regWritten at e
  dsimp only at e
  split at e
  · exact h.wrWatch e
  · exact h.wrSluClear e
  · exact h.ruled e
  · exact h.ruled e
  · exact h.wrWeirCtrl e
  · exact h.ruled e
  · exact h.wrBistCtrl e
  · exact h.ruled e
  · exact h.ruled e
  · cases e
    exact h.wrSample
  · exact h.wrLifeCmd e
  · cases e
    exact h.wrNetCtrl
  · exact h.wrOwner e
  · exact h.wrOwner e
  · exact h.wrConfCtrl e
  · exact h.wrConfRank e
  · exact h.ruled e
  · exact h.wrLnkCtrl e
  · exact h.wrAlloc e
  · exact h.wrHeat e
  · cases e
    exact h.plainWrite

theorem State.memOk.mrsWrite {addr v t} (h : s.memOk) (e : State.mrsWrite s addr v = some t) : t.memOk := by
  unfold State.mrsWrite at e
  split at e
  · cases e
  · split at e
    · cases e
    · split at e
      · cases e
      · exact h.regWritten e

theorem State.memOk.accessErr (h : s.memOk) : (State.accessErr s).memOk :=
  h.bump

theorem State.memOk.windowEntry {c} (h : s.memOk) : (State.windowEntry s c).memOk := by
  unfold State.windowEntry
  dsimp only
  split
  · split
    · split
      · exact h.setCore
      · exact h
    · exact h
  · exact h

theorem State.memOk.clusterNotice {cl} (h : s.memOk) : (State.clusterNotice s cl).memOk :=
  h.foldl (fun h => State.memOk.ite h h.xingCount.xingCount.modXing)

theorem State.memOk.loadWaits (h : s.memOk) : (State.loadWaits s).memOk :=
  State.memOk.ite h.same.setRegF h.same

theorem State.memOk.dropHandover {id ix} (h : s.memOk) : (State.dropHandover s id ix).memOk :=
  h.setRegF.setRegF

theorem State.memOk.clearRegs {l} (h : s.memOk) : (State.clearRegs s l).memOk :=
  h.foldl (fun h => h.setReg)

theorem State.memOk.endWaits {gone} (h : s.memOk) : (State.endWaits s gone).memOk :=
  h.same

theorem State.memOk.restartCommon {cl} (h : s.memOk) : (State.restartCommon s cl).memOk := by
  unfold State.restartCommon
  exact ((h.foldl fun h => h.dropHandover.scramble).foldl fun h => h.dropHandover.scramble).clearRegs.endWaits.modCl

theorem State.memOk.restartCore {c} (h : s.memOk) : (State.restartCore s c).memOk :=
  h.modCore.clearRegs

theorem State.memOk.abandon {l} (h : s.memOk) : (State.abandon s l).memOk :=
  State.memOk.same (State.memOk.foldl h fun h => h.same.storeRun)

theorem State.memOk.restartCores {cl} (h : s.memOk) : (State.restartCores s cl).memOk := by
  unfold State.restartCores
  extract_lets mine dst u v
  have k : v.memOk := State.memOk.foldl (h.same (s := s)) fun h => h.restartCore
  exact k.abandon.releaseHeld.same

theorem State.memOk.warmRestart {cl entry} (h : s.memOk) : (State.warmRestart s cl entry).memOk :=
  State.memOk.ite h.addRetire h.stopParts.clusterNotice.addRetire.restartCores.restartCommon.loadWaits

theorem State.memOk.dropBank {id ix owner} (h : s.memOk) : (State.dropBank s id ix owner).memOk :=
  State.memOk.ite h.setReg h

theorem State.memOk.moveOwner {id ix old new} (h : s.memOk) : (State.moveOwner s id ix old new).memOk :=
  State.memOk.ite h.setRegF h

theorem State.memOk.moveHeld {l old new} (h : s.memOk) : (State.moveHeld s l old new).memOk :=
  ((h.setCore.setCore.foldl (fun h => h.setReg.dropBank)).foldl (fun h => h.moveOwner)).foldl (fun h => h.moveOwner)

theorem State.memOk.wakeCore {c} (h : s.memOk) : (State.wakeCore s c).memOk :=
  State.memOk.ite (h.turnOn.modCore.clearRegs.foldl (fun h => h.setRegF)) h

theorem State.memOk.wakeIngest {cl} (h : s.memOk) : (State.wakeIngest s cl).memOk :=
  State.memOk.ite h.turnOn.clearRegs h

theorem State.memOk.wakeCommon {cl} (h : s.memOk) : (State.wakeCommon s cl).memOk :=
  State.memOk.ite h.turnOn.modCl.clearRegs h

theorem State.memOk.wakeFor {c} (h : s.memOk) : (State.wakeFor s c).memOk :=
  h.wakeHbms.wakeCommon.wakeIngest.wakeCore

theorem State.memOk.moveSel {old new} (h : s.memOk) : (State.moveSel s old new).memOk :=
  (h.clearRegs.foldl (fun h => h.setReg)).setRegF

theorem State.memOk.moveCore {l old new} (h : s.memOk) : (State.moveCore s l old new).memOk :=
  ((State.memOk.ite h.wakeFor.moveHeld h).moveSel).same

theorem State.memOk.moveCores {skip} (h : s.memOk) : (State.moveCores s skip).memOk :=
  h.foldl (fun h => by
  split
  · exact h.moveCore
  · exact h)

theorem State.memOk.reportReduced (h : s.memOk) : (State.reportReduced s).memOk :=
  h.same.record

theorem State.memOk.refuseRunning {detail} (h : s.memOk) : (State.refuseRunning s detail).memOk :=
  (h.setRegF.setRegF.same.foldl (fun h => h.setReg)).reportReduced

theorem State.memOk.placeAgain (h : s.memOk) : (State.placeAgain s).memOk := by
  unfold State.placeAgain
  split
  · exact h
  · split
    · exact h.moveCores
    · exact State.memOk.ite h.reportReduced h.refuseRunning

theorem State.memOk.retireBlock {block source slice} (h : s.memOk) : (State.retireBlock s block source slice).memOk := by
  unfold State.retireBlock
  dsimp only
  split
  · exact h
  · split
    · exact State.memOk.ite h.warmRestart (State.memOk.ite h.addRetire.placeAgain h.addRetire)
    · exact State.memOk.ite h.warmRestart (State.memOk.ite h.warmRestart h.addRetire)

theorem State.memOk.settle {t} (h : s.memOk) (k : t.memOk) : (State.settle s t).memOk := by
  unfold State.settle
  exact State.memOk.ite h (State.memOk.ite k (k.same.foldl fun h => h.retireBlock))

theorem State.memOk.rampMove {c} (h : s.memOk) : (State.rampMove s c).memOk :=
  State.memOk.ite (State.memOk.ite h h.setRegF.usedFresh) (State.memOk.ite h h.setRegF.usedFresh)

theorem State.memOk.setAcct {p a} (h : s.memOk) : (State.setAcct s p a).memOk :=
  h.same

theorem State.memOk.chargeRampDown {c} (h : s.memOk) : (State.chargeRampDown s c).memOk :=
  h.modPart.usedFresh.setAcct

theorem State.memOk.passOut {c e} (h : s.memOk) : (State.passOut s c e).memOk :=
  State.memOk.ite h.rampMove.modCore.chargeRampDown h.rampMove.modCore

theorem State.memOk.addTok {c t} (h : s.memOk) : (State.addTok s c t).memOk :=
  h.modCore

theorem State.memOk.produce {c e kind value} (h : s.memOk) : (State.produce s c e kind value).memOk :=
  State.memOk.ite h h.addTok

theorem State.memOk.writeSample {c ws} (h : s.memOk) : (State.writeSample s c ws).memOk :=
  State.memOk.ite h.bump h.modCore.setRegF.setRegF

theorem State.memOk.complete {c e} (h : s.memOk) : (State.complete s c e).memOk := by
  unfold State.complete
  dsimp only
  split
  · exact (((((State.memOk.ite h.passOut h).modCore).produce).pmc).writeSample).usedFresh
  · exact (((State.memOk.ite h.passOut h).modCore).produce).pmc

theorem State.memOk.instructionComplete {c uid} (h : s.memOk) : (State.instructionComplete s c uid).memOk := by
  unfold State.instructionComplete
  split
  · exact State.memOk.ite h.releaseLoad.complete.copyDone h
  · exact h

theorem State.memOk.tokenRouteArrival {p route dest step iters} (h : s.memOk) : (State.tokenRouteArrival s p route dest step iters).memOk := by
  unfold State.tokenRouteArrival
  dsimp only
  split
  · exact h
  · split
    · exact h
    · split
      · split
        · exact State.memOk.ite h.addTok h
        · exact h
      · exact h

theorem State.memOk.markFired {c e} (h : s.memOk) : (State.markFired s c e).memOk :=
  h.modCore.modEntry.pmc

theorem State.memOk.fireOp {c unit opcode acc body} (h : s.memOk) (hbody : ∀ {u x0}, State.memOk u → (body u x0).memOk)
    : (State.fireOp s c unit opcode acc body).memOk := by
  unfold State.fireOp
  split
  · exact h
  · exact State.memOk.ite (hbody h.markFired) h

theorem State.memOk.stepEnd {c} (h : s.memOk) : (State.stepEnd s c).memOk := by
  unfold State.stepEnd
  split
  · exact h
  · exact h.fireOp (fun h => h.complete.modPart)

theorem State.memOk.barrierCollect {p} (h : s.memOk) : (State.barrierCollect s p).memOk := by
  unfold State.barrierCollect
  dsimp only
  split
  · exact h
  · split
    · split
      · exact h.storePieces.gaugeFault
      · exact h.storePieces.modPart
    · exact h

theorem State.memOk.deadlineStep {p} (h : s.memOk) : (State.deadlineStep s p).memOk := by
  unfold State.deadlineStep
  dsimp only
  split
  · exact State.memOk.ite h.modPart h.modPart.modPart
  · exact h.modPart

theorem State.memOk.takeAtBarrier {p} (h : s.memOk) : (State.takeAtBarrier s p).memOk := by
  unfold State.takeAtBarrier
  dsimp only
  split
  · exact h
  · exact h.foldl (fun h => h.modCore)

theorem State.memOk.drained {p} (h : s.memOk) : (State.drained s p).memOk :=
  ((((h.foldl (fun h => h.modCore)).modPart).setPstate).reportAll).peerFaults

theorem State.memOk.barrierRelease {p step} (h : s.memOk) : (State.barrierRelease s p step).memOk := by
  unfold State.barrierRelease
  dsimp only
  split
  · split
    · exact (((((h.modPart.foldl (fun h => h.modCore.pmc)).reportFallback).deadlineStep).takeAtBarrier).drained).closeRegions
    · exact (((h.modPart.foldl (fun h => h.modCore.pmc)).reportFallback).deadlineStep).takeAtBarrier
  · exact h

theorem State.memOk.resolve {c e n} (h : s.memOk) : (State.resolve s c e n).memOk :=
  h.modCore

theorem State.memOk.modFetch {c f} (h : s.memOk) : (State.modFetch s c f).memOk :=
  h.modCore

theorem State.memOk.firePred {c e} (h : s.memOk) : (State.firePred s c e).memOk :=
  h.complete.resolve.modFetch

theorem State.memOk.fireLoop {c e} (h : s.memOk) : (State.fireLoop s c e).memOk :=
  State.memOk.ite h.fault h.complete.resolve.modFetch

theorem State.memOk.releaseRead {f} (h : s.memOk) : (State.releaseRead s f).memOk :=
  h.releaseHeld

theorem State.memOk.modFerry {p f} (h : s.memOk) : (State.modFerry s p f).memOk :=
  h.same

theorem State.memOk.ferryProgress {f} (h : s.memOk) : (State.ferryProgress s f).memOk := by
  unfold State.ferryProgress
  dsimp only
  split
  · exact h.ferryReads.modFerry.releaseRead
  · exact h

theorem State.memOk.heldWriteRelease {c uid} (h : s.memOk) : (State.heldWriteRelease s c uid).memOk := by
  unfold State.heldWriteRelease
  split
  · split
    · split
      · exact h.ferryProgress
      · exact h
    · exact h.releaseLoad
  · exact h

theorem State.memOk.haltNotice {c} (h : s.memOk) : (State.haltNotice s c).memOk := by
  unfold State.haltNotice
  split
  · exact h
  · exact State.memOk.ite h.modCore.haltDone h

theorem State.memOk.cellRead {pl a n need} (h : s.memOk) : (State.cellRead s pl a n need).st.memOk := by
  unfold State.cellRead
  extract_lets b used es
  split
  exact h.foldl fun h => h.wordRead

theorem State.memOk.feedPieces {l} (h : s.memOk) : (State.feedPieces s l).st.memOk := by
  induction l generalizing s with
  | nil => exact h
  | cons p l ih => exact ih h.cellRead

theorem State.memOk.loadTile {c e} (h : s.memOk) : (State.loadTile s c e).memOk := by
  unfold State.loadTile
  dsimp only
  split
  · exact h
  · split
    · exact h.feedPieces.feedPieces.modCore.usedFresh.fault
    · exact h.feedPieces.feedPieces.modCore.setPhase

theorem State.memOk.fireMload {c e} (h : s.memOk) : (State.fireMload s c e).memOk :=
  State.memOk.ite (State.memOk.ite h.setPhase h.loadTile) h.fault

theorem State.memOk.tileRelease {c buf} (h : s.memOk) : (State.tileRelease s c buf).memOk :=
  h.modCore.foldl (fun h => h.loadTile)

theorem State.memOk.poisonStep {p step} (h : s.memOk) : (State.poisonStep s p step).memOk :=
  h.modPart

theorem State.memOk.poisonIn {c p step} (h : s.memOk) : (State.poisonIn s c p step).memOk :=
  h.poisonStep.pmc

theorem State.memOk.runPass {c e pl} (h : s.memOk) : (State.runPass s c e pl).memOk := by
  unfold State.runPass
  extract_lets d buf shape wfmt dep r rb n b useAcc k t tile rows data rd u ws ss
  have hu : State.memOk u.st := h.feedPieces.feedPieces
  split
  · exact (hu.foldl fun h => h.modCore.usedFresh).fault
  · next outs acc vals t₁ t₂ t₃ t₄ _ _ =>
    have k₁ : t₁.memOk := hu.rampMove.modCore
    have k₂ : t₂.memOk := State.memOk.ite k₁.flag k₁
    have k₃ : t₃.memOk := State.memOk.ite k₂.flag k₂
    have k₄ : t₄.memOk := k₃.pmc
    exact State.memOk.ite k₄.flag.poisonIn k₄

theorem State.memOk.fireMpass {c e} (h : s.memOk) : (State.fireMpass s c e).memOk := by
  unfold State.fireMpass
  dsimp only
  split
  · exact h.runPass
  · exact h.fault

theorem State.memOk.countGauge {p step tensor cs} (h : s.memOk) : (State.countGauge s p step tensor cs).memOk := by
  unfold State.countGauge
  dsimp only
  split
  · exact h
  · split
    · exact h
    · exact h.modPart

theorem State.memOk.heldExt {k ext} (h : s.memOk) : (State.heldExt s k ext).memOk :=
  h.modHeld

theorem State.memOk.runMstore {c e pl} (h : s.memOk) : (State.runMstore s c e pl).memOk := by
  unfold State.runMstore
  extract_lets d fmt layout conv r b rows cols tensor base pitch p key el outer inner runs ext t q t'
  have k : State.memOk t.1 := State.memOk.foldlFst h fun h => h.storeRun
  have k : State.memOk t'.1 := by
    unfold t'
    split
    · exact k.storeRun
    · exact k
  clear_value t'
  split
  · exact k.scrambleAll.fault
  · exact k.heldExt.countGauge.waitHeld

theorem State.memOk.fireMstore {c e} (h : s.memOk) : (State.fireMstore s c e).memOk := by
  unfold State.fireMstore
  dsimp only
  split
  · exact h.runMstore
  · exact h.fault

theorem State.memOk.arrayAtRest {c} (h : s.memOk) : (State.arrayAtRest s c).memOk :=
  State.memOk.ite h.setRegF h

theorem State.memOk.vecStatus {c eng e} (h : s.memOk) : (State.vecStatus s c eng e).memOk :=
  h.setRegF.setRegF.setRegF

theorem State.memOk.fireVecOp {c eng opcode body} (h : s.memOk) (hbody : ∀ {u x0}, State.memOk u → (body u x0).memOk)
    : (State.fireVecOp s c eng opcode body).memOk :=
  h.fireOp (fun h => hbody h.vecStatus)

theorem State.memOk.modVec {c eng f} (h : s.memOk) : (State.modVec s c eng f).memOk :=
  h.modCore

theorem State.memOk.bindLen {c eng uid n} (h : s.memOk) : (State.bindLen s c eng uid n).memOk := by
  unfold State.bindLen
  exact h.modCore.modVec

theorem State.memOk.fireVsetvl {c eng e} (h : s.memOk) : (State.fireVsetvl s c eng e).memOk :=
  State.memOk.ite (State.memOk.ite h.bindLen.flag h.bindLen) h

theorem State.memOk.vecBeats {c n} (h : s.memOk) : (State.vecBeats s c n).memOk :=
  h.pmc

theorem State.memOk.heldOf {k ext index lo wide} (h : s.memOk) : (State.heldOf s k ext index lo wide).memOk :=
  h.modHeld

theorem State.memOk.runVst {c eng e m indexed pl addrs} (h : s.memOk) : (State.runVst s c eng e m indexed pl addrs).memOk := by
  unfold State.runVst
  extract_lets w v els ext r
  have k : r.1.memOk := State.memOk.foldlFst h fun h => h.storeRun.heldOf
  clear_value r
  split
  · exact k.scrambleAll.fault
  · exact k.waitHeld

theorem State.memOk.usedFreshBy {n} (h : s.memOk) : (State.usedFreshBy s n).memOk :=
  h.same

theorem State.memOk.scrambleGroup {c eng base w lim} (h : s.memOk) : (State.scrambleGroup s c eng base w lim).memOk :=
  h.modVec.usedFreshBy

theorem State.memOk.runVld {c eng e k indexed a pl addrs} (h : s.memOk) :
    (State.runVld s c eng e k indexed a pl addrs).memOk := by
  unfold State.runVld
  extract_lets w ws u r
  have hu : u.memOk := State.memOk.ite h h.vatGrants
  have hr : State.memOk r.1 := State.memOk.foldlFst hu fun h => by
    dsimp only
    exact State.memOk.cellRead (State.memOk.ite h.vatGrants h)
  split
  · exact hr.scrambleGroup.fault
  · exact hr.modVec

theorem State.memOk.fireVmem {c eng e store indexed} (h : s.memOk) : (State.fireVmem s c eng e store indexed).memOk := by
  unfold State.fireVmem
  dsimp only
  split
  · exact h.vecBeats
  · split
    · exact (State.memOk.ite h.vecBeats.modEntry h.vecBeats).fault
    · exact State.memOk.ite ((State.memOk.ite h.vecBeats.modEntry h.vecBeats).runVst) ((State.memOk.ite h.vecBeats.modEntry h.vecBeats).runVld)
    · exact (State.memOk.ite h.vecBeats.modEntry h.vecBeats).modVec

theorem State.memOk.bankReadFor {pl a n need} (h : s.memOk) : (State.bankReadFor s pl a n need).st.memOk := by
  unfold State.bankReadFor
  exact h.vatGrants.cellRead

theorem State.memOk.bankRead {pl a n} (h : s.memOk) : (State.bankRead s pl a n).st.memOk := by
  unfold State.bankRead
  exact h.bankReadFor

theorem State.memOk.readChunk {k src} (h : s.memOk) : (State.readChunk s k src).1.memOk := by
  unfold State.readChunk
  dsimp only
  split
  · exact h
  · split
    · exact h
    · exact h.bankRead

theorem State.memOk.initCarry {c e d k} (h : s.memOk) : (State.initCarry s c e d k).1.memOk := by
  unfold State.initCarry
  dsimp only
  split
  · exact h
  · exact h.readChunk

theorem State.memOk.scrambleFrom {d k} (h : s.memOk) : (State.scrambleFrom s d k).memOk := by
  unfold State.scrambleFrom
  dsimp only
  split
  · exact h
  · exact h.foldl (fun h => h.scramble)

theorem State.memOk.tensorBad {c e d k o} (h : s.memOk) : (State.tensorBad s c e d k o).memOk :=
  h.scrambleFrom.fault

theorem State.memOk.writeChunk {c uid d k els} (h : s.memOk) : (State.writeChunk s c uid d k els).1.memOk := by
  unfold State.writeChunk
  dsimp only
  split
  · exact h
  · exact h.storeRun.heldOf

theorem State.memOk.chunkDone {c e carry} (h : s.memOk) : (State.chunkDone s c e carry).memOk :=
  State.memOk.ite h.modEntry h.modEntry.waitHeld

theorem State.memOk.setVecFlags {c eng e fl} (h : s.memOk) : (State.setVecFlags s c eng e fl).memOk :=
  State.memOk.ite h (State.memOk.ite h.setReg.poisonIn h.setReg)

theorem State.memOk.chunkWrite {c eng e d k res fl carry} (h : s.memOk) : (State.chunkWrite s c eng e d k res fl carry).memOk := by
  unfold State.chunkWrite
  dsimp only
  split
  · exact h.writeChunk.tensorBad
  · exact h.writeChunk.countGauge.setVecFlags.chunkDone

theorem State.memOk.scanChunk {c eng e d k} (h : s.memOk) : (State.scanChunk s c eng e d k).memOk := by
  unfold State.scanChunk
  extract_lets isRec func dir1 x y sc fresh i
  have hy : State.memOk y.1 := by
    unfold y
    split
    · exact h.readChunk.readChunk
    · exact h.readChunk
  have hi : State.memOk i.1 := by
    unfold i
    split
    · exact hy.initCarry
    · exact hy
  split
  · exact hi.tensorBad
  · exact State.memOk.ite hi.chunkWrite hi.chunkWrite

theorem State.memOk.elemChunk {c eng e d k} (h : s.memOk) : (State.elemChunk s c eng e d k).memOk := by
  unfold State.elemChunk
  extract_lets srcs r at' bad
  have hr : State.memOk r.1 := State.memOk.foldlFst h fun h => h.readChunk
  clear_value bad
  split
  · exact hr.setVecFlags.scrambleFrom.fault
  · split
    · exact hr.tensorBad
    · exact hr.chunkWrite

theorem State.memOk.runChunk {c eng e} (h : s.memOk) : (State.runChunk s c eng e).memOk :=
  State.memOk.ite h.vecBeats.scanChunk h.vecBeats.elemChunk

theorem State.memOk.tensorStart {c eng e} (h : s.memOk) : (State.tensorStart s c eng e).memOk := by
  unfold State.tensorStart
  dsimp only
  split
  · exact h.fault
  · exact h.modEntry.runChunk

theorem State.memOk.fireBoth {c eng opcode f} (h : s.memOk) (hf : ∀ {u x}, State.memOk u → (f u x).memOk) :
    (State.fireBoth s c eng opcode f).memOk :=
  h.settle (h.fireVecOp fun h => State.memOk.ite h.tensorStart (hf h))

theorem State.memOk.strip {c eng e body} (h : s.memOk) (hbody : ∀ {u x0 x1 x2}, State.memOk u → (body u x0 x1 x2).memOk)
    : (State.strip s c eng e body).memOk :=
  State.memOk.ite h.vecBeats (hbody h.vecBeats)

theorem State.memOk.stripElem {c eng e} (h : s.memOk) : (State.stripElem s c eng e).memOk := by
  unfold State.stripElem
  refine h.strip fun {u r v a} h => ?_
  dsimp only
  split
  · exact h.setVecFlags.scrambleGroup.fault
  · exact State.memOk.ite h.modVec.setVecFlags.countGauge h.modVec.setVecFlags

theorem State.memOk.stripBits {c eng e f} (h : s.memOk) : (State.stripBits s c eng e f).memOk :=
  h.strip (fun h => h.modVec)

theorem State.memOk.setValue {c uid v} (h : s.memOk) : (State.setValue s c uid v).memOk :=
  h.modEntry

theorem State.memOk.fireVcmp {c eng e count} (h : s.memOk) : (State.fireVcmp s c eng e count).memOk :=
  h.strip (fun h => (State.memOk.ite h.setValue h.modVec).setVecFlags)

theorem State.memOk.fireVpopc {c eng e} (h : s.memOk) : (State.fireVpopc s c eng e).memOk :=
  h.strip (fun h => h.setValue)

theorem State.memOk.fireMaskOp {c eng e f} (h : s.memOk) : (State.fireMaskOp s c eng e f).memOk :=
  h.strip (fun h => h.modVec)

theorem State.memOk.fireVperm {c eng e} (h : s.memOk) : (State.fireVperm s c eng e).memOk :=
  h.strip (fun h => h.modVec.setVecFlags)

theorem State.memOk.fireVcompress {c eng e} (h : s.memOk) : (State.fireVcompress s c eng e).memOk :=
  h.strip (fun h => h.modVec)

theorem State.memOk.fireVexpand {c eng e} (h : s.memOk) : (State.fireVexpand s c eng e).memOk :=
  h.strip (fun h => h.modVec)

theorem State.memOk.fireVred {c eng e} (h : s.memOk) : (State.fireVred s c eng e).memOk :=
  h.strip (fun h => State.memOk.ite h.modVec.setVecFlags h.modVec)

theorem State.memOk.fireVext {c eng e} (h : s.memOk) : (State.fireVext s c eng e).memOk :=
  h.strip (fun h => State.memOk.ite h.setValue h.setVecFlags)

theorem State.memOk.stripScan {c eng e} (h : s.memOk) : (State.stripScan s c eng e).memOk :=
  h.strip (fun h => h.modVec.setVecFlags)

theorem State.memOk.stripRec {c eng e} (h : s.memOk) : (State.stripRec s c eng e).memOk :=
  h.strip (fun h => h.modVec.setVecFlags)

theorem State.memOk.predict {costs xs} (h : s.memOk) : (State.predict s costs xs).memOk :=
  h.foldl (fun h => h.same)

theorem State.memOk.admitPart {p xs t} (h : s.memOk) (e : State.admitPart s p xs = some t) : t.memOk := by
  unfold State.admitPart at e
  dsimp only at e
  split at e
  · split at e <;> cases e
    exact h.predict.same.setAcct.modPart
  · cases e

theorem State.memOk.beginWait {k x} (h : s.memOk) : (State.beginWait s k x).memOk :=
  h.same.pmcDie

theorem State.memOk.markWaiting {c p uid piece} (h : s.memOk) : (State.markWaiting s c p uid piece).memOk :=
  State.memOk.ite h h.bump.beginWait

theorem State.memOk.clearWaiting {c} (h : s.memOk) : (State.clearWaiting s c).memOk :=
  h.endWaits

theorem State.memOk.flagFallback {c e} (h : s.memOk) : (State.flagFallback s c e).memOk := by
  unfold State.flagFallback
  dsimp only
  split
  · exact h.flag.bump.pmc.modEntry
  · exact State.memOk.ite h.flag.bump.pmc.modEntry.modPart h.flag.bump.pmc.modEntry.modPart.reportAll

theorem State.memOk.parityMet {c slots} (h : s.memOk) : (State.parityMet s c slots).memOk :=
  h.flag.modCore

theorem State.memOk.sfRun {c e w fmt conv mode f2 xs} (h : s.memOk) : (State.sfRun s c e w fmt conv mode f2 xs).1.memOk := by
  unfold State.sfRun
  dsimp only
  split
  · refine State.memOk.poisonIn ?_
    refine State.memOk.flag ?_
    split
    · exact h
    · split
      · exact h
      · exact h.parityMet.flagFallback
  · split
    · exact h
    · split
      · exact h
      · exact h.parityMet.flagFallback

theorem State.memOk.sfChunk {c e} (h : s.memOk) : (State.sfChunk s c e).memOk := by
  unfold State.sfChunk
  dsimp only
  split
  · refine State.memOk.tensorBad ?_
    split
    · exact h.pmc.readChunk.readChunk
    · exact h.pmc.readChunk
  · refine State.memOk.chunkWrite ?_
    refine State.memOk.sfRun ?_
    split
    · exact h.pmc.readChunk.readChunk
    · exact h.pmc.readChunk

theorem State.memOk.statBad {c e pl off n} (h : s.memOk) : (State.statBad s c e pl off n).memOk :=
  h.scramble.fault

theorem State.memOk.rsFlags {c xs sat clamped} (h : s.memOk) : (State.rsFlags s c xs sat clamped).memOk := by
  unfold State.rsFlags
  dsimp only
  split
  · refine State.memOk.flag ?_
    split
    · exact (State.memOk.ite ((State.memOk.ite h.flag h).flag) (State.memOk.ite h.flag h)).flag
    · exact State.memOk.ite ((State.memOk.ite h.flag h).flag) (State.memOk.ite h.flag h)
  · split
    · exact (State.memOk.ite ((State.memOk.ite h.flag h).flag) (State.memOk.ite h.flag h)).flag
    · exact State.memOk.ite ((State.memOk.ite h.flag h).flag) (State.memOk.ite h.flag h)

theorem State.memOk.rstatRow {c e src rec'} (h : s.memOk) : (State.rstatRow s c e src rec').memOk := by
  unfold State.rstatRow
  extract_lets d cont fin off eps r x y
  have k : State.memOk y.st := by
    unfold y
    split
    · exact h.bankRead.bankRead
    · exact h.bankRead
  split
  · exact k.statBad
  · next xs p0 p1 f t₁ t₂ t₃ _ =>
    have k₂ : t₂.memOk := k.storeRun.heldExt.rsFlags
    have k₃ : t₃.memOk := State.memOk.ite k₂.poisonIn k₂
    exact k₃.chunkDone

theorem State.memOk.rstatNext {c e} (h : s.memOk) : (State.rstatNext s c e).memOk := by
  unfold State.rstatNext
  split
  · exact h.rstatRow
  · exact h

theorem State.memOk.chunkAdmission {c uid} (h : s.memOk) : (State.chunkAdmission s c uid).memOk := by
  unfold State.chunkAdmission
  split
  · extract_lets blocked
    refine State.memOk.ite ?_ h
    split
    · exact h.markWaiting
    · next u e =>
      have k : (u.clearWaiting c).memOk := (h.admitPart e).clearWaiting
      split
      · exact k.runChunk
      · exact k.runChunk
      · exact k.sfChunk
      · exact k.rstatNext
      · exact h
  · exact h

theorem State.memOk.sfRegister {c e w mode f2} (h : s.memOk) : (State.sfRegister s c e w mode f2).memOk := by
  unfold State.sfRegister
  exact h.pmc.sfRun.modVec

theorem State.memOk.fireSf {c e} (h : s.memOk) : (State.fireSf s c e).memOk := by
  unfold State.fireSf
  dsimp only
  split
  · split
    · exact h.fault
    · exact (State.memOk.ite (State.memOk.ite h.modEntry.flag h.modEntry) ((State.memOk.ite h.modEntry.flag h.modEntry).flagFallback)).sfChunk
  · exact State.memOk.ite h ((State.memOk.ite (State.memOk.ite h.flag h) ((State.memOk.ite h.flag h).flagFallback)).sfRegister)

theorem State.memOk.fireSftable {c e} (h : s.memOk) : (State.fireSftable s c e).memOk := by
  unfold State.fireSftable
  dsimp only
  split
  · split
    · exact h.traffic.tierRead.fault
    · exact h.traffic.tierRead.modCore.setPhase
  · exact h

theorem State.memOk.slotSwap {c i} (h : s.memOk) : (State.slotSwap s c i).memOk := by
  unfold State.slotSwap
  dsimp only
  split
  · exact h
  · exact State.memOk.ite h h.modCore

theorem State.memOk.storeRead {p im k} (h : s.memOk) : (State.storeRead s p im k).1.memOk := by
  unfold State.storeRead
  dsimp only
  exact h.keeperRead

theorem State.memOk.slotRestore {c i} (h : s.memOk) : (State.slotRestore s c i).memOk := by
  unfold State.slotRestore
  dsimp only
  split
  · split
    · exact h.storeRead.modCore
    · exact h.storeRead
  · exact h.modCore

theorem State.memOk.slotReload {c i} (h : s.memOk) : (State.slotReload s c i).memOk := by
  unfold State.slotReload
  dsimp only
  split
  · split
    · exact State.memOk.ite h.slotRestore h
    · split
      · exact ((State.memOk.ite h.slotRestore h).storeRead).modCore
      · exact (State.memOk.ite h.slotRestore h).storeRead
  · exact State.memOk.ite h.slotRestore h

theorem State.memOk.slotRewrite {c i} (h : s.memOk) : (State.slotRewrite s c i).memOk :=
  State.memOk.ite h.slotRestore h

theorem State.memOk.fireRstat {c e} (h : s.memOk) : (State.fireRstat s c e).memOk := by
  unfold State.fireRstat
  dsimp only
  split
  · exact h.modEntry.rstatRow
  · exact h.fault

theorem State.memOk.mergeOne {c e a b oa ob} (h : s.memOk) : (State.mergeOne s c e a b oa ob).1.memOk := by
  unfold State.mergeOne
  extract_lets x y bx bY pa pb r t
  have k : State.memOk y.st := h.bankRead.bankRead
  have ht : t.memOk := k.storeRun
  split
  · exact k
  · split
    · exact k
    · dsimp only
      exact ht.rsFlags

theorem State.memOk.fireRsmerge {c e} (h : s.memOk) : (State.fireRsmerge s c e).memOk := by
  unfold State.fireRsmerge
  dsimp only
  split
  · next pa pb _ _ _ =>
    have k : State.memOk ((List.range (getF e.op 15 1 + 1)).foldl (fun (acc : State × Bool) i =>
        if acc.2 then acc else acc.1.mergeOne c e pa pb (getF e.op 50 36 + i) (getF e.op 30 16 + i)) (s, false)).1 :=
      State.memOk.foldlFst h fun h => by
        split
        · exact h
        · exact h.mergeOne
    exact State.memOk.ite k.statBad k.heldExt.waitHeld
  · exact h.fault

theorem State.memOk.finOne {c e pl off eps} (h : s.memOk) : (State.finOne s c e pl off eps).1.memOk := by
  unfold State.finOne
  dsimp only
  split
  · exact h.bankRead
  · exact h.bankRead.storeRun.rsFlags

theorem State.memOk.fireRsfin {c e} (h : s.memOk) : (State.fireRsfin s c e).memOk := by
  unfold State.fireRsfin
  dsimp only
  split
  · next p _ _ =>
    have k : State.memOk ((List.range (getF e.op 35 21 + 1)).foldl (fun (acc : State × Bool) i =>
        if acc.2 then acc else acc.1.finOne c e p (getF e.op 50 36 + i) (getF e.op 15 0)) (s, false)).1 :=
      State.memOk.foldlFst h fun h => by
        split
        · exact h
        · exact h.finOne
    exact State.memOk.ite k.statBad k.heldExt.waitHeld
  · exact h.fault

theorem State.memOk.inFormat {r : Rd} {fmt ps} (h : State.memOk r.st) : (r.inFormat fmt ps).st.memOk := by
  unfold Rd.inFormat
  split <;> exact h

theorem State.memOk.readPiece {p} (h : s.memOk) : (State.readPiece s p).st.memOk := by
  unfold State.readPiece
  split
  · exact h.tierRead
  · exact h.bankRead

theorem State.memOk.readPieces {l} (h : s.memOk) : (State.readPieces s l).st.memOk := by
  induction l generalizing s with
  | nil => exact h
  | cons p l ih => exact ih h.readPiece

theorem State.memOk.bindOnly {c e spans} (h : s.memOk) : (State.bindOnly s c e spans).memOk :=
  h.modEntry.produce

theorem State.memOk.bindSpans {c e spans} (h : s.memOk) : (State.bindSpans s c e spans).memOk :=
  h.bindOnly.trafficAll

theorem State.memOk.scramblePieces {l} (h : s.memOk) : (State.scramblePieces s l).memOk :=
  h.scrambleAll

theorem State.memOk.fireCopy {c e} (h : s.memOk) : (State.fireCopy s c e).memOk := by
  unfold State.fireCopy
  dsimp only
  split
  · exact h.fault
  · split
    · exact h.flag.fault
    · split
      · exact h.bindSpans.readPieces.inFormat.scramblePieces.fault
      · exact ((State.memOk.ite h.bindSpans.readPieces.inFormat.flag.poisonIn h.bindSpans.readPieces.inFormat).modCl).setPhase

theorem State.memOk.copyTaken {cl} (h : s.memOk) : (State.copyTaken s cl).memOk := by
  unfold State.copyTaken
  split
  · exact h
  · exact State.memOk.ite h h.modCl.startCopies

theorem State.memOk.g24Start {cl} (h : s.memOk) : (State.g24Start s cl).memOk := by
  unfold State.g24Start
  split
  · exact State.memOk.ite h.runCopy.startCopies h
  · exact h

theorem State.memOk.strmBytes {c n} (h : s.memOk) : (State.strmBytes s c n).memOk :=
  h.pmc

theorem State.memOk.store {c uid ps bs} (h : s.memOk) : (State.store s c uid ps bs).1.memOk := by
  unfold State.store
  exact h.storePieces

theorem State.memOk.fireStream {c e load} (h : s.memOk) : (State.fireStream s c e load).memOk := by
  unfold State.fireStream
  dsimp only
  split
  · exact h.fault
  · split
    · exact h.bindSpans.strmBytes.readPieces.inFormat.scramblePieces.fault
    · split
      · exact (((State.memOk.ite h.bindSpans.strmBytes.readPieces.inFormat.flag.poisonIn h.bindSpans.strmBytes.readPieces.inFormat).store).scramblePieces).fault
      · exact ((State.memOk.ite h.bindSpans.strmBytes.readPieces.inFormat.flag.poisonIn h.bindSpans.strmBytes.readPieces.inFormat).store).waitHeld

theorem State.memOk.readList {x l} (h : s.memOk) : (State.readList s x l).1.memOk := by
  unfold State.readList
  split
  · exact h
  · extract_lets b mask a
    have k : State.memOk b.st := by
      unfold b
      split
      · exact h.bankRead
      · exact h
    have k : State.memOk a.st := k.bankReadFor
    exact k

theorem State.memOk.fireIndexed {c e gather bit f} (h : s.memOk) (hf : ∀ {u x l es}, State.memOk u → (f u x l es).memOk) :
    (State.fireIndexed s c e gather bit f).memOk := by
  unfold State.fireIndexed
  extract_lets x l
  split
  · exact h.fault
  · next rd near rd' far _ _ =>
    have k : State.memOk rd'.1 := State.memOk.ite h.readList.modEntry h.readList
    clear_value rd'
    split
    · exact State.memOk.ite k.scrambleAll.fault k.scrambleAll.fault
    · split
      · exact k.fault
      · exact hf k.bindSpans

theorem State.memOk.readBlock {c x k} (h : s.memOk) : (State.readBlock s c x k).st.memOk := by
  unfold State.readBlock
  dsimp only
  exact h.readPieces.inFormat

theorem State.memOk.rangeHits {c n} (h : s.memOk) : (State.rangeHits s c n).memOk :=
  State.memOk.ite h h.bumpBy.flag

theorem State.memOk.runGather {c e x l es} (h : s.memOk) : (State.runGather s c e x l es).memOk := by
  unfold State.runGather
  extract_lets act hit r
  have k : State.memOk r.1 := State.memOk.foldlFst h fun h => h.readBlock
  clear_value r
  split
  · exact k.scrambleAll.fault
  · next blocks t t' _ _ =>
    have k : t.memOk := State.memOk.ite k.flag.poisonIn k
    have k : State.memOk t' := k.rangeHits.strmBytes
    clear_value t'
    split
    · exact k
    · extract_lets w
      have k : State.memOk w.1 := State.memOk.foldlFst k fun h => h.storeRun.heldOf
      clear_value w
      split
      · exact k.scrambleAll.fault
      · exact k.waitHeld

theorem State.memOk.readDense {x l k i} (h : s.memOk) : (State.readDense s x l k i).st.memOk := by
  unfold State.readDense
  split
  · exact h
  · exact h.bankReadFor

theorem State.memOk.writeBlock {c uid x k block} (h : s.memOk) : (State.writeBlock s c uid x k block).1.memOk := by
  unfold State.writeBlock
  dsimp only
  exact h.storePieces

theorem State.memOk.scatterBad {c e x i addr} (h : s.memOk) : (State.scatterBad s c e x i addr).memOk :=
  h.scrambleAll.fault

theorem State.memOk.runScatter {c e x l es} (h : s.memOk) : (State.runScatter s c e x l es).memOk := by
  unfold State.runScatter
  dsimp only
  split
  · exact (State.memOk.foldlFst h (fun h => h.readDense.writeBlock.heldOf)).scatterBad
  · exact (((State.memOk.foldlFst h (fun h => h.readDense.writeBlock.heldOf)).rangeHits).strmBytes).waitHeld

theorem State.memOk.runScatterAdd {c e x l es} (h : s.memOk) : (State.runScatterAdd s c e x l es).memOk := by
  unfold State.runScatterAdd
  dsimp only
  split
  · exact (State.memOk.foldlFst h (fun h => ((State.memOk.foldlFst h.readBlock (fun h => h.readDense)).writeBlock).heldOf)).scatterBad
  · refine State.memOk.waitHeld ?_
    refine State.memOk.strmBytes ?_
    refine State.memOk.rangeHits ?_
    split
    · refine State.memOk.flag ?_
      split
      · exact ((State.memOk.foldlFst h (fun h => ((State.memOk.foldlFst h.readBlock (fun h => h.readDense)).writeBlock).heldOf)).flag).poisonIn
      · exact State.memOk.foldlFst h (fun h => ((State.memOk.foldlFst h.readBlock (fun h => h.readDense)).writeBlock).heldOf)
    · split
      · exact ((State.memOk.foldlFst h (fun h => ((State.memOk.foldlFst h.readBlock (fun h => h.readDense)).writeBlock).heldOf)).flag).poisonIn
      · exact State.memOk.foldlFst h (fun h => ((State.memOk.foldlFst h.readBlock (fun h => h.readDense)).writeBlock).heldOf)

theorem State.memOk.fireOwnset {c e} (h : s.memOk) : (State.fireOwnset s c e).memOk := by
  unfold State.fireOwnset
  dsimp only
  split
  · split
    · split
      · exact h.setRegF.setRegF.setPhase
      · exact h
    · exact h.fault
  · exact h.fault

theorem State.memOk.offNotice {x n} (h : s.memOk) : (State.offNotice s x n).memOk :=
  h.sideReset

theorem State.memOk.switchOffs (h : s.memOk) : (State.switchOffs s).memOk :=
  (h.foldl (fun h => h.offNotice)).same

theorem State.memOk.ownerChange {pool cl i} (h : s.memOk) : (State.ownerChange s pool cl i).memOk := by
  unfold State.ownerChange
  dsimp only
  split
  · exact h
  · exact State.memOk.ite (h.setRegF.setRegF.setRegF.switchOffs.foldl (fun h => h.foldl (fun h => State.memOk.ite h.setPhase h))) h

theorem State.memOk.wroteAt {id ix r} (h : s.memOk) (hr : ∀ {t}, r = some t → State.memOk t) : (State.wroteAt s id ix r).memOk := by
  unfold State.wroteAt
  split
  · exact h.accessErr
  · cases r with
    | none => exact h.accessErr
    | some t => exact hr rfl

theorem State.memOk.clearDone {pool cl i} (h : s.memOk) : (State.clearDone s pool cl i).memOk := by
  unfold State.clearDone
  extract_lets pl
  clear_value pl
  split
  · exact h
  · split
    · split
      · exact h.setRegF.setVat rfl
      · exact h.setRegF.setPool rfl
      · exact h.setRegF
    · exact h

theorem State.memOk.confArb {cl res arrivals withdrawn} (h : s.memOk) : (State.confArb s cl res arrivals withdrawn).memOk := by
  unfold State.confArb
  dsimp only
  split
  · exact h
  · split
    · exact h.modCl
    · exact State.memOk.ite h.modCl.setRegF.bump h.modCl.setRegF

theorem State.memOk.sluiceSlot {k n} (h : s.memOk) : (State.sluiceSlot s k n).memOk := by
  unfold State.sluiceSlot
  dsimp only
  split
  · exact State.memOk.ite h.same h.same.same
  · exact h.same

theorem State.memOk.scrub {slow ppn} (h : s.memOk) : (State.scrub s slow ppn).memOk :=
  State.memOk.ite h (h.wakeTier.settle h.wakeTier.serviceRead.frameTraffic)

theorem State.memOk.setLevel {st l} (h : s.memOk) : (State.setLevel s st l).memOk :=
  h.setRegF.setRegF.setRegF

theorem State.memOk.notePacing {st} (h : s.memOk) : (State.notePacing s st).memOk :=
  State.memOk.ite h.modStack.same (State.memOk.ite h.modStack.same h.modStack)

theorem State.memOk.heatReport {st temp} (h : s.memOk) : (State.heatReport s st temp).memOk := by
  unfold State.heatReport
  refine State.memOk.ite h ?_
  extract_lets th first l k t₁ rise cool t₂ t₃ t₄ t₅
  have k₂ : t₂.memOk := h.setRegF.setRegF.modStack
  have k₃ : t₃.memOk := State.memOk.ite k₂.setLevel (State.memOk.ite k₂.setLevel k₂)
  have k₄ : t₄.memOk := State.memOk.ite k₃.pmcDie k₃
  have k₅ : t₅.memOk := k₄.notePacing
  exact State.memOk.ite k₅.setRegF.record k₅

theorem State.memOk.heatFall {st} (h : s.memOk) : (State.heatFall s st).memOk :=
  State.memOk.ite h.modStack.setLevel.notePacing h

theorem State.memOk.paceNotice (h : s.memOk) : (State.paceNotice s).memOk :=
  State.memOk.ite (h.same.foldl (fun h => h.queueMsg)) h

theorem State.memOk.repairDone {st} (h : s.memOk) : (State.repairDone s st).memOk := by
  unfold State.repairDone
  split
  · exact h
  · have fixes : ∀ (l : List (Nat × GMark)) (b : Tier), cellsWf b.data = true → cellsWf (l.foldl (fun t m => t.fix m.1) b).data = true := by
      intro l
      induction l with
      | nil => exact fun _ hb => hb
      | cons x l ih => exact fun b hb => ih _ (cellsWf_fix hb _)
    exact (h.modStack.fast (fixes _ _ h.1)).bump.bump

theorem State.memOk.signalDetected {p} (h : s.memOk) : (State.signalDetected s p).memOk :=
  State.memOk.ite h.setLinkState.modPort h

theorem State.memOk.goNegotiate {p} (h : s.memOk) : (State.goNegotiate s p).memOk :=
  h.setLinkState.modPort

theorem State.memOk.sendWith {p seq ft credit payload} (h : s.memOk) : (State.sendWith s p seq ft credit payload).memOk :=
  State.memOk.ite (State.memOk.ite h.modPort.pmcDie h.modPort) ((State.memOk.ite h.modPort.pmcDie h.modPort).emit)

theorem State.memOk.resend {p} (h : s.memOk) : (State.resend s p).memOk :=
  h.foldl (fun h => h.sendWith)

theorem State.memOk.tryResume {p} (h : s.memOk) : (State.tryResume s p).memOk := by
  unfold State.tryResume
  dsimp only
  split
  · exact h
  · split
    · exact h.goDown
    · split
      · exact h
      · exact State.memOk.ite h h.setLinkState.setWidth.modPort.resend

theorem State.memOk.laneLock {p pairs} (h : s.memOk) : (State.laneLock s p pairs).memOk := by
  unfold State.laneLock
  dsimp only
  split
  · exact State.memOk.ite h.modPort.goNegotiate h.modPort
  · exact h.modPort.tryResume
  · exact h

theorem State.memOk.laneLockLoss {p l} (h : s.memOk) : (State.laneLockLoss s p l).memOk :=
  State.memOk.ite h (State.memOk.ite h.setRegF.modPort h.setRegF.goRetrain)

theorem State.memOk.laneErrorLimit {p l} (h : s.memOk) : (State.laneErrorLimit s p l).memOk :=
  State.memOk.ite h (State.memOk.ite h.setRegF.modPort.goRetrain h.setRegF.modPort)

theorem State.memOk.trainTimeout {p} (h : s.memOk) : (State.trainTimeout s p).memOk :=
  State.memOk.ite (State.memOk.ite h.goNegotiate h.goDown) h

theorem State.memOk.negotiateTimeout {p} (h : s.memOk) : (State.negotiateTimeout s p).memOk :=
  State.memOk.ite h.goDown h

theorem State.memOk.retrainTimeout {p} (h : s.memOk) : (State.retrainTimeout s p).memOk :=
  State.memOk.ite h.goDown h

theorem State.memOk.portPowerOff {p} (h : s.memOk) : (State.portPowerOff s p).memOk :=
  h.goOff.offNotice.modPort

theorem State.memOk.sendFlit {p seq ft payload} (h : s.memOk) : (State.sendFlit s p seq ft payload).memOk :=
  h.modPort.sendWith

theorem State.memOk.goUp {p version pairs o} (h : s.memOk) : (State.goUp s p version pairs o).memOk := by
  unfold State.goUp
  exact h.setLinkState.setWidth.setReg.setReg.modPort

theorem State.memOk.finishNegotiate {p o} (h : s.memOk) : (State.finishNegotiate s p o).memOk :=
  State.memOk.ite h.goDown (State.memOk.ite h.goDown h.goUp)

theorem State.memOk.trainSend {p} (h : s.memOk) : (State.trainSend s p).memOk := by
  unfold State.trainSend
  dsimp only
  split
  · split
    · exact h.sendFlit
    · exact State.memOk.ite (State.memOk.ite h.sendFlit.finishNegotiate h.sendFlit.modPort) h.sendFlit
  · exact h

theorem State.memOk.credited {u} (h : s.memOk) : (State.credited s u).memOk := by
  unfold State.credited
  dsimp only
  split
  · exact h
  · exact h
  · exact State.memOk.ite h.same.setPhase h.same
  · exact h.same

theorem State.memOk.payInflight {fuel cls n l} (h : s.memOk) : (State.payInflight fuel cls n s l).1.memOk := by
  induction fuel generalizing s n l with
  | zero => exact h
  | succ fuel ih =>
    cases l with
    | nil => exact h
    | cons x l =>
      unfold State.payInflight
      split
      · exact ih h
      · split
        · exact ih h.credited
        · exact h

theorem State.memOk.applyAcks {p f} (h : s.memOk) : (State.applyAcks s p f).memOk :=
  State.memOk.ite h.modPort h.modPort.payInflight.modPort

theorem State.memOk.trainReceive {p fecOk f} (h : s.memOk) : (State.trainReceive s p fecOk f).memOk := by
  unfold State.trainReceive
  refine State.memOk.ite ?_ h
  split
  · exact State.memOk.ite h.modPort h
  · exact State.memOk.ite h.goRetrain.applyAcks h.goDown
  · exact State.memOk.ite h.applyAcks.modPort.tryResume h.goDown
  · exact h

theorem State.memOk.applyFields {p f} (h : s.memOk) : (State.applyFields s p f).memOk :=
  State.memOk.ite (State.memOk.ite h.applyAcks.bump.pmcDie.modPort.goRetrain h.applyAcks.bump.pmcDie.modPort.resend) h.applyAcks

theorem State.memOk.arrive {p m} (h : s.memOk) : (State.arrive s p m).memOk :=
  State.memOk.ite h.unroutable.owe (State.memOk.ite h.unroutable.owe (State.memOk.ite h.modPort (State.memOk.ite h.unroutable.owe h.same)))

theorem State.memOk.takeMsgs {fuel p bs} (h : s.memOk) : (State.takeMsgs fuel s p bs).1.memOk := by
  induction fuel generalizing s bs with
  | zero => exact h
  | succ fuel ih =>
    unfold State.takeMsgs
    split
    · exact h
    · split
      · exact h
      · split
        · exact h
        · dsimp only
          split
          · exact h
          · exact ih (State.memOk.ite h.arrive h.bump.owe)

theorem State.memOk.ackTimer {p} (h : s.memOk) : (State.ackTimer s p).memOk :=
  State.memOk.ite h.sendFlit h

theorem State.memOk.ackDue {p} (h : s.memOk) : (State.ackDue s p).memOk :=
  State.memOk.ite h.ackTimer h

theorem State.memOk.dataReceive {p fecOk f} (h : s.memOk) : (State.dataReceive s p fecOk f).memOk := by
  unfold State.dataReceive
  dsimp only
  split
  · exact State.memOk.ite h.bump h
  · exact State.memOk.ite h.bump.modPort (State.memOk.ite h.bump (State.memOk.ite h (State.memOk.ite h.modPort h.modPort.applyFields.takeMsgs.modPort.ackDue)))

theorem State.memOk.idleReceive {p fecOk f} (h : s.memOk) : (State.idleReceive s p fecOk f).memOk :=
  State.memOk.ite h.applyFields h

theorem State.memOk.ackTimeout {p} (h : s.memOk) : (State.ackTimeout s p).memOk :=
  State.memOk.ite h.goRetrain h

theorem State.memOk.noteSent {u} (h : s.memOk) : (State.noteSent s u).memOk := by
  unfold State.noteSent
  dsimp only
  split
  · exact h.modCl.pmcDie
  · exact h.modCl.pmcDie
  · exact h

theorem State.memOk.sendOn {p w} (h : s.memOk) : (State.sendOn s p w).memOk := by
  unfold State.sendOn
  dsimp only
  split
  · exact ((h.foldl (fun h => h.sendFlit.modPort)).modPort).owe
  · exact ((h.foldl (fun h => h.sendFlit.modPort)).modPort).noteSent

theorem State.memOk.messageSend {i} (h : s.memOk) : (State.messageSend s i).memOk := by
  unfold State.messageSend
  dsimp only
  split
  · exact h
  · split
    · exact State.memOk.ite h.same.sendOn h
    · exact State.memOk.ite h (State.memOk.ite h.same.dropTransit h.same.unroutable)

theorem State.memOk.healthSend {p} (h : s.memOk) : (State.healthSend s p).memOk :=
  State.memOk.ite h.queueMsg h

theorem State.memOk.takeInbox {p want r} (h : s.memOk) (e : State.takeInbox s p want = some r) : State.memOk r.2 := by
  unfold State.takeInbox at e
  split at e
  · cases e
  · split at e <;> cases e
    exact h.modPort.owe

theorem State.memOk.healthReceive {p} (h : s.memOk) : (State.healthReceive s p).memOk := by
  unfold State.healthReceive
  split
  · exact h
  · next _ u e =>
    have k : u.memOk := h.takeInbox e
    exact State.memOk.ite k k.modPort.goRetrain

theorem State.memOk.paceReceive {p} (h : s.memOk) : (State.paceReceive s p).memOk := by
  unfold State.paceReceive
  dsimp only
  split
  · exact h
  · exact ((((h.takeInbox ‹_›)).setRegF).setRegF).setRegF

theorem State.memOk.paceExpiry {p} (h : s.memOk) : (State.paceExpiry s p).memOk :=
  h.setRegF.setRegF

theorem State.memOk.addNode {cl x n} (h : s.memOk) : (State.addNode s cl x n).memOk :=
  h.modCl

theorem State.memOk.modInst {cl i kind f} (h : s.memOk) : (State.modInst s cl i kind f).memOk :=
  h.modCl

theorem State.memOk.modNode {cl i kind shard f} (h : s.memOk) : (State.modNode s cl i kind shard f).memOk :=
  h.modInst

theorem State.memOk.pushDue {cl i mtype cls phase dst data u tier} (h : s.memOk) : (State.pushDue s cl i mtype cls phase dst data u tier).memOk := by
  unfold State.pushDue
  dsimp only
  split
  · exact h
  · split
    · exact h
    · exact h.modCl

theorem State.memOk.pushData {cl i fmt phase src dst off vs tier} (h : s.memOk) : (State.pushData s cl i fmt phase src dst off vs tier).memOk :=
  h.foldl (fun h => h.pushDue)

theorem State.memOk.exchange {cl i tr shard e vs tier} (h : s.memOk) : (State.exchange s cl i tr shard e vs tier).memOk :=
  h.foldl (fun h => by
  split
  · exact h.modNode
  · split
    · exact h.pushData
    · split
      · exact h
      · exact h.modNode.modNode)

theorem State.memOk.fireColl {c e stat} (h : s.memOk) : (State.fireColl s c e stat).memOk := by
  unfold State.fireColl
  dsimp only
  split
  · exact h
  · split
    · exact h
    · split
      · exact h.fault
      · split
        · exact h.bindSpans.readPieces.inFormat.scramblePieces.fault
        · split
          · exact h.bindSpans.readPieces.inFormat
          · split
            · exact h.bindSpans.readPieces.inFormat.setPhase.releaseLoad.addNode.exchange
            · exact h.bindSpans.readPieces.inFormat.setPhase.releaseLoad.addNode

theorem State.memOk.shufOwes {cl i shard n} (h : s.memOk) : (State.shufOwes s cl i shard n).memOk :=
  h.modNode

theorem State.memOk.progress {cl i kind} (h : s.memOk) : (State.progress s cl i kind).memOk :=
  h.modInst

theorem State.memOk.shufPut {i dst pos off units bs} (h : s.memOk) : (State.shufPut s i dst pos off units bs).memOk := by
  unfold State.shufPut
  dsimp only
  split
  · exact h
  · split
    · exact h.storeSpans.modNode.progress.scrambleAll.fault
    · exact h.storeSpans.modNode.progress

theorem State.memOk.shufLocal {cl i shard dst pos units bs late} (h : s.memOk) : (State.shufLocal s cl i shard dst pos units bs late).memOk :=
  State.memOk.ite h.shufOwes (State.memOk.ite h.shufPut.modNode h.shufPut)

theorem State.memOk.shufSend {cl i seed x shards n only} (h : s.memOk) : (State.shufSend s cl i seed x shards n only).memOk :=
  h.foldl (fun h => by
  split
  · exact State.memOk.ite h.shufLocal h
  · exact State.memOk.ite (h.foldl (fun h => h.shufOwes.pushDue)) h.shufLocal)

theorem State.memOk.fireShuf {c e} (h : s.memOk) : (State.fireShuf s c e).memOk := by
  unfold State.fireShuf
  dsimp only
  split
  · split
    · exact h.fault
    · split
      · exact h.bindSpans.readPieces.scramblePieces.fault
      · exact State.memOk.ite h.bindSpans.readPieces (h.bindSpans.readPieces.setPhase.releaseLoad.addNode.shufSend.foldl (fun h => h.shufSend))
  · exact h

theorem State.memOk.collReceive {p} (h : s.memOk) : (State.collReceive s p).memOk := by
  unfold State.collReceive
  dsimp only
  split
  · exact h
  · split
    · exact ((h.takeInbox ‹_›)).bump
    · split
      · exact (h.takeInbox ‹_›)
      · split
        · exact (((h.takeInbox ‹_›)).modInst).shufPut
        · exact State.memOk.ite ((((h.takeInbox ‹_›)).modInst).modNode) ((((h.takeInbox ‹_›)).modInst).modNode)

theorem State.memOk.admitReserve {p xs t} (h : s.memOk) (e : State.admitReserve s p xs = some t) : t.memOk := by
  unfold State.admitReserve at e
  dsimp only at e
  split at e
  · split at e <;> cases e
    exact h.predict.same.setAcct
  · cases e

theorem State.memOk.floorReserve {p xs} (h : s.memOk) : (State.floorReserve s p xs).memOk :=
  h.predict.setAcct

theorem State.memOk.chargeReserve {p xs} (h : s.memOk) : (State.chargeReserve s p xs).memOk := by
  unfold State.chargeReserve
  dsimp only
  split
  · exact (h.admitReserve ‹_›)
  · exact h.same.floorReserve.pmcDie

theorem State.memOk.pushStatus {cl i phase src dst w step} (h : s.memOk) : (State.pushStatus s cl i phase src dst w step).memOk :=
  h.pushDue

theorem State.memOk.sendUp {cl x tr n vs w} (h : s.memOk) : (State.sendUp s cl x tr n vs w).memOk := by
  unfold State.sendUp
  dsimp only
  split
  · exact h.modNode.modNode
  · split
    · exact h.modNode.pushData.pushStatus
    · split
      · exact h.modNode
      · exact h.modNode.modNode.progress

theorem State.memOk.nodeCombine {cl i shard} (h : s.memOk) : (State.nodeCombine s cl i shard).memOk := by
  unfold State.nodeCombine
  dsimp only
  split
  · exact h
  · split
    · exact State.memOk.ite ((State.memOk.ite h.chargeReserve.poisonStep h.chargeReserve).sendUp) h
    · exact h

theorem State.memOk.dropNode {cl x n} (h : s.memOk) : (State.dropNode s cl x n).memOk := by
  unfold State.dropNode
  exact h.modCl

theorem State.memOk.sendDown {cl x tr n w} (h : s.memOk) : (State.sendDown s cl x tr n w).memOk :=
  h.foldl (fun h => by
  split
  · exact h.pushData.pushStatus
  · split
    · exact h
    · exact h.modNode.progress)

theorem State.memOk.completeNode {cl x tr n w} (h : s.memOk) : (State.completeNode s cl x tr n w).memOk := by
  unfold State.completeNode
  dsimp only
  split
  · exact h.sendDown.dropNode.storeSpans.scrambleAll.fault
  · exact h.sendDown.dropNode.storeSpans.setPhase.waitHeld

theorem State.memOk.collComplete {cl i shard} (h : s.memOk) : (State.collComplete s cl i shard).memOk := by
  unfold State.collComplete
  split
  · exact h
  · split
    · exact h.dropNode.setPhase.waitHeld
    · split
      · exact h.completeNode
      · exact h

theorem State.memOk.endInst {cl x} (h : s.memOk) : (State.endInst s cl x).memOk := by
  unfold State.endInst
  dsimp only
  split
  · exact (h.modCl.foldl (fun h => h.scrambleAll)).fault
  · exact h.modCl.foldl (fun h => h.scrambleAll)

theorem State.memOk.collExpiry {cl i} (h : s.memOk) : (State.collExpiry s cl i).memOk := by
  unfold State.collExpiry
  split
  · exact h
  · exact h.bump.endInst

theorem State.memOk.pausePeer {n} (h : s.memOk) : (State.pausePeer s n).memOk := by
  unfold State.pausePeer
  dsimp only
  split
  · exact State.memOk.ite h.usedFresh h.usedFresh.same.emit
  · exact h

theorem State.memOk.ethDrop {n} (h : s.memOk) : (State.ethDrop s n).memOk :=
  h.bump

theorem State.memOk.badFrame (h : s.memOk) : (State.badFrame s).memOk :=
  h.bump

theorem State.memOk.modSess {sid f} (h : s.memOk) : (State.modSess s sid f).memOk :=
  h.same

theorem State.memOk.useAck {sid port ack} (h : s.memOk) : (State.useAck s sid port ack).memOk := by
  unfold State.useAck
  dsimp only
  split
  · exact h
  · exact State.memOk.ite h.modSess.modSess.emitAll h.modSess

theorem State.memOk.duplicate {x seq} (h : s.memOk) : (State.duplicate s x seq).memOk := by
  unfold State.duplicate
  split
  · exact h.emit
  · exact h.emit

theorem State.memOk.shadowsMove {c} (h : s.memOk) : (State.shadowsMove s c).memOk :=
  State.memOk.ite h.modCore.usedFresh h

theorem State.memOk.beforeRead {id ix} (h : s.memOk) : (State.beforeRead s id ix).memOk := by
  unfold State.beforeRead
  split
  · exact h.rampMove
  · exact h.shadowsMove
  · exact h

theorem State.memOk.clearRc {id ix} (h : s.memOk) : (State.clearRc s id ix).memOk :=
  State.memOk.ite h h.setReg

theorem State.memOk.readDone {id ix} (h : s.memOk) : (State.readDone s id ix).memOk := by
  unfold State.readDone
  split
  · exact h.modXing
  · exact h.clearRc

theorem State.memOk.mrsRead {addr r} (h : s.memOk) (e : State.mrsRead s addr = some r) : State.memOk r.2 := by
  unfold State.mrsRead at e
  split at e
  · cases e
  · split at e
    · cases e
    · split at e <;> cases e
      exact h.beforeRead.readDone

theorem State.memOk.cmdRegRead {sid seq a} (h : s.memOk) : (State.cmdRegRead s sid seq a).memOk := by
  unfold State.cmdRegRead
  split
  · exact h.accessErr.reply
  · exact ((h.mrsRead ‹_›)).reply

theorem State.memOk.cmdRegMulti {sid seq l} (h : s.memOk) : (State.cmdRegMulti s sid seq l).memOk := by
  refine State.memOk.ite h.reply (State.memOk.ite (h.foldl fun h => h.accessErr).reply (State.memOk.foldlFst h fun h => ?_).reply)
  split
  · exact h
  · next e => exact h.mrsRead e

theorem State.memOk.cmdRegWrite {sid seq a v} (h : s.memOk) : (State.cmdRegWrite s sid seq a v).memOk := by
  unfold State.cmdRegWrite
  split
  · exact h.accessErr.reply
  · exact ((h.mrsWrite ‹_›)).reply

theorem State.memOk.qpConnect {sid seq port mtu qpn psn ip} (h : s.memOk) : (State.qpConnect s sid seq port mtu qpn psn ip).memOk := by
  unfold State.qpConnect
  dsimp only
  split
  · exact h.reply
  · split
    · exact State.memOk.ite h.reply h.usedFresh.same.reply
    · exact h.reply

theorem State.memOk.qpsFail {bad} (h : s.memOk) : (State.qpsFail s bad).memOk :=
  (h.same.foldl (fun h => h.ferryAbort)).foldl (fun h => h.savesFailed)

theorem State.memOk.qpsClose {bad} (h : s.memOk) : (State.qpsClose s bad).memOk :=
  h.qpsFail.same

theorem State.memOk.qpClose {sid seq qpn} (h : s.memOk) : (State.qpClose s sid seq qpn).memOk :=
  State.memOk.ite h.qpsClose.reply h.reply

theorem State.memOk.imageLoad {sid seq off len mode} (h : s.memOk) : (State.imageLoad s sid seq off len mode).memOk :=
  State.memOk.ite h.reply (State.memOk.ite h.reply h.setRegF.setRegF.same)

theorem State.memOk.newId (h : s.memOk) : (State.newId s).2.memOk := h.same

theorem State.memOk.addRegion {sid part va len access} (h : s.memOk) : (State.addRegion s sid part va len access).2.memOk :=
  h.newId.same

theorem State.memOk.stageOpen {sid seq access} (h : s.memOk) : (State.stageOpen s sid seq access).memOk :=
  State.memOk.ite h.reply h.addRegion.reply

theorem State.memOk.jobModule {sid seq m valid} (h : s.memOk) : (State.jobModule s sid seq m valid).memOk :=
  State.memOk.ite h.setReg.reply h.reply

theorem State.memOk.jobMap {sid seq part policy gen shards first count es} (h : s.memOk)
    : (State.jobMap s sid seq part policy gen shards first count es).memOk :=
  State.memOk.ite h.reply (State.memOk.ite h.reply h.same.reply)

theorem State.memOk.flagFeeds {m} (h : s.memOk) : (State.flagFeeds s m).memOk :=
  h.setRegF.foldl (fun h => h.record)

theorem State.memOk.setRoles (h : s.memOk) : (State.setRoles s).memOk :=
  h.setRegF.same

theorem State.memOk.setJobState {n} (h : s.memOk) : (State.setJobState s n).memOk :=
  h.setRegF

theorem State.memOk.setCommitM {v} (h : s.memOk) : (State.setCommitM s v).memOk :=
  h.setRegF.same

theorem State.memOk.setCommitC {v} (h : s.memOk) : (State.setCommitC s v).memOk :=
  State.memOk.ite h h.setRegF.same

theorem State.memOk.gatherCommits (h : s.memOk) : (State.gatherCommits s).memOk := by
  unfold State.gatherCommits
  extract_lets keeps ms own u stores cs
  have k : u.memOk := by
    clear cs stores
    unfold u
    split
    · exact h
    · exact State.memOk.ite h.setCommitM h
  clear_value cs
  split
  · exact k
  · exact State.memOk.ite k k.setCommitC

theorem State.memOk.sendBeats (h : s.memOk) : (State.sendBeats s).memOk :=
  h.same.foldl (fun h => h.sendRoute)

theorem State.memOk.peerLoss {lost} (h : s.memOk) : (State.peerLoss s lost).memOk :=
  h.foldl (fun h => h.bump.endInst)

theorem State.memOk.haltJob (h : s.memOk) : (State.haltJob s).memOk :=
  (h.foldl (fun h => h.haltOne)).peerFaults

theorem State.memOk.failJob (h : s.memOk) : (State.failJob s).memOk :=
  h.haltJob.same.setJobState.record

theorem State.memOk.declared {gen lost} (h : s.memOk) : (State.declared s gen lost).memOk := by
  unfold State.declared
  dsimp only
  split
  · exact State.memOk.ite h.bumpBy.same.dropResets.peerLoss h.bumpBy.same.dropResets.peerLoss.failJob
  · exact State.memOk.ite h.bumpBy.same.dropResets.peerLoss h.bumpBy.same.dropResets.peerLoss.haltJob.setJobState.record

theorem State.memOk.declare {new} (h : s.memOk) : (State.declare s new).memOk :=
  h.declared.sendBeats

theorem State.memOk.startLoad {p shard m n} (h : s.memOk) : (State.startLoad s p shard m n).memOk := by
  unfold State.startLoad
  dsimp only
  split
  · exact h.same.foldl (fun h => h.sendRoute)
  · split
    · exact h.same.foldl (fun h => h.sendRoute)
    · split
      · split
        · exact h.same
        · exact h.same.foldl (fun h => h.qpOut)
      · exact h.same

theorem State.memOk.startRestore {n layer} (h : s.memOk) : (State.startRestore s n layer).memOk :=
  State.memOk.ite ((h.same.setJobState.foldl (fun h => h.startLoad)).setJobState) (h.same.setJobState.foldl (fun h => h.startLoad))

theorem State.memOk.resumeAt {n layer} (h : s.memOk) : (State.resumeAt s n layer).memOk :=
  State.memOk.ite h.setJobState.record h.same.startRestore.sendBeats

theorem State.memOk.goReset (h : s.memOk) : (State.goReset s).memOk := by
  unfold State.goReset
  dsimp only
  split
  · exact h
  · exact (((State.memOk.ite h.bump.setRegF.bump (State.memOk.ite h.bump.setRegF.bump h.bump.setRegF)).same).setJobState).same

theorem State.memOk.coordinate (h : s.memOk) : (State.coordinate s).memOk := by
  unfold State.coordinate
  dsimp only
  split
  · exact h
  · split
    · exact State.memOk.ite h.gatherCommits.declare h.gatherCommits
    · split
      · split
        · split
          · exact h.gatherCommits.resumeAt
          · exact h.gatherCommits.resumeAt
          · exact State.memOk.ite h.gatherCommits h.gatherCommits.same.sendBeats
        · exact h.gatherCommits.same.record
      · exact State.memOk.ite h.gatherCommits.same.sendBeats.goReset h.gatherCommits

theorem State.memOk.commitMap {p gen} (h : s.memOk) : (State.commitMap s p gen).memOk := by
  unfold State.commitMap
  extract_lets k out first later newest from' _ t₁ n _ _ t₂ t₃ t₄ t₅ st whole _ t₆
  have k₁ : t₁.memOk := h.same
  have k₂ : t₂.memOk := State.memOk.ite k₁.setRegF.same k₁
  have k₅ : t₅.memOk := k₂.setRegF.setRegF.setRegF.flagFeeds.setRoles
  have k₆ : t₆.memOk := State.memOk.ite k₅.setJobState (State.memOk.ite k₅.setJobState (State.memOk.ite k₅.same k₅))
  exact k₆.coordinate

theorem State.memOk.jobCommit {sid seq part gen} (h : s.memOk) : (State.jobCommit s sid seq part gen).memOk := by
  unfold State.jobCommit
  split
  · exact h.reply
  · split
    · exact h.commitMap.reply
    · exact h.reply

theorem State.memOk.jobStore {sid seq part qpn rkey base stride} (h : s.memOk) : (State.jobStore s sid seq part qpn rkey base stride).memOk :=
  State.memOk.ite h.reply (State.memOk.ite h.reply h.modPart.reply)

theorem State.memOk.jobResume {sid seq step layer} (h : s.memOk) : (State.jobResume s sid seq step layer).memOk :=
  State.memOk.ite h.reply (State.memOk.ite h.startRestore.reply (State.memOk.ite h.same.coordinate.reply h.reply))

theorem State.memOk.jobRead {sid seq} (h : s.memOk) : (State.jobRead s sid seq).memOk :=
  h.reply

theorem State.memOk.haltPart {p index} (h : s.memOk) : (State.haltPart s p index).memOk :=
  State.memOk.ite h.haltOne.peerFaults h

theorem State.memOk.partHalt {sid seq p} (h : s.memOk) : (State.partHalt s sid seq p).memOk :=
  State.memOk.ite h.reply (State.memOk.ite h.reply (State.memOk.ite h.haltPart.modPart h.haltPart.reply))

theorem State.memOk.partReset {sid seq p} (h : s.memOk) : (State.partReset s sid seq p).memOk :=
  State.memOk.ite h.reply (State.memOk.ite h.reply (State.memOk.ite h.reply h.haltPart.closeRegions.same))

theorem State.memOk.gatePost {sid seq p gate value} (h : s.memOk) : (State.gatePost s sid seq p gate value).memOk :=
  State.memOk.ite h.reply (State.memOk.ite h.reply h.same)

theorem State.memOk.regionOpen {sid seq p va len access} (h : s.memOk) : (State.regionOpen s sid seq p va len access).memOk := by
  unfold State.regionOpen
  refine State.memOk.ite h.reply (State.memOk.ite h.reply (State.memOk.ite h.reply ?_))
  split
  · exact h.reply
  · exact State.memOk.ite h.reply h.addRegion.reply

theorem State.memOk.regionClose {sid seq p rkey} (h : s.memOk) : (State.regionClose s sid seq p rkey).memOk :=
  State.memOk.ite h.same.reply h.reply

theorem State.memOk.counterRead {sid seq p items} (h : s.memOk) : (State.counterRead s sid seq p items).memOk := by
  unfold State.counterRead
  dsimp only
  split
  · exact h.reply
  · exact State.memOk.ite h.reply (State.memOk.ite ((h.foldl (fun h => h.accessErr)).reply) ((State.memOk.foldlFst h (fun h => h.readDone)).reply))

theorem State.memOk.meterRead {sid seq} (h : s.memOk) : (State.meterRead s sid seq).memOk :=
  h.reply

theorem State.memOk.meterRecordRead {sid seq n off} (h : s.memOk) : (State.meterRecordRead s sid seq n off).memOk := by
  unfold State.meterRecordRead
  dsimp only
  split
  · exact h.reply
  · exact State.memOk.ite h.reply h.reply

theorem State.memOk.meterCertRead {sid seq off} (h : s.memOk) : (State.meterCertRead s sid seq off).memOk :=
  State.memOk.ite h.reply h.reply

theorem State.memOk.runCmd {sid seq c} (h : s.memOk) : (State.runCmd s sid seq c).memOk := by
  unfold State.runCmd
  dsimp only
  split
  · split
    · exact State.memOk.ite h.cmdRegRead h.reply
    · exact State.memOk.ite (State.memOk.ite h.cmdRegMulti h.reply) h.reply
    · exact h.reply
  · split
    · exact h.reply
    · exact State.memOk.ite h.cmdRegRead h.reply
    · exact State.memOk.ite h.cmdRegWrite h.reply
    · exact State.memOk.ite (State.memOk.ite h.cmdRegMulti h.reply) h.reply
    · exact h.qpConnect
    · exact h.qpClose
    · exact h.imageLoad
    · exact h.stageOpen
    · exact h.jobModule
    · exact h.jobMap
    · exact h.jobCommit
    · exact h.jobStore
    · exact h.jobResume
    · exact h.jobRead
    · exact h.partHalt
    · exact h.partReset
    · exact h.gatePost
    · exact h.regionOpen
    · exact h.regionClose
    · exact h.counterRead
    · exact h.meterRead
    · exact h.meterRecordRead
    · exact h.meterCertRead
    · exact h.reply
    · exact h.reply
    · exact h.reply

theorem State.memOk.serve {fuel} (h : s.memOk) : (State.serve fuel s).memOk := by
  induction fuel generalizing s with
  | zero => exact h
  | succ fuel ih =>
    unfold State.serve
    split
    · exact h
    · exact ih h.modSess.runCmd

theorem State.memOk.allServed (h : s.memOk) : (State.allServed s).memOk :=
  h.serve

theorem State.memOk.acceptHeld {fuel sid} (h : s.memOk) : (State.acceptHeld fuel s sid).memOk := by
  induction fuel generalizing s with
  | zero => exact h
  | succ fuel ih =>
    unfold State.acceptHeld
    split
    · exact h
    · split
      · exact h
      · exact ih h.modSess.allServed

theorem State.memOk.command {h' c} (h : s.memOk) : (State.command s h' c).memOk := by
  unfold State.command
  dsimp only
  split
  · split
    · exact h.badFrame
    · split
      · exact h.useAck
      · split
        · exact h.useAck.duplicate
        · split
          · exact h.useAck
          · split
            · exact (State.memOk.ite h.useAck h.useAck.modSess).acceptHeld
            · exact ((State.memOk.ite h.useAck h.useAck.modSess).acceptHeld).emit
  · exact h

theorem State.memOk.sessionAck {h'} (h : s.memOk) : (State.sessionAck s h').memOk := by
  unfold State.sessionAck
  split
  · split
    · exact h.badFrame
    · exact h.useAck
  · exact h

theorem State.memOk.openReply {n ip sid version status nonce} (h : s.memOk) : (State.openReply s n ip sid version status nonce).memOk :=
  h.emit

theorem State.memOk.sendHeld {sid} (h : s.memOk) : (State.sendHeld s sid).memOk :=
  h.same.setRegF.foldl (fun h => by
  split
  · exact h
  · exact h.modSess.emitAll)

theorem State.memOk.sessionOpen {n ip vmask nonce} (h : s.memOk) : (State.sessionOpen s n ip vmask nonce).memOk :=
  State.memOk.ite (State.memOk.ite h.openReply (State.memOk.ite h.openReply h.newId.same.openReply.sendHeld)) h

theorem State.memOk.endSession {sid} (h : s.memOk) : (State.endSession s sid).memOk :=
  h.same.qpsClose

theorem State.memOk.sessionClose {h'} (h : s.memOk) : (State.sessionClose s h').memOk := by
  unfold State.sessionClose
  split
  · split
    · exact h.badFrame
    · exact h.endSession
  · exact h

theorem State.memOk.ctlFrame {n peer f} (h : s.memOk) : (State.ctlFrame s n peer f).memOk := by
  unfold State.ctlFrame
  dsimp only
  split
  · exact h.badFrame
  · exact State.memOk.ite h.command (State.memOk.ite h.sessionAck (State.memOk.ite (State.memOk.ite h.sessionOpen h.badFrame)
    (State.memOk.ite h.sessionClose h.badFrame)))

theorem State.memOk.roce {n qpn f} (h : s.memOk) (hf : ∀ {k}, (f k).memOk) : (State.roce s n qpn f).memOk := by
  unfold State.roce
  split
  · dsimp only
    split
    · exact h.ethDrop
    · exact hf
  · exact h

theorem State.memOk.saveOut {qpn w} (h : s.memOk) : (State.saveOut s qpn w).memOk :=
  State.memOk.ite h h.qpOut

theorem State.memOk.storeAcked {v} (h : s.memOk) : (State.storeAcked s v).memOk := by
  unfold State.storeAcked
  dsimp only
  split
  · exact h
  · exact State.memOk.ite h.saveDone (State.memOk.ite h.modPart.saveOut.same h.modPart.saveDone)

theorem State.memOk.savesAcked {qpn n} (h : s.memOk) : (State.savesAcked s qpn n).memOk :=
  h.foldl (fun h => h.storeAcked)

theorem State.memOk.setPaused {k mask} (h : s.memOk) : (State.setPaused s k mask).memOk :=
  h.same.same.emitAll

theorem State.memOk.ethBody {n f} (h : s.memOk) : (State.ethBody s n f).memOk := by
  have drop : (if n.val = 0 then s else s.ethDrop (n.val - 1)).memOk := State.memOk.ite h h.ethDrop
  induction f with
  | doubleTagged => exact drop
  | tagged => exact drop
  | oversize => exact drop
  | unsupportedIp => exact drop
  | query ip => exact State.memOk.ite h.emit h
  | addressed dst g ih => exact State.memOk.ite ih h
  | udp peer dport payload => exact State.memOk.ite h.ctlFrame drop
  | roceOther qpn => exact h.roce h.roceOut
  | roceEcn qpn => exact h.roce h.roceOut
  | roceCnp qpn => exact h.roce h.same
  | roceAck qpn k => exact h.roce h.savesAcked
  | roceNak qpn => exact h.roce h.qpsFail
  | pfc prios => exact State.memOk.ite h h.setPaused
  | fecUncorrectable => exact State.memOk.ite h h.bump

theorem State.memOk.ethFrame {n f} (h : s.memOk) : (State.ethFrame s n f).memOk := by
  unfold State.ethFrame
  split
  · exact h
  · split
    · exact State.memOk.ite (State.memOk.ite h h.ethDrop) h.ethBody
    · exact h.ethBody

theorem State.memOk.nakAccess {n qpn} (h : s.memOk) : (State.nakAccess s n qpn).memOk :=
  h.roceOut.qpsFail

theorem State.memOk.hostStore {ps data} (h : s.memOk) : (State.hostStore s ps data).1.memOk := by
  unfold State.hostStore
  dsimp only
  exact State.memOk.foldlFst h (fun h => h.writePlace)

theorem State.memOk.rdmaErr {ps va} (h : s.memOk) : (State.rdmaErr s ps va).memOk := by
  unfold State.rdmaErr
  split
  · exact h
  · split
    · exact h.memErr
    · exact h

theorem State.memOk.rdmaWrite {n qpn rkey va data} (h : s.memOk) : (State.rdmaWrite s n qpn rkey va data).memOk := by
  unfold State.rdmaWrite
  dsimp only
  split
  · exact h
  · split
    · exact h.ethDrop
    · split
      · exact h.nakAccess
      · split
        · exact h.trafficAll.hostStore.roceOut
        · exact h.trafficAll.hostStore.rdmaErr.roceOut

theorem State.memOk.rdmaRead {n qpn rkey va len} (h : s.memOk) : (State.rdmaRead s n qpn rkey va len).memOk := by
  unfold State.rdmaRead
  dsimp only
  split
  · exact h
  · split
    · exact h.ethDrop
    · split
      · exact h.nakAccess
      · split
        · exact h.trafficAll.readPieces.roceOut
        · exact ((State.memOk.ite h.trafficAll.readPieces h.trafficAll.readPieces.roceOut).rdmaErr).roceOut

theorem State.memOk.dropSession {sid} (h : s.memOk) : (State.dropSession s sid).memOk := by
  unfold State.dropSession
  split
  · exact h
  · exact h.endSession.bump.emit

theorem State.memOk.resendTimer {sid} (h : s.memOk) : (State.resendTimer s sid).memOk := by
  unfold State.resendTimer
  dsimp only
  split
  · exact h
  · exact State.memOk.ite h (State.memOk.ite h.dropSession h.modSess.emitAll)

theorem State.memOk.validate {base len} (h : s.memOk) : (State.validate s base len).1.memOk := by
  unfold State.validate
  dsimp only
  split
  · exact h.keeperRead
  · split
    · exact h.keeperRead
    · split
      · exact h.keeperRead.keeperRead
      · split
        · exact h.keeperRead.keeperRead
        · exact h.keeperRead.keeperRead

theorem State.memOk.refuseLoad {l code detail} (h : s.memOk) : (State.refuseLoad s l code detail).memOk :=
  (State.memOk.ite h.same.setRegF.setRegF.setRegF.reportReduced h.same.setRegF.setRegF.setRegF).reply

theorem State.memOk.stopTargets {halt run} (h : s.memOk) : (State.stopTargets s halt run).memOk :=
  State.memOk.ite (h.haltParts.foldl (fun h => h.closeRegions)) (h.foldl (fun h => h.setPstate))

theorem State.memOk.validationDone (h : s.memOk) : (State.validationDone s).memOk := by
  unfold State.validationDone
  dsimp only
  split
  · exact h
  · split
    · split
      · exact h.validate.setRegF.setRegF.refuseLoad
      · exact ((h.validate.setRegF.setRegF.setRegF.setRegF.setRegF.same.foldl (fun h => h.closeRegions)).stopTargets).same
    · exact h

theorem State.memOk.clearOfTest {t} (h : s.memOk) (h1 : t.memOk) : (State.clearOfTest s t).memOk :=
  State.memOk.ite h h1

theorem State.memOk.placeNew {im} (h : s.memOk) : (State.placeNew s im).memOk :=
  h.foldl (fun h => by
  split
  · split
    · exact h.same
    · exact h
  · exact h)

theorem State.memOk.dropDue {cl p} (h : s.memOk) : (State.dropDue s cl p).memOk :=
  State.memOk.ite h.modCl.endWaits h.modCl

theorem State.memOk.endRun {p} (h : s.memOk) : (State.endRun s p).memOk :=
  (h.releaseHeld.ferryAbort.closeRegions.same.setAcct.endWaits.foldl (fun h => h.dropDue)).foldl (fun h => h.modPart)

theorem State.memOk.seatCore {targets c} (h : s.memOk) : (State.seatCore s targets c).memOk := by
  unfold State.seatCore
  split
  · exact State.memOk.ite h.modCore h
  · split
    · exact h
    · exact State.memOk.ite h.wakeFor.modCore.clearRegs h

theorem State.memOk.claimBank {id ix p owner} (h : s.memOk) : (State.claimBank s id ix p owner).memOk :=
  h.setReg

theorem State.memOk.seatVat {targets cl i} (h : s.memOk) : (State.seatVat s targets cl i).memOk := by
  unfold State.seatVat
  dsimp only
  split
  · exact h.dropBank
  · split
    · exact h
    · exact State.memOk.ite h.claimBank h

theorem State.memOk.seatPool {targets cl b} (h : s.memOk) : (State.seatPool s targets cl b).memOk := by
  unfold State.seatPool
  dsimp only
  split
  · exact h.dropBank
  · exact State.memOk.ite h.claimBank h

theorem State.memOk.seatAll {targets} (h : s.memOk) : (State.seatAll s targets).memOk :=
  ((h.foldl (fun h => h.seatCore)).foldl (fun h => h.foldl (fun h => h.seatVat))).foldl (fun h => h.foldl (fun h => h.seatPool))

theorem State.memOk.fillStore {p im} (h : s.memOk) : (State.fillStore s p im).memOk :=
  h.foldl (fun h => h.traffic.tierWrite)

theorem State.memOk.emptyBuckets {cls} (h : s.memOk) : (State.emptyBuckets s cls).memOk :=
  h.same

theorem data_retype {b : Tier} (h : cellsWf b.data = true) (ppn : Nat) (classC : Bool) : cellsWf (State.retype b ppn classC).data = true := by
  unfold State.retype
  dsimp only
  split
  · exact h
  · exact cellsWf_clearBytes _ _ _ h

/-- A frame that changes its class is cleared. -/
theorem cellsWf_retypePages {b : Tier} (h : cellsWf b.data = true) (im : PartImg) : cellsWf (State.retypePages b im).data = true := by
  unfold State.retypePages
  generalize im.pages.filter _ = l
  have frames : ∀ (l : List Nat) (classC : Bool) (b : Tier), cellsWf b.data = true →
      cellsWf (l.foldl (fun t f => State.retype t f classC) b).data = true := by
    intro l classC
    induction l with
    | nil => exact fun _ hb => hb
    | cons f l ih => exact fun b hb => ih _ (data_retype hb _ _)
  induction l generalizing b with
  | nil => exact h
  | cons g l ih => exact ih (frames _ _ _ h)

theorem State.memOk.commitPart {p im first gates} (h : s.memOk) : (State.commitPart s p im first gates).memOk := by
  unfold State.commitPart
  extract_lets u
  have k : u.memOk := h.modPart.emptyBuckets.fillStore
  exact k.fast (cellsWf_retypePages k.1 im)

theorem State.memOk.commitReset {r} (h : s.memOk) : (State.commitReset s r).memOk := by
  unfold State.commitReset
  dsimp only
  split
  · exact h.same
  · split
    · exact h.endRun.placeNew.commitPart.setPstate.seatAll.switchOffs.same
    · split
      · exact h.same
      · exact h.same.reply

theorem State.memOk.commitLoad {l img} (h : s.memOk) : (State.commitLoad s l img).memOk := by
  unfold State.commitLoad
  dsimp only
  refine State.memOk.same (s := _) ?_
  refine State.memOk.switchOffs ?_
  refine State.memOk.setRegF ?_
  refine State.memOk.seatAll ?_
  split
  · refine State.memOk.emptyBuckets ?_
    refine State.memOk.foldl ?_ (fun h => h.removePart)
    refine State.memOk.foldl ?_ (fun h => h.commitPart.setPstate)
    split
    · exact (h.foldl (fun h => h.endRun)).same
    · exact (h.foldl (fun h => h.endRun)).foldl (fun h => h.placeNew)
  · refine State.memOk.foldl ?_ (fun h => h.removePart)
    refine State.memOk.foldl ?_ (fun h => h.commitPart.setPstate)
    split
    · exact (h.foldl (fun h => h.endRun)).same
    · exact (h.foldl (fun h => h.endRun)).foldl (fun h => h.placeNew)

theorem State.memOk.backOut {l p} (h : s.memOk) : (State.backOut s l p).memOk := by
  unfold State.backOut
  dsimp only
  split
  · exact h.setReg.modPart.setPstate
  · exact h.setReg.modPart.setPstate

theorem State.memOk.tellRefused {p} (h : s.memOk) : (State.tellRefused s p).memOk := by
  unfold State.tellRefused
  dsimp only
  split
  · exact h.modPart.tellHalt
  · exact State.memOk.ite h h.event

theorem State.memOk.abandonLoad {l detail} (h : s.memOk) : (State.abandonLoad s l detail).memOk :=
  ((((h.same.foldl (fun h => h.backOut)).moveCores).seatAll).foldl (fun h => h.tellRefused)).refuseLoad

theorem State.memOk.commitOrRefuse {l img} (h : s.memOk) : (State.commitOrRefuse s l img).memOk := by
  unfold State.commitOrRefuse
  split
  · exact h.commitLoad
  · exact h.abandonLoad

theorem State.memOk.imageCommit (h : s.memOk) : (State.imageCommit s).memOk := by
  unfold State.imageCommit
  dsimp only
  split
  · exact h
  · split
    · split
      · exact h
      · exact h.clearOfTest h.commitReset
    · split
      · split
        · exact h
        · exact h.clearOfTest h.commitReset
      · split
        · exact h.clearOfTest h.commitOrRefuse
        · split
          · exact h
          · exact h.clearOfTest h.commitReset

theorem State.memOk.releasePart {p build} (h : s.memOk) : (State.releasePart s p build).memOk :=
  ((h.foldl (fun h => h.modCore)).setReg).setPstate

theorem State.memOk.targetRelease (h : s.memOk) : (State.targetRelease s).memOk := by
  unfold State.targetRelease
  dsimp only
  split
  · exact h
  · split
    · split
      · exact h
      · split
        · exact h.releasePart.same
        · exact h.releasePart.same.reply
    · split
      · split
        · exact h
        · split
          · exact h.releasePart.same
          · exact h.releasePart.same.reply
      · split
        · exact (((h.foldl (fun h => h.releasePart)).same).setRegF).reply
        · split
          · exact h
          · split
            · exact h.releasePart.same
            · exact h.releasePart.same.reply

theorem State.memOk.loadAfter (h : s.memOk) : (State.loadAfter s).memOk := by
  unfold State.loadAfter
  split
  · exact h
  · split
    · split
      · exact h.setRegF
      · split
        · exact h.setRegF
        · exact h.abandonLoad
    · exact h

theorem State.memOk.gateCheck {p g} (h : s.memOk) : (State.gateCheck s p g).memOk :=
  h.foldl (fun h => h.foldl (fun h => h.setPhase))

theorem State.memOk.gateInEffect {p g} (h : s.memOk) : (State.gateInEffect s p g).memOk := by
  unfold State.gateInEffect
  dsimp only
  split
  · exact h
  · exact h.same.modPart.gateCheck.reply

theorem State.memOk.fireHostin {c e} (h : s.memOk) : (State.fireHostin s c e).memOk := by
  unfold State.fireHostin
  dsimp only
  split
  · exact h
  · exact State.memOk.ite h h.modEntry

theorem State.memOk.fireHostsig {c e} (h : s.memOk) : (State.fireHostsig s c e).memOk := by
  unfold State.fireHostsig
  dsimp only
  split
  · exact h
  · exact h.bindSpans.event

theorem State.memOk.rehome (h : s.memOk) : (State.rehome s).memOk :=
  h.same

theorem State.memOk.clearPfc {k} (h : s.memOk) : (State.clearPfc s k).memOk :=
  h.same

theorem State.memOk.portDown {n} (h : s.memOk) : (State.portDown s n).memOk :=
  State.memOk.ite (State.memOk.ite h.setRegF.setRegF.qpsFail.clearPfc.rehome.event h.setRegF.setRegF.qpsFail.clearPfc.rehome) h

theorem State.memOk.fireIngest {c e} (h : s.memOk) : (State.fireIngest s c e).memOk := by
  unfold State.fireIngest
  dsimp only
  split
  · split
    · exact h.fault
    · exact State.memOk.ite h.modCl.setPhase h.fault
  · exact h

theorem State.memOk.stopIngest {cl j addr} (h : s.memOk) : (State.stopIngest s cl j addr).memOk := by
  unfold State.stopIngest
  dsimp only
  split
  · exact h.modCl.scrambleAll.fault
  · exact h.modCl.scrambleAll

theorem State.memOk.endIngest {cl j} (h : s.memOk) : (State.endIngest s cl j).memOk :=
  State.memOk.ite h.storeRun.stopIngest h.storeRun.modCl.setPhase.waitHeld

theorem State.memOk.setJob {cl j} (h : s.memOk) : (State.setJob s cl j).memOk :=
  h.modCl

theorem State.memOk.ingestTaken {cl} (h : s.memOk) : (State.ingestTaken s cl).memOk := by
  unfold State.ingestTaken
  split
  · exact h
  · split
    · exact h
    · extract_lets r
      have k : State.memOk r.st := h.trafficAll.readPieces
      clear_value r
      split
      · exact k.stopIngest
      · next wide pk es dv pics t t' j' _ _ =>
        have k : t.memOk := State.memOk.ite k.poisonIn k
        have k : State.memOk t' := k.bumpBy
        exact State.memOk.ite k.endIngest k.setJob

theorem State.memOk.nextPicture {cl j} (h : s.memOk) : (State.nextPicture s cl j).memOk :=
  State.memOk.ite h.endIngest h.setJob

theorem State.memOk.writePicture {cl j p st} (h : s.memOk) : (State.writePicture s cl j p st).memOk :=
  State.memOk.ite h.storeRun.storeRun.stopIngest h.storeRun.storeRun.countGauge.nextPicture

theorem State.memOk.ingestPicture {cl} (h : s.memOk) : (State.ingestPicture s cl).memOk := by
  unfold State.ingestPicture
  dsimp only
  split
  · exact h
  · split
    · exact h
    · split
      · split
        · exact (State.memOk.ite ((State.memOk.ite h.bump h).bump) (State.memOk.ite ((State.memOk.ite h.bump h).bump)
    (State.memOk.ite h.bump h))).nextPicture
        · exact (State.memOk.ite ((State.memOk.ite h.bump h).bump) (State.memOk.ite ((State.memOk.ite h.bump h).bump)
    (State.memOk.ite h.bump h))).writePicture
      · exact h

theorem State.memOk.fireWhen {c unit acc want body} (h : s.memOk) (hbody : ∀ {u x0}, State.memOk u → (body u x0).memOk)
    : (State.fireWhen s c unit acc want body).memOk := by
  unfold State.fireWhen
  split
  · exact h
  · exact State.memOk.ite (hbody h.markFired) h

theorem State.memOk.storeRecord {c e pd bs v} (h : s.memOk) : (State.storeRecord s c e pd bs v).memOk := by
  unfold State.storeRecord
  dsimp only
  split
  · exact h.storePieces.scramblePieces.fault
  · exact h.storePieces.setValue.waitHeld

theorem State.memOk.firePrepare {c e} (h : s.memOk) : (State.firePrepare s c e).memOk := by
  unfold State.firePrepare
  dsimp only
  split
  · exact h
  · split
    · exact h.fault
    · exact State.memOk.ite h.storeRecord h.setValue

theorem State.memOk.fireDecide {c e} (h : s.memOk) : (State.fireDecide s c e).memOk := by
  unfold State.fireDecide
  dsimp only
  split
  · exact h
  · split
    · exact h.fault
    · split
      · exact h.fault
      · split
        · exact h.trafficAll.readPieces.readPieces.scramblePieces.fault
        · exact (State.memOk.ite h.trafficAll.readPieces.readPieces.flag.poisonIn h.trafficAll.readPieces.readPieces).storeRecord

theorem State.memOk.ferryTraffic {p l} (h : s.memOk) : (State.ferryTraffic s p l).memOk :=
  h.foldl (fun h => by
  split
  · exact h.same
  · exact h)

theorem State.memOk.fireFerry {c e} (h : s.memOk) : (State.fireFerry s c e).memOk := by
  unfold State.fireFerry
  dsimp only
  split
  · split
    · exact h.fault
    · split
      · exact h.trafficAll.readPieces.scrambleAll.fault
      · split
        · exact h.trafficAll.readPieces.fault
        · exact h.trafficAll.readPieces.modPart.bindOnly.ferryTraffic.setPhase.same
  · exact h

theorem State.memOk.ferryBlock {p block} (h : s.memOk) : (State.ferryBlock s p block).memOk := by
  unfold State.ferryBlock
  split
  · refine State.memOk.ite h ?_
    extract_lets rd f' pb t
    have k : State.memOk rd.1 := State.memOk.foldlFst h fun h => h.ferryRead
    have k : t.memOk := k.ferryTraffic.modFerry
    exact k.storePieces.releaseRead
  · exact h

theorem State.memOk.ferryEnd {p} (h : s.memOk) : (State.ferryEnd s p).memOk := by
  unfold State.ferryEnd
  dsimp only
  split
  · exact State.memOk.ite h.sendRegions.qpOut.bump.ferryOver h
  · exact h

theorem State.memOk.holdSender {snd rcv} (h : s.memOk) : (State.holdSender s snd rcv).memOk :=
  h.same

theorem State.memOk.xTransfer {sc suid rc ruid data} (h : s.memOk) : (State.xTransfer s sc suid rc ruid data).memOk := by
  unfold State.xTransfer
  dsimp only
  split
  · split
    · exact h.fault.fault
    · split
      · exact h.storePieces.scramblePieces.fault
      · exact h.storePieces.setPhase.setPhase.holdSender.waitHeld.waitHeld
  · exact h

theorem State.memOk.fireExchange {c e send} (h : s.memOk) : (State.fireExchange s c e send).memOk := by
  unfold State.fireExchange
  split
  · exact h
  · extract_lets peer slot x side pages
    split
    · exact h.fault
    · next n u ps r t data _ _ =>
      have hu : u.memOk := h.modPart
      have k : State.memOk r.st := by
        unfold r
        split
        · exact hu.bindSpans.readPieces
        · exact hu
      have ht : t.memOk := State.memOk.ite k.flag.poisonIn k
      refine State.memOk.ite h.fault ?_
      split
      · exact k.fault
      · split
        · exact State.memOk.ite ht.modPart.xTransfer ht.modPart.xTransfer
        · exact ht.modPart.setPhase

theorem State.memOk.saveIdle {c e} (h : s.memOk) : (State.saveIdle s c e).memOk :=
  h.bindSpans

theorem State.memOk.saveBind {c e d} (h : s.memOk) : (State.saveBind s c e d).1.memOk := by
  unfold State.saveBind
  split
  · exact h.fault
  · exact h.bindSpans

theorem State.memOk.noteBad {kind ps} (h : s.memOk) : (State.noteBad s kind ps).memOk :=
  h.foldl (fun h => by
  split
  · exact h.foldl (fun h => h.memErr)
  · exact h)

theorem State.memOk.saveBytes {c e d kind} (h : s.memOk) : (State.saveBytes s c e d kind).1.memOk := by
  unfold State.saveBytes
  dsimp only
  split
  · exact h.readPieces.noteBad.fault
  · exact h.readPieces

theorem State.memOk.saveGone {c uid} (h : s.memOk) : (State.saveGone s c uid).memOk :=
  h.same

theorem State.memOk.settleMirror (h : s.memOk) : (State.settleMirror s).memOk := by
  unfold State.settleMirror
  dsimp only
  split
  · exact h
  · exact h.same

theorem State.memOk.noteBuf {p shard home addr len step n total} (h : s.memOk) : (State.noteBuf s p shard home addr len step n total).memOk :=
  h.same

theorem State.memOk.sendData {p dest mtype cls phase mark shard step off data u} (h : s.memOk)
    : (State.sendData s p dest mtype cls phase mark shard step off data u).memOk :=
  h.foldl (fun h => h.sendRoute)

theorem State.memOk.startMirror {v} (h : s.memOk) : (State.startMirror s v).memOk := by
  unfold State.startMirror
  dsimp only
  split
  · split
    · exact h.saveBytes.saveGone
    · exact State.memOk.ite h.saveBytes.reserveWrite.noteBuf.settleMirror.same h.saveBytes.reserveWrite.noteBuf.settleMirror.same.sendData
  · exact h

theorem State.memOk.fireSaveMirror {c e} (h : s.memOk) : (State.fireSaveMirror s c e).memOk := by
  unfold State.fireSaveMirror
  dsimp only
  split
  · exact h
  · split
    · exact h.saveIdle
    · exact State.memOk.ite (State.memOk.ite h.saveBind.setPhase.same.startMirror h.saveBind.setPhase.same) h.saveBind

theorem State.memOk.gateOpen {c uid} (h : s.memOk) : (State.gateOpen s c uid).memOk := by
  unfold State.gateOpen
  split
  · exact h
  · exact State.memOk.ite h.startMirror h

theorem State.memOk.ckptRefused {p step} (h : s.memOk) : (State.ckptRefused s p step).memOk :=
  h.flag.record

theorem State.memOk.saveRead {c e d kind} (h : s.memOk) : (State.saveRead s c e d kind).1.memOk := by
  unfold State.saveRead
  dsimp only
  split
  · exact h.saveBind.saveBytes
  · exact h.saveBind

theorem State.memOk.fireSaveCartridge {c e} (h : s.memOk) : (State.fireSaveCartridge s c e).memOk := by
  unfold State.fireSaveCartridge
  dsimp only
  split
  · exact h
  · split
    · exact h.saveIdle.ckptRefused
    · split
      · exact h.saveRead
      · exact State.memOk.ite h.saveRead.setPhase.same h.saveRead.setPhase.same.sendData

theorem State.memOk.fireSaveStore {c e} (h : s.memOk) : (State.fireSaveStore s c e).memOk := by
  unfold State.fireSaveStore
  dsimp only
  split
  · exact h
  · split
    · exact h.saveIdle.storeFailed
    · split
      · exact h.saveRead
      · exact State.memOk.ite h.saveRead.saveOut.setPhase.same h.saveRead.storeFailed

theorem State.memOk.takeSave {p mtype} (h : s.memOk) : (State.takeSave s p mtype).1.memOk := by
  unfold State.takeSave
  dsimp only
  split
  · exact h
  · split
    · exact (h.takeInbox ‹_›)
    · exact ((h.takeInbox ‹_›)).bump

theorem State.memOk.mirrorWrite {p} (h : s.memOk) : (State.mirrorWrite s p).memOk := by
  unfold State.mirrorWrite
  dsimp only
  split
  · exact h.takeSave
  · split
    · exact h.takeSave.bump
    · exact State.memOk.ite (State.memOk.ite (State.memOk.ite h.takeSave.reserveWrite.noteBuf.settleMirror h.takeSave.reserveWrite) h.takeSave) h.takeSave.bump

theorem State.memOk.reserveRead {a n kind} (h : s.memOk) : (State.reserveRead s a n kind).1.memOk := by
  unfold State.reserveRead
  dsimp only
  exact h.traffic.serviceRead

theorem State.memOk.keeperStore {p va bs} (h : s.memOk) : (State.keeperStore s p va bs).memOk := by
  unfold State.keeperStore
  dsimp only
  split
  · exact h
  · exact State.memOk.foldlFst h.trafficAll (fun h => h.writePlace)

theorem State.memOk.servedData {src p shard step off bs} (h : s.memOk) : (State.servedData s src p shard step off bs).memOk := by
  unfold State.servedData
  dsimp only
  split
  · exact h
  · split
    · split
      · exact h
      · exact h.keeperStore.same
    · exact h

theorem State.memOk.mirrorServe {p} (h : s.memOk) : (State.mirrorServe s p).memOk := by
  unfold State.mirrorServe
  dsimp only
  split
  · exact h.takeSave
  · split
    · split
      · exact h.takeSave
      · split
        · split
          · exact h.takeSave.reserveRead
          · exact h.takeSave.reserveRead.sendData
        · exact h.takeSave
    · exact State.memOk.ite h.takeSave.servedData h.takeSave

theorem State.memOk.cartPut {a bs} (h : s.memOk) : (State.cartPut s a bs).memOk :=
 by
  obtain ⟨hfast, hslow, hvats, hpools, hcart, hshelf⟩ := h
  exact ⟨hfast, hslow, hvats, hpools, cellsWf_writeBytes _ _ _ hcart, hshelf⟩

theorem State.memOk.putHead {u x begins} (h : s.memOk) : (State.putHead s u x begins).memOk := by
  unfold State.putHead
  extract_lets t
  have k : t.memOk := State.memOk.ite h.cartPut (State.memOk.ite h.cartPut h)
  exact k.same

theorem State.memOk.cartWorn (h : s.memOk) : (State.cartWorn s).memOk :=
  State.memOk.ite h.setRegF.setRegF h.setRegF

theorem State.memOk.ckStore {x e} (h : s.memOk) : (State.ckStore s x e).memOk := by
  unfold State.ckStore
  extract_lets p len j u gen had got full head t t' v t''
  have k : State.memOk t' := h.cartPut.putHead
  have k : State.memOk t'' := State.memOk.ite k.cartPut.putHead k
  exact k.cartWorn

theorem State.memOk.ckptXfer {p} (h : s.memOk) : (State.ckptXfer s p).memOk := by
  unfold State.ckptXfer
  extract_lets r
  have k : State.memOk r.1 := h.takeSave
  split
  · exact k
  · extract_lets t ph last
    refine State.memOk.ite ?_ (State.memOk.ite ?_ (State.memOk.ite ?_ (State.memOk.ite k.servedData k)))
    · split
      · exact k
      · exact k.saveDone
    · split
      · exact k.bump
      · refine State.memOk.ite ?_ k.bump
        extract_lets len may fits u
        have k : u.memOk := State.memOk.ite k.ckStore (State.memOk.ite k.ckptRefused k)
        exact State.memOk.ite k.sendRoute k
    · split
      · exact k
      · exact k.sendData

theorem State.memOk.heartbeatSend (h : s.memOk) : (State.heartbeatSend s).memOk :=
  h.same.coordinate.sendBeats

theorem State.memOk.hearRole1 {src gen b} (h : s.memOk) : (State.hearRole1 s src gen b).memOk :=
  State.memOk.ite h.same.same.setCommitM.setCommitC h.same

theorem State.memOk.follow {b} (h : s.memOk) : (State.follow s b).memOk :=
  State.memOk.ite h.startRestore (State.memOk.ite h.goReset h)

theorem State.memOk.lose {m} (h : s.memOk) : (State.lose s m).memOk :=
  State.memOk.ite h.declare h

theorem State.memOk.heartbeat {p} (h : s.memOk) : (State.heartbeat s p).memOk := by
  unfold State.heartbeat
  split
  · exact h
  · next u e =>
    have k : u.memOk := h.takeInbox e
    extract_lets b src gen role x _ t₁ t₂ _ t₃ all v _ w y t₄
    have k₁ : t₁.memOk := k.same
    have k₂ : t₂.memOk := State.memOk.ite k₁.hearRole1 k₁
    have k₃ : t₃.memOk := k₂.same
    have hv : v.memOk := k₂.bumpBy
    have hw : w.memOk := hv.same
    have hy : y.memOk := hw.peerLoss
    have k₄ : t₄.memOk := State.memOk.ite (State.memOk.ite hy.failJob hy) k₂
    exact State.memOk.ite k₁ (State.memOk.ite (State.memOk.ite k₃.setRegF k₃).declared
      (State.memOk.ite (State.memOk.ite k₄ k₄.follow) (State.memOk.ite k₂.lose k₂.coordinate)))

theorem State.memOk.heartbeatMissed {m} (h : s.memOk) : (State.heartbeatMissed s m).memOk :=
  State.memOk.ite h.lose h

theorem State.memOk.takeOver (h : s.memOk) : (State.takeOver s).memOk :=
  State.memOk.ite h.setRegF.same.declare h

theorem State.memOk.deputyTakeover (h : s.memOk) : (State.deputyTakeover s).memOk := by
  unfold State.deputyTakeover
  split
  · exact h
  · exact State.memOk.ite h.takeOver h

theorem State.memOk.orphanTimeout (h : s.memOk) : (State.orphanTimeout s).memOk :=
  State.memOk.ite h.haltJob.setJobState.same.record h

theorem State.memOk.endLoad {p shard} (h : s.memOk) : (State.endLoad s p shard).memOk :=
  State.memOk.ite h.same.setJobState.coordinate h.same

theorem State.memOk.spread {p slot get} (h : s.memOk) : (State.spread s p slot get).memOk :=
  h.foldl (fun h => h.keeperStore)

theorem State.memOk.spreadFree {p slot} (h : s.memOk) : (State.spreadFree s p slot).memOk :=
  h.foldl (fun h => h.keeperStore.same)

theorem State.memOk.restoreDone {p shard} (h : s.memOk) : (State.restoreDone s p shard).memOk := by
  unfold State.restoreDone
  dsimp only
  split
  · split
    · exact h
    · split
      · split
        · exact h.startLoad
        · split
          · exact h.reserveRead.same.startLoad
          · exact h.reserveRead.spread.endLoad
      · split
        · exact h.startLoad
        · exact h.spread.endLoad
      · exact h.spreadFree.endLoad
      · exact State.memOk.ite h.endLoad h
  · exact h

theorem State.memOk.reconcile {m} (h : s.memOk) : (State.reconcile s m).memOk :=
  h.foldl (fun h => State.memOk.ite h.setRegF h)

theorem State.memOk.chooseVoltage {m first over' low} (h : s.memOk) : (State.chooseVoltage s m first over' low).memOk :=
  State.memOk.ite h.same.setRegF.setRegF.setRegF.setRegF.setRegF.setRegF h.same.setRegF.setRegF.setRegF.setRegF.setRegF

theorem State.memOk.windowStart {m} (h : s.memOk) : (State.windowStart s m).memOk := by
  unfold State.windowStart
  dsimp only
  split
  · exact ((((((((State.memOk.ite h h.reconcile).chooseVoltage).setRegF).same).setRegF).foldl (fun h => State.memOk.ite h.same h)).same).foldl (fun h => by
      split
      · exact h
      · exact h.modPart)).heatEmergency
  · exact h

theorem State.memOk.admitCore {c} (h : s.memOk) : (State.admitCore s c).memOk := by
  unfold State.admitCore
  dsimp only
  split
  · split
    · split
      · exact h.markWaiting
      · exact (((h.admitPart ‹_›)).modEntry).clearWaiting
    · exact h
  · exact h

theorem State.memOk.releaseDue {cl} (h : s.memOk) : (State.releaseDue s cl).memOk := by
  unfold State.releaseDue
  split
  · exact h
  · exact h.modCl.clearWaiting.queueMsg

theorem State.memOk.admitDue {cl} (h : s.memOk) : (State.admitDue s cl).memOk := by
  unfold State.admitDue
  split
  · exact h
  · split
    · exact State.memOk.ite h h.beginWait
    · exact ((h.admitReserve ‹_›)).releaseDue

theorem State.memOk.admitIngest {cl} (h : s.memOk) : (State.admitIngest s cl).memOk := by
  unfold State.admitIngest
  split
  · exact h
  · split
    · split
      · exact h.markWaiting
      · exact (((h.admitPart ‹_›)).setJob).clearWaiting
    · exact h

theorem State.memOk.chargeAdmit {w} (h : s.memOk) : (State.chargeAdmit s w).memOk := by
  unfold State.chargeAdmit
  split
  · exact h.admitCore
  · exact h.admitDue
  · exact h.admitIngest

theorem State.memOk.floorSend {cl} (h : s.memOk) : (State.floorSend s cl).memOk := by
  unfold State.floorSend
  split
  · exact h
  · exact State.memOk.ite h.floorReserve.releaseDue h

theorem State.memOk.showFeeds (h : s.memOk) : (State.showFeeds s).memOk :=
  h.setRegF.setRegF.setRegF

theorem State.memOk.setFeed {f x} (h : s.memOk) : (State.setFeed s f x).memOk :=
  State.memOk.ite h.same h.same

theorem State.memOk.powerOff (h : s.memOk) : State.memOk s.powerOff :=
  ⟨rfl, rfl, rfl, rfl, h.2.2.2.2⟩

theorem State.memOk.feedLost {f} (h : s.memOk) : (State.feedLost s f).memOk :=
  State.memOk.ite (State.memOk.ite h.setFeed.showFeeds.emergency h.setFeed.showFeeds.powerOff) h

theorem State.memOk.feedGood {f} (h : s.memOk) : (State.feedGood s f).memOk :=
  State.memOk.ite h.setFeed.showFeeds h

theorem State.memOk.showFlags (h : s.memOk) : (State.showFlags s).memOk :=
  h.setReg

theorem State.memOk.meterReady (h : s.memOk) : (State.meterReady s).memOk :=
  State.memOk.ite h h.same.showFlags

theorem State.memOk.meterSave (h : s.memOk) : (State.meterSave s).memOk :=
  h.same

theorem State.memOk.meterLoss (h : s.memOk) : (State.meterLoss s).memOk :=
  h.meterSave.same.setRegF

theorem State.memOk.meterRecordDone (h : s.memOk) : (State.meterRecordDone s).memOk :=
  State.memOk.ite h.same.showFlags h

theorem State.memOk.meterWindow {a b ra rb} (h : s.memOk) : (State.meterWindow s a b ra rb).memOk :=
  h.same.setReg.setReg.setReg.showFlags.pmcDie

theorem State.memOk.meterTampered (h : s.memOk) : (State.meterTampered s).memOk :=
  h.same.showFlags

theorem State.memOk.tellMeter (h : s.memOk) : (State.tellMeter s).memOk :=
  State.memOk.ite h.same.record h

theorem State.memOk.meterFails (h : s.memOk) : (State.meterFails s).memOk :=
  State.memOk.ite h h.same.showFlags.tellMeter

theorem State.memOk.sampled {x toClocked samples} (h : s.memOk) : (State.sampled s x toClocked samples).memOk := by
  unfold State.sampled
  dsimp only
  split
  · exact h.xingCount.modXing
  · exact State.memOk.ite h.xingCount.modXing.record.resetNotice h.xingCount.modXing

theorem State.memOk.wordAccept {x toClocked written samples} (h : s.memOk) : (State.wordAccept s x toClocked written samples).memOk :=
  State.memOk.ite h.modXing (State.memOk.ite h.modXing h.modXing.sampled)

theorem State.memOk.resetTimeout {x clocked} (h : s.memOk) : (State.resetTimeout s x clocked).memOk :=
  State.memOk.ite h.modXing h

theorem State.memOk.sliceSchedule (h : s.memOk) : (State.sliceSchedule s).memOk :=
  State.memOk.ite (State.memOk.ite h h.same.setRegF) h

theorem State.memOk.blockTaken (h : s.memOk) : (State.blockTaken s).memOk := by
  unfold State.blockTaken
  dsimp only
  split
  · exact h
  · exact State.memOk.ite h.letFire.same (State.memOk.ite h.same.seedSlice.setRegF h)

theorem State.memOk.blockTimeout (h : s.memOk) : (State.blockTimeout s).memOk := by
  unfold State.blockTimeout
  dsimp only
  split
  · exact h
  · exact h.letFire.same

theorem State.memOk.sliceVerdict {pass} (h : s.memOk) : (State.sliceVerdict s pass).memOk :=
  State.memOk.ite h.setRegF h.setRegF.bump

theorem State.memOk.setPointer {n} (h : s.memOk) : (State.setPointer s n).memOk :=
  h.same.writeRetire.setRegF

theorem State.memOk.scheduledResult {b pass} (h : s.memOk) : (State.scheduledResult s b pass).memOk := by
  unfold State.scheduledResult
  dsimp only
  refine State.memOk.letFire ?_
  refine State.memOk.setPointer ?_
  split
  · exact (State.memOk.ite h.same.setRegF.sliceVerdict h.same.setRegF.sliceVerdict.retireBlock).same
  · exact State.memOk.ite h.same.setRegF.sliceVerdict h.same.setRegF.sliceVerdict.retireBlock

theorem State.memOk.directedResult {slice rest pass} (h : s.memOk) : (State.directedResult s slice rest pass).memOk := by
  unfold State.directedResult
  dsimp only
  split
  · split
    · refine State.memOk.setRegF ?_
      split
      · exact h.same.sliceVerdict.seedSlice
      · exact h.same.sliceVerdict
    · refine State.memOk.retireBlock ?_
      refine State.memOk.flag ?_
      refine State.memOk.setRegF ?_
      split
      · exact h.same.sliceVerdict.seedSlice
      · exact h.same.sliceVerdict
  · split
    · exact h.same.sliceVerdict.seedSlice
    · exact h.same.sliceVerdict

theorem State.memOk.sliceEnds {pass} (h : s.memOk) : (State.sliceEnds s pass).memOk := by
  unfold State.sliceEnds
  split
  · exact h.scheduledResult
  · exact h.directedResult
  · exact h

theorem State.memOk.sliceResult {signature} (h : s.memOk) : (State.sliceResult s signature).memOk := by
  unfold State.sliceResult
  dsimp only
  split
  · exact h
  · exact h.same.usedFresh.sliceEnds

theorem State.memOk.clusterBack {cl} (h : s.memOk) : (State.clusterBack s cl).memOk :=
  h.same

theorem State.memOk.restartEnd {cl} (h : s.memOk) : (State.restartEnd s cl).memOk :=
  State.memOk.ite h.modCl.clusterBack.placeAgain h

theorem State.memOk.overdue {b} (h : s.memOk) : (State.overdue s b).memOk :=
  State.memOk.ite h.flag.record h

theorem State.memOk.readFuses (h : s.memOk) : (State.readFuses s).memOk :=
  ((((State.memOk.ite h.same.usedFresh.setRegF.setRegF h.same.usedFresh.setRegF.setRegF.same).setReg).foldl (fun h => h.setReg)).showLife).newChallenge

theorem State.memOk.loadKeys (h : s.memOk) : (State.loadKeys s).memOk :=
  h.same.addCerts

theorem State.memOk.showCart (h : s.memOk) : (State.showCart s).memOk :=
  State.memOk.ite h.setRegF.setRegF.setRegF h

theorem State.memOk.showRecord (h : s.memOk) : (State.showRecord s).memOk :=
  h.same.setRegF.foldl (fun h => h.setRegF)

theorem State.memOk.serviceEntries (h : s.memOk) : (State.serviceEntries s).memOk :=
  State.memOk.ite ((State.memOk.ite h h.writeRetire).usedFresh) h

theorem State.memOk.runFirmware {i} (h : s.memOk) : (State.runFirmware s i).memOk :=
  h.same.setRegF.setRegF.setRegF.setRegF

theorem State.memOk.keeperBoot (h : s.memOk) : (State.keeperBoot s).memOk := by
  unfold State.keeperBoot
  dsimp only
  split
  · exact h.loadKeys.setRegF
  · exact h.loadKeys.runFirmware.serviceEntries.showRecord.showCart.same.tellMeter

theorem State.memOk.enablePorts {signal} (h : s.memOk) : (State.enablePorts s signal).memOk :=
  h.setRegF.setRegF.foldl (fun h => State.memOk.ite h.lnkEnable h)

theorem State.memOk.trainTiers (h : s.memOk) : (State.trainTiers s).memOk :=
  State.memOk.foldl ((h.fast (b := Tier.zero) rfl).slow (b := Tier.zero) rfl) fun h => h.setRegF.setRegF

theorem State.memOk.applyRecord (h : s.memOk) : (State.applyRecord s).memOk :=
  h.foldl (fun h => by
  split
  · exact h.setRegF
  · exact h)

theorem State.memOk.warmStart (h : s.memOk) : (State.warmStart s).memOk :=
  ((h.applyRecord.vats (b := []) rfl).pools (b := []) rfl).same

theorem State.memOk.stepDone {signal} (h : s.memOk) : (State.stepDone s signal).memOk := by
  unfold State.stepDone
  dsimp only
  split
  · exact State.memOk.ite h.same h
  · exact h.readFuses.same
  · exact h.same
  · exact h.keeperBoot
  · exact h.trainTiers.enablePorts.same
  · exact State.memOk.ite h.same h
  · exact h.warmStart.same
  · exact h

theorem State.memOk.lifeOp {op off} (h : s.memOk) : (State.lifeOp s op off).memOk :=
  h.settle (h.wroteAt fun e => h.lifeGo e)

theorem State.memOk.cartInsert {nvme2 width gen} (h : s.memOk) : (State.cartInsert s nvme2 width gen).memOk :=
  State.memOk.ite h (State.memOk.showCart h.same)

/-- The cartridge that joins the shelf stands there in canonical form. -/
theorem cellsWf_shelve {k : Cart} (h : cellsWf k.data = true) (hs : ∀ x ∈ k.shelf, cellsWf x.2.data = true) :
    ∀ x ∈ (State.Cart.shelve k).shelf, cellsWf x.2.data = true := by
  intro x hx
  unfold State.Cart.shelve at hx
  dsimp only at hx
  split at hx
  · exact hs x hx
  · rcases mem_set _ _ _ x hx with rfl | hx
    · exact h
    · exact hs x hx

theorem State.memOk.cartRemove (h : s.memOk) : (State.cartRemove s).memOk := by
  refine State.memOk.ite (State.memOk.setReg (State.memOk.setRegF (State.memOk.setRegF (State.memOk.setRegF (State.memOk.setRegF ?_))))) h
  obtain ⟨hfast, hslow, hvats, hpools, hcart, hshelf⟩ := h
  exact ⟨hfast, hslow, hvats, hpools, rfl, cellsWf_shelve hcart hshelf⟩

/-- A cartridge that was here before is as it was. -/
theorem cellsWf_known {k : Cart} {serial : Long} {signed : Nat} (h : cellsWf k.data = true) (hs : ∀ x ∈ k.shelf, cellsWf x.2.data = true) :
    cellsWf (State.Cart.known k serial signed).data = true ∧ ∀ x ∈ (State.Cart.known k serial signed).shelf, cellsWf x.2.data = true := by
  have taken : ∀ (l : FMap Shelf) (i : Nat), (∀ x ∈ l, cellsWf x.2.data = true) → cellsWf (l.get ⟨[], [], 0⟩ i).data = true := by
    intro l i hl
    induction l with
    | nil => rfl
    | cons x l ih =>
      unfold FMap.get
      split
      · exact hl x (List.mem_cons_self ..)
      · exact ih fun y hy => hl y (List.mem_cons_of_mem _ hy)
  unfold State.Cart.known
  split
  · exact ⟨h, hs⟩
  · exact ⟨taken _ _ (cellsWf_shelve h hs), cellsWf_shelve h hs⟩

theorem State.memOk.cartAuth {a} (h : s.memOk) : (State.cartAuth s a).memOk := by
  unfold State.cartAuth
  refine State.memOk.ite ?_ h
  extract_lets k nonce u serial v
  have hu : u.memOk := (State.memOk.emit h.same).setRegF
  refine State.memOk.ite ?_ hu.setRegF.setReg
  have hv : v.memOk := by
    obtain ⟨hfast, hslow, hvats, hpools, hcart, hshelf⟩ := hu
    exact State.memOk.setRegF (State.memOk.setReg ⟨hfast, hslow, hvats, hpools, cellsWf_known hcart hshelf⟩)
  exact hv.setRegF.cartWorn

theorem State.memOk.watchTimeout (h : s.memOk) : (State.watchTimeout s).memOk :=
  State.memOk.ite h.keeperLost h

theorem State.memOk.keeperRestart (h : s.memOk) : (State.keeperRestart s).memOk := by
  unfold State.keeperRestart
  dsimp only
  split
  · split
    · exact h.loadKeys.same.setRegF
    · exact ((h.loadKeys.runFirmware.serviceEntries.showRecord.sendWatch.foldl (fun h => h.tellHalt)).record).tellMeter
  · exact h

theorem State.memOk.watchReceive {p} (h : s.memOk) : (State.watchReceive s p).memOk := by
  unfold State.watchReceive
  split
  · exact h
  · next u e =>
    have k : u.memOk := h.takeInbox e
    extract_lets b lost gen mark _ t₁ t₂ t₃
    have k₁ : t₁.memOk := k.same
    have k₂ : t₂.memOk := by
      clear t₃
      unfold t₂
      split
      · exact k₁
      · exact State.memOk.ite k₁ k₁.sendRoute
    have k₃ : t₃.memOk := State.memOk.ite k₂.record k
    exact State.memOk.ite k (State.memOk.ite k₃.lose (State.memOk.ite k₃.takeOver k₃))

theorem State.memOk.presMate {f} (h : s.memOk) : (State.presMate s f).memOk :=
  h.setFeed

theorem State.memOk.regulators {f} (h : s.memOk) : (State.regulators s f).memOk :=
  State.memOk.ite h.setFeed h

theorem State.memOk.presBreak {f} (h : s.memOk) : (State.presBreak s f).memOk :=
  h.setFeed.feedLost

theorem State.memOk.portLinkUp {n fast} (h : s.memOk) : (State.portLinkUp s n fast).memOk :=
  State.memOk.ite (State.memOk.ite h.turnOn.setRegF.setRegF.same.clearPfc.rehome.event h.turnOn.setRegF.setRegF.same.clearPfc.rehome) h

theorem State.memOk.meterRecovers (h : s.memOk) : (State.meterRecovers s).memOk :=
  h.same.showFlags

theorem State.memOk.xingRestart {x} (h : s.memOk) : (State.xingRestart s x).memOk :=
  State.memOk.ite h.modXing h

theorem State.memOk.beatTick (h : s.memOk) : (State.beatTick s).memOk :=
  State.memOk.ite h ((h.foldl (fun h => h.countOne)).usedFresh)

theorem State.memOk.heatTick (h : s.memOk) : (State.heatTick s).memOk :=
  h.foldl (fun h => State.memOk.ite h.countOne h)

theorem State.memOk.clockTick (h : s.memOk) : (State.clockTick s).memOk :=
  State.memOk.ite h.same.pmcDie.heatTick.beatTick h

/-! ### Every command, and the step -/

/-- A write to the register space. -/
theorem State.memOk.registerWrite {addr size v} (h : s.memOk) : ((if size = 8 then s.mrsWrite addr v else none).getD s.accessErr).memOk := by
  split
  · cases e : s.mrsWrite addr v with
    | none => exact h.accessErr
    | some t => exact h.mrsWrite e
  · exact h.accessErr

theorem State.memOk.exec {i} (h : s.memOk) (e : exec i s = .next t) : t.memOk := by
  cases i <;> obtain rfl := Host.Outcome.next.inj e
  case registerWrite => exact h.registerWrite
  case windowEntry => exact h.windowEntry
  case instructionComplete => exact h.settle h.instructionComplete
  case tokenRouteArrival => exact h.tokenRouteArrival
  case stepEnd => exact h.stepEnd
  case barrierCollect => exact h.settle h.barrierCollect
  case barrierRelease => exact h.barrierRelease
  case tjoin => exact h.fireOp fun h => h.complete
  case pred => exact h.fireOp fun h => h.firePred
  case loop => exact h.fireOp fun h => h.fireLoop
  case heldWriteRelease => exact h.settle h.heldWriteRelease
  case haltNoticeReceipt => exact h.haltNotice
  case mload => exact h.settle (h.fireOp fun h => h.fireMload)
  case tileBufferRelease => exact h.settle h.tileRelease
  case mpass => exact h.settle (h.fireOp fun h => h.fireMpass)
  case mstore => exact h.settle (h.fireOp fun h => h.fireMstore)
  case arrayAtRest => exact h.arrayAtRest
  case vsetvl => exact h.fireVecOp fun h => h.fireVsetvl
  case vprofile => exact h.fireVecOp fun h => h
  case vsetrc => exact h.fireVecOp fun h => h
  case vld => exact h.settle (h.fireVecOp fun h => h.fireVmem)
  case vst => exact h.settle (h.fireVecOp fun h => h.fireVmem)
  case vldx => exact h.settle (h.fireVecOp fun h => h.fireVmem)
  case vstx => exact h.settle (h.fireVecOp fun h => h.fireVmem)
  case vmov => exact h.fireBoth fun h => h.stripElem
  case vmovi => exact h.fireVecOp fun h => h.stripBits
  case vadd => exact h.fireBoth fun h => h.stripElem
  case vsub => exact h.fireBoth fun h => h.stripElem
  case vmul => exact h.fireBoth fun h => h.stripElem
  case vfma => exact h.fireBoth fun h => h.stripElem
  case vdiv => exact h.fireBoth fun h => h.stripElem
  case vmax => exact h.fireBoth fun h => h.stripElem
  case vmin => exact h.fireBoth fun h => h.stripElem
  case vabs => exact h.fireBoth fun h => h.stripElem
  case vneg => exact h.fireBoth fun h => h.stripElem
  case vand => exact h.fireBoth fun h => h.stripElem
  case vor => exact h.fireBoth fun h => h.stripElem
  case vxor => exact h.fireBoth fun h => h.stripElem
  case vshl => exact h.fireBoth fun h => h.stripElem
  case vshr => exact h.fireBoth fun h => h.stripElem
  case vcmp => exact h.fireVecOp fun h => h.fireVcmp
  case vcmpc => exact h.fireVecOp fun h => h.fireVcmp
  case vpopc => exact h.fireVecOp fun h => h.fireVpopc
  case vmand => exact h.fireVecOp fun h => h.fireMaskOp
  case vmor => exact h.fireVecOp fun h => h.fireMaskOp
  case vmxor => exact h.fireVecOp fun h => h.fireMaskOp
  case vmnot => exact h.fireVecOp fun h => h.fireMaskOp
  case vcvt => exact h.fireBoth fun h => h.stripElem
  case vperm => exact h.fireVecOp fun h => h.fireVperm
  case vsldn => exact h.fireVecOp fun h => h.stripBits
  case vslup => exact h.fireVecOp fun h => h.stripBits
  case vcompress => exact h.fireVecOp fun h => h.fireVcompress
  case vexpand => exact h.fireVecOp fun h => h.fireVexpand
  case vred => exact h.fireVecOp fun h => h.fireVred
  case vext => exact h.fireVecOp fun h => h.fireVext
  case vscan => exact h.fireBoth fun h => h.stripScan
  case vrec => exact h.fireBoth fun h => h.stripRec
  case tensorChunkAdmission => exact h.settle h.chunkAdmission
  case sfeval => exact h.settle (h.fireOp fun h => h.fireSf)
  case sfgate => exact h.settle (h.fireOp fun h => h.fireSf)
  case sfrennet => exact h.settle (h.fireOp fun h => h.fireSf)
  case sftable => exact h.settle (h.fireOp fun h => h.fireSftable)
  case slotSwap => exact h.slotSwap
  case slotReload => exact h.settle h.slotReload
  case slotParityRewrite => exact h.settle h.slotRewrite
  case rstat => exact h.settle (h.fireOp fun h => h.fireRstat)
  case rsmerge => exact h.settle (h.fireOp fun h => h.fireRsmerge)
  case rsfin => exact h.settle (h.fireOp fun h => h.fireRsfin)
  case copy => exact h.settle (h.fireOp fun h => h.fireCopy)
  case copyTaken => exact h.settle h.copyTaken
  case g24CopyStart => exact h.settle h.g24Start
  case sload => exact h.settle (h.fireOp fun h => h.fireStream)
  case sstore => exact h.settle (h.fireOp fun h => h.fireStream)
  case gather => exact h.settle (h.fireOp fun h => h.fireIndexed fun h => h.runGather)
  case scatter => exact h.settle (h.fireOp fun h => h.fireIndexed fun h => h.runScatter)
  case scatterAdd => exact h.settle (h.fireOp fun h => h.fireIndexed fun h => h.runScatterAdd)
  case ownset => exact h.fireOp fun h => h.fireOwnset
  case ownerChange => exact h.ownerChange
  case vatOwnerWrite => exact h.wroteAt fun e => h.wrOwner e
  case poolOwnerWrite => exact h.wroteAt fun e => h.wrOwner e
  case memoryClearComplete => exact h.clearDone
  case confluenceArbitration => exact h.confArb
  case confCtrlWrite => exact h.wroteAt fun e => h.wrConfCtrl e
  case confRankWrite => exact h.wroteAt fun e => h.wrConfRank e
  case sluiceSlot => exact h.sluiceSlot
  case scrub => exact h.scrub
  case stackTemperatureReport => exact h.heatReport
  case heatLevelFall => exact h.heatFall
  case paceNoticeDue => exact h.paceNotice
  case softRepairComplete => exact h.repairDone
  case lpddrRefreshDerate => exact State.memOk.ite h h.same
  case sluClearGo => exact h.wroteAt fun e => h.wrSluClear e
  case sluClearComplete => exact h.setRegF
  case sluHeatWrite => exact h.wroteAt fun e => h.wrHeat e
  case lnkEnableWrite => exact State.memOk.ite h.lnkEnable (h.wroteAt fun e => Option.some.inj e ▸ h.lnkEnable)
  case lnkCtrlRetrain => exact h.wroteAt fun e => Option.some.inj e ▸ h.goRetrain
  case lnkCtrlFull => exact h.wroteAt fun e => Option.some.inj e ▸ h.lnkFull
  case lnkCtrlOffer => exact h.wroteAt fun e => h.wrOffer e
  case lnkVcAllocWrite => exact h.wroteAt fun e => h.wrAlloc e
  case signalDetected => exact h.signalDetected
  case laneLock => exact h.laneLock
  case laneLockLoss => exact h.laneLockLoss
  case laneErrorLimit => exact h.laneErrorLimit
  case trainTimeout => exact h.trainTimeout
  case negotiateTimeout => exact h.negotiateTimeout
  case retrainTimeout => exact h.retrainTimeout
  case portPowerOff => exact h.portPowerOff
  case trainFlitSend => exact h.trainSend
  case trainFlitReceive => exact State.memOk.ite h h.trainReceive
  case dataFlitReceive => exact State.memOk.ite h h.dataReceive
  case idleFlitReceive => exact State.memOk.ite h h.idleReceive
  case ackTimer => exact h.ackTimer
  case ackTimeout => exact h.ackTimeout
  case messageSend => exact h.messageSend
  case linkHealthSend => exact h.healthSend
  case linkHealthReceive => exact h.healthReceive
  case pace => exact h.paceReceive
  case paceExpiry => exact h.paceExpiry
  case coll => exact h.settle (h.fireOp fun h => h.fireColl)
  case collStat => exact h.settle (h.fireOp fun h => h.fireColl)
  case shuf => exact h.settle (h.fireOp fun h => h.fireShuf)
  case collMessageReceive => exact h.settle h.collReceive
  case nodeCombine => exact h.settle h.nodeCombine
  case collInstanceComplete => exact h.settle h.collComplete
  case collWatchdogExpiry => exact h.collExpiry
  case ethFrameReceive => exact h.settle h.ethFrame.pausePeer
  case rdmaWrite => exact h.settle h.rdmaWrite.pausePeer
  case rdmaRead => exact h.settle h.rdmaRead.pausePeer
  case sessionOpen => exact h.sessionOpen
  case sessionClose => exact h.settle h.sessionClose
  case sessionAck => exact h.sessionAck
  case sessionIdleTimeout => exact h.settle h.dropSession
  case controlResendTimer => exact h.settle h.resendTimer
  case ident => exact h.settle h.command
  case regRead => exact h.settle h.command
  case regWrite => exact h.settle h.command
  case regReadMulti => exact h.settle h.command
  case qpConnect => exact h.settle h.command
  case qpClose => exact h.settle h.command
  case imageLoad => exact h.settle h.command
  case imageValidationComplete => exact h.settle h.validationDone.allServed
  case imageCommit => exact h.settle h.imageCommit.allServed
  case targetRelease => exact h.settle h.targetRelease.allServed
  case loadAfterWarmRestart => exact h.settle h.loadAfter.allServed
  case stageOpen => exact h.settle h.command
  case jobModule => exact h.settle h.command
  case jobMap => exact h.settle h.command
  case jobCommit => exact h.settle h.command
  case jobStore => exact h.settle h.command
  case jobResume => exact h.settle h.command
  case jobRead => exact h.settle h.command
  case partHalt => exact h.settle h.command
  case partReset => exact h.settle h.command
  case gatePost => exact h.settle h.command
  case gateInEffect => exact h.settle h.gateInEffect.allServed
  case regionOpen => exact h.settle h.command
  case regionClose => exact h.settle h.command
  case counterRead => exact h.settle h.command
  case meterRead => exact h.settle h.command
  case meterRecord => exact h.settle h.command
  case meterCert => exact h.settle h.command
  case hostin => exact h.fireOp fun h => h.fireHostin
  case hostsig => exact h.fireOp fun h => h.fireHostsig
  case hostPortDown => exact h.settle h.portDown
  case ingest => exact h.settle (h.fireOp fun h => h.fireIngest)
  case ingestTaken => exact h.settle h.ingestTaken
  case ingestPicture => exact h.settle h.ingestPicture
  case lsupdatePrepare => exact h.settle (h.fireWhen fun h => h.firePrepare)
  case lsupdateDecide => exact h.settle (h.fireWhen fun h => h.fireDecide)
  case ferry => exact h.settle (h.fireOp fun h => h.fireFerry)
  case ferryBlockCopied => exact h.settle h.ferryBlock
  case ferryExportEnd => exact h.settle h.ferryEnd
  case ferryAbort => exact h.settle h.ferryAbort
  case xsend => exact h.settle (h.fireOp fun h => h.fireExchange)
  case xrecv => exact h.settle (h.fireOp fun h => h.fireExchange)
  case saveMirror => exact h.settle (h.fireWhen fun h => h.fireSaveMirror)
  case mirrorGateOpen => exact h.settle h.gateOpen
  case saveCartridge => exact h.settle (h.fireWhen fun h => h.fireSaveCartridge)
  case saveStore => exact h.settle (h.fireWhen fun h => h.fireSaveStore)
  case mirrorWrite => exact h.settle h.mirrorWrite
  case mirrorServe => exact h.settle h.mirrorServe
  case ckptXfer => exact h.settle h.ckptXfer
  case heartbeatSend => exact State.memOk.ite h.heartbeatSend h
  case heartbeat => exact State.memOk.ite h.heartbeat h
  case heartbeatMissed => exact State.memOk.ite h.heartbeatMissed h
  case deputyTakeover => exact State.memOk.ite h.deputyTakeover h
  case orphanTimeout => exact State.memOk.ite h.orphanTimeout h
  case shardRestoreComplete => exact h.settle (State.memOk.ite h.restoreDone h)
  case weirWindowStart => exact h.windowStart
  case chargeAdmission => exact h.chargeAdmit
  case collectiveFloorSend => exact h.floorSend
  case feedInvalid => exact h.feedLost
  case feedValid => exact h.feedGood
  case junctionEmergency => exact State.memOk.ite h.setRegF.heatEmergency h
  case meterReady => exact h.meterReady
  case meterNvSave => exact h.meterSave
  case meterSupplyLoss => exact h.meterLoss
  case meterRecordComplete => exact h.meterRecordDone
  case meterWindowUpdate => exact h.meterWindow
  case meterTamper => exact h.meterTampered
  case meterSelfCheckFail => exact h.meterFails
  case crossingWordAccept => exact h.wordAccept
  case crossingResetNotice => exact h.resetNotice
  case crossingResetTimeout => exact h.resetTimeout
  case sliceSchedule => exact h.settle h.sliceSchedule
  case blockTaken => exact h.settle h.blockTaken
  case blockTakeTimeout => exact h.settle h.blockTimeout
  case sliceResult => exact h.settle h.sliceResult
  case warmRestartEnd => exact h.settle h.restartEnd
  case selftestOverdue => exact h.settle h.overdue
  case bistDirectedTest => exact h.wroteAt fun e => h.wrBistCtrl e
  case pmcSampleWrite => exact h.wroteAt fun e => Option.some.inj e ▸ h.wrSample
  case powerUpStepComplete => exact h.stepDone
  case provision => exact h.lifeOp
  case addKey => exact h.lifeOp
  case deploy => exact h.lifeOp
  case lifeReturn => exact h.lifeOp
  case scrap => exact h.lifeOp
  case revoke => exact h.lifeOp
  case quote => exact h.lifeOp
  case fwUpdate => exact h.lifeOp
  case commitSvn => exact h.lifeOp
  case cartridgeInsert => exact h.cartInsert
  case cartridgeRemove => exact h.cartRemove
  case cartridgeAuthentication => exact h.cartAuth
  case keeperKick => exact h.kick
  case keeperForce => exact h.settle h.keeperLost
  case keeperWatchTimeout => exact h.settle h.watchTimeout
  case keeperMemoryError => exact h.settle h.keeperLost
  case keeperException => exact h.settle h.keeperLost
  case keeperRestart => exact h.keeperRestart
  case watch => exact h.watchReceive
  case netCtrlSave => exact h.wroteAt fun e => Option.some.inj e ▸ h.netSave
  case feedPresMate => exact h.presMate
  case feedRegulatorConnect => exact h.regulators
  case feedPresBreak => exact h.presBreak
  case hostPortLinkUp => exact h.portLinkUp
  case meterSelfCheckRecovery => exact h.meterRecovers
  case lpddrRefreshRestore => exact h.same
  case crossingRestart => exact h.xingRestart

theorem State.memOk.step (h : s.memOk) (e : step s = .next t) : t.memOk := by
  unfold Machine.step at e
  split at e
  · cases e
    exact h.clockTick
  · exact State.memOk.exec (s := { s with pending := _ }) h.same e

end Sys2Proof.Machine

open Sys2Proof Sys2Proof.Machine

/-- Settles O5, from the law of each operation. -/
theorem stepKeepsMemoryCanonical : Obligations.StepKeepsMemoryCanonical := fun _ _ h e => h.step e

/-- Settles O4. -/
theorem resetMemoryCanonical : Obligations.ResetMemoryCanonical := by
  unfold Obligations.ResetMemoryCanonical State.memOk
  decide

end

section
/-! PROOF. An operation of the life cycle that LIFE_CMD runs: its object read without errors (R563). A quote that register write runs leaves the
mark of a held bank. -/

namespace Sys2Proof.Machine

/-- A write to a tier without errors waits where the access that it begins with does. -/
theorem State.tierWrite_stalled {s : State} {slow : Bool} (a : Nat) (bs : List Byte) (h : TierClean (s.tierOf slow)) :
    (s.tierWrite slow a bs).1.stalled = (s.touch slow a bs.length).stalled ∧ (s.tierWrite slow a bs).2 = none := by
  have hg : ((s.touch slow a bs.length).granules slow a bs.length).stalled = (s.touch slow a bs.length).stalled := by
    have hg := State.granules_frame (s.touch slow a bs.length) slow a bs.length
    rw [Counts] at hg
    rw [hg]
  constructor
  · simp only [State.tierWrite, State.marksIn_clean _ _ _ h, List.filter_nil, List.foldl_nil]
    cases slow <;> exact hg
  · simp [State.tierWrite, State.marksIn_clean _ _ _ h]

/-- An access of the slow tier waits where the crossing to the package of its first block resets. -/
theorem State.touch_stalled {s : State} {a n : Nat} (hn : n ≠ 0) (hx : s.phyHeld true (a / 2048) = true)
    (hany : s.xings.any (fun x => decide (272 ≤ x.1) && (x.2.selfReset || x.2.clkReset)) = true) : (s.touch true a n).stalled = true := by
  have hb : (blocksOf a n).any (fun b => (!true && s.blockHeld b.1) || s.phyHeld true b.1) = true := by
    simp only [blocksOf, hn, upFrom, if_false, List.any_map, List.any_eq_true, List.mem_range']
    exact ⟨a / 2048, ⟨0, by omega, by omega⟩, by simpa using hx⟩
  rw [State.touch, if_pos (by rw [hany, hb]; simp)]

/-- The body of a quote's answer has a fixed length, and leaves room for its signature. -/
theorem State.length_quoteBody (s : State) (l : List Byte) (hl : l.length = 32) : (s.quoteBody l).length = 1088 := by
  simp only [State.quoteBody, List.length_append, List.length_flatMap, leBytes_length, toLen_length]
  rw [List.map_congr_left (f := fun p => List.length _) (g := fun _ => 48) fun p _ => by
    split
    · exact toLen_length ..
    · exact List.length_replicate]
  simp [hl, fill]

theorem length_ownSig (rsa slh : Nat) (msg : List Byte) : (ownSig rsa slh msg).length = sigLen := by
  simp [ownSig, fill, sigLen]

/-- A keeper that stands by with the object of a quote at the head of the staging area, while the crossing to the package that its answer goes to
resets. -/
def quoting : State :=
  let head := beBytes 4 0x4C494645 ++ [7, 0, 0, 0] ++ leBytes 8 7 ++ leBytes 8 0 ++ leBytes 4 32 ++ leBytes 4 0xFFFFFFFF ++ leBytes 4 0xFFFFFFFF
  let s := State.reset.modXing 304 fun k => { k with clkReset := true }
  { s with
    life := { s.life with device := 7, fuses := 3 },
    slow := { s.slow with data := writeBytes s.slow.data stagingBase (head ++ fill 28 0 ++ fill 32 1) } }

/-- A write of the reserve without errors waits where the crossing to the package of its first block resets. -/
theorem State.reserveWrite_stalled {s : State} {kind a : Nat} {bs : List Byte} (hclean : TierClean s.slow) (hne : bs.length ≠ 0)
    (hx : s.phyHeld true (a / 2048) = true)
    (hany : s.xings.any (fun x => decide (272 ≤ x.1) && (x.2.selfReset || x.2.clkReset)) = true) : (s.reserveWrite kind a bs).1.stalled = true := by
  have hw := State.tierWrite_stalled (s := s.traffic serviceClass true a bs.length) (slow := true) a bs hclean
  simp only [State.reserveWrite, State.writePlace, hw.2]
  exact hw.1.trans (State.touch_stalled hne hx hany)

/-- A quote's effect is the write of its answer, for which there is room behind an object at the head of the staging area. -/
theorem State.lifeEffect_quote {s : State} {payload : List Byte} (hlen : payload.length = 32) :
    s.lifeEffect 7 0 payload =
      .inl (s.reserveWrite 6 (stagingBase + 0 + State.quoteGap) (s.quoteBody payload ++ ownSig 14 15 (s.quoteBody payload))).1 := by
  have hroom : ¬ stagingLen < 0 + State.quoteGap + (s.quoteBody payload).length + (ownSig 14 15 (s.quoteBody payload)).length := by
    rw [s.length_quoteBody payload hlen, length_ownSig]
    simp only [stagingLen, State.quoteGap, sigLen]
    omega
  simp only [State.lifeEffect, if_neg hroom]

/-! ### The reading of an operation's object (R563) -/

/-- Of a reading by the keeper only the sluices, and the die's counters, show. -/
def KeeperReads (s u : State) : Prop := u = { s with mrs := u.mrs, sluices := u.sluices, dieSeen := u.dieSeen } ∧ SameRegsBut dieCounters s u

theorem KeeperReads.trans {s t u : State} (h : KeeperReads s t) (k : KeeperReads t u) : KeeperReads s u := by
  obtain ⟨h, hr⟩ := h
  obtain ⟨k, kr⟩ := k
  refine ⟨?_, State.sameRegsBut_mono (State.sameRegsBut_trans hr kr) (by simp)⟩
  rw [h] at k
  exact k

theorem KeeperReads.reg {s u : State} (h : KeeperReads s u) {id : RegId} (hb : 0x90080 < id.row.base) (ix : List Nat) : u.reg id ix = s.reg id ix :=
  State.reg_of_sameRegsBut h.2 fun hm => absurd (State.le_of_mem_dieCounters hm) (by have := State.base_le_addr id.row ix; omega)

theorem State.keeperRead_clean {s : State} (h : TierClean s.slow) (a n : Nat) :
    (s.keeperRead a n).2 = none ∧ KeeperReads s (s.keeperRead a n).1 := by
  have hg := State.granules_frame (s.traffic serviceClass true a n) true a n
  rw [Counts] at hg
  have hr := State.sameRegsBut_granules (s := s.traffic serviceClass true a n) true a n
  have hs := congrArg State.sluices hg
  simp only [State.keeperRead, State.marksIn_clean _ _ _ h, List.foldl_nil]
  refine ⟨trivial, ?_, hr⟩
  rw [hs]
  exact hg

theorem KeeperReads.lifeRefusal {s u : State} (h : KeeperReads s u) (op : Nat) (obj : List Byte) (total : Nat) :
    u.lifeRefusal op obj total = s.lifeRefusal op obj total := by
  have hc := h.reg (id := .lifeChallenge) (by decide) []
  obtain ⟨hu, -⟩ := h
  have hload : u.load = s.load := by rw [hu]
  have hlife : u.life = s.life := by rw [hu]
  simp only [State.lifeRefusal, State.lifeState, State.verifies, State.key?, State.keyCounts, hc, hload, hlife]
  rfl

/-- An operation whose object is read without errors does what the object says of it. -/
theorem State.lifeRun_clean {s : State} (h : TierClean s.slow) (op off : Nat) :
    let n := le (readBytes s.slow.data (stagingBase + off) 64) 0x18 4
    let obj := readBytes s.slow.data (stagingBase + off) (min (stagingLen - off) (64 + State.padded n + sigLen))
    ∃ u, KeeperReads s u ∧
      (s.lifeRefusal op obj (stagingLen - off) ≠ 0 → s.lifeRun op off = u.setRegF .lifeStatus [] 15 8 (s.lifeRefusal op obj (stagingLen - off))) ∧
      (s.lifeRefusal op obj (stagingLen - off) = 0 →
        (∀ t, u.lifeEffect op off ((obj.drop 64).take n) = .inl t →
          s.lifeRun op off = (t.showLife.setRegF .lifeStatus [] 15 8 0).newChallenge) ∧
        ∀ code, u.lifeEffect op off ((obj.drop 64).take n) = .inr code → s.lifeRun op off = u.setRegF .lifeStatus [] 15 8 code) := by
  intro n obj
  have hslow : ∀ {v : State}, KeeperReads s v → v.slow = s.slow := fun hv => by rw [hv.1]
  unfold State.lifeRun
  extract_lets total h₁ head m r u obj'
  have hk := State.keeperRead_clean h (stagingBase + off) 64
  have hr : r.2 = none ∧ KeeperReads s u := by
    have hr : r = h₁.1.keeperRead (stagingBase + off + 64) (m - 64) := if_neg (by rw [hk.1]; simp)
    have k := State.keeperRead_clean (s := h₁.1) (by rw [hslow hk.2]; exact h) (stagingBase + off + 64) (m - 64)
    rw [← hr] at k
    exact ⟨k.1, hk.2.trans k.2⟩
  have hhead : head = readBytes s.slow.data (stagingBase + off) 64 := by rw [← hslow hk.2]
  have hlen : le head 0x18 4 = n := by rw [hhead]
  have hobj : obj' = obj := by
    unfold obj' m
    rw [hslow hr.2, hhead]
  have hcode : (if r.2.isSome = true then 1 else u.lifeRefusal op obj' total) = s.lifeRefusal op obj (stagingLen - off) := by
    rw [hr.1, if_neg (by simp), hr.2.lifeRefusal, hobj]
  refine ⟨u, hr.2, fun hne => ?_, fun hz => ⟨fun t ht => ?_, fun code hc => ?_⟩⟩
  · rw [hcode]
    split
    · next hz => exact absurd hz hne
    · rfl
  · rw [hcode, hz, hobj, hlen]
    simp only [ht]
  · rw [hcode, hz, hobj, hlen]
    simp only [hc]

/-- The state of an answered quote waits where the write of its answer does. -/
theorem State.stalled_answered (t : State) : (t.showLife.setRegF .lifeStatus [] 15 8 0).newChallenge.stalled = t.stalled := rfl

/-- A quote read without errors at the head of the staging area waits where the crossing to the package of its answer resets. -/
theorem State.lifeRun_quote_stalled {s : State} (hclean : TierClean s.slow)
    (hn : le (readBytes s.slow.data (stagingBase + 0) 64) 0x18 4 = 32)
    (hobj : s.lifeRefusal 7 (readBytes s.slow.data (stagingBase + 0) (min (stagingLen - 0) (64 + State.padded 32 + sigLen))) (stagingLen - 0) = 0)
    (hx : s.phyHeld true ((stagingBase + 0 + State.quoteGap) / 2048) = true)
    (hany : s.xings.any (fun x => decide (272 ≤ x.1) && (x.2.selfReset || x.2.clkReset)) = true) : (s.lifeRun 7 0).stalled = true := by
  obtain ⟨u, hu, -, hstands⟩ := State.lifeRun_clean hclean 7 0
  rw [hn] at hstands
  obtain ⟨hrun, -⟩ := hstands hobj
  have hlen : (((readBytes s.slow.data (stagingBase + 0) (min (stagingLen - 0) (64 + State.padded 32 + sigLen))).drop 64).take 32).length = 32 := by
    simp [readBytes, State.padded, stagingLen, sigLen]
  rw [hrun _ (State.lifeEffect_quote hlen), State.stalled_answered]
  obtain ⟨hu, -⟩ := hu
  exact State.reserveWrite_stalled (by rw [hu]; exact hclean) (by rw [List.length_append, u.length_quoteBody _ hlen]; omega)
    (by rw [hu]; exact hx) (by rw [hu]; exact hany)

theorem quoting_stalls : ((quoting.setReg .lifeCmd [] (BitVec.ofNat 64 (7 * 2 ^ 56))).lifeRun 7 0).stalled = true :=
  State.lifeRun_quote_stalled ⟨by decide +kernel, by decide +kernel⟩ (by decide +kernel) (by decide +kernel) (by decide +kernel)
    (by decide +kernel)

theorem mrsWrite_quoting : quoting.mrsWrite 0x000A0008 (BitVec.ofNat 64 (7 * 2 ^ 56 + 1)) =
    some ((quoting.setReg .lifeCmd [] (BitVec.ofNat 64 (7 * 2 ^ 56))).lifeRun 7 0) := by
  have hd : decodeAddr 0x000A0008 = some (.lifeCmd, []) := by decide +kernel
  have hr : (quoting.unreachable .lifeCmd [] || quoting.romOnly) = false := by decide +kernel
  simp only [State.mrsWrite, hd, hr]
  rfl

theorem exec_quoting : exec (.registerWrite 0x000A0008 8 (BitVec.ofNat 64 (7 * 2 ^ 56 + 1))) quoting =
    .next ((quoting.setReg .lifeCmd [] (BitVec.ofNat 64 (7 * 2 ^ 56))).lifeRun 7 0) := by
  have ha : (0x000A0008 : Word).toNat = 0x000A0008 := by decide
  simp only [exec, execRegisterWrite, if_true, ha, mrsWrite_quoting, Option.getD_some]

end Sys2Proof.Machine

open Sys2Proof Sys2Proof.Machine

/-- Refutes O3: a write of LIFE_CMD that runs a QUOTE leaves the mark of a held bank set, where the crossing to the package of its answer resets. -/
theorem not_commandsKeepTheQueue : ¬ Obligations.CommandsKeepTheQueue := fun h => by
  have hst := (h _ _ _ exec_quoting).2 (by decide +kernel)
  rw [quoting_stalls] at hst
  exact absurd hst (by decide)

end

section
/-! PROOF. An empty queue is one tick (R513, R538; log 1). -/

namespace Sys2Proof.Machine

/-- A step of a fold that leaves the state it starts from as it is leaves the fold so. -/
theorem foldl_eq_of_fixed {α β : Type} {f : β → α → β} {l : List α} {b : β} (h : ∀ a ∈ l, f b a = b) : l.foldl f b = b := by
  induction l with
  | nil => rfl
  | cons a l ih => rw [List.foldl_cons, h a (List.mem_cons_self ..), ih fun x hx => h x (List.mem_cons_of_mem _ hx)]

namespace State

variable {s : State}

/-- A tick moves its count, the counters of events, and the supply of free values. -/
def Ticks (s t : State) : Prop := t = { s with tick := t.tick, mrs := t.mrs, fresh := t.fresh, dieSeen := t.dieSeen }

theorem Ticks.counts {t u : State} (h : Ticks s t) (k : Counts t u) : Ticks s u ∧ u.tick = t.tick := by
  rw [Counts] at k
  rw [Ticks] at *
  rw [k, h]
  exact ⟨rfl, rfl⟩

theorem counts_heatTick (s : State) : Counts s s.heatTick := by
  refine foldl_rel Counts counts_refl (fun h k => counts_trans h k) _ (fun t j => ?_) _ s
  dsimp only
  split
  · exact counts_of_onlyRegs (countOne_frame t _ _ _ _ _)
  · exact counts_refl t

theorem Ticks.beatTick {t : State} (h : Ticks s t) : Ticks s t.beatTick ∧ t.beatTick.tick = t.tick := by
  unfold State.beatTick
  dsimp only
  split
  · exact ⟨h, rfl⟩
  · generalize hu : List.foldl _ t _ = u
    have k : OnlyRegs t u := hu ▸ onlyRegs_foldl _ (fun t x => countOne_frame t _ _ _ _ _) _ t
    obtain ⟨hticks, htick⟩ := h.counts (counts_of_onlyRegs k)
    rw [Ticks] at *
    exact ⟨by rw [hticks]; rfl, htick⟩

theorem ticks_clockTick (h : 4 ≤ s.bootStep) : Ticks s s.clockTick ∧ s.clockTick.tick = s.tick + 1 := by
  have hbegin : Ticks s { s with tick := s.tick + 1, dieSeen := [] } := rfl
  obtain ⟨hdie, edie⟩ := hbegin.counts (pmcDie_frame _ 0x81 0 1)
  obtain ⟨hheat, eheat⟩ := hdie.counts (counts_heatTick _)
  obtain ⟨hbeat, ebeat⟩ := hheat.beatTick
  rw [clockTick, if_pos h]
  exact ⟨hbeat, ebeat.trans (eheat.trans edie)⟩

/-! ### Counters that select other events -/

theorem pmcDie_of_other {ev unit n : Nat} (h : ∀ j, j < 8 → s.regF .dieSel [j] 39 32 ≠ ev) : s.pmcDie ev unit n = s :=
  foldl_eq_of_fixed fun j hj => by
    have hj := h j (List.mem_range.1 hj)
    have hs : selects (s.reg .dieSel [j]) ev unit = false := by
      simp only [selects, Bool.and_eq_false_iff, beq_eq_false_iff_ne]
      exact .inl (.inr hj)
    rw [hs]
    simp

theorem heatTick_of_other (h : ∀ j, j < 8 → s.regF .dieSel [j] 39 32 ≠ 0x86) : s.heatTick = s :=
  foldl_eq_of_fixed fun j hj => if_neg fun ⟨_, he, _⟩ => h j (List.mem_range.1 hj) he

theorem beatTick_of_other (h : ∀ c j, c < 128 → j < 8 → s.regF .pmcSel (cix c ++ [j]) 39 32 ≠ 1) : s.beatTick = s := by
  refine if_pos ?_
  rw [List.isEmpty_iff, List.filter_eq_nil_iff]
  intro x hx
  obtain ⟨c, hc, hx⟩ := List.mem_flatMap.1 hx
  split at hx
  · obtain ⟨j, hj, rfl⟩ := List.mem_map.1 hx
    have he := h c j (List.mem_range.1 hc) (List.mem_range.1 hj)
    have hs : selects (s.reg .pmcSel (cix c ++ [j])) 0x01 0 = false := by
      simp only [selects, Bool.and_eq_false_iff, beq_eq_false_iff_ne]
      exact .inl (.inr he)
    simp [beatAdd, hs]
  · cases hx

end State
end Sys2Proof.Machine

open Sys2Proof Sys2Proof.Machine

/-- Settles O2. -/
theorem emptyQueueIsOneTick : Obligations.EmptyQueueIsOneTick := by
  intro s hempty
  have hstep : step s = .next s.clockTick := by rw [step, hempty]
  refine ⟨fun hlt => ?_, fun hge => ?_⟩
  · rw [hstep, State.clockTick, if_neg (by omega)]
  · obtain ⟨hframe, htick⟩ := State.ticks_clockTick hge
    refine ⟨_, hstep, htick, hframe, fun hdie hcore => ?_⟩
    have hclock : s.clockTick = { s with tick := s.tick + 1, dieSeen := [] } := by
      generalize hu : ({ s with tick := s.tick + 1, dieSeen := [] } : State) = u
      have hsel : ∀ id ix hi lo, u.regF id ix hi lo = s.regF id ix hi lo := fun _ _ _ _ => by rw [← hu]; rfl
      rw [State.clockTick, if_pos hge, hu, State.pmcDie_of_other fun j hj => by rw [hsel]; exact (hdie j hj).1,
        State.heatTick_of_other fun j hj => by rw [hsel]; exact (hdie j hj).2,
        State.beatTick_of_other fun c j hc hj => by rw [hsel]; exact hcore c j hc hj]
    rw [hclock]
    exact ⟨rfl, rfl⟩

end

section
/-! PROOF. The register map: no two registers share an address, so every register's address is decoded to it (R579). -/

namespace Sys2Proof.Machine

/-- What indexes add to the base of a register. -/
def offsetOf (ds : List (Nat × Nat)) (ix : List Nat) : Nat := sumN (List.zipWith (fun d i => d.2 * i) ds ix)

/-- The greatest such offset. -/
def reach (ds : List (Nat × Nat)) : Nat := sumN (ds.map fun d => d.2 * (d.1 - 1))

theorem sumN_cons (x : Nat) (l : List Nat) : sumN (x :: l) = x + sumN l := by
  rw [sumN_eq_sum, sumN_eq_sum, List.sum_cons]

theorem offsetOf_nil (ix : List Nat) : offsetOf [] ix = 0 := rfl

theorem offsetOf_cons (d : Nat × Nat) (ds : List (Nat × Nat)) (i : Nat) (ix : List Nat) :
    offsetOf (d :: ds) (i :: ix) = d.2 * i + offsetOf ds ix := sumN_cons ..

theorem reach_cons (d : Nat × Nat) (ds : List (Nat × Nat)) : reach (d :: ds) = d.2 * (d.1 - 1) + reach ds := sumN_cons ..

theorem offsetOf_le_reach {ds : List (Nat × Nat)} {ix : List Nat} (h : indexesFit ds ix) : offsetOf ds ix ≤ reach ds := by
  induction ds generalizing ix with
  | nil => exact Nat.le_refl 0
  | cons d ds ih =>
    cases ix with
    | nil => exact h.elim
    | cons i ix =>
      obtain ⟨hi, hix⟩ := h
      rw [offsetOf_cons, reach_cons]
      exact Nat.add_le_add (Nat.mul_le_mul_left _ (by omega)) (ih hix)

/-! ### Decoding an offset -/

/-- Each stride reaches beyond all that the dimensions within it add. -/
def nested : List (Nat × Nat) → Bool
  | [] => true
  | d :: ds => decide (reach ds < d.2) && nested ds

theorem indexesOf_offsetOf {ds : List (Nat × Nat)} {ix : List Nat} (hn : nested ds = true) (h : indexesFit ds ix) :
    indexesOf ds (offsetOf ds ix) = some ix := by
  induction ds generalizing ix with
  | nil =>
    cases ix with
    | nil => rfl
    | cons i ix => exact h.elim
  | cons d ds ih =>
    cases ix with
    | nil => exact h.elim
    | cons i ix =>
      obtain ⟨hi, hix⟩ := h
      rw [nested, Bool.and_eq_true, decide_eq_true_eq] at hn
      obtain ⟨hd, hn⟩ := hn
      have hlt := (offsetOf_le_reach hix).trans_lt hd
      have hq : (d.2 * i + offsetOf ds ix) / d.2 = i := by
        rw [Nat.mul_add_div (by omega), Nat.div_eq_of_lt hlt, Nat.add_zero]
      have hr : d.2 * i + offsetOf ds ix - i * d.2 = offsetOf ds ix := by
        rw [Nat.mul_comm i, Nat.add_sub_cancel_left]
      rw [offsetOf_cons, indexesOf, hq]
      simp only [hi, if_true]
      rw [hr, ih hn hix]
      rfl

/-- What an offset is decoded to adds up to it. -/
theorem offsetOf_of_indexesOf {ds : List (Nat × Nat)} {n : Nat} {ix : List Nat} (h : indexesOf ds n = some ix) :
    indexesFit ds ix ∧ offsetOf ds ix = n := by
  induction ds generalizing n ix with
  | nil =>
    rw [indexesOf] at h
    split at h
    · next hn =>
      cases h
      exact ⟨trivial, hn.symm⟩
    · cases h
  | cons d ds ih =>
    simp only [indexesOf] at h
    split at h
    · next hi =>
      obtain ⟨jx, hj, rfl⟩ := Option.map_eq_some_iff.1 h
      obtain ⟨hfit, hoff⟩ := ih hj
      refine ⟨⟨hi, hfit⟩, ?_⟩
      have hle := Nat.div_mul_le_self n d.2
      rw [offsetOf_cons, hoff, Nat.mul_comm]
      omega
    · cases h

/-! ### Registers apart -/

/-- Two arrays of registers lie apart: one ends before the other begins, or so do their offsets within a common stride. -/
def apart : Nat → Nat → List (Nat × Nat) → Nat → List (Nat × Nat) → Bool
  | 0, _, _, _, _ => false
  | k + 1, a, ds, b, es =>
    let m := ((ds ++ es).map (·.2)).foldr max 0
    let within := fun l : List (Nat × Nat) => l.filter fun d => d.2 % m != 0
    decide (a + reach ds < b) || decide (b + reach es < a) ||
      decide (a % m + reach (within ds) < m) && decide (b % m + reach (within es) < m) && apart k (a % m) (within ds) (b % m) (within es)

/-- Within a stride only the dimensions count that it does not divide. -/
theorem offsetOf_mod (m : Nat) {ds : List (Nat × Nat)} {ix : List Nat} (h : indexesFit ds ix) :
    ∃ jx, indexesFit (ds.filter fun d => d.2 % m != 0) jx ∧ offsetOf ds ix % m = offsetOf (ds.filter fun d => d.2 % m != 0) jx % m := by
  induction ds generalizing ix with
  | nil => exact ⟨[], trivial, rfl⟩
  | cons d ds ih =>
    cases ix with
    | nil => exact h.elim
    | cons i ix =>
      obtain ⟨hi, hix⟩ := h
      obtain ⟨jx, hj, heq⟩ := ih hix
      rw [offsetOf_cons]
      by_cases hd : d.2 % m = 0
      · have hz : d.2 * i % m = 0 := by rw [Nat.mul_mod, hd, Nat.zero_mul, Nat.zero_mod]
        rw [List.filter_cons_of_neg (by simp [hd]), Nat.add_mod, hz, Nat.zero_add, Nat.mod_mod]
        exact ⟨jx, hj, heq⟩
      · rw [List.filter_cons_of_pos (by simp [hd])]
        refine ⟨i :: jx, ⟨hi, hj⟩, ?_⟩
        rw [offsetOf_cons, Nat.add_mod, heq, ← Nat.add_mod]

theorem addr_mod {m a : Nat} {ds : List (Nat × Nat)} {ix : List Nat} (h : indexesFit ds ix)
    (hm : a % m + reach (ds.filter fun d => d.2 % m != 0) < m) :
    ∃ jx, indexesFit (ds.filter fun d => d.2 % m != 0) jx ∧ (a + offsetOf ds ix) % m = a % m + offsetOf (ds.filter fun d => d.2 % m != 0) jx := by
  obtain ⟨jx, hj, heq⟩ := offsetOf_mod m h
  refine ⟨jx, hj, ?_⟩
  have hle := offsetOf_le_reach hj
  rw [Nat.add_mod, heq, ← Nat.add_mod_mod, Nat.mod_mod, Nat.add_mod_mod, Nat.mod_eq_of_lt (by omega)]

theorem addr_ne_of_apart {k a b : Nat} {ds es : List (Nat × Nat)} {ix jx : List Nat} (h : apart k a ds b es = true) (hi : indexesFit ds ix)
    (hj : indexesFit es jx) : a + offsetOf ds ix ≠ b + offsetOf es jx := by
  induction k generalizing a b ds es ix jx with
  | zero => cases h
  | succ k ih =>
    have hle := offsetOf_le_reach hi
    have hle' := offsetOf_le_reach hj
    simp only [apart, Bool.or_eq_true, Bool.and_eq_true, decide_eq_true_eq] at h
    obtain (hlt | hlt) | ⟨⟨ha, hb⟩, hk⟩ := h
    · omega
    · omega
    · obtain ⟨ix', hi', ea⟩ := addr_mod hi ha
      obtain ⟨jx', hj', eb⟩ := addr_mod hj hb
      intro heq
      rw [heq, eb] at ea
      exact ih hk hi' hj' ea.symm

/-! ### The map -/

theorem decodeIn_addr {l : List RegId} {id : RegId} {ix : List Nat} (hmem : id ∈ l) (hn : nested id.row.dims = true)
    (hap : ∀ r ∈ l, r = id ∨ apart 4 r.row.base r.row.dims id.row.base id.row.dims = true) (h : indexesFit id.row.dims ix) :
    decodeIn (id.row.addr ix) l = some (id, ix) := by
  induction l with
  | nil => cases hmem
  | cons r l ih =>
    have haddr : id.row.addr ix = id.row.base + offsetOf id.row.dims ix := rfl
    simp only [decodeIn]
    by_cases hr : r = id
    · rw [if_neg (by rw [haddr, hr]; omega), haddr, hr, Nat.add_sub_cancel_left, indexesOf_offsetOf hn h]
    · have hne : apart 4 r.row.base r.row.dims id.row.base id.row.dims = true := (hap r (List.mem_cons_self ..)).resolve_left hr
      have ih := ih ((List.mem_cons.1 hmem).resolve_left (Ne.symm hr)) fun q hq => hap q (List.mem_cons_of_mem _ hq)
      split
      · exact ih
      · next hge =>
        split
        · next jx hj =>
          obtain ⟨hfit, hoff⟩ := offsetOf_of_indexesOf hj
          exact absurd (by omega) (addr_ne_of_apart hne hfit h)
        · exact ih

theorem regIds_apart : ∀ id ∈ regIds, nested id.row.dims = true ∧
    ∀ r ∈ regIds, r = id ∨ apart 4 r.row.base r.row.dims id.row.base id.row.dims = true := by decide +kernel

theorem mem_regIds (id : RegId) : id ∈ regIds := by cases id <;> decide

end Sys2Proof.Machine

open Sys2Proof Sys2Proof.Machine

/-- Settles O7: the decoder passes over every register that lies apart, and finds the indexes of the one that does not. -/
theorem registerMapRoundTrip : Obligations.RegisterMapRoundTrip := by
  intro id ix h
  obtain ⟨hn, hap⟩ := regIds_apart id (mem_regIds id)
  exact decodeIn_addr (mem_regIds id) hn hap h

/-- Settles O6. -/
theorem storedBytesReadBack : Obligations.StoredBytesReadBack := fun m a b bs => readByte_writeBytes m a bs b

end

section
/-! PROOF. One slot of a sluice: the class that the round robin picks, and what serving it changes. -/

namespace Sys2Proof.Machine

theorem rrPick_some {b : FMap Nat} {pos c : Nat} {w : Nat → Bool} (h : rrPick b pos w = some c) :
    c < 18 ∧ w c = true ∧ tokenUnit ≤ b.get 0 c := by
  have hp := List.find?_some h
  obtain ⟨i, -, rfl⟩ := List.mem_map.1 (List.mem_of_find?_eq_some h)
  simp only [Bool.and_eq_true, decide_eq_true_eq] at hp
  exact ⟨Nat.mod_lt _ (by decide), hp.1, hp.2⟩

/-- The round robin passes every class, from any position. -/
theorem rrPick_none {b : FMap Nat} {pos : Nat} {w : Nat → Bool} :
    rrPick b pos w = none ↔ ∀ j : Fin 18, w j = true → ¬ tokenUnit ≤ b.get 0 j := by
  simp only [rrPick, List.find?_eq_none, List.mem_map, List.mem_range, forall_exists_index, and_imp, forall_apply_eq_imp_iff₂,
    Bool.and_eq_true, decide_eq_true_eq, not_and]
  constructor
  · intro h j
    have hj := h ((j.val + 18 - pos % 18) % 18) (Nat.mod_lt _ (by decide))
    rwa [show (pos + (j.val + 18 - pos % 18) % 18) % 18 = j.val by omega] at hj
  · exact fun h i _ => h ⟨(pos + i) % 18, Nat.mod_lt _ (by decide)⟩

/-- What waits at a slot for the cap buckets: a class with a granule pending, or an export that RATE lets go. -/
def Sluice.capWaits (x : Sluice) (mayFerry : Nat → Bool) (c : Nat) : Bool :=
  x.waits c || (decide (0 < x.ferry.get 0 c) && mayFerry c)

/-- What a slot serves (R329, R440). -/
structure Sluice.Serves (x y : Sluice) (mayFerry : Nat → Bool) (c : Nat) : Prop where
  lt : c < 18
  token : (x.waits c = true ∧ tokenUnit ≤ x.mins.get 0 c) ∨
    ((∀ j : Fin 18, x.waits j = true → ¬ tokenUnit ≤ x.mins.get 0 j) ∧ x.capWaits mayFerry c = true ∧ tokenUnit ≤ x.caps.get 0 c)
  pend : y.pend.get 0 c = x.pend.get 0 c - 1
  ferry : x.pend.get 0 c = 0 → y.ferry.get 0 c = x.ferry.get 0 c - 1 ∧ y.mins.get 0 c = x.mins.get 0 c

theorem sluiceServe_cases (x : Sluice) (mf : Nat → Bool) :
    ((sluiceServe x mf).served = none ∧ rrPick x.mins x.rrMin x.waits = none ∧ rrPick x.caps x.rrCap (x.capWaits mf) = none) ∨
    ∃ c, (sluiceServe x mf).served = some c ∧ x.Serves (sluiceServe x mf) mf c := by
  unfold sluiceServe
  split
  · next c h =>
    obtain ⟨hlt, hw, ht⟩ := rrPick_some h
    have hp : 0 < x.pend.get 0 c := of_decide_eq_true hw
    exact Or.inr ⟨c, rfl, hlt, Or.inl ⟨hw, ht⟩, by simp, by omega⟩
  · next hm =>
    split
    · next c h =>
      obtain ⟨hlt, hw, ht⟩ := rrPick_some h
      refine Or.inr ⟨c, by split <;> rfl, hlt, Or.inr ⟨rrPick_none.1 hm, hw, ht⟩, ?_, ?_⟩
      · split
        · simp
        · next hn =>
          have : x.pend.get 0 c = 0 := by simpa [Sluice.waits] using hn
          simp [this]
      · intro h0
        simp [Sluice.waits, h0]
    · next h => exact Or.inl ⟨rfl, hm, h⟩

theorem served_none_iff (x : Sluice) (mf : Nat → Bool) : (sluiceServe x mf).served = none ↔
    rrPick x.mins x.rrMin x.waits = none ∧ rrPick x.caps x.rrCap (x.capWaits mf) = none := by
  constructor
  · intro h
    obtain ⟨-, hm, hc⟩ | ⟨c, hs, -⟩ := sluiceServe_cases x mf
    · exact ⟨hm, hc⟩
    · rw [h] at hs; cases hs
  · rintro ⟨hm, hc⟩
    have hc' : rrPick x.caps x.rrCap (fun c => x.waits c || (decide (0 < x.ferry.get 0 c) && mf c)) = none := hc
    simp only [sluiceServe, hm, hc']

/-- The slot writes its own sluice, and the exports' count of what went. -/
theorem State.sluiceSlot_frame (s : State) (k n : Nat) :
    s.sluiceSlot k n = { s with sluices := (s.sluiceSlot k n).sluices, ferries := (s.sluiceSlot k n).ferries } ∧
    (s.sluiceSlot k n).sluice k = sluiceServe (s.sluiceComes k n) s.mayFerry := by
  unfold State.sluiceSlot
  extract_lets x y t
  have ht : t.sluice k = y := FMap.get_set_self ..
  split
  · split
    · exact ⟨rfl, ht⟩
    · exact ⟨rfl, ht⟩
  · exact ⟨rfl, ht⟩

end Sys2Proof.Machine

open Sys2Proof Sys2Proof.Machine

/-- Settles O36, by the pick of each bucket. -/
theorem sluiceServesATokenHolder : Obligations.SluiceServesATokenHolder := by
  intro s k n x mint capt waits ferry
  obtain ⟨hframe, hsluice⟩ := s.sluiceSlot_frame k n
  have hcap (j : Fin 18) : x.capWaits s.mayFerry j = true ↔ waits j ∨ ferry j := by
    simp [Sluice.capWaits, Sluice.waits, waits, ferry]
  refine ⟨s.sluiceSlot k n, rfl, hframe, ?_, ?_⟩
  · rw [hsluice, served_none_iff, rrPick_none, rrPick_none]
    change (∀ j : Fin 18, x.waits j = true → ¬ mint j) ∧ (∀ j : Fin 18, x.capWaits s.mayFerry j = true → ¬ capt j) ↔ _
    simp only [hcap, Sluice.waits, decide_eq_true_eq]
    exact ⟨fun ⟨hm, hc⟩ j => ⟨fun hw => ⟨hm j hw, hc j (Or.inl hw)⟩, fun hf => hc j (Or.inr hf)⟩,
      fun h => ⟨fun j hw => ((h j).1 hw).1, fun j hj => hj.elim (fun hw => ((h j).1 hw).2) (h j).2⟩⟩
  · intro g hg
    rw [hsluice] at hg ⊢
    obtain ⟨hn, -⟩ | ⟨c, hs, hc⟩ := sluiceServe_cases x s.mayFerry
    · cases hn.symm.trans hg
    · obtain rfl := Option.some.inj (hs.symm.trans hg)
      refine ⟨⟨c, hc.lt⟩, rfl, ?_, hc.pend, hc.ferry⟩
      obtain ⟨hw, ht⟩ | ⟨hn, hw, ht⟩ := hc.token
      · exact Or.inl ⟨of_decide_eq_true hw, ht⟩
      · exact Or.inr ⟨fun i hi => hn i (decide_eq_true hi), (hcap ⟨c, hc.lt⟩).1 hw, ht⟩

end

section
/-! SUPPORT. The link ports: which registers a field's write leaves alone, and what leaves all but one port as it was. -/

namespace Sys2Proof.Machine

/-- The registers that every link port has. -/
def portIds : List RegId := [.lnkStatus, .lnkCtrl, .lnkVcAlloc, .lnkPeer, .lnkPeerDev, .lnkErr, .lnkLane, .lnkPace]

theorem portIds_dims : ∀ id ∈ portIds, id.row.dims = [(16, 0x100000)] := by decide

theorem portIds_base : ∀ id ∈ portIds, ∀ j ∈ portIds, id ≠ j → id.row.base % 0x100000 ≠ j.row.base % 0x100000 := by decide

theorem portIds_addr {id : RegId} (h : id ∈ portIds) (p : Nat) : id.row.addr [p] = id.row.base + 0x100000 * p := by
  simp [RegRow.addr, portIds_dims id h, sumN_cons, sumN]

/-- Two registers of ports share no address, whatever their ports. -/
theorem portIds_addr_ne {id j : RegId} (hi : id ∈ portIds) (hj : j ∈ portIds) (h : id ≠ j) (p q : Nat) : id.row.addr [p] ≠ j.row.addr [q] := by
  have := portIds_base id hi j hj h
  rw [portIds_addr hi, portIds_addr hj]
  omega

theorem portIds_addr_port_ne {id : RegId} (hi : id ∈ portIds) {p q : Nat} (h : p ≠ q) : id.row.addr [p] ≠ id.row.addr [q] := by
  rw [portIds_addr hi, portIds_addr hi]
  omega

/-- Registers in different rows of the map share no address. -/
theorem RegId.addr_ne {id j : RegId} (h : id ≠ j) {ix jx : List Nat} (hi : indexesFit id.row.dims ix) (hj : indexesFit j.row.dims jx) :
    id.row.addr ix ≠ j.row.addr jx :=
  addr_ne_of_apart (((regIds_apart j (mem_regIds j)).2 id (mem_regIds id)).resolve_left h) hi hj

namespace State

variable (s : State)

@[simp] theorem regF_setRegF_port {id j : RegId} {p q : Nat} (hi : id ∈ portIds) (hj : j ∈ portIds) (h : j ≠ id) (hi' lo' hi lo v : Nat) :
    (s.setRegF id [p] hi lo v).regF j [q] hi' lo' = s.regF j [q] hi' lo' :=
  regF_setRegF_ne s id j _ _ _ _ _ _ _ (portIds_addr_ne hj ‹_› h q p)

theorem regF_setReg_port {id j : RegId} {p q : Nat} (hi : id ∈ portIds) (hj : j ∈ portIds) (h : j ≠ id) (hi' lo' : Nat) (v : Long) :
    (s.setReg id [p] v).regF j [q] hi' lo' = s.regF j [q] hi' lo' :=
  congrArg (getF · hi' lo') (reg_setReg_ne s id j _ _ v (portIds_addr_ne hj hi h q p))

theorem linkState_setRegF_ne {id : RegId} (hi : id ∈ portIds) (h : id ≠ .lnkStatus) (p q hi' lo' v : Nat) :
    (s.setRegF id [p] hi' lo' v).linkState q = s.linkState q :=
  regF_setRegF_port s hi (by decide) h.symm ..

theorem linkVersion_setRegF_ne {id : RegId} (hi : id ∈ portIds) (h : id ≠ .lnkStatus) (p q hi' lo' v : Nat) :
    (s.setRegF id [p] hi' lo' v).linkVersion q = s.linkVersion q :=
  regF_setRegF_port s hi (by decide) h.symm ..

@[simp] theorem linkState_modPort (p q : Nat) (f : Port → Port) : (s.modPort p f).linkState q = s.linkState q := rfl

@[simp] theorem linkVersion_modPort (p q : Nat) (f : Port → Port) : (s.modPort p f).linkVersion q = s.linkVersion q := rfl

@[simp] theorem linkState_owe (p q : Nat) (m : Msg) : (s.owe p m).linkState q = s.linkState q := rfl

theorem isUp_iff (p : Nat) : s.isUp p = true ↔ s.linkState p = 4 := beq_iff_eq

@[simp] theorem linkState_setLinkState (p v : Nat) : (s.setLinkState p v).linkState p = v % 16 :=
  regF_setRegF_self s _ _ _ _ _ (by omega) (by omega)

/-- A new state of the port leaves the other fields of LNK_STATUS. -/
theorem lnkStatus_setLinkState (p v : Nat) {hi lo : Nat} (h : hi < 60) :
    (s.setLinkState p v).regF .lnkStatus [p] hi lo = s.regF .lnkStatus [p] hi lo :=
  regF_setRegF_apart s _ _ _ _ _ _ _ (by omega) (by omega) (Or.inl h)

theorem linkVersion_setLinkState (p v : Nat) : (s.setLinkState p v).linkVersion p = s.linkVersion p :=
  lnkStatus_setLinkState s p v (by omega)

/-- Only registers and ports' records differ. -/
def RegsAndPorts (s t : State) : Prop := t = { s with mrs := t.mrs, ports := t.ports }

theorem RegsAndPorts.trans {s t u : State} (h : RegsAndPorts s t) (k : RegsAndPorts t u) : RegsAndPorts s u := by
  rw [RegsAndPorts] at h k ⊢
  rw [h] at k
  exact k

theorem regsAndPorts_setReg (id : RegId) (ix : List Nat) (v : Long) : RegsAndPorts s (s.setReg id ix v) := rfl

theorem regsAndPorts_setRegF (id : RegId) (ix : List Nat) (hi lo v : Nat) : RegsAndPorts s (s.setRegF id ix hi lo v) := rfl

theorem regsAndPorts_modPort (p : Nat) (f : Port → Port) : RegsAndPorts s (s.modPort p f) := rfl

/-! ### Entry to RETRAIN (R348) -/

theorem linkState_bump_count (p : Nat) : (s.bump .lnkStatus [p] 31 16).linkState p = s.linkState p :=
  regF_setRegF_apart s .lnkStatus [p] 31 16 _ 63 60 (by omega) (by omega) (by omega)

theorem goRetrain_of_up {p : Nat} (h : s.linkState p = 4) : s.goRetrain p =
    ((s.setLinkState p 5).bump .lnkStatus [p] 31 16).modPort p fun x => { x with trained := 0, offer := none, naks := 0 } := by
  rw [goRetrain, if_pos ((s.isUp_iff p).2 h)]

theorem goRetrain_of_ne {p : Nat} (h : s.linkState p ≠ 4) : s.goRetrain p = s := if_neg fun h' => h ((s.isUp_iff p).1 h')

theorem linkState_goRetrain (p : Nat) : (s.goRetrain p).linkState p = if s.linkState p = 4 then 5 else s.linkState p := by
  by_cases h : s.linkState p = 4
  · rw [s.goRetrain_of_up h, if_pos h, linkState_modPort, linkState_bump_count, linkState_setLinkState]
  · rw [s.goRetrain_of_ne h, if_neg h]

/-- What RETRAIN makes of the port's record. -/
theorem port_goRetrain (p : Nat) : (s.goRetrain p).port p =
    if s.linkState p = 4 then { s.port p with trained := 0, offer := none, naks := 0 } else s.port p := by
  by_cases h : s.linkState p = 4
  · rw [s.goRetrain_of_up h, if_pos h, port_modPort_self]; rfl
  · rw [s.goRetrain_of_ne h, if_neg h]

/-! ### The receive buffer (R361) -/

/-- The state after the message m was taken out of port p's receive buffer, which then holds the rest. -/
def inboxTaken (p : Nat) (m : Msg) (rest : List Msg) : State := (s.modPort p fun x => { x with inbox := rest }).owe p m

theorem inbox_inboxTaken (p : Nat) (m : Msg) (rest : List Msg) : ((s.inboxTaken p m rest).port p).inbox = rest := by
  simp [inboxTaken, owe]

theorem badLanes_inboxTaken (p : Nat) (m : Msg) (rest : List Msg) : ((s.inboxTaken p m rest).port p).badLanes = (s.port p).badLanes := by
  simp [inboxTaken, owe]

theorem linkState_inboxTaken (p q : Nat) (m : Msg) (rest : List Msg) : (s.inboxTaken p m rest).linkState q = s.linkState q := rfl

theorem regsAndPorts_inboxTaken (p : Nat) (m : Msg) (rest : List Msg) : RegsAndPorts s (s.inboxTaken p m rest) := rfl

/-- A message of VC 4 at the front of the receive buffer is the first of its type. -/
theorem takeInbox_head {p : Nat} {m : Msg} {rest : List Msg} {want : Msg → Bool} (h : (s.port p).inbox = m :: rest) (hw : want m = true)
    (hv : m.vc = 4) : s.takeInbox p want = some (m, s.inboxTaken p m rest) := by
  have hix : (s.port p).inbox.findIdx? (fun m => want m && !(m.vc != 4 && (s.cl (p / 2)).restarting)) = some 0 := by
    simp [h, List.findIdx?_cons, hw, hv]
  have hget : (s.port p).inbox[0]? = some m := by rw [h]; rfl
  have hmod : (s.modPort p fun x => { x with inbox := x.inbox.eraseIdx 0 }) = s.modPort p fun x => { x with inbox := rest } := by
    simp [modPort, h]
  simp only [takeInbox, hix, hget, hmod, inboxTaken]

end State
end Sys2Proof.Machine
end

section
/-! PROOF. LINK_HEALTH and PACE. -/

namespace Sys2Proof.Machine

theorem Msg.vc_of_control {m : Msg} (h : m.mtype = 0x33 ∨ m.mtype = 0x30) : m.vc = 4 := by
  obtain h | h := h <;> simp [Msg.vc, Msg.type, h, vcOf]

theorem fromLE_lt (l : List Byte) : fromLE l < 256 ^ l.length := by
  induction l with
  | nil => exact Nat.one_pos
  | cons b l ih =>
    have hb : b.toNat < 256 := b.isLt
    have hpow : 256 ^ (b :: l).length = 256 * 256 ^ l.length := by rw [List.length_cons, Nat.pow_succ, Nat.mul_comm]
    rw [hpow]
    simp only [fromLE]
    omega

theorem be_lt (l : List Byte) (o n : Nat) : be l o n < 256 ^ n := by
  refine (fromLE_lt _).trans_le (Nat.pow_le_pow_right (by decide) ?_)
  rw [List.length_reverse]
  exact List.length_take_le _ _

namespace State

variable (s : State)

theorem healthSend_of_up {p : Nat} (h : s.linkState p = 4) (hv : s.linkVersion p = 3) : s.healthSend p =
    s.queueMsg (s.newMsg 0x33 true s.moduleIx [] 0 [BitVec.ofNat 8 (s.regF .lnkLane [p] 7 0), 0, 0, 0]) (BitVec.ofNat 16 (2 ^ p)) .plain := by
  simp [healthSend, isUp, h, hv]

theorem healthSend_of_version_ne {p : Nat} (hv : s.linkVersion p ≠ 3) : s.healthSend p = s := by simp [healthSend, hv]

/-- The lanes in use that a LINK_HEALTH names. -/
def lanesNamed (p : Nat) (m : Msg) : Byte := m.data.headD 0 &&& BitVec.ofNat 8 (s.regF .lnkLane [p] 23 16)

theorem healthReceive_eq {p : Nat} {m : Msg} {rest : List Msg} (h : (s.port p).inbox = m :: rest) (hm : m.mtype = 0x33) :
    s.healthReceive p = if s.lanesNamed p m = 0 then s.inboxTaken p m rest
      else ((s.inboxTaken p m rest).modPort p fun x => { x with badLanes := x.badLanes ||| s.lanesNamed p m }).goRetrain p := by
  rw [healthReceive, s.takeInbox_head h (by simp [Msg.type, hm]) (Msg.vc_of_control (Or.inl hm))]
  rfl

/-- A LINK_HEALTH at the front of the buffer is taken; the lanes in use that it names are marked, and an UP port retrains for one. -/
theorem healthReceive_effect {p : Nat} {m : Msg} {rest : List Msg} (h : (s.port p).inbox = m :: rest) (hm : m.mtype = 0x33) :
    ((s.healthReceive p).port p).inbox = rest ∧ ((s.healthReceive p).port p).badLanes = (s.port p).badLanes ||| s.lanesNamed p m ∧
      (s.healthReceive p).linkState p = if s.lanesNamed p m ≠ 0 ∧ s.linkState p = 4 then 5 else s.linkState p := by
  have hinbox := s.inbox_inboxTaken p m rest
  have hbad := s.badLanes_inboxTaken p m rest
  have hstate := s.linkState_inboxTaken p p m rest
  rw [s.healthReceive_eq h hm]
  generalize s.inboxTaken p m rest = t at hinbox hbad hstate
  generalize s.lanesNamed p m = bad
  by_cases hb : bad = 0
  · simp [hb, hinbox, hbad, hstate]
  · rw [if_neg hb, linkState_goRetrain, port_goRetrain, linkState_modPort, port_modPort_self, hstate]
    by_cases h4 : s.linkState p = 4 <;> simp [h4, hinbox, hbad, show ¬ bad = 0#8 from hb]

theorem paceReceive_eq {p : Nat} {m : Msg} {rest : List Msg} (h : (s.port p).inbox = m :: rest) (hm : m.mtype = 0x30) : s.paceReceive p =
    (((s.inboxTaken p m rest).setRegF .lnkPace [p] 63 48 (be m.data 2 2)).setRegF .lnkPace [p] 33 32 (be m.data 0 1 % 4)).setRegF .lnkPace [p]
      34 34 (if be m.data 0 1 % 4 = 0 then 0 else 1) := by
  rw [paceReceive, s.takeInbox_head h (by simp [Msg.type, hm]) (Msg.vc_of_control (Or.inr hm))]

/-- The factor of LNK_PACE, its mark and its number, as they are written one after another. -/
theorem lnkPace_written (t : State) (p n f b : Nat) (hn : n < 2 ^ 16) (hf : f < 4) (hb : b < 2) :
    let u := ((t.setRegF .lnkPace [p] 63 48 n).setRegF .lnkPace [p] 33 32 f).setRegF .lnkPace [p] 34 34 b
    u.regF .lnkPace [p] 63 48 = n ∧ u.regF .lnkPace [p] 33 32 = f ∧ u.regF .lnkPace [p] 34 34 = b := by
  intro u
  refine ⟨?_, ?_, ?_⟩
  · rw [regF_setRegF_apart _ _ _ _ _ _ _ _ (by omega) (by omega) (by omega), regF_setRegF_apart _ _ _ _ _ _ _ _ (by omega) (by omega) (by omega),
      regF_setRegF_self _ _ _ _ _ _ (by omega) (by omega)]
    exact Nat.mod_eq_of_lt hn
  · rw [regF_setRegF_apart _ _ _ _ _ _ _ _ (by omega) (by omega) (by omega), regF_setRegF_self _ _ _ _ _ _ (by omega) (by omega)]
    exact Nat.mod_eq_of_lt hf
  · rw [regF_setRegF_self _ _ _ _ _ _ (by omega) (by omega)]
    exact Nat.mod_eq_of_lt hb

/-- PACE_NOTICE_DUE queues one notice per port, behind what waits of other kinds. -/
theorem waiting_foldl_queueMsg {α : Type} (g : State → α → Msg × Half) (hg : ∀ t a w, g { t with waiting := w } a = g t a) (l : List α) (t : State) :
    l.foldl (fun t a => t.queueMsg (g t a).1 (g t a).2 .plain) t =
      { t with waiting := t.waiting ++ l.map fun a => ⟨(g t a).1, (g t a).2, none, .plain⟩ } := by
  induction l generalizing t with
  | nil => simp
  | cons a l ih =>
    rw [List.foldl_cons, ih]
    have hq : t.queueMsg (g t a).1 (g t a).2 .plain = { t with waiting := t.waiting ++ [⟨(g t a).1, (g t a).2, none, .plain⟩] } := rfl
    rw [hq]
    simp only [hg, List.map_cons, List.append_assoc, List.singleton_append]

/-- The notice that a port gets. -/
def paceMsg (s : State) (p : Nat) : Waiting :=
  ⟨s.newMsg 0x30 true s.moduleIx [] 0 ([BitVec.ofNat 8 (s.regF .sluSummary [] 33 32), 0] ++ beBytes 2 (s.paceSeq + 1).toNat),
    BitVec.ofNat 16 (2 ^ p), none, .plain⟩

theorem paceNotice_eq (h : s.paceDue = true ∨ ∃ st : StackId, (s.stack st).pacing = true) : s.paceNotice =
    { s with paceSeq := s.paceSeq + 1, paceDue := false,
             waiting := s.waiting.filter (fun w => !(w.msg.type == 0x30 && w.origin.isNone)) ++
               ((List.range 16).filter fun p => (s.linkState p == 4 || s.linkState p == 5) && decide (2 ≤ s.linkVersion p)).map s.paceMsg } := by
  have hdue : (s.paceDue || (List.range 8).any fun st => (s.stack st).pacing) = true := by
    rw [Bool.or_eq_true, List.any_eq_true]
    exact h.imp id fun ⟨st, hst⟩ => ⟨st, List.mem_range.2 st.isLt, hst⟩
  rw [paceNotice, if_pos hdue]
  exact waiting_foldl_queueMsg (fun (t : State) (p : Nat) => (t.newMsg 0x30 true t.moduleIx [] 0
    ([BitVec.ofNat 8 (s.regF .sluSummary [] 33 32), 0] ++ beBytes 2 (s.paceSeq + 1).toNat), BitVec.ofNat 16 (2 ^ p))) (fun _ _ _ => rfl) _ _

end State
end Sys2Proof.Machine

open Sys2Proof Sys2Proof.Machine

/-- Settles O43. -/
theorem healthAndPaceNotices : Obligations.HealthAndPaceNotices := by
  refine ⟨fun s p => ⟨?_, ?_, ?_, ?_, ?_⟩, ?_⟩
  · intro h4 hv
    exact ⟨_, _, congrArg Host.Outcome.next (s.healthSend_of_up h4 hv), rfl, rfl, rfl, rfl, rfl⟩
  · exact fun hv => congrArg Host.Outcome.next (s.healthSend_of_version_ne hv)
  · exact fun m rest h hm => ⟨_, rfl, s.healthReceive_effect h hm⟩
  · intro m rest h hm
    have hexec : exec (.pace p) s = .next (s.paceReceive p) := rfl
    obtain ⟨hnum, hfactor, hmark⟩ := State.lnkPace_written (s.inboxTaken p m rest) p (be m.data 2 2) (be m.data 0 1 % 4)
      (if be m.data 0 1 % 4 = 0 then 0 else 1) (be_lt _ 2 2) (Nat.mod_lt _ (by decide)) (by split <;> decide)
    rw [hexec, s.paceReceive_eq h hm]
    refine ⟨_, rfl, s.inbox_inboxTaken p m rest, ?_, hnum, hfactor, hmark⟩
    exact (((s.regsAndPorts_inboxTaken p m rest).trans (State.regsAndPorts_setRegF _ ..)).trans (State.regsAndPorts_setRegF _ ..)).trans
      (State.regsAndPorts_setRegF _ ..)
  · refine ⟨s.paceExpiry p, rfl, rfl, ?_, ?_, ?_, ?_⟩
    · exact State.sameRegsBut_mono (State.sameRegsBut_trans (State.sameRegsBut_setRegF (s := s) .lnkPace [p] 33 32 0)
      (State.sameRegsBut_setRegF .lnkPace [p] 34 34 0)) (by simp)
    · exact (State.regF_setRegF_apart _ _ _ _ _ _ _ _ (by omega) (by omega) (by omega)).trans
        (State.regF_setRegF_self s _ _ _ _ _ (by omega) (by omega))
    · exact State.regF_setRegF_self _ _ _ _ _ _ (by omega) (by omega)
    · exact (State.regF_setRegF_apart _ _ _ _ _ _ _ _ (by omega) (by omega) (by omega)).trans
        (State.regF_setRegF_apart s _ _ _ _ _ _ _ (by omega) (by omega) (by omega))
  · intro s h
    have hexec : exec .paceNoticeDue s = .next s.paceNotice := rfl
    refine ⟨_, hexec.trans (congrArg Host.Outcome.next (s.paceNotice_eq h)), rfl, ?_, ?_⟩
    · intro p hst hv
      refine ⟨s.paceMsg p, List.mem_append_right _ (List.mem_map_of_mem (List.mem_filter.2 ⟨List.mem_range.2 p.isLt, ?_⟩)), rfl, rfl⟩
      simpa [hv] using hst
    · intro w hw htype horig
      obtain hw | hw := List.mem_append.1 hw
      · simp [Msg.type, htype, horig] at hw
      · obtain ⟨p, -, rfl⟩ := List.mem_map.1 hw
        rfl

end

section
/-! PROOF. Stack temperature: what a report and a fall of the level do to SLU_HEAT, and what they leave. -/

namespace Sys2Proof.Machine
namespace State

variable {s t u : State} {st : Nat}

/-- What stack heat can change: registers, stacks, the pace notice, and a report's record. -/
def HeatChanges (s t : State) : Prop :=
  t = { s with mrs := t.mrs, hbm := t.hbm, dieSeen := t.dieSeen, paceDue := t.paceDue, sessions := t.sessions, out := t.out,
               waitOut := t.waitOut, keeper := t.keeper }

theorem HeatChanges.trans (h : HeatChanges s t) (k : HeatChanges t u) : HeatChanges s u := by
  rw [HeatChanges] at h k ⊢
  rw [h] at k
  exact k

theorem heatChanges_of_reports (h : Reports s t) : HeatChanges s t := by
  rw [Reports] at h
  rw [HeatChanges, h]

theorem heatChanges_of_counts (h : Counts s t) : HeatChanges s t := by
  rw [Counts] at h
  rw [HeatChanges, h]

theorem heatChanges_setRegF (id : RegId) (ix : List Nat) (hi lo v : Nat) : HeatChanges s (s.setRegF id ix hi lo v) := rfl

theorem heatChanges_modStack (f : Stack → Stack) : HeatChanges s (s.modStack st f) := rfl

theorem HeatChanges.sameMem (h : HeatChanges s t) : SameMem s t := by
  rw [HeatChanges] at h
  rw [h]
  exact fun pl a => by cases pl <;> rfl

theorem HeatChanges.cores (h : HeatChanges s t) : t.cores = s.cores := by
  rw [HeatChanges] at h
  rw [h]

/-- Heat changes, and the stack's SLU_HEAT reads as before. -/
structure SluHeatKept (st : Nat) (s t : State) : Prop where
  frame : HeatChanges s t
  reg : t.reg .sluHeat [st] = s.reg .sluHeat [st]

theorem SluHeatKept.trans (h : SluHeatKept st s t) (k : SluHeatKept st t u) : SluHeatKept st s u := ⟨h.frame.trans k.frame, k.reg.trans h.reg⟩

theorem SluHeatKept.regF (h : SluHeatKept st s t) (hi lo : Nat) : t.regF .sluHeat [st] hi lo = s.regF .sluHeat [st] hi lo :=
  congrArg (getF · hi lo) h.reg

theorem sluHeatKept_modStack (k : Nat) (f : Stack → Stack) : SluHeatKept st s (s.modStack k f) := ⟨rfl, rfl⟩

theorem sluHeat_addr_eq (st : Nat) : RegId.sluHeat.row.addr [st] = 0x0A000000 + 0x80000 * st := by
  simp [RegRow.addr, RegId.row, sumN_cons, sumN]

theorem sluHeatKept_setSummary (hi lo v : Nat) : SluHeatKept st s (s.setRegF .sluSummary [] hi lo v) :=
  ⟨rfl, reg_setRegF_ne s _ _ _ _ _ _ _ (by rw [sluHeat_addr_eq, show RegId.sluSummary.row.addr [] = 0x00030008 from rfl]; omega)⟩

theorem sluHeatKept_pmcDie (ev unit n : Nat) : SluHeatKept st s (s.pmcDie ev unit n) :=
  ⟨heatChanges_of_counts (pmcDie_frame s ev unit n), reg_of_sameRegsBut (sameRegsBut_pmcDie ev unit n) fun h => by
    have := le_of_mem_dieCounters h
    rw [sluHeat_addr_eq] at this
    omega⟩

theorem sluHeatKept_record (severity code : Nat) (part : Option Nat) (unit : Nat) (step : Option Word) (addr : Option Nat) (detail : List Byte) :
    SluHeatKept st s (s.record severity code part unit step addr detail) :=
  ⟨heatChanges_of_reports (record_frame s ..), reg_of_sameRegsBut (readyStands_record severity code part unit step addr detail).regs (by
    rw [List.mem_singleton, sluHeat_addr_eq]
    exact fun h => by have : (0x0A000000 + 0x80000 * st : Nat) = 0x00000008 := h; omega)⟩

/-- A pace notice that falls due moves no register. -/
theorem sluHeatKept_notePacing : SluHeatKept st s (s.notePacing st) := by
  unfold notePacing
  extract_lets hot was u any
  have hu : SluHeatKept st s u := sluHeatKept_modStack st _
  have hdue : SluHeatKept st u { u with paceDue := true } := ⟨rfl, rfl⟩
  clear_value u
  split
  · exact hu.trans hdue
  · split
    · exact hu.trans hdue
    · exact hu

/-- A new level: SLU_HEAT's LEVEL, and the summary of all stacks. -/
theorem sluHeatKept_setLevel (l : Nat) : SluHeatKept st (s.setRegF .sluHeat [st] 39 36 l) (s.setLevel st l) :=
  (sluHeatKept_setSummary (4 * st + 3) (4 * st) l).trans (sluHeatKept_setSummary 33 32 _)

theorem level_setLevel (l : Nat) : (s.setLevel st l).level st = l % 16 :=
  ((sluHeatKept_setLevel l).regF 39 36).trans (regF_setRegF_self s _ _ _ _ _ (by omega) (by omega))

/-- A new level leaves the other fields of SLU_HEAT. -/
theorem sluHeat_setLevel (l : Nat) {hi lo : Nat} (h : hi < 36 ∨ 39 < lo) :
    (s.setLevel st l).regF .sluHeat [st] hi lo = s.regF .sluHeat [st] hi lo :=
  ((sluHeatKept_setLevel l).regF hi lo).trans (regF_setRegF_apart s _ _ _ _ _ _ _ (by omega) (by omega) h)

theorem heatChanges_setLevel (l : Nat) : HeatChanges s (s.setLevel st l) := (heatChanges_setRegF ..).trans (sluHeatKept_setLevel l).frame

/-! ### A report (R331, R333, R335) -/

variable (s st) (temp : Nat)

/-- The report raises the level: at or above THRESH, the first one always, a later one a whole report after the last rise. -/
def heatRises : Bool :=
  if s.regF .sluHeat [st] 35 35 = 0 then decide (s.regF .sluHeat [st] 47 40 ≤ temp)
  else decide (s.regF .sluHeat [st] 47 40 ≤ temp ∧ s.level st < 7 ∧ 2 ≤ (s.stack st).sinceRise + 1)

/-- The temperature is shown, and the report counted since the last rise and among the cool ones. -/
def heatShown : State :=
  ((s.setRegF .sluHeat [st] 63 56 temp).setRegF .sluHeat [st] 35 35 1).modStack st fun x =>
    { x with sinceRise := if s.heatRises st temp then 0 else min 2 ((s.stack st).sinceRise + 1),
             cool := if temp + 3 ≤ s.regF .sluHeat [st] 47 40 then (s.stack st).cool + 1 else 0 }

/-- The level that the report leaves. -/
def heatLevelled : State :=
  if s.regF .sluHeat [st] 35 35 = 0 then (s.heatShown st temp).setLevel st (if s.heatRises st temp then 1 else 0)
  else if s.heatRises st temp then (s.heatShown st temp).setLevel st (s.level st + 1) else s.heatShown st temp

/-- The rise is counted, and a pace notice may fall due. -/
def heatNoted : State :=
  (if s.heatRises st temp then (s.heatLevelled st temp).pmcDie 0x86 st 1 else s.heatLevelled st temp).notePacing st

theorem heatReport_stopped (h : s.regF .sluHeat [st] 34 34 = 1 ∨ 144 + st ∈ s.off) : s.heatReport st temp = s :=
  if_pos (h.imp id fun h => by simpa [hasN] using h)

theorem heatReport_eq (h : s.regF .sluHeat [st] 34 34 = 0) (ho : 144 + st ∉ s.off) : s.heatReport st temp =
    if 110 ≤ temp then ((s.heatNoted st temp).setRegF .sluHeat [st] 34 34 1).record 4 0x0030 none st none none [BitVec.ofNat 8 temp]
    else s.heatNoted st temp := by
  have hrun : ¬ (s.regF .sluHeat [st] 34 34 = 1 ∨ hasN s.off (144 + st) = true) := by
    rw [h]
    simpa [hasN] using ho
  rw [heatReport, if_neg hrun]
  rfl

variable {s st temp}

theorem heatChanges_heatShown : HeatChanges s (s.heatShown st temp) :=
  ((heatChanges_setRegF ..).trans (heatChanges_setRegF ..)).trans (heatChanges_modStack _)

theorem sluHeat_heatShown_temp : (s.heatShown st temp).regF .sluHeat [st] 63 56 = temp % 256 := by
  rw [heatShown, regF_modStack, regF_setRegF_apart _ _ _ _ _ _ _ _ (by omega) (by omega) (by omega)]
  exact regF_setRegF_self s _ _ _ _ _ (by omega) (by omega)

theorem sluHeat_heatShown_valid : (s.heatShown st temp).regF .sluHeat [st] 35 35 = 1 := by
  rw [heatShown, regF_modStack]
  exact regF_setRegF_self _ _ _ _ _ _ (by omega) (by omega)

theorem sluHeat_heatShown {hi lo : Nat} (h : hi < 35 ∨ 35 < lo ∧ hi < 56) :
    (s.heatShown st temp).regF .sluHeat [st] hi lo = s.regF .sluHeat [st] hi lo := by
  rw [heatShown, regF_modStack, regF_setRegF_apart _ _ _ _ _ _ _ _ (by omega) (by omega) (by omega)]
  exact regF_setRegF_apart s _ _ _ _ _ _ _ (by omega) (by omega) (by omega)

theorem heatLevelled_cases : s.heatLevelled st temp = s.heatShown st temp ∨
    ∃ l, s.heatLevelled st temp = (s.heatShown st temp).setLevel st l := by
  rw [heatLevelled]
  split
  · exact Or.inr ⟨_, rfl⟩
  · split
    · exact Or.inr ⟨_, rfl⟩
    · exact Or.inl rfl

theorem heatChanges_heatLevelled : HeatChanges s (s.heatLevelled st temp) := by
  obtain h | ⟨l, h⟩ := s.heatLevelled_cases (st := st) (temp := temp) <;> rw [h]
  · exact heatChanges_heatShown
  · exact heatChanges_heatShown.trans (heatChanges_setLevel l)

/-- The fields but LEVEL are as the report shows them. -/
theorem sluHeat_heatLevelled {hi lo : Nat} (h : hi < 36 ∨ 39 < lo) :
    (s.heatLevelled st temp).regF .sluHeat [st] hi lo = (s.heatShown st temp).regF .sluHeat [st] hi lo := by
  obtain e | ⟨l, e⟩ := s.heatLevelled_cases (st := st) (temp := temp) <;> rw [e]
  exact sluHeat_setLevel l h

theorem level_heatLevelled_first (h : s.regF .sluHeat [st] 35 35 = 0) :
    (s.heatLevelled st temp).level st = if s.regF .sluHeat [st] 47 40 ≤ temp then 1 else 0 := by
  rw [heatLevelled, if_pos h, level_setLevel, heatRises, if_pos h]
  by_cases ht : s.regF .sluHeat [st] 47 40 ≤ temp <;> simp [ht]

theorem level_heatLevelled_later (h : s.regF .sluHeat [st] 35 35 = 1) : (s.heatLevelled st temp).level st =
    if s.regF .sluHeat [st] 47 40 ≤ temp ∧ s.level st < 7 ∧ 1 ≤ (s.stack st).sinceRise then s.level st + 1 else s.level st := by
  have h0 : ¬ s.regF .sluHeat [st] 35 35 = 0 := by omega
  have hrise : s.heatRises st temp = decide (s.regF .sluHeat [st] 47 40 ≤ temp ∧ s.level st < 7 ∧ 1 ≤ (s.stack st).sinceRise) := by
    rw [heatRises, if_neg h0]
    exact decide_eq_decide.2 ⟨fun ⟨a, b, c⟩ => ⟨a, b, by omega⟩, fun ⟨a, b, c⟩ => ⟨a, b, by omega⟩⟩
  rw [heatLevelled, if_neg h0, hrise]
  by_cases hr : s.regF .sluHeat [st] 47 40 ≤ temp ∧ s.level st < 7 ∧ 1 ≤ (s.stack st).sinceRise
  · rw [if_pos (decide_eq_true hr), if_pos hr, level_setLevel]
    omega
  · rw [if_neg (by simpa using hr), if_neg hr]
    exact sluHeat_heatShown (by omega)

theorem sluHeatKept_heatNoted : SluHeatKept st (s.heatLevelled st temp) (s.heatNoted st temp) := by
  rw [heatNoted]
  split
  · exact (sluHeatKept_pmcDie _ _ _).trans sluHeatKept_notePacing
  · exact sluHeatKept_notePacing

theorem heatChanges_heatReport (h : s.regF .sluHeat [st] 34 34 = 0) (ho : 144 + st ∉ s.off) : HeatChanges s (s.heatReport st temp) := by
  have hn : HeatChanges s (s.heatNoted st temp) := heatChanges_heatLevelled.trans sluHeatKept_heatNoted.frame
  rw [s.heatReport_eq st temp h ho]
  split
  · exact (hn.trans (heatChanges_setRegF ..)).trans (sluHeatKept_record (st := st) ..).frame
  · exact hn

/-- The fields but the trip are those of the level set. -/
theorem sluHeat_heatReport (h : s.regF .sluHeat [st] 34 34 = 0) (ho : 144 + st ∉ s.off) {hi lo : Nat} (hf : hi < 34 ∨ 34 < lo) :
    (s.heatReport st temp).regF .sluHeat [st] hi lo = (s.heatLevelled st temp).regF .sluHeat [st] hi lo := by
  rw [s.heatReport_eq st temp h ho, ← sluHeatKept_heatNoted.regF hi lo]
  split
  · exact ((sluHeatKept_record ..).regF hi lo).trans (regF_setRegF_apart _ _ _ _ _ _ _ _ (by omega) (by omega) hf)
  · rfl

theorem sluHeat_heatReport_trip (h : s.regF .sluHeat [st] 34 34 = 0) (ho : 144 + st ∉ s.off) :
    110 ≤ temp ↔ (s.heatReport st temp).regF .sluHeat [st] 34 34 = 1 := by
  rw [s.heatReport_eq st temp h ho]
  by_cases ht : 110 ≤ temp
  · rw [if_pos ht]
    exact iff_of_true ht (((sluHeatKept_record ..).regF 34 34).trans (regF_setRegF_self _ _ _ _ _ _ (by omega) (by omega)))
  · rw [if_neg ht, sluHeatKept_heatNoted.regF, sluHeat_heatLevelled (by omega), sluHeat_heatShown (by omega), h]
    exact iff_of_false ht (by decide)

/-! ### A fall (R333), and a write of SLU_HEAT (R340) -/

theorem heatFall_effect (hc : 20 ≤ (s.stack st).cool) (h1 : 1 ≤ s.level st) (h7 : s.level st ≤ 7) :
    (s.heatFall st).level st = s.level st - 1 ∧ HeatChanges s (s.heatFall st) := by
  rw [heatFall, if_pos ⟨hc, h1, h7⟩]
  refine ⟨(sluHeatKept_notePacing.regF 39 36).trans ((level_setLevel _).trans (by omega)), ?_⟩
  exact ((heatChanges_modStack _).trans (heatChanges_setLevel _)).trans sluHeatKept_notePacing.frame

theorem getF_testBit (w : Long) (hi lo i : Nat) : (getF w hi lo).testBit i = (decide (i < hi + 1 - lo) && w.toNat.testBit (lo + i)) :=
  fld_testBit _ _ _ _

/-- The bits of a word that a write by the access codes leaves. -/
theorem codeWritten_testBit (r : RegRow) (old v : Long) {i : Nat} (hw1c : r.w1c.getLsbD i = false) :
    (codeWritten r old v).toNat.testBit i = if r.rw.getLsbD i then v.toNat.testBit i else old.toNat.testBit i := by
  simp only [codeWritten, BitVec.testBit_toNat, BitVec.getLsbD_and, BitVec.getLsbD_or, BitVec.getLsbD_not, hw1c, Bool.and_false, Bool.not_false]
  by_cases h64 : i < 64
  · cases r.rw.getLsbD i <;> simp [h64]
  · cases r.rw.getLsbD i <;> simp [h64, BitVec.getLsbD_of_ge old _ (not_lt.1 h64), BitVec.getLsbD_of_ge v _ (not_lt.1 h64)]

theorem getLsbD_of_getF_zero {w : Long} {hi lo i : Nat} (h : getF w hi lo = 0) (hi' : i < hi + 1 - lo) : w.getLsbD (lo + i) = false := by
  have hbit := getF_testBit w hi lo i
  rw [h, Nat.zero_testBit] at hbit
  simpa [hi', BitVec.testBit_toNat] using hbit.symm

/-- The bits of a field that a register lets be written take the value's. -/
theorem getF_codeWritten {r : RegRow} (old v : Long) {hi lo : Nat} (h : getF r.w1c hi lo = 0) (hrw : getF r.rw hi lo = 2 ^ (hi + 1 - lo) - 1) :
    getF (codeWritten r old v) hi lo = getF v hi lo := by
  refine Nat.eq_of_testBit_eq fun i => ?_
  rw [getF_testBit, getF_testBit]
  by_cases hi' : i < hi + 1 - lo
  · have hbit := getF_testBit r.rw hi lo i
    rw [hrw, Nat.testBit_two_pow_sub_one] at hbit
    have hset : r.rw.getLsbD (lo + i) = true := by simpa [hi', BitVec.testBit_toNat] using hbit.symm
    rw [codeWritten_testBit r old v (getLsbD_of_getF_zero h hi'), if_pos hset]
  · simp [hi']

/-- The bits of a field that a register does not let be written stay. -/
theorem getF_codeWritten_kept {r : RegRow} (old v : Long) {hi lo : Nat} (h : getF r.w1c hi lo = 0) (hrw : getF r.rw hi lo = 0) :
    getF (codeWritten r old v) hi lo = getF old hi lo := by
  refine Nat.eq_of_testBit_eq fun i => ?_
  rw [getF_testBit, getF_testBit]
  by_cases hi' : i < hi + 1 - lo
  · rw [codeWritten_testBit r old v (getLsbD_of_getF_zero h hi'), if_neg (by simp [getLsbD_of_getF_zero hrw hi'])]
  · simp [hi']

end State
end Sys2Proof.Machine

open Sys2Proof Sys2Proof.Machine

theorem temperatureReportsSetTheLevel : Claims.TemperatureReportsSetTheLevel := by
  intro s st temp
  refine ⟨fun h => congrArg Host.Outcome.next (s.heatReport_stopped st temp.toNat h), fun h ho => ⟨s.heatReport st temp.toNat, rfl, ?_⟩⟩
  have hframe := State.heatChanges_heatReport (temp := temp.toNat) h ho
  refine ⟨?_, ?_, fun hf => ?_, fun hl => ?_, State.sluHeat_heatReport_trip h ho, hframe.sameMem, hframe.cores⟩
  · rw [State.sluHeat_heatReport h ho (by omega), State.sluHeat_heatLevelled (by omega), State.sluHeat_heatShown_temp]
    exact Nat.mod_eq_of_lt temp.isLt
  · rw [State.sluHeat_heatReport h ho (by omega), State.sluHeat_heatLevelled (by omega), State.sluHeat_heatShown_valid]
  · exact (State.sluHeat_heatReport h ho (by omega)).trans (State.level_heatLevelled_first hf)
  · exact (State.sluHeat_heatReport h ho (by omega)).trans (State.level_heatLevelled_later hl)

theorem heatAndDerate : Claims.HeatAndDerate := by
  refine ⟨fun s st hc h1 h7 => ?_, fun s st v => ⟨fun hu hr h85 h105 => ?_, fun h => ?_⟩, fun s k => ⟨?_, ?_⟩⟩
  · obtain ⟨hlevel, hframe⟩ := State.heatFall_effect hc h1 h7
    exact ⟨_, rfl, hlevel, hframe.sameMem, hframe.cores⟩
  · have hexec : exec (.sluHeatWrite st v) s = .next (s.plainWrite .sluHeat [st] v) := by
      change Host.Outcome.next (s.wroteAt .sluHeat [st] (s.wrHeat st v)) = _
      rw [State.wrHeat, if_pos ⟨h85, h105⟩, State.wroteAt, hu, hr]
      rfl
    have hth := State.getF_codeWritten (r := RegId.sluHeat.row) (s.reg .sluHeat [st]) v (hi := 47) (lo := 40) (by decide) (by decide)
    have hlv := State.getF_codeWritten_kept (r := RegId.sluHeat.row) (s.reg .sluHeat [st]) v (hi := 39) (lo := 36) (by decide) (by decide)
    refine ⟨_, hexec, State.onlyRegs_plainWrite s _ _ _, ?_, ?_⟩
    · rw [State.regF, State.reg_plainWrite_self, hth]
    · rw [State.level, State.level, State.regF, State.regF, State.reg_plainWrite_self, hlv]
  · change Host.Outcome.next (s.wroteAt .sluHeat [st] (s.wrHeat st v)) = _
    rw [State.wrHeat, if_neg (by omega), State.wroteAt]
    split <;> rfl
  · have hexec : exec (.lpddrRefreshDerate k) s = .next (if hasN s.derated k then s else { s with derated := s.derated ++ [k.val] }) := rfl
    rw [hexec]
    by_cases hk : hasN s.derated k = true
    · rw [if_pos hk]
      exact ⟨s, rfl, by simpa [hasN] using hk, rfl, fun _ => id⟩
    · rw [if_neg hk]
      exact ⟨_, rfl, by simp, rfl, fun j hj => List.mem_append_left _ hj⟩
  · exact ⟨_, rfl, rfl, rfl⟩

/-- Settles O37. -/
theorem stackTemperature : Obligations.StackTemperature := ⟨temperatureReportsSetTheLevel, heatAndDerate⟩

end

section
/-! PROOF. The Confluence: a beat's waits, its longest waiter, its winner, and what the others get. -/

namespace Sys2Proof.Machine

theorem hasN_eq (l : List Nat) (a : Nat) : hasN l a = decide (a ∈ l) := by simp [hasN, List.any_eq]

/-! ### The longest waiter and the ordinary winner (R307) -/

/-- The strict order of waits: the earlier start, then the lower index. -/
abbrev Waits (since : Nat → Nat) (a b : Nat) : Prop := since a < since b ∨ (since a = since b ∧ a < b)

theorem Waits.trans {since : Nat → Nat} {a b c : Nat} (h : Waits since a b) (k : Waits since b c) : Waits since a c := by
  unfold Waits at *
  omega

theorem waits_or {since : Nat → Nat} {a b : Nat} (h : ¬ Waits since a b) (hne : b ≠ a) : Waits since b a := by
  unfold Waits at *
  omega

theorem not_waits_symm {since : Nat → Nat} {a b : Nat} (h : Waits since a b) : ¬ Waits since b a := by
  unfold Waits at *
  omega

namespace ConfRes

/-- One step of the search for the longest waiter. -/
def longerOf (r : ConfRes) (a : Option Nat) (j : Nat) : Option Nat :=
  match (r.req j).since, a with
  | none, _ => a
  | some _, none => some j
  | some b, some k =>
    match (r.req k).since with
    | none => some j
    | some d => if b < d ∨ (b = d ∧ j < k) then some j else a

theorem longest_eq (r : ConfRes) (js : List Nat) : r.longest js = js.foldl r.longerOf none := rfl

variable {r : ConfRes} {since : Nat → Nat}

theorem longerOf_some {j k : Nat} (hj : (r.req j).since = some (since j)) (hk : (r.req k).since = some (since k)) :
    r.longerOf (some k) j = if Waits since j k then some j else some k := by
  simp only [longerOf, hj, hk, Waits]

theorem foldl_longerOf (js : List Nat) (k : Nat) (hk : (r.req k).since = some (since k)) (h : ∀ j ∈ js, (r.req j).since = some (since j)) :
    ∃ d ∈ k :: js, js.foldl r.longerOf (some k) = some d ∧ ∀ j ∈ k :: js, j ≠ d → Waits since d j := by
  induction js generalizing k with
  | nil => exact ⟨k, List.mem_cons_self .., rfl, by simp⟩
  | cons j js ih =>
    have hj := h j (List.mem_cons_self ..)
    have htail : ∀ i ∈ js, (r.req i).since = some (since i) := fun i hi => h i (List.mem_cons_of_mem _ hi)
    rw [List.foldl_cons, longerOf_some hj hk]
    by_cases hw : Waits since j k
    · rw [if_pos hw]
      obtain ⟨d, hd, hfold, hmin⟩ := ih j hj htail
      refine ⟨d, List.mem_cons_of_mem _ hd, hfold, fun i hi hne => ?_⟩
      obtain rfl | hi := List.mem_cons.1 hi
      · by_cases hjd : j = d
        · rwa [← hjd]
        · exact (hmin j (List.mem_cons_self ..) hjd).trans hw
      · exact hmin i hi hne
    · rw [if_neg hw]
      obtain ⟨d, hd, hfold, hmin⟩ := ih k hk htail
      have hsub : d ∈ k :: j :: js := by
        obtain rfl | hd := List.mem_cons.1 hd
        · exact List.mem_cons_self ..
        · exact List.mem_cons_of_mem _ (List.mem_cons_of_mem _ hd)
      refine ⟨d, hsub, hfold, fun i hi hne => ?_⟩
      obtain rfl | hi := List.mem_cons.1 hi
      · exact hmin i (List.mem_cons_self ..) hne
      obtain rfl | hi := List.mem_cons.1 hi
      · by_cases hkd : k = d
        · rw [← hkd]
          exact waits_or hw fun e => hne (by rw [← hkd, e])
        · by_cases hik : i = k
          · rw [hik]; exact hmin k (List.mem_cons_self ..) hkd
          · exact (hmin k (List.mem_cons_self ..) hkd).trans (waits_or hw (Ne.symm hik))
      · exact hmin i (List.mem_cons_of_mem _ hi) hne

theorem longest_nil : r.longest [] = none := rfl

/-- The longest waiter of a list that waits is in the list, and the others have waited less. -/
theorem longest_of_ne_nil {js : List Nat} (hne : js ≠ []) (h : ∀ j ∈ js, (r.req j).since = some (since j)) :
    ∃ d ∈ js, r.longest js = some d ∧ ∀ j ∈ js, j ≠ d → Waits since d j := by
  obtain ⟨k, js, rfl⟩ := List.exists_cons_of_ne_nil hne
  have hk := h k (List.mem_cons_self ..)
  rw [longest_eq, List.foldl_cons, show r.longerOf none k = some k by simp only [longerOf, hk]]
  exact foldl_longerOf js k hk fun j hj => h j (List.mem_cons_of_mem _ hj)

/-- The longest waiter is the one before whom none waits. -/
theorem longest_eq_some {js : List Nat} (h : ∀ j ∈ js, (r.req j).since = some (since j)) {d : Nat} (hd : d ∈ js)
    (hmin : ∀ j ∈ js, j ≠ d → Waits since d j) : r.longest js = some d := by
  obtain ⟨e, he, hlongest, hemin⟩ := longest_of_ne_nil (List.ne_nil_of_mem hd) h
  by_cases hed : d = e
  · rw [hlongest, hed]
  · exact absurd (hmin e he (Ne.symm hed)) (not_waits_symm (hemin d hd hed))

end ConfRes

theorem foldl_max_spec (rank : Nat → Nat) (l : List Nat) (a : Nat) :
    let m := l.foldl (fun a j => max a (rank j)) a
    a ≤ m ∧ (∀ j ∈ l, rank j ≤ m) ∧ (m = a ∨ ∃ j ∈ l, rank j = m) := by
  induction l generalizing a with
  | nil => simp
  | cons i l ih =>
    obtain ⟨hle, hall, hat⟩ := ih (max a (rank i))
    refine ⟨(le_max_left _ _).trans hle, ?_, ?_⟩
    · rintro j hj
      obtain rfl | hj := List.mem_cons.1 hj
      · exact (le_max_right _ _).trans hle
      · exact hall j hj
    · obtain hm | ⟨j, hj, hm⟩ := hat
      · rcases le_total a (rank i) with h | h
        · exact Or.inr ⟨i, List.mem_cons_self .., by rw [List.foldl_cons, hm, max_eq_right h]⟩
        · exact Or.inl (by rw [List.foldl_cons, hm, max_eq_left h])
      · exact Or.inr ⟨j, List.mem_cons_of_mem _ hj, hm⟩

namespace ConfRes

/-- A requester's rank in force. -/
def rank (r : ConfRes) (j : Nat) : Nat := getF r.ranks (2 * j + 1) (2 * j)

/-- The ordinary winner has the highest rank, and of that rank has waited longest. -/
theorem ordinary_of_ne_nil {r : ConfRes} {since : Nat → Nat} {js : List Nat} (hne : js ≠ []) (h : ∀ j ∈ js, (r.req j).since = some (since j)) :
    ∃ g ∈ js, r.ordinary js = some g ∧ ∀ j ∈ js, j ≠ g → r.rank j < r.rank g ∨ (r.rank j = r.rank g ∧ Waits since g j) := by
  obtain ⟨-, hle, hat⟩ := foldl_max_spec r.rank js 0
  have htop : ∃ j ∈ js, r.rank j = js.foldl (fun a j => max a (r.rank j)) 0 := by
    obtain h0 | h1 := hat
    · obtain ⟨k, hk⟩ := List.exists_mem_of_ne_nil js hne
      exact ⟨k, hk, by have := hle k hk; omega⟩
    · exact h1
  have hord : r.ordinary js = r.longest (js.filter fun j => r.rank j == js.foldl (fun a j => max a (r.rank j)) 0) := rfl
  rw [hord]
  generalize js.foldl (fun a j => max a (r.rank j)) 0 = top at hle htop
  obtain ⟨k, hk, hrank⟩ := htop
  have hmem : ∀ {j}, j ∈ js.filter (fun j => r.rank j == top) ↔ j ∈ js ∧ r.rank j = top := by simp
  obtain ⟨g, hg, hlongest, hmin⟩ := longest_of_ne_nil (since := since) (List.ne_nil_of_mem (hmem.2 ⟨hk, hrank⟩)) fun j hj => h j (hmem.1 hj).1
  obtain ⟨hgjs, hgtop⟩ := hmem.1 hg
  refine ⟨g, hgjs, hlongest, fun j hj hne => ?_⟩
  have hj' := hle j hj
  by_cases hjtop : r.rank j = top
  · exact Or.inr ⟨hjtop.trans hgtop.symm, hmin j (hmem.2 ⟨hj, hjtop⟩) hne⟩
  · exact Or.inl (by omega)

/-! ### A beat's changes of the requesters -/

/-- A fold that treats each requester of a list once. -/
theorem req_foldl {P : ConfRes → Prop} {f : ConfRes → Nat → ConfRes} {F : Nat → ConfReq → ConfReq} (hP : ∀ r j, P r → P (f r j))
    (hf : ∀ r j i, P r → (f r j).req i = if i = j then F j (r.req j) else r.req i) {l : List Nat} (hl : l.Nodup) {r : ConfRes} (hr : P r) (i : Nat) :
    (l.foldl f r).req i = if i ∈ l then F i (r.req i) else r.req i := by
  induction l generalizing r with
  | nil => simp
  | cons j l ih =>
    obtain ⟨hj, hl⟩ := List.nodup_cons.1 hl
    rw [List.foldl_cons, ih hl (hP r j hr), hf r j i hr]
    by_cases hij : i = j
    · subst hij
      simp [hj]
    · simp [hij]

/-- A fold whose steps change the requesters alone. -/
theorem foldl_reqs {f : ConfRes → Nat → ConfRes} (hf : ∀ r j, f r j = { r with reqs := (f r j).reqs }) (l : List Nat) (r : ConfRes) :
    l.foldl f r = { r with reqs := (l.foldl f r).reqs } := by
  induction l generalizing r with
  | nil => rfl
  | cons j l ih => rw [List.foldl_cons, ih, hf r j]

theorem req_setReq (r : ConfRes) (j : Nat) (q : ConfReq) (i : Nat) : (r.setReq j q).req i = if i = j then q else r.req i := FMap.get_set ..

/-- The requesters that present start their wait. -/
def started (r : ConfRes) (presented : List Nat) : ConfRes := presented.foldl (fun (r : ConfRes) j =>
  if (r.req j).since.isNone then r.setReq j { r.req j with since := some r.beat } else r) r

theorem started_eq (r : ConfRes) (l : List Nat) : r.started l = { r with reqs := (r.started l).reqs } :=
  foldl_reqs (fun r j => by dsimp only; split <;> rfl) l r

theorem req_started (r : ConfRes) {l : List Nat} (hl : l.Nodup) (i : Nat) :
    (r.started l).req i = if i ∈ l then { r.req i with since := some ((r.req i).since.getD r.beat) } else r.req i := by
  refine req_foldl (P := fun q => q.beat = r.beat) (F := fun _ q => { q with since := some (q.since.getD r.beat) }) (fun q j hq => ?_)
    (fun q j i hq => ?_) hl rfl i
  · dsimp only
    split
    · exact hq
    · exact hq
  · dsimp only
    cases hs : (q.req j).since with
    | none => simp [req_setReq, hq]
    | some b =>
      by_cases hij : i = j
      · subst hij
        simp only [Option.isNone_some, Bool.false_eq_true, if_false, if_true, Option.getD_some]
        rw [← hs]
      · simp [hij]

/-- A beat of every back-off has passed. -/
def ticked (r : ConfRes) : ConfRes := { r with reqs := r.reqs.map fun (q : Nat × ConfReq) => (q.1, { q.2 with backoff := q.2.backoff - 1 }) }

theorem req_ticked (r : ConfRes) (i : Nat) : r.ticked.req i = { r.req i with backoff := (r.req i).backoff - 1 } := by
  have hget : ∀ m : FMap ConfReq, FMap.get (m.map fun (q : Nat × ConfReq) => (q.1, { q.2 with backoff := q.2.backoff - 1 })) ConfReq.fresh i =
      { m.get ConfReq.fresh i with backoff := (m.get ConfReq.fresh i).backoff - 1 } := by
    intro m
    induction m with
    | nil => rfl
    | cons q m ih =>
      obtain ⟨k, v⟩ := q
      by_cases hik : i = k
      · simp [FMap.get, hik]
      · simpa [FMap.get, hik] using ih
  exact hget r.reqs

/-- The winner starts anew, and the other eligible ones that are not designated back off. -/
def backedOff (r : ConfRes) (elig des : List Nat) (g : Nat) : ConfRes := elig.foldl (fun (r : ConfRes) j =>
  if j = g then r.setReq j ConfReq.fresh
  else if hasN des j then r
  else r.setReq j { r.req j with backoff := (r.req j).retry, retry := min 64 (2 * (r.req j).retry) }) r

theorem backedOff_eq (r : ConfRes) (elig des : List Nat) (g : Nat) : r.backedOff elig des g = { r with reqs := (r.backedOff elig des g).reqs } :=
  foldl_reqs (fun r j => by
    dsimp only
    split
    · rfl
    · split <;> rfl) elig r

theorem req_backedOff (r : ConfRes) {elig : List Nat} (hl : elig.Nodup) (des : List Nat) (g i : Nat) : (r.backedOff elig des g).req i =
    if i ∈ elig then
      if i = g then ConfReq.fresh
      else if hasN des i then r.req i else { r.req i with backoff := (r.req i).retry, retry := min 64 (2 * (r.req i).retry) }
    else r.req i := by
  refine req_foldl (P := fun _ => True) (F := fun i q => if i = g then ConfReq.fresh
    else if hasN des i then q else { q with backoff := q.retry, retry := min 64 (2 * q.retry) }) (fun _ _ _ => trivial) (fun q j i _ => ?_) hl trivial i
  dsimp only
  by_cases hij : i = j
  · subst hij
    by_cases hg : i = g
    · simp [hg, req_setReq]
    · by_cases hd : hasN des i = true <;> simp [hg, hd, req_setReq]
  · by_cases hg : j = g
    · rw [if_pos hg, req_setReq, if_neg hij, if_neg hij]
    · by_cases hd : hasN des j = true <;> simp [hg, hd, hij, req_setReq]

/-! ### One beat (R305-R309) -/

/-- The requesters of a beat, their waits begun and their back-offs a beat shorter. -/
def begun (r : ConfRes) (pres : List Nat) : ConfRes := (r.started pres).ticked

/-- The requesters that present and do not back off. -/
def eligible (r : ConfRes) (pres : List Nat) : List Nat := pres.filter fun j => (r.req j).backoff == 0

/-- The designated, with the longest waiter that an eddy grant adds. -/
def nextDesignated (r : ConfRes) (pres : List Nat) : List Nat :=
  r.designated ++ if r.n ≤ r.grants + 1 then ((r.begun pres).longest (pres.filter fun j => !hasN r.designated j)).toList else []

/-- When the wait of a requester that presents began. -/
def waitsSince (r : ConfRes) (j : Nat) : Nat := (r.req j).since.getD r.beat

variable (r : ConfRes) {pres : List Nat} (hl : pres.Nodup)

theorem begun_eq (pres : List Nat) : r.begun pres = { r with reqs := (r.begun pres).reqs } := by
  rw [begun, ticked, r.started_eq pres]

theorem designated_begun (pres : List Nat) : (r.begun pres).designated = r.designated := by rw [r.begun_eq pres]

theorem mem_eligible {j : Nat} : j ∈ r.eligible pres ↔ j ∈ pres ∧ (r.req j).backoff = 0 := by simp [eligible]

include hl

theorem req_begun {j : Nat} (hj : j ∈ pres) :
    (r.begun pres).req j = { r.req j with since := some (r.waitsSince j), backoff := (r.req j).backoff - 1 } := by
  rw [begun, req_ticked, r.req_started hl, if_pos hj]
  rfl

theorem since_begun {j : Nat} (hj : j ∈ pres) : ((r.begun pres).req j).since = some (r.waitsSince j) := by rw [r.req_begun hl hj]

theorem eligible_started : (pres.filter fun j => ((r.started pres).req j).backoff == 0) = r.eligible pres := by
  refine List.filter_congr fun j hj => ?_
  rw [r.req_started hl, if_pos hj]

/-- Every grant of a count of N designates the longest waiter that is not designated yet (R308). -/
theorem designates_nextDesignated : Claims.Designates r pres (r.nextDesignated pres) := by
  constructor
  · intro h
    rw [nextDesignated, if_neg (by omega), List.append_nil]
  · intro h
    have hsince : ∀ j ∈ pres.filter (fun j => !hasN r.designated j), ((r.begun pres).req j).since = some (r.waitsSince j) :=
      fun j hj => r.since_begun hl (List.mem_of_mem_filter hj)
    have hmem : ∀ {j}, j ∈ pres.filter (fun j => !hasN r.designated j) ↔ j ∈ pres ∧ j ∉ r.designated :=
      fun {j} => by simp [hasN_eq]
    rw [nextDesignated, if_pos h]
    constructor
    · intro hall
      rw [List.filter_eq_nil_iff.2 fun j hj => by simpa [hasN_eq] using hall j hj, longest_nil]
      exact List.append_nil _
    · intro d hd hnd hmin
      rw [longest_eq_some (since := r.waitsSince) hsince (hmem.2 ⟨hd, hnd⟩) fun j hj hne => hmin j (hmem.1 hj).1 (hmem.1 hj).2 hne]
      rfl

omit hl

/-- The resource after a beat that grants g. -/
def granted (r : ConfRes) (pres : List Nat) (ctrl : Nat) (ranks : Long) (g : Nat) : ConfRes :=
  let b := (r.begun pres).backedOff (r.eligible pres) (r.nextDesignated pres) g
  let served := hasN (r.nextDesignated pres) g
  { b with beat := r.beat + 1, last := some g, designated := (r.nextDesignated pres).filter fun j => j != g,
           grants := if (served && (r.n != ctrl || r.ranks != ranks)) || decide (r.n ≤ r.grants + 1) then 0 else r.grants + 1,
           n := if served then ctrl else r.n, ranks := if served then ranks else r.ranks }

include hl

theorem confBeat_eq (ctrl : Nat) (ranks : Long) : confBeat r pres ctrl ranks =
    if (r.eligible pres).isEmpty then ({ r.begun pres with beat := r.beat + 1, last := none }, none)
    else match ((r.nextDesignated pres).find? (hasN (r.eligible pres))).or ((r.begun pres).ordinary (r.eligible pres)) with
      | none => ({ r.begun pres with beat := r.beat + 1, last := none }, none)
      | some g => (r.granted pres ctrl ranks g, some (g, r.beat - (((r.begun pres).req g).since.getD r.beat))) := by
  have hb := r.begun_eq pres
  have hunfold : confBeat r pres ctrl ranks =
      (let w := r.begun pres
       let elig := pres.filter fun j => ((r.started pres).req j).backoff == 0
       if elig.isEmpty then ({ w with beat := w.beat + 1, last := none }, none)
       else
        let des := w.designated ++ (if w.n ≤ w.grants + 1 then (w.longest (pres.filter fun j => !hasN w.designated j)).toList else [])
        match (des.find? (hasN elig)).or (w.ordinary elig) with
        | none => ({ w with beat := w.beat + 1, last := none }, none)
        | some g =>
          ({ w.backedOff elig des g with
              beat := (w.backedOff elig des g).beat + 1, last := some g, designated := des.filter fun j => j != g,
              grants := if (hasN des g && ((w.backedOff elig des g).n != ctrl || (w.backedOff elig des g).ranks != ranks)) ||
                decide (w.n ≤ w.grants + 1) then 0 else (w.backedOff elig des g).grants + 1,
              n := if hasN des g then ctrl else (w.backedOff elig des g).n,
              ranks := if hasN des g then ranks else (w.backedOff elig des g).ranks }, some (g, w.beat - ((w.req g).since.getD w.beat)))) := by
    simp only [confBeat, decide_eq_true_eq]
    rfl
  rw [hunfold, eligible_started r hl]
  have hbeat : (r.begun pres).beat = r.beat := by rw [hb]
  have hgrants : (r.begun pres).grants = r.grants := by rw [hb]
  have hdes : (r.begun pres).designated = r.designated := by rw [hb]
  have hn : (r.begun pres).n = r.n := by rw [hb]
  have hranks : (r.begun pres).ranks = r.ranks := by rw [hb]
  have hback (es ds : List Nat) (g : Nat) := (r.begun pres).backedOff_eq es ds g
  have hbackBeat (es ds : List Nat) (g : Nat) := (congrArg ConfRes.beat (hback es ds g)).trans hbeat
  have hbackGrants (es ds : List Nat) (g : Nat) := (congrArg ConfRes.grants (hback es ds g)).trans hgrants
  have hbackN (es ds : List Nat) (g : Nat) := (congrArg ConfRes.n (hback es ds g)).trans hn
  have hbackRanks (es ds : List Nat) (g : Nat) := (congrArg ConfRes.ranks (hback es ds g)).trans hranks
  simp only [hbeat, hgrants, hdes, hn, hbackBeat, hbackGrants, hbackN, hbackRanks]
  rfl

/-- A beat with nobody eligible grants nothing. -/
theorem confBeat_of_none (ctrl : Nat) (ranks : Long) (h : ∀ j, ¬ (j ∈ pres ∧ (r.req j).backoff = 0)) :
    confBeat r pres ctrl ranks = ({ r.begun pres with beat := r.beat + 1, last := none }, none) := by
  have hnil : r.eligible pres = [] := List.eq_nil_iff_forall_not_mem.2 fun j hj => h j ((mem_eligible r).1 hj)
  rw [r.confBeat_eq hl, hnil]
  rfl

/-- A beat with eligible requesters grants the first of the designated among them, or else the ordinary winner. -/
theorem confBeat_of_some (ctrl : Nat) (ranks : Long) (h : ∃ j, j ∈ pres ∧ (r.req j).backoff = 0) :
    ∃ g ∈ r.eligible pres, confBeat r pres ctrl ranks = (r.granted pres ctrl ranks g, some (g, r.beat - r.waitsSince g)) ∧
      ((∃ j ∈ r.nextDesignated pres, j ∈ r.eligible pres) → ∃ before after, r.nextDesignated pres = before ++ g :: after ∧
        ∀ j ∈ before, j ∉ r.eligible pres) ∧
      ((∀ j ∈ r.nextDesignated pres, j ∉ r.eligible pres) → ∀ j ∈ r.eligible pres, j ≠ g →
        r.rank j < r.rank g ∨ (r.rank j = r.rank g ∧ Waits r.waitsSince g j)) := by
  obtain ⟨j, hj⟩ := h
  have hne : r.eligible pres ≠ [] := List.ne_nil_of_mem ((mem_eligible r).2 hj)
  have hpres : ∀ {g}, g ∈ r.eligible pres → g ∈ pres := fun hg => ((mem_eligible r).1 hg).1
  have hpick : ∀ g ∈ r.eligible pres, ((r.nextDesignated pres).find? (hasN (r.eligible pres))).or ((r.begun pres).ordinary (r.eligible pres)) =
      some g → confBeat r pres ctrl ranks = (r.granted pres ctrl ranks g, some (g, r.beat - r.waitsSince g)) := by
    intro g hg he
    rw [r.confBeat_eq hl, if_neg (by simpa using hne), he]
    simp only [r.since_begun hl (hpres hg), Option.getD_some]
  cases hfind : (r.nextDesignated pres).find? (hasN (r.eligible pres)) with
  | some g =>
    obtain ⟨hg, before, after, hsplit, hbefore⟩ := List.find?_eq_some_iff_append.1 hfind
    have hge : g ∈ r.eligible pres := by simpa [hasN_eq] using hg
    refine ⟨g, hge, hpick g hge (by rw [hfind]; rfl), fun _ => ⟨before, after, hsplit, fun k hk => by simpa [hasN_eq] using hbefore k hk⟩,
      fun hnone => absurd hge (hnone g (by rw [hsplit]; simp))⟩
  | none =>
    obtain ⟨g, hge, hord, hbest⟩ := (r.begun pres).ordinary_of_ne_nil (since := r.waitsSince) hne fun j hj => r.since_begun hl (hpres hj)
    have hranks : (r.begun pres).rank = r.rank := by
      funext j
      rw [rank, congrArg ConfRes.ranks (r.begun_eq pres)]
      rfl
    rw [hranks] at hbest
    refine ⟨g, hge, hpick g hge (by rw [hfind, hord]; rfl), fun ⟨k, hk, hke⟩ => ?_, fun _ => hbest⟩
    exact absurd hke (by simpa [hasN_eq] using List.find?_eq_none.1 hfind k hk)

/-- The requesters after a beat that grants g. -/
theorem req_granted (ctrl : Nat) (ranks : Long) {g j : Nat} (hj : j ∈ r.eligible pres) : (r.granted pres ctrl ranks g).req j =
    if j = g then ConfReq.fresh
    else if j ∈ r.nextDesignated pres then { r.req j with since := some (r.waitsSince j), backoff := (r.req j).backoff - 1 }
    else { since := some (r.waitsSince j), backoff := (r.req j).retry, retry := min 64 (2 * (r.req j).retry) } := by
  have hreq : (r.granted pres ctrl ranks g).req j = ((r.begun pres).backedOff (r.eligible pres) (r.nextDesignated pres) g).req j := rfl
  have hnd : (r.eligible pres).Nodup := hl.filter _
  rw [hreq, req_backedOff _ hnd, if_pos hj, r.req_begun hl ((mem_eligible r).1 hj).1]
  simp only [hasN_eq, decide_eq_true_eq]

end ConfRes

theorem Cluster.presented_nodup (k : Cluster) (res : Nat) : (k.presented res).Nodup := List.nodup_range.filter _

/-- Only registers and clusters differ. -/
def State.RegsAndClusters (s t : State) : Prop := t = { s with mrs := t.mrs, clusters := t.clusters }

theorem State.RegsAndClusters.trans {s t u : State} (h : s.RegsAndClusters t) (k : t.RegsAndClusters u) : s.RegsAndClusters u := by
  rw [RegsAndClusters] at h k ⊢
  rw [h] at k
  exact k

theorem State.regsAndClusters_setRegF (s : State) (id : RegId) (ix : List Nat) (hi lo v : Nat) : s.RegsAndClusters (s.setRegF id ix hi lo v) := rfl

theorem State.regsAndClusters_modCl (s : State) (i : Nat) (f : Cluster → Cluster) : s.RegsAndClusters (s.modCl i f) := rfl

namespace State

variable (s : State) (cl res : Nat) (arrivals : List (Nat × Nat)) (withdrawn : Bool)

/-- The resource and the winner of a beat. -/
def confOutcome : ConfRes × Option (Nat × Nat) :=
  let k := (s.cl cl).arrive res arrivals
  confBeat (k.conf.get ConfRes.fresh res) (k.presented res) (s.regF .confCtrl [cl] 5 0) (s.reg .confRank [cl])

/-- The cluster after a beat of the outcome q. -/
def confCluster (q : ConfRes × Option (Nat × Nat)) : Cluster :=
  let k := (s.cl cl).arrive res arrivals
  { k with conf := k.conf.set res q.1,
           confQ := match q.2 with
            | some g => k.confQ.set g.1 (k.confQ.get ConfQueue.empty g.1).won
            | none => k.confQ }

theorem confArb_none (h : s.blockOff (128 + cl) = false) (hn : (s.confOutcome cl res arrivals).2 = none) :
    s.confArb cl res arrivals withdrawn = s.modCl cl fun _ => s.confCluster cl res arrivals (s.confOutcome cl res arrivals) := by
  rw [confArb, if_neg (by simp [h])]
  change (match (s.confOutcome cl res arrivals).2 with | none => _ | some g => _) = _
  rw [hn]
  rfl

theorem confArb_some (h : s.blockOff (128 + cl) = false) {g wait : Nat} (hn : (s.confOutcome cl res arrivals).2 = some (g, wait)) :
    s.confArb cl res arrivals withdrawn =
      let t := (s.modCl cl fun _ => s.confCluster cl res arrivals (s.confOutcome cl res arrivals)).setRegF .confStat [cl] 47 32
        (max (s.regF .confStat [cl] 47 32) (min wait 0xFFFF))
      if withdrawn then t.bump .confStat [cl] 31 0 else t := by
  rw [confArb, if_neg (by simp [h])]
  change (match (s.confOutcome cl res arrivals).2 with | none => _ | some g => _) = _
  rw [hn]
  rfl

/-- The longest wait and the dead beats as a grant notes them (R306, R316). -/
theorem confStat_noted (t : State) (m : Nat) :
    let u := t.setRegF .confStat [cl] 47 32 m
    let v := if withdrawn then u.bump .confStat [cl] 31 0 else u
    (∀ i, v.cl i = t.cl i) ∧ t.RegsAndClusters v ∧ v.regF .confStat [cl] 47 32 = m % 65536 ∧
      (withdrawn = true → v.regF .confStat [cl] 31 0 = min (t.regF .confStat [cl] 31 0 + 1) 0xFFFFFFFF) := by
  intro u v
  have hm : u.regF .confStat [cl] 47 32 = m % 65536 := regF_setRegF_self t _ _ _ _ _ (by omega) (by omega)
  cases withdrawn with
  | false => exact ⟨fun _ => rfl, t.regsAndClusters_setRegF _ _ _ _ _, hm, nofun⟩
  | true =>
    refine ⟨fun _ => rfl, (t.regsAndClusters_setRegF _ _ _ _ _).trans (u.regsAndClusters_setRegF _ _ _ _ _), ?_, fun _ => ?_⟩
    · exact (regF_setRegF_apart _ _ _ _ _ _ _ _ (by omega) (by omega) (by omega)).trans hm
    · refine (regF_bumpBy_self u .confStat [cl] 31 0 1 (by omega) (by omega)).trans ?_
      rw [regF_setRegF_apart t _ _ _ _ _ _ _ (by omega) (by omega) (by omega)]
      rfl

end State
end Sys2Proof.Machine

open Sys2Proof Sys2Proof.Machine

theorem confluenceRegisters : Claims.ConfluenceRegisters := by
  intro s cl v hu hr
  have hu' : s.unreachable .confRank [cl.val] = false := hu
  refine ⟨fun h4 h32 => ?_, fun h => ?_, ?_⟩
  · have hexec : exec (.confCtrlWrite cl v) s = .next (s.plainWrite .confCtrl [cl] v) := by
      change Host.Outcome.next (s.wroteAt .confCtrl [cl] (s.wrConfCtrl cl v)) = _
      rw [State.wrConfCtrl, if_pos ⟨h4, h32⟩, State.wroteAt, hu, hr]
      rfl
    refine ⟨_, hexec, State.onlyRegs_plainWrite s _ _ _, ?_, State.sameRegsBut_plainWrite s _ _ _⟩
    rw [State.regF, State.reg_plainWrite_self]
    exact State.getF_codeWritten _ v (by decide) (by decide)
  · change Host.Outcome.next (s.wroteAt .confCtrl [cl] (s.wrConfCtrl cl v)) = _
    rw [State.wrConfCtrl, if_neg (by omega), State.wroteAt, hu, hr]
    rfl
  · have hexec : exec (.confRankWrite cl v) s = .next (s.plainWrite .confRank [cl] v) := by
      change Host.Outcome.next (s.wroteAt .confRank [cl] (s.wrConfRank cl v)) = _
      rw [State.wrConfRank, State.wroteAt, hu', hr]
      rfl
    refine ⟨_, hexec, State.onlyRegs_plainWrite s _ _ _, ?_, State.sameRegsBut_plainWrite s _ _ _⟩
    rw [State.regF, State.reg_plainWrite_self]
    exact State.getF_codeWritten _ v (by decide) (by decide)

theorem oneRequesterIsGranted : Claims.OneRequesterIsGranted := by
  intro s cl res arrivals withdrawn hb k r pres elig rank
  have hl : pres.Nodup := k.presented_nodup res
  have hexec : exec (.confluenceArbitration cl res arrivals withdrawn) s =
      .next (s.confArb cl res (arrivals.map fun x => (x.1.val, x.2.val)) withdrawn) := rfl
  have hout : s.confOutcome cl res (arrivals.map fun x => (x.1.val, x.2.val)) =
      confBeat r pres (s.regF .confCtrl [cl.val] 5 0) (s.reg .confRank [cl.val]) := rfl
  have hcl : ∀ q, s.confCluster cl res (arrivals.map fun x => (x.1.val, x.2.val)) q =
      { k with conf := k.conf.set res q.1, confQ := match q.2 with
        | some g => k.confQ.set g.1 (k.confQ.get ConfQueue.empty g.1).won
        | none => k.confQ } := fun q => rfl
  rw [hexec]
  by_cases he : ∃ j, elig j
  · obtain ⟨g, hg, hbeat, hfirst, hbest⟩ := r.confBeat_of_some hl (s.regF .confCtrl [cl.val] 5 0) (s.reg .confRank [cl.val]) he
    rw [State.confArb_some s cl res _ withdrawn hb (congrArg Prod.snd (hout.trans hbeat)), hout, hbeat, hcl]
    obtain ⟨hcl', hframe, hwait, hdead⟩ := State.confStat_noted cl withdrawn
      (s.modCl cl fun _ => { k with conf := k.conf.set res (r.granted pres (s.regF .confCtrl [cl.val] 5 0) (s.reg .confRank [cl.val]) g),
                                    confQ := k.confQ.set g (k.confQ.get ConfQueue.empty g).won })
      (max (s.regF .confStat [cl] 47 32) (min (r.beat - r.waitsSince g) 0xFFFF))
    have hge := (r.mem_eligible).1 hg
    have hmem : ∀ j, elig j ↔ j ∈ r.eligible pres := fun j => r.mem_eligible.symm
    have hreq := fun j (hj : elig j) => r.req_granted hl (s.regF .confCtrl [cl.val] 5 0) (s.reg .confRank [cl.val]) (g := g) ((hmem j).1 hj)
    refine ⟨_, rfl, (State.regsAndClusters_modCl s _ _).trans hframe, ?_⟩
    rw [hcl' cl, State.cl_modCl_self]
    simp only [FMap.get_set_self]
    refine ⟨rfl, fun h => absurd he (not_exists.2 h), fun _ => ⟨g, r.nextDesignated pres, hge, r.designates_nextDesignated hl, ?_, ?_, rfl, rfl, ?_,
      rfl, ?_, hdead, fun j hne hj => ?_⟩⟩
    · exact fun ⟨j, hj, hje⟩ => (hfirst ⟨j, hj, (hmem j).1 hje⟩).imp fun before => Exists.imp fun after h =>
        ⟨h.1, fun i hi => fun hie => h.2 i hi ((hmem i).1 hie)⟩
    · exact fun h j hj hne => hbest (fun i hi hie => h i hi ((hmem i).2 hie)) j ((hmem j).1 hj) hne
    · rw [hreq g hge, if_pos rfl]
    · have h47 := getF_lt (s.reg .confStat [cl.val]) 47 32
      refine hwait.trans (Nat.mod_eq_of_lt ?_)
      change getF (s.reg .confStat [cl.val]) 47 32 < 65536 at h47
      change max (getF (s.reg .confStat [cl.val]) 47 32) _ < 65536
      omega
    · rw [hreq j hj, if_neg hne]
      by_cases hjd : j ∈ r.nextDesignated pres
      · rw [if_pos hjd, if_pos hjd]
        exact ⟨rfl, by simp [hj.2], rfl⟩
      · rw [if_neg hjd, if_neg hjd]
        exact ⟨rfl, rfl, rfl⟩
  · have hnone := r.confBeat_of_none hl (s.regF .confCtrl [cl.val] 5 0) (s.reg .confRank [cl.val]) (not_exists.1 he)
    rw [State.confArb_none s cl res _ withdrawn hb (congrArg Prod.snd (hout.trans hnone)), hout, hnone, hcl]
    refine ⟨_, rfl, State.regsAndClusters_modCl s _ _, ?_, fun _ => ⟨?_, ?_, ?_⟩, fun h => absurd h he⟩
    · rw [State.cl_modCl_self, FMap.get_set_self]
    · rw [State.cl_modCl_self, FMap.get_set_self]
    · rw [State.cl_modCl_self, FMap.get_set_self]
      exact r.designated_begun pres
    · rw [State.cl_modCl_self]

/-- Settles O35. -/
theorem confluence : Obligations.Confluence := ⟨confluenceRegisters, oneRequesterIsGranted⟩

end

section
/-! PROOF. Frames cleared, scrubs, and row repairs. -/

namespace Sys2Proof.Machine

/-- A byte of a cleared range reads zero; every other byte reads as before. -/
theorem readByte_clearBytes (m : List Host.Cell) (a n b : Nat) :
    readByte (clearBytes m a n) b = if a ≤ b ∧ b < a + n then 0 else readByte m b := by
  by_cases h : a ≤ b ∧ b < a + n
  · rw [if_pos h]
    refine readByte_of_forall_ne fun x hx => ?_
    have hp := (List.mem_filter.1 hx).2
    rw [Bool.or_eq_true, decide_eq_true_eq, decide_eq_true_eq] at hp
    omega
  · rw [if_neg h]
    refine readByte_filter (p := fun i => decide (i < a) || decide (a + n ≤ i)) ?_ m
    rw [Bool.or_eq_true, decide_eq_true_eq, decide_eq_true_eq]
    omega

namespace State

variable {s t u : State}

/-! ### What a service access to a tier can change beside the tiers -/

/-- Registers, stacks, counters, traffic and what an error record moves. -/
def ServiceChanges (s t : State) : Prop :=
  t = { s with mrs := t.mrs, hbm := t.hbm, retireA := t.retireA, retireB := t.retireB, keeper := t.keeper, sessions := t.sessions,
               out := t.out, waitOut := t.waitOut, sluices := t.sluices, dieSeen := t.dieSeen, off := t.off, fast := t.fast, slow := t.slow }

theorem ServiceChanges.trans (h : ServiceChanges s t) (k : ServiceChanges t u) : ServiceChanges s u := by
  rw [ServiceChanges] at h k ⊢
  rw [h] at k
  exact k

theorem ServiceChanges.stalled (h : ServiceChanges s t) : t.stalled = s.stalled := by
  rw [ServiceChanges] at h
  rw [h]

theorem ServiceChanges.failing (h : ServiceChanges s t) : t.failing = s.failing := by
  rw [ServiceChanges] at h
  rw [h]

theorem ServiceChanges.rest (h : ServiceChanges s t) : t.vats = s.vats ∧ t.pools = s.pools ∧ t.cores = s.cores ∧ t.parts = s.parts := by
  rw [ServiceChanges] at h
  rw [h]
  exact ⟨rfl, rfl, rfl, rfl⟩

theorem serviceChanges_refl (s : State) : ServiceChanges s s := rfl
theorem serviceChanges_setReg (id : RegId) (ix : List Nat) (v : Long) : ServiceChanges s (s.setReg id ix v) := rfl
theorem serviceChanges_setRegF (id : RegId) (ix : List Nat) (hi lo v : Nat) : ServiceChanges s (s.setRegF id ix hi lo v) := rfl
theorem serviceChanges_modStack (k : Nat) (f : Stack → Stack) : ServiceChanges s (s.modStack k f) := rfl
theorem serviceChanges_turnOn (d : Nat) : ServiceChanges s (s.turnOn d) := rfl

theorem serviceChanges_setTier (slow : Bool) (x : Tier) : ServiceChanges s (s.setTier slow x) := by cases slow <;> rfl

theorem serviceChanges_of_counts (h : Counts s t) : ServiceChanges s t := by
  rw [Counts] at h
  rw [ServiceChanges, h]

theorem serviceChanges_of_reports (h : Reports s t) : ServiceChanges s t := by
  rw [Reports] at h
  rw [ServiceChanges, h]

theorem serviceChanges_writeRetire (p : Nat) (es : List Retire) : ServiceChanges s (s.writeRetire p es) := by
  rw [writeRetire]
  split <;> rfl

/-- A service change that leaves the tiers leaves every memory. -/
theorem ServiceChanges.memKept (h : ServiceChanges s t) (ht : ∀ slow, t.tierOf slow = s.tierOf slow) : MemKept s t := by
  have hf : t.fast = s.fast := ht false
  have hs : t.slow = s.slow := ht true
  rw [ServiceChanges] at h
  rw [h]
  exact ⟨hf, hs, rfl, rfl, rfl, rfl⟩

/-! ### The registers of a tier's errors -/

/-- The register of a tier's error counts. -/
def errReg (slow : Bool) : RegId := if slow then .sluErrS else .sluErrF

theorem errRegs_fst (slow : Bool) (a : Nat) : (errRegs slow a).1 = errReg slow := by cases slow <;> rfl

/-- A service change that leaves the tiers and the error counts at index k. -/
structure ErrKept (slow : Bool) (k : Nat) (s t : State) : Prop where
  frame : ServiceChanges s t
  tier : ∀ b, t.tierOf b = s.tierOf b
  reg : t.reg (errReg slow) [k] = s.reg (errReg slow) [k]

variable {slow : Bool} {k : Nat}

theorem ErrKept.trans (h : ErrKept slow k s t) (j : ErrKept slow k t u) : ErrKept slow k s u :=
  ⟨h.frame.trans j.frame, fun b => (j.tier b).trans (h.tier b), j.reg.trans h.reg⟩

theorem ErrKept.regF (h : ErrKept slow k s t) (hi lo : Nat) : t.regF (errReg slow) [k] hi lo = s.regF (errReg slow) [k] hi lo :=
  congrArg (getF · hi lo) h.reg

theorem errKept_refl (s : State) : ErrKept slow k s s := ⟨rfl, fun _ => rfl, rfl⟩

theorem errKept_modStack (i : Nat) (f : Stack → Stack) : ErrKept slow k s (s.modStack i f) := ⟨rfl, fun b => by cases b <;> rfl, rfl⟩

theorem errKept_turnOn (d : Nat) : ErrKept slow k s (s.turnOn d) := ⟨rfl, fun b => by cases b <;> rfl, rfl⟩

theorem errReg_fits (hk : k < if slow then 4 else 8) : indexesFit (errReg slow).row.dims [k] := by
  cases slow <;> exact ⟨hk, trivial⟩

theorem errKept_setReg (hk : k < if slow then 4 else 8) {id : RegId} {ix : List Nat} (hid : errReg slow ≠ id) (hix : indexesFit id.row.dims ix)
    (v : Long) : ErrKept slow k s (s.setReg id ix v) :=
  ⟨rfl, fun b => by cases b <;> rfl, reg_setReg_ne s id _ _ _ v (RegId.addr_ne hid (errReg_fits hk) hix)⟩

theorem errKept_setRegF (hk : k < if slow then 4 else 8) {id : RegId} {ix : List Nat} (hid : errReg slow ≠ id) (hix : indexesFit id.row.dims ix)
    (hi lo v : Nat) : ErrKept slow k s (s.setRegF id ix hi lo v) := errKept_setReg hk hid hix _

/-- An error record leaves the error counts. -/
theorem errKept_record (hk : k < if slow then 4 else 8) (severity code : Nat) (part : Option Nat) (unit : Nat) (step : Option Word)
    (addr : Option Nat) (detail : List Byte) : ErrKept slow k s (s.record severity code part unit step addr detail) := by
  refine ⟨serviceChanges_of_reports (record_frame s ..), fun b => ?_, ?_⟩
  · have h := record_frame s severity code part unit step addr detail
    rw [Reports] at h
    rw [h]
    rfl
  · refine reg_of_sameRegsBut (readyStands_record severity code part unit step addr detail).regs ?_
    rw [List.mem_singleton]
    exact RegId.addr_ne (j := .keepStatus) (jx := []) (by cases slow <;> decide) (errReg_fits hk) trivial

theorem errKept_counts (hk : k < if slow then 4 else 8) (h : Counts s t) (hr : SameRegsBut dieCounters s t) : ErrKept slow k s t := by
  refine ⟨serviceChanges_of_counts h, fun b => ?_, reg_of_sameRegsBut hr fun hm => ?_⟩
  · rw [Counts] at h
    rw [h]
    rfl
  · have hle := (base_le_addr (errReg slow).row [k]).trans (le_of_mem_dieCounters hm)
    revert hle
    cases slow <;> simp [errReg, RegId.row]

/-! ### What an error leads to (R325, R336, R341) -/

theorem errKept_addRetire (hk : k < if slow then 4 else 8) (st ppn : Nat) (hst : st < 8) :
    ErrKept slow k s (s.addRetire ⟨3, 3, st, 0, ppn, 0xFF, s.hours⟩) := by
  rw [addRetire]
  split
  · exact errKept_record hk ..
  · have hw : ErrKept slow k s (s.writeRetire s.retireRec.pointer (s.retireRec.entries ++ [⟨3, 3, st, 0, ppn, 0xFF, s.hours⟩])) := by
      rw [writeRetire]
      split <;> exact ⟨rfl, fun b => by cases b <;> rfl, rfl⟩
    exact hw.trans (errKept_setRegF hk (id := .sluPpr) (ix := [st]) (by cases slow <;> decide) ⟨hst, trivial⟩ _ _ _)

theorem errKept_retireFrame (hk : k < if slow then 4 else 8) {st : Nat} (hst : st < 8) (ppn : Nat) : ErrKept slow k s (s.retireFrame st ppn) := by
  rw [retireFrame]
  split
  · exact errKept_refl s
  · exact errKept_addRetire hk st ppn hst

theorem fld_13_11_lt (a : Nat) : fld a 13 11 < 8 := fld_lt a 13 11

theorem errKept_rowError (hk : k < if slow then 4 else 8) (a : Nat) (atOnce : Bool) : ErrKept slow k s (s.rowError a atOnce) := by
  unfold rowError
  extract_lets st row x now recent u bank used v
  have hst : st < 8 := fld_13_11_lt a
  have hu : ErrKept slow k s u := errKept_modStack _ _
  have hv : ErrKept slow k u v := errKept_modStack _ _
  clear_value u v st
  split
  · split
    · exact (hu.trans hv).trans (errKept_setRegF hk (id := .sluPpr) (ix := [st]) (by cases slow <;> decide) ⟨hst, trivial⟩ _ _ _)
    · exact hu.trans (errKept_retireFrame hk hst _)
  · exact hu

/-- The register of the first error's address, at the index of a granule. -/
theorem errAddr_fits (slow : Bool) (a : Nat) : indexesFit (errRegs slow a).2.1.row.dims (errRegs slow a).2.2 ∧ errReg slow ≠ (errRegs slow a).2.1 := by
  cases slow
  · exact ⟨⟨fld_13_11_lt a, trivial⟩, show RegId.sluErrF ≠ .sluErrAddrF by decide⟩
  · have h := fld_lt a 14 11
    exact ⟨⟨by change fld a 14 11 / 4 < 4; omega, trivial⟩, show RegId.sluErrS ≠ .sluErrAddrS by decide⟩

theorem errKept_noteErr (hk : k < if slow then 4 else 8) (a cls kind : Nat) : ErrKept slow k s (s.noteErr slow a cls kind) := by
  obtain ⟨hfit, hne⟩ := errAddr_fits slow a
  simp only [noteErr]
  split
  · exact errKept_refl s
  · exact errKept_setReg hk hne hfit _

theorem errKept_memErr (hk : k < if slow then 4 else 8) (a kind : Nat) : ErrKept slow k s (s.memErr slow a kind) := errKept_record hk ..

/-! ### The marks of a read, one after another (R325, R341) -/

/-- Where an error of a kind counts. -/
def markField : GMark → Nat × Nat
  | .oneC => (31, 0)
  | .failD => (47, 32)
  | .uncorrC => (63, 48)

theorem markField_le (m : GMark) : (markField m).2 ≤ (markField m).1 ∧ (markField m).1 < 64 := by cases m <;> decide

theorem markField_apart {m n : GMark} (h : m ≠ n) : (markField n).1 < (markField m).2 ∨ (markField m).1 < (markField n).2 := by
  cases m <;> cases n <;> first | exact absurd rfl h | decide

/-- The stack or controller of a granule. -/
def granuleUnit (slow : Bool) (g : Nat) : List Nat := (errRegs slow (64 * g)).2.2

theorem errReg_addr_ne {i k : Nat} (h : k ≠ i) : (errReg slow).row.addr [k] ≠ (errReg slow).row.addr [i] := by
  cases slow <;> simp [errReg, RegRow.addr, RegId.row, sumN_cons, sumN, h]

/-- What an error that counts leaves of the counts of its register. -/
theorem errCount_bump (k i : Nat) (m n : GMark) :
    (s.bump (errReg slow) [i] (markField m).1 (markField m).2).regF (errReg slow) [k] (markField n).1 (markField n).2 =
      if m = n ∧ [i] = [k] then min (s.regF (errReg slow) [k] (markField n).1 (markField n).2 + 1) (2 ^ ((markField n).1 + 1 - (markField n).2) - 1)
      else s.regF (errReg slow) [k] (markField n).1 (markField n).2 := by
  obtain ⟨hle, hlt⟩ := markField_le m
  by_cases hk : k = i
  · subst hk
    by_cases hm : m = n
    · subst hm
      rw [if_pos ⟨rfl, rfl⟩]
      exact regF_bumpBy_self s _ _ _ _ 1 hle hlt
    · rw [if_neg fun h => hm h.1]
      exact regF_setRegF_apart s _ _ _ _ _ _ _ hle hlt (markField_apart hm)
  · rw [if_neg fun h => hk (List.singleton_inj.1 h.2).symm]
    exact regF_setRegF_ne s _ _ _ _ _ _ _ _ _ (errReg_addr_ne hk)

/-- What reading a granule with a mark leaves: one symbol in error is corrected, and the error counts at its unit as what it is. -/
structure MarkStep (slow : Bool) (g : Nat) (m : GMark) (s t : State) : Prop where
  frame : ServiceChanges s t
  tier : t.tierOf slow = if m = .oneC then (s.tierOf slow).fix g else s.tierOf slow
  other : t.tierOf (!slow) = s.tierOf (!slow)
  count : ∀ k, k < (if slow then 4 else 8) → ∀ n : GMark, t.regF (errReg slow) [k] (markField n).1 (markField n).2 =
    if m = n ∧ granuleUnit slow g = [k] then
      min (s.regF (errReg slow) [k] (markField n).1 (markField n).2 + 1) (2 ^ ((markField n).1 + 1 - (markField n).2) - 1)
    else s.regF (errReg slow) [k] (markField n).1 (markField n).2

theorem granuleUnit_eq (slow : Bool) (g : Nat) : ∃ i, i < (if slow then 4 else 8) ∧ granuleUnit slow g = [i] := by
  cases slow
  · exact ⟨_, fld_13_11_lt _, rfl⟩
  · have h := fld_lt (64 * g) 14 11
    exact ⟨fld (64 * g) 14 11 / 4, by change fld (64 * g) 14 11 / 4 < 4; omega, rfl⟩

/-- The counted error followed by what leaves the counts and tiers alone. -/
theorem markStep_of_kept {g : Nat} {m : GMark} {i : Nat} (hi : granuleUnit slow g = [i])
    (h : ∀ k, k < (if slow then 4 else 8) → ErrKept slow k (s.bump (errReg slow) [i] (markField m).1 (markField m).2) t) (hm : m ≠ .oneC) :
    MarkStep slow g m s t := by
  have h0 := h 0 (by cases slow <;> decide)
  refine ⟨(serviceChanges_setRegF ..).trans h0.frame, ?_, ?_, fun k hk n => ?_⟩
  · rw [if_neg hm, h0.tier]
    cases slow <;> rfl
  · rw [h0.tier]
    cases slow <;> rfl
  · rw [hi]
    exact ((h k hk).regF _ _).trans (errCount_bump k i m n)

theorem tierOf_setTier_self (x : Tier) : (s.setTier slow x).tierOf slow = x := by cases slow <;> rfl

theorem tierOf_setTier_not (x : Tier) : (s.setTier slow x).tierOf (!slow) = s.tierOf (!slow) := by cases slow <;> rfl

theorem reg_setTier (x : Tier) (id : RegId) (ix : List Nat) : (s.setTier slow x).reg id ix = s.reg id ix := by cases slow <;> rfl

theorem errKept_slowOr (hk : k < if slow then 4 else 8) (b : Bool) (a : Nat) (atOnce : Bool) :
    ErrKept slow k s (if b then s else s.rowError a atOnce) := by
  cases b
  · exact errKept_rowError hk a atOnce
  · exact errKept_refl s

theorem markRead_eq (g : Nat) (m : GMark) : s.markRead slow g m =
    let u := s.bump (errReg slow) (granuleUnit slow g) (markField m).1 (markField m).2
    let v := match m with
      | .oneC => u.setTier slow ((u.tierOf slow).fix g)
      | .failD => u.noteErr slow (64 * g) 0 1
      | .uncorrC => u.noteErr slow (64 * g) 1 2
    if slow then v else v.rowError (64 * g) (m == .uncorrC) := by
  cases slow <;> cases m <;> rfl

theorem markStep_markRead (g : Nat) (m : GMark) : MarkStep slow g m s (s.markRead slow g m) := by
  obtain ⟨i, hi, hunit⟩ := granuleUnit_eq slow g
  rw [markRead_eq, hunit]
  extract_lets u v
  cases m with
  | oneC =>
    have hrow : ∀ k, k < (if slow then 4 else 8) → ErrKept slow k v (if slow then v else v.rowError (64 * g) (GMark.oneC == .uncorrC)) :=
      fun k hk => errKept_slowOr hk ..
    have h0 := hrow 0 (by cases slow <;> decide)
    refine ⟨((serviceChanges_setRegF ..).trans (serviceChanges_setTier slow _)).trans h0.frame, ?_, ?_, fun k hk n => ?_⟩
    · rw [h0.tier, if_pos rfl, tierOf_setTier_self]
      cases slow <;> rfl
    · rw [h0.tier, tierOf_setTier_not]
      cases slow <;> rfl
    · rw [hunit]
      exact ((hrow k hk).regF _ _).trans ((congrArg (getF · _ _) (reg_setTier _ _ _)).trans (errCount_bump k i .oneC n))
  | failD => exact markStep_of_kept hunit (fun k hk => (errKept_noteErr hk ..).trans (errKept_slowOr hk ..)) (by decide)
  | uncorrC => exact markStep_of_kept hunit (fun k hk => (errKept_noteErr hk ..).trans (errKept_slowOr hk ..)) (by decide)

/-- All marks of a read. -/
structure MarksRead (slow : Bool) (ms : FMap GMark) (s t : State) : Prop where
  frame : ServiceChanges s t
  tier : t.tierOf slow = (ms.filter fun m => decide (m.2 = .oneC)).foldl (fun f m => f.fix m.1) (s.tierOf slow)
  other : t.tierOf (!slow) = s.tierOf (!slow)
  count : ∀ k, k < (if slow then 4 else 8) → ∀ n : GMark, t.regF (errReg slow) [k] (markField n).1 (markField n).2 =
    min (s.regF (errReg slow) [k] (markField n).1 (markField n).2 +
      (ms.filter fun x => decide (x.2 = n) && granuleUnit slow x.1 == [k]).length) (2 ^ ((markField n).1 + 1 - (markField n).2) - 1)

theorem regF_le (id : RegId) (ix : List Nat) (hi lo : Nat) : s.regF id ix hi lo ≤ 2 ^ (hi + 1 - lo) - 1 := by
  have := getF_lt (s.reg id ix) hi lo
  change getF (s.reg id ix) hi lo ≤ _
  omega

theorem marksRead_foldl (ms : FMap GMark) (s : State) : MarksRead slow ms s (ms.foldl (fun u m => u.markRead slow m.1 m.2) s) := by
  induction ms generalizing s with
  | nil => exact ⟨rfl, rfl, rfl, fun k _ n => (min_eq_left (s.regF_le ..)).symm⟩
  | cons m ms ih =>
    obtain ⟨g, m⟩ := m
    have hstep := markStep_markRead (s := s) (slow := slow) g m
    have hrest := ih (s.markRead slow g m)
    refine ⟨hstep.frame.trans hrest.frame, ?_, hrest.other.trans hstep.other, fun k hk n => ?_⟩
    · refine hrest.tier.trans ?_
      rw [hstep.tier]
      by_cases hm : m = .oneC <;> simp [hm]
    · refine (hrest.count k hk n).trans ?_
      rw [hstep.count k hk n]
      by_cases hc : m = n ∧ granuleUnit slow g = [k]
      · rw [if_pos hc, List.filter_cons_of_pos (by simp [hc]), List.length_cons]
        omega
      · rw [if_neg hc, List.filter_cons_of_neg (by simpa using hc)]

/-! ### A service read of a tier that is open (R325) -/

theorem MarksRead.of_kept {ms : FMap GMark} (hpre : ∀ k, k < (if slow then 4 else 8) → ErrKept slow k s t) (h : MarksRead slow ms t u) :
    MarksRead slow ms s u := by
  have h0 := hpre 0 (by cases slow <;> decide)
  exact ⟨h0.frame.trans h.frame, h.tier.trans (by rw [h0.tier]), h.other.trans (h0.tier _), fun k hk n =>
    (h.count k hk n).trans (by rw [(hpre k hk).regF])⟩

theorem MarksRead.kept {ms : FMap GMark} (h : MarksRead slow ms s t) (hpost : ∀ k, k < (if slow then 4 else 8) → ErrKept slow k t u) :
    MarksRead slow ms s u := by
  have h0 := hpost 0 (by cases slow <;> decide)
  exact ⟨h.frame.trans h0.frame, (h0.tier _).trans h.tier, (h0.tier _).trans h.other, fun k hk n => ((hpost k hk).regF _ _).trans (h.count k hk n)⟩

theorem errKept_foldl {α : Type} {f : State → α → State} (hf : ∀ s a, ErrKept slow k s (f s a)) (l : List α) (s : State) :
    ErrKept slow k s (l.foldl f s) :=
  foldl_rel (ErrKept slow k) errKept_refl (fun h j => h.trans j) f hf l s

theorem tierOf_granules (a n : Nat) (b : Bool) : (s.granules slow a n).tierOf b = s.tierOf b := by
  have h := s.granules_frame slow a n
  rw [Counts] at h
  rw [h]
  rfl

/-- A service read that waits for no bank reads the marks of its range. -/
theorem marksRead_serviceRead (kind a n : Nat) (ht : s.touch slow a n = s) :
    MarksRead slow ((s.tierOf slow).marksIn a n) s (s.serviceRead kind slow a n).1 := by
  have hread : (s.tierRead slow a n).st =
      ((s.tierOf slow).marksIn a n).foldl (fun u m => u.markRead slow m.1 m.2) (s.granules slow a n) := by
    simp only [tierRead, ht]
    split <;> rfl
  have hmarks := marksRead_foldl (slow := slow) ((s.tierOf slow).marksIn a n) (s.granules slow a n)
  rw [← hread] at hmarks
  exact (hmarks.of_kept fun k hk => errKept_counts hk (s.granules_frame slow a n) (sameRegsBut_granules slow a n)).kept fun k hk =>
    errKept_foldl (fun t g => errKept_memErr hk _ _) _ _

theorem errKept_frameTraffic (cls : Nat) (b : Bool) (frames : Nat) : ErrKept slow k s (s.frameTraffic cls b frames) :=
  ⟨rfl, fun c => by cases c <;> rfl, rfl⟩

/-! ### Waking a tier (R32) -/

theorem sluHeat_fits {i : Nat} (hi : i < 8) : indexesFit RegId.sluHeat.row.dims [i] := ⟨hi, trivial⟩

theorem errKept_wakeHbm (hk : k < if slow then 4 else 8) {i : Nat} (hi : i < 8) : ErrKept slow k s (s.wakeHbm i) := by
  have hheat : errReg slow ≠ .sluHeat := by cases slow <;> decide
  have hsum : errReg slow ≠ .sluSummary := by cases slow <;> decide
  have hfit := sluHeat_fits hi
  unfold wakeHbm
  split
  · exact ((((errKept_turnOn _).trans (errKept_modStack _ _)).trans (errKept_setRegF hk hheat hfit _ _ _)).trans
      (errKept_setRegF hk hheat hfit _ _ _)).trans (errKept_setRegF hk (ix := []) hsum trivial _ _ _)
  · exact errKept_refl s

/-- The fields that say whether an access to a tier waits. -/
structure OpenKept (s t : State) : Prop where
  stopped : HeatKept s t
  repairing : ∀ st, (t.stack st).repairing = (s.stack st).repairing
  stalled : t.stalled = s.stalled
  xings : t.xings = s.xings

theorem OpenKept.trans (h : OpenKept s t) (j : OpenKept t u) : OpenKept s u :=
  ⟨heatKept_trans h.stopped j.stopped, fun st => (j.repairing st).trans (h.repairing st), j.stalled.trans h.stalled, j.xings.trans h.xings⟩

theorem OpenKept.tiersOpen (h : OpenKept s t) (ho : Claims.TiersOpen s) : Claims.TiersOpen t := by
  obtain ⟨hstack, hstalled, hphys⟩ := ho
  refine ⟨fun st => ⟨(h.stopped st).trans (hstack st).1, (h.repairing st).trans (hstack st).2⟩, h.stalled.trans hstalled, ?_⟩
  rw [PhysUp, h.xings]
  exact hphys

theorem openKept_refl (s : State) : OpenKept s s := ⟨fun _ => rfl, fun _ => rfl, rfl, rfl⟩

/-- A field of SLU_HEAT but the trip. -/
theorem openKept_setSluHeat (i : Nat) {hi lo : Nat} (hle : lo ≤ hi) (hlt : hi < 64) (h : 34 < lo) (v : Nat) :
    OpenKept s (s.setRegF .sluHeat [i] hi lo v) := by
  refine ⟨fun st => congrArg (· == 1) ?_, fun _ => rfl, rfl, rfl⟩
  by_cases hst : st = i
  · rw [hst]
    exact regF_setRegF_apart s _ _ _ _ _ _ _ hle hlt (Or.inl h)
  · have hne : RegId.sluHeat.row.addr [st] ≠ RegId.sluHeat.row.addr [i] := by
      rw [sluHeat_addr_eq, sluHeat_addr_eq]
      omega
    exact regF_setRegF_ne s _ _ _ _ _ _ _ _ _ hne

theorem openKept_turnOn (d : Nat) : OpenKept s (s.turnOn d) := ⟨fun _ => rfl, fun _ => rfl, rfl, rfl⟩

theorem openKept_modStack (i : Nat) {f : Stack → Stack} (hf : ∀ x, (f x).repairing = x.repairing) : OpenKept s (s.modStack i f) := by
  refine ⟨fun _ => rfl, fun st => ?_, rfl, rfl⟩
  by_cases hst : st = i
  · rw [hst, stack_modStack_self, hf]
  · rw [stack_modStack_ne _ _ _ hst]

theorem openKept_setSummary (hi lo v : Nat) : OpenKept s (s.setRegF .sluSummary [] hi lo v) :=
  ⟨heatKept_setRegF (by decide) _ _ _, fun _ => rfl, rfl, rfl⟩

theorem openKept_wakeHbm (i : Nat) : OpenKept s (s.wakeHbm i) := by
  unfold wakeHbm
  split
  · extract_lets u
    have hu : OpenKept s u := (openKept_turnOn (144 + i)).trans (openKept_modStack i fun _ => rfl)
    clear_value u
    have h35 := openKept_setSluHeat (s := u) i (hi := 35) (lo := 35) (by omega) (by omega) (by omega) 0
    have h39 := openKept_setSluHeat (s := u.setRegF .sluHeat [i] 35 35 0) i (hi := 39) (lo := 36) (by omega) (by omega) (by omega) 15
    exact ((hu.trans h35).trans h39).trans (openKept_setSummary ..)
  · exact openKept_refl s

theorem wakeTier_false (s : State) : s.wakeTier false = (List.range 8).foldl wakeHbm s := rfl

theorem errKept_wakeTier (hk : k < if slow then 4 else 8) (b : Bool) : ErrKept slow k s (s.wakeTier b) := by
  cases b with
  | true => exact errKept_refl s
  | false =>
    rw [wakeTier_false]
    generalize hl : List.range 8 = l
    have hlt : ∀ i ∈ l, i < 8 := fun i hi => List.mem_range.1 (hl ▸ hi)
    clear hl
    induction l generalizing s with
    | nil => exact errKept_refl s
    | cons i l ih => exact (errKept_wakeHbm hk (hlt i (List.mem_cons_self ..))).trans (ih fun j hj => hlt j (List.mem_cons_of_mem _ hj))

theorem openKept_wakeTier (b : Bool) : OpenKept s (s.wakeTier b) := by
  cases b with
  | true => exact openKept_refl s
  | false =>
    rw [wakeTier_false]
    exact foldl_rel OpenKept openKept_refl (fun h j => h.trans j) wakeHbm (fun t i => openKept_wakeHbm i) _ s

theorem touch_of_tiersOpen (h : Claims.TiersOpen s) (a n : Nat) : s.touch slow a n = s := by
  obtain ⟨hstack, -, hphys⟩ := h
  exact s.touch_idle slow a n hphys (.inr hstack)

/-- A scrub reads the marks of its frame. -/
theorem marksRead_scrub (h : Claims.TiersOpen s) (ppn : Nat) (hd : ppn ∉ (s.tierOf slow).classD) :
    MarksRead slow ((s.tierOf slow).marksIn (ppn * mib2) mib2) s (s.scrub slow ppn) := by
  have hwake := (openKept_wakeTier slow).tiersOpen h
  have hread := marksRead_serviceRead (s := s.wakeTier slow) (slow := slow) 5 (ppn * mib2) mib2 (touch_of_tiersOpen hwake _ _)
  have hall : MarksRead slow ((s.tierOf slow).marksIn (ppn * mib2) mib2) s
      (((s.wakeTier slow).serviceRead 5 slow (ppn * mib2) mib2).1.frameTraffic serviceClass slow 1) := by
    have htier := (errKept_wakeTier (s := s) (slow := slow) (k := 0) (by cases slow <;> decide) slow).tier slow
    rw [htier] at hread
    exact (hread.of_kept fun k hk => errKept_wakeTier hk slow).kept fun k hk => errKept_frameTraffic ..
  have hsettle : (s.wakeTier slow).settle (((s.wakeTier slow).serviceRead 5 slow (ppn * mib2) mib2).1.frameTraffic serviceClass slow 1) =
      ((s.wakeTier slow).serviceRead 5 slow (ppn * mib2) mib2).1.frameTraffic serviceClass slow 1 := by
    have hf : ServiceChanges (s.wakeTier slow) (((s.wakeTier slow).serviceRead 5 slow (ppn * mib2) mib2).1.frameTraffic serviceClass slow 1) :=
      hread.frame.trans (errKept_frameTraffic (slow := slow) (k := 0) ..).frame
    exact settle_eq hf.stalled hf.failing
  rw [scrub, if_neg (by simpa [hasN_eq] using hd)]
  exact hsettle ▸ hall

/-! ### A scrub of the slow tier that finds one symbol at most in each granule -/

/-- Registers, the slow tier, traffic and counters. -/
def SlowRead (s t : State) : Prop := t = { s with slow := t.slow, mrs := t.mrs, sluices := t.sluices, dieSeen := t.dieSeen }

theorem SlowRead.trans (h : SlowRead s t) (k : SlowRead t u) : SlowRead s u := by
  rw [SlowRead] at h k ⊢
  rw [h] at k
  exact k

theorem slowRead_of_counts (h : Counts s t) : SlowRead s t := by
  rw [Counts] at h
  rw [SlowRead, h]

theorem slowRead_markRead (g : Nat) : SlowRead s (s.markRead true g .oneC) := rfl

theorem slowRead_foldl {ms : FMap GMark} (h : ∀ m ∈ ms, m.2 = .oneC) (s : State) :
    SlowRead s (ms.foldl (fun u m => u.markRead true m.1 m.2) s) := by
  induction ms generalizing s with
  | nil => rfl
  | cons m ms ih =>
    have hm := slowRead_markRead (s := s) m.1
    rw [List.foldl_cons, h m (List.mem_cons_self ..)]
    exact hm.trans (ih (fun n hn => h n (List.mem_cons_of_mem _ hn)) _)

theorem slowRead_scrub {ppn : Nat} (ho : Claims.TiersOpen s) (hd : ppn ∉ s.slow.classD)
    (h : ∀ m ∈ s.slow.marksIn (ppn * mib2) mib2, m.2 = .oneC) : SlowRead s (s.scrub true ppn) := by
  have htouch : s.touch true (ppn * mib2) mib2 = s := touch_of_tiersOpen ho _ _
  have hbad : (s.slow.marksIn (ppn * mib2) mib2).filter (fun m => decide (m.2 ≠ GMark.oneC)) = [] :=
    List.filter_eq_nil_iff.2 fun m hm => by simp [h m hm]
  have hst : (s.serviceRead 5 true (ppn * mib2) mib2).1 =
      (s.slow.marksIn (ppn * mib2) mib2).foldl (fun u m => u.markRead true m.1 m.2) (s.granules true (ppn * mib2) mib2) := by
    simp only [serviceRead, tierOf, if_true, hbad, List.map_nil, List.foldl_nil, tierRead, htouch]
    split <;> rfl
  have hread : SlowRead s (s.serviceRead 5 true (ppn * mib2) mib2).1 := by
    rw [hst]
    exact (slowRead_of_counts (s.granules_frame true _ _)).trans (slowRead_foldl h _)
  have hall : SlowRead s ((s.serviceRead 5 true (ppn * mib2) mib2).1.frameTraffic serviceClass true 1) := hread.trans rfl
  have hsettle : s.settle ((s.serviceRead 5 true (ppn * mib2) mib2).1.frameTraffic serviceClass true 1) =
      (s.serviceRead 5 true (ppn * mib2) mib2).1.frameTraffic serviceClass true 1 := by
    rw [SlowRead] at hall
    exact settle_eq (by rw [hall]) (by rw [hall])
  have hscrub : s.scrub true ppn = s.settle ((s.serviceRead 5 true (ppn * mib2) mib2).1.frameTraffic serviceClass true 1) := by
    have hno : ¬ hasN (s.tierOf true).classD ppn = true := by
      rw [hasN_eq, decide_eq_true_eq]
      exact hd
    rw [scrub, if_neg hno]
    rfl
  rw [hscrub, hsettle]
  exact hall

/-! ### Row repair (R336) -/

/-- Registers, stacks and the fast tier. -/
def RepairChanges (s t : State) : Prop := t = { s with mrs := t.mrs, hbm := t.hbm, fast := t.fast }

theorem RepairChanges.trans (h : RepairChanges s t) (k : RepairChanges t u) : RepairChanges s u := by
  rw [RepairChanges] at h k ⊢
  rw [h] at k
  exact k

theorem repairDone_eq {st row : Nat} {rest : List Nat} (h : (s.stack st).repairing = row :: rest) : s.repairDone st =
    (({ s.modStack st (fun x => { x with repairing := rest, rows := x.rows.erase row }) with
        fast := ((s.fast.marksIn (2048 * row) 2048).filter fun m => decide (m.2 = .oneC)).foldl (fun f m => f.fix m.1) s.fast } : State).bump
      .sluPpr [st] 63 48).bump .sluPpr [st] 39 32 := by
  rw [repairDone, h]
  rfl

theorem repairDone_effect {st row : Nat} {rest : List Nat} (h : (s.stack st).repairing = row :: rest) :
    ((s.repairDone st).stack st).repairing = rest ∧
      (s.repairDone st).regF .sluPpr [st] 63 48 = min (s.regF .sluPpr [st] 63 48 + 1) 0xFFFF ∧
      (s.repairDone st).regF .sluPpr [st] 39 32 = min (s.regF .sluPpr [st] 39 32 + 1) 0xFF ∧
      (s.repairDone st).fast = ((s.fast.marksIn (2048 * row) 2048).filter fun m => decide (m.2 = .oneC)).foldl (fun f m => f.fix m.1) s.fast ∧
      RepairChanges s (s.repairDone st) := by
  rw [repairDone_eq h]
  generalize hf : ((s.fast.marksIn (2048 * row) 2048).filter fun m => decide (m.2 = .oneC)).foldl (fun f m => f.fix m.1) s.fast = f
  have hstack : ((s.modStack st fun x => { x with repairing := rest, rows := x.rows.erase row }).stack st).repairing = rest := by
    rw [stack_modStack_self]
  have hreg : ∀ hi lo, ({ s.modStack st (fun x => { x with repairing := rest, rows := x.rows.erase row }) with fast := f } : State).regF
      .sluPpr [st] hi lo = s.regF .sluPpr [st] hi lo := fun _ _ => rfl
  have hframe : RepairChanges s { s.modStack st (fun x => { x with repairing := rest, rows := x.rows.erase row }) with fast := f } := rfl
  have hrep : (({ s.modStack st (fun x => { x with repairing := rest, rows := x.rows.erase row }) with fast := f } : State).stack st).repairing =
      rest := hstack
  have hfast : ({ s.modStack st (fun x => { x with repairing := rest, rows := x.rows.erase row }) with fast := f } : State).fast = f := rfl
  generalize ({ s.modStack st (fun x => { x with repairing := rest, rows := x.rows.erase row }) with fast := f } : State) = v
    at hreg hframe hrep hfast
  have hbump : ∀ (w : State) (hi lo : Nat), RepairChanges w (w.bump .sluPpr [st] hi lo) := fun _ _ _ => rfl
  refine ⟨hrep, ?_, ?_, hfast, (hframe.trans (hbump _ _ _)).trans (hbump _ _ _)⟩
  · rw [← hreg]
    exact (regF_setRegF_apart _ _ _ _ _ _ _ _ (by omega) (by omega) (by omega)).trans (regF_bumpBy_self v _ _ _ _ 1 (by omega) (by omega))
  · refine (regF_bumpBy_self _ .sluPpr [st] 39 32 1 (by omega) (by omega)).trans ?_
    rw [← hreg]
    exact congrArg (fun n => min (n + 1) 255) (regF_setRegF_apart v _ _ _ _ _ _ _ (by omega) (by omega) (by omega))

/-! ### SLU_CLEAR (R344) -/

theorem getF_or_one (v : Long) {hi lo : Nat} (h : 0 < lo) : getF (v ||| 1#64) hi lo = getF v hi lo := by
  refine Nat.eq_of_testBit_eq fun i => ?_
  rw [getF_testBit, getF_testBit, BitVec.testBit_toNat, BitVec.testBit_toNat, BitVec.getLsbD_or]
  have hone : (1#64).getLsbD (lo + i) = false := by
    rw [BitVec.getLsbD_one]
    simp only [Bool.and_eq_false_iff, decide_eq_false_iff_not]
    omega
  rw [hone, Bool.or_false]

theorem getF_or_one_low (v : Long) : getF (v ||| 1#64) 0 0 = 1 := by
  have hlt := getF_lt (v ||| 1#64) 0 0
  have hbit : (getF (v ||| 1#64) 0 0).testBit 0 = true := by
    rw [getF_testBit, BitVec.testBit_toNat, BitVec.getLsbD_or]
    simp
  change getF (v ||| 1#64) 0 0 < 2 at hlt
  by_contra hne
  have h0 : getF (v ||| 1#64) 0 0 = 0 := by omega
  rw [h0] at hbit
  exact absurd hbit (by decide)

theorem wrSluClear_busy (h : s.regF .sluClear [] 63 63 = 1) (v : Long) : s.wrSluClear (v ||| 1#64) = none := by
  rw [wrSluClear, if_neg (by rw [getF_or_one_low]; decide), if_pos h]

/-- SLU_CLEAR as the write with GO leaves it. -/
def clearWritten (s : State) (v : Long) : State := s.plainWrite .sluClear [] (v ||| 1#64)

theorem sluClear_clearWritten (v : Long) :
    (s.clearWritten v).regF .sluClear [] 61 61 = getF v 61 61 ∧ (s.clearWritten v).regF .sluClear [] 60 41 = getF v 60 41 ∧
      (s.clearWritten v).regF .sluClear [] 40 21 = getF v 40 21 ∧
      (s.clearWritten v).regF .sluClear [] 63 63 = s.regF .sluClear [] 63 63 := by
  have hreg : (s.clearWritten v).reg .sluClear [] = codeWritten RegId.sluClear.row (s.reg .sluClear []) (v ||| 1#64) := s.reg_plainWrite_self ..
  simp only [State.regF, hreg]
  refine ⟨?_, ?_, ?_, getF_codeWritten_kept _ _ (by decide) (by decide)⟩
  · exact (getF_codeWritten _ _ (by decide) (by decide)).trans (getF_or_one v (by decide))
  · exact (getF_codeWritten _ _ (by decide) (by decide)).trans (getF_or_one v (by decide))
  · exact (getF_codeWritten _ _ (by decide) (by decide)).trans (getF_or_one v (by decide))

theorem partFrames_clearWritten (v : Long) (b : Bool) : (s.clearWritten v).partFrames b = s.partFrames b := by
  have honly : OnlyRegs s (s.clearWritten v) := s.onlyRegs_plainWrite _ _ _
  rw [OnlyRegs] at honly
  rw [honly]
  rfl

theorem firing_clearWritten (v : Long) (p : Nat) : (s.clearWritten v).firing p = s.firing p := by
  have honly : OnlyRegs s (s.clearWritten v) := s.onlyRegs_plainWrite _ _ _
  have hreg : (s.clearWritten v).reg .keepPartState [] = s.reg .keepPartState [] :=
    reg_of_sameRegsBut (s.sameRegsBut_plainWrite .sluClear [] _) (by decide)
  have hpart : (s.clearWritten v).part p = s.part p := by
    rw [OnlyRegs] at honly
    rw [honly]
    rfl
  simp only [firing, isRunning, pstate, State.regF, hreg, hpart]

theorem mappedRunning_clearWritten (v : Long) (b : Bool) (lo n : Nat) : (s.clearWritten v).mappedRunning b lo n = s.mappedRunning b lo n := by
  have honly : OnlyRegs s (s.clearWritten v) := s.onlyRegs_plainWrite _ _ _
  have hpart : ∀ p, (s.clearWritten v).part p = s.part p := fun p => by
    rw [OnlyRegs] at honly
    rw [honly]
    rfl
  simp only [mappedRunning, firing_clearWritten, hpart]

/-- The range that a write of SLU_CLEAR names may be cleared. -/
def clearOk (s : State) (v : Long) : Prop :=
  getF v 60 41 + getF v 40 21 ≤ s.partFrames (decide (getF v 61 61 = 1)) ∧
    s.mappedRunning (decide (getF v 61 61 = 1)) (getF v 60 41) (getF v 40 21) = false

/-- The state before the range is cleared: BUSY is set, ERR is not. -/
def clearBegun (s : State) (v : Long) : State :=
  (((s.clearWritten v).wakeTier (decide (getF v 61 61 = 1))).setRegF .sluClear [] 63 63 1).setRegF .sluClear [] 62 62 0

theorem wrSluClear_ok (h : s.regF .sluClear [] 63 63 = 0) {v : Long} (hok : s.clearOk v) : s.wrSluClear (v ||| 1#64) =
    some ((((s.clearBegun v).setTier (decide (getF v 61 61 = 1)) (clearTier ((s.clearBegun v).tierOf (decide (getF v 61 61 = 1)))
      (getF v 60 41) (getF v 40 21))).frameTraffic serviceClass (decide (getF v 61 61 = 1)) (getF v 40 21)).framesMoved
        (decide (getF v 61 61 = 1)) (getF v 40 21)) := by
  obtain ⟨h61, h60, h40, -⟩ := s.sluClear_clearWritten v
  have hgo : ¬ getF (v ||| 1#64) 0 0 = 0 := by rw [getF_or_one_low]; decide
  have hfree : ¬ s.regF .sluClear [] 63 63 = 1 := by omega
  have hok' : getF v 60 41 + getF v 40 21 ≤ (s.clearWritten v).partFrames (decide (getF v 61 61 = 1)) ∧
      (s.clearWritten v).mappedRunning (decide (getF v 61 61 = 1)) (getF v 60 41) (getF v 40 21) = false := by
    rw [partFrames_clearWritten, mappedRunning_clearWritten]
    exact hok
  rw [wrSluClear, if_neg hgo, if_neg hfree]
  change (if _ then some _ else some _) = _
  rw [← clearWritten, h61, h60, h40, if_pos hok']
  rfl

theorem wrSluClear_refused (h : s.regF .sluClear [] 63 63 = 0) {v : Long} (hok : ¬ s.clearOk v) :
    s.wrSluClear (v ||| 1#64) = some ((s.clearWritten v).setRegF .sluClear [] 62 62 1) := by
  obtain ⟨h61, h60, h40, -⟩ := s.sluClear_clearWritten v
  have hgo : ¬ getF (v ||| 1#64) 0 0 = 0 := by rw [getF_or_one_low]; decide
  have hfree : ¬ s.regF .sluClear [] 63 63 = 1 := by omega
  have hok' : ¬ (getF v 60 41 + getF v 40 21 ≤ (s.clearWritten v).partFrames (decide (getF v 61 61 = 1)) ∧
      (s.clearWritten v).mappedRunning (decide (getF v 61 61 = 1)) (getF v 60 41) (getF v 40 21) = false) := by
    rw [partFrames_clearWritten, mappedRunning_clearWritten]
    exact hok
  rw [wrSluClear, if_neg hgo, if_neg hfree]
  change (if _ then some _ else some _) = _
  rw [← clearWritten, h61, h60, h40, if_neg hok']

theorem framesMoved_frame (b : Bool) (n : Nat) : Counts s (s.framesMoved b n) ∧ SameRegsBut dieCounters s (s.framesMoved b n) :=
  ⟨foldl_rel Counts counts_refl (fun h k => counts_trans h k) _ (fun t i => pmcDie_frame t _ _ _) _ s,
    sameRegsBut_foldl fun t i _ => sameRegsBut_pmcDie _ _ _⟩

theorem clearBegun_frame (v : Long) : MemKept s (s.clearBegun v) ∧ (s.clearBegun v).regF .sluClear [] 63 63 = 1 ∧
    (s.clearBegun v).regF .sluClear [] 62 62 = 0 := by
  have hwritten := memKept_of_onlyRegs (s.onlyRegs_plainWrite .sluClear [] (v ||| 1#64))
  have hwake := errKept_wakeTier (s := s.clearWritten v) (slow := false) (k := 0) (by decide) (decide (getF v 61 61 = 1))
  refine ⟨((hwritten.trans (hwake.frame.memKept hwake.tier)).trans (memKept_of_onlyRegs (onlyRegs_setReg _ _ _ _))).trans
    (memKept_of_onlyRegs (onlyRegs_setReg _ _ _ _)), ?_, ?_⟩
  · exact (regF_setRegF_apart _ _ _ _ _ _ _ _ (by omega) (by omega) (by omega)).trans (regF_setRegF_self _ _ _ _ _ _ (by omega) (by omega))
  · exact regF_setRegF_self _ _ _ _ _ _ (by omega) (by omega)

theorem cells_setTier_clearTier (b : Bool) (lo n : Nat) (pl : Place) (a : Nat) :
    readByte ((s.setTier b (clearTier (s.tierOf b) lo n)).cells pl) a =
      if pl = .tier b ∧ lo * mib2 ≤ a ∧ a < (lo + n) * mib2 then 0 else readByte (s.cells pl) a := by
  have hmul : (lo + n) * mib2 = lo * mib2 + n * mib2 := Nat.add_mul ..
  rw [hmul]
  cases pl with
  | tier c =>
    by_cases hc : c = b
    · subst hc
      have hcells : (s.setTier c (clearTier (s.tierOf c) lo n)).cells (.tier c) = clearBytes (s.cells (.tier c)) (lo * mib2) (n * mib2) := by
        cases c <;> rfl
      rw [hcells, readByte_clearBytes]
      simp
    · have hcells : (s.setTier b (clearTier (s.tierOf b) lo n)).cells (.tier c) = s.cells (.tier c) := by
        cases b <;> cases c <;> first | rfl | exact absurd rfl hc
      rw [hcells, if_neg fun h => hc (Place.tier.inj h.1)]
  | vat i =>
    rw [if_neg nofun]
    cases b <;> rfl
  | pool i =>
    rw [if_neg nofun]
    cases b <;> rfl

end State
end Sys2Proof.Machine

open Sys2Proof Sys2Proof.Machine

theorem framesAreCleared : Claims.FramesAreCleared := by
  intro s v slow lo n ok
  have hexec : exec (.sluClearGo v) s = .next (s.wroteAt .sluClear [] (s.wrSluClear (v ||| 1#64))) := rfl
  refine ⟨fun hbusy => ?_, fun hr hfree hok => ?_, fun hr hfree hok => ?_, ?_⟩
  · rw [hexec, State.wrSluClear_busy hbusy, State.wroteAt]
    split <;> rfl
  · have hreach : s.unreachable .sluClear [] = false := rfl
    rw [hexec, State.wrSluClear_ok hfree hok, State.wroteAt, hreach, hr]
    refine ⟨_, rfl, ?_⟩
    obtain ⟨hmem, h63, h62⟩ := State.clearBegun_frame (s := s) v
    change _ = 1 ∧ _ = 0 ∧ _
    generalize s.clearBegun v = x at hmem h63 h62
    obtain ⟨hcounts, hregs⟩ := State.framesMoved_frame (s := (x.setTier slow (State.clearTier (x.tierOf slow) lo n)).frameTraffic State.serviceClass slow n) slow n
    have hreg : ((((x.setTier slow (State.clearTier (x.tierOf slow) lo n)).frameTraffic State.serviceClass slow n).framesMoved slow n).reg .sluClear []) =
        x.reg .sluClear [] := (State.reg_of_sameRegsBut hregs (by decide)).trans (State.reg_setTier _ _ _)
    have hcells : ∀ pl a, readByte ((((x.setTier slow (State.clearTier (x.tierOf slow) lo n)).frameTraffic State.serviceClass slow n).framesMoved slow n).cells pl) a
        = if pl = .tier slow ∧ lo * mib2 ≤ a ∧ a < (lo + n) * mib2 then 0 else readByte (s.cells pl) a := by
      intro pl a
      have hmoved : ∀ pl, (((x.setTier slow (State.clearTier (x.tierOf slow) lo n)).frameTraffic State.serviceClass slow n).framesMoved slow n).cells pl =
          (x.setTier slow (State.clearTier (x.tierOf slow) lo n)).cells pl := fun pl => by
        rw [State.Counts] at hcounts
        rw [hcounts]
        cases pl <;> rfl
      rw [hmoved, State.cells_setTier_clearTier, hmem.sameMem pl a]
    refine ⟨(congrArg (getF · 63 63) hreg).trans h63, (congrArg (getF · 62 62) hreg).trans h62, fun pl a hne => ?_, fun a hlo hhi => ?_⟩
    · exact (hcells pl a).trans (if_neg (by rwa [Nat.add_mul]))
    · exact (hcells _ a).trans (if_pos ⟨rfl, hlo, hhi⟩)
  · have hreach : s.unreachable .sluClear [] = false := rfl
    rw [hexec, State.wrSluClear_refused hfree hok, State.wroteAt, hreach, hr]
    refine ⟨_, rfl, ?_, State.regF_setRegF_self _ _ _ _ _ _ (by omega) (by omega), ?_⟩
    · exact (State.regF_setRegF_apart _ _ _ _ _ _ _ _ (by omega) (by omega) (by omega)).trans ((s.sluClear_clearWritten v).2.2.2.trans hfree)
    · exact ((State.memKept_of_onlyRegs (s.onlyRegs_plainWrite _ _ _)).trans (State.memKept_of_onlyRegs (State.onlyRegs_setReg _ _ _ _))).sameMem
  · exact ⟨_, rfl, rfl, State.regF_setRegF_self _ _ _ _ _ _ (by omega) (by omega), State.sameRegsBut_setReg s .sluClear [] _⟩

theorem scrubsAndRepairs : Claims.ScrubsAndRepairs := by
  constructor
  · intro s slow ppn marks ones er count
    refine ⟨fun hd => ?_, fun ho hd => ?_⟩
    · change Host.Outcome.next (s.scrub slow ppn) = _
      rw [State.scrub, if_pos (by simpa [hasN_eq] using hd)]
    · have hread := State.marksRead_scrub ho ppn hd
      have hcount := hread.count
      obtain ⟨hvats, hpools, hcores, hparts⟩ := hread.frame.rest
      refine ⟨s.scrub slow ppn, rfl, hread.tier, hread.other, fun k hk => ⟨hcount k hk .oneC, hcount k hk .failD, hcount k hk .uncorrC⟩,
        hvats, hpools, hcores, hparts, ?_⟩
      rintro rfl hall
      exact State.slowRead_scrub ho hd fun m hm => by
        have hm' : m ∈ ones := hall ▸ hm
        exact of_decide_eq_true (List.mem_filter.1 hm').2
  · intro s st row rest h
    obtain ⟨hrep, h63, h39, hfast, hframe⟩ := State.repairDone_effect h
    exact ⟨s.repairDone st, rfl, hrep, h63, h39, hfast, hframe⟩

/-- Settles O38. -/
theorem framesScrubsAndRepairs : Obligations.FramesScrubsAndRepairs := ⟨framesAreCleared, scrubsAndRepairs⟩

end

section
/-! SUPPORT. The link ports' commands: what each leaves of the other ports, and how a port comes to rest with what it held dropped. -/

namespace Sys2Proof.Machine
namespace State

variable {s t u : State} {p : Nat}

/-! ### One port alone differs -/

theorem onlyPort_refl (l : List Nat) (s : State) : Claims.OnlyPort p l s s := ⟨rfl, fun _ _ _ => rfl, fun _ _ => rfl, fun _ _ => rfl⟩

theorem onlyPort_trans {l : List Nat} (h : Claims.OnlyPort p l s t) (k : Claims.OnlyPort p l t u) : Claims.OnlyPort p l s u := by
  obtain ⟨hf, hr, hp, hx⟩ := h
  obtain ⟨kf, kr, kp, kx⟩ := k
  refine ⟨?_, sameRegsBut_mono (sameRegsBut_trans hr kr) (by simp), fun q hq => (kp q hq).trans (hp q hq), fun x hq => (kx x hq).trans (hx x hq)⟩
  rw [hf] at kf
  exact kf

theorem onlyPort_setReg {id : RegId} (h : id ∈ [RegId.lnkStatus, .lnkCtrl, .lnkLane]) (v : Long) :
    Claims.OnlyPort p (Claims.portRegs p) s (s.setReg id [p] v) :=
  ⟨rfl, sameRegsBut_mono (sameRegsBut_setReg s id [p] v) (by
      rintro a ha
      rw [List.mem_singleton.1 ha]
      exact List.mem_map_of_mem (f := fun i : RegId => i.row.addr [p]) h),
    fun _ _ => rfl, fun _ _ => rfl⟩

theorem onlyPort_setRegF {id : RegId} (h : id ∈ [RegId.lnkStatus, .lnkCtrl, .lnkLane]) (hi lo v : Nat) :
    Claims.OnlyPort p (Claims.portRegs p) s (s.setRegF id [p] hi lo v) := onlyPort_setReg h _

theorem onlyPort_modPort (l : List Nat) (f : Port → Port) : Claims.OnlyPort p l s (s.modPort p f) :=
  ⟨rfl, fun _ _ _ => rfl, fun _ hq => port_modPort_ne _ _ _ hq, fun _ _ => rfl⟩

theorem onlyPort_event (l : List Nat) (mailbox code : Nat) (body : List Byte) : Claims.OnlyPort p l s (s.event mailbox code body) :=
  ⟨rfl, fun _ _ _ => rfl, fun _ _ => rfl, fun _ _ => rfl⟩

theorem port_event (s : State) (mailbox code : Nat) (body : List Byte) (q : Nat) : (s.event mailbox code body).port q = s.port q := rfl

theorem waiting_event (s : State) (mailbox code : Nat) (body : List Byte) : (s.event mailbox code body).waiting = s.waiting := rfl

theorem regF_event (s : State) (mailbox code : Nat) (body : List Byte) (id : RegId) (ix : List Nat) (hi lo : Nat) :
    (s.event mailbox code body).regF id ix hi lo = s.regF id ix hi lo := rfl

theorem onlyPort_waiting (l : List Nat) (w : List Waiting) : Claims.OnlyPort p l s { s with waiting := w } :=
  ⟨rfl, fun _ _ _ => rfl, fun _ _ => rfl, fun _ _ => rfl⟩

/-- The port's crossings. -/
theorem onlyPort_modXing (l : List Nat) {x : Nat} (h : x / 17 = p) (f : Xing → Xing) : Claims.OnlyPort p l s (s.modXing x f) :=
  ⟨rfl, fun _ _ _ => rfl, fun _ _ => rfl, fun y hy => xing_modXing_ne _ _ _ fun e => hy (e ▸ h)⟩

theorem onlyPort_resetNotice (l : List Nat) {x : Nat} (h : x / 17 = p) (clocked : Bool) : Claims.OnlyPort p l s (s.resetNotice x clocked) := by
  rw [resetNotice]
  by_cases hc : (if clocked = true then (s.xing x).clkReset else (s.xing x).selfReset) = true
  · rw [if_pos hc]
    exact onlyPort_refl l s
  · rw [if_neg hc]
    exact onlyPort_trans (onlyPort_trans (onlyPort_modXing l h _) (onlyPort_modXing l h _)) (onlyPort_modXing l h _)

theorem onlyPort_sideReset (l : List Nat) (s : State) (p : Nat) (clocked : Bool) : Claims.OnlyPort p l s (s.sideReset (17 * p) 17 clocked) := by
  have hmem : ∀ i ∈ upFrom (17 * p) 17, i / 17 = p := fun i hi => by
    obtain ⟨h1, h2⟩ := List.mem_range'_1.1 hi
    omega
  rw [sideReset]
  generalize upFrom (17 * p) 17 = xs at hmem
  induction xs generalizing s with
  | nil => exact onlyPort_refl l s
  | cons x xs ih =>
    have hx := hmem x (List.mem_cons_self ..)
    refine onlyPort_trans ?_ (ih _ fun i hi => hmem i (List.mem_cons_of_mem _ hi))
    dsimp only
    by_cases hc : (if clocked = true then (s.xing x).clkReset else (s.xing x).selfReset) = true
    · rw [if_pos hc]
      exact onlyPort_refl l s
    · rw [if_neg hc]
      exact onlyPort_trans (onlyPort_resetNotice l hx clocked) (onlyPort_modXing l hx _)

/-- A reset of crossings moves crossings alone. -/
def OnlyXings (s t : State) : Prop := t = { s with xings := t.xings }

theorem OnlyXings.trans (h : OnlyXings s t) (k : OnlyXings t u) : OnlyXings s u := by
  rw [OnlyXings] at h k ⊢
  rw [h] at k
  exact k

theorem onlyXings_sideReset (s : State) (x n : Nat) (clocked : Bool) : OnlyXings s (s.sideReset x n clocked) := by
  have hmod : ∀ (s : State) x f, OnlyXings s (s.modXing x f) := fun _ _ _ => rfl
  refine foldl_rel OnlyXings (fun _ => rfl) (fun h k => h.trans k) _ (fun t i => ?_) _ s
  by_cases hc : (if clocked = true then (t.xing i).clkReset else (t.xing i).selfReset) = true
  · rw [if_pos hc]
    rfl
  · rw [if_neg hc]
    refine OnlyXings.trans ?_ (hmod _ _ _)
    rw [resetNotice, if_neg hc]
    exact ((hmod _ _ _).trans (hmod _ _ _)).trans (hmod _ _ _)

theorem OnlyXings.regF (h : OnlyXings s t) (id : RegId) (ix : List Nat) (hi lo : Nat) : t.regF id ix hi lo = s.regF id ix hi lo := by
  rw [OnlyXings] at h
  rw [h]
  rfl

theorem OnlyXings.port (h : OnlyXings s t) (q : Nat) : t.port q = s.port q := by
  rw [OnlyXings] at h
  rw [h]
  rfl

theorem OnlyXings.waiting (h : OnlyXings s t) : t.waiting = s.waiting := by
  rw [OnlyXings] at h
  rw [h]

/-! ### The state and width of a port (R348) -/

theorem onlyPort_setLinkState (v : Nat) : Claims.OnlyPort p (Claims.portRegs p) s (s.setLinkState p v) := onlyPort_setRegF (by decide) _ _ _

theorem onlyPort_setWidth (version pairs : Nat) : Claims.OnlyPort p (Claims.portRegs p) s (s.setWidth p version pairs) :=
  onlyPort_trans (onlyPort_trans (onlyPort_trans (onlyPort_setRegF (by decide) _ _ _) (onlyPort_setRegF (by decide) _ _ _))
    (onlyPort_setRegF (by decide) _ _ _)) (onlyPort_setRegF (by decide) _ _ _)

/-- Version and width change VERSION, WIDTH and PAIRS of LNK_STATUS, and LANES of LNK_LANE. -/
theorem lnkStatus_setWidth (version pairs : Nat) {hi lo : Nat} (h : 55 < lo ∨ hi < 40) :
    (s.setWidth p version pairs).regF .lnkStatus [p] hi lo = s.regF .lnkStatus [p] hi lo := by
  rw [setWidth, regF_setRegF_port _ (by decide) (by decide) (by decide), regF_setRegF_apart _ _ _ _ _ _ _ _ (by omega) (by omega) (by omega),
    regF_setRegF_apart _ _ _ _ _ _ _ _ (by omega) (by omega) (by omega), regF_setRegF_apart _ _ _ _ _ _ _ _ (by omega) (by omega) (by omega)]

theorem linkState_setWidth (version pairs : Nat) : (s.setWidth p version pairs).linkState p = s.linkState p := lnkStatus_setWidth _ _ (by omega)

theorem linkVersion_setWidth (version pairs : Nat) : (s.setWidth p version pairs).linkVersion p = version % 16 := by
  rw [linkVersion, setWidth, regF_setRegF_port _ (by decide) (by decide) (by decide),
    regF_setRegF_apart _ _ _ _ _ _ _ _ (by omega) (by omega) (by omega), regF_setRegF_apart _ _ _ _ _ _ _ _ (by omega) (by omega) (by omega)]
  exact regF_setRegF_self s _ _ _ _ _ (by omega) (by omega)

theorem pairs_setWidth (version pairs : Nat) : (s.setWidth p version pairs).regF .lnkStatus [p] 43 40 = pairs % 16 := by
  rw [setWidth, regF_setRegF_port _ (by decide) (by decide) (by decide)]
  exact regF_setRegF_self _ _ _ _ _ _ (by omega) (by omega)

/-- Other registers of ports stay where state and width change. -/
theorem regF_setWidth_other {id : RegId} (hid : id ∈ portIds) (h1 : id ≠ .lnkStatus) (h2 : id ≠ .lnkLane) (q version pairs hi lo : Nat) :
    (s.setWidth p version pairs).regF id [q] hi lo = s.regF id [q] hi lo := by
  rw [setWidth, regF_setRegF_port _ (by decide) hid h2, regF_setRegF_port _ (by decide) hid h1, regF_setRegF_port _ (by decide) hid h1,
    regF_setRegF_port _ (by decide) hid h1]

theorem port_setWidth (version pairs q : Nat) : (s.setWidth p version pairs).port q = s.port q := by
  simp only [setWidth, port_setRegF]

/-- A port's state, reason, version and width as they stand. -/
structure AtState (p st reason : Nat) (t : State) : Prop where
  state : t.linkState p = st
  reason : t.regF .lnkStatus [p] 59 56 = reason
  version : t.linkVersion p = 0
  pairs : t.regF .lnkStatus [p] 43 40 = 0

theorem AtState.atRest {st reason : Nat} (h : AtState p st reason t) : Claims.AtRest p st reason t := ⟨h.state, h.reason, h.version, h.pairs⟩

/-- A port at rest: its state with the reason, at no version and width. -/
def rested (s : State) (p st reason : Nat) : State := ((s.setLinkState p st).setRegF .lnkStatus [p] 59 56 reason).setWidth p 0 0

theorem atState_rested {st reason : Nat} (hst : st < 16) (hreason : reason < 16) : AtState p st reason (s.rested p st reason) := by
  refine ⟨?_, ?_, linkVersion_setWidth 0 0, pairs_setWidth 0 0⟩
  · rw [rested, linkState_setWidth, linkState, regF_setRegF_apart _ _ _ _ _ _ _ _ (by omega) (by omega) (by omega)]
    exact (linkState_setLinkState s p st).trans (Nat.mod_eq_of_lt hst)
  · rw [rested, lnkStatus_setWidth 0 0 (by omega)]
    exact (regF_setRegF_self _ _ _ _ _ _ (by omega) (by omega)).trans (Nat.mod_eq_of_lt hreason)

theorem onlyPort_rested (st reason : Nat) : Claims.OnlyPort p (Claims.portRegs p) s (s.rested p st reason) :=
  onlyPort_trans (onlyPort_trans (onlyPort_setLinkState st) (onlyPort_setRegF (by decide) _ _ _)) (onlyPort_setWidth 0 0)

theorem port_rested (st reason q : Nat) : (s.rested p st reason).port q = s.port q := by
  simp only [rested, setWidth, setLinkState, port_setRegF]

theorem waiting_rested (st reason : Nat) : (s.rested p st reason).waiting = s.waiting := by
  simp only [rested, setWidth, setLinkState, setRegF_waiting]

theorem regF_rested_other {id : RegId} (hid : id ∈ portIds) (h1 : id ≠ .lnkStatus) (h2 : id ≠ .lnkLane) (q st reason hi lo : Nat) :
    (s.rested p st reason).regF id [q] hi lo = s.regF id [q] hi lo := by
  rw [rested, regF_setWidth_other hid h1 h2, regF_setRegF_port _ (by decide) hid h1]
  exact regF_setRegF_port _ (by decide) hid h1 ..

/-! ### Discarding what a port holds (R348, R361) -/

/-- A message that waits to leave by port p alone, but came in by another. -/
def goneFor (p : Nat) (w : Waiting) : Bool := decide (w.ports.toNat = 2 ^ p) && !decide (w.origin = some p)

/-- The port's record with what it held dropped. -/
def Port.emptied (x : Port) : Port :=
  { x with replay := [], credits := [], owed := [], inflight := [], rxBytes := [], inbox := [], naks := 0, nakDue := false,
           txSeq := 0, rxNext := 0, rxAny := false, unacked := 0 }

/-- The state without what port p held, before the messages in transit that waited for it count. -/
def emptied (s : State) (p : Nat) : State :=
  { s.modPort p Port.emptied with
    waiting := s.waiting.filter fun w => !(decide (w.ports.toNat = 2 ^ p) || decide (w.origin = some p)) }

theorem discard_eq (s : State) (p : Nat) : s.discard p = (s.waiting.filter (goneFor p)).foldl dropTransit (s.emptied p) := rfl

theorem onlyPort_emptied (l : List Nat) : Claims.OnlyPort p l s (s.emptied p) := onlyPort_trans (onlyPort_modPort l _) (onlyPort_waiting l _)

theorem port_emptied : (s.emptied p).port p = Port.emptied (s.port p) := port_modPort_self ..

/-- Messages in transit that are dropped count at the port that they came in by. -/
structure DropsTransit (l : List Waiting) (s t : State) : Prop where
  frame : RegsAndPorts s t
  port : ∀ q, (∀ w ∈ l, w.origin ≠ some q) → t.port q = s.port q
  regs : ∀ id ∈ portIds, id ≠ .lnkErr → ∀ q, t.reg id [q] = s.reg id [q]
  other : ∀ id ix, (∀ q, id.row.addr ix ≠ RegId.lnkErr.row.addr [q]) → t.reg id ix = s.reg id ix
  err : ∀ q hi lo, hi < 32 ∨ 47 < lo → t.regF .lnkErr [q] hi lo = s.regF .lnkErr [q] hi lo
  count : ∀ q, t.regF .lnkErr [q] 47 32 = min (s.regF .lnkErr [q] 47 32 + (l.filter fun w => decide (w.origin = some q)).length) 0xFFFF

theorem dropTransit_some {w : Waiting} {q : Nat} (h : w.origin = some q) :
    s.dropTransit w = (s.unroutable q).owe q { w.msg with stage := w.msg.stage - 1 } := by rw [dropTransit, h]

theorem dropTransit_none {w : Waiting} (h : w.origin = none) : s.dropTransit w = s := by rw [dropTransit, h]

theorem lnkErr_unroutable (q i : Nat) : (s.unroutable q).regF .lnkErr [i] 47 32 =
    if q = i then min (s.regF .lnkErr [i] 47 32 + 1) 0xFFFF else s.regF .lnkErr [i] 47 32 := by
  by_cases h : q = i
  · subst h
    rw [if_pos rfl]
    exact regF_bumpBy_self s _ _ _ _ 1 (by omega) (by omega)
  · rw [if_neg h]
    exact regF_setRegF_ne s _ _ _ _ _ _ _ _ _ (portIds_addr_port_ne (by decide) (Ne.symm h))

theorem lnkErr_unroutable_apart (q i : Nat) {hi lo : Nat} (hf : hi < 32 ∨ 47 < lo) :
    (s.unroutable q).regF .lnkErr [i] hi lo = s.regF .lnkErr [i] hi lo := by
  by_cases h : i = q
  · subst h
    exact regF_setRegF_apart s _ _ _ _ _ _ _ (by omega) (by omega) hf
  · exact regF_setRegF_ne s _ _ _ _ _ _ _ _ _ (portIds_addr_port_ne (by decide) h)

theorem dropsTransit_foldl (l : List Waiting) (s : State) : DropsTransit l s (l.foldl dropTransit s) := by
  induction l generalizing s with
  | nil =>
    exact ⟨rfl, fun _ _ => rfl, fun _ _ _ _ => rfl, fun _ _ _ => rfl, fun _ _ _ _ => rfl, fun q => (min_eq_left (regF_le (s := s) .lnkErr [q] 47 32)).symm⟩
  | cons w l ih =>
    rw [List.foldl_cons]
    cases ho : w.origin with
    | none =>
      rw [dropTransit_none ho]
      obtain ⟨hframe, hport, hregs, hother, herr, hcount⟩ := ih s
      exact ⟨hframe, fun q h => hport q fun v hv => h v (List.mem_cons_of_mem _ hv), hregs, hother, herr, fun q => by
        rw [List.filter_cons_of_neg (by simp [ho])]
        exact hcount q⟩
    | some q =>
      have hd := dropTransit_some (s := s) ho
      obtain ⟨hframe, hport, hregs, hother, herr, hcount⟩ := ih (s.dropTransit w)
      have hown : RegsAndPorts s (s.dropTransit w) := by
        rw [hd]
        exact (regsAndPorts_setRegF s ..).trans (regsAndPorts_modPort _ _ _)
      refine ⟨hown.trans hframe, fun i h => ?_, fun id hid hne i => ?_, fun id ix h => ?_, fun i hi lo hf => ?_, fun i => ?_⟩
      · rw [hport i fun v hv => h v (List.mem_cons_of_mem _ hv), hd]
        exact port_modPort_ne _ _ _ fun e => h w (List.mem_cons_self ..) (by rw [ho, e])
      · rw [hregs id hid hne i, hd]
        exact reg_setRegF_ne s _ _ _ _ _ _ _ (portIds_addr_ne hid (by decide) hne i q)
      · rw [hother id ix h, hd]
        exact reg_setRegF_ne s _ _ _ _ _ _ _ (h q)
      · rw [herr i hi lo hf, hd]
        exact lnkErr_unroutable_apart q i hf
      · have hone : (s.dropTransit w).regF .lnkErr [i] 47 32 =
            if q = i then min (s.regF .lnkErr [i] 47 32 + 1) 0xFFFF else s.regF .lnkErr [i] 47 32 := by
          rw [hd]
          exact lnkErr_unroutable q i
        rw [hcount i, hone]
        by_cases hq : q = i
        · rw [if_pos hq, List.filter_cons_of_pos (by simp [ho, hq]), List.length_cons]
          omega
        · rw [if_neg hq, List.filter_cons_of_neg (by simp [ho, hq])]

theorem dropsTransit_discard : DropsTransit (s.waiting.filter (goneFor p)) (s.emptied p) (s.discard p) := dropsTransit_foldl _ _

theorem port_discard : (s.discard p).port p = Port.emptied (s.port p) :=
  (dropsTransit_discard.port p fun w hw h => by
    have := (List.mem_filter.1 hw).2
    simp [goneFor, h] at this).trans port_emptied

theorem waiting_discard : (s.discard p).waiting =
    s.waiting.filter fun w => !(decide (w.ports.toNat = 2 ^ p) || decide (w.origin = some p)) := by
  have h := (dropsTransit_discard (s := s) (p := p)).frame
  rw [RegsAndPorts] at h
  rw [h]
  rfl

theorem dropped_discard : Claims.Dropped p (s.discard p) := by
  have hport := port_discard (s := s) (p := p)
  refine ⟨by rw [hport]; rfl, by rw [hport]; rfl, by rw [hport]; rfl, by rw [hport]; rfl, fun w hw => ?_⟩
  rw [waiting_discard] at hw
  simpa using (List.mem_filter.1 hw).2

/-- What a port held stays dropped where its record and the waiting messages stay. -/
theorem dropped_of (h : Claims.Dropped p s) (hp : t.port p = s.port p) (hw : t.waiting = s.waiting) : Claims.Dropped p t := by
  rw [Claims.Dropped, hp, hw]
  exact h

/-- With no message in transit for the port, the drop is the port's alone. -/
theorem discard_of_noTransit (h : Claims.NoTransit p s) : s.discard p = s.emptied p := by
  have hnone : ∀ w ∈ s.waiting.filter (goneFor p), w.origin = none := fun w hw => by
    obtain ⟨hw, hg⟩ := List.mem_filter.1 hw
    obtain ⟨hports, horigin⟩ := Bool.and_eq_true_iff.1 hg
    cases ho : w.origin with
    | none => rfl
    | some q =>
      have hq : q ≠ p := fun e => by simp [ho, e] at horigin
      have hmem : w ∈ Claims.transit p q s := List.mem_filter.2 ⟨hw, by simp [of_decide_eq_true hports, ho]⟩
      rw [h q hq] at hmem
      cases hmem
  rw [discard_eq]
  generalize s.waiting.filter (goneFor p) = l at hnone
  generalize s.emptied p = t
  induction l generalizing t with
  | nil => rfl
  | cons w l ih =>
    rw [List.foldl_cons, dropTransit_none (hnone w (List.mem_cons_self ..))]
    exact ih (fun v hv => hnone v (List.mem_cons_of_mem _ hv)) t

theorem onlyPort_discard (l : List Nat) (h : Claims.NoTransit p s) : Claims.OnlyPort p l s (s.discard p) := by
  rw [discard_of_noTransit h]
  exact onlyPort_emptied l

/-- Each message in transit that could leave by the port alone counts at the port that it came in by. -/
theorem lnkErr_discard {q : Nat} (hq : q ≠ p) :
    (s.discard p).regF .lnkErr [q] 47 32 = min (s.regF .lnkErr [q] 47 32 + (Claims.transit p q s).length) 0xFFFF := by
  refine (dropsTransit_discard.count q).trans ?_
  have hlist : (s.waiting.filter (goneFor p)).filter (fun w => decide (w.origin = some q)) = Claims.transit p q s := by
    rw [List.filter_filter]
    refine List.filter_congr fun w _ => ?_
    by_cases ho : w.origin = some q
    · simp [goneFor, ho, hq]
    · simp [ho]
  rw [hlist]
  rfl

theorem regF_discard {id : RegId} (hid : id ∈ portIds) (h : id ≠ .lnkErr) (q hi lo : Nat) :
    (s.discard p).regF id [q] hi lo = s.regF id [q] hi lo := congrArg (getF · hi lo) (dropsTransit_discard.regs id hid h q)

/-! ### DOWN and OFF (R348) -/

/-- DOWN with its reason, reported to the host. -/
def downed (s : State) (p reason : Nat) : State :=
  if (s.rested p 1 reason).ready then (s.rested p 1 reason).event 0 0x8004 [BitVec.ofNat 8 p, 1, BitVec.ofNat 8 reason] else s.rested p 1 reason

theorem goDown_keep (reason : Nat) : s.goDown p reason false = s.downed p reason := rfl

theorem goDown_drop (reason : Nat) : s.goDown p reason true = (s.discard p).downed p reason := rfl

theorem downed_cases (reason : Nat) : s.downed p reason = s.rested p 1 reason ∨
    s.downed p reason = (s.rested p 1 reason).event 0 0x8004 [BitVec.ofNat 8 p, 1, BitVec.ofNat 8 reason] := by
  rw [downed]
  split
  · exact Or.inr rfl
  · exact Or.inl rfl

theorem onlyPort_downed (reason : Nat) : Claims.OnlyPort p (Claims.portRegs p) s (s.downed p reason) := by
  obtain h | h := downed_cases (s := s) (p := p) reason <;> rw [h]
  · exact onlyPort_rested 1 reason
  · exact onlyPort_trans (onlyPort_rested 1 reason) (onlyPort_event _ _ _ _)

theorem regF_downed (reason : Nat) (id : RegId) (ix : List Nat) (hi lo : Nat) :
    (s.downed p reason).regF id ix hi lo = (s.rested p 1 reason).regF id ix hi lo := by
  obtain h | h := downed_cases (s := s) (p := p) reason <;> rw [h]
  exact regF_event _ _ _ _ _ _ _ _

theorem port_downed (reason q : Nat) : (s.downed p reason).port q = s.port q := by
  obtain h | h := downed_cases (s := s) (p := p) reason <;> rw [h]
  · exact port_rested 1 reason q
  · rw [port_event, port_rested]

theorem waiting_downed (reason : Nat) : (s.downed p reason).waiting = s.waiting := by
  obtain h | h := downed_cases (s := s) (p := p) reason <;> rw [h]
  · exact waiting_rested 1 reason
  · rw [waiting_event, waiting_rested]

theorem atRest_downed {reason : Nat} (h : reason < 16) : Claims.AtRest p 1 reason (s.downed p reason) := by
  have hr := atState_rested (s := s) (p := p) (st := 1) (by decide) h
  exact ⟨(regF_downed ..).trans hr.state, (regF_downed ..).trans hr.reason, (regF_downed ..).trans hr.version, (regF_downed ..).trans hr.pairs⟩

theorem dropped_goDown (reason : Nat) : Claims.Dropped p (s.goDown p reason true) :=
  dropped_of dropped_discard (port_downed reason p) (waiting_downed reason)

theorem atRest_goDown {reason : Nat} (h : reason < 16) (drop : Bool) : Claims.AtRest p 1 reason (s.goDown p reason drop) := by
  cases drop <;> exact atRest_downed h

theorem onlyPort_goDown (reason : Nat) (drop : Bool) (h : drop = true → Claims.NoTransit p s) :
    Claims.OnlyPort p (Claims.portRegs p) s (s.goDown p reason drop) := by
  cases drop with
  | false => exact onlyPort_downed reason
  | true => exact onlyPort_trans (onlyPort_discard _ (h rfl)) (onlyPort_downed reason)

/-- The port's crossings as entry to OFF leaves them. -/
def offReset (s : State) (p : Nat) : State := if s.linkState p = 0 then s else s.sideReset (17 * p) 17 true

theorem onlyXings_offReset : OnlyXings s (s.offReset p) := by
  rw [offReset]
  split
  · rfl
  · exact onlyXings_sideReset s _ _ _

theorem onlyPort_offReset (l : List Nat) : Claims.OnlyPort p l s (s.offReset p) := by
  rw [offReset]
  split
  · exact onlyPort_refl l s
  · exact onlyPort_sideReset l s p true

theorem goOff_eq : s.goOff p = ((s.offReset p).discard p).rested p 0 6 := rfl

theorem atRest_goOff : Claims.AtRest p 0 6 (s.goOff p) := (atState_rested (by decide) (by decide)).atRest

theorem dropped_goOff : Claims.Dropped p (s.goOff p) := by
  rw [goOff_eq]
  exact dropped_of dropped_discard (port_rested 0 6 p) (waiting_rested 0 6)

theorem noTransit_of_waiting (hw : t.waiting = s.waiting) (h : Claims.NoTransit p s) : Claims.NoTransit p t := fun q hq => by
  rw [Claims.transit, hw]
  exact h q hq

theorem onlyPort_goOff (h : Claims.NoTransit p s) : Claims.OnlyPort p (Claims.portRegs p) s (s.goOff p) :=
  onlyPort_trans (onlyPort_trans (onlyPort_offReset _) (onlyPort_discard _ (noTransit_of_waiting onlyXings_offReset.waiting h)))
    (onlyPort_rested 0 6)

theorem lnkErr_goOff {q : Nat} (hq : q ≠ p) :
    (s.goOff p).regF .lnkErr [q] 47 32 = min (s.regF .lnkErr [q] 47 32 + (Claims.transit p q s).length) 0xFFFF := by
  rw [goOff_eq, regF_rested_other (by decide) (by decide) (by decide), lnkErr_discard hq, onlyXings_offReset.regF, Claims.transit,
    onlyXings_offReset.waiting]
  rfl

theorem lnkCtrl_goOff (hi lo : Nat) : (s.goOff p).regF .lnkCtrl [p] hi lo = s.regF .lnkCtrl [p] hi lo := by
  rw [goOff_eq, regF_rested_other (by decide) (by decide) (by decide), regF_discard (by decide) (by decide), onlyXings_offReset.regF]

end State
end Sys2Proof.Machine
end

section
/-! PROOF. Writes of LNK_CTRL and LNK_VC_ALLOC. -/

namespace Sys2Proof.Machine
namespace State

variable {s : State} {p : PortId}

/-- LNK_CTRL and LNK_VC_ALLOC can be reached where the port's PCS crossing is in no reset and its domain is on. -/
theorem unreachable_lnkCtrl (s : State) (p : PortId) : s.unreachable .lnkCtrl [p.val] = (s.xingHeld (17 * p + 16) || !(s.port p).powered) := by
  have hinReset : s.unreachable .lnkCtrl [p.val] = s.inReset (17 * p.val + 16) := rfl
  have hlt : 17 * p.val + 16 < 272 := by have := p.isLt; omega
  rw [hinReset, inReset, selfOff, if_pos hlt, show (17 * p.val + 16) / 17 = p.val by omega]

theorem unreachable_lnkVcAlloc (s : State) (p : PortId) : s.unreachable .lnkVcAlloc [p.val] = s.unreachable .lnkCtrl [p.val] := rfl

theorem wroteAt_of_reachable {id : RegId} {ix : List Nat} (hu : s.unreachable id ix = false) (hr : s.romOnly = false) (r : Option State) :
    s.wroteAt id ix r = r.getD s.accessErr := by rw [wroteAt, hu, hr]; rfl

theorem wroteAt_of_unreachable {id : RegId} {ix : List Nat} (h : s.unreachable id ix = true ∨ s.romOnly = true) (r : Option State) :
    s.wroteAt id ix r = s.accessErr := by
  rw [wroteAt, if_pos (by simpa using h)]

theorem wroteAt_none (id : RegId) (ix : List Nat) : s.wroteAt id ix none = s.accessErr := by
  rw [wroteAt]
  split <;> rfl

/-! ### ENABLE (R348, R580; log 22) -/

theorem exec_enable (hp : Claims.FlitsPass s p) (hr : s.romOnly = false) : exec (.lnkEnableWrite p true) s = .next (s.lnkEnable p true) := by
  have hexec : exec (.lnkEnableWrite p true) s = .next
      (if true && !(s.port p).powered && !s.flitsLost p && !s.romOnly then s.lnkEnable p true
        else s.wroteAt .lnkCtrl [p.val] (some (s.lnkEnable p true))) := rfl
  have hlost : s.flitsLost p = false := hp
  rw [hexec, hlost, hr]
  cases hpow : (s.port p).powered with
  | false => rfl
  | true =>
    rw [wroteAt_of_reachable (by rw [unreachable_lnkCtrl, hpow, show s.xingHeld (17 * p + 16) = false from hp]; rfl) hr]
    rfl

theorem exec_enable_refused (h : ¬ Claims.FlitsPass s p ∨ s.romOnly = true) : exec (.lnkEnableWrite p true) s = .next s.accessErr := by
  have hexec : exec (.lnkEnableWrite p true) s = .next
      (if true && !(s.port p).powered && !s.flitsLost p && !s.romOnly then s.lnkEnable p true
        else s.wroteAt .lnkCtrl [p.val] (some (s.lnkEnable p true))) := rfl
  have hheld : s.flitsLost p = true ∨ s.romOnly = true := h.imp (fun h => by simpa [Claims.FlitsPass, flitsLost] using h) id
  have hno : ¬ (true && !(s.port p).powered && !s.flitsLost p && !s.romOnly) = true := by
    obtain h | h := hheld <;> simp [h]
  rw [hexec, if_neg hno, wroteAt_of_unreachable]
  refine hheld.imp (fun h => ?_) id
  rw [unreachable_lnkCtrl, show s.xingHeld (17 * p + 16) = true from h, Bool.true_or]

/-- The port with ENABLE set and its domain on. -/
def enabled (s : State) (p : Nat) : State := (s.setRegF .lnkCtrl [p] 0 0 1).modPort p fun x => { x with powered := true }

theorem lnkEnable_on (s : State) (p : Nat) : s.lnkEnable p true =
    if s.linkState p = 0 then ((s.enabled p).setReg .lnkLane [p] 0).downed p 0 else s.enabled p := by
  have hst : (s.enabled p).linkState p = s.linkState p := linkState_setRegF_ne s (by decide) (by decide) p p 0 0 1
  rw [← hst]
  rfl

theorem onlyPort_enabled : Claims.OnlyPort p (Claims.portRegs p) s (s.enabled p) :=
  onlyPort_trans (onlyPort_setRegF (by decide) _ _ _) (onlyPort_modPort _ _)

theorem lnkCtrl_enabled : (s.enabled p).regF .lnkCtrl [p.val] 0 0 = 1 := by
  rw [enabled, regF_modPort]
  exact regF_setRegF_self s _ _ _ _ _ (by omega) (by omega)

theorem linkState_enabled : (s.enabled p).linkState p = s.linkState p := by
  rw [enabled, linkState_modPort]
  exact linkState_setRegF_ne s (by decide) (by decide) ..

theorem powered_enabled : ((s.enabled p).port p).powered = true := by rw [enabled, port_modPort_self]

theorem lnkEnable_on_effect : Claims.OnlyPort p (Claims.portRegs p) s (s.lnkEnable p true) ∧
    (s.lnkEnable p true).regF .lnkCtrl [p.val] 0 0 = 1 ∧ ((s.lnkEnable p true).port p).powered = true ∧
    (s.linkState p = 0 → Claims.AtRest p 1 0 (s.lnkEnable p true)) ∧
    (s.linkState p ≠ 0 → (s.lnkEnable p true).linkState p = s.linkState p) := by
  rw [lnkEnable_on]
  by_cases h : s.linkState p = 0
  · rw [if_pos h]
    refine ⟨onlyPort_trans (onlyPort_trans onlyPort_enabled (onlyPort_setReg (by decide) _)) (onlyPort_downed 0), ?_, ?_,
      fun _ => atRest_downed (by decide), fun h' => absurd h h'⟩
    · rw [regF_downed, regF_rested_other (by decide) (by decide) (by decide), regF_setReg_port _ (by decide) (by decide) (by decide)]
      exact lnkCtrl_enabled
    · rw [port_downed, port_setReg]
      exact powered_enabled
  · rw [if_neg h]
    exact ⟨onlyPort_enabled, lnkCtrl_enabled, powered_enabled, fun h' => absurd h' h, fun _ => linkState_enabled⟩

/-- The port with ENABLE clear. -/
theorem lnkEnable_off (s : State) (p : Nat) : s.lnkEnable p false = (s.setRegF .lnkCtrl [p] 0 0 0).goOff p := rfl

theorem lnkErr_setCtrl (q hi lo : Nat) (h l v : Nat) : (s.setRegF .lnkCtrl [p.val] h l v).regF .lnkErr [q] hi lo = s.regF .lnkErr [q] hi lo :=
  regF_setRegF_port s (by decide) (by decide) (by decide) ..

/-! ### RETRAIN and FULL (R348) -/

theorem onlyPort_goRetrain (s : State) (p : Nat) : Claims.OnlyPort p (Claims.portRegs p) s (s.goRetrain p) := by
  by_cases h : s.linkState p = 4
  · rw [s.goRetrain_of_up h]
    exact onlyPort_trans (onlyPort_trans (onlyPort_setLinkState 5) (onlyPort_setRegF (by decide) _ _ _)) (onlyPort_modPort _ _)
  · rw [s.goRetrain_of_ne h]
    exact onlyPort_refl _ s

theorem retrains_goRetrain (h : s.linkState p = 4) : (s.goRetrain p).regF .lnkStatus [p.val] 31 16 =
    min (s.regF .lnkStatus [p.val] 31 16 + 1) 0xFFFF := by
  rw [s.goRetrain_of_up h, regF_modPort]
  refine (regF_bumpBy_self _ .lnkStatus [p.val] 31 16 1 (by omega) (by omega)).trans ?_
  rw [lnkStatus_setLinkState s p.val 5 (by omega)]
  rfl

/-- The record of a port that starts to train anew. -/
def Port.untrained (x : Port) : Port := { x with trained := 0, badLanes := 0, offer := none }

theorem lnkFull_of_up (h : s.linkState p = 4) :
    s.lnkFull p = (((s.discard p).setLinkState p 2).setWidth p 0 0).modPort p Port.untrained := by
  rw [lnkFull, if_pos ((s.isUp_iff p).2 h)]
  rfl

theorem lnkFull_of_ne (h : s.linkState p ≠ 4) : s.lnkFull p = s := if_neg fun h' => h ((s.isUp_iff p).1 h')

theorem lnkFull_effect (h : s.linkState p = 4) : (Claims.NoTransit p s → Claims.OnlyPort p (Claims.portRegs p) s (s.lnkFull p)) ∧
    (s.lnkFull p).linkState p = 2 ∧ (s.lnkFull p).linkVersion p = 0 ∧ Claims.Dropped p (s.lnkFull p) ∧ ((s.lnkFull p).port p).offer = none := by
  rw [lnkFull_of_up h]
  generalize hu : (s.discard p).setLinkState p 2 = u
  have hst : u.linkState p = 2 := by rw [← hu]; exact linkState_setLinkState _ _ _
  have hport : u.port p = (s.discard p).port p := by rw [← hu]; rfl
  have hwait : u.waiting = (s.discard p).waiting := by rw [← hu]; rfl
  refine ⟨fun hn => ?_, ?_, ?_, ?_, ?_⟩
  · rw [← hu]
    exact onlyPort_trans (onlyPort_trans (onlyPort_trans (onlyPort_discard _ hn) (onlyPort_setLinkState 2)) (onlyPort_setWidth 0 0))
      (onlyPort_modPort _ _)
  · rw [linkState_modPort, linkState_setWidth, hst]
  · rw [linkVersion_modPort, linkVersion_setWidth]
  · obtain ⟨hreplay, hcredits, hinbox, hbytes, hw⟩ := dropped_discard (s := s) (p := p.val)
    have hrec : (((u.setWidth p 0 0).modPort p Port.untrained).port p) = Port.untrained ((s.discard p).port p) := by
      rw [port_modPort_self, port_setWidth, hport]
    have hall : ((u.setWidth p 0 0).modPort p Port.untrained).waiting = (s.discard p).waiting := hwait
    refine ⟨?_, ?_, ?_, ?_, ?_⟩
    · rw [hrec]; exact hreplay
    · rw [hrec]; exact hcredits
    · rw [hrec]; exact hinbox
    · rw [hrec]; exact hbytes
    · rw [hall]; exact hw
  · rw [port_modPort_self]
    rfl

/-! ### OFFER and the VC allocation (R367, R368) -/

theorem wrAlloc_of_ok {v : Long} (h : [getF v 63 48, getF v 47 32, getF v 31 16, getF v 15 0].sum ≤ 10176)
    (hall : ∀ u ∈ [getF v 63 48, getF v 47 32, getF v 31 16, getF v 15 0], 17 ≤ u) :
    s.wrAlloc p v = some (s.setReg .lnkVcAlloc [p.val] v) := by
  rw [wrAlloc]
  refine if_neg ?_
  rw [sumN_eq_sum]
  rintro (hgt | hany)
  · omega
  · obtain ⟨u, hu, hlt⟩ := List.any_eq_true.1 hany
    have := hall u hu
    have := of_decide_eq_true hlt
    omega

theorem wrAlloc_of_not_ok {v : Long} (h : 10176 < [getF v 63 48, getF v 47 32, getF v 31 16, getF v 15 0].sum ∨
    ∃ u ∈ [getF v 63 48, getF v 47 32, getF v 31 16, getF v 15 0], u < 17) : s.wrAlloc p v = none := by
  rw [wrAlloc]
  refine if_pos ?_
  rw [sumN_eq_sum]
  exact h.imp id fun ⟨u, hu, hlt⟩ => List.any_eq_true.2 ⟨u, hu, decide_eq_true hlt⟩

end State
end Sys2Proof.Machine

open Sys2Proof Sys2Proof.Machine

/-- Settles O39, a clause per kind of write. -/
theorem portsAreControlled : Obligations.PortsAreControlled := by
  intro s p
  refine ⟨fun hp hr => ⟨_, State.exec_enable hp hr, State.lnkEnable_on_effect⟩, fun hu hr => ?_, fun v hu hr => ?_, fun i h hi => ?_,
    State.exec_enable_refused⟩
  · have hwrote : ∀ r, Host.Outcome.next (s.wroteAt .lnkCtrl [p.val] r) = (Host.Outcome.next (r.getD s.accessErr) : Out) := fun r => by
      rw [State.wroteAt_of_reachable hu hr]
    refine ⟨⟨_, hwrote (some (s.lnkEnable p false)), ?_, State.atRest_goOff, State.dropped_goOff, fun hn => ?_, fun q _ hq => ?_⟩,
      fun h => ⟨_, hwrote (some (s.goRetrain p)), State.onlyPort_goRetrain s p, ?_, State.retrains_goRetrain h, ?_, ?_, ?_⟩,
      fun h => ⟨?_, ?_⟩, fun h => ⟨_, hwrote (some (s.lnkFull p)), State.lnkFull_effect h⟩, fun offer ho => ?_, ?_⟩
    · exact (State.lnkCtrl_goOff 0 0).trans (State.regF_setRegF_self s _ _ _ _ _ (by omega) (by omega))
    · exact State.onlyPort_trans (State.onlyPort_setRegF (by decide) _ _ _) (State.onlyPort_goOff hn)
    · refine (State.lnkErr_goOff hq).trans ?_
      rw [State.lnkErr_setCtrl]
      rfl
    · rw [Option.getD_some, State.linkState_goRetrain, if_pos h]
    · rw [Option.getD_some, State.port_goRetrain, if_pos h]
    · rw [Option.getD_some, State.port_goRetrain, if_pos h]
    · rw [Option.getD_some, State.port_goRetrain, if_pos h]
    · exact (hwrote (some (s.goRetrain p))).trans (congrArg Host.Outcome.next (s.goRetrain_of_ne h))
    · exact (hwrote (some (s.lnkFull p))).trans (congrArg Host.Outcome.next (State.lnkFull_of_ne h))
    · have hne : ¬ offer.toNat = 0 := fun e => ho (BitVec.eq_of_toNat_eq e)
      refine ⟨s.setRegF .lnkCtrl [p.val] 6 4 offer.toNat, (hwrote (s.wrOffer p offer.toNat)).trans ?_, rfl, State.sameRegsBut_setReg s _ _ _, ?_, ?_⟩
      · rw [State.wrOffer, if_neg hne, Option.getD_some]
      · exact (State.regF_setRegF_self s _ _ _ _ _ (by omega) (by omega)).trans (Nat.mod_eq_of_lt offer.isLt)
      · exact State.regF_setRegF_apart s _ _ _ _ _ _ _ (by omega) (by omega) (by omega)
    · exact hwrote (s.wrOffer p 0)
  · have hwrote : exec (.lnkVcAllocWrite p v) s = .next ((s.wrAlloc p v).getD s.accessErr) :=
      congrArg Host.Outcome.next (State.wroteAt_of_reachable hu hr _)
    refine ⟨fun ⟨hsum, hall⟩ => ⟨s.setReg .lnkVcAlloc [p.val] v, ?_, rfl, State.sameRegsBut_setReg s _ _ _, State.reg_setReg_self s _ _ _⟩, fun h => ?_⟩
    · rw [hwrote, State.wrAlloc_of_ok hsum hall, Option.getD_some]
    · rw [hwrote, State.wrAlloc_of_not_ok h, Option.getD_none]
  · have hun : s.unreachable .lnkCtrl [p.val] = true ∨ s.romOnly = true := by
      rw [State.unreachable_lnkCtrl]
      obtain h | h | h := h
      · exact Or.inl (by rw [show s.xingHeld (17 * p + 16) = true by simpa [Claims.FlitsPass] using h, Bool.true_or])
      · exact Or.inl (by simp [h])
      · exact Or.inr h
    have hctrl : ∀ r, Host.Outcome.next (s.wroteAt .lnkCtrl [p.val] r) = (Host.Outcome.next s.accessErr : Out) := fun r => by
      rw [State.wroteAt_of_unreachable hun]
    simp only [List.mem_cons, List.not_mem_nil, or_false] at hi
    obtain rfl | rfl | rfl | rfl | rfl := hi
    · exact hctrl _
    · exact hctrl _
    · exact hctrl _
    · exact hctrl _
    · exact congrArg Host.Outcome.next (State.wroteAt_of_unreachable (by rwa [State.unreachable_lnkVcAlloc]) _)

end

section
/-! SUPPORT. Flits sent and received: the fields of one sent, and what its sending, an acknowledgement and credits leave of a port. -/

namespace Sys2Proof.Machine

/-! ### The fields of a flit (R352) -/

theorem flitOf_payload (head payload : List Byte) (h : head.length = 6) : ((flitOf head payload).drop 6).take 242 = toLen 242 payload := by
  have hd : (flitOf head payload).drop 6 = toLen 242 payload ++ beBytes 8 (crc64 (head ++ toLen 242 payload)) := by
    rw [flitOf, List.append_assoc, ← h, List.drop_left]
  rw [hd]
  exact (congrArg (List.take · _) (toLen_length 242 payload).symm).trans List.take_left

/-- A number at the front of a byte string. -/
theorem be_beBytes_append (n v : Nat) (l : List Byte) : be (beBytes n v ++ l) 0 n = v % 256 ^ n := by
  rw [be, List.drop_zero, ← fromBE_beBytes]
  exact congrArg fromBE ((congrArg (List.take · _) (beBytes_length n v).symm).trans List.take_left)

/-- A number behind other bytes. -/
theorem be_append_beBytes (l : List Byte) (n v : Nat) (r : List Byte) : be (l ++ beBytes n v ++ r) l.length n = v % 256 ^ n := by
  rw [be, List.append_assoc, List.drop_left]
  exact be_beBytes_append n v r

theorem flitOf_front (seq ft : Nat) (rest payload : List Byte) : be (flitOf (beBytes 2 (seq * 16 + ft) ++ rest) payload) 0 2 = (seq * 16 + ft) % 65536 := by
  rw [flitOf, List.append_assoc, List.append_assoc]
  exact be_beBytes_append 2 _ _

namespace State

variable {s t : State} {p : Nat}

/-- A flit that goes out joins what was sent. -/
theorem emit_flit (s : State) (q : PortId) (f : List Byte) : s.emit (.flit q f) = { s with out := .flit q f :: s.out } := by
  have hw : s.waitOut ++ [Output.flit q f].filter s.pausedOut = s.waitOut := List.append_nil _
  have hlost : [Output.flit q f].filter (fun o => !s.outLost o) = [.flit q f] := rfl
  have hgo : [Output.flit q f].filter (fun o => !s.pausedOut o) = [.flit q f] := rfl
  rw [emit, emitAll]
  simp only [hlost, hgo, hw]
  rfl

/-- The port's record once a flit has gone: the NAK and the acknowledgement have been said, and what is still owed. -/
def flitGone (s : State) (p : Nat) (x : Port) : Port :=
  { x with owed := if (s.creditDue p).2 = 0 then x.owed else x.owed.set (s.creditDue p).1 (x.owed.get 0 (s.creditDue p).1 - (s.creditDue p).2),
           nakDue := false, unacked := 0 }

theorem modPort_modPort (s : State) (p : Nat) (f g : Port → Port) : (s.modPort p f).modPort p g = s.modPort p fun x => g (f x) := by
  have hport : (s.modPort p f).port p = f (s.port p) := port_modPort_self ..
  have hset : (s.modPort p f).ports = s.ports.set p (f (s.port p)) := rfl
  unfold modPort at *
  rw [hport, hset, FMap.set_set]

/-- The head of a flit: SEQ and TYPE, the acknowledgement, and the CREDIT field. -/
def flitHead (s : State) (p seq ft : Nat) : List Byte :=
  beBytes 2 (seq * 16 + ft) ++ beBytes 2 (((s.port p).rxNext + 4095) % 4096 * 16 + (if (s.port p).nakDue then 8 else 0) +
    (if (s.port p).rxAny then 4 else 0)) ++ toLen 2 (creditBytes (s.creditDue p))

/-- A flit that is not a DATA flit goes out with the head as the port stands. -/
theorem sendFlit_eq (q : PortId) {seq ft : Nat} (hft : ft ≠ 0) (payload : List Byte) (h : Claims.FlitsPass s q) : s.sendFlit q seq ft payload =
    { s.modPort q (s.flitGone q) with out := .flit q (flitOf (s.flitHead q seq ft) payload) :: s.out } := by
  have hq : (BitVec.ofNat 4 q.val).toFin = q := by
    apply Fin.ext
    exact Nat.mod_eq_of_lt q.isLt
  have hrec : ∀ f : Port → Port, (s.modPort q f).port q = f (s.port q) := fun f => port_modPort_self ..
  have hpass : ∀ f : Port → Port, (s.modPort q f).flitsLost q = false := fun f => h
  rw [sendFlit, sendWith]
  simp only [hrec, modPort_modPort, if_neg hft, hpass, Bool.false_eq_true, if_false, emit_flit, hq]
  rfl

/-- What goes out for a flit that is not a DATA flit. -/
theorem sendFlit_spec (q : PortId) {seq ft : Nat} (hft : ft ≠ 0) (hft' : ft < 16) (payload : List Byte) (h : Claims.FlitsPass s q) :
    ∃ f, s.sendFlit q seq ft payload = { s.modPort q (s.flitGone q) with out := .flit q f :: s.out } ∧ flitIntact true f = true ∧ ftype f = ft ∧
      be f 0 2 / 16 = seq % 4096 ∧ (f.drop 6).take 242 = toLen 242 payload := by
  have hlen : (s.flitHead q seq ft).length = 6 := by simp [flitHead]
  have hfront : be (flitOf (s.flitHead q seq ft) payload) 0 2 = (seq * 16 + ft) % 65536 := by
    rw [flitHead, List.append_assoc]
    exact flitOf_front seq ft _ payload
  refine ⟨_, sendFlit_eq q hft payload h, flitOf_intact _ _ hlen, ?_, ?_, flitOf_payload _ _ hlen⟩
  · rw [ftype, hfront]
    omega
  · rw [hfront]
    omega

end State
end Sys2Proof.Machine
end

section
/-! SUPPORT. The acknowledgement and the credits that a flit brings (R357, R358). -/

namespace Sys2Proof.Machine
namespace State

variable {s t u : State} {p : Nat}

/-- What the return of a message's credits can complete. -/
def CreditChanges (s t : State) : Prop := t = { s with saves := t.saves, cores := t.cores, clusters := t.clusters }

theorem CreditChanges.trans (h : CreditChanges s t) (k : CreditChanges t u) : CreditChanges s u := by
  rw [CreditChanges] at h k ⊢
  rw [h] at k
  exact k

theorem creditChanges_credited (v : Purpose) : CreditChanges s (s.credited v) := by
  unfold credited
  split
  · rfl
  · rfl
  · extract_lets saves ended
    split
    · exact CreditChanges.trans (t := { s with saves := saves.filter _ }) rfl rfl
    · rfl
  · rfl

theorem creditChanges_payInflight (fuel cls n : Nat) (s : State) (l : List (Nat × Nat × Purpose)) : CreditChanges s (payInflight fuel cls n s l).1 := by
  induction fuel generalizing n s l with
  | zero => rfl
  | succ fuel ih =>
    cases l with
    | nil => rfl
    | cons x l =>
      obtain ⟨c, k, v⟩ := x
      simp only [payInflight]
      split
      · exact ih n s l
      · split
        · exact (creditChanges_credited v).trans (ih (n - k) _ l)
        · rfl

/-- How much of the replay buffer a flit's acknowledgement reaches. -/
def ackedUpto (s : State) (p : Nat) (f : List Byte) : Nat :=
  if (be f 2 2).testBit 2 then (match (s.port p).replay.findIdx? fun r => r.1 == be f 2 2 / 16 with | some i => i + 1 | none => 0) else 0

/-- The units of credit that a flit returns, and their class. -/
def creditUnits (f : List Byte) : Nat := be f 4 2 % 2048
def creditClass (f : List Byte) : Nat := 4 * (be f 4 2 / 8192) + be f 4 2 / 2048 % 4

/-- What the acknowledgement and credits of a flit leave: the port's record apart from replay buffer, credits and what is in flight, and all
else but what the credits complete. -/
structure Acked (s t : State) (p : Nat) (f : List Byte) : Prop where
  mrs : t.mrs = s.mrs
  out : t.out = s.out
  xings : t.xings = s.xings
  waiting : t.waiting = s.waiting
  other : ∀ q, q ≠ p → t.port q = s.port q
  replay : (t.port p).replay = (s.port p).replay.drop (s.ackedUpto p f)
  naks : (t.port p).naks = if 0 < s.ackedUpto p f then 0 else (s.port p).naks
  credits : (t.port p).credits = if creditUnits f = 0 then (s.port p).credits
    else (s.port p).credits.set (creditClass f) ((s.port p).credits.get 0 (creditClass f) + creditUnits f)
  rest : ∃ x : Port, t.port p = { s.port p with replay := x.replay, naks := x.naks, credits := x.credits, inflight := x.inflight }
  none : creditUnits f = 0 → t = { s with ports := t.ports }

theorem acked_applyAcks (s : State) (p : Nat) (f : List Byte) : Acked s (s.applyAcks p f) p f := by
  have hacks : s.applyAcks p f =
      (let u := s.modPort p fun x => { x with replay := x.replay.drop (s.ackedUpto p f), naks := if 0 < s.ackedUpto p f then 0 else x.naks }
       if creditUnits f = 0 then u
       else
        let r := payInflight ((u.port p).inflight.length + 1) (creditClass f) (creditUnits f) u (u.port p).inflight
        r.1.modPort p fun x => { x with credits := x.credits.set (creditClass f) (x.credits.get 0 (creditClass f) + creditUnits f), inflight := r.2 }) := rfl
  rw [hacks]
  extract_lets u r
  have hup : u.port p = { s.port p with replay := (s.port p).replay.drop (s.ackedUpto p f), naks := if 0 < s.ackedUpto p f then 0 else (s.port p).naks } :=
    port_modPort_self ..
  have huq : ∀ q, q ≠ p → u.port q = s.port q := fun q hq => port_modPort_ne _ _ _ hq
  have huf : u = { s with ports := u.ports } := rfl
  have hr : CreditChanges u r.1 := creditChanges_payInflight _ _ _ _ _
  clear_value u
  by_cases hn : creditUnits f = 0
  · rw [if_pos hn]
    refine ⟨by rw [huf], by rw [huf], by rw [huf], by rw [huf], huq, by rw [hup], by rw [hup], by rw [hup, if_pos hn], ⟨u.port p, ?_⟩, fun _ => huf⟩
    rw [hup]
  · rw [if_neg hn]
    clear_value r
    have hrm : r.1.mrs = s.mrs ∧ r.1.out = s.out ∧ r.1.xings = s.xings ∧ r.1.waiting = s.waiting ∧ ∀ q, r.1.port q = u.port q := by
      rw [CreditChanges] at hr
      rw [hr, huf]
      exact ⟨rfl, rfl, rfl, rfl, fun _ => rfl⟩
    obtain ⟨hmrs, hout, hxings, hwaiting, hports⟩ := hrm
    have hrec : (r.1.modPort p fun x => { x with
        credits := x.credits.set (creditClass f) (x.credits.get 0 (creditClass f) + creditUnits f), inflight := r.2 }).port p =
        { u.port p with credits := (u.port p).credits.set (creditClass f) ((u.port p).credits.get 0 (creditClass f) + creditUnits f),
                        inflight := r.2 } := by
      rw [port_modPort_self, hports]
    refine ⟨hmrs, hout, hxings, hwaiting, fun q hq => ?_, by rw [hrec, hup], by rw [hrec, hup], by rw [hrec, hup, if_neg hn],
      ⟨{ u.port p with credits := (u.port p).credits.set (creditClass f) ((u.port p).credits.get 0 (creditClass f) + creditUnits f),
                       inflight := r.2 }, by rw [hrec, hup]⟩, fun h => absurd h hn⟩
    · rw [port_modPort_ne _ _ _ hq, hports, huq q hq]

theorem Acked.regF {f : List Byte} (h : Acked s t p f) (id : RegId) (ix : List Nat) (hi lo : Nat) : t.regF id ix hi lo = s.regF id ix hi lo := by
  simp only [State.regF, reg, h.mrs]

theorem ackedUpto_of_no_ack {f : List Byte} (h : (be f 2 2).testBit 2 = false) : s.ackedUpto p f = 0 := by rw [ackedUpto, h]; rfl

/-- A flit that acknowledges nothing leaves the replay buffer. -/
theorem Acked.replay_of_no_ack {f : List Byte} (h : Acked s t p f) (hf : (be f 2 2).testBit 2 = false) : (t.port p).replay = (s.port p).replay := by
  rw [h.replay, ackedUpto_of_no_ack hf, List.drop_zero]

end State
end Sys2Proof.Machine
end

section
/-! PROOF. TRAIN flits: what a port sends, what it takes, and how NEGOTIATE ends (R348-R350, R357). -/

namespace Sys2Proof.Machine

theorem versionOf_lt (a b : Nat) : versionOf a b < 16 := by
  unfold versionOf
  dsimp only
  split
  · decide
  · split
    · decide
    · split <;> decide

/-- The pairs in use are a set of four. -/
theorem pairsFor_lt (version : Nat) {avail : Nat} (h : avail < 16) : pairsFor version avail < 16 := by
  have hv : pairsFor version avail = pairsFor (if version = 3 then 3 else 0) avail := by
    unfold pairsFor
    by_cases h3 : version = 3 <;> simp [h3]
  have hall : ∀ (b : Bool) (a : Fin 16), pairsFor (if b then 3 else 0) a < 16 := by decide
  rw [hv]
  simpa using hall (decide (version = 3)) ⟨avail, h⟩

namespace State

variable {s t : State} {p : PortId}

/-! ### TRAIN flits sent (R349) -/

/-- The TRAIN flit of a port that has no offer yet, or retrains. -/
theorem trainSend_of_none (h : s.linkState p = 3 ∨ s.linkState p = 5) (ho : s.linkState p = 3 → (s.port p).offer = none) :
    s.trainSend p = s.sendFlit p (s.port p).txSeq 2 (s.offerBytes p) := by
  rw [trainSend, if_pos h]
  dsimp only
  cases hoff : (s.port p).offer with
  | none => rfl
  | some o =>
    have h3 : ¬ s.linkState p = 3 := fun h3 => by rw [ho h3] at hoff; cases hoff
    exact if_neg h3

theorem trainSend_of_some (h : s.linkState p = 3) {o : Offer} (ho : (s.port p).offer = some o) : s.trainSend p =
    if 3 ≤ (s.port p).sentAfter then (s.sendFlit p (s.port p).txSeq 2 (s.offerBytes p)).finishNegotiate p o
    else (s.sendFlit p (s.port p).txSeq 2 (s.offerBytes p)).modPort p fun x => { x with sentAfter := x.sentAfter + 1 } := by
  rw [trainSend, if_pos (Or.inl h)]
  dsimp only
  rw [ho]
  dsimp only
  rw [if_pos h]
  by_cases h3 : 3 ≤ (s.port p).sentAfter
  · rw [if_pos h3, if_pos (by omega)]
  · rw [if_neg h3, if_neg (by omega)]

/-- What a TRAIN flit sent leaves of a port. -/
structure TrainSent (s t : State) (p : Nat) : Prop where
  state : t.linkState p = s.linkState p
  vset : (t.port p).vset = (s.port p).vset
  trained : (t.port p).trained = (s.port p).trained
  sentAfter : (t.port p).sentAfter = (s.port p).sentAfter

theorem trainSent_sendFlit (hp : Claims.FlitsPass s p) (seq : Nat) (payload : List Byte) : TrainSent s (s.sendFlit p seq 2 payload) p := by
  obtain ⟨f, heq, -⟩ := sendFlit_spec (s := s) p (seq := seq) (ft := 2) (by decide) (by decide) payload hp
  have hport : (s.sendFlit p seq 2 payload).port p = s.flitGone p (s.port p) := by
    rw [heq]
    exact port_modPort_self ..
  refine ⟨?_, by rw [hport]; rfl, by rw [hport]; rfl, by rw [hport]; rfl⟩
  rw [heq]
  rfl

/-! ### The end of NEGOTIATE (R350, R357) -/

/-- Entry to UP before the partner's device and the port's record are set. -/
theorem regF_goUp_status (version pairs : Nat) (o : Offer) (hi lo : Nat) : (s.goUp p version pairs o).regF .lnkStatus [p.val] hi lo =
    ((s.setLinkState p 4).setWidth p version pairs).regF .lnkStatus [p.val] hi lo := by
  rw [goUp, regF_modPort, regF_setReg_port _ (by decide) (by decide) (by decide), regF_setReg_port _ (by decide) (by decide) (by decide)]

structure EnteredUp (t : State) (p version pairs : Nat) (o : Offer) : Prop where
  state : t.linkState p = 4
  version : t.linkVersion p = version
  pairs : t.regF .lnkStatus [p] 43 40 = pairs
  peer : t.reg .lnkPeerDev [p] = o.device
  credits : (t.port p).credits = entryCredits o.alloc
  txSeq : (t.port p).txSeq = 0
  rxNext : (t.port p).rxNext = 0
  device : (t.port p).device = o.device

theorem enteredUp_goUp {version pairs : Nat} (hv : version < 16) (hpairs : pairs < 16) (o : Offer) :
    EnteredUp (s.goUp p version pairs o) p version pairs o := by
  have hport : ∀ f : Port → Port, ∀ u : State, (u.modPort p f).port p = f (u.port p) := fun f u => port_modPort_self ..
  refine ⟨?_, ?_, ?_, ?_, ?_, ?_, ?_, ?_⟩
  · rw [linkState, regF_goUp_status]
    exact (linkState_setWidth version pairs).trans (linkState_setLinkState s p 4)
  · rw [linkVersion, regF_goUp_status]
    exact (linkVersion_setWidth version pairs).trans (Nat.mod_eq_of_lt hv)
  · rw [regF_goUp_status]
    exact (pairs_setWidth version pairs).trans (Nat.mod_eq_of_lt hpairs)
  · rw [goUp, reg_modPort]
    exact reg_setReg_self _ _ _ _
  all_goals rw [goUp, hport]

theorem finishNegotiate_effect {o : Offer} {v common : Nat} (hv : v = versionOf (s.port p).vset o.vset.toNat)
    (hc : common = ((s.port p).trained &&& o.pairs).toNat) :
    (v = 0 → Claims.AtRest p 1 2 (s.finishNegotiate p o)) ∧ (v ≠ 0 → pairCount common < 2 → Claims.AtRest p 1 1 (s.finishNegotiate p o)) ∧
      (v ≠ 0 → 2 ≤ pairCount common → EnteredUp (s.finishNegotiate p o) p v (pairsFor v common) o) := by
  rw [finishNegotiate, ← hv, ← hc]
  refine ⟨fun h => ?_, fun h h2 => ?_, fun h h2 => ?_⟩
  · rw [if_pos h]
    exact atRest_goDown (by decide) false
  · rw [if_neg h, if_pos h2]
    exact atRest_goDown (by decide) false
  · rw [if_neg h, if_neg (by omega)]
    have hc16 : common < 16 := hc ▸ ((s.port p).trained &&& o.pairs).isLt
    exact enteredUp_goUp (hv ▸ versionOf_lt _ _) (pairsFor_lt v hc16) o

/-! ### TRAIN flits received (R349, R350, R369) -/

/-- The offer that a TRAIN flit carries. -/
def offerIn (f : List Byte) : Offer := Offer.parse ((f.drop 6).take 242)

theorem exec_trainReceive (hp : Claims.FlitsPass s p) (ok : Bool) (f : List Byte) :
    exec (.trainFlitReceive p ok f) s = .next (s.trainReceive p ok f) := by
  have hexec : exec (.trainFlitReceive p ok f) s = .next (if s.flitsLost p then s else s.trainReceive p ok f) := rfl
  rw [hexec, show s.flitsLost p = false from hp]
  rfl

theorem trainReceive_damaged (f : List Byte) : s.trainReceive p false f = s := rfl

section
variable {f : List Byte} (hok : flitIntact true f = true) (hft : ftype f = 2)
include hok hft

theorem trainReceive_negotiate (h : s.linkState p = 3) (ho : (s.port p).offer = none) :
    s.trainReceive p true f = s.modPort p fun x => { x with offer := some (offerIn f), sentAfter := 0 } := by
  rw [trainReceive, if_pos (by simp [hok, hft]), h, ho]
  rfl

theorem trainReceive_up (h : s.linkState p = 4) : s.trainReceive p true f =
    if (offerIn f).device = (s.port p).device then (s.goRetrain p).applyAcks p f else s.goDown p 5 true := by
  rw [trainReceive, if_pos (by simp [hok, hft]), h]
  rfl

theorem trainReceive_retrain (h : s.linkState p = 5) : s.trainReceive p true f =
    if (offerIn f).device = (s.port p).device then ((s.applyAcks p f).modPort p fun x => { x with offer := some (offerIn f) }).tryResume p
    else s.goDown p 5 true := by
  rw [trainReceive, if_pos (by simp [hok, hft]), h]
  rfl
end

end State
end Sys2Proof.Machine

open Sys2Proof Sys2Proof.Machine

/-- Settles O41. -/
theorem trainFlitsNegotiate : Obligations.TrainFlitsNegotiate := by
  intro s p hp
  refine ⟨fun h ho => ?_, fun o h ho => ?_, fun f hok hft => ⟨fun h ho => ?_, fun h => ?_⟩, fun f => ?_⟩
  · obtain ⟨f, heq, hok, hft, -, hpay⟩ := State.sendFlit_spec (s := s) p (seq := (s.port p).txSeq) (ft := 2) (by decide) (by decide) (s.offerBytes p) hp
    have hexec : exec (.trainFlitSend p) s = .next (s.trainSend p) := rfl
    rw [hexec, State.trainSend_of_none h ho, heq]
    exact ⟨_, f, rfl, rfl, hok, hft, hpay, rfl⟩
  · have hsent := State.trainSent_sendFlit hp (s.port p).txSeq (s.offerBytes p)
    have hexec : exec (.trainFlitSend p) s = .next (s.trainSend p) := rfl
    rw [hexec, State.trainSend_of_some h ho]
    refine ⟨fun h3 => ?_, fun h3 => ?_⟩
    · rw [if_neg (by omega)]
      refine ⟨_, rfl, ?_, ?_⟩
      · rw [State.port_modPort_self]
        exact congrArg (· + 1) hsent.sentAfter
      · rw [State.linkState_modPort, hsent.state, h]
    · rw [if_pos h3]
      obtain ⟨hnone, hfew, hup⟩ := State.finishNegotiate_effect (p := p) (o := o) (congrArg (versionOf · o.vset.toNat) hsent.vset.symm)
        (congrArg (fun t => (t &&& o.pairs).toNat) hsent.trained.symm)
      refine ⟨_, rfl, hnone, hfew, fun hv hc => ?_⟩
      obtain ⟨hst, hver, hpairs, hpeer, hcred, htx, hrx, hdev⟩ := hup hv hc
      exact ⟨hst, hver, hpairs, hpeer, hcred, htx, hrx, hdev⟩
  · rw [State.exec_trainReceive hp, State.trainReceive_negotiate hok hft h ho]
    refine ⟨_, rfl, rfl, ?_, ?_⟩
    · rw [State.port_modPort_self]
      rfl
    · rw [State.port_modPort_self]
  · rw [State.exec_trainReceive hp, State.trainReceive_up hok hft h]
    refine ⟨_, rfl, ?_⟩
    change if (State.offerIn f).device = _ then _ else _
    by_cases hdev : (State.offerIn f).device = (s.port p).device
    · rw [if_pos hdev, if_pos hdev]
      have hacked := State.acked_applyAcks (s.goRetrain p) p f
      refine ⟨?_, fun hf => ?_⟩
      · rw [State.linkState, hacked.regF]
        exact (State.linkState_goRetrain s p).trans (if_pos h)
      · rw [hacked.replay_of_no_ack hf, State.port_goRetrain, if_pos h]
    · rw [if_neg hdev, if_neg hdev]
      exact ⟨State.atRest_goDown (by decide) true, State.dropped_goDown 5⟩
  · rw [State.exec_trainReceive hp, State.trainReceive_damaged]

end

section
/-! PROOF. Lanes and time-outs of a link port (R348, R349, R359, R360). -/

namespace Sys2Proof.Machine

/-- A set of pairs as a number. -/
def pairMask (f : Nat → Bool) : Nat := sumN (((List.range 4).filter f).map fun j => 2 ^ j)

theorem pairMask_eq (f : Nat → Bool) : pairMask f = (f 0).toNat + 2 * (f 1).toNat + 4 * (f 2).toNat + 8 * (f 3).toNat := by
  have hr : List.range 4 = [0, 1, 2, 3] := rfl
  rw [pairMask, hr]
  cases h0 : f 0 <;> cases h1 : f 1 <;> cases h2 : f 2 <;> cases h3 : f 3 <;> simp [List.filter, h0, h1, h2, h3, sumN]

theorem pairMask_lt (f : Nat → Bool) : pairMask f < 16 := by
  rw [pairMask_eq]
  cases f 0 <;> cases f 1 <;> cases f 2 <;> cases f 3 <;> decide

theorem testBit_pairMask (f : Nat → Bool) {j : Nat} (h : j < 4) : (pairMask f).testBit j = f j := by
  rw [pairMask_eq]
  obtain rfl | rfl | rfl | rfl : j = 0 ∨ j = 1 ∨ j = 2 ∨ j = 3 := by omega
  all_goals cases f 0 <;> cases f 1 <;> cases f 2 <;> cases f 3 <;> rfl

theorem pairCount_pairMask (f : Nat → Bool) : pairCount (pairMask f) = ((List.range 4).filter f).length := by
  rw [pairCount, List.filter_congr fun j hj => testBit_pairMask f (List.mem_range.1 hj)]

namespace State

variable {s t : State} {p : PortId}

/-! ### Entry to TRAIN, NEGOTIATE and RETRAIN -/

theorem signalDetected_of_down (h : s.linkState p = 1) : s.signalDetected p = (s.setLinkState p 2).modPort p Port.untrained := if_pos h

theorem signalDetected_of_ne (h : s.linkState p ≠ 1) : s.signalDetected p = s := if_neg h

theorem onlyPort_goNegotiate : Claims.OnlyPort p (Claims.portRegs p) s (s.goNegotiate p) :=
  onlyPort_trans (onlyPort_setLinkState 3) (onlyPort_modPort _ _)

theorem linkState_goNegotiate : (s.goNegotiate p).linkState p = 3 := by
  rw [goNegotiate, linkState_modPort]
  exact linkState_setLinkState s p 3

theorem port_goNegotiate : (s.goNegotiate p).port p =
    { s.port p with offer := none, sentAfter := 0, vset := s.regF .lnkCtrl [p.val] 6 4 } := by
  rw [goNegotiate, port_modPort_self]
  rfl

/-- The port with lock of some pairs. -/
def locked (s : State) (p : Nat) (pairs : BitVec 4) : State := s.modPort p fun x => { x with trained := pairs }

theorem laneLock_train (h : s.linkState p = 2) (pairs : BitVec 4) :
    s.laneLock p pairs = if pairs = 15 then (s.locked p pairs).goNegotiate p else s.locked p pairs := by
  rw [laneLock, h]
  rfl

theorem laneLock_retrain (h : s.linkState p = 5) (pairs : BitVec 4) : s.laneLock p pairs = (s.locked p pairs).tryResume p := by
  rw [laneLock, h]
  rfl

theorem port_locked (pairs : BitVec 4) : (s.locked p pairs).port p = { s.port p with trained := pairs } := port_modPort_self ..

/-! ### A lane's faults (R348, R359, R360) -/

/-- A bit of LNK_LANE set for a lane's fault. -/
theorem lnkLane_setBit {b : Nat} (h : b < 64) : (s.setRegF .lnkLane [p.val] b b 1).regF .lnkLane [p.val] b b = 1 := by
  rw [regF_setRegF_self s _ _ _ _ _ (le_refl b) h, show b + 1 - b = 1 by omega]
  rfl

theorem regF_goRetrain_other {id : RegId} (hid : id ∈ portIds) (h : id ≠ .lnkStatus) (hi lo : Nat) :
    (s.goRetrain p).regF id [p.val] hi lo = s.regF id [p.val] hi lo := by
  by_cases h4 : s.linkState p = 4
  · rw [s.goRetrain_of_up h4, regF_modPort]
    exact (regF_setRegF_port _ (by decide) hid h ..).trans (regF_setRegF_port s (by decide) hid h ..)
  · rw [s.goRetrain_of_ne h4]

theorem laneLockLoss_eq (h : s.linkState p ≠ 0) (l : Nat) : s.laneLockLoss p l =
    if hasN [2, 3, 5] (s.linkState p) then (s.setRegF .lnkLane [p.val] (8 + l) (8 + l) 1).modPort p fun x =>
      { x with trained := x.trained &&& ~~~(BitVec.ofNat 4 (2 ^ (l / 2))) }
    else (s.setRegF .lnkLane [p.val] (8 + l) (8 + l) 1).goRetrain p := if_neg h

/-- The pair of a lane is taken out of those with lock. -/
theorem getLsbD_unlocked (x : BitVec 4) {k : Nat} (hk : k < 4) (j : Nat) :
    (x &&& ~~~(BitVec.ofNat 4 (2 ^ k))).getLsbD j = (x.getLsbD j && decide (j ≠ k)) := by
  by_cases hj : j < 4
  · rw [BitVec.getLsbD_and, BitVec.getLsbD_not, BitVec.getLsbD_ofNat, Nat.testBit_two_pow]
    simp only [hj, decide_true, Bool.true_and, ne_eq, decide_not, eq_comm (a := k)]
  · rw [BitVec.getLsbD_of_ge _ _ (not_lt.1 hj), BitVec.getLsbD_of_ge _ _ (not_lt.1 hj), Bool.false_and]

theorem laneLockLoss_effect (h : s.linkState p ≠ 0) (lane : Fin 8) : Claims.OnlyPort p (Claims.portRegs p) s (s.laneLockLoss p lane) ∧
    (s.laneLockLoss p lane).regF .lnkLane [p.val] (8 + lane.val) (8 + lane.val) = 1 ∧
    ((s.laneLockLoss p lane).linkState p = if s.linkState p = 4 then 5 else s.linkState p) ∧
    (s.linkState p = 2 ∨ s.linkState p = 3 ∨ s.linkState p = 5 → ∀ j : Nat, ((s.laneLockLoss p lane).port p).trained.getLsbD j =
      ((s.port p).trained.getLsbD j && decide (j ≠ lane.val / 2))) := by
  have hst : (s.setRegF .lnkLane [p.val] (8 + lane) (8 + lane) 1).linkState p = s.linkState p := linkState_setRegF_ne s (by decide) (by decide) ..
  have honly : Claims.OnlyPort p (Claims.portRegs p) s (s.setRegF .lnkLane [p.val] (8 + lane) (8 + lane) 1) := onlyPort_setRegF (by decide) _ _ _
  have hbit := lnkLane_setBit (s := s) (p := p) (b := 8 + lane.val) (by omega)
  have hport : (s.setRegF .lnkLane [p.val] (8 + lane) (8 + lane) 1).port p = s.port p := port_setRegF ..
  rw [laneLockLoss_eq h]
  generalize s.setRegF .lnkLane [p.val] (8 + lane) (8 + lane) 1 = u at hst honly hbit hport
  by_cases hh : hasN [2, 3, 5] (s.linkState p) = true
  · have hcase : s.linkState p = 2 ∨ s.linkState p = 3 ∨ s.linkState p = 5 := by simpa [hasN_eq] using hh
    rw [if_pos hh]
    refine ⟨onlyPort_trans honly (onlyPort_modPort _ _), ?_, ?_, fun _ j => ?_⟩
    · rw [regF_modPort, hbit]
    · rw [linkState_modPort, hst, if_neg (by omega)]
    · rw [port_modPort_self, hport]
      exact getLsbD_unlocked _ (by omega) j
  · have hcase : ¬ (s.linkState p = 2 ∨ s.linkState p = 3 ∨ s.linkState p = 5) := by simpa [hasN_eq] using hh
    rw [if_neg hh]
    refine ⟨onlyPort_trans honly (onlyPort_goRetrain _ p), ?_, ?_, fun hc => absurd hc hcase⟩
    · rw [regF_goRetrain_other (by decide) (by decide), hbit]
    · rw [linkState_goRetrain, hst]

/-- The port with a lane above its error limit. -/
def laneMarked (s : State) (p l : Nat) : State :=
  (s.setRegF .lnkLane [p] l l 1).modPort p fun x => { x with badLanes := x.badLanes ||| BitVec.ofNat 8 (2 ^ l) }

theorem laneErrorLimit_eq (h : s.linkState p ≠ 0) (l : Nat) : s.laneErrorLimit p l =
    if ((s.laneMarked p l).regF .lnkLane [p.val] 23 16).testBit l then (s.laneMarked p l).goRetrain p else s.laneMarked p l := if_neg h

theorem laneErrorLimit_effect (h : s.linkState p ≠ 0) (lane : Fin 8) : Claims.OnlyPort p (Claims.portRegs p) s (s.laneErrorLimit p lane) ∧
    (s.laneErrorLimit p lane).regF .lnkLane [p.val] lane.val lane.val = 1 ∧
    ((s.laneErrorLimit p lane).port p).badLanes.getLsbD lane = true ∧
    (s.laneErrorLimit p lane).linkState p =
      if s.linkState p = 4 ∧ s.regF .lnkLane [p.val] (16 + lane.val) (16 + lane.val) = 1 then 5 else s.linkState p := by
  have hst : (s.laneMarked p lane).linkState p = s.linkState p := by
    rw [laneMarked, linkState_modPort]
    exact linkState_setRegF_ne s (by decide) (by decide) ..
  have honly : Claims.OnlyPort p (Claims.portRegs p) s (s.laneMarked p lane) := onlyPort_trans (onlyPort_setRegF (by decide) _ _ _) (onlyPort_modPort _ _)
  have hbit : (s.laneMarked p lane).regF .lnkLane [p.val] lane lane = 1 := by
    rw [laneMarked, regF_modPort]
    exact lnkLane_setBit (by omega)
  have hbad : ((s.laneMarked p lane).port p).badLanes.getLsbD lane = true := by
    rw [laneMarked, port_modPort_self]
    rw [BitVec.getLsbD_or, BitVec.getLsbD_ofNat, Nat.testBit_two_pow_self]
    simp
  have huse : ((s.laneMarked p lane).regF .lnkLane [p.val] 23 16).testBit lane = true ↔
      s.regF .lnkLane [p.val] (16 + lane.val) (16 + lane.val) = 1 := by
    have hsame : (s.laneMarked p lane).regF .lnkLane [p.val] 23 16 = s.regF .lnkLane [p.val] 23 16 := by
      rw [laneMarked, regF_modPort]
      exact regF_setRegF_apart s _ _ _ _ _ _ _ (le_refl _) (by omega) (by omega)
    have hlt : s.regF .lnkLane [p.val] (16 + lane.val) (16 + lane.val) < 2 := by
      have := getF_lt (s.reg .lnkLane [p.val]) (16 + lane.val) (16 + lane.val)
      rwa [show 16 + lane.val + 1 - (16 + lane.val) = 1 by omega] at this
    have hone : (s.regF .lnkLane [p.val] (16 + lane.val) (16 + lane.val)).testBit 0 = (s.reg .lnkLane [p.val]).toNat.testBit (16 + lane.val) := by
      rw [State.regF, getF_testBit]
      simp
    rw [hsame, State.regF, getF_testBit, ← hone]
    generalize s.regF .lnkLane [p.val] (16 + lane.val) (16 + lane.val) = b at hlt
    have hl : lane.val < 23 + 1 - 16 := by omega
    obtain rfl | rfl : b = 0 ∨ b = 1 := by omega
    · simp
    · simp [hl]
  rw [laneErrorLimit_eq h]
  by_cases hu : ((s.laneMarked p lane).regF .lnkLane [p.val] 23 16).testBit lane = true
  · rw [if_pos hu]
    refine ⟨onlyPort_trans honly (onlyPort_goRetrain _ p), ?_, ?_, ?_⟩
    · rw [regF_goRetrain_other (by decide) (by decide), hbit]
    · rw [port_goRetrain]
      split <;> exact hbad
    · rw [linkState_goRetrain, hst]
      simp only [huse.1 hu, and_true]
  · rw [if_neg hu]
    refine ⟨honly, hbit, hbad, ?_⟩
    rw [hst, if_neg fun hc => hu (huse.2 hc.2)]

/-! ### Time-outs, and the port's power (R348, R517) -/

theorem trainTimeout_effect (h : s.linkState p = 2) : Claims.OnlyPort p (Claims.portRegs p) s (s.trainTimeout p) ∧
    if 2 ≤ pairCount (s.port p).trained.toNat then (s.trainTimeout p).linkState p = 3 ∧ ((s.trainTimeout p).port p).offer = none
    else Claims.AtRest p 1 1 (s.trainTimeout p) := by
  rw [trainTimeout, if_pos h]
  by_cases h2 : 2 ≤ pairCount (s.port p).trained.toNat
  · rw [if_pos h2, if_pos h2]
    exact ⟨onlyPort_goNegotiate, linkState_goNegotiate, by rw [port_goNegotiate]⟩
  · rw [if_neg h2, if_neg h2]
    exact ⟨onlyPort_downed 1, atRest_downed (by decide)⟩

theorem negotiateTimeout_eq (h : s.linkState p = 3) (ho : (s.port p).offer = none) : s.negotiateTimeout p = s.downed p 3 := by
  rw [negotiateTimeout, if_pos ⟨h, by rw [ho]; rfl⟩]
  rfl

theorem retrainTimeout_eq (h : s.linkState p = 5) : s.retrainTimeout p = s.goDown p 4 true := if_pos h

theorem portPowerOff_eq (s : State) (p : Nat) :
    s.portPowerOff p = ((s.goOff p).sideReset (17 * p) 17 false).modPort p fun x => { x with powered := false } := rfl

theorem portPowerOff_effect : (Claims.NoTransit p s → Claims.OnlyPort p (Claims.portRegs p) s (s.portPowerOff p)) ∧
    Claims.AtRest p 0 6 (s.portPowerOff p) ∧ Claims.Dropped p (s.portPowerOff p) ∧ ((s.portPowerOff p).port p).powered = false := by
  rw [portPowerOff_eq]
  have hx := onlyXings_sideReset (s.goOff p) (17 * p) 17 false
  have honly := onlyPort_sideReset (Claims.portRegs p) (s.goOff p) p false
  obtain ⟨hst, hreason, hver, hpairs⟩ := atRest_goOff (s := s) (p := p.val)
  obtain ⟨hreplay, hcredits, hinbox, hbytes, hwait⟩ := dropped_goOff (s := s) (p := p.val)
  generalize (s.goOff p).sideReset (17 * p) 17 false = u at hx honly
  have hport : (u.modPort p fun x => { x with powered := false }).port p = { (s.goOff p).port p with powered := false } := by
    rw [port_modPort_self, hx.port]
  refine ⟨fun hn => onlyPort_trans (onlyPort_trans (onlyPort_goOff hn) honly) (onlyPort_modPort _ _), ⟨?_, ?_, ?_, ?_⟩,
    ⟨?_, ?_, ?_, ?_, ?_⟩, ?_⟩
  · exact (hx.regF ..).trans hst
  · exact (hx.regF ..).trans hreason
  · exact (hx.regF ..).trans hver
  · exact (hx.regF ..).trans hpairs
  · rw [hport]; exact hreplay
  · rw [hport]; exact hcredits
  · rw [hport]; exact hinbox
  · rw [hport]; exact hbytes
  · rw [modPort_waiting, hx.waiting]
    exact hwait
  · rw [hport]

/-! ### Flits sent again (R358) -/

/-- Unacknowledged flits that go out again leave all but the counters, the port's NAK and acknowledgement, and what is sent. -/
structure Resent (s t : State) (p n : Nat) : Prop where
  regs : SameRegsBut dieCounters s t
  xings : t.xings = s.xings
  rest : t.port p = { s.port p with nakDue := (t.port p).nakDue, unacked := (t.port p).unacked }
  out : Claims.FlitsPass s p → t.out.length = s.out.length + n

theorem Resent.trans {s t u : State} {p m n : Nat} (h : Resent s t p m) (k : Resent t u p n) : Resent s u p (m + n) := by
  have hpass : Claims.FlitsPass s p → Claims.FlitsPass t p := fun hp => by
    rw [Claims.FlitsPass, xingHeld, xing, h.xings]
    exact hp
  refine ⟨sameRegsBut_mono (sameRegsBut_trans h.regs k.regs) (by simp), k.xings.trans h.xings, ?_, fun hp => ?_⟩
  · have hk := k.rest
    rw [h.rest] at hk
    exact hk
  · rw [k.out (hpass hp), h.out hp]
    omega

theorem resent_refl (s : State) (p : Nat) : Resent s s p 0 := ⟨fun _ _ _ => rfl, rfl, rfl, fun _ => rfl⟩

theorem resent_modPort (s : State) (p : Nat) : Resent s (s.modPort p fun x => { x with nakDue := false, unacked := 0 }) p 0 :=
  ⟨fun _ _ _ => rfl, rfl, by rw [port_modPort_self], fun _ => rfl⟩

theorem resent_pmcDie (ev unit n p : Nat) (s : State) : Resent s (s.pmcDie ev unit n) p 0 := by
  have hc := pmcDie_frame s ev unit n
  rw [Counts] at hc
  refine ⟨sameRegsBut_pmcDie ev unit n, by rw [hc], ?_, fun _ => by rw [hc]; rfl⟩
  rw [hc]
  rfl

/-- A DATA flit sent with the CREDIT field given. -/
theorem resent_sendWith (s : State) (p seq : Nat) (credit payload : List Byte) : Resent s (s.sendWith p seq 0 credit payload) p 1 := by
  have hu := (resent_modPort s p).trans (resent_pmcDie 0x82 p 1 p _)
  simp only [sendWith, if_true]
  generalize (s.modPort p fun x => { x with nakDue := false, unacked := 0 }).pmcDie 0x82 p 1 = u at hu
  generalize flitOf _ _ = f
  have hlost : Claims.FlitsPass s p → u.flitsLost p = false := fun hp => by
    rw [flitsLost, xingHeld, xing, hu.xings]
    exact hp
  by_cases hl : u.flitsLost p = true
  · rw [if_pos hl]
    exact ⟨hu.regs, hu.xings, hu.rest, fun hp => absurd hl (by rw [hlost hp]; decide)⟩
  · rw [if_neg hl, emit_flit]
    exact ⟨hu.regs, hu.xings, hu.rest, fun hp => by
      rw [List.length_cons, hu.out hp]⟩

theorem resent_resend (s : State) (p : Nat) : Resent s (s.resend p) p (s.port p).replay.length := by
  rw [resend]
  generalize (s.port p).replay = l
  induction l generalizing s with
  | nil => exact resent_refl s p
  | cons r l ih =>
    rw [List.foldl_cons, List.length_cons, Nat.add_comm]
    exact (resent_sendWith s p _ _ _).trans (ih _)

theorem Resent.regF_port {s t : State} {p n : Nat} (h : Resent s t p n) {id : RegId} (hid : id ∈ portIds) (q hi lo : Nat) :
    t.regF id [q] hi lo = s.regF id [q] hi lo := by
  refine congrArg (getF · hi lo) (reg_of_sameRegsBut h.regs fun hm => ?_)
  have hle := le_of_mem_dieCounters hm
  rw [portIds_addr hid] at hle
  have hbase : ∀ id ∈ portIds, 0x90080 < id.row.base := by decide
  have := hbase id hid
  omega

/-! ### The end of RETRAIN (R348, R360) -/

theorem resentPort {s t : State} {p n : Nat} (h : Resent s t p n) : (t.port p).replay = (s.port p).replay ∧ (t.port p).credits = (s.port p).credits ∧
    (t.port p).offer = (s.port p).offer ∧ (t.port p).trained = (s.port p).trained := by
  rw [h.rest]
  exact ⟨rfl, rfl, rfl, rfl⟩

/-- The pairs that have lock at both ends and are left in use. -/
def goodPair (s : State) (p : Nat) (o : Offer) (j : Nat) : Bool :=
  (s.regF .lnkStatus [p] 43 40).testBit j && (s.offeredPairs p).getLsbD j && o.pairs.getLsbD j

/-- A lane of the pair is above its error limit. -/
def badPair (s : State) (p j : Nat) : Bool := (s.port p).badLanes.getLsbD (2 * j) || (s.port p).badLanes.getLsbD (2 * j + 1)

theorem pairCount_pairsLeft : pairCount (s.pairsLeft p) = (Claims.pairsLeft s p).length := pairCount_pairMask _

/-- The state once RETRAIN ends UP, before the unacknowledged flits go out. -/
def resumed (s : State) (p : Nat) (o : Offer) : State :=
  ((s.setLinkState p 4).setWidth p (s.linkVersion p) (pairsFor (s.linkVersion p) (pairMask (s.goodPair p o)))).modPort p fun x => { x with naks := 0 }

theorem tryResume_eq (h : s.linkState p = 5) : s.tryResume p =
    if (Claims.pairsLeft s p).length < 2 then s.goDown p 4 true
    else match (s.port p).offer with
      | none => s
      | some o => if ((List.range 4).filter (s.goodPair p o)).length < 2 then s else (s.resumed p o).resend p := by
  rw [tryResume, if_neg (by simp [h]), pairCount_pairsLeft]
  by_cases hl : (Claims.pairsLeft s p).length < 2
  · rw [if_pos hl, if_pos hl]
  · rw [if_neg hl, if_neg hl]
    cases (s.port p).offer with
    | none => rfl
    | some o =>
      change (if pairCount (pairMask (s.goodPair p o)) < 2 then s else (s.resumed p o).resend p) = _
      rw [pairCount_pairMask]

theorem getLsbD_offeredPairs (h : s.linkState p = 5) {j : Nat} (hj : j < 4) :
    (s.offeredPairs p).getLsbD j = ((s.port p).trained.getLsbD j && !s.badPair p j) := by
  have hoff : s.offeredPairs p = BitVec.ofNat 4 (pairMask fun j => (s.port p).trained.getLsbD j && !s.badPair p j) := if_pos h
  rw [hoff, BitVec.getLsbD_ofNat, testBit_pairMask _ hj]
  simp [hj]

/-- The good pairs are those left that both ends have lock on. -/
theorem filter_goodPair (h : s.linkState p = 5) (o : Offer) : (List.range 4).filter (s.goodPair p o) =
    (Claims.pairsLeft s p).filter fun j => (s.port p).trained.getLsbD j && o.pairs.getLsbD j := by
  rw [Claims.pairsLeft, List.filter_filter]
  refine List.filter_congr fun j hj => ?_
  rw [goodPair, getLsbD_offeredPairs h (List.mem_range.1 hj), badPair]
  cases (s.regF .lnkStatus [p.val] 43 40).testBit j <;> cases (s.port p).trained.getLsbD j <;> cases o.pairs.getLsbD j <;> simp

theorem resumed_effect (o : Offer) : (s.resumed p o).linkState p = 4 ∧ (s.resumed p o).linkVersion p = s.linkVersion p ∧
    (s.resumed p o).regF .lnkStatus [p.val] 43 40 = pairsFor (s.linkVersion p) (pairMask (s.goodPair p o)) ∧
    (s.resumed p o).port p = { s.port p with naks := 0 } ∧ (s.resumed p o).out = s.out ∧ (s.resumed p o).xings = s.xings := by
  have hver : s.linkVersion p < 16 := getF_lt (s.reg .lnkStatus [p.val]) 55 52
  have hpairs := pairsFor_lt (s.linkVersion p) (pairMask_lt (s.goodPair p o))
  rw [resumed]
  generalize pairsFor (s.linkVersion p) (pairMask (s.goodPair p o)) = w at hpairs
  refine ⟨?_, ?_, ?_, ?_, ?_, ?_⟩
  · rw [linkState_modPort, linkState_setWidth]
    exact linkState_setLinkState s p 4
  · rw [linkVersion_modPort, linkVersion_setWidth, Nat.mod_eq_of_lt hver]
  · rw [regF_modPort, pairs_setWidth, Nat.mod_eq_of_lt hpairs]
  · rw [port_modPort_self, port_setWidth]
    rfl
  · simp only [modPort_out, setWidth, setLinkState, setRegF_out]
  · simp only [modPort_xings, setWidth, setLinkState, setRegF_xings]

/-- What comes of RETRAIN once lock and offer are as they stand in s. -/
theorem tryResume_effect (h : s.linkState p = 5) :
    ((Claims.pairsLeft s p).length < 2 → Claims.AtRest p 1 4 (s.tryResume p) ∧ Claims.Dropped p (s.tryResume p)) ∧
    (2 ≤ (Claims.pairsLeft s p).length → ((s.tryResume p).port p).replay = (s.port p).replay ∧
      ((s.tryResume p).port p).credits = (s.port p).credits) ∧
    Claims.Retrained s (s.tryResume p) p (s.port p).trained (s.port p).offer := by
  rw [tryResume_eq h]
  by_cases hl : (Claims.pairsLeft s p).length < 2
  · rw [if_pos hl]
    have hdown : Claims.AtRest p 1 4 (s.goDown p 4 true) ∧ Claims.Dropped p (s.goDown p 4 true) := ⟨atRest_goDown (by decide) true, dropped_goDown 4⟩
    exact ⟨fun _ => hdown, fun h2 => absurd hl (by omega), fun _ => hdown, fun h2 => absurd hl (by omega), fun h2 => absurd hl (by omega)⟩
  · rw [if_neg hl]
    cases ho : (s.port p).offer with
    | none =>
      refine ⟨fun h2 => absurd h2 hl, fun _ => ⟨rfl, rfl⟩, fun h2 => absurd h2 hl, fun _ _ => ⟨h, ho, rfl, rfl⟩, fun _ hgood => ?_⟩
      simp at hgood
    | some o =>
      dsimp only
      rw [filter_goodPair h o]
      have hgoodEq : (Claims.pairsLeft s p).filter (fun j => (s.port p).trained.getLsbD j && ((some o).map fun o => o.pairs.getLsbD j).getD false) =
          (Claims.pairsLeft s p).filter fun j => (s.port p).trained.getLsbD j && o.pairs.getLsbD j := rfl
      by_cases hg : ((Claims.pairsLeft s p).filter fun j => (s.port p).trained.getLsbD j && o.pairs.getLsbD j).length < 2
      · rw [if_pos hg]
        exact ⟨fun h2 => absurd h2 hl, fun _ => ⟨rfl, rfl⟩, fun h2 => absurd h2 hl, fun _ _ => ⟨h, ho, rfl, rfl⟩, fun _ h2 => absurd hg (by
          rw [hgoodEq] at h2; omega)⟩
      · rw [if_neg hg]
        obtain ⟨hst, hver, hpairs, hport, hout, hx⟩ := resumed_effect (s := s) (p := p) o
        have hres := resent_resend (s.resumed p o) p
        obtain ⟨hreplay, hcredits, -, -⟩ := resentPort hres
        have hmask : pairMask (s.goodPair p o) =
            sumN (((Claims.pairsLeft s p).filter fun j => (s.port p).trained.getLsbD j && o.pairs.getLsbD j).map fun j => 2 ^ j) := by
          rw [← filter_goodPair h o]
          rfl
        refine ⟨fun h2 => absurd h2 hl, fun _ => ⟨by rw [hreplay, hport], by rw [hcredits, hport]⟩, fun h2 => absurd h2 hl,
          fun _ h2 => absurd h2 (by rw [hgoodEq]; exact hg), fun _ _ => ⟨?_, ?_, ?_, fun hp => ?_⟩⟩
        · exact (hres.regF_port (by decide) ..).trans hst
        · exact (hres.regF_port (by decide) ..).trans hver
        · refine (hres.regF_port (by decide) ..).trans (hpairs.trans ?_)
          rw [hgoodEq, hmask]
        · rw [hres.out (by rw [Claims.FlitsPass, xingHeld, xing, hx]; exact hp), hout, hreplay]

/-- `Retrained` reads of the state before only LNK_STATUS, the bad lanes, the crossings and what was sent. -/
theorem retrained_of_same {s u t : State} (hreg : u.reg .lnkStatus [p.val] = s.reg .lnkStatus [p.val])
    (hbad : (u.port p).badLanes = (s.port p).badLanes) (hx : u.xings = s.xings) (hout : u.out = s.out) {locked : BitVec 4} {o : Option Offer}
    (h : Claims.Retrained u t p locked o) : Claims.pairsLeft u p = Claims.pairsLeft s p ∧ Claims.Retrained s t p locked o := by
  have hleft : Claims.pairsLeft u p = Claims.pairsLeft s p := by simp only [Claims.pairsLeft, State.regF, hreg, hbad]
  have hver : u.linkVersion p = s.linkVersion p := congrArg (getF · 55 52) hreg
  have hpass : Claims.FlitsPass u p = Claims.FlitsPass s p := by simp only [Claims.FlitsPass, xingHeld, xing, hx]
  refine ⟨hleft, ?_⟩
  rw [Claims.Retrained, hleft, hver, hpass, hout] at h
  exact h

end State
end Sys2Proof.Machine

open Sys2Proof Sys2Proof.Machine

/-- Settles O40, a clause per event. -/
theorem lanesAndTimeoutsMoveThePort : Obligations.LanesAndTimeoutsMoveThePort := by
  intro s p
  refine ⟨fun h => ?_, fun h => congrArg Host.Outcome.next (State.signalDetected_of_ne h), fun pairs h => ?_, fun pairs h => ?_,
    fun f h hp hok hft => ?_, fun lane h => ⟨_, rfl, State.laneLockLoss_effect h lane⟩, fun lane h => ⟨_, rfl, State.laneErrorLimit_effect h lane⟩,
    fun h => ⟨_, rfl, State.trainTimeout_effect h⟩, fun h ho => ?_, fun h => ?_, ⟨_, rfl, State.portPowerOff_effect⟩⟩
  · have hexec : exec (.signalDetected p) s = .next (s.signalDetected p) := rfl
    rw [hexec, State.signalDetected_of_down h]
    refine ⟨_, rfl, State.onlyPort_trans (State.onlyPort_setLinkState 2) (State.onlyPort_modPort _ _), ?_, ?_, ?_⟩
    · rw [State.linkState_modPort]
      exact State.linkState_setLinkState s p 2
    · rw [State.port_modPort_self]
      rfl
    · rw [State.port_modPort_self]
      rfl
  · have hexec : exec (.laneLock p pairs) s = .next (s.laneLock p pairs) := rfl
    have honly : Claims.OnlyPort p (Claims.portRegs p) s (s.locked p pairs) := State.onlyPort_modPort _ _
    rw [hexec, State.laneLock_train h]
    by_cases h15 : pairs = 15
    · rw [if_pos h15, if_pos h15]
      refine ⟨_, rfl, State.onlyPort_trans honly State.onlyPort_goNegotiate, ?_, State.linkState_goNegotiate⟩
      rw [State.port_goNegotiate, State.port_locked]
    · rw [if_neg h15, if_neg h15]
      exact ⟨_, rfl, honly, by rw [State.port_locked], h⟩
  · have hexec : exec (.laneLock p pairs) s = .next (s.laneLock p pairs) := rfl
    have hport := State.port_locked (s := s) (p := p) pairs
    obtain ⟨-, hkept, hret⟩ := State.tryResume_effect (s := s.locked p pairs) (p := p) h
    rw [hport] at hret hkept
    dsimp only at hret hkept
    obtain ⟨hleft, hret⟩ := State.retrained_of_same (s := s) (u := s.locked p pairs) (p := p) rfl (by rw [hport]) rfl rfl hret
    rw [hexec, State.laneLock_retrain h]
    exact ⟨_, rfl, hret, fun h2 => hkept (by rwa [hleft])⟩
  · rw [State.exec_trainReceive hp, State.trainReceive_retrain hok hft h]
    refine ⟨_, rfl, fun hdev => ?_, fun hdev => ?_⟩
    · rw [if_pos (show (State.offerIn f).device = _ from hdev)]
      have hack := State.acked_applyAcks s p f
      have hsame : ((s.applyAcks p f).port p).badLanes = (s.port p).badLanes ∧ ((s.applyAcks p f).port p).trained = (s.port p).trained := by
        obtain ⟨x, hx⟩ := hack.rest
        rw [hx]
        exact ⟨rfl, rfl⟩
      obtain ⟨hbad, htrained⟩ := hsame
      have hport : ((s.applyAcks p f).modPort p fun x => { x with offer := some (State.offerIn f) }).port p =
          { (s.applyAcks p f).port p with offer := some (State.offerIn f) } := State.port_modPort_self ..
      have hstate : ((s.applyAcks p f).modPort p fun x => { x with offer := some (State.offerIn f) }).linkState p = 5 :=
        (hack.regF ..).trans h
      have hmrs : ((s.applyAcks p f).modPort p fun x => { x with offer := some (State.offerIn f) }).reg .lnkStatus [p.val] =
          s.reg .lnkStatus [p.val] := by
        rw [State.reg_modPort, State.reg, State.reg, hack.mrs]
      have hxings : ((s.applyAcks p f).modPort p fun x => { x with offer := some (State.offerIn f) }).xings = s.xings := hack.xings
      have hout : ((s.applyAcks p f).modPort p fun x => { x with offer := some (State.offerIn f) }).out = s.out := hack.out
      generalize (s.applyAcks p f).modPort p (fun x => { x with offer := some (State.offerIn f) }) = u at hport hstate hmrs hxings hout
      obtain ⟨-, hkept, hret⟩ := State.tryResume_effect hstate
      rw [hport] at hret hkept
      obtain ⟨hleft, hret⟩ := State.retrained_of_same hmrs (by rw [hport]; exact hbad) hxings hout hret
      dsimp only at hret
      rw [htrained] at hret
      refine ⟨hret, fun h2 => ?_⟩
      obtain ⟨hreplay, hcredits⟩ := hkept (by rwa [hleft])
      exact ⟨fun hf => hreplay.trans (hack.replay_of_no_ack hf), fun hf => hcredits.trans (hack.credits.trans (if_pos hf))⟩
    · rw [if_neg (show ¬ (State.offerIn f).device = _ from hdev)]
      exact ⟨State.atRest_goDown (by decide) true, State.dropped_goDown 5⟩
  · have hexec : exec (.negotiateTimeout p) s = .next (s.negotiateTimeout p) := rfl
    rw [hexec, State.negotiateTimeout_eq h ho]
    exact ⟨_, rfl, State.onlyPort_downed 3, State.atRest_downed (by decide)⟩
  · have hexec : exec (.retrainTimeout p) s = .next (s.retrainTimeout p) := rfl
    rw [hexec, State.retrainTimeout_eq h]
    exact ⟨_, rfl, fun hn => State.onlyPort_goDown 4 true fun _ => hn, State.atRest_goDown (by decide) true, State.dropped_goDown 4⟩

end

section
/-! PROOF. LSUPDATE (R430-R436). -/

namespace Sys2Proof.Machine

namespace State

variable {s t : State} {c : Nat}

/-- What a command that fires on more than an opcode comes to. -/
theorem fireWhen_fires {unit : Nat} {acc want : Entry → Bool} {x : Entry} (h : s.oldestReady c unit acc = some x) (hw : want x = true)
    (body : State → Entry → State) : s.fireWhen c unit acc want body = body (s.markFired c x) (s.firedEntry c x) := by
  rw [fireWhen, h]
  exact if_pos hw

theorem setValue_beside (uid : Nat) (v : Word) :
    (s.setValue c uid v).stalled = s.stalled ∧ (s.setValue c uid v).failing = s.failing ∧ (s.setValue c uid v).cells = s.cells :=
  ⟨rfl, rfl, rfl⟩

theorem done_setValue {uid : Nat} {v : Word} (h : ∀ z ∈ (s.core c).window, z.uid = uid → z.phase = .done) :
    ∀ y ∈ ((s.setValue c uid v).core c).window, y.uid = uid → y.phase = .done ∧ y.value = v := fun y hy hu => by
  rw [setValue, modEntry, core_modCore_self] at hy
  obtain ⟨z, hz, rfl⟩ := List.mem_map.mp hy
  by_cases hzu : z.uid = uid
  · rw [if_pos hzu]
    exact ⟨h z hz hzu, rfl⟩
  · rw [if_neg hzu] at hu
    exact absurd hu hzu

/-! ### The record -/

theorem LossRec.length_bytes (r : LossRec) (step : Word) : (r.bytes step).length = 32 := by
  simp [LossRec.bytes, fill]

/-- A record's 32 bytes of one piece stand there, and no other byte has changed. -/
theorem record_stands {q : Piece} {bs : List Byte} (h : t.cells = fillPieces s.cells [q] bs) (hq : q.len = 32) (hbs : bs.length = 32) :
    readBytes (t.cells q.place) q.addr 32 = bs ∧ SameMemBut q.place q.addr 32 s t := by
  have hapart : Claims.Apart [q] := List.pairwise_singleton _ _
  obtain ⟨hstands, hrest⟩ := filled_stands h hapart (by simp [hq, hbs])
  refine ⟨by simpa [Claims.bytesIn, hq] using hstands, fun pl a hout => ?_⟩
  by_contra hne
  obtain ⟨k, hk, hin⟩ := hrest pl a hne
  obtain rfl := List.mem_singleton.mp hk
  obtain ⟨hpl, hlo, hhi⟩ := hin
  exact hout ⟨hpl.symm, hlo, hq ▸ hhi⟩

/-- The record stored without an error, and the token beside it. -/
theorem leaves_storeRecord {e : Entry} (h : Clean s) (hnb : NothingBound s c e.uid) (pd : List Piece) (bs : List Byte) (v : Word) :
    Leaves c e.uid (fillPieces s.cells pd bs) s (s.storeRecord c e pd bs v) ∧
      ∀ y ∈ ((s.storeRecord c e pd bs v).core c).window, y.uid = e.uid → y.value = v := by
  obtain ⟨hunbound, hunheld⟩ := hnb
  obtain ⟨hfill, hmerged⟩ := storeFrom_fills h hunbound (spansOf pd) pd bs
  have hvalue : Leaves c e.uid ((s.storePieces c e.uid pd bs).1.cells) (s.storePieces c e.uid pd bs).1
      ((s.storePieces c e.uid pd bs).1.setValue c e.uid v) := leaves_modEntry hfill.clean (by exact fun _ => ⟨rfl, rfl⟩)
  have hall := hfill.step hvalue
  have heq : s.storeRecord c e pd bs v = (s.storePieces c e.uid pd bs).1.setValue c e.uid v := by
    rw [storeRecord, storePieces, hmerged]
    exact waitHeld_of_nothing_held ((hasHeld_congr hall.held _ _).trans hunheld)
  rw [heq]
  refine ⟨hall, fun y hy hu => ?_⟩
  obtain ⟨x, rfl⟩ := mem_modEntry hy hu
  rfl

/-! ### PREPARE and DECIDE -/

/-- The record that a loss-scale descriptor names. -/
def lossSide (s : State) (c : Nat) (e : Entry) : Side := ⟨true, none, (lossDesc (s.desc c (getF e.op 55 44))).record⟩

/-- The status word that a loss-scale descriptor names. -/
def lossWord (s : State) (c : Nat) (e : Entry) : Side := ⟨true, none, (lossDesc (s.desc c (getF e.op 55 44))).status⟩

/-- The checks of an LSUPDATE's record find nothing (R80). -/
structure RecordAccepted (s : State) (c : Nat) (e : Entry) (im : PartImg) : Prop where
  img : s.imgOf c = some im
  read : s.sideFault c im.pages (s.lossSide c e) 0 [] [(0, 32)] = none
  write : s.sideFault c im.pages (s.lossSide c e) 1 [] [(0, 32)] = none

variable {e : Entry} {im : PartImg}

theorem firePrepare_idle (hok : RecordAccepted s c e im) (h : e.step ≠ im.stepStart ∨ (lossDesc (s.desc c (getF e.op 55 44))).resume = true) :
    s.firePrepare c e = s.setValue c e.uid 1 := by
  obtain ⟨himg, hread, hwrite⟩ := hok
  have hno : ¬ (e.step = im.stepStart ∧ (lossDesc (s.desc c (getF e.op 55 44))).resume = false) := by
    rintro ⟨hstep, hres⟩
    rcases h with h | h
    · exact h hstep
    · rw [hres] at h
      exact absurd h (by decide)
  rw [lossSide] at hread hwrite
  simp only [firePrepare, himg, hread, hwrite, Option.orElse_eq_orElse, Option.orElse_eq_or, Option.none_or, if_neg hno]

theorem firePrepare_stores (hok : RecordAccepted s c e im) (hstep : e.step = im.stepStart)
    (hres : (lossDesc (s.desc c (getF e.op 55 44))).resume = false) : s.firePrepare c e =
      s.storeRecord c e ((s.lossSide c e).pieces im.pages 1 [(0, 32)])
        ((⟨(lossDesc (s.desc c (getF e.op 55 44))).init, 0, 0, 0⟩ : LossRec).bytes e.step) 1 := by
  obtain ⟨himg, hread, hwrite⟩ := hok
  rw [lossSide] at hread hwrite
  rw [lossSide]
  simp only [firePrepare, himg, hread, hwrite, Option.orElse_eq_orElse, Option.orElse_eq_or, Option.none_or, if_pos (And.intro hstep hres)]

/-- The state in which DECIDE reads its status word. -/
def decideBegun (s : State) (c : Nat) (e : Entry) (im : PartImg) : State :=
  s.trafficAll (s.classOf c e.unit 0)
    (spansOf ((s.lossWord c e).pieces im.pages 0 [(0, 64)]) ++ spansOf ((s.lossSide c e).pieces im.pages 1 [(0, 32)]))

/-- The state after both of its reads. -/
def decideRead (s : State) (c : Nat) (e : Entry) (im : PartImg) : State :=
  (((s.decideBegun c e im).readPieces ((s.lossWord c e).pieces im.pages 0 [(0, 64)])).st.readPieces
    ((s.lossSide c e).pieces im.pages 0 [(0, 32)])).st

/-- What the status word and the record say (R434). -/
def decision (s : State) (c : Nat) (e : Entry) (im : PartImg) : Nat × LossRec :=
  let d := lossDesc (s.desc c (getF e.op 55 44))
  let w := Claims.bytesIn s ((s.lossWord c e).pieces im.pages 0 [(0, 64)])
  let want := if d.stat then e.step - 1 else e.step
  lossDecide d (LossRec.ofBytes (Claims.bytesIn s ((s.lossSide c e).pieces im.pages 0 [(0, 32)])))
    (decide (le w 4 4 % 4 ≠ 0) || decide (le w 0 4 ≠ want.toNat)) (le w 12 4)

theorem map_getD_some (l : List Byte) (x : Byte) : (l.map some).map (fun b => b.getD x) = l := by
  simp [List.map_map, Function.comp_def]

theorem fireDecide_decides (hok : RecordAccepted s c e im) (h : Clean s)
    (halign : (lossDesc (s.desc c (getF e.op 55 44))).status % 64 = 0)
    (hword : s.sideFault c im.pages (s.lossWord c e) 0 [] [(0, 64)] = none) :
    Leaves c e.uid s.cells s (s.decideRead c e im) ∧ s.fireDecide c e = (s.decideRead c e im).storeRecord c e
      ((s.lossSide c e).pieces im.pages 1 [(0, 32)]) ((s.decision c e im).2.bytes e.step) (BitVec.ofNat 32 (s.decision c e im).1) := by
  obtain ⟨himg, hread, hwrite⟩ := hok
  have hbegun : Leaves c e.uid s.cells s (s.decideBegun c e im) := leaves_trafficAll h _ _
  obtain ⟨hw, hwbytes, hwbad⟩ := readPieces_clean (c := c) (uid := e.uid) hbegun.clean ((s.lossWord c e).pieces im.pages 0 [(0, 64)])
  have hmid := hbegun.step hw
  obtain ⟨hr, hrbytes, hrbad⟩ := readPieces_clean (c := c) (uid := e.uid) hmid.clean ((s.lossSide c e).pieces im.pages 0 [(0, 32)])
  rw [bytesIn_congr hbegun.cells] at hwbytes
  rw [bytesIn_congr hmid.cells] at hrbytes
  have hgood : ((s.decideBegun c e im).readPieces ((s.lossWord c e).pieces im.pages 0 [(0, 64)])).poisoned = false := by
    rw [Rd.poisoned, hwbytes]
    exact not_poisoned_of_good s _
  refine ⟨hmid.step hr, ?_⟩
  rw [decideRead, decision]
  simp only [decideBegun, lossSide, lossWord] at hword hread hwrite hwbytes hrbytes hwbad hrbad hgood ⊢
  simp only [fireDecide, himg, halign, hread, hwrite, hword, hwbytes, hrbytes, hwbad, hrbad, hgood, Option.orElse_eq_orElse,
    Option.orElse_eq_or, Option.none_or, map_getD_some, ne_eq, not_true_eq_false, Bool.false_eq_true, if_false]
  rfl

/-! ### The state in which it fires -/

theorem recordAccepted_markFired (x : Entry) (hok : RecordAccepted s c x im) : RecordAccepted (s.markFired c x) c (s.firedEntry c x) im := by
  obtain ⟨himg, hread, hwrite⟩ := hok
  have hb := onlyBegun_markFired (s := s) (c := c) x
  have hside : (s.markFired c x).lossSide c (s.firedEntry c x) = s.lossSide c x := by rw [lossSide, lossSide, hb.desc]; rfl
  exact ⟨by rw [hb.imgOf, himg], by rw [hside, hb.sideFault, hread], by rw [hside, hb.sideFault, hwrite]⟩

/-- An LSUPDATE that fires, stores its record and produces its token is done. -/
theorem record_done {x : Entry} {q : Piece} {bs : List Byte} {v : Word}
    (h : Leaves c x.uid (fillPieces s.cells [q] bs) (s.markFired c x) t) (hv : ∀ y ∈ (t.core c).window, y.uid = x.uid → y.value = v)
    (hq : q.len = 32) (hbs : bs.length = 32) : s.settle t = t ∧ readBytes (t.cells q.place) q.addr 32 = bs ∧
      SameMemBut q.place q.addr 32 s t ∧ ∀ y ∈ (t.core c).window, y.uid = x.uid → y.phase = .done ∧ y.value = v := by
  obtain ⟨hsettle, hdone⟩ := h.done_of_markFired
  obtain ⟨hbytes, hrest⟩ := record_stands h.cells hq hbs
  exact ⟨hsettle, hbytes, hrest, fun y hy hu => ⟨hdone y hy hu, hv y hy hu⟩⟩

end State

theorem exec_lsupdatePrepare {s : State} {c : CoreId} {x : Entry} (h : s.oldestReady c 5 (s.strmAccepts c) = some x)
    (hop : x.opcode = 0x74) (hmode : getF x.op 43 43 = 0) :
    exec (.lsupdatePrepare c) s = .next (s.settle ((s.markFired c x).firePrepare c (s.firedEntry c x))) :=
  congrArg (fun t => Host.Outcome.next (s.settle t)) (State.fireWhen_fires h (by simp [hop, hmode]) _)

theorem exec_lsupdateDecide {s : State} {c : CoreId} {x : Entry} (h : s.oldestReady c 5 (s.strmAccepts c) = some x)
    (hop : x.opcode = 0x74) (hmode : getF x.op 43 43 = 1) :
    exec (.lsupdateDecide c) s = .next (s.settle ((s.markFired c x).fireDecide c (s.firedEntry c x))) :=
  congrArg (fun t => Host.Outcome.next (s.settle t)) (State.fireWhen_fires h (by simp [hop, hmode]) _)

namespace State

variable {s : State} {c : CoreId} {x : Entry} {im : PartImg}

/-- PREPARE that writes nothing. -/
theorem prepare_idle (h : s.oldestReady c 5 (s.strmAccepts c) = some x) (hop : x.opcode = 0x74) (hmode : getF x.op 43 43 = 0)
    (hok : RecordAccepted s c x im) (hno : x.step ≠ im.stepStart ∨ (lossDesc (s.desc c (getF x.op 55 44))).resume = true) :
    ∃ t, exec (.lsupdatePrepare c) s = .next t ∧ SameMem s t ∧ ∀ e ∈ (t.core c).window, e.uid = x.uid → e.phase = .done ∧ e.value = 1 := by
  have hb := onlyBegun_markFired (s := s) (c := c) x
  obtain ⟨hstalled, hfailing, hcells⟩ := setValue_beside (s := s.markFired c x) (c := c) (s.firedEntry c x).uid 1
  refine ⟨_, exec_lsupdatePrepare h hop hmode, ?_⟩
  rw [firePrepare_idle (recordAccepted_markFired x hok) (by rw [hb.desc]; exact hno),
    settle_eq (hstalled.trans hb.aside.mem.stalled) (hfailing.trans hb.aside.mem.failing)]
  refine ⟨fun pl a => ?_, fun y hy hu => ?_⟩
  · rw [hcells, hb.aside.mem.cells]
  · exact done_setValue (fun z hz hzu => phase_of_mem_markFired hz hzu) y hy hu

/-- PREPARE of the first step. -/
theorem prepare_first (h : s.oldestReady c 5 (s.strmAccepts c) = some x) (hop : x.opcode = 0x74) (hmode : getF x.op 43 43 = 0)
    (hok : RecordAccepted s c x im) (hstep : x.step = im.stepStart) (hres : (lossDesc (s.desc c (getF x.op 55 44))).resume = false)
    (herr : NoErrors s) (hnb : NothingBound s c x.uid) {q : Piece} (hq : (s.lossSide c x).pieces im.pages 1 [(0, 32)] = [q])
    (hlen : q.len = 32) : ∃ t, exec (.lsupdatePrepare c) s = .next t ∧
      readBytes (t.cells q.place) q.addr 32 = (⟨(lossDesc (s.desc c (getF x.op 55 44))).init, 0, 0, 0⟩ : LossRec).bytes x.step ∧
      SameMemBut q.place q.addr 32 s t ∧ ∀ e ∈ (t.core c).window, e.uid = x.uid → e.phase = .done ∧ e.value = 1 := by
  have hb := onlyBegun_markFired (s := s) (c := c) x
  obtain ⟨hfill, hvalue⟩ := leaves_storeRecord (e := s.firedEntry c x) (clean_markFired (clean_of_noErrors herr) x)
    (nothingBound_markFired x hnb) [q] ((⟨(lossDesc (s.desc c (getF x.op 55 44))).init, 0, 0, 0⟩ : LossRec).bytes x.step) 1
  have heq := firePrepare_stores (recordAccepted_markFired x hok) hstep (by rw [hb.desc]; exact hres)
  have hside : (s.markFired c x).lossSide c (s.firedEntry c x) = s.lossSide c x := by rw [lossSide, lossSide, hb.desc]; rfl
  rw [hside, hq, hb.desc] at heq
  rw [show (s.markFired c x).cells = s.cells from funext hb.aside.mem.cells] at hfill
  obtain ⟨hsettle, hdone⟩ := record_done hfill hvalue hlen (LossRec.length_bytes _ _)
  refine ⟨_, (exec_lsupdatePrepare h hop hmode).trans ?_, hdone⟩
  rw [heq]
  exact congrArg _ hsettle

/-- DECIDE. -/
theorem decide_stores (h : s.oldestReady c 5 (s.strmAccepts c) = some x) (hop : x.opcode = 0x74) (hmode : getF x.op 43 43 = 1)
    (hok : RecordAccepted s c x im) (halign : (lossDesc (s.desc c (getF x.op 55 44))).status % 64 = 0)
    (hword : s.sideFault c im.pages (s.lossWord c x) 0 [] [(0, 64)] = none) (herr : NoErrors s) (hnb : NothingBound s c x.uid) {q : Piece}
    (hq : (s.lossSide c x).pieces im.pages 1 [(0, 32)] = [q]) (hlen : q.len = 32) : ∃ t, exec (.lsupdateDecide c) s = .next t ∧
      readBytes (t.cells q.place) q.addr 32 = (s.decision c x im).2.bytes x.step ∧ SameMemBut q.place q.addr 32 s t ∧
      ∀ e ∈ (t.core c).window, e.uid = x.uid → e.phase = .done ∧ e.value = BitVec.ofNat 32 (s.decision c x im).1 := by
  have hb := onlyBegun_markFired (s := s) (c := c) x
  have hcells : (s.markFired c x).cells = s.cells := funext hb.aside.mem.cells
  have hside : (s.markFired c x).lossSide c (s.firedEntry c x) = s.lossSide c x := by rw [lossSide, lossSide, hb.desc]; rfl
  have hwside : (s.markFired c x).lossWord c (s.firedEntry c x) = s.lossWord c x := by rw [lossWord, lossWord, hb.desc]; rfl
  have hsays : (s.markFired c x).decision c (s.firedEntry c x) im = s.decision c x im := by
    simp only [decision, hside, hwside, bytesIn_congr hcells]
    simp only [hb.desc, firedEntry]
  obtain ⟨hread, heq⟩ := fireDecide_decides (recordAccepted_markFired x hok) (clean_markFired (clean_of_noErrors herr) x)
    (by rw [hb.desc]; exact halign) (by rw [hwside, hb.sideFault]; exact hword)
  obtain ⟨hunbound, hunheld⟩ := nothingBound_markFired x hnb
  obtain ⟨hfill, hvalue⟩ := leaves_storeRecord (c := c) (e := s.firedEntry c x) hread.clean
    ⟨hread.bound.trans hunbound, (hasHeld_congr hread.held _ _).trans hunheld⟩ [q] ((s.decision c x im).2.bytes x.step)
    (BitVec.ofNat 32 (s.decision c x im).1)
  rw [hside, hq, hsays] at heq
  rw [hread.cells, hcells] at hfill
  obtain ⟨hsettle, hdone⟩ := record_done (hread.trans hfill) hvalue hlen (LossRec.length_bytes _ _)
  refine ⟨_, (exec_lsupdateDecide h hop hmode).trans ?_, hdone⟩
  rw [heq]
  exact congrArg _ hsettle

end State

end Sys2Proof.Machine

open Sys2Proof Sys2Proof.Machine

/-- Settles O53: the three cases of LSUPDATE, each from what its record's checks find. -/
theorem lossScaleIsControlled : Obligations.LossScaleIsControlled := by
  intro s c x im hready hop himg d side
  refine ⟨fun hmode hread hwrite => ?_, fun hmode halign herr hnb hword hread hwrite q hq hlen => ?_⟩
  · have hok : State.RecordAccepted s c x im := ⟨himg, hread, hwrite⟩
    exact ⟨State.prepare_idle hready hop hmode hok, fun q hstep hres herr hnb hq hlen =>
      State.prepare_first hready hop hmode hok hstep hres herr hnb hq hlen⟩
  · exact State.decide_stores hready hop hmode ⟨himg, hread, hwrite⟩ halign hword herr hnb hq hlen
end

section
/-! SUPPORT. What reads and writes of the memories that meet no error leave of the rest of the state: the counters, the sluices, the memories, what is
held, and the entries of the cores' windows are all that move. -/

namespace Sys2Proof.Machine.State

variable {s t u : State} {c uid : Nat}

/-- Only the memories, the cores' windows, event counters, what waits at the sluices and what is held behind loads differ. -/
structure MemTraffic (s t : State) : Prop where
  frame : t = { s with mrs := t.mrs, dieSeen := t.dieSeen, sluices := t.sluices, fast := t.fast, slow := t.slow, vats := t.vats,
                       pools := t.pools, held := t.held, cores := t.cores }
  regs : ∀ a d, (∀ k, a ∉ coreCounters k) → a ∉ dieCounters → t.mrs.get d a = s.mrs.get d a
  holders : ∀ k, (t.core k).part = (s.core k).part

theorem memTraffic_refl (s : State) : MemTraffic s s := ⟨rfl, fun _ _ _ _ => rfl, fun _ => rfl⟩

theorem MemTraffic.trans (h : MemTraffic s t) (k : MemTraffic t u) : MemTraffic s u :=
  ⟨by rw [k.frame, h.frame], fun a d h1 h2 => (k.regs a d h1 h2).trans (h.regs a d h1 h2), fun j => (k.holders j).trans (h.holders j)⟩

/-- A register off the event counters of the cores and of the die reads as before. -/
theorem MemTraffic.reg (h : MemTraffic s t) {id : RegId} {ix : List Nat}
    (ha : 0x90080 < id.row.addr ix ∧ id.row.addr ix < 0x01006008 ∨ 0x800000 ≤ id.row.addr ix % 0x1000000) : t.reg id ix = s.reg id ix := by
  refine h.regs _ _ (fun k hk => ?_) fun hd => ?_
  · have := range_of_mem_coreCounters hk
    omega
  · have := le_of_mem_dieCounters hd
    omega

theorem MemTraffic.regF (h : MemTraffic s t) {id : RegId} {ix : List Nat}
    (ha : 0x90080 < id.row.addr ix ∧ id.row.addr ix < 0x01006008 ∨ 0x800000 ≤ id.row.addr ix % 0x1000000) (hi lo : Nat) :
    t.regF id ix hi lo = s.regF id ix hi lo := congrArg (getF · hi lo) (h.reg ha)

/-- The counters of a core stand at 0x6008 and beyond within the 0x80000 bytes of its registers (R579). -/
theorem mod_of_mem_coreCounters {a k : Nat} (h : a ∈ coreCounters k) : 0x6008 ≤ a % 0x80000 := by
  simp only [coreCounters, List.mem_cons, List.mem_map, List.mem_range] at h
  rcases h with rfl | ⟨j, hj, rfl⟩ <;> simp [RegRow.addr, RegId.row, cix, sumN] <;> omega

/-- The same for a register that stands before the counters of such a range. -/
theorem MemTraffic.lowReg (h : MemTraffic s t) {id : RegId} {ix : List Nat}
    (ha : 0x90080 < id.row.addr ix ∧ id.row.addr ix % 0x80000 < 0x6008) : t.reg id ix = s.reg id ix := by
  refine h.regs _ _ (fun k hk => ?_) fun hd => ?_
  · have := mod_of_mem_coreCounters hk
    omega
  · have := le_of_mem_dieCounters hd
    omega

/-! ### Each step of a read or a write -/

theorem memTraffic_of_counters (hc : Counts s t) (hr : ∀ a d, (∀ k, a ∉ coreCounters k) → a ∉ dieCounters → t.mrs.get d a = s.mrs.get d a) :
    MemTraffic s t := by
  rw [Counts] at hc
  exact ⟨by rw [hc], hr, fun k => by rw [hc]; rfl⟩

theorem memTraffic_pmc (k ev n : Nat) : MemTraffic s (s.pmc k ev n) :=
  memTraffic_of_counters (counts_of_onlyRegs (pmc_frame s k ev n)) fun a d ha _ => sameRegsBut_pmc k ev n a d (ha k)

theorem memTraffic_granules (slow : Bool) (a n : Nat) : MemTraffic s (s.granules slow a n) :=
  memTraffic_of_counters (granules_frame s slow a n) fun b d _ hb => sameRegsBut_granules slow a n b d hb

theorem memTraffic_vatGrants (pl : Place) (a n : Nat) : MemTraffic s (s.vatGrants pl a n) := by
  cases pl with
  | vat i => exact memTraffic_pmc _ _ _
  | pool | tier => exact memTraffic_refl s

theorem memTraffic_trafficAll (cls : Nat) (l : List Span) : MemTraffic s (s.trafficAll cls l) := by
  obtain ⟨x, hx⟩ := trafficAll_frame (s := s) cls l
  rw [hx]
  exact ⟨rfl, fun _ _ _ _ => rfl, fun _ => rfl⟩

theorem memTraffic_setBank (pl : Place) (b : Bank) : MemTraffic s (s.setBank pl b) := by
  cases pl <;> exact ⟨rfl, fun _ _ _ _ => rfl, fun _ => rfl⟩

theorem memTraffic_setTier (slow : Bool) (x : Tier) : MemTraffic s (s.setTier slow x) := by
  cases slow <;> exact ⟨rfl, fun _ _ _ _ => rfl, fun _ => rfl⟩

theorem memTraffic_modCore {f : Core → Core} (hf : ∀ k, (f k).part = k.part) : MemTraffic s (s.modCore c f) :=
  ⟨rfl, fun _ _ _ _ => rfl, fun k => by
    by_cases hk : k = c
    · rw [hk, core_modCore_self, hf]
    · rw [core_modCore_ne _ _ _ hk]⟩

theorem memTraffic_modEntry (f : Entry → Entry) : MemTraffic s (s.modEntry c uid f) := memTraffic_modCore fun _ => rfl

theorem memTraffic_setPhase (ph : Phase) : MemTraffic s (s.setPhase c uid ph) := memTraffic_modEntry _

theorem memTraffic_waitHeld : MemTraffic s (s.waitHeld c uid) := by
  rw [waitHeld]
  split
  · exact memTraffic_modEntry _
  · exact memTraffic_refl s

theorem memTraffic_noteDst (x : Span) : MemTraffic s (s.noteDst c uid x) := by
  rw [noteDst]
  split
  · split
    · exact memTraffic_modEntry _
    · exact memTraffic_refl s
  · exact memTraffic_refl s

theorem memTraffic_setHeld (l : List Held) : MemTraffic s { s with held := l } := ⟨rfl, fun _ _ _ _ => rfl, fun _ => rfl⟩

theorem memTraffic_modHeld (k : Nat) (f : Held → Held) : MemTraffic s (s.modHeld k f) := by
  rw [modHeld]
  split
  · exact memTraffic_refl s
  · exact memTraffic_setHeld _

theorem memTraffic_bindSpans (e : Entry) (spans : List Span) : MemTraffic s (s.bindSpans c e spans) := by
  have hbind : MemTraffic s (s.bindOnly c e spans) := by
    rw [bindOnly, produce]
    split
    · exact memTraffic_modEntry _
    · exact (memTraffic_modEntry _).trans (memTraffic_modCore fun _ => rfl)
  exact hbind.trans (memTraffic_trafficAll _ _)

theorem memTraffic_markFired (e : Entry) : MemTraffic s (s.markFired c e) := by
  rw [markFired]
  refine ((memTraffic_modCore ?_).trans (memTraffic_modEntry _)).trans (memTraffic_pmc c _ _)
  exact fun _ => rfl

/-! ### Reads and writes that meet no error -/

theorem memTraffic_readPiece (h : Clean s) (p : Piece) : MemTraffic s (s.readPiece p).st := by
  have hbank : ∀ pl, IsBank pl → MemTraffic s (s.bankRead pl p.addr p.len).st := fun pl _ => by
    rw [bankRead_clean _ _ _ _ (h.banks pl)]
    exact memTraffic_vatGrants ..
  cases hp : p.place with
  | tier slow =>
    have hst : (s.tierRead slow p.addr p.len).st = s.granules slow p.addr p.len := by
      simp only [tierRead, marksIn_clean _ _ _ (h.calm.tier slow), h.calm.touch, List.foldl_nil, List.isEmpty_nil, if_true]
    simp only [readPiece, hp, hst]
    exact memTraffic_granules ..
  | vat i => simpa only [readPiece, hp] using hbank (.vat i) (isBank_vat i)
  | pool i => simpa only [readPiece, hp] using hbank (.pool i) (isBank_pool i)

theorem memTraffic_readPieces (h : Clean s) (l : List Piece) : MemTraffic s (s.readPieces l).st := by
  induction l generalizing s with
  | nil => exact memTraffic_refl s
  | cons p t ih =>
    obtain ⟨hone, -⟩ := readPiece_clean (c := 0) (uid := 0) h p
    exact (memTraffic_readPiece h p).trans (ih hone.clean)

theorem memTraffic_writePlace (h : Clean s) (pl : Place) (a : Nat) (bs : List Byte) : MemTraffic s (s.writePlace pl a bs).1 := by
  have hbank : IsBank pl → MemTraffic s (s.writePlace pl a bs).1 := fun hb => by
    rw [writePlace_of_isBank hb, bankWrite_clean hb a bs (h.banks pl)]
    exact ((memTraffic_vatGrants ..).trans (memTraffic_setBank ..)).trans (memTraffic_setBank ..)
  cases pl with
  | tier slow =>
    rw [writePlace, tierWrite_clean s slow a bs (h.calm.tier slow) (h.calm.touch slow _ _)]
    exact (memTraffic_granules ..).trans (memTraffic_setTier ..)
  | vat i => exact hbank (isBank_vat i)
  | pool i => exact hbank (isBank_pool i)

theorem memTraffic_writeRuns {r : State × Option Nat} (h : StoresSerenely s r) (hr : MemTraffic s r.1) (cls : Nat) (pl : Place)
    (l : List (Nat × List Byte)) : MemTraffic s (writeRuns cls pl l r).1 := by
  rw [writeRuns]
  refine (List.foldlRecOn (motive := fun q : State × Option Nat => StoresSerenely s q ∧ MemTraffic s q.1) l _ ⟨h, hr⟩ fun q hq run _ => ?_).2
  obtain ⟨hq, hqr⟩ := hq
  have ht := hq.serene.trans (serene_trafficAll hq.serene.clean cls pl run.1 run.2.length)
  have hw := writePlace_serenely ht.clean pl run.1 run.2
  exact ⟨⟨ht.trans hw.serene, by simp [hq.bad, hw.bad]⟩,
    (hqr.trans (memTraffic_trafficAll _ _)).trans (memTraffic_writePlace ht.clean pl run.1 run.2)⟩

theorem memTraffic_storeRun (h : Clean s) (pl : Place) (a : Nat) (bs : List Byte) : MemTraffic s (s.storeRun c uid pl a bs).1 := by
  have hnote : StoresSerenely s (s.noteDst c uid ⟨pl, a, bs.length⟩, none) := ⟨serene_noteDst h uid _, rfl⟩
  rw [storeRun_eq]
  exact (memTraffic_writeRuns hnote (memTraffic_noteDst _) (s.storeClass c uid) pl (s.storeCut c uid pl a bs).1).trans (memTraffic_setHeld _)

theorem memTraffic_storeFrom (h : Clean s) (ext : List Span) (l : List Piece) (bs : List Byte) : MemTraffic s (s.storeFrom c uid ext l bs).1 := by
  induction l generalizing s bs with
  | nil => exact memTraffic_refl s
  | cons p t ih =>
    have hrun := storeRun_serenely (c := c) h uid p.place p.addr (bs.take p.len)
    have hname : Serene _ ((s.storeRun c uid p.place p.addr (bs.take p.len)).1.nameHeld s.held.length p ext) :=
      serene_modHeld hrun.serene.clean s.held.length (by exact fun _ => rfl)
    exact ((memTraffic_storeRun h ..).trans (memTraffic_modHeld _ _)).trans (ih hname.clean (bs.drop p.len))

end Sys2Proof.Machine.State
end

section
/-! PROOF. HOSTIN, HOSTSIG and INGEST as they fire (R408, R409, R412). -/

namespace Sys2Proof.Machine

namespace State

variable {s t : State} {c : Nat}

/-! ### What fires leaves of other registers and of the partitions -/

/-- A core's event counters lie above the keeper's and the network's registers and off those of vats and pools (R579). -/
theorem OnlyBegun.reg (h : OnlyBegun c s t) {id : RegId} {ix : List Nat}
    (ha : id.row.addr ix < 0x01006008 ∨ 0x800000 ≤ id.row.addr ix % 0x1000000) : t.reg id ix = s.reg id ix :=
  h.regs _ _ fun _ hk => by
    have := range_of_mem_coreCounters hk
    omega

theorem OnlyBegun.netReg (h : OnlyBegun c s t) {id : RegId} (hid : id ∈ [RegId.netV4, .netV6Hi, .netV6Lo, .netCtrl]) (n : NetId) :
    t.reg id [n.val] = s.reg id [n.val] := by
  refine h.reg (.inl ?_)
  have := n.isLt
  simp only [List.mem_cons, List.not_mem_nil, or_false] at hid
  rcases hid with rfl | rfl | rfl | rfl <;> simp [RegRow.addr, RegId.row, sumN] <;> omega

theorem onlyCore_of_fresh (h : CoreOnly c s t) (hf : t.fresh = s.fresh) : OnlyCore c s t := by
  have honly := h.onlyCore
  rw [← hf] at honly
  exact honly

/-- How a frame leaves does not turn on what an instruction that fires changes (R399, R591). -/
theorem OnlyBegun.wireTo (h : OnlyBegun c s t) (n : NetId) (prio : Option Nat) (dst : BitVec 128) : t.wireTo n prio dst = s.wireTo n prio dst := by
  have h4 : t.reg .netV4 [n.val] = s.reg .netV4 [n.val] := h.netReg (by decide) n
  have hhi : t.reg .netV6Hi [n.val] = s.reg .netV6Hi [n.val] := h.netReg (by decide) n
  have hlo : t.reg .netV6Lo [n.val] = s.reg .netV6Lo [n.val] := h.netReg (by decide) n
  have hctl : t.reg .netCtrl [n.val] = s.reg .netCtrl [n.val] := h.netReg (by decide) n
  simp only [State.wireTo, srcAddr, netV4Addr, netV6Addr, regF, h4, hhi, hlo, hctl]
  rfl

theorem OnlyBegun.ctlOut (h : OnlyBegun c s t) (y : Session) (f : CtlFrame) : t.ctlOut y f = s.ctlOut y f := by
  have heth : t.eth = s.eth := by rw [h.only.frame]
  simp only [State.ctlOut, wire, h.wireTo, heth]

theorem gateOf_markFired (x : Entry) (p g : Nat) : (s.markFired c x).gateOf p g = s.gateOf p g := by
  rw [gateOf, (onlyBegun_markFired x).only.part, gateOf]

/-- An instruction that binds no source produces its bind token and waits at no sluice. -/
theorem onlyBegun_bindSpans_nil (e : Entry) : OnlyBegun c s (s.bindSpans c e []) := by
  have hbind : OnlyBegun c s (s.modEntry c e.uid fun x => { x with bound := [] }) := onlyBegun_modEntry _ _
  rw [show s.bindSpans c e [] = s.bindOnly c e [] from rfl, bindOnly, produce]
  split
  · exact hbind
  · exact hbind.trans (onlyBegun_modCore fun _ => rfl)

theorem phases_bindSpans_nil (e : Entry) : (s.bindSpans c e []).phases c = s.phases c := by
  have hbind : (s.modEntry c e.uid fun x => { x with bound := [] }).phases c = s.phases c := by
    rw [State.phases, modEntry, core_modCore_self, List.map_map]
    exact List.map_congr_left fun x _ => by simp only [Function.comp]; split <;> rfl
  rw [show s.bindSpans c e [] = s.bindOnly c e [] from rfl, bindOnly, produce]
  split
  · exact hbind
  · rw [State.phases, addTok, core_modCore_self]
    exact hbind

theorem sends_of_beside {u : State} (h : OnlyBegun c s t) (l : List Output)
    (hout : u.out = ((l.filter fun o => !t.outLost o).filter fun o => !t.pausedOut o).reverse ++ t.out)
    (hwait : u.waitOut = t.waitOut ++ (l.filter fun o => !t.outLost o).filter t.pausedOut) : Claims.Sends s u l := by
  have hl : t.outLost = s.outLost := by
    rw [h.only.frame]
    rfl
  have hp : t.pausedOut = s.pausedOut := by
    rw [h.only.frame]
    rfl
  rw [hl, hp, show t.out = s.out by rw [h.only.frame]] at hout
  rw [hl, hp, show t.waitOut = s.waitOut by rw [h.only.frame]] at hwait
  exact ⟨hout, hwait⟩

/-- An event to the one session that is open, which has room for it, is one frame (R405, R408). -/
theorem event_single {y : Session} (hy : s.sessions = [y]) (hroom : y.unacked.length < 1024) (mailbox code : Nat) (body : List Byte) :
    s.event mailbox code body =
      ({ s with sessions := [(s.pushFrame y 3 mailbox code 0 body 0).1] } : State).emitAll
        [s.ctlOut y ⟨3, y.sendSeq, BitVec.ofNat 8 mailbox, BitVec.ofNat 16 code, 0, body, 0⟩] := by
  have hfull : ¬ maxUnacked ≤ y.unacked.length := by
    rw [maxUnacked]
    omega
  simp only [event, hy, List.map_cons, List.map_nil, pushFrame, hfull, and_false, if_false, List.flatMap_cons, List.flatMap_nil,
    List.append_nil]

/-! ### HOSTIN -/

/-- The value that a HOSTIN waits for (R409). -/
def hostinWant (s : State) (c : Nat) (e : Entry) : Word := if getF e.op 49 49 = 1 then s.scalarOf c e else BitVec.ofNat 32 (getF e.op 31 0)

theorem hostinWant_markFired (x : Entry) : (s.markFired c x).hostinWant c (s.firedEntry c x) = s.hostinWant c x := by
  rw [hostinWant, hostinWant, scalarOf_markFired]
  rfl

theorem fireHostin_eq {p : Nat} (hp : (s.core c).part = some p) (e : Entry) :
    s.fireHostin c e = if 0 ≤ (s.gateOf p (getF e.op 55 50) - s.hostinWant c e).toInt then s
      else s.modEntry c e.uid fun x => { x with phase := .fired, carry := [s.hostinWant c e] } := by
  rw [fireHostin, hp]
  exact if_congr (by rw [gateReached, hostinWant, decide_eq_true_iff]) rfl rfl

/-! ### INGEST -/

theorem ingestOwns_of_onlyBegun (h : OnlyBegun c s t) (p cl b : Nat) (hcl : cl < 8) (hb : b < 31) : t.ingestOwns p cl b = s.ingestOwns p cl b := by
  have hreg : t.reg .poolOwner [cl, b] = s.reg .poolOwner [cl, b] := h.reg (.inr (by
    simp [RegRow.addr, RegId.row, sumN]
    omega))
  rw [ingestOwns, ingestOwns, hreg]

theorem lt_of_mem_ingestBanks {op : Long} {b : Nat} (h : b ∈ ingestBanks op) : b < 31 := by
  obtain ⟨k, hk, rfl⟩ := List.mem_map.mp h
  have h1 := getF_lt op 31 28
  have h2 := getF_lt op 35 32
  have := List.mem_range.mp hk
  omega

/-- The job that an INGEST queues (R412). -/
def ingestJob (s : State) (c p : Nat) (e : Entry) (im : PartImg) : IngJob :=
  let d := s.desc c (getF e.op 47 36)
  ⟨c, e.uid, p, e.step, e.op, im.ingest.getD (getF e.op 55 48) 0,
   State.spansOf ((⟨true, none, dF d 8 6⟩ : Side).pieces im.pages 0 [(0, dF d 0x10 8)]), false, false, [], 0, 0, 0, 0, 0,
   ingestSpans (c / 16) e.op (im.ingest.getD (getF e.op 55 48) 0)⟩

/-- The queue of an engine grows by a job, and the instruction that it is for waits. -/
def queued (s : State) (c cl : Nat) (j : IngJob) (uid : Nat) : State :=
  (s.modCl cl fun k => { k with ingQ := k.ingQ ++ [j] }).setPhase c uid .fired

theorem memKept_queued (cl : Nat) (j : IngJob) (uid : Nat) : MemKept s (s.queued c cl j uid) := ⟨rfl, rfl, rfl, rfl, rfl, rfl⟩

theorem ingQ_queued (cl : Nat) (j : IngJob) (uid : Nat) : ((s.queued c cl j uid).cl cl).ingQ = (s.cl cl).ingQ ++ [j] :=
  congrArg Cluster.ingQ (cl_modCl_self s cl fun k => { k with ingQ := k.ingQ ++ [j] })

theorem phase_queued {cl : Nat} {j : IngJob} {uid : Nat} : ∀ e ∈ ((s.queued c cl j uid).core c).window, e.uid = uid → e.phase = .fired :=
  fun _ he hu => phase_of_mem_setPhase he hu

end State

/-- HOSTIN: it is done where its gate has reached the value, and else fires and waits for it. -/
theorem hostin_waits {s : State} {c : CoreId} {p : PartId} {x : Entry} (hp : (s.core c).part = some p.val)
    (hf : Fires s c 5 0x68 (s.strmAccepts c) x) : ∃ t, exec (.hostin c) s = .next t ∧ OnlyCore c s t ∧
      ∀ e ∈ (t.core c).window, e.uid = x.uid →
        if 0 ≤ (s.gateOf p (getF x.op 55 50) - s.hostinWant c x).toInt then e.phase = .done
        else e.phase = .fired ∧ e.carry = [s.hostinWant c x] := by
  have hb := State.onlyBegun_markFired (s := s) (c := c) x
  have heq := State.fireHostin_eq (s := s.markFired c x) (hb.holds.trans hp) (s.firedEntry c x)
  rw [State.hostinWant_markFired, State.gateOf_markFired] at heq
  have hexec : exec (.hostin c) s = .next ((s.markFired c x).fireHostin c (s.firedEntry c x)) :=
    congrArg Host.Outcome.next (fireOp_fires hf fun t e => t.fireHostin c e)
  refine ⟨_, hexec, ?_⟩
  rw [heq]
  have hop : (s.firedEntry c x).op = x.op := rfl
  rw [hop]
  have honly : OnlyCore c s (s.markFired c x) := State.onlyCore_of_fresh hb.only (State.fresh_markFired x)
  split
  next => exact ⟨honly, fun e he hu => State.phase_of_mem_markFired he hu⟩
  next =>
    refine ⟨State.onlyCore_trans honly (State.onlyCore_modCore _), fun e he hu => ?_⟩
    obtain ⟨z, rfl⟩ := State.mem_modEntry he hu
    exact ⟨rfl, rfl⟩

/-- HOSTSIG: its event goes to the one session that is open. -/
theorem hostsig_sends {s : State} {c : CoreId} {p : PartId} {x : Entry} {y : Session} (hp : (s.core c).part = some p.val)
    (hf : Fires s c 5 0x69 (s.strmAccepts c) x) (hy : s.sessions = [y]) (hroom : y.unacked.length < 1024) :
    ∃ t f, exec (.hostsig c) s = .next t ∧ Claims.Sends s t [s.ctlOut y f] ∧ f.kind = 3 ∧ f.mailbox = BitVec.ofNat 8 (0x10 + p.val) ∧
      f.code = 0x8003 ∧ f.body = [BitVec.ofNat 8 (getF x.op 55 50), 0, 0, 0] ++ beBytes 4 (getF x.op 31 0) ++ beBytes 4 x.step.toNat ∧
      ∀ e ∈ (t.core c).window, e.uid = x.uid → e.phase = .done := by
  have hmarked := State.onlyBegun_markFired (s := s) (c := c) x
  have hbound := hmarked.trans (State.onlyBegun_bindSpans_nil (s.firedEntry c x))
  have hdone : ∀ e ∈ (((s.markFired c x).bindSpans c (s.firedEntry c x) []).core c).window, e.uid = x.uid → e.phase = .done :=
    State.phase_of_phases (State.phases_bindSpans_nil (s.firedEntry c x)) fun _ hz hu => State.phase_of_mem_markFired hz hu
  have hsess : ((s.markFired c x).bindSpans c (s.firedEntry c x) []).sessions = [y] := by rw [hbound.only.frame]; exact hy
  have hexec : exec (.hostsig c) s = .next ((s.markFired c x).fireHostsig c (s.firedEntry c x)) :=
    congrArg Host.Outcome.next (fireOp_fires hf fun t e => t.fireHostsig c e)
  have hpart : ((s.markFired c x).core c).part = some p.val := hmarked.holds.trans hp
  simp only [State.fireHostsig, hpart, State.event_single hsess hroom] at hexec
  rw [hbound.ctlOut] at hexec
  exact ⟨_, _, hexec, State.sends_of_beside hbound _ rfl rfl, rfl, rfl, rfl, rfl, hdone⟩

/-- INGEST joins the engine's queue, or faults with OWNERSHIP. -/
theorem ingest_joins {s : State} {c : CoreId} {p : PartId} {x : Entry} {im : PartImg} (hp : (s.core c).part = some p.val)
    (him : s.imgOf c = some im) (hr : s.isRunning p = true) (hf : Fires s c 8 0x80 (s.ingestAccepts c) x)
    (hside : s.sideFault c im.pages ⟨true, none, dF (s.desc c (getF x.op 47 36)) 8 6⟩ 0 []
      [(0, dF (s.desc c (getF x.op 47 36)) 0x10 8)] = none) :
    ((∀ b ∈ State.ingestBanks x.op, s.ingestOwns p (c.val / 16) b = true) → ∃ t j, exec (.ingest c) s = .next t ∧ SameMem s t ∧
      (t.cl (c.val / 16)).ingQ = (s.cl (c.val / 16)).ingQ ++ [j] ∧ j.core = c.val ∧ j.uid = x.uid ∧ j.part = p.val ∧ j.op = x.op ∧
      j.prof = im.ingest.getD (getF x.op 55 48) 0 ∧ j.started = false ∧ ∀ e ∈ (t.core c).window, e.uid = x.uid → e.phase = .fired) ∧
    ((∃ b ∈ State.ingestBanks x.op, s.ingestOwns p (c.val / 16) b = false) → ∃ t, exec (.ingest c) s = .next t ∧ SameMem s t ∧
      HaltedWith t p 0x0B) := by
  have hb := State.onlyBegun_markFired (s := s) (c := c) x
  have hexec : exec (.ingest c) s = .next (s.settle ((s.markFired c x).fireIngest c (s.firedEntry c x))) :=
    congrArg (fun t => Host.Outcome.next (s.settle t)) (fireOp_fires hf fun t e => t.fireIngest c e)
  have howns : ∀ b ∈ State.ingestBanks x.op, (s.markFired c x).ingestOwns p (c.val / 16) b = s.ingestOwns p (c.val / 16) b := fun b hmem =>
    State.ingestOwns_of_onlyBegun hb p _ b (by have := c.isLt; omega) (State.lt_of_mem_ingestBanks hmem)
  have hfire := State.fireIngest.eq_1 (s.markFired c x) c (s.firedEntry c x)
  have hop : (s.firedEntry c x).op = x.op := rfl
  simp only [hb.holds.trans hp, hb.imgOf.trans him, hop, hb.desc, hb.sideFault, hside] at hfire
  refine ⟨fun hall => ?_, fun hsome => ?_⟩
  · rw [if_pos (List.all_eq_true.mpr fun b hmem => (howns b hmem).trans (hall b hmem))] at hfire
    replace hfire : (s.markFired c x).fireIngest c (s.firedEntry c x) = (s.markFired c x).queued c (c.val / 16) (s.ingestJob c p x im) x.uid := hfire
    rw [hfire] at hexec
    have hkept : State.MemKept s ((s.markFired c x).queued c (c.val / 16) (s.ingestJob c p x im) x.uid) := hb.aside.mem.trans (State.memKept_queued ..)
    refine ⟨(s.markFired c x).queued c (c.val / 16) (s.ingestJob c p x im) x.uid, s.ingestJob c p x im,
      hexec.trans (congrArg _ hkept.settle), hkept.sameMem, ?_, ?_⟩
    · rw [State.ingQ_queued, State.cl, hb.only.frame]
      rfl
    · exact ⟨rfl, rfl, rfl, rfl, rfl, rfl, State.phase_queued⟩
  · obtain ⟨b, hmem, hno⟩ := hsome
    have hnot : ¬ ((State.ingestBanks x.op).all fun b => (s.markFired c x).ingestOwns p (c.val / 16) b) = true := fun h => by
      have := List.all_eq_true.mp h b hmem
      rw [howns b hmem, hno] at this
      exact absurd this (by decide)
    rw [if_neg hnot] at hfire
    obtain ⟨hhalted, hmem⟩ := State.settle_fault hb.aside hp hr (s.firedEntry c x) 0x0B noIndex none
    rw [hfire] at hexec
    exact ⟨_, hexec, hmem, hhalted.haltedWith rfl⟩

end Sys2Proof.Machine
end

section
/-! PROOF. The streams that the ingest engines read and the pictures that they write (R411, R414-R417). -/

namespace Sys2Proof.Machine

/-- The slot that a job's next picture goes to (R416). -/
def IngJob.slotOf (j : IngJob) (cl : Nat) : Place := .pool (16 * cl + (getF j.op 35 32 + j.next % (getF j.op 31 28 + 1)) % 16)

/-- The bank of a job's record table (R416). -/
def IngJob.tableOf (j : IngJob) (cl : Nat) : Place := .pool (16 * cl + getF j.op 35 32)

/-- The bytes of a picture of this status: all +0 where it is dropped (R417). -/
def IngJob.slotBytes (j : IngJob) (p : VPic) (st : Nat) : List Byte := if st = 2 then fill (prF j.prof 0x34 4) 0 else (pictureTensor j.prof p).1

/-- A picture's record (R416). -/
def IngJob.recordOf (j : IngJob) (p : VPic) (st : Nat) : List Byte :=
  leBytes 4 j.next ++ [BitVec.ofNat 8 st, BitVec.ofNat 8 (p.kind + (if p.field then 4 else 0) + (if p.bottom then 8 else 0)), 0, 0] ++
    leBytes 4 p.lost ++ fill 4 0

namespace State

variable {s t : State} {cl : Nat} {j : IngJob} {rest : List IngJob}

theorem MemTraffic.cluster (h : MemTraffic s t) (k : Nat) : t.cl k = s.cl k := by
  rw [h.frame]
  rfl

theorem MemTraffic.desc (h : MemTraffic s t) (k i : Nat) : t.desc k i = s.desc k i := by
  have hp : ∀ p, t.part p = s.part p := fun p => by
    rw [h.frame]
    rfl
  simp only [State.desc, imgOf, h.holders, hp]

/-- The counts of an ingest engine stand off every event counter (R579). -/
theorem MemTraffic.ingErr (h : MemTraffic s t) (k hi lo : Nat) : t.regF .ingErr [k] hi lo = s.regF .ingErr [k] hi lo :=
  congrArg (getF · hi lo) (h.lowReg (by
    simp [RegRow.addr, RegId.row, sumN]
    omega))

theorem chunksOf_map {α β : Type} (n : Nat) (f : α → β) (l : List α) : chunksOf n (l.map f) = (chunksOf n l).map (List.map f) := by
  simp only [chunksOf, List.length_map, List.map_map, Function.comp_def, List.map_take, List.map_drop]

theorem leaves_bumpBy {c uid : Nat} (h : Clean s) {id : RegId} {ix : List Nat} (ha : id.row.addr ix % 0x80000 ≠ 0) (hi lo n : Nat) :
    Leaves c uid s.cells s (s.bumpBy id ix hi lo n) :=
  leaves_of_counts h (counts_of_onlyRegs rfl) (heatKept_setRegF ha hi lo _)

/-! ### INGEST_TAKEN -/

/-- What an engine finds in a stream's bytes: the pictures that it puts out, those decoded, the transport errors, and whether the decoder met an
error. -/
def decoded (prof : BitVec 512) (bytes : List Byte) : List VPic × Nat × Nat × Bool :=
  let wide := if prF prof 2 1 = 1 then 192 else 188
  let es := demux ((chunksOf wide bytes).filterMap fun b => tsPacket (prF prof 0 2) ((b.map some).drop (wide - 188))) none false none
  let dv := Config.decodeVideo (prF prof 3 1) (prF prof 0x16 1 == 1) es.1
  (outputPics prof dv.1, dv.1.length, es.2, dv.2)

/-- The job of a stream that has been decoded. -/
def startedJob (s : State) (j : IngJob) : IngJob :=
  let d := decoded j.prof (Claims.bytesIn s (s.ingestPieces j))
  { j with started := true, pics := d.1, decoded := d.2.1, flags := (if 0 < d.2.2.1 then 1 else 0) + (if d.2.2.2 then 2 else 0) }

/-- The state in which a stream has been read and its transport errors are counted. -/
def streamRead (s : State) (cl : Nat) (j : IngJob) : State :=
  ((s.trafficAll j.part j.input).readPieces (s.ingestPieces j)).st.bumpBy .ingErr [cl] 47 32
    (decoded j.prof (Claims.bytesIn s (s.ingestPieces j))).2.2.1

theorem ingestTaken_clean (h : Clean s) (hq : (s.cl cl).ingQ = j :: rest) (hstart : j.started = false) (hup : (s.cl cl).restarting = false) :
    s.ingestTaken cl = if (s.startedJob j).pics.isEmpty then (s.streamRead cl j).endIngest cl (s.startedJob j)
      else (s.streamRead cl j).setJob cl (s.startedJob j) := by
  have htraffic := leaves_trafficAll (c := 0) (uid := 0) h j.part j.input
  obtain ⟨-, hbytes, hbad⟩ := readPieces_clean (c := 0) (uid := 0) htraffic.clean (s.ingestPieces j)
  rw [bytesIn_congr htraffic.cells] at hbytes
  have hgood : ((s.trafficAll j.part j.input).readPieces (s.ingestPieces j)).poisoned = false := by
    rw [Rd.poisoned, hbytes]
    exact not_poisoned_of_good s _
  simp only [ingestTaken, hq, hstart, hup, hbad, hgood, hbytes, chunksOf_map, List.filterMap_map, Bool.or_self, Bool.false_eq_true, if_false,
    startedJob, streamRead, decoded, Function.comp_def]
  congr 1

/-- What a stream's reading leaves: its bytes are where they were, and the errors are counted. -/
theorem streamRead_kept (h : Clean s) (j : IngJob) : Leaves 0 0 s.cells s (s.streamRead cl j) ∧ (s.streamRead cl j).cl cl = s.cl cl ∧
    (s.streamRead cl j).regF .ingErr [cl] 47 32 =
      min (s.regF .ingErr [cl] 47 32 + (decoded j.prof (Claims.bytesIn s (s.ingestPieces j))).2.2.1) 0xFFFF := by
  have htraffic := leaves_trafficAll (c := 0) (uid := 0) h j.part j.input
  obtain ⟨hread, -⟩ := readPieces_clean (c := 0) (uid := 0) htraffic.clean (s.ingestPieces j)
  have hleft := htraffic.step hread
  have hmem := (memTraffic_trafficAll (s := s) j.part j.input).trans (memTraffic_readPieces htraffic.clean (s.ingestPieces j))
  rw [streamRead]
  refine ⟨hleft.step (leaves_bumpBy hleft.clean (by simp [RegRow.addr, RegId.row, sumN]; omega) ..), ?_, ?_⟩
  · rw [← hmem.cluster]
    rfl
  · rw [regF_bumpBy_self _ _ _ _ _ _ (by decide) (by decide), hmem.ingErr]
    rfl

theorem ingQ_setJob (s : State) (cl : Nat) (j : IngJob) : ((s.setJob cl j).cl cl).ingQ = j :: (s.cl cl).ingQ.drop 1 :=
  congrArg Cluster.ingQ (cl_modCl_self s cl fun k => { k with ingQ := j :: k.ingQ.drop 1 })

/-- A cluster's record is none of what errors turn on. -/
theorem memKept_modCl (f : Cluster → Cluster) : MemKept s (s.modCl cl f) := ⟨rfl, rfl, rfl, rfl, rfl, rfl⟩

/-- An INGEST that ends without an error gives its place up. -/
theorem endIngest_clean (h : Clean s) (j : IngJob) : (s.endIngest cl j).stalled = s.stalled ∧ (s.endIngest cl j).failing = s.failing ∧
    ((s.endIngest cl j).cl cl).ingQ = (s.cl cl).ingQ.drop 1 := by
  have hrun := storeRun_serenely (c := j.core) h j.uid (.pool (16 * cl + getF j.op 35 32)) (16 * getF j.op 27 12)
    (leBytes 4 j.decoded ++ leBytes 4 j.written ++ leBytes 4 j.discarded ++ leBytes 4 j.flags)
  have hmem := memTraffic_storeRun (c := j.core) (uid := j.uid) h (.pool (16 * cl + getF j.op 35 32)) (16 * getF j.op 27 12)
    (leBytes 4 j.decoded ++ leBytes 4 j.written ++ leBytes 4 j.discarded ++ leBytes 4 j.flags)
  simp only [endIngest, hrun.bad, Option.isSome_none, Bool.false_eq_true, if_false]
  generalize (s.storeRun j.core j.uid _ _ _).1 = u at hrun hmem
  have hend : MemTraffic (u.modCl cl fun k => { k with ingQ := k.ingQ.drop 1 })
      (((u.modCl cl fun k => { k with ingQ := k.ingQ.drop 1 }).setPhase j.core j.uid .done).waitHeld j.core j.uid) :=
    (memTraffic_setPhase _).trans memTraffic_waitHeld
  refine ⟨?_, ?_, ?_⟩
  · rw [hend.frame, hmem.frame]
    rfl
  · rw [hend.frame, hmem.frame]
    rfl
  · rw [hend.cluster, ← hmem.cluster cl]
    exact congrArg Cluster.ingQ (cl_modCl_self u cl fun k => { k with ingQ := k.ingQ.drop 1 })

/-- INGEST_TAKEN. -/
theorem taken_spec (h : Clean s) (hq : (s.cl cl).ingQ = j :: rest) (hstart : j.started = false) (hup : (s.cl cl).restarting = false) :
    s.settle (s.ingestTaken cl) = s.ingestTaken cl ∧
      ((s.startedJob j).pics ≠ [] → SameMem s (s.ingestTaken cl) ∧ ((s.ingestTaken cl).cl cl).ingQ = s.startedJob j :: rest ∧
        (s.ingestTaken cl).regF .ingErr [cl] 47 32 =
          min (s.regF .ingErr [cl] 47 32 + (decoded j.prof (Claims.bytesIn s (s.ingestPieces j))).2.2.1) 0xFFFF) ∧
      ((s.startedJob j).pics = [] → ((s.ingestTaken cl).cl cl).ingQ = rest) := by
  obtain ⟨hread, hcl, herr⟩ := streamRead_kept (cl := cl) h j
  rw [ingestTaken_clean h hq hstart hup]
  have hdrop : ((s.streamRead cl j).cl cl).ingQ.drop 1 = rest := by rw [hcl, hq]; rfl
  split
  next hnone =>
    obtain ⟨hst, hf, hend⟩ := endIngest_clean (cl := cl) hread.clean (s.startedJob j)
    exact ⟨settle_eq (hst.trans hread.stalled) (hf.trans hread.failing), fun hne => absurd (List.isEmpty_iff.mp hnone) hne,
      fun _ => hend.trans hdrop⟩
  next hsome =>
    have hkept : MemKept (s.streamRead cl j) ((s.streamRead cl j).setJob cl (s.startedJob j)) := memKept_modCl _
    refine ⟨settle_eq (hkept.stalled.trans hread.stalled) (hkept.failing.trans hread.failing),
      fun _ => ⟨fun pl a => (hkept.sameMem pl a).trans (by rw [hread.cells]), ?_, herr⟩, fun hnone => ?_⟩
    · rw [ingQ_setJob, hdrop]
    · exact absurd (List.isEmpty_iff.mpr hnone) hsome

/-! ### INGEST_PICTURE -/

/-- The state in which a picture's outcome is counted (R417). -/
def pictureCounted (s : State) (cl : Nat) (st : Nat × Bool) : State :=
  let s := if st.2 then s.bump .ingErr [cl] 63 48 else s
  if st.1 = 2 then s.bump .ingErr [cl] 31 16 else if st.1 = 1 then s.bump .ingErr [cl] 15 0 else s

theorem leaves_pictureCounted {c uid : Nat} (h : Clean s) (st : Nat × Bool) : Leaves c uid s.cells s (s.pictureCounted cl st) := by
  have hone : ∀ {t : State}, Leaves c uid s.cells s t → ∀ hi lo, Leaves c uid s.cells s (t.bump .ingErr [cl] hi lo) := fun ht hi lo =>
    ht.step (leaves_bumpBy (id := .ingErr) (ix := [cl]) ht.clean (by simp [RegRow.addr, RegId.row, sumN]; omega) hi lo 1)
  have hfirst : Leaves c uid s.cells s (if st.2 then s.bump .ingErr [cl] 63 48 else s) := by
    split
    · exact hone (leaves_refl h) _ _
    · exact leaves_refl h
  rw [pictureCounted]
  split
  · exact hone hfirst _ _
  · split
    · exact hone hfirst _ _
    · exact hfirst

theorem cl_pictureCounted (st : Nat × Bool) (k : Nat) : (s.pictureCounted cl st).cl k = s.cl k := by
  rw [pictureCounted]
  repeat' split
  all_goals rfl

/-- A picture's bytes stored, and with them its record. -/
def pictureStored (s : State) (cl : Nat) (j : IngJob) (p : VPic) (st : Nat) : State :=
  ((s.storeRun j.core j.uid (j.slotOf cl) (j.next / (getF j.op 31 28 + 1) * prF j.prof 0x34 4) (j.slotBytes p st)).1.storeRun j.core j.uid
    (j.tableOf cl) (16 * (getF j.op 27 12 + j.next + 1)) (j.recordOf p st)).1

theorem leaves_pictureStored (h : Clean s) (hn : s.boundSpans j.core j.uid = []) (p : VPic) (st : Nat) :
    Leaves j.core j.uid (putBytes (putBytes s.cells (j.slotOf cl) (j.next / (getF j.op 31 28 + 1) * prF j.prof 0x34 4) (j.slotBytes p st))
      (j.tableOf cl) (16 * (getF j.op 27 12 + j.next + 1)) (j.recordOf p st)) s (s.pictureStored cl j p st) ∧
      (s.pictureStored cl j p st).cl cl = s.cl cl := by
  obtain ⟨hslot, -⟩ := storeRun_puts (c := j.core) (uid := j.uid) h hn (j.slotOf cl) (j.next / (getF j.op 31 28 + 1) * prF j.prof 0x34 4)
    (j.slotBytes p st)
  obtain ⟨htable, -⟩ := storeRun_puts (c := j.core) (uid := j.uid) hslot.clean (hslot.bound.trans hn) (j.tableOf cl)
    (16 * (getF j.op 27 12 + j.next + 1)) (j.recordOf p st)
  rw [hslot.cells] at htable
  exact ⟨hslot.trans htable, ((memTraffic_storeRun h ..).trans (memTraffic_storeRun hslot.clean ..)).cluster cl⟩

/-- A picture is written without an error, its values are counted in the gauges, and the next one is due. -/
theorem writePicture_clean {p : VPic} {st : Nat} (h : Clean s) (hn : s.boundSpans j.core j.uid = []) (hmore : j.next + 1 < j.pics.length) :
    ∃ ps, s.writePicture cl j p st = ({ s.pictureStored cl j p st with parts := ps } : State).setJob cl
      { j with next := j.next + 1, written := j.written + 1, admitted := false } := by
  obtain ⟨hslot, hbad⟩ := storeRun_puts (c := j.core) (uid := j.uid) h hn (j.slotOf cl) (j.next / (getF j.op 31 28 + 1) * prF j.prof 0x34 4)
    (j.slotBytes p st)
  obtain ⟨-, hbad'⟩ := storeRun_puts (c := j.core) (uid := j.uid) hslot.clean (hslot.bound.trans hn) (j.tableOf cl)
    (16 * (getF j.op 27 12 + j.next + 1)) (j.recordOf p st)
  obtain ⟨ps, hps⟩ := countGauge_frame (s := s.pictureStored cl j p st) j.part j.step (BitVec.ofNat 32 (prF j.prof 0x30 4))
    (if st = 2 then ((fill (prF j.prof 0x34 4) 0, []) : List Byte × List GClass) else pictureTensor j.prof p).2
  refine ⟨ps, ?_⟩
  have hout : (if st = 2 then ((fill (prF j.prof 0x34 4) 0, []) : List Byte × List GClass) else pictureTensor j.prof p).1 = j.slotBytes p st := by
    rw [IngJob.slotBytes]
    split <;> rfl
  rw [← hps]
  simp only [IngJob.slotOf, IngJob.tableOf, IngJob.recordOf] at hbad hbad'
  simp only [writePicture, hout, hbad, hbad', pictureStored, IngJob.slotOf, IngJob.tableOf, IngJob.recordOf, nextPicture, Option.isSome_none,
    Bool.false_eq_true, or_self, if_false, if_neg (Nat.not_le.mpr hmore)]

/-- What stands in a slot and in the record table once a picture has been written. -/
theorem pictureBytes_stand (m : Place → List Host.Cell) (p : VPic) (st : Nat) :
    let m' := putBytes (putBytes m (j.slotOf cl) (j.next / (getF j.op 31 28 + 1) * prF j.prof 0x34 4) (j.slotBytes p st))
      (j.tableOf cl) (16 * (getF j.op 27 12 + j.next + 1)) (j.recordOf p st)
    readBytes (m' (j.tableOf cl)) (16 * (getF j.op 27 12 + j.next + 1)) 16 = j.recordOf p st ∧
      (j.slotOf cl ≠ j.tableOf cl → readBytes (m' (j.slotOf cl)) (j.next / (getF j.op 31 28 + 1) * prF j.prof 0x34 4)
        (j.slotBytes p st).length = j.slotBytes p st) ∧
      ∀ q a, q ≠ j.slotOf cl → q ≠ j.tableOf cl → readByte (m' q) a = readByte (m q) a := by
  have hlen : (j.recordOf p st).length = 16 := by simp [IngJob.recordOf, fill]
  refine ⟨?_, fun hne => ?_, fun q a hslot htable => ?_⟩
  · rw [putBytes, if_pos rfl, ← hlen, readBytes_writeBytes_self]
  · rw [putBytes, if_neg hne, putBytes, if_pos rfl, readBytes_writeBytes_self]
  · rw [putBytes, if_neg htable, putBytes, if_neg hslot]

/-- INGEST_PICTURE. -/
theorem picture_spec {p : VPic} (h : Clean s) (hnb : NothingBound s j.core j.uid) (hq : (s.cl cl).ingQ = j :: rest)
    (hp : j.pics[j.next]? = some p) (hstart : j.started = true) (hadm : j.admitted = true) (hup : (s.cl cl).restarting = false)
    (hmore : j.next + 1 < j.pics.length) (hroom : j.next < prF j.prof 0x38 2) :
    s.settle (s.ingestPicture cl) = s.ingestPicture cl ∧
      ((s.ingestPicture cl).cl cl).ingQ = { j with next := j.next + 1, written := j.written + 1, admitted := false } :: rest ∧
      (s.ingestPicture cl).cells = putBytes (putBytes s.cells (j.slotOf cl) (j.next / (getF j.op 31 28 + 1) * prF j.prof 0x34 4)
        (j.slotBytes p (pictureStatus j p).1)) (j.tableOf cl) (16 * (getF j.op 27 12 + j.next + 1)) (j.recordOf p (pictureStatus j p).1) := by
  have hcount := leaves_pictureCounted (cl := cl) (c := j.core) (uid := j.uid) h (pictureStatus j p)
  obtain ⟨ps, hwrite⟩ := writePicture_clean (cl := cl) (p := p) (st := (pictureStatus j p).1) hcount.clean (hcount.bound.trans hnb.1) hmore
  obtain ⟨hstore, hcl⟩ := leaves_pictureStored (cl := cl) hcount.clean (hcount.bound.trans hnb.1) p (pictureStatus j p).1
  rw [hcount.cells] at hstore
  have hall := hcount.trans hstore
  have heq : s.ingestPicture cl = (s.pictureCounted cl (pictureStatus j p)).writePicture cl j p (pictureStatus j p).1 := by
    simp only [ingestPicture, hq, hp, hstart, hadm, hup, Bool.not_false, Bool.and_self, if_true, if_neg (Nat.not_le.mpr hroom), pictureCounted]
  rw [heq, hwrite]
  generalize (s.pictureCounted cl (pictureStatus j p)).pictureStored cl j p (pictureStatus j p).1 = u at hall hcl
  refine ⟨settle_eq hall.stalled hall.failing, ?_, hall.cells⟩
  rw [ingQ_setJob]
  have hdrop : (u.cl cl).ingQ.drop 1 = rest := by rw [hcl, cl_pictureCounted, hq]; rfl
  exact congrArg _ hdrop

end State

end Sys2Proof.Machine

open Sys2Proof Sys2Proof.Machine

/-- Settles O52: what fires, and what the engines make of their streams. -/
theorem ingestAndGates : Obligations.IngestAndGates := by
  refine ⟨⟨fun s c p x hp => ⟨fun hf => hostin_waits hp hf, fun y hf hy hroom => hostsig_sends hp hf hy hroom⟩,
    ?_⟩, ?_, ?_⟩
  · intro s c p x im hp him hr hf d hside
    exact ingest_joins hp him hr hf hside
  · intro s cl j rest herr hq hstart hup wide bytes es dv pics
    obtain ⟨hsettle, hsome, hnone⟩ := State.taken_spec (State.clean_of_noErrors herr) hq hstart hup
    exact ⟨_, congrArg Host.Outcome.next hsettle, hsome, hnone⟩
  · intro s cl j rest p herr hnb hq hp hstart hadm hup hmore hroom st table slot data
    obtain ⟨hsettle, hqueue, hcells⟩ := State.picture_spec (State.clean_of_noErrors herr) hnb hq hp hstart hadm hup hmore hroom
    refine ⟨_, congrArg Host.Outcome.next hsettle, hqueue, ?_⟩
    rw [hcells]
    obtain ⟨hrecord, hslot, hrest⟩ := State.pictureBytes_stand s.cells (cl := cl) (j := j) p st
    exact ⟨hrecord, hslot, hrest⟩
end

section
/-! PROOF. An ingest job whose partition number is none of a partition: the count of its waiting charge lies at a die counter's address. -/

namespace Sys2Proof.Machine

/-- A job of a partition number whose WEIR_ACCT would stand at DIE_CNT_0 (R579). -/
def strayJob : IngJob := ⟨0, 0, 0x5FE0, 0, 0, 0, [], true, false, [], 0, 0, 0, 0, 0, []⟩

/-- After reset, with that job at the engine of cluster 0 and a die counter set to the charges that wait (R541). -/
def strayCount : State :=
  ({ State.reset with clusters := [(0, { Cluster.idle with ingQ := [strayJob] })] } : State).setReg .dieSel [0] (BitVec.ofNat 64 (0x87 * 2 ^ 32 + 1))

theorem strayCount_waits : (strayCount.admitPart 0x5FE0 (State.pictureCharge strayJob)).isNone = true ∧
    (strayCount.cl 0).ingQ = [strayJob] ∧ strayCount.weir.waiting.has 128 = false ∧ strayCount.regF .weirAcct [0x5FE0] 15 0 = 0 ∧
    (strayCount.chargeAdmit (.ingest 0)).regF .weirAcct [0x5FE0] 15 0 = 2 := by decide +kernel

end Sys2Proof.Machine

open Sys2Proof Sys2Proof.Machine

/-- Refutes O57: the charge of an ingest job that waits need not raise the count of its partition by one. Nothing asks that the job's `part` be a
partition's number, and `strayJob` has one for which WEIR_ACCT stands at the address of DIE_CNT_0, which counts the same charge a second time. -/
theorem not_theWeirAdmits : ¬ Obligations.TheWeirAdmits := by
  rintro ⟨-, -, hengines⟩
  obtain ⟨hnone, hqueue, hfree, hzero, htwo⟩ := strayCount_waits
  obtain ⟨-, -, hingest⟩ := hengines strayCount 0
  obtain ⟨hwaits, -⟩ := hingest strayJob [] hqueue rfl rfl
  obtain ⟨t, ht, -, -, -, -, -, -, hcount⟩ := hwaits hnone
  obtain rfl : strayCount.chargeAdmit (.ingest 0) = t := Host.Outcome.next.inj ht
  have hone := hcount hfree
  rw [show strayJob.part = 0x5FE0 from rfl, hzero, htwo] at hone
  exact absurd hone (by decide)
end

section
/-! PROOF. Two entries of a window with one number: a mirror SAVE reads the extent of the first of them, whichever has fired. -/

namespace Sys2Proof.Machine

open Sys2Proof.Tests

/-- An image of two SAVE descriptors of slot 0, of 16 bytes at 0 and at 64. -/
def twinImg : PartImg := { jobImg with descs := [saveD, dsc [(0, 13), (1, 0), (2, 0), (3, 1), (8, 64), (0x10, 16), (0x18, 0)]] }

/-- The entry that fires. -/
def twinSave : Entry := ent 1 5 (saveOp 0)

/-- A fired entry of the second descriptor in front of it has the same number. The first byte of the first extent is 1, at frame 5 of the fast
tier. -/
def twinSt : State :=
  { saving 0 with
    parts := [(0, part twinImg)],
    cores := [(0, { Core.idle with part := some 0, window := [{ ent 1 5 (opw 0x78 [(44, 1)]) with phase := .fired }, twinSave], nextUid := 9 })],
    fast := { (saving 0).fast with data := writeBytes [] (5 * 2097152) [1] } }

/-- The bytes of the extent that the fired SAVE names. -/
def twinBytes : List Byte := Claims.bytesIn twinSt ((⟨true, none, 0⟩ : Side).pieces (twinSt.pagesOf 0) 0 [(0, 16)])

theorem twinSt_saves : NoErrors twinSt ∧ (twinSt.core 0).part = some 0 ∧ twinSt.oldestReady 0 5 (twinSt.strmAccepts 0) = some twinSave ∧
    twinSave.opcode = 0x78 ∧ getF twinSave.op 43 42 = 0 ∧ twinSt.saveDesc 0 twinSave = ⟨0, 0, 1, 0, 16, 0⟩ ∧
    twinSt.slotShard 0 0 = some (0, mapE 1 2 3) ∧ twinSt.sideFault 0 (twinSt.pagesOf 0) ⟨true, none, 0⟩ 0 [] [(0, 16)] = none ∧
    twinSt.saves = [] ∧ State.gateReached twinSt.commitM (twinSave.step - 1) = true ∧ twinSt.entryOf 0 0 = some (mapE 1 2 3) := by
  unfold NoErrors TierClean PhysUp
  decide +kernel

theorem twinBytes_eq : twinBytes = 1 :: fill 15 0 := by decide +kernel

/-- The home buffer gets the sixteen zeros of the other extent. -/
theorem twinSt_writes {t : State} (ht : exec (.saveMirror 0) twinSt = .next t) :
    readByte t.slow.data (twinSt.bufAddr 0 (twinSt.areaLen 0 0) 0) = 0 := by
  obtain rfl : twinSt.settle (twinSt.fireWhen 0 5 (twinSt.strmAccepts 0) (fun e => isSave e 0) fun t e => t.fireSaveMirror 0 e) = t :=
    Host.Outcome.next.inj ht
  decide +kernel

end Sys2Proof.Machine

open Sys2Proof Sys2Proof.Machine Sys2Proof.Tests

/-- Refutes O56: a mirror SAVE need not write the bytes of its own extent. The model looks its entry up by its number, and nothing asks that the
numbers of a window differ: in `twinSt` an entry of another descriptor stands in front of it with the same number, and its bytes are written. -/
theorem not_copiesOfShards : ¬ Obligations.CopiesOfShards := by
  rintro ⟨⟨hsaves, -⟩, -⟩
  obtain ⟨herr, hpart, hready, hop, hdest, hdesc, hslot, hside, hfree, hgate, hentry⟩ := twinSt_saves
  have hclaim := hsaves twinSt 0 0 twinSave herr hpart hready hop
  rw [show twinSt.saveDesc ((0 : CoreId) : Nat) twinSave = ⟨0, 0, 1, 0, 16, 0⟩ from hdesc] at hclaim
  obtain ⟨-, hmirror, -⟩ := hclaim
  obtain ⟨-, hgated⟩ := hmirror 0 (mapE 1 2 3) hdest hslot hside (by rw [hfree]; exact fun _ h => absurd h List.not_mem_nil)
  have hbytes : Claims.bytesIn twinSt ((⟨true, none, 0⟩ : Side).pieces (twinSt.pagesOf 0) 0 [(0, 16)]) = 1 :: fill 15 0 := twinBytes_eq
  obtain ⟨t, ht, hwritten, -⟩ := hgated (mapE 1 2 3) hgate hentry (by
    intro hnil
    exact absurd (hbytes.symm.trans hnil) (by decide))
  have hzero := twinSt_writes ht
  have hfirst : (readBytes t.slow.data (twinSt.bufAddr 0 (twinSt.areaLen 0 0) 0) 16).head? = some 0 := by
    rw [readBytes, List.range_succ_eq_map, List.map_cons, List.head?_cons]
    exact congrArg some hzero
  have hone : (readBytes t.slow.data (twinSt.bufAddr 0 (twinSt.areaLen 0 0) 0) 16).head? = some 1 := by
    exact congrArg List.head? (by simpa only [hbytes] using hwritten)
  exact absurd (hfirst.symm.trans hone) (by decide)
end

section
/-! PROOF. A reset that waits with the completion of the very command that commits a map: the commit's declaration drops the reset and completes the
command a first time, so that its own completion finds its tag gone (R405, R461, R465). -/

namespace Sys2Proof.Machine

open Sys2Proof.Tests

/-- An image with a tree of one shard. -/
def rootImg : PartImg := { img [dsc [(0, 13), (1, 0), (0x10, 4096)]] with trees := [⟨0, 0, 0, 0, [(none, 0)]⟩] }

/-- The session, the header of the command, and the tag that its completion is to have. -/
def strayHdr : CmdHdr := { hdr true 0x11 with tag := 5 }

/-- The state of `jobSt`, in which the map's commit makes this module the coordinator, a neighbour reports its halt, and a reset of partition 0 names the
command that is about to come. -/
def strayReset : State :=
  { jobSt 1 with
    parts := [(0, part rootImg)],
    job := { (jobSt 1).job with peers := [(2, { State.noPeer with state := 2, jobgen := 1 }), (3, State.noPeer)] },
    resets := [⟨0, none, some ((session true 0x11).id, strayHdr.seq), false⟩] }

/-- The mailbox, the status and the tag that a control frame shows (R403). -/
def shownTag : Output → List Byte
  | .udp _ _ _ bs => (bs.drop 16).take 8
  | _ => []

theorem shownTag_ctlOut (s : State) (y : Session) (f : CtlFrame) :
    shownTag (s.ctlOut y f) = [f.mailbox, 0] ++ beBytes 2 f.code.toNat ++ beBytes 4 f.tag.toNat := by
  simp [shownTag, State.ctlOut, beBytes, leBytes]

/-- Where a command is answered, some frame that leaves or waits shows its mailbox, status and tag. -/
theorem shows_of_answered {s t : State} {x : Session} {h : CmdHdr} {box status : Nat} {body : List Byte}
    (ha : Claims.Answered s t x h box status body) : ∃ o ∈ t.out ++ t.waitOut,
      shownTag o = [BitVec.ofNat 8 box, 0] ++ beBytes 2 (BitVec.ofNat 16 status).toNat ++ beBytes 4 h.tag.toNat := by
  obtain ⟨sent, held, f, hout, hwait, ho, -, hbox, hcode, htag, -, -⟩ := ha
  refine ⟨t.ctlOut { x with port := h.port, expect := h.seq + 1 } f, ?_, by rw [shownTag_ctlOut, hbox, hcode, htag]⟩
  rw [hout, hwait]
  dsimp only at ho
  split at ho
  · exact List.mem_append_right _ (List.mem_append_right _ ho)
  · exact List.mem_append_left _ (List.mem_append_left _ ho)

theorem strayReset_mayRun : Claims.MayRun strayReset strayHdr (session true 0x11) 2 := by
  refine ⟨?_, ?_, ?_, ?_, ?_, ?_, fun q h => absurd h (List.not_mem_nil), ?_, ?_, ?_⟩ <;> decide +kernel

theorem strayReset_commits : strayReset.commitReason 0 1 = 0 := by decide +kernel

/-- No frame that leaves or waits completes mailbox 2's command with its tag. -/
theorem strayReset_answers {t : State} (ht : exec (.jobCommit strayHdr 0 1) strayReset = .next t) :
    ∀ o ∈ t.out ++ t.waitOut, shownTag o ≠ [2, 0, 0, 0, 0, 0, 0, 5] := by
  obtain rfl : strayReset.settle (strayReset.command strayHdr (.jobCommit 0 1)) = t := Host.Outcome.next.inj ht
  decide +kernel

end Sys2Proof.Machine

open Sys2Proof Sys2Proof.Machine Sys2Proof.Tests

/-- Refutes O51: an accepted JOB_COMMIT need not be answered with its tag. Nothing asks that no reset names the command's session and SEQ; in
`strayReset` one does, the declaration that follows the commit drops that reset with a completion of its own, and the command's has no tag left. -/
theorem not_theJobMailbox : ¬ Obligations.TheJobMailbox := by
  intro h
  obtain ⟨-, -, hcommit, -⟩ := h strayReset strayHdr (session true 0x11) strayReset_mayRun
  obtain ⟨htaken, -⟩ := hcommit 0 1 (by decide)
  obtain ⟨t, ht, hanswer, -⟩ := htaken strayReset_commits
  obtain ⟨o, ho, hshown⟩ := shows_of_answered hanswer
  exact strayReset_answers ht o ho hshown
end

section
/-! PROOF. An exchange that waits under another partition in the name of a core of the one that halts: its fault stops that core at once. -/

namespace Sys2Proof.Machine

open Sys2Proof.Tests

/-- Core 0 of partition 0 has an instruction, and partition 1 lists an exchange with partition 0 that names it. -/
def crossedWait : State :=
  let s := open' (st (img []) [ent 1 5 (xop 0x76)])
  { s with parts := s.parts ++ [(1, { part (img []) with xwaits := [⟨true, 0, 1, 0, 0, 0, []⟩] })] }

theorem crossedWait_mayRun : Claims.MayRun crossedWait (hdr true 0x11) (session true 0x11) 0x10 := by
  refine ⟨?_, ?_, ?_, ?_, ?_, ?_, fun q h => absurd h (List.not_mem_nil), ?_, ?_, ?_⟩ <;> decide +kernel

theorem crossedWait_runs : crossedWait.committing 0 = false ∧ crossedWait.isRunning 0 = true ∧ (crossedWait.core 0).part = some 0 ∧
    (crossedWait.core 0).halted = false := by decide +kernel

/-- The halt is complete at once. -/
theorem crossedWait_halts {t : State} (ht : exec (.partHalt (hdr true 0x11) 0) crossedWait = .next t) : (t.part 0).halting = false := by
  obtain rfl : crossedWait.settle (crossedWait.command (hdr true 0x11) (.partHalt 0)) = t := Host.Outcome.next.inj ht
  decide +kernel

end Sys2Proof.Machine

open Sys2Proof Sys2Proof.Machine Sys2Proof.Tests

/-- Refutes O47: a PART_HALT of a running partition need not leave it halting. Nothing asks that an exchange that waits belong to a core of its own
partition: in `crossedWait` one of partition 1 names the only core of partition 0, whose halt faults it, and with that the core stops and the halt is
complete. -/
theorem not_regionsGatesAndPartitions : ¬ Obligations.RegionsGatesAndPartitions := by
  rintro ⟨-, hcommands, -⟩
  obtain ⟨hrest, hruns, hpart, hgoing⟩ := crossedWait_runs
  obtain ⟨hhalt, -⟩ := hcommands crossedWait (hdr true 0x11) (session true 0x11) 0 crossedWait_mayRun
  obtain ⟨t, ht, -, hhalting, -⟩ := hhalt hrest hruns ⟨0, by decide, hpart, hgoing⟩
  exact absurd ((crossedWait_halts ht).symm.trans hhalting) (by decide)
end

section
/-! PROOF. A partition whose halt completes while a queue pair is closed, and which owes the completion of its own halt to the very command that closes it:
that completion takes the command's tag (R405, R442). -/

namespace Sys2Proof.Machine

open Sys2Proof.Tests

/-- An export of partition 0 over queue pair 5, by its only instruction. -/
def dueExport : Ferry :=
  { part := 0, core := 0, uid := 1, step := 0, seq := 0, buildId := 0, qpn := 5, listVa := 0, bufVa := 0, bufBlocks := 0, tRaddr := 0, tRkey := 0,
    regions := [], bound := [], rate := 0, start := 0, served := 0, damaged := 0, old := [], sent := [] }

/-- A write of that instruction, held behind the export's own reading, of part of a word of vat 0. -/
def heldByte : Held := ⟨.vat 0, 8, [1], (0, 1), (0, 1), none, [], noIndex, 0⟩

/-- The header of the command, and the tag that its completion is to have. -/
def closeHdr : CmdHdr := { hdr true 0x11 with tag := 5 }

/-- Queue pair 5 carries the export, the word that the held write is to merge cannot be read, and partition 0 answers its halt to the command that is
about to come. -/
def closedExport : State :=
  let s := open' (st (img []) [ent 1 5 (xop 0x76)])
  { s with
    parts := [(0, { part (img []) with haltFor := [((session true 0x11).id, closeHdr.seq)] })],
    qps := [⟨5, 0, (session true 0x11).id, false, 1024, 0, 0, 0, false⟩], ferries := [dueExport], held := [heldByte],
    vats := [(0, { Bank.zero with errs := [(0, .double)] })] }

theorem closedExport_mayRun : Claims.MayRun closedExport closeHdr (session true 0x11) 0 := by
  refine ⟨?_, ?_, ?_, ?_, ?_, ?_, fun q h => absurd h (List.not_mem_nil), ?_, ?_, ?_⟩ <;> decide +kernel

theorem closedExport_hasQp : ∃ q ∈ closedExport.qps, (q.qpn == (5 : BitVec 24).toNat && q.session == (session true 0x11).id) = true := by
  decide +kernel

/-- No frame that leaves or waits completes mailbox 0's command with its tag. -/
theorem closedExport_answers {t : State} (ht : exec (.qpClose closeHdr 5) closedExport = .next t) :
    ∀ o ∈ t.out ++ t.waitOut, shownTag o ≠ [0, 0, 0, 0, 0, 0, 0, 5] := by
  obtain rfl : closedExport.settle (closedExport.command closeHdr (.qpClose 5)) = t := Host.Outcome.next.inj ht
  decide +kernel

end Sys2Proof.Machine

open Sys2Proof Sys2Proof.Machine Sys2Proof.Tests

/-- Refutes O49: an accepted QP_CLOSE need not be answered with its tag. Nothing asks that no halt be owed to the command's session and SEQ; in
`closedExport` one is, the export's abort faults its instruction on a word that cannot be merged, and the halt's completion takes the tag first. -/
theorem not_queuePairsAndPackets : ¬ Obligations.QueuePairsAndPackets := by
  rintro ⟨hpairs, -⟩
  obtain ⟨-, hclose⟩ := hpairs closedExport closeHdr (session true 0x11) closedExport_mayRun
  obtain ⟨t, ht, -, hanswer⟩ := (hclose 5).1 closedExport_hasQp
  obtain ⟨o, ho, hshown⟩ := shows_of_answered hanswer
  exact closedExport_answers ht o ho hshown
end

section
/-! SUPPORT. What faults, aborts, retirements and restarts spare: they end no session by themselves, take no queue pair and no region away, start no
partition, and leave the registers of the job, of the life cycle, of the keeper's watch and of self-test as they were. -/

namespace Sys2Proof.Machine

set_option Elab.async false

/-- The addresses that none of those operations writes whole: all but KEEP_STATUS, KEEP_PART_STATE, KEEP_WATCH, LNK_MODULE, JOB_STATUS, BIST_STATUS,
RETIRE_CLUSTER, LIFE_STATUS and, where `ctl` asks for it, CTL_STATUS. -/
def OpenAddr (ctl : Bool) (a : Nat) : Prop :=
  a ∉ [0x8, 0x200, 0x300, 0x40000, 0x40010, 0x80008, 0xA0000] ∧ ¬ (0x80100 ≤ a ∧ a < 0x80140) ∧ (ctl = true → a ≠ 0xA801000)

/-- What is spared. `ctl` asks for what an export's abort spares as well and a restart does not; `still` asks that no bank has been met that is held. -/
structure Spared (ctl still : Bool) (s t : State) : Prop where
  ids : t.sessions.map (·.id) = s.sessions.map (·.id)
  qps : t.qps = s.qps
  regions : t.regions = s.regions
  load : s.load = none → t.load = none
  life : t.life = s.life
  bist : t.bist = s.bist
  job : t.job = s.job
  ports : t.ports = s.ports
  paused : t.paused = s.paused
  calm : ∀ a ∈ [0x300, 0x40000, 0x40010, 0x80008, 0xA0000], ∀ d, t.mrs.get d a = s.mrs.get d a
  ready : t.ready = s.ready
  running : ∀ p, t.isRunning p = true → s.isRunning p = true
  retired : ∀ b < 144, s.blockRetired b = true → t.blockRetired b = true
  stalled : still = true → t.stalled = s.stalled
  quiet : ctl = true → t.reg .ctlStatus [] = s.reg .ctlStatus [] ∧ t.xings = s.xings ∧ t.off = s.off

/-- KEEP_PART_STATE holds the states of 16 partitions and no more. -/
theorem State.pstate_beyond {s : State} {p : Nat} (h : 16 ≤ p) : s.pstate p = 0 := by
  have hlt : (s.reg .keepPartState []).toNat < 2 ^ (4 * p) :=
    (s.reg .keepPartState []).isLt.trans_le (Nat.pow_le_pow_right (by omega) (by omega))
  simp [State.pstate, State.regF, getF, fld, Nat.shiftRight_eq_div_pow, Nat.div_eq_of_lt hlt]

namespace Spared

variable {q b : Bool} {r s t u : State}

theorem refl (q b : Bool) (s : State) : Spared q b s s :=
  ⟨rfl, rfl, rfl, id, rfl, rfl, rfl, rfl, rfl, fun _ _ _ => rfl, rfl, fun _ => id, fun _ _ => id, fun _ => rfl, fun _ => ⟨rfl, rfl, rfl⟩⟩

theorem trans (h : Spared q b r s) (k : Spared q b s t) : Spared q b r t where
  ids := k.ids.trans h.ids
  qps := k.qps.trans h.qps
  regions := k.regions.trans h.regions
  load := k.load ∘ h.load
  life := k.life.trans h.life
  bist := k.bist.trans h.bist
  job := k.job.trans h.job
  ports := k.ports.trans h.ports
  paused := k.paused.trans h.paused
  calm a ha d := (k.calm a ha d).trans (h.calm a ha d)
  ready := k.ready.trans h.ready
  running p := h.running p ∘ k.running p
  retired c hc := k.retired c hc ∘ h.retired c hc
  stalled hb := (k.stalled hb).trans (h.stalled hb)
  quiet hq := by
    obtain ⟨hctl, hx, ho⟩ := h.quiet hq
    obtain ⟨kctl, kx, ko⟩ := k.quiet hq
    exact ⟨kctl.trans hctl, kx.trans hx, ko.trans ho⟩

/-- The mark of a held bank set anew: it may be asked for where it stands as before. -/
theorem restall {v : Bool} (h : Spared q false r s) (hv : b = true → v = r.stalled) : Spared q b r { s with stalled := v } :=
  ⟨h.ids, h.qps, h.regions, h.load, h.life, h.bist, h.job, h.ports, h.paused, h.calm, h.ready, h.running, h.retired, hv, h.quiet⟩

theorem weaken (h : Spared q b r s) : Spared false b r s where
  __ := h
  quiet hq := nomatch hq

theorem slacken (h : Spared q b r s) : Spared q false r s where
  __ := h
  stalled hb := nomatch hb

/-! ### Steps of an operation -/

/-- What moves nothing that is spared. -/
theorem same {pending fresh out eth waitOut pfcSent dieSeen tick opTicks fast slow vats pools held failing cores clusters parts hdr place resets waiting
    paceSeq paceDue nextId gatePosts ferries saves cart weir meter retireA retireB bootStep feedA feedB keeper hbm derated sluices netFlash}
    (h : Spared q b r s) :
    Spared q b r { s with
      pending, fresh, out, eth, waitOut, pfcSent, dieSeen, tick, opTicks, fast, slow, vats, pools, held, failing, cores, clusters, parts, hdr, place,
      resets, waiting, paceSeq, paceDue, nextId, gatePosts, ferries, saves, cart, weir, meter, retireA, retireB, bootStep, feedA, feedB, keeper, hbm,
      derated, sluices, netFlash } :=
  ⟨h.ids, h.qps, h.regions, h.load, h.life, h.bist, h.job, h.ports, h.paused, h.calm, h.ready, h.running, h.retired, h.stalled, h.quiet⟩

theorem ite {p : Prop} [Decidable p] (h : Spared q b r s) (k : Spared q b r t) : Spared q b r (if p then s else t) := by
  split
  · exact h
  · exact k

theorem foldl_mem {α : Type} {f : State → α → State} {l : List α} (h : Spared q b r s)
    (hf : ∀ {u a}, a ∈ l → Spared q b r u → Spared q b r (f u a)) : Spared q b r (l.foldl f s) := by
  induction l generalizing s with
  | nil => exact h
  | cons a l ih => exact ih (hf List.mem_cons_self h) fun ha => hf (List.mem_cons_of_mem _ ha)

theorem foldl {α : Type} {f : State → α → State} {l : List α} (h : Spared q b r s) (hf : ∀ {u a}, Spared q b r u → Spared q b r (f u a)) :
    Spared q b r (l.foldl f s) :=
  h.foldl_mem fun _ => hf

/-- A fold whose state is the first part of what it carries. -/
theorem foldlFst {α β : Type} {f : State × β → α → State × β} {l : List α} {x : State × β} (h : Spared q b r x.1)
    (hf : ∀ {x a}, Spared q b r x.1 → Spared q b r (f x a).1) : Spared q b r (l.foldl f x).1 := by
  induction l generalizing x with
  | nil => exact h
  | cons a l ih => exact ih (hf h)

/-! ### Registers -/

theorem openAddr_high {a : Nat} (h : 0x1000000 ≤ a) (hq : q = true → a ≠ 0xA801000) : OpenAddr q a :=
  ⟨by simp; omega, by omega, hq⟩

/-- A register write, with what it must leave of the five registers that have a reader here. -/
theorem of_setReg {id ix v} (h : Spared q b r s) (hcalm : id.row.addr ix ∉ [0x300, 0x40000, 0x40010, 0x80008, 0xA0000])
    (hctl : q = true → id.row.addr ix ≠ 0xA801000) (hready : (s.setReg id ix v).ready = s.ready)
    (hrunning : ∀ p, (s.setReg id ix v).isRunning p = true → s.isRunning p = true)
    (hretired : ∀ c < 144, s.blockRetired c = true → (s.setReg id ix v).blockRetired c = true) : Spared q b r (s.setReg id ix v) := by
  refine h.trans ⟨rfl, rfl, rfl, fun h => h, rfl, rfl, rfl, rfl, rfl,
    fun a ha d => State.mrs_setReg_ne s _ _ _ _ ?_, hready, hrunning, hretired,
    fun _ => rfl, fun hq => ⟨State.reg_setReg_ne s _ _ _ _ _ (Ne.symm (hctl hq)), rfl, rfl⟩⟩
  rintro rfl
  exact hcalm ha

theorem ready_setReg {id ix v} (h : id.row.addr ix ≠ 0x8) : (s.setReg id ix v).ready = s.ready := by
  rw [State.ready, State.ready, State.regF, State.reg_setReg_ne s _ .keepStatus _ [] _ h.symm, ← State.regF]

theorem isRunning_setReg {id ix v} (h : id.row.addr ix ≠ 0x200) (p : Nat) : (s.setReg id ix v).isRunning p = s.isRunning p := by
  have hreg : (s.setReg id ix v).reg .keepPartState [] = s.reg .keepPartState [] := State.reg_setReg_ne s _ _ _ _ _ h.symm
  simp only [State.isRunning, State.pstate, State.regF, hreg]

theorem blockRetired_setReg {id ix v} (h : ¬ (0x80100 ≤ id.row.addr ix ∧ id.row.addr ix < 0x80140)) {c : Nat} (hc : c < 144) :
    (s.setReg id ix v).blockRetired c = s.blockRetired c := by
  have hreg : ∀ cl < 8, (s.setReg id ix v).reg .retireCluster [cl] = s.reg .retireCluster [cl] := fun cl hcl =>
    State.reg_setReg_ne s _ _ _ _ _ fun he => h (by
      rw [← he]
      simp [RegRow.addr, RegId.row, sumN]
      omega)
  simp only [State.blockRetired, State.coreRetired, State.commonRetired, State.ingestRetired, State.regF]
  split
  · rw [hreg _ (by omega)]
  · split
    · rw [hreg _ (by omega)]
    · rw [hreg _ (by omega)]

theorem setReg {id ix v} (h : Spared q b r s) (ha : OpenAddr q (id.row.addr ix)) : Spared q b r (s.setReg id ix v) := by
  obtain ⟨hlow, hretire, hctl⟩ := ha
  simp only [List.mem_cons, List.not_mem_nil, or_false, not_or] at hlow
  obtain ⟨hstatus, hstates, hwatch, hmodule, hjob, hbist, hlife⟩ := hlow
  exact h.of_setReg (by simp [hwatch, hmodule, hjob, hbist, hlife]) hctl (ready_setReg hstatus) (fun p hp => by rwa [isRunning_setReg hstates] at hp)
    fun c hc hr => by rwa [blockRetired_setReg hretire hc]

theorem setRegF {id ix hi lo v} (h : Spared q b r s) (ha : OpenAddr q (id.row.addr ix)) : Spared q b r (s.setRegF id ix hi lo v) := h.setReg ha

theorem bumpBy {id ix hi lo n} (h : Spared q b r s) (ha : OpenAddr q (id.row.addr ix)) : Spared q b r (s.bumpBy id ix hi lo n) := h.setRegF ha

theorem bump {id ix hi lo} (h : Spared q b r s) (ha : OpenAddr q (id.row.addr ix)) : Spared q b r (s.bump id ix hi lo) := h.bumpBy ha

theorem flag {id ix i} (h : Spared q b r s) (ha : OpenAddr q (id.row.addr ix)) : Spared q b r (s.flag id ix i) := h.setRegF ha

/-! ### The registers that are written in part -/

/-- KEEP_STATUS but for READY. -/
theorem keepStatus {hi lo v} (h : Spared q b r s) (hlo : 0 < lo) (hle : lo ≤ hi) (hhi : hi < 64) :
    Spared q b r (s.setRegF .keepStatus [] hi lo v) := by
  refine h.of_setReg (by decide) (fun _ => by decide) ?_ (fun p hp => ?_) fun c hc hr => ?_
  · rw [State.ready, State.ready, ← State.setRegF, State.regF_setRegF_apart s _ _ _ _ _ _ _ hle hhi (.inl hlo)]
  · rwa [isRunning_setReg (by decide)] at hp
  · rwa [blockRetired_setReg (by decide) hc]

/-- A partition's state that is no running one. -/
theorem setPstate {p v} (h : Spared q b r s) (hp : p < 16) (hv : v % 16 ≠ 1 ∧ v % 16 ≠ 2) : Spared q b r (s.setPstate p v) := by
  refine h.of_setReg (by decide) (fun _ => by decide) (ready_setReg (by decide)) (fun k hk => ?_) fun c hc hr => ?_
  · rw [← State.setRegF, ← State.setPstate] at hk
    by_cases hkp : k = p
    · simp [hkp, State.isRunning, State.pstate_setPstate_self hp, hv] at hk
    · rwa [State.isRunning, State.pstate_setPstate_ne hp hkp] at hk
  · rwa [blockRetired_setReg (by decide) hc]

/-! ### Retired blocks -/

/-- Where a block's bit stands in RETIRE_CLUSTER (R537). -/
def retireBit (c : Nat) : Nat × Nat := if c < 128 then (c / 16, c % 16) else if c < 136 then (c - 128, 16) else (c - 136, 17)

theorem retireBit_lt (c : Nat) : (retireBit c).2 < 64 := by
  rw [retireBit]
  split
  · exact (Nat.mod_lt c (by decide)).trans (by decide)
  · split <;> simp

theorem blockRetired_iff (s : State) (c : Nat) :
    s.blockRetired c = true ↔ s.regF .retireCluster [(retireBit c).1] (retireBit c).2 (retireBit c).2 = 1 := by
  rw [State.blockRetired, retireBit]
  split
  · have hm : c % 16 < 16 := Nat.mod_lt c (by decide)
    have hbit : ∀ w : Nat, (w % 65536).testBit (c % 16) = w.testBit (c % 16) := fun w => by
      rw [show 65536 = 2 ^ 16 from rfl, Nat.testBit_mod_two_pow, decide_eq_true hm, Bool.true_and]
    simp [State.coreRetired, State.regF, getF, fld, hbit, Nat.shiftRight_eq_div_pow, Nat.testBit_eq_decide_div_mod_eq]
  · split <;> simp [State.commonRetired, State.ingestRetired]

/-- A bit set in RETIRE_CLUSTER. -/
theorem setRetired {cl i} (h : Spared q b r s) (hcl : cl < 8) : Spared q b r (s.setRegF .retireCluster [cl] i i 1) := by
  have haddr : RegId.retireCluster.row.addr [cl] = 0x80100 + 8 * cl := by simp [RegRow.addr, RegId.row, sumN]
  refine h.of_setReg (by simp [haddr]; omega) (fun _ => by omega) (ready_setReg (by omega)) (fun p hp => ?_) fun c _ hr => ?_
  · rwa [isRunning_setReg (by omega)] at hp
  · rw [blockRetired_iff] at hr ⊢
    obtain ⟨e, he⟩ : ∃ e : Retire, e.bit = some (cl, i) := ⟨⟨0, 0, cl, i, 0, 0, 0⟩, by simp [Retire.bit, Nat.mod_eq_of_lt hcl]⟩
    have hset := State.retired_entryApplied e (retireBit_lt c) hr
    simp only [State.entryApplied, he] at hset
    exact hset

/-! ### Reports and halts -/

theorem map_pushFrame_id (s : State) (l : List Session) (kind mailbox code : Nat) (tag : Word) (body : List Byte) (cmd : Word) :
    ((l.map fun x => s.pushFrame x kind mailbox code tag body cmd).map (·.1)).map (·.id) = l.map (·.id) := by
  rw [List.map_map, List.map_map]
  refine List.map_congr_left fun x _ => ?_
  simp only [Function.comp_apply, State.pushFrame]
  split <;> rfl

/-- Sessions that keep their ids. -/
theorem sessions {l : List Session} (h : Spared q b r s) (hl : l.map (·.id) = s.sessions.map (·.id)) : Spared q b r { s with sessions := l } :=
  ⟨hl.trans h.ids, h.qps, h.regions, h.load, h.life, h.bist, h.job, h.ports, h.paused, h.calm, h.ready, h.running, h.retired, h.stalled, h.quiet⟩

theorem event {mailbox code body} (h : Spared q b r s) : Spared q b r (s.event mailbox code body) :=
  (h.sessions (map_pushFrame_id s _ _ _ _ _ _ _)).same

theorem record {severity code part unit step addr detail} (h : Spared q b r s) :
    Spared q b r (s.record severity code part unit step addr detail) := by
  have k : ∀ {log seq : Nat} {kp : Keeper}, Spared q b r ((({ s with keeper := kp } : State).setRegF .keepStatus [] 63 32 seq).setRegF .keepStatus [] 15 8 log) :=
    (h.same.keepStatus (by decide) (by decide) (by decide)).keepStatus (by decide) (by decide) (by decide)
  exact ite k k.event

theorem reply {sid seq mailbox status body} (h : Spared q b r s) : Spared q b r (s.reply sid seq mailbox status body) := by
  rw [State.reply]
  dsimp only
  split
  · exact h
  · next x hx =>
    refine Spared.same (h.sessions ?_)
    rw [List.map_map]
    refine List.map_congr_left fun y _ => ?_
    have hid : x.id = sid := by simpa using List.find?_some hx
    by_cases hy : y.id = sid
    · simp [hy, State.pushFrame, hid]
    · simp [hy]

theorem reportFallback {p step} (h : Spared q b r s) : Spared q b r (s.reportFallback p step) := ite h (record h.same)

theorem tellHalt {p} (h : Spared q b r s) : Spared q b r (s.tellHalt p) := by
  rw [State.tellHalt]
  split
  · exact ite (record (event h.same)) h
  · exact h

theorem haltDone {p} (h : Spared q b r s) : Spared q b r (s.haltDone p) :=
  ite ((foldl (tellHalt h.same) fun h => h.reportFallback).foldl fun h => h.reply) h

theorem haltOne {p} {x : FaultRec} (h : Spared q b r s) : Spared q b r (s.haltOne p x) := by
  rw [State.haltOne]
  split
  case isTrue hrun => exact haltDone (setPstate h.same (State.lt_of_isRunning hrun) (by decide))
  case isFalse => exact h

theorem faultOne {c e cause index addr} (h : Spared q b r s) : Spared q b r (s.faultOne c e cause index addr) := by
  unfold State.faultOne
  dsimp only
  split
  · exact h.same
  · exact ite (haltOne h.same) (haltDone h.same)

theorem peerFaults {fuel ps} (h : Spared q b r s) : Spared q b r (State.peerFaults fuel s ps) := by
  induction fuel generalizing s ps with
  | zero => exact h
  | succ fuel ih =>
    cases ps with
    | nil => exact h
    | cons p rest =>
      refine ih (foldl h fun h => ?_)
      dsimp only
      split
      · exact faultOne h.same
      · exact h.same

theorem fault {c e cause index addr} (h : Spared q b r s) : Spared q b r (s.fault c e cause index addr) := by
  unfold State.fault
  dsimp only
  split
  · exact ite h.faultOne.peerFaults h.faultOne
  · exact h.faultOne

theorem haltParts {ps index} (h : Spared q b r s) : Spared q b r (s.haltParts ps index) := (h.foldl fun h => h.haltOne).peerFaults

theorem haltPart {p index} (h : Spared q b r s) : Spared q b r (s.haltPart p index) := ite h.haltOne.peerFaults h

theorem haltNow {p} (h : Spared q b r s) : Spared q b r (s.haltNow p) := ite (haltDone (h.foldl fun h => h.same)) h

theorem stopParts {ps index} (h : Spared q b r s) : Spared q b r (s.stopParts ps index) := h.haltParts.foldl fun h => h.haltNow

theorem dropResets {which status} (h : Spared q b r s) : Spared q b r (s.dropResets which status) := by
  refine foldl h.same fun {u x} h => ?_
  have k : Spared q b r (if u.pstate x.part = 4 then u.setPstate x.part 3 else u) := by
    split
    case isTrue hp =>
      refine h.setPstate ?_ (by decide)
      by_contra hlt
      rw [State.pstate_beyond (by omega)] at hp
      exact absurd hp (by decide)
    case isFalse => exact h
  dsimp only
  split
  · exact k.reply
  · exact k

/-! ### Memories and counters -/

theorem openAddr_false {id : RegId} {ix : List Nat} (hb : 0x1000000 ≤ id.row.base) : OpenAddr false (id.row.addr ix) :=
  openAddr_high (hb.trans (State.base_le_addr _ _)) (fun h => nomatch h)

/-- A register whose addresses lie on a grid that CTL_STATUS is not on. -/
theorem openAddr_grid {a : Nat} (h : 0x1000000 ≤ a) (hm : a % 0x80000 ≠ 0x1000) : OpenAddr q a := openAddr_high h (by rintro - rfl; exact hm rfl)

theorem errRegs_open (slow : Bool) (a : Nat) : OpenAddr q ((State.errRegs slow a).1.row.addr (State.errRegs slow a).2.2) ∧
    OpenAddr q ((State.errRegs slow a).2.1.row.addr (State.errRegs slow a).2.2) := by
  cases slow <;> exact ⟨openAddr_high (by simp [State.errRegs, RegRow.addr, RegId.row, sumN]; omega)
      (fun _ => by simp [State.errRegs, RegRow.addr, RegId.row, sumN]; omega),
    openAddr_high (by simp [State.errRegs, RegRow.addr, RegId.row, sumN]; omega) (fun _ => by simp [State.errRegs, RegRow.addr, RegId.row, sumN]; omega)⟩

theorem sluPpr_open (k : Nat) : OpenAddr q (RegId.sluPpr.row.addr [k]) :=
  openAddr_grid (State.base_le_addr RegId.sluPpr.row [k] |>.trans' (by decide)) (by simp [RegRow.addr, RegId.row, sumN])

theorem vatEcc_open (cl : Nat) : OpenAddr q (RegId.vatEcc.row.addr [cl]) :=
  openAddr_grid (State.base_le_addr RegId.vatEcc.row [cl] |>.trans' (by decide)) (by simp [RegRow.addr, RegId.row, sumN]; omega)

theorem writeRetire {pointer entries} (h : Spared q b r s) : Spared q b r (s.writeRetire pointer entries) := ite h.same h.same

theorem addRetire {x} (h : Spared q b r s) : Spared q b r (s.addRetire x) := by
  unfold State.addRetire
  dsimp only
  split
  · exact h.record
  · split
    · next cl i hbit =>
      refine (h.writeRetire.setRetired ?_).record
      unfold Retire.bit at hbit
      split at hbit <;> cases hbit <;> exact Nat.mod_lt _ (by decide)
    · exact h.writeRetire.setRegF (sluPpr_open _)

theorem rowError {a atOnce} (h : Spared q b r s) : Spared q b r (s.rowError a atOnce) :=
  ite (ite (setRegF h.same (sluPpr_open _)) (ite h.same (addRetire h.same))) h.same

theorem noteErr {slow a cls kind} (h : Spared q b r s) : Spared q b r (s.noteErr slow a cls kind) :=
  ite h (h.setReg (errRegs_open slow a).2)

theorem setTier {slow t'} (h : Spared q b r s) : Spared q b r (s.setTier slow t') := ite h.same h.same

theorem markRead {slow g k} (h : Spared q b r s) : Spared q b r (s.markRead slow g k) := by
  have hb := errRegs_open (q := q) slow (64 * g)
  cases k with
  | oneC => exact ite (h.bump hb.1).setTier (h.bump hb.1).setTier.rowError
  | failD => exact ite (h.bump hb.1).noteErr (h.bump hb.1).noteErr.rowError
  | uncorrC => exact ite (h.bump hb.1).noteErr (h.bump hb.1).noteErr.rowError

theorem countOne {cnt ovf cx j add} (h : Spared q b r s) (hc : OpenAddr q (cnt.row.addr (cx ++ [j]))) (ho : OpenAddr q (ovf.row.addr cx)) :
    Spared q b r (s.countOne cnt ovf cx j add) := ite (h.setRegF hc) ((h.setRegF hc).flag ho)

theorem dieCount {j ev n} (h : Spared q b r s) (hj : j < 8) : Spared q b r (s.dieCount j ev n) := by
  have hc : OpenAddr q (RegId.dieCnt.row.addr [j]) := by
    simp [OpenAddr, RegRow.addr, RegId.row, sumN]
    omega
  have ho : OpenAddr q (RegId.dieOvf.row.addr []) := by simp [OpenAddr, RegRow.addr, RegId.row, sumN]
  exact ite (h.countOne hc ho) (ite h (countOne h.same hc ho))

theorem pmcDie {ev unit n} (h : Spared q b r s) : Spared q b r (s.pmcDie ev unit n) :=
  h.foldl_mem fun hj h => ite h (h.dieCount (List.mem_range.mp hj))

theorem pmc {c ev n} (h : Spared q b r s) : Spared q b r (s.pmc c ev n) :=
  h.foldl_mem fun hj h => ite h (h.countOne
    (openAddr_high (by simp [cix, RegRow.addr, RegId.row, sumN]; omega) fun _ => by
      have := List.mem_range.mp hj
      simp [cix, RegRow.addr, RegId.row, sumN]
      omega)
    (openAddr_high (by simp [cix, RegRow.addr, RegId.row, sumN]; omega) fun _ => by simp [cix, RegRow.addr, RegId.row, sumN]; omega))

theorem granules {slow a n} (h : Spared q b r s) : Spared q b r (s.granules slow a n) :=
  ite h (ite h (h.foldl fun h => ite h.pmcDie h.pmcDie))

theorem touch {slow a n} (h : Spared q false r s) : Spared q false r (s.touch slow a n) :=
  ite (h.restall fun h => nomatch h) h

theorem tierRead {slow a n} (h : Spared q false r s) : Spared q false r (s.tierRead slow a n).st := by
  unfold State.tierRead
  dsimp only
  split
  · exact h.touch.granules.foldl fun h => h.markRead
  · exact h.touch.granules.foldl fun h => h.markRead

theorem memErr {slow a kind} (h : Spared q b r s) : Spared q b r (s.memErr slow a kind) := h.record

theorem servicePieces {kind l} (h : Spared q false r s) : Spared q false r (s.servicePieces kind l).1 :=
  foldlFst h fun h => by
    split
    · exact h.tierRead.foldl fun h => h.memErr
    · exact h

theorem ferryRead {pages va n} (h : Spared q false r s) : Spared q false r (s.ferryRead pages va n).1 := by
  unfold State.ferryRead
  exact h.servicePieces

theorem regionBytes {pages f x} (h : Spared q false r s) : Spared q false r (s.regionBytes pages f x).1 := by
  unfold State.regionBytes
  refine foldlFst h fun h => ?_
  dsimp only
  split
  · exact h
  · exact h.ferryRead

theorem ferryReads {pages f n} (h : Spared q false r s) : Spared q false r (s.ferryReads pages f n).1 := by
  unfold State.ferryReads
  exact foldlFst h fun h => h.regionBytes

theorem qpOut {qpn w} (h : Spared q b r s) : Spared q b r (s.qpOut qpn w) := by
  unfold State.qpOut
  split
  · exact h.same
  · exact h

theorem sendRegions {pages f n} (h : Spared q false r s) : Spared q false r (s.sendRegions pages f n).1 := by
  unfold State.sendRegions
  exact foldlFst h.ferryReads fun h => h.qpOut

theorem tierWrite {slow a bs} (h : Spared q false r s) : Spared q false r (s.tierWrite slow a bs).1 :=
  setTier (h.touch.granules.foldl fun h => h.markRead)

theorem wordRead {cl block key w} (h : Spared q b r s) : Spared q b r (s.wordRead cl block key w) := by
  cases w with
  | double => exact (h.bump (vatEcc_open cl)).same
  | single => exact ite (h.bump (vatEcc_open cl)).same (h.bump (vatEcc_open cl)).same

theorem vatGrants {pl a n} (h : Spared q b r s) : Spared q b r (s.vatGrants pl a n) := by
  cases pl with
  | vat i => exact h.pmc
  | pool i => exact h
  | tier slow => exact h

theorem setBytes {pl a bs} (h : Spared q b r s) : Spared q b r (s.setBytes pl a bs) := by
  cases pl with
  | vat i => exact h.same
  | pool i => exact h.same
  | tier slow => exact ite h.same h.same

theorem bankWrite {pl a bs} (h : Spared q b r s) : Spared q b r (s.bankWrite pl a bs).1 := by
  unfold State.bankWrite
  extract_lets n bank touched part
  split
  next cl block base _ =>
    have k : Spared q b r ((part.foldl (fun u e => u.wordRead cl block (base + e.1) e.2) (s.vatGrants pl a n)).setBytes pl a bs) :=
      (h.vatGrants.foldl fun h => h.wordRead).setBytes
    cases pl with
    | tier slow => exact k
    | vat i => exact k.same
    | pool i => exact k.same

theorem writePlace {pl a bs} (h : Spared q false r s) : Spared q false r (s.writePlace pl a bs).1 := by
  unfold State.writePlace
  split
  · exact h.tierWrite
  · exact h.bankWrite

theorem trafficAll {cls l} (h : Spared q b r s) : Spared q b r (s.trafficAll cls l) :=
  h.foldl fun h => by
    split
    · exact h.same
    · exact h

theorem noteDst {c uid x} (h : Spared q b r s) : Spared q b r (s.noteDst c uid x) := by
  unfold State.noteDst
  split
  · exact ite h.same h
  · exact h

theorem storeRun {c uid pl a bs} (h : Spared q false r s) : Spared q false r (s.storeRun c uid pl a bs).1 := by
  unfold State.storeRun
  extract_lets init cls x w
  have k : Spared q false r w.1 := foldlFst h.noteDst fun h => h.trafficAll.writePlace
  exact k.same

theorem modHeld {k f} (h : Spared q b r s) : Spared q b r (s.modHeld k f) := ite h h.same

theorem storeFrom {c uid ext l bs} (h : Spared q false r s) : Spared q false r (s.storeFrom c uid ext l bs).1 := by
  induction l generalizing s bs with
  | nil => exact h
  | cons p l ih => exact ih h.storeRun.modHeld

theorem storeSpans {c uid ext l bs} (h : Spared q false r s) : Spared q false r (s.storeSpans c uid ext l bs).1 := by
  induction l generalizing s bs with
  | nil => exact h
  | cons x l ih => exact ih h.storeRun.modHeld

theorem scramble {p a n} (h : Spared q b r s) : Spared q b r (s.scramble p a n) := h.setBytes.same

theorem scrambleAll {l} (h : Spared q b r s) : Spared q b r (s.scrambleAll l) := h.foldl fun h => h.scramble

theorem gaugeFault {im p ext a} (h : Spared q b r s) : Spared q b r (s.gaugeFault im p ext a) := h.scrambleAll.haltOne.peerFaults

theorem waitHeld {c uid} (h : Spared q b r s) : Spared q b r (s.waitHeld c uid) := ite h.same h

theorem runCopy {j} (h : Spared q false r s) : Spared q false r (s.runCopy j) := by
  unfold State.runCopy
  dsimp only
  split
  · exact fault (same (storeSpans h.same).scrambleAll)
  · exact waitHeld (same (storeSpans h.same))

theorem startCopies {fuel cl} (h : Spared q false r s) : Spared q false r (State.startCopies fuel s cl) := by
  induction fuel generalizing s with
  | zero => exact h
  | succ fuel ih =>
    unfold State.startCopies
    dsimp only
    split
    · exact ih h.runCopy
    · exact h

theorem copyDone {c uid} (h : Spared q false r s) : Spared q false r (s.copyDone c uid) := ite (startCopies h.same) h

theorem releaseOne {x} (h : Spared q false r s) : Spared q false r (s.releaseOne x) := by
  unfold State.releaseOne
  extract_lets k at' w t
  have ht : Spared q false r t := h.storeRun.modHeld
  split
  · exact h
  · split
    · split
      · exact ht.gaugeFault
      · exact ht
    · split
      · exact ht.scrambleAll.fault.copyDone
      · exact ht

theorem releaseHeld {p} (h : Spared q false r s) : Spared q false r (s.releaseHeld p) :=
  (foldl h.same fun h => h.releaseOne).foldl fun h => ite h h.same

/-! ### Exports and SAVEs of a queue pair -/

theorem ferryStatus_open : OpenAddr q (RegId.ferryStatus.row.addr []) := by simp [OpenAddr, RegRow.addr, RegId.row, sumN]

theorem ferryOver {im f status bytes} (h : Spared q false r s) : Spared q false r (s.ferryOver im f status bytes) := by
  unfold State.ferryOver
  dsimp only
  have k : ∀ {u : State}, Spared q false r u → Spared q false r ((u.bumpBy .ferryStatus [] 47 32 f.damaged).releaseLoad f.core f.uid) :=
    fun h => releaseHeld (h.bumpBy ferryStatus_open).same
  split
  · exact (k (storeFrom h.same)).scrambleAll.fault
  · exact waitHeld (k (storeFrom h.same)).same

theorem ferryAbort {p} (h : Spared q b r s) : Spared q b r (s.ferryAbort p) := by
  refine h.trans ?_
  unfold State.ferryAbort
  split
  · next f im _ _ =>
    have k : Spared q false s (s.usedFresh.sendRegions im.pages f
        (f.sent.length + 64 * (s.freeLong.toNat % ((sumN (f.regions.map fun r => r.2.1) - f.sent.length) / 64 + 1)))).1 :=
      sendRegions (refl q false s).same
    exact restall (ferryOver ((ite k.qpOut k).bump ferryStatus_open)) fun _ => rfl
  · exact refl q b s

theorem savesFailed {qpn} (h : Spared q b r s) : Spared q b r (s.savesFailed qpn) :=
  h.foldl fun h => h.record.same

/-! ### Restarts and placements -/

theorem clearRegs {l : List (RegId × List Nat)} (h : Spared false b r s) (hl : ∀ x ∈ l, 0x1000000 ≤ x.1.row.base) :
    Spared false b r (s.clearRegs l) :=
  h.foldl_mem fun hx h => h.setReg (openAddr_false (hl _ hx))

theorem coreRegs_high (c : Nat) : ∀ x ∈ coreRegs c, 0x1000000 ≤ x.1.row.base := by
  have hall : (coreRegs c).all (fun x => decide (0x1000000 ≤ x.1.row.base)) = true := rfl
  simpa using hall

theorem wakeRegs_high (cl : Nat) : ∀ x ∈ wakeRegs cl, 0x1000000 ≤ x.1.row.base := by
  have hall : (wakeRegs cl).all (fun x => decide (0x1000000 ≤ x.1.row.base)) = true := rfl
  simpa using hall

theorem turnOn {d} (h : Spared false b r s) : Spared false b r (s.turnOn d) :=
  ⟨h.ids, h.qps, h.regions, h.load, h.life, h.bist, h.job, h.ports, h.paused, h.calm, h.ready, h.running, h.retired, h.stalled, fun h => nomatch h⟩

theorem setXings {x} (h : Spared false b r s) : Spared false b r { s with xings := x } :=
  ⟨h.ids, h.qps, h.regions, h.load, h.life, h.bist, h.job, h.ports, h.paused, h.calm, h.ready, h.running, h.retired, h.stalled, fun h => nomatch h⟩

theorem wakeHbms (h : Spared false b r s) : Spared false b r s.wakeHbms := by
  refine h.foldl fun h => ite ?_ h
  exact ((same h.turnOn).setRegF (openAddr_false (by decide))).setRegF (openAddr_false (by decide)) |>.setRegF
    (by simp [OpenAddr, RegRow.addr, RegId.row, sumN])

theorem wakeCommon {cl} (h : Spared false b r s) : Spared false b r (s.wakeCommon cl) := ite (clearRegs h.turnOn.same (wakeRegs_high cl)) h

theorem wakeIngest {cl} (h : Spared false b r s) : Spared false b r (s.wakeIngest cl) := ite (clearRegs h.turnOn (by simp [RegId.row])) h

theorem wakeCore {c} (h : Spared false b r s) : Spared false b r (s.wakeCore c) :=
  ite ((clearRegs h.turnOn.same (coreRegs_high c)).foldl fun h => h.setRegF (openAddr_false (by decide))) h

theorem wakeFor {c} (h : Spared false b r s) : Spared false b r (s.wakeFor c) := h.wakeHbms.wakeCommon.wakeIngest.wakeCore

theorem dropBank {id ix owner} (h : Spared false b r s) (hid : 0x1000000 ≤ id.row.base) : Spared false b r (s.dropBank id ix owner) :=
  ite (h.setReg (openAddr_false hid)) h

theorem moveOwner {id ix old new} (h : Spared false b r s) (hid : 0x1000000 ≤ id.row.base) : Spared false b r (s.moveOwner id ix old new) :=
  ite (h.setRegF (openAddr_false hid)) h

theorem moveHeld {l old new} (h : Spared false b r s) : Spared false b r (s.moveHeld l old new) :=
  ((foldl h.same fun h => (h.setReg (openAddr_false (by decide))).dropBank (by decide)).foldl fun h => h.moveOwner (by decide)).foldl
    fun h => h.moveOwner (by decide)

theorem moveSel {old new} (h : Spared false b r s) : Spared false b r (s.moveSel old new) := by
  refine ((h.clearRegs (coreRegs_high new)).foldl_mem fun {u a} ha h => h.setReg (openAddr_false ?_)).setRegF (openAddr_false (by decide))
  have hsel : ∀ x ∈ State.selRegs new, 0x1000000 ≤ x.1.row.base := by simp [State.selRegs, RegId.row]
  exact hsel _ (List.of_mem_zip ha).2

theorem moveCore {l old new} (h : Spared false b r s) : Spared false b r (s.moveCore l old new) := same (moveSel (ite h.wakeFor.moveHeld h))

theorem moveCores {skip} (h : Spared false b r s) : Spared false b r (s.moveCores skip) :=
  h.foldl fun h => by
    split
    · exact h.moveCore
    · exact h

theorem reportReduced (h : Spared false b r s) : Spared false b r s.reportReduced := record h.same

theorem setLoad {l} (h : Spared q b r s) (hl : s.load = none → l = none) : Spared q b r { s with load := l } :=
  ⟨h.ids, h.qps, h.regions, hl ∘ h.load, h.life, h.bist, h.job, h.ports, h.paused, h.calm, h.ready, h.running, h.retired, h.stalled, h.quiet⟩

theorem keepImgStatus_open : OpenAddr q (RegId.keepImgStatus.row.addr []) := by simp [OpenAddr, RegRow.addr, RegId.row, sumN]

theorem keepPartBuild_open {p : Nat} (hp : p < 16) : OpenAddr q (RegId.keepPartBuild.row.addr [p]) := by
  simp [OpenAddr, RegRow.addr, RegId.row, sumN]
  omega

theorem refuseRunning {detail} (h : Spared false b r s) : Spared false b r (s.refuseRunning detail) := by
  refine reportReduced (foldl_mem (setLoad ((h.setRegF keepImgStatus_open).setRegF keepImgStatus_open) fun hl => ?_) fun hp h => h.setReg
    (keepPartBuild_open (List.mem_range.mp (List.mem_filter.mp hp).1)))
  exact Option.map_eq_none_iff.mpr hl

theorem placeAgain (h : Spared false b r s) : Spared false b r s.placeAgain := by
  unfold State.placeAgain
  split
  · exact h
  · split
    · exact h.moveCores
    · exact ite h.reportReduced h.refuseRunning

theorem clusterNotice {cl} (h : Spared false b r s) : Spared false b r (s.clusterNotice cl) := h.foldl fun h => ite h h.setXings

theorem restartCommon {cl} (h : Spared false b r s) : Spared false b r (s.restartCommon cl) := by
  have k : ∀ {id ix} {u : State}, id = .vatOwner ∨ id = .poolOwner → Spared false b r u → Spared false b r (u.dropHandover id ix) := fun hid h => by
    obtain rfl | rfl := hid <;> exact (h.setRegF (openAddr_false (by decide))).setRegF (openAddr_false (by decide))
  have hvats : Spared false b r ((List.range 32).foldl (fun (t : State) i =>
      (t.dropHandover .vatOwner [cl, i]).scramble (.vat (32 * cl + i)) 0 2097152) s) := h.foldl fun h => (k (.inl rfl) h).scramble
  have hpools := hvats.foldl (l := List.range 16) (f := fun (t : State) i =>
      (t.dropHandover .poolOwner [cl, i]).scramble (.pool (16 * cl + i)) 0 1048576) fun h => (k (.inr rfl) h).scramble
  exact same (same (clearRegs hpools (by simp [commonRegs, RegId.row])))

theorem abandon {l} (h : Spared q b r s) : Spared q b r (s.abandon l) :=
  h.trans (restall (foldl (refl q false s) fun h => storeRun h.same) fun _ => rfl)

theorem restartCore {c} (h : Spared false b r s) : Spared false b r (s.restartCore c) := clearRegs h.same (coreRegs_high c)

theorem restartCores {cl} (h : Spared false b r s) : Spared false b r (s.restartCores cl) := by
  refine h.trans ?_
  unfold State.restartCores
  extract_lets mine dst u v
  have hu : Spared false true s u := same (refl false true s)
  have k : Spared false true s v := foldl hu fun h => h.restartCore
  exact k.abandon.slacken.releaseHeld.restall fun _ => k.stalled rfl

theorem loadWaits (h : Spared false b r s) : Spared false b r s.loadWaits := by
  have k : Spared false b r { s with load := s.load.map fun l => { l with placed := false }, resets := s.resets.map fun r => { r with placed := false } } :=
    same (setLoad h fun hl => Option.map_eq_none_iff.mpr hl)
  exact ite (k.setRegF keepImgStatus_open) k

theorem warmRestart {cl entry} (h : Spared false b r s) : Spared false b r (s.warmRestart cl entry) :=
  ite h.addRetire h.stopParts.clusterNotice.addRetire.restartCores.restartCommon.loadWaits

theorem retireBlock {block source slice} (h : Spared false b r s) : Spared false b r (s.retireBlock block source slice) := by
  unfold State.retireBlock
  dsimp only
  split
  · exact h
  · split
    · exact ite h.warmRestart (ite h.addRetire.placeAgain h.addRetire)
    · exact ite h.warmRestart (ite h.warmRestart h.addRetire)

/-- What a command comes to where it has met no held bank: the blocks found failing are retired. -/
theorem settled (h : t.stalled = s.stalled) : Spared false true t (s.settle t) := by
  have hst : (t.stalled && !s.stalled) = false := by rw [h]; exact Bool.and_not_self _
  rw [State.settle, hst, if_neg Bool.false_ne_true]
  exact ite (refl false true t) (foldl (refl false true t).same fun h => h.retireBlock)

theorem settle (h : Spared q true s t) : Spared false true s (s.settle t) := h.weaken.trans (settled (h.stalled rfl))

/-! ### The registers that are spared -/

theorem keepWatch (h : Spared q b r s) : s.reg .keepWatch [] = r.reg .keepWatch [] := h.calm _ (by decide) _

theorem moduleIx (h : Spared q b r s) : s.moduleIx = r.moduleIx := by
  have hreg : s.reg .lnkModule [] = r.reg .lnkModule [] := h.calm _ (by decide) _
  simp only [State.moduleIx, State.regF, hreg]

theorem jobStatus (h : Spared q b r s) : s.reg .jobStatus [] = r.reg .jobStatus [] := h.calm _ (by decide) _

theorem bistStatus (h : Spared q b r s) : s.reg .bistStatus [] = r.reg .bistStatus [] := h.calm _ (by decide) _

theorem lifeStatus (h : Spared q b r s) : s.reg .lifeStatus [] = r.reg .lifeStatus [] := h.calm _ (by decide) _

/-! ### A block is retired -/

theorem addRetire_retires {x : Retire} {c : Nat} (hb : x.bit = some (retireBit c)) (h8 : (retireBit c).1 < 8) : (s.addRetire x).blockRetired c = true := by
  have hkind : x.kind ≠ 3 := by
    intro h3
    simp [Retire.bit, h3] at hb
  unfold State.addRetire
  dsimp only
  rw [if_neg fun h => hkind h.1, hb]
  have hset : ((s.writeRetire s.retireRec.pointer (s.retireRec.entries ++ [x])).setRegF .retireCluster [(retireBit c).1] (retireBit c).2
      (retireBit c).2 1).blockRetired c = true := (blockRetired_iff _ c).mpr (State.regF_setBit (retireBit_lt c))
  have hc : c < 144 := by
    by_contra hc
    rw [retireBit, if_neg (by omega), if_neg (by omega)] at h8
    omega
  exact (record (refl false true _)).retired c hc hset

theorem warmRestart_retires {x : Retire} {cl c : Nat} (hb : x.bit = some (retireBit c)) (hc : c < 144) (h8 : (retireBit c).1 < 8) :
    (s.warmRestart cl x).blockRetired c = true := by
  unfold State.warmRestart
  split
  · exact addRetire_retires hb h8
  · exact ((refl false true _).restartCores.restartCommon.loadWaits).retired c hc (addRetire_retires hb h8)

theorem retireBlock_retires {c source slice : Nat} (hc : c < 144) : (s.retireBlock c source slice).blockRetired c = true := by
  unfold State.retireBlock
  dsimp only
  split
  case isTrue h => exact h
  case isFalse =>
    by_cases hcore : c < 128
    · have hbit : retireBit c = (c / 16, c % 16) := if_pos hcore
      have hb : Retire.bit ⟨0, source, c / 16, c % 16, 0, slice, s.hours⟩ = some (retireBit c) := by
        rw [hbit]
        simp [Retire.bit]
        omega
      have h8 : (retireBit c).1 < 8 := by rw [hbit]; simp; omega
      rw [if_pos hcore]
      split
      · exact warmRestart_retires hb hc h8
      · split
        · exact ((refl false true _).placeAgain).retired c hc (addRetire_retires hb h8)
        · exact addRetire_retires hb h8
    · rw [if_neg hcore]
      by_cases hcommon : c < 136
      · have hbit : retireBit c = (c - 128, 16) := by rw [retireBit, if_neg hcore, if_pos hcommon]
        rw [if_pos hcommon]
        refine warmRestart_retires ?_ hc (by rw [hbit]; simp; omega)
        rw [hbit]
        simp [Retire.bit]
        omega
      · have hbit : retireBit c = (c - 136, 17) := by rw [retireBit, if_neg hcore, if_neg hcommon]
        have h8 : (retireBit c).1 < 8 := by rw [hbit]; simp; omega
        have hb : Retire.bit ⟨2, source, c - 136, 0, 0, slice, s.hours⟩ = some (retireBit c) := by
          rw [hbit]
          simp [Retire.bit]
          omega
        rw [if_neg hcommon]
        split
        · exact warmRestart_retires hb hc h8
        · exact addRetire_retires hb h8

end Spared
end Sys2Proof.Machine
end

section
/-! PROOF. The crossings: what a sender writes, what a receiver samples, and the resets of a side (R514-R521). -/

namespace Sys2Proof.Machine

/-! ### The queue of a direction (R514) -/

/-- The words of units. -/
def queueWords (x : Nat) (l : List (Nat × List Byte)) : Nat := sumN (l.map fun u => unitWords x u.2)

theorem queueWords_nil (x : Nat) : queueWords x [] = 0 := rfl

theorem queueWords_cons (x : Nat) (u : Nat × List Byte) (l : List (Nat × List Byte)) : queueWords x (u :: l) = unitWords x u.2 + queueWords x l := by
  rw [queueWords, List.map_cons, sumN_cons]
  rfl

theorem queueWords_append (x : Nat) (l k : List (Nat × List Byte)) : queueWords x (l ++ k) = queueWords x l + queueWords x k := by
  induction l with
  | nil => simp [queueWords_nil]
  | cons u l ih => rw [List.cons_append, queueWords_cons, queueWords_cons, ih, Nat.add_assoc]

/-- The units that fit do, and the next one does not. -/
theorem queueWords_fitting (x room : Nat) (l : List (Nat × List Byte)) : queueWords x (l.take (fitting x room l)) ≤ room ∧
    ∀ u k, l.drop (fitting x room l) = u :: k → room < queueWords x (l.take (fitting x room l)) + unitWords x u.2 := by
  induction l generalizing room with
  | nil => exact ⟨Nat.zero_le _, fun _ _ h => nomatch h⟩
  | cons a l ih =>
    rw [fitting]
    split
    · obtain ⟨hfit, hnext⟩ := ih (room - unitWords x a.2)
      rw [List.take_succ_cons, queueWords_cons]
      refine ⟨by omega, fun u k hd => ?_⟩
      have := hnext u k hd
      omega
    · refine ⟨Nat.zero_le _, fun u k hd => ?_⟩
      obtain ⟨rfl, -⟩ := List.cons.inj hd
      simp only [List.take_zero, queueWords_nil]
      omega

/-- A queue filled from its sender. -/
structure Filled (x : Nat) (d f : XDir) : Prop where
  units : f.queue ++ f.sender = d.queue ++ d.sender
  longer : d.queue.length ≤ f.queue.length
  room : queueWords x f.queue ≤ 8
  full : ∀ u l, f.sender = u :: l → 8 < queueWords x f.queue + unitWords x u.2
  samples : f.samples = d.samples
  taken : f.taken = d.taken

theorem filled_fill {x : Nat} {d : XDir} (h : queueWords x d.queue ≤ 8) : Filled x d (d.fill x) := by
  obtain ⟨hfit, hnext⟩ := queueWords_fitting x (8 - queueWords x d.queue) d.sender
  have hq : (d.fill x).queue = d.queue ++ d.sender.take (fitting x (8 - queueWords x d.queue) d.sender) := rfl
  have hs : (d.fill x).sender = d.sender.drop (fitting x (8 - queueWords x d.queue) d.sender) := rfl
  refine ⟨by rw [hq, hs, List.append_assoc, List.take_append_drop], by rw [hq, List.length_append]; omega, ?_, fun u l hu => ?_, rfl, rfl⟩
  · rw [hq, queueWords_append]
    omega
  · have := hnext u l (hs ▸ hu)
    rw [hq, queueWords_append]
    omega

theorem Filled.eq_of_empty {x : Nat} {d f : XDir} (h : Filled x d f) (hq : f.queue = []) : f = { d with sender := f.sender } := by
  have hd : d.queue = [] := List.eq_nil_of_length_eq_zero (Nat.le_zero.mp (h.longer.trans (by rw [hq]; exact le_rfl)))
  obtain ⟨queue, sender, samples, taken⟩ := f
  simp [hd, ← h.samples, ← h.taken] at hq ⊢
  exact hq

/-! ### A direction of a crossing -/

def Xing.dir (k : Xing) (fwd : Bool) : XDir := if fwd = true then k.toClocked else k.toSelf

def Xing.putDir (k : Xing) (fwd : Bool) (d : XDir) : Xing := if fwd = true then { k with toClocked := d } else { k with toSelf := d }

/-- A direction whose sender has more to write. -/
def Xing.dirWith (k : Xing) (fwd : Bool) (new : List (Nat × List Byte)) : XDir := { k.dir fwd with sender := (k.dir fwd).sender ++ new }

@[simp] theorem Xing.dir_putDir (k : Xing) (fwd : Bool) (d : XDir) : (k.putDir fwd d).dir fwd = d := by cases fwd <;> rfl

@[simp] theorem Xing.counts_putDir (k : Xing) (fwd : Bool) (d : XDir) : (k.putDir fwd d).counts = k.counts := by cases fwd <;> rfl

namespace State

variable {s t : State} {x : Nat} {fwd : Bool}

/-- Only crossing x differs. -/
structure OnlyXing (x : Nat) (s t : State) : Prop where
  frame : t = { s with xings := t.xings }
  others : ∀ j, j ≠ x → t.xing j = s.xing j

theorem onlyXing_modXing (f : Xing → Xing) : OnlyXing x s (s.modXing x f) := ⟨rfl, fun _ hj => xing_modXing_ne s x f hj⟩

theorem OnlyXing.trans {u : State} (h : OnlyXing x s t) (k : OnlyXing x t u) : OnlyXing x s u :=
  ⟨by rw [k.frame, h.frame], fun j hj => (k.others j hj).trans (h.others j hj)⟩

/-- What a direction of a crossing becomes. -/
def putDir (s : State) (x : Nat) (fwd : Bool) (d : XDir) : State := s.modXing x fun k => k.putDir fwd d

theorem xing_putDir (d : XDir) : (s.putDir x fwd d).xing x = (s.xing x).putDir fwd d := xing_modXing_self s x _

/-- Counts of a crossing, saturating. -/
theorem getF_xingCount (hi lo n : Nat) (hle : lo ≤ hi) (hhi : hi < 64) :
    getF ((s.xingCount x hi lo n).xing x).counts hi lo = satAdd (hi + 1 - lo) (getF (s.xing x).counts hi lo) n := by
  rw [xingCount, xing_modXing_self, getF_setF_self _ _ _ _ hle hhi]
  exact Nat.mod_eq_of_lt (Nat.lt_of_le_pred (Nat.two_pow_pos _) (Nat.min_le_right _ _))

theorem getF_xingCount_apart (hi lo n hi' lo' : Nat) (hle : lo ≤ hi) (hhi : hi < 64) (hd : hi' < lo ∨ hi < lo') :
    getF ((s.xingCount x hi lo n).xing x).counts hi' lo' = getF (s.xing x).counts hi' lo' := by
  rw [xingCount, xing_modXing_self, getF_setF_apart _ _ _ _ _ _ hle hhi hd]

/-! ### Words accepted (R514, R515) -/

/-- The units of a sender that is not in reset, of clusters that do not restart. -/
def unitsIn (s : State) (x : Nat) (fwd : Bool) (written : List (Nat × List Byte)) : List (Nat × List Byte) :=
  written.filter fun u => !(if fwd = true then (s.xing x).selfReset || s.selfOff x else (s.xing x).clkReset) && !hasN (s.xing x).clusters u.1

theorem wordAccept_held (written : List (Nat × List Byte)) (samples : List (List Byte)) (h : s.inReset x = true) :
    s.wordAccept x fwd written samples = s.putDir x fwd ((s.xing x).dirWith fwd (s.unitsIn x fwd written)) := by
  rw [wordAccept]
  simp only [h, if_true]
  cases fwd <;> rfl

theorem wordAccept_free (written : List (Nat × List Byte)) (samples : List (List Byte)) (h : s.inReset x = false) :
    s.wordAccept x fwd written samples =
      let d := ((s.xing x).dirWith fwd (s.unitsIn x fwd written)).fill x
      if d.queue.isEmpty then s.putDir x fwd d else (s.putDir x fwd d).sampled x fwd samples := by
  have hdir := fun d => (congrArg (Xing.dir · fwd) (s.xing_putDir (x := x) (fwd := fwd) d)).trans (Xing.dir_putDir _ _ d)
  rw [wordAccept]
  simp only [h, Bool.false_eq_true, if_false]
  cases fwd
  · exact congrArg (fun d : XDir => if d.queue.isEmpty then s.putDir x false _ else (s.putDir x false _).sampled x false samples) (hdir _)
  · exact congrArg (fun d : XDir => if d.queue.isEmpty then s.putDir x true _ else (s.putDir x true _).sampled x true samples) (hdir _)

/-- The samples of a front unit, with those just taken. -/
def samplesOf (d : XDir) (samples : List (List Byte)) : List (List Byte) := (d.samples ++ samples).take 16

variable {d : XDir} {samples : List (List Byte)}

theorem sampled_agreed {n : Nat} (hd : (s.xing x).dir fwd = d) (h : agreedAt (samplesOf d samples) = some n) :
    s.sampled x fwd samples = (s.xingCount x 47 32 (n - max 2 d.samples.length)).putDir x fwd
      ({ d with queue := d.queue.tail, samples := [], taken := (samplesOf d samples).getD (n - 1) [] }.fill x) := by
  subst hd
  cases fwd <;> simp only [sampled, samplesOf, Xing.dir, if_true, Bool.false_eq_true, if_false] at h ⊢ <;> rw [h] <;> rfl

theorem sampled_none (hd : (s.xing x).dir fwd = d) (h : agreedAt (samplesOf d samples) = none) :
    s.sampled x fwd samples =
      let u := (s.xingCount x 47 32 ((samplesOf d samples).length - max 2 d.samples.length)).putDir x fwd { d with samples := samplesOf d samples }
      if 16 ≤ (samplesOf d samples).length then (u.record 3 0x0020 none x none none []).resetNotice x true else u := by
  subst hd
  cases fwd <;> simp only [sampled, samplesOf, Xing.dir, if_true, Bool.false_eq_true, if_false] at h ⊢ <;> rw [h] <;> rfl

/-! ### Resets (R517) -/

/-- The crossing that a side's notice leaves. -/
def noticed (k : Xing) (off clocked : Bool) : Xing :=
  let k := { k with toClocked := k.toClocked.flush (!clocked), toSelf := k.toSelf.flush clocked }
  if clocked then { k with clkReset := true, clkAcked := !k.selfReset || off } else { k with selfReset := true, selfAcked := !k.clkReset }

theorem resetNotice_eq {clocked : Bool} (h : (if clocked then (s.xing x).clkReset else (s.xing x).selfReset) = false) :
    s.resetNotice x clocked = ((s.xingCount x 63 48 1).xingCount x 31 0 ((s.xing x).toClocked.queue.length + (s.xing x).toSelf.queue.length)).modXing x
      fun k => noticed k (s.selfOff x) clocked := by
  rw [resetNotice]
  simp only [h, Bool.false_eq_true, if_false]
  rfl

theorem onlyXing_resetNotice {clocked : Bool} : OnlyXing x s (s.resetNotice x clocked) := by
  by_cases h : (if clocked then (s.xing x).clkReset else (s.xing x).selfReset) = false
  · rw [resetNotice_eq h]
    exact ((onlyXing_modXing _).trans (onlyXing_modXing _)).trans (onlyXing_modXing _)
  · rw [resetNotice, if_pos (by simpa using h)]
    exact ⟨rfl, fun _ _ => rfl⟩

theorem xing_record (severity code : Nat) (part : Option Nat) (unit : Nat) (step : Option Word) (addr : Option Nat) (detail : List Byte) (j : Nat) :
    (s.record severity code part unit step addr detail).xing j = s.xing j := by
  rw [record_frame s severity code part unit step addr detail]
  rfl

/-- A side's notice empties both queues and counts what it discards (R517, R521). -/
theorem resetNotice_empties {clocked : Bool} (h : (if clocked then (s.xing x).clkReset else (s.xing x).selfReset) = false) :
    ∃ c, (s.resetNotice x clocked).xing x = noticed { s.xing x with counts := c } (s.selfOff x) clocked ∧
      getF c 63 48 = min (getF (s.xing x).counts 63 48 + 1) 0xFFFF ∧
      getF c 31 0 = min (getF (s.xing x).counts 31 0 + ((s.xing x).toClocked.queue.length + (s.xing x).toSelf.queue.length)) 0xFFFFFFFF ∧
      getF c 47 32 = getF (s.xing x).counts 47 32 := by
  set n := (s.xing x).toClocked.queue.length + (s.xing x).toSelf.queue.length with hn
  set u := (s.xingCount x 63 48 1).xingCount x 31 0 n with hu
  have hux : u.xing x = { s.xing x with counts := (u.xing x).counts } := by
    rw [hu, xingCount, xing_modXing_self, xingCount, xing_modXing_self]
  refine ⟨(u.xing x).counts, ?_, ?_, ?_, ?_⟩
  · rw [resetNotice_eq h, xing_modXing_self, ← hux]
  · rw [hu, getF_xingCount_apart _ _ _ _ _ (by omega) (by omega) (by omega), getF_xingCount _ _ _ (by omega) (by omega)]
    rfl
  · rw [hu, getF_xingCount _ _ _ (by omega) (by omega), getF_xingCount_apart _ _ _ _ _ (by omega) (by omega) (by omega)]
    rfl
  · rw [hu, getF_xingCount_apart _ _ _ _ _ (by omega) (by omega) (by omega), getF_xingCount_apart _ _ _ _ _ (by omega) (by omega) (by omega)]

/-! ### What a word accepted leaves -/

/-- Memories, cores and the other crossings are as before. -/
structure Crossed (x : Nat) (s t : State) : Prop where
  mem : SameMem s t
  cores : t.cores = s.cores
  others : ∀ j, j ≠ x → t.xing j = s.xing j

theorem Crossed.trans {u : State} (h : Crossed x s t) (k : Crossed x t u) : Crossed x s u :=
  ⟨fun pl a => (k.mem pl a).trans (h.mem pl a), k.cores.trans h.cores, fun j hj => (k.others j hj).trans (h.others j hj)⟩

theorem crossed_of_onlyXing (h : OnlyXing x s t) : Crossed x s t := by
  obtain ⟨hframe, hothers⟩ := h
  refine ⟨fun pl a => ?_, by rw [hframe], hothers⟩
  rw [hframe]
  cases pl <;> rfl

theorem crossed_record (severity code : Nat) (part : Option Nat) (unit : Nat) (step : Option Word) (addr : Option Nat) (detail : List Byte) :
    Crossed x s (s.record severity code part unit step addr detail) :=
  ⟨(memKept_of_reports (record_frame s ..)).sameMem, cores_record .., fun _ _ => xing_record ..⟩

theorem crossed_sampled : Crossed x s (s.sampled x fwd samples) := by
  have hput : ∀ n d, Crossed x s ((s.xingCount x 47 32 n).putDir x fwd d) := fun n d =>
    crossed_of_onlyXing ((onlyXing_modXing _).trans (onlyXing_modXing _))
  cases h : agreedAt (samplesOf ((s.xing x).dir fwd) samples) with
  | some n =>
    rw [sampled_agreed rfl h]
    exact hput _ _
  | none =>
    rw [sampled_none rfl h]
    dsimp only
    split
    · exact ((hput _ _).trans (crossed_record ..)).trans (crossed_of_onlyXing onlyXing_resetNotice)
    · exact hput _ _

theorem crossed_wordAccept (written : List (Nat × List Byte)) : Crossed x s (s.wordAccept x fwd written samples) := by
  cases h : s.inReset x with
  | true =>
    rw [wordAccept_held written samples h]
    exact crossed_of_onlyXing (onlyXing_modXing _)
  | false =>
    rw [wordAccept_free written samples h]
    dsimp only
    split
    · exact crossed_of_onlyXing (onlyXing_modXing _)
    · exact (crossed_of_onlyXing (onlyXing_modXing _)).trans crossed_sampled

/-! ### The front unit (R515) -/

variable {f : XDir}

/-- A front unit on whose samples two agree goes, and the repeats are counted. -/
theorem sampled_takes {n : Nat} (hf : queueWords x f.queue ≤ 8) (h : agreedAt (samplesOf f samples) = some n) :
    let t := (s.putDir x fwd f).sampled x fwd samples
    ((t.xing x).dir fwd).taken = (samplesOf f samples).getD (n - 1) [] ∧ ((t.xing x).dir fwd).samples = [] ∧
      ((t.xing x).dir fwd).queue ++ ((t.xing x).dir fwd).sender = f.queue.tail ++ f.sender ∧ queueWords x ((t.xing x).dir fwd).queue ≤ 8 ∧
      getF (t.xing x).counts 47 32 = min (getF (s.xing x).counts 47 32 + (n - max 2 f.samples.length)) 0xFFFF := by
  have hdir : ((s.putDir x fwd f).xing x).dir fwd = f := by rw [xing_putDir, Xing.dir_putDir]
  have htail : queueWords x f.queue.tail ≤ 8 := by
    cases hq : f.queue with
    | nil => simp [queueWords_nil]
    | cons u l =>
      rw [hq, queueWords_cons] at hf
      exact (Nat.le_add_left _ _).trans hf
  have hfill := filled_fill (x := x) (d := { f with queue := f.queue.tail, samples := [], taken := (samplesOf f samples).getD (n - 1) [] }) htail
  dsimp only
  rw [sampled_agreed hdir h, xing_putDir, Xing.dir_putDir, Xing.counts_putDir, getF_xingCount _ _ _ (by omega) (by omega), xing_putDir,
    Xing.counts_putDir]
  exact ⟨hfill.taken, hfill.samples, hfill.units, hfill.room, rfl⟩

/-- Without agreement the samples stand, or the sixteenth fails the crossing. -/
theorem sampled_waits (h : agreedAt (samplesOf f samples) = none) (hlen : (samplesOf f samples).length < 16) :
    let t := (s.putDir x fwd f).sampled x fwd samples
    (t.xing x).dir fwd = { f with samples := samplesOf f samples } ∧
      getF (t.xing x).counts 47 32 = min (getF (s.xing x).counts 47 32 + ((samplesOf f samples).length - max 2 f.samples.length)) 0xFFFF := by
  have hdir : ((s.putDir x fwd f).xing x).dir fwd = f := by rw [xing_putDir, Xing.dir_putDir]
  dsimp only
  rw [sampled_none hdir h]
  dsimp only
  rw [if_neg (Nat.not_le.mpr hlen), xing_putDir, Xing.dir_putDir, Xing.counts_putDir, getF_xingCount _ _ _ (by omega) (by omega), xing_putDir,
    Xing.counts_putDir]
  exact ⟨rfl, rfl⟩

theorem sampled_fails (h : agreedAt (samplesOf f samples) = none) (hlen : (samplesOf f samples).length = 16) (hclk : (s.xing x).clkReset = false) :
    let t := (s.putDir x fwd f).sampled x fwd samples
    (t.xing x).toClocked.queue = [] ∧ (t.xing x).toSelf.queue = [] ∧ (t.xing x).clkReset = true ∧
      (t.keeper.log.getLast?).map (·.code) = some 0x0020 ∧
      getF (t.xing x).counts 47 32 = min (getF (s.xing x).counts 47 32 + (16 - max 2 f.samples.length)) 0xFFFF := by
  have hdir : ((s.putDir x fwd f).xing x).dir fwd = f := by rw [xing_putDir, Xing.dir_putDir]
  dsimp only
  rw [sampled_none hdir h]
  dsimp only
  rw [if_pos hlen.ge]
  set u := ((s.putDir x fwd f).xingCount x 47 32 ((samplesOf f samples).length - max 2 f.samples.length)).putDir x fwd
    { f with samples := samplesOf f samples } with hu
  have hput : ∀ (k : Xing) d, (k.putDir fwd d).clkReset = k.clkReset := fun k d => by cases fwd <;> rfl
  have huclk : (u.xing x).clkReset = false := by
    rw [hu, xing_putDir, hput, xingCount, xing_modXing_self, xing_putDir]
    exact (hput _ _).trans hclk
  have hcounts : getF (u.xing x).counts 47 32 = min (getF (s.xing x).counts 47 32 + (16 - max 2 f.samples.length)) 0xFFFF := by
    rw [hu, xing_putDir, Xing.counts_putDir, getF_xingCount _ _ _ (by omega) (by omega), xing_putDir, Xing.counts_putDir, hlen]
    rfl
  obtain ⟨c, hx, -, -, hc⟩ := resetNotice_empties (s := u.record 3 0x0020 none x none none []) (x := x) (clocked := true) (by
    rw [xing_record, if_pos rfl]
    exact huclk)
  have hlog : ((u.record 3 0x0020 none x none none []).resetNotice x true).keeper = (u.record 3 0x0020 none x none none []).keeper := by
    rw [onlyXing_resetNotice.frame]
  rw [hx, hlog]
  refine ⟨rfl, rfl, rfl, ?_, ?_⟩
  · have hlast := getLast?_log_record (s := u) 3 0x0020 none x none none []
    simpa [Option.map_map, Function.comp_def, Option.map_eq_some_iff] using congrArg (Option.map Prod.fst) hlast
  · rw [xing_record] at hc
    exact hc.trans hcounts

/-! ### The claim -/

theorem inReset_iff : s.inReset x = true ↔ ((s.xing x).selfReset = true ∨ (s.xing x).clkReset = true ∨ s.selfOff x = true) := by
  simp [inReset, xingHeld, or_assoc]

/-- What joins a crossing that runs, and what becomes of its front unit (R514, R515). -/
theorem wordAccept_carries (written : List (Nat × List Byte)) (h : s.inReset x = false) (hw : queueWords x ((s.xing x).dir fwd).queue ≤ 8) :
    let d := (s.xing x).dir fwd
    let t := s.wordAccept x fwd written samples
    let all := samplesOf d samples
    ∃ q r, q ++ r = d.queue ++ d.sender ++ s.unitsIn x fwd written ∧ d.queue.length ≤ q.length ∧ queueWords x q ≤ 8 ∧
      (∀ u l, r = u :: l → 8 < queueWords x q + unitWords x u.2) ∧ (q = [] → (t.xing x).dir fwd = { d with sender := r }) ∧
      (∀ n, q ≠ [] → agreedAt all = some n → ((t.xing x).dir fwd).taken = all.getD (n - 1) [] ∧ ((t.xing x).dir fwd).samples = [] ∧
        ((t.xing x).dir fwd).queue ++ ((t.xing x).dir fwd).sender = q.tail ++ r ∧ queueWords x ((t.xing x).dir fwd).queue ≤ 8 ∧
        getF (t.xing x).counts 47 32 = min (getF (s.xing x).counts 47 32 + (n - max 2 d.samples.length)) 0xFFFF) ∧
      (q ≠ [] → agreedAt all = none → all.length < 16 → (t.xing x).dir fwd = ⟨q, r, all, d.taken⟩ ∧
        getF (t.xing x).counts 47 32 = min (getF (s.xing x).counts 47 32 + (all.length - max 2 d.samples.length)) 0xFFFF) ∧
      (q ≠ [] → agreedAt all = none → all.length = 16 → (t.xing x).toClocked.queue = [] ∧ (t.xing x).toSelf.queue = [] ∧
        (t.xing x).clkReset = true ∧ (t.keeper.log.getLast?).map (·.code) = some 0x0020 ∧
        getF (t.xing x).counts 47 32 = min (getF (s.xing x).counts 47 32 + (16 - max 2 d.samples.length)) 0xFFFF) := by
  have hclk : (s.xing x).clkReset = false := by
    cases hc : (s.xing x).clkReset with
    | false => rfl
    | true => rw [inReset_iff.mpr (.inr (.inl hc))] at h; exact absurd h (by decide)
  have hfill := filled_fill (x := x) (d := (s.xing x).dirWith fwd (s.unitsIn x fwd written)) hw
  have heq := wordAccept_free (fwd := fwd) written samples h
  dsimp only at heq ⊢
  set f := ((s.xing x).dirWith fwd (s.unitsIn x fwd written)).fill x with hf
  have hsamples : samplesOf ((s.xing x).dir fwd) samples = samplesOf f samples := by rw [samplesOf, samplesOf, hfill.samples]; rfl
  have hlen : ((s.xing x).dir fwd).samples.length = f.samples.length := by rw [hfill.samples]; rfl
  have hgo : f.queue ≠ [] → s.wordAccept x fwd written samples = (s.putDir x fwd f).sampled x fwd samples := fun hq => by
    rw [heq, if_neg (by simpa using hq)]
  rw [hsamples, hlen]
  refine ⟨f.queue, f.sender, by rw [hfill.units, List.append_assoc]; rfl, hfill.longer, hfill.room, hfill.full, fun hq => ?_, fun n hq ha => ?_,
    fun hq ha hlt => ?_, fun hq ha h16 => ?_⟩
  · rw [heq, if_pos (by simp [hq]), xing_putDir, Xing.dir_putDir]
    exact hfill.eq_of_empty hq
  · rw [hgo hq]
    exact sampled_takes hfill.room ha
  · rw [hgo hq]
    obtain ⟨hdir, hcount⟩ := sampled_waits (s := s) (fwd := fwd) ha hlt
    refine ⟨hdir.trans ?_, hcount⟩
    rw [show ((s.xing x).dir fwd).taken = f.taken from hfill.taken.symm]
  · rw [hgo hq]
    exact sampled_fails ha h16 hclk

/-- Each side's notice, its time-out and the end of its reset (R517-R519). -/
theorem notices_claim (clocked : Bool) :
    let k := s.xing x
    let mine := if clocked = true then k.clkReset else k.selfReset
    (mine = true → s.resetNotice x clocked = s ∧ (let t := s.resetTimeout x clocked
      t = { s with xings := t.xings } ∧ t.xing x = if clocked = true then { k with clkAcked := true } else { k with selfAcked := true })) ∧
    (mine = false → s.resetTimeout x clocked = s) := by
  refine ⟨fun h => ⟨by rw [resetNotice, if_pos h], ?_⟩, fun h => by rw [resetTimeout, if_neg (by simpa using h)]⟩
  dsimp only
  rw [resetTimeout, if_pos h]
  exact ⟨rfl, xing_modXing_self s x _⟩

theorem restart_claim :
    let k := s.xing x
    let out := (k.selfReset && k.selfAcked) || (k.clkReset && k.clkAcked)
    (out = false → s.xingRestart x = s) ∧ (out = true → (let t := s.xingRestart x
      t = { s with xings := t.xings } ∧
      t.xing x = { k with selfReset := k.selfReset && !k.selfAcked, clkReset := k.clkReset && !k.clkAcked, selfAcked := false, clkAcked := false })) := by
  refine ⟨fun h => by rw [xingRestart, if_neg (by simpa using h)], fun h => ?_⟩
  dsimp only
  rw [xingRestart, if_pos h]
  exact ⟨rfl, xing_modXing_self s x _⟩

end State

theorem crossingsCarryAndReset : Claims.CrossingsCarryAndReset := by
  intro s x
  refine ⟨fun fwd written samples => ⟨fun hreset => ?_, fun hrun hwords => ?_⟩, fun clocked => ?_, ?_⟩
  · have hin := State.inReset_iff.mpr hreset
    refine ⟨_, rfl, ?_⟩
    have heq := State.wordAccept_held (fwd := fwd) written samples hin
    refine ⟨by rw [heq]; rfl, ?_, (State.crossed_wordAccept written).others⟩
    rw [heq]
    exact (congrArg (Xing.dir · fwd) (s.xing_putDir _)).trans (Xing.dir_putDir _ _ _)
  · have hfree : s.inReset x = false := Bool.eq_false_iff.mpr fun h => hrun (State.inReset_iff.mp h)
    obtain ⟨q, r, hall⟩ := State.wordAccept_carries (samples := samples) written hfree hwords
    have hcross : State.Crossed x s (s.wordAccept x fwd written samples) := State.crossed_wordAccept written
    exact ⟨_, q, r, rfl, hcross.mem, hcross.cores, hcross.others, hall⟩
  · obtain ⟨hmine, hfree⟩ := State.notices_claim (s := s) (x := x) clocked
    refine ⟨fun h => ?_, fun h => ⟨congrArg Host.Outcome.next (hfree h), _, rfl, State.onlyXing_resetNotice.frame, State.onlyXing_resetNotice.others, ?_⟩⟩
    · obtain ⟨hnotice, htimeout⟩ := hmine h
      exact ⟨congrArg Host.Outcome.next hnotice, _, rfl, htimeout⟩
    · obtain ⟨c, hx, hresets, hlost, -⟩ := State.resetNotice_empties h
      rw [hx]
      cases clocked
      · exact ⟨rfl, rfl, rfl, rfl, ⟨rfl, rfl, rfl, rfl, rfl, rfl⟩, hresets, hlost⟩
      · exact ⟨rfl, rfl, rfl, rfl, ⟨rfl, rfl, rfl, rfl, rfl, rfl⟩, hresets, hlost⟩
  · obtain ⟨hstays, hout⟩ := State.restart_claim (s := s) (x := x)
    exact ⟨fun h => congrArg Host.Outcome.next (hstays h), fun h => ⟨_, rfl, hout h⟩⟩

end Sys2Proof.Machine
end

section
/-! PROOF. Self-test: the rota, a block's slice and its verdict, directed tests, and the end of a warm restart (R523-R537). -/

namespace Sys2Proof.Machine.State

variable {s t : State}

/-! ### The rota (R525, R532, R533) -/

theorem settle_same (h : t.stalled = s.stalled) (hf : t.failing = s.failing) {o : Out} (ho : o = .next (s.settle t)) : o = .next t := by
  rw [ho, settle_eq h hf]

theorem liveFrom_of_live {n : Nat} (hn : n < 4608) (h : s.blockRetired (n / 32) = false) : s.liveFrom n = n := by
  have hfind : (List.range 145).find? (fun i => !s.blockRetired ((n / 32 + i) % 144)) = some 0 := by
    refine List.find?_range_eq_some.mpr ⟨?_, by decide, fun j hj => absurd hj (Nat.not_lt_zero j)⟩
    rw [Nat.add_zero, Nat.mod_eq_of_lt (by omega), h]
    rfl
  rw [liveFrom]
  rw [hfind]
  exact Nat.mod_eq_of_lt hn

/-- Where a block is not retired, the rota finds one. -/
theorem blockRetired_liveFrom {c : Nat} (hc : c < 144) (hlive : s.blockRetired c = false) (n : Nat) : s.blockRetired (s.liveFrom n / 32) = false := by
  rw [liveFrom]
  split
  case h_1 hnone =>
    have hmiss := List.find?_eq_none.mp hnone ((c + 144 - n / 32 % 144) % 144) (List.mem_range.mpr (by omega))
    rw [show (n / 32 + (c + 144 - n / 32 % 144) % 144) % 144 = c by omega, hlive] at hmiss
    exact absurd rfl hmiss
  case h_2 hzero =>
    have hfound := List.find?_some hzero
    rw [Nat.add_zero] at hfound
    rw [show n % 4608 / 32 = n / 32 % 144 by omega]
    simpa using hfound
  case h_3 i _ hsome =>
    have hfound := List.find?_some hsome
    rw [Nat.mul_div_cancel_left _ (by decide)]
    simpa using hfound

theorem exec_sliceSchedule : exec .sliceSchedule s = .next s.sliceSchedule := by
  refine settle_same ?_ ?_ rfl <;> rw [sliceSchedule] <;> split <;> [skip; rfl; skip; rfl] <;> dsimp only <;> split <;> rfl

theorem sliceSchedule_frame : s.sliceSchedule = { s with
    bist := { s.bist with wanted := s.sliceSchedule.bist.wanted, pointer := s.sliceSchedule.bist.pointer }, mrs := s.sliceSchedule.mrs } := by
  rw [sliceSchedule]
  split
  · dsimp only
    split <;> rfl
  · rfl

theorem sliceSchedule_requests (hready : s.ready = true) (hlife : s.lifeState ≠ 4) (hctrl : s.regF .bistCtrl [] 0 0 = 1) (hwanted : s.bist.wanted = none)
    (hrunning : s.bist.running = none) (hrestart : s.anyRestart = false) (hlive : s.blockRetired (s.liveFrom s.bist.pointer / 32) = false) :
    s.sliceSchedule.bist.wanted = some (s.liveFrom s.bist.pointer / 32) ∧ s.sliceSchedule.bist.pointer = s.liveFrom s.bist.pointer := by
  rw [sliceSchedule, if_pos (by simp [hready, hlife, hctrl, hwanted, hrunning, hrestart])]
  dsimp only
  rw [if_neg (by simp [hlive])]
  exact ⟨rfl, rfl⟩

theorem sliceSchedule_retired (h : s.blockRetired (s.liveFrom s.bist.pointer / 32) = true) : s.sliceSchedule = s := by
  rw [sliceSchedule]
  split
  · dsimp only
    rw [if_pos h]
  · rfl

theorem sliceSchedule_off (h : s.regF .bistCtrl [] 0 0 = 0) : s.sliceSchedule = s := by
  rw [sliceSchedule, if_neg (by simp [h])]

/-! ### A block is taken (R526) -/

/-- Memories, registers and what the command's end looks at are as before. -/
structure Untested (s t : State) : Prop where
  frame : t = { s with cores := t.cores, bist := t.bist }

theorem Untested.sameMem (h : Untested s t) : SameMem s t := fun pl a => by
  rw [h.frame]
  cases pl <;> rfl

theorem letFire_frame (b : Nat) : s.letFire b = { s with cores := (s.letFire b).cores } :=
  foldl_rel (fun s t : State => t = { s with cores := t.cores }) (fun _ => rfl) (fun h k => by rw [k, h]) _ (fun _ _ => rfl) _ s

theorem untested_letFire (b : Nat) (x : Bist) : Untested s { s.letFire b with bist := x } := ⟨by rw [letFire_frame]⟩

/-- Firing resumes on every core of the block. -/
theorem letFire_fires (b : Nat) : ∀ c ∈ s.coresUnder b, ((s.letFire b).core c).taking = false := by
  have h : ∀ (l : List Nat) (u : State) (c : Nat), c ∈ l ∨ (u.core c).taking = false →
      ((l.foldl (fun (t : State) c => t.modCore c fun k => { k with taking := false }) u).core c).taking = false := by
    intro l
    induction l with
    | nil => exact fun u c h => h.resolve_left List.not_mem_nil
    | cons a l ih =>
      refine fun u c h => ih _ c ?_
      by_cases hca : c = a
      · exact .inr (by rw [hca, core_modCore_self])
      · rw [core_modCore_ne _ _ _ hca]
        exact h.imp_left fun h => (List.mem_cons.mp h).resolve_left hca
  exact fun c hc => h _ s c (.inl hc)

theorem blockTaken_retired {c : Nat} (hw : s.bist.wanted = some c) (h : s.blockRetired c = true) :
    s.blockTaken = { s.letFire c with bist := { s.bist with wanted := none } } := by
  simp only [blockTaken, hw, h, if_true]

theorem blockTaken_waits {c : Nat} (hw : s.bist.wanted = some c) (h : s.blockRetired c = false) (ht : s.takeable c = false) : s.blockTaken = s := by
  simp [blockTaken, hw, h, ht]

theorem blockTaken_takes {c : Nat} (hw : s.bist.wanted = some c) (h : s.blockRetired c = false) (ht : s.takeable c = true)
    (hrunning : s.bist.running = none) (htodo : s.bist.todo = []) (hrestart : s.anyRestart = false) :
    s.blockTaken = ({ s with bist := { s.bist with wanted := none, running := some c } }.seedSlice c (s.bist.pointer % 32)).setRegF .bistStatus [] 0 0 1 := by
  simp [blockTaken, hw, h, ht, bistBusy, hrunning, htodo, hrestart]

theorem exec_blockTaken_of_eq {u : State} (h : s.blockTaken = u) (hst : u.stalled = s.stalled) (hf : u.failing = s.failing) :
    exec .blockTaken s = .next u := by
  have hexec : exec .blockTaken s = .next (s.settle s.blockTaken) := rfl
  rw [hexec, h, settle_eq hst hf]

theorem exec_blockTakeTimeout {c : Nat} (hw : s.bist.wanted = some c) :
    exec .blockTakeTimeout s = .next { s.letFire c with bist := { s.bist with wanted := none } } := by
  have hexec : exec .blockTakeTimeout s = .next (s.settle s.blockTimeout) := rfl
  have hframe := (untested_letFire (s := s) c { s.bist with wanted := none }).frame
  simp only [hexec, blockTimeout, hw]
  rw [settle_eq (by rw [hframe]) (by rw [hframe])]

/-! ### BIST_STATUS (R536) -/

theorem bistStatus_apart (hi lo v hi' lo' : Nat) (hle : lo ≤ hi) (hhi : hi < 64) (hd : hi' < lo ∨ hi < lo') :
    (s.setRegF .bistStatus [] hi lo v).regF .bistStatus [] hi' lo' = s.regF .bistStatus [] hi' lo' :=
  regF_setRegF_apart s _ _ _ _ _ _ _ hle hhi hd

theorem bistStatus_self (hi lo v : Nat) (hle : lo ≤ hi) (hhi : hi < 64) :
    (s.setRegF .bistStatus [] hi lo v).regF .bistStatus [] hi lo = v % 2 ^ (hi + 1 - lo) := regF_setRegF_self s _ _ _ _ _ hle hhi

/-- A verdict stands, and a failed one is counted. -/
theorem sliceVerdict_stands (pass : Bool) :
    s.sliceVerdict pass = { s with mrs := (s.sliceVerdict pass).mrs } ∧
    (s.sliceVerdict pass).regF .bistStatus [] 1 1 = (if pass = true then 1 else 0) ∧
    (s.sliceVerdict pass).regF .bistStatus [] 31 16 =
      (if pass = true then s.regF .bistStatus [] 31 16 else min (s.regF .bistStatus [] 31 16 + 1) 0xFFFF) ∧
    ∀ hi lo, (hi < 1 ∨ 1 < lo) → (hi < 16 ∨ 31 < lo) → (s.sliceVerdict pass).regF .bistStatus [] hi lo = s.regF .bistStatus [] hi lo := by
  cases pass with
  | true =>
    refine ⟨rfl, bistStatus_self _ _ _ (by omega) (by omega), bistStatus_apart _ _ _ _ _ (by omega) (by omega) (by omega), fun hi lo h1 _ => ?_⟩
    exact bistStatus_apart _ _ _ _ _ (by omega) (by omega) h1
  | false =>
    refine ⟨rfl, ?_, ?_, fun hi lo h1 h2 => ?_⟩
    · exact (bistStatus_apart _ _ _ _ _ (by omega) (by omega) (by omega)).trans (bistStatus_self _ _ _ (by omega) (by omega))
    · refine (bistStatus_self _ _ _ (by omega) (by omega)).trans ?_
      rw [bistStatus_apart _ _ _ _ _ (by omega) (by omega) (by omega)]
      exact Nat.mod_eq_of_lt (Nat.lt_of_le_pred (by decide) (Nat.min_le_right _ _))
    · exact (bistStatus_apart _ _ _ _ _ (by omega) (by omega) h2).trans (bistStatus_apart _ _ _ _ _ (by omega) (by omega) h1)

/-! ### A scheduled slice (R523-R527) -/

theorem blockRetired_bistStatus (hi lo v : Nat) {c : Nat} (hc : c < 144) :
    (s.setRegF .bistStatus [] hi lo v).blockRetired c = s.blockRetired c := Spared.blockRetired_setReg (by decide) hc

theorem liveFrom_congr (h : ∀ c < 144, t.blockRetired c = s.blockRetired c) (n : Nat) : t.liveFrom n = s.liveFrom n := by
  have hfind : (fun i => !t.blockRetired ((n / 32 + i) % 144)) = fun i => !s.blockRetired ((n / 32 + i) % 144) :=
    funext fun i => by rw [h _ (Nat.mod_lt _ (by decide))]
  rw [liveFrom, liveFrom, hfind]

theorem blockRetired_sliceVerdict (pass : Bool) {c : Nat} (hc : c < 144) : (s.sliceVerdict pass).blockRetired c = s.blockRetired c := by
  cases pass with
  | true => exact blockRetired_bistStatus _ _ _ hc
  | false => exact (blockRetired_bistStatus _ _ _ hc).trans (blockRetired_bistStatus _ _ _ hc)

/-- P moves on and the block's cores fire again. -/
structure Pointed (n : Nat) (s t : State) : Prop where
  bist : t.bist = { s.bist with pointer := s.liveFrom n }
  frame : t = { s with cores := t.cores, bist := t.bist, mrs := t.mrs, retireA := t.retireA, retireB := t.retireB }
  shown : t.regF .bistStatus [] 47 35 = s.liveFrom n % 8192
  status : ∀ hi lo, hi < 35 → t.regF .bistStatus [] hi lo = s.regF .bistStatus [] hi lo
  retired : ∀ c < 144, t.blockRetired c = s.blockRetired c

theorem pointed_setPointer (n b : Nat) : Pointed n s ((s.setPointer n).letFire b) := by
  set u := s.setPointer n with hu
  have heq := letFire_frame (s := u) b
  have hwrite : ∀ v : State, ∀ k l, v.writeRetire k l = { v with retireA := (v.writeRetire k l).retireA, retireB := (v.writeRetire k l).retireB } :=
    fun v k l => by
      rw [writeRetire]
      split <;> rfl
  obtain ⟨v, hv, hvf⟩ : ∃ v : State, u = v.setRegF .bistStatus [] 47 35 (s.liveFrom n) ∧
      v = { s with bist := { s.bist with pointer := s.liveFrom n }, retireA := v.retireA, retireB := v.retireB } := ⟨_, hu, hwrite _ _ _⟩
  have hvmrs : v.mrs = s.mrs := by rw [hvf]
  have hreg : ∀ id ix, v.reg id ix = s.reg id ix := fun id ix => by rw [reg, hvmrs, reg]
  have hmrs : (u.letFire b).mrs = u.mrs := by rw [heq]
  have hregs : ∀ id ix, (u.letFire b).reg id ix = u.reg id ix := fun id ix => by rw [reg, hmrs, reg]
  have hretired : ∀ {w y : State}, (∀ id ix, w.reg id ix = y.reg id ix) → ∀ c, w.blockRetired c = y.blockRetired c := fun h c => by
    simp only [blockRetired, coreRetired, commonRetired, ingestRetired, regF, h]
  refine ⟨?_, ?_, ?_, fun hi lo hlt => ?_, fun c hc => ?_⟩
  · rw [heq, hv, setRegF_bist, hvf]
  · rw [heq, hv, hvf]
    rfl
  · rw [regF, hregs, ← regF, hv]
    exact bistStatus_self _ _ _ (by omega) (by omega)
  · rw [regF, hregs, ← regF, hv, bistStatus_apart _ _ _ _ _ (by omega) (by omega) (.inl hlt), regF, hreg]
    rfl
  · rw [hretired hregs, hv, blockRetired_bistStatus _ _ _ hc, hretired hreg]

theorem Pointed.sameMem {n : Nat} (h : Pointed n s t) : SameMem s t := fun pl a => by
  rw [h.frame]
  cases pl <;> rfl

theorem sameMem_sliceVerdict (pass : Bool) : SameMem s (s.sliceVerdict pass) := fun pl a => by
  rw [(sliceVerdict_stands pass).1]
  cases pl <;> rfl

theorem sameMem_trans {u : State} (h : SameMem s t) (k : SameMem t u) : SameMem s u := fun pl a => (k pl a).trans (h pl a)

/-- The slice of a taken block is over, and its verdict stands. -/
def sliceOver (s : State) (pass : Bool) : State := ({ s with bist := { s.bist with running := none } }.setRegF .bistStatus [] 0 0 0).sliceVerdict pass

theorem scheduledResult_pass (c : Nat) : ∃ covered, s.scheduledResult c true =
    (({ s.sliceOver true with bist := { s.bist with running := none, covered := covered } } : State).setPointer (s.bist.pointer + 1)).letFire c := by
  by_cases h : s.bist.pointer % 32 = 31
  · refine ⟨s.bist.covered.set c s.tick, ?_⟩
    simp only [scheduledResult, if_true, h, and_self]
    rfl
  · refine ⟨s.bist.covered, ?_⟩
    simp only [scheduledResult, if_true, h, and_false, if_false]
    rfl

theorem scheduledResult_fail (c : Nat) :
    s.scheduledResult c false = (((s.sliceOver false).retireBlock c 1 (s.bist.pointer % 32)).setPointer (s.bist.pointer + 1)).letFire c := by
  simp only [scheduledResult, Bool.false_eq_true, if_false, false_and]
  rfl

/-- What SLICE_RESULT begins with: the signature register as the slice left it. -/
def signed (s : State) (sig : Long) : State := { s with bist := { s.bist with pattern := s.freeLong, signature := sig } }.usedFresh

theorem sliceResult_eq {x : Nat × Nat} (sig : Long) (h : s.underTest = some x) :
    s.sliceResult sig = (s.signed sig).sliceEnds (sig == Config.sliceExpected x.1 x.2) := by
  rw [sliceResult, h]
  rfl

theorem sliceResult_running {c : Nat} (sig : Long) (h : s.bist.running = some c) :
    s.sliceResult sig = (s.signed sig).scheduledResult c (sig == Config.sliceExpected c (s.bist.pointer % 32)) := by
  have hr : (s.signed sig).bist.running = some c := h
  rw [sliceResult_eq (x := (c, s.bist.pointer % 32)) sig (by simp only [underTest, h])]
  simp only [sliceEnds, hr]

theorem sliceResult_directed {k : Nat} {rest : List Nat} (sig : Long) (h : s.bist.running = none) (ht : s.bist.todo = k :: rest) :
    s.sliceResult sig = (s.signed sig).directedResult k rest (sig == Config.sliceExpected s.bist.target k) := by
  have hr : (s.signed sig).bist.running = none := h
  have hk : (s.signed sig).bist.todo = k :: rest := ht
  rw [sliceResult_eq (x := (s.bist.target, k)) sig (by simp only [underTest, h, ht])]
  simp only [sliceEnds, hr, hk]

theorem sliceResult_idle (sig : Long) (h : s.bist.running = none) (ht : s.bist.todo = []) : s.sliceResult sig = s := by
  simp only [sliceResult, underTest, h, ht]

/-- A slice that passes moves P on and changes nothing of the machine but its registers and what its cores may fire. -/
theorem scheduledResult_passes {r : State} (hst : s.stalled = r.stalled) (hf : s.failing = r.failing) (c : Nat) : ∃ t, r.settle (s.scheduledResult c true) = t ∧ t.bist.running = none ∧ t.bist.signature = s.bist.signature ∧
    t.regF .bistStatus [] 0 0 = 0 ∧ t.regF .bistStatus [] 1 1 = 1 ∧ t.regF .bistStatus [] 47 35 = t.bist.pointer % 8192 ∧
    t.bist.pointer = s.liveFrom (s.bist.pointer + 1) ∧ t.regF .bistStatus [] 31 16 = s.regF .bistStatus [] 31 16 ∧
    t.clusters = s.clusters ∧ SameMem s t := by
  obtain ⟨covered, heq⟩ := scheduledResult_pass (s := s) c
  set u := ({ s.sliceOver true with bist := { s.bist with running := none, covered := covered } } : State) with hu
  have hp := pointed_setPointer (s := u) (s.bist.pointer + 1) c
  obtain ⟨hframe, hone, hcount, hrest⟩ :=
    sliceVerdict_stands (s := { s with bist := { s.bist with running := none } }.setRegF .bistStatus [] 0 0 0) true
  have hregs : ∀ hi lo, u.regF .bistStatus [] hi lo = (s.sliceOver true).regF .bistStatus [] hi lo := fun _ _ => rfl
  have hlive : ∀ n, u.liveFrom n = s.liveFrom n := liveFrom_congr fun c hc => (blockRetired_sliceVerdict true hc).trans (blockRetired_bistStatus 0 0 0 hc)
  have hover : s.sliceOver true = { s with bist := { s.bist with running := none }, mrs := (s.sliceOver true).mrs } := hframe
  rw [heq]
  refine ⟨_, rfl, ?_⟩
  rw [settle_eq (by rw [hp.frame, hu, hover]; exact hst) (by rw [hp.frame, hu, hover]; exact hf)]
  refine ⟨by rw [hp.bist], by rw [hp.bist], ?_, ?_, ?_, ?_, ?_, by rw [hp.frame, hu, hover], sameMem_trans ?_ hp.sameMem⟩
  · rw [hp.status _ _ (by omega), hregs, sliceOver, hrest _ _ (.inl (by omega)) (.inl (by omega))]
    exact bistStatus_self _ _ _ (by omega) (by omega)
  · rw [hp.status _ _ (by omega), hregs]
    exact hone
  · rw [hp.shown, hp.bist]
  · rw [hp.bist]
    exact hlive _
  · rw [hp.status _ _ (by omega), hregs, sliceOver, hcount, if_pos rfl]
    exact bistStatus_apart _ _ _ _ _ (by omega) (by omega) (by omega)
  · intro pl a
    rw [hu, hover]
    cases pl <;> rfl

/-- A slice that fails is counted, and its block is retired. -/
theorem scheduledResult_fails {r : State} (hst : s.stalled = r.stalled) {c : Nat} (hc : c < 144) : ∃ t, r.settle (s.scheduledResult c false) = t ∧ t.bist.running = none ∧
    t.bist.signature = s.bist.signature ∧ t.regF .bistStatus [] 0 0 = 0 ∧ t.regF .bistStatus [] 1 1 = 0 ∧
    t.regF .bistStatus [] 47 35 = t.bist.pointer % 8192 ∧ t.blockRetired c = true ∧
    t.regF .bistStatus [] 31 16 = min (s.regF .bistStatus [] 31 16 + 1) 0xFFFF := by
  set v := (s.sliceOver false).retireBlock c 1 (s.bist.pointer % 32) with hv
  have hspared : Spared false true (s.sliceOver false) v := (Spared.refl false true _).retireBlock
  have hp := pointed_setPointer (s := v) (s.bist.pointer + 1) c
  set w := (v.setPointer (s.bist.pointer + 1)).letFire c with hw
  obtain ⟨hframe, hone, hcount, hrest⟩ :=
    sliceVerdict_stands (s := { s with bist := { s.bist with running := none } }.setRegF .bistStatus [] 0 0 0) false
  have hstalled : w.stalled = r.stalled := by
    rw [hp.frame]
    exact (hspared.stalled rfl).trans (by rw [sliceOver, hframe]; exact hst)
  have hend : Spared false true w (r.settle w) := Spared.settled hstalled
  have hbist : v.bist = { s.bist with running := none } := hspared.bist.trans (by rw [sliceOver, hframe]; rfl)
  have hstatus : ∀ hi lo, hi < 35 → (r.settle w).regF .bistStatus [] hi lo = (s.sliceOver false).regF .bistStatus [] hi lo := fun hi lo h => by
    rw [regF, hend.bistStatus, ← regF, hp.status hi lo h, regF, hspared.bistStatus]
    rfl
  rw [scheduledResult_fail]
  refine ⟨_, rfl, ?_, ?_, ?_, ?_, ?_, ?_, ?_⟩
  · rw [hend.bist, hp.bist, hbist]
  · rw [hend.bist, hp.bist, hbist]
  · rw [hstatus _ _ (by omega), sliceOver, hrest _ _ (.inl (by omega)) (.inl (by omega))]
    exact bistStatus_self _ _ _ (by omega) (by omega)
  · rw [hstatus _ _ (by omega)]
    exact hone
  · rw [regF, hend.bistStatus, ← regF, hp.shown, hend.bist, hp.bist]
  · exact hend.retired c hc ((hp.retired c hc).trans (Spared.retireBlock_retires hc))
  · rw [hstatus _ _ (by omega), sliceOver, hcount, if_neg Bool.false_ne_true, bistStatus_apart _ _ _ _ _ (by omega) (by omega) (by omega)]
    rfl

/-! ### A directed test (R527, R535) -/

/-- The slice of a directed test that has failed first, once another has ended. -/
def failedSlice (s : State) (k : Nat) (pass : Bool) : Option Nat := if pass then s.bist.failed else some (s.bist.failed.getD k)

/-- A slice of the directed test is over. -/
def directedOver (s : State) (k : Nat) (rest : List Nat) (pass : Bool) : State :=
  { s with bist := { s.bist with todo := rest, failed := s.failedSlice k pass } }.sliceVerdict pass

theorem directedOver_frame (k : Nat) (rest : List Nat) (pass : Bool) : s.directedOver k rest pass =
    { s with bist := { s.bist with todo := rest, failed := s.failedSlice k pass }, mrs := (s.directedOver k rest pass).mrs } := (sliceVerdict_stands pass).1

theorem directed_goesOn {r : State} (hst : s.stalled = r.stalled) (hf : s.failing = r.failing) (k j : Nat) (l : List Nat) (pass : Bool) : ∃ t, r.settle (s.directedResult k (j :: l) pass) = t ∧ t.bist.todo = j :: l ∧
    t.regF .bistStatus [] 1 1 = (if pass = true then 1 else 0) ∧ t.regF .bistStatus [] 0 0 = s.regF .bistStatus [] 0 0 ∧
    t.clusters = s.clusters ∧ SameMem s t := by
  have heq : s.directedResult k (j :: l) pass = (s.directedOver k (j :: l) pass).seedSlice (s.directedOver k (j :: l) pass).bist.target j := rfl
  have hframe := directedOver_frame (s := s) k (j :: l) pass
  obtain ⟨-, hone, -, hrest⟩ := sliceVerdict_stands (s := { s with bist := { s.bist with todo := j :: l, failed := s.failedSlice k pass } }) pass
  refine ⟨_, rfl, ?_⟩
  rw [heq, settle_eq (by rw [seedSlice, hframe]; exact hst) (by rw [seedSlice, hframe]; exact hf)]
  refine ⟨by rw [seedSlice, hframe], hone, hrest 0 0 (.inl (by omega)) (.inl (by omega)), by rw [seedSlice, hframe], fun pl a => ?_⟩
  rw [seedSlice, hframe]
  cases pl <;> rfl

theorem directed_passes {r : State} (hst : s.stalled = r.stalled) (hf : s.failing = r.failing) (k : Nat) (pass : Bool) (h : s.failedSlice k pass = none) : ∃ t, r.settle (s.directedResult k [] pass) = t ∧ t.bist.todo = [] ∧
    t.regF .bistStatus [] 1 1 = (if pass = true then 1 else 0) ∧ t.regF .bistStatus [] 0 0 = 0 ∧
    t.clusters = s.clusters ∧ t.retireA = s.retireA ∧ t.retireB = s.retireB := by
  have heq : s.directedResult k [] pass = (s.directedOver k [] pass).setRegF .bistStatus [] 0 0 0 := by
    rw [failedSlice] at h
    simp only [directedResult, List.isEmpty_nil, if_true]
    rw [h]
    simp only [directedOver, failedSlice, h]
  have hframe := directedOver_frame (s := s) k [] pass
  obtain ⟨-, hone, -, -⟩ := sliceVerdict_stands (s := { s with bist := { s.bist with todo := [], failed := s.failedSlice k pass } }) pass
  refine ⟨_, rfl, ?_⟩
  rw [heq, settle_eq (by rw [setRegF_stalled, hframe]; exact hst) (by rw [setRegF_failing, hframe]; exact hf)]
  refine ⟨by rw [setRegF_bist, hframe], ?_, bistStatus_self _ _ _ (by omega) (by omega), by rw [setRegF_clusters, hframe], by rw [setRegF_retireA, hframe],
    by rw [setRegF_retireB, hframe]⟩
  rw [bistStatus_apart _ _ _ _ _ (by omega) (by omega) (by omega)]
  exact hone

theorem directed_fails {r : State} (hst : s.stalled = r.stalled) (k i : Nat) (pass : Bool) (h : s.failedSlice k pass = some i) : ∃ t, r.settle (s.directedResult k [] pass) = t ∧
    t.bist.todo = [] ∧ t.regF .bistStatus [] 1 1 = (if pass = true then 1 else 0) ∧ t.regF .bistStatus [] 0 0 = 0 ∧
    (s.bist.target < 144 → t.regF .bistStatus [] 2 2 = 1 ∧ t.blockRetired s.bist.target = true) := by
  set u := ((s.directedOver k [] pass).setRegF .bistStatus [] 0 0 0).flag .bistStatus [] 2 with hu
  have heq : s.directedResult k [] pass = u.retireBlock u.bist.target 2 i := by
    rw [failedSlice] at h
    simp only [directedResult, List.isEmpty_nil, if_true]
    rw [h]
    simp only [hu, directedOver, failedSlice, h]
    rfl
  have hframe := directedOver_frame (s := s) k [] pass
  have hbist : u.bist = { s.bist with todo := [], failed := s.failedSlice k pass } := by rw [hu, flag_eq, setRegF_bist, setRegF_bist, hframe]
  have hspared : Spared false true u (u.retireBlock u.bist.target 2 i) := (Spared.refl false true u).retireBlock
  have hend : Spared false true u (r.settle (u.retireBlock u.bist.target 2 i)) := hspared.trans (Spared.settled (by
    rw [hspared.stalled rfl, hu, flag_eq, setRegF_stalled, setRegF_stalled, hframe]; exact hst))
  obtain ⟨-, hone, -, -⟩ := sliceVerdict_stands (s := { s with bist := { s.bist with todo := [], failed := s.failedSlice k pass } }) pass
  have hstatus : ∀ hi lo, (r.settle (u.retireBlock u.bist.target 2 i)).regF .bistStatus [] hi lo = u.regF .bistStatus [] hi lo := fun hi lo => by
    rw [regF, hend.bistStatus, ← regF]
  rw [heq]
  refine ⟨_, rfl, by rw [hend.bist, hbist], ?_, ?_, fun ht => ⟨?_, ?_⟩⟩
  · rw [hstatus, hu, flag_eq, bistStatus_apart _ _ _ _ _ (by omega) (by omega) (by omega), bistStatus_apart _ _ _ _ _ (by omega) (by omega) (by omega)]
    exact hone
  · rw [hstatus, hu, flag_eq, bistStatus_apart _ _ _ _ _ (by omega) (by omega) (by omega)]
    exact bistStatus_self _ _ _ (by omega) (by omega)
  · rw [hstatus, hu, flag_eq]
    exact bistStatus_self _ _ _ (by omega) (by omega)
  · have htarget : u.bist.target = s.bist.target := by rw [hbist]
    rw [htarget] at hspared ⊢
    exact (Spared.settled (by rw [hspared.stalled rfl, hu, flag_eq, setRegF_stalled, setRegF_stalled, hframe]; exact hst)).retired _ ht (Spared.retireBlock_retires ht)

/-! ### The end of a warm restart (R528, R529) -/

/-- No cluster's restart begins or ends, and no array is found failing. -/
structure Placed (s t : State) : Prop where
  failing : t.failing = s.failing
  restarting : ∀ c, (t.cl c).restarting = (s.cl c).restarting

namespace Placed

variable {r : State}

theorem refl (s : State) : Placed s s := ⟨rfl, fun _ => rfl⟩

/-- What moves neither. -/
theorem same {out waitOut mrs cores place load sessions off keeper hbm} (h : Placed r s) :
    Placed r { s with out, waitOut, mrs, cores, place, load, sessions, off, keeper, hbm } := ⟨h.failing, h.restarting⟩

theorem ite {p : Prop} [Decidable p] (h : Placed r s) (k : Placed r t) : Placed r (if p then s else t) := by
  split
  · exact h
  · exact k

theorem foldl {α : Type} {f : State → α → State} {l : List α} (h : Placed r s) (hf : ∀ {u a}, Placed r u → Placed r (f u a)) : Placed r (l.foldl f s) := by
  induction l generalizing s with
  | nil => exact h
  | cons a l ih => exact ih (hf h)

theorem setReg {id ix v} (h : Placed r s) : Placed r (s.setReg id ix v) := h.same

theorem record {severity code part unit step addr detail} (h : Placed r s) : Placed r (s.record severity code part unit step addr detail) := by
  rw [record_frame s severity code part unit step addr detail]
  exact h.same

theorem clearRegs {l} (h : Placed r s) : Placed r (s.clearRegs l) := h.foldl fun h => h.setReg

theorem wakeHbm {k} (h : Placed r s) : Placed r (s.wakeHbm k) := ite (setReg (setReg (setReg (same (same h))))) h

theorem wakeHbms (h : Placed r s) : Placed r s.wakeHbms := h.foldl fun h => h.wakeHbm

theorem wakeCommon {cl} (h : Placed r s) : Placed r (s.wakeCommon cl) := by
  refine ite (clearRegs ⟨h.failing, fun c => ?_⟩) h
  refine Eq.trans ?_ (h.restarting c)
  by_cases hc : c = cl
  · rw [hc, cl_modCl_self]
    rfl
  · rw [cl_modCl_ne _ _ _ hc]
    rfl

theorem wakeIngest {cl} (h : Placed r s) : Placed r (s.wakeIngest cl) := ite (clearRegs h.same) h

theorem wakeCore {c} (h : Placed r s) : Placed r (s.wakeCore c) := ite ((clearRegs h.same).foldl fun h => h.setReg) h

theorem wakeFor {c} (h : Placed r s) : Placed r (s.wakeFor c) := h.wakeHbms.wakeCommon.wakeIngest.wakeCore

theorem moveOwner {id ix old new} (h : Placed r s) : Placed r (s.moveOwner id ix old new) := ite h.setReg h

theorem moveHeld {l old new} (h : Placed r s) : Placed r (s.moveHeld l old new) :=
  ((foldl h.same fun h => ite h.setReg.setReg h.setReg).foldl fun h => h.moveOwner).foldl fun h => h.moveOwner

theorem moveSel {old new} (h : Placed r s) : Placed r (s.moveSel old new) := (h.clearRegs.foldl fun h => h.setReg).setReg

theorem moveCores {skip} (h : Placed r s) : Placed r (s.moveCores skip) := by
  refine h.foldl fun h => ?_
  split
  · exact same (moveSel (ite h.wakeFor.moveHeld h))
  · exact h

theorem reportReduced (h : Placed r s) : Placed r s.reportReduced := record h.same

theorem placeAgain (h : Placed r s) : Placed r s.placeAgain := by
  unfold State.placeAgain
  split
  · exact h
  · split
    · exact h.moveCores
    · exact ite h.reportReduced (reportReduced (foldl h.same fun h => h.setReg))

end Placed

/-- Where no logical core must move, nothing is placed again. -/
theorem placeAgain_still (hstand : s.standBad s.minCores s.ingestUsed = []) (hplace : ∀ q ∈ s.place, s.coreRetired q.2 = false) : s.placeAgain = s := by
  have hnone : s.place.filter (fun q => s.coreRetired q.2 && !s.waitingCore q.1) = [] := List.filter_eq_nil_iff.mpr fun q hq => by simp [hplace q hq]
  rw [placeAgain]
  split
  · rfl
  · rw [hstand]
    simp only [List.min?_nil, moveCores, hnone, List.foldl_nil]

/-- The cluster out of its restart. -/
def restarted (s : State) (cl : Nat) : State := (s.modCl cl fun k => { k with restarting := false }).clusterBack cl

theorem exec_warmRestartEnd (cl : ClusterId) (h : (s.cl cl).restarting = true) : exec (.warmRestartEnd cl) s = .next (s.restarted cl).placeAgain := by
  have heq : s.restartEnd cl = (s.restarted cl).placeAgain := if_pos h
  have hexec : exec (.warmRestartEnd cl) s = .next (s.settle (s.restartEnd cl)) := rfl
  have hstalled : (s.restarted cl).placeAgain.stalled = s.stalled := (Spared.refl false true (s.restarted cl)).placeAgain.stalled rfl
  have hfailing : (s.restarted cl).placeAgain.failing = s.failing := (Placed.refl (s.restarted cl)).placeAgain.failing
  rw [hexec, heq, settle_eq hstalled hfailing]

theorem restarting_placed (cl : Nat) : ((s.restarted cl).placeAgain.cl cl).restarting = false := by
  rw [(Placed.refl _).placeAgain.restarting]
  have hcl : (s.restarted cl).cl cl = (s.modCl cl fun k => { k with restarting := false }).cl cl := rfl
  rw [hcl, cl_modCl_self]

theorem restarted_placeAgain (cl : Nat) (hstand : s.standBad s.minCores s.ingestUsed = []) (hplace : ∀ q ∈ s.place, s.coreRetired q.2 = false) :
    (s.restarted cl).placeAgain = s.restarted cl := placeAgain_still hstand hplace

/-! ### Overdue blocks and directed tests (R526, R532, R535) -/

theorem getLast?_log_unit (severity code : Nat) (part : Option Nat) (unit : Nat) (step : Option Word) (addr : Option Nat) (detail : List Byte) :
    ((s.record severity code part unit step addr detail).keeper.log.getLast?).map (fun r => (r.code, r.unit)) = some (code, unit) := by
  obtain ⟨r, hlog, hr⟩ : ∃ r : ErrRec, (s.record severity code part unit step addr detail).keeper.log =
      (s.keeper.log ++ [r]).drop (s.keeper.log.length - 65535) ∧ (r.code, r.unit) = (code, unit) := by
    refine ⟨⟨(s.keeper.seq + 1) % 2 ^ 32, severity, code, s.tick, part, unit, step, addr, detail⟩, ?_, rfl⟩
    simp only [record]
    split
    · rw [keeper_setRegF, keeper_setRegF]
    · rw [keeper_event, keeper_setRegF, keeper_setRegF]
  rw [hlog, List.drop_append_of_le_length (Nat.sub_le _ _), List.getLast?_append]
  exact congrArg some hr

theorem overdue_flags (c : Nat) (h : eightHours ≤ (s.tick - s.bist.covered.get 0 c).toNat ∧ s.blockRetired c = false) : ∃ t,
    s.settle (s.overdue c) = t ∧ t.regF .bistStatus [] 3 3 = 1 ∧ SameMem s t ∧ t.cores = s.cores ∧
      (t.keeper.log.getLast?).map (fun r => (r.code, r.unit)) = some (0x0005, c) := by
  have heq : s.overdue c = (s.flag .bistStatus [] 3).record 0 0x0005 none c none none (beBytes 2 c) := if_pos h
  have hkept := memKept_of_reports (record_frame (s.flag .bistStatus [] 3) 0 0x0005 none c none none (beBytes 2 c))
  have hsame : s.settle (s.overdue c) = s.overdue c := by
    rw [heq, record_frame (s.flag .bistStatus [] 3) ..]
    exact settle_eq rfl rfl
  refine ⟨_, rfl, ?_⟩
  rw [hsame, heq]
  refine ⟨?_, hkept.sameMem, cores_record .., getLast?_log_unit ..⟩
  rw [regF, ((Spared.refl false true _).record).bistStatus, ← regF, flag_eq]
  exact bistStatus_self _ _ _ (by omega) (by omega)

/-- A write of BIST_CTRL with GO that R532 or R535 refuses. -/
def testRefused (s : State) (c : Nat) : Prop :=
  (s.lifeState = 4 ∨ 143 < c) ∨ (s.lifeState = 1 ∨ s.lifeState = 2) ∨
    ((s.coresUnder c).isEmpty = false ∨ (136 ≤ c ∧ s.ingestUsed (c - 136) = true) ∨ s.blockRetired c = true ∨ s.bistBusy = true)

theorem getF_go (v : Long) {hi lo : Nat} (h : hi < 1 ∨ 1 < lo) : getF (setF v 1 1 1) hi lo = getF v hi lo :=
  getF_setF_apart _ _ _ _ _ _ (by omega) (by omega) h

theorem getF_go_self (v : Long) : getF (setF v 1 1 1) 1 1 = 1 := getF_setF_self _ _ _ _ (by omega) (by omega)

theorem directedSlices_go (v : Long) : directedSlices (setF v 1 1 1) = directedSlices v := by
  simp only [directedSlices, getF_go v (.inr (by decide : 1 < 3)), getF_go v (.inr (by decide : 1 < 8)), getF_go v (.inr (by decide : 1 < 24))]

/-- The state in which a directed test begins. -/
def testBegun (s : State) (v : Long) : State :=
  ({ s.plainWrite .bistCtrl [] (setF v 1 1 1) with
    bist := { s.bist with target := getF v 23 16, todo := directedSlices v, failed := none } }.seedSlice (getF v 23 16)
      ((directedSlices v).headD 0)).setRegF .bistStatus [] 0 0 1

theorem bist_plainWrite (id : RegId) (ix : List Nat) (v : Long) : (s.plainWrite id ix v).bist = s.bist := by
  rw [plainWrite]
  split <;> rfl

theorem wrBistCtrl_refused {v : Long} (h : s.testRefused (getF v 23 16)) : s.wrBistCtrl (setF v 1 1 1) = none := by
  rw [wrBistCtrl]
  dsimp only
  rw [getF_go v (.inr (by decide : 1 < 16)), getF_go_self]
  split
  · rfl
  next hlive =>
    split
    · rfl
    next hopen =>
      rw [if_neg (by decide), if_pos]
      exact (h.resolve_left hlive).resolve_left fun h => hopen ⟨h, rfl⟩

theorem wrBistCtrl_begins {v : Long} (h : ¬ s.testRefused (getF v 23 16)) : s.wrBistCtrl (setF v 1 1 1) = some (s.testBegun v) := by
  rw [wrBistCtrl]
  dsimp only
  rw [getF_go v (.inr (by decide : 1 < 16)), getF_go_self, directedSlices_go, if_neg fun k => h (.inl k), if_neg fun k => h (.inr (.inl k.1)),
    if_neg (by decide), if_neg fun k => h (.inr (.inr k)), bist_plainWrite]
  rfl

theorem exec_directedTest_refused {v : Long} (h : s.romOnly = true ∨ s.testRefused (getF v 23 16)) : exec (.bistDirectedTest v) s = .next s.accessErr := by
  have hexec : exec (.bistDirectedTest v) s = .next (s.wroteAt .bistCtrl [] (s.wrBistCtrl (setF v 1 1 1))) := rfl
  rw [hexec]
  rcases h with h | h
  · rw [wroteAt_of_unreachable (.inr h)]
  · rw [wrBistCtrl_refused h, wroteAt_none]

theorem exec_directedTest_begins {v : Long} (hrom : s.romOnly = false) (h : ¬ s.testRefused (getF v 23 16)) :
    exec (.bistDirectedTest v) s = .next (s.testBegun v) := by
  have hexec : exec (.bistDirectedTest v) s = .next (s.wroteAt .bistCtrl [] (s.wrBistCtrl (setF v 1 1 1))) := rfl
  rw [hexec, wrBistCtrl_begins h, wroteAt_of_reachable (by simp [unreachable, RegId.row]) hrom]
  rfl

theorem headD_replicate_flatten {α : Type} (n : Nat) (l : List α) (d : α) (h : l ≠ []) : (List.replicate (n + 1) l).flatten.headD d = l.headD d := by
  rw [List.replicate_succ, List.flatten_cons]
  cases l with
  | nil => exact absurd rfl h
  | cons a l => rfl

theorem directedSlices_head (v : Long) : (directedSlices v).headD 0 = if getF v 8 8 = 1 then 0 else getF v 7 3 := by
  rw [directedSlices]
  rw [headD_replicate_flatten _ _ _ (by split <;> simp)]
  split
  · rfl
  · rfl

theorem untested_plainWrite (id : RegId) (ix : List Nat) (v : Long) : SameMem s (s.plainWrite id ix v) ∧ (s.plainWrite id ix v).cores = s.cores := by
  rw [plainWrite]
  split
  · exact ⟨fun _ _ => rfl, rfl⟩
  · refine ⟨fun pl a => ?_, rfl⟩
    cases pl <;> rfl

/-! ### The claim -/

theorem slicesAreTested : Claims.SlicesAreTested := by
  intro s
  refine ⟨⟨_, exec_sliceSchedule, sliceSchedule_frame, ⟨sliceSchedule_requests, sliceSchedule_retired⟩, sliceSchedule_off⟩,
    fun n => ⟨liveFrom_of_live, fun ⟨c, hc, hlive⟩ => blockRetired_liveFrom hc hlive n⟩, fun hw => ?_, fun c hw => ?_, fun c sig hrun hc => ?_,
    fun hrun htodo sig => ?_, fun k rest sig hrun htodo => ?_, fun cl => ?_, fun c => ?_, fun v => ?_⟩
  · have htaken : s.blockTaken = s := by simp only [blockTaken, hw]
    have htimeout : s.blockTimeout = s := by simp only [blockTimeout, hw]
    exact ⟨exec_blockTaken_of_eq htaken rfl rfl, settle_same (s := s) (t := s) rfl rfl (congrArg (fun u => Host.Outcome.next (s.settle u)) htimeout)⟩
  · have hfire := untested_letFire (s := s) c { s.bist with wanted := none }
    refine ⟨fun hr => ⟨_, exec_blockTaken_of_eq (blockTaken_retired hw hr) (by rw [hfire.frame]) (by rw [hfire.frame]), rfl, by rw [hfire.frame],
        hfire.sameMem⟩,
      fun hr ht => exec_blockTaken_of_eq (blockTaken_waits hw hr ht) rfl rfl,
      fun hr ht hrun htodo hrestart => ⟨_, exec_blockTaken_of_eq (blockTaken_takes hw hr ht hrun htodo hrestart) rfl rfl, rfl,
        bistStatus_self _ _ _ (by omega) (by omega), rfl, fun pl a => by cases pl <;> rfl⟩,
      ⟨_, exec_blockTakeTimeout hw, rfl, by rw [hfire.frame], hfire.sameMem, letFire_fires c⟩⟩
  · have hexec : exec (.sliceResult sig) s = .next (s.settle ((s.signed sig).scheduledResult c (sig == Config.sliceExpected c (s.bist.pointer % 32)))) :=
      congrArg (fun u => Host.Outcome.next (s.settle u)) (sliceResult_running sig hrun)
    rw [hexec]
    cases sig == Config.sliceExpected c (s.bist.pointer % 32) with
    | true =>
      obtain ⟨t, ht, hnone, hsig, hbusy, hpass, hshown, hpointer, hcount, hclusters, hmem⟩ := scheduledResult_passes (s := s.signed sig) (r := s) rfl rfl c
      exact ⟨t, congrArg _ ht, hnone, hsig, hbusy, hpass, hshown, fun _ => ⟨hpointer, hcount, hclusters, hmem⟩, fun h => absurd h.symm Bool.false_ne_true⟩
    | false =>
      obtain ⟨t, ht, hnone, hsig, hbusy, hfail, hshown, hretired, hcount⟩ := scheduledResult_fails (s := s.signed sig) (r := s) rfl hc
      exact ⟨t, congrArg _ ht, hnone, hsig, hbusy, hfail, hshown, fun h => absurd h Bool.false_ne_true, fun _ => ⟨hretired, hcount⟩⟩
  · exact settle_same (s := s) (t := s) rfl rfl (congrArg (fun u => Host.Outcome.next (s.settle u)) (sliceResult_idle sig hrun htodo))
  · have hexec : exec (.sliceResult sig) s = .next (s.settle ((s.signed sig).directedResult k rest (sig == Config.sliceExpected s.bist.target k))) :=
      congrArg (fun u => Host.Outcome.next (s.settle u)) (sliceResult_directed sig hrun htodo)
    rw [hexec]
    set pass := sig == Config.sliceExpected s.bist.target k
    cases rest with
    | cons j l =>
      obtain ⟨t, ht, htodo, hpass, hbusy, hclusters, hmem⟩ := directed_goesOn (s := s.signed sig) (r := s) rfl rfl k j l pass
      exact ⟨t, congrArg _ ht, htodo, hpass, fun _ => ⟨hbusy, hclusters, hmem⟩, fun h => absurd h (List.cons_ne_nil _ _), fun h => absurd h (List.cons_ne_nil _ _),
        fun h => absurd h (List.cons_ne_nil _ _)⟩
    | nil =>
      cases hbad : (s.signed sig).failedSlice k pass with
      | none =>
        obtain ⟨t, ht, htodo, hpass, hbusy, hclusters, hA, hB⟩ := directed_passes (s := s.signed sig) (r := s) rfl rfl k pass hbad
        refine ⟨t, congrArg _ ht, htodo, hpass, fun h => absurd rfl h, fun _ => hbusy, fun _ _ _ => ⟨hclusters, hA, hB⟩, fun _ hfail _ => ?_⟩
        rw [failedSlice] at hbad
        obtain hfail | hfail := hfail
        · simp [hfail] at hbad
        · split at hbad
          · exact absurd hbad hfail
          · exact nomatch hbad
      | some i =>
        obtain ⟨t, ht, htodo, hpass, hbusy, hretired⟩ := directed_fails (s := s.signed sig) (r := s) rfl k i pass hbad
        refine ⟨t, congrArg _ ht, htodo, hpass, fun h => absurd rfl h, fun _ => hbusy, fun _ hp hnone => ?_, fun _ _ h => hretired h⟩
        rw [failedSlice, if_pos hp] at hbad
        exact nomatch hnone.symm.trans hbad
  · refine ⟨fun h => settle_same (s := s) (t := s) rfl rfl ?_, fun h => ⟨_, exec_warmRestartEnd cl h, restarting_placed cl, fun hstand hplace => ?_⟩⟩
    · have heq : s.restartEnd cl = s := if_neg (by simp [h])
      exact congrArg (fun u => Host.Outcome.next (s.settle u)) heq
    · rw [restarted_placeAgain _ hstand hplace]
      rfl
  · refine ⟨fun h => settle_same (s := s) (t := s) rfl rfl ?_, fun h => ?_⟩
    · have heq : s.overdue c = s := if_neg h
      exact congrArg (fun u => Host.Outcome.next (s.settle u)) heq
    · obtain ⟨t, ht, hflag, hmem, hcores, hlog⟩ := overdue_flags (s := s) c h
      exact ⟨t, congrArg _ ht, hflag, hmem, hcores, hlog⟩
  · refine ⟨fun h => ⟨_, exec_directedTest_refused ?_, onlyRegs_accessErr s, sameRegsBut_accessErr s, regF_accessErr_count s⟩,
      fun hrom hlife hle hcores hingest hretired hrun htodo => ⟨_, exec_directedTest_begins hrom ?_, ?_⟩⟩
    · rcases h with h | h | h | h | h | h | h | h | h
      · exact .inl h
      · exact .inr (.inl (.inl h))
      · exact .inr (.inr (.inl (.inl h)))
      · exact .inr (.inr (.inl (.inr h)))
      · exact .inr (.inl (.inr h))
      · exact .inr (.inr (.inr (.inl (by simpa using h))))
      · exact .inr (.inr (.inr (.inr (.inr (.inl h)))))
      · exact .inr (.inr (.inr (.inr (.inr (.inr (by simp [bistBusy, h]))))))
      · exact .inr (.inr (.inr (.inr (.inr (.inr (by simp [bistBusy, h]))))))
    · rintro ((h | h) | (h | h) | h | ⟨h136, h⟩ | h | h)
      · rcases hlife with hlife | hlife <;> omega
      · omega
      · rcases hlife with hlife | hlife <;> omega
      · rcases hlife with hlife | hlife <;> omega
      · simp [hcores] at h
      · exact absurd h (by simp [hingest h136])
      · exact absurd h (by simp [hretired])
      · simp [bistBusy, hrun, htodo] at h
    · obtain ⟨hmem, hcoresSame⟩ := untested_plainWrite (s := s) .bistCtrl [] (setF v 1 1 1)
      refine ⟨bistStatus_self _ _ _ (by omega) (by omega), ?_, fun pl a => Eq.trans ?_ (hmem pl a), hcoresSame⟩
      · rw [testBegun, setRegF_bist, seedSlice, directedSlices_head]
        rfl
      · cases pl <;> rfl

end Sys2Proof.Machine.State

open Sys2Proof Sys2Proof.Machine

/-- Settles O59: the crossings by what a fill and a sample do to one direction, self-test by what a block's retirement spares. -/
theorem crossingsAndSelfTest : Obligations.CrossingsAndSelfTest := ⟨crossingsCarryAndReset, State.slicesAreTested⟩
end

section
/-! SUPPORT. Sessions and queue pairs end (R401, R404): where no word or granule is in error, none comes to be in error by it. -/

namespace Sys2Proof.Machine.State

variable {r s t : State}

/-- What goes on without an error: none comes to be, and no block fails. -/
structure Calm (s t : State) : Prop where
  clean : Clean t
  failing : t.failing = s.failing

namespace Calm

theorem of_clean (h : Clean s) : Calm s s := ⟨h, rfl⟩

theorem serene (h : Calm r s) (k : Serene s t) : Calm r t := ⟨k.clean, k.failing.trans h.failing⟩

/-- A step that leaves the memories, the crossings, the failing blocks and every register of SLU_HEAT as they are. -/
theorem beside (h : Calm r s) (hv : t.errorView = s.errorView) (hf : t.failing = s.failing) (hh : HeatKept s t) : Calm r t :=
  ⟨h.clean.of_view hv hh, hf.trans h.failing⟩

theorem foldl {α : Type} {f : State → α → State} {l : List α} (h : Calm r s) (hf : ∀ {u a}, Calm r u → Calm r (f u a)) :
    Calm r (l.foldl f s) :=
  List.foldlRecOn l f h fun _ hu _ _ => hf hu

theorem setRegF {id : RegId} {ix : List Nat} {hi lo v : Nat} (h : Calm r s) (ha : id.row.addr ix % 0x80000 ≠ 0) :
    Calm r (s.setRegF id ix hi lo v) :=
  h.beside rfl rfl (heatKept_setRegF ha hi lo v)

theorem granules {slow : Bool} {a n : Nat} (h : Calm r s) : Calm r (s.granules slow a n) := by
  have hc := granules_frame s slow a n
  rw [Counts] at hc
  exact h.beside (by rw [hc]; rfl) (by rw [hc]) (heatKept_granules slow a n)

theorem qpOut {qpn : Nat} {w : RoceOut} (h : Calm r s) : Calm r (s.qpOut qpn w) := by
  rw [State.qpOut]
  split
  · exact h.beside rfl rfl (heatKept_of_mrs rfl)
  · exact h

theorem serviceRead {kind : Nat} {slow : Bool} {a n : Nat} (h : Calm r s) : Calm r (s.serviceRead kind slow a n).1 := by
  have hread : (s.serviceRead kind slow a n).1 = s.granules slow a n := by
    simp only [State.serviceRead, tierRead, marksIn_clean _ _ _ (h.clean.calm.tier slow), h.clean.calm.touch, List.filter_nil, List.map_nil,
      List.foldl_nil, List.isEmpty_nil, if_true]
  rw [hread]
  exact h.granules

theorem servicePieces {kind : Nat} {l : List Piece} (h : Calm r s) : Calm r (s.servicePieces kind l).1 := by
  refine List.foldlRecOn (motive := fun acc : State × List (Option Byte) × List Nat => Calm r acc.1) l _ h fun acc hacc p _ => ?_
  dsimp only
  split
  · exact hacc.serviceRead
  · exact hacc

theorem regionBytes {pages : List Page} {f : Ferry} {x : Nat × Nat × Long × Word} (h : Calm r s) : Calm r (s.regionBytes pages f x).1 := by
  refine List.foldlRecOn (motive := fun acc : State × List Byte × Nat => Calm r acc.1) _ _ h fun acc hacc b _ => ?_
  dsimp only
  split
  · exact hacc
  · exact hacc.servicePieces

theorem ferryReads {pages : List Page} {f : Ferry} {n : Nat} (h : Calm r s) : Calm r (s.ferryReads pages f n).1 :=
  List.foldlRecOn (motive := fun acc : State × List Byte × Nat => Calm r acc.1) _ _ h fun _ hacc _ _ => hacc.regionBytes

theorem sendRegions {pages : List Page} {f : Ferry} {n : Nat} (h : Calm r s) : Calm r (s.sendRegions pages f n).1 :=
  List.foldlRecOn (motive := fun acc : State × List Byte => Calm r acc.1) _ _ h.ferryReads fun _ hacc _ _ => hacc.qpOut

theorem storeFrom {c uid : Nat} {ext : List Span} {l : List Piece} {bs : List Byte} (h : Calm r s) :
    Calm r (s.storeFrom c uid ext l bs).1 ∧ (s.storeFrom c uid ext l bs).2 = none := by
  induction l generalizing s bs with
  | nil => exact ⟨h, rfl⟩
  | cons p l ih =>
    have hrun := storeRun_serenely (c := c) h.clean uid p.place p.addr (bs.take p.len)
    have hname : Serene _ ((s.storeRun c uid p.place p.addr (bs.take p.len)).1.nameHeld s.held.length p ext) :=
      serene_modHeld hrun.serene.clean _ fun _ => rfl
    obtain ⟨hrest, hbad⟩ := ih (bs := bs.drop p.len) ((h.serene hrun.serene).serene hname)
    rw [State.storeFrom, hrun.bad]
    exact ⟨hrest, hbad⟩

theorem record {severity code : Nat} {part : Option Nat} {unit : Nat} {step : Option Word} {addr : Option Nat} {detail : List Byte} (h : Calm r s) :
    Calm r (s.record severity code part unit step addr detail) := by
  have hr := record_frame s severity code part unit step addr detail
  rw [Reports] at hr
  exact h.beside (by rw [hr]; rfl) (by rw [hr])
    (heatKept_of_sameRegsBut (readyStands_record severity code part unit step addr detail).regs (by decide))

/-! ### Exports and SAVEs of a queue pair (R442, R457) -/

/-- Without an error the trailer of an export is stored, and its instruction is done. -/
theorem ferryOver {im : PartImg} {f : Ferry} {status bytes : Nat} (h : Calm r s) : Calm r (s.ferryOver im f status bytes) := by
  unfold State.ferryOver
  extract_lets u w v
  have hu : Calm r u := h.beside rfl rfl (heatKept_of_mrs rfl)
  obtain ⟨hw, hbad⟩ := hu.storeFrom (c := f.core) (uid := f.uid) (ext := spansOf (piecesOf im.pages 1 (f.listVa + 16) 48))
    (l := piecesOf im.pages 1 (f.listVa + 16) 48) (bs := ferryTrailer f status bytes false)
  have hcount : Calm r (w.1.bumpBy .ferryStatus [] 47 32 f.damaged) := hw.setRegF (by decide)
  have hfree : Calm r ((w.1.bumpBy .ferryStatus [] 47 32 f.damaged).unbound f.core f.uid) := hcount.beside rfl rfl (heatKept_of_mrs rfl)
  have hv : Calm r v := hfree.serene (serene_releaseLoad hcount.clean f.uid)
  have hdone := hv.serene (serene_setPhase (c := f.core) hv.clean f.uid .done)
  have hnone : w.2 = none := hbad
  rw [hnone]
  exact hdone.serene (serene_waitHeld hdone.clean f.uid)

theorem ferryAbort {p : Nat} (h : Calm r s) : Calm r (s.ferryAbort p) := by
  rw [State.ferryAbort]
  split
  · next f im _ _ =>
    dsimp only
    refine (ferryOver (setRegF ?_ (by decide))).beside rfl rfl (heatKept_of_mrs rfl)
    have hsend := (h.beside (t := s.usedFresh) rfl rfl (heatKept_usedFresh s)).sendRegions (pages := im.pages) (f := f)
      (n := f.sent.length + 64 * (s.freeLong.toNat % ((sumN (f.regions.map fun r => r.2.1) - f.sent.length) / 64 + 1)))
    split
    · exact hsend.qpOut
    · exact hsend
  · exact h

theorem savesFailed {qpn : Nat} (h : Calm r s) : Calm r (s.savesFailed qpn) :=
  h.foldl fun {u v} h => by
    have hrec : Calm r (u.storeFailed v.part qpn v.step) := h.record
    have hend := hrec.beside (t := { u.storeFailed v.part qpn v.step with
      saves := (u.storeFailed v.part qpn v.step).saves.filter fun (w : Save) => !(decide (w.core = v.core ∧ w.uid = v.uid)) }) rfl rfl
      (heatKept_of_mrs rfl)
    exact hend.serene (serene_setPhase (c := v.core) hend.clean v.uid .done)

theorem qpsFail {bad : Qp → Bool} (h : Calm r s) : Calm r (s.qpsFail bad) := by
  unfold State.qpsFail
  extract_lets hit u v
  have hu : Calm r u := h.beside rfl rfl (heatKept_of_mrs rfl)
  have hv : Calm r v := hu.foldl fun h => h.ferryAbort
  exact hv.foldl fun h => h.savesFailed

theorem qpsClose {bad : Qp → Bool} (h : Calm r s) : Calm r (s.qpsClose bad) := h.qpsFail.beside rfl rfl (heatKept_of_mrs rfl)

theorem endSession {sid : Word} (h : Calm r s) : Calm r (s.endSession sid) :=
  (h.beside (t := { s with sessions := s.sessions.filter fun x => x.id != sid }) rfl rfl (heatKept_of_mrs rfl)).qpsClose

end Calm

end Sys2Proof.Machine.State
end

section
/-! PROOF. Sessions open, close, and resend (O48; R403-R405, R424). -/

namespace Sys2Proof.Machine.State

variable {s : State}

/-! ### A session ends (R404) -/

/-- The state with one session and its queue pairs gone. -/
def withoutSession (s : State) (sid : Word) : State :=
  { s with sessions := s.sessions.filter fun x => x.id != sid
           qps := (s.qps.map fun q => if q.session == sid then { q with err := true } else q).filter fun q => !(q.session == sid) }

/-- The queue pairs of a state replaced. -/
theorem spared_setQps {q b : Bool} {r t : State} (h : Spared q b r t) (l : List Qp) : Spared q b { r with qps := l } { t with qps := l } :=
  ⟨h.ids, rfl, h.regions, h.load, h.life, h.bist, h.job, h.ports, h.paused, h.calm, h.ready, h.running, h.retired, h.stalled, h.quiet⟩

theorem spared_qpsFail {q b : Bool} (bad : Qp → Bool) :
    Spared q b { s with qps := s.qps.map fun q => if bad q then { q with err := true } else q } (s.qpsFail bad) := by
  unfold qpsFail
  extract_lets hit u v
  have hv : Spared q b u v := (Spared.refl q b u).foldl fun h => h.ferryAbort
  exact hv.foldl fun h => h.savesFailed

theorem spared_endSession {q b : Bool} (sid : Word) : Spared q b (s.withoutSession sid) (s.endSession sid) := by
  have h := spared_qpsFail (q := q) (b := b) (s := { s with sessions := s.sessions.filter fun x => x.id != sid }) fun q => q.session == sid
  have hqps := h.qps
  unfold endSession qpsClose
  simp only [hqps, Bool.and_self]
  exact spared_setQps h _

theorem ids_of_spared_withoutSession {q b : Bool} {t : State} {sid : Word} (h : Spared q b (s.withoutSession sid) t) :
    ∀ y ∈ t.sessions, y.id ≠ sid := by
  intro y hy
  have hmem : y.id ∈ (s.withoutSession sid).sessions.map (·.id) := h.ids ▸ List.mem_map_of_mem hy
  obtain ⟨x, hx, hid⟩ := List.mem_map.mp hmem
  rw [← hid]
  simpa using (List.mem_filter.mp hx).2

theorem qps_of_spared_withoutSession {q b : Bool} {t : State} {sid : Word} (h : Spared q b (s.withoutSession sid) t) :
    ∀ y ∈ t.qps, y.session ≠ sid := by
  rw [h.qps]
  intro y hy
  simpa using (List.mem_filter.mp hy).2

/-- The session that the module closes is gone, whatever comes of the exports and SAVEs over its queue pairs. -/
theorem spared_dropSession {x : Session} {sid : Word} (hx : s.sess? sid = some x) : Spared false true (s.withoutSession sid) (s.dropSession sid) := by
  simp only [dropSession, hx]
  exact ((spared_endSession sid).bump (Spared.openAddr_false (by decide))).same

theorem ids_settle_dropSession {x : Session} {sid : Word} (hx : s.sess? sid = some x) :
    ∀ y ∈ (s.settle (s.dropSession sid)).sessions, y.id ≠ sid :=
  ids_of_spared_withoutSession ((spared_dropSession hx).trans (Spared.settled (s := s) ((spared_dropSession hx).stalled rfl)))

/-! ### What has left a port -/

theorem sent_of_emit {u : State} (o : Output) (hx : u.xings = s.xings) (hp : u.paused = s.paused) : Claims.Sent s (u.emit o) o := by
  intro hlost
  have hlost' : u.outLost o = false := by
    cases o <;> simpa only [outLost, framesLost, xingHeld, xing, hx] using hlost
  have hpause : u.pausedOut o = s.pausedOut o := by cases o <;> simp only [pausedOut, hp]
  split
  · next h => simp [emit, emitAll, hlost', hpause, h]
  · next h => simp [emit, emitAll, hlost', hpause, h]

/-- Where no word or granule is in error a session that has been idle for its time is closed with a CLOSE frame and counted. -/
theorem exec_idleTimeout {x : Session} {sid : Word} (hx : s.sess? sid = some x) (h : NoErrors s) :
    ∃ t, exec (.sessionIdleTimeout sid) s = .next t ∧ (∀ y ∈ t.sessions, y.id ≠ sid) ∧ Claims.Sent s t (s.ctlOut x (bareFrame 7)) ∧
      t.regF .ctlStatus [] 47 32 = min (s.regF .ctlStatus [] 47 32 + 1) 0xFFFF := by
  have hend : Spared true true (s.withoutSession sid) (s.endSession sid) := spared_endSession sid
  obtain ⟨hctl, hxings, -⟩ := hend.quiet rfl
  have hcalm := (Calm.of_clean (clean_of_noErrors h)).endSession (sid := sid)
  have hdrop : s.dropSession sid = ((s.endSession sid).bump .ctlStatus [] 47 32).emit (s.ctlOut x (bareFrame 7)) := by
    simp only [dropSession, hx]
  have hsettle : s.settle (s.dropSession sid) = s.dropSession sid := settle_eq ((spared_dropSession hx).stalled rfl)
    (by rw [hdrop]; exact hcalm.failing)
  refine ⟨s.dropSession sid, congrArg Host.Outcome.next hsettle, ids_of_spared_withoutSession (spared_dropSession hx), ?_, ?_⟩
  · rw [hdrop]
    exact sent_of_emit _ hxings hend.paused
  · rw [hdrop]
    refine (regF_bumpBy_self _ .ctlStatus [] 47 32 1 (by decide) (by decide)).trans ?_
    simp only [regF, hctl]
    rfl

/-! ### Sessions are opened (R404) -/

/-- Where no record is kept for it, a session is sent none. -/
theorem sendHeld_none (sid : Word) (h : s.keeper.held = []) :
    (s.sendHeld sid).sessions = s.sessions ∧ (s.sendHeld sid).out = s.out ∧ (s.sendHeld sid).waitOut = s.waitOut := by
  simp only [sendHeld, h]
  exact ⟨rfl, rfl, rfl⟩

/-- The session that an OPEN makes (R404). -/
def opened (s : State) (n : NetId) (ip : BitVec 128) (vmask : Byte) : Session :=
  { id := BitVec.ofNat 32 s.nextId, admin := n == 0, ip := ip, port := n, version := if 2 ≤ vmask.toNat % 4 then 0x11 else 0x10, expect := 1,
    sendSeq := 1, unacked := [], history := [], held := [], running := [], queued := [], resends := 0, lost := 0 }

/-- Where no record is kept for the first session, an OPEN makes its session and answers it. -/
theorem sessionOpen_opens {n : NetId} {ip : BitVec 128} {vmask : Byte} (nonce : Long) (hin : s.frameIn n = true) (hready : s.ready = true)
    (hv : vmask.toNat % 4 ≠ 0) (hroom : s.sessions.length < 8) (hheld : s.keeper.held = []) :
    (s.sessionOpen n ip vmask nonce).sessions = s.sessions ++ [s.opened n ip vmask] ∧
      (s.sessionOpen n ip vmask nonce).out = (s.openReply n ip (s.opened n ip vmask).id (s.opened n ip vmask).version 0 nonce).out ∧
      (s.sessionOpen n ip vmask nonce).waitOut = (s.openReply n ip (s.opened n ip vmask).id (s.opened n ip vmask).version 0 nonce).waitOut := by
  have hgo : s.sessionOpen n ip vmask nonce =
      (({ s.newId.2 with sessions := s.sessions ++ [s.opened n ip vmask] }).openReply n ip (s.opened n ip vmask).id (s.opened n ip vmask).version 0
        nonce).sendHeld (s.opened n ip vmask).id := by
    have hfits : ¬ 8 ≤ s.sessions.length := by omega
    simp only [sessionOpen, hin, hready, hv, hfits, Bool.true_or, Bool.and_self, if_true, if_false]
    rfl
  rw [hgo]
  exact sendHeld_none _ hheld

/-! ### Frames are acknowledged and go out again (R405) -/

theorem acked_of_mem {h : CmdHdr} {x y : Session} (hy : y ∈ (s.withSess (acked h x)).sessions) (hid : y.id = x.id) : y = acked h x := by
  obtain ⟨w, -, rfl⟩ := List.mem_map.mp hy
  split
  · rfl
  · next hw =>
    rw [if_neg hw] at hid
    exact absurd hid hw

theorem resendTimer_sends {x : Session} {sid : Word} (hx : s.sess? sid = some x) (hun : x.unacked ≠ []) (hten : x.resends < 10) :
    s.resendTimer sid = (s.modSess sid fun x => { x with resends := x.resends + 1 }).emitAll (x.unacked.map (s.ctlOut x)) := by
  have hfew : ¬ 10 ≤ x.resends := by omega
  simp only [resendTimer, hx, List.isEmpty_iff, hun, hfew, if_false]

theorem resendTimer_drops {x : Session} {sid : Word} (hx : s.sess? sid = some x) (hun : x.unacked ≠ []) (hten : 10 ≤ x.resends) :
    s.resendTimer sid = s.dropSession sid := by
  simp only [resendTimer, hx, List.isEmpty_iff, hun, hten, if_true, if_false]

end Sys2Proof.Machine.State

open Sys2Proof Sys2Proof.Machine

/-- Settles O48: what ends over a session's queue pairs, exports and SAVEs, spares every other session and, where no granule is in error, comes to no
retirement. -/
theorem sessionsOpenAndClose : Obligations.SessionsOpenAndClose := by
  refine ⟨fun s n ip vmask nonce hin hready => ⟨fun hv => ?_, fun hv hfull => ?_, fun hv hroom hheld => ?_⟩,
    fun s h hin => ⟨fun hnone i hi => ?_, fun x hx => ⟨?_, fun hlost hall => ?_⟩⟩,
    fun s sid => ⟨fun hnone => ⟨?_, ?_⟩, fun x hx => ⟨State.exec_idleTimeout hx, fun hun => ?_, fun hun hten => ?_, fun hun hten => ?_⟩⟩⟩
  · exact congrArg Host.Outcome.next (by simp [State.sessionOpen, hin, hready, hv])
  · exact congrArg Host.Outcome.next (by simp [State.sessionOpen, hin, hready, hv, hfull])
  · obtain ⟨hsess, hout, hwait⟩ := State.sessionOpen_opens (ip := ip) nonce hin hready hv hroom hheld
    refine ⟨_, _, rfl, hsess, rfl, rfl, by rw [← beq_eq_decide]; rfl, rfl, ?_, rfl, rfl, rfl, hout, hwait⟩
    have : vmask.toNat % 4 = 1 ∨ 2 ≤ vmask.toNat % 4 := by omega
    rcases this with h1 | h2
    · simp [State.opened, h1]
    · simp [State.opened, h2, show vmask.toNat % 4 ≠ 1 by omega]
  · simp only [List.mem_cons, List.not_mem_nil, or_false] at hi
    have hclose : s.sessionClose h = s.badFrame := by simp only [State.sessionClose, hin, hnone, if_true]
    have hack : s.sessionAck h = s.badFrame := by simp only [State.sessionAck, hin, hnone, if_true]
    obtain rfl | rfl := hi
    · exact congrArg Host.Outcome.next ((congrArg s.settle hclose).trans (State.settle_eq rfl rfl))
    · exact congrArg Host.Outcome.next hack
  · have hclose : s.sessionClose h = s.endSession x.id := by simp only [State.sessionClose, hin, hx, if_true]
    have hend : Spared false true (s.withoutSession x.id) (s.settle (s.endSession x.id)) :=
      (State.spared_endSession x.id).trans (Spared.settled ((State.spared_endSession (q := false) (b := true) x.id).stalled rfl))
    exact ⟨_, congrArg (fun u => Host.Outcome.next (s.settle u)) hclose, State.ids_of_spared_withoutSession hend,
      State.qps_of_spared_withoutSession hend⟩
  · have hack : s.sessionAck h = s.withSess (State.acked h x) := by
      simp only [State.sessionAck, hin, hx, if_true]
      exact State.useAck_eq (State.sessOf_some hx) hall hlost
    refine ⟨_, congrArg Host.Outcome.next hack, rfl, fun y hy hid => ?_⟩
    rw [State.acked_of_mem hy hid]
    exact ⟨rfl, rfl⟩
  · have hdrop : s.dropSession sid = s := by simp only [State.dropSession, hnone]
    exact congrArg Host.Outcome.next ((congrArg s.settle hdrop).trans (State.settle_eq rfl rfl))
  · have hresend : s.resendTimer sid = s := by simp only [State.resendTimer, hnone]
    exact congrArg Host.Outcome.next ((congrArg s.settle hresend).trans (State.settle_eq rfl rfl))
  · have hresend : s.resendTimer sid = s := by simp [State.resendTimer, hx, hun]
    exact congrArg Host.Outcome.next ((congrArg s.settle hresend).trans (State.settle_eq rfl rfl))
  · exact ⟨_, congrArg Host.Outcome.next ((congrArg s.settle (State.resendTimer_sends hx hun hten)).trans (State.settle_eq rfl rfl)),
      ⟨rfl, rfl⟩, rfl⟩
  · exact ⟨_, congrArg (fun u => Host.Outcome.next (s.settle u)) (State.resendTimer_drops hx hun hten), State.ids_settle_dropSession hx⟩
end

section
/-! SUPPORT. A module's job record when modules are lost (R465-R467): declarations, take-overs, and what they leave as it was. -/

namespace Sys2Proof.Machine

namespace Spared

variable {q b : Bool} {r s t : State}

theorem endInst {cl : Nat} {x : CollInst} (h : Spared q b r s) : Spared q b r (s.endInst cl x) := by
  unfold State.endInst
  extract_lets u v
  have hu : Spared q b r u := h.same
  have hv : Spared q b r v := hu.foldl fun h => h.scrambleAll
  split
  · exact hv.fault
  · exact hv

theorem peerLoss {lost : List Half} (h : Spared false b r s) : Spared false b r (s.peerLoss lost) :=
  h.foldl fun h => (h.bump (openAddr_false (by decide))).endInst

theorem haltJob (h : Spared q b r s) : Spared q b r s.haltJob := (h.foldl fun h => h.haltOne).peerFaults

end Spared

namespace State

variable {r s t : State}

/-! ### What stands beside the job's own state -/

/-- A state with the job record, the ports and the role of an earlier one. -/
structure Recast (r s : State) : Prop where
  job : s.job = r.job
  ports : s.ports = r.ports
  role : s.role = r.role

namespace Recast

theorem refl (s : State) : Recast s s := ⟨rfl, rfl, rfl⟩

theorem spared {q b : Bool} (h : Recast r s) (k : Spared q b s t) : Recast r t :=
  ⟨k.job.trans h.job, k.ports.trans h.ports, (congrArg (getF · 31 28) k.jobStatus).trans h.role⟩

theorem setJobState {n : Nat} (h : Recast r s) : Recast r (s.setJobState n) :=
  ⟨h.job, h.ports, (regF_setRegF_apart s _ _ _ _ _ _ _ (by decide) (by decide) (.inr (by decide))).trans h.role⟩

theorem failJob (h : Recast r s) : Recast r s.failJob := by
  unfold State.failJob
  extract_lets u v
  have hv : Recast r v := h.spared ((Spared.refl true false s).haltJob.same)
  exact hv.setJobState.spared (Spared.refl true false _).record

end Recast

/-! ### Declarations (R465, R467) -/

/-- The job record that a declaration leaves. -/
def declaredJob (s : State) (gen : Word) (lost : List Nat) : Job :=
  { s.job with declGen := gen, lost := lost, resume := none, layer := 0, go := false, mismatch := false, asked := none, loads := [] }

/-- A declaration before the job's partitions halt: what was under way of resets and collectives is over. -/
def declaring (s : State) (gen : Word) (lost : List Nat) : State :=
  let fresh := lost.filter fun m => !hasN s.job.lost m
  let u : State := { s.bumpBy .jobErr [] 15 0 fresh.length with job := s.declaredJob gen lost }
  let v := u.dropResets (hasN u.jobParts) 6
  v.peerLoss ((lost.filter fun m => m != v.me).map (BitVec.ofNat 16))

theorem spared_declaring (gen : Word) (lost : List Nat) :
    Spared false false { s with job := s.declaredJob gen lost } (s.declaring gen lost) := by
  have hcount : Spared false false { s with job := s.declaredJob gen lost }
      (({ s with job := s.declaredJob gen lost } : State).bumpBy .jobErr [] 15 0 (lost.filter fun m => !hasN s.job.lost m).length) :=
    (Spared.refl _ _ _).bumpBy (by simp [OpenAddr, RegRow.addr, RegId.row, sumN])
  exact hcount.dropResets.peerLoss

theorem declared_eq (gen : Word) (lost : List Nat) : s.declared gen lost =
    if hasN lost (s.declaring gen lost).me then
      (if (s.declaring gen lost).regF .jobStatus [] 27 24 = 8 then s.declaring gen lost else (s.declaring gen lost).failJob)
    else if (s.declaring gen lost).regF .jobStatus [] 27 24 = 8 ∨ (s.declaring gen lost).regF .jobStatus [] 27 24 = 7 then s.declaring gen lost
    else ((s.declaring gen lost).haltJob.setJobState 2).record 2 0x0040 none 0xFFFF none none (beBytes 4 gen.toNat ++ lostField lost 0) := rfl

theorem recast_declared (gen : Word) (lost : List Nat) : Recast { s with job := s.declaredJob gen lost } (s.declared gen lost) := by
  have hgo : Recast { s with job := s.declaredJob gen lost } (s.declaring gen lost) := (Recast.refl _).spared (spared_declaring gen lost)
  rw [declared_eq]
  split
  · split
    · exact hgo
    · exact hgo.failJob
  · split
    · exact hgo
    · exact (hgo.spared (Spared.refl true false _).haltJob).setJobState.spared (Spared.refl true false _).record

/-! ### The job's partitions halt (R467) -/

theorem isRunning_haltOne (p : Nat) (x : FaultRec) : (s.haltOne p x).isRunning p = false := by
  cases hr : s.isRunning p with
  | true =>
    obtain ⟨h3, -⟩ := haltedBy_haltOne hr x
    simp [isRunning, h3]
  | false => rw [haltOne, if_neg (by simp [hr]), hr]

theorem isRunning_foldl_haltOne {f : State → Nat → FaultRec} {p : Nat} {l : List Nat} (h : p ∈ l ∨ s.isRunning p = false) :
    (l.foldl (fun (t : State) p => t.haltOne p (f t p)) s).isRunning p = false := by
  induction l generalizing s with
  | nil => exact h.resolve_left List.not_mem_nil
  | cons a l ih =>
    refine ih ?_
    have hstays : s.isRunning p = false → (s.haltOne a (f s a)).isRunning p = false := fun hs => by
      by_contra hr
      have := (Spared.refl true false s).haltOne.running p (Bool.not_eq_false _ ▸ hr)
      simp [hs] at this
    rcases h with h | h
    · obtain rfl | h := List.mem_cons.mp h
      · exact .inr (isRunning_haltOne p _)
      · exact .inl h
    · exact .inr (hstays h)

theorem isRunning_haltJob {p : Nat} (hp : p ∈ s.jobParts) : s.haltJob.isRunning p = false := by
  unfold haltJob
  extract_lets run
  have hfold : (run.foldl (fun (t : State) p => t.haltOne p (t.peerRec p)) s).isRunning p = false := by
    refine isRunning_foldl_haltOne (f := fun t p => t.peerRec p) ?_
    cases hr : s.isRunning p with
    | true => exact .inl (List.mem_filter.mpr ⟨hp, hr⟩)
    | false => exact .inr rfl
  by_contra hr
  have := (Spared.refl true false (run.foldl (fun (t : State) p => t.haltOne p (t.peerRec p)) s)).peerFaults.running p (Bool.not_eq_false _ ▸ hr)
  simp [hfold] at this

theorem isRunning_setJobState {n p : Nat} : (s.setJobState n).isRunning p = s.isRunning p := Spared.isRunning_setReg (by decide) p

/-- On a module that is not lost itself, and is neither failed nor an orphan, a declaration halts the job's partitions (R467). -/
theorem declared_halts {gen : Word} {lost : List Nat} (hme : s.me ∉ lost) (h7 : s.regF .jobStatus [] 27 24 ≠ 7) (h8 : s.regF .jobStatus [] 27 24 ≠ 8) :
    (s.declared gen lost).regF .jobStatus [] 27 24 = 2 ∧ ∀ p ∈ s.jobParts, (s.declared gen lost).isRunning p = false := by
  have hsp := spared_declaring (s := s) gen lost
  have hme' : (s.declaring gen lost).me = s.me := congrArg BitVec.toNat hsp.moduleIx
  have hst : (s.declaring gen lost).regF .jobStatus [] 27 24 = s.regF .jobStatus [] 27 24 := congrArg (getF · 27 24) hsp.jobStatus
  have hparts : (s.declaring gen lost).jobParts = s.jobParts := by rw [jobParts, hsp.job]; rfl
  have hnot : hasN lost s.me = false := by rw [hasN_eq, decide_eq_false hme]
  rw [declared_eq, hme', hst, hnot, if_neg Bool.false_ne_true, if_neg (by simp [h7, h8])]
  have hrec := Spared.record (severity := 2) (code := 0x0040) (part := none) (unit := 0xFFFF) (step := none) (addr := none)
    (detail := beBytes 4 gen.toNat ++ lostField lost 0) (Spared.refl true false ((s.declaring gen lost).haltJob.setJobState 2))
  refine ⟨(congrArg (getF · 27 24) hrec.jobStatus).trans (regF_setRegF_self _ _ _ _ _ _ (by decide) (by decide)), fun p hp => ?_⟩
  by_contra hr
  have := hrec.running p (Bool.not_eq_false _ ▸ hr)
  rw [isRunning_setJobState, isRunning_haltJob (hparts ▸ hp)] at this
  cases this

/-! ### Rounds of heartbeats (R464) -/

theorem sendRoute_frame (r : Option LinkRoute) (mtype : Nat) (dest : Half) (tag : Word) (data : List Byte) (u : Purpose) :
    s.sendRoute r mtype dest tag data u = { s with waiting := (s.sendRoute r mtype dest tag data u).waiting } := by
  cases r <;> rfl

/-- The heartbeat that goes to module m, by a route of this state. -/
def beatTo (s : State) (m : Nat) (r : LinkRoute) : Msg := s.newMsg 0x31 false (BitVec.ofNat 16 m) (r.path.take 3) 0 s.beatBytes

/-- Every module of the list that a route leads to is sent a heartbeat, and nothing else changes. -/
theorem beats_sent (l : List Nat) : ∃ w, l.foldl (fun (t : State) m =>
      let d := BitVec.ofNat 16 m
      t.sendRoute (t.anyRoute d 0) 0x31 d 0 t.beatBytes .plain) s = { s with waiting := s.waiting ++ w } ∧
    ∀ m ∈ l, ∀ r, s.anyRoute (BitVec.ofNat 16 m) 0 = some r → ∃ x ∈ w, x.msg = s.beatTo m r := by
  induction l using List.reverseRecOn with
  | nil => exact ⟨[], by simp, nofun⟩
  | append_singleton l a ih =>
    obtain ⟨w, hw, hsent⟩ := ih
    rw [List.foldl_append, hw]
    have hroute : ({ s with waiting := s.waiting ++ w } : State).anyRoute (BitVec.ofNat 16 a) 0 = s.anyRoute (BitVec.ofNat 16 a) 0 := rfl
    cases hr : s.anyRoute (BitVec.ofNat 16 a) 0 with
    | none =>
      refine ⟨w, ?_, fun m hm r hmr => ?_⟩
      · simp only [List.foldl_cons, List.foldl_nil, hroute, hr, sendRoute]
      · obtain hm | hm := List.mem_append.mp hm
        · exact hsent m hm r hmr
        · rw [List.mem_singleton.mp hm, hr] at hmr
          cases hmr
    | some r =>
      refine ⟨w ++ [⟨s.beatTo a r, r.mask, none, .plain⟩], ?_, fun m hm q hmq => ?_⟩
      · simp only [List.foldl_cons, List.foldl_nil, hroute, hr, sendRoute, queueMsg, List.append_assoc]
        rfl
      · obtain hm | hm := List.mem_append.mp hm
        · obtain ⟨x, hx, hxm⟩ := hsent m hm q hmq
          exact ⟨x, List.mem_append_left _ hx, hxm⟩
        · obtain rfl := List.mem_singleton.mp hm
          rw [hr] at hmq
          obtain rfl := Option.some.inj hmq
          exact ⟨_, List.mem_append_right _ (List.mem_singleton_self _), rfl⟩

/-- A round of heartbeats goes under the next number to every module that a route leads to. -/
theorem sendBeats_sends : ∃ w, s.sendBeats = { s with job := { s.job with hseq := s.job.hseq + 1 }, waiting := s.waiting ++ w } ∧
    ∀ m ∈ s.beatTargets, (s.anyRoute (BitVec.ofNat 16 m) 0).isSome → ∃ x ∈ w, x.msg.mtype = 0x31 ∧ x.msg.dest = BitVec.ofNat 16 m := by
  obtain ⟨w, hw, hsent⟩ := beats_sent (s := { s with job := { s.job with hseq := s.job.hseq + 1 } }) s.beatTargets
  refine ⟨w, hw, fun m hm hr => ?_⟩
  obtain ⟨r, hr⟩ := Option.isSome_iff_exists.mp hr
  obtain ⟨x, hx, hxm⟩ := hsent m hm r hr
  exact ⟨x, hx, by rw [hxm]; rfl, by rw [hxm]; rfl⟩

/-! ### Modules found lost, and the deputy's turn (R465, R466) -/

theorem mem_putIn {m x : Nat} {l : List Nat} : m ∈ putIn x l ↔ m = x ∨ m ∈ l := by
  induction l with
  | nil => simp [putIn]
  | cons a l ih =>
    rw [putIn]
    split
    · simp
    · split
      · next h => simp [h]
      · simp only [List.mem_cons, ih]
        tauto

theorem mem_setOf {m : Nat} {l : List Nat} : m ∈ setOf l ↔ m ∈ l := by
  induction l with
  | nil => simp [setOf]
  | cons a l ih =>
    rw [setOf, List.foldr_cons, mem_putIn, ← setOf, ih, List.mem_cons]

/-- What a declaration of the coordinator leaves of the job record, the ports and the module's role. -/
theorem declare_leaves (new : List Nat) : (∀ m ∈ new, m ∈ (s.declare new).job.lost) ∧ (s.declare new).job.declGen = s.genNow + 1 ∧
    (s.declare new).job.coord = s.job.coord ∧ (s.declare new).job.peers = s.job.peers ∧ (s.declare new).ports = s.ports ∧
    (s.declare new).role = s.role := by
  set lost := setOf ((s.job.lost.filter fun m => hasN (modulesOf s.job.maps) m) ++ new) with hlost
  obtain ⟨hjob, hports, hrole⟩ := recast_declared (s := s) (s.genNow + 1) lost
  obtain ⟨w, hw, -⟩ := sendBeats_sends (s := s.declared (s.genNow + 1) lost)
  have hd : s.declare new = (s.declared (s.genNow + 1) lost).sendBeats := rfl
  rw [hd, hw]
  simp only [hjob]
  exact ⟨fun m hm => mem_setOf.mpr (List.mem_append_right _ hm), rfl, rfl, rfl, hports, hrole⟩

theorem lose_declares {m : Nat} (hr : s.role = 1) (hm : m ∈ modulesOf s.job.maps) (hl : m ∉ s.job.lost) (hme : m ≠ s.me) :
    s.lose m = s.declare [m] := by
  have hin : hasN (modulesOf s.job.maps) m = true := by rw [hasN_eq, decide_eq_true hm]
  have hnew : hasN s.job.lost m = false := by rw [hasN_eq, decide_eq_false hl]
  rw [lose, if_pos ⟨hr, hin, hnew, hme⟩]

/-- The deputy takes the coordinator's place, which is lost with it. -/
theorem takeOver_leaves (hr : s.role = 2) : s.takeOver.role = 1 ∧ s.takeOver.job.coord = some s.me ∧ (∀ c, s.job.coord = some c → c ∈ s.takeOver.job.lost) ∧
    s.takeOver.job.declGen = s.genNow + 1 ∧ s.takeOver.ports = s.ports := by
  let v := s.setRegF .jobStatus [] 31 28 1
  let u : State := { v with job := { v.job with coord := some v.me, deputy := none, since := v.tick } }
  have htake : s.takeOver = u.declare s.job.coord.toList := by
    rw [takeOver, if_pos hr]
  have hme : v.me = s.me := by
    have : v.reg .lnkModule [] = s.reg .lnkModule [] := reg_setRegF_ne s _ _ _ _ _ _ _ (by decide)
    simp only [me, moduleIx, regF, this]
  have hgen : u.genNow = s.genNow := by
    have : u.jobGen = s.jobGen :=
      congrArg (BitVec.ofNat 32) (regF_setRegF_apart s .jobStatus [] _ _ _ _ _ (by decide) (by decide) (.inr (by decide)))
    simp only [genNow, this]
    rfl
  obtain ⟨hlost, hdecl, hcoord, -, hports, hrole⟩ := declare_leaves (s := u) s.job.coord.toList
  rw [htake]
  exact ⟨hrole.trans (regF_setRegF_self s _ _ _ _ _ (by decide) (by decide)), hme ▸ hcoord, fun c hc => hlost c (by simp [hc]), hgen ▸ hdecl, hports⟩

end State
end Sys2Proof.Machine
end

section
/-! PROOF. Heartbeats, and what they and their absence lead to (O55; R464-R467). -/

namespace Sys2Proof.Machine.State

variable {r s t : State}

/-! ### What a heartbeat leaves: the ports and what has been heard -/

/-- A state with the ports of an earlier one and what that has heard of other modules. -/
structure Minded (r s : State) : Prop where
  peers : s.job.peers = r.job.peers
  ports : s.ports = r.ports

namespace Minded

theorem refl (s : State) : Minded s s := ⟨rfl, rfl⟩

theorem step (h : Minded r s) (hp : t.job.peers = s.job.peers) (hq : t.ports = s.ports) : Minded r t := ⟨hp.trans h.peers, hq.trans h.ports⟩

theorem spared {q b : Bool} (h : Minded r s) (k : Spared q b s t) : Minded r t := h.step (congrArg Job.peers k.job) k.ports

theorem record {severity code : Nat} {part : Option Nat} {unit : Nat} {step : Option Word} {addr : Option Nat} {detail : List Byte} (h : Minded r s) :
    Minded r (s.record severity code part unit step addr detail) :=
  h.spared (Spared.refl true false s).record

theorem foldl {α : Type} {f : State → α → State} {l : List α} (h : Minded r s) (hf : ∀ {u a}, Minded r u → Minded r (f u a)) :
    Minded r (l.foldl f s) :=
  List.foldlRecOn l f h fun _ hu _ _ => hf hu

theorem ite {p : Prop} [Decidable p] (h : Minded r s) (k : Minded r t) : Minded r (if p then s else t) := by
  split
  · exact h
  · exact k

theorem failJob (h : Minded r s) : Minded r s.failJob := by
  obtain ⟨hjob, hports, -⟩ := (Recast.refl s).failJob
  exact h.step (congrArg Job.peers hjob) hports

theorem sendRoute {q : Option LinkRoute} {mtype : Nat} {dest : Half} {tag : Word} {data : List Byte} {u : Purpose} (h : Minded r s) :
    Minded r (s.sendRoute q mtype dest tag data u) := by
  rw [sendRoute_frame]
  exact h.step rfl rfl

theorem sendBeats (h : Minded r s) : Minded r s.sendBeats := by
  obtain ⟨w, hw, -⟩ := s.sendBeats_sends
  rw [hw]
  exact h.step rfl rfl

theorem declared {gen : Word} {lost : List Nat} (h : Minded r s) : Minded r (s.declared gen lost) := by
  obtain ⟨hjob, hports, -⟩ := s.recast_declared gen lost
  exact h.step (hjob ▸ rfl) hports

theorem declare {new : List Nat} (h : Minded r s) : Minded r (s.declare new) := by
  obtain ⟨-, -, -, hpeers, hports, -⟩ := s.declare_leaves new
  exact h.step hpeers hports

theorem lose {m : Nat} (h : Minded r s) : Minded r (s.lose m) := by
  rw [State.lose]
  split
  · exact h.declare
  · exact h

theorem setCommitC {v : Word} (h : Minded r s) : Minded r (s.setCommitC v) := by
  rw [State.setCommitC]
  split
  · exact h
  · exact h.step rfl rfl

theorem gatherCommits (h : Minded r s) : Minded r s.gatherCommits := by
  unfold State.gatherCommits
  extract_lets keeps ms own u stores cs
  have hu : Minded r u := by
    unfold u
    split
    · exact h
    · dsimp only
      split
      · exact h.step rfl rfl
      · exact h
  clear_value cs
  split
  · exact hu
  · split
    · exact hu
    · exact hu.setCommitC

theorem startLoad {p shard : Nat} {m : MapEntry} {n : Word} (h : Minded r s) : Minded r (s.startLoad p shard m n) := by
  unfold State.startLoad
  extract_lets src j u ext ask
  have hu : Minded r u := h.step rfl rfl
  have hask : ∀ dst mtype cls, Minded r (ask u dst mtype cls) := fun _ _ _ => hu.foldl fun h => h.sendRoute
  split
  · exact hask _ _ _
  · split
    · exact hask _ _ _
    · split
      · split
        · exact hu
        · exact hu.foldl fun h => h.spared (Spared.refl true false _).qpOut
      · exact hu

theorem startRestore {n : Word} {layer : Nat} (h : Minded r s) : Minded r (s.startRestore n layer) := by
  unfold State.startRestore
  extract_lets mine j u v
  have hu : Minded r u := h.step rfl rfl
  have hv : Minded r v := Minded.foldl (hu.step rfl rfl) fun h => h.startLoad
  split
  · exact hv.step rfl rfl
  · exact hv

theorem goReset (h : Minded r s) : Minded r s.goReset := by
  unfold State.goReset
  split
  · exact h
  · extract_lets u v again w keep done
    have hv : Minded r v := by
      unfold v
      split
      · exact h.step rfl rfl
      · split <;> exact h.step rfl rfl
    exact hv.step rfl rfl

theorem resumeAt {n : Word} {layer : Nat} (h : Minded r s) : Minded r (s.resumeAt n layer) := by
  unfold State.resumeAt
  extract_lets again count j u
  split
  · exact Minded.record (h.step rfl rfl)
  · have hu : Minded r u := h.step rfl rfl
    exact hu.startRestore.sendBeats

theorem coordinate (h : Minded r s) : Minded r s.coordinate := by
  unfold State.coordinate
  split
  · exact h
  · extract_lets u ms st all
    have hu : Minded r u := h.gatherCommits
    split
    · split
      · exact hu.declare
      · exact hu
    · split
      · split
        · split
          · exact hu.resumeAt
          · exact hu.resumeAt
          · split
            · exact hu
            · exact Minded.sendBeats (hu.step rfl rfl)
        · exact Minded.record (hu.step rfl rfl)
      · split
        · exact Minded.goReset (Minded.sendBeats (hu.step rfl rfl))
        · exact hu

theorem follow {b : List Byte} (h : Minded r s) : Minded r (s.follow b) := by
  unfold State.follow
  dsimp only
  split
  · exact h.startRestore
  · split
    · exact h.goReset
    · exact h

theorem hearRole1 {src : Nat} {gen : Word} {b : List Byte} (h : Minded r s) : Minded r (s.hearRole1 src gen b) := by
  unfold State.hearRole1
  dsimp only
  split
  · exact setCommitC (h.step rfl rfl)
  · exact h.step rfl rfl

end Minded

/-! ### A heartbeat is received (R464, R467) -/

/-- What a heartbeat tells of its sender (R464). -/
def heardOf (s : State) (m : Msg) : Peer :=
  ⟨s.tick, BitVec.ofNat 32 (be m.data 0 4), BitVec.ofNat 32 (be m.data 4 4), be m.data 8 1, be m.data 9 1, m.data.getD 10 0, m.data.getD 11 0,
    BitVec.ofNat 32 (be m.data 0xC 4), BitVec.ofNat 32 (be m.data 0x10 4), BitVec.ofNat 32 (be m.data 0x3C 4)⟩

/-- The state in which a heartbeat at the front of port p's buffer has been taken and noted. -/
def beatNoted (s : State) (p : Nat) (m : Msg) (rest : List Msg) : State :=
  let t := s.inboxTaken p m rest
  { t with job := { t.job with peers := t.job.peers.set m.src.toNat (s.heardOf m) } }

section
variable {p : Nat} {m : Msg} {rest : List Msg} (h : (s.port p).inbox = m :: rest) (hm : m.mtype = 0x31)
include h hm

theorem takeInbox_beat : s.takeInbox p (fun m => m.type == 0x31) = some (m, s.inboxTaken p m rest) :=
  s.takeInbox_head h (by simp [Msg.type, hm]) (by simp [Msg.vc, Msg.type, hm, vcOf])

/-- Whatever a heartbeat leads to, its sender's state stays noted and the receive buffer without it. -/
theorem Minded.heartbeat : Minded (s.beatNoted p m rest) (s.heartbeat p) := by
  unfold State.heartbeat
  rw [takeInbox_beat h hm]
  have hnoted := Minded.refl (s.beatNoted p m rest)
  have hheard : Minded (s.beatNoted p m rest) (if be m.data 8 1 = 1 then
      (s.beatNoted p m rest).hearRole1 m.src.toNat (BitVec.ofNat 32 (be m.data 4 4)) m.data else s.beatNoted p m rest) := ite hnoted.hearRole1 hnoted
  refine ite hnoted (ite (declared (ite (step hheard rfl rfl) (hheard.step rfl rfl))) (ite ?_ (ite hheard.lose hheard.coordinate)))
  have hlost : ∀ {u : State} {l : List Half}, Minded (s.beatNoted p m rest) u → Minded (s.beatNoted p m rest) (u.peerLoss l) := fun h =>
    h.spared (Spared.refl false false _).peerLoss
  refine ite ?_ (follow ?_) <;> exact ite (ite (failJob (hlost (hheard.step rfl rfl))) (hlost (hheard.step rfl rfl))) hheard

end

theorem setCommitC_keeps (v : Word) : (s.setCommitC v).job.coord = s.job.coord ∧ (s.setCommitC v).job.maps = s.job.maps ∧
    (s.setCommitC v).job.declGen = s.job.declGen ∧ SameRegsBut [RegId.jobCommits.row.base] s (s.setCommitC v) := by
  rw [setCommitC]
  split
  · exact ⟨rfl, rfl, rfl, sameRegsBut_refl s _⟩
  · exact ⟨rfl, rfl, rfl, sameRegsBut_setReg s .jobCommits [] _⟩

/-- What a module takes of a coordinator's heartbeat of a newer generation before it declares that. -/
theorem hearRole1_newer {src : Nat} {gen : Word} (b : List Byte) (h : s.genNow.toNat < gen.toNat) :
    (s.hearRole1 src gen b).job.coord = some src ∧ (s.hearRole1 src gen b).job.maps = s.job.maps ∧
      (s.hearRole1 src gen b).job.declGen = s.job.declGen ∧
      SameRegsBut ([RegId.jobCommits.row.base] ++ [RegId.jobCommits.row.base]) s (s.hearRole1 src gen b) := by
  let u : State := { s with job := { s.job with role1 := s.tick, coord := some src } }
  have hgo : s.hearRole1 src gen b = (u.setCommitM (BitVec.ofNat 32 (be b 0x14 4))).setCommitC (BitVec.ofNat 32 (be b 0x18 4)) := by
    unfold hearRole1
    exact if_pos (.inl h)
  obtain ⟨hcoord, hmaps, hgen, hregs⟩ := (u.setCommitM (BitVec.ofNat 32 (be b 0x14 4))).setCommitC_keeps (BitVec.ofNat 32 (be b 0x18 4))
  have hfirst : SameRegsBut [RegId.jobCommits.row.base] u (u.setCommitM (BitVec.ofNat 32 (be b 0x14 4))) := sameRegsBut_setReg u .jobCommits [] _
  rw [hgo]
  exact ⟨hcoord, hmaps, hgen, sameRegsBut_trans hfirst hregs⟩

/-- A module that follows the coordinator src: that is no deputy any more, and this module no coordinator. -/
def following (s : State) (src : Nat) : State :=
  let t : State := { s with job := { s.job with deputy := if s.job.deputy = some src then none else s.job.deputy } }
  if t.role = 1 then t.setRegF .jobStatus [] 31 28 0 else t

theorem following_keeps (src : Nat) : (s.following src).job.coord = s.job.coord ∧ (s.following src).job.maps = s.job.maps ∧ (s.following src).me = s.me ∧
    (s.following src).regF .jobStatus [] 27 24 = s.regF .jobStatus [] 27 24 := by
  unfold following
  extract_lets j t
  split
  · have hmodule : (t.setRegF .jobStatus [] 31 28 0).reg .lnkModule [] = s.reg .lnkModule [] := reg_setRegF_ne t _ _ _ _ _ _ _ (by decide)
    exact ⟨rfl, rfl, by simp only [me, moduleIx, regF, hmodule],
      regF_setRegF_apart t _ _ _ _ _ _ _ (by decide) (by decide) (.inl (by decide))⟩
  · exact ⟨rfl, rfl, rfl, rfl⟩

/-- A heartbeat of a coordinator with a newer generation declares that generation here, and halts the job's partitions (R467). -/
theorem heartbeat_declares {p : Nat} {m : Msg} {rest : List Msg} (h : (s.port p).inbox = m :: rest) (hm : m.mtype = 0x31) (hmaps : s.job.maps ≠ [])
    (hrole : be m.data 8 1 = 1) (hgen : s.genNow.toNat < be m.data 4 4) (hme : s.me ∉ lostOf m.data) (h7 : s.regF .jobStatus [] 27 24 ≠ 7)
    (h8 : s.regF .jobStatus [] 27 24 ≠ 8) :
    (s.heartbeat p).job.declGen = BitVec.ofNat 32 (be m.data 4 4) ∧ (s.heartbeat p).job.lost = setOf (lostOf m.data) ∧
      (s.heartbeat p).job.coord = some m.src.toNat ∧ (s.heartbeat p).regF .jobStatus [] 27 24 = 2 ∧
      ∀ q ∈ s.jobParts, (s.heartbeat p).isRunning q = false := by
  have hlt : be m.data 4 4 < 2 ^ 32 := be_lt _ _ _
  have hnew : (s.beatNoted p m rest).genNow.toNat < (BitVec.ofNat 32 (be m.data 4 4)).toNat := by
    rw [BitVec.toNat_ofNat, Nat.mod_eq_of_lt hlt]
    exact hgen
  obtain ⟨hcoord, hms, hdecl, hregs⟩ := hearRole1_newer (src := m.src.toNat) m.data hnew
  set u := (s.beatNoted p m rest).hearRole1 m.src.toNat (BitVec.ofNat 32 (be m.data 4 4)) m.data with hu
  let w := u.following m.src.toNat
  have hstatus : u.reg .jobStatus [] = s.reg .jobStatus [] := reg_of_sameRegsBut hregs (by decide)
  have hmodule : u.reg .lnkModule [] = s.reg .lnkModule [] := reg_of_sameRegsBut hregs (by decide)
  have hwgen : u.genNow = s.genNow := by simp only [genNow, jobGen, regF, hstatus, hdecl]; rfl
  have hgo : s.heartbeat p = w.declared (BitVec.ofNat 32 (be m.data 4 4)) (setOf (lostOf m.data)) := by
    unfold heartbeat
    rw [takeInbox_beat h hm]
    change (if (s.beatNoted p m rest).job.maps.isEmpty = true then _ else (fun t : State =>
      if be m.data 8 1 = 1 ∧ t.genNow.toNat < (BitVec.ofNat 32 (be m.data 4 4)).toNat then
        (t.following m.src.toNat).declared (BitVec.ofNat 32 (be m.data 4 4)) (setOf (lostOf m.data)) else _)
      (if be m.data 8 1 = 1 then (s.beatNoted p m rest).hearRole1 m.src.toNat (BitVec.ofNat 32 (be m.data 4 4)) m.data else _)) = _
    have hkept : ¬ (s.beatNoted p m rest).job.maps.isEmpty = true := fun h => hmaps (List.isEmpty_iff.mp h)
    rw [if_neg hkept, if_pos hrole, ← hu]
    have hnow : be m.data 8 1 = 1 ∧ u.genNow.toNat < (BitVec.ofNat 32 (be m.data 4 4)).toNat := ⟨hrole, by rw [hwgen]; exact hnew⟩
    beta_reduce
    rw [if_pos hrole]
    exact if_pos hnow
  obtain ⟨hwcoord, hwmaps, hwme, hwst⟩ := u.following_keeps m.src.toNat
  have hwme' : w.me = s.me := hwme.trans (by simp only [me, moduleIx, regF, hmodule])
  have hwst' : w.regF .jobStatus [] 27 24 = s.regF .jobStatus [] 27 24 := hwst.trans (congrArg (getF · 27 24) hstatus)
  obtain ⟨hjob, -, -⟩ := w.recast_declared (BitVec.ofNat 32 (be m.data 4 4)) (setOf (lostOf m.data))
  obtain ⟨htwo, hstop⟩ := declared_halts (s := w) (gen := BitVec.ofNat 32 (be m.data 4 4)) (lost := setOf (lostOf m.data))
    (by rwa [hwme', mem_setOf]) (by rwa [hwst']) (by rwa [hwst'])
  rw [hgo, hjob]
  refine ⟨rfl, rfl, ?_, htwo, fun q hq => hstop q ?_⟩
  · exact hwcoord.trans hcoord
  · rw [jobParts, hwmaps, hms]
    exact hq

/-! ### Rounds, missed heartbeats and orphans (R464-R467) -/

/-- A member of the job, which has nothing to gather, sends its round. -/
theorem heartbeatSend_of_member (hr : s.role ≠ 1) :
    s.heartbeatSend = ({ s with job := { s.job with hbPeriod := s.regF .jobHb [] 31 0 } } : State).sendBeats := by
  have hrest : ({ s with job := { s.job with hbPeriod := s.regF .jobHb [] 31 0 } } : State).coordinate =
      { s with job := { s.job with hbPeriod := s.regF .jobHb [] 31 0 } } := if_pos (.inl hr)
  rw [heartbeatSend, hrest]

/-- A module that no coordinator has been heard from for ten periods halts the job's partitions and is an orphan. -/
theorem orphanTimeout_orphans (hmaps : s.job.maps ≠ []) (hr : s.role ≠ 1) (h7 : s.regF .jobStatus [] 27 24 ≠ 7)
    (h8 : s.regF .jobStatus [] 27 24 ≠ 8) (hsil : 10 * s.period ≤ s.silence s.job.role1) :
    s.orphanTimeout.regF .jobStatus [] 27 24 = 7 ∧ (∀ q ∈ s.jobParts, s.orphanTimeout.isRunning q = false) ∧ SameMem s s.orphanTimeout := by
  let u := s.haltJob.setJobState 7
  let v : State := { u with job := { u.job with remapped := false } }
  have hgo : s.orphanTimeout = v.record 2 0x0042 none 0xFFFF none none [] := if_pos ⟨by simpa using hmaps, hr, h8, h7, hsil⟩
  have hrec : Spared true false v (v.record 2 0x0042 none 0xFFFF none none []) := (Spared.refl true false v).record
  rw [hgo]
  refine ⟨(congrArg (getF · 27 24) hrec.jobStatus).trans (regF_setRegF_self _ _ _ _ _ _ (by decide) (by decide)), fun q hq => ?_, ?_⟩
  · by_contra hrun
    have hv := hrec.running q (Bool.not_eq_false _ ▸ hrun)
    rw [show v.isRunning q = s.haltJob.isRunning q from isRunning_setJobState, isRunning_haltJob hq] at hv
    cases hv
  · have hhalt : HaltChanges s s.haltJob := haltChanges_trans
      (foldl_rel HaltChanges haltChanges_refl (fun h k => haltChanges_trans h k) _ (fun _ _ => haltOne_frame _ _ _) _ _) (peerFaults_frame _ _ _)
    have hv : SameMem s.haltJob v := fun pl a => by cases pl <;> rfl
    have hrec : SameMem v (v.record 2 0x0042 none 0xFFFF none none []) := (memKept_of_haltChanges (halt_of_reports (record_frame v ..))).sameMem
    exact sameMem_trans (sameMem_trans (memKept_of_haltChanges hhalt).sameMem hv) hrec

end Sys2Proof.Machine.State

open Sys2Proof Sys2Proof.Machine

/-- Settles O55: whatever a round or a heartbeat leads to, the ports and what is heard stand; a declaration halts the partitions of the job. -/
theorem heartbeatsKeepTheJob : Obligations.HeartbeatsKeepTheJob := by
  refine ⟨fun s hready hr => ?_, fun s p m rest hready h hm => ⟨?_, fun hmaps hrole hgen hme h7 h8 => ?_⟩,
    fun s m hready => ⟨fun hsil => ?_, fun hsil hr hm hl hme => ?_⟩, fun s c hready hc _ => ⟨fun hsil => ?_, fun hsil hr => ?_⟩,
    fun s hready hmaps hr h7 h8 => ⟨fun hsil => ?_, fun hsil => ?_⟩⟩
  · let u : State := { s with job := { s.job with hbPeriod := s.regF .jobHb [] 31 0 } }
    obtain ⟨w, hw, hsent⟩ := u.sendBeats_sends
    refine ⟨u.sendBeats, congrArg Host.Outcome.next ((if_pos hready).trans (State.heartbeatSend_of_member hr)), ?_⟩
    rw [hw]
    refine ⟨rfl, rfl, rfl, fun pl a => by cases pl <;> rfl, fun m hm hroute => ?_⟩
    obtain ⟨x, hx, htype, hdest⟩ := hsent m hm hroute
    exact ⟨x, List.mem_append_right _ hx, htype, hdest⟩
  · have hgo := State.Minded.heartbeat h hm
    refine ⟨s.heartbeat p, congrArg Host.Outcome.next (if_pos hready), ?_, ?_⟩
    · rw [State.port, hgo.ports]
      exact s.inbox_inboxTaken p m rest
    · rw [hgo.peers]
      simp only [State.beatNoted, FMap.get_set_self]
      exact ⟨rfl, rfl, rfl, rfl, rfl, rfl⟩
  · obtain ⟨hdecl, hlost, hcoord, hstate, hstop⟩ := State.heartbeat_declares h hm hmaps hrole hgen hme h7 h8
    exact ⟨s.heartbeat p, congrArg Host.Outcome.next (if_pos hready), hdecl, hlost, hcoord, hstate, fun q hq => hstop q hq⟩
  · exact congrArg Host.Outcome.next ((if_pos hready).trans (if_neg (by omega)))
  · obtain ⟨hlost, hdecl, -⟩ := State.declare_leaves (s := s) [m.toNat]
    refine ⟨s.declare [m.toNat], congrArg Host.Outcome.next ((if_pos hready).trans ((if_pos hsil).trans ?_)), hlost _ (by simp), hdecl⟩
    exact State.lose_declares hr hm hl hme
  · have hno : s.deputyTakeover = s := by
      simp only [State.deputyTakeover, hc]
      exact if_neg (by omega)
    exact congrArg Host.Outcome.next ((if_pos hready).trans hno)
  · have hgo : s.deputyTakeover = s.takeOver := by
      simp only [State.deputyTakeover, hc]
      exact if_pos hsil
    obtain ⟨hrole, hcoord, hlost, hdecl, -⟩ := State.takeOver_leaves hr
    exact ⟨s.takeOver, congrArg Host.Outcome.next ((if_pos hready).trans hgo), hrole, hcoord, hlost c hc, hdecl⟩
  · exact congrArg Host.Outcome.next ((if_pos hready).trans (if_neg fun h => by omega))
  · obtain ⟨hstate, hstop, hmem⟩ := State.orphanTimeout_orphans hmaps hr h7 h8 hsil
    exact ⟨s.orphanTimeout, congrArg Host.Outcome.next (if_pos hready), hstate, fun q hq => hstop q hq, hmem⟩
end

section
/-! PROOF. The life-cycle operations (O60; R563-R566, R571, R572). -/

namespace Sys2Proof.Machine.State

variable {s t u : State}

/-! ### The object is read -/

/-- The state of an operation under way, whose object has been read: LIFE_CMD holds the command, and counters and sluices tell of the reading. -/
structure Reading (s u : State) : Prop where
  frame : u = { s with mrs := u.mrs, sluices := u.sluices, dieSeen := u.dieSeen }
  regs : SameRegsBut (RegId.lifeCmd.row.base :: dieCounters) s u

namespace Reading

theorem of_keeper {v : Long} (h : KeeperReads (s.setReg .lifeCmd [] v) u) : Reading s u := by
  obtain ⟨hf, hr⟩ := h
  exact ⟨hf, sameRegsBut_trans (sameRegsBut_setReg s .lifeCmd [] v) hr⟩

theorem life (h : Reading s u) : u.life = s.life := by rw [h.frame]

theorem fresh (h : Reading s u) : u.fresh = s.fresh := by rw [h.frame]

theorem sameMem (h : Reading s u) : SameMem s u := fun pl a => by
  rw [h.frame]
  cases pl <;> rfl

theorem reg (h : Reading s u) {id : RegId} {ix : List Nat} (ha : id.row.addr ix ∉ RegId.lifeCmd.row.base :: dieCounters) : u.reg id ix = s.reg id ix :=
  reg_of_sameRegsBut h.regs ha

theorem tiersCalm (h : Reading s u) (k : TiersCalm s) : TiersCalm u := by
  have hstop : ∀ st, u.stackStopped st = s.stackStopped st := fun st =>
    congrArg (getF · 34 34 == 1) (h.reg (id := .sluHeat) (ix := [st]) fun hm => by
      have : RegId.sluHeat.row.addr [st] ≤ 0xA0008 := by
        obtain he | hm := List.mem_cons.mp hm
        · exact he.le
        · exact (le_of_mem_dieCounters hm).trans (by decide)
      exact absurd ((base_le_addr RegId.sluHeat.row [st]).trans this) (by decide))
  refine ⟨?_, ?_, fun st => ⟨(hstop st).trans (k.banks st).1, ?_⟩, ?_⟩
  · rw [h.frame]; exact k.fast
  · rw [h.frame]; exact k.slow
  · rw [h.frame]; exact (k.banks st).2
  · rw [h.frame]; exact k.phys

end Reading

/-! ### Certificates are taken into the store (R561) -/

theorem certOk_congr (h : u.life = s.life) (r : Option Cert × Option Cert) (c : Cert) : u.certOk r c = s.certOk r c := by
  simp only [certOk, keyCounts, verifies, key?, lifeState, h]
  rfl

theorem addCerts_congr (h : u.life = s.life) (l : List (List Byte)) :
    (u.addCerts l).1.life = (s.addCerts l).1.life ∧ (u.addCerts l).2 = (s.addCerts l).2 := by
  have hflash : u.flashCerts = s.flashCerts := by simp only [flashCerts, h]
  unfold addCerts
  rw [hflash]
  refine List.foldl_rel (r := fun (a b : State × Bool) => a.1.life = b.1.life ∧ a.2 = b.2) ⟨h, rfl⟩ fun c _ a b hab => ?_
  obtain ⟨hl, h2⟩ := hab
  dsimp only
  rw [certOk_congr hl]
  split
  · exact ⟨by rw [hl], h2⟩
  · exact ⟨hl, rfl⟩

/-- Only the keys that the store has checked change, until the certificates are kept. -/
theorem addCerts_keeps (l : List (List Byte)) : (s.addCerts l).1.life = { s.life with keys := (s.addCerts l).1.life.keys } := by
  unfold addCerts
  refine List.foldlRecOn (motive := fun a : State × Bool => a.1.life = { s.life with keys := a.1.life.keys }) l _ rfl fun a ha c _ => ?_
  dsimp only
  split
  · rw [ha]
  · exact ha

/-! ### Everything stops (R564) -/

/-- What the halt of every partition can change. -/
def Stops (s t : State) : Prop :=
  t = { s with parts := t.parts, cores := t.cores, mrs := t.mrs, sessions := t.sessions, out := t.out, waitOut := t.waitOut, keeper := t.keeper,
               held := t.held, resets := t.resets, regions := t.regions }

theorem Stops.trans {r : State} (h : Stops r s) (k : Stops s t) : Stops r t := by
  rw [Stops] at *
  rw [k, h]

theorem stops_of_haltChanges (h : HaltChanges s t) : Stops s t := by
  rw [HaltChanges] at h
  rw [Stops]
  rw [h]

theorem stops_foldl {α : Type} {f : State → α → State} (hf : ∀ s a, Stops s (f s a)) (l : List α) : Stops s (l.foldl f s) :=
  foldl_rel Stops (fun _ => rfl) Stops.trans f hf l s

theorem stops_dropResets (which : Nat → Bool) (status : Nat) : Stops s (s.dropResets which status) := by
  unfold dropResets
  extract_lets mine u
  have hu : Stops s u := rfl
  refine hu.trans (stops_foldl (fun v x => ?_) mine)
  have hset : Stops v (if v.pstate x.part = 4 then v.setPstate x.part 3 else v) := by
    split <;> rfl
  dsimp only
  split
  · exact hset.trans (stops_of_haltChanges (halt_of_reports (reply_reports _ _ _ _ _ _)))
  · exact hset

theorem haltParts_frame (ps : List Nat) (index : Word) : HaltChanges s (s.haltParts ps index) :=
  haltChanges_trans (foldl_rel HaltChanges haltChanges_refl (fun h k => haltChanges_trans h k) _ (fun _ _ => haltOne_frame _ _ _) _ _) (peerFaults_frame _ _ _)

theorem stops_stopAll : Stops s s.stopAll := by
  have hstop : Stops s (s.stopParts (List.range 16) 0xFFFFFFFC#32) :=
    (stops_of_haltChanges (haltParts_frame _ _)).trans (stops_foldl (fun _ _ => stops_of_haltChanges (haltNow_frame _ _)) _)
  have hclose : ∀ (u : State) (p : Nat), Stops u (u.closeRegions p) := fun _ _ => rfl
  exact (hstop.trans (stops_foldl hclose _)).trans (stops_dropResets _ _)

theorem isRunning_haltParts {p : Nat} {ps : List Nat} (hp : p ∈ ps) (index : Word) : (s.haltParts ps index).isRunning p = false := by
  have hfold : ((ps.filter s.isRunning).foldl (fun (t : State) p => t.haltOne p (t.noneRec p index)) s).isRunning p = false := by
    refine isRunning_foldl_haltOne (f := fun t p => t.noneRec p index) ?_
    cases hr : s.isRunning p with
    | true => exact .inl (List.mem_filter.mpr ⟨hp, hr⟩)
    | false => exact .inr rfl
  by_contra hr
  have := (Spared.refl true false ((ps.filter s.isRunning).foldl (fun (t : State) p => t.haltOne p (t.noneRec p index)) s)).peerFaults.running p
    (Bool.not_eq_false _ ▸ hr)
  simp [hfold] at this

theorem isRunning_stopAll {p : Nat} (hp : p < 16) : s.stopAll.isRunning p = false := by
  have hclosed : ∀ (l : List Nat) (u : State), (l.foldl (fun (t : State) p => t.closeRegions p) u).isRunning p = u.isRunning p := fun l u =>
    List.foldlRecOn (motive := fun t : State => t.isRunning p = u.isRunning p) l _ rfl fun t ht _ _ => ht
  by_contra hr
  have hrun := (Spared.refl true false ((List.range 16).foldl (fun (t : State) p => t.closeRegions p)
    (s.stopParts (List.range 16) 0xFFFFFFFC#32))).dropResets.running p (Bool.not_eq_false _ ▸ hr)
  rw [hclosed] at hrun
  have hhalt := ((Spared.refl true false (s.haltParts (List.range 16) 0xFFFFFFFC#32)).foldl (l := List.range 16) fun h => h.haltNow).running p hrun
  rw [isRunning_haltParts (List.mem_range.mpr hp)] at hhalt
  cases hhalt

/-! ### The operations' effects (R564-R566) -/

theorem withLife_addCerts (l : List (List Byte)) (y : Life) : { (u.addCerts l).1 with life := y } = { u with life := y } := by
  have h := onlyLife_addCerts (s := u) l
  rw [OnlyLife] at h
  rw [h]

/-- The certificates of a payload that PROVISION and ADD_KEY take (R561, R564). -/
def payloadCerts (payload : List Byte) : List (List Byte) := chunksOf certLen payload

/-- The store after the certificates of a payload have been taken into it. -/
def addedLife (s : State) (payload : List Byte) : Life :=
  let y := (s.addCerts (payloadCerts payload)).1.life
  { y with store := y.store ++ payloadCerts payload }

theorem lifeEffect_provision (h : u.life = s.life) (off : Nat) (payload : List Byte) : u.lifeEffect 1 off payload =
    if (s.addCerts (payloadCerts payload)).2 = true ∧ ∀ b ∈ payloadCerts payload, 16 ≤ le b 8 4 then
      .inl { u with life := { s.addedLife payload with fuses := 1 } } else .inr 6 := by
  obtain ⟨hlife, hall⟩ := addCerts_congr h (payloadCerts payload)
  have hgo : u.lifeEffect 1 off payload =
      if ((u.addCerts (payloadCerts payload)).2 && (payloadCerts payload).all fun b => decide (16 ≤ le b 8 4)) = true then
        .inl { (u.addCerts (payloadCerts payload)).1 with life := { (u.addCerts (payloadCerts payload)).1.life with
          store := (u.addCerts (payloadCerts payload)).1.life.store ++ payloadCerts payload, fuses := 1 } } else .inr 6 := rfl
  rw [hgo, hlife, hall, withLife_addCerts]
  simp only [Bool.and_eq_true, List.all_eq_true, decide_eq_true_eq]
  rfl

theorem lifeEffect_addKey (h : u.life = s.life) (off : Nat) (payload : List Byte) : u.lifeEffect 2 off payload =
    if (s.addCerts (payloadCerts payload)).2 = true then .inl { u with life := s.addedLife payload } else .inr 6 := by
  obtain ⟨hlife, hall⟩ := addCerts_congr h (payloadCerts payload)
  have hgo : u.lifeEffect 2 off payload = if (u.addCerts (payloadCerts payload)).2 = true then
        .inl { (u.addCerts (payloadCerts payload)).1 with life := { (u.addCerts (payloadCerts payload)).1.life with
          store := (u.addCerts (payloadCerts payload)).1.life.store ++ payloadCerts payload } } else .inr 6 := rfl
  rw [hgo, hlife, hall, withLife_addCerts]
  rfl

/-- The life cycle's record of a returned or scrapped module, on which no owner's certificate stands. -/
theorem retireLife_leaves (fuses : BitVec 4) : (u.retireLife fuses).life.fuses = fuses ∧ (u.retireLife fuses).life.refuseImages = true ∧
    (∀ p : PartId, (u.retireLife fuses).isRunning p = false) ∧ ∀ k ∈ (u.retireLife fuses).life.keys, k.keyId < 16 := by
  have hstop : ∀ p : PartId, u.stopAll.isRunning p = false := fun p => isRunning_stopAll p.isLt
  unfold retireLife
  generalize u.stopAll = v at hstop ⊢
  exact ⟨rfl, rfl, hstop, fun _ hk => of_decide_eq_true (List.mem_filter.mp hk).2⟩

theorem lifeEffect_fwUpdate (h : u.life = s.life) (off : Nat) (payload : List Byte) : u.lifeEffect 8 off payload =
    if s.fwVerifies payload = true then
      .inl { u with life := if s.life.running = 0 then { s.life with fw1 := ⟨payload⟩ } else { s.life with fw0 := ⟨payload⟩ } } else .inr 4 := by
  have hf : u.fwVerifies payload = s.fwVerifies payload := by
    simp only [fwVerifies, verifies, key?, keyCounts, lifeState, h]
    rfl
  have hgo : u.lifeEffect 8 off payload = if u.fwVerifies payload = true then
      .inl { u with life := if u.life.running = 0 then { u.life with fw1 := ⟨payload⟩ } else { u.life with fw0 := ⟨payload⟩ } } else .inr 4 := rfl
  rw [hgo, hf, h]

theorem lifeEffect_commitSvn (h : Reading s u) (off : Nat) (payload : List Byte) : u.lifeEffect 9 off payload =
    .inl { u with life := { s.life with svn := max s.life.svn (s.regF .lifeStatus [] 63 56) } } := by
  have hreg : u.regF .lifeStatus [] 63 56 = s.regF .lifeStatus [] 63 56 := congrArg (getF · 63 56) (h.reg (by decide))
  have hgo : u.lifeEffect 9 off payload = .inl { u with life := { u.life with svn := max u.life.svn (u.regF .lifeStatus [] 63 56) } } := rfl
  rw [hgo, hreg, h.life]

theorem lifeEffect_revoke (h : u.life = s.life) (off : Nat) (payload : List Byte) : u.lifeEffect 6 off payload =
    if le payload 0 4 < 2 ∨ 63 < le payload 0 4 then .inr 6
    else .inl { u with life := { s.life with revoked := s.life.revoked ||| BitVec.ofNat 64 (2 ^ le payload 0 4) } } := by
  have hgo : u.lifeEffect 6 off payload = if le payload 0 4 < 2 ∨ 63 < le payload 0 4 then .inr 6
    else .inl { u with life := { u.life with revoked := u.life.revoked ||| BitVec.ofNat 64 (2 ^ le payload 0 4) } } := rfl
  rw [hgo, h]

/-! ### A quote (R566) -/

/-- A quote's answer: its body, signed. -/
def quoteAnswer (s : State) (payload : List Byte) : List Byte := s.quoteBody payload ++ ownSig 14 15 (s.quoteBody payload)

theorem quoteBody_of_reading (h : Reading s u) (payload : List Byte) : u.quoteBody payload = s.quoteBody payload := by
  have hid : u.reg .keepIdent [] = s.reg .keepIdent [] := h.reg (by decide)
  have hstates : u.reg .keepPartState [] = s.reg .keepPartState [] := h.reg (by decide)
  have hstatus : u.reg .lifeStatus [] = s.reg .lifeStatus [] := h.reg (by decide)
  have hserial : u.reg .cartSerial [] = s.reg .cartSerial [] := h.reg (by decide)
  have hcart : u.reg .cartStatus [] = s.reg .cartStatus [] := h.reg (by decide)
  have hall : (List.range 16).all (fun p => decide (RegId.keepPartBuild.row.addr [p] ∉ RegId.lifeCmd.row.base :: dieCounters)) = true := by decide
  have hbuild : ∀ p ∈ List.range 16, u.reg .keepPartBuild [p] = s.reg .keepPartBuild [p] := fun p hp =>
    h.reg (of_decide_eq_true (List.all_eq_true.mp hall p hp))
  have hbuilds : ((List.range 16).flatMap fun p => leBytes 8 (u.reg .keepPartBuild [p]).toNat) =
      (List.range 16).flatMap fun p => leBytes 8 (s.reg .keepPartBuild [p]).toNat := List.flatMap_congr fun p hp => by rw [hbuild p hp]
  have hparts : u.parts = s.parts := by rw [h.frame]
  have hrec : u.retireRec = s.retireRec := by rw [h.frame]; rfl
  simp only [quoteBody, pstate, regF, hid, hstates, hstatus, hserial, hcart, hbuilds, part, hparts, hrec, lifeState, slotBytes', flashCerts, h.life]
  rfl

/-- What a store of the keeper's has left of a state: its bytes stand, and nothing failed or waits. -/
structure Reserved (a : Nat) (bs : List Byte) (u t : State) : Prop where
  life : t.life = u.life
  fresh : t.fresh = u.fresh
  failing : t.failing = u.failing
  stalled : t.stalled = u.stalled
  bytes : readBytes t.slow.data a bs.length = bs
  mem : SameMemBut (.tier true) a bs.length u t

theorem reserved_tierWrite (k : TiersCalm u) (a : Nat) (bs : List Byte) : Reserved a bs u (u.tierWrite true a bs).1 := by
  have hwrite := tierWrite_clean u true a bs (k.tier true) (k.touch true _ _)
  have hstore := tierWrite_storesCleanly k true a bs
  have hg := u.granules_frame true a bs.length
  rw [Counts] at hg
  refine ⟨?_, ?_, hstore.failing, hstore.stalled, ?_, fun pl b hb => ?_⟩
  · rw [hwrite, hg]
    rfl
  · rw [hwrite, hg]
    rfl
  · rw [hwrite]
    exact readBytes_writeBytes_self _ _ _
  · rw [hwrite, hg]
    cases pl with
    | tier slow =>
      cases slow with
      | true => exact readByte_writeBytes_of_not_mem _ fun h => hb ⟨rfl, h⟩
      | false => rfl
    | vat i => rfl
    | pool i => rfl

/-- A store of the keeper's where no granule is in error. -/
theorem reserved_reserveWrite (k : TiersCalm u) (kind a : Nat) (bs : List Byte) : Reserved a bs u (u.reserveWrite kind a bs).1 := by
  have hv : TiersCalm (u.traffic serviceClass true a bs.length) := (trafficAll_storesCleanly k serviceClass true a bs.length).calm
  obtain ⟨hlife, hfresh, hfail, hst, hbytes, hmem⟩ := reserved_tierWrite hv a bs
  have hbad := (tierWrite_storesCleanly hv true a bs).bad
  have hgo : (u.reserveWrite kind a bs).1 = ((u.traffic serviceClass true a bs.length).tierWrite true a bs).1 := by
    rw [reserveWrite, show (u.traffic serviceClass true a bs.length).writePlace (.tier true) a bs =
      (u.traffic serviceClass true a bs.length).tierWrite true a bs from rfl]
    simp only [hbad]
  rw [hgo]
  refine ⟨hlife, hfresh, hfail, hst, hbytes, fun pl b hb => (hmem pl b hb).trans ?_⟩
  cases pl <;> rfl

theorem lifeEffect_quoteAnswer (h : Reading s u) (off : Nat) (payload : List Byte) : u.lifeEffect 7 off payload =
    if stagingLen < off + 0x10000 + (s.quoteAnswer payload).length then .inr 1
    else .inl (u.reserveWrite 6 (stagingBase + off + 0x10000) (s.quoteAnswer payload)).1 := by
  have hgo : u.lifeEffect 7 off payload = if stagingLen < off + quoteGap + (u.quoteBody payload).length +
        (ownSig 14 15 (u.quoteBody payload)).length then .inr 1
      else .inl (u.reserveWrite 6 (stagingBase + off + quoteGap) (u.quoteAnswer payload)).1 := rfl
  rw [hgo, quoteAnswer, quoteBody_of_reading h, quoteAnswer, List.length_append, Nat.add_assoc (off + quoteGap), quoteGap]

/-! ### What stands in the way of an effect, and what an effect is (R564-R566) -/

/-- The code of an operation that a request object asks for and that cannot be. -/
def barCode (s : State) (off : Nat) (payload : List Byte) : Nat → Nat
  | 1 => if (s.addCerts (payloadCerts payload)).2 = true ∧ ∀ b ∈ payloadCerts payload, 16 ≤ le b 8 4 then 0 else 6
  | 2 => if (s.addCerts (payloadCerts payload)).2 = true then 0 else 6
  | 6 => if le payload 0 4 < 2 ∨ 63 < le payload 0 4 then 6 else 0
  | 7 => if stagingLen < off + 0x10000 + (s.quoteAnswer payload).length then 1 else 0
  | 8 => if s.fwVerifies payload = true then 0 else 4
  | _ => 0

/-- The effect of an operation, by its number. -/
def Effected (s : State) (off : Nat) (payload : List Byte) (t : State) : Nat → Prop
  | 1 => t.life.fuses = 1 ∧ t.life.store = s.life.store ++ payloadCerts payload ∧
      t.life.keys = (s.addCerts (payloadCerts payload)).1.life.keys ∧ SameMem s t
  | 2 => t.life.fuses = s.life.fuses ∧ t.life.store = s.life.store ++ payloadCerts payload ∧
      t.life.keys = (s.addCerts (payloadCerts payload)).1.life.keys ∧ SameMem s t
  | 3 => t.life = { s.life with fuses := 3 } ∧ SameMem s t
  | 4 => t.life.fuses = 7 ∧ t.life.refuseImages = true ∧ (∀ p : PartId, t.isRunning p = false) ∧ (∀ k ∈ t.life.keys, k.keyId < 16) ∧ SameMem s t
  | 5 => t.life.fuses = 15 ∧ t.life.refuseImages = true ∧ (∀ p : PartId, t.isRunning p = false) ∧ (∀ k ∈ t.life.keys, k.keyId < 16) ∧ SameMem s t
  | 6 => t.life = { s.life with revoked := s.life.revoked ||| BitVec.ofNat 64 (2 ^ le payload 0 4) } ∧ SameMem s t
  | 7 => readBytes t.slow.data (stagingBase + off + 0x10000) (s.quoteAnswer payload).length = s.quoteAnswer payload ∧
      SameMemBut (.tier true) (stagingBase + off + 0x10000) (s.quoteAnswer payload).length s t
  | 8 => t.life = (if s.life.running = 0 then { s.life with fw1 := ⟨payload⟩ } else { s.life with fw0 := ⟨payload⟩ }) ∧ SameMem s t
  | 9 => t.life = { s.life with svn := max s.life.svn (s.regF .lifeStatus [] 63 56) } ∧ SameMem s t
  | _ => False

/-- The life-cycle record alone is anew. -/
theorem Reading.sameMem_withLife (h : Reading s u) (y : Life) : SameMem s { u with life := y } := fun pl a => by
  rw [← h.sameMem pl a]
  cases pl <;> rfl

theorem addedLife_keeps (payload : List Byte) : (s.addedLife payload).fuses = s.life.fuses ∧
    (s.addedLife payload).store = s.life.store ++ payloadCerts payload ∧
    (s.addedLife payload).keys = (s.addCerts (payloadCerts payload)).1.life.keys := by
  have h := addCerts_keeps (s := s) (payloadCerts payload)
  refine ⟨?_, ?_, rfl⟩
  · show (s.addCerts (payloadCerts payload)).1.life.fuses = s.life.fuses
    rw [h]
  · show (s.addCerts (payloadCerts payload)).1.life.store ++ payloadCerts payload = s.life.store ++ payloadCerts payload
    rw [h]

theorem stops_retireLife (fuses : BitVec 4) : (u.retireLife fuses).fresh = u.fresh ∧ (u.retireLife fuses).failing = u.failing ∧
    (u.retireLife fuses).stalled = u.stalled ∧ SameMem u (u.retireLife fuses) := by
  have h := stops_stopAll (s := u)
  unfold retireLife
  generalize u.stopAll = v at h ⊢
  rw [Stops] at h
  rw [h]
  exact ⟨rfl, rfl, rfl, fun pl a => by cases pl <;> rfl⟩

/-- An operation that has its effect whole, and nothing fails or waits. -/
structure Takes (s u : State) (op off : Nat) (payload : List Byte) (t : State) : Prop where
  effect : u.lifeEffect op off payload = .inl t
  fresh : t.fresh = u.fresh
  failing : t.failing = u.failing
  stalled : t.stalled = u.stalled
  effected : Effected s off payload t op

/-- An operation that stands is refused by its code or has its effect whole. -/
theorem lifeEffect_cases (h : Reading s u) (k : TiersCalm s) {op : Nat} (hop : op ∈ [1, 2, 3, 4, 5, 6, 7, 8, 9]) (off : Nat) (payload : List Byte) :
    (s.barCode off payload op ≠ 0 ∧ u.lifeEffect op off payload = .inr (s.barCode off payload op)) ∨
      s.barCode off payload op = 0 ∧ ∃ t, Takes s u op off payload t := by
  have hl := h.life
  obtain ⟨hfuses, hstore, hkeys⟩ := addedLife_keeps (s := s) payload
  have hleave := fun f => stops_retireLife (u := u) f
  simp only [List.mem_cons, List.not_mem_nil, or_false] at hop
  rcases hop with rfl | rfl | rfl | rfl | rfl | rfl | rfl | rfl | rfl
  · have he := lifeEffect_provision hl off payload
    by_cases hc : (s.addCerts (payloadCerts payload)).2 = true ∧ ∀ b ∈ payloadCerts payload, 16 ≤ le b 8 4
    · rw [if_pos hc] at he
      exact .inr ⟨by rw [barCode, if_pos hc], _, he, rfl, rfl, rfl, rfl, hstore, hkeys, h.sameMem_withLife _⟩
    · rw [if_neg hc] at he
      have hbar : s.barCode off payload 1 = 6 := by rw [barCode, if_neg hc]
      exact .inl ⟨by rw [hbar]; decide, by rw [hbar]; exact he⟩
  · have he := lifeEffect_addKey hl off payload
    by_cases hc : (s.addCerts (payloadCerts payload)).2 = true
    · rw [if_pos hc] at he
      exact .inr ⟨by rw [barCode, if_pos hc], _, he, rfl, rfl, rfl, hfuses, hstore, hkeys, h.sameMem_withLife _⟩
    · rw [if_neg hc] at he
      have hbar : s.barCode off payload 2 = 6 := by rw [barCode, if_neg hc]
      exact .inl ⟨by rw [hbar]; decide, by rw [hbar]; exact he⟩
  · exact .inr ⟨rfl, { u with life := { u.life with fuses := 3 } }, rfl, rfl, rfl, rfl, by rw [hl], h.sameMem_withLife _⟩
  · obtain ⟨hf, hr, hs, hk⟩ := retireLife_leaves (u := u) 7
    obtain ⟨hfresh, hfail, hst, hmem⟩ := hleave 7
    exact .inr ⟨rfl, u.retireLife 7, rfl, hfresh, hfail, hst, hf, hr, hs, hk, sameMem_trans h.sameMem hmem⟩
  · obtain ⟨hf, hr, hs, hk⟩ := retireLife_leaves (u := u) 15
    obtain ⟨hfresh, hfail, hst, hmem⟩ := hleave 15
    exact .inr ⟨rfl, u.retireLife 15, rfl, hfresh, hfail, hst, hf, hr, hs, hk, sameMem_trans h.sameMem hmem⟩
  · have he := lifeEffect_revoke hl off payload
    by_cases hc : le payload 0 4 < 2 ∨ 63 < le payload 0 4
    · rw [if_pos hc] at he
      have hbar : s.barCode off payload 6 = 6 := by rw [barCode, if_pos hc]
      exact .inl ⟨by rw [hbar]; decide, by rw [hbar]; exact he⟩
    · rw [if_neg hc] at he
      exact .inr ⟨by rw [barCode, if_neg hc], _, he, rfl, rfl, rfl, rfl, h.sameMem_withLife _⟩
  · have he := lifeEffect_quoteAnswer h off payload
    by_cases hc : stagingLen < off + 0x10000 + (s.quoteAnswer payload).length
    · rw [if_pos hc] at he
      have hbar : s.barCode off payload 7 = 1 := by rw [barCode, if_pos hc]
      exact .inl ⟨by rw [hbar]; decide, by rw [hbar]; exact he⟩
    · rw [if_neg hc] at he
      have hres := reserved_reserveWrite (h.tiersCalm k) 6 (stagingBase + off + 0x10000) (s.quoteAnswer payload)
      exact .inr ⟨by rw [barCode, if_neg hc], _, he, hres.fresh, hres.failing, hres.stalled, hres.bytes, fun pl a ha =>
        (hres.mem pl a ha).trans (h.sameMem pl a)⟩
  · have he := lifeEffect_fwUpdate hl off payload
    by_cases hc : s.fwVerifies payload = true
    · rw [if_pos hc] at he
      exact .inr ⟨by rw [barCode, if_pos hc], _, he, rfl, rfl, rfl, rfl, h.sameMem_withLife _⟩
    · rw [if_neg hc] at he
      have hbar : s.barCode off payload 8 = 4 := by rw [barCode, if_neg hc]
      exact .inl ⟨by rw [hbar]; decide, by rw [hbar]; exact he⟩
  · exact .inr ⟨rfl, _, lifeEffect_commitSvn h off payload, rfl, rfl, rfl, rfl, h.sameMem_withLife _⟩

/-! ### The end of an operation (R563, R571) -/

/-- The state in which an operation has had its effect: LIFE_STATUS shows the fuses and RESULT 0, and the challenge is new. -/
def ended (t : State) : State := (t.showLife.setRegF .lifeStatus [] 15 8 0).newChallenge

theorem ended_shows : t.ended.regF .lifeStatus [] 15 8 = 0 ∧ t.ended.regF .lifeStatus [] 2 0 = t.lifeState ∧
    t.ended.reg .lifeChallenge [] = t.freeLong := by
  have hstatus : ∀ u : State, u.newChallenge.reg .lifeStatus [] = u.reg .lifeStatus [] := fun u =>
    reg_of_sameRegsBut sameRegsBut_newChallenge (by decide)
  rw [ended]
  generalize hv : t.showLife.setRegF .lifeStatus [] 15 8 0 = v
  refine ⟨(congrArg (getF · 15 8) (hstatus v)).trans ?_, (congrArg (getF · 2 0) (hstatus v)).trans ?_, reg_newChallenge.trans (hv ▸ rfl)⟩
  · rw [← hv]
    exact regF_setRegF_self _ _ _ _ _ _ (by decide) (by decide)
  · rw [← hv]
    exact (regF_setRegF_apart _ _ _ _ _ _ _ _ (by decide) (by decide) (.inl (by decide))).trans regF_showLife

theorem isRunning_ended (p : Nat) : t.ended.isRunning p = t.isRunning p := by
  have hregs : SameRegsBut ([RegId.lifeStatus.row.addr []] ++ [RegId.lifeStatus.row.addr []] ++ [RegId.lifeChallenge.row.addr []]) t t.ended :=
    sameRegsBut_trans (sameRegsBut_trans sameRegsBut_showLife (sameRegsBut_setRegF .lifeStatus [] 15 8 0)) sameRegsBut_newChallenge
  have hstates : t.ended.reg .keepPartState [] = t.reg .keepPartState [] := reg_of_sameRegsBut hregs (by decide)
  simp only [isRunning, pstate, regF, hstates]

/-- What an operation had done when it ended stands. -/
theorem Effected.ended {off : Nat} {payload : List Byte} {op : Nat} (h : Effected s off payload t op) : Effected s off payload t.ended op := by
  have hmem : SameMem s t → SameMem s t.ended := fun k pl a => by
    rw [← k pl a]
    cases pl <;> rfl
  match op, h with
  | 1, ⟨hf, hs, hk, hm⟩ => exact ⟨hf, hs, hk, hmem hm⟩
  | 2, ⟨hf, hs, hk, hm⟩ => exact ⟨hf, hs, hk, hmem hm⟩
  | 3, ⟨hl, hm⟩ => exact ⟨hl, hmem hm⟩
  | 4, ⟨hf, hr, hs, hk, hm⟩ => exact ⟨hf, hr, fun p => (isRunning_ended p).trans (hs p), hk, hmem hm⟩
  | 5, ⟨hf, hr, hs, hk, hm⟩ => exact ⟨hf, hr, fun p => (isRunning_ended p).trans (hs p), hk, hmem hm⟩
  | 6, ⟨hl, hm⟩ => exact ⟨hl, hmem hm⟩
  | 7, ⟨hb, hm⟩ => exact ⟨hb, fun pl a ha => by rw [← hm pl a ha]; cases pl <;> rfl⟩
  | 8, ⟨hl, hm⟩ => exact ⟨hl, hmem hm⟩
  | 9, ⟨hl, hm⟩ => exact ⟨hl, hmem hm⟩

/-- An operation's effect, clause by clause. -/
theorem Effected.clauses {off : Nat} {payload : List Byte} {op : Nat} (h : Effected s off payload t op) :
    (op = 1 → t.life.fuses = 1 ∧ t.life.store = s.life.store ++ payloadCerts payload ∧
      t.life.keys = (s.addCerts (payloadCerts payload)).1.life.keys) ∧
    (op = 2 → t.life.fuses = s.life.fuses ∧ t.life.store = s.life.store ++ payloadCerts payload ∧
      t.life.keys = (s.addCerts (payloadCerts payload)).1.life.keys) ∧
    (op = 3 → t.life = { s.life with fuses := 3 }) ∧
    ((op = 4 ∨ op = 5) → t.life.fuses = (if op = 4 then 7 else 15) ∧ t.life.refuseImages = true ∧ (∀ p : PartId, t.isRunning p = false) ∧
      ∀ k ∈ t.life.keys, k.keyId < 16) ∧
    (op = 6 → t.life = { s.life with revoked := s.life.revoked ||| BitVec.ofNat 64 (2 ^ le payload 0 4) }) ∧
    (op = 7 → readBytes t.slow.data (stagingBase + off + 0x10000) (s.quoteAnswer payload).length = s.quoteAnswer payload ∧
      SameMemBut (.tier true) (stagingBase + off + 0x10000) (s.quoteAnswer payload).length s t) ∧
    (op = 8 → t.life = if s.life.running = 0 then { s.life with fw1 := ⟨payload⟩ } else { s.life with fw0 := ⟨payload⟩ }) ∧
    (op = 9 → t.life = { s.life with svn := max s.life.svn (s.regF .lifeStatus [] 63 56) }) ∧
    (op ≠ 7 → SameMem s t) := by
  refine ⟨fun h1 => ?_, fun h2 => ?_, fun h3 => ?_, fun h45 => ?_, fun h6 => ?_, fun h7 => ?_, fun h8 => ?_, fun h9 => ?_, fun hne => ?_⟩
  · subst h1
    obtain ⟨hf, hs, hk, -⟩ := h
    exact ⟨hf, hs, hk⟩
  · subst h2
    obtain ⟨hf, hs, hk, -⟩ := h
    exact ⟨hf, hs, hk⟩
  · subst h3
    exact h.1
  · rcases h45 with rfl | rfl
    · obtain ⟨hf, hr, hp, hk, -⟩ := h
      exact ⟨hf, hr, hp, hk⟩
    · obtain ⟨hf, hr, hp, hk, -⟩ := h
      exact ⟨hf, hr, hp, hk⟩
  · subst h6
    exact h.1
  · subst h7
    exact h
  · subst h8
    exact h.1
  · subst h9
    exact h.1
  · match op, h with
    | 1, ⟨_, _, _, hm⟩ => exact hm
    | 2, ⟨_, _, _, hm⟩ => exact hm
    | 3, ⟨_, hm⟩ => exact hm
    | 4, ⟨_, _, _, _, hm⟩ => exact hm
    | 5, ⟨_, _, _, _, hm⟩ => exact hm
    | 6, ⟨_, hm⟩ => exact hm
    | 7, _ => exact absurd rfl hne
    | 8, ⟨_, hm⟩ => exact hm
    | 9, ⟨_, hm⟩ => exact hm

/-! ### An operation's command (R564, R572) -/

theorem lifeOp_refused {op off : Nat} (h : off % 64 ≠ 0 ∨ stagingLen ≤ off ∨ s.romOnly = true) : s.lifeOp op off = s.accessErr := by
  have hgo : s.wroteAt .lifeCmd [] (s.lifeGo op off) = s.accessErr := by
    by_cases hr : s.romOnly = true
    · exact wroteAt_of_unreachable (.inr hr) _
    · have hnone : s.lifeGo op off = none := if_pos (by tauto)
      rw [hnone, wroteAt_none]
  rw [lifeOp, hgo]
  exact settle_eq rfl rfl

/-- The request object of an operation at an offset of the staging area, with the bytes that its length names (R563). -/
def requestObj (s : State) (off : Nat) : List Byte :=
  readBytes s.slow.data (stagingBase + off)
    (min (stagingLen - off) (64 + padded (le (readBytes s.slow.data (stagingBase + off) 64) 0x18 4) + sigLen))

/-- A request object's payload. -/
def requestPayload (s : State) (off : Nat) : List Byte :=
  ((s.requestObj off).drop 64).take (le (readBytes s.slow.data (stagingBase + off) 64) 0x18 4)

theorem lifeRefusal_setCmd (v : Long) (op : Nat) (obj : List Byte) (total : Nat) :
    (s.setReg .lifeCmd [] v).lifeRefusal op obj total = s.lifeRefusal op obj total := by
  have hc : (s.setReg .lifeCmd [] v).reg .lifeChallenge [] = s.reg .lifeChallenge [] := reg_setReg_ne s .lifeCmd .lifeChallenge [] [] v (by decide)
  simp only [lifeRefusal, lifeState, verifies, key?, keyCounts, hc]
  rfl

theorem lifeRefusal_lt (op : Nat) (obj : List Byte) (total : Nat) : s.lifeRefusal op obj total < 256 := by
  unfold lifeRefusal
  extract_lets n rsa slh none' msg sig st
  split_ifs <;> decide

theorem barCode_lt (off : Nat) (payload : List Byte) (op : Nat) : s.barCode off payload op < 256 := by
  unfold barCode
  split <;> (try split) <;> decide

/-- A RESULT of an operation that is refused: but for it the reading of the object alone shows. -/
theorem Reading.refused (h : Reading s u) {code : Nat} (hc : code < 256) :
    let t := u.setRegF .lifeStatus [] 15 8 code
    s.settle t = t ∧ t = { s with mrs := t.mrs, sluices := t.sluices, dieSeen := t.dieSeen } ∧
      SameRegsBut (RegId.lifeCmd.row.base :: RegId.lifeStatus.row.base :: dieCounters) s t ∧ t.regF .lifeStatus [] 15 8 = code := by
  have hf := h.frame
  have hfail : u.failing = s.failing := by rw [hf]
  have hst : u.stalled = s.stalled := by rw [hf]
  refine ⟨settle_eq hst hfail, ?_, sameRegsBut_mono (sameRegsBut_trans h.regs (sameRegsBut_setReg u .lifeStatus [] _)) (by simp; tauto), ?_⟩
  · generalize hm : u.setRegF .lifeStatus [] 15 8 code = t
    rw [← hm, hf]
    rfl
  · exact (regF_setRegF_self u _ _ _ _ _ (by decide) (by decide)).trans (Nat.mod_eq_of_lt hc)

/-- An operation whose object is read without errors: it is refused with its code, or is done whole. -/
theorem lifeOp_runs {op off : Nat} (hop : op ∈ [1, 2, 3, 4, 5, 6, 7, 8, 9]) (hoff : off % 64 = 0) (hlen : off < stagingLen) (hrom : s.romOnly = false)
    (hclean : NoErrors s) : ∃ u, Reading s u ∧
      (s.lifeRefusal op (s.requestObj off) (stagingLen - off) ≠ 0 →
        s.lifeOp op off = s.settle (u.setRegF .lifeStatus [] 15 8 (s.lifeRefusal op (s.requestObj off) (stagingLen - off)))) ∧
      (s.lifeRefusal op (s.requestObj off) (stagingLen - off) = 0 →
        (s.barCode off (s.requestPayload off) op ≠ 0 →
          s.lifeOp op off = s.settle (u.setRegF .lifeStatus [] 15 8 (s.barCode off (s.requestPayload off) op))) ∧
        (s.barCode off (s.requestPayload off) op = 0 → ∃ t, s.lifeOp op off = t.ended ∧ t.fresh = s.fresh ∧
          Effected s off (s.requestPayload off) t op)) := by
  let c := s.setReg .lifeCmd [] (BitVec.ofNat 64 (op * 2 ^ 56 + off))
  have hbound : op ≤ 255 := by
    simp only [List.mem_cons, List.not_mem_nil, or_false] at hop
    omega
  have hgo : s.wroteAt .lifeCmd [] (s.lifeGo op off) = c.lifeRun op off := by
    have hsome : s.lifeGo op off = some (c.lifeRun op off) := if_neg (by omega)
    rw [hsome, wroteAt_of_reachable rfl hrom]
    rfl
  have hrun : s.lifeOp op off = s.settle (c.lifeRun op off) := by rw [lifeOp, hgo]
  have hcalm := tiersCalm_of_noErrors hclean
  obtain ⟨u, hu, hrefused, hstands⟩ := lifeRun_clean (s := c) (hcalm.tier true) op off
  have hread := Reading.of_keeper hu
  have hcode : c.lifeRefusal op (s.requestObj off) (stagingLen - off) = s.lifeRefusal op (s.requestObj off) (stagingLen - off) := lifeRefusal_setCmd ..
  refine ⟨u, hread, fun hne => ?_, fun hz => ?_⟩
  · rw [hrun, ← hcode]
    exact congrArg s.settle (hrefused (hcode ▸ hne))
  · obtain ⟨hdone, hbarred⟩ := hstands (hcode.trans hz)
    obtain ⟨hne, heff⟩ | ⟨hz, t, ht⟩ := lifeEffect_cases hread hcalm hop off (s.requestPayload off)
    · exact ⟨fun _ => by rw [hrun]; exact congrArg s.settle (hbarred _ heff), fun h => absurd h hne⟩
    · refine ⟨fun h => absurd hz h, fun _ => ⟨t, ?_, ht.fresh.trans hread.fresh, ht.effected⟩⟩
      have hst : u.stalled = s.stalled := by rw [hread.frame]
      have hfail : u.failing = s.failing := by rw [hread.frame]
      rw [hrun]
      exact (congrArg s.settle (hdone t ht.effect)).trans (settle_eq (ht.stalled.trans hst) (ht.failing.trans hfail))

/-- The life-cycle operations (R563-R566). -/
theorem lifeCycleOperations : Claims.LifeCycleOperations := by
  intro s off i op hi
  have hop : op ∈ [1, 2, 3, 4, 5, 6, 7, 8, 9] := List.mem_map_of_mem (f := Prod.snd) hi
  have hexec : exec i s = .next (s.lifeOp op off) := by
    simp only [List.mem_cons, List.not_mem_nil, or_false, Prod.mk.injEq] at hi
    rcases hi with ⟨rfl, rfl⟩ | ⟨rfl, rfl⟩ | ⟨rfl, rfl⟩ | ⟨rfl, rfl⟩ | ⟨rfl, rfl⟩ | ⟨rfl, rfl⟩ | ⟨rfl, rfl⟩ | ⟨rfl, rfl⟩ | ⟨rfl, rfl⟩ <;> rfl
  refine ⟨fun h => ?_, fun hoff hlen hrom hclean => ?_⟩
  · rw [hexec, lifeOp_refused h]
    exact ⟨_, rfl, onlyRegs_accessErr s, sameRegsBut_accessErr s, regF_accessErr_count s⟩
  · intro room n obj payload certs added id body code bad
    have hbad : bad = s.barCode off (s.requestPayload off) op := by
      have hcerts : certs = payloadCerts (s.requestPayload off) := rfl
      have hbody : body = s.quoteAnswer (s.requestPayload off) := rfl
      have hpayload : payload = s.requestPayload off := rfl
      simp only [List.mem_cons, List.not_mem_nil, or_false] at hop
      unfold bad added id
      rcases hop with rfl | rfl | rfl | rfl | rfl | rfl | rfl | rfl | rfl
      all_goals simp only [hcerts, hbody, hpayload, barCode, OfNat.one_ne_ofNat, OfNat.ofNat_ne_one, Nat.reduceEqDiff, true_and, false_and, if_false, ite_not]
      · cases (s.addCerts (payloadCerts (s.requestPayload off))).2 <;> rfl
      · cases s.fwVerifies (s.requestPayload off) <;> rfl
    obtain ⟨u, hread, hrefused, hstands⟩ := lifeOp_runs hop hoff hlen hrom hclean
    refine ⟨s.lifeOp op off, hexec, fun hne => ?_, fun hz hne => ?_, fun hz hb => ?_⟩
    · obtain ⟨hset, hleaves⟩ := hread.refused (code := code) (lifeRefusal_lt ..)
      rw [hrefused hne]
      exact hset.symm ▸ hleaves
    · obtain ⟨hset, hleaves⟩ := hread.refused (code := bad) (hbad ▸ barCode_lt ..)
      rw [(hstands hz).1 (hbad ▸ hne), ← hbad]
      exact hset.symm ▸ hleaves
    · obtain ⟨t, ht, hfresh, heff⟩ := (hstands hz).2 (hbad ▸ hb)
      obtain ⟨hresult, hshown, hchallenge⟩ := t.ended_shows
      rw [ht]
      refine ⟨hresult, hshown, hchallenge.trans (by rw [freeLong, hfresh]; rfl), ?_⟩
      exact heff.ended.clauses

end Sys2Proof.Machine.State
end

section
/-! PROOF. The cartridge comes and goes (O60; R567-R570, R606). -/

namespace Sys2Proof.Machine.State

variable {s t u : State}

/-! ### CART_STATUS -/

theorem cartStatus_self (hi lo v : Nat) (h : lo ≤ hi) (hb : hi < 64) (hv : v < 2 ^ (hi + 1 - lo)) :
    (s.setRegF .cartStatus [] hi lo v).regF .cartStatus [] hi lo = v :=
  (regF_setRegF_self s _ _ _ _ _ h hb).trans (Nat.mod_eq_of_lt hv)

theorem showCart_shows (h : s.cart.present = true) : s.showCart.regF .cartStatus [] 2 0 = (if s.cart.nvme = true then 2 else 1) ∧
    s.showCart.regF .cartStatus [] 19 16 = s.cart.width % 16 ∧ s.showCart.regF .cartStatus [] 15 12 = s.cart.gen % 16 := by
  rw [showCart]
  rw [if_pos h]
  refine ⟨?_, ?_, ?_⟩
  · exact cartStatus_self _ _ _ (by decide) (by decide) (by split <;> decide)
  · rw [regF_setRegF_apart _ _ _ _ _ _ _ _ (by decide) (by decide) (.inr (by decide)),
      regF_setRegF_apart _ _ _ _ _ _ _ _ (by decide) (by decide) (.inr (by decide)), regF_setRegF_self _ _ _ _ _ _ (by decide) (by decide)]
    rfl
  · rw [regF_setRegF_apart _ _ _ _ _ _ _ _ (by decide) (by decide) (.inr (by decide)), regF_setRegF_self _ _ _ _ _ _ (by decide) (by decide)]
    rfl

theorem onlyRegs_showCart : OnlyRegs s s.showCart := by
  rw [showCart]
  split <;> rfl

theorem sameRegsBut_showCart : SameRegsBut [RegId.cartStatus.row.base] s s.showCart := by
  have hset := fun (u : State) hi lo v => sameRegsBut_setReg u .cartStatus [] (setF (u.reg .cartStatus []) hi lo v)
  rw [showCart]
  split
  · exact sameRegsBut_mono (sameRegsBut_trans (sameRegsBut_trans (hset s _ _ _) (hset _ _ _ _)) (hset _ _ _ _)) (by simp; decide)
  · exact sameRegsBut_refl s _

/-- A cartridge put in. -/
def inserted (s : State) (nvme : Bool) (w g : Nat) : State :=
  { s with cart := { s.cart with present := true, nvme := nvme, width := w, gen := g, inserts := s.cart.inserts + 1 } }

/-! ### A cartridge is taken out -/

/-- A cartridge taken out, with what it holds. -/
def removed (s : State) : State := { s with cart := { Cart.shelve s.cart with present := false } }

/-- The registers of a cartridge that is not there. -/
def cartBlank (s : State) : State :=
  ((((s.setRegF .cartStatus [] 2 0 0).setRegF .cartStatus [] 19 16 0).setRegF .cartStatus [] 15 12 0).setRegF .cartStatus [] 39 32 0).setReg
      .cartSerial [] 0

theorem cartRemove_eq (h : s.cart.present = true) : s.cartRemove = s.removed.cartBlank := if_pos h

theorem cartBlank_shows : s.cartBlank.regF .cartStatus [] 2 0 = 0 ∧ s.cartBlank.reg .cartSerial [] = 0 := by
  refine ⟨?_, reg_setReg_self _ _ _ _⟩
  rw [cartBlank, regF, reg_setReg_ne _ _ _ _ _ _ (by decide), ← regF,
    regF_setRegF_apart _ _ _ _ _ _ _ _ (by decide) (by decide) (.inl (by decide)), regF_setRegF_apart _ _ _ _ _ _ _ _ (by decide) (by decide) (.inl (by decide)),
    regF_setRegF_apart _ _ _ _ _ _ _ _ (by decide) (by decide) (.inl (by decide))]
  exact cartStatus_self _ _ _ (by decide) (by decide) (by decide)

theorem onlyRegs_cartBlank : OnlyRegs s s.cartBlank := by
  have hset := fun (u : State) hi lo v => onlyRegs_setReg u .cartStatus [] (setF (u.reg .cartStatus []) hi lo v)
  exact onlyRegs_trans (onlyRegs_trans (onlyRegs_trans (onlyRegs_trans (hset s _ _ _) (hset _ _ _ _)) (hset _ _ _ _)) (hset _ _ _ _))
    (onlyRegs_setReg _ .cartSerial [] 0)

theorem sameRegsBut_cartBlank : SameRegsBut [RegId.cartStatus.row.base, RegId.cartSerial.row.base] s s.cartBlank := by
  have hset := fun (u : State) hi lo v => sameRegsBut_setReg u .cartStatus [] (setF (u.reg .cartStatus []) hi lo v)
  exact sameRegsBut_mono (sameRegsBut_trans (sameRegsBut_trans (sameRegsBut_trans (sameRegsBut_trans (hset s _ _ _) (hset _ _ _ _)) (hset _ _ _ _))
    (hset _ _ _ _)) (sameRegsBut_setReg _ .cartSerial [] 0)) (by simp; decide)

/-! ### A cartridge answers (R569) -/

theorem le_lt (l : List Byte) (o n : Nat) : le l o n < 256 ^ n :=
  (fromLE_lt _).trans_le (Nat.pow_le_pow_right (by decide) (List.length_take_le _ _))

/-- A cartridge that has been accepted is worn with its writes or its hours (R570). -/
theorem cartWorn_shows (h3 : s.cartState = 3) : s.cartWorn.cartState =
    (if 40000000000000000 ≤ s.cart.written ∨ 43830 ≤ s.regF .cartWear [] 63 32 then 4 else 3) := by
  unfold cartWorn
  extract_lets u
  have hstate : u.cartState = 3 := (regF_setRegF_ne s _ _ _ _ _ _ _ _ _ (by decide)).trans h3
  have hwear : u.regF .cartWear [] 63 32 = s.regF .cartWear [] 63 32 := regF_setRegF_apart s _ _ _ _ _ _ _ (by decide) (by decide) (.inr (by decide))
  rw [hstate, hwear]
  by_cases hw : 40000000000000000 ≤ s.cart.written ∨ 43830 ≤ s.regF .cartWear [] 63 32
  · rw [if_pos hw, if_pos ⟨rfl, hw⟩]
    exact cartStatus_self _ _ _ (by decide) (by decide) (by decide)
  · rw [if_neg hw, if_neg fun h => hw h.2, hstate]

theorem cartWorn_frame : OnlyRegs s s.cartWorn ∧ SameRegsBut [RegId.cartWear.row.base, RegId.cartStatus.row.base] s s.cartWorn := by
  have hwear := fun v => sameRegsBut_setReg s .cartWear [] (setF (s.reg .cartWear []) 31 0 v)
  unfold cartWorn
  extract_lets u
  split
  · exact ⟨rfl, sameRegsBut_trans (hwear _) (sameRegsBut_setReg u .cartStatus [] _)⟩
  · exact ⟨rfl, sameRegsBut_mono (hwear _) (by simp; decide)⟩

/-- The nonce that the module sends next. -/
def nonceNext (s : State) : List Byte := (List.range 32).map fun i => Config.freeByte s.fresh i

/-- The module has sent its nonce, and shows the cartridge's format. -/
def nonceSent (s : State) (a : CartAnswer) : State :=
  (({ s with fresh := s.fresh + 1 } : State).emit (.cart s.nonceNext)).setRegF .cartStatus [] 39 32 (le a.body 4 1)

theorem nonceSent_frame (a : CartAnswer) : s.nonceSent a = { s with fresh := s.fresh + 1, out := .cart s.nonceNext :: s.out, mrs := (s.nonceSent a).mrs } := by
  have hout : (({ s with fresh := s.fresh + 1 } : State).emit (.cart s.nonceNext)) = { s with fresh := s.fresh + 1, out := .cart s.nonceNext :: s.out } := by
    simp [emit, emitAll, outLost, pausedOut]
  rw [nonceSent, hout]
  rfl

theorem answerOk_nonceSent (nonce : List Byte) (a : CartAnswer) : (s.nonceSent a).answerOk nonce a = s.answerOk nonce a := rfl

/-- A cartridge whose answer holds. -/
def cartAccepted (s : State) (a : CartAnswer) : State :=
  let serial : Long := BitVec.ofNat 64 (le a.body 8 8)
  ((({ s with cart := Cart.known s.cart serial (le a.body 0x10 8 * 1000000000) }.setReg .cartSerial [] serial).setRegF .cartWear [] 63 32
    (le a.body 0x18 4)).setRegF .cartStatus [] 2 0 3).cartWorn

/-- A cartridge whose answer does not hold. -/
def cartRefused (s : State) : State := (s.setRegF .cartStatus [] 2 0 2).setReg .cartSerial [] 0

theorem cartAuth_eq (a : CartAnswer) (hp : s.cart.present = true) (hn : s.cart.nvme = true) (h2 : s.xingHeld 322 = false) (h3 : s.xingHeld 323 = false) :
    s.cartAuth a = if s.answerOk s.nonceNext a = true then (s.nonceSent a).cartAccepted a else (s.nonceSent a).cartRefused :=
  if_pos (by rw [hp, hn, h2, h3]; rfl)

theorem cartAuth_absent (a : CartAnswer) (h : s.cart.present = false ∨ s.cart.nvme = false ∨ s.xingHeld 322 = true ∨ s.xingHeld 323 = true) :
    s.cartAuth a = s :=
  if_neg (by rcases h with h | h | h | h <;> simp [h])

/-- What an accepted cartridge shows, and what is known of it. -/
theorem cartAccepted_shows (a : CartAnswer) :
    let serial : Long := BitVec.ofNat 64 (le a.body 8 8)
    (s.cartAccepted a).cart = Cart.known s.cart serial (le a.body 0x10 8 * 1000000000) ∧ (s.cartAccepted a).reg .cartSerial [] = serial ∧
      (s.cartAccepted a).cartState = (if 40000000000000000 ≤ (s.cartAccepted a).cart.written ∨ 43830 ≤ le a.body 0x18 4 then 4 else 3) ∧
      s.cartAccepted a = { s with cart := (s.cartAccepted a).cart, mrs := (s.cartAccepted a).mrs } := by
  intro serial
  let v := ({ s with cart := Cart.known s.cart serial (le a.body 0x10 8 * 1000000000) }.setReg .cartSerial [] serial).setRegF .cartWear [] 63 32
    (le a.body 0x18 4)
  let u := v.setRegF .cartStatus [] 2 0 3
  have hgo : s.cartAccepted a = u.cartWorn := rfl
  obtain ⟨hframe, hregs⟩ := cartWorn_frame (s := u)
  have hcart : u.cartWorn.cart = u.cart := by rw [hframe]
  have hshows := cartWorn_shows (s := u) (cartStatus_self _ _ _ (by decide) (by decide) (by decide))
  have hwear : u.regF .cartWear [] 63 32 = le a.body 0x18 4 :=
    (regF_setRegF_ne v _ _ _ _ _ _ _ _ _ (by decide)).trans
      ((regF_setRegF_self _ _ _ _ _ _ (by decide) (by decide)).trans (Nat.mod_eq_of_lt (le_lt a.body 0x18 4)))
  have hserial : u.reg .cartSerial [] = serial :=
    (reg_setRegF_ne v _ _ _ _ _ _ _ (by decide)).trans ((reg_setRegF_ne _ _ _ _ _ _ _ _ (by decide)).trans (reg_setReg_self _ _ _ _))
  rw [hwear] at hshows
  rw [hgo]
  refine ⟨hcart, (reg_of_sameRegsBut hregs (by decide)).trans hserial, by rw [hcart]; exact hshows, ?_⟩
  generalize hw : u.cartWorn = w at hframe
  rw [OnlyRegs] at hframe
  rw [hframe]
  rfl

theorem cartRefused_shows : s.cartRefused.cart = s.cart ∧ s.cartRefused.reg .cartSerial [] = 0 ∧ s.cartRefused.cartState = 2 ∧
    OnlyRegs s s.cartRefused :=
  ⟨rfl, reg_setReg_self _ _ _ _, (congrArg (getF · 2 0) (reg_setReg_ne _ .cartSerial .cartStatus [] [] 0 (by decide))).trans
    (cartStatus_self _ _ _ (by decide) (by decide) (by decide)), rfl⟩

/-- A cartridge is known again by its serial (R569, R570, R606). -/
theorem known_eq (k : Cart) (serial : Long) (signed : Nat) : (Cart.known k serial signed).serial = serial ∧ (Cart.known k serial signed).blind = false ∧
    (k.blind = false → k.serial = serial → (Cart.known k serial signed).data = k.data ∧ (Cart.known k serial signed).heads = k.heads ∧
      (Cart.known k serial signed).written = max k.written signed) ∧
    ((k.blind = true ∨ k.serial ≠ serial) → (Cart.known k serial signed).data = (k.shelf.get ⟨[], [], 0⟩ serial.toNat).data ∧
      (Cart.known k serial signed).heads = (k.shelf.get ⟨[], [], 0⟩ serial.toNat).heads ∧
      (Cart.known k serial signed).written = max (k.shelf.get ⟨[], [], 0⟩ serial.toNat).written signed) := by
  by_cases h : k.blind = false ∧ k.serial = serial
  · have hk : Cart.known k serial signed = { k with written := max k.written signed } := if_pos (by simp [h])
    rw [hk]
    exact ⟨h.2, h.1, fun _ _ => ⟨rfl, rfl, rfl⟩, fun hn => by simp [h] at hn⟩
  · have hshelf : (Cart.shelve k).shelf.get ⟨[], [], 0⟩ serial.toNat = k.shelf.get ⟨[], [], 0⟩ serial.toNat := by
      by_cases hb : k.blind = true
      · simp [Cart.shelve, hb]
      · have hne : k.serial ≠ serial := fun he => h ⟨by simpa using hb, he⟩
        have hnat : serial.toNat ≠ k.serial.toNat := fun he => hne (BitVec.eq_of_toNat_eq he.symm)
        simp [Cart.shelve, hb, FMap.get_set_ne _ _ _ hnat]
    have hk : Cart.known k serial signed = { Cart.shelve k with
        blind := false, data := (k.shelf.get ⟨[], [], 0⟩ serial.toNat).data, heads := (k.shelf.get ⟨[], [], 0⟩ serial.toNat).heads,
        written := max (k.shelf.get ⟨[], [], 0⟩ serial.toNat).written signed, serial := serial } := by
      rw [← hshelf]
      exact if_neg (by simpa using h)
    rw [hk]
    exact ⟨rfl, rfl, fun hb hs => absurd ⟨hb, hs⟩ h, fun _ => ⟨rfl, rfl, rfl⟩⟩

/-- The cartridge (R567-R570). -/
theorem cartridgesComeAndGo : Claims.CartridgesComeAndGo := by
  intro s
  refine ⟨fun nvme w g hp => congrArg Host.Outcome.next (if_pos hp), fun nvme w g hp => ?_, fun hp => congrArg Host.Outcome.next (if_neg (by simp [hp])),
    fun hp => ?_, fun a h => congrArg Host.Outcome.next (cartAuth_absent a h), fun a hp hn h2 h3 => ?_⟩
  · have hgo : s.cartInsert nvme w g = (s.inserted nvme w g).showCart := if_neg (by simp [hp])
    obtain ⟨hstate, hwidth, hgen⟩ := showCart_shows (s := s.inserted nvme w g) rfl
    have hframe := onlyRegs_showCart (s := s.inserted nvme w g)
    refine ⟨_, congrArg Host.Outcome.next hgo, ?_, hstate, hwidth, hgen, sameRegsBut_showCart (s := s.inserted nvme w g)⟩
    rw [OnlyRegs] at hframe
    exact hframe
  · obtain ⟨hstate, hserial⟩ := cartBlank_shows (s := s.removed)
    have hframe := onlyRegs_cartBlank (s := s.removed)
    have hregs := sameRegsBut_cartBlank (s := s.removed)
    have hexec : exec .cartridgeRemove s = .next s.removed.cartBlank := congrArg Host.Outcome.next (cartRemove_eq hp)
    generalize s.removed.cartBlank = t at hstate hserial hframe hregs hexec
    rw [OnlyRegs] at hframe
    have hcart : t.cart = { Cart.shelve s.cart with present := false } := by
      rw [hframe]
      rfl
    refine ⟨t, hexec, ?_, ?_, ?_, ?_, ?_, fun hb => ?_, hstate, hserial, hregs⟩
    · rw [hframe]
      rfl
    all_goals rw [hcart]
    all_goals simp only [Cart.shelve]
    rw [hb]
    exact FMap.get_set_self _ _ _ _
  · intro nonce serial signed kept
    have hframe := nonceSent_frame (s := s) a
    have hcart : (s.nonceSent a).cart = s.cart := by rw [hframe]
    refine ⟨_, congrArg Host.Outcome.next (cartAuth_eq a hp hn h2 h3), ?_⟩
    cases hok : s.answerOk s.nonceNext a with
    | true =>
      obtain ⟨hc, hserial, hstate, hleaves⟩ := cartAccepted_shows (s := s.nonceSent a) a
      obtain ⟨hks, hkb, hsame, hother⟩ := known_eq s.cart serial signed
      rw [hcart] at hc
      generalize (s.nonceSent a).cartAccepted a = t at *
      rw [hframe] at hleaves
      rw [if_pos rfl]
      refine ⟨congrArg State.fresh hleaves, congrArg State.out hleaves, fun pl b => ?_, (congrArg State.cores hleaves).trans rfl, fun hno => absurd (hok.symm.trans hno) (by decide), fun _ => ?_⟩
      · rw [hleaves]
        cases pl <;> rfl
      · rw [hc] at hstate ⊢
        exact ⟨hserial, hks, hkb, hsame, hother, hstate⟩
    | false =>
      obtain ⟨hc, hserial, hstate, hleaves⟩ := cartRefused_shows (s := s.nonceSent a)
      rw [hcart] at hc
      generalize (s.nonceSent a).cartRefused = t at *
      rw [OnlyRegs, hframe] at hleaves
      rw [if_neg Bool.false_ne_true]
      refine ⟨congrArg State.fresh hleaves, congrArg State.out hleaves, fun pl b => ?_, (congrArg State.cores hleaves).trans rfl, fun _ => ⟨hc, hstate, hserial⟩,
        fun hyes => absurd (hok.symm.trans hyes) (by decide)⟩
      rw [hleaves]
      cases pl <;> rfl

end Sys2Proof.Machine.State
end

section
/-! PROOF. The keeper and its watch (O60; R575-R578, R590, R591). -/

namespace Sys2Proof.Machine.State

variable {r s t u : State}

/-! ### The loss of the keeper (R576) -/

/-- What the loss of the keeper leaves as it goes on: the life cycle, KEEP_WATCH, no access that waits, and no partition that starts. -/
structure Losing (r s : State) : Prop where
  life : s.life = r.life
  watch : s.reg .keepWatch [] = r.reg .keepWatch []
  stalled : s.stalled = r.stalled
  running : ∀ p, s.isRunning p = true → r.isRunning p = true

namespace Losing

theorem refl (s : State) : Losing s s := ⟨rfl, rfl, rfl, fun _ => id⟩

theorem trans (h : Losing r s) (k : Losing s t) : Losing r t :=
  ⟨k.life.trans h.life, k.watch.trans h.watch, k.stalled.trans h.stalled, fun p => h.running p ∘ k.running p⟩

theorem spared {q : Bool} (h : Losing r s) (k : Spared q true s t) : Losing r t :=
  h.trans ⟨k.life, k.keepWatch, k.stalled rfl, k.running⟩

/-- A step that changes no register and nothing of these. -/
theorem beside (h : Losing r s) (hl : t.life = s.life) (hm : t.mrs = s.mrs) (hs : t.stalled = s.stalled) : Losing r t :=
  h.trans ⟨hl, by simp only [reg, hm], hs, fun p hp => by simpa only [isRunning, pstate, regF, reg, hm] using hp⟩

theorem setReg {id : RegId} {ix : List Nat} {v : Long} (h : Losing r s) (hw : id.row.addr ix ≠ 0x300) (hp : id.row.addr ix ≠ 0x200) :
    Losing r (s.setReg id ix v) :=
  h.trans ⟨rfl, reg_setReg_ne s id .keepWatch ix [] v (Ne.symm hw), rfl, fun p hr => by rwa [Spared.isRunning_setReg hp] at hr⟩

theorem foldl {α : Type} {f : State → α → State} {l : List α} (h : Losing r s) (hf : ∀ {u a}, a ∈ l → Losing r u → Losing r (f u a)) :
    Losing r (l.foldl f s) :=
  List.foldlRecOn l f h fun _ hu _ ha => hf ha hu

theorem sendRoute {q : Option LinkRoute} {mtype : Nat} {dest : Half} {tag : Word} {data : List Byte} {x : Purpose} (h : Losing r s) :
    Losing r (s.sendRoute q mtype dest tag data x) := by
  rw [sendRoute_frame]
  exact h.beside rfl rfl rfl

theorem sendWatch {kind cause : Nat} (h : Losing r s) : Losing r (s.sendWatch kind cause) := by
  unfold State.sendWatch
  extract_lets ports u far
  have hu : Losing r u := h.foldl fun _ h => h.beside rfl rfl rfl
  refine hu.foldl fun _ h => ?_
  dsimp only
  split
  · exact Losing.sendRoute (h.beside rfl rfl rfl)
  · exact h

theorem dropQps (h : Losing r s) : Losing r s.dropQps := by
  unfold State.dropQps
  extract_lets u
  have hu : Losing r u := foldl (h.beside rfl rfl rfl) fun _ h => h.spared (q := true) ((Spared.refl _ _ _).savesFailed)
  exact hu.foldl fun _ h => h.spared (q := true) ((Spared.refl _ _ _).ferryAbort)

theorem removePart {p : Nat} (hp : p < 16) (h : Losing r s) : Losing r (s.removePart p) := by
  have hout : Losing r ((s.modPart p fun _ => Part.undefinedPart).setPstate p 0) :=
    (h.beside (t := s.modPart p fun _ => Part.undefinedPart) rfl rfl rfl).spared (q := true) ((Spared.refl _ _ _).setPstate hp (by decide))
  refine hout.setReg ?_ ?_ <;> simp [RegRow.addr, RegId.row, sumN] <;> omega

theorem dropHosts (h : Losing r s) : Losing r s.dropHosts := by
  unfold State.dropHosts
  extract_lets half u v
  have hu : Losing r u := h.beside rfl rfl rfl
  have hv : Losing r v := hu.setReg (by decide) (by decide)
  exact hv.foldl fun hp h => h.removePart (List.mem_range.mp (List.mem_filter.mp hp).1)

theorem dropSlices (h : Losing r s) : Losing r s.dropSlices := by
  unfold State.dropSlices
  extract_lets u b
  have hu : Losing r u := by
    unfold u
    split
    · exact h.foldl fun _ h => h.beside rfl rfl rfl
    · exact h
  exact Losing.setReg (hu.beside rfl rfl rfl) (by decide) (by decide)

end Losing

/-- No session, queue pair or region is open, and no image is being loaded. -/
def HostsGone (s : State) : Prop := s.sessions = [] ∧ s.qps = [] ∧ s.regions = [] ∧ s.load = none

theorem hostsGone_dropHosts : s.dropHosts.HostsGone := by
  unfold dropHosts
  extract_lets half u v
  have hv : v.HostsGone := ⟨rfl, rfl, rfl, rfl⟩
  exact List.foldlRecOn (motive := HostsGone) half _ hv fun t ht p _ => ht

theorem HostsGone.dropSlices (h : s.HostsGone) : s.dropSlices.HostsGone := by
  unfold State.dropSlices
  extract_lets u b
  have hu : u.HostsGone := by
    unfold u
    split
    · exact List.foldlRecOn (motive := HostsGone) _ _ h fun t ht p _ => ht
    · exact h
  exact hu

/-- KEEP_WATCH as the watch sequencer writes it. -/
def lossShown (s : State) (cause : Nat) : State := ((s.setRegF .keepWatch [] 2 2 1).setRegF .keepWatch [] 33 32 cause).bump .keepWatch [] 63 48

theorem lossShown_shows {cause : Nat} (hc : cause < 4) : (s.lossShown cause).regF .keepWatch [] 33 32 = cause ∧
    (s.lossShown cause).regF .keepWatch [] 2 2 = 1 ∧
    (s.lossShown cause).regF .keepWatch [] 63 48 = min (s.regF .keepWatch [] 63 48 + 1) 0xFFFF := by
  refine ⟨?_, ?_, ?_⟩
  · exact (regF_setRegF_apart _ _ _ _ _ _ _ _ (by decide) (by decide) (.inl (by decide))).trans
      ((regF_setRegF_self _ _ _ _ _ _ (by decide) (by decide)).trans (Nat.mod_eq_of_lt hc))
  · exact (regF_setRegF_apart _ _ _ _ _ _ _ _ (by decide) (by decide) (.inl (by decide))).trans
      ((regF_setRegF_apart _ _ _ _ _ _ _ _ (by decide) (by decide) (.inl (by decide))).trans (regF_setRegF_self _ _ _ _ _ _ (by decide) (by decide)))
  · refine (regF_bumpBy_self _ _ _ _ _ _ (by decide) (by decide)).trans ?_
    rw [regF_setRegF_apart _ _ _ _ _ _ _ _ (by decide) (by decide) (.inr (by decide)),
      regF_setRegF_apart _ _ _ _ _ _ _ _ (by decide) (by decide) (.inr (by decide))]
    rfl

/-- The keeper is down: READY and the running firmware are gone from the registers. -/
def keeperDown (s : State) : State :=
  (({ s with job := { s.job with loads := [] } } : State).setRegF .keepStatus [] 0 0 0).setRegF .lifeStatus [] 33 32 0

theorem keeperDown_leaves : Losing s s.keeperDown ∧ (s.HostsGone → s.keeperDown.HostsGone) ∧ s.keeperDown.ready = false := by
  let y : State := { s with job := { s.job with loads := [] } }
  have hy : Losing s y := (Losing.refl s).beside rfl rfl rfl
  refine ⟨(hy.setReg (by decide) (by decide)).setReg (by decide) (by decide), id, ?_⟩
  rw [keeperDown, ready, regF_setRegF_ne _ _ _ _ _ _ _ _ _ _ (by decide), regF_setRegF_self _ _ _ _ _ _ (by decide) (by decide)]
  rfl

/-- The keeper is lost: every partition halts, the hosts' sessions are gone, and KEEP_WATCH tells the cause. -/
theorem keeperLost_loses {cause : Nat} (hr : s.ready = true) : Losing (s.lossShown cause) (s.keeperLost cause) ∧ (s.keeperLost cause).HostsGone ∧
    (s.keeperLost cause).ready = false ∧ ∀ p < 16, (s.keeperLost cause).isRunning p = false := by
  let v := ({ s.lossShown cause with sessions := [] } : State).haltParts (List.range 16) 0xFFFFFFFD#32
  let w := (v.dropQps.sendWatch 0 cause).dropHosts.dropSlices
  have hgo : s.keeperLost cause = w.keeperDown := by
    unfold keeperLost
    rw [if_pos hr]
    rfl
  have hempty : Losing (s.lossShown cause) { s.lossShown cause with sessions := [] } := (Losing.refl _).beside rfl rfl rfl
  have hv : Losing (s.lossShown cause) v := hempty.spared (q := true) (Spared.refl _ _ _).haltParts
  have hstop : ∀ p < 16, v.isRunning p = false := fun p hp => isRunning_haltParts (List.mem_range.mpr hp) _
  have hvw : Losing v w := (Losing.refl v).dropQps.sendWatch.dropHosts.dropSlices
  have hgone : w.HostsGone := hostsGone_dropHosts.dropSlices
  clear_value w v
  obtain ⟨hdown, hkept, hready⟩ := w.keeperDown_leaves
  rw [hgo]
  refine ⟨hv.trans (hvw.trans hdown), hkept hgone, hready, fun p hp => ?_⟩
  by_contra hrun
  have := (hvw.trans hdown).running p (Bool.not_eq_false _ ▸ hrun)
  rw [hstop p hp] at this
  cases this

/-- What a command comes to that finds the keeper lost. -/
theorem settle_keeperLost {cause : Nat} (hr : s.ready = true) (hc : cause < 4) :
    let t := s.settle (s.keeperLost cause)
    t.ready = false ∧ t.regF .keepWatch [] 33 32 = cause ∧ t.regF .keepWatch [] 2 2 = 1 ∧
      t.regF .keepWatch [] 63 48 = min (s.regF .keepWatch [] 63 48 + 1) 0xFFFF ∧ (∀ p : PartId, t.isRunning p = false) ∧ t.sessions = [] ∧
      t.qps = [] ∧ t.regions = [] ∧ t.load = none ∧ t.life = s.life := by
  intro t
  obtain ⟨hloss, ⟨hsess, hqps, hregions, hload⟩, hready, hrun⟩ := keeperLost_loses (cause := cause) hr
  obtain ⟨hcause, hlost, hcount⟩ := lossShown_shows (s := s) hc
  have hset : Spared false true (s.keeperLost cause) t := Spared.settled (s := s) hloss.stalled
  have hwatch : t.reg .keepWatch [] = (s.lossShown cause).reg .keepWatch [] := hset.keepWatch.trans hloss.watch
  refine ⟨hset.ready.trans hready, (congrArg (getF · 33 32) hwatch).trans hcause, (congrArg (getF · 2 2) hwatch).trans hlost,
    (congrArg (getF · 63 48) hwatch).trans hcount, fun p => ?_, ?_, hset.qps.trans hqps, hset.regions.trans hregions, hset.load hload,
    hset.life.trans hloss.life⟩
  · by_contra h
    have := hset.running p (Bool.not_eq_false _ ▸ h)
    rw [hrun p p.isLt] at this
    cases this
  · have hids := hset.ids
    rw [hsess] at hids
    simpa using hids

/-! ### The keeper starts again (R577) -/

/-- What the keeper's start leaves as it goes on. -/
structure Waking (s t : State) : Prop where
  mem : MemKept s t
  cores : t.cores = s.cores
  life : t.life = s.life
  step : t.bootStep = s.bootStep
  ready : t.ready = s.ready
  meter : t.meter.fault = s.meter.fault ∧ (s.meter.told = true → t.meter.told = true)

theorem Waking.trans (h : Waking r s) (k : Waking s t) : Waking r t :=
  ⟨h.mem.trans k.mem, k.cores.trans h.cores, k.life.trans h.life, k.step.trans h.step, k.ready.trans h.ready,
    k.meter.1.trans h.meter.1, k.meter.2 ∘ h.meter.2⟩

theorem BootKept.waking (h : BootKept s t) (hm : t.meter = s.meter) : Waking s t :=
  ⟨h.mem, h.cores, h.life, h.step, h.ready, by rw [hm], by rw [hm]; exact id⟩

theorem waking_sendWatch (kind cause : Nat) : Waking s (s.sendWatch kind cause) := by
  have hframe : s.sendWatch kind cause = { s with job := (s.sendWatch kind cause).job, waiting := (s.sendWatch kind cause).waiting } := by
    unfold sendWatch
    extract_lets ports u far
    have hu : u = { s with job := u.job, waiting := u.waiting } := List.foldlRecOn (motive := fun u : State =>
      u = { s with job := u.job, waiting := u.waiting }) ports _ rfl fun t ht p _ => by rw [ht]; rfl
    refine List.foldlRecOn (motive := fun u : State => u = { s with job := u.job, waiting := u.waiting }) far _ hu fun t ht m _ => ?_
    dsimp only
    split
    · rw [sendRoute_frame, ht]
      rfl
    · exact ht
  rw [hframe]
  exact ⟨⟨rfl, rfl, rfl, rfl, rfl, rfl⟩, rfl, rfl, rfl, rfl, rfl, id⟩

theorem waking_tellHalt (p : Nat) : Waking s (s.tellHalt p) := by
  have hs := (Spared.refl true true s).tellHalt (p := p)
  have hf := tellHalt_frame s p
  have hstep : (s.tellHalt p).bootStep = s.bootStep := by
    rw [HaltChanges] at hf
    rw [hf]
  have hmeter : (s.tellHalt p).meter = s.meter := by
    rw [HaltChanges] at hf
    rw [hf]
  exact ⟨memKept_of_haltChanges hf, cores_tellHalt p, hs.life, hstep, hs.ready, by rw [hmeter], by rw [hmeter]; exact id⟩

theorem waking_record (severity code : Nat) (part : Option Nat) (unit : Nat) (step : Option Word) (addr : Option Nat) (detail : List Byte) :
    Waking s (s.record severity code part unit step addr detail) := by
  have hf := record_frame s severity code part unit step addr detail
  rw [Reports] at hf
  exact (bootKept_record ..).waking (by rw [hf])

theorem waking_serviceEntries : Waking s s.serviceEntries := by
  refine bootKept_serviceEntries.waking ?_
  unfold serviceEntries writeRetire
  split_ifs
  all_goals dsimp only
  all_goals split_ifs <;> rfl

theorem waking_showRecord : Waking s s.showRecord :=
  bootKept_showRecord.waking (List.foldlRecOn (motive := fun t : State => t.meter = s.meter) _ _ rfl fun _ ht _ _ => ht)

/-- The keeper starts again from its firmware in slot i, up to its record. -/
def keeperUp (s : State) (i : Nat) : State :=
  let u := ((s.runFirmware i).serviceEntries.showRecord).sendWatch 1 0
  let v := (List.range 16).foldl (fun (t : State) p => t.tellHalt p) u
  v.record 3 0x0070 none 0xFFFF none none (beBytes 8 (v.reg .keepWatch []).toNat)

theorem keeperUp_wakes (i : Nat) : Waking (s.runFirmware i) (s.keeperUp i) ∧ ((s.keeperUp i).keeper.log.getLast?).map (·.code) = some 0x0070 := by
  unfold keeperUp
  extract_lets u v
  have hu : Waking (s.runFirmware i) u := (waking_serviceEntries.trans waking_showRecord).trans (waking_sendWatch 1 0)
  have hv : Waking (s.runFirmware i) v := List.foldlRecOn (motive := Waking (s.runFirmware i)) _ _ hu fun _ ht p _ => ht.trans (waking_tellHalt p)
  have hlog := getLast?_log_record (s := v) 3 0x0070 none 0xFFFF none none (beBytes 8 (v.reg .keepWatch []).toNat)
  refine ⟨hv.trans (waking_record ..), ?_⟩
  have hcode := congrArg (Option.map Prod.fst) hlog
  rw [Option.map_map] at hcode
  exact hcode

theorem runFirmware_keeps (i : Nat) : (s.runFirmware i).meter = s.meter ∧ (s.runFirmware i).bootStep = s.bootStep := ⟨rfl, rfl⟩

theorem keeperRestart_idle (h : s.ready = true ∨ s.bootStep < 6) : s.keeperRestart = s := by
  refine if_neg fun hgo => ?_
  obtain ⟨hready, hstep⟩ := hgo
  rcases h with h | h
  · rw [hready] at h
    cases h
  · omega

theorem keeperRestart_eq (hr : s.ready = false) (hs : 6 ≤ s.bootStep) : s.keeperRestart = match s.loadKeys.bootSlot with
    | none => { s.loadKeys with bootStep := 5 }.setRegF .lifeStatus [] 33 32 2
    | some i => (s.loadKeys.keeperUp i).tellMeter := by
  rw [keeperRestart, if_pos ⟨hr, hs⟩]
  rfl

/-- A keeper that finds no slot that verifies stops at step 5 (R555). -/
theorem keeperRestart_stops (hr : s.ready = false) (hs : 6 ≤ s.bootStep) (h : s.loadKeys.bootSlot = none) : SameMem s s.keeperRestart ∧
    s.keeperRestart.cores = s.cores ∧ s.keeperRestart.bootStep = 5 ∧ s.keeperRestart.regF .lifeStatus [] 33 32 = 2 := by
  obtain ⟨hmem, hcores, -, -⟩ := loadKeys_keeps (s := s)
  have hgo : s.keeperRestart = { s.loadKeys with bootStep := 5 }.setRegF .lifeStatus [] 33 32 2 := by
    rw [keeperRestart_eq hr hs]
    simp only [h]
  rw [hgo]
  refine ⟨fun pl a => ?_, hcores, rfl, regF_setRegF_self _ _ _ _ _ _ (by decide) (by decide)⟩
  rw [← hmem.sameMem pl a]
  cases pl <;> rfl

/-- A keeper whose firmware runs again is ready, and records its loss (R577). -/
theorem keeperRestart_boots {k : Nat} (hr : s.ready = false) (hs : 6 ≤ s.bootStep) (h : s.loadKeys.bootSlot = some k) : SameMem s s.keeperRestart ∧
    s.keeperRestart.cores = s.cores ∧ s.keeperRestart.bootStep = s.bootStep ∧ s.keeperRestart.ready = true ∧ s.keeperRestart.life.running = k ∧
    ((s.meter.fault = false ∨ s.meter.told = true) → (s.keeperRestart.keeper.log.getLast?).map (·.code) = some 0x0070) := by
  obtain ⟨hmem, hcores, -, hstep⟩ := loadKeys_keeps (s := s)
  obtain ⟨hrun, -, hready, rmem, rcores, -⟩ := runFirmware_runs (s := s.loadKeys) k
  obtain ⟨hwake, hlog⟩ := s.loadKeys.keeperUp_wakes k
  have htell := bootKept_tellMeter (s := s.loadKeys.keeperUp k)
  have hgo : s.keeperRestart = (s.loadKeys.keeperUp k).tellMeter := by
    rw [keeperRestart_eq hr hs]
    simp only [h]
  obtain ⟨hkmeter, hkstep⟩ := runFirmware_keeps (s := s.loadKeys) k
  have hmeter : (s.loadKeys.runFirmware k).meter = s.meter := by
    have hl := onlyLife_loadKeys (s := s)
    rw [OnlyLife] at hl
    rw [hkmeter, hl]
  rw [hgo]
  refine ⟨(((hmem.trans rmem).trans hwake.mem).trans htell.mem).sameMem, ?_, ?_, ?_, ?_, fun hm => ?_⟩
  · exact htell.cores.trans (hwake.cores.trans (rcores.trans hcores))
  · exact htell.step.trans (hwake.step.trans (hkstep.trans hstep))
  · exact htell.ready.trans (hwake.ready.trans hready)
  · exact (congrArg Life.running (htell.life.trans hwake.life)).trans hrun
  · have hquiet : (s.loadKeys.keeperUp k).tellMeter = s.loadKeys.keeperUp k := by
      refine if_neg ?_
      rw [hwake.meter.1, hmeter]
      rcases hm with hm | hm
      · simp [hm]
      · simp [hwake.meter.2 (by rw [hmeter]; exact hm)]
    rw [hquiet]
    exact hlog

/-! ### A WATCH is received (R465, R466, R578) -/

/-- The notice is forwarded and recorded: the job as it stands otherwise, the ports, and this module's number and role stay. -/
structure Heeded (s t : State) : Prop where
  ports : t.ports = s.ports
  job : t.job = { s.job with forwarded := t.job.forwarded }
  status : t.reg .jobStatus [] = s.reg .jobStatus []
  me : t.me = s.me

theorem Heeded.role (h : Heeded s t) : t.role = s.role := congrArg (getF · 31 28) h.status

theorem Heeded.genNow (h : Heeded s t) : t.genNow = s.genNow := by
  have hjob : t.jobGen = s.jobGen := congrArg (fun w => BitVec.ofNat 32 (getF w 63 32)) h.status
  have hdecl : t.job.declGen = s.job.declGen := by rw [h.job]
  simp only [State.genNow, hjob, hdecl]

/-- A notice that this module passes on and records. -/
def forwards (t : State) (p : Nat) (m : Msg) : State :=
  let u : State := { t with job := { t.job with forwarded := t.job.forwarded ++ [(be m.data 6 2, (BitVec.ofNat 32 (be m.data 0 4) : Word))] } }
  let v := match u.job.coord with
    | none => u
    | some c => if c = u.me then u else u.sendRoute (u.anyRoute (BitVec.ofNat 16 c) 0) 0x32 (BitVec.ofNat 16 c) 0 m.data .plain
  v.record 0 0x0071 none p none none (m.data.take 20)

theorem heeded_forwards (p : Nat) (m : Msg) : Heeded s (s.forwards p m) := by
  unfold forwards
  extract_lets j u v
  have hv : Heeded s v := by
    unfold v
    split
    · exact ⟨rfl, rfl, rfl, rfl⟩
    · split
      · exact ⟨rfl, rfl, rfl, rfl⟩
      · rw [sendRoute_frame]
        exact ⟨rfl, rfl, rfl, rfl⟩
  have hrec : Spared true false v (v.record 0 0x0071 none p none none (m.data.take 20)) := (Spared.refl true false v).record
  exact ⟨hrec.ports.trans hv.ports, by rw [hrec.job]; exact hv.job, hrec.jobStatus.trans hv.status,
    (congrArg BitVec.toNat hrec.moduleIx).trans hv.me⟩

/-- What a WATCH of a lost keeper leads to, by this module's role. -/
def heeds (t : State) (lost : Nat) : State :=
  if t.role = 1 then t.lose lost else if t.role = 2 ∧ t.job.coord = some lost then t.takeOver else t

section
variable {p : Nat} {m : Msg} {rest : List Msg} (h : (s.port p).inbox = m :: rest) (hm : m.type = 0x32)
include h hm

theorem takeInbox_watch : s.takeInbox p (fun m => m.type == 0x32) = some (m, s.inboxTaken p m rest) :=
  s.takeInbox_head h (by simp [hm]) (by simp [Msg.vc, hm, vcOf])

/-- A WATCH that tells of no loss, or that a keeper which is down takes. -/
theorem watchReceive_drops (hd : be m.data 4 1 ≠ 0 ∨ s.ready = false) : s.watchReceive p = s.inboxTaken p m rest := by
  unfold watchReceive
  rw [takeInbox_watch h hm]
  exact if_pos hd

theorem watchReceive_heeds (hk : be m.data 4 1 = 0) (hr : s.ready = true) :
    ∃ t, Heeded (s.inboxTaken p m rest) t ∧ s.watchReceive p = t.heeds (be m.data 6 2) := by
  unfold watchReceive
  rw [takeInbox_watch h hm]
  have hgo : ¬ (be m.data 4 1 ≠ 0 ∨ (s.inboxTaken p m rest).ready = false) := by
    rintro (hn | hn)
    · exact hn hk
    · exact absurd (hr.symm.trans hn) (by decide)
  refine ⟨_, ?_, (if_neg hgo).trans rfl⟩
  split
  · exact heeded_forwards p m
  · exact ⟨rfl, rfl, rfl, rfl⟩

end

/-- A loss of the keeper's by its cause (R576). -/
theorem exec_keeperLoss {i : Instr} {cause : Nat}
    (hi : (i, cause) ∈ [(Instr.keeperMemoryError, 1), (.keeperException, 2), (.keeperForce, 3), (.keeperWatchTimeout, 0)]) :
    let slow := i = .keeperWatchTimeout → 100000 * s.regF .keepWatch [] 21 12 ≤ (s.tick - s.keeper.kick).toNat
    cause < 4 ∧ (slow → exec i s = .next (s.settle (s.keeperLost cause))) ∧ (¬ slow → exec i s = .next s) := by
  have hsame : exec .keeperWatchTimeout s = .next (s.settle s.watchTimeout) := rfl
  simp only [List.mem_cons, List.not_mem_nil, or_false, Prod.mk.injEq] at hi
  rcases hi with ⟨rfl, rfl⟩ | ⟨rfl, rfl⟩ | ⟨rfl, rfl⟩ | ⟨rfl, rfl⟩
  · exact ⟨by decide, fun _ => rfl, fun h => absurd (fun he => nomatch he) h⟩
  · exact ⟨by decide, fun _ => rfl, fun h => absurd (fun he => nomatch he) h⟩
  · exact ⟨by decide, fun _ => rfl, fun h => absurd (fun he => nomatch he) h⟩
  · refine ⟨by decide, fun h => ?_, fun h => ?_⟩
    · rw [hsame, watchTimeout, if_pos (h rfl)]
    · rw [hsame, watchTimeout, if_neg fun hle => h fun _ => hle]
      exact congrArg Host.Outcome.next (settle_eq rfl rfl)

theorem inbox_of_ports {p : Nat} {m : Msg} {rest : List Msg} (h : t.ports = (s.inboxTaken p m rest).ports) : (t.port p).inbox = rest := by
  rw [port, h]
  exact s.inbox_inboxTaken p m rest

/-- The keeper and its watch (R575-R578, R590, R591). -/
theorem theKeeperIsWatched : Claims.TheKeeperIsWatched := by
  refine ⟨fun s => ⟨rfl, fun i hrom => ?_, fun i cause hi => ?_, fun h => congrArg Host.Outcome.next (keeperRestart_idle h), fun hr hs => ?_⟩,
    fun s p m rest h hm => ⟨fun hd => ?_, fun hk hr hrole hin hnew hme => ?_, fun hk hr hrole hcoord => ?_⟩⟩
  · exact congrArg Host.Outcome.next (wroteAt_of_reachable rfl hrom _)
  · intro slow
    obtain ⟨hc, hlost, hwaits⟩ := exec_keeperLoss (s := s) hi
    refine ⟨fun h => ?_, fun hr hslow => ⟨_, hlost hslow, settle_keeperLost hr hc⟩⟩
    by_cases hslow : slow
    · have hr : s.ready = false := h.resolve_right fun hn => hn hslow
      have hno : s.keeperLost cause = s := if_neg (by simp [hr])
      rw [hlost hslow, hno]
      exact congrArg Host.Outcome.next (settle_eq rfl rfl)
    · exact hwaits hslow
  · refine ⟨s.keeperRestart, rfl, ?_⟩
    cases hslot : s.loadKeys.bootSlot with
    | none =>
      obtain ⟨hmem, hcores, hstep, hshown⟩ := keeperRestart_stops hr hs hslot
      exact ⟨hmem, hcores, hstep, hshown⟩
    | some k =>
      obtain ⟨hmem, hcores, hstep, hready, hrun, hlog⟩ := keeperRestart_boots hr hs hslot
      exact ⟨hmem, hcores, hstep, hready, hrun, hlog⟩
  · exact ⟨_, congrArg Host.Outcome.next (watchReceive_drops h hm hd), s.inbox_inboxTaken p m rest, rfl, fun pl a => by cases pl <;> rfl, rfl⟩
  · obtain ⟨t, ht, hgo⟩ := watchReceive_heeds h hm hk hr
    have hmaps : t.job.maps = s.job.maps := by rw [ht.job]; rfl
    have hlost : t.job.lost = s.job.lost := by rw [ht.job]; rfl
    have hlose : t.heeds (be m.data 6 2) = t.declare [be m.data 6 2] :=
      (if_pos (ht.role.trans hrole)).trans (lose_declares (ht.role.trans hrole) (hmaps ▸ hin) (hlost ▸ hnew) (ht.me ▸ hme))
    obtain ⟨hin', hdecl, -, -, hports, -⟩ := declare_leaves (s := t) [be m.data 6 2]
    exact ⟨_, congrArg Host.Outcome.next (hgo.trans hlose), inbox_of_ports (hports.trans ht.ports), hin' _ (by simp), hdecl.trans (by rw [ht.genNow]; rfl)⟩
  · obtain ⟨t, ht, hgo⟩ := watchReceive_heeds h hm hk hr
    have htrole : t.role = 2 := ht.role.trans hrole
    have htcoord : t.job.coord = some (be m.data 6 2) := by rw [ht.job]; exact hcoord
    have htake : t.heeds (be m.data 6 2) = t.takeOver := by
      rw [heeds, if_neg (by omega), if_pos ⟨htrole, htcoord⟩]
    obtain ⟨hnow, hself, -, -, hports⟩ := takeOver_leaves htrole
    exact ⟨_, congrArg Host.Outcome.next (hgo.trans htake), inbox_of_ports (hports.trans ht.ports), hnow, hself.trans (by rw [ht.me]; rfl)⟩

end Sys2Proof.Machine.State

open Sys2Proof Sys2Proof.Machine

/-- Settles O60: an operation's object is read first, a cartridge is known by its serial, and the keeper's loss spares the life cycle and its watch. -/
theorem lifeCartridgeKeeper : Obligations.LifeCartridgeKeeper :=
  ⟨State.lifeCycleOperations, State.cartridgesComeAndGo, State.theKeeperIsWatched⟩
end

section
/-! SUPPORT. The ferry's reads, its sends and its end where no word or granule is in error (R437-R442). -/

namespace Sys2Proof.Machine.State

variable {s t u : State} {c uid p : Nat}

/-! ### Held writes that are released -/

theorem memTraffic_releaseOne (h : Clean s) (x : Held) : MemTraffic s (s.releaseOne x) := by
  have hrun := storeRun_serenely (c := x.storer.1) h x.storer.2 x.place x.addr x.data
  rw [releaseOne, hrun.bad]
  split
  · exact memTraffic_refl s
  · have hmod := (memTraffic_storeRun (c := x.storer.1) (uid := x.storer.2) h x.place x.addr x.data).trans
      (memTraffic_modHeld s.held.length (reheld x))
    split <;> exact hmod

theorem memTraffic_releaseHeld (h : Clean s) (q : Held → Bool) : MemTraffic s (s.releaseHeld q) := by
  have hgo : Clean ((s.held.filter q).foldl releaseOne (s.dropHeld q)) ∧ MemTraffic s ((s.held.filter q).foldl releaseOne (s.dropHeld q)) :=
    List.foldlRecOn (motive := fun t : State => Clean t ∧ MemTraffic s t) _ _ ⟨(serene_dropHeld h q).clean, memTraffic_setHeld _⟩
      fun t ht x _ => ⟨(serene_releaseOne ht.1 x).clean, ht.2.trans (memTraffic_releaseOne ht.1 x)⟩
  refine List.foldlRecOn (motive := MemTraffic s) _ _ hgo.2 fun t ht x _ => ?_
  split
  · exact ht
  · exact ht.trans (memTraffic_modEntry _)

theorem memTraffic_releaseLoad (h : Clean s) : MemTraffic s (s.releaseLoad c uid) :=
  (memTraffic_modEntry _).trans (memTraffic_releaseHeld (clean_unbound h uid) _)

/-! ### What the ferry reads -/

/-- Memories are read, and meet no error. -/
structure ReadsOnly (s t : State) : Prop where
  serene : Serene s t
  traffic : MemTraffic s t
  cells : t.cells = s.cells

theorem readsOnly_refl (h : Clean s) : ReadsOnly s s := ⟨serene_refl h, memTraffic_refl s, rfl⟩

theorem ReadsOnly.trans (h : ReadsOnly s t) (k : ReadsOnly t u) : ReadsOnly s u :=
  ⟨h.serene.trans k.serene, h.traffic.trans k.traffic, k.cells.trans h.cells⟩

theorem serviceRead_clean (h : Clean s) (kind : Nat) (slow : Bool) (a n : Nat) : ReadsOnly s (s.serviceRead kind slow a n).1 ∧
    (s.serviceRead kind slow a n).2.1 = (readBytes (s.cells (.tier slow)) a n).map some ∧ (s.serviceRead kind slow a n).2.2 = [] := by
  obtain ⟨hcounts, hbytes, -⟩ := tierRead_clean s slow a n (h.calm.tier slow) (h.calm.touch slow a n)
  have hst : (s.tierRead slow a n).st = s.granules slow a n := by
    simp only [tierRead, marksIn_clean _ _ _ (h.calm.tier slow), h.calm.touch, List.foldl_nil, List.isEmpty_nil, if_true]
  rw [hst] at hcounts
  have hclean : Clean (s.granules slow a n) := ((Calm.of_clean h).granules).clean
  simp only [serviceRead, marksIn_clean _ _ _ (h.calm.tier slow), List.filter_nil, List.map_nil, List.foldl_nil, hbytes, hst]
  refine ⟨⟨serene_of_view hclean (besideView_counts hcounts), memTraffic_granules slow a n, ?_⟩, ?_, trivial⟩
  · rw [Counts] at hcounts
    rw [hcounts]
    rfl
  · have hcell : s.cells (.tier slow) = (s.tierOf slow).data := by cases slow <;> rfl
    rw [hcell]
    refine List.ext_getElem (by simp [readBytes]) fun i h1 h2 => ?_
    simp [readBytes, hasN]

/-- Pieces of the tiers are read as they stand. -/
theorem servicePieces_clean (h : Clean s) (kind : Nat) {l : List Piece} (hl : ∀ x ∈ l, ∃ slow, x.place = .tier slow) :
    ReadsOnly s (s.servicePieces kind l).1 ∧ (s.servicePieces kind l).2.1 = (Claims.bytesIn s l).map some ∧
      (s.servicePieces kind l).2.2 = [] := by
  induction l using List.reverseRecOn with
  | nil => exact ⟨readsOnly_refl h, rfl, rfl⟩
  | append_singleton l x ih =>
    obtain ⟨hreads, hbytes, hbad⟩ := ih fun y hy => hl y (List.mem_append_left _ hy)
    obtain ⟨slow, hslow⟩ := hl x (by simp)
    obtain ⟨hone, hone', hnone⟩ := serviceRead_clean hreads.serene.clean kind slow x.addr x.len
    have hlast : s.servicePieces kind (l ++ [x]) = (((s.servicePieces kind l).1.serviceRead kind slow x.addr x.len).1,
        (s.servicePieces kind l).2.1 ++ ((s.servicePieces kind l).1.serviceRead kind slow x.addr x.len).2.1,
        (s.servicePieces kind l).2.2 ++ ((s.servicePieces kind l).1.serviceRead kind slow x.addr x.len).2.2) := by
      simp only [servicePieces, List.foldl_append, List.foldl_cons, List.foldl_nil, hslow]
    rw [hlast]
    refine ⟨hreads.trans hone, ?_, by simp only [hbad, hnone, List.append_nil]⟩
    simp only [hbytes, hone', hreads.cells, ← hslow, Claims.bytesIn, List.flatMap_append, List.flatMap_cons, List.flatMap_nil,
      List.append_nil, List.map_append]

theorem ferryRead_clean (h : Clean s) (pages : List Page) (va n : Nat) : ReadsOnly s (s.ferryRead pages va n).1 ∧
    (s.ferryRead pages va n).2.1 = Claims.bytesIn s (piecesOf pages 0 va n) ∧ (s.ferryRead pages va n).2.2 = 0 := by
  obtain ⟨hreads, hbytes, hbad⟩ := servicePieces_clean h 2 (piecesOf_tiers pages 0 va n)
  simp only [ferryRead, hbytes, hbad, getD_map_some, List.length_nil]
  exact ⟨hreads, trivial, trivial⟩

/-- The parts of a block are read one behind another. -/
theorem readParts_clean (h : Clean s) (pages : List Page) (l : List (Nat × Nat)) :
    let rd := l.foldl (fun (a : State × List Byte × Nat) r =>
      let q := a.1.ferryRead pages r.1 r.2
      (q.1, a.2.1 ++ q.2.1, a.2.2 + q.2.2)) (s, [], 0)
    ReadsOnly s rd.1 ∧ rd.2.1 = l.flatMap (fun r => Claims.bytesIn s (piecesOf pages 0 r.1 r.2)) ∧ rd.2.2 = 0 := by
  induction l using List.reverseRecOn with
  | nil => exact ⟨readsOnly_refl h, rfl, rfl⟩
  | append_singleton l r ih =>
    dsimp only at ih ⊢
    rw [List.foldl_append, List.foldl_cons, List.foldl_nil]
    generalize l.foldl _ _ = rd at ih ⊢
    obtain ⟨hreads, hbytes, hbad⟩ := ih
    obtain ⟨hone, hone', hnone⟩ := ferryRead_clean hreads.serene.clean pages r.1 r.2
    refine ⟨hreads.trans hone, ?_, by rw [hbad, hnone]⟩
    rw [hbytes, hone', bytesIn_congr hreads.cells, List.flatMap_append]
    simp

theorem regionBytes_clean (h : Clean s) (pages : List Page) (f : Ferry) (r : Nat × Nat × Long × Word) :
    ReadsOnly s (s.regionBytes pages f r).1 ∧ (s.regionBytes pages f r).2.2 = 0 := by
  refine List.foldlRecOn (motive := fun a : State × List Byte × Nat => ReadsOnly s a.1 ∧ a.2.2 = 0) _ _ ⟨readsOnly_refl h, rfl⟩ ?_
  rintro a ⟨hreads, hzero⟩ b -
  dsimp only
  split
  · exact ⟨hreads, hzero⟩
  · obtain ⟨hone, -, hnone⟩ := ferryRead_clean hreads.serene.clean pages (max r.1 (b * 65536))
      (min (r.1 + r.2.1) (b * 65536 + 65536) - max r.1 (b * 65536))
    exact ⟨hreads.trans hone, by rw [hzero, hnone]⟩

/-- Parts of an export's regions are read one behind another. -/
theorem readRegions_clean (h : Clean s) (pages : List Page) (f : Ferry) (l : List (Nat × Nat × Long × Word)) :
    let q := l.foldl (fun (a : State × List Byte × Nat) r =>
      let q := a.1.regionBytes pages f r
      (q.1, a.2.1 ++ q.2.1, a.2.2 + q.2.2)) (s, f.sent, f.damaged)
    ReadsOnly s q.1 ∧ q.2.2 = f.damaged := by
  refine List.foldlRecOn (motive := fun a : State × List Byte × Nat => ReadsOnly s a.1 ∧ a.2.2 = f.damaged) _ _ ⟨readsOnly_refl h, rfl⟩ ?_
  rintro a ⟨hreads, hdam⟩ r -
  obtain ⟨hone, hnone⟩ := regionBytes_clean hreads.serene.clean pages f r
  exact ⟨hreads.trans hone, congrArg₂ (· + ·) hdam hnone⟩

/-- An export's reading damages nothing of it. -/
theorem ferryReads_clean (h : Clean s) (pages : List Page) (f : Ferry) (n : Nat) : ReadsOnly s (s.ferryReads pages f n).1 ∧
    ∃ b l, (s.ferryReads pages f n).2 = { f with sent := b, bound := l } := by
  obtain ⟨hreads, hdam⟩ := readRegions_clean h pages f (regionParts f.regions f.sent.length n)
  refine ⟨hreads, (s.ferryReads pages f n).2.sent, (s.ferryReads pages f n).2.bound, ?_⟩
  have hkept : (s.ferryReads pages f n).2.damaged = f.damaged := hdam
  calc (s.ferryReads pages f n).2
    _ = { f with sent := (s.ferryReads pages f n).2.sent, damaged := (s.ferryReads pages f n).2.damaged,
                 bound := (s.ferryReads pages f n).2.bound } := rfl
    _ = _ := by rw [hkept]

/-! ### What the ferry sends (R441) -/

/-- The memories, what is held, the cores' windows, event counters, FERRY_STATUS and what has been sent are all that differ. -/
structure Ferried (s t : State) : Prop where
  frame : t = { s with mrs := t.mrs, dieSeen := t.dieSeen, sluices := t.sluices, fast := t.fast, slow := t.slow, vats := t.vats,
                       pools := t.pools, held := t.held, cores := t.cores, ferries := t.ferries, out := t.out, waitOut := t.waitOut,
                       fresh := t.fresh }
  regs : ∀ a d, (∀ k, a ∉ coreCounters k) → a ∉ dieCounters → a ≠ RegId.ferryStatus.row.addr [] → t.mrs.get d a = s.mrs.get d a

theorem ferried_refl (s : State) : Ferried s s := ⟨rfl, fun _ _ _ _ _ => rfl⟩

theorem Ferried.trans (h : Ferried s t) (k : Ferried t u) : Ferried s u :=
  ⟨by rw [k.frame, h.frame], fun a d h1 h2 h3 => (k.regs a d h1 h2 h3).trans (h.regs a d h1 h2 h3)⟩

theorem MemTraffic.ferried (h : MemTraffic s t) : Ferried s t := ⟨by rw [h.frame], fun a d h1 h2 _ => h.regs a d h1 h2⟩

theorem ferried_qpOut (qpn : Nat) (w : RoceOut) : Ferried s (s.qpOut qpn w) := by
  rw [qpOut]
  split
  · exact ⟨rfl, fun _ _ _ _ _ => rfl⟩
  · exact ferried_refl s

theorem ferried_bump (hi lo n : Nat) : Ferried s (s.bumpBy .ferryStatus [] hi lo n) :=
  ⟨rfl, fun _ _ _ _ ha => FMap.get_set_ne _ _ _ ha⟩

theorem Ferried.netReg (h : Ferried s t) {id : RegId} {ix : List Nat} (ha : 0x90080 < id.row.addr ix ∧ id.row.addr ix < 0x01006008) :
    t.reg id ix = s.reg id ix := by
  refine h.regs _ _ (fun k hk => ?_) (fun hd => ?_) ?_
  · have := range_of_mem_coreCounters hk
    omega
  · have := le_of_mem_dieCounters hd
    omega
  · simp only [RegRow.addr, RegId.row, sumN, List.zipWith_nil_left, List.foldl_nil] at ha ⊢
    omega

/-- What is sent from a host port carries the same addresses. -/
theorem Ferried.wireTo (h : Ferried s t) (n : NetId) (prio : Option Nat) (dst : BitVec 128) : t.wireTo n prio dst = s.wireTo n prio dst := by
  have hn := n.isLt
  have hctrl : t.reg .netCtrl [n] = s.reg .netCtrl [n] := h.netReg (by simp [RegRow.addr, RegId.row, sumN]; omega)
  have hv4 : t.reg .netV4 [n] = s.reg .netV4 [n] := h.netReg (by simp [RegRow.addr, RegId.row, sumN]; omega)
  have hhi : t.reg .netV6Hi [n] = s.reg .netV6Hi [n] := h.netReg (by simp [RegRow.addr, RegId.row, sumN]; omega)
  have hlo : t.reg .netV6Lo [n] = s.reg .netV6Lo [n] := h.netReg (by simp [RegRow.addr, RegId.row, sumN]; omega)
  simp only [State.wireTo, srcAddr, netV4Addr, netV6Addr, regF, hctrl, hv4, hhi, hlo]
  rfl

theorem Ferried.roceWire (h : Ferried s t) (k : Fin 2) (dst : BitVec 128) : t.roceWire k dst = s.roceWire k dst := by
  have heth : t.eth = s.eth := by rw [h.frame]
  rw [State.roceWire, State.roceWire, h.wireTo, heth]

theorem Ferried.qps (h : Ferried s t) : t.qps = s.qps := by rw [h.frame]

theorem Ferried.qpWorks (h : Ferried s t) (qpn : Nat) : t.qpWorks qpn = s.qpWorks qpn := by rw [State.qpWorks, h.qps, State.qpWorks]

/-- What a queue pair sends on the way stands among what is sent. -/
theorem Ferried.qpSent (h : Ferried s t) {qpn : Nat} {w : RoceOut} (ho : u.out = (t.qpOut qpn w).out)
    (hw : u.waitOut = (t.qpOut qpn w).waitOut) : Claims.QpSent s u qpn w := by
  intro q hq
  have hfind : t.qps.find? (fun q => q.qpn == qpn) = some q := by rw [h.qps]; exact hq
  have hemit : t.qpOut qpn w = t.emit (.roce q.port (s.roceWire q.port q.hostIp) qpn w) := by
    simp only [qpOut, roceOut, hfind, h.roceWire]
    rfl
  have hsent := sent_of_emit (s := s) (u := t) (.roce q.port (s.roceWire q.port q.hostIp) qpn w) (by rw [h.frame]) (by rw [h.frame])
  rw [← hemit] at hsent
  rw [Claims.Sent, ho, hw]
  exact hsent

theorem MemTraffic.ferryStatus (h : MemTraffic s t) : t.reg .ferryStatus [] = s.reg .ferryStatus [] := by
  refine h.regs _ _ (fun k hk => ?_) (by decide)
  have := range_of_mem_coreCounters hk
  simp [RegRow.addr, RegId.row, sumN] at this

theorem reg_qpOut (qpn : Nat) (w : RoceOut) (id : RegId) (ix : List Nat) : (s.qpOut qpn w).reg id ix = s.reg id ix := by
  rw [qpOut]
  split <;> rfl

theorem sendRegions_clean (h : Clean s) (pages : List Page) (f : Ferry) (n : Nat) : Ferried s (s.sendRegions pages f n).1 ∧
    (s.sendRegions pages f n).1.reg .ferryStatus [] = s.reg .ferryStatus [] ∧ Clean (s.sendRegions pages f n).1 ∧
    ∃ b l, (s.sendRegions pages f n).2 = { f with sent := b, bound := l } := by
  obtain ⟨hreads, hf⟩ := ferryReads_clean h pages f n
  have hsend : Ferried s (s.sendRegions pages f n).1 ∧ (s.sendRegions pages f n).1.reg .ferryStatus [] = s.reg .ferryStatus [] :=
    List.foldlRecOn (motive := fun a : State × List Byte => Ferried s a.1 ∧ a.1.reg .ferryStatus [] = s.reg .ferryStatus []) _ _
      ⟨hreads.traffic.ferried, hreads.traffic.ferryStatus⟩ fun a ha _ _ => ⟨ha.1.trans (ferried_qpOut ..), (reg_qpOut ..).trans ha.2⟩
  exact ⟨hsend.1, hsend.2, (Calm.of_clean h).sendRegions.clean, hf⟩

/-! ### The end of an export (R442) -/

/-- An export has ended: it is gone, its instruction is over, and beside its count of damaged granules nothing is told of it. -/
structure ExportOver (f : Ferry) (s t : State) : Prop where
  ferried : Ferried s t
  gone : t.ferryOf f.part = none
  out : t.out = s.out
  waitOut : t.waitOut = s.waitOut
  status : ∀ hi lo, hi < 32 ∨ 47 < lo → t.regF .ferryStatus [] hi lo = s.regF .ferryStatus [] hi lo
  ended : ∀ e ∈ (t.core f.core).window, e.uid = f.uid → e.phase = if t.hasHeld f.core f.uid = true then .held else .done

/-- The state in which an export is gone. -/
def withoutFerry (s : State) (f : Ferry) : State :=
  { s with ferries := s.ferries.filter fun x => x.part != f.part,
           sluices := s.sluices.map fun (x : Nat × Sluice) => (x.1, { x.2 with ferry := x.2.ferry.erase f.part }) }

/-- The state in which its trailer stands in its list. -/
def trailerStored (s : State) (im : PartImg) (f : Ferry) (status bytes : Nat) : State :=
  ((s.withoutFerry f).storePieces f.core f.uid (piecesOf im.pages 1 (f.listVa + 16) 48) (ferryTrailer f status bytes false)).1

theorem ferryOver_clean (h : Clean s) (im : PartImg) (f : Ferry) (status bytes : Nat) : ExportOver f s (s.ferryOver im f status bytes) := by
  have hgone : Calm s (s.withoutFerry f) := (Calm.of_clean h).beside rfl rfl (heatKept_of_mrs rfl)
  have hstored : Calm s (s.trailerStored im f status bytes) ∧ _ = none := hgone.storeFrom
  obtain ⟨hcalm, hbad⟩ := hstored
  have hstore : MemTraffic (s.withoutFerry f) (s.trailerStored im f status bytes) := memTraffic_storeFrom hgone.clean ..
  have hcount : Calm s ((s.trailerStored im f status bytes).bumpBy .ferryStatus [] 47 32 f.damaged) := hcalm.setRegF (by decide)
  have hrelease := memTraffic_releaseLoad (c := f.core) (uid := f.uid) hcount.clean
  have hover : s.ferryOver im f status bytes = ((((s.trailerStored im f status bytes).bumpBy .ferryStatus [] 47 32 f.damaged).releaseLoad
      f.core f.uid).setPhase f.core f.uid .done).waitHeld f.core f.uid := by
    unfold ferryOver
    extract_lets t w v
    have hnone : w.2 = none := hbad
    rw [hnone]
    rfl
  have hend := (hrelease.trans (memTraffic_setPhase (c := f.core) (uid := f.uid) .done)).trans (memTraffic_waitHeld (c := f.core) (uid := f.uid))
  rw [← hover] at hend
  have hbegun : Ferried s (s.withoutFerry f) := ⟨rfl, fun _ _ _ _ _ => rfl⟩
  refine ⟨((hbegun.trans hstore.ferried).trans (ferried_bump ..)).trans hend.ferried, ?_, ?_, ?_, fun hi lo hf => ?_, ?_⟩
  · have hferries : (s.ferryOver im f status bytes).ferries = s.ferries.filter fun x => x.part != f.part := by
      rw [hend.frame]
      exact (congrArg State.ferries hstore.frame).trans rfl
    rw [ferryOf, hferries, List.find?_eq_none]
    intro x hx
    simpa using (List.mem_filter.mp hx).2
  · rw [hend.frame]
    exact (congrArg State.out hstore.frame).trans rfl
  · rw [hend.frame]
    exact (congrArg State.waitOut hstore.frame).trans rfl
  · rw [regF, hend.ferryStatus]
    exact (regF_setRegF_apart _ .ferryStatus [] 47 32 _ hi lo (by decide) (by decide) hf).trans (congrArg (getF · hi lo) hstore.ferryStatus)
  · rw [hover]
    exact fun e he hu => phase_of_mem_waitHeld (fun y hy hyu => phase_of_mem_setPhase hy hyu) he hu

end Sys2Proof.Machine.State
end

section
/-! PROOF. The ferry (R437-R442). -/

namespace Sys2Proof.Machine

namespace State

variable {s t u : State} {p : Nat} {f g : Ferry} {im : PartImg}

theorem part_of_ferryOf (h : s.ferryOf p = some f) : f.part = p := by simpa using List.find?_some h

/-! ### A block is copied before it is written (R439) -/

/-- The state in which export f is f' and reads for block's copy are done. -/
def copyRead (s : State) (p : Nat) (f : Ferry) (im : PartImg) (block : Nat) : State × List Byte × Nat :=
  (inBlock f.regions block).foldl (fun (a : State × List Byte × Nat) r =>
    let q := a.1.ferryRead im.pages r.1 r.2
    (q.1, a.2.1 ++ q.2.1, a.2.2 + q.2.2)) (s, [], 0)

/-- The export with a block's old bytes. -/
def withOld (s : State) (p : Nat) (f : Ferry) (im : PartImg) (block : Nat) : Ferry :=
  { f with old := f.old.set block (s.copyRead p f im block).2.1, damaged := f.damaged + (s.copyRead p f im block).2.2,
           bound := minusSpans f.bound (spansOf ((inBlock f.regions block).flatMap fun r => piecesOf im.pages 0 r.1 r.2)) }

theorem ferryBlock_idle (hf : s.ferryOf p = some f) (him : (s.part p).img = some im) {block : Nat}
    (h : f.old.has block = true ∨ f.bufBlocks ≤ f.old.length ∨ inBlock f.regions block = [] ∨ blockBegun f block = true) :
    s.ferryBlock p block = s := by
  simp only [ferryBlock, hf, him, List.isEmpty_iff]
  exact if_pos h

theorem ferryTraffic_frame (l : List Span) : ∃ x, s.ferryTraffic p l = { s with sluices := x } := by
  refine List.foldlRecOn (motive := fun t : State => ∃ x, t = { s with sluices := x }) l _ ⟨s.sluices, rfl⟩ ?_
  rintro _ ⟨x, rfl⟩ q -
  dsimp only
  split
  · exact ⟨_, rfl⟩
  · exact ⟨x, rfl⟩

/-- The state in which a block's old bytes are about to be stored. -/
def copyKept (s : State) (p : Nat) (f : Ferry) (im : PartImg) (block : Nat) : State :=
  ((s.copyRead p f im block).1.ferryTraffic p (spansOf (piecesOf im.pages 1 (f.bufVa + 65536 * f.old.length)
    (s.copyRead p f im block).2.1.length))).modFerry p fun _ => s.withOld p f im block

theorem ferryBlock_eq (hf : s.ferryOf p = some f) (him : (s.part p).img = some im) {block : Nat}
    (hold : f.old.has block = false) (hroom : f.old.length < f.bufBlocks) (hin : inBlock f.regions block ≠ [])
    (hbegun : blockBegun f block = false) : s.ferryBlock p block =
      (((s.copyKept p f im block).storePieces f.core f.uid (piecesOf im.pages 1 (f.bufVa + 65536 * f.old.length)
        (s.copyRead p f im block).2.1.length) (s.copyRead p f im block).2.1).1).releaseRead (s.withOld p f im block) := by
  have hnot : ¬ (f.old.has block = true ∨ f.bufBlocks ≤ f.old.length ∨ inBlock f.regions block = [] ∨ blockBegun f block = true) := by
    simp [hold, hin, hbegun]
    omega
  simp only [ferryBlock, hf, him, List.isEmpty_iff]
  rw [if_neg hnot]
  rfl

theorem ferryOf_modFerry (hf : s.ferryOf p = some f) (hg : g.part = p) : (s.modFerry p fun _ => g).ferryOf p = some g := by
  have hsame : (fun x : Ferry => (if x.part = p then g else x).part == p) = fun x => x.part == p := by
    funext x
    split
    next h => simp [hg, h]
    next => rfl
  have hfind : s.ferries.find? (fun x => x.part == p) = some f := hf
  rw [ferryOf, modFerry, List.find?_map]
  simp only [Function.comp_def, hsame, hfind, Option.map_some, part_of_ferryOf hf, if_true]

/-- A block is copied: the export keeps its bytes. -/
theorem ferryBlock_copies (h : Clean s) (hf : s.ferryOf p = some f) (him : (s.part p).img = some im) {block : Nat}
    (hold : f.old.has block = false) (hroom : f.old.length < f.bufBlocks) (hin : inBlock f.regions block ≠ [])
    (hbegun : blockBegun f block = false) : (s.ferryBlock p block).failing = s.failing ∧ (s.ferryBlock p block).stalled = s.stalled ∧
      (s.ferryBlock p block).ferryOf p = some (s.withOld p f im block) := by
  have hreads : ReadsOnly s (s.copyRead p f im block).1 := (readParts_clean h im.pages (inBlock f.regions block)).1
  have hkept : ∃ x, s.copyKept p f im block = { (s.copyRead p f im block).1.modFerry p fun _ => s.withOld p f im block with sluices := x } := by
    rw [copyKept]
    obtain ⟨x, hx⟩ := ferryTraffic_frame (s := (s.copyRead p f im block).1) (p := p)
      (spansOf (piecesOf im.pages 1 (f.bufVa + 65536 * f.old.length) (s.copyRead p f im block).2.1.length))
    exact ⟨x, by rw [hx]; rfl⟩
  obtain ⟨x, hkept⟩ := hkept
  have hclean : Clean (s.copyKept p f im block) := by
    rw [hkept]
    exact hreads.serene.clean.of_view rfl (heatKept_of_mrs rfl)
  obtain ⟨hstored, -⟩ := (Calm.of_clean hclean).storeFrom (c := f.core) (uid := f.uid)
    (ext := spansOf (piecesOf im.pages 1 (f.bufVa + 65536 * f.old.length) (s.copyRead p f im block).2.1.length))
    (l := piecesOf im.pages 1 (f.bufVa + 65536 * f.old.length) (s.copyRead p f im block).2.1.length) (bs := (s.copyRead p f im block).2.1)
  have hend : MemTraffic (s.copyKept p f im block) (s.ferryBlock p block) := by
    rw [ferryBlock_eq hf him hold hroom hin hbegun]
    exact (memTraffic_storeFrom hclean _ _ _).trans (memTraffic_releaseHeld hstored.clean _)
  have hferries : (s.ferryBlock p block).ferries = ((s.copyRead p f im block).1.modFerry p fun _ => s.withOld p f im block).ferries := by
    rw [hend.frame, hkept]
  refine ⟨?_, ?_, ?_⟩
  · rw [hend.frame, hkept]
    exact hreads.serene.failing
  · rw [hend.frame, hkept]
    exact hreads.serene.stalled
  · have hread : (s.copyRead p f im block).1.ferryOf p = some f := by rw [ferryOf, hreads.serene.ferries]; exact hf
    rw [ferryOf, hferries]
    have hpart : f.part = p := part_of_ferryOf hf
    exact ferryOf_modFerry hread hpart

/-- The bytes kept are those that stood there. -/
theorem old_withOld (h : Clean s) (block : Nat) : (s.withOld p f im block).old.get [] block =
    (inBlock f.regions block).flatMap (fun r => Claims.bytesIn s (piecesOf im.pages 0 r.1 r.2)) :=
  (FMap.get_set_self ..).trans (readParts_clean h im.pages (inBlock f.regions block)).2.1

/-! ### An export ends (R441, R442) -/

theorem regF_bump_ferryStatus {hi lo : Nat} (hle : lo ≤ hi) (hi64 : hi < 64) :
    (s.bump .ferryStatus [] hi lo).regF .ferryStatus [] hi lo = min (s.regF .ferryStatus [] hi lo + 1) (2 ^ (hi + 1 - lo) - 1) :=
  regF_bumpBy_self _ .ferryStatus [] hi lo 1 hle hi64

/-- An export of which the count under hi and lo tells has come to its end, with what the state u has sent. -/
structure ExportEnds (s u t : State) (f : Ferry) (hi lo : Nat) : Prop where
  failing : t.failing = s.failing
  stalled : t.stalled = s.stalled
  gone : t.ferryOf f.part = none
  out : t.out = u.out
  waitOut : t.waitOut = u.waitOut
  count : t.regF .ferryStatus [] hi lo = min (s.regF .ferryStatus [] hi lo + 1) (2 ^ (hi + 1 - lo) - 1)
  ended : ∀ e ∈ (t.core f.core).window, e.uid = f.uid → e.phase = if t.hasHeld f.core f.uid = true then .held else .done

theorem export_ends (hu : Ferried s u) (hreg : u.reg .ferryStatus [] = s.reg .ferryStatus []) (hc : Clean u) {hi lo : Nat} (hle : lo ≤ hi)
    (h64 : hi < 64) (hd : hi < 32 ∨ 47 < lo) (status bytes : Nat) :
    ExportEnds s u ((u.bump .ferryStatus [] hi lo).ferryOver im g status bytes) g hi lo := by
  have hover := ferryOver_clean (s := u.bump .ferryStatus [] hi lo) ((Calm.of_clean hc).setRegF (by decide)).clean im g status bytes
  have hall := hu.trans ((ferried_bump hi lo 1).trans hover.ferried)
  refine ⟨by rw [hall.frame], by rw [hall.frame], hover.gone, hover.out, hover.waitOut, ?_, hover.ended⟩
  rw [hover.status hi lo hd, regF_bump_ferryStatus hle h64, regF, hreg]
  rfl

/-- The export ends with its last bytes sent. -/
theorem ferryEnd_ends {p : PartId} (h : NoErrors s) (hf : s.ferryOf p = some f) (him : (s.part p).img = some im) (hq : s.qpWorks f.qpn = true) :
    ∃ t, exec (.ferryExportEnd p) s = .next t ∧ t.ferryOf p = none ∧
      Claims.QpSent s t f.qpn (.write f.tRkey f.tRaddr.toNat
        (ferryTrailer f (if f.damaged = 0 then 0 else 1) (sumN (f.regions.map fun r => r.2.1)) true)) ∧
      t.regF .ferryStatus [] 63 48 = min (s.regF .ferryStatus [] 63 48 + 1) 0xFFFF ∧
      ∀ e ∈ (t.core f.core).window, e.uid = f.uid → e.phase = if t.hasHeld f.core f.uid = true then .held else .done := by
  obtain ⟨hsend, hreg, hclean, b, l, hr⟩ := sendRegions_clean (clean_of_noErrors h) im.pages f (sumN (f.regions.map fun r => r.2.1))
  have heq : s.ferryEnd p = (((s.sendRegions im.pages f (sumN (f.regions.map fun r => r.2.1))).1.qpOut f.qpn (.write f.tRkey f.tRaddr.toNat
      (ferryTrailer f (if f.damaged = 0 then 0 else 1) (sumN (f.regions.map fun r => r.2.1)) true))).bump .ferryStatus [] 63 48).ferryOver im
        { f with sent := b, bound := l } (if f.damaged = 0 then 0 else 1) (sumN (f.regions.map fun r => r.2.1)) := by
    simp only [ferryEnd, hf, him, if_pos hq, hr]
    rfl
  obtain ⟨hfail, hst, hgone, hout, hwait, hcount, hended⟩ := export_ends (im := im) (g := { f with sent := b, bound := l })
    (hsend.trans (ferried_qpOut f.qpn (.write f.tRkey f.tRaddr.toNat
      (ferryTrailer f (if f.damaged = 0 then 0 else 1) (sumN (f.regions.map fun r => r.2.1)) true)))) ((reg_qpOut ..).trans hreg)
    (Calm.of_clean hclean).qpOut.clean (hi := 63) (lo := 48) (by decide) (by decide) (by decide)
    (if f.damaged = 0 then 0 else 1) (sumN (f.regions.map fun r => r.2.1))
  rw [← heq] at hfail hst hgone hout hwait hcount hended
  exact ⟨s.ferryEnd p, congrArg Host.Outcome.next (settle_eq hst hfail), part_of_ferryOf hf ▸ hgone, hsend.qpSent hout hwait, hcount, hended⟩

/-- The export is broken off. -/
theorem ferryAbort_ends {p : PartId} (h : NoErrors s) (hf : s.ferryOf p = some f) (him : (s.part p).img = some im) :
    ∃ t n, exec (.ferryAbort p) s = .next t ∧ t.ferryOf p = none ∧
      t.regF .ferryStatus [] 15 8 = min (s.regF .ferryStatus [] 15 8 + 1) 0xFF ∧
      (s.qpWorks f.qpn = true → Claims.QpSent s t f.qpn (.write f.tRkey f.tRaddr.toNat (ferryTrailer f 2 n true))) ∧
      ∀ e ∈ (t.core f.core).window, e.uid = f.uid → e.phase = if t.hasHeld f.core f.uid = true then .held else .done := by
  have husing : Calm s s.usedFresh := (Calm.of_clean (clean_of_noErrors h)).beside rfl rfl (heatKept_usedFresh s)
  have hdrawn : Ferried s s.usedFresh := ⟨rfl, fun _ _ _ _ _ => rfl⟩
  have hraw := ferryAbort.eq_1 s p
  simp only [hf, him] at hraw
  generalize f.sent.length + 64 * (s.freeLong.toNat % ((sumN (f.regions.map fun r => r.2.1) - f.sent.length) / 64 + 1)) = n at hraw
  obtain ⟨hsend, hreg, hclean, b, l, hr⟩ := sendRegions_clean husing.clean im.pages f n
  rw [hr, (hdrawn.trans hsend).qpWorks] at hraw
  generalize (s.usedFresh.sendRegions im.pages f n).1 = v at hraw hsend hreg hclean
  have hsent : Ferried s v := hdrawn.trans hsend
  have hfinish : ∀ u : State, Ferried s u → u.reg .ferryStatus [] = s.reg .ferryStatus [] → Clean u →
      (s.qpWorks f.qpn = true → u = v.qpOut f.qpn (.write f.tRkey f.tRaddr.toNat (ferryTrailer f 2 n true))) →
      s.ferryAbort p = { (u.bump .ferryStatus [] 15 8).ferryOver im { f with sent := b, bound := l } 2 n with stalled := s.stalled } →
      ∃ t n, exec (.ferryAbort p) s = .next t ∧ t.ferryOf p = none ∧
        t.regF .ferryStatus [] 15 8 = min (s.regF .ferryStatus [] 15 8 + 1) 0xFF ∧
        (s.qpWorks f.qpn = true → Claims.QpSent s t f.qpn (.write f.tRkey f.tRaddr.toNat (ferryTrailer f 2 n true))) ∧
        ∀ e ∈ (t.core f.core).window, e.uid = f.uid → e.phase = if t.hasHeld f.core f.uid = true then .held else .done := by
    intro u hu hur huc hout' heq
    obtain ⟨hfail, hst, hgone, hout, hwait, hcount, hended⟩ := export_ends (im := im) (g := { f with sent := b, bound := l }) hu hur huc
      (hi := 15) (lo := 8) (by decide) (by decide) (by decide) 2 n
    refine ⟨s.ferryAbort p, n, congrArg Host.Outcome.next (settle_eq ?_ ?_), ?_, ?_, fun hq => ?_, ?_⟩
    · rw [heq]
    · rw [heq]
      exact hfail
    · rw [heq]
      exact part_of_ferryOf hf ▸ hgone
    · rw [heq]
      exact hcount
    · rw [hout' hq] at hout hwait heq
      exact hsent.qpSent (by rw [heq]; exact hout) (by rw [heq]; exact hwait)
    · rw [heq]
      exact hended
  by_cases hq : s.qpWorks f.qpn = true
  · rw [if_pos hq] at hraw
    exact hfinish _ (hsent.trans (ferried_qpOut ..)) ((reg_qpOut ..).trans hreg) (Calm.of_clean hclean).qpOut.clean (fun _ => rfl) hraw
  · rw [if_neg hq] at hraw
    exact hfinish v hsent hreg hclean (fun hno => absurd hno hq) hraw

end State
end Sys2Proof.Machine
end

section
/-! PROOF. FERRY begins its export (R437, R438). -/

namespace Sys2Proof.Machine

namespace State

variable {s t : State} {c p : Nat} {e : Entry} {im : PartImg}

/-- What goes on beside the memories' bytes and what waits. -/
structure Idles (s t : State) : Prop where
  failing : t.failing = s.failing
  stalled : t.stalled = s.stalled
  cells : t.cells = s.cells

theorem Idles.trans {u : State} (h : Idles s t) (k : Idles t u) : Idles s u :=
  ⟨k.failing.trans h.failing, k.stalled.trans h.stalled, k.cells.trans h.cells⟩

theorem Idles.next (h : Idles s t) : s.settle t = t := settle_eq h.stalled h.failing

theorem Idles.sameMem (h : Idles s t) : SameMem s t := fun pl a => by rw [h.cells]

theorem OnlyBegun.idles (h : OnlyBegun c s t) : Idles s t := ⟨h.aside.mem.failing, h.aside.mem.stalled, funext h.aside.mem.cells⟩

theorem idles_bindOnly (e : Entry) (l : List Span) : Idles s (s.bindOnly c e l) := by
  rw [bindOnly, produce]
  split <;> exact ⟨rfl, rfl, rfl⟩

theorem idles_ferryTraffic (l : List Span) : Idles s (s.ferryTraffic p l) := by
  obtain ⟨x, hx⟩ := ferryTraffic_frame (s := s) (p := p) l
  rw [hx]
  exact ⟨rfl, rfl, rfl⟩

/-- The list that a FERRY names. -/
def ferryList (s : State) (c : Nat) (e : Entry) : Side := ⟨true, none, dF (s.desc c (getF e.op 55 44)) 8 6⟩

/-- Its length: the head and 32 bytes for each region. -/
def ferryRuns (s : State) (c : Nat) (e : Entry) : List (Nat × Nat) := [(0, 64 + 32 * dF (s.desc c (getF e.op 55 44)) 1 1)]

/-- The regions that its bytes name. -/
def listedRegions (s : State) (c : Nat) (e : Entry) (b : List Byte) : List (Nat × Nat × Long × Word) :=
  (List.range (dF (s.desc c (getF e.op 55 44)) 1 1)).map fun i =>
    (le b (64 + 32 * i) 8 % 2 ^ 48, le b (72 + 32 * i) 8, BitVec.ofNat 64 (le b (80 + 32 * i) 8), BitVec.ofNat 32 (le b (88 + 32 * i) 4))

/-- The bytes of its list. -/
def ferryBytes (s : State) (c : Nat) (e : Entry) (im : PartImg) : List Byte :=
  Claims.bytesIn s ((s.ferryList c e).pieces im.pages 0 (s.ferryRuns c e))

/-- The export that it begins. -/
def ferryMade (s : State) (c p : Nat) (e : Entry) (im : PartImg) : Ferry :=
  let d := s.desc c (getF e.op 55 44)
  let b := s.ferryBytes c e im
  let regs := s.listedRegions c e b
  { part := p, core := c, uid := e.uid, step := e.step, seq := (s.part p).ferrySeq + 1,
    buildId := s.reg .keepPartBuild [p], qpn := dF d 4 3, listVa := dF d 8 6, bufVa := dF d 0x10 6,
    bufBlocks := dF d 0x18 4, tRaddr := BitVec.ofNat 64 (le b 0 8), tRkey := BitVec.ofNat 32 (le b 8 4),
    regions := regs, bound := spansOf (regs.flatMap fun r => piecesOf im.pages 0 r.1 r.2.1), rate := dF d 2 2, start := s.tick,
    served := 0, damaged := 0, old := [], sent := [] }

/-- The state in which it has read its list. -/
def ferryListed (s : State) (c : Nat) (e : Entry) (im : PartImg) : State :=
  ((s.trafficAll (s.classOf c e.unit 0) (spansOf ((s.ferryList c e).pieces im.pages 0 (s.ferryRuns c e)))).readPieces
    ((s.ferryList c e).pieces im.pages 0 (s.ferryRuns c e))).st

/-- The state in which its export has begun. -/
def ferryBegun (s : State) (c p : Nat) (e : Entry) (im : PartImg) : State :=
  let f := s.ferryMade c p e im
  { (((((s.ferryListed c e im).modPart p fun x => { x with ferrySeq := f.seq }).bindOnly c e []).ferryTraffic p f.bound).setPhase c e.uid
      .fired) with ferries := s.ferries ++ [f] }

/-- The checks of a FERRY find nothing (R437). -/
structure FerryAccepted (s : State) (c : Nat) (e : Entry) (im : PartImg) : Prop where
  img : s.imgOf c = some im
  read : s.sideFault c im.pages (s.ferryList c e) 0 [] (s.ferryRuns c e) = none
  write : s.sideFault c im.pages (s.ferryList c e) 1 [] [(16, 48)] = none
  buffer : s.sideFault c im.pages ⟨true, none, dF (s.desc c (getF e.op 55 44)) 0x10 6⟩ 1 []
    [(0, dF (s.desc c (getF e.op 55 44)) 0x18 4 * 65536)] = none
  regions : s.sideFault c im.pages ⟨true, none, 0⟩ 0 [] ((s.listedRegions c e (s.ferryBytes c e im)).map fun r => (r.1, r.2.1)) = none

theorem ferryListed_reads (h : Clean s) (e : Entry) (im : PartImg) : Leaves c e.uid s.cells s (s.ferryListed c e im) ∧
    ((s.trafficAll (s.classOf c e.unit 0) (spansOf ((s.ferryList c e).pieces im.pages 0 (s.ferryRuns c e)))).readPieces
      ((s.ferryList c e).pieces im.pages 0 (s.ferryRuns c e))).bytes = (s.ferryBytes c e im).map some ∧
    ((s.trafficAll (s.classOf c e.unit 0) (spansOf ((s.ferryList c e).pieces im.pages 0 (s.ferryRuns c e)))).readPieces
      ((s.ferryList c e).pieces im.pages 0 (s.ferryRuns c e))).bad = none := by
  have hbegun : Leaves c e.uid s.cells s (s.trafficAll (s.classOf c e.unit 0)
      (spansOf ((s.ferryList c e).pieces im.pages 0 (s.ferryRuns c e)))) := leaves_trafficAll h _ _
  obtain ⟨hread, hbytes, hbad⟩ := readPieces_clean (c := c) (uid := e.uid) hbegun.clean
    ((s.ferryList c e).pieces im.pages 0 (s.ferryRuns c e))
  exact ⟨hbegun.step hread, by rw [hbytes, bytesIn_congr hbegun.cells, ferryBytes], hbad⟩

theorem fireFerry_begins (h : Clean s) (hp : (s.core c).part = some p) (hok : FerryAccepted s c e im) :
    s.fireFerry c e = s.ferryBegun c p e im := by
  obtain ⟨himg, hread, hwrite, hbuffer, hregions⟩ := hok
  obtain ⟨-, hbytes, hbad⟩ := ferryListed_reads (c := c) h e im
  rw [fireFerry.eq_1, ferryBegun]
  simp only [ferryList, ferryRuns] at hread hwrite hbytes hbad
  simp only [hp, himg, hread, hwrite, hbuffer, hbad, hbytes, getD_map_some, Option.orElse_eq_orElse, Option.orElse_eq_or, Option.none_or]
  have hregs : (s.ferryListed c e im).sideFault c im.pages ⟨true, none, 0⟩ 0 []
      ((s.listedRegions c e (s.ferryBytes c e im)).map fun r => (r.1, r.2.1)) = none := hregions
  simp only [ferryListed, listedRegions, ferryList, ferryRuns] at hregs
  rw [hregs]
  rfl

theorem ferryBegun_idles (h : Clean s) : Idles s (s.ferryBegun c p e im) := by
  obtain ⟨hlist, -⟩ := ferryListed_reads (c := c) h e im
  have hlisted : Idles s (s.ferryListed c e im) := ⟨hlist.failing, hlist.stalled, hlist.cells⟩
  have hseq : Idles (s.ferryListed c e im) ((s.ferryListed c e im).modPart p fun x => { x with ferrySeq := (s.ferryMade c p e im).seq }) :=
    ⟨rfl, rfl, rfl⟩
  have hbound := ((hlisted.trans hseq).trans (idles_bindOnly (c := c) e [])).trans (idles_ferryTraffic (p := p) (s.ferryMade c p e im).bound)
  exact ⟨hbound.failing, hbound.stalled, hbound.cells⟩

theorem phase_ferryBegun {y : Entry} (hy : y ∈ ((s.ferryBegun c p e im).core c).window) (hu : y.uid = e.uid) : y.phase = .fired := by
  obtain ⟨v, hv⟩ : ∃ v : State, (s.ferryBegun c p e im).cores = (v.setPhase c e.uid .fired).cores := ⟨_, rfl⟩
  rw [core, hv] at hy
  exact phase_of_mem_setPhase (s := v) hy hu

end State

/-- FERRY begins its export. -/
theorem ferry_begins {s : State} {c : CoreId} {p : PartId} {x : Entry} {im : PartImg} (herr : NoErrors s) (hp : (s.core c).part = some p.val)
    (hf : Fires s c 5 0x7C (s.strmAccepts c) x) (hok : State.FerryAccepted s c x im) :
    ∃ t, exec (.ferry c) s = .next t ∧ SameMem s t ∧ t.ferries = s.ferries ++ [s.ferryMade c p x im] ∧
      ∀ e ∈ (t.core c).window, e.uid = x.uid → e.phase = .fired := by
  have hb := State.onlyBegun_markFired (s := s) (c := c) x
  have hclean := State.clean_markFired (c := c) (State.clean_of_noErrors herr) x
  have hcells : (s.markFired c x).cells = s.cells := hb.idles.cells
  have hlist : (s.markFired c x).ferryList c (s.firedEntry c x) = s.ferryList c x := by rw [State.ferryList, State.ferryList, hb.desc]; rfl
  have hruns : (s.markFired c x).ferryRuns c (s.firedEntry c x) = s.ferryRuns c x := by rw [State.ferryRuns, State.ferryRuns, hb.desc]; rfl
  have hbytes : (s.markFired c x).ferryBytes c (s.firedEntry c x) im = s.ferryBytes c x im := by
    rw [State.ferryBytes, State.ferryBytes, hlist, hruns, State.bytesIn_congr hcells]
  have hdesc : (s.markFired c x).desc c (getF (s.firedEntry c x).op 55 44) = s.desc c (getF x.op 55 44) := by rw [hb.desc]; rfl
  have hmade : (s.markFired c x).ferryMade c p (s.firedEntry c x) im = s.ferryMade c p x im := by
    have hbuild : (s.markFired c x).reg .keepPartBuild [p.val] = s.reg .keepPartBuild [p.val] := by
      refine hb.regs _ _ fun k hk => ?_
      have := State.range_of_mem_coreCounters hk
      have := p.isLt
      simp only [RegRow.addr, RegId.row, sumN, List.zipWith_cons_cons, List.zipWith_nil_left, List.foldl_cons, List.foldl_nil] at *
      omega
    have hparts : (s.markFired c x).parts = s.parts := by rw [hb.only.frame]
    have hpart : (s.markFired c x).part p = s.part p := by rw [State.part, hparts, State.part]
    have htick : (s.markFired c x).tick = s.tick := by rw [hb.only.frame]
    simp only [State.ferryMade, State.listedRegions, hbytes, hdesc, hbuild, hpart, htick]
    rfl
  have hok' : State.FerryAccepted (s.markFired c x) c (s.firedEntry c x) im := by
    obtain ⟨himg, hread, hwrite, hbuffer, hregions⟩ := hok
    refine ⟨by rw [hb.imgOf, himg], by rw [hlist, hruns, hb.sideFault, hread], by rw [hlist, hb.sideFault, hwrite], ?_, ?_⟩
    · rw [hdesc, hb.sideFault, hbuffer]
    · rw [hb.sideFault, State.listedRegions, hbytes, hdesc]
      exact hregions
  have hidle := hb.idles.trans (State.ferryBegun_idles (c := c) (p := p.val) (e := s.firedEntry c x) (im := im) hclean)
  refine ⟨(s.markFired c x).ferryBegun c p (s.firedEntry c x) im, ?_, hidle.sameMem, ?_, ?_⟩
  · refine (congrArg (fun t => Host.Outcome.next (s.settle t)) (fireOp_fires hf fun t e => t.fireFerry c e)).trans ?_
    rw [State.fireFerry_begins hclean (hb.holds.trans hp) hok', hidle.next]
  · have hferries : (s.markFired c x).ferries = s.ferries := by rw [hb.only.frame]
    rw [State.ferryBegun, hmade, hferries]
  · exact fun e he hu => State.phase_ferryBegun he hu

theorem ferryExports : Claims.FerryExports := by
  refine ⟨fun s c p x im herr hp him hf hlist hwrite hbuffer hregions => ?_, fun s p f im hf him =>
    ⟨fun block => ⟨fun h => ?_, fun herr hold hroom hin hbegun => ?_⟩, fun hq => ?_, fun hq herr => State.ferryEnd_ends herr hf him hq,
      fun herr => State.ferryAbort_ends herr hf him⟩⟩
  · have hok : State.FerryAccepted s c x im := by
      refine ⟨him, hlist, hwrite, hbuffer, ?_⟩
      rw [State.listedRegions, List.map_map]
      exact hregions
    obtain ⟨t, hexec, hmem, hferries, hphase⟩ := ferry_begins herr hp hf hok
    refine ⟨t, s.ferryMade c p x im, hexec, hmem, hferries, rfl, rfl, rfl, rfl, rfl, rfl, ?_, rfl, ?_, hphase⟩
    · exact List.map_map
    · simp only [State.ferryMade, State.listedRegions, List.flatMap_map]
      rfl
  · exact congrArg Host.Outcome.next ((congrArg s.settle (State.ferryBlock_idle hf him h)).trans (State.settle_eq rfl rfl))
  · obtain ⟨hfail, hst, hferry⟩ := State.ferryBlock_copies (State.clean_of_noErrors herr) hf him hold hroom hin hbegun
    exact ⟨s.ferryBlock p block, s.withOld p f im block, congrArg Host.Outcome.next (State.settle_eq hst hfail), hferry,
      State.old_withOld (State.clean_of_noErrors herr) block, fun k hk => FMap.get_set_ne _ _ _ hk⟩
  · have hidle : s.ferryEnd p = s := by simp only [State.ferryEnd, hf, him, hq, Bool.false_eq_true, if_false]
    exact congrArg Host.Outcome.next ((congrArg s.settle hidle).trans (State.settle_eq rfl rfl))

end Sys2Proof.Machine
end

section
/-! SUPPORT. A store of which no other load binds a byte, and the exchange's steps beside the memories (R77, R444). -/

namespace Sys2Proof.Machine.State

variable {s t u : State} {c uid p : Nat} {e : Entry}

/-! ### A store of unbound bytes (R77) -/

theorem cutRun_of_apart {pl : Place} {sp : Span} {a : Nat} {bs : List Byte}
    (h : sp.place = pl → sp.lo + sp.len ≤ a ∨ a + bs.length ≤ sp.lo) : cutRun pl sp a bs = ([(a, bs)], none) := by
  refine if_neg fun ⟨hpl, hlt⟩ => ?_
  have := h hpl.symm
  omega

theorem storeCut_of_free {q : Piece} {bs : List Byte} (hlen : bs.length = q.len) (h : ∀ b ∈ s.boundSpans c uid, b.1.place = q.place →
    b.1.lo + b.1.len ≤ q.addr ∨ q.addr + q.len ≤ b.1.lo) : s.storeCut c uid q.place q.addr bs = ([(q.addr, bs)], []) := by
  refine List.foldlRecOn (motive := fun r => r = ([(q.addr, bs)], [])) _ _ rfl ?_
  rintro _ rfl b hb
  simp only [List.map_cons, List.map_nil, cutRun_of_apart (hlen ▸ h b hb)]
  rfl

theorem storeRun_uncut (h : Clean s) {pl : Place} {a : Nat} {bs : List Byte} (hcut : s.storeCut c uid pl a bs = ([(a, bs)], [])) :
    Leaves c uid (putBytes s.cells pl a bs) s (s.storeRun c uid pl a bs).1 ∧ (s.storeRun c uid pl a bs).2 = none := by
  have hnote := leaves_noteDst (c := c) (uid := uid) h ⟨pl, a, bs.length⟩
  have hbegun := hnote.step (leaves_trafficAll hnote.clean (s.storeClass c uid) [⟨pl, a, bs.length⟩])
  obtain ⟨hput, hbad⟩ := writePlace_puts (c := c) (uid := uid) hbegun.clean pl a bs
  rw [hbegun.cells] at hput
  have hrun : s.storeRun c uid pl a bs =
      (((s.noteDst c uid ⟨pl, a, bs.length⟩).trafficAll (s.storeClass c uid) [⟨pl, a, bs.length⟩]).writePlace pl a bs) := by
    rw [storeRun_eq, hcut]
    simp only [writeRuns, List.foldl_cons, List.foldl_nil, List.append_nil]
    rfl
  rw [hrun]
  exact ⟨hbegun.trans hput, hbad⟩

/-- One piece, of which no load binds a byte, is filled. -/
theorem storePiece_fills (h : Clean s) {q : Piece} {bs : List Byte} (hlen : bs.length = q.len) (hfree : ∀ b ∈ s.boundSpans c uid,
    b.1.place = q.place → b.1.lo + b.1.len ≤ q.addr ∨ q.addr + q.len ≤ b.1.lo) :
    Leaves c uid (fillPieces s.cells [q] bs) s (s.storePieces c uid [q] bs).1 ∧ (s.storePieces c uid [q] bs).2 = none := by
  have hall : bs.take q.len = bs := List.take_of_length_le hlen.le
  obtain ⟨hrun, hbad⟩ := storeRun_uncut h (storeCut_of_free hlen hfree)
  have hname : (s.storeRun c uid q.place q.addr bs).1.nameHeld s.held.length q (spansOf [q]) = (s.storeRun c uid q.place q.addr bs).1 :=
    modHeld_of_length_le (by rw [hrun.held]) _
  rw [storePieces, storeFrom, hall, hname, hbad, fillPieces, hall]
  exact ⟨hrun, rfl⟩

/-- A piece that has been filled holds its bytes, and no other byte has changed. -/
theorem piece_stands {q : Piece} {bs : List Byte} (h : t.cells = fillPieces s.cells [q] bs) (hlen : bs.length = q.len) :
    readBytes (t.cells q.place) q.addr q.len = bs ∧ SameMemBut q.place q.addr q.len s t := by
  obtain ⟨hstands, hrest⟩ := filled_stands h (List.pairwise_singleton _ _) (by simp [hlen])
  refine ⟨by simpa [Claims.bytesIn] using hstands, fun pl a hout => ?_⟩
  by_contra hne
  obtain ⟨k, hk, hpl, hlo, hhi⟩ := hrest pl a hne
  obtain rfl := List.mem_singleton.mp hk
  exact hout ⟨hpl.symm, hlo, hhi⟩

/-! ### What goes on before the bytes are moved -/

/-- The entries of a core's window, each with its instruction. -/
def opsAt (s : State) (k : Nat) : List (Nat × Long) := (s.core k).window.map fun e => (e.uid, e.op)

/-- The images, the instructions in flight, the memories' bytes and what is held are as before, and nothing is in error. -/
structure Undisturbed (s t : State) : Prop where
  clean : Clean t
  idles : Idles s t
  held : t.held = s.held
  imgs : ∀ k, t.imgOf k = s.imgOf k
  ops : ∀ k, t.opsAt k = s.opsAt k

theorem Undisturbed.trans (h : Undisturbed s t) (k : Undisturbed t u) : Undisturbed s u :=
  ⟨k.clean, h.idles.trans k.idles, k.held.trans h.held, fun j => (k.imgs j).trans (h.imgs j), fun j => (k.ops j).trans (h.ops j)⟩

theorem Undisturbed.pagesOf (h : Undisturbed s t) (k : Nat) : t.pagesOf k = s.pagesOf k := by rw [State.pagesOf, State.pagesOf, h.imgs]

theorem Undisturbed.xExtent (h : Undisturbed s t) (k : Nat) (op : Long) : t.xExtent k op = s.xExtent k op := by
  rw [State.xExtent, State.xExtent, State.desc, State.desc, h.imgs]

theorem Undisturbed.entry? (h : Undisturbed s t) {k : Nat} {b : Entry} (hb : s.entry? k uid = some b) :
    ∃ y, t.entry? k uid = some y ∧ y.op = b.op := by
  have hfind : ∀ v : State, ((v.opsAt k).find? fun x => x.1 == uid) = (v.entry? k uid).map fun e => (e.uid, e.op) := fun v => by
    rw [opsAt, List.find?_map, State.entry?]
    rfl
  have hsame := hfind t
  rw [h.ops, hfind s, hb] at hsame
  obtain ⟨y, hy, hop⟩ := Option.map_eq_some_iff.mp hsame.symm
  exact ⟨y, hy, congrArg Prod.snd hop⟩

theorem opsAt_modEntry {f : Entry → Entry} (hf : ∀ e, (f e).uid = e.uid ∧ (f e).op = e.op) (k : Nat) :
    (s.modEntry c uid f).opsAt k = s.opsAt k := by
  by_cases hk : k = c
  · subst hk
    rw [opsAt, opsAt, modEntry, core_modCore_self, List.map_map]
    refine List.map_congr_left fun e _ => ?_
    simp only [Function.comp]
    split
    · rw [(hf e).1, (hf e).2]
    · rfl
  · rw [opsAt, opsAt, modEntry, core_modCore_ne _ _ _ hk]

theorem imgOf_of_memTraffic (h : MemTraffic s t) (k : Nat) : t.imgOf k = s.imgOf k := by
  have hparts : t.parts = s.parts := by rw [h.frame]
  rw [State.imgOf, State.imgOf, h.holders]
  simp only [State.part, hparts]

theorem undisturbed_markFired (h : Clean s) (e : Entry) : Undisturbed s (s.markFired c e) := by
  have hb := onlyBegun_markFired (s := s) (c := c) e
  refine ⟨clean_markFired h e, hb.idles, by rw [hb.only.frame], imgOf_of_memTraffic (memTraffic_markFired e), fun k => ?_⟩
  by_cases hk : k = c
  · subst hk
    obtain ⟨n, hn⟩ := core_markFired (s := s) (c := k) e
    rw [opsAt, opsAt, hn, List.map_map]
    refine List.map_congr_left fun y _ => ?_
    simp only [Function.comp]
    split <;> rfl
  · rw [opsAt, opsAt, hb.only.others k hk]

theorem undisturbed_modPart (h : Clean s) {f : Part → Part} (hf : ∀ x, (f x).img = x.img) : Undisturbed s (s.modPart p f) := by
  refine ⟨h.of_view rfl (heatKept_of_mrs rfl), ⟨rfl, rfl, rfl⟩, rfl, fun k => ?_, fun _ => rfl⟩
  rw [State.imgOf, State.imgOf, core_modPart]
  split
  · rfl
  · next q _ =>
    by_cases hq : q = p
    · rw [hq, part_modPart_self, hf]
    · rw [part_modPart_ne _ _ _ hq]

theorem undisturbed_bindSpans (h : Clean s) (e : Entry) (l : List Span) : Undisturbed s (s.bindSpans c e l) := by
  have hl := leaves_bindSpans (c := c) h e l
  refine ⟨hl.clean, ⟨hl.failing, hl.stalled, hl.cells⟩, hl.held, imgOf_of_memTraffic (memTraffic_bindSpans e l), fun k => ?_⟩
  obtain ⟨x, hx⟩ := trafficAll_frame (s := s.bindOnly c e l) (s.classOf c e.unit 0) l
  have hbound : (s.bindOnly c e l).opsAt k = s.opsAt k := by
    have hentry := opsAt_modEntry (s := s) (c := c) (uid := e.uid) (f := fun x => { x with bound := l }) (fun _ => ⟨rfl, rfl⟩) k
    rw [bindOnly, produce]
    split
    · exact hentry
    · refine Eq.trans ?_ hentry
      by_cases hk : k = c
      · rw [opsAt, opsAt, hk, addTok, core_modCore_self]
      · rw [opsAt, opsAt, addTok, core_modCore_ne _ _ _ hk]
  rw [bindSpans, hx]
  exact hbound

theorem cores_readPiece (h : Clean s) (q : Piece) : (s.readPiece q).st.cores = s.cores := by
  have hbank : ∀ pl, IsBank pl → (s.bankRead pl q.addr q.len).st.cores = s.cores := fun pl _ => by
    rw [bankRead_clean _ _ _ _ (h.banks pl)]
    have hg := vatGrants_frame s pl q.addr q.len
    rw [OnlyRegs] at hg
    exact (congrArg State.cores hg).trans rfl
  cases hp : q.place with
  | tier slow =>
    obtain ⟨hcounts, -, -⟩ := tierRead_clean s slow q.addr q.len (h.calm.tier slow) (h.calm.touch slow _ _)
    rw [Counts] at hcounts
    simp only [readPiece, hp]
    exact (congrArg State.cores hcounts).trans rfl
  | vat i => simpa only [readPiece, hp] using hbank (.vat i) (isBank_vat i)
  | pool i => simpa only [readPiece, hp] using hbank (.pool i) (isBank_pool i)

theorem cores_readPieces (h : Clean s) (l : List Piece) : (s.readPieces l).st.cores = s.cores := by
  induction l generalizing s with
  | nil => rfl
  | cons q l ih =>
    obtain ⟨hone, -⟩ := readPiece_clean (c := 0) (uid := 0) h q
    exact (ih hone.clean).trans (cores_readPiece h q)

theorem undisturbed_readPieces (h : Clean s) (l : List Piece) : Undisturbed s (s.readPieces l).st := by
  obtain ⟨hl, -⟩ := readPieces_clean (c := 0) (uid := 0) h l
  refine ⟨hl.clean, ⟨hl.failing, hl.stalled, hl.cells⟩, hl.held, imgOf_of_memTraffic (memTraffic_readPieces h l), fun k => ?_⟩
  rw [opsAt, opsAt, core, core, cores_readPieces h]

/-! ### The bytes are moved (R444) -/

theorem phase_setPhase_twice {k j : Nat × Nat} {ph : Phase} : (∀ y ∈ (((s.setPhase k.1 k.2 ph).setPhase j.1 j.2 ph).core k.1).window,
      y.uid = k.2 → y.phase = ph) ∧ ∀ y ∈ (((s.setPhase k.1 k.2 ph).setPhase j.1 j.2 ph).core j.1).window, y.uid = j.2 → y.phase = ph := by
  refine ⟨fun y hy hu => ?_, fun y hy hu => phase_of_mem_setPhase hy hu⟩
  by_cases hj : k.1 = j.1
  · rw [hj, setPhase, modEntry, core_modCore_self] at hy
    obtain ⟨z, hz, rfl⟩ := List.mem_map.mp hy
    split at hu
    next hz2 => rw [if_pos hz2]
    next hz2 =>
      rw [if_neg hz2]
      rw [← hj] at hz
      exact phase_of_mem_setPhase hz hu
  · rw [setPhase, modEntry, core_modCore_ne _ _ _ hj] at hy
    exact phase_of_mem_setPhase hy hu

theorem holdSender_of_nothing_held {k j : Nat × Nat} (h : s.hasHeld j.1 j.2 = false) : s.holdSender k j = s := by
  have hnone : (s.held.filter fun h => decide (h.storer = j)) = [] := List.filter_eq_nil_iff.mpr fun x hx heq => by
    have hany : s.hasHeld j.1 j.2 = true := List.any_eq_true.mpr ⟨x, hx, heq⟩
    rw [h] at hany
    exact absurd hany (by decide)
  rw [holdSender, hnone]
  simp

/-- An exchange of which nothing is held ends at once. -/
theorem exchangeEnd_of_nothing_held {k j : Nat × Nat} (hk : s.hasHeld k.1 k.2 = false) (hj : s.hasHeld j.1 j.2 = false) :
    ((s.holdSender k j).waitHeld k.1 k.2).waitHeld j.1 j.2 = s := by
  rw [holdSender_of_nothing_held hj, waitHeld_of_nothing_held hk, waitHeld_of_nothing_held hj]

/-- A paired exchange whose receiver's piece is free fills it, and both instructions are done. -/
theorem xTransfer_fills (h : Clean s) {k j : Nat × Nat} {a b : Entry} {data : List Byte} {q : Piece} (ha : s.entry? k.1 k.2 = some a)
    (hb : s.entry? j.1 j.2 = some b) (hlen : (s.xExtent j.1 b.op).2 = data.length)
    (hq : piecesOf (s.pagesOf j.1) 1 (s.xExtent j.1 b.op).1 (s.xExtent j.1 b.op).2 = [q]) (hqlen : data.length = q.len)
    (hfree : ∀ x ∈ s.boundSpans j.1 j.2, x.1.place = q.place → x.1.lo + x.1.len ≤ q.addr ∨ q.addr + q.len ≤ x.1.lo)
    (hk : s.hasHeld k.1 k.2 = false) (hj : s.hasHeld j.1 j.2 = false) :
    let t := s.xTransfer k.1 k.2 j.1 j.2 data
    t.failing = s.failing ∧ t.stalled = s.stalled ∧ t.cells = fillPieces s.cells [q] data ∧
      (∀ y ∈ (t.core k.1).window, y.uid = k.2 → y.phase = .done) ∧ ∀ y ∈ (t.core j.1).window, y.uid = j.2 → y.phase = .done := by
  obtain ⟨hfill, hbad⟩ := storePiece_fills h hqlen hfree
  have heq : s.xTransfer k.1 k.2 j.1 j.2 data = ((((((s.storePieces j.1 j.2 [q] data).1.setPhase k.1 k.2 .done).setPhase j.1 j.2
      .done).holdSender k j).waitHeld k.1 k.2).waitHeld j.1 j.2) := by
    simp only [xTransfer, ha, hb, hlen, ne_eq, not_true_eq_false, if_false]
    rw [← hlen, hq, hbad]
  generalize (s.storePieces j.1 j.2 [q] data).1 = v at hfill heq
  have hkn : ((v.setPhase k.1 k.2 .done).setPhase j.1 j.2 .done).hasHeld k.1 k.2 = false := (hasHeld_congr hfill.held _ _).trans hk
  have hjn : ((v.setPhase k.1 k.2 .done).setPhase j.1 j.2 .done).hasHeld j.1 j.2 = false := (hasHeld_congr hfill.held _ _).trans hj
  rw [exchangeEnd_of_nothing_held hkn hjn] at heq
  obtain ⟨hk', hj'⟩ := phase_setPhase_twice (s := v) (k := k) (j := j) (ph := .done)
  dsimp only
  rw [heq]
  exact ⟨hfill.failing, hfill.stalled, hfill.cells, hk', hj'⟩

end Sys2Proof.Machine.State
end

section
/-! PROOF. XSEND and XRECV (R444, R445). -/

namespace Sys2Proof.Machine

namespace State

variable {s t : State} {c p uid : Nat} {e : Entry} {send : Bool}

/-! ### What an exchange reads -/

/-- The partition and the slot that an exchange names, its turn on that side, and what it reads where it sends. -/
def xPeer (e : Entry) : Nat := getF e.op 43 40
def xSlot (e : Entry) : Nat := getF e.op 39 36
def xTurn (s : State) (p : Nat) (e : Entry) (send : Bool) : Nat := (s.part p).xcount.get 0 (xKey (xPeer e) (xSlot e) send)
def xSide (s : State) (c : Nat) (e : Entry) : Side := ⟨true, none, (s.xExtent c e.op).1⟩
def xSrc (s : State) (c : Nat) (e : Entry) : List Piece := (s.xSide c e).pieces (s.pagesOf c) 0 [(0, (s.xExtent c e.op).2)]
def xData (s : State) (c : Nat) (e : Entry) (send : Bool) : List Byte := if send then Claims.bytesIn s (s.xSrc c e) else []

/-- The other half of an exchange's pair. -/
def xMate (s : State) (p : Nat) (e : Entry) (send : Bool) : XWait → Bool := fun w =>
  w.send != send && w.peer == p && w.slot == xSlot e && w.k == s.xTurn p e send

/-- The state in which its turn has been taken. -/
def xTurned (s : State) (p : Nat) (e : Entry) (send : Bool) : State :=
  s.modPart p fun y => { y with xcount := y.xcount.set (xKey (xPeer e) (xSlot e) send) (s.xTurn p e send + 1) }

/-- What a sender reads. -/
def xRead (s : State) (c p : Nat) (e : Entry) (send : Bool) : Rd :=
  if send then ((s.xTurned p e send).bindSpans c e (spansOf (s.xSrc c e))).readPieces (s.xSrc c e) else ⟨s.xTurned p e send, [], none⟩

/-- The wait of an exchange that is the first of its pair. -/
def xWaits (s : State) (c p : Nat) (e : Entry) (send : Bool) : XWait :=
  ⟨send, c, e.uid, xPeer e, xSlot e, s.xTurn p e send, s.xData c e send⟩

theorem undisturbed_xTurned (h : Clean s) : Undisturbed s (s.xTurned p e send) := undisturbed_modPart h fun _ => rfl

theorem boundSpans_addTok (x : Tok) (k uid : Nat) : (s.addTok c x).boundSpans k uid = s.boundSpans k uid := by
  refine boundSpans_congr (fun j => ?_) rfl
  by_cases hj : j = c
  · rw [hj, loads, loads, addTok, core_modCore_self]
  · rw [loads, loads, addTok, core_modCore_ne _ _ _ hj]

/-- Loads bind what they did, but for a sender, which binds its bytes. -/
theorem mem_boundSpans_bindSpans {l : List Span} {k : Nat} {x : Span × Nat × Nat} (h : x ∈ (s.bindSpans c e l).boundSpans k uid) :
    x ∈ s.boundSpans k uid ∨ x.1 ∈ l := by
  obtain ⟨sl, hsl⟩ := trafficAll_frame (s := s.bindOnly c e l) (s.classOf c e.unit 0) l
  have hbound : (s.bindSpans c e l).boundSpans k uid = (s.modEntry c e.uid fun y => { y with bound := l }).boundSpans k uid := by
    rw [bindSpans, hsl]
    rw [bindOnly, produce]
    split
    · rfl
    · exact boundSpans_addTok _ _ _
  rw [hbound, boundSpans, List.mem_append] at h
  rw [boundSpans, List.mem_append]
  rcases h with h | h
  · obtain ⟨j, hj, h⟩ := List.mem_flatMap.mp h
    obtain ⟨y, hy, h⟩ := List.mem_flatMap.mp h
    have hold : ∀ z ∈ (s.core j).window, (x ∈ if j = k ∧ z.uid = uid then [] else z.bound.map fun sp => (sp, j, z.uid)) →
        x ∈ (List.range 128).flatMap fun j => (s.core j).window.flatMap fun z =>
          if j = k ∧ z.uid = uid then [] else z.bound.map fun sp => (sp, j, z.uid) := fun z hz hx =>
      List.mem_flatMap.mpr ⟨j, hj, List.mem_flatMap.mpr ⟨z, hz, hx⟩⟩
    by_cases hjc : j = c
    · subst hjc
      rw [modEntry, core_modCore_self] at hy
      obtain ⟨z, hz, rfl⟩ := List.mem_map.mp hy
      by_cases hzu : z.uid = e.uid
      · rw [if_pos hzu] at h
        split at h
        · cases h
        · obtain ⟨sp, hsp, rfl⟩ := List.mem_map.mp h
          exact .inr hsp
      · rw [if_neg hzu] at h
        exact .inl (.inl (hold z hz h))
    · rw [modEntry, core_modCore_ne _ _ _ hjc] at hy
      exact .inl (.inl (hold y hy h))
  · exact .inl (.inr h)

/-- What an exchange's reading leaves. -/
structure XReads (s : State) (c p : Nat) (e : Entry) (send : Bool) : Prop where
  undisturbed : Undisturbed s (s.xRead c p e send).st
  parts : (s.xRead c p e send).st.parts = (s.xTurned p e send).parts
  bytes : (s.xRead c p e send).bytes = (s.xData c e send).map some
  bad : (s.xRead c p e send).bad = none
  bound : ∀ k uid, ∀ x ∈ (s.xRead c p e send).st.boundSpans k uid, x ∈ s.boundSpans k uid ∨ send = true ∧ x.1 ∈ spansOf (s.xSrc c e)

theorem xReads (h : Clean s) : XReads s c p e send := by
  have hturn := undisturbed_xTurned (p := p) (e := e) (send := send) h
  cases send with
  | false => exact ⟨hturn, rfl, rfl, rfl, fun k uid x hx => .inl hx⟩
  | true =>
    have hbind := undisturbed_bindSpans (c := c) hturn.clean e (spansOf (s.xSrc c e))
    obtain ⟨-, hbytes, hbad⟩ := readPieces_clean (c := c) (uid := e.uid) hbind.clean (s.xSrc c e)
    have htraffic := (memTraffic_bindSpans (s := s.xTurned p e true) (c := c) e (spansOf (s.xSrc c e))).trans
      (memTraffic_readPieces hbind.clean (s.xSrc c e))
    refine ⟨hturn.trans (hbind.trans (undisturbed_readPieces hbind.clean _)), ?_, ?_, hbad, fun k uid x hx => ?_⟩
    · exact (congrArg State.parts htraffic.frame).trans rfl
    · exact hbytes.trans (congrArg _ (bytesIn_congr (hturn.trans hbind).idles.cells _))
    · obtain ⟨hread, -, -⟩ := readPieces_clean (c := k) (uid := uid) hbind.clean (s.xSrc c e)
      have hb : (s.xRead c p e true).st.boundSpans k uid =
          ((s.xTurned p e true).bindSpans c e (spansOf (s.xSrc c e))).boundSpans k uid := hread.bound
      rw [hb] at hx
      exact (mem_boundSpans_bindSpans hx).imp id fun hin => ⟨rfl, hin⟩

/-! ### What it comes to -/

/-- The checks of an exchange find nothing, and its partitions run (R444, R445). -/
structure XAccepted (s : State) (c p : Nat) (e : Entry) (send : Bool) : Prop where
  holder : (s.core c).part = some p
  side : s.sideFault c (s.pagesOf c) (s.xSide c e) (if send then 0 else 1) [] [(0, (s.xExtent c e.op).2)] = none
  peer : s.isRunning (xPeer e) = true

theorem fireExchange_stopped (hp : (s.core c).part = some p)
    (hside : s.sideFault c (s.pagesOf c) (s.xSide c e) (if send then 0 else 1) [] [(0, (s.xExtent c e.op).2)] = none)
    (hpeer : s.isRunning (xPeer e) = false) : s.fireExchange c e send = s.fault c e 7 noIndex none := by
  rw [xSide] at hside
  rw [xPeer] at hpeer
  simp only [fireExchange, hp, hside, hpeer, Bool.not_false, if_true]

/-- The state in which an exchange's mate waits no more. -/
def xPaired (s : State) (c p : Nat) (e : Entry) (send : Bool) (w : XWait) : State :=
  (s.xRead c p e send).st.modPart (xPeer e) fun y => { y with xwaits := y.xwaits.filter fun v => decide (v ≠ w) }

/-- An exchange whose mate does not wait waits itself; where it waits, the bytes go over. -/
theorem fireExchange_accepted (h : Clean s) (hok : XAccepted s c p e send) :
    (((s.xRead c p e send).st.part (xPeer e)).xwaits.find? (s.xMate p e send) = none → s.fireExchange c e send =
      ((s.xRead c p e send).st.modPart p fun y => { y with xwaits := y.xwaits ++ [s.xWaits c p e send] }).setPhase c e.uid .fired) ∧
    ∀ w, ((s.xRead c p e send).st.part (xPeer e)).xwaits.find? (s.xMate p e send) = some w → s.fireExchange c e send =
      if send then (s.xPaired c p e send w).xTransfer c e.uid w.core w.uid (s.xData c e send)
      else (s.xPaired c p e send w).xTransfer w.core w.uid c e.uid w.data := by
  obtain ⟨hp, hside, hpeer⟩ := hok
  obtain ⟨-, -, hbytes, hbad, -⟩ := xReads (c := c) (p := p) (e := e) (send := send) h
  have hgood : (s.xRead c p e send).poisoned = false := by
    rw [Rd.poisoned, hbytes]
    exact not_poisoned_of_good s _
  have hdata : (s.xRead c p e send).bytes.map (fun b => b.getD 0xFF) = s.xData c e send := by rw [hbytes, map_getD_some]
  delta xMate
  simp only [xPaired, xRead, xTurned, xTurn, xPeer, xSlot, xSrc, xSide, xWaits] at hside hpeer hbad hgood hdata ⊢
  simp only [fireExchange, hp, hside, hpeer, hbad, hgood, Bool.not_true, Bool.false_eq_true, if_false]
  exact ⟨fun hmate => by simp only [hmate, hdata], fun w hmate => by simp only [hmate, hdata]⟩

/-! ### The state in which it fires -/

theorem isRunning_markFired (x : Entry) (q : Nat) : (s.markFired c x).isRunning q = s.isRunning q :=
  (onlyBegun_markFired x).aside.holders.isRunning q

theorem part_setPhase (ph : Phase) (q : Nat) : (s.setPhase c uid ph).part q = s.part q := rfl

theorem part_markFired (x : Entry) (q : Nat) : (s.markFired c x).part q = s.part q := by
  have hparts : (s.markFired c x).parts = s.parts := by rw [(onlyBegun_markFired (s := s) (c := c) x).only.frame]
  rw [part, hparts, part]

theorem xTurn_markFired (x : Entry) : (s.markFired c x).xTurn p (s.firedEntry c x) send = s.xTurn p x send := by
  rw [xTurn, xTurn, part_markFired]
  rfl

theorem xExtent_markFired (x : Entry) : (s.markFired c x).xExtent c (s.firedEntry c x).op = s.xExtent c x.op := by
  rw [xExtent, xExtent, (onlyBegun_markFired x).desc]
  rfl

theorem xSide_markFired (x : Entry) : (s.markFired c x).xSide c (s.firedEntry c x) = s.xSide c x := by rw [xSide, xSide, xExtent_markFired]

theorem xSrc_markFired (x : Entry) : (s.markFired c x).xSrc c (s.firedEntry c x) = s.xSrc c x := by
  rw [xSrc, xSrc, xSide_markFired, xExtent_markFired, (onlyBegun_markFired x).pagesOf]

theorem xData_markFired (x : Entry) : (s.markFired c x).xData c (s.firedEntry c x) send = s.xData c x send := by
  rw [xData, xData, xSrc_markFired, bytesIn_congr (onlyBegun_markFired (s := s) (c := c) x).idles.cells]

theorem sideFault_markFired (x : Entry) (bit : Nat) : (s.markFired c x).sideFault c ((s.markFired c x).pagesOf c)
    ((s.markFired c x).xSide c (s.firedEntry c x)) bit [] [(0, ((s.markFired c x).xExtent c (s.firedEntry c x).op).2)] =
      s.sideFault c (s.pagesOf c) (s.xSide c x) bit [] [(0, (s.xExtent c x.op).2)] := by
  rw [xSide_markFired, xExtent_markFired, (onlyBegun_markFired x).sideFault, (onlyBegun_markFired x).pagesOf]

theorem xAccepted_markFired {x : Entry} (h : XAccepted s c p x send) : XAccepted (s.markFired c x) c p (s.firedEntry c x) send := by
  obtain ⟨hp, hside, hpeer⟩ := h
  exact ⟨(onlyBegun_markFired x).holds.trans hp, (sideFault_markFired x _).trans hside, (isRunning_markFired x _).trans hpeer⟩

/-- What waits at the peer as the exchange fires. -/
theorem find_markFired (h : Clean s) (x : Entry) : (((s.markFired c x).xRead c p (s.firedEntry c x) send).st.part (xPeer x)).xwaits.find?
    ((s.markFired c x).xMate p (s.firedEntry c x) send) = (s.part (xPeer x)).xwaits.find? (s.xMate p x send) := by
  have hparts := (xReads (c := c) (p := p) (e := s.firedEntry c x) (send := send) (clean_markFired (c := c) h x)).parts
  have hwaits : (((s.markFired c x).xRead c p (s.firedEntry c x) send).st.part (xPeer x)).xwaits = (s.part (xPeer x)).xwaits := by
    rw [part, hparts]
    change (((s.markFired c x).xTurned p (s.firedEntry c x) send).part (xPeer x)).xwaits = _
    rw [xTurned]
    by_cases hq : xPeer x = p
    · rw [hq, part_modPart_self, part_markFired]
    · rw [part_modPart_ne _ _ _ hq, part_markFired]
  have hmate : (s.markFired c x).xMate p (s.firedEntry c x) send = s.xMate p x send := by
    delta xMate
    rw [xTurn_markFired]
    rfl
  rw [hwaits, hmate]

/-! ### The bytes go over -/

theorem undisturbed_xPaired (h : Clean s) (x : Entry) (w : XWait) :
    Undisturbed s ((s.markFired c x).xPaired c p (s.firedEntry c x) send w) := by
  have hmark := undisturbed_markFired (c := c) h x
  have hread := hmark.trans (xReads (c := c) (p := p) (e := s.firedEntry c x) (send := send) hmark.clean).undisturbed
  exact hread.trans (undisturbed_modPart hread.clean fun _ => rfl)

theorem boundSpans_xPaired (h : Clean s) {x : Entry} {w : XWait} {k : Nat} {b : Span × Nat × Nat}
    (hb : b ∈ ((s.markFired c x).xPaired c p (s.firedEntry c x) send w).boundSpans k uid) :
    b ∈ s.boundSpans k uid ∨ send = true ∧ b.1 ∈ spansOf (s.xSrc c x) := by
  have hread := (xReads (c := c) (p := p) (e := s.firedEntry c x) (send := send) (clean_markFired (c := c) h x)).bound k uid b
    ((boundSpans_congr (fun _ => rfl) rfl).subst (motive := fun l => b ∈ l) hb)
  rw [xSrc_markFired, boundSpans_congr (loads_markFired x) (by rw [(onlyBegun_markFired (s := s) (c := c) x).only.frame])] at hread
  exact hread

theorem entry?_of_fires {x : Entry} {unit : Nat} {acc : Entry → Bool} (h : s.oldestReady c unit acc = some x) :
    ∃ a, s.entry? c x.uid = some a := by
  rw [oldestReady] at h
  split at h
  · exact Option.isSome_iff_exists.mp (List.find?_isSome.mpr ⟨x, List.mem_of_find?_eq_some h, beq_self_eq_true _⟩)
  · cases h

/-- The bytes of a pair go over once both are there: what is moved stands in the receiver's piece, and both are done. -/
theorem xPaired_moves (h : Clean s) {x : Entry} {w : XWait} {k j : Nat × Nat} {a b : Entry} {data : List Byte} {q : Piece}
    (ha : s.entry? k.1 k.2 = some a) (hb : s.entry? j.1 j.2 = some b) (hlen : (s.xExtent j.1 b.op).2 = data.length)
    (hq : piecesOf (s.pagesOf j.1) 1 (s.xExtent j.1 b.op).1 (s.xExtent j.1 b.op).2 = [q]) (hqlen : q.len = data.length)
    (hfree : Claims.FreeToWrite s j.1 j.2 q) (happ : send = true → Claims.Apart (q :: s.xSrc c x)) (hk : s.hasHeld k.1 k.2 = false) :
    let t := ((s.markFired c x).xPaired c p (s.firedEntry c x) send w).xTransfer k.1 k.2 j.1 j.2 data
    s.settle t = t ∧ readBytes (t.cells q.place) q.addr q.len = data ∧ SameMemBut q.place q.addr q.len s t ∧
      (∀ y ∈ (t.core k.1).window, y.uid = k.2 → y.phase = .done) ∧ ∀ y ∈ (t.core j.1).window, y.uid = j.2 → y.phase = .done := by
  obtain ⟨hj, hunbound⟩ := hfree
  have hu := undisturbed_xPaired (c := c) (p := p) (send := send) h x w
  have hbound : ∀ y ∈ ((s.markFired c x).xPaired c p (s.firedEntry c x) send w).boundSpans j.1 j.2, y.1.place = q.place →
      y.1.lo + y.1.len ≤ q.addr ∨ q.addr + q.len ≤ y.1.lo := fun y hy hpl => by
    rcases boundSpans_xPaired h hy with hy | ⟨hs, hy⟩
    · exact hunbound y hy hpl
    · obtain ⟨z, hz, hzy⟩ := List.mem_map.mp hy
      rw [← hzy] at hpl ⊢
      rcases (List.pairwise_cons.mp (happ hs)).1 z hz with hne | hlo | hhi
      · exact absurd hpl.symm hne
      · exact .inr hlo
      · exact .inl hhi
  generalize (s.markFired c x).xPaired c p (s.firedEntry c x) send w = u at hu hbound ⊢
  obtain ⟨a', ha', -⟩ := hu.entry? ha
  obtain ⟨b', hb', hop⟩ := hu.entry? hb
  obtain ⟨hfail, hst, hcells, hdone⟩ := xTransfer_fills hu.clean ha' hb' (by rw [hop, hu.xExtent, hlen])
    (by rw [hop, hu.xExtent, hu.pagesOf, hq]) hqlen.symm hbound ((hasHeld_congr hu.held _ _).trans hk) ((hasHeld_congr hu.held _ _).trans hj)
  rw [hu.idles.cells] at hcells
  obtain ⟨hstands, hrest⟩ := piece_stands hcells hqlen.symm
  exact ⟨settle_eq (hst.trans hu.idles.stalled) (hfail.trans hu.idles.failing), hstands, hrest, hdone⟩

end State

/-- An exchange that fires. -/
theorem exec_exchange {s : State} {c : CoreId} {x : Entry} {send : Bool} {i : Instr} {oc : Nat}
    (hi : (send, i, oc) ∈ [(true, Instr.xsend c, 0x76), (false, Instr.xrecv c, 0x77)]) (hf : Fires s c 5 oc (s.strmAccepts c) x) :
    exec i s = .next (s.settle ((s.markFired c x).fireExchange c (s.firedEntry c x) send)) := by
  simp only [List.mem_cons, List.not_mem_nil, or_false, Prod.mk.injEq] at hi
  rcases hi with ⟨rfl, rfl, rfl⟩ | ⟨rfl, rfl, rfl⟩
  · exact congrArg (fun t => Host.Outcome.next (s.settle t)) (fireOp_fires hf fun t e => t.fireExchange c e true)
  · exact congrArg (fun t => Host.Outcome.next (s.settle t)) (fireOp_fires hf fun t e => t.fireExchange c e false)

/-- The first of a pair waits with its bytes. -/
theorem exchange_waits {s : State} {c : CoreId} {p : PartId} {x : Entry} {send : Bool} {i : Instr} {oc : Nat} (h : NoErrors s)
    (hi : (send, i, oc) ∈ [(true, Instr.xsend c, 0x76), (false, Instr.xrecv c, 0x77)]) (hf : Fires s c 5 oc (s.strmAccepts c) x)
    (hok : State.XAccepted s c p x send) (hmate : (s.part (State.xPeer x)).xwaits.find? (s.xMate p x send) = none) :
    ∃ t, exec i s = .next t ∧ SameMem s t ∧ (t.part p).xwaits = (s.part p).xwaits ++ [s.xWaits c p x send] ∧
      (t.part p).xcount.get 0 (State.xKey (State.xPeer x) (State.xSlot x) send) = s.xTurn p x send + 1 ∧
      ∀ k ∈ (t.core c).window, k.uid = x.uid → k.phase = .fired := by
  have hclean := State.clean_of_noErrors h
  have hmark := State.undisturbed_markFired (c := c) hclean x
  have hreads := State.xReads (c := c) (p := p.val) (e := s.firedEntry c x) (send := send) hmark.clean
  obtain ⟨hwaits, -⟩ := State.fireExchange_accepted hmark.clean (State.xAccepted_markFired hok)
  have hgo := hwaits ((State.find_markFired hclean x).trans hmate)
  have hpart : ((s.markFired c x).xRead c p (s.firedEntry c x) send).st.part p = { s.part p with
      xcount := (s.part p).xcount.set (State.xKey (State.xPeer x) (State.xSlot x) send) (s.xTurn p x send + 1) } := by
    rw [State.part, hreads.parts]
    change ((s.markFired c x).xTurned p (s.firedEntry c x) send).part p = _
    rw [State.xTurned, State.part_modPart_self, State.part_markFired, State.xTurn_markFired]
    rfl
  have hwait : (s.markFired c x).xWaits c p (s.firedEntry c x) send = s.xWaits c p x send := by
    rw [State.xWaits, State.xWaits, State.xTurn_markFired, State.xData_markFired]
    rfl
  have hidle := hmark.idles.trans hreads.undisturbed.idles
  rw [hwait] at hgo
  generalize ((s.markFired c x).xRead c p (s.firedEntry c x) send).st = v at hgo hpart hidle
  have hend : State.Idles s ((v.modPart p fun y => { y with xwaits := y.xwaits ++ [s.xWaits c p x send] }).setPhase c x.uid .fired) :=
    ⟨hidle.failing, hidle.stalled, hidle.cells⟩
  refine ⟨_, (exec_exchange hi hf).trans ((congrArg (fun t => Host.Outcome.next (s.settle t)) hgo).trans (congrArg _ hend.next)), hend.sameMem,
    ?_, ?_, fun k hk hu => State.phase_of_mem_setPhase hk hu⟩
  · rw [State.part_setPhase, State.part_modPart_self, hpart]
  · rw [State.part_setPhase, State.part_modPart_self, hpart]
    exact FMap.get_set_self ..

theorem partitionsExchange : Claims.PartitionsExchange := by
  intro s c p x herr hp hrun peer slot e side src turn mate
  have hclean := State.clean_of_noErrors herr
  refine ⟨fun send i oc hi hf hside => ⟨fun hstopped => ?_, fun hpeer hmate => ?_⟩, fun w b q hpeer hne hb => ⟨?_, ?_⟩⟩
  · have hb := State.onlyBegun_markFired (s := s) (c := c) x
    obtain ⟨hhalted, hmem⟩ := State.settle_fault hb.aside hp hrun (s.firedEntry c x) 7 noIndex none
    refine ⟨_, (exec_exchange hi hf).trans (congrArg (fun t => Host.Outcome.next (s.settle t)) (State.fireExchange_stopped
      (hb.holds.trans hp) ((State.sideFault_markFired x _).trans hside) ((State.isRunning_markFired x _).trans hstopped))), hmem,
      hhalted.haltedWith rfl⟩
  · obtain ⟨t, hexec, hmem, hwaits, hcount, hphase⟩ := exchange_waits herr hi hf ⟨hp, hside, hpeer⟩ hmate
    exact ⟨t, s.xWaits c p x send, hexec, hmem, hwaits, rfl, rfl, rfl, rfl, rfl, rfl, rfl, hcount, hphase⟩
  · intro hf hmate hside hlen hq hqlen hfree hheld happ
    obtain ⟨a, ha⟩ := State.entry?_of_fires hf.1
    obtain ⟨-, hpair⟩ := State.fireExchange_accepted (State.clean_markFired (c := c) hclean x)
      (State.xAccepted_markFired (send := true) ⟨hp, hside, hpeer⟩)
    have hgo := hpair w ((State.find_markFired hclean x).trans hmate)
    rw [if_pos rfl, State.xData_markFired] at hgo
    obtain ⟨hsettle, hrest⟩ := State.xPaired_moves (c := c) (p := p.val) (send := true) (w := w) (k := (c.val, x.uid)) (j := (w.core, w.uid))
      hclean ha hb hlen hq hqlen hfree (fun _ => happ) hheld
    exact ⟨_, (exec_exchange (List.mem_cons_self ..) hf).trans ((congrArg (fun t => Host.Outcome.next (s.settle t)) hgo).trans
      (congrArg _ hsettle)), hrest⟩
  · intro hf hx hmate hside hlen hq hqlen hfree hheld
    obtain ⟨-, hpair⟩ := State.fireExchange_accepted (State.clean_markFired (c := c) hclean x)
      (State.xAccepted_markFired (send := false) ⟨hp, hside, hpeer⟩)
    have hgo := hpair w ((State.find_markFired hclean x).trans hmate)
    rw [if_neg Bool.false_ne_true] at hgo
    obtain ⟨hsettle, hbytes, hmem, hsent, hdone⟩ := State.xPaired_moves (c := c) (p := p.val) (send := false) (w := w) (k := (w.core, w.uid))
      (j := (c.val, x.uid)) hclean hb hx hlen hq (hqlen.trans hlen) hfree nofun hheld
    exact ⟨_, (exec_exchange (List.mem_cons_of_mem _ (List.mem_cons_self ..)) hf).trans
      ((congrArg (fun t => Host.Outcome.next (s.settle t)) hgo).trans (congrArg _ hsettle)), hbytes, hmem, hdone, hsent⟩

end Sys2Proof.Machine

open Sys2Proof Sys2Proof.Machine

/-- Settles O54: an export begins, copies its blocks, ends and is broken off; the second half of an exchange's pair moves its bytes. -/
theorem ferryAndExchange : Obligations.FerryAndExchange := ⟨ferryExports, partitionsExchange⟩
end

section
/-! PROOF. Flits received, and the messages that they hold (R352, R358, R361). -/

namespace Sys2Proof.Machine

/-! ### A message's bytes (R361, R362) -/

theorem toLen_of_length {n : Nat} {l r : List Byte} (h : l.length = n) : toLen n (l ++ r) = l := by
  rw [toLen, List.append_assoc, List.take_append_of_le_length h.ge, List.take_of_length_le h.le]

namespace Msg

variable {m : Msg}

theorem length_bytes (m : Msg) : m.bytes.length = 16 + m.data.length := by
  simp [bytes]
  omega

/-- A message's bytes name the length of its data. -/
theorem be_length (hlen : m.data.length < 65536) (r : List Byte) : be (m.bytes ++ r) 2 2 = m.data.length := by
  have h := be_append_beBytes [m.mtype, BitVec.ofNat 8 (m.stage * 64 + (if m.neigh then 32 else 0))] 2 m.data.length
    (beBytes 2 m.dest.toNat ++ (beBytes 2 m.src.toNat ++ (toLen 3 (m.path ++ fill 3 0xFF) ++ (0 :: (beBytes 4 m.tag.toNat ++ (m.data ++ r))))))
  have hbytes : m.bytes ++ r = [m.mtype, BitVec.ofNat 8 (m.stage * 64 + (if m.neigh then 32 else 0))] ++ beBytes 2 m.data.length ++
      (beBytes 2 m.dest.toNat ++ (beBytes 2 m.src.toNat ++ (toLen 3 (m.path ++ fill 3 0xFF) ++
        (0 :: (beBytes 4 m.tag.toNat ++ (m.data ++ r)))))) := by
    simp only [bytes, List.append_assoc, List.cons_append, List.nil_append]
  rw [hbytes]
  exact h.trans (Nat.mod_eq_of_lt hlen)

/-- A message is read back from its bytes, whatever follows them. -/
theorem parse_bytes (hstage : m.stage < 4) (hpath : m.path.length = 3) (hlen : m.data.length < 65536) (r : List Byte) :
    parse (m.bytes ++ r) = m := by
  have hflags : (BitVec.ofNat 8 (m.stage * 64 + (if m.neigh then 32 else 0))).toNat = m.stage * 64 + (if m.neigh then 32 else 0) := by
    refine Nat.mod_eq_of_lt ?_
    split <;> omega
  have hbytes : m.bytes ++ r = m.mtype :: BitVec.ofNat 8 (m.stage * 64 + (if m.neigh then 32 else 0)) :: (beBytes 2 m.data.length ++
      (beBytes 2 m.dest.toNat ++ (beBytes 2 m.src.toNat ++ (m.path ++ (0 :: (beBytes 4 m.tag.toNat ++ (m.data ++ r))))))) := by
    simp only [bytes, toLen_of_length hpath, List.append_assoc, List.cons_append, List.nil_append]
  have hnumber : ∀ {o} l {n v} l', l.length = o → m.bytes ++ r = l ++ (beBytes n v ++ l') → be (m.bytes ++ r) o n = v % 256 ^ n :=
    fun l n v l' ho h => by rw [h, ← ho, ← List.append_assoc, be_append_beBytes]
  have hpart : ∀ {o} l {x : List Byte} l', l.length = o → m.bytes ++ r = l ++ (x ++ l') → ((m.bytes ++ r).drop o).take x.length = x :=
    fun l x l' ho h => by rw [h, ← ho, List.drop_left, List.take_left]
  obtain ⟨fl, hfl⟩ : ∃ fl : Byte, fl = BitVec.ofNat 8 (m.stage * 64 + (if m.neigh then 32 else 0)) := ⟨_, rfl⟩
  rw [← hfl] at hbytes hflags
  have hcount := be_length hlen r
  have hdest : be (m.bytes ++ r) 4 2 = m.dest.toNat :=
    (hnumber ([m.mtype, fl] ++ beBytes 2 m.data.length) _ (by simp) (by rw [hbytes, List.append_assoc]; rfl)).trans
      (Nat.mod_eq_of_lt m.dest.isLt)
  have hsrc : be (m.bytes ++ r) 6 2 = m.src.toNat :=
    (hnumber ([m.mtype, fl] ++ beBytes 2 m.data.length ++ beBytes 2 m.dest.toNat) _ (by simp)
      (by rw [hbytes]; simp only [List.append_assoc]; rfl)).trans (Nat.mod_eq_of_lt m.src.isLt)
  have hpart8 : ((m.bytes ++ r).drop 8).take 3 = m.path := by
    have h := hpart ([m.mtype, fl] ++ beBytes 2 m.data.length ++ beBytes 2 m.dest.toNat ++ beBytes 2 m.src.toNat) (x := m.path) (o := 8) _
      (by simp) (by rw [hbytes]; simp only [List.append_assoc]; rfl)
    rw [hpath] at h
    exact h
  have htag : be (m.bytes ++ r) 12 4 = m.tag.toNat :=
    (hnumber ([m.mtype, fl] ++ beBytes 2 m.data.length ++ beBytes 2 m.dest.toNat ++ beBytes 2 m.src.toNat ++ m.path ++ [0]) _
      (by simp [hpath]) (by rw [hbytes]; simp only [List.append_assoc]; rfl)).trans (Nat.mod_eq_of_lt m.tag.isLt)
  have hdata : ((m.bytes ++ r).drop 16).take m.data.length = m.data :=
    hpart ([m.mtype, fl] ++ beBytes 2 m.data.length ++ beBytes 2 m.dest.toNat ++ beBytes 2 m.src.toNat ++ m.path ++ [0] ++
      beBytes 4 m.tag.toNat) r (by simp [hpath]) (by rw [hbytes]; simp only [List.append_assoc]; rfl)
  have h0 : (m.bytes ++ r).getD 0 0 = m.mtype := by rw [hbytes]; rfl
  have h1 : (m.bytes ++ r).getD 1 0 = fl := by rw [hbytes]; rfl
  have hstage' : fl.toNat / 64 = m.stage := by
    rw [hflags]
    split <;> omega
  have hneigh : fl.toNat.testBit 5 = m.neigh := by
    rw [hflags, Nat.testBit_eq_decide_div_mod_eq]
    cases m.neigh <;> simp <;> omega
  simp only [parse, h0, h1, hcount, hdest, hsrc, hpart8, htag, hdata, hstage', hneigh, BitVec.ofNat_toNat, BitVec.setWidth_eq]

end Msg

namespace State

variable {s t u : State} {p : Nat}

/-! ### A flit goes out (R352) -/

/-- A flit that goes out leaves all but the counters, what is sent, and of its port what it says: NAK, acknowledgement and credits. -/
structure Flown (p : Nat) (s t : State) : Prop where
  frame : t = { s with mrs := t.mrs, dieSeen := t.dieSeen, ports := t.ports, out := t.out }
  rest : t.port p = { s.port p with owed := (t.port p).owed, nakDue := (t.port p).nakDue, unacked := (t.port p).unacked }

theorem Flown.trans (h : Flown p s t) (k : Flown p t u) : Flown p s u :=
  ⟨by rw [k.frame, h.frame], by rw [k.rest, h.rest]⟩

theorem flown_pmcDie (ev unit n : Nat) : Flown p s (s.pmcDie ev unit n) := by
  have hc := pmcDie_frame s ev unit n
  rw [Counts] at hc
  rw [hc]
  exact ⟨rfl, rfl⟩

theorem flown_emit (q : PortId) (f : List Byte) : Flown p s (s.emit (.flit q f)) := by
  rw [emit_flit]
  exact ⟨rfl, rfl⟩

theorem flown_sendWith (seq ft : Nat) (credit payload : List Byte) : Flown p s (s.sendWith p seq ft credit payload) := by
  have hsaid : Flown p s (s.modPort p fun x => { x with nakDue := false, unacked := 0 }) := ⟨rfl, by rw [port_modPort_self]⟩
  rw [sendWith]
  split
  · split
    · exact hsaid.trans (flown_pmcDie ..)
    · exact (hsaid.trans (flown_pmcDie ..)).trans (flown_emit ..)
  · split
    · exact hsaid
    · exact hsaid.trans (flown_emit ..)

theorem flown_sendFlit (seq ft : Nat) (payload : List Byte) : Flown p s (s.sendFlit p seq ft payload) := by
  have howed : Flown p s (s.modPort p fun x => { x with
    owed := if (s.creditDue p).2 = 0 then x.owed else x.owed.set (s.creditDue p).1 (x.owed.get 0 (s.creditDue p).1 - (s.creditDue p).2) }) :=
    ⟨rfl, by rw [port_modPort_self]⟩
  exact howed.trans (flown_sendWith ..)

/-! ### The fields of a flit (R357, R358) -/

theorem port_pmcDie (ev unit n q : Nat) : (s.pmcDie ev unit n).port q = s.port q := by
  have hc := pmcDie_frame s ev unit n
  rw [Counts] at hc
  rw [hc]
  rfl

/-- The state in which a NAK has been counted. -/
def naked (s : State) (p : Nat) : State :=
  ((s.bump .lnkErr [p] 31 16).pmcDie 0x83 p 1).modPort p fun x => { x with naks := x.naks + 1 }

theorem port_naked (s : State) (p : Nat) : (s.naked p).port p = { s.port p with naks := (s.port p).naks + 1 } := by
  rw [naked, port_modPort_self, port_pmcDie]
  rfl

theorem applyFields_of_nak {f : List Byte} (h : (be f 2 2).testBit 3 = true) : s.applyFields p f =
    if 16 ≤ (((s.applyAcks p f).naked p).port p).naks then ((s.applyAcks p f).naked p).goRetrain p
    else ((s.applyAcks p f).naked p).resend p := by
  rw [applyFields]
  exact if_pos h

theorem applyFields_of_no_nak {f : List Byte} (h : (be f 2 2).testBit 3 = false) : s.applyFields p f = s.applyAcks p f := by
  rw [applyFields]
  exact if_neg (by rw [h]; decide)

/-- A NAK leaves of the port's record all but what it tells of the port's training, its NAKs and its acknowledgement. -/
theorem rest_applyFields (s : State) (p : Nat) (f : List Byte) : ∃ x : Port, (s.applyFields p f).port p = { (s.applyAcks p f).port p with
    trained := x.trained, offer := x.offer, naks := x.naks, nakDue := x.nakDue, unacked := x.unacked } := by
  by_cases h : (be f 2 2).testBit 3 = true
  · rw [applyFields_of_nak h]
    have hcount := port_naked (s.applyAcks p f) p
    generalize (s.applyAcks p f).naked p = v at hcount ⊢
    split
    · have hport := port_goRetrain (s := v) p
      split at hport
      · exact ⟨(v.goRetrain p).port p, by rw [hport, hcount]⟩
      · exact ⟨v.port p, by rw [hport, hcount]⟩
    · have hrest := (resent_resend v p).rest
      exact ⟨{ v.port p with nakDue := ((v.resend p).port p).nakDue, unacked := ((v.resend p).port p).unacked }, by rw [hrest, hcount]⟩
  · rw [applyFields_of_no_nak (by simpa using h)]
    exact ⟨(s.applyAcks p f).port p, rfl⟩

/-- An acknowledgement empties the replay buffer as far as it reaches. -/
theorem ackedUpto_of_split {f pl : List Byte} {pre post : List (Nat × List Byte)} (h : (be f 2 2).testBit 2 = true)
    (hr : (s.port p).replay = pre ++ (be f 2 2 / 16, pl) :: post) (hpre : ∀ r ∈ pre, r.1 ≠ be f 2 2 / 16) : s.ackedUpto p f = pre.length + 1 := by
  have hfind : ((s.port p).replay.findIdx? fun r => r.1 == be f 2 2 / 16) = some pre.length := by
    have hnone : (pre.findIdx? fun r => r.1 == be f 2 2 / 16) = none := List.findIdx?_eq_none_iff.mpr fun r hr => by simpa using hpre r hr
    rw [hr, List.findIdx?_append, hnone]
    simp [List.findIdx?_cons]
  rw [ackedUpto, if_pos h, hfind]

/-! ### What a port's record keeps of what it has taken -/

/-- The port still expects the flit that it did, and still has taken one or none. -/
structure Expects (p : Nat) (s t : State) : Prop where
  next : (t.port p).rxNext = (s.port p).rxNext
  any : (t.port p).rxAny = (s.port p).rxAny

namespace Expects

theorem refl (p : Nat) (s : State) : Expects p s s := ⟨rfl, rfl⟩

theorem trans (h : Expects p s t) (k : Expects p t u) : Expects p s u := ⟨k.next.trans h.next, k.any.trans h.any⟩

theorem of_port {x : Port} (h : t.port p = x) (hn : x.rxNext = (s.port p).rxNext) (ha : x.rxAny = (s.port p).rxAny) : Expects p s t :=
  ⟨by rw [h, hn], by rw [h, ha]⟩

theorem modPort {f : Port → Port} (hf : ∀ x, (f x).rxNext = x.rxNext ∧ (f x).rxAny = x.rxAny) : Expects p s (s.modPort p f) := by
  obtain ⟨hn, ha⟩ := hf (s.port p)
  exact of_port (port_modPort_self ..) hn ha

theorem owe (m : Msg) : Expects p s (s.owe p m) := modPort fun _ => ⟨rfl, rfl⟩

theorem applyFields (f : List Byte) : Expects p s (s.applyFields p f) := by
  obtain ⟨x, hx⟩ := (acked_applyAcks s p f).rest
  obtain ⟨y, hy⟩ := rest_applyFields s p f
  exact (of_port (t := s.applyAcks p f) hx rfl rfl).trans (of_port hy rfl rfl)

theorem arrive (m : Msg) : Expects p s (s.arrive p m) := by
  have hlost : Expects p s ((s.unroutable p).owe p m) := Expects.trans (t := s.unroutable p) ⟨rfl, rfl⟩ (owe m)
  rw [State.arrive]
  dsimp only
  split
  · exact hlost
  · split
    · exact hlost
    · split
      · exact modPort fun _ => ⟨rfl, rfl⟩
      · split
        · exact hlost
        · exact ⟨rfl, rfl⟩

theorem takeMsgs (fuel : Nat) (bs : List Byte) (s : State) : Expects p s (State.takeMsgs fuel s p bs).1 := by
  induction fuel generalizing s bs with
  | zero => exact refl p s
  | succ fuel ih =>
    cases bs with
    | nil => exact refl p s
    | cons b bs =>
      rw [State.takeMsgs]
      split
      · exact refl p s
      · split
        · exact refl p s
        · dsimp only
          split
          · exact refl p s
          · refine Expects.trans ?_ (ih _ _)
            split
            · exact arrive _
            · exact Expects.trans (t := s.bump .lnkErr [p] 63 48) ⟨rfl, rfl⟩ (owe _)

theorem flown (h : Flown p s t) : Expects p s t := of_port h.rest rfl rfl

theorem ackDue : Expects p s (s.ackDue p) := by
  rw [State.ackDue, ackTimer]
  split
  · split
    · exact flown (flown_sendFlit ..)
    · exact refl p s
  · exact refl p s

end Expects

/-! ### A message comes whole (R361) -/

theorem arrive_delivered {m : Msg} (hn : m.neigh = true) (hd : m.vc = 4 ∨ (s.moduleValid = true ∧ s.ready = true)) :
    s.arrive p m = s.modPort p fun x => { x with inbox := x.inbox ++ [m] } := by
  rcases hd with hvc | ⟨hvalid, hready⟩
  · simp [arrive, hvc, hn]
  · simp [arrive, hvalid, hready, hn]

/-- A byte stream that holds one message and then zeros. -/
theorem takeMsgs_one {m : Msg} {k : Nat} (fuel : Nat) (h0 : m.mtype ≠ 0) (hstage : m.stage < 4) (hpath : m.path.length = 3)
    (hc : carries (s.linkVersion p) m.type = true) (hlen : m.data.length ≤ maxLength m.type) :
    takeMsgs (fuel + 2) s p (m.bytes ++ fill k 0) = (s.arrive p m, []) := by
  have hmax : m.data.length < 65536 := hlen.trans_lt (by unfold maxLength; split <;> decide)
  obtain ⟨l, hl⟩ : ∃ l, m.bytes ++ fill k 0 = m.mtype :: l := ⟨_, rfl⟩
  have hlength : (m.bytes ++ fill k 0).length = 16 + m.data.length + k := by simp [Msg.length_bytes, fill]
  have hcount : be (m.bytes ++ fill k 0) 2 2 = m.data.length := Msg.be_length hmax _
  have hrest : (m.bytes ++ fill k 0).drop (16 + m.data.length) = fill k 0 := by rw [← Msg.length_bytes, List.drop_left]
  have hend : ∀ u : State, takeMsgs (fuel + 1) u p (fill k 0) = (u, []) := fun u => by
    cases k <;> rfl
  have hparse := Msg.parse_bytes hstage hpath hmax (fill k 0)
  rw [hl] at hlength hcount hrest hparse ⊢
  rw [takeMsgs]
  simp only [h0, hlength, hcount, hparse, hc, hlen, decide_true, Bool.and_self, if_true, if_false, hrest, hend]
  rw [if_neg (by omega), if_neg (by omega)]

/-! ### DATA and IDLE flits (R358) -/

/-- The state in which a DATA flit has been taken. -/
def flitTaken (s : State) (p : Nat) : State :=
  s.modPort p fun x => { x with rxNext := (x.rxNext + 1) % 4096, rxAny := true, unacked := x.unacked + 1 }

/-- The bytes of messages that port p then holds. -/
def streamOf (s : State) (p : Nat) (f : List Byte) : List Byte := (((s.flitTaken p).applyFields p f).port p).rxBytes ++ (f.drop 6).take 242

/-- The state in which those messages have come. -/
def streamTaken (s : State) (p : Nat) (f : List Byte) : State × List Byte :=
  takeMsgs ((s.streamOf p f).length + 1) ((s.flitTaken p).applyFields p f) p (s.streamOf p f)

section
variable {f : List Byte} {fec : Bool}

theorem dataReceive_damaged (h : s.linkState p = 4) (hf : flitIntact fec f = false) :
    s.dataReceive p fec f = (s.bump .lnkErr [p] 15 0).modPort p fun x => { x with nakDue := true } := by
  simp [dataReceive, (s.isUp_iff p).2 h, hf]

theorem dataReceive_reserved (h : s.linkState p = 4) (hf : flitIntact fec f = true) (ht : 3 ≤ ftype f) :
    s.dataReceive p fec f = s.bump .lnkErr [p] 63 48 := by simp [dataReceive, (s.isUp_iff p).2 h, hf, ht]

theorem dataReceive_astray (h : s.linkState p = 4) (hf : flitIntact fec f = true) (ht : ftype f = 0) (hseq : be f 0 2 / 16 ≠ (s.port p).rxNext) :
    s.dataReceive p fec f = s.modPort p fun x => { x with nakDue := true } := by simp [dataReceive, (s.isUp_iff p).2 h, hf, ht, hseq]

theorem dataReceive_next (h : s.linkState p = 4) (hf : flitIntact fec f = true) (ht : ftype f = 0) (hseq : be f 0 2 / 16 = (s.port p).rxNext) :
    s.dataReceive p fec f = ((s.streamTaken p f).1.modPort p fun x => { x with rxBytes := (s.streamTaken p f).2 }).ackDue p := by
  have hno : ¬ 3 ≤ ftype f := by omega
  rw [dataReceive]
  simp only [(s.isUp_iff p).2 h, hf, Bool.not_true, Bool.false_eq_true, if_false]
  rw [if_neg hno, if_neg (not_not.mpr ht), if_neg (not_not.mpr hseq)]
  rfl

theorem idleReceive_eq (h : s.linkState p = 4) (hf : flitIntact fec f = true) (ht : ftype f = 1) : s.idleReceive p fec f = s.applyFields p f := by
  simp [idleReceive, (s.isUp_iff p).2 h, hf, ht]

theorem idleReceive_damaged (hf : flitIntact fec f = false) : s.idleReceive p fec f = s := by simp [idleReceive, hf]

/-- The next flit in sequence is taken. -/
theorem dataReceive_takes (h : s.linkState p = 4) (hf : flitIntact fec f = true) (ht : ftype f = 0) (hseq : be f 0 2 / 16 = (s.port p).rxNext) :
    ((s.dataReceive p fec f).port p).rxNext = ((s.port p).rxNext + 1) % 4096 ∧ ((s.dataReceive p fec f).port p).rxAny = true := by
  have hend : Expects p (s.flitTaken p) (s.dataReceive p fec f) := by
    rw [dataReceive_next h hf ht hseq]
    refine (((Expects.applyFields f).trans (Expects.takeMsgs _ _ _)).trans (Expects.modPort ?_)).trans Expects.ackDue
    exact fun _ => ⟨rfl, rfl⟩
  have htaken : (s.flitTaken p).port p = { s.port p with rxNext := ((s.port p).rxNext + 1) % 4096, rxAny := true, unacked := (s.port p).unacked + 1 } :=
    port_modPort_self ..
  exact ⟨by rw [hend.next, htaken], by rw [hend.any, htaken]⟩

/-- A message for this neighbour that the next flit holds whole comes into the receive buffer. -/
theorem dataReceive_delivers (h : s.linkState p = 4) (hf : flitIntact fec f = true) (ht : ftype f = 0) (hseq : be f 0 2 / 16 = (s.port p).rxNext)
    {m : Msg} {k : Nat} (hbytes : (f.drop 6).take 242 = m.bytes ++ fill k 0) (hrx : (s.port p).rxBytes = []) (h0 : m.mtype ≠ 0)
    (hstage : m.stage < 4) (hpath : m.path.length = 3) (hc : carries (s.linkVersion p) m.type = true) (hlen : m.data.length ≤ maxLength m.type)
    (hn : m.neigh = true) (hd : m.vc = 4 ∨ (s.moduleValid = true ∧ s.ready = true)) (hcredit : creditUnits f = 0)
    (hack : (be f 2 2).testBit 2 = false) (hnak : (be f 2 2).testBit 3 = false) :
    ((s.dataReceive p fec f).port p).inbox = (s.port p).inbox ++ [m] ∧
      ((s.port p).unacked < 63 → s.dataReceive p fec f = { s with ports := (s.dataReceive p fec f).ports }) := by
  have hacks := acked_applyAcks (s.flitTaken p) p f
  rw [← applyFields_of_no_nak hnak] at hacks
  obtain ⟨x, hx⟩ := hacks.rest
  have htaken : (s.flitTaken p).port p = { s.port p with rxNext := ((s.port p).rxNext + 1) % 4096, rxAny := true, unacked := (s.port p).unacked + 1 } :=
    port_modPort_self ..
  rw [htaken] at hx
  have hframe : (s.flitTaken p).applyFields p f = { s with ports := ((s.flitTaken p).applyFields p f).ports } := hacks.none hcredit
  have hstream : s.streamOf p f = m.bytes ++ fill k 0 := by
    rw [streamOf, hx, hbytes]
    simp only [hrx, List.nil_append]
  have hmsg : s.streamTaken p f = (((s.flitTaken p).applyFields p f).modPort p fun x => { x with inbox := x.inbox ++ [m] }, []) := by
    have hlength : (s.streamOf p f).length + 1 = (14 + m.data.length + k + 1) + 2 := by
      rw [hstream]
      simp [Msg.length_bytes, fill]
      omega
    rw [streamTaken, hlength, hstream, takeMsgs_one _ h0 hstage hpath (by rw [hframe]; exact hc) hlen, arrive_delivered hn (by rw [hframe]; exact hd)]
  have hgo := dataReceive_next h hf ht hseq
  rw [hmsg] at hgo
  generalize (s.flitTaken p).applyFields p f = u at hgo hframe hx
  have hport : (((u.modPort p fun x => { x with inbox := x.inbox ++ [m] }).modPort p fun x => { x with rxBytes := [] }).port p) =
      { u.port p with inbox := (u.port p).inbox ++ [m], rxBytes := [] } := by
    rw [port_modPort_self, port_modPort_self]
  have hflown : Flown p ((u.modPort p fun x => { x with inbox := x.inbox ++ [m] }).modPort p fun x => { x with rxBytes := [] })
      (s.dataReceive p fec f) := by
    rw [hgo, ackDue, ackTimer]
    split
    · split
      · exact flown_sendFlit ..
      · exact ⟨rfl, rfl⟩
    · exact ⟨rfl, rfl⟩
  refine ⟨by rw [hflown.rest, hport, hx], fun hroom => ?_⟩
  have hquiet : ¬ 64 ≤ (((u.modPort p fun x => { x with inbox := x.inbox ++ [m] }).modPort p fun x => { x with rxBytes := [] }).port p).unacked := by
    rw [hport, hx]
    dsimp only
    omega
  rw [ackDue, if_neg hquiet] at hgo
  rw [hgo, hframe]
  rfl

/-- An IDLE flit gives credits back, and its acknowledgement empties the replay buffer. -/
theorem applyFields_effect (s : State) (p : Nat) (f : List Byte) :
    ((s.applyFields p f).port p).credits.get 0 (creditClass f) = (s.port p).credits.get 0 (creditClass f) + creditUnits f ∧
    ∀ pre pl post, (be f 2 2).testBit 2 = true → (be f 2 2).testBit 3 = false → (s.port p).replay = pre ++ (be f 2 2 / 16, pl) :: post →
      (∀ r ∈ pre, r.1 ≠ be f 2 2 / 16) → ((s.applyFields p f).port p).replay = post ∧ ((s.applyFields p f).port p).naks = 0 := by
  have hacks := acked_applyAcks s p f
  refine ⟨?_, fun pre pl post hack hnak hr hpre => ?_⟩
  · obtain ⟨x, hx⟩ := rest_applyFields s p f
    rw [hx]
    change ((s.applyAcks p f).port p).credits.get 0 (creditClass f) = _
    rw [hacks.credits]
    split
    next h => rw [h, Nat.add_zero]
    next => exact FMap.get_set_self ..
  · have hupto := ackedUpto_of_split hack hr hpre
    rw [applyFields_of_no_nak hnak, hacks.replay, hacks.naks, hupto, hr, if_pos (Nat.succ_pos _)]
    refine ⟨?_, rfl⟩
    simp

end

end State

theorem exec_dataFlit {s : State} {p : PortId} (h : Claims.FlitsPass s p) (fec : Bool) (f : List Byte) :
    exec (.dataFlitReceive p fec f) s = .next (s.dataReceive p fec f) := by
  have hgo : exec (.dataFlitReceive p fec f) s = .next (if s.flitsLost p then s else s.dataReceive p fec f) := rfl
  rw [hgo, if_neg (by rw [State.flitsLost, h]; decide)]

theorem exec_idleFlit {s : State} {p : PortId} (h : Claims.FlitsPass s p) (fec : Bool) (f : List Byte) :
    exec (.idleFlitReceive p fec f) s = .next (s.idleReceive p fec f) := by
  have hgo : exec (.idleFlitReceive p fec f) s = .next (if s.flitsLost p then s else s.idleReceive p fec f) := rfl
  rw [hgo, if_neg (by rw [State.flitsLost, h]; decide)]

/-- A flit that meets a reset of the port's crossing is lost (R517). -/
theorem exec_flit_lost {s : State} {p : PortId} (h : ¬ Claims.FlitsPass s p) (fec : Bool) (f : List Byte) :
    exec (.dataFlitReceive p fec f) s = .next s ∧ exec (.idleFlitReceive p fec f) s = .next s := by
  have hlost : s.flitsLost p = true := by rw [State.flitsLost]; simpa [Claims.FlitsPass] using h
  exact ⟨congrArg Host.Outcome.next (if_pos hlost), congrArg Host.Outcome.next (if_pos hlost)⟩

theorem flitsAreReceived : Claims.FlitsAreReceived := by
  intro s p f hup
  refine ⟨fun h fec => exec_flit_lost h fec f, fun h fec hf => ?_, fun h hf => ⟨fun ht => ?_, fun ht hseq => ?_, fun ht hseq => ?_, fun ht => ?_⟩⟩
  · refine ⟨s.dataReceive p fec f, exec_dataFlit h fec f, ?_⟩
    rw [State.dataReceive_damaged hup hf, exec_idleFlit h fec f, State.idleReceive_damaged hf]
    refine ⟨by rw [State.port_modPort_self], ?_, by rw [State.port_modPort_self]; rfl, rfl, rfl⟩
    exact State.regF_bumpBy_self s .lnkErr [p.val] 15 0 1 (by decide) (by decide)
  · rw [exec_dataFlit h, State.dataReceive_reserved hup hf ht]
  · refine ⟨s.dataReceive p true f, exec_dataFlit h true f, ?_⟩
    rw [State.dataReceive_astray hup hf ht hseq]
    exact ⟨rfl, by rw [State.port_modPort_self], by rw [State.port_modPort_self]⟩
  · obtain ⟨hnext, hany⟩ := State.dataReceive_takes hup hf ht hseq
    exact ⟨s.dataReceive p true f, exec_dataFlit h true f, hnext, hany,
      fun m k hbytes hrx h0 hstage hpath hc hlen hn hd hcredit hack hnak =>
        State.dataReceive_delivers hup hf ht hseq hbytes hrx h0 hstage hpath hc hlen hn hd hcredit hack hnak⟩
  · obtain ⟨hcredits, hacked⟩ := State.applyFields_effect s p f
    refine ⟨s.applyFields p f, ?_, (State.Expects.applyFields f).next, fun cls hcls => ?_, hacked⟩
    · rw [exec_idleFlit h, State.idleReceive_eq hup hf ht]
    · rw [hcls]
      exact hcredits

end Sys2Proof.Machine
end

section
/-! PROOF. Flits and messages sent (R353, R357, R361-R363). -/

namespace Sys2Proof.Machine

namespace State

variable {s t u : State} {p : Nat} {w : Waiting}

/-! ### The acknowledgement's timer and time-out (R353, R358) -/

theorem ackTimer_sends {p : PortId} (h : s.linkState p = 4) (hpass : Claims.FlitsPass s p) :
    ∃ t f, exec (.ackTimer p) s = .next t ∧ t.out = .flit p f :: s.out ∧ flitIntact true f = true ∧ ftype f = 1 ∧
      be f 0 2 / 16 = (s.port p).txSeq % 4096 ∧ t = { s with ports := t.ports, out := t.out } := by
  obtain ⟨f, hf, hok, htype, hseq, -⟩ := sendFlit_spec (s := s) p (seq := (s.port p).txSeq) (ft := 1) (by decide) (by decide) [] hpass
  have hgo : s.ackTimer p = s.sendFlit p (s.port p).txSeq 1 [] := if_pos ((s.isUp_iff p).2 h)
  exact ⟨_, f, congrArg Host.Outcome.next (hgo.trans hf), rfl, hok, htype, hseq, rfl⟩

theorem ackTimeout_retrains (h : s.linkState p = 4) (hr : (s.port p).replay ≠ []) :
    (s.ackTimeout p).linkState p = 5 ∧ ((s.ackTimeout p).port p).replay = (s.port p).replay := by
  have hgo : s.ackTimeout p = s.goRetrain p := if_pos (by simp [(s.isUp_iff p).2 h, hr])
  rw [hgo, linkState_goRetrain, port_goRetrain, if_pos h, if_pos h]
  exact ⟨rfl, rfl⟩

theorem ackTimeout_idle (h : s.linkState p ≠ 4 ∨ (s.port p).replay = []) : s.ackTimeout p = s := by
  refine if_neg ?_
  rw [Bool.and_eq_true, isUp_iff]
  rintro ⟨hup, hr⟩
  rcases h with h | h
  · exact h hup
  · rw [h] at hr
    exact absurd hr (by decide)

/-! ### A message's flits (R357, R362) -/

/-- The state in which a piece of a message has gone out, and is kept until it is acknowledged. -/
def pieceOut (t : State) (p : Nat) (pl : List Byte) : State :=
  (t.sendFlit p (t.port p).txSeq 0 pl).modPort p fun x =>
    { x with txSeq := ((t.port p).txSeq + 1) % 4096, replay := x.replay ++ [((t.port p).txSeq, creditBytes (t.creditDue p) ++ pl)] }

/-- Pieces have gone out on port p: the replay buffer keeps them, its credits stand. -/
structure PiecesOut (p : Nat) (l : List (List Byte)) (s t : State) : Prop where
  frame : t = { s with mrs := t.mrs, dieSeen := t.dieSeen, ports := t.ports, out := t.out }
  credits : (t.port p).credits = (s.port p).credits
  inflight : (t.port p).inflight = (s.port p).inflight
  replay : (t.port p).replay.map (·.2.drop 2) = (s.port p).replay.map (·.2.drop 2) ++ l

theorem piecesOut_pieceOut (t : State) (p : Nat) (pl : List Byte) : PiecesOut p [pl] t (t.pieceOut p pl) := by
  have hflown : Flown p t (t.sendFlit p (t.port p).txSeq 0 pl) := flown_sendFlit ..
  rw [pieceOut]
  generalize t.sendFlit p (t.port p).txSeq 0 pl = u at hflown ⊢
  have hdrop : (creditBytes (t.creditDue p) ++ pl).drop 2 = pl := by
    have hlen : (creditBytes (t.creditDue p)).length = 2 := beBytes_length ..
    rw [← hlen, List.drop_left]
  refine ⟨?_, ?_, ?_, ?_⟩
  · have hframe := hflown.frame
    rw [modPort, hframe]
  · rw [port_modPort_self, hflown.rest]
  · rw [port_modPort_self, hflown.rest]
  · rw [port_modPort_self, hflown.rest]
    simp only [List.map_append, List.map_cons, List.map_nil, hdrop]

theorem piecesOut_foldl (l : List (List Byte)) (s : State) (p : Nat) : PiecesOut p l s (l.foldl (fun t pl => t.pieceOut p pl) s) := by
  induction l using List.reverseRecOn with
  | nil => exact ⟨rfl, rfl, rfl, (List.append_nil _).symm⟩
  | append_singleton l x ih =>
    rw [List.foldl_append, List.foldl_cons, List.foldl_nil]
    generalize l.foldl _ s = u at ih ⊢
    have hone := piecesOut_pieceOut u p x
    exact ⟨by rw [hone.frame, ih.frame], hone.credits.trans ih.credits, hone.inflight.trans ih.inflight,
      by rw [hone.replay, ih.replay, List.append_assoc]⟩

/-- The state in which a message has gone out on port p, its credits taken. -/
def messageOut (s : State) (p : Nat) (w : Waiting) : State :=
  ((chunksOf 242 w.msg.bytes).foldl (fun t pl => t.pieceOut p pl) s).modPort p fun x =>
    { x with credits := x.credits.set w.msg.credClass (x.credits.get 0 w.msg.credClass - w.msg.creditsNeeded),
             inflight := x.inflight ++ [(w.msg.credClass, w.msg.creditsNeeded, w.purpose)] }

/-- A message that has gone out on port p. -/
structure MessageOut (p : Nat) (w : Waiting) (s t : State) : Prop where
  waiting : t.waiting = s.waiting
  cells : t.cells = s.cells
  replay : (t.port p).replay.map (·.2.drop 2) = (s.port p).replay.map (·.2.drop 2) ++ chunksOf 242 w.msg.bytes
  credits : (t.port p).credits.get 0 w.msg.credClass = (s.port p).credits.get 0 w.msg.credClass - w.msg.creditsNeeded
  inflight : (t.port p).inflight = (s.port p).inflight ++ [(w.msg.credClass, w.msg.creditsNeeded, w.purpose)]

theorem messageOut_sends (s : State) (p : Nat) (w : Waiting) : MessageOut p w s (s.messageOut p w) := by
  have hout := piecesOut_foldl (chunksOf 242 w.msg.bytes) s p
  rw [messageOut]
  generalize (chunksOf 242 w.msg.bytes).foldl _ s = u at hout ⊢
  refine ⟨?_, ?_, ?_, ?_, ?_⟩
  · exact (congrArg State.waiting hout.frame).trans rfl
  · exact (congrArg State.cells hout.frame).trans rfl
  · rw [port_modPort_self]
    exact hout.replay
  · rw [port_modPort_self, ← hout.credits]
    exact FMap.get_set_self ..
  · rw [port_modPort_self, ← hout.inflight]

/-- What is told of a message sent. -/
theorem MessageOut.noteSent (h : MessageOut p w s t) (v : Purpose) : MessageOut p w s (t.noteSent v) := by
  have hpmc : ∀ (ev unit n : Nat) {u : State}, MessageOut p w s u → MessageOut p w s (u.pmcDie ev unit n) := fun ev unit n u hu => by
    have hc := pmcDie_frame u ev unit n
    rw [Counts] at hc
    rw [hc]
    exact ⟨hu.waiting, hu.cells, hu.replay, hu.credits, hu.inflight⟩
  have hcl : ∀ (cl : Nat) (f : Cluster → Cluster), MessageOut p w s (t.modCl cl f) := fun cl f =>
    ⟨h.waiting, h.cells, h.replay, h.credits, h.inflight⟩
  cases v with
  | plain => exact h
  | save => exact h
  | coll => exact hpmc _ _ _ (hcl _ _)
  | shuf => exact hpmc _ _ _ (hcl _ _)

theorem MessageOut.owe (h : MessageOut p w s t) (q : Nat) (m : Msg) : MessageOut p w s (t.owe q m) := by
  obtain ⟨x, hx⟩ : ∃ x, (t.owe q m).port p = { t.port p with owed := x } := by
    by_cases hq : p = q
    · subst hq
      exact ⟨_, port_modPort_self ..⟩
    · exact ⟨(t.port p).owed, port_modPort_ne _ _ _ hq⟩
  exact ⟨h.waiting, h.cells, by rw [hx]; exact h.replay, by rw [hx]; exact h.credits, by rw [hx]; exact h.inflight⟩

theorem sendOn_sends (s : State) (p : Nat) (w : Waiting) : MessageOut p w s (s.sendOn p w) := by
  have hout := messageOut_sends s p w
  have hgo : s.sendOn p w = match w.origin with
    | some q => (s.messageOut p w).owe q { w.msg with stage := w.msg.stage - 1 }
    | none => (s.messageOut p w).noteSent w.purpose := rfl
  rw [hgo]
  split
  · exact hout.owe _ _
  · exact hout.noteSent _

/-! ### MESSAGE_SEND (R357, R361-R363) -/

/-- Port p holds a message's credits, and room for its flits. -/
def FitsOn (s : State) (p : Nat) (w : Waiting) : Prop :=
  w.msg.creditsNeeded ≤ (s.port p).credits.get 0 w.msg.credClass ∧ (s.port p).replay.length + (chunksOf 242 w.msg.bytes).length ≤ 512

/-- The state in which message i waits no more. -/
def withoutWaiting (s : State) (i : Nat) : State := { s with waiting := s.waiting.eraseIdx i }

variable {i q : Nat}

theorem messageSend_fits (h : s.waiting[i]? = some w) (hq : s.bestPort w = some q) (hf : FitsOn s q w) :
    s.messageSend i = (s.withoutWaiting i).sendOn q w := by
  simp only [messageSend, h, hq]
  exact if_pos hf

theorem messageSend_waits (h : s.waiting[i]? = some w) (hq : s.bestPort w = some q) (hf : ¬ FitsOn s q w) : s.messageSend i = s := by
  simp only [messageSend, h, hq]
  exact if_neg hf

/-- The lowest port that a message wants. -/
theorem find_wantsPort {q : PortId} (hw : wantsPort w q = true) (hlow : ∀ k < q.val, wantsPort w k = false) :
    ((List.range 16).find? fun p => wantsPort w p) = some q.val :=
  List.find?_range_eq_some.mpr ⟨hw, List.mem_range.mpr q.isLt, fun k hk => by rw [hlow k hk]; rfl⟩

theorem messageSend_lost (h : s.waiting[i]? = some w) (hnone : s.bestPort w = none) (ht : w.msg.type ≠ 0x30) (ho : w.origin = none)
    {q : PortId} (hw : wantsPort w q = true) (hlow : ∀ k < q.val, wantsPort w k = false) :
    s.messageSend i = (s.withoutWaiting i).unroutable q := by
  simp only [messageSend, h, hnone, ht, false_and, if_false, ho, Option.isSome_none, Bool.false_eq_true, find_wantsPort hw hlow]
  rfl

end State

theorem flitsAndMessagesAreSent : Claims.FlitsAndMessagesAreSent := by
  refine ⟨fun s p => ⟨fun hup => ⟨State.ackTimer_sends hup, fun hr => ?_, fun hr => ?_⟩, fun hup => ⟨?_, ?_⟩⟩, fun s i w hw => ⟨fun q hq hf => ?_,
    fun q hq hf => congrArg Host.Outcome.next (State.messageSend_waits hw hq hf), fun hnone ht ho q hwants hlow => ?_⟩⟩
  · obtain ⟨hstate, hreplay⟩ := State.ackTimeout_retrains hup hr
    exact ⟨s.ackTimeout p, rfl, hstate, hreplay⟩
  · exact congrArg Host.Outcome.next (State.ackTimeout_idle (.inr hr))
  · exact congrArg Host.Outcome.next (if_neg fun h => hup ((s.isUp_iff p).1 h))
  · exact congrArg Host.Outcome.next (State.ackTimeout_idle (.inl hup))
  · have hsent := State.sendOn_sends (s.withoutWaiting i) q w
    refine ⟨(s.withoutWaiting i).sendOn q w, congrArg Host.Outcome.next (State.messageSend_fits hw hq hf), hsent.waiting, hsent.replay,
      hsent.credits, hsent.inflight, fun pl a => ?_⟩
    rw [hsent.cells]
    rfl
  · refine ⟨(s.withoutWaiting i).unroutable q, congrArg Host.Outcome.next (State.messageSend_lost hw hnone ht ho hwants hlow), rfl, ?_, rfl⟩
    rw [State.lnkErr_unroutable, if_pos rfl]
    rfl

end Sys2Proof.Machine

open Sys2Proof Sys2Proof.Machine

/-- Settles O42: what a flit received brings, and what a message sent takes. -/
theorem linkFlitsAndMessages : Obligations.LinkFlitsAndMessages := ⟨flitsAreReceived, flitsAndMessagesAreSent⟩
end

section
/-! PROOF. A clusters' list whose keys do not rise: as a node's value goes up, its cluster comes to stand in front, and the parent that takes the
value is no longer the one that was found before (R384). -/

namespace Sys2Proof.Machine

open Sys2Proof.Tests

/-- Shards 0 and 1 of an instance in cluster 0. -/
def pairHeld : CollInst := { instance1 0 (node 0 none [] []) with nodes := [node 0 none [] [], leaf] }

/-- Clusters 1 and 0 in that order, with a node of shard 0 in each; the tick is 1, and neither instance has made progress since tick 0. -/
def twoHolders : State :=
  { collIn 2 pairHeld 1 with clusters := [(1, { Cluster.idle with coll := [instance1 0 (node 0 none [] [])] }), (0, { Cluster.idle with coll := [pairHeld] })] }

theorem twoHolders_combines : (twoHolders.clusters.map (·.1)).Nodup ∧ (twoHolders.cl 0).coll = [pairHeld] ∧
    pairHeld.nodes.find? (fun k => k.shard == 1) = some leaf ∧ twoHolders.treeOf inst.part inst.tree.toNat = some (tree 2) ∧
    State.nodeReady pairHeld (tree 2) leaf = true ∧ ((tree 2).nodes.getD 1 (none, 0)).1 = some 0 ∧
    twoHolders.remoteHolder inst.part 0 = none ∧
    twoHolders.findNode inst 0 0 = some (1, instance1 0 (node 0 none [] []), node 0 none [] []) := by
  decide +kernel

/-- The instance of cluster 1 makes no progress. -/
theorem twoHolders_idle {t : State} (ht : exec (.nodeCombine 0 inst 1) twoHolders = .next t) : ∀ y ∈ (t.cl 1).coll, y.last = 0 := by
  obtain rfl : twoHolders.settle (twoHolders.nodeCombine 0 inst 1) = t := Host.Outcome.next.inj ht
  decide +kernel

end Sys2Proof.Machine

open Sys2Proof Sys2Proof.Machine Sys2Proof.Tests

/-- Refutes O45: a node's value need not come to the parent that the module finds first. In `twoHolders` clusters 1 and 0 are listed in that order,
without repeats, and each holds a node of the parent's shard: the parent found is cluster 1's. As cluster 0's node is marked as sent, its
cluster comes to stand in front of cluster 1, and cluster 0's own node of that shard takes the value. -/
theorem not_collectives : ¬ Obligations.Collectives := by
  rintro ⟨-, -, hcombine, -⟩
  obtain ⟨hnodup, hcoll, hleaf, htree, hready, hup, hhere, hfind⟩ := twoHolders_combines
  obtain ⟨-, hgo⟩ := hcombine twoHolders 0 inst 1 pairHeld leaf (tree 2) [] hcoll rfl (by decide) hleaf htree
  obtain ⟨-, hlocal, -⟩ := hgo hready
  obtain ⟨-, htakes⟩ := hlocal 0 hup hhere
  obtain ⟨t, ht, -, -, y, hy, -, -, hlast, -⟩ := htakes 1 _ _ hnodup hfind rfl
  exact absurd ((twoHolders_idle ht y hy).symm.trans hlast) (by decide)
end
